-- ==== Sys2Proof/Word.lean ====
section
/-! DEFINITION. The word types of the CX2 model and the type of a sparse map.
Only types and the plainest arithmetic stand here; everything with a meaning of the spec's stands under Machine/. -/

namespace Sys2Proof

/-- A 32-bit register or lane. -/
abbrev Word := BitVec 32

/-- A 64-bit word: a core memory word, a blend word, a route entry. -/
abbrev DWord := BitVec 64

/-- A byte. -/
abbrev Byte := BitVec 8

/-- A string of bytes, lowest address first. -/
abbrev Bytes := List Byte

/-- A sparse map with natural-number keys, held with its keys strictly rising. -/
abbrev SMap (α : Type) := List (Nat × α)

/-- The number of cores, tiles, blocks, channels and so on of one CX2 (00 R1, 01 R27). -/
abbrev CoreId := Fin 16384
abbrev BlockId := Fin 256
abbrev TileId := Fin 8
abbrev DieId := Fin 10
abbrev HubId := Fin 2
abbrev StackId := Fin 16
/-- An HBM channel, and its Clove core: 32 s + c (08 R229, 09 R256). -/
abbrev ChanId := Fin 512
/-- A DMA engine: 16 t + e for tile engines, 128 + 32 h + e for hub engines (10 R312). -/
abbrev EngineId := Fin 192
abbrev PartId := Fin 64
abbrev RingId := Fin 65
abbrev KeyId := Fin 128
abbrev PortId := Fin 20
abbrev RailId := Fin 16
abbrev FuncId := Fin 2
/-- A collective context: 32 h + e (11 R334). -/
abbrev CtxId := Fin 64
/-- A requester of the common cache (08 R246). -/
abbrev ReqId := Fin 768
/-- A device physical address (08 R251). -/
abbrev Addr := BitVec 48

/-- The operand of an atomic: INT32 or 32 bits, INT64 or 64 bits, FP32 (08 R247). -/
inductive AWidth where
  | w32 | w64 | fp32
deriving DecidableEq, Repr

/-- How the host answers a read (17 R532): with data, with poisoned data, or not at all. -/
inductive HostKind where
  | ok | poisoned | aborted
deriving DecidableEq, Repr

end Sys2Proof
end

