-- ==== Sys2Proof/Syntax.lean ====
section
/-! DEFINITION. The commands of the CX2: one constructor for each row of spec/opcode_table.json, with the row's operands.
Identifiers are bounded by their type; words are the encoded slot or blend words of 05 R137 and 04 R105, submission
entries are the 64 bytes of 13 R405, bytes and readings are what the outside world supplies with the event. -/

namespace Sys2Proof

/-- The commands, in the table's order. -/
inductive Instr where
  /-- STRAP_SAMPLE, 01 R23 -/
  | strapSample (d : Fin 10) (code : BitVec 4)
  /-- COLLECTION_WINDOW_CLOSE, 01 R25 -/
  | collectionWindowClose
  /-- PWR_REQ_ON, 18 R564 -/
  | pwrReqOn
  /-- RAIL_SEQUENCE_NEXT, 18 R564 -/
  | railSequenceNext
  /-- PWR_REQ_OFF, 18 R565 -/
  | pwrReqOff
  /-- SHUTDOWN_RAIL_OFF, 18 R565 -/
  | shutdownRailOff
  /-- COLD_ENTRY, 18 R565 -/
  | coldEntry
  /-- PWR_GOOD_VALID, 18 R550 -/
  | pwrGoodValid (g : Fin 4)
  /-- SUPPLY_RESET, 18 R563 -/
  | supplyReset (g : Option (Fin 4))
  /-- REFCLK_LOSS, 18 R553 -/
  | refclkLoss
  /-- RAIL_OVERVOLTAGE, 21 R639 -/
  | railOvervoltage (r : RailId)
  /-- RAIL_WARNING, 18 R562 -/
  | railWarning (r : RailId)
  /-- RAIL_RECOVERY, 18 R562 -/
  | railRecovery (cycles : List (PartId × Nat))
  /-- BROWNOUT_TIMEOUT, 18 R562 -/
  | brownoutTimeout
  /-- PMBUS_POLL, 18 R552 -/
  | pmbusPoll (reads : List (RailId × (Nat × Nat × Bool)))
  /-- PMB_ALERT, 21 R634 -/
  | pmbAlert (reads : List (RailId × (Nat × Nat × Bool)))
  /-- AVS_UPDATE, 18 R555 -/
  | avsUpdate (needs : List (BlockId × Nat))
  /-- CLK_PART_WRITE, 18 R556 -/
  | clkPartWrite (f : FuncId) (p : PartId) (v : Word)
  /-- POINT_CHANGE_DONE, 18 R556 -/
  | pointChangeDone (p : PartId)
  /-- APERTURE_ADMIT, 18 R559 -/
  | apertureAdmit (t : Fin 8)
  /-- RAMP_END, 18 R559 -/
  | rampEnd (b : BlockId)
  /-- BLOCK_LOWER_END, 18 R559 -/
  | blockLowerEnd (b : BlockId)
  /-- THERMAL_SAMPLE, 18 R568 -/
  | thermalSample (kind : Fin 3) (unit : Fin 16) (idx : Fin 40) (temp : BitVec 16)
  /-- POWER_SAMPLE, 18 R574 -/
  | powerSample (tiles : List Nat) (rest : Nat)
  /-- IRIS_EVALUATION, 18 R576 -/
  | irisEvaluation
  /-- THROTTLE_PAUSE, 18 R573 -/
  | throttlePause (p : PartId)
  /-- COOLANT_READ, 18 R580 -/
  | coolantRead (tin : Int) (tout : Int)
  /-- FLOW_PULSE, 21 R635 -/
  | flowPulse
  /-- COOLANT_PWM_UPDATE, 18 R582 -/
  | coolantPwmUpdate
  /-- DEVICE_WINDOW_EXPIRY, 17 R545 -/
  | deviceWindowExpiry (cls : Fin 5)
  /-- ENTROPY_HEALTH_FAIL, 15 R460 -/
  | entropyHealthFail
  /-- MGMT_READY_ENTRY, 19 R583 -/
  | mgmtReadyEntry (keyOk : Bool) (l0 : Bool) (l1 : Bool)
  /-- CLOCKS_AND_MESH_STAGE, 19 R584 -/
  | clocksAndMeshStage (pcieRef : Bool) (loupeOk : Bool)
  /-- MEMORY_TRAINING, 19 R589 -/
  | memoryTraining (retrained : Bool) (ports : List (Fin 16896)) (chans : List ChanId) (spares : List (ChanId × Fin 17))
  /-- CHECKER_SELF_TEST, 17 R535 -/
  | checkerSelfTest (blocks : List BlockId) (outside : Bool)
  /-- BRING_UP_ZERO_FILL, 19 R584 -/
  | bringUpZeroFill
  /-- MEMORY_TEST_WAVE, 19 R590 -/
  | memoryTestWave (rows : List (CoreId × Fin 1024)) (marks : List (CoreId × Fin 10)) (bad : List (Fin 16896)) (hbmRows : List (ChanId × Nat)) (chans : List ChanId) (hub : Bool)
  /-- LINKS_STAGE, 19 R598 -/
  | linksStage (bad : List (Fin 14 × Fin 16 × Fin 2 × Fin 19))
  /-- BLOCK_SELF_TEST, 19 R592 -/
  | blockSelfTest (bad : List (Fin 16896))
  /-- BLOCK_RELEASE, 19 R594 -/
  | blockRelease (b : BlockId)
  /-- BRING_UP_COMPLETE, 19 R586 -/
  | bringUpComplete
  /-- CONFIG_REQUEST, 13 R387 -/
  | configRequest (f : FuncId) (off : Fin 4096) (write : Option Word)
  /-- PERST_ASSERT, 21 R631 -/
  | perstAssert (f : FuncId)
  /-- REGISTER_WRITE, 13 R396 -/
  | registerWrite (f : FuncId) (db : Bool) (line : BitVec 20) (en : BitVec 64) (data : BitVec 512)
  /-- REGISTER_READ_CLEAR, 13 R391 -/
  | registerReadClear (f : FuncId) (db : Bool) (line : BitVec 20) (en : BitVec 64)
  /-- SLICE_LAYER_WRITE, 07 R219 -/
  | sliceLayerWrite (f : FuncId) (n : CoreId) (v : Word)
  /-- LANE_MAP_COMMIT, 16 R490 -/
  | laneMapCommit (f : FuncId) (mode : Fin 4)
  /-- RING_ENABLE, 13 R402 -/
  | ringEnable (f : FuncId) (r : RingId) (ctrl : Word)
  /-- RING_DISABLE, 13 R402 -/
  | ringDisable (f : FuncId) (r : RingId) (ctrl : Word)
  /-- RING_DRAINED, 13 R402 -/
  | ringDrained (r : RingId)
  /-- SQ_TAIL, 13 R403 -/
  | sqTail (f : FuncId) (r : RingId) (v : Word)
  /-- CQ_HEAD, 13 R403 -/
  | cqHead (f : FuncId) (r : RingId) (v : Word)
  /-- SQ_ENTRY_FETCH, 14 R424 -/
  | sqEntryFetch (kind : HostKind) (e : BitVec 512)
  /-- REFUSED_REPLY, 00 R13 -/
  | refusedReply (k : Nat)
  /-- COMPLETION_WRITE, 13 R407 -/
  | completionWrite (r : RingId)
  /-- RING_IRQ_TIMER, 13 R408 -/
  | ringIrqTimer (r : RingId)
  /-- APERTURE_READ, 13 R418 -/
  | apertureRead (f : FuncId) (off : BitVec 36) (n : Fin 4097)
  /-- APERTURE_WRITE, 13 R417 -/
  | apertureWrite (f : FuncId) (off : BitVec 36) (data : List Byte) (ep : Bool)
  /-- MCTP_REQUEST, 14 R423 -/
  | mctpRequest (e : BitVec 512)
  /-- IDENTIFY, 14 R431 -/
  | identify (k : Nat)
  /-- RESULT_RELEASE, 13 R413 -/
  | resultRelease (k : Nat)
  /-- REG_ACCESS_READ, 14 R430 -/
  | regAccessRead (k : Nat)
  /-- REG_ACCESS_WRITE, 14 R430 -/
  | regAccessWrite (k : Nat)
  /-- PARTITION_CREATE, 14 R443 -/
  | partitionCreate (k : Nat)
  /-- PARTITION_DESTROY, 14 R444 -/
  | partitionDestroy (k : Nat)
  /-- FACET_LOAD, 12 R370 -/
  | facetLoad (k : Nat) (img : List Byte) (kind : HostKind) (at_ : Nat)
  /-- FACET_ACTIVATE, 12 R377 -/
  | facetActivate (k : Nat) (bad : Fin 3) (sect : Nat)
  /-- FACET_ACTIVATE_DEVICE, 12 R381 -/
  | facetActivateDevice (k : Nat) (bad : Fin 3) (sect : Nat)
  /-- CLOVE_LOAD, 09 R281 -/
  | cloveLoad (k : Nat) (img : List Byte) (kind : HostKind)
  /-- RUN, 14 R433 -/
  | run (k : Nat)
  /-- STOP_STEP_BOUNDARY, 14 R435 -/
  | stopStepBoundary (k : Nat)
  /-- STOP_IMMEDIATE, 14 R435 -/
  | stopImmediate (k : Nat)
  /-- STOP_TAKES_EFFECT, 14 R435 -/
  | stopTakesEffect (k : Nat)
  /-- CKPT_QUIESCE_TIMEOUT, 11 R342 -/
  | ckptQuiesceTimeout (p : PartId)
  /-- HALT_FREEZE, 14 R434 -/
  | haltFreeze (p : PartId)
  /-- RESUME, 14 R438 -/
  | resume (k : Nat)
  /-- REPLAY_LIVE, 11 R347 -/
  | replayLive (k : Nat)
  /-- REPLAY_LOGGED, 11 R347 -/
  | replayLogged (k : Nat)
  /-- SEQ_OPEN, 10 R291 -/
  | seqOpen (k : Nat)
  /-- SEQ_FORK, 10 R299 -/
  | seqFork (k : Nat)
  /-- SEQ_PARK, 10 R292 -/
  | seqPark (k : Nat)
  /-- PARK_DRAIN_TIMEOUT, 10 R292 -/
  | parkDrainTimeout (k : Nat)
  /-- SEQ_UNPARK, 10 R291 -/
  | seqUnpark (k : Nat)
  /-- SEQ_CLOSE, 10 R292 -/
  | seqClose (k : Nat)
  /-- SEQ_EVICT, 10 R314 -/
  | seqEvict (k : Nat)
  /-- SEQ_RESTORE, 10 R314 -/
  | seqRestore (k : Nat) (pages : List (Nat × HostKind × List Byte))
  /-- SEQ_READ, 10 R291 -/
  | seqRead (k : Nat)
  /-- KEY_INSTALL_LINK, 15 R465 -/
  | keyInstallLink (k : Nat) (data : BitVec 256) (kind : HostKind)
  /-- KEY_INSTALL_MEMORY, 15 R464 -/
  | keyInstallMemory (k : Nat)
  /-- MEMORY_REFILL_END, 15 R464 -/
  | memoryRefillEnd (p : PartId)
  /-- KEY_INSTALL_IMAGE_VERIFY, 15 R461 -/
  | keyInstallImageVerify (k : Nat) (data : List Byte) (kind : HostKind)
  /-- KEY_RETIRE, 15 R471 -/
  | keyRetire (k : Nat)
  /-- RETIRE_DRAIN_END, 15 R472 -/
  | retireDrainEnd (k : Nat)
  /-- DEBUG_CONSENT_GRANT, 15 R477 -/
  | debugConsentGrant (k : Nat)
  /-- DEBUG_CONSENT_REVOKE, 15 R477 -/
  | debugConsentRevoke (k : Nat)
  /-- LICENCE_INSTALL, 15 R485 -/
  | licenceInstall (k : Nat) (img : List Byte) (kind : HostKind)
  /-- AMEND_APPLY_STORE, 14 R448 -/
  | amendApplyStore (k : Nat) (img : List Byte) (kind : HostKind)
  /-- AMEND_APPLY_LIVE, 14 R448 -/
  | amendApplyLive (k : Nat) (img : List Byte) (kind : HostKind)
  /-- SCRUB_SRAM, 14 R440 -/
  | scrubSram (k : Nat)
  /-- SCRUB_SLICE, 07 R225 -/
  | scrubSlice (k : Nat)
  /-- SCRUB_HBM, 14 R440 -/
  | scrubHbm (k : Nat)
  /-- SELF_TEST, 14 R441 -/
  | selfTest (k : Nat) (bad : List (Fin 5 × BlockId))
  /-- SPARE_SLICE_ROW, 07 R227 -/
  | spareSliceRow (k : Nat)
  /-- SPARE_HBM_ROW, 19 R599 -/
  | spareHbmRow (k : Nat)
  /-- SPARE_UCIE_LANE, 19 R598 -/
  | spareUcieLane (k : Nat)
  /-- SPARE_COLUMN, 19 R600 -/
  | spareColumn (k : Nat)
  /-- SPARE_BLOCK, 19 R601 -/
  | spareBlock (k : Nat)
  /-- CALIBRATE, 18 R571 -/
  | calibrate (k : Nat) (adj : Nat)
  /-- COUNTER_CONFIG, 20 R605 -/
  | counterConfig (k : Nat)
  /-- COUNTER_READ, 20 R606 -/
  | counterRead (k : Nat)
  /-- TRACE_CONFIG, 20 R612 -/
  | traceConfig (k : Nat)
  /-- TRACE_READ, 20 R615 -/
  | traceRead (k : Nat)
  /-- POWER_CAP_SET, 18 R577 -/
  | powerCapSet (k : Nat)
  /-- THERMAL_READ, 14 R432 -/
  | thermalRead (k : Nat)
  /-- LINK_STATUS, 16 R514 -/
  | linkStatus (k : Nat)
  /-- PORT_RETRAIN, 16 R513 -/
  | portRetrain (k : Nat)
  /-- PORT_DISABLE, 16 R513 -/
  | portDisable (k : Nat)
  /-- PORT_ENABLE, 16 R513 -/
  | portEnable (k : Nat)
  /-- PORT_RELEASE_QUARANTINE, 16 R513 -/
  | portReleaseQuarantine (k : Nat)
  /-- LOUPE_HANDOVER, 14 R449 -/
  | loupeHandover
  /-- SERVICE_PACKET_RECEIVE, 17 R518 -/
  | servicePacketReceive (hop : Nat) (ok : Bool)
  /-- SERVICE_SCRUB, 17 R540 -/
  | serviceScrub
  /-- BUNDLE_ISSUE, 05 R129 -/
  | bundleIssue (n : CoreId)
  /-- KNOWN_ANSWER_TEST_END, 17 R543 -/
  | knownAnswerTestEnd (n : CoreId) (pass : Bool)
  /-- JMP, 05 R143 -/
  | jmp (n : CoreId) (w : Word)
  /-- LSET, 05 R143 -/
  | lset (n : CoreId) (w : Word)
  /-- LEND, 05 R143 -/
  | lend (n : CoreId) (w : Word)
  /-- WAIT, 05 R147 -/
  | wait (n : CoreId) (w : Word)
  /-- WAIT_SATISFIED, 05 R147 -/
  | waitSatisfied (n : CoreId)
  /-- WAIT_PAUSE, 05 R150 -/
  | waitPause (p : PartId) (cycles : Nat)
  /-- WAIT_TIMEOUT, 05 R150 -/
  | waitTimeout (n : CoreId)
  /-- TADD, 05 R148 -/
  | tadd (n : CoreId) (w : Word)
  /-- SMOV, 05 R143 -/
  | smov (n : CoreId) (w : Word)
  /-- SALU, 05 R143 -/
  | salu (n : CoreId) (w : Word)
  /-- SADDI, 05 R143 -/
  | saddi (n : CoreId) (w : Word)
  /-- AADD, 05 R143 -/
  | aadd (n : CoreId) (w : Word)
  /-- AMOV, 05 R143 -/
  | amov (n : CoreId) (w : Word)
  /-- SETP, 05 R143 -/
  | setp (n : CoreId) (w : Word)
  /-- PLOG, 05 R143 -/
  | plog (n : CoreId) (w : Word)
  /-- SRD, 05 R143 -/
  | srd (n : CoreId) (w : Word)
  /-- HALT, 05 R151 -/
  | halt (n : CoreId) (w : Word)
  /-- DEFERRED_PAUSE, 05 R135 -/
  | deferredPause (p : PartId)
  /-- REFRESH_STARVED, 05 R135 -/
  | refreshStarved (p : PartId)
  /-- LDS_LD, 05 R153 -/
  | ldsLd (n : CoreId) (w : Word)
  /-- LDS_ST, 05 R153 -/
  | ldsSt (n : CoreId) (w : Word)
  /-- LDS_BFILL, 05 R153 -/
  | ldsBfill (n : CoreId) (w : Word)
  /-- SLICE_BEAT, 07 R214 -/
  | sliceBeat (n : CoreId)
  /-- SLD, 05 R155 -/
  | sld (n : CoreId) (w : Word)
  /-- SST, 07 R208 -/
  | sst (n : CoreId) (w : Word)
  /-- VLD, 05 R155 -/
  | vld (n : CoreId) (w : Word)
  /-- VST, 05 R155 -/
  | vst (n : CoreId) (w : Word)
  /-- TRD, 05 R156 -/
  | trd (n : CoreId) (w : Word)
  /-- BST, 05 R154 -/
  | bst (n : CoreId) (w : Word)
  /-- LST, 05 R154 -/
  | lst (n : CoreId) (w : Word)
  /-- OPE_MMA, 03 R76 -/
  | opeMma (n : CoreId) (w : Word)
  /-- OPE_UPDATE, 03 R77 -/
  | opeUpdate (n : CoreId)
  /-- POISON_FAULT_DEADLINE, 17 R525 -/
  | poisonFaultDeadline (p : PartId)
  /-- OPE_LOAD, 03 R79 -/
  | opeLoad (n : CoreId) (w : Word)
  /-- OPE_DRAIN, 03 R80 -/
  | opeDrain (n : CoreId) (w : Word)
  /-- MVP_RUN, 03 R84 -/
  | mvpRun (n : CoreId) (w : Word)
  /-- MVP_PRODUCT, 03 R87 -/
  | mvpProduct (n : CoreId)
  /-- MVP_DRAIN, 03 R89 -/
  | mvpDrain (n : CoreId) (w : Word)
  /-- BLEND, 04 R103 -/
  | blend (n : CoreId) (w : Word)
  /-- SINGLE_VECTOR_OP, 05 R161 -/
  | singleVectorOp (n : CoreId) (w : Word)
  /-- NET_SEND, 05 R162 -/
  | netSend (n : CoreId) (w : Word)
  /-- SENDV, 05 R162 -/
  | sendv (n : CoreId) (w : Word)
  /-- NET_RECV, 05 R162 -/
  | netRecv (n : CoreId) (w : Word)
  /-- RECVV, 05 R162 -/
  | recvv (n : CoreId) (w : Word)
  /-- NOP, 04 R108 -/
  | nop (n : CoreId) (w : DWord)
  /-- END, 04 R104 -/
  | endBlend (n : CoreId) (w : DWord)
  /-- LOOP, 04 R117 -/
  | loop (n : CoreId) (w : DWord)
  /-- FADD, 04 R108 -/
  | fadd (n : CoreId) (w : DWord)
  /-- FSUB, 04 R108 -/
  | fsub (n : CoreId) (w : DWord)
  /-- FMUL, 04 R108 -/
  | fmul (n : CoreId) (w : DWord)
  /-- FMA, 04 R108 -/
  | fma (n : CoreId) (w : DWord)
  /-- FMIN, 04 R110 -/
  | fmin (n : CoreId) (w : DWord)
  /-- FMAX, 04 R110 -/
  | fmax (n : CoreId) (w : DWord)
  /-- FABS, 04 R108 -/
  | fabs (n : CoreId) (w : DWord)
  /-- FNEG, 04 R108 -/
  | fneg (n : CoreId) (w : DWord)
  /-- FCMP, 04 R110 -/
  | fcmp (n : CoreId) (w : DWord)
  /-- SEL, 04 R108 -/
  | sel (n : CoreId) (w : DWord)
  /-- MOV, 04 R108 -/
  | mov (n : CoreId) (w : DWord)
  /-- EXP2, 04 R111 -/
  | exp2 (n : CoreId) (w : DWord)
  /-- LOG2, 04 R111 -/
  | log2 (n : CoreId) (w : DWord)
  /-- RCP, 04 R111 -/
  | rcp (n : CoreId) (w : DWord)
  /-- RSQ, 04 R111 -/
  | rsq (n : CoreId) (w : DWord)
  /-- IADD, 04 R108 -/
  | iadd (n : CoreId) (w : DWord)
  /-- ISUB, 04 R108 -/
  | isub (n : CoreId) (w : DWord)
  /-- IMUL, 04 R108 -/
  | imul (n : CoreId) (w : DWord)
  /-- AND, 04 R108 -/
  | andOp (n : CoreId) (w : DWord)
  /-- OR, 04 R108 -/
  | orOp (n : CoreId) (w : DWord)
  /-- XOR, 04 R108 -/
  | xorOp (n : CoreId) (w : DWord)
  /-- SHL, 04 R108 -/
  | shl (n : CoreId) (w : DWord)
  /-- SHR, 04 R108 -/
  | shr (n : CoreId) (w : DWord)
  /-- SHRA, 04 R108 -/
  | shra (n : CoreId) (w : DWord)
  /-- ICMP, 04 R108 -/
  | icmp (n : CoreId) (w : DWord)
  /-- CVTF, 04 R108 -/
  | cvtf (n : CoreId) (w : DWord)
  /-- CVTI, 04 R108 -/
  | cvti (n : CoreId) (w : DWord)
  /-- CVTP, 04 R114 -/
  | cvtp (n : CoreId) (w : DWord)
  /-- MXQ, 04 R114 -/
  | mxq (n : CoreId) (w : DWord)
  /-- PERM, 04 R113 -/
  | perm (n : CoreId) (w : DWord)
  /-- RSUM, 04 R112 -/
  | rsum (n : CoreId) (w : DWord)
  /-- RMAX, 04 R112 -/
  | rmax (n : CoreId) (w : DWord)
  /-- PSUM, 04 R112 -/
  | psum (n : CoreId) (w : DWord)
  /-- BINS, 04 R108 -/
  | bins (n : CoreId) (w : DWord)
  /-- MFIRST, 04 R108 -/
  | mfirst (n : CoreId) (w : DWord)
  /-- LANEID, 04 R108 -/
  | laneid (n : CoreId) (w : DWord)
  /-- BLEND_LD, 04 R115 -/
  | blendLd (n : CoreId) (w : DWord)
  /-- BLEND_ST, 04 R116 -/
  | blendSt (n : CoreId) (w : DWord)
  /-- STH, 04 R116 -/
  | sth (n : CoreId) (w : DWord)
  /-- STS, 04 R116 -/
  | sts (n : CoreId) (w : DWord)
  /-- BPSET, 04 R108 -/
  | bpset (n : CoreId) (w : DWord)
  /-- CHW, 04 R118 -/
  | chw (n : CoreId) (w : DWord)
  /-- BLEND_SEND, 04 R119 -/
  | blendSend (n : CoreId) (w : DWord)
  /-- APPEND, 04 R120 -/
  | append (n : CoreId) (w : DWord)
  /-- RNG, 04 R122 -/
  | rng (n : CoreId) (w : DWord)
  /-- TKCLR, 04 R123 -/
  | tkclr (n : CoreId) (w : DWord)
  /-- TKIN, 04 R123 -/
  | tkin (n : CoreId) (w : DWord)
  /-- TKOUT, 04 R123 -/
  | tkout (n : CoreId) (w : DWord)
  /-- ROUTE_ENTRY_APPLY, 06 R176 -/
  | routeEntryApply (n : CoreId)
  /-- NO_FLIT, 03 R92 -/
  | noFlit (n : CoreId)
  /-- FLIT_ARRIVAL, 06 R170 -/
  | flitArrival (n : CoreId) (port : Fin 4) (err : BitVec 512) (vflip : BitVec 2)
  /-- CROSSING_FRAME_ARRIVAL, 06 R188 -/
  | crossingFrameArrival (e : Fin 14) (m : Fin 16) (dir : Fin 2) (err : List (Fin 72 × Byte))
  /-- HUB_TO_TILE_SEND, 06 R194 -/
  | hubToTileSend (h : HubId) (y : Fin 64)
  /-- BASE_REFRESH_WINDOW, 07 R220 -/
  | baseRefreshWindow (p : PartId)
  /-- MAINTENANCE_BEAT, 07 R224 -/
  | maintenanceBeat (n : CoreId)
  /-- SPARE_ROW_COPY_DONE, 07 R227 -/
  | spareRowCopyDone (n : CoreId)
  /-- ZERO_FILL_DONE, 07 R212 -/
  | zeroFillDone (b : BlockId) (slices : Bool)
  /-- HBM_GRANT, 08 R234 -/
  | hbmGrant (c : ChanId) (ask : List ReqId)
  /-- ACT_WINDOW_END, 09 R282 -/
  | actWindowEnd (c : ChanId) (peak : Nat)
  /-- DMA_COPY, 08 R239 -/
  | dmaCopy (d : EngineId)
  /-- DMA_FILL, 08 R239 -/
  | dmaFill (d : EngineId)
  /-- DMA_GRANULE_MOVE, 08 R241 -/
  | dmaGranuleMove (d : EngineId) (kind : HostKind) (host : BitVec 512)
  /-- DESCRIPTOR_END, 08 R241 -/
  | descriptorEnd (d : EngineId)
  /-- WALK_APPEND, 10 R303 -/
  | walkAppend (d : EngineId)
  /-- APPEND_ENTRY_PLACE, 10 R305 -/
  | appendEntryPlace (d : EngineId)
  /-- POOL_POP_RETRY, 10 R298 -/
  | poolPopRetry (d : EngineId)
  /-- WALK_GATHER, 10 R308 -/
  | walkGather (d : EngineId)
  /-- CACHE_READ, 08 R244 -/
  | cacheRead (r : ReqId) (a : Addr) (n : Fin 129)
  /-- CACHE_WRITE, 08 R244 -/
  | cacheWrite (r : ReqId) (a : Addr) (data : List Byte) (poi : Bool)
  /-- ATOMIC_ADD, 08 R247 -/
  | atomicAdd (r : ReqId) (a : Addr) (w : AWidth) (x : DWord)
  /-- ATOMIC_MIN, 08 R247 -/
  | atomicMin (r : ReqId) (a : Addr) (w : AWidth) (x : DWord)
  /-- ATOMIC_MAX, 08 R247 -/
  | atomicMax (r : ReqId) (a : Addr) (w : AWidth) (x : DWord)
  /-- ATOMIC_CAS, 08 R247 -/
  | atomicCas (r : ReqId) (a : Addr) (w : AWidth) (cmp : DWord) (x : DWord)
  /-- ATOMIC_SWAP, 08 R247 -/
  | atomicSwap (r : ReqId) (a : Addr) (w : AWidth) (x : DWord)
  /-- INCW, 08 R247 -/
  | incw (r : ReqId) (a : Addr) (x : Word)
  /-- REFINC, 08 R247 -/
  | refinc (r : ReqId) (a : Addr)
  /-- REFDEC, 08 R247 -/
  | refdec (r : ReqId) (a : Addr)
  /-- POP, 08 R248 -/
  | pop (r : ReqId) (h : Addr) (e : Addr)
  /-- PUSH, 08 R248 -/
  | push (r : ReqId) (h : Addr) (e : Addr) (x : Word)
  /-- RED32, 08 R249 -/
  | red32 (r : ReqId) (a : Addr) (xs : List Word) (poi : Bool)
  /-- RED16, 08 R249 -/
  | red16 (r : ReqId) (a : Addr) (xs : List (BitVec 16)) (poi : Bool)
  /-- CLOVE_INSTRUCTION, 09 R256 -/
  | cloveInstruction (c : ChanId)
  /-- CB_COPY, 09 R264 -/
  | cbCopy (c : ChanId) (w : Word)
  /-- CB_FILL, 09 R264 -/
  | cbFill (c : ChanId) (w : Word)
  /-- CB_CMP, 09 R264 -/
  | cbCmp (c : ChanId) (w : Word)
  /-- CB_CHSEND, 09 R269 -/
  | cbChsend (c : ChanId) (w : Word)
  /-- CB_CHRECV, 09 R269 -/
  | cbChrecv (c : ChanId) (w : Word)
  /-- CB_CHPOLL, 09 R269 -/
  | cbChpoll (c : ChanId) (w : Word)
  /-- CHAIN_MESSAGE_ARRIVAL, 09 R270 -/
  | chainMessageArrival (c : ChanId) (up : Bool)
  /-- CB_FENCE, 09 R261 -/
  | cbFence (c : ChanId) (w : Word)
  /-- CB_ATOM, 09 R266 -/
  | cbAtom (c : ChanId) (w : Word)
  /-- CB_TRAISE, 09 R267 -/
  | cbTraise (c : ChanId) (w : Word)
  /-- CB_DONE, 09 R275 -/
  | cbDone (c : ChanId) (w : Word)
  /-- CB_WAITCMD, 09 R274 -/
  | cbWaitcmd (c : ChanId) (w : Word)
  /-- COMMAND_POST, 09 R273 -/
  | commandPost (c : ChanId) (i : Fin 16) (r : ReqId)
  /-- CLOVE_COPY, 09 R277 -/
  | cloveCopy (c : ChanId)
  /-- CLOVE_FILL, 09 R277 -/
  | cloveFill (c : ChanId)
  /-- CLOVE_COMPARE, 09 R277 -/
  | cloveCompare (c : ChanId)
  /-- CLOVE_GATHER, 09 R277 -/
  | cloveGather (c : ChanId)
  /-- CLOVE_PAGE_COW, 10 R313 -/
  | clovePageCow (c : ChanId)
  /-- CLOVE_MIGRATE, 10 R313 -/
  | cloveMigrate (c : ChanId)
  /-- CLOVE_SCRUB, 09 R277 -/
  | cloveScrub (c : ChanId)
  /-- TENANT_ENTRY, 09 R279 -/
  | tenantEntry (c : ChanId)
  /-- TENANT_TIMEOUT, 09 R280 -/
  | tenantTimeout (c : ChanId)
  /-- COLL_INSTANCE_START, 11 R327 -/
  | collInstanceStart (x : CtxId)
  /-- COLL_SEGMENT_SEND, 11 R326 -/
  | collSegmentSend (x : CtxId)
  /-- COLL_SEGMENT_RECEIVE, 11 R331 -/
  | collSegmentReceive (x : CtxId) (adder : DWord)
  /-- COLL_INSTANCE_END, 11 R329 -/
  | collInstanceEnd (x : CtxId)
  /-- COLL_LIMIT_EXPIRY, 11 R329 -/
  | collLimitExpiry (x : CtxId)
  /-- STEP_LOG_WRITE, 11 R322 -/
  | stepLogWrite (p : PartId)
  /-- REPLICA_PASS_START, 11 R338 -/
  | replicaPassStart (p : PartId)
  /-- REPLICA_PASS_END, 11 R339 -/
  | replicaPassEnd (p : PartId)
  /-- REPLICA_INTERVAL_DEADLINE, 11 R339 -/
  | replicaIntervalDeadline (p : PartId)
  /-- RECOVERY_WINDOW_CLOSE, 17 R531 -/
  | recoveryWindowClose (p : PartId)
  /-- FRAME_RECEIVE, 16 R498 -/
  | frameReceive (q : PortId) (frame : List Byte)
  /-- DATA, 16 R500 -/
  | dataFrame (q : PortId)
  /-- ACK, 16 R502 -/
  | ackFrame (q : PortId)
  /-- ACK_DELAY_TIMER, 16 R501 -/
  | ackDelayTimer (i : Nat)
  /-- RETRANSMIT_TIMEOUT, 16 R502 -/
  | retransmitTimeout (i : Nat)
  /-- HEARTBEAT, 16 R504 -/
  | heartbeat (q : PortId)
  /-- HEARTBEAT_SEND, 16 R504 -/
  | heartbeatSend
  /-- PEER_ABSENT, 16 R512 -/
  | peerAbsent (dev : Addr)
  /-- ANNOUNCE, 15 R466 -/
  | announce (q : PortId)
  /-- ANNOUNCE_ACK, 15 R467 -/
  | announceAck (q : PortId)
  /-- ANNOUNCE_REPEAT, 16 R506 -/
  | announceRepeat (k : KeyId)
  /-- NOTICE, 11 R333 -/
  | notice (q : PortId)
  /-- REPLICA, 11 R339 -/
  | replica (q : PortId)
  /-- EXPEL, 11 R340 -/
  | expel (q : PortId)
  /-- SESSION_IDLE_TIMEOUT, 16 R504 -/
  | sessionIdleTimeout (dev : Addr)
  /-- GET_VERSION, 15 R478 -/
  | getVersion (t : Fin 3) (req : List Byte)
  /-- GET_CAPABILITIES, 15 R478 -/
  | getCapabilities (t : Fin 3) (req : List Byte) (size : Nat)
  /-- NEGOTIATE_ALGORITHMS, 15 R478 -/
  | negotiateAlgorithms (t : Fin 3) (req : List Byte) (offers : Bool)
  /-- GET_DIGESTS, 15 R478 -/
  | getDigests (t : Fin 3) (req : List Byte)
  /-- GET_CERTIFICATE, 15 R478 -/
  | getCertificate (t : Fin 3) (slot : Fin 8) (req : List Byte)
  /-- CHALLENGE, 15 R478 -/
  | challenge (t : Fin 3) (slot : Fin 8) (sum : Bool) (req : List Byte)
  /-- GET_MEASUREMENTS, 15 R480 -/
  | getMeasurements (t : Fin 3) (index : Byte) (sign : Bool) (req : List Byte)
  /-- CHUNK_GET, 15 R478 -/
  | chunkGet (t : Fin 3)
  /-- KEY_EXCHANGE, 16 R504 -/
  | keyExchange (q : PortId)
  /-- FINISH, 16 R504 -/
  | finish (q : PortId)
  /-- LINK_UP, 16 R507 -/
  | linkUp (q : PortId) (partner : Addr)
  /-- SIGNAL_DETECT, 16 R507 -/
  | signalDetect (q : PortId)
  /-- SIGNAL_LOSS_TIMEOUT, 16 R507 -/
  | signalLossTimeout (q : PortId)
  /-- PORT_FAULT_EVENT, 16 R509 -/
  | portFaultEvent (q : PortId) (fec : Nat)
  /-- TRACE_STREAM_WRITE, 20 R614 -/
  | traceStreamWrite (i : Fin 128) (w : Fin 32) (late : Bool)
  /-- EXTEST, 20 R617 -/
  | extest (pins : Nat)
  /-- SAMPLE_PRELOAD, 20 R617 -/
  | samplePreload (pins : Nat)
  /-- IDCODE, 20 R617 -/
  | idcode
  /-- DTMCS, 20 R618 -/
  | dtmcs
  /-- DMI, 20 R618 -/
  | dmi (addr : Byte) (data : Word) (op : Fin 4)
  /-- REGACC, 20 R617 -/
  | regacc (v : BitVec 66)
  /-- MEMACC, 20 R617 -/
  | memacc (v : BitVec 115)
  /-- LINKDBG, 20 R617 -/
  | linkdbg (unit : Byte)
  /-- BYPASS, 20 R617 -/
  | bypass (ir : Byte)
  /-- ALWAYS_ON_RESET_RELEASE, 21 R628 -/
  | alwaysOnResetRelease
  /-- POWER_ON_RESET, 18 R563 -/
  | powerOnReset
  /-- REFCLK_25M_RETURN, 18 R553 -/
  | refclk25mReturn
  /-- PERST_RELEASE, 21 R631 -/
  | perstRelease (f : FuncId)
  /-- PCIE_LINK_DOWN, 17 R521 -/
  | pcieLinkDown (f : FuncId)
  /-- COMMAND_COMPLETES, 14 R425 -/
  | commandCompletes (k : Nat)
  /-- HANDOVER_COMPLETE, 14 R449 -/
  | handoverComplete
  /-- LANE_MAP_COMMIT_DONE, 16 R490 -/
  | laneMapCommitDone (ok0 : Bool) (ok1 : Bool)
  /-- ENTROPY_HEALTH_RECOVERY, 17 R548 -/
  | entropyHealthRecovery
  /-- PARTNER_SESSION_RETRY, 16 R510 -/
  | partnerSessionRetry (q : PortId)
  /-- ALERT_RESPONSE_ADDRESS_READ, 21 R634 -/
  | alertResponseAddressRead
  /-- ADDRESS_RESOLUTION_PROTOCOL, 21 R634 -/
  | addressResolutionProtocol (addr : BitVec 7)
deriving DecidableEq, Repr

end Sys2Proof
end

