-- ==== Sys2Proof/Machine/Crc.lean ====
section
/-! DEFINITION. The cyclic checks of the part: CRC-64/ECMA-182 (11 R330) and the IEEE 802.3 CRC-32 (12 R350, 16 R494,
17 R518, 19 R587). -/

namespace Sys2Proof.Machine

/-- One byte into a CRC-64, most significant bit first, polynomial 0x42F0E1EBA9EA3693 (11 R330). -/
def crc64Bits : Nat → Nat → Nat
  | 0, c => c
  | k + 1, c =>
    let d := 2 * c % 2 ^ 64
    crc64Bits k (if c ≥ 2 ^ 63 then d ^^^ 0x42F0E1EBA9EA3693 else d)
def crc64Byte (c : Nat) (b : Byte) : Nat := crc64Bits 8 (c ^^^ (b.toNat * 2 ^ 56))
/-- The CRC of R330 over bytes, going on from c; it starts at 0. -/
def crc64 (c : Nat) (bs : Bytes) : Nat := bs.foldl crc64Byte c

/-- One byte into the reflected CRC-32 of IEEE 802.3. -/
def crc32Bits : Nat → Nat → Nat
  | 0, c => c
  | k + 1, c => crc32Bits k (if c % 2 = 1 then (c / 2) ^^^ 0xEDB88320 else c / 2)
def crc32Byte (c : Nat) (b : Byte) : Nat := crc32Bits 8 (c ^^^ b.toNat)
def crc32 (bs : Bytes) : Nat := (bs.foldl crc32Byte 0xFFFFFFFF) ^^^ 0xFFFFFFFF

end Sys2Proof.Machine
end

