-- ==== Sys2Proof/Machine/Fp.lean ====
section
/-! DEFINITION. Exact arithmetic on the values a core computes with, and its one rounding (02 R39, R50, R54–R60, R111).
A value is a signed integer times a power of two, an infinity or NaN. Every operation is computed exactly and
rounded once where the spec rounds. -/

namespace Sys2Proof

/-- A value: (−1)^neg × m × 2^e, an infinity, or NaN (02 R50). -/
inductive Num where
  | fin (neg : Bool) (m : Nat) (e : Int)
  | inf (neg : Bool)
  | nan
deriving DecidableEq, Repr

/-- The flags of CORE_ARITH_FLAGS in its own bit order (02 R61). -/
abbrev AFlags := BitVec 6
def AFlags.none : AFlags := 0
def AFlags.nanIn : AFlags := 32
def AFlags.nv : AFlags := 16
def AFlags.of : AFlags := 8
def AFlags.fsat : AFlags := 4
def AFlags.isat : AFlags := 2
def AFlags.accSat : AFlags := 1

/-- The number of significant bits. -/
def bitLen (m : Nat) : Nat := if m = 0 then 0 else Nat.log2 m + 1

/-- Round m × 2^e to nearest, ties to even, on the grid that has p significant bits and no step below 2^emin. -/
def rne (p : Nat) (emin : Int) (m : Nat) (e : Int) : Nat × Int :=
  if m = 0 then (0, emin) else
  let q := max (e + bitLen m - p) emin
  if q ≤ e then (m, e) else
  let sh := (q - e).toNat
  let t := m / 2 ^ sh
  let r := m % 2 ^ sh
  let half := 2 ^ (sh - 1)
  if r > half ∨ (r = half ∧ t % 2 = 1) then (t + 1, q) else (t, q)

/-- Floating element formats of 02 R39. -/
inductive FKind where
  | e4m3 | e5m2 | e2m3 | e3m2 | e2m1 | bf16 | fp32
deriving DecidableEq, Repr

def FKind.mb : FKind → Nat
  | .e4m3 => 3 | .e5m2 => 2 | .e2m3 => 3 | .e3m2 => 2 | .e2m1 => 1 | .bf16 => 7 | .fp32 => 23
def FKind.eb : FKind → Nat
  | .e4m3 => 4 | .e5m2 => 5 | .e2m3 => 2 | .e3m2 => 3 | .e2m1 => 2 | .bf16 => 8 | .fp32 => 8
def FKind.bias : FKind → Nat
  | .e4m3 => 7 | .e5m2 => 15 | .e2m3 => 1 | .e3m2 => 3 | .e2m1 => 1 | .bf16 => 127 | .fp32 => 127
def FKind.width (k : FKind) : Nat := 1 + k.eb + k.mb
/-- The exponent of the smallest subnormal. -/
def FKind.emin (k : FKind) : Int := 1 - (k.bias : Int) - k.mb
/-- The code, without its sign, of the largest finite value (02 R39). -/
def FKind.maxCode : FKind → Nat
  | .e4m3 => 0x7E | .e5m2 => 0x7B | .e2m3 => 0x1F | .e3m2 => 0x1F | .e2m1 => 0x7
  | .bf16 => 0x7F7F | .fp32 => 0x7F7FFFFF

/-- The value an element's bits encode (02 R39). -/
def FKind.decode (k : FKind) (code : Nat) : Num :=
  let sgn := decide (code / 2 ^ (k.eb + k.mb) % 2 = 1)
  let ex := code / 2 ^ k.mb % 2 ^ k.eb
  let fr := code % 2 ^ k.mb
  let special : Option Num :=
    match k with
    | .e4m3 => if ex = 15 ∧ fr = 7 then some .nan else none
    | .e5m2 | .bf16 | .fp32 =>
      if ex = 2 ^ k.eb - 1 then some (if fr = 0 then .inf sgn else .nan) else none
    | _ => none
  match special with
  | some x => x
  | none =>
    if ex = 0 then .fin sgn fr k.emin
    else .fin sgn (2 ^ k.mb + fr) ((ex : Int) - 1 + k.emin)

/-- The code, without its sign, of the value m × 2^e that lies on the format's grid; codes above maxCode are beyond the
largest finite value. -/
def FKind.code (k : FKind) (m : Nat) (e : Int) : Nat :=
  if m = 0 then 0 else
  let l := bitLen m
  -- the exponent of the grid step at this magnitude
  let q := max (e + l - (k.mb + 1)) k.emin
  let f := if q ≤ e then m * 2 ^ (e - q).toNat else m / 2 ^ (q - e).toNat
  if f < 2 ^ k.mb then f
  else (q - k.emin + 1).toNat * 2 ^ k.mb + (f - 2 ^ k.mb)

/-- Round onto the format's grid with no upper limit (02 R59): the code, which may exceed maxCode. -/
def FKind.roundCode (k : FKind) (m : Nat) (e : Int) : Nat :=
  let r := rne (k.mb + 1) k.emin m e
  k.code r.1 r.2

def signBit (neg : Bool) (w : Nat) : Nat := if neg then 2 ^ (w - 1) else 0

/-- The canonical NaN (02 R55, R58). -/
def nanWord : Word := 0x7FC00000

/-- Round once to FP32 (02 R55, R58): the bits, and OF when a finite value becomes an infinity. -/
def Num.toF32 : Num → Word × AFlags
  | .nan => (nanWord, 0)
  | .inf s => (BitVec.ofNat 32 (signBit s 32 + 0x7F800000), 0)
  | .fin s m e =>
    let c := FKind.fp32.roundCode m e
    if c > FKind.fp32.maxCode then (BitVec.ofNat 32 (signBit s 32 + 0x7F800000), AFlags.of)
    else (BitVec.ofNat 32 (signBit s 32 + c), 0)

/-- The value of an FP32 word. -/
def f32 (w : Word) : Num := FKind.fp32.decode w.toNat

/-- The value of a BF16 half word. -/
def bf16 (h : Nat) : Num := FKind.bf16.decode h

/-- A BF16 value widened exactly to FP32 (04 R106). -/
def widenBf16 (h : BitVec 16) : Word := (h.zeroExtend 32) <<< 16

def Num.negate : Num → Num
  | .fin s m e => .fin (!s) m e
  | .inf s => .inf (!s)
  | .nan => .nan

/-- The signed integer n × 2^e as a value; zero takes the given sign. -/
def Num.ofInt (n : Int) (e : Int) (zneg : Bool) : Num :=
  if n = 0 then .fin zneg 0 e else .fin (decide (n < 0)) n.natAbs e

def Num.signed (s : Bool) (m : Nat) : Int := if s then -(m : Int) else m

/-- The exact sum, and whether it raises NV: opposite infinities give NaN, an exact zero of opposite signs is +0 (02 R55). -/
def Num.add : Num → Num → Num × Bool
  | .nan, _ => (.nan, false)
  | _, .nan => (.nan, false)
  | .inf s, .inf t => if s = t then (.inf s, false) else (.nan, true)
  | .inf s, .fin _ _ _ => (.inf s, false)
  | .fin _ _ _, .inf t => (.inf t, false)
  | .fin s m e, .fin t n f =>
    let q := min e f
    let x := Num.signed s (m * 2 ^ (e - q).toNat) + Num.signed t (n * 2 ^ (f - q).toNat)
    (Num.ofInt x q (s && t), false)

/-- The exact product, and whether it raises NV (02 R54). -/
def Num.mul : Num → Num → Num × Bool
  | .nan, _ => (.nan, false)
  | _, .nan => (.nan, false)
  | .inf s, .inf t => (.inf (s != t), false)
  | .inf s, .fin t n _ => if n = 0 then (.nan, true) else (.inf (s != t), false)
  | .fin s m _, .inf t => if m = 0 then (.nan, true) else (.inf (s != t), false)
  | .fin s m e, .fin t n f => (.fin (s != t) (m * n) (e + f), false)

def nvIf (b : Bool) : AFlags := if b then AFlags.nv else 0

/-- One FP32 accumulation step (02 R55): the exact sum of the accumulator and the value, rounded once. -/
def accF32 (acc : Word) (p : Num) : Word × AFlags :=
  let s := (f32 acc).add p
  let r := s.1.toF32
  (r.1, r.2 ||| nvIf s.2)

/-- FP32 add, multiply and fused multiply-add of 02 R58. -/
def fadd (a b : Word) : Word × AFlags := accF32 a (f32 b)
def fsub (a b : Word) : Word × AFlags := accF32 a (f32 b).negate
def fmul (a b : Word) : Word × AFlags :=
  let p := (f32 a).mul (f32 b)
  let r := p.1.toF32
  (r.1, r.2 ||| nvIf p.2)
/-- Of 0 × infinity with a NaN addend IEEE 754 leaves the invalid flag open; the model raises NV, for the product is a NaN created from inputs
that are not NaN (02 R61; DESIGN CHOICE, log 65). -/
def ffma (a b c : Word) : Word × AFlags :=
  let p := (f32 a).mul (f32 b)
  let s := p.1.add (f32 c)
  let r := s.1.toF32
  (r.1, r.2 ||| nvIf p.2 ||| nvIf s.2)

/-- The order of two values that are not NaN; −0 and +0 are equal. -/
def Num.cmp : Num → Num → Ordering
  | .inf s, .inf t => if s = t then .eq else if s then .lt else .gt
  | .inf s, _ => if s then .lt else .gt
  | _, .inf t => if t then .gt else .lt
  | .fin s m e, .fin t n f =>
    let q := min e f
    compare (Num.signed s (m * 2 ^ (e - q).toNat)) (Num.signed t (n * 2 ^ (f - q).toNat))
  | .nan, _ => .eq
  | _, .nan => .eq

def Num.isNan : Num → Bool
  | .nan => true
  | _ => false
def Num.isInf : Num → Bool
  | .inf _ => true
  | _ => false
def Num.sign : Num → Bool
  | .fin s _ _ => s
  | .inf s => s
  | .nan => false

/-- FMIN and FMAX of 04 R110: a NaN gives the canonical NaN, −0 counts as less than +0, no flag. -/
def fmin (a b : Word) : Word :=
  let x := f32 a; let y := f32 b
  if x.isNan || y.isNan then nanWord else
  match x.cmp y with
  | .lt => a
  | .gt => b
  | .eq => if x.sign then a else b
def fmax (a b : Word) : Word :=
  let x := f32 a; let y := f32 b
  if x.isNan || y.isNan then nanWord else
  match x.cmp y with
  | .lt => b
  | .gt => a
  | .eq => if x.sign then b else a

/-- The six conditions of 04 R110 on an order; `none` is an order with a NaN, true only for NE. -/
def condHolds (c : Nat) (o : Option Ordering) : Bool :=
  match o with
  | none => c = 1
  | some o =>
    match c with
    | 0 => o == .eq
    | 1 => o != .eq
    | 2 => o == .lt
    | 3 => o != .gt
    | 4 => o == .gt
    | _ => o != .lt

def fcmp (c : Nat) (a b : Word) : Bool :=
  let x := f32 a; let y := f32 b
  condHolds c (if x.isNan || y.isNan then none else some (x.cmp y))

def icmp (c : Nat) (a b : Word) : Bool := condHolds c (some (compare a.toInt b.toInt))

/-- The integer square root by Newton's steps from above; the fuel bounds the steps, which shrink quadratically. -/
def isqrtAux : Nat → Nat → Nat → Nat
  | 0, _, x => x
  | k + 1, n, x =>
    let y := (x + n / x) / 2
    if y < x then isqrtAux k n y else x
def isqrt (n : Nat) : Nat :=
  if n = 0 then 0 else isqrtAux 256 n (2 ^ ((bitLen n + 1) / 2))

/-- The working precision, in bits, of EXP2 and LOG2. A result of theirs that is not exact is irrational and so no
rounding tie; the assumption log says that this precision decides every rounding (04 R111). -/
def fnBits : Nat := 96

/-- The product over the set bits of f (fnBits + 32 of them below the point, highest first) of 2^(2^−i), each root taken
from the one before. Fixed point with fnBits + 32 fraction bits. -/
def exp2Frac : Nat → Nat → Nat → Nat → Nat
  | 0, _, _, acc => acc
  | k + 1, f, root, acc =>
    let w := fnBits + 32
    let root' := isqrt (root * 2 ^ w)
    let acc' := if f / 2 ^ k % 2 = 1 then acc * root' / 2 ^ w else acc
    exp2Frac k f root' acc'

/-- EXP2 of a finite value (04 R111). -/
def exp2Fin (s : Bool) (m : Nat) (e : Int) : Num :=
  if m = 0 then .fin false 1 0 else
  let w := fnBits + 32
  -- a value of 2^13 or more in magnitude is far outside the range of FP32 exponents
  if e + bitLen m > 13 then (if s then .fin false 1 (-8192) else .fin false 1 8192) else
  -- the argument in fixed point with w fraction bits, floored, and whether anything was lost
  let x := Num.signed s m
  let sh := e + w
  let fx : Int := if 0 ≤ sh then x * 2 ^ sh.toNat else x / 2 ^ (-sh).toNat
  let n := fx / 2 ^ w
  let f := (fx % 2 ^ w).toNat
  -- 2^x is rational only for an integer x
  let exact := decide (0 ≤ e) || decide (m % 2 ^ (-e).toNat = 0)
  if exact then .fin false 1 n
  else .fin false (exp2Frac w f (2 * 2 ^ w) (2 ^ w) * 2 + 1) (n - w - 1)

/-- The fraction bits of log2 y for 1 ≤ y < 2, one squaring a bit; y has 256 fraction bits. -/
def log2Frac : Nat → Nat → Nat → Nat
  | 0, _, acc => acc
  | k + 1, y, acc =>
    let z := y * y / 2 ^ 256
    if z ≥ 2 * 2 ^ 256 then log2Frac k (z / 2) (acc * 2 + 1) else log2Frac k z (acc * 2)

/-- LOG2 of a positive finite value (04 R111). -/
def log2Fin (m : Nat) (e : Int) : Num :=
  let l := bitLen m
  let n : Int := e + l - 1
  if m = 2 ^ (l - 1) then Num.ofInt n 0 false else
  let fr := log2Frac fnBits (m * 2 ^ (256 - (l - 1))) 0
  Num.ofInt ((n * 2 ^ fnBits + fr) * 2 + 1) (-(fnBits : Int) - 1) false

/-- EXP2, LOG2, RCP and RSQ (04 R111): the exact function value rounded once. -/
def fexp2 (a : Word) : Word × AFlags :=
  match f32 a with
  | .nan => (nanWord, 0)
  | .inf s => if s then (0, 0) else (0x7F800000, 0)
  | .fin s m e => (exp2Fin s m e).toF32
def flog2 (a : Word) : Word × AFlags :=
  match f32 a with
  | .nan => (nanWord, 0)
  | .inf s => if s then (nanWord, AFlags.nv) else (0x7F800000, 0)
  | .fin s m e =>
    if m = 0 then (0xFF800000, 0)
    else if s then (nanWord, AFlags.nv) else (log2Fin m e).toF32
def frcp (a : Word) : Word × AFlags :=
  match f32 a with
  | .nan => (nanWord, 0)
  | .inf s => (BitVec.ofNat 32 (signBit s 32), 0)
  | .fin s m e =>
    if m = 0 then (BitVec.ofNat 32 (signBit s 32 + 0x7F800000), 0)
    else
      let q := 2 ^ 64 / m
      let st := if q * m = 2 ^ 64 then 0 else 1
      (Num.fin s (q * 2 + st) (-65 - e)).toF32
def frsq (a : Word) : Word × AFlags :=
  match f32 a with
  | .nan => (nanWord, 0)
  | .inf s => if s then (nanWord, AFlags.nv) else (0, 0)
  | .fin s m e =>
    if m = 0 then (BitVec.ofNat 32 (signBit s 32 + 0x7F800000), 0)
    else if s then (nanWord, AFlags.nv)
    else
      -- make the exponent even, then 1/√(m 2^e) = √(2^128 / m) × 2^(−64 − e/2)
      let m' := if e % 2 = 0 then m else m * 2
      let e' := if e % 2 = 0 then e else e - 1
      let q := isqrt (2 ^ 128 / m')
      let st := if q * q * m' = 2 ^ 128 then 0 else 1
      (Num.fin false (q * 2 + st) (-65 - e' / 2)).toF32

/-- INT32 to FP32 (04 R108 CVTF). -/
def cvtf (a : Word) : Word := (Num.ofInt a.toInt 0 false).toF32.1

/-- Round to the nearest integer, ties to even. -/
def rneInt (s : Bool) (m : Nat) (e : Int) : Int :=
  let r := rne (bitLen m + 2048) 0 m e
  Num.signed s (r.1 * 2 ^ r.2.toNat)

/-- FP32 to INT32 (04 R108 CVTI). -/
def cvti (a : Word) : Word × AFlags :=
  match f32 a with
  | .nan => (0, AFlags.nv)
  | .inf s => (if s then 0x80000000 else 0x7FFFFFFF, AFlags.isat)
  | .fin s m e =>
    let n := rneInt s m e
    if n < -2147483648 then (0x80000000, AFlags.isat)
    else if n > 2147483647 then (0x7FFFFFFF, AFlags.isat)
    else (BitVec.ofInt 32 n, 0)

end Sys2Proof
end

