-- ==== Sys2Proof/Machine/Formats.lean ====
section
/-! DEFINITION. Storage formats: format codes, packing, operand decode of one element, conversions out of FP32
(02 R36–R63). -/

namespace Sys2Proof

/-- The storage formats of 02 R36 by code. -/
inductive Fmt where
  | fp8e4m3 | fp8e5m2 | mxfp8e4m3 | mxfp8e5m2 | mxfp6e2m3 | mxfp6e3m2 | mxfp4 | int8 | int4 | bf16
  | vq12 | vq16a | fp32
deriving DecidableEq, Repr

/-- The format a 4-bit code names; 0xD–0xF are reserved (02 R36). -/
def Fmt.ofCode : Nat → Option Fmt
  | 0 => some .fp8e4m3 | 1 => some .fp8e5m2 | 2 => some .mxfp8e4m3 | 3 => some .mxfp8e5m2
  | 4 => some .mxfp6e2m3 | 5 => some .mxfp6e3m2 | 6 => some .mxfp4 | 7 => some .int8 | 8 => some .int4
  | 9 => some .bf16 | 10 => some .vq12 | 11 => some .vq16a | 12 => some .fp32 | _ => none

/-- Rate classes (02 R36), from the slowest (02 R38). -/
inductive Rate where
  | bf16 | eight | four
deriving DecidableEq, Repr

def Fmt.rate : Fmt → Rate
  | .mxfp4 | .int4 | .vq12 | .vq16a => .four
  | .bf16 | .fp32 => .bf16
  | _ => .eight

def Rate.slower : Rate → Rate → Rate
  | .bf16, _ => .bf16
  | _, .bf16 => .bf16
  | .eight, _ => .eight
  | _, .eight => .eight
  | .four, .four => .four

def Fmt.isVq : Fmt → Bool
  | .vq12 | .vq16a => true
  | _ => false

/-- Steps of k per data cycle, in quarters (07 R206). -/
def Rate.s4 : Rate → Nat
  | .four => 8
  | .eight => 4
  | .bf16 => 1

/-- Steps of k per cycle of a run, in quarters (03 R85). -/
def Fmt.mvpS4 (f : Fmt) : Nat := if f.isVq then 8 else match f.rate with | .four => 4 | .eight => 2 | .bf16 => 1

/-- Bits of one element, or of one weight-group index for the codebook formats (02 R36, R44). -/
def Fmt.bits : Fmt → Nat
  | .mxfp6e2m3 | .mxfp6e3m2 => 6
  | .mxfp4 | .int4 => 4
  | .bf16 | .vq16a => 16
  | .vq12 => 12
  | .fp32 => 32
  | _ => 8

def Fmt.isMx : Fmt → Bool
  | .mxfp8e4m3 | .mxfp8e5m2 | .mxfp6e2m3 | .mxfp6e3m2 | .mxfp4 => true
  | _ => false
def Fmt.isInt : Fmt → Bool
  | .int8 | .int4 => true
  | _ => false
/-- Whether a format carries scales, for the descriptor's SMODE (02 R42). -/
def Fmt.scaled (f : Fmt) (smode : Nat) : Bool := f.isMx || f.isVq || (f.isInt && smode != 0)

/-- Elements that share one scale (02 R42); 1 where the format has no scale. -/
def Fmt.group (f : Fmt) (smode gsize : Nat) : Nat :=
  if f.isMx then 32 else if f.isVq then 256
  else if f.isInt && smode != 0 then 32 * 2 ^ gsize else 1

/-- Where the element array must start in layouts K-MAJOR and OCTET (02 R45). -/
def Fmt.align (f : Fmt) (smode : Nat) : Nat :=
  match f with
  | .mxfp6e2m3 | .mxfp6e3m2 => 24
  | .mxfp4 | .int4 => 16
  | .vq12 => 48
  | .vq16a => 64
  | _ => if smode = 0 then 32 else 32

/-- The accumulator is INT32 when both operands are INT8 or INT4 with SMODE = NONE (02 R38). -/
def accIsInt (fa : Fmt) (sa : Nat) (fb : Fmt) (sb : Nat) : Bool :=
  fa.isInt && fb.isInt && sa == 0 && sb == 0

/-- Bytes read as one little-endian bit string (02 R44, R9). -/
def leNat : Bytes → Nat
  | [] => 0
  | b :: bs => b.toNat + 256 * leNat bs

/-- The n bytes of a number, lowest first. -/
def natBytes : Nat → Nat → Bytes
  | 0, _ => []
  | k + 1, x => BitVec.ofNat 8 (x % 256) :: natBytes k (x / 256)

/-- Element i of width w of a bit string (02 R44). -/
def element (w i : Nat) (s : Nat) : Nat := s / 2 ^ (w * i) % 2 ^ w

def toSigned (w n : Nat) : Int := if n ≥ 2 ^ (w - 1) then (n : Int) - 2 ^ w else n

/-- An E8M0 scale (02 R41). -/
def e8m0 (x : Nat) : Num := if x = 255 then .nan else .fin false 1 ((x : Int) - 127)

def nanFlag (x : Num) : AFlags := if x.isNan then AFlags.nanIn else 0

/-- The value of an unscaled element (02 R39, R40). -/
def Fmt.elem (f : Fmt) (code : Nat) : Num :=
  match f with
  | .fp8e4m3 | .mxfp8e4m3 => FKind.e4m3.decode code
  | .fp8e5m2 | .mxfp8e5m2 => FKind.e5m2.decode code
  | .mxfp6e2m3 => FKind.e2m3.decode code
  | .mxfp6e3m2 => FKind.e3m2.decode code
  | .mxfp4 => FKind.e2m1.decode code
  | .int8 => Num.ofInt (toSigned 8 code) 0 false
  | .int4 => Num.ofInt (toSigned 4 code) 0 false
  | .bf16 => FKind.bf16.decode code
  | .fp32 => FKind.fp32.decode code
  | .vq12 | .vq16a => .nan

/-- Round a finite value to p significant bits with no exponent limit (02 R47, R51). -/
def Num.roundSig (p : Nat) : Num → Num
  | .fin s m e => let r := rne p (-100000) m e; .fin s r.1 r.2
  | x => x

/-- Operand decode of one element under its scale byte (02 R51, R52); `smode` is 0 NONE, 1 E8M0, 2 E4M3. -/
def decodeElem (f : Fmt) (smode code scale : Nat) : Num × AFlags :=
  let x := f.elem code
  let v : Num :=
    if f.isMx then (x.mul (e8m0 scale)).1
    else if f.isInt then
      match smode with
      | 0 => x
      | 1 => (x.mul (e8m0 scale)).1
      | _ =>
        let y := (x.mul (FKind.e4m3.decode scale)).1
        if f = .int8 then y.roundSig 9 else y
    else x
  (v, nanFlag v)

/-- A codebook weight from its entry element or sum and the E4M3 scale (02 R46, R47, R52). -/
def vqWeight (c : Num) (scale : Nat) : Num × AFlags :=
  let p := c.mul (FKind.e4m3.decode scale)
  (p.1, nanFlag p.1 ||| nvIf p.2)

/-- A codebook entry element (02 R46): CBFMT 0 is E4M3, 1 is E5M2. -/
def cbElem (cbfmt : Bool) (b : Nat) : Num := if cbfmt then FKind.e5m2.decode b else FKind.e4m3.decode b

/-- VQ12 (02 R46). -/
def vq12Weight (cbfmt : Bool) (e scale : Nat) : Num × AFlags := vqWeight (cbElem cbfmt e) scale

/-- VQ16A (02 R47): the sum rounded to 5 significant bits, an exact cancellation +0. -/
def vq16Weight (cbfmt : Bool) (e0 e1 scale : Nat) : Num × AFlags :=
  let s := (cbElem cbfmt e0).add (cbElem cbfmt e1)
  let r := vqWeight (s.1.roundSig 5) scale
  (r.1, r.2 ||| nvIf s.2)

/-- Targets of the conversions of 02 R59. -/
def cvtTargets : List Nat := [0, 1, 7, 8, 9]

/-- Round to an integer and clamp (02 R59, INT8 and INT4). -/
def cvtInt (w : Nat) (x : Num) : Nat × AFlags :=
  let lo : Int := -(2 ^ (w - 1) : Nat)
  let hi : Int := (2 ^ (w - 1) : Nat) - 1
  let wrap (n : Int) : Nat := (n % (2 ^ w : Nat)).toNat
  match x with
  | .nan => (0, AFlags.nv)
  | .inf s => (wrap (if s then lo else hi), AFlags.isat)
  | .fin s m e =>
    let n := rneInt s m e
    if n < lo then (wrap lo, AFlags.isat) else if n > hi then (wrap hi, AFlags.isat) else (wrap n, 0)

/-- One conversion of 02 R59 into a floating target. -/
def cvtFloat (k : FKind) (sat : Bool) (x : Num) : Nat × AFlags :=
  let sg (s : Bool) : Nat := signBit s k.width
  -- the code, without sign, of the format's infinity, or of E4M3's NaN
  let infc : Nat := match k with
    | .e4m3 => 0x7F | .e5m2 => 0x7C | _ => 0x7F80
  match x with
  | .nan => (match k with | .e4m3 => 0x7F | .e5m2 => 0x7E | _ => 0x7FC0, 0)
  | .inf s =>
    if k = .e4m3 then
      if sat then (sg s + k.maxCode, AFlags.fsat) else (sg s + infc, AFlags.nv)
    else (sg s + infc, 0)
  | .fin s m e =>
    let c := k.roundCode m e
    if c > k.maxCode then
      if sat then (sg s + k.maxCode, AFlags.fsat) else (sg s + infc, AFlags.of)
    else (sg s + c, 0)

/-- A conversion of one FP32 value into E4M3, E5M2, INT8, INT4 or BF16 (02 R59). -/
def convert (f : Fmt) (sat : Bool) (x : Num) : Nat × AFlags :=
  match f with
  | .fp8e5m2 => cvtFloat .e5m2 sat x
  | .int8 => cvtInt 8 x
  | .int4 => cvtInt 4 x
  | .bf16 => cvtFloat .bf16 sat x
  | _ => cvtFloat .e4m3 sat x

/-- The element kind of an MX format (02 R36). -/
def Fmt.mxKind : Fmt → FKind
  | .mxfp8e5m2 => .e5m2
  | .mxfp6e2m3 => .e2m3
  | .mxfp6e3m2 => .e3m2
  | .mxfp4 => .e2m1
  | _ => .e4m3

/-- The exponent of the largest binade of an element kind (02 R60). -/
def FKind.emax : FKind → Int
  | .e4m3 => 8 | .e5m2 => 15 | .e2m3 => 2 | .e3m2 => 4 | .e2m1 => 2 | _ => 0

/-- A saturating conversion of one MX element (02 R60). -/
def mxElem (k : FKind) (x : Num) : Nat × AFlags :=
  match x with
  | .fin s m e =>
    let c := k.roundCode m e
    if c > k.maxCode then (signBit s k.width + k.maxCode, AFlags.fsat) else (signBit s k.width + c, 0)
  | _ => (0, 0)

/-- The floor of log2 of the largest magnitude of a list, none when all are zero. -/
def maxExp : List Num → Option Int
  | [] => none
  | .fin _ m e :: xs =>
    if m = 0 then maxExp xs
    else match maxExp xs with
      | none => some (e + bitLen m - 1)
      | some y => some (max (e + bitLen m - 1) y)
  | _ :: xs => maxExp xs

/-- A block converted to an MX format: the scale byte, the element codes, the flags (02 R60). -/
def mxBlock (f : Fmt) (v : List Num) : Nat × List Nat × AFlags :=
  let k := f.mxKind
  if v.any Num.isNan || v.any Num.isInf then
    (255, v.map (fun _ => 0), nvIf (v.any Num.isInf))
  else
    match maxExp v with
    | none => (0, v.map (fun _ => 0), 0)
    | some t =>
      let x0 := t - k.emax
      let fl : AFlags := if x0 > 127 then AFlags.fsat else 0
      let x := max (min x0 127) (-127)
      let es := v.map (fun n => mxElem k (match n with | .fin s m e => .fin s m (e - x) | n => n))
      ((x + 127).toNat, es.map Prod.fst, es.foldl (fun a p => a ||| p.2) fl)

/-- Codes of width w packed as one little-endian bit string (02 R44). -/
def packBits (w : Nat) : List Nat → Nat
  | [] => 0
  | c :: cs => c % 2 ^ w + 2 ^ w * packBits w cs

/-- Bits a stored weight takes, as eighths over the group (02 R63): element bits plus scale bits over the group size. -/
def bitsPerWeight (f : Fmt) (smode gsize : Nat) : Nat × Nat :=
  match f with
  | .vq12 => (12 * 32 + 8, 256)
  | .vq16a => (16 * 32 + 8, 256)
  | f =>
    let g := f.group smode gsize
    if f.scaled smode then (f.bits * g + 8, g) else (f.bits, 1)

end Sys2Proof
end

