-- ==== Sys2Proof/Config.lean ====
section
/-! DEFINITION. What the spec leaves open and what an implementation fixes: free values, each an opaque constant that
nothing can evaluate. A statement about a free value holds for every value it may have. -/

namespace Sys2Proof

/-- A value that the spec leaves open, fresh at each use: applied to `State.freeCtr`, which the use advances. -/
opaque Config.freeValue : Nat → (w : Nat) → BitVec w

/-- Whether a word with three or more flipped bits has a syndrome that is not a single-bit error's, so that it is detected:
the spec gives no check matrix (07 R209). The argument is the set of flipped bits. -/
opaque Config.secdedDetects : Nat → Bool

/-- The data bits that a miscorrected word is delivered with, as a difference from the stored ones (07 R209). -/
opaque Config.secdedDelta : Nat → BitVec 64

/-- The common cache: which of its sets for HBM lines a line belongs to, and which line of a full set makes room, by use and new line. The
spec gives the geometry and neither an index nor a replacement order (08 R244). -/
opaque Config.cacheIndex : Nat → Nat
opaque Config.victim : Nat → Nat → Nat

/-- The die hops that a packet of the service network takes between two dies, tiles 0–7 and hubs 8 and 9, by number: it is an arbitrated
network, whose routes the spec does not give (08 R243, 17 R518). -/
opaque Config.svcPath : (src dst : Nat) → List Nat

/-- AES-256-XTS, AES-256-GCM, HKDF, ECDSA P-384 and SHA-384 as functions of their inputs: the spec names the standards
and does not give the algorithms (08 R232, 15 R465, R485, 16 R497). -/
opaque Config.gcmTag : (key nonce : Nat) → (aad text : Bytes) → BitVec 128
opaque Config.gcmText : (key nonce : Nat) → (text : Bytes) → Bytes
opaque Config.hkdf : (material salt info : Nat) → BitVec 256
opaque Config.ecdsaOk : (key digest r s : Nat) → Bool
opaque Config.onCurve : (x y : Nat) → Bool
opaque Config.sha384 : Bytes → BitVec 384

/-- Messages of a peer session (16 R504): sealed under its key and a count; opened, when they authenticate; whether a key-exchange
message of a peer (by fabric ID) verifies; and this part's own SPDM messages, by code and a fresh number. The SPDM and secured message
formats are the DMTF's. -/
opaque Config.sealMsg : (key ctr : Nat) → Bytes → Bytes
opaque Config.openMsg : Nat → Bytes → Option Bytes
opaque Config.peerOk : Nat → Bytes → Bool
opaque Config.spdmMsg : (code fresh : Nat) → Bytes
/-- The serial number in a peer's certificate, by its fabric ID (15 R466). -/
opaque Config.peerSerial : Nat → Nat

/-- The certificates of the device identity chain but for the serial number: Prakuer's root with the leaf's beginning, and the leaf's rest
(15 R478). -/
opaque Config.certPart : Nat → Bytes

/-- The Iris's arithmetic, whose rounding the spec does not give (18 R575, R576, R580): the next value of a filter with a time constant of
1 s from its last value and a new one 10 ms later, and a quotient. -/
opaque Config.filter : (old new : Int) → Int
opaque Config.quot : (num den : Int) → Int

/-- The bytes of the Clove ROM, which the spec describes by what its monitor does and does not list (09 R257). -/
opaque Config.cloveRom : Nat → BitVec 8

/-- Mask ROM that the spec describes by its use: 0 Prakuer's licence key, 1 its amendment key, both as x · 2^384 + y (14 R447, 15 R484);
2 the digest of the Loupe ROM, 3 of the Clove ROM (15 R480). -/
opaque Config.rom : Nat → Nat

/-- A signature under the device identity key, of a digest (15 R479). -/
opaque Config.identitySign : (digest fresh : Nat) → Bytes

end Sys2Proof
end

