-- ==== Sys2Proof/Machine/State.lean ====
section
/-! DEFINITION. The state of the CX2 as plain data, its fault and refusal reasons, and the state after reset.
One field for each piece of state the spec gives the part; INVENTORY.md lists them with rule and reset value. -/

namespace Sys2Proof.Machine

/-! ## Memory -/

/-- Protected memory, by byte address (08 R251). `bytes` is canonical: addresses rise strictly and no listed byte is 0,
which is what an unlisted byte reads as. `poison` lists the poisoned protection units and `flips` the bits of a unit's
stored codeword that differ from a valid one, both by the unit's first address (07 R203, R215, 08 R230, 09 R259). -/
structure Mem where
  bytes : List Host.Cell
  poison : SMap Bool
  flips : SMap Nat
deriving DecidableEq, Repr

def Mem.empty : Mem := ⟨[], [], []⟩

/-! ## A core -/

/-- One lane of a vector register, tile, result vector or chain buffer: 32 bits and a poison bit (04 R99). Of a tile, a result vector and a chain
buffer the bit stands for the element's parity too: an element of wrong parity is delivered poisoned by every read and made good by a write, as a
poisoned one is (17 R516). -/
structure Lane where
  val : Word
  poison : Bool
deriving DecidableEq, Repr

def Lane.zero : Lane := ⟨0, false⟩

/-- A flit slot (06 R169). -/
structure Flit where
  pay : BitVec 512
  valid : BitVec 2
  poison : Bool
  crc : BitVec 16
deriving DecidableEq, Repr

def Flit.empty : Flit := ⟨0, 0, false, 0⟩

/-- A candidate of the top-64 network (04 R123), and whether its rank's parity is wrong (17 R516). -/
structure Cand where
  val : Word
  idx : Word
  bad : Bool
deriving DecidableEq, Repr

/-- A rank that holds no candidate. -/
def Cand.empty : Cand := ⟨0xFF800000, 0xFFFFFFFF, false⟩

/-- A decoded operand element: value, flags raised, poisoned (02 R50–R53). -/
structure Elem where
  val : Num
  flags : AFlags
  poison : Bool
deriving DecidableEq, Repr

/-- What an operation does at the end of a later cycle (05 R139, R155, 04 R109): a read of SRAM that the cycle makes, or a
write that takes effect there. Offsets are core SRAM byte offsets; poison sets are bit masks over 64-bit words. -/
inductive Effect where
  | sreg (i : Nat) (x : Word)
  | areg (i : Nat) (x : Word)
  | preg (i : Nat) (x : Bool)
  | lreg (i : Nat) (x : Nat)
  /-- lanes `sel` of V register i -/
  | vreg (i : Nat) (sel : BitVec 32) (val : List Lane)
  | mask (i : Nat) (sel bits poi : BitVec 32)
  | bptr (i : Nat) (x : Word)
  | xreg (beat : Nat) (val : List Lane)
  | sram (off : Nat) (data : Bytes) (poi : Nat)
  | bundleRow (entry : Nat) (data : Bytes) (poi : Nat)
  | blendRow (word : Nat) (data : Bytes) (poi : Nat)
  | beat (off : Nat) (data : Bytes) (poi : Bool)
  | chain (buf row fmt : Nat) (codes : List Nat) (poi : Bool)
  | tkin (cs : List Cand) (poi : Bool)
  | tkclr
  | sendq (f : Flit)
  | append (data : Bytes) (poi : Nat) (tag : DWord)
  /-- by: the agent that raises the token (20 R611) -/
  | tokenUp (k n : Nat) (by_ : Word)
  | tokenDown (k n : Nat)
  /-- an engine's or port's read of an SRAM row: 0 MMA, 1 MVP, 2 port; which operation, which operand, its key -/
  | rdEng (kind idx side key row : Nat)
  /-- a codebook lookup of an engine: the 8 bytes at an SRAM offset (02 R48, 03 R73, R74) -/
  | rdCb (kind idx side key off : Nat)
  /-- the checksums of a loaded tile (03 R82) -/
  | loadEnd (tile : Nat)
  /-- the products of one step of a run reach the result vectors: the weights, the vectors' elements, the vectors' type, and
  whether they start from zero (03 R84, R87) -/
  | product (ws vs : List Elem) (isInt first : Bool)
  | rdLd (off fmt part dst : Nat) (sel mpoi : BitVec 32)
  | rdSld (off sd : Nat)
  | rdVld (off vd p : Nat)
  | rdSst (off : Nat) (x : Word)
  | rdTrd (off pitch vd : Nat) (w4 : Bool) (row : Nat) (acc : Bytes) (poi : List Bool)
  | rdBst (off entry : Nat)
  | rdLst (off word : Nat)
  | rdSend1 (off : Nat)
  | rdSend2 (off : Nat) (lo : Bytes) (poi : Bool)
  | rdTile (off tile row : Nat) (isInt : Bool)
  /-- half of a read window's flit for cycle `cyc`: window, offset of the 32 bytes (06 R183) -/
  | rdWin (cyc win off half : Nat)
deriving DecidableEq, Repr

/-- An effect with the end of cycle it belongs to and the operation it comes from: issue cycle, slot word 0–6, or 7 for the
vector engine, bundle, blend word (05 R167, 07 R205). -/
structure Pending where
  due : Nat
  issued : Nat
  slot : Nat
  bundle : Nat
  blend : Option Nat
  eff : Effect
deriving DecidableEq, Repr

/-- A pending wait (05 R147, R149): the real cycle and the time of its issue, its bundle, and the last agent that had raised its
token when it issued (20 R610). -/
structure Wait where
  tok : Nat
  n : Nat
  at_ : Nat
  since : Nat
  bundle : Nat
  by_ : Word
deriving DecidableEq, Repr

/-- An accumulator tile (03 R75, R81–R83); `chkBad` lists the checksums of wrong parity, the column's as 0–15, the row's as 16–31 (17 R516). -/
structure Tile where
  lanes : SMap Lane
  isInt : Bool
  chkValid : Bool
  chkTol : Nat
  cc : SMap Int
  cr : SMap Int
  chkBad : List Nat
deriving DecidableEq, Repr

def Tile.reset : Tile := ⟨[], false, false, 0, [], [], []⟩

/-- An engine or port operation in flight: its slot word, its control word, the values of its address registers, the
descriptors it read (03 R64), its issue cycle, its position, its bundle, the rows or beats it has read for each operand as
(bytes, poisoned words), and how many beats of the slice it has moved. -/
structure EngineOp where
  word : Word
  ctl : Word
  gA : Nat
  gB : Nat
  descA : BitVec 128
  descB : BitVec 128
  start : Nat
  k : Nat
  bundle : Nat
  rowsA : SMap (Bytes × Nat)
  rowsB : SMap (Bytes × Nat)
  beats : Nat
deriving DecidableEq, Repr

/-- A loop of the running blend (04 R117). -/
structure LoopFrame where
  first : Nat
  last : Nat
  idx : Nat
  iter : Nat
  count : Nat
deriving DecidableEq, Repr

/-- The running blend (04 R102–R104, R117). -/
structure BlendRun where
  entry : Nat
  len : Nat
  word : Nat
  idle : Nat
  loops : List LoopFrame
deriving DecidableEq, Repr

/-- The vector engine's own state (04 R99, R123). -/
structure VecState where
  x : SMap Lane
  m : SMap Word
  mPoi : SMap Word
  bp : SMap Word
  i0 : Nat
  i1 : Nat
  topk : List Cand
  topkPoi : Bool
  blend : Option BlendRun
deriving DecidableEq, Repr

/-- M1–M3 are all ones after FACET_ACTIVATE (12 R377) and here at reset: a mask that `m` does not list reads all ones. -/
def VecState.reset : VecState := ⟨[], [], [], [], 0, 0, [], false, none⟩

/-- The register files a bundle's slots use (05 R140) and the sequencer (05 R129, R134, R149). -/
structure SeqState where
  s : SMap Word
  a : SMap Word
  v : SMap Lane
  p : SMap Bool
  l : SMap Nat
  k : SMap Nat
  /-- the last agent that raised each token, as 20 R611 names it -/
  kBy : SMap Word
  badParity : List Nat
  next : Nat
  /-- the bundle whose repetitions are under way, and how many are left (05 R133) -/
  cur : Bytes
  repLeft : Nat
  running : Bool
  halted : Bool
  /-- the cycle in which HALT took effect (05 R151) -/
  haltAt : Nat
  /-- the core runs the known-answer test in the test bundle under way, and the cycles left of that bundle (05 R136) -/
  testLeft : Bool
  testBusy : Nat
  now : Nat
  step : BitVec 64
  waits : List Wait
  /-- by token, one past the real cycle in which a wait on it was last satisfied (05 R149) -/
  kSat : SMap Nat
  pend : List Pending
  /-- the cycle in which CORE_FAULT_PC was last recorded (05 R167) -/
  faultAt : Option Nat
deriving DecidableEq, Repr

def SeqState.reset : SeqState :=
  { s := [], a := [], v := [], p := [], l := [], k := [], kBy := [], badParity := [], next := 0, cur := [], repLeft := 0,
    running := false, halted := false, haltAt := 0, testLeft := false, testBusy := 0, now := 0, step := 0, waits := [],
    kSat := [], pend := [],
    faultAt := none }

/-- The engines (03 R75–R93). -/
structure EngState where
  tiles : SMap Tile
  m : SMap Lane
  mInt : SMap Bool
  drainBuf : SMap Lane
  ch : SMap Lane
  chFmt : SMap Nat
  mmas : List EngineOp
  mvps : List EngineOp
  drains : List EngineOp
  loads : List EngineOp
  /-- LDS operations -/
  ports : List EngineOp
deriving DecidableEq, Repr

def EngState.reset : EngState :=
  { tiles := [], m := [], mInt := [], drainBuf := [], ch := [], chFmt := [], mmas := [], mvps := [],
    drains := [], loads := [], ports := [] }

/-- The append ring of a core (04 R121, 10 R303, R304). -/
structure Ring where
  data : Nat
  tags : Nat
  n : Nat
  rwd : Nat
  rwt : Nat
  wr : Nat
  taken : Nat
  /-- entries written since each window last read them -/
  freshData : SMap Bool
  freshTag : SMap Bool
deriving DecidableEq, Repr

/-- One core (02–05, 07). -/
structure Core where
  seq : SeqState
  vec : VecState
  eng : EngState
  ring : Option Ring
  sendq : List Flit
  /-- the flits received, each with the first cycle in which it may be taken (06 R180) -/
  recvq : List (Nat × Flit)
  /-- port windows open or to come, first and last cycle (05 R153, 03 R90) -/
  portBusy : List (Nat × Nat)
  /-- port cycles of recent STS instructions (04 R116) -/
  stsAt : List Nat
deriving DecidableEq, Repr

def Core.reset : Core :=
  { seq := SeqState.reset, vec := VecState.reset, eng := EngState.reset, ring := none, sendq := [], recvq := [],
    portBusy := [], stsAt := [] }

/-! ## The mesh -/

/-- A flit that a read window is reading for a coming cycle (06 R183): the cycle, the window, the route entry, its offset, the
bytes read so far and whether any word was poisoned; with what the window's entry said when it was read, two cycles before
(06 R181): whether it is legal and how long the window is. -/
structure Ahead where
  cyc : Nat
  win : Nat
  off : Nat
  ok : Bool
  size : Nat
  bytes : Bytes
  poi : Bool
deriving DecidableEq, Repr

/-- One router (06 R172–R183). -/
structure Router where
  pc : Nat
  runLeft : Nat
  halted : Bool
  running : Bool
  now : Nat
  rl : SMap Nat
  act : SMap Bool
  h : SMap Flit
  /-- input latches N, E, S, W -/
  input : SMap Flit
  /-- flits on the way to an input: (port, arrival cycle) -/
  arriving : List (Nat × Nat × Flit)
  off : SMap Nat
  cnt : SMap Nat
  ahead : List Ahead
  /-- the cycle in which the router last recorded a fault (06 R199, R201) -/
  faultAt : Option Nat
deriving DecidableEq, Repr

def Router.reset : Router :=
  { pc := 0, runLeft := 0, halted := false, running := false, now := 0, rl := [], act := [], h := [],
    input := [], arriving := [], off := [], cnt := [], ahead := [], faultAt := none }

/-- A frame inside a crossing: direction (0 towards side B), lane, arrival cycle, the flit it carries (06 R188), and for a flit that a hub sent
who filled the hub's queue with it: a hub engine d, or 256 + a collective context (06 R185, R194). -/
structure XFrame where
  dir : Nat
  lane : Nat
  arrive : Nat
  flit : Flit
  src : Option Nat
deriving DecidableEq, Repr

/-- One crossing module (06 R186–R190, 19 R598). -/
structure Xing where
  frames : List XFrame
  /-- the lane whose traffic the repair lane carries, by direction (19 R598) -/
  laneMap : SMap Nat
deriving DecidableEq, Repr

def Xing.reset : Xing := ⟨[], []⟩

/-- An attachment's buffers (06 R184, R185) and, at a hub, the row's hub-to-tile queue (06 R194, 08 R242), each flit with who filled it in.
`ghosts` are the places in `ingress` of flits that the hub did not send: empty frames that could not be corrected (06 R188). -/
structure Attach where
  ingress : List Flit
  egress : List Flit
  queue : List (Flit × Nat)
  ghosts : List Nat
  /-- places free once every flit sent and not yet seen taken has arrived -/
  free : Nat
deriving DecidableEq, Repr

def Attach.reset : Attach := ⟨[], [], [], [], 64⟩

/-! ## Slices, HBM, cache, DMA -/

/-- A scrub of a slice range (07 R225): the next beat, one past the last, what it has found, and by bank the beats of the row
under the scrub that were corrected outside a marked layer (an uncorrectable one counts four). -/
structure Scrub where
  beat : Nat
  last : Nat
  corrected : Nat
  uncorr : Nat
  firstBad : Option Nat
  spared : Nat
  marks : SMap Nat
deriving DecidableEq, Repr

/-- A slice's or channel's part of a replica pass (11 R337, R338): which unit of its list it reads, how far, the unit's digest,
the digests so far, whether something was unreadable, and whether it has finished. -/
structure Pass where
  idx : Nat
  pos : Nat
  crc : Nat
  acc : Nat
  bad : Bool
  fin : Bool
deriving DecidableEq, Repr

/-- One slice, beyond its bytes and its registers (07 R213–R227). -/
structure Slice where
  scrub : Option Scrub
  pass : Option Pass
  /-- a copy of a row to a spare: bank × 128 + row, beats copied (07 R227) -/
  copy : Option (Nat × Nat)
  /-- rows that wait to be spared -/
  toSpare : List Nat
  /-- rows replaced by a spare row -/
  spared : List Nat
  /-- layers that a layer event has named since MARK_VALID was last 0 (07 R219) -/
  seen : Nat
  /-- the base window last used for maintenance, and the beats moved in it (07 R224) -/
  win : Nat × Nat
deriving DecidableEq, Repr

def Slice.reset : Slice :=
  { scrub := none, pass := none, copy := none, toSpare := [], spared := [], seen := 0, win := (0, 0) }

/-- One HBM channel controller (08 R230–R236, 09 R282): the next grant of its frame, windows in a row that kept below the
clearing rate, rows spared, its part of a replica pass, and whether a zero-fill is due (08 R233). -/
structure Chan where
  grant : Nat
  calm : Nat
  spareRows : List Nat
  pass : Option Pass
  fillDue : Bool
deriving DecidableEq, Repr

def Chan.reset : Chan := ⟨0, 0, [], none, false⟩

/-- The common cache's HBM lines (08 R244, R245): the lines present, by line address, and their bytes. -/
structure Cache where
  lines : SMap Bool
  mem : Mem
deriving DecidableEq, Repr

/-- A walker's work on its descriptor (10 R302–R311): the sequence entries, page-list entries and global-table words it has read
and holds (by number, by address), ring entries of the groups that have arrived and wait (tag, data, poisoned), whether a
POP is being retried for the head of them, when the retries began and how many there were; and for a GATHER its LEN at the
start and the flits already sent. -/
structure Walk where
  seqs : SMap (BitVec 1024 × Bool)
  lists : SMap (DWord × Bool)
  /-- ring entries that have arrived: tag, whether its flit was poisoned, chunk, whether it is poisoned -/
  queue : List (DWord × Bool × BitVec 256 × Bool)
  /-- the tags of a group whose data flits are still to come -/
  tags : List (DWord × Bool)
  retry : Option (Nat × Nat)
  placed : Nat
  len : Nat
  sent : Nat
  /-- the flits of a GATHER's tile that are still to be sent -/
  tile : List (BitVec 512 × Bool)
  /-- the page-list entries whose old page has been released and whose new one is not there yet (10 R305), and whether a copy made for the
  head of the queue met an uncorrectable granule (10 R306) -/
  released : List Nat
  copyBad : Bool
deriving DecidableEq, Repr

def Walk.reset : Walk :=
  { seqs := [], lists := [], queue := [], tags := [], retry := none, placed := 0, len := 0, sent := 0, tile := [], released := [], copyBad := false }

/-- One DMA engine and walker (08 R239–R241): its ring, whether it has fetched or runs a descriptor, granules moved, bytes
delivered, the status its rows have reached, the source rows in its transpose buffer, and for the trace the times of fetch
and start, the first bytes delivered and the time since which it has waited at a full ingress buffer; `ended` tells one descriptor
from the next. -/
structure Engine where
  base : Nat
  scratch : Bool
  len : Nat
  watch : Nat
  pos : Nat
  fetched : Bool
  active : Bool
  desc : BitVec 512
  moved : Nat
  bytes : Nat
  status : Nat
  xrows : List (Bytes × Bool)
  xout : Nat
  fetchAt : Nat
  startAt : Nat
  first : Bytes
  fullAt : Option Nat
  walk : Walk
  ended : Nat
deriving DecidableEq, Repr

def Engine.reset : Engine :=
  { base := 0, scratch := false, len := 0, watch := 0, pos := 0, fetched := false, active := false, desc := 0, moved := 0,
    bytes := 0, status := 0, xrows := [], xout := 0, fetchAt := 0, startAt := 0, first := [], fullAt := none,
    walk := Walk.reset, ended := 0 }

/-! ## Clove cores -/

/-- A tenant program of a Clove core (09 R279, R280, 14 R446). -/
structure Program where
  limit : Nat
  entries : List (Nat × Nat)
deriving DecidableEq, Repr

/-- A MIGRATE over the chain in progress (10 R313): the entry index, granules of its page moved, whether the page moves, the
sink's new page, pages moved, and the status that makes a sink discard what is still to come. -/
structure Mig where
  idx : Nat
  pos : Nat
  moving : Bool
  page : Nat
  /-- at a sink: no page could be had for the entry whose data arrive -/
  lost : Bool
  moved : Nat
  fail : Option Nat
deriving DecidableEq, Repr

/-- One Clove core (09 R256–R284). -/
structure Clove where
  x : SMap Word
  pc : Word
  machineMode : Bool
  csr : SMap Word
  /-- local memory, from 0x1_0000 of the core's address map -/
  localMem : Mem
  /-- receive FIFOs of the links from c + 1 and from c − 1: messages with the poison of their eight words -/
  fifoUp : List (BitVec 512 × Nat)
  fifoDn : List (BitVec 512 × Nat)
  /-- messages on the way to a neighbour: true upwards -/
  wire : List (Bool × BitVec 512 × Nat)
  mbase : Option Nat
  head : Nat
  /-- slot lines received: contents, time, poster's requester number -/
  rx : SMap (BitVec 512 × Nat × Nat)
  /-- the command being run -/
  held : Option (BitVec 512)
  /-- the monitor's function or entry has ended, its status in a0 and its RESULT in a1 -/
  ran : Bool
  sleeping : Bool
  program : Option Program
  /-- a tenant entry runs -/
  tenant : Bool
  halted : Bool
  /-- lines written in shared windows since the last fence (09 R261) -/
  dirty : List Nat
  /-- times since which a chain instruction blocks, a channel access waits, the command runs (20 R610) -/
  blockAt : Option (Nat × Nat)
  stallAt : Option Nat
  runAt : Nat
  mig : Option Mig
deriving DecidableEq, Repr

def Clove.reset : Clove :=
  { x := [], pc := 0, machineMode := true, csr := [], localMem := Mem.empty, fifoUp := [], fifoDn := [],
    wire := [], mbase := none, head := 0, rx := [], held := none, ran := false, sleeping := false, program := none,
    tenant := false, halted := false, dirty := [], blockAt := none, stallAt := none, runAt := 0, mig := none }

/-! ## Facets in force (12 R355–R367) -/

/-- A range of a memory: TYPE, base, length (12 R362 REGION, R343). -/
structure Region where
  kind : Nat
  base : Nat
  len : Nat
deriving DecidableEq, Repr

/-- A ring record of DMA_RINGS (12 R359). -/
structure RingRec where
  engine : Nat
  scratch : Bool
  len : Nat
  base : Nat
  watch : Nat
deriving DecidableEq, Repr

/-- An append ring record of KV_LAYOUT (12 R360). -/
structure AppendRec where
  core : Nat
  n : Nat
  data : Nat
  tags : Nat
  rwd : Nat
  rwt : Nat
deriving DecidableEq, Repr

/-- KV_LAYOUT (10 R285, 12 R360); pools as (H, E) pairs. -/
structure KvLayout where
  kvbase : Nat
  layers : Nat
  heads : Nat
  hd : Nat
  refbase : Nat
  pools : List (Nat × Nat)
  rings : List AppendRec
deriving DecidableEq, Repr

/-- A collective entry (11 R325, 12 R361). -/
structure CollEntry where
  id : Nat
  op : Nat
  etype : Nat
  n : Nat
  rank : Nat
  root : Nat
  hub : Nat
  log : Bool
  len : Nat
  limit : Nat
  next : Nat
  prev : Nat
  job : Nat
  chan : Nat
  srct : Nat
  dstt : Nat
  src : Nat
  dst : Nat
  tcore : Nat
  tkt : Nat
  tcnt : Nat
  tgran : Nat
  score : Nat
  skt : Nat
  scnt : Nat
  period : Nat
  step0 : Nat
  count : Nat
  ctx : Nat
deriving DecidableEq, Repr

/-- REPLICA (11 R336, 12 R362); peers as (fabric address, partition). -/
structure ReplicaGroup where
  group : Nat
  m : Nat
  member : Nat
  interval : Nat
  peers : List (Nat × Nat)
  regions : List Region
deriving DecidableEq, Repr

/-- A weight region and its declared digest (12 R363). -/
structure WeightRec where
  region : Region
  digest : Nat
deriving DecidableEq, Repr

/-- A CLOVE record (12 R364). -/
structure CloveRec where
  chan : Nat
  tenant : Bool
  chbase : Nat
  mbase : Nat
  csbase : Nat
  limit : Nat
  image : Nat
deriving DecidableEq, Repr

/-- A core's start (12 R358): entry bundle, route entry, preload record. -/
structure CoreStart where
  core : Nat
  bundle : Nat
  route : Nat
  preload : Option Nat
deriving DecidableEq, Repr

/-- A PLACE record (12 R356). -/
structure PlaceRec where
  target : Nat
  fromHbm : Bool
  blob : Nat
  x0 : Nat
  x1 : Nat
  y0 : Nat
  y1 : Nat
  dest : Nat
  source : Nat
  len : Nat
  stride : Nat
deriving DecidableEq, Repr

/-- GLOBALS (12 R355). -/
structure Globals where
  dtbase : Nat
  wtbase : Nat
  entryStep : Nat
  waitLimit : Nat
  refoff : Nat
  testBank : Option Nat
  stepLogK : Nat
  stepLogBase : Nat
  clogK : Nat
  clogBase : Nat
deriving DecidableEq, Repr

def Globals.none : Globals := ⟨0, 0, 0, 0, 0, Option.none, 0, 0, 0, 0⟩

/-- A partition facet as its sections say it (12 R354–R364). -/
structure Facet where
  imageId : Nat
  glob : Globals
  place : List PlaceRec
  blobs : SMap Bytes
  starts : List CoreStart
  preloads : List Bytes
  memmap : List Nat
  dma : List RingRec
  kv : Option KvLayout
  colls : List CollEntry
  replica : Option ReplicaGroup
  ckpt : List Region
  weights : List WeightRec
  cloves : List CloveRec
deriving DecidableEq, Repr

def Facet.none : Facet :=
  { imageId := 0, glob := Globals.none, place := [], blobs := [], starts := [], preloads := [], memmap := [], dma := [],
    kv := Option.none, colls := [], replica := Option.none, ckpt := [], weights := [], cloves := [] }

/-- A DEV_PARTITIONS record (12 R365); the sets are bit masks. -/
structure PartRec where
  valid : Bool
  blocks : Nat
  channels : Nat
  keyslots : Nat
  engines : Nat
  collctx : Nat
  seqBase : Nat
  seqCount : Nat
  scrBase : Nat
  scrCount : Nat
deriving DecidableEq, Repr

def PartRec.none : PartRec := ⟨false, 0, 0, 0, 0, 0, 0, 0, 0, 0⟩

/-- A device facet (12 R365–R368). -/
structure DevFacet where
  parts : SMap PartRec
  svcChannels : Nat
  seqtab : Nat
  stageBase : Nat
  stageLen : Nat
  /-- plans by 1024 × edge + 2 × module + direction; an unlisted one is the default of 06 R191 -/
  plans : SMap Nat
deriving DecidableEq, Repr

/-- The null device facet (12 R369): channel 31 of stack 0 is the only service channel. -/
def DevFacet.null : DevFacet :=
  { parts := [], svcChannels := 2 ^ 31, seqtab := 0x8000000000 + 31 * 0x60000000,
    stageBase := 0x8000000000 + 31 * 0x60000000 + 0x8000000, stageLen := 1408 * 0x100000, plans := [] }

/-! ## Partitions -/

/-- The states of a partition (15 R450). -/
inductive PState where
  | empty | configured | loaded | running | paused | stopped | faulted | retiring
deriving DecidableEq, Repr

/-- Who gave a command: the operator or the tenant of a partition (15 R454), over a ring or MCTP (14 R421–R423). -/
inductive Via where
  | ring (r : Nat)
  | mctp
  | loupe
deriving DecidableEq, Repr

/-- The result of a command: its R12 status, INFO, and mailbox payload (13 R407, R410). -/
structure Result where
  status : Nat
  info : Word
  payload : Bytes
deriving DecidableEq, Repr

/-- A fetched command in flight (14 R424–R428): its mailbox, what it holds, when it was fetched (ns), whether it has begun its work,
what that work keeps, and its result. -/
structure InFlight where
  via : Via
  cid : Nat
  opcode : Nat
  mbox : Option Nat
  entry : BitVec 512
  holds : List Nat
  at_ : Nat
  begun : Bool
  aux : Nat
  aux2 : Nat
  result : Option Result
deriving DecidableEq, Repr

/-- A run command in flight (14 R433, R434). -/
structure RunCmd where
  via : Via
  cid : Nat
  startStep : BitVec 64
  startU : Nat
  startPaused : Nat
  untilStep : Option (BitVec 64)
  replay : Bool
  /-- once it has ended, END (14 R434) -/
  ended : Option Nat
deriving DecidableEq, Repr

/-- A stop that a running partition has been asked for (14 R435, 11 R342): its arguments, whether it has taken effect, whether
the quiescence bound has passed, and once it has ended its R12 status, whether a checkpoint is to be
written and has been, and how many outstanding-work records were written. -/
structure StopReq where
  immediate : Bool
  ckpt : Bool
  inSlice : Bool
  prec : Nat
  cbase : Nat
  snap : Nat
  armed : Bool
  /-- when it took effect -/
  armedAt : Nat
  late : Bool
  ended : Option Nat
  wrote : Bool
  saved : Bool
  snaps : Nat
deriving DecidableEq, Repr

/-- A replica report (11 R339): member, interval, digest or none when UNREADABLE. -/
structure Report where
  member : Nat
  interval : Nat
  digest : Option Nat
deriving DecidableEq, Repr

/-- A placed image: its bytes and what was read from them stays parsed by section (12 R350–R364). -/
structure Staged where
  bytes : Bytes
  digest : Nat
  /-- where its copy lies in the staging range: device addresses and lengths, in order (12 R370) -/
  ext : List (Nat × Nat)
deriving DecidableEq, Repr

/-- A record in a collective log (11 R348): its instance's STEP, entry, whether it was sent, PHASE, block, segment, its offset
and length in the log, the digests. -/
structure LogRec where
  step : Nat
  id : Nat
  sent : Bool
  phase : Nat
  block : Nat
  seg : Nat
  off : Nat
  len : Nat
deriving DecidableEq, Repr

/-- The highest EPOCH that a partition has retired for a peer and job (15 R472). -/
structure RetiredKey where
  dev : Nat
  job : Nat
  epoch : Nat
deriving DecidableEq, Repr

/-- One partition (15 R450, 12 R377). -/
structure Partition where
  state : PState
  plead : Nat
  /-- pause cycles counted since the entry step, by cause (11 R320) -/
  paused : SMap Nat
  /-- the unpaused cycle at which the last pause was taken and the pause cycles counted before it -/
  pauseBase : Nat × Nat
  /-- real cycles, first and one past the last, in which satisfied waits pause the partition (05 R150) -/
  waitIv : List (Nat × Nat)
  /-- the boundary at which the last throttle pause was taken (18 R573) -/
  throttleAt : Nat
  /-- one past the unpaused cycle of the last base window that requested its pause (07 R222) -/
  windowAt : Nat
  /-- a deferred pause requested: the cycle of the request, its length, the cycle of the PERMIT bundle -/
  deferred : Option (Nat × Nat × Option Nat)
  /-- the cycle of the pacing core's last step mark -/
  lastMark : Option Nat
  /-- after a stop or fault, cycles below this one still issue: the cut is at the end of one cycle (17 R528) -/
  freezeAt : Nat
  /-- every core has halted: cycles below this one still issue (14 R434) -/
  haltCut : Option Nat
  /-- the last run command ended HALTED (14 R438) -/
  haltEnd : Bool
  /-- the pointed core has run its test in this step (05 R136) -/
  testDone : Bool
  brownout : Bool
  band : Nat
  facet : Facet
  facetDigest : Nat
  weightDigest : Nat
  imageId : Nat
  encrypted : Bool
  signed : Bool
  staged : Option Staged
  seed : BitVec 64
  entryStep : BitVec 64
  run : Option RunCmd
  stop : Option StopReq
  testPtr : Nat
  consumed : Option (Nat × Nat)
  inc : Nat
  epochs : SMap Nat
  retired : List RetiredKey
  reports : List Report
  pass : Option Nat
  stepLogPos : Nat
  /-- at the last step mark: the unpaused cycles up to it and the pause cycles by cause -/
  markBound : Nat × SMap Nat
  /-- the step, unpaused cycles and pause cycles up to which the step log counts (11 R322) -/
  logBound : Nat × Nat × SMap Nat
  /-- the step-log records in the ring, oldest first: the steps they count, from and one past the last, their number and FLAGS (11 R322, R335) -/
  logRecs : List (Nat × Nat × Nat × Nat)
  /-- suspect instances recorded, as ID and STEP; their STEPs that no record counts yet; the step at which a checkpoint was taken (11 R322,
  R335) -/
  suspects : List (Nat × Nat)
  suspectSteps : List Nat
  ckptStep : Option Nat
  /-- the last interval that a replica pass began, and the intervals below this one have been compared (11 R338, R339) -/
  passLast : Option Nat
  compared : Nat
  /-- intervals of passes that were abandoned, which are LATE and not compared (11 R338) -/
  late : List Nat
  replayLog : Bool
  ckpts : List (Nat × Bool)
  collLog : List LogRec
  collLogPos : Nat
  /-- a LOGGED replay's sent digests that differ: how many, and STEP, ID and segment of the first; suspects recorded since it started -/
  diffs : Nat
  firstDiff : Option (Nat × Nat × Nat)
  suspect0 : Nat
  /-- instances in which this partition's engine found a mismatch, as ID and STEP: the notices that end here (11 R333) -/
  noticed : List (Nat × Nat)
  memSlot : Option Nat
  /-- a column repair has moved some of its cores since its last activation (19 R600) -/
  relocated : Bool
  /-- the cycle of the fault that made it FAULTED, plus 1, and for a cycle inside a pause its time plus 1 (03 R96) -/
  faultKey : Nat × Nat
  /-- when its last recoverable event ended; the recovery window was open when the brown-out under way began (17 R531) -/
  recoveryAt : Nat
  brownOpen : Bool
deriving DecidableEq, Repr

def Partition.reset : Partition :=
  { state := .empty, plead := 8, paused := [], pauseBase := (0, 0), waitIv := [], throttleAt := 0, windowAt := 0, deferred := none,
    lastMark := none, freezeAt := 0, haltCut := none, haltEnd := false, testDone := false,
    brownout := false, band := 0, facet := Facet.none, facetDigest := 0, weightDigest := 0, imageId := 0, encrypted := false,
    signed := false, staged := none, seed := 0, entryStep := 0, run := none, stop := none, testPtr := 0,
    consumed := none, inc := 0, epochs := [], retired := [], reports := [], pass := none, stepLogPos := 0,
    markBound := (0, []), logBound := (0, 0, []), logRecs := [], suspects := [], suspectSteps := [], ckptStep := none, passLast := none, compared := 0, late := [],
    replayLog := false, ckpts := [], collLog := [], collLogPos := 0, diffs := 0, firstDiff := none,
    suspect0 := 0, noticed := [], memSlot := none,
    relocated := false, faultKey := (0, 0), recoveryAt := 0, brownOpen := false }

/-! ## The device -/

/-- The states of the device (19 R583). -/
inductive DevState where
  | cold | mgmtReady | staging | ready | hold | shutdown
deriving DecidableEq, Repr

/-- A block (18 R558–R561). -/
inductive BState where
  | off | retain | active | retired
deriving DecidableEq, Repr

structure Block where
  state : BState
  target : BState
  queued : Bool
  ramping : Bool
  trim : Nat
  /-- a zero-fill of the cores' SRAM, bundle, blend and route memories is due; one of their slices (07 R212) -/
  fillCore : Bool
  fillSlice : Bool
deriving DecidableEq, Repr

def Block.reset : Block := ⟨.off, .off, false, false, 0, false, false⟩

/-- A key slot (15 R459–R470). -/
inductive KState where
  | empty | active | retiring
deriving DecidableEq, Repr

structure KeySlot where
  state : KState
  kind : Nat
  rotateDue : Bool
  exhausted : Bool
  byOperator : Bool
  job : Nat
  epoch : Nat
  salt : Nat
  material : Nat
  key : Nat
  installs : Nat
  /-- nonce counter of each channel (15 R468) -/
  nonce : SMap Nat
  /-- peers that have acknowledged the announcement (16 R506) -/
  acked : List (Nat × Nat)
  /-- when the slot entered RETIRING, and when its announcement was last repeated (ns; 15 R472, 16 R506) -/
  retireAt : Nat
  announcedAt : Nat
deriving DecidableEq, Repr

def KeySlot.reset : KeySlot :=
  { state := .empty, kind := 0, rotateDue := false, exhausted := false, byOperator := false, job := 0, epoch := 0,
    salt := 0, material := 0, key := 0, installs := 0, nonce := [], acked := [], retireAt := 0, announcedAt := 0 }

/-- A receive key (15 R466, 16 R498): peer device and partition, local partition, job, epoch, key, the highest counter
accepted on each channel; and the local slot whose material it comes from. -/
structure RecvKey where
  slot : Nat
  dev : Nat
  peerPart : Nat
  part : Nat
  job : Nat
  epoch : Nat
  key : Nat
  seen : List (Nat × Nat)
deriving DecidableEq, Repr

/-- A frame sent and kept until acknowledged (16 R502), and when it was sent. -/
structure SentFrame where
  seq : Nat
  bytes : Bytes
  pmap : Nat
  digest : Nat
  sacked : Bool
  once : Bool
  at_ : Nat
deriving DecidableEq, Repr

/-- A received frame, held out of order or delivered and not yet used (16 R500). -/
structure HeldFrame where
  seq : Nat
  bytes : Bytes
  pmap : Nat
  digest : Nat
deriving DecidableEq, Repr

/-- One connection with both its directions (16 R499–R503). Times are in ns. -/
structure Conn where
  part : Nat
  dev : Nat
  peerPart : Nat
  job : Nat
  chan : Nat
  sendSeq : Nat
  sent : List SentFrame
  climit : Nat
  rto : Nat
  srtt : Nat
  rttvar : Nat
  measured : Bool
  /-- when the retransmission timer last restarted; the SEQ last retransmitted for a hole and when -/
  timerAt : Nat
  holeAt : Option (Nat × Nat)
  cumack : Option Nat
  recvInc : Option Nat
  expect : Nat
  held : List HeldFrame
  inbox : List HeldFrame
  /-- delivered frames of an older incarnation that stand first in the inbox (16 R500) -/
  oldIn : Nat
  /-- frames delivered since the last ACK, and when the first of them was (16 R501) -/
  unacked : Nat
  firstAt : Nat
  /-- the CLIMIT last reported -/
  told : Nat
deriving DecidableEq, Repr

/-- How far a peer session has come (16 R504). -/
inductive SPhase where
  | asked | answered | open_
deriving DecidableEq, Repr

/-- A peer session (16 R504): the peer's fabric ID, the port it runs on, its key, the messages sent under it, heartbeats missed and
when it last carried a message. -/
structure Session where
  dev : Nat
  port : Nat
  phase : SPhase
  /-- this part is the requester -/
  req : Bool
  key : Nat
  tx : Nat
  missed : Nat
  usedAt : Nat
deriving DecidableEq, Repr

/-- An accepted frame that waits for its handling (16 R498): TYPE, the fields of its header, and its payload in clear. -/
structure RxFrame where
  typ : Nat
  spart : Nat
  dpart : Nat
  sdev : Nat
  job : Nat
  chan : Nat
  seq : Nat
  cumack : Nat
  sack : Nat
  climit : Nat
  inc : Nat
  pmap : Nat
  digest : Nat
  payload : Bytes
  /-- a message of a secured session -/
  sealed_ : Bool
deriving DecidableEq, Repr

/-- The responder's state on one transport (15 R478). -/
structure Spdm where
  version : Bool
  caps : Bool
  algs : Bool
  /-- the digest of the messages exchanged -/
  transcript : Nat
  /-- the most bytes that the requester takes in one message, 0 while it has not said -/
  size : Nat
  /-- what is left of a response that is fetched in chunks -/
  chunk : Bytes
deriving DecidableEq, Repr

def Spdm.reset : Spdm := ⟨false, false, false, 0, 0, []⟩

/-- The states of a fabric port (16 R507, R515). -/
inductive PortState where
  | notFabric | disabled | training | auth | up | retraining | absent | quarantined
deriving DecidableEq, Repr

/-- A fabric port: its quad's ROLE byte, the times (ns) of its fault events, AUTH_FAIL drops and SPDM exchanges that still count (each with
its sender, and whether it was opened by a GET_VERSION that no KEY_EXCHANGE has followed), failed attempts in a row, when the last one was made,
the partner of a DIRECT port, whether its training has begun, whether its link is up, and frames that wait for the port (16 R511). -/
structure Port where
  state : PortState
  qcause : Nat
  role : BitVec 8
  peerAuth : Bool
  faultAt : List Nat
  fails : Nat
  authAt : List Nat
  exchAt : List (Nat × Nat × Bool)
  attemptAt : Nat
  partner : Nat
  training : Bool
  linkUp : Bool
  wait : List Bytes
deriving DecidableEq, Repr

def Port.reset : Port :=
  { state := .notFabric, qcause := 0, role := 0, peerAuth := false, faultAt := [], fails := 0, authAt := [], exchAt := [],
    attemptAt := 0, partner := 0, training := false, linkUp := false, wait := [] }

/-- A collective context (11 R325–R334): the entry it serves, the next instance of it, and of the running one its number, its start
(ns), segments sent and received, segments ready to be sent by their place in the order of sending, source bytes
read, destination bytes written or put in a hub's queue and those delivered, its status so far and whether it has been cut short. -/
structure CollCtx where
  part : Option Nat
  entry : Nat
  next : Nat
  running : Bool
  inst : Nat
  startAt : Nat
  sendIdx : Nat
  recvIdx : Nat
  ready : SMap (Bytes × Nat)
  srcRead : Nat
  srcDone : Bool
  placed : Nat
  delivered : Nat
  status : Nat
  dead : Bool
  /-- the instance has sent under a slot whose key is due to rotate (15 R469) -/
  rotate : Bool
  /-- instances below this one that have not started are dropped (15 R472, R474) -/
  dropTo : Nat
  /-- instances that were cut short, oldest first: the number of each, the segments it had received -/
  old : List (Nat × Nat)
  /-- of a STREAM source: the flits taken from the egress buffer and not yet used, and how many the instance has taken (11 R327) -/
  stream : List Flit
  taken : Nat
  /-- waiting for a segment, or for credit, since (20 R610) -/
  segAt : Option Nat
  credAt : Option Nat
deriving DecidableEq, Repr

def CollCtx.reset : CollCtx :=
  { part := none, entry := 0, next := 0, running := false, inst := 0, startAt := 0, sendIdx := 0, recvIdx := 0,
    ready := [], srcRead := 0, srcDone := false, placed := 0, delivered := 0, status := 0, dead := false, rotate := false,
    dropTo := 0, old := [], stream := [], taken := 0, segAt := none, credAt := none }

/-- The states of a host ring (13 R401, R402). -/
inductive RState where
  | disabled | active | draining | error
deriving DecidableEq, Repr

/-- The states of a mailbox (13 R409). -/
inductive MState where
  | free | pending | valid
deriving DecidableEq, Repr

structure Mailbox where
  state : MState
  gen : Nat
  status : Nat
  cid : Nat
  opcode : Nat
  payload : Bytes
deriving DecidableEq, Repr

/-- A completion waiting for room (13 R407). -/
structure Completion where
  cid : Nat
  status : Nat
  info : Word
  gen : Nat
  /-- the partition and bits of a DEBUG_CONSENT grant, which takes effect when the completion is written (15 R477) -/
  grant : Option (Nat × Nat)
deriving DecidableEq, Repr

structure HostRing where
  state : RState
  fetchErr : Nat
  sqHead : Nat
  sqTail : Nat
  cqHead : Nat
  cqTail : Nat
  phase : Bool
  waiting : List Completion
  unsignalled : Nat
  /-- when the first unsignalled completion was written (ns), and RING_IRQ as it stood at the last one (13 R402) -/
  firstAt : Nat
  irq : Word
  mboxes : SMap Mailbox
deriving DecidableEq, Repr

def Mailbox.reset : Mailbox := ⟨.free, 0, 0, 0, 0, []⟩
def HostRing.reset : HostRing :=
  { state := .disabled, fetchErr := 0, sqHead := 0, sqTail := 0, cqHead := 0, cqTail := 0, phase := true, waiting := [],
    unsignalled := 0, firstAt := 0, irq := 0, mboxes := [] }

/-- What the block sends to the world outside it. -/
inductive Out where
  /-- ep: the write carries poison (17 R532) -/
  | hostWrite (f : Nat) (addr : Nat) (data : Bytes) (ep : Bool)
  | msix (f v : Nat)
  /-- a read request to the host through function f (13 R400) -/
  | hostRead (f : Nat) (addr n : Nat)
  /-- an answer of the common cache to a requester (08 R246): R12 status and data -/
  | reply (req status : Nat) (data : Bytes)
  | completion (f : Nat) (data : Bytes) (status : Nat)
  | mctp (data : Bytes)
  | spdm (t : Nat) (data : Bytes)
  | frame (q : Nat) (data : Bytes)
  | control (dev : Nat) (data : Bytes)
  | pmbus (addr page cmd val : Nat)
  | jtag (data : Nat)
  /-- an answer on the SMBus other than MCTP (21 R634) -/
  | smbus (data : Bytes)
deriving DecidableEq, Repr

/-- A trace ring record (20 R609): 32 bytes. -/
abbrev TraceRec := BitVec 256

/-- A caller's trace configuration for one partition (20 R612). -/
structure TraceCfg where
  units : Nat
  stream : Bool
  buf : Nat
  len : Nat
  /-- records written and dropped since the stream began (20 R613) -/
  written : Nat
  dropped : Nat
deriving DecidableEq, Repr

def TraceCfg.reset : TraceCfg := ⟨0, false, 0, 0, 0, 0⟩

/-- Rails, supplies and the sequencer (18 R549–R570). -/
structure Power where
  /-- PWR_GOOD inputs that are valid -/
  pwrGood : SMap Bool
  /-- PWR_REQ as debounced -/
  pwrReq : Bool
  /-- an on request is held (18 R566, R570) -/
  reqPending : Bool
  /-- PWR_REQ has gone low since THERMTRIP_N was driven (18 R570) -/
  reqCycled : Bool
  refclk : Bool
  aonUp : Bool
  /-- the board record in force: address, page, flags by rail; none without a record -/
  board : Option (SMap (Nat × Nat × Nat))
  flowK : Nat
  dutyMin : Nat
  dutyMax : Nat
  /-- the place in the order of 18 R564 of the rail that the sequencer switches next, on or off -/
  seqUp : Option Nat
  seqDown : Option Nat
  /-- polls in a row that a rail's regulator has not answered -/
  missed : SMap Nat
  /-- rails in warning -/
  warned : List Nat
  brownout : Bool
  /-- when the brown-out began (ns) -/
  brownAt : Nat
  /-- the partitions that the brown-out paused -/
  brownParts : List Nat
  thermtripLow : Bool
deriving DecidableEq, Repr

/-- Temperatures, throttle sources and the Iris (18 R567–R582). -/
structure Thermal where
  /-- each sensor's last sample, by register offset, plus 2^15 in units of 1/16 °C (18 R568) -/
  last : SMap Nat
  /-- the throttle sources: cap, tiles, sensor by partition, coolant, peak (18 R574) -/
  cap : Nat
  tile : SMap Nat
  sensor : SMap Nat
  coolant : Nat
  peak : Nat
  /-- the coolant condition holds (18 R581) -/
  coolBad : Bool
  /-- 100 µs samples in a row below 4,000 W -/
  peakCalm : Nat
  /-- refresh mode of each stack by temperature alone (08 R236) -/
  hbmMode : SMap Nat
  /-- sums of the power samples of the present 10 ms, by tile and, at 8, of rails 10–15, and their number -/
  acc : SMap Nat
  count : Nat
  /-- filtered temperature rise (1/16 K) and power of each tile, and Rs (18 R576) -/
  filtTemp : SMap Int
  filtPower : SMap Int
  rs : SMap Int
  /-- times (ns) of the flow input's pulses in the last second -/
  pulses : List Nat
  /-- evaluations in a row with every running partition at level 7 and the cap exceeded (18 R577) -/
  full : Nat
deriving DecidableEq, Repr

/-- A hardware error that has occurred and that its checker has not met yet: a byte of wrong parity on a path, 0 and 1 a hub's, 2 + d
engine d's, 256 + c the chain of Clove core c (17 R517); a difference of the two ALUs of a hub (17 R519); a granule that channel c's
controller encrypts wrongly (17 R520). -/
inductive Upset where
  | parity (path : Nat)
  | alu (hub : Nat)
  | crypt (chan : Nat)
deriving DecidableEq, Repr

/-- The Loupes and the command service (13, 14, 19). -/
structure Loupe where
  strap : SMap Nat
  windowOpen : Bool
  active : Nat
  standby : Bool
  standbyHalted : Bool
  handover : Bool
  /-- a live amendment's image waits for the handover that brings it into force: its SEQ and BODY_DIGEST (14 R448) -/
  amendPending : Option (Nat × Bytes)
  /-- the step of 19 R584 in progress, the wave under test, waves tested -/
  bringStep : Nat
  wave : Nat
  wavesDone : Nat
  /-- cores (by the physical column they stand on, as tile × 2112 + row × 66 + column) whose slice or self-test failed, and blocks
  whose checkers failed (19 R588–R593) -/
  failedCores : List Nat
  failedUnits : List Nat
  /-- tile halves, 2 × tile + half, whose column was retired by this bring-up's own tests (19 R593, R594) -/
  bringCols : List Nat
  /-- a crossing lane was repaired at step 7 (19 R586) -/
  laneFixed : Bool
  serial : Nat
  dieSerial : SMap Nat
  turn : Nat
  inflight : List InFlight
  debugWord : Nat
  features : Nat
  licSeq : Nat
  amends : List (Nat × Bytes)
  devImage : Option Staged
  /-- the facet digest of the device facet in force, 0 under the null facet (15 R480) -/
  devDigest : Nat
  /-- a device facet has been activated since the reset: the null device facet is no longer in force (12 R369) -/
  devOn : Bool
  mapBusy : Bool
  /-- the lane map record that the commit under way writes (16 R490) -/
  mapRec : Bytes
  retrainQ : SMap (List Nat)
  /-- MCTP requests that wait for the one in flight (14 R423) -/
  mctpQ : List (BitVec 512)
  svcFails : SMap Nat
  conds : List Nat
  /-- when each class's last event occurred, or its condition ended (ns) -/
  winAt : SMap Nat
  entropyOk : Bool
  smbAlert : Bool
  smbAddr : Nat
  perst : SMap Bool
  linkUp : SMap Bool
  /-- columns retired by fuse at manufacture, by tile half (01 R28, 19 R587) -/
  fusedCols : SMap Nat
  /-- the device memory key (08 R232) -/
  memKey : BitVec 256
deriving DecidableEq, Repr

/-- The test access port (20 R617, R618). -/
structure Jtag where
  ir : Nat
  status : Nat
  addr : Nat
  data : Nat
  poison : Bool
  /-- the debug module's control register, and its system bus access: control, address, data (20 R618, RISC-V debug) -/
  dmcontrol : Word
  sbcs : Word
  sbaddr : Nat
  sbdata : Nat
deriving DecidableEq, Repr

/-- The whole part. -/
structure State where
  pending : List Instr
  freeCtr : Nat
  out : List Out
  regs : SMap Word
  cnts : SMap Nat
  latches : SMap Word
  mem : Mem
  cache : Cache
  cores : SMap Core
  routers : SMap Router
  xings : SMap Xing
  attach : SMap Attach
  slices : SMap Slice
  chans : SMap Chan
  engines : SMap Engine
  cloves : SMap Clove
  parts : SMap Partition
  devFacet : DevFacet
  keys : SMap KeySlot
  recvKeys : List RecvKey
  conns : List Conn
  sessions : List Session
  spdm : SMap Spdm
  ports : SMap Port
  /-- messages to peers for which no session is open yet, oldest first: the peer, the port that leads to it, the bytes (16 R504, R505) -/
  appq : List (Nat × Nat × Bytes)
  /-- frames that a port has accepted, oldest first -/
  inq : SMap (List RxFrame)
  colls : SMap CollCtx
  rings : SMap HostRing
  /-- configuration space's writable registers, by 1,024 × function + dword (13 R385, R386) -/
  pciCfg : SMap Word
  blocks : SMap Block
  aperture : SMap (List Nat)
  power : Power
  thermal : Thermal
  loupe : Loupe
  dev : DevState
  timebase : Nat
  trace : SMap (List TraceRec)
  traceCfg : SMap TraceCfg
  /-- records that a stream writer has not yet forwarded, by 64 × stream + writer; stream 2p is the operator's, 2p + 1 the
  tenant's (20 R612–R614) -/
  traceQ : SMap (List TraceRec)
  /-- records dropped since a writer's last written record, by the same key -/
  traceDrops : SMap Nat
  flash : SMap Bytes
  jtag : Jtag
  upsets : List Upset
deriving DecidableEq, Repr

def Power.reset : Power :=
  { pwrGood := [], pwrReq := false, reqPending := false, reqCycled := false, refclk := false, aonUp := false, board := none, flowK := 0,
    dutyMin := 0, dutyMax := 100, seqUp := none, seqDown := none, missed := [], warned := [], brownout := false, brownAt := 0,
    brownParts := [], thermtripLow := false }

def Thermal.reset : Thermal :=
  { last := [], cap := 0, tile := [], sensor := [], coolant := 0, peak := 0, coolBad := false, peakCalm := 0, hbmMode := [],
    acc := [], count := 0, filtTemp := [], filtPower := [], rs := [], pulses := [], full := 0 }

def Loupe.reset : Loupe :=
  { strap := [], windowOpen := true, active := 0, standby := true, standbyHalted := false, handover := false,
    amendPending := none, bringStep := 1, wave := 0, wavesDone := 0, failedCores := [], failedUnits := [], bringCols := [], laneFixed := false, serial := 0,
    dieSerial := [], turn := 0, inflight := [], debugWord := 0, features := 0, licSeq := 0,
    amends := [], devImage := none, devDigest := 0, devOn := false, mapBusy := false, mapRec := [], retrainQ := [], mctpQ := [], svcFails := [], conds := [], winAt := [],
    entropyOk := true, smbAlert := false, smbAddr := 0, perst := [], linkUp := [], fusedCols := [], memKey := 0 }

/-- The part right after its power-on reset. -/
def State.reset : State :=
  { pending := [], freeCtr := 0, out := [], regs := [], cnts := [], latches := [], mem := Mem.empty,
    cache := ⟨[], Mem.empty⟩, cores := [], routers := [], xings := [], attach := [], slices := [], chans := [],
    engines := [], cloves := [], parts := [], devFacet := DevFacet.null, keys := [], recvKeys := [], conns := [],
    sessions := [], appq := [], spdm := [], ports := [], inq := [], colls := [], rings := [], pciCfg := [], blocks := [], aperture := [],
    power := Power.reset, thermal := Thermal.reset, loupe := Loupe.reset, dev := .cold, timebase := 0, trace := [],
    traceCfg := [], traceQ := [], traceDrops := [], flash := [], jtag := ⟨2, 0, 0, 0, false, 0, 0, 0, 0⟩, upsets := [] }

/-- The spec names no command of this block that ends in a fault of the block itself: every error of the part is state
(an R12 status, a FAULTED partition, a set bit). No meaning answers with a fault. -/
inductive Fault where
  /-- raised by nothing: the type is not empty so that it can be written; safe -/
  | none
deriving DecidableEq, Repr

/-- Why a command has no meaning. -/
inductive Refusal where
  /-- exec's arm for a row that has no meaning yet, by mnemonic; safe: the model stops where the part goes on -/
  | notModelled (mnemonic : String)
  /-- the spec gives the command no effect on any state that it names (the grounds stand in NOTES.md under Stops); safe -/
  | noEffectGiven (mnemonic : String)
deriving DecidableEq, Repr

end Sys2Proof.Machine
end

