-- ==== Sys2Proof/Machine/Regs.lean ====
section
/-! DEFINITION. The register window: every register's offset, the access type of its bits, its reset value and who may
reach it (13 R389–R399, 00 R10, 15 R456). The stored word of a register is in `State.regs`, by offset; fields that report
other state are overlaid where they are read (Machine/Views.lean). -/

namespace Sys2Proof.Machine

/-- Who may reach a register (15 R456). `ownCore`, `ownChan`, `ownEngine`, `ownPart`, `ownCtx`, `ownKey` add the tenant
that owns the unit, `all` adds every caller for reads. -/
inductive RegOwner where
  | operator
  | ownCore (n : Nat)
  | ownChan (c : Nat)
  | ownEngine (d : Nat)
  | ownPart (p : Nat)
  | ownCtx (x : Nat)
  | ownKey (k : Nat)
  | all
deriving DecidableEq, Repr

/-- The bits of each access type of one register (00 R10); every other bit is reserved. -/
structure RegInfo where
  reset : Word := 0
  ro : Word := 0
  rw : Word := 0
  w1c : Word := 0
  rc : Word := 0
  wo : Word := 0
  owner : RegOwner := .operator
deriving DecidableEq, Repr

namespace Reg

def dieMap : Nat := 0x0000000
def bringup : Nat := 0x0000010
def released (i : Nat) : Nat := 0x0000100 + 4 * i
def chanReleased (s : Nat) : Nat := 0x0000200 + 4 * s
def chanFailed (s : Nat) : Nat := 0x0000240 + 4 * s
def hostState : Nat := 0x0010000
def hostEvent : Nat := 0x0010004
def aptCtrl (f : Nat) : Nat := 0x0010100 + 0x40 * f
def aptBaseLo (f : Nat) : Nat := 0x0010108 + 0x40 * f
def aptBaseHi (f : Nat) : Nat := 0x001010C + 0x40 * f
def eventVec (f : Nat) : Nat := 0x0010110 + 0x40 * f
/-- Word j of MSI-X table entry v of function f, and word i of its pending bits (13 R389). -/
def msixTable (f v j : Nat) : Nat := 0x0020000 + 0x4000 * f + 16 * v + 4 * j
def msixPba (f i : Nat) : Nat := 0x0028000 + 0x100 * f + 4 * i
def ringBase (r : Nat) : Nat := 0x0030000 + 32 * r
def ringSqLo (r : Nat) : Nat := ringBase r
def ringSqHi (r : Nat) : Nat := ringBase r + 4
def ringCqLo (r : Nat) : Nat := ringBase r + 8
def ringCqHi (r : Nat) : Nat := ringBase r + 0xC
def ringCtrl (r : Nat) : Nat := ringBase r + 0x10
def ringIrq (r : Nat) : Nat := ringBase r + 0x14
def ringStatus (r : Nat) : Nat := ringBase r + 0x18
def errAddr : Nat := 0x0031000
def errInfo : Nat := 0x0031004
def errDevice : Nat := 0x0031010
def suspect (p : Nat) : Nat := 0x0032000 + 32 * p
def suspectLo (p : Nat) : Nat := 0x0032008 + 32 * p
def suspectHi (p : Nat) : Nat := 0x003200C + 32 * p
def replica (p : Nat) : Nat := 0x0032010 + 32 * p
def partFault (p : Nat) : Nat := 0x0032014 + 32 * p
def partFaultStep (p : Nat) : Nat := 0x0032018 + 32 * p
def recovery (p : Nat) : Nat := 0x003201C + 32 * p
def collStatus (x : Nat) : Nat := 0x0032800 + 4 * x
def tileRepair (t : Nat) : Nat := 0x0033000 + 4 * t
def xingStatus (e m : Nat) : Nat := 0x0034000 + 64 * e + 4 * m
def meshStatus (n : Nat) : Nat := 0x0100000 + 8 * n
def meshFaultPc (n : Nat) : Nat := 0x0100004 + 8 * n
def arithFlags (n : Nat) : Nat := 0x0200000 + 32 * n
def engineStatus (n : Nat) : Nat := 0x0200004 + 32 * n
def seqStatus (n : Nat) : Nat := 0x0200008 + 32 * n
def faultPc (n : Nat) : Nat := 0x020000C + 32 * n
def sramStatus (n : Nat) : Nat := 0x0200010 + 32 * n
def sliceStatus (n : Nat) : Nat := 0x0280000 + 8 * n
def sliceLayer (n : Nat) : Nat := 0x0280004 + 8 * n
def hbmStatus (c : Nat) : Nat := 0x02A0000 + 4 * c
def cloveStatus (c : Nat) : Nat := 0x02A1000 + 4 * c
def walkStatus (d : Nat) : Nat := 0x02A2000 + 4 * d
def blockState (b : Nat) : Nat := 0x02B0000 + 4 * b
def blockAperture (t : Nat) : Nat := 0x02B1000 + 4 * t
def keySlot (k : Nat) : Nat := 0x02D0000 + 4 * k
def keyConsent (p : Nat) : Nat := 0x02D1000 + 4 * p
def keyLicence : Nat := 0x02D2000
def portStatus (q : Nat) : Nat := 0x02E0000 + 32 * q
def portErr (q : Nat) : Nat := 0x02E0004 + 32 * q
def portDrop (q : Nat) : Nat := 0x02E0008 + 32 * q
def fabVlan (q : Nat) : Nat := 0x02E000C + 32 * q
def fabEtype : Nat := 0x02E1000
def fabIdLo : Nat := 0x02E1008
def fabIdHi : Nat := 0x02E100C
def laneStatus : Nat := 0x02F0000
def laneMapCtrl : Nat := 0x02F0004
def laneQuad (q : Nat) : Nat := 0x02F0100 + 4 * q
def laneStage (q : Nat) : Nat := 0x02F0200 + 4 * q
def thermDram (t l k : Nat) : Nat := 0x0300000 + 256 * t + 16 * l + 4 * k
def thermLogic (t g : Nat) : Nat := 0x0310000 + 128 * t + 4 * g
def thermHbm (s : Nat) : Nat := 0x0320000 + 4 * s
def thermCoolant : Nat := 0x0321000
def thermFlow : Nat := 0x0321004
def thermShutdown : Nat := 0x0330000
def rail (r : Nat) : Nat := 0x0340000 + 16 * r
def railI (r : Nat) : Nat := 0x0340004 + 16 * r
def pwrPackage : Nat := 0x0341000
def pwrCap : Nat := 0x0341004
def pwrCapThermal : Nat := 0x0341008
def brownoutCount : Nat := 0x034100C
def pwrTile (t : Nat) : Nat := 0x0341100 + 4 * t
def throttle (p : Nat) : Nat := 0x0341200 + 4 * p
def irisCtrl : Nat := 0x0341300
def clkPart (p : Nat) : Nat := 0x0350000 + 4 * p
def clkStatus : Nat := 0x0351000
def tracePart (p : Nat) : Nat := 0x0360000 + 8 * p
def traceDrops (p : Nat) : Nat := 0x0360004 + 8 * p
def cntEnable (p : Nat) : Nat := 0x07F0000 + 4 * p
def cntEnableGlobal : Nat := 0x07F0100

end Reg

/-- Index i of a group of n registers of stride `st` at `base`, when `off` is that register's offset. -/
def regIndex (off base st n : Nat) : Option Nat :=
  if base ≤ off ∧ (off - base) % st = 0 ∧ (off - base) / st < n then some ((off - base) / st) else none

/-- The access types of the register at an offset of the LOUPE, HOST, RING and ERR groups (13 R389, R397–R401, R415). -/
def regInfoHost (off : Nat) : Option RegInfo :=
  if off = Reg.dieMap then some { ro := 0xC3FF3FFF }
  else if off = Reg.bringup then some { reset := 0x10000000, ro := 0xFFE0FFFF }
  else if (regIndex off (Reg.released 0) 4 8).isSome then some { ro := 0xFFFFFFFF }
  else if (regIndex off (Reg.chanReleased 0) 4 16).isSome then some { ro := 0xFFFFFFFF }
  else if (regIndex off (Reg.chanFailed 0) 4 16).isSome then some { ro := 0xFFFFFFFF }
  else if off = Reg.hostState then some { reset := 0x10000000, ro := 0xFFFE0000 }
  else if off = Reg.hostEvent then some { w1c := 0x1F }
  else if (regIndex off (Reg.aptCtrl 0) 0x40 2).isSome then some { rw := 0xC000003F }
  else if (regIndex off (Reg.aptBaseLo 0) 0x40 2).isSome then some { rw := 0xFFFF0000 }
  else if (regIndex off (Reg.aptBaseHi 0) 0x40 2).isSome then some { rw := 0x0000FFFF }
  else if (regIndex off (Reg.eventVec 0) 0x40 2).isSome then some { rw := 0x800007FF }
  else if 0x0020000 ≤ off ∧ off < 0x0028000 then
    -- MSI-X table entries, whose vector control word has one bit (PCI Express)
    some (if off % 16 = 12 then { rw := 1 } else { rw := 0xFFFFFFFF })
  else if 0x0028000 ≤ off ∧ off < 0x0028200 then some { ro := 0xFFFFFFFF }
  else if 0x0030000 ≤ off ∧ off < 0x0030000 + 32 * 65 then
    match off % 32 with
    | 0 => some { rw := 0xFFFFFFFF }
    | 4 => some { rw := 0xFFFFFFFF }
    | 8 => some { rw := 0xFFFFFFFF }
    | 12 => some { rw := 0xFFFFFFFF }
    | 16 => some { reset := 0x08400000, rw := 0xFFFFFE00 }
    | 20 => some { rw := 0xFFFF00FF }
    | 24 => some { ro := 0xFFC1FFFF }
    | _ => none
  else if off = Reg.errAddr then some { ro := 0xFFFFFFFF }
  else if off = Reg.errInfo then some { ro := 0x7F00FFFF, w1c := 0x80000000 }
  else if off = Reg.errDevice then some { ro := 0xFFE00000, rc := 0x0000FFFF }
  else none

/-- The PART, TILE and crossing registers (13 R389). -/
def regInfoPart (off : Nat) : Option RegInfo :=
  if 0x0032000 ≤ off ∧ off < 0x0032800 then
    let p := (off - 0x0032000) / 32
    match off % 32 with
    | 0 => some { ro := 0x3F, w1c := 0xC0, rc := 0xFFFF0000, owner := .ownPart p }
    | 8 => some { ro := 0xFFFFFFFF, owner := .ownPart p }
    | 12 => some { ro := 0xFFFFFFFF, owner := .ownPart p }
    | 16 => some { ro := 0xFFFFF800, w1c := 0x600, rc := 0xFF, owner := .ownPart p }
    | 20 => some { ro := 0xFF007FFF, w1c := 0x00800000, owner := .ownPart p }
    | 24 => some { ro := 0xFFFFFFFF, owner := .ownPart p }
    | 28 => some { ro := 0xF0000000, rc := 0x0000FFFF, owner := .ownPart p }
    | _ => none
  else match regIndex off (Reg.collStatus 0) 4 64 with
  | some x => some { ro := 0xFF00003F, rc := 0x00FFFF00, owner := .ownCtx x }
  | none =>
    if (regIndex off (Reg.tileRepair 0) 4 8).isSome then some { ro := 0x00FFFF3F }
    else if 0x0034000 ≤ off ∧ off < 0x0034000 + 64 * 14 ∧ off % 4 = 0 ∧ (off < 0x0034000 + 64 * 10 ∨ off % 64 < 32) then some { rc := 0xFFFFFFFF }
    else none

/-- The registers of a core, router, slice, channel, Clove core and walker (13 R389). -/
def regInfoUnit (off : Nat) : Option RegInfo :=
  if 0x0100000 ≤ off ∧ off < 0x0120000 then
    let n := (off - 0x0100000) / 8
    match off % 8 with
    | 0 => some { ro := 0x000F83FF, w1c := 0x00003C00, rc := 0xFFF00000, owner := .ownCore n }
    | 4 => some { ro := 0x80001FFF, owner := .ownCore n }
    | _ => none
  else if 0x0200000 ≤ off ∧ off < 0x0280000 then
    let n := (off - 0x0200000) / 32
    match off % 32 with
    | 0 => some { w1c := 0x3F, owner := .ownCore n }
    | 4 => some { reset := 1, ro := 0x0000FF01, w1c := 0x1E, rc := 0xFFFF0000, owner := .ownCore n }
    | 8 => some { ro := 0xFFE003FF, w1c := 0x001C0000, owner := .ownCore n }
    | 12 => some { ro := 0xFFFC03FF, owner := .ownCore n }
    | 16 => some { ro := 0x7FFF, w1c := 0x8000, rc := 0xFFFF0000, owner := .ownCore n }
    | _ => none
  else if 0x0280000 ≤ off ∧ off < 0x02A0000 then
    let n := (off - 0x0280000) / 8
    match off % 8 with
    | 0 => some { reset := 0x10, ro := 0x39F, rc := 0xFFFFFC00, owner := .ownCore n }
    | 4 => some { ro := 0xF, rw := 0xFFC00000, w1c := 0x000FFC00, owner := .ownCore n }
    | _ => none
  else match regIndex off (Reg.hbmStatus 0) 4 512 with
  | some c => some { ro := 0x39F, rc := 0xFFFFFC00, owner := .ownChan c }
  | none => match regIndex off (Reg.cloveStatus 0) 4 512 with
    | some c => some { ro := 0xFFFF0000, rc := 0x0000FFFF, owner := .ownChan c }
    | none => match regIndex off (Reg.walkStatus 0) 4 192 with
      | some d => some { ro := 7, rc := 0xFFFFFFF0, owner := .ownEngine d }
      | none => none

/-- The BLOCK, KEY, FAB and LANE registers. -/
def regInfoLink (off : Nat) : Option RegInfo :=
  if (regIndex off (Reg.blockState 0) 4 256).isSome then some { ro := 0xFC7FFF00 }
  else if (regIndex off (Reg.blockAperture 0) 4 8).isSome then some { ro := 0xFF800000, rc := 0xFFFF }
  else match regIndex off (Reg.keySlot 0) 4 128 with
  | some k => some { ro := 0xFE3FFFFF, owner := .ownKey k }
  | none => match regIndex off (Reg.keyConsent 0) 4 64 with
    | some p => some { ro := 0x001F001F, owner := .ownPart p }
    | none =>
      if off = Reg.keyLicence then some { ro := 0xFFFF001F, owner := .all }
      else if 0x02E0000 ≤ off ∧ off < 0x02E0000 + 32 * 20 then
        match off % 32 with
        | 0 => some { ro := 0xFFFC0000 }
        | 4 => some { rc := 0xFFFFFFFF }
        | 8 => some { rc := 0xFFFFFFFF }
        | 12 => some { rw := 0xEFFF }
        | _ => none
      else if off = Reg.fabEtype then some { reset := 0x88B6, rw := 0xFFFF }
      else if off = Reg.fabIdLo then some { ro := 0xFFFFFFFF }
      else if off = Reg.fabIdHi then some { ro := 0xFFFF }
      else if off = Reg.laneStatus then some { ro := 0xFFC00000 }
      else if off = Reg.laneMapCtrl then some { ro := 0x400000FF, rw := 0x300, wo := 0x80000000 }
      else if (regIndex off (Reg.laneQuad 0) 4 20).isSome then some { ro := 0xFF }
      else if (regIndex off (Reg.laneStage 0) 4 20).isSome then some { rw := 0xFF }
      else none

/-- The THERM, PWR, CLK, TRACE and counter-enable registers. -/
def regInfoPower (off : Nat) : Option RegInfo :=
  if 0x0300000 ≤ off ∧ off < 0x0300800 ∧ off % 4 = 0 ∧ off % 256 / 16 < 10 then some { ro := 0xF000FFFF }
  else if (regIndex off (Reg.thermLogic 0 0) 4 256).isSome then some { ro := 0xF000FFFF }
  else if (regIndex off (Reg.thermHbm 0) 4 16).isSome then some { ro := 0xF000FFFF }
  else if off = Reg.thermCoolant then some { ro := 0xFFFFFFFF }
  else if off = Reg.thermFlow then some { reset := 0xFFFF, ro := 0x8000FFFF }
  else if off = Reg.thermShutdown then some { ro := 0x7F00FFFF, w1c := 0x80000000 }
  else if (regIndex off (Reg.rail 0) 16 16).isSome then some { ro := 0xFFFFFE00, w1c := 0x180 }
  else if (regIndex off (Reg.railI 0) 16 16).isSome then some { ro := 0xFFFFFFFF }
  else if off = Reg.pwrPackage then some { ro := 0xFFFFFFFF }
  else if off = Reg.pwrCap then some { reset := 0x0FA00FA0, ro := 0xFFFFFFFF }
  else if off = Reg.pwrCapThermal then some { reset := 0x0FA0, ro := 0xFFFF, w1c := 0x80000000 }
  else if off = Reg.brownoutCount then some { ro := 0xFFFFFFFF }
  else if (regIndex off (Reg.pwrTile 0) 4 8).isSome then some { reset := 0x3FF, ro := 0xFFFFFFFF }
  else if (regIndex off (Reg.throttle 0) 4 64).isSome then some { ro := 0xFF000000 }
  else if off = Reg.irisCtrl then some { reset := 0x543C6400, ro := 0xFF00, rw := 0xFFFF0000 }
  else if (regIndex off (Reg.clkPart 0) 4 64).isSome then some { reset := 3, ro := 0x80000000, rw := 3 }
  else if off = Reg.clkStatus then some { ro := 0xC0000000 }
  else if 0x0360000 ≤ off ∧ off < 0x0360200 then
    match off % 8 with
    | 0 => some { ro := 0xFF000000 }
    | 4 => some { rc := 0xFFFFFFFF }
    | _ => none
  else if (regIndex off (Reg.cntEnable 0) 4 64).isSome then some { ro := 0x007F007F }
  else if off = Reg.cntEnableGlobal then some { ro := 0x007F007F }
  else none

/-- The register at an offset; offsets not listed read as 0 and ignore writes (13 R389). -/
def regInfo (off : Nat) : Option RegInfo :=
  match regInfoHost off with
  | some i => some i
  | none => match regInfoPart off with
    | some i => some i
    | none => match regInfoUnit off with
      | some i => some i
      | none => match regInfoLink off with
        | some i => some i
        | none => regInfoPower off

/-- The reset value of the register at an offset. -/
def regReset (off : Nat) : Word :=
  match regInfo off with
  | some i => i.reset
  | none => 0

/-- The stored word of a register. -/
def State.reg (s : State) (off : Nat) : Word := SMap.get (regReset off) s.regs off

/-- Stores a register's word; a word equal to the reset value is not listed. -/
def State.setReg (s : State) (off : Nat) (w : Word) : State :=
  { s with regs := SMap.set (regReset off) s.regs off w }

/-- Bits [lo + len − 1 : lo] of a word as a number. -/
def bits (w : Word) (lo len : Nat) : Nat := w.toNat / 2 ^ lo % 2 ^ len

/-- The word with bits [lo + len − 1 : lo] replaced. -/
def setBits (w : Word) (lo len v : Nat) : Word :=
  (w &&& ~~~(BitVec.ofNat 32 ((2 ^ len - 1) * 2 ^ lo))) ||| BitVec.ofNat 32 ((v % 2 ^ len) * 2 ^ lo)

/-- Sets bits of a register. -/
def State.orReg (s : State) (off : Nat) (m : Word) : State := s.setReg off (s.reg off ||| m)

/-- Clears bits of a register. -/
def State.andNotReg (s : State) (off : Nat) (m : Word) : State := s.setReg off (s.reg off &&& ~~~m)

/-- Replaces one field of a register. -/
def State.setField (s : State) (off lo len v : Nat) : State := s.setReg off (setBits (s.reg off) lo len v)

/-- Adds to a counting field that stops at its maximum. -/
def State.countField (s : State) (off lo len k : Nat) : State :=
  s.setField off lo len (min (bits (s.reg off) lo len + k) (2 ^ len - 1))

end Sys2Proof.Machine
end

