-- ==== Sys2Proof/Machine/Ops.lean ====
section
/-! DEFINITION. The named operations over the part's memories and units that several commands share: geometry, memory,
ownership, tokens, and entering FAULTED. -/

namespace Sys2Proof.Machine

/-! ## Geometry (01 R18–R35, 06 R168) -/

def coreX (n : Nat) : Nat := n % 256
def coreY (n : Nat) : Nat := n / 256
def coreAt (x y : Nat) : Nat := y * 256 + x
/-- The tile of a core: four columns of 64, two rows of 32 (01 R27). -/
def tileOf (n : Nat) : Nat := coreY n / 32 * 4 + coreX n / 64
/-- The block of a core: 32 blocks of 8 × 8 cores a tile (01 R27). -/
def blockOf (n : Nat) : Nat := 32 * tileOf n + 8 * (coreY n % 32 / 8) + coreX n % 64 / 8
/-- The lowest-numbered core of a block. -/
def firstCore (b : Nat) : Nat :=
  let t := b / 32
  coreAt (t % 4 * 64 + b % 8 * 8) (t / 4 * 32 + b % 32 / 8 * 8)
/-- The cores of a block, ascending. -/
def coresOfBlock (b : Nat) : List Nat :=
  (List.range 64).map (fun i => firstCore b + i / 8 * 256 + i % 8)

def b2n (b : Bool) : Nat := if b then 1 else 0

/-- Bit i of a set held as a number. -/
def bitOf (m i : Nat) : Bool := m / 2 ^ i % 2 = 1
/-- The members below n of a set held as a number, ascending. -/
def members (m n : Nat) : List Nat := (List.range n).filter (bitOf m)

/-! ## Device addresses (07 R203, R213, 08 R229, R251, R253) -/

def coreWindow (n : Nat) : Nat := 0x100000000 + n * 0x40000
def sliceBase (n : Nat) : Nat := 0x4000000000 + n * 0x1000000
def hbmBase : Nat := 0x8000000000
def hbmTop : Nat := 0x14000000000
def scratchBase : Nat := 0x20000000000
def scratchTop : Nat := 0x20004000000
def channelBytes : Nat := 0x60000000
/-- The channel, 32 s + c, of an HBM address: 48 GiB a stack, 1.5 GiB a channel (08 R229). -/
def chanOfAddr (a : Nat) : Nat := (a - hbmBase) / channelBytes
def chanAddr (c : Nat) : Nat := hbmBase + c * channelBytes
def isHbm (a : Nat) : Bool := decide (hbmBase ≤ a) && decide (a < hbmTop)
def isScratch (a : Nat) : Bool := decide (scratchBase ≤ a) && decide (a < scratchTop)
/-- Offsets inside a core's window (07 R203). -/
def bundleOff : Nat := 0x30000
def blendOff : Nat := 0x38000
def routeOff : Nat := 0x3A000
def sramBytes : Nat := 0x30000
def sliceBytes : Nat := 0x1000000

/-! ## Memory -/

/-- One byte: what every read of memory goes through. -/
def Mem.byte (m : Mem) (a : Nat) : Byte := SMap.get (0 : Byte) m.bytes a

def Mem.setByte (m : Mem) (a : Nat) (b : Byte) : Mem := { m with bytes := SMap.set (0 : Byte) m.bytes a b }

def Mem.read (m : Mem) (a n : Nat) : Bytes := (List.range n).map (fun i => m.byte (a + i))

/-- Writes bytes from an address upwards. -/
def Mem.write (m : Mem) (a : Nat) : Bytes → Mem
  | [] => m
  | b :: bs => (m.setByte a b).write (a + 1) bs

/-- Marks the protection unit at an address freshly written: its check bits valid, its poison bit as given. -/
def Mem.mark (m : Mem) (u : Nat) (p : Bool) : Mem :=
  { m with poison := SMap.set false m.poison u p, flips := SMap.del m.flips u }

/-- Writes one protection unit. -/
def Mem.writeUnit (m : Mem) (u : Nat) (bs : Bytes) (p : Bool) : Mem := (m.write u bs).mark u p

/-- Zero-fills a range of whole units (07 R212, 08 R233). -/
def Mem.zero (m : Mem) (lo hi : Nat) : Mem :=
  { bytes := SMap.clear m.bytes lo hi, poison := SMap.clear m.poison lo hi, flips := SMap.clear m.flips lo hi }

/-- The canonical form of memory. -/
def Mem.wf (m : Mem) : Bool :=
  SMap.wf (0 : Byte) m.bytes && SMap.wf false m.poison && SMap.sorted m.flips

/-- The number of set bits. -/
def popCount : Nat → Nat → Nat
  | 0, _ => 0
  | k + 1, x => x % 2 + popCount k (x / 2)

/-- What a SECDED (72,64) check finds (07 R209). -/
inductive Check where
  | clean | corrected | bad
deriving DecidableEq, Repr

def secded (flips : Nat) : Check :=
  match popCount 72 flips with
  | 0 => .clean
  | 1 => .corrected
  | 2 => .bad
  | _ => if Config.secdedDetects flips then .bad else .corrected

/-- A 64-bit word under SECDED: its bytes as delivered, whether it is delivered poisoned, and what the check found. -/
def Mem.word (m : Mem) (a : Nat) : Bytes × Bool × Check :=
  let f := SMap.get 0 m.flips a
  let c := secded f
  let d := m.read a 8
  let d := if popCount 72 f ≥ 3 ∧ c = .corrected then
      d.zipWith (· ^^^ ·) ((List.range 8).map (fun i => (Config.secdedDelta f).extractLsb' (8 * i) 8))
    else d
  (d, SMap.get false m.poison a || c = .bad, c)

/-- n consecutive words under SECDED: bytes, poison of each word, checks. -/
def Mem.words (m : Mem) (a n : Nat) : Bytes × List Bool × List Check :=
  let ws := (List.range n).map (fun i => m.word (a + 8 * i))
  (ws.flatMap (·.1), ws.map (·.2.1), ws.map (·.2.2))

/-- Little-endian number of a byte string. -/
def leVal : Bytes → Nat
  | [] => 0
  | b :: bs => b.toNat + 256 * leVal bs

/-- The n bytes of a number, lowest first. -/
def leBytes : Nat → Nat → Bytes
  | 0, _ => []
  | k + 1, x => BitVec.ofNat 8 (x % 256) :: leBytes k (x / 256)

def Mem.nat (m : Mem) (a n : Nat) : Nat := leVal (m.read a n)

/-- Signed value of the low w bits. -/
def sext (w x : Nat) : Int := let y := x % 2 ^ w; if y ≥ 2 ^ (w - 1) then (y : Int) - 2 ^ w else y

/-! ## Units -/

def State.core (s : State) (n : Nat) : Core := SMap.get Core.reset s.cores n
def State.setCore (s : State) (n : Nat) (c : Core) : State := { s with cores := SMap.put s.cores n c }
def State.router (s : State) (n : Nat) : Router := SMap.get Router.reset s.routers n
def State.setRouter (s : State) (n : Nat) (r : Router) : State := { s with routers := SMap.put s.routers n r }
def State.part (s : State) (p : Nat) : Partition := SMap.get Partition.reset s.parts p
def State.setPart (s : State) (p : Nat) (x : Partition) : State := { s with parts := SMap.put s.parts p x }
def State.slice (s : State) (n : Nat) : Slice := SMap.get Slice.reset s.slices n
def State.setSlice (s : State) (n : Nat) (x : Slice) : State := { s with slices := SMap.put s.slices n x }
def State.chan (s : State) (c : Nat) : Chan := SMap.get Chan.reset s.chans c
def State.setChan (s : State) (c : Nat) (x : Chan) : State := { s with chans := SMap.put s.chans c x }
def State.clove (s : State) (c : Nat) : Clove := SMap.get Clove.reset s.cloves c
def State.setClove (s : State) (c : Nat) (x : Clove) : State := { s with cloves := SMap.put s.cloves c x }
def State.engine (s : State) (d : Nat) : Engine := SMap.get Engine.reset s.engines d
def State.setEngine (s : State) (d : Nat) (x : Engine) : State := { s with engines := SMap.put s.engines d x }
def State.block (s : State) (b : Nat) : Block := SMap.get Block.reset s.blocks b
def State.setBlock (s : State) (b : Nat) (x : Block) : State := { s with blocks := SMap.put s.blocks b x }
def State.key (s : State) (k : Nat) : KeySlot := SMap.get KeySlot.reset s.keys k
def State.setKey (s : State) (k : Nat) (x : KeySlot) : State := { s with keys := SMap.put s.keys k x }
def State.port (s : State) (q : Nat) : Port := SMap.get Port.reset s.ports q
def State.setPort (s : State) (q : Nat) (x : Port) : State := { s with ports := SMap.put s.ports q x }
def State.coll (s : State) (x : Nat) : CollCtx := SMap.get CollCtx.reset s.colls x
def State.setColl (s : State) (x : Nat) (c : CollCtx) : State := { s with colls := SMap.put s.colls x c }
def State.ring (s : State) (r : Nat) : HostRing := SMap.get HostRing.reset s.rings r
def State.setRing (s : State) (r : Nat) (x : HostRing) : State := { s with rings := SMap.put s.rings r x }
def State.xing (s : State) (i : Nat) : Xing := SMap.get Xing.reset s.xings i
def State.setXing (s : State) (i : Nat) (x : Xing) : State := { s with xings := SMap.put s.xings i x }
def State.att (s : State) (i : Nat) : Attach := SMap.get Attach.reset s.attach i
def State.setAtt (s : State) (i : Nat) (x : Attach) : State := { s with attach := SMap.put s.attach i x }

/-- A free value, and the state in which it has been used. -/
def State.free (s : State) (w : Nat) : BitVec w × State :=
  (Config.freeValue s.freeCtr w, { s with freeCtr := s.freeCtr + 1 })

/-- Whether a checker meets an error of the given kind, and the state in which it has (17 R517–R520). -/
def State.takeUpset (s : State) (u : Upset) : Bool × State :=
  if s.upsets.contains u then (true, { s with upsets := s.upsets.erase u }) else (false, s)

/-- Something leaves the block. -/
def State.send (s : State) (o : Out) : State := { s with out := s.out ++ [o] }

/-! ## Ownership (12 R365, 15 R450) -/

def State.rec_ (s : State) (p : Nat) : PartRec := SMap.get PartRec.none s.devFacet.parts p

/-- The partition, if any, that exists and holds a member of a set of its record. -/
def State.ownerBy (s : State) (f : PartRec → Bool) : Option Nat :=
  (List.range 64).find? (fun p => (s.rec_ p).valid && f (s.rec_ p) && (s.part p).state != .empty)

def State.partOfBlock (s : State) (b : Nat) : Option Nat := s.ownerBy (fun r => bitOf r.blocks b)
def State.partOfCore (s : State) (n : Nat) : Option Nat := s.partOfBlock (blockOf n)
def State.partOfChan (s : State) (c : Nat) : Option Nat := s.ownerBy (fun r => bitOf r.channels c)
def State.partOfEngine (s : State) (d : Nat) : Option Nat := s.ownerBy (fun r => bitOf r.engines d)
def State.partOfCtx (s : State) (x : Nat) : Option Nat := s.ownerBy (fun r => bitOf r.collctx x)
def State.partOfKey (s : State) (k : Nat) : Option Nat := s.ownerBy (fun r => bitOf r.keyslots k)

def State.blocksOf (s : State) (p : Nat) : List Nat := members (s.rec_ p).blocks 256
def State.chansOf (s : State) (p : Nat) : List Nat := members (s.rec_ p).channels 512
def State.enginesOf (s : State) (p : Nat) : List Nat := members (s.rec_ p).engines 192
def State.ctxsOf (s : State) (p : Nat) : List Nat := members (s.rec_ p).collctx 64
def State.keysOf (s : State) (p : Nat) : List Nat := members (s.rec_ p).keyslots 128
/-- The cores of a partition, in ascending order within each block. -/
def State.coresOf (s : State) (p : Nat) : List Nat := (s.blocksOf p).flatMap coresOfBlock
/-- The partition's lowest-numbered core (05 R134). -/
def State.pacing (s : State) (p : Nat) : Nat :=
  ((s.blocksOf p).map firstCore).foldl min 16384

/-- Whether a partition is in one of the given states. -/
def State.partIn (s : State) (p : Nat) (xs : List PState) : Bool := xs.contains (s.part p).state

/-! ## Time, counters and trace (20 R602–R614) -/

/-- The pause cycles counted since the entry step (11 R320). -/
def Partition.pauseTotal (x : Partition) : Nat := x.paused.foldl (fun a p => a + p.2) 0
/-- A real cycle of the core's partition: unpaused cycles and the pause cycles counted (05 R150, 11 R320). -/
def State.realNow (s : State) (n : Nat) : Nat :=
  (s.core n).seq.now + (match s.partOfCore n with | some p => (s.part p).pauseTotal | none => 0)

/-- u, the unpaused cycles of a partition since its entry step: its pacing core's (06 R189). -/
def State.uOf (s : State) (p : Nat) : Nat := (s.core (s.pacing p)).seq.now

/-- The throttle level of a partition (18 R573). -/
def State.throttleLevel (s : State) (p : Nat) : Nat := bits (s.reg (Reg.throttle p)) 29 3

/-- Some wait of the partition pauses it in real cycle r (05 R150). -/
def State.waitPauses (s : State) (p r : Nat) : Bool :=
  let x := s.part p
  x.waitIv.any (fun i => decide (i.1 ≤ r) && decide (r < i.2)) ||
  s.cores.any (fun c => (s.partOfCore c.1 == some p) && c.2.seq.waits.any (fun w => decide (w.at_ + x.plead ≤ r)))

/-- A throttle pause begins at unpaused cycle u (18 R573). -/
def State.throttleDue (s : State) (p u : Nat) : Bool :=
  decide (0 < s.throttleLevel p) && decide (u ≠ 0) && u % 4096 == 0 && (s.part p).throttleAt != u

/-- A deferred pause begins at unpaused cycle u: PLEAD cycles after its PERMIT bundle (05 R135). -/
def State.deferredDue (s : State) (p u : Nat) : Bool :=
  match (s.part p).deferred with
  | some (_, _, some v) => decide (v + (s.part p).plead ≤ u)
  | _ => false

/-- No PERMIT bundle issued within 4,096 unpaused cycles of a request (05 R135). -/
def State.starved (s : State) (p u : Nat) : Bool :=
  match (s.part p).deferred with
  | some (r, _, none) => decide (r + 4096 ≤ u)
  | _ => false

/-- The partition is paused, or a fault of its pacing core is due, before the cycle in which a core is at u. -/
def State.heldAt (s : State) (p u : Nat) : Bool :=
  (s.part p).brownout || s.waitPauses p (u + (s.part p).pauseTotal) || s.throttleDue p u || s.deferredDue p u

/-- No running core or router of the partition is still in a cycle before u: the units of a partition step together (05 R129,
06 R171, 11 R315). -/
def State.inStep (s : State) (p u : Nat) : Bool :=
  s.cores.all (fun c => !c.2.seq.running || decide (u ≤ c.2.seq.now) || s.partOfCore c.1 != some p) &&
  s.routers.all (fun r => !r.2.running || decide (u ≤ r.2.now) || s.partOfCore r.1 != some p)

/-- One past the last cycle that a partition performs once poison has been consumed: the first step mark at or after the consumption, or
the 2,097,152nd cycle after it (17 R525). -/
def Partition.poisonCut (x : Partition) : Option Nat :=
  x.consumed.map (fun c => match x.lastMark with
    | some m => if c.1 ≤ m then min (m + 1) (c.1 + 2097153) else c.1 + 2097153
    | none => c.1 + 2097153)

/-- Cycle u lies before a cut. -/
def before (u : Nat) (cut : Option Nat) : Bool := match cut with | some c => decide (u < c) | none => true

/-- The cycle u of a partition is performed: it runs and nothing pauses it, or its cut lies beyond u (17 R528). -/
def State.performs (s : State) (p u : Nat) : Bool :=
  match (s.part p).state with
  | .running => s.dev != .shutdown && !s.heldAt p u && before u (s.part p).haltCut && before u (s.part p).poisonCut
  | .stopped | .paused | .faulted => decide (u < (s.part p).freezeAt)
  | _ => false

/-- Whether units of a partition may act in their cycle u: it is performed, and no unit lags behind. -/
def State.mayAct (s : State) (p u : Nat) : Bool := s.performs p u && s.inStep p u

/-- Whether what core n's engines and port do in its present cycle may happen: a pause, a cut and a freeze hold it (03 R95, R96,
07 R221). -/
def State.coreFree (s : State) (n : Nat) : Bool :=
  match s.partOfCore n with
  | none => true
  | some p => s.mayAct p (s.core n).seq.now

/-- One past the last cycle that the units of a partition perform when one of them faults at t: the cycle t itself is performed
(03 R96), unless a pause holds it back. -/
def State.limitAt (s : State) (p t : Nat) : Nat := if s.heldAt p t then t else t + 1

/-- Length of the pause a refresh band requests (07 R222). -/
def bandPause (b : Nat) : Nat :=
  match b with
  | 0 => 0
  | 1 => 192
  | 2 => 576
  | _ => 1344

/-- The partition's present cycle is the first of a base window whose band requests a pause that has not been requested yet
(07 R222). -/
def State.windowDue (s : State) (p : Nat) : Bool :=
  let x := s.part p
  decide (bandPause x.band ≠ 0) && s.uOf p % 4096 == x.facet.glob.refoff % 4096 && x.windowAt != s.uOf p + 1 &&
    s.partIn p [.running]

/-- The scope of a unit's counters: its partition, or GLOBAL (20 R604). -/
def cntScope (p : Option Nat) : Nat := match p with | some p => Reg.cntEnable p | none => Reg.cntEnableGlobal

/-- Adds to a counter of a set (its SET bit) in a scope, when an enable bit of that scope and set is 1 (20 R603, R604). -/
def State.tally (s : State) (p : Option Nat) (set off k : Nat) : State :=
  let w := s.reg (cntScope p)
  if bits w set 1 = 0 ∧ bits w (16 + set) 1 = 0 then s
  else { s with cnts := SMap.set 0 s.cnts off ((SMap.get 0 s.cnts off + k) % 2 ^ 64) }

/-- Counter addresses (20 R603). -/
def Cnt.core (n i : Nat) : Nat := 0x0400000 + 32 * n + 8 * i
def Cnt.mesh (n i : Nat) : Nat := 0x0480000 + 64 * n + 8 * i
def Cnt.xing (e m i : Nat) : Nat := 0x0580000 + 256 * e + 16 * m + 8 * i
def Cnt.hbm (c i : Nat) : Nat := 0x0590000 + 64 * c + 8 * i
def Cnt.cc (h p i : Nat) : Nat := 0x05A0000 + 2048 * h + 32 * p + 8 * i
def Cnt.ccTotal (h i : Nat) : Nat := 0x05A1000 + 32 * h + 8 * i
def Cnt.fabPart (p q i : Nat) : Nat := 0x05C0000 + 512 * p + 16 * q + 8 * i
def Cnt.fab (q i : Nat) : Nat := 0x05B0000 + 16 * q + 8 * i
def Cnt.pciePart (p i : Nat) : Nat := 0x05D1000 + 32 * p + 8 * i
def Cnt.pcie (f i : Nat) : Nat := 0x05D0000 + 16 * f + 8 * i

/-- A core's counter i (20 R603). -/
def State.tallyCore (s : State) (n i k : Nat) : State :=
  if k = 0 then s else s.tally (s.partOfCore n) 0 (Cnt.core n i) k

/-- PEER's codes (20 R611). -/
def peerReq (r : Nat) : Word := BitVec.ofNat 32 (0x10000000 + r % 1024)
def peerCore (n : Nat) : Word := BitVec.ofNat 32 (0x20000000 + n % 16384)
def peerCtx (x : Nat) : Word := BitVec.ofNat 32 (0x30000000 + x % 64)
def peerFab (q pp : Nat) : Word := BitVec.ofNat 32 (0x40000000 + 64 * (q % 32) + pp % 64)
def peerWriter (i : Nat) : Word := BitVec.ofNat 32 (0x50000000 + i % 32)
/-- Requester numbers (08 R246) of an engine and of a Clove core. -/
def reqEngine (d : Nat) : Nat := if d < 128 then 0x80 + d else 0x10 + (d - 128)
def reqClove (c : Nat) : Nat := 0x100 + c

/-- A trace record (20 R609). -/
def traceRec (type flags unit where_ detail part time step dur peer data : Nat) : TraceRec :=
  BitVec.ofNat 256 (type % 256 + 2 ^ 8 * (flags % 256) + 2 ^ 16 * (unit % 65536) + 2 ^ 32 * (where_ % 65536) +
    2 ^ 48 * (detail % 256) + 2 ^ 56 * (part % 256) + 2 ^ 64 * (time % 2 ^ 64) + 2 ^ 128 * (step % 2 ^ 32) +
    2 ^ 160 * (min dur 0xFFFFFFFF) + 2 ^ 192 * (peer % 2 ^ 32) + 2 ^ 224 * (data % 2 ^ 32))

/-- A unit records an event of partition p in its ring and for each stream that is on (20 R608, R614): the class, the ring's key
and length, the stream writer. -/
def State.traceEv (s : State) (cls key cap writer p : Nat) (r : TraceRec) : State :=
  let on (i : Nat) : Bool := bitOf (SMap.get TraceCfg.reset s.traceCfg i).units cls
  if !on (2 * p) && !on (2 * p + 1) then s else
  let old := SMap.get [] s.trace key
  let s := { s with trace := SMap.put s.trace key ((old ++ [r]).drop (old.length + 1 - cap)) }
  [2 * p, 2 * p + 1].foldl (fun s i =>
    if on i && (SMap.get TraceCfg.reset s.traceCfg i).stream then
      let q := 64 * i + writer
      { s with traceQ := SMap.put s.traceQ q (SMap.get [] s.traceQ q ++ [r]) }
    else s) s

/-- The step number of a partition: its pacing core's step copy (05 R134). -/
def State.stepOf (s : State) (p : Nat) : Nat := (s.core (s.pacing p)).seq.step.toNat

def State.pausedFlag (s : State) (p : Nat) : Nat := if s.heldAt p (s.uOf p) then 2 else 0

/-- A core's record (20 R610): type, bundle, DETAIL, DUR, PEER, DATA. -/
def State.traceCore (s : State) (n type bundle detail dur peer data : Nat) : State :=
  match s.partOfCore n with
  | none => s
  | some p => s.traceEv 0 n 32 (tileOf n) p
      (traceRec type (s.pausedFlag p) n bundle detail p s.timebase (s.core n).seq.step.toNat dur peer data)

/-- PAUSE (20 R610): a pause of the partition for a cause (numbered from 0 in the order of 11 R320) ends. -/
def State.tracePause (s : State) (p cause len : Nat) : State :=
  let n := s.pacing p
  s.traceCore n 0x04 (s.core n).seq.next (cause + 1) len 0 0

/-- The hub that keeps an engine's or context's records (20 R608). -/
def hubOfEngine (d : Nat) : Nat := if d ≥ 128 then (d - 128) / 32 else if [0, 1, 4, 5].contains (d / 16) then 0 else 1
/-- A hub's record about unit u, an engine or 0x200 + a context. -/
def State.traceHub (s : State) (h p u type where_ detail dur peer data flags : Nat) : State :=
  s.traceEv 1 (0x10000 + h) 64 (8 + h) p
    (traceRec type (flags + s.pausedFlag p) u where_ detail p s.timebase (s.stepOf p) dur peer data)
/-- A Clove core's record. -/
def State.traceClove (s : State) (c type where_ detail dur peer data flags : Nat) : State :=
  match s.partOfChan c with
  | none => s
  | some p => s.traceEv 2 (0x20000 + c) 64 (16 + c / 32) p
      (traceRec type (flags + s.pausedFlag p) c where_ detail p s.timebase (s.stepOf p) dur peer data)

/-! ## Faults of a partition (03 R96, 17 R527–R530) -/

/-- The R12 status codes (00 R12). -/
def St.ok : Nat := 0x00
def St.notReady : Nat := 0x01
def St.refused : Nat := 0x02
def St.badArgument : Nat := 0x03
def St.noResource : Nat := 0x04
def St.busy : Nat := 0x05
def St.imageInvalid : Nat := 0x06
def St.digestMismatch : Nat := 0x07
def St.licenceMissing : Nat := 0x08
def St.partial_ : Nat := 0x09
def St.timeout : Nat := 0x0A
def St.poisoned : Nat := 0x0B
def St.uncorrectable : Nat := 0x0C
def St.linkDown : Nat := 0x0D
def St.keyExhausted : Nat := 0x0E
def St.faulted : Nat := 0x0F
def St.deviceHold : Nat := 0x10
def St.poolEmpty : Nat := 0x11
def St.keyRotateDue : Nat := 0x12
def St.accessFault : Nat := 0x13

/-- MSI-X Message Control of function f (13 R385; its place is the model's, log 96): Enable in bit 31, Function Mask in bit 30. -/
def State.msixCtrl (s : State) (f : Nat) : Word := SMap.get 0 s.pciCfg (1024 * f + 0x50 / 4)

/-- Sends an MSI-X message of function f, or sets its pending bit while its vector control or Function Mask masks it or MSI-X is not enabled
(13 R385, R388, R408, log 96). -/
def State.msix (s : State) (f v : Nat) : State :=
  if bits (s.reg (Reg.msixTable f v 3)) 0 1 = 1 ∨ bits (s.msixCtrl f) 30 2 ≠ 2 then s.setField (Reg.msixPba f (v / 32)) (v % 32) 1 1
  else (s.tally none 6 (Cnt.pcie f 0) 4).send (.msix f v)

/-- Records a device-visible event bit and raises the event vectors (13 R398, 21 R634). -/
def State.hostEvent (s : State) (bit : Nat) : State :=
  if bits (s.reg Reg.hostEvent) bit 1 = 1 then s else
  let s := s.setField Reg.hostEvent bit 1 1
  let s := { s with loupe := { s.loupe with smbAlert := true } }
  [0, 1].foldl (fun s f =>
    let v := s.reg (Reg.eventVec f)
    if bits v 31 1 = 1 then s.msix f (bits v 0 11) else s) s

/-- The parity check of a granule or message on a path: a failure is counted (17 R517). -/
def State.parity (s : State) (path : Nat) : Bool × State :=
  let r := s.takeUpset (.parity path)
  (r.1, if r.1 then r.2.countField Reg.errDevice 8 8 1 else r.2)

/-- How much of a block runs. -/
def BState.rank : BState → Nat
  | .off => 0
  | .retain => 1
  | .active => 2
  | .retired => 3

/-- A raise or a lowering of a block that a change of its partition's state asks for (18 R558–R560). A lowering under way ends before a raise
joins the queue. -/
def State.retarget (s : State) (b : Nat) (t : BState) : State :=
  let x := s.block b
  if x.state = .retired ∨ x.target = t then s else
  let rank := BState.rank
  let x := if !x.ramping ∧ rank x.target < rank x.state ∧ rank x.state ≤ rank t then { x with state := x.target } else x
  if rank x.state < rank t then
    let tl := b / 32
    let q := SMap.get [] s.aperture tl
    let s := if x.queued || x.ramping then s else { s with aperture := SMap.put s.aperture tl (q ++ [b]) }
    s.setBlock b { x with target := t, queued := !x.ramping }
  else
    let tl := b / 32
    let q := SMap.get [] s.aperture tl
    let s := { s with aperture := SMap.put s.aperture tl (q.filter (· != b)) }
    s.setBlock b { x with target := t, queued := false }

/-- Every block of a partition moves towards a state. -/
def State.retargetAll (s : State) (p : Nat) (t : BState) : State :=
  (s.blocksOf p).foldl (fun s b => s.retarget b t) s

/-- The state a partition's blocks take from its own (18 R558). -/
def PState.blocks : PState → BState
  | .empty | .configured => .off
  | .loaded | .stopped | .faulted => .retain
  | .running | .paused | .retiring => .active

/-- A partition moves to a state and its blocks follow (15 R450, 18 R558). -/
def State.move (s : State) (p : Nat) (st : PState) : State :=
  (s.setPart p { s.part p with state := st }).retargetAll p st.blocks

/-- The run command in flight ends with an END (14 R434). -/
def Partition.endRun (x : Partition) (code : Nat) : Partition :=
  match x.run with
  | some r => { x with run := some { r with ended := r.ended.or (some code) } }
  | none => x

/-- The R12 status of a run that ends with a fault's cause: TIMEOUT for a wait that timed out, else FAULTED (05 R150, 14 R434). -/
def causeStatus (cause : Nat) : Nat := if cause = 0x11 then 0x0A else 0x0F

/-- A running or paused partition enters FAULTED with a cause (17 R527, R528, R530): PART_FAULT and PART_FAULT_STEP are
loaded and the run command ends FAULTED. Cycles below `limit` still issue. -/
def State.enterFaulted (s : State) (p cause : Nat) (core : Option Nat) (limit : Nat) : State :=
  if ¬ s.partIn p [.running, .paused] then s else
  let w := s.reg (Reg.partFault p)
  let w := setBits w 24 8 cause
  let w := setBits w 14 1 (if core.isSome then 1 else 0)
  let w := setBits w 0 14 (core.getD 0)
  let s := s.setReg (Reg.partFault p) w
  let s := s.setReg (Reg.partFaultStep p) (((s.core (s.pacing p)).seq.step).setWidth 32)
  let s := s.setPart p { (s.part p).endRun 4 with freezeAt := limit, faultKey := (0, 0) }
  s.move p .faulted

/-- The latest cycle that a core or router of a partition has reached. -/
def State.farthest (s : State) (p : Nat) : Nat :=
  (s.coresOf p).foldl (fun a n => max a (max (s.core n).seq.now (s.router n).now)) 0

/-- A partition enters FAULTED for a cause that no unit raised: its units freeze on one cycle, the latest that one of them has reached
(17 R528). A PAUSED partition enters FAULTED only for HOLD (15 R450) and, as 17 R531 says, for a second recoverable event (log 52). -/
def State.faultPart (s : State) (p cause : Nat) (core : Option Nat) : State :=
  if s.partIn p [.running] ∨ cause = 0x44 ∨ cause = 0x45 then s.enterFaulted p cause core (s.farthest p) else s

/-- What tells a cycle t of a partition from every other: its number, and inside a pause the time too (03 R96). -/
def State.cycleKey (s : State) (p t : Nat) : Nat × Nat := (t + 1, if s.heldAt p t then s.timebase + 1 else 0)

/-- Partition p entered FAULTED by a unit's fault of this same cycle t. -/
def State.faultedAt (s : State) (p t : Nat) : Bool := s.partIn p [.faulted] && (s.part p).faultKey == s.cycleKey p t

/-- A core or router of a partition raises a fault in cycle t (03 R96): the partition enters FAULTED, or, when it did in this
same cycle, the lowest-numbered core that raised a fault in it is the one reported. A PAUSED partition faults in a cycle that lies before its cut. -/
def State.unitFault (s : State) (p cause n t : Nat) : State :=
  if s.partIn p [.running] ∨ (s.partIn p [.paused] ∧ t < (s.part p).freezeAt) then
    let key := s.cycleKey p t
    let s := s.enterFaulted p cause (some n) (s.limitAt p t)
    s.setPart p { s.part p with faultKey := key }
  else if s.faultedAt p t ∧ bits (s.reg (Reg.partFault p)) 14 1 = 1 ∧ n ≤ bits (s.reg (Reg.partFault p)) 0 14 then
    (s.setField (Reg.partFault p) 24 8 cause).setField (Reg.partFault p) 0 14 n
  else s

/-! ## Device events (17 R531, R545–R547) -/

/-- ERR_DEVICE's bit of a class's window: POWER 1, THERMAL 2, LOUPE 3, SERVICE 4 (17 R548). -/
def winBit (cls : Nat) : Nat := 32 - cls

/-- The CX2 enters HOLD with a cause (17 R547): partitions fault, and commands in flight end with DEVICE_HOLD, but for run commands, which
end FAULTED with their partition (14 R434). Engines, collective contexts and Clove cores stop, and end what they run with DEVICE_HOLD at
their next command (DESCRIPTOR_END, COLL_INSTANCE_END, CLOVE_INSTRUCTION). -/
def State.enterHold (s : State) (cause : Nat) : State :=
  if s.dev = .hold ∨ s.dev = .shutdown then s else
  let s := s.setField Reg.hostState 20 8 cause
  let s := { s with dev := .hold }
  let s := s.hostEvent 3
  let s := (List.range 64).foldl (fun s p => s.faultPart p 0x44 none) s
  -- every block keeps its state, but ACTIVE ones go to RETAIN (18 R558)
  let s := (List.range 256).foldl (fun s b =>
    let x := s.block b
    if x.state = .active then s.retarget b .retain
    else s.setBlock b { x with target := x.state, queued := false, ramping := false }) { s with aperture := [] }
  let ran (c : InFlight) : Bool := [0x18, 0x1A, 0x1B].contains c.opcode &&
    s.parts.any (fun x => match x.2.run with | some r => r.via == c.via && r.cid == c.cid | none => false)
  let endCmd (c : InFlight) : InFlight := if ran c then c else { c with result := c.result.or (some ⟨St.deviceHold, 0, []⟩) }
  { s with loupe := { s.loupe with inflight := s.loupe.inflight.map endCmd } }

/-- A device event of a class (17 R545, R546): it opens its window, and while another class's is open it enters HOLD. `lasts`
says that the condition goes on. -/
def State.deviceEvent (s : State) (cls : Nat) (lasts : Bool) : State :=
  let s := if lasts ∧ ¬ s.loupe.conds.contains cls then
      { s with loupe := { s.loupe with conds := s.loupe.conds ++ [cls] } } else s
  let other := [1, 2, 3, 4].find? (fun c => c != cls && bits (s.reg Reg.errDevice) (winBit c) 1 == 1)
  let s := s.setField Reg.errDevice (winBit cls) 1 1
  let s := { s with loupe := { s.loupe with winAt := SMap.put s.loupe.winAt cls s.timebase } }
  match other with
  | none => s
  | some c =>
    if s.dev = .hold ∨ s.dev = .shutdown ∨ s.dev = .cold then s else
    ((s.setField Reg.errDevice 25 3 c).setField Reg.errDevice 22 3 cls).enterHold 3

/-- The condition of a device event ends; its window closes 1 s later. -/
def State.deviceEventEnds (s : State) (cls : Nat) : State :=
  if s.loupe.conds.contains cls then
    { s with loupe := { s.loupe with conds := s.loupe.conds.filter (· != cls), winAt := SMap.put s.loupe.winAt cls s.timebase } }
  else s

/-- Whether a partition's recovery window is open (17 R531). -/
def State.windowOpen (s : State) (p : Nat) : Bool := bits (s.reg (Reg.recovery p)) 31 1 == 1

/-- A recoverable event of a running or paused partition (17 R531): a second one that began in its window faults it. `second` says whether
the window was open when the event began. -/
def State.recoverable (s : State) (p code : Nat) (second : Bool) : State :=
  if ¬ s.partIn p [.running, .paused] then s else
  let o := Reg.recovery p
  let s := ((s.countField o 0 16 1).setField o 28 3 code).setField o 31 1 1
  let s := s.setPart p { s.part p with recoveryAt := s.timebase }
  if second then s.faultPart p 0x45 none else s

/-- The place of a fault in the core (05 R167): its slot, the blend word it came from, its bundle. -/
structure FaultAt where
  slot : Nat
  blend : Option Nat
  bundle : Nat
deriving DecidableEq, Repr

/-- Whether a core's fault of now replaces what the core has recorded (05 R167, 03 R96): nothing is recorded yet, or what is
recorded was raised in this same cycle by a higher SLOT, by the same SLOT with a higher code, or by the core's router. -/
def State.faultWins (s : State) (n code : Nat) (at_ : FaultAt) : Bool :=
  let pc := s.reg (Reg.faultPc n)
  let first := bits (s.reg (Reg.engineStatus n)) 8 8
  let now := (s.core n).seq.now
  let same : Bool := match s.partOfCore n with
    | some p => s.faultedAt p now
    | none => false
  if bits pc 31 1 = 1 then
    (s.core n).seq.faultAt == some now && same &&
      (decide (at_.slot < bits pc 28 3) || (at_.slot == bits pc 28 3 && decide (code < first)))
  else first == 0 || same

/-- A core raises a schedule fault (03 R96, 05 R167): FIRST_CAUSE and CORE_FAULT_PC keep the first, and the core's
partition enters FAULTED. -/
def State.coreFault (s : State) (n code : Nat) (at_ : FaultAt) : State :=
  let wins := s.faultWins n code at_
  let s := if wins then s.setField (Reg.engineStatus n) 8 8 code else s
  let s := s.orReg (Reg.engineStatus n) 2
  let s :=
    if !wins && bits (s.reg (Reg.faultPc n)) 31 1 = 1 then s else
    let w : Word := 0x80000000
    let w := setBits w 28 3 at_.slot
    let w := setBits w 27 1 (if at_.blend.isSome then 1 else 0)
    let w := setBits w 18 9 (at_.blend.getD 0)
    let c := s.core n
    (s.setCore n { c with seq := { c.seq with faultAt := some c.seq.now } }).setReg (Reg.faultPc n) (setBits w 0 10 at_.bundle)
  let s := s.traceCore n 0x05 at_.bundle code 0 0 0
  match s.partOfCore n with
  | some p => s.unitFault p (if wins then code else bits (s.reg (Reg.engineStatus n)) 8 8) n (s.core n).seq.now
  | none => s

/-- Schedule fault codes (03 R96, 04 R127, 05 R166, 06 R199, 07 R205, 10 R304, 17 R542). -/
def Sf.opeOverlap : Nat := 0x01
def Sf.tileConflict : Nat := 0x02
def Sf.typeMismatch : Nat := 0x03
def Sf.drainOverlap : Nat := 0x04
def Sf.mvpOverlap : Nat := 0x05
def Sf.resultConflict : Nat := 0x06
def Sf.portConflict : Nat := 0x07
def Sf.blendOverlap : Nat := 0x08
def Sf.blendRange : Nat := 0x09
def Sf.blendAddress : Nat := 0x0A
def Sf.appendFull : Nat := 0x0B
def Sf.sendConflict : Nat := 0x0C
def Sf.loopDepth : Nat := 0x0D
def Sf.illegal : Nat := 0x0E
def Sf.tokenOverflow : Nat := 0x0F
def Sf.regParity : Nat := 0x10
def Sf.waitTimeout : Nat := 0x11
def Sf.fetchUncorrectable : Nat := 0x12
def Sf.scalarPoison : Nat := 0x13
def Sf.refreshStarved : Nat := 0x14
def Sf.bankConflict : Nat := 0x19
def Sf.appendUnderrun : Nat := 0x1A
def Sf.waitOverlap : Nat := 0x1C

/-! ## Tokens (05 R145, R148) -/

/-- A token register's number among the registers with parity (05 R142). -/
def parK (i : Nat) : Nat := 4096 + i

/-- An agent adds a count to token k of core n: it saturates at 0xFFFF and raises TOKEN_OVERFLOW when it would pass. A count that
meets a register of wrong parity is not added (05 R142). An agent's count is no slot's: CORE_FAULT_PC records SLOT 7 and the
core's next bundle (DEDUCED, log 61). -/
def State.tokenAdd (s : State) (n k cnt : Nat) (by_ : Word) : State :=
  let c := s.core n
  if c.seq.badParity.contains (parK k) then s.coreFault n Sf.regParity ⟨7, none, c.seq.next⟩ else
  let v := SMap.get 0 c.seq.k k + cnt
  let s := s.setCore n { c with seq := { c.seq with
    k := SMap.set 0 c.seq.k k (min v 0xFFFF), kBy := SMap.set 0 c.seq.kBy k by_ } }
  if v > 0xFFFF then s.coreFault n Sf.tokenOverflow ⟨7, none, c.seq.next⟩ else s

/-! ## The service network (08 R243, 17 R518) -/

/-- A packet between two dies, tiles 0–7 and hubs 8 and 9, needs a hop that has failed. -/
def State.svcLost (s : State) (a b : Nat) : Bool :=
  s.loupe.svcFails.any (fun x => decide (8 ≤ x.2) && (Config.svcPath a b).contains x.1)

/-- A token raise over the service network from a die: over a failed hop it is lost. -/
def State.svcToken (s : State) (die n k cnt : Nat) (by_ : Word) : State :=
  if s.svcLost die (tileOf n) then s else s.tokenAdd n k cnt by_

end Sys2Proof.Machine
end

