-- ==== Sys2Proof/Machine/Flags.lean ====
section
/-! DEFINITION. The flags and counts a core's work sets: CORE_ARITH_FLAGS (02 R61, R62), CORE_SRAM_STATUS (07 R210),
SLICE_STATUS (07 R218), and the consumption of poison (17 R523–R525). -/

namespace Sys2Proof.Machine

/-- Sets flags of CORE_ARITH_FLAGS[n]; they are sticky (02 R61). -/
def State.arith (s : State) (n : Nat) (f : AFlags) : State :=
  if f = 0 then s else s.orReg (Reg.arithFlags n) (f.setWidth 32)

/-- Counts the checks of a read of core n's memories; `sram` gives the word index of an SRAM check failure for BAD_WORD
(07 R209, R210). -/
def State.countCheck (s : State) (n : Nat) (c : Check) (sram : Option Nat) : State :=
  match c with
  | .clean => s
  | .corrected => s.countField (Reg.sramStatus n) 24 8 1
  | .bad =>
    let s := s.countField (Reg.sramStatus n) 16 8 1
    match sram with
    | none => s
    | some w =>
      if bits (s.reg (Reg.sramStatus n)) 15 1 = 1 then s
      else (s.setField (Reg.sramStatus n) 15 1 1).setField (Reg.sramStatus n) 0 15 w

def State.countChecks (s : State) (n off : Nat) (cs : List Check) : State :=
  (cs.zipIdx).foldl (fun s p => s.countCheck n p.1 (some (off / 8 + p.2))) s

/-- Reads n words of core SRAM at a byte offset: bytes, poison of each word, and the state with the checks counted. -/
def State.readSram (s : State) (n off k : Nat) : Bytes × List Bool × State :=
  let r := s.mem.words (coreWindow n + off) k
  (r.1, r.2.1, s.countChecks n off r.2.2)

/-- Writes whole words of a core's memories; bit i of `poi` is word i's poison. -/
def Mem.writeWords (m : Mem) (a : Nat) : Bytes → Nat → Mem
  | b0 :: b1 :: b2 :: b3 :: b4 :: b5 :: b6 :: b7 :: bs, poi =>
    (m.writeUnit a [b0, b1, b2, b3, b4, b5, b6, b7] (poi % 2 = 1)).writeWords (a + 8) bs (poi / 2)
  | _, _ => m

def State.writeCore (s : State) (n off : Nat) (bs : Bytes) (poi : Nat) : State :=
  { s with mem := s.mem.writeWords (coreWindow n + off) bs poi }

/-- A core consumes poisoned data (17 R523, R525): the first consumption since the last RUN, RESUME or REPLAY sets
POISON_SEEN, records the core and arms the partition's fault. -/
def State.consume (s : State) (n : Nat) : State :=
  match s.partOfCore n with
  | none => s
  | some p =>
    let x := s.part p
    let at_ := (s.core n).seq.now
    -- the first consumption counts, and of several of its cycle the lowest-numbered core's (17 R530)
    let first : Bool := match x.consumed with
      | some (c, m) => decide (at_ < c) || (at_ == c && decide (n < m))
      | none => true
    if !first then s else
    let s := s.setPart p { x with consumed := some (at_, n) }
    let s := s.orReg (Reg.partFault p) 0x00800000
    -- a fault of the partition has named its core already (03 R96)
    if s.partIn p [.faulted] then s else
    (s.setField (Reg.partFault p) 14 1 1).setField (Reg.partFault p) 0 14 n

def State.consumeIf (s : State) (n : Nat) (b : Bool) : State := if b then s.consume n else s

end Sys2Proof.Machine
end

