-- ==== Sys2Proof/Machine/Operands.lean ====
section
/-! DEFINITION. Operand forms: fields of slot and blend words, registers with their parity, blend sources (04 R105, R106,
05 R137, R140, R142). -/

namespace Sys2Proof.Machine

/-- A field of a 64-bit word. -/
def fld (w : DWord) (lo len : Nat) : Nat := w.toNat / 2 ^ lo % 2 ^ len

/-- A blend instruction word (04 R105). -/
structure BWord where
  opc : Nat
  dst : Nat
  sa : Nat
  sb : Nat
  sc : Nat
  msk : Nat
  mod_ : Nat
  imm : Nat
deriving DecidableEq, Repr

def BWord.ofWord (w : DWord) : BWord :=
  { opc := fld w 56 8, dst := fld w 51 5, sa := fld w 44 7, sb := fld w 37 7, sc := fld w 30 7, msk := fld w 28 2,
    mod_ := fld w 16 12, imm := fld w 0 16 }

/-- Bits [hi : lo] of the word that lie in MOD, by the word's bit numbers (04 R105: MOD is [27:16]). -/
def BWord.m (b : BWord) (lo len : Nat) : Nat := b.mod_ / 2 ^ (lo - 16) % 2 ^ len

/-- A single vector operation's word as a blend word (05 R161). -/
def BWord.ofVec (w : Word) : BWord :=
  { opc := bits w 25 6, dst := bits w 20 5, sa := bits w 13 7, sb := bits w 6 7, sc := 0, msk := bits w 4 2,
    mod_ := bits w 0 4, imm := 0 }

/-- The opcodes a single vector operation may carry (05 R161). -/
def vecOpcodes : List Nat :=
  [0x08, 0x09, 0x0A, 0x0C, 0x0D, 0x0E, 0x0F, 0x10, 0x11, 0x12, 0x18, 0x19, 0x1A, 0x1B,
   0x20, 0x21, 0x22, 0x23, 0x24, 0x25, 0x26, 0x27, 0x28, 0x29, 0x30, 0x31, 0x38, 0x39, 0x3A, 0x3B, 0x3D, 0x3E]

/-- Sources that a lane instruction accepts (04 R106). -/
def laneSource (c : Nat) : Bool :=
  decide (c ≤ 0x31) || (decide (0x40 ≤ c) && decide (c ≤ 0x5F)) || c == 0x7D || c == 0x7E || c == 0x7F
def sregSource (c : Nat) : Bool := decide (0x40 ≤ c) && decide (c ≤ 0x5F)
def vregSource (c : Nat) : Bool := decide (c ≤ 0x1F)
def sregOrImm (c : Nat) : Bool := sregSource c || c == 0x7F

/-- Whether an instruction's source reads IMM (04 R106). -/
def readsImm (b : BWord) : Bool := b.sa == 0x7F || b.sb == 0x7F || b.sc == 0x7F

/-- Which fields an instruction uses (04 R105, R108): a use that a row of R108 names; everything else must be 0. -/
structure Uses where
  dst : Bool := false
  sa : Nat → Bool := fun c => c == 0
  sb : Nat → Bool := fun c => c == 0
  sc : Nat → Bool := fun c => c == 0
  msk : Bool := false
  modMask : Nat := 0
  imm : Bool := false

def twoSrc : Uses := { dst := true, sa := laneSource, sb := laneSource, msk := true }
def oneSrc : Uses := { dst := true, sa := laneSource, msk := true }

/-- MOD masks are over MOD's own 12 bits, so word bit b is mask bit b − 16. A field that the opcode uses in some forms may hold anything in
the others: IMM of LOOP with an S register's count, PART bits that LD's FMT does not use (DEDUCED, log 85). -/
def usesOf (opc : Nat) : Option Uses :=
  if opc = 0x00 then some { imm := true }
  else if opc = 0x01 then some {}
  else if opc = 0x02 then some { sa := sregOrImm, modMask := 0x1FF, imm := true }
  else if [0x08, 0x09, 0x0A, 0x0C, 0x0D].contains opc then some twoSrc
  else if opc = 0x0B then some { twoSrc with sc := laneSource }
  else if [0x0E, 0x0F, 0x12].contains opc then some oneSrc
  else if opc = 0x10 ∨ opc = 0x29 then some { twoSrc with modMask := 0x7 }
  else if opc = 0x11 then some { twoSrc with modMask := 0x3 }
  else if 0x18 ≤ opc ∧ opc ≤ 0x1B then some oneSrc
  else if 0x20 ≤ opc ∧ opc ≤ 0x28 then some twoSrc
  else if opc = 0x30 ∨ opc = 0x31 then some oneSrc
  else if opc = 0x32 then some { oneSrc with modMask := 0xF80 }
  else if opc = 0x33 then some { dst := true, sa := laneSource, modMask := 0xF00 }
  else if opc = 0x38 then some { oneSrc with modMask := 0xF, imm := true }
  else if opc = 0x39 ∨ opc = 0x3A then some { dst := true, sa := laneSource, modMask := 0x1 }
  else if opc = 0x3B then some { dst := true, sa := laneSource }
  else if opc = 0x3C then some { oneSrc with imm := true }
  else if opc = 0x3D then some { dst := true, msk := true, modMask := 0x3 }
  else if opc = 0x3E then some { dst := true, msk := true }
  else if opc = 0x40 then some { dst := true, msk := true, modMask := 0xFF8, imm := true }
  else if opc = 0x41 ∨ opc = 0x42 then some { sa := vregSource, modMask := 0x738, imm := true }
  else if opc = 0x43 then some { sa := laneSource, modMask := 0x738, imm := true }
  else if opc = 0x44 then some { sa := laneSource, modMask := 0xF81, imm := true }
  else if opc = 0x45 then some { sa := laneSource, modMask := 0x1 }
  else if opc = 0x46 then some { sa := laneSource, sb := fun c => decide (c < 16), modMask := 0xFF3, imm := true }
  else if opc = 0x47 then some { sa := sregOrImm, modMask := 0x30, imm := true }
  else if opc = 0x50 then some { dst := true, sa := sregSource, sb := sregSource, modMask := 0x1, imm := true }
  else if opc = 0x51 then some {}
  else if opc = 0x52 then
    some { sa := laneSource, msk := true, sb := fun c => vregSource c || sregSource c || c == 0x7E || c == 0x7F }
  else if opc = 0x53 then some { dst := true, msk := true, modMask := 0x3 }
  else none

/-- The values each opcode's table excludes (04 R110, R113–R120). Of the opcodes that take a few bits of IMM, PERM [4:0], BINS [6:0] and
CHW [2:0], the bits above them must be 0 unless a source reads IMM (DESIGN CHOICE, log 63). -/
def BWord.valuesOk (b : BWord) : Bool :=
  match b.opc with
  | 0x10 | 0x29 => decide (b.m 16 3 < 6) && decide (1 ≤ b.dst) && decide (b.dst ≤ 3)
  | 0x32 => cvtTargets.contains (b.m 24 4)
  | 0x33 => decide (2 ≤ b.m 24 4) && decide (b.m 24 4 ≤ 6)
  | 0x38 => decide (b.m 16 4 < 6) && (readsImm b || decide (b.imm < 32))
  | 0x3C => readsImm b || decide (b.imm < 128)
  | 0x40 => [0, 1, 7, 8, 9, 0xC, 0xF].contains (b.m 24 4)
  | 0x41 | 0x43 => decide (b.m 24 3 < 4)
  | 0x44 => [0, 1, 9].contains (b.m 24 4) && (readsImm b || decide (b.imm < 8))
  | 0x46 => decide (b.imm < 0x4000)
  | _ => true

/-- A blend word's encoding is legal (04 R105, 05 R165). -/
def BWord.legal (b : BWord) : Bool :=
  match usesOf b.opc with
  | none => false
  | some u =>
    (u.dst || b.dst == 0) && u.sa b.sa && u.sb b.sb && u.sc b.sc && (u.msk || b.msk == 0) &&
    b.mod_ % 4096 &&& (4095 - u.modMask) == 0 && (u.imm || readsImm b || b.imm == 0) && b.valuesOk

/-- A single vector operation's encoding is legal (05 R161): its opcode, its fields, and a MODL only where R108 gives one. -/
def BWord.vecLegal (b : BWord) : Bool := vecOpcodes.contains b.opc && b.legal

/-! ## Registers -/

def Core.s (c : Core) (i : Nat) : Word := SMap.get 0 c.seq.s i
def Core.a (c : Core) (i : Nat) : Word := SMap.get 0 c.seq.a i
/-- P0 reads 1 and is not writable (05 R140). -/
def Core.p (c : Core) (i : Nat) : Bool := if i = 0 then true else SMap.get false c.seq.p i
def Core.l (c : Core) (i : Nat) : Nat := SMap.get 0 c.seq.l i
def Core.k (c : Core) (i : Nat) : Nat := SMap.get 0 c.seq.k i

/-- Register files as they are numbered in the list of registers whose parity is wrong (05 R142). -/
def parS (i : Nat) : Nat := i
def parA (i : Nat) : Nat := 1024 + i
def parP (i : Nat) : Nat := 2048 + i
def parL (i : Nat) : Nat := 3072 + i
def parV (r lane : Nat) : Nat := 5120 + 32 * r + lane
def parM (i : Nat) : Nat := 7168 + i
def parB (i : Nat) : Nat := 8192 + i
def Core.bad (c : Core) (k : Nat) : Bool := c.seq.badParity.contains k

/-- A lane of a V register: a parity error poisons it (04 R125, 05 R142). -/
def Core.v (c : Core) (r lane : Nat) : Lane :=
  let x := SMap.get Lane.zero c.seq.v (32 * r + lane)
  if c.bad (parV r lane) then { x with poison := true } else x

/-- A lane of the epilogue inputs: beats 0–7 are X0–X7, beats 8–15 are Y0–Y7 (04 R100). -/
def Core.x (c : Core) (beat lane : Nat) : Lane := SMap.get Lane.zero c.vec.x (32 * beat + lane)

/-- A lane mask: M0 reads all ones; the bits a parity error affects are poisoned (04 R99, R125). -/
def Core.maskBits (c : Core) (i : Nat) : BitVec 32 := if i = 0 then 0xFFFFFFFF else SMap.get 0xFFFFFFFF c.vec.m i
def Core.maskPoi (c : Core) (i : Nat) : BitVec 32 :=
  if i = 0 then 0 else if c.bad (parM i) then 0xFFFFFFFF else SMap.get 0 c.vec.mPoi i

def laneIdx : List Nat := List.range 32

/-- The sign extension of a 16-bit immediate. -/
def immSext (imm : Nat) : Word := BitVec.ofInt 32 (sext 16 imm)

/-- The 32 lanes of a source (04 R106); `fp` says that the instruction reads it as FP32. -/
def Core.src (c : Core) (fp : Bool) (code imm : Nat) : List Lane :=
  if code < 0x20 then laneIdx.map (c.v code)
  else if code < 0x30 then laneIdx.map (c.x (code - 0x20))
  else if code = 0x30 then laneIdx.map (c.x (c.vec.i0 % 8))
  else if code = 0x31 then laneIdx.map (c.x (8 + c.vec.i0 % 8))
  else
    let w : Word :=
      if 0x40 ≤ code ∧ code ≤ 0x5F then c.s (code - 0x40)
      else if code = 0x7D then BitVec.ofNat 32 c.vec.i1
      else if code = 0x7E then BitVec.ofNat 32 c.vec.i0
      else if fp then widenBf16 (BitVec.ofNat 16 imm) else immSext imm
    laneIdx.map (fun _ => ⟨w, false⟩)

/-- Whether reading a source reads an S register whose parity is wrong (05 R142). -/
def Core.srcBad (c : Core) (code : Nat) : Bool := sregSource code && c.bad (parS (code - 0x40))

/-- A lane list's set of poisoned lanes. -/
def poiBits (xs : List Lane) : BitVec 32 :=
  xs.zipIdx.foldl (fun m p => if p.1.poison then m ||| BitVec.ofNat 32 (2 ^ p.2) else m) 0

/-- The bytes of lanes, byte k being bits [8k+7 : 8k] of lane k / 4 (04 R114). -/
def lanesBytes (xs : List Lane) : Bytes := xs.flatMap (fun l => leBytes 4 l.val.toNat)

/-- Lanes from bytes, with the poison of each. -/
def bytesLanes : Bytes → (Nat → Bool) → Nat → List Lane
  | b0 :: b1 :: b2 :: b3 :: bs, poi, i =>
    ⟨BitVec.ofNat 32 (leVal [b0, b1, b2, b3]), poi i⟩ :: bytesLanes bs poi (i + 1)
  | _, _, _ => []

/-- The poison of each 64-bit word of a run of lanes, as a set. -/
def wordPoi : List Lane → Nat
  | a :: b :: xs => (if a.poison || b.poison then 1 else 0) + 2 * wordPoi xs
  | [a] => if a.poison then 1 else 0
  | [] => 0

end Sys2Proof.Machine
end

