-- ==== Sys2Proof/Machine/Streams.lean ====
section
/-! DEFINITION. Operand descriptors, layouts and the cycles in which the engines read their banks (03 R64–R73, 07 R206). -/

namespace Sys2Proof.Machine

/-- An operand descriptor (03 R65). -/
structure Desc where
  fmt : Nat
  smode : Nat
  gsize : Nat
  cbfmt : Bool
  chsel : Nat
  orient : Nat
  src : Nat
  pitch : Nat
  elem : Nat
  scale : Nat
  cbank : Nat
  resv : Bool
deriving DecidableEq, Repr

def Desc.of (d : BitVec 128) : Desc :=
  let x := d.toNat
  let g (lo len : Nat) : Nat := x / 2 ^ lo % 2 ^ len
  { fmt := g 0 4, smode := g 4 2, gsize := g 6 2, cbfmt := g 8 1 = 1, chsel := g 9 1, orient := g 10 2, src := g 12 2,
    pitch := g 16 16, elem := g 32 32, scale := g 64 32, cbank := g 96 5, resv := g 101 27 ≠ 0 || g 14 2 ≠ 0 }

def Desc.f (d : Desc) : Fmt := (Fmt.ofCode d.fmt).getD .fp8e4m3
def Desc.scaled (d : Desc) : Bool := d.f.scaled d.smode && d.src != 3
/-- The group of a layout unit (03 R67): 32 for unscaled formats. -/
def Desc.g (d : Desc) : Nat := if d.scaled then d.f.group d.smode d.gsize else 32
/-- Bits of storage for 8 steps of one lane. -/
def Desc.q (d : Desc) : Nat := if d.f.isVq then d.f.bits else 8 * d.f.bits
/-- Steps read for a step count K: whole groups for a scaled operand (02 R43). -/
def Desc.steps (d : Desc) (k : Nat) : Nat := if d.scaled then (k + d.g - 1) / d.g * d.g else k
def Desc.groups (d : Desc) (k : Nat) : Nat := if d.scaled then (k + d.g - 1) / d.g else 0
/-- Bytes of an array that interleaves `lanes` lanes over k steps (03 R69). -/
def Desc.bytesOf (d : Desc) (lanes k : Nat) : Nat := (lanes * d.steps k * d.q + 63) / 64
/-- The lanes of the layout and the scale bytes of one group. -/
def Desc.lanes (d : Desc) : Nat := if d.orient = 2 then 64 else 16
def Desc.scaleBytes (d : Desc) : Nat := if d.orient = 2 then 64 else 16
/-- The effective element and scale addresses (03 R67). -/
def Desc.eaddr (d : Desc) (g : Nat) : Nat :=
  d.elem + g * (if d.orient = 1 then d.g * d.q / 64 else d.lanes * d.g * d.q / 64)
def Desc.saddr (d : Desc) (g : Nat) : Nat := if d.scaled then d.scale + g * d.scaleBytes else d.scale

/-- A use of a descriptor (03 R66). -/
inductive Use where
  | opeA | opeB | weights | acts
deriving DecidableEq, Repr

/-- The legal combinations of 03 R66, with 02 R37 and R42. -/
def Desc.legalFor (d : Desc) (u : Use) : Bool :=
  if d.resv then false
  else if d.src = 3 then (u = .opeA || u = .opeB) && [0, 1, 9].contains d.fmt
  else
    decide (d.fmt ≤ 0xB) && !(d.f.isInt && d.smode = 3) &&
    (match u with
     | .opeA | .opeB =>
       (d.orient = 0 && d.src = 0 && !d.f.isVq) ||
       (d.orient = 0 && d.src = 2 && !d.f.isVq && d.f.bits != 6) ||
       (d.orient = 1 && d.src = 0 && !d.f.isVq && (d.f.bits == 8 || d.f.bits == 4)) ||
       (u = .opeB && d.orient = 3 && d.src = 0 && d.f.isVq)
     | .weights => d.orient = 2 && (d.src = 0 || d.src = 1)
     | .acts => d.orient = 1 && d.src = 0 && !d.f.isVq)

/-- Alignment and range of an operand (03 R68): `lanes` is 16, the vector count for activations, or 64 for a panel. -/
def Desc.placed (d : Desc) (g lanes k : Nat) : Bool :=
  if d.src = 3 then true else
  let limit := if d.src = 1 then sliceBytes else sramBytes
  let e := d.eaddr g
  let mesh := d.src = 2
  let aligned :=
    mesh || (if d.orient = 1 then e % 32 = 0 && d.pitch % 32 = 0
             else if d.orient = 2 then e % 32 = 0
             else e % d.f.align d.smode = 0)
  let last := if d.orient = 1 then e + (lanes - 1) * d.pitch + (d.steps k * d.q + 63) / 64
    else e + d.bytesOf lanes k
  aligned && (mesh || decide (last ≤ limit)) &&
  (!d.scaled || decide (d.saddr g + (d.groups k - 1) * d.scaleBytes + min lanes d.scaleBytes ≤ (if mesh then sramBytes else limit))) &&
  (!d.f.isVq || decide (d.cbank ≤ (if d.f = .vq12 then 20 else 23)))

/-- The data cycle whose update cycle is y (03 R76, 07 R206): checksum mode puts one cycle after every 16 data cycles. -/
def zInv (chk : Bool) (y : Nat) : Option Nat := if chk then (if y % 17 = 16 then none else some (y - y / 17)) else some y
def zMap (chk : Bool) (m : Nat) : Nat := if chk then m + m / 16 else m

/-- Rows, by their place in an array that starts `o` bytes into its first row, that hold the first byte that data cycle m
needs at num / den bytes a data cycle (07 R206). -/
def rowsAt (num den o rows m : Nat) : List Nat :=
  let j0 := ((m * num + den - 1) / den + o) / 32
  [j0, j0 + 1, j0 + 2].filter (fun j => decide (j < rows) && (32 * j - o) * den / num == m)

/-- Where the codebook word that lane r's index of group j names is kept, in table `tbl`. -/
def bookKey (j r tbl : Nat) : Nat := 0x10000000 + 0x100 * j + 2 * r + tbl
/-- Where an operand's scales of group j are kept among the rows an operation has read. -/
def scaleKey (j r : Nat) : Nat := 0x100000 + 4 * j + r
/-- Where flit m of a received operand is kept. -/
def flitKey (m : Nat) : Nat := 0x800000 + m

/-- The rows that hold `cnt` bytes from an address. -/
def rowsOf (a cnt : Nat) : List Nat := (List.range ((a % 32 + cnt + 31) / 32)).map (fun r => a / 32 + r)

/-- Reads of an operand of an OPE update in cycle t after issue, as (key, row) (07 R206). -/
def Desc.opeReads (d : Desc) (g k lead s4 : Nat) (chk : Bool) (t : Nat) : List (Nat × Nat) :=
  let e := d.eaddr g
  let elems : List Nat :=
    if d.src ≠ 0 then []
    else if d.orient = 1 then
      if t + 20 < lead then [] else
      let y := t + 20 - lead
      -- one row of each lane for 32 bytes of its run
      let p := 32 * 64 * 4 / (d.q * s4)
      let p' := if chk then p + p / 16 else p
      let blocks := ((d.steps k * d.q + 63) / 64 + 31) / 32
      if y / p' < blocks ∧ y % p' < 16 then [(e + (y % p') * d.pitch) / 32 + y / p'] else []
    else
      let dd := if d.orient = 3 then 6 else 4
      if t + dd < lead then [] else
      match zInv chk (t + dd - lead) with
      | none => []
      | some m => (rowsAt (d.q * s4) 16 (e % 32) ((e % 32 + d.bytesOf 16 k + 31) / 32) m).map (fun j => e / 32 + j)
  let scales : List (Nat × Nat) :=
    if !d.scaled then [] else
    let dd := if d.orient = 3 then 6 else 4
    if t + dd < lead then [] else
    let gg := d.g * 4 / s4
    let gg := if chk then gg + gg / 16 else gg
    let y := t + dd - lead
    if y % gg = 0 ∧ y / gg < d.groups k then
      (rowsOf (d.saddr g + 16 * (y / gg)) 16).zipIdx.map (fun r => (scaleKey (y / gg) r.2, r.1))
    else []
  elems.map (fun r => (r, r)) ++ scales

/-- Reads of a panel in SRAM in cycle t after issue (07 R206). -/
def Desc.mvpReads (d : Desc) (g k lead t : Nat) : List (Nat × Nat) :=
  if d.src ≠ 0 then [] else
  let dd := if d.f.isVq then 6 else 4
  if t + dd < lead then [] else
  let y := t + dd - lead
  let e := d.eaddr g
  let s4 := d.f.mvpS4
  let elems := (rowsAt (d.q * s4) 4 (e % 32) ((e % 32 + d.bytesOf 64 k + 31) / 32) y).map (fun j => (e / 32 + j, e / 32 + j))
  let gg := d.g * 4 / s4
  let sc : List (Nat × Nat) :=
    if !d.scaled then [] else
    let base := d.saddr g / 32
    (if y % gg = 0 ∧ y / gg < d.groups k then [(scaleKey (y / gg) 0, base + 2 * (y / gg))] else []) ++
    (if 1 ≤ y ∧ (y - 1) % gg = 0 ∧ (y - 1) / gg < d.groups k then
      [(scaleKey ((y - 1) / gg) 1, base + 2 * ((y - 1) / gg) + 1)] else [])
  elems ++ sc

/-! ## The operations -/

/-- An MMA's fields (05 R157, R159). -/
def mmaTile (w : Word) : Nat := bits w 21 2
def mmaInit (w : Word) : Bool := bits w 0 1 = 1
def mmaK (ctl : Word) : Nat := bits ctl 0 16 + 1
def mmaChk (ctl : Word) : Bool := bits ctl 16 1 = 1
def mmaTol (ctl : Word) : Nat := bits ctl 17 2
def mmaDelay (ctl : Word) : Nat := bits ctl 19 8

/-- The rate class of a pair of operands (02 R38). -/
def pairRate (a b : Desc) : Rate := Rate.slower a.f.rate b.f.rate

/-- U with CHK = 0, and U (03 R76). -/
def mmaU0 (r : Rate) (k : Nat) : Nat := match r with | .four => (k + 1) / 2 | .eight => k | .bf16 => 4 * k
def mmaU (r : Rate) (k : Nat) (chk : Bool) : Nat :=
  let u0 := mmaU0 r k
  if chk then u0 + (u0 + 15) / 16 else u0

/-- Lead latency of one operand (03 R77). -/
def Desc.lead (d : Desc) (delay : Nat) : Nat :=
  if d.src = 3 then 3 else if d.src = 2 then delay else if d.orient = 1 then 21 else if d.orient = 3 then 7 else 5

def EngineOp.a (o : EngineOp) : Desc := Desc.of o.descA
def EngineOp.b (o : EngineOp) : Desc := Desc.of o.descB
def EngineOp.mmaL (o : EngineOp) : Nat := max (o.a.lead (mmaDelay o.ctl)) (o.b.lead (mmaDelay o.ctl))
def EngineOp.mmaU (o : EngineOp) : Nat := Machine.mmaU (pairRate o.a o.b) (mmaK o.ctl) (mmaChk o.ctl)

/-- A run's fields (05 R158, R159). -/
def mvpV (w : Word) : Nat := bits w 5 3 + 1
def mvpK (ctl : Word) : Nat := bits ctl 0 20
def mvpAcc (ctl : Word) : Bool := bits ctl 20 1 = 1

/-- Beats of a run from the slice: scale and element beats of one unit, and in all (03 R86). -/
def Desc.unitScaleBeats (d : Desc) : Nat := if d.scaled then 2 else 0
def Desc.unitBeats (d : Desc) : Nat := d.unitScaleBeats + d.g * d.q / 32
def Desc.beats (d : Desc) (k : Nat) : Nat := k * d.q / 32 + 2 * d.groups k

/-- Port cycles that B beats take: the fast operating point carries four beats in five cycles (03 R86, 05 R153). -/
def portCycles (fast : Bool) (b : Nat) : Nat := if fast then (5 * b + 3) / 4 else b
/-- The offset of beat i's port cycle from issue (05 R153). -/
def beatCycle (fast : Bool) (i : Nat) : Nat := if fast then i + i / 4 + 1 else i + 1

def mvpNw (d : Desc) (k : Nat) : Nat := 4 * k / d.f.mvpS4
def mvpLead (d : Desc) : Nat := (if d.src = 1 then 29 else 5) + (if d.f.isVq then 2 else 0)
def mvpN (fast : Bool) (d : Desc) (k : Nat) : Nat :=
  if d.src = 1 then max (mvpNw d k) (portCycles fast (d.beats k)) else mvpNw d k

/-- Beats of an LDS operation: its count was read at issue into `ctl` (05 R152). -/
def EngineOp.beatCount (o : EngineOp) : Nat := o.ctl.toNat

/-- Rows of SRAM an operation in flight reads in a cycle: operand 0 or 1, key, row. -/
def EngineOp.mmaReads (o : EngineOp) (t : Nat) : List (Nat × Nat × Nat) :=
  if t < o.start then [] else
  let r := pairRate o.a o.b
  let chk := mmaChk o.ctl
  ((o.a.opeReads o.gA (mmaK o.ctl) o.mmaL r.s4 chk (t - o.start)).map (fun x => (0, x.1, x.2))) ++
  ((o.b.opeReads o.gB (mmaK o.ctl) o.mmaL r.s4 chk (t - o.start)).map (fun x => (1, x.1, x.2)))

def EngineOp.mvpReads (o : EngineOp) (t : Nat) : List (Nat × Nat × Nat) :=
  if t < o.start then [] else
  (o.a.mvpReads o.gA (mvpK o.ctl) (mvpLead o.a) (t - o.start)).map (fun x => (0, x.1, x.2))

/-- The SRAM row an LDS.ST reads in a cycle (05 R153): beat i in its port cycle. -/
def EngineOp.stReads (o : EngineOp) (fast : Bool) (t : Nat) : List (Nat × Nat × Nat) :=
  if t ≤ o.start ∨ bits o.word 27 5 ≠ 2 then [] else
  let y := t - o.start - 1
  let i := if fast then (if y % 5 = 4 then o.beatCount else y - y / 5) else y
  if i < o.beatCount then [(0, i, o.gB / 32 + i)] else []

/-- The SRAM offsets of the codebook words that an index names, with their tables (02 R46, R47). -/
def Desc.bookWords (d : Desc) (index : Nat) : List (Nat × Nat) :=
  let base := d.cbank * 0x2000
  if d.f = .vq12 then [(0, base + 8 * index)] else [(0, base + 8 * (index % 256)), (1, base + 2048 + 8 * (index / 256))]

/-- The data cycle in which an update first uses step k (03 R76). -/
def dataCycle (r : Rate) (k : Nat) : Nat := match r with | .four => k / 2 | .eight => k | .bf16 => 4 * k

/-- Bits of an operand: `width` bits at an absolute bit address, with the poison of the words they lie in, from the rows an
operation has read or else from memory. -/
def gather (row : Nat → Bytes × Nat) (bitAddr width : Nat) : Nat × Bool :=
  let lo := bitAddr / 8
  let hi := (bitAddr + width - 1) / 8
  let parts := (List.range (hi - lo + 1)).map (fun i =>
    let a := lo + i
    let r := row (a / 32)
    ((r.1.getD (a % 32) 0).toNat, r.2 / 2 ^ (a % 32 / 8) % 2 == 1))
  let v := parts.foldr (fun p acc => p.1 + 256 * acc) 0
  (v / 2 ^ (bitAddr % 8) % 2 ^ width, parts.any (·.2))

/-- The bit address of lane i's index of octet j in a VQ operand of `lanes` lanes (03 R69). -/
def Desc.indexAt (d : Desc) (g lanes j i : Nat) : Nat := 8 * d.eaddr g + d.f.bits * (j * lanes + i)

/-- The codebook words that these lanes of octet j name, as (key, SRAM offset), from the rows read. -/
def Desc.bookReads (d : Desc) (g lanes j : Nat) (is : List Nat) (row : Nat → Bytes × Nat) : List (Nat × Nat) :=
  is.flatMap (fun i => (d.bookWords (gather row (d.indexAt g lanes j i) d.f.bits).1).map (fun x => (bookKey j i x.1, x.2)))

/-- Of these lanes of octet j those whose index has been read, in all its rows (07 R206), and not been looked up. -/
def Desc.bookDue (d : Desc) (g lanes j : Nat) (is : List Nat) (rows : SMap (Bytes × Nat)) : List Nat :=
  let has (r : Nat) : Bool := (SMap.find rows r).isSome
  is.filter (fun i =>
    has (d.indexAt g lanes j i / 256) && has ((d.indexAt g lanes j i + d.f.bits - 1) / 256) && !has (bookKey j i 0))

/-- The lookups that an operation makes in a cycle for these lanes of octet j, from what it has read. -/
def Desc.bookNow (d : Desc) (g lanes j : Nat) (is : List Nat) (rows : SMap (Bytes × Nat)) : List (Nat × Nat) :=
  d.bookReads g lanes j (d.bookDue g lanes j is rows) (SMap.get ([], 0) rows)

/-- The cycle after issue in which the first step of octet j of an MMA enters, the data cycles continued past K (07 R206). -/
def EngineOp.octetAt (o : EngineOp) (j : Nat) : Nat := o.mmaL + zMap (mmaChk o.ctl) (dataCycle (pairRate o.a o.b) (8 * j))

/-- The lookups that an MMA makes in cycle t: operand, key, SRAM offset. An octet's are made from 4 cc before its first step enters, each
once its index has been read; the padding of the last group is looked up too (02 R43). 03 R73 gives the two latencies of 2 cc and not
the cycle (DESIGN CHOICE, log 62). -/
def EngineOp.mmaBook (o : EngineOp) (t : Nat) : List (Nat × Nat × Nat) :=
  if !o.b.f.isVq ∨ t < o.start then [] else
  let y := t - o.start
  ((List.range ((o.b.steps (mmaK o.ctl) + 7) / 8)).filter (fun j => decide (o.octetAt j ≤ y + 4) && decide (y < o.octetAt (j + 1)))).flatMap
    (fun j => (o.b.bookNow o.gB 16 j (List.range 16) o.rowsB).map (fun x => (1, x.1, x.2)))

/-- The offset in its product window at which step k of a run enters at R85's rate. -/
def Desc.rateCycle (d : Desc) (k : Nat) : Nat := (4 * (k + 1) + d.f.mvpS4 - 1) / d.f.mvpS4 - 1

/-- The lookups that a run makes in cycle t: 16 rows of a panel's octet in each of the octet's four cycles, as many entries of a table as
the port returns (03 R74), 4 cc before the data cycle to which their indices belong enters (DESIGN CHOICE, log 62). A run that the slice port
bounds looks up as its steps enter, whose cycles are not specified (03 R87). -/
def EngineOp.mvpBook (o : EngineOp) (fast : Bool) (t : Nat) : List (Nat × Nat × Nat) :=
  let k := mvpK o.ctl
  if !o.a.f.isVq ∨ t + 4 < o.start + mvpLead o.a ∨ mvpN fast o.a k ≠ mvpNw o.a k then [] else
  let d := t + 4 - (o.start + mvpLead o.a)
  if k ≤ 8 * (d / 4) then [] else
  (o.a.bookNow o.gA 64 (d / 4) ((List.range 16).map (· + 16 * (d % 4))) o.rowsA).map (fun x => (0, x.1, x.2))

end Sys2Proof.Machine
end

