-- ==== Sys2Proof/Machine/Cycle.lean ====
section
/-! DEFINITION. The end of a core's cycle: what the operations in flight do there (05 R139, R155, R164, 07 R204, R205). -/

namespace Sys2Proof.Machine

/-- A core adds an effect of an operation that issues now. -/
def Core.later (c : Core) (dt slot : Nat) (blend : Option Nat) (e : Effect) : Core :=
  { c with seq := { c.seq with
      pend := c.seq.pend ++ [⟨c.seq.now + dt, c.seq.now, slot, c.seq.next, blend, e⟩] } }

def bankOf (off : Nat) : Nat := off / 0x2000

/-- An append ring whose entries have all been written and not been taken (04 R121). -/
def Ring.full (r : Ring) : Bool := decide (r.n ≤ r.wr - r.taken)

/-- The append ring as the writes of a cycle find it: the entries that the walker's window reads of that same cycle take count as taken
(04 R121, 10 R303; DESIGN CHOICE, log 83). -/
def Core.ringAt (c : Core) (due : List Pending) : Option Ring :=
  c.ring.map (fun r => { r with taken := r.taken + (due.filter (fun p => match p.eff with
    | .rdWin _ win off _ => win == r.rwd && decide (r.data ≤ off) && decide (off < r.data + 32 * r.n)
    | _ => false)).length })

/-- The SRAM bank ports an effect uses in its cycle: bank numbers, reads then writes (07 R204). An APPEND that finds its ring full writes
nothing (04 R121). -/
def Effect.ports (ring : Option Ring) : Effect → List Nat × List Nat
  | .sram off _ _ => ([], [bankOf off])
  | .append _ _ _ =>
    match ring with
    | some r => if r.full then ([], []) else ([], [bankOf (r.data + 32 * (r.wr % r.n)), bankOf (r.tags + 8 * (r.wr % r.n))])
    | none => ([], [])
  | .rdLd off _ _ _ _ _ | .rdSld off _ | .rdVld off _ _ | .rdBst off _ | .rdLst off _ | .rdSend1 off
  | .rdSend2 off _ _ | .rdTile off _ _ _ | .rdWin _ _ off _ => ([bankOf off], [])
  | .rdSst off _ => ([bankOf off], [bankOf off])
  | .rdTrd off pitch _ _ row _ _ => ([bankOf (off + row * pitch)], [])
  | .rdEng _ _ _ _ row => ([row / 256], [])
  | _ => ([], [])

/-- The lanes an LD writes, from the row it read (04 R115): the first register lane, and the lanes with the flags of each. -/
def ldLanes (fmt part : Nat) (row : Bytes) (poi : List Bool) : Nat × List (Lane × AFlags) :=
  let str := leNat row
  let pw (byte : Nat) : Bool := poi.getD (byte / 8) false
  let dec (f : Fmt) (base cnt : Nat) : List (Lane × AFlags) :=
    let w := f.bits
    (List.range cnt).map (fun i =>
      let e := base + i
      let v := f.elem (element w e str)
      let p := pw (w * e / 8)
      (Lane.mk v.toF32.1 p, if p then (0 : AFlags) else nanFlag v))
  if fmt = 0xC ∨ fmt = 0xF then (8 * part, (bytesLanes row (fun i => pw (4 * i)) 0).map (fun x => (x, 0)))
  else if fmt = 9 then (16 * (part % 2), dec .bf16 0 16)
  else if fmt = 8 then (0, dec .int4 (32 * (part % 2)) 32)
  else (0, dec (if fmt = 0 then Fmt.fp8e4m3 else if fmt = 1 then Fmt.fp8e5m2 else Fmt.int8) 0 32)

/-- The set of lanes from `lo`, `cnt` long. -/
def laneRange (lo cnt : Nat) : BitVec 32 := BitVec.ofNat 32 ((2 ^ cnt - 1) * 2 ^ lo)

/-- A list of 32 lanes that holds `xs` from lane `lo`. -/
def placeLanes (lo : Nat) (xs : List Lane) : List Lane :=
  laneIdx.map (fun i => if lo ≤ i then xs.getD (i - lo) Lane.zero else Lane.zero)

/-- Lanes with a poisoned mask bit are written poisoned (04 R125). -/
def maskPoison (mp : BitVec 32) (xs : List Lane) : List Lane :=
  xs.zipIdx.map (fun p => if mp.getLsbD p.2 then { p.1 with poison := true } else p.1)

/-- The transposed tile of TRD (05 R156): byte k of its result from the 16 rows' bytes and words' poison. -/
def trdBytes (w4 : Bool) (acc : Bytes) : Bytes :=
  if w4 then
    -- nibble 16c + r is nibble c of row r; 8 bytes a row
    (List.range 128).map (fun k =>
      let nib (i : Nat) : Nat := ((acc.getD (8 * (i % 16) + i / 16 / 2) 0).toNat / 16 ^ (i / 16 % 2)) % 16
      BitVec.ofNat 8 (nib (2 * k) + 16 * nib (2 * k + 1)))
  else (List.range 256).map (fun k => acc.getD (16 * (k % 16) + k / 16) 0)

/-- The poison of each result byte of TRD. -/
def trdPoi (w4 : Bool) (poi : List Bool) (k : Nat) : Bool :=
  if w4 then poi.getD (2 * k % 16) false || poi.getD ((2 * k + 1) % 16) false
  else poi.getD (2 * (k % 16) + k / 16 / 8) false

/-- The first mesh fault of a router since FACET_ACTIVATE (06 R201). -/
def State.meshRecord (s : State) (n entry port : Nat) : State :=
  if bits (s.reg (Reg.meshFaultPc n)) 31 1 = 1 then s
  else s.setReg (Reg.meshFaultPc n) (setBits (setBits 0x80000000 10 3 port) 0 10 entry)

/-- A router's fault of cycle t is the one whose code FIRST_CAUSE takes in place of its earlier fault of this same cycle: of several causes the
lowest code is recorded (03 R96). -/
def State.meshLower (s : State) (n code t : Nat) : Bool :=
  (s.router n).faultAt == some t && decide (code < bits (s.reg (Reg.engineStatus n)) 8 8) &&
    (s.core n).seq.faultAt != some t && bits (s.reg (Reg.meshFaultPc n)) 31 1 == 1

/-- MESH_FAULT_PC after a fault of cycle t (06 R201): the first fault since FACET_ACTIVATE stands; of several outputs of its entry that fault in
that cycle the lowest port is recorded, and another entry's fault of that cycle replaces it when its code is lower (`lower`). -/
def State.meshPlace (s : State) (n entry port t : Nat) (lower : Bool) : State :=
  let w := s.reg (Reg.meshFaultPc n)
  if bits w 31 1 = 0 then (s.setRouter n { s.router n with faultAt := some t }).meshRecord n entry port
  else if (s.router n).faultAt ≠ some t then s
  else if bits w 0 10 = entry then
    (if port < bits w 10 3 ∧ bits w 10 3 ≠ 7 then s.setField (Reg.meshFaultPc n) 10 3 port else s)
  else if lower then (s.setReg (Reg.meshFaultPc n) 0).meshRecord n entry port
  else s

/-- A router raises a fault (06 R199): FIRST_CAUSE of its core keeps the first code, of several of one cycle the lowest (03 R96), and the
partition faults. -/
def State.meshFault (s : State) (n code entry port t : Nat) : State :=
  let lower := s.meshLower n code t
  let s := if bits (s.reg (Reg.engineStatus n)) 8 8 = 0 ∨ lower then s.setField (Reg.engineStatus n) 8 8 code else s
  let s := s.orReg (Reg.engineStatus n) 2
  let s := (s.meshPlace n entry port t lower).traceCore n 0x05 (s.core n).seq.next code 0 0 0
  match s.partOfCore n with
  | some p => s.unitFault p (bits (s.reg (Reg.engineStatus n)) 8 8) n t
  | none => s

/-- A read window takes the entries of the append ring that 32 bytes at `off` hold (04 R121, 10 R303): the state, and whether
one of them has not been written since this window last read it (10 R304). -/
def State.ringTake (s : State) (n win off : Nat) : State × Bool :=
  let c := s.core n
  match c.ring with
  | none => (s, false)
  | some r =>
    let data := win == r.rwd && decide (r.data ≤ off) && decide (off < r.data + 32 * r.n)
    let tags := win == r.rwt && decide (r.tags ≤ off) && decide (off < r.tags + 8 * r.n)
    let is := if data then [(off - r.data) / 32] else if tags then (List.range 4).map (fun i => (off - r.tags) / 8 + i) else []
    let fresh := if data then r.freshData else r.freshTag
    let bad := is.any (fun i => !SMap.get false fresh i)
    let fresh := is.foldl (fun m i => SMap.set false m i false) fresh
    let r' := if data then { r with freshData := fresh, taken := r.taken + 1 } else { r with freshTag := fresh }
    (s.setCore n { c with ring := some r' }, bad)

/-- A read of 32 bytes for a window's flit (06 R183, 10 R304). -/
def State.readWin (s : State) (n cyc win off entry t : Nat) : State :=
  let r := s.readSram n off 4
  let k := r.2.2.ringTake n win off
  let s := if k.2 then k.1.meshFault n Sf.appendUnderrun entry 4 t else k.1
  let poi := r.2.1.any id || k.2
  let ro := s.router n
  s.setRouter n { ro with ahead := ro.ahead.map (fun a =>
    if a.cyc = cyc then { a with bytes := a.bytes ++ r.1, poi := a.poi || poi } else a) }

/-- An operation in flight takes what it has read: kind 0 an MMA, 1 a run, 2 a port operation; which operation; which operand. -/
def State.engTake (s : State) (n kind idx side key : Nat) (v : Bytes × Nat) : State :=
  let c := s.core n
  let put (o : EngineOp) : EngineOp :=
    if side = 0 then { o with rowsA := SMap.put o.rowsA key v } else { o with rowsB := SMap.put o.rowsB key v }
  let upd (os : List EngineOp) : List EngineOp := os.zipIdx.map (fun x => if x.2 = idx then put x.1 else x.1)
  let e := c.eng
  s.setCore n { c with eng := match kind with
    | 0 => { e with mmas := upd e.mmas }
    | 1 => { e with mvps := upd e.mvps }
    | _ => { e with ports := upd e.ports } }

/-- Effects that a read-effect turns into, from memory as the cycle found it, with their delay after this cycle's end. A NaN that OPE.LOAD
reads keeps its bits in the tile: 02 R55's canonical NaN is the result of an accumulation step (DEDUCED, log 82). -/
def State.readEffect (s : State) (n : Nat) (p : Pending) : State × List Pending :=
  let again (dt : Nat) (e : Effect) : Pending := { p with due := p.due + dt, eff := e }
  match p.eff with
  | .rdLd off fmt part dst sel mpoi =>
    let r := s.readSram n off 4
    let l := ldLanes fmt part r.1 r.2.1
    let sel' := sel &&& laneRange l.1 l.2.length
    -- the lanes written clean raise flags (02 R61, 04 R107, R126)
    let fl := l.2.zipIdx.foldl (fun a x => if (sel' &&& ~~~mpoi).getLsbD (l.1 + x.2) then a ||| x.1.2 else a) 0
    (r.2.2.arith n fl, [again 1 (.vreg dst sel' (maskPoison mpoi (placeLanes l.1 (l.2.map (·.1)))))])
  | .rdSld off sd =>
    let r := s.readSram n (off / 8 * 8) 1
    if r.2.1.getD 0 false then
      (r.2.2.coreFault n Sf.scalarPoison ⟨p.slot, none, p.bundle⟩, [])
    else (r.2.2, [again 0 (.sreg sd (BitVec.ofNat 32 (leVal ((r.1.drop (off % 8)).take 4))))])
  | .rdVld off vd q =>
    let r := s.readSram n off 4
    let xs := bytesLanes r.1 (fun i => r.2.1.getD (i / 2) false) 0
    (r.2.2, [again 0 (.vreg vd (laneRange (8 * q) 8) (placeLanes (8 * q) xs))])
  | .rdSst off x =>
    let w := off / 8 * 8
    let r := s.readSram n w 1
    let bs := if off % 8 = 0 then leBytes 4 x.toNat ++ r.1.drop 4 else r.1.take 4 ++ leBytes 4 x.toNat
    (r.2.2, [again 0 (.sram w bs (if r.2.1.getD 0 false then 1 else 0))])
  | .rdTrd off pitch vd w4 row acc poi =>
    let k := if w4 then 1 else 2
    let r := s.readSram n (off + row * pitch) k
    let acc := acc ++ r.1
    let poi := poi ++ r.2.1
    if row < 15 then (r.2.2, [again 1 (.rdTrd off pitch vd w4 (row + 1) acc poi)])
    else
      let bs := trdBytes w4 acc
      let lanes := bytesLanes bs (fun i =>
        trdPoi w4 poi (4 * i) || trdPoi w4 poi (4 * i + 1) || trdPoi w4 poi (4 * i + 2) || trdPoi w4 poi (4 * i + 3)) 0
      (r.2.2, [again 1 (.vreg vd 0xFFFFFFFF (lanes.take 32))] ++
        (if w4 then [] else [again 1 (.vreg (vd + 1) 0xFFFFFFFF (lanes.drop 32))]))
  | .rdBst off entry =>
    let r := s.readSram n off 4
    (r.2.2, [again 1 (.bundleRow entry r.1 (r.2.1.zipIdx.foldl (fun m q => if q.1 then m + 2 ^ q.2 else m) 0))])
  | .rdLst off word =>
    let r := s.readSram n off 4
    (r.2.2, [again 1 (.blendRow word r.1 (r.2.1.zipIdx.foldl (fun m q => if q.1 then m + 2 ^ q.2 else m) 0))])
  | .rdSend1 off =>
    let r := s.readSram n off 4
    (r.2.2, [again 1 (.rdSend2 (off + 32) r.1 (r.2.1.any id))])
  | .rdSend2 off lo poi =>
    let r := s.readSram n off 4
    (r.2.2, [again 1 (.sendq ⟨BitVec.ofNat 512 (leVal (lo ++ r.1)), 3, poi || r.2.1.any id, 0⟩)])
  | .rdTile off tile row isInt =>
    let r := s.readSram n off 4
    let half := row % 2
    let xs := bytesLanes r.1 (fun i => r.2.1.getD (i / 2) false) 0
    let c := r.2.2.core n
    let t := SMap.get Tile.reset c.eng.tiles tile
    let ls := xs.zipIdx.foldl (fun m q => SMap.set Lane.zero m (16 * (row / 2) + 8 * half + q.2) q.1) t.lanes
    (r.2.2.setCore n { c with eng := { c.eng with tiles := SMap.put c.eng.tiles tile { t with lanes := ls, isInt := isInt } } },
      [])
  | .rdWin cyc win off _ => (s.readWin n cyc win off p.bundle p.due, [])
  | .rdEng kind idx side key row =>
    let r := s.readSram n (32 * row) 4
    (r.2.2.engTake n kind idx side key (r.1, r.2.1.zipIdx.foldl (fun m q => if q.1 then m + 2 ^ q.2 else m) 0), [])
  | .rdCb kind idx side key off =>
    let r := s.readSram n off 1
    (r.2.2.engTake n kind idx side key (r.1, if r.2.1.any id then 1 else 0), [])
  | _ => (s, [p])

/-- The rank of candidate x before y in the top-64 network (04 R123): a larger value, then the lower index. -/
def Cand.before (x y : Cand) : Bool :=
  match (f32 x.val).cmp (f32 y.val) with
  | .gt => true
  | .lt => false
  | .eq => decide (x.idx.toNat < y.idx.toNat)

def insertCand (x : Cand) : List Cand → List Cand
  | [] => [x]
  | y :: ys => if x.before y then x :: y :: ys else y :: insertCand x ys

/-- Offers candidates to the network (04 R123): NaN discarded, at most 64 kept. -/
def offer (net : List Cand) (cs : List Cand) : List Cand :=
  cs.foldl (fun m c => if (f32 c.val).isNan then m else (insertCand c m).take 64) net

/-- The parity of a register that is written becomes good. -/
def SeqState.good (q : SeqState) (ks : List Nat) : SeqState :=
  { q with badParity := q.badParity.filter (fun k => !ks.contains k) }

/-- Writes the selected lanes of a lane map. -/
def writeLanes (m : SMap Lane) (base : Nat) (sel : BitVec 32) (val : List Lane) : SMap Lane :=
  val.zipIdx.foldl (fun m p => if sel.getLsbD p.2 then SMap.set Lane.zero m (base + p.2) p.1 else m) m

/-- The CRC of 06 R170 over bytes, each least significant bit first: reflected polynomial 0x8408, initial 0xFFFF. -/
def crc16Bit (c : Nat) (b : Nat) : Nat := if (c + b) % 2 = 1 then (c / 2) ^^^ 0x8408 else c / 2
def crc16Byte (c : Nat) (b : Byte) : Nat :=
  (List.range 8).foldl (fun c i => crc16Bit c (b.toNat / 2 ^ i % 2)) c
def crc16 (bs : Bytes) : Nat := bs.foldl crc16Byte 0xFFFF

/-- The CRC a flit enters the mesh with (06 R170). -/
def Flit.sum (pay : BitVec 512) (poison : Bool) : BitVec 16 :=
  BitVec.ofNat 16 (crc16 ((if poison then 1 else 0) :: leBytes 64 pay.toNat))

def Flit.mk' (pay : BitVec 512) (poison : Bool) : Flit := ⟨pay, 3, poison, Flit.sum pay poison⟩

/-- A flit enters a core's send queue; a full queue is recorded and drops it (05 R163). -/
def State.enqueue (s : State) (n : Nat) (f : Flit) : State :=
  let c := s.core n
  if c.sendq.length < 4 then s.setCore n { c with sendq := c.sendq ++ [f] }
  else s.orReg (Reg.seqStatus n) 0x00040000

/-- The exact sum of 16 elements of a tile (03 R82): an integer, or rounded once to FP32 and kept as the word's number. -/
def Tile.exactSum (t : Tile) (at_ : Nat → Nat) : Int :=
  let xs := (List.range 16).map (fun j => (SMap.get Lane.zero t.lanes (at_ j)).val)
  if t.isInt then xs.foldl (fun a x => a + x.toInt) 0
  else ((xs.foldl (fun (a : Num) x => (a.add (f32 x)).1) (Num.fin false 0 0)).toF32.1.toNat : Int)

/-- A value as an integer (the operands of an INT32 accumulator are integers). -/
def numInt : Num → Int
  | .fin s m e => Num.signed s (m * 2 ^ e.toNat)
  | _ => 0

/-- One accumulation step of an accumulator word: the exact product added (02 R54–R57). -/
def accumulate (isInt : Bool) (acc : Word) (x y : Num) : Word × AFlags :=
  if isInt then
    let v := acc.toInt + numInt x * numInt y
    if v > 2147483647 then (0x7FFFFFFF, AFlags.accSat)
    else if v < -2147483648 then (0x80000000, AFlags.accSat)
    else (BitVec.ofInt 32 v, 0)
  else
    let p := x.mul y
    let r := accF32 acc p.1
    (r.1, r.2 ||| nvIf p.2)

/-- One accumulation step of a lane; poison stays, and poisoned data raises no flag. -/
def accLane (isInt : Bool) (l : Lane) (x y : Elem) : Lane × AFlags :=
  let r := accumulate isInt l.val x.val y.val
  let p := l.poison || x.poison || y.poison
  (⟨r.1, p⟩, if p then 0 else r.2)

/-- The products of one step reach the result vectors (03 R84): vector v's word r takes weight r times vector v's element. -/
def accVectors (isInt : Bool) (m : SMap Lane) (ws vs : List Elem) : SMap Lane × AFlags :=
  vs.zipIdx.foldl (fun (acc : SMap Lane × AFlags) v =>
    ws.zipIdx.foldl (fun (acc : SMap Lane × AFlags) w =>
      let i := 64 * v.2 + w.2
      let l := accLane isInt (SMap.get Lane.zero acc.1 i) w.1 v.1
      (SMap.set Lane.zero acc.1 i l.1, acc.2 ||| l.2)) acc) (m, 0)

/-- Applies one write-effect at the end of its cycle (05 R139). A compare's write of some bits of a mask whose parity is wrong makes the
parity of the whole mask good (DESIGN CHOICE, log 86). -/
def State.applyEffect (s : State) (n : Nat) (p : Pending) : State :=
  let c := s.core n
  let q := c.seq
  match p.eff with
  | .sreg i x => s.setCore n { c with seq := SeqState.good { q with s := SMap.set 0 q.s i x } [parS i] }
  | .areg i x => s.setCore n { c with seq := SeqState.good { q with a := SMap.set 0 q.a i x } [parA i] }
  | .preg i x =>
    if i = 0 then s else s.setCore n { c with seq := SeqState.good { q with p := SMap.set false q.p i x } [parP i] }
  | .lreg i x => s.setCore n { c with seq := SeqState.good { q with l := SMap.set 0 q.l i (x % 65536) } [parL i] }
  | .vreg i sel val =>
    let ks := (laneIdx.filter (fun j => sel.getLsbD j)).map (parV i)
    s.setCore n { c with seq := SeqState.good { q with v := writeLanes q.v (32 * i) sel val } ks }
  | .mask i sel bs poi =>
    let old := SMap.get 0xFFFFFFFF c.vec.m i
    let oldP := SMap.get 0 c.vec.mPoi i
    s.setCore n { c with
      seq := q.good [parM i],
      vec := { c.vec with m := SMap.set 0xFFFFFFFF c.vec.m i ((old &&& ~~~sel) ||| (bs &&& sel)),
                          mPoi := SMap.set 0 c.vec.mPoi i ((oldP &&& ~~~sel) ||| (poi &&& sel)) } }
  | .bptr i x => s.setCore n { c with seq := q.good [parB i], vec := { c.vec with bp := SMap.set 0 c.vec.bp i x } }
  | .xreg b val => s.setCore n { c with vec := { c.vec with x := writeLanes c.vec.x (32 * b) 0xFFFFFFFF val } }
  | .sram off data poi => s.writeCore n off data poi
  | .bundleRow e data poi => s.writeCore n (bundleOff + 32 * (e % 1024)) data poi
  | .blendRow w data poi => s.writeCore n (blendOff + 8 * (w % 512)) data poi
  | .beat off data poi =>
    let s := s.tallyCore n 3 32
    { s with mem := s.mem.writeUnit (sliceBase n + off) data poi }
  | .chain b row fmt codes poi =>
    let base := 256 * b + 16 * row
    let ch := codes.zipIdx.foldl (fun m x => SMap.set Lane.zero m (base + x.2) ⟨BitVec.ofNat 32 x.1, poi⟩) c.eng.ch
    s.setCore n { c with eng := { c.eng with ch := ch, chFmt := SMap.set 0 c.eng.chFmt b fmt } }
  | .tkclr => s.setCore n { c with vec := { c.vec with topk := [], topkPoi := false } }
  | .tkin cs poi =>
    s.setCore n { c with vec := { c.vec with topk := offer c.vec.topk cs, topkPoi := c.vec.topkPoi || poi } }
  | .sendq f => s.enqueue n (Flit.mk' f.pay f.poison)
  | .append data poi tag =>
    let full : State := s.coreFault n Sf.appendFull ⟨7, p.blend, p.bundle⟩
    match c.ring with
    | none => full
    | some r =>
      if r.full then full else
      let i := r.wr % r.n
      let r' : Ring := { r with wr := r.wr + 1, freshData := SMap.set false r.freshData i true, freshTag := SMap.set false r.freshTag i true }
      let s := s.setCore n { c with ring := some r' }
      let s := s.writeCore n (r.data + 32 * i) data poi
      s.writeCore n (r.tags + 8 * i) (leBytes 8 tag.toNat) 0
  | .tokenUp k cnt by_ => s.tokenAdd n k cnt by_
  | .tokenDown k cnt => s.setCore n { c with seq := { q with k := SMap.set 0 q.k k (SMap.get 0 q.k k - cnt) } }
  | .product ws vs isInt first =>
    let r := accVectors isInt (if first then SMap.clear c.eng.m 0 (64 * vs.length) else c.eng.m) ws vs
    (s.setCore n { c with eng := { c.eng with m := r.1 } }).arith n r.2
  | .loadEnd i =>
    let t := SMap.get Tile.reset c.eng.tiles i
    let t := { t with cc := (List.range 16).map (fun r => (r, t.exactSum (fun j => 16 * r + j))),
                      cr := (List.range 16).map (fun j => (j, t.exactSum (fun r => 16 * r + j))), chkBad := [] }
    s.setCore n { c with eng := { c.eng with tiles := SMap.put c.eng.tiles i t } }
  | _ => s


/-- The pairs of operations of one cycle that need one port of one bank twice (07 R205): the bank ports, reads even and
writes odd, each with its operation's place in the list. -/
def portUse (ring : Option Ring) (ps : List Pending) : List (Nat × Nat) :=
  ps.zipIdx.flatMap (fun x =>
    let u := x.1.eff.ports ring
    u.1.map (fun b => (2 * b, x.2)) ++ u.2.map (fun b => (2 * b + 1, x.2)))

/-- The pairs of operations in a bank conflict, by place. -/
def conflicts (us : List (Nat × Nat)) : List (Nat × Nat) :=
  us.zipIdx.flatMap (fun y => (us.zipIdx.filter (fun x => decide (x.2 < y.2) && x.1.1 == y.1.1)).map (fun x => (x.1.2, y.1.2)))

def Effect.isSend : Effect → Bool
  | .sendq _ => true
  | _ => false

/-- A read of a read window, apart from what its route entry writes to a write window. -/
def Effect.readsWin : Effect → Bool
  | .rdWin .. => true
  | _ => false

/-- Of two operations the later (05 R167, 07 R205): the later issue, then the vector engine, then the higher slot word. -/
def Pending.rank (p : Pending) : Nat := p.issued * 16 + p.slot

/-- Puts an operation in order before those of its rank and above. -/
def insertRank (p : Pending) : List Pending → List Pending
  | [] => [p]
  | q :: qs => if p.rank ≤ q.rank then p :: q :: qs else q :: insertRank p qs

/-- Whether core n runs at the operating point whose port carries four beats in five cycles (05 R153, 18 R556). -/
def State.fastClock (s : State) (n : Nat) : Bool :=
  match s.partOfCore n with
  | some p => bits (s.reg (Reg.clkPart p)) 0 2 == 3
  | none => true

/-- Two accesses are one operation's (05 R167, 07 R205): of one slot word, blend instruction, or route entry's read or write. -/
def Pending.sameOp (p q : Pending) : Bool :=
  p.issued == q.issued && p.slot == q.slot && p.eff.readsWin == q.eff.readsWin

/-- The reads that the engines and the LDS slot make in core n's cycle t (07 R206, 05 R153), and the codebook lookups, which use no
bank port (03 R74). -/
def State.engineReads (s : State) (n t : Nat) : List Pending :=
  let e := (s.core n).eng
  let fast := s.fastClock n
  let mk (kind slot : Nat) (x : EngineOp × Nat) (r : Nat × Nat × Nat) : Pending :=
    ⟨t, x.1.start, slot, x.1.bundle, none, .rdEng kind x.2 r.1 r.2.1 r.2.2⟩
  let book (kind slot : Nat) (x : EngineOp × Nat) (r : Nat × Nat × Nat) : Pending :=
    ⟨t, x.1.start, slot, x.1.bundle, none, .rdCb kind x.2 r.1 r.2.1 r.2.2⟩
  e.mmas.zipIdx.flatMap (fun x => (x.1.mmaReads t).map (mk 0 3 x) ++ (x.1.mmaBook t).map (book 0 3 x)) ++
  e.mvps.zipIdx.flatMap (fun x => (x.1.mvpReads t).map (mk 1 4 x) ++ (x.1.mvpBook fast t).map (book 1 4 x)) ++
  e.ports.zipIdx.flatMap (fun x => (x.1.stReads fast t).map (mk 2 1 x))

/-- The bank that the known-answer test of core n is using (17 R542). -/
def State.testBank (s : State) (n : Nat) : Option Nat :=
  if !(s.core n).seq.testLeft then none else
  match s.partOfCore n with
  | some p => (s.part p).facet.glob.testBank
  | none => none

/-- The accesses that a test of the given bank meets, each as an operation in conflict with itself. -/
def testedUse (b : Option Nat) (use : List (Nat × Nat)) : List (Nat × Nat) :=
  match b with
  | some b => (use.filter (fun x => x.1 / 2 == b)).map (fun x => (x.2, x.2))
  | none => []

/-- The flits that enter core n's send queue in its present cycle (06 R179). Two that meet are SEND_CONFLICT, and none enters
(04 R119, 05 R163): the blend SEND raises it, and of two NET-slot sends the later (05 R167, DEDUCED, log 13). -/
def State.startCycle (s : State) (n : Nat) : State :=
  let c := s.core n
  let t := c.seq.now
  let sends := c.seq.pend.filter (fun p => p.eff.isSend && decide (p.due ≤ t))
  let s := s.setCore n { c with seq := { c.seq with pend := c.seq.pend.filter (fun p => !(p.eff.isSend && decide (p.due ≤ t))) } }
  match sends with
  | [] => s
  | [p] => s.applyEffect n p
  | p :: ps =>
    let l := match sends.find? (fun p => p.slot = 7) with
      | some b => b
      | none => ps.foldl (fun (a b : Pending) => if a.rank ≤ b.rank then b else a) p
    s.coreFault n Sf.sendConflict ⟨l.slot, l.blend, l.bundle⟩

/-- The end of core n's cycle: the effects due there, first the reads of SRAM from memory as the cycle found it, then the
writes, an earlier issue's before a later one's and a slot word's (0–6) before the vector engine's (7) and a window's (8)
(05 R139, 04 R109, 07 R205). No access that two operations in a bank conflict make in this cycle is performed, and BANK_CONFLICT
is raised (07 R205); an access to the bank of a test under way meets the test (17 R542). The next cycle then begins. -/
def State.endCycle (s : State) (n : Nat) : State :=
  let c := s.core n
  let t := c.seq.now
  let isDue (p : Pending) : Bool := decide (p.due ≤ t) && !p.eff.isSend
  let due := c.seq.pend.filter isDue ++ s.engineReads n t
  let s := s.setCore n { c with seq := { c.seq with pend := c.seq.pend.filter (fun p => !isDue p) } }
  let ring := c.ringAt due
  let use := portUse ring due
  let bad := conflicts use ++ testedUse (s.testBank n) use
  let lost (x : Pending × Nat) : Bool :=
    use.any (fun u => u.2 == x.2) && bad.any (fun y =>
      (match due[y.1]? with | some q => q.sameOp x.1 | none => false) || (match due[y.2]? with | some q => q.sameOp x.1 | none => false))
  let ok := (due.zipIdx.filter (fun x => !lost x)).map (·.1)
  let moved (f : List Nat × List Nat → List Nat) : Nat := (ok.map (fun p => (f (p.eff.ports ring)).length)).sum
  let s := (s.tallyCore n 0 (32 * moved (·.1))).tallyCore n 1 (32 * moved (·.2))
  let r := ok.foldl (fun (a : State × List Pending) p => let x := a.1.readEffect n p; (x.1, a.2 ++ x.2)) (s, [])
  let now := (r.2.filter isDue).foldr insertRank []
  let next := r.2.filter (fun p => !isDue p)
  let s := now.foldl (fun s p => s.applyEffect n p) r.1
  let c := s.core n
  let s := s.setCore n { c with seq := { c.seq with pend := c.seq.pend ++ next } }
  let blame (s : State) (l : Pending) : State :=
    if l.slot = 8 then s.meshFault n Sf.bankConflict l.bundle 4 t
    else s.coreFault n Sf.bankConflict ⟨l.slot, l.blend, l.bundle⟩
  let s := bad.foldl (fun s (x : Nat × Nat) =>
    match due[x.1]?, due[x.2]? with
    | some p, some q => blame s (if p.rank ≤ q.rank then q else p)
    | _, _ => s) s
  let c := s.core n
  let s := s.setCore n { c with seq := { c.seq with now := t + 1 } }
  let frozen : Bool := match s.partOfCore n with
    | some p => s.partIn p [.faulted] && decide ((s.part p).freezeAt ≤ t + 1)
    | none => false
  if frozen then s else s.startCycle n

end Sys2Proof.Machine
end

