-- ==== Sys2Proof/Machine/Vec.lean ====
section
/-! DEFINITION. The vector engine: the meaning of every blend instruction (04 R98–R127). An instruction reads its sources in
its issue cycle and leaves its results as effects of the cycle its latency names. -/

namespace Sys2Proof.Machine

/-! ## Lane arithmetic -/

/-- The result lanes of an element-wise instruction (04 R107, R125, R126): poison of any input lane poisons the result lane,
and only lanes written from clean inputs raise flags. -/
def lanes1 (f : Word → Word × AFlags) (a : List Lane) : List (Lane × AFlags) :=
  a.map (fun x => let r := f x.val; (⟨r.1, x.poison⟩, if x.poison then 0 else r.2))
def lanes2 (f : Word → Word → Word × AFlags) (a b : List Lane) : List (Lane × AFlags) :=
  a.zipWith (fun x y => let r := f x.val y.val; let p := x.poison || y.poison; (⟨r.1, p⟩, if p then 0 else r.2)) b
def lanes3 (f : Word → Word → Word → Word × AFlags) (a b c : List Lane) : List (Lane × AFlags) :=
  (a.zip b).zipWith (fun x z =>
    let r := f x.1.val x.2.val z.val
    let p := x.1.poison || x.2.poison || z.poison
    (⟨r.1, p⟩, if p then 0 else r.2)) c

def clean1 (f : Word → Word) : Word → Word × AFlags := fun a => (f a, 0)
def clean2 (f : Word → Word → Word) : Word → Word → Word × AFlags := fun a b => (f a b, 0)

/-- The running results of RSUM, RMAX and PSUM: each lane's result with its poison and the flags raised so far (04 R112). -/
def running (f : Word → Word → Word × AFlags) : Lane → List Lane → List Lane × AFlags
  | acc, [] => ([acc], 0)
  | acc, x :: xs =>
    let r := f acc.val x.val
    let p := acc.poison || x.poison
    let rest := running f ⟨r.1, p⟩ xs
    (acc :: rest.1, (if p then 0 else r.2) ||| rest.2)

/-- Reduces lanes in ascending order. -/
def reduce (f : Word → Word → Word × AFlags) (xs : List Lane) : Lane × AFlags :=
  match xs with
  | [] => (Lane.zero, 0)
  | x :: xs => let r := running f x xs; (r.1.getLast?.getD x, r.2)

def canonNan (l : Lane) : Lane := if (f32 l.val).isNan then { l with val := nanWord } else l

/-- The lane an output lane of PERM takes (04 R113). -/
def permSource (mode imm i : Nat) : Nat :=
  match mode with
  | 0 => i ^^^ 1
  | 1 => i ^^^ 16
  | 2 => (i + imm % 32) % 32
  | 3 => imm % 32
  | 4 => i / 16 * 16 + (i + imm % 16) % 16
  | _ => i / 16 * 16 + imm % 16

/-- Codes of width w as the bytes of a V register, with the poison of each lane from the code lanes that fill it. -/
def packLanes (w : Nat) (codes : List Nat) (poi : List Bool) : List Lane :=
  let str := packBits w codes
  laneIdx.map (fun j =>
    let lo := 32 * j / w
    let p := (List.range (32 / w)).any (fun i => poi.getD (lo + i) false)
    ⟨BitVec.ofNat 32 (str / 2 ^ (32 * j)), p⟩)

/-- Philox-4x32-10 (04 R122). -/
def philoxRound (k0 k1 : Nat) (x : Nat × Nat × Nat × Nat) : Nat × Nat × Nat × Nat :=
  let p0 := 0xD2511F53 * x.1
  let p1 := 0xCD9E8D57 * x.2.2.1
  ((p1 / 2 ^ 32) ^^^ x.2.1 ^^^ k0, p1 % 2 ^ 32, (p0 / 2 ^ 32) ^^^ x.2.2.2 ^^^ k1, p0 % 2 ^ 32)
def philoxAux : Nat → Nat → Nat → Nat × Nat × Nat × Nat → Nat × Nat × Nat × Nat
  | 0, _, _, x => x
  | r + 1, k0, k1, x =>
    philoxAux r ((k0 + 0x9E3779B9) % 2 ^ 32) ((k1 + 0xBB67AE85) % 2 ^ 32) (philoxRound k0 k1 x)
def philox (seed : Nat) (x : Nat × Nat × Nat × Nat) : Nat × Nat × Nat × Nat :=
  philoxAux 10 (seed % 2 ^ 32) (seed / 2 ^ 32 % 2 ^ 32) x

/-- The counter block of lane i (04 R122). -/
def rngCounter (seq pos d step i : Nat) : Nat × Nat × Nat × Nat :=
  (pos % 1024 * 2 ^ 22 + d / 4 % 2 ^ 17 * 32 + i, seq % 2 ^ 20 * 2 ^ 12 + pos / 1024 % 4096, step % 2 ^ 32, step / 2 ^ 32 % 2 ^ 32)

/-- Lane i's draw (04 R122): word d mod 4 of its block. -/
def rngDraw (seed seq pos d step i : Nat) : Nat :=
  let b := philox seed (rngCounter seq pos d step i)
  match d % 4 with
  | 0 => b.1
  | 1 => b.2.1
  | 2 => b.2.2.1
  | _ => b.2.2.2

/-! ## Issue -/

/-- The vector engine issues an instruction: the lanes it writes under its mask, with the flags of the lanes written clean, and its
latency (04 R107, R109, R126). -/
def State.vecWrite (s : State) (n : Nat) (b : BWord) (blend : Option Nat) (useMask : Bool) (lat : Nat)
    (r : List (Lane × AFlags)) : State :=
  let c := s.core n
  let sel := if useMask then c.maskBits b.msk else 0xFFFFFFFF
  let mp := if useMask then c.maskPoi b.msk else 0
  let fl := r.zipIdx.foldl (fun a x =>
    if sel.getLsbD x.2 && !mp.getLsbD x.2 && !x.1.1.poison then a ||| x.1.2 else a) 0
  let s := s.arith n fl
  s.setCore n ((s.core n).later (lat - 1) 7 blend (.vreg b.dst sel (maskPoison mp (r.map (·.1)))))

/-- A compare writes mask bits (04 R110); a poisoned lane, or a poisoned bit of its own mask, poisons the bit. -/
def State.maskWrite (s : State) (n : Nat) (b : BWord) (blend : Option Nat) (lat : Nat) (r : List (Bool × Bool)) : State :=
  let c := s.core n
  let sel := c.maskBits b.msk
  let bs := r.zipIdx.foldl (fun m x => if x.1.1 then m ||| BitVec.ofNat 32 (2 ^ x.2) else m) (0 : BitVec 32)
  let ps := r.zipIdx.foldl (fun m x => if x.1.2 then m ||| BitVec.ofNat 32 (2 ^ x.2) else m) (0 : BitVec 32)
  s.setCore n (c.later (lat - 1) 7 blend (.mask b.dst sel bs (ps ||| c.maskPoi b.msk)))

def cmpLanes (f : Word → Word → Bool) (a b : List Lane) : List (Bool × Bool) :=
  a.zipWith (fun x y => (f x.val y.val, x.poison || y.poison)) b

/-- A byte pointer: a parity error poisons the lanes an access through it moves (04 R125). -/
def Core.bptr (c : Core) (i : Nat) : Word := SMap.get 0 c.vec.bp i

/-- The address a memory instruction forms, and the byte pointer after it (04 R115): with POST the pointer's value, and the
pointer moves at the end of the issue cycle. -/
def Core.blendAddr (c : Core) (b : BWord) : Nat × Option Word :=
  let i := b.m 20 2
  let base := c.bptr i
  let step : Word := BitVec.ofInt 32 (sext 16 b.imm * 16)
  if b.m 19 1 = 1 then (base.toNat, some (base + step)) else ((base + step).toNat, none)

/-- Opcodes that move poison without consuming it (17 R523). -/
def carriesPoison (opc : Nat) : Bool := [0x12, 0x38, 0x3C, 0x40, 0x41, 0x42, 0x43, 0x45, 0x46].contains opc

/-- The sources an instruction reads as lanes (04 R108). -/
def BWord.laneSources (b : BWord) : List Nat :=
  if [0x08, 0x09, 0x0A, 0x0C, 0x0D, 0x10, 0x11, 0x20, 0x21, 0x22, 0x23, 0x24, 0x25, 0x26, 0x27, 0x28, 0x29, 0x52].contains b.opc
    then [b.sa, b.sb]
  else if b.opc = 0x0B then [b.sa, b.sb, b.sc]
  else if [0x00, 0x01, 0x02, 0x3D, 0x3E, 0x40, 0x47, 0x50, 0x51, 0x53].contains b.opc then []
  else [b.sa]

/-- Whether an instruction reads a poisoned lane or mask bit (17 R523). -/
def BWord.readsPoison (b : BWord) (c : Core) : Bool :=
  b.laneSources.any (fun k => (c.src false k b.imm).any (·.poison)) || c.maskPoi b.msk != 0 ||
  ((b.opc == 0x11 || b.opc == 0x3D) && c.maskPoi (b.m 16 2) != 0)

/-- u lies in a base refresh window of the partition that holds core n (07 R220). -/
def State.inRefresh (s : State) (n u : Nat) : Bool :=
  match s.partOfCore n with
  | none => false
  | some p => decide ((u + 4096 - (s.part p).facet.glob.refoff % 4096) % 4096 < 192)

/-- An STS port cycle, t + 1, meets a port window, a refresh window, or at the fast clock is the fifth in five cycles (04 R116,
03 R90). -/
def State.stsConflict (s : State) (n : Nat) : Bool :=
  let c := s.core n
  let t := c.seq.now + 1
  c.portBusy.any (fun w => decide (w.1 ≤ t) && decide (t ≤ w.2)) || s.inRefresh n t ||
  (s.fastClock n && decide (4 ≤ (c.stsAt.filter (fun x => decide (t < x + 5))).length))

/-- The lowest code among the causes that one operation meets (03 R96). -/
def leastCode : List Nat → Option Nat
  | [] => none
  | x :: xs => some (xs.foldl min x)

/-- The fault an instruction raises before it acts (04 R127, 05 R142): of several causes the lowest code (03 R96). -/
def State.vecFault (s : State) (n : Nat) (b : BWord) : Option Nat :=
  let c := s.core n
  let a := (c.blendAddr b).1
  let placed (unit limit : Nat) : List Nat := if a % unit = 0 ∧ a + unit ≤ limit then [] else [Sf.blendAddress]
  let seqPos := b.opc == 0x46 && (c.bad (parS (2 * b.sb)) || c.bad (parS (2 * b.sb + 1)))
  leastCode
    ((if c.srcBad b.sa || c.srcBad b.sb || c.srcBad b.sc || seqPos then [Sf.regParity] else []) ++
     (match b.opc with
      | 0x40 | 0x41 => placed 32 sramBytes
      | 0x42 => placed 16 sramBytes
      | 0x43 => placed 32 sliceBytes ++ (if s.stsConflict n then [Sf.portConflict] else [])
      | _ => []))

/-- A byte pointer moves at the end of the issue cycle (04 R115). -/
def State.postMove (s : State) (n : Nat) (b : BWord) (blend : Option Nat) : State :=
  let c := s.core n
  match (c.blendAddr b).2 with
  | some x => s.setCore n (c.later 0 7 blend (.bptr (b.m 20 2) x))
  | none => s

/-- The lanes a store takes, poisoned by a pointer whose parity is wrong (04 R116, R125). -/
def Core.stored (c : Core) (b : BWord) (lo cnt : Nat) : List Lane :=
  let xs := ((c.src false b.sa b.imm).drop lo).take cnt
  if c.bad (parB (b.m 20 2)) then xs.map (fun l => { l with poison := true }) else xs

/-- An element-wise instruction with its function (04 R108). -/
def State.elem (s : State) (n : Nat) (b : BWord) (blend : Option Nat) (lat : Nat) (r : List (Lane × AFlags)) : State :=
  s.vecWrite n b blend true lat r

/-- The plain element-wise instructions: function and latency (04 R108, R110, R111). -/
def elemOp (opc : Nat) : Option (Nat × Bool × (List Lane → List Lane → List Lane → List (Lane × AFlags))) :=
  let f2 (lat : Nat) (f : Word → Word → Word × AFlags) := some (lat, true, fun a b (_ : List Lane) => lanes2 f a b)
  let f1 (lat : Nat) (f : Word → Word × AFlags) := some (lat, true, fun a (_ : List Lane) (_ : List Lane) => lanes1 f a)
  let i2 (lat : Nat) (f : Word → Word → Word) := some (lat, false, fun a b (_ : List Lane) => lanes2 (clean2 f) a b)
  let i1 (lat : Nat) (f : Word → Word) := some (lat, false, fun a (_ : List Lane) (_ : List Lane) => lanes1 (clean1 f) a)
  match opc with
  | 0x08 => f2 2 fadd
  | 0x09 => f2 2 fsub
  | 0x0A => f2 2 fmul
  | 0x0B => some (3, true, fun a b c => lanes3 ffma a b c)
  | 0x0C => f2 2 (clean2 fmin)
  | 0x0D => f2 2 (clean2 fmax)
  | 0x0E => f1 1 (clean1 (fun a => a &&& 0x7FFFFFFF))
  | 0x0F => f1 1 (clean1 (fun a => a ^^^ 0x80000000))
  | 0x12 => i1 1 id
  | 0x18 => f1 6 fexp2
  | 0x19 => f1 6 flog2
  | 0x1A => f1 6 frcp
  | 0x1B => f1 6 frsq
  | 0x20 => i2 1 (· + ·)
  | 0x21 => i2 1 (· - ·)
  | 0x22 => i2 2 (· * ·)
  | 0x23 => i2 1 (· &&& ·)
  | 0x24 => i2 1 (· ||| ·)
  | 0x25 => i2 1 (· ^^^ ·)
  | 0x26 => i2 1 (fun a b => a <<< (b.toNat % 32))
  | 0x27 => i2 1 (fun a b => a >>> (b.toNat % 32))
  | 0x28 => i2 1 (fun a b => a.sshiftRight (b.toNat % 32))
  | 0x30 => i1 2 cvtf
  | 0x31 => f1 2 cvti
  | _ => none

/-- What an instruction that issues does (04 R108–R123), its faults apart. -/
def State.vecPerform (s : State) (n : Nat) (b : BWord) (blend : Option Nat) : State :=
  let c := s.core n
  let S (fp : Bool) (k : Nat) : List Lane := c.src fp k b.imm
  let noF (xs : List Lane) : List (Lane × AFlags) := xs.map (fun x => (x, 0))
  match elemOp b.opc with
  | some (lat, fp, f) => s.elem n b blend lat (f (S fp b.sa) (S fp b.sb) (S fp b.sc))
  | none =>
  match b.opc with
  | 0x10 => s.maskWrite n b blend 2 (cmpLanes (fcmp (b.m 16 3)) (S true b.sa) (S true b.sb))
  | 0x29 => s.maskWrite n b blend 1 (cmpLanes (icmp (b.m 16 3)) (S false b.sa) (S false b.sb))
  | 0x11 =>
    -- a lane is computed from both sources, so poison of the one SEL does not take counts too (DEDUCED, log 64)
    let mb := c.maskBits (b.m 16 2)
    let mp := c.maskPoi (b.m 16 2)
    let r := ((S false b.sa).zip (S false b.sb)).zipIdx.map (fun x =>
      Lane.mk (if mb.getLsbD x.2 then x.1.1.val else x.1.2.val) (x.1.1.poison || x.1.2.poison || mp.getLsbD x.2))
    s.elem n b blend 1 (noF r)
  | 0x32 =>
    let f := (Fmt.ofCode (b.m 24 4)).getD .fp8e4m3
    let xs := S true b.sa
    let cs := xs.map (fun l => let r := convert f (b.m 23 1 = 1) (f32 l.val); (r.1, if l.poison then (0 : AFlags) else r.2))
    let outL := packLanes f.bits (cs.map (·.1)) (xs.map (·.poison))
    -- a code's flags are raised with the lane that holds it
    let r := outL.zipIdx.map (fun x =>
      let lo := 32 * x.2 / f.bits
      (x.1, ((cs.drop lo).take (32 / f.bits)).foldl (fun a y => a ||| y.2) (0 : AFlags)))
    s.elem n b blend 3 r
  | 0x33 =>
    let f := (Fmt.ofCode (b.m 24 4)).getD .mxfp4
    let xs := S true b.sa
    let p := xs.any (·.poison)
    let r := mxBlock f (xs.map (fun l => f32 l.val))
    let str := packBits f.bits r.2.1 + r.1 * 2 ^ (8 * 124)
    let outL := laneIdx.map (fun j => Lane.mk (BitVec.ofNat 32 (str / 2 ^ (32 * j))) p)
    let fl : AFlags := if p then 0 else r.2.2
    s.vecWrite n b blend false 3 (outL.zipIdx.map (fun x => (x.1, if x.2 = 0 then fl else 0)))
  | 0x38 =>
    let xs := S false b.sa
    s.elem n b blend 1 (noF (laneIdx.map (fun i => xs.getD (permSource (b.m 16 4) b.imm i) Lane.zero)))
  | 0x39 | 0x3A =>
    let f := if b.opc = 0x39 then fadd else clean2 fmax
    let xs := S true b.sa
    if b.m 16 1 = 0 then
      let r := reduce f xs
      s.vecWrite n b blend false 8 (laneIdx.map (fun i => (r.1, if i = 0 then r.2 else 0)))
    else
      let lo := reduce f (xs.take 16)
      let hi := reduce f (xs.drop 16)
      s.vecWrite n b blend false 8
        (laneIdx.map (fun i => (if i < 16 then lo.1 else hi.1, if i = 0 then lo.2 else if i = 16 then hi.2 else 0)))
  | 0x3B =>
    match S true b.sa with
    | [] => s
    | x :: xs =>
      let r := running fadd x xs
      s.vecWrite n b blend false 8 ((r.1.map canonNan).zipIdx.map (fun y => (y.1, if y.2 = 0 then r.2 else 0)))
  | 0x3C =>
    -- the whole lane is written, its other bytes as read at issue (DESIGN CHOICE, log 84)
    let src := (S false b.sa).getD 31 Lane.zero
    let i := b.imm % 128
    let q := i / 4
    let sh := 8 * (i % 4)
    let old := c.v b.dst q
    let x := setBits old.val sh 8 (src.val.toNat % 256)
    let sel := c.maskBits b.msk &&& BitVec.ofNat 32 (2 ^ q)
    let l := maskPoison (c.maskPoi b.msk) (placeLanes q [⟨x, old.poison || src.poison⟩])
    s.setCore n (c.later 0 7 blend (.vreg b.dst sel l))
  | 0x3D =>
    let mb := c.maskBits (b.m 16 2)
    let k := (laneIdx.find? (fun i => mb.getLsbD i)).getD 32
    let p := c.maskPoi (b.m 16 2) != 0
    s.elem n b blend 1 (noF (laneIdx.map (fun _ => ⟨BitVec.ofNat 32 k, p⟩)))
  | 0x3E => s.elem n b blend 1 (noF (laneIdx.map (fun i => ⟨BitVec.ofNat 32 i, false⟩)))
  | 0x40 =>
    let a := (c.blendAddr b).1
    let mp := if c.bad (parB (b.m 20 2)) then 0xFFFFFFFF else c.maskPoi b.msk
    let s := s.setCore n (c.later 1 7 blend (.rdLd a (b.m 24 4) (b.m 22 2) b.dst (c.maskBits b.msk) mp))
    s.postMove n b blend
  | 0x41 =>
    let xs := c.stored b (8 * (b.m 24 3)) 8
    let s := s.setCore n (c.later 2 7 blend (.sram (c.blendAddr b).1 (lanesBytes xs) (wordPoi xs)))
    s.postMove n b blend
  | 0x42 =>
    let xs := c.stored b (4 * (b.m 24 3)) 4
    let s := s.setCore n (c.later 2 7 blend (.sram (c.blendAddr b).1 (lanesBytes xs) (wordPoi xs)))
    s.postMove n b blend
  | 0x43 =>
    let xs := c.stored b (8 * (b.m 24 3)) 8
    let c1 := c.later 25 7 blend (.beat (c.blendAddr b).1 (lanesBytes xs) (xs.any (·.poison)))
    let t := c.seq.now + 1
    let s := s.setCore n { c1 with stsAt := t :: c.stsAt.filter (fun x => decide (t < x + 5)) }
    s.postMove n b blend
  | 0x44 =>
    let f := (Fmt.ofCode (b.m 24 4)).getD .fp8e4m3
    let xs := S true b.sa
    let cs := xs.map (fun l => let r := convert f (b.m 23 1 = 1) (f32 l.val); (r.1, if l.poison then (0 : AFlags) else r.2))
    -- a poisoned lane poisons both rows that CHW writes, and then no lane of them raises a flag (04 R125, R126; DEDUCED, log 64)
    let p := xs.any (·.poison)
    let s := if p then s else s.arith n (cs.foldl (fun a y => a ||| y.2) 0)
    let row := 2 * (b.imm % 8)
    let half (lo : Nat) : Effect :=
      .chain (b.m 16 1) (row + lo / 16) (b.m 24 4) (((cs.map (·.1)).drop lo).take 16) p
    s.setCore n (((s.core n).later 2 7 blend (half 0)).later 2 7 blend (half 16))
  | 0x45 =>
    let xs := ((S false b.sa).drop (16 * b.m 16 1)).take 16
    let f : Flit := ⟨BitVec.ofNat 512 (leVal (lanesBytes xs)), 3, xs.any (·.poison), 0⟩
    s.setCore n (c.later 2 7 blend (.sendq f))
  | 0x46 =>
    let xs := ((S false b.sa).drop (8 * b.m 16 2)).take 8
    let seq := (c.s (2 * b.sb)).toNat % 2 ^ 20
    let pos := (c.s (2 * b.sb + 1)).toNat % 2 ^ 22
    let tag := b.imm / 128 % 32 * 2 ^ 59 + b.m 20 8 * 2 ^ 51 + b.imm % 128 * 2 ^ 44 + b.imm / 8192 % 2 * 2 ^ 43 +
      b.imm / 4096 % 2 * 2 ^ 42 + seq * 2 ^ 22 + pos
    s.setCore n (c.later 2 7 blend (.append (lanesBytes xs) (wordPoi xs) (BitVec.ofNat 64 tag)))
  | 0x47 =>
    let step : Word := BitVec.ofInt 32 (sext 16 b.imm * 16)
    let base : Word := if b.sa = 0x7F then 0 else c.s (b.sa - 0x40)
    s.setCore n (c.later 0 7 blend (.bptr (b.m 20 2) (base + step)))
  | 0x50 =>
    let seed := match s.partOfCore n with | some p => (s.part p).seed.toNat | none => 0
    let seq := (c.s (b.sa - 0x40)).toNat % 2 ^ 20
    let pos := (c.s (b.sb - 0x40)).toNat % 2 ^ 22
    let d := b.imm + c.vec.i0
    let r := laneIdx.map (fun i =>
      let w := rngDraw seed seq pos d c.seq.step.toNat i
      let v : Word := if b.m 16 1 = 1 then (Num.fin false (w / 256) (-24)).toF32.1 else BitVec.ofNat 32 w
      (Lane.mk v false, (0 : AFlags)))
    s.vecWrite n b blend false 4 r
  | 0x51 => s.setCore n (c.later 3 7 blend .tkclr)
  | 0x52 =>
    let xs := S true b.sa
    let mb := c.maskBits b.msk
    let mp := c.maskPoi b.msk
    let ix : List Lane := if b.sb < 0x20 then S false b.sb
      else (S false b.sb).zipIdx.map (fun x => { x.1 with val := x.1.val + BitVec.ofNat 32 x.2 })
    let all := ((xs.zip ix).zipIdx).filter (fun x => mb.getLsbD x.2)
    let poi := all.any (fun x => x.1.1.poison || x.1.2.poison || mp.getLsbD x.2)
    s.setCore n (c.later 3 7 blend (.tkin (all.map (fun x => ⟨x.1.1.val, x.1.2.val, false⟩)) poi))
  | 0x53 =>
    let k := b.m 16 2
    let base := 32 * (k % 2)
    let r := laneIdx.map (fun i =>
      let cd := c.vec.topk.getD (base + i) Cand.empty
      (Lane.mk (if k < 2 then cd.val else cd.idx) (c.vec.topkPoi || cd.bad), (0 : AFlags)))
    s.elem n b blend 2 r
  | _ => s

/-- An instruction that raises no fault acts (04 R98, 17 R523). -/
def State.vecDo (s : State) (n : Nat) (b : BWord) (blend : Option Nat) : State :=
  let s := s.consumeIf n (!carriesPoison b.opc && b.readsPoison (s.core n))
  s.vecPerform n b blend

/-- A blend instruction or single vector operation issues (04 R98): an illegal word or a fault keeps it from acting
(04 R127, 05 R165). -/
def State.vecIssue (s : State) (n : Nat) (b : BWord) (legal : Bool) (blend : Option Nat) (slot : Nat) : State :=
  let at_ : FaultAt := ⟨slot, blend, (s.core n).seq.next⟩
  if ¬ legal then s.coreFault n Sf.illegal at_ else
  match s.vecFault n b with
  | some f => s.coreFault n f at_
  | none => s.vecDo n b blend

/-! ## Blends -/

/-- The loop index values while a blend's loops are as given (04 R117). -/
def loopIndex (ls : List LoopFrame) (i : Nat) : Nat :=
  match ls.find? (fun f => f.idx = i) with
  | some f => f.iter
  | none => 0

def VecState.withRun (v : VecState) (r : Option BlendRun) : VecState :=
  match r with
  | some b => { v with blend := some b, i0 := loopIndex b.loops 0, i1 := loopIndex b.loops 1 }
  | none => { v with blend := none, i0 := 0, i1 := 0 }

/-- The loops and next word after word w has issued (04 R117): a body's last word starts the next iteration or ends the loop,
and an enclosing loop that ends at the same word follows. -/
def afterWord : List LoopFrame → Nat → List LoopFrame × Nat
  | [], w => ([], w + 1)
  | f :: fs, w =>
    if w = f.last then
      if f.iter + 1 < f.count then ({ f with iter := f.iter + 1 } :: fs, f.first) else afterWord fs w
    else (f :: fs, w + 1)

/-- Fetches a blend word: its bits, or none when it is uncorrectable or poisoned (07 R209), with the check counted. -/
def State.fetchBlend (s : State) (n w : Nat) : Option DWord × State :=
  let r := s.mem.word (coreWindow n + blendOff + 8 * w)
  let s := s.countCheck n r.2.2 none
  (if r.2.1 then none else some (BitVec.ofNat 64 (leVal r.1)), s)

/-- The fault of a blend start at entry word e, if any, with its place (04 R102, R127, 05 R167). -/
def State.blendFault (s : State) (n e : Nat) : Option (Nat × FaultAt) :=
  let c := s.core n
  let at_ : FaultAt := ⟨5, none, c.seq.next⟩
  let hAt : FaultAt := ⟨7, some e, c.seq.next⟩
  if c.vec.blend.isSome then some (Sf.blendOverlap, at_) else
  match (s.fetchBlend n e).1 with
  | none => some (Sf.fetchUncorrectable, hAt)
  | some h =>
    let len := fld h 0 9
    if fld h 32 32 ≠ 0 ∨ fld h 9 7 ≠ 0 ∨ len = 0 ∨ len > 256 ∨ e + len > 511 then some (Sf.illegal, hAt)
    else if (List.range 4).any (fun i => c.bad (parA (fld h (16 + 4 * i) 4))) then some (Sf.regParity, at_)
    else none

/-- A blend starts at its header word (04 R103). Its masks and pointers are written at the end of the start cycle, where a
start ranks as the later write of the two that meet there (04 R109). -/
def State.startBlend (s : State) (n e : Nat) : State :=
  let r := s.fetchBlend n e
  let h := r.1.getD 0
  let s := r.2
  let c := s.core n
  let c1 := { c with vec := c.vec.withRun (some ⟨e, fld h 0 9, e + 1, 0, []⟩) }
  let c2 := [1, 2, 3].foldl (fun (x : Core) i => x.later 0 7 none (.mask i 0xFFFFFFFF 0xFFFFFFFF 0)) c1
  s.setCore n ((List.range 4).foldl
    (fun (x : Core) i => x.later 0 7 none (.bptr i (c.a (fld h (16 + 4 * i) 4)))) c2)

/-- A word of the running blend issues (04 R98, R104, R117, R127). -/
def State.blendWord (s : State) (n : Nat) (r : BlendRun) (b : BWord) : State :=
  let c := s.core n
  let put (s : State) (r : Option BlendRun) : State :=
    let c := s.core n
    s.setCore n { c with vec := c.vec.withRun r }
  let at_ : FaultAt := ⟨7, some r.word, c.seq.next⟩
  let next := afterWord r.loops r.word
  let go (s : State) (ls : List LoopFrame) (w idle : Nat) : State :=
    put s (some { r with loops := ls, word := w, idle := idle })
  if ¬ b.legal then s.coreFault n Sf.illegal at_
  else if b.opc = 0x00 then go s next.1 next.2 b.imm
  else if b.opc = 0x01 then put s none
  else if b.opc = 0x02 then
    let body := b.m 16 8
    let last := r.word + body
    if body = 0 then s.coreFault n Sf.illegal at_
    else if r.loops.any (fun l => l.idx = b.m 24 1) then s.coreFault n Sf.loopDepth at_
    else if r.loops.any (fun l => decide (last > l.last)) then s.coreFault n Sf.illegal at_
    else if c.srcBad b.sa then s.coreFault n Sf.regParity at_
    else
      let cnt := if b.sa = 0x7F then b.imm else (c.s (b.sa - 0x40)).toNat % 65536
      if cnt = 0 then let nx := afterWord r.loops last; go s nx.1 nx.2 0
      else go s (⟨r.word + 1, last, b.m 24 1, 0, cnt⟩ :: r.loops) (r.word + 1) 0
  else
    let s := s.vecIssue n b true (some r.word) 7
    go s next.1 next.2 0

/-- The running blend's issue cycle (04 R98, R103, R104): an idle cycle after a NOP, or the word at its position, which is the given
one or else fetched. -/
def State.blendTurn (s : State) (n : Nat) (r : BlendRun) (given : Option BWord) : State :=
  let c := s.core n
  if r.idle > 0 then
    s.setCore n { c with vec := c.vec.withRun (some { r with idle := r.idle - 1 }) }
  else
    let at_ : FaultAt := ⟨7, some r.word, c.seq.next⟩
    if r.word < r.entry + 1 ∨ r.word > r.entry + r.len then s.coreFault n Sf.blendRange at_ else
    match given with
    | some b => s.blendWord n r b
    | none =>
      let f := s.fetchBlend n r.word
      match f.1 with
      | none => f.2.coreFault n Sf.fetchUncorrectable at_
      | some w => f.2.blendWord n r (BWord.ofWord w)

def State.blendStep (s : State) (n : Nat) : State :=
  match (s.core n).vec.blend with
  | none => s
  | some r => s.blendTurn n r none

end Sys2Proof.Machine
end

