-- ==== Sys2Proof/Machine/Seq.lean ====
section
/-! DEFINITION. Slot words, their predicates, and the SEQ slot (05 R137, R138, R143–R151). Each slot has three functions: the
checks of its bits, the conditions under which its acting is a fault, and what it does. -/

namespace Sys2Proof.Machine

/-! ## Slot words -/

def swOp (w : Word) : Nat := bits w 27 5
def swPs (w : Word) : Nat := bits w 23 3
def swPn (w : Word) : Bool := bits w 26 1 = 1
/-- The predicate field is legal (05 R138). -/
def swPredOk (w : Word) : Bool := !(swPs w == 0 && swPn w)
/-- P[PS] xor PN (05 R138). -/
def Core.acts (c : Core) (w : Word) : Bool := c.p (swPs w) != swPn w
/-- Every ARGS bit outside the mask is 0. -/
def argsOnly (w : Word) (mask : Nat) : Bool := bits w 0 23 &&& (0x7FFFFF - mask) == 0

def sBad (c : Core) (is : List Nat) : Bool := is.any (fun i => c.bad (parS i))
def aBad (c : Core) (is : List Nat) : Bool := is.any (fun i => c.bad (parA i))
def regFault (b : Bool) : List Nat := if b then [Sf.regParity] else []

/-- An effect of a slot word that issues now. -/
def State.slotLater (s : State) (n slot dt : Nat) (e : Effect) : State := s.setCore n ((s.core n).later dt slot none e)

/-! ## SEQ -/

/-- Bits of a SEQ word (05 R143, R165). -/
def seqLegal (w : Word) : Bool :=
  match swOp w with
  | 0x01 => argsOnly w 0x3FF
  | 0x02 => if bits w 20 1 = 1 then argsOnly w 0x70FFFF else argsOnly w 0x70001F
  | 0x03 => argsOnly w 0x6003FF
  | 0x04 => argsOnly w 0x7800FF && bits w 0 8 != 0
  | 0x05 => argsOnly w 0x7800FF
  | 0x06 => argsOnly w 0x7EFFFF
  | 0x07 => argsOnly w 0x7FFF0F && decide (bits w 0 4 ≤ 11)
  | 0x08 => argsOnly w 0x7FFFFF
  | 0x09 => if bits w 14 1 = 1 then argsOnly w 0x7FC01F else argsOnly w 0x7FFFFF
  | 0x0A => argsOnly w 0x7FE000
  | 0x0B => (if bits w 14 1 = 1 then argsOnly w 0x7FFFF7 else argsOnly w 0x7FFE07) && bits w 20 3 != 0
  | 0x0C => argsOnly w 0x7FC003 && bits w 20 3 != 0
  | 0x0D => argsOnly w 0x7C001F && (decide (bits w 0 5 ≤ 4) || decide (16 ≤ bits w 0 5))
  | 0x0E => argsOnly w 0
  | _ => false

/-- SEQ operations that a repeated bundle may not carry (05 R133). -/
def seqNoRepeat (w : Word) : Bool := [0x01, 0x03, 0x04, 0x0E].contains (swOp w)

/-- What waits that have found token k and not yet taken their counts will take at the end of the cycle (05 R147). -/
def Core.downs (c : Core) (k : Nat) : Nat :=
  c.seq.pend.foldl (fun a p => match p.eff with | .tokenDown j m => if j = k then a + m else a | _ => a) 0

/-- The agent counts that reach token k at the end of core c's present cycle (05 R148). -/
def Core.ups (c : Core) (k : Nat) : Nat :=
  c.seq.pend.foldl (fun a p => match p.eff with
    | .tokenUp j m _ => if j = k ∧ p.due ≤ c.seq.now then a + m else a
    | _ => a) 0

/-- A wait on token k that issues in real cycle r finds the token short, or an earlier wait on it pending, which it stays through the
cycle in which it is satisfied (05 R147, R149). -/
def Core.waitPends (c : Core) (k n r : Nat) : Bool :=
  decide (c.k k < n) || c.seq.waits.any (fun x => x.tok == k) || SMap.get 0 c.seq.kSat k == r + 1

/-- Faults of a SEQ word that acts in real cycle r (05 R142, R148, R149). -/
def seqFaults (c : Core) (r : Nat) (w : Word) : List Nat :=
  match swOp w with
  | 0x02 => regFault (bits w 20 1 = 0 && sBad c [bits w 0 5])
  | 0x03 => regFault (c.bad (parL (bits w 21 2)))
  | 0x04 =>
    regFault (c.bad (parK (bits w 19 4))) ++
    (if c.waitPends (bits w 19 4) (bits w 0 8) r && decide (16 ≤ c.seq.waits.length) then [Sf.waitOverlap] else [])
  | 0x05 =>
    regFault (c.bad (parK (bits w 19 4))) ++ (if c.k (bits w 19 4) + bits w 0 8 + c.ups (bits w 19 4) > 0xFFFF then [Sf.tokenOverflow] else [])
  | 0x06 => regFault (bits w 17 1 = 1 && sBad c [bits w 18 5])
  | 0x07 => regFault (sBad c [bits w 13 5, bits w 8 5])
  | 0x08 => regFault (sBad c [bits w 13 5])
  | 0x09 => regFault (aBad c [bits w 15 4] || (bits w 14 1 = 1 && sBad c [bits w 0 5]))
  | 0x0A => regFault (if bits w 18 1 = 0 then sBad c [bits w 13 5] else aBad c [bits w 19 4])
  | 0x0B => regFault (sBad c [bits w 15 5] || (bits w 14 1 = 0 && sBad c [bits w 9 5]))
  | 0x0C => regFault (c.bad (parP (bits w 17 3)) || c.bad (parP (bits w 14 3)))
  | 0x0D => regFault (decide (16 ≤ bits w 0 5) && c.bad (parK (bits w 0 4)))
  | _ => []

/-- SALU's functions (05 R143). -/
def salu (fn : Nat) (a b : Word) : Word :=
  let sh := b.toNat % 32
  match fn with
  | 0 => a + b
  | 1 => a - b
  | 2 => a &&& b
  | 3 => a ||| b
  | 4 => a ^^^ b
  | 5 => a <<< sh
  | 6 => a >>> sh
  | 7 => a.sshiftRight sh
  | 8 => if a.toInt ≤ b.toInt then a else b
  | 9 => if a.toInt ≥ b.toInt then a else b
  | 10 => if a.toNat ≤ b.toNat then a else b
  | _ => if a.toNat ≥ b.toNat then a else b

/-- SETP's conditions (05 R143). -/
def setpCond (cond : Nat) (a b : Word) : Bool :=
  match cond with
  | 0 => a == b
  | 1 => a != b
  | 2 => decide (a.toInt < b.toInt)
  | 3 => decide (a.toInt ≤ b.toInt)
  | 4 => decide (a.toInt > b.toInt)
  | 5 => decide (a.toInt ≥ b.toInt)
  | 6 => decide (a.toNat < b.toNat)
  | _ => decide (a.toNat ≥ b.toNat)

def plog (op : Nat) (a b : Bool) : Bool :=
  match op with
  | 0 => a && b
  | 1 => a || b
  | 2 => a != b
  | _ => a && !b

def sextW (w lo len : Nat) : Word := BitVec.ofInt 32 (sext len (w / 2 ^ lo))

/-- SRD's sources (05 R143). -/
def State.srd (s : State) (n src : Nat) : Word :=
  let c := s.core n
  match src with
  | 0 => BitVec.ofNat 32 n
  | 1 => c.seq.step.setWidth 32
  | 2 => (c.seq.step >>> 32).setWidth 32
  | 3 => match s.partOfCore n with | some p => BitVec.ofNat 32 p | none => 0
  | 4 => match s.partOfCore n with | some p => BitVec.ofNat 32 (s.part p).plead | none => 0
  | k => BitVec.ofNat 32 (c.k (k - 16))

/-- What a SEQ word does (05 R143, R147–R151); branches apart. -/
def seqPerform (s : State) (n : Nat) (w : Word) : State :=
  let c := s.core n
  let sreg (i : Nat) (x : Word) : State := s.slotLater n 0 0 (.sreg i x)
  match swOp w with
  | 0x02 =>
    let v := if bits w 20 1 = 1 then bits w 0 16 else (c.s (bits w 0 5)).toNat % 65536
    s.slotLater n 0 0 (.lreg (bits w 21 2) v)
  | 0x03 =>
    let l := c.l (bits w 21 2)
    s.slotLater n 0 0 (.lreg (bits w 21 2) (if l > 1 then l - 1 else 0))
  | 0x04 =>
    let k := bits w 19 4
    let m := bits w 0 8
    if c.waitPends k m (s.realNow n) then
      s.setCore n { c with seq := { c.seq with
        waits := c.seq.waits ++ [⟨k, m, s.realNow n, s.timebase, c.seq.next, SMap.get 0 c.seq.kBy k⟩] } }
        |>.traceCore n 0x01 c.seq.next k 0 0 (m % 256 + 256 * c.k k)
    else s.slotLater n 0 0 (.tokenDown k m)
  | 0x05 => s.slotLater n 0 0 (.tokenUp (bits w 19 4) (bits w 0 8) (peerCore n))
  | 0x06 =>
    let d := bits w 18 5
    if bits w 17 1 = 1 then sreg d (BitVec.ofNat 32 ((c.s d).toNat % 65536 + bits w 0 16 * 65536))
    else sreg d (sextW w.toNat 0 16)
  | 0x07 => sreg (bits w 18 5) (salu (bits w 0 4) (c.s (bits w 13 5)) (c.s (bits w 8 5)))
  | 0x08 => sreg (bits w 18 5) (c.s (bits w 13 5) + sextW w.toNat 0 13)
  | 0x09 =>
    let x := if bits w 14 1 = 1 then c.s (bits w 0 5) else sextW w.toNat 0 14
    s.slotLater n 0 0 (.areg (bits w 19 4) (c.a (bits w 15 4) + x))
  | 0x0A =>
    if bits w 18 1 = 0 then s.slotLater n 0 0 (.areg (bits w 19 4) (c.s (bits w 13 5)))
    else sreg (bits w 13 5) (c.a (bits w 19 4))
  | 0x0B =>
    let b := if bits w 14 1 = 1 then sextW w.toNat 4 10 else c.s (bits w 9 5)
    s.slotLater n 0 0 (.preg (bits w 20 3) (setpCond (bits w 0 3) (c.s (bits w 15 5)) b))
  | 0x0C => s.slotLater n 0 0 (.preg (bits w 20 3) (plog (bits w 0 2) (c.p (bits w 17 3)) (c.p (bits w 14 3))))
  | 0x0D => sreg (bits w 18 5) (s.srd n (bits w 0 5))
  | 0x0E => s.setCore n { c with seq := { c.seq with halted := true, haltAt := c.seq.now } }
  | _ => s

/-- The target of a SEQ branch that is taken (05 R129, R143). -/
def seqBranch (c : Core) (w : Word) : Option Nat :=
  if !c.acts w then none else
  match swOp w with
  | 0x01 => some (bits w 0 10)
  | 0x03 => if c.l (bits w 21 2) > 1 then some (bits w 0 10) else none
  | _ => none

/-! ## Waits (05 R147, R149, R150) -/

/-- The first pending wait whose test in real cycle r ends it: it finds its token, or a token register of wrong parity (05 R142). Waits on
one token are tested in issue order, the next from the cycle after the earlier one was satisfied (05 R149). -/
def readyWait (c : Core) (r : Nat) : List Wait → List Nat → Option Wait
  | [], _ => none
  | x :: xs, seen =>
    if !seen.contains x.tok && SMap.get 0 c.seq.kSat x.tok != r + 1 &&
        (c.bad (parK x.tok) || decide (x.n + c.downs x.tok ≤ c.k x.tok)) then some x
    else readyWait c r xs (x.tok :: seen)

def dropWait (x : Wait) : List Wait → List Wait
  | [] => []
  | y :: ys => if y = x then ys else y :: dropWait x ys

/-- WAIT_SATISFIED (05 R147): the first pending wait of core n whose token suffices is satisfied in the present real cycle u. Its token
decreases at the end of u, which in a paused cycle is at once, since no bundle is issued in that cycle; its pause cycles t + PLEAD to
u + PLEAD − 1 are fixed (05 R150). A token of wrong parity faults (05 R142). -/
def execWaitSatisfied (n : CoreId) (s : State) : Host.Outcome State Fault Refusal :=
  let c := s.core n
  let u := s.realNow n
  match readyWait c u c.seq.waits [] with
  | none => .next s
  | some x =>
    if c.bad (parK x.tok) then .next (s.coreFault n Sf.regParity ⟨0, none, x.bundle⟩) else
    let q := { c.seq with waits := dropWait x c.seq.waits, kSat := SMap.set 0 c.seq.kSat x.tok (u + 1) }
    let issues : Bool := match s.partOfCore n with
      | some p => s.performs p c.seq.now
      | none => true
    let c' : Core := if issues
      then { c with seq := { q with pend := q.pend ++ [⟨q.now, q.now, 0, x.bundle, none, .tokenDown x.tok x.n⟩] } }
      else { c with seq := { q with k := SMap.set 0 q.k x.tok (c.k x.tok - x.n) } }
    let s' := (s.setCore n c').traceCore n 0x02 x.bundle x.tok (u - x.at_) (SMap.get 0 c.seq.kBy x.tok).toNat 0
    match s.partOfCore n with
    | none => .next s'
    | some p =>
      let y := s'.part p
      .next (s'.setPart p { y with waitIv := y.waitIv ++ (if x.at_ < u then [(x.at_ + y.plead, u + y.plead)] else []) })

end Sys2Proof.Machine
end

