-- ==== Sys2Proof/Machine/SliceMem.lean ====
section
/-! DEFINITION. The slice's check code and what a read of a beat does (07 R213–R219). -/

namespace Sys2Proof.Machine

/-- Multiplication in GF(2^8) with x^8 + x^4 + x^3 + x^2 + 1 (07 R215). -/
def gfMulAux : Nat → Nat → Nat → Nat
  | 0, _, _ => 0
  | k + 1, a, b =>
    let rest := gfMulAux k (if a ≥ 128 then (2 * a) ^^^ 0x11D else 2 * a) (b / 2)
    if b % 2 = 1 then a ^^^ rest else rest
def gfMul (a b : Nat) : Nat := gfMulAux 8 a b

/-- α^i. -/
def gfPow : Nat → Nat
  | 0 => 1
  | i + 1 => gfMul (gfPow i) 2

/-- The two check symbols of a codeword's eight data symbols, by the quotient of 0x03 (07 R215): (s8, s9). -/
def sliceChecks (ds : List Nat) : Nat × Nat :=
  let d0 := ds.foldl (· ^^^ ·) 0
  let d1 := (ds.zipIdx.map (fun x => gfMul x.1 (gfPow (9 - x.2)))).foldl (· ^^^ ·) 0
  -- 0xF4 is the inverse of 0x03
  let s8 := gfMul (d0 ^^^ d1) 0xF4
  (s8, d0 ^^^ s8)

/-- What one codeword shows. -/
inductive CwRes where
  | clean
  | fixed (layer : Nat)
  | bad
deriving DecidableEq, Repr

/-- The outcome of syndromes S0 and S1 (07 R216). -/
def cwDecode (mark : Option Nat) (s0 s1 : Nat) : CwRes :=
  match mark with
  | some m => if s1 = gfMul s0 (gfPow (9 - m)) then (if s0 = 0 then .clean else .fixed m) else .bad
  | none =>
    if s0 = 0 ∧ s1 = 0 then .clean
    else if s0 = 0 then .bad
    else match (List.range 10).find? (fun l => s1 == gfMul s0 (gfPow (9 - l))) with
      | some l => .fixed l
      | none => .bad

/-- Byte i of the 40-byte difference between a beat as stored and its codeword. -/
def flipByte (flips i : Nat) : Nat := flips / 256 ^ i % 256

/-- The syndromes of codeword j: those of its errors, with the poison signature's (07 R217). -/
def syndromes (flips : Nat) (sig : Bool) (j : Nat) : Nat × Nat :=
  let e (l : Nat) : Nat := flipByte flips (4 * l + j)
  ((List.range 10).foldl (fun a l => a ^^^ e l) 0,
   ((List.range 10).foldl (fun a l => a ^^^ gfMul (e l) (gfPow (9 - l))) 0) ^^^ (if sig then 0xEE else 0))

/-- What a read of a beat shows: its data as decoded, and the codewords. -/
inductive BeatRes where
  | clean
  | corrected (all : Option Nat)
  | uncorrectable
  | signature
deriving DecidableEq, Repr

structure Beat where
  data : Bytes
  res : BeatRes
  /-- symbols corrected outside the marked layer -/
  outside : Bool
deriving DecidableEq, Repr

/-- The layer that reads invert, all ones in each of its four symbols (07 R219). -/
def injectMask (reg : Word) : Nat :=
  if bits reg 26 1 = 1 ∧ bits reg 22 4 < 10 then 0xFFFFFFFF * 256 ^ (4 * bits reg 22 4) else 0

def markedLayer (reg : Word) : Option Nat :=
  if bits reg 31 1 = 1 ∧ bits reg 27 4 < 10 then some (bits reg 27 4) else none

/-- Decodes a beat of slice n (07 R216, R217). -/
def State.decodeBeat (s : State) (n off : Nat) : Beat :=
  let a := sliceBase n + off
  let reg := s.reg (Reg.sliceLayer n)
  let mark := markedLayer reg
  let flips := SMap.get 0 s.mem.flips a ^^^ injectMask reg
  let sig := SMap.get false s.mem.poison a
  let sy := (List.range 4).map (syndromes flips sig)
  let rs := sy.map (fun x => cwDecode mark x.1 x.2)
  let raw := (s.mem.read a 32).zipIdx.map (fun x => x.1 ^^^ BitVec.ofNat 8 (flipByte flips x.2))
  let data := raw.zipIdx.map (fun x =>
    let j := x.2 % 4
    match rs.getD j .clean with
    | .fixed l => if l = x.2 / 4 then x.1 ^^^ BitVec.ofNat 8 (sy.getD j (0, 0)).1 else x.1
    | _ => x.1)
  let layers := rs.filterMap (fun r => match r with | .fixed l => some l | _ => none)
  let outside := layers.any (fun l => mark != some l)
  if sy.all (fun x => x.1 == 0 && x.2 == 0xEE) then ⟨data, .signature, false⟩
  else if rs.contains .bad then ⟨data, .uncorrectable, outside⟩
  else match layers with
    | [] => ⟨data, .clean, false⟩
    | l :: ls =>
      ⟨data, .corrected (if mark.isNone && ls.length == 3 && ls.all (· == l) then some l else none), outside⟩

/-- Counts what a read showed (07 R216–R219): SLICE_STATUS, and layer events in SLICE_LAYER, whose second event of one
layer marks it. -/
def State.countBeat (s : State) (n : Nat) (r : BeatRes) : State :=
  match r with
  | .clean => s
  | .signature => s.countField (Reg.sliceStatus n) 10 6 1
  | .uncorrectable => s.countField (Reg.sliceStatus n) 16 8 1
  | .corrected ev =>
    let s := s.countField (Reg.sliceStatus n) 24 8 1
    match ev with
    | none => s
    | some l =>
      let s := s.setField (Reg.sliceLayer n) 0 4 l
      let s := s.setField (Reg.sliceLayer n) (10 + l) 1 1
      let x := s.slice n
      if bitOf x.seen l then
        let s := s.setSlice n { x with seen := 0 }
        let s := (s.setField (Reg.sliceLayer n) 27 4 l).setField (Reg.sliceLayer n) 31 1 1
        match s.partOfCore n with
        | some p => s.recoverable p 3 (s.windowOpen p)
        | none => s
      else s.setSlice n { x with seen := x.seen + 2 ^ l }

/-- A read of a beat: data, poisoned or not, and the state with the read counted. -/
def State.readBeat (s : State) (n off : Nat) : Bytes × Bool × State :=
  let b := s.decodeBeat n off
  (b.data, b.res = .uncorrectable || b.res = .signature, s.countBeat n b.res)

/-- A write of a beat, with the poison signature when poisoned (07 R217). -/
def State.writeBeat (s : State) (n off : Nat) (data : Bytes) (poi : Bool) : State :=
  { s with mem := s.mem.writeUnit (sliceBase n + off) data poi }

end Sys2Proof.Machine
end

