-- ==== Sys2Proof/Machine/Lds.lean ====
section
/-! DEFINITION. The LDS slot and the vertical port (05 R152, R153, 03 R90, 07 R214, R220). -/

namespace Sys2Proof.Machine

def ldsLegal (w : Word) : Bool :=
  decide (1 ≤ swOp w) && decide (swOp w ≤ 3) && (bits w 13 1 == 1 || bits w 0 8 == 0)

/-- B (05 R152). -/
def ldsCount (c : Core) (w : Word) : Nat :=
  if bits w 13 1 = 1 then bits w 0 13 + 1 else (c.s (bits w 8 5)).toNat % 2 ^ 20

/-- Whether cycles lo to hi of core n's unpaused time meet a base refresh window of its partition (07 R220). -/
def State.meetsRefresh (s : State) (n lo hi : Nat) : Bool :=
  match s.partOfCore n with
  | none => false
  | some p =>
    let off := (s.part p).facet.glob.refoff % 4096
    s.inRefresh n lo || decide (lo + (off + 4096 - lo % 4096) % 4096 ≤ hi)

/-- A port window that meets another, or a refresh window, is PORT_CONFLICT (03 R90, 05 R153, 07 R220). -/
def State.portConflict (s : State) (n lo hi : Nat) : Bool :=
  (s.core n).portBusy.any (fun x => decide (x.1 ≤ hi) && decide (lo ≤ x.2)) ||
  (s.core n).stsAt.any (fun t => decide (lo ≤ t) && decide (t ≤ hi)) || s.meetsRefresh n lo hi

def State.openPort (s : State) (n lo hi : Nat) : State :=
  let c := s.core n
  s.setCore n { c with portBusy := c.portBusy.filter (fun x => decide (c.seq.now ≤ x.2)) ++ [(lo, hi)] }

/-- Faults of an LDS word that acts. -/
def State.ldsFaults (s : State) (n : Nat) (w : Word) : List Nat :=
  let c := s.core n
  let b := ldsCount c w
  let sa := (c.a (bits w 19 4)).toNat
  let da := (c.a (bits w 15 4)).toNat
  let t := c.seq.now
  let placed := decide (1 ≤ b) && decide (b ≤ 524288) && sa % 32 = 0 && decide (sa + 32 * b ≤ sliceBytes) &&
    (swOp w = 3 || (da % 32 = 0 && decide (da + 32 * b ≤ sramBytes)))
  (if decide (1 ≤ b) && s.portConflict n (t + 1) (t + portCycles (s.fastClock n) b) then [Sf.portConflict] else []) ++
  (if placed then [] else [Sf.illegal]) ++
  regFault (aBad c [bits w 19 4, bits w 15 4] || (bits w 13 1 = 0 && sBad c [bits w 8 5]))

/-- An LDS operation opens its port window (05 R153); its beats follow (SLICE_BEAT). With AS = AD and POST = 1 it writes one register twice
in one cycle, and the increment of AD stands (DESIGN CHOICE, log 66). -/
def State.ldsPerform (s : State) (n : Nat) (w : Word) : State :=
  let c := s.core n
  let b := ldsCount c w
  let sa := c.a (bits w 19 4)
  let da := c.a (bits w 15 4)
  let t := c.seq.now
  let op : EngineOp :=
    { word := w, ctl := BitVec.ofNat 32 b, gA := sa.toNat, gB := da.toNat, descA := 0, descB := 0, start := t, k := 0,
      bundle := c.seq.next, rowsA := [], rowsB := [], beats := 0 }
  let s := s.setCore n { c with eng := { c.eng with ports := c.eng.ports ++ [op] } }
  let s := s.openPort n (t + 1) (t + portCycles (s.fastClock n) b)
  if bits w 14 1 = 1 then
    let s := s.slotLater n 1 0 (.areg (bits w 19 4) (sa + BitVec.ofNat 32 (32 * b)))
    s.slotLater n 1 0 (.areg (bits w 15 4) (da + BitVec.ofNat 32 (if swOp w = 3 then b else 32 * b)))
  else s

/-- Beat i of an LDS operation moves (05 R153, 07 R214): an ST writes the row its port cycle read, an LD or BFILL writes its target at the
end of port cycle + 24. -/
def State.ldsBeat (s : State) (n : Nat) (o : EngineOp) : State :=
  let i := o.beats
  let c := s.core n
  let port := o.start + beatCycle (s.fastClock n) i
  if swOp o.word = 2 then
    let r := SMap.get ([], 0) o.rowsA i
    (s.tallyCore n 3 32).writeBeat n (o.gA + 32 * i) r.1 (r.2 != 0)
  else
    let r := s.readBeat n (o.gA + 32 * i)
    let poi := if r.2.1 then 15 else 0
    let e : Effect := if swOp o.word = 3 then .bundleRow (o.gB + i) r.1 poi else .sram (o.gB + 32 * i) r.1 poi
    let s := r.2.2.tallyCore n 2 32
    let c' := s.core n
    s.setCore n { c' with seq := { c'.seq with
      pend := c'.seq.pend ++ [⟨max (port + 24) c.seq.now, o.start, 1, o.bundle, none, e⟩] } }

/-- Address of beat i of a run from the slice: each unit's scale beats, then its element beats (DESIGN CHOICE, log 14). -/
def EngineOp.runBeat (o : EngineOp) (i : Nat) : Nat × Nat :=
  let d := o.a
  let u := i / d.unitBeats
  let r := i % d.unitBeats
  if r < d.unitScaleBeats then (scaleKey u r, d.saddr o.gA + 64 * u + 32 * r)
  else
    let e := d.eaddr o.gA + u * (d.g * d.q) + 32 * (r - d.unitScaleBeats)
    (e / 32, e)

/-- Replaces one operation of a list. -/
def replaceAt (i : Nat) (x : EngineOp) (os : List EngineOp) : List EngineOp :=
  os.zipIdx.map (fun y => if y.2 = i then x else y.1)

/-- The cycle in which an operation's next beat moves, 24 after its port cycle (07 R214). -/
def EngineOp.beatAt (o : EngineOp) (fast : Bool) : Nat := o.start + beatCycle fast o.beats + 24

/-- A beat is to move before the core's next cycle. -/
def State.beatDue (s : State) (n : Nat) : Bool :=
  let e := (s.core n).eng
  let late (o : EngineOp) (cnt : Nat) : Bool :=
    decide (o.beats < cnt) && decide (o.beatAt (s.fastClock n) ≤ (s.core n).seq.now)
  e.ports.any (fun o => late o o.beatCount) || e.mvps.any (fun o => o.a.src == 1 && late o (o.a.beats (mvpK o.ctl)))

/-- SLICE_BEAT (07 R214): the earliest operation that holds the port moves its next beat 24 cycles after
the beat's port cycle. Until then, and during a pause or a freeze, the beat is in the port's pipeline and not in the array (07 R221). -/
def execSliceBeat (n : CoreId) (s : State) : Host.Outcome State Fault Refusal :=
  if ¬ s.coreFree n then .next s else
  let c := s.core n
  let fast := s.fastClock n
  let now := c.seq.now
  let lds := c.eng.ports.zipIdx.find? (fun x => decide (x.1.beats < x.1.beatCount))
  let runs := c.eng.mvps.zipIdx.find? (fun x => x.1.a.src = 1 && decide (x.1.beats < x.1.a.beats (mvpK x.1.ctl)))
  let useLds := match lds, runs with
    | some a, some b => decide (a.1.start ≤ b.1.start)
    | _, none => true
    | none, some _ => false
  if useLds then
    match lds with
    | none => .next s
    | some (o, i) =>
      if now < o.beatAt fast then .next s else
      let s := s.ldsBeat n o
      let c := s.core n
      let o' := { o with beats := o.beats + 1 }
      let ps := if o'.beats < o'.beatCount then replaceAt i o' c.eng.ports else c.eng.ports.eraseIdx i
      .next (s.setCore n { c with eng := { c.eng with ports := ps } })
  else
    match runs with
    | none => .next s
    | some (o, i) =>
      if now < o.beatAt fast then .next s else
      let x := o.runBeat o.beats
      let r := s.readBeat n (x.2 / 32 * 32)
      let s := r.2.2.tallyCore n 2 32
      let c := s.core n
      let o' := { o with beats := o.beats + 1, rowsA := SMap.put o.rowsA x.1 (r.1, if r.2.1 then 15 else 0) }
      .next (s.setCore n { c with eng := { c.eng with mvps := replaceAt i o' c.eng.mvps } })

end Sys2Proof.Machine
end

