-- ==== Sys2Proof/Machine/Ope.lean ====
section
/-! DEFINITION. The outer-product engine: issue, updates, loads, drains and the checksum mode (03 R64–R83, R91–R93, R96). -/

namespace Sys2Proof.Machine

/-! ## Descriptors (03 R64) -/

/-- Where descriptor i of core n lies. -/
def State.descOff (s : State) (n i : Nat) : Nat :=
  (match s.partOfCore n with | some p => (s.part p).facet.glob.dtbase | none => 0) + 16 * i

/-- Reads a descriptor: its bits, whether a word is uncorrectable or poisoned, and the state with the checks counted. -/
def State.readDesc (s : State) (n i : Nat) : BitVec 128 × Bool × State :=
  let off := s.descOff n i
  let r := s.readSram n off 2
  (BitVec.ofNat 128 (leVal r.1), r.2.1.any id, r.2.2)

/-! ## Windows -/

/-- Two closed ranges of cycles meet. -/
def meet (a b : Nat × Nat) : Bool := decide (a.1 ≤ b.2) && decide (b.1 ≤ a.2)

def EngineOp.updWin (o : EngineOp) : Nat × Nat := (o.start + o.mmaL, o.start + o.mmaL + o.mmaU - 1)
def EngineOp.mmaTileWin (o : EngineOp) : Nat × Nat := (o.start + o.mmaL, o.start + o.mmaL + o.mmaU + 1)
def EngineOp.loadWin (o : EngineOp) : Nat × Nat := (o.start, o.start + 34)
/-- An OPE drain's window, and an MVP drain's, whose operations have their slot words' opcodes 3 and 2. -/
def EngineOp.drainWin (o : EngineOp) : Nat × Nat :=
  (o.start, o.start + (if swOp o.word = 3 then 7 else 2 * (bits o.word 20 3 + 1) - 1))
/-- Tiles an OPE drain names. -/
def drainTiles (w : Word) : List Nat := if bits w 20 1 = 1 then [bits w 21 2, bits w 18 2] else [bits w 21 2]

/-- Tile windows of other operations on tile i: the MMAs' apart when `mma` is false. -/
def Core.tileWindows (c : Core) (i : Nat) (mma : Bool) : List (Nat × Nat) :=
  (if mma then (c.eng.mmas.filter (fun o => mmaTile o.word = i)).map EngineOp.mmaTileWin else []) ++
  (c.eng.loads.filter (fun o => bits o.word 21 2 = i)).map EngineOp.loadWin ++
  (c.eng.drains.filter (fun o => swOp o.word = 3 && (drainTiles o.word).contains i)).map EngineOp.drainWin

/-- The type tile i will have when an operation that issues now reaches it: the last MMA that has yet to reach it with INIT decides, or
the tile's own (03 R75). -/
def Core.tileType (c : Core) (i : Nat) : Bool :=
  (c.eng.mmas.filter (fun o => mmaTile o.word = i && mmaInit o.word && o.k == 0)).foldl
    (fun _ o => accIsInt o.a.f o.a.smode o.b.f o.b.smode) (SMap.get Tile.reset c.eng.tiles i).isInt

/-- One past the last cycle in which an MMA reads a row: the data cycles go on past K to the end of the last group (02 R43, 07 R206). -/
def EngineOp.readEnd (o : EngineOp) : Nat :=
  o.start + o.mmaL + Machine.mmaU (pairRate o.a o.b) (max (o.a.steps (mmaK o.ctl)) (o.b.steps (mmaK o.ctl))) (mmaChk o.ctl)

/-- Engine operations whose windows and reads have passed leave the lists. -/
def EngState.prune (e : EngState) (t : Nat) : EngState :=
  { e with
    mmas := e.mmas.filter (fun o => decide (t ≤ o.mmaTileWin.2) || decide (o.k < o.mmaU) || decide (t < o.readEnd)),
    loads := e.loads.filter (fun o => decide (t ≤ o.loadWin.2)),
    drains := e.drains.filter (fun o => decide (t ≤ o.drainWin.2)) }

/-! ## The OPE slot (05 R157) -/

def opeLegal (w : Word) : Bool :=
  match swOp w with
  | 0x01 => true
  | 0x02 => bits w 0 16 == 0
  | 0x03 => bits w 0 18 == 0 && !(bits w 20 1 == 1 && bits w 18 2 == bits w 21 2)
  | _ => false

/-- The MMA that a slot word would start, and whether a descriptor could not be read. -/
def State.mmaOf (s : State) (n : Nat) (w : Word) : EngineOp × Bool × State :=
  let c := s.core n
  let ra := s.readDesc n (bits w 15 6)
  let rb := ra.2.2.readDesc n (bits w 9 6)
  let ap := bits w 6 3
  ({ word := w, ctl := c.s (bits w 1 5), gA := (c.a (2 * ap)).toNat, gB := (c.a (2 * ap + 1)).toNat, descA := ra.1,
     descB := rb.1, start := c.seq.now, k := 0, bundle := c.seq.next, rowsA := [], rowsB := [], beats := 0 },
   ra.2.1 || rb.2.1, rb.2.2)

/-- The value checks of an MMA (03 R66, R68, R77, R93, 05 R159). -/
def Core.mmaValues (c : Core) (o : EngineOp) : Bool :=
  let k := mmaK o.ctl
  let chainOk (d : Desc) : Bool := d.src != 3 || (decide (k ≤ 16) && SMap.get 0 c.eng.chFmt d.chsel == d.fmt)
  let meshOk (d : Desc) : Bool := d.src != 2 || decide ((if d.scaled then 5 else 1) ≤ mmaDelay o.ctl)
  bits o.ctl 27 5 == 0 && o.a.legalFor .opeA && o.b.legalFor .opeB && o.a.placed o.gA 16 k && o.b.placed o.gB 16 k &&
  chainOk o.a && chainOk o.b && meshOk o.a && meshOk o.b

def State.opeFaults (s : State) (n : Nat) (w : Word) : List Nat :=
  let c := s.core n
  let t := c.seq.now
  match swOp w with
  | 0x01 =>
    let r := s.mmaOf n w
    let o := r.1
    let ap := bits w 6 3
    let inFlight := c.eng.mmas.filter (fun x => decide (t ≤ x.updWin.2))
    let overlap := decide (2 ≤ inFlight.length) || inFlight.any (fun x => decide (o.updWin.1 ≤ x.updWin.2))
    let isInt := accIsInt o.a.f o.a.smode o.b.f o.b.smode
    -- an unreadable descriptor gives no windows and no types; an illegal one has those of its fields (03 R96)
    let known := !r.2.1
    (if known && overlap then [Sf.opeOverlap] else []) ++
    (if known && (c.tileWindows (mmaTile w) false).any (meet o.mmaTileWin) then [Sf.tileConflict] else []) ++
    (if known && !mmaInit w && c.tileType (mmaTile w) != isInt then [Sf.typeMismatch] else []) ++
    (if known && !c.mmaValues o then [Sf.illegal] else []) ++
    regFault (sBad c [bits w 1 5] || (o.a.src != 3 && aBad c [2 * ap]) || (o.b.src != 3 && aBad c [2 * ap + 1])) ++
    (if r.2.1 then [Sf.fetchUncorrectable] else [])
  | 0x02 =>
    let a := (c.a (bits w 16 4)).toNat
    (if (c.tileWindows (bits w 21 2) true).any (meet (t, t + 34)) then [Sf.tileConflict] else []) ++
    (if a % 32 = 0 ∧ a + 1024 ≤ sramBytes then [] else [Sf.illegal]) ++ regFault (aBad c [bits w 16 4])
  | 0x03 =>
    (if (drainTiles w).any (fun i => (c.tileWindows i true).any (meet (t, t + 7))) then [Sf.tileConflict] else []) ++
    (if c.eng.drains.any (fun o => meet o.drainWin (t, t + 7)) then [Sf.drainOverlap] else [])
  | _ => []

/-! ## Checksums (03 R81–R83) -/

/-- FP32 words as multiples of 2^−149. -/
def numUnits : Num → Int
  | .fin s m e => Num.signed s (m * 2 ^ (e + 149).toNat)
  | _ => 0

/-- Whether a row or column agrees with its checksum (03 R83). -/
def checkLine (isInt : Bool) (tol : Nat) (xs : List Word) (c : Int) : Bool :=
  if isInt then
    xs.any (fun x => x = 0x80000000 || x = 0x7FFFFFFF) || decide (xs.foldl (fun a x => a + x.toInt) 0 = c)
  else
    let vs := xs.map f32
    let cv := f32 (BitVec.ofInt 32 c)
    if (cv :: vs).any (fun v => v.isNan || v.isInf) then true else
    let sum := vs.foldl (fun a v => a + numUnits v) 0
    let mag := vs.foldl (fun a v => a + (numUnits v).natAbs) (numUnits cv).natAbs
    -- |S − c| ≤ 2^(2 tol − 8) A + 2^−126, times 2^8
    decide ((sum - numUnits cv).natAbs * 2 ^ 8 ≤ mag * 2 ^ (2 * tol) + 2 ^ 31)

def Tile.word (t : Tile) (i j : Nat) : Word := (SMap.get Lane.zero t.lanes (16 * i + j)).val

/-- Whether a drain of a tile finds a failed check: a checksum of wrong parity passes none (17 R516; DEDUCED, log 92). -/
def Tile.fails (t : Tile) : Bool :=
  t.chkValid && (!t.chkBad.isEmpty || (List.range 16).any (fun i =>
    !checkLine t.isInt t.chkTol ((List.range 16).map (fun j => t.word i j)) (SMap.get 0 t.cc i) ||
    !checkLine t.isInt t.chkTol ((List.range 16).map (fun j => t.word j i)) (SMap.get 0 t.cr i)))

/-- A failed check is counted (03 R83, R97). -/
def State.chkFail (s : State) (n : Nat) (b : Bool) : State :=
  if b then (s.orReg (Reg.engineStatus n) 4).countField (Reg.engineStatus n) 16 16 1 else s

/-- The beats a tile presents: rows 2c and 2c + 1 on cycle c (03 R80, 04 R100). -/
def Tile.beat (t : Tile) (poison : Bool) (c : Nat) : List Lane :=
  laneIdx.map (fun i =>
    let l := SMap.get Lane.zero t.lanes (32 * c + i)
    { l with poison := l.poison || poison })

def State.opePerform (s : State) (n : Nat) (w : Word) : State :=
  let c := s.core n
  let t := c.seq.now
  let mk (g : Nat) : EngineOp :=
    { word := w, ctl := 0, gA := g, gB := 0, descA := 0, descB := 0, start := t, k := 0, bundle := c.seq.next,
      rowsA := [], rowsB := [], beats := 0 }
  match swOp w with
  | 0x01 =>
    let r := s.mmaOf n w
    let c := r.2.2.core n
    let e := c.eng.prune t
    r.2.2.setCore n { c with eng := { e with mmas := e.mmas ++ [r.1] } }
  | 0x02 =>
    let i := bits w 21 2
    let isInt := bits w 20 1 == 1
    let a := (c.a (bits w 16 4)).toNat
    let e := c.eng.prune t
    let tl := SMap.get Tile.reset e.tiles i
    let tl := { tl with isInt := isInt, chkValid := true, chkTol := 0 }
    let s := s.setCore n { c with eng := { e with loads := e.loads ++ [mk a], tiles := SMap.put e.tiles i tl } }
    let s := (List.range 32).foldl (fun s r => s.slotLater n 3 (r + 1) (.rdTile (a + 32 * r) i r isInt)) s
    s.slotLater n 3 34 (.loadEnd i)
  | 0x03 =>
    let e := c.eng.prune t
    let s := s.setCore n { c with eng := { e with drains := e.drains ++ [mk 0] } }
    (drainTiles w).zipIdx.foldl (fun s x =>
      let tl := SMap.get Tile.reset e.tiles x.1
      let bad := tl.fails
      let s := s.chkFail n bad
      (List.range 8).foldl (fun s cy => s.slotLater n 3 cy (.xreg (8 * x.2 + cy) (tl.beat bad cy))) s) s
  | _ => s

/-! ## Updates (03 R75–R77, R81, R91–R93) -/

/-- Steps of k that one flit carries, data cycles it feeds (03 R91). -/
def Desc.flitSteps (d : Desc) : Nat := 32 / d.f.bits
def flitCycles (d : Desc) (r : Rate) : Nat := d.flitSteps * 4 / r.s4
/-- Flits of a received operand. -/
def flitCount (d : Desc) (k : Nat) : Nat := (k + d.flitSteps - 1) / d.flitSteps
/-- One past the last cycle in which flit m may be delivered is this plus one (03 R92). -/
def EngineOp.flitEnd (o : EngineOp) (d : Desc) (m : Nat) : Nat :=
  o.start + o.mmaL + zMap (mmaChk o.ctl) (m * flitCycles d (pairRate o.a o.b))
/-- The first cycle in which flit m may be delivered (03 R92); z(d) = d below 0. -/
def EngineOp.flitStart (o : EngineOp) (d : Desc) (m : Nat) : Nat :=
  let f := flitCycles d (pairRate o.a o.b)
  if m = 0 then o.start + o.mmaL + 1 - f else o.start + o.mmaL + zMap (mmaChk o.ctl) ((m - 1) * f) + 1

/-- Flits that an operand has taken or missed. -/
def flitsSeen (rows : SMap (Bytes × Nat)) : Nat := (rows.filter (fun x => decide (0x800000 ≤ x.1))).length

/-- Marks the flits whose windows have ended by cycle t as absent: poisoned data and NO_FLIT (03 R92). -/
def missFlits : Nat → EngineOp → Desc → Nat → SMap (Bytes × Nat) → SMap (Bytes × Nat) × Bool
  | 0, _, _, _, rows => (rows, false)
  | fuel + 1, o, d, t, rows =>
    let m := flitsSeen rows
    if m < flitCount d (mmaK o.ctl) ∧ o.flitEnd d m < t then
      ((missFlits fuel o d t (SMap.put rows (flitKey m) ([], 255))).1, true)
    else (rows, false)

/-- The flits that MMAs of core n have missed before cycle t. -/
def State.noFlits (s : State) (n t : Nat) : State :=
  let c := s.core n
  let r := c.eng.mmas.map (fun o =>
    let a := if o.a.src = 2 then missFlits (flitCount o.a (mmaK o.ctl)) o o.a t o.rowsA else (o.rowsA, false)
    let b := if o.b.src = 2 then missFlits (flitCount o.b (mmaK o.ctl)) o o.b t o.rowsB else (o.rowsB, false)
    ({ o with rowsA := a.1, rowsB := b.1 }, a.2 || b.2))
  let s := s.setCore n { c with eng := { c.eng with mmas := r.map (·.1) } }
  if r.any (·.2) then s.orReg (Reg.engineStatus n) 8 else s

/-- Bytes of core SRAM row r that an operation has read, or else as they stand. -/
def State.rowNow (s : State) (n : Nat) (rows : SMap (Bytes × Nat)) (r : Nat) : Bytes × Nat :=
  match SMap.find rows r with
  | some x => x
  | none =>
    let w := s.mem.words (coreWindow n + 32 * r) 4
    (w.1, w.2.1.zipIdx.foldl (fun m q => if q.1 then m + 2 ^ q.2 else m) 0)

/-- The weight that a codebook index decodes to (02 R46, R47): element j of group o of lane i, from the codebook words that the
operation has looked up (03 R73, R74). -/
def Desc.vqElem (d : Desc) (rows : SMap (Bytes × Nat)) (o i j scale : Nat) : (Num × AFlags) × Bool :=
  let look (tbl : Nat) : Nat × Bool :=
    let x := SMap.get ([], 0) rows (bookKey o i tbl)
    ((x.1.getD j 0).toNat, x.2 != 0)
  if d.f = .vq12 then (vq12Weight d.cbfmt (look 0).1 scale, (look 0).2)
  else (vq16Weight d.cbfmt (look 0).1 (look 1).1 scale, (look 0).2 || (look 1).2)

/-- An operation looks up the codebook words of octet j of an operand that it has not looked up before (03 R74): the entries that the octet's
first step takes, an index that has not been read by then taken from its rows as they stand (DESIGN CHOICE, log 62). -/
def State.fillBook (s : State) (n : Nat) (d : Desc) (g lanes j : Nat) (row : Nat → Bytes × Nat) (rows : SMap (Bytes × Nat)) :
    State × SMap (Bytes × Nat) :=
  if !d.f.isVq then (s, rows) else
  (d.bookReads g lanes j (List.range lanes) row).foldl (fun (a : State × SMap (Bytes × Nat)) x =>
    match SMap.find a.2 x.1 with
    | some _ => a
    | none =>
      let r := a.1.readSram n x.2 1
      (r.2.2, SMap.put a.2 x.1 (r.1, if r.2.1.any id then 1 else 0))) (s, rows)

def Elem.mk' (v : Num × AFlags) (p : Bool) : Elem := ⟨v.1, if p then 0 else v.2, p⟩

/-- One element of an operand in memory: lane i of `lanes` at step k, its array at byte address `e`, its lane pitch in
K-MINOR, its scale byte, the rows' source and what the operation has read (03 R69). -/
def Desc.memElem (d : Desc) (rows : SMap (Bytes × Nat)) (row : Nat → Bytes × Nat) (e lanes i k : Nat) (scale : Nat × Bool) : Elem :=
  if d.f.isVq then
    let x := gather row (8 * e + d.f.bits * (k / 8 * lanes + i)) d.f.bits
    let v := d.vqElem rows (k / 8) i (k % 8) scale.1
    Elem.mk' v.1 (x.2 || v.2 || scale.2)
  else
    let w := d.f.bits
    let at_ := if d.orient = 1 then 8 * (e + i * d.pitch) + w * k else 8 * e + w * (k * lanes + i)
    let x := gather row at_ w
    Elem.mk' (decodeElem d.f d.smode x.1 scale.1) (x.2 || scale.2)

/-- The scale byte of lane i for group j (03 R69), from the rows read for that group. -/
def State.scaleOf (s : State) (n : Nat) (d : Desc) (rows : SMap (Bytes × Nat)) (g per j i : Nat) : Nat × Bool :=
  if !d.scaled then (0, false) else
  let a0 := d.saddr g + per * j
  let row (r : Nat) : Bytes × Nat :=
    match SMap.find rows (scaleKey j (r - a0 / 32)) with
    | some x => x
    | none => s.rowNow n [] r
  gather row (8 * (a0 + i)) 8

/-- The 16 elements of an OPE operand at step k. A chain buffer is read in the cycle in which the update enters: the spec gives its lead of
3 cc and not the cycle of the read inside it (03 R77, R93; DESIGN CHOICE, log 62). -/
def State.opeElems (s : State) (n : Nat) (o : EngineOp) (side k : Nat) : List Elem :=
  let d := if side = 0 then o.a else o.b
  let rows := if side = 0 then o.rowsA else o.rowsB
  let g := if side = 0 then o.gA else o.gB
  let c := s.core n
  (List.range 16).map (fun i =>
    if d.src = 3 then
      let l := SMap.get Lane.zero c.eng.ch (256 * d.chsel + (if side = 0 then 16 * i + k else 16 * k + i))
      Elem.mk' (decodeElem d.f 0 l.val.toNat 0) l.poison
    else
      let sc := s.scaleOf n d rows g 16 (k / d.g) i
      if d.src = 2 then
        let m := k / d.flitSteps
        let f := SMap.get ([], 255) rows (flitKey m)
        let x := gather (fun _ => (f.1, 0)) (d.f.bits * ((k % d.flitSteps) * 16 + i) % 256) d.f.bits
        -- a flit is two rows of bytes: take the half the element lies in
        let half := d.f.bits * ((k % d.flitSteps) * 16 + i) / 256
        let y := gather (fun _ => (f.1.drop (32 * half), 0)) (d.f.bits * ((k % d.flitSteps) * 16 + i) % 256) d.f.bits
        Elem.mk' (decodeElem d.f d.smode (if half = 0 then x.1 else y.1) sc.1) (f.2 != 0 || sc.2)
      else d.memElem rows (s.rowNow n rows) (d.eaddr g) 16 i k sc)

/-- Step k of an update reaches tile t (03 R75, R81). -/
def Tile.step (t : Tile) (chk : Bool) (xs ys : List Elem) : Tile × AFlags :=
  let r := (xs.zipIdx).foldl (fun (acc : SMap Lane × AFlags) x =>
    (ys.zipIdx).foldl (fun (acc : SMap Lane × AFlags) y =>
      let i := 16 * x.2 + y.2
      let l := accLane t.isInt (SMap.get Lane.zero acc.1 i) x.1 y.1
      (SMap.set Lane.zero acc.1 i l.1, acc.2 ||| l.2)) acc) (t.lanes, 0)
  let t' := { t with lanes := r.1 }
  if !chk then (t', r.2) else
  let sum (zs : List Elem) : Num := zs.foldl (fun a z => (a.add z.val).1) (Num.fin false 0 0)
  let sa := sum xs
  let sb := sum ys
  let step (old : Int) (a b : Num) : Int :=
    if t.isInt then old + numInt a * numInt b else ((accumulate false (BitVec.ofInt 32 old) a b).1.toNat : Int)
  ({ t' with
     cc := xs.zipIdx.foldl (fun m x => SMap.set 0 m x.2 (step (SMap.get 0 t.cc x.2) x.1.val sb)) t.cc,
     cr := ys.zipIdx.foldl (fun m y => SMap.set 0 m y.2 (step (SMap.get 0 t.cr y.2) sa y.1.val)) t.cr }, r.2)

/-- The tile as an MMA's first update finds it (03 R75, R81, R82). The spec gives no cycle in which an MMA sets or clears CHK_VALID, INIT
and the type; the model does it as the first update enters (DESIGN CHOICE, log 62). -/
def Tile.begin (t : Tile) (o : EngineOp) : Tile :=
  let chk := mmaChk o.ctl
  if mmaInit o.word then
    { lanes := [], isInt := accIsInt o.a.f o.a.smode o.b.f o.b.smode, chkValid := chk, chkTol := mmaTol o.ctl, cc := [], cr := [], chkBad := [] }
  else if chk then { t with chkTol := if t.chkValid then mmaTol o.ctl else t.chkTol }
  else { t with chkValid := false }

/-- Steps of k that update cycle j applies (03 R76): none in a checksum cycle. -/
def EngineOp.stepsAt (o : EngineOp) (j : Nat) : List Nat :=
  match zInv (mmaChk o.ctl) j with
  | none => []
  | some m =>
    let kk := mmaK o.ctl
    if m ≥ mmaU0 (pairRate o.a o.b) kk then [] else
    match pairRate o.a o.b with
    | .four => [2 * m, 2 * m + 1].filter (fun k => decide (k < kk))
    | .eight => [m]
    | .bf16 => if m % 4 = 3 then [m / 4] else []

/-- One step of k of an update in core n (03 R75, 17 R523). -/
def State.opeStep (s : State) (n : Nat) (o : EngineOp) (k : Nat) : State :=
  let xs := s.opeElems n o 0 k
  let ys := s.opeElems n o 1 k
  let c := s.core n
  let i := mmaTile o.word
  let r := (SMap.get Tile.reset c.eng.tiles i).step (mmaChk o.ctl) xs ys
  let fl := (xs ++ ys).foldl (fun a e => a ||| e.flags) r.2
  let s := s.setCore n { c with eng := { c.eng with tiles := SMap.put c.eng.tiles i r.1 } }
  (s.arith n fl).consumeIf n ((xs ++ ys).any (·.poison))

/-- An MMA's next update cycle has come. -/
def Core.updateDue (c : Core) (o : EngineOp) : Bool := decide (o.k < o.mmaU) && decide (o.updWin.1 + o.k ≤ c.seq.now)

/-- The router of core n has performed cycle t, or has no program under way. -/
def State.routerPast (s : State) (n t : Nat) : Bool := !(s.router n).running || decide (t < (s.router n).now)

/-- The router of core n has performed the core's present cycle, or has no program under way. -/
def State.routerDone (s : State) (n : Nat) : Bool := s.routerPast n (s.core n).seq.now

/-- OPE_UPDATE (03 R77): the earliest MMA of core n whose next update cycle has come takes it; a flit that the router delivers in that
same cycle still feeds it (03 R92). A pause or a freeze holds it (03 R95, R96). -/
def execOpeUpdate (n : CoreId) (s : State) : Host.Outcome State Fault Refusal :=
  if ¬ s.coreFree n ∨ ¬ s.routerDone n then .next s else
  let s := match (s.core n).eng.mmas.find? (s.core n).updateDue with
    | some o => s.noFlits n (o.updWin.1 + o.k + 1)
    | none => s
  let c := s.core n
  match c.eng.mmas.zipIdx.find? (fun x => c.updateDue x.1) with
  | none => .next s
  | some (o, i) =>
    let ti := mmaTile o.word
    let s :=
      if o.k = 0 then
        s.setCore n { c with eng := { c.eng with
          tiles := SMap.put c.eng.tiles ti ((SMap.get Tile.reset c.eng.tiles ti).begin o) } }
      else s
    let f := (o.stepsAt o.k).foldl (fun (a : State × SMap (Bytes × Nat)) k =>
      a.1.fillBook n o.b o.gB 16 (k / 8) (a.1.rowNow n a.2) a.2) (s, o.rowsB)
    let o := { o with rowsB := f.2 }
    let s := (o.stepsAt o.k).foldl (fun s k => s.opeStep n o k) f.1
    let c := s.core n
    .next (s.setCore n { c with eng := { c.eng with
      mmas := c.eng.mmas.zipIdx.map (fun y => if y.2 = i then { o with k := o.k + 1 } else y.1) } })

/-- NO_FLIT (03 R92): received flits absent at the end of their windows. A pause or a freeze holds the receive buffers (03 R95, R96). -/
def execNoFlit (n : CoreId) (s : State) : Host.Outcome State Fault Refusal :=
  .next (if s.coreFree n then s.noFlits n (s.core n).seq.now else s)

/-- Delivers a flit to operand a (LOUT = 1) or b (LOUT = 2) of the MMA that takes it from the mesh (03 R91, R92), in cycle d;
an early flit, or one that nothing takes, is dropped and RECV_OVERRUN is set. An MMA that issues in cycle d itself has not issued yet for a
flit delivered in it (DESIGN CHOICE, log 80). -/
def State.deliverOperand (s : State) (n lout d : Nat) (f : Flit) : State :=
  if f.valid = 0 then s else
  let s := s.noFlits n d
  let c := s.core n
  let drop : State := s.orReg (Reg.engineStatus n) 16
  let desc (o : EngineOp) : Desc := if lout = 1 then o.a else o.b
  let rows (o : EngineOp) : SMap (Bytes × Nat) := if lout = 1 then o.rowsA else o.rowsB
  match c.eng.mmas.zipIdx.find? (fun x =>
      (desc x.1).src = 2 && decide (d ≤ x.1.updWin.2) && decide (flitsSeen (rows x.1) < flitCount (desc x.1) (mmaK x.1.ctl))) with
  | none => drop
  | some (o, i) =>
    let m := flitsSeen (rows o)
    if d < o.flitStart (desc o) m then drop else
    let v : Bytes × Nat := (leBytes 64 f.pay.toNat, if f.poison then 255 else 0)
    let o' := if lout = 1 then { o with rowsA := SMap.put o.rowsA (flitKey m) v } else { o with rowsB := SMap.put o.rowsB (flitKey m) v }
    s.setCore n { c with eng := { c.eng with mmas := c.eng.mmas.zipIdx.map (fun y => if y.2 = i then o' else y.1) } }

end Sys2Proof.Machine
end

