-- ==== Sys2Proof/Machine/Mvp.lean ====
section
/-! DEFINITION. The matrix-vector path (03 R84–R90, R96). -/

namespace Sys2Proof.Machine

def mvpLegal (w : Word) : Bool :=
  match swOp w with
  | 0x01 => true
  | 0x02 => bits w 0 20 == 0
  | _ => false

/-- The run that a slot word would start. -/
def State.runOf (s : State) (n : Nat) (w : Word) : EngineOp × Bool × State :=
  let c := s.core n
  let ra := s.readDesc n (bits w 17 6)
  let rb := ra.2.2.readDesc n (bits w 11 6)
  let ap := bits w 8 3
  ({ word := w, ctl := c.s (bits w 0 5), gA := (c.a (2 * ap)).toNat, gB := (c.a (2 * ap + 1)).toNat, descA := ra.1,
     descB := rb.1, start := c.seq.now, k := 0, bundle := c.seq.next, rowsA := [], rowsB := [], beats := 0 },
   ra.2.1 || rb.2.1, rb.2.2)

/-- The value checks of a run (03 R66, R68, R84, 05 R159). -/
def EngineOp.runValues (o : EngineOp) : Bool :=
  let k := mvpK o.ctl
  let whole (d : Desc) : Bool := k % d.g == 0
  bits o.ctl 21 11 == 0 && decide (1 ≤ k) && o.a.legalFor .weights && o.b.legalFor .acts && o.a.placed o.gA 64 k &&
  o.b.placed o.gB (mvpV o.word) k && whole o.a && whole o.b

/-- L and N of a run (03 R86, R87). -/
def EngineOp.runL (o : EngineOp) : Nat := mvpLead o.a
def EngineOp.runN (o : EngineOp) (fast : Bool) : Nat := mvpN fast o.a (mvpK o.ctl)
def EngineOp.runWin (o : EngineOp) (fast : Bool) : Nat × Nat := (o.start + o.runL, o.start + o.runL + o.runN fast - 1)
def EngineOp.runInt (o : EngineOp) : Bool := accIsInt o.a.f o.a.smode o.b.f o.b.smode

def State.mvpFaults (s : State) (n : Nat) (w : Word) : List Nat :=
  let c := s.core n
  let t := c.seq.now
  let fast := s.fastClock n
  match swOp w with
  | 0x01 =>
    let r := s.runOf n w
    let o := r.1
    let ap := bits w 8 3
    -- an unreadable descriptor gives no windows and no types; an illegal one has those of its fields (03 R96)
    let known := !r.2.1
    let inFlight := c.eng.mvps.filter (fun x => decide (t ≤ (x.runWin fast).2))
    let nb := portCycles fast (o.a.beats (mvpK o.ctl))
    (if known && mvpAcc o.ctl && (List.range (mvpV w)).any (fun v => SMap.get false c.eng.mInt v != o.runInt)
      then [Sf.typeMismatch] else []) ++
    (if known && (decide (2 ≤ inFlight.length) || inFlight.any (fun x => meet (o.runWin fast) (x.runWin fast)))
      then [Sf.mvpOverlap] else []) ++
    (if known && o.a.src = 1 && decide (1 ≤ nb) && s.portConflict n (t + 1) (t + nb) then [Sf.portConflict] else []) ++
    (if known && !o.runValues then [Sf.illegal] else []) ++
    regFault (sBad c [bits w 0 5] || aBad c [2 * ap, 2 * ap + 1]) ++
    (if r.2.1 then [Sf.fetchUncorrectable] else [])
  | 0x02 =>
    let v := bits w 20 3 + 1
    let win := (t, t + 2 * v - 1)
    (if c.eng.drains.any (fun o => meet o.drainWin win) then [Sf.drainOverlap] else []) ++
    (if c.eng.mvps.any (fun o => decide (o.start + o.runL + 3 ≤ t) && decide (t ≤ o.start + o.runL + o.runN fast + 1))
      then [Sf.resultConflict] else [])
  | _ => []

/-- Runs whose conflict windows have passed leave the list. -/
def EngState.pruneRuns (e : EngState) (fast : Bool) (t : Nat) : EngState :=
  { e with mvps := e.mvps.filter (fun o => decide (o.k < mvpK o.ctl) || decide (t ≤ o.start + o.runL + o.runN fast + 1)) }

/-- An MVP word acts. The spec gives no cycle in which the vectors of a run with ACC = 0 take their type; the model sets it at issue
(DESIGN CHOICE, log 62). -/
def State.mvpPerform (s : State) (n : Nat) (w : Word) : State :=
  let c := s.core n
  let t := c.seq.now
  let fast := s.fastClock n
  match swOp w with
  | 0x01 =>
    let r := s.runOf n w
    let o := r.1
    let s := r.2.2
    let c := s.core n
    let e := c.eng.pruneRuns fast t
    let mi := if mvpAcc o.ctl then e.mInt
      else (List.range (mvpV w)).foldl (fun m v => SMap.set false m v o.runInt) e.mInt
    let s := s.setCore n { c with eng := { e with mvps := e.mvps ++ [o], mInt := mi } }
    if o.a.src = 1 then s.openPort n (t + 1) (t + portCycles fast (o.a.beats (mvpK o.ctl))) else s
  | 0x02 =>
    let v := bits w 20 3 + 1
    let o : EngineOp :=
      { word := w, ctl := 0, gA := 0, gB := 0, descA := 0, descB := 0, start := t, k := 0, bundle := c.seq.next,
        rowsA := [], rowsB := [], beats := 0 }
    let e := c.eng.prune t
    let buf := (List.range (64 * v)).foldl (fun m i => SMap.set Lane.zero m i (SMap.get Lane.zero e.m i)) e.drainBuf
    let s := s.setCore n { c with eng := { e with drains := e.drains ++ [o], drainBuf := buf } }
    (List.range (2 * v)).foldl (fun s b =>
      s.slotLater n 4 b (.xreg b (laneIdx.map (fun i => SMap.get Lane.zero buf (32 * b + i))))) s
  | _ => s

/-- Whether the slice beats that step k needs have arrived (03 R87): its unit's scales, and its elements or its octet's indices. -/
def EngineOp.beatsHere (o : EngineOp) (k : Nat) : Bool :=
  let d := o.a
  let steps := if d.f.isVq then (k % d.g / 8 + 1) * 8 else k % d.g + 1
  d.src != 1 || decide (k / d.g * d.unitBeats + d.unitScaleBeats + (steps * d.q + 31) / 32 ≤ o.beats)

/-- The source of a panel's rows: read rows, or core SRAM, or the slice's beats. -/
def State.panelRow (s : State) (n : Nat) (o : EngineOp) (r : Nat) : Bytes × Nat :=
  match SMap.find o.rowsA r with
  | some x => x
  | none => if o.a.src = 1 then
      let b := s.decodeBeat n (32 * r)
      (b.data, if b.res = .uncorrectable ∨ b.res = .signature then 15 else 0)
    else s.rowNow n [] r

/-- The rows that step k of a run takes through the activation port and no earlier step took (03 R69, 07 R207). -/
def EngineOp.actRows (o : EngineOp) (k : Nat) : List Nat :=
  let x := o.b
  let rowsAt (k : Nat) : List Nat := ((List.range (mvpV o.word)).flatMap (fun v =>
    let b := x.eaddr o.gB * 8 + (if x.orient = 1 then v * x.pitch * 8 + k * x.f.bits else (k * 16 + v) * x.f.bits)
    [b / 256, (b + x.f.bits - 1) / 256])).eraseDups
  if k = 0 then rowsAt 0 else (rowsAt k).filter (fun r => !(rowsAt (k - 1)).contains r)

/-- The rows of the activation scales of the group that step k begins. -/
def EngineOp.actScaleRows (o : EngineOp) (k : Nat) : List Nat :=
  if o.b.scaled ∧ k % o.b.g = 0 then rowsOf (o.b.saddr o.gB + 16 * (k / o.b.g)) (mvpV o.word) else []

/-- Step k of a run enters (03 R84, R56): each weight meets every vector, and the products reach the result vectors at the end of the
second cycle after (03 R87). The activation port reads its rows in the cycle of entry (07 R207; DESIGN CHOICE, log 62); their checks are
counted as they are read (07 R209). -/
def State.runStep (s : State) (n : Nat) (o : EngineOp) (k : Nat) : State :=
  let d := o.a
  let x := o.b
  let row := s.panelRow n o
  let ws := (List.range 64).map (fun r =>
    let a0 := d.saddr o.gA + 64 * (k / d.g)
    let sc := if !d.scaled then (0, false) else
      gather (fun y => match SMap.find o.rowsA (scaleKey (k / d.g) (y - a0 / 32)) with
        | some v => v
        | none => row y) (8 * (a0 + r)) 8
    d.memElem o.rowsA row (d.eaddr o.gA) 64 r k sc)
  let vs := (List.range (mvpV o.word)).map (fun v =>
    x.memElem [] (s.rowNow n []) (x.eaddr o.gB) 16 v k (s.scaleOf n x [] o.gB 16 (k / x.g) v))
  let e : Effect := .product ws vs o.runInt (k == 0 && !mvpAcc o.ctl)
  let c := s.core n
  let s := s.setCore n { c with seq := { c.seq with pend := c.seq.pend ++ [⟨c.seq.now + 2, o.start, 4, o.bundle, none, e⟩] } }
  -- the rows that this step is the first to need (07 R207, 20 R603)
  let s := s.tallyCore n 0 (32 * (o.actRows k).length)
  let s := (o.actRows k ++ o.actScaleRows k).foldl (fun s r => (s.readSram n (32 * r) 4).2.2) s
  let fl := (ws ++ vs).foldl (fun a e => a ||| e.flags) 0
  (s.arith n fl).consumeIf n ((ws ++ vs).any (·.poison))

/-- The cycle of its product window in which step k of a run enters (03 R85, R87): at R85's rate when the window is as long as
the rate makes it; of a run that the slice port bounds only the last step's cycle is stated, and the others enter once their
beats are there. -/
def EngineOp.stepCycle (o : EngineOp) (fast : Bool) (k : Nat) : Nat :=
  if o.runN fast = mvpNw o.a (mvpK o.ctl) then o.a.rateCycle k
  else if k + 1 = mvpK o.ctl then o.runN fast - 1 else 0

/-- The next step of a run enters: its cycle has come and its data are there. -/
def State.productDue (s : State) (n : Nat) (o : EngineOp) : Bool :=
  decide (o.k < mvpK o.ctl) && decide (o.start + o.runL + o.stepCycle (s.fastClock n) o.k ≤ (s.core n).seq.now) && o.beatsHere o.k

/-- MVP_PRODUCT (03 R87): the next step of the earliest run of core n whose cycle has come and whose data are there enters. A pause or
a freeze holds it (03 R95, R96). -/
def execMvpProduct (n : CoreId) (s : State) : Host.Outcome State Fault Refusal :=
  if ¬ s.coreFree n then .next s else
  match (s.core n).eng.mvps.zipIdx.find? (fun x => s.productDue n x.1) with
  | none => .next s
  | some (o, i) =>
    let r := s.fillBook n o.a o.gA 64 (o.k / 8) (s.panelRow n o) o.rowsA
    let o := { o with rowsA := r.2 }
    let s := r.1.runStep n o o.k
    let c := s.core n
    .next (s.setCore n { c with eng := { c.eng with mvps := replaceAt i { o with k := o.k + 1 } c.eng.mvps } })

/-- Core n's next cycle may happen: nothing holds it, its router has performed the cycle, and what its engines and its port do in the
cycle and the waits that end in it have been done (03 R73, R77, R87, 05 R147, 07 R214). A pacing core waits too for the request that its cycle makes (07 R222). -/
def State.coreMay (s : State) (n : Nat) : Bool :=
  let e := (s.core n).eng
  s.coreFree n && (readyWait (s.core n) (s.realNow n) (s.core n).seq.waits []).isNone && s.routerDone n &&
  !e.mmas.any (s.core n).updateDue && !e.mvps.any (s.productDue n) && !s.beatDue n &&
  (match s.partOfCore n with
   | some p => s.pacing p != n || !s.windowDue p
   | none => true)

end Sys2Proof.Machine
end

