-- ==== Sys2Proof/Machine/Net.lean ====
section
/-! DEFINITION. The NET slot (05 R162, R163). -/

namespace Sys2Proof.Machine

def netLegal (w : Word) : Bool :=
  match swOp w with
  | 0x01 | 0x03 => argsOnly w 0x3E000
  | 0x02 | 0x04 => argsOnly w 0x7C0001
  | _ => false

/-- The value checks of a NET word (05 R165). R162 places the 64 bytes of SEND and RECV and names no fault for an address that is not
such a place: the model raises ILLEGAL_ENCODING, as R165 does for the other slots' addresses (DEDUCED, log 67). -/
def netFaults (c : Core) (w : Word) : List Nat :=
  match swOp w with
  | 0x01 | 0x03 =>
    let a := (c.a (bits w 14 4)).toNat
    (if a % 64 = 0 ∧ a + 64 ≤ sramBytes then [] else [Sf.illegal]) ++ regFault (aBad c [bits w 14 4])
  | _ => []

/-- The head flit of the receive queue, which may be taken from the cycle after its delivery (06 R180); an empty queue gives poisoned data, whose bits are free, and sets NET_EMPTY
(05 R163). -/
def State.takeFlit (s : State) (n : Nat) : BitVec 512 × Bool × State :=
  let c := s.core n
  match c.recvq.find? (fun f => decide (f.1 ≤ c.seq.now)) with
  | some f => (f.2.pay, f.2.poison, s.setCore n { c with recvq := c.recvq.erase f })
  | none =>
    let r := s.free 512
    (r.1, true, r.2.orReg (Reg.seqStatus n) 0x00080000)

/-- What a NET word does. -/
def netPerform (s : State) (n : Nat) (w : Word) : State :=
  let c := s.core n
  let a := c.a (bits w 14 4)
  let post (s : State) : State :=
    if bits w 13 1 = 1 then s.slotLater n 6 0 (.areg (bits w 14 4) (a + 64)) else s
  let h := bits w 0 1
  let v := bits w 18 5
  match swOp w with
  | 0x01 => post (s.slotLater n 6 1 (.rdSend1 a.toNat))
  | 0x02 =>
    let xs := (List.range 16).map (fun i => c.v v (16 * h + i))
    s.slotLater n 6 1 (.sendq ⟨BitVec.ofNat 512 (leVal (lanesBytes xs)), 3, xs.any (·.poison), 0⟩)
  | 0x03 =>
    let r := s.takeFlit n
    let bs := leBytes 64 r.1.toNat
    let poi := if r.2.1 then 15 else 0
    let s := r.2.2.slotLater n 6 1 (.sram a.toNat (bs.take 32) poi)
    post (s.slotLater n 6 2 (.sram (a.toNat + 32) (bs.drop 32) poi))
  | 0x04 =>
    let r := s.takeFlit n
    let xs := bytesLanes (leBytes 64 r.1.toNat) (fun _ => r.2.1) 0
    r.2.2.slotLater n 6 0 (.vreg v (laneRange (16 * h) 16) (placeLanes (16 * h) xs))
  | _ => s

end Sys2Proof.Machine
end

