-- ==== Sys2Proof/Machine/Srm.lean ====
section
/-! DEFINITION. The SRM slot (05 R154–R156). -/

namespace Sys2Proof.Machine

/-- Bits of an SRM word (05 R154, R165). -/
def srmLegal (w : Word) : Bool :=
  match swOp w with
  | 0x01 | 0x02 | 0x03 | 0x04 => true
  | 0x05 => argsOnly w 0x7FFF00 && (bits w 13 1 == 1 || bits w 18 5 % 2 == 0)
  | 0x06 | 0x07 => argsOnly w 0x7BE000
  | _ => false

/-- The unit of an SRM address and the immediate's width (05 R154). -/
def srmUnit (op : Nat) : Nat := if op ≤ 2 then 4 else 32
def srmImm (w : Word) : Int := if swOp w ≤ 2 then sext 13 w.toNat else if swOp w ≤ 4 then sext 11 w.toNat else 1

/-- The address an SRM operation uses, and A[Aa] after POST (05 R154). -/
def srmAddr (c : Core) (w : Word) : Nat × Option Word :=
  let a := c.a (bits w 14 4)
  let x := a + BitVec.ofInt 32 (srmImm w * srmUnit (swOp w))
  if swOp w = 5 then (a.toNat, none)
  else if bits w 13 1 = 1 then (a.toNat, some x)
  else if swOp w ≥ 6 then (a.toNat, none) else (x.toNat, none)

/-- Faults of an SRM word that acts (05 R142, R154, R156, R165). TRD's rows lie at A[Aa] + r × S[Sp] with S[Sp] unsigned and without wrapping
(DESIGN CHOICE, log 87). -/
def srmFaults (c : Core) (w : Word) : List Nat :=
  let op := swOp w
  let a := (srmAddr c w).1
  let bad := aBad c [bits w 14 4] || (op = 2 && sBad c [bits w 18 5]) || (op = 5 && sBad c [bits w 8 5]) ||
    (6 ≤ op && aBad c [bits w 19 4])
  let pitch := (c.s (bits w 8 5)).toNat
  let placed :=
    if op = 5 then a % 32 = 0 && pitch % 32 = 0 && decide (a + 15 * pitch + 16 ≤ sramBytes)
    else a % srmUnit op = 0 && decide (a + srmUnit op ≤ sramBytes)
  let ab := (c.a (bits w 19 4)).toNat
  let lst := op != 7 || (ab % 4 = 0 && decide (ab ≤ 508))
  (if placed && lst then [] else [Sf.illegal]) ++ regFault bad

/-- What an SRM word does (05 R154–R156). With Aa = Ab and POST = 1, BST and LST write one register twice in one cycle, and the increment of
Ab stands (DESIGN CHOICE, log 66). -/
def srmPerform (s : State) (n : Nat) (w : Word) : State :=
  let c := s.core n
  let r := srmAddr c w
  let d := bits w 18 5
  let p := bits w 11 2
  let s := match r.2 with
    | some x => s.slotLater n 2 0 (.areg (bits w 14 4) x)
    | none => s
  let ab := (c.a (bits w 19 4)).toNat
  let postAb (k : Nat) (s : State) : State :=
    if bits w 13 1 = 1 then s.slotLater n 2 0 (.areg (bits w 19 4) (c.a (bits w 19 4) + BitVec.ofNat 32 k)) else s
  match swOp w with
  | 0x01 => s.slotLater n 2 1 (.rdSld r.1 d)
  | 0x02 => s.slotLater n 2 1 (.rdSst r.1 (c.s d))
  | 0x03 => s.slotLater n 2 1 (.rdVld r.1 d p)
  | 0x04 =>
    let xs := (List.range 8).map (fun i => c.v d (8 * p + i))
    s.slotLater n 2 1 (.sram r.1 (lanesBytes xs) (wordPoi xs))
  | 0x05 => s.slotLater n 2 1 (.rdTrd r.1 (c.s (bits w 8 5)).toNat d (bits w 13 1 == 1) 0 [] [])
  | 0x06 => postAb 1 (s.slotLater n 2 1 (.rdBst r.1 (ab % 1024)))
  | 0x07 => postAb 4 (s.slotLater n 2 1 (.rdLst r.1 ab))
  | _ => s

end Sys2Proof.Machine
end

