-- ==== Sys2Proof/Machine/Part.lean ====
section
/-! DEFINITION. A partition's time: pauses, step marks, stops at them and the cut after a fault (05 R134–R136, R150,
07 R220–R222, 11 R320, R342, 14 R433–R435, 17 R525, R528, 18 R562, R573). -/

namespace Sys2Proof.Machine

/-! ## What a partition holds of the crossings and attachments (06 R184, R186, R196, 20 R604) -/

/-- The modules of a mesh row across an east–west edge (06 R186). -/
def rowMods (y : Nat) : List Nat := [2 * (y % 32 / 4), 2 * (y % 32 / 4) + 1]
/-- The edge between tile columns i − 1 and i (0 and 4 are the hubs') on the row of tiles of y. -/
def rowEdge (i y : Nat) : Nat := i + (if y ≥ 32 then 5 else 0)

/-- A hub's attachment of mesh row y; a channel's attachment has the channel's number (06 R184). -/
def hubAtt (h y : Nat) : Nat := 512 + 64 * h + y
def xingId (e m : Nat) : Nat := 16 * e + m

/-- The partition whose VALID record of the device facet holds core n's block; fences follow from the records alone (06 R196, 12 R368). -/
def State.holder (s : State) (n : Nat) : Option Nat :=
  (List.range 64).find? (fun p => (s.rec_ p).valid && bitOf (s.rec_ p).blocks (blockOf n))

/-- The partition that holds a crossing module: the one on both its sides; none for a fenced module (20 R604). -/
def State.xingPart (s : State) (e m : Nat) : Option Nat :=
  let a := s.holder (if e ≥ 10 then coreAt (64 * (e - 10) + 8 * m) 31
    else coreAt (64 * (e % 5) - 1) ((if e ≥ 5 then 32 else 0) + 4 * (m / 2)))
  let b := s.holder (if e ≥ 10 then coreAt (64 * (e - 10) + 8 * m) 32
    else coreAt (64 * (e % 5)) ((if e ≥ 5 then 32 else 0) + 4 * (m / 2)))
  if e < 10 ∧ e % 5 = 0 then b else if e < 10 ∧ e % 5 = 4 then a else if a = b then a else none

/-- The rows of each hub crossing that a partition owns. -/
def State.hubRowsOf (s : State) (p : Nat) : List (Nat × Nat) :=
  (List.range 128).filterMap (fun i =>
    let h := i / 64
    let y := i % 64
    let e := if h = 0 then rowEdge 0 y else rowEdge 4 y
    if (rowMods y).any (fun m => s.xingPart e m == some p) then some (h, y) else none)

/-- The channel whose controller attaches at column x of the north (y = 0) or south (y = 63) edge (01 R21). -/
def attachChan (x y : Nat) : Nat :=
  let t := x / 64 + (if y = 63 then 4 else 0)
  32 * (2 * t + x % 64 / 32) + x % 32

/-- The router and port a channel controller attaches to. -/
def chanRouter (c : Nat) : Nat × Nat :=
  let st := c / 32
  let t := st / 2
  let x := 64 * (t % 4) + 32 * (st % 2) + c % 32
  if t ≤ 3 then (coreAt x 0, 0) else (coreAt x 63, 2)

/-- A partition's attachments: those of the channel controllers at its routers, and those of its hub rows (06 R184). -/
def State.attsOf (s : State) (p : Nat) : List Nat :=
  (List.range 512).filter (fun c => bitOf (s.rec_ p).blocks (blockOf (chanRouter c).1)) ++ (s.hubRowsOf p).map (fun r => hubAtt r.1 r.2)

def State.xingsOf (s : State) (p : Nat) : List (Nat × Nat) :=
  (List.range 14).flatMap (fun e => ((List.range (if e < 10 then 16 else 8)).filter (fun m => s.xingPart e m == some p)).map (fun m => (e, m)))

/-! ## Pauses -/

/-- The pause cycles counted when the partition reached its present u. -/
def State.pauseStart (s : State) (p : Nat) : Nat :=
  let x := s.part p
  if x.pauseBase.1 = s.uOf p ∧ x.pauseBase ≠ (0, 0) then x.pauseBase.2 else x.pauseTotal

/-- `len` pause cycles of a cause pass (11 R320). -/
def State.countPause (s : State) (p cause len : Nat) : State :=
  let x := s.part p
  let s := s.setPart p { x with
    pauseBase := (s.uOf p, s.pauseStart p), paused := SMap.set 0 x.paused cause (SMap.get 0 x.paused cause + len) }
  s.tracePause p cause len

/-- A pause of `len` real cycles that began when the partition reached its present u is taken: what other pauses of the same
place have already covered is not counted again (11 R320). -/
def State.takePause (s : State) (p cause len : Nat) : State :=
  s.countPause p cause (s.pauseStart p + len - (s.part p).pauseTotal)

/-- Causes of pauses in the order of 11 R320. -/
def pcBrownout : Nat := 0
def pcThrottle : Nat := 1
def pcRefresh : Nat := 2
def pcWait : Nat := 3

/-- `cycles` of the pause that pending or satisfied waits give pass (05 R150). -/
def State.waitPause (s : State) (p : Nat) : Nat → State
  | 0 => s
  | k + 1 =>
    let u := s.uOf p
    let x := s.part p
    -- a cycle that an earlier cause covers too is counted under that cause (11 R320)
    if s.waitPauses p (u + x.pauseTotal) ∧ ¬ x.brownout ∧ ¬ s.throttleDue p u ∧ ¬ s.deferredDue p u then
      State.waitPause (s.setPart p { x with
        pauseBase := (u, s.pauseStart p), paused := SMap.set 0 x.paused pcWait (SMap.get 0 x.paused pcWait + 1) }) p k
    else s

/-- A wait of the partition ends in its present real cycle: it is satisfied before the cycle passes (05 R147). -/
def State.waitReady (s : State) (p : Nat) : Bool :=
  s.cores.any (fun c => (s.partOfCore c.1 == some p) && (readyWait c.2 (s.realNow c.1) c.2.seq.waits []).isSome)

/-- WAIT_PAUSE (05 R150). -/
def execWaitPause (p : PartId) (cycles : Nat) (s : State) : Host.Outcome State Fault Refusal :=
  if ¬ s.partIn p [.running] ∨ s.waitReady p then .next s else
  let s' := s.waitPause p cycles
  let got := (s'.part p).pauseTotal - (s.part p).pauseTotal
  if got ≠ 0 ∧ ¬ s'.waitPauses p (s'.uOf p + (s'.part p).pauseTotal) then
    .next (s'.tracePause p pcWait ((s'.part p).pauseTotal - (s'.part p).pauseBase.2))
  else .next s'

/-- The core of partition p whose oldest wait is pending for longest. -/
def State.waitingCore (s : State) (p : Nat) : Option (Nat × Wait) :=
  (s.coresOf p).findSome? (fun n => match (s.core n).seq.waits with
    | w :: _ => some (n, w)
    | [] => none)

/-- The wait limit of core n's partition in ns: 1 s when the facet gives none (05 R150). -/
def State.waitLimit (s : State) (n : Nat) : Nat :=
  match s.partOfCore n with
  | some p => if (s.part p).facet.glob.waitLimit = 0 then 1000000000 else 1000 * (s.part p).facet.glob.waitLimit
  | none => 1000000000

/-- WAIT_TIMEOUT (05 R150): a wait has been pending for longer than the facet's limit; its core raises WAIT_TIMEOUT. -/
def execWaitTimeout (n : CoreId) (s : State) : Host.Outcome State Fault Refusal :=
  match (s.core n).seq.waits.find? (fun w => decide (w.since + s.waitLimit n < s.timebase)) with
  | some w =>
    let s := s.traceCore n 0x03 w.bundle w.tok (s.realNow n - w.at_) w.by_.toNat ((s.core n).k w.tok)
    .next (s.coreFault n Sf.waitTimeout ⟨0, none, w.bundle⟩)
  | none => .next s

/-- DEFERRED_PAUSE (05 R135). -/
def execDeferredPause (p : PartId) (s : State) : Host.Outcome State Fault Refusal :=
  if s.partIn p [.running] ∧ s.deferredDue p (s.uOf p) ∧ ¬ (s.part p).brownout ∧ ¬ s.throttleDue p (s.uOf p) then
    match (s.part p).deferred with
    | some (_, len, _) =>
      let s := s.takePause p pcRefresh len
      .next (s.setPart p { s.part p with deferred := none })
    | none => .next s
  else .next s

/-- REFRESH_STARVED (05 R135): the pacing core raises the fault in the cycle of the bundle it would issue, which is not
performed; the running blend's word of that cycle is (03 R96). -/
def execRefreshStarved (p : PartId) (s : State) : Host.Outcome State Fault Refusal :=
  let n := s.pacing p
  if s.partIn p [.running] ∧ s.starved p (s.uOf p) ∧ s.coreMay n then
    .next (((s.coreFault n Sf.refreshStarved ⟨7, none, (s.core n).seq.next⟩).blendStep n).endCycle n)
  else .next s

/-- THROTTLE_PAUSE (18 R573): at a non-zero multiple of 4,096 the partition takes 512 × k cycles. -/
def execThrottlePause (p : PartId) (s : State) : Host.Outcome State Fault Refusal :=
  let u := s.uOf p
  if s.partIn p [.running] ∧ s.throttleDue p u ∧ ¬ (s.part p).brownout then
    let s := s.takePause p pcThrottle (512 * s.throttleLevel p)
    .next (s.setPart p { s.part p with throttleAt := u })
  else .next s

/-- BASE_REFRESH_WINDOW (07 R220, R222): in the first cycle of a base window the band in force requests a deferred pause,
added to one that has not yet begun. -/
def execBaseRefreshWindow (p : PartId) (s : State) : Host.Outcome State Fault Refusal :=
  let x := s.part p
  let u := s.uOf p
  if s.windowDue p then
    let len := bandPause x.band
    .next (s.setPart p { x with windowAt := u + 1, deferred := match x.deferred with
      | some (r, l, v) => some (r, l + len, v)
      | none => some (u, len, none) })
  else .next s

/-- POISON_FAULT_DEADLINE (17 R525): the next step mark of the pacing core at or after the consumption, or the 2,097,152nd
unpaused cycle after it. -/
def execPoisonFaultDeadline (p : PartId) (s : State) : Host.Outcome State Fault Refusal :=
  let x := s.part p
  match x.consumed, x.poisonCut with
  | some (_, n), some cut => if cut ≤ s.farthest p then .next (s.enterFaulted p 0x40 (some n) cut) else .next s
  | _, _ => .next s

/-! ## Step marks -/

/-- Whether a core has nothing in flight (17 R542), queues and waits apart. -/
def State.coreIdle (s : State) (n : Nat) : Bool :=
  let c := s.core n
  let t := c.seq.now
  let e := (c.eng.prune t).pruneRuns (s.fastClock n) t
  e.mmas.isEmpty && e.mvps.isEmpty && e.drains.isEmpty && e.loads.isEmpty && e.ports.isEmpty &&
  c.vec.blend.isNone && c.seq.pend.all (fun p => p.slot == 8) && c.portBusy.all (fun w => decide (w.2 < t))

/-- Whether none of a core's engine operations, drains and port windows, and no blend, is in progress (11 R342): results of a blend's words
that are still in flight count as the blend's, and other operations do not (DEDUCED, log 91). -/
def State.enginesIdle (s : State) (n : Nat) : Bool :=
  let c := s.core n
  let t := c.seq.now
  let e := (c.eng.prune t).pruneRuns (s.fastClock n) t
  e.mmas.isEmpty && e.mvps.isEmpty && e.drains.isEmpty && e.loads.isEmpty && e.ports.isEmpty &&
  c.vec.blend.isNone && c.portBusy.all (fun w => decide (w.2 < t)) && c.seq.pend.all (fun p => p.blend.isNone)

/-- Whether a partition is quiescent (11 R342): nothing runs in its cores, and no flit is in its queues, links, crossings, and the attachments
of its routers and of its hub rows. -/
def State.quiescent (s : State) (p : Nat) : Bool :=
  (s.coresOf p).all (fun n =>
    let c := s.core n
    let r := s.router n
    s.enginesIdle n && c.seq.waits.isEmpty && c.sendq.isEmpty && c.recvq.isEmpty && r.input.isEmpty && r.arriving.isEmpty) &&
  (s.xingsOf p).all (fun x => (s.xing (xingId x.1 x.2)).frames.all (fun f => f.flit.valid == 0)) &&
  (s.attsOf p).all (fun i =>
    let a := s.att i
    a.ingress.isEmpty && a.egress.isEmpty && a.queue.isEmpty) &&
  (s.enginesOf p).all (fun d => !(s.engine d).active) && (s.ctxsOf p).all (fun x => !(s.coll x).running)

/-- The partition stops at a step mark whose cycle ends at `limit`; its run command ends OK (14 R434). -/
def State.stopAt (s : State) (p limit : Nat) : State :=
  s.setPart p { (s.part p).endRun 2 with freezeAt := limit } |>.move p .stopped

/-- The core after n among a partition's cores in ascending number, wrapping (05 R136). -/
def nextCore (cs : List Nat) (n : Nat) : Nat :=
  match (cs.filter (fun m => decide (n < m))).foldl (fun (a : Option Nat) m => some (match a with | some x => min x m | none => m)) none with
  | some m => m
  | none => cs.foldl min 16384

/-- What a step mark of the pacing core in cycle t does to its partition (05 R136, 14 R433, R435, 11 R342, R345); the step copy
has already increased. -/
def State.stepMark (s : State) (p t : Nat) : State :=
  let x := s.part p
  let x := { x with lastMark := some t, markBound := (t + 1, x.paused), testPtr := nextCore (s.coresOf p) x.testPtr,
                    testDone := false }
  let s := s.setPart p x
  if ¬ s.partIn p [.running] then s else
  let step := (s.core (s.pacing p)).seq.step
  let until_ := match x.run with | some r => r.untilStep == some step | none => false
  match x.stop with
  | some r =>
    if r.armed ∧ ¬ r.immediate ∧ r.ended.isNone then
      if ¬ r.ckpt then (s.setPart p { x with stop := some { r with ended := some St.ok } }).stopAt p (t + 1)
      else if r.late then (s.setPart p { x with stop := some { r with ended := some St.busy } }).stopAt p (t + 1)
      else if s.quiescent p then
        (s.setPart p { x with stop := some { r with ended := some St.ok, wrote := true }, ckptStep := some step.toNat }).stopAt p (t + 1)
      else if until_ then s.stopAt p (t + 1) else s
    else if until_ then s.stopAt p (t + 1) else s
  | none => if until_ then s.stopAt p (t + 1) else s

end Sys2Proof.Machine
end

