-- ==== Sys2Proof/Machine/Hbm.lean ====
section
/-! DEFINITION. HBM, scratch and the common cache: check codes, granules, partition windows, the frame of grants, and
zero-fill (08 R228–R236, R244–R246, R251–R255, 07 R212, 09 R282, R283). -/

namespace Sys2Proof.Machine

/-! ## Units under one check code -/

/-- Bytes under one check code: an HBM sector of 32 (08 R230), elsewhere a word of 8 (08 R244). -/
def unitBytes (a : Nat) : Nat := if isHbm a then 32 else 8

/-- What a read of a unit delivers: its bytes, 0 clean, 1 poisoned or 2 uncorrectable, and whether it was corrected. -/
structure URead where
  data : Bytes
  bad : Nat
  fixed : Bool
deriving DecidableEq, Repr

/-- A sector under the controller's code, two check symbols over GF(2^8) after 32 data symbols (08 R230); `flips` is its
difference from a valid codeword, byte i the error of symbol i. -/
def decodeSector (raw : Bytes) (flips : Nat) (sig : Bool) : URead :=
  let es := (List.range 34).map (flipByte flips)
  let s0 := es.foldl (· ^^^ ·) 0
  let s1 := (es.zipIdx.map (fun x => gfMul x.1 (gfPow (33 - x.2)))).foldl (· ^^^ ·) (if sig then 0xEE else 0)
  let raw := raw.zipIdx.map (fun x => x.1 ^^^ BitVec.ofNat 8 (flipByte flips x.2))
  if s0 = 0 ∧ s1 = 0 then ⟨raw, 0, false⟩
  else if s0 = 0 ∧ s1 = 0xEE then ⟨raw, 1, false⟩
  else if s0 = 0 then ⟨raw, 2, false⟩
  else match (List.range 34).find? (fun i => s1 == gfMul s0 (gfPow (33 - i))) with
    | some i => ⟨raw.zipIdx.map (fun x => if x.2 = i then x.1 ^^^ BitVec.ofNat 8 s0 else x.1), 0, true⟩
    | none => ⟨raw, 2, false⟩

/-- A 64-bit word under SECDED, as scratch and every cached line hold it (08 R244). -/
def Mem.wordUnit (m : Mem) (a : Nat) : URead :=
  let w := m.word a
  ⟨w.1, if w.2.2 = .bad then 2 else if w.2.1 then 1 else 0, w.2.2 = .corrected⟩

/-- A unit of 32 bytes, a sector of HBM, or of 8. -/
def Mem.unitAt (m : Mem) (size a : Nat) : URead :=
  if size = 32 then decodeSector (m.read a 32) (SMap.get 0 m.flips a) (SMap.get false m.poison a) else m.wordUnit a

/-- The unit at an address of the memory itself. -/
def Mem.unit (m : Mem) (a : Nat) : URead := m.unitAt (unitBytes a) a

/-- The units that n bytes from an address touch. -/
def unitsOf (a n : Nat) : List Nat :=
  let u := unitBytes a
  if n = 0 then [] else (List.range ((a % u + n + u - 1) / u)).map (fun i => a / u * u + u * i)

/-- The bytes that a read of n from an address reads, first and number: whole granules of HBM, since a granule is poisoned when either of its
sectors is (08 R230). -/
def readSpan (a n : Nat) : Nat × Nat :=
  if isHbm a ∧ n ≠ 0 then (a / 64 * 64, (a % 64 + n + 63) / 64 * 64) else (a, n)

/-- Counts in HBM_CHAN_STATUS of a unit's read (08 R231). -/
def State.countUnit (s : State) (a : Nat) (r : URead) : State :=
  if !isHbm a then s else
  let o := Reg.hbmStatus (chanOfAddr a)
  if r.bad = 2 then s.countField o 16 8 1
  else if r.bad = 1 then s.countField o 10 6 1
  else if r.fixed then s.countField o 24 8 1
  else s

/-- Bytes of granules that an access moves at a channel (20 R603). -/
def State.countHbm (s : State) (a n i : Nat) : State :=
  if isHbm a ∧ n ≠ 0 then
    let c := chanOfAddr a
    s.tally (s.partOfChan c) 3 (Cnt.hbm c i) (64 * ((a % 64 + n + 63) / 64))
  else s

/-- A read of n bytes of HBM or scratch at the memory itself: bytes, the worst of its units, the state with it counted. -/
def State.devRead (s : State) (a n : Nat) : Bytes × Nat × State :=
  let w := readSpan a n
  let us := unitsOf w.1 w.2
  let rs := us.map (fun u => (u, s.mem.unit u))
  let s := (rs.foldl (fun s r => s.countUnit r.1 r.2) s).countHbm a n 0
  let all := rs.flatMap (fun r => r.2.data)
  ((all.drop (a - w.1 / unitBytes a * unitBytes a)).take n, (rs.map (fun r => r.2.bad)).foldl max 0, s)

/-- Writes the part of some bytes that falls in a unit. A part that does not cover its unit merges with what is there, and
keeps its poison (07 R208). -/
def Mem.mergeUnit (m : Mem) (u size a : Nat) (bs : Bytes) (poi : Bool) : Mem :=
  if a ≤ u ∧ u + size ≤ a + bs.length then m.writeUnit u ((bs.drop (u - a)).take size) poi
  else
    let old := m.unitAt size u
    let new := old.data.zipIdx.map (fun x =>
      if a ≤ u + x.2 ∧ u + x.2 < a + bs.length then bs.getD (u + x.2 - a) 0 else x.1)
    m.writeUnit u new (poi || old.bad != 0)

/-- A write at the memory itself, its code apart. -/
def State.plainWrite (s : State) (a : Nat) (bs : Bytes) (poi : Bool) : State :=
  let s := s.countHbm a bs.length 1
  { s with mem := (unitsOf a bs.length).foldl (fun m u => m.mergeUnit u (unitBytes a) a bs poi) s.mem }

/-- LIC_CONFIDENTIAL is in force: HBM is encrypted (08 R232). -/
def State.encrypts (s : State) : Bool := bitOf s.loupe.features 2

/-- The granule at an address as it stands is written with the poison signature (08 R230). -/
def Mem.poisonGranule (m : Mem) (a : Nat) : Mem :=
  (unitsOf (a / 64 * 64) 64).foldl (fun m u => m.writeUnit u (m.unit u).data true) m

/-- A write at `a` has been made. Under encryption a granule that the controller's check finds encrypted wrongly is written with the
poison signature (17 R520). -/
def State.cryptCheck (s : State) (a : Nat) : State :=
  if !(isHbm a && s.encrypts) then s else
  let r := s.takeUpset (.crypt (chanOfAddr a))
  if r.1 then { r.2 with mem := r.2.mem.poisonGranule a } else s

/-- A write at the memory itself. -/
def State.devWrite (s : State) (a : Nat) (bs : Bytes) (poi : Bool) : State :=
  let s := s.plainWrite a bs poi
  if bs.isEmpty then s else s.cryptCheck a

/-- A unit that a scrub or a sparing found is written back (08 R230, 17 R538), encrypted anew. -/
def State.rewriteUnit (s : State) (a : Nat) (u : URead) : State :=
  { s with mem := s.mem.writeUnit a u.data (u.bad != 0) }.cryptCheck a

/-! ## The common cache (08 R244, R245) -/

def lineOf (a : Nat) : Nat := a / 128 * 128
/-- The home hub of an address (08 R244, R253). -/
def homeHub (a : Nat) : Nat :=
  if isScratch a then (if a - scratchBase < 0x2000000 then 0 else 1)
  else
    let st := chanOfAddr a / 32
    if st < 4 ∨ (8 ≤ st ∧ st < 12) then 0 else 1

/-- Counts bytes of a request applied at its home hub: RD 0, WR 1, ATOMIC 2 (20 R603). -/
def State.countCc (s : State) (p : Option Nat) (a i n : Nat) : State :=
  let h := homeHub a
  let s := s.tally none 4 (Cnt.ccTotal h i) n
  match p with
  | some p => s.tally (some p) 4 (Cnt.cc h p i) n
  | none => s

/-- Drops a line. -/
def State.dropLine (s : State) (l : Nat) : State :=
  { s with cache := { lines := SMap.del s.cache.lines l, mem := s.cache.mem.zero l (l + 128) } }

/-- Invalidates the lines of a range (08 R245). -/
def State.invalidate (s : State) (a n : Nat) : State :=
  let lo := lineOf a
  let hi := lineOf (a + n + 127)
  { s with cache := { lines := SMap.clear s.cache.lines lo hi, mem := s.cache.mem.zero lo hi } }

/-- The words of a cached line. -/
def lineWords (l : Nat) : List Nat := (List.range 16).map (fun i => l + 8 * i)

/-- Brings a line from HBM: a poisoned or uncorrectable granule gives poisoned words, and its kind. -/
def State.fillLine (s : State) (l : Nat) : State × List Nat :=
  let r0 := s.devRead l 64
  let r1 := r0.2.2.devRead (l + 64) 64
  let s := r1.2.2
  let put (m : Mem) (a : Nat) (r : Bytes) (bad : Nat) : Mem :=
    (List.range 8).foldl (fun m i => m.writeUnit (a + 8 * i) ((r.drop (8 * i)).take 8) (bad != 0)) m
  let m := put (put s.cache.mem l r0.1 r0.2.1) (l + 64) r1.1 r1.2.1
  ({ s with cache := { lines := SMap.put s.cache.lines l true, mem := m } }, [r0.2.1, r1.2.1])

/-- The set of its home hub that an HBM line belongs to, of the 32,768 that cache HBM (08 R244). -/
def cacheSet (l : Nat) : Nat := Config.cacheIndex l % 32768

/-- Lines a set holds. -/
def cacheWays : Nat := 16

/-- A line's set has a way for it: when all are taken, one of its lines goes (08 R244). -/
def State.makeRoom (s : State) (l : Nat) : State :=
  let here := (s.cache.lines.map (·.1)).filter (fun m => homeHub m == homeHub l && cacheSet m == cacheSet l)
  if here.length < cacheWays then s
  else ({ s with freeCtr := s.freeCtr + 1 }).dropLine (here.getD (Config.victim s.freeCtr l % here.length) l)

/-- Words corrected on a read are written back corrected (17 R534). -/
def Mem.fixWords (m : Mem) (ws : List Nat) : Mem :=
  ws.foldl (fun m w =>
    let u := m.wordUnit w
    if u.fixed then m.writeUnit w u.data (u.bad != 0) else m) m

/-- The home hub of an HBM address does not reach its channel: a hop of the service network has failed (17 R518). -/
def State.hbmLost (s : State) (a : Nat) : Bool := isHbm a && s.svcLost (8 + homeHub a) (chanOfAddr a / 64)

/-- Makes a line present, unless it is: one that the home hub cannot reach is uncorrectable. A word of it that is uncorrectable makes it
be read again (17 R534). Returns what a fill found in the two granules. -/
def State.needLine (s : State) (l : Nat) : State × List Nat :=
  let here := SMap.get false s.cache.lines l
  if !here || (lineWords l).any (fun w => (s.cache.mem.word w).2.2 == .bad) then
    if s.hbmLost l then (s, [2, 2]) else ((s.dropLine l).makeRoom l).fillLine l
  else
    ({ s with cache := { s.cache with mem := s.cache.mem.fixWords (lineWords l) } }, [0, 0])

/-- A read at the home hub of n bytes: bytes, the worst found, the state. -/
def State.ccLoad (s : State) (p : Option Nat) (a n : Nat) : Bytes × Nat × State :=
  let s := s.countCc p a 0 n
  if !isHbm a then
    let r := s.devRead a n
    (r.1, r.2.1, { r.2.2 with mem := r.2.2.mem.fixWords (unitsOf a n) })
  else
    let ls := (List.range ((a % 128 + n + 127) / 128)).map (fun i => lineOf a + 128 * i)
    ls.foldl (fun (acc : Bytes × Nat × State) l =>
      let k := acc.2.2.needLine l
      let s := k.1
      let lo := max a l
      let hi := min (a + n) (l + 128)
      let filled := [(l, k.2.getD 0 0), (l + 64, k.2.getD 1 0)].foldl (fun x g =>
        if g.1 < hi ∧ lo < g.1 + 64 then max x g.2 else x) 0
      let words := (List.range 16).map (fun i => l + 8 * i) |>.filter (fun w => decide (w < hi) && decide (lo < w + 8))
      let bad := words.foldl (fun x w => max x (s.cache.mem.wordUnit w).bad) filled
      let bytes := words.flatMap (fun w => (s.cache.mem.wordUnit w).data)
      (acc.1 ++ (bytes.drop (lo % 8)).take (hi - lo), max acc.2.1 bad, s)) ([], 0, s)

/-- A read for a hub agent over the hub's datapath (17 R517): a parity failure poisons the granule that it meets, and the read's one status is
that of its worst granule. -/
def State.ccRead (s : State) (p : Option Nat) (a n : Nat) : Bytes × Nat × State :=
  let r := s.ccLoad p a n
  let q := r.2.2.parity (homeHub a)
  (r.1, if q.1 then max r.2.1 1 else r.2.1, q.2)

/-- A write at the home hub, written through to HBM (08 R244); one that cannot reach its channel is not made. -/
def State.ccStore (s : State) (p : Option Nat) (a : Nat) (bs : Bytes) (poi : Bool) : State :=
  let s := s.countCc p a 1 bs.length
  if s.hbmLost a then s else
  let s := s.devWrite a bs poi
  if !isHbm a then s else
  let put (m : Mem) (w : Nat) : Mem :=
    if SMap.get false s.cache.lines (lineOf w) then m.mergeUnit w 8 a bs poi else m
  let ws := (List.range ((a % 8 + bs.length + 7) / 8)).map (fun i => a / 8 * 8 + 8 * i)
  { s with cache := { s.cache with mem := ws.foldl put s.cache.mem } }

/-- A write of a hub agent over the hub's datapath: a parity failure poisons the granule that it meets (17 R517). -/
def State.ccWrite (s : State) (p : Option Nat) (a : Nat) (bs : Bytes) (poi : Bool) : State :=
  let q := s.parity (homeHub a)
  if !q.1 then s.ccStore p a bs poi else
  let n := 64 - a % 64
  let s := q.2.ccStore p a (bs.take n) true
  if (bs.drop n).isEmpty then s else s.ccStore p (a + n) (bs.drop n) poi

/-! ## Partition windows (08 R254, R255) -/

/-- A window-table entry. -/
structure Window where
  dbase : Nat
  size : Nat
  pbase : Nat
  valid : Bool
  shared : Bool
  atomic : Bool
  write : Bool
  read : Bool
  typ : Nat
deriving DecidableEq, Repr

def Window.of (x : Nat) : Window :=
  { dbase := x / 2 ^ 96 % 2 ^ 32, size := x / 2 ^ 64 % 2 ^ 32, pbase := x / 2 ^ 32 % 2 ^ 32, valid := bitOf x 7,
    shared := bitOf x 5, atomic := bitOf x 4, write := bitOf x 3, read := bitOf x 2, typ := x % 4 }

inductive Acc where
  | read | write | atomic
deriving DecidableEq, Repr

def Window.permits (w : Window) : Acc → Bool
  | .read => w.read
  | .write => w.write
  | .atomic => w.atomic

/-- The window of partition p that an address matches. -/
def State.windowOf (s : State) (p pa : Nat) : Option Window :=
  ((s.part p).facet.memmap.map Window.of).find? (fun w =>
    w.valid && decide (w.pbase ≤ pa / 0x10000) && decide (pa / 0x10000 < w.pbase + w.size))

/-- The device address of a partition-relative one, and its window, when the access is permitted (08 R255). -/
def State.translate (s : State) (p pa : Nat) (acc : Acc) : Option (Nat × Window) :=
  match s.windowOf p pa with
  | some w => if w.permits acc then some (w.dbase * 0x10000 + (pa - w.pbase * 0x10000), w) else none
  | none => none

/-- A range of n bytes that translates whole, unit by unit of 64 KiB, to one run of device addresses. -/
def State.translateRange (s : State) (p pa n : Nat) (acc : Acc) : Option (Nat × Window) :=
  match s.translate p pa acc with
  | none => none
  | some (d, w) =>
    if (List.range ((pa % 0x10000 + n + 0xFFFF) / 0x10000)).all (fun i =>
        let a := if i = 0 then pa else pa / 0x10000 * 0x10000 + 0x10000 * i
        match s.translate p a acc with
        | some (d', _) => d' == d + (a - pa)
        | none => false)
    then some (d, w) else none

/-! ## Refresh mode and Clove throttle (08 R236, 09 R282, R283) -/

def State.actHigh (s : State) (c : Nat) : Bool := bits (s.reg (Reg.hbmStatus c)) 7 1 = 1
/-- LEVEL of a stack's sensors (18 R572). -/
def State.hbmLevel (s : State) (st : Nat) : Nat := bits (s.reg (Reg.thermHbm st)) 29 2
/-- THROTTLE of a channel's Clove core. -/
def State.cloveThrottle (s : State) (c : Nat) : Nat :=
  if s.hbmLevel (c / 32) ≥ 2 then 2 else if s.actHigh c ∨ s.hbmLevel (c / 32) = 1 then 1 else 0
def State.refreshMode (s : State) (c : Nat) : Nat :=
  let m := SMap.get 0 s.thermal.hbmMode (c / 32)
  if s.hbmLevel (c / 32) ≥ 2 then 2 else if s.actHigh c then min (m + 1) 2 else m
/-- The two fields that report them. -/
def State.showRefresh (s : State) (c : Nat) : State :=
  (s.setField (Reg.hbmStatus c) 8 2 (s.refreshMode c)).setField (Reg.cloveStatus c) 27 2 (s.cloveThrottle c)

/-- ACT_WINDOW_END (09 R282): a 32 µs window of channel c ends in which the most active bank had `peak` row activations. -/
def execActWindowEnd (c : ChanId) (peak : Nat) (s : State) : Host.Outcome State Fault Refusal :=
  let x := s.chan c
  let s :=
    if peak > 384 then (s.setChan c { x with calm := 0 }).setField (Reg.hbmStatus c) 7 1 1
    else if peak ≤ 288 then
      if x.calm + 1 ≥ 4 then (s.setChan c { x with calm := 4 }).setField (Reg.hbmStatus c) 7 1 0
      else s.setChan c { x with calm := x.calm + 1 }
    else s.setChan c { x with calm := 0 }
  .next (s.showRefresh c)

/-! ## Grants (08 R234, 11 R338) -/

/-- The owner of a grant position; none for an open grant. -/
def grantOwner (g : Nat) : Option Nat :=
  ([some 0, some 1, some 0, some 1, some 2, some 0, some 1, none, some 0, some 1, some 0, some 1, some 3, some 0, some 1, none,
    some 0, some 2, some 0, none] : List (Option Nat)).getD g none

/-- The class that a grant goes to. -/
def grantClass (g : Nat) (asks : Nat → Bool) : Option Nat :=
  let order := match grantOwner g with
    | some k => [k, (k + 1) % 4, (k + 2) % 4, (k + 3) % 4]
    | none => [0, 1, 2, 3]
  -- after the owner the grant flows up to class 3, then from class 0
  order.find? asks

/-- The 64 KiB chunks of a replica group's HBM regions that lie in channel c: region, chunk, device address (11 R337). -/
def State.passChunks (s : State) (p c : Nat) : List (Nat × Nat × Nat) :=
  match (s.part p).facet.replica with
  | none => []
  | some g => g.regions.zipIdx.flatMap (fun r =>
      if r.1.kind ≠ 1 then [] else
      (List.range (r.1.len / 0x10000)).filterMap (fun i =>
        match s.windowOf p (r.1.base + 0x10000 * i) with
        | some w =>
          let d := w.dbase * 0x10000 + (r.1.base + 0x10000 * i - w.pbase * 0x10000)
          if isHbm d ∧ chanOfAddr d = c then some (r.2, i, d) else none
        | none => none))

/-- The granule of a replica pass that channel c reads when no class has a request waiting (11 R338). -/
def State.passGranule (s : State) (c : Nat) : State :=
  match (s.chan c).pass, s.partOfChan c with
  | some k, some p =>
    if k.fin then s else
    match (s.passChunks p c)[k.idx]? with
    | none => s.setChan c { s.chan c with pass := some { k with fin := true } }
    | some (reg, i, d) =>
      let crc0 := if k.pos = 0 then crc64 0 ([BitVec.ofNat 8 reg, 2] ++ leBytes 6 i) else k.crc
      let r := s.devRead (d + k.pos) 64
      let crc := crc64 crc0 r.1
      let bad := k.bad || r.2.1 != 0
      let k := if k.pos + 64 = 0x10000 then { k with idx := k.idx + 1, pos := 0, crc := 0, acc := k.acc ^^^ crc, bad := bad }
        else { k with pos := k.pos + 64, crc := crc, bad := bad }
      let s := r.2.2
      let k := { k with fin := decide ((s.passChunks p c).length ≤ k.idx) }
      s.setChan c { s.chan c with pass := some k }
  | _, _ => s

/-- n bytes at byte o of a little-endian record. -/
def fieldOf (w o n : Nat) : Nat := w / 256 ^ o % 256 ^ n
def dfield (d : BitVec 512) (o n : Nat) : Nat := fieldOf d.toNat o n

/-- A descriptor's OP, and the class of its requests: its CLASS field for COPY and FILL, 0 for a walker's (08 R235, R239). -/
def dOp (d : BitVec 512) : Nat := dfield d 0 1
def dClass (d : BitVec 512) : Nat := if dOp d = 3 then 0 else dfield d 1 1 / 64

/-- The class of a requester's requests at a channel (08 R235): a tile engine's its descriptor's, a Clove core's 3, and those of a hub agent,
a hub engine among them, come from the common cache with 2 (DEDUCED, log 70). -/
def State.reqClass (s : State) (r : Nat) : Nat :=
  if 0x80 ≤ r ∧ r < 0x100 then dClass (s.engine (r - 0x80)).desc else if 0x100 ≤ r then 3 else 2

/-- HBM_GRANT (08 R234): channel c's next grant, when the requesters of `ask` have a request waiting. -/
def execHbmGrant (c : ChanId) (ask : List ReqId) (s : State) : Host.Outcome State Fault Refusal :=
  let x := s.chan c
  let t := s.cloveThrottle c
  let open3 := t = 0 ∨ (t = 1 ∧ x.grant = 12)
  let asks (k : Nat) : Bool := ask.any (fun r => s.reqClass r == k) && (k != 3 || decide open3)
  let s := s.setChan c { x with grant := (x.grant + 1) % 20 }
  match grantClass x.grant asks with
  | some k => .next (s.tally (s.partOfChan c) 3 (Cnt.hbm c (2 + k)) 64)
  | none => .next (s.passGranule c)

/-! ## Zero-fill (07 R212, 08 R233) -/

/-- The core memories of a core: SRAM, bundle, blend and route memory. -/
def State.zeroCore (s : State) (n : Nat) : State := { s with mem := s.mem.zero (coreWindow n) (coreWindow n + 0x40000) }
def State.zeroSlice (s : State) (n : Nat) : State := { s with mem := s.mem.zero (sliceBase n) (sliceBase n + sliceBytes) }

/-- The counters and trace rings of a core's units (20 R604, R608). -/
def State.clearCoreUnits (s : State) (n : Nat) : State :=
  { s with cnts := SMap.clear (SMap.clear s.cnts (Cnt.core n 0) (Cnt.core n 4)) (Cnt.mesh n 0) (Cnt.mesh n 8),
           trace := SMap.del s.trace n }

/-- ZERO_FILL_DONE (07 R212): a zero-fill of block b that is due completes, of its slices or of its other memories. -/
def execZeroFillDone (b : BlockId) (slices : Bool) (s : State) : Host.Outcome State Fault Refusal :=
  let x := s.block b
  if slices then
    if !x.fillSlice then .next s else
    let s := (coresOfBlock b).foldl (fun s n => s.zeroSlice n) s
    .next (s.setBlock b { x with fillSlice := false })
  else
    if !x.fillCore then .next s else
    let s := (coresOfBlock b).foldl (fun s n => (s.zeroCore n).clearCoreUnits n) s
    .next (s.setBlock b { x with fillCore := false })

end Sys2Proof.Machine
end

