-- ==== Sys2Proof/Machine/Atomic.lean ====
section
/-! DEFINITION. Atomic operations at the home hub, and the reads and writes of hub agents (08 R244–R249). -/

namespace Sys2Proof.Machine

/-- The partition that a requester acts for (08 R246). -/
def State.partOfReq (s : State) (r : Nat) : Option Nat :=
  if 0x10 ≤ r ∧ r < 0x50 then s.partOfEngine (128 + (r - 0x10))
  else if 0x80 ≤ r ∧ r < 0x100 then s.partOfEngine (r - 0x80)
  else if 0x100 ≤ r ∧ r < 0x300 then s.partOfChan (r - 0x100)
  else none

/-! ## The memory aperture's addresses (13 R416) -/

/-- The partition that a scratch address belongs to (12 R365). -/
def State.partOfScratch (s : State) (a : Nat) : Option Nat :=
  let u := (a - scratchBase) / 0x10000
  s.ownerBy (fun r => decide (r.scrBase ≤ u) && decide (u < r.scrBase + r.scrCount))

/-- The address lies in a service range (08 R252). -/
def State.inService (s : State) (a : Nat) : Bool :=
  (decide (s.devFacet.seqtab ≤ a) && decide (a < s.devFacet.seqtab + 0x8000000)) ||
  (decide (s.devFacet.stageBase ≤ a) && decide (a < s.devFacet.stageBase + s.devFacet.stageLen))

/-- Consent bit i of partition p (15 R476). -/
def State.consent (s : State) (p i : Nat) : Bool := bits (s.reg (Reg.keyConsent p)) i 1 = 1

/-- DEVICE mode serves an address (13 R416, 15 R476). -/
def State.deviceServes (s : State) (a : Nat) (wr : Bool) : Bool :=
  let owned (o : Option Nat) (hbm : Bool) : Bool := match o with
    | some p => !(hbm && (s.part p).encrypted) && (wr || s.consent p 0)
    | none => true
  if isHbm a then (if s.inService a then !wr else owned (s.partOfChan (chanOfAddr a)) true)
  else if isScratch a then owned (s.partOfScratch a) false
  else false

/-- The device address of a piece of an aperture access of function f that lies in one granule. -/
def State.aptTarget (s : State) (f a : Nat) (acc : Acc) : Option Nat :=
  let w := s.reg (Reg.aptCtrl f)
  if bits w 30 1 = 0 then (if s.deviceServes a (acc != .read) then some a else none)
  else
    let p := bits w 0 6
    if (s.part p).encrypted ∧ ¬ s.consent p (3 + f) then none
    else (s.translate p a acc).map (·.1)

/-- The partition that a function's aperture requests count for. -/
def State.aptPart (s : State) (f : Nat) : Option Nat :=
  let w := s.reg (Reg.aptCtrl f)
  if bits w 30 1 = 1 then some (bits w 0 6) else none

/-- The aperture of function f is closed. -/
def State.aptShut (s : State) (f : Nat) : Bool := bits (s.reg (Reg.aptCtrl f)) 31 1 == 0 || s.dev == .hold

/-- The status of a read that met poison (0 clean, 1 poisoned, 2 uncorrectable). -/
def badStatus (b : Nat) : Nat := if b = 0 then St.ok else if b = 1 then St.poisoned else St.uncorrectable

/-- The line of a target, made present, and the worst of its words: what keeps an atomic from being applied (08 R247). -/
def State.atomicLine (s : State) (a : Nat) : Nat × State :=
  let l := lineOf a
  if isHbm a then
    let k := s.needLine l
    ((lineWords l).foldl (fun x w => max x (k.1.cache.mem.wordUnit w).bad) (k.2.foldl max 0), k.1)
  else ((lineWords l).foldl (fun x w => max x (s.mem.wordUnit w).bad) 0, { s with mem := s.mem.fixWords (lineWords l) })

/-- Bytes of a target whose line is present. -/
def State.atomicGet (s : State) (a n : Nat) : Nat :=
  let m := if isHbm a then s.cache.mem else s.mem
  let all := (unitsOf8 a n).flatMap (fun u => (m.wordUnit u).data)
  leVal ((all.drop (a % 8)).take n)
where
  unitsOf8 (a n : Nat) : List Nat := (List.range ((a % 8 + n + 7) / 8)).map (fun i => a / 8 * 8 + 8 * i)

/-- Writes a target, through to HBM. -/
def State.atomicPut (s : State) (a n x : Nat) (poi : Bool) : State :=
  let bs := leBytes n x
  let s := s.devWrite a bs poi
  if !isHbm a then s else
  let ws := (List.range ((a % 8 + n + 7) / 8)).map (fun i => a / 8 * 8 + 8 * i)
  { s with cache := { s.cache with mem := ws.foldl (fun m w => m.mergeUnit w 8 a bs poi) s.cache.mem } }

/-- The answer of an atomic: R12 status, old value, state. -/
structure ARes where
  status : Nat
  old : Nat
  st : State

/-- The line of a target that is present is poisoned. -/
def State.poisonLine (s : State) (a : Nat) : State := s.atomicPut (lineOf a) 128 (s.atomicGet (lineOf a) 128) true

/-- An atomic whose line is present is computed in two ALUs: when they differ the target keeps its value, the line is poisoned and the answer is
POISONED (17 R519); else `go` applies it. -/
def State.inAlus (s : State) (a : Nat) (go : State → ARes) : ARes :=
  let r := s.takeUpset (.alu (homeHub a))
  if r.1 then ⟨St.poisoned, 0, r.2.poisonLine a⟩ else go s

/-- A read-modify-write of `n` bytes: `f` gives the new value, or none with a status that leaves the target as it is. -/
def State.rmw (s : State) (p : Option Nat) (a n : Nat) (f : Nat → Option Nat × Nat) : ARes :=
  let s := s.countCc p a 2 n
  if a % n ≠ 0 then ⟨St.badArgument, 0, s⟩ else
  let l := s.atomicLine a
  if l.1 ≠ 0 then ⟨badStatus l.1, 0, l.2⟩ else
  l.2.inAlus a (fun s =>
    let old := s.atomicGet a n
    match f old with
    | (some x, st) => ⟨st, old, s.atomicPut a n x false⟩
    | (none, st) => ⟨st, old, s⟩)

def awBytes : AWidth → Nat
  | .w32 => 4
  | .w64 => 8
  | .fp32 => 4

def awSigned (w : AWidth) (x : Nat) : Int := sext (8 * awBytes w) x

/-- The new value of ADD, MIN and MAX (08 R247). -/
def atomAdd (w : AWidth) (old x : Nat) : Nat :=
  match w with
  | .fp32 => (fadd (BitVec.ofNat 32 old) (BitVec.ofNat 32 x)).1.toNat
  | _ => (old + x) % 2 ^ (8 * awBytes w)
def atomMin (w : AWidth) (old x : Nat) : Nat :=
  match w with
  | .fp32 => (fmin (BitVec.ofNat 32 old) (BitVec.ofNat 32 x)).toNat
  | _ => if awSigned w x < awSigned w old then x % 2 ^ (8 * awBytes w) else old
def atomMax (w : AWidth) (old x : Nat) : Nat :=
  match w with
  | .fp32 => (fmax (BitVec.ofNat 32 old) (BitVec.ofNat 32 x)).toNat
  | _ => if awSigned w old < awSigned w x then x % 2 ^ (8 * awBytes w) else old
/-- INCW: 0 once the old value has reached the operand. -/
def atomIncw (old x : Nat) : Nat := if old ≥ x % 2 ^ 32 then 0 else old + 1

def State.refinc (s : State) (p : Option Nat) (a : Nat) : ARes :=
  s.rmw p a 2 (fun old => if old = 0xFFFF then (none, St.noResource) else (some (old + 1), St.ok))
def State.refdec (s : State) (p : Option Nat) (a : Nat) : ARes :=
  s.rmw p a 2 (fun old => if old = 0 then (none, St.badArgument) else (some (old - 1), St.ok))
def State.cas64 (s : State) (p : Option Nat) (a cmp x : Nat) : ARes :=
  s.rmw p a 8 (fun old => if old = cmp then (some x, St.ok) else (none, St.ok))

/-- POP of the stack whose header is at device address H (08 R248): entry i stands at E + 4 i, whose device address `ent` gives where the
requester may reach it (08 R255). The answer is the entry. -/
def State.pop (s : State) (p : Option Nat) (h e : Nat) (ent : Nat → Option Nat) : ARes :=
  let s := s.countCc p h 2 8
  if h % 8 ≠ 0 ∨ e % 4 ≠ 0 ∨ !isScratch h then ⟨St.badArgument, 0, s⟩ else
  let l := s.atomicLine h
  if l.1 ≠ 0 then ⟨badStatus l.1, 0, l.2⟩ else
  let top := l.2.atomicGet h 4
  if top = 0 then ⟨St.poolEmpty, 0, l.2⟩ else
  match ent (e + 4 * (top - 1)) with
  | none => ⟨St.accessFault, 0, l.2⟩
  | some a =>
    let k := l.2.atomicLine a
    if k.1 ≠ 0 then ⟨badStatus k.1, 0, k.2⟩ else
    k.2.inAlus h (fun s => ⟨St.ok, s.atomicGet a 4, s.atomicPut h 4 (top - 1) false⟩)

/-- PUSH (08 R248). The answer is the old TOP. -/
def State.push (s : State) (p : Option Nat) (h e x : Nat) (ent : Nat → Option Nat) : ARes :=
  let s := s.countCc p h 2 8
  if h % 8 ≠ 0 ∨ e % 4 ≠ 0 ∨ !isScratch h then ⟨St.badArgument, 0, s⟩ else
  let l := s.atomicLine h
  if l.1 ≠ 0 then ⟨badStatus l.1, 0, l.2⟩ else
  let top := l.2.atomicGet h 4
  if top = l.2.atomicGet (h + 4) 4 then ⟨St.noResource, top, l.2⟩ else
  match ent (e + 4 * top) with
  | none => ⟨St.accessFault, 0, l.2⟩
  | some a =>
    let k := l.2.atomicLine a
    if k.1 ≠ 0 then ⟨badStatus k.1, 0, k.2⟩ else
    k.2.inAlus h (fun s => ⟨St.ok, top, (s.atomicPut a 4 (x % 2 ^ 32) false).atomicPut h 4 (top + 1) false⟩)

/-- The exact sum of two BF16 values rounded once to BF16 (08 R249). -/
def bf16Add (x y : Nat) : Nat := (cvtFloat .bf16 false (((bf16 x).add (bf16 y)).1)).1

/-- RED32 and RED16 (08 R249): a line of elements of `w` bytes takes a sum in each. -/
def State.red (s : State) (p : Option Nat) (a w : Nat) (f : Nat → Nat → Nat) (xs : List Nat) (poi : Bool) : ARes :=
  let s := s.countCc p a 2 128
  if a % 128 ≠ 0 then ⟨St.badArgument, 0, s⟩ else
  let l := s.atomicLine a
  if l.1 ≠ 0 then ⟨badStatus l.1, 0, l.2⟩ else
  l.2.inAlus a (fun s =>
    let old := s.atomicGet a 128
    let new := (List.range (128 / w)).foldr (fun i acc =>
      f (old / 256 ^ (w * i) % 256 ^ w) (xs.getD i 0) + 256 ^ w * acc) 0
    ⟨St.ok, old, s.atomicPut a 128 new poi⟩)

/-! ## The commands -/

/-- What a requester reaches at its address a (08 R246, R251, R255): the device address of a byte it may access so. The Loupe has all of HBM
and scratch, a host function what its aperture serves (13 R416, R417), an engine or Clove core its partition's windows. A fabric port acts
for the partition of a frame that a bare request does not name, and an unassigned number is no requester: they reach nothing (DEDUCED,
log 71). -/
def State.reqReach (s : State) (r a : Nat) (acc : Acc) : Option Nat :=
  if r < 2 then (if isHbm a ∨ isScratch a then some a else none)
  else if r < 4 then (if s.aptShut (r - 2) then none else s.aptTarget (r - 2) a acc)
  else match s.partOfReq r with
    | some p => (s.translate p a acc).map (·.1)
    | none => none

/-- The partition whose bytes a requester's are counted as. -/
def State.reqPart (s : State) (r : Nat) : Option Nat := if 2 ≤ r ∧ r < 4 then s.aptPart (r - 2) else s.partOfReq r

/-- A range of n bytes that a requester reaches as one run of device addresses, looked up granule by granule. -/
def State.reqRange (s : State) (r a n : Nat) (acc : Acc) : Option Nat :=
  match s.reqReach r a acc with
  | none => none
  | some d =>
    if (List.range ((a % 64 + n + 63) / 64)).all (fun i =>
        let b := if i = 0 then a else a / 64 * 64 + 64 * i
        s.reqReach r b acc == some (d + (b - a)))
    then some d else none

/-- The die of a requester (08 R246). -/
def reqDie (r : Nat) : Nat :=
  if r < 2 then 8 + r else if r < 4 then 8 else if r < 0x50 then 8 + (r - 0x10) / 32
  else if r < 0x80 then 8 + (r - 0x50) / 10 else if r < 0x100 then (r - 0x80) / 16 else (r - 0x100) / 64

/-- A request reaches its home hub, where its requester may send it (08 R251, R255); the answer goes back. One that needs a failed hop is an
uncorrectable access (17 R518). -/
def State.request (s : State) (r a n : Nat) (acc : Acc) (k : Option Nat → Nat → ARes) (w : Nat) : State :=
  let ans (x : ARes) : State := x.st.send (.reply r x.status (if x.status = St.ok then leBytes w x.old else []))
  match s.reqRange r a n acc with
  | some d => if s.svcLost (reqDie r) (8 + homeHub d) then s.send (.reply r St.uncorrectable []) else ans (k (s.reqPart r) d)
  | none => s.send (.reply r St.accessFault [])

/-- Whether a requester is a hub agent (08 R245). -/
def hubAgent (r : Nat) : Bool := decide (r < 0x80)

/-- CACHE_READ (08 R244–R246): a read of n bytes, at most a line, by a hub agent. Data that are poisoned are a bus error. -/
def execCacheRead (r : ReqId) (a : Addr) (n : Fin 129) (s : State) : Host.Outcome State Fault Refusal :=
  if !hubAgent r ∨ n.val = 0 then .next s else
  .next (s.request r a.toNat n .read (fun p d =>
    let x := s.ccRead p d n
    ⟨badStatus x.2.1, leVal x.1, x.2.2⟩) n)

/-- CACHE_WRITE (08 R244, R245): a write by a hub agent, applied at the home hub and through to HBM. -/
def execCacheWrite (r : ReqId) (a : Addr) (data : List Byte) (poi : Bool) (s : State) : Host.Outcome State Fault Refusal :=
  if !hubAgent r ∨ data.length = 0 ∨ data.length > 128 then .next s else
  .next (s.request r a.toNat data.length .write (fun p d => ⟨St.ok, 0, s.ccWrite p d data poi⟩) 0)

/-- The mailbox slot whose FENCE word stands at device address d: its partition and its device address (09 R271). -/
def State.fenceSlot (s : State) (d : Nat) : Option (Nat × Nat) :=
  s.cloves.findSome? (fun x => match x.2.mbase, s.partOfChan x.1 with
    | some m, some p => match s.translate p m .atomic with
      | some (b, _) => if b + 128 ≤ d ∧ d < b + 1152 ∧ (d - b) % 64 = 56 then some (p, d - 56) else none
      | none => none
    | _, _ => none)

/-- The requester fence (09 R276): an ADD of 0 on the FENCE word of a mailbox slot, whoever sends it, invalidates the lines of the slot's
result range. -/
def State.requesterFence (s : State) (d : Nat) : State :=
  match s.fenceSlot d with
  | none => s
  | some (p, q) =>
    let base := s.mem.nat (q + 8) 8
    let len := min (s.mem.nat (q + 16) 4) 16777216
    (List.range ((len + 127) / 128)).foldl (fun s i => match s.translate p (base + 128 * i) .read with
      | some (l, _) => s.invalidate l 1
      | none => s) s

/-- ATOMIC_ADD (08 R247), on a FENCE word with the fence of 09 R276 first. -/
def execAtomicAdd (r : ReqId) (a : Addr) (w : AWidth) (x : DWord) (s : State) : Host.Outcome State Fault Refusal :=
  .next (s.request r a.toNat (awBytes w) .atomic (fun p d =>
    let s := if x = 0 ∧ w = .w32 then s.requesterFence d else s
    s.rmw p d (awBytes w) (fun o => (some (atomAdd w o x.toNat), St.ok))) (awBytes w))

def execAtomicMin (r : ReqId) (a : Addr) (w : AWidth) (x : DWord) (s : State) : Host.Outcome State Fault Refusal :=
  .next (s.request r a.toNat (awBytes w) .atomic (fun p d => s.rmw p d (awBytes w) (fun o => (some (atomMin w o x.toNat), St.ok))) (awBytes w))

def execAtomicMax (r : ReqId) (a : Addr) (w : AWidth) (x : DWord) (s : State) : Host.Outcome State Fault Refusal :=
  .next (s.request r a.toNat (awBytes w) .atomic (fun p d => s.rmw p d (awBytes w) (fun o => (some (atomMax w o x.toNat), St.ok))) (awBytes w))

/-- ATOMIC_CAS (08 R247): 32 or 64 bits. -/
def execAtomicCas (r : ReqId) (a : Addr) (w : AWidth) (cmp x : DWord) (s : State) : Host.Outcome State Fault Refusal :=
  .next (s.request r a.toNat (awBytes w) .atomic (fun p d => s.rmw p d (awBytes w) (fun o =>
    if o = cmp.toNat % 2 ^ (8 * awBytes w) then (some (x.toNat % 2 ^ (8 * awBytes w)), St.ok) else (none, St.ok))) (awBytes w))

def execAtomicSwap (r : ReqId) (a : Addr) (w : AWidth) (x : DWord) (s : State) : Host.Outcome State Fault Refusal :=
  .next (s.request r a.toNat (awBytes w) .atomic (fun p d => s.rmw p d (awBytes w) (fun _ =>
    (some (x.toNat % 2 ^ (8 * awBytes w)), St.ok))) (awBytes w))

def execIncw (r : ReqId) (a : Addr) (x : Word) (s : State) : Host.Outcome State Fault Refusal :=
  .next (s.request r a.toNat 4 .atomic (fun p d => s.rmw p d 4 (fun o => (some (atomIncw o x.toNat), St.ok))) 4)

def execRefinc (r : ReqId) (a : Addr) (s : State) : Host.Outcome State Fault Refusal :=
  .next (s.request r a.toNat 2 .atomic (fun p d => s.refinc p d) 2)

def execRefdec (r : ReqId) (a : Addr) (s : State) : Host.Outcome State Fault Refusal :=
  .next (s.request r a.toNat 2 .atomic (fun p d => s.refdec p d) 2)

def execPop (r : ReqId) (h e : Addr) (s : State) : Host.Outcome State Fault Refusal :=
  .next (s.request r h.toNat 8 .atomic (fun p d => s.pop p d e.toNat (fun a => s.reqReach r a .atomic)) 4)

def execPush (r : ReqId) (h e : Addr) (x : Word) (s : State) : Host.Outcome State Fault Refusal :=
  .next (s.request r h.toNat 8 .atomic (fun p d => s.push p d e.toNat x.toNat (fun a => s.reqReach r a .atomic)) 4)

def execRed32 (r : ReqId) (a : Addr) (xs : List Word) (poi : Bool) (s : State) : Host.Outcome State Fault Refusal :=
  .next (s.request r a.toNat 128 .atomic (fun p d =>
    s.red p d 4 (fun o x => (fadd (BitVec.ofNat 32 o) (BitVec.ofNat 32 x)).1.toNat) (xs.map (·.toNat)) poi) 128)

def execRed16 (r : ReqId) (a : Addr) (xs : List (BitVec 16)) (poi : Bool) (s : State) : Host.Outcome State Fault Refusal :=
  .next (s.request r a.toNat 128 .atomic (fun p d => s.red p d 2 bf16Add (xs.map (·.toNat)) poi) 128)

end Sys2Proof.Machine
end

