-- ==== Sys2Proof/Machine/Mesh.lean ====
section
/-! DEFINITION. Routers, links, crossings, attachments and fences (06 R168–R202). -/

namespace Sys2Proof.Machine

/-! ## Where a port leads (01 R18–R22, 06 R186) -/

/-- What a router's port N 0, E 1, S 2, W 3 joins. -/
inductive Link where
  | router (n port : Nat)
  /-- crossing edge, direction, lane, its modules, and the router at the far end with the port it arrives on -/
  | tileX (edge dir lane : Nat) (mods : List Nat) (far port : Nat)
  | hubX (edge dir lane : Nat) (mods : List Nat) (hub row : Nat)
  | channel (c : Nat)
deriving DecidableEq, Repr

/-- The lane of a mesh row; the modules and lane of a column across a north–south edge (06 R186). -/
def rowLane (y : Nat) : Nat := y % 32 % 4
def colMods (x : Nat) : List Nat := [x % 64 / 8]
def colLane (x : Nat) : Nat := x % 8

def linkOf (n port : Nat) : Link :=
  let x := coreX n
  let y := coreY n
  match port with
  | 0 =>
    if y = 0 then .channel (attachChan x y)
    else if y = 32 then .tileX (10 + x / 64) 1 (colLane x) (colMods x) (coreAt x 31) 2
    else .router (coreAt x (y - 1)) 2
  | 1 =>
    if x = 255 then .hubX (rowEdge 4 y) 0 (rowLane y) (rowMods y) 1 y
    else if x % 64 = 63 then .tileX (rowEdge (x / 64 + 1) y) 0 (rowLane y) (rowMods y) (coreAt (x + 1) y) 3
    else .router (coreAt (x + 1) y) 3
  | 2 =>
    if y = 63 then .channel (attachChan x y)
    else if y = 31 then .tileX (10 + x / 64) 0 (colLane x) (colMods x) (coreAt x 32) 0
    else .router (coreAt x (y + 1)) 0
  | _ =>
    if x = 0 then .hubX (rowEdge 0 y) 1 (rowLane y) (rowMods y) 0 y
    else if x % 64 = 0 then .tileX (rowEdge (x / 64) y) 1 (rowLane y) (rowMods y) (coreAt (x - 1) y) 1
    else .router (coreAt (x - 1) y) 1

/-- The attachment a router's port joins. -/
def attOf (n port : Nat) : Option Nat :=
  match linkOf n port with
  | .channel c => some c
  | .hubX _ _ _ _ h y => some (hubAtt h y)
  | _ => none

/-! ## Fences (06 R196) -/

/-- Whether a router's port is fenced: its far end's block is of another partition or of none. A channel's attachment is not fenced.
Under the null device facet, until the first activation, nothing is, so that FENCE reads its reset value (06 R200, 12 R369; DEDUCED,
log 68). -/
def State.fenced (s : State) (n port : Nat) : Bool :=
  let p := s.holder n
  s.loupe.devOn &&
  match linkOf n port with
  | .router m _ => s.holder m != p
  | .tileX _ _ _ _ m _ => s.holder m != p || p.isNone
  | .hubX .. => p.isNone
  | .channel _ => false

/-- The FENCE field of MESH_STATUS (06 R200): N in bit 3 down to W in bit 0. -/
def State.fenceBits (s : State) (n : Nat) : Nat :=
  (List.range 4).foldl (fun a i => a + (if s.fenced n i then 2 ^ (3 - i) else 0)) 0

/-! ## Crossing slots (06 R189–R191) -/

def slotPositions : List Nat := [0, 1, 3, 4, 6, 7, 9, 10]

/-- The default plan's four bits for a slot (06 R191). -/
def defaultPlan (e m i : Nat) : Nat := 8 + (if e ≥ 10 then i else if m % 2 = 0 then i % 4 else (i + 2) % 4)

/-- The key of a plan: edge, module and direction (12 R367). -/
def planKey (e m dir : Nat) : Nat := 1024 * e + 2 * m + dir

/-- The plan entry of a module's slot in a direction. -/
def State.planEntry (s : State) (e m dir i : Nat) : Nat :=
  match SMap.find s.devFacet.plans (planKey e m dir) with
  | none => defaultPlan e m i
  | some v => v / 16 ^ i % 16

/-- The module among `mods` whose slot at frame position u mod 12 carries a lane. -/
def State.slotFor (s : State) (e dir lane u : Nat) (mods : List Nat) : Option Nat :=
  match slotPositions.idxOf? (u % 12) with
  | none => none
  | some i => mods.find? (fun m => s.planEntry e m dir i == 8 + lane)

/-- A frame enters a crossing in cycle u (06 R171, R188); `src` of a hub's flit is who gave it. -/
def State.cross (s : State) (e m dir lane u : Nat) (f : Flit) (src : Option Nat) : State :=
  let s := if f.valid = 0 then s else s.tally (s.xingPart e m) 2 (Cnt.xing e m dir) 64
  let x := s.xing (xingId e m)
  s.setXing (xingId e m) { x with frames := x.frames ++ [⟨dir, lane, u + 28, f, src⟩] }

/-! ## Route entries (06 R173–R177) -/

structure REntry where
  outs : List Nat
  lin : Nat
  lout : Nat
  resv : Nat
  run : Nat
  ctl : Nat
  target : Nat
  count : Nat
deriving DecidableEq, Repr

def REntry.ofWord (w : DWord) : REntry :=
  { outs := [fld w 61 3, fld w 58 3, fld w 55 3, fld w 52 3, fld w 49 3, fld w 46 3, fld w 43 3],
    lin := fld w 39 4, lout := fld w 35 4, resv := fld w 32 3, run := fld w 24 8, ctl := fld w 21 3,
    target := fld w 11 10, count := fld w 0 11 }

/-- LIN is acted on, and LOUT is acted on (06 R175). -/
def REntry.usesLin (e : REntry) : Bool := e.outs.contains 5
def REntry.usesLout (e : REntry) : Bool := e.outs.getD 4 0 != 0
def REntry.readWin (e : REntry) : Option Nat := if e.usesLin ∧ 8 ≤ e.lin then some e.lin else none
def REntry.writeWin (e : REntry) : Option Nat := if e.usesLout ∧ 8 ≤ e.lout then some (e.lout - 8) else none

/-- The checks of an entry's own bits (06 R177). -/
def REntry.legal (e : REntry) : Bool :=
  e.resv == 0 && decide (e.ctl ≤ 4) && (if e.ctl = 2 ∨ e.ctl = 3 then e.count != 0 else e.count == 0) &&
  (e.lin == 0 || decide (8 ≤ e.lin)) && (decide (e.lout ≤ 2) || decide (8 ≤ e.lout))

/-- A window-table entry (06 R181). -/
structure WinEntry where
  base : Nat
  size : Nat
  gran : Nat
  token : Nat
  resv : Bool
deriving DecidableEq, Repr

def WinEntry.of (x : Nat) : WinEntry :=
  let g (lo len : Nat) : Nat := x / 2 ^ lo % 2 ^ len
  { base := g 0 32, size := g 64 4, gran := g 76 8, token := g 84 4, resv := g 88 40 ≠ 0 || g 68 8 ≠ 0 || g 32 32 ≠ 0 }

def WinEntry.bytes (w : WinEntry) : Nat := 64 * 2 ^ w.size

def WinEntry.legal (w : WinEntry) (read : Bool) : Bool :=
  !w.resv && decide (w.size ≤ 11) && w.base % 64 == 0 && decide (w.base + w.bytes ≤ sramBytes) && (!read || w.gran == 0)

/-- Reads a window-table entry through the descriptor path: the entry, whether it is unreadable, the state with the checks
counted. -/
def State.readWinEntry (s : State) (n i : Nat) : WinEntry × Bool × State :=
  let base := match s.partOfCore n with | some p => (s.part p).facet.glob.wtbase | none => 0
  let r := s.readSram n (base + 16 * i) 2
  (WinEntry.of (leVal r.1), r.2.1.any id, r.2.2)

/-- Reads route entry e (06 R172). -/
def State.fetchRoute (s : State) (n e : Nat) (count : Bool) : Option REntry × State :=
  let r := s.mem.word (coreWindow n + routeOff + 8 * e)
  let s := if count then s.countCheck n r.2.2 none else s
  (if r.2.1 then none else some (REntry.ofWord (BitVec.ofNat 64 (leVal r.1))), s)

/-- The program after one cycle of entry e (06 R176). -/
def Router.after (r : Router) (e : REntry) : Router :=
  let first := r.runLeft = 0
  let left := if first then e.run else r.runLeft - 1
  if left > 0 then { r with runLeft := left } else
  let r := { r with runLeft := 0 }
  let seq := (r.pc + 1) % 1024
  match e.ctl with
  | 0 => { r with pc := seq }
  | 1 => { r with pc := e.target }
  | 4 => { r with halted := true }
  | c =>
    let k := c - 2
    let rl := if SMap.get false r.act k then SMap.get 0 r.rl k else e.count - 1
    if rl > 0 then { r with rl := SMap.set 0 r.rl k (rl - 1), act := SMap.set false r.act k true, pc := e.target }
    else { r with rl := SMap.set 0 r.rl k 0, act := SMap.set false r.act k false, pc := seq }

/-- The entry that will apply k cycles on, as the program now stands. -/
def State.routeAhead (s : State) (n : Nat) : Nat → Router → Option (Nat × REntry)
  | 0, r => if r.halted then none else (s.fetchRoute n r.pc false).1.map (fun e => (r.pc, e))
  | k + 1, r =>
    if r.halted then none else
    match (s.fetchRoute n r.pc false).1 with
    | none => none
    | some e => State.routeAhead s n k (r.after e)

/-! ## Flits -/

/-- The check of a flit that arrives on N, E, S or W (06 R170). -/
def State.checkFlit (s : State) (n : Nat) (f : Flit) : State × Flit :=
  if f.valid = 0 then (s, Flit.empty) else
  let s' := if f.crc ≠ Flit.sum f.pay f.poison then s.countField (Reg.meshStatus n) 20 12 1 else s
  let bad := f.crc ≠ Flit.sum f.pay f.poison
  if bad || f.valid != 3 then (s', Flit.mk' f.pay true) else (s', f)

/-- Router n's present cycle may happen: its partition is neither paused, cut nor frozen there and no unit lags (06 R171, R193). -/
def State.routerMay (s : State) (n : Nat) : Bool :=
  match s.partOfCore n with
  | some p => (s.router n).running && s.mayAct p (s.router n).now
  | none => false

/-- Whether a frame of a crossing at one of router n's ports is due in its cycle u: one that comes to the router, or one that the router
sent to a hub (06 R171, R194). -/
def State.framesDue (s : State) (n u : Nat) : Bool :=
  (List.range 4).any (fun port => match linkOf n port with
    | .tileX e dir lane mods _ _ =>
      mods.any (fun m => (s.xing (xingId e m)).frames.any (fun f => f.dir == 1 - dir && f.lane == lane && decide (f.arrive ≤ u)))
    | .hubX e _ lane mods _ _ => mods.any (fun m => (s.xing (xingId e m)).frames.any (fun f => f.lane == lane && decide (f.arrive ≤ u)))
    | _ => false)

/-- A slot with flipped bits; an empty slot's payload, poison and CRC are free values (06 R169). -/
def State.flipped (s : State) (f : Option Flit) (err : BitVec 512) (vflip : BitVec 2) : Flit × State :=
  match f with
  | some f => ({ f with pay := f.pay ^^^ err, valid := f.valid ^^^ vflip }, s)
  | none =>
    let r := s.free 529
    (⟨r.1.extractLsb' 0 512 ^^^ err, vflip, r.1.getLsbD 512, r.1.extractLsb' 513 16⟩, r.2)

/-- FLIT_ARRIVAL (06 R170, R171): the slot of router n's present cycle on a port reaches its input; `err` and `vflip` are the bits the
link flipped. An empty slot whose VALID copies are flipped is a valid flit too. An attachment's flit is checked as the entry takes it. -/
def execFlitArrival (n : CoreId) (port : Fin 4) (err : BitVec 512) (vflip : BitVec 2) (s : State) :
    Host.Outcome State Fault Refusal :=
  let r := s.router n
  match r.arriving.find? (fun a => a.1 == port.val && decide (a.2.1 ≤ r.now)) with
  | some a =>
    let f := s.flipped (some a.2.2) err vflip
    let k := f.2.checkFlit n f.1
    let r := k.1.router n
    .next (k.1.setRouter n { r with arriving := r.arriving.erase a, input := SMap.set Flit.empty r.input port.val k.2 })
  | none =>
    match (attOf n port.val).bind (fun a => (s.att a).ingress.head?.map (fun f => (a, f))) with
    | some (a, f) =>
      let t := s.att a
      .next (s.setAtt a { t with ingress := (s.flipped (some f) err vflip).1 :: t.ingress.drop 1 })
    | none =>
      if vflip = 0 ∨ ¬ s.routerMay n ∨ s.fenced n port.val ∨ s.framesDue n r.now ∨ (SMap.get Flit.empty r.input port.val).valid ≠ 0
      then .next s else
      let f := s.flipped none err vflip
      let k := f.2.checkFlit n f.1
      let r := k.1.router n
      .next (k.1.setRouter n { r with input := SMap.set Flit.empty r.input port.val k.2 })

/-- Bits of the register of a module's counts: corrected and uncorrectable, by direction (06 R202). -/
def xingField (dir : Nat) (corr : Bool) : Nat := (if dir = 0 then 0 else 8) + (if corr then 0 else 16)

/-- The bytes of a frame that a crossing changed, and how. -/
def frameErrors (err : List (Fin 72 × Byte)) : List (Nat × Byte) :=
  ((List.range 72).map (fun i => (i, err.foldl (fun (a : Byte) x => if x.1.val = i then a ^^^ x.2 else a) 0))).filter (fun x => x.2 != 0)

/-- The receiving end of a crossing decodes a frame (06 R188): up to two bad bytes are corrected. -/
def State.decodeFrame (s : State) (e m dir : Nat) (f : Flit) (err : List (Fin 72 × Byte)) : State × Flit :=
  let bad := (frameErrors err).length
  if bad = 0 then (s, f)
  else if bad ≤ 2 then (s.countField (Reg.xingStatus e m) (xingField dir true) 8 1, f)
  else
    let pay := (frameErrors err).foldl (fun (a : BitVec 512) x => a ^^^ (BitVec.ofNat 512 (x.2.toNat * 256 ^ x.1))) f.pay
    (s.countField (Reg.xingStatus e m) (xingField dir false) 8 1, Flit.mk' pay true)

/-- The router at the far end of a module's lane, and the port a frame arrives on; none at a hub (06 R186). -/
def xingFar (e m dir lane : Nat) : Option (Nat × Nat) :=
  if e ≥ 10 then
    let x := 64 * (e - 10) + 8 * m + lane
    some (if dir = 0 then (coreAt x 32, 0) else (coreAt x 31, 2))
  else
    let i := e % 5
    let y := (if e ≥ 5 then 32 else 0) + 4 * (m / 2) + lane
    if dir = 0 then (if i = 4 then none else some (coreAt (64 * i) y, 3))
    else (if i = 0 then none else some (coreAt (64 * i - 1) y, 1))

/-- The mesh row of a module's lane on an east–west edge, and the hub at the edge's end. -/
def xingRow (e m lane : Nat) : Nat := (if e ≥ 5 then 32 else 0) + 4 * (m / 2) + lane
def xingHub (e : Nat) : Nat := if e % 5 = 0 then 0 else 1

/-- Faults of the mesh (06 R199). -/
def Sf.fenceViolation : Nat := 0x15
def Sf.meshUnrouted : Nat := 0x16
def Sf.noSlot : Nat := 0x17
def Sf.egressFull : Nat := 0x18

/-! ## Collective entries and their STREAM sources (11 R326, R327) -/

/-- The partition and entry that context x serves. -/
def State.collEntry (s : State) (x : Nat) : Option (Nat × CollEntry) :=
  match (s.coll x).part with
  | some p => ((s.part p).facet.colls.find? (fun e => e.id == (s.coll x).entry)).map (fun e => (p, e))
  | none => none

def CollEntry.block (e : CollEntry) : Nat := e.len / max 1 e.n
/-- Bytes that a rank reads at SRC. -/
def CollEntry.srcLen (e : CollEntry) : Nat :=
  match e.op with
  | 0 | 1 => e.len
  | 2 => e.block
  | _ => if e.rank = e.root then e.len else 0

/-- The context whose running instance takes the flits that reach an attachment, a STREAM source of which it has not taken all (11 R327). -/
def State.streamTaker (s : State) (i : Nat) : Option Nat :=
  (s.colls.find? (fun x => x.2.running && !x.2.dead && (match s.collEntry x.1 with
    | some (_, e) => e.srct == 2 && hubAtt e.hub (coreY e.src) == i && decide (64 * x.2.taken < e.srcLen)
    | none => false))).map (·.1)

/-- A flit reaches the far end of a crossing in cycle u (06 R188, R194): its router's input link, a hub's egress buffer, or a router's
ingress buffer from a hub. A collective instance takes its STREAM source's flits as they arrive (11 R327). A valid flit
that finds the egress buffer full is lost, and the edge router raises EGRESS_FULL with the entry it has come to and the port of the
crossing (06 R185; DESIGN CHOICE, log 68). A flit that a hub never sent (`src` is none) has no place
kept for it: where the ingress buffer is full it is lost (DESIGN CHOICE, log 69). -/
def State.crossed (s : State) (e lane u m dir : Nat) (f : Flit) (src : Option Nat) : State :=
  match xingFar e m dir lane with
  | none =>
    let y := xingRow e m lane
    let h := xingHub e
    let t := s.att (hubAtt h y)
    if f.valid = 0 then s else
    match s.streamTaker (hubAtt h y) with
    | some x =>
      let c := s.coll x
      s.setColl x { c with stream := c.stream ++ [f], taken := c.taken + 1 }
    | none =>
    if t.egress.length < 64 then s.setAtt (hubAtt h y) { t with egress := t.egress ++ [f] }
    else
      let n := coreAt (if h = 0 then 0 else 255) y
      (s.orReg (Reg.meshStatus n) 0x0400).meshFault n Sf.egressFull (s.router n).pc (if h = 0 then 3 else 1) u
  | some (n, port) =>
    if e < 10 ∧ ((e % 5 = 0 ∧ dir = 0) ∨ (e % 5 = 4 ∧ dir = 1)) then
      let a := hubAtt (xingHub e) (coreY n)
      let t := s.att a
      if src.isSome then s.setAtt a { t with ingress := t.ingress ++ [f] }
      else if t.ingress.length < 64 then s.setAtt a { t with ingress := t.ingress ++ [f], ghosts := t.ghosts ++ [t.ingress.length] }
      else s
    else
      let r := s.router n
      s.setRouter n { r with arriving := r.arriving ++ [(port, u, f)] }

/-- The router of a tile at one end of a module's lane: the far one, or towards a hub the one that sends. -/
def xingRouter (e m dir lane : Nat) : Nat :=
  match xingFar e m dir lane with
  | some (n, _) => n
  | none => coreAt (if xingHub e = 0 then 0 else 255) (xingRow e m lane)

/-- The lane that the slot of the frame which a module receives in the owning partition's cycle u has by the plan (06 R189, R190). -/
def State.laneAt (s : State) (e m dir u : Nat) : Option Nat :=
  match slotPositions.idxOf? ((u + 8) % 12) with
  | none => none
  | some i => let v := s.planEntry e m dir i; if 8 ≤ v then some (v - 8) else none

/-- The module in whose slot of the owner's present cycle a hub sends the head of its queue for a row: there is one, the ingress buffer will have
room for it, and the slot has carried nothing yet (06 R194). -/
def State.hubSendAt (s : State) (h y : Nat) : Option Nat :=
  let t := s.att (hubAtt h y)
  let u := (s.router (coreAt (if h = 0 then 0 else 255) y)).now
  let e := rowEdge (if h = 0 then 0 else 4) y
  let dir := if h = 0 then 0 else 1
  if t.queue.isEmpty ∨ t.free = 0 then none else
  match s.slotFor e dir (rowLane y) u (rowMods y) with
  | some m => if (s.xing (xingId e m)).frames.any (fun g => g.dir == dir && g.arrive == u + 28) then none else some m
  | none => none

/-- A hub is to send in the row's slot of router n's present cycle, which waits for it: the head goes in the row's next slot (06 R194). -/
def State.hubSendDue (s : State) (n : Nat) : Bool :=
  (coreX n == 0 && (s.hubSendAt 0 (coreY n)).isSome) || (coreX n == 255 && (s.hubSendAt 1 (coreY n)).isSome)

/-- HUB_TO_TILE_SEND (06 R194): the hub sends the head of its queue for a row in the row's slot, when the ingress buffer will
have room. -/
def execHubToTileSend (h : HubId) (y : Fin 64) (s : State) : Host.Outcome State Fault Refusal :=
  let a := hubAtt h y
  let t := s.att a
  let n := coreAt (if h.val = 0 then 0 else 255) y
  let e := rowEdge (if h.val = 0 then 0 else 4) y
  let dir := if h.val = 0 then 0 else 1
  match s.partOfCore n, t.queue, s.hubSendAt h y with
  | some p, f :: fs, some m =>
    let u := (s.router n).now
    if ¬ s.mayAct p u then .next s else
    let s := s.setAtt a { t with queue := fs, free := t.free - 1 }
    .next (s.cross e m dir (rowLane y) u (Flit.mk' f.1.pay f.1.poison) (some f.2))
  | _, _, _ => .next s

/-! ## One router cycle -/

/-- What an input port holds in this cycle: an arrived flit, or the head of an attachment's ingress buffer (06 R185). -/
def State.inputOf (s : State) (n port : Nat) : Flit :=
  let here := SMap.get Flit.empty (s.router n).input port
  match attOf n port with
  | some a => (s.att a).ingress.headD here
  | none => here

/-- The four inputs of a cycle whose entry names the given sources; the flits of attachments that it takes are checked (06 R170). -/
def State.takeInputs (s : State) (n : Nat) (outs : List Nat) : State × List Flit :=
  (List.range 4).foldl (fun (a : State × List Flit) p =>
    let f := a.1.inputOf n p
    let k := if (attOf n p).isSome && outs.contains (p + 1) then a.1.checkFlit n f else (a.1, f)
    (k.1, a.2 ++ [k.2])) (s, [])

/-- Takes the head of an ingress buffer when an entry sources its port; a hub sees the place of a flit that it sent again
(06 R194). -/
def State.takeIngress (s : State) (n port : Nat) : State :=
  match attOf n port with
  | some a =>
    let t := s.att a
    (match t.ingress with
     | _ :: fs => s.setAtt a { t with
         ingress := fs, ghosts := (t.ghosts.filter (· != 0)).map (· - 1), free := if a ≥ 512 ∧ ¬ t.ghosts.contains 0 then t.free + 1 else t.free }
     | [] => s)
  | none => s

/-- Sends a valid flit out of a port in cycle u (06 R171, R185, R192, R197). -/
def State.sendPort (s : State) (n entry port u : Nat) (f : Flit) : State :=
  if f.valid = 0 then s else
  if s.fenced n port then (s.orReg (Reg.meshStatus n) 0x2000).meshFault n Sf.fenceViolation entry port u else
  let s := s.tally (s.partOfCore n) 1 (Cnt.mesh n port) 64
  match linkOf n port with
  | .router m q =>
    let r := s.router m
    s.setRouter m { r with arriving := r.arriving ++ [(q, u + 1, f)] }
  | .tileX e dir lane mods _ _ | .hubX e dir lane mods _ _ =>
    (match s.slotFor e dir lane u mods with
     | some m => s.cross e m dir lane u f none
     | none => (s.orReg (Reg.meshStatus n) 0x0800).meshFault n Sf.noSlot entry port u)
  | .channel c =>
    let t := s.att c
    if t.egress.length ≥ 64 then (s.orReg (Reg.meshStatus n) 0x0400).meshFault n Sf.egressFull entry port u
    else s.setAtt c { t with egress := t.egress ++ [f] }

/-- Delivers a flit to write window w in cycle d (06 R181, R182). A flit written while GRAN is 0 clears the count of the window (DESIGN CHOICE,
log 89). -/
def State.deliverWindow (s : State) (n entry w d : Nat) (f : Flit) : State :=
  let r := s.readWinEntry n w
  let s := r.2.2
  if r.2.1 then s.meshFault n Sf.fetchUncorrectable entry 4 d
  else if f.valid = 0 then s else
  let ro := s.router n
  let off := SMap.get 0 ro.off w
  let a := r.1.base + off
  let cnt := SMap.get 0 ro.cnt w + 1
  let full := r.1.gran ≠ 0 ∧ cnt ≥ r.1.gran
  let s := s.setRouter n { ro with
    off := SMap.set 0 ro.off w ((off + 64) % r.1.bytes),
    cnt := SMap.set 0 ro.cnt w (if r.1.gran = 0 ∨ full then 0 else cnt) }
  let bs := leBytes 64 f.pay.toNat
  let poi := if f.poison then 15 else 0
  let c := s.core n
  let mk (dt : Nat) (e : Effect) : Pending := ⟨d + dt, d, 8, entry, none, e⟩
  let es := [mk 1 (.sram a (bs.take 32) poi), mk 2 (.sram (a + 32) (bs.drop 32) poi)] ++
    (if full then [mk 2 (.tokenUp r.1.token 1 (peerCore n))] else [])
  s.setCore n { c with seq := { c.seq with pend := c.seq.pend ++ es } }

/-- Delivers OUT_L's flit at the target that LOUT names (06 R175, R180–R182). -/
def State.deliverLocal (s : State) (n entry lout d : Nat) (f : Flit) : State :=
  if lout = 0 then
    if f.valid = 0 then s else
    let c := s.core n
    if c.recvq.length < 4 then s.setCore n { c with recvq := c.recvq ++ [(d + 1, f)] }
    else s.orReg (Reg.seqStatus n) 0x00100000
  else if lout ≤ 2 then s.deliverOperand n lout d f
  else s.deliverWindow n entry (lout - 8) d f

/-- What LIN supplies (06 R179, R183): the flit, and the state in which it has been taken. -/
def State.localInput (s : State) (n entry : Nat) (e : REntry) : Flit × State :=
  if ¬ e.usesLin then (Flit.empty, s)
  else if e.lin = 0 then
    let c := s.core n
    match c.sendq with
    | f :: fs => (f, s.setCore n { c with sendq := fs })
    | [] => (Flit.empty, s)
  else
    let ro := s.router n
    let cyc := ro.now
    match ro.ahead.find? (fun a => a.cyc == cyc) with
    | none => (Flit.empty, s)
    | some a =>
      -- a half whose cycle has not been performed is read now
      let s := if a.bytes.length = 0 then s.readWin n cyc a.win a.off entry cyc else s
      let s := if a.bytes.length ≤ 32 then s.readWin n cyc a.win (a.off + 32) entry cyc else s
      let ro := s.router n
      match ro.ahead.find? (fun a => a.cyc == cyc) with
      | none => (Flit.empty, s)
      | some a =>
        let s := s.setRouter n { ro with
          ahead := ro.ahead.erase a, off := SMap.set 0 ro.off a.win ((SMap.get 0 ro.off a.win + 64) % a.size) }
        (Flit.mk' (BitVec.ofNat 512 (leVal a.bytes)) a.poi, s)

/-- The window-table entry of read window w is read in cycle `here` for the entry of cycle `cyc` (06 R181): where the flit's 64 bytes
stand, if they are to be read. They are read whatever the entry's check will find (06 R183), but for a place outside core SRAM, which
no bank holds; the rows are whole ones. -/
def State.openAhead (s : State) (n cyc entry w here : Nat) : Option Nat × State :=
  let r := s.readWinEntry n w
  let s := r.2.2
  if r.2.1 then (none, s.meshFault n Sf.fetchUncorrectable entry 4 here) else
  let ro := s.router n
  let k := (ro.ahead.filter (fun a => a.win == w)).length
  let off := (r.1.base + (SMap.get 0 ro.off w + 64 * k) % r.1.bytes) / 32 * 32
  (if off + 64 ≤ sramBytes then some off else none,
   s.setRouter n { ro with ahead := ro.ahead ++ [⟨cyc, w, off, r.1.legal true, r.1.bytes, [], false⟩] })

/-- Starts the reads of the flit that the entry of cycle `cyc` will take from a read window, in this cycle and the next
(06 R181, R183). -/
def State.startRead (s : State) (n cyc entry : Nat) (e : REntry) (here : Nat) : State :=
  match e.readWin with
  | none => s
  | some w =>
    let ro := s.router n
    if ro.ahead.any (fun a => a.cyc == cyc) then s else
    let q := s.openAhead n cyc entry w here
    match q.1 with
    | none => q.2
    | some off =>
      let s := q.2
      let c := s.core n
      let mk (t half : Nat) : Pending := ⟨t, cyc, 8, entry, none, .rdWin cyc w (off + 32 * half) half⟩
      s.setCore n { c with seq := { c.seq with pend := c.seq.pend ++ [mk here 0, mk (here + 1) 1] } }

/-- The window entries an entry uses are legal (06 R177, R181): a read window's as it was read two cycles before, a write window's as
it is read now. -/
def State.windowsLegal (s : State) (n : Nat) (e : REntry) : Bool :=
  (match e.readWin, (s.router n).ahead.find? (fun a => a.cyc == (s.router n).now) with
   | some _, some a => a.ok
   | _, _ => true) &&
  (match e.writeWin with | some w => (s.readWinEntry n w).1.legal false || (s.readWinEntry n w).2.1 | none => true)

/-- Valid flits that arrive from routers or tile crossings and that no field names (06 R178): their ports. -/
def State.unrouted (s : State) (n : Nat) (named : List Nat) : List Nat :=
  (List.range 4).filter (fun p => (attOf n p).isNone && (s.inputOf n p).valid != 0 && !named.contains (p + 1))

/-- MESH_UNROUTED for every arrived flit that the entry's fields do not name (06 R178). -/
def State.loseUnrouted (s : State) (n pc u : Nat) (named : List Nat) : State :=
  (s.unrouted n named).foldl (fun s q => (s.orReg (Reg.meshStatus n) 0x1000).meshFault n Sf.meshUnrouted pc q u) s

/-- What a router's cycle begins with: the reads for the entry of two cycles on (06 R181, R183). -/
def State.readAhead (s : State) (n : Nat) : State :=
  let r := s.router n
  match s.routeAhead n 2 r with
  | some (pc, e) => s.startRead n (r.now + 2) pc e r.now
  | none => s

/-- The end of a router's cycle. -/
def State.routerEnd (s : State) (n : Nat) (next : Router → Router) : State :=
  let r := s.router n
  s.setRouter n { next r with input := [], now := r.now + 1 }

/-- The route program of router n starts (06 R183): both halves of what the entry of its first cycle takes from a read window, and the first half
of what the entry of its second does, are read as part of the start; that second half is read in the first cycle, like any other. -/
def State.primeRouter (s : State) (n : Nat) : State :=
  let r := s.router n
  let now (s : State) (i : Nat) : State :=
    match s.routeAhead n i r with
    | none => s
    | some (pc, e) => match e.readWin with
      | none => s
      | some w =>
        let q := s.openAhead n (r.now + i) pc w r.now
        match q.1 with
        | none => q.2
        | some off =>
          let s := q.2.readWin n (r.now + i) w off pc r.now
          if i = 0 then s.readWin n r.now w (off + 32) pc r.now else
          let c := s.core n
          s.setCore n { c with seq := { c.seq with
            pend := c.seq.pend ++ [⟨r.now, r.now + 1, 8, pc, none, .rdWin (r.now + 1) w (off + 32) 1⟩] } }
  now (now s 0) 1

/-- Applies entry e at address pc in the router's cycle u (06 R174–R182). -/
def State.applyEntry (s : State) (n pc : Nat) (e : REntry) : State :=
  let u := (s.router n).now
  let q := s.takeInputs n e.outs
  let ins := q.2
  let l := q.1.localInput n pc e
  let s := l.2
  let ro := s.router n
  let src (k : Nat) : Flit :=
    match k with
    | 0 => Flit.empty
    | 5 => l.1
    | 6 => SMap.get Flit.empty ro.h 0
    | 7 => SMap.get Flit.empty ro.h 1
    | k => ins.getD (k - 1) Flit.empty
  let s := s.loseUnrouted n pc u e.outs
  let s := (List.range 4).foldl (fun s p => if e.outs.contains (p + 1) then s.takeIngress n p else s) s
  let s := (List.range 4).foldl (fun s p => s.sendPort n pc p u (src (e.outs.getD p 0))) s
  let s := if e.usesLout ∧ (src (e.outs.getD 4 0)).valid ≠ 0 then s.tally (s.partOfCore n) 1 (Cnt.mesh n 4) 64 else s
  let s := if e.usesLout then s.deliverLocal n pc e.lout u (src (e.outs.getD 4 0)) else s
  let hold (s : State) (i : Nat) : State :=
    let k := e.outs.getD (5 + i) 0
    if k = 0 then s else
    let r := s.router n
    s.setRouter n { r with h := SMap.set Flit.empty r.h i (src k) }
  let h0 := hold s 0
  hold h0 1

/-- ROUTE_ENTRY_APPLY (06 R172–R183, R199): router n's next unpaused cycle, once what arrives in it has arrived (06 R171) and a hub has
sent in the row's slot of it. The router first begins the reads for the entry two cycles on (06 R181, R183). An entry that
is illegal or cannot be read moves nothing, and the flits that it does not name, which of one that cannot be read are all, are lost
(06 R178). -/
def execRouteEntryApply (n : CoreId) (s : State) : Host.Outcome State Fault Refusal :=
  match s.partOfCore n with
  | none => .next s
  | some p =>
    let r := s.router n
    let u := r.now
    if ¬ r.running ∨ ¬ s.mayAct p u ∨ r.arriving.any (fun a => decide (a.2.1 ≤ u)) ∨ s.framesDue n u ∨ s.hubSendDue n then .next s
    else if r.halted then .next ((s.loseUnrouted n r.pc u []).routerEnd n id)
    else
      let s := s.readAhead n
      let f := s.fetchRoute n r.pc (r.runLeft == 0)
      match f.1 with
      | none => .next (((f.2.meshFault n Sf.fetchUncorrectable r.pc 7 u).loseUnrouted n r.pc u []).routerEnd n id)
      | some e =>
        if r.runLeft = 0 ∧ ¬ (e.legal ∧ f.2.windowsLegal n e) then
          .next (((f.2.meshFault n Sf.illegal r.pc 7 u).loseUnrouted n r.pc u e.outs).routerEnd n id)
        else .next ((f.2.applyEntry n r.pc e).routerEnd n (fun r => r.after e))

end Sys2Proof.Machine
end

