-- ==== Sys2Proof/Machine/Dma.lean ====
section
/-! DEFINITION. DMA engines: descriptors, granules, tokens and status (08 R237–R241, 17 R528). -/

namespace Sys2Proof.Machine

/-! ## Descriptors (08 R239, R240) -/

def dTrig (d : BitVec 512) : Bool := bitOf (dfield d 1 1) 3
def dXpose (d : BitVec 512) : Nat := dfield d 1 1 / 16 % 4
def dSrct (d : BitVec 512) : Nat := dfield d 2 1
def dDstt (d : BitVec 512) : Nat := dfield d 3 1
def dLen (d : BitVec 512) : Nat := dfield d 4 4
def dSrc (d : BitVec 512) : Nat := dfield d 8 8
def dDst (d : BitVec 512) : Nat := dfield d 16 8
def dSpitch (d : BitVec 512) : Nat := dfield d 24 4
def dStep (d : BitVec 512) : Nat := dfield d 32 8
def dTcore (d : BitVec 512) : Nat := dfield d 40 2
def dTkt (d : BitVec 512) : Nat := dfield d 42 1
def dTcnt (d : BitVec 512) : Nat := dfield d 43 1
def dTgran (d : BitVec 512) : Nat := dfield d 44 4
def dFillv (d : BitVec 512) : Nat := dfield d 48 8

/-- The hub of a hub engine, the tile of a tile engine (10 R312). -/
def engHub (d : Nat) : Option Nat := if d < 128 then none else some ((d - 128) / 32)
def engTile (d : Nat) : Nat := d / 16
/-- The die of engine d: a tile, or hub 8 or 9. -/
def engDie (d : Nat) : Nat := match engHub d with
  | some h => 8 + h
  | none => engTile d

/-- Engine d raises a token: a hub's goes over the service network (08 R243). -/
def State.engToken (s : State) (d n k cnt : Nat) : State :=
  match engHub d with
  | some h => s.svcToken (8 + h) n k cnt (peerReq (reqEngine d))
  | none => s.tokenAdd n k cnt (peerReq (reqEngine d))

/-- A stream endpoint that engine d of partition p may use (08 R239). -/
def State.endpointOk (s : State) (p d v : Nat) : Bool :=
  decide (v < 16384) && s.partOfCore v == some p &&
  (match engHub d with
   | some h => coreX v == (if h = 0 then 0 else 255)
   | none => coreX v / 64 == engTile d % 4 && coreY v == (if engTile d < 4 then 0 else 63))

/-- The attachment that carries an engine's stream. -/
def streamAtt (d v : Nat) : Nat :=
  match engHub d with
  | some h => hubAtt h (coreY v)
  | none => attachChan (coreX v) (coreY v)

/-- The token fields that COPY, FILL and WALK share, for a transfer of `total` bytes counted in units of `unit`. -/
def State.tokenFieldsOk (s : State) (p : Nat) (d : BitVec 512) (total unit : Nat) : Bool :=
  decide (dTkt d < 16) && (dTcnt d == 0 || s.partOfCore (dTcore d) == some p) &&
  (dTgran d == 0 || (dTgran d % unit == 0 && total % dTgran d == 0))

/-- Every field of a COPY or FILL descriptor is legal (08 R239–R241). -/
def State.dmaLegal (s : State) (p eng : Nat) (d : BitVec 512) : Bool :=
  let top := if (engHub eng).isSome then 3 else 2
  let addrOk (t a : Nat) : Bool := t != 2 || s.endpointOk p eng a
  (dOp d == 1 || dOp d == 2) && dfield d 1 1 % 8 == 0 && decide (dSrct d ≤ top) && decide (dDstt d ≤ top) &&
  decide (0 < dLen d) && dLen d % 64 == 0 && dfield d 28 4 == 0 && dfield d 56 7 == 0 &&
  s.tokenFieldsOk p d (dLen d) 64 && (dOp d == 2 || addrOk (dSrct d) (dSrc d)) && addrOk (dDstt d) (dDst d) &&
  (dXpose d == 0 || (dLen d % 4096 == 0 && (dOp d == 2 || dSpitch d % 64 == 0)))

/-! ## Fetch and start -/

/-- Whether engines of a partition may start a descriptor (17 R528). -/
def State.engineMay (s : State) (p : Nat) : Bool := s.partIn p [.running, .paused]

/-- Whether an address lies on a channel that engine d reaches by address (08 R238). -/
def engReach (d a : Nat) : Bool :=
  (engHub d).isSome || !isHbm a || chanOfAddr a / 64 == engTile d

/-- Partition-relative address of the descriptor at the engine's position. -/
def Engine.descAt (e : Engine) : Nat := e.base + 64 * e.pos

/-- Reads memory for an engine: hub engines through the common cache (08 R245). -/
def State.engRead (s : State) (d a n : Nat) : Bytes × Nat × State :=
  match engHub d with
  | some _ => s.ccRead (s.partOfEngine d) a n
  | none => s.devRead a n

/-- Writes memory for an engine, invalidating lines of a shared window (08 R245). -/
def State.engWrite (s : State) (d a : Nat) (w : Window) (bs : Bytes) (poi : Bool) : State :=
  match engHub d with
  | some _ => s.ccWrite (s.partOfEngine d) a bs poi
  | none =>
    let s := s.devWrite a bs poi
    if w.shared then s.invalidate a bs.length else s

/-- Fetches the descriptor at the engine's ring position, when it is posted: its STATUS byte reads 0xFF (08 R239). One that is
poisoned counts as illegal; of a ring off the engine's channels nothing is fetched (08 R238). Returns the descriptor with whether it is
readable, or none. -/
def State.fetchDesc (s : State) (d p : Nat) : Option (BitVec 512 × Bool × State) :=
  let e := s.engine d
  if e.len = 0 then none else
  match s.translate p e.descAt .read with
  | none => none
  | some (a, _) =>
    if !engReach d a then none else
    let r := s.engRead d a 64
    if r.2.1 = 0 ∧ (r.1.getD 63 0) ≠ 0xFF then none
    else some (BitVec.ofNat 512 (leVal r.1), r.2.1 == 0, r.2.2)

/-- Whether the engine's trigger has come (08 R239). -/
def State.triggered (s : State) (d : Nat) (x : BitVec 512) : Bool :=
  !dTrig x || decide (dStep x ≤ (s.core (s.engine d).watch).seq.step.toNat)

/-- The common part of starting a descriptor that is `mine`: fetch it once, check it, start it when its trigger has come. An
illegal one starts with its outcome settled. -/
def State.startDesc (s : State) (d : Nat) (mine : BitVec 512 → Bool) (legal : State → Nat → BitVec 512 → Bool)
    (begin_ : State → Nat → State) : State :=
  match s.partOfEngine d with
  | none => s
  | some p =>
    let e := s.engine d
    if e.active ∨ !s.engineMay p then s else
    let fetched : Option (BitVec 512 × Bool × State) :=
      if e.fetched then some (e.desc, true, s) else s.fetchDesc d p
    match fetched with
    | none => s
    | some (x, ok, s1) =>
      if ok && !mine x then s else
      let e1 := { s1.engine d with desc := x, moved := 0, bytes := 0, xrows := [], xout := 0, first := [], fullAt := none,
                                   status := 0, walk := Walk.reset, startAt := s1.timebase,
                                   fetchAt := if e.fetched then e.fetchAt else s1.timebase }
      if !ok || !legal s1 p x then
        s1.setEngine d { e1 with active := true, fetched := false, status := St.badArgument }
      else if s1.triggered d x then
        let s2 := s1.setEngine d { e1 with active := true, fetched := false }
        let s2 := if dTrig x then
            s2.traceHub (hubOfEngine d) p d 0x10 (e1.pos % 65536) 0 (s1.timebase - e1.fetchAt) (peerCore e1.watch).toNat 0 0
          else s2
        begin_ s2 p
      else s1.setEngine d { e1 with fetched := true }

/-- DMA_COPY (08 R239): the COPY descriptor at engine d's ring position starts; one with an illegal OP ends at once (R241). -/
def execDmaCopy (d : EngineId) (s : State) : Host.Outcome State Fault Refusal :=
  .next (s.startDesc d (fun x => dOp x != 2 && dOp x != 3) (fun s p x => s.dmaLegal p d x) (fun s _ => s))

/-- DMA_FILL (08 R239). -/
def execDmaFill (d : EngineId) (s : State) : Host.Outcome State Fault Refusal :=
  .next (s.startDesc d (fun x => dOp x == 2) (fun s p x => s.dmaLegal p d x) (fun s _ => s))

/-! ## Moving data (08 R240, R241) -/

/-- The graver of two statuses: the row nearest the foot of 08 R241's table. -/
def statusRank (c : Nat) : Nat :=
  if c = St.poisoned then 1 else if c = St.uncorrectable then 2 else if c = St.accessFault then 3
  else if c = St.badArgument then 4 else 0
def worse (a b : Nat) : Nat := if statusRank a ≥ statusRank b then a else b

/-- A granule's device address for an engine: inside a window of its type, within its reach (08 R241, R255). The 64 bytes of one whose address
is no multiple of 64 lie in one run of device addresses, or it is outside the windows (DESIGN CHOICE, log 93). -/
def State.engAddr (s : State) (p d t pa : Nat) (acc : Acc) : Option (Nat × Window) :=
  match s.translateRange p pa 64 acc with
  | some (a, w) => if w.typ = t ∧ engReach d a ∧ engReach d (a + 63) then some (a, w) else none
  | none => none

/-- Tokens for k more delivered bytes (08 R241). -/
def State.deliver (s : State) (d : Nat) (k : Nat) (data : Bytes) : State :=
  let e := s.engine d
  let x := e.desc
  let b := e.bytes + k
  let n := if dTgran x = 0 then 0 else b / dTgran x - e.bytes / dTgran x
  let s := s.setEngine d { e with bytes := b, first := if e.first.isEmpty then data.take 4 else e.first }
  if n * dTcnt x = 0 then s else s.engToken d (dTcore x) (dTkt x) (n * dTcnt x)

/-- Room for a flit at the stream destination of engine d (06 R185, 08 R241, R242). -/
def State.streamRoom (s : State) (d v : Nat) : Bool :=
  let t := s.att (streamAtt d v)
  match engHub d with
  | some _ => decide (t.queue.length < 64)
  | none => decide (t.ingress.length < 64)

/-- Places a flit in a stream's buffer. -/
def State.streamPut (s : State) (d v : Nat) (pay : BitVec 512) (poi : Bool) : State :=
  let i := streamAtt d v
  let t := s.att i
  match engHub d with
  | some _ => s.setAtt i { t with queue := t.queue ++ [(Flit.mk' pay poi, d)] }
  | none => s.setAtt i { t with ingress := t.ingress ++ [Flit.mk' pay poi] }

/-- The engine waits at a full ingress buffer (20 R610). -/
def State.waitFull (s : State) (d : Nat) : State :=
  let e := s.engine d
  s.setEngine d { e with fullAt := e.fullAt.or (some s.timebase) }
/-- The wait, if there was one, has ended. -/
def State.endFull (s : State) (d v : Nat) : State :=
  let e := s.engine d
  match e.fullAt, s.partOfEngine d with
  | some t, some p =>
    (s.setEngine d { e with fullAt := none }).traceHub (hubOfEngine d) p d 0x12 (e.pos % 65536) 0 (s.timebase - t)
      (peerCore v).toNat 0 0
  | _, _ => s

/-- How the host answers a read of a hub engine (17 R532). -/
def hostStatus : HostKind → Nat
  | .ok => St.ok
  | .poisoned => St.poisoned
  | .aborted => St.uncorrectable

/-- A source granule: none when a stream has none yet; else its bytes, the status it contributes, and the state with it taken.
After an ACCESS_FAULT no further granule is read, and a FILL's are poisoned as well (08 R241). The spec does not
say what bytes a poisoned granule holds that was not read: they are free. -/
def State.srcGranule (s : State) (p d i : Nat) (kind : HostKind) (host : BitVec 512) : Option (Bytes × Nat × State) :=
  let e := s.engine d
  let x := e.desc
  if dOp x = 2 then some (leBytes 64 ((List.range 8).foldl (fun a k => a + dFillv x * 2 ^ (64 * k)) 0),
    if e.status = St.accessFault then St.accessFault else St.ok, s)
  else if e.status = St.accessFault then some (leBytes 64 (s.free 512).1.toNat, St.accessFault, (s.free 512).2)
  else
    let a := if dXpose x = 0 then dSrc x + 64 * i else dSrc x + i * dSpitch x
    match dSrct x with
    | 2 =>
      let k := streamAtt d (dSrc x)
      let t := s.att k
      (match t.egress with
       | [] => none
       | f :: fs => some (leBytes 64 f.pay.toNat, if f.poison then St.poisoned else St.ok, s.setAtt k { t with egress := fs }))
    | 3 =>
      let s := (s.tally (some p) 6 (Cnt.pciePart p 2) 64).tally none 6 (Cnt.pcie 0 1) 64
      if kind = .aborted then some (leBytes 64 (s.free 512).1.toNat, hostStatus kind, (s.free 512).2)
      else some (leBytes 64 host.toNat, hostStatus kind, s)
    | t =>
      match s.engAddr p d t a .read with
      | none => some (leBytes 64 (s.free 512).1.toNat, St.accessFault, (s.free 512).2)
      | some (a, _) =>
        let r := s.engRead d a 64
        some (r.1, badStatus r.2.1, r.2.2)

/-- Engine d's destination is a stream of its hub, whose bytes are delivered when the crossing has brought them to the ingress buffer (06 R185,
R194, 08 R241). -/
def State.viaHub (s : State) (d : Nat) : Bool := (engHub d).isSome && dDstt (s.engine d).desc == 2

/-- Writes destination granule i; an address outside the windows makes the descriptor end with ACCESS_FAULT. -/
def State.dstGranule (s : State) (p d i : Nat) (bs : Bytes) (poi : Bool) : State :=
  let x := (s.engine d).desc
  let s := match dDstt x with
    | 2 => (s.endFull d (dDst x)).streamPut d (dDst x) (BitVec.ofNat 512 (leVal bs)) poi
    | 3 =>
      let s := (s.tally (some p) 6 (Cnt.pciePart p 3) 64).tally none 6 (Cnt.pcie 0 0) 64
      s.send (.hostWrite 0 (dDst x + 64 * i) bs poi)
    | t =>
      match s.engAddr p d t (dDst x + 64 * i) .write with
      | some (a, w) => s.engWrite d a w bs poi
      | none =>
        let e := s.engine d
        s.setEngine d { e with status := worse e.status St.accessFault }
  let e := s.engine d
  let s := s.setEngine d { e with moved := i + 1 }
  if s.viaHub d then s else s.deliver d 64 bs

/-- Output granule k of the transpose of a block of 64 rows (08 R240): its bytes, and whether a row it takes elements from is
poisoned. -/
def xposeGranule (mode : Nat) (rows : List (Bytes × Bool)) (k : Nat) : Bytes × Bool :=
  let w := match mode with
    | 1 => 8
    | 2 => 16
    | _ => 4
  let per := 512 / w
  let el (r j : Nat) : Nat := leVal ((rows.getD r ([], false)).1) / 2 ^ (w * j) % 2 ^ w
  -- element number e of the block in its transposed order is (row e % 64, column e / 64)
  let es := (List.range per).map (fun i => k * per + i)
  (leBytes 64 (es.foldr (fun e acc => el (e % 64) (e / 64) + 2 ^ w * acc) 0),
   es.any (fun e => (rows.getD (e % 64) ([], false)).2))

/-- DMA_GRANULE_MOVE (08 R241): engine d moves a granule of its COPY or FILL descriptor, or takes one row of a block that it
transposes. `kind` and `host` are what the host answers when the source is HOST. A parity failure on the way poisons the granule and leaves
the status alone (17 R517). -/
def execDmaGranuleMove (d : EngineId) (kind : HostKind) (host : BitVec 512) (s : State) :
    Host.Outcome State Fault Refusal :=
  match s.partOfEngine d with
  | none => .next s
  | some p =>
    let e := s.engine d
    let x := e.desc
    if !e.active ∨ s.dev = .hold ∨ e.status = St.badArgument ∨ dOp x = 3 ∨ e.moved * 64 ≥ dLen x then .next s
    else if dDstt x = 2 ∧ !s.streamRoom d (dDst x) ∧ (dOp x = 2 ∨ dXpose x = 0 ∨ e.xrows.length = 64) then
      .next (s.waitFull d)
    else if dOp x = 2 ∨ dXpose x = 0 then
      match s.srcGranule p d e.moved kind host with
      | none => .next s
      | some (bs, st, s) =>
        let q := s.parity (2 + d.val)
        let e := q.2.engine d
        let s := q.2.setEngine d { e with status := worse e.status st }
        .next (s.dstGranule p d e.moved bs (st != St.ok || q.1))
    else if e.xrows.length < 64 then
      match s.srcGranule p d (e.moved + e.xrows.length) kind host with
      | none => .next s
      | some (bs, st, s) =>
        let q := s.parity (2 + d.val)
        let e := q.2.engine d
        .next (q.2.setEngine d { e with status := worse e.status st, xrows := e.xrows ++ [(bs, st != St.ok || q.1)] })
    else
      let g := xposeGranule (dXpose x) e.xrows e.xout
      let s := s.dstGranule p d e.moved g.1 (g.2 || e.status = St.accessFault)
      let e := s.engine d
      let k := e.xout + 1
      .next (s.setEngine d (if k = 64 then { e with xrows := [], xout := 0 } else { e with xout := k }))

/-! ## The end -/

/-- An engine's running descriptor ends (08 R239, R241): its STATUS is written, the tokens it still owes of `total` bytes are raised, and the
engine goes on to the next place of its ring. A descriptor that ends with BAD_ARGUMENT faults the partition. -/
def State.endDescriptor (s : State) (d p st total : Nat) : State :=
  let s := if st = St.badArgument ∨ dTgran (s.engine d).desc = 0 then s else s.deliver d (total - (s.engine d).bytes) []
  let e := s.engine d
  let x := e.desc
  let s := match s.translate p (e.descAt + 63) .write with
    | some (a, w) => if engReach d a then s.engWrite d a w [BitVec.ofNat 8 st] false else s
    | none => s
  let s := s.setEngine d { e with active := false, fetched := false, ended := e.ended + 1, pos := (e.pos + 1) % max 1 e.len, status := 0, moved := 0,
                                  bytes := 0, xrows := [], xout := 0, fullAt := none, walk := Walk.reset }
  let tok := if dTcnt x = 0 then 0 else (peerCore (dTcore x)).toNat
  let s := s.traceHub (hubOfEngine d) p d 0x11 (e.pos % 65536) st (s.timebase - e.startAt) tok (leVal e.first) 1
  if st = St.badArgument then s.faultPart p 0x46 none
  else if dTgran x = 0 ∧ dTcnt x ≠ 0 then s.engToken d (dTcore x) (dTkt x) (dTcnt x)
  else s

end Sys2Proof.Machine
end

