-- ==== Sys2Proof/Machine/Walk.lean ====
section
/-! DEFINITION. The KV walker: records, page lists, pages, APPEND and GATHER (10 R285–R312, 17 R533). -/

namespace Sys2Proof.Machine

/-! ## Layout (10 R286, R287, R295) -/

/-- Element and scale bytes of a record (10 R286). -/
def kvEb (fmt hd : Nat) : Nat := if fmt = 0 then hd else if fmt = 1 then hd / 2 else 2 * hd
def kvSb (fmt hd : Nat) : Nat := if fmt = 1 then hd / 32 else 0
/-- Tokens per page. -/
def kvTpp (fmt hd : Nat) : Nat := 65536 / (kvEb fmt hd + kvSb fmt hd) / 64 * 64

/-- A sequence entry (10 R289). -/
structure SeqEntry where
  state : Nat
  part : Nat
  fmt : Nat
  pool : Nat
  len : Nat
  sparse : Bool
  nglobal : Nat
  wblk : Nat
  listblks : Nat
  list : Nat
  stream : Nat
  parent : Nat
  gen : Nat
deriving DecidableEq, Repr

def SeqEntry.of (x : Nat) : SeqEntry :=
  { state := fieldOf x 0 1 % 8, part := fieldOf x 1 1 % 64, fmt := fieldOf x 2 1 % 16, pool := fieldOf x 3 1 % 16,
    len := fieldOf x 4 4, sparse := bitOf (fieldOf x 8 4) 31, nglobal := fieldOf x 8 4 / 2 ^ 24 % 128,
    wblk := fieldOf x 8 4 % 65536, listblks := fieldOf x 12 4, list := fieldOf x 16 8,
    stream := fieldOf x 24 4 % 2 ^ 20, parent := fieldOf x 28 4, gen := fieldOf x 32 8 }

/-- Streams per block (10 R285), the index of a block's entry and of the global page's (10 R295). -/
def KvLayout.spb (k : KvLayout) : Nat := k.layers * 2 * k.heads
def KvLayout.stream (k : KvLayout) (layer kv head : Nat) : Nat := (layer * 2 + kv) * k.heads + head
def listIndex (k : KvLayout) (q : SeqEntry) (b s : Nat) : Nat :=
  if q.sparse then b % (q.wblk + 1) * k.spb + s else b * k.spb + s
def globalIndex (k : KvLayout) (q : SeqEntry) (s : Nat) : Nat := (q.wblk + 1) * k.spb + s
/-- Positions a sequence may hold (10 R295). -/
def posLimit (k : KvLayout) (q : SeqEntry) : Nat :=
  if q.sparse then 4194304 else min 131072 (q.listblks * kvTpp q.fmt k.hd)

/-- A page-list entry's fields (10 R294). -/
def plValid (e : DWord) : Bool := e.getLsbD 63
def plRes (e : DWord) : Bool := e.getLsbD 62
def plOwn (e : DWord) : Bool := e.getLsbD 61
def plPool (e : DWord) : Nat := e.toNat / 2 ^ 56 % 16
def plBlock (e : DWord) : Nat := e.toNat / 2 ^ 32 % 65536
def plPage (e : DWord) : Nat := e.toNat % 2 ^ 32
/-- A new entry that names a resident page. -/
def plNew (page pool block : Nat) : DWord :=
  BitVec.ofNat 64 (2 ^ 63 + 2 ^ 62 + 2 ^ 61 + pool % 16 * 2 ^ 56 + block % 65536 * 2 ^ 32 + page % 2 ^ 32)

/-- A tag of the append ring (04 R120). -/
structure Tag where
  chunk : Nat
  layer : Nat
  head : Nat
  raw : Bool
  kv : Nat
  seq : Nat
  pos : Nat
deriving DecidableEq, Repr

def Tag.of (w : DWord) : Tag :=
  { chunk := fld w 59 5, layer := fld w 51 8, head := fld w 44 7, raw := fld w 43 1 == 1, kv := fld w 42 1,
    seq := fld w 22 20, pos := fld w 0 22 }

/-- A chunk's place in its record: offset in the page and bytes; none outside the record (10 R287). -/
def chunkAt (fmt hd c row : Nat) : Option (Nat × Nat) :=
  let eb := kvEb fmt hd
  let sb := kvSb fmt hd
  if c < eb / 32 then some (row * eb + 32 * c, 32)
  else if c = 31 ∧ sb > 0 then some (kvTpp fmt hd * eb + row * sb, sb)
  else none

/-! ## Control data (17 R533) -/

/-- Device address of a sequence entry. -/
def State.seqAddr (s : State) (q : Nat) : Nat := s.devFacet.seqtab + 128 * q
/-- The number lies in the partition's range (10 R288). -/
def State.seqMine (s : State) (p q : Nat) : Bool :=
  decide ((s.rec_ p).seqBase ≤ q) && decide (q < (s.rec_ p).seqBase + (s.rec_ p).seqCount)

def State.setWalk (s : State) (d : Nat) (w : Walk) : State := s.setEngine d { s.engine d with walk := w }

/-- A sequence entry, read at its first use in the descriptor: its fields, whether it is bad. -/
def State.walkSeq (s : State) (d q : Nat) : SeqEntry × Bool × State :=
  let w := (s.engine d).walk
  match SMap.find w.seqs q with
  | some (x, bad) => (SeqEntry.of x.toNat, bad, s)
  | none =>
    let r := s.devRead (s.seqAddr q) 128
    let x : BitVec 1024 := BitVec.ofNat 1024 (leVal r.1)
    (SeqEntry.of x.toNat, r.2.1 != 0, r.2.2.setWalk d { w with seqs := SMap.put w.seqs q (x, r.2.1 != 0) })

/-- n bytes of a page list (8 for an entry, 4 for a global-table word) at a partition-relative address, read at first use: the
word; none where the address fails translation or lies off the engine's channels (08 R238); and whether it is bad. -/
def State.walkList (s : State) (d p pa n : Nat) : Option (DWord × Bool) × State :=
  let w := (s.engine d).walk
  match SMap.find w.lists pa with
  | some x => (some x, s)
  | none =>
    match s.translate p pa .read with
    | none => (none, s)
    | some (a, _) =>
      if !engReach d a then (none, s) else
      let r := s.devRead a n
      let x : DWord × Bool := (BitVec.ofNat 64 (leVal r.1), r.2.1 != 0)
      (some x, r.2.2.setWalk d { w with lists := SMap.put w.lists pa x })

/-- The walker's copy of a page-list entry takes its own write. -/
def State.noteList (s : State) (d pa : Nat) (e : DWord) : State :=
  let w := (s.engine d).walk
  s.setWalk d { w with lists := SMap.put w.lists pa (e, false) }
def State.forgetList (s : State) (d pa : Nat) : State :=
  let w := (s.engine d).walk
  s.setWalk d { w with lists := SMap.del w.lists pa }

/-! ## Pages (10 R296–R300) -/

def KvLayout.pageAt (k : KvLayout) (page : Nat) : Nat := (k.kvbase + page) * 0x10000
def KvLayout.countAt (k : KvLayout) (page : Nat) : Nat := k.refbase + 2 * page

/-- An atomic at a partition-relative address, for an agent on a die; over a failed hop it is uncorrectable (17 R518). -/
def State.partAtomic (s : State) (die p pa : Nat) (f : State → Nat → ARes) : ARes :=
  match s.translate p pa .atomic with
  | some (a, _) => if s.svcLost die (8 + homeHub a) then ⟨St.uncorrectable, 0, s⟩ else f s a
  | none => ⟨St.accessFault, 0, s⟩

/-- The outcome of taking a page: the page, an empty pool, or a status. -/
inductive PageRes where
  | page (n : Nat)
  | empty
  | bad (status : Nat)
deriving DecidableEq, Repr

/-- POP from pool i of partition p. -/
def State.popPool (s : State) (die p : Nat) (k : KvLayout) (i : Nat) : PageRes × State :=
  let pl := k.pools.getD i (0, 0)
  if pl.1 = 0 then (.bad St.accessFault, s) else
  let r := s.partAtomic die p pl.1 (fun s h => s.pop (some p) h pl.2 (fun a => (s.translate p a .atomic).map (·.1)))
  if r.status = St.ok then (.page r.old, r.st)
  else if r.status = St.poolEmpty then (.empty, r.st)
  else (.bad (if r.status = St.accessFault then St.accessFault else St.uncorrectable), r.st)

/-- alloc (10 R297): a page with a count of 1. -/
def State.alloc (s : State) (die p : Nat) (k : KvLayout) (i : Nat) : PageRes × State :=
  let r := s.popPool die p k i
  match r.1 with
  | .page n =>
    let c := r.2.partAtomic die p (k.countAt n) (fun s a => s.refinc (some p) a)
    if c.status = St.ok then (.page n, c.st)
    else (.bad (if c.status = St.accessFault then St.accessFault else St.uncorrectable), c.st)
  | _ => r

/-- release (10 R297): false when the REFDEC or the PUSH failed. -/
def State.release (s : State) (die p : Nat) (k : KvLayout) (e : DWord) : Bool × State :=
  let c := s.partAtomic die p (k.countAt (plPage e)) (fun s a => s.refdec (some p) a)
  if c.status ≠ St.ok then (false, c.st)
  else if c.old = 1 then
    let pl := k.pools.getD (plPool e) (0, 0)
    let r := c.st.partAtomic die p pl.1 (fun s h => s.push (some p) h pl.2 (plPage e) (fun a => (s.translate p a .atomic).map (·.1)))
    (r.status == St.ok, r.st)
  else (true, c.st)

/-- A walker's release: a failure counts in REF_ERR_COUNT (10 R312). -/
def State.walkRelease (s : State) (d p : Nat) (k : KvLayout) (e : DWord) : State :=
  let r := s.release (engDie d) p k e
  if r.1 then r.2 else r.2.countField (Reg.walkStatus d) 4 4 1

/-- Where a page lies, when the partition may touch it so and engine d reaches it (10 R296, R306). -/
def State.pageDev (s : State) (p d : Nat) (k : KvLayout) (page : Nat) (acc : Acc) : Option (Nat × Window) :=
  s.engAddr p d 0 (k.pageAt page) acc

/-- A walker's write: at the memory itself, and lines of a shared window are invalidated (08 R245). -/
def State.walkWrite (s : State) (a : Nat) (w : Window) (bs : Bytes) (poi : Bool) : State :=
  let s := s.devWrite a bs poi
  if w.shared then s.invalidate a bs.length else s

/-- Copies a page granule by granule; a bad source granule is written poisoned. True when one was uncorrectable. -/
def State.copyPage (s : State) (src dst : Nat) (w : Window) : Nat → Bool × State
  | 0 => (false, s)
  | n + 1 =>
    let r := s.copyPage src dst w n
    let g := r.2.devRead (src + 64 * n) 64
    (r.1 || g.2.1 == 2, g.2.2.walkWrite (dst + 64 * n) w g.1 (g.2.1 != 0))

/-! ## Placing an entry (10 R305–R307) -/

/-- The end of a try to place an entry: written, with what it contributes; not written, likewise; no page yet; to be tried again
because the parent's entry changed under a copy. -/
inductive Placed where
  | done (status : Nat)
  | reject (status : Nat)
  | wait
  | again
deriving DecidableEq, Repr

/-- The entry at a page-list address made to name a page that the walker may write, with the block given (10 R300, R305): the page. -/
def State.ownPage (s : State) (d p : Nat) (k : KvLayout) (q : SeqEntry) (pa block : Nat) (e : DWord) :
    Sum Placed Nat × State :=
  let casList (s : State) (new : DWord) : ARes := s.partAtomic (engDie d) p pa (fun s a => s.cas64 (some p) a e.toNat new.toNat)
  if !plValid e ∨ plBlock e ≠ block then
    -- a new page; a ring slot's old page is released first, once
    let s := if plValid e ∧ ¬ (s.engine d).walk.released.contains pa
      then let s := s.walkRelease d p k e
        s.setWalk d { (s.engine d).walk with released := pa :: (s.engine d).walk.released }
      else s
    match s.alloc (engDie d) p k q.pool with
    | (.empty, s) => (.inl .wait, s)
    | (.bad st, s) => (.inl (.reject st), s)
    | (.page n, s) =>
      let new := plNew n q.pool block
      let r := casList s new
      if r.status ≠ St.ok then (.inl (.reject (if r.status = St.accessFault then St.accessFault else St.uncorrectable)),
        (r.st.walkRelease d p k new))
      else if r.old ≠ e.toNat then (.inl .again, (r.st.walkRelease d p k new).forgetList d pa)
      else
        let s := r.st.noteList d pa new
        (.inr n, s.setWalk d { (s.engine d).walk with released := (s.engine d).walk.released.erase pa })
  else if plOwn e then (.inr (plPage e), s)
  else
    match s.alloc (engDie d) p k q.pool with
    | (.empty, s) => (.inl .wait, s)
    | (.bad st, s) => (.inl (.reject st), s)
    | (.page n, s) =>
      let new := plNew n q.pool block
      match s.pageDev p d k (plPage e) .read, s.pageDev p d k n .write with
      | some (src, _), some (dst, w) =>
        let c := s.copyPage src dst w 1024
        let s := c.2.countField (Reg.walkStatus d) 8 8 1
        -- what the copy met is the entry's, on whichever try it is placed
        let s := s.setWalk d { (s.engine d).walk with copyBad := (s.engine d).walk.copyBad || c.1 }
        let r := casList s new
        if r.status ≠ St.ok then (.inl (.reject (if r.status = St.accessFault then St.accessFault else St.uncorrectable)),
          r.st.walkRelease d p k new)
        else if r.old ≠ e.toNat then (.inl .again, (r.st.walkRelease d p k new).forgetList d pa)
        else (.inr n, (r.st.walkRelease d p k e).noteList d pa new)
      | _, _ => (.inl (.reject St.accessFault), s.walkRelease d p k new)

/-- Writes a chunk into a page. -/
def State.putChunk (s : State) (d p : Nat) (k : KvLayout) (page off : Nat) (bs : Bytes) (poi : Bool) : Option State :=
  match s.pageDev p d k page .write with
  | some (a, w) => some (s.walkWrite (a + off) w bs poi)
  | none => none

/-- The valid global slot whose position is `pos` (10 R293, R305): the slot, or none; and whether a word was bad. -/
def State.globalSlot (s : State) (d p : Nat) (q : SeqEntry) (pos : Nat) : Nat → Option Nat × Bool × State
  | 0 => (none, false, s)
  | n + 1 =>
    let r := s.globalSlot d p q pos n
    let w := r.2.2.walkList d p (q.list + 4 * n) 4
    match w.1 with
    | some (x, bad) =>
      (if r.1.isSome then r.1 else if bad then none else if x.getLsbD 31 ∧ x.toNat % 2 ^ 22 = pos then some n else none,
       r.2.1 || bad, w.2)
    | none => (r.1, r.2.1, w.2)

/-- What a chunk's global place needs: the entry of the global page and the slot, when its position matches one (10 R305);
or why the entry is not written. -/
def State.globalNeed (s : State) (d p : Nat) (k : KvLayout) (q : SeqEntry) (st pos : Nat) :
    Sum Placed (Option (Nat × DWord × Nat)) × State :=
  if !q.sparse ∨ q.nglobal = 0 then (.inr none, s) else
  match s.globalSlot d p q pos (min 64 q.nglobal) with
  | (none, true, s) => (.inl (.reject St.uncorrectable), s)
  | (none, false, s) => (.inr none, s)
  | (some slot, _, s) =>
    let ga := q.list + 512 + 8 * globalIndex k q st
    match s.walkList d p ga 8 with
    | (none, s) => (.inl (.reject St.accessFault), s)
    | (some (_, true), s) => (.inl (.reject St.uncorrectable), s)
    | (some (ge, false), s) => (.inr (some (ga, ge, slot)), s)

/-- Writes a chunk at its places and raises LEN (10 R305). -/
def State.putEntry (s : State) (d p : Nat) (k : KvLayout) (t : Tag) (puts : List (Nat × Nat)) (bs : Bytes) (poi : Bool) :
    Placed × State :=
  let copied := (s.engine d).walk.copyBad
  if puts.any (fun x => (s.pageDev p d k x.1 .write).isNone) then (.reject St.accessFault, s) else
  -- an entry whose sequence entry cannot take the atomic MAX is not written (17 R533)
  let len := s.seqAddr t.seq + 4
  let line := s.atomicLine len
  if s.svcLost (engDie d) (8 + homeHub len) ∨ line.1 ≠ 0 then (.reject St.uncorrectable, line.2) else
  let s := puts.foldl (fun s x => (s.putChunk d p k x.1 x.2 bs poi).getD s) line.2
  let own := if copied then St.uncorrectable else if poi then St.poisoned else St.ok
  let r := s.rmw (some p) len 4 (fun o => (some (max o (t.pos + 1)), St.ok))
  (if r.status = St.ok then .done own else .reject St.uncorrectable, r.st)

/-- One try to place a ring entry (10 R305). -/
def State.place (s : State) (d p : Nat) (k : KvLayout) (tag : DWord) (chunk : BitVec 256) (poi : Bool) : Placed × State :=
  let t := Tag.of tag
  if !s.seqMine p t.seq then (.reject St.accessFault, s) else
  match s.walkSeq d t.seq with
  | (_, true, s) => (.reject St.uncorrectable, s)
  | (q, false, s) =>
    if q.part ≠ p ∨ q.state ≠ 1 ∨ q.fmt > 2 ∨ t.layer ≥ k.layers ∨ t.head ≥ k.heads ∨ t.pos ≥ posLimit k q then
      (.reject St.accessFault, s) else
    let tpp := kvTpp q.fmt k.hd
    let b := t.pos / tpp
    match chunkAt q.fmt k.hd t.chunk (t.pos % tpp) with
    | none => (.reject St.accessFault, s)
    | some (off, n) =>
      let st := k.stream t.layer t.kv t.head
      let pa := q.list + 512 + 8 * listIndex k q b st
      match s.walkList d p pa 8 with
      | (none, s) => (.reject St.accessFault, s)
      | (some (_, true), s) => (.reject St.uncorrectable, s)
      | (some (e, false), s) =>
        if q.sparse ∧ plValid e ∧ plBlock e > b then (.reject St.accessFault, s) else
        match s.globalNeed d p k q st t.pos with
        | (.inl x, s) => (x, s)
        | (.inr g, s) =>
          match s.ownPage d p k q pa b e with
          | (.inl x, s) => (x, s)
          | (.inr page, s) =>
            let bs := (leBytes 32 chunk.toNat).take n
            let poi := poi || (t.raw != (q.fmt == 2))
            match g with
            | none => s.putEntry d p k t [(page, off)] bs poi
            | some (ga, ge, slot) =>
              match s.ownPage d p k q ga 0 ge, chunkAt q.fmt k.hd t.chunk slot with
              | (.inr gpage, s), some (goff, _) =>
                s.putEntry d p k t [(page, off), (gpage, goff)] bs poi
              | (.inl x, s), _ => (x, s)
              | (_, s), none => (.reject St.accessFault, s)

/-- The head of the walker's queue has been dealt with. -/
def State.placedHead (s : State) (d p st : Nat) (rest : List (DWord × Bool × BitVec 256 × Bool)) (pool : Nat) (chunk : BitVec 256) : State :=
  let s := match (s.engine d).walk.retry with
    | some (t, n) =>
      (s.setField (Reg.walkStatus d) 2 1 0).traceHub (hubOfEngine d) p d 0x13 pool 0 (s.timebase - t) 0 n 0
    | none => s
  let e := s.engine d
  let w := { e.walk with queue := rest, retry := none, placed := e.walk.placed + 1, copyBad := false }
  (s.setEngine d { e with walk := w, status := worse e.status st }).deliver d 32 (leBytes 32 chunk.toNat)

/-- The head of the walker's queue is placed, or keeps waiting for a page (10 R298, R305, R306). An entry whose tag flit was
poisoned is not written (17 R533). -/
def State.placeHead (s : State) (d p : Nat) (k : KvLayout) : Nat → State
  | 0 => s
  | fuel + 1 =>
    match (s.engine d).walk.queue with
    | [] => s
    | (tag, tagBad, chunk, poi) :: rest =>
      let filler := !tagBad && (Tag.of tag).layer == 0xFF
      let r : Placed × State :=
        if tagBad then (.reject St.uncorrectable, s) else if filler then (.done St.ok, s) else s.place d p k tag chunk poi
      let pool := (r.2.walkSeq d (Tag.of tag).seq).1.pool
      match r.1 with
      | .again => r.2.placeHead d p k fuel
      | .wait =>
        let w := (r.2.engine d).walk
        let n := match w.retry with
          | some (t, n) => (t, n + 1)
          | none => (s.timebase, 0)
        ((r.2.setWalk d { w with retry := some n }).countField (Reg.walkStatus d) 16 8 1).setField (Reg.walkStatus d) 2 1 1
      | .done st => r.2.placedHead d p st rest pool chunk
      | .reject st => (r.2.countField (Reg.walkStatus d) 24 8 1).placedHead d p st rest pool chunk

def State.kvOf (s : State) (p : Nat) : Option KvLayout := (s.part p).facet.kv

/-! ## WALK descriptors (10 R302) -/

def wMode (x : BitVec 512) : Nat := dfield x 2 1
def wForm (x : BitVec 512) : Nat := dfield x 3 1
def wOrder (x : BitVec 512) : Nat := wForm x % 4
def wConv (x : BitVec 512) : Bool := bitOf (wForm x) 2
def wCount (x : BitVec 512) : Nat := dfield x 4 4
def wSeq (x : BitVec 512) : Nat := dfield x 8 4
def wLayer (x : BitVec 512) : Nat := dfield x 12 1
def wHead (x : BitVec 512) : Nat := dfield x 13 1 % 128
def wKv (x : BitVec 512) : Nat := dfield x 13 1 / 128
def wHcount (x : BitVec 512) : Nat := dfield x 14 2
def wEndpt (x : BitVec 512) : Nat := dfield x 16 8
def wP0 (x : BitVec 512) : Nat := dfield x 24 4

/-- Fields that both modes fix: FLAGS, the reserved bytes, the endpoint. -/
def State.walkCommon (s : State) (p d : Nat) (x : BitVec 512) : Bool :=
  dfield x 1 1 &&& 0xF7 == 0 && dfield x 28 4 == 0 && dfield x 48 15 == 0 && s.endpointOk p d (wEndpt x)

/-- An APPEND's fields (10 R302). -/
def State.appendLegal (s : State) (p d : Nat) (x : BitVec 512) : Bool :=
  s.walkCommon p d x && (s.kvOf p).isSome && wForm x == 0 && wCount x % 8 == 0 && decide (8 ≤ wCount x) &&
  decide (wCount x ≤ 65536) && dfield x 8 8 == 0 && wP0 x == 0 && s.tokenFieldsOk p x (32 * wCount x) 64

/-- The format and the globals a GATHER uses: its sequence entry's, and format 0 without globals where it has none that is legal. -/
def SeqEntry.view (q : SeqEntry) (mine : Bool) : Nat × Nat :=
  if mine && decide (q.fmt ≤ 2) then (q.fmt, if q.sparse then min 64 q.nglobal else 0) else (0, 0)

/-- Bytes of a GATHER's tile: elements, scales (10 R308). -/
def gatherTile (fmt hd : Nat) (conv : Bool) : Nat × Nat :=
  if conv then (16 * hd, 0) else (16 * kvEb fmt hd, (16 * kvSb fmt hd + 63) / 64 * 64)

/-- Tiles per head: of the globals, of the positions. -/
def gatherTiles (nglobal count : Nat) : Nat × Nat := ((nglobal + 15) / 16, (count + 15) / 16)

def gatherFlits (k : KvLayout) (x : BitVec 512) (v : Nat × Nat) : Nat :=
  let t := gatherTile v.1 k.hd (wConv x)
  let n := gatherTiles v.2 (wCount x)
  wHcount x * (n.1 + n.2) * ((t.1 + t.2) / 64)

/-- A GATHER's fields (10 R302, R308). -/
def State.gatherLegal (s : State) (p d : Nat) (x : BitVec 512) : Bool :=
  match s.kvOf p with
  | none => false
  | some k =>
    let mine := s.seqMine p (wSeq x)
    let v := if mine then SeqEntry.view (s.walkSeq d (wSeq x)).1 true else (0, 0)
    s.walkCommon p d x && decide (wForm x < 8) && wOrder x != 3 && decide (1 ≤ wCount x) && decide (wCount x ≤ 131072) &&
    decide (wSeq x < 2 ^ 20) && decide (wLayer x < k.layers) && decide (1 ≤ wHcount x) && decide (wHcount x ≤ 128) &&
    decide (wHead x + wHcount x ≤ k.heads) && (!wConv x || v.1 == 1) && !(wOrder x == 2 && v.1 == 1 && !wConv x) &&
    s.tokenFieldsOk p x (64 * gatherFlits k x v) 64

/-! ## APPEND (10 R303) -/

/-- Takes one flit of the stream: the tag flit of a group, or a data flit with two entries. -/
def State.takeAppend (s : State) (d : Nat) : State :=
  let e := s.engine d
  let w := e.walk
  let i := streamAtt d (wEndpt e.desc)
  let t := s.att i
  if w.sent ≥ wCount e.desc / 8 * 5 then s else
  match t.egress with
  | [] => s
  | f :: fs =>
    let q := (s.setAtt i { t with egress := fs }).parity (2 + d)
    let s := q.2
    let f := { f with poison := f.poison || q.1 }
    match w.tags with
    | a :: b :: rest =>
      let lo := f.pay.extractLsb' 0 256
      let hi := f.pay.extractLsb' 256 256
      s.setWalk d { w with tags := rest, sent := w.sent + 1,
                           queue := w.queue ++ [(a.1, a.2, lo, f.poison), (b.1, b.2, hi, f.poison)] }
    | _ =>
      s.setWalk d { w with
        sent := w.sent + 1, tags := (List.range 8).map (fun j => (f.pay.extractLsb' (64 * j) 64, f.poison)) }

/-- WALK_APPEND (10 R303): the APPEND descriptor at engine d's ring position starts; while it runs, the walker takes the next
arrived flit of its ring entry groups. -/
def execWalkAppend (d : EngineId) (s : State) : Host.Outcome State Fault Refusal :=
  if s.dev = .hold then .next s else
  let e := s.engine d
  if e.active ∧ dOp e.desc = 3 ∧ wMode e.desc = 1 ∧ e.status ≠ St.badArgument then .next (s.takeAppend d)
  else .next (s.startDesc d (fun x => dOp x == 3 && wMode x != 0) (fun s p x => wMode x == 1 && s.appendLegal p d x)
    (fun s _ => s.setField (Reg.walkStatus d) 0 1 1))

/-- APPEND_ENTRY_PLACE (10 R305): the walker places the ring entry at the head of its queue. -/
def execAppendEntryPlace (d : EngineId) (s : State) : Host.Outcome State Fault Refusal :=
  match s.partOfEngine d with
  | none => .next s
  | some p =>
    let e := s.engine d
    match s.kvOf p with
    | none => .next s
    | some k =>
      if s.dev = .hold ∨ !e.active ∨ e.status = St.badArgument ∨ e.walk.retry.isSome then .next s else .next (s.placeHead d p k 3)

/-- POOL_POP_RETRY (10 R298): 1 µs has passed since the walker's POP returned POOL_EMPTY. -/
def execPoolPopRetry (d : EngineId) (s : State) : Host.Outcome State Fault Refusal :=
  match s.partOfEngine d with
  | none => .next s
  | some p =>
    let e := s.engine d
    match s.kvOf p with
    | none => .next s
    | some k => if s.dev = .hold ∨ !e.active ∨ e.walk.retry.isNone then .next s else .next (s.placeHead d p k 3)

/-! ## GATHER (10 R308–R310) -/

/-- A record as read: element bytes, scale bytes, each with its granule's poison; and what it contributes. -/
structure Rec where
  eb : List (Byte × Bool)
  sb : List (Byte × Bool)
  status : Nat
deriving DecidableEq, Repr

def zeroRec (eb sb : Nat) : Rec := ⟨List.replicate eb (0, false), List.replicate sb (0, false), St.ok⟩
def poisonRec (eb sb st : Nat) : Rec := ⟨List.replicate eb (0, true), List.replicate sb (0, true), st⟩

/-- Bytes at a device address, granule by granule. -/
def State.readBytes (s : State) (a n : Nat) : List (Byte × Bool) × Nat × State :=
  (List.range ((a % 64 + n + 63) / 64)).foldl (fun (acc : List (Byte × Bool) × Nat × State) i =>
    let lo := max a (a / 64 * 64 + 64 * i)
    let hi := min (a + n) (a / 64 * 64 + 64 * i + 64)
    let r := acc.2.2.devRead lo (hi - lo)
    (acc.1 ++ r.1.map (fun b => (b, r.2.1 != 0)), worse acc.2.1 (badStatus r.2.1), r.2.2)) ([], St.ok, s)

/-- The record in row r of the page that an entry names (10 R287, R310). -/
def State.readRecord (s : State) (d p : Nat) (k : KvLayout) (fmt row pa block : Nat) : Rec × State :=
  let eb := kvEb fmt k.hd
  let sb := kvSb fmt k.hd
  match s.walkList d p pa 8 with
  | (none, s) => (poisonRec eb sb St.accessFault, s)
  | (some (_, true), s) => (poisonRec eb sb St.uncorrectable, s)
  | (some (e, false), s) =>
    if !plValid e ∨ !plRes e ∨ plBlock e ≠ block then (poisonRec eb sb St.accessFault, s) else
    match s.pageDev p d k (plPage e) .read with
    | none => (poisonRec eb sb St.accessFault, s)
    | some (a, _) =>
      let x := s.readBytes (a + row * eb) eb
      let y := x.2.2.readBytes (a + kvTpp fmt k.hd * eb + row * sb) sb
      (⟨x.1, y.1, worse x.2.1 y.2.1⟩, y.2.2)

/-- Whether the GATHER's sequence may be read: OPEN, in the walker's partition (10 R310); and whether its entry is bad. -/
def State.gatherSeq (s : State) (d p q : Nat) : SeqEntry × Nat × State :=
  if !s.seqMine p q then (SeqEntry.of 0, St.accessFault, s) else
  let r := s.walkSeq d q
  (r.1, if r.2.1 then St.uncorrectable else if r.1.part = p ∧ r.1.state = 1 ∧ r.1.fmt ≤ 2 then St.ok else St.accessFault, r.2.2)

/-- The record for the j-th place of tile `t` of a head: a global slot or a position (10 R308, R309). -/
def State.gatherRec (s : State) (d p : Nat) (k : KvLayout) (x : BitVec 512) (fmt nglob head t j : Nat) : Rec × State :=
  let eb := kvEb fmt k.hd
  let sb := kvSb fmt k.hd
  let g := s.gatherSeq d p (wSeq x)
  let q := g.1
  let s := g.2.2
  let len := (s.engine d).walk.len
  let st := k.stream (wLayer x) (wKv x) head
  let gt := (gatherTiles nglob 0).1
  if t < gt then
    let slot := 16 * t + j
    if slot ≥ nglob then (zeroRec eb sb, s)
    else if g.2.1 ≠ St.ok then (poisonRec eb sb g.2.1, s)
    else
      match s.walkList d p (q.list + 4 * slot) 4 with
      | (none, s) => (poisonRec eb sb St.accessFault, s)
      | (some (_, true), s) => (poisonRec eb sb St.uncorrectable, s)
      | (some (w, false), s) =>
        let pos := w.toNat % 2 ^ 22
        if !w.getLsbD 31 ∨ wP0 x ≤ pos then (zeroRec eb sb, s)
        else if pos ≥ len then (poisonRec eb sb St.accessFault, s)
        else s.readRecord d p k fmt slot (q.list + 512 + 8 * globalIndex k q st) 0
  else
    let i := 16 * (t - gt) + j
    if i ≥ wCount x then (zeroRec eb sb, s)
    else if g.2.1 ≠ St.ok then (poisonRec eb sb g.2.1, s)
    else
      let pos := wP0 x + i
      if pos ≥ len ∨ pos ≥ posLimit k q then (poisonRec eb sb St.accessFault, s) else
      let b := pos / kvTpp fmt k.hd
      s.readRecord d p k fmt (pos % kvTpp fmt k.hd) (q.list + 512 + 8 * listIndex k q b st) b

/-- Element d of a record, and its poison: as stored, or multiplied by its scale and converted to E4M3 (10 R308). -/
def Rec.elem (r : Rec) (fmt : Nat) (conv : Bool) (d : Nat) : Nat × Bool :=
  let by_ (i : Nat) : Byte × Bool := r.eb.getD i (0, false)
  match fmt with
  | 0 => ((by_ d).1.toNat, (by_ d).2)
  | 2 => ((by_ (2 * d)).1.toNat + 256 * (by_ (2 * d + 1)).1.toNat, (by_ (2 * d)).2 || (by_ (2 * d + 1)).2)
  | _ =>
    let b := by_ (d / 2)
    let code := if d % 2 = 0 then b.1.toNat % 16 else b.1.toNat / 16
    if !conv then (code, b.2) else
    let sc := r.sb.getD (d / 32) (0, false)
    ((cvtFloat .e4m3 true ((Fmt.elem .mxfp4 code).mul (e8m0 sc.1.toNat)).1).1, b.2 || sc.2)

/-- Width of a gathered element. -/
def gatherWidth (fmt : Nat) (conv : Bool) : Nat := if fmt = 2 then 16 else if fmt = 1 ∧ !conv then 4 else 8

/-- The flits of one tile (10 R308): element flits in ORDER, then scale flits. -/
def tileFlits (fmt hd order : Nat) (conv : Bool) (rs : List Rec) : List (BitVec 512 × Bool) :=
  let w := gatherWidth fmt conv
  let per := 512 / w
  let rec_ (j : Nat) : Rec := rs.getD j (zeroRec 0 0)
  let at_ (e : Nat) : Nat × Bool :=
    match order with
    | 0 => (rec_ (e / hd)).elem fmt conv (e % hd)
    | 1 => (rec_ (e % 16)).elem fmt conv (e / 16)
    | _ => (rec_ (e % 256 / 16)).elem fmt conv (16 * (e / 256) + e % 16)
  let els := (List.range (16 * hd / per)).map (fun f =>
    let es := (List.range per).map (fun i => at_ (f * per + i))
    (BitVec.ofNat 512 (es.foldr (fun e acc => e.1 + 2 ^ w * acc) 0), es.any (·.2)))
  let sb := if conv then 0 else kvSb fmt hd
  let scs := (List.range ((16 * sb + 63) / 64)).map (fun f =>
    let bs := (List.range 64).map (fun i =>
      let y := 64 * f + i
      if y < 16 * sb then (rec_ (y % 16)).sb.getD (y / 16) (0, false) else (0, false))
    (BitVec.ofNat 512 (leVal (bs.map (·.1))), bs.any (·.2)))
  els ++ scs

/-- Reads the tile that flit `sent` begins (10 R308). -/
def State.loadTile (s : State) (d p : Nat) (k : KvLayout) : State :=
  let x := (s.engine d).desc
  let g := s.gatherSeq d p (wSeq x)
  let v := g.1.view (s.seqMine p (wSeq x))
  let t := gatherTile v.1 k.hd (wConv x)
  let n := gatherTiles v.2 (wCount x)
  let i := (g.2.2.engine d).walk.sent / ((t.1 + t.2) / 64)
  let head := wHead x + i / (n.1 + n.2)
  let r := (List.range 16).foldl (fun (acc : List Rec × State) j =>
    let y := acc.2.gatherRec d p k x v.1 v.2 head (i % (n.1 + n.2)) j
    (acc.1 ++ [y.1], y.2)) ([], g.2.2)
  let s := r.2
  let e := s.engine d
  let st := (r.1.map (·.status)).foldl worse e.status
  s.setEngine d { e with status := st, walk := { e.walk with tile := tileFlits v.1 k.hd (wOrder x) (wConv x) r.1 } }

/-- Sends the next flit of a GATHER, when the ingress buffer has room. -/
def State.gatherFlit (s : State) (d p : Nat) (k : KvLayout) : State :=
  let e := s.engine d
  let x := e.desc
  let v := (s.gatherSeq d p (wSeq x)).1.view (s.seqMine p (wSeq x))
  if e.walk.sent ≥ gatherFlits k x v then s
  else if !s.streamRoom d (wEndpt x) then s.waitFull d
  else
    let s := if e.walk.tile.isEmpty then s.loadTile d p k else s
    match (s.engine d).walk.tile with
    | [] => s
    | f :: fs =>
      let q := s.parity (2 + d)
      let s := (q.2.endFull d (wEndpt x)).streamPut d (wEndpt x) f.1 (f.2 || q.1)
      let w := (s.engine d).walk
      (s.setWalk d { w with tile := fs, sent := w.sent + 1 }).deliver d 64 (leBytes 64 f.1.toNat)

/-- WALK_GATHER (10 R308): the GATHER descriptor at engine d's ring position starts, reading the sequence's LEN; while it runs, the
walker sends its next flit. -/
def execWalkGather (d : EngineId) (s : State) : Host.Outcome State Fault Refusal :=
  if s.dev = .hold then .next s else
  let e := s.engine d
  if e.active ∧ dOp e.desc = 3 ∧ wMode e.desc = 0 ∧ e.status ≠ St.badArgument then
    match s.partOfEngine d with
    | none => .next s
    | some p =>
      match s.kvOf p with
      | none => .next s
      | some k => .next (s.gatherFlit d p k)
  else .next (s.startDesc d (fun x => dOp x == 3 && wMode x == 0) (fun s p x => s.gatherLegal p d x) (fun s p =>
    let g := s.gatherSeq d p (wSeq (s.engine d).desc)
    let s := g.2.2
    (s.setWalk d { (s.engine d).walk with len := g.1.len }).setField (Reg.walkStatus d) 1 1 1))

/-! ## The end of a descriptor -/

/-- Whether everything a running descriptor asks for is done. -/
def State.descDone (s : State) (d p : Nat) : Bool :=
  let e := s.engine d
  let x := e.desc
  if e.status = St.badArgument then true
  else if dOp x ≠ 3 then decide (dLen x ≤ if s.viaHub d then e.bytes else e.moved * 64)
  else if wMode x = 1 then decide (wCount x ≤ e.walk.placed)
  else match s.kvOf p with
    | some k => decide (gatherFlits k x ((s.gatherSeq d p (wSeq x)).1.view (s.seqMine p (wSeq x))) ≤ e.walk.sent)
    | none => true

/-- Bytes that a descriptor delivers. -/
def State.descBytes (s : State) (d p : Nat) : Nat :=
  let x := (s.engine d).desc
  if dOp x ≠ 3 then dLen x
  else if wMode x = 1 then 32 * wCount x
  else match s.kvOf p with
    | some k => 64 * gatherFlits k x ((s.gatherSeq d p (wSeq x)).1.view (s.seqMine p (wSeq x)))
    | none => 0

/-- DESCRIPTOR_END (08 R241, 10 R292, R306): a descriptor whose work is done ends with its STATUS and its last token; in HOLD a running one ends
with DEVICE_HOLD, what it has not written unwritten (17 R547). -/
def execDescriptorEnd (d : EngineId) (s : State) : Host.Outcome State Fault Refusal :=
  match s.partOfEngine d with
  | none => .next s
  | some p =>
    let e := s.engine d
    let held : Bool := s.dev == .hold && e.status != St.badArgument
    if !e.active ∨ !(held || s.descDone d p) then .next s else
    let s := s.andNotReg (Reg.walkStatus d) 7
    .next (s.endDescriptor d p (if held then St.deviceHold else e.status) (s.descBytes d p))

end Sys2Proof.Machine
end

