-- ==== Sys2Proof/Machine/Clove.lean ====
section
/-! DEFINITION. Clove cores: their address map, traps, mailbox, fence, and extension instructions (09 R256–R284). -/

namespace Sys2Proof.Machine

/-! ## State of a core (09 R256, R284) -/

/-- The channel is a Loupe service channel (08 R252). -/
def State.isService (s : State) (c : Nat) : Bool := bitOf s.devFacet.svcChannels c
/-- Bring-up has released the channel (19 R594); before that its Clove core is OFF. -/
def State.chanUp (s : State) (c : Nat) : Bool := bits (s.reg (Reg.chanReleased (c / 32))) (c % 32) 1 = 1
/-- A CLOVE_LOAD of core c's channel by its partition is in flight (09 R281, 14 R445). -/
def State.cloveLoads (s : State) (c : Nat) : Bool :=
  s.loupe.inflight.any (fun q => q.opcode == 0x14 && q.result.isNone && fieldOf q.entry.toNat 9 1 == c / 32 &&
    fieldOf q.entry.toNat 10 1 == c % 32 &&
    (match q.via with
      | .ring (p + 1) => s.partOfChan c == some p
      | _ => s.partOfChan c == some (fieldOf q.entry.toNat 8 1)))
/-- STATE of CLOVE_STATUS. A core is LOADING from the end of the command that a CLOVE_LOAD waits for, at once when it is HALTED, to the end of
the load (09 R281). -/
def State.cloveState (s : State) (c : Nat) : Nat :=
  let x := s.clove c
  if !s.chanUp c then 0 else if !x.halted && x.held.isSome then 2 else if s.cloveLoads c then 3 else if x.halted then 4 else 1
/-- A core that may execute: none does in HOLD and SHUTDOWN (17 R547, 18 R565). -/
def State.cloveMay (s : State) (c : Nat) : Bool := s.dev != .hold && s.dev != .shutdown && (s.cloveState c == 1 || s.cloveState c == 2)

/-- Integer register i of the core; register 0 reads 0 and takes no write. -/
def State.cx (s : State) (c i : Nat) : Nat := if i = 0 then 0 else (SMap.get 0 (s.clove c).x i).toNat
def State.setCx (s : State) (c i v : Nat) : State :=
  if i = 0 then s else
  let x := s.clove c
  s.setClove c { x with x := SMap.set 0 x.x i (BitVec.ofNat 32 v) }

/-- CSR addresses (09 R262 and the privileged specification). -/
def Csr.clen : Nat := 0x800
def Csr.cfillLo : Nat := 0x801
def Csr.cfillHi : Nat := 0x802
def Csr.ccmp : Nat := 0x803
def Csr.cstke : Nat := 0x804
def Csr.chbase : Nat := 0x7C0
def Csr.csbase : Nat := 0x7C1
def Csr.cself : Nat := 0x7C2
def Csr.mstatus : Nat := 0x300
def Csr.mtvec : Nat := 0x305
def Csr.mepc : Nat := 0x341
def Csr.mcause : Nat := 0x342
def Csr.mtval : Nat := 0x343
def Csr.mcountinhibit : Nat := 0x320
def Csr.mcycle : Nat := 0xB00
def Csr.mcycleh : Nat := 0xB80
def Csr.minstret : Nat := 0xB02
def Csr.minstreth : Nat := 0xB82

def State.ccsr (s : State) (c i : Nat) : Nat := (SMap.get 0 (s.clove c).csr i).toNat
def State.setCcsr (s : State) (c i v : Nat) : State :=
  let x := s.clove c
  s.setClove c { x with csr := SMap.set 0 x.csr i (BitVec.ofNat 32 v) }
def State.setCpc (s : State) (c v : Nat) : State := s.setClove c { s.clove c with pc := BitVec.ofNat 32 v }

/-! ## The address map (09 R257, R258) -/

/-- Where an address leads: ROM, local memory (by offset from 0x1_0000), or a device address in HBM or scratch with whether its
window is SHARED. -/
inductive CLoc where
  | rom (off : Nat)
  | loc (off : Nat)
  | dev (a : Nat) (shared : Bool)
deriving DecidableEq, Repr

/-- A partition-relative address of the core's owner: in its own channel or in scratch; of a service channel, an offset. -/
def State.cDev (s : State) (c pa : Nat) (acc : Acc) (hbm scratch : Bool) : Option CLoc :=
  match s.partOfChan c with
  | some p =>
    match s.translate p pa acc with
    | some (d, w) =>
      if (hbm && isHbm d && chanOfAddr d == c && w.typ == 0) || (scratch && isScratch d && w.typ == 1) then some (.dev d w.shared)
      else none
    | none => none
  | none => if s.isService c ∧ hbm ∧ pa < channelBytes then some (.dev (chanAddr c + pa) false) else none

/-- The monitor's functions take partition-relative addresses (09 R277). -/
def State.cPart (s : State) (c pa : Nat) (acc : Acc) : Option CLoc := s.cDev c pa acc true true

/-- An address of the core's map, for an access in user or machine mode. -/
def State.cLoc (s : State) (c a : Nat) (user : Bool) (acc : Acc) : Option CLoc :=
  if a < 0x8000 then (if !user && acc == .read then some (.rom a) else none)
  else if 0x10000 ≤ a ∧ a < 0x20000 then
    (if (user && decide (a < 0x14000)) || acc == .atomic then none else some (.loc (a - 0x10000)))
  else if 0x40000000 ≤ a ∧ a < 0xA0000000 then s.cDev c (s.ccsr c Csr.chbase * 0x10000 + (a - 0x40000000)) acc true false
  else if 0xC0000000 ≤ a ∧ a < 0xC4000000 then s.cDev c (s.ccsr c Csr.csbase * 0x10000 + (a - 0xC0000000)) acc false true
  else none

/-- The privilege of loads and stores is user's: the mode, or MPP under MPRV. -/
def State.cUser (s : State) (c : Nat) : Bool :=
  if !(s.clove c).machineMode then true
  else bitOf (s.ccsr c Csr.mstatus) 17 && s.ccsr c Csr.mstatus / 2 ^ 11 % 4 == 0

/-- Words of local memory that n bytes touch. -/
def wordsOf (a n : Nat) : List Nat := (List.range ((a % 8 + n + 7) / 8)).map (fun i => a / 8 * 8 + 8 * i)

/-- Core c does not reach the home hub of an address: a hop of the service network has failed (17 R518). -/
def State.cLost (s : State) (c a : Nat) : Bool := s.svcLost (c / 64) (8 + homeHub a)

/-- A read of n bytes: bytes, 0 clean, 1 poisoned, 2 uncorrectable; a corrected word of local memory is rewritten (17 R538). -/
def State.cRead (s : State) (c : Nat) (l : CLoc) (n : Nat) : Bytes × Nat × State :=
  match l with
  | .rom a => ((List.range n).map (fun i => Config.cloveRom (a + i)), 0, s)
  | .loc a =>
    let x := s.clove c
    let us := (wordsOf a n).map (fun w => (w, x.localMem.unit w))
    let m := us.foldl (fun (m : Mem) u => if u.2.fixed then m.writeUnit u.1 u.2.data (u.2.bad != 0) else m) x.localMem
    (((us.flatMap (fun u => u.2.data)).drop (a % 8)).take n, (us.map (fun u => u.2.bad)).foldl max 0,
      s.setClove c { x with localMem := m })
  | .dev a _ =>
    if !isScratch a then s.devRead a n
    else if s.cLost c a then (List.replicate n 0, 2, s) else s.ccRead (s.partOfChan c) a n

/-- A write. Lines of shared windows wait for the fence to be invalidated (09 R261). -/
def State.cWrite (s : State) (c : Nat) (l : CLoc) (bs : Bytes) (poi : Bool) : State :=
  match l with
  | .rom _ => s
  | .loc a =>
    let x := s.clove c
    s.setClove c { x with localMem := (wordsOf a bs.length).foldl (fun m w => m.mergeUnit w 8 a bs poi) x.localMem }
  | .dev a sh =>
    if isScratch a then (if s.cLost c a then s else s.ccWrite (s.partOfChan c) a bs poi)
    else
      let s := s.devWrite a bs poi
      let x := s.clove c
      let ls := (List.range ((a % 128 + bs.length + 127) / 128)).map (fun i => lineOf a + 128 * i)
      if sh then s.setClove c { x with dirty := ls.foldl (fun ds d => if ds.contains d then ds else ds ++ [d]) x.dirty } else s

/-- A load reads the whole granule of a channel, or line of scratch, for its state (09 R260). -/
def State.cLoad (s : State) (c : Nat) (l : CLoc) (n : Nat) : Bytes × Nat × State :=
  match l with
  | .dev a _ =>
    if isScratch a then
      let bad := (unitsOf (lineOf a) 128).foldl (fun x u => max x (s.mem.unit u).bad) 0
      let r := s.cRead c l n
      (r.1, max bad r.2.1, r.2.2)
    else
      let r := s.devRead (a / 64 * 64) 64
      ((r.1.drop (a % 64)).take n, r.2.1, r.2.2)
  | _ => s.cRead c l n

/-- The address is in the channel, which a core under THROTTLE = 2 waits for (09 R283). -/
def CLoc.inChan : CLoc → Bool
  | .dev a _ => isHbm a
  | _ => false

/-! ## Outcomes -/

/-- What executing an instruction comes to: the state after it; a trap with its RISC-V cause, its mtval, and for a load fault the
state of the granule (0 another fault, 1 poisoned, 2 uncorrectable); or a wait, after which it is tried again. -/
inductive CX where
  | next (s : State)
  /-- as next, of an instruction that wrote minstret or minstreth: the write replaces the increment -/
  | wrote (s : State)
  | trap (cause tval kind : Nat) (s : State)
  | wait (s : State)

/-- Exception codes of the privileged specification. -/
def Tr.fetch : Nat := 1
def Tr.illegal : Nat := 2
def Tr.breakpoint : Nat := 3
def Tr.loadMis : Nat := 4
def Tr.load : Nat := 5
def Tr.storeMis : Nat := 6
def Tr.store : Nat := 7
def Tr.ecallU : Nat := 8
def Tr.ecallM : Nat := 11

/-- A channel access waits while THROTTLE = 2 (09 R283); `ls` is every place that the operands have. -/
def State.cStalled (s : State) (c : Nat) (ls : List (Option CLoc)) : Bool :=
  s.cloveThrottle c == 2 && ls.any (fun l => match l with | some l => l.inChan | none => false)
def State.cStall (s : State) (c : Nat) : State :=
  let x := s.clove c
  s.setClove c { x with stallAt := x.stallAt.or (some s.timebase) }
/-- The waits of the instruction that now completes are over: THROTTLE_WAIT and CHAIN_WAIT (20 R610). -/
def State.cUnstall (s : State) (c : Nat) : State :=
  match (s.clove c).stallAt with
  | some t => (s.setClove c { s.clove c with stallAt := none }).traceClove c 0x23 0 0 (s.timebase - t) 0 0 0
  | none => s
/-- A blocked CHSEND or CHRECV since a time, with DETAIL: the direction, and 2 for a send. -/
def State.cBlock (s : State) (c det : Nat) : State :=
  let x := s.clove c
  s.setClove c { x with blockAt := x.blockAt.or (some (s.timebase, det)) }
def State.cUnblock (s : State) (c : Nat) : State :=
  match (s.clove c).blockAt with
  | some (t, det) =>
    (s.setClove c { s.clove c with blockAt := none }).traceClove c 0x22 0 det (s.timebase - t)
      (peerReq (reqClove (if det % 2 = 0 then c - 1 else c + 1))).toNat 0 0
  | none => s

/-! ## Fence, tokens and completion (09 R261, R267, R275) -/

/-- A chain send of the core is not complete: its message is not yet in the neighbour's receive FIFO (09 R261, R269). -/
def State.chainOut (s : State) (c : Nat) : Bool := !(s.clove c).wire.isEmpty
/-- CB.FENCE, once no chain send is outstanding: the home hubs invalidate the lines written in shared windows. -/
def State.cFence (s : State) (c : Nat) : State :=
  let x := s.clove c
  (x.dirty.foldl (fun s l => s.dropLine l) s).setClove c { x with dirty := [] }

/-- Byte o of a slot, n bytes (09 R272). -/
def slotField (w : BitVec 512) (o n : Nat) : Nat := fieldOf w.toNat o n
def slotFunc (w : BitVec 512) : Nat := slotField w 0 1
def slotSeq (w : BitVec 512) : Nat := slotField w 60 4

/-- The device address of byte o of the mailbox, for a write: the mailbox lies in scratch (09 R271). -/
def State.mboxAt (s : State) (c o : Nat) : Option Nat :=
  match (s.clove c).mbase, s.partOfChan c with
  | some m, some p => ((s.translate p (m + o) .write).filter (fun x => x.2.typ == 1)).map (·.1)
  | _, _ => none
def State.mboxWrite (s : State) (c o : Nat) (bs : Bytes) : State :=
  match s.mboxAt c o with
  | some a => if s.cLost c a then s else s.ccWrite (s.partOfChan c) a bs false
  | none => s

/-- The token of a slot is raised in its core, which must be the partition's. -/
def State.slotToken (s : State) (c : Nat) (w : BitVec 512) : State :=
  let n := slotField w 2 2
  let k := slotField w 4 1
  if n = 0xFFFF ∨ k = 0 ∨ n ≥ 16384 ∨ s.partOfCore n ≠ s.partOfChan c then s
  else s.svcToken (c / 64) n (slotField w 1 1 % 16) k (peerReq (reqClove c))

/-- The command at HEAD, whose slot is w, completes (09 R275). -/
def State.cComplete (s : State) (c : Nat) (w : BitVec 512) (status result : Nat) : State :=
  let x := s.clove c
  let i := x.head % 16
  let o := 128 + 64 * i
  let s := ((s.mboxWrite c (o + 7) [BitVec.ofNat 8 status]).mboxWrite c (o + 20) (leBytes 4 result)).mboxWrite c (o + 56) (leBytes 4 1)
  let s := s.slotToken c w
  let h := (x.head + 1) % 2 ^ 32
  let s := s.mboxWrite c 4 (leBytes 4 h)
  let x := s.clove c
  let s := s.setClove c { x with head := h, held := none, ran := false, tenant := false, mig := none, rx := SMap.del x.rx i }
  s.traceClove c 0x21 (slotFunc w) status (s.timebase - x.runAt) 0 result 1

/-- In HOLD a core stops and the command it holds ends with DEVICE_HOLD (17 R547), its RESULT free. -/
def State.cloveHeld (s : State) (c : Nat) : State :=
  match s.dev, (s.clove c).held with
  | .hold, some w => let r := s.free 32; r.2.cComplete c w St.deviceHold r.1.toNat
  | _, _ => s

/-- Completes with FAULTED every command queued at a HALTED core (09 R280). -/
def State.cFlush (s : State) (c : Nat) : Nat → State
  | 0 => s
  | k + 1 =>
    let x := s.clove c
    match SMap.find x.rx (x.head % 16) with
    | some (w, _, _) =>
      if slotSeq w = x.head ∧ slotField w 7 1 = 0xFF then (s.cComplete c w St.faulted 0).cFlush c k else s
    | none => s

/-- Empties both receive FIFOs and discards what is being sent (09 R280); a wait that this ends is recorded (20 R610). -/
def State.cEmpty (s : State) (c : Nat) : State :=
  let s := (s.cUnblock c).cUnstall c
  s.setClove c { s.clove c with fifoUp := [], fifoDn := [], wire := [] }

/-- An R12 status code. -/
def isStatus (v : Nat) : Bool := decide (v ≤ 0x13)

/-- The monitor has control again: the entry's status in a0, RESULT in a1. -/
def State.cReturn (s : State) (c status result : Nat) : State :=
  let s := (s.setCx c 10 status).setCx c 11 result
  let s := s.setClove c { s.clove c with ran := true, tenant := false, machineMode := true }
  s.setCpc c (s.ccsr c Csr.mtvec / 4 * 4)

/-- The privileged specification's trap entry: mepc, mcause, mtval, MPIE, MIE and MPP. -/
def State.cTrapEntry (s : State) (c cause tval : Nat) : State :=
  let x := s.clove c
  let m := s.ccsr c Csr.mstatus
  let mie := m / 8 % 2
  let m := BitVec.ofNat 32 m
  let m := setBits (setBits (setBits m 3 1 0) 7 1 mie) 11 2 (if x.machineMode then 3 else 0)
  let s := ((s.setCcsr c Csr.mepc x.pc.toNat).setCcsr c Csr.mcause cause).setCcsr c Csr.mtval tval
  let s := s.setCcsr c Csr.mstatus m.toNat
  (s.setClove c { s.clove c with machineMode := true }).setCpc c (s.ccsr c Csr.mtvec / 4 * 4)

/-- CLOVE_TRAP (09 R279, R280): a trap in the monitor halts the core; ECALL ends a tenant entry; any other trap ends it early. -/
def State.cTrap (s : State) (c cause tval kind : Nat) : State :=
  let user := !(s.clove c).machineMode
  let s := s.cTrapEntry c cause tval
  if !user then
    let s := s.setClove c { s.clove c with halted := true }
    let s := match (s.clove c).held with
      | some w => s.cComplete c w St.faulted 0
      | none => s
    s.cFlush c 16
  else if cause = Tr.ecallU then
    s.cReturn c (if isStatus (s.cx c 10) then s.cx c 10 else St.badArgument) (s.cx c 11)
  else
    let st := if cause = Tr.load ∧ kind = 1 then St.poisoned else if cause = Tr.load ∧ kind = 2 then St.uncorrectable
      else St.accessFault
    -- the spec gives an entry that a trap ends no RESULT: it is free
    let r := s.free 32
    ((r.2.cEmpty c).countField (Reg.cloveStatus c) 8 8 1).cReturn c st r.1.toNat

/-- A retired instruction counts in minstret, unless mcountinhibit stops it. -/
def State.cRetire (s : State) (c : Nat) : State :=
  if bitOf (s.ccsr c Csr.mcountinhibit) 2 then s else
  let v := (s.ccsr c Csr.minstret + 2 ^ 32 * s.ccsr c Csr.minstreth + 1) % 2 ^ 64
  (s.setCcsr c Csr.minstret (v % 2 ^ 32)).setCcsr c Csr.minstreth (v / 2 ^ 32)

/-- The state an outcome leaves. -/
def State.cEnd (c : Nat) : CX → State
  | .next s => (s.cUnstall c).cRetire c
  | .wrote s => s.cUnstall c
  | .trap cause tval kind s => (s.cUnstall c).cTrap c cause tval kind
  | .wait s => s

/-! ## Bulk instructions (09 R264) -/

/-- A granule moved or filled: it failed translation, or its bytes with the status it contributes. -/
inductive CGran where
  | fault
  | got (bs : Bytes) (status : Nat) (s : State)

/-- One granule of a destination takes poisoned data that nothing has read: free bytes. -/
def State.cPoison (s : State) (c : Nat) (l : Option CLoc) : State :=
  match l with
  | some l => (s.free 512).2.cWrite c l (leBytes 64 (s.free 512).1.toNat) true
  | none => s

/-- Moves n granules from `src` to `dst`, as functions of the granule; after one that fails translation the rest of the
destination is poisoned. Returns the worst status, the granules moved cleanly, the state. -/
def State.cBulk (s : State) (c : Nat) (get : State → Nat → CGran) (dst : Nat → Option CLoc) : Nat → Nat × Nat × State
  | 0 => (St.ok, 0, s)
  | n + 1 =>
    let r := s.cBulk c get dst n
    if r.1 = St.accessFault then (r.1, r.2.1, r.2.2.cPoison c (dst n)) else
    match dst n with
    | none => (St.accessFault, r.2.1, r.2.2)
    | some l =>
      match get r.2.2 n with
      | .fault => (St.accessFault, r.2.1, r.2.2.cPoison c (some l))
      | .got bs st s => (worse r.1 st, r.2.1 + (if st = St.ok then 1 else 0), s.cWrite c l bs (st != St.ok))

/-- A source in memory, a granule at each 64 bytes. -/
def State.cSource (c : Nat) (src : Nat → Option CLoc) (s : State) (i : Nat) : CGran :=
  match src i with
  | none => .fault
  | some l => let r := s.cRead c l 64; .got r.1 (badStatus r.2.1) r.2.2

/-- COPY of n granules. -/
def State.cCopy (s : State) (c : Nat) (src dst : Nat → Option CLoc) (n : Nat) : Nat × Nat × State :=
  s.cBulk c (State.cSource c src) dst n

/-- FILL of n granules with a 64-bit pattern. -/
def State.cFill (s : State) (c : Nat) (dst : Nat → Option CLoc) (pat n : Nat) : Nat × Nat × State :=
  let g := (List.range 8).flatMap (fun _ => leBytes 8 pat)
  s.cBulk c (fun s _ => .got g St.ok s) dst n

/-- What CMP finds: the offset of the first granule that differs or all ones; or the status of a granule that faults, its number, and whether it
is the second operand's alone. -/
inductive CCmp where
  | same
  | differ (off : Nat)
  | fault (status : Nat) (i : Nat) (second : Bool)

/-- CMP of granules i, i + 1, …: `k` of them. -/
def State.cCmp (s : State) (c : Nat) (a b : Nat → Option CLoc) : Nat → Nat → CCmp × State
  | _, 0 => (.same, s)
  | i, k + 1 =>
    match a i, b i with
    | some la, some lb =>
      let r := s.cRead c la 64
      let q := r.2.2.cRead c lb 64
      let bad := max r.2.1 q.2.1
      if bad ≠ 0 then (.fault (badStatus bad) i (r.2.1 == 0), q.2.2)
      else if r.1 ≠ q.1 then (.differ (64 * i), q.2.2)
      else q.2.2.cCmp c a b (i + 1) k
    | la, _ => (.fault St.accessFault i la.isSome, s)

/-- The granules from an address of the map; ROM is no operand of a bulk instruction. -/
def State.cGran (s : State) (c a : Nat) (acc : Acc) (i : Nat) : Option CLoc :=
  if a + 64 * i ≥ 2 ^ 32 then none else
  match s.cLoc c (a + 64 * i) (s.cUser c) acc with
  | some (.rom _) => none
  | x => x

/-! ## Fields of an instruction word -/

def iF (w lo len : Nat) : Nat := w / 2 ^ lo % 2 ^ len
def iOp (w : Nat) : Nat := iF w 0 7
def iRd (w : Nat) : Nat := iF w 7 5
def iF3 (w : Nat) : Nat := iF w 12 3
def iRs1 (w : Nat) : Nat := iF w 15 5
def iRs2 (w : Nat) : Nat := iF w 20 5
def iF7 (w : Nat) : Nat := iF w 25 7

/-! ## Extension instructions (09 R263–R269, R274, R275); `len` is the instruction's length -/

/-- Writes rd and goes on. -/
def State.cRd (s : State) (c w v : Nat) : CX := .next ((s.setCx c (iRd w) v).setCpc c ((s.clove c).pc.toNat + 4))

/-- CLEN and the operands of a bulk instruction are legal. -/
def State.bulkOk (s : State) (c : Nat) (as : List Nat) : Bool :=
  s.ccsr c Csr.clen != 0 && s.ccsr c Csr.clen % 64 == 0 && as.all (fun a => a % 64 == 0)

def State.cbCopy (s : State) (c w : Nat) : CX :=
  let d := s.cx c (iRs1 w)
  let a := s.cx c (iRs2 w)
  let n := s.ccsr c Csr.clen / 64
  if !s.bulkOk c [d, a] then .trap Tr.illegal w 0 s
  else if s.cStalled c ((List.range n).flatMap (fun i => [s.cGran c d .write i, s.cGran c a .read i])) then .wait (s.cStall c)
  else
    let r := s.cCopy c (s.cGran c a .read) (s.cGran c d .write) n
    r.2.2.cRd c w r.1

def State.cbFill (s : State) (c w : Nat) : CX :=
  let d := s.cx c (iRs1 w)
  if iRs2 w ≠ 0 ∨ !s.bulkOk c [d] then .trap Tr.illegal w 0 s
  else if s.cStalled c ((List.range (s.ccsr c Csr.clen / 64)).map (s.cGran c d .write)) then .wait (s.cStall c)
  else
    let r := s.cFill c (s.cGran c d .write) (s.ccsr c Csr.cfillLo + 2 ^ 32 * s.ccsr c Csr.cfillHi) (s.ccsr c Csr.clen / 64)
    r.2.2.cRd c w r.1

def State.cbCmp (s : State) (c w : Nat) : CX :=
  let a := s.cx c (iRs1 w)
  let b := s.cx c (iRs2 w)
  if !s.bulkOk c [a, b] then .trap Tr.illegal w 0 s
  else if s.cStalled c ((List.range (s.ccsr c Csr.clen / 64)).flatMap (fun i => [s.cGran c a .read i, s.cGran c b .read i])) then .wait (s.cStall c)
  else
    match s.cCmp c (s.cGran c a .read) (s.cGran c b .read) 0 (s.ccsr c Csr.clen / 64) with
    | (.same, s) => s.cRd c w 0xFFFFFFFF
    | (.differ o, s) => s.cRd c w o
    | (.fault st i second, s) =>
      let kind := if st = St.poisoned then 1 else if st = St.uncorrectable then 2 else 0
      .trap Tr.load ((if second then b else a) + 64 * i) kind s

/-- The neighbour in a direction: 0 down, 1 up; none at the chain's end or across a fence (09 R268). -/
def State.neighbour (s : State) (c dir : Nat) : Option Nat :=
  let ok (n : Nat) : Bool := s.partOfChan c == s.partOfChan n && s.isService c == s.isService n
  if dir = 0 then (if c % 32 ≠ 0 ∧ ok (c - 1) then some (c - 1) else none)
  else if c % 32 ≠ 31 ∧ ok (c + 1) then some (c + 1) else none

/-- The FIFO that is fed from a direction, and the messages on the way into the neighbour's. -/
def Clove.fifo (x : Clove) (dir : Nat) : List (BitVec 512 × Nat) := if dir = 0 then x.fifoDn else x.fifoUp
def Clove.setFifo (x : Clove) (dir : Nat) (q : List (BitVec 512 × Nat)) : Clove :=
  if dir = 0 then { x with fifoDn := q } else { x with fifoUp := q }
/-- Free entries of neighbour n's FIFO, as the sender sees them: what is on the way has its place. -/
def State.chainRoom (s : State) (c n dir : Nat) : Nat :=
  8 - (((s.clove n).fifo (1 - dir)).length + ((s.clove c).wire.filter (fun m => m.1 == (dir == 1))).length)

/-- Sends a message towards a neighbour; one whose parity fails on the way is poisoned whole (17 R517). -/
def State.chainPut (s : State) (c dir : Nat) (msg : BitVec 512) (poi : Nat) : State :=
  let u := s.parity (256 + c)
  let x := u.2.clove c
  u.2.setClove c { x with wire := x.wire ++ [(dir == 1, msg, if u.1 then 255 else poi)] }

def State.cbChsend (s : State) (c w : Nat) : CX :=
  let a := s.cx c (iRs1 w)
  let dir := iF7 w % 2
  if iF7 w > 1 ∨ iRs2 w ≠ 0 then .trap Tr.illegal w 0 s
  else if a % 64 ≠ 0 then .trap Tr.load a 0 s
  else match s.neighbour c dir with
    | none => s.cRd c w St.linkDown
    | some n =>
      match s.cLoc c a (s.cUser c) .read with
      | some (.loc o) =>
        if s.chainRoom c n dir = 0 then
          .wait (s.cBlock c (2 + dir))
        else
          let us := (wordsOf o 64).map (fun u => (s.clove c).localMem.unit u)
          let s := (s.cRead c (.loc o) 64).2.2
          let poi := us.zipIdx.foldl (fun m u => if u.1.bad ≠ 0 then m + 2 ^ u.2 else m) 0
          let msg : BitVec 512 := BitVec.ofNat 512 (leVal (us.flatMap (fun u => u.data)))
          ((s.chainPut c dir msg poi).cUnblock c).cRd c w St.ok
      | _ => .trap Tr.load a 0 s

def State.cbChrecv (s : State) (c w : Nat) : CX :=
  let a := s.cx c (iRs1 w)
  let dir := iF7 w % 2
  if iF7 w > 1 ∨ iRs2 w ≠ 0 then .trap Tr.illegal w 0 s
  else if a % 64 ≠ 0 then .trap Tr.store a 0 s
  else match s.neighbour c dir with
    | none => s.cRd c w St.linkDown
    | some _ =>
      match s.cLoc c a (s.cUser c) .write with
      | some (.loc o) =>
        match (s.clove c).fifo dir with
        | [] => .wait (s.cBlock c dir)
        | (msg, poi) :: q =>
          let x := (s.clove c).setFifo dir q
          let bs := leBytes 64 msg.toNat
          let m := (List.range 8).foldl (fun (m : Mem) i => m.writeUnit (o + 8 * i) ((bs.drop (8 * i)).take 8) (bitOf poi i)) x.localMem
          ((s.setClove c { x with localMem := m }).cUnblock c).cRd c w St.ok
      | _ => .trap Tr.store a 0 s

def State.cbChpoll (s : State) (c w : Nat) : CX :=
  let dir := iF7 w % 2
  if iF7 w > 1 ∨ iRs1 w ≠ 0 ∨ iRs2 w ≠ 0 then .trap Tr.illegal w 0 s
  else
    let room := match s.neighbour c dir with
      | some n => s.chainRoom c n dir
      | none => 0
    s.cRd c w (((s.clove c).fifo dir).length + 16 * room)

def State.cbFence (s : State) (c w : Nat) : CX :=
  if iF7 w ≠ 0 ∨ iRd w ≠ 0 ∨ iRs1 w ≠ 0 ∨ iRs2 w ≠ 0 then .trap Tr.illegal w 0 s
  else if s.chainOut c then .wait s else (s.cFence c).cRd c w 0

/-- Where an address that the core uses for a stack's entry lies: in the same aperture as the header at d. -/
def State.cEntry (s : State) (c d a : Nat) : Option Nat :=
  match s.cLoc c a (s.cUser c) .atomic with
  | some (.dev ed _) => if isScratch ed = isScratch d then some ed else none
  | _ => none

/-- The atomic that CB.ATOM sends, for a target at device address d (09 R266); an ADD of 0 is the requester fence too (09 R276). -/
def State.cAtomic (s : State) (c p code fp d x : Nat) : Option ARes :=
  let w := if fp = 1 then AWidth.fp32 else AWidth.w32
  let p := some p
  match code with
  | 1 =>
    let s := if x = 0 ∧ fp = 0 then s.requesterFence d else s
    some (s.rmw p d 4 (fun o => (some (atomAdd w o x), St.ok)))
  | 2 => some (s.rmw p d 4 (fun o => (some (atomMin w o x), St.ok)))
  | 3 => some (s.rmw p d 4 (fun o => (some (atomMax w o x), St.ok)))
  | 4 => some (s.rmw p d 4 (fun o => if o = s.ccsr c Csr.ccmp then (some x, St.ok) else (none, St.ok)))
  | 5 => some (s.rmw p d 4 (fun _ => (some x, St.ok)))
  | 6 => some (s.rmw p d 4 (fun o => (some (atomIncw o x), St.ok)))
  | 7 => some (s.refinc p d)
  | 8 => some (s.refdec p d)
  | _ =>
    let e := s.ccsr c Csr.cstke
    if (s.cEntry c d e).isNone then none else
    let r := if code = 9 then s.pop p d e (s.cEntry c d) else s.push p d e x (s.cEntry c d)
    if r.status = St.accessFault then none else some r

/-- The address of the stack entry that a POP or a PUSH could not reach. -/
def State.entryFault (s : State) (c code d : Nat) : Nat :=
  let e := s.ccsr c Csr.cstke
  let top := s.atomicGet d 4
  if (s.cEntry c d e).isNone then e else (e + 4 * (if code = 9 then top - 1 else top)) % 2 ^ 32

def State.cbAtom (s : State) (c w : Nat) : CX :=
  let code := iF7 w % 16
  let fp := iF7 w / 16
  let a := s.cx c (iRs1 w)
  if fp > 1 ∨ code = 0 ∨ code > 10 ∨ (fp = 1 ∧ code > 3) then .trap Tr.illegal w 0 s else
  match s.cLoc c a (s.cUser c) .atomic with
  | some (.dev d sh) =>
    if s.cStalled c [some (.dev d sh)] then .wait (s.cStall c)
    else if s.cLost c d then s.cRd c w (0xFFFFFF00 + St.uncorrectable) else
    match s.cAtomic c ((s.partOfChan c).getD 0) code fp d (s.cx c (iRs2 w)) with
    | some r => r.st.cRd c w (if r.status = St.ok then r.old else 0xFFFFFF00 + r.status)
    | none => .trap Tr.store (s.entryFault c code d) 0 s
  | _ => .trap Tr.store a 0 s

def State.cbTraise (s : State) (c w : Nat) : CX :=
  let n := s.cx c (iRs1 w) % 16384
  let v := s.cx c (iRs2 w)
  if iF7 w ≠ 0 ∨ iRd w ≠ 0 then .trap Tr.illegal w 0 s
  else if s.chainOut c then .wait s else
  let s := s.cFence c
  if (s.partOfChan c).isSome ∧ s.partOfCore n = s.partOfChan c then
    (s.svcToken (c / 64) n (v % 16) (v / 256 % 256) (peerReq (reqClove c))).cRd c w 0
  else .trap Tr.store (s.cx c (iRs1 w)) 0 s

def State.cbDone (s : State) (c w : Nat) : CX :=
  if iF7 w ≠ 0 ∨ iRd w ≠ 0 ∨ !(s.clove c).machineMode then .trap Tr.illegal w 0 s
  else if s.chainOut c then .wait s else
  let st := s.cx c (iRs1 w) % 256
  let r := s.cx c (iRs2 w)
  let s := s.cFence c
  match (s.clove c).held with
  | some x => (s.cComplete c x st r).cRd c w 0
  | none => s.cRd c w 0

/-- Whether a slot is illegal (09 R274). -/
def State.slotIllegal (s : State) (c : Nat) (w : BitVec 512) : Bool :=
  let f := slotFunc w
  let rlen := slotField w 16 4
  let entry := match (s.clove c).program with
    | some g => g.entries.any (fun e => e.1 == f - 0x80 && e.2 != 0)
    | none => false
  slotField w 1 1 / 16 != 0 || slotField w 5 2 != 0 ||
  !((decide (1 ≤ f) && decide (f ≤ 7)) || (decide (0x80 ≤ f) && decide (f ≤ 0xFE) && entry)) ||
  rlen % 128 != 0 || decide (16777216 < rlen)

def State.cbWaitcmd (s : State) (c w : Nat) : CX :=
  let x := s.clove c
  if iF7 w ≠ 0 ∨ iRs1 w ≠ 0 ∨ iRs2 w ≠ 0 ∨ !x.machineMode then .trap Tr.illegal w 0 s else
  if x.held.isSome then s.cRd c w (x.head % 16) else
  match SMap.find x.rx (x.head % 16) with
  | some (q, t, r) =>
    if slotSeq q = x.head ∧ slotField q 7 1 = 0xFF then
      let s := s.setClove c { x with held := some q, ran := false, sleeping := false, runAt := s.timebase }
      let s := s.traceClove c 0x20 (slotFunc q) 0 (s.timebase - t) (peerReq r).toNat x.head 0
      if s.slotIllegal c q then .wait ((s.cFence c).cComplete c q St.badArgument 0)
      else s.cRd c w (x.head % 16)
    else .wait (s.setClove c { x with sleeping := true })
  | none => .wait (s.setClove c { x with sleeping := true })

/-- An instruction of the opcodes 0x0B and 0x2B (09 R263). -/
def State.cExt (s : State) (c w : Nat) : CX :=
  if iOp w = 0x0B then
    match iF3 w with
    | 0 => if iF7 w ≠ 0 then .trap Tr.illegal w 0 s else s.cbCopy c w
    | 1 => if iF7 w ≠ 0 then .trap Tr.illegal w 0 s else s.cbFill c w
    | 2 => if iF7 w ≠ 0 then .trap Tr.illegal w 0 s else s.cbCmp c w
    | 3 => s.cbChsend c w
    | 4 => s.cbChrecv c w
    | 5 => s.cbChpoll c w
    | 6 => s.cbFence c w
    | _ => s.cbAtom c w
  else match iF3 w with
    | 0 => s.cbTraise c w
    | 1 => s.cbDone c w
    | 2 => s.cbWaitcmd c w
    | _ => .trap Tr.illegal w 0 s

/-- An extension instruction as a command: the word must be one of its opcode and funct3. -/
def State.cAlone (s : State) (c op f3 : Nat) (w : Word) (f : State → Nat → Nat → CX) : State :=
  if s.cloveMay c ∧ iOp w.toNat = op ∧ iF3 w.toNat = f3 then State.cEnd c (f s c w.toNat) else s

def execCbCopy (c : ChanId) (w : Word) (s : State) : Host.Outcome State Fault Refusal := .next (s.cAlone c 0x0B 0 w State.cExt)
def execCbFill (c : ChanId) (w : Word) (s : State) : Host.Outcome State Fault Refusal := .next (s.cAlone c 0x0B 1 w State.cExt)
def execCbCmp (c : ChanId) (w : Word) (s : State) : Host.Outcome State Fault Refusal := .next (s.cAlone c 0x0B 2 w State.cExt)
def execCbChsend (c : ChanId) (w : Word) (s : State) : Host.Outcome State Fault Refusal :=
  .next (s.cAlone c 0x0B 3 w State.cbChsend)
def execCbChrecv (c : ChanId) (w : Word) (s : State) : Host.Outcome State Fault Refusal :=
  .next (s.cAlone c 0x0B 4 w State.cbChrecv)
def execCbChpoll (c : ChanId) (w : Word) (s : State) : Host.Outcome State Fault Refusal :=
  .next (s.cAlone c 0x0B 5 w State.cbChpoll)
def execCbFence (c : ChanId) (w : Word) (s : State) : Host.Outcome State Fault Refusal :=
  .next (s.cAlone c 0x0B 6 w State.cbFence)
def execCbAtom (c : ChanId) (w : Word) (s : State) : Host.Outcome State Fault Refusal :=
  .next (s.cAlone c 0x0B 7 w State.cbAtom)
def execCbTraise (c : ChanId) (w : Word) (s : State) : Host.Outcome State Fault Refusal :=
  .next (s.cAlone c 0x2B 0 w State.cbTraise)
def execCbDone (c : ChanId) (w : Word) (s : State) : Host.Outcome State Fault Refusal :=
  .next (s.cAlone c 0x2B 1 w State.cbDone)
def execCbWaitcmd (c : ChanId) (w : Word) (s : State) : Host.Outcome State Fault Refusal :=
  .next (s.cAlone c 0x2B 2 w State.cbWaitcmd)

/-! ## The chain and the mailbox as events -/

/-- CHAIN_MESSAGE_ARRIVAL (09 R270): the oldest message on core c's link to a neighbour reaches its receive FIFO. -/
def execChainMessageArrival (c : ChanId) (up : Bool) (s : State) : Host.Outcome State Fault Refusal :=
  let x := s.clove c
  match x.wire.find? (fun m => m.1 == up) with
  | none => .next s
  | some m =>
    let n := if up then c.val + 1 else c.val - 1
    let dir := if up then 0 else 1
    if 8 ≤ ((s.clove n).fifo dir).length then .next s else
    let s := s.setClove c { x with wire := x.wire.erase m }
    let y := s.clove n
    .next (s.setClove n (y.setFifo dir (y.fifo dir ++ [m.2])))

/-- COMMAND_POST (09 R273, R274): requester r's write to slot i's line has been applied and the line reaches the core, which
wakes; a HALTED core's commands complete with FAULTED. -/
def execCommandPost (c : ChanId) (i : Fin 16) (r : ReqId) (s : State) : Host.Outcome State Fault Refusal :=
  match s.mboxAt c (128 + 64 * i.val) with
  | none => .next s
  | some a =>
    let x := s.clove c
    if x.held.isSome ∧ x.head % 16 = i.val then .next s else
    let rd := s.devRead a 64
    let s := rd.2.2
    if rd.2.1 ≠ 0 then .next s else
    let x := s.clove c
    let s := s.setClove c { x with
      rx := SMap.put x.rx i (BitVec.ofNat 512 (leVal rd.1), s.timebase, r.val), sleeping := false }
    .next (if s.cloveState c = 4 then s.cFlush c 16 else s)

end Sys2Proof.Machine
end

