-- ==== Sys2Proof/Machine/CloveCore.lean ====
section
/-! DEFINITION. The Clove core's RV32IMC with machine and user modes (09 R256: the RISC-V unprivileged specification 20191213 and
the privileged specification 20211203). -/

namespace Sys2Proof.Machine

/-! ## Compressed instructions, as the 32-bit instructions they expand to -/

def encR (f7 rs2 rs1 f3 rd op : Nat) : Nat := f7 * 2 ^ 25 + rs2 * 2 ^ 20 + rs1 * 2 ^ 15 + f3 * 2 ^ 12 + rd * 2 ^ 7 + op
def encI (imm rs1 f3 rd op : Nat) : Nat := imm % 4096 * 2 ^ 20 + rs1 * 2 ^ 15 + f3 * 2 ^ 12 + rd * 2 ^ 7 + op
def encS (imm rs2 rs1 f3 op : Nat) : Nat :=
  imm % 4096 / 32 * 2 ^ 25 + rs2 * 2 ^ 20 + rs1 * 2 ^ 15 + f3 * 2 ^ 12 + imm % 32 * 2 ^ 7 + op
def encB (imm rs2 rs1 f3 : Nat) : Nat :=
  imm / 2 ^ 12 % 2 * 2 ^ 31 + imm / 32 % 64 * 2 ^ 25 + rs2 * 2 ^ 20 + rs1 * 2 ^ 15 + f3 * 2 ^ 12 + imm / 2 % 16 * 2 ^ 8 +
    imm / 2 ^ 11 % 2 * 2 ^ 7 + 0x63
def encJ (imm rd : Nat) : Nat :=
  imm / 2 ^ 20 % 2 * 2 ^ 31 + imm / 2 % 1024 * 2 ^ 21 + imm / 2 ^ 11 % 2 * 2 ^ 20 + imm / 2 ^ 12 % 256 * 2 ^ 12 + rd * 2 ^ 7 + 0x6F
/-- A w-bit immediate sign-extended to 32 bits. -/
def sx (w v : Nat) : Nat := (BitVec.ofInt 32 (sext w v)).toNat

/-- The branch and jump offsets of CB and CJ. -/
def cbOff (h : Nat) : Nat :=
  sx 9 (iF h 12 1 * 256 + iF h 5 2 * 64 + iF h 2 1 * 32 + iF h 10 2 * 8 + iF h 3 2 * 2)
def cjOff (h : Nat) : Nat :=
  sx 12 (iF h 12 1 * 2048 + iF h 8 1 * 1024 + iF h 9 2 * 256 + iF h 6 1 * 128 + iF h 7 1 * 64 + iF h 2 1 * 32 +
    iF h 11 1 * 16 + iF h 3 3 * 2)
def ciImm (h : Nat) : Nat := sx 6 (iF h 12 1 * 32 + iF h 2 5)

/-- Quadrant 0. -/
def expand0 (h : Nat) : Option Nat :=
  let r1 := 8 + iF h 7 3
  let r2 := 8 + iF h 2 3
  let off := iF h 5 1 * 64 + iF h 10 3 * 8 + iF h 6 1 * 4
  match iF h 13 3 with
  | 0 =>
    let imm := iF h 7 4 * 64 + iF h 11 2 * 16 + iF h 5 1 * 8 + iF h 6 1 * 4
    if imm = 0 then none else some (encI imm 2 0 r2 0x13)
  | 2 => some (encI off r1 2 r2 0x03)
  | 6 => some (encS off r2 r1 2 0x23)
  | _ => none

/-- Quadrant 1. -/
def expand1 (h : Nat) : Option Nat :=
  let rd := iF h 7 5
  let r1 := 8 + iF h 7 3
  let r2 := 8 + iF h 2 3
  match iF h 13 3 with
  | 0 => some (encI (ciImm h) rd 0 rd 0x13)
  | 1 => some (encJ (cjOff h) 1)
  | 2 => some (encI (ciImm h) 0 0 rd 0x13)
  | 3 =>
    if rd = 2 then
      let imm := sx 10 (iF h 12 1 * 512 + iF h 3 2 * 128 + iF h 5 1 * 64 + iF h 2 1 * 32 + iF h 6 1 * 16)
      if imm = 0 then none else some (encI imm 2 0 2 0x13)
    else if ciImm h = 0 then none
    else some (ciImm h % 2 ^ 20 * 2 ^ 12 + rd * 2 ^ 7 + 0x37)
  | 4 =>
    match iF h 10 2 with
    | 0 => if iF h 12 1 = 1 then none else some (encI (iF h 2 5) r1 5 r1 0x13)
    | 1 => if iF h 12 1 = 1 then none else some (encI (0x400 + iF h 2 5) r1 5 r1 0x13)
    | 2 => some (encI (ciImm h) r1 7 r1 0x13)
    | _ =>
      if iF h 12 1 = 1 then none else
      match iF h 5 2 with
      | 0 => some (encR 0x20 r2 r1 0 r1 0x33)
      | 1 => some (encR 0 r2 r1 4 r1 0x33)
      | 2 => some (encR 0 r2 r1 6 r1 0x33)
      | _ => some (encR 0 r2 r1 7 r1 0x33)
  | 5 => some (encJ (cjOff h) 0)
  | 6 => some (encB (cbOff h) 0 r1 0)
  | _ => some (encB (cbOff h) 0 r1 1)

/-- Quadrant 2. -/
def expand2 (h : Nat) : Option Nat :=
  let rd := iF h 7 5
  let r2 := iF h 2 5
  match iF h 13 3 with
  | 0 => if iF h 12 1 = 1 then none else some (encI r2 rd 1 rd 0x13)
  | 2 => if rd = 0 then none else some (encI (iF h 2 2 * 64 + iF h 12 1 * 32 + iF h 4 3 * 4) 2 2 rd 0x03)
  | 4 =>
    if iF h 12 1 = 0 then
      if r2 = 0 then (if rd = 0 then none else some (encI 0 rd 0 0 0x67)) else some (encR 0 r2 0 0 rd 0x33)
    else if r2 = 0 then (if rd = 0 then some 0x00100073 else some (encI 0 rd 0 1 0x67))
    else some (encR 0 r2 rd 0 rd 0x33)
  | 6 => some (encS (iF h 7 2 * 64 + iF h 9 4 * 4) r2 2 2 0x23)
  | _ => none

/-- The 32-bit instruction of a halfword; none where it is illegal. -/
def expandC (h : Nat) : Option Nat :=
  match h % 4 with
  | 0 => expand0 h
  | 1 => expand1 h
  | _ => expand2 h

/-! ## Immediates and arithmetic -/

def immI (w : Nat) : Nat := sx 12 (iF w 20 12)
def immS (w : Nat) : Nat := sx 12 (iF w 25 7 * 32 + iF w 7 5)
def immB (w : Nat) : Nat := sx 13 (iF w 31 1 * 4096 + iF w 7 1 * 2048 + iF w 25 6 * 32 + iF w 8 4 * 2)
def immJ (w : Nat) : Nat := sx 21 (iF w 31 1 * 2 ^ 20 + iF w 12 8 * 4096 + iF w 20 1 * 2048 + iF w 21 10 * 2)

def wrap (v : Int) : Nat := (BitVec.ofInt 32 v).toNat

/-- OP and OP-IMM: `alt` is bit 30. -/
def aluOp (f3 : Nat) (alt : Bool) (a b : Nat) : Nat :=
  match f3 with
  | 0 => if alt then wrap ((a : Int) - b) else (a + b) % 2 ^ 32
  | 1 => a * 2 ^ (b % 32) % 2 ^ 32
  | 2 => if sext 32 a < sext 32 b then 1 else 0
  | 3 => if a < b then 1 else 0
  | 4 => a ^^^ b
  | 5 => if alt then wrap (sext 32 a / 2 ^ (b % 32)) else a / 2 ^ (b % 32)
  | 6 => a ||| b
  | _ => a &&& b

/-- M: multiply and divide, with the results the specification gives for a zero divisor and for overflow. -/
def mulOp (f3 a b : Nat) : Nat :=
  let x := sext 32 a
  let y := sext 32 b
  match f3 with
  | 0 => a * b % 2 ^ 32
  | 1 => wrap (x * y / 2 ^ 32)
  | 2 => wrap (x * b / 2 ^ 32)
  | 3 => a * b / 2 ^ 32
  | 4 => if b = 0 then 0xFFFFFFFF else wrap (Int.tdiv x y)
  | 5 => if b = 0 then 0xFFFFFFFF else a / b
  | 6 => if b = 0 then a else wrap (Int.tmod x y)
  | _ => if b = 0 then a else a % b

def branchTaken (f3 a b : Nat) : Option Bool :=
  match f3 with
  | 0 => some (a == b)
  | 1 => some (a != b)
  | 4 => some (decide (sext 32 a < sext 32 b))
  | 5 => some (decide (sext 32 b ≤ sext 32 a))
  | 6 => some (decide (a < b))
  | 7 => some (decide (b ≤ a))
  | _ => none

/-! ## Control and status registers -/

/-- MISA: RV32 with C, I, M, U, and non-standard extensions. -/
def misaVal : Nat := 0x40901104

/-- A counter that user mode may read when mcounteren allows it. -/
def userCounter (a : Nat) : Bool := (decide (0xC00 ≤ a) && decide (a ≤ 0xC1F)) || (decide (0xC80 ≤ a) && decide (a ≤ 0xC9F))

/-- A CSR that exists. -/
def csrExists (a : Nat) : Bool :=
  [0x300, 0x301, 0x304, 0x305, 0x306, 0x30A, 0x310, 0x31A, 0x320, 0x340, 0x341, 0x342, 0x343, 0x344, 0x7C0, 0x7C1, 0x7C2,
   0x800, 0x801, 0x802, 0x803, 0x804, 0xB00, 0xB02, 0xB80, 0xB82, 0xF11, 0xF12, 0xF13, 0xF14, 0xF15].contains a ||
  (decide (0x323 ≤ a) && decide (a ≤ 0x33F)) || (decide (0xB03 ≤ a) && decide (a ≤ 0xB1F)) ||
  (decide (0xB83 ≤ a) && decide (a ≤ 0xB9F)) || userCounter a

/-- Whether a mode may access a CSR, for a write or only a read. -/
def State.csrOk (s : State) (c a : Nat) (write : Bool) : Bool :=
  csrExists a &&
  ((s.clove c).machineMode || decide (a / 2 ^ 8 % 4 = 0)) &&
  (!userCounter a || (s.clove c).machineMode || bitOf (s.ccsr c 0x306) (a % 32)) &&
  (!write || (decide (a / 2 ^ 10 ≠ 3) && a != Csr.cself))

/-- A CSR's value. The cycle and time counters run with a clock that the model does not have: free, but for a cycle counter that
mcountinhibit.CY holds. -/
def State.csrRead (s : State) (c a : Nat) : Nat × State :=
  if a = Csr.cself then (c, s)
  else if a = 0x301 then (misaVal, s)
  else if a = 0xF14 then (c, s)
  else if a = 0xC01 ∨ a = 0xC81 then ((s.free 32).1.toNat, (s.free 32).2)
  else if a % 256 = 0 ∨ a % 256 = 0x80 then
    -- mcycle and cycle, and their upper halves
    if (a / 256 = 0xB ∨ a / 256 = 0xC) ∧ !bitOf (s.ccsr c Csr.mcountinhibit) 0 then ((s.free 32).1.toNat, (s.free 32).2)
    else if a / 256 = 0xC then (s.ccsr c (a - 0x100), s)
    else (s.ccsr c a, s)
  else if a = 0xC02 then (s.ccsr c Csr.minstret, s)
  else if a = 0xC82 then (s.ccsr c Csr.minstreth, s)
  else (s.ccsr c a, s)

/-- A write to a CSR: the bits that it keeps. -/
def State.csrWrite (s : State) (c a v : Nat) : State :=
  let keep (m : Nat) : State := s.setCcsr c a (v &&& m)
  if a = Csr.mstatus then
    -- MPP takes only U and M
    let mpp := if v / 2 ^ 11 % 4 = 3 ∨ v / 2 ^ 11 % 4 = 0 then v &&& 0x1800 else s.ccsr c a &&& 0x1800
    s.setCcsr c a ((v &&& 0x220088) + mpp)
  else if a = Csr.mepc then keep 0xFFFFFFFE
  else if a = Csr.mtvec then keep 0xFFFFFFFD
  else if a = 0x304 then keep 0x888
  else if a = 0x306 then s.setCcsr c a v
  else if a = Csr.mcountinhibit then
    -- a cycle counter that stops holds what it has come to, which is free
    if bitOf v 0 ∧ !bitOf (s.ccsr c a) 0 then
      let f := s.free 64
      ((f.2.setCcsr c Csr.mcycle (f.1.toNat % 2 ^ 32)).setCcsr c Csr.mcycleh (f.1.toNat / 2 ^ 32)).setCcsr c a (v &&& 0xFFFFFFFD)
    else keep 0xFFFFFFFD
  else if a = 0x30A then keep 1
  else if [0x340, 0x342, 0x343, 0x7C0, 0x7C1, 0x800, 0x801, 0x802, 0x803, 0x804, 0xB00, 0xB80, 0xB02, 0xB82].contains a then s.setCcsr c a v
  else s

/-- CSRRW, CSRRS, CSRRC and their immediate forms. -/
def State.cCsr (s : State) (c w len : Nat) : CX :=
  let a := iF w 20 12
  let f := iF3 w % 4
  let src := if iF3 w ≥ 4 then iRs1 w else s.cx c (iRs1 w)
  let write := f == 1 || iRs1 w != 0
  if !s.csrOk c a write then .trap Tr.illegal w 0 s else
  let r := if f = 1 ∧ iRd w = 0 then (0, s) else s.csrRead c a
  let old := r.1
  let s := r.2
  let new := match f with
    | 1 => src
    | 2 => old ||| src
    | _ => old &&& (0xFFFFFFFF ^^^ src)
  let s := if write then s.csrWrite c a new else s
  let s := (s.setCx c (iRd w) old).setCpc c ((s.clove c).pc.toNat + len)
  if write ∧ (a = Csr.minstret ∨ a = Csr.minstreth) then .wrote s else .next s

/-! ## Loads, stores, control -/

def State.cNext (s : State) (c len : Nat) : CX := .next (s.setCpc c ((s.clove c).pc.toNat + len))

/-- LB, LH, LW, LBU, LHU. -/
def State.rvLoad (s : State) (c w len : Nat) : CX :=
  let f := iF3 w
  let a := (s.cx c (iRs1 w) + immI w) % 2 ^ 32
  let n := 2 ^ (f % 4)
  if f % 4 = 3 ∨ f > 5 then .trap Tr.illegal w 0 s
  else if a % n ≠ 0 then .trap Tr.loadMis a 0 s
  else match s.cLoc c a (s.cUser c) .read with
    | none => .trap Tr.load a 0 s
    | some l =>
      if s.cStalled c [some l] then .wait (s.cStall c) else
      let r := s.cLoad c l n
      if r.2.1 ≠ 0 then .trap Tr.load a r.2.1 r.2.2 else
      let v := leVal r.1
      let v := if f = 0 then sx 8 v else if f = 1 then sx 16 v else v
      (r.2.2.setCx c (iRd w) v).cNext c len

/-- SB, SH, SW. -/
def State.rvStore (s : State) (c w len : Nat) : CX :=
  let f := iF3 w
  let a := (s.cx c (iRs1 w) + immS w) % 2 ^ 32
  let n := 2 ^ f
  if f > 2 then .trap Tr.illegal w 0 s
  else if a % n ≠ 0 then .trap Tr.storeMis a 0 s
  else match s.cLoc c a (s.cUser c) .write with
    | none => .trap Tr.store a 0 s
    | some l =>
      if s.cStalled c [some l] then .wait (s.cStall c) else
      (s.cWrite c l (leBytes n (s.cx c (iRs2 w))) false).cNext c len

/-- ECALL, EBREAK, MRET, WFI. -/
def State.rvSystem (s : State) (c w len : Nat) : CX :=
  let x := s.clove c
  if w = 0x00000073 then .trap (if x.machineMode then Tr.ecallM else Tr.ecallU) 0 0 s
  else if w = 0x00100073 then .trap Tr.breakpoint x.pc.toNat 0 s
  else if w = 0x30200073 then
    if !x.machineMode then .trap Tr.illegal w 0 s else
    let m := BitVec.ofNat 32 (s.ccsr c Csr.mstatus)
    let mpp := bits m 11 2
    let m := setBits (setBits (setBits m 3 1 (bits m 7 1)) 7 1 1) 11 2 0
    let m := if mpp = 3 then m else setBits m 17 1 0
    let s := s.setCcsr c Csr.mstatus m.toNat
    .next ((s.setClove c { s.clove c with machineMode := mpp == 3 }).setCpc c (s.ccsr c Csr.mepc))
  else if w = 0x10500073 then
    if !x.machineMode && bitOf (s.ccsr c Csr.mstatus) 21 then .trap Tr.illegal w 0 s else s.cNext c len
  else .trap Tr.illegal w 0 s

/-- One 32-bit instruction, of `len` bytes as fetched. -/
def State.rvExec (s : State) (c w len : Nat) : CX :=
  let pc := (s.clove c).pc.toNat
  let a := s.cx c (iRs1 w)
  let b := s.cx c (iRs2 w)
  match iOp w with
  | 0x37 => (s.setCx c (iRd w) (w / 2 ^ 12 * 2 ^ 12)).cNext c len
  | 0x17 => (s.setCx c (iRd w) (pc + w / 2 ^ 12 * 2 ^ 12)).cNext c len
  | 0x6F => .next ((s.setCx c (iRd w) (pc + len)).setCpc c (pc + immJ w))
  | 0x67 =>
    if iF3 w ≠ 0 then .trap Tr.illegal w 0 s
    else .next ((s.setCx c (iRd w) (pc + len)).setCpc c ((a + immI w) % 2 ^ 32 / 2 * 2))
  | 0x63 =>
    match branchTaken (iF3 w) a b with
    | none => .trap Tr.illegal w 0 s
    | some true => .next (s.setCpc c (pc + immB w))
    | some false => s.cNext c len
  | 0x03 => s.rvLoad c w len
  | 0x23 => s.rvStore c w len
  | 0x13 =>
    let f := iF3 w
    if (f = 1 ∧ iF7 w ≠ 0) ∨ (f = 5 ∧ iF7 w ≠ 0 ∧ iF7 w ≠ 0x20) then .trap Tr.illegal w 0 s
    else (s.setCx c (iRd w) (aluOp f (f == 5 && iF7 w == 0x20) a (if f = 1 ∨ f = 5 then iRs2 w else immI w))).cNext c len
  | 0x33 =>
    let f := iF3 w
    if iF7 w = 1 then (s.setCx c (iRd w) (mulOp f a b)).cNext c len
    else if iF7 w = 0 ∨ (iF7 w = 0x20 ∧ (f = 0 ∨ f = 5)) then
      (s.setCx c (iRd w) (aluOp f (iF7 w == 0x20) a b)).cNext c len
    else .trap Tr.illegal w 0 s
  | 0x0F =>
    -- FENCE: the core's own accesses are applied in order here; FENCE.I belongs to an extension that it does not have
    if iF3 w = 0 then s.cNext c len else .trap Tr.illegal w 0 s
  | 0x73 => if iF3 w = 0 then s.rvSystem c w len else if iF3 w = 4 then .trap Tr.illegal w 0 s else s.cCsr c w len
  | 0x0B => s.cExt c w
  | 0x2B => s.cExt c w
  | _ => .trap Tr.illegal w 0 s

/-! ## Fetch (09 R257, R259) -/

/-- The halfword at an address: none where a fetch faults. -/
def State.cFetch (s : State) (c a : Nat) : Option (Nat × State) :=
  let user := !(s.clove c).machineMode
  if a ≥ 0x20000 then none else
  match s.cLoc c a user .read with
  | none => none
  | some l =>
    let r := s.cRead c l 2
    if r.2.1 ≠ 0 then none else some (leVal r.1, r.2.2)

/-- CLOVE_INSTRUCTION (09 R256): core c executes the instruction at its pc. -/
def execCloveInstruction (c : ChanId) (s : State) : Host.Outcome State Fault Refusal :=
  if !s.cloveMay c then .next (s.cloveHeld c) else
  let pc := (s.clove c).pc.toNat
  match s.cFetch c pc with
  | none => .next (State.cEnd c (.trap Tr.fetch pc 0 s))
  | some (lo, s) =>
    if lo % 4 ≠ 3 then
      match expandC lo with
      | some w => .next (State.cEnd c (s.rvExec c w 2))
      | none => .next (State.cEnd c (.trap Tr.illegal lo 0 s))
    else
      match s.cFetch c (pc + 2) with
      | none => .next (State.cEnd c (.trap Tr.fetch (pc + 2) 0 s))
      | some (hi, s) => .next (State.cEnd c (s.rvExec c (lo + 65536 * hi) 4))

end Sys2Proof.Machine
end

