-- ==== Sys2Proof/Machine/CloveFn.lean ====
section
/-! DEFINITION. The functions of the Clove ROM's monitor and tenant entries (09 R276–R281, 10 R313). -/

namespace Sys2Proof.Machine

/-- A function ends: its status and RESULT are the monitor's, for CB.DONE. -/
def State.fnEnd (s : State) (c status result : Nat) : State :=
  let s := (s.setCx c 10 status).setCx c 11 result
  (s.setClove c { s.clove c with ran := true, mig := none }).cUnblock c |>.cUnstall c

/-- Runs a Prakuer function when the command held has its FUNC and has not run. -/
def State.fnRun (s : State) (c code : Nat) (f : State → BitVec 512 → State) : State :=
  let x := s.clove c
  match x.held with
  | some w => if s.cloveMay c ∧ !x.ran ∧ slotFunc w = code then f s w else s.cloveHeld c
  | none => s

/-- The granules from a partition-relative address. -/
def State.fnGran (s : State) (c pa : Nat) (acc : Acc) (i : Nat) : Option CLoc := s.cPart c (pa + 64 * i) acc

/-- A length that a function accepts, and granule-aligned addresses (09 R277). -/
def fnOk (len : Nat) (as : List Nat) : Bool := len != 0 && len % 64 == 0 && as.all (fun a => a % 64 == 0)

/-- CLOVE_COPY (09 R277). -/
def execCloveCopy (c : ChanId) (s : State) : Host.Outcome State Fault Refusal :=
  .next (s.fnRun c 1 (fun s w =>
    let dst := slotField w 24 8
    let src := slotField w 32 8
    let n := slotField w 40 4
    if !fnOk n [dst, src] then s.fnEnd c St.badArgument 0
    else if s.cStalled c ((List.range (n / 64)).flatMap (fun i => [s.fnGran c dst .write i, s.fnGran c src .read i])) then s.cStall c
    else let r := s.cCopy c (s.fnGran c src .read) (s.fnGran c dst .write) (n / 64); r.2.2.fnEnd c r.1 0))

/-- CLOVE_FILL (09 R277). -/
def execCloveFill (c : ChanId) (s : State) : Host.Outcome State Fault Refusal :=
  .next (s.fnRun c 2 (fun s w =>
    let dst := slotField w 24 8
    let n := slotField w 40 4
    if !fnOk n [dst] then s.fnEnd c St.badArgument 0
    else if s.cStalled c ((List.range (n / 64)).map (s.fnGran c dst .write)) then s.cStall c
    else let r := s.cFill c (s.fnGran c dst .write) (slotField w 32 8) (n / 64); r.2.2.fnEnd c r.1 0))

/-- CLOVE_COMPARE (09 R277). A granule that faults ends it with a status and no RESULT, which is free. -/
def execCloveCompare (c : ChanId) (s : State) : Host.Outcome State Fault Refusal :=
  .next (s.fnRun c 3 (fun s w =>
    let a := slotField w 24 8
    let b := slotField w 32 8
    let n := slotField w 40 4
    if !fnOk n [a, b] then s.fnEnd c St.badArgument 0
    else if s.cStalled c ((List.range (n / 64)).flatMap (fun i => [s.fnGran c a .read i, s.fnGran c b .read i])) then s.cStall c
    else match s.cCmp c (s.fnGran c a .read) (s.fnGran c b .read) 0 (n / 64) with
      | (.same, s) => s.fnEnd c St.ok 0xFFFFFFFF
      | (.differ o, s) => s.fnEnd c St.ok o
      | (.fault st _ _, s) => (s.free 32).2.fnEnd c st (s.free 32).1.toNat))

/-! ## GATHER -/

/-- Row k of a GATHER: its index is read, then the row is copied. Returns whether it moved cleanly, its status, the state; a row
that fails translation is written poisoned. -/
def State.gatherRow (s : State) (c table rb idx dst k : Nat) : Nat × State :=
  match s.cPart c (idx + 4 * k) .read with
  | none => (St.accessFault, ((s.cBulk c (fun _ _ => .fault) (s.fnGran c (dst + k * rb) .write) (rb / 64)).2.2))
  | some l =>
    let r := s.cLoad c l 4
    if r.2.1 ≠ 0 then
      -- the index is not known: its row is written poisoned
      (badStatus r.2.1, (r.2.2.cBulk c (fun _ _ => .fault) (r.2.2.fnGran c (dst + k * rb) .write) (rb / 64)).2.2)
    else
      let q := r.2.2.cCopy c (r.2.2.fnGran c (table + leVal r.1 * rb) .read) (r.2.2.fnGran c (dst + k * rb) .write) (rb / 64)
      (q.1, q.2.2)

/-- Rows 0 to n − 1: the worst status, the rows copied cleanly. After a row that failed translation the rest of the destination
is poisoned (09 R264). -/
def State.gatherRows (s : State) (c table rb idx dst : Nat) : Nat → Nat × Nat × State
  | 0 => (St.ok, 0, s)
  | n + 1 =>
    let r := s.gatherRows c table rb idx dst n
    if r.1 = St.accessFault then
      (r.1, r.2.1, (r.2.2.cBulk c (fun _ _ => .fault) (r.2.2.fnGran c (dst + n * rb) .write) (rb / 64)).2.2)
    else
      let q := r.2.2.gatherRow c table rb idx dst n
      (worse r.1 q.1, r.2.1 + (if q.1 = St.ok then 1 else 0), q.2)

/-- Every place that row k of a GATHER touches. -/
def State.gatherPlaces (s : State) (c table rb idx dst k : Nat) : List (Option CLoc) :=
  let row (acc : Acc) (a : Nat) : List (Option CLoc) := (List.range (rb / 64)).map (s.fnGran c a acc)
  let l := s.cPart c (idx + 4 * k) .read
  l :: row .write (dst + k * rb) ++ (match l with
    | some x => row .read (table + leVal (s.cLoad c x 4).1 * rb)
    | none => [])

/-- CLOVE_GATHER (09 R277). -/
def execCloveGather (c : ChanId) (s : State) : Host.Outcome State Fault Refusal :=
  .next (s.fnRun c 4 (fun s w =>
    let table := slotField w 24 8
    let rb := slotField w 32 4
    let cnt := slotField w 36 4
    let idx := slotField w 40 8
    let dst := slotField w 48 8
    if !fnOk rb [table, dst] ∨ rb > 4096 ∨ cnt = 0 ∨ cnt > 4096 ∨ idx % 4 ≠ 0 then s.fnEnd c St.badArgument 0
    else if s.cStalled c ((List.range cnt).flatMap (s.gatherPlaces c table rb idx dst)) then s.cStall c
    else let r := s.gatherRows c table rb idx dst cnt; r.2.2.fnEnd c r.1 r.2.1))

/-! ## Page copies (10 R300, R313) -/

/-- Where a page lies, when it is on channel c. -/
def State.pageHere (s : State) (c : Nat) (k : KvLayout) (page : Nat) (acc : Acc) : Option CLoc :=
  match s.cPart c (k.pageAt page) acc with
  | some (.dev d sh) => if isHbm d then some (.dev d sh) else none
  | _ => none

/-- A page-list entry read by the core: none where its address is refused. -/
def State.entryRead (s : State) (c pa : Nat) : Option (DWord × Nat × State) :=
  match s.cPart c pa .read with
  | some l => let r := s.cLoad c l 8; some (BitVec.ofNat 64 (leVal r.1), r.2.1, r.2.2)
  | none => none

/-- A page on channel c popped from a pool; one elsewhere is pushed back (10 R313). -/
def State.popHere (s : State) (c p : Nat) (k : KvLayout) (pool : Nat) : PageRes × State :=
  match s.alloc (c / 64) p k pool with
  | (.page n, s) =>
    if (s.pageHere c k n .write).isSome then (.page n, s)
    else (.bad St.accessFault, (s.release (c / 64) p k (plNew n pool 0)).2)
  | r => r

/-- The entry comes to name its new page, by a plain store, and the old page is released (10 R313). -/
def State.entryMove (s : State) (c p : Nat) (k : KvLayout) (pa pool new : Nat) (e : DWord) : Nat × State :=
  match s.cPart c pa .write with
  | none => (St.accessFault, (s.release (c / 64) p k (plNew new pool 0)).2)
  | some l =>
    let s := s.cWrite c l (leBytes 8 (plNew new pool (plBlock e)).toNat) false
    (St.ok, (s.release (c / 64) p k e).2)

/-- Moves the page of one entry to a page of the pool on this channel: status, the new page if it moved. `want` says which
entries move. -/
def State.pageMove (s : State) (c p : Nat) (k : KvLayout) (pa pool : Nat) (want : DWord → Bool) : Nat × Option Nat × State :=
  match s.entryRead c pa with
  | none => (St.accessFault, none, s)
  | some (e, bad, s) =>
    if bad ≠ 0 then (badStatus bad, none, s)
    else if !plValid e ∨ !plRes e ∨ !want e ∨ (s.pageHere c k (plPage e) .read).isNone then (St.ok, none, s)
    else match s.popHere c p k pool with
      | (.empty, s) => (St.poolEmpty, none, s)
      | (.bad st, s) => (st, none, s)
      | (.page n, s) =>
        let r := s.cCopy c (s.fnGran c (k.pageAt (plPage e)) .read) (s.fnGran c (k.pageAt n) .write) 1024
        let q := r.2.2.entryMove c p k pa pool n e
        if q.1 = St.ok then (r.1, some n, q.2) else (q.1, none, q.2)

/-- The layout of the core's partition, with the partition. -/
def State.cloveKv (s : State) (c : Nat) : Option (Nat × KvLayout) :=
  match s.partOfChan c with
  | some p => (s.part p).facet.kv.map (fun k => (p, k))
  | none => none

/-- CLOVE_PAGE_COW (10 R313). -/
def execClovePageCow (c : ChanId) (s : State) : Host.Outcome State Fault Refusal :=
  .next (s.fnRun c 5 (fun s w =>
    let pa := slotField w 24 8
    let pool := slotField w 32 1
    if pa % 8 ≠ 0 ∨ pool > 15 then s.fnEnd c St.badArgument 0
    else if s.cloveThrottle c = 2 then s.cStall c
    else match s.cloveKv c with
      | none => s.fnEnd c St.accessFault 0xFFFFFFFF
      | some (p, k) =>
        let r := s.pageMove c p k pa pool (fun e => !plOwn e)
        r.2.2.fnEnd c r.1 (r.2.1.getD 0xFFFFFFFF)))

/-! ## MIGRATE (10 R313) -/

/-- Within the channel: entries 0 to n − 1. -/
def State.migrateHere (s : State) (c p : Nat) (k : KvLayout) (pa pool : Nat) : Nat → Nat × Nat × State
  | 0 => (St.ok, 0, s)
  | n + 1 =>
    let r := s.migrateHere c p k pa pool n
    if r.1 = St.accessFault ∨ r.1 = St.poolEmpty then r else
    let q := r.2.2.pageMove c p k (pa + 8 * n) pool (fun _ => true)
    (if q.1 = St.poolEmpty then q.1 else worse r.1 q.1, r.2.1 + (if q.2.1.isSome then 1 else 0), q.2.2)

def Mig.start : Mig := ⟨0, 0, false, 0, false, 0, none⟩
def Mig.note (m : Mig) (st : Nat) : Mig := { m with fail := some (worse (m.fail.getD St.ok) st) }

/-- The next message of a source: a header, the entry index with bit 32 saying that its page moves, or a granule of the page. -/
def State.migrateSend (s : State) (c n dir : Nat) (k : KvLayout) (pa cnt : Nat) (m : Mig) : State :=
  if m.idx ≥ cnt then s.fnEnd c (m.fail.getD St.ok) m.moved
  else if s.chainRoom c n dir = 0 then (s.setClove c { s.clove c with mig := some m }).cBlock c (2 + dir)
  else
    let s := s.cUnblock c
    if !m.moving then
      let stay (s : State) (m : Mig) : State :=
        (s.chainPut c dir (BitVec.ofNat 512 m.idx) 0).setClove c
          { (s.chainPut c dir (BitVec.ofNat 512 m.idx) 0).clove c with mig := some { m with idx := m.idx + 1 } }
      match s.entryRead c (pa + 8 * m.idx) with
      | none => stay s (m.note St.accessFault)
      | some (e, bad, s) =>
        if bad ≠ 0 then stay s (m.note (badStatus bad))
        else if !plValid e ∨ !plRes e ∨ (s.pageHere c k (plPage e) .read).isNone then stay s m
        else
          let s := s.chainPut c dir (BitVec.ofNat 512 (m.idx + 2 ^ 32)) 0
          s.setClove c { s.clove c with mig := some { m with moving := true, page := plPage e, pos := 0 } }
    else
      match s.fnGran c (k.pageAt m.page) .read m.pos with
      | none => s.fnEnd c St.accessFault m.moved
      | some l =>
        let r := s.cRead c l 64
        let m := if r.2.1 = 0 then m else m.note (badStatus r.2.1)
        let s := r.2.2.chainPut c dir (BitVec.ofNat 512 (leVal r.1)) (if r.2.1 = 0 then 0 else 255)
        let m := if m.pos = 1023 then { m with moving := false, idx := m.idx + 1, moved := m.moved + 1 } else { m with pos := m.pos + 1 }
        s.setClove c { s.clove c with mig := some m }

/-- A page has arrived whole at a sink. -/
def State.migrateLand (s : State) (c p : Nat) (k : KvLayout) (pa pool : Nat) (m : Mig) : State × Mig :=
  match s.entryRead c (pa + 8 * m.idx) with
  | none => ((s.release (c / 64) p k (plNew m.page pool 0)).2, m.note St.accessFault)
  | some (e, bad, s) =>
    if bad ≠ 0 then ((s.release (c / 64) p k (plNew m.page pool 0)).2, m.note (badStatus bad))
    else
      let q := s.entryMove c p k (pa + 8 * m.idx) pool m.page e
      (q.2, if q.1 = St.ok then { m with moved := m.moved + 1 } else m.note q.1)

/-- A sink discards the data of an entry for which no page could be had, and all that remains after POOL_EMPTY or ACCESS_FAULT. -/
def Mig.dead (m : Mig) : Bool := m.lost || m.fail == some St.poolEmpty || m.fail == some St.accessFault

/-- The next message at a sink. -/
def State.migrateRecv (s : State) (c dir p : Nat) (k : KvLayout) (pa cnt pool : Nat) (m : Mig) : State :=
  if m.idx ≥ cnt then s.fnEnd c (m.fail.getD St.ok) m.moved else
  match (s.clove c).fifo dir with
  | [] => (s.setClove c { s.clove c with mig := some m }).cBlock c dir
  | (msg, poi) :: q =>
    let s := (s.setClove c ((s.clove c).setFifo dir q)).cUnblock c
    -- a poisoned header faults the monitor that loads it (09 R259, R270, R280; DEDUCED, notes/assumptions/72.md)
    if !m.moving ∧ poi ≠ 0 then (s.free 32).2.cTrap c Tr.load (s.free 32).1.toNat 1
    else if !m.moving then
      let m := { m with idx := msg.toNat % 2 ^ 32 }
      if !msg.getLsbD 32 then s.setClove c { s.clove c with mig := some { m with idx := m.idx + 1 } }
      else
        let m := { m with moving := true, pos := 0, lost := false }
        if m.dead then s.setClove c { s.clove c with mig := some m } else
        match s.popHere c p k pool with
        | (.page n, s) => s.setClove c { s.clove c with mig := some { m with page := n } }
        | (.empty, s) => s.setClove c { s.clove c with mig := some { m with lost := true, fail := some St.poolEmpty } }
        | (.bad st, s) => s.setClove c { s.clove c with mig := some { m.note st with lost := true } }
    else
      let s := if m.dead then s else
        match s.fnGran c (k.pageAt m.page) .write m.pos with
        | some l => s.cWrite c l (leBytes 64 msg.toNat) (poi != 0)
        | none => s
      let m := if poi = 0 then m else if m.dead then m else m.note St.poisoned
      if m.pos ≠ 1023 then s.setClove c { s.clove c with mig := some { m with pos := m.pos + 1 } }
      else
        let r := if m.dead then (s, m) else s.migrateLand c p k pa pool m
        r.1.setClove c { r.1.clove c with mig := some { r.2 with moving := false, idx := m.idx + 1 } }

/-- CLOVE_MIGRATE (10 R313): within the channel at once; over the chain one message at each event. -/
def execCloveMigrate (c : ChanId) (s : State) : Host.Outcome State Fault Refusal :=
  .next (s.fnRun c 6 (fun s w =>
    let pa := slotField w 24 8
    let cnt := slotField w 32 4
    let pool := slotField w 36 1
    let dir := slotField w 37 1
    if pa % 8 ≠ 0 ∨ cnt = 0 ∨ cnt > 65536 ∨ pool > 15 ∨ dir > 4 then s.fnEnd c St.badArgument 0
    else if s.cloveThrottle c = 2 then s.cStall c
    else match s.cloveKv c with
      | none => s.fnEnd c St.accessFault 0
      | some (p, k) =>
        if dir = 0 then
          let r := s.migrateHere c p k pa pool cnt
          r.2.2.fnEnd c r.1 r.2.1
        else
          let m := ((s.clove c).mig).getD Mig.start
          let up := if dir = 2 ∨ dir = 4 then 1 else 0
          match s.neighbour c up with
          | none => s.fnEnd c St.linkDown m.moved
          | some n => if dir ≤ 2 then s.migrateSend c n up k pa cnt m else s.migrateRecv c up p k pa cnt pool m))

/-! ## SCRUB (09 R277, 08 R230, 19 R599) -/

/-- What a scrub of a channel has found: sectors corrected and uncorrectable, the first bad offset, the rows of uncorrectable
granules. -/
structure ScrubSum where
  corr : Nat
  unc : Nat
  first : Option Nat
  rows : List Nat
deriving DecidableEq, Repr

/-- A row's bank and number, from an offset in the channel (08 R229). -/
def hbmRow (q : Nat) : Nat := q / 2 ^ 15 * 32 + q / 2 ^ 6 % 32

def ScrubSum.zero : ScrubSum := ⟨0, 0, none, []⟩
/-- What two ranges give together, the second `off` bytes on. -/
def ScrubSum.add (x y : ScrubSum) (off : Nat) : ScrubSum :=
  ⟨x.corr + y.corr, x.unc + y.unc, x.first.or (y.first.map (· + off)), x.rows ++ y.rows.filter (fun r => !x.rows.contains r)⟩

/-- Reads and rewrites n sectors from device address d. -/
def State.scrubSectors (s : State) (d : Nat) : Nat → ScrubSum × State
  | 0 => (ScrubSum.zero, s)
  | n + 1 =>
    let r := s.scrubSectors d n
    let a := d + 32 * n
    let u := r.2.mem.unit a
    let s := ((r.2.countUnit a u).countHbm a 1 0).countHbm a 1 1
    let x := r.1
    if u.bad = 2 then
      let row := hbmRow ((a - hbmBase) % channelBytes)
      (⟨x.corr, x.unc + 1, x.first.or (some (32 * n)), if x.rows.contains row then x.rows else x.rows ++ [row]⟩,
        s.rewriteUnit a u)
    else if u.fixed then ({ x with corr := x.corr + 1 }, s.rewriteUnit a u)
    else (x, s)

/-- Spares rows of a channel while it has spares left: how many, the state. -/
def State.spareRowsOf (s : State) (c : Nat) (rows : List Nat) : Nat × State :=
  rows.foldl (fun (a : Nat × State) row =>
    let left := bits (a.2.reg (Reg.hbmStatus c)) 0 5
    if left = 0 then a else
    let s := a.2.setField (Reg.hbmStatus c) 0 5 (left - 1)
    (a.1 + 1, s.setChan c { s.chan c with spareRows := (s.chan c).spareRows ++ [row] })) (0, s)

/-- A piece of a range to scrub: its offset in the range, its device address, its bytes, whether its window is SHARED. -/
structure ScrubPiece where
  off : Nat
  addr : Nat
  len : Nat
  shared : Bool

/-- One piece is scrubbed; what is rewritten in a SHARED window waits for the fence to be invalidated (09 R261). -/
def State.scrubPiece (s : State) (c : Nat) (q : ScrubPiece) : ScrubSum × State :=
  let r := s.scrubSectors q.addr (q.len / 32)
  let x := r.2.clove c
  let ls := (List.range (q.len / 128 + 1)).map (fun i => lineOf q.addr + 128 * i)
  (r.1, if q.shared then r.2.setClove c { x with dirty := x.dirty ++ ls.filter (fun l => !x.dirty.contains l) } else r.2)

/-- The Clove SCRUB of a range of channel c in pieces: the summary, rows spared. -/
def State.scrubHbm (s : State) (c : Nat) (ps : List ScrubPiece) : ScrubSum × Nat × State :=
  let r := ps.foldl (fun (a : ScrubSum × State) q =>
    let r := a.2.scrubPiece c q
    (a.1.add r.1 q.off, r.2)) (ScrubSum.zero, s)
  let q := r.2.spareRowsOf c r.1.rows
  (r.1, q.1, q.2)

/-- The pieces of n bytes from a partition-relative address, cut where a translation may change; none where one may not be read and written. -/
def State.scrubPieces (s : State) (c pa n : Nat) : Option (List ScrubPiece) :=
  ((List.range ((pa % 0x10000 + n + 0xFFFF) / 0x10000)).map (fun i =>
    let a := if i = 0 then pa else pa / 0x10000 * 0x10000 + 0x10000 * i
    let e := min (pa + n) (a / 0x10000 * 0x10000 + 0x10000)
    match s.cDev c a .read true false, s.cDev c a .write true false with
    | some _, some (.dev d sh) => some (ScrubPiece.mk (a - pa) d (e - a) sh)
    | _, _ => none)).foldr (fun x l => match x, l with
      | some q, some l => some (q :: l)
      | _, _ => none) (some [])

/-- CLOVE_SCRUB (09 R277): a range of which some granule has no translation in the channel is not begun; a summary that cannot be written ends it
with ACCESS_FAULT (09 R264). -/
def execCloveScrub (c : ChanId) (s : State) : Host.Outcome State Fault Refusal :=
  .next (s.fnRun c 7 (fun s w =>
    let pa := slotField w 24 8
    let n := slotField w 32 8
    if pa % 64 ≠ 0 ∨ n = 0 ∨ n % 2048 ≠ 0 then s.fnEnd c St.badArgument 0
    else if s.cloveThrottle c = 2 then s.cStall c
    else match s.scrubPieces c pa n with
      | some ps =>
        let r := s.scrubHbm c ps
        let s := r.2.2
        let first := match r.1.first with
          | some o => pa + o
          | none => 2 ^ 64 - 1
        let sum := leBytes 8 r.1.corr ++ leBytes 8 r.1.unc ++ leBytes 8 first ++ leBytes 4 r.2.1 ++ leBytes 4 0
        let st := if r.1.unc ≠ 0 then St.uncorrectable else St.ok
        if slotField w 16 4 = 0 then s.fnEnd c st 0 else
          match s.cPart c (slotField w 8 8) .write with
          | some l => (s.cWrite c l sum false).fnEnd c st 0
          | none => s.fnEnd c St.accessFault 0
      | none => s.fnEnd c St.accessFault 0))

/-! ## Tenant entries (09 R278–R280) -/

/-- TENANT_ENTRY (09 R279): the monitor calls the entry in user mode, a0 the slot's address in the scratch aperture, a1 HEAD. -/
def execTenantEntry (c : ChanId) (s : State) : Host.Outcome State Fault Refusal :=
  let x := s.clove c
  match x.held, x.program with
  | some w, some g =>
    if !s.cloveMay c ∨ x.ran ∨ x.tenant then .next (s.cloveHeld c) else
    match g.entries.find? (fun e => decide (0x80 ≤ slotFunc w) && e.1 == slotFunc w - 0x80 && e.2 != 0) with
    | none => .next s
    | some e =>
      let slot := 0xC0000000 + 2 ^ 48 + x.mbase.getD 0 + 128 + 64 * (x.head % 16) - s.ccsr c Csr.csbase * 0x10000
      let s := (s.setCx c 10 slot).setCx c 11 x.head
      let s := s.setClove c { s.clove c with machineMode := false, tenant := true, runAt := s.timebase }
      .next (s.setCpc c e.2)
  | _, _ => .next s

/-- TENANT_TIMEOUT (09 R280): the entry's run time is beyond the program's limit. -/
def execTenantTimeout (c : ChanId) (s : State) : Host.Outcome State Fault Refusal :=
  let x := s.clove c
  let limit := match x.program with
    | some g => g.limit
    | none => 1000000
  if !x.tenant ∨ s.timebase ≤ x.runAt + 1000 * limit then .next s else
  let r := s.free 32
  .next (((r.2.cEmpty c).countField (Reg.cloveStatus c) 0 8 1).cReturn c St.timeout r.1.toNat)

end Sys2Proof.Machine
end

