-- ==== Sys2Proof/Machine/Fabric.lean ====
section
/-! DEFINITION. Fabric ports: addresses, the CX frame, keys, connections, peer sessions and port states (16, 15 R465–R469, R472). -/

namespace Sys2Proof.Machine

/-! ## Addresses (16 R494, R495) -/

/-- Features in force (00 R3, 15 R484): 0 LIC_PARTITIONS, 1 LIC_FABRIC, 2 LIC_CONFIDENTIAL, 3 LIC_CLOVE. -/
def State.licence (s : State) (i : Nat) : Bool := bitOf s.loupe.features i

def State.fabricId (s : State) : Nat := 0x020000000000 + s.loupe.serial % 2 ^ 40
def addrDev (a : Nat) : Nat := a % 2 ^ 48
def addrPart (a : Nat) : Nat := a / 2 ^ 48 % 64
def addrPort (a : Nat) : Nat := a / 2 ^ 54 % 32
def hubOfPort (q : Nat) : Nat := q / 10
/-- A quad's ROLE byte in force (16 R488): the medium, the speed, whether the port is SWITCHED. -/
def Port.switched (x : Port) : Bool := x.role.getLsbD 5
/-- A quad's role is FABRIC (16 R488). -/
def Port.fabric (x : Port) : Bool := x.role.toNat % 4 == 2

/-- Serial comparison modulo 2^w: a is before b (16 R499). -/
def serialLt (w a b : Nat) : Bool := (b + 2 ^ w - a % 2 ^ w) % 2 ^ w != 0 && decide ((b + 2 ^ w - a % 2 ^ w) % 2 ^ w < 2 ^ (w - 1))
def serialLe (w a b : Nat) : Bool := a % 2 ^ w == b % 2 ^ w || serialLt w a b

/-- The connection of a partition with a peer under a job and channel (16 R499). -/
def connIs (p dev pp job chan : Nat) (c : Conn) : Bool :=
  c.part == p && c.dev == dev && c.peerPart == pp && c.job == job && c.chan == chan
def State.connIdx (s : State) (p dev pp job chan : Nat) : Option Nat := s.conns.findIdx? (connIs p dev pp job chan)
def State.setConn (s : State) (i : Nat) (c : Conn) : State := { s with conns := s.conns.set i c }

/-- A connection as FACET_ACTIVATE creates it (16 R499, R502, R503). -/
def Conn.new (p dev pp job chan now : Nat) : Conn :=
  { part := p, dev := dev, peerPart := pp, job := job, chan := chan, sendSeq := 0, sent := [], climit := 64, rto := 100000,
    srtt := 0, rttvar := 0, measured := false, timerAt := now, holeAt := none, cumack := none, recvInc := none, expect := 0,
    held := [], inbox := [], oldIn := 0, unacked := 0, firstAt := 0, told := 64 }

/-- F, the lowest SEQ of the sender's incarnation whose receive buffer is not free, and CLIMIT (16 R503). -/
def Conn.free (c : Conn) : Nat := match c.inbox.drop c.oldIn with
  | f :: _ => f.seq
  | [] => c.expect
def Conn.limit (c : Conn) : Nat := (c.free + 64) % 2 ^ 32

/-! ## Keys of a frame (15 R465–R469, R472) -/

/-- Slots of a partition that hold a LINK key of a job, in a state. -/
def State.linkSlots (s : State) (p job : Nat) (st : KState) : List Nat :=
  (s.keysOf p).filter (fun k => let x := s.key k; x.state == st && x.kind == 0 && x.job == job)

/-- The peers of a job (16 R506). -/
def State.jobPeers (s : State) (p job : Nat) : List (Nat × Nat) :=
  ((s.part p).facet.colls.filter (fun e => e.job == job)).foldl (fun a e =>
    [e.next, e.prev].foldl (fun a x =>
      let y := (addrDev x, addrPart x)
      if a.contains y then a else a ++ [y]) a) []

/-- Every peer of the slot's job has acknowledged its announcement. -/
def State.allAcked (s : State) (p k : Nat) : Bool := (s.jobPeers p (s.key k).job).all (fun x => (s.key k).acked.contains x)

/-- Of a job's slots, the one to send under (15 R467): of two, the newer once it is acknowledged. -/
def State.newerSlot (s : State) (p : Nat) (l : List Nat) : Option Nat :=
  match l with
  | [] => none
  | k :: ks => some (ks.foldl (fun a b =>
      let new := if serialLt 16 (s.key a).epoch (s.key b).epoch then b else a
      let old := if new = b then a else b
      if s.allAcked p new then new else old) k)

/-- Context i runs an instance of p's entries with a job and channel, not cut short, that started before slot k retired (15 R472 step 3). -/
def State.underSlot (s : State) (p job chan k i : Nat) : Bool :=
  let x := s.coll i
  x.running && !x.dead && x.part == some p && decide (x.startAt ≤ (s.key k).retireAt) &&
    (s.part p).facet.colls.any (fun e => e.id == x.entry && e.job == job && e.chan == chan)

/-- A connection has an instance still running under a retiring slot. -/
def State.stillUnder (s : State) (c : Conn) (k : Nat) : Bool :=
  s.colls.any (fun x => s.underSlot c.part c.job c.chan k x.1)

/-- The retiring slot that a connection's instances run under: of the job's slots that were in force when it retired, the one in use. -/
def State.retiringSlot (s : State) (c : Conn) : Option Nat :=
  let l := (s.linkSlots c.part c.job .retiring).filter (s.stillUnder c)
  -- an older slot in force beside the retiring one was in use until every peer had acknowledged the newer
  let older := (s.linkSlots c.part c.job .active).filter (fun a => l.any (fun k => serialLt 16 (s.key a).epoch (s.key k).epoch &&
    !s.allAcked c.part k))
  if older.isEmpty then s.newerSlot c.part l else none

/-- The slot that a connection's frames are sent under (15 R467, R472): the retiring slot that an instance still runs under; otherwise
the slot in force. -/
def State.sendSlot (s : State) (c : Conn) : Option Nat :=
  (s.retiringSlot c).or (s.newerSlot c.part (s.linkSlots c.part c.job .active))

/-- The partition holds a LINK slot for a job. -/
def State.holdsLink (s : State) (p job : Nat) : Bool :=
  !(s.linkSlots p job .active).isEmpty || !(s.linkSlots p job .retiring).isEmpty

/-- Info of the key derivation (15 R465). -/
def linkInfo (serial job epoch : Nat) : Nat :=
  leVal ((([0x43, 0x58, 0x32, 0x20, 0x4C, 0x49, 0x4E, 0x4B, 0x20, 0x76, 0x31] : List Nat).map (BitVec.ofNat 8)) ++
    leBytes 8 serial ++ leBytes 2 job ++ leBytes 2 epoch)
def linkKey (material salt serial job epoch : Nat) : Nat := (Config.hkdf material salt (linkInfo serial job epoch)).toNat

def nonceOf (chan epoch ctr : Nat) : Nat := chan % 2 ^ 16 + 2 ^ 16 * (epoch % 2 ^ 16) + 2 ^ 32 * (ctr % 2 ^ 64)

/-- The nonce counter of a slot on a channel; 2^64 once its last value has been used. -/
def KeySlot.ctr (x : KeySlot) (chan : Nat) : Nat := SMap.get 0 x.nonce chan

/-- Takes the next counter value (15 R468, R469). -/
def State.takeNonce (s : State) (k chan : Nat) : State :=
  let x := s.key k
  let n := x.ctr chan + 1
  s.setKey k { x with nonce := SMap.set 0 x.nonce chan n, rotateDue := x.rotateDue || decide (2 ^ 64 - 2 ^ 32 ≤ n),
                      exhausted := x.exhausted || decide (2 ^ 64 ≤ n) }

/-! ## Building and sending frames (16 R493, R496, R497) -/

/-- Big-endian bytes. -/
def beBytes (n x : Nat) : Bytes := (leBytes n x).reverse

/-- The 72-byte CX header. -/
def cxHeader (typ flags spart dpart sdev ddev job chan epoch len nctr seq cumack sack climit inc pmap digest : Nat) : Bytes :=
  leBytes 1 (16 + typ) ++ leBytes 1 flags ++ leBytes 1 spart ++ leBytes 1 dpart ++ leBytes 6 sdev ++ leBytes 6 ddev ++ leBytes 2 job ++
  leBytes 2 chan ++ leBytes 2 epoch ++ leBytes 2 len ++ leBytes 8 nctr ++ leBytes 4 seq ++ leBytes 4 cumack ++ leBytes 8 sack ++
  leBytes 4 climit ++ leBytes 2 inc ++ leBytes 2 0 ++ leBytes 8 pmap ++ leBytes 8 digest

/-- Ethernet framing, with a tag when VID is not 0, and the FCS. -/
def State.etherFrame (s : State) (q ddev : Nat) (body : Bytes) : Bytes :=
  let v := s.reg (Reg.fabVlan q)
  let tag := if bits v 0 12 = 0 then [] else beBytes 2 0x8100 ++ beBytes 2 (v.toNat % 65536)
  let f := beBytes 6 ddev ++ beBytes 6 s.fabricId ++ tag ++ beBytes 2 (s.reg Reg.fabEtype).toNat ++ body
  f ++ leBytes 4 (crc32 f)

/-- A frame leaves port q; its bytes are counted (20 R603). -/
def State.emit (s : State) (q : Nat) (f : Bytes) : State := (s.tally none 5 (Cnt.fab q 0) f.length).send (.frame q f)

/-- A frame is given to port q (16 R487, R511): it leaves where the port's link is up, waits where the port trains, and is dropped
elsewhere. In HOLD and SHUTDOWN the ports send nothing (17 R547, 18 R565). -/
def State.sendBytes (s : State) (q : Nat) (f : Bytes) : State :=
  let x := s.port q
  if s.dev = .hold ∨ s.dev = .shutdown ∨ s.dev = .cold ∨ !x.fabric then s else
  match x.state with
  | .auth | .up => s.emit q f
  | .training | .retraining => if x.linkUp then s.emit q f else s.setPort q { x with wait := x.wait ++ [f] }
  | _ => s

/-- The frames that wait for port q leave. -/
def State.flushPort (s : State) (q : Nat) : State :=
  let l := (s.port q).wait
  l.foldl (fun s f => s.sendBytes q f) (s.setPort q { s.port q with wait := [] })

/-- A CONTROL frame (16 R497). -/
def State.sendControl (s : State) (q dev : Nat) (payload : Bytes) : State :=
  let h := cxHeader 2 1 0 0 s.fabricId dev 0 0xFFFF 0 payload.length 0 0 0 0 0 0 0 0
  s.sendBytes q (s.etherFrame q dev (h ++ payload ++ leBytes 8 (crc64 0 (h ++ payload)) ++ leBytes 8 0))

/-- A DATA (typ 0) or ACK (typ 1) frame on connection i through port q, under key slot k or CLEAR, with current ACK fields. -/
def State.sendConn (s : State) (i q : Nat) (k : Option Nat) (typ : Nat) (retx : Bool) (seq : Nat) (payload : Bytes)
    (pmap digest : Nat) : State :=
  match s.conns[i]? with
  | none => s
  | some c =>
    let sack := c.held.foldl (fun m f => m ||| 2 ^ ((f.seq + 2 ^ 32 - (c.expect + 1)) % 2 ^ 32)) 0
    let inc := (s.part c.part).inc
    let epoch := match k with | some k => (s.key k).epoch | none => 0
    let ctr := match k with | some k => (s.key k).ctr c.chan | none => 0
    let h := cxHeader typ ((if k.isNone then 1 else 0) + (if retx then 2 else 0)) c.part c.peerPart s.fabricId c.dev c.job c.chan epoch
      payload.length ctr seq ((c.expect + 2 ^ 32 - 1) % 2 ^ 32) sack c.limit inc pmap digest
    let body := match k with
      | some k =>
        let n := nonceOf c.chan epoch ctr
        let x := Config.gcmText (s.key k).key n payload
        h ++ x ++ leBytes 16 (Config.gcmTag (s.key k).key n h x).toNat
      | none => h ++ payload ++ leBytes 8 (crc64 0 (h ++ payload)) ++ leBytes 8 0
    let s := match k with | some k => s.takeNonce k c.chan | none => s
    let s := s.setConn i { c with unacked := 0, told := c.limit }
    let s := if typ = 0 then s.tally (some c.part) 5 (Cnt.fabPart c.part q 0) payload.length else s
    s.sendBytes q (s.etherFrame q c.dev body)

/-- The port that a partition's frames to a connection's peer take: that of the entry's fabric address. -/
def State.connPort (s : State) (c : Conn) : Option Nat :=
  (s.part c.part).facet.colls.findSome? (fun e =>
    if e.job = c.job ∧ e.chan = c.chan then
      [e.next, e.prev].findSome? (fun a => if addrDev a = c.dev ∧ addrPart a = c.peerPart then some (addrPort a) else none)
    else none)

/-- What sending on a connection needs: its port UP, and a key with a counter left, or CLEAR where the partition holds no LINK slot. -/
inductive SendWay where
  | ready (q : Nat) (k : Option Nat)
  | wait
  | down
  | exhausted
deriving DecidableEq, Repr

def State.sendWay (s : State) (c : Conn) : SendWay :=
  match s.connPort c with
  | none => .down
  | some q =>
    match (s.port q).state with
    | .up =>
      if !s.licence 2 ∨ !s.holdsLink c.part c.job then .ready q none
      else match s.sendSlot c with
        | none => .down
        | some k => if 2 ^ 64 ≤ (s.key k).ctr c.chan then .exhausted else .ready q (some k)
    | .training | .auth | .retraining => .wait
    | _ => .down

/-! ## Ports (16 R507–R512) -/

/-- An instance is cut short with a status (11 R329). -/
def collRank (c : Nat) : Nat :=
  if c = St.poisoned then 1 else if c = St.timeout then 2 else if c = St.linkDown then 3 else if c = St.keyExhausted then 4
  else if c = St.accessFault then 5 else if c = St.deviceHold then 6 else 0
def worseColl (a b : Nat) : Nat := if collRank a ≥ collRank b then a else b
def CollCtx.abort (x : CollCtx) (st : Nat) : CollCtx :=
  if x.running then { x with dead := true, status := worseColl x.status st } else x

/-- Contexts whose entry a test picks are cut short with LINK_DOWN; those of a LOGGED replay use no fabric (11 R347). -/
def State.linkDown (s : State) (f : CollEntry → Bool) : State :=
  { s with colls := s.colls.map (fun x =>
      let hit := match x.2.part with
        | some p => !(s.part p).replayLog && (s.part p).facet.colls.any (fun e => e.id == x.2.entry && f e)
        | none => false
      (x.1, if hit then x.2.abort St.linkDown else x.2)) }

/-- The port leaves the hub's queue of retraining ports; the next one's training starts (16 R508). -/
def State.retrainOut (s : State) (q : Nat) : State :=
  let h := hubOfPort q
  let l := (SMap.get [] s.loupe.retrainQ h).filter (· != q)
  let s := { s with loupe := { s.loupe with retrainQ := SMap.set [] s.loupe.retrainQ h l } }
  match l with
  | n :: _ => if (s.port n).linkUp then s else s.setPort n { s.port n with training := true }
  | [] => s

/-- A port that holds no frames for its peers any more drops those that wait, and the sessions that were opening through it. -/
def State.portOff (s : State) (q : Nat) : State :=
  let s := s.setPort q { s.port q with wait := [] }
  { s with sessions := s.sessions.filter (fun x => x.port != q || x.phase == .open_) }

/-- The port changes state. -/
def State.portTo (s : State) (q : Nat) (st : PortState) : State :=
  let x := s.port q
  let back : Bool := st == .training && (x.state == .disabled || x.state == .quarantined)
  let s := s.setPort q { x with state := st, training := false, linkUp := st == .auth || st == .up,
                                peerAuth := x.peerAuth && (st == .up || st == .retraining || st == .auth),
                                faultAt := if back then [] else x.faultAt, fails := if back then 0 else x.fails,
                                qcause := if st = .quarantined then x.qcause else 0 }
  let s := if x.state = .retraining ∧ st ≠ .retraining then s.retrainOut q else s
  if st = .disabled ∨ st = .absent ∨ st = .quarantined then
    (s.portOff q).linkDown (fun e => addrPort e.next == q || addrPort e.prev == q)
  else if st = .auth ∨ st = .up then s.flushPort q
  else s

/-- The port enters RETRAINING and waits its turn. -/
def State.retrain (s : State) (q : Nat) : State :=
  let h := hubOfPort q
  let s := s.portTo q .retraining
  let l := SMap.get [] s.loupe.retrainQ h ++ [q]
  let s := { s with loupe := { s.loupe with retrainQ := SMap.set [] s.loupe.retrainQ h l } }
  s.setPort q { s.port q with training := l == [q] }

/-- The port is quarantined for a cause: 1 FAULTY, 2 HOSTILE. -/
def State.quarantine (s : State) (q cause : Nat) : State :=
  let s := s.portTo q .quarantined
  s.setPort q { s.port q with qcause := cause }

/-- A drop counted in AUTH_FAIL; more than 4,096 within 1 s quarantine the port (16 R510). -/
def State.authFail (s : State) (q : Nat) : State :=
  let s := s.countField (Reg.portErr q) 8 8 1
  let x := s.port q
  let l := x.authAt.filter (fun t => decide (s.timebase < t + 1000000000)) ++ [s.timebase]
  let s := s.setPort q { x with authAt := l }
  if l.length > 4096 ∧ (x.state = .auth ∨ x.state = .up) then s.quarantine q 2 else s

/-! ## Peer sessions (16 R504–R506) -/

def State.session (s : State) (dev : Nat) : Option Session := s.sessions.find? (fun x => x.dev == dev)
def State.putSession (s : State) (x : Session) : State :=
  { s with sessions := s.sessions.filter (fun y => y.dev != x.dev) ++ [x] }
/-- A session is closed: a DIRECT port with that partner has none open any more (16 R515). -/
def State.dropSession (s : State) (dev : Nat) : State :=
  let s := { s with sessions := s.sessions.filter (fun y => y.dev != dev) }
  (List.range 20).foldl (fun s q =>
    let x := s.port q
    if x.partner = dev ∧ x.peerAuth then s.setPort q { x with peerAuth := false } else s) s

/-- SPDM request and response codes of the key exchange. -/
def spdmKeyExchange : Nat := 0xE4
def spdmFinish : Nat := 0xE5
def spdmKeyExchangeRsp : Nat := 0x64
def spdmFinishRsp : Nat := 0x65
def spdmGetVersion : Nat := 0x84
/-- The other requests that a peer may make before the key exchange: capabilities, algorithms, digests and certificate. -/
def spdmQueries : List Nat := [0xE1, 0xE3, 0x81, 0x82]

/-- One of this part's SPDM messages leaves on a fabric port. -/
def State.sendSpdm (s : State) (q dev code : Nat) : State :=
  { s with freeCtr := s.freeCtr + 1 }.sendControl q dev (Config.spdmMsg code s.freeCtr)

/-- Starts a session with a peer, unless one exists or 256 do. -/
def State.openSession (s : State) (q dev : Nat) : State :=
  if (s.session dev).isSome ∨ s.sessions.length ≥ 256 then s else
  (s.putSession ⟨dev, q, .asked, true, 0, 0, 0, s.timebase⟩).sendSpdm q dev spdmKeyExchange

/-- A message leaves inside an open session (16 R505). -/
def State.sendSealed (s : State) (dev : Nat) (msg : Bytes) : State :=
  match s.session dev with
  | some x =>
    if x.phase = .open_ then (s.putSession { x with tx := x.tx + 1 }).sendControl x.port dev (Config.sealMsg x.key x.tx msg) else s
  | none => s

/-- The session with a peer, if open, is in use: it is not idle (16 R504). -/
def State.useSession (s : State) (dev : Nat) : State :=
  match s.session dev with
  | some x => if x.phase = .open_ then s.putSession { x with usedAt := s.timebase } else s
  | none => s

/-- An application message other than a HEARTBEAT. -/
def State.sendApp (s : State) (dev : Nat) (msg : Bytes) : State := (s.sendSealed dev msg).useSession dev
/-- The session with a peer is open. -/
def State.sessionUp (s : State) (dev : Nat) : Bool := (s.session dev).any (fun x => x.phase == .open_)

/-- An application message to a peer that port q leads to: inside its session, which opens first where there is none (16 R504). -/
def State.tell (s : State) (q dev : Nat) (msg : Bytes) : State :=
  if s.sessionUp dev then s.sendApp dev msg
  else { s with appq := s.appq ++ [(dev, q, msg)] }.openSession q dev

/-- The messages that wait for a session with a peer leave in it. -/
def State.tellWaiting (s : State) (dev : Nat) : State :=
  let l := s.appq
  (l.filter (fun m => m.1 == dev)).foldl (fun s m => s.sendApp dev m.2.2) { s with appq := l.filter (fun m => m.1 != dev) }

/-- A session has ended: a DIRECT port that waits for its partner's, and otherwise the first waiting message's peer, gets one (16 R504). -/
def State.openWaiting (s : State) : State :=
  match (List.range 20).find? (fun q => let x := s.port q
    x.fabric && !x.switched && x.linkUp && (x.state == .auth || x.state == .retraining) && (s.session x.partner).isNone) with
  | some q => s.openSession q (s.port q).partner
  | none =>
    match s.appq.find? (fun m => (s.session m.1).isNone) with
    | some m => s.openSession m.2.1 m.1
    | none => s

/-- The port of the fabric address by which a partition's entries name a peer (16 R495). -/
def State.peerPort (s : State) (p : Nat) (peer : Nat × Nat) : Nat :=
  ((s.part p).facet.colls.findSome? (fun e => [e.next, e.prev].findSome? (fun a =>
    if addrDev a = peer.1 ∧ addrPart a = peer.2 then some (addrPort a) else none))).getD 0

/-- The ANNOUNCE of LINK slot k to a peer (16 R506): in the peer's session, whose opening sends it where it is not open yet. -/
def State.announce (s : State) (p k : Nat) (peer : Nat × Nat) : State :=
  let x := s.key k
  if !s.sessionUp peer.1 then s.openSession (s.peerPort p peer) peer.1 else
  s.sendApp peer.1 (leBytes 1 2 ++ leBytes 1 p ++ leBytes 1 peer.2 ++ leBytes 1 0 ++ leBytes 2 x.job ++ leBytes 2 x.epoch ++ leBytes 16 x.salt)

/-- ANNOUNCEs of a partition's ACTIVE LINK slots that pick a peer and a slot. -/
def State.announceAll (s : State) (p : Nat) (want : Nat → Nat × Nat → Bool) : State :=
  ((s.keysOf p).filter (fun k => (s.key k).state == .active && (s.key k).kind == 0)).foldl (fun s k =>
    ((s.jobPeers p (s.key k).job).filter (want k)).foldl (fun s y => s.announce p k y) s) s

/-- A session opens: a DIRECT port comes UP with its partner, and announcements to the peer go out (16 R504, R506, R507). -/
def State.sessionOpen (s : State) (x : Session) : State :=
  let s := s.putSession { x with phase := .open_, missed := 0, usedAt := s.timebase }
  let y := s.port x.port
  let s :=
    if !y.switched ∧ y.partner = x.dev ∧ (y.state = .auth ∨ y.state = .up ∨ (y.state = .retraining ∧ y.linkUp)) then
      let s := if y.state = .up then s else s.portTo x.port .up
      s.setPort x.port { s.port x.port with peerAuth := true, fails := 0 }
    else s
  ((List.range 64).foldl (fun s p => s.announceAll p (fun _ z => z.1 == x.dev)) s).tellWaiting x.dev

/-- An ACK frame on connection i (16 R501), in an open session (16 R504). -/
def State.sendAck (s : State) (i : Nat) : State :=
  match s.conns[i]? with
  | none => s
  | some c =>
    match s.sendWay c with
    | .ready q k => if s.sessionUp c.dev then s.sendConn i q k 1 false 0 [] 0 0 else s.openSession q c.dev
    | _ => s

/-! ## Receiving (16 R498) -/

/-- A frame taken apart: after the Ethernet header and an optional tag; none unless it is a CX frame for this part. -/
def State.cxBody (s : State) (f : Bytes) : Option Bytes :=
  let n := f.length
  if n < 18 ∨ leVal ((f.take 6).reverse) ≠ s.fabricId then none else
  let rest := (f.take (n - 4)).drop 12
  let et (b : Bytes) : Nat := leVal ((b.take 2).reverse)
  let rest := if et rest = 0x8100 then rest.drop 4 else rest
  if et rest = (s.reg Reg.fabEtype).toNat % 65536 then some (rest.drop 2) else none

def hField (b : Bytes) (o n : Nat) : Nat := leVal ((b.drop o).take n)

/-- A length that the TYPE allows. -/
def lenOk (typ len : Nat) : Bool :=
  match typ with
  | 0 => decide (64 ≤ len) && decide (len ≤ 4096) && len % 64 == 0
  | 1 => len == 0
  | 2 => decide (1 ≤ len) && decide (len ≤ 1024)
  | _ => false

/-- Whether a plain SPDM message is one that the session's state permits (16 R504). -/
def State.spdmPermitted (s : State) (dev code : Nat) : Bool :=
  match s.session dev with
  | none => code == spdmGetVersion || spdmQueries.contains code || code == spdmKeyExchange
  | some x => match x.phase with
    | .asked => code == spdmKeyExchangeRsp || code == spdmKeyExchange
    | .answered => (x.req && code == spdmFinishRsp) || (!x.req && code == spdmFinish)
    | .open_ => code == spdmKeyExchange

/-- The receive key of a frame (15 R466, R467). -/
def State.recvKey (s : State) (p dev pp job epoch : Nat) : Option RecvKey :=
  s.recvKeys.find? (fun k => k.part == p && k.dev == dev && k.peerPart == pp && k.job == job && k.epoch == epoch)

/-- Puts an accepted frame in the port's list. -/
def State.accept (s : State) (q : Nat) (f : RxFrame) : State :=
  { s with inq := SMap.put s.inq q (SMap.get [] s.inq q ++ [f]) }

/-- A CONTROL frame's check (16 R498 step 3), with the rate limits of R510 on new exchanges. -/
def State.recvControl (s : State) (q : Nat) (b : Bytes) : State :=
  let dev := hField b 4 6
  let pay := (b.drop 72).take (hField b 22 2)
  let f : RxFrame := { typ := 2, spart := 0, dpart := 0, sdev := dev, job := 0, chan := 0, seq := 0, cumack := 0, sack := 0, climit := 0,
                       inc := 0, pmap := 0, digest := 0, payload := pay, sealed_ := false }
  let code := hField pay 1 1
  if hField b (72 + hField b 22 2) 16 ≠ crc64 0 (b.take 72 ++ pay) then s.authFail q
  else if hField pay 0 1 / 16 = 1 ∧ s.spdmPermitted dev code then
    let x := s.port q
    let l := x.exchAt.filter (fun e => decide (s.timebase < e.2.1 + 1000000000))
    -- a KEY_EXCHANGE goes on with the exchange that its sender's GET_VERSION began
    let goes : Bool := code == spdmKeyExchange && l.any (fun e => e.1 == dev && e.2.2)
    if (code = spdmKeyExchange ∧ !goes) ∨ code = spdmGetVersion then
      if l.length ≥ 100 ∨ l.any (fun e => e.1 == dev && decide (s.timebase < e.2.1 + 10000000)) then s.authFail q
      else
        let s := s.setPort q { x with exchAt := l ++ [(dev, s.timebase, code == spdmGetVersion)] }
        if code = spdmGetVersion then s.sendSpdm q dev (code - 0x80) else s.accept q f
    else if goes then
      (s.setPort q { x with exchAt := l.map (fun e => if e.1 = dev then (e.1, e.2.1, false) else e) }).accept q f
    else if spdmQueries.contains code then s.sendSpdm q dev (code - 0x80)
    else s.accept q f
  else match s.session dev with
    | some x =>
      match (if x.phase = .open_ then Config.openMsg x.key pay else none) with
      | some m => (if hField m 0 1 = 1 then s else s.useSession dev).accept q { f with payload := m, sealed_ := true }
      | none => s.authFail q
    | none => s.authFail q

/-- The highest NCTR accepted rises. -/
def State.noteNctr (s : State) (k : RecvKey) (chan n : Nat) : State :=
  { s with recvKeys := s.recvKeys.map (fun y => if y = k then { y with seen := y.seen.filter (fun e => e.1 != chan) ++ [(chan, n)] } else y) }

/-- A DATA or ACK frame's checks (16 R498 steps 4–8). -/
def State.recvConn (s : State) (q : Nat) (b : Bytes) : State :=
  let flags := hField b 1 1
  let clear := bitOf flags 0
  let sp := hField b 2 1 % 64
  let dp := hField b 3 1 % 64
  let dev := hField b 4 6
  let job := hField b 16 2
  let chan := hField b 18 2
  let epoch := hField b 20 2
  let len := hField b 22 2
  let nctr := hField b 24 8
  let h := b.take 72
  let pay := (b.drop 72).take len
  let tag := hField b (72 + len) 16
  let entry := (s.part dp).state != .empty && (s.part dp).facet.colls.any (fun e =>
    e.job == job && e.chan == chan && e.hub == hubOfPort q &&
    [e.next, e.prev].any (fun a => addrDev a == dev && addrPart a == sp))
  let conn := (s.connIdx dp dev sp job chan).bind (fun i => s.conns[i]?)
  let key := s.recvKey dp dev sp job epoch
  -- step 5 of R498: a retiring key that no instance of the connection runs under any more
  let retired := match key with
    | some k => (s.key k.slot).state == .retiring && !(match conn with | some c => s.stillUnder c k.slot | none => false)
    | none => false
  let old := (s.part dp).retired.any (fun r => r.dev == dev && r.job == job && serialLe 16 epoch r.epoch)
  let f (text : Bytes) : RxFrame :=
    { typ := hField b 0 1 % 16, spart := sp, dpart := dp, sdev := dev, job := job, chan := chan, seq := hField b 32 4,
      cumack := hField b 36 4, sack := hField b 40 8, climit := hField b 48 4, inc := hField b 52 2, pmap := hField b 56 8,
      digest := hField b 64 8, payload := text, sealed_ := false }
  if !entry then s.countField (Reg.portDrop q) 24 8 1
  -- before the session is open no DATA or ACK frame is exchanged (16 R504, log 94)
  else if !s.sessionUp dev then s.authFail q
  else if (!clear && retired) || (!clear && old) then s.countField (Reg.portErr q) 0 8 1
  else if clear then
    if s.licence 2 && s.holdsLink dp job then s.authFail q
    else if tag ≠ crc64 0 (h ++ pay) then s.authFail q
    else (s.useSession dev).accept q (f pay)
  else match key with
    | none => s.authFail q
    | some k =>
      let n := nonceOf chan epoch nctr
      if !s.holdsLink dp job ∨ tag ≠ (Config.gcmTag k.key n h pay).toNat then s.authFail q
      else if k.seen.any (fun e => e.1 == chan && decide (nctr ≤ e.2)) then s.countField (Reg.portDrop q) 8 8 1
      else ((s.noteNctr k chan nctr).useSession dev).accept q (f (Config.gcmText k.key n pay))

/-- FRAME_RECEIVE (16 R498): port q receives a frame, from its destination address to its FCS. -/
def execFrameReceive (q : PortId) (frame : List Byte) (s : State) : Host.Outcome State Fault Refusal :=
  let st := (s.port q).state
  if st ≠ .auth ∧ st ≠ .up ∧ st ≠ .retraining then .next s else
  let n := frame.length
  let s := s.tally none 5 (Cnt.fab q 1) n
  if n < 4 ∨ hField frame (n - 4) 4 ≠ crc32 (frame.take (n - 4)) then .next (s.countField (Reg.portErr q) 16 8 1)
  else match s.cxBody frame with
    | none => .next s
    | some b =>
      let typ := hField b 0 1 % 16
      let len := hField b 22 2
      if b.length < 88 ∨ hField b 0 1 / 16 ≠ 1 ∨ typ > 2 ∨ !lenOk typ len ∨ b.length < 88 + len ∨ hField b 10 6 ≠ s.fabricId then
        .next (s.countField (Reg.portDrop q) 24 8 1)
      else if typ = 2 then .next (s.recvControl q b)
      else .next (s.recvConn q b)

/-! ## Sequencing and acknowledgement (16 R500–R503) -/

/-- Takes the oldest accepted frame of port q when a test picks it. -/
def State.takeFrame (s : State) (q : Nat) (want : RxFrame → Bool) : Option (RxFrame × State) :=
  match SMap.get [] s.inq q with
  | f :: fs => if want f then some (f, { s with inq := SMap.set [] s.inq q fs }) else none
  | [] => none

/-- A round-trip measurement R (16 R502, RFC 6298). -/
def Conn.measure (c : Conn) (r : Nat) : Conn :=
  if c.measured then
    { c with rttvar := (3 * c.rttvar + (if c.srtt ≥ r then c.srtt - r else r - c.srtt)) / 4, srtt := (7 * c.srtt + r) / 8 }
  else { c with measured := true, srtt := r, rttvar := r / 2 }

def Conn.baseRto (c : Conn) : Nat := if c.measured then max 20000 (c.srtt + 4 * c.rttvar) else 100000

/-- CUMACK, SACK and CLIMIT of a frame are taken (16 R501, R502). -/
def Conn.takeAck (c : Conn) (cumack sack climit now : Nat) : Conn :=
  let c := if serialLt 32 c.climit climit then { c with climit := climit } else c
  let fresh := match c.cumack with
    | some a => serialLt 32 a cumack
    | none => c.sent.any (fun f => serialLe 32 f.seq cumack)
  let c := if fresh then
      let gone := c.sent.filter (fun f => serialLe 32 f.seq cumack)
      let c := match (gone.filter (fun f => f.once)).getLast? with
        | some f => c.measure (now - f.at_)
        | none => c
      { c with cumack := some cumack, sent := c.sent.filter (fun f => !serialLe 32 f.seq cumack), rto := c.baseRto, timerAt := now }
    else c
  { c with sent := c.sent.map (fun f =>
      let d := (f.seq + 2 ^ 32 - (cumack + 2) % 2 ^ 32) % 2 ^ 32
      if d < 64 ∧ bitOf sack d then { f with sacked := true } else f) }

/-- Sends frame f of connection i again (16 R502), in an open session. -/
def State.resend (s : State) (i : Nat) (f : SentFrame) : State :=
  match s.conns[i]? with
  | none => s
  | some c =>
    match s.sendWay c with
    | .ready q k =>
      if !s.sessionUp c.dev then s.openSession q c.dev else
      let s := s.sendConn i q k 0 true f.seq f.bytes f.pmap f.digest
      (match s.conns[i]? with
       | some c => s.setConn i { c with sent := c.sent.map (fun g => if g.seq = f.seq then { g with once := false } else g) }
       | none => s)
    | _ => s

/-- A hole: SACK marks three or more frames above the first missing one. -/
def State.fillHole (s : State) (i : Nat) : State :=
  match s.conns[i]? with
  | none => s
  | some c =>
    match c.sent with
    | f :: fs =>
      let due : Bool := match c.holeAt with | some (n, t) => n != f.seq || decide (t + c.srtt ≤ s.timebase) | none => true
      let can : Bool := match s.sendWay c with | .ready _ _ => s.sessionUp c.dev | _ => false
      if !f.sacked ∧ (fs.filter (·.sacked)).length ≥ 3 ∧ due ∧ can then
        (s.setConn i { c with holeAt := some (f.seq, s.timebase) }).resend i f
      else s
    | [] => s

/-- The ACK fields of an authenticated frame. -/
def State.ackFields (s : State) (i : Nat) (f : RxFrame) : State :=
  match s.conns[i]? with
  | none => s
  | some c => (s.setConn i (c.takeAck f.cumack f.sack f.climit s.timebase)).fillHole i

/-- Held frames that follow in order are delivered. -/
def Conn.drain (c : Conn) : Nat → Conn
  | 0 => c
  | n + 1 =>
    match c.held.find? (fun f => f.seq == c.expect) with
    | some f => Conn.drain { c with inbox := c.inbox ++ [f], held := c.held.filter (fun g => g.seq != c.expect),
                                    expect := (c.expect + 1) % 2 ^ 32, unacked := c.unacked + 1 } n
    | none => c

/-- The receive state that meets a frame of an incarnation (16 R500): empty, or of an older one, it starts at the frame's SEQ. Frames
delivered before stay delivered. -/
def Conn.meet (c : Conn) (inc seq : Nat) : Conn :=
  if (match c.recvInc with | some r => serialLt 16 r inc | none => true) then
    { c with recvInc := some inc, expect := seq, held := [], oldIn := c.inbox.length, unacked := 0 }
  else c

/-- A DATA frame that sequencing drops: of an older incarnation, REPLAY; beyond the window or the credit, OVERRUN. -/
def Conn.drops (c0 : Conn) (f : RxFrame) : Option Nat :=
  let c := c0.meet f.inc f.seq
  let d := (f.seq + 2 ^ 32 - c.expect) % 2 ^ 32
  if c.recvInc ≠ some f.inc then some 8
  else if d ≥ 2 ^ 31 ∨ c.held.any (fun x => x.seq == f.seq) then none
  else if d < 64 ∧ serialLt 32 f.seq c.limit then none
  else some 16

/-- A DATA frame in its connection i, received at port q and not dropped (16 R500). -/
def State.dataFrame (s : State) (q i : Nat) (f : RxFrame) : State :=
  match s.conns[i]? with
  | none => s
  | some c0 =>
    let c := c0.meet f.inc f.seq
    let g : HeldFrame := ⟨f.seq, f.payload, f.pmap, f.digest⟩
    let d := (f.seq + 2 ^ 32 - c.expect) % 2 ^ 32
    let len := f.payload.length
    if d = 0 ∧ serialLt 32 f.seq c.limit then
      let n0 := c.inbox.length
      let c := Conn.drain { c with inbox := c.inbox ++ [g], expect := (c.expect + 1) % 2 ^ 32, unacked := c.unacked + 1,
                                   firstAt := if c.unacked = 0 then s.timebase else c.firstAt } 64
      let bytes := ((c.inbox.drop (n0 + 1)).map (fun (x : HeldFrame) => x.bytes.length)).foldl (· + ·) len
      let s := (s.setConn i c).tally (some c.part) 5 (Cnt.fabPart c.part q 1) bytes
      if c.unacked ≥ 8 then s.sendAck i else s
    else if d ≥ 2 ^ 31 ∨ c.held.any (fun x => x.seq == f.seq) then (s.setConn i c).sendAck i
    else (s.setConn i { c with held := c.held ++ [g] }).sendAck i

/-- DATA (16 R500): port q's oldest accepted frame, of TYPE DATA; of one that is dropped no field is used. -/
def execDataFrame (q : PortId) (s : State) : Host.Outcome State Fault Refusal :=
  match s.takeFrame q (fun f => f.typ == 0) with
  | none => .next s
  | some (f, s) =>
    match s.connIdx f.dpart f.sdev f.spart f.job f.chan with
    | none => .next s
    | some i =>
      match (s.conns[i]?).bind (fun c => c.drops f) with
      | some o => .next (s.countField (Reg.portDrop q) o 8 1)
      | none => .next ((s.ackFields i f).dataFrame q i f)

/-- ACK (16 R502). -/
def execAckFrame (q : PortId) (s : State) : Host.Outcome State Fault Refusal :=
  match s.takeFrame q (fun f => f.typ == 1) with
  | none => .next s
  | some (f, s) =>
    match s.connIdx f.dpart f.sdev f.spart f.job f.chan with
    | none => .next s
    | some i => .next (s.ackFields i f)

/-- ACK_DELAY_TIMER (16 R501): 5 µs after a delivery on connection i that no ACK has reported. -/
def execAckDelayTimer (i : Nat) (s : State) : Host.Outcome State Fault Refusal :=
  match s.conns[i]? with
  | some c => if c.unacked = 0 ∨ s.timebase < c.firstAt + 5000 then .next s else .next (s.sendAck i)
  | none => .next s

/-- RETRANSMIT_TIMEOUT (16 R502): connection i's timer expires. -/
def execRetransmitTimeout (i : Nat) (s : State) : Host.Outcome State Fault Refusal :=
  match s.conns[i]? with
  | none => .next s
  | some c =>
    if s.timebase < c.timerAt + c.rto then .next s else
    match c.sent.find? (fun f => !f.sacked) with
    | none => .next s
    | some f => .next ((s.setConn i { c with rto := min (2 * c.rto) 10000000, timerAt := s.timebase }).resend i f)

/-! ## Session messages (16 R504–R506) -/

/-- KEY_EXCHANGE (16 R504): port q's oldest accepted frame is a KEY_EXCHANGE, or the answer to one. -/
def execKeyExchange (q : PortId) (s : State) : Host.Outcome State Fault Refusal :=
  match s.takeFrame q (fun f => f.typ == 2 && !f.sealed_ && [spdmKeyExchange, spdmKeyExchangeRsp].contains (hField f.payload 1 1)) with
  | none => .next s
  | some (f, s) =>
    let x := s.session f.sdev
    let full := x.isNone && decide (256 ≤ s.sessions.length)
    if hField f.payload 1 1 = spdmKeyExchange then
      -- while this part's own request is in progress, a request from the higher fabric ID is abandoned
      let own : Bool := match x with | some x => x.phase == .asked && decide (s.fabricId < f.sdev) | none => false
      if own ∨ full then .next s
      else if !Config.peerOk f.sdev f.payload then .next (s.authFail q)
      else
        let k := s.free 256
        .next ((k.2.putSession ⟨f.sdev, q, .answered, false, k.1.toNat, 0, 0, s.timebase⟩).sendSpdm q f.sdev spdmKeyExchangeRsp)
    else match x with
      | some x =>
        if x.phase ≠ .asked then .next s
        else if !Config.peerOk f.sdev f.payload then .next (s.authFail q)
        else
          let k := s.free 256
          .next ((k.2.putSession { x with phase := .answered, key := k.1.toNat }).sendSpdm q f.sdev spdmFinish)
      | none => .next s

/-- FINISH (16 R504): a FINISH, or the answer to one, opens the session. -/
def execFinish (q : PortId) (s : State) : Host.Outcome State Fault Refusal :=
  match s.takeFrame q (fun f => f.typ == 2 && !f.sealed_ && [spdmFinish, spdmFinishRsp].contains (hField f.payload 1 1)) with
  | none => .next s
  | some (f, s) =>
    match s.session f.sdev with
    | some x =>
      let asked := hField f.payload 1 1 == spdmFinish
      if x.phase ≠ .answered ∨ x.req = asked then .next s
      else if !Config.peerOk f.sdev f.payload then .next ((s.dropSession f.sdev).authFail q)
      else .next ((if asked then s.sendSpdm q f.sdev spdmFinishRsp else s).sessionOpen x)
    | none => .next s

/-- An application message of type m at the head of port q; one that names a partition without a VALID record is dropped and counted
(16 R505). -/
def State.takeApp (s : State) (q m : Nat) (parts : Bool) : Option (RxFrame × State) :=
  match s.takeFrame q (fun f => f.typ == 2 && f.sealed_ && hField f.payload 0 1 == m) with
  | none => none
  | some (f, s) => some (f, if parts && !(s.rec_ (hField f.payload 2 1)).valid then s.countField (Reg.portDrop q) 24 8 1 else s)
def State.appValid (s : State) (f : RxFrame) : Bool := (s.rec_ (hField f.payload 2 1)).valid

/-- HEARTBEAT (16 R504). -/
def execHeartbeat (q : PortId) (s : State) : Host.Outcome State Fault Refusal :=
  match s.takeApp q 1 false with
  | none => .next s
  | some (f, s) =>
    match s.session f.sdev with
    | some x => .next (s.putSession { x with missed := 0 })
    | none => .next s

/-- Ports by which a peer is reached: those of fabric addresses that name it, and its session's. -/
def State.portsTo (s : State) (x : Session) : List Nat :=
  x.port :: (List.range 64).flatMap (fun p => (s.part p).facet.colls.flatMap (fun e =>
    [e.next, e.prev].filterMap (fun a => if addrDev a = x.dev then some (addrPort a) else none)))

/-- HEARTBEAT_SEND (16 R504): 1 ms has passed. Every open session's peer gets a HEARTBEAT, and one more of its own is due. -/
def execHeartbeatSend (s : State) : Host.Outcome State Fault Refusal :=
  .next ((s.sessions.filter (fun x => x.phase == .open_)).foldl (fun s x =>
    let s := s.sendSealed x.dev [1]
    if (s.portsTo x).all (fun q => (s.port q).state == .retraining) then s
    else match s.session x.dev with
      | some y => s.putSession { y with missed := y.missed + 1 }
      | none => s) s)

/-- PEER_ABSENT (16 R504, R512): ten HEARTBEATs in a row are missing. -/
def execPeerAbsent (dev : Addr) (s : State) : Host.Outcome State Fault Refusal :=
  match s.session dev.toNat with
  | some x =>
    if x.phase ≠ .open_ ∨ x.missed < 10 then .next s else
    let s := (s.dropSession x.dev).linkDown (fun e => addrDev e.next == x.dev || addrDev e.prev == x.dev)
    .next s.openWaiting
  | none => .next s

/-- SESSION_IDLE_TIMEOUT (16 R504): the session has been idle for 10 s. -/
def execSessionIdleTimeout (dev : Addr) (s : State) : Host.Outcome State Fault Refusal :=
  match s.session dev.toNat with
  | some x => if s.timebase < x.usedAt + 10000000000 then .next s else .next (s.dropSession x.dev).openWaiting
  | none => .next s

/-- ANNOUNCE (15 R466, 16 R506): the receive key is derived, or the message is dropped and counted. -/
def execAnnounce (q : PortId) (s : State) : Host.Outcome State Fault Refusal :=
  match s.takeApp q 2 true with
  | none => .next s
  | some (f, s) =>
    if !s.appValid f then .next s else
    let sp := hField f.payload 1 1
    let dp := hField f.payload 2 1
    let job := hField f.payload 4 2
    let epoch := hField f.payload 6 2
    let salt := hField f.payload 8 16
    match (s.linkSlots dp job .active).find? (fun k => (s.key k).epoch == epoch) with
    | none => .next (s.countField (Reg.portDrop q) 0 8 1)
    | some k =>
      let key := linkKey (s.key k).material salt (Config.peerSerial f.sdev) job epoch
      let same := s.recvKeys.any (fun y => y.part == dp && y.dev == f.sdev && y.peerPart == sp && y.job == job && y.epoch == epoch &&
        y.key == key && y.slot == k)
      let s := if same then s else
        { s with recvKeys := s.recvKeys.filter (fun y => !(y.part == dp && y.dev == f.sdev && y.peerPart == sp && y.job == job &&
            y.epoch == epoch)) ++ [⟨k, f.sdev, sp, dp, job, epoch, key, []⟩] }
      .next (s.sendApp f.sdev (leBytes 1 3 ++ leBytes 1 dp ++ leBytes 1 sp ++ leBytes 1 0 ++ leBytes 2 job ++ leBytes 2 epoch ++ leBytes 16 0))

/-- ANNOUNCE_ACK (15 R467). -/
def execAnnounceAck (q : PortId) (s : State) : Host.Outcome State Fault Refusal :=
  match s.takeApp q 3 true with
  | none => .next s
  | some (f, s) =>
    if !s.appValid f then .next s else
    let peer := (f.sdev, hField f.payload 1 1)
    match (s.linkSlots (hField f.payload 2 1) (hField f.payload 4 2) .active).find? (fun k => (s.key k).epoch == hField f.payload 6 2) with
    | none => .next s
    | some k =>
      let x := s.key k
      .next (if x.acked.contains peer then s else s.setKey k { x with acked := x.acked ++ [peer] })

/-- ANNOUNCE_REPEAT (16 R506): every 100 ms, peers that have not acknowledged slot k's announcement get it again. -/
def execAnnounceRepeat (k : KeyId) (s : State) : Host.Outcome State Fault Refusal :=
  match s.partOfKey k with
  | some p =>
    if s.timebase < (s.key k).announcedAt + 100000000 then .next s else
    .next ((s.setKey k { s.key k with announcedAt := s.timebase }).announceAll p (fun j y => j == k.val && !(s.key k).acked.contains y))
  | none => .next s

/-! ## Port events (16 R507–R510) -/

/-- A DIRECT port whose link is up comes UP with the session of its partner; where that is not open it is opened (16 R504, R507). -/
def State.meetPartner (s : State) (q : Nat) : State :=
  let x := s.port q
  if s.sessionUp x.partner then
    let s := s.portTo q .up
    s.setPort q { s.port q with peerAuth := true, fails := 0 }
  else (s.setPort q { x with attemptAt := s.timebase }).openSession q x.partner

/-- LINK_UP (16 R507): port q's link is up. `partner` is the fabric ID of the part at the other end of a DIRECT port. -/
def execLinkUp (q : PortId) (partner : Addr) (s : State) : Host.Outcome State Fault Refusal :=
  let x := s.port q
  match x.state with
  | .training =>
    if x.switched then .next (s.portTo q .up)
    else
      let s := s.portTo q .auth
      .next ((s.setPort q { s.port q with partner := partner.toNat }).meetPartner q)
  | .retraining =>
    if !x.training then .next s
    else if x.switched then .next (s.portTo q .up)
    else
      let s := s.setPort q { x with training := false, linkUp := true, peerAuth := x.peerAuth && x.partner == partner.toNat,
                                    partner := partner.toNat }
      .next ((s.flushPort q).meetPartner q)
  | _ => .next s

/-- SIGNAL_DETECT (16 R507). -/
def execSignalDetect (q : PortId) (s : State) : Host.Outcome State Fault Refusal :=
  if (s.port q).state = .absent then .next (s.portTo q .training) else .next s

/-- SIGNAL_LOSS_TIMEOUT (16 R507): no signal for 500 ms. -/
def execSignalLossTimeout (q : PortId) (s : State) : Host.Outcome State Fault Refusal :=
  let st := (s.port q).state
  if st = .training ∨ st = .auth ∨ st = .up ∨ st = .retraining then .next (s.portTo q .absent) else .next s

/-- PORT_FAULT_EVENT (16 R507, R509, R510): a fault event; `fec` uncorrectable codewords are counted with it. -/
def execPortFaultEvent (q : PortId) (fec : Nat) (s : State) : Host.Outcome State Fault Refusal :=
  let x := s.port q
  if x.state ≠ .up ∧ x.state ≠ .training ∧ x.state ≠ .retraining ∧ x.state ≠ .auth then .next s else
  let s := s.countField (Reg.portErr q) 24 8 fec
  let l := x.faultAt.filter (fun t => decide (s.timebase < t + 60000000000)) ++ [s.timebase]
  let s := s.setPort q { x with faultAt := l }
  if x.state = .auth then .next s
  else if l.length ≥ 4 then .next (s.quarantine q 1)
  else if x.state = .up then .next (s.retrain q)
  else .next s

/-- PARTNER_SESSION_RETRY (16 R510): an attempt of a DIRECT port that has opened no session within 100 ms has failed (log 94); the third in
a row quarantines a port in AUTH (16 R507), and otherwise the next one is made. -/
def execPartnerSessionRetry (q : PortId) (s : State) : Host.Outcome State Fault Refusal :=
  let x := s.port q
  if !x.fabric ∨ x.switched ∨ x.peerAuth ∨ !x.linkUp ∨ (x.state ≠ .auth ∧ x.state ≠ .retraining) ∨
     s.timebase < x.attemptAt + 100000000 then .next s else
  let s := (s.dropSession x.partner).setPort q { x with fails := x.fails + 1, attemptAt := s.timebase }
  if x.fails + 1 ≥ 3 ∧ x.state = .auth then .next (s.quarantine q 2) else .next (s.openSession q x.partner)

end Sys2Proof.Machine
end

