-- ==== Sys2Proof/Machine/Coll.lean ====
section
/-! DEFINITION. Collective engines, contribution digests and the step log (11 R322, R325–R335, R347, R348). -/

namespace Sys2Proof.Machine

/-! ## Entries and the order of segments (11 R325, R326) -/

/-- Segments of a block. -/
def CollEntry.segs (e : CollEntry) : Nat := max 1 ((e.block + 4095) / 4096)
def CollEntry.segLen (e : CollEntry) (k : Nat) : Nat := min 4096 (e.block - 4096 * k)

/-- The (PHASE, block) pairs whose segments a rank sends, in order: those of the reduce phase, then those of the result, ascending. -/
def CollEntry.sends (e : CollEntry) : List (Nat × Nat) :=
  let bs := List.range e.n
  let last := e.n - 1
  match e.op with
  | 0 => (if e.rank < last then bs.map (fun b => (0, b)) else []) ++ (if e.rank + 2 = e.n then [] else bs.map (fun b => (1, b)))
  | 1 => (if e.rank < last then bs.map (fun b => (0, b)) else []) ++
      ((bs.filter (fun b => decide (b < last) && (e.rank == last || decide (e.rank < b)))).map (fun b => (1, b)))
  | 2 => (bs.filter (fun b => b != (e.rank + 1) % e.n)).map (fun b => (2, b))
  | _ => if (e.rank + 1) % e.n = e.root then [] else bs.map (fun b => (2, b))
/-- Those that it receives. -/
def CollEntry.recvs (e : CollEntry) : List (Nat × Nat) :=
  let bs := List.range e.n
  let last := e.n - 1
  match e.op with
  | 0 => (if 1 ≤ e.rank then bs.map (fun b => (0, b)) else []) ++ (if e.rank < last then bs.map (fun b => (1, b)) else [])
  | 1 => (if 1 ≤ e.rank then bs.map (fun b => (0, b)) else []) ++
      (if e.rank < last then (bs.filter (fun b => decide (e.rank ≤ b) && decide (b < last))).map (fun b => (1, b)) else [])
  | 2 => (bs.filter (fun b => b != e.rank)).map (fun b => (2, b))
  | _ => if e.rank = e.root then [] else bs.map (fun b => (2, b))

def CollEntry.sendCount (e : CollEntry) : Nat := e.sends.length * e.segs
def CollEntry.recvCount (e : CollEntry) : Nat := e.recvs.length * e.segs
/-- Segment number i of a list: PHASE, block, segment. -/
def segAt (l : List (Nat × Nat)) (e : CollEntry) (i : Nat) : Option (Nat × Nat × Nat) :=
  (l[i / e.segs]?).map (fun x => (x.1, x.2, i % e.segs))
/-- The place in the order of sending of a segment, when it is sent. -/
def CollEntry.sendPos (e : CollEntry) (ph b k : Nat) : Option Nat := (e.sends.idxOf? (ph, b)).map (fun i => i * e.segs + k)

/-- Bytes that a rank writes at DST. -/
def CollEntry.dstLen (e : CollEntry) : Nat := if e.op = 1 then e.block else e.len
/-- A segment that this rank takes from its own source to send it. -/
def CollEntry.own (e : CollEntry) (ph b : Nat) : Bool :=
  (ph == 0 && e.rank == 0) || (e.op == 2 && b == e.rank) || (e.op == 3 && e.rank == e.root)
/-- Offset in SRC of segment k of block b. -/
def CollEntry.srcOff (e : CollEntry) (b k : Nat) : Nat := (if e.op = 2 then 0 else b * e.block) + 4096 * k
/-- Offset in DST of segment k of block b, when this rank writes it. -/
def CollEntry.dstOff (e : CollEntry) (b k : Nat) : Option Nat :=
  if e.op = 1 then (if b = e.rank then some (4096 * k) else none) else some (b * e.block + 4096 * k)
/-- A received segment of a PHASE is a result here. -/
def CollEntry.final (e : CollEntry) (ph : Nat) : Bool := ph != 0 || e.rank + 1 == e.n

def CollEntry.stepOf (e : CollEntry) (j : Nat) : Nat := (e.step0 + j * e.period) % 2 ^ 64

/-! ## Digests (11 R330) -/

def collDigest (e : CollEntry) (step ph b k rank pmap : Nat) (bytes : Bytes) : Nat :=
  crc64 0 (leBytes 8 step ++ leBytes 4 k ++ leBytes 2 e.job ++ leBytes 1 e.id ++ leBytes 1 e.op ++ leBytes 1 rank ++ leBytes 1 ph ++
    leBytes 1 (if pmap = 0 then 0 else 1) ++ leBytes 1 b ++ leBytes 12 0 ++ bytes)

def allGran (len : Nat) : Nat := 2 ^ (len / 64) - 1

/-! ## Suspect steps (11 R333, R335) -/

/-- SUSPECT is set in the record that counts the step following `step`, when it has been written. -/
def State.logSuspect (s : State) (p step : Nat) : State :=
  let x := s.part p
  let g := x.facet.glob
  match x.logRecs.find? (fun r => decide (r.1 ≤ step) && decide (step < r.2.1)) with
  | none => s
  | some r =>
    let fl := r.2.2.2 ||| 1
    let s := s.setPart p { x with logRecs := x.logRecs.map (fun y => if y.2.2.1 = r.2.2.1 then (y.1, y.2.1, y.2.2.1, fl) else y) }
    match s.translate p (g.stepLogBase + 64 * (r.2.2.1 % 2 ^ g.stepLogK)) .write with
    | some (a, _) => s.ccWrite none (a + 12) (leBytes 4 fl) false
    | none => s

/-- An instance of entry `id` is recorded as suspect, once however many of its segments or notices say so (11 R335); it is
a recoverable event (17 R531). -/
def State.suspectStep (s : State) (p id step : Nat) (notice : Bool) : State :=
  let o := Reg.suspect p
  let again := (s.part p).suspects.contains (id, step)
  let s := if again then s else
    let s := s.countField o 16 16 1
    let x := s.part p
    let s := s.setPart p { x with suspects := x.suspects ++ [(id, step)], suspect0 := x.suspect0 + 1,
                                  suspectSteps := if step < x.logBound.1 then x.suspectSteps else x.suspectSteps ++ [step] }
    s.logSuspect p step
  let s := (s.setField o (if notice then 7 else 6) 1 1).setField o 0 6 id
  let s := (s.setReg (Reg.suspectLo p) (BitVec.ofNat 32 step)).setReg (Reg.suspectHi p) (BitVec.ofNat 32 (step / 2 ^ 32))
  if again then s else s.recoverable p 2 (s.windowOpen p)

/-- A suspect notice to the NEXT of entry `id` (16 R505). -/
def State.sendNotice (s : State) (p id step : Nat) : State :=
  match (s.part p).facet.colls.find? (fun e => e.id == id) with
  | some e => s.tell (addrPort e.next) (addrDev e.next) (leBytes 1 4 ++ leBytes 1 p ++ leBytes 1 (addrPart e.next) ++ leBytes 1 id ++ leBytes 4 0 ++ leBytes 8 step)
  | none => s

/-- NOTICE (11 R333): recorded and forwarded, until it is back at its origin. -/
def execNotice (q : PortId) (s : State) : Host.Outcome State Fault Refusal :=
  match s.takeApp q 4 true with
  | none => .next s
  | some (f, s) =>
    if !s.appValid f then .next s else
    let p := hField f.payload 2 1
    let id := hField f.payload 3 1
    let step := hField f.payload 8 8
    if (s.part p).noticed.contains (id, step) then .next s
    else .next ((s.suspectStep p id step true).sendNotice p id step)

/-! ## Source and destination (11 R326, R327, R329) -/

/-- What a read of the source comes to: bytes with a poison bit for each granule, not there yet, or outside the windows. -/
inductive SrcRes where
  | got (bytes : Bytes) (pmap : Nat) (s : State)
  | later
  | fault

/-- n granules from a partition-relative address of a window type. -/
def State.collRead (s : State) (p typ pa : Nat) : Nat → Option (Bytes × Nat × State)
  | 0 => some ([], 0, s)
  | n + 1 =>
    match s.collRead p typ pa n with
    | none => none
    | some (bs, m, s) =>
      match s.translate p (pa + 64 * n) .read with
      | some (a, w) =>
        if w.typ ≠ typ then none else
        let r := s.ccRead (some p) a 64
        some (bs ++ r.1, m + (if r.2.1 = 0 then 0 else 2 ^ n), r.2.2)
      | none => none

/-- Segment k of block b of the source. -/
def State.collSrc (s : State) (x p : Nat) (e : CollEntry) (b k : Nat) : SrcRes :=
  let n := e.segLen k / 64
  if e.srct = 2 then
    let c := s.coll x
    if c.stream.length < n then .later
    else
      let fs := c.stream.take n
      let poi := fs.zipIdx.foldl (fun m f => if f.1.poison then m + 2 ^ f.2 else m) 0
      let q := (s.setColl x { c with stream := c.stream.drop n }).parity e.hub
      .got (fs.flatMap (fun f => leBytes 64 f.pay.toNat)) (poi ||| b2n q.1) q.2
  else match s.collRead p e.srct (e.src + e.srcOff b k) n with
    | some (bs, m, s) => .got bs m s
    | none => .fault

/-- Room at a stream destination for a segment of n granules. -/
def State.collRoom (s : State) (e : CollEntry) (n : Nat) : Bool :=
  e.dstt != 2 || decide ((s.att (hubAtt e.hub (coreY e.dst))).queue.length + n ≤ 64)

/-- Writes n granules of the destination; true when one lies outside the windows, from which on they are poisoned (11 R329). A stream's
granules meet the hub's parity checks (17 R517). -/
def State.collGrans (s : State) (x p : Nat) (e : CollEntry) (off : Nat) (bytes : Bytes) (pmap : Nat) : Nat → Bool × State
  | 0 => (false, s)
  | n + 1 =>
    let r := s.collGrans x p e off bytes pmap n
    let s := r.2
    let g := (bytes.drop (64 * n)).take 64
    if e.dstt = 2 then
      let i := hubAtt e.hub (coreY e.dst)
      let q := s.parity e.hub
      let t := q.2.att i
      (r.1, q.2.setAtt i { t with queue := t.queue ++ [(Flit.mk' (BitVec.ofNat 512 (leVal g)) (bitOf pmap n || q.1), 256 + x)] })
    else match s.translate p (e.dst + off + 64 * n) .write with
      | some (a, w) => if w.typ = e.dstt then (r.1, s.ccWrite (some p) a g (bitOf pmap n || r.1)) else (true, s)
      | none => (true, s)

/-- Tokens for len more delivered bytes (08 R241). -/
def State.collDeliver (s : State) (x : Nat) (e : CollEntry) (len : Nat) : State :=
  let c := s.coll x
  let d := c.delivered + len
  let k := if e.tgran = 0 then 0 else d / e.tgran - c.delivered / e.tgran
  let s := s.setColl x { c with delivered := d }
  if k * e.tcnt = 0 then s
  else s.svcToken (8 + e.hub) e.tcore e.tkt (k * e.tcnt) (BitVec.ofNat 32 (0x30000000 + x))

/-- len more bytes of the destination have been written, or put in a hub's queue: those are delivered when they are in the ingress buffer
(06 R185, 08 R241). -/
def State.collPlaced (s : State) (x : Nat) (e : CollEntry) (len : Nat) : State :=
  let c := s.coll x
  let s := s.setColl x { c with placed := c.placed + len }
  if e.dstt = 2 then s else s.collDeliver x e len

/-- A segment reaches its destination. -/
def State.collWrite (s : State) (x p : Nat) (e : CollEntry) (b k : Nat) (bytes : Bytes) (pmap : Nat) : State :=
  match e.dstOff b k with
  | none => s
  | some off =>
    let r := s.collGrans x p e off bytes pmap (e.segLen k / 64)
    let s := r.2.collPlaced x e (e.segLen k)
    if r.1 then s.setColl x ((s.coll x).abort St.accessFault) else s

/-- Bytes of the source have been read; SKT rises once all have. -/
def State.collSrcRead (s : State) (x : Nat) (e : CollEntry) (len : Nat) : State :=
  let c := s.coll x
  let n := c.srcRead + len
  let s := s.setColl x { c with srcRead := n, srcDone := c.srcDone || decide (e.srcLen ≤ n) }
  if !c.srcDone ∧ e.srcLen ≤ n ∧ e.scnt ≠ 0 then s.svcToken (8 + e.hub) e.score e.skt e.scnt (BitVec.ofNat 32 (0x30000000 + x)) else s

/-- A status that the instance reaches. -/
def State.collNote (s : State) (x st : Nat) : State :=
  s.setColl x { s.coll x with status := worseColl (s.coll x).status st }

/-! ## The collective log (11 R348). The spec names the header's fields and not their places, which the model fixes. -/

def State.logWrite (s : State) (p : Nat) (e : CollEntry) (step ph b k rank : Nat) (sent : Bool) (carried computed pmap : Nat)
    (bytes : Bytes) : State :=
  let g := (s.part p).facet.glob
  if !e.log ∨ g.clogK = 0 ∨ (s.part p).replayLog then s else
  let size := 2 ^ g.clogK
  let h := leBytes 8 step ++ leBytes 4 k ++ leBytes 1 e.id ++ leBytes 1 e.op ++ leBytes 1 rank ++ leBytes 1 ph ++ leBytes 1 b ++
    leBytes 1 (if sent then 1 else 0) ++ leBytes 2 0 ++ leBytes 4 bytes.length ++ leBytes 8 carried ++ leBytes 8 computed ++
    leBytes 8 pmap ++ leBytes 16 0
  let r := h ++ (if sent then [] else bytes ++ List.replicate ((64 - bytes.length % 64) % 64) 0)
  let pos := (s.part p).collLogPos
  let s := (List.range (r.length / 64)).foldl (fun s i =>
    match s.translate p (g.clogBase + (pos + 64 * i) % size) .write with
    | some (a, w) => s.walkWrite a w ((r.drop (64 * i)).take 64) false
    | none => s) s
  let x := s.part p
  let keep := x.collLog.filter (fun l => decide (pos + r.length ≤ l.off + size))
  s.setPart p { x with collLogPos := pos + r.length,
                       collLog := keep ++ [⟨step, e.id, sent, ph, b, k, pos, r.length⟩] }

/-- The log's record of a segment: carried digest, poison map, bytes. -/
def State.logFind (s : State) (p : Nat) (e : CollEntry) (step ph b k : Nat) (sent : Bool) : Option (Nat × Nat × Bytes × State) :=
  let g := (s.part p).facet.glob
  match (s.part p).collLog.find? (fun l => l.step == step && l.id == e.id && l.sent == sent && l.phase == ph && l.block == b && l.seg == k) with
  | none => none
  | some l =>
    let r := (List.range (l.len / 64)).foldl (fun (a : Bytes × State) i =>
      match a.2.translate p (g.clogBase + (l.off + 64 * i) % 2 ^ g.clogK) .read with
      | some (d, _) => let q := a.2.devRead d 64; (a.1 ++ q.1, q.2.2)
      | none => (a.1 ++ List.replicate 64 0, a.2)) ([], s)
    let h := r.1
    some (leVal ((h.drop 24).take 8), leVal ((h.drop 40).take 8), (h.drop 64).take (leVal ((h.drop 20).take 4)), r.2)

/-! ## Adding (11 R328) -/

/-- Element-wise sum of two byte strings under an ETYPE. -/
def collAdd (etype : Nat) (a b : Bytes) : Bytes :=
  let w := if etype = 1 then 2 else 4
  let f (x y : Nat) : Nat :=
    match etype with
    | 0 => (fadd (BitVec.ofNat 32 x) (BitVec.ofNat 32 y)).1.toNat
    | 1 => bf16Add x y
    | _ => (x + y) % 2 ^ 32
  (List.range (a.length / w)).flatMap (fun i => leBytes w (f (leVal ((a.drop (w * i)).take w)) (leVal ((b.drop (w * i)).take w))))

/-! ## Instances (11 R327, R329) -/

/-- The flits of a STREAM source that stand in the egress buffer when an instance starts are taken. -/
def State.collStream (s : State) (x : Nat) (e : CollEntry) : State :=
  if e.srct ≠ 2 then s else
  let i := hubAtt e.hub (coreY e.src)
  let t := s.att i
  let n := min (e.srcLen / 64) t.egress.length
  (s.setAtt i { t with egress := t.egress.drop n }).setColl x { s.coll x with stream := t.egress.take n, taken := n }

/-- COLL_INSTANCE_START (11 R327): the next instance's mark has come and the entry's last instance has ended. -/
def execCollInstanceStart (x : CtxId) (s : State) : Host.Outcome State Fault Refusal :=
  match s.collEntry x with
  | none => .next s
  | some (p, e) =>
    let c := s.coll x
    let j := c.next
    -- PARTITION_DESTROY drops what has been triggered (15 R444, R472)
    let may := s.engineMay p || (s.partIn p [.retiring] && (s.part p).lastMark.isSome)
    if c.running ∨ !may ∨ s.dev = .hold ∨ (e.count ≠ 0 ∧ e.count ≤ j) ∨ s.stepOf p < e.step0 + j * e.period then .next s else
    let c := { c with next := j + 1, running := true, inst := j, startAt := s.timebase, sendIdx := 0,
                      recvIdx := 0, ready := [], srcRead := 0, srcDone := false, placed := 0, delivered := 0, status := 0, dead := false,
                      rotate := false, stream := [], taken := 0, segAt := none, credAt := none }
    let s := (s.setColl x c).setField (Reg.collStatus x) 29 3 2
    let s := (s.collStream x e).collSrcRead x e 0
    -- an instance triggered while its job's only slot retires, or queued when it began to, is dropped with ACCESS_FAULT (15 R472, R474)
    let drop := j < c.dropTo ∨ s.partIn p [.retiring] ∨
      (!(s.part p).replayLog ∧ s.licence 2 ∧ (s.linkSlots p e.job .active).isEmpty ∧ !(s.linkSlots p e.job .retiring).isEmpty)
    let s := if drop then s.setColl x ((s.coll x).abort St.accessFault) else s
    let bad (a : Nat) : Bool := let st := (s.port (addrPort a)).state
      st == .notFabric || st == .disabled || st == .absent || st == .quarantined
    .next (if !(s.part p).replayLog && (bad e.next || bad e.prev) then s.setColl x ((s.coll x).abort St.linkDown) else s)

/-- The connection on which context x sends, or receives. -/
def State.sendConnIdx (s : State) (p : Nat) (e : CollEntry) : Option Nat :=
  s.connIdx p (addrDev e.next) (addrPart e.next) e.job e.chan
def State.recvConnIdx (s : State) (p : Nat) (e : CollEntry) : Option Nat :=
  s.connIdx p (addrDev e.prev) (addrPart e.prev) e.job e.chan

/-- A wait of the context ends (20 R610): SEGMENT_WAIT 0x14 or CREDIT_WAIT 0x15, about PREV or NEXT. -/
def State.collWaited (s : State) (x p : Nat) (e : CollEntry) (type since b k addr : Nat) : State :=
  s.traceHub e.hub p (0x200 + x) type (k % 65536) b (s.timebase - since) (peerFab (addrPort addr) (addrPart addr)).toNat 0 0

/-- The next segment to send: bytes and poison map, from the source or from what is ready. -/
def State.sendData (s : State) (x p : Nat) (e : CollEntry) (ph b k : Nat) : SrcRes :=
  match SMap.find (s.coll x).ready (s.coll x).sendIdx with
  | some (bs, m) => .got bs m s
  | none => if e.own ph b then s.collSrc x p e b k else .later

/-- What follows once the data of the next segment to send are at hand: an own segment of ALLGATHER or BROADCAST also goes to DST. -/
def State.afterRead (s : State) (x p : Nat) (e : CollEntry) (ph b k : Nat) (bs : Bytes) (m : Nat) : State :=
  if (SMap.find (s.coll x).ready (s.coll x).sendIdx).isSome then s else
  let s := s.collSrcRead x e (e.segLen k)
  let s := if m = 0 then s else s.collNote x St.poisoned
  if ph = 2 then s.collWrite x p e b k bs m else s

/-- COLL_SEGMENT_SEND (11 R326, R331, R347): the next segment in context x's order leaves, when it is ready and there is credit. -/
def execCollSegmentSend (x : CtxId) (s : State) : Host.Outcome State Fault Refusal :=
  match s.collEntry x with
  | none => .next s
  | some (p, e) =>
    let c := s.coll x
    match segAt e.sends e c.sendIdx with
    | none => .next s
    | some (ph, b, k) =>
      if !c.running ∨ c.dead ∨ s.dev = .hold then .next s else
      let step := e.stepOf c.inst
      let later := !(SMap.find c.ready c.sendIdx).isSome && ph == 2 && !s.collRoom e (e.segLen k / 64)
      let done (s : State) : State :=
        let c := s.coll x
        s.setColl x { c with ready := SMap.del c.ready c.sendIdx, sendIdx := c.sendIdx + 1 }
      if (s.part p).replayLog then
        if later then .next s else
        match s.sendData x p e ph b k with
        | .later => .next s
        | .fault => .next (s.setColl x ((s.coll x).abort St.accessFault))
        | .got bs m s =>
          let s := s.afterRead x p e ph b k bs m
          let d := collDigest e step ph b k e.rank m bs
          match s.logFind p e step ph b k true with
          | some (l, _, _, s) =>
            let y := s.part p
            let s := if l = d then s else
              s.setPart p { y with diffs := y.diffs + 1, firstDiff := y.firstDiff.or (some (step, e.id, k)) }
            .next (done s)
          | none => .next (done s)
      else
        match s.sendConnIdx p e with
        | none => .next (s.setColl x ((s.coll x).abort St.linkDown))
        | some i =>
          match s.conns[i]? with
          | none => .next s
          | some cn =>
            match s.sendWay cn with
            | .down => .next (s.setColl x ((s.coll x).abort St.linkDown))
            | .exhausted => .next (s.setColl x ((s.coll x).abort St.keyExhausted))
            | .wait => .next s
            | .ready q key =>
              if !s.sessionUp cn.dev then .next (s.openSession q cn.dev)
              else if !serialLt 32 cn.sendSeq cn.climit then
                .next (s.setColl x { c with credAt := c.credAt.or (some s.timebase) })
              else if later then .next s
              else match s.sendData x p e ph b k with
                | .later => .next s
                | .fault => .next (s.setColl x ((s.coll x).abort St.accessFault))
                | .got bs m s =>
                  let s := match c.credAt with
                    | some t => (s.collWaited x p e 0x15 t b k e.next).setColl x { s.coll x with credAt := none }
                    | none => s
                  let s := s.afterRead x p e ph b k bs m
                  let d := collDigest e step ph b k e.rank m bs
                  let s := s.logWrite p e step ph b k e.rank true d d m bs
                  -- the way to the crypto engine and the fabric MAC has parity (17 R517)
                  let r := s.parity e.hub
                  let m := m ||| b2n r.1
                  let s := r.2.sendConn i q key 0 false cn.sendSeq bs m d
                  let s := match key with
                    | some k => s.setColl x { s.coll x with rotate := (s.coll x).rotate || (s.key k).rotateDue }
                    | none => s
                  let s := match s.conns[i]? with
                    | some cn => s.setConn i { cn with
                        sendSeq := (cn.sendSeq + 1) % 2 ^ 32, timerAt := if cn.sent.isEmpty then s.timebase else cn.timerAt,
                        sent := cn.sent ++ [⟨cn.sendSeq, bs, m, d, false, true, s.timebase⟩] }
                    | none => s
                  .next (done s)

/-- The head of the connection from PREV is taken and its buffer freed; an ACK goes at once when the sender had no credit left
(16 R501). -/
def State.takeSegment (s : State) (i : Nat) : State :=
  match s.conns[i]? with
  | some c =>
    let s' := s.setConn i { c with inbox := c.inbox.drop 1, oldIn := c.oldIn - 1 }
    -- the sender has sent all that its credit allows: what was delivered or is held reaches the CLIMIT last reported
    let used : Bool := c.expect == c.told || c.held.any (fun f => (f.seq + 1) % 2 ^ 32 == c.told)
    if used ∧ (s'.conns[i]?).any (fun y => y.limit != c.told) then s'.sendAck i else s'
  | none => s

/-- The segment belongs to an instance that was cut short: its digest is the one expected next there. What remains then of such instances:
segments arrive in the order of their instances. -/
def oldSegment (c : CollCtx) (e : CollEntry) (f : HeldFrame) : Option (List (Nat × Nat)) :=
  let l := c.old.dropWhile (fun o => match segAt e.recvs e o.2 with
    | some (ph, b, k) => f.digest != collDigest e (e.stepOf o.1) ph b k ((e.rank + e.n - 1) % e.n) f.pmap f.bytes
    | none => true)
  match l with
  | [] => none
  | o :: os => some ((o.1, o.2 + 1) :: os)

/-- What using a received segment comes to: it is used; it waits, for its source's data or for room at its destination; or its source lies
outside the windows, which cuts the instance short (11 R329). -/
inductive SegUse where
  | done (s : State)
  | later
  | fault (s : State)

/-- A received segment, whole, is used (11 R326, R328, R333): bytes and poison map after the digest check; `adder` marks granules whose
two sums differ. -/
def State.useSegment (s : State) (x p : Nat) (e : CollEntry) (ph b k : Nat) (bs : Bytes) (m adder : Nat) : SegUse :=
  let n := e.segLen k / 64
  let put (s : State) (ph : Nat) (bs : Bytes) (m : Nat) : State :=
    match e.sendPos ph b k with
    | some i => let c := s.coll x; s.setColl x { c with ready := SMap.put c.ready i (bs, m) }
    | none => s
  if e.final ph ∧ (e.dstOff b k).isSome ∧ !s.collRoom e n then .later
  else if ph ≠ 0 then .done ((put s ph bs m).collWrite x p e b k bs m)
  else match s.collSrc x p e b k with
    | .later => .later
    | .fault => .fault (s.setColl x ((s.coll x).abort St.accessFault))
    | .got own om s =>
      let s := s.collSrcRead x e (e.segLen k)
      let bad := adder % 2 ^ n
      let s := if bad = 0 then s else s.countField (Reg.collStatus x) 8 8 (popCount 64 bad)
      let sum := collAdd e.etype bs own
      let m := m ||| om ||| bad
      let s := if m = 0 then s else s.collNote x St.poisoned
      if e.final 0 then .done ((put s 1 sum m).collWrite x p e b k sum m) else .done (put s 0 sum m)

/-- COLL_SEGMENT_RECEIVE (11 R331, R333): the next segment from PREV is checked and used. -/
def execCollSegmentReceive (x : CtxId) (adder : DWord) (s : State) : Host.Outcome State Fault Refusal :=
  match s.collEntry x with
  | none => .next s
  | some (p, e) =>
    let c := s.coll x
    match s.recvConnIdx p e with
    | none => .next s
    | some i =>
      let head := (s.conns[i]?).bind (fun cn => cn.inbox.head?)
      match head with
      | some f =>
        match oldSegment c e f with
        | some l => .next ((s.takeSegment i).setColl x { c with old := l })
        | none => recv s p e c (some i) (some f)
      | none => recv s p e c (some i) none
where
  recv (s : State) (p : Nat) (e : CollEntry) (c : CollCtx) (i : Option Nat) (f : Option HeldFrame) : Host.Outcome State Fault Refusal :=
    match segAt e.recvs e c.recvIdx with
    | none => .next s
    | some (ph, b, k) =>
      if !c.running ∨ c.dead ∨ s.dev = .hold then .next s else
      let step := e.stepOf c.inst
      let rank := (e.rank + e.n - 1) % e.n
      let got : Option (Nat × Nat × Bytes × State) :=
        if (s.part p).replayLog then s.logFind p e step ph b k false else f.map (fun f => (f.digest, f.pmap, f.bytes, s))
      match got with
      | none => .next (s.setColl x { c with segAt := c.segAt.or (some s.timebase) })
      | some (d, m, bs, s1) =>
        let r := if (s.part p).replayLog then (false, s1) else s1.parity e.hub
        let s1 := r.2
        let m := m ||| b2n r.1
        let own := collDigest e step ph b k rank m bs
        let ok : Bool := decide (own = d ∧ bs.length = e.segLen k)
        let bs' := (bs ++ List.replicate (e.segLen k) 0).take (e.segLen k)
        let m' := if ok then m else allGran (e.segLen k)
        match s1.useSegment x p e ph b k bs' m' adder.toNat with
        | .later => .next s
        | .fault s => .next s
        | .done s =>
        let s := if m' = 0 then s else s.collNote x St.poisoned
        let s := if ok then s else
          let s := (s.countField (Reg.collStatus x) 16 8 1).suspectStep p e.id step false
          let s := s.setPart p { s.part p with noticed := (s.part p).noticed ++ [(e.id, step)] }
          if (s.part p).replayLog then s else s.sendNotice p e.id step
        let s := match c.segAt with
          | some t => s.collWaited x p e 0x14 t b k e.prev
          | none => s
        let s := s.logWrite p e step ph b k rank false d own m bs
        let s := if (s.part p).replayLog then s else match i with
          | some i => s.takeSegment i
          | none => s
        let y := s.coll x
        .next (s.setColl x { y with recvIdx := y.recvIdx + 1, segAt := none })

/-- Destination segments that an instance cut short has not delivered, as (block, segment). -/
def CollEntry.undelivered (e : CollEntry) (c : CollCtx) : List (Nat × Nat) :=
  let rec_ := (List.range e.recvCount).filterMap (fun i =>
    if i < c.recvIdx then none else match segAt e.recvs e i with
      | some (ph, b, k) => if e.final ph then some (b, k) else none
      | none => none)
  let own := (List.range e.sendCount).filterMap (fun i =>
    if i < c.sendIdx then none else match segAt e.sends e i with
      | some (ph, b, k) => if ph = 2 ∧ e.own ph b then some (b, k) else none
      | none => none)
  (rec_ ++ own).filter (fun x => (e.dstOff x.1 x.2).isSome)

/-- Poisons what has not been delivered: all of it in memory, a granule at a time into a stream while it has room. -/
def State.collPoison (s : State) (x p : Nat) (e : CollEntry) : State :=
  let c := s.coll x
  if e.dstt ≠ 2 then
    (e.undelivered c).foldl (fun s bk =>
      match e.dstOff bk.1 bk.2 with
      | some off =>
        let n := e.segLen bk.2
        let v := s.free (8 * n)
        (v.2.collGrans x p e off (leBytes n v.1.toNat) (allGran n) (n / 64)).2.collPlaced x e n
      | none => s) s
  else (List.range ((e.dstLen - c.placed) / 64)).foldl (fun s _ =>
    if s.collRoom e 1 then
      let v := s.free 512
      (v.2.collGrans x p e 0 (leBytes 64 v.1.toNat) 1 1).2.collPlaced x e 64
    else s) s

/-- The instance of context x ends with what it has reached (11 R329, R334): one that sent under a slot whose key is due to rotate ends with
KEY_ROTATE_DUE in place of OK (15 R469). -/
def State.collEnd (s : State) (x p : Nat) (e : CollEntry) : State :=
  let c := s.coll x
  let st := if c.status = St.ok ∧ c.rotate then St.keyRotateDue else c.status
  let last := e.count != 0 && decide (e.count ≤ c.next)
  let o := Reg.collStatus x
  let s := (s.setField o 24 5 st).setField o 29 3 (if last then 3 else 1)
  let by_ : Word := BitVec.ofNat 32 (0x30000000 + x)
  -- a wait that the end cuts short is recorded now (20 R610)
  let s := match c.segAt, segAt e.recvs e c.recvIdx with
    | some t, some (_, b, k) => s.collWaited x p e 0x14 t b k e.prev
    | _, _ => s
  let s := match c.credAt, segAt e.sends e c.sendIdx with
    | some t, some (_, b, k) => s.collWaited x p e 0x15 t b k e.next
    | _, _ => s
  let s := if e.tgran = 0 ∧ e.tcnt ≠ 0 then s.svcToken (8 + e.hub) e.tcore e.tkt e.tcnt by_ else s
  let s := if !c.srcDone ∧ e.scnt ≠ 0 then s.svcToken (8 + e.hub) e.score e.skt e.scnt by_ else s
  let s := s.traceHub e.hub p (0x200 + x) 0x16 (c.inst % 65536) st (s.timebase - c.startAt) 0 0 0
  let old := if c.dead ∧ c.recvIdx < e.recvCount then c.old ++ [(c.inst, c.recvIdx)] else c.old
  s.setColl x { s.coll x with running := false, ready := [], dead := false, old := old, stream := [], segAt := none, credAt := none }

/-- In HOLD a running instance ends with DEVICE_HOLD, what it has not written unwritten, and every token is raised (17 R547, 11 R329). -/
def State.collHeld (s : State) (x p : Nat) (e : CollEntry) : State :=
  let s := if e.tgran = 0 then s else s.collDeliver x e (e.dstLen - (s.coll x).delivered)
  (s.setColl x { s.coll x with status := St.deviceHold, dead := true }).collEnd x p e

/-- COLL_INSTANCE_END (11 R329, 16 R502): every destination byte is delivered and every frame acknowledged; or the instance has been cut
short, and what is left of its destination is poisoned; or the CX2 is in HOLD. -/
def execCollInstanceEnd (x : CtxId) (s : State) : Host.Outcome State Fault Refusal :=
  match s.collEntry x with
  | none => .next s
  | some (p, e) =>
    let c := s.coll x
    if !c.running then .next s
    else if s.dev = .hold then .next (s.collHeld x p e)
    else if c.dead then
      let s := s.collPoison x p e
      if e.dstt = 2 ∧ (s.coll x).delivered < e.dstLen then .next s else .next (s.collEnd x p e)
    else
      let acked := (s.part p).replayLog || (match (s.sendConnIdx p e).bind (fun i => s.conns[i]?) with
        | some cn => cn.sent.isEmpty
        | none => true)
      if c.sendIdx = e.sendCount ∧ c.recvIdx = e.recvCount ∧ c.delivered = c.placed ∧ acked then .next (s.collEnd x p e) else .next s

/-- LIMIT in ns: 1 s when 0 (11 R325, 12 R361). -/
def CollEntry.limitNs (e : CollEntry) : Nat := if e.limit = 0 then 1000000000 else 1000 * e.limit

/-- COLL_LIMIT_EXPIRY (11 R329): LIMIT has passed since the start of the instance, which has not ended. -/
def execCollLimitExpiry (x : CtxId) (s : State) : Host.Outcome State Fault Refusal :=
  match s.collEntry x with
  | none => .next s
  | some (_, e) =>
    if s.timebase < (s.coll x).startAt + e.limitNs then .next s else .next (s.setColl x ((s.coll x).abort St.timeout))

/-! ## Flits from a hub (06 R185, R194) -/

/-- A flit that a hub sent has reached the ingress buffer: its bytes are delivered for the engine or collective context that it came from. -/
def State.hubArrived (s : State) (src : Nat) (f : Flit) : State :=
  if src < 256 then
    let e := s.engine src
    if e.active ∧ s.viaHub src ∧ e.bytes < 64 * e.moved then s.deliver src 64 (leBytes 64 f.pay.toNat) else s
  else
    let c := s.coll (src - 256)
    match s.collEntry (src - 256) with
    | some (_, e) => if c.running ∧ c.delivered < c.placed then s.collDeliver (src - 256) e 64 else s
    | none => s

/-- CROSSING_FRAME_ARRIVAL (06 R188, R194): the frame of a module in a direction that is due in its routers' present cycle reaches its
far end; `err` is what the crossing did to the frame's bytes. A slot that carries no flit is a frame too: its errors are counted, and when
they cannot be corrected it is delivered as a valid poisoned flit, whose payload is a free value (log 69). Bytes that a hub sent are delivered
when they are in the ingress buffer (06 R185, 08 R241). -/
def execCrossingFrameArrival (e : Fin 14) (m : Fin 16) (dir : Fin 2) (err : List (Fin 72 × Byte)) (s : State) :
    Host.Outcome State Fault Refusal :=
  let id := xingId e m
  let x := s.xing id
  match x.frames.find? (fun f => f.dir == dir.val && decide (f.arrive ≤ (s.router (xingRouter e m dir f.lane)).now)) with
  | some f =>
    let s := s.setXing id { x with frames := x.frames.erase f }
    let k := s.decodeFrame e m dir f.flit err
    let s := k.1.crossed e f.lane f.arrive m dir k.2 f.src
    .next (match f.src with
      | some src => s.hubArrived src f.flit
      | none => s)
  | none =>
    let u := (s.router (xingRouter e m dir 0)).now
    match s.xingPart e m, s.laneAt e m dir u with
    | some p, some lane =>
      if ¬ s.mayAct p u ∨ frameErrors err = [] then .next s else
      let r := s.free 512
      let k := r.2.decodeFrame e m dir { Flit.empty with pay := r.1 } err
      .next (if k.2.valid = 0 then k.1 else k.1.crossed e lane u m dir k.2 none)
    | _, _ => .next s

/-! ## The step log (11 R322) -/

/-- STEP_LOG_WRITE (11 R322): the record of the step marks since the last one. -/
def execStepLogWrite (p : PartId) (s : State) : Host.Outcome State Fault Refusal :=
  let x := s.part p
  let g := x.facet.glob
  let step := s.stepOf p
  let cnt := step - x.logBound.1
  if g.stepLogK = 0 ∨ cnt = 0 ∨ x.lastMark.isNone then .next s else
  let from_ := x.logBound.1
  let pause (i : Nat) : Nat := SMap.get 0 x.markBound.2 i - SMap.get 0 x.logBound.2.2 i
  let sus := x.suspectSteps.any (fun t => decide (from_ ≤ t) && decide (t < step))
  let rep := match x.run with | some r => r.replay | none => false
  let flags := (if sus then 1 else 0) + (if rep then 2 else 0) + (if x.ckptStep = some step then 4 else 0)
  let r := leBytes 8 from_ ++ leBytes 4 cnt ++ leBytes 4 flags ++ leBytes 8 (x.markBound.1 - x.logBound.2.1) ++
    leBytes 8 (pause 0) ++ leBytes 8 (pause 1) ++ leBytes 8 (pause 2) ++ leBytes 8 (pause 3) ++ leBytes 8 0
  let s := match s.translate p (g.stepLogBase + 64 * (x.stepLogPos % 2 ^ g.stepLogK)) .write with
    | some (a, _) => s.ccWrite none a r false
    | none => s
  .next (s.setPart p { x with stepLogPos := x.stepLogPos + 1, logBound := (step, x.markBound.1, x.markBound.2),
                              logRecs := x.logRecs.filter (fun r => decide (x.stepLogPos < r.2.2.1 + 2 ^ g.stepLogK)) ++ [(from_, step, x.stepLogPos, flags)],
                              suspectSteps := x.suspectSteps.filter (fun t => decide (step ≤ t)),
                              ckptStep := if x.ckptStep = some step then none else x.ckptStep })

end Sys2Proof.Machine
end

