-- ==== Sys2Proof/Machine/Replica.lean ====
section
/-! DEFINITION. Replica groups: passes, reports, comparison, expulsion (11 R336–R341), and the recovery window (17 R531). -/

namespace Sys2Proof.Machine

/-- The slices and channels of a partition start their parts of a pass. -/
def State.startPass (s : State) (p : Nat) : State :=
  let k : Pass := ⟨0, 0, 0, 0, false, false⟩
  let s := (s.coresOf p).foldl (fun s n => s.setSlice n { s.slice n with pass := some k }) s
  (s.chansOf p).foldl (fun s c => s.setChan c { s.chan c with pass := some k }) s

def State.stopPass (s : State) (p : Nat) : State :=
  let s := (s.coresOf p).foldl (fun s n => s.setSlice n { s.slice n with pass := none }) s
  (s.chansOf p).foldl (fun s c => s.setChan c { s.chan c with pass := none }) s

def ReplicaGroup.every (g : ReplicaGroup) : Nat := if g.interval = 0 then 256 else g.interval

/-- REPLICA_PASS_START (11 R338): a step mark has made the step number a multiple of INTERVAL. A pass still under way is abandoned and
its interval is LATE, and is not compared. -/
def execReplicaPassStart (p : PartId) (s : State) : Host.Outcome State Fault Refusal :=
  let x := s.part p
  match x.facet.replica with
  | none => .next s
  | some g =>
    let step := s.stepOf p
    let i := step / g.every
    if step % g.every ≠ 0 ∨ x.lastMark.isNone ∨ x.passLast = some i ∨ bits (s.reg (Reg.replica p)) 11 1 = 1 then .next s else
    let s := match x.pass with
      | some j =>
        let s := s.countField (Reg.replica p) 0 8 1
        let x := s.part p
        s.setPart p { x with late := x.late ++ [j], reports := x.reports.filter (fun r => r.interval != j) }
      | none => s
    let s := s.startPass p
    .next (s.setPart p { s.part p with pass := some i, passLast := some i })

/-! ## Reports and comparison (11 R339) -/

def State.active (s : State) (p m : Nat) : Bool := bits (s.reg (Reg.replica p)) (16 + m) 1 = 1

/-- Member m leaves the group as this member sees it. -/
def State.clearActive (s : State) (p m : Nat) : State := s.setField (Reg.replica p) (16 + m) 1 0

/-- A peer's fabric address with its partition number (12 R362). -/
def peerAddr (a : Nat × Nat) : Nat := a.1 / 2 ^ 54 * 2 ^ 54 + a.2 % 64 * 2 ^ 48 + a.1 % 2 ^ 48

/-- A message to a member: through the hubs on this part, else over the fabric. -/
def State.toMember (s : State) (p : Nat) (addr : Nat) (mtype : Nat) (body : Bytes) (here : State → Nat → State) : State :=
  if addrDev addr = s.fabricId then here s (addrPart addr)
  else s.tell (addrPort addr) (addrDev addr) (leBytes 1 mtype ++ leBytes 1 p ++ leBytes 1 (addrPart addr) ++ body)

/-- A notice that a member is expelled is taken in a partition (11 R340). -/
def State.takeExpel (s : State) (p grp m : Nat) : State :=
  match (s.part p).facet.replica with
  | some g => if g.group = grp ∧ m < 16 then s.clearActive p m else s
  | none => s

/-- This member is expelled: its partition faults and every member is told. -/
def State.expelSelf (s : State) (p : Nat) (g : ReplicaGroup) : State :=
  let s := s.setField (Reg.replica p) 11 1 1
  let body := leBytes 1 0 ++ leBytes 2 g.group ++ leBytes 1 g.member
  let s := (g.peers.zipIdx.filter (fun x => x.2 != g.member)).foldl (fun s x =>
    s.toMember p (peerAddr x.1) 6 body (fun s q => s.takeExpel q g.group g.member)) s
  s.faultPart p 0x43 none

/-- The digest that more than half of k reports hold. -/
def majority (rs : List Report) : Option Nat :=
  (rs.filterMap (fun r => r.digest)).find? (fun d => decide (rs.length < 2 * (rs.filter (fun r => r.digest == some d)).length))

/-- Compares an interval's reports (11 R339). -/
def State.compare (s : State) (p : Nat) (g : ReplicaGroup) (i : Nat) : State :=
  let x := s.part p
  let rs := x.reports.filter (fun r => r.interval == i && s.active p r.member)
  let s := s.setPart p { x with reports := x.reports.filter (fun r => r.interval != i), compared := max x.compared (i + 1) }
  let k := rs.length
  let same : Bool := match rs with
    | r :: _ => r.digest.isSome && rs.all (fun y => y.digest == r.digest)
    | [] => true
  if same ∨ k ≤ 1 then s
  else if k = 2 then s.setField (Reg.replica p) 9 1 1
  else match majority rs with
    | none => s.setField (Reg.replica p) 10 1 1
    | some d =>
      let out := (rs.filter (fun r => r.digest != some d)).map (fun r => r.member)
      let s := (out.filter (fun m => m != g.member)).foldl (fun s m => s.clearActive p m) s
      if out.contains g.member then s.expelSelf p g else s

/-- Whether every active member's report for an interval is held. -/
def State.allHeld (s : State) (p : Nat) (g : ReplicaGroup) (i : Nat) : Bool :=
  (List.range g.m).all (fun m => !s.active p m || (s.part p).reports.any (fun r => r.member == m && r.interval == i))

/-- An interval whose reports are all held and that is still to be compared, with its partition. -/
def State.dueCompare (s : State) : Option (Nat × ReplicaGroup × Nat) :=
  (List.range 64).findSome? (fun p => (s.part p).facet.replica.bind (fun g =>
    ((s.part p).reports.find? (fun r => s.allHeld p g r.interval)).map (fun r => (p, g, r.interval))))

/-- Compares every such interval: at most k, as a comparison may expel a member and complete others (11 R340). -/
def State.compareAll (s : State) : Nat → State
  | 0 => s
  | k + 1 => match s.dueCompare with
    | none => s
    | some (p, g, i) => (s.compare p g i).compareAll k
/-- Reports held by all partitions: each comparison uses one up at least. -/
def State.reportCount (s : State) : Nat := (List.range 64).foldl (fun a p => a + (s.part p).reports.length) 0
def State.compareDue (s : State) : State := s.compareAll s.reportCount

/-- A report is stored and, once every report of its interval is held, the interval is compared. An expelled member sends none until it is
activated anew, so a report of one that is not ACTIVE makes it ACTIVE again (11 R340; DESIGN CHOICE, log 98). -/
def State.takeReport (s : State) (p grp : Nat) (r : Report) : State :=
  match (s.part p).facet.replica with
  | none => s
  | some g =>
    let x := s.part p
    if g.group ≠ grp ∨ r.interval < x.compared ∨ x.late.contains r.interval ∨
      x.reports.any (fun y => y.member == r.member && y.interval == r.interval) then s else
    let s := s.setPart p { x with reports := x.reports ++ [r] }
    (if s.active p r.member then s else s.setField (Reg.replica p) (16 + r.member) 1 1).compareDue

/-- REPLICA_PASS_END (11 R337, R339): every slice and channel of the partition has finished; the digest goes to every member. -/
def execReplicaPassEnd (p : PartId) (s : State) : Host.Outcome State Fault Refusal :=
  let x := s.part p
  match x.facet.replica, x.pass with
  | some g, some i =>
    let slices := if g.regions.any (fun r => r.kind == 0) then (s.coresOf p).filterMap (fun n => (s.slice n).pass) else []
    let chans := if g.regions.any (fun r => r.kind == 1) then (s.chansOf p).filterMap (fun c => (s.chan c).pass) else []
    let all := slices ++ chans
    if !all.all (fun k => k.fin) then .next s else
    let bad := all.any (fun k => k.bad)
    let d := all.foldl (fun a k => a ^^^ k.acc) 0
    let dig := if bad then none else some d
    let s := s.stopPass p
    let s := s.setPart p { s.part p with pass := none }
    if bits (s.reg (Reg.replica p)) 11 1 = 1 then .next s else
    let body := leBytes 1 0 ++ leBytes 2 g.group ++ leBytes 1 (if bad then 1 else 0) ++ leBytes 1 0 ++ leBytes 8 i ++ leBytes 8 (if bad then 0 else d)
    let s := (g.peers.zipIdx.filter (fun y => y.2 != g.member)).foldl (fun s y =>
      s.toMember p (peerAddr y.1) 5 body (fun s q => s.takeReport q g.group ⟨g.member, i, dig⟩)) s
    .next (s.takeReport p g.group ⟨g.member, i, dig⟩)
  | _, _ => .next s

/-- The member of p's group that a message's sender is. -/
def State.senderMember (s : State) (p dev sp : Nat) : Option Nat :=
  match (s.part p).facet.replica with
  | some g => g.peers.findIdx? (fun a => addrDev a.1 == dev && a.2 == sp)
  | none => none

/-- REPLICA (11 R339): a report arrives. -/
def execReplica (q : PortId) (s : State) : Host.Outcome State Fault Refusal :=
  match s.takeApp q 5 true with
  | none => .next s
  | some (f, s) =>
    if !s.appValid f then .next s else
    let p := hField f.payload 2 1
    match s.senderMember p f.sdev (hField f.payload 1 1) with
    | none => .next s
    | some m =>
      let d := if hField f.payload 6 1 % 2 = 1 then none else some (hField f.payload 16 8)
      .next (s.takeReport p (hField f.payload 4 2) ⟨m, hField f.payload 8 8, d⟩)

/-- EXPEL (11 R340): the member named is no longer waited for. -/
def execExpel (q : PortId) (s : State) : Host.Outcome State Fault Refusal :=
  match s.takeApp q 6 true with
  | none => .next s
  | some (f, s) =>
    if !s.appValid f then .next s else
    let p := hField f.payload 2 1
    .next (s.takeExpel p (hField f.payload 4 2) (hField f.payload 6 1)).compareDue

/-- REPLICA_INTERVAL_DEADLINE (11 R339): at the end of the following interval, an interval is compared with the reports held. -/
def execReplicaIntervalDeadline (p : PartId) (s : State) : Host.Outcome State Fault Refusal :=
  match (s.part p).facet.replica with
  | none => .next s
  | some g =>
    let now := s.stepOf p / g.every
    let due := ((s.part p).reports.map (fun r => r.interval)).eraseDups.filter (fun i => decide (i + 2 ≤ now))
    .next (due.foldl (fun s i => s.compare p g i) s).compareDue

/-- RECOVERY_WINDOW_CLOSE (17 R531): 1 s after its event has ended the partition's recovery window closes; a handover under way has not. -/
def execRecoveryWindowClose (p : PartId) (s : State) : Host.Outcome State Fault Refusal :=
  let goes := s.loupe.handover && bits (s.reg (Reg.recovery p)) 28 3 == 4
  if s.windowOpen p ∧ ¬ goes ∧ (s.part p).recoveryAt + 1000000000 ≤ s.timebase then .next (s.setField (Reg.recovery p) 31 1 0) else .next s

end Sys2Proof.Machine
end

