-- ==== Sys2Proof/Machine/Views.lean ====
section
/-! DEFINITION. What a register reads as, with the fields that report other state, and the effects of a full-width read
(13 R389–R395, R397, R401, 02–20's register tables). -/

namespace Sys2Proof.Machine

/-! ## Counters as registers (20 R603) -/

/-- A counter's two registers lie at this offset. -/
def isCnt (off : Nat) : Bool :=
  (decide (0x0400000 ≤ off) && decide (off < 0x0480000)) ||
  (decide (0x0480000 ≤ off) && decide (off < 0x0580000) && decide (off % 64 < 40)) ||
  (decide (0x0580000 ≤ off) && decide (off < 0x0580E00) &&
    decide ((off - 0x0580000) % 256 < (if off < 0x0580A00 then 256 else 128))) ||
  (decide (0x0590000 ≤ off) && decide (off < 0x0598000) && decide (off % 64 < 48)) ||
  (decide (0x05A0000 ≤ off) && decide (off < 0x05A1000) && decide (off % 32 < 24)) ||
  (decide (0x05A1000 ≤ off) && decide (off < 0x05A1040) && decide (off % 32 < 24)) ||
  (decide (0x05B0000 ≤ off) && decide (off < 0x05B0000 + 16 * 20)) ||
  (decide (0x05C0000 ≤ off) && decide (off < 0x05C8000) && decide (off % 512 < 320)) ||
  (decide (0x05D0000 ≤ off) && decide (off < 0x05D0020)) ||
  (decide (0x05D1000 ≤ off) && decide (off < 0x05D1800))

/-- The current half of a counter that lies at an offset. -/
def State.cntHalf (s : State) (off : Nat) : Word :=
  BitVec.ofNat 32 (SMap.get 0 s.cnts (off / 8 * 8) / (if off % 8 = 0 then 1 else 2 ^ 32))

/-! ## Fields that report other state -/

def DevState.code : DevState → Nat
  | .cold => 0
  | .mgmtReady => 1
  | .staging => 2
  | .ready => 3
  | .hold => 4
  | .shutdown => 5

/-- HOSTMODE in force (16 R491). -/
def State.hostMode (s : State) : Nat := bits (s.reg Reg.laneStatus) 27 2

def State.viewHostState (s : State) (w : Word) : Word :=
  setBits (setBits (setBits (setBits w 28 4 s.dev.code) 19 1 (b2n (s.hostMode == 2))) 18 1 s.loupe.active) 17 1 (b2n s.loupe.handover)

def RState.code : RState → Nat
  | .disabled => 0
  | .active => 1
  | .draining => 2
  | .error => 3

/-- Commands of a ring in flight. -/
def State.ringInflight (s : State) (r : Nat) : Nat := (s.loupe.inflight.filter (fun c => c.via == Via.ring r)).length

def State.viewRing (s : State) (r : Nat) : Word :=
  let x := s.ring r
  setBits (setBits (setBits (setBits 0 30 2 x.state.code) 24 6 (s.ringInflight r)) 22 2 x.fetchErr) 0 17 x.sqHead

/-- MESH_STATUS (06 R200). -/
def State.viewMesh (s : State) (n : Nat) (w : Word) : Word :=
  let r := s.router n
  setBits (setBits (setBits w 16 4 (s.fenceBits n)) 15 1 (b2n r.halted)) 0 10 r.pc

/-- ENGINE_IDLE (03 R97). -/
def State.engineIdleBit (s : State) (n : Nat) : Bool :=
  let c := s.core n
  let t := c.seq.now
  let e := (c.eng.prune t).pruneRuns (s.fastClock n) t
  e.mmas.isEmpty && e.mvps.isEmpty && e.drains.isEmpty && e.loads.isEmpty && e.ports.isEmpty && c.portBusy.all (fun w => decide (w.2 < t))

/-- CORE_SEQ_STATUS (05 R134). -/
def State.viewSeq (s : State) (n : Nat) (w : Word) : Word :=
  let q := (s.core n).seq
  let tok := match q.waits with
    | x :: _ => x.tok
    | [] => 0
  setBits (setBits (setBits (setBits (setBits w 31 1 (b2n q.halted)) 30 1 (b2n (!q.waits.isEmpty))) 26 4 tok) 21 5 q.waits.length) 0 10 q.next

/-- SLICE_STATUS (07 R218). -/
def State.viewSlice (s : State) (n : Nat) (w : Word) : Word :=
  let x := s.slice n
  let band := match s.partOfCore n with
    | some p => (s.part p).band
    | none => 0
  let busy := x.copy.isSome || !x.toSpare.isEmpty || (match x.scrub with
    | some k => decide (k.beat < k.last)
    | none => false)
  setBits (setBits w 8 2 band) 7 1 (b2n busy)

/-- CLOVE_STATUS (09 R284). -/
def State.viewClove (s : State) (c : Nat) (w : Word) : Word :=
  let x := s.clove c
  let fn := match x.held with
    | some d => slotFunc d
    | none => 0
  setBits (setBits (setBits (setBits (setBits w 29 3 (s.cloveState c)) 26 1 (b2n x.program.isSome)) 25 1
    (b2n (s.neighbour c 0).isNone)) 24 1 (b2n (s.neighbour c 1).isNone)) 16 8 fn

/-- STATE and ID of PART_COLL_STATUS (11 R334). -/
def State.viewColl (s : State) (x : Nat) (w : Word) : Word :=
  match (s.coll x).part with
  | none => setBits (setBits w 29 3 0) 0 6 0
  | some p =>
    match (s.part p).facet.colls.find? (fun e => e.id == (s.coll x).entry) with
    | none => setBits (setBits w 29 3 0) 0 6 0
    | some e =>
      let c := s.coll x
      let st := if c.running then 2 else if e.count ≠ 0 ∧ e.count ≤ c.next then 3 else 1
      setBits (setBits w 29 3 st) 0 6 e.id

def BState.code : BState → Nat
  | .off => 0
  | .retain => 1
  | .active => 2
  | .retired => 3

/-- BLOCK_STATE and BLOCK_APERTURE (18 R560). -/
def State.viewBlock (s : State) (b : Nat) : Word :=
  let x := s.block b
  let o := s.partOfBlock b
  setBits (setBits (setBits (setBits (setBits (setBits (setBits 0 30 2 x.state.code) 28 2 x.target.code) 27 1 (b2n x.queued)) 26 1
    (b2n x.ramping)) 22 1 (b2n o.isSome)) 16 6 (o.getD 0)) 8 8 x.trim

def State.viewAperture (s : State) (t : Nat) (w : Word) : Word :=
  let rs := ((List.range 32).filter (fun i => (s.block (32 * t + i)).ramping)).length
  setBits (setBits w 29 3 rs) 23 6 (SMap.get [] s.aperture t).length

def KState.code : KState → Nat
  | .empty => 0
  | .active => 1
  | .retiring => 2

/-- The partition that a key slot belongs to, from the device facet (15 R470). -/
def State.slotPart (s : State) (k : Nat) : Nat :=
  ((List.range 64).find? (fun p => (s.rec_ p).valid && bitOf (s.rec_ p).keyslots k)).getD 0

/-- KEY_SLOT (15 R470). -/
def State.viewKey (s : State) (k : Nat) : Word :=
  let x := s.key k
  setBits (setBits (setBits (setBits (setBits (setBits (setBits 0 30 2 x.state.code) 28 2 x.kind) 27 1 (b2n x.rotateDue)) 26 1
    (b2n x.exhausted)) 25 1 (b2n x.byOperator)) 16 6 (s.slotPart k)) 0 16 (if x.kind = 0 then x.job else 0)

def PortState.code : PortState → Nat
  | .notFabric => 0
  | .disabled => 1
  | .training => 2
  | .auth => 3
  | .up => 4
  | .retraining => 5
  | .absent => 6
  | .quarantined => 7

/-- Fault events of a port in the last 60 s (16 R509). -/
def State.portFaults (s : State) (q : Nat) : Nat :=
  ((s.port q).faultAt.filter (fun t => decide (s.timebase < t + 60000000000))).length

/-- FAB_PORT_STATUS (16 R515). -/
def State.viewPort (s : State) (q : Nat) : Word :=
  let x := s.port q
  if x.state = .notFabric then 0 else
  let r := x.role.toNat
  setBits (setBits (setBits (setBits (setBits (setBits (setBits 0 28 4 x.state.code) 26 2 x.qcause) 25 1 (r / 16)) 23 2 (r / 4)) 22 1
    (r / 32)) 21 1 (b2n x.peerAuth)) 18 3 (min (s.portFaults q) 4)

/-- LANE_STATUS's FABRIC_QUADS and LANE_MAP_CTRL's BUSY (16 R491). -/
def State.fabricQuads (s : State) : Nat := ((List.range 20).filter (fun q => (s.port q).role.toNat % 4 == 2)).length

/-- TRACE_PART (20 R612). -/
def State.viewTrace (s : State) (p : Nat) : Word :=
  let o := SMap.get TraceCfg.reset s.traceCfg (2 * p)
  let t := SMap.get TraceCfg.reset s.traceCfg (2 * p + 1)
  setBits (setBits (setBits (setBits 0 29 3 o.units) 26 3 t.units) 25 1 (b2n o.stream)) 24 1 (b2n t.stream)

/-- What the registers of the LOUPE, HOST, RING, PART and core groups read as. -/
def State.viewLow (s : State) (off : Nat) (w : Word) : Word :=
  if off = Reg.bringup then setBits (setBits w 28 4 s.loupe.bringStep) 24 4 s.loupe.wave
  else if off = Reg.hostState then s.viewHostState w
  else if 0x0030000 ≤ off ∧ off < 0x0030000 + 32 * 65 ∧ off % 32 = 24 then s.viewRing ((off - 0x0030000) / 32)
  else match regIndex off (Reg.collStatus 0) 4 64 with
  | some x => s.viewColl x w
  | none =>
    if 0x0100000 ≤ off ∧ off < 0x0120000 ∧ off % 8 = 0 then s.viewMesh ((off - 0x0100000) / 8) w
    else if 0x0200000 ≤ off ∧ off < 0x0280000 ∧ off % 32 = 4 then setBits w 0 1 (b2n (s.engineIdleBit ((off - 0x0200000) / 32)))
    else if 0x0200000 ≤ off ∧ off < 0x0280000 ∧ off % 32 = 8 then s.viewSeq ((off - 0x0200000) / 32) w
    else if 0x0280000 ≤ off ∧ off < 0x02A0000 ∧ off % 8 = 0 then s.viewSlice ((off - 0x0280000) / 8) w
    else w

/-- What the registers of the CLOVE, BLOCK, KEY, FAB, LANE and TRACE groups read as. -/
def State.viewHigh (s : State) (off : Nat) (w : Word) : Word :=
  match regIndex off (Reg.cloveStatus 0) 4 512 with
  | some c => s.viewClove c w
  | none => match regIndex off (Reg.blockState 0) 4 256 with
  | some b => s.viewBlock b
  | none => match regIndex off (Reg.blockAperture 0) 4 8 with
  | some t => s.viewAperture t w
  | none => match regIndex off (Reg.keySlot 0) 4 128 with
  | some k => s.viewKey k
  | none => match regIndex off (Reg.portStatus 0) 32 20 with
  | some q => s.viewPort q
  | none => match regIndex off (Reg.tracePart 0) 8 64 with
  | some p => s.viewTrace p
  | none =>
    if off = Reg.fabIdLo then BitVec.ofNat 32 s.fabricId
    else if off = Reg.fabIdHi then BitVec.ofNat 32 (s.fabricId / 2 ^ 32)
    else if off = Reg.laneStatus then setBits w 22 5 s.fabricQuads
    else if off = Reg.laneMapCtrl then setBits (setBits w 31 1 0) 30 1 (b2n s.loupe.mapBusy)
    else w

/-- A register as it reads; offsets that hold none read 0. -/
def State.view (s : State) (off : Nat) : Word :=
  if isCnt off then s.cntHalf off
  else match regInfo off with
  | none => 0
  | some i => s.viewHigh off (s.viewLow off (s.reg off)) &&& ~~~i.wo

/-! ## Reads (13 R391, R395) -/

/-- Each requester's latch of a counter's high half: function 0, function 1, the Loupe for ring r, the Loupe for MCTP. -/
def latchKey (req lo : Nat) : Nat := req * 2 ^ 27 + lo
def reqOfVia : Via → Nat
  | .ring r => 2 + r
  | .mctp => 67
  | .loupe => 68

/-- A full-width read of a register by a requester: its value, and its read side effects. -/
def State.readFull (s : State) (req off : Nat) : Word × State :=
  if isCnt off then
    if off % 8 = 0 then
      (s.cntHalf off, { s with latches := SMap.put s.latches (latchKey req off) (s.cntHalf (off + 4)) })
    else ((SMap.find s.latches (latchKey req (off - 4))).getD (s.cntHalf off), s)
  else match regInfo off with
    | none => (0, s)
    | some i => (s.view off, if i.rc = 0 then s else s.andNotReg off i.rc)

/-- n registers read in turn, each at full width. -/
def State.readRun (s : State) (req off : Nat) : Nat → List Word × State
  | 0 => ([], s)
  | n + 1 =>
    let r := s.readFull req off
    let t := r.2.readRun req (off + 4) n
    (r.1 :: t.1, t.2)

end Sys2Proof.Machine
end

