-- ==== Sys2Proof/Machine/Host.lean ====
section
/-! DEFINITION. The host interface: functions, register and doorbell windows, rings and their registers, access faults, the
memory aperture (13 R385–R408, R414–R418, 07 R219, 16 R490, R515, 18 R556, 21 R631). -/

namespace Sys2Proof.Machine

/-! ## Functions and access faults -/

/-- Function f exists under the host mode in force (13 R385, 16 R489). -/
def State.funcExists (s : State) (f : Nat) : Bool := if f = 0 then s.hostMode != 0 else s.hostMode == 2

/-- Function f answers: it exists, PERST# of its link is released, its link is up and MGMT_READY has been reached (13 R387, 21 R631). -/
def State.funcUp (s : State) (f : Nat) : Bool :=
  s.funcExists f && SMap.get false s.loupe.perst f && SMap.get false s.loupe.linkUp f && s.dev != .cold

/-- Logs an access fault (13 R415): window, function, kind, offset. -/
def State.accessFault (s : State) (win f kind addr : Nat) : State :=
  let w := s.reg Reg.errInfo
  let s := if bits w 31 1 = 1 then s else
    (s.setReg Reg.errAddr (BitVec.ofNat 32 addr)).setReg Reg.errInfo
      (setBits (setBits (setBits (setBits w 31 1 1) 29 2 win) 28 1 f) 24 4 kind)
  (s.countField Reg.errInfo 0 16 1).hostEvent 1

/-- TLP payload bytes of function f: sent, received (20 R603). -/
def State.countTx (s : State) (f n : Nat) : State := s.tally none 6 (Cnt.pcie f 0) n
def State.countRx (s : State) (f n : Nat) : State := s.tally none 6 (Cnt.pcie f 1) n

/-- A memory write to the host through function f; one that the function can no longer send is discarded (21 R631). -/
def State.hostPut (s : State) (f addr : Nat) (data : Bytes) : State :=
  if s.funcUp f then (s.countTx f data.length).send (.hostWrite f addr data false) else s

/-! ## Rings (13 R400–R403) -/

def State.ringFunc (s : State) (r : Nat) : Nat := bits (s.reg (Reg.ringCtrl r)) 30 1
def State.sqSize (s : State) (r : Nat) : Nat := 2 ^ bits (s.reg (Reg.ringCtrl r)) 25 5
def State.cqSize (s : State) (r : Nat) : Nat := 2 ^ bits (s.reg (Reg.ringCtrl r)) 20 5

/-- The ring's registers pass the check of ENABLE (13 R402). -/
def State.ringValid (s : State) (r : Nat) (ctrl : Word) : Bool :=
  bits (s.reg (Reg.ringSqLo r)) 0 12 == 0 && bits (s.reg (Reg.ringCqLo r)) 0 12 == 0 &&
  decide (4 ≤ bits ctrl 25 5) && decide (bits ctrl 25 5 ≤ 16) && decide (4 ≤ bits ctrl 20 5) && decide (bits ctrl 20 5 ≤ 16) &&
  (bits ctrl 30 1 == 0 || (r != 0 && s.hostMode != 1))

/-- A ring starts to drain: ENABLE is 0 and fetching stops (13 R402). -/
def State.drainRing (s : State) (r : Nat) : State :=
  (s.setField (Reg.ringCtrl r) 31 1 0).setRing r { s.ring r with state := .draining }

/-- A write of RING_CTRL (13 R402). -/
def State.writeRingCtrl (s : State) (f r : Nat) (v : Word) : State :=
  let v := v &&& 0xFFFFFE00
  let old := s.reg (Reg.ringCtrl r)
  let en := bits v 31 1 = 1
  let rest := v &&& 0x7FFFFFFF
  let bad (k : Nat) : State := s.accessFault 0 f k (Reg.ringCtrl r)
  match (s.ring r).state with
  | .disabled =>
    if !en then s.setReg (Reg.ringCtrl r) v
    else if !s.ringValid r v then (s.setReg (Reg.ringCtrl r) rest).accessFault 0 f 6 (Reg.ringCtrl r)
    else (s.setReg (Reg.ringCtrl r) v).setRing r { HostRing.reset with state := .active }
  | .draining => if en ∨ rest ≠ old &&& 0x7FFFFFFF then bad 5 else s
  | _ => if rest ≠ old &&& 0x7FFFFFFF then bad 5 else if en then s else s.drainRing r

/-- A write of a ring's base register (13 R402). -/
def State.writeRingBase (s : State) (f r off : Nat) (v : Word) : State :=
  if (s.ring r).state = .disabled then s.setReg off v
  else if v = s.reg off then s else s.accessFault 0 f 5 off

/-- RING_ENABLE: RING_CTRL[r] written with ENABLE = 1. -/
def execRingEnable (f : FuncId) (r : RingId) (ctrl : Word) (s : State) : Host.Outcome State Fault Refusal :=
  .next (if s.funcUp f then (s.countRx f 4).writeRingCtrl f r (ctrl ||| 0x80000000) else s)

/-- RING_DISABLE: RING_CTRL[r] written with ENABLE = 0. -/
def execRingDisable (f : FuncId) (r : RingId) (ctrl : Word) (s : State) : Host.Outcome State Fault Refusal :=
  .next (if s.funcUp f then (s.countRx f 4).writeRingCtrl f r (ctrl &&& 0x7FFFFFFF) else s)

/-- RING_DRAINED (13 R402): a draining ring has no command in flight and every completion is written. -/
def execRingDrained (r : RingId) (s : State) : Host.Outcome State Fault Refusal :=
  let x := s.ring r
  if x.state = .draining ∧ s.ringInflight r = 0 ∧ x.waiting.isEmpty then
    .next (s.setRing r { x with state := .disabled, mboxes := [] })
  else .next s

/-- A doorbell write (13 R403): the value's range, then whether the ring is ACTIVE. -/
def State.doorbell (s : State) (f r : Nat) (cq : Bool) (v : Nat) : State :=
  if s.ringFunc r ≠ f then s else
  let x := s.ring r
  if (if cq then s.cqSize r else s.sqSize r) ≤ v then s.accessFault 1 f 4 (0x2000 * r + (if cq then 4 else 0))
  else if x.state ≠ .active then s
  else s.setRing r (if cq then { x with cqHead := v } else { x with sqTail := v })

def execSqTail (f : FuncId) (r : RingId) (v : Word) (s : State) : Host.Outcome State Fault Refusal :=
  .next (if s.funcUp f then (s.countRx f 4).doorbell f r false v.toNat else s)

def execCqHead (f : FuncId) (r : RingId) (v : Word) (s : State) : Host.Outcome State Fault Refusal :=
  .next (if s.funcUp f then (s.countRx f 4).doorbell f r true v.toNat else s)

/-! ## Mailboxes (13 R409–R412) -/

def HostRing.mbox (x : HostRing) (m : Nat) : Mailbox := SMap.get Mailbox.reset x.mboxes m

/-- The 256 bytes a mailbox reads as (13 R410). -/
def Mailbox.image (m : Mailbox) : Bytes :=
  match m.state with
  | .valid => leBytes 4 m.gen ++ leBytes 1 m.status ++ leBytes 1 1 ++ leBytes 2 m.cid ++ leBytes 2 m.payload.length ++
      leBytes 1 m.opcode ++ leBytes 5 0 ++ m.payload ++ List.replicate (240 - m.payload.length) 0
  | .pending => leBytes 4 0 ++ leBytes 1 St.notReady ++ leBytes 1 2 ++ List.replicate 250 0
  | .free => leBytes 4 0 ++ leBytes 1 St.notReady ++ List.replicate 251 0

/-- A register of the doorbell window as function f reads it (13 R403). -/
def State.doorbellRead (s : State) (f off : Nat) : Word :=
  let r := off / 0x2000
  let o := off % 0x2000
  if 65 ≤ r ∨ s.ringFunc r ≠ f then 0 else
  let x := s.ring r
  if o = 0 then BitVec.ofNat 32 x.sqTail
  else if o = 4 then BitVec.ofNat 32 x.cqHead
  else if o = 8 then BitVec.ofNat 32 x.sqHead
  else if o = 12 then setBits 0 30 2 x.state.code
  else if o < 0x1000 then 0
  else BitVec.ofNat 32 (leVal (((x.mbox ((o - 0x1000) / 0x100)).image.drop (o % 0x100)).take 4))

/-- A 4-byte write to the doorbell window. -/
def State.doorbellWrite (s : State) (f off : Nat) (v : Word) : State :=
  let r := off / 0x2000
  let o := off % 0x2000
  if 65 ≤ r ∨ s.ringFunc r ≠ f then s
  else if o = 0 then s.doorbell f r false v.toNat
  else if o = 4 then s.doorbell f r true v.toNat
  else if o = 8 ∨ o = 12 ∨ 0x1000 ≤ o then (if v = 0 then s else s.accessFault 1 f 3 off)
  else s

/-! ## Register writes (13 R390–R396) -/

/-- A write of SLICE_LAYER[n] (07 R219), and whether a field of it was refused. -/
def State.writeLayer (s : State) (n : Nat) (v : Word) : State × Bool :=
  let o := Reg.sliceLayer n
  let w := s.reg o
  let run : Bool := match s.partOfCore n with
    | some p => s.partIn p [.running]
    | none => false
  let badInj := bits v 26 1 = 1 ∧ run
  let mark := bits v 31 1 = 1 ∧ bits v 27 4 ≤ 9
  let was := bits w 31 1 == 1
  let w := setBits (setBits w 31 1 (if mark then 1 else 0)) 27 4 (bits v 27 4)
  let w := if badInj then w else setBits w 26 1 (bits v 26 1)
  let w := setBits w 22 4 (bits v 22 4)
  let w := w &&& ~~~(v &&& 0x000FFC00)
  let s := s.setReg o w
  -- MARK_VALID going from 1 to 0 ends the layer event
  let s := if mark ∨ !was then s else s.setSlice n { s.slice n with seen := 0 }
  (s, decide (badInj ∨ bits v 0 4 ≠ 0))

/-- A write of CLK_PART[p] (18 R556), and whether it was refused. -/
def State.writeClk (s : State) (p : Nat) (v : Word) : State × Bool :=
  let o := Reg.clkPart p
  let ro := bits v 31 1 = 1
  if bits v 0 2 = bits (s.reg o) 0 2 then (s, ro)
  else if s.partIn p [.running, .paused] ∨ bits (s.reg o) 31 1 = 1 then (s, true)
  else ((s.setField o 0 2 (bits v 0 2)).setField o 31 1 1, ro)

/-- A lane map record as staged (16 R488, R490). -/
def State.stagedMap (s : State) : Bytes :=
  let b := leBytes 4 0x504D4E4C ++ leBytes 1 1 ++ leBytes 1 (bits (s.reg Reg.laneMapCtrl) 8 2) ++ leBytes 2 0 ++
    (List.range 20).map (fun q => (s.reg (Reg.laneStage q)).setWidth 8) ++ List.replicate 32 0
  b ++ leBytes 4 (crc32 b)

/-- A lane map record is valid (16 R489). -/
def laneMapOk (b : Bytes) : Bool :=
  let roles := (b.drop 8).take 20
  let mode := leVal ((b.drop 5).take 1)
  let role (i : Nat) : Nat := (roles.getD i 0).toNat % 4
  decide (b.length = 64) && leVal (b.take 4) == 0x504D4E4C && leVal ((b.drop 4).take 1) == 1 && leVal ((b.drop 6).take 2) == 0 &&
  ((b.drop 28).take 32).all (· == 0) && leVal (b.drop 60) == crc32 (b.take 60) &&
  roles.all (fun x => x.toNat % 4 != 3 && x.toNat / 4 % 4 != 3 && decide (x.toNat < 64)) &&
  (List.range 20).all (fun i => decide (i < 4) || role i != 1) &&
  (((List.range 4).all (fun i => role i == 1) && (mode == 1 || mode == 2)) || ((List.range 4).all (fun i => role i != 1) && mode == 0))

/-- COMMIT = 1 (16 R490): the staged map is checked; a valid one is written from now on. -/
def State.commitMap (s : State) : State :=
  if s.loupe.mapBusy then s
  else if laneMapOk s.stagedMap then { s with loupe := { s.loupe with mapBusy := true, mapRec := s.stagedMap } }
  else s.setField Reg.laneMapCtrl 0 8 St.badArgument

/-- The offset of a flash record: chip and byte offset. -/
def flashAt (chip off : Nat) : Nat := chip * 2 ^ 32 + off
def State.flashRec (s : State) (chip off : Nat) : Bytes := SMap.get [] s.flash (flashAt chip off)
def State.putFlash (s : State) (chip off : Nat) (b : Bytes) : State := { s with flash := SMap.put s.flash (flashAt chip off) b }

/-- A record is written to chip 0 and read back, then to chip 1 (16 R490); a chip whose readback differs holds bytes that the
spec does not give. -/
def State.putBoth (s : State) (off : Nat) (b : Bytes) (ok0 ok1 : Bool) : State :=
  let junk (s : State) (c : Nat) : State :=
    let r := s.free (8 * b.length)
    r.2.putFlash c off (leBytes b.length r.1.toNat)
  if !ok0 then junk s 0 else
  let s := s.putFlash 0 off b
  if !ok1 then junk s 1 else s.putFlash 1 off b

/-- LANE_MAP_COMMIT: LANE_MAP_CTRL written with COMMIT = 1. -/
def execLaneMapCommit (f : FuncId) (mode : Fin 4) (s : State) : Host.Outcome State Fault Refusal :=
  .next (if s.funcUp f then ((s.countRx f 4).setField Reg.laneMapCtrl 8 2 mode).commitMap else s)

/-- LANE_MAP_COMMIT_DONE (16 R490): whether the readback of each chip agreed. -/
def execLaneMapCommitDone (ok0 ok1 : Bool) (s : State) : Host.Outcome State Fault Refusal :=
  if ¬ s.loupe.mapBusy then .next s else
  let s := s.putBoth 0x1000 s.loupe.mapRec ok0 ok1
  let s := s.setField Reg.laneMapCtrl 0 8 (if ok0 && ok1 then St.ok else St.uncorrectable)
  .next { s with loupe := { s.loupe with mapBusy := false, mapRec := [] } }

/-- The bits written by access type (00 R10), and whether a read-only bit was written with 1. -/
def State.writePlain (s : State) (off : Nat) (i : RegInfo) (v : Word) : State × Bool :=
  let w := s.reg off
  let w := ((w &&& ~~~i.rw) ||| (v &&& i.rw)) &&& ~~~(v &&& i.w1c)
  (s.setReg off w, (v &&& (i.ro ||| i.rc)) != 0)

/-- Unmasking an MSI-X vector sends what its pending bit holds (13 R408). -/
def State.unmask (s : State) (off : Nat) : State :=
  let f := (off - 0x0020000) / 0x4000
  let v := (off - 0x0020000) % 0x4000 / 16
  if off % 16 = 12 ∧ bits (s.reg off) 0 1 = 0 ∧ bits (s.reg (Reg.msixPba f (v / 32))) (v % 32) 1 = 1 then
    (s.setField (Reg.msixPba f (v / 32)) (v % 32) 1 0).msix f v
  else s

/-- One 32-bit write to the register window on behalf of the operator through function f, and whether any of it was refused because a
field is read-only or the write is not accepted there (13 R396). Ring registers log their own faults. -/
def State.writeReg (s : State) (f off : Nat) (v : Word) : State × Bool :=
  if isCnt off then (s, v != 0)
  else match regInfo off with
  | none => (s, false)
  | some i =>
    if 0x0030000 ≤ off ∧ off < 0x0030000 + 32 * 65 ∧ off % 32 < 16 then (s.writeRingBase f ((off - 0x0030000) / 32) off v, false)
    else if 0x0030000 ≤ off ∧ off < 0x0030000 + 32 * 65 ∧ off % 32 = 16 then (s.writeRingCtrl f ((off - 0x0030000) / 32) v, false)
    else if 0x0280000 ≤ off ∧ off < 0x02A0000 ∧ off % 8 = 4 then s.writeLayer ((off - 0x0280000) / 8) v
    else if off = Reg.laneMapCtrl then
      let s' := s.setField off 8 2 (bits v 8 2)
      (if bits v 31 1 = 1 then s'.commitMap else s', (v &&& i.ro) != 0)
    else if off = Reg.errInfo then
      (if bits v 31 1 = 1 then (s.setField off 31 1 0).setField off 0 16 0 else s, (v &&& i.ro) != 0)
    else if off = Reg.irisCtrl then
      -- 18 R578: a field outside its range is discarded
      let tOk := 70 ≤ bits v 24 8 ∧ bits v 24 8 ≤ 90
      let fOk := 20 ≤ bits v 16 8 ∧ bits v 16 8 ≤ 80
      let s := if tOk then s.setField off 24 8 (bits v 24 8) else s
      let s := if fOk then s.setField off 16 8 (bits v 16 8) else s
      (s, (v &&& i.ro) != 0 || !decide tOk || !decide fOk)
    else if off = Reg.fabEtype then
      if (List.range 20).all (fun q => (s.port q).state == .disabled || (s.port q).state == .notFabric) then s.writePlain off i v
      else (s, true)
    else match regIndex off (Reg.clkPart 0) 4 64 with
    | some p => s.writeClk p v
    | none => match regIndex off (Reg.fabVlan 0) 32 20 with
      | some q => if (s.port q).state = .disabled then s.writePlain off i v else (s, true)
      | none =>
        let r := s.writePlain off i v
        (if 0x0020000 ≤ off ∧ off < 0x0028000 then r.1.unmask off else r.1, r.2)

/-- The same with the access fault logged. -/
def State.writeLogged (s : State) (f off : Nat) (v : Word) : State :=
  let r := s.writeReg f off v
  if r.2 then r.1.accessFault 0 f 3 off else r.1

/-! ## TLPs to BAR 0 and BAR 2 (13 R390–R394). A TLP lies in one 64-byte line; `en` marks its enabled bytes. -/

/-- The registers of a line that a mask touches, and whether every byte of register i is enabled. -/
def touched (en : BitVec 64) : List Nat := (List.range 16).filter (fun i => en.extractLsb' (4 * i) 4 != 0)
def wholeReg (en : BitVec 64) (i : Nat) : Bool := en.extractLsb' (4 * i) 4 == 15

/-- The bytes of the enabled positions of a word. -/
def enabledBytes (en : BitVec 64) (i : Nat) (w : Word) : Bytes :=
  (List.range 4).filterMap (fun j => if en.getLsbD (4 * i + j) then some (w.extractLsb' (8 * j) 8) else none)

/-- Registers of a TLP read in ascending order; those read in part have no side effect (13 R391). -/
def State.readTlp (s : State) (f : Nat) (db : Bool) (base : Nat) (en : BitVec 64) : List Nat → Bytes × State
  | [] => ([], s)
  | i :: is =>
    let r : Word × State :=
      if db then (s.doorbellRead f (base + 4 * i), s)
      else if wholeReg en i then s.readFull f (base + 4 * i) else (s.view (base + 4 * i), s)
    let t := State.readTlp r.2 f db base en is
    (enabledBytes en i r.1 ++ t.1, t.2)

/-- REGISTER_READ_CLEAR (13 R391): a read TLP of function f in the register window, or in the doorbell window, of the enabled bytes
of a line. -/
def execRegisterReadClear (f : FuncId) (db : Bool) (line : BitVec 20) (en : BitVec 64) (s : State) : Host.Outcome State Fault Refusal :=
  if ¬ s.funcUp f ∨ (db ∧ 0x4000 ≤ line.toNat) then .next s else
  let r := s.readTlp f db (64 * line.toNat) en (touched en)
  .next ((r.2.countTx f (4 * (touched en).length)).send (.completion f r.1 0))

/-- REGISTER_WRITE (13 R390–R396): a write TLP of function f. -/
def execRegisterWrite (f : FuncId) (db : Bool) (line : BitVec 20) (en : BitVec 64) (data : BitVec 512) (s : State) :
    Host.Outcome State Fault Refusal :=
  if ¬ s.funcUp f ∨ (db ∧ 0x4000 ≤ line.toNat) then .next s else
  let base := 64 * line.toNat
  let is := touched en
  match is with
  | [] => .next s
  | i0 :: _ =>
    let s := s.countRx f (4 * is.length)
    let last := is.getLast?.getD i0
    let first := ((List.range 64).find? (fun j => en.getLsbD j)).getD 0
    let span := last - i0 + 1
    let win := if db then 1 else 0
    if is.any (fun i => !wholeReg en i) then .next (s.accessFault win f 1 (base + first))
    else if span > 2 ∨ (span = 2 ∧ i0 % 2 = 1) then .next (s.accessFault win f 2 (base + first))
    else .next (is.foldl (fun s i =>
      let v : Word := data.extractLsb' (32 * i) 32
      if db then s.doorbellWrite f (base + 4 * i) v else s.writeLogged f (base + 4 * i) v) s)

/-- SLICE_LAYER_WRITE (07 R219): SLICE_LAYER[n] written by the operator. -/
def execSliceLayerWrite (f : FuncId) (n : CoreId) (v : Word) (s : State) : Host.Outcome State Fault Refusal :=
  if ¬ s.funcUp f then .next s else
  let r := (s.countRx f 4).writeLayer n v
  .next (if r.2 then r.1.accessFault 0 f 3 (Reg.sliceLayer n) else r.1)

/-- CLK_PART_WRITE (18 R556): CLK_PART[p] written by the operator. -/
def execClkPartWrite (f : FuncId) (p : PartId) (v : Word) (s : State) : Host.Outcome State Fault Refusal :=
  if ¬ s.funcUp f then .next s else
  let r := (s.countRx f 4).writeClk p v
  .next (if r.2 then r.1.accessFault 0 f 3 (Reg.clkPart p) else r.1)

/-! ## Links of the functions (13 R387, 17 R521, 21 R631) -/

/-- Configuration space of function f, by the offset of a dword (13 R385, R386): its read-only bits, and those that a write sets. The identity
and the BARs' sizes and kinds are the spec's; the places are those of PCI Express 6.0, and where the capabilities lie is the model's (PRESUMED,
log 96): Power Management 0x40, MSI-X 0x50, PCI Express 0x70, AER 0x100, Device Serial Number 0x150, Data Object Exchange 0x160, Flit
Logging 0x180. Of other registers the spec gives nothing. -/
def State.configWord (s : State) (f off : Nat) : Option (Word × Word) :=
  if off = 0 then some (0x0C021FA5, 0)
  else if off = 0x04 then some (0x00100000, 0x6)
  else if off = 0x08 then some (0x120000A1, 0)
  else if off = 0x0C then some (0, 0)
  else if off = 0x10 then some (0x4, 0xFC000000)
  else if off = 0x18 then some (0x4, 0xFFF00000)
  else if off = 0x14 ∨ off = 0x1C then some (0, 0xFFFFFFFF)
  else if off = 0x20 then some (0xC, 0)
  else if off = 0x24 then some (0, 0xFFFFFFF0)
  else if off = 0x2C then some (0x00011FA5, 0)
  else if off = 0x34 then some (0x40, 0)
  else if off = 0x40 then some (0x00035001, 0)
  else if off = 0x44 then some (0, 0x3)
  else if off = 0x50 then some (0x03FF7011, 0xC0000000)
  else if off = 0x54 then some (BitVec.ofNat 32 (0x20000 + 0x4000 * f), 0)
  else if off = 0x58 then some (BitVec.ofNat 32 (0x28000 + 0x100 * f), 0)
  else if off = 0x70 then some (0x00020010, 0)
  else if off = 0x78 then some (0, 0x70E0)
  else if off = 0x100 then some (0x15020001, 0)
  else if off = 0x108 ∨ off = 0x10C ∨ off = 0x114 then some (0, 0xFFFFFFFF)
  else if off = 0x150 then some (0x16010003, 0)
  else if off = 0x154 then some (BitVec.ofNat 32 s.loupe.serial, 0)
  else if off = 0x158 then some (BitVec.ofNat 32 (s.loupe.serial / 2 ^ 32), 0)
  else if off = 0x160 then some (0x1801002E, 0)
  else if off = 0x180 then some (0x00010032, 0)
  else none

/-- What a register of configuration space holds of what was written to it. -/
def State.cfgHeld (s : State) (f off : Nat) : Word :=
  (SMap.find s.pciCfg (1024 * f + off / 4)).getD (if off = 0x78 then 0x2000 else 0)

/-- A value that a register takes (13 R385): only D0 and D3hot, a Max Payload Size up to 512 bytes, a Max Read Request Size up to 4,096. -/
def cfgTakes (off : Nat) (old v : Word) : Word :=
  if off = 0x44 ∧ (bits v 0 2 = 1 ∨ bits v 0 2 = 2) then old
  else if off = 0x78 then
    let v := if 2 < bits v 5 3 then setBits v 5 3 (bits old 5 3) else v
    if 5 < bits v 12 3 then setBits v 12 3 (bits old 12 3) else v
  else v

/-- Enabling MSI-X or clearing its Function Mask sends what the pending bits of vectors hold that are not masked (13 R408). -/
def State.msixRelease (s : State) (f : Nat) : State :=
  (List.range 1024).foldl (fun s v =>
    if bits (s.reg (Reg.msixPba f (v / 32))) (v % 32) 1 = 1 ∧ bits (s.reg (Reg.msixTable f v 3)) 0 1 = 0 ∧ bits (s.msixCtrl f) 30 2 = 2 then
      (s.setField (Reg.msixPba f (v / 32)) (v % 32) 1 0).msix f v
    else s) s

/-- A write of a dword of configuration space. -/
def State.configWrite (s : State) (f off : Nat) (v : Word) : State :=
  match s.configWord f off with
  | some (_, m) =>
    let s := { s with pciCfg := SMap.put s.pciCfg (1024 * f + off / 4) (cfgTakes off (s.cfgHeld f off) v &&& m) }
    if off = 0x50 then s.msixRelease f else s
  | none => s

/-- The hub die whose Loupe starts as the active one (01 R24): 0 the die wired to Q0–Q9, 1 the one wired to Q10–Q19. -/
def State.strapActive (s : State) : Nat :=
  let a := SMap.find s.loupe.strap 8
  let b := SMap.find s.loupe.strap 9
  let lower := if SMap.get 0 s.loupe.dieSerial 9 < SMap.get 0 s.loupe.dieSerial 8 then 1 else 0
  if a = b then lower
  else if a = some 8 then 0 else if b = some 8 then 1
  else if a = some 9 then 0 else if b = some 9 then 1
  else lower

/-- A function's link may train: both functions' lie on Q0–Q3 (13 R385), and with the active Loupe on the die wired to Q10–Q19 no host link
there trains (01 R24). -/
def State.linkMay (s : State) : Bool := s.strapActive == 0

/-- CONFIG_REQUEST (13 R387): function f gets Request Retry Status (2) before MGMT_READY; afterwards a read is answered, with free
values outside the registers that the spec gives, and a write (`write` is its dword) sets what may be written (13 R385, R386). That a request
arrives says that the link is up. -/
def execConfigRequest (f : FuncId) (off : Fin 4096) (write : Option Word) (s : State) : Host.Outcome State Fault Refusal :=
  if s.dev = .cold then .next (s.send (.completion f [] 2))
  else if ¬ s.funcExists f ∨ ¬ SMap.get false s.loupe.perst f ∨ ¬ s.linkMay then .next s
  else
    let s := { s with loupe := { s.loupe with linkUp := SMap.set false s.loupe.linkUp f true } }
    let o := off.val / 4 * 4
    match write, s.configWord f o with
    | some v, _ => .next ((s.configWrite f o v).send (.completion f [] 0))
    | none, some w => .next (s.send (.completion f (leBytes 4 (w.1 ||| s.cfgHeld f o).toNat) 0))
    | none, none =>
      let r := s.free 32
      .next (r.2.send (.completion f (leBytes 4 r.1.toNat) 0))

/-- PERST_ASSERT (21 R631): PERST#[f] has been low for 1 µs after MGMT_READY. -/
def execPerstAssert (f : FuncId) (s : State) : Host.Outcome State Fault Refusal :=
  let low (s : State) : State := { s with loupe := { s.loupe with perst := SMap.set false s.loupe.perst f false } }
  if s.dev = .cold ∨ ¬ s.funcExists f then .next (low s) else
  let regs := [Reg.aptCtrl f, Reg.aptBaseLo f, Reg.aptBaseHi f, Reg.eventVec f]
  let s := { s with regs := (SMap.clear (SMap.clear s.regs (Reg.msixTable f 0 0) (Reg.msixTable f 0 0 + 0x4000)) (Reg.msixPba f 0) (Reg.msixPba f 64)) }
  let s := regs.foldl (fun s o => s.setReg o (regReset o)) s
  let s := (List.range 65).foldl (fun s r =>
    if s.ringFunc r = f.val ∧ ((s.ring r).state = .active ∨ (s.ring r).state = .error) then s.drainRing r else s) s
  let s := { s with pciCfg := SMap.clear s.pciCfg (1024 * f) (1024 * f + 1024) }
  .next (low { s with loupe := { s.loupe with linkUp := SMap.set false s.loupe.linkUp f false } })

/-- PERST_RELEASE (21 R631): function f's link trains and it answers. -/
def execPerstRelease (f : FuncId) (s : State) : Host.Outcome State Fault Refusal :=
  let s := { s with loupe := { s.loupe with perst := SMap.set false s.loupe.perst f true } }
  if s.dev = .cold ∨ ¬ s.funcExists f ∨ ¬ s.linkMay then .next s
  else .next { s with loupe := { s.loupe with linkUp := SMap.set false s.loupe.linkUp f true } }

/-- PCIE_LINK_DOWN (17 R521): an error that the link of function f cannot correct takes it down. -/
def execPcieLinkDown (f : FuncId) (s : State) : Host.Outcome State Fault Refusal :=
  .next { s with loupe := { s.loupe with linkUp := SMap.set false s.loupe.linkUp f false } }

/-! ## The memory aperture (13 R416–R418) -/

/-- The pieces of a range of the aperture by granule: device address, offset in the access, length; none when any is refused. -/
def State.aptPieces (s : State) (f off n : Nat) (wr : Bool) : Option (List (Nat × Nat × Nat)) :=
  let base := bits (s.reg (Reg.aptBaseLo f)) 16 16 * 2 ^ 16 + bits (s.reg (Reg.aptBaseHi f)) 0 16 * 2 ^ 32
  ((List.range ((off % 64 + n + 63) / 64)).foldl (fun (acc : Option (List (Nat × Nat × Nat))) i =>
    let lo := if i = 0 then off else off / 64 * 64 + 64 * i
    let hi := min (off + n) (off / 64 * 64 + 64 * (i + 1))
    match acc, s.aptTarget f ((base + lo) % 2 ^ 48) (if wr then .write else .read) with
    | some l, some d => some ((d, lo - off, hi - lo) :: l)
    | _, _ => none) (some [])).map List.reverse

/-- Bytes in PARTITION mode (20 R603). -/
def State.countApt (s : State) (f i n : Nat) : State :=
  match s.aptPart f with
  | some p => s.tally (some p) 6 (Cnt.pciePart p i) n
  | none => s

/-- A consent-gated access has succeeded (15 R481, 20 R619). -/
def State.noteGated (s : State) (yes : Bool) : State :=
  if yes then { s with loupe := { s.loupe with debugWord := s.loupe.debugWord ||| 8 } } else s

/-- An access of function f's aperture that needs consent (15 R476): a read of a partition's memory in DEVICE mode, or an encrypted partition's in
PARTITION mode. -/
def State.aptGated (s : State) (f a : Nat) (wr : Bool) : Bool :=
  match s.aptPart f with
  | some p => (s.part p).encrypted
  | none => !wr && (if isHbm a then !s.inService a && (s.partOfChan (chanOfAddr a)).isSome else (s.partOfScratch a).isSome)

/-- APERTURE_READ (13 R416–R418): n bytes at an offset. Statuses of completions: 0 successful, 1 successful with EP, 4 Completer
Abort. -/
def execApertureRead (f : FuncId) (off : BitVec 36) (n : Fin 4097) (s : State) : Host.Outcome State Fault Refusal :=
  if ¬ s.funcUp f ∨ n.val = 0 then .next s
  else if s.aptShut f then .next ((s.hostEvent 0).send (.completion f [] 4))
  else match s.aptPieces f off.toNat n false with
  | none => .next (((s.accessFault 2 f 7 off.toNat).hostEvent 0).send (.completion f [] 4))
  | some ps =>
    let p := s.aptPart f
    let s := s.noteGated (ps.any (fun d => s.aptGated f d.1 false))
    .next (ps.foldl (fun s d =>
      let r := s.ccRead p d.1 d.2.2
      let s := (r.2.2.countTx f d.2.2).countApt f 0 d.2.2
      let s := if r.2.1 = 0 then s else s.hostEvent 0
      s.send (.completion f r.1 (if r.2.1 = 0 then 0 else 1))) s)

/-- APERTURE_WRITE (13 R416–R418): a posted write, with poison when its TLP carries EP. -/
def execApertureWrite (f : FuncId) (off : BitVec 36) (data : List Byte) (ep : Bool) (s : State) : Host.Outcome State Fault Refusal :=
  if ¬ s.funcUp f ∨ data.isEmpty then .next s else
  let s := s.countRx f data.length
  if s.aptShut f then .next (s.hostEvent 0)
  else match s.aptPieces f off.toNat data.length true with
  | none => .next ((s.accessFault 2 f 7 off.toNat).hostEvent 0)
  | some ps =>
    let p := s.aptPart f
    let s := s.noteGated (ps.any (fun d => s.aptGated f d.1 true))
    let s := ps.foldl (fun s d => (s.ccWrite p d.1 ((data.drop d.2.1).take d.2.2) ep).countApt f 1 d.2.2) s
    .next (if ep then s.hostEvent 0 else s)

end Sys2Proof.Machine
end

