-- ==== Sys2Proof/Machine/Cmd.lean ====
section
/-! DEFINITION. The command service: fetching, the order of checks, holds, completions, and the simple commands (13 R404–R413,
14 R419–R432, 00 R4, R13, R14, 15 R454–R457). -/

namespace Sys2Proof.Machine

/-! ## Entries (13 R405, 14 R429, R430) -/

/-- n bytes of an entry from byte o. -/
def ef (e : BitVec 512) (o n : Nat) : Nat := fieldOf e.toNat o n

namespace Op
def identify : Nat := 0x01
def release : Nat := 0x02
def reg : Nat := 0x03
def create : Nat := 0x10
def destroy : Nat := 0x11
def facetLoad : Nat := 0x12
def facetActivate : Nat := 0x13
def cloveLoad : Nat := 0x14
def run : Nat := 0x18
def stop : Nat := 0x19
def resume : Nat := 0x1A
def replay : Nat := 0x1B
def seq : Nat := 0x1C
def keyInstall : Nat := 0x20
def keyRetire : Nat := 0x21
def consent : Nat := 0x22
def licence : Nat := 0x23
def amend : Nat := 0x24
def scrub : Nat := 0x28
def selfTest : Nat := 0x29
def spare : Nat := 0x2A
def calibrate : Nat := 0x2B
def cntConfig : Nat := 0x30
def cntRead : Nat := 0x31
def traceConfig : Nat := 0x32
def traceRead : Nat := 0x33
def powerCap : Nat := 0x38
def thermal : Nat := 0x39
def linkStatus : Nat := 0x3A
def port : Nat := 0x3B
end Op

/-- The argument bytes that a command names, as (offset, length, reserved bits); none for an undefined opcode (14 R430–R448). -/
def opFields (op : Nat) : Option (List (Nat × Nat × Nat)) :=
  if op = Op.identify ∨ op = Op.create ∨ op = Op.destroy ∨ op = Op.resume then some [(8, 1, 0)]
  else if op = Op.release then some [(8, 1, 0xF0), (12, 4, 0)]
  else if op = Op.reg then some [(8, 1, 0), (9, 1, 0), (12, 4, 0), (16, 4, 0)]
  else if op = Op.facetLoad then some [(8, 1, 0x40), (16, 8, 0), (24, 4, 0)]
  else if op = Op.facetActivate then some [(8, 1, 0x40)]
  else if op = Op.cloveLoad then some [(8, 4, 0), (12, 4, 0), (16, 8, 0), (24, 4, 0), (28, 4, 0), (32, 8, 0), (40, 4, 0)]
  else if op = Op.run then some [(8, 1, 0), (9, 1, 0xFE), (16, 8, 0), (24, 8, 0)]
  else if op = Op.stop ∨ op = Op.replay then
    some [(8, 1, 0), (9, 1, 0), (10, 1, 0xFC), (16, 8, 0), (24, 8, 0), (32, 8, 0)]
  else if op = Op.seq then
    some [(8, 3, 0), (12, 4, 0), (16, 4, 0), (20, 4, 0), (24, 4, 0), (28, 4, 0), (32, 8, 0), (40, 4, 0), (48, 8, 0)]
  else if op = Op.keyInstall then some [(8, 3, 0), (16, 8, 0), (24, 4, 0), (32, 2, 0)]
  else if op = Op.keyRetire then some [(8, 2, 0)]
  else if op = Op.consent then some [(8, 1, 0), (12, 4, 0xFFFFFFE0)]
  else if op = Op.licence then some [(16, 8, 0), (24, 4, 0)]
  else if op = Op.amend then some [(8, 1, 0), (16, 8, 0), (24, 4, 0)]
  else if op = Op.scrub then some [(8, 2, 0), (16, 8, 0), (24, 8, 0)]
  else if op = Op.selfTest then some [(8, 1, 0), (9, 1, 0xF0)]
  else if op = Op.spare then some [(8, 1, 0), (12, 6, 0)]
  else if op = Op.calibrate then some [(8, 2, 0)]
  else if op = Op.cntConfig then some [(8, 1, 0), (9, 1, 0xFC), (12, 4, 0xFFFFFF80)]
  else if op = Op.cntRead then some [(8, 1, 0), (9, 1, 0xFE), (12, 4, 0xFFFFFF80), (16, 8, 0), (24, 4, 0)]
  else if op = Op.traceConfig then some [(8, 1, 0), (9, 1, 0xFC), (12, 4, 0xFFFFFFF8), (16, 8, 0), (24, 4, 0)]
  else if op = Op.traceRead then some [(8, 1, 0), (12, 4, 0xFFFFFFF8), (16, 8, 0), (24, 4, 0)]
  else if op = Op.powerCap then some [(8, 2, 0)]
  else if op = Op.thermal then some []
  else if op = Op.linkStatus then some [(8, 1, 0)]
  else if op = Op.port then some [(8, 2, 0)]
  else none

/-- Reserved bits and bytes of an entry's arguments are 0. -/
def argsClean (e : BitVec 512) (fs : List (Nat × Nat × Nat)) : Bool :=
  fs.all (fun f => ef e f.1 f.2.1 &&& f.2.2 == 0) &&
  (List.range 56).all (fun i => fs.any (fun f => decide (f.1 ≤ 8 + i) && decide (8 + i < f.1 + f.2.1)) || ef e (8 + i) 1 == 0)

/-- The caller: none is the operator, else the partition whose tenant it is (14 R421). -/
def Via.caller : Via → Option Nat
  | .ring 0 => none
  | .ring (p + 1) => some p
  | _ => none

/-- Commands that a tenant may not give; one that only a tenant may give is DEBUG_CONSENT (14 R429). -/
def operatorOnly (op : Nat) : Bool :=
  [Op.create, Op.destroy, Op.licence, Op.amend, Op.spare, Op.calibrate, Op.powerCap, Op.linkStatus, Op.port].contains op

/-- Queries (14 R429). -/
def isQuery (op : Nat) (e : BitVec 512) : Bool :=
  [Op.identify, Op.cntRead, Op.traceRead, Op.thermal, Op.linkStatus].contains op || (op == Op.reg && ef e 8 1 == 0)

/-- Commands whose byte 8 names a partition. -/
def namesPart (op : Nat) (e : BitVec 512) : Bool :=
  [Op.create, Op.destroy, Op.cloveLoad, Op.run, Op.stop, Op.resume, Op.replay, Op.keyInstall, Op.keyRetire, Op.scrub, Op.selfTest,
    Op.traceConfig, Op.traceRead].contains op ||
  ((op == Op.cntConfig || op == Op.cntRead) && ef e 9 1 % 2 == 0) || (op == Op.identify && ef e 8 1 != 0xFF)

def isFacet (op : Nat) : Bool := op == Op.facetLoad || op == Op.facetActivate

/-- The partition that a command acts on (14 R422): a tenant's own, or the one that the operator names. -/
def cmdPart (via : Via) (op : Nat) (e : BitVec 512) : Option Nat :=
  match via.caller with
  | some p => some p
  | none => if isFacet op then (if ef e 8 1 ≥ 128 then none else some (ef e 8 1 % 64))
    else if namesPart op e ∨ op = Op.consent then some (ef e 8 1) else none

/-! ## Checks (14 R425–R427) -/

/-- The status that the device's state gives a command, if it does not accept it (14 R427). -/
def State.devCheck (s : State) (op : Nat) (e : BitVec 512) : Option Nat :=
  let mgmt := [Op.identify, Op.release, Op.reg, Op.thermal, Op.powerCap, Op.licence, Op.cntConfig, Op.cntRead, Op.calibrate].contains op ||
    (op == Op.amend && ef e 8 1 == 0)
  let quiet := op == Op.identify || op == Op.thermal
  match s.dev with
  | .mgmtReady => if mgmt then none else some St.busy
  | .hold => if quiet then none else some St.deviceHold
  | .shutdown => if quiet || op == Op.release then none else some St.busy
  | _ => none

/-- The licence that a command needs and is not installed (00 R4, 09 R278, 15 R461). -/
def State.needs (s : State) (op : Nat) (e : BitVec 512) : Option Nat :=
  if op = Op.keyInstall ∧ ¬ s.licence 2 then some St.licenceMissing
  else if op = Op.cloveLoad ∧ ef e 11 1 = 1 ∧ ¬ s.licence 3 then some St.licenceMissing
  else none

/-- Caller and form: the operator's status of the first failure (14 R426 step 3). -/
def State.formCheck (s : State) (via : Via) (op : Nat) (e : BitVec 512) : Option Nat :=
  match opFields op with
  | none => some St.badArgument
  | some fs =>
    let mctpOk := [Op.identify, Op.thermal, Op.powerCap, Op.linkStatus, Op.cntRead, Op.licence, Op.amend, Op.calibrate].contains op
    if ef e 4 4 ≠ 0 ∨ (via ≠ .mctp ∧ ef e 1 1 &&& 0x70 ≠ 0) ∨ ¬ argsClean e fs ∨ (via = .mctp ∧ ¬ mctpOk) ∨
        (op = Op.release ∧ ef e 1 1 ≥ 128) then some St.badArgument
    else match via.caller with
    | some p =>
      if operatorOnly op ∨ (isFacet op ∧ ef e 8 1 ≥ 128) ∨ ((op = Op.cntConfig ∨ op = Op.cntRead) ∧ ef e 9 1 % 2 = 1) ∨
          ¬ (s.rec_ p).valid ∨ s.partIn p [.empty, .retiring] then some St.badArgument
      else s.needs op e
    | none =>
      if op = Op.consent then some St.badArgument else s.needs op e

/-- An operator's PART is a partition whose record is VALID (14 R422). -/
def State.partNamed (s : State) (via : Via) (op : Nat) (e : BitVec 512) : Bool :=
  match via.caller, cmdPart via op e with
  | none, some p => decide (p < 64) && (s.rec_ p).valid
  | _, _ => true

/-- Targets as numbers: D, P, R, S, G, C, K, L, Q (14 R425). -/
def Hold.d : Nat := 0
def Hold.p (p : Nat) : Nat := 0x1000 + p
def Hold.r (p : Nat) : Nat := 0x2000 + p
def Hold.s (p : Nat) : Nat := 0x3000 + p
def Hold.g (t : Option Nat) : Nat := 0x4000 + (match t with | some p => p | none => 64)
def Hold.c (c : Nat) : Nat := 0x10000 + c
def Hold.k (k : Nat) : Nat := 0x20000 + k
def Hold.l (q : Nat) : Nat := 0x30000 + q
def Hold.q (q : Nat) : Nat := 0x100000000 + q

/-- What a command holds. -/
def cmdHolds (via : Via) (op : Nat) (e : BitVec 512) : List Nat :=
  let p := (cmdPart via op e).getD 0
  if [Op.create, Op.licence, Op.amend, Op.spare, Op.calibrate].contains op then [Hold.d]
  else if op = Op.destroy then [Hold.d, Hold.p p]
  else if op = Op.facetLoad then [Hold.g (cmdPart via op e)]
  else if op = Op.facetActivate then Hold.g (cmdPart via op e) :: (match cmdPart via op e with | some p => [Hold.p p] | none => [Hold.d])
  else if op = Op.cloveLoad then [Hold.c (32 * ef e 9 1 + ef e 10 1)]
  else if [Op.run, Op.resume, Op.replay].contains op then [Hold.r p]
  else if op = Op.stop then [Hold.s p]
  else if op = Op.seq then (if ef e 8 1 = 2 then [Hold.q (ef e 12 4), Hold.q (ef e 16 4)] else [Hold.q (ef e 12 4)])
  else if op = Op.keyInstall ∨ op = Op.keyRetire then [Hold.k (ef e 9 1)]
  else if [Op.consent, Op.scrub, Op.selfTest].contains op then [Hold.p p]
  else if op = Op.port then [Hold.l (ef e 8 1)]
  else []

/-- The partition whose range holds a sequence number (10 R288). -/
def State.partOfSeq (s : State) (q : Nat) : Option Nat := s.ownerBy (fun r => decide (r.seqBase ≤ q) && decide (q < r.seqBase + r.seqCount))

/-- What a command may hold: a tenant's holds no key slot, Clove core or sequence of another (00 R13, 14 R425). -/
def State.holdsOf (s : State) (via : Via) (op : Nat) (e : BitVec 512) : List Nat :=
  match via.caller with
  | none => cmdHolds via op e
  | some p => (cmdHolds via op e).filter (fun h =>
      if 0x100000000 ≤ h then s.partOfSeq (h - 0x100000000) == some p
      else if 0x20000 ≤ h ∧ h < 0x30000 then bitOf (s.rec_ p).keyslots (h - 0x20000)
      else if 0x10000 ≤ h ∧ h < 0x20000 then s.partOfChan (h - 0x10000) == some p
      else true)

def State.isHeld (s : State) (h : Nat) : Bool := s.loupe.inflight.any (fun c => c.holds.contains h)

/-- A STEP_BOUNDARY stop of the partition is in flight (14 R437). -/
def State.boundaryStop (s : State) (p : Nat) : Bool :=
  s.loupe.inflight.any (fun c => c.opcode == Op.stop && c.holds.contains (Hold.s p) && c.result.isNone && ef c.entry 9 1 == 0)

/-- A PARTITION_DESTROY of the partition runs, and every command that names it completes with BUSY (14 R444); or a FACET_ACTIVATE does, and
every other command on it, which a query is not, completes with BUSY (12 R377). -/
def State.partLocked (s : State) (p : Nat) (query : Bool) : Bool :=
  s.loupe.inflight.any (fun c => (c.opcode == Op.destroy || (c.opcode == Op.facetActivate && !query)) && c.holds.contains (Hold.p p))

/-- A new operating point is taking effect (18 R556). -/
def State.changing (s : State) (p : Nat) : Bool := bits (s.reg (Reg.clkPart p)) 31 1 == 1

/-- The facet record of a rejection (12 R383). -/
def facetRecord (reason sect rec_ off : Nat) (digest weight id : Nat) : Bytes :=
  leBytes 2 reason ++ leBytes 2 sect ++ leBytes 4 rec_ ++ leBytes 8 off ++ beBytes 48 digest ++ beBytes 48 weight ++ leBytes 8 id ++ leBytes 8 0

/-- BUSY, with the facet record of reason STATE for the facet commands (12 R384). -/
def busyOf (op : Nat) : Result :=
  if isFacet op then ⟨St.busy, 0x50, facetRecord 0x50 0xFFFF 0xFFFFFFFF 0xFFFFFFFFFFFFFFFF 0 0 0⟩ else ⟨St.busy, 0, []⟩

/-- A refusal: the operator gets the status, any other caller REFUSED (00 R13). -/
def deny (via : Via) (status : Nat) : Result :=
  match via.caller with
  | some _ => ⟨St.refused, 0, []⟩
  | none => ⟨status, 0, []⟩

/-- The result of a check that a command fails at its fetch. A facet command carries a facet record: of reason STATE with BUSY, of zeros
for a tenant that is refused, else one that names no reason (12 R383, R384). -/
def checkResult (via : Via) (op status : Nat) : Result :=
  if !isFacet op then deny via status
  else if via.caller.isSome then ⟨St.refused, 0, List.replicate 128 0⟩
  else if status = St.busy then busyOf op
  else ⟨status, 0, facetRecord 0 0xFFFF 0xFFFFFFFF 0xFFFFFFFFFFFFFFFF 0 0 0⟩

/-- A selector that names no form of its command (14 R426 step 6). -/
def badSelector (op : Nat) (e : BitVec 512) : Bool :=
  (op == Op.reg && decide (1 < ef e 8 1)) || ((op == Op.stop || op == Op.replay) && decide (1 < ef e 9 1)) ||
  (op == Op.seq && (ef e 8 1 == 0 || decide (8 < ef e 8 1))) || (op == Op.keyInstall && decide (2 < ef e 10 1)) ||
  (op == Op.consent && decide (1 < ef e 8 1)) || (op == Op.amend && decide (1 < ef e 8 1)) ||
  (op == Op.scrub && decide (2 < ef e 9 1)) || (op == Op.spare && decide (4 < ef e 8 1)) || (op == Op.port && decide (3 < ef e 9 1))

/-- The partition is in a state that no form of the command accepts (14 R426 step 5). -/
def State.targetShut (s : State) (p op : Nat) (e : BitVec 512) : Bool :=
  if op = Op.run then !s.partIn p [.loaded]
  else if op = Op.resume then !s.partIn p [.paused, .stopped]
  else if op = Op.replay then !s.partIn p [.loaded, .stopped, .faulted]
  else if op = Op.stop then !s.partIn p [.running]
  else if op = Op.keyInstall then s.partIn p [.empty, .retiring] || (bitOf (s.rec_ p).keyslots (ef e 9 1) && (s.key (ef e 9 1)).state == .retiring)
  else if op = Op.scrub then s.partIn p [.empty, .retiring]
  else false

/-- The result that the checks up to the holds give (14 R426): none when the command goes on. Of the later
checks it makes those that must be made at the fetch: that the target is in a state for a run command (18 R556), an operator's PART, and the
selector that tells a command's forms apart, after the target's state. -/
def State.precheck (s : State) (via : Via) (op : Nat) (e : BitVec 512) (mboxBusy : Bool) : Option Result :=
  match s.devCheck op e with
  -- BUSY for the device's state does not reach a tenant (00 R13)
  | some st => some (if st = St.busy then checkResult via op st else { checkResult (.ring 0) op st with status := st })
  | none =>
    if mboxBusy then some (busyOf op)
    else match s.formCheck via op e with
    | some st => some (checkResult via op st)
    | none =>
      let p := cmdPart via op e
      let locked : Bool := match p with
        | some p => s.partLocked p (isQuery op e)
        | none => false
      let stop2 : Bool := op == Op.stop && ef e 9 1 == 1 && (match p with | some p => s.boundaryStop p | none => false)
      if locked ∨ (¬ stop2 ∧ (s.holdsOf via op e).any s.isHeld) then some (busyOf op)
      else if !s.partNamed via op e then some (checkResult via op St.badArgument)
      else
        let shut : Bool := match p with
          | some p => s.targetShut p op e || ([Op.run, Op.resume, Op.replay].contains op && s.changing p)
          | none => false
        if badSelector op e then some (checkResult (.ring 0) op (if shut then St.busy else St.badArgument))
        else if shut ∧ [Op.run, Op.resume, Op.replay].contains op then some (busyOf op)
        else none

/-- A fetched entry becomes a command in flight (14 R425, R426, 13 R409). -/
def State.takeIn (s : State) (via : Via) (e : BitVec 512) : State :=
  let op := ef e 0 1
  let use := decide (128 ≤ ef e 1 1) && via != .mctp
  let m := ef e 1 1 % 16
  let ring := match via with | .ring r => r | _ => 0
  let free := ((s.ring ring).mbox m).state == MState.free
  let r := s.precheck via op e (use && !free)
  let stop2 := op == Op.stop && ef e 9 1 == 1 && s.isHeld (Hold.s ((cmdPart via op e).getD 0))
  let c : InFlight :=
    { via := via, cid := ef e 2 2, opcode := op, mbox := if use && free then some m else none, entry := e,
      holds := if r.isSome || stop2 then [] else s.holdsOf via op e, at_ := s.timebase, begun := false, aux := 0, aux2 := 0, result := r }
  let s := if use && free then
      let x := s.ring ring
      s.setRing ring { x with mboxes := SMap.put x.mboxes m { x.mbox m with state := .pending } }
    else s
  { s with loupe := { s.loupe with inflight := s.loupe.inflight ++ [c] } }

/-! ## Fetching (13 R404–R406, 14 R423, R424) -/

/-- A ring has an entry that may be fetched. -/
def State.fetchable (s : State) (r : Nat) : Bool :=
  let x := s.ring r
  x.state == .active && x.sqHead != x.sqTail && decide (s.ringInflight r < 32) && decide (x.waiting.length ≤ 32)

/-- The ring whose turn it is: `turn` is twice the last ring other than 0 served, plus 1 when ring 0 was served last. -/
def State.nextRing (s : State) : Option Nat :=
  let last := s.loupe.turn / 2
  let others := (List.range 65).filter (fun r => decide (0 < r) && s.fetchable r)
  let other := (others.find? (fun r => decide (last < r))).or others.head?
  if s.fetchable 0 ∧ (s.loupe.turn % 2 = 0 ∨ other.isNone) then some 0 else other

/-- The host address of an entry of ring r (13 R400). -/
def State.sqAddr (s : State) (r i : Nat) : Nat :=
  (s.reg (Reg.ringSqLo r)).toNat + 2 ^ 32 * (s.reg (Reg.ringSqHi r)).toNat + 64 * i

/-- SQ_ENTRY_FETCH (13 R400, 14 R424): the Loupe reads the next entry of the ring whose turn it is, at its place in the submission ring and
through the ring's function; `e` is what the host answers. -/
def execSqEntryFetch (kind : HostKind) (e : BitVec 512) (s : State) : Host.Outcome State Fault Refusal :=
  if s.dev = .cold ∨ s.loupe.handover ∨ 512 ≤ s.loupe.inflight.length then .next s else
  match s.nextRing with
  | none => .next s
  | some r =>
    let x := s.ring r
    let s := { s with loupe := { s.loupe with turn := if r = 0 then s.loupe.turn / 2 * 2 + 1 else 2 * r } }
    let s := s.send (.hostRead (s.ringFunc r) (s.sqAddr r x.sqHead) 64)
    match kind with
    | .ok =>
      let s := s.countRx (s.ringFunc r) 64
      .next ((s.setRing r { x with sqHead := (x.sqHead + 1) % s.sqSize r }).takeIn (.ring r) e)
    | .poisoned => .next ((s.setRing r { x with state := .error, fetchErr := 1 }).hostEvent 2)
    | .aborted => .next ((s.setRing r { x with state := .error, fetchErr := 2 }).hostEvent 2)

/-- MCTP_REQUEST (14 R423): one MCTP command is in flight at a time; another waits for it, and during a handover for its end (14 R449). -/
def execMctpRequest (e : BitVec 512) (s : State) : Host.Outcome State Fault Refusal :=
  if s.dev = .cold then .next s
  else if s.loupe.inflight.any (fun c => c.via == .mctp) ∨ s.loupe.handover then
    .next { s with loupe := { s.loupe with mctpQ := s.loupe.mctpQ ++ [e] } }
  else .next (s.takeIn .mctp e)

/-! ## Completion (13 R407–R410, 14 R428) -/

/-- The k-th command in flight. -/
def State.cmd (s : State) (k : Nat) : Option InFlight := s.loupe.inflight[k]?
def State.setCmd (s : State) (k : Nat) (c : InFlight) : State :=
  { s with loupe := { s.loupe with inflight := s.loupe.inflight.set k c } }
/-- A command's result is settled. -/
def State.finish (s : State) (k : Nat) (r : Result) : State :=
  match s.cmd k with
  | some c => s.setCmd k { c with result := some r }
  | none => s

/-- What a DEBUG_CONSENT with ACTION 1 grants once its completion is written (15 R477). -/
def InFlight.grant (c : InFlight) (r : Result) : Option (Nat × Nat) :=
  if c.opcode = Op.consent ∧ ef c.entry 8 1 = 1 ∧ r.status = St.ok then
    (cmdPart c.via Op.consent c.entry).map (fun p => (p, ef c.entry 12 4 % 32))
  else none

/-- The next waiting MCTP request is taken. -/
def State.nextMctp (s : State) : State :=
  match s.loupe.mctpQ with
  | [] => s
  | e :: q => if s.loupe.handover then s else { s with loupe := { s.loupe with mctpQ := q } }.takeIn .mctp e

/-- The head of an MCTP message of the PCI vendor-defined type: its type and the Vendor ID (14 R423; the values' places are the DMTF's, log 95). -/
def mctpHead : Bytes := [0x7E, 0x1F, 0xA5]

/-- The command at k completes with a result: the mailbox is posted first, then the completion waits to be written; over MCTP the
response leaves at once and the next request is taken. -/
def State.complete (s : State) (k : Nat) (c : InFlight) (r : Result) : State :=
  let s := { s with loupe := { s.loupe with inflight := s.loupe.inflight.eraseIdx k } }
  match c.via with
  | .ring i =>
    let x := s.ring i
    match c.mbox with
    | none => s.setRing i { x with waiting := x.waiting ++ [⟨c.cid, r.status, r.info, 0, c.grant r⟩] }
    | some m =>
      let b := x.mbox m
      let g := if b.gen = 0xFFFFFFFF then 1 else b.gen + 1
      s.setRing i { x with
        mboxes := SMap.put x.mboxes m ⟨.valid, g, r.status, c.cid, c.opcode, r.payload⟩,
        waiting := x.waiting ++ [⟨c.cid, r.status, r.info, g, c.grant r⟩] }
  | _ =>
    let f := s.free 65
    let gen := f.1.extractLsb' 0 32
    -- COUNTER_READ's data follows the mailbox image (20 R607)
    let cut := if c.opcode = Op.cntRead then 16 else 240
    let img := (Mailbox.mk .valid gen.toNat r.status c.cid c.opcode (r.payload.take cut)).image
    let ent := leBytes 2 c.cid ++ leBytes 1 r.status ++ leBytes 1 (f.1.toNat / 2 ^ 64) ++ leBytes 4 (f.1.toNat / 2 ^ 32 % 2 ^ 32) ++
      leBytes 4 r.info.toNat ++ leBytes 4 gen.toNat
    (f.2.send (.mctp (mctpHead ++ ent ++ img ++ r.payload.drop cut))).nextMctp

/-- A tenant's refusal waits for its 50 µs (00 R13). -/
def InFlight.refused (c : InFlight) : Bool :=
  c.via.caller.isSome && (match c.result with | some r => r.status == St.refused | none => false)

/-- REFUSED_REPLY (00 R13): 50 µs after its fetch a refused command completes. -/
def execRefusedReply (k : Nat) (s : State) : Host.Outcome State Fault Refusal :=
  match s.cmd k with
  | some c => match c.result with
    | some r => if c.refused ∧ c.at_ + 50000 ≤ s.timebase then .next (s.complete k c r) else .next s
    | none => .next s
  | none => .next s

/-- The ring's interrupt message for its unsignalled completions (13 R408). -/
def State.signalRing (s : State) (r : Nat) : State :=
  (s.setRing r { s.ring r with unsignalled := 0 }).msix (s.ringFunc r) (bits (s.reg (Reg.ringCtrl r)) 9 11)

/-- A grant of consent takes effect, unless the partition has been removed or is being removed (15 R477). -/
def State.grantConsent (s : State) (g : Option (Nat × Nat)) : State :=
  match g with
  | some (p, m) => if s.partIn p [.empty, .retiring] then s else s.orReg (Reg.keyConsent p) (BitVec.ofNat 32 (m + 65536 * m))
  | none => s

/-- COMPLETION_WRITE (13 R407): the oldest waiting completion is written when the completion ring has room. -/
def execCompletionWrite (r : RingId) (s : State) : Host.Outcome State Fault Refusal :=
  let x := s.ring r
  let size := s.cqSize r
  match x.waiting with
  | [] => .next s
  | c :: rest =>
    if x.state = .disabled ∨ (x.cqTail + 1) % size = x.cqHead then .next s else
    let base := (s.reg (Reg.ringCqLo r)).toNat + 2 ^ 32 * (s.reg (Reg.ringCqHi r)).toNat
    let ent := leBytes 2 c.cid ++ leBytes 1 c.status ++ leBytes 1 (if x.phase then 1 else 0) ++ leBytes 4 x.sqHead ++
      leBytes 4 c.info.toNat ++ leBytes 4 c.gen
    let s := (s.hostPut (s.ringFunc r) (base + 16 * x.cqTail) ent).grantConsent c.grant
    let irq := s.reg (Reg.ringIrq r)
    let t := (x.cqTail + 1) % size
    let n := x.unsignalled + 1
    let s := s.setRing r { x with
      waiting := rest, cqTail := t, phase := if t = 0 then !x.phase else x.phase, unsignalled := n,
      firstAt := if n = 1 then s.timebase else x.firstAt, irq := irq }
    if max 1 (bits irq 0 8) ≤ n then .next (s.signalRing r) else .next s

/-- RING_IRQ_TIMER (13 R402, R408): TIMER µs, as RING_IRQ stood at the last completion, have passed since the first unsignalled one. -/
def execRingIrqTimer (r : RingId) (s : State) : Host.Outcome State Fault Refusal :=
  let x := s.ring r
  let t := bits x.irq 16 16
  if x.unsignalled ≠ 0 ∧ t ≠ 0 ∧ x.firstAt + 1000 * t ≤ s.timebase then .next (s.signalRing r) else .next s

/-! ## Running a command -/

/-- A command of an opcode and form that has passed its checks and not begun does its work in one action. -/
def State.perform (s : State) (k op : Nat) (form : BitVec 512 → Bool) (f : State → InFlight → Result × State) : State :=
  match s.cmd k with
  | some c =>
    if c.opcode = op ∧ c.result.isNone ∧ ¬ c.begun ∧ form c.entry then
      let r := f s c
      r.2.finish k r.1
    else s
  | none => s

/-- The same for one that may go on: without a result it has begun, keeping two numbers. -/
def State.start (s : State) (k op : Nat) (form : BitVec 512 → Bool) (f : State → InFlight → Option Result × Nat × Nat × State) : State :=
  match s.cmd k with
  | some c =>
    if c.opcode = op ∧ c.result.isNone ∧ ¬ c.begun ∧ form c.entry then
      let r := f s c
      r.2.2.2.setCmd k { c with begun := true, aux := r.2.1, aux2 := r.2.2.1, result := r.1 }
    else s
  | none => s

def fail (status : Nat) : Result := ⟨status, 0, []⟩
def okWith (payload : Bytes) : Result := ⟨St.ok, 0, payload⟩

/-! ## IDENTIFY, RESULT_RELEASE, REG_ACCESS, THERMAL_READ -/

def PState.code : PState → Nat
  | .empty => 0
  | .configured => 1
  | .loaded => 2
  | .running => 3
  | .paused => 4
  | .stopped => 5
  | .faulted => 6
  | .retiring => 7

/-- The number whose bit b is set for each block that passes. -/
def blockBits (f : Nat → Bool) : Nat := (List.range 256).foldl (fun a b => a + (if f b then 2 ^ b else 0)) 0

/-- The IDENTIFY payload (14 R431). -/
def State.identity (s : State) (caller p : Option Nat) : Bytes :=
  let o := caller.isNone
  let own (b : Nat) : Bool := match caller with
    | some t => bitOf (s.rec_ t).blocks b
    | none => true
  let x := s.part (p.getD 0)
  [0x50, 0x4B, 0x2D, 0x43, 0x58, 0x32, 0, 0] ++ leBytes 1 0xA1 ++ leBytes 1 s.dev.code ++
  leBytes 1 (if o then bits (s.reg Reg.hostState) 20 8 else 0) ++
  leBytes 1 (s.loupe.active + 2 * b2n s.loupe.handover + 4 * b2n (s.hostMode == 2)) ++
  leBytes 4 (if o then (s.reg Reg.dieMap).toNat else 0) ++ leBytes 8 s.loupe.serial ++ leBytes 1 (s.loupe.features % 16) ++
  leBytes 1 (if o then s.loupe.amends.length else 0) ++ leBytes 2 1 ++ leBytes 4 0 ++
  leBytes 32 (blockBits (fun b => (s.block b).state == .retired && own b)) ++
  leBytes 32 (if o then blockBits (fun b => bits (s.reg (Reg.released (b / 32))) (b % 32) 1 == 1) else 0) ++ leBytes 32 0 ++
  match p with
  | none => leBytes 1 0xFF ++ leBytes 111 0
  | some p =>
    leBytes 1 p ++ leBytes 1 x.state.code ++ leBytes 1 (bits (s.reg (Reg.partFault p)) 24 8) ++ leBytes 1 0 ++ leBytes 2 x.plead ++
    leBytes 2 (s.blocksOf p).length ++ leBytes 8 (s.stepOf p) ++ beBytes 48 x.facetDigest ++ beBytes 48 x.weightDigest

def execIdentify (k : Nat) (s : State) : Host.Outcome State Fault Refusal :=
  .next (s.perform k Op.identify (fun _ => true) (fun s c =>
    (okWith (s.identity c.via.caller (cmdPart c.via c.opcode c.entry)), s)))

/-- RESULT_RELEASE (13 R413). -/
def execResultRelease (k : Nat) (s : State) : Host.Outcome State Fault Refusal :=
  .next (s.perform k Op.release (fun _ => true) (fun s c =>
    match c.via with
    | .ring r =>
      let x := s.ring r
      let m := ef c.entry 8 1 % 16
      let b := x.mbox m
      if b.state = .valid ∧ b.gen = ef c.entry 12 4 then
        (okWith [], s.setRing r { x with mboxes := SMap.put x.mboxes m { b with state := .free, payload := [] } })
      else (fail St.badArgument, s)
    | _ => (fail St.badArgument, s)))

/-- A tenant may read a register (15 R456). -/
def State.mayRead (s : State) (p off : Nat) : Bool :=
  if isCnt off then false else
  match regInfo off with
  | none => false
  | some i => match i.owner with
    | .operator => false
    | .ownCore n => s.partOfCore n == some p
    | .ownChan c => s.partOfChan c == some p
    | .ownEngine d => s.partOfEngine d == some p
    | .ownPart q => q == p
    | .ownCtx x => s.partOfCtx x == some p
    | .ownKey k => bitOf (s.rec_ p).keyslots k
    | .all => true

/-- A tenant may write a register: one that it may read and that has bits it may clear; SLICE_LAYER is the operator's (07 R219). -/
def State.mayWrite (s : State) (p off : Nat) : Bool :=
  s.mayRead p off && !(decide (0x0280000 ≤ off) && decide (off < 0x02A0000)) && (match regInfo off with
    | some i => i.w1c != 0
    | none => false)

/-- REG_ACCESS's field ranges (14 R430). -/
def regArgs (e : BitVec 512) (max_ : Nat) : Bool :=
  decide (1 ≤ ef e 9 1) && decide (ef e 9 1 ≤ max_) && ef e 12 4 % 4 == 0 && decide (ef e 12 4 + 4 * ef e 9 1 ≤ 0x4000000)

/-- REG_ACCESS with DIR 0 (14 R430): registers read at full width with the ring's own latch. -/
def execRegAccessRead (k : Nat) (s : State) : Host.Outcome State Fault Refusal :=
  .next (s.perform k Op.reg (fun e => ef e 8 1 == 0) (fun s c =>
    let e := c.entry
    if !regArgs e 60 then (fail St.badArgument, s) else
    let off := ef e 12 4
    let n := ef e 9 1
    let ok : Bool := match c.via.caller with
      | some p => (List.range n).all (fun i => s.mayRead p (off + 4 * i))
      | none => true
    if !ok then (deny c.via St.accessFault, s) else
    let r := s.readRun (reqOfVia c.via) off n
    (okWith (r.1.flatMap (fun w => leBytes 4 w.toNat)), r.2)))

/-- REG_ACCESS with DIR 1 (14 R430). -/
def execRegAccessWrite (k : Nat) (s : State) : Host.Outcome State Fault Refusal :=
  .next (s.perform k Op.reg (fun e => ef e 8 1 == 1) (fun s c =>
    let e := c.entry
    if !regArgs e 1 then (fail St.badArgument, s) else
    let off := ef e 12 4
    let ok : Bool := match c.via.caller with
      | some p => s.mayWrite p off
      | none => true
    let r := s.writeReg 0 off (BitVec.ofNat 32 (ef e 16 4))
    -- where any of it is refused nothing is written, and the fault is logged (13 R396)
    if !ok ∨ r.2 then (deny c.via St.accessFault, s.accessFault 0 0 3 off) else (okWith [], r.1)))

/-- The hottest TEMP among sensors that have been sampled, as a signed 16-bit number; 0 before any sample. -/
def State.hottest (s : State) (offs : List Nat) : Int :=
  (((offs.filter (fun o => bits (s.reg o) 31 1 == 1)).map (fun o => sext 16 (s.reg o).toNat)).foldl
    (fun (a : Option Int) t => some (match a with | some x => max x t | none => t)) none).getD 0

def tileSensors (t : Nat) : List Nat :=
  (List.range 40).map (fun i => Reg.thermDram t (i / 4) (i % 4)) ++ (List.range 32).map (Reg.thermLogic t)

/-- The highest LEVEL of some sensors (18 R572). -/
def State.topLevel (s : State) (offs : List Nat) : Nat := offs.foldl (fun a o => max a (bits (s.reg o) 29 2)) 0

/-- The THERMAL_READ payload (14 R432). -/
def State.thermalRead (s : State) (caller : Option Nat) : Bytes :=
  let b16 (v : Int) : Bytes := leBytes 2 (BitVec.ofInt 16 v).toNat
  let temp (own : Nat → Nat → Bool) (i : Nat) (v : Int) : Bytes := match caller with
    | none => b16 v
    | some p => if own p i then b16 ((v + 8) / 16 * 16) else leBytes 2 0x8000
  let tileOwn (p t : Nat) : Bool := (s.blocksOf p).any (fun b => b / 32 == t)
  let stackOwn (p i : Nat) : Bool := (s.chansOf p).any (fun c => c / 32 == i)
  let o := caller.isNone
  let set (n : Nat) (f : Nat → Bool) : Nat := (List.range n).foldl (fun a i => a + (if f i then 2 ^ i else 0)) 0
  let cool := s.reg Reg.thermCoolant
  (List.range 8).flatMap (fun t => temp tileOwn t (s.hottest ((List.range 40).map (fun i => Reg.thermDram t (i / 4) (i % 4))))) ++
  (List.range 8).flatMap (fun t => temp tileOwn t (s.hottest ((List.range 32).map (Reg.thermLogic t)))) ++
  (List.range 16).flatMap (fun i => temp stackOwn i (s.hottest [Reg.thermHbm i])) ++
  (if o then leBytes 2 (bits cool 0 16) ++ leBytes 2 (bits cool 16 16) ++ leBytes 2 (bits (s.reg Reg.thermFlow) 0 16)
   else leBytes 2 0x8000 ++ leBytes 2 0x8000 ++ leBytes 2 0x8000) ++
  leBytes 2 (if o then bits (s.reg Reg.pwrPackage) 16 16 else bits (s.reg Reg.pwrPackage) 16 16 / 25 * 25) ++
  leBytes 2 (bits (s.reg Reg.pwrCap) 0 16) ++
  leBytes 1 (set 8 (fun t => decide (1 ≤ s.topLevel (tileSensors t)))) ++ leBytes 1 (set 8 (fun t => decide (2 ≤ s.topLevel (tileSensors t)))) ++
  leBytes 2 (set 16 (fun i => decide (2 ≤ bits (s.reg (Reg.thermHbm i)) 29 2))) ++ leBytes 2 0 ++
  leBytes 8 (if o then (s.reg Reg.brownoutCount).toNat else 0)

def execThermalRead (k : Nat) (s : State) : Host.Outcome State Fault Refusal :=
  .next (s.perform k Op.thermal (fun _ => true) (fun s c => (okWith (s.thermalRead c.via.caller), s)))

end Sys2Proof.Machine
end

