-- ==== Sys2Proof/Machine/Facet.lean ====
section
/-! DEFINITION. Facet images: their layout, what a facet says, and the checks of the staged copy (12 R350–R372, R384). -/

namespace Sys2Proof.Machine

/-! ## Header and sections (12 R350–R354) -/

/-- Big-endian number of a byte string. -/
def beVal (b : Bytes) : Nat := leVal b.reverse
/-- n bytes of an image from byte o. -/
def sub (b : Bytes) (o n : Nat) : Bytes := (b.drop o).take n
/-- They are all zero. -/
def zeroAt (b : Bytes) (o n : Nat) : Bool := (sub b o n).all (· == 0)
def sha (b : Bytes) : Nat := (Config.sha384 b).toNat

def fxKind (b : Bytes) : Nat := hField b 4 1
def fxSigned (b : Bytes) : Bool := hField b 6 1 % 2 == 1
def fxLen (b : Bytes) : Nat := hField b 8 4
def fxNsect (b : Bytes) : Nat := hField b 12 4
def fxId (b : Bytes) : Nat := hField b 16 8
def fxBlocks (b : Bytes) : Nat := hField b 24 32
def fxSigOff (b : Bytes) : Nat := hField b 184 8
def fxDigest (b : Bytes) : Nat := beVal (sub b 192 48)

/-- An entry of the section table: its place in the table, type, length, offset and digest. -/
structure Sect where
  idx : Nat
  typ : Nat
  len : Nat
  off : Nat
  digest : Nat
deriving DecidableEq, Repr

def fxSects (b : Bytes) : List Sect :=
  (List.range (fxNsect b)).map (fun i =>
    let o := 256 + 64 * i
    ⟨i, hField b o 2, hField b (o + 4) 4, hField b (o + 8) 8, beVal (sub b (o + 16) 48)⟩)

def Sect.bytes (x : Sect) (b : Bytes) : Bytes := sub b x.off x.len
/-- The sections of a type, in table order. -/
def fxOf (b : Bytes) (t : Nat) : List Sect := (fxSects b).filter (fun x => x.typ == t)
/-- The bytes of the section of a type that an image holds at most once. -/
def fxOne (b : Bytes) (t : Nat) : Bytes := match fxOf b t with | x :: _ => x.bytes b | [] => []
/-- The records of a given size in a section. -/
def recs (b : Bytes) (n : Nat) : List Bytes := (List.range (b.length / n)).map (fun i => sub b (n * i) n)

namespace Sx
def globals : Nat := 0x0001
def blob : Nat := 0x0010
def place : Nat := 0x0011
def coreStart : Nat := 0x0020
def preload : Nat := 0x0021
def memmap : Nat := 0x0030
def dmaRings : Nat := 0x0031
def kvLayout : Nat := 0x0032
def collTable : Nat := 0x0033
def replica : Nat := 0x0034
def ckptMap : Nat := 0x0035
def weights : Nat := 0x0036
def clove : Nat := 0x0037
def devPartitions : Nat := 0x0100
def service : Nat := 0x0101
def xingPlans : Nat := 0x0102
end Sx

/-! ## What a facet says (12 R355–R367) -/

def parseGlobals (b : Bytes) : Globals :=
  { dtbase := hField b 0 4, wtbase := hField b 4 4, entryStep := hField b 8 8, waitLimit := hField b 16 4, refoff := hField b 20 2,
    testBank := if hField b 22 1 = 0xFF then none else some (hField b 22 1), stepLogK := hField b 23 1, stepLogBase := hField b 24 8,
    clogK := hField b 32 1, clogBase := hField b 40 8 }

def parsePlace (b : Bytes) : PlaceRec :=
  { target := hField b 0 1, fromHbm := hField b 1 1 == 1, blob := hField b 2 2, x0 := hField b 4 1, x1 := hField b 5 1, y0 := hField b 6 1,
    y1 := hField b 7 1, dest := hField b 8 8, source := hField b 16 8, len := hField b 24 4, stride := hField b 28 4 }

/-- The cores of a block set, in ascending number. -/
def coresIn (blocks : Nat) : List Nat := (List.range 16384).filter (fun n => bitOf blocks (blockOf n))

def parseStart (core : Nat) (b : Bytes) : CoreStart :=
  { core := core, bundle := hField b 0 2, route := hField b 2 2,
    preload := if hField b 4 4 = 0xFFFFFFFF then none else some (hField b 4 4) }

def parseRing (b : Bytes) : RingRec :=
  { engine := hField b 0 1, scratch := hField b 1 1 == 1, len := hField b 4 4, base := hField b 8 8, watch := hField b 16 2 }

def parseAppend (b : Bytes) : AppendRec :=
  { core := hField b 0 2, n := hField b 2 2, data := hField b 4 4, tags := hField b 8 4, rwd := hField b 12 1, rwt := hField b 13 1 }

def parseKv (b : Bytes) : KvLayout :=
  { kvbase := hField b 0 4, layers := hField b 4 1, heads := hField b 5 1, hd := hField b 6 2, refbase := hField b 8 8,
    pools := (List.range 16).map (fun i => (hField b (16 + 16 * i) 8, hField b (24 + 16 * i) 8)),
    rings := (recs (b.drop 272) 16).map parseAppend }

def parseColl (b : Bytes) : CollEntry :=
  { id := hField b 0 1, op := hField b 1 1, etype := hField b 2 1, n := hField b 3 1, rank := hField b 4 1, root := hField b 5 1,
    hub := hField b 6 1, log := hField b 7 1 == 1, len := hField b 8 4, limit := hField b 12 4, next := hField b 16 8, prev := hField b 24 8,
    job := hField b 32 2, chan := hField b 34 2, srct := hField b 36 1, dstt := hField b 37 1, src := hField b 40 8, dst := hField b 48 8,
    tcore := hField b 56 2, tkt := hField b 58 1, tcnt := hField b 59 1, tgran := hField b 60 4, score := hField b 64 2, skt := hField b 66 1,
    scnt := hField b 67 1, period := hField b 68 4, step0 := hField b 72 8, count := hField b 80 4, ctx := hField b 84 1 }

def parseRegion (b : Bytes) : Region := ⟨hField b 0 1, hField b 8 8, hField b 16 8⟩

def parseReplica (b : Bytes) : ReplicaGroup :=
  { group := hField b 0 2, m := hField b 2 1, member := hField b 3 1, interval := hField b 4 4,
    peers := (List.range (hField b 2 1)).map (fun i => (hField b (16 + 16 * i) 8, hField b (24 + 16 * i) 1)),
    regions := (List.range (hField b 8 1)).map (fun j => parseRegion (sub b (272 + 32 * j) 32)) }

def parseWeight (b : Bytes) : WeightRec := ⟨⟨hField b 0 1, hField b 8 8, hField b 16 8⟩, beVal (sub b 32 48)⟩

def parseClove (b : Bytes) : CloveRec :=
  { chan := 32 * hField b 0 1 + hField b 1 1, tenant := hField b 2 1 == 1, chbase := hField b 4 4, mbase := hField b 8 8, csbase := hField b 16 4,
    limit := hField b 20 4, image := hField b 24 2 }

/-- A partition facet; blobs by their section's number. -/
def parseFacet (b : Bytes) : Facet :=
  { imageId := fxId b, glob := parseGlobals (fxOne b Sx.globals),
    place := (fxOf b Sx.place).flatMap (fun x => (recs (x.bytes b) 32).map parsePlace),
    blobs := (fxOf b Sx.blob).map (fun x => (x.idx, x.bytes b)),
    starts := (coresIn (fxBlocks b)).zip (recs (fxOne b Sx.coreStart) 16) |>.map (fun x => parseStart x.1 x.2),
    preloads := recs (fxOne b Sx.preload) 256, memmap := (recs (fxOne b Sx.memmap) 16).map leVal,
    dma := (recs (fxOne b Sx.dmaRings) 32).map parseRing,
    kv := (match fxOf b Sx.kvLayout with | x :: _ => some (parseKv (x.bytes b)) | [] => none),
    colls := (recs (fxOne b Sx.collTable) 128).map parseColl,
    replica := (match fxOf b Sx.replica with | x :: _ => some (parseReplica (x.bytes b)) | [] => none),
    ckpt := (recs (fxOne b Sx.ckptMap) 32).map parseRegion, weights := (recs (fxOne b Sx.weights) 96).map parseWeight,
    cloves := (recs (fxOne b Sx.clove) 32).map parseClove }

def parsePartRec (b : Bytes) : PartRec :=
  { valid := hField b 0 1 == 1, blocks := hField b 8 32, channels := hField b 40 64, keyslots := hField b 104 16, engines := hField b 120 24,
    collctx := hField b 144 8, seqBase := hField b 152 4, seqCount := hField b 156 4, scrBase := hField b 160 2, scrCount := hField b 162 2 }

/-- A device facet. -/
def parseDev (b : Bytes) : DevFacet :=
  let sv := fxOne b Sx.service
  { parts := ((recs (fxOne b Sx.devPartitions) 256).zipIdx.map (fun x => (x.2, parsePartRec x.1))).filter (fun x => x.2.valid),
    svcChannels := hField sv 0 64, seqtab := hField sv 64 8, stageBase := hField sv 72 8, stageLen := hField sv 80 8,
    plans := (recs (fxOne b Sx.xingPlans) 8).foldl (fun m r => SMap.put m (planKey (hField r 0 1) (hField r 1 1) (hField r 2 1)) (hField r 4 4)) [] }

/-! ## Checks (12 R371, R384). A check is what it finds and what it reports when it fails. -/

/-- A rejection: reason, section, record, offset (12 R383). -/
structure Rej where
  reason : Nat
  sect : Nat
  rec_ : Nat
  off : Nat
deriving DecidableEq, Repr

abbrev Chk := Bool × Rej

def noSect : Nat := 0xFFFF
def noRec : Nat := 0xFFFFFFFF
def noOff : Nat := 0xFFFFFFFFFFFFFFFF

/-- The first check of a list that fails. -/
def firstBad (cs : List Chk) : Option Rej := (cs.find? (fun c => !c.1)).map (·.2)

def hdr (reason off : Nat) (ok : Bool) : Chk := (ok, ⟨reason, noSect, noRec, off⟩)

def headerChecks (dev : Bool) (len : Nat) (b : Bytes) : List Chk :=
  let r := hdr 0x10
  let so := fxSigOff b
  [r 0 (hField b 0 4 == 0x31544346), r 4 (fxKind b == if dev then 1 else 2), r 5 (hField b 5 1 == 1), r 6 (decide (hField b 6 1 ≤ 1)),
   r 7 (hField b 7 1 == 0xA1),
   r 8 (fxLen b % 64 == 0 && fxLen b == len && decide (fxLen b ≤ if dev then 0x100000 else 0x40000000)),
   r 12 (decide (1 ≤ fxNsect b) && decide (fxNsect b ≤ 4096)), r 24 (!dev || fxBlocks b == 0), r 56 (zeroAt b 56 128),
   r 184 (so % 64 == 0 && (fxSigned b == (so != 0)) && (so == 0 || decide (so + 128 ≤ fxLen b))), r 240 (zeroAt b 240 16)]

/-- The types of each kind of image, and whether an image must hold and may repeat them (12 R354). -/
def sectTypes (dev : Bool) : List (Nat × Bool × Bool) :=
  if dev then [(Sx.devPartitions, true, false), (Sx.service, true, false), (Sx.xingPlans, false, false)]
  else [(Sx.globals, true, false), (Sx.blob, false, true), (Sx.place, false, true), (Sx.coreStart, true, false), (Sx.preload, false, false),
    (Sx.memmap, true, false), (Sx.dmaRings, false, false), (Sx.kvLayout, false, false), (Sx.collTable, false, false), (Sx.replica, false, false),
    (Sx.ckptMap, false, false), (Sx.weights, false, false), (Sx.clove, false, false)]

/-- Two ranges share a byte. -/
def overlap (a n b m : Nat) : Bool := decide (a < b + m) && decide (b < a + n) && n != 0 && m != 0

def tableChecks (dev : Bool) (b : Bytes) : List Chk :=
  let ss := fxSects b
  let tl := fxLen b
  let top := 256 + 64 * fxNsect b
  hdr 0x11 12 (decide (top ≤ tl) && !(fxSigned b && overlap (fxSigOff b) 128 0 top)) ::
  (ss.flatMap (fun x =>
    let o := 256 + 64 * x.idx
    let r (f : Nat) (ok : Bool) : Chk := (ok, ⟨0x11, noSect, x.idx, o + f⟩)
    [r 0 ((sectTypes dev).any (fun t => t.1 == x.typ && (t.2.2 || (ss.filter (fun y => y.typ == x.typ && decide (y.idx < x.idx))).isEmpty))),
     r 2 (zeroAt b (o + 2) 2), r 4 (decide (1 ≤ x.len)),
     r 8 (x.off % 64 == 0 && decide (x.off + x.len ≤ tl) && decide (top ≤ x.off) && !(fxSigned b && overlap x.off x.len (fxSigOff b) 128) &&
       ss.all (fun y => decide (x.idx ≤ y.idx) || !overlap x.off x.len y.off y.len))])) ++
  [hdr 0x11 12 ((sectTypes dev).all (fun t => !t.2.1 || ss.any (fun y => y.typ == t.1)))]

def digestChecks (b : Bytes) : List Chk :=
  (fxSects b).map (fun x => (x.digest == sha (x.bytes b), ⟨0x13, x.idx, noRec, 256 + 64 * x.idx + 16⟩))

/-- The partition's slots that hold an IMAGE_VERIFY key (15 R461). -/
def State.verifySlots (s : State) (p : Nat) : List Nat :=
  (s.keysOf p).filter (fun k => (s.key k).state == .active && (s.key k).kind == 2)

/-- The signature rules (12 R352); with only a RETIRING verifying slot nothing verifies (15 R474). -/
def State.signChecks (s : State) (target : Option Nat) (b : Bytes) : List Chk :=
  let so := fxSigOff b
  let slot := hField b so 1
  match target with
  | none => [hdr 0x21 6 (!fxSigned b)]
  | some p =>
    let held := (s.keysOf p).filter (fun k => (s.key k).state != .empty && (s.key k).kind == 2)
    if !held.isEmpty ∧ (s.verifySlots p).isEmpty then [hdr 0x21 6 false]
    else if !fxSigned b then [hdr 0x20 6 held.isEmpty]
    else [hdr 0x23 6 (s.licence 2), hdr 0x21 so ((s.verifySlots p).contains slot), hdr 0x22 (so + 1) (zeroAt b (so + 1) 15 && zeroAt b (so + 112) 16),
      hdr 0x22 (so + 16) (Config.ecdsaOk (s.key slot).key (sha (b.take 240)) (beVal (sub b (so + 16) 48)) (beVal (sub b (so + 64) 48)))]

/-! ## Content (12 R355–R367) -/

def isPow2 (n : Nat) : Bool := n != 0 && 2 ^ n.log2 == n

/-- Every byte of a partition-relative range lies in windows of a type that permit its use; type 2 is any. -/
def reaches (ws : List Window) (typ pa n : Nat) (perm : Window → Bool) : Bool :=
  n == 0 || (List.range ((pa % 0x10000 + n + 0xFFFF) / 0x10000)).all (fun i =>
    let u := pa / 0x10000 + i
    ws.any (fun w => w.valid && decide (w.pbase ≤ u) && decide (u < w.pbase + w.size) && perm w && (typ == 2 || w.typ == typ)))

/-- The device address of a partition-relative one in a window table. -/
def devOf (ws : List Window) (pa : Nat) : Option Nat :=
  (ws.find? (fun w => w.valid && decide (w.pbase ≤ pa / 0x10000) && decide (pa / 0x10000 < w.pbase + w.size))).map
    (fun w => w.dbase * 0x10000 + (pa - w.pbase * 0x10000))

def wRead (w : Window) : Bool := w.read
def wWrite (w : Window) : Bool := w.write
def wBoth (w : Window) : Bool := w.read && w.write
def wAtomic (w : Window) : Bool := w.atomic

/-- A check of record r of a section: reason, offset of the field in the record, record size. -/
def Sect.chk (x : Sect) (size r reason f : Nat) (ok : Bool) : Chk := (ok, ⟨reason, x.idx, r, x.off + size * r + f⟩)
/-- A check of a section without records. -/
def Sect.chk1 (x : Sect) (reason f : Nat) (ok : Bool) : Chk := (ok, ⟨reason, x.idx, noRec, x.off + f⟩)
/-- Its length is a number of records of a size, at most a number of them, after a fixed part. -/
def Sect.lenOk (x : Sect) (fixed size most : Nat) : Chk :=
  x.chk1 0x30 0 (decide (fixed ≤ x.len) && (x.len - fixed) % size == 0 && decide ((x.len - fixed) / size ≤ most))

def globalsChecks (b : Bytes) (ws : List Window) (x : Sect) : List Chk :=
  let c := x.bytes b
  let g := parseGlobals c
  let k (f : Nat) (ok : Bool) : Chk := x.chk1 0x30 f ok
  [k 0 (x.len == 128), k 0 (g.dtbase % 1024 == 0 && decide (g.dtbase + 1024 ≤ sramBytes)), k 4 (g.wtbase % 256 == 0 && decide (g.wtbase + 256 ≤ sramBytes)),
   k 16 (decide (g.waitLimit ≤ 60000000)), k 20 (decide (g.refoff < 4096)), k 22 (decide (g.testBank.getD 0 ≤ 23)),
   k 23 (g.stepLogK == 0 || (decide (6 ≤ g.stepLogK) && decide (g.stepLogK ≤ 20))), k 24 (g.stepLogBase % 64 == 0),
   k 32 (g.clogK == 0 || (decide (20 ≤ g.clogK) && decide (g.clogK ≤ 34))), k 33 (zeroAt c 33 7), k 40 (g.clogBase % 64 == 0), k 48 (zeroAt c 48 80),
   x.chk1 0x35 24 (g.stepLogK == 0 || reaches ws 2 g.stepLogBase (64 * 2 ^ g.stepLogK) wWrite),
   x.chk1 0x35 40 (g.clogK == 0 || reaches ws 0 g.clogBase (2 ^ g.clogK) wWrite)]

/-- The multiple that a target's addresses keep, and the size of its memory (12 R356). -/
def placeUnit (t : Nat) : Nat := match t with | 0 | 1 | 4 => 32 | 2 | 3 => 8 | _ => 64
def placeSize (t : Nat) : Nat :=
  match t with | 0 => sramBytes | 1 => 0x8000 | 2 => 0x1000 | 3 => 0x2000 | 4 => sliceBytes | _ => 2 ^ 48
/-- The cores of a rectangle of a block set, in ascending number. -/
def PlaceRec.cores (r : PlaceRec) (blocks : Nat) : List Nat :=
  (coresIn blocks).filter (fun n => decide (r.x0 ≤ coreX n) && decide (coreX n ≤ r.x1) && decide (r.y0 ≤ coreY n) && decide (coreY n ≤ r.y1))

def placeChecks (b : Bytes) (ws : List Window) (x : Sect) : List Chk :=
  x.lenOk 0 32 (2 ^ 32) :: ((recs (x.bytes b) 32).zipIdx.flatMap (fun rr =>
    let c := rr.1
    let r := parsePlace c
    let i := rr.2
    let k (f : Nat) (ok : Bool) : Chk := x.chk 32 i 0x32 f ok
    let u := placeUnit r.target
    let cs := r.cores (fxBlocks b)
    let mem := decide (r.target ≤ 4)
    let blob := (fxOf b Sx.blob).find? (fun y => y.idx == r.blob)
    let srcs := if mem then (List.range cs.length).map (fun j => (r.source + j * r.stride, cs.getD j 0)) else [(r.source, 0)]
    let perm := if mem then true else reaches ws (r.target - 5) r.dest r.len wWrite
    [k 0 (decide (r.target ≤ 6)), k 1 (hField c 1 1 == 0 || (hField c 1 1 == 1 && r.target == 4)), k 2 (if r.fromHbm then r.blob == 0 else blob.isSome),
     k 4 (if mem then decide (r.x0 ≤ r.x1) && decide (r.y0 ≤ r.y1) && decide (r.y1 ≤ 63) && !cs.isEmpty else zeroAt c 4 4),
     k 8 (r.dest % u == 0 && decide (r.dest + r.len ≤ placeSize r.target)), k 16 (r.source % u == 0), k 24 (r.len != 0 && r.len % u == 0),
     k 28 (r.stride % u == 0 && (mem || r.stride == 0)),
     k 16 (if r.fromHbm then true else match blob with
       | some y => srcs.all (fun q => decide (q.1 + r.len ≤ y.len))
       | none => false),
     x.chk 32 i 0x35 16 (!r.fromHbm || srcs.all (fun q => reaches ws 0 q.1 r.len wRead)),
     k 16 (!r.fromHbm || srcs.all (fun q => (List.range ((q.1 % 64 + r.len + 63) / 64)).all (fun g =>
       match devOf ws (q.1 / 64 * 64 + 64 * g) with
       | some d => isHbm d && chanOfAddr d / 64 == tileOf q.2
       | none => false))),
     x.chk 32 i 0x35 8 perm]))

def startChecks (b : Bytes) (x : Sect) : List Chk :=
  let np := (recs (fxOne b Sx.preload) 256).length
  x.chk1 0x30 0 (x.len == 16 * (coresIn (fxBlocks b)).length) :: ((recs (x.bytes b) 16).zipIdx.flatMap (fun rr =>
    let c := rr.1
    let k (f : Nat) (ok : Bool) : Chk := x.chk 16 rr.2 0x30 f ok
    [k 0 (decide (hField c 0 2 < 1024)), k 2 (decide (hField c 2 2 < 1024)), k 4 (hField c 4 4 == 0xFFFFFFFF || decide (hField c 4 4 < np)),
     k 8 (zeroAt c 8 8)]))

def preloadChecks (b : Bytes) (x : Sect) : List Chk :=
  x.lenOk 0 256 (2 ^ 32) :: ((recs (x.bytes b) 256).zipIdx.map (fun rr => x.chk 256 rr.2 0x30 0xE9 (zeroAt rr.1 0xE9 0x17)))

/-- The window table's own rules (08 R254). -/
def memmapChecks (b : Bytes) (x : Sect) : List Chk :=
  let es := (recs (x.bytes b) 16).map leVal
  x.chk1 0x30 0 (x.len == 256) :: (es.zipIdx.flatMap (fun e =>
    let w := Window.of e.1
    let k (f : Nat) (ok : Bool) : Chk := x.chk 16 e.2 0x33 f ok
    [k 4 (e.1 / 2 ^ 8 % 2 ^ 24 == 0 && !bitOf e.1 6),
     k 0 (!w.valid || (decide (w.typ ≤ 1) && decide (1 ≤ w.size) && decide (w.pbase + w.size ≤ 2 ^ 32) && decide (w.dbase + w.size ≤ 2 ^ 32))),
     k 4 (!w.valid || es.zipIdx.all (fun f => let v := Window.of f.1
       decide (e.2 ≤ f.2) || !v.valid || !overlap w.pbase w.size v.pbase v.size))]))

def ringChecks (b : Bytes) (ws : List Window) (x : Sect) : List Chk :=
  let rs := recs (x.bytes b) 32
  x.lenOk 0 32 192 :: (rs.zipIdx.flatMap (fun rr =>
    let c := rr.1
    let r := parseRing c
    let k (f : Nat) (ok : Bool) : Chk := x.chk 32 rr.2 0x30 f ok
    [k 0 (decide (r.engine < 192) && (rs.zipIdx.all (fun q => decide (rr.2 ≤ q.2) || hField q.1 0 1 != r.engine))), k 1 (decide (hField c 1 1 ≤ 1)),
     k 2 (zeroAt c 2 2), k 4 (isPow2 r.len && decide (16 ≤ r.len) && decide (r.len ≤ 65536)), k 8 (r.base % 64 == 0),
     k 16 (decide (r.watch < 16384)), k 18 (zeroAt c 18 14),
     x.chk 32 rr.2 0x35 8 (reaches ws (if r.scratch then 1 else 0) r.base (64 * r.len) wBoth)]))

def kvChecks (b : Bytes) (ws : List Window) (x : Sect) : List Chk :=
  let c := x.bytes b
  let v := parseKv c
  let k (f : Nat) (ok : Bool) : Chk := x.chk1 0x30 f ok
  let rs := recs (c.drop 272) 16
  [x.lenOk 272 16 16384, k 4 (decide (1 ≤ v.layers)), k 5 (decide (1 ≤ v.heads) && decide (v.heads ≤ 128)),
   k 6 (v.hd % 64 == 0 && decide (64 ≤ v.hd) && decide (v.hd ≤ 512)), k 8 (v.refbase % 2 == 0), x.chk1 0x35 8 (reaches ws 1 v.refbase 2 wAtomic)] ++
  v.pools.zipIdx.flatMap (fun q => if q.1.1 = 0 then [] else
    [k (16 + 16 * q.2) (q.1.1 % 8 == 0), k (24 + 16 * q.2) (q.1.2 % 4 == 0), x.chk1 0x35 (16 + 16 * q.2) (reaches ws 1 q.1.1 8 wAtomic),
     x.chk1 0x35 (24 + 16 * q.2) (reaches ws 2 q.1.2 4 wAtomic)]) ++
  rs.zipIdx.flatMap (fun rr =>
    let a := parseAppend rr.1
    let k (f : Nat) (ok : Bool) : Chk := (ok, ⟨0x30, x.idx, rr.2, x.off + 272 + 16 * rr.2 + f⟩)
    [k 0 (decide (a.core < 16384) && bitOf (fxBlocks b) (blockOf a.core) && rs.zipIdx.all (fun q => decide (rr.2 ≤ q.2) || hField q.1 0 2 != a.core)),
     k 2 (isPow2 a.n && decide (16 ≤ a.n) && decide (a.n ≤ 1024)), k 4 (a.data % 32 == 0 && decide (a.data + 32 * a.n ≤ sramBytes)),
     k 8 (a.tags % 8 == 0 && decide (a.tags + 8 * a.n ≤ sramBytes) && !overlap (bankOf a.data) (bankOf (a.data + 32 * a.n - 1) + 1 - bankOf a.data)
       (bankOf a.tags) (bankOf (a.tags + 8 * a.n - 1) + 1 - bankOf a.tags)),
     k 12 (decide (8 ≤ a.rwd) && decide (a.rwd ≤ 15)), k 13 (decide (8 ≤ a.rwt) && decide (a.rwt ≤ 15) && a.rwt != a.rwd), k 14 (zeroAt rr.1 14 2)])

/-- A fabric address is well formed (16 R495). -/
def fabricOk (a : Nat) : Bool := decide (a < 2 ^ 59) && decide (addrPort a < 20)

/-- A hub's stream endpoint lies in its column, in a block of the set (11 R325). -/
def hubEndOk (blocks hub v : Nat) : Bool := decide (v < 16384) && coreX v == (if hub = 0 then 0 else 255) && bitOf blocks (blockOf v)

def collChecks (b : Bytes) (ws : List Window) (x : Sect) : List Chk :=
  let rs := recs (x.bytes b) 128
  let clog := (parseGlobals (fxOne b Sx.globals)).clogK
  x.lenOk 0 128 64 :: (rs.zipIdx.flatMap (fun rr =>
    let c := rr.1
    let e := parseColl c
    let k (f : Nat) (ok : Bool) : Chk := x.chk 128 rr.2 0x30 f ok
    let before (g : CollEntry → Bool) : Bool := rs.zipIdx.all (fun q => decide (rr.2 ≤ q.2) || !g (parseColl q.1))
    let tok (n t cnt : Nat) : Bool := decide (t < 16) && (cnt == 0 || decide (n < 16384))
    let peer (a : Nat) : Bool := fabricOk a && hubOfPort (addrPort a) == e.hub
    let typ (f t v n : Nat) (perm : Window → Bool) : Chk :=
      if t = 2 then k f (hubEndOk (fxBlocks b) e.hub v) else x.chk 128 rr.2 0x35 f (v % 64 == 0 && reaches ws t v n perm)
    [k 0 (decide (e.id < 64) && before (fun q => q.id == e.id)), k 1 (decide (e.op ≤ 3)), k 2 (decide (e.etype ≤ 3) && (e.etype != 3 || decide (2 ≤ e.op))),
     k 3 (decide (2 ≤ e.n) && decide (e.n ≤ 64)), k 4 (decide (e.rank < e.n)), k 5 (decide (e.root < e.n)), k 6 (decide (e.hub ≤ 1)),
     k 7 (decide (hField c 7 1 ≤ 1) && (!e.log || clog != 0)), k 8 (e.len % (64 * e.n) == 0 && decide (e.len ≤ 2 ^ 30)), k 12 (decide (e.limit ≤ 60000000)),
     k 16 (peer e.next), k 24 (peer e.prev), k 34 (e.chan != 0xFFFF), k 36 (decide (e.srct ≤ 2)), k 37 (decide (e.dstt ≤ 2)), k 38 (zeroAt c 38 2),
     k 58 (tok e.tcore e.tkt e.tcnt), k 60 (e.tgran % 64 == 0 && (e.tgran == 0 || e.dstLen % e.tgran == 0)), k 66 (tok e.score e.skt e.scnt),
     k 68 (decide (1 ≤ e.period) && decide (e.period ≤ 65536)), k 84 (decide (e.ctx ≤ 31) && before (fun q => q.hub == e.hub && q.ctx == e.ctx)),
     k 16 (before (fun q => q.job == e.job && q.chan == e.chan &&
       [q.next, q.prev].any (fun y => [e.next, e.prev].any (fun z => y % 2 ^ 54 == z % 2 ^ 54)))),
     k 85 (zeroAt c 85 43), typ 40 e.srct e.src e.srcLen wRead, typ 48 e.dstt e.dst e.dstLen wWrite]))

/-- A region of a type lies in its memory (12 R362, R363). -/
def regionOk (r : Region) : Bool :=
  match r.kind with
  | 0 => r.base % 32 == 0 && r.len % 32 == 0 && decide (r.base + r.len ≤ sliceBytes)
  | 1 => r.base % 0x10000 == 0 && r.len % 0x10000 == 0
  | _ => false

def replicaChecks (b : Bytes) (ws : List Window) (x : Sect) : List Chk :=
  let c := x.bytes b
  let g := parseReplica c
  let k (f : Nat) (ok : Bool) : Chk := x.chk1 0x30 f ok
  [k 0 (x.len == 784), k 2 (decide (2 ≤ g.m) && decide (g.m ≤ 16)), k 3 (decide (g.member < g.m)),
   k 4 (g.interval == 0 || (isPow2 g.interval && decide (16 ≤ g.interval) && decide (g.interval ≤ 65536))), k 8 (decide (1 ≤ hField c 8 1) && decide (hField c 8 1 ≤ 16)),
   k 9 (zeroAt c 9 7)] ++
  (List.range 16).flatMap (fun i =>
    let o := 16 + 16 * i
    if i < g.m then [k o (fabricOk (hField c o 8)), k (o + 8) (decide (hField c (o + 8) 1 < 64)), k (o + 9) (zeroAt c (o + 9) 7)] else [k o (zeroAt c o 16)]) ++
  (List.range 16).flatMap (fun j =>
    let o := 272 + 32 * j
    if j < hField c 8 1 then
      let r := parseRegion (sub c o 32)
      [k o (regionOk r && zeroAt c (o + 1) 7 && zeroAt c (o + 24) 8), x.chk1 0x35 (o + 8) (r.kind != 1 || reaches ws 0 r.base r.len wRead)]
    else [k o (zeroAt c o 32)])

def ckptChecks (b : Bytes) (ws : List Window) (x : Sect) : List Chk :=
  x.lenOk 0 32 32 :: ((recs (x.bytes b) 32).zipIdx.flatMap (fun rr =>
    let c := rr.1
    let r := parseRegion c
    let k (f : Nat) (ok : Bool) : Chk := x.chk 32 rr.2 0x30 f ok
    [k 0 (decide (r.kind ≤ 4)), k 1 (zeroAt c 1 7), k 24 (zeroAt c 24 8),
     k 8 (match r.kind with
       | 0 => decide (r.base + r.len ≤ sramBytes)
       | 1 => r.base % 32 == 0 && r.len % 32 == 0 && decide (r.base + r.len ≤ sliceBytes)
       | 4 => r.base == 0 && r.len == 0
       | _ => true),
     x.chk 32 rr.2 0x35 8 (match r.kind with
       | 2 => reaches ws 0 r.base r.len wBoth
       | 3 => reaches ws 1 r.base r.len wBoth
       | _ => true)]))

def weightChecks (b : Bytes) (ws : List Window) (x : Sect) : List Chk :=
  x.lenOk 0 96 16 :: ((recs (x.bytes b) 96).zipIdx.flatMap (fun rr =>
    let c := rr.1
    let r := (parseWeight c).region
    let k (f : Nat) (ok : Bool) : Chk := x.chk 96 rr.2 0x30 f ok
    [k 0 (decide (r.kind ≤ 1)), k 1 (zeroAt c 1 7), k 8 (regionOk r), k 24 (zeroAt c 24 8), k 80 (zeroAt c 80 16),
     x.chk 96 rr.2 0x35 8 (r.kind != 1 || reaches ws 0 r.base r.len wRead)]))

def cloveChecks (b : Bytes) (ws : List Window) (x : Sect) : List Chk :=
  x.lenOk 0 32 512 :: ((recs (x.bytes b) 32).zipIdx.flatMap (fun rr =>
    let c := rr.1
    let v := parseClove c
    let k (f : Nat) (ok : Bool) : Chk := x.chk 32 rr.2 0x30 f ok
    [k 0 (decide (hField c 0 1 ≤ 15)), k 1 (decide (hField c 1 1 ≤ 31)), k 2 (decide (hField c 2 1 ≤ 1)), k 3 (zeroAt c 3 1), k 8 (v.mbase % 128 == 0),
     k 20 (decide (v.limit ≤ 60000000)), k 24 (if v.tenant then (fxOf b Sx.blob).any (fun y => y.idx == v.image) else v.image == 0), k 26 (zeroAt c 26 6),
     x.chk 32 rr.2 0x35 8 (reaches ws 1 v.mbase 1152 wAtomic)]))

def devPartChecks (b : Bytes) (x : Sect) : List Chk :=
  let rs := recs (x.bytes b) 256
  x.chk1 0x30 0 (x.len == 16384) :: (rs.zipIdx.flatMap (fun rr =>
    let c := rr.1
    let r := parsePartRec c
    let k (reason f : Nat) (ok : Bool) : Chk := x.chk 256 rr.2 reason f ok
    let others (g : PartRec → Bool) : Bool := rs.zipIdx.all (fun q => decide (rr.2 ≤ q.2) || !(parsePartRec q.1).valid || g (parsePartRec q.1))
    [k 0x30 0 (decide (hField c 0 1 ≤ 1)), k 0x30 1 (zeroAt c 1 7), k 0x30 164 (zeroAt c 164 92)] ++
    (if !r.valid then [k 0x42 1 (zeroAt c 0 256)] else
     [k 0x42 8 (r.blocks != 0), k 0x42 40 ((List.range 512).all (fun ch => !bitOf r.channels ch ||
        (List.range 8).any (fun i => bitOf r.blocks (32 * (ch / 64) + (if ch / 64 ≤ 3 then 0 else 24) + i)))),
      k 0x42 120 (!bitOf r.engines 159), k 0x42 152 (decide (r.seqBase + r.seqCount ≤ 1048576)),
      k 0x42 160 (decide (r.scrBase ≤ 1023) && decide (r.scrBase + r.scrCount ≤ 1024)),
      k 0x40 8 (others (fun q => q.blocks &&& r.blocks == 0)), k 0x40 40 (others (fun q => q.channels &&& r.channels == 0)),
      k 0x40 104 (others (fun q => q.keyslots &&& r.keyslots == 0)), k 0x40 120 (others (fun q => q.engines &&& r.engines == 0)),
      k 0x40 144 (others (fun q => q.collctx &&& r.collctx == 0)), k 0x40 152 (others (fun q => !overlap q.seqBase q.seqCount r.seqBase r.seqCount)),
      k 0x40 160 (others (fun q => !overlap q.scrBase q.scrCount r.scrBase r.scrCount))])))

/-- Every byte of a range of HBM lies in channels of a set. -/
def inChannels (set a n : Nat) : Bool :=
  decide (hbmBase ≤ a) && decide (a + n ≤ hbmTop) &&
  (List.range 512).all (fun c => bitOf set c || !overlap a n (chanAddr c) channelBytes)

def serviceChecks (b : Bytes) (x : Sect) : List Chk :=
  let c := x.bytes b
  let d := parseDev b
  let k (f : Nat) (ok : Bool) : Chk := x.chk1 0x42 f ok
  [x.chk1 0x30 0 (x.len == 128), x.chk1 0x30 88 (zeroAt c 88 40), k 0 (d.parts.all (fun q => q.2.channels &&& d.svcChannels == 0)),
   k 64 (d.seqtab % 0x10000 == 0 && inChannels d.svcChannels d.seqtab 0x8000000), k 72 (d.stageBase % 0x10000 == 0 && inChannels d.svcChannels d.stageBase d.stageLen &&
     !overlap d.seqtab 0x8000000 d.stageBase d.stageLen), k 80 (d.stageLen % 0x10000 == 0 && decide (0x40100000 ≤ d.stageLen))]

/-- A plan is valid on its own (06 R190): its lanes are the module's. -/
def planOk (e v : Nat) : Bool := (List.range 8).all (fun i => v / 16 ^ i % 16 < 8 || decide (e ≥ 10) || decide (v / 16 ^ i % 8 < 4))
/-- The two modules of a row's pair never use one lane at one frame position. -/
def pairOk (a b : Nat) : Bool := (List.range 8).all (fun i => a / 16 ^ i % 16 < 8 || a / 16 ^ i % 16 != b / 16 ^ i % 16)
/-- A default plan as a number. -/
def planDefault (e m : Nat) : Nat := (List.range 8).foldl (fun a i => a + 16 ^ i * defaultPlan e m i) 0
def DevFacet.plan (d : DevFacet) (e m dir : Nat) : Nat := SMap.get (planDefault e m) d.plans (planKey e m dir)

def planChecks (b : Bytes) (x : Sect) : List Chk :=
  let rs := recs (x.bytes b) 8
  let d := parseDev b
  x.lenOk 0 8 384 :: (rs.zipIdx.flatMap (fun rr =>
    let c := rr.1
    let e := hField c 0 1
    let m := hField c 1 1
    let k (reason f : Nat) (ok : Bool) : Chk := x.chk 8 rr.2 reason f ok
    [k 0x43 0 (decide (e ≤ 13)), k 0x43 1 (decide (m ≤ if e ≤ 9 then 15 else 7)), k 0x43 2 (decide (hField c 2 1 ≤ 1)), k 0x43 3 (zeroAt c 3 1),
     k 0x43 0 (rs.zipIdx.all (fun q => decide (rr.2 ≤ q.2) || sub q.1 0 3 != sub c 0 3)),
     k 0x43 4 (planOk e (hField c 4 4) && (decide (e ≥ 10) || pairOk (d.plan e (m / 2 * 2) (hField c 2 1)) (d.plan e (m / 2 * 2 + 1) (hField c 2 1))))]))

def contentChecks (b : Bytes) (ws : List Window) (x : Sect) : List Chk :=
  if x.typ = Sx.globals then globalsChecks b ws x
  else if x.typ = Sx.place then placeChecks b ws x
  else if x.typ = Sx.coreStart then startChecks b x
  else if x.typ = Sx.preload then preloadChecks b x
  else if x.typ = Sx.memmap then memmapChecks b x
  else if x.typ = Sx.dmaRings then ringChecks b ws x
  else if x.typ = Sx.kvLayout then kvChecks b ws x
  else if x.typ = Sx.collTable then collChecks b ws x
  else if x.typ = Sx.replica then replicaChecks b ws x
  else if x.typ = Sx.ckptMap then ckptChecks b ws x
  else if x.typ = Sx.weights then weightChecks b ws x
  else if x.typ = Sx.clove then cloveChecks b ws x
  else if x.typ = Sx.devPartitions then devPartChecks b x
  else if x.typ = Sx.service then serviceChecks b x
  else if x.typ = Sx.xingPlans then planChecks b x
  else []

/-! ## Checks against current state (12 R371 step 7) -/

/-- A window's device range lies in the partition's channels or scratch units (08 R254). -/
def State.ownsWindow (s : State) (p : Nat) (w : Window) : Bool :=
  let a := w.dbase * 0x10000
  let n := w.size * 0x10000
  let r := s.rec_ p
  if w.typ = 0 then inChannels r.channels a n && !overlap a n s.devFacet.seqtab 0x8000000 && !overlap a n s.devFacet.stageBase s.devFacet.stageLen
  else decide (scratchBase + r.scrBase * 0x10000 ≤ a) && decide (a + n ≤ scratchBase + (r.scrBase + r.scrCount) * 0x10000)

def State.stateChecks (s : State) (target : Option Nat) (b : Bytes) : List Chk :=
  match target with
  | none =>
    let d := parseDev b
    (fxOf b Sx.devPartitions).flatMap (fun x =>
      [x.chk1 0x41 0 (s.licence 0 || decide (d.parts.length ≤ 4))] ++
      d.parts.map (fun q => x.chk 256 q.1 0x42 8 ((List.range 256).all (fun i => !bitOf q.2.blocks i || (s.block i).state != .retired))))
  | some p =>
    let r := s.rec_ p
    hdr 0x31 24 (fxBlocks b == r.blocks) :: ((fxSects b).flatMap (fun x =>
      let c := x.bytes b
      if x.typ = Sx.memmap then (recs c 16).zipIdx.map (fun e =>
        let w := Window.of (leVal e.1)
        x.chk 16 e.2 0x33 12 (!w.valid || s.ownsWindow p w))
      else if x.typ = Sx.dmaRings then (recs c 32).zipIdx.map (fun e => x.chk 32 e.2 0x34 0 (bitOf r.engines (hField e.1 0 1)))
      else if x.typ = Sx.collTable then (recs c 128).zipIdx.map (fun e =>
        let v := parseColl e.1
        x.chk 128 e.2 0x34 84 (bitOf r.collctx (32 * v.hub + v.ctx)))
      else if x.typ = Sx.clove then (recs c 32).zipIdx.flatMap (fun e =>
        let v := parseClove e.1
        [x.chk 32 e.2 0x34 0 (bitOf r.channels v.chan), x.chk 32 e.2 0x36 2 (!v.tenant || s.licence 3)])
      else []))

/-- The first failure of the staged copy after its header (12 R371). -/
def State.facetCheck (s : State) (target : Option Nat) (b : Bytes) : Option Rej :=
  let ws := (recs (fxOne b Sx.memmap) 16).map (fun e => Window.of (leVal e))
  (firstBad [hdr 0x12 192 (fxDigest b == sha (b.take 192 ++ sub b 256 (64 * fxNsect b)))]).or
  ((firstBad (tableChecks target.isNone b)).or
  ((firstBad (digestChecks b)).or
  ((firstBad (s.signChecks target b)).or
  ((firstBad ((fxSects b).flatMap (contentChecks b ws))).or
  (firstBad (s.stateChecks target b))))))

/-- The status of a reason (12 R384). -/
def reasonStatus (r : Nat) : Nat :=
  if r = 0x01 then St.poisoned
  else if r = 0x02 ∨ r = 0x04 ∨ r = 0x38 then St.uncorrectable
  else if r = 0x03 then St.noResource
  else if r = 0x12 ∨ r = 0x13 ∨ r = 0x37 then St.digestMismatch
  else if r = 0x23 ∨ r = 0x36 ∨ r = 0x41 then St.licenceMissing
  else if r = 0x44 ∨ r = 0x50 then St.busy
  else if r = 0x51 then St.badArgument
  else St.imageInvalid

/-- A rejection as a result: a tenant gets REFUSED and a record of zeros where 00 R13 says so (12 R384). -/
def rejected (via : Via) (id : Nat) (r : Rej) : Result :=
  if via.caller.isSome ∧ (r.reason = 0x03 ∨ r.reason = 0x23 ∨ r.reason = 0x36 ∨ r.reason = 0x41) then ⟨St.refused, 0, List.replicate 128 0⟩
  else ⟨reasonStatus r.reason, BitVec.ofNat 32 r.reason, facetRecord r.reason r.sect r.rec_ r.off 0 0 id⟩

/-! ## FACET_LOAD (12 R370–R375) -/

/-- Staging that no placed image takes. -/
def State.stagingFree (s : State) : Nat :=
  let used := (s.parts.map (fun q => match q.2.staged with | some i => i.bytes.length | none => 0)).sum +
    (match s.loupe.devImage with | some i => i.bytes.length | none => 0)
  s.devFacet.stageLen - used

/-- The free pieces of the staging range, in ascending order; images take them so (DESIGN CHOICE, notes/assumptions/73.md). -/
def State.stagingGaps (s : State) : List (Nat × Nat) :=
  let used := (s.parts.flatMap (fun q => match q.2.staged with | some i => i.ext | none => [])) ++
    (match s.loupe.devImage with | some i => i.ext | none => [])
  let r := (used.mergeSort (fun a b => decide (a.1 ≤ b.1))).foldl (fun (a : List (Nat × Nat) × Nat) u =>
    (if a.2 < u.1 then a.1 ++ [(a.2, u.1 - a.2)] else a.1, max a.2 (u.1 + u.2))) ([], s.devFacet.stageBase)
  let top := s.devFacet.stageBase + s.devFacet.stageLen
  if r.2 < top then r.1 ++ [(r.2, top - r.2)] else r.1
/-- The first n bytes of some pieces. -/
def takePieces : List (Nat × Nat) → Nat → List (Nat × Nat)
  | [], _ => []
  | g :: gs, n => if n = 0 then [] else (g.1, min g.2 n) :: takePieces gs (n - min g.2 n)
/-- Writes an image's copy in its pieces, as the hub agent that the Loupe is (08 R245). -/
def State.stageCopy (s : State) (ext : List (Nat × Nat)) (b : Bytes) : State :=
  (ext.foldl (fun (a : State × Nat) g => (a.1.ccWrite none g.1 (sub b a.2 g.2) false, a.2 + g.2)) (s, 0)).1
/-- The granules of some pieces, in order; pieces are whole granules. -/
def granulesOf (ext : List (Nat × Nat)) : List Nat := ext.flatMap (fun g => (List.range (g.2 / 64)).map (fun i => g.1 + 64 * i))
/-- The Loupe reads a staged copy: its bytes, and the offset in it of the first granule that was not good. -/
def State.stagedRead (s : State) (ext : List (Nat × Nat)) : Bytes × Option Nat × State :=
  (granulesOf ext).zipIdx.foldl (fun (a : Bytes × Option Nat × State) g =>
    let r := a.2.2.ccRead none g.1 64
    (a.1 ++ r.1, a.2.1.or (if r.2.1 = 0 then none else some (64 * g.2)), r.2.2)) ([], none, s)
/-- STAGING_ERROR for a granule of image b at offset o: its section, when it is of one (12 R383, R384). -/
def stagingError (b : Bytes) (bad : Option Nat) : Option Rej :=
  bad.map (fun o => match (fxSects b).find? (fun x => overlap x.off x.len o 64) with
    | some x => ⟨0x04, x.idx, noRec, o⟩
    | none => ⟨0x04, noSect, noRec, o⟩)

def State.putStaged (s : State) (target : Option Nat) (i : Option Staged) : State :=
  match target with
  | some p => s.setPart p { s.part p with staged := i }
  | none => { s with loupe := { s.loupe with devImage := i } }
def State.stagedOf (s : State) (target : Option Nat) : Option Staged :=
  match target with
  | some p => (s.part p).staged
  | none => s.loupe.devImage

/-- A FACET_LOAD's work: `img` is host memory from HOSTADDR, whose reads answer as `kind` from byte `at_` on and normally before it. -/
def State.facetLoad (s : State) (via : Via) (e : BitVec 512) (img : Bytes) (kind : HostKind) (at_ : Nat) : Result × State :=
  let target := cmdPart via Op.facetLoad e
  let addr := ef e 16 8
  let len := ef e 24 4
  match target with
  | some p =>
    if s.partIn p [.empty, .retiring] then (busyOf Op.facetLoad, s) else go s target addr len
  | none => go s target addr len
where
  go (s : State) (target : Option Nat) (addr len : Nat) : Result × State :=
    let none_ : Rej := ⟨0, noSect, noRec, noOff⟩
    if addr % 64 ≠ 0 then (⟨St.badArgument, 0, facetRecord 0 noSect noRec noOff 0 0 0⟩, s) else
    let s := s.putStaged target none
    -- no image has TOTAL_LEN 0
    if len = 0 then (rejected via 0 { none_ with reason := 0x10 }, s) else
    let b := (img ++ List.replicate (len - img.length) 0).take len
    let lost (id : Nat) : Result := rejected via id { none_ with reason := if kind = .poisoned then 0x01 else 0x02 }
    if kind ≠ .ok ∧ at_ < 256 then (lost 0, s) else
    match firstBad (headerChecks target.isNone len b) with
    | some r => (rejected via (fxId b) r, s)
    | none =>
      if s.stagingFree < len then (rejected via (fxId b) { none_ with reason := 0x03 }, s) else
      let ext := takePieces s.stagingGaps len
      if kind ≠ .ok ∧ at_ < len then (lost (fxId b), s.stageCopy (takePieces ext (at_ / 64 * 64)) b) else
      let back := (s.stageCopy ext b).stagedRead ext
      let s := back.2.2
      match (stagingError b back.2.1).or (s.facetCheck target b) with
        | some r => (rejected via (fxId b) r, s)
        | none => (⟨St.ok, 0, facetRecord 0 noSect noRec noOff (fxDigest b) 0 (fxId b)⟩, s.putStaged target (some ⟨b, fxDigest b, ext⟩))

/-- FACET_LOAD (12 R370): the image is read once and checked. -/
def execFacetLoad (k : Nat) (img : List Byte) (kind : HostKind) (at_ : Nat) (s : State) : Host.Outcome State Fault Refusal :=
  .next (s.perform k Op.facetLoad (fun _ => true) (fun s c => s.facetLoad c.via c.entry img kind at_))

end Sys2Proof.Machine
end

