-- ==== Sys2Proof/Machine/Load.lean ====
section
/-! DEFINITION. What the Loupe does to a partition's units: installing Clove programs, placing a facet, resetting the partition's state,
measuring weights, activation and its rollback (09 R281, 12 R356–R358, R373–R383, 14 R445, R446, 16 R499, R506). -/

namespace Sys2Proof.Machine

/-! ## Blocks for a time (18 R558) -/

/-- A block is brought at once to a state: a raise out of OFF clears the core memories (07 R212), and each raise is one ramp. -/
def State.setBlockNow (s : State) (b : Nat) (t : BState) : State :=
  let x := s.block b
  if x.state = .retired then s else
  let raise := x.state ≠ t ∧ (x.state = .off ∨ t = .active)
  let s := if x.state = .off ∧ raise then (coresOfBlock b).foldl (fun s n => s.zeroCore n) s else s
  let s := if raise then s.countField (Reg.blockAperture (b / 32)) 0 16 1 else s
  let q := (SMap.get [] s.aperture (b / 32)).filter (· != b)
  let s := { s with aperture := SMap.put s.aperture (b / 32) q }
  s.setBlock b { x with state := t, target := t, queued := false, ramping := false, fillCore := false }
def State.setBlocksNow (s : State) (p : Nat) (t : BState) : State := (s.blocksOf p).foldl (fun s b => s.setBlockNow b t) s

/-! ## Clove programs (09 R281, 14 R445, R446) -/

/-- The tenant area of local memory, by offset from 0x1_0000. -/
def tenantLo : Nat := 0x4000

/-- A tenant image is valid (14 R446). -/
def cloveImageOk (b : Bytes) : Bool :=
  let n := hField b 4 4
  hField b 0 4 == 0x45564C43 && decide (4 ≤ n) && decide (n ≤ 49152) && n % 4 == 0 && zeroAt b 12 4 && zeroAt b 524 4 && zeroAt b 576 448 &&
  b.length == 1024 + n && decide (hField b 8 4 ≤ 60000000) && beVal (sub b 528 48) == sha (b.drop 1024) &&
  (List.range 127).all (fun i =>
    let a := hField b (16 + 4 * i) 4
    a == 0 || (a % 2 == 0 && decide (0x14000 ≤ a) && decide (a < 0x14000 + n)))

/-- The mailbox of core c is taken away: what is queued in it completes with FAULTED (14 R445). -/
def State.dropMailbox (s : State) (c : Nat) : State :=
  let s := s.cFlush c 16
  s.setClove c { s.clove c with mbase := none, head := 0, rx := [] }

/-- CLOVE_LOAD once the core has left its last command: the tenant area is cleared and loaded, the apertures and the mailbox are
set, and the core is IDLE in its monitor. A limit of 0 is the image's. -/
def State.cloveInstall (s : State) (c chbase mbase csbase limit : Nat) (image : Option Bytes) : State :=
  let x := s.clove c
  let keep := x.mbase = some mbase ∧ !x.halted
  let s := if keep then s else s.dropMailbox c
  let x := s.clove c
  let m := x.localMem.zero tenantLo 0x10000
  let m := match image with
    | some b => (List.range ((b.length - 1024 + 7) / 8)).foldl (fun m i =>
        let w := sub b (1024 + 8 * i) 8
        m.writeUnit (tenantLo + 8 * i) (w ++ List.replicate (8 - w.length) 0) false) m
    | none => m
  let prog : Option Program := image.map (fun b =>
    let own := if limit ≠ 0 then limit else if hField b 8 4 ≠ 0 then hField b 8 4 else 1000000
    ⟨own, ((List.range 127).map (fun i => (i, hField b (16 + 4 * i) 4))).filter (fun e => e.2 != 0)⟩)
  let s := s.setClove c { x with localMem := m, program := prog, halted := false, tenant := false, ran := false, held := none,
                                 machineMode := true, sleeping := false, mig := none }
  let s := (s.setCcsr c Csr.chbase chbase).setCcsr c Csr.csbase csbase
  if keep then s else
  let s := s.setClove c { s.clove c with mbase := some mbase }
  s.mboxWrite c 0 (leBytes 8 0)

/-- A Clove core back in IDLE with no mailbox and no program. -/
def State.cloveIdle (s : State) (c : Nat) : State :=
  let x := s.clove c
  s.setClove c { x with
    mbase := none, head := 0, rx := [], held := none, ran := false, tenant := false, halted := false, program := none,
    machineMode := true, sleeping := false, mig := none, fifoUp := [], fifoDn := [], wire := [], blockAt := none, stallAt := none,
    localMem := x.localMem.zero tenantLo 0x10000 }

/-! ## Placing (12 R356–R358) -/

/-- Bytes in pieces of a size. -/
def chunks (n : Nat) (b : Bytes) : List Bytes := (List.range ((b.length + n - 1) / n)).map (fun i => sub b (n * i) n)

/-- Bytes written to a core memory in its protection units. -/
def State.putUnits (s : State) (size a : Nat) (b : Bytes) : State :=
  { s with mem := (chunks size b).zipIdx.foldl (fun m c => m.writeUnit (a + size * c.2) c.1 false) s.mem }

/-- Where a core memory target lies (07 R203, 12 R356). -/
def placeBase (t n : Nat) : Nat :=
  match t with
  | 0 => coreWindow n
  | 1 => coreWindow n + bundleOff
  | 2 => coreWindow n + blendOff
  | 3 => coreWindow n + routeOff
  | _ => sliceBase n

/-- Bytes of partition-relative memory as an agent reads device addresses, by granule: the bytes and the worst found. -/
def State.partReadBy (read : State → Nat → Nat → Bytes × Nat × State) (s : State) (p pa n : Nat) : Bytes × Nat × State :=
  (List.range ((pa % 64 + n + 63) / 64)).foldl (fun (a : Bytes × Nat × State) i =>
    let lo := if i = 0 then pa else pa / 64 * 64 + 64 * i
    let hi := min (pa + n) (pa / 64 * 64 + 64 * (i + 1))
    match a.2.2.windowOf p lo with
    | some w =>
      let d := w.dbase * 0x10000 + (lo - w.pbase * 0x10000)
      let r := read a.2.2 d (hi - lo)
      (a.1 ++ r.1, max a.2.1 r.2.1, r.2.2)
    | none => (a.1 ++ List.replicate (hi - lo) 0, max a.2.1 2, a.2.2)) ([], 0, s)

/-- The Loupe reads as a hub agent does. -/
def State.partRead (s : State) (p pa n : Nat) : Bytes × Nat × State :=
  State.partReadBy (fun s a n => s.ccRead none a n) s p pa n
/-- A tile's loader reads HBM itself, without the common cache (08 R245, 12 R378). -/
def State.loaderRead (s : State) (p pa n : Nat) : Bytes × Nat × State := State.partReadBy State.devRead s p pa n

/-- Bytes written to partition-relative memory. -/
def State.partWrite (s : State) (p pa : Nat) (b : Bytes) : State :=
  (List.range ((pa % 64 + b.length + 63) / 64)).foldl (fun s i =>
    let lo := if i = 0 then pa else pa / 64 * 64 + 64 * i
    let hi := min (pa + b.length) (pa / 64 * 64 + 64 * (i + 1))
    match s.windowOf p lo with
    | some w => s.ccWrite none (w.dbase * 0x10000 + (lo - w.pbase * 0x10000)) (sub b (lo - pa) (hi - lo)) false
    | none => s) s

/-- One PLACE record; whether every source granule was good. -/
def State.placeOne (s : State) (p : Nat) (f : Facet) (r : PlaceRec) : Bool × State :=
  let blob := (f.blobs.find? (fun x => x.1 == r.blob)).map (·.2) |>.getD []
  if r.target ≤ 4 then
    (r.cores (s.rec_ p).blocks).zipIdx.foldl (fun (a : Bool × State) n =>
      let src := r.source + n.2 * r.stride
      if r.fromHbm then
        let q := a.2.loaderRead p src r.len
        (a.1 && q.2.1 == 0, q.2.2.putUnits 32 (placeBase 4 n.1 + r.dest) q.1)
      else (a.1, a.2.putUnits (if r.target = 4 then 32 else 8) (placeBase r.target n.1 + r.dest) (sub blob src r.len))) (true, s)
  else (true, s.partWrite p r.dest (sub blob r.source r.len))

/-- Every PLACE record in order; the first with a source granule that was not good, by its place among them. -/
def State.placeAll (s : State) (p : Nat) (f : Facet) : Option Nat × State :=
  f.place.zipIdx.foldl (fun (a : Option Nat × State) r =>
    let q := a.2.placeOne p f r.1
    (a.1.or (if q.1 then none else some r.2), q.2)) (none, s)

/-- The rejection for the i-th PLACE record of an image: its section, record and SOURCE field. -/
def placeRej (b : Bytes) (i : Nat) : Rej :=
  match ((fxOf b Sx.place).flatMap (fun x => (List.range (x.len / 32)).map (fun r => (x, r))))[i]? with
  | some (x, r) => ⟨0x38, x.idx, r, x.off + 32 * r + 16⟩
  | none => ⟨0x38, noSect, noRec, noOff⟩

/-! ## Weights (12 R378) -/

/-- A range of slice n: its bytes, and whether any beat is poisoned or uncorrectable. -/
def State.sliceRead (s : State) (n off len : Nat) : Bytes × Bool × State :=
  (List.range ((off % 32 + len + 31) / 32)).foldl (fun (a : Bytes × Bool × State) i =>
    let b := a.2.2.readBeat n (off / 32 * 32 + 32 * i)
    let lo := if i = 0 then off % 32 else 0
    let hi := min 32 (off + len - (off / 32 * 32 + 32 * i))
    (a.1 ++ sub b.1 lo (hi - lo), a.2.1 || b.2.1, b.2.2)) ([], false, s)

/-- The digest of a region, and whether all of it could be read. -/
def State.measure (s : State) (p : Nat) (r : Region) : Nat × Bool × State :=
  let units := if r.kind = 0 then (s.coresOf p).mergeSort.map (fun n => (n, r.base, r.len))
    else (List.range ((r.len + 0xFFFFF) / 0x100000)).map (fun i => (0, r.base + 0x100000 * i, min 0x100000 (r.len - 0x100000 * i)))
  let q := units.foldl (fun (a : Bytes × Bool × State) u =>
    if r.kind = 0 then
      let x := a.2.2.sliceRead u.1 u.2.1 u.2.2
      (a.1 ++ beBytes 48 (sha x.1), a.2.1 && !x.2.1, x.2.2)
    else
      let x := a.2.2.loaderRead p u.2.1 u.2.2
      (a.1 ++ beBytes 48 (sha x.1), a.2.1 && x.2.1 == 0, x.2.2)) ([], true, s)
  (sha q.1, q.2.1, q.2.2)

/-- Measures every weight region: the partition's weight digest, or the first failure, with its section. -/
def State.measureAll (s : State) (p sect off : Nat) (ws : List WeightRec) : Option Rej × Nat × State :=
  let q := ws.zipIdx.foldl (fun (a : Option Rej × Bytes × State) w =>
    match a.1 with
    | some _ => a
    | none =>
      let m := a.2.2.measure p w.1.region
      let bad : Option Rej :=
        if !m.2.1 then some ⟨0x38, sect, w.2, off + 96 * w.2⟩
        else if m.1 ≠ w.1.digest then some ⟨0x37, sect, w.2, off + 96 * w.2 + 32⟩ else none
      (bad, a.2.1 ++ beBytes 48 m.1, m.2.2)) (none, [], s)
  (q.1, sha q.2.1, q.2.2)

/-! ## What activation configures and resets (12 R377 steps 2, 3 and 5, 05 R141) -/

/-- A core's sequencer registers as its preload gives them. -/
def preloadSeq (q : SeqState) (b : Bytes) : SeqState :=
  let take (n w o : Nat) : List (Nat × Nat) := (List.range n).map (fun i => (i, hField b (o + w * i) w))
  { q with
    s := (take 32 4 0).foldl (fun m x => SMap.set 0 m x.1 (BitVec.ofNat 32 x.2)) [],
    a := (take 16 4 0x80).foldl (fun m x => SMap.set 0 m x.1 (BitVec.ofNat 32 x.2)) [],
    k := (take 16 2 0xC0).foldl (fun m x => SMap.set 0 m x.1 x.2) [],
    l := (take 4 2 0xE0).foldl (fun m x => SMap.set 0 m x.1 x.2) [],
    p := (List.range 8).foldl (fun m i => SMap.set false m i (decide (0 < i) && bitOf (hField b 0xE8 1) i)) [] }

/-- The registers of core n that activation clears. -/
def clearedRegs (n : Nat) : List Nat :=
  [Reg.arithFlags n, Reg.engineStatus n, Reg.seqStatus n, Reg.faultPc n, Reg.meshStatus n, Reg.meshFaultPc n]

/-- What CORE_START says of core n. -/
def startOf (f : Facet) (n : Nat) : CoreStart := (f.starts.find? (fun x => x.core == n)).getD ⟨n, 0, 0, none⟩

/-- Core n's entry bundle, preload (step 2) and append ring (step 3). -/
def State.startCore (s : State) (f : Facet) (n : Nat) : State :=
  let st := startOf f n
  let q := { SeqState.reset with next := st.bundle }
  let q := match st.preload with
    | some i => preloadSeq q (f.preloads.getD i [])
    | none => q
  let ring : Option Ring := match f.kv with
    | some k => (k.rings.find? (fun r => r.core == n)).map (fun r =>
        { data := r.data, tags := r.tags, n := r.n, rwd := r.rwd, rwt := r.rwt, wr := 0, taken := 0, freshData := [], freshTag := [] })
    | none => none
  s.setCore n { s.core n with seq := q, ring := ring }

/-- What facet f says of partition p's cores, DMA rings, append rings and collective contexts; step 3's logs, group and map are the facet's. -/
def State.configPart (s : State) (p : Nat) (f : Facet) : State :=
  let s := (s.coresOf p).foldl (fun s n => s.startCore f n) s
  let s := (s.enginesOf p).foldl (fun s d => s.setEngine d (match f.dma.find? (fun r => r.engine == d) with
    | some r => { Engine.reset with base := r.base, scratch := r.scratch, len := r.len, watch := r.watch }
    | none => Engine.reset)) s
  (s.ctxsOf p).foldl (fun s x => s.setColl x (match f.colls.find? (fun e => 32 * e.hub + e.ctx == x) with
    | some e => { CollCtx.reset with part := some p, entry := e.id }
    | none => CollCtx.reset)) s

/-- Core n and its router at the entry step of facet f, as the core has been configured. -/
def State.resetCore (s : State) (f : Facet) (n : Nat) : State :=
  let c := s.core n
  let q := { c.seq with step := BitVec.ofNat 64 f.glob.entryStep }
  let ring := c.ring.map (fun r => { r with wr := 0, taken := 0, freshData := [], freshTag := [] })
  let s := (clearedRegs n).foldl (fun s o => s.setReg o (regReset o)) s
  (s.setCore n { Core.reset with seq := q, ring := ring }).setRouter n { Router.reset with pc := (startOf f n).route }

/-- Everything of step 5 for partition p under facet f, its units configured. -/
def State.clearPart (s : State) (p : Nat) (f : Facet) : State :=
  let s := (s.coresOf p).foldl (fun s n => s.resetCore f n) s
  let s := s.setField (Reg.recovery p) 31 1 0
  let s := (s.attsOf p).foldl (fun s i => s.setAtt i Attach.reset) s
  let s := (s.xingsOf p).foldl (fun s e =>
    let i := xingId e.1 e.2
    s.setXing i { s.xing i with frames := [] }) s
  let s := (s.enginesOf p).foldl (fun s d =>
    let e := s.engine d
    (s.setEngine d { Engine.reset with base := e.base, scratch := e.scratch, len := e.len, watch := e.watch }).setReg (Reg.walkStatus d) 0) s
  let s := (s.ctxsOf p).foldl (fun s x =>
    let c := s.coll x
    (s.setColl x { CollCtx.reset with part := c.part, entry := c.entry }).setReg (Reg.collStatus x) 0) s
  let s := (s.coresOf p).foldl (fun s n => s.setSlice n { s.slice n with win := (0, 0) }) s
  s.setPart p { s.part p with
    paused := [], pauseBase := (0, 0), waitIv := [], throttleAt := 0, windowAt := 0, deferred := none, lastMark := none, freezeAt := 0, haltCut := none,
    haltEnd := false, testDone := false, run := none, stop := none, testPtr := s.pacing p, consumed := none, pass := none, passLast := none,
    compared := 0, reports := [], markBound := (0, []), logBound := (f.glob.entryStep, 0, []), logRecs := [], suspects := [], suspectSteps := [], ckptStep := none,
    noticed := [], late := [],
    replayLog := false, diffs := 0, firstDiff := none }

/-! ## FACET_ACTIVATE of a partition (12 R376–R380) -/

/-- Its connections (16 R499). -/
def State.connect (s : State) (p : Nat) (f : Facet) : State :=
  let s := { s with conns := s.conns.filter (fun c => c.part != p) }
  f.colls.foldl (fun s e => [e.next, e.prev].foldl (fun s y =>
    if (s.connIdx p (addrDev y) (addrPart y) e.job e.chan).isSome then s
    else { s with conns := s.conns ++ [Conn.new p (addrDev y) (addrPart y) e.job e.chan s.timebase] }) s) s

/-- Its membership (11 R341). -/
def State.joinGroup (s : State) (p : Nat) (f : Facet) : State :=
  let w := s.reg (Reg.replica p)
  let v := match f.replica with
    | some g => setBits (setBits w 16 16 (2 ^ g.m - 1)) 12 4 g.member
    | none => setBits (setBits w 16 16 0) 12 4 0
  s.setReg (Reg.replica p) (setBits v 11 1 0)

/-- The core memories and slices of p are cleared. -/
def State.zeroPart (s : State) (p : Nat) : State := (s.coresOf p).foldl (fun s n => (s.zeroCore n).zeroSlice n) s

/-- A failed activation (12 R379): what the failed facet configured goes with it. -/
def State.rollback (s : State) (p : Nat) : State :=
  let s := s.zeroPart p
  let s := (s.chansOf p).foldl (fun s c => s.cloveIdle c) s
  let s := s.setPart p { s.part p with
    state := .configured, staged := none, facet := Facet.none, facetDigest := 0, weightDigest := 0, imageId := 0, signed := false }
  let s := ((s.configPart p Facet.none).connect p Facet.none).joinGroup p Facet.none
  s.setBlocksNow p .off

/-- The Clove records of a facet; the first image that is rejected. A core of the partition without a record loses its mailbox and its program
(12 R364). -/
def State.loadCloves (s : State) (p : Nat) (f : Facet) : Option CloveRec × State :=
  let s : State := ((s.chansOf p).filter (fun c => !f.cloves.any (fun r => r.chan == c))).foldl (fun (s : State) c => (s.dropMailbox c).cloveIdle c) s
  f.cloves.foldl (fun (a : Option CloveRec × State) (r : CloveRec) =>
    if a.1.isSome then a else
    let img := (f.blobs.find? (fun x => x.1 == r.image)).map (·.2) |>.getD []
    if r.tenant ∧ !cloveImageOk img then (some r, a.2)
    else (none, a.2.cloveInstall r.chan r.chbase r.mbase r.csbase (if r.limit = 0 then 1000000 else r.limit) (if r.tenant then some img else none)))
    (none, s)

/-- The reread of a staged copy (12 R377): a granule that is not good, or a section whose digest differs; and what the reread is said to
find in section `sect`, 1 an uncorrectable granule or 2 another digest. -/
def State.reread (s : State) (img : Staged) (bad sect : Nat) : Option Rej × State :=
  let r := s.stagedRead img.ext
  let said : Option Rej := if bad = 0 then none else some ⟨if bad = 1 then 0x04 else 0x13, sect, noRec, noOff⟩
  (said.or ((stagingError img.bytes r.2.1).or (firstBad (digestChecks r.1))), r.2.2)

/-- The work of FACET_ACTIVATE on partition p with its staged image. `bad` and `sect` say what the reread finds. -/
def State.activate (s : State) (via : Via) (p : Nat) (img : Staged) (bad sect : Nat) : Result × State :=
  let b := img.bytes
  let f := parseFacet b
  let undo (s : State) (r : Rej) : Result × State := (rejected via f.imageId r, s.rollback p)
  let s := (s.setBlocksNow p .active).zeroPart p
  -- this command counts, whether it succeeds or not (16 R499)
  let s := s.setPart p { s.part p with facet := f, inc := ((s.part p).inc + 1) % 65536 }
  let re := s.reread img bad sect
  let s := re.2
  match re.1 with
  | some r => undo s r
  | none =>
  let placed := s.placeAll p f
  let s := placed.2
  match placed.1 with
  | some i => undo s (placeRej b i)
  | none =>
  let s := ((s.configPart p f).connect p f).joinGroup p f
  let cl := s.loadCloves p f
  let s := cl.2
  match cl.1 with
  | some r => undo s ⟨0x30, r.image, noRec, noOff⟩
  | none =>
    let wsec := (fxOf b Sx.weights).head?
    let m := s.measureAll p (match wsec with | some x => x.idx | none => noSect) (match wsec with | some x => x.off | none => 0) f.weights
    let s := m.2.2
    match m.1 with
    | some r => undo s r
    | none =>
      let s := s.clearPart p f
      let s := s.setPart p { s.part p with
        state := .loaded, staged := none, facetDigest := img.digest, weightDigest := m.2.1, imageId := f.imageId, signed := fxSigned b,
        entryStep := BitVec.ofNat 64 f.glob.entryStep, relocated := false, stepLogPos := 0, collLog := [], collLogPos := 0 }
      let s := (s.setBlocksNow p .retain).announceAll p (fun _ _ => true)
      (⟨St.ok, 0, facetRecord 0 noSect noRec noOff img.digest m.2.1 f.imageId⟩, s)

/-- The fill of the partition's channels under a new memory key is not over (15 R464). -/
def State.filling (s : State) (p : Nat) : Bool := (s.chansOf p).any (fun c => (s.chan c).fillDue)

/-- Another command in flight holds something of partition p (12 R376, 14 R444). -/
def State.otherCmd (s : State) (k p : Nat) : Bool :=
  s.loupe.inflight.zipIdx.any (fun c => c.2 != k && !c.1.holds.isEmpty && cmdPart c.1.via c.1.opcode c.1.entry == some p)

/-- A block of partition p has been retired (19 R601). -/
def State.lostBlock (s : State) (p : Nat) : Bool := (s.blocksOf p).any (fun b => (s.block b).state == .retired)

/-- FACET_ACTIVATE (12 R377) of a partition. It waits for Clove cores of the partition that run a command (09 R281). -/
def execFacetActivate (k : Nat) (bad : Fin 3) (sect : Nat) (s : State) : Host.Outcome State Fault Refusal :=
  match s.cmd k with
  | none => .next s
  | some c =>
    match cmdPart c.via Op.facetActivate c.entry with
    | none => .next s
    | some p =>
      let ready := (s.part p).staged.isNone || (s.chansOf p).all (fun ch => (s.clove ch).held.isNone || (s.clove ch).halted)
      if !ready ∨ s.power.brownout then .next s else
      .next (s.perform k Op.facetActivate (fun e => ef e 8 1 < 128) (fun s c =>
        if ¬ s.partIn p [.configured, .loaded, .stopped, .faulted] ∨ s.otherCmd k p ∨ s.filling p then (busyOf Op.facetActivate, s) else
        -- what completes with BUSY or for want of an image changes nothing (12 R376); every other completion ends the staging (12 R373)
        if s.lostBlock p ∧ (s.part p).staged.isSome then
          (⟨St.noResource, 0, facetRecord 0 noSect noRec noOff 0 0 0⟩, s.putStaged (some p) none) else
        match (s.part p).staged with
        | none => (rejected c.via 0 ⟨0x51, noSect, noRec, noOff⟩, s)
        | some i =>
          if fxBlocks i.bytes ≠ (s.rec_ p).blocks then (rejected c.via (fxId i.bytes) ⟨0x31, noSect, noRec, 24⟩, s.putStaged (some p) none)
          else s.activate c.via p i bad.val sect))

/-! ## FACET_ACTIVATE of the device (12 R381, R382) -/

/-- The partition that a device facet gives a module (06 R196), when it exists. -/
def State.xingUnder (s : State) (d : DevFacet) (e m : Nat) : Option Nat := { s with devFacet := d }.xingPart e m

/-- What the new facet d says keeps 12 R381: of partition p, of the plan of a module in a direction, and of the service ranges. -/
def State.livePart (s : State) (d : DevFacet) (p : Nat) : Bool :=
  (s.part p).state == .empty || SMap.get PartRec.none d.parts p == s.rec_ p
def State.livePlan (s : State) (d : DevFacet) (e m dir : Nat) : Bool :=
  let o := s.devFacet
  d.plan e m dir == o.plan e m dir || ((s.xingUnder o e m).isNone && (s.xingUnder d e m).isNone)
def State.liveService (s : State) (d : DevFacet) : Bool :=
  let o := s.devFacet
  (d.svcChannels == o.svcChannels && d.seqtab == o.seqtab && d.stageBase == o.stageBase && d.stageLen == o.stageLen) ||
    (List.range 64).all (fun p => (s.part p).state == .empty)

/-- The new facet meets 12 R381. -/
def State.devLive (s : State) (d : DevFacet) : Bool :=
  (List.range 64).all (fun p => s.livePart d p) &&
  (List.range 14).all (fun e => (List.range (if e < 10 then 16 else 8)).all (fun m => [0, 1].all (fun dir => s.livePlan d e m dir))) &&
  s.liveService d

/-- The rejection of a device image b that does not: where the record that breaks it stands, if one does. -/
def State.liveRej (s : State) (b : Bytes) : Rej :=
  let d := parseDev b
  let at_ (typ size : Nat) (bad : Option Nat) : Rej :=
    match (fxOf b typ).head?, bad with
    | some x, some r => ⟨0x44, x.idx, r, x.off + size * r⟩
    | some x, none => ⟨0x44, x.idx, noRec, noOff⟩
    | none, _ => ⟨0x44, noSect, noRec, noOff⟩
  match (List.range 64).find? (fun p => !s.livePart d p) with
  | some p => at_ Sx.devPartitions 256 (some p)
  | none =>
    if s.liveService d then
      at_ Sx.xingPlans 8 ((recs (fxOne b Sx.xingPlans) 8).findIdx? (fun r => !s.livePlan d (hField r 0 1) (hField r 1 1) (hField r 2 1)))
    else at_ Sx.service 128 none

/-- Range a to a + n of HBM written with zeros, and its lines dropped from the common cache. -/
def State.zeroHbm (s : State) (a n : Nat) : State := { s with mem := s.mem.zero a (a + n) }.invalidate a n

def execFacetActivateDevice (k : Nat) (bad : Fin 3) (sect : Nat) (s : State) : Host.Outcome State Fault Refusal :=
  .next (s.perform k Op.facetActivate (fun e => 128 ≤ ef e 8 1) (fun s c =>
    if s.dev ≠ .staging ∧ s.dev ≠ .ready then (busyOf Op.facetActivate, s) else
    match s.loupe.devImage with
    | none => (rejected c.via 0 ⟨0x51, noSect, noRec, noOff⟩, s)
    | some i =>
      let id := fxId i.bytes
      let d := parseDev i.bytes
      -- BUSY changes nothing (12 R381)
      if !s.devLive d then (rejected c.via id (s.liveRej i.bytes), s) else
      let re := (s.putStaged none none).reread i bad.val sect
      let s := re.2
      match re.1 with
      | some r => (rejected c.via id r, s)
      | none =>
      let o := s.devFacet
      let moved := d.seqtab ≠ o.seqtab ∨ d.svcChannels ≠ o.svcChannels ∨ d.stageBase ≠ o.stageBase ∨ d.stageLen ≠ o.stageLen
      let s := (List.range 64).foldl (fun s p =>
        if SMap.get PartRec.none d.parts p = s.rec_ p then s else s.putStaged (some p) none) s
      let s := { s with devFacet := d, loupe := { s.loupe with devDigest := i.digest, devOn := true } }
      let s := if moved then s.zeroHbm d.seqtab 0x8000000 else s
      (⟨St.ok, 0, facetRecord 0 noSect noRec noOff i.digest 0 id⟩, s)))

/-! ## CLOVE_LOAD (09 R281, 14 R445) -/

/-- CLOVE_LOAD: the command waits for the one its core runs; the image is what the host answers from HOSTADDR. -/
def execCloveLoad (k : Nat) (img : List Byte) (kind : HostKind) (s : State) : Host.Outcome State Fault Refusal :=
  match s.cmd k with
  | none => .next s
  | some c =>
    let e := c.entry
    let p := (cmdPart c.via Op.cloveLoad e).getD 0
    let ch := 32 * ef e 9 1 + ef e 10 1
    let x := s.clove ch
    if c.opcode ≠ Op.cloveLoad then .next s else
    if x.held.isSome ∧ s.partOfChan ch = some p ∧ !x.halted then .next s else
    .next (s.perform k Op.cloveLoad (fun _ => true) (fun s _ =>
      -- a load that fails leaves a HALTED core HALTED: what waited meanwhile completes with FAULTED (09 R280)
      let fail (st : Nat) : Result × State := (Sys2Proof.Machine.fail st, if s.partOfChan ch = some p ∧ (s.clove ch).halted then s.cFlush ch 16 else s)
      let len := ef e 24 4
      let lim := ef e 12 4
      let mb := ef e 32 8
      if s.partIn p [.empty, .retiring] ∨ s.filling p then fail St.busy
      else if 15 < ef e 9 1 ∨ 31 < ef e 10 1 ∨ 1 < ef e 11 1 ∨ 60000000 < lim ∨ ef e 16 8 % 64 ≠ 0 ∨ mb % 128 ≠ 0 ∨
          (ef e 11 1 = 0 ∧ len ≠ 0) then fail St.badArgument
      else if s.partOfChan ch ≠ some p ∨ !s.chanUp ch ∨ ((s.translateRange p mb 1152 .write).filter (fun x => x.2.typ == 1)).isNone then fail St.badArgument
      else if ef e 11 1 = 0 then (okWith [], s.cloveInstall ch (ef e 28 4) mb (ef e 40 4) lim none)
      else if kind = .poisoned then fail St.poisoned
      else if kind = .aborted then fail St.uncorrectable
      else
        let b := (img ++ List.replicate (len - img.length) 0).take len
        if !cloveImageOk b then fail St.imageInvalid
        else (okWith [], s.cloveInstall ch (ef e 28 4) mb (ef e 40 4) lim (some b))))

end Sys2Proof.Machine
end

