-- ==== Sys2Proof/Machine/Run.lean ====
section
/-! DEFINITION. Running a partition: RUN, STOP, RESUME, REPLAY, and the checkpoints they write and read (11 R342–R349, 14 R433–R438). -/

namespace Sys2Proof.Machine

/-! ## The core record (11 R343) -/

def zeros (n : Nat) : Bytes := List.replicate n 0
/-- n values of w bytes each. -/
def vals (n w : Nat) (f : Nat → Nat) : Bytes := (List.range n).flatMap (fun i => leBytes w (f i))
/-- Filled with zeros to a length. -/
def padTo (n : Nat) (b : Bytes) : Bytes := b ++ zeros (n - b.length)
def ofInt64 (i : Int) : Nat := (BitVec.ofInt 64 i).toNat
def toInt64 (n : Nat) : Int := sext 64 n

def tileLane (c : Core) (i k : Nat) : Lane := SMap.get Lane.zero (SMap.get Tile.reset c.eng.tiles i).lanes k

/-- The 16 KiB of a core and its router. -/
def coreRecord (c : Core) (r : Router) : Bytes :=
  let q := c.seq
  let tile (i : Nat) : Tile := SMap.get Tile.reset c.eng.tiles i
  let set (n : Nat) (f : Nat → Bool) : Nat := (List.range n).foldl (fun a i => a + b2n (f i) * 2 ^ i) 0
  let head := vals 32 4 (fun i => (SMap.get 0 q.s i).toNat) ++ vals 16 4 (fun i => (SMap.get 0 q.a i).toNat) ++ vals 16 2 (SMap.get 0 q.k) ++
    vals 4 2 (SMap.get 0 q.l) ++ leBytes 2 (set 8 c.p) ++ leBytes 2 q.next ++
    leBytes 4 (set 4 (fun i => (tile i).isInt) + 16 * set 4 (fun i => (tile i).chkValid) +
      256 * ((List.range 4).map (fun i => 4 ^ i * ((tile i).chkTol % 4))).sum + 2 ^ 16 * SMap.get 0 c.eng.chFmt 0 + 2 ^ 24 * SMap.get 0 c.eng.chFmt 1) ++
    leBytes 8 q.step.toNat ++ leBytes 8 0
  let regs := vals 1024 4 (fun i => (SMap.get Lane.zero q.v i).val.toNat) ++
    vals 32 4 (fun r => set 32 (fun i => (SMap.get Lane.zero q.v (32 * r + i)).poison)) ++ zeros 0x80
  let tiles := (List.range 4).flatMap (fun i => vals 256 4 (fun k => (tileLane c i k).val.toNat)) ++
    (List.range 4).flatMap (fun i => vals 16 8 (fun k => ofInt64 (SMap.get 0 (tile i).cc k)) ++ vals 16 8 (fun k => ofInt64 (SMap.get 0 (tile i).cr k)))
  let vecs := vals 512 4 (fun i => (SMap.get Lane.zero c.eng.m i).val.toNat) ++ vals 512 2 (fun i => (SMap.get Lane.zero c.eng.ch i).val.toNat % 65536)
  -- a rank that is not held reads as empty (04 R123)
  let topk := (List.range 64).flatMap (fun i =>
    let k := c.vec.topk.getD i Cand.empty
    leBytes 4 k.val.toNat ++ leBytes 4 k.idx.toNat)
  let h (i : Nat) : Flit := SMap.get Flit.empty r.h i
  let route := leBytes 2 r.pc ++ leBytes 2 r.runLeft ++ leBytes 4 (SMap.get 0 r.rl 0) ++ leBytes 4 (SMap.get 0 r.rl 1) ++
    leBytes 4 (set 2 (SMap.get false r.act)) ++ leBytes 64 (h 0).pay.toNat ++ leBytes 64 (h 1).pay.toNat ++
    leBytes 1 (h 0).valid.toNat ++ leBytes 1 (h 1).valid.toNat ++ leBytes 1 (b2n (h 0).poison) ++ leBytes 1 (b2n (h 1).poison) ++ zeros 12
  let ring := match c.ring with
    | some g => leBytes 4 g.wr ++ leBytes 4 g.taken
    | none => zeros 8
  padTo 0x4000 (head ++ regs ++ tiles ++ vecs ++ topk ++ route ++ vals 16 4 (SMap.get 0 r.off) ++ ring ++ leBytes 1 (b2n c.vec.topkPoi))

def laneMap (n : Nat) (f : Nat → Lane) : SMap Lane := (List.range n).foldl (fun m i => SMap.set Lane.zero m i (f i)) []

/-- A core as its record says, on the core as activation resets it; u is the partition's unpaused cycle. -/
def coreOf (c : Core) (b : Bytes) (u : Nat) : Core :=
  let f (o n : Nat) : Nat := hField b o n
  let w := f 0xEC 4
  let tile (i : Nat) : Tile :=
    { lanes := laneMap 256 (fun k => ⟨BitVec.ofNat 32 (f (0x1200 + 1024 * i + 4 * k) 4), false⟩), isInt := bitOf w i, chkValid := bitOf w (4 + i),
      chkTol := w / 2 ^ (8 + 2 * i) % 4,
      cc := (List.range 16).foldl (fun m k => SMap.set 0 m k (toInt64 (f (0x2200 + 256 * i + 8 * k) 8))) [],
      cr := (List.range 16).foldl (fun m k => SMap.set 0 m k (toInt64 (f (0x2280 + 256 * i + 8 * k) 8))) [], chkBad := [] }
  let q := preloadSeq c.seq b
  let q := { q with
    v := laneMap 1024 (fun i => ⟨BitVec.ofNat 32 (f (0x100 + 4 * i) 4), bitOf (f (0x1100 + 4 * (i / 32)) 4) (i % 32)⟩),
    next := f 0xEA 2 % 1024, step := BitVec.ofNat 64 (f 0xF0 8), now := u }
  let e := { EngState.reset with
    tiles := (List.range 4).map (fun i => (i, tile i)), m := laneMap 512 (fun i => ⟨BitVec.ofNat 32 (f (0x2600 + 4 * i) 4), false⟩),
    ch := laneMap 512 (fun i => ⟨BitVec.ofNat 32 (f (0x2E00 + 2 * i) 2), false⟩),
    chFmt := SMap.set 0 (SMap.set 0 [] 0 (w / 2 ^ 16 % 256)) 1 (w / 2 ^ 24 % 256) }
  let ring := c.ring.map (fun g =>
    let wr := f 0x34E0 4
    let tk := f 0x34E4 4
    let live := (List.range (wr - tk)).map (fun i => (tk + i) % max 1 g.n)
    let fresh := live.foldl (fun m i => SMap.set false m i true) []
    { g with wr := wr, taken := tk, freshData := fresh, freshTag := fresh })
  { c with
    seq := q, eng := e, ring := ring,
    vec := { c.vec with topk := ((List.range 64).map (fun i => Cand.mk (BitVec.ofNat 32 (f (0x3200 + 8 * i) 4)) (BitVec.ofNat 32 (f (0x3204 + 8 * i) 4)) false)).filter (· != Cand.empty),
                        topkPoi := f 0x34E8 1 % 2 == 1 } }

def routerOf (r : Router) (b : Bytes) (u : Nat) : Router :=
  let f (o n : Nat) : Nat := hField b o n
  let h (i : Nat) : Flit :=
    let v := f (0x3490 + i) 1
    let pay := BitVec.ofNat 512 (f (0x3410 + 64 * i) 64)
    let poi := f (0x3492 + i) 1 != 0
    if v = 0 then Flit.empty else ⟨pay, BitVec.ofNat 2 v, poi, Flit.sum pay poi⟩
  { r with
    pc := f 0x3400 2 % 1024, runLeft := f 0x3402 2, rl := SMap.set 0 (SMap.set 0 [] 0 (f 0x3404 4)) 1 (f 0x3408 4),
    act := SMap.set false (SMap.set false [] 0 (bitOf (f 0x340C 4) 0)) 1 (bitOf (f 0x340C 4) 1),
    h := SMap.set Flit.empty (SMap.set Flit.empty [] 0 (h 0)) 1 (h 1),
    off := (List.range 16).foldl (fun m i => SMap.set 0 m i (f (0x34A0 + 4 * i) 4)) [], now := u }

/-! ## Places of a checkpoint (11 R343, R344). The spec names the bases; the model puts a core's record first, its SRAM next and its
SLICE regions after them, and the other regions after the partition record, each on a 64-byte boundary. -/

def up64 (n : Nat) : Nat := (n + 63) / 64 * 64
def recBytes : Nat := 0x4000

/-- Where a region's copy lies: in the per-core area, or from the partition record. -/
def ckptPlaces (rs : List Region) (seqLen : Nat) : List (Region × Nat × Nat) :=
  (rs.foldl (fun (a : List (Region × Nat × Nat) × Nat × Nat) r =>
    match r.kind with
    | 0 => (a.1 ++ [(r, recBytes + r.base, r.len)], a.2)
    | 1 => (a.1 ++ [(r, a.2.1, r.len)], up64 (a.2.1 + r.len), a.2.2)
    | k => let n := if k = 4 then seqLen else r.len
      (a.1 ++ [(r, a.2.2, n)], a.2.1, up64 (a.2.2 + n))) ([], recBytes + sramBytes, 4096)).1

/-- Bytes that a core's copy takes. -/
def ckptStride (rs : List Region) : Nat := rs.foldl (fun a r => if r.kind = 1 then up64 (a + r.len) else a) (recBytes + sramBytes)

/-- The rows of a core's copy: 32 bytes each, poisoned where what they copy is, the checks of its SRAM counted (07 R209). -/
def State.coreCopy (s : State) (n : Nat) (rs : List Region) : List (Bytes × Bool) × State :=
  let recd := (chunks 32 (coreRecord (s.core n) (s.router n))).map (fun c => (c, false))
  let sram := (List.range (sramBytes / 32)).foldl (fun (a : List (Bytes × Bool) × State) i =>
    let r := a.2.readSram n (32 * i) 4
    (a.1 ++ [(r.1, r.2.1.any id)], r.2.2)) ([], s)
  (rs.filter (fun r => r.kind == 1)).foldl (fun (a : List (Bytes × Bool) × State) r =>
    let beats := (List.range (r.len / 32)).foldl (fun (b : List (Bytes × Bool) × State) i =>
      let x := b.2.readBeat n (r.base + 32 * i)
      (b.1 ++ [(x.1, x.2.1)], x.2.2)) ([], a.2)
    let short := (up64 r.len - r.len) / 32
    (a.1 ++ beats.1 ++ List.replicate short (zeros 32, false), beats.2)) (recd ++ sram.1, sram.2)

/-- Partition-relative memory written with poison. -/
def State.partPoison (s : State) (p pa : Nat) (b : Bytes) (poi : Bool) : State :=
  match s.windowOf p pa with
  | some w => s.ccWrite none (w.dbase * 0x10000 + (pa - w.pbase * 0x10000)) b poi
  | none => s

/-- Copies n bytes by granule from a source to partition-relative memory, poison with them. -/
def State.copyOut (s : State) (p dst n : Nat) (read : State → Nat → Nat → Bytes × Nat × State) : State :=
  (List.range ((n + 63) / 64)).foldl (fun s i =>
    let r := read s (64 * i) (min 64 (n - 64 * i))
    r.2.2.partPoison p (dst + 64 * i) r.1 (r.2.1 != 0)) s

/-- The source of a region outside the cores. -/
def State.regionRead (p : Nat) (r : Region) (s : State) (o n : Nat) : Bytes × Nat × State :=
  if r.kind = 4 then s.ccRead none (s.seqAddr (s.rec_ p).seqBase + o) n else s.partRead p (r.base + o) n

/-- The partition record. A region's copy address is where its copy begins: of a SLICE region, in the first core's copy (11 R343). -/
def State.partRecord (s : State) (p : Nat) (hbm : Bool) (prec cbase : Nat) : Bytes :=
  let x := s.part p
  let f := x.facet
  let places := ckptPlaces f.ckpt (128 * (s.rec_ p).seqCount)
  let every := match f.replica with | some g => g.every | none => 1
  padTo 4096 (leBytes 4 1 ++ leBytes 4 (b2n hbm) ++ leBytes 8 (s.stepOf p) ++ leBytes 8 (s.uOf p) ++ leBytes 8 x.seed.toNat ++ leBytes 4 x.testPtr ++
    leBytes 4 0 ++ beBytes 48 x.facetDigest ++ beBytes 48 x.weightDigest ++ leBytes 32 (s.rec_ p).blocks ++
    vals 8 4 (fun t => (s.reg (Reg.tileRepair t)).toNat) ++ leBytes 8 cbase ++ zeros 304 ++
    vals 192 4 (fun d => if bitOf (s.rec_ p).engines d then (s.engine d).pos else 0xFFFFFFFF) ++
    vals 64 8 (fun i => match f.colls.find? (fun e => e.id == i) with
      | some e => (s.coll (32 * e.hub + e.ctx)).next
      | none => 0) ++
    leBytes 8 (s.stepOf p / every) ++ zeros 248 ++
    places.flatMap (fun q => leBytes 8 q.1.kind ++ leBytes 8 q.1.base ++ leBytes 8 q.2.2 ++ leBytes 8 ((if q.1.kind ≤ 1 then cbase else prec) + q.2.1)))

/-- Writes a checkpoint (11 R343, R344). -/
def State.writeCkpt (s : State) (p : Nat) (r : StopReq) : State :=
  let f := (s.part p).facet
  let rec_ := s.partRecord p (!r.inSlice) r.prec r.cbase
  let stride := ckptStride f.ckpt
  let s := (s.coresOf p).mergeSort.zipIdx.foldl (fun s n =>
    let c := s.coreCopy n.1 f.ckpt
    c.1.zipIdx.foldl (fun s row =>
      if r.inSlice then s.writeBeat n.1 (r.cbase + 32 * row.2) row.1.1 row.1.2
      else s.partPoison p (r.cbase + stride * n.2 + 32 * row.2) row.1.1 row.1.2) c.2) s
  let s := (ckptPlaces f.ckpt (128 * (s.rec_ p).seqCount)).foldl (fun s q =>
    if q.1.kind ≤ 1 then s else s.copyOut p (r.prec + q.2.1) q.2.2 (fun s o n => State.regionRead p q.1 s o n)) s
  let s := s.partWrite p r.prec rec_
  s.setPart p { s.part p with ckpts := (s.part p).ckpts ++ [(r.prec, r.inSlice)] }

/-! ## Starting and stopping -/

/-- Every block of a partition is ACTIVE. -/
def State.blocksUp (s : State) (p : Nat) : Bool :=
  (s.blocksOf p).all (fun b => (s.block b).state == .active && (s.block b).target == .active && !(s.block b).fillCore)

/-- Every core and router of a partition has reached the cut. -/
def State.settled (s : State) (p : Nat) : Bool :=
  (s.coresOf p).all (fun n => decide ((s.part p).freezeAt ≤ (s.core n).seq.now) && decide ((s.part p).freezeAt ≤ (s.router n).now))

/-- The instance of a collective entry that a partition at a step starts next (11 R327). -/
def CollEntry.first (e : CollEntry) (step : Nat) : Nat := if step < e.step0 then 0 else (step - e.step0) / max 1 e.period + 1

/-- Partition p runs from where it stands: POISON_SEEN is cleared (17 R525, R530). -/
def State.launch (s : State) (p : Nat) (via : Via) (cid : Nat) (until_ : Option (BitVec 64)) (replay : Bool) : State :=
  let x := s.part p
  let run : RunCmd := ⟨via, cid, BitVec.ofNat 64 (s.stepOf p), s.uOf p, x.pauseTotal, until_, replay, none⟩
  let s := s.setField (Reg.partFault p) 23 1 0
  (s.setPart p { x with run := some run, stop := none, consumed := none, haltCut := none, suspect0 := 0 }).move p .running

/-- Every core and route program of p starts (05 R141, 06 R172). -/
def State.startUnits (s : State) (p : Nat) : State :=
  (s.coresOf p).foldl (fun s n =>
    let s := s.setCore n { s.core n with seq := { (s.core n).seq with running := true } }
    (s.setRouter n { s.router n with running := true }).primeRouter n) s

/-- A STOP of p that was begun has no result yet: what restarts p waits for it. -/
def State.stopOpen (s : State) (p : Nat) : Bool :=
  s.loupe.inflight.any (fun c => c.opcode == Op.stop && c.begun && c.result.isNone && cmdPart c.via Op.stop c.entry == some p)

/-- A run command that waits for its blocks: its checks give a result, or it asks for them and starts once they are ACTIVE. -/
def State.runCommand (s : State) (k op : Nat) (form : BitVec 512 → Bool) (check : State → InFlight → Nat → Option Result)
    (go : State → InFlight → Nat → State) : State :=
  match s.cmd k with
  | none => s
  | some c =>
    let p := (cmdPart c.via op c.entry).getD 0
    if c.opcode ≠ op ∨ c.result.isSome ∨ c.aux ≠ 0 ∨ !form c.entry then s else
    match (if c.begun then none else check s c p) with
    | some r => s.finish k r
    | none =>
      let s := if c.begun then s else (s.setCmd k { c with begun := true }).retargetAll p .active
      if s.blocksUp p ∧ !s.stopOpen p then (go s c p).setCmd k { c with begun := true, aux := 1 } else s

/-- What a repair of its cores keeps a partition from running on (19 R600, R601). -/
def State.repairBar (s : State) (p : Nat) : Option Result :=
  if (s.part p).relocated then some (fail St.badArgument) else if s.lostBlock p then some (fail St.noResource) else none

/-- RUN (14 R433). -/
def execRun (k : Nat) (s : State) : Host.Outcome State Fault Refusal :=
  .next (s.runCommand k Op.run (fun _ => true)
    (fun s c p =>
      if ¬ s.partIn p [.loaded] then some (fail St.busy)
      else if ef c.entry 9 1 % 2 = 1 ∧ ef c.entry 24 8 ≤ (s.part p).entryStep.toNat then some (fail St.badArgument)
      else s.repairBar p)
    (fun s c p =>
      let x := s.part p
      let step := x.entryStep.toNat
      let s := s.setPart p { x with seed := BitVec.ofNat 64 (ef c.entry 16 8), haltEnd := false, logBound := (step, 0, []) }
      let s := (s.ctxsOf p).foldl (fun s i =>
        match s.collEntry i with
        | some (_, e) => s.setColl i { s.coll i with next := e.first step }
        | none => s) s
      let until_ := if ef c.entry 9 1 % 2 = 1 then some (BitVec.ofNat 64 (ef c.entry 24 8)) else none
      (s.launch p c.via c.cid until_ false).startUnits p))

/-- RESUME (14 R438). -/
def execResume (k : Nat) (s : State) : Host.Outcome State Fault Refusal :=
  .next (s.runCommand k Op.resume (fun _ => true)
    (fun s _ p =>
      if ¬ s.partIn p [.paused, .stopped] then some (fail St.busy)
      else if (s.part p).haltEnd then some (fail St.badArgument) else s.repairBar p)
    -- what a LOGGED replay took from the log comes from the fabric again (11 R345)
    (fun s c p => (s.setPart p { s.part p with replayLog := false }).launch p c.via c.cid none false))

/-! ## STOP (14 R435–R437) -/

/-- Units of partition p with work that has not ended (14 R436): kind, unit, position, bytes delivered. -/
def State.outstanding (s : State) (p : Nat) : List (Nat × Nat × Nat × Nat) :=
  let es := (s.enginesOf p).filter (fun d => (s.engine d).active) |>.map (fun d =>
    let e := s.engine d
    (d, if dOp e.desc = 3 then 2 else 1, e.pos, e.bytes))
  let cs := (s.ctxsOf p).filter (fun x => (s.coll x).running) |>.map (fun x => (x, 3, (s.coll x).inst, (s.coll x).delivered))
  ((es ++ cs).mergeSort (fun a b => decide (a.1 < b.1) || (a.1 == b.1 && decide (a.2.1 ≤ b.2.1)))).map (fun r => (r.2.1, r.1, r.2.2.1, r.2.2.2))

/-- Writes the outstanding-work list from SNAP; how many records. -/
def State.writeSnap (s : State) (p snap : Nat) : Nat × State :=
  if snap = 0 then (0, s) else
  let rs := s.outstanding p
  (rs.length, s.partWrite p snap (rs.flatMap (fun r => leBytes 1 r.1 ++ leBytes 1 r.2.1 ++ leBytes 2 0 ++ leBytes 4 r.2.2.1 ++ leBytes 8 r.2.2.2)))

/-- The addresses of a STOP are in range. -/
def State.stopArgs (s : State) (p : Nat) (e : BitVec 512) : Bool :=
  let fl := ef e 10 1
  let f := (s.part p).facet
  let prec := ef e 16 8
  let cbase := ef e 24 8
  let stride := ckptStride f.ckpt
  let w (pa n : Nat) : Bool := reaches (f.memmap.map Window.of) 0 pa n wWrite
  (fl % 2 == 0 || (prec % 4096 == 0 && w prec 4096 &&
    (if fl / 2 % 2 = 0 then cbase % 32 == 0 && decide (cbase + stride ≤ sliceBytes) else w cbase (stride * (s.coresOf p).length)))) &&
  (ef e 32 8 == 0 || (s.translate p (ef e 32 8) .write).isSome)

/-- STOP with MODE 0 (14 R435). -/
def execStopStepBoundary (k : Nat) (s : State) : Host.Outcome State Fault Refusal :=
  .next (s.start k Op.stop (fun e => ef e 9 1 == 0) (fun s c =>
    let e := c.entry
    let p := (cmdPart c.via Op.stop e).getD 0
    if ¬ s.partIn p [.running] then (some (fail St.busy), 0, 0, s)
    else if !s.stopArgs p e then (some (fail St.badArgument), 0, 0, s)
    else
      let fl := ef e 10 1
      let r : StopReq := { immediate := false, ckpt := fl % 2 == 1, inSlice := fl / 2 % 2 == 0, prec := ef e 16 8, cbase := ef e 24 8,
                           snap := ef e 32 8, armed := false, armedAt := 0, late := false, ended := none, wrote := false, saved := false, snaps := 0 }
      (none, 0, 0, s.setPart p { s.part p with stop := some r })))

/-- STOP with MODE 1 (14 R435). -/
def execStopImmediate (k : Nat) (s : State) : Host.Outcome State Fault Refusal :=
  .next (s.start k Op.stop (fun e => ef e 9 1 == 1) (fun s c =>
    let p := (cmdPart c.via Op.stop c.entry).getD 0
    if ¬ s.partIn p [.running] then (some (fail St.busy), 0, 0, s)
    else if ef c.entry 10 1 % 2 = 1 ∨ !s.stopArgs p c.entry then (some (fail St.badArgument), 0, 0, s)
    else (none, 0, 0, s)))

/-- Partition p freezes on one cycle (14 R435). -/
def State.freeze (s : State) (p : Nat) (st : PState) : State :=
  let x := (s.part p).endRun (if st = .paused then 3 else 5)
  (s.setPart p { x with freezeAt := s.farthest p, stop := x.stop.map (fun r => { r with ended := r.ended.or (some St.busy) }) }).move p st

/-- STOP_TAKES_EFFECT (14 R435): 2 to 5 µs after its fetch. -/
def execStopTakesEffect (k : Nat) (s : State) : Host.Outcome State Fault Refusal :=
  match s.cmd k with
  | none => .next s
  | some c =>
    let p := (cmdPart c.via Op.stop c.entry).getD 0
    if c.opcode ≠ Op.stop ∨ !c.begun ∨ c.result.isSome ∨ s.timebase < c.at_ + 2000 ∨ c.aux ≠ 0 then .next s
    else if ef c.entry 9 1 = 0 then
      let x := s.part p
      .next ((s.setPart p { x with stop := x.stop.map (fun r => { r with armed := true, armedAt := s.timebase }) }).setCmd k { c with aux := 1 })
    else if ¬ s.partIn p [.running] then .next (s.finish k (fail St.busy))
    else
      let s := s.freeze p .paused
      let w := s.writeSnap p (ef c.entry 32 8)
      .next (w.2.setCmd k { c with aux := 1, aux2 := w.1 })

/-- CKPT_QUIESCE_TIMEOUT (11 R342): no quiescent step mark has come within 1 s of the stop's effect. -/
def execCkptQuiesceTimeout (p : PartId) (s : State) : Host.Outcome State Fault Refusal :=
  let x := s.part p
  match x.stop with
  | some r =>
    if r.armed ∧ r.ckpt ∧ r.ended.isNone ∧ r.armedAt + 1000000000 < s.timebase then .next (s.setPart p { x with stop := some { r with late := true } }) else .next s
  | none => .next s

/-- HALT_FREEZE (14 R434): once every core has halted, the routers and crossings freeze 1,024 cc after the last; when everything is at
that cycle and the partition's descriptors and instances have ended, the run has ended HALTED. -/
def execHaltFreeze (p : PartId) (s : State) : Host.Outcome State Fault Refusal :=
  let x := s.part p
  let cs := s.coresOf p
  if ¬ s.partIn p [.running] ∨ cs.isEmpty ∨ cs.any (fun n => !(s.core n).seq.halted) then .next s else
  match x.haltCut with
  | none => .next (s.setPart p { x with haltCut := some (cs.foldl (fun a n => max a (s.core n).seq.haltAt) 0 + 1025) })
  | some cut =>
    if cs.all (fun n => decide (cut ≤ (s.core n).seq.now) && decide (cut ≤ (s.router n).now)) ∧
        (s.enginesOf p).all (fun d => !(s.engine d).active) ∧ (s.ctxsOf p).all (fun i => !(s.coll i).running) then
      .next ((s.setPart p { x.endRun 1 with freezeAt := cut, haltEnd := true }).move p .stopped)
    else .next s

/-! ## REPLAY (11 R345–R349, 14 R438) -/

/-- The log holds everything that the partition's entries send and receive in the steps from a to b − 1. -/
def State.logHolds (s : State) (p a b : Nat) : Bool :=
  let x := s.part p
  x.facet.colls.all (fun e =>
    let j0 := if a ≤ e.step0 then 0 else (a - e.step0 + e.period - 1) / max 1 e.period
    let j1 := if b ≤ e.step0 then 0 else (b - e.step0 + e.period - 1) / max 1 e.period
    let j1 := if e.count = 0 then j1 else min j1 e.count
    (List.range (j1 - j0)).all (fun i =>
      let step := e.stepOf (j0 + i)
      let held (sent : Bool) (l : List (Nat × Nat)) : Bool := l.all (fun q => (List.range e.segs).all (fun g =>
        x.collLog.any (fun r => r.step == step && r.id == e.id && r.sent == sent && r.phase == q.1 && r.block == q.2 && r.seg == g)))
      held true e.sends && held false e.recvs))

/-- The checks of 11 R345 on a partition record. -/
def State.replayOk (s : State) (p : Nat) (hbm logged : Bool) (target : Nat) (b : Bytes) : Bool :=
  let x := s.part p
  hField b 0 4 == 1 && hField b 4 4 == b2n hbm && beVal (sub b 40 48) == x.facetDigest && hField b 136 32 == (s.rec_ p).blocks &&
  (hbm || (List.range 8).all (fun t => hField b (168 + 4 * t) 4 == (s.reg (Reg.tileRepair t)).toNat)) && decide (hField b 8 8 < target) &&
  (!logged || s.logHolds p (hField b 8 8) target)

/-- A core's copy read back: its bytes, whether all of it was good. -/
def State.readCopy (s : State) (p n k : Nat) (hbm : Bool) (cbase stride : Nat) : Bytes × Bool × State :=
  if hbm then
    let r := s.partRead p (cbase + stride * k) stride
    (r.1, r.2.1 == 0, r.2.2)
  else
    let r := s.sliceRead n cbase stride
    (r.1, !r.2.1, r.2.2)

/-- Restores a checkpoint whose record is b; whether every granule read was good. -/
def State.restore (s : State) (p prec : Nat) (hbm : Bool) (b : Bytes) : Bool × State :=
  let f := (s.part p).facet
  let u := hField b 16 8
  let cbase := hField b 200 8
  let stride := ckptStride f.ckpt
  let places := ckptPlaces f.ckpt (128 * (s.rec_ p).seqCount)
  let q := (s.coresOf p).mergeSort.zipIdx.foldl (fun (a : Bool × State) n =>
    let c := a.2.readCopy p n.1 n.2 hbm cbase stride
    let s := c.2.2
    let s := s.setCore n.1 (coreOf (s.core n.1) (c.1.take recBytes) u)
    let s := s.setRouter n.1 (routerOf (s.router n.1) (c.1.take recBytes) u)
    let s := s.putUnits 8 (coreWindow n.1) (sub c.1 recBytes sramBytes)
    let s := places.foldl (fun s r => if r.1.kind = 1 then s.putUnits 32 (sliceBase n.1 + r.1.base) (sub c.1 r.2.1 r.2.2) else s) s
    (a.1 && c.2.1, s)) (true, s)
  let q := places.foldl (fun (a : Bool × State) r =>
    if r.1.kind ≤ 1 then a else
    let c := a.2.partRead p (prec + r.2.1) r.2.2
    (a.1 && c.2.1 == 0, if r.1.kind = 4 then c.2.2.ccWrite none (c.2.2.seqAddr (c.2.2.rec_ p).seqBase) c.1 false else c.2.2.partWrite p r.1.base c.1)) q
  let s := q.2
  let s := (s.enginesOf p).foldl (fun s d => s.setEngine d { s.engine d with pos := hField b (512 + 4 * d) 4 % max 1 (s.engine d).len }) s
  let s := (s.ctxsOf p).foldl (fun s i => s.setColl i { s.coll i with next := hField b (1280 + 8 * (s.coll i).entry) 8 }) s
  let every := match f.replica with | some g => g.every | none => 1
  let s := s.setPart p { s.part p with
    testPtr := hField b 32 4, passLast := if hField b 8 8 % every = 0 then some (hField b 1792 8) else none, compared := hField b 1792 8,
    logBound := (hField b 8 8, u, []), markBound := (u, []) }
  (q.1, s)

/-- A REPLAY of a mode. -/
def State.replay (s : State) (k mode : Nat) : State :=
  match s.cmd k with
  | none => s
  | some c =>
    let e := c.entry
    let p := (cmdPart c.via Op.replay e).getD 0
    let hbm := ef e 10 1 / 2 % 2 == 1
    let prec := ef e 16 8
    let target := ef e 24 8
    if c.opcode ≠ Op.replay ∨ c.result.isSome ∨ c.begun ∨ ef e 9 1 ≠ mode ∨ s.power.brownout ∨ s.stopOpen p then s
    else if ¬ s.partIn p [.loaded, .stopped, .faulted] ∨ s.filling p then s.finish k (fail St.busy)
    else if s.lostBlock p then s.finish k (fail St.noResource)
    else if prec % 4096 ≠ 0 ∨ (s.translateRange p prec 4096 .read).isNone then s.finish k (fail St.badArgument)
    else
      let r := s.partRead p prec 4096
      let s := r.2.2
      if r.2.1 = 0 ∧ !s.replayOk p hbm (mode == 1) target r.1 then s.finish k (fail St.badArgument) else
      let f := (s.part p).facet
      let s := ((s.setBlocksNow p .active).configPart p f).clearPart p f
      let q := if r.2.1 = 0 then s.restore p prec hbm r.1 else (false, s)
      if !q.1 then
        let s := ((q.2.zeroPart p).configPart p f).clearPart p f
        ((s.setPart p { s.part p with state := .loaded }).setBlocksNow p .retain).finish k (fail St.uncorrectable)
      else
        let s := q.2
        let seed := if ef e 10 1 % 2 = 1 then hField r.1 24 8 else ef e 32 8
        let s := s.setPart p { s.part p with seed := BitVec.ofNat 64 seed, replayLog := mode == 1 }
        ((s.launch p c.via c.cid (some (BitVec.ofNat 64 target)) true).startUnits p).setCmd k { c with begun := true, aux := 1 }

def execReplayLive (k : Nat) (s : State) : Host.Outcome State Fault Refusal := .next (s.replay k 0)
def execReplayLogged (k : Nat) (s : State) : Host.Outcome State Fault Refusal := .next (s.replay k 1)

/-! ## What a run command reports (13 R411, 14 R434) -/

/-- The result of partition p's run command, as it has ended: TIMEOUT for a wait that timed out, FAULTED for another fault, else OK. -/
def State.runResult (s : State) (p : Nat) (r : RunCmd) : Result :=
  let x := s.part p
  let w := s.reg (Reg.partFault p)
  let e := r.ended.getD 5
  let st := if e = 4 then causeStatus (bits w 24 8) else St.ok
  let step := s.stepOf p
  if r.replay then
    let d := x.firstDiff
    ⟨st, 0, leBytes 8 (step - r.startStep.toNat) ++ leBytes 8 (s.uOf p - r.startU) ++ leBytes 4 x.suspect0 ++ leBytes 4 (if x.replayLog then x.diffs else 0) ++
      (match (if x.replayLog then d else none) with
       | some (t, id, g) => leBytes 8 t ++ leBytes 4 g ++ leBytes 1 id
       | none => List.replicate 13 0xFF) ++ leBytes 3 0⟩
  else
    ⟨st, BitVec.ofNat 32 e, leBytes 1 e ++ leBytes 1 (if e = 4 then bits w 24 8 else 0) ++ leBytes 2 0 ++
      leBytes 4 (if e = 4 ∧ bits w 14 1 = 1 then bits w 0 14 else 0xFFFFFFFF) ++ leBytes 8 step ++ leBytes 8 (s.uOf p) ++
      leBytes 8 (x.pauseTotal - r.startPaused) ++ leBytes 8 r.startStep.toNat⟩

/-- The payload of STOP. -/
def State.stopPayload (s : State) (p : Nat) (ckpt : Bool) (snaps : Nat) : Bytes :=
  leBytes 8 (s.stepOf p) ++ leBytes 8 (s.uOf p) ++ leBytes 1 (b2n ckpt) ++ leBytes 3 0 ++ leBytes 4 snaps

end Sys2Proof.Machine
end

