-- ==== Sys2Proof/Machine/CmdPart.lean ====
section
/-! DEFINITION. A partition's life: creation, destruction, keys and consent (14 R443, R444, 15 R450–R477). -/

namespace Sys2Proof.Machine

/-! ## PARTITION_CREATE (14 R443, 15 R452, R462) -/

def State.tilesOf (s : State) (p : Nat) : List Nat := (List.range 8).filter (fun t => (s.blocksOf p).any (fun b => b / 32 == t))
def dramSensors (t : Nat) : List Nat := (List.range 40).map (fun i => Reg.thermDram t (i / 4) (i % 4))

/-- The refresh band that a temperature (1/16 °C) enters (07 R222). -/
def bandAt (t : Int) : Nat := if 1680 ≤ t then 3 else if 1520 ≤ t then 2 else if 1360 ≤ t then 1 else 0
def State.newBand (s : State) (p : Nat) : Nat := bandAt (s.hottest ((s.tilesOf p).flatMap dramSensors))

/-- Every block and channel of a partition's record has been released (14 R443, R427). -/
def State.allReleased (s : State) (p : Nat) : Bool :=
  (s.blocksOf p).all (fun b => bits (s.reg (Reg.released (b / 32))) (b % 32) 1 == 1) && (s.chansOf p).all (fun c => s.chanUp c)
def State.chanFailed (s : State) (c : Nat) : Bool := bits (s.reg (Reg.chanFailed (c / 32))) (c % 32) 1 == 1

/-- A fresh memory key in slot k (15 R460, R462). -/
def State.memoryKey (s : State) (k : Nat) (byOp : Bool) : State :=
  let v := s.free 256
  v.2.setKey k { KeySlot.reset with state := .active, kind := 1, byOperator := byOp, key := v.1.toNat, installs := (v.2.key k).installs + 1 }

/-- Channel c is zero-filled (08 R233); on a change of partition its counters and its Clove core's trace ring go too (20 R604, R608). -/
def State.fillChan (s : State) (c : Nat) : State := s.zeroHbm (chanAddr c) channelBytes
def State.changeChan (s : State) (c : Nat) : State :=
  let s := s.fillChan c
  -- and the local memory of its Clove core (09 R259)
  let s := s.setClove c { s.clove c with localMem := Mem.empty }
  let s := s.setChan c { s.chan c with fillDue := false }
  { s with cnts := SMap.clear s.cnts (Cnt.hbm c 0) (Cnt.hbm c 8), trace := SMap.del s.trace (0x20000 + c) }

/-- What PARTITION_CREATE does: its blocks are ACTIVE while their memories are filled (18 R558). -/
def State.create (s : State) (p : Nat) : Result × State :=
  let r := s.rec_ p
  if !s.partIn p [.empty] then (fail St.busy, s)
  else if (s.chansOf p).any s.chanFailed ∨ s.lostBlock p then (fail St.noResource, s)
  else if !s.allReleased p then (fail St.busy, s)
  else
    let slot := if s.licence 2 then (members r.keyslots 128).head? else none
    if slot.isSome ∧ !s.loupe.entropyOk then (fail St.noResource, s) else
    let s := match slot with
      | some k => s.memoryKey k true
      | none => s
    let s := (s.coresOf p).foldl (fun s n => ((s.zeroCore n).zeroSlice n).clearCoreUnits n) (s.setBlocksNow p .active)
    let s := (s.chansOf p).foldl (fun s c => s.changeChan c) s
    let plead := 32 + 16 * (s.tilesOf p).length
    let s := s.setPart p { Partition.reset with state := .configured, plead := plead, band := s.newBand p, encrypted := slot.isSome, memSlot := slot }
    let s := (s.setReg (Reg.partFault p) 0).setReg (Reg.partFaultStep p) 0
    let s := ((s.setReg (Reg.keyConsent p) 0).configPart p Facet.none).clearPart p Facet.none
    let s := s.setBlocksNow p .off
    (okWith (leBytes 2 plead ++ leBytes 2 (s.blocksOf p).length), s)

/-- PARTITION_CREATE (14 R443). -/
def execPartitionCreate (k : Nat) (s : State) : Host.Outcome State Fault Refusal :=
  .next (s.perform k Op.create (fun _ => true) (fun s c => s.create (ef c.entry 8 1)))

/-! ## Retirement of keys (15 R471–R474) -/

/-- The flits that a unit has sent through a hub's queue and that are still on their way count for it no more: it has raised what it owed.
No unit has the number 512. -/
def State.forgetSrc (s : State) (src : Nat) : State :=
  { s with
    attach := s.attach.map (fun a => (a.1, { a.2 with queue := a.2.queue.map (fun f => (f.1, if f.2 = src then 512 else f.2)) })),
    xings := s.xings.map (fun x => (x.1, { x.2 with frames := x.2.frames.map (fun f => if f.src = some src then { f with src := none } else f) })) }

/-- One more granule of a destination is poisoned; into a stream while it has room. -/
def State.cutGranule (s : State) (d p : Nat) : State :=
  let e := s.engine d
  let x := e.desc
  let v := s.free 512
  let strm : Option Nat := if dOp x = 3 then (if wMode x = 0 then some (wEndpt x) else none) else if dDstt x = 2 then some (dDst x) else none
  match strm with
  | some a =>
    let s := if s.streamRoom d a then v.2.streamPut d a v.1 true else s
    (s.setEngine d { s.engine d with moved := e.moved + 1 }).deliver d 64 (leBytes 64 v.1.toNat)
  | none => if dOp x = 3 then s.deliver d 64 (leBytes 64 v.1.toNat) else v.2.dstGranule p d e.moved (leBytes 64 v.1.toNat) true

/-- A descriptor that is dropped or reset (15 R472): what is left of its destination is poisoned, it raises its tokens and ends. -/
def State.cutDescriptor (s : State) (d p st : Nat) : State :=
  let e := s.engine d
  let total := s.descBytes d p
  let left := total - (if s.viaHub d ∧ dOp e.desc ≠ 3 then 64 * e.moved else e.bytes)
  let s := (List.range ((left + 63) / 64)).foldl (fun s _ => s.cutGranule d p) s
  (s.endDescriptor d p st total).forgetSrc d

/-- A descriptor touches its partition's channels: by address, or as a walker's work. -/
def touchesHbm (x : BitVec 512) : Bool := dOp x == 3 || (dOp x == 1 && dSrct x == 0) || dDstt x == 0

/-- The next n posted descriptors of an idle engine's ring, in its order, are dropped when they touch the partition's channels; the others
never start. -/
def State.dropRing (s : State) (d p : Nat) : Nat → State
  | 0 => s
  | n + 1 =>
    let e := s.engine d
    let posted : Option (BitVec 512 × Bool × State) := if e.fetched then some (e.desc, true, s) else s.fetchDesc d p
    match posted with
    | none => s
    | some (x, ok, s) =>
      let s := s.setEngine d { s.engine d with desc := x, fetched := false, moved := 0, bytes := 0, xrows := [], xout := 0, first := [],
                                               fullAt := none, status := 0, walk := Walk.reset, startAt := s.timebase }
      let s := if ok ∧ touchesHbm x then s.cutDescriptor d p St.accessFault
        else s.setEngine d { s.engine d with pos := (e.pos + 1) % max 1 e.len }
      State.dropRing s d p n

/-- Step 2 of R472 for a retiring memory slot: the descriptors queued in the rings of engines that run none are dropped. -/
def State.dropQueued (s : State) (p : Nat) : State :=
  (s.enginesOf p).foldl (fun s d => if (s.engine d).active then s else s.dropRing d p (s.engine d).len) s

/-- The highest epoch retired for a peer and job. -/
def retireEpoch (l : List RetiredKey) (dev job epoch : Nat) : List RetiredKey :=
  if l.any (fun r => r.dev == dev && r.job == job) then
    l.map (fun r => if r.dev = dev ∧ r.job = job ∧ serialLt 16 r.epoch epoch then { r with epoch := epoch } else r)
  else l ++ [⟨dev, job, epoch⟩]

/-- Step 5 of R472: the slot's key, material and counters are zeroised. -/
def State.zeroiseSlot (s : State) (p k : Nat) : State :=
  let x := s.key k
  let devs := (s.jobPeers p x.job).map (·.1) ++ (s.recvKeys.filter (fun r => r.slot == k)).map (·.dev)
  let s := if x.kind = 0 then s.setPart p { s.part p with retired := devs.foldl (fun l d => retireEpoch l d x.job x.epoch) (s.part p).retired } else s
  let s := { s with recvKeys := s.recvKeys.filter (fun r => r.slot != k) }
  let s := if x.kind = 2 then s.putStaged (some p) none else s
  s.setKey k { KeySlot.reset with installs := x.installs }

/-- Context i runs an instance of p that sends under one of the retiring slots: it started before that slot retired, and the slot is the one its
connection is using (15 R472 step 3). -/
def State.ctxUses (s : State) (p : Nat) (slots : List Nat) (i : Nat) : Bool :=
  match s.collEntry i with
  | some (q, e) => q == p && (match (s.sendConnIdx p e).bind (fun j => s.conns[j]?) with
      | some c => (match s.retiringSlot c with
        | some k => slots.contains k && s.underSlot p e.job e.chan k i
        | none => false)
      | none => false)
  | none => false

/-- Instances of an entry whose mark has come (11 R327). -/
def State.marked (s : State) (p : Nat) (e : CollEntry) : Nat :=
  if s.stepOf p < e.step0 then 0 else
  let n := (s.stepOf p - e.step0) / max 1 e.period + 1
  if e.count = 0 then n else min n e.count

/-- Step 2 of R472 for LINK slots that retire: the contexts of a job that has no other slot in force drop the instances that are queued. -/
def State.dropInstances (s : State) (p : Nat) (slots : List Nat) : State :=
  (s.ctxsOf p).foldl (fun s i =>
    match s.collEntry i with
    | some (_, e) =>
      if slots.any (fun k => (s.key k).kind == 0 && (s.key k).job == e.job) ∧ (s.linkSlots p e.job .active).isEmpty then
        s.setColl i { s.coll i with dropTo := max (s.coll i).dropTo (s.marked p e) }
      else s
    | none => s) s

/-- What step 3 waits for: contexts that run under the retiring slots or still have instances to drop, and, when `all`, every engine and context
of the partition that runs. -/
def State.draining (s : State) (p : Nat) (slots : List Nat) (all : Bool) : List Nat × List Nat :=
  (if all then (s.enginesOf p).filter (fun d => (s.engine d).active) else [],
   (s.ctxsOf p).filter (fun i => decide ((s.coll i).next < (s.coll i).dropTo) || (if all then (s.coll i).running else s.ctxUses p slots i)))

/-- Engines that have not drained in 10 ms are reset. -/
def State.resetDraining (s : State) (p : Nat) (w : List Nat × List Nat) : State :=
  let s := w.1.foldl (fun s d => s.cutDescriptor d p St.timeout) s
  w.2.foldl (fun s i =>
    match s.collEntry i with
    | some (_, e) =>
      if (s.coll i).running then (((s.setColl i ((s.coll i).abort St.timeout)).collPoison i p e).collEnd i p e).forgetSrc (256 + i) else s
    | none => s) s

/-! ## PARTITION_DESTROY (14 R444) -/

/-- Run and stop commands of a partition that is being removed end (14 R434, 15 R454): a run that has been accepted with END 5, unless it had
already ended otherwise; a run that had not been checked, and a stop, with BUSY. -/
def State.endRuns (s : State) (p : Nat) : State :=
  let close (c : InFlight) : InFlight :=
    if c.result.isSome then c
    else if c.holds.contains (Hold.r p) then
      (match c.aux, (s.part p).run with
       | 1, some r => { c with result := some (s.runResult p r) }
       | _, _ => { c with result := some (if c.begun then
           s.runResult p ⟨c.via, c.cid, BitVec.ofNat 64 (s.stepOf p), s.uOf p, (s.part p).pauseTotal, none, c.opcode == Op.replay, some 5⟩
         else fail St.busy) })
    else if c.holds.contains (Hold.s p) then { c with result := some (fail St.busy) }
    else c
  { s with loupe := { s.loupe with inflight := s.loupe.inflight.map close } }

/-- Slots of partition p enter RETIRING, and the instances queued under them are to be dropped. -/
def State.retireSlots (s : State) (p : Nat) (ks : List Nat) : State :=
  (ks.foldl (fun s k => if (s.key k).state = .active then s.setKey k { s.key k with state := .retiring, retireAt := s.timebase } else s) s).dropInstances p ks

/-- PARTITION_DESTROY (14 R444): the partition is frozen and becomes RETIRING; tenant removal begins. -/
def execPartitionDestroy (k : Nat) (s : State) : Host.Outcome State Fault Refusal :=
  .next (s.start k Op.destroy (fun _ => true) (fun s c =>
    let p := ef c.entry 8 1
    if s.partIn p [.empty, .retiring] then (some (fail St.busy), 0, 0, s) else
    let s := if s.partIn p [.running, .paused] then s.freeze p .retiring else s.move p .retiring
    let s := s.endRuns p
    let s := s.setField (Reg.keyConsent p) 0 5 0
    let enc := (s.part p).encrypted
    let s := s.retireSlots p (s.keysOf p)
    (none, 0, 0, if enc then s.dropQueued p else s)))

/-- Steps 3–5 of R444 after the keys are gone. -/
def State.removePart (s : State) (p : Nat) : State :=
  let r := s.rec_ p
  let s := (s.coresOf p).foldl (fun s n => (s.zeroCore n).zeroSlice n) s
  let s := (s.chansOf p).foldl (fun s c => ((s.fillChan c).cloveIdle c).setChan c { s.chan c with fillDue := false }) s
  let lo := scratchBase + 0x10000 * r.scrBase
  let s := { s with mem := s.mem.zero lo (lo + 0x10000 * r.scrCount) }
  let s := s.zeroHbm (s.seqAddr r.seqBase) (128 * r.seqCount)
  let s := { s with conns := s.conns.filter (fun c => c.part != p), recvKeys := s.recvKeys.filter (fun x => x.part != p) }
  let s := (s.configPart p Facet.none).clearPart p Facet.none
  (s.setPart p Partition.reset).move p .empty

/-- RETIRE_DRAIN_END (15 R472, R473): the engines have drained, or 10 ms have passed; the keys are zeroised, and a destroyed partition's
memories are cleared. -/
def execRetireDrainEnd (k : Nat) (s : State) : Host.Outcome State Fault Refusal :=
  match s.cmd k with
  | none => .next s
  | some c =>
    if !c.begun ∨ c.result.isSome ∨ (c.opcode ≠ Op.destroy ∧ c.opcode ≠ Op.keyRetire) then .next s else
    let all := c.opcode == Op.destroy
    let p := (cmdPart c.via c.opcode c.entry).getD 0
    let slots := if all then (s.keysOf p).filter (fun k => (s.key k).state == .retiring) else [ef c.entry 9 1]
    -- instances whose trigger has fallen since are dropped as well (15 R474)
    let s := s.dropInstances p slots
    let w := s.draining p slots all
    if (!w.1.isEmpty || !w.2.isEmpty) && decide (s.timebase < c.at_ + 10000000) then .next s else
    let s := slots.foldl (fun s k => s.zeroiseSlot p k) (s.resetDraining p w)
    let s := if all ∧ (s.part p).encrypted then s.dropQueued p else s
    .next ((if all then s.removePart p else s).finish k (okWith []))

/-- KEY_RETIRE (15 R471). -/
def execKeyRetire (k : Nat) (s : State) : Host.Outcome State Fault Refusal :=
  .next (s.start k Op.keyRetire (fun _ => true) (fun s c =>
    let p := (cmdPart c.via Op.keyRetire c.entry).getD 0
    let slot := ef c.entry 9 1
    if s.partIn p [.empty, .retiring] then (some (fail St.busy), 0, 0, s)
    else if !bitOf (s.rec_ p).keyslots slot then (some (fail St.badArgument), 0, 0, s)
    else if (s.key slot).state ≠ .active then (some (fail St.busy), 0, 0, s)
    else if (s.key slot).kind = 1 then (some (fail St.badArgument), 0, 0, s)
    else (none, 0, 0, s.retireSlots p [slot])))

/-! ## KEY_INSTALL (15 R461–R468) -/

/-- The payload: the slot, the kind, the installations so far. -/
def State.keyPayload (s : State) (slot kind : Nat) : Result :=
  okWith (leBytes 1 slot ++ leBytes 1 kind ++ leBytes 2 0 ++ leBytes 4 (s.key slot).installs)

/-- The result of a host read that failed (17 R532). -/
def hostFail : HostKind → Option Result
  | .ok => none
  | .poisoned => some (fail St.poisoned)
  | .aborted => some (fail St.uncorrectable)

/-- The checks of an install into an empty slot. -/
def State.keyChecks (s : State) (p slot len want : Nat) (e : BitVec 512) (states : List PState) : Option Result :=
  if !s.partIn p states then some (fail St.busy)
  else if !bitOf (s.rec_ p).keyslots slot then some (fail St.badArgument)
  else if (s.key slot).state ≠ .empty then some (fail St.busy)
  else if len ≠ want ∨ ef e 16 8 % 64 ≠ 0 then some (fail St.badArgument)
  else none

/-- KEY_INSTALL of KIND LINK (15 R465, R467); `data` is what the host answers. -/
def execKeyInstallLink (k : Nat) (data : BitVec 256) (kind : HostKind) (s : State) : Host.Outcome State Fault Refusal :=
  .next (s.perform k Op.keyInstall (fun e => ef e 10 1 == 0) (fun s c =>
    let e := c.entry
    let p := (cmdPart c.via Op.keyInstall e).getD 0
    let slot := ef e 9 1
    let job := ef e 32 2
    match s.keyChecks p slot (ef e 24 4) 32 e [.configured, .loaded, .running, .paused, .stopped, .faulted] with
    | some r => (r, s)
    | none =>
      if 2 ≤ (s.linkSlots p job .active).length then (fail St.noResource, s)
      else if !s.loupe.entropyOk then (deny c.via St.noResource, s) else
      match hostFail kind with
      | some r => (r, s)
      | none =>
        let v := s.free 128
        let s := v.2
        let x := s.part p
        let epoch := (SMap.get 0 x.epochs job + 1) % 65536
        let s := s.setPart p { x with epochs := SMap.set 0 x.epochs job epoch }
        let s := s.setKey slot { KeySlot.reset with
          state := .active, kind := 0, byOperator := c.via.caller.isNone, job := job, epoch := epoch, salt := v.1.toNat, material := data.toNat,
          key := linkKey data.toNat v.1.toNat s.loupe.serial job epoch, installs := (s.key slot).installs + 1,
          announcedAt := s.timebase }
        (s.keyPayload slot 0, s.announceAll p (fun i _ => i == slot))))

/-- KEY_INSTALL of KIND MEMORY (15 R464). -/
def execKeyInstallMemory (k : Nat) (s : State) : Host.Outcome State Fault Refusal :=
  .next (s.perform k Op.keyInstall (fun e => ef e 10 1 == 1) (fun s c =>
    let e := c.entry
    let p := (cmdPart c.via Op.keyInstall e).getD 0
    let slot := ef e 9 1
    if !s.partIn p [.configured] then (fail St.busy, s)
    else if !bitOf (s.rec_ p).keyslots slot then (fail St.badArgument, s)
    else if (members (s.rec_ p).keyslots 128).head? ≠ some slot then (fail St.badArgument, s)
    else if (s.key slot).state ≠ .active ∨ (s.key slot).kind ≠ 1 then (fail St.busy, s)
    else if ef e 16 8 ≠ 0 ∨ ef e 24 4 ≠ 0 ∨ ef e 32 2 ≠ 0 then (fail St.badArgument, s)
    else if !s.loupe.entropyOk then (deny c.via St.noResource, s)
    else
      let s := s.memoryKey slot c.via.caller.isNone
      let s := (s.chansOf p).foldl (fun s c => s.setChan c { s.chan c with fillDue := true }) s
      (s.keyPayload slot 1, s)))

/-- MEMORY_REFILL_END (15 R464): the fill under the new key has ended on every channel. -/
def execMemoryRefillEnd (p : PartId) (s : State) : Host.Outcome State Fault Refusal :=
  .next ((s.chansOf p).foldl (fun s c =>
    if (s.chan c).fillDue then (s.fillChan c).setChan c { s.chan c with fillDue := false } else s) s)

/-- KEY_INSTALL of KIND IMAGE_VERIFY (15 R461); `data` is what the host answers. The key is held as x · 2^384 + y. -/
def execKeyInstallImageVerify (k : Nat) (data : List Byte) (kind : HostKind) (s : State) : Host.Outcome State Fault Refusal :=
  .next (s.perform k Op.keyInstall (fun e => ef e 10 1 == 2) (fun s c =>
    let e := c.entry
    let p := (cmdPart c.via Op.keyInstall e).getD 0
    let slot := ef e 9 1
    match s.keyChecks p slot (ef e 24 4) 97 e [.configured, .loaded, .stopped, .faulted] with
    | some r => (r, s)
    | none =>
      if ef e 32 2 ≠ 0 then (fail St.badArgument, s) else
      match hostFail kind with
      | some r => (r, s)
      | none =>
        let b := padTo 97 (data.take 97)
        let x := beVal (sub b 1 48)
        let y := beVal (sub b 49 48)
        if hField b 0 1 ≠ 4 ∨ !Config.onCurve x y then (fail St.badArgument, s) else
        let s := s.putStaged (some p) none
        let s := s.setKey slot { KeySlot.reset with
          state := .active, kind := 2, byOperator := c.via.caller.isNone, key := x * 2 ^ 384 + y, installs := (s.key slot).installs + 1 }
        (s.keyPayload slot 2, s)))

/-! ## DEBUG_CONSENT (15 R476, R477) -/

def State.consentSet (s : State) (p : Nat) : Nat := bits (s.reg (Reg.keyConsent p)) 0 5

/-- DEBUG_CONSENT with ACTION 1: its completion carries the bits, and the grant takes effect when that is written (COMPLETION_WRITE). -/
def execDebugConsentGrant (k : Nat) (s : State) : Host.Outcome State Fault Refusal :=
  .next (s.perform k Op.consent (fun e => ef e 8 1 == 1) (fun s c =>
    let p := (cmdPart c.via Op.consent c.entry).getD 0
    (okWith (leBytes 4 (s.consentSet p ||| ef c.entry 12 4 % 32)), s)))

/-- Bits of partition p's consent that wait with a completion for their grant are granted no more. -/
def HostRing.ungrant (x : HostRing) (p m : Nat) : HostRing :=
  { x with waiting := x.waiting.map (fun c => { c with grant := c.grant.map (fun g => if g.1 = p then (p, g.2 &&& (31 ^^^ m)) else g) }) }

/-- DEBUG_CONSENT with ACTION 0. -/
def execDebugConsentRevoke (k : Nat) (s : State) : Host.Outcome State Fault Refusal :=
  .next (s.perform k Op.consent (fun e => ef e 8 1 == 0) (fun s c =>
    let p := (cmdPart c.via Op.consent c.entry).getD 0
    let m := ef c.entry 12 4 % 32
    let s := (List.range 65).foldl (fun s r => s.setRing r ((s.ring r).ungrant p m)) s
    let s := s.andNotReg (Reg.keyConsent p) (BitVec.ofNat 32 m)
    (okWith (leBytes 4 (s.consentSet p)), s)))

end Sys2Proof.Machine
end

