-- ==== Sys2Proof/Machine/CmdSeq.lean ====
section
/-! DEFINITION. SEQ_CONTROL: the life of a sequence (10 R288–R300, R314, 14 R439). -/

namespace Sys2Proof.Machine

/-! ## Entries -/

/-- The 128 bytes of a sequence entry (10 R289). -/
def SeqEntry.bytes (q : SeqEntry) : Bytes :=
  padTo 128 (leBytes 1 q.state ++ leBytes 1 q.part ++ leBytes 1 q.fmt ++ leBytes 1 q.pool ++ leBytes 4 q.len ++
    leBytes 4 (b2n q.sparse * 2 ^ 31 + q.nglobal * 2 ^ 24 + q.wblk) ++ leBytes 4 q.listblks ++ leBytes 8 q.list ++ leBytes 4 q.stream ++
    leBytes 4 q.parent ++ leBytes 8 q.gen)

/-- An entry as the Loupe reads it; whether it was good. -/
def State.loadSeq (s : State) (q : Nat) : SeqEntry × Bool × State :=
  let r := s.ccRead none (s.seqAddr q) 128
  (SeqEntry.of (leVal r.1), r.2.1 == 0, r.2.2)
def State.setSeqState (s : State) (q st : Nat) : State := s.ccWrite none (s.seqAddr q) (leBytes 1 st) false
def State.bumpGen (s : State) (q gen : Nat) : State := s.ccWrite none (s.seqAddr q + 32) (leBytes 8 (gen + 1)) false

/-- Entries of a page list (10 R295). -/
def listLen (k : KvLayout) (q : SeqEntry) : Nat :=
  if q.sparse then (q.wblk + 1) * k.spb + (if q.nglobal = 0 then 0 else k.spb) else q.listblks * k.spb
def entryAt (q : SeqEntry) (i : Nat) : Nat := q.list + 512 + 8 * i

/-- Entry i of a page list; whether it was good. -/
def State.listEntry (s : State) (p : Nat) (q : SeqEntry) (i : Nat) : DWord × Bool × State :=
  let r := s.partRead p (entryAt q i) 8
  (BitVec.ofNat 64 (leVal r.1), r.2.1 == 0, r.2.2)
def State.putListEntry (s : State) (p : Nat) (q : SeqEntry) (i : Nat) (e : DWord) : State := s.partWrite p (entryAt q i) (leBytes 8 e.toNat)

/-- The list lies in the partition's HBM windows. -/
def State.listFits (s : State) (p : Nat) (k : KvLayout) (q : SeqEntry) : Bool :=
  q.list % 64 == 0 && reaches ((s.part p).facet.memmap.map Window.of) 0 q.list (512 + 8 * listLen k q) (fun _ => true)

/-- The sequence that a SEQ_CONTROL names, with its partition; or how the command ends. -/
def State.seqTarget (s : State) (c : InFlight) (q : Nat) : Sum Result Nat :=
  match s.partOfSeq q with
  | none => .inl (deny c.via St.badArgument)
  | some p =>
    match c.via.caller with
    | some t => if t = p then .inr p else .inl (deny c.via St.badArgument)
    | none => .inr p

/-- The start of an operation: the checks of state, then its work. -/
def State.seqOp (s : State) (c : InFlight) (states : List Nat) (f : State → Nat → KvLayout → SeqEntry → Option Result × Nat × Nat × State) :
    Option Result × Nat × Nat × State :=
  let q := ef c.entry 12 4
  let no (r : Result) (s : State) : Option Result × Nat × Nat × State := (some r, 0, 0, s)
  match s.seqTarget c q with
  | .inl r => no r s
  | .inr p =>
    if s.partIn p [.retiring] ∨ s.filling p then no (fail St.busy) s else
    let r := s.loadSeq q
    if !r.2.1 then no (fail St.uncorrectable) r.2.2
    else if !states.contains r.1.state then no (fail St.busy) r.2.2
    else match s.kvOf p with
    | some k => f r.2.2 p k r.1
    | none => no (fail St.badArgument) r.2.2

def seqForm (op : Nat) (e : BitVec 512) : Bool := ef e 8 1 == op

/-! ## OPEN, UNPARK, READ -/

/-- SEQ_OPEN (10 R291). -/
def execSeqOpen (k : Nat) (s : State) : Host.Outcome State Fault Refusal :=
  .next (s.start k Op.seq (seqForm 1) (fun s c => s.seqOp c [0] (fun s p kv old =>
    let e := c.entry
    let pat := ef e 24 4
    let n : SeqEntry :=
      { state := 1, part := p, fmt := ef e 9 1, pool := ef e 10 1, len := 0, sparse := bitOf pat 31, nglobal := pat / 2 ^ 24 % 128,
        wblk := pat % 65536, listblks := ef e 28 4, list := ef e 32 8, stream := ef e 40 4, parent := 0xFFFFFFFF, gen := old.gen + 1 }
    let ok := decide (n.fmt ≤ 2) && decide (n.pool < 16) && (kv.pools.getD n.pool (0, 0)).1 != 0 && decide (n.stream < 2 ^ 20) &&
      pat / 2 ^ 16 % 256 == 0 && decide (n.nglobal ≤ 64) && (!n.sparse || decide (n.wblk * kvTpp n.fmt kv.hd ≤ 32768)) && s.listFits p kv n
    if !ok then (some (fail St.badArgument), 0, 0, s) else
    let s := s.partWrite p n.list (zeros (512 + 8 * listLen kv n))
    (some (okWith []), 0, 0, s.ccWrite none (s.seqAddr (ef e 12 4)) n.bytes false))))

/-- Every entry of a list that names a page is resident; whether the list was readable. -/
def State.allResident (s : State) (p : Nat) (kv : KvLayout) (q : SeqEntry) : Bool × Bool × State :=
  (List.range (listLen kv q)).foldl (fun (a : Bool × Bool × State) i =>
    let r := a.2.2.listEntry p q i
    (a.1 && (!plValid r.1 || plRes r.1), a.2.1 && r.2.1, r.2.2)) (true, true, s)

/-- SEQ_UNPARK (10 R291). -/
def execSeqUnpark (k : Nat) (s : State) : Host.Outcome State Fault Refusal :=
  .next (s.start k Op.seq (seqForm 4) (fun s c => s.seqOp c [2] (fun s p kv q =>
    let r := s.allResident p kv q
    if !r.2.1 then (some (fail St.uncorrectable), 0, 0, r.2.2)
    else if !r.1 then (some (fail St.badArgument), 0, 0, r.2.2)
    else (some (okWith []), 0, 0, r.2.2.setSeqState (ef c.entry 12 4) 1))))

/-- SEQ_READ (10 R291, 13 R410). -/
def execSeqRead (k : Nat) (s : State) : Host.Outcome State Fault Refusal :=
  .next (s.perform k Op.seq (seqForm 8) (fun s c =>
    let q := ef c.entry 12 4
    match s.seqTarget c q with
    | .inl r => (r, s)
    | .inr p =>
      if s.filling p then (fail St.busy, s) else
      let r := s.ccRead none (s.seqAddr q) 128
      if r.2.1 ≠ 0 then (fail St.uncorrectable, r.2.2) else (okWith r.1, r.2.2)))

/-! ## FORK (10 R299) -/

/-- e with OWN cleared. -/
def plShared (e : DWord) : DWord := e &&& ~~~(BitVec.ofNat 64 (2 ^ 61))

/-- What has been shared so far: parent entries whose OWN was cleared, as (address, entry); a status that ends the fork. -/
structure Forked where
  done : List (Nat × DWord)
  child : List DWord
  bad : Option Nat
deriving DecidableEq, Repr

/-- Entry i of the parent shared, when it is wanted. -/
def State.forkEntry (s : State) (p : Nat) (k : KvLayout) (q : SeqEntry) (want : Bool) (f : Forked) (i : Nat) : Forked × State :=
  if f.bad.isSome then (f, s) else
  let r := s.listEntry p q i
  let e := r.1
  let s := r.2.2
  if !r.2.1 then ({ f with bad := some St.uncorrectable }, s)
  else if !want ∨ !plValid e then ({ f with child := f.child ++ [0] }, s)
  else
    let c := s.partAtomic (8 + s.loupe.active) p (k.countAt (plPage e)) (fun s a => s.refinc (some p) a)
    if c.status ≠ St.ok then ({ f with bad := some (if c.status = St.noResource then St.noResource else St.uncorrectable) }, c.st)
    else
      let w := c.st.putListEntry p q i (plShared e)
      ({ f with done := f.done ++ [(i, e)], child := f.child ++ [plShared e] }, w)

/-- Counts taken are given back and OWN restored. -/
def State.unfork (s : State) (p : Nat) (k : KvLayout) (q : SeqEntry) (f : Forked) : State :=
  f.done.foldl (fun s x =>
    ((s.partAtomic (8 + s.loupe.active) p (k.countAt (plPage x.2)) (fun s a => s.refdec (some p) a)).st).putListEntry p q x.1 x.2) s

/-- SEQ_FORK (10 R299), in one action: no parent entry changes under it. -/
def execSeqFork (k : Nat) (s : State) : Host.Outcome State Fault Refusal :=
  .next (s.start k Op.seq (seqForm 2) (fun s c => s.seqOp c [1] (fun s p kv q =>
    let e := c.entry
    let no (st : Nat) (s : State) : Option Result × Nat × Nat × State := (some (fail st), 0, 0, s)
    let child := ef e 16 4
    match s.seqTarget c child with
    | .inl r => (some r, 0, 0, s)
    | .inr p' =>
      let ch := s.loadSeq child
      let s := ch.2.2
      let len := ef e 20 4
      let n : SeqEntry := { q with state := 1, len := len, list := ef e 32 8, stream := ef e 40 4, parent := ef e 12 4, gen := ch.1.gen + 1 }
      if p' ≠ p then no St.badArgument s
      else if !ch.2.1 then no St.uncorrectable s
      else if ch.1.state ≠ 0 then no St.busy s
      else if q.len < len ∨ 2 ^ 20 ≤ n.stream ∨ !s.listFits p kv n then no St.badArgument s
      else
        let tpp := max 1 (kvTpp q.fmt kv.hd)
        let blocks := (len + tpp - 1) / tpp
        let g := s.partRead p q.list 256
        if g.2.1 ≠ 0 then no St.uncorrectable g.2.2 else
        let ring := if q.sparse then (q.wblk + 1) * kv.spb else listLen kv q
        let f := (List.range (listLen kv q)).foldl (fun (a : Forked × State) i =>
          let b := (a.2.listEntry p q i).1
          a.2.forkEntry p kv q (decide (ring ≤ i) || decide (plBlock b < blocks)) a.1 i) (⟨[], [], none⟩, g.2.2)
        match f.1.bad with
        | some st => no st (f.2.unfork p kv q f.1)
        | none =>
          let s := f.2.partWrite p n.list (padTo 512 g.1 ++ f.1.child.flatMap (fun x => leBytes 8 x.toNat))
          (some (okWith []), 0, 0, s.ccWrite none (s.seqAddr child) n.bytes false))))

/-! ## PARK and CLOSE (10 R292) -/

/-- The descriptors that the partition's walkers run, by engine: the number of those ended before it, plus 1. -/
def State.walkersAt (s : State) (p : Nat) : Nat :=
  (s.enginesOf p).foldl (fun a d =>
    let e := s.engine d
    if e.active ∧ dOp e.desc = 3 then a + (e.ended + 1) * 2 ^ (64 * d) else a) 0
/-- All of them have completed. -/
def State.drained (s : State) (w : Nat) : Bool :=
  (List.range 192).all (fun d =>
    let v := w / 2 ^ (64 * d) % 2 ^ 64
    v == 0 || !(s.engine d).active || (s.engine d).ended + 1 != v)

/-- SEQ_PARK (10 R292). -/
def execSeqPark (k : Nat) (s : State) : Host.Outcome State Fault Refusal :=
  .next (s.start k Op.seq (seqForm 3) (fun s c => s.seqOp c [1] (fun s p _ _ =>
    (none, s.walkersAt p, s.timebase, s.setSeqState (ef c.entry 12 4) 2))))

/-- PARK_DRAIN_TIMEOUT (10 R292): a PARK's drain has lasted more than 10 ms. -/
def execParkDrainTimeout (k : Nat) (s : State) : Host.Outcome State Fault Refusal :=
  match s.cmd k with
  | none => .next s
  | some c =>
    if c.opcode = Op.seq ∧ seqForm 3 c.entry ∧ c.begun ∧ c.result.isNone ∧ !s.drained c.aux ∧ c.aux2 + 10000000 < s.timebase then
      .next ((s.setSeqState (ef c.entry 12 4) 1).finish k (fail St.timeout))
    else .next s

/-- SEQ_CLOSE (10 R292). -/
def execSeqClose (k : Nat) (s : State) : Host.Outcome State Fault Refusal :=
  .next (s.start k Op.seq (seqForm 5) (fun s c => s.seqOp c [1, 2] (fun s p _ q =>
    let i := ef c.entry 12 4
    (none, s.walkersAt p, s.timebase, (s.setSeqState i 3).bumpGen i q.gen))))

/-- What an operation over a page list has done: failed entries, the first of them, entries processed, and where RESTORE stopped. -/
structure ListSum where
  failed : Nat
  first : Option Nat
  done : Nat
  stop : Option Nat
deriving DecidableEq, Repr

def ListSum.zero : ListSum := ⟨0, none, 0, none⟩
def ListSum.note (m : ListSum) (i : Nat) (ok : Bool) : ListSum :=
  { m with failed := m.failed + b2n (!ok), first := if ok then m.first else m.first.or (some i), done := m.done + 1 }
/-- The result (14 R439). -/
def ListSum.result (m : ListSum) : Result :=
  ⟨if m.stop.isSome then St.poolEmpty else if m.failed = 0 then St.ok else St.partial_, BitVec.ofNat 32 m.failed,
   leBytes 4 m.failed ++ leBytes 4 (m.first.getD 0xFFFFFFFF) ++ leBytes 4 (m.stop.getD 0) ++ leBytes 4 m.done⟩

/-- The end of CLOSE: every resident page is released and the entry is FREE. -/
def State.closeSeq (s : State) (q : Nat) : Result × State :=
  match s.partOfSeq q with
  | none => (fail St.badArgument, s)
  | some p =>
    let r := s.loadSeq q
    match s.kvOf p with
    | none => (okWith [], r.2.2.setSeqState q 0)
    | some kv =>
      let m := (List.range (listLen kv r.1)).foldl (fun (a : ListSum × State) i =>
        let x := a.2.listEntry p r.1 i
        if !x.2.1 then (a.1.note i false, x.2.2)
        else if plValid x.1 ∧ plRes x.1 then
          let y := x.2.2.release (8 + s.loupe.active) p kv x.1
          (a.1.note i y.1, y.2)
        else (a.1.note i true, x.2.2)) (ListSum.zero, r.2.2)
      (m.1.result, m.2.setSeqState q 0)

/-! ## EVICT and RESTORE (10 R314) -/

/-- A 64-byte DMA write to, or read from, the host for a partition (20 R603). -/
def State.hostOut (s : State) (p addr : Nat) (b : Bytes) (poi : Bool) : State :=
  ((s.tally (some p) 6 (Cnt.pciePart p 3) b.length).tally none 6 (Cnt.pcie 0 0) b.length).send (.hostWrite 0 addr b poi)
def State.hostIn (s : State) (p n : Nat) : State := (s.tally (some p) 6 (Cnt.pciePart p 2) n).tally none 6 (Cnt.pcie 0 1) n

/-- A page copied to the host; whether every granule was good. -/
def State.pageOut (s : State) (p a addr : Nat) : Bool × State :=
  (List.range 1024).foldl (fun (x : Bool × State) i =>
    let g := x.2.ccRead none (a + 64 * i) 64
    (x.1 && g.2.1 == 0, g.2.2.hostOut p (addr + 64 * i) g.1 (g.2.1 != 0))) (true, s)

/-- Entry i evicted. -/
def State.evictEntry (s : State) (p : Nat) (kv : KvLayout) (q : SeqEntry) (hbase : Nat) (m : ListSum) (i : Nat) : ListSum × State :=
  let r := s.listEntry p q i
  let e := r.1
  let s := r.2.2
  if !r.2.1 then (m.note i false, s)
  else if !plValid e ∨ !plRes e then (m.note i true, s)
  else match s.translate p (kv.pageAt (plPage e)) .read with
  | none => (m.note i false, s)
  | some (a, _) =>
    let c := s.pageOut p a (hbase + 0x10000 * i)
    let new : DWord := BitVec.ofNat 64 (2 ^ 63 + plPool e * 2 ^ 56 + plBlock e * 2 ^ 32 + i % 2 ^ 32)
    let f := (c.2.putListEntry p q i new).release (8 + s.loupe.active) p kv e
    (m.note i (c.1 && f.1), f.2)

/-- SEQ_EVICT (10 R314). -/
def execSeqEvict (k : Nat) (s : State) : Host.Outcome State Fault Refusal :=
  .next (s.start k Op.seq (seqForm 6) (fun s c => s.seqOp c [2] (fun s p kv q =>
    let hb := ef c.entry 48 8
    if hb % 0x10000 ≠ 0 then (some (fail St.badArgument), 0, 0, s) else
    let m := (List.range (listLen kv q)).foldl (fun (a : ListSum × State) i => a.2.evictEntry p kv q hb a.1 i) (ListSum.zero, s)
    (some m.1.result, 0, 0, m.2))))

/-- Entry i restored from what the host answers at HBASE + 64 KiB × PAGE. -/
def State.restoreEntry (s : State) (p : Nat) (kv : KvLayout) (q : SeqEntry) (hbase : Nat)
    (host : List (Nat × HostKind × List Byte)) (m : ListSum) (i : Nat) : ListSum × State :=
  let r := s.listEntry p q i
  let e := r.1
  let s := r.2.2
  if m.stop.isSome then (m, s)
  else if !r.2.1 then (m.note i false, s)
  else if !plValid e ∨ plRes e then (m.note i true, s)
  else match s.alloc (8 + s.loupe.active) p kv q.pool with
  | (.empty, s) => ({ m with stop := some i }, s)
  | (.bad _, s) => (m.note i false, s)
  | (.page n, s) =>
    let new := plNew n q.pool (plBlock e)
    match s.translate p (kv.pageAt n) .write with
    | none => (m.note i false, (s.release (8 + s.loupe.active) p kv new).2)
    | some (a, _) =>
      let s := s.hostIn p 0x10000
      let h := ((host.find? (fun x => x.1 == hbase + 0x10000 * plPage e)).map (·.2)).getD (.aborted, [])
      let v := s.free (8 * 0x10000)
      let b := if h.1 = .aborted then leBytes 0x10000 v.1.toNat else padTo 0x10000 (h.2.take 0x10000)
      let s := v.2.ccWrite none a b (h.1 != .ok)
      (m.note i (h.1 == .ok), s.putListEntry p q i new)

/-- SEQ_RESTORE (10 R314); `pages` lists by PCIe address what the host answers for a page: an address that it does not list is not answered. -/
def execSeqRestore (k : Nat) (pages : List (Nat × HostKind × List Byte)) (s : State) : Host.Outcome State Fault Refusal :=
  .next (s.start k Op.seq (seqForm 7) (fun s c => s.seqOp c [2] (fun s p kv q =>
    let hb := ef c.entry 48 8
    if hb % 0x10000 ≠ 0 then (some (fail St.badArgument), 0, 0, s) else
    let m := (List.range (listLen kv q)).foldl (fun (a : ListSum × State) i => a.2.restoreEntry p kv q hb pages a.1 i) (ListSum.zero, s)
    (some m.1.result, 0, 0, m.2))))

end Sys2Proof.Machine
end

