-- ==== Sys2Proof/Machine/Maint.lean ====
section
/-! DEFINITION. Slice maintenance: scrub, row sparing, and a slice's part of a replica pass (07 R224–R227, 11 R337, R338). -/

namespace Sys2Proof.Machine

/-- The row of a beat, as bank × 128 + row (07 R213). -/
def beatRow (i : Nat) : Nat := i % 8 * 128 + i / 4096 % 128
/-- The first beat of a row, and its beat in column c. -/
def rowBeat (row c : Nat) : Nat := row % 128 * 4096 + 8 * c + row / 128

/-- Rows replaced, being copied or waiting for a copy. -/
def Slice.taken (x : Slice) : List Nat :=
  x.spared ++ x.toSpare ++ (match x.copy with | some (r, _) => [r] | none => [])

/-- A row is being copied to a spare or waits for it. -/
def Slice.awaits (x : Slice) (row : Nat) : Bool :=
  x.toSpare.contains row || (match x.copy with | some (r, _) => r == row | none => false)

/-- A spare row is left in a row's bank, two a bank (07 R227). -/
def Slice.spareFor (x : Slice) (row : Nat) : Bool :=
  decide ((x.taken.filter (fun r => r / 128 == row / 128)).length < 2)

/-- A beat is read, decoded and written back: corrected as clean data, uncorrectable with the poison signature; one with the
signature stays (07 R225, R227). Returns what was found. -/
def State.rewriteBeat (s : State) (n i : Nat) : Beat × State :=
  let b := s.decodeBeat n (32 * i)
  let s := s.countBeat n b.res
  match b.res with
  | .corrected _ => (b, s.writeBeat n (32 * i) b.data false)
  | .uncorrectable => (b, s.writeBeat n (32 * i) b.data true)
  | _ => (b, s)

/-- The rows a scrub has marked when it leaves them, those of the banks given, are spared while a spare of their bank remains, one that a
spare has replaced before included (07 R225). -/
def Scrub.leave (k : Scrub) (x : Slice) (i : Nat) (banks : List Nat) : Scrub × Slice :=
  banks.foldl (fun (a : Scrub × Slice) b =>
    let row := b * 128 + i / 4096 % 128
    let mark := decide (4 ≤ SMap.get 0 a.1.marks b)
    ({ a.1 with marks := SMap.set 0 a.1.marks b 0 },
     if mark && a.2.spareFor row && !a.2.awaits row
     then { a.2 with toSpare := a.2.toSpare ++ [row] } else a.2)) (k, x)

/-- The next beat of a scrub (07 R225). -/
def State.scrubBeat (s : State) (n : Nat) (k : Scrub) : State :=
  let i := k.beat
  let r := s.rewriteBeat n i
  let s := r.2
  let hit : Nat := match r.1.res with
    | .uncorrectable => 4
    | .corrected _ => if r.1.outside then 1 else 0
    | _ => 0
  let k := { k with
    beat := i + 1,
    corrected := k.corrected + (match r.1.res with | .corrected _ => 1 | _ => 0),
    uncorr := k.uncorr + (if r.1.res = BeatRes.uncorrectable then 1 else 0),
    firstBad := if r.1.res = BeatRes.uncorrectable then k.firstBad.or (some (32 * i)) else k.firstBad,
    marks := SMap.set 0 k.marks (i % 8) (SMap.get 0 k.marks (i % 8) + hit) }
  let banks := if k.beat = k.last then List.range 8 else if i % 4096 ≥ 4088 then [i % 8] else []
  let y := k.leave (s.slice n) i banks
  s.setSlice n { y.2 with scrub := some y.1 }

/-- The index of a core among its partition's, in ascending number (11 R337). -/
def State.coreIndex (s : State) (p n : Nat) : Nat := ((s.coresOf p).filter (fun m => decide (m < n))).length

/-- The next beat of a replica pass (11 R337, R338). -/
def State.passBeat (s : State) (n p : Nat) (k : Pass) : State :=
  let regs := match (s.part p).facet.replica with
    | some g => g.regions.zipIdx.filter (fun r : Region × Nat => r.1.kind == 0 && decide (0 < r.1.len))
    | none => []
  match regs[k.idx]? with
  | none => s.setSlice n { s.slice n with pass := some { k with fin := true } }
  | some (r, j) =>
    let crc0 := if k.pos = 0 then crc64 0 ([BitVec.ofNat 8 j, 1] ++ leBytes 2 (s.coreIndex p n) ++ leBytes 4 0) else k.crc
    let b := s.readBeat n (r.base + k.pos)
    let crc := crc64 crc0 b.1
    let bad := k.bad || b.2.1
    let k := if k.pos + 32 ≥ r.len then { k with idx := k.idx + 1, pos := 0, crc := 0, acc := k.acc ^^^ crc, bad := bad }
      else { k with pos := k.pos + 32, crc := crc, bad := bad }
    let k := { k with fin := decide (regs.length ≤ k.idx) }
    b.2.2.setSlice n { b.2.2.slice n with pass := some k }

/-- Whether slice n's maintenance engine may move a beat now, and the slice's count of beats in the window (07 R224): in a
running partition 32 in each base window; otherwise when its block holds its slices. -/
def State.maintTurn (s : State) (n : Nat) : Option (Nat × Nat) :=
  let x := s.slice n
  let st := (s.block (blockOf n)).state
  let free : Option (Nat × Nat) := if st = .active ∨ st = .retain then some x.win else none
  match s.partOfCore n with
  | none => free
  | some p =>
    if ¬ s.partIn p [.running] then free else
    let u := (s.core n).seq.now + 4096 - (s.part p).facet.glob.refoff % 4096
    if u % 4096 ≥ 192 then none else
    let w := u / 4096
    let cnt := if x.win.1 = w then x.win.2 else 0
    if cnt < 32 then some (w, cnt + 1) else none

/-- MAINTENANCE_BEAT (07 R224): slice n's engine moves one beat, for a replica pass, else for a copy to a spare row, else for a
scrub (DESIGN CHOICE, log 90). -/
def execMaintenanceBeat (n : CoreId) (s : State) : Host.Outcome State Fault Refusal :=
  match s.maintTurn n with
  | none => .next s
  | some w =>
    let x := { s.slice n with win := w }
    let s' := s.setSlice n x
    match x.pass, s.partOfCore n with
    | some k, some p => if !k.fin then .next (s'.passBeat n p k) else .next (work s' x)
    | _, _ => .next (work s' x)
where
  work (s : State) (x : Slice) : State :=
    match x.copy with
    | some (row, c) =>
      if c < 512 then
        let s := (s.rewriteBeat n (rowBeat row c)).2
        s.setSlice n { s.slice n with copy := some (row, c + 1) }
      else s
    | none =>
      match x.toSpare with
      | row :: rows =>
        let s := s.setSlice n { x with toSpare := rows }
        let s := (s.rewriteBeat n (rowBeat row 0)).2
        s.setSlice n { s.slice n with copy := some (row, 1) }
      | [] =>
        match x.scrub with
        | some k => if k.beat < k.last then s.scrubBeat n k else s
        | none => s

/-- SPARE_ROW_COPY_DONE (07 R227): the copy pointer has reached 512 and the spare replaces the row. -/
def execSpareRowCopyDone (n : CoreId) (s : State) : Host.Outcome State Fault Refusal :=
  let x := s.slice n
  match x.copy with
  | some (row, 512) =>
    let sc := x.scrub.map (fun k => { k with spared := k.spared + 1 })
    let s := s.setSlice n { x with copy := none, spared := x.spared ++ [row], scrub := sc }
    .next (s.setField (Reg.sliceStatus n) 0 5 (bits (s.reg (Reg.sliceStatus n)) 0 5 - 1))
  | _ => .next s

end Sys2Proof.Machine
end

