-- ==== Sys2Proof/Machine/Scrub.lean ====
section
/-! DEFINITION. SCRUB, SELF_TEST and SPARE_APPLY, and the repair record (07 R225, R227, 14 R440–R442, 17 R535–R543, 19 R587, R598–R601). -/

namespace Sys2Proof.Machine

/-! ## SCRUB (14 R440, 17 R538, R539) -/

/-- What a scrub has found: corrected, uncorrectable, the smallest bad address, rows spared, and the failed units as a set. -/
structure Found where
  corr : Nat
  unc : Nat
  first : Option Nat
  rows : Nat
  failed : Nat
deriving DecidableEq, Repr

def Found.zero : Found := ⟨0, 0, none, 0, 0⟩
def Found.bad (f : Found) (a : Nat) : Found :=
  { f with unc := f.unc + 1, first := some (match f.first with | some x => min x a | none => a) }
def Found.fail (f : Found) (u : Nat) : Found := { f with failed := f.failed ||| 2 ^ u }

/-- The result of a SCRUB. -/
def Found.result (f : Found) : Result :=
  let n := popCount 512 f.failed
  ⟨if n = 0 then St.ok else St.partial_, BitVec.ofNat 32 n,
   leBytes 8 f.corr ++ leBytes 8 f.unc ++ leBytes 8 (f.first.getD (2 ^ 64 - 1)) ++ leBytes 4 f.rows ++ leBytes 4 0 ++ leBytes 64 f.failed⟩

def scrubForm (t : Nat) (e : BitVec 512) : Bool := ef e 9 1 == t

/-- Bytes of a core's window that hold its SRAM, bundle, blend and route memories (07 R203). -/
def coreBytes : Nat := routeOff + 0x2000

/-- One word of core n's memories: read, checked, and written back when corrected or uncorrectable. -/
def State.scrubWord (s : State) (n off : Nat) (f : Found) : Found × State :=
  let a := coreWindow n + off
  let w := s.mem.word a
  let stored := SMap.get false s.mem.poison a
  let s := s.countCheck n w.2.2 (if off < sramBytes then some (off / 8) else none)
  match w.2.2 with
  | .clean => (f, s)
  | .corrected => (if stored then f else { f with corr := f.corr + 1 }, { s with mem := s.mem.writeUnit a w.1 stored })
  | .bad => (if stored then f else (f.bad (n * 2 ^ 18 + off)).fail (blockOf n), { s with mem := s.mem.writeUnit a w.1 true })

/-- SCRUB_SRAM (14 R440): the range of every core, while the partition is neither RUNNING nor PAUSED. Its blocks are ACTIVE for that time: the
memories of one in OFF are cleared as it is raised (07 R212, 18 R558). -/
def execScrubSram (k : Nat) (s : State) : Host.Outcome State Fault Refusal :=
  .next (s.perform k Op.scrub (scrubForm 0) (fun s c =>
    let p := (cmdPart c.via Op.scrub c.entry).getD 0
    let base := ef c.entry 16 8
    let len := ef c.entry 24 8
    if s.partIn p [.empty, .retiring, .running, .paused] then (fail St.busy, s)
    else if base % 32 ≠ 0 ∨ len % 32 ≠ 0 ∨ coreBytes < base + len then (fail St.badArgument, s)
    else
      let r := (s.coresOf p).foldl (fun (a : Found × State) n =>
        if (a.2.block (blockOf n)).state = .retired then (a.1.fail (blockOf n), a.2)
        else (List.range (len / 8)).foldl (fun (a : Found × State) i => a.2.scrubWord n (base + 8 * i) a.1) a) (Found.zero, s.setBlocksNow p .active)
      (r.1.result, r.2.setBlocksNow p (r.2.part p).state.blocks)))

/-- Blocks of p that lie in OFF are raised to RETAIN for maintenance (07 R224). -/
def State.raiseForMaint (s : State) (bs : List Nat) : State :=
  bs.foldl (fun s b => if (s.block b).target = .off then s.retarget b .retain else s) s
/-- A slice of a block still has a scrub or a copy to a spare row under way. -/
def State.maintLeft (s : State) (b : Nat) : Bool :=
  (coresOfBlock b).any (fun n => let x := s.slice n; x.scrub.isSome || x.copy.isSome || !x.toSpare.isEmpty)

/-- They return to what their partition's state asks for, those apart whose slices still have maintenance to do. -/
def State.endMaint (s : State) (bs : List Nat) : State :=
  bs.foldl (fun s b => if s.maintLeft b then s else match s.partOfBlock b with
    | some p => s.retarget b (s.part p).state.blocks
    | none => s.retarget b .off) s

/-- SCRUB_SLICE (07 R225): every slice of the partition starts; its engine scrubs it beat by beat. -/
def execScrubSlice (k : Nat) (s : State) : Host.Outcome State Fault Refusal :=
  .next (s.start k Op.scrub (scrubForm 1) (fun s c =>
    let p := (cmdPart c.via Op.scrub c.entry).getD 0
    let base := ef c.entry 16 8
    let len := ef c.entry 24 8
    if s.partIn p [.empty, .retiring] then (some (fail St.busy), 0, 0, s)
    else if base % 32 ≠ 0 ∨ len % 32 ≠ 0 ∨ sliceBytes < base + len then (some (fail St.badArgument), 0, 0, s)
    else
      let s := s.raiseForMaint (s.blocksOf p)
      (none, 0, 0, (s.coresOf p).foldl (fun s n =>
        if (s.block (blockOf n)).state = .retired then s else
        s.setSlice n { s.slice n with scrub := some ⟨base / 32, (base + len) / 32, 0, 0, none, 0, []⟩ }) s)))

/-- Slice n has finished its scrub and what it marked is copied. -/
def State.scrubOver (s : State) (n : Nat) : Bool :=
  let x := s.slice n
  match x.scrub with
  | some k => decide (k.last ≤ k.beat) && x.copy.isNone && x.toSpare.isEmpty
  | none => true

/-- The end of a SCRUB_SLICE as it stands: the sum of what the slices found; a block of which one has not finished has failed (14 R449). -/
def State.sumScrub (s : State) (p : Nat) : Result × State :=
  let r := (s.coresOf p).foldl (fun (a : Found × State) n =>
    match (a.2.slice n).scrub with
    | some k =>
      let f := a.1
      let addr := k.firstBad.map (fun o => n * 2 ^ 24 + o)
      let first := match f.first, addr with
        | some x, some y => some (min x y)
        | some x, none => some x
        | none, y => y
      let f := { f with corr := f.corr + k.corrected, unc := f.unc + k.uncorr, first := first, rows := f.rows + k.spared }
      (if k.uncorr = 0 ∧ a.2.scrubOver n then f else f.fail (blockOf n), a.2.setSlice n { a.2.slice n with scrub := none })
    | none => (a.1.fail (blockOf n), a.2)) (Found.zero, s)
  (r.1.result, r.2.endMaint (s.blocksOf p))

/-- It ends once no slice works. -/
def State.endScrubSlice (s : State) (p : Nat) : Option (Result × State) :=
  if (s.coresOf p).all s.scrubOver then some (s.sumScrub p) else none

/-- A channel that a SCRUB_HBM names is under THROTTLE 2, which the accesses of its Clove core wait for (09 R283). -/
def State.scrubStalled (s : State) (k : Nat) : Bool :=
  match s.cmd k with
  | some c =>
    let p := (cmdPart c.via Op.scrub c.entry).getD 0
    let ws := (s.part p).facet.memmap.map Window.of
    (List.range (ef c.entry 24 8 / 2048)).any (fun i =>
      match devOf ws (ef c.entry 16 8 + 2048 * i) with
      | some d => s.cloveThrottle (chanOfAddr d) == 2
      | none => false)
  | none => false

/-- SCRUB_HBM (14 R440): each 2 KiB run of the range in its channel; a channel whose Clove core is HALTED, or that is not in service, fails. -/
def execScrubHbm (k : Nat) (s : State) : Host.Outcome State Fault Refusal :=
  if s.scrubStalled k then .next s else
  .next (s.perform k Op.scrub (scrubForm 2) (fun s c =>
    let p := (cmdPart c.via Op.scrub c.entry).getD 0
    let base := ef c.entry 16 8
    let len := ef c.entry 24 8
    let ws := (s.part p).facet.memmap.map Window.of
    if s.partIn p [.empty, .retiring] ∨ s.filling p then (fail St.busy, s)
    else if base % 2048 ≠ 0 ∨ len % 2048 ≠ 0 ∨ !(len == 0 || reaches ws 0 base len (fun _ => true)) then (fail St.badArgument, s)
    else
      let r := (List.range (len / 2048)).foldl (fun (a : Found × State) i =>
        match devOf ws (base + 2048 * i) with
        | none => a
        | some d =>
          let ch := chanOfAddr d
          if (a.2.clove ch).halted ∨ !a.2.chanUp ch then (a.1.fail ch, a.2) else
          let q := a.2.scrubHbm ch [⟨0, d, 2048, false⟩]
          let f := { a.1 with corr := a.1.corr + q.1.corr, unc := a.1.unc + q.1.unc, rows := a.1.rows + q.2.1,
                              first := a.1.first.or (q.1.first.map (fun o => base + 2048 * i + o)) }
          (if q.1.unc = 0 then f else f.fail ch, q.2.2)) (Found.zero, s)
      (r.1.result, r.2)))

/-! ## SELF_TEST (14 R441, 17 R535–R543) -/

/-- SELF_TEST, with the partition's blocks ACTIVE for its time (18 R558): `bad` lists the tests that fail as (1 CHECKERS, 2 LAYER_INJECT,
3 CORE_KAT, 4 MEMORY; block). The spec gives no number of injection cases. -/
def execSelfTest (k : Nat) (bad : List (Fin 5 × BlockId)) (s : State) : Host.Outcome State Fault Refusal :=
  .next (s.perform k Op.selfTest (fun _ => true) (fun s c =>
    let p := (cmdPart c.via Op.selfTest c.entry).getD 0
    let t := ef c.entry 9 1 % 16
    if !s.partIn p [.configured, .loaded, .stopped, .faulted] then (fail St.busy, s) else
    let hits := (bad.map (fun x => (x.1.val, x.2.val))).filter (fun x => decide (0 < x.1) && bitOf t (x.1 - 1) && bitOf (s.rec_ p).blocks x.2)
    let failed := hits.foldl (fun a x => a ||| 2 ^ x.2) 0
    let first := hits.foldl (fun (a : Option (Nat × Nat)) x =>
      match a with
      | some y => if x.1 < y.1 ∨ (x.1 = y.1 ∧ x.2 < y.2) then some x else a
      | none => some x) none
    let s := s.setBlocksNow p .active
    let v := s.free 32
    let cases := if t % 4 = 0 then 0 else v.1.toNat
    let s := v.2
    let s := if bitOf t 3 then
        let s := (s.zeroPart p).setPart p { s.part p with facet := Facet.none, facetDigest := 0, weightDigest := 0, imageId := 0, signed := false }
        ((s.configPart p Facet.none).clearPart p Facet.none).move p .configured
      else s
    let s := s.setBlocksNow p (s.part p).state.blocks
    (⟨if failed = 0 then St.ok else St.partial_, 0,
      leBytes 32 failed ++ leBytes 1 t ++ leBytes 1 (first.map (·.1) |>.getD 0) ++ leBytes 2 (first.map (·.2) |>.getD 0xFFFF) ++ leBytes 4 cases⟩, s)))

/-! ## The repair record (19 R587) -/

def repairOff : Nat := 0x200000
def repairHead (count serial gen : Nat) : Bytes :=
  padTo 60 (leBytes 4 0x52494150 ++ leBytes 1 1 ++ leBytes 1 0xA1 ++ leBytes 2 count ++ leBytes 8 serial ++ leBytes 4 gen)
def repairImage (serial gen : Nat) (es : List Bytes) : Bytes :=
  let h := repairHead es.length serial gen
  h ++ leBytes 4 (crc32 (h ++ es.flatten)) ++ es.flatten
def repairEntry (kind : Nat) (loc : Bytes) : Bytes := leBytes 1 kind ++ loc ++ [0]

/-- Its entries, when a chip's record is valid. -/
def State.repairRec (s : State) (chip : Nat) : Option (Nat × List Bytes) :=
  let b := s.flashRec chip repairOff
  let n := hField b 6 2
  let gen := hField b 16 4
  if b.length = 64 + 8 * n ∧ n ≤ 1024 ∧ b = repairImage s.loupe.serial gen (recs (b.drop 64) 8) then some (gen, recs (b.drop 64) 8) else none
/-- The record selected: chip 0's when it is valid, else chip 1's (19 R586). -/
def State.repairs (s : State) : Option (Nat × List Bytes) := (s.repairRec 0).or (s.repairRec 1)

/-- Entries that an earlier one, or a fused column, makes impossible are left out. -/
def State.keepRepairs (s : State) (es : List Bytes) : List Bytes :=
  es.foldl (fun acc e =>
    let kind := hField e 0 1
    let clash : Bool :=
      if kind = 3 then
        let half := 2 * hField e 1 1 + hField e 2 1 / 33
        (SMap.find s.loupe.fusedCols half).isSome || acc.any (fun o => hField o 0 1 == 3 && 2 * hField o 1 1 + hField o 2 1 / 33 == half)
      else if kind = 4 then acc.any (fun o => o == e)
      else if kind = 2 then acc.any (fun o => hField o 0 1 == 2 && sub o 1 3 == sub e 1 3)
      else true
    if clash then acc else acc ++ [e]) []

/-- The record is written with one entry more. -/
def State.recordRepair (s : State) (kind : Nat) (loc : Bytes) : State :=
  let old := s.repairs.getD (0, [])
  s.putBoth repairOff (repairImage s.loupe.serial ((old.1 + 1) % 2 ^ 32) (s.keepRepairs (old.2 ++ [repairEntry kind loc]))) true true

/-! ## SPARE_APPLY (14 R442) -/

def spareForm (t : Nat) (e : BitVec 512) : Bool := ef e 8 1 == t
def spareLoc (e : BitVec 512) : Bytes := leBytes 6 (ef e 12 6)
def spareDone (kind left : Nat) (more : Bytes) : Result := okWith (leBytes 1 kind ++ leBytes 3 0 ++ leBytes 4 left ++ more)

/-- A block that bring-up has neither released nor retired (14 R427). -/
def State.unreleased (s : State) (b : Nat) : Bool := bits (s.reg (Reg.released (b / 32))) (b % 32) 1 == 0 && (s.block b).state != .retired

/-- SPARE_SLICE_ROW (07 R227): the row waits for the slice's engine to copy it. -/
def execSpareSliceRow (k : Nat) (s : State) : Host.Outcome State Fault Refusal :=
  .next (s.start k Op.spare (spareForm 0) (fun s c =>
    let n := ef c.entry 12 2
    let row := ef c.entry 14 1 * 128 + ef c.entry 15 1
    let no (st : Nat) : Option Result × Nat × Nat × State := (some (fail st), 0, 0, s)
    if n < 16384 ∧ s.unreleased (blockOf n) then no St.busy
    else if 16384 ≤ n ∨ 7 < ef c.entry 14 1 ∨ 127 < ef c.entry 15 1 ∨ ef c.entry 16 2 ≠ 0 ∨ (s.block (blockOf n)).state = .retired then no St.badArgument
    else
      let x := s.slice n
      let copying : Bool := match x.copy with | some (r, _) => r == row | none => false
      let going := x.toSpare.contains row || copying
      if going then (none, 0, 0, s)
      else if bits (s.reg (Reg.sliceStatus n)) 0 5 = 0 ∨ !x.spareFor row then no St.noResource
      else (none, 0, 0, (s.raiseForMaint [blockOf n]).setSlice n { x with toSpare := x.toSpare ++ [row] })))

/-- The end of SPARE_SLICE_ROW; none while the row is not replaced. -/
def State.endSpareRow (s : State) (e : BitVec 512) : Option (Result × State) :=
  let n := ef e 12 2
  let row := ef e 14 1 * 128 + ef e 15 1
  let x := s.slice n
  let copying : Bool := match x.copy with | some (r, _) => r == row | none => false
  if x.toSpare.contains row || copying then none
  else some (spareDone 0 (bits (s.reg (Reg.sliceStatus n)) 0 5) [], s.endMaint [blockOf n])

/-- One granule of an HBM row is read and written back with a fresh code. -/
def State.refreshUnit (s : State) (a : Nat) : State :=
  let u := s.mem.unit a
  let s := s.countUnit a u
  if u.bad = 2 ∨ u.fixed then s.rewriteUnit a u else s

/-- SPARE_HBM_ROW (19 R599). -/
def execSpareHbmRow (k : Nat) (s : State) : Host.Outcome State Fault Refusal :=
  .next (s.perform k Op.spare (spareForm 1) (fun s c =>
    let e := c.entry
    let ch := 32 * ef e 12 1 + ef e 13 1
    let row := ef e 16 2
    if 15 < ef e 12 1 ∨ 31 < ef e 13 1 ∨ 31 < ef e 14 1 ∨ ef e 15 1 ≠ 0 ∨ 49152 ≤ row then (fail St.badArgument, s)
    else if !s.chanUp ch then (fail St.busy, s)
    else
      let left := bits (s.reg (Reg.hbmStatus ch)) 0 5
      if left = 0 then (fail St.noResource, s) else
      let base := chanAddr ch + row * 2 ^ 15 + ef e 14 1 * 2 ^ 6
      let s := (List.range 32).foldl (fun s i => s.refreshUnit (base + i / 2 * 2 ^ 11 + i % 2 * 32)) s
      let s := s.setField (Reg.hbmStatus ch) 0 5 (left - 1)
      let s := s.setChan ch { s.chan ch with spareRows := (s.chan ch).spareRows ++ [row * 32 + ef e 14 1] }
      (spareDone 1 (left - 1) [], s)))

/-- SPARE_UCIE_LANE (19 R598). -/
def execSpareUcieLane (k : Nat) (s : State) : Host.Outcome State Fault Refusal :=
  .next (s.perform k Op.spare (spareForm 2) (fun s c =>
    let e := c.entry
    let edge := ef e 12 1
    let m := ef e 13 1
    let dir := ef e 14 1
    let lane := ef e 15 1
    if 13 < edge ∨ (if edge < 10 then 16 else 8) ≤ m ∨ 1 < dir ∨ 17 < lane ∨ ef e 16 2 ≠ 0 then (fail St.badArgument, s) else
    let i := xingId edge m
    let x := s.xing i
    if (SMap.find x.laneMap dir).isSome then (fail St.noResource, s) else
    let s := s.setXing i { x with laneMap := SMap.put x.laneMap dir lane }
    (spareDone 2 0 [], s.recordRepair 2 (spareLoc e))))

/-- The half of a tile that a physical column lies in, and TILE_REPAIR's fields for it (01 R28, R31). -/
def halfUsed (w : Word) (h : Nat) : Bool := bits w (15 + 8 * h) 1 == 1
/-- Logical columns of a tile that move when physical column q is retired (01 R29). -/
def movedCols (q : Nat) : List Nat :=
  let h := q / 33
  (List.range (33 * h + 32 - q)).map (fun i => 32 * h + (q - 33 * h) + i)
/-- The blocks that the repair touches. -/
def movedBlocks (t q : Nat) : List Nat :=
  (List.range 32).filterMap (fun i => if (movedCols q).any (fun j => j / 8 == i % 8) then some (32 * t + i) else none)
/-- A core by its tile, row and logical column. -/
def coreInTile (t y j : Nat) : Nat := coreAt (t % 4 * 64 + j) (t / 4 * 32 + y)

/-- The number under which the slice of a core position out of service stands: a spare's, or one that a repair retired (01 R16, R28). -/
def outKey (t y q : Nat) : Nat := 16384 + 2112 * t + 66 * y + q

/-- What belongs to a slice itself: its spare rows, marks and layer register; it comes to stand under another core number. The slice of
a position that was out of service brings its spare rows. -/
def State.sliceTo (s : State) (n from_ : Nat) (old : State) : State :=
  let x := old.slice from_
  let layer : Word := if from_ < 16384 then old.reg (Reg.sliceLayer from_) else 0
  let left := if from_ < 16384 then bits (old.reg (Reg.sliceStatus from_)) 0 5 else 16 - x.spared.length
  let s := s.setSlice n { s.slice n with spared := x.spared, seen := x.seen, copy := none, toSpare := [], scrub := none }
  (s.setReg (Reg.sliceLayer n) layer).setField (Reg.sliceStatus n) 0 5 left

/-- Physical column q of tile t is retired: the half is remapped, the slices of the columns that move stand under their new cores, and
those of column q leave service (01 R28, R29). -/
def State.remap (s : State) (t q : Nat) : State :=
  let h := q / 33
  let o := Reg.tileRepair t
  let s := (s.setField o (15 + 8 * h) 1 1).setField o (8 + 8 * h) 7 q
  if movedCols q = [] then s else
  let s' := (movedCols q).foldl (fun s' j => (List.range 32).foldl (fun s' y =>
    s'.sliceTo (coreInTile t y j) (if j + 1 < 32 * h + 32 then coreInTile t y (j + 1) else outKey t y (33 * h + 32)) s) s') s
  (List.range 32).foldl (fun s' y => s'.setSlice (outKey t y q) (s.slice (coreInTile t y (q - h)))) s'

/-- Cores that move are cleared. -/
def State.clearMoved (s : State) (t q : Nat) : State :=
  (movedCols q).foldl (fun s j => (List.range 32).foldl (fun s y => (s.zeroCore (coreInTile t y j)).zeroSlice (coreInTile t y j)) s) s

/-- Partitions that exist and hold one of some blocks. -/
def State.holders (s : State) (bs : List Nat) : List Nat := (List.range 64).filter (fun p => bs.any (fun b => s.partOfBlock b == some p))

/-- SPARE_COLUMN (19 R600). -/
def execSpareColumn (k : Nat) (s : State) : Host.Outcome State Fault Refusal :=
  .next (s.perform k Op.spare (spareForm 3) (fun s c =>
    let e := c.entry
    let t := ef e 12 1
    let q := ef e 13 1
    let bs := movedBlocks t q
    let ps := s.holders bs
    if t < 8 ∧ q < 66 ∧ (bs.any s.unreleased ∨ ps.any (fun p => s.partIn p [.running, .paused])) then (fail St.busy, s)
    else if 7 < t ∨ 65 < q ∨ ef e 14 4 ≠ 0 then (fail St.badArgument, s)
    else if halfUsed (s.reg (Reg.tileRepair t)) (q / 33) then (fail St.noResource, s)
    else
      let s := (s.remap t q).clearMoved t q
      let s := ps.foldl (fun s p => s.setPart p { s.part p with relocated := true }) s
      let s := s.recordRepair 3 (spareLoc e)
      let w := s.reg (Reg.tileRepair t)
      let left := 2 - b2n (halfUsed w 0) - b2n (halfUsed w 1)
      (spareDone 3 left (leBytes 8 (ps.foldl (fun a p => a + 2 ^ p) 0)), s)))

/-- A block leaves service (18 R558, 01 R31). -/
def State.retireBlock (s : State) (b : Nat) : State :=
  if (s.block b).state = .retired then s else
  let q := (SMap.get [] s.aperture (b / 32)).filter (· != b)
  let s := { s with aperture := SMap.put s.aperture (b / 32) q }
  let s := s.setBlock b { s.block b with state := .retired, target := .retired, queued := false, ramping := false, fillCore := false, fillSlice := false }
  s.countField (Reg.tileRepair (b / 32)) 0 6 1

/-- SPARE_BLOCK (19 R601). -/
def execSpareBlock (k : Nat) (s : State) : Host.Outcome State Fault Refusal :=
  .next (s.perform k Op.spare (spareForm 4) (fun s c =>
    let e := c.entry
    let b := ef e 12 1
    if s.unreleased b ∨ (s.holders [b]).any (fun p => s.partIn p [.running, .paused]) then (fail St.busy, s)
    else if ef e 13 5 ≠ 0 then (fail St.badArgument, s)
    else if (s.block b).state = .retired then (spareDone 4 0 [], s)
    else (spareDone 4 0 [], (s.retireBlock b).recordRepair 4 (spareLoc e))))

end Sys2Proof.Machine
end

