-- ==== Sys2Proof/Machine/Count.lean ====
section
/-! DEFINITION. Counter and trace commands, and trace streams (20 R602–R616, 15 R457, R458, R476). -/

namespace Sys2Proof.Machine

/-! ## Counters (20 R603–R607) -/

/-- A unit of a counter set: its id, the offsets of its counters in order. -/
abbrev CntUnit := Nat × List Nat

/-- The counters of one unit. -/
def cntPer (set : Nat) : Nat := [4, 5, 2, 6, 3, 2, 4].getD set 0

/-- The units of a set in a scope, in ascending id. Two counters a unit for the functions of PCIE. -/
def State.cntUnits (s : State) (sc : Option Nat) (set : Nat) : List CntUnit :=
  let row (id n : Nat) (f : Nat → Nat) : CntUnit := (id, (List.range n).map f)
  let coreIn (n : Nat) : Bool := match sc with
    | some p => bitOf (s.rec_ p).blocks (blockOf n)
    | none => (s.partOfCore n).isNone
  if set = 0 then ((List.range 16384).filter coreIn).map (fun n => row n 4 (Cnt.core n))
  else if set = 1 then ((List.range 16384).filter coreIn).map (fun n => row n 5 (Cnt.mesh n))
  else if set = 2 then (List.range 16).flatMap (fun m => ((List.range 14).filter (fun e => (decide (e < 10) || decide (m < 8)) && s.xingPart e m == sc)).map
    (fun e => row (e + 65536 * m) 2 (Cnt.xing e m)))
  else if set = 3 then (List.range 32).flatMap (fun c => ((List.range 16).filter (fun t => s.partOfChan (32 * t + c) == sc)).map
    (fun t => row (t + 65536 * c) 6 (Cnt.hbm (32 * t + c))))
  else match sc with
    | some p =>
      if set = 4 then [0, 1].map (fun h => row (h + 65536 * p) 3 (Cnt.cc h p))
      else if set = 5 then (List.range 20).map (fun q => row (p + 65536 * q) 2 (Cnt.fabPart p q))
      else [row p 4 (Cnt.pciePart p)]
    | none =>
      if set = 4 then [0, 1].map (fun h => row h 3 (Cnt.ccTotal h))
      else if set = 5 then (List.range 20).map (fun q => row q 2 (Cnt.fab q))
      else [0, 1].map (fun f => row f 2 (Cnt.pcie f))

/-- The scope of a counter command: none for GLOBAL (20 R605). -/
def cntTarget (via : Via) (e : BitVec 512) : Option Nat :=
  match via.caller with
  | some p => some p
  | none => if ef e 9 1 % 2 = 1 then none else some (ef e 8 1)

def State.clearCounters (s : State) (sc : Option Nat) (set : Nat) : State :=
  { s with cnts := (s.cntUnits sc set).foldl (fun m u => u.2.foldl SMap.del m) s.cnts }

/-- COUNTER_CONFIG (20 R605): the caller's enable bits; a set that neither caller had enabled starts from 0 (20 R604). -/
def execCounterConfig (k : Nat) (s : State) : Host.Outcome State Fault Refusal :=
  .next (s.perform k Op.cntConfig (fun _ => true) (fun s c =>
    let sc := cntTarget c.via c.entry
    let o := cntScope sc
    let m := ef c.entry 12 4 % 128
    let at_ := if c.via.caller.isSome then 16 else 0
    let w := s.reg o
    let old := bits w at_ 7
    let any := bits w 0 7 ||| bits w 16 7
    let on := bits (BitVec.ofNat 32 (ef c.entry 9 1)) 1 1 = 1
    let new := if on then old ||| m else old &&& (127 - m)
    let s := s.setField o at_ 7 new
    let fresh := (List.range 7).filter (fun i => decide on && bitOf m i && !bitOf any i)
    (okWith (leBytes 4 new), fresh.foldl (fun s i => s.clearCounters sc i) s)))

/-- The counters as a tenant or the operator reads them (15 R457). -/
def State.cntValue (s : State) (tenant : Bool) (off : Nat) : Nat :=
  let v := SMap.get 0 s.cnts off
  if tenant then v / 65536 * 65536 else v

/-- The result in its whole units: the header first, each block's header before its first unit (20 R607). -/
def State.cntPieces (s : State) (tenant : Bool) (sc : Option Nat) (m us : Nat) : List Bytes :=
  let sets := members m 7
  (leBytes 4 m ++ leBytes 1 (sc.getD 0xFF) ++ zeros 3 ++ leBytes 8 us ++ leBytes 4 sets.length ++ zeros 12) ::
  sets.flatMap (fun i =>
    let us := s.cntUnits sc i
    let n := if i = 6 ∧ sc.isNone then 2 else cntPer i
    let head := leBytes 1 i ++ zeros 3 ++ leBytes 4 us.length ++ leBytes 4 n ++ zeros 4
    let body := us.map (fun u => leBytes 8 u.1 ++ u.2.flatMap (fun o => leBytes 8 (s.cntValue tenant o)))
    match body with
    | [] => [head]
    | b :: bs => (head ++ b) :: bs)

/-- As many leading pieces as fit in n bytes. -/
def fitPieces : Nat → List Bytes → Bytes
  | _, [] => []
  | n, b :: bs => if b.length ≤ n then b ++ fitPieces (n - b.length) bs else []

/-- COUNTER_READ (20 R606, 15 R457): a tenant's counters are taken at a whole millisecond of the timebase after the fetch. -/
def execCounterRead (k : Nat) (s : State) : Host.Outcome State Fault Refusal :=
  match s.cmd k with
  | none => .next s
  | some c =>
    let tenant := c.via.caller.isSome
    if tenant ∧ s.timebase % 1000000 ≠ 0 then .next s else
    .next (s.perform k Op.cntRead (fun _ => true) (fun s c =>
      let e := c.entry
      let addr := ef e 16 8
      let us := s.timebase / 1000
      let ps := s.cntPieces tenant (cntTarget c.via e) (ef e 12 4 % 128) us
      let need := (ps.map List.length).sum
      let most := if c.via = .mctp then 4096 - 272 else ef e 24 4
      if c.via ≠ .mctp ∧ addr % 64 ≠ 0 then (fail St.badArgument, s) else
      let b := fitPieces most ps
      let head := leBytes 4 b.length ++ leBytes 4 (if b.length < need then need else 0) ++ leBytes 8 us
      match c.via with
      | .ring r => (okWith head, s.hostPut (s.ringFunc r) addr b)
      | _ => (okWith (head ++ b), s)))

/-! ## Trace configuration and reads (20 R608, R612, R615) -/

/-- A caller's configuration of a partition. -/
def cfgIdx (tenant : Bool) (p : Nat) : Nat := 2 * p + (if tenant then 1 else 0)
def State.cfg (s : State) (i : Nat) : TraceCfg := SMap.get TraceCfg.reset s.traceCfg i
def State.setCfg (s : State) (i : Nat) (c : TraceCfg) : State := { s with traceCfg := SMap.set TraceCfg.reset s.traceCfg i c }

/-- The keys of the rings of a class that hold a partition's records, in ascending UNIT. -/
def State.ringKeys (s : State) (p cls : Nat) : List Nat :=
  if cls = 0 then (List.range 16384).filter (fun n => bitOf (s.rec_ p).blocks (blockOf n))
  else if cls = 1 then [0x10000, 0x10001]
  else (s.chansOf p).map (0x20000 + ·)

/-- Whether a class was recorded before: for the hubs, which serve every partition, by any configuration. -/
def State.recorded (s : State) (p cls : Nat) : Bool :=
  if cls = 1 then s.traceCfg.any (fun c => bitOf c.2.units 1) else bitOf (s.cfg (2 * p)).units cls || bitOf (s.cfg (2 * p + 1)).units cls

/-- A stream buffer that its caller may use (20 R612). -/
def State.streamOk (s : State) (tenant : Bool) (p buf len : Nat) : Bool :=
  buf % 0x10000 == 0 && len % 0x10000 == 0 && decide (0x10000 ≤ len) && decide (len ≤ 2 ^ 30) &&
  (if tenant then reaches ((s.part p).facet.memmap.map Window.of) 0 buf len wBoth
   else inChannels s.devFacet.svcChannels buf len && !overlap buf len s.devFacet.seqtab 0x8000000 &&
     !overlap buf len s.devFacet.stageBase s.devFacet.stageLen)

/-- The device address of byte o of a stream's buffer. -/
def State.traceBufAddr (s : State) (i o : Nat) : Option Nat :=
  let c := s.cfg i
  if i % 2 = 0 then some (c.buf + o) else devOf ((s.part (i / 2)).facet.memmap.map Window.of) (c.buf + o)
def State.traceBufPut (s : State) (i o : Nat) (b : Bytes) : State :=
  match s.traceBufAddr i o with
  | some a => s.ccWrite none a b false
  | none => s

/-- What a stream's writers hold is forgotten. -/
def State.dropStream (s : State) (i : Nat) : State :=
  { s with traceQ := SMap.clear s.traceQ (64 * i) (64 * i + 64), traceDrops := SMap.clear s.traceDrops (64 * i) (64 * i + 64) }

/-- TRACE_CONFIG (20 R612). -/
def execTraceConfig (k : Nat) (s : State) : Host.Outcome State Fault Refusal :=
  .next (s.perform k Op.traceConfig (fun _ => true) (fun s c =>
    let e := c.entry
    let p := (cmdPart c.via Op.traceConfig e).getD 0
    let tenant := c.via.caller.isSome
    let i := cfgIdx tenant p
    let on := ef e 9 1 % 2 = 1
    let stream := ef e 9 1 / 2 % 2 = 1
    let buf := ef e 16 8
    let len := ef e 24 4
    if stream ∧ !s.streamOk tenant p buf len then (fail St.badArgument, s) else
    let units := if on then ef e 12 4 % 8 else 0
    let fresh := (members units 3).filter (fun cls => !s.recorded p cls)
    let s := { s with trace := (fresh.flatMap (s.ringKeys p)).foldl SMap.del s.trace }
    let s := (s.dropStream i).setCfg i ⟨units, decide stream, if stream then buf else 0, if stream then len else 0, 0, 0⟩
    (okWith [], if stream then s.traceBufPut i 0 (zeros 64) else s)))

/-- A record's PART, and its VALUE flag. -/
def recPart (r : TraceRec) : Nat := (r.extractLsb' 56 8).toNat
def recValue (r : TraceRec) : Bool := r.getLsbD 8
/-- A record as the operator sees it without VALUE_TRACE. -/
def recBlind (r : TraceRec) : TraceRec := if recValue r then r &&& BitVec.ofNat 256 (2 ^ 224 - 1) else r

/-- TRACE_READ (20 R615): the rings of p's units, the records about p. -/
def execTraceRead (k : Nat) (s : State) : Host.Outcome State Fault Refusal :=
  .next (s.perform k Op.traceRead (fun _ => true) (fun s c =>
    let e := c.entry
    let p := (cmdPart c.via Op.traceRead e).getD 0
    let open_ := c.via.caller.isSome || s.consent p 1
    let addr := ef e 16 8
    if addr % 64 ≠ 0 then (fail St.badArgument, s) else
    let rs := ((members (ef e 12 4 % 8) 3).flatMap (s.ringKeys p)).flatMap (fun key => (SMap.get [] s.trace key).filter (fun r => recPart r == p))
    let b := rs.flatMap (fun r => leBytes 32 (if open_ then r else recBlind r).toNat)
    let n := min b.length (ef e 24 4 / 32 * 32)
    let s := s.noteGated (c.via.caller.isNone && s.consent p 1 && rs.any recValue)
    let s := match c.via with
      | .ring r => s.hostPut (s.ringFunc r) addr (b.take n)
      | _ => s
    (okWith (leBytes 4 n ++ (if n < b.length then leBytes 4 b.length else leBytes 4 0)), s)))

/-! ## Streams (20 R613, R614) -/

/-- A record is written at the stream's next place. -/
def State.streamRec (s : State) (i : Nat) (r : TraceRec) : State :=
  let c := s.cfg i
  let s := s.traceBufPut i (64 + 32 * (c.written % (c.len / 32 - 2))) (leBytes 32 r.toNat)
  let s := s.setCfg i { c with written := c.written + 1 }
  s.traceBufPut i 0 (leBytes 8 (c.written + 1))

/-- READ, which the consumer writes. -/
def State.streamRead (s : State) (i : Nat) : Nat × State :=
  match s.traceBufAddr i 8 with
  | some a => let r := s.ccRead none a 8; (leVal r.1, r.2.2)
  | none => (0, s)

/-- Writer w forwards its oldest record of stream i, or drops it. -/
def State.streamForward (s : State) (i w : Nat) (late : Bool) : State :=
  let key := 64 * i + w
  match SMap.get [] s.traceQ key with
  | [] => s
  | r :: rest =>
    let s := { s with traceQ := SMap.set [] s.traceQ key rest }
    let c := s.cfg i
    if !c.stream then s else
    let p := i / 2
    let drops := SMap.get 0 s.traceDrops key
    let q := s.streamRead i
    let s := q.2
    let places := (c.len / 32 - 2) - (c.written - q.1)
    if late ∨ places < (if drops = 0 then 1 else 2) ∨ (s.traceBufAddr i 0).isNone then
      let s := { s with traceDrops := SMap.put s.traceDrops key (drops + 1) }
      let s := s.countField (Reg.traceDrops p) (if i % 2 = 0 then 16 else 0) 16 1
      let s := s.setCfg i { c with dropped := c.dropped + 1 }
      s.traceBufPut i 16 (leBytes 8 (c.dropped + 1))
    else
      let gap := traceRec 0x30 (s.pausedFlag p) w 0 0 p s.timebase (s.stepOf p) drops (peerWriter w).toNat 0
      let s := if drops = 0 then s else
        let s := s.streamRec i gap
        { s with traceDrops := SMap.del s.traceDrops key }
      let open_ := i % 2 == 1 || s.consent p 1
      let s := s.noteGated (i % 2 == 0 && s.consent p 1 && recValue r)
      s.streamRec i (if open_ then r else recBlind r)

/-- TRACE_STREAM_WRITE (20 R614): writer w forwards its oldest record of stream i. `late` says that it would exceed its rate; a record that does,
or that finds no place, is dropped. One that follows dropped ones needs a place for its GAP as well. -/
def execTraceStreamWrite (i : Fin 128) (w : Fin 32) (late : Bool) (s : State) : Host.Outcome State Fault Refusal :=
  .next (s.streamForward i.val w.val late)

end Sys2Proof.Machine
end

