-- ==== Sys2Proof/Machine/Admin.lean ====
section
/-! DEFINITION. Licences, amendments, CALIBRATE, POWER_CAP_SET, fabric port commands, Loupe handover and the service network
(14 R447–R449, 15 R484–R486, 16 R513, R514, 17 R518, R540, 18 R571, R577). -/

namespace Sys2Proof.Machine

/-- The bytes that a host buffer answers, as long as the command asked for. -/
def hostBytes (len : Nat) (img : Bytes) : Bytes := padTo len (img.take len)

/-! ## Licences (15 R484–R486) -/

/-- A licence image that passes every check that compares nothing with what is in force. -/
def State.licenceOk (s : State) (b : Bytes) : Bool :=
  b.length == 160 && hField b 0 4 == 0x4943454C && hField b 4 1 == 1 && hField b 5 1 == 0xA1 && zeroAt b 6 2 &&
  hField b 8 8 == s.loupe.serial && decide (hField b 20 1 < 16) && zeroAt b 21 43 &&
  Config.ecdsaOk (Config.rom 0) (sha (b.take 64)) (beVal (sub b 64 48)) (beVal (sub b 112 48))

/-- Where the i-th licence lies in flash (21 R633). -/
def licenceOff (i : Nat) : Nat := 0x10000 + 256 * i

/-- A licence goes to the first empty slot; when none is empty the area is erased and the licence in force comes first (21 R633). -/
def State.storeLicence (s : State) (b : Bytes) : State :=
  match (List.range 256).find? (fun i => (s.flashRec 0 (licenceOff i)).isEmpty) with
  | some i => s.putBoth (licenceOff i) b true true
  | none =>
    let old := ((List.range 256).map (fun i => s.flashRec 0 (licenceOff i))).find? (fun x => hField x 16 4 == s.loupe.licSeq && s.licenceOk x)
    let s := { s with flash := [0, 1].foldl (fun m c => SMap.clear m (flashAt c (licenceOff 0)) (flashAt c (licenceOff 256))) s.flash }
    match old with
    | some o => (s.putBoth (licenceOff 0) o true true).putBoth (licenceOff 1) b true true
    | none => s.putBoth (licenceOff 1) b true true

/-- KEY_LICENCE from what is in force and what is installed. -/
def State.showLicence (s : State) (installed : Nat) : State :=
  let w := setBits (setBits 0 16 16 s.loupe.licSeq) 0 4 s.loupe.features
  s.setReg Reg.keyLicence (setBits w 4 1 (b2n (bitOf installed 1 && !bitOf s.loupe.features 1)))

/-- LICENCE_INSTALL (15 R485): LIC_FABRIC takes effect at the next reset only. -/
def execLicenceInstall (k : Nat) (img : List Byte) (kind : HostKind) (s : State) : Host.Outcome State Fault Refusal :=
  .next (s.perform k Op.licence (fun _ => true) (fun s c =>
    let len := ef c.entry 24 4
    if ef c.entry 16 8 % 64 ≠ 0 ∨ 4096 < len then (fail St.badArgument, s) else
    match hostFail kind with
    | some r => (r, s)
    | none =>
      let b := hostBytes len img
      if !s.licenceOk b then (fail St.imageInvalid, s) else
      let seq := hField b 16 4
      let f := hField b 20 1
      if seq ≤ s.loupe.licSeq ∨ s.loupe.features &&& f ≠ s.loupe.features then (fail St.badArgument, s) else
      let s := s.storeLicence b
      let now := if bitOf s.loupe.features 1 then f else f &&& 0xD
      let s := { s with loupe := { s.loupe with licSeq := seq, features := now } }.showLicence f
      (okWith (leBytes 1 now), s)))

/-! ## Amendments (14 R447, R448) -/

/-- An amendment image of the right format and signature. -/
def amendOk (b : Bytes) : Bool :=
  let n := b.length
  decide (384 ≤ n) && n % 64 == 0 && decide (n ≤ 0x100000) && hField b 0 4 == 0x444E4D41 && hField b 4 1 == 1 && hField b 5 1 == 0xA1 &&
  zeroAt b 6 2 && decide (1 ≤ hField b 8 4) && hField b 12 4 == n && hField b 16 4 != 0 && decide (hField b 16 4 < 4) && zeroAt b 20 4 &&
  beVal (sub b 24 48) == sha (sub b 256 (n - 384)) && zeroAt b 72 184 && zeroAt b (n - 128) 16 && zeroAt b (n - 16) 16 &&
  Config.ecdsaOk (Config.rom 1) (sha (b.take 72)) (beVal (sub b (n - 112) 48)) (beVal (sub b (n - 64) 48))

/-- The amendments stored on a chip, and where the next one goes: the first 64 KiB boundary after the last (21 R633). -/
def State.amendWalk (s : State) (chip : Nat) : Nat → Nat → List Bytes × Nat
  | 0, off => ([], off)
  | k + 1, off =>
    let b := s.flashRec chip off
    if b.isEmpty then ([], off) else
    let r := s.amendWalk chip k (off + (b.length + 0xFFFF) / 0x10000 * 0x10000)
    (b :: r.1, r.2)
def State.amendsStored (s : State) (chip : Nat) : List Bytes × Nat := s.amendWalk chip 464 0x300000

/-- The highest SEQ in force. -/
def State.amendSeq (s : State) : Nat := s.loupe.amends.foldl (fun a x => max a x.1) 0

/-- The image of an AMEND_APPLY: a failure, or its bytes. -/
def State.amendImage (s : State) (e : BitVec 512) (img : Bytes) (kind : HostKind) : Result ⊕ Bytes :=
  if ef e 16 8 % 64 ≠ 0 then .inl (fail St.badArgument)
  else match hostFail kind with
  | some r => .inl r
  | none =>
    let b := hostBytes (ef e 24 4) img
    if !amendOk b then .inl (fail St.imageInvalid)
    else if hField b 8 4 ≠ s.amendSeq + 1 then .inl (fail St.badArgument)
    else .inr b

/-- It fits the amendment area of 29 MiB (21 R633). -/
def State.amendFits (s : State) (b : Bytes) : Bool := decide ((s.amendsStored 0).2 + b.length ≤ 0x2000000)
def State.storeAmend (s : State) (b : Bytes) : State := s.putBoth (s.amendsStored 0).2 b true true
/-- The amendment stored last is taken from both chips again. -/
def State.dropAmend (s : State) : State :=
  let r := s.amendsStored 0
  match r.1.getLast? with
  | some b =>
    let off := r.2 - (b.length + 0xFFFF) / 0x10000 * 0x10000
    { s with flash := [0, 1].foldl (fun m c => SMap.del m (flashAt c off)) s.flash }
  | none => s

/-- AMEND_APPLY with MODE 0. -/
def execAmendApplyStore (k : Nat) (img : List Byte) (kind : HostKind) (s : State) : Host.Outcome State Fault Refusal :=
  .next (s.perform k Op.amend (fun e => ef e 8 1 == 0) (fun s c =>
    match s.amendImage c.entry img kind with
    | .inl r => (r, s)
    | .inr b => if s.amendFits b then (okWith [], s.storeAmend b) else (fail St.noResource, s)))

/-- Commands of some opcodes that have no result end. -/
def State.endAll (s : State) (pick : InFlight → Bool) : State :=
  { s with loupe := { s.loupe with inflight := s.loupe.inflight.map (fun c =>
      if c.result.isNone && pick c then { c with result := some (busyOf c.opcode) } else c) } }

/-- AMEND_APPLY with MODE 1 (14 R448, R449): a planned handover begins; a FACET_LOAD in flight ends. -/
def execAmendApplyLive (k : Nat) (img : List Byte) (kind : HostKind) (s : State) : Host.Outcome State Fault Refusal :=
  .next (s.start k Op.amend (fun e => ef e 8 1 == 1) (fun s c =>
    match s.amendImage c.entry img kind with
    | .inl r => (some r, 0, 0, s)
    | .inr b =>
      if s.loupe.handover then (some (fail St.busy), 0, 0, s)
      else if !s.loupe.standby ∨ s.loupe.standbyHalted ∨ !s.amendFits b then (some (fail St.noResource), 0, 0, s)
      else
        let s := (s.storeAmend b).endAll (fun c => c.opcode == Op.facetLoad)
        (none, 0, 0, { s with loupe := { s.loupe with handover := true, amendPending := some (hField b 8 4, sub b 24 48) } })))

/-! ## Handover (14 R449, 13 R414) -/

/-- Commands of the Config rule (14 R429, 10 R291). -/
def isConfig (c : InFlight) : Bool :=
  [Op.create, Op.facetLoad, Op.facetActivate, Op.cloveLoad, Op.keyInstall, Op.licence, Op.amend, Op.spare, Op.calibrate].contains c.opcode ||
  (c.opcode == Op.seq && [1, 2, 4].contains (ef c.entry 8 1))

/-- Sensors of a die, by strap code: a tile's own; every sensor under 0xFF. -/
def dieSensors (d : Nat) : List Nat :=
  if d < 8 then tileSensors d
  else if d = 0xFF then (List.range 8).flatMap tileSensors ++ (List.range 16).map Reg.thermHbm
  else []

/-- The sensors that a CALIBRATE trims read CAL = 1 until it ends. -/
def State.markCal (s : State) (e : BitVec 512) (v : Nat) : State :=
  if ef e 8 1 = 0 then (dieSensors (ef e 9 1)).foldl (fun s o => s.setField o 28 1 v) s else s

/-- What a begun configuration command had changed is undone from the journal. -/
def State.unjournal (s : State) (c : InFlight) : State :=
  if !c.begun ∨ c.result.isSome then s
  else if c.opcode = Op.spare then
    let n := ef c.entry 12 2
    let row := ef c.entry 14 1 * 128 + ef c.entry 15 1
    let x := s.slice n
    let copying : Bool := match x.copy with | some (r, _) => r == row | none => false
    (s.setSlice n { x with toSpare := x.toSpare.filter (· != row), copy := if copying then none else x.copy }).endMaint [blockOf n]
  else if c.opcode = Op.calibrate then s.markCal c.entry 0
  else if c.opcode = Op.amend then { s.dropAmend with loupe := { s.loupe with amendPending := none } }
  else s

/-- The SCRUB of slices of command k, interrupted, ends: what it had not finished has failed. -/
def State.endScrub (s : State) (k : Nat) : State :=
  match s.cmd k with
  | some c =>
    if c.opcode = Op.scrub ∧ c.begun ∧ c.result.isNone ∧ scrubForm 1 c.entry then
      let r := s.sumScrub ((cmdPart c.via Op.scrub c.entry).getD 0)
      r.2.finish k r.1
    else s
  | none => s

/-- LOUPE_HANDOVER (14 R449): the active Loupe has missed three heartbeats. It is a recoverable event of every partition that runs (17 R531). -/
def execLoupeHandover (s : State) : Host.Outcome State Fault Refusal :=
  if s.dev = .cold ∨ s.dev = .shutdown ∨ s.dev = .hold then .next s
  else if !s.loupe.standby ∨ s.loupe.standbyHalted then .next (s.enterHold 2)
  else if s.loupe.handover ∧ s.loupe.amendPending.isNone then .next s
  else
    let s := s.deviceEvent 3 true
    if s.dev = .hold then .next s else
    let s := (s.loupe.inflight.filter isConfig).foldl State.unjournal s
    let s := s.endAll isConfig
    let s := (List.range s.loupe.inflight.length).foldl State.endScrub s
    let s := (List.range 64).foldl (fun s p => s.recoverable p 4 (s.windowOpen p)) s
    .next { s with loupe := { s.loupe with handover := true } }

/-- A request over MCTP that waited for the handover is taken, unless one is in flight (14 R423, R449). -/
def State.afterHandover (s : State) : State := if s.loupe.inflight.any (fun c => c.via == .mctp) then s else s.nextMctp

/-- HANDOVER_COMPLETE (14 R449): a planned one waits for a FACET_ACTIVATE in flight and answers the AMEND_APPLY. The recoverable event that an
unplanned one is has ended (17 R531). -/
def execHandoverComplete (s : State) : Host.Outcome State Fault Refusal :=
  if !s.loupe.handover then .next s else
  match s.loupe.amendPending with
  | some a =>
    if s.loupe.inflight.any (fun c => c.opcode == Op.facetActivate && c.result.isNone) then .next s else
    let s := { s with loupe := { s.loupe with
      handover := false, amendPending := none, active := 1 - s.loupe.active, amends := s.loupe.amends ++ [a],
      inflight := s.loupe.inflight.map (fun (c : InFlight) =>
        if c.opcode = Op.amend ∧ c.begun ∧ c.result.isNone then { c with result := some (okWith []) } else c) } }
    .next (s.hostEvent 4).afterHandover
  | none =>
    let s := { s with loupe := { s.loupe with handover := false, active := 1 - s.loupe.active, standby := false } }
    let s := (List.range 64).foldl (fun s p =>
      if s.windowOpen p ∧ bits (s.reg (Reg.recovery p)) 28 3 = 4 then s.setPart p { s.part p with recoveryAt := s.timebase } else s) s
    .next ((s.deviceEventEnds 3).hostEvent 4).afterHandover

/-! ## CALIBRATE and POWER_CAP_SET (18 R571, R577) -/

/-- CALIBRATE: `adj` units change their trim. -/
def execCalibrate (k : Nat) (adj : Nat) (s : State) : Host.Outcome State Fault Refusal :=
  .next (s.start k Op.calibrate (fun _ => true) (fun s c =>
    let d := ef c.entry 9 1
    if 2 < ef c.entry 8 1 ∨ (9 < d ∧ d ≠ 0xFF) then (some (fail St.badArgument), 0, 0, s)
    else (none, adj, 0, s.markCal c.entry 1)))

/-- POWER_CAP_SET: the result is the cap in force after the next evaluation. -/
def execPowerCapSet (k : Nat) (s : State) : Host.Outcome State Fault Refusal :=
  .next (s.start k Op.powerCap (fun _ => true) (fun s c =>
    let w := ef c.entry 8 2
    if w < 500 ∨ 4000 < w then (some (fail St.badArgument), 0, 0, s)
    else (none, 0, 0, s.setField Reg.pwrCap 16 16 w)))

/-! ## Fabric ports (16 R513, R514) -/

def State.linkRecord (s : State) (q : Nat) : Bytes :=
  let x := s.port q
  let r := x.role.toNat
  if !x.fabric then zeros 8 else
  leBytes 1 x.state.code ++ leBytes 1 (x.qcause % 4 + 4 * (r / 16 % 2) + 16 * (r / 4 % 4) + 64 * (r / 32 % 2) + 128 * b2n x.peerAuth) ++
  leBytes 1 (min (s.portFaults q) 255) ++ zeros 1 ++ leBytes 4 (if x.switched then 0 else x.partner % 2 ^ 32)

/-- LINK_STATUS (16 R514). -/
def execLinkStatus (k : Nat) (s : State) : Host.Outcome State Fault Refusal :=
  .next (s.perform k Op.linkStatus (fun _ => true) (fun s c =>
    let q := ef c.entry 8 1
    if q = 0xFF then (okWith ((List.range 20).flatMap s.linkRecord), s)
    else if 19 < q then (fail St.badArgument, s)
    else (okWith (s.linkRecord q), s)))

/-- A PORT_CONTROL on a port: what it needs of the quad (14 R427, 16 R513). -/
def State.portCheck (s : State) (q : Nat) : Option Result :=
  let x := s.port q
  if 19 < q ∨ !x.fabric then some (fail St.badArgument)
  else if x.state = .notFabric then some (fail St.busy)
  else none

def portForm (a : Nat) (e : BitVec 512) : Bool := ef e 9 1 == a

/-- A PORT_CONTROL that goes on until the port comes up: from a state, with what it does. -/
def State.portStart (s : State) (k a : Nat) (from_ : PortState) (f : State → Nat → State) : State :=
  s.start k Op.port (portForm a) (fun s c =>
    let q := ef c.entry 8 1
    match s.portCheck q with
    | some r => (some r, 0, 0, s)
    | none => if (s.port q).state = from_ then (none, 0, 0, f s q) else (some (fail St.badArgument), 0, 0, s))

/-- Another port of the hub is RETRAINING (16 R508). -/
def State.hubRetrains (s : State) (q : Nat) : Bool :=
  (List.range 20).any (fun i => i != q && hubOfPort i == hubOfPort q && (s.port i).state == .retraining)

/-- PORT_CONTROL RETRAIN. -/
def execPortRetrain (k : Nat) (s : State) : Host.Outcome State Fault Refusal :=
  match s.cmd k with
  | none => .next s
  | some c =>
    let q := ef c.entry 8 1
    if (s.portCheck q).isNone ∧ (s.port q).state = .up ∧ s.hubRetrains q then
      .next (s.perform k Op.port (portForm 0) (fun s _ => (fail St.busy, s)))
    else .next (s.portStart k 0 .up (fun s q => s.retrain q))

/-- PORT_CONTROL DISABLE. -/
def execPortDisable (k : Nat) (s : State) : Host.Outcome State Fault Refusal :=
  .next (s.perform k Op.port (portForm 1) (fun s c =>
    let q := ef c.entry 8 1
    match s.portCheck q with
    | some r => (r, s)
    | none => (okWith [], s.portTo q .disabled)))

/-- PORT_CONTROL ENABLE. -/
def execPortEnable (k : Nat) (s : State) : Host.Outcome State Fault Refusal :=
  .next (s.portStart k 2 .disabled (fun s q => s.portTo q .training))

/-- PORT_CONTROL RELEASE_QUARANTINE. -/
def execPortReleaseQuarantine (k : Nat) (s : State) : Host.Outcome State Fault Refusal :=
  .next (s.portStart k 3 .quarantined (fun s q => s.portTo q .training))

/-! ## The service network (17 R518, R540) -/

/-- SERVICE_PACKET_RECEIVE: the receiving end of a hop checks a packet; the eighth failure in a row marks the hop failed. -/
def execServicePacketReceive (hop : Nat) (ok : Bool) (s : State) : Host.Outcome State Fault Refusal :=
  let n := SMap.get 0 s.loupe.svcFails hop
  let put (s : State) (v : Nat) : State := { s with loupe := { s.loupe with svcFails := SMap.set 0 s.loupe.svcFails hop v } }
  if s.dev = .cold ∨ 8 ≤ n then .next s
  else if ok then .next (put s 0)
  else if n < 7 then .next ((put s (n + 1)).countField Reg.errDevice 0 8 1)
  else .next ((put s 8).deviceEvent 4 true)

/-- SERVICE_SCRUB (17 R540): the service channels are scrubbed through their Clove cores. -/
def execServiceScrub (s : State) : Host.Outcome State Fault Refusal :=
  if s.dev ≠ .staging ∧ s.dev ≠ .ready then .next s else
  .next ((members s.devFacet.svcChannels 512).foldl (fun s ch =>
    if (s.clove ch).halted ∨ !s.chanUp ch ∨ s.cloveThrottle ch = 2 then s
    else (s.scrubHbm ch [⟨0, chanAddr ch, channelBytes, false⟩]).2.2) s)

end Sys2Proof.Machine
end

