-- ==== Sys2Proof/Machine/Bundle.lean ====
section
/-! DEFINITION. The sequencer: a bundle's fetch, checks, slots and successor (05 R128–R138, R165–R167), the VEC slot
(05 R160, R161), test bundles (17 R541–R543), and each slot operation on its own. -/

namespace Sys2Proof.Machine

/-! ## Slots by number: 0 SEQ, 1 LDS, 2 SRM, 3 OPE, 4 MVP, 5 VEC, 6 NET -/

def isSingle (w : Word) : Bool := bits w 31 1 = 1

/-- Bits of a VEC word (05 R160, R161). -/
def vecSlotLegal (w : Word) : Bool :=
  if isSingle w then (BWord.ofVec w).vecLegal
  else swOp w == 1 && bits w 9 14 == 0 && swPredOk w

/-- The checks of a slot word that depend only on its bits (05 R165). -/
def slotLegal (slot : Nat) (w : Word) : Bool :=
  match slot with
  | 0 => swPredOk w && seqLegal w
  | 1 => swPredOk w && ldsLegal w
  | 2 => swPredOk w && srmLegal w
  | 3 => swPredOk w && opeLegal w
  | 4 => swPredOk w && mvpLegal w
  | 5 => vecSlotLegal w
  | _ => swPredOk w && netLegal w

/-- Whether a slot acts (05 R138); a single vector operation is not predicated. -/
def slotActs (c : Core) (slot : Nat) (w : Word) : Bool := (slot == 5 && isSingle w) || c.acts w

/-- The fault that a slot raises by acting, with its place (05 R142, R165–R167): of several causes the lowest code (03 R96). -/
def State.slotFault (s : State) (n slot : Nat) (w : Word) : Option (Nat × FaultAt) :=
  let c := s.core n
  let at_ : FaultAt := ⟨slot, none, c.seq.next⟩
  let code (xs : List Nat) : Option (Nat × FaultAt) := (leastCode xs).map (fun k => (k, at_))
  if slot = 5 ∧ isSingle w then
    if c.vec.blend.isSome then some (Sf.blendOverlap, at_) else (s.vecFault n (BWord.ofVec w)).map (fun k => (k, at_))
  else if swPs w ≠ 0 ∧ c.bad (parP (swPs w)) then some (Sf.regParity, at_)
  else if ¬ c.acts w then none
  else match slot with
    | 0 => code (seqFaults c (s.realNow n) w)
    | 1 => code (s.ldsFaults n w)
    | 2 => code (srmFaults c w)
    | 3 => code (s.opeFaults n w)
    | 4 => code (s.mvpFaults n w)
    | 5 => s.blendFault n (bits w 0 9)
    | _ => code (netFaults c w)

/-- The checks that a slot's reads of descriptors or of a blend header make are counted, whatever the slot finds (07 R209). -/
def State.slotReads (s : State) (n slot : Nat) (w : Word) : State :=
  if isSingle w && slot == 5 || !slotActs (s.core n) slot w then s else
  match slot, swOp w with
  | 3, 0x01 => (s.mmaOf n w).2.2
  | 4, 0x01 => (s.runOf n w).2.2
  | 5, _ => (s.fetchBlend n (bits w 0 9)).2
  | _, _ => s

/-- The reads of a faulting bundle's slots up to the one that faults, of which none acts (05 R166). -/
def State.bundleReads (s : State) (n : Nat) (ws : List (Nat × Word)) (f : FaultAt) : State :=
  (ws.filter (fun x => decide (x.1 ≤ if f.slot = 7 then 5 else f.slot))).foldl (fun s x => s.slotReads n x.1 x.2) s

/-- What a slot that acts does. -/
def State.slotPerform (s : State) (n slot : Nat) (w : Word) : State :=
  if ¬ slotActs (s.core n) slot w then s else
  match slot with
  | 0 => seqPerform s n w
  | 1 => s.ldsPerform n w
  | 2 => srmPerform s n w
  | 3 => s.opePerform n w
  | 4 => s.mvpPerform n w
  | 5 => if isSingle w then s.vecDo n (BWord.ofVec w) none else s.startBlend n (bits w 0 9)
  | _ => netPerform s n w

/-- The slots of a bundle, in ascending order: each acts on what the ones before it hold, and the first fault is the bundle's
(05 R139, R166). -/
def issueSlots (n : Nat) : List (Nat × Word) → State → State × Option (Nat × FaultAt)
  | [], s => (s, none)
  | (slot, w) :: ws, s =>
    match s.slotFault n slot w with
    | some f => (s, some f)
    | none => issueSlots n ws (s.slotPerform n slot w)

/-! ## Bundles -/

/-- Header fields (05 R132). -/
def hdRepeat (h : Word) : Nat := bits h 24 8
def hdTest (h : Word) : Bool := bits h 11 1 = 1
def hdPermit (h : Word) : Bool := bits h 10 1 = 1
def hdStep (h : Word) : Bool := bits h 8 1 = 1
def hdValid (h : Word) (i : Nat) : Bool := bits h i 1 = 1

/-- Word i of a bundle's bytes. -/
def bundleWord (b : Bytes) (i : Nat) : Word := BitVec.ofNat 32 (leVal ((b.drop (4 * i)).take 4))

/-- The valid slot words of a bundle, ascending. -/
def validSlots (b : Bytes) : List (Nat × Word) :=
  ((List.range 7).filter (fun i => hdValid (bundleWord b 0) i)).map (fun i => (i, bundleWord b (i + 1)))

/-- The header's own checks (05 R132, R133, R136). -/
def headerLegal (b : Bytes) : Bool :=
  let h := bundleWord b 0
  bits h 12 12 == 0 && bits h 9 1 == 0 && bits h 7 1 == 0 &&
  (!hdTest h || (bits h 0 7 == 0 && hdRepeat h == 0 && !hdStep h)) &&
  (hdRepeat h == 0 || !hdValid h 0 || !seqNoRepeat (bundleWord b 1))

/-- The bit checks of a bundle: the lowest slot that fails, the header as 7 (05 R165, R167). -/
def bundleIllegal (b : Bytes) : Option Nat :=
  match (validSlots b).find? (fun x => !slotLegal x.1 x.2) with
  | some x => some x.1
  | none => if headerLegal b then none else some 7

/-- Fetches bundle entry e (05 R130): its bytes, or none when a word is uncorrectable or poisoned. -/
def State.fetchBundle (s : State) (n e : Nat) : Option Bytes × State :=
  let r := s.mem.words (coreWindow n + bundleOff + 32 * e) 4
  let s := r.2.2.foldl (fun s c => s.countCheck n c none) s
  (if r.2.1.any id then none else some r.1, s)

/-- The cycle t ends with a step mark: the step copy increases (05 R134), and a step mark of the pacing core reaches its partition. -/
def State.stepEnd (s : State) (n t : Nat) : State :=
  let c := s.core n
  let s := s.setCore n { c with seq := { c.seq with step := c.seq.step + 1 } }
  match s.partOfCore n with
  | some p => if s.pacing p = n then s.stepMark p t else s
  | none => s

/-- The pacing core's step mark at which a checkpoint may be taken waits for the other units' cycle, since the partition must be quiescent
at it (11 R342). -/
def State.markWaits (s : State) (n : Nat) (b : Bytes) (r : Nat) : Bool :=
  match s.partOfCore n with
  | none => false
  | some p =>
    s.pacing p == n && r == 0 && hdStep (bundleWord b 0) &&
    (match (s.part p).stop with | some q => q.armed && q.ckpt && q.ended.isNone | none => false) &&
    !(s.coresOf p).all (fun m => (m == n || !(s.core m).seq.running || decide ((s.core n).seq.now < (s.core m).seq.now)) && s.routerPast m (s.core n).seq.now)

/-- A PERMIT bundle of the pacing core anchors a requested deferred pause (05 R135). -/
def State.permit (s : State) (n : Nat) : State :=
  match s.partOfCore n with
  | none => s
  | some p =>
    let x := s.part p
    match x.deferred with
    | some (r, l, none) =>
      if s.pacing p = n ∧ r ≤ (s.core n).seq.now then
        s.setPart p { x with deferred := some (r, l, some (s.core n).seq.now) } else s
    | _ => s

/-- The running blend issues and the cycle ends. -/
def State.finishCycle (s : State) (n : Nat) (hadBlend : Bool) : State :=
  (if hadBlend then s.blendStep n else s).endCycle n

/-- Schedule fault TEST_OVERLAP (17 R542). -/
def Sf.testOverlap : Nat := 0x1B

/-- A cycle of the test bundle under way; after its last the next bundle follows (05 R129, R136). -/
def State.testCycle (s : State) (n : Nat) : State :=
  let s := s.endCycle n
  let q := (s.core n).seq
  s.setCore n { s.core n with seq := { q with
    testBusy := q.testBusy - 1, next := if q.testBusy ≤ 1 then (q.next + 1) % 1024 else q.next } }

/-- A test bundle issues (05 R136, 17 R541, R542): it takes 4,096 cycles; on the core the test pointer names it runs the test. -/
def State.testBundle (s : State) (n : Nat) : State :=
  let c := s.core n
  let e := c.seq.next
  if ¬ s.coreIdle n then (s.coreFault n Sf.testOverlap ⟨7, none, e⟩).finishCycle n c.vec.blend.isSome else
  let runs := match s.partOfCore n with
    | some p => (s.part p).testPtr = n && !(s.part p).testDone && (s.part p).facet.glob.testBank.isSome
    | none => false
  let s := match s.partOfCore n with
    | some p => if runs then s.setPart p { s.part p with testDone := true } else s
    | none => s
  let c := s.core n
  (s.setCore n { c with seq := { c.seq with testBusy := 4096, testLeft := runs } }).testCycle n

/-- One issue of the bundle whose bytes are b, with r repetitions left after it. -/
def State.issueBundle (s : State) (n : Nat) (b : Bytes) (r : Nat) (first : Bool) : State :=
  let c := s.core n
  let e := c.seq.next
  let h := bundleWord b 0
  let had := c.vec.blend.isSome
  let after (s : State) (target : Option Nat) : State :=
    let c := s.core n
    s.setCore n { c with seq := { c.seq with
      repLeft := r, cur := if r = 0 then [] else b,
      next := if r = 0 then (target.getD ((e + 1) % 1024)) else e } }
  match (if first then bundleIllegal b else none) with
  | some slot => after ((s.coreFault n Sf.illegal ⟨slot, none, e⟩).finishCycle n had) none
  | none =>
    if hdTest h then (if hdPermit h then s.permit n else s).testBundle n else
    let x := issueSlots n (validSlots b) s
    let s := match x.2 with
      | some f => (s.bundleReads n (validSlots b) f.2).coreFault n f.1 f.2
      | none => x.1
    -- an illegal encoding withholds the header's effects too (05 R165); another slot fault does not (DEDUCED, log 88)
    let acts : Bool := match x.2 with
      | some f => f.1 != Sf.illegal
      | none => true
    let s := if acts && hdPermit h then s.permit n else s
    let s := if had then s.blendStep n else s
    let target := if x.2.isNone ∧ hdValid h 0 then seqBranch c (bundleWord b 1) else none
    let s := after (s.endCycle n) target
    if r = 0 ∧ hdStep h ∧ acts then s.stepEnd n c.seq.now else s

/-- BUNDLE_ISSUE (05 R129): one cycle of core n's sequencer in an unpaused cycle of its partition. The last cycle of a known-answer
test waits for the test's end (17 R543). -/
def execBundleIssue (n : CoreId) (s : State) : Host.Outcome State Fault Refusal :=
  match s.partOfCore n with
  | none => .next s
  | some p =>
    let c := s.core n
    if ¬ s.coreMay n ∨ (s.pacing p = n ∧ s.starved p c.seq.now) ∨ ¬ c.seq.running then .next s
    else if c.seq.testBusy > 0 then
      if c.seq.testLeft ∧ c.seq.testBusy = 1 then .next s else .next (s.testCycle n)
    else if c.seq.halted then .next (s.finishCycle n c.vec.blend.isSome)
    else if c.seq.repLeft > 0 then
      if s.markWaits n c.seq.cur (c.seq.repLeft - 1) then .next s else .next (s.issueBundle n c.seq.cur (c.seq.repLeft - 1) false)
    else
      let f := s.fetchBundle n c.seq.next
      match f.1 with
      | none =>
        .next ((f.2.coreFault n Sf.fetchUncorrectable ⟨7, none, c.seq.next⟩).finishCycle n c.vec.blend.isSome)
      | some b =>
        if s.markWaits n b (hdRepeat (bundleWord b 0)) then .next s else .next (f.2.issueBundle n b (hdRepeat (bundleWord b 0)) true)

/-- Lanes cut out of a wide value. -/
def freeLanes (v : BitVec 65536) (lo cnt : Nat) : SMap Lane :=
  (List.range cnt).foldl (fun m i => SMap.set Lane.zero m i ⟨v.extractLsb' (32 * (lo + i)) 32, false⟩) []

/-- k free 64-bit numbers by index from 0. -/
def State.freeInts (s : State) : Nat → SMap Int × State
  | 0 => ([], s)
  | k + 1 =>
    let r := s.freeInts k
    let v := r.2.free 64
    (SMap.set 0 r.1 k v.1.toInt, v.2)

/-- The units that hold the test's values after it ran (05 R136): free values, since the spec does not give the test's data. -/
def State.testValues (s : State) (n bank : Nat) : State :=
  let r := s.free 65536
  let t := r.2.free 65536
  let k := t.2.freeInts 128
  let v := r.1
  let c := k.2.core n
  let sums (lo : Nat) : SMap Int := (List.range 16).foldl (fun m i => SMap.set 0 m i (SMap.get 0 k.1 (lo + i))) []
  let tile (i : Nat) : Tile :=
    { lanes := freeLanes v (256 * i) 256, isInt := v.getLsbD (65000 + i), chkValid := v.getLsbD (65010 + i),
      chkTol := (v.extractLsb' (65020 + 2 * i) 2).toNat, cc := sums (32 * i), cr := sums (32 * i + 16), chkBad := [] }
  let e := { c.eng with
    tiles := (List.range 4).map (fun i => (i, tile i)), m := freeLanes v 1024 512,
    mInt := (List.range 8).foldl (fun m i => SMap.set false m i (v.getLsbD (65040 + i))) [],
    ch := freeLanes v 1536 512,
    chFmt := [0, 1].foldl (fun m i => SMap.set 0 m i (v.extractLsb' (65100 + 4 * i) 4).toNat) [] }
  let s := k.2.setCore n { c with eng := e }
  s.writeCore n (0x2000 * bank) (leBytes 8192 t.1.toNat) 0

/-- KNOWN_ANSWER_TEST_END (17 R543): the test of core n ends, passed or failed, in the last cycle of its test bundle, which is performed: the
test still holds its bank in it (17 R542). -/
def execKnownAnswerTestEnd (n : CoreId) (pass : Bool) (s : State) : Host.Outcome State Fault Refusal :=
  let c := s.core n
  if ¬ (c.seq.testLeft ∧ c.seq.testBusy = 1 ∧ s.coreMay n) then .next s else
  let s := s.testCycle n
  let s := s.setCore n { s.core n with seq := { (s.core n).seq with testLeft := false } }
  match s.partOfCore n with
  | none => .next s
  | some p =>
    let s := s.testValues n ((s.part p).facet.glob.testBank.getD 0)
    .next (if pass then s else s.enterFaulted p 0x41 (some n) (c.seq.now + 1))

/-! ## One slot operation, or one blend instruction, on its own -/

/-- Core n's next cycle may happen, and it is no cycle of a test bundle under way. -/
def State.mayIssue (s : State) (n : Nat) : Bool := s.coreMay n && (s.core n).seq.testBusy == 0

/-- One cycle in which core n issues nothing but one slot word with the given opcode: a branch sets the next bundle, and no
bundle is fetched (DESIGN CHOICE, log 11). -/
def State.loneSlot (s : State) (n slot : Nat) (w : Word) : State :=
  let c := s.core n
  if ¬ s.mayIssue n then s else
  if ¬ slotLegal slot w then (s.coreFault n Sf.illegal ⟨slot, none, c.seq.next⟩).endCycle n else
  match s.slotFault n slot w with
  | some f => ((s.slotReads n slot w).coreFault n f.1 f.2).endCycle n
  | none =>
    let s := (s.slotPerform n slot w).endCycle n
    match (if slot = 0 then seqBranch c w else none) with
    | some t => let c := s.core n; s.setCore n { c with seq := { c.seq with next := t } }
    | none => s

/-- One cycle in which the core issues nothing but one blend word with the given opcode: as the word at the running blend's position,
which issues nothing in an idle cycle, or where no blend runs as an instruction of its own, which NOP, END and LOOP have nothing to act
on (DESIGN CHOICE, log 11). -/
def State.loneBlend (s : State) (n opc : Nat) (w : DWord) : State :=
  if ¬ s.mayIssue n then s else
  let b := { BWord.ofWord w with opc := opc }
  let c := s.core n
  let s := match c.vec.blend with
    | some r => s.blendTurn n r (some b)
    | none =>
      if ¬ b.legal then s.coreFault n Sf.illegal ⟨7, none, c.seq.next⟩
      else if opc ≤ 0x02 then s
      else s.vecIssue n b true none 7
  s.endCycle n

/-- The slot word with its opcode set. -/
def withOp (w : Word) (op : Nat) : Word := setBits w 27 5 op

end Sys2Proof.Machine
end

