-- ==== Sys2Proof/Machine/Blend.lean ====
section
/-! DEFINITION. The blend instructions (04 R98–R127), one meaning each. -/

namespace Sys2Proof.Machine

/-- NOP, opcode 0x00 (04 R108). -/
def execNop (n : CoreId) (w : DWord) (s : State) : Host.Outcome State Fault Refusal :=
  .next (s.loneBlend n 0x00 w)

/-- END, opcode 0x01 (04 R104). -/
def execEndBlend (n : CoreId) (w : DWord) (s : State) : Host.Outcome State Fault Refusal :=
  .next (s.loneBlend n 0x01 w)

/-- LOOP, opcode 0x02 (04 R117). -/
def execLoop (n : CoreId) (w : DWord) (s : State) : Host.Outcome State Fault Refusal :=
  .next (s.loneBlend n 0x02 w)

/-- FADD, opcode 0x08 (04 R108). -/
def execFadd (n : CoreId) (w : DWord) (s : State) : Host.Outcome State Fault Refusal :=
  .next (s.loneBlend n 0x08 w)

/-- FSUB, opcode 0x09 (04 R108). -/
def execFsub (n : CoreId) (w : DWord) (s : State) : Host.Outcome State Fault Refusal :=
  .next (s.loneBlend n 0x09 w)

/-- FMUL, opcode 0x0A (04 R108). -/
def execFmul (n : CoreId) (w : DWord) (s : State) : Host.Outcome State Fault Refusal :=
  .next (s.loneBlend n 0x0A w)

/-- FMA, opcode 0x0B (04 R108). -/
def execFma (n : CoreId) (w : DWord) (s : State) : Host.Outcome State Fault Refusal :=
  .next (s.loneBlend n 0x0B w)

/-- FMIN, opcode 0x0C (04 R110). -/
def execFmin (n : CoreId) (w : DWord) (s : State) : Host.Outcome State Fault Refusal :=
  .next (s.loneBlend n 0x0C w)

/-- FMAX, opcode 0x0D (04 R110). -/
def execFmax (n : CoreId) (w : DWord) (s : State) : Host.Outcome State Fault Refusal :=
  .next (s.loneBlend n 0x0D w)

/-- FABS, opcode 0x0E (04 R108). -/
def execFabs (n : CoreId) (w : DWord) (s : State) : Host.Outcome State Fault Refusal :=
  .next (s.loneBlend n 0x0E w)

/-- FNEG, opcode 0x0F (04 R108). -/
def execFneg (n : CoreId) (w : DWord) (s : State) : Host.Outcome State Fault Refusal :=
  .next (s.loneBlend n 0x0F w)

/-- FCMP, opcode 0x10 (04 R110). -/
def execFcmp (n : CoreId) (w : DWord) (s : State) : Host.Outcome State Fault Refusal :=
  .next (s.loneBlend n 0x10 w)

/-- SEL, opcode 0x11 (04 R108). -/
def execSel (n : CoreId) (w : DWord) (s : State) : Host.Outcome State Fault Refusal :=
  .next (s.loneBlend n 0x11 w)

/-- MOV, opcode 0x12 (04 R108). -/
def execMov (n : CoreId) (w : DWord) (s : State) : Host.Outcome State Fault Refusal :=
  .next (s.loneBlend n 0x12 w)

/-- EXP2, opcode 0x18 (04 R111). -/
def execExp2 (n : CoreId) (w : DWord) (s : State) : Host.Outcome State Fault Refusal :=
  .next (s.loneBlend n 0x18 w)

/-- LOG2, opcode 0x19 (04 R111). -/
def execLog2 (n : CoreId) (w : DWord) (s : State) : Host.Outcome State Fault Refusal :=
  .next (s.loneBlend n 0x19 w)

/-- RCP, opcode 0x1A (04 R111). -/
def execRcp (n : CoreId) (w : DWord) (s : State) : Host.Outcome State Fault Refusal :=
  .next (s.loneBlend n 0x1A w)

/-- RSQ, opcode 0x1B (04 R111). -/
def execRsq (n : CoreId) (w : DWord) (s : State) : Host.Outcome State Fault Refusal :=
  .next (s.loneBlend n 0x1B w)

/-- IADD, opcode 0x20 (04 R108). -/
def execIadd (n : CoreId) (w : DWord) (s : State) : Host.Outcome State Fault Refusal :=
  .next (s.loneBlend n 0x20 w)

/-- ISUB, opcode 0x21 (04 R108). -/
def execIsub (n : CoreId) (w : DWord) (s : State) : Host.Outcome State Fault Refusal :=
  .next (s.loneBlend n 0x21 w)

/-- IMUL, opcode 0x22 (04 R108). -/
def execImul (n : CoreId) (w : DWord) (s : State) : Host.Outcome State Fault Refusal :=
  .next (s.loneBlend n 0x22 w)

/-- AND, opcode 0x23 (04 R108). -/
def execAndOp (n : CoreId) (w : DWord) (s : State) : Host.Outcome State Fault Refusal :=
  .next (s.loneBlend n 0x23 w)

/-- OR, opcode 0x24 (04 R108). -/
def execOrOp (n : CoreId) (w : DWord) (s : State) : Host.Outcome State Fault Refusal :=
  .next (s.loneBlend n 0x24 w)

/-- XOR, opcode 0x25 (04 R108). -/
def execXorOp (n : CoreId) (w : DWord) (s : State) : Host.Outcome State Fault Refusal :=
  .next (s.loneBlend n 0x25 w)

/-- SHL, opcode 0x26 (04 R108). -/
def execShl (n : CoreId) (w : DWord) (s : State) : Host.Outcome State Fault Refusal :=
  .next (s.loneBlend n 0x26 w)

/-- SHR, opcode 0x27 (04 R108). -/
def execShr (n : CoreId) (w : DWord) (s : State) : Host.Outcome State Fault Refusal :=
  .next (s.loneBlend n 0x27 w)

/-- SHRA, opcode 0x28 (04 R108). -/
def execShra (n : CoreId) (w : DWord) (s : State) : Host.Outcome State Fault Refusal :=
  .next (s.loneBlend n 0x28 w)

/-- ICMP, opcode 0x29 (04 R108). -/
def execIcmp (n : CoreId) (w : DWord) (s : State) : Host.Outcome State Fault Refusal :=
  .next (s.loneBlend n 0x29 w)

/-- CVTF, opcode 0x30 (04 R108). -/
def execCvtf (n : CoreId) (w : DWord) (s : State) : Host.Outcome State Fault Refusal :=
  .next (s.loneBlend n 0x30 w)

/-- CVTI, opcode 0x31 (04 R108). -/
def execCvti (n : CoreId) (w : DWord) (s : State) : Host.Outcome State Fault Refusal :=
  .next (s.loneBlend n 0x31 w)

/-- CVTP, opcode 0x32 (04 R114). -/
def execCvtp (n : CoreId) (w : DWord) (s : State) : Host.Outcome State Fault Refusal :=
  .next (s.loneBlend n 0x32 w)

/-- MXQ, opcode 0x33 (04 R114). -/
def execMxq (n : CoreId) (w : DWord) (s : State) : Host.Outcome State Fault Refusal :=
  .next (s.loneBlend n 0x33 w)

/-- PERM, opcode 0x38 (04 R113). -/
def execPerm (n : CoreId) (w : DWord) (s : State) : Host.Outcome State Fault Refusal :=
  .next (s.loneBlend n 0x38 w)

/-- RSUM, opcode 0x39 (04 R112). -/
def execRsum (n : CoreId) (w : DWord) (s : State) : Host.Outcome State Fault Refusal :=
  .next (s.loneBlend n 0x39 w)

/-- RMAX, opcode 0x3A (04 R112). -/
def execRmax (n : CoreId) (w : DWord) (s : State) : Host.Outcome State Fault Refusal :=
  .next (s.loneBlend n 0x3A w)

/-- PSUM, opcode 0x3B (04 R112). -/
def execPsum (n : CoreId) (w : DWord) (s : State) : Host.Outcome State Fault Refusal :=
  .next (s.loneBlend n 0x3B w)

/-- BINS, opcode 0x3C (04 R108). -/
def execBins (n : CoreId) (w : DWord) (s : State) : Host.Outcome State Fault Refusal :=
  .next (s.loneBlend n 0x3C w)

/-- MFIRST, opcode 0x3D (04 R108). -/
def execMfirst (n : CoreId) (w : DWord) (s : State) : Host.Outcome State Fault Refusal :=
  .next (s.loneBlend n 0x3D w)

/-- LANEID, opcode 0x3E (04 R108). -/
def execLaneid (n : CoreId) (w : DWord) (s : State) : Host.Outcome State Fault Refusal :=
  .next (s.loneBlend n 0x3E w)

/-- BLEND_LD, opcode 0x40 (04 R115). -/
def execBlendLd (n : CoreId) (w : DWord) (s : State) : Host.Outcome State Fault Refusal :=
  .next (s.loneBlend n 0x40 w)

/-- BLEND_ST, opcode 0x41 (04 R116). -/
def execBlendSt (n : CoreId) (w : DWord) (s : State) : Host.Outcome State Fault Refusal :=
  .next (s.loneBlend n 0x41 w)

/-- STH, opcode 0x42 (04 R116). -/
def execSth (n : CoreId) (w : DWord) (s : State) : Host.Outcome State Fault Refusal :=
  .next (s.loneBlend n 0x42 w)

/-- STS, opcode 0x43 (04 R116). -/
def execSts (n : CoreId) (w : DWord) (s : State) : Host.Outcome State Fault Refusal :=
  .next (s.loneBlend n 0x43 w)

/-- BPSET, opcode 0x47 (04 R108). -/
def execBpset (n : CoreId) (w : DWord) (s : State) : Host.Outcome State Fault Refusal :=
  .next (s.loneBlend n 0x47 w)

/-- CHW, opcode 0x44 (04 R118). -/
def execChw (n : CoreId) (w : DWord) (s : State) : Host.Outcome State Fault Refusal :=
  .next (s.loneBlend n 0x44 w)

/-- BLEND_SEND, opcode 0x45 (04 R119). -/
def execBlendSend (n : CoreId) (w : DWord) (s : State) : Host.Outcome State Fault Refusal :=
  .next (s.loneBlend n 0x45 w)

/-- APPEND, opcode 0x46 (04 R120). -/
def execAppend (n : CoreId) (w : DWord) (s : State) : Host.Outcome State Fault Refusal :=
  .next (s.loneBlend n 0x46 w)

/-- RNG, opcode 0x50 (04 R122). -/
def execRng (n : CoreId) (w : DWord) (s : State) : Host.Outcome State Fault Refusal :=
  .next (s.loneBlend n 0x50 w)

/-- TKCLR, opcode 0x51 (04 R123). -/
def execTkclr (n : CoreId) (w : DWord) (s : State) : Host.Outcome State Fault Refusal :=
  .next (s.loneBlend n 0x51 w)

/-- TKIN, opcode 0x52 (04 R123). -/
def execTkin (n : CoreId) (w : DWord) (s : State) : Host.Outcome State Fault Refusal :=
  .next (s.loneBlend n 0x52 w)

/-- TKOUT, opcode 0x53 (04 R123). -/
def execTkout (n : CoreId) (w : DWord) (s : State) : Host.Outcome State Fault Refusal :=
  .next (s.loneBlend n 0x53 w)

end Sys2Proof.Machine
end

