-- ==== Sys2Proof/Machine/Spdm.lean ====
section
/-! DEFINITION. The SPDM responder: its connection states and measurement reports (15 R478–R483). The message formats are the DMTF's; of them
the model writes the four header bytes and the measurement blocks, and leaves the rest to `Config.spdmMsg`. -/

namespace Sys2Proof.Machine

/-- Response codes. -/
def rspError : Nat := 0x7F
def errUnexpected : Nat := 0x04
def errInvalid : Nat := 0x01
def errLarge : Nat := 0x0F

def State.spdmConn (s : State) (t : Nat) : Spdm := SMap.get Spdm.reset s.spdm t
def State.setSpdm (s : State) (t : Nat) (x : Spdm) : State := { s with spdm := SMap.put s.spdm t x }

/-- The transport answers: the DOE mailboxes of functions 0 and 1, and MCTP (13 R387). -/
def State.spdmUp (s : State) (t : Nat) : Bool := if t < 2 then s.funcUp t else s.dev != .cold

def spdmHead (code p1 p2 : Nat) : Bytes := leBytes 1 0x13 ++ leBytes 1 code ++ leBytes 1 p1 ++ leBytes 1 p2

/-- A part of a response that the DMTF's formats give. -/
def State.spdmPart (s : State) (code : Nat) : Bytes × State :=
  (Config.spdmMsg code s.freeCtr, { s with freeCtr := s.freeCtr + 1 })

/-- A response leaves on transport t; one that is larger than the requester takes is kept for CHUNK_GET. -/
def State.spdmSay (s : State) (t : Nat) (rsp : Bytes) : State :=
  let x := s.spdmConn t
  if x.size ≠ 0 ∧ x.size < rsp.length then
    (s.setSpdm t { x with chunk := rsp }).send (.spdm t (spdmHead rspError errLarge 0 ++ [0]))
  else s.send (.spdm t rsp)

def State.spdmError (s : State) (t code : Nat) : State := s.send (.spdm t (spdmHead rspError code 0))

/-- A request and its response enter the transcript. -/
def State.spdmLog (s : State) (t : Nat) (msg : Bytes) : State :=
  let x := s.spdmConn t
  s.setSpdm t { x with transcript := sha (leBytes 48 x.transcript ++ msg) }

/-- A request that its connection's state permits, answered with a head and a body: what the CX2 says, around a part that the DMTF's formats
give, the body's second argument. -/
def State.spdmAnswer (s : State) (t : Nat) (ok : Spdm → Bool) (upd : Spdm → Spdm) (req : Bytes) (code p1 p2 : Nat)
    (body : State → Bytes → Bytes) : State :=
  if !s.spdmUp t then s
  else if !ok (s.spdmConn t) then s.spdmError t errUnexpected
  else
    let s := s.setSpdm t (upd (s.spdmConn t))
    let r := s.spdmPart code
    let rsp := spdmHead code p1 p2 ++ body s r.1
    (r.2.spdmLog t (req ++ rsp)).spdmSay t rsp

/-- Flags of CAPABILITIES: CERT_CAP, CHAL_CAP, MEAS_CAP with signatures, CHUNK_CAP (15 R478). PRESUMED the DMTF's bits (log 101). -/
def spdmFlags : Nat := 2 ^ 1 + 2 ^ 2 + 2 * 2 ^ 3 + 2 ^ 17
/-- The selections of ALGORITHMS: the DMTF measurement specification, SHA-384 for measurements, ECDSA P-384 and SHA-384 (15 R478). PRESUMED
the DMTF's codes and layout (log 101). -/
def spdmAlgs : Bytes :=
  leBytes 2 36 ++ leBytes 1 1 ++ leBytes 1 0 ++ leBytes 4 0x4 ++ leBytes 4 0x80 ++ leBytes 4 0x2 ++ zeros 16
/-- The chain of slot 0 (15 R478): Prakuer's root and what stands in the leaf before its serial number, the serial number, the rest. -/
def State.certChain (s : State) : Bytes := Config.certPart 0 ++ leBytes 8 s.loupe.serial ++ Config.certPart 1

/-- GET_VERSION starts the connection anew. -/
def execGetVersion (t : Fin 3) (req : List Byte) (s : State) : Host.Outcome State Fault Refusal :=
  .next (s.spdmAnswer t.val (fun _ => true) (fun _ => { Spdm.reset with version := true }) req 0x04 0 0 (fun _ m => m))

/-- GET_CAPABILITIES; `size` is the requester's DataTransferSize. -/
def execGetCapabilities (t : Fin 3) (req : List Byte) (size : Nat) (s : State) : Host.Outcome State Fault Refusal :=
  .next (s.spdmAnswer t.val (fun x => x.version) (fun x => { x with caps := true, size := size }) req 0x61 0 0
    (fun _ m => zeros 4 ++ leBytes 4 spdmFlags ++ m))

/-- NEGOTIATE_ALGORITHMS; `offers` says that the requester offers every algorithm of 15 R478. -/
def execNegotiateAlgorithms (t : Fin 3) (req : List Byte) (offers : Bool) (s : State) : Host.Outcome State Fault Refusal :=
  if s.spdmUp t.val ∧ (s.spdmConn t.val).caps ∧ !offers then .next (s.spdmError t.val errInvalid)
  else .next (s.spdmAnswer t.val (fun x => x.caps) (fun x => { x with algs := true }) req 0x63 0 0 (fun _ _ => spdmAlgs))

/-- GET_DIGESTS: slot 0 alone holds a chain. -/
def execGetDigests (t : Fin 3) (req : List Byte) (s : State) : Host.Outcome State Fault Refusal :=
  .next (s.spdmAnswer t.val (fun x => x.algs) id req 0x01 0 1 (fun s _ => beBytes 48 (sha s.certChain)))

/-- GET_CERTIFICATE of a slot: the portion that the request's offset and length (its bytes 4–7) name, and how much remains. -/
def execGetCertificate (t : Fin 3) (slot : Fin 8) (req : List Byte) (s : State) : Host.Outcome State Fault Refusal :=
  if s.spdmUp t.val ∧ (s.spdmConn t.val).algs ∧ slot.val ≠ 0 then .next (s.spdmError t.val errInvalid)
  else .next (s.spdmAnswer t.val (fun x => x.algs) id req 0x02 0 0 (fun s _ =>
    let rest := s.certChain.drop (leVal ((req.drop 4).take 2))
    let part := rest.take (leVal ((req.drop 6).take 2))
    leBytes 2 part.length ++ leBytes 2 (rest.length - part.length) ++ part))

/-! ## Measurements (15 R480–R483) -/

/-- The partition report. -/
def State.partReport (s : State) (p : Nat) : Bytes :=
  let r := s.rec_ p
  if !r.valid then leBytes 1 0xFF ++ zeros 255 else
  let x := s.part p
  let activating := s.loupe.inflight.any (fun c => c.opcode == Op.facetActivate && c.result.isNone && cmdPart c.via c.opcode c.entry == some p)
  let mem := match (members r.keyslots 128).head? with
    | some k => x.encrypted && (s.key k).byOperator
    | none => false
  let kind (k : Nat) : Nat := if bitOf r.keyslots k ∧ (s.key k).state = .active then (s.key k).kind + 1 else 0
  leBytes 1 x.state.code ++ leBytes 1 (b2n x.encrypted + 2 * b2n activating + 4 * b2n x.signed + 8 * b2n mem) ++ leBytes 2 x.plead ++
  leBytes 4 (s.view (Reg.keyConsent p)).toNat ++ leBytes 8 (s.stepOf p) ++ beBytes 48 x.facetDigest ++ beBytes 48 x.weightDigest ++
  leBytes 8 x.imageId ++ leBytes 32 r.blocks ++ leBytes 4 r.seqBase ++ leBytes 4 r.seqCount ++ leBytes 16 r.keyslots ++
  leBytes 32 ((List.range 128).foldl (fun a k => a + kind k * 4 ^ k) 0) ++
  leBytes 16 ((List.range 128).foldl (fun a k => a + (if bitOf r.keyslots k && (s.key k).byOperator then 2 ^ k else 0)) 0) ++ zeros 32

/-- The value of an index, with its DMTF value type; none for an index that the table does not name. -/
def State.measurement (s : State) (i : Nat) : Option (Nat × Bytes) :=
  if i = 1 then some (0x00, beBytes 48 (Config.rom 2))
  else if i = 2 then some (0x00, beBytes 48 (Config.rom 3))
  else if i = 3 then some (0x81, leBytes 4 s.loupe.amends.length ++ s.loupe.amends.flatMap (fun a => leBytes 4 a.1 ++ padTo 48 a.2))
  else if i = 4 then some (0x82, leBytes 8 s.loupe.serial ++ leBytes 1 0xA1 ++ leBytes 1 1 ++
    leBytes 2 ((List.range 256).filter (fun b => (s.block b).state == .retired)).length ++ leBytes 4 0)
  else if i = 5 then some (0x82, leBytes 4 s.loupe.debugWord)
  else if i = 6 then some (0x83, (List.range 64).flatMap (fun p => leBytes 4 (s.view (Reg.keyConsent p)).toNat))
  else if i = 7 then some (0x83, leBytes 4 s.loupe.licSeq ++ leBytes 1 (s.loupe.features % 16) ++ leBytes 3 0)
  else if i = 8 then some (0x83, beBytes 48 s.loupe.devDigest ++
    leBytes 8 ((List.range 64).foldl (fun a p => a + (if (s.rec_ p).valid then 2 ^ p else 0)) 0))
  else if 0x40 ≤ i ∧ i < 0x80 then some (0x83, s.partReport (i - 0x40))
  else none

/-- A measurement block as the DMTF lays it out. -/
def State.measureBlock (s : State) (i : Nat) : Bytes :=
  match s.measurement i with
  | none => []
  | some (ty, v) => leBytes 1 i ++ leBytes 1 1 ++ leBytes 2 (v.length + 3) ++ leBytes 1 ty ++ leBytes 2 v.length ++ v

/-- Every index. -/
def allIndices : List Nat := (List.range 8).map (· + 1) ++ (List.range 64).map (· + 0x40)

/-- The measurement summary: indices 1–5. -/
def State.measureSummary (s : State) : Bytes := beBytes 48 (sha ((List.range 5).flatMap (fun i => s.measureBlock (i + 1))))

/-- A signature over the transcript so far, the request and the response. -/
def State.spdmSign (s : State) (t : Nat) (msg : Bytes) : Bytes :=
  Config.identitySign (sha (leBytes 48 (s.spdmConn t).transcript ++ msg)) s.freeCtr

/-- CHALLENGE of slot 0; `sum` asks for the measurement summary. -/
def execChallenge (t : Fin 3) (slot : Fin 8) (sum : Bool) (req : List Byte) (s : State) : Host.Outcome State Fault Refusal :=
  if s.spdmUp t.val ∧ (s.spdmConn t.val).algs ∧ slot.val ≠ 0 then .next (s.spdmError t.val errInvalid)
  else .next (s.spdmAnswer t.val (fun x => x.algs) id req 0x03 0 1 (fun s m =>
    let b := m ++ if sum then s.measureSummary else []
    b ++ s.spdmSign t.val (req ++ b)))

/-- GET_MEASUREMENTS of an index: 0 asks for their number, 0xFF for all. -/
def execGetMeasurements (t : Fin 3) (index : Byte) (sign : Bool) (req : List Byte) (s : State) : Host.Outcome State Fault Refusal :=
  let i := index.toNat
  if s.spdmUp t.val ∧ (s.spdmConn t.val).algs ∧ i ≠ 0 ∧ i ≠ 0xFF ∧ (s.measurement i).isNone then .next (s.spdmError t.val errInvalid)
  else .next (s.spdmAnswer t.val (fun x => x.algs) id req 0x60 (if i = 0 then allIndices.length else 0) 0 (fun s m =>
    let b := m ++ if i = 0 then [] else if i = 0xFF then allIndices.flatMap s.measureBlock else s.measureBlock i
    if sign then b ++ s.spdmSign t.val (req ++ b) else b))

/-- CHUNK_GET: the next chunk of a large response. -/
def execChunkGet (t : Fin 3) (s : State) : Host.Outcome State Fault Refusal :=
  let x := s.spdmConn t.val
  if !s.spdmUp t.val then .next s
  else if x.chunk.isEmpty then .next (s.spdmError t.val errUnexpected)
  else
    -- a chunk response has 12 bytes before its data
    let n := max 1 (x.size - 12)
    let r := s.spdmPart 0x06
    .next ((r.2.setSpdm t.val { x with chunk := x.chunk.drop n }).send (.spdm t.val (spdmHead 0x06 0 0 ++ r.1 ++ x.chunk.take n)))

end Sys2Proof.Machine
end

