-- ==== Sys2Proof/Machine/Jtag.lean ====
section
/-! DEFINITION. The test access port (20 R617–R619, 15 R475, R476, R481, 21 R636). Each row is one instruction with one scan of its data
register; what the scan captures leaves as `Out.jtag`. -/

namespace Sys2Proof.Machine

/-- The TAP has its supplies (21 R636). -/
def State.tapUp (s : State) : Bool := s.power.aonUp && SMap.get false s.power.pwrGood 3
/-- Instructions other than BYPASS, IDCODE and the boundary scan act from MGMT_READY on. -/
def State.tapActs (s : State) : Bool := s.dev != .cold

def State.note (s : State) (m : Nat) : State := { s with loupe := { s.loupe with debugWord := s.loupe.debugWord ||| m } }
/-- An instruction is shifted in; one other than BYPASS and IDCODE is recorded (15 R481). -/
def State.shiftIr (s : State) (ir : Nat) : State :=
  let s := { s with jtag := { s.jtag with ir := ir } }
  if ir = 0xFF ∨ ir = 0x02 then s else s.note 1
def State.tdo (s : State) (v : Nat) : State := s.send (.jtag v)

/-- EXTEST; `pins` is what the boundary register captures. It acts in MGMT_READY and HOLD and else as BYPASS (21 R636). -/
def execExtest (pins : Nat) (s : State) : Host.Outcome State Fault Refusal :=
  if !s.tapUp then .next s
  else .next ((s.shiftIr 0x00).tdo (if s.dev = .mgmtReady ∨ s.dev = .hold then pins else 0))

/-- SAMPLE/PRELOAD. -/
def execSamplePreload (pins : Nat) (s : State) : Host.Outcome State Fault Refusal :=
  if !s.tapUp then .next s else .next ((s.shiftIr 0x01).tdo pins)

/-- IDCODE. -/
def execIdcode (s : State) : Host.Outcome State Fault Refusal :=
  if !s.tapUp then .next s else .next ((s.shiftIr 0x02).tdo 0x10C02A6B)

/-- BYPASS, and every code that the table does not name. -/
def execBypass (ir : Byte) (s : State) : Host.Outcome State Fault Refusal :=
  if !s.tapUp ∨ [0x00, 0x01, 0x02, 0x10, 0x11, 0x20, 0x21, 0x22].contains ir.toNat then .next s
  else .next (({ s with jtag := { s.jtag with ir := ir.toNat } }).tdo 0)

/-! ## REGACC and MEMACC -/

/-- An operation ends with a status: 0 done, 2 refused, 3 access fault. -/
def State.jtagEnd (s : State) (status addr data : Nat) (poison : Bool) : State :=
  { s with jtag := { s.jtag with status := status, addr := addr, data := data, poison := poison } }

/-- REGACC with a data register shifted in: the last operation's result is captured, then the new operation runs. -/
def execRegacc (v : BitVec 66) (s : State) : Host.Outcome State Fault Refusal :=
  if !s.tapUp then .next s
  else if !s.tapActs then .next ((s.shiftIr 0x20).tdo (2 ^ 64))
  else
    let j := s.jtag
    let s := (s.shiftIr 0x20).tdo (j.status % 4 * 2 ^ 64 + j.addr % 2 ^ 32 * 2 ^ 32 + j.data % 2 ^ 32)
    let op := (v.extractLsb' 64 2).toNat
    let off := (v.extractLsb' 32 32).toNat
    let data := v.extractLsb' 0 32
    if op = 0 then .next s
    else if off % 4 ≠ 0 ∨ 0x4000000 ≤ off then .next (s.jtagEnd 3 off 0 false)
    else if op = 1 then
      let r := s.readFull (reqOfVia .loupe) off
      .next (r.2.jtagEnd 0 off r.1.toNat false)
    else if op = 2 then
      let r := s.writeReg 0 off data
      if r.2 then .next ((r.1.accessFault 0 0 3 off).jtagEnd 3 off data.toNat false) else .next (r.1.jtagEnd 0 off data.toNat false)
    else .next (s.jtagEnd 2 off data.toNat false)

/-- Core n's block holds contents; one that lies in OFF is raised and so cleared (07 R212, 18 R558). -/
def State.wakeCore (s : State) (n : Nat) : State := if (s.block (blockOf n)).state = .off then s.zeroCore n else s

/-- A word that MEMACC reads, whether it is poisoned or uncorrectable; none when the address is no memory. -/
def State.debugWord (s : State) (a : Nat) : Option (Nat × Bool × State) :=
  if isHbm a ∨ isScratch a then
    if isHbm a ∧ !s.chanUp (chanOfAddr a) then none else
    let r := s.ccRead none a 8
    some (leVal r.1, r.2.1 != 0, r.2.2)
  else if sliceBase 0 ≤ a ∧ a < sliceBase 16384 then
    let n := (a - sliceBase 0) / sliceBytes
    let r := s.sliceRead n ((a - sliceBase 0) % sliceBytes) 8
    some (leVal r.1, r.2.1, r.2.2)
  else if coreWindow 0 ≤ a ∧ a < coreWindow 16384 ∧ (a - coreWindow 0) % 0x40000 < coreBytes then
    let n := (a - coreWindow 0) / 0x40000
    let s := s.wakeCore n
    let w := s.mem.word a
    let off := (a - coreWindow 0) % 0x40000
    some (leVal w.1, w.2.1, s.countCheck n w.2.2 (if off < sramBytes then some (off / 8) else none))
  else none

/-- The partition whose memory an address reads, and whether it is a core memory (15 R476). -/
def State.debugOwner (s : State) (a : Nat) : Option Nat × Bool × Bool :=
  if isHbm a then (if s.inService a then none else s.partOfChan (chanOfAddr a), false, false)
  else if isScratch a then (s.partOfScratch a, false, false)
  else if sliceBase 0 ≤ a ∧ a < sliceBase 16384 then (s.partOfCore ((a - sliceBase 0) / sliceBytes), false, true)
  else if coreWindow 0 ≤ a ∧ a < coreWindow 16384 then (s.partOfCore ((a - coreWindow 0) / 0x40000), true, true)
  else (none, false, false)

/-- MEMACC. -/
def execMemacc (v : BitVec 115) (s : State) : Host.Outcome State Fault Refusal :=
  if !s.tapUp then .next s
  else if !s.tapActs then .next ((s.shiftIr 0x21).tdo (2 ^ 112))
  else
    let j := s.jtag
    let s := (s.shiftIr 0x21).tdo (b2n j.poison * 2 ^ 114 + j.status % 4 * 2 ^ 112 + j.addr % 2 ^ 48 * 2 ^ 64 + j.data % 2 ^ 64)
    let op := (v.extractLsb' 112 2).toNat
    let a := (v.extractLsb' 64 48).toNat
    if op = 0 then .next s
    else if 1 < op then .next (s.jtagEnd 2 a 0 false)
    else
      let o := s.debugOwner a
      let refused : Bool := match o.1 with
        | some p => !s.consent p (if o.2.1 then 2 else 0) || (o.2.2 && s.partIn p [.running])
        | none => false
      if refused then .next (s.jtagEnd 2 a 0 false)
      else if a % 8 ≠ 0 then .next (s.jtagEnd 3 a 0 false)
      else match s.debugWord a with
        | none => .next (s.jtagEnd 3 a 0 false)
        | some (d, poi, s) => .next ((s.noteGated o.1.isSome).jtagEnd 0 a d poi)

/-- LINKDBG of a unit: the spec does not give the contents of what it reads. -/
def execLinkdbg (unit : Byte) (s : State) : Host.Outcome State Fault Refusal :=
  if !s.tapUp then .next s
  else if !s.tapActs then .next ((s.shiftIr 0x22).tdo 0)
  else
    let r := s.free 56
    .next (((r.2.shiftIr 0x22).note 4).tdo (unit.toNat * 2 ^ 56 + r.1.toNat))

/-! ## Loupe debug (20 R618). Register places are those of RISC-V External Debug Support 0.13.2. -/

/-- DTMCS: version 1 in [3:0]; the spec gives none of the other fields. -/
def execDtmcs (s : State) : Host.Outcome State Fault Refusal :=
  if !s.tapUp then .next s
  else if !s.tapActs then .next ((s.shiftIr 0x10).tdo 0)
  else
    let r := s.free 32
    .next ((r.2.shiftIr 0x10).tdo (setBits r.1 0 4 1).toNat)

/-- What dmstatus says of the selected hart. -/
def State.dmstatus (s : State) : Word :=
  let c := s.jtag.dmcontrol
  let h := bits c 16 10
  let none_ := 1 < h ∨ (h ≠ s.loupe.active ∧ !s.loupe.standby)
  let unavail := ¬ none_ ∧ h = s.loupe.active ∧ bits c 31 1 = 1
  let halted := ¬ none_ ∧ h ≠ s.loupe.active ∧ s.loupe.standbyHalted
  let w : Word := 0x82
  if none_ then setBits w 14 2 3
  else if unavail then setBits w 12 2 3
  else if halted then setBits w 8 2 3
  else setBits w 10 2 3

/-- A write of dmcontrol: a halt request reaches the standby Loupe only; a resume request wakes it. -/
def State.dmControl (s : State) (w : Word) : State :=
  let s := { s with jtag := { s.jtag with dmcontrol := w } }
  let h := bits w 16 10
  if bits w 0 1 = 0 ∨ 1 < h ∨ h = s.loupe.active ∨ !s.loupe.standby then s
  else if bits w 31 1 = 1 then { s with loupe := { s.loupe with standbyHalted := true } }
  else if bits w 30 1 = 1 then { s with loupe := { s.loupe with standbyHalted := false } }
  else s

/-- System bus access of the debug module (log 97): the 64-bit word at the address, or its 32-bit half. A partition's memory needs the consent
of 15 R476, and without it reads 0; an address that is no memory sets sberror 2, one that is not aligned 3, another size 4. -/
def State.sbRead (s : State) : State :=
  let j := s.jtag
  let a := j.sbaddr
  let put (s : State) (err data : Nat) : State := { s with jtag := { s.jtag with sbcs := setBits s.jtag.sbcs 12 3 err, sbdata := data } }
  let w := bits j.sbcs 17 3
  if bits j.sbcs 12 3 ≠ 0 then s
  else if w ≠ 2 ∧ w ≠ 3 then put s 4 0
  else if a % 2 ^ w ≠ 0 then put s 3 0
  else
    let o := s.debugOwner a
    let refused : Bool := match o.1 with
      | some p => !s.consent p (if o.2.1 then 2 else 0) || (o.2.2 && s.partIn p [.running])
      | none => false
    let s := if bits j.sbcs 16 1 = 1 then { s with jtag := { s.jtag with sbaddr := (a + 2 ^ w) % 2 ^ 64 } } else s
    if refused then put s 0 0
    else match s.debugWord (a / 8 * 8) with
      | none => put s 2 0
      | some (d, _, s) => put (s.noteGated o.1.isSome) 0 (if w = 3 then d else d / 2 ^ (8 * (a % 8)) % 2 ^ 32)

/-- A write of a register of the debug module. Of memory it only reads, so a write of sbdata moves nothing. -/
def State.dmWrite (s : State) (addr : Nat) (v : Word) : State :=
  let j := s.jtag
  if addr = 0x10 then s.dmControl v
  else if addr = 0x38 then
    let err := bits j.sbcs 12 3
    { s with jtag := { j with sbcs := setBits (v &&& 0x001F8000) 12 3 (err - (err &&& bits v 12 3)) } }
  else if addr = 0x3A then { s with jtag := { j with sbaddr := j.sbaddr % 2 ^ 32 + 2 ^ 32 * v.toNat } }
  else if addr = 0x39 then
    let s := { s with jtag := { j with sbaddr := j.sbaddr / 2 ^ 32 * 2 ^ 32 + v.toNat } }
    if bits j.sbcs 20 1 = 1 then s.sbRead else s
  else s

/-- A read of a register of the debug module; of most the spec gives nothing. -/
def State.dmRead (s : State) (addr : Nat) : Nat × State :=
  let j := s.jtag
  if addr = 0x10 then (j.dmcontrol.toNat, s)
  else if addr = 0x11 then (s.dmstatus.toNat, s)
  -- version 1, addresses of 64 bits, accesses of 64 and of 32 bits
  else if addr = 0x38 then ((j.sbcs ||| 0x2000080C).toNat, s)
  else if addr = 0x39 then (j.sbaddr % 2 ^ 32, s)
  else if addr = 0x3A then (j.sbaddr / 2 ^ 32 % 2 ^ 32, s)
  else if addr = 0x3C then (j.sbdata % 2 ^ 32, if bits j.sbcs 15 1 = 1 then s.sbRead else s)
  else if addr = 0x3D then (j.sbdata / 2 ^ 32 % 2 ^ 32, s)
  else
    let r := s.free 32
    (r.1.toNat, r.2)

/-- DMI: OP 1 reads and 2 writes the debug module's register. The debug module reads Loupe state that the spec does not lay out. -/
def execDmi (addr : Byte) (data : Word) (op : Fin 4) (s : State) : Host.Outcome State Fault Refusal :=
  if !s.tapUp then .next s
  else if !s.tapActs then .next ((s.shiftIr 0x11).tdo 1)
  else
    let s := s.shiftIr 0x11
    if op.val = 0 then .next (s.tdo 0)
    else
      let s := s.note 2
      if op.val = 2 then .next ((s.dmWrite addr.toNat data).tdo 0)
      else
        let r := s.dmRead addr.toNat
        .next (r.2.tdo r.1)

end Sys2Proof.Machine
end

