-- ==== Sys2Proof/Machine/Power.lean ====
section
/-! DEFINITION. Rails, supplies, power requests, brown-outs, the Aperture, and the entries to COLD and SHUTDOWN (01 R23–R26, 18 R549–R566,
21 R628, R634, R639). -/

namespace Sys2Proof.Machine

/-! ## The board record (18 R551) -/

def boardOff : Nat := 0x2000
/-- A board record is valid. -/
def boardOk (b : Bytes) : Bool :=
  b.length == 128 && hField b 0 4 == 0x44524142 && hField b 4 1 == 1 && zeroAt b 5 3 && zeroAt b 76 48 && hField b 124 4 == crc32 (b.take 124) &&
  (List.range 16).all (fun r => decide (hField b (8 + 4 * r) 1 < 128) && decide (hField b (10 + 4 * r) 1 < 8) && hField b (11 + 4 * r) 1 == 0)

/-- The coolant PWM duty in force. -/
def State.setDuty (s : State) (v : Nat) : State := s.setField Reg.irisCtrl 8 8 v

/-- The record is read: chip 0's when valid, else chip 1's; without one no PMBus command is sent and the duty is 100 %. -/
def State.readBoard (s : State) : State :=
  match ([0, 1].map (fun c => s.flashRec c boardOff)).find? boardOk with
  | some b =>
    let m := (List.range 16).map (fun r => (r, (hField b (8 + 4 * r) 1, hField b (9 + 4 * r) 1, hField b (10 + 4 * r) 1)))
    { s with power := { s.power with board := some m, flowK := hField b 72 2, dutyMin := hField b 74 1, dutyMax := hField b 75 1 } }.setDuty (hField b 75 1)
  | none => { s with power := { s.power with board := none, flowK := 0, dutyMin := 0, dutyMax := 100 } }.setDuty 100

/-- A rail's FLAGS: 0 PRESENT, 1 SEQ, 2 AVS. -/
def State.railFlag (s : State) (r i : Nat) : Bool :=
  match s.power.board with
  | some m => bitOf (SMap.get (0, 0, 0) m r).2.2 i
  | none => false

/-- A PMBus command to rail r's regulator. -/
def State.pmbus (s : State) (r cmd val : Nat) : State :=
  match s.power.board with
  | some m => let x := SMap.get (0, 0, 0) m r; s.send (.pmbus x.1 x.2.1 cmd val)
  | none => s
/-- Command codes of PMBus 1.4. -/
def pmOperation : Nat := 0x01
def pmClearFaults : Nat := 0x03
def pmVoutCommand : Nat := 0x21
def pmStatusWord : Nat := 0x79
def pmReadVout : Nat := 0x8B
def pmReadIout : Nat := 0x8C
def pmReadTemp : Nat := 0x8D

/-! ## COLD (18 R563, 15 R451, 07 R212) -/

/-- Registers of the always-on domains: the sensors, THERM_SHUTDOWN and LOUPE_DIE_MAP (18 R567, R572, 01 R26). -/
def aonReg (off : Nat) : Bool := off == Reg.dieMap || (decide (0x0300000 ≤ off) && decide (off < Reg.thermCoolant)) || off == Reg.thermShutdown

/-- A slice after a reset: what is fused stays. -/
def Slice.cold (x : Slice) : Slice := { Slice.reset with spared := x.spared }

/-- The slices stand under their cores as they do without repairs in service (01 R28): a half's that a repair moved move back, and the
retired column's stand under cores again. A half whose column was retired at manufacture stays (01 R28, 19 R587). -/
def State.unmapped (s : State) : SMap Slice :=
  (List.range 8).foldl (fun m t => [0, 1].foldl (fun m h =>
    let w := s.reg (Reg.tileRepair t)
    let q := bits w (8 + 8 * h) 7
    if !halfUsed w h ∨ (SMap.find s.loupe.fusedCols (2 * t + h)).isSome ∨ movedCols q = [] then m else
    (List.range 32).foldl (fun m y =>
      let m := (movedCols q).foldl (fun m j =>
        SMap.put m (coreInTile t y j) (s.slice (if j + h = q then outKey t y q else coreInTile t y (j - 1)))) m
      SMap.put (SMap.del m (outKey t y q)) (outKey t y (33 * h + 32)) (s.slice (coreInTile t y (32 * h + 31)))) m) m) s.slices

/-- Spare rows left in the slices, as the fuses say; what an HBM channel has left is loaded at bring-up (08 R231). -/
def State.showSpares (s : State) : State :=
  (s.slices.filter (fun x => decide (x.1 < 16384))).foldl (fun s x => s.setField (Reg.sliceStatus x.1) 0 5 (16 - x.2.spared.length)) s

/-- The rails of each PWR_GOOD input (18 R550). -/
def goodGroup (r : Nat) : Nat := if r < 8 then 0 else if r < 10 then 1 else if r < 13 then 2 else 3
def State.goodInput (s : State) (g : Nat) : Bool := SMap.get false s.power.pwrGood g
def State.allGood (s : State) : Bool := (List.range 4).all s.goodInput
def State.noneGood (s : State) : Bool := (List.range 4).all (fun g => !s.goodInput g)

/-- PGOOD of every rail, the fixed setpoints (18 R549), the reference's presence, ENTROPY_FAIL. -/
def State.showRails (s : State) : State :=
  let fixed (r : Nat) : Nat := [1100, 1800, 1050, 750, 1800, 800, 900, 1800].getD (r - 8) 0
  let s := (List.range 16).foldl (fun s r =>
    let s := s.setField (Reg.rail r) 9 1 (b2n (s.goodInput (goodGroup r)))
    if 8 ≤ r ∧ s.goodInput (goodGroup r) then s.setField (Reg.rail r) 10 11 (fixed r) else s) s
  (s.setField Reg.clkStatus 31 1 (b2n s.power.refclk)).setField Reg.errDevice 21 1 (b2n !s.loupe.entropyOk)

/-- A reset during a lane map's commit (16 R490): the spec fixes no instant, so a free value says how far the write came (log 100): nothing yet, chip 0
cut short, chip 0 written, or chip 1 cut short, too. A record cut short is held as no bytes, which no check accepts. -/
def State.cutCommit (s : State) : State :=
  if !s.loupe.mapBusy then s else
  let r := s.free 2
  let s := r.2
  match r.1.toNat with
  | 0 => s
  | 1 => s.putFlash 0 0x1000 []
  | 2 => s.putFlash 0 0x1000 s.loupe.mapRec
  | _ => (s.putFlash 0 0x1000 s.loupe.mapRec).putFlash 1 0x1000 []

/-- Every die but the always-on domains is reset and the part is COLD (18 R563). -/
def State.toCold (s : State) : State :=
  let s := s.cutCommit
  let r := State.reset
  let l := s.loupe
  let t : State := { r with
    pending := s.pending, freeCtr := s.freeCtr, out := s.out, timebase := s.timebase, flash := s.flash,
    regs := s.regs.filter (fun x => aonReg x.1),
    slices := (s.unmapped.filter (fun x => !x.2.spared.isEmpty)).map (fun x => (x.1, x.2.cold)),
    chans := (s.chans.filter (fun x => !x.2.spareRows.isEmpty)).map (fun x => (x.1, { Chan.reset with spareRows := x.2.spareRows })),
    power := { s.power with missed := [], warned := [], brownout := false, brownParts := [], seqDown := none },
    thermal := { Thermal.reset with last := s.thermal.last, pulses := s.thermal.pulses },
    loupe := { Loupe.reset with
      strap := l.strap, windowOpen := l.windowOpen, active := s.strapActive, serial := l.serial, dieSerial := l.dieSerial,
      fusedCols := l.fusedCols, perst := l.perst, entropyOk := l.entropyOk } }
  (t.showSpares.showRails).setDuty s.power.dutyMax

/-! ## Power-up and SHUTDOWN (18 R564–R566) -/

/-- The order in which rails are switched on. -/
def railOrder : List Nat := [15, 13, 14, 9, 8, 12, 10, 11, 0, 1, 2, 3, 4, 5, 6, 7]
def State.seqRails (s : State) : List Nat := railOrder.filter (fun r => s.railFlag r 1)

/-- The i-th SEQ rail is switched on; nothing is left to do past the last. -/
def State.railOn (s : State) (i : Nat) : State :=
  match s.seqRails[i]? with
  | some r => ({ s with power := { s.power with seqUp := some i } }).pmbus r pmOperation 0x80
  | none => { s with power := { s.power with seqUp := none } }
/-- The i-th from the end is switched off. -/
def State.railOff (s : State) (i : Nat) : State :=
  match s.seqRails.reverse[i]? with
  | some r => ({ s with power := { s.power with seqDown := some i } }).pmbus r pmOperation 0
  | none => { s with power := { s.power with seqDown := none } }

/-- The CX2 enters SHUTDOWN (18 R565): commands end with BUSY, blocks go to OFF, the sequencer starts. -/
def State.enterShutdown (s : State) : State :=
  if s.dev = .shutdown then s else
  let s := { s with dev := .shutdown, loupe := { s.loupe with
    handover := false, amendPending := none,
    inflight := s.loupe.inflight.map (fun (c : InFlight) => if c.result.isSome then c else { c with result := some (fail St.busy) }) } }
  let s := (List.range 256).foldl (fun s b => s.retarget b .off) s
  (s.setDuty s.power.dutyMax).railOff 0

/-- A stage of power-up or bring-up ends: an off request that came meanwhile is acted on (18 R566, 19 R596). -/
def State.stageEnd (s : State) : State := if s.power.pwrReq then s else s.enterShutdown

/-- An on request is acted on (18 R564). -/
def State.startUp (s : State) : State :=
  let s := { s with power := { s.power with reqPending := false } }
  if s.power.seqUp.isSome ∨ s.allGood then s else s.railOn 0

/-- THERMTRIP_N is released, and a held request acted on, when every sensor reads below its warning level and PWR_REQ has been low and is
high again (18 R570). -/
def State.tripCheck (s : State) : State :=
  let warn (off : Nat) : Nat := (if off < 0x0310000 then 90 else if off < 0x0320000 then 100 else 88) * 16 + 2 ^ 15
  if s.power.thermtripLow ∧ s.power.reqCycled ∧ s.power.pwrReq ∧ s.thermal.last.all (fun x => decide (x.2 < warn x.1)) then
    let s : State := { s with power := { s.power with thermtripLow := false, reqCycled := false } }
    let s : State := s.thermal.last.foldl (fun (s : State) x => if bits (s.reg x.1) 29 2 = 3 then s.setField x.1 29 2 0 else s) s
    if s.dev = .cold then s.startUp else s
  else s

/-- PWR_REQ_ON (18 R564, R566): PWR_REQ is high past its debounce. -/
def execPwrReqOn (s : State) : Host.Outcome State Fault Refusal :=
  if !s.power.aonUp ∨ s.power.pwrReq then .next s else
  let s := { s with power := { s.power with pwrReq := true } }
  if s.power.thermtripLow then .next ({ s with power := { s.power with reqPending := true } }.tripCheck)
  else if s.dev = .cold then .next s.startUp
  else if s.dev = .shutdown then .next { s with power := { s.power with reqPending := true } }
  else .next s

/-- Bring-up is under way: an off request waits for the end of its stage. -/
def State.staging (s : State) : Bool :=
  (s.dev == .cold && (s.power.seqUp.isSome || s.allGood)) || ((s.dev == .mgmtReady || s.dev == .staging) && decide (s.loupe.bringStep ≤ 10))

/-- PWR_REQ_OFF (18 R565, R566). -/
def execPwrReqOff (s : State) : Host.Outcome State Fault Refusal :=
  if !s.power.aonUp then .next s else
  let s := { s with power := { s.power with pwrReq := false, reqPending := false, reqCycled := s.power.reqCycled || s.power.thermtripLow } }
  if s.dev = .cold ∨ s.staging then .next s else .next s.enterShutdown

/-- RAIL_SEQUENCE_NEXT: the rail switched on last has come up, or 10 ms have passed. -/
def execRailSequenceNext (s : State) : Host.Outcome State Fault Refusal :=
  match s.power.seqUp with
  | some i =>
    if s.dev ≠ .cold then .next s else
    let s := s.railOn (i + 1)
    .next (if s.power.seqUp.isNone then s.stageEnd else s)
  | none => .next s

/-- SHUTDOWN_RAIL_OFF. -/
def execShutdownRailOff (s : State) : Host.Outcome State Fault Refusal :=
  match s.power.seqDown with
  | some i => if s.dev = .shutdown then .next (s.railOff (i + 1)) else .next s
  | none => .next s

/-- COLD_ENTRY: in SHUTDOWN every PWR_GOOD input is low; an on request that was held is acted on. -/
def execColdEntry (s : State) : Host.Outcome State Fault Refusal :=
  if s.dev ≠ .shutdown ∨ !s.noneGood then .next s else
  let s := s.toCold
  .next (if s.power.pwrReq ∧ !s.power.thermtripLow then s.startUp else s)

/-- PWR_GOOD_VALID of input g (18 R550): once every input is valid, bring-up step 1 runs. -/
def execPwrGoodValid (g : Fin 4) (s : State) : Host.Outcome State Fault Refusal :=
  if !s.power.aonUp then .next s
  else .next ({ s with power := { s.power with pwrGood := SMap.put s.power.pwrGood g.val true } }.showRails)

/-! ## Resets (18 R553, R563, 21 R628, R639) -/

/-- SUPPLY_RESET: PWR_GOOD input g goes low, or, without g, a rail falls below 85 %. In SHUTDOWN the rails fall as they are switched off. -/
def execSupplyReset (g : Option (Fin 4)) (s : State) : Host.Outcome State Fault Refusal :=
  if !s.power.aonUp then .next s else
  let s := match g with
    | some g => { s with power := { s.power with pwrGood := SMap.put s.power.pwrGood g.val false } }
    | none => s
  if s.dev = .shutdown then .next s.showRails else .next s.toCold

/-- RAIL_OVERVOLTAGE. -/
def execRailOvervoltage (_r : RailId) (s : State) : Host.Outcome State Fault Refusal :=
  if s.power.aonUp then .next s.toCold else .next s

/-- REFCLK_LOSS. -/
def execRefclkLoss (s : State) : Host.Outcome State Fault Refusal :=
  if s.power.aonUp ∧ s.power.refclk then .next { s with power := { s.power with refclk := false } }.toCold else .next s

/-- REFCLK_25M_RETURN. -/
def execRefclk25mReturn (s : State) : Host.Outcome State Fault Refusal :=
  if s.power.aonUp ∧ !s.power.refclk then .next ({ s with power := { s.power with refclk := true } }.showRails) else .next s

/-- POWER_ON_RESET (18 R563): VDD_AON is lost; what is fused and the flash stay, and so do the levels of input lands. -/
def execPowerOnReset (s : State) : Host.Outcome State Fault Refusal :=
  let c := s.toCold
  .next ({ c with
    timebase := 0, regs := [], power := Power.reset, thermal := Thermal.reset,
    loupe := { Loupe.reset with serial := c.loupe.serial, dieSerial := c.loupe.dieSerial, fusedCols := c.loupe.fusedCols, perst := c.loupe.perst,
                                entropyOk := c.loupe.entropyOk } }.showSpares.showRails)

/-! ## Die identity (01 R23–R26) -/

/-- STRAP_SAMPLE: die d (0–7 tile dies, 8 and 9 hub dies) reports a code; one that comes after the window is ignored. -/
def execStrapSample (d : Fin 10) (code : BitVec 4) (s : State) : Host.Outcome State Fault Refusal :=
  if !s.power.aonUp ∨ !s.loupe.windowOpen ∨ (SMap.find s.loupe.strap d.val).isSome then .next s
  else .next { s with loupe := { s.loupe with strap := SMap.put s.loupe.strap d.val code.toNat } }

/-- A code is valid for the die. -/
def strapOk (d code : Nat) : Bool := if d < 8 then decide (code < 8) else code == 8 || code == 9

/-- COLLECTION_WINDOW_CLOSE: LOUPE_DIE_MAP is loaded, 5 ms after the always-on reset. A code that its die may not report counts in
INVALID_COUNT and not in SEEN and DUP (01 R26; DEDUCED, log 81). -/
def execCollectionWindowClose (s : State) : Host.Outcome State Fault Refusal :=
  if !s.power.aonUp ∨ !s.loupe.windowOpen then .next s else
  let bad := (s.loupe.strap.filter (fun x => !strapOk x.1 x.2)).length
  let count (i : Nat) : Nat := (s.loupe.strap.filter (fun x => strapOk x.1 x.2 && x.2 == i)).length
  let set (f : Nat → Bool) : Nat := (List.range 10).foldl (fun a i => a + (if f i then 2 ^ i else 0)) 0
  let ok := bad == 0 && (List.range 10).all (fun i => count i == 1)
  let w := setBits (setBits (setBits (setBits (setBits 0 31 1 1) 30 1 (b2n ok)) 16 10 (set (fun i => decide (2 ≤ count i)))) 10 4 bad) 0 10
    (set (fun i => decide (1 ≤ count i)))
  .next ({ s with loupe := { s.loupe with windowOpen := false, active := s.strapActive } }.setReg Reg.dieMap w)

/-! ## Brown-outs (18 R562) -/

/-- RAIL_WARNING: rail r is in warning. -/
def execRailWarning (r : RailId) (s : State) : Host.Outcome State Fault Refusal :=
  if s.dev = .cold ∨ s.dev = .shutdown then .next s else
  let s := s.setField (Reg.rail r.val) 7 1 1
  let s := { s with power := { s.power with warned := if s.power.warned.contains r.val then s.power.warned else s.power.warned ++ [r.val] } }
  if s.power.brownout then .next (s.deviceEvent 1 true) else
  let ps := (List.range 64).filter (fun p => s.partIn p [.running])
  let s := ps.foldl (fun s p => s.setPart p { s.part p with brownout := true, brownOpen := s.windowOpen p }) s
  let s := { s with power := { s.power with brownout := true, brownAt := s.timebase, brownParts := ps } }
  .next (s.deviceEvent 1 true)

/-- RAIL_RECOVERY: every rail has recovered; `cycles` gives, by partition, the real cycles for which the brown-out paused it. -/
def execRailRecovery (cycles : List (PartId × Nat)) (s : State) : Host.Outcome State Fault Refusal :=
  if !s.power.brownout then .next s else
  let short := s.timebase ≤ s.power.brownAt + 20000000
  let len (p : Nat) : Nat := ((cycles.find? (fun x => x.1.val == p)).map (·.2)).getD 0
  let s := s.power.brownParts.foldl (fun s p =>
    if !(s.part p).brownout then s else
    let s := if s.partIn p [.running] then s.countPause p pcBrownout (len p) else s
    let s := s.setPart p { s.part p with brownout := false }
    if short then s.recoverable p 1 (s.part p).brownOpen else s) s
  let s := { s with power := { s.power with brownout := false, brownParts := [], warned := [] } }
  let s := if short then s.setReg Reg.brownoutCount (s.reg Reg.brownoutCount + 1) else s
  .next (s.deviceEventEnds 1)

/-- BROWNOUT_TIMEOUT: 20 ms have passed; the partitions that it paused fault with cause POWER. -/
def execBrownoutTimeout (s : State) : Host.Outcome State Fault Refusal :=
  if !s.power.brownout ∨ s.timebase < s.power.brownAt + 20000000 then .next s else
  let s' := s.power.brownParts.foldl (fun s p => (s.faultPart p 0x42 none).setPart p { (s.faultPart p 0x42 none).part p with brownout := false }) s
  .next { s' with power := { s'.power with brownParts := [] } }

/-! ## PMBus and voltages (18 R552, R555, R556) -/

/-- A regulator's answer to a poll: VOUT in mV, IOUT in 1/16 A, whether STATUS_WORD reports a fault. -/
abbrev RailRead := Nat × Nat × Bool

/-- A regulator fault: FAULT, CLEAR_FAULTS and a POWER event. -/
def State.railFault (s : State) (r : Nat) : State :=
  ((s.setField (Reg.rail r) 8 1 1).pmbus r pmClearFaults 0).deviceEvent 1 false

def State.pollRail (s : State) (reads : List (RailId × RailRead)) (r : Nat) : State :=
  if !s.railFlag r 0 then s else
  let s := [pmStatusWord, pmReadVout, pmReadIout, pmReadTemp].foldl (fun s c => s.pmbus r c 0) s
  match reads.find? (fun x => x.1.val == r) with
  | some (_, v, i, bad) =>
    let s := { s with power := { s.power with missed := SMap.set 0 s.power.missed r 0 } }
    let s := s.setField (Reg.rail r) 21 11 v
    let s := s.setReg (Reg.railI r) (setBits (setBits 0 0 16 i) 16 16 (v * i / 16000))
    if bad then s.railFault r else s
  | none =>
    let n := SMap.get 0 s.power.missed r + 1
    let s := { s with power := { s.power with missed := SMap.set 0 s.power.missed r n } }
    if n = 3 then s.railFault r else s

/-- Every PRESENT rail is read. -/
def State.pollRails (s : State) (reads : List (RailId × RailRead)) : State :=
  if s.dev = .cold then s else (List.range 16).foldl (fun s r => s.pollRail reads r) s

/-- PMBUS_POLL: every 10 ms. `reads` holds the answers that came. -/
def execPmbusPoll (reads : List (RailId × RailRead)) (s : State) : Host.Outcome State Fault Refusal := .next (s.pollRails reads)

/-- PMB_ALERT (21 R634): a falling edge makes the Loupe poll at once. -/
def execPmbAlert (reads : List (RailId × RailRead)) (s : State) : Host.Outcome State Fault Refusal := .next (s.pollRails reads)

/-- Blocks whose need counts. -/
def State.powered (s : State) (b : Nat) : Bool := (s.block b).state == .active || (s.block b).state == .retain

/-- AVS_UPDATE (18 R555): `needs` gives the mV that each block measures. A rail's setpoint moves by at most 10 mV from the last one
commanded, or, before the first, from the voltage read; blocks trim down to their need. -/
def execAvsUpdate (needs : List (BlockId × Nat)) (s : State) : Host.Outcome State Fault Refusal :=
  if s.dev = .cold ∨ s.dev = .shutdown then .next s else
  let ns := needs.filter (fun x => s.powered x.1.val)
  let s := (List.range 8).foldl (fun s t =>
    let mine := ns.filter (fun x => x.1.val / 32 == t)
    if !s.railFlag t 2 ∨ mine.isEmpty then s else
    let w := s.reg (Reg.rail t)
    let now := if bits w 10 11 = 0 then bits w 21 11 else bits w 10 11
    if now = 0 then s else
    let want := max 550 (min 900 ((mine.map (·.2)).foldl max 0 + 20))
    let v := if now < want then min want (now + 10) else max want (now - 10)
    let v := max 550 (min 900 v)
    (s.setField (Reg.rail t) 10 11 v).pmbus t pmVoutCommand v) s
  .next (ns.foldl (fun s x =>
    let w := s.reg (Reg.rail (x.1.val / 32))
    let set := if bits w 10 11 = 0 then bits w 21 11 else bits w 10 11
    s.setBlock x.1.val { s.block x.1.val with trim := min 150 (set - x.2) }) s)

/-- POINT_CHANGE_DONE: every PLL has relocked and the rails have settled. -/
def execPointChangeDone (p : PartId) (s : State) : Host.Outcome State Fault Refusal := .next (s.setField (Reg.clkPart p.val) 31 1 0)

/-! ## The Aperture (18 R559, R560) -/

/-- Ramps running on a tile's rail. -/
def State.ramps (s : State) (t : Nat) : Nat := ((List.range 32).filter (fun i => (s.block (32 * t + i)).ramping)).length

/-- APERTURE_ADMIT: the head of a tile's queue starts its ramp. -/
def execApertureAdmit (t : Fin 8) (s : State) : Host.Outcome State Fault Refusal :=
  match SMap.get [] s.aperture t.val with
  | [] => .next s
  | b :: rest =>
    if s.power.brownout ∨ 4 ≤ s.ramps t.val ∨ s.dev = .cold ∨ s.dev = .shutdown then .next s else
    let s := { s with aperture := SMap.put s.aperture t.val rest }
    let s := s.setBlock b { s.block b with queued := false, ramping := true }
    .next (s.countField (Reg.blockAperture t.val) 0 16 1)

/-- RAMP_END: the block reaches what it was raised to; one that left OFF is to be zero-filled. -/
def execRampEnd (b : BlockId) (s : State) : Host.Outcome State Fault Refusal :=
  let x := s.block b.val
  if !x.ramping then .next s else
  let up : BState := if x.state = .off ∧ x.target ≠ .active then .retain else .active
  .next (s.setBlock b.val { x with state := up, ramping := false, fillCore := x.fillCore || x.state == .off })

/-- BLOCK_LOWER_END: a lowering ends one state down. -/
def execBlockLowerEnd (b : BlockId) (s : State) : Host.Outcome State Fault Refusal :=
  let x := s.block b.val
  if x.ramping ∨ x.queued ∨ x.state.rank ≤ x.target.rank then .next s else
  .next (s.setBlock b.val { x with state := if x.state = .active then .retain else .off })

/-! ## Device windows and entropy (17 R545, R548, 15 R460) -/

/-- DEVICE_WINDOW_EXPIRY: 1 s after a class's condition ended, its window closes. Classes 1–4. -/
def execDeviceWindowExpiry (cls : Fin 5) (s : State) : Host.Outcome State Fault Refusal :=
  if cls.val = 0 ∨ s.loupe.conds.contains cls.val ∨ s.timebase < SMap.get 0 s.loupe.winAt cls.val + 1000000000 then .next s
  else .next (s.setField Reg.errDevice (winBit cls.val) 1 0)

/-- ENTROPY_HEALTH_FAIL. -/
def execEntropyHealthFail (s : State) : Host.Outcome State Fault Refusal :=
  .next ({ s with loupe := { s.loupe with entropyOk := false } }.setField Reg.errDevice 21 1 1)

/-- ENTROPY_HEALTH_RECOVERY. -/
def execEntropyHealthRecovery (s : State) : Host.Outcome State Fault Refusal :=
  .next ({ s with loupe := { s.loupe with entropyOk := true } }.setField Reg.errDevice 21 1 0)

/-! ## SMBus (21 R634) -/

/-- ALERT_RESPONSE_ADDRESS_READ: SMB_ALERT_N is released, and the answer carries the CX2's address. -/
def execAlertResponseAddressRead (s : State) : Host.Outcome State Fault Refusal :=
  if s.dev = .cold ∨ !s.loupe.smbAlert then .next s
  else .next ({ s with loupe := { s.loupe with smbAlert := false } }.send (.smbus (leBytes 1 (2 * s.loupe.smbAddr))))

/-- ADDRESS_RESOLUTION_PROTOCOL: the UDID is presented and an address taken. Of the UDID the spec gives the Vendor ID, the device ID and the
serial number; their places are those of SMBus 3.2. -/
def execAddressResolutionProtocol (addr : BitVec 7) (s : State) : Host.Outcome State Fault Refusal :=
  if s.dev = .cold then .next s else
  let r := s.free 64
  let udid := leBytes 2 (r.1.toNat % 65536) ++ beBytes 2 0x1FA5 ++ beBytes 2 0x0C02 ++ leBytes 6 (r.1.toNat / 65536) ++ beBytes 4 (s.loupe.serial % 2 ^ 32)
  .next ({ r.2 with loupe := { s.loupe with smbAddr := addr.toNat } }.send (.smbus udid))

end Sys2Proof.Machine
end

