-- ==== Sys2Proof/Machine/Thermal.lean ====
section
/-! DEFINITION. Temperatures, throttle sources, the Iris and the coolant loop (18 R567–R582, 07 R222, 08 R236, 09 R283). Temperatures are in
units of 1/16 °C. -/

namespace Sys2Proof.Machine

/-! ## Throttle levels (18 R573, R574) -/

/-- Tiles of which partition p holds a block, stacks of which it holds a channel. -/
def State.stacksOf (s : State) (p : Nat) : List Nat := (List.range 16).filter (fun i => (s.rec_ p).channels / 2 ^ (32 * i) % 2 ^ 32 != 0)

/-- The tile source of partition p: the largest of its tiles. -/
def State.tileSource (s : State) (p : Nat) : Nat := ((s.tilesOf p).map (SMap.get 0 s.thermal.tile)).foldl max 0

/-- PWR_THROTTLE of every partition that exists, from the sources (18 R574, R578). -/
def State.showThrottle (s : State) : State :=
  (List.range 64).foldl (fun s p =>
    if s.partIn p [.empty] then s.setReg (Reg.throttle p) 0 else
    let h := s.thermal
    let src := [h.cap, s.tileSource p, SMap.get 0 h.sensor p, h.coolant, h.peak]
    let l := src.foldl max 0
    let by_ := src.zipIdx.foldl (fun a x => if x.1 = l then setBits a (28 - x.2) 1 1 else a) (0 : Word)
    s.setReg (Reg.throttle p) (setBits by_ 29 3 l)) s

/-! ## Sensors (18 R567–R572) -/

/-- Warning set and clear, throttle set and clear, shut-down levels in °C: DRAM layers, logic, HBM. -/
def thresholds (kind : Nat) : Nat × Nat × Nat × Nat × Nat :=
  if kind = 0 then (90, 86, 98, 94, 108) else if kind = 1 then (100, 96, 108, 104, 118) else (88, 84, 95, 91, 105)

/-- The LEVEL after two samples in a row, from the LEVEL before. -/
def nextLevel (kind old : Nat) (prev now : Int) : Nat :=
  let t := thresholds kind
  let above (c : Nat) : Bool := decide (16 * (c : Int) ≤ prev) && decide (16 * (c : Int) ≤ now)
  let below (c : Nat) : Bool := decide (prev ≤ 16 * (c : Int)) && decide (now ≤ 16 * (c : Int))
  if old = 3 ∨ above t.2.2.2.2 then 3
  else if above t.2.2.1 then 2
  else if old = 2 ∧ !below t.2.2.2.1 then 2
  else if above t.1 then 1
  else if 1 ≤ old ∧ !below t.2.1 then 1
  else 0

/-- A sensor's register. -/
def sensorReg (kind unit idx : Nat) : Option Nat :=
  if kind = 0 ∧ unit < 8 then some (Reg.thermDram unit (idx / 4) (idx % 4))
  else if kind = 1 ∧ unit < 8 ∧ idx < 32 then some (Reg.thermLogic unit idx)
  else if kind = 2 ∧ idx = 0 then some (Reg.thermHbm unit)
  else none

/-- Every sensor that THROTTLE concerns partition p. -/
def State.sensorsOf (s : State) (p : Nat) : List Nat := (s.tilesOf p).flatMap tileSensors ++ (s.stacksOf p).map Reg.thermHbm
/-- Some sensor of the package is at its throttle level or above. -/
def State.anyHot (s : State) : Bool := s.thermal.last.any (fun x => decide (2 ≤ bits (s.reg x.1) 29 2))
/-- Some DRAM-layer or HBM sensor is at warning or above (18 R582). -/
def State.anyWarm (s : State) : Bool :=
  s.thermal.last.any (fun x => (decide (x.1 < 0x0310000) || decide (0x0320000 ≤ x.1)) && decide (1 ≤ bits (s.reg x.1) 29 2))

/-- The THERMAL condition has ended when no sensor is at throttle and the coolant is good (17 R545). -/
def State.coolDown (s : State) : State := if s.anyHot ∨ s.thermal.coolBad then s else s.deviceEventEnds 2

/-- A shut-down threshold is crossed (18 R570). -/
def State.trip (s : State) (kind unit : Nat) (temp : BitVec 16) : State :=
  if s.power.thermtripLow then s else
  let w := setBits (setBits (setBits (setBits 0 31 1 1) 28 3 (kind + 1)) 24 4 unit) 0 16 temp.toNat
  ({ s with power := { s.power with thermtripLow := true, reqCycled := false } }.setReg Reg.thermShutdown w).enterShutdown

/-- The refresh band that follows band b at temperature t (07 R222). -/
def nextBand (b : Nat) (t : Int) : Nat :=
  let up := bandAt t
  if b ≤ up then up
  else max up (if t < 16 * 83 then 0 else if t < 16 * 93 then min b 1 else if t < 16 * 103 then min b 2 else b)
/-- The HBM refresh mode that follows mode m (08 R236). -/
def nextMode (m : Nat) (t : Int) : Nat :=
  if 16 * 95 < t then 2 else if m = 2 ∧ 16 * 93 < t then 2 else if 16 * 85 < t then 1 else if 1 ≤ m ∧ 16 * 83 < t then 1 else 0

/-- What a sample of a tile's DRAM layers does to the refresh bands. -/
def State.rebands (s : State) (t : Nat) : State :=
  (List.range 64).foldl (fun s p =>
    if s.partIn p [.empty] ∨ !(s.tilesOf p).contains t then s else
    s.setPart p { s.part p with band := nextBand (s.part p).band (s.hottest ((s.tilesOf p).flatMap dramSensors)) }) s

/-- The LEVEL that a sample gives a sensor: from its last one, and from the sample before (18 R568). -/
def State.sampleLevel (s : State) (kind o : Nat) (now : Int) : Nat :=
  let old := bits (s.reg o) 29 2
  let prev : Int := match SMap.find s.thermal.last o with
    | some v => (v : Int) - 2 ^ 15
    | none => if 1 ≤ old then now else -(2 ^ 15)
  nextLevel kind old prev now

/-- The sensor's register after a sample, and the sample kept for the next one. While it is calibrated its TEMP stays (18 R571). -/
def State.noteSample (s : State) (o l : Nat) (temp : BitVec 16) : State :=
  let w := setBits (setBits (s.reg o) 31 1 1) 29 2 l
  let s := s.setReg o (if bits w 28 1 = 1 then w else setBits w 0 16 temp.toNat)
  { s with thermal := { s.thermal with last := SMap.put s.thermal.last o (temp.toInt + 2 ^ 15).toNat } }

/-- What a sample of a stack sets: the refresh of its channels (08 R283). -/
def State.stackMode (s : State) (unit : Nat) (now : Int) : State :=
  let s := { s with thermal := { s.thermal with
    hbmMode := SMap.set 0 s.thermal.hbmMode unit (nextMode (SMap.get 0 s.thermal.hbmMode unit) now) } }
  (List.range 32).foldl (fun (s : State) c => s.showRefresh (32 * unit + c)) s

/-- The partitions that hold a tile, or a channel of a stack. -/
def State.partsOn (s : State) (stack : Bool) (unit : Nat) : List Nat :=
  (List.range 64).filter (fun p => !s.partIn p [.empty] &&
    (if stack then (s.stacksOf p).contains unit else (s.tilesOf p).contains unit))

/-- What a sample at or above LEVEL 2 limits, and what one below it again releases (18 R569). -/
def State.sampleLimit (s : State) (stack : Bool) (unit old l : Nat) : State :=
  if 2 ≤ l ∧ s.dev ≠ .cold ∧ s.dev ≠ .shutdown then
    let ps := s.partsOn stack unit
    let s := { s with thermal := { s.thermal with sensor := ps.foldl (fun m p => SMap.put m p 7) s.thermal.sensor } }
    (if old < 2 then s.deviceEvent 2 true else s).showThrottle
  else if 2 ≤ old then s.coolDown
  else s

/-- THERMAL_SAMPLE (18 R568): a sensor of a kind (0 DRAM layer, 1 logic, 2 HBM) of a tile or stack is sampled. While it is calibrated its TEMP
stays and `temp` is what the thresholds act on (18 R571). -/
def execThermalSample (kind : Fin 3) (unit : Fin 16) (idx : Fin 40) (temp : BitVec 16) (s : State) : Host.Outcome State Fault Refusal :=
  match sensorReg kind.val unit.val idx.val with
  | none => .next s
  | some o =>
    if !s.power.aonUp then .next s else
    let old := bits (s.reg o) 29 2
    let l := s.sampleLevel kind.val o temp.toInt
    let s := s.noteSample o l temp
    let s : State := if kind.val = 0 then s.rebands unit.val else s
    let s : State := if kind.val = 2 then s.stackMode unit.val temp.toInt else s
    let s : State := if 1 ≤ l ∧ kind.val ≠ 1 ∧ s.dev ≠ .cold then s.setDuty s.power.dutyMax else s
    let s := s.sampleLimit (kind.val = 2) unit.val old l
    .next (if l = 3 ∧ old ≠ 3 then s.trip kind.val unit.val temp else s.tripCheck)

/-! ## Power samples (18 R574, R575) -/

/-- POWER_SAMPLE: the tiles' powers and that of rails 10–15, in W, at one 100 µs sample. -/
def execPowerSample (tiles : List Nat) (rest : Nat) (s : State) : Host.Outcome State Fault Refusal :=
  if s.dev = .cold then .next s else
  let h := s.thermal
  let pkg := ((List.range 8).map (fun t => tiles.getD t 0)).sum + rest
  let acc := (List.range 8).foldl (fun m t => SMap.set 0 m t (SMap.get 0 m t + tiles.getD t 0)) h.acc
  let acc := SMap.set 0 acc 8 (SMap.get 0 acc 8 + rest)
  let calm := if pkg < 4000 then h.peakCalm + 1 else 0
  let s := { s with thermal := { h with acc := acc, count := h.count + 1, peakCalm := calm, peak := if 4400 < pkg then 7 else h.peak } }
  let s := s.setField Reg.pwrPackage 0 16 (min pkg 0xFFFF)
  .next (if 4400 < pkg then s.showThrottle else s)

/-! ## The Iris (18 R574, R576, R577) -/

def stepUp (v : Nat) : Nat := min (v + 1) 7
/-- +1 above a limit, −1 below 95 % of it. -/
def follow (v : Nat) (power limit : Int) : Nat :=
  if limit < power then stepUp v else if 100 * power < 95 * limit then v - 1 else v

def nat10 (i : Int) (top : Nat) : Nat := min i.toNat top

/-- The inlet is faulted. -/
def State.inletBad (s : State) : Bool := bits (s.reg Reg.thermCoolant) 0 16 == 0x7FFF
def State.inlet (s : State) : Int := sext 16 (s.reg Reg.thermCoolant).toNat

/-- A tile's filters, resistance (1/4096 K/W) and limit. -/
def State.irisTile (s : State) (t : Nat) : State :=
  let h := s.thermal
  let mean := Config.quot (SMap.get 0 h.acc t : Nat) h.count
  let rise := s.hottest ((List.range 40).map (fun i => Reg.thermDram t (i / 4) (i % 4))) - s.inlet
  let fp := Config.filter (SMap.get 0 h.filtPower t) mean
  let ft := Config.filter (SMap.get 0 h.filtTemp t) rise
  let old := SMap.get 0 h.rs t
  let rs := if s.inletBad ∨ fp < 20 then old else Config.quot (ft * 256) fp
  let s := { s with thermal := { h with
    filtPower := SMap.set 0 h.filtPower t fp, filtTemp := if s.inletBad then h.filtTemp else SMap.set 0 h.filtTemp t ft, rs := SMap.set 0 h.rs t rs } }
  let target : Int := 16 * bits (s.reg Reg.irisCtrl) 24 8
  let w := s.reg (Reg.pwrTile t)
  let limit := if s.inletBad then bits w 0 10 else if rs ≤ 0 then 1023 else nat10 (Config.quot ((target - s.inlet) * 256) rs) 1023
  s.setReg (Reg.pwrTile t) (setBits (setBits (setBits w 20 12 (nat10 rs 4095)) 10 10 (nat10 fp 1023)) 0 10 limit)

/-- The sources that the hardware lowers, and those that the Iris steps. -/
def State.irisSources (s : State) (pkg : Int) (cap : Nat) : State :=
  let h := s.thermal
  let n := h.count
  let hw := { h with
    sensor := h.sensor.map (fun x => (x.1, if (s.sensorsOf x.1).any (fun o => decide (2 ≤ bits (s.reg o) 29 2)) then 7 else x.2 - 1)),
    peak := if 100 ≤ h.peakCalm then h.peak - 1 else h.peak }
  let t := if s.loupe.handover then hw else { hw with
    cap := if n = 0 then h.cap else follow h.cap pkg cap,
    tile := (List.range 8).foldl (fun m t =>
      if n = 0 then m else
      SMap.set 0 m t (follow (SMap.get 0 m t) (Config.quot (SMap.get 0 h.acc t : Nat) n) (bits (s.reg (Reg.pwrTile t)) 0 10))) h.tile,
    coolant := if h.coolBad then 7 else h.coolant - 1 }
  { s with thermal := t }

/-- UNMET: every running partition has been at level 7 for 100 ms and the cap is still exceeded. -/
def State.irisUnmet (s : State) (pkg : Int) (cap : Nat) : State :=
  let full := decide ((cap : Int) < pkg) && (List.range 64).all (fun p => !s.partIn p [.running] || s.throttleLevel p == 7)
  let n := if full then s.thermal.full + 1 else 0
  let s := { s with thermal := { s.thermal with full := n } }
  if 10 ≤ n then s.setField Reg.pwrCapThermal 31 1 1 else s

/-- IRIS_EVALUATION: every 10 ms. -/
def execIrisEvaluation (s : State) : Host.Outcome State Fault Refusal :=
  if s.dev = .cold then .next s else
  let h := s.thermal
  let rest := Config.quot (SMap.get 0 h.acc 8 : Nat) h.count
  let pkg := Config.quot ((List.range 9).map (fun t => SMap.get 0 h.acc t)).sum h.count
  let s := if h.count = 0 then s else s.setField Reg.pwrPackage 16 16 (nat10 pkg 0xFFFF)
  let s := if s.loupe.handover ∨ h.count = 0 then s else
    let s := (List.range 8).foldl (fun s t => s.irisTile t) s
    let cap := nat10 ((((List.range 8).map (fun t => bits (s.reg (Reg.pwrTile t)) 0 10)).sum : Int) + rest) 0xFFFF
    s.setField Reg.pwrCapThermal 0 16 cap
  let cap := min (bits (s.reg Reg.pwrCap) 16 16) (bits (s.reg Reg.pwrCapThermal) 0 16)
  let s := s.setField Reg.pwrCap 0 16 cap
  let s := (s.irisSources pkg cap).showThrottle
  let s := if h.count = 0 then s else s.irisUnmet pkg cap
  let s := { s with thermal := { s.thermal with acc := [], count := 0 } }
  .next { s with loupe := { s.loupe with inflight := s.loupe.inflight.map (fun (c : InFlight) =>
    if c.opcode = Op.powerCap ∧ c.begun ∧ c.result.isNone then { c with result := some (okWith (leBytes 2 cap)) } else c) } }

/-! ## The coolant loop (18 R580–R582, 21 R635) -/

/-- A thermistor's field: 0x7FFF for a reading below −20 °C or above 120 °C. -/
def coolField (t : Int) : Nat := if t < -320 ∨ 1920 < t then 0x7FFF else (BitVec.ofInt 16 t).toNat

/-- The flow that a second's pulses mean, by the board record's factor; 0xFFFF without one. -/
def State.flowOf (s : State) (ps : List Nat) : Nat :=
  if s.power.board.isSome then nat10 (Config.quot ((ps.length : Int) * 60000) s.power.flowK) 0xFFFE else 0xFFFF

/-- The pulses of the last second. -/
def State.flowPulses (s : State) : List Nat := s.thermal.pulses.filter (fun t => decide (s.timebase < t + 1000000000))

/-- The coolant registers after a reading, and the pulses that still count. -/
def State.noteCoolant (s : State) (tin tout : Int) : State :=
  let ps := s.flowPulses
  let s := s.setReg Reg.thermCoolant (setBits (setBits 0 0 16 (coolField tin)) 16 16 (coolField tout))
  let s := s.setReg Reg.thermFlow (setBits (setBits 0 31 1 (b2n !ps.isEmpty)) 0 16 (s.flowOf ps))
  { s with thermal := { s.thermal with pulses := ps } }

/-- Whether a reading is beyond a limit, and whether it lies within both again (18 R581). -/
def State.coolantHot (s : State) (tin : Int) : Bool :=
  s.inletBad || decide (640 < tin) || (s.power.board.isSome && decide (s.flowOf s.flowPulses < 2000))
def State.coolantGood (s : State) (tin : Int) : Bool :=
  !s.inletBad && decide (tin ≤ 624) && (!s.power.board.isSome || decide (2200 ≤ s.flowOf s.flowPulses))

/-- COOLANT_READ: the converted readings of the inlet and outlet in 1/16 °C. -/
def execCoolantRead (tin tout : Int) (s : State) : Host.Outcome State Fault Refusal :=
  if s.dev = .cold then .next s else
  let s := s.noteCoolant tin tout
  if !s.thermal.coolBad ∧ s.coolantHot tin then
    let s := { s with thermal := { s.thermal with coolBad := true, coolant := if s.loupe.handover then s.thermal.coolant else 7 } }
    .next (s.showThrottle.deviceEvent 2 true)
  else if s.thermal.coolBad ∧ s.coolantGood tin then .next ({ s with thermal := { s.thermal with coolBad := false } }.coolDown)
  else .next s

/-- FLOW_PULSE: a rising edge on COOL_FLOW. -/
def execFlowPulse (s : State) : Host.Outcome State Fault Refusal :=
  if !s.power.aonUp then .next s else
  .next { s with thermal := { s.thermal with pulses := s.thermal.pulses.filter (fun t => decide (s.timebase < t + 1000000000)) ++ [s.timebase] } }

/-- COOLANT_PWM_UPDATE: every 100 ms. -/
def execCoolantPwmUpdate (s : State) : Host.Outcome State Fault Refusal :=
  if !s.power.aonUp then .next s
  else if s.dev = .cold ∨ s.dev = .shutdown ∨ s.anyWarm ∨ bits (s.reg Reg.thermFlow) 0 16 = 0xFFFF then .next (s.setDuty s.power.dutyMax)
  else
    let flow := bits (s.reg Reg.thermFlow) 0 16
    let set := 100 * bits (s.reg Reg.irisCtrl) 16 8
    let d := bits (s.reg Reg.irisCtrl) 8 8
    let up := min 5 ((set - flow) / 100)
    let dn := min 5 ((flow - set) / 100)
    .next (s.setDuty (max s.power.dutyMin (min s.power.dutyMax (d + up - dn))))

end Sys2Proof.Machine
end

