-- ==== Sys2Proof/Machine/BringUp.lean ====
section
/-! DEFINITION. Start-up and bring-up: what is read from flash, the stages of 19 R584, spare mapping, release (19 R584–R596, 16 R489, R491,
21 R628). Outcomes of tests are operands. -/

namespace Sys2Proof.Machine

/-! ## Records read from flash -/

/-- The licence in force: of those that pass, the one with the highest SEQ (15 R485). -/
def State.readLicence (s : State) : State :=
  let all := [0, 1].flatMap (fun c => (List.range 256).map (fun i => s.flashRec c (licenceOff i)))
  let best := (all.filter s.licenceOk).foldl (fun (a : Nat × Nat) b => if a.1 < hField b 16 4 then (hField b 16 4, hField b 20 1) else a) (0, 0)
  { s with loupe := { s.loupe with licSeq := best.1, features := best.2 } }.showLicence best.2

def laneOff : Nat := 0x1000
/-- The default lane map (16 R489). -/
def laneDefault : Nat × List Nat := (1, (List.range 20).map (fun q => if q < 4 then 1 else 2))

/-- The lane map in force: SOURCE, HOSTMODE, roles, trimmed to four FABRIC quads without LIC_FABRIC (16 R489). -/
def State.laneChoice (s : State) : Nat × Nat × List Nat × Bool :=
  let parse (b : Bytes) : Nat × List Nat := (hField b 5 1, (List.range 20).map (fun q => hField b (8 + q) 1))
  let a := s.flashRec 0 laneOff
  let b := s.flashRec 1 laneOff
  let src := if laneMapOk a then 0 else if laneMapOk b then 1 else 2
  let m := if src = 0 then parse a else if src = 1 then parse b else laneDefault
  let fab := (List.range 20).filter (fun q => m.2.getD q 0 % 4 == 2)
  let cut := if bitOf s.loupe.features 1 then [] else fab.drop 4
  (src, m.1, (List.range 20).map (fun q => let r := m.2.getD q 0; if cut.contains q then r / 4 * 4 else r), !cut.isEmpty)

/-- The lane map is read: LANE_STATUS, the roles in force and the staged map that starts as they are (16 R491). -/
def State.readLaneMap (s : State) : State :=
  let m := s.laneChoice
  let s := s.setReg Reg.laneStatus (setBits (setBits (setBits 0 30 2 m.1) 29 1 (b2n m.2.2.2)) 27 2 m.2.1)
  let s := s.setReg Reg.laneMapCtrl (setBits 0 8 2 m.2.1)
  m.2.2.1.zipIdx.foldl (fun s x =>
    let s := (s.setReg (Reg.laneQuad x.2) (BitVec.ofNat 32 x.1)).setReg (Reg.laneStage x.2) (BitVec.ofNat 32 x.1)
    s.setPort x.2 { s.port x.2 with role := BitVec.ofNat 8 x.1 }) s

/-- The stored amendments, when each is signed and follows the one before it (14 R448). -/
def State.readAmends (s : State) : Option (List (Nat × Bytes)) :=
  let a := (s.amendsStored 0).1
  let l := if a.isEmpty then (s.amendsStored 1).1 else a
  if l.zipIdx.all (fun x => amendOk x.1 && hField x.1 8 4 == x.2 + 1) then some (l.map (fun b => (hField b 8 4, sub b 24 48))) else none

/-- ALWAYS_ON_RESET_RELEASE (21 R628): 2 ms after VDD_AON and the reference hold, both Loupes start from mask ROM; the lane map, and the board
record that the sequencer needs, are read (16 R489, 18 R564). -/
def execAlwaysOnResetRelease (s : State) : Host.Outcome State Fault Refusal :=
  if s.power.aonUp then .next s else
  let s := { s with power := { s.power with aonUp := true, refclk := true }, loupe := { s.loupe with active := s.strapActive } }
  .next (s.readLicence.readBoard.readLaneMap.showRails)

/-! ## Steps 1–5 -/

/-- Bring-up is at a step. -/
def State.atStep (s : State) (n : Nat) : Bool := s.dev == .mgmtReady && s.loupe.bringStep == n && s.power.refclk
def State.toStep (s : State) (n : Nat) : State := { s with loupe := { s.loupe with bringStep := n } }

/-- MGMT_READY_ENTRY: step 1 ends (19 R583, R584). `keyOk` says that the identity key matches its certificate, `l0` and `l1` that the
functions' PCIe links train; none does with the active Loupe on the die wired to Q10–Q19 (01 R24). -/
def execMgmtReadyEntry (keyOk l0 l1 : Bool) (s : State) : Host.Outcome State Fault Refusal :=
  if s.dev ≠ .cold ∨ !s.power.aonUp ∨ !s.allGood ∨ !s.power.refclk ∨ s.loupe.windowOpen ∨ (s.hostMode ≠ 0 ∧ !SMap.get false s.loupe.perst 0) then .next s else
  let s := s.readLicence.readBoard.readLaneMap
  -- the device memory key is generated anew (08 R232)
  let mk := s.free 256
  let s := { mk.2 with loupe := { mk.2.loupe with memKey := mk.1 } }
  let up (f : Nat) (l : Bool) : Bool := l && s.linkMay && s.funcExists f && SMap.get false s.loupe.perst f
  let am : Option (List (Nat × Bytes)) := s.readAmends
  let s := { s with loupe := { s.loupe with
    linkUp := SMap.put (SMap.put s.loupe.linkUp 0 (up 0 l0)) 1 (up 1 l1), amends := am.getD [] } }
  if bits (s.reg Reg.dieMap) 30 1 = 0 then .next (s.enterHold 1).stageEnd
  else if am.isNone ∨ !keyOk then .next (s.enterHold 4).stageEnd
  else .next ({ s with dev := .mgmtReady }.toStep 2).stageEnd

/-- TILE_REPAIR's fields for a fused column: its slices stand where they are (01 R28). -/
def State.fusedRepair (s : State) (half q : Nat) : State :=
  let o := Reg.tileRepair (half / 2)
  (s.setField o (15 + 8 * (half % 2)) 1 1).setField o (8 + 8 * (half % 2)) 7 q

/-- Repairs of columns and blocks from the record, those that an earlier one makes impossible left out (19 R587). -/
def State.applyRepairs (s : State) : State :=
  let s := s.loupe.fusedCols.foldl (fun s x => s.fusedRepair x.1 x.2) s
  match s.repairs with
  | none => s
  | some r => r.2.foldl (fun s e =>
      let a := hField e 1 1
      let b := hField e 2 1
      if hField e 0 1 = 3 then (if a < 8 ∧ b < 66 ∧ !halfUsed (s.reg (Reg.tileRepair a)) (b / 33) then s.remap a b else s)
      else if hField e 0 1 = 4 then s.retireBlock a
      else s) s

/-- CLOCKS_AND_MESH_STAGE (19 R584 step 2): every block is raised, and recorded repairs are applied; `pcieRef` and `loupeOk` are the checks of
the PCIe reference and of Loupe memories and service-network hops. -/
def execClocksAndMeshStage (pcieRef loupeOk : Bool) (s : State) : Host.Outcome State Fault Refusal :=
  if !s.atStep 2 then .next s else
  let s := s.setField Reg.clkStatus 30 1 (b2n pcieRef)
  if !loupeOk then .next (s.enterHold 4).stageEnd else
  let s := s.applyRepairs
  let s := (List.range 256).foldl (fun s b =>
    if (s.block b).state = .retired then s else
    (s.setBlock b { s.block b with state := .active, target := .active, queued := false, ramping := false }).countField (Reg.blockAperture (b / 32)) 0 16 1) s
  .next (s.toStep 3).stageEnd

def trainOff : Nat := 0x100000
/-- A training record is valid (19 R586). -/
def State.trainOk (s : State) (b : Bytes) : Bool :=
  decide (128 ≤ b.length) && hField b 0 4 == 0x4E495254 && hField b 4 1 == 1 && hField b 5 1 == 0xA1 && hField b 8 8 == s.loupe.serial &&
  hField b 16 4 == b.length && b.length % 64 == 0 && beVal (sub b 32 48) == sha (b.drop 128)
def State.training (s : State) : Option Bytes := ([0, 1].map (fun c => s.flashRec c trainOff)).find? s.trainOk

/-- A channel is failed and never released (19 R589, R591). -/
def State.failChan (s : State) (c : Nat) : State := s.setField (Reg.chanFailed (c / 32)) (c % 32) 1 1

/-- MEMORY_TRAINING (step 3): `retrained` says that some unit was trained in full, `ports` which slice ports (by physical place) and `chans`
which channels cannot be trained, `spares` what each channel's stack reports as unused repair rows, 16 where it is not listed (08 R231). -/
def execMemoryTraining (retrained : Bool) (ports : List (Fin 16896)) (chans : List ChanId) (spares : List (ChanId × Fin 17)) (s : State) :
    Host.Outcome State Fault Refusal :=
  if !s.atStep 3 then .next s else
  let saved := s.training.isSome
  let s := (s.setField Reg.bringup 23 1 (b2n saved)).setField Reg.bringup 22 1 (b2n (retrained || !saved))
  let s := { s with loupe := { s.loupe with failedCores := ports.map Fin.val } }
  let s := (chans.map Fin.val).foldl State.failChan s
  let s := (List.range 512).foldl (fun s c =>
    s.setField (Reg.hbmStatus c) 0 5 (((spares.find? (fun x => x.1.val == c)).map (fun x => x.2.val)).getD 16)) s
  .next (s.toStep 4).stageEnd

/-- CHECKER_SELF_TEST (step 4, 17 R535, R536): a failing checker withholds its block, or, outside the blocks, ends in HOLD. -/
def execCheckerSelfTest (blocks : List BlockId) (outside : Bool) (s : State) : Host.Outcome State Fault Refusal :=
  if !s.atStep 4 then .next s
  else if outside then .next (s.enterHold 4).stageEnd
  else .next ({ s with loupe := { s.loupe with failedUnits := blocks.map Fin.val } }.toStep 5).stageEnd

/-- BRING_UP_ZERO_FILL (step 5). -/
def execBringUpZeroFill (s : State) : Host.Outcome State Fault Refusal :=
  if !s.atStep 5 then .next s else
  .next ({ s with mem := Mem.empty, cache := ⟨[], Mem.empty⟩, cloves := s.cloves.map (fun (x : Nat × Clove) => (x.1, { x.2 with localMem := Mem.empty })) }.toStep 6).stageEnd

/-! ## Spare mapping (19 R593) -/

/-- A physical place: tile × 2112 + row × 66 + column. -/
def physTile (x : Nat) : Nat := x / 2112
def physRow (x : Nat) : Nat := x % 2112 / 66
def physCol (x : Nat) : Nat := x % 66
/-- The core that stands on a physical place, if one does (01 R28). -/
def State.coreOn (s : State) (x : Nat) : Option Nat :=
  let t := physTile x
  let q := physCol x
  let h := q / 33
  let w := s.reg (Reg.tileRepair t)
  let i := q - 33 * h
  let used := halfUsed w h
  let r := bits w (8 + 8 * h) 7
  if used ∧ q = r then none
  else if used ∧ r < q then some (coreInTile t (physRow x) (32 * h + i - 1))
  else if i = 32 then none
  else some (coreInTile t (physRow x) (32 * h + i))

def State.isReleased (s : State) (b : Nat) : Bool := bits (s.reg (Reg.released (b / 32))) (b % 32) 1 == 1

/-- One failed place: its column is retired, or the block that holds its core. -/
def State.mapSpare (s : State) (x : Nat) : State :=
  let t := physTile x
  let q := physCol x
  let h := q / 33
  let w := s.reg (Reg.tileRepair t)
  if halfUsed w h ∧ bits w (8 + 8 * h) 7 = q then s
  else if !halfUsed w h ∧ !(movedBlocks t q).any s.isReleased then
    let s := (s.remap t q).countField Reg.bringup 0 8 1
    { s with loupe := { s.loupe with bringCols := s.loupe.bringCols ++ [2 * t + h] } }.recordRepair 3 (leBytes 1 t ++ leBytes 1 q ++ leBytes 4 0)
  else match s.coreOn x with
    | none => s
    | some n =>
      let b := blockOf n
      if (s.block b).state = .retired then s else
      ((s.retireBlock b).countField Reg.bringup 8 8 1).recordRepair 4 (leBytes 1 b ++ leBytes 5 0)
def State.mapSpares (s : State) (xs : List Nat) : State := xs.mergeSort.foldl State.mapSpare s

/-! ## Waves and release (19 R590, R591, R594) -/

/-- The wave of a block: its tile's blocks in order, outer row first, two a wave. -/
def waveOf (b : Nat) : Nat :=
  let by_ := b % 32 / 8
  (if b / 32 < 4 then by_ else 3 - by_) * 4 + b % 8 / 2

/-- The last wave that a block waits for: a column that this bring-up has moved stands on the slice of the next one, the last on the spare's. -/
def State.waitWave (s : State) (b : Nat) : Nat :=
  let t := b / 32
  (List.range 8).foldl (fun a i =>
    let j := b % 8 * 8 + i
    let h := j / 32
    let q := bits (s.reg (Reg.tileRepair t)) (8 + 8 * h) 7
    let moved := s.loupe.bringCols.contains (2 * t + h) && (movedCols q).contains j
    max a (if moved && decide (j % 32 < 31) then waveOf (32 * t + b % 32 / 8 * 8 + (j + 1) / 8) else waveOf b)) (waveOf b)

/-- A block may be released. -/
def State.releasable (s : State) (b : Nat) : Bool :=
  (s.block b).state != .retired && !s.isReleased b && decide (s.waitWave b < s.loupe.wavesDone) && !s.loupe.failedUnits.contains b &&
  s.loupe.failedCores.all (fun x => (s.coreOn x).map blockOf != some b)

/-- MEMORY_TEST_WAVE: the test of the next wave ends. `rows` are slice rows spared, `marks` layers marked erased, `bad` the places whose slice
cannot be contained; for wave 0 also `hbmRows` repaired, `chans` that fail, and `hub`, whether a common-cache bank fails. -/
def execMemoryTestWave (rows : List (CoreId × Fin 1024)) (marks : List (CoreId × Fin 10)) (bad : List (Fin 16896))
    (hbmRows : List (ChanId × Nat)) (chans : List ChanId) (hub : Bool) (s : State) : Host.Outcome State Fault Refusal :=
  let l := s.loupe
  let w := l.wavesDone
  let due := (s.dev == .mgmtReady || s.dev == .staging) && decide (w < 16) && (if w = 0 then l.bringStep == 6 else decide (7 ≤ l.bringStep) && decide (l.bringStep ≤ 9))
  if !due then .next s
  else if w = 0 ∧ (hub ∨ chans.any (fun c => c.val == 31)) then .next (s.enterHold 4).stageEnd
  else
    let mine (n : Nat) : Bool := waveOf (blockOf n) == w
    let s := (rows.filter (fun x => mine x.1.val)).foldl (fun s x =>
      let n := x.1.val
      let k := s.slice n
      if k.spared.contains x.2.val then s else
      (s.setSlice n { k with spared := k.spared ++ [x.2.val] }).setField (Reg.sliceStatus n) 0 5 (15 - k.spared.length)) s
    let s := (marks.filter (fun x => mine x.1.val)).foldl (fun s x =>
      (s.setField (Reg.sliceLayer x.1.val) 27 4 x.2.val).setField (Reg.sliceLayer x.1.val) 31 1 1) s
    let s := if w ≠ 0 then s else
      let s := hbmRows.foldl (fun s x =>
        let c := x.1.val
        let left := bits (s.reg (Reg.hbmStatus c)) 0 5
        (s.setChan c { s.chan c with spareRows := (s.chan c).spareRows ++ [x.2] }).setField (Reg.hbmStatus c) 0 5 (left - 1)) s
      let s := (chans.map Fin.val).foldl State.failChan s
      -- a channel is released when its test passes
      (List.range 512).foldl (fun s c => if s.chanFailed c then s else s.setField (Reg.chanReleased (c / 32)) (c % 32) 1 1) s
    let bad := bad.map Fin.val
    let s : State := { s with loupe := { s.loupe with wavesDone := w + 1, wave := min (w + 1) 15, failedCores := s.loupe.failedCores ++ bad } }
    -- before step 8 the failures wait for it
    let s : State := if s.loupe.bringStep = 9 then s.mapSpares bad else s
    .next (if w = 0 then s.toStep 7 else s).stageEnd

/-- LINKS_STAGE (step 7): recorded lanes are applied, lanes that fail training repaired, and fabric quads enter TRAINING (19 R598, 16 R507). -/
def execLinksStage (bad : List (Fin 14 × Fin 16 × Fin 2 × Fin 19)) (s : State) : Host.Outcome State Fault Refusal :=
  if !s.atStep 7 then .next s else
  let use (s : State) (e m d lane : Nat) : State :=
    let i := xingId e m
    s.setXing i { s.xing i with laneMap := SMap.put (s.xing i).laneMap d lane }
  let s := match s.repairs with
    | none => s
    | some r => r.2.foldl (fun s x =>
        let e := hField x 1 1
        let m := hField x 2 1
        let d := hField x 3 1
        let lane := hField x 4 1
        if hField x 0 1 = 2 ∧ e < 14 ∧ m < 16 ∧ d < 2 ∧ lane < 18 ∧ (SMap.find (s.xing (xingId e m)).laneMap d).isNone then use s e m d lane else s) s
  let r := bad.foldl (fun (a : Bool × State) x =>
    let e := x.1.val
    let m := x.2.1.val
    let d := x.2.2.1.val
    let lane := x.2.2.2.val
    match SMap.find (a.2.xing (xingId e m)).laneMap d with
    | some old => (a.1 && old == lane, a.2)
    | none =>
      if lane = 18 then a else
      let s := use a.2 e m d lane
      (a.1, { s with loupe := { s.loupe with laneFixed := true } }.recordRepair 2 (leBytes 1 e ++ leBytes 1 m ++ leBytes 1 d ++ leBytes 1 lane ++ leBytes 2 0)))
    (true, s)
  let s := r.2
  if !r.1 then .next (s.enterHold 4).stageEnd else
  let s := (List.range 20).foldl (fun s q => if (s.port q).fabric then s.portTo q .training else s) s
  .next (s.toStep 8).stageEnd

/-- BLOCK_SELF_TEST (step 8): `bad` are the places on which a part of the test fails; failed cores are mapped to spares. -/
def execBlockSelfTest (bad : List (Fin 16896)) (s : State) : Host.Outcome State Fault Refusal :=
  if !s.atStep 8 then .next s else
  let s := { s with loupe := { s.loupe with failedCores := s.loupe.failedCores ++ bad.map Fin.val } }
  let s := (s.mapSpares s.loupe.failedCores).toStep 9
  if (List.range 256).any s.releasable then .next s.stageEnd else .next (s.enterHold 4).stageEnd

/-- BLOCK_RELEASE (19 R594): the block is OFF and belongs to no partition; the first release enters STAGING. -/
def execBlockRelease (b : BlockId) (s : State) : Host.Outcome State Fault Refusal :=
  if (s.dev ≠ .mgmtReady ∧ s.dev ≠ .staging) ∨ s.loupe.bringStep ≠ 9 ∨ !s.releasable b.val then .next s else
  let s := s.setField (Reg.released (b.val / 32)) (b.val % 32) 1 1
  let s := s.setBlock b.val Block.reset
  .next { s with dev := .staging }

/-- The training record that step 10 writes: its settings are the ROM's own. -/
def State.trainRecord (s : State) : Bytes × State :=
  let r := s.free 544
  let body := leBytes 64 (r.1.toNat / 2 ^ 32)
  let gen := match s.training with | some b => (hField b 24 4 + 1) % 2 ^ 32 | none => 1
  (leBytes 4 0x4E495254 ++ leBytes 1 1 ++ leBytes 1 0xA1 ++ leBytes 2 0 ++ leBytes 8 s.loupe.serial ++ leBytes 4 192 ++ leBytes 4 (r.1.toNat % 2 ^ 32) ++
    leBytes 4 gen ++ leBytes 4 0 ++ beBytes 48 (sha body) ++ zeros 48 ++ body, r.2)

/-- BRING_UP_COMPLETE (step 10): every wave has been tested and every block that may be released has been. -/
def execBringUpComplete (s : State) : Host.Outcome State Fault Refusal :=
  if s.dev ≠ .staging ∨ s.loupe.bringStep ≠ 9 ∨ s.loupe.wavesDone ≠ 16 ∨ (List.range 256).any s.releasable then .next s else
  let w := s.reg Reg.bringup
  let s := if bits w 23 1 = 0 ∨ bits w 22 1 = 1 ∨ s.loupe.laneFixed then
      let r := s.trainRecord
      (r.2.putBoth trainOff r.1 true true).setField Reg.bringup 21 1 1
    else s
  .next ({ s with dev := .ready }.toStep 10).stageEnd

end Sys2Proof.Machine
end

