-- ==== Sys2Proof/Machine/Complete.lean ====
section
/-! DEFINITION. The end of a command in flight (13 R407–R411, 14 R425, R428, R434–R437). -/

namespace Sys2Proof.Machine

/-- A run command's result, once its partition has left RUNNING and every unit has reached the cut (14 R434). -/
def State.endRunCmd (s : State) (p : Nat) (c : InFlight) : Option (Result × State) :=
  match (s.part p).run with
  | some r =>
    if c.aux = 1 ∧ r.ended.isSome ∧ s.settled p then some (s.runResult p r, s.setPart p { s.part p with run := none }) else none
  | none => none

/-- A STOP(STEP_BOUNDARY)'s result: its checkpoint, if it has one, is written when everything stands at the step mark (11 R344, 14 R435); a
partition that leaves RUNNING otherwise ends it with BUSY. -/
def State.endBoundary (s : State) (p : Nat) (c : InFlight) : Option (Result × State) :=
  match (s.part p).stop with
  | none => if s.partIn p [.running] then none else some (fail St.busy, s)
  | some r =>
    let away (st : Nat) : Option (Result × State) := some (fail st, s.setPart p { s.part p with stop := none })
    match r.ended with
    | none => if s.partIn p [.running] then none else away St.busy
    | some st =>
      if !s.settled p then none
      else if !s.partIn p [.stopped] then away St.busy
      else
        let w := s.writeSnap p (ef c.entry 32 8)
        let s := if r.wrote then w.2.writeCkpt p r else w.2
        some (⟨st, 0, s.stopPayload p r.wrote w.1⟩, s.setPart p { s.part p with stop := none })

/-- A STOP(IMMEDIATE)'s result, once every unit stands at the freeze. -/
def State.endImmediate (s : State) (p : Nat) (c : InFlight) : Option (Result × State) :=
  if c.aux = 1 ∧ s.settled p then some (okWith (s.stopPayload p false c.aux2), s) else none

/-- A port command's result by where the port has come (16 R513). -/
def State.endPort (s : State) (q : Nat) : Option (Result × State) :=
  match (s.port q).state with
  | .up => some (okWith [], s)
  | .absent | .quarantined | .disabled | .notFabric => some (fail St.linkDown, s)
  | .training | .auth | .retraining => none

/-- The result of a command that has begun and whose work has ended; what settles its result elsewhere has done so already. -/
def State.endWork (s : State) (c : InFlight) : Option (Result × State) :=
  let e := c.entry
  let p := (cmdPart c.via c.opcode e).getD 0
  if !c.begun then none
  else if c.opcode = Op.run ∨ c.opcode = Op.resume ∨ c.opcode = Op.replay then s.endRunCmd p c
  else if c.opcode = Op.stop then (if ef e 9 1 = 0 then s.endBoundary p c else s.endImmediate p c)
  else if c.opcode = Op.seq then
    if !s.drained c.aux then none
    else if seqForm 3 e then some (okWith [], s)
    else if seqForm 5 e then some (s.closeSeq (ef e 12 4))
    else none
  else if c.opcode = Op.scrub then (if scrubForm 1 e then s.endScrubSlice p else none)
  else if c.opcode = Op.spare then (if spareForm 0 e then s.endSpareRow e else none)
  else if c.opcode = Op.calibrate then some (okWith (leBytes 4 c.aux), s.markCal e 0)
  else if c.opcode = Op.port then s.endPort (ef e 8 1)
  else none

/-- COMMAND_COMPLETES (14 R425): the work of the k-th command in flight has ended: its holds go, its result is posted and its completion waits
to be written. A tenant's refusal waits for its own time (00 R13). -/
def execCommandCompletes (k : Nat) (s : State) : Host.Outcome State Fault Refusal :=
  match s.cmd k with
  | none => .next s
  | some c =>
    match c.result with
    | some r => if c.refused then .next s else .next (s.complete k c r)
    | none =>
      match s.endWork c with
      | some r => .next (r.2.complete k c r.1)
      | none => .next s

end Sys2Proof.Machine
end

