-- ==== Sys2Proof/Machine/Slots.lean ====
section
/-! DEFINITION. The slot operations (05 R143–R163, 03 R75–R89), one meaning each. -/

namespace Sys2Proof.Machine

/-- JMP (R143): Sets the next bundle to the target. -/
def execJmp (n : CoreId) (w : Word) (s : State) : Host.Outcome State Fault Refusal :=
  .next (s.loneSlot n 0 (withOp w 0x01))

/-- LSET (R143): Loads a loop counter from an immediate or S register. -/
def execLset (n : CoreId) (w : Word) (s : State) : Host.Outcome State Fault Refusal :=
  .next (s.loneSlot n 0 (withOp w 0x02))

/-- LEND (R143): Decrements a loop counter and branches while it exceeds 1. -/
def execLend (n : CoreId) (w : Word) (s : State) : Host.Outcome State Fault Refusal :=
  .next (s.loneSlot n 0 (withOp w 0x03))

/-- WAIT (R147): Takes n from a token register or leaves a wait pending. -/
def execWait (n : CoreId) (w : Word) (s : State) : Host.Outcome State Fault Refusal :=
  .next (s.loneSlot n 0 (withOp w 0x04))

/-- TADD (R148): Adds n to a token register. -/
def execTadd (n : CoreId) (w : Word) (s : State) : Host.Outcome State Fault Refusal :=
  .next (s.loneSlot n 0 (withOp w 0x05))

/-- SMOV (R143): Writes an immediate into an S register or its high half. -/
def execSmov (n : CoreId) (w : Word) (s : State) : Host.Outcome State Fault Refusal :=
  .next (s.loneSlot n 0 (withOp w 0x06))

/-- SALU (R143): Writes the result of a scalar ALU function of two S registers. -/
def execSalu (n : CoreId) (w : Word) (s : State) : Host.Outcome State Fault Refusal :=
  .next (s.loneSlot n 0 (withOp w 0x07))

/-- SADDI (R143): Adds a sign-extended immediate to an S register. -/
def execSaddi (n : CoreId) (w : Word) (s : State) : Host.Outcome State Fault Refusal :=
  .next (s.loneSlot n 0 (withOp w 0x08))

/-- AADD (R143): Adds an immediate or S register to an A register. -/
def execAadd (n : CoreId) (w : Word) (s : State) : Host.Outcome State Fault Refusal :=
  .next (s.loneSlot n 0 (withOp w 0x09))

/-- AMOV (R143): Moves a value between an A register and an S register. -/
def execAmov (n : CoreId) (w : Word) (s : State) : Host.Outcome State Fault Refusal :=
  .next (s.loneSlot n 0 (withOp w 0x0A))

/-- SETP (R143): Sets a predicate from a scalar comparison. -/
def execSetp (n : CoreId) (w : Word) (s : State) : Host.Outcome State Fault Refusal :=
  .next (s.loneSlot n 0 (withOp w 0x0B))

/-- PLOG (R143): Sets a predicate from a logic function of two predicates. -/
def execPlog (n : CoreId) (w : Word) (s : State) : Host.Outcome State Fault Refusal :=
  .next (s.loneSlot n 0 (withOp w 0x0C))

/-- SRD (R143): Reads a core number, step, partition, PLEAD or token into an S register. -/
def execSrd (n : CoreId) (w : Word) (s : State) : Host.Outcome State Fault Refusal :=
  .next (s.loneSlot n 0 (withOp w 0x0D))

/-- HALT (R151): Stops the core's sequencer after this bundle. -/
def execHalt (n : CoreId) (w : Word) (s : State) : Host.Outcome State Fault Refusal :=
  .next (s.loneSlot n 0 (withOp w 0x0E))

/-- LDS_LD (R153): Opens a port window moving slice beats into SRAM. -/
def execLdsLd (n : CoreId) (w : Word) (s : State) : Host.Outcome State Fault Refusal :=
  .next (s.loneSlot n 1 (withOp w 0x01))

/-- LDS_ST (R153): Opens a port window moving SRAM rows into the slice. -/
def execLdsSt (n : CoreId) (w : Word) (s : State) : Host.Outcome State Fault Refusal :=
  .next (s.loneSlot n 1 (withOp w 0x02))

/-- LDS_BFILL (R153): Opens a port window moving slice beats into bundle memory. -/
def execLdsBfill (n : CoreId) (w : Word) (s : State) : Host.Outcome State Fault Refusal :=
  .next (s.loneSlot n 1 (withOp w 0x03))

/-- SLD (R155): Loads a 32-bit SRAM word into an S register. -/
def execSld (n : CoreId) (w : Word) (s : State) : Host.Outcome State Fault Refusal :=
  .next (s.loneSlot n 2 (withOp w 0x01))

/-- SST (R208): Merges an S register into a 32-bit SRAM word. -/
def execSst (n : CoreId) (w : Word) (s : State) : Host.Outcome State Fault Refusal :=
  .next (s.loneSlot n 2 (withOp w 0x02))

/-- VLD (R155): Loads an SRAM row into eight lanes of a V register. -/
def execVld (n : CoreId) (w : Word) (s : State) : Host.Outcome State Fault Refusal :=
  .next (s.loneSlot n 2 (withOp w 0x03))

/-- VST (R155): Stores eight lanes of a V register to an SRAM row. -/
def execVst (n : CoreId) (w : Word) (s : State) : Host.Outcome State Fault Refusal :=
  .next (s.loneSlot n 2 (withOp w 0x04))

/-- TRD (R156): Reads a 16 × 16 tile transposed into V registers over 16 cycles. -/
def execTrd (n : CoreId) (w : Word) (s : State) : Host.Outcome State Fault Refusal :=
  .next (s.loneSlot n 2 (withOp w 0x05))

/-- BST (R154): Copies an SRAM row into a bundle memory entry. -/
def execBst (n : CoreId) (w : Word) (s : State) : Host.Outcome State Fault Refusal :=
  .next (s.loneSlot n 2 (withOp w 0x06))

/-- LST (R154): Copies an SRAM row into four blend memory words. -/
def execLst (n : CoreId) (w : Word) (s : State) : Host.Outcome State Fault Refusal :=
  .next (s.loneSlot n 2 (withOp w 0x07))

/-- OPE_MMA (R76): Starts a rank-1 or rank-2 update sequence of an accumulator tile over K steps. -/
def execOpeMma (n : CoreId) (w : Word) (s : State) : Host.Outcome State Fault Refusal :=
  .next (s.loneSlot n 3 (withOp w 0x01))

/-- OPE_LOAD (R79): Reads a tile from SRAM into an accumulator tile over 32 cycles. -/
def execOpeLoad (n : CoreId) (w : Word) (s : State) : Host.Outcome State Fault Refusal :=
  .next (s.loneSlot n 3 (withOp w 0x02))

/-- OPE_DRAIN (R80): Presents one tile or a pair to the epilogue input over eight cycles. -/
def execOpeDrain (n : CoreId) (w : Word) (s : State) : Host.Outcome State Fault Refusal :=
  .next (s.loneSlot n 3 (withOp w 0x03))

/-- MVP_RUN (R84): Starts a matrix-vector run of a weight panel against up to eight vectors. -/
def execMvpRun (n : CoreId) (w : Word) (s : State) : Host.Outcome State Fault Refusal :=
  .next (s.loneSlot n 4 (withOp w 0x01))

/-- MVP_DRAIN (R89): Snapshots result vectors and presents them to the epilogue input. -/
def execMvpDrain (n : CoreId) (w : Word) (s : State) : Host.Outcome State Fault Refusal :=
  .next (s.loneSlot n 4 (withOp w 0x02))

/-- NET_SEND (R162): Reads a 64-byte SRAM pair into the send queue. -/
def execNetSend (n : CoreId) (w : Word) (s : State) : Host.Outcome State Fault Refusal :=
  .next (s.loneSlot n 6 (withOp w 0x01))

/-- SENDV (R162): Places 16 lanes of a V register into the send queue. -/
def execSendv (n : CoreId) (w : Word) (s : State) : Host.Outcome State Fault Refusal :=
  .next (s.loneSlot n 6 (withOp w 0x02))

/-- NET_RECV (R162): Takes the head flit of the receive queue into SRAM. -/
def execNetRecv (n : CoreId) (w : Word) (s : State) : Host.Outcome State Fault Refusal :=
  .next (s.loneSlot n 6 (withOp w 0x03))

/-- RECVV (R162): Takes the head flit of the receive queue into 16 lanes of a V register. -/
def execRecvv (n : CoreId) (w : Word) (s : State) : Host.Outcome State Fault Refusal :=
  .next (s.loneSlot n 6 (withOp w 0x04))

/-- BLEND (R103): Starts a blend at its header word, loading byte pointers and resetting masks and loop indices. -/
def execBlend (n : CoreId) (w : Word) (s : State) : Host.Outcome State Fault Refusal :=
  .next (s.loneSlot n 5 (setBits (withOp w 0x01) 31 1 0))

/-- SINGLE_VECTOR_OP (R161): Runs one vector-engine instruction carried in the VEC slot. -/
def execSingleVectorOp (n : CoreId) (w : Word) (s : State) : Host.Outcome State Fault Refusal :=
  .next (s.loneSlot n 5 (setBits w 31 1 1))

end Sys2Proof.Machine
end

