-- ==== Sys2Proof/Machine/Dispatch.lean ====
section
/-! DEFINITION. The one arm of every command: its meaning. -/

namespace Sys2Proof.Machine

/-- The effect of one command on everything but the queue. -/
def exec (i : Instr) (s : State) : Host.Outcome State Fault Refusal :=
  match i with
  | .strapSample d code => Sys2Proof.Machine.execStrapSample d code s
  | .collectionWindowClose => Sys2Proof.Machine.execCollectionWindowClose s
  | .pwrReqOn => Sys2Proof.Machine.execPwrReqOn s
  | .railSequenceNext => Sys2Proof.Machine.execRailSequenceNext s
  | .pwrReqOff => Sys2Proof.Machine.execPwrReqOff s
  | .shutdownRailOff => Sys2Proof.Machine.execShutdownRailOff s
  | .coldEntry => Sys2Proof.Machine.execColdEntry s
  | .pwrGoodValid g => Sys2Proof.Machine.execPwrGoodValid g s
  | .supplyReset g => Sys2Proof.Machine.execSupplyReset g s
  | .refclkLoss => Sys2Proof.Machine.execRefclkLoss s
  | .railOvervoltage r => Sys2Proof.Machine.execRailOvervoltage r s
  | .railWarning r => Sys2Proof.Machine.execRailWarning r s
  | .railRecovery cycles => Sys2Proof.Machine.execRailRecovery cycles s
  | .brownoutTimeout => Sys2Proof.Machine.execBrownoutTimeout s
  | .pmbusPoll reads => Sys2Proof.Machine.execPmbusPoll reads s
  | .pmbAlert reads => Sys2Proof.Machine.execPmbAlert reads s
  | .avsUpdate needs => Sys2Proof.Machine.execAvsUpdate needs s
  | .clkPartWrite f p v => Sys2Proof.Machine.execClkPartWrite f p v s
  | .pointChangeDone p => Sys2Proof.Machine.execPointChangeDone p s
  | .apertureAdmit t => Sys2Proof.Machine.execApertureAdmit t s
  | .rampEnd b => Sys2Proof.Machine.execRampEnd b s
  | .blockLowerEnd b => Sys2Proof.Machine.execBlockLowerEnd b s
  | .thermalSample kind unit idx temp => Sys2Proof.Machine.execThermalSample kind unit idx temp s
  | .powerSample tiles rest => Sys2Proof.Machine.execPowerSample tiles rest s
  | .irisEvaluation => Sys2Proof.Machine.execIrisEvaluation s
  | .throttlePause p => Sys2Proof.Machine.execThrottlePause p s
  | .coolantRead tin tout => Sys2Proof.Machine.execCoolantRead tin tout s
  | .flowPulse => Sys2Proof.Machine.execFlowPulse s
  | .coolantPwmUpdate => Sys2Proof.Machine.execCoolantPwmUpdate s
  | .deviceWindowExpiry cls => Sys2Proof.Machine.execDeviceWindowExpiry cls s
  | .entropyHealthFail => Sys2Proof.Machine.execEntropyHealthFail s
  | .mgmtReadyEntry keyOk l0 l1 => Sys2Proof.Machine.execMgmtReadyEntry keyOk l0 l1 s
  | .clocksAndMeshStage pcieRef loupeOk => Sys2Proof.Machine.execClocksAndMeshStage pcieRef loupeOk s
  | .memoryTraining retrained ports chans spares => Sys2Proof.Machine.execMemoryTraining retrained ports chans spares s
  | .checkerSelfTest blocks outside => Sys2Proof.Machine.execCheckerSelfTest blocks outside s
  | .bringUpZeroFill => Sys2Proof.Machine.execBringUpZeroFill s
  | .memoryTestWave rows marks bad hbmRows chans hub => Sys2Proof.Machine.execMemoryTestWave rows marks bad hbmRows chans hub s
  | .linksStage bad => Sys2Proof.Machine.execLinksStage bad s
  | .blockSelfTest bad => Sys2Proof.Machine.execBlockSelfTest bad s
  | .blockRelease b => Sys2Proof.Machine.execBlockRelease b s
  | .bringUpComplete => Sys2Proof.Machine.execBringUpComplete s
  | .configRequest f off write => Sys2Proof.Machine.execConfigRequest f off write s
  | .perstAssert f => Sys2Proof.Machine.execPerstAssert f s
  | .registerWrite f db line en data => Sys2Proof.Machine.execRegisterWrite f db line en data s
  | .registerReadClear f db line en => Sys2Proof.Machine.execRegisterReadClear f db line en s
  | .sliceLayerWrite f n v => Sys2Proof.Machine.execSliceLayerWrite f n v s
  | .laneMapCommit f mode => Sys2Proof.Machine.execLaneMapCommit f mode s
  | .ringEnable f r ctrl => Sys2Proof.Machine.execRingEnable f r ctrl s
  | .ringDisable f r ctrl => Sys2Proof.Machine.execRingDisable f r ctrl s
  | .ringDrained r => Sys2Proof.Machine.execRingDrained r s
  | .sqTail f r v => Sys2Proof.Machine.execSqTail f r v s
  | .cqHead f r v => Sys2Proof.Machine.execCqHead f r v s
  | .sqEntryFetch kind e => Sys2Proof.Machine.execSqEntryFetch kind e s
  | .refusedReply k => Sys2Proof.Machine.execRefusedReply k s
  | .completionWrite r => Sys2Proof.Machine.execCompletionWrite r s
  | .ringIrqTimer r => Sys2Proof.Machine.execRingIrqTimer r s
  | .apertureRead f off n => Sys2Proof.Machine.execApertureRead f off n s
  | .apertureWrite f off data ep => Sys2Proof.Machine.execApertureWrite f off data ep s
  | .mctpRequest e => Sys2Proof.Machine.execMctpRequest e s
  | .identify k => Sys2Proof.Machine.execIdentify k s
  | .resultRelease k => Sys2Proof.Machine.execResultRelease k s
  | .regAccessRead k => Sys2Proof.Machine.execRegAccessRead k s
  | .regAccessWrite k => Sys2Proof.Machine.execRegAccessWrite k s
  | .partitionCreate k => Sys2Proof.Machine.execPartitionCreate k s
  | .partitionDestroy k => Sys2Proof.Machine.execPartitionDestroy k s
  | .facetLoad k img kind at_ => Sys2Proof.Machine.execFacetLoad k img kind at_ s
  | .facetActivate k bad sect => Sys2Proof.Machine.execFacetActivate k bad sect s
  | .facetActivateDevice k bad sect => Sys2Proof.Machine.execFacetActivateDevice k bad sect s
  | .cloveLoad k img kind => Sys2Proof.Machine.execCloveLoad k img kind s
  | .run k => Sys2Proof.Machine.execRun k s
  | .stopStepBoundary k => Sys2Proof.Machine.execStopStepBoundary k s
  | .stopImmediate k => Sys2Proof.Machine.execStopImmediate k s
  | .stopTakesEffect k => Sys2Proof.Machine.execStopTakesEffect k s
  | .ckptQuiesceTimeout p => Sys2Proof.Machine.execCkptQuiesceTimeout p s
  | .haltFreeze p => Sys2Proof.Machine.execHaltFreeze p s
  | .resume k => Sys2Proof.Machine.execResume k s
  | .replayLive k => Sys2Proof.Machine.execReplayLive k s
  | .replayLogged k => Sys2Proof.Machine.execReplayLogged k s
  | .seqOpen k => Sys2Proof.Machine.execSeqOpen k s
  | .seqFork k => Sys2Proof.Machine.execSeqFork k s
  | .seqPark k => Sys2Proof.Machine.execSeqPark k s
  | .parkDrainTimeout k => Sys2Proof.Machine.execParkDrainTimeout k s
  | .seqUnpark k => Sys2Proof.Machine.execSeqUnpark k s
  | .seqClose k => Sys2Proof.Machine.execSeqClose k s
  | .seqEvict k => Sys2Proof.Machine.execSeqEvict k s
  | .seqRestore k pages => Sys2Proof.Machine.execSeqRestore k pages s
  | .seqRead k => Sys2Proof.Machine.execSeqRead k s
  | .keyInstallLink k data kind => Sys2Proof.Machine.execKeyInstallLink k data kind s
  | .keyInstallMemory k => Sys2Proof.Machine.execKeyInstallMemory k s
  | .memoryRefillEnd p => Sys2Proof.Machine.execMemoryRefillEnd p s
  | .keyInstallImageVerify k data kind => Sys2Proof.Machine.execKeyInstallImageVerify k data kind s
  | .keyRetire k => Sys2Proof.Machine.execKeyRetire k s
  | .retireDrainEnd k => Sys2Proof.Machine.execRetireDrainEnd k s
  | .debugConsentGrant k => Sys2Proof.Machine.execDebugConsentGrant k s
  | .debugConsentRevoke k => Sys2Proof.Machine.execDebugConsentRevoke k s
  | .licenceInstall k img kind => Sys2Proof.Machine.execLicenceInstall k img kind s
  | .amendApplyStore k img kind => Sys2Proof.Machine.execAmendApplyStore k img kind s
  | .amendApplyLive k img kind => Sys2Proof.Machine.execAmendApplyLive k img kind s
  | .scrubSram k => Sys2Proof.Machine.execScrubSram k s
  | .scrubSlice k => Sys2Proof.Machine.execScrubSlice k s
  | .scrubHbm k => Sys2Proof.Machine.execScrubHbm k s
  | .selfTest k bad => Sys2Proof.Machine.execSelfTest k bad s
  | .spareSliceRow k => Sys2Proof.Machine.execSpareSliceRow k s
  | .spareHbmRow k => Sys2Proof.Machine.execSpareHbmRow k s
  | .spareUcieLane k => Sys2Proof.Machine.execSpareUcieLane k s
  | .spareColumn k => Sys2Proof.Machine.execSpareColumn k s
  | .spareBlock k => Sys2Proof.Machine.execSpareBlock k s
  | .calibrate k adj => Sys2Proof.Machine.execCalibrate k adj s
  | .counterConfig k => Sys2Proof.Machine.execCounterConfig k s
  | .counterRead k => Sys2Proof.Machine.execCounterRead k s
  | .traceConfig k => Sys2Proof.Machine.execTraceConfig k s
  | .traceRead k => Sys2Proof.Machine.execTraceRead k s
  | .powerCapSet k => Sys2Proof.Machine.execPowerCapSet k s
  | .thermalRead k => Sys2Proof.Machine.execThermalRead k s
  | .linkStatus k => Sys2Proof.Machine.execLinkStatus k s
  | .portRetrain k => Sys2Proof.Machine.execPortRetrain k s
  | .portDisable k => Sys2Proof.Machine.execPortDisable k s
  | .portEnable k => Sys2Proof.Machine.execPortEnable k s
  | .portReleaseQuarantine k => Sys2Proof.Machine.execPortReleaseQuarantine k s
  | .loupeHandover => Sys2Proof.Machine.execLoupeHandover s
  | .servicePacketReceive hop ok => Sys2Proof.Machine.execServicePacketReceive hop ok s
  | .serviceScrub => Sys2Proof.Machine.execServiceScrub s
  | .bundleIssue n => Sys2Proof.Machine.execBundleIssue n s
  | .knownAnswerTestEnd n pass => Sys2Proof.Machine.execKnownAnswerTestEnd n pass s
  | .jmp n w => Sys2Proof.Machine.execJmp n w s
  | .lset n w => Sys2Proof.Machine.execLset n w s
  | .lend n w => Sys2Proof.Machine.execLend n w s
  | .wait n w => Sys2Proof.Machine.execWait n w s
  | .waitSatisfied n => Sys2Proof.Machine.execWaitSatisfied n s
  | .waitPause p cycles => Sys2Proof.Machine.execWaitPause p cycles s
  | .waitTimeout n => Sys2Proof.Machine.execWaitTimeout n s
  | .tadd n w => Sys2Proof.Machine.execTadd n w s
  | .smov n w => Sys2Proof.Machine.execSmov n w s
  | .salu n w => Sys2Proof.Machine.execSalu n w s
  | .saddi n w => Sys2Proof.Machine.execSaddi n w s
  | .aadd n w => Sys2Proof.Machine.execAadd n w s
  | .amov n w => Sys2Proof.Machine.execAmov n w s
  | .setp n w => Sys2Proof.Machine.execSetp n w s
  | .plog n w => Sys2Proof.Machine.execPlog n w s
  | .srd n w => Sys2Proof.Machine.execSrd n w s
  | .halt n w => Sys2Proof.Machine.execHalt n w s
  | .deferredPause p => Sys2Proof.Machine.execDeferredPause p s
  | .refreshStarved p => Sys2Proof.Machine.execRefreshStarved p s
  | .ldsLd n w => Sys2Proof.Machine.execLdsLd n w s
  | .ldsSt n w => Sys2Proof.Machine.execLdsSt n w s
  | .ldsBfill n w => Sys2Proof.Machine.execLdsBfill n w s
  | .sliceBeat n => Sys2Proof.Machine.execSliceBeat n s
  | .sld n w => Sys2Proof.Machine.execSld n w s
  | .sst n w => Sys2Proof.Machine.execSst n w s
  | .vld n w => Sys2Proof.Machine.execVld n w s
  | .vst n w => Sys2Proof.Machine.execVst n w s
  | .trd n w => Sys2Proof.Machine.execTrd n w s
  | .bst n w => Sys2Proof.Machine.execBst n w s
  | .lst n w => Sys2Proof.Machine.execLst n w s
  | .opeMma n w => Sys2Proof.Machine.execOpeMma n w s
  | .opeUpdate n => Sys2Proof.Machine.execOpeUpdate n s
  | .poisonFaultDeadline p => Sys2Proof.Machine.execPoisonFaultDeadline p s
  | .opeLoad n w => Sys2Proof.Machine.execOpeLoad n w s
  | .opeDrain n w => Sys2Proof.Machine.execOpeDrain n w s
  | .mvpRun n w => Sys2Proof.Machine.execMvpRun n w s
  | .mvpProduct n => Sys2Proof.Machine.execMvpProduct n s
  | .mvpDrain n w => Sys2Proof.Machine.execMvpDrain n w s
  | .blend n w => Sys2Proof.Machine.execBlend n w s
  | .singleVectorOp n w => Sys2Proof.Machine.execSingleVectorOp n w s
  | .netSend n w => Sys2Proof.Machine.execNetSend n w s
  | .sendv n w => Sys2Proof.Machine.execSendv n w s
  | .netRecv n w => Sys2Proof.Machine.execNetRecv n w s
  | .recvv n w => Sys2Proof.Machine.execRecvv n w s
  | .nop n w => Sys2Proof.Machine.execNop n w s
  | .endBlend n w => Sys2Proof.Machine.execEndBlend n w s
  | .loop n w => Sys2Proof.Machine.execLoop n w s
  | .fadd n w => Sys2Proof.Machine.execFadd n w s
  | .fsub n w => Sys2Proof.Machine.execFsub n w s
  | .fmul n w => Sys2Proof.Machine.execFmul n w s
  | .fma n w => Sys2Proof.Machine.execFma n w s
  | .fmin n w => Sys2Proof.Machine.execFmin n w s
  | .fmax n w => Sys2Proof.Machine.execFmax n w s
  | .fabs n w => Sys2Proof.Machine.execFabs n w s
  | .fneg n w => Sys2Proof.Machine.execFneg n w s
  | .fcmp n w => Sys2Proof.Machine.execFcmp n w s
  | .sel n w => Sys2Proof.Machine.execSel n w s
  | .mov n w => Sys2Proof.Machine.execMov n w s
  | .exp2 n w => Sys2Proof.Machine.execExp2 n w s
  | .log2 n w => Sys2Proof.Machine.execLog2 n w s
  | .rcp n w => Sys2Proof.Machine.execRcp n w s
  | .rsq n w => Sys2Proof.Machine.execRsq n w s
  | .iadd n w => Sys2Proof.Machine.execIadd n w s
  | .isub n w => Sys2Proof.Machine.execIsub n w s
  | .imul n w => Sys2Proof.Machine.execImul n w s
  | .andOp n w => Sys2Proof.Machine.execAndOp n w s
  | .orOp n w => Sys2Proof.Machine.execOrOp n w s
  | .xorOp n w => Sys2Proof.Machine.execXorOp n w s
  | .shl n w => Sys2Proof.Machine.execShl n w s
  | .shr n w => Sys2Proof.Machine.execShr n w s
  | .shra n w => Sys2Proof.Machine.execShra n w s
  | .icmp n w => Sys2Proof.Machine.execIcmp n w s
  | .cvtf n w => Sys2Proof.Machine.execCvtf n w s
  | .cvti n w => Sys2Proof.Machine.execCvti n w s
  | .cvtp n w => Sys2Proof.Machine.execCvtp n w s
  | .mxq n w => Sys2Proof.Machine.execMxq n w s
  | .perm n w => Sys2Proof.Machine.execPerm n w s
  | .rsum n w => Sys2Proof.Machine.execRsum n w s
  | .rmax n w => Sys2Proof.Machine.execRmax n w s
  | .psum n w => Sys2Proof.Machine.execPsum n w s
  | .bins n w => Sys2Proof.Machine.execBins n w s
  | .mfirst n w => Sys2Proof.Machine.execMfirst n w s
  | .laneid n w => Sys2Proof.Machine.execLaneid n w s
  | .blendLd n w => Sys2Proof.Machine.execBlendLd n w s
  | .blendSt n w => Sys2Proof.Machine.execBlendSt n w s
  | .sth n w => Sys2Proof.Machine.execSth n w s
  | .sts n w => Sys2Proof.Machine.execSts n w s
  | .bpset n w => Sys2Proof.Machine.execBpset n w s
  | .chw n w => Sys2Proof.Machine.execChw n w s
  | .blendSend n w => Sys2Proof.Machine.execBlendSend n w s
  | .append n w => Sys2Proof.Machine.execAppend n w s
  | .rng n w => Sys2Proof.Machine.execRng n w s
  | .tkclr n w => Sys2Proof.Machine.execTkclr n w s
  | .tkin n w => Sys2Proof.Machine.execTkin n w s
  | .tkout n w => Sys2Proof.Machine.execTkout n w s
  | .routeEntryApply n => Sys2Proof.Machine.execRouteEntryApply n s
  | .noFlit n => Sys2Proof.Machine.execNoFlit n s
  | .flitArrival n port err vflip => Sys2Proof.Machine.execFlitArrival n port err vflip s
  | .crossingFrameArrival e m dir err => Sys2Proof.Machine.execCrossingFrameArrival e m dir err s
  | .hubToTileSend h y => Sys2Proof.Machine.execHubToTileSend h y s
  | .baseRefreshWindow p => Sys2Proof.Machine.execBaseRefreshWindow p s
  | .maintenanceBeat n => Sys2Proof.Machine.execMaintenanceBeat n s
  | .spareRowCopyDone n => Sys2Proof.Machine.execSpareRowCopyDone n s
  | .zeroFillDone b slices => Sys2Proof.Machine.execZeroFillDone b slices s
  | .hbmGrant c ask => Sys2Proof.Machine.execHbmGrant c ask s
  | .actWindowEnd c peak => Sys2Proof.Machine.execActWindowEnd c peak s
  | .dmaCopy d => Sys2Proof.Machine.execDmaCopy d s
  | .dmaFill d => Sys2Proof.Machine.execDmaFill d s
  | .dmaGranuleMove d kind host => Sys2Proof.Machine.execDmaGranuleMove d kind host s
  | .descriptorEnd d => Sys2Proof.Machine.execDescriptorEnd d s
  | .walkAppend d => Sys2Proof.Machine.execWalkAppend d s
  | .appendEntryPlace d => Sys2Proof.Machine.execAppendEntryPlace d s
  | .poolPopRetry d => Sys2Proof.Machine.execPoolPopRetry d s
  | .walkGather d => Sys2Proof.Machine.execWalkGather d s
  | .cacheRead r a n => Sys2Proof.Machine.execCacheRead r a n s
  | .cacheWrite r a data poi => Sys2Proof.Machine.execCacheWrite r a data poi s
  | .atomicAdd r a w x => Sys2Proof.Machine.execAtomicAdd r a w x s
  | .atomicMin r a w x => Sys2Proof.Machine.execAtomicMin r a w x s
  | .atomicMax r a w x => Sys2Proof.Machine.execAtomicMax r a w x s
  | .atomicCas r a w cmp x => Sys2Proof.Machine.execAtomicCas r a w cmp x s
  | .atomicSwap r a w x => Sys2Proof.Machine.execAtomicSwap r a w x s
  | .incw r a x => Sys2Proof.Machine.execIncw r a x s
  | .refinc r a => Sys2Proof.Machine.execRefinc r a s
  | .refdec r a => Sys2Proof.Machine.execRefdec r a s
  | .pop r h e => Sys2Proof.Machine.execPop r h e s
  | .push r h e x => Sys2Proof.Machine.execPush r h e x s
  | .red32 r a xs poi => Sys2Proof.Machine.execRed32 r a xs poi s
  | .red16 r a xs poi => Sys2Proof.Machine.execRed16 r a xs poi s
  | .cloveInstruction c => Sys2Proof.Machine.execCloveInstruction c s
  | .cbCopy c w => Sys2Proof.Machine.execCbCopy c w s
  | .cbFill c w => Sys2Proof.Machine.execCbFill c w s
  | .cbCmp c w => Sys2Proof.Machine.execCbCmp c w s
  | .cbChsend c w => Sys2Proof.Machine.execCbChsend c w s
  | .cbChrecv c w => Sys2Proof.Machine.execCbChrecv c w s
  | .cbChpoll c w => Sys2Proof.Machine.execCbChpoll c w s
  | .chainMessageArrival c up => Sys2Proof.Machine.execChainMessageArrival c up s
  | .cbFence c w => Sys2Proof.Machine.execCbFence c w s
  | .cbAtom c w => Sys2Proof.Machine.execCbAtom c w s
  | .cbTraise c w => Sys2Proof.Machine.execCbTraise c w s
  | .cbDone c w => Sys2Proof.Machine.execCbDone c w s
  | .cbWaitcmd c w => Sys2Proof.Machine.execCbWaitcmd c w s
  | .commandPost c ix r => Sys2Proof.Machine.execCommandPost c ix r s
  | .cloveCopy c => Sys2Proof.Machine.execCloveCopy c s
  | .cloveFill c => Sys2Proof.Machine.execCloveFill c s
  | .cloveCompare c => Sys2Proof.Machine.execCloveCompare c s
  | .cloveGather c => Sys2Proof.Machine.execCloveGather c s
  | .clovePageCow c => Sys2Proof.Machine.execClovePageCow c s
  | .cloveMigrate c => Sys2Proof.Machine.execCloveMigrate c s
  | .cloveScrub c => Sys2Proof.Machine.execCloveScrub c s
  | .tenantEntry c => Sys2Proof.Machine.execTenantEntry c s
  | .tenantTimeout c => Sys2Proof.Machine.execTenantTimeout c s
  | .collInstanceStart x => Sys2Proof.Machine.execCollInstanceStart x s
  | .collSegmentSend x => Sys2Proof.Machine.execCollSegmentSend x s
  | .collSegmentReceive x adder => Sys2Proof.Machine.execCollSegmentReceive x adder s
  | .collInstanceEnd x => Sys2Proof.Machine.execCollInstanceEnd x s
  | .collLimitExpiry x => Sys2Proof.Machine.execCollLimitExpiry x s
  | .stepLogWrite p => Sys2Proof.Machine.execStepLogWrite p s
  | .replicaPassStart p => Sys2Proof.Machine.execReplicaPassStart p s
  | .replicaPassEnd p => Sys2Proof.Machine.execReplicaPassEnd p s
  | .replicaIntervalDeadline p => Sys2Proof.Machine.execReplicaIntervalDeadline p s
  | .recoveryWindowClose p => Sys2Proof.Machine.execRecoveryWindowClose p s
  | .frameReceive q frame => Sys2Proof.Machine.execFrameReceive q frame s
  | .dataFrame q => Sys2Proof.Machine.execDataFrame q s
  | .ackFrame q => Sys2Proof.Machine.execAckFrame q s
  | .ackDelayTimer ix => Sys2Proof.Machine.execAckDelayTimer ix s
  | .retransmitTimeout ix => Sys2Proof.Machine.execRetransmitTimeout ix s
  | .heartbeat q => Sys2Proof.Machine.execHeartbeat q s
  | .heartbeatSend => Sys2Proof.Machine.execHeartbeatSend s
  | .peerAbsent dev => Sys2Proof.Machine.execPeerAbsent dev s
  | .announce q => Sys2Proof.Machine.execAnnounce q s
  | .announceAck q => Sys2Proof.Machine.execAnnounceAck q s
  | .announceRepeat k => Sys2Proof.Machine.execAnnounceRepeat k s
  | .notice q => Sys2Proof.Machine.execNotice q s
  | .replica q => Sys2Proof.Machine.execReplica q s
  | .expel q => Sys2Proof.Machine.execExpel q s
  | .sessionIdleTimeout dev => Sys2Proof.Machine.execSessionIdleTimeout dev s
  | .getVersion t req => Sys2Proof.Machine.execGetVersion t req s
  | .getCapabilities t req size => Sys2Proof.Machine.execGetCapabilities t req size s
  | .negotiateAlgorithms t req offers => Sys2Proof.Machine.execNegotiateAlgorithms t req offers s
  | .getDigests t req => Sys2Proof.Machine.execGetDigests t req s
  | .getCertificate t slot req => Sys2Proof.Machine.execGetCertificate t slot req s
  | .challenge t slot sum req => Sys2Proof.Machine.execChallenge t slot sum req s
  | .getMeasurements t index sign req => Sys2Proof.Machine.execGetMeasurements t index sign req s
  | .chunkGet t => Sys2Proof.Machine.execChunkGet t s
  | .keyExchange q => Sys2Proof.Machine.execKeyExchange q s
  | .finish q => Sys2Proof.Machine.execFinish q s
  | .linkUp q partner => Sys2Proof.Machine.execLinkUp q partner s
  | .signalDetect q => Sys2Proof.Machine.execSignalDetect q s
  | .signalLossTimeout q => Sys2Proof.Machine.execSignalLossTimeout q s
  | .portFaultEvent q fec => Sys2Proof.Machine.execPortFaultEvent q fec s
  | .traceStreamWrite ix w late => Sys2Proof.Machine.execTraceStreamWrite ix w late s
  | .extest pins => Sys2Proof.Machine.execExtest pins s
  | .samplePreload pins => Sys2Proof.Machine.execSamplePreload pins s
  | .idcode => Sys2Proof.Machine.execIdcode s
  | .dtmcs => Sys2Proof.Machine.execDtmcs s
  | .dmi addr data op => Sys2Proof.Machine.execDmi addr data op s
  | .regacc v => Sys2Proof.Machine.execRegacc v s
  | .memacc v => Sys2Proof.Machine.execMemacc v s
  | .linkdbg unit => Sys2Proof.Machine.execLinkdbg unit s
  | .bypass ir => Sys2Proof.Machine.execBypass ir s
  | .alwaysOnResetRelease => Sys2Proof.Machine.execAlwaysOnResetRelease s
  | .powerOnReset => Sys2Proof.Machine.execPowerOnReset s
  | .refclk25mReturn => Sys2Proof.Machine.execRefclk25mReturn s
  | .perstRelease f => Sys2Proof.Machine.execPerstRelease f s
  | .pcieLinkDown f => Sys2Proof.Machine.execPcieLinkDown f s
  | .commandCompletes k => Sys2Proof.Machine.execCommandCompletes k s
  | .handoverComplete => Sys2Proof.Machine.execHandoverComplete s
  | .laneMapCommitDone ok0 ok1 => Sys2Proof.Machine.execLaneMapCommitDone ok0 ok1 s
  | .entropyHealthRecovery => Sys2Proof.Machine.execEntropyHealthRecovery s
  | .partnerSessionRetry q => Sys2Proof.Machine.execPartnerSessionRetry q s
  | .alertResponseAddressRead => Sys2Proof.Machine.execAlertResponseAddressRead s
  | .addressResolutionProtocol addr => Sys2Proof.Machine.execAddressResolutionProtocol addr s

end Sys2Proof.Machine
end

