-- ==== Sys2Proof/Safety.lean ====
section
/-! DEFINITION. What counts as a safe run, in the terms the statements use: the canonical form of everything that State keeps
as a sparse map of memory or of registers, the queue of waiting commands, and the words in which the statements say what a
command needs and what it leaves. -/

namespace Sys2Proof.Machine

/-- The register file's form: addresses rise strictly, and no entry holds what an unlisted register reads as. -/
def regsForm (m : SMap Word) : Bool := SMap.sorted m && m.all (fun p => decide (p.2 ≠ regReset p.1))

/-- The canonical form of a state: the part's memory, the common cache's memory, the register file and the event counters each
list rising keys and no default. -/
def State.form (s : State) : Bool :=
  s.mem.wf && s.cache.mem.wf && regsForm s.regs && SMap.wf (0 : Nat) s.cnts

/-- What every command keeps: the waiting commands, and the canonical form. -/
structure Keeps (s t : State) : Prop where
  queue : t.pending = s.pending
  mem : s.mem.wf = true → t.mem.wf = true
  cache : s.cache.mem.wf = true → t.cache.mem.wf = true
  regs : regsForm s.regs = true → regsForm t.regs = true
  cnts : SMap.wf (0 : Nat) s.cnts = true → SMap.wf (0 : Nat) t.cnts = true

/-! ## What a core's statements assume -/

/-- Core n has nothing in flight, and its partition is not FAULTED: a cycle ends with the effects of that cycle's issue alone. -/
def Quiet (s : State) (n : Nat) : Prop :=
  (s.core n).seq.pend = [] ∧ (s.core n).eng.mmas = [] ∧ (s.core n).eng.mvps = [] ∧ (s.core n).eng.ports = [] ∧
  ∀ p, s.partOfCore n = some p → s.partIn p [.faulted] = false

/-- A slot word that issues on core n acts: the core's cycle may happen, its bits are legal, its predicate holds and it raises no fault. -/
def SlotActs (s : State) (n slot : Nat) (w : Word) : Prop :=
  s.mayIssue n = true ∧ slotLegal slot w = true ∧ s.slotFault n slot w = none ∧ slotActs (s.core n) slot w = true

/-- A blend instruction that issues on its own on core n acts, on clean lanes unless it only carries poison. -/
def BlendActs (s : State) (n : Nat) (b : BWord) : Prop :=
  s.mayIssue n = true ∧ (s.core n).vec.blend = none ∧ b.legal = true ∧ s.vecFault n b = none ∧
  (carriesPoison b.opc = true ∨ b.readsPoison (s.core n) = false)

/-- The blend word with its opcode set. -/
def BWord.withOpc (w : DWord) (opc : Nat) : BWord := { BWord.ofWord w with opc := opc }

/-- Core n's state with the given effects in flight, at the start of its next cycle. -/
def Core.after (c : Core) (ps : List Pending) : Core := { c with seq := { c.seq with now := c.seq.now + 1, pend := ps } }

/-- An effect of an operation of `slot` that issues in core c's present cycle, due at the end of the cycle dt later. -/
def Core.effect (c : Core) (dt slot : Nat) (e : Effect) : Pending := ⟨c.seq.now + dt, c.seq.now, slot, c.seq.next, none, e⟩

/-- Core c with a register written, its parity good again; a write to P0 is discarded (05 R140). -/
def Core.putS (c : Core) (i : Nat) (x : Word) : Core :=
  { c with seq := SeqState.good { c.seq with s := SMap.set 0 c.seq.s i x } [parS i] }
def Core.putA (c : Core) (i : Nat) (x : Word) : Core :=
  { c with seq := SeqState.good { c.seq with a := SMap.set 0 c.seq.a i x } [parA i] }
def Core.putP (c : Core) (i : Nat) (x : Bool) : Core :=
  if i = 0 then c else { c with seq := SeqState.good { c.seq with p := SMap.set false c.seq.p i x } [parP i] }
def Core.putL (c : Core) (i x : Nat) : Core :=
  { c with seq := SeqState.good { c.seq with l := SMap.set 0 c.seq.l i (x % 65536) } [parL i] }

/-- Core c with lanes of a V register, bits of a lane mask, or a byte pointer written. -/
def Core.putV (c : Core) (i : Nat) (sel : BitVec 32) (val : List Lane) : Core :=
  { c with seq := SeqState.good { c.seq with v := writeLanes c.seq.v (32 * i) sel val } ((laneIdx.filter (fun j => sel.getLsbD j)).map (parV i)) }
def Core.putM (c : Core) (i : Nat) (sel bs poi : BitVec 32) : Core :=
  { c with
    seq := c.seq.good [parM i],
    vec := { c.vec with
      m := SMap.set 0xFFFFFFFF c.vec.m i ((SMap.get 0xFFFFFFFF c.vec.m i &&& ~~~sel) ||| (bs &&& sel)),
      mPoi := SMap.set 0 c.vec.mPoi i ((SMap.get 0 c.vec.mPoi i &&& ~~~sel) ||| (poi &&& sel)) } }
def Core.putB (c : Core) (i : Nat) (x : Word) : Core :=
  { c with seq := c.seq.good [parB i], vec := { c.vec with bp := SMap.set 0 c.vec.bp i x } }

/-- The lanes that a vector result is written to, the bits of them that are poisoned, and the flags of the lanes that are written clean:
under mask MSK (04 R107, R126), or over every lane. -/
def Core.sel (c : Core) (b : BWord) (masked : Bool) : BitVec 32 := if masked then c.maskBits b.msk else 0xFFFFFFFF
def Core.selPoi (c : Core) (b : BWord) (masked : Bool) : BitVec 32 := if masked then c.maskPoi b.msk else 0
def Core.laneFlags (c : Core) (b : BWord) (masked : Bool) (r : List (Lane × AFlags)) : AFlags :=
  r.zipIdx.foldl (fun a x => if (c.sel b masked).getLsbD x.2 && !(c.selPoi b masked).getLsbD x.2 && !x.1.1.poison then a ||| x.1.2 else a) 0

/-- The state after core n's cycle in which a vector result of latency lat issues: due at the end of cycle lat − 1 from now, or
written at once for latency 1 (04 R109). -/
def State.vecOut (s : State) (n : Nat) (b : BWord) (masked : Bool) (lat : Nat) (r : List (Lane × AFlags)) : State :=
  let c := s.core n
  let val := maskPoison (c.selPoi b masked) (r.map (·.1))
  (s.arith n (c.laneFlags b masked r)).setCore n
    (if lat ≤ 1 then (c.putV b.dst (c.sel b masked) val).after []
     else c.after [c.effect (lat - 1) 7 (.vreg b.dst (c.sel b masked) val)])

/-! ## What a request's statements assume -/

/-- A request of requester r for n bytes at a reaches the run of device addresses from d on over hops of the service network that have not
failed, and its bytes count for partition `who` (08 R246, R251, R255, 17 R518). -/
def Reaches (s : State) (r a n : Nat) (acc : Acc) (who : Option Nat) (d : Nat) : Prop :=
  s.reqRange r a n acc = some d ∧ s.reqPart r = who ∧ s.svcLost (reqDie r) (8 + homeHub d) = false

/-- No hop of the service network that some pair of dies needs has failed (17 R518). -/
def NetUp (s : State) : Prop := ∀ a b, s.svcLost a b = false

/-- Engine d's token raises reach core n: no hop of the service network on a hub engine's way has failed (08 R243, 17 R518). -/
def TokenWay (s : State) (d n : Nat) : Prop := ∀ h, engHub d = some h → s.svcLost (8 + h) (tileOf n) = false

/-! ## What the vector instructions hand over -/

/-- The codes and flags of CVTP and CHW, clean lanes alone raising a flag (02 R59, 04 R126). -/
def cvtpCodes (f : Fmt) (b : BWord) (x : List Lane) : List (Nat × AFlags) :=
  x.map (fun l => let r := convert f (b.m 23 1 = 1) (f32 l.val); (r.1, if l.poison then (0 : AFlags) else r.2))

/-- CVTP's lanes: the codes packed from lane 0 up, with the flags of the codes that a lane holds (02 R44, 04 R114). -/
def cvtpLanes (f : Fmt) (b : BWord) (x : List Lane) : List (Lane × AFlags) :=
  let cs := cvtpCodes f b x
  (packLanes f.bits (cs.map (·.1)) (x.map (·.poison))).zipIdx.map (fun q =>
    (q.1, ((cs.drop (32 * q.2 / f.bits)).take (32 / f.bits)).foldl (fun a y => a ||| y.2) (0 : AFlags)))

/-- MXQ's lanes: the block's codes from byte 0 and its scale in byte 124; a poisoned lane poisons all (02 R60, 04 R114). -/
def mxqLanes (f : Fmt) (x : List Lane) : List (Lane × AFlags) :=
  let k := mxBlock f (x.map (fun l => f32 l.val))
  let str := packBits f.bits k.2.1 + k.1 * 2 ^ (8 * 124)
  let p := x.any (·.poison)
  laneIdx.map (fun j => (⟨BitVec.ofNat 32 (str / 2 ^ (32 * j)), p⟩, if j = 0 then (if p then 0 else k.2.2) else 0))

/-- RNG's lanes on core n: the draw of the partition's seed, the sequence, the position, IMM + i0 and the step (04 R122). -/
def State.rngLanes (s : State) (n : Nat) (b : BWord) : List (Lane × AFlags) :=
  let c := s.core n
  laneIdx.map (fun i =>
    let d := rngDraw (match s.partOfCore n with | some p => (s.part p).seed.toNat | none => 0) ((c.s (b.sa - 0x40)).toNat % 2 ^ 20)
      ((c.s (b.sb - 0x40)).toNat % 2 ^ 22) (b.imm + c.vec.i0) c.seq.step.toNat i
    (⟨if b.m 16 1 = 1 then (Num.fin false (d / 256) (-24)).toF32.1 else BitVec.ofNat 32 d, false⟩, 0))

/-- TKOUT's lanes: 32 ranks' values or indices, an empty rank reading 0xFF80_0000 and 0xFFFF_FFFF (04 R123). -/
def Core.tkoutLanes (c : Core) (b : BWord) : List (Lane × AFlags) :=
  laneIdx.map (fun i =>
    let e := c.vec.topk.getD (32 * (b.m 16 2 % 2) + i) Cand.empty
    (⟨if b.m 16 2 < 2 then e.val else e.idx, c.vec.topkPoi || e.bad⟩, 0))

/-! ## What the statements say of a state after a command -/

/-- Every byte of memory but the n bytes from b on reads as before. -/
def SameBut (s t : State) (b n : Nat) : Prop := ∀ y, y < b ∨ b + n ≤ y → t.mem.byte y = s.mem.byte y

/-- Memory and cores are as before. -/
def Unmoved (s t : State) : Prop := t.mem = s.mem ∧ t.cores = s.cores

/-- The n bytes from b on hold what f gives, and every other byte of memory reads as before. -/
def Stored (s t : State) (b n : Nat) (f : Nat → Byte) : Prop := (∀ k, k < n → t.mem.byte (b + k) = f k) ∧ SameBut s t b n

/-- The eight-bit count of register o at bit lo is one higher, up to 255. -/
def Counted (s t : State) (o lo : Nat) : Prop := bits (t.reg o) lo 8 = min (bits (s.reg o) lo 8 + 1) 255

/-- The windows of these cores hold zeros (07 R203). -/
def CoresZero (t : State) (ns : List Nat) : Prop := ∀ n ∈ ns, ∀ o, o < 0x40000 → t.mem.byte (coreWindow n + o) = 0

/-- Command k has the result y. -/
def Told (t : State) (k : Nat) (y : Result) : Prop := (t.cmd k).map (·.result) = some (some y)

/-- Command k is c, fetched and neither begun nor ended. -/
def Fetched (s : State) (k : Nat) (c : InFlight) : Prop := s.cmd k = some c ∧ c.result = none ∧ c.begun = false

/-- Command k has begun and has no result yet. -/
def Waits (t : State) (k : Nat) : Prop := (t.cmd k).map (fun d => (d.begun, d.result)) = some (true, none)

/-- The state with command k, which is c, given its result. -/
def State.ended (s : State) (k : Nat) (c : InFlight) (y : Result) : State := s.setCmd k { c with result := some y }

/-- The frame at the head of port q's queue is f: a sealed CONTROL frame whose message is of type m (16 R505). -/
def Message (s : State) (q m : Nat) (f : RxFrame) (fs : List RxFrame) : Prop :=
  SMap.get [] s.inq q = f :: fs ∧ f.typ = 2 ∧ f.sealed_ = true ∧ hField f.payload 0 1 = m

/-! ## What the commands' statements compute -/

/-- The entry that SEQ_OPEN's words e write for partition p, with generation g (10 R289). -/
def SeqEntry.opened (e : BitVec 512) (p g : Nat) : SeqEntry :=
  { state := 1, part := p, fmt := ef e 9 1, pool := ef e 10 1, len := 0, sparse := bitOf (ef e 24 4) 31,
    nglobal := ef e 24 4 / 2 ^ 24 % 128, wblk := ef e 24 4 % 65536, listblks := ef e 28 4, list := ef e 32 8, stream := ef e 40 4,
    parent := 0xFFFFFFFF, gen := g }

/-- The page list of sequence q forked entry by entry, for a child of n positions (10 R299). -/
def State.forkList (s : State) (p : Nat) (kv : KvLayout) (q : SeqEntry) (n : Nat) : Forked × State :=
  let ring := if q.sparse then (q.wblk + 1) * kv.spb else listLen kv q
  let tpp := max 1 (kvTpp q.fmt kv.hd)
  (List.range (listLen kv q)).foldl (fun (a : Forked × State) i =>
    a.2.forkEntry p kv q (decide (ring ≤ i) || decide (plBlock (a.2.listEntry p q i).1 < (n + tpp - 1) / tpp)) a.1 i) (⟨[], [], none⟩, s)

/-- The page list of sequence q evicted to, and restored from, the host entry by entry (10 R314). -/
def State.evictList (s : State) (p : Nat) (kv : KvLayout) (q : SeqEntry) (base : Nat) : ListSum × State :=
  (List.range (listLen kv q)).foldl (fun (a : ListSum × State) i => a.2.evictEntry p kv q base a.1 i) (ListSum.zero, s)
def State.restoreList (s : State) (p : Nat) (kv : KvLayout) (q : SeqEntry) (base : Nat) (pages : List (Nat × HostKind × List Byte)) :
    ListSum × State :=
  (List.range (listLen kv q)).foldl (fun (a : ListSum × State) i => a.2.restoreEntry p kv q base pages a.1 i) (ListSum.zero, s)

/-- Partition p runs for command k, which is c: as a replay or not, until a step or without end (14 R433, R435). -/
def Launched (t : State) (k : Nat) (c : InFlight) (p : Nat) (replay : Bool) (til : Option (BitVec 64)) : Prop :=
  (t.part p).state = .running ∧ (t.cmd k).map (·.aux) = some 1 ∧ (t.part p).haltCut = none ∧ (t.part p).stop = none ∧
  ∃ r, (t.part p).run = some r ∧ r.cid = c.cid ∧ r.via = c.via ∧ r.untilStep = til ∧ r.replay = replay ∧ r.ended = none

/-- The window entries that partition p's routers read at their start, of their first two cycles, are correctable, and its cores have no append
ring. -/
def StartReads (q : State) (p : Nat) : Prop :=
  ∀ n ∈ q.coresOf p, (q.core n).ring = none ∧ ∀ k pc en w, k < 2 →
    q.routeAhead n k { q.router n with running := true } = some (pc, en) → en.readWin = some w → (q.readWinEntry n w).2.1 = false

/-- Partition p may replay from the checkpoint at a: it stands still, nothing of it changes, and it can read the header (11 R345). -/
def ReplayMay (s : State) (p a : Nat) : Prop :=
  s.power.brownout = false ∧ s.stopOpen p = false ∧ s.partIn p [.loaded, .stopped, .faulted] = true ∧
  s.filling p = false ∧ s.lostBlock p = false ∧ a % 4096 = 0 ∧
  (s.translateRange p a 4096 .read).isSome = true

/-- The state that a replay from the checkpoint at a, whose header is h, restores (11 R345). -/
def State.replayed (s : State) (p a : Nat) (hbm : Bool) (h : Bytes) : Bool × State :=
  (((s.setBlocksNow p .active).configPart p (s.part p).facet).clearPart p (s.part p).facet).restore p a hbm h

/-- What putting image i in force in partition p comes to: what the reread of it finds, the PLACE record that fails, the Clove program that is
refused, the weights' rejection, digest and state (12 R377 to R380). -/
def State.activated (s : State) (p : Nat) (i : Staged) (bad sect : Nat) :
    Option Rej × Option Nat × Option CloveRec × Option Rej × Nat × State :=
  let f := parseFacet i.bytes
  let u := (s.setBlocksNow p .active).zeroPart p
  let re := (u.setPart p { u.part p with facet := f, inc := ((u.part p).inc + 1) % 65536 }).reread i bad sect
  let pl := re.2.placeAll p f
  let cl := (((pl.2.configPart p f).connect p f).joinGroup p f).loadCloves p f
  let w := (fxOf i.bytes Sx.weights).head?
  (re.1, pl.1, cl.1, cl.2.measureAll p ((w.map (·.idx)).getD noSect) ((w.map (·.off)).getD 0) f.weights)

/-- The rejection that activation ends with, if one does: the first of those. -/
def State.activateRej (s : State) (p : Nat) (i : Staged) (bad sect : Nat) : Option Rej :=
  let m := s.activated p i bad sect
  m.1.or ((m.2.1.map (placeRej i.bytes)).or ((m.2.2.1.map fun r => ⟨0x30, r.image, noRec, noOff⟩).or m.2.2.2.1))

/-- What CLOVE_LOAD with words e leaves of the program and the tenant area of Clove core x, for an image b (14 R445, R446): without one no
program and an area of zeros; with one its limit and its bytes. -/
def CloveLoaded (e : BitVec 512) (b : Bytes) (x : Clove) : Prop :=
  if ef e 11 1 = 0 then x.program = none ∧ ∀ j, j < 0xC000 → x.localMem.byte (0x4000 + j) = 0
  else
    x.program.map (·.limit) = some (if ef e 12 4 ≠ 0 then ef e 12 4 else if hField b 8 4 ≠ 0 then hField b 8 4 else 1000000) ∧
    ∀ j, j < b.length - 1024 → x.localMem.byte (0x4000 + j) = b.getD (1024 + j) 0

/-- The status with which CLOVE_LOAD ends for partition p and channel ch, from its words e and the image b that the host answers with kind h
(14 R445, R446). -/
def State.cloveLoadStatus (s : State) (e : BitVec 512) (p ch : Nat) (b : Bytes) (h : HostKind) : Nat :=
  if s.partIn p [.empty, .retiring] ∨ s.filling p then St.busy
  else if 15 < ef e 9 1 ∨ 31 < ef e 10 1 ∨ 1 < ef e 11 1 ∨ 60000000 < ef e 12 4 ∨ ef e 16 8 % 64 ≠ 0 ∨ ef e 32 8 % 128 ≠ 0 ∨
      (ef e 11 1 = 0 ∧ ef e 24 4 ≠ 0) then St.badArgument
  else if s.partOfChan ch ≠ some p ∨ s.chanUp ch = false ∨
      ((s.translateRange p (ef e 32 8) 1152 .write).filter (fun x => x.2.typ == 1)).isNone then St.badArgument
  else if ef e 11 1 = 0 then St.ok
  else if h = .poisoned then St.poisoned
  else if h = .aborted then St.uncorrectable
  else if cloveImageOk b then St.ok else St.imageInvalid

/-- Both flash chips hold the repairs with SPARE_APPLY's words e added, of a kind (19 R598). -/
def Repaired (s t : State) (e : BitVec 512) (kind : Nat) : Prop :=
  let old := s.repairs.getD (0, [])
  ∀ chip, chip < 2 → t.flashRec chip repairOff =
    repairImage s.loupe.serial ((old.1 + 1) % 2 ^ 32) (s.keepRepairs (old.2 ++ [repairEntry kind (leBytes 6 (ef e 12 6))]))

/-- SPARE_APPLY's words e name a row of a slice that can be replaced (19 R599). -/
def SparesRow (s : State) (e : BitVec 512) (n row : Nat) : Prop :=
  n < 16384 ∧ s.unreleased (blockOf n) = false ∧ ef e 14 1 ≤ 7 ∧ ef e 15 1 ≤ 127 ∧ ef e 16 2 = 0 ∧ (s.block (blockOf n)).state ≠ .retired ∧
  (s.slice n).toSpare.contains row = false ∧ (s.slice n).copy = none ∧ bits (s.reg (Reg.sliceStatus n)) 0 5 ≠ 0 ∧
  (s.slice n).spareFor row = true

/-- SPARE_APPLY's words e name a row of channel h, which is in service and has a repair row left (19 R599). -/
def SparesHbm (s : State) (e : BitVec 512) (h : Nat) : Prop :=
  ef e 12 1 ≤ 15 ∧ ef e 13 1 ≤ 31 ∧ ef e 14 1 ≤ 31 ∧ ef e 15 1 = 0 ∧ ef e 16 2 < 49152 ∧ s.chanUp h = true ∧
  bits (s.reg (Reg.hbmStatus h)) 0 5 ≠ 0

/-- They name a lane of crossing i in a direction that no repair has (19 R598). -/
def SparesLane (s : State) (e : BitVec 512) (i : Nat) : Prop :=
  ef e 12 1 ≤ 13 ∧ ef e 13 1 < (if ef e 12 1 < 10 then 16 else 8) ∧ ef e 14 1 ≤ 1 ∧ ef e 15 1 ≤ 17 ∧ ef e 16 2 = 0 ∧
  SMap.find (s.xing i).laneMap (ef e 14 1) = none

/-- They name column q of tile t, in a half without a repair, whose blocks are released and not running (19 R600). -/
def SparesColumn (s : State) (e : BitVec 512) (t q : Nat) : Prop :=
  t < 8 ∧ q < 66 ∧ ef e 14 4 = 0 ∧ (movedBlocks t q).any s.unreleased = false ∧
  (s.holders (movedBlocks t q)).any (fun j => s.partIn j [.running, .paused]) = false ∧ halfUsed (s.reg (Reg.tileRepair t)) (q / 33) = false

/-- SEQ_OPEN's words e make an entry n that partition p's layout takes (10 R289, 14 R439). -/
def Opens (s : State) (e : BitVec 512) (p : Nat) (kv : KvLayout) (n : SeqEntry) : Prop :=
  n.fmt ≤ 2 ∧ n.pool < 16 ∧ (kv.pools.getD n.pool (0, 0)).1 ≠ 0 ∧ n.stream < 2 ^ 20 ∧ ef e 24 4 / 2 ^ 16 % 256 = 0 ∧ n.nglobal ≤ 64 ∧
  (n.sparse = true → n.wblk * kvTpp n.fmt kv.hd ≤ 32768) ∧ s.listFits p kv n = true

/-- KEY_INSTALL's words e name partition p's memory key slot, which is in use and may be given a new key (15 R464, 14 R443). -/
def InstallsMemory (s : State) (e : BitVec 512) (p slot : Nat) : Prop :=
  s.partIn p [.configured] = true ∧ bitOf (s.rec_ p).keyslots slot = true ∧ (members (s.rec_ p).keyslots 128).head? = some slot ∧
  (s.key slot).state = .active ∧ (s.key slot).kind = 1 ∧ ef e 16 8 = 0 ∧ ef e 24 4 = 0 ∧ ef e 32 2 = 0 ∧ s.loupe.entropyOk = true

/-- Slot x holds the LINK key of a job that partition p's command in state s has installed from material d (15 R461, R465). -/
def LinkKey (s : State) (p job d : Nat) (x : KeySlot) : Prop :=
  x.state = .active ∧ x.kind = 0 ∧ x.job = job ∧ x.epoch = (SMap.get 0 (s.part p).epochs job + 1) % 65536 ∧ x.material = d ∧
  x.announcedAt = s.timebase ∧ x.key = linkKey x.material x.salt s.loupe.serial job x.epoch

/-- Context x's oldest frame f on connection cn is the segment (ph, b, k) that its instance takes next, which it passes on as its
j-th, with the digest that the step log would give (11 R331). -/
def TakesSegment (s : State) (x p : Nat) (e : CollEntry) (cn : Conn) (f : HeldFrame) (ph b k j : Nat) : Prop :=
  let c := s.coll x
  c.old = [] ∧ segAt e.recvs e c.recvIdx = some (ph, b, k) ∧ c.running = true ∧ c.dead = false ∧ c.segAt = none ∧ e.log = false ∧
  (s.part p).replayLog = false ∧ ph ≠ 0 ∧ e.dstOff b k = none ∧ e.sendPos ph b k = some j ∧ f.pmap = 0 ∧ f.bytes.length = e.segLen k ∧
  cn.expect ≠ cn.told ∧ cn.held = [] ∧ f.digest = collDigest e (e.stepOf c.inst) ph b k ((e.rank + e.n - 1) % e.n) 0 f.bytes

/-- Partition p's next replica pass is due (11 R338). -/
def PassDue (s : State) (p : Nat) (g : ReplicaGroup) : Prop :=
  s.stepOf p % g.every = 0 ∧ (s.part p).lastMark.isSome = true ∧ (s.part p).passLast ≠ some (s.stepOf p / g.every) ∧
  bits (s.reg (Reg.replica p)) 11 1 = 0

/-- The report b comes from an active member m of partition p's group g for an interval not compared, late or reported yet (11 R339). -/
def Reports (s : State) (p : Nat) (g : ReplicaGroup) (dev m : Nat) (b : Bytes) : Prop :=
  s.active p m = true ∧ s.senderMember p dev (hField b 1 1) = some m ∧ g.group = hField b 4 2 ∧ (s.part p).compared ≤ hField b 8 8 ∧
  hField b 6 1 % 2 = 0 ∧ (s.part p).late.contains (hField b 8 8) = false ∧
  (s.part p).reports.any (fun y => y.member == m && y.interval == hField b 8 8) = false

/-- The part has tripped, and THERM_SHUTDOWN says which sensor read what (18 R570, R572). -/
def Tripped (t : State) (kind : Fin 3) (u : Fin 16) (v : BitVec 16) : Prop :=
  t.power.thermtripLow = true ∧ t.dev = .shutdown ∧ bits (t.reg Reg.thermShutdown) 31 1 = 1 ∧
  bits (t.reg Reg.thermShutdown) 28 3 = kind.val + 1 ∧ bits (t.reg Reg.thermShutdown) 24 4 = u.val ∧
  bits (t.reg Reg.thermShutdown) 0 16 = v.toNat

/-- Every core and router of partition q has reached cycle cut, and no engine or context of it works (14 R434). -/
def AtCut (s : State) (q cut : Nat) : Prop :=
  (∀ n ∈ s.coresOf q, cut ≤ (s.core n).seq.now ∧ cut ≤ (s.router n).now) ∧ (∀ d ∈ s.enginesOf q, (s.engine d).active = false) ∧
  ∀ i ∈ s.ctxsOf q, (s.coll i).running = false

/-- An instance has sent, received and placed everything (16 R502). -/
def CollDone (c : CollCtx) (e : CollEntry) : Prop :=
  c.sendIdx = e.sendCount ∧ c.recvIdx = e.recvCount ∧ c.srcDone = true ∧ c.delivered = c.placed

/-- Every PRESENT rail shows what its regulator has answered, and no answer of it is missed (18 R552). -/
def RailsRead (s t : State) (l : List (RailId × RailRead)) : Prop :=
  ∀ r x v a b, r < 16 → s.railFlag r 0 = true → l.find? (fun y => y.1.val == r) = some (x, v, a, b) → v < 2048 →
    bits (t.reg (Reg.rail r)) 21 11 = v ∧ bits (t.reg (Reg.railI r)) 0 16 = a % 65536 ∧ SMap.get 0 t.power.missed r = 0

/-- Partition p is EMPTY, and its blocks and channels may be taken (14 R443). -/
def Creates (s : State) (p : Nat) : Prop :=
  s.partIn p [.empty] = true ∧ ((s.chansOf p).any s.chanFailed || s.lostBlock p) = false ∧ s.allReleased p = true

/-- The address of sector i of the HBM row at a. -/
def rowSector (a i : Nat) : Nat := a + i / 2 * 2 ^ 11 + i % 2 * 32

/-- A frame to peer dev leaves by port w at once: the ports send, the quad's role is FABRIC, and the session with the peer is open
(16 R487, R504). -/
def FrameWay (s : State) (w dev : Nat) : Prop :=
  s.dev ≠ .hold ∧ s.dev ≠ .shutdown ∧ s.dev ≠ .cold ∧ (s.port w).fabric = true ∧ s.sessionUp dev = true

/-- No DIRECT port waits for its partner's session (16 R504). -/
def NoPortWaits (s : State) : Prop := ∀ q, (s.port q).state ≠ .auth ∧ (s.port q).state ≠ .retraining

/-- A CLEAR frame body b of a type, of a peer with an open session, for a collective entry of this part whose job has no LINK key and whose digest agrees, at port q
(16 R493, R498). -/
def ClearFrame (s : State) (q : Nat) (b : Bytes) (typ : Nat) : Prop :=
  let dp := hField b 3 1 % 64
  let len := hField b 22 2
  hField b 10 6 = s.fabricId ∧ typ ≤ 1 ∧ hField b 0 1 = 16 + typ ∧ lenOk typ len = true ∧ 88 + len ≤ b.length ∧
  bitOf (hField b 1 1) 0 = true ∧ s.sessionUp (hField b 4 6) = true ∧ (s.part dp).state ≠ .empty ∧
  (s.part dp).facet.colls.any (fun e => e.job == hField b 16 2 && e.chan == hField b 18 2 && e.hub == hubOfPort q &&
    [e.next, e.prev].any (fun a => addrDev a == hField b 4 6 && addrPart a == hField b 2 1 % 64)) = true ∧
  s.holdsLink dp (hField b 16 2) = false ∧ hField b (72 + len) 16 = crc64 0 (b.take 72 ++ (b.drop 72).take len)

/-- The element-wise sums of a line's old value and the given words, of 32 FP32 and of 64 BF16 elements (08 R249). -/
def red32Sum (old : Nat) (xs : List Word) : Nat :=
  (List.range 32).foldr (fun i acc =>
    (fadd (BitVec.ofNat 32 (old / 256 ^ (4 * i) % 256 ^ 4)) (BitVec.ofNat 32 ((xs.map (·.toNat)).getD i 0))).1.toNat + 256 ^ 4 * acc) 0
def red16Sum (old : Nat) (xs : List (BitVec 16)) : Nat :=
  (List.range 64).foldr (fun i acc => bf16Add (old / 256 ^ (2 * i) % 256 ^ 2) ((xs.map (·.toNat)).getD i 0) + 256 ^ 2 * acc) 0

end Sys2Proof.Machine
end

