-- ==== Sys2Proof/Certificates/Slice0/Obligations.lean ====
section
/-! DEFINITION. The statements for the provers. Each says what a command does to a state of which only what is written is assumed. -/

open Sys2Proof Sys2Proof.Machine

/-- A step runs the front command on the state with the queue's rest; an empty queue idles (log 12). (95_what_each_step_holds.md) -/
def Obligations.StepRunsFront : Prop :=
 (∀ (s : State) (i : Instr) (rest : List Instr), s.pending = i :: rest → step s = exec i { s with pending := rest }) ∧ ∀ s : State, s.pending = [] →
 step s = .next (if s.power.aonUp then { s with timebase := s.timebase + 1 } else s)

/-- The state after reset: its form, an empty queue, the spec's values. (R369, R451, R577) -/
def Obligations.ResetForm : Prop :=
 State.reset.form ∧ State.reset.pending = [] ∧ State.reset.dev = .cold ∧
 (∀ p, (State.reset.part p).state = .empty ∧ (State.reset.rec_ p).valid = false) ∧ (∀ k, (State.reset.key k).state = .empty) ∧
 bits (State.reset.reg Reg.pwrCap) 16 16 = 4000 ∧ ∀ a, State.reset.mem.byte a = 0

/-- Every command answers a next state and leaves the queue; every step keeps the canonical form. (R10, R11, R203, R209, 95_what_each_step_holds.md) -/
def Obligations.StepKeepsForm : Prop :=
 (∀ (i : Instr) (s : State), ∃ t, exec i s = .next t ∧ t.pending = s.pending) ∧
 ∀ s : State, s.form → ∃ t, step s = .next t ∧ t.form ∧ t.pending = s.pending.drop 1

/-- SEQ's scalar operations write their register and nothing else. (R139, R140, R143) -/
def Obligations.SeqScalar : Prop :=
 ∀ (s : State) (n : CoreId) (w : Word), Quiet s n →
 let c := s.core n
 let x : Nat → Nat → Word := fun lo k => BitVec.ofInt 32 (sext k (bits w lo k))
 let does (i : Instr) (op : Nat) (d : Core) := SlotActs s n 0 (withOp w op) → exec i s = .next (s.setCore n (d.after []))
 does (.salu n w) 0x07 (c.putS (bits w 18 5) (salu (bits w 0 4) (c.s (bits w 13 5)) (c.s (bits w 8 5)))) ∧
 does (.saddi n w) 0x08 (c.putS (bits w 18 5) (c.s (bits w 13 5) + x 0 13)) ∧ (bits w 17 1 = 0 → does (.smov n w) 0x06 (c.putS (bits w 18 5) (x 0 16))) ∧
 (bits w 17 1 = 1 → does (.smov n w) 0x06 (c.putS (bits w 18 5) (BitVec.ofNat 32 ((c.s (bits w 18 5)).toNat % 2 ^ 16 + bits w 0 16 * 2 ^ 16)))) ∧
 does (.srd n w) 0x0D (c.putS (bits w 18 5) (s.srd n (bits w 0 5))) ∧
 (bits w 14 1 = 0 → does (.aadd n w) 0x09 (c.putA (bits w 19 4) (c.a (bits w 15 4) + x 0 14))) ∧
 (bits w 14 1 = 1 → does (.aadd n w) 0x09 (c.putA (bits w 19 4) (c.a (bits w 15 4) + c.s (bits w 0 5)))) ∧
 (bits w 18 1 = 0 → does (.amov n w) 0x0A (c.putA (bits w 19 4) (c.s (bits w 13 5)))) ∧
 (bits w 18 1 = 1 → does (.amov n w) 0x0A (c.putS (bits w 13 5) (c.a (bits w 19 4)))) ∧
 (bits w 14 1 = 0 → does (.setp n w) 0x0B (c.putP (bits w 20 3) (setpCond (bits w 0 3) (c.s (bits w 15 5)) (c.s (bits w 9 5))))) ∧
 (bits w 14 1 = 1 → does (.setp n w) 0x0B (c.putP (bits w 20 3) (setpCond (bits w 0 3) (c.s (bits w 15 5)) (x 4 10)))) ∧
 does (.plog n w) 0x0C (c.putP (bits w 20 3) (plog (bits w 0 2) (c.p (bits w 17 3)) (c.p (bits w 14 3)))) ∧
 (bits w 20 1 = 1 → does (.lset n w) 0x02 (c.putL (bits w 21 2) (bits w 0 16))) ∧
 (bits w 20 1 = 0 → does (.lset n w) 0x02 (c.putL (bits w 21 2) ((c.s (bits w 0 5)).toNat)))

/-- JMP, LEND, WAIT, TADD and HALT. (R143, R144, R147, R148, R151) -/
def Obligations.SeqControl : Prop :=
 ∀ (s : State) (n : CoreId) (w : Word), Quiet s n →
 let c := s.core n
 let l := c.l (bits w 21 2)
 let k := bits w 19 4
 let m := bits w 0 8
 let acts (op : Nat) := SlotActs s n 0 (withOp w op)
 let does (i : Instr) (op : Nat) (d : Core) := acts op → exec i s = .next (s.setCore n d)
 does (.jmp n w) 0x01 { c.after [] with seq := { (c.after []).seq with next := bits w 0 10 } } ∧
 (1 < l → does (.lend n w) 0x03 { (c.putL (bits w 21 2) (l - 1)).after [] with
  seq := { ((c.putL (bits w 21 2) (l - 1)).after []).seq with next := bits w 0 10 } }) ∧
 (l ≤ 1 → does (.lend n w) 0x03 ((c.putL (bits w 21 2) 0).after [])) ∧ (c.waitPends k m (s.realNow n) = false →
  does (.wait n w) 0x04 { c.after [] with seq := { (c.after []).seq with k := SMap.set 0 c.seq.k k (c.k k - m) } }) ∧
 (acts 0x04 → c.waitPends k m (s.realNow n) → ∃ t, exec (.wait n w) s = .next t ∧ (t.core n).k k = c.k k ∧ t.mem = s.mem ∧ t.regs = s.regs ∧
   (t.core n).seq.waits = c.seq.waits ++ [⟨k, m, s.realNow n, s.timebase, c.seq.next, SMap.get 0 c.seq.kBy k⟩]) ∧
 does (.tadd n w) 0x05 { c.after [] with seq := { (c.after []).seq with
  k := SMap.set 0 c.seq.k k (c.k k + m), kBy := SMap.set 0 c.seq.kBy k (peerCore n) } } ∧
 does (.halt n w) 0x0E { c.after [] with seq := { (c.after []).seq with halted := true, haltAt := c.seq.now } }

/-- The FP32 blend instructions, lane by lane, with their latency; choices: logs 34, 65. (R107, R108, R109, R111, R125, R126) -/
def Obligations.BlendFloat : Prop :=
 ∀ (s : State) (n : CoreId) (w : DWord), Quiet s n →
 let c := s.core n
 let b := BWord.ofWord w
 let x := c.src true b.sa b.imm
 let y := c.src true b.sb b.imm
 let z := c.src true b.sc b.imm
 let does (i : Instr) (opc lat : Nat) (r : List (Lane × AFlags)) : Prop := BlendActs s n (BWord.withOpc w opc) → exec i s = .next (s.vecOut n b true lat r)
 does (.fadd n w) 0x08 2 (lanes2 fadd x y) ∧ does (.fsub n w) 0x09 2 (lanes2 fsub x y) ∧ does (.fmul n w) 0x0A 2 (lanes2 fmul x y) ∧
 does (.fma n w) 0x0B 3 (lanes3 ffma x y z) ∧ does (.fmin n w) 0x0C 2 (lanes2 (clean2 fmin) x y) ∧
 does (.fmax n w) 0x0D 2 (lanes2 (clean2 fmax) x y) ∧ does (.fabs n w) 0x0E 1 (lanes1 (clean1 (fun a => a &&& 0x7FFFFFFF)) x) ∧
 does (.fneg n w) 0x0F 1 (lanes1 (clean1 (fun a => a ^^^ 0x80000000)) x) ∧ does (.exp2 n w) 0x18 6 (lanes1 fexp2 x) ∧
 does (.log2 n w) 0x19 6 (lanes1 flog2 x) ∧ does (.rcp n w) 0x1A 6 (lanes1 frcp x) ∧ does (.rsq n w) 0x1B 6 (lanes1 frsq x) ∧
 does (.cvtf n w) 0x30 2 (lanes1 (clean1 cvtf) (c.src false b.sa b.imm)) ∧ does (.cvti n w) 0x31 2 (lanes1 cvti x)

/-- The integer, logical, move, select and permute blend instructions; choice: log 64. (R107, R108, R109, R113, R126) -/
def Obligations.BlendInteger : Prop :=
 ∀ (s : State) (n : CoreId) (w : DWord), Quiet s n →
 let c := s.core n
 let b := BWord.ofWord w
 let x := c.src false b.sa b.imm
 let y := c.src false b.sb b.imm
 let m := b.m 16 2
 let does (i : Instr) (opc lat : Nat) (r : List (Lane × AFlags)) : Prop := BlendActs s n (BWord.withOpc w opc) → exec i s = .next (s.vecOut n b true lat r)
 let two (f : Word → Word → Word) := lanes2 (clean2 f) x y
 let quiet (f : Nat → Lane) : List (Lane × AFlags) := laneIdx.map (fun i => (f i, 0))
 does (.iadd n w) 0x20 1 (two (· + ·)) ∧ does (.isub n w) 0x21 1 (two (· - ·)) ∧ does (.imul n w) 0x22 2 (two (· * ·)) ∧
 does (.andOp n w) 0x23 1 (two (· &&& ·)) ∧ does (.orOp n w) 0x24 1 (two (· ||| ·)) ∧ does (.xorOp n w) 0x25 1 (two (· ^^^ ·)) ∧
 does (.shl n w) 0x26 1 (two (fun a k => a <<< (k.toNat % 32))) ∧ does (.shr n w) 0x27 1 (two (fun a k => a >>> (k.toNat % 32))) ∧
 does (.shra n w) 0x28 1 (two (fun a k => a.sshiftRight (k.toNat % 32))) ∧ does (.mov n w) 0x12 1 (lanes1 (clean1 id) x) ∧
 does (.sel n w) 0x11 1 ((x.zip y).zipIdx.map (fun q => (⟨if (c.maskBits m).getLsbD q.2 then q.1.1.val else q.1.2.val,
   q.1.1.poison || q.1.2.poison || (c.maskPoi m).getLsbD q.2⟩, 0))) ∧
 does (.perm n w) 0x38 1 (quiet (fun i => x.getD (permSource (b.m 16 4) b.imm i) Lane.zero)) ∧ does (.mfirst n w) 0x3D 1 (quiet (fun _ =>
  ⟨BitVec.ofNat 32 ((laneIdx.find? (fun i => (c.maskBits m).getLsbD i)).getD 32), c.maskPoi m != 0⟩)) ∧
 does (.laneid n w) 0x3E 1 (quiet (fun i => ⟨BitVec.ofNat 32 i, false⟩))

/-- The reductions, packings, draws, compares and the top-64 network. (R107, R108, R109, R112, R114, R122, R123) -/
def Obligations.BlendReduce : Prop :=
 ∀ (s : State) (n : CoreId) (w : DWord), Quiet s n →
 let c := s.core n
 let b := BWord.ofWord w
 let x := c.src true b.sa b.imm
 let acts (opc : Nat) := BlendActs s n (BWord.withOpc w opc)
 let does (i : Instr) (opc lat : Nat) (m : Bool) (r : List (Lane × AFlags)) : Prop := acts opc → exec i s = .next (s.vecOut n b m lat r)
 let all (r : Lane × AFlags) : List (Lane × AFlags) := laneIdx.map (fun i => (r.1, if i = 0 then r.2 else 0))
 let halves (lo hi : Lane × AFlags) : List (Lane × AFlags) :=
  laneIdx.map (fun i => (if i < 16 then lo.1 else hi.1, if i = 0 then lo.2 else if i = 16 then hi.2 else 0))
 let cmp (f : Word → Word → Bool) (fp : Bool) := cmpLanes f (c.src fp b.sa b.imm) (c.src fp b.sb b.imm)
 let set (r : List (Bool × Bool)) (g : Bool × Bool → Bool) : BitVec 32 :=
  r.zipIdx.foldl (fun m q => if g q.1 then m ||| BitVec.ofNat 32 (2 ^ q.2) else m) 0
 (b.m 16 1 = 0 → does (.rsum n w) 0x39 8 false (all (reduce fadd x))) ∧
 (b.m 16 1 ≠ 0 → does (.rsum n w) 0x39 8 false (halves (reduce fadd (x.take 16)) (reduce fadd (x.drop 16)))) ∧
 (b.m 16 1 = 0 → does (.rmax n w) 0x3A 8 false (all (reduce (clean2 fmax) x))) ∧ (b.m 16 1 ≠ 0 →
  does (.rmax n w) 0x3A 8 false (halves (reduce (clean2 fmax) (x.take 16)) (reduce (clean2 fmax) (x.drop 16)))) ∧
 (∀ l ls, x = l :: ls → does (.psum n w) 0x3B 8 false
  (((running fadd l ls).1.map canonNan).zipIdx.map (fun q => (q.1, if q.2 = 0 then (running fadd l ls).2 else 0)))) ∧
 (acts 0x10 → exec (.fcmp n w) s = .next (s.setCore n (c.after [c.effect 1 7 (.mask b.dst (c.maskBits b.msk) (set (cmp (fcmp (b.m 16 3)) true) (·.1))
   (set (cmp (fcmp (b.m 16 3)) true) (·.2) ||| c.maskPoi b.msk))]))) ∧ (acts 0x29 → exec (.icmp n w) s = .next (s.setCore n
  ((c.putM b.dst (c.maskBits b.msk) (set (cmp (icmp (b.m 16 3)) false) (·.1))
   (set (cmp (icmp (b.m 16 3)) false) (·.2) ||| c.maskPoi b.msk)).after []))) ∧ (∀ f, Fmt.ofCode (b.m 24 4) = some f → does (.cvtp n w) 0x32 3 true (cvtpLanes f b x)) ∧
 (∀ f, Fmt.ofCode (b.m 24 4) = some f → does (.mxq n w) 0x33 3 false (mxqLanes f x)) ∧
 does (.rng n w) 0x50 4 false (s.rngLanes n b) ∧ does (.tkout n w) 0x53 2 true (c.tkoutLanes b) ∧
 (acts 0x51 → exec (.tkclr n w) s = .next (s.setCore n (c.after [c.effect 3 7 .tkclr]))) ∧ (acts 0x52 →
  let y := c.src false b.sb b.imm
  let ix : List Lane := if b.sb < 0x20 then y else y.zipIdx.map (fun q => { q.1 with val := q.1.val + BitVec.ofNat 32 q.2 })
  let cand := ((x.zip ix).zipIdx).filter (fun q => (c.maskBits b.msk).getLsbD q.2)
  exec (.tkin n w) s = .next (s.setCore n (c.after [c.effect 3 7 (.tkin (cand.map (fun q => ⟨q.1.1.val, q.1.2.val, false⟩))
   (cand.any (fun q => q.1.1.poison || q.1.2.poison || (c.maskPoi b.msk).getLsbD q.2)))])))

/-- The blend instructions on memory, the chain input, the mesh and the append ring; choice: log 64. (R98, R108, R109, R115, R116, R118, R119, R120, R121) -/
def Obligations.BlendMemory : Prop :=
 ∀ (s : State) (n : CoreId) (w : DWord), Quiet s n →
 let c := s.core n
 let b := BWord.ofWord w
 let acts (opc : Nat) := BlendActs s n (BWord.withOpc w opc)
 let does (i : Instr) (opc : Nat) (d : Core) := acts opc → exec i s = .next (s.setCore n d)
 let post : Core := match (c.blendAddr b).2 with | some x => c.putB (b.m 20 2) x | none => c
 let a := (c.blendAddr b).1
 let x := c.src true b.sa b.imm
 let eight := c.stored b (8 * b.m 24 3) 8
 let four := c.stored b (4 * b.m 24 3) 4
 does (.blendLd n w) 0x40 (post.after [c.effect 1 7 (.rdLd a (b.m 24 4) (b.m 22 2) b.dst (c.maskBits b.msk)
  (if c.bad (parB (b.m 20 2)) then 0xFFFFFFFF else c.maskPoi b.msk))]) ∧
 does (.blendSt n w) 0x41 (post.after [c.effect 2 7 (.sram a (lanesBytes eight) (wordPoi eight))]) ∧
 does (.sth n w) 0x42 (post.after [c.effect 2 7 (.sram a (lanesBytes four) (wordPoi four))]) ∧
 does (.sts n w) 0x43 { post.after [c.effect 25 7 (.beat a (lanesBytes eight) (eight.any (·.poison)))] with
  stsAt := (c.seq.now + 1) :: c.stsAt.filter (fun t => decide (c.seq.now + 1 < t + 5)) } ∧
 does (.bpset n w) 0x47 ((c.putB (b.m 20 2) ((if b.sa = 0x7F then 0 else c.s (b.sa - 0x40)) + BitVec.ofInt 32 (sext 16 b.imm * 16))).after []) ∧
 (let q := b.imm % 128 / 4
  let l := (c.src false b.sa b.imm).getD 31 Lane.zero
  let o := c.v b.dst q
  does (.bins n w) 0x3C ((c.putV b.dst (c.maskBits b.msk &&& BitVec.ofNat 32 (2 ^ q)) (maskPoison (c.maskPoi b.msk)
   (placeLanes q [⟨setBits o.val (8 * (b.imm % 128 % 4)) 8 (l.val.toNat % 256), o.poison || l.poison⟩]))).after [])) ∧
 (let p := ((c.src false b.sa b.imm).drop (16 * b.m 16 1)).take 16
  does (.blendSend n w) 0x45 (c.after [c.effect 2 7 (.sendq ⟨BitVec.ofNat 512 (leVal (lanesBytes p)), 3, p.any (·.poison), 0⟩)])) ∧ (acts 0x46 →
  let p := ((c.src false b.sa b.imm).drop (8 * b.m 16 2)).take 8
  ∃ tag, exec (.append n w) s = .next (s.setCore n (c.after [c.effect 2 7 (.append (lanesBytes p) (wordPoi p) tag)])) ∧
   (tag.extractLsb' 22 20).toNat = (c.s (2 * b.sb)).toNat % 2 ^ 20 ∧ (tag.extractLsb' 0 22).toNat = (c.s (2 * b.sb + 1)).toNat % 2 ^ 22) ∧
 (∀ f, acts 0x44 → Fmt.ofCode (b.m 24 4) = some f →
  let cs := cvtpCodes f b x
  let half (k : Nat) : Effect := .chain (b.m 16 1) (2 * (b.imm % 8) + k / 16) (b.m 24 4) (((cs.map (·.1)).drop k).take 16) (x.any (·.poison))
  exec (.chw n w) s = .next ((if x.any (·.poison) then s else s.arith n (cs.foldl (fun f y => f ||| y.2) 0)).setCore n
   (c.after [c.effect 2 7 (half 0), c.effect 2 7 (half 16)]))) ∧
 (s.mayIssue n → c.vec.blend = none → ((BWord.withOpc w 0).legal → exec (.nop n w) s = .next (s.setCore n (c.after []))) ∧
  ((BWord.withOpc w 1).legal → exec (.endBlend n w) s = .next (s.setCore n (c.after []))) ∧
  ((BWord.withOpc w 2).legal → exec (.loop n w) s = .next (s.setCore n (c.after []))))

/-- A running blend: NOP, END, LOOP, an idle cycle, a place outside the blend. (R103, R104, R108, R117) -/
def Obligations.BlendSequence : Prop :=
 ∀ (s : State) (n : CoreId) (w : DWord) (r : BlendRun), Quiet s n → s.mayIssue n → (s.core n).vec.blend = some r →
 let c := s.core n
 let b := BWord.ofWord w
 let here : Prop := r.idle = 0 ∧ r.entry + 1 ≤ r.word ∧ r.word ≤ r.entry + r.len
 (here → (BWord.withOpc w 1).legal → exec (.endBlend n w) s =
  .next (s.setCore n ({ c with vec := { c.vec with blend := none, i0 := 0, i1 := 0 } }.after []))) ∧
 (here → (BWord.withOpc w 0).legal → r.loops = [] → exec (.nop n w) s =
  .next (s.setCore n ({ c with vec := { c.vec with blend := some { r with word := r.word + 1, idle := b.imm }, i0 := 0, i1 := 0 } }.after []))) ∧
 (here → (BWord.withOpc w 2).legal → r.loops = [] → 0 < b.m 16 8 → b.sa = 0x7F → 0 < b.imm →
  ∃ v, exec (.loop n w) s = .next (s.setCore n ({ c with vec := v }.after [])) ∧
   v.blend = some { r with word := r.word + 1, idle := 0, loops := [⟨r.word + 1, r.word + b.m 16 8, b.m 24 1, 0, b.imm⟩] }) ∧
 (0 < r.idle → ∀ i ∈ [Instr.nop n w, .endBlend n w, .loop n w, .fadd n w, .mov n w, .blendLd n w],
  exec i s = .next (s.setCore n ({ c with vec := c.vec.withRun (some { r with idle := r.idle - 1 }) }.after []))) ∧
 (r.idle = 0 → r.entry + r.len < r.word → ∀ p, s.partOfCore n = some p → (s.part p).state = .running →
  bits (s.reg (Reg.faultPc n)) 31 1 = 0 → bits (s.reg (Reg.engineStatus n)) 8 8 = 0 →
  ∀ i ∈ [Instr.nop n w, .endBlend n w, .loop n w, .fadd n w, .mov n w, .blendLd n w],
   ∃ t, exec i s = .next t ∧ (t.part p).state = .faulted ∧ bits (t.reg (Reg.engineStatus n)) 8 8 = Sf.blendRange ∧ t.mem = s.mem)

/-- An SRM operation accesses SRAM one cycle after it issues. (R139, R154, R155, R156) -/
def Obligations.SrmSlot : Prop :=
 ∀ (s : State) (n : CoreId) (w : Word), Quiet s n →
 let c := s.core n
 let d := bits w 18 5
 let p := bits w 11 2
 let aa := bits w 14 4
 let ab := bits w 19 4
 let moved (op : Nat) : Core := match (srmAddr c (withOp w op)).2 with | some x => c.putA aa x | none => c
 let at_ (op : Nat) : Nat := (srmAddr c (withOp w op)).1
 let lanes := (List.range 8).map (fun i => c.v d (8 * p + i))
 let does (i : Instr) (op : Nat) (core : Core) (e : Effect) := SlotActs s n 2 (withOp w op) → exec i s = .next (s.setCore n (core.after [c.effect 1 2 e]))
 does (.sld n w) 1 (moved 1) (.rdSld (at_ 1) d) ∧ does (.sst n w) 2 (moved 2) (.rdSst (at_ 2) (c.s d)) ∧
 does (.vld n w) 3 (moved 3) (.rdVld (at_ 3) d p) ∧ does (.vst n w) 4 (moved 4) (.sram (at_ 4) (lanesBytes lanes) (wordPoi lanes)) ∧
 does (.trd n w) 5 c (.rdTrd (at_ 5) (c.s (bits w 8 5)).toNat d (bits w 13 1 == 1) 0 [] []) ∧
 (bits w 13 1 = 0 → does (.bst n w) 6 c (.rdBst (at_ 6) ((c.a ab).toNat % 1024))) ∧
 (bits w 13 1 = 0 → does (.lst n w) 7 c (.rdLst (at_ 7) (c.a ab).toNat)) ∧ (bits w 13 1 = 1 →
  does (.bst n w) 6 ((c.putA aa (c.a aa + 32)).putA ab (c.a ab + 1)) (.rdBst (c.a aa).toNat ((c.a ab).toNat % 1024))) ∧ (bits w 13 1 = 1 →
  does (.lst n w) 7 ((c.putA aa (c.a aa + 32)).putA ab (c.a ab + 4)) (.rdLst (c.a aa).toNat (c.a ab).toNat))

/-- An LDS operation holds the slice's port while its beats take. (R152, R153, R214) -/
def Obligations.LdsSlot : Prop :=
 ∀ (s : State) (n : CoreId) (w : Word), Quiet s n →
 let c := s.core n
 let does (i : Instr) (op : Nat) := SlotActs s n 1 (withOp w op) →
  ∃ t o, exec i s = .next t ∧ (t.core n).eng.ports = [o] ∧ swOp o.word = op ∧ o.start = c.seq.now ∧ o.beats = 0 ∧
   o.gA = (c.a (bits w 19 4)).toNat ∧ o.gB = (c.a (bits w 15 4)).toNat ∧ o.ctl = BitVec.ofNat 32 (ldsCount c (withOp w op)) ∧
   (c.seq.now + 1, c.seq.now + portCycles (s.fastClock n) (ldsCount c (withOp w op))) ∈ (t.core n).portBusy ∧
   (t.core n).seq.now = c.seq.now + 1 ∧ t.mem = s.mem ∧ t.regs = s.regs ∧ ∀ m : Nat, m ≠ n → t.core m = s.core m
 does (.ldsLd n w) 1 ∧ does (.ldsSt n w) 2 ∧ does (.ldsBfill n w) 3

/-- SEND and SENDV fill the send queue, RECV and RECVV take from the receive queue. (R162, R163) -/
def Obligations.NetSlot : Prop :=
 ∀ (s : State) (n : CoreId) (w : Word), Quiet s n →
 let c := s.core n
 let aa := bits w 14 4
 let a := c.a aa
 let moved : Core := if bits w 13 1 = 1 then c.putA aa (a + 64) else c
 let h := bits w 0 1
 let v := bits w 18 5
 let xs := (List.range 16).map (fun i => c.v v (16 * h + i))
 (SlotActs s n 6 (withOp w 1) → exec (.netSend n w) s = .next (s.setCore n (moved.after [c.effect 1 6 (.rdSend1 a.toNat)]))) ∧
 (SlotActs s n 6 (withOp w 2) → c.sendq.length < 4 → exec (.sendv n w) s = .next (s.setCore n { c.after [] with
   sendq := c.sendq ++ [Flit.mk' (BitVec.ofNat 512 (leVal (lanesBytes xs))) (xs.any (·.poison))] })) ∧
 (∀ d f fs, SlotActs s n 6 (withOp w 3) → c.recvq = (d, f) :: fs → d ≤ c.seq.now →
  let bs := leBytes 64 f.pay.toNat
  let poi := if f.poison then 15 else 0
  exec (.netRecv n w) s = .next (s.setCore n { moved.after
   [c.effect 1 6 (.sram a.toNat (bs.take 32) poi), c.effect 2 6 (.sram (a.toNat + 32) (bs.drop 32) poi)] with recvq := fs })) ∧
 (∀ d f fs, SlotActs s n 6 (withOp w 4) → c.recvq = (d, f) :: fs → d ≤ c.seq.now →
  exec (.recvv n w) s = .next (s.setCore n { (c.putV v (laneRange (16 * h) 16)
   (placeLanes (16 * h) (bytesLanes (leBytes 64 f.pay.toNat) (fun _ => f.poison) 0))).after [] with recvq := fs })) ∧
 (SlotActs s n 6 (withOp w 4) → (∀ q ∈ c.recvq, c.seq.now < q.1) →
  ∃ t, exec (.recvv n w) s = .next t ∧ t.regs = (s.orReg (Reg.seqStatus n) 0x00080000).regs ∧ t.mem = s.mem ∧
   ∀ i, i < 16 → ((t.core n).v v (16 * h + i)).poison)

/-- BLEND starts a blend; a single vector operation issues one instruction. (R102, R103, R160, R161) -/
def Obligations.VecSlot : Prop :=
 ∀ (s : State) (n : CoreId) (w : Word), Quiet s n →
 let c := s.core n
 (∀ h, SlotActs s n 5 (withOp w 1) → (s.fetchBlend n (bits w 0 9)).1 = some h →
  ∃ t, exec (.blend n w) s = .next t ∧ (t.core n).vec.blend = some ⟨bits w 0 9, fld h 0 9, bits w 0 9 + 1, 0, []⟩ ∧
   (t.core n).vec.i0 = 0 ∧ (t.core n).vec.i1 = 0 ∧ t.mem = s.mem ∧ (∀ i, 1 ≤ i → i ≤ 3 → (t.core n).maskBits i = 0xFFFFFFFF) ∧
   (∀ i, i < 4 → SMap.get 0 (t.core n).vec.bp i = c.a (fld h (16 + 4 * i) 4))) ∧ (SlotActs s n 5 (setBits w 31 1 1) →
  exec (.singleVectorOp n w) s = .next ((s.vecDo n (BWord.ofVec (setBits w 31 1 1)) none).endCycle n))

/-- MMA, LOAD, DRAIN and RUN enter their engine's list; each step advances one. (R75, R76, R77, R79, R80, R84, R87, R89, R92, R96, R157, R158) -/
def Obligations.EngineSlots : Prop :=
 (∀ (s : State) (n : CoreId) (w : Word), Quiet s n → (s.core n).eng.drains = [] →
 let c := s.core n
 let now := c.seq.now
 (SlotActs s n 3 (withOp w 1) → ∃ t o, exec (.opeMma n w) s = .next t ∧ (t.core n).eng.mmas = [o] ∧ o.word = withOp w 1 ∧
  o.ctl = c.s (bits w 1 5) ∧ o.gA = (c.a (2 * bits w 6 3)).toNat ∧ o.gB = (c.a (2 * bits w 6 3 + 1)).toNat ∧ o.start = now ∧ o.k = 0 ∧ t.mem = s.mem) ∧
 (SlotActs s n 3 (withOp w 2) → ∃ t o, exec (.opeLoad n w) s = .next t ∧ o ∈ (t.core n).eng.loads ∧ o.word = withOp w 2 ∧
  o.gA = (c.a (bits w 16 4)).toNat ∧ o.start = now ∧ t.mem = s.mem ∧ (SMap.get Tile.reset (t.core n).eng.tiles (bits w 21 2)).chkValid ∧
  (SMap.get Tile.reset (t.core n).eng.tiles (bits w 21 2)).chkTol = 0 ∧
  (SMap.get Tile.reset (t.core n).eng.tiles (bits w 21 2)).isInt = (bits w 20 1 == 1)) ∧
 (SlotActs s n 3 (withOp w 3) → ∃ t o, exec (.opeDrain n w) s = .next t ∧ (t.core n).eng.drains = [o] ∧ o.word = withOp w 3 ∧
  o.start = now ∧ t.mem = s.mem) ∧ (SlotActs s n 4 (withOp w 1) → ∃ t o, exec (.mvpRun n w) s = .next t ∧ (t.core n).eng.mvps = [o] ∧ o.word = withOp w 1 ∧
  o.ctl = c.s (bits w 0 5) ∧ o.start = now ∧ o.k = 0 ∧ t.mem = s.mem) ∧
 (SlotActs s n 4 (withOp w 2) → ∃ t o, exec (.mvpDrain n w) s = .next t ∧ (t.core n).eng.drains = [o] ∧ o.word = withOp w 2 ∧
  o.start = now ∧ t.mem = s.mem ∧ t.regs = s.regs ∧
  ∀ i, i < 64 * (bits w 20 3 + 1) → SMap.get Lane.zero (t.core n).eng.drainBuf i = SMap.get Lane.zero c.eng.m i)) ∧ (∀ (s : State) (n : CoreId),
 let c := s.core n
 (∀ o, s.coreFree n → s.routerDone n → c.eng.mmas = [o] → o.a.src ≠ 2 → o.b.src ≠ 2 → o.k < o.mmaU → o.updWin.1 + o.k ≤ c.seq.now →
  ∃ t rows, exec (.opeUpdate n) s = .next t ∧ (t.core n).eng.mmas = [{ o with k := o.k + 1, rowsB := rows }] ∧ t.mem = s.mem ∧
   (o.b.f.isVq = false → rows = o.rowsB)) ∧
 (∀ o, s.coreFree n → c.eng.mvps = [o] → o.k < mvpK o.ctl → o.start + o.runL + o.stepCycle (s.fastClock n) o.k ≤ c.seq.now →
  o.beatsHere o.k → o.a.f.isVq = false → ∃ t ws vs, exec (.mvpProduct n) s = .next t ∧ (t.core n).eng.mvps = [{ o with k := o.k + 1 }] ∧ t.mem = s.mem ∧
   (t.core n).eng.m = c.eng.m ∧ (t.core n).seq.pend = c.seq.pend ++
    [⟨c.seq.now + 2, o.start, 4, o.bundle, none, .product ws vs o.runInt (o.k == 0 && !mvpAcc o.ctl)⟩]) ∧
 (∀ o, s.coreFree n → c.eng.mvps = [] → c.eng.ports = [o] → o.beats + 1 < o.beatCount → o.beatAt (s.fastClock n) ≤ c.seq.now →
  ∃ t, exec (.sliceBeat n) s = .next t ∧ (t.core n).eng.ports = [{ o with beats := o.beats + 1 }]) ∧
 (∀ o, s.coreFree n → c.eng.mmas = [o] → o.a.src = 2 → o.b.src ≠ 2 → flitsSeen o.rowsA = 0 → flitCount o.a (mmaK o.ctl) = 1 →
  o.flitEnd o.a 0 < c.seq.now → ∃ t, exec (.noFlit n) s = .next t ∧ t.regs = (s.orReg (Reg.engineStatus n) 8).regs ∧
   (t.core n).eng.mmas = [{ o with rowsA := SMap.put o.rowsA (flitKey 0) ([], 255) }]))

/-- A bundle's issue, a wait's end, a known-answer test; a core that may not issue does nothing. (R129, R132, R136, R147, R149, R150, R151, R543) -/
def Obligations.Sequencer : Prop :=
 ∀ (s : State) (n : CoreId) (p : Nat), s.partOfCore n = some p →
 let c := s.core n
 let q := c.seq
 let ready : Prop := s.coreMay n ∧ (s.pacing p = n → s.starved p q.now = false) ∧ q.running
 (ready → q.testBusy = 0 → q.halted → c.vec.blend = none → exec (.bundleIssue n) s = .next (s.endCycle n)) ∧
 (ready → Quiet s n → q.testBusy = 0 → q.halted = false → q.repLeft = 0 → c.vec.blend = none →
  ∀ b, s.fetchBundle n q.next = (some b, s) → bundleWord b 0 = 0 → exec (.bundleIssue n) s = .next (s.setCore n
   { c.after [] with seq := { (c.after []).seq with next := (q.next + 1) % 1024, repLeft := 0, cur := [] } })) ∧
 (ready → 0 < q.testBusy → (q.testLeft → q.testBusy ≠ 1) → exec (.bundleIssue n) s = .next (s.testCycle n)) ∧
 (ready → Quiet s n → 1 < q.testBusy → exec (.bundleIssue n) s = .next (s.setCore n
  { c.after [] with seq := { (c.after []).seq with testBusy := q.testBusy - 1 } })) ∧
 (s.mayIssue n = false → ∀ w : Word, ∀ v : DWord, ∀ i ∈ [Instr.jmp n w, .wait n w, .smov n w, .ldsLd n w, .sld n w, .opeMma n w,
  .mvpRun n w, .singleVectorOp n w, .netSend n w, .nop n v, .fadd n v, .blendLd n v], exec i s = .next s) ∧
 (∀ x, readyWait c (s.realNow n) q.waits [] = some x → c.bad (parK x.tok) = false →
  ∃ t, exec (.waitSatisfied n) s = .next t ∧ (t.core n).seq.waits = dropWait x q.waits ∧ t.mem = s.mem ∧ t.regs = s.regs ∧
   (s.performs p q.now = false → (t.core n).k x.tok = c.k x.tok - x.n ∧ (t.core n).seq.pend = q.pend) ∧ (s.performs p q.now → (t.core n).k x.tok = c.k x.tok ∧
    (t.core n).seq.pend = q.pend ++ [⟨q.now, q.now, 0, x.bundle, none, .tokenDown x.tok x.n⟩]) ∧ (t.part p).waitIv = (s.part p).waitIv ++
    (if x.at_ < s.realNow n then [(x.at_ + (s.part p).plead, s.realNow n + (s.part p).plead)] else [])) ∧
 (q.testLeft → q.testBusy = 1 → s.coreMay n → Quiet s n → ∃ t, exec (.knownAnswerTestEnd n true) s = .next t ∧
  (t.core n).seq.testLeft = false ∧ (t.part p).state = (s.part p).state ∧ t.regs = s.regs) ∧
 (q.testLeft → q.testBusy = 1 → s.coreMay n → Quiet s n → (s.part p).state = .running →
  ∃ t, exec (.knownAnswerTestEnd n false) s = .next t ∧ (t.core n).seq.testLeft = false ∧ (t.part p).state = .faulted ∧
   bits (t.reg (Reg.partFault p)) 24 8 = 0x41 ∧ bits (t.reg (Reg.partFault p)) 0 14 = n)

/-- A wait's, a refresh's and a throttle's pause, each counted under its cause. (R135, R150, R220, R222, R320, R573) -/
def Obligations.PartitionPauses : Prop :=
 ∀ (s : State) (p : PartId), (s.part p).state = .running →
 let x := s.part p
 let u := s.uOf p
 (s.waitPauses p (u + x.pauseTotal) → s.waitReady p = false → x.brownout = false → s.throttleDue p u = false → s.deferredDue p u = false →
  ∃ t, exec (.waitPause p 1) s = .next t ∧ SMap.get 0 (t.part p).paused 3 = SMap.get 0 x.paused 3 + 1 ∧
   t.cores = s.cores ∧ t.mem = s.mem ∧ t.regs = s.regs) ∧
 (∀ r len v, x.deferred = some (r, len, v) → s.deferredDue p u → x.brownout = false → s.throttleDue p u = false → x.pauseBase.1 ≠ u →
  ∃ t, exec (.deferredPause p) s = .next t ∧ (t.part p).deferred = none ∧
   SMap.get 0 (t.part p).paused 2 = SMap.get 0 x.paused 2 + len ∧ t.cores = s.cores ∧ t.mem = s.mem ∧ t.regs = s.regs) ∧
 (s.throttleDue p u → x.brownout = false → x.pauseBase.1 ≠ u → ∃ t, exec (.throttlePause p) s = .next t ∧ (t.part p).throttleAt = u ∧
   SMap.get 0 (t.part p).paused 1 = SMap.get 0 x.paused 1 + 512 * s.throttleLevel p ∧ t.cores = s.cores ∧ t.mem = s.mem ∧ t.regs = s.regs) ∧
 (u % 4096 = x.facet.glob.refoff % 4096 → bandPause x.band ≠ 0 → x.windowAt ≠ u + 1 → x.deferred = none → exec (.baseRefreshWindow p) s =
   .next (s.setPart p { x with windowAt := u + 1, deferred := some (u, bandPause x.band, none) })) ∧
 (∀ r l v, u % 4096 = x.facet.glob.refoff % 4096 → bandPause x.band ≠ 0 → x.windowAt ≠ u + 1 → x.deferred = some (r, l, v) →
  exec (.baseRefreshWindow p) s = .next (s.setPart p { x with windowAt := u + 1, deferred := some (r, l + bandPause x.band, v) })) ∧
 (x.windowAt = u + 1 → exec (.baseRefreshWindow p) s = .next s)

/-- A wait's limit, a starved refresh and a poison deadline fault the partition. (R96, R135, R150, R167, R525, R527) -/
def Obligations.PartitionFaultTimers : Prop :=
 ∀ (s : State) (p : PartId), (s.part p).state = .running →
 let faults (t : State) (code n : Nat) := (t.part p).state = .faulted ∧ bits (t.reg (Reg.partFault p)) 24 8 = code ∧
  bits (t.reg (Reg.partFault p)) 0 14 = n ∧ t.mem = s.mem
 let clean (n : Nat) := bits (s.reg (Reg.faultPc n)) 31 1 = 0 ∧ bits (s.reg (Reg.engineStatus n)) 8 8 = 0
 let h := s.pacing p
 (∀ (n : CoreId), s.partOfCore n = some p.val → ∀ w ∈ (s.core n).seq.waits, w.since + s.waitLimit n < s.timebase →
  clean n → ∃ t, exec (.waitTimeout n) s = .next t ∧ faults t 0x11 n ∧ bits (t.reg (Reg.engineStatus n)) 8 8 = 0x11) ∧
 (s.partOfCore h = some p.val → h < 16384 → Quiet s h → s.starved p (s.uOf p) → s.coreMay h → (s.core h).vec.blend = none →
  clean h → ∃ t, exec (.refreshStarved p) s = .next t ∧ faults t 0x14 h) ∧
 (∀ k m (n : CoreId), (s.part p).consumed = some (k, n.val) → (s.part p).lastMark = some m →
  let cut := if k ≤ m then min (m + 1) (k + 2097153) else k + 2097153
  (s.farthest p < cut → exec (.poisonFaultDeadline p) s = .next s) ∧ (cut ≤ s.farthest p →
   ∃ t, exec (.poisonFaultDeadline p) s = .next t ∧ faults t 0x40 n ∧ (t.part p).freezeAt = cut ∧ t.cores = s.cores))

/-- A scrub's beat and a finished spare-row copy. (R224, R225, R227) -/
def Obligations.SliceMaintenance : Prop :=
 ∀ (s : State) (n : CoreId), s.partOfCore n = none →
 let x := s.slice n
 (∀ k, (s.block (blockOf n)).state = .active ∨ (s.block (blockOf n)).state = .retain → x.pass = none → x.copy = none →
  x.toSpare = [] → x.scrub = some k → k.beat < k.last →
  ∃ t k', exec (.maintenanceBeat n) s = .next t ∧ (t.slice n).scrub = some k' ∧ k'.beat = k.beat + 1 ∧ k'.last = k.last ∧
   t.cores = s.cores ∧ ∀ m : Nat, m ≠ n → t.slice m = s.slice m) ∧ (∀ row, x.copy = some (row, 512) →
  ∃ t, exec (.spareRowCopyDone n) s = .next t ∧ (t.slice n).copy = none ∧ (t.slice n).spared = x.spared ++ [row] ∧
   t.mem = s.mem ∧ t.cores = s.cores ∧ ∀ m : Nat, m ≠ n → t.slice m = s.slice m)

/-- A link's and a crossing's arrival, a hub's send, a route entry that forwards. (R170, R171, R172, R174, R176, R188, R194) -/
def Obligations.MeshFlits : Prop :=
 ∀ (s : State) (n : CoreId),
 let r := s.router n
 let first (port : Fin 4) (a : Nat × Nat × Flit) := r.arriving.find? (fun a => a.1 == port.val && decide (a.2.1 ≤ r.now)) = some a ∧ a.2.2.valid = 3
 (∀ port a, first port a → a.2.2.crc = Flit.sum a.2.2.pay a.2.2.poison → exec (.flitArrival n port 0 0) s = .next (s.setRouter n
   { r with arriving := r.arriving.erase a, input := SMap.set Flit.empty r.input port.val a.2.2 })) ∧
 (∀ port (err : BitVec 512) a, first port a → a.2.2.crc ≠ Flit.sum (a.2.2.pay ^^^ err) a.2.2.poison → ∃ t, exec (.flitArrival n port err 0) s = .next t ∧
   (SMap.get Flit.empty (t.router n).input port.val).poison ∧ t.mem = s.mem ∧ t.regs = (s.countField (Reg.meshStatus n) 20 12 1).regs) ∧
 (∀ (e : Fin 14) (m : Fin 16) (dir : Fin 2) f far port,
  let x := xingId e m
  (s.xing x).frames.find? (fun g => g.dir == dir.val && decide (g.arrive ≤ (s.router (xingRouter e m dir g.lane)).now)) = some f →
  f.src = none → xingFar e m dir f.lane = some (far, port) → ¬ (e.val % 5 = 0 ∧ e.val < 10 ∧ dir.val = 0) → ¬ (e.val % 5 = 4 ∧ e.val < 10 ∧ dir.val = 1) →
  exec (.crossingFrameArrival e m dir []) s = .next ((s.setXing x { s.xing x with frames := (s.xing x).frames.erase f }).setRouter far
    { s.router far with arriving := (s.router far).arriving ++ [(port, f.arrive, f.flit)] })) ∧ (∀ (h : HubId) (y : Fin 64) p f fs m,
  let a := hubAtt h y
  let edge := coreAt (if h.val = 0 then 0 else 255) y
  let e := rowEdge (if h.val = 0 then 0 else 4) y
  let dir := if h.val = 0 then 0 else 1
  let u := (s.router edge).now
  s.partOfCore edge = some p → (s.att a).queue = f :: fs → (s.att a).free ≠ 0 → s.mayAct p u → s.slotFor e dir (rowLane y) u (rowMods y) = some m →
  (s.xing (xingId e m)).frames.any (fun g => g.dir == dir && g.arrive == u + 28) = false →
  ∃ t, exec (.hubToTileSend h y) s = .next t ∧ (t.att a).queue = fs ∧ (t.att a).free = (s.att a).free - 1 ∧ t.mem = s.mem ∧ t.regs = s.regs ∧
   (t.xing (xingId e m)).frames = (s.xing (xingId e m)).frames ++ [⟨dir, rowLane y, u + 28, Flit.mk' f.1.pay f.1.poison, some f.2⟩]) ∧
 (∀ p e m f, s.partOfCore n = some p → r.running → s.mayAct p r.now → r.halted = false → r.runLeft = 0 →
  r.arriving.any (fun a => decide (a.2.1 ≤ r.now)) = false → s.framesDue n r.now = false → s.hubSendDue n = false → s.readAhead n = s → s.fetchRoute n r.pc true = (some e, s) →
  e = ⟨[3, 0, 0, 0, 0, 0, 0], 0, 0, 0, 0, 0, 0, 0⟩ → attOf n 2 = none → s.inputOf n 2 = f → f.valid ≠ 0 →
  s.unrouted n e.outs = [] → s.fenced n 0 = false → linkOf n 0 = .router m 2 → m ≠ n →
  ∃ t, exec (.routeEntryApply n) s = .next t ∧ (t.router m).arriving = (s.router m).arriving ++ [(2, r.now + 1, f)] ∧
   (t.router n).pc = (r.pc + 1) % 1024 ∧ (t.router n).now = r.now + 1 ∧ (t.router n).input = [] ∧ t.mem = s.mem)

/-- A channel's activation window and grants; a block's zero-fill. (R212, R233, R234, R282, R283) -/
def Obligations.HbmChannel : Prop :=
 ∀ (s : State) (c : ChanId) (b : BlockId) (peak : Nat),
 let h := s.chan c
 let next := { h with grant := (h.grant + 1) % 20 }
 let win (t : State) := bits (t.reg (Reg.hbmStatus c)) 7 1
 let only (t : State) (at_ : Nat → Nat) (len : Nat) := (∀ n ∈ coresOfBlock b, ∀ i, i < len → t.mem.byte (at_ n + i) = 0) ∧
  ∀ a, (∀ n ∈ coresOfBlock b, a < at_ n ∨ at_ n + len ≤ a) → t.mem.byte a = s.mem.byte a
 (384 < peak → ∃ t, exec (.actWindowEnd c peak) s = .next t ∧ win t = 1 ∧ (t.chan c).calm = 0 ∧ t.mem = s.mem) ∧
 (peak ≤ 288 → 3 ≤ h.calm → ∃ t, exec (.actWindowEnd c peak) s = .next t ∧ win t = 0 ∧ t.mem = s.mem) ∧
 (peak ≤ 288 → h.calm < 3 → ∃ t, exec (.actWindowEnd c peak) s = .next t ∧ (t.chan c).calm = h.calm + 1 ∧
  win t = win s) ∧ (h.pass = none → exec (.hbmGrant c []) s = .next (s.setChan c next)) ∧
 (∀ (r : ReqId) k, grantOwner h.grant = some k → s.reqClass r = k → k ≠ 3 → exec (.hbmGrant c [r]) s =
  .next ((s.setChan c next).tally (s.partOfChan c) 3 (Cnt.hbm c (2 + k)) 64)) ∧
 (∀ ask : List ReqId, ∃ t, exec (.hbmGrant c ask) s = .next t ∧ (t.chan c).grant = (h.grant + 1) % 20 ∧ t.mem = s.mem) ∧
 ((s.block b).fillSlice → ∃ t, exec (.zeroFillDone b true) s = .next t ∧ (t.block b).fillSlice = false ∧ only t sliceBase sliceBytes) ∧
 ((s.block b).fillCore → ∃ t, exec (.zeroFillDone b false) s = .next t ∧ (t.block b).fillCore = false ∧ only t coreWindow 0x40000)

/-- A hub agent's read and write; what reaches nothing; parity and encryption errors; choice: log 71. (R244, R245, R246, R251, R255, R517, R518, R520) -/
def Obligations.CacheAccess : Prop :=
 ∀ (s : State) (r : ReqId) (a : Addr) (who : Option Nat) (d : Nat), hubAgent r →
 (∀ n : Fin 129, n.val ≠ 0 → Reaches s r a.toNat n .read who d →
  let x := s.ccRead who d n
  exec (.cacheRead r a n) s = .next (x.2.2.send (.reply r (badStatus x.2.1) (if badStatus x.2.1 = St.ok then leBytes n (leVal x.1) else [])))) ∧
 (∀ (data : List Byte) (poi : Bool), data ≠ [] → data.length ≤ 128 → Reaches s r a.toNat data.length .write who d →
  (∀ i, i < data.length → s.hbmLost (d + i) = false) → d % unitBytes d = 0 → data.length % unitBytes d = 0 → s.upsets = [] →
  ∃ t, exec (.cacheWrite r a data poi) s = .next t ∧ t.out = s.out ++ [.reply r St.ok []] ∧ t.regs = s.regs ∧
   t.cores = s.cores ∧ Stored s t d data.length fun i => data.getD i 0) ∧
 (∀ data : List Byte, data ≠ [] → data.length ≤ 64 → Reaches s r a.toNat data.length .write who d → isScratch d →
  d % 64 + data.length ≤ 64 → d % 8 = 0 → data.length % 8 = 0 → s.upsets = [.parity (homeHub d)] →
  ∃ t, exec (.cacheWrite r a data false) s = .next t ∧ t.upsets = [] ∧ t.regs = (s.countField Reg.errDevice 8 8 1).regs ∧
   (∀ i, i < data.length → t.mem.byte (d + i) = data.getD i 0 ∧ SMap.get false t.mem.poison ((d + i) / 8 * 8) = true)) ∧
 (∀ (data : List Byte) (poi : Bool), data ≠ [] → Reaches s r a.toNat data.length .write who d → isHbm d →
  s.hbmLost d = false → d % 64 + data.length ≤ 64 → s.encrypts → s.upsets = [.crypt (chanOfAddr d)] →
  ∃ t, exec (.cacheWrite r a data poi) s = .next t ∧ t.upsets = [] ∧ t.regs = s.regs ∧ t.cores = s.cores ∧
   ∀ u ∈ [d / 64 * 64, d / 64 * 64 + 32], SMap.get false t.mem.poison u = true) ∧ (∀ n : Fin 129, n.val ≠ 0 → s.reqRange r a.toNat n .read = none →
  exec (.cacheRead r a n) s = .next (s.send (.reply r St.accessFault []))) ∧
 (∀ n : Fin 129, n.val ≠ 0 → s.reqRange r a.toNat n .read = some d → s.svcLost (reqDie r) (8 + homeHub d) →
  exec (.cacheRead r a n) s = .next (s.send (.reply r St.uncorrectable []))) ∧
 (∀ acc, r.val < 2 → s.reqReach r a.toNat acc = (if isHbm a.toNat ∨ isScratch a.toNat then some a.toNat else none)) ∧
 (∀ p acc, 4 ≤ r.val → s.partOfReq r = some p → s.reqReach r a.toNat acc = (s.translate p a.toNat acc).map (·.1)) ∧
 (∀ acc, 4 ≤ r.val → s.partOfReq r = none → s.reqReach r a.toNat acc = none)

/-- The atomics, POP and PUSH; ALUs that differ answer POISONED. (R246, R247, R248, R249, R255, R519) -/
def Obligations.AtomicOps : Prop :=
 (∀ (s : State) (r : ReqId) (a : Addr) (who : Option Nat) (d : Nat),
 let l (n : Nat) : Nat × State := (s.countCc who d 2 n).atomicLine d
 let old (n : Nat) : Nat := (l n).2.atomicGet d n
 let found (n : Nat) := Reaches s r a.toNat n .atomic who d ∧ d % n = 0 ∧ (l n).1 = 0
 let clean (n : Nat) := found n ∧ Upset.alu (homeHub d) ∉ s.upsets
 let answers (i : Instr) (n st : Nat) (data : Bytes) := exec i s = .next ((l n).2.send (.reply r st data))
 let stores (i : Instr) (n new : Nat) := exec i s = .next (((l n).2.atomicPut d n new false).send (.reply r St.ok (leBytes n (old n))))
 (∀ w x, found (awBytes w) → x ≠ 0 → Upset.alu (homeHub d) ∈ s.upsets → ∀ i ∈ [Instr.atomicAdd r a w x, .atomicMin r a w x,
  .atomicMax r a w x, .atomicSwap r a w x, .atomicCas r a w 0 x],
  exec i s = .next (({ (l (awBytes w)).2 with upsets := s.upsets.erase (.alu (homeHub d)) }.poisonLine d).send (.reply r St.poisoned []))) ∧
 (∀ w x, clean (awBytes w) → (x = 0 → w = .w32 → s.requesterFence d = s) → stores (.atomicAdd r a w x) (awBytes w) (atomAdd w (old (awBytes w)) x.toNat)) ∧
 (∀ w (cmp x : DWord),
  let n := awBytes w
  let y := x.toNat % 2 ^ (8 * n)
  clean n → stores (.atomicMin r a w x) n (atomMin w (old n) x.toNat) ∧ stores (.atomicMax r a w x) n (atomMax w (old n) x.toNat) ∧
   stores (.atomicSwap r a w x) n y ∧ (old n = cmp.toNat % 2 ^ (8 * n) → stores (.atomicCas r a w cmp x) n y) ∧
   (old n ≠ cmp.toNat % 2 ^ (8 * n) → answers (.atomicCas r a w cmp x) n St.ok (leBytes n (old n)))) ∧
 (∀ x : Word, clean 4 → stores (.incw r a x) 4 (if x.toNat ≤ old 4 then 0 else old 4 + 1)) ∧
 (clean 2 → old 2 ≠ 0xFFFF → stores (.refinc r a) 2 (old 2 + 1)) ∧ (clean 2 → old 2 = 0xFFFF → answers (.refinc r a) 2 St.noResource []) ∧
 (clean 2 → old 2 ≠ 0 → stores (.refdec r a) 2 (old 2 - 1)) ∧ (clean 2 → old 2 = 0 → answers (.refdec r a) 2 St.badArgument []) ∧
 (∀ xs : List Word, clean 128 → stores (.red32 r a xs false) 128 (red32Sum (old 128) xs)) ∧
 (∀ xs : List (BitVec 16), clean 128 → stores (.red16 r a xs false) 128 (red16Sum (old 128) xs))) ∧
 (∀ (s : State) (r : ReqId) (h e : Addr) (who : Option Nat) (d : Nat), Reaches s r h.toNat 8 .atomic who d →
 isScratch d → isHbm d = false → d % 8 = 0 → e.toNat % 4 = 0 →
 let l := (s.countCc who d 2 8).atomicLine d
 let q := l.2
 let top := q.atomicGet d 4
 let limit := q.atomicGet (d + 4) 4
 let at_ (i : Nat) : Option Nat := s.reqReach r (e.toNat + 4 * i) .atomic
 l.1 = 0 → (top = 0 → exec (.pop r h e) s = .next (q.send (.reply r St.poolEmpty []))) ∧
 (top ≠ 0 → at_ (top - 1) = none → exec (.pop r h e) s = .next (q.send (.reply r St.accessFault []))) ∧
 (∀ b k, at_ (top - 1) = some b → k = q.atomicLine b → top ≠ 0 → k.1 = 0 → Upset.alu (homeHub d) ∉ s.upsets →
  exec (.pop r h e) s = .next ((k.2.atomicPut d 4 (top - 1) false).send (.reply r St.ok (leBytes 4 (k.2.atomicGet b 4))))) ∧
 (∀ x : Word, top = limit → exec (.push r h e x) s = .next (q.send (.reply r St.noResource []))) ∧
 (∀ x : Word, top ≠ limit → at_ top = none → exec (.push r h e x) s = .next (q.send (.reply r St.accessFault []))) ∧
 (∀ (x : Word) b k, at_ top = some b → k = q.atomicLine b → top ≠ limit → k.1 = 0 → Upset.alu (homeHub d) ∉ s.upsets →
  exec (.push r h e x) s = .next (((k.2.atomicPut b 4 x.toNat false).atomicPut d 4 (top + 1) false).send (.reply r St.ok (leBytes 4 top)))))

/-- A descriptor's start, its wait for its trigger, its end; choice: log 43. (R239, R302, R308, R312, R528) -/
def Obligations.DescriptorStart : Prop :=
 ∀ (s s1 : State) (d : EngineId) (p : Nat) (x : BitVec 512), s.partOfEngine d = some p →
 let e := s.engine d
 let go (op : Nat) : Prop := s.dev ≠ .hold ∧ e.active = false ∧ s.engineMay p ∧ e.fetched = false ∧ s.fetchDesc d p = some (x, true, s1) ∧ dOp x = op
 let now : Prop := s1.triggered d x
 let ok : Prop := s1.dmaLegal p d x
 let same (t : State) := t.mem = s1.mem ∧ t.cores = s1.cores
 let begun (i : Instr) := ∃ t, exec i s = .next t ∧ (t.engine d).active ∧ (t.engine d).desc = x ∧
  (t.engine d).moved = 0 ∧ (t.engine d).bytes = 0 ∧ (t.engine d).status = St.ok ∧ (t.engine d).pos = e.pos ∧ same t
 let refused (i : Instr) := ∃ t, exec i s = .next t ∧ (t.engine d).active ∧ (t.engine d).status = St.badArgument ∧ same t ∧ t.regs = s1.regs
 let held (i : Instr) := ∃ t, exec i s = .next t ∧ (t.engine d).active = false ∧ (t.engine d).fetched ∧ (t.engine d).desc = x ∧ same t ∧ t.regs = s1.regs
 (go 1 → ok → now → begun (.dmaCopy d)) ∧ (go 1 → ok → ¬ now → held (.dmaCopy d)) ∧
 (∀ n, go n → n ≠ 2 → n ≠ 3 → ¬ ok → refused (.dmaCopy d)) ∧ (go 2 → ok → now → begun (.dmaFill d)) ∧ (go 2 → ok → ¬ now → held (.dmaFill d)) ∧
 (go 2 → ¬ ok → refused (.dmaFill d)) ∧ (go 3 → wMode x = 1 → s1.appendLegal p d x → now → begun (.walkAppend d)) ∧
 (go 3 → wMode x = 1 → s1.appendLegal p d x = false → refused (.walkAppend d)) ∧
 (go 3 → wMode x = 0 → s1.gatherLegal p d x = false → refused (.walkGather d)) ∧ (go 3 → wMode x = 0 → s1.gatherLegal p d x → now →
  ∃ t, exec (.walkGather d) s = .next t ∧ (t.engine d).active ∧ (t.engine d).desc = x ∧ (t.engine d).walk.sent = 0 ∧
   (t.engine d).status = St.ok ∧ bits (t.reg (Reg.walkStatus d)) 1 1 = 1 ∧ same t) ∧
 (∀ a w, s.dev ≠ .hold → e.active → s.descDone d p → s.translate p (e.descAt + 63) .write = some (a, w) → e.status ≠ St.badArgument →
  (dTgran e.desc = 0 → dTcnt e.desc ≠ 0 → TokenWay s d (dTcore e.desc) ∧ (s.core (dTcore e.desc)).seq.badParity.contains (parK (dTkt e.desc)) = false ∧
   (s.core (dTcore e.desc)).k (dTkt e.desc) + dTcnt e.desc ≤ 0xFFFF) →
  ∃ t, exec (.descriptorEnd d) s = .next t ∧ (t.engine d).active = false ∧ (t.engine d).pos = (e.pos + 1) % max 1 e.len ∧
   t.mem = (if engReach d a then (s.engWrite d a w [BitVec.ofNat 8 e.status] false).mem else s.mem) ∧ bits (t.reg (Reg.walkStatus d)) 0 2 = 0 ∧
   (dTgran e.desc ≠ 0 → dOp e.desc ≠ 3 → dLen e.desc = e.bytes → t.cores = s.cores) ∧ (dTgran e.desc = 0 → (t.core (dTcore e.desc)).k (dTkt e.desc) =
    (s.core (dTcore e.desc)).k (dTkt e.desc) + dTcnt e.desc)) ∧ (e.active → e.status = St.badArgument → (s.part p).state = .running →
  ∃ t, exec (.descriptorEnd d) s = .next t ∧ (t.engine d).active = false ∧ (t.part p).state = .faulted ∧ t.cores = s.cores ∧
   bits (t.reg (Reg.partFault p)) 24 8 = 0x46)

/-- A granule of COPY or FILL: its bytes, tokens, waits and parity. (R145, R240, R241, R517) -/
def Obligations.DescriptorMove : Prop :=
 ∀ (s : State) (d : EngineId) (p : Nat) (kind : HostKind) (host : BitVec 512), s.partOfEngine d = some p →
 let e := s.engine d
 let x := e.desc
 let i := .dmaGranuleMove d kind host
 let due := (if dTgran x = 0 then 0 else (e.bytes + 64) / dTgran x - e.bytes / dTgran x) * dTcnt x
 let moved (t : State) := (t.engine d).moved = e.moved + 1 ∧ (if s.viaHub d then (t.engine d).bytes = e.bytes ∧ t.cores = s.cores
  else (t.engine d).bytes = e.bytes + 64 ∧ (due = 0 → t.cores = s.cores) ∧ (t.core (dTcore x)).k (dTkt x) = (s.core (dTcore x)).k (dTkt x) + due)
 let to_ (b : Nat) (w : Window) := s.engAddr p d (dDstt x) (dDst x + 64 * e.moved) .write = some (b, w) ∧ b % 64 = 0 ∧
  (engHub d = none ∨ s.hbmLost b = false)
 s.dev ≠ .hold → TokenWay s d (dTcore x) → e.active → e.status = St.ok → 64 * e.moved < dLen x → (s.core (dTcore x)).k (dTkt x) + due ≤ 0xFFFF →
 (due = 0 ∨ (s.core (dTcore x)).seq.badParity.contains (parK (dTkt x)) = false) →
 (∀ b w, dOp x = 2 → dDstt x < 2 → to_ b w → s.upsets = [.parity (2 + d.val)] → ∃ t, exec i s = .next t ∧ moved t ∧ (t.engine d).status = St.ok ∧ t.upsets = [] ∧
   Counted s t Reg.errDevice 8 ∧ ∀ u ∈ unitsOf b 64, SMap.get false t.mem.poison u = true) ∧ (s.upsets = [] →
 (∀ b w, dOp x = 2 → dDstt x < 2 → to_ b w →
  ∃ t, exec i s = .next t ∧ moved t ∧ (t.engine d).status = St.ok ∧ Stored s t b 64 fun k => BitVec.ofNat 8 (dFillv x / 256 ^ (k % 8))) ∧
 (∀ a wa b wb, dOp x = 1 → dXpose x = 0 → dSrct x < 2 → dDstt x < 2 → s.engAddr p d (dSrct x) (dSrc x + 64 * e.moved) .read = some (a, wa) →
  to_ b wb →
  let r := s.engRead d a 64
  ∃ t, exec i s = .next t ∧ moved t ∧ (t.engine d).status = badStatus r.2.1 ∧ Stored r.2.2 t b 64 fun k => r.1.getD k 0) ∧
 (∀ f fs b w, dOp x = 1 → dXpose x = 0 → dSrct x = 2 → dDstt x < 2 → (s.att (streamAtt d (dSrc x))).egress = f :: fs →
  to_ b w →
  ∃ t, exec i s = .next t ∧ moved t ∧ (t.att (streamAtt d (dSrc x))).egress = fs ∧ (t.engine d).status = (if f.poison then St.poisoned else St.ok) ∧
   Stored s t b 64 fun k => BitVec.ofNat 8 (f.pay.toNat / 256 ^ k)) ∧ (dOp x = 2 → dDstt x = 2 → s.streamRoom d (dDst x) = false →
  ∃ t, exec i s = .next t ∧ (t.engine d).moved = e.moved ∧ t.attach = s.attach ∧ Unmoved s t ∧ t.regs = s.regs) ∧
 (dOp x = 2 → dDstt x = 2 → s.streamRoom d (dDst x) → ∃ t, exec i s = .next t ∧ moved t ∧ t.mem = s.mem ∧ (if engHub d = none then
    (t.att (streamAtt d (dDst x))).ingress.length = (s.att (streamAtt d (dDst x))).ingress.length + 1
   else (t.att (streamAtt d (dDst x))).queue.length = (s.att (streamAtt d (dDst x))).queue.length + 1)))

/-- A walker's APPEND and GATHER, step by step. (R298, R303, R305, R306, R308) -/
def Obligations.WalkSteps : Prop :=
 ∀ (s : State) (d : EngineId) (p : Nat) (k : KvLayout), s.partOfEngine d = some p → s.kvOf p = some k →
 let e := s.engine d
 let x := e.desc
 let w := e.walk
 let at_ := streamAtt d (wEndpt x)
 let wk (t : State) := (t.engine d).walk
 let same := Unmoved s
 s.dev ≠ .hold → e.active → e.status = St.ok → dOp x = 3 → dTgran x = 0 → s.upsets = [] →
 (∀ f fs, wMode x = 1 → w.sent < wCount x / 8 * 5 → (s.att at_).egress = f :: fs → w.tags = [] →
  ∃ t, exec (.walkAppend d) s = .next t ∧ (t.att at_).egress = fs ∧ (wk t).sent = w.sent + 1 ∧
   (wk t).tags = (List.range 8).map (fun j => (f.pay.extractLsb' (64 * j) 64, f.poison)) ∧ (wk t).queue = w.queue ∧ same t) ∧
 (∀ f fs a b rest, wMode x = 1 → w.sent < wCount x / 8 * 5 → (s.att at_).egress = f :: fs → w.tags = a :: b :: rest →
  ∃ t, exec (.walkAppend d) s = .next t ∧ (t.att at_).egress = fs ∧ (wk t).tags = rest ∧ (wk t).queue = w.queue ++
    [(a.1, a.2, f.pay.extractLsb' 0 256, f.poison), (b.1, b.2, f.pay.extractLsb' 256 256, f.poison)] ∧ same t) ∧
 (∀ tag c poi rest, w.queue = (tag, false, c, poi) :: rest → w.retry = none → (Tag.of tag).layer = 0xFF →
  ∃ t, exec (.appendEntryPlace d) s = .next t ∧ (wk t).queue = rest ∧ (wk t).placed = w.placed + 1 ∧
   (t.engine d).status = St.ok ∧ (t.engine d).bytes = e.bytes + 32 ∧ same t) ∧
 (∀ tag c poi rest, w.queue = (tag, false, c, poi) :: rest → w.retry = none → (Tag.of tag).layer ≠ 0xFF → s.seqMine p (Tag.of tag).seq = false →
  ∃ t, exec (.appendEntryPlace d) s = .next t ∧ (wk t).queue = rest ∧ (wk t).placed = w.placed + 1 ∧
   (t.engine d).status = St.accessFault ∧ same t ∧ Counted s t (Reg.walkStatus d) 24) ∧
 (∀ tag c poi rest b n, w.queue = (tag, false, c, poi) :: rest → w.retry = some (b, n) → (Tag.of tag).layer ≠ 0xFF →
  let z := s.place d p k tag c poi
  z.1 = .wait → ∃ t, exec (.poolPopRetry d) s = .next t ∧ (wk t).queue = (wk z.2).queue ∧ (wk t).placed = (wk z.2).placed ∧
   bits (t.reg (Reg.walkStatus d)) 2 1 = 1 ∧ t.cores = z.2.cores) ∧
 (∀ g f fs, wMode x = 0 → w.tile = f :: fs → s.streamRoom d (wEndpt x) → engHub d = none → s.gatherSeq d p (wSeq x) = g →
  w.sent < gatherFlits k x (g.1.view (s.seqMine p (wSeq x))) → ∃ t, exec (.walkGather d) s = .next t ∧ (wk t).tile = fs ∧ (wk t).sent = w.sent + 1 ∧
   (t.att at_).ingress = (s.att at_).ingress ++ [Flit.mk' f.1 f.2] ∧ same t) ∧ (wMode x = 0 → s.streamRoom d (wEndpt x) = false →
  ∃ t, exec (.walkGather d) s = .next t ∧ (wk t).sent = w.sent ∧ t.attach = s.attach ∧ same t)

/-- A Clove core's instruction: arithmetic, jumps, loads, stores, traps. (R256, R257, R259, R280) -/
def Obligations.CloveInstruction : Prop :=
 ∀ (s s1 s2 : State) (c : ChanId) (lo hi : Nat), s.cloveMay c → (s.clove c).stallAt = none →
 let x := s.clove c
 let pc := x.pc.toNat
 let w := lo + 65536 * hi
 let rd := iRd w
 let a := s.cx c (iRs1 w)
 let b := s.cx c (iRs2 w)
 s.cFetch c pc = some (lo, s1) → s1.cFetch c (pc + 2) = some (hi, s2) → lo % 4 = 3 → lo < 65536 → hi < 65536 →
 let goes (v next : Nat) (t : State) := (rd ≠ 0 → t.cx c rd = v % 2 ^ 32) ∧ (∀ i, i ≠ rd → t.cx c i = s.cx c i) ∧
  (t.clove c).pc.toNat = next % 2 ^ 32 ∧ t.mem = s.mem ∧ t.regs = s.regs ∧ t.cores = s.cores
 let does (P : State → Prop) := ∃ t, exec (.cloveInstruction c) s = .next t ∧ P t
 let local_ (v : Nat) :=  0x10000 ≤ v ∧ v + 4 ≤ 0x20000 ∧ v % 4 = 0 ∧ (s.cUser c → 0x14000 ≤ v)
 (iOp w = 0x33 → iF7 w = 0 → does (goes (aluOp (iF3 w) false a b) (pc + 4))) ∧ (iOp w = 0x33 → iF7 w = 1 → does (goes (mulOp (iF3 w) a b) (pc + 4))) ∧
 (iOp w = 0x13 → iF3 w ≠ 1 → iF3 w ≠ 5 → does (goes (aluOp (iF3 w) false a (immI w)) (pc + 4))) ∧
 (iOp w = 0x37 → does (goes (w / 2 ^ 12 * 2 ^ 12) (pc + 4))) ∧ (iOp w = 0x6F → does (goes (pc + 4) (pc + immJ w))) ∧
 (∀ y, iOp w = 0x63 → branchTaken (iF3 w) a b = some y → does fun t => (∀ i, t.cx c i = s.cx c i) ∧ (t.clove c).pc.toNat = (if y then pc + immB w else pc + 4) % 2 ^ 32 ∧ t.mem = s.mem) ∧
 (iOp w = 0x03 → iF3 w = 2 → local_ ((a + immI w) % 2 ^ 32) →
  let r := s2.cRead c (.loc ((a + immI w) % 2 ^ 32 - 0x10000)) 4
  r.2.1 = 0 → does (goes (leVal r.1) (pc + 4))) ∧ (iOp w = 0x23 → iF3 w = 2 → local_ ((a + immS w) % 2 ^ 32) →
  let o := (a + immS w) % 2 ^ 32 - 0x10000
  does fun t => (t.clove c).pc.toNat = (pc + 4) % 2 ^ 32 ∧ t.mem = s.mem ∧
   (∀ i, t.cx c i = s.cx c i) ∧ (∀ k, k < 4 → (t.clove c).localMem.byte (o + k) = BitVec.ofNat 8 (b / 256 ^ k)) ∧
   ∀ k, k < o / 8 * 8 ∨ o / 8 * 8 + 8 ≤ k → (t.clove c).localMem.byte k = (s2.clove c).localMem.byte k) ∧
 (w = 0x00000073 → x.machineMode = false → s.ccsr c Csr.mtvec < 2 ^ 32 → does fun t => (t.clove c).machineMode ∧ (t.clove c).ran ∧
   (t.clove c).tenant = false ∧ (t.clove c).pc.toNat = s.ccsr c Csr.mtvec / 4 * 4 ∧ t.cx c 11 = s.cx c 11 ∧
   t.cx c 10 = (if isStatus (s.cx c 10) then s.cx c 10 else St.badArgument) ∧ t.mem = s.mem ∧ t.regs = s.regs) ∧
 (iOp w = 0x7B → x.machineMode → x.held = none → SMap.find x.rx (x.head % 16) = none →
  does fun t => (t.clove c).halted ∧ t.mem = s.mem ∧ t.regs = s.regs ∧ t.cores = s.cores)

/-- CB.COPY, FILL, CMP, FENCE, ATOM and TRAISE; what a chain send holds back. (R261, R263, R264, R266, R267) -/
def Obligations.CloveBulk : Prop :=
 ∀ (s : State) (c : ChanId) (word : Word), s.cloveMay c → (s.clove c).stallAt = none →
 let w := word.toNat
 let x := s.clove c
 let a := s.cx c (iRs1 w)
 let b := s.cx c (iRs2 w)
 let m := a % 16384
 let n := s.ccsr c Csr.clen / 64
 let is (op f3 f7 : Nat) := iOp w = op ∧ iF3 w = f3 ∧ iF7 w = f7
 let goes (v : Nat) (t : State) := (iRd w ≠ 0 → t.cx c (iRd w) = v % 2 ^ 32) ∧
  (∀ i, i ≠ iRd w → t.cx c i = s.cx c i) ∧ (t.clove c).pc.toNat = (x.pc.toNat + 4) % 2 ^ 32
 let ends (v : Nat) (q t : State) := goes v t ∧ t.mem = q.mem ∧ t.cores = s.cores
 let free (l : List Nat) := s.bulkOk c l ∧ s.cloveThrottle c ≠ 2
 let pat := s.ccsr c Csr.cfillLo + 2 ^ 32 * s.ccsr c Csr.cfillHi
 (is 0x0B 0 0 → free [a, b] →
  let r := s.cCopy c (s.cGran c b .read) (s.cGran c a .write) n
  ∃ t, exec (.cbCopy c word) s = .next t ∧ ends r.1 r.2.2 t) ∧ (is 0x0B 1 0 → iRs2 w = 0 → free [a] →
  let r := s.cFill c (s.cGran c a .write) pat n
  ∃ t, exec (.cbFill c word) s = .next t ∧ ends r.1 r.2.2 t ∧
   ∀ d sh, n = 1 → s.cGran c a .write 0 = some (.dev d sh) → (isScratch d → s.cLost c d = false) → d % 64 = 0 → Stored s t d 64 fun k => BitVec.ofNat 8 (pat / 256 ^ (k % 8))) ∧
 (∀ o q, is 0x0B 2 0 → free [a, b] →
  let r := s.cCmp c (s.cGran c a .read) (s.cGran c b .read) 0 n
  (r = (.same, q) → ∃ t, exec (.cbCmp c word) s = .next t ∧ ends 0xFFFFFFFF q t) ∧
  (r = (.differ o, q) → ∃ t, exec (.cbCmp c word) s = .next t ∧ ends o q t)) ∧ (s.chainOut c →
  (is 0x0B 6 0 → iRd w = 0 → iRs1 w = 0 → iRs2 w = 0 → exec (.cbFence c word) s = .next s) ∧
  (is 0x2B 0 0 → iRd w = 0 → exec (.cbTraise c word) s = .next s) ∧ (is 0x2B 1 0 → iRd w = 0 → x.machineMode → exec (.cbDone c word) s = .next s)) ∧
 (is 0x0B 6 0 → iRd w = 0 → iRs1 w = 0 → iRs2 w = 0 → s.chainOut c = false →
  ∃ t, exec (.cbFence c word) s = .next t ∧ goes 0 t ∧ (t.clove c).dirty = [] ∧ Unmoved s t ∧
   t.regs = s.regs ∧ ∀ l ∈ x.dirty, SMap.get false t.cache.lines l = false) ∧
 (∀ d sh r, iOp w = 0x0B → iF3 w = 7 → iF7 w / 16 ≤ 1 → iF7 w % 16 ≠ 0 → iF7 w % 16 ≤ 10 →
  (iF7 w / 16 = 1 → iF7 w % 16 ≤ 3) → s.cLoc c a (s.cUser c) .atomic = some (.dev d sh) → s.cLost c d = false → s.cloveThrottle c ≠ 2 →
  s.cAtomic c ((s.partOfChan c).getD 0) (iF7 w % 16) (iF7 w / 16) d b = some r →
  ∃ t, exec (.cbAtom c word) s = .next t ∧ goes (if r.status = St.ok then r.old else 0xFFFFFF00 + r.status) t ∧ t.mem = r.st.mem ∧ t.cores = s.cores) ∧
 (∀ p k, is 0x2B 0 0 → iRd w = 0 → s.chainOut c = false → s.partOfChan c = some p → s.partOfCore m = some p → s.svcLost (c / 64) (tileOf m) = false →
  (s.core m).seq.badParity.contains (parK (b % 16)) = false → (s.core m).k (b % 16) = k → k + b / 256 % 256 ≤ 0xFFFF →
  ∃ t, exec (.cbTraise c word) s = .next t ∧ goes 0 t ∧ (t.core m).k (b % 16) = k + b / 256 % 256 ∧
   (∀ j, j ≠ m → t.core j = s.core j) ∧ t.mem = s.mem ∧ t.regs = s.regs)

/-- CHSEND, CHRECV, CHPOLL, a message's arrival, a parity failure. (R268, R269, R270, R517) -/
def Obligations.CloveChain : Prop :=
 ∀ (s : State) (c : ChanId) (word : Word), s.cloveMay c → (s.clove c).stallAt = none → (s.clove c).blockAt = none →
 let w := word.toNat
 let x := s.clove c
 let a := s.cx c (iRs1 w)
 let dir := iF7 w
 let is (f3 : Nat) := iOp w = 0x0B ∧ iF3 w = f3 ∧ iF7 w ≤ 1
 let ch (f3 : Nat) (m : Option Nat) := is f3 ∧ iRs2 w = 0 ∧ a % 64 = 0 ∧ s.neighbour c dir = m
 let loc (acc : Acc) (o : Nat) := s.cLoc c a (s.cUser c) acc = some (.loc o)
 let goes (v : Nat) (t : State) := (iRd w ≠ 0 → t.cx c (iRd w) = v) ∧ (∀ i, i ≠ iRd w → t.cx c i = s.cx c i) ∧
  (t.clove c).pc.toNat = (x.pc.toNat + 4) % 2 ^ 32 ∧ Unmoved s t ∧ t.regs = s.regs
 let waits (t : State) := (t.clove c).pc = x.pc ∧ (t.clove c).x = x.x ∧ (t.clove c).wire = x.wire ∧
  (t.clove c).localMem = x.localMem ∧ Unmoved s t ∧ t.regs = s.regs
 (ch 3 none → ∃ t, exec (.cbChsend c word) s = .next t ∧ goes St.linkDown t ∧ (t.clove c).wire = x.wire) ∧ (∀ m o, ch 3 (some m) → loc .read o →
  s.chainRoom c m dir ≠ 0 → s.upsets = [.parity (256 + c.val)] →
  ∃ t msg, exec (.cbChsend c word) s = .next t ∧ (t.clove c).wire = x.wire ++ [(dir == 1, msg, 255)] ∧ t.upsets = [] ∧
   leBytes 64 msg.toNat = (s.cRead c (.loc o) 64).1 ∧ Counted s t Reg.errDevice 8) ∧ (∀ m o, ch 3 (some m) → loc .read o →
  s.chainRoom c m dir ≠ 0 → s.upsets = [] →
  ∃ t msg poi, exec (.cbChsend c word) s = .next t ∧ goes St.ok t ∧ (t.clove c).wire = x.wire ++ [(dir == 1, msg, poi)] ∧
   leBytes 64 msg.toNat = (s.cRead c (.loc o) 64).1 ∧ (x.localMem.poison = [] → x.localMem.flips = [] → poi = 0)) ∧ (∀ m o, ch 3 (some m) → loc .read o →
  s.chainRoom c m dir = 0 → ∃ t, exec (.cbChsend c word) s = .next t ∧ waits t) ∧ (ch 4 none →
  ∃ t, exec (.cbChrecv c word) s = .next t ∧ goes St.linkDown t ∧ (t.clove c).localMem = x.localMem) ∧
 (∀ m o msg poi q, ch 4 (some m) → loc .write o → x.fifo dir = (msg, poi) :: q →
  ∃ t, exec (.cbChrecv c word) s = .next t ∧ goes St.ok t ∧ (t.clove c).fifo dir = q ∧
   ∀ k, k < 64 → (t.clove c).localMem.byte (o + k) = BitVec.ofNat 8 (msg.toNat / 256 ^ k)) ∧ (∀ m o, ch 4 (some m) → loc .write o →
  x.fifo dir = [] → ∃ t, exec (.cbChrecv c word) s = .next t ∧ waits t) ∧
 (∀ m, is 5 → iRs1 w = 0 → iRs2 w = 0 → s.neighbour c dir = some m → (x.fifo dir).length ≤ 8 →
  ∃ t, exec (.cbChpoll c word) s = .next t ∧ goes ((x.fifo dir).length + 16 * s.chainRoom c m dir) t) ∧
 (∀ up m, x.wire.find? (fun m => m.1 == up) = some m → (up = false → c.val ≠ 0) →
  let n := if up then c.val + 1 else c.val - 1
  let d := if up then 0 else 1
  ((s.clove n).fifo d).length < 8 → ∃ t, exec (.chainMessageArrival c up) s = .next t ∧ (t.clove n).fifo d = (s.clove n).fifo d ++ [m.2] ∧
   (t.clove c).wire = x.wire.erase m ∧ Unmoved s t ∧ t.regs = s.regs) ∧
 (∀ up, 8 ≤ ((s.clove (if up then c.val + 1 else c.val - 1)).fifo (if up then 0 else 1)).length → exec (.chainMessageArrival c up) s = .next s)

/-- A Clove command: posted, taken, done; a tenant entry and its limit. (R271, R273, R274, R275, R279, R280) -/
def Obligations.CloveMailbox : Prop :=
 ∀ (s : State) (c : ChanId) (word : Word), s.cloveMay c → (s.clove c).stallAt = none →
 let w := word.toNat
 let x := s.clove c
 let cb (f3 : Nat) := iOp w = 0x2B ∧ iF3 w = f3 ∧ iF7 w = 0 ∧ x.machineMode
 let same (t : State) := t.cores = s.cores ∧ t.regs = s.regs
 (∀ (i : Fin 16) (r : ReqId) a, s.mboxAt c (128 + 64 * i.val) = some a → x.held = none → x.halted = false → (s.devRead a 64).2.1 = 0 →
  ∃ t, exec (.commandPost c i r) s = .next t ∧ (t.clove c).sleeping = false ∧ Unmoved s t ∧
   SMap.find (t.clove c).rx i = some (BitVec.ofNat 512 (leVal (s.devRead a 64).1), s.timebase, r.val)) ∧
 (∀ q b r, cb 2 → iRs1 w = 0 → iRs2 w = 0 → x.held = none →
  SMap.find x.rx (x.head % 16) = some (q, b, r) → slotSeq q = x.head → slotField q 7 1 = 0xFF → s.slotIllegal c q = false →
  ∃ t, exec (.cbWaitcmd c word) s = .next t ∧ (t.clove c).held = some q ∧ (iRd w ≠ 0 → t.cx c (iRd w) = x.head % 16) ∧
   (t.clove c).pc.toNat = (x.pc.toNat + 4) % 2 ^ 32 ∧ t.mem = s.mem ∧ same t) ∧
 (cb 2 → iRs1 w = 0 → iRs2 w = 0 → x.held = none → SMap.find x.rx (x.head % 16) = none →
  exec (.cbWaitcmd c word) s = .next (s.setClove c { x with sleeping := true })) ∧ (∀ q b, cb 1 → iRd w = 0 → x.held = some q → slotField q 4 1 = 0 →
  x.head < 2 ^ 32 → s.chainOut c = false → s.upsets = [] → (∀ k, k < 1152 → s.mboxAt c k = some (b + k) ∧ s.cLost c (b + k) = false ∧ s.hbmLost (b + k) = false) →
  let o := 128 + 64 * (x.head % 16)
  ∃ t, exec (.cbDone c word) s = .next t ∧ (t.clove c).held = none ∧ (t.clove c).head = (x.head + 1) % 2 ^ 32 ∧
   (t.clove c).pc.toNat = (x.pc.toNat + 4) % 2 ^ 32 ∧ t.mem.byte (b + o + 7) = BitVec.ofNat 8 (s.cx c (iRs1 w)) ∧
   (∀ k, k < 4 → t.mem.byte (b + o + 20 + k) = BitVec.ofNat 8 (s.cx c (iRs2 w) / 256 ^ k)) ∧
   t.mem.byte (b + o + 56) = 1 ∧ (∀ k, k < 4 → t.mem.byte (b + 4 + k) = BitVec.ofNat 8 ((x.head + 1) / 256 ^ k)) ∧
   same t) ∧ (∀ q g e, x.held = some q → x.program = some g → x.ran = false → x.tenant = false →
  g.entries.find? (fun e => decide (0x80 ≤ slotFunc q) && e.1 == slotFunc q - 0x80 && e.2 != 0) = some e → e.2 < 2 ^ 32 → x.head < 2 ^ 32 →
  ∃ t, exec (.tenantEntry c) s = .next t ∧ (t.clove c).machineMode = false ∧ (t.clove c).tenant ∧
   (t.clove c).pc.toNat = e.2 ∧ t.cx c 11 = x.head ∧ t.mem = s.mem ∧ same t) ∧
 (∀ g, x.program = some g → x.tenant → s.timebase ≤ x.runAt + 1000 * g.limit → exec (.tenantTimeout c) s = .next s) ∧
 (∀ g, x.program = some g → x.tenant → x.runAt + 1000 * g.limit < s.timebase →
  ∃ t, exec (.tenantTimeout c) s = .next t ∧ (t.clove c).tenant = false ∧ (t.clove c).ran ∧
   (t.clove c).machineMode ∧ t.cx c 10 = St.timeout ∧ (t.clove c).fifoUp = [] ∧ (t.clove c).fifoDn = [] ∧
   (t.clove c).wire = [] ∧ Counted s t (Reg.cloveStatus c) 0 ∧ t.mem = s.mem ∧ t.cores = s.cores)

/-- The functions of the Clove ROM; choice: log 72. (R264, R277, R300, R313) -/
def Obligations.CloveFunctions : Prop :=
 ∀ (s : State) (c : ChanId) (w : BitVec 512), s.cloveMay c → (s.clove c).stallAt = none →
 (s.clove c).held = some w → (s.clove c).ran = false → s.cloveThrottle c ≠ 2 →
 let a := slotField w 24 8
 let b := slotField w 32 8
 let n := slotField w 40 4
 let fn (f : Nat) := slotFunc w = f
 let mig (lo hi : Nat) := fn 6 ∧ a % 8 = 0 ∧ slotField w 32 4 ≠ 0 ∧ slotField w 32 4 ≤ 65536 ∧ slotField w 36 1 ≤ 15 ∧
  lo ≤ slotField w 37 1 ∧ slotField w 37 1 ≤ hi
 let post (st res : Nat) (q t : State) := t.cx c 10 = st % 2 ^ 32 ∧ t.cx c 11 = res % 2 ^ 32 ∧ (t.clove c).ran ∧
  (t.clove c).held = some w ∧ t.mem = q.mem ∧ t.cores = s.cores
 let ends (i : Instr) (st res : Nat) (q : State) := ∃ t, exec i s = .next t ∧ post st res q t
 let stops (i : Instr) (st : Nat) := ∃ t, exec i s = .next t ∧ post st 0 s t ∧ t.regs = s.regs
 (fn 1 → fnOk n [a, b] →
  let r := s.cCopy c (s.fnGran c b .read) (s.fnGran c a .write) (n / 64)
  ends (.cloveCopy c) r.1 0 r.2.2) ∧ (fn 1 → fnOk n [a, b] = false → stops (.cloveCopy c) St.badArgument) ∧ (fn 2 → fnOk n [a] →
  let r := s.cFill c (s.fnGran c a .write) b (n / 64)
  ends (.cloveFill c) r.1 0 r.2.2) ∧ (∀ o q, fn 3 → fnOk n [a, b] →
  let r := s.cCmp c (s.fnGran c a .read) (s.fnGran c b .read) 0 (n / 64)
  (r = (.same, q) → ends (.cloveCompare c) St.ok 0xFFFFFFFF q) ∧ (r = (.differ o, q) → ends (.cloveCompare c) St.ok o q)) ∧
 (let rb := slotField w 32 4
  let cnt := slotField w 36 4
  let dst := slotField w 48 8
  let r := s.gatherRows c a rb (slotField w 40 8) dst cnt
  fn 4 → fnOk rb [a, dst] → rb ≤ 4096 → cnt ≠ 0 → cnt ≤ 4096 → slotField w 40 8 % 4 = 0 → ends (.cloveGather c) r.1 r.2.1 r.2.2) ∧
 (fn 7 → slotField w 16 4 = 0 → a % 64 = 0 → b ≠ 0 → b % 2048 = 0 → (s.scrubPieces c a b = none →
   stops (.cloveScrub c) St.accessFault) ∧ ∀ ps, s.scrubPieces c a b = some ps →
  let r := s.scrubHbm c ps
  ends (.cloveScrub c) (if r.1.unc ≠ 0 then St.uncorrectable else St.ok) 0 r.2.2) ∧
 (∀ p k, fn 5 → a % 8 = 0 → slotField w 32 1 ≤ 15 → s.cloveKv c = some (p, k) →
  let r := s.pageMove c p k a (slotField w 32 1) (fun e => !plOwn e)
  ends (.clovePageCow c) r.1 (r.2.1.getD 0xFFFFFFFF) r.2.2) ∧ (∀ p k, mig 0 0 → s.cloveKv c = some (p, k) →
  let r := s.migrateHere c p k a (slotField w 36 1) (slotField w 32 4)
  ends (.cloveMigrate c) r.1 r.2.1 r.2.2) ∧ (mig 1 4 → (s.cloveKv c).isSome → (s.clove c).mig = none →
  s.neighbour c (if slotField w 37 1 = 2 ∨ slotField w 37 1 = 4 then 1 else 0) = none → stops (.cloveMigrate c) St.linkDown)

/-- What a port does with a frame. (R493, R498, R507) -/
def Obligations.FrameReceive : Prop :=
 ∀ (s : State) (q : PortId) (frame : List Byte),
 let st := (s.port q).state
 let n := frame.length
 let open_ : Prop := st = .auth ∨ st = .up ∨ st = .retraining
 let fcs : Prop := 4 ≤ n ∧ hField frame (n - 4) 4 = crc32 (frame.take (n - 4))
 let same (t : State) := Unmoved s t ∧ t.conns = s.conns
 (¬ open_ → exec (.frameReceive q frame) s = .next s) ∧ (open_ → ¬ fcs → ∃ t, exec (.frameReceive q frame) s = .next t ∧ same t ∧ t.inq = s.inq ∧
  Counted s t (Reg.portErr q) 16) ∧ (open_ → fcs → s.cxBody frame = none → ∃ t, exec (.frameReceive q frame) s = .next t ∧ same t ∧ t.inq = s.inq ∧
  t.regs = s.regs) ∧ (∀ b, open_ → fcs → s.cxBody frame = some b → hField b 10 6 ≠ s.fabricId →
  ∃ t, exec (.frameReceive q frame) s = .next t ∧ same t ∧ t.inq = s.inq ∧ Counted s t (Reg.portDrop q) 24) ∧
 (∀ b typ, open_ → fcs → s.cxBody frame = some b → ClearFrame s q b typ →
  let len := hField b 22 2
  ∃ t f, exec (.frameReceive q frame) s = .next t ∧ same t ∧ t.regs = s.regs ∧ SMap.get [] t.inq q = SMap.get [] s.inq q ++ [f] ∧
   f.typ = typ ∧ f.payload = (b.drop 72).take len ∧ f.spart = hField b 2 1 % 64 ∧ f.dpart = hField b 3 1 % 64 ∧ f.sdev = hField b 4 6 ∧
   f.seq = hField b 32 4 ∧ f.cumack = hField b 36 4 ∧ f.climit = hField b 48 4)

/-- A connection's DATA, ACK, delayed report and retransmission. (R499, R500, R501, R502, R503) -/
def Obligations.FabricData : Prop :=
 ∀ (s : State) (q : PortId) (i : Nat) (c : Conn), s.conns[i]? = some c →
 let same := Unmoved s
 (∀ f fs, SMap.get [] s.inq q = f :: fs → f.typ = 0 → s.connIdx f.dpart f.sdev f.spart f.job f.chan = some i →
  c.sent = [] → c.held = [] → c.recvInc = some f.inc → f.seq = c.expect → c.expect < 2 ^ 32 → serialLt 32 f.seq c.limit → c.unacked < 7 →
  ∃ t d, exec (.dataFrame q) s = .next t ∧ same t ∧ t.regs = s.regs ∧ SMap.get [] t.inq q = fs ∧ t.conns[i]? = some d ∧
   d.inbox = c.inbox ++ [⟨f.seq, f.payload, f.pmap, f.digest⟩] ∧ d.expect = (c.expect + 1) % 2 ^ 32 ∧
   d.unacked = c.unacked + 1 ∧ d.held = [] ∧ t.out = s.out) ∧
 (∀ f fs a, SMap.get [] s.inq q = f :: fs → f.typ = 1 → s.connIdx f.dpart f.sdev f.spart f.job f.chan = some i →
  c.cumack = some a → serialLt 32 a f.cumack → f.sack = 0 → c.sent.filter (·.sacked) = [] →
  ∃ t d, exec (.ackFrame q) s = .next t ∧ same t ∧ t.regs = s.regs ∧ SMap.get [] t.inq q = fs ∧ t.conns[i]? = some d ∧
   d.sent = c.sent.filter (fun g => !serialLe 32 g.seq f.cumack) ∧ d.cumack = some f.cumack ∧ d.timerAt = s.timebase ∧
   d.rto = d.baseRto ∧ d.inbox = c.inbox ∧ d.expect = c.expect ∧ t.out = s.out) ∧ (∀ w : Nat, c.unacked ≠ 0 →
  c.firstAt + 5000 ≤ s.timebase → s.sendWay c = .ready w none → FrameWay s w c.dev → ∃ t b d, exec (.ackDelayTimer i) s = .next t ∧ same t ∧ t.out = s.out ++ [.frame w b] ∧ t.conns[i]? = some d ∧
   d.unacked = 0 ∧ d.told = c.limit ∧ d.sent = c.sent) ∧ (s.timebase < c.firstAt + 5000 → exec (.ackDelayTimer i) s = .next s) ∧
 (∀ w f, s.sendWay c = .ready w none → FrameWay s w c.dev → c.timerAt + c.rto ≤ s.timebase → c.sent.find? (fun f => !f.sacked) = some f →
  ∃ t b d, exec (.retransmitTimeout i) s = .next t ∧ same t ∧ t.out = s.out ++ [.frame w b] ∧ t.conns[i]? = some d ∧
   d.rto = min (2 * c.rto) 10000000 ∧ d.timerAt = s.timebase ∧ d.sent = c.sent.map (fun g => if g.seq = f.seq then { g with once := false } else g)) ∧
 (s.timebase < c.timerAt + c.rto → exec (.retransmitTimeout i) s = .next s)

/-- A peer session: KEY_EXCHANGE, FINISH, heartbeats, absence, idleness; choice: log 75. (R504, R505, R510, R512) -/
def Obligations.PeerSessions : Prop :=
 ∀ (s : State) (q : PortId),
 let same (t : State) := Unmoved s t ∧ t.conns = s.conns
 (∀ f fs, SMap.get [] s.inq q = f :: fs → f.typ = 2 → f.sealed_ = false → hField f.payload 1 1 = spdmKeyExchange →
  s.session f.sdev = none → s.sessions.length < 256 → Config.peerOk f.sdev f.payload →
  ∃ t x, exec (.keyExchange q) s = .next t ∧ same t ∧ SMap.get [] t.inq q = fs ∧ t.session f.sdev = some x ∧
   x.phase = .answered ∧ x.req = false ∧ x.port = q ∧ x.missed = 0) ∧
 (∀ f fs, SMap.get [] s.inq q = f :: fs → f.typ = 2 → f.sealed_ = false → hField f.payload 1 1 = spdmKeyExchange →
  s.session f.sdev = none → s.sessions.length < 256 → Config.peerOk f.sdev f.payload = false →
  ∃ t, exec (.keyExchange q) s = .next t ∧ same t ∧ t.session f.sdev = none ∧ SMap.get [] t.inq q = fs ∧ Counted s t (Reg.portErr q) 8) ∧
 (∀ f fs x, SMap.get [] s.inq q = f :: fs → f.typ = 2 → f.sealed_ = false → hField f.payload 1 1 = spdmFinish →
  s.session f.sdev = some x → x.phase = .answered → x.req = false → Config.peerOk f.sdev f.payload →
  ∃ t y, exec (.finish q) s = .next t ∧ same t ∧ SMap.get [] t.inq q = fs ∧ t.session f.sdev = some y ∧ y.phase = .open_ ∧ y.missed = 0) ∧
 (∀ f fs x, Message s q 1 f fs → s.session f.sdev = some x →
  ∃ t, exec (.heartbeat q) s = .next t ∧ same t ∧ t.regs = s.regs ∧ SMap.get [] t.inq q = fs ∧ t.session f.sdev = some { x with missed := 0 }) ∧
 (∀ x, s.sessions = [x] → x.phase = .open_ → (s.portsTo x).all (fun w => (s.port w).state == .retraining) = false →
  ∃ t y, exec .heartbeatSend s = .next t ∧ same t ∧ t.regs = s.regs ∧ t.sessions = [y] ∧ y.dev = x.dev ∧ y.missed = x.missed + 1 ∧ y.tx = x.tx + 1) ∧
 (∀ (dev : Addr) x, s.session dev.toNat = some x → x.phase = .open_ → 10 ≤ x.missed → s.appq = [] → NoPortWaits s →
  ∃ t, exec (.peerAbsent dev) s = .next t ∧ same t ∧ t.regs = s.regs ∧ t.session dev.toNat = none) ∧
 (∀ (dev : Addr) x, s.session dev.toNat = some x → x.usedAt + 10000000000 ≤ s.timebase → s.appq = [] → NoPortWaits s →
  exec (.sessionIdleTimeout dev) s = .next (s.dropSession x.dev)) ∧
 (∀ (dev : Addr) x d w msg rest, s.session dev.toNat = some x → x.usedAt + 10000000000 ≤ s.timebase → s.sessions.length ≤ 256 → NoPortWaits s →
  s.appq = (d, w, msg) :: rest → (s.dropSession x.dev).session d = none →
  ∃ t y, exec (.sessionIdleTimeout dev) s = .next t ∧ same t ∧ t.appq = s.appq ∧ t.session d = some y ∧ y.phase = .asked ∧ y.req ∧ y.port = w) ∧
 (∀ (dev : Addr) x, s.session dev.toNat = some x → s.timebase < x.usedAt + 10000000000 → exec (.sessionIdleTimeout dev) s = .next s)

/-- ANNOUNCE, ANNOUNCE_ACK and the repeat. (R465, R466, R467, R505, R506) -/
def Obligations.LinkAnnouncements : Prop :=
 ∀ (s : State) (q : PortId),
 let same (t : State) := Unmoved s t ∧ t.conns = s.conns
 (∀ f fs k, Message s q 2 f fs →
  let dp := hField f.payload 2 1
  let job := hField f.payload 4 2
  let epoch := hField f.payload 6 2
  (s.rec_ dp).valid → (s.linkSlots dp job .active).find? (fun k => (s.key k).epoch == epoch) = some k →
  ∃ t y, exec (.announce q) s = .next t ∧ same t ∧ t.regs = s.regs ∧ SMap.get [] t.inq q = fs ∧ y ∈ t.recvKeys ∧ y.part = dp ∧
   y.dev = f.sdev ∧ y.peerPart = hField f.payload 1 1 ∧ y.job = job ∧ y.epoch = epoch ∧ y.slot = k ∧
   y.key = linkKey (s.key k).material (hField f.payload 8 16) (Config.peerSerial f.sdev) job epoch) ∧ (∀ f fs, Message s q 2 f fs →
  (s.rec_ (hField f.payload 2 1)).valid → (s.linkSlots (hField f.payload 2 1) (hField f.payload 4 2) .active).find?
   (fun k => (s.key k).epoch == hField f.payload 6 2) = none → ∃ t, exec (.announce q) s = .next t ∧ same t ∧ t.recvKeys = s.recvKeys ∧
   Counted s t (Reg.portDrop q) 0) ∧ (∀ f fs k, Message s q 3 f fs → (s.rec_ (hField f.payload 2 1)).valid →
  (s.linkSlots (hField f.payload 2 1) (hField f.payload 4 2) .active).find? (fun k => (s.key k).epoch == hField f.payload 6 2) = some k →
  ∃ t, exec (.announceAck q) s = .next t ∧ same t ∧ t.regs = s.regs ∧ SMap.get [] t.inq q = fs ∧
   (t.key k).acked.contains (f.sdev, hField f.payload 1 1) ∧ ∀ j, j ≠ k → t.key j = s.key j) ∧
 (∀ (k : KeyId) p y x, s.partOfKey k = some p → s.keysOf p = [k.val] → (s.key k).state = .active → (s.key k).kind = 0 →
  s.jobPeers p (s.key k).job = [y] → (s.key k).acked.contains y = false → s.session y.1 = some x → FrameWay s x.port y.1 →
  (s.port x.port).state = .up → (s.key k).announcedAt + 100000000 ≤ s.timebase → ∃ t b, exec (.announceRepeat k) s = .next t ∧ same t ∧
  t.regs = s.regs ∧ t.key k = { s.key k with announcedAt := s.timebase } ∧ (∀ j : Nat, j ≠ k → t.key j = s.key j) ∧ t.out = s.out ++ [.frame x.port b]) ∧
 (∀ k : KeyId, s.timebase < (s.key k).announcedAt + 100000000 → exec (.announceRepeat k) s = .next s)

/-- A port's states. (R507, R508, R509, R510) -/
def Obligations.PortStates : Prop :=
 ∀ (s : State) (q : PortId) (a : Addr),
 let x := s.port q
 let same := Unmoved s
 let goes (i : Instr) (st : PortState) (P : Port → Prop) := ∃ t, exec i s = .next t ∧ same t ∧ t.regs = s.regs ∧ (t.port q).state = st ∧ P (t.port q)
 (x.state = .training → x.switched → goes (.linkUp q a) .up fun _ => True) ∧
 (x.state = .training → x.switched = false →
  (s.sessionUp a.toNat = false → goes (.linkUp q a) .auth fun y => y.partner = a.toNat ∧ y.attemptAt = s.timebase) ∧
  (s.sessionUp a.toNat → goes (.linkUp q a) .up (·.peerAuth))) ∧ (x.state = .retraining → x.training → x.switched →
  goes (.linkUp q a) .up (·.training = false)) ∧ (x.state = .absent → goes (.signalDetect q) .training fun _ => True) ∧
 (x.state = .training ∨ x.state = .auth ∨ x.state = .up ∨ x.state = .retraining → goes (.signalLossTimeout q) .absent fun _ => True) ∧
 (∀ fec : Nat, x.state = .up → (x.faultAt.filter (fun t => decide (s.timebase < t + 60000000000))).length < 3 →
  ∃ t, exec (.portFaultEvent q fec) s = .next t ∧ same t ∧ (t.port q).state = .retraining ∧
   bits (t.reg (Reg.portErr q)) 24 8 = min (bits (s.reg (Reg.portErr q)) 24 8 + fec) 255) ∧
 (∀ fec : Nat, x.state = .up ∨ x.state = .training ∨ x.state = .retraining →
  3 ≤ (x.faultAt.filter (fun t => decide (s.timebase < t + 60000000000))).length →
  ∃ t, exec (.portFaultEvent q fec) s = .next t ∧ same t ∧ (t.port q).state = .quarantined ∧ (t.port q).qcause = 1) ∧
 (x.switched = false → x.peerAuth = false → x.state = .auth → x.fabric → x.linkUp → x.attemptAt + 100000000 ≤ s.timebase →
  (2 ≤ x.fails → goes (.partnerSessionRetry q) .quarantined (·.qcause = 2)) ∧
  (x.fails < 2 → goes (.partnerSessionRetry q) .auth (·.fails = x.fails + 1))) ∧
 (s.timebase < x.attemptAt + 100000000 → exec (.partnerSessionRetry q) s = .next s)

/-- A collective instance: start, segments, limit, end. (R326, R327, R329, R331, R333, R503) -/
def Obligations.Collectives : Prop :=
 ∀ (s : State) (x : CtxId) (p : Nat) (e : CollEntry), s.collEntry x = some (p, e) →
 let c := s.coll x
 let same := Unmoved s
 let sends (g : Nat × Nat × Nat) (i : Nat) (cn : Conn) (q : Nat) := segAt e.sends e c.sendIdx = some g ∧ c.running ∧ c.dead = false ∧ (s.part p).replayLog = false ∧
  s.sendConnIdx p e = some i ∧ s.conns[i]? = some cn ∧ s.sendWay cn = .ready q none ∧ FrameWay s q cn.dev
 s.dev ≠ .hold → (c.running = false → s.engineMay p → (e.count = 0 ∨ c.next < e.count) → e.step0 + c.next * e.period ≤ s.stepOf p →
  ∃ t, exec (.collInstanceStart x) s = .next t ∧ t.mem = s.mem ∧ (t.coll x).running ∧ (t.coll x).inst = c.next ∧
   (t.coll x).next = c.next + 1 ∧ (t.coll x).startAt = s.timebase ∧ (t.coll x).sendIdx = 0 ∧ (t.coll x).recvIdx = 0 ∧
   bits (t.reg (Reg.collStatus x)) 29 3 = 2) ∧ (∀ g i cn q bs m, sends g i cn q → c.credAt = none → e.log = false → serialLt 32 cn.sendSeq cn.climit →
  SMap.find c.ready c.sendIdx = some (bs, m) → ∃ t f d, exec (.collSegmentSend x) s = .next t ∧ same t ∧ t.out = s.out ++ [.frame q f] ∧
   (t.coll x).sendIdx = c.sendIdx + 1 ∧ t.conns[i]? = some d ∧ d.sendSeq = (cn.sendSeq + 1) % 2 ^ 32 ∧
   (d.sent.map (·.seq)) = (cn.sent.map (·.seq)) ++ [cn.sendSeq]) ∧ (∀ g i cn q, sends g i cn q → serialLt 32 cn.sendSeq cn.climit = false →
  exec (.collSegmentSend x) s = .next (s.setColl x { c with credAt := c.credAt.or (some s.timebase) })) ∧
 (∀ (w : DWord) ph b k i j cn f fs, s.recvConnIdx p e = some i → s.conns[i]? = some cn → cn.inbox = f :: fs → TakesSegment s x p e cn f ph b k j →
  s.upsets = [] →
  ∃ t d, exec (.collSegmentReceive x w) s = .next t ∧ same t ∧ t.regs = s.regs ∧ (t.coll x).recvIdx = c.recvIdx + 1 ∧
   (t.coll x).ready = SMap.put c.ready j (f.bytes, 0) ∧ (t.coll x).status = c.status ∧ t.conns[i]? = some d ∧ d.inbox = fs) ∧
 (∀ (w : DWord) i cn f fs l, s.recvConnIdx p e = some i → s.conns[i]? = some cn → cn.inbox = f :: fs → oldSegment c e f = some l →
  cn.expect ≠ cn.told → cn.held = [] →
  exec (.collSegmentReceive x w) s = .next ((s.setConn i { cn with inbox := fs, oldIn := cn.oldIn - 1 }).setColl x { c with old := l })) ∧
 (c.running → c.startAt + e.limitNs ≤ s.timebase →
  exec (.collLimitExpiry x) s = .next (s.setColl x { c with dead := true, status := worseColl c.status St.timeout })) ∧
 (s.timebase < c.startAt + e.limitNs → exec (.collLimitExpiry x) s = .next s) ∧
 (∀ i cn, c.running → c.dead = false → CollDone c e → s.sendConnIdx p e = some i → s.conns[i]? = some cn → cn.sent = [] → c.rotate = false → (e.tgran ≠ 0 ∨ e.tcnt = 0) → c.status < 32 →
  ∃ t, exec (.collInstanceEnd x) s = .next t ∧ same t ∧ (t.coll x).running = false ∧ bits (t.reg (Reg.collStatus x)) 24 5 = c.status ∧
   bits (t.reg (Reg.collStatus x)) 29 3 = (if e.count ≠ 0 ∧ e.count ≤ c.next then 3 else 1))

/-- A suspect notice, counted once and set in a written record; a step log record. (R322, R333, R335, R505) -/
def Obligations.SuspectAndStepLog : Prop :=
 ∀ (s : State) (q : PortId) (p : PartId), NetUp s →
 (∀ f fs, Message s q 4 f fs →
  let d := hField f.payload 2 1
  let id := hField f.payload 3 1
  let step := hField f.payload 8 8
  let y := s.part d
  let again := y.suspects.contains (id, step)
  let written := y.logRecs.find? (fun r => decide (r.1 ≤ step) && decide (step < r.2.1))
  (s.rec_ d).valid → id < 64 → y.noticed.contains (id, step) = false → ∃ t, exec (.notice q) s = .next t ∧ t.cores = s.cores ∧ SMap.get [] t.inq q = fs ∧
   bits (t.reg (Reg.suspect d)) 0 6 = id ∧ bits (t.reg (Reg.suspect d)) 7 1 = 1 ∧
   bits (t.reg (Reg.suspect d)) 16 16 = min (bits (s.reg (Reg.suspect d)) 16 16 + (if again then 0 else 1)) 65535 ∧
   t.reg (Reg.suspectLo d) = BitVec.ofNat 32 step ∧ t.reg (Reg.suspectHi d) = BitVec.ofNat 32 (step / 2 ^ 32) ∧
   (t.part d).suspectSteps = (if again ∨ step < y.logBound.1 then y.suspectSteps else y.suspectSteps ++ [step]) ∧
   (again ∨ written = none → t.mem = s.mem) ∧ (∀ r a w, again = false → written = some r →
    s.translate d (y.facet.glob.stepLogBase + 64 * (r.2.2.1 % 2 ^ y.facet.glob.stepLogK)) .write = some (a, w) → a % 64 = 0 →
    s.upsets = [] → t.mem.byte (a + 12) = BitVec.ofNat 8 (r.2.2.2 ||| 1) ∧ SameBut s t a 64)) ∧ (∀ f fs, Message s q 4 f fs →
  (s.rec_ (hField f.payload 2 1)).valid → (s.part (hField f.payload 2 1)).noticed.contains (hField f.payload 3 1, hField f.payload 8 8) →
  exec (.notice q) s = .next { s with inq := SMap.set [] s.inq q fs }) ∧
 (∀ a w, (s.part p).facet.glob.stepLogK ≠ 0 → (s.part p).logBound.1 < s.stepOf p → (s.part p).lastMark.isSome →
  s.translate p ((s.part p).facet.glob.stepLogBase +
   64 * ((s.part p).stepLogPos % 2 ^ (s.part p).facet.glob.stepLogK)) .write = some (a, w) → a % 64 = 0 → s.upsets = [] →
  ∃ t, exec (.stepLogWrite p) s = .next t ∧ t.cores = s.cores ∧ t.regs = s.regs ∧
   (t.part p).stepLogPos = (s.part p).stepLogPos + 1 ∧ (t.part p).logBound.1 = s.stepOf p ∧
   (∀ k, k < 8 → t.mem.byte (a + k) = BitVec.ofNat 8 ((s.part p).logBound.1 / 256 ^ k)) ∧ SameBut s t a 64)

/-- Passes, reports, expulsion, divergence, a late interval, the recovery window. (R336, R338, R339, R340, R531) -/
def Obligations.ReplicaGroups : Prop :=
 ∀ (s : State) (q : PortId) (p : PartId) (g : ReplicaGroup),
 let same := Unmoved s
 let does (i : Instr) (P : State → Prop) := ∃ t, exec i s = .next t ∧ same t ∧ P t
 let app (m : Nat) (f : RxFrame) (fs : List RxFrame) := Message s q m f fs ∧ hField f.payload 2 1 = p ∧ (s.rec_ p).valid
 (s.part p).facet.replica = some g → (PassDue s p g → (s.part p).pass = none →
  does (.replicaPassStart p) fun t => t.regs = s.regs ∧ (t.part p).pass = some (s.stepOf p / g.every) ∧
   ∀ n ∈ s.coresOf p, (t.slice n).pass = some ⟨0, 0, 0, 0, false, false⟩) ∧
 (∀ j, PassDue s p g → (s.part p).pass = some j →
  does (.replicaPassStart p) fun t => (t.part p).pass = some (s.stepOf p / g.every) ∧ Counted s t (Reg.replica p) 0 ∧
   (t.part p).late = (s.part p).late ++ [j] ∧ (t.part p).reports = (s.part p).reports.filter (fun r => r.interval != j)) ∧
 ((s.part p).pass.isSome → (∀ n ∈ s.coresOf p, ∀ k, (s.slice n).pass = some k → k.fin) → (∀ c ∈ s.chansOf p, ∀ k, (s.chan c).pass = some k → k.fin) →
  ∃ t, exec (.replicaPassEnd p) s = .next t ∧ t.mem = s.mem ∧ (t.part p).pass = none ∧
   (∀ n ∈ s.coresOf p, (t.slice n).pass = none) ∧ ∀ c ∈ s.chansOf p, (t.chan c).pass = none) ∧
 (∀ f fs m, app 5 f fs → Reports s p g f.sdev m f.payload →
  let rs := (s.part p).reports ++ [⟨m, hField f.payload 8 8, some (hField f.payload 16 8)⟩]
  (s.setPart p { s.part p with reports := rs }).dueCompare = none →
  does (.replica q) fun t => t.regs = s.regs ∧ SMap.get [] t.inq q = fs ∧ (t.part p).reports = rs) ∧
 (∀ f fs, app 5 f fs → (s.part p).late.contains (hField f.payload 8 8) → exec (.replica q) s = .next { s with inq := SMap.set [] s.inq q fs }) ∧
 (∀ f fs, app 6 f fs → g.group = hField f.payload 4 2 → hField f.payload 6 1 < 16 → (∀ r : Nat, (s.part r).reports = []) →
  does (.expel q) fun t => SMap.get [] t.inq q = fs ∧ bits (t.reg (Reg.replica p)) (16 + hField f.payload 6 1) 1 = 0 ∧
   ∀ m, m < 16 → m ≠ hField f.payload 6 1 → t.active p m = s.active p m) ∧
 (∀ i a b da db, i + 2 ≤ s.stepOf p / g.every → (s.part p).reports = [⟨a, i, some da⟩, ⟨b, i, some db⟩] →
  (∀ r : Nat, r ≠ p.val → (s.part r).reports = []) → s.active p a → s.active p b → da ≠ db →
  does (.replicaIntervalDeadline p) fun t => bits (t.reg (Reg.replica p)) 9 1 = 1 ∧
   (t.part p).reports = [] ∧ (t.part p).compared = max (s.part p).compared (i + 1)) ∧
 (s.windowOpen p → s.loupe.handover = false → (s.part p).recoveryAt + 1000000000 ≤ s.timebase →
  exec (.recoveryWindowClose p) s = .next (s.setField (Reg.recovery p) 31 1 0)) ∧
 (s.timebase < (s.part p).recoveryAt + 1000000000 → exec (.recoveryWindowClose p) s = .next s)

/-- A ring enabled, drained, disabled; its doorbells. (R396, R401, R402, R403, R415) -/
def Obligations.HostRings : Prop :=
 ∀ (s : State) (f : FuncId) (r : RingId) (v : Word),
 let x := s.ring r
 let o := Reg.ringCtrl r
 let w := (v ||| 0x80000000) &&& 0xFFFFFE00
 let same (t : State) := Unmoved s t ∧ t.loupe.inflight = s.loupe.inflight ∧ ∀ k : Nat, k ≠ r → t.ring k = s.ring k
 let does (i : Instr) (P : State → Prop) := ∃ t, exec i s = .next t ∧ same t ∧ P t
 (s.funcUp f = false → exec (.ringEnable f r v) s = .next s ∧ exec (.ringDisable f r v) s = .next s ∧
  exec (.sqTail f r v) s = .next s ∧ exec (.cqHead f r v) s = .next s) ∧ (s.funcUp f → x.state = .disabled → s.ringValid r w →
  does (.ringEnable f r v) fun t => t.reg o = w ∧ t.ring r = { HostRing.reset with state := .active } ∧ t.out = s.out) ∧
 (s.funcUp f → x.state = .disabled → s.ringValid r w = false → bits (s.reg Reg.errInfo) 31 1 = 0 →
  does (.ringEnable f r v) fun t => bits (t.reg o) 31 1 = 0 ∧ (t.ring r).state = .disabled ∧
   bits (t.reg Reg.errInfo) 24 4 = 6 ∧ t.reg Reg.errAddr = BitVec.ofNat 32 o ∧ bits (t.reg Reg.hostEvent) 1 1 = 1) ∧
 (s.funcUp f → x.state = .active → v &&& 0x7FFFFE00 = s.reg o &&& 0x7FFFFFFF →
  does (.ringDisable f r v) fun t => bits (t.reg o) 31 1 = 0 ∧ t.ring r = { x with state := .draining }) ∧
 (x.state = .draining → s.ringInflight r = 0 → x.waiting = [] →
  exec (.ringDrained r) s = .next (s.setRing r { x with state := .disabled, mboxes := [] })) ∧
 (s.funcUp f → s.ringFunc r = f → x.state = .active → v.toNat < s.sqSize r →
  does (.sqTail f r v) fun t => t.regs = s.regs ∧ t.ring r = { x with sqTail := v.toNat }) ∧
 (s.funcUp f → s.ringFunc r = f → x.state = .active → v.toNat < s.cqSize r →
  does (.cqHead f r v) fun t => t.regs = s.regs ∧ t.ring r = { x with cqHead := v.toNat }) ∧
 (s.funcUp f → s.ringFunc r = f → s.sqSize r ≤ v.toNat → bits (s.reg Reg.errInfo) 31 1 = 0 →
  does (.sqTail f r v) fun t => t.ring r = x ∧ bits (t.reg Reg.errInfo) 24 4 = 4 ∧
   bits (t.reg Reg.errInfo) 29 2 = 1 ∧ t.reg Reg.errAddr = BitVec.ofNat 32 (0x2000 * r))

/-- The host's register reads and writes. (R219, R390, R391, R392, R396, R399, R415, R556) -/
def Obligations.HostRegisters : Prop :=
 ∀ (s : State) (f : FuncId), s.funcUp f →
 let same (t : State) := Unmoved s t ∧ t.loupe.inflight = s.loupe.inflight
 let does (i : Instr) (P : State → Prop) := ∃ t, exec i s = .next t ∧ same t ∧ P t
 (∀ (line : BitVec 20) (i : Fin 16),
  let o := 64 * line.toNat + 4 * i.val
  does (.registerReadClear f false line (15 <<< (4 * i.val))) fun t => t.out = s.out ++ [.completion f (leBytes 4 (s.readFull f o).1.toNat) 0] ∧ t.regs = (s.readFull f o).2.regs) ∧
 (∀ (line : BitVec 20) (i : Fin 16) (k : Fin 15) (d : BitVec 512), k.val ≠ 0 → bits (s.reg Reg.errInfo) 31 1 = 0 →
  does (.registerWrite f false line (BitVec.ofNat 64 k.val <<< (4 * i.val)) d) fun t => bits (t.reg Reg.errInfo) 24 4 = 1 ∧ bits (t.reg Reg.errInfo) 29 2 = 0 ∧ bits (t.reg Reg.errInfo) 28 1 = f) ∧
 (∀ (line : BitVec 20) (i : Fin 16) (d : BitVec 512), exec (.registerWrite f false line (15 <<< (4 * i.val)) d) s =
   .next ((s.countRx f 4).writeLogged f (64 * line.toNat + 4 * i.val) (d.extractLsb' (32 * i.val) 32))) ∧ (∀ (g : FuncId) (d : BitVec 512),
  let v := d.extractLsb' 128 32
  does (.registerWrite f false (BitVec.ofNat 20 (0x404 + g.val)) 0xF0000 d) fun t => t.out = s.out ∧
   t.reg (Reg.eventVec g) = (s.reg (Reg.eventVec g) &&& 0x7FFFF800) ||| (v &&& 0x800007FF) ∧ ∀ o, o ≠ Reg.eventVec g → t.reg o = s.reg o) ∧
 (∀ (n : CoreId) (v : Word), bits v 26 1 = 0 → bits v 0 4 = 0 → bits v 31 1 = 1 → bits v 27 4 ≤ 9 →
  does (.sliceLayerWrite f n v) fun t => bits (t.reg (Reg.sliceLayer n)) 31 1 = 1 ∧
   bits (t.reg (Reg.sliceLayer n)) 27 4 = bits v 27 4 ∧ bits (t.reg (Reg.sliceLayer n)) 26 1 = 0 ∧
   bits (t.reg (Reg.sliceLayer n)) 22 4 = bits v 22 4 ∧ (∀ k, 10 ≤ k → k < 20 → bits v k 1 = 1 → bits (t.reg (Reg.sliceLayer n)) k 1 = 0) ∧
   ∀ o, o ≠ Reg.sliceLayer n → t.reg o = s.reg o) ∧ (∀ (p : PartId) (v : Word), bits v 31 1 = 0 → bits v 0 2 ≠ bits (s.reg (Reg.clkPart p)) 0 2 →
  s.partIn p [.running, .paused] = false → bits (s.reg (Reg.clkPart p)) 31 1 = 0 →
  does (.clkPartWrite f p v) fun t => bits (t.reg (Reg.clkPart p)) 0 2 = bits v 0 2 ∧
   bits (t.reg (Reg.clkPart p)) 31 1 = 1 ∧ ∀ o, o ≠ Reg.clkPart p → t.reg o = s.reg o) ∧
 (∀ (p : PartId) (v : Word), bits v 0 2 ≠ bits (s.reg (Reg.clkPart p)) 0 2 → s.partIn p [.running, .paused] → bits (s.reg Reg.errInfo) 31 1 = 0 →
  does (.clkPartWrite f p v) fun t => t.reg (Reg.clkPart p) = s.reg (Reg.clkPart p) ∧
   bits (t.reg Reg.errInfo) 24 4 = 3 ∧ t.reg Reg.errAddr = BitVec.ofNat 32 (Reg.clkPart p))

/-- Configuration, PERST#, links, the lane map; link 0 beside a Loupe on the other die. (R24, R385, R386, R387, R488, R489, R490, R521, R631) -/
def Obligations.HostLinks : Prop :=
 ∀ (s : State) (f : FuncId),
 let l := s.loupe
 let same (t : State) := Unmoved s t ∧ t.parts = s.parts
 let does (i : Instr) (P : State → Prop) := ∃ t, exec i s = .next t ∧ same t ∧ P t
 (∀ (o : Fin 4096) w, s.dev = .cold → exec (.configRequest f o w) s = .next (s.send (.completion f [] 2))) ∧
 (s.dev ≠ .cold → s.funcExists f → SMap.get false l.perst f = true → s.linkMay → (s.cfgHeld f 0 = 0 →
   does (.configRequest f 0 none) fun t => t.out = s.out ++ [.completion f [0xA5, 0x1F, 0x02, 0x0C] 0] ∧ t.regs = s.regs) ∧
  ∀ v, does (.configRequest f 0x10 (some v)) fun t => t.cfgHeld f 0x10 = v &&& 0xFC000000 ∧ t.out = s.out ++ [.completion f [] 0]) ∧
 (s.dev ≠ .cold → s.funcExists f → does (.perstAssert f) fun t => t.reg (Reg.aptCtrl f) = regReset (Reg.aptCtrl f) ∧
   t.reg (Reg.aptBaseLo f) = regReset (Reg.aptBaseLo f) ∧ t.reg (Reg.eventVec f) = regReset (Reg.eventVec f) ∧
   SMap.get false t.loupe.perst f = false ∧ SMap.get false t.loupe.linkUp f = false) ∧ (s.dev ≠ .cold → s.funcExists f →
  does (.perstRelease f) fun t => t.regs = s.regs ∧ SMap.get false t.loupe.perst f = true ∧
   SMap.get false t.loupe.linkUp f = (s.linkMay || SMap.get false l.linkUp f)) ∧
 (∀ a b, SMap.find l.strap 8 = some a → SMap.find l.strap 9 = some b → (a = 8 → b ≠ 8 → s.linkMay) ∧ (a ≠ 8 → b = 8 → s.linkMay = false)) ∧
 (s.linkMay = false → s.dev ≠ .cold → ∀ o w, exec (.configRequest f o w) s = .next s) ∧
 exec (.pcieLinkDown f) s = .next { s with loupe := { l with linkUp := SMap.set false l.linkUp f false } } ∧
 (∀ m : Fin 4, s.funcUp f → l.mapBusy = false → laneMapOk (s.setField Reg.laneMapCtrl 8 2 m).stagedMap = false →
  does (.laneMapCommit f m) fun t => bits (t.reg Reg.laneMapCtrl) 0 8 = St.badArgument ∧ t.loupe.mapBusy = false ∧ t.flash = s.flash) ∧
 (∀ m : Fin 4, s.funcUp f → l.mapBusy = false → laneMapOk (s.setField Reg.laneMapCtrl 8 2 m).stagedMap →
  does (.laneMapCommit f m) fun t => t.loupe.mapBusy ∧ t.loupe.mapRec = (s.setField Reg.laneMapCtrl 8 2 m).stagedMap ∧ t.flash = s.flash) ∧
 (l.mapBusy → does (.laneMapCommitDone true true) fun t => t.loupe.mapBusy = false ∧
  t.flashRec 0 0x1000 = l.mapRec ∧ t.flashRec 1 0x1000 = l.mapRec ∧ bits (t.reg Reg.laneMapCtrl) 0 8 = St.ok)

/-- The memory aperture's reads, writes and refusals. (R415, R416, R417, R418) -/
def Obligations.HostAperture : Prop :=
 ∀ (s : State) (f : FuncId) (o : BitVec 36), s.funcUp f →
 let same (t : State) := t.cores = s.cores ∧ t.loupe.inflight = s.loupe.inflight ∧ t.parts = s.parts
 let does (i : Instr) (P : State → Prop) := ∃ t, exec i s = .next t ∧ same t ∧ P t
 (∀ n : Fin 4097, n.val ≠ 0 → s.aptShut f →
  does (.apertureRead f o n) fun t => t.mem = s.mem ∧ t.out.getLast? = some (.completion f [] 4) ∧
   bits (t.reg Reg.hostEvent) 0 1 = 1) ∧ (∀ n : Fin 4097, n.val ≠ 0 → s.aptShut f = false → s.aptPieces f o.toNat n.val false = none →
  bits (s.reg Reg.errInfo) 31 1 = 0 → does (.apertureRead f o n) fun t => t.mem = s.mem ∧ t.out.getLast? = some (.completion f [] 4) ∧
   bits (t.reg Reg.errInfo) 24 4 = 7 ∧ bits (t.reg Reg.errInfo) 29 2 = 2) ∧
 (∀ (n : Fin 4097) d, n.val ≠ 0 → s.aptShut f = false → s.aptPieces f o.toNat n.val false = some [(d, 0, n.val)] →
  let r := (s.noteGated (s.aptGated f d false)).ccRead (s.aptPart f) d n.val
  does (.apertureRead f o n) fun t => t.mem = r.2.2.mem ∧ t.out.getLast? = some (.completion f r.1 (if r.2.1 = 0 then 0 else 1))) ∧
 (∀ (data : List Byte) ep d, data ≠ [] → s.aptShut f = false →
  s.aptPieces f o.toNat data.length true = some [(d, 0, data.length)] → d % unitBytes d = 0 → s.upsets = [] → data.length % unitBytes d = 0 → s.hbmLost d = false →
  does (.apertureWrite f o data ep) fun t => Stored s t d data.length fun k => data.getD k 0) ∧
 (∀ (data : List Byte) ep, data ≠ [] → s.aptShut f →
  does (.apertureWrite f o data ep) fun t => t.mem = s.mem ∧ bits (t.reg Reg.hostEvent) 0 1 = 1)

/-- Entries fetched, MCTP requests, refusals, completions, the interrupt timer. (R400, R404, R405, R406, R407, R408, R423, R424, R477) -/
def Obligations.CommandIntake : Prop :=
 ∀ (s : State) (e : BitVec 512) (r : RingId),
 let x := s.ring r
 let l := s.loupe
 let same (t : State) := Unmoved s t ∧ t.parts = s.parts
 let open_ : Prop := s.dev ≠ .cold ∧ l.handover = false ∧ l.inflight.length < 512 ∧ s.nextRing = some r.val
 (open_ → ∃ t c, exec (.sqEntryFetch .ok e) s = .next t ∧ same t ∧ (t.ring r).sqHead = (x.sqHead + 1) % s.sqSize r ∧
  t.loupe.inflight = l.inflight ++ [c] ∧ c.via = .ring r ∧ c.entry = e ∧ c.opcode = ef e 0 1 ∧ c.cid = ef e 2 2 ∧
  c.at_ = s.timebase ∧ c.begun = false ∧ t.regs = s.regs ∧ t.out = s.out ++ [.hostRead (s.ringFunc r) (s.sqAddr r x.sqHead) 64]) ∧
 (open_ → ∃ t, exec (.sqEntryFetch .poisoned e) s = .next t ∧ same t ∧ (t.ring r).state = .error ∧ (t.ring r).fetchErr = 1 ∧
  (t.ring r).sqHead = x.sqHead ∧ t.loupe.inflight = l.inflight ∧ bits (t.reg Reg.hostEvent) 2 1 = 1) ∧
 (s.dev ≠ .cold → l.handover = false → l.inflight.any (fun c => c.via == .mctp) = false →
  ∃ t c, exec (.mctpRequest e) s = .next t ∧ same t ∧ t.loupe.inflight = l.inflight ++ [c] ∧ c.via = .mctp ∧ c.entry = e ∧
   c.mbox = none ∧ t.regs = s.regs) ∧ (s.dev ≠ .cold → l.handover ∨ l.inflight.any (fun c => c.via == .mctp) →
  exec (.mctpRequest e) s = .next { s with loupe := { l with mctpQ := l.mctpQ ++ [e] } }) ∧
 (∀ k c y, s.cmd k = some c → c.via = .ring r → c.result = some y → c.refused → c.mbox = none → c.at_ + 50000 ≤ s.timebase →
  ∃ t, exec (.refusedReply k) s = .next t ∧ same t ∧ t.loupe.inflight = l.inflight.eraseIdx k ∧
   (t.ring r).waiting = x.waiting ++ [⟨c.cid, y.status, y.info, 0, none⟩] ∧ t.regs = s.regs) ∧
 (∀ c rest, x.waiting = c :: rest → x.state ≠ .disabled → (x.cqTail + 1) % s.cqSize r ≠ x.cqHead →
  s.funcUp (s.ringFunc r) → x.unsignalled + 1 < bits (s.reg (Reg.ringIrq r)) 0 8 →
  ∃ t d, exec (.completionWrite r) s = .next t ∧ same t ∧ (t.ring r).waiting = rest ∧
   (t.ring r).cqTail = (x.cqTail + 1) % s.cqSize r ∧ (t.ring r).unsignalled = x.unsignalled + 1 ∧ (t.ring r).irq = s.reg (Reg.ringIrq r) ∧
   t.regs = (s.grantConsent c.grant).regs ∧ d.length = 16 ∧
   d.take 3 = leBytes 2 c.cid ++ [BitVec.ofNat 8 c.status] ∧ t.out = s.out ++ [.hostWrite (s.ringFunc r)
    ((s.reg (Reg.ringCqLo r)).toNat + 2 ^ 32 * (s.reg (Reg.ringCqHi r)).toNat + 16 * x.cqTail) d false]) ∧
 (x.unsignalled ≠ 0 → bits x.irq 16 16 ≠ 0 → x.firstAt + 1000 * bits x.irq 16 16 ≤ s.timebase →
  ∃ t, exec (.ringIrqTimer r) s = .next t ∧ same t ∧ t.ring r = { x with unsignalled := 0 })

/-- IDENTIFY, RESULT_RELEASE, REG_ACCESS and THERMAL_READ. (R12, R13, R413, R430, R431, R432, R455, R456) -/
def Obligations.SimpleCommands : Prop :=
 ∀ (s : State) (k : Nat) (c : InFlight), Fetched s k c →
 let e := c.entry
 let o := ef e 12 4
 (c.opcode = Op.identify → (s.identity c.via.caller (cmdPart c.via Op.identify e)).length = 240 ∧
  exec (.identify k) s = .next (s.ended k c ⟨St.ok, 0, s.identity c.via.caller (cmdPart c.via Op.identify e)⟩)) ∧
 (c.opcode = Op.thermal → exec (.thermalRead k) s = .next (s.ended k c ⟨St.ok, 0, s.thermalRead c.via.caller⟩)) ∧
 (∀ r, c.opcode = Op.release → c.via = .ring r →
  let b := (s.ring r).mbox (ef e 8 1 % 16)
  (b.state = .valid ∧ b.gen = o → ∃ t, exec (.resultRelease k) s = .next t ∧ ((t.ring r).mbox (ef e 8 1 % 16)).state = .free ∧ t.mem = s.mem ∧
   t.regs = s.regs ∧ Told t k ⟨St.ok, 0, []⟩ ∧ ∀ j, j < 16 → j ≠ ef e 8 1 % 16 → (t.ring r).mbox j = (s.ring r).mbox j) ∧
  (b.state ≠ .valid ∨ b.gen ≠ o → exec (.resultRelease k) s = .next (s.ended k c ⟨St.badArgument, 0, []⟩))) ∧ (c.opcode = Op.reg → ef e 8 1 = 0 →
  let r := s.readRun (reqOfVia c.via) o (ef e 9 1)
  let may : Prop := ∀ p, c.via.caller = some p → ∀ i, i < ef e 9 1 → s.mayRead p (o + 4 * i)
  (regArgs e 60 → may → exec (.regAccessRead k) s = .next (r.2.ended k c ⟨St.ok, 0, r.1.flatMap (fun w => leBytes 4 w.toNat)⟩)) ∧
  (regArgs e 60 → ¬ may → exec (.regAccessRead k) s = .next (s.ended k c ⟨St.refused, 0, []⟩)) ∧
  (regArgs e 60 = false → exec (.regAccessRead k) s = .next (s.ended k c ⟨St.badArgument, 0, []⟩))) ∧ (c.opcode = Op.reg → ef e 8 1 = 1 →
  let r := s.writeReg 0 o (BitVec.ofNat 32 (ef e 16 4))
  let may : Prop := ∀ p, c.via.caller = some p → s.mayWrite p o
  (regArgs e 1 → may → r.2 = false → exec (.regAccessWrite k) s = .next (r.1.ended k c ⟨St.ok, 0, []⟩)) ∧
  (regArgs e 1 → ¬ may ∨ r.2 → exec (.regAccessWrite k) s = .next ((s.accessFault 0 0 3 o).ended k c (deny c.via St.accessFault))) ∧
  (regArgs e 1 = false → exec (.regAccessWrite k) s = .next (s.ended k c ⟨St.badArgument, 0, []⟩)))

/-- Partitions created and destroyed, keys retired, channels refilled, consent. (R443, R444, R464, R471, R472, R476, R477) -/
def Obligations.PartitionLife : Prop :=
 ∀ (s : State) (k : Nat) (c : InFlight), s.cmd k = some c → c.result = none →
 let e := c.entry
 let p := ef e 8 1
 let slot := ef e 9 1
 let me := (cmdPart c.via c.opcode e).getD 0
 let now (o : Nat) := c.opcode = o ∧ c.begun = false
 let others (t : State) := ∀ q, q ≠ p → t.part q = s.part q
 (now Op.create → Creates s p → s.licence 2 = false →
   ∃ t, exec (.partitionCreate k) s = .next t ∧ others t ∧ t.keys = s.keys ∧ (t.part p).state = .configured ∧
    (t.part p).plead = 32 + 16 * (s.tilesOf p).length ∧ (t.part p).encrypted = false ∧ (t.part p).facetDigest = 0 ∧
    (t.part p).staged = none ∧ Told t k ⟨St.ok, 0, leBytes 2 (32 + 16 * (s.tilesOf p).length) ++ leBytes 2 (s.blocksOf p).length⟩ ∧
    CoresZero t (s.coresOf p)) ∧ (now Op.create → s.partIn p [.empty] = false →
   exec (.partitionCreate k) s = .next (s.ended k c ⟨St.busy, 0, []⟩)) ∧
 (now Op.destroy → s.partIn p [.empty, .retiring] = false → (s.part p).encrypted = false →
   ∃ t, exec (.partitionDestroy k) s = .next t ∧ others t ∧ t.mem = s.mem ∧ (t.part p).state = .retiring ∧
    bits (t.reg (Reg.keyConsent p)) 0 5 = 0 ∧ (t.cmd k).map (·.begun) = some true ∧ (t.cmd k).map (·.result) = some none ∧
    ∀ j, (t.key j).state = (if j ∈ s.keysOf p ∧ (s.key j).state = .active then KState.retiring else (s.key j).state)) ∧
 (c.begun → c.opcode = Op.destroy → me = p →
  (let l := (s.keysOf p).filter (fun j => (s.key j).state == .retiring); (s.dropInstances p l).draining p l true = ([], [])) →
   ∃ t, exec (.retireDrainEnd k) s = .next t ∧ others t ∧ (t.part p).state = .empty ∧ (t.part p).facetDigest = 0 ∧
    Told t k ⟨St.ok, 0, []⟩ ∧ (∀ x ∈ t.conns, x.part ≠ p) ∧
    (∀ j ∈ s.keysOf p, (s.key j).state = .retiring → t.key j = { KeySlot.reset with installs := (s.key j).installs }) ∧ CoresZero t (s.coresOf p)) ∧
 (c.begun → c.opcode = Op.keyRetire → (s.dropInstances me [slot]).draining me [slot] false = ([], []) →
   ∃ t, exec (.retireDrainEnd k) s = .next t ∧ t.mem = s.mem ∧ t.regs = s.regs ∧ Told t k ⟨St.ok, 0, []⟩ ∧
    t.key slot = { KeySlot.reset with installs := (s.key slot).installs } ∧ ∀ j, j ≠ slot → t.key j = s.key j) ∧
 (now Op.keyRetire → s.partIn me [.empty, .retiring] = false → bitOf (s.rec_ me).keyslots slot →
   (s.key slot).state = .active → (s.key slot).kind ≠ 1 →
   ∃ t, exec (.keyRetire k) s = .next t ∧ t.mem = s.mem ∧ t.parts = s.parts ∧ t.key slot = { s.key slot with state := .retiring, retireAt := s.timebase } ∧
    (∀ j, j ≠ slot → t.key j = s.key j) ∧ (t.cmd k).map (·.begun) = some true) ∧
 (∀ q : PartId, ∃ t, exec (.memoryRefillEnd q) s = .next t ∧ t.parts = s.parts ∧ t.regs = s.regs ∧ t.keys = s.keys ∧
   (∀ h ∈ s.chansOf q, (t.chan h).fillDue = false ∧ ((s.chan h).fillDue → ∀ o, o < channelBytes → t.mem.byte (chanAddr h + o) = 0)) ∧
   (∀ a, (∀ h ∈ s.chansOf q, a < chanAddr h ∨ chanAddr h + channelBytes ≤ a) → t.mem.byte a = s.mem.byte a)) ∧
 (let m := ef e 12 4 % 32
  now Op.consent → (ef e 8 1 = 1 → exec (.debugConsentGrant k) s = .next (s.ended k c ⟨St.ok, 0, leBytes 4 (s.consentSet me ||| m)⟩)) ∧
  (ef e 8 1 = 0 → ∃ t, exec (.debugConsentRevoke k) s = .next t ∧ t.mem = s.mem ∧ t.parts = s.parts ∧
    t.reg (Reg.keyConsent me) = s.reg (Reg.keyConsent me) &&& ~~~(BitVec.ofNat 32 m) ∧ (∀ o, o ≠ Reg.keyConsent me → t.reg o = s.reg o) ∧
    (∀ r, r < 65 → t.ring r = (s.ring r).ungrant me m) ∧ Told t k ⟨St.ok, 0, leBytes 4 (t.consentSet me)⟩))

/-- KEY_INSTALL of each kind, and a failed host read. (R461, R462, R464, R465, R467, R532) -/
def Obligations.KeyInstall : Prop :=
 ∀ (s : State) (k : Nat) (c : InFlight), Fetched s k c → c.opcode = Op.keyInstall →
 let e := c.entry
 let p := (cmdPart c.via Op.keyInstall e).getD 0
 let slot := ef e 9 1
 let job := ef e 32 2
 let kind := ef e 10 1
 let told (t : State) := (t.cmd k).map (·.result) = some (some ⟨St.ok, 0,
  leBytes 1 slot ++ leBytes 1 kind ++ leBytes 2 0 ++ leBytes 4 ((s.key slot).installs + 1)⟩)
 let same (t : State) := t.mem = s.mem ∧ t.regs = s.regs ∧ t.cores = s.cores ∧ (∀ j, j ≠ slot → t.key j = s.key j) ∧ ∀ q, q ≠ p → t.part q = s.part q
 let rest : List PState := [.configured, .loaded, .running, .paused, .stopped, .faulted]
 let still : List PState := [.configured, .loaded, .stopped, .faulted]
 (∀ d : BitVec 256, kind = 0 → s.keyChecks p slot (ef e 24 4) 32 e rest = none → (s.linkSlots p job .active).length < 2 →
  s.loupe.entropyOk → (s.sessions = [] → ∃ t x, exec (.keyInstallLink k d .ok) s = .next t ∧ same t ∧ told t ∧ t.key slot = x ∧
   LinkKey s p job d.toNat x ∧ x.byOperator = c.via.caller.isNone ∧ x.installs = (s.key slot).installs + 1 ∧
   SMap.get 0 (t.part p).epochs job = x.epoch) ∧
  exec (.keyInstallLink k d .poisoned) s = .next (s.ended k c ⟨St.poisoned, 0, []⟩) ∧
  exec (.keyInstallLink k d .aborted) s = .next (s.ended k c ⟨St.uncorrectable, 0, []⟩)) ∧
 (kind = 1 → InstallsMemory s e p slot →
  ∃ t, exec (.keyInstallMemory k) s = .next t ∧ same t ∧ told t ∧ (t.key slot).state = .active ∧ (t.key slot).kind = 1 ∧
   (t.key slot).installs = (s.key slot).installs + 1 ∧ ∀ h ∈ s.chansOf p, (t.chan h).fillDue) ∧
 (∀ d : List Byte, d.length = 97 → kind = 2 → s.keyChecks p slot (ef e 24 4) 97 e still = none → job = 0 →
  let ok := Config.onCurve (beVal (sub d 1 48)) (beVal (sub d 49 48))
  (hField d 0 1 = 4 → ok → ∃ t, exec (.keyInstallImageVerify k d .ok) s = .next t ∧ same t ∧ told t ∧ (t.key slot).state = .active ∧ (t.key slot).kind = 2 ∧
   (t.key slot).key = beVal (sub d 1 48) * 2 ^ 384 + beVal (sub d 49 48) ∧ (t.part p).staged = none) ∧
  (ok = false → exec (.keyInstallImageVerify k d .ok) s = .next (s.ended k c ⟨St.badArgument, 0, []⟩)))

/-- SEQ_CONTROL's operations. (R289, R291, R292, R295, R299, R314, R410, R439) -/
def Obligations.SequenceLife : Prop :=
 ∀ (s : State) (k : Nat) (c : InFlight) (p : PartId), s.cmd k = some c → c.result = none → c.opcode = Op.seq →
 let e := c.entry
 let q := ef e 12 4
 let op := ef e 8 1
 let r := s.loadSeq q
 let z := r.2.2
 let byte (t : State) (v : Nat) := t.mem.byte (s.seqAddr q) = BitVec.ofNat 8 v
 let same (t : State) := t.cores = s.cores ∧ t.parts = s.parts ∧ ∀ o, (∀ h : ChanId, o ≠ Reg.hbmStatus h) → t.reg o = s.reg o
 let does (i : Instr) (P : State → Prop) := ∃ t, exec i s = .next t ∧ same t ∧ P t
 let ends (y : Result) (t : State) := t.setCmd k { c with begun := true, aux := 0, aux2 := 0, result := some y }
 s.seqTarget c q = .inr p.val → s.upsets = [] → NetUp s → (op = 8 → c.begun = false → s.filling p = false → (s.ccRead none (s.seqAddr q) 128).2.1 = 0 →
  does (.seqRead k) fun t => Told t k ⟨St.ok, 0, (s.ccRead none (s.seqAddr q) 128).1⟩) ∧
 (op = 3 → c.begun → s.timebase ≤ c.aux2 + 10000000 → exec (.parkDrainTimeout k) s = .next s) ∧
 (op = 3 → c.begun → s.drained c.aux = false → c.aux2 + 10000000 < s.timebase →
  does (.parkDrainTimeout k) fun t => byte t 1 ∧ Told t k ⟨St.timeout, 0, []⟩) ∧
 (c.begun = false → s.partIn p [.retiring] = false → s.filling p = false → r.2.1 → ∀ kv, s.kvOf p = some kv →
  let n := SeqEntry.opened e p (r.1.gen + 1)
  let all := z.allResident p kv r.1
  (op = 1 → r.1.state = 0 → Opens z e p kv n →
    does (.seqOpen k) fun t => Told t k ⟨St.ok, 0, []⟩ ∧ ∀ i, i < 128 → t.mem.byte (s.seqAddr q + i) = n.bytes.getD i 0) ∧
  (op = 4 → r.1.state = 2 → all.1 → all.2.1 → does (.seqUnpark k) fun t => byte t 1 ∧ Told t k ⟨St.ok, 0, []⟩) ∧
  (op = 4 → r.1.state = 2 → all.1 = false → all.2.1 →
    does (.seqUnpark k) fun t => Told t k ⟨St.badArgument, 0, []⟩) ∧ (op = 3 → r.1.state = 1 →
    does (.seqPark k) fun t => byte t 2 ∧ ∃ d, t.cmd k = some d ∧ d.begun ∧ d.result = none ∧ d.aux2 = z.timebase ∧ d.aux = z.walkersAt p) ∧
  (op = 5 → r.1.state = 1 ∨ r.1.state = 2 → does (.seqClose k) fun t => byte t 3 ∧
     (∀ i, i < 8 → t.mem.byte (s.seqAddr q + 32 + i) = (leBytes 8 (r.1.gen + 1)).getD i 0) ∧ ∃ d, t.cmd k = some d ∧ d.begun ∧ d.result = none) ∧
  (let ch := z.loadSeq (ef e 16 4)
   let y := ch.2.2
   let m : SeqEntry := { r.1 with state := 1, len := ef e 20 4, list := ef e 32 8, stream := ef e 40 4, parent := q, gen := ch.1.gen + 1 }
   let g := y.partRead p r.1.list 256
   let f := g.2.2.forkList p kv r.1 (ef e 20 4)
   op = 2 → r.1.state = 1 → z.seqTarget c (ef e 16 4) = .inr p.val → ch.2.1 → ch.1.state = 0 → ef e 20 4 ≤ r.1.len →
    ef e 40 4 < 2 ^ 20 → y.listFits p kv m → g.2.1 = 0 →
    (f.1.bad = none → ∃ t, exec (.seqFork k) s = .next t ∧ t.cores = s.cores ∧ t.regs = f.2.regs ∧ Told t k ⟨St.ok, 0, []⟩ ∧
     ∀ i, i < 128 → t.mem.byte (s.seqAddr (ef e 16 4) + i) = m.bytes.getD i 0) ∧
    (∀ st, f.1.bad = some st → exec (.seqFork k) s = .next (ends ⟨st, 0, []⟩ (f.2.unfork p kv r.1 f.1)))) ∧
  (let m := z.evictList p kv r.1 (ef e 48 8)
   op = 6 → r.1.state = 2 → ef e 48 8 % 0x10000 = 0 → exec (.seqEvict k) s = .next (ends m.1.result m.2) ∧ m.1.done = listLen kv r.1 ∧ m.1.stop = none) ∧
  (∀ pages, op = 7 → r.1.state = 2 → ef e 48 8 % 0x10000 = 0 →
    let m := z.restoreList p kv r.1 (ef e 48 8) pages
    exec (.seqRestore k pages) s = .next (ends m.1.result m.2) ∧ (m.1.stop = none → m.1.done = listLen kv r.1) ∧ m.1.failed ≤ m.1.done) ∧
  (∀ pages i l, (op, i, l) ∈ [(1, Instr.seqOpen k, [0]), (2, .seqFork k, [1]), (3, .seqPark k, [1]), (4, .seqUnpark k, [2]),
   (5, .seqClose k, [1, 2]), (6, .seqEvict k, [2]), (7, .seqRestore k pages, [2])] → r.1.state ∉ l → exec i s = .next (ends ⟨St.busy, 0, []⟩ z)))

/-- RUN, RESUME, REPLAY, STOP, a quiescence bound, the halt. (R342, R345, R433, R434, R435, R436, R437, R438) -/
def Obligations.RunAndStop : Prop :=
 ∀ (s : State) (k : Nat) (c : InFlight), s.cmd k = some c → c.result = none →
 let e := c.entry
 let p := (cmdPart c.via c.opcode e).getD 0
 let x := s.part p
 let same (t : State) := t.mem = s.mem ∧ t.keys = s.keys ∧ ∀ q, q ≠ p → t.part q = s.part q
 let does (i : Instr) (P : State → Prop) := ∃ t, exec i s = .next t ∧ same t ∧ P t
 let at_ (o : Nat) (b : Bool) := c.opcode = o ∧ c.begun = b
 let u := (s.setCmd k { c with begun := true }).retargetAll p .active
 let til : Option (BitVec 64) := if ef e 9 1 % 2 = 1 then some (BitVec.ofNat 64 (ef e 24 8)) else none
 (at_ Op.run false → c.aux = 0 → s.partIn p [.loaded] →
  (ef e 9 1 % 2 = 1 → x.entryStep.toNat < ef e 24 8) → s.repairBar p = none → u.blocksUp p = false → exec (.run k) s = .next u) ∧
 (at_ Op.run true → c.aux = 0 → s.blocksUp p → s.stopOpen p = false → StartReads s p →
  does (.run k) fun t => Launched t k c p false til ∧ (t.part p).seed = BitVec.ofNat 64 (ef e 16 8) ∧
   ∀ n ∈ s.coresOf p, (t.core n).seq.running ∧ (t.router n).running) ∧
 (at_ Op.run false → c.aux = 0 → s.partIn p [.loaded] = false → exec (.run k) s = .next (s.ended k c ⟨St.busy, 0, []⟩)) ∧
 (at_ Op.resume true → c.aux = 0 → s.blocksUp p → s.stopOpen p = false →
  does (.resume k) fun t => Launched t k c p false none ∧ t.cores = s.cores ∧ t.routers = s.routers ∧
   bits (t.reg (Reg.partFault p)) 23 1 = 0 ∧ (t.part p).replayLog = false) ∧ (at_ Op.resume false → c.aux = 0 → s.partIn p [.paused, .stopped] = false →
  exec (.resume k) s = .next (s.ended k c ⟨St.busy, 0, []⟩)) ∧ (at_ Op.stop false → ef e 9 1 = 0 → s.partIn p [.running] → s.stopArgs p e →
  ∃ t r, exec (.stopStepBoundary k) s = .next t ∧ same t ∧ t.cores = s.cores ∧ (t.part p).state = x.state ∧
   (t.part p).stop = some r ∧ r.armed = false ∧ r.ckpt = (ef e 10 1 % 2 == 1) ∧ r.prec = ef e 16 8 ∧ r.ended = none ∧
   Waits t k) ∧
 (at_ Op.stop false → ef e 9 1 = 1 → s.partIn p [.running] → ef e 10 1 % 2 = 0 → s.stopArgs p e →
  exec (.stopImmediate k) s = .next (s.setCmd k { c with begun := true, aux := 0, aux2 := 0, result := none })) ∧
 (at_ Op.stop false → ef e 9 1 = 1 → s.partIn p [.running] → ef e 10 1 % 2 = 1 →
  does (.stopImmediate k) fun t => t.cores = s.cores ∧ Told t k ⟨St.badArgument, 0, []⟩) ∧
 (at_ Op.stop true → c.aux = 0 → c.at_ + 2000 ≤ s.timebase → ef e 9 1 = 1 → s.partIn p [.running] →
  ef e 32 8 = 0 → does (.stopTakesEffect k) fun t => t.cores = s.cores ∧ t.routers = s.routers ∧
   (t.part p).state = .paused ∧ (t.part p).freezeAt = s.farthest p ∧ (t.cmd k).map (fun d => (d.aux, d.aux2)) = some (1, 0)) ∧
 (at_ Op.stop true → c.aux = 0 → c.at_ + 2000 ≤ s.timebase → ef e 9 1 = 0 → ∀ r, x.stop = some r →
  does (.stopTakesEffect k) fun t => t.cores = s.cores ∧ (t.part p).stop = some { r with armed := true, armedAt := s.timebase } ∧
   (t.part p).state = x.state) ∧ (∀ (q : PartId) r, (s.part q).stop = some r → r.armed → r.ckpt → r.ended = none →
  exec (.ckptQuiesceTimeout q) s = .next (if s.timebase ≤ r.armedAt + 1000000000 then s
   else s.setPart q { s.part q with stop := some { r with late := true } })) ∧
 (∀ q : PartId, s.partIn q [.running] → s.coresOf q ≠ [] → (s.coresOf q).all (fun n => (s.core n).seq.halted) →
  ((s.part q).haltCut = none → exec (.haltFreeze q) s = .next (s.setPart q { s.part q with
   haltCut := some ((s.coresOf q).foldl (fun a n => max a (s.core n).seq.haltAt) 0 + 1025) })) ∧
  (∀ cut, (s.part q).haltCut = some cut → AtCut s q cut →
   ∃ t, exec (.haltFreeze q) s = .next t ∧ Unmoved s t ∧ (t.part q).state = .stopped ∧
    (t.part q).freezeAt = cut ∧ (t.part q).haltEnd ∧ ∀ j, j ≠ q.val → t.part j = s.part j)) ∧
 (∀ logged : Bool, at_ Op.replay false → ef e 9 1 = (if logged then 1 else 0) → ReplayMay s p (ef e 16 8) →
  let r := s.partRead p (ef e 16 8) 4096
  let hbm := ef e 10 1 / 2 % 2 == 1
  let q := r.2.2.replayed p (ef e 16 8) hbm r.1
  let go := if logged then exec (.replayLogged k) s else exec (.replayLive k) s
  (r.2.1 = 0 → r.2.2.replayOk p hbm logged (ef e 24 8) r.1 = false → ∃ t, go = .next t ∧ t.mem = r.2.2.mem ∧ t.parts = s.parts ∧
   Told t k ⟨St.badArgument, 0, []⟩) ∧ (r.2.1 = 0 → r.2.2.replayOk p hbm logged (ef e 24 8) r.1 → q.1 → StartReads q.2 p →
   ∃ t, go = .next t ∧ Launched t k c p true (some (BitVec.ofNat 64 (ef e 24 8))) ∧ (t.part p).replayLog = logged ∧
    (t.part p).seed = BitVec.ofNat 64 (if ef e 10 1 % 2 = 1 then hField r.1 24 8 else ef e 32 8) ∧ ∀ j, j ≠ p → t.part j = s.part j))

/-- FACET_LOAD, FACET_ACTIVATE of a partition and of the device, CLOVE_LOAD; choice: log 73. (R281, R370, R374, R376, R377, R378, R379, R380, R381, R382, R445, R446) -/
def Obligations.FacetCommands : Prop :=
 ∀ (s : State) (k : Nat) (c : InFlight), Fetched s k c →
 let e := c.entry
 let ends (i : Instr) (r : Result) (q : State) := exec i s = .next (q.ended k c r)
 let lone (reason : Nat) : Rej := ⟨reason, noSect, noRec, noOff⟩
 let plain (d w id : Nat) := facetRecord 0 noSect noRec noOff d w id
 let len := ef e 24 4
 (∀ img h x, c.opcode = Op.facetLoad →
  let i := Instr.facetLoad k img h x
  let target := cmdPart c.via Op.facetLoad e
  let gone : Prop := ∃ p, target = some p ∧ s.partIn p [.empty, .retiring]
  let u := s.putStaged target none
  let b := hostBytes len img
  let ext := takePieces u.stagingGaps len
  let back := (u.stageCopy ext b).stagedRead ext
  let lost := lone (if h = .poisoned then 0x01 else 0x02)
  let no (id : Nat) (r : Rej) (t : State) := ends i (rejected c.via id r) t
  (gone → ends i (busyOf Op.facetLoad) s) ∧ (¬ gone → ef e 16 8 % 64 ≠ 0 → ends i ⟨St.badArgument, 0, plain 0 0 0⟩ s) ∧
  (¬ gone → ef e 16 8 % 64 = 0 → u.stagedOf target = none ∧ (len = 0 → no 0 (lone 0x10) u) ∧
   (len ≠ 0 → h ≠ .ok → x < 256 → no 0 lost u) ∧
   (len ≠ 0 → h = .ok ∨ 256 ≤ x → (∀ r, firstBad (headerChecks target.isNone len b) = some r → no (fxId b) r u) ∧
    (firstBad (headerChecks target.isNone len b) = none → (u.stagingFree < len → no (fxId b) (lone 0x03) u) ∧
     (len ≤ u.stagingFree → h ≠ .ok → x < len → no (fxId b) lost (u.stageCopy (takePieces ext (x / 64 * 64)) b)) ∧
     (len ≤ u.stagingFree → h = .ok ∨ len ≤ x →
      (∀ r, (stagingError b back.2.1).or (back.2.2.facetCheck target b) = some r → no (fxId b) r back.2.2) ∧
      (back.2.1 = none → back.2.2.facetCheck target b = none →
       ends i ⟨St.ok, 0, plain (fxDigest b) 0 (fxId b)⟩ (back.2.2.putStaged target (some ⟨b, fxDigest b, ext⟩)))))))) ∧
 (∀ (p : Nat) (bad : Fin 3) (sect : Nat), c.opcode = Op.facetActivate → ef e 8 1 < 128 → cmdPart c.via Op.facetActivate e = some p →
  let i := Instr.facetActivate k bad sect
  let free : Prop := ∀ h ∈ s.chansOf p, (s.clove h).held = none ∨ (s.clove h).halted
  let may : Prop := s.partIn p [.configured, .loaded, .stopped, .faulted] ∧ s.otherCmd k p = false ∧ s.filling p = false
  (s.power.brownout ∨ ((s.part p).staged.isSome ∧ ¬ free) → exec i s = .next s) ∧
  (s.power.brownout = false → ((s.part p).staged = none → ends i (if may then rejected c.via 0 (lone 0x51) else busyOf Op.facetActivate) s) ∧
   (∀ y, (s.part p).staged = some y → free → (¬ may → ends i (busyOf Op.facetActivate) s) ∧
    (may → s.lostBlock p → ends i ⟨St.noResource, 0, plain 0 0 0⟩ (s.putStaged (some p) none)) ∧
    (may → s.lostBlock p = false → (fxBlocks y.bytes ≠ (s.rec_ p).blocks →
     ends i (rejected c.via (fxId y.bytes) ⟨0x31, noSect, noRec, 24⟩) (s.putStaged (some p) none)) ∧ (fxBlocks y.bytes = (s.rec_ p).blocks →
     let f := parseFacet y.bytes
     let rej := s.activateRej p y bad sect
     let wd := (s.activated p y bad sect).2.2.2.2.1
     ∃ t, exec i s = .next t ∧ (t.part p).staged = none ∧ (t.part p).inc = ((s.part p).inc + 1) % 65536 ∧
      (rej = none → (t.part p).state = .loaded ∧ (t.part p).facet = f ∧ (t.part p).facetDigest = y.digest ∧ (t.part p).weightDigest = wd ∧
       (t.part p).entryStep = BitVec.ofNat 64 f.glob.entryStep ∧ Told t k ⟨St.ok, 0, plain y.digest wd f.imageId⟩) ∧
      (∀ r, rej = some r → (t.part p).state = .configured ∧ (t.part p).facet = Facet.none ∧ (t.part p).facetDigest = 0 ∧
       CoresZero t (s.coresOf p) ∧ Told t k (rejected c.via f.imageId r)) ∧
      ((∀ n ∈ s.coresOf p, s.partOfCore n = some p) → (∀ h ∈ s.chansOf p ++ f.cloves.map (·.chan), (s.clove h).rx = []) →
       ∀ q, q ≠ p → t.part q = s.part q)))))) ∧
 (∀ (bad : Fin 3) (sect : Nat), c.opcode = Op.facetActivate → 128 ≤ ef e 8 1 →
  let i := Instr.facetActivateDevice k bad sect
  let may : Prop := s.dev = .staging ∨ s.dev = .ready
  (¬ may → ends i (busyOf Op.facetActivate) s) ∧ (may → s.loupe.devImage = none → ends i (rejected c.via 0 (lone 0x51)) s) ∧
  ∀ y, may → s.loupe.devImage = some y →
   let d := parseDev y.bytes
   let no := rejected c.via (fxId y.bytes)
   let re := (s.putStaged none none).reread y bad sect
   (s.devLive d = false → ends i (no (s.liveRej y.bytes)) s) ∧
   (s.devLive d → (∀ r, re.1 = some r → ends i (no r) re.2) ∧
    (re.1 = none → ∃ t, exec i s = .next t ∧ t.devFacet = d ∧ t.loupe.devDigest = y.digest ∧ t.loupe.devImage = none ∧ t.loupe.devOn ∧
     t.cores = s.cores ∧ t.regs = re.2.regs ∧ SameBut re.2 t d.seqtab 0x8000000 ∧ Told t k ⟨St.ok, 0, plain y.digest 0 (fxId y.bytes)⟩ ∧
     ∀ p : PartId, t.part p = if SMap.get PartRec.none d.parts p.1 = s.rec_ p then s.part p else { s.part p with staged := none }))) ∧
 (∀ a h, c.opcode = Op.cloveLoad →
  let i := Instr.cloveLoad k a h
  let p := (cmdPart c.via Op.cloveLoad e).getD 0
  let ch := 32 * ef e 9 1 + ef e 10 1
  let x := s.clove ch
  let mine : Prop := s.partOfChan ch = some p
  let b := hostBytes len a
  let busy : Prop := x.held.isSome ∧ mine ∧ x.halted = false
  (busy → exec i s = .next s) ∧ (¬ busy →
   (∃ t, exec i s = .next t ∧ Told t k ⟨s.cloveLoadStatus e p ch b h, 0, []⟩) ∧
   (s.cloveLoadStatus e p ch b h ≠ St.ok → ¬ mine ∨ x.halted = false → ends i ⟨s.cloveLoadStatus e p ch b h, 0, []⟩ s) ∧
   (s.cloveLoadStatus e p ch b h = St.ok → x.rx = [] → ∃ t, exec i s = .next t ∧ t.cores = s.cores ∧ t.parts = s.parts ∧
    (t.clove ch).halted = false ∧ (t.clove ch).held = none ∧ (t.clove ch).mbase = some (ef e 32 8) ∧ (t.clove ch).machineMode ∧
    (∀ j, j ≠ ch → t.clove j = s.clove j) ∧ CloveLoaded e b (t.clove ch))))

/-- A command's completion. (R407, R409, R410, R411, R425, R428, R434, R435) -/
def Obligations.CommandCompletes : Prop :=
 ∀ (s : State) (k : Nat) (c : InFlight), s.cmd k = some c →
 let l := s.loupe
 let go := exec (.commandCompletes k) s
 let p := (cmdPart c.via c.opcode c.entry).getD 0
 let same (t : State) := Unmoved s t ∧ t.regs = s.regs
 let off (t : State) := t.loupe.inflight = l.inflight.eraseIdx k
 (∀ i y, c.via = .ring i → c.result = some y → c.refused = false → c.mbox = none → ∃ t, go = .next t ∧ same t ∧ t.parts = s.parts ∧ off t ∧
   (t.ring i).waiting = (s.ring i).waiting ++ [⟨c.cid, y.status, y.info, 0, c.grant y⟩] ∧ ∀ j : Nat, j ≠ i → t.ring j = s.ring j) ∧
 (∀ i y m, c.via = .ring i → c.result = some y → c.refused = false → c.mbox = some m →
  let b := (s.ring i).mbox m
  let g := if b.gen = 0xFFFFFFFF then 1 else b.gen + 1
  ∃ t, go = .next t ∧ same t ∧ t.parts = s.parts ∧ off t ∧ (t.ring i).mbox m = ⟨.valid, g, y.status, c.cid, c.opcode, y.payload⟩ ∧
   (t.ring i).waiting = (s.ring i).waiting ++ [⟨c.cid, y.status, y.info, g, c.grant y⟩] ∧ ∀ j : Nat, j ≠ i → t.ring j = s.ring j) ∧
 (∀ y, c.via = .mctp → c.result = some y → l.mctpQ = [] →
  ∃ t b, go = .next t ∧ same t ∧ off t ∧ t.out = s.out ++ [.mctp b] ∧ b.take 6 = mctpHead ++ leBytes 2 c.cid ++ [BitVec.ofNat 8 y.status]) ∧
 (∀ y e q, c.via = .mctp → c.result = some y → l.mctpQ = e :: q → l.handover = false → ∃ t d, go = .next t ∧ same t ∧ t.loupe.mctpQ = q ∧
  t.loupe.inflight = l.inflight.eraseIdx k ++ [d] ∧ d.via = .mctp ∧ d.entry = e) ∧
 (∀ i r, c.via = .ring i → c.result = none → c.begun → c.opcode = Op.run → c.aux = 1 → c.mbox = none →
  (s.part p).run = some r → r.ended.isSome → s.settled p →
  ∃ t y, go = .next t ∧ same t ∧ off t ∧ y = s.runResult p r ∧ (t.part p).run = none ∧ (t.part p).state = (s.part p).state ∧
   (t.ring i).waiting = (s.ring i).waiting ++ [⟨c.cid, y.status, y.info, 0, none⟩]) ∧ (c.result = none → c.begun = false → go = .next s) ∧
 (c.result = none → c.opcode = Op.run → s.settled p = false → go = .next s) ∧ (∀ y, c.result = some y → c.refused → go = .next s)

/-- SCRUB, SELF_TEST and SPARE_APPLY. (R225, R227, R440, R441, R442, R538, R543, R587, R598, R599, R600, R601) -/
def Obligations.Maintenance : Prop :=
 ∀ (s : State) (k : Nat) (c : InFlight), Fetched s k c →
 let e := c.entry
 let p := (cmdPart c.via c.opcode e).getD 0
 let base := ef e 16 8
 let len := ef e 24 8
 (c.opcode = Op.scrub → ef e 9 1 = 0 → s.partIn p [.empty, .retiring, .running, .paused] = false → base % 32 = 0 → len % 32 = 0 →
   base + len ≤ coreBytes → s.lostBlock p = false →
   ∃ t, ∃ f : Found, exec (.scrubSram k) s = .next t ∧ Told t k f.result ∧ t.cores = s.cores ∧ t.parts = s.parts ∧
    ∀ n ∈ s.coresOf p, ∀ i, i < len / 8 → (t.mem.word (coreWindow n + (base + 8 * i))).2.2 = .clean) ∧
 (c.opcode = Op.scrub → ef e 9 1 = 1 → s.partIn p [.empty, .retiring] = false → base % 32 = 0 → len % 32 = 0 → base + len ≤ sliceBytes →
   ∃ t, exec (.scrubSlice k) s = .next t ∧ t.mem = s.mem ∧ t.regs = s.regs ∧ t.parts = s.parts ∧
    Waits t k ∧ ∀ n ∈ s.coresOf p, (s.block (blockOf n)).state ≠ .retired →
     (t.slice n).scrub = some ⟨base / 32, (base + len) / 32, 0, 0, none, 0, []⟩) ∧
 (∀ d, c.opcode = Op.scrub → ef e 9 1 = 2 → s.partIn p [.empty, .retiring] = false → s.filling p = false → base % 2048 = 0 → len = 2048 →
   reaches ((s.part p).facet.memmap.map Window.of) 0 base len (fun _ => true) → devOf ((s.part p).facet.memmap.map Window.of) base = some d →
   let h := chanOfAddr d
   let q := s.scrubHbm h [⟨0, d, 2048, false⟩]
   (s.cloveThrottle h = 2 → exec (.scrubHbm k) s = .next s) ∧ (s.cloveThrottle h ≠ 2 → ((s.clove h).halted = false → s.chanUp h → q.1.unc = 0 →
    exec (.scrubHbm k) s = .next (q.2.2.ended k c (Found.result ⟨q.1.corr, 0, q.1.first.map (fun o => base + o), q.2.1, 0⟩))) ∧
   ((s.clove h).halted → exec (.scrubHbm k) s = .next (s.ended k c (Found.result ⟨0, 0, none, 0, 2 ^ h⟩))))) ∧
 (c.opcode = Op.selfTest → s.partIn p [.configured, .loaded, .stopped, .faulted] → ef e 9 1 % 16 < 8 →
   ∃ t y, exec (.selfTest k []) s = .next t ∧ Told t k y ∧ y.status = St.ok ∧ y.payload.take 36 = leBytes 32 0 ++ [BitVec.ofNat 8 (ef e 9 1 % 16), 0, 0xFF, 0xFF] ∧
    t.mem = (s.setBlocksNow p .active).mem ∧ t.cores = s.cores ∧ t.parts = s.parts) ∧
 (c.opcode = Op.selfTest → s.partIn p [.configured, .loaded, .stopped, .faulted] → 8 ≤ ef e 9 1 % 16 →
   ∃ t y, exec (.selfTest k []) s = .next t ∧ Told t k y ∧ y.status = St.ok ∧ (t.part p).state = .configured ∧
    (t.part p).facet = Facet.none ∧ (∀ q, q ≠ p → t.part q = s.part q) ∧ CoresZero t (s.coresOf p)) ∧
 (let n := ef e 12 2
  let row := ef e 14 1 * 128 + ef e 15 1
  c.opcode = Op.spare → ef e 8 1 = 0 → SparesRow s e n row → ∃ t, exec (.spareSliceRow k) s = .next t ∧ t.mem = s.mem ∧ t.regs = s.regs ∧
    t.slice n = { s.slice n with toSpare := (s.slice n).toSpare ++ [row] } ∧ (∀ m, m ≠ n → t.slice m = s.slice m) ∧
    Waits t k) ∧
 (let h := 32 * ef e 12 1 + ef e 13 1
  let left := bits (s.reg (Reg.hbmStatus h)) 0 5
  let a := chanAddr h + ef e 16 2 * 2 ^ 15 + ef e 14 1 * 2 ^ 6
  c.opcode = Op.spare → ef e 8 1 = 1 → SparesHbm s e h → .crypt h ∉ s.upsets →
   ∃ t, exec (.spareHbmRow k) s = .next t ∧ bits (t.reg (Reg.hbmStatus h)) 0 5 = left - 1 ∧
    Told t k ⟨St.ok, 0, leBytes 1 1 ++ leBytes 3 0 ++ leBytes 4 (left - 1)⟩ ∧
    (t.chan h).spareRows = (s.chan h).spareRows ++ [ef e 16 2 * 32 + ef e 14 1] ∧ (∀ i, i < 32 → (s.mem.unit (rowSector a i)).bad = 0 →
     (t.mem.unit (rowSector a i)).data = (s.mem.unit (rowSector a i)).data) ∧
    ∀ y, (∀ i, i < 32 → y < rowSector a i ∨ rowSector a i + 32 ≤ y) → t.mem.byte y = s.mem.byte y) ∧
 (let i := xingId (ef e 12 1) (ef e 13 1)
  c.opcode = Op.spare → ef e 8 1 = 2 → SparesLane s e i →
   ∃ t, exec (.spareUcieLane k) s = .next t ∧ t.mem = s.mem ∧ t.regs = s.regs ∧ Repaired s t e 2 ∧
    SMap.find (t.xing i).laneMap (ef e 14 1) = some (ef e 15 1) ∧ Told t k ⟨St.ok, 0, leBytes 1 2 ++ leBytes 3 0 ++ leBytes 4 0⟩) ∧
 (let ti := ef e 12 1
  let q := ef e 13 1
  let hf := q / 33
  c.opcode = Op.spare → ef e 8 1 = 3 → SparesColumn s e ti q →
   ∃ t, exec (.spareColumn k) s = .next t ∧ halfUsed (t.reg (Reg.tileRepair ti)) hf ∧
    bits (t.reg (Reg.tileRepair ti)) (8 + 8 * hf) 7 = q ∧ Repaired s t e 3 ∧
    (∀ j ∈ s.holders (movedBlocks ti q), (t.part j).relocated ∧ (t.part j).state = (s.part j).state) ∧
    (∀ j ∈ movedCols q, ∀ y, y < 32 → ∀ o, o < 0x40000 → t.mem.byte (coreWindow (coreInTile ti y j) + o) = 0) ∧
    ∀ a, a < coreWindow 0 → t.mem.byte a = s.mem.byte a) ∧
 (let b := ef e 12 1
  c.opcode = Op.spare → ef e 8 1 = 4 → s.unreleased b = false → (s.holders [b]).any (fun j => s.partIn j [.running, .paused]) = false →
   ef e 13 5 = 0 → (s.block b).state ≠ .retired →
   ∃ t, exec (.spareBlock k) s = .next t ∧ t.mem = s.mem ∧ t.parts = s.parts ∧ (t.block b).state = .retired ∧ Repaired s t e 4 ∧
    Told t k ⟨St.ok, 0, leBytes 1 4 ++ leBytes 3 0 ++ leBytes 4 0⟩ ∧ ∀ j, j ≠ b → t.block j = s.block j)

/-- COUNTER and TRACE commands, a trace stream's record. (R457, R476, R604, R605, R606, R607, R608, R612, R613, R614, R615) -/
def Obligations.CountersAndTraces : Prop :=
 ∀ (s : State) (k : Nat) (c : InFlight), Fetched s k c →
 let e := c.entry
 let same (t : State) := Unmoved s t ∧ t.parts = s.parts
 (let o := cntScope (cntTarget c.via e)
  let at_ := if c.via.caller.isSome then 16 else 0
  let m := ef e 12 4 % 128
  let v := if ef e 9 1 / 2 % 2 = 1 then bits (s.reg o) at_ 7 ||| m else bits (s.reg o) at_ 7 &&& (127 - m)
  c.opcode = Op.cntConfig →
   ∃ t, exec (.counterConfig k) s = .next t ∧ same t ∧ bits (t.reg o) at_ 7 = v ∧ bits (t.reg o) (16 - at_) 7 = bits (s.reg o) (16 - at_) 7 ∧
    (∀ j, j ≠ o → t.reg j = s.reg j) ∧ Told t k ⟨St.ok, 0, leBytes 4 v⟩ ∧ (ef e 9 1 / 2 % 2 = 0 → t.cnts = s.cnts)) ∧
 (let ps := s.cntPieces false (cntTarget c.via e) (ef e 12 4 % 128) (s.timebase / 1000)
  let b := fitPieces 3824 ps
  let need := (ps.map List.length).sum
  c.opcode = Op.cntRead → c.via = .mctp → exec (.counterRead k) s =
   .next (s.ended k c ⟨St.ok, 0, (leBytes 4 b.length ++ leBytes 4 (if b.length < need then need else 0) ++ leBytes 8 (s.timebase / 1000)) ++ b⟩)) ∧
 (∀ r, c.opcode = Op.cntRead → c.via = .ring r → c.via.caller.isNone → ef e 16 8 % 64 ≠ 0 →
   exec (.counterRead k) s = .next (s.ended k c ⟨St.badArgument, 0, []⟩)) ∧
 (c.via.caller.isSome → s.timebase % 1000000 ≠ 0 → exec (.counterRead k) s = .next s) ∧
 (∀ r, c.opcode = Op.cntRead → c.via = .ring r → ef e 16 8 % 64 = 0 → c.via.caller.isNone ∨ s.timebase % 1000000 = 0 →
  let b := fitPieces (ef e 24 4) (s.cntPieces c.via.caller.isSome (cntTarget c.via e) (ef e 12 4 % 128) (s.timebase / 1000))
  ∃ t n, exec (.counterRead k) s = .next t ∧ same t ∧ t.regs = s.regs ∧ t.cnts = s.cnts ∧ (n = 0 ∨ b.length < n) ∧
   Told t k ⟨St.ok, 0, leBytes 4 b.length ++ leBytes 4 n ++ leBytes 8 (s.timebase / 1000)⟩) ∧
 (let p := (cmdPart c.via Op.traceConfig e).getD 0
  let i := cfgIdx c.via.caller.isSome p
  c.opcode = Op.traceConfig → ef e 9 1 / 2 % 2 = 0 → ∃ t, exec (.traceConfig k) s = .next t ∧ same t ∧ t.regs = s.regs ∧
    t.cfg i = ⟨if ef e 9 1 % 2 = 1 then ef e 12 4 % 8 else 0, false, 0, 0, 0, 0⟩ ∧ (∀ j, j ≠ i → t.cfg j = s.cfg j) ∧ Told t k ⟨St.ok, 0, []⟩) ∧
 (let p := (cmdPart c.via Op.traceConfig e).getD 0
  let i := cfgIdx c.via.caller.isSome p
  c.opcode = Op.traceConfig → ef e 9 1 / 2 % 2 = 1 → s.streamOk c.via.caller.isSome p (ef e 16 8) (ef e 24 4) →
   ∃ t, exec (.traceConfig k) s = .next t ∧ t.cores = s.cores ∧ t.parts = s.parts ∧
    t.cfg i = ⟨if ef e 9 1 % 2 = 1 then ef e 12 4 % 8 else 0, true, ef e 16 8, ef e 24 4, 0, 0⟩ ∧ Told t k ⟨St.ok, 0, []⟩ ∧
    (c.via.caller.isSome = false → s.upsets = [] → s.hbmLost (ef e 16 8) = false → ∀ j, j < 64 → t.mem.byte (ef e 16 8 + j) = 0)) ∧ (∀ r, c.opcode = Op.traceRead → c.via = .ring r → ef e 16 8 % 64 = 0 →
   ∃ t n m, exec (.traceRead k) s = .next t ∧ same t ∧ t.regs = s.regs ∧ t.trace = s.trace ∧ n % 32 = 0 ∧ n ≤ ef e 24 4 ∧
    Told t k ⟨St.ok, 0, leBytes 4 n ++ leBytes 4 m⟩ ∧ (m = 0 ∨ n < m)) ∧
 (∀ (i : Fin 128) (w : Fin 32) r rest, SMap.get [] s.traceQ (64 * i.val + w.val) = r :: rest →
   let x := s.cfg i
   let u : State := { s with traceQ := SMap.set [] s.traceQ (64 * i.val + w.val) rest }
   (x.stream = false → ∀ late, exec (.traceStreamWrite i w late) s = .next u) ∧
   (x.stream → SMap.get 0 s.traceDrops (64 * i.val + w.val) = 0 → 1 ≤ (x.len / 32 - 2) - (x.written - (u.streamRead i).1) →
    (u.traceBufAddr i 0).isSome → ∃ t, exec (.traceStreamWrite i w false) s = .next t ∧
     t.cfg i = { x with written := x.written + 1 } ∧ t.cores = s.cores ∧ t.parts = s.parts ∧ SMap.get [] t.traceQ (64 * i.val + w.val) = rest) ∧
   (x.stream → ∃ t, exec (.traceStreamWrite i w true) s = .next t ∧ t.cfg i = { x with dropped := x.dropped + 1 } ∧
    SMap.get 0 t.traceDrops (64 * i.val + w.val) = SMap.get 0 s.traceDrops (64 * i.val + w.val) + 1 ∧ t.cores = s.cores ∧
    t.parts = s.parts ∧ SMap.get [] t.traceQ (64 * i.val + w.val) = rest))

/-- Licences, amendments, handover, CALIBRATE, POWER_CAP_SET, ports, the service network. (R447, R448, R449, R484, R485, R513, R514, R518, R531, R540, R571, R577) -/
def Obligations.DeviceCommands : Prop :=
 ∀ (s : State) (k : Nat) (c : InFlight), Fetched s k c →
 let e := c.entry
 let l := s.loupe
 let q := ef e 8 1
 let len := ef e 24 4
 let ends (i : Instr) (st : Nat) (b : Bytes) := exec i s = .next (s.ended k c ⟨st, 0, b⟩)
 let give (i : Instr) (r : Result) := exec i s = .next (s.setCmd k { c with begun := true, aux := 0, aux2 := 0, result := some r })
  let does (i : Instr) (P : State → Prop) := ∃ t, exec i s = .next t ∧ Unmoved s t ∧ P t
 (∀ img : List Byte, c.opcode = Op.licence →
  let i (h : HostKind) := Instr.licenceInstall k img h
  let b := hostBytes len img
  let newer : Prop := l.licSeq < hField b 16 4 ∧ l.features &&& hField b 20 1 = l.features
  (∀ h, ef e 16 8 % 64 ≠ 0 ∨ 4096 < len → ends (i h) St.badArgument []) ∧ (ef e 16 8 % 64 = 0 → len ≤ 4096 →
   ends (i .poisoned) St.poisoned [] ∧ ends (i .aborted) St.uncorrectable [] ∧ (s.licenceOk b = false → ends (i .ok) St.imageInvalid []) ∧
   (s.licenceOk b → ¬ newer → ends (i .ok) St.badArgument []) ∧ (s.licenceOk b → newer → does (i .ok) fun t => t.parts = s.parts ∧
    t.loupe.licSeq = hField b 16 4 ∧ t.loupe.features = (if bitOf l.features 1 then hField b 20 1 else hField b 20 1 &&& 0xD) ∧
    bits (t.reg Reg.keyLicence) 16 16 = hField b 16 4 % 65536 ∧ Told t k ⟨St.ok, 0, leBytes 1 t.loupe.features⟩))) ∧
 (∀ img h, c.opcode = Op.amend →
  let store := Instr.amendApplyStore k img h
  let live := Instr.amendApplyLive k img h
  (∀ r, s.amendImage e img h = .inl r → (q = 0 → exec store s = .next (s.ended k c r)) ∧ (q = 1 → give live r)) ∧
  ∀ b, s.amendImage e img h = .inr b →
   let kept (t : State) := t.parts = s.parts ∧ t.loupe.amends = l.amends ∧ ∀ chip, chip < 2 → t.flashRec chip (s.amendsStored 0).2 = b
   let may : Prop := l.standby ∧ l.standbyHalted = false ∧ s.amendFits b
   (q = 0 → (s.amendFits b → does store fun t => kept t ∧ Told t k ⟨St.ok, 0, []⟩) ∧ (s.amendFits b = false → ends store St.noResource [])) ∧
   (q = 1 → (l.handover → give live ⟨St.busy, 0, []⟩) ∧ (l.handover = false → ¬ may → give live ⟨St.noResource, 0, []⟩) ∧
    (l.handover = false → may → does live fun t => kept t ∧ Waits t k ∧ t.loupe.handover ∧
     t.loupe.amendPending = some (hField b 8 4, sub b 24 48) ∧ t.loupe.active = l.active))) ∧
 (s.dev = .ready → (∀ i, i ∈ [1, 2, 4] → bits (s.reg Reg.errDevice) (winBit i) 1 = 0) → l.standby → l.standbyHalted = false → l.handover = false →
   does .loupeHandover fun t => t.dev = .ready ∧ t.loupe.handover ∧ t.loupe.active = l.active ∧ bits (t.reg Reg.errDevice) (winBit 3) 1 = 1 ∧
    3 ∈ t.loupe.conds ∧ (∀ d ∈ t.loupe.inflight, isConfig d → d.result.isSome) ∧
    ∀ p : PartId, s.partIn p [.running, .paused] → t.windowOpen p ∧ bits (t.reg (Reg.recovery p)) 28 3 = 4) ∧
 (s.dev = .ready → l.standby = false → ∃ t, exec .loupeHandover s = .next t ∧ t.mem = s.mem ∧ t.dev = .hold ∧ bits (t.reg Reg.hostState) 20 8 = 2 ∧
   ∀ d ∈ t.loupe.inflight, d.result.isSome ∨ d.opcode ∈ [Op.run, Op.resume, Op.replay]) ∧
 (let busy := l.inflight.any (fun d => d.opcode == Op.facetActivate && d.result.isNone)
  let swaps (t : State) := t.loupe.handover = false ∧ t.loupe.active = 1 - l.active ∧ bits (t.reg Reg.hostEvent) 4 1 = 1
  (∀ a, l.handover → l.amendPending = some a → (busy → exec .handoverComplete s = .next s) ∧ (busy = false →
    does .handoverComplete fun t => swaps t ∧ t.parts = s.parts ∧ t.loupe.amends = l.amends ++ [a] ∧ t.loupe.amendPending = none ∧
     t.loupe.standby = l.standby)) ∧
  (l.handover → l.amendPending = none → does .handoverComplete fun t => swaps t ∧
    t.loupe.standby = false ∧ t.loupe.amends = l.amends ∧ 3 ∉ t.loupe.conds) ∧ (l.handover = false → exec .handoverComplete s = .next s)) ∧
 (∀ n, c.opcode = Op.calibrate → (2 < q ∨ (9 < ef e 9 1 ∧ ef e 9 1 ≠ 0xFF) → give (.calibrate k n) ⟨St.badArgument, 0, []⟩) ∧
   (q ≤ 2 → ef e 9 1 ≤ 9 ∨ ef e 9 1 = 0xFF → does (.calibrate k n) fun t => Waits t k ∧ (t.cmd k).map (·.aux) = some n ∧
    ∀ o ∈ dieSensors (ef e 9 1), bits (t.reg o) 28 1 = (if q = 0 then 1 else bits (s.reg o) 28 1))) ∧
 (let w := ef e 8 2
  c.opcode = Op.powerCap → (w < 500 ∨ 4000 < w → give (.powerCapSet k) ⟨St.badArgument, 0, []⟩) ∧
   (500 ≤ w → w ≤ 4000 → does (.powerCapSet k) fun t => Waits t k ∧
    bits (t.reg Reg.pwrCap) 16 16 = w ∧ bits (t.reg Reg.pwrCap) 0 16 = bits (s.reg Reg.pwrCap) 0 16 ∧ ∀ o, o ≠ Reg.pwrCap → t.reg o = s.reg o)) ∧
 (c.opcode = Op.linkStatus → (q ≤ 19 → (s.linkRecord q).length = 8 ∧ ends (.linkStatus k) St.ok (s.linkRecord q)) ∧
   (q = 0xFF → ends (.linkStatus k) St.ok ((List.range 20).flatMap s.linkRecord)) ∧
   (19 < q → q ≠ 0xFF → ends (.linkStatus k) St.badArgument [])) ∧ (c.opcode = Op.port →
  let x := s.port q
  let a := ef e 9 1
  let takes (i : Instr) (st : PortState) (P : State → Prop) := does i fun t => P t ∧ (t.port q).state = st ∧
   (x.state ≠ .retraining → ∀ j, j ≠ q → t.port j = s.port j)
  let forms : List (Nat × PortState × Instr) := [(0, .up, .portRetrain k), (2, .disabled, .portEnable k), (3, .quarantined, .portReleaseQuarantine k)]
  (∀ r, s.portCheck q = some r → (a = 1 → exec (.portDisable k) s = .next (s.ended k c r)) ∧ ∀ f ∈ forms, a = f.1 → give f.2.2 r) ∧
  (s.portCheck q = none → (a = 1 → takes (.portDisable k) .disabled fun t => Told t k ⟨St.ok, 0, []⟩) ∧
   (∀ f ∈ forms, a = f.1 → x.state ≠ f.2.1 → give f.2.2 ⟨St.badArgument, 0, []⟩) ∧
   (a = 0 → x.state = .up → (s.hubRetrains q → ends (.portRetrain k) St.busy []) ∧ (s.hubRetrains q = false → takes (.portRetrain k) .retraining (Waits · k))) ∧
   (a = 2 → x.state = .disabled → takes (.portEnable k) .training (Waits · k)) ∧
   (a = 3 → x.state = .quarantined → takes (.portReleaseQuarantine k) .training fun t => Waits t k ∧ (t.port q).faultAt = []))) ∧
 (∀ h : Nat, let n := SMap.get 0 l.svcFails h
  (8 ≤ n → ∀ ok, exec (.servicePacketReceive h ok) s = .next s) ∧ (s.dev ≠ .cold → n < 8 →
   (does (.servicePacketReceive h true) fun t => t.regs = s.regs ∧ SMap.get 0 t.loupe.svcFails h = 0) ∧
   ∃ t, exec (.servicePacketReceive h false) s = .next t ∧ t.mem = s.mem ∧ SMap.get 0 t.loupe.svcFails h = n + 1 ∧
    (n < 7 → Counted s t Reg.errDevice 0) ∧ (n = 7 → bits (t.reg Reg.errDevice) (winBit 4) 1 = 1))) ∧
 (s.dev ≠ .staging → s.dev ≠ .ready → exec .serviceScrub s = .next s) ∧
 (s.dev = .staging ∨ s.dev = .ready → ∃ t, exec .serviceScrub s = .next t ∧ t.cores = s.cores ∧ t.parts = s.parts ∧
   ∀ h, members s.devFacet.svcChannels 512 = [h] → (s.clove h).halted = false → s.chanUp h → s.cloveThrottle h ≠ 2 →
    t = (s.scrubHbm h [⟨0, chanAddr h, channelBytes, false⟩]).2.2)

/-- The SPDM responder and the test access port. (R476, R478, R480, R481, R482, R483, R617, R618, R619, R636) -/
def Obligations.SpdmAndTestPort : Prop :=
 ∀ (s : State) (t : Fin 3),
 let x := s.spdmConn t
 let same (u : State) := u.mem = s.mem ∧ u.regs = s.regs ∧ u.parts = s.parts ∧ u.cores = s.cores
 let tells (u : State) (code : Nat) := ∃ b, u.out = s.out ++ [.spdm t b] ∧ (b.take 2 = [0x13, BitVec.ofNat 8 code] ∨ b.take 2 = [0x13, 0x7F])
 let does (i : Instr) (P : State → Prop) := ∃ u, exec i s = .next u ∧ same u ∧ P u
 let errs (i : Instr) (code : Nat) := exec i s = .next (s.send (.spdm t [0x13, 0x7F, BitVec.ofNat 8 code, 0]))
 (s.spdmUp t → (∀ r, does (.getVersion t r) fun u => (u.spdmConn t).version ∧ (u.spdmConn t).caps = false ∧
   (u.spdmConn t).algs = false ∧ tells u 0x04) ∧ (∀ r n, x.version → does (.getCapabilities t r n) fun u => (u.spdmConn t).caps ∧
   (u.spdmConn t).size = n ∧ (u.spdmConn t).algs = x.algs ∧ tells u 0x61) ∧ (∀ r n, x.version = false → errs (.getCapabilities t r n) 4) ∧
  (∀ r, x.caps → does (.negotiateAlgorithms t r true) fun u => (u.spdmConn t).algs ∧ tells u 0x63) ∧
  (∀ r, x.caps → errs (.negotiateAlgorithms t r false) 1) ∧ (x.algs → (∀ r, does (.getDigests t r) fun u => (u.spdmConn t).algs ∧ tells u 0x01) ∧
   (∀ r, does (.getCertificate t 0 r) fun u => (u.spdmConn t).algs ∧ tells u 0x02) ∧
   (∀ r j, j ≠ 0 → errs (.getCertificate t j r) 1 ∧ ∀ b, errs (.challenge t j b r) 1) ∧
   (∀ r b, does (.challenge t 0 b r) fun u => (u.spdmConn t).algs ∧ tells u 0x03) ∧ (∀ r b (i : Byte), i = 0 ∨ i = 0xFF ∨ (s.measurement i.toNat).isSome →
    does (.getMeasurements t i b r) fun u => (u.spdmConn t).algs ∧ tells u 0x60) ∧
   (∀ r b (i : Byte), i ≠ 0 → i ≠ 0xFF → s.measurement i.toNat = none → errs (.getMeasurements t i b r) 1)) ∧
  (∀ r i b, x.algs = false → i ≠ 0 → errs (.getDigests t r) 4 ∧ errs (.getMeasurements t i b r) 4) ∧ (x.chunk = [] → errs (.chunkGet t) 4) ∧
  (x.chunk ≠ [] → ∃ u b, exec (.chunkGet t) s = .next u ∧ same u ∧ (u.spdmConn t).chunk = x.chunk.drop (max 1 (x.size - 12)) ∧
   u.out = s.out ++ [.spdm t ([0x13, 0x06, 0, 0] ++ b ++ x.chunk.take (max 1 (x.size - 12)))])) ∧ (s.tapUp →
  let out (u : State) (v : Nat) := u.out = s.out ++ [.jtag v] ∧ u.mem = s.mem ∧ u.parts = s.parts
  let j := s.jtag
  (does .idcode fun u => out u 0x10C02A6B ∧ u.jtag.ir = 0x02 ∧ u.loupe = s.loupe) ∧
  (does (.bypass 0xFF) fun u => out u 0 ∧ u.jtag.ir = 0xFF ∧ u.loupe = s.loupe) ∧
  (∀ v, does (.samplePreload v) fun u => out u v ∧ u.jtag.ir = 0x01 ∧ u.loupe.debugWord = s.loupe.debugWord ||| 1) ∧
  (∀ v, does (.extest v) fun u => out u (if s.dev = .mgmtReady ∨ s.dev = .hold then v else 0) ∧ u.jtag.ir = 0x00) ∧ (s.tapActs →
   (∀ (v : BitVec 66) (o : Nat), v.extractLsb' 64 2 = 1 → o = (v.extractLsb' 32 32).toNat → o % 4 = 0 → o < 0x4000000 →
    ∃ u, exec (.regacc v) s = .next u ∧ out u (j.status % 4 * 2 ^ 64 + j.addr % 2 ^ 32 * 2 ^ 32 + j.data % 2 ^ 32) ∧
     u.jtag.status = 0 ∧ u.jtag.addr = o ∧ u.jtag.data < 2 ^ 32) ∧
   (∀ (v : BitVec 66) (o : Nat), v.extractLsb' 64 2 = 2 → o = (v.extractLsb' 32 32).toNat → o % 4 ≠ 0 ∨ 0x4000000 ≤ o →
    does (.regacc v) fun u => u.jtag.status = 3 ∧ u.jtag.addr = o) ∧
   (∀ (v : BitVec 115) (a : Nat), v.extractLsb' 112 2 = 1 → a = (v.extractLsb' 64 48).toNat → a % 8 = 0 → isScratch a →
    isHbm a = false → s.partOfScratch a = none → ∃ u, exec (.memacc v) s = .next u ∧ u.parts = s.parts ∧ u.jtag.status = 0 ∧
     u.jtag.addr = a ∧ u.jtag.data = leVal (s.ccRead none a 8).1 ∧ u.jtag.poison = ((s.ccRead none a 8).2.1 != 0)) ∧
   (∀ (v : BitVec 115) (a p : Nat), v.extractLsb' 112 2 = 1 → a = (v.extractLsb' 64 48).toNat → (s.debugOwner a).1 = some p →
    s.consent p 0 = false → s.consent p 2 = false →
    does (.memacc v) fun u => u.jtag.status = 2 ∧ u.jtag.data = 0 ∧ u.loupe.debugWord = s.loupe.debugWord ||| 1) ∧
   (∀ n, ∃ u v, exec (.linkdbg n) s = .next u ∧ out u v ∧ same u ∧ v / 2 ^ 56 = n.toNat ∧ u.loupe.debugWord = s.loupe.debugWord ||| 1 ||| 4) ∧
   (∃ u v, exec .dtmcs s = .next u ∧ out u v ∧ same u ∧ v % 16 = 1) ∧ (∀ a d, exec (.dmi a d 0) s = .next ((s.shiftIr 0x11).tdo 0)) ∧
   (∀ d, does (.dmi 0x10 d 2) fun u => out u 0 ∧ u.jtag.dmcontrol = d ∧
    (bits d 0 1 = 1 → bits d 31 1 = 1 → bits d 16 10 = 1 - s.loupe.active → s.loupe.active ≤ 1 → s.loupe.standby → u.loupe.standbyHalted)) ∧
   (∀ d, ∃ u, exec (.dmi 0x10 d 1) s = .next u ∧ out u j.dmcontrol.toNat ∧ same u) ∧
   (∀ d, bits j.sbcs 20 1 = 0 → does (.dmi 0x39 d 2) fun u => out u 0 ∧ u.jtag.sbaddr = j.sbaddr / 2 ^ 32 * 2 ^ 32 + d.toNat) ∧
   ∀ d p, let a := j.sbaddr / 2 ^ 32 * 2 ^ 32 + d.toNat
    bits j.sbcs 20 1 = 1 → bits j.sbcs 12 3 = 0 → bits j.sbcs 17 3 = 3 → a % 8 = 0 → (s.debugOwner a).1 = some p →
    s.consent p 0 = false → s.consent p 2 = false → does (.dmi 0x39 d 2) fun u => out u 0 ∧ u.jtag.sbdata = 0))

/-- Every reset leaves partitions, keys and the device facet EMPTY. (R451) -/
def Obligations.ResetsLeave : Prop :=
 ∀ (s : State),
 let cleared (t : State) := t.dev = .cold ∧ t.parts = [] ∧ (∀ p, (t.part p).state = .empty ∧ t.part p = Partition.reset) ∧
  t.keys = [] ∧ (∀ k, (t.key k).state = .empty ∧ t.key k = KeySlot.reset) ∧ t.recvKeys = [] ∧ t.devFacet = State.reset.devFacet ∧
  (∀ p, (t.rec_ p).valid = false) ∧ (∀ p : PartId, t.reg (Reg.keyConsent p) = 0) ∧ t.mem = Mem.empty ∧ t.loupe.inflight = []
 (∀ g, s.power.aonUp → s.dev ≠ .shutdown → ∃ t, exec (.supplyReset g) s = .next t ∧ cleared t) ∧
 (∀ r, s.power.aonUp → ∃ t, exec (.railOvervoltage r) s = .next t ∧ cleared t) ∧
 (s.power.aonUp → s.power.refclk → ∃ t, exec .refclkLoss s = .next t ∧ cleared t ∧ t.power.refclk = false) ∧
 (∃ t, exec .powerOnReset s = .next t ∧ cleared t ∧ t.timebase = 0 ∧ t.power = Power.reset) ∧
 (s.dev = .shutdown → s.noneGood → ∃ t, exec .coldEntry s = .next t ∧ cleared t)

/-- Supplies, die identity, brown-outs, PMBus, AVS, the Aperture, windows, entropy, SMBus; codes: log 32. (R23, R25, R460, R545, R552, R555, R556, R559, R562, R564, R565, R634) -/
def Obligations.PowerEvents : Prop :=
 ∀ (s : State),
 let w := s.power
 let same := Unmoved s
 let does (i : Instr) (P : State → Prop) := ∃ t, exec i s = .next t ∧ same t ∧ P t
 (w.aonUp → w.pwrReq = false → w.thermtripLow = false → (s.dev = .ready → exec .pwrReqOn s = .next { s with power := { w with pwrReq := true } }) ∧
  (s.dev = .shutdown → exec .pwrReqOn s = .next { s with power := { w with pwrReq := true, reqPending := true } }) ∧
  (∀ r l m, s.dev = .cold → w.seqUp = none → s.allGood = false → s.seqRails = r :: l → w.board = some m →
   does .pwrReqOn fun t => t.power.pwrReq ∧ t.power.seqUp = some 0 ∧
    t.out = s.out ++ [.pmbus (SMap.get (0, 0, 0) m r).1 (SMap.get (0, 0, 0) m r).2.1 0x01 0x80])) ∧
 (w.aonUp → s.dev = .ready → does .pwrReqOff fun t => t.dev = .shutdown ∧ t.power.pwrReq = false ∧
  (∀ c ∈ t.loupe.inflight, c.result.isSome) ∧ t.loupe.handover = false ∧ bits (t.reg Reg.irisCtrl) 8 8 = w.dutyMax % 256) ∧
 (∀ i, w.seqUp = some i → s.dev = .cold → i + 1 < s.seqRails.length → does .railSequenceNext fun t => t.power.seqUp = some (i + 1) ∧ t.dev = .cold) ∧
 (∀ i, w.seqUp = some i → s.dev = .cold → s.seqRails.length ≤ i + 1 → w.pwrReq →
  exec .railSequenceNext s = .next { s with power := { w with seqUp := none } }) ∧
 (∀ i, w.seqDown = some i → s.dev = .shutdown → does .shutdownRailOff fun t => t.power.seqDown = (if i + 1 < s.seqRails.length then some (i + 1) else none)) ∧
 (∀ g : Fin 4, w.aonUp → does (.pwrGoodValid g) fun t => t.goodInput g ∧
  (∀ h, h ≠ g.val → t.goodInput h = s.goodInput h) ∧ ∀ r, r < 16 → goodGroup r = g → bits (t.reg (Reg.rail r)) 9 1 = 1) ∧
 (w.aonUp → w.refclk = false → does .refclk25mReturn fun t => t.power.refclk ∧ bits (t.reg Reg.clkStatus) 31 1 = 1 ∧ t.dev = s.dev) ∧
 (∀ (d : Fin 10) code, w.aonUp → s.loupe.windowOpen → SMap.find s.loupe.strap d.val = none →
  does (.strapSample d code) fun t => t.regs = s.regs ∧ SMap.find t.loupe.strap d.val = some code.toNat ∧
   exec (.strapSample d (code + 1)) t = .next t) ∧ (w.aonUp → s.loupe.windowOpen → does .collectionWindowClose fun t => t.loupe.windowOpen = false ∧
  t.loupe.active = s.strapActive ∧ (∀ o, o ≠ Reg.dieMap → t.reg o = s.reg o) ∧
  (s.loupe.strap = (List.range 10).map (fun i => (i, i)) → t.reg Reg.dieMap = 0xC00003FF) ∧ (s.loupe.strap = [] → t.reg Reg.dieMap = 0x80000000)) ∧
 (∀ r : RailId, s.dev = .ready → w.brownout = false → (∀ i, i ∈ [2, 3, 4] → bits (s.reg Reg.errDevice) (winBit i) 1 = 0) →
  does (.railWarning r) fun t => t.dev = .ready ∧ t.power.brownout ∧ t.power.brownAt = s.timebase ∧
   bits (t.reg (Reg.rail r)) 7 1 = 1 ∧ bits (t.reg Reg.errDevice) (winBit 1) 1 = 1 ∧
   ∀ p : PartId, (t.part p).brownout = (s.partIn p [.running] || (s.part p).brownout)) ∧
 (∀ l, w.brownout → (∀ p ∈ w.brownParts, p < 64) → does (.railRecovery l) fun t =>
  let short : Prop := s.timebase ≤ w.brownAt + 20000000
  t.power.brownout = false ∧ t.power.warned = [] ∧ 1 ∉ t.loupe.conds ∧
  t.reg Reg.brownoutCount = (if short then s.reg Reg.brownoutCount + 1 else s.reg Reg.brownoutCount) ∧
  ∀ p ∈ w.brownParts, (t.part p).brownout = false ∧ ((short → (s.part p).brownOpen = false) → (t.part p).state = (s.part p).state) ∧
   (short → (s.part p).brownout → s.partIn p [.running, .paused] → t.windowOpen p ∧ bits (t.reg (Reg.recovery p)) 28 3 = 1 ∧
    ((s.part p).brownOpen → (t.part p).state = .faulted))) ∧
 (w.brownout → w.brownAt + 20000000 ≤ s.timebase → (∀ p ∈ w.brownParts, p < 64) →
  does .brownoutTimeout fun t => t.power.brownParts = [] ∧ t.power.brownout ∧ ∀ p ∈ w.brownParts, (t.part p).brownout = false ∧ (s.partIn p [.running] →
    (t.part p).state = .faulted ∧ bits (t.reg (Reg.partFault p)) 24 8 = 0x42)) ∧ (∀ l, s.dev ≠ .cold → ∀ i, i = Instr.pmbusPoll l ∨ i = Instr.pmbAlert l →
  ((∀ x ∈ l, x.2.2.2 = false) → (∀ r, r < 16 → s.railFlag r 0 → ∃ x ∈ l, x.1.val = r) →
   does i fun t => t.dev = s.dev ∧ RailsRead s t l) ∧
  (l = [] → ∃ t, exec i s = .next t ∧ t.mem = s.mem ∧ ∀ r, r < 16 → s.railFlag r 0 → SMap.get 0 t.power.missed r = SMap.get 0 w.missed r + 1 ∧
   (SMap.get 0 w.missed r = 2 → bits (t.reg (Reg.rail r)) 8 1 = 1))) ∧
 (∀ l, s.dev = .ready → does (.avsUpdate l) fun t => (∀ i, i < 8 → s.railFlag i 2 = false → t.reg (Reg.rail i) = s.reg (Reg.rail i)) ∧
  (∀ i, i < 8 → s.railFlag i 2 → (∃ x ∈ l, s.powered x.1 ∧ x.1.val / 32 = i) →
   let old := if bits (s.reg (Reg.rail i)) 10 11 = 0 then bits (s.reg (Reg.rail i)) 21 11 else bits (s.reg (Reg.rail i)) 10 11
   let new := bits (t.reg (Reg.rail i)) 10 11
   (old = 0 → new = 0) ∧ (old ≠ 0 → 550 ≤ new ∧ new ≤ 900) ∧ (550 ≤ old → old ≤ 900 → new ≤ old + 10 ∧ old ≤ new + 10))) ∧
 (∀ p : PartId, exec (.pointChangeDone p) s = .next (s.setField (Reg.clkPart p) 31 1 0)) ∧
 (∀ (i : Fin 8) b l, SMap.get [] s.aperture i.val = b :: l → w.brownout = false → s.ramps i.val < 4 → s.dev = .ready →
  does (.apertureAdmit i) fun t => t.block b = { s.block b with queued := false, ramping := true } ∧
   SMap.get [] t.aperture i.val = l ∧ ∀ j, j ≠ b → t.block j = s.block j) ∧
 (∀ b : BlockId, (s.block b).ramping → exec (.rampEnd b) s = .next (s.setBlock b { s.block b with
  state := if (s.block b).state = .off ∧ (s.block b).target ≠ .active then BState.retain else BState.active, ramping := false,
  fillCore := (s.block b).fillCore || (s.block b).state == .off })) ∧
 (∀ b : BlockId, (s.block b).ramping = false → (s.block b).queued = false → (s.block b).target.rank < (s.block b).state.rank →
  (s.block b).state ≠ .retired → exec (.blockLowerEnd b) s = .next (s.setBlock b { s.block b with
   state := if (s.block b).state = .active then BState.retain else BState.off })) ∧
 (∀ i : Fin 5, i.val ≠ 0 → i.val ∉ s.loupe.conds → SMap.get 0 s.loupe.winAt i.val + 1000000000 ≤ s.timebase →
  exec (.deviceWindowExpiry i) s = .next (s.setField Reg.errDevice (winBit i) 1 0)) ∧
 (does .entropyHealthFail fun t => t.loupe.entropyOk = false ∧ bits (t.reg Reg.errDevice) 21 1 = 1) ∧
 (does .entropyHealthRecovery fun t => t.loupe.entropyOk ∧ bits (t.reg Reg.errDevice) 21 1 = 0) ∧
 (s.dev ≠ .cold → s.loupe.smbAlert → does .alertResponseAddressRead fun t => t.loupe.smbAlert = false ∧
  t.out = s.out ++ [.smbus [BitVec.ofNat 8 (2 * s.loupe.smbAddr)]]) ∧
 (∀ a, s.dev ≠ .cold → ∃ t b, exec (.addressResolutionProtocol a) s = .next t ∧ same t ∧ t.loupe.smbAddr = a.toNat ∧
  t.out = s.out ++ [.smbus b] ∧ b.length = 16)

/-- The coolant condition's begin and end. (R581) -/
def Obligations.CoolantCondition : Prop :=
 ∀ (s : State) (tin tout : Int), s.dev ≠ .cold → s.loupe.handover = false → -320 ≤ tin → tin ≤ 1920 →
 let known := s.power.board.isSome
 let flow := s.flowOf s.flowPulses
 let hot : Prop := 16 * 40 < tin ∨ (known ∧ flow < 2000)
 let good : Prop := tin ≤ 16 * 39 ∧ (known → 2200 ≤ flow)
 let bad := s.thermal.coolBad
 ∃ t, exec (.coolantRead tin tout) s = .next t ∧ t.mem = s.mem ∧
  (bad = false → hot → t.thermal.coolBad ∧ t.thermal.coolant = 7 ∧ bits (t.reg Reg.errDevice) (winBit 2) 1 = 1 ∧ 2 ∈ t.loupe.conds) ∧
  (bad → good → t.thermal.coolBad = false ∧ (t.anyHot = false → 2 ∉ t.loupe.conds)) ∧
  (bad = false → ¬ hot → t.thermal.coolBad = false ∧ t.loupe.conds = s.loupe.conds) ∧ (bad → ¬ good → t.thermal.coolBad ∧ t.loupe.conds = s.loupe.conds)

/-- Sensors, power samples, the Iris, flow and the coolant PWM. (R567, R568, R569, R570, R574, R575, R576, R577, R580, R582) -/
def Obligations.ThermalAndPowerCap : Prop :=
 ∀ (s : State),
 let h := s.thermal
 let w := s.power
 let same (t : State) := t.mem = s.mem
 (∀ (kind : Fin 3) (u : Fin 16) (i : Fin 40) (v : BitVec 16) o, sensorReg kind u i = some o → w.aonUp → s.dev = .ready → w.thermtripLow = false →
   let l := s.sampleLevel kind o v.toInt
   (l ≤ 3 ∧ (SMap.find h.last o = some (v.toInt + 2 ^ 15).toNat → bits (s.reg o) 29 2 = 0 → kind = 0 →
    (v.toInt < 16 * 90 → l = 0) ∧ (16 * 90 < v.toInt → v.toInt < 16 * 98 → l = 1) ∧
    (16 * 98 < v.toInt → v.toInt < 16 * 108 → l = 2) ∧ (16 * 108 < v.toInt → l = 3))) ∧
   (∃ t, exec (.thermalSample kind u i v) s = .next t ∧ same t ∧ bits (t.reg o) 31 1 = 1 ∧ bits (t.reg o) 29 2 = l ∧
    bits (t.reg o) 0 16 = (if bits (s.reg o) 28 1 = 1 then bits (s.reg o) 0 16 else v.toNat) ∧
    SMap.find t.thermal.last o = some (v.toInt + 2 ^ 15).toNat ∧ (l = 3 → bits (s.reg o) 29 2 ≠ 3 → Tripped t kind u v))) ∧ (∀ (l : List Nat) n, s.dev ≠ .cold →
   let pkg := ((List.range 8).map (fun t => l.getD t 0)).sum + n
   ∃ t, exec (.powerSample l n) s = .next t ∧ same t ∧ t.cores = s.cores ∧ t.thermal.count = h.count + 1 ∧
    bits (t.reg Reg.pwrPackage) 0 16 = min pkg 0xFFFF ∧ t.thermal.peak = (if 4400 < pkg then 7 else h.peak) ∧
    SMap.get 0 t.thermal.acc 8 = SMap.get 0 h.acc 8 + n ∧ ∀ i, i < 8 → SMap.get 0 t.thermal.acc i = SMap.get 0 h.acc i + l.getD i 0) ∧
 (s.dev ≠ .cold → ∃ t, exec .irisEvaluation s = .next t ∧ same t ∧ t.cores = s.cores ∧ t.thermal.count = 0 ∧ t.thermal.acc = [] ∧
   bits (t.reg Reg.pwrCap) 16 16 = bits (s.reg Reg.pwrCap) 16 16 ∧
   bits (t.reg Reg.pwrCap) 0 16 = min (bits (s.reg Reg.pwrCap) 16 16) (bits (t.reg Reg.pwrCapThermal) 0 16) ∧
   ∀ k c, s.cmd k = some c → t.cmd k = some (if c.opcode = Op.powerCap ∧ c.begun ∧ c.result.isNone then
    { c with result := some ⟨St.ok, 0, leBytes 2 (bits (t.reg Reg.pwrCap) 0 16)⟩ } else c)) ∧
 (w.aonUp → exec .flowPulse s = .next { s with thermal := { h with pulses := s.flowPulses ++ [s.timebase] } }) ∧
 (let d := bits (s.reg Reg.irisCtrl) 8 8
  let flow := bits (s.reg Reg.thermFlow) 0 16
  let set := 100 * bits (s.reg Reg.irisCtrl) 16 8
  w.aonUp → (s.dev = .ready → s.anyWarm = false → flow ≠ 0xFFFF → w.dutyMin ≤ w.dutyMax → w.dutyMax ≤ 255 →
    ∃ t, exec .coolantPwmUpdate s = .next t ∧ same t ∧ (∀ o, o ≠ Reg.irisCtrl → t.reg o = s.reg o) ∧
     let n := bits (t.reg Reg.irisCtrl) 8 8
     w.dutyMin ≤ n ∧ n ≤ w.dutyMax ∧ (w.dutyMin ≤ d → d ≤ w.dutyMax → n ≤ d + 5 ∧ d ≤ n + 5 ∧
      (flow + 500 ≤ set → d + 5 ≤ w.dutyMax → n = d + 5) ∧ (set ≤ flow → n ≤ d) ∧ (flow ≤ set → d ≤ n))) ∧
   (s.anyWarm ∨ flow = 0xFFFF ∨ s.dev = .shutdown ∨ s.dev = .cold → exec .coolantPwmUpdate s = .next (s.setField Reg.irisCtrl 8 8 w.dutyMax)))

/-- Start-up and bring-up, stage by stage; choice: log 42. (R24, R485, R489, R584, R588, R589, R590, R592, R593, R594, R595, R628) -/
def Obligations.BringUpStages : Prop :=
 ∀ (s : State),
 let l := s.loupe
 let same (t : State) := t.cores = s.cores ∧ t.parts = s.parts
 let does (i : Instr) (P : State → Prop) := ∃ t, exec i s = .next t ∧ same t ∧ P t
 let reaches (t : State) (n : Nat) := t.loupe.bringStep = n ∧ t.dev = s.dev
 let holds (i : Instr) (cause : Nat) := ∃ t, exec i s = .next t ∧ t.dev = .hold ∧ bits (t.reg Reg.hostState) 20 8 = cause ∧ t.mem = s.mem
 (s.power.aonUp = false → does .alwaysOnResetRelease fun t => t.mem = s.mem ∧ t.power.aonUp ∧
  t.power.refclk ∧ t.loupe.active = s.strapActive ∧ t.dev = s.dev ∧
  (s.flash = [] → t.loupe.features = 0 ∧ t.power.board = none ∧ bits (t.reg Reg.laneStatus) 30 2 = 2)) ∧ (s.power.pwrReq →
  (∀ k l0 l1, s.dev = .cold → s.power.aonUp → s.allGood → s.power.refclk → l.windowOpen = false → SMap.get false l.perst 0 = true →
   ((bits (s.reg Reg.dieMap) 30 1 = 1 → s.flash = [] → k = true →
     does (.mgmtReadyEntry k l0 l1) fun t => t.mem = s.mem ∧ t.dev = .mgmtReady ∧ t.loupe.bringStep = 2) ∧
    (bits (s.reg Reg.dieMap) 30 1 = 0 → holds (.mgmtReadyEntry k l0 l1) 1) ∧
    (bits (s.reg Reg.dieMap) 30 1 = 1 → k = false → holds (.mgmtReadyEntry k l0 l1) 4))) ∧ (s.atStep 2 → ∀ r,
   (∃ t, exec (.clocksAndMeshStage r true) s = .next t ∧ reaches t 3 ∧ t.mem = s.mem ∧ bits (t.reg Reg.clkStatus) 30 1 = b2n r ∧
     ∀ b : BlockId, (t.block b).state = .active ∨ (t.block b).state = .retired) ∧ holds (.clocksAndMeshStage r false) 4) ∧
  (s.atStep 3 → ∀ (rt : Bool) (ps : List (Fin 16896)) (cs : List ChanId),
   does (.memoryTraining rt ps cs []) fun t => reaches t 4 ∧ t.mem = s.mem ∧ t.loupe.failedCores = ps.map Fin.val ∧
     (∀ c ∈ cs, t.chanFailed c) ∧ ∀ c : ChanId, bits (t.reg (Reg.hbmStatus c)) 0 5 = 16) ∧ (s.atStep 4 → ∀ bs : List BlockId,
   (does (.checkerSelfTest bs false) fun t => reaches t 5 ∧ t.mem = s.mem ∧ t.regs = s.regs ∧ t.loupe.failedUnits = bs.map Fin.val) ∧
   holds (.checkerSelfTest bs true) 4) ∧
  (s.atStep 5 → does .bringUpZeroFill fun t => reaches t 6 ∧ t.regs = s.regs ∧ ∀ a, t.mem.byte a = 0) ∧
  (s.atStep 6 → l.wavesDone = 0 → ∀ cs : List ChanId, (∀ c ∈ cs, c.val ≠ 31) →
   does (.memoryTestWave [] [] [] [] cs false) fun t => reaches t 7 ∧ t.mem = s.mem ∧ t.loupe.wavesDone = 1 ∧ (∀ c ∈ cs, t.chanFailed c) ∧
     ∀ c : ChanId, t.chanFailed c = false → bits (t.reg (Reg.chanReleased (c / 32))) (c % 32) 1 = 1) ∧
  (s.atStep 6 → l.wavesDone = 0 → holds (.memoryTestWave [] [] [] [] [] true) 4) ∧
  (s.atStep 7 → s.repairs = none → ∃ t, exec (.linksStage []) s = .next t ∧ t.parts = s.parts ∧ reaches t 8 ∧ t.mem = s.mem ∧
   ∀ q, q < 20 → (t.port q).state = (if (s.port q).fabric then PortState.training else (s.port q).state)) ∧ (s.atStep 8 → l.failedCores = [] →
   ((List.range 256).any (s.toStep 9).releasable → does (.blockSelfTest []) fun t => reaches t 9 ∧ t.mem = s.mem) ∧
   ((List.range 256).any (s.toStep 9).releasable = false → holds (.blockSelfTest []) 4)) ∧
  (s.dev = .staging → l.bringStep = 9 → l.wavesDone = 16 → (List.range 256).any s.releasable = false →
   does .bringUpComplete fun t => t.mem = s.mem ∧ t.dev = .ready ∧ t.loupe.bringStep = 10 ∧
     (bits (s.reg Reg.bringup) 23 1 = 0 → bits (t.reg Reg.bringup) 21 1 = 1))) ∧
 (∀ b : BlockId, s.dev = .mgmtReady ∨ s.dev = .staging → l.bringStep = 9 → s.releasable b →
  does (.blockRelease b) fun t => t.mem = s.mem ∧ t.dev = .staging ∧ t.isReleased b ∧
   t.block b = Block.reset ∧ (∀ j, j ≠ b.val → t.block j = s.block j) ∧ ∀ j : BlockId, j ≠ b → t.isReleased j = s.isReleased j)
end

