-- ==== Sys2Proof/Laws/Map.lean ====
section
/-! SUPPORT. Laws of the sparse maps and of memory: a read after a write, and that every operation keeps the canonical
form. -/

namespace Sys2Proof

section
variable {α : Type}

theorem SMap.sorted_iff (m : SMap α) : SMap.sorted m = true ↔ List.Pairwise (fun a b => a.1 < b.1) m := by
  induction m with
  | nil => simp [SMap.sorted]
  | cons x m ih =>
    cases m with
    | nil => simp [SMap.sorted]
    | cons y m =>
      obtain ⟨k, v⟩ := x
      obtain ⟨k', v'⟩ := y
      simp only [SMap.sorted, Bool.and_eq_true, decide_eq_true_eq, ih, List.pairwise_cons, List.mem_cons]
      constructor
      · rintro ⟨h, h1, h2⟩
        refine ⟨?_, h1, h2⟩
        rintro a (rfl | ha)
        · exact h
        · exact Nat.lt_trans h (h1 a ha)
      · rintro ⟨h, h1, h2⟩
        exact ⟨h _ (Or.inl rfl), h1, h2⟩

theorem SMap.mem_put {m : SMap α} {i : Nat} {v : α} {p : Nat × α} (h : p ∈ SMap.put m i v) : p = (i, v) ∨ p ∈ m := by
  induction m with
  | nil => simp [SMap.put] at h; exact Or.inl h
  | cons x m ih =>
    obtain ⟨k, w⟩ := x
    simp only [SMap.put] at h
    split at h
    · next e => subst e; simp at h ⊢; tauto
    · split at h
      · simp at h ⊢; tauto
      · simp at h ⊢
        rcases h with h | h
        · tauto
        · rcases ih h with h | h <;> tauto

theorem SMap.mem_del {m : SMap α} {i : Nat} {p : Nat × α} (h : p ∈ SMap.del m i) : p ∈ m := List.mem_of_mem_filter h

theorem SMap.sorted_put {m : SMap α} (i : Nat) (v : α) (h : SMap.sorted m = true) : SMap.sorted (SMap.put m i v) = true := by
  rw [SMap.sorted_iff] at *
  induction m with
  | nil => simp [SMap.put]
  | cons x m ih =>
    obtain ⟨k, w⟩ := x
    simp only [List.pairwise_cons] at h
    simp only [SMap.put]
    split
    · next e => subst e; exact List.pairwise_cons.2 ⟨h.1, h.2⟩
    · split
      · next e =>
        refine List.pairwise_cons.2 ⟨?_, List.pairwise_cons.2 h⟩
        intro a ha
        rcases List.mem_cons.1 ha with rfl | ha
        · exact e
        · exact Nat.lt_trans e (h.1 a ha)
      · refine List.pairwise_cons.2 ⟨?_, ih h.2⟩
        intro a ha
        rcases SMap.mem_put ha with rfl | ha
        · show k < i; omega
        · exact h.1 a ha

theorem SMap.sorted_del {m : SMap α} (i : Nat) (h : SMap.sorted m = true) : SMap.sorted (SMap.del m i) = true := by
  rw [SMap.sorted_iff] at *
  exact h.filter _

theorem SMap.sorted_filter {m : SMap α} (f : Nat × α → Bool) (h : SMap.sorted m = true) :
    SMap.sorted (m.filter f : SMap α) = true := by
  rw [SMap.sorted_iff] at *
  exact h.filter f

theorem SMap.sorted_clear {m : SMap α} (lo hi : Nat) (h : SMap.sorted m = true) :
    SMap.sorted (SMap.clear m lo hi) = true := SMap.sorted_filter _ h

variable [DecidableEq α]

theorem SMap.wf_iff (d : α) (m : SMap α) : SMap.wf d m = true ↔ SMap.sorted m = true ∧ ∀ p ∈ m, p.2 ≠ d := by
  simp [SMap.wf, List.all_eq_true]

theorem SMap.wf_del {d : α} {m : SMap α} (i : Nat) (h : SMap.wf d m = true) : SMap.wf d (SMap.del m i) = true := by
  rw [SMap.wf_iff] at *
  exact ⟨SMap.sorted_del i h.1, fun p hp => h.2 p (SMap.mem_del hp)⟩

theorem SMap.wf_set {d : α} {m : SMap α} (i : Nat) (v : α) (h : SMap.wf d m = true) : SMap.wf d (SMap.set d m i v) = true := by
  unfold SMap.set
  split
  · exact SMap.wf_del i h
  · next e =>
    rw [SMap.wf_iff] at *
    refine ⟨SMap.sorted_put i v h.1, fun p hp => ?_⟩
    rcases SMap.mem_put hp with rfl | hp
    · exact e
    · exact h.2 p hp

theorem SMap.wf_filter {d : α} {m : SMap α} (f : Nat × α → Bool) (h : SMap.wf d m = true) :
    SMap.wf d (m.filter f : SMap α) = true := by
  rw [SMap.wf_iff] at *
  exact ⟨SMap.sorted_filter f h.1, fun p hp => h.2 p (List.mem_of_mem_filter hp)⟩

theorem SMap.wf_clear {d : α} {m : SMap α} (lo hi : Nat) (h : SMap.wf d m = true) : SMap.wf d (SMap.clear m lo hi) = true :=
  SMap.wf_filter _ h

end

section
variable {α : Type}

/-- A read after a write of the same key gives the value written. -/
@[simp] theorem SMap.get_put_same (d : α) (m : SMap α) (i : Nat) (v : α) : SMap.get d (SMap.put m i v) i = v := by
  induction m with
  | nil => simp [SMap.put, SMap.get]
  | cons x m ih =>
    obtain ⟨k, w⟩ := x
    simp only [SMap.put]
    split
    · next e => simp [SMap.get, e]
    · split
      · simp [SMap.get]
      · next a b => simp [SMap.get, a, ih]

/-- A write leaves every other key alone. -/
theorem SMap.get_put_other (d : α) (m : SMap α) {i j : Nat} (v : α) (hj : j ≠ i) :
    SMap.get d (SMap.put m i v) j = SMap.get d m j := by
  induction m with
  | nil => simp [SMap.put, SMap.get, hj]
  | cons x m ih =>
    obtain ⟨k, w⟩ := x
    simp only [SMap.put]
    split
    · next e =>
      subst e
      simp only [SMap.get, if_neg hj]
    · split
      · simp only [SMap.get, if_neg hj]
      · simp only [SMap.get, ih]

@[simp] theorem SMap.find_put_same (m : SMap α) (i : Nat) (v : α) : SMap.find (SMap.put m i v) i = some v := by
  induction m with
  | nil => simp [SMap.put, SMap.find]
  | cons x m ih =>
    obtain ⟨k, w⟩ := x
    simp only [SMap.put]
    split
    · next e => simp [SMap.find, e]
    · split
      · simp [SMap.find]
      · next a b => simp [SMap.find, a, ih]

theorem SMap.find_put_other (m : SMap α) {i j : Nat} (v : α) (hj : j ≠ i) :
    SMap.find (SMap.put m i v) j = SMap.find m j := by
  induction m with
  | nil => simp [SMap.put, SMap.find, hj]
  | cons x m ih =>
    obtain ⟨k, w⟩ := x
    simp only [SMap.put]
    split
    · next e =>
      subst e
      simp only [SMap.find, if_neg hj]
    · split
      · simp only [SMap.find, if_neg hj]
      · simp only [SMap.find, ih]

theorem SMap.get_filter_keep (d : α) (m : SMap α) (f : Nat → Bool) {i : Nat} (h : f i = true) :
    SMap.get d (m.filter (fun p => f p.1) : SMap α) i = SMap.get d m i := by
  induction m with
  | nil => rfl
  | cons x m ih =>
    obtain ⟨k, w⟩ := x
    by_cases e : i = k
    · subst e
      simp [h, SMap.get]
    · cases hk : f k <;> simp [hk, SMap.get, e, ih]

theorem SMap.get_filter_drop (d : α) (m : SMap α) (f : Nat → Bool) {i : Nat} (h : f i = false) :
    SMap.get d (m.filter (fun p => f p.1) : SMap α) i = d := by
  induction m with
  | nil => rfl
  | cons x m ih =>
    obtain ⟨k, w⟩ := x
    by_cases e : i = k
    · subst e
      simp [h, ih]
    · cases hk : f k <;> simp [hk, SMap.get, e, ih]

@[simp] theorem SMap.get_del_same (d : α) (m : SMap α) (i : Nat) : SMap.get d (SMap.del m i) i = d :=
  SMap.get_filter_drop d m (fun k => decide (k ≠ i)) (by simp)

theorem SMap.get_del_other (d : α) (m : SMap α) {i j : Nat} (hj : j ≠ i) : SMap.get d (SMap.del m i) j = SMap.get d m j :=
  SMap.get_filter_keep d m (fun k => decide (k ≠ i)) (by simp [hj])

theorem SMap.get_clear_in (d : α) (m : SMap α) {lo hi i : Nat} (h : lo ≤ i) (k : i < hi) :
    SMap.get d (SMap.clear m lo hi) i = d :=
  SMap.get_filter_drop d m (fun k => decide (k < lo) || decide (hi ≤ k)) (by simp; omega)

theorem SMap.get_clear_out (d : α) (m : SMap α) {lo hi i : Nat} (h : i < lo ∨ hi ≤ i) :
    SMap.get d (SMap.clear m lo hi) i = SMap.get d m i :=
  SMap.get_filter_keep d m (fun k => decide (k < lo) || decide (hi ≤ k)) (by simpa using h)

variable [DecidableEq α]

@[simp] theorem SMap.get_set_same (d : α) (m : SMap α) (i : Nat) (v : α) : SMap.get d (SMap.set d m i v) i = v := by
  unfold SMap.set
  split
  · next e => rw [SMap.get_del_same d m i, e]
  · exact SMap.get_put_same d m i v

theorem SMap.get_set_other (d e : α) (m : SMap α) {i j : Nat} (v : α) (hj : j ≠ i) :
    SMap.get d (SMap.set e m i v) j = SMap.get d m j := by
  unfold SMap.set
  split
  · exact SMap.get_del_other d m hj
  · exact SMap.get_put_other d m v hj

end

namespace Machine

theorem Mem.wf_iff (m : Mem) :
    m.wf = true ↔ SMap.wf (0 : Byte) m.bytes = true ∧ SMap.wf false m.poison = true ∧ SMap.sorted m.flips = true := by
  simp [Mem.wf, Bool.and_eq_true, and_assoc]

theorem Mem.empty_wf : Mem.empty.wf = true := by decide

theorem Mem.setByte_wf {m : Mem} (a : Nat) (b : Byte) (h : m.wf = true) : (m.setByte a b).wf = true := by
  rw [Mem.wf_iff] at *
  exact ⟨SMap.wf_set a b h.1, h.2⟩

theorem Mem.write_wf {m : Mem} (a : Nat) (bs : Bytes) (h : m.wf = true) : (m.write a bs).wf = true := by
  induction bs generalizing m a with
  | nil => exact h
  | cons b bs ih => exact ih _ (Mem.setByte_wf a b h)

theorem Mem.mark_wf {m : Mem} (u : Nat) (p : Bool) (h : m.wf = true) : (m.mark u p).wf = true := by
  rw [Mem.wf_iff] at *
  exact ⟨h.1, SMap.wf_set u p h.2.1, SMap.sorted_del u h.2.2⟩

theorem Mem.writeUnit_wf {m : Mem} (u : Nat) (bs : Bytes) (p : Bool) (h : m.wf = true) : (m.writeUnit u bs p).wf = true :=
  Mem.mark_wf u p (Mem.write_wf u bs h)

theorem Mem.zero_wf {m : Mem} (lo hi : Nat) (h : m.wf = true) : (m.zero lo hi).wf = true := by
  rw [Mem.wf_iff] at *
  exact ⟨SMap.wf_clear lo hi h.1, SMap.wf_clear lo hi h.2.1, SMap.sorted_clear lo hi h.2.2⟩

/-- A fold whose every step keeps memory's form keeps it. -/
theorem Mem.foldl_wf {β : Type} {f : Mem → β → Mem} {l : List β} {m : Mem} (hf : ∀ m x, m.wf = true → (f m x).wf = true)
    (h : m.wf = true) : (l.foldl f m).wf = true := by
  induction l generalizing m with
  | nil => exact h
  | cons x l ih => exact ih (hf _ _ h)

/-- A byte read back after it is written. -/
@[simp] theorem Mem.byte_setByte_same (m : Mem) (a : Nat) (b : Byte) : (m.setByte a b).byte a = b :=
  SMap.get_set_same _ _ _ _

/-- A write of a byte leaves every other byte alone. -/
theorem Mem.byte_setByte_other (m : Mem) {a c : Nat} (b : Byte) (hc : c ≠ a) : (m.setByte a b).byte c = m.byte c :=
  SMap.get_set_other _ _ _ _ hc

@[simp] theorem Mem.byte_mark (m : Mem) (u : Nat) (p : Bool) (a : Nat) : (m.mark u p).byte a = m.byte a := rfl

/-- A write of bytes leaves every byte outside them alone. -/
theorem Mem.byte_write_other {m : Mem} {a c : Nat} (bs : Bytes) (hc : c < a ∨ a + bs.length ≤ c) :
    (m.write a bs).byte c = m.byte c := by
  induction bs generalizing m a with
  | nil => rfl
  | cons b bs ih =>
    simp only [Mem.write]
    simp only [List.length_cons] at hc
    rw [ih (by omega)]
    exact Mem.byte_setByte_other m b (by omega)

/-- What a write of bytes leaves at each of them. -/
theorem Mem.byte_write_at {m : Mem} {a i : Nat} (bs : Bytes) (hi : i < bs.length) :
    (m.write a bs).byte (a + i) = bs.getD i 0 := by
  induction bs generalizing m a i with
  | nil => simp at hi
  | cons b bs ih =>
    simp only [Mem.write]
    cases i with
    | zero =>
      rw [Mem.byte_write_other bs (by omega)]
      simp
    | succ i =>
      have := ih (m := m.setByte a b) (a := a + 1) (i := i) (by simpa using hi)
      rw [show a + (i + 1) = a + 1 + i by omega, this]
      simp

/-- Clearing a range: its bytes read 0, and no other byte changes. -/
theorem Mem.byte_zero_in (m : Mem) {lo hi a : Nat} (h : lo ≤ a) (k : a < hi) : (m.zero lo hi).byte a = 0 :=
  SMap.get_clear_in _ _ h k

theorem Mem.byte_zero_out (m : Mem) {lo hi a : Nat} (h : a < lo ∨ hi ≤ a) : (m.zero lo hi).byte a = m.byte a :=
  SMap.get_clear_out _ _ h

end Machine

end Sys2Proof
end

