-- ==== Sys2Proof/Laws/Keeps.lean ====
section
/-! SUPPORT. The laws of Keeps, by which every shared operation and every command is shown to leave the queue of waiting
commands alone and to keep the state's canonical form. -/

namespace Sys2Proof.Machine

theorem Keeps.refl (s : State) : Keeps s s := ⟨rfl, id, id, id, id⟩

theorem Keeps.trans {s t u : State} (a : Keeps s t) (b : Keeps t u) : Keeps s u :=
  ⟨b.queue.trans a.queue, b.mem ∘ a.mem, b.cache ∘ a.cache, b.regs ∘ a.regs, b.cnts ∘ a.cnts⟩

theorem Keeps.ite {s a b : State} {c : Prop} [Decidable c] (h : Keeps s a) (k : Keeps s b) :
    Keeps s (if c then a else b) := by
  split <;> assumption

theorem Keeps.cond {s a b : State} {c : Bool} (h : Keeps s a) (k : Keeps s b) : Keeps s (bif c then a else b) := by
  cases c <;> assumption

section
variable {β γ : Type} {s : State}

theorem Keeps.iteP (p : β → State) {a b : β} {c : Prop} [Decidable c] (h : Keeps s (p a)) (k : Keeps s (p b)) :
    Keeps s (p (if c then a else b)) := by
  split <;> assumption

theorem Keeps.condP (p : β → State) {a b : β} {c : Bool} (h : Keeps s (p a)) (k : Keeps s (p b)) :
    Keeps s (p (bif c then a else b)) := by
  cases c <;> assumption

theorem Keeps.fst {t : State} {x : β} (h : Keeps s t) : Keeps s (t, x).1 := h
theorem Keeps.snd {t : State} {x : β} (h : Keeps s t) : Keeps s (x, t).2 := h
theorem Keeps.fstP (p : β → State) {x : β} {y : γ} (h : Keeps s (p x)) : Keeps s (p (x, y).1) := h
theorem Keeps.sndP (p : β → State) {x : β} {y : γ} (h : Keeps s (p x)) : Keeps s (p (y, x).2) := h

theorem Keeps.foldl {f : State → β → State} {l : List β} {t : State} (h : Keeps s t)
    (hf : ∀ t x, Keeps s t → Keeps s (f t x)) : Keeps s (l.foldl f t) := by
  induction l generalizing t with
  | nil => exact h
  | cons x l ih => exact ih (hf _ _ h)

theorem Keeps.foldlP (p : γ → State) {f : γ → β → γ} {l : List β} {t : γ} (h : Keeps s (p t))
    (hf : ∀ t x, Keeps s (p t) → Keeps s (p (f t x))) : Keeps s (p (l.foldl f t)) := by
  induction l generalizing t with
  | nil => exact h
  | cons x l ih => exact ih (hf _ _ h)

theorem Keeps.foldr {f : β → State → State} {l : List β} {t : State} (h : Keeps s t)
    (hf : ∀ x t, Keeps s t → Keeps s (f x t)) : Keeps s (l.foldr f t) := by
  induction l with
  | nil => exact h
  | cons x l ih => exact hf _ _ ih

theorem Keeps.ofEq (p : β → State) {x y : β} (h : x = y) (k : Keeps s (p x)) : Keeps s (p y) := h ▸ k

/-- An answer that may be absent: when it is there, its state keeps what s has. -/
def KeepsIn (s : State) (p : β → State) (o : Option β) : Prop := ∀ v, o = some v → Keeps s (p v)

theorem KeepsIn.none {p : β → State} : KeepsIn s p none := fun _ h => nomatch h
theorem KeepsIn.some {p : β → State} {v : β} (h : Keeps s (p v)) : KeepsIn s p (some v) := by
  rintro w hw
  cases hw
  exact h
theorem KeepsIn.ite {p : β → State} {a b : Option β} {c : Prop} [Decidable c] (h : KeepsIn s p a) (k : KeepsIn s p b) :
    KeepsIn s p (if c then a else b) := by
  split <;> assumption
theorem KeepsIn.iteP {p : β → State} (q : γ → Option β) {a b : γ} {c : Prop} [Decidable c] (h : KeepsIn s p (q a))
    (k : KeepsIn s p (q b)) : KeepsIn s p (q (if c then a else b)) := by
  split <;> assumption
theorem KeepsIn.trans {t : State} {p : β → State} {o : Option β} (h : Keeps s t) (k : KeepsIn t p o) : KeepsIn s p o :=
  fun v hv => h.trans (k v hv)
theorem KeepsIn.ofEq (p : β → State) {o : Option β} {v : β} (h : o = Option.some v) (k : KeepsIn s p o) : Keeps s (p v) :=
  k v h
theorem KeepsIn.map {p : γ → State} {f : β → γ} {q : β → State} {o : Option β} (h : KeepsIn s q o)
    (hf : ∀ v, Keeps s (q v) → Keeps s (p (f v))) : KeepsIn s p (o.map f) := by
  cases o with
  | none => exact KeepsIn.none
  | some v => exact KeepsIn.some (hf v (h v rfl))
theorem KeepsIn.mapc {p : γ → State} {f : β → γ} {o : Option β} (hf : ∀ v, Keeps s (p (f v))) : KeepsIn s p (o.map f) := by
  cases o with
  | none => exact KeepsIn.none
  | some v => exact KeepsIn.some (hf v)
theorem KeepsIn.getD {p : β → State} {o : Option β} {d : β} (h : KeepsIn s p o) (k : Keeps s (p d)) :
    Keeps s (p (o.getD d)) := by
  cases o with
  | none => exact k
  | some v => exact h v rfl
theorem KeepsIn.fst {p : β → State} {x : Option β} {y : γ} (h : KeepsIn s p x) : KeepsIn s p (x, y).1 := h
theorem KeepsIn.snd {p : β → State} {x : Option β} {y : γ} (h : KeepsIn s p x) : KeepsIn s p (y, x).2 := h

end

/-- A command answers a next state, which keeps what s has. -/
def Good (s : State) (o : Host.Outcome State Fault Refusal) : Prop := ∃ t, o = .next t ∧ Keeps s t

theorem Good.ite {s : State} {a b : Host.Outcome State Fault Refusal} {c : Prop} [Decidable c] (h : Good s a) (k : Good s b) :
    Good s (if c then a else b) := by
  split <;> assumption

theorem Good.cond {s : State} {a b : Host.Outcome State Fault Refusal} {c : Bool} (h : Good s a) (k : Good s b) :
    Good s (bif c then a else b) := by
  cases c <;> assumption

theorem Good.trans {s t : State} {o : Host.Outcome State Fault Refusal} (h : Keeps s t) (k : Good t o) : Good s o := by
  obtain ⟨u, rfl, hu⟩ := k
  exact ⟨u, rfl, h.trans hu⟩

/-! Setting one register or counter, and writing memory. -/

theorem regsForm_iff (m : SMap Word) : regsForm m = true ↔ SMap.sorted m = true ∧ ∀ p ∈ m, p.2 ≠ regReset p.1 := by
  simp [regsForm, List.all_eq_true]

theorem regsForm_set {m : SMap Word} (i : Nat) (v : Word) (h : regsForm m = true) :
    regsForm (SMap.set (regReset i) m i v) = true := by
  rw [regsForm_iff] at *
  unfold SMap.set
  split
  · exact ⟨SMap.sorted_del i h.1, fun p hp => h.2 p (SMap.mem_del hp)⟩
  · next e =>
    refine ⟨SMap.sorted_put i v h.1, fun p hp => ?_⟩
    rcases SMap.mem_put hp with rfl | hp
    · exact e
    · exact h.2 p hp

theorem regsForm_filter {m : SMap Word} (f : Nat × Word → Bool) (h : regsForm m = true) :
    regsForm (m.filter f : SMap Word) = true := by
  rw [regsForm_iff] at *
  exact ⟨SMap.sorted_filter f h.1, fun p hp => h.2 p (List.mem_of_mem_filter hp)⟩

theorem regsForm_clear {m : SMap Word} (lo hi : Nat) (h : regsForm m = true) : regsForm (SMap.clear m lo hi) = true :=
  regsForm_filter _ h

theorem Keeps.withMem {s t : State} {m : Mem} (h : Keeps s t) (hm : t.mem.wf = true → m.wf = true) :
    Keeps s { t with mem := m } := h.trans ⟨rfl, hm, id, id, id⟩

theorem Keeps.withCache {s t : State} {c : Cache} (h : Keeps s t) (hc : t.cache.mem.wf = true → c.mem.wf = true) :
    Keeps s { t with cache := c } := h.trans ⟨rfl, id, hc, id, id⟩

end Sys2Proof.Machine
end

