-- ==== Sys2Proof/Laws/Regs.lean ====
section
/-! SUPPORT. What the operations of Machine/Regs.lean keep: the queue of waiting commands and the canonical form of the state
(Keeps); and that its commands answer a next state (Good). -/

namespace Sys2Proof.Machine

theorem State.setReg_keeps : ∀ s p1 p2, Keeps s (@State.setReg s p1 p2) := by
  intro s p1 p2
  unfold State.setReg
  refine Keeps.trans (Keeps.refl _) (Keeps.mk rfl ?_ ?_ ?_ ?_) <;> intro hh <;>
    (first | exact hh | exact Mem.writeUnit_wf _ _ _ hh | exact Mem.zero_wf _ _ hh | exact regsForm_filter _ hh
           | exact SMap.wf_clear _ _ hh | exact SMap.wf_set _ _ hh | exact regsForm_set _ _ hh | exact Mem.empty_wf | rfl
           | exact SMap.wf_clear _ _ (SMap.wf_clear _ _ hh) | exact regsForm_clear _ _ (regsForm_clear _ _ hh))

theorem State.orReg_keeps : ∀ s p1 p2, Keeps s (@State.orReg s p1 p2) := by
  intro s p1 p2
  unfold State.orReg
  exact Keeps.trans (Keeps.refl _) (State.setReg_keeps _ _ _)

theorem State.andNotReg_keeps : ∀ s p1 p2, Keeps s (@State.andNotReg s p1 p2) := by
  intro s p1 p2
  unfold State.andNotReg
  exact Keeps.trans (Keeps.refl _) (State.setReg_keeps _ _ _)

theorem State.setField_keeps : ∀ s p1 p2 p3 p4, Keeps s (@State.setField s p1 p2 p3 p4) := by
  intro s p1 p2 p3 p4
  unfold State.setField
  exact Keeps.trans (Keeps.refl _) (State.setReg_keeps _ _ _)

theorem State.countField_keeps : ∀ s p1 p2 p3 p4, Keeps s (@State.countField s p1 p2 p3 p4) := by
  intro s p1 p2 p3 p4
  unfold State.countField
  exact Keeps.trans (Keeps.refl _) (State.setField_keeps _ _ _ _ _)

end Sys2Proof.Machine
end

