-- ==== Sys2Proof/Laws/Ops.lean ====
section
/-! SUPPORT. What the operations of Machine/Ops.lean keep: the queue of waiting commands and the canonical form of the state
(Keeps); and that its commands answer a next state (Good). -/

namespace Sys2Proof.Machine

theorem State.setCore_keeps : ∀ s p1 p2, Keeps s (@State.setCore s p1 p2) := by
  intro s p1 p2
  unfold State.setCore
  exact Keeps.trans (Keeps.refl _) ⟨rfl, id, id, id, id⟩

theorem State.setRouter_keeps : ∀ s p1 p2, Keeps s (@State.setRouter s p1 p2) := by
  intro s p1 p2
  unfold State.setRouter
  exact Keeps.trans (Keeps.refl _) ⟨rfl, id, id, id, id⟩

theorem State.setPart_keeps : ∀ s p1 p2, Keeps s (@State.setPart s p1 p2) := by
  intro s p1 p2
  unfold State.setPart
  exact Keeps.trans (Keeps.refl _) ⟨rfl, id, id, id, id⟩

theorem State.setSlice_keeps : ∀ s p1 p2, Keeps s (@State.setSlice s p1 p2) := by
  intro s p1 p2
  unfold State.setSlice
  exact Keeps.trans (Keeps.refl _) ⟨rfl, id, id, id, id⟩

theorem State.setChan_keeps : ∀ s p1 p2, Keeps s (@State.setChan s p1 p2) := by
  intro s p1 p2
  unfold State.setChan
  exact Keeps.trans (Keeps.refl _) ⟨rfl, id, id, id, id⟩

theorem State.setClove_keeps : ∀ s p1 p2, Keeps s (@State.setClove s p1 p2) := by
  intro s p1 p2
  unfold State.setClove
  exact Keeps.trans (Keeps.refl _) ⟨rfl, id, id, id, id⟩

theorem State.setEngine_keeps : ∀ s p1 p2, Keeps s (@State.setEngine s p1 p2) := by
  intro s p1 p2
  unfold State.setEngine
  exact Keeps.trans (Keeps.refl _) ⟨rfl, id, id, id, id⟩

theorem State.setBlock_keeps : ∀ s p1 p2, Keeps s (@State.setBlock s p1 p2) := by
  intro s p1 p2
  unfold State.setBlock
  exact Keeps.trans (Keeps.refl _) ⟨rfl, id, id, id, id⟩

theorem State.setKey_keeps : ∀ s p1 p2, Keeps s (@State.setKey s p1 p2) := by
  intro s p1 p2
  unfold State.setKey
  exact Keeps.trans (Keeps.refl _) ⟨rfl, id, id, id, id⟩

theorem State.setPort_keeps : ∀ s p1 p2, Keeps s (@State.setPort s p1 p2) := by
  intro s p1 p2
  unfold State.setPort
  exact Keeps.trans (Keeps.refl _) ⟨rfl, id, id, id, id⟩

theorem State.setColl_keeps : ∀ s p1 p2, Keeps s (@State.setColl s p1 p2) := by
  intro s p1 p2
  unfold State.setColl
  exact Keeps.trans (Keeps.refl _) ⟨rfl, id, id, id, id⟩

theorem State.setRing_keeps : ∀ s p1 p2, Keeps s (@State.setRing s p1 p2) := by
  intro s p1 p2
  unfold State.setRing
  exact Keeps.trans (Keeps.refl _) ⟨rfl, id, id, id, id⟩

theorem State.setXing_keeps : ∀ s p1 p2, Keeps s (@State.setXing s p1 p2) := by
  intro s p1 p2
  unfold State.setXing
  exact Keeps.trans (Keeps.refl _) ⟨rfl, id, id, id, id⟩

theorem State.setAtt_keeps : ∀ s p1 p2, Keeps s (@State.setAtt s p1 p2) := by
  intro s p1 p2
  unfold State.setAtt
  exact Keeps.trans (Keeps.refl _) ⟨rfl, id, id, id, id⟩

theorem State.free_keeps : ∀ s p1, Keeps s (@State.free s p1).2 := by
  intro s p1
  unfold State.free
  refine Keeps.snd ?_
  exact Keeps.trans (Keeps.refl _) ⟨rfl, id, id, id, id⟩

theorem State.takeUpset_keeps : ∀ s p1, Keeps s (@State.takeUpset s p1).2 := by
  intro s p1
  unfold State.takeUpset
  refine Keeps.iteP (fun (r : Bool × Sys2Proof.Machine.State) => r.2) ?_ ?_
  · refine Keeps.snd ?_
    exact Keeps.trans (Keeps.refl _) ⟨rfl, id, id, id, id⟩
  · refine Keeps.snd ?_
    exact (Keeps.refl _)

theorem State.send_keeps : ∀ s p1, Keeps s (@State.send s p1) := by
  intro s p1
  unfold State.send
  exact Keeps.trans (Keeps.refl _) ⟨rfl, id, id, id, id⟩

theorem State.tally_keeps : ∀ s p1 p2 p3 p4, Keeps s (@State.tally s p1 p2 p3 p4) := by
  intro s p1 p2 p3 p4
  unfold State.tally
  extract_lets +onlyGivenNames -merge x0
  try clear_value x0
  refine Keeps.ite ?_ ?_
  · exact (Keeps.refl _)
  · refine Keeps.trans (Keeps.refl _) (Keeps.mk rfl ?_ ?_ ?_ ?_) <;> intro hh <;>
      (first | exact hh | exact Mem.writeUnit_wf _ _ _ hh | exact Mem.zero_wf _ _ hh | exact regsForm_filter _ hh
             | exact SMap.wf_clear _ _ hh | exact SMap.wf_set _ _ hh | exact regsForm_set _ _ hh | exact Mem.empty_wf | rfl
             | exact SMap.wf_clear _ _ (SMap.wf_clear _ _ hh) | exact regsForm_clear _ _ (regsForm_clear _ _ hh))

theorem State.tallyCore_keeps : ∀ s p1 p2 p3, Keeps s (@State.tallyCore s p1 p2 p3) := by
  intro s p1 p2 p3
  unfold State.tallyCore
  refine Keeps.ite ?_ ?_
  · exact (Keeps.refl _)
  · exact Keeps.trans (Keeps.refl _) (State.tally_keeps _ _ _ _ _)

theorem State.traceEv_keeps : ∀ s p1 p2 p3 p4 p5 p6, Keeps s (@State.traceEv s p1 p2 p3 p4 p5 p6) := by
  intro s p1 p2 p3 p4 p5 p6
  unfold State.traceEv
  extract_lets +onlyGivenNames -merge x0
  try clear_value x0
  refine Keeps.ite ?_ ?_
  · exact (Keeps.refl _)
  · extract_lets +onlyGivenNames -merge x1
    try clear_value x1
    extract_lets +onlyGivenNames -merge x2
    have h3 : Keeps s x2 := by
      unfold x2
      exact Keeps.trans (Keeps.refl _) ⟨rfl, id, id, id, id⟩
    try clear_value x2
    refine Keeps.foldl ?_ ?_
    · exact h3
    · intro a5 b6 ht4
      try beta_reduce
      refine Keeps.ite ?_ ?_
      · extract_lets +onlyGivenNames -merge x7
        try clear_value x7
        exact Keeps.trans ht4 ⟨rfl, id, id, id, id⟩
      · exact ht4

theorem State.traceCore_keeps : ∀ s p1 p2 p3 p4 p5 p6 p7, Keeps s (@State.traceCore s p1 p2 p3 p4 p5 p6 p7) := by
  intro s p1 p2 p3 p4 p5 p6 p7
  unfold State.traceCore
  split
  · exact (Keeps.refl _)
  · exact Keeps.trans (Keeps.refl _) (State.traceEv_keeps _ _ _ _ _ _ _)

theorem State.tracePause_keeps : ∀ s p1 p2 p3, Keeps s (@State.tracePause s p1 p2 p3) := by
  intro s p1 p2 p3
  unfold State.tracePause
  extract_lets +onlyGivenNames -merge x0
  try clear_value x0
  exact Keeps.trans (Keeps.refl _) (State.traceCore_keeps _ _ _ _ _ _ _ _)

theorem State.traceHub_keeps : ∀ s p1 p2 p3 p4 p5 p6 p7 p8 p9 p10, Keeps s (@State.traceHub s p1 p2 p3 p4 p5 p6 p7 p8 p9 p10) := by
  intro s p1 p2 p3 p4 p5 p6 p7 p8 p9 p10
  unfold State.traceHub
  exact Keeps.trans (Keeps.refl _) (State.traceEv_keeps _ _ _ _ _ _ _)

theorem State.traceClove_keeps : ∀ s p1 p2 p3 p4 p5 p6 p7 p8, Keeps s (@State.traceClove s p1 p2 p3 p4 p5 p6 p7 p8) := by
  intro s p1 p2 p3 p4 p5 p6 p7 p8
  unfold State.traceClove
  split
  · exact (Keeps.refl _)
  · exact Keeps.trans (Keeps.refl _) (State.traceEv_keeps _ _ _ _ _ _ _)

theorem State.msix_keeps : ∀ s p1 p2, Keeps s (@State.msix s p1 p2) := by
  intro s p1 p2
  unfold State.msix
  refine Keeps.ite ?_ ?_
  · exact Keeps.trans (Keeps.refl _) (State.setField_keeps _ _ _ _ _)
  · refine Keeps.trans ?_ (State.send_keeps _ _)
    · exact Keeps.trans (Keeps.refl _) (State.tally_keeps _ _ _ _ _)

theorem State.hostEvent_keeps : ∀ s p1, Keeps s (@State.hostEvent s p1) := by
  intro s p1
  unfold State.hostEvent
  refine Keeps.ite ?_ ?_
  · exact (Keeps.refl _)
  · extract_lets +onlyGivenNames -merge x0
    have h1 : Keeps s x0 := by
      unfold x0
      exact Keeps.trans (Keeps.refl _) (State.setField_keeps _ _ _ _ _)
    try clear_value x0
    extract_lets +onlyGivenNames -merge x2 x3
    try clear_value x2
    have h4 : Keeps s x3 := by
      unfold x3
      exact Keeps.trans h1 ⟨rfl, id, id, id, id⟩
    try clear_value x3
    refine Keeps.foldl ?_ ?_
    · exact h4
    · intro a6 b7 ht5
      try beta_reduce
      extract_lets +onlyGivenNames -merge x8
      try clear_value x8
      refine Keeps.ite ?_ ?_
      · exact Keeps.trans ht5 (State.msix_keeps _ _ _)
      · exact ht5

theorem State.parity_keeps : ∀ s p1, Keeps s (@State.parity s p1).2 := by
  intro s p1
  unfold State.parity
  extract_lets +onlyGivenNames -merge x0
  have h1 : Keeps s x0.2 := by
    unfold x0
    try beta_reduce
    exact Keeps.trans (Keeps.refl _) (State.takeUpset_keeps _ _)
  try clear_value x0
  refine Keeps.snd ?_
  refine Keeps.ite ?_ ?_
  · exact Keeps.trans h1 (State.countField_keeps _ _ _ _ _)
  · exact h1

theorem State.retarget_keeps : ∀ s p1 p2, Keeps s (@State.retarget s p1 p2) := by
  intro s p1 p2
  unfold State.retarget
  extract_lets +onlyGivenNames -merge x0
  try clear_value x0
  refine Keeps.ite ?_ ?_
  · exact (Keeps.refl _)
  · extract_lets +onlyGivenNames -merge x1
    try clear_value x1
    extract_lets +onlyGivenNames -merge x2
    try clear_value x2
    refine Keeps.ite ?_ ?_
    · extract_lets +onlyGivenNames -merge x3
      try clear_value x3
      extract_lets +onlyGivenNames -merge x4
      try clear_value x4
      extract_lets +onlyGivenNames -merge x5
      have h6 : Keeps s x5 := by
        unfold x5
        refine Keeps.ite ?_ ?_
        · exact (Keeps.refl _)
        · exact Keeps.trans (Keeps.refl _) ⟨rfl, id, id, id, id⟩
      try clear_value x5
      exact Keeps.trans h6 (State.setBlock_keeps _ _ _)
    · extract_lets +onlyGivenNames -merge x7
      try clear_value x7
      extract_lets +onlyGivenNames -merge x8
      try clear_value x8
      extract_lets +onlyGivenNames -merge x9
      have h10 : Keeps s x9 := by
        unfold x9
        exact Keeps.trans (Keeps.refl _) ⟨rfl, id, id, id, id⟩
      try clear_value x9
      exact Keeps.trans h10 (State.setBlock_keeps _ _ _)

theorem State.retargetAll_keeps : ∀ s p1 p2, Keeps s (@State.retargetAll s p1 p2) := by
  intro s p1 p2
  unfold State.retargetAll
  refine Keeps.foldl ?_ ?_
  · exact (Keeps.refl _)
  · intro a1 b2 ht0
    try beta_reduce
    exact Keeps.trans ht0 (State.retarget_keeps _ _ _)

theorem State.move_keeps : ∀ s p1 p2, Keeps s (@State.move s p1 p2) := by
  intro s p1 p2
  unfold State.move
  refine Keeps.trans ?_ (State.retargetAll_keeps _ _ _)
  · exact Keeps.trans (Keeps.refl _) (State.setPart_keeps _ _ _)

theorem State.enterFaulted_keeps : ∀ s p1 p2 p3 p4, Keeps s (@State.enterFaulted s p1 p2 p3 p4) := by
  intro s p1 p2 p3 p4
  unfold State.enterFaulted
  refine Keeps.ite ?_ ?_
  · exact (Keeps.refl _)
  · extract_lets +onlyGivenNames -merge x0
    try clear_value x0
    extract_lets +onlyGivenNames -merge x1
    try clear_value x1
    extract_lets +onlyGivenNames -merge x2
    try clear_value x2
    extract_lets +onlyGivenNames -merge x3
    try clear_value x3
    extract_lets +onlyGivenNames -merge x4
    have h5 : Keeps s x4 := by
      unfold x4
      exact Keeps.trans (Keeps.refl _) (State.setReg_keeps _ _ _)
    try clear_value x4
    extract_lets +onlyGivenNames -merge x6
    have h7 : Keeps s x6 := by
      unfold x6
      exact Keeps.trans h5 (State.setReg_keeps _ _ _)
    try clear_value x6
    extract_lets +onlyGivenNames -merge x8 x9
    try clear_value x8
    have h10 : Keeps s x9 := by
      unfold x9
      exact Keeps.trans h7 (State.setPart_keeps _ _ _)
    try clear_value x9
    exact Keeps.trans h10 (State.move_keeps _ _ _)

theorem State.faultPart_keeps : ∀ s p1 p2 p3, Keeps s (@State.faultPart s p1 p2 p3) := by
  intro s p1 p2 p3
  unfold State.faultPart
  refine Keeps.ite ?_ ?_
  · exact Keeps.trans (Keeps.refl _) (State.enterFaulted_keeps _ _ _ _ _)
  · exact (Keeps.refl _)

theorem State.unitFault_keeps : ∀ s p1 p2 p3 p4, Keeps s (@State.unitFault s p1 p2 p3 p4) := by
  intro s p1 p2 p3 p4
  unfold State.unitFault
  refine Keeps.ite ?_ ?_
  · extract_lets +onlyGivenNames -merge x0
    try clear_value x0
    extract_lets +onlyGivenNames -merge x1
    have h2 : Keeps s x1 := by
      unfold x1
      try beta_reduce
      exact Keeps.trans (Keeps.refl _) (State.enterFaulted_keeps _ _ _ _ _)
    try clear_value x1
    exact Keeps.trans h2 (State.setPart_keeps _ _ _)
  · refine Keeps.ite ?_ ?_
    · refine Keeps.trans ?_ (State.setField_keeps _ _ _ _ _)
      exact Keeps.trans (Keeps.refl _) (State.setField_keeps _ _ _ _ _)
    · exact (Keeps.refl _)

theorem State.enterHold_keeps : ∀ s p1, Keeps s (@State.enterHold s p1) := by
  intro s p1
  unfold State.enterHold
  refine Keeps.ite ?_ ?_
  · exact (Keeps.refl _)
  · extract_lets +onlyGivenNames -merge x0
    have h1 : Keeps s x0 := by
      unfold x0
      try beta_reduce
      exact Keeps.trans (Keeps.refl _) (State.setField_keeps _ _ _ _ _)
    try clear_value x0
    extract_lets +onlyGivenNames -merge x2
    have h3 : Keeps s x2 := by
      unfold x2
      try beta_reduce
      exact Keeps.trans h1 ⟨rfl, id, id, id, id⟩
    try clear_value x2
    extract_lets +onlyGivenNames -merge x4
    have h5 : Keeps s x4 := by
      unfold x4
      try beta_reduce
      exact Keeps.trans h3 (State.hostEvent_keeps _ _)
    try clear_value x4
    extract_lets +onlyGivenNames -merge x6
    have h7 : Keeps s x6 := by
      unfold x6
      try beta_reduce
      refine Keeps.foldl ?_ ?_
      · exact h5
      · intro a8 b9 ht10
        try beta_reduce
        exact Keeps.trans ht10 (State.faultPart_keeps _ _ _ _)
    try clear_value x6
    extract_lets +onlyGivenNames -merge x11
    have h12 : Keeps s x11 := by
      unfold x11
      try beta_reduce
      refine Keeps.foldl ?_ ?_
      · exact Keeps.trans h7 ⟨rfl, id, id, id, id⟩
      · intro a13 b14 ht15
        try beta_reduce
        extract_lets +onlyGivenNames -merge x16
        try clear_value x16
        refine Keeps.ite ?_ ?_
        · exact Keeps.trans ht15 (State.retarget_keeps _ _ _)
        · exact Keeps.trans ht15 (State.setBlock_keeps _ _ _)
    try clear_value x11
    extract_lets +onlyGivenNames -merge x17
    try clear_value x17
    extract_lets +onlyGivenNames -merge x18
    try clear_value x18
    exact Keeps.trans h12 ⟨rfl, id, id, id, id⟩

theorem State.deviceEvent_keeps : ∀ s p1 p2, Keeps s (@State.deviceEvent s p1 p2) := by
  intro s p1 p2
  unfold State.deviceEvent
  extract_lets +onlyGivenNames -merge x0 x1
  try clear_value x0
  have h2 : Keeps s x1 := by
    unfold x1
    refine Keeps.ite ?_ ?_
    · exact Keeps.trans (Keeps.refl _) ⟨rfl, id, id, id, id⟩
    · exact (Keeps.refl _)
  try clear_value x1
  extract_lets +onlyGivenNames -merge x3
  try clear_value x3
  extract_lets +onlyGivenNames -merge x4
  have h5 : Keeps s x4 := by
    unfold x4
    exact Keeps.trans h2 (State.setField_keeps _ _ _ _ _)
  try clear_value x4
  extract_lets +onlyGivenNames -merge x6 x7
  try clear_value x6
  have h8 : Keeps s x7 := by
    unfold x7
    exact Keeps.trans h5 ⟨rfl, id, id, id, id⟩
  try clear_value x7
  split
  · exact h8
  · refine Keeps.ite ?_ ?_
    · exact h8
    · refine Keeps.trans ?_ (State.enterHold_keeps _ _)
      · refine Keeps.trans ?_ (State.setField_keeps _ _ _ _ _)
        · exact Keeps.trans h8 (State.setField_keeps _ _ _ _ _)

theorem State.deviceEventEnds_keeps : ∀ s p1, Keeps s (@State.deviceEventEnds s p1) := by
  intro s p1
  unfold State.deviceEventEnds
  refine Keeps.ite ?_ ?_
  · exact Keeps.trans (Keeps.refl _) ⟨rfl, id, id, id, id⟩
  · exact (Keeps.refl _)

theorem State.recoverable_keeps : ∀ s p1 p2 p3, Keeps s (@State.recoverable s p1 p2 p3) := by
  intro s p1 p2 p3
  unfold State.recoverable
  refine Keeps.ite ?_ ?_
  · exact (Keeps.refl _)
  · extract_lets +onlyGivenNames -merge x0
    try clear_value x0
    extract_lets +onlyGivenNames -merge x1
    have h2 : Keeps s x1 := by
      unfold x1
      try beta_reduce
      refine Keeps.trans ?_ (State.setField_keeps _ _ _ _ _)
      refine Keeps.trans ?_ (State.setField_keeps _ _ _ _ _)
      exact Keeps.trans (Keeps.refl _) (State.countField_keeps _ _ _ _ _)
    try clear_value x1
    extract_lets +onlyGivenNames -merge x3
    try clear_value x3
    extract_lets +onlyGivenNames -merge x4
    have h5 : Keeps s x4 := by
      unfold x4
      try beta_reduce
      exact Keeps.trans h2 (State.setPart_keeps _ _ _)
    try clear_value x4
    refine Keeps.ite ?_ ?_
    · exact Keeps.trans h5 (State.faultPart_keeps _ _ _ _)
    · exact h5

theorem State.coreFault_keeps : ∀ s p1 p2 p3, Keeps s (@State.coreFault s p1 p2 p3) := by
  intro s p1 p2 p3
  unfold State.coreFault
  extract_lets +onlyGivenNames -merge x0
  try clear_value x0
  extract_lets +onlyGivenNames -merge x1
  have h2 : Keeps s x1 := by
    unfold x1
    refine Keeps.ite ?_ ?_
    · exact Keeps.trans (Keeps.refl _) (State.setField_keeps _ _ _ _ _)
    · exact (Keeps.refl _)
  try clear_value x1
  extract_lets +onlyGivenNames -merge x3
  have h4 : Keeps s x3 := by
    unfold x3
    exact Keeps.trans h2 (State.orReg_keeps _ _ _)
  try clear_value x3
  extract_lets +onlyGivenNames -merge x5 x6 x7 x8 x9 x10 x11
  try clear_value x5
  try clear_value x6
  try clear_value x7
  try clear_value x8
  try clear_value x9
  try clear_value x10
  have h12 : Keeps s x11 := by
    unfold x11
    refine Keeps.ite ?_ ?_
    · exact h4
    · refine Keeps.trans ?_ (State.setReg_keeps _ _ _)
      · exact Keeps.trans h4 (State.setCore_keeps _ _ _)
  try clear_value x11
  extract_lets +onlyGivenNames -merge x13
  have h14 : Keeps s x13 := by
    unfold x13
    exact Keeps.trans h12 (State.traceCore_keeps _ _ _ _ _ _ _ _)
  try clear_value x13
  split
  · exact Keeps.trans h14 (State.unitFault_keeps _ _ _ _ _)
  · exact h14

theorem State.tokenAdd_keeps : ∀ s p1 p2 p3 p4, Keeps s (@State.tokenAdd s p1 p2 p3 p4) := by
  intro s p1 p2 p3 p4
  unfold State.tokenAdd
  extract_lets +onlyGivenNames -merge x0
  try clear_value x0
  refine Keeps.ite ?_ ?_
  · exact Keeps.trans (Keeps.refl _) (State.coreFault_keeps _ _ _ _)
  · extract_lets +onlyGivenNames -merge x1
    try clear_value x1
    extract_lets +onlyGivenNames -merge x2
    try clear_value x2
    extract_lets +onlyGivenNames -merge x3
    have h4 : Keeps s x3 := by
      unfold x3
      try beta_reduce
      exact Keeps.trans (Keeps.refl _) (State.setCore_keeps _ _ _)
    try clear_value x3
    refine Keeps.ite ?_ ?_
    · exact Keeps.trans h4 (State.coreFault_keeps _ _ _ _)
    · exact h4

theorem State.svcToken_keeps : ∀ s p1 p2 p3 p4 p5, Keeps s (@State.svcToken s p1 p2 p3 p4 p5) := by
  intro s p1 p2 p3 p4 p5
  unfold State.svcToken
  refine Keeps.ite ?_ ?_
  · exact (Keeps.refl _)
  · exact Keeps.trans (Keeps.refl _) (State.tokenAdd_keeps _ _ _ _ _)

end Sys2Proof.Machine
end

