-- ==== Sys2Proof/Laws/Flags.lean ====
section
/-! SUPPORT. What the operations of Machine/Flags.lean keep: the queue of waiting commands and the canonical form of the state
(Keeps); and that its commands answer a next state (Good). -/

namespace Sys2Proof.Machine

theorem State.arith_keeps : ∀ s p1 p2, Keeps s (@State.arith s p1 p2) := by
  intro s p1 p2
  unfold State.arith
  refine Keeps.ite ?_ ?_
  · exact (Keeps.refl _)
  · exact Keeps.trans (Keeps.refl _) (State.orReg_keeps _ _ _)

theorem State.countCheck_keeps : ∀ s p1 p2 p3, Keeps s (@State.countCheck s p1 p2 p3) := by
  intro s p1 p2 p3
  unfold State.countCheck
  split
  · exact (Keeps.refl _)
  · exact Keeps.trans (Keeps.refl _) (State.countField_keeps _ _ _ _ _)
  · extract_lets +onlyGivenNames -merge x0
    have h1 : Keeps s x0 := by
      unfold x0
      exact Keeps.trans (Keeps.refl _) (State.countField_keeps _ _ _ _ _)
    try clear_value x0
    split
    · exact h1
    · refine Keeps.ite ?_ ?_
      · exact h1
      · refine Keeps.trans ?_ (State.setField_keeps _ _ _ _ _)
        · exact Keeps.trans h1 (State.setField_keeps _ _ _ _ _)

theorem State.countChecks_keeps : ∀ s p1 p2 p3, Keeps s (@State.countChecks s p1 p2 p3) := by
  intro s p1 p2 p3
  unfold State.countChecks
  refine Keeps.foldl ?_ ?_
  · exact (Keeps.refl _)
  · intro a1 b2 ht0
    try beta_reduce
    exact Keeps.trans ht0 (State.countCheck_keeps _ _ _ _)

theorem State.readSram_keeps : ∀ s p1 p2 p3, Keeps s (@State.readSram s p1 p2 p3).2.2 := by
  intro s p1 p2 p3
  unfold State.readSram
  extract_lets +onlyGivenNames -merge x0
  try clear_value x0
  refine Keeps.sndP (fun (r : List Bool × Sys2Proof.Machine.State) => r.2) ?_
  refine Keeps.snd ?_
  exact Keeps.trans (Keeps.refl _) (State.countChecks_keeps _ _ _ _)

theorem Mem.writeWords_wf {m : Mem} (a : Nat) (bs : Bytes) (p : Nat) (h : m.wf = true) : (m.writeWords a bs p).wf = true := by
  induction m, a, bs, p using Mem.writeWords.induct with
  | case1 m a b0 b1 b2 b3 b4 b5 b6 b7 bs p ih => exact ih (Mem.writeUnit_wf _ _ _ h)
  | case2 m a bs p hne =>
    rw [Mem.writeWords]
    · exact h
    · exact hne

theorem State.writeCore_keeps : ∀ s p1 p2 p3 p4, Keeps s (@State.writeCore s p1 p2 p3 p4) := by
  intro s p1 p2 p3 p4
  exact ⟨rfl, fun h => Mem.writeWords_wf _ _ _ h, id, id, id⟩

theorem State.consume_keeps : ∀ s p1, Keeps s (@State.consume s p1) := by
  intro s p1
  unfold State.consume
  split
  · exact (Keeps.refl _)
  · extract_lets +onlyGivenNames -merge x0
    try clear_value x0
    refine Keeps.ite ?_ ?_
    · exact (Keeps.refl _)
    · extract_lets +onlyGivenNames -merge x1
      have h2 : Keeps s x1 := by
        unfold x1
        try beta_reduce
        exact Keeps.trans (Keeps.refl _) (State.setPart_keeps _ _ _)
      try clear_value x1
      extract_lets +onlyGivenNames -merge x3
      have h4 : Keeps s x3 := by
        unfold x3
        try beta_reduce
        exact Keeps.trans h2 (State.orReg_keeps _ _ _)
      try clear_value x3
      refine Keeps.ite ?_ ?_
      · exact h4
      · refine Keeps.trans ?_ (State.setField_keeps _ _ _ _ _)
        exact Keeps.trans h4 (State.setField_keeps _ _ _ _ _)

theorem State.consumeIf_keeps : ∀ s p1 p2, Keeps s (@State.consumeIf s p1 p2) := by
  intro s p1 p2
  unfold State.consumeIf
  refine Keeps.ite ?_ ?_
  · exact Keeps.trans (Keeps.refl _) (State.consume_keeps _ _)
  · exact (Keeps.refl _)

end Sys2Proof.Machine
end

