-- ==== Sys2Proof/Laws/Cycle.lean ====
section
/-! SUPPORT. What the operations of Machine/Cycle.lean keep: the queue of waiting commands and the canonical form of the state
(Keeps); and that its commands answer a next state (Good). -/

namespace Sys2Proof.Machine

theorem State.meshRecord_keeps : ∀ s p1 p2 p3, Keeps s (@State.meshRecord s p1 p2 p3) := by
  intro s p1 p2 p3
  unfold State.meshRecord
  refine Keeps.ite ?_ ?_
  · exact (Keeps.refl _)
  · exact Keeps.trans (Keeps.refl _) (State.setReg_keeps _ _ _)

theorem State.meshPlace_keeps : ∀ s p1 p2 p3 p4 p5, Keeps s (@State.meshPlace s p1 p2 p3 p4 p5) := by
  intro s p1 p2 p3 p4 p5
  unfold State.meshPlace
  extract_lets +onlyGivenNames -merge x0
  try clear_value x0
  refine Keeps.ite ?_ ?_
  · refine Keeps.trans ?_ (State.meshRecord_keeps _ _ _ _)
    exact Keeps.trans (Keeps.refl _) (State.setRouter_keeps _ _ _)
  · refine Keeps.ite ?_ ?_
    · exact (Keeps.refl _)
    · refine Keeps.ite ?_ ?_
      · refine Keeps.ite ?_ ?_
        · exact Keeps.trans (Keeps.refl _) (State.setField_keeps _ _ _ _ _)
        · exact (Keeps.refl _)
      · refine Keeps.ite ?_ ?_
        · refine Keeps.trans ?_ (State.meshRecord_keeps _ _ _ _)
          exact Keeps.trans (Keeps.refl _) (State.setReg_keeps _ _ _)
        · exact (Keeps.refl _)

theorem State.meshFault_keeps : ∀ s p1 p2 p3 p4 p5, Keeps s (@State.meshFault s p1 p2 p3 p4 p5) := by
  intro s p1 p2 p3 p4 p5
  unfold State.meshFault
  extract_lets +onlyGivenNames -merge x0
  try clear_value x0
  extract_lets +onlyGivenNames -merge x1
  have h2 : Keeps s x1 := by
    unfold x1
    try beta_reduce
    refine Keeps.ite ?_ ?_
    · exact Keeps.trans (Keeps.refl _) (State.setField_keeps _ _ _ _ _)
    · exact (Keeps.refl _)
  try clear_value x1
  extract_lets +onlyGivenNames -merge x3
  have h4 : Keeps s x3 := by
    unfold x3
    try beta_reduce
    exact Keeps.trans h2 (State.orReg_keeps _ _ _)
  try clear_value x3
  extract_lets +onlyGivenNames -merge x5
  have h6 : Keeps s x5 := by
    unfold x5
    try beta_reduce
    refine Keeps.trans ?_ (State.traceCore_keeps _ _ _ _ _ _ _ _)
    exact Keeps.trans h4 (State.meshPlace_keeps _ _ _ _ _ _)
  try clear_value x5
  split
  · exact Keeps.trans h6 (State.unitFault_keeps _ _ _ _ _)
  · exact h6

theorem State.ringTake_keeps : ∀ s p1 p2 p3, Keeps s (@State.ringTake s p1 p2 p3).1 := by
  intro s p1 p2 p3
  unfold State.ringTake
  extract_lets +onlyGivenNames -merge x0
  try clear_value x0
  split
  · refine Keeps.fst ?_
    exact (Keeps.refl _)
  · extract_lets +onlyGivenNames -merge x1
    try clear_value x1
    extract_lets +onlyGivenNames -merge x2
    try clear_value x2
    extract_lets +onlyGivenNames -merge x3
    try clear_value x3
    extract_lets +onlyGivenNames -merge x4
    try clear_value x4
    extract_lets +onlyGivenNames -merge x5
    try clear_value x5
    extract_lets +onlyGivenNames -merge x6
    try clear_value x6
    extract_lets +onlyGivenNames -merge x7
    try clear_value x7
    refine Keeps.fst ?_
    exact Keeps.trans (Keeps.refl _) (State.setCore_keeps _ _ _)

theorem State.readWin_keeps : ∀ s p1 p2 p3 p4 p5 p6, Keeps s (@State.readWin s p1 p2 p3 p4 p5 p6) := by
  intro s p1 p2 p3 p4 p5 p6
  unfold State.readWin
  extract_lets +onlyGivenNames -merge x0
  have h1 : Keeps s x0.2.2 := by
    unfold x0
    exact Keeps.trans (Keeps.refl _) (State.readSram_keeps _ _ _ _)
  try clear_value x0
  extract_lets +onlyGivenNames -merge x2
  have h3 : Keeps s x2.1 := by
    unfold x2
    exact Keeps.trans h1 (State.ringTake_keeps _ _ _ _)
  try clear_value x2
  extract_lets +onlyGivenNames -merge x4
  have h5 : Keeps s x4 := by
    unfold x4
    refine Keeps.ite ?_ ?_
    · exact Keeps.trans h3 (State.meshFault_keeps _ _ _ _ _ _)
    · exact h3
  try clear_value x4
  extract_lets +onlyGivenNames -merge x6
  try clear_value x6
  extract_lets +onlyGivenNames -merge x7
  try clear_value x7
  exact Keeps.trans h5 (State.setRouter_keeps _ _ _)

theorem State.engTake_keeps : ∀ s p1 p2 p3 p4 p5 p6, Keeps s (@State.engTake s p1 p2 p3 p4 p5 p6) := by
  intro s p1 p2 p3 p4 p5 p6
  unfold State.engTake
  extract_lets +onlyGivenNames -merge x0
  try clear_value x0
  extract_lets +onlyGivenNames -merge x1
  try clear_value x1
  extract_lets +onlyGivenNames -merge x2
  try clear_value x2
  extract_lets +onlyGivenNames -merge x3
  try clear_value x3
  exact Keeps.trans (Keeps.refl _) (State.setCore_keeps _ _ _)

theorem State.readEffect_keeps : ∀ s p1 p2, Keeps s (@State.readEffect s p1 p2).1 := by
  intro s p1 p2
  unfold State.readEffect
  extract_lets +onlyGivenNames -merge x0
  try clear_value x0
  split
  · extract_lets +onlyGivenNames -merge x1
    have h2 : Keeps s x1.2.2 := by
      unfold x1
      try beta_reduce
      exact Keeps.trans (Keeps.refl _) (State.readSram_keeps _ _ _ _)
    try clear_value x1
    extract_lets +onlyGivenNames -merge x3
    try clear_value x3
    extract_lets +onlyGivenNames -merge x4
    try clear_value x4
    extract_lets +onlyGivenNames -merge x5
    try clear_value x5
    refine Keeps.fst ?_
    exact Keeps.trans h2 (State.arith_keeps _ _ _)
  · extract_lets +onlyGivenNames -merge x6
    have h7 : Keeps s x6.2.2 := by
      unfold x6
      try beta_reduce
      exact Keeps.trans (Keeps.refl _) (State.readSram_keeps _ _ _ _)
    try clear_value x6
    refine Keeps.iteP (fun (r : Sys2Proof.Machine.State × List Sys2Proof.Machine.Pending) => r.1) ?_ ?_
    · refine Keeps.fst ?_
      exact Keeps.trans h7 (State.coreFault_keeps _ _ _ _)
    · exact h7
  · extract_lets +onlyGivenNames -merge x8
    have h9 : Keeps s x8.2.2 := by
      unfold x8
      try beta_reduce
      exact Keeps.trans (Keeps.refl _) (State.readSram_keeps _ _ _ _)
    try clear_value x8
    exact h9
  · extract_lets +onlyGivenNames -merge x10
    try clear_value x10
    extract_lets +onlyGivenNames -merge x11
    have h12 : Keeps s x11.2.2 := by
      unfold x11
      try beta_reduce
      exact Keeps.trans (Keeps.refl _) (State.readSram_keeps _ _ _ _)
    try clear_value x11
    exact h12
  · extract_lets +onlyGivenNames -merge x13
    try clear_value x13
    extract_lets +onlyGivenNames -merge x14
    have h15 : Keeps s x14.2.2 := by
      unfold x14
      try beta_reduce
      exact Keeps.trans (Keeps.refl _) (State.readSram_keeps _ _ _ _)
    try clear_value x14
    extract_lets +onlyGivenNames -merge x16
    try clear_value x16
    extract_lets +onlyGivenNames -merge x17
    try clear_value x17
    refine Keeps.iteP (fun (r : Sys2Proof.Machine.State × List Sys2Proof.Machine.Pending) => r.1) ?_ ?_
    · exact h15
    · exact h15
  · extract_lets +onlyGivenNames -merge x18
    have h19 : Keeps s x18.2.2 := by
      unfold x18
      try beta_reduce
      exact Keeps.trans (Keeps.refl _) (State.readSram_keeps _ _ _ _)
    try clear_value x18
    exact h19
  · extract_lets +onlyGivenNames -merge x20
    have h21 : Keeps s x20.2.2 := by
      unfold x20
      try beta_reduce
      exact Keeps.trans (Keeps.refl _) (State.readSram_keeps _ _ _ _)
    try clear_value x20
    exact h21
  · extract_lets +onlyGivenNames -merge x22
    have h23 : Keeps s x22.2.2 := by
      unfold x22
      try beta_reduce
      exact Keeps.trans (Keeps.refl _) (State.readSram_keeps _ _ _ _)
    try clear_value x22
    exact h23
  · extract_lets +onlyGivenNames -merge x24
    have h25 : Keeps s x24.2.2 := by
      unfold x24
      try beta_reduce
      exact Keeps.trans (Keeps.refl _) (State.readSram_keeps _ _ _ _)
    try clear_value x24
    exact h25
  · extract_lets +onlyGivenNames -merge x26
    have h27 : Keeps s x26.2.2 := by
      unfold x26
      try beta_reduce
      exact Keeps.trans (Keeps.refl _) (State.readSram_keeps _ _ _ _)
    try clear_value x26
    extract_lets +onlyGivenNames -merge x28
    try clear_value x28
    extract_lets +onlyGivenNames -merge x29
    try clear_value x29
    extract_lets +onlyGivenNames -merge x30
    try clear_value x30
    extract_lets +onlyGivenNames -merge x31
    try clear_value x31
    extract_lets +onlyGivenNames -merge x32
    try clear_value x32
    refine Keeps.fst ?_
    exact Keeps.trans h27 (State.setCore_keeps _ _ _)
  · refine Keeps.fst ?_
    exact Keeps.trans (Keeps.refl _) (State.readWin_keeps _ _ _ _ _ _ _)
  · extract_lets +onlyGivenNames -merge x33
    have h34 : Keeps s x33.2.2 := by
      unfold x33
      try beta_reduce
      exact Keeps.trans (Keeps.refl _) (State.readSram_keeps _ _ _ _)
    try clear_value x33
    refine Keeps.fst ?_
    exact Keeps.trans h34 (State.engTake_keeps _ _ _ _ _ _ _)
  · extract_lets +onlyGivenNames -merge x35
    have h36 : Keeps s x35.2.2 := by
      unfold x35
      try beta_reduce
      exact Keeps.trans (Keeps.refl _) (State.readSram_keeps _ _ _ _)
    try clear_value x35
    refine Keeps.fst ?_
    exact Keeps.trans h36 (State.engTake_keeps _ _ _ _ _ _ _)
  · refine Keeps.fst ?_
    exact (Keeps.refl _)

theorem State.enqueue_keeps : ∀ s p1 p2, Keeps s (@State.enqueue s p1 p2) := by
  intro s p1 p2
  unfold State.enqueue
  extract_lets +onlyGivenNames -merge x0
  try clear_value x0
  refine Keeps.ite ?_ ?_
  · exact Keeps.trans (Keeps.refl _) (State.setCore_keeps _ _ _)
  · exact Keeps.trans (Keeps.refl _) (State.orReg_keeps _ _ _)

theorem State.applyEffect_keeps : ∀ s p1 p2, Keeps s (@State.applyEffect s p1 p2) := by
  intro s p1 p2
  unfold State.applyEffect
  extract_lets +onlyGivenNames -merge x0
  try clear_value x0
  extract_lets +onlyGivenNames -merge x1
  try clear_value x1
  split
  · exact Keeps.trans (Keeps.refl _) (State.setCore_keeps _ _ _)
  · exact Keeps.trans (Keeps.refl _) (State.setCore_keeps _ _ _)
  · refine Keeps.ite ?_ ?_
    · exact (Keeps.refl _)
    · exact Keeps.trans (Keeps.refl _) (State.setCore_keeps _ _ _)
  · exact Keeps.trans (Keeps.refl _) (State.setCore_keeps _ _ _)
  · extract_lets +onlyGivenNames -merge x2
    try clear_value x2
    exact Keeps.trans (Keeps.refl _) (State.setCore_keeps _ _ _)
  · extract_lets +onlyGivenNames -merge x3
    try clear_value x3
    extract_lets +onlyGivenNames -merge x4
    try clear_value x4
    exact Keeps.trans (Keeps.refl _) (State.setCore_keeps _ _ _)
  · exact Keeps.trans (Keeps.refl _) (State.setCore_keeps _ _ _)
  · exact Keeps.trans (Keeps.refl _) (State.setCore_keeps _ _ _)
  · exact Keeps.trans (Keeps.refl _) (State.writeCore_keeps _ _ _ _ _)
  · exact Keeps.trans (Keeps.refl _) (State.writeCore_keeps _ _ _ _ _)
  · exact Keeps.trans (Keeps.refl _) (State.writeCore_keeps _ _ _ _ _)
  · extract_lets +onlyGivenNames -merge x5
    have h6 : Keeps s x5 := by
      unfold x5
      try beta_reduce
      exact Keeps.trans (Keeps.refl _) (State.tallyCore_keeps _ _ _ _)
    try clear_value x5
    refine Keeps.trans h6 (Keeps.mk rfl ?_ ?_ ?_ ?_) <;> intro hh <;>
      (first | exact hh | exact Mem.writeUnit_wf _ _ _ hh | exact Mem.zero_wf _ _ hh | exact regsForm_filter _ hh
             | exact SMap.wf_clear _ _ hh | exact SMap.wf_set _ _ hh | exact regsForm_set _ _ hh | exact Mem.empty_wf | rfl
             | exact SMap.wf_clear _ _ (SMap.wf_clear _ _ hh) | exact regsForm_clear _ _ (regsForm_clear _ _ hh))
  · extract_lets +onlyGivenNames -merge x7
    try clear_value x7
    extract_lets +onlyGivenNames -merge x8
    try clear_value x8
    exact Keeps.trans (Keeps.refl _) (State.setCore_keeps _ _ _)
  · exact Keeps.trans (Keeps.refl _) (State.setCore_keeps _ _ _)
  · exact Keeps.trans (Keeps.refl _) (State.setCore_keeps _ _ _)
  · exact Keeps.trans (Keeps.refl _) (State.enqueue_keeps _ _ _)
  · extract_lets +onlyGivenNames -merge x9
    have h10 : Keeps s x9 := by
      unfold x9
      try beta_reduce
      exact Keeps.trans (Keeps.refl _) (State.coreFault_keeps _ _ _ _)
    try clear_value x9
    split
    · exact h10
    · refine Keeps.ite ?_ ?_
      · exact h10
      · extract_lets +onlyGivenNames -merge x11
        try clear_value x11
        extract_lets +onlyGivenNames -merge x12
        try clear_value x12
        extract_lets +onlyGivenNames -merge x13
        have h14 : Keeps s x13 := by
          unfold x13
          try beta_reduce
          exact Keeps.trans (Keeps.refl _) (State.setCore_keeps _ _ _)
        try clear_value x13
        extract_lets +onlyGivenNames -merge x15
        have h16 : Keeps s x15 := by
          unfold x15
          try beta_reduce
          exact Keeps.trans h14 (State.writeCore_keeps _ _ _ _ _)
        try clear_value x15
        exact Keeps.trans h16 (State.writeCore_keeps _ _ _ _ _)
  · exact Keeps.trans (Keeps.refl _) (State.tokenAdd_keeps _ _ _ _ _)
  · exact Keeps.trans (Keeps.refl _) (State.setCore_keeps _ _ _)
  · extract_lets +onlyGivenNames -merge x17
    try clear_value x17
    refine Keeps.trans ?_ (State.arith_keeps _ _ _)
    exact Keeps.trans (Keeps.refl _) (State.setCore_keeps _ _ _)
  · extract_lets +onlyGivenNames -merge x18
    try clear_value x18
    extract_lets +onlyGivenNames -merge x19
    try clear_value x19
    exact Keeps.trans (Keeps.refl _) (State.setCore_keeps _ _ _)
  · exact (Keeps.refl _)

theorem State.startCycle_keeps : ∀ s p1, Keeps s (@State.startCycle s p1) := by
  intro s p1
  unfold State.startCycle
  extract_lets +onlyGivenNames -merge x0
  try clear_value x0
  extract_lets +onlyGivenNames -merge x1
  try clear_value x1
  extract_lets +onlyGivenNames -merge x2
  try clear_value x2
  extract_lets +onlyGivenNames -merge x3 x4
  try clear_value x3
  have h5 : Keeps s x4 := by
    unfold x4
    exact Keeps.trans (Keeps.refl _) (State.setCore_keeps _ _ _)
  try clear_value x4
  split
  · exact h5
  · exact Keeps.trans h5 (State.applyEffect_keeps _ _ _)
  · extract_lets +onlyGivenNames -merge x6
    try clear_value x6
    exact Keeps.trans h5 (State.coreFault_keeps _ _ _ _)

theorem State.endCycle_keeps : ∀ s p1, Keeps s (@State.endCycle s p1) := by
  intro s p1
  unfold State.endCycle
  extract_lets +onlyGivenNames -merge x0
  try clear_value x0
  extract_lets +onlyGivenNames -merge x1
  try clear_value x1
  extract_lets +onlyGivenNames -merge x2
  try clear_value x2
  extract_lets +onlyGivenNames -merge x3
  try clear_value x3
  extract_lets +onlyGivenNames -merge x4
  try clear_value x4
  extract_lets +onlyGivenNames -merge x5
  have h6 : Keeps s x5 := by
    unfold x5
    try beta_reduce
    exact Keeps.trans (Keeps.refl _) (State.setCore_keeps _ _ _)
  try clear_value x5
  extract_lets +onlyGivenNames -merge x7
  try clear_value x7
  extract_lets +onlyGivenNames -merge x8
  try clear_value x8
  extract_lets +onlyGivenNames -merge x9
  try clear_value x9
  extract_lets +onlyGivenNames -merge x10
  try clear_value x10
  extract_lets +onlyGivenNames -merge x11
  try clear_value x11
  extract_lets +onlyGivenNames -merge x12
  try clear_value x12
  extract_lets +onlyGivenNames -merge x13
  have h14 : Keeps s x13 := by
    unfold x13
    try beta_reduce
    refine Keeps.trans ?_ (State.tallyCore_keeps _ _ _ _)
    exact Keeps.trans h6 (State.tallyCore_keeps _ _ _ _)
  try clear_value x13
  extract_lets +onlyGivenNames -merge x15
  have h16 : Keeps s x15.1 := by
    unfold x15
    try beta_reduce
    refine Keeps.foldlP (fun (r : Sys2Proof.Machine.State × List Sys2Proof.Machine.Pending) => r.1) ?_ ?_
    · exact h14
    · intro a17 b18 ht19
      try beta_reduce
      extract_lets +onlyGivenNames -merge x20
      have h21 : Keeps s x20.1 := by
        unfold x20
        try beta_reduce
        exact Keeps.trans ht19 (State.readEffect_keeps _ _ _)
      try clear_value x20
      exact h21
  try clear_value x15
  extract_lets +onlyGivenNames -merge x22
  try clear_value x22
  extract_lets +onlyGivenNames -merge x23
  try clear_value x23
  extract_lets +onlyGivenNames -merge x24
  have h25 : Keeps s x24 := by
    unfold x24
    try beta_reduce
    refine Keeps.foldl ?_ ?_
    · exact h16
    · intro a26 b27 ht28
      try beta_reduce
      exact Keeps.trans ht28 (State.applyEffect_keeps _ _ _)
  try clear_value x24
  extract_lets +onlyGivenNames -merge x29
  try clear_value x29
  extract_lets +onlyGivenNames -merge x30
  try clear_value x30
  extract_lets +onlyGivenNames -merge x31
  have h32 : Keeps s x31 := by
    unfold x31
    try beta_reduce
    exact Keeps.trans h25 (State.setCore_keeps _ _ _)
  try clear_value x31
  extract_lets +onlyGivenNames -merge x33
  have h36 : ∀ y34 y35, Keeps y34 (x33 y34 y35) := by
    intro y34 y35
    unfold x33
    try beta_reduce
    refine Keeps.ite ?_ ?_
    · exact Keeps.trans (Keeps.refl _) (State.meshFault_keeps _ _ _ _ _ _)
    · exact Keeps.trans (Keeps.refl _) (State.coreFault_keeps _ _ _ _)
  try clear_value x33
  extract_lets +onlyGivenNames -merge x37
  have h38 : Keeps s x37 := by
    unfold x37
    try beta_reduce
    refine Keeps.foldl ?_ ?_
    · exact h32
    · intro a39 b40 ht41
      try beta_reduce
      split
      · exact Keeps.trans ht41 (h36 _ _)
      · exact ht41
  try clear_value x37
  extract_lets +onlyGivenNames -merge x42
  try clear_value x42
  extract_lets +onlyGivenNames -merge x43
  try clear_value x43
  extract_lets +onlyGivenNames -merge x44
  have h45 : Keeps s x44 := by
    unfold x44
    try beta_reduce
    exact Keeps.trans h38 (State.setCore_keeps _ _ _)
  try clear_value x44
  extract_lets +onlyGivenNames -merge x46
  try clear_value x46
  refine Keeps.ite ?_ ?_
  · exact h45
  · exact Keeps.trans h45 (State.startCycle_keeps _ _)

end Sys2Proof.Machine
end

