-- ==== Sys2Proof/Laws/Vec.lean ====
section
/-! SUPPORT. What the operations of Machine/Vec.lean keep: the queue of waiting commands and the canonical form of the state
(Keeps); and that its commands answer a next state (Good). -/

namespace Sys2Proof.Machine

theorem State.vecWrite_keeps : ∀ s p1 p2 p3 p4 p5 p6, Keeps s (@State.vecWrite s p1 p2 p3 p4 p5 p6) := by
  intro s p1 p2 p3 p4 p5 p6
  unfold State.vecWrite
  extract_lets +onlyGivenNames -merge x0
  try clear_value x0
  extract_lets +onlyGivenNames -merge x1
  try clear_value x1
  extract_lets +onlyGivenNames -merge x2
  try clear_value x2
  extract_lets +onlyGivenNames -merge x3
  try clear_value x3
  extract_lets +onlyGivenNames -merge x4
  have h5 : Keeps s x4 := by
    unfold x4
    exact Keeps.trans (Keeps.refl _) (State.arith_keeps _ _ _)
  try clear_value x4
  exact Keeps.trans h5 (State.setCore_keeps _ _ _)

theorem State.maskWrite_keeps : ∀ s p1 p2 p3 p4 p5, Keeps s (@State.maskWrite s p1 p2 p3 p4 p5) := by
  intro s p1 p2 p3 p4 p5
  unfold State.maskWrite
  extract_lets +onlyGivenNames -merge x0
  try clear_value x0
  extract_lets +onlyGivenNames -merge x1
  try clear_value x1
  extract_lets +onlyGivenNames -merge x2
  try clear_value x2
  extract_lets +onlyGivenNames -merge x3
  try clear_value x3
  exact Keeps.trans (Keeps.refl _) (State.setCore_keeps _ _ _)

theorem State.postMove_keeps : ∀ s p1 p2 p3, Keeps s (@State.postMove s p1 p2 p3) := by
  intro s p1 p2 p3
  unfold State.postMove
  extract_lets +onlyGivenNames -merge x0
  try clear_value x0
  split
  · exact Keeps.trans (Keeps.refl _) (State.setCore_keeps _ _ _)
  · exact (Keeps.refl _)

theorem State.elem_keeps : ∀ s p1 p2 p3 p4 p5, Keeps s (@State.elem s p1 p2 p3 p4 p5) := by
  intro s p1 p2 p3 p4 p5
  unfold State.elem
  exact Keeps.trans (Keeps.refl _) (State.vecWrite_keeps _ _ _ _ _ _ _)

theorem State.vecPerform_keeps : ∀ s p1 p2 p3, Keeps s (@State.vecPerform s p1 p2 p3) := by
  intro s p1 p2 p3
  unfold State.vecPerform
  extract_lets +onlyGivenNames -merge x0
  try clear_value x0
  extract_lets +onlyGivenNames -merge x1
  try clear_value x1
  extract_lets +onlyGivenNames -merge x2
  try clear_value x2
  split
  · exact Keeps.trans (Keeps.refl _) (State.elem_keeps _ _ _ _ _ _)
  · split
    · exact Keeps.trans (Keeps.refl _) (State.maskWrite_keeps _ _ _ _ _ _)
    · exact Keeps.trans (Keeps.refl _) (State.maskWrite_keeps _ _ _ _ _ _)
    · extract_lets +onlyGivenNames -merge x3
      try clear_value x3
      extract_lets +onlyGivenNames -merge x4
      try clear_value x4
      extract_lets +onlyGivenNames -merge x5
      try clear_value x5
      exact Keeps.trans (Keeps.refl _) (State.elem_keeps _ _ _ _ _ _)
    · extract_lets +onlyGivenNames -merge x6
      try clear_value x6
      extract_lets +onlyGivenNames -merge x7
      try clear_value x7
      extract_lets +onlyGivenNames -merge x8
      try clear_value x8
      extract_lets +onlyGivenNames -merge x9
      try clear_value x9
      extract_lets +onlyGivenNames -merge x10
      try clear_value x10
      exact Keeps.trans (Keeps.refl _) (State.elem_keeps _ _ _ _ _ _)
    · extract_lets +onlyGivenNames -merge x11
      try clear_value x11
      extract_lets +onlyGivenNames -merge x12
      try clear_value x12
      extract_lets +onlyGivenNames -merge x13
      try clear_value x13
      extract_lets +onlyGivenNames -merge x14
      try clear_value x14
      extract_lets +onlyGivenNames -merge x15
      try clear_value x15
      extract_lets +onlyGivenNames -merge x16
      try clear_value x16
      extract_lets +onlyGivenNames -merge x17
      try clear_value x17
      exact Keeps.trans (Keeps.refl _) (State.vecWrite_keeps _ _ _ _ _ _ _)
    · extract_lets +onlyGivenNames -merge x18
      try clear_value x18
      exact Keeps.trans (Keeps.refl _) (State.elem_keeps _ _ _ _ _ _)
    · extract_lets +onlyGivenNames -merge x19
      try clear_value x19
      extract_lets +onlyGivenNames -merge x20
      try clear_value x20
      refine Keeps.ite ?_ ?_
      · extract_lets +onlyGivenNames -merge x21
        try clear_value x21
        exact Keeps.trans (Keeps.refl _) (State.vecWrite_keeps _ _ _ _ _ _ _)
      · extract_lets +onlyGivenNames -merge x22
        try clear_value x22
        extract_lets +onlyGivenNames -merge x23
        try clear_value x23
        exact Keeps.trans (Keeps.refl _) (State.vecWrite_keeps _ _ _ _ _ _ _)
    · extract_lets +onlyGivenNames -merge x24
      try clear_value x24
      extract_lets +onlyGivenNames -merge x25
      try clear_value x25
      refine Keeps.ite ?_ ?_
      · extract_lets +onlyGivenNames -merge x26
        try clear_value x26
        exact Keeps.trans (Keeps.refl _) (State.vecWrite_keeps _ _ _ _ _ _ _)
      · extract_lets +onlyGivenNames -merge x27
        try clear_value x27
        extract_lets +onlyGivenNames -merge x28
        try clear_value x28
        exact Keeps.trans (Keeps.refl _) (State.vecWrite_keeps _ _ _ _ _ _ _)
    · split
      · exact (Keeps.refl _)
      · extract_lets +onlyGivenNames -merge x29
        try clear_value x29
        exact Keeps.trans (Keeps.refl _) (State.vecWrite_keeps _ _ _ _ _ _ _)
    · extract_lets +onlyGivenNames -merge x30
      try clear_value x30
      extract_lets +onlyGivenNames -merge x31
      try clear_value x31
      extract_lets +onlyGivenNames -merge x32
      try clear_value x32
      extract_lets +onlyGivenNames -merge x33
      try clear_value x33
      extract_lets +onlyGivenNames -merge x34
      try clear_value x34
      extract_lets +onlyGivenNames -merge x35
      try clear_value x35
      extract_lets +onlyGivenNames -merge x36
      try clear_value x36
      extract_lets +onlyGivenNames -merge x37
      try clear_value x37
      exact Keeps.trans (Keeps.refl _) (State.setCore_keeps _ _ _)
    · extract_lets +onlyGivenNames -merge x38
      try clear_value x38
      extract_lets +onlyGivenNames -merge x39
      try clear_value x39
      extract_lets +onlyGivenNames -merge x40
      try clear_value x40
      exact Keeps.trans (Keeps.refl _) (State.elem_keeps _ _ _ _ _ _)
    · exact Keeps.trans (Keeps.refl _) (State.elem_keeps _ _ _ _ _ _)
    · extract_lets +onlyGivenNames -merge x41
      try clear_value x41
      extract_lets +onlyGivenNames -merge x42
      try clear_value x42
      extract_lets +onlyGivenNames -merge x43
      have h44 : Keeps s x43 := by
        unfold x43
        try beta_reduce
        exact Keeps.trans (Keeps.refl _) (State.setCore_keeps _ _ _)
      try clear_value x43
      exact Keeps.trans h44 (State.postMove_keeps _ _ _ _)
    · extract_lets +onlyGivenNames -merge x45
      try clear_value x45
      extract_lets +onlyGivenNames -merge x46
      have h47 : Keeps s x46 := by
        unfold x46
        try beta_reduce
        exact Keeps.trans (Keeps.refl _) (State.setCore_keeps _ _ _)
      try clear_value x46
      exact Keeps.trans h47 (State.postMove_keeps _ _ _ _)
    · extract_lets +onlyGivenNames -merge x48
      try clear_value x48
      extract_lets +onlyGivenNames -merge x49
      have h50 : Keeps s x49 := by
        unfold x49
        try beta_reduce
        exact Keeps.trans (Keeps.refl _) (State.setCore_keeps _ _ _)
      try clear_value x49
      exact Keeps.trans h50 (State.postMove_keeps _ _ _ _)
    · extract_lets +onlyGivenNames -merge x51
      try clear_value x51
      extract_lets +onlyGivenNames -merge x52
      try clear_value x52
      extract_lets +onlyGivenNames -merge x53
      try clear_value x53
      extract_lets +onlyGivenNames -merge x54
      have h55 : Keeps s x54 := by
        unfold x54
        try beta_reduce
        exact Keeps.trans (Keeps.refl _) (State.setCore_keeps _ _ _)
      try clear_value x54
      exact Keeps.trans h55 (State.postMove_keeps _ _ _ _)
    · extract_lets +onlyGivenNames -merge x56
      try clear_value x56
      extract_lets +onlyGivenNames -merge x57
      try clear_value x57
      extract_lets +onlyGivenNames -merge x58
      try clear_value x58
      extract_lets +onlyGivenNames -merge x59
      try clear_value x59
      extract_lets +onlyGivenNames -merge x60
      have h61 : Keeps s x60 := by
        unfold x60
        try beta_reduce
        refine Keeps.ite ?_ ?_
        · exact (Keeps.refl _)
        · exact Keeps.trans (Keeps.refl _) (State.arith_keeps _ _ _)
      try clear_value x60
      extract_lets +onlyGivenNames -merge x62
      try clear_value x62
      extract_lets +onlyGivenNames -merge x63
      try clear_value x63
      exact Keeps.trans h61 (State.setCore_keeps _ _ _)
    · extract_lets +onlyGivenNames -merge x64
      try clear_value x64
      extract_lets +onlyGivenNames -merge x65
      try clear_value x65
      exact Keeps.trans (Keeps.refl _) (State.setCore_keeps _ _ _)
    · extract_lets +onlyGivenNames -merge x66
      try clear_value x66
      extract_lets +onlyGivenNames -merge x67
      try clear_value x67
      extract_lets +onlyGivenNames -merge x68
      try clear_value x68
      extract_lets +onlyGivenNames -merge x69
      try clear_value x69
      exact Keeps.trans (Keeps.refl _) (State.setCore_keeps _ _ _)
    · extract_lets +onlyGivenNames -merge x70
      try clear_value x70
      extract_lets +onlyGivenNames -merge x71
      try clear_value x71
      exact Keeps.trans (Keeps.refl _) (State.setCore_keeps _ _ _)
    · extract_lets +onlyGivenNames -merge x72
      try clear_value x72
      extract_lets +onlyGivenNames -merge x73
      try clear_value x73
      extract_lets +onlyGivenNames -merge x74
      try clear_value x74
      extract_lets +onlyGivenNames -merge x75
      try clear_value x75
      extract_lets +onlyGivenNames -merge x76
      try clear_value x76
      exact Keeps.trans (Keeps.refl _) (State.vecWrite_keeps _ _ _ _ _ _ _)
    · exact Keeps.trans (Keeps.refl _) (State.setCore_keeps _ _ _)
    · extract_lets +onlyGivenNames -merge x77
      try clear_value x77
      extract_lets +onlyGivenNames -merge x78
      try clear_value x78
      extract_lets +onlyGivenNames -merge x79
      try clear_value x79
      extract_lets +onlyGivenNames -merge x80
      try clear_value x80
      extract_lets +onlyGivenNames -merge x81
      try clear_value x81
      extract_lets +onlyGivenNames -merge x82
      try clear_value x82
      exact Keeps.trans (Keeps.refl _) (State.setCore_keeps _ _ _)
    · extract_lets +onlyGivenNames -merge x83
      try clear_value x83
      extract_lets +onlyGivenNames -merge x84
      try clear_value x84
      extract_lets +onlyGivenNames -merge x85
      try clear_value x85
      exact Keeps.trans (Keeps.refl _) (State.elem_keeps _ _ _ _ _ _)
    · exact (Keeps.refl _)

theorem State.vecDo_keeps : ∀ s p1 p2 p3, Keeps s (@State.vecDo s p1 p2 p3) := by
  intro s p1 p2 p3
  unfold State.vecDo
  extract_lets +onlyGivenNames -merge x0
  have h1 : Keeps s x0 := by
    unfold x0
    exact Keeps.trans (Keeps.refl _) (State.consumeIf_keeps _ _ _)
  try clear_value x0
  exact Keeps.trans h1 (State.vecPerform_keeps _ _ _ _)

theorem State.vecIssue_keeps : ∀ s p1 p2 p3 p4 p5, Keeps s (@State.vecIssue s p1 p2 p3 p4 p5) := by
  intro s p1 p2 p3 p4 p5
  unfold State.vecIssue
  extract_lets +onlyGivenNames -merge x0
  try clear_value x0
  refine Keeps.ite ?_ ?_
  · exact Keeps.trans (Keeps.refl _) (State.coreFault_keeps _ _ _ _)
  · split
    · exact Keeps.trans (Keeps.refl _) (State.coreFault_keeps _ _ _ _)
    · exact Keeps.trans (Keeps.refl _) (State.vecDo_keeps _ _ _ _)

theorem State.fetchBlend_keeps : ∀ s p1 p2, Keeps s (@State.fetchBlend s p1 p2).2 := by
  intro s p1 p2
  unfold State.fetchBlend
  extract_lets +onlyGivenNames -merge x0
  try clear_value x0
  extract_lets +onlyGivenNames -merge x1
  have h2 : Keeps s x1 := by
    unfold x1
    exact Keeps.trans (Keeps.refl _) (State.countCheck_keeps _ _ _ _)
  try clear_value x1
  refine Keeps.snd ?_
  exact h2

theorem State.startBlend_keeps : ∀ s p1 p2, Keeps s (@State.startBlend s p1 p2) := by
  intro s p1 p2
  unfold State.startBlend
  extract_lets +onlyGivenNames -merge x0
  have h1 : Keeps s x0.2 := by
    unfold x0
    exact Keeps.trans (Keeps.refl _) (State.fetchBlend_keeps _ _ _)
  try clear_value x0
  extract_lets +onlyGivenNames -merge x2
  try clear_value x2
  extract_lets +onlyGivenNames -merge x3
  have h4 : Keeps s x3 := by
    unfold x3
    exact h1
  try clear_value x3
  extract_lets +onlyGivenNames -merge x5
  try clear_value x5
  extract_lets +onlyGivenNames -merge x6
  try clear_value x6
  extract_lets +onlyGivenNames -merge x7
  try clear_value x7
  exact Keeps.trans h4 (State.setCore_keeps _ _ _)

theorem State.blendWord_keeps : ∀ s p1 p2 p3, Keeps s (@State.blendWord s p1 p2 p3) := by
  intro s p1 p2 p3
  unfold State.blendWord
  extract_lets +onlyGivenNames -merge x0
  try clear_value x0
  extract_lets +onlyGivenNames -merge x1
  have h2 : ∀ y3 y4, Keeps y3 (x1 y3 y4) := by
    intro y3 y4
    unfold x1
    try beta_reduce
    extract_lets +onlyGivenNames -merge x5
    try clear_value x5
    exact Keeps.trans (Keeps.refl _) (State.setCore_keeps _ _ _)
  try clear_value x1
  extract_lets +onlyGivenNames -merge x6
  try clear_value x6
  extract_lets +onlyGivenNames -merge x7
  try clear_value x7
  extract_lets +onlyGivenNames -merge x8
  have h9 : ∀ y10 y11 y12 y13, Keeps y10 (x8 y10 y11 y12 y13) := by
    intro y10 y11 y12 y13
    unfold x8
    try beta_reduce
    refine Keeps.trans ?_ (h2 _ _)
    exact (Keeps.refl _)
  try clear_value x8
  refine Keeps.ite ?_ ?_
  · exact Keeps.trans (Keeps.refl _) (State.coreFault_keeps _ _ _ _)
  · refine Keeps.ite ?_ ?_
    · refine Keeps.trans ?_ (h9 _ _ _ _)
      exact (Keeps.refl _)
    · refine Keeps.ite ?_ ?_
      · refine Keeps.trans ?_ (h2 _ _)
        exact (Keeps.refl _)
      · refine Keeps.ite ?_ ?_
        · extract_lets +onlyGivenNames -merge x14
          try clear_value x14
          extract_lets +onlyGivenNames -merge x15
          try clear_value x15
          refine Keeps.ite ?_ ?_
          · exact Keeps.trans (Keeps.refl _) (State.coreFault_keeps _ _ _ _)
          · refine Keeps.ite ?_ ?_
            · exact Keeps.trans (Keeps.refl _) (State.coreFault_keeps _ _ _ _)
            · refine Keeps.ite ?_ ?_
              · exact Keeps.trans (Keeps.refl _) (State.coreFault_keeps _ _ _ _)
              · refine Keeps.ite ?_ ?_
                · exact Keeps.trans (Keeps.refl _) (State.coreFault_keeps _ _ _ _)
                · extract_lets +onlyGivenNames -merge x16
                  try clear_value x16
                  refine Keeps.ite ?_ ?_
                  · extract_lets +onlyGivenNames -merge x17
                    try clear_value x17
                    refine Keeps.trans ?_ (h9 _ _ _ _)
                    exact (Keeps.refl _)
                  · refine Keeps.trans ?_ (h9 _ _ _ _)
                    exact (Keeps.refl _)
        · extract_lets +onlyGivenNames -merge x18
          have h19 : Keeps s x18 := by
            unfold x18
            exact Keeps.trans (Keeps.refl _) (State.vecIssue_keeps _ _ _ _ _ _)
          try clear_value x18
          refine Keeps.trans ?_ (h9 _ _ _ _)
          exact h19

theorem State.blendTurn_keeps : ∀ s p1 p2 p3, Keeps s (@State.blendTurn s p1 p2 p3) := by
  intro s p1 p2 p3
  unfold State.blendTurn
  extract_lets +onlyGivenNames -merge x0
  try clear_value x0
  refine Keeps.ite ?_ ?_
  · exact Keeps.trans (Keeps.refl _) (State.setCore_keeps _ _ _)
  · extract_lets +onlyGivenNames -merge x1
    try clear_value x1
    refine Keeps.ite ?_ ?_
    · exact Keeps.trans (Keeps.refl _) (State.coreFault_keeps _ _ _ _)
    · split
      · exact Keeps.trans (Keeps.refl _) (State.blendWord_keeps _ _ _ _)
      · extract_lets +onlyGivenNames -merge x2
        have h3 : Keeps s x2.2 := by
          unfold x2
          try beta_reduce
          exact Keeps.trans (Keeps.refl _) (State.fetchBlend_keeps _ _ _)
        try clear_value x2
        split
        · exact Keeps.trans h3 (State.coreFault_keeps _ _ _ _)
        · exact Keeps.trans h3 (State.blendWord_keeps _ _ _ _)

theorem State.blendStep_keeps : ∀ s p1, Keeps s (@State.blendStep s p1) := by
  intro s p1
  unfold State.blendStep
  split
  · exact (Keeps.refl _)
  · exact Keeps.trans (Keeps.refl _) (State.blendTurn_keeps _ _ _ _)

theorem State.loneBlend_keeps : ∀ s p1 p2 p3, Keeps s (@State.loneBlend s p1 p2 p3) := by
  intro s p1 p2 p3
  unfold State.loneBlend
  refine Keeps.ite ?_ ?_
  · exact (Keeps.refl _)
  · extract_lets +onlyGivenNames -merge x0
    try clear_value x0
    extract_lets +onlyGivenNames -merge x1
    try clear_value x1
    extract_lets +onlyGivenNames -merge x2
    try clear_value x2
    extract_lets +onlyGivenNames -merge x3
    have h4 : Keeps s x3 := by
      unfold x3
      try beta_reduce
      split
      · exact Keeps.trans (Keeps.refl _) (State.blendTurn_keeps _ _ _ _)
      · refine Keeps.ite ?_ ?_
        · exact Keeps.trans (Keeps.refl _) (State.coreFault_keeps _ _ _ _)
        · refine Keeps.ite ?_ ?_
          · exact (Keeps.refl _)
          · exact Keeps.trans (Keeps.refl _) (State.vecIssue_keeps _ _ _ _ _ _)
    try clear_value x3
    exact Keeps.trans h4 (State.endCycle_keeps _ _)

end Sys2Proof.Machine
end

