-- ==== Sys2Proof/Laws/Seq.lean ====
section
/-! SUPPORT. What the operations of Machine/Seq.lean keep: the queue of waiting commands and the canonical form of the state
(Keeps); and that its commands answer a next state (Good). -/

namespace Sys2Proof.Machine

theorem State.slotLater_keeps : ∀ s p1 p2 p3 p4, Keeps s (@State.slotLater s p1 p2 p3 p4) := by
  intro s p1 p2 p3 p4
  unfold State.slotLater
  exact Keeps.trans (Keeps.refl _) (State.setCore_keeps _ _ _)

theorem seqPerform_keeps : ∀ s p1 p2, Keeps s (@seqPerform s p1 p2) := by
  intro s p1 p2
  unfold seqPerform
  extract_lets +onlyGivenNames -merge x0
  try clear_value x0
  extract_lets +onlyGivenNames -merge x1
  have h2 : ∀ y3 y4, Keeps s (x1 y3 y4) := by
    intro y3 y4
    unfold x1
    try beta_reduce
    exact Keeps.trans (Keeps.refl _) (State.slotLater_keeps _ _ _ _ _)
  try clear_value x1
  split
  · extract_lets +onlyGivenNames -merge x5
    try clear_value x5
    exact Keeps.trans (Keeps.refl _) (State.slotLater_keeps _ _ _ _ _)
  · extract_lets +onlyGivenNames -merge x6
    try clear_value x6
    exact Keeps.trans (Keeps.refl _) (State.slotLater_keeps _ _ _ _ _)
  · extract_lets +onlyGivenNames -merge x7
    try clear_value x7
    extract_lets +onlyGivenNames -merge x8
    try clear_value x8
    refine Keeps.ite ?_ ?_
    · refine Keeps.trans ?_ (State.traceCore_keeps _ _ _ _ _ _ _ _)
      · exact Keeps.trans (Keeps.refl _) (State.setCore_keeps _ _ _)
    · exact Keeps.trans (Keeps.refl _) (State.slotLater_keeps _ _ _ _ _)
  · exact Keeps.trans (Keeps.refl _) (State.slotLater_keeps _ _ _ _ _)
  · extract_lets +onlyGivenNames -merge x9
    try clear_value x9
    refine Keeps.ite ?_ ?_
    · exact h2 _ _
    · exact h2 _ _
  · exact h2 _ _
  · exact h2 _ _
  · extract_lets +onlyGivenNames -merge x10
    try clear_value x10
    exact Keeps.trans (Keeps.refl _) (State.slotLater_keeps _ _ _ _ _)
  · refine Keeps.ite ?_ ?_
    · exact Keeps.trans (Keeps.refl _) (State.slotLater_keeps _ _ _ _ _)
    · exact h2 _ _
  · extract_lets +onlyGivenNames -merge x11
    try clear_value x11
    exact Keeps.trans (Keeps.refl _) (State.slotLater_keeps _ _ _ _ _)
  · exact Keeps.trans (Keeps.refl _) (State.slotLater_keeps _ _ _ _ _)
  · exact h2 _ _
  · exact Keeps.trans (Keeps.refl _) (State.setCore_keeps _ _ _)
  · exact (Keeps.refl _)

theorem execWaitSatisfied_keeps : ∀ p0 s, Good s (@execWaitSatisfied p0 s) := by
  intro p0 s
  unfold execWaitSatisfied
  extract_lets +onlyGivenNames -merge x0
  try clear_value x0
  extract_lets +onlyGivenNames -merge x1
  try clear_value x1
  split
  · refine ⟨_, rfl, ?_⟩
    exact (Keeps.refl _)
  · refine Good.ite ?_ ?_
    · refine ⟨_, rfl, ?_⟩
      exact Keeps.trans (Keeps.refl _) (State.coreFault_keeps _ _ _ _)
    · extract_lets +onlyGivenNames -merge x2
      try clear_value x2
      extract_lets +onlyGivenNames -merge x3
      try clear_value x3
      extract_lets +onlyGivenNames -merge x4
      try clear_value x4
      extract_lets +onlyGivenNames -merge x5
      try clear_value x5
      extract_lets +onlyGivenNames -merge x6
      have h7 : Keeps s x6 := by
        unfold x6
        try beta_reduce
        refine Keeps.trans ?_ (State.traceCore_keeps _ _ _ _ _ _ _ _)
        exact Keeps.trans (Keeps.refl _) (State.setCore_keeps _ _ _)
      try clear_value x6
      split
      · refine ⟨_, rfl, ?_⟩
        exact h7
      · extract_lets +onlyGivenNames -merge x8
        try clear_value x8
        refine ⟨_, rfl, ?_⟩
        exact Keeps.trans h7 (State.setPart_keeps _ _ _)

end Sys2Proof.Machine
end

