-- ==== Sys2Proof/Laws/SliceMem.lean ====
section
/-! SUPPORT. What the operations of Machine/SliceMem.lean keep: the queue of waiting commands and the canonical form of the state
(Keeps); and that its commands answer a next state (Good). -/

namespace Sys2Proof.Machine

theorem State.countBeat_keeps : ∀ s p1 p2, Keeps s (@State.countBeat s p1 p2) := by
  intro s p1 p2
  unfold State.countBeat
  split
  · exact (Keeps.refl _)
  · exact Keeps.trans (Keeps.refl _) (State.countField_keeps _ _ _ _ _)
  · exact Keeps.trans (Keeps.refl _) (State.countField_keeps _ _ _ _ _)
  · extract_lets +onlyGivenNames -merge x0
    have h1 : Keeps s x0 := by
      unfold x0
      try beta_reduce
      exact Keeps.trans (Keeps.refl _) (State.countField_keeps _ _ _ _ _)
    try clear_value x0
    split
    · exact h1
    · extract_lets +onlyGivenNames -merge x2
      have h3 : Keeps s x2 := by
        unfold x2
        try beta_reduce
        exact Keeps.trans h1 (State.setField_keeps _ _ _ _ _)
      try clear_value x2
      extract_lets +onlyGivenNames -merge x4
      have h5 : Keeps s x4 := by
        unfold x4
        try beta_reduce
        exact Keeps.trans h3 (State.setField_keeps _ _ _ _ _)
      try clear_value x4
      extract_lets +onlyGivenNames -merge x6
      try clear_value x6
      refine Keeps.ite ?_ ?_
      · extract_lets +onlyGivenNames -merge x7
        have h8 : Keeps s x7 := by
          unfold x7
          try beta_reduce
          exact Keeps.trans h5 (State.setSlice_keeps _ _ _)
        try clear_value x7
        extract_lets +onlyGivenNames -merge x9
        have h10 : Keeps s x9 := by
          unfold x9
          try beta_reduce
          refine Keeps.trans ?_ (State.setField_keeps _ _ _ _ _)
          exact Keeps.trans h8 (State.setField_keeps _ _ _ _ _)
        try clear_value x9
        split
        · exact Keeps.trans h10 (State.recoverable_keeps _ _ _ _)
        · exact h10
      · exact Keeps.trans h5 (State.setSlice_keeps _ _ _)

theorem State.readBeat_keeps : ∀ s p1 p2, Keeps s (@State.readBeat s p1 p2).2.2 := by
  intro s p1 p2
  unfold State.readBeat
  extract_lets +onlyGivenNames -merge x0
  try clear_value x0
  refine Keeps.sndP (fun (r : Bool × Sys2Proof.Machine.State) => r.2) ?_
  refine Keeps.snd ?_
  exact Keeps.trans (Keeps.refl _) (State.countBeat_keeps _ _ _)

theorem State.writeBeat_keeps : ∀ s p1 p2 p3 p4, Keeps s (@State.writeBeat s p1 p2 p3 p4) := by
  intro s p1 p2 p3 p4
  unfold State.writeBeat
  refine Keeps.trans (Keeps.refl _) (Keeps.mk rfl ?_ ?_ ?_ ?_) <;> intro hh <;>
    (first | exact hh | exact Mem.writeUnit_wf _ _ _ hh | exact Mem.zero_wf _ _ hh | exact regsForm_filter _ hh
           | exact SMap.wf_clear _ _ hh | exact SMap.wf_set _ _ hh | exact regsForm_set _ _ hh | exact Mem.empty_wf | rfl
           | exact SMap.wf_clear _ _ (SMap.wf_clear _ _ hh) | exact regsForm_clear _ _ (regsForm_clear _ _ hh))

end Sys2Proof.Machine
end

