-- ==== Sys2Proof/Laws/Srm.lean ====
section
/-! SUPPORT. What the operations of Machine/Srm.lean keep: the queue of waiting commands and the canonical form of the state
(Keeps); and that its commands answer a next state (Good). -/

namespace Sys2Proof.Machine

theorem srmPerform_keeps : ∀ s p1 p2, Keeps s (@srmPerform s p1 p2) := by
  intro s p1 p2
  unfold srmPerform
  extract_lets +onlyGivenNames -merge x0
  try clear_value x0
  extract_lets +onlyGivenNames -merge x1
  try clear_value x1
  extract_lets +onlyGivenNames -merge x2
  try clear_value x2
  extract_lets +onlyGivenNames -merge x3
  try clear_value x3
  extract_lets +onlyGivenNames -merge x4
  have h5 : Keeps s x4 := by
    unfold x4
    split
    · exact Keeps.trans (Keeps.refl _) (State.slotLater_keeps _ _ _ _ _)
    · exact (Keeps.refl _)
  try clear_value x4
  extract_lets +onlyGivenNames -merge x6
  try clear_value x6
  extract_lets +onlyGivenNames -merge x7
  have h8 : ∀ y9 y10, Keeps y10 (x7 y9 y10) := by
    intro y9 y10
    unfold x7
    try beta_reduce
    refine Keeps.ite ?_ ?_
    · exact Keeps.trans (Keeps.refl _) (State.slotLater_keeps _ _ _ _ _)
    · exact (Keeps.refl _)
  try clear_value x7
  split
  · exact Keeps.trans h5 (State.slotLater_keeps _ _ _ _ _)
  · exact Keeps.trans h5 (State.slotLater_keeps _ _ _ _ _)
  · exact Keeps.trans h5 (State.slotLater_keeps _ _ _ _ _)
  · extract_lets +onlyGivenNames -merge x11
    try clear_value x11
    exact Keeps.trans h5 (State.slotLater_keeps _ _ _ _ _)
  · exact Keeps.trans h5 (State.slotLater_keeps _ _ _ _ _)
  · refine Keeps.trans ?_ (h8 _ _)
    exact Keeps.trans h5 (State.slotLater_keeps _ _ _ _ _)
  · refine Keeps.trans ?_ (h8 _ _)
    exact Keeps.trans h5 (State.slotLater_keeps _ _ _ _ _)
  · exact h5

end Sys2Proof.Machine
end

