-- ==== Sys2Proof/Laws/Lds.lean ====
section
/-! SUPPORT. What the operations of Machine/Lds.lean keep: the queue of waiting commands and the canonical form of the state
(Keeps); and that its commands answer a next state (Good). -/

namespace Sys2Proof.Machine

theorem State.openPort_keeps : ∀ s p1 p2 p3, Keeps s (@State.openPort s p1 p2 p3) := by
  intro s p1 p2 p3
  unfold State.openPort
  extract_lets +onlyGivenNames -merge x0
  try clear_value x0
  exact Keeps.trans (Keeps.refl _) (State.setCore_keeps _ _ _)

theorem State.ldsPerform_keeps : ∀ s p1 p2, Keeps s (@State.ldsPerform s p1 p2) := by
  intro s p1 p2
  unfold State.ldsPerform
  extract_lets +onlyGivenNames -merge x0
  try clear_value x0
  extract_lets +onlyGivenNames -merge x1
  try clear_value x1
  extract_lets +onlyGivenNames -merge x2
  try clear_value x2
  extract_lets +onlyGivenNames -merge x3
  try clear_value x3
  extract_lets +onlyGivenNames -merge x4
  try clear_value x4
  extract_lets +onlyGivenNames -merge x5
  try clear_value x5
  extract_lets +onlyGivenNames -merge x6 x7
  try clear_value x6
  have h8 : Keeps s x7 := by
    unfold x7
    exact Keeps.trans (Keeps.refl _) (State.setCore_keeps _ _ _)
  try clear_value x7
  extract_lets +onlyGivenNames -merge x9
  have h10 : Keeps s x9 := by
    unfold x9
    exact Keeps.trans h8 (State.openPort_keeps _ _ _ _)
  try clear_value x9
  refine Keeps.ite ?_ ?_
  · extract_lets +onlyGivenNames -merge x11
    have h12 : Keeps s x11 := by
      unfold x11
      exact Keeps.trans h10 (State.slotLater_keeps _ _ _ _ _)
    try clear_value x11
    exact Keeps.trans h12 (State.slotLater_keeps _ _ _ _ _)
  · exact h10

theorem State.ldsBeat_keeps : ∀ s p1 p2, Keeps s (@State.ldsBeat s p1 p2) := by
  intro s p1 p2
  unfold State.ldsBeat
  extract_lets +onlyGivenNames -merge x0
  try clear_value x0
  extract_lets +onlyGivenNames -merge x1
  try clear_value x1
  extract_lets +onlyGivenNames -merge x2
  try clear_value x2
  refine Keeps.ite ?_ ?_
  · extract_lets +onlyGivenNames -merge x3
    try clear_value x3
    refine Keeps.trans ?_ (State.writeBeat_keeps _ _ _ _ _)
    · exact Keeps.trans (Keeps.refl _) (State.tallyCore_keeps _ _ _ _)
  · extract_lets +onlyGivenNames -merge x4
    have h5 : Keeps s x4.2.2 := by
      unfold x4
      exact Keeps.trans (Keeps.refl _) (State.readBeat_keeps _ _ _)
    try clear_value x4
    extract_lets +onlyGivenNames -merge x6
    try clear_value x6
    extract_lets +onlyGivenNames -merge x7
    try clear_value x7
    extract_lets +onlyGivenNames -merge x8
    have h9 : Keeps s x8 := by
      unfold x8
      exact Keeps.trans h5 (State.tallyCore_keeps _ _ _ _)
    try clear_value x8
    extract_lets +onlyGivenNames -merge x10
    try clear_value x10
    exact Keeps.trans h9 (State.setCore_keeps _ _ _)

theorem execSliceBeat_keeps : ∀ p0 s, Good s (@execSliceBeat p0 s) := by
  intro p0 s
  unfold execSliceBeat
  refine Good.ite ?_ ?_
  · refine ⟨_, rfl, ?_⟩
    exact (Keeps.refl _)
  · extract_lets +onlyGivenNames -merge x0
    try clear_value x0
    extract_lets +onlyGivenNames -merge x1
    try clear_value x1
    extract_lets +onlyGivenNames -merge x2
    try clear_value x2
    extract_lets +onlyGivenNames -merge x3
    try clear_value x3
    extract_lets +onlyGivenNames -merge x4
    try clear_value x4
    extract_lets +onlyGivenNames -merge x5
    try clear_value x5
    refine Good.ite ?_ ?_
    · split
      · refine ⟨_, rfl, ?_⟩
        exact (Keeps.refl _)
      · refine Good.ite ?_ ?_
        · refine ⟨_, rfl, ?_⟩
          exact (Keeps.refl _)
        · extract_lets +onlyGivenNames -merge x6
          have h7 : Keeps s x6 := by
            unfold x6
            try beta_reduce
            exact Keeps.trans (Keeps.refl _) (State.ldsBeat_keeps _ _ _)
          try clear_value x6
          extract_lets +onlyGivenNames -merge x8
          try clear_value x8
          extract_lets +onlyGivenNames -merge x9
          try clear_value x9
          extract_lets +onlyGivenNames -merge x10
          try clear_value x10
          refine ⟨_, rfl, ?_⟩
          exact Keeps.trans h7 (State.setCore_keeps _ _ _)
    · split
      · refine ⟨_, rfl, ?_⟩
        exact (Keeps.refl _)
      · refine Good.ite ?_ ?_
        · refine ⟨_, rfl, ?_⟩
          exact (Keeps.refl _)
        · extract_lets +onlyGivenNames -merge x11
          try clear_value x11
          extract_lets +onlyGivenNames -merge x12
          have h13 : Keeps s x12.2.2 := by
            unfold x12
            try beta_reduce
            exact Keeps.trans (Keeps.refl _) (State.readBeat_keeps _ _ _)
          try clear_value x12
          extract_lets +onlyGivenNames -merge x14
          have h15 : Keeps s x14 := by
            unfold x14
            try beta_reduce
            exact Keeps.trans h13 (State.tallyCore_keeps _ _ _ _)
          try clear_value x14
          extract_lets +onlyGivenNames -merge x16
          try clear_value x16
          extract_lets +onlyGivenNames -merge x17
          try clear_value x17
          refine ⟨_, rfl, ?_⟩
          exact Keeps.trans h15 (State.setCore_keeps _ _ _)

end Sys2Proof.Machine
end

