-- ==== Sys2Proof/Laws/Net.lean ====
section
/-! SUPPORT. What the operations of Machine/Net.lean keep: the queue of waiting commands and the canonical form of the state
(Keeps); and that its commands answer a next state (Good). -/

namespace Sys2Proof.Machine

theorem State.takeFlit_keeps : ∀ s p1, Keeps s (@State.takeFlit s p1).2.2 := by
  intro s p1
  unfold State.takeFlit
  extract_lets +onlyGivenNames -merge x0
  try clear_value x0
  split
  · refine Keeps.sndP (fun (r : Bool × Sys2Proof.Machine.State) => r.2) ?_
    refine Keeps.snd ?_
    exact Keeps.trans (Keeps.refl _) (State.setCore_keeps _ _ _)
  · extract_lets +onlyGivenNames -merge x1
    have h2 : Keeps s x1.2 := by
      unfold x1
      exact Keeps.trans (Keeps.refl _) (State.free_keeps _ _)
    try clear_value x1
    refine Keeps.sndP (fun (r : Bool × Sys2Proof.Machine.State) => r.2) ?_
    refine Keeps.snd ?_
    exact Keeps.trans h2 (State.orReg_keeps _ _ _)

theorem netPerform_keeps : ∀ s p1 p2, Keeps s (@netPerform s p1 p2) := by
  intro s p1 p2
  unfold netPerform
  extract_lets +onlyGivenNames -merge x0
  try clear_value x0
  extract_lets +onlyGivenNames -merge x1
  try clear_value x1
  extract_lets +onlyGivenNames -merge x2
  have h3 : ∀ y4, Keeps y4 (x2 y4) := by
    intro y4
    unfold x2
    try beta_reduce
    refine Keeps.ite ?_ ?_
    · exact Keeps.trans (Keeps.refl _) (State.slotLater_keeps _ _ _ _ _)
    · exact (Keeps.refl _)
  try clear_value x2
  extract_lets +onlyGivenNames -merge x5
  try clear_value x5
  extract_lets +onlyGivenNames -merge x6
  try clear_value x6
  split
  · refine Keeps.trans ?_ (h3 _)
    exact Keeps.trans (Keeps.refl _) (State.slotLater_keeps _ _ _ _ _)
  · extract_lets +onlyGivenNames -merge x7
    try clear_value x7
    exact Keeps.trans (Keeps.refl _) (State.slotLater_keeps _ _ _ _ _)
  · extract_lets +onlyGivenNames -merge x8
    have h9 : Keeps s x8.2.2 := by
      unfold x8
      exact Keeps.trans (Keeps.refl _) (State.takeFlit_keeps _ _)
    try clear_value x8
    extract_lets +onlyGivenNames -merge x10
    try clear_value x10
    extract_lets +onlyGivenNames -merge x11
    try clear_value x11
    extract_lets +onlyGivenNames -merge x12
    have h13 : Keeps s x12 := by
      unfold x12
      exact Keeps.trans h9 (State.slotLater_keeps _ _ _ _ _)
    try clear_value x12
    refine Keeps.trans ?_ (h3 _)
    exact Keeps.trans h13 (State.slotLater_keeps _ _ _ _ _)
  · extract_lets +onlyGivenNames -merge x14
    have h15 : Keeps s x14.2.2 := by
      unfold x14
      exact Keeps.trans (Keeps.refl _) (State.takeFlit_keeps _ _)
    try clear_value x14
    extract_lets +onlyGivenNames -merge x16
    try clear_value x16
    exact Keeps.trans h15 (State.slotLater_keeps _ _ _ _ _)
  · exact (Keeps.refl _)

end Sys2Proof.Machine
end

