-- ==== Sys2Proof/Laws/Ope.lean ====
section
/-! SUPPORT. What the operations of Machine/Ope.lean keep: the queue of waiting commands and the canonical form of the state
(Keeps); and that its commands answer a next state (Good). -/

namespace Sys2Proof.Machine

theorem State.readDesc_keeps : ∀ s p1 p2, Keeps s (@State.readDesc s p1 p2).2.2 := by
  intro s p1 p2
  unfold State.readDesc
  extract_lets +onlyGivenNames -merge x0
  try clear_value x0
  extract_lets +onlyGivenNames -merge x1
  have h2 : Keeps s x1.2.2 := by
    unfold x1
    exact Keeps.trans (Keeps.refl _) (State.readSram_keeps _ _ _ _)
  try clear_value x1
  refine Keeps.sndP (fun (r : Bool × Sys2Proof.Machine.State) => r.2) ?_
  refine Keeps.snd ?_
  exact h2

theorem State.mmaOf_keeps : ∀ s p1 p2, Keeps s (@State.mmaOf s p1 p2).2.2 := by
  intro s p1 p2
  unfold State.mmaOf
  extract_lets +onlyGivenNames -merge x0
  try clear_value x0
  extract_lets +onlyGivenNames -merge x1
  have h2 : Keeps s x1.2.2 := by
    unfold x1
    exact Keeps.trans (Keeps.refl _) (State.readDesc_keeps _ _ _)
  try clear_value x1
  extract_lets +onlyGivenNames -merge x3
  have h4 : Keeps s x3.2.2 := by
    unfold x3
    exact Keeps.trans h2 (State.readDesc_keeps _ _ _)
  try clear_value x3
  extract_lets +onlyGivenNames -merge x5
  try clear_value x5
  refine Keeps.sndP (fun (r : Bool × Sys2Proof.Machine.State) => r.2) ?_
  refine Keeps.snd ?_
  exact h4

theorem State.chkFail_keeps : ∀ s p1 p2, Keeps s (@State.chkFail s p1 p2) := by
  intro s p1 p2
  unfold State.chkFail
  refine Keeps.ite ?_ ?_
  · refine Keeps.trans ?_ (State.countField_keeps _ _ _ _ _)
    · exact Keeps.trans (Keeps.refl _) (State.orReg_keeps _ _ _)
  · exact (Keeps.refl _)

theorem State.opePerform_keeps : ∀ s p1 p2, Keeps s (@State.opePerform s p1 p2) := by
  intro s p1 p2
  unfold State.opePerform
  extract_lets +onlyGivenNames -merge x0
  try clear_value x0
  extract_lets +onlyGivenNames -merge x1
  try clear_value x1
  extract_lets +onlyGivenNames -merge x2
  try clear_value x2
  split
  · extract_lets +onlyGivenNames -merge x3
    have h4 : Keeps s x3.2.2 := by
      unfold x3
      exact Keeps.trans (Keeps.refl _) (State.mmaOf_keeps _ _ _)
    try clear_value x3
    extract_lets +onlyGivenNames -merge x5
    try clear_value x5
    extract_lets +onlyGivenNames -merge x6
    try clear_value x6
    exact Keeps.trans h4 (State.setCore_keeps _ _ _)
  · extract_lets +onlyGivenNames -merge x7
    try clear_value x7
    extract_lets +onlyGivenNames -merge x8
    try clear_value x8
    extract_lets +onlyGivenNames -merge x9
    try clear_value x9
    extract_lets +onlyGivenNames -merge x10
    try clear_value x10
    extract_lets +onlyGivenNames -merge x11
    try clear_value x11
    extract_lets +onlyGivenNames -merge x12
    try clear_value x12
    extract_lets +onlyGivenNames -merge x13
    have h14 : Keeps s x13 := by
      unfold x13
      exact Keeps.trans (Keeps.refl _) (State.setCore_keeps _ _ _)
    try clear_value x13
    extract_lets +onlyGivenNames -merge x15
    have h16 : Keeps s x15 := by
      unfold x15
      refine Keeps.foldl ?_ ?_
      · exact h14
      · intro a18 b19 ht17
        try beta_reduce
        exact Keeps.trans ht17 (State.slotLater_keeps _ _ _ _ _)
    try clear_value x15
    exact Keeps.trans h16 (State.slotLater_keeps _ _ _ _ _)
  · extract_lets +onlyGivenNames -merge x20
    try clear_value x20
    extract_lets +onlyGivenNames -merge x21
    have h22 : Keeps s x21 := by
      unfold x21
      exact Keeps.trans (Keeps.refl _) (State.setCore_keeps _ _ _)
    try clear_value x21
    refine Keeps.foldl ?_ ?_
    · exact h22
    · intro a24 b25 ht23
      try beta_reduce
      extract_lets +onlyGivenNames -merge x26
      try clear_value x26
      extract_lets +onlyGivenNames -merge x27
      try clear_value x27
      extract_lets +onlyGivenNames -merge x28
      have h29 : Keeps s x28 := by
        unfold x28
        exact Keeps.trans ht23 (State.chkFail_keeps _ _ _)
      try clear_value x28
      refine Keeps.foldl ?_ ?_
      · exact h29
      · intro a31 b32 ht30
        try beta_reduce
        exact Keeps.trans ht30 (State.slotLater_keeps _ _ _ _ _)
  · exact (Keeps.refl _)

theorem State.noFlits_keeps : ∀ s p1 p2, Keeps s (@State.noFlits s p1 p2) := by
  intro s p1 p2
  unfold State.noFlits
  extract_lets +onlyGivenNames -merge x0
  try clear_value x0
  extract_lets +onlyGivenNames -merge x1
  try clear_value x1
  extract_lets +onlyGivenNames -merge x2 x3
  try clear_value x2
  have h4 : Keeps s x3 := by
    unfold x3
    exact Keeps.trans (Keeps.refl _) (State.setCore_keeps _ _ _)
  try clear_value x3
  refine Keeps.ite ?_ ?_
  · exact Keeps.trans h4 (State.orReg_keeps _ _ _)
  · exact h4

theorem State.fillBook_keeps : ∀ s p1 p2 p3 p4 p5 p6 p7, Keeps s (@State.fillBook s p1 p2 p3 p4 p5 p6 p7).1 := by
  intro s p1 p2 p3 p4 p5 p6 p7
  unfold State.fillBook
  refine Keeps.iteP (fun (r : Sys2Proof.Machine.State × Sys2Proof.SMap (Sys2Proof.Bytes × ℕ)) => r.1) ?_ ?_
  · refine Keeps.fst ?_
    exact (Keeps.refl _)
  · refine Keeps.foldlP (fun (r : Sys2Proof.Machine.State × Sys2Proof.SMap (Sys2Proof.Bytes × ℕ)) => r.1) ?_ ?_
    · refine Keeps.fst ?_
      exact (Keeps.refl _)
    · intro a0 b1 ht2
      try beta_reduce
      split
      · exact ht2
      · extract_lets +onlyGivenNames -merge x3
        have h4 : Keeps s x3.2.2 := by
          unfold x3
          try beta_reduce
          exact Keeps.trans ht2 (State.readSram_keeps _ _ _ _)
        try clear_value x3
        exact h4

theorem State.opeStep_keeps : ∀ s p1 p2 p3, Keeps s (@State.opeStep s p1 p2 p3) := by
  intro s p1 p2 p3
  unfold State.opeStep
  extract_lets +onlyGivenNames -merge x0
  try clear_value x0
  extract_lets +onlyGivenNames -merge x1
  try clear_value x1
  extract_lets +onlyGivenNames -merge x2
  try clear_value x2
  extract_lets +onlyGivenNames -merge x3
  try clear_value x3
  extract_lets +onlyGivenNames -merge x4
  try clear_value x4
  extract_lets +onlyGivenNames -merge x5
  try clear_value x5
  extract_lets +onlyGivenNames -merge x6 x7
  try clear_value x6
  have h8 : Keeps s x7 := by
    unfold x7
    exact Keeps.trans (Keeps.refl _) (State.setCore_keeps _ _ _)
  try clear_value x7
  refine Keeps.trans ?_ (State.consumeIf_keeps _ _ _)
  · exact Keeps.trans h8 (State.arith_keeps _ _ _)

theorem execOpeUpdate_keeps : ∀ p0 s, Good s (@execOpeUpdate p0 s) := by
  intro p0 s
  unfold execOpeUpdate
  refine Good.ite ?_ ?_
  · refine ⟨_, rfl, ?_⟩
    exact (Keeps.refl _)
  · extract_lets +onlyGivenNames -merge x0
    have h1 : Keeps s x0 := by
      unfold x0
      try beta_reduce
      split
      · exact Keeps.trans (Keeps.refl _) (State.noFlits_keeps _ _ _)
      · exact (Keeps.refl _)
    try clear_value x0
    extract_lets +onlyGivenNames -merge x2
    try clear_value x2
    split
    · refine ⟨_, rfl, ?_⟩
      exact h1
    · extract_lets +onlyGivenNames -merge x3
      try clear_value x3
      extract_lets +onlyGivenNames -merge x4
      try clear_value x4
      extract_lets +onlyGivenNames -merge x5
      have h6 : Keeps s x5 := by
        unfold x5
        try beta_reduce
        refine Keeps.ite ?_ ?_
        · exact Keeps.trans h1 (State.setCore_keeps _ _ _)
        · exact h1
      try clear_value x5
      extract_lets +onlyGivenNames -merge x7
      have h8 : Keeps s x7.1 := by
        unfold x7
        try beta_reduce
        refine Keeps.foldlP (fun (r : Sys2Proof.Machine.State × Sys2Proof.SMap (Sys2Proof.Bytes × ℕ)) => r.1) ?_ ?_
        · exact h6
        · intro a9 b10 ht11
          try beta_reduce
          exact Keeps.trans ht11 (State.fillBook_keeps _ _ _ _ _ _ _ _)
      try clear_value x7
      extract_lets +onlyGivenNames -merge x12
      try clear_value x12
      extract_lets +onlyGivenNames -merge x13
      have h14 : Keeps s x13 := by
        unfold x13
        try beta_reduce
        refine Keeps.foldl ?_ ?_
        · exact h8
        · intro a15 b16 ht17
          try beta_reduce
          exact Keeps.trans ht17 (State.opeStep_keeps _ _ _ _)
      try clear_value x13
      extract_lets +onlyGivenNames -merge x18
      try clear_value x18
      refine ⟨_, rfl, ?_⟩
      exact Keeps.trans h14 (State.setCore_keeps _ _ _)

theorem execNoFlit_keeps : ∀ p0 s, Good s (@execNoFlit p0 s) := by
  intro p0 s
  unfold execNoFlit
  refine ⟨_, rfl, ?_⟩
  refine Keeps.ite ?_ ?_
  · exact Keeps.trans (Keeps.refl _) (State.noFlits_keeps _ _ _)
  · exact (Keeps.refl _)

theorem State.deliverOperand_keeps : ∀ s p1 p2 p3 p4, Keeps s (@State.deliverOperand s p1 p2 p3 p4) := by
  intro s p1 p2 p3 p4
  unfold State.deliverOperand
  refine Keeps.ite ?_ ?_
  · exact (Keeps.refl _)
  · extract_lets +onlyGivenNames -merge x0
    have h1 : Keeps s x0 := by
      unfold x0
      exact Keeps.trans (Keeps.refl _) (State.noFlits_keeps _ _ _)
    try clear_value x0
    extract_lets +onlyGivenNames -merge x2
    try clear_value x2
    extract_lets +onlyGivenNames -merge x3
    have h4 : Keeps s x3 := by
      unfold x3
      exact Keeps.trans h1 (State.orReg_keeps _ _ _)
    try clear_value x3
    extract_lets +onlyGivenNames -merge x5
    try clear_value x5
    extract_lets +onlyGivenNames -merge x6
    try clear_value x6
    split
    · exact h4
    · extract_lets +onlyGivenNames -merge x7
      try clear_value x7
      refine Keeps.ite ?_ ?_
      · exact h4
      · extract_lets +onlyGivenNames -merge x8
        try clear_value x8
        extract_lets +onlyGivenNames -merge x9
        try clear_value x9
        exact Keeps.trans h1 (State.setCore_keeps _ _ _)

end Sys2Proof.Machine
end

