-- ==== Sys2Proof/Laws/Mvp.lean ====
section
/-! SUPPORT. What the operations of Machine/Mvp.lean keep: the queue of waiting commands and the canonical form of the state
(Keeps); and that its commands answer a next state (Good). -/

namespace Sys2Proof.Machine

theorem State.runOf_keeps : ∀ s p1 p2, Keeps s (@State.runOf s p1 p2).2.2 := by
  intro s p1 p2
  unfold State.runOf
  extract_lets +onlyGivenNames -merge x0
  try clear_value x0
  extract_lets +onlyGivenNames -merge x1
  have h2 : Keeps s x1.2.2 := by
    unfold x1
    exact Keeps.trans (Keeps.refl _) (State.readDesc_keeps _ _ _)
  try clear_value x1
  extract_lets +onlyGivenNames -merge x3
  have h4 : Keeps s x3.2.2 := by
    unfold x3
    exact Keeps.trans h2 (State.readDesc_keeps _ _ _)
  try clear_value x3
  extract_lets +onlyGivenNames -merge x5
  try clear_value x5
  refine Keeps.sndP (fun (r : Bool × Sys2Proof.Machine.State) => r.2) ?_
  refine Keeps.snd ?_
  exact h4

theorem State.mvpPerform_keeps : ∀ s p1 p2, Keeps s (@State.mvpPerform s p1 p2) := by
  intro s p1 p2
  unfold State.mvpPerform
  extract_lets +onlyGivenNames -merge x0
  try clear_value x0
  extract_lets +onlyGivenNames -merge x1
  try clear_value x1
  extract_lets +onlyGivenNames -merge x2
  try clear_value x2
  split
  · extract_lets +onlyGivenNames -merge x3
    have h4 : Keeps s x3.2.2 := by
      unfold x3
      exact Keeps.trans (Keeps.refl _) (State.runOf_keeps _ _ _)
    try clear_value x3
    extract_lets +onlyGivenNames -merge x5
    try clear_value x5
    extract_lets +onlyGivenNames -merge x6
    have h7 : Keeps s x6 := by
      unfold x6
      exact h4
    try clear_value x6
    extract_lets +onlyGivenNames -merge x8
    try clear_value x8
    extract_lets +onlyGivenNames -merge x9
    try clear_value x9
    extract_lets +onlyGivenNames -merge x10
    try clear_value x10
    extract_lets +onlyGivenNames -merge x11
    have h12 : Keeps s x11 := by
      unfold x11
      exact Keeps.trans h7 (State.setCore_keeps _ _ _)
    try clear_value x11
    refine Keeps.ite ?_ ?_
    · exact Keeps.trans h12 (State.openPort_keeps _ _ _ _)
    · exact h12
  · extract_lets +onlyGivenNames -merge x13
    try clear_value x13
    extract_lets +onlyGivenNames -merge x14
    try clear_value x14
    extract_lets +onlyGivenNames -merge x15
    try clear_value x15
    extract_lets +onlyGivenNames -merge x16
    try clear_value x16
    extract_lets +onlyGivenNames -merge x17
    have h18 : Keeps s x17 := by
      unfold x17
      exact Keeps.trans (Keeps.refl _) (State.setCore_keeps _ _ _)
    try clear_value x17
    refine Keeps.foldl ?_ ?_
    · exact h18
    · intro a20 b21 ht19
      try beta_reduce
      exact Keeps.trans ht19 (State.slotLater_keeps _ _ _ _ _)
  · exact (Keeps.refl _)

theorem State.runStep_keeps : ∀ s p1 p2 p3, Keeps s (@State.runStep s p1 p2 p3) := by
  intro s p1 p2 p3
  unfold State.runStep
  extract_lets +onlyGivenNames -merge x0
  try clear_value x0
  extract_lets +onlyGivenNames -merge x1
  try clear_value x1
  extract_lets +onlyGivenNames -merge x2
  try clear_value x2
  extract_lets +onlyGivenNames -merge x3
  try clear_value x3
  extract_lets +onlyGivenNames -merge x4
  try clear_value x4
  extract_lets +onlyGivenNames -merge x5
  try clear_value x5
  extract_lets +onlyGivenNames -merge x6
  try clear_value x6
  extract_lets +onlyGivenNames -merge x7
  try clear_value x7
  extract_lets +onlyGivenNames -merge x8
  try clear_value x8
  extract_lets +onlyGivenNames -merge x9
  have h10 : Keeps s x9 := by
    unfold x9
    try beta_reduce
    exact Keeps.trans (Keeps.refl _) (State.setCore_keeps _ _ _)
  try clear_value x9
  extract_lets +onlyGivenNames -merge x11
  have h12 : Keeps s x11 := by
    unfold x11
    try beta_reduce
    exact Keeps.trans h10 (State.tallyCore_keeps _ _ _ _)
  try clear_value x11
  extract_lets +onlyGivenNames -merge x13
  have h14 : Keeps s x13 := by
    unfold x13
    try beta_reduce
    refine Keeps.foldl ?_ ?_
    · exact h12
    · intro a15 b16 ht17
      try beta_reduce
      exact Keeps.trans ht17 (State.readSram_keeps _ _ _ _)
  try clear_value x13
  extract_lets +onlyGivenNames -merge x18
  try clear_value x18
  refine Keeps.trans ?_ (State.consumeIf_keeps _ _ _)
  exact Keeps.trans h14 (State.arith_keeps _ _ _)

theorem execMvpProduct_keeps : ∀ p0 s, Good s (@execMvpProduct p0 s) := by
  intro p0 s
  unfold execMvpProduct
  refine Good.ite ?_ ?_
  · refine ⟨_, rfl, ?_⟩
    exact (Keeps.refl _)
  · split
    · refine ⟨_, rfl, ?_⟩
      exact (Keeps.refl _)
    · extract_lets +onlyGivenNames -merge x0
      have h1 : Keeps s x0.1 := by
        unfold x0
        try beta_reduce
        exact Keeps.trans (Keeps.refl _) (State.fillBook_keeps _ _ _ _ _ _ _ _)
      try clear_value x0
      extract_lets +onlyGivenNames -merge x2
      try clear_value x2
      extract_lets +onlyGivenNames -merge x3
      have h4 : Keeps s x3 := by
        unfold x3
        try beta_reduce
        exact Keeps.trans h1 (State.runStep_keeps _ _ _ _)
      try clear_value x3
      extract_lets +onlyGivenNames -merge x5
      try clear_value x5
      refine ⟨_, rfl, ?_⟩
      exact Keeps.trans h4 (State.setCore_keeps _ _ _)

end Sys2Proof.Machine
end

