-- ==== Sys2Proof/Laws/Part.lean ====
section
/-! SUPPORT. What the operations of Machine/Part.lean keep: the queue of waiting commands and the canonical form of the state
(Keeps); and that its commands answer a next state (Good). -/

namespace Sys2Proof.Machine

theorem State.countPause_keeps : ∀ s p1 p2 p3, Keeps s (@State.countPause s p1 p2 p3) := by
  intro s p1 p2 p3
  unfold State.countPause
  extract_lets +onlyGivenNames -merge x0
  try clear_value x0
  extract_lets +onlyGivenNames -merge x1
  have h2 : Keeps s x1 := by
    unfold x1
    try beta_reduce
    exact Keeps.trans (Keeps.refl _) (State.setPart_keeps _ _ _)
  try clear_value x1
  exact Keeps.trans h2 (State.tracePause_keeps _ _ _ _)

theorem State.takePause_keeps : ∀ s p1 p2 p3, Keeps s (@State.takePause s p1 p2 p3) := by
  intro s p1 p2 p3
  unfold State.takePause
  exact Keeps.trans (Keeps.refl _) (State.countPause_keeps _ _ _ _)

theorem State.waitPause_keeps : ∀ s p1 p2, Keeps s (@State.waitPause s p1 p2) := by
  intro s p1 p2
  induction p2 generalizing s with
  | zero => exact Keeps.refl s
  | succ k ih =>
    rw [State.waitPause]
    refine Keeps.ite ?_ (Keeps.refl s)
    exact Keeps.trans (State.setPart_keeps _ _ _) (ih _)

theorem execWaitPause_keeps : ∀ p0 p1 s, Good s (@execWaitPause p0 p1 s) := by
  intro p0 p1 s
  unfold execWaitPause
  refine Good.ite ?_ ?_
  · refine ⟨_, rfl, ?_⟩
    exact (Keeps.refl _)
  · extract_lets +onlyGivenNames -merge x0
    have h1 : Keeps s x0 := by
      unfold x0
      exact Keeps.trans (Keeps.refl _) (State.waitPause_keeps _ _ _)
    try clear_value x0
    extract_lets +onlyGivenNames -merge x2
    try clear_value x2
    refine Good.ite ?_ ?_
    · refine ⟨_, rfl, ?_⟩
      exact Keeps.trans h1 (State.tracePause_keeps _ _ _ _)
    · refine ⟨_, rfl, ?_⟩
      exact h1

theorem execWaitTimeout_keeps : ∀ p0 s, Good s (@execWaitTimeout p0 s) := by
  intro p0 s
  unfold execWaitTimeout
  split
  · extract_lets +onlyGivenNames -merge x0
    have h1 : Keeps s x0 := by
      unfold x0
      exact Keeps.trans (Keeps.refl _) (State.traceCore_keeps _ _ _ _ _ _ _ _)
    try clear_value x0
    refine ⟨_, rfl, ?_⟩
    exact Keeps.trans h1 (State.coreFault_keeps _ _ _ _)
  · refine ⟨_, rfl, ?_⟩
    exact (Keeps.refl _)

theorem execDeferredPause_keeps : ∀ p0 s, Good s (@execDeferredPause p0 s) := by
  intro p0 s
  unfold execDeferredPause
  refine Good.ite ?_ ?_
  · split
    · extract_lets +onlyGivenNames -merge x0
      have h1 : Keeps s x0 := by
        unfold x0
        exact Keeps.trans (Keeps.refl _) (State.takePause_keeps _ _ _ _)
      try clear_value x0
      refine ⟨_, rfl, ?_⟩
      exact Keeps.trans h1 (State.setPart_keeps _ _ _)
    · refine ⟨_, rfl, ?_⟩
      exact (Keeps.refl _)
  · refine ⟨_, rfl, ?_⟩
    exact (Keeps.refl _)

theorem execRefreshStarved_keeps : ∀ p0 s, Good s (@execRefreshStarved p0 s) := by
  intro p0 s
  unfold execRefreshStarved
  extract_lets +onlyGivenNames -merge x0
  try clear_value x0
  refine Good.ite ?_ ?_
  · refine ⟨_, rfl, ?_⟩
    refine Keeps.trans ?_ (State.endCycle_keeps _ _)
    refine Keeps.trans ?_ (State.blendStep_keeps _ _)
    exact Keeps.trans (Keeps.refl _) (State.coreFault_keeps _ _ _ _)
  · refine ⟨_, rfl, ?_⟩
    exact (Keeps.refl _)

theorem execThrottlePause_keeps : ∀ p0 s, Good s (@execThrottlePause p0 s) := by
  intro p0 s
  unfold execThrottlePause
  extract_lets +onlyGivenNames -merge x0
  try clear_value x0
  refine Good.ite ?_ ?_
  · extract_lets +onlyGivenNames -merge x1
    have h2 : Keeps s x1 := by
      unfold x1
      exact Keeps.trans (Keeps.refl _) (State.takePause_keeps _ _ _ _)
    try clear_value x1
    refine ⟨_, rfl, ?_⟩
    exact Keeps.trans h2 (State.setPart_keeps _ _ _)
  · refine ⟨_, rfl, ?_⟩
    exact (Keeps.refl _)

theorem execBaseRefreshWindow_keeps : ∀ p0 s, Good s (@execBaseRefreshWindow p0 s) := by
  intro p0 s
  unfold execBaseRefreshWindow
  extract_lets +onlyGivenNames -merge x0
  try clear_value x0
  extract_lets +onlyGivenNames -merge x1
  try clear_value x1
  refine Good.ite ?_ ?_
  · extract_lets +onlyGivenNames -merge x2
    try clear_value x2
    refine ⟨_, rfl, ?_⟩
    exact Keeps.trans (Keeps.refl _) (State.setPart_keeps _ _ _)
  · refine ⟨_, rfl, ?_⟩
    exact (Keeps.refl _)

theorem execPoisonFaultDeadline_keeps : ∀ p0 s, Good s (@execPoisonFaultDeadline p0 s) := by
  intro p0 s
  unfold execPoisonFaultDeadline
  extract_lets +onlyGivenNames -merge x0
  try clear_value x0
  split
  · refine Good.ite ?_ ?_
    · refine ⟨_, rfl, ?_⟩
      exact Keeps.trans (Keeps.refl _) (State.enterFaulted_keeps _ _ _ _ _)
    · refine ⟨_, rfl, ?_⟩
      exact (Keeps.refl _)
  · refine ⟨_, rfl, ?_⟩
    exact (Keeps.refl _)

theorem State.stopAt_keeps : ∀ s p1 p2, Keeps s (@State.stopAt s p1 p2) := by
  intro s p1 p2
  unfold State.stopAt
  refine Keeps.trans ?_ (State.move_keeps _ _ _)
  · exact Keeps.trans (Keeps.refl _) (State.setPart_keeps _ _ _)

theorem State.stepMark_keeps : ∀ s p1 p2, Keeps s (@State.stepMark s p1 p2) := by
  intro s p1 p2
  unfold State.stepMark
  extract_lets +onlyGivenNames -merge x0
  try clear_value x0
  extract_lets +onlyGivenNames -merge x1
  try clear_value x1
  extract_lets +onlyGivenNames -merge x2
  have h3 : Keeps s x2 := by
    unfold x2
    exact Keeps.trans (Keeps.refl _) (State.setPart_keeps _ _ _)
  try clear_value x2
  refine Keeps.ite ?_ ?_
  · exact h3
  · extract_lets +onlyGivenNames -merge x4
    try clear_value x4
    extract_lets +onlyGivenNames -merge x5
    try clear_value x5
    split
    · refine Keeps.ite ?_ ?_
      · refine Keeps.ite ?_ ?_
        · refine Keeps.trans ?_ (State.stopAt_keeps _ _ _)
          · exact Keeps.trans h3 (State.setPart_keeps _ _ _)
        · refine Keeps.ite ?_ ?_
          · refine Keeps.trans ?_ (State.stopAt_keeps _ _ _)
            · exact Keeps.trans h3 (State.setPart_keeps _ _ _)
          · refine Keeps.ite ?_ ?_
            · refine Keeps.trans ?_ (State.stopAt_keeps _ _ _)
              · exact Keeps.trans h3 (State.setPart_keeps _ _ _)
            · refine Keeps.ite ?_ ?_
              · exact Keeps.trans h3 (State.stopAt_keeps _ _ _)
              · exact h3
      · refine Keeps.ite ?_ ?_
        · exact Keeps.trans h3 (State.stopAt_keeps _ _ _)
        · exact h3
    · refine Keeps.ite ?_ ?_
      · exact Keeps.trans h3 (State.stopAt_keeps _ _ _)
      · exact h3

end Sys2Proof.Machine
end

