-- ==== Sys2Proof/Laws/Hbm.lean ====
section
/-! SUPPORT. What the operations of Machine/Hbm.lean keep: the queue of waiting commands and the canonical form of the state
(Keeps); and that its commands answer a next state (Good). -/

namespace Sys2Proof.Machine

theorem State.countUnit_keeps : ∀ s p1 p2, Keeps s (@State.countUnit s p1 p2) := by
  intro s p1 p2
  unfold State.countUnit
  refine Keeps.ite ?_ ?_
  · exact (Keeps.refl _)
  · extract_lets +onlyGivenNames -merge x0
    try clear_value x0
    refine Keeps.ite ?_ ?_
    · exact Keeps.trans (Keeps.refl _) (State.countField_keeps _ _ _ _ _)
    · refine Keeps.ite ?_ ?_
      · exact Keeps.trans (Keeps.refl _) (State.countField_keeps _ _ _ _ _)
      · refine Keeps.ite ?_ ?_
        · exact Keeps.trans (Keeps.refl _) (State.countField_keeps _ _ _ _ _)
        · exact (Keeps.refl _)

theorem State.countHbm_keeps : ∀ s p1 p2 p3, Keeps s (@State.countHbm s p1 p2 p3) := by
  intro s p1 p2 p3
  unfold State.countHbm
  refine Keeps.ite ?_ ?_
  · extract_lets +onlyGivenNames -merge x0
    try clear_value x0
    exact Keeps.trans (Keeps.refl _) (State.tally_keeps _ _ _ _ _)
  · exact (Keeps.refl _)

theorem State.devRead_keeps : ∀ s p1 p2, Keeps s (@State.devRead s p1 p2).2.2 := by
  intro s p1 p2
  unfold State.devRead
  extract_lets +onlyGivenNames -merge x0
  try clear_value x0
  extract_lets +onlyGivenNames -merge x1
  try clear_value x1
  extract_lets +onlyGivenNames -merge x2
  try clear_value x2
  extract_lets +onlyGivenNames -merge x3
  have h4 : Keeps s x3 := by
    unfold x3
    try beta_reduce
    refine Keeps.trans ?_ (State.countHbm_keeps _ _ _ _)
    refine Keeps.foldl ?_ ?_
    · exact (Keeps.refl _)
    · intro a5 b6 ht7
      try beta_reduce
      exact Keeps.trans ht7 (State.countUnit_keeps _ _ _)
  try clear_value x3
  exact h4

theorem Mem.mergeUnit_wf {m : Mem} (u size a : Nat) (bs : Bytes) (p : Bool) (h : m.wf = true) :
    (m.mergeUnit u size a bs p).wf = true := by
  unfold Mem.mergeUnit
  split
  · exact Mem.writeUnit_wf _ _ _ h
  · exact Mem.writeUnit_wf _ _ _ h

theorem State.plainWrite_keeps : ∀ s p1 p2 p3, Keeps s (@State.plainWrite s p1 p2 p3) := by
  intro s p1 p2 p3
  exact Keeps.withMem (State.countHbm_keeps _ _ _ _) (Mem.foldl_wf (fun _ _ h => Mem.mergeUnit_wf _ _ _ _ _ h))

theorem Mem.poisonGranule_wf {m : Mem} (a : Nat) (h : m.wf = true) : (m.poisonGranule a).wf = true :=
  Mem.foldl_wf (fun _ _ h => Mem.writeUnit_wf _ _ _ h) h

theorem State.cryptCheck_keeps : ∀ s p1, Keeps s (@State.cryptCheck s p1) := by
  intro s p1
  unfold State.cryptCheck
  extract_lets +onlyGivenNames -merge x0
  have h0 : Keeps s x0.2 := State.takeUpset_keeps _ _
  clear_value x0
  refine Keeps.ite (Keeps.refl _) ?_
  split
  · exact Keeps.withMem h0 (fun h => Mem.poisonGranule_wf _ h)
  · exact Keeps.refl _

theorem State.devWrite_keeps : ∀ s p1 p2 p3, Keeps s (@State.devWrite s p1 p2 p3) := by
  intro s p1 p2 p3
  unfold State.devWrite
  extract_lets +onlyGivenNames -merge x0
  have h1 : Keeps s x0 := by
    unfold x0
    try beta_reduce
    exact Keeps.trans (Keeps.refl _) (State.plainWrite_keeps _ _ _ _)
  try clear_value x0
  refine Keeps.ite ?_ ?_
  · exact h1
  · exact Keeps.trans h1 (State.cryptCheck_keeps _ _)

theorem State.rewriteUnit_keeps : ∀ s p1 p2, Keeps s (@State.rewriteUnit s p1 p2) := by
  intro s p1 p2
  unfold State.rewriteUnit
  refine Keeps.trans ?_ (State.cryptCheck_keeps _ _)
  refine Keeps.trans (Keeps.refl _) (Keeps.mk rfl ?_ ?_ ?_ ?_) <;> intro hh <;>
    (first | exact hh | exact Mem.writeUnit_wf _ _ _ hh | exact Mem.zero_wf _ _ hh | exact regsForm_filter _ hh
           | exact SMap.wf_clear _ _ hh | exact SMap.wf_set _ _ hh | exact regsForm_set _ _ hh | exact Mem.empty_wf | rfl
           | exact SMap.wf_clear _ _ (SMap.wf_clear _ _ hh) | exact regsForm_clear _ _ (regsForm_clear _ _ hh))

theorem State.countCc_keeps : ∀ s p1 p2 p3 p4, Keeps s (@State.countCc s p1 p2 p3 p4) := by
  intro s p1 p2 p3 p4
  unfold State.countCc
  extract_lets +onlyGivenNames -merge x0
  try clear_value x0
  extract_lets +onlyGivenNames -merge x1
  have h2 : Keeps s x1 := by
    unfold x1
    exact Keeps.trans (Keeps.refl _) (State.tally_keeps _ _ _ _ _)
  try clear_value x1
  split
  · exact Keeps.trans h2 (State.tally_keeps _ _ _ _ _)
  · exact h2

theorem State.dropLine_keeps : ∀ s p1, Keeps s (@State.dropLine s p1) := by
  intro s p1
  unfold State.dropLine
  refine Keeps.trans (Keeps.refl _) (Keeps.mk rfl ?_ ?_ ?_ ?_) <;> intro hh <;>
    (first | exact hh | exact Mem.writeUnit_wf _ _ _ hh | exact Mem.zero_wf _ _ hh | exact regsForm_filter _ hh
           | exact SMap.wf_clear _ _ hh | exact SMap.wf_set _ _ hh | exact regsForm_set _ _ hh | exact Mem.empty_wf | rfl
           | exact SMap.wf_clear _ _ (SMap.wf_clear _ _ hh) | exact regsForm_clear _ _ (regsForm_clear _ _ hh))

theorem State.invalidate_keeps : ∀ s p1 p2, Keeps s (@State.invalidate s p1 p2) := by
  intro s p1 p2
  unfold State.invalidate
  extract_lets +onlyGivenNames -merge x0
  try clear_value x0
  extract_lets +onlyGivenNames -merge x1
  try clear_value x1
  refine Keeps.trans (Keeps.refl _) (Keeps.mk rfl ?_ ?_ ?_ ?_) <;> intro hh <;>
    (first | exact hh | exact Mem.writeUnit_wf _ _ _ hh | exact Mem.zero_wf _ _ hh | exact regsForm_filter _ hh
           | exact SMap.wf_clear _ _ hh | exact SMap.wf_set _ _ hh | exact regsForm_set _ _ hh | exact Mem.empty_wf | rfl
           | exact SMap.wf_clear _ _ (SMap.wf_clear _ _ hh) | exact regsForm_clear _ _ (regsForm_clear _ _ hh))

theorem State.fillLine_keeps : ∀ s p1, Keeps s (@State.fillLine s p1).1 := by
  intro s p1
  refine Keeps.withCache (Keeps.trans (State.devRead_keeps _ _ _) (State.devRead_keeps _ _ _)) (fun h => ?_)
  exact Mem.foldl_wf (fun _ _ h => Mem.writeUnit_wf _ _ _ h) (Mem.foldl_wf (fun _ _ h => Mem.writeUnit_wf _ _ _ h) h)

theorem State.makeRoom_keeps : ∀ s p1, Keeps s (@State.makeRoom s p1) := by
  intro s p1
  unfold State.makeRoom
  extract_lets +onlyGivenNames -merge x0
  try clear_value x0
  refine Keeps.ite ?_ ?_
  · exact (Keeps.refl _)
  · refine Keeps.trans ?_ (State.dropLine_keeps _ _)
    exact Keeps.trans (Keeps.refl _) ⟨rfl, id, id, id, id⟩

theorem Mem.fixWords_wf {m : Mem} (ws : List Nat) (h : m.wf = true) : (m.fixWords ws).wf = true := by
  unfold Mem.fixWords
  refine Mem.foldl_wf (fun m w hm => ?_) h
  extract_lets +onlyGivenNames -merge x0
  clear_value x0
  split
  · exact Mem.writeUnit_wf _ _ _ hm
  · exact hm

theorem State.needLine_keeps : ∀ s p1, Keeps s (@State.needLine s p1).1 := by
  intro s p1
  unfold State.needLine
  extract_lets +onlyGivenNames -merge x0
  clear_value x0
  refine Keeps.iteP (fun (r : State × List Nat) => r.1) ?_ ?_
  · refine Keeps.iteP (fun (r : State × List Nat) => r.1) (Keeps.refl _) ?_
    exact ((State.dropLine_keeps _ _).trans (State.makeRoom_keeps _ _)).trans (State.fillLine_keeps _ _)
  · have hm : s.cache.mem.wf = true → (s.cache.mem.fixWords (lineWords p1)).wf = true := Mem.fixWords_wf _
    generalize s.cache.mem.fixWords (lineWords p1) = m at hm ⊢
    exact Keeps.fst (Keeps.withCache (Keeps.refl s) hm)

theorem State.ccLoad_keeps : ∀ s p1 p2 p3, Keeps s (@State.ccLoad s p1 p2 p3).2.2 := by
  intro s p1 p2 p3
  unfold State.ccLoad
  extract_lets +onlyGivenNames -merge x0
  have h0 : Keeps s x0 := State.countCc_keeps _ _ _ _ _
  clear_value x0
  refine Keeps.iteP (fun (r : Bytes × Nat × State) => r.2.2) ?_ ?_
  · exact Keeps.withMem (Keeps.trans h0 (State.devRead_keeps _ _ _)) (fun h => Mem.fixWords_wf _ h)
  · refine Keeps.foldlP (fun (r : Bytes × Nat × State) => r.2.2) h0 ?_
    intro acc l ha
    exact Keeps.trans ha (State.needLine_keeps _ _)

theorem State.ccRead_keeps : ∀ s p1 p2 p3, Keeps s (@State.ccRead s p1 p2 p3).2.2 := by
  intro s p1 p2 p3
  exact (State.ccLoad_keeps _ _ _ _).trans (State.parity_keeps _ _)

theorem State.ccStore_keeps : ∀ s p1 p2 p3 p4, Keeps s (@State.ccStore s p1 p2 p3 p4) := by
  intro s p1 p2 p3 p4
  unfold State.ccStore
  extract_lets +onlyGivenNames -merge x0
  have h0 : Keeps s x0 := State.countCc_keeps _ _ _ _ _
  clear_value x0
  refine Keeps.ite h0 ?_
  extract_lets +onlyGivenNames -merge x1
  have h1 : Keeps s x1 := h0.trans (State.devWrite_keeps _ _ _ _)
  clear_value x1
  refine Keeps.ite h1 ?_
  refine Keeps.withCache h1 (fun h => ?_)
  refine Mem.foldl_wf (fun m w hm => ?_) h
  show (if _ then _ else _ : Mem).wf = true
  split
  · exact Mem.mergeUnit_wf _ _ _ _ _ hm
  · exact hm

theorem State.ccWrite_keeps : ∀ s p1 p2 p3 p4, Keeps s (@State.ccWrite s p1 p2 p3 p4) := by
  intro s p1 p2 p3 p4
  unfold State.ccWrite
  extract_lets +onlyGivenNames -merge x0 x1 x2
  refine Keeps.ite (State.ccStore_keeps _ _ _ _ _) ?_
  have h2 : Keeps s x2 := (State.parity_keeps _ _).trans (State.ccStore_keeps _ _ _ _ _)
  exact Keeps.ite h2 (h2.trans (State.ccStore_keeps _ _ _ _ _))

theorem State.showRefresh_keeps : ∀ s p1, Keeps s (@State.showRefresh s p1) := by
  intro s p1
  unfold State.showRefresh
  refine Keeps.trans ?_ (State.setField_keeps _ _ _ _ _)
  · exact Keeps.trans (Keeps.refl _) (State.setField_keeps _ _ _ _ _)

theorem execActWindowEnd_keeps : ∀ p0 p1 s, Good s (@execActWindowEnd p0 p1 s) := by
  intro p0 p1 s
  unfold execActWindowEnd
  extract_lets +onlyGivenNames -merge x0
  try clear_value x0
  extract_lets +onlyGivenNames -merge x1
  have h2 : Keeps s x1 := by
    unfold x1
    refine Keeps.ite ?_ ?_
    · refine Keeps.trans ?_ (State.setField_keeps _ _ _ _ _)
      · exact Keeps.trans (Keeps.refl _) (State.setChan_keeps _ _ _)
    · refine Keeps.ite ?_ ?_
      · refine Keeps.ite ?_ ?_
        · refine Keeps.trans ?_ (State.setField_keeps _ _ _ _ _)
          · exact Keeps.trans (Keeps.refl _) (State.setChan_keeps _ _ _)
        · exact Keeps.trans (Keeps.refl _) (State.setChan_keeps _ _ _)
      · exact Keeps.trans (Keeps.refl _) (State.setChan_keeps _ _ _)
  try clear_value x1
  refine ⟨_, rfl, ?_⟩
  exact Keeps.trans h2 (State.showRefresh_keeps _ _)

theorem State.passGranule_keeps : ∀ s p1, Keeps s (@State.passGranule s p1) := by
  intro s p1
  unfold State.passGranule
  split
  · refine Keeps.ite ?_ ?_
    · exact (Keeps.refl _)
    · split
      · exact Keeps.trans (Keeps.refl _) (State.setChan_keeps _ _ _)
      · extract_lets +onlyGivenNames -merge x0
        try clear_value x0
        extract_lets +onlyGivenNames -merge x1
        have h2 : Keeps s x1.2.2 := by
          unfold x1
          exact Keeps.trans (Keeps.refl _) (State.devRead_keeps _ _ _)
        try clear_value x1
        extract_lets +onlyGivenNames -merge x3
        try clear_value x3
        extract_lets +onlyGivenNames -merge x4
        try clear_value x4
        extract_lets +onlyGivenNames -merge x5
        try clear_value x5
        extract_lets +onlyGivenNames -merge x6
        have h7 : Keeps s x6 := by
          unfold x6
          exact h2
        try clear_value x6
        extract_lets +onlyGivenNames -merge x8
        try clear_value x8
        exact Keeps.trans h7 (State.setChan_keeps _ _ _)
  · exact (Keeps.refl _)

theorem execHbmGrant_keeps : ∀ p0 p1 s, Good s (@execHbmGrant p0 p1 s) := by
  intro p0 p1 s
  unfold execHbmGrant
  extract_lets +onlyGivenNames -merge x0
  try clear_value x0
  extract_lets +onlyGivenNames -merge x1
  try clear_value x1
  extract_lets +onlyGivenNames -merge x2
  try clear_value x2
  extract_lets +onlyGivenNames -merge x3
  try clear_value x3
  extract_lets +onlyGivenNames -merge x4
  have h5 : Keeps s x4 := by
    unfold x4
    exact Keeps.trans (Keeps.refl _) (State.setChan_keeps _ _ _)
  try clear_value x4
  split
  · refine ⟨_, rfl, ?_⟩
    exact Keeps.trans h5 (State.tally_keeps _ _ _ _ _)
  · refine ⟨_, rfl, ?_⟩
    exact Keeps.trans h5 (State.passGranule_keeps _ _)

theorem State.zeroCore_keeps : ∀ s p1, Keeps s (@State.zeroCore s p1) := by
  intro s p1
  unfold State.zeroCore
  refine Keeps.trans (Keeps.refl _) (Keeps.mk rfl ?_ ?_ ?_ ?_) <;> intro hh <;>
    (first | exact hh | exact Mem.writeUnit_wf _ _ _ hh | exact Mem.zero_wf _ _ hh | exact regsForm_filter _ hh
           | exact SMap.wf_clear _ _ hh | exact SMap.wf_set _ _ hh | exact regsForm_set _ _ hh | exact Mem.empty_wf | rfl
           | exact SMap.wf_clear _ _ (SMap.wf_clear _ _ hh) | exact regsForm_clear _ _ (regsForm_clear _ _ hh))

theorem State.zeroSlice_keeps : ∀ s p1, Keeps s (@State.zeroSlice s p1) := by
  intro s p1
  unfold State.zeroSlice
  refine Keeps.trans (Keeps.refl _) (Keeps.mk rfl ?_ ?_ ?_ ?_) <;> intro hh <;>
    (first | exact hh | exact Mem.writeUnit_wf _ _ _ hh | exact Mem.zero_wf _ _ hh | exact regsForm_filter _ hh
           | exact SMap.wf_clear _ _ hh | exact SMap.wf_set _ _ hh | exact regsForm_set _ _ hh | exact Mem.empty_wf | rfl
           | exact SMap.wf_clear _ _ (SMap.wf_clear _ _ hh) | exact regsForm_clear _ _ (regsForm_clear _ _ hh))

theorem State.clearCoreUnits_keeps : ∀ s p1, Keeps s (@State.clearCoreUnits s p1) := by
  intro s p1
  unfold State.clearCoreUnits
  refine Keeps.trans (Keeps.refl _) (Keeps.mk rfl ?_ ?_ ?_ ?_) <;> intro hh <;>
    (first | exact hh | exact Mem.writeUnit_wf _ _ _ hh | exact Mem.zero_wf _ _ hh | exact regsForm_filter _ hh
           | exact SMap.wf_clear _ _ hh | exact SMap.wf_set _ _ hh | exact regsForm_set _ _ hh | exact Mem.empty_wf | rfl
           | exact SMap.wf_clear _ _ (SMap.wf_clear _ _ hh) | exact regsForm_clear _ _ (regsForm_clear _ _ hh))

theorem execZeroFillDone_keeps : ∀ p0 p1 s, Good s (@execZeroFillDone p0 p1 s) := by
  intro p0 p1 s
  unfold execZeroFillDone
  extract_lets +onlyGivenNames -merge x0
  try clear_value x0
  refine Good.ite ?_ ?_
  · refine Good.ite ?_ ?_
    · refine ⟨_, rfl, ?_⟩
      exact (Keeps.refl _)
    · extract_lets +onlyGivenNames -merge x1
      have h2 : Keeps s x1 := by
        unfold x1
        refine Keeps.foldl ?_ ?_
        · exact (Keeps.refl _)
        · intro a4 b5 ht3
          try beta_reduce
          exact Keeps.trans ht3 (State.zeroSlice_keeps _ _)
      try clear_value x1
      refine ⟨_, rfl, ?_⟩
      exact Keeps.trans h2 (State.setBlock_keeps _ _ _)
  · refine Good.ite ?_ ?_
    · refine ⟨_, rfl, ?_⟩
      exact (Keeps.refl _)
    · extract_lets +onlyGivenNames -merge x6
      have h7 : Keeps s x6 := by
        unfold x6
        refine Keeps.foldl ?_ ?_
        · exact (Keeps.refl _)
        · intro a9 b10 ht8
          try beta_reduce
          refine Keeps.trans ?_ (State.clearCoreUnits_keeps _ _)
          · exact Keeps.trans ht8 (State.zeroCore_keeps _ _)
      try clear_value x6
      refine ⟨_, rfl, ?_⟩
      exact Keeps.trans h7 (State.setBlock_keeps _ _ _)

end Sys2Proof.Machine
end

