-- ==== Sys2Proof/Laws/Atomic.lean ====
section
/-! SUPPORT. What the operations of Machine/Atomic.lean keep: the queue of waiting commands and the canonical form of the state
(Keeps); and that its commands answer a next state (Good). -/

namespace Sys2Proof.Machine

theorem Keeps.ares {s t : State} {a b : Nat} (h : Keeps s t) : Keeps s (ARes.mk a b t).st := h

theorem State.atomicLine_keeps : ∀ s p1, Keeps s (@State.atomicLine s p1).2 := by
  intro s p1
  unfold State.atomicLine
  extract_lets +onlyGivenNames -merge x0
  clear_value x0
  refine Keeps.iteP (fun (r : Nat × Sys2Proof.Machine.State) => r.2) ?_ ?_
  · extract_lets +onlyGivenNames -merge x1
    have h2 : Keeps s x1.1 := State.needLine_keeps _ _
    clear_value x1
    exact Keeps.snd h2
  · have hm : s.mem.wf = true → (s.mem.fixWords (lineWords x0)).wf = true := Mem.fixWords_wf _
    generalize s.mem.fixWords (lineWords x0) = m at hm ⊢
    exact Keeps.snd (Keeps.withMem (Keeps.refl s) hm)

theorem State.atomicPut_keeps : ∀ s p1 p2 p3 p4, Keeps s (@State.atomicPut s p1 p2 p3 p4) := by
  intro s p1 p2 p3 p4
  unfold State.atomicPut
  extract_lets +onlyGivenNames -merge x0 x1
  have h1 : Keeps s x1 := State.devWrite_keeps _ _ _ _
  clear_value x1
  refine Keeps.ite h1 ?_
  exact Keeps.withCache h1 (Mem.foldl_wf (fun _ _ hm => Mem.mergeUnit_wf _ _ _ _ _ hm))

theorem State.poisonLine_keeps : ∀ s p1, Keeps s (@State.poisonLine s p1) := by
  intro s p1
  unfold State.poisonLine
  exact Keeps.trans (Keeps.refl _) (State.atomicPut_keeps _ _ _ _ _)

theorem State.inAlus_keeps {q s : State} {a : Nat} {f : State → ARes} (h : Keeps q s) (hf : ∀ t, Keeps q t → Keeps q (f t).st) :
    Keeps q (s.inAlus a f).st := by
  unfold State.inAlus
  extract_lets +onlyGivenNames -merge r
  have hr : Keeps q r.2 := Keeps.trans h (State.takeUpset_keeps _ _)
  clear_value r
  refine Keeps.iteP (fun (r : ARes) => r.st) (Keeps.ares ?_) (hf _ h)
  exact Keeps.trans hr (State.poisonLine_keeps _ _)

theorem State.rmw_keeps : ∀ s p1 p2 p3 p4, Keeps s (@State.rmw s p1 p2 p3 p4).st := by
  intro s p1 p2 p3 p4
  unfold State.rmw
  extract_lets +onlyGivenNames -merge x0
  have h1 : Keeps s x0 := by
    unfold x0
    exact Keeps.trans (Keeps.refl _) (State.countCc_keeps _ _ _ _ _)
  clear_value x0
  refine Keeps.iteP (fun (r : ARes) => r.st) (Keeps.ares h1) ?_
  extract_lets +onlyGivenNames -merge x2
  have h3 : Keeps s x2.2 := Keeps.trans h1 (State.atomicLine_keeps _ _)
  clear_value x2
  refine Keeps.iteP (fun (r : ARes) => r.st) (Keeps.ares h3) ?_
  refine State.inAlus_keeps h3 (fun t ht => ?_)
  beta_reduce
  extract_lets +onlyGivenNames -merge x4
  clear_value x4
  split
  · exact Keeps.ares (Keeps.trans ht (State.atomicPut_keeps _ _ _ _ _))
  · exact Keeps.ares ht

theorem State.refinc_keeps : ∀ s p1 p2, Keeps s (@State.refinc s p1 p2).st := by
  intro s p1 p2
  unfold State.refinc
  exact Keeps.trans (Keeps.refl _) (State.rmw_keeps _ _ _ _ _)

theorem State.refdec_keeps : ∀ s p1 p2, Keeps s (@State.refdec s p1 p2).st := by
  intro s p1 p2
  unfold State.refdec
  exact Keeps.trans (Keeps.refl _) (State.rmw_keeps _ _ _ _ _)

theorem State.cas64_keeps : ∀ s p1 p2 p3 p4, Keeps s (@State.cas64 s p1 p2 p3 p4).st := by
  intro s p1 p2 p3 p4
  unfold State.cas64
  exact Keeps.trans (Keeps.refl _) (State.rmw_keeps _ _ _ _ _)

theorem State.pop_keeps : ∀ s p1 p2 p3 p4, Keeps s (@State.pop s p1 p2 p3 p4).st := by
  intro s p1 p2 p3 p4
  unfold State.pop
  extract_lets +onlyGivenNames -merge x0
  have h1 : Keeps s x0 := by
    unfold x0
    exact Keeps.trans (Keeps.refl _) (State.countCc_keeps _ _ _ _ _)
  clear_value x0
  refine Keeps.iteP (fun (r : ARes) => r.st) (Keeps.ares h1) ?_
  extract_lets +onlyGivenNames -merge x2
  have h3 : Keeps s x2.2 := Keeps.trans h1 (State.atomicLine_keeps _ _)
  clear_value x2
  refine Keeps.iteP (fun (r : ARes) => r.st) (Keeps.ares h3) ?_
  extract_lets +onlyGivenNames -merge x4
  clear_value x4
  refine Keeps.iteP (fun (r : ARes) => r.st) (Keeps.ares h3) ?_
  split
  · exact Keeps.ares h3
  · extract_lets +onlyGivenNames -merge x5
    have h6 : Keeps s x5.2 := Keeps.trans h3 (State.atomicLine_keeps _ _)
    clear_value x5
    refine Keeps.iteP (fun (r : ARes) => r.st) (Keeps.ares h6) (State.inAlus_keeps h6 (fun t ht => ?_))
    exact Keeps.ares (Keeps.trans ht (State.atomicPut_keeps _ _ _ _ _))

theorem State.push_keeps : ∀ s p1 p2 p3 p4 p5, Keeps s (@State.push s p1 p2 p3 p4 p5).st := by
  intro s p1 p2 p3 p4 p5
  unfold State.push
  extract_lets +onlyGivenNames -merge x0
  have h1 : Keeps s x0 := by
    unfold x0
    exact Keeps.trans (Keeps.refl _) (State.countCc_keeps _ _ _ _ _)
  clear_value x0
  refine Keeps.iteP (fun (r : ARes) => r.st) (Keeps.ares h1) ?_
  extract_lets +onlyGivenNames -merge x2
  have h3 : Keeps s x2.2 := Keeps.trans h1 (State.atomicLine_keeps _ _)
  clear_value x2
  refine Keeps.iteP (fun (r : ARes) => r.st) (Keeps.ares h3) ?_
  extract_lets +onlyGivenNames -merge x4
  clear_value x4
  refine Keeps.iteP (fun (r : ARes) => r.st) (Keeps.ares h3) ?_
  split
  · exact Keeps.ares h3
  · extract_lets +onlyGivenNames -merge x5
    have h6 : Keeps s x5.2 := Keeps.trans h3 (State.atomicLine_keeps _ _)
    clear_value x5
    refine Keeps.iteP (fun (r : ARes) => r.st) (Keeps.ares h6) (State.inAlus_keeps h6 (fun t ht => ?_))
    exact Keeps.ares (Keeps.trans (Keeps.trans ht (State.atomicPut_keeps _ _ _ _ _)) (State.atomicPut_keeps _ _ _ _ _))

theorem State.red_keeps : ∀ s p1 p2 p3 p4 p5 p6, Keeps s (@State.red s p1 p2 p3 p4 p5 p6).st := by
  intro s p1 p2 p3 p4 p5 p6
  unfold State.red
  extract_lets +onlyGivenNames -merge x0
  have h1 : Keeps s x0 := by
    unfold x0
    exact Keeps.trans (Keeps.refl _) (State.countCc_keeps _ _ _ _ _)
  clear_value x0
  refine Keeps.iteP (fun (r : ARes) => r.st) (Keeps.ares h1) ?_
  extract_lets +onlyGivenNames -merge x2
  have h3 : Keeps s x2.2 := Keeps.trans h1 (State.atomicLine_keeps _ _)
  clear_value x2
  refine Keeps.iteP (fun (r : ARes) => r.st) (Keeps.ares h3) ?_
  refine State.inAlus_keeps h3 (fun t ht => ?_)
  beta_reduce
  extract_lets +onlyGivenNames -merge x4 x5
  clear_value x4 x5
  exact Keeps.ares (Keeps.trans ht (State.atomicPut_keeps _ _ _ _ _))

theorem State.request_keeps : ∀ s p1 p2 p3 p4 p5 p6, (∀ y0 y1, Keeps s (p5 y0 y1).st) →
    Keeps s (@State.request s p1 p2 p3 p4 p5 p6) := by
  intro s p1 p2 p3 p4 p5 p6 hf
  unfold State.request
  extract_lets +onlyGivenNames -merge ans
  have ha : ∀ y0 y1, Keeps s (ans (p5 y0 y1)) := by
    intro y0 y1
    unfold ans
    exact Keeps.trans (hf _ _) (State.send_keeps _ _)
  clear_value ans
  split
  · exact Keeps.ite (State.send_keeps _ _) (ha _ _)
  · exact State.send_keeps _ _

theorem execCacheRead_keeps : ∀ p0 p1 p2 s, Good s (@execCacheRead p0 p1 p2 s) := by
  intro p0 p1 p2 s
  unfold execCacheRead
  refine Good.ite ?_ ?_
  · refine ⟨_, rfl, ?_⟩
    exact (Keeps.refl _)
  · refine ⟨_, rfl, ?_⟩
    refine Keeps.trans ?_ (State.request_keeps _ _ _ _ _ _ _ ?_)
    · exact (Keeps.refl _)
    · intro y0 y1
      try beta_reduce
      extract_lets +onlyGivenNames -merge x2
      have h3 : Keeps s x2.2.2 := by
        unfold x2
        exact Keeps.trans (Keeps.refl _) (State.ccRead_keeps _ _ _ _)
      try clear_value x2
      refine Keeps.ares ?_
      exact h3

theorem execCacheWrite_keeps : ∀ p0 p1 p2 p3 s, Good s (@execCacheWrite p0 p1 p2 p3 s) := by
  intro p0 p1 p2 p3 s
  unfold execCacheWrite
  refine Good.ite ?_ ?_
  · refine ⟨_, rfl, ?_⟩
    exact (Keeps.refl _)
  · refine ⟨_, rfl, ?_⟩
    refine Keeps.trans ?_ (State.request_keeps _ _ _ _ _ _ _ ?_)
    · exact (Keeps.refl _)
    · intro y0 y1
      try beta_reduce
      refine Keeps.ares ?_
      exact Keeps.trans (Keeps.refl _) (State.ccWrite_keeps _ _ _ _ _)

theorem State.requesterFence_keeps : ∀ s p1, Keeps s (@State.requesterFence s p1) := by
  intro s p1
  unfold State.requesterFence
  split
  · exact (Keeps.refl _)
  · extract_lets +onlyGivenNames -merge x0
    try clear_value x0
    extract_lets +onlyGivenNames -merge x1
    try clear_value x1
    refine Keeps.foldl ?_ ?_
    · exact (Keeps.refl _)
    · intro a2 b3 ht4
      try beta_reduce
      split
      · exact Keeps.trans ht4 (State.invalidate_keeps _ _ _)
      · exact ht4

theorem execAtomicAdd_keeps : ∀ p0 p1 p2 p3 s, Good s (@execAtomicAdd p0 p1 p2 p3 s) := by
  intro p0 p1 p2 p3 s
  unfold execAtomicAdd
  refine ⟨_, rfl, State.request_keeps _ _ _ _ _ _ _ (fun y0 y1 => ?_)⟩
  beta_reduce
  extract_lets +onlyGivenNames -merge x0
  have h1 : Keeps s x0 := Keeps.ite (State.requesterFence_keeps _ _) (Keeps.refl _)
  exact Keeps.trans h1 (State.rmw_keeps _ _ _ _ _)

theorem execAtomicMin_keeps : ∀ p0 p1 p2 p3 s, Good s (@execAtomicMin p0 p1 p2 p3 s) := by
  intro p0 p1 p2 p3 s
  unfold execAtomicMin
  refine ⟨_, rfl, ?_⟩
  refine Keeps.trans ?_ (State.request_keeps _ _ _ _ _ _ _ ?_)
  · exact (Keeps.refl _)
  · intro y0 y1
    try beta_reduce
    exact Keeps.trans (Keeps.refl _) (State.rmw_keeps _ _ _ _ _)

theorem execAtomicMax_keeps : ∀ p0 p1 p2 p3 s, Good s (@execAtomicMax p0 p1 p2 p3 s) := by
  intro p0 p1 p2 p3 s
  unfold execAtomicMax
  refine ⟨_, rfl, ?_⟩
  refine Keeps.trans ?_ (State.request_keeps _ _ _ _ _ _ _ ?_)
  · exact (Keeps.refl _)
  · intro y0 y1
    try beta_reduce
    exact Keeps.trans (Keeps.refl _) (State.rmw_keeps _ _ _ _ _)

theorem execAtomicCas_keeps : ∀ p0 p1 p2 p3 p4 s, Good s (@execAtomicCas p0 p1 p2 p3 p4 s) := by
  intro p0 p1 p2 p3 p4 s
  unfold execAtomicCas
  refine ⟨_, rfl, ?_⟩
  refine Keeps.trans ?_ (State.request_keeps _ _ _ _ _ _ _ ?_)
  · exact (Keeps.refl _)
  · intro y0 y1
    try beta_reduce
    exact Keeps.trans (Keeps.refl _) (State.rmw_keeps _ _ _ _ _)

theorem execAtomicSwap_keeps : ∀ p0 p1 p2 p3 s, Good s (@execAtomicSwap p0 p1 p2 p3 s) := by
  intro p0 p1 p2 p3 s
  unfold execAtomicSwap
  refine ⟨_, rfl, ?_⟩
  refine Keeps.trans ?_ (State.request_keeps _ _ _ _ _ _ _ ?_)
  · exact (Keeps.refl _)
  · intro y0 y1
    try beta_reduce
    exact Keeps.trans (Keeps.refl _) (State.rmw_keeps _ _ _ _ _)

theorem execIncw_keeps : ∀ p0 p1 p2 s, Good s (@execIncw p0 p1 p2 s) := by
  intro p0 p1 p2 s
  unfold execIncw
  refine ⟨_, rfl, ?_⟩
  refine Keeps.trans ?_ (State.request_keeps _ _ _ _ _ _ _ ?_)
  · exact (Keeps.refl _)
  · intro y0 y1
    try beta_reduce
    exact Keeps.trans (Keeps.refl _) (State.rmw_keeps _ _ _ _ _)

theorem execRefinc_keeps : ∀ p0 p1 s, Good s (@execRefinc p0 p1 s) := by
  intro p0 p1 s
  unfold execRefinc
  refine ⟨_, rfl, ?_⟩
  refine Keeps.trans ?_ (State.request_keeps _ _ _ _ _ _ _ ?_)
  · exact (Keeps.refl _)
  · intro y0 y1
    try beta_reduce
    exact Keeps.trans (Keeps.refl _) (State.refinc_keeps _ _ _)

theorem execRefdec_keeps : ∀ p0 p1 s, Good s (@execRefdec p0 p1 s) := by
  intro p0 p1 s
  unfold execRefdec
  refine ⟨_, rfl, ?_⟩
  refine Keeps.trans ?_ (State.request_keeps _ _ _ _ _ _ _ ?_)
  · exact (Keeps.refl _)
  · intro y0 y1
    try beta_reduce
    exact Keeps.trans (Keeps.refl _) (State.refdec_keeps _ _ _)

theorem execPop_keeps : ∀ p0 p1 p2 s, Good s (@execPop p0 p1 p2 s) := fun _ _ _ _ =>
  ⟨_, rfl, State.request_keeps _ _ _ _ _ _ _ (fun _ _ => State.pop_keeps _ _ _ _ _)⟩

theorem execPush_keeps : ∀ p0 p1 p2 p3 s, Good s (@execPush p0 p1 p2 p3 s) := fun _ _ _ _ _ =>
  ⟨_, rfl, State.request_keeps _ _ _ _ _ _ _ (fun _ _ => State.push_keeps _ _ _ _ _ _)⟩

theorem execRed32_keeps : ∀ p0 p1 p2 p3 s, Good s (@execRed32 p0 p1 p2 p3 s) := by
  intro p0 p1 p2 p3 s
  unfold execRed32
  refine ⟨_, rfl, ?_⟩
  refine Keeps.trans ?_ (State.request_keeps _ _ _ _ _ _ _ ?_)
  · exact (Keeps.refl _)
  · intro y0 y1
    try beta_reduce
    exact Keeps.trans (Keeps.refl _) (State.red_keeps _ _ _ _ _ _ _)

theorem execRed16_keeps : ∀ p0 p1 p2 p3 s, Good s (@execRed16 p0 p1 p2 p3 s) := by
  intro p0 p1 p2 p3 s
  unfold execRed16
  refine ⟨_, rfl, ?_⟩
  refine Keeps.trans ?_ (State.request_keeps _ _ _ _ _ _ _ ?_)
  · exact (Keeps.refl _)
  · intro y0 y1
    try beta_reduce
    exact Keeps.trans (Keeps.refl _) (State.red_keeps _ _ _ _ _ _ _)

end Sys2Proof.Machine
end

