-- ==== Sys2Proof/Laws/Bundle.lean ====
section
/-! SUPPORT. What the operations of Machine/Bundle.lean keep: the queue of waiting commands and the canonical form of the state
(Keeps); and that its commands answer a next state (Good). -/

namespace Sys2Proof.Machine

theorem State.slotReads_keeps : ∀ s p1 p2 p3, Keeps s (@State.slotReads s p1 p2 p3) := by
  intro s p1 p2 p3
  unfold State.slotReads
  refine Keeps.ite ?_ ?_
  · exact (Keeps.refl _)
  · split
    · exact Keeps.trans (Keeps.refl _) (State.mmaOf_keeps _ _ _)
    · exact Keeps.trans (Keeps.refl _) (State.runOf_keeps _ _ _)
    · exact Keeps.trans (Keeps.refl _) (State.fetchBlend_keeps _ _ _)
    · exact (Keeps.refl _)

theorem State.bundleReads_keeps : ∀ s p1 p2 p3, Keeps s (@State.bundleReads s p1 p2 p3) := by
  intro s p1 p2 p3
  unfold State.bundleReads
  refine Keeps.foldl ?_ ?_
  · exact (Keeps.refl _)
  · intro a0 b1 ht2
    try beta_reduce
    exact Keeps.trans ht2 (State.slotReads_keeps _ _ _ _)

theorem State.slotPerform_keeps : ∀ s p1 p2 p3, Keeps s (@State.slotPerform s p1 p2 p3) := by
  intro s p1 p2 p3
  unfold State.slotPerform
  refine Keeps.ite ?_ ?_
  · exact (Keeps.refl _)
  · split
    · exact Keeps.trans (Keeps.refl _) (seqPerform_keeps _ _ _)
    · exact Keeps.trans (Keeps.refl _) (State.ldsPerform_keeps _ _ _)
    · exact Keeps.trans (Keeps.refl _) (srmPerform_keeps _ _ _)
    · exact Keeps.trans (Keeps.refl _) (State.opePerform_keeps _ _ _)
    · exact Keeps.trans (Keeps.refl _) (State.mvpPerform_keeps _ _ _)
    · refine Keeps.ite ?_ ?_
      · exact Keeps.trans (Keeps.refl _) (State.vecDo_keeps _ _ _ _)
      · exact Keeps.trans (Keeps.refl _) (State.startBlend_keeps _ _ _)
    · exact Keeps.trans (Keeps.refl _) (netPerform_keeps _ _ _)

theorem issueSlots_keeps : ∀ p0 p1 s, Keeps s (@issueSlots p0 p1 s).1 := by
  intro p0 p1 s
  induction p1 generalizing s with
  | nil => exact Keeps.refl s
  | cons x xs ih =>
    obtain ⟨slot, w⟩ := x
    rw [issueSlots]
    split
    · exact Keeps.refl s
    · exact Keeps.trans (State.slotPerform_keeps _ _ _ _) (ih _)

theorem State.fetchBundle_keeps : ∀ s p1 p2, Keeps s (@State.fetchBundle s p1 p2).2 := by
  intro s p1 p2
  unfold State.fetchBundle
  extract_lets +onlyGivenNames -merge x0
  try clear_value x0
  extract_lets +onlyGivenNames -merge x1
  have h2 : Keeps s x1 := by
    unfold x1
    refine Keeps.foldl ?_ ?_
    · exact (Keeps.refl _)
    · intro a4 b5 ht3
      try beta_reduce
      exact Keeps.trans ht3 (State.countCheck_keeps _ _ _ _)
  try clear_value x1
  refine Keeps.snd ?_
  exact h2

theorem State.stepEnd_keeps : ∀ s p1 p2, Keeps s (@State.stepEnd s p1 p2) := by
  intro s p1 p2
  unfold State.stepEnd
  extract_lets +onlyGivenNames -merge x0
  try clear_value x0
  extract_lets +onlyGivenNames -merge x1
  try clear_value x1
  extract_lets +onlyGivenNames -merge x2
  have h3 : Keeps s x2 := by
    unfold x2
    try beta_reduce
    exact Keeps.trans (Keeps.refl _) (State.setCore_keeps _ _ _)
  try clear_value x2
  split
  · refine Keeps.ite ?_ ?_
    · exact Keeps.trans h3 (State.stepMark_keeps _ _ _)
    · exact h3
  · exact h3

theorem State.permit_keeps : ∀ s p1, Keeps s (@State.permit s p1) := by
  intro s p1
  unfold State.permit
  split
  · exact (Keeps.refl _)
  · extract_lets +onlyGivenNames -merge x0
    try clear_value x0
    split
    · refine Keeps.ite ?_ ?_
      · exact Keeps.trans (Keeps.refl _) (State.setPart_keeps _ _ _)
      · exact (Keeps.refl _)
    · exact (Keeps.refl _)

theorem State.finishCycle_keeps : ∀ s p1 p2, Keeps s (@State.finishCycle s p1 p2) := by
  intro s p1 p2
  unfold State.finishCycle
  refine Keeps.trans ?_ (State.endCycle_keeps _ _)
  · refine Keeps.ite ?_ ?_
    · exact Keeps.trans (Keeps.refl _) (State.blendStep_keeps _ _)
    · exact (Keeps.refl _)

theorem State.testCycle_keeps : ∀ s p1, Keeps s (@State.testCycle s p1) := by
  intro s p1
  unfold State.testCycle
  extract_lets +onlyGivenNames -merge x0
  have h1 : Keeps s x0 := by
    unfold x0
    try beta_reduce
    exact Keeps.trans (Keeps.refl _) (State.endCycle_keeps _ _)
  try clear_value x0
  extract_lets +onlyGivenNames -merge x2
  try clear_value x2
  exact Keeps.trans h1 (State.setCore_keeps _ _ _)

theorem State.testBundle_keeps : ∀ s p1, Keeps s (@State.testBundle s p1) := by
  intro s p1
  unfold State.testBundle
  extract_lets +onlyGivenNames -merge x0
  try clear_value x0
  extract_lets +onlyGivenNames -merge x1
  try clear_value x1
  refine Keeps.ite ?_ ?_
  · refine Keeps.trans ?_ (State.finishCycle_keeps _ _ _)
    exact Keeps.trans (Keeps.refl _) (State.coreFault_keeps _ _ _ _)
  · extract_lets +onlyGivenNames -merge x2
    try clear_value x2
    extract_lets +onlyGivenNames -merge x3
    have h4 : Keeps s x3 := by
      unfold x3
      try beta_reduce
      split
      · refine Keeps.ite ?_ ?_
        · exact Keeps.trans (Keeps.refl _) (State.setPart_keeps _ _ _)
        · exact (Keeps.refl _)
      · exact (Keeps.refl _)
    try clear_value x3
    extract_lets +onlyGivenNames -merge x5
    try clear_value x5
    refine Keeps.trans ?_ (State.testCycle_keeps _ _)
    exact Keeps.trans h4 (State.setCore_keeps _ _ _)

theorem State.issueBundle_keeps : ∀ s p1 p2 p3 p4, Keeps s (@State.issueBundle s p1 p2 p3 p4) := by
  intro s p1 p2 p3 p4
  unfold State.issueBundle
  extract_lets +onlyGivenNames -merge x0
  try clear_value x0
  extract_lets +onlyGivenNames -merge x1
  try clear_value x1
  extract_lets +onlyGivenNames -merge x2
  try clear_value x2
  extract_lets +onlyGivenNames -merge x3
  try clear_value x3
  extract_lets +onlyGivenNames -merge x4
  have h7 : ∀ y5 y6, Keeps y5 (x4 y5 y6) := by
    intro y5 y6
    unfold x4
    try beta_reduce
    extract_lets +onlyGivenNames -merge x8
    try clear_value x8
    exact Keeps.trans (Keeps.refl _) (State.setCore_keeps _ _ _)
  try clear_value x4
  split
  · refine Keeps.trans ?_ (h7 _ _)
    refine Keeps.trans ?_ (State.finishCycle_keeps _ _ _)
    exact Keeps.trans (Keeps.refl _) (State.coreFault_keeps _ _ _ _)
  · refine Keeps.ite ?_ ?_
    · refine Keeps.trans ?_ (State.testBundle_keeps _ _)
      refine Keeps.ite ?_ ?_
      · exact Keeps.trans (Keeps.refl _) (State.permit_keeps _ _)
      · exact (Keeps.refl _)
    · extract_lets +onlyGivenNames -merge x9
      have h10 : Keeps s x9.1 := by
        unfold x9
        try beta_reduce
        exact Keeps.trans (Keeps.refl _) (issueSlots_keeps _ _ _)
      try clear_value x9
      extract_lets +onlyGivenNames -merge x11
      have h12 : Keeps s x11 := by
        unfold x11
        try beta_reduce
        split
        · refine Keeps.trans ?_ (State.coreFault_keeps _ _ _ _)
          exact Keeps.trans (Keeps.refl _) (State.bundleReads_keeps _ _ _ _)
        · exact h10
      try clear_value x11
      extract_lets +onlyGivenNames -merge x13
      try clear_value x13
      extract_lets +onlyGivenNames -merge x14
      have h15 : Keeps s x14 := by
        unfold x14
        try beta_reduce
        refine Keeps.ite ?_ ?_
        · exact Keeps.trans h12 (State.permit_keeps _ _)
        · exact h12
      try clear_value x14
      extract_lets +onlyGivenNames -merge x16
      have h17 : Keeps s x16 := by
        unfold x16
        try beta_reduce
        refine Keeps.ite ?_ ?_
        · exact Keeps.trans h15 (State.blendStep_keeps _ _)
        · exact h15
      try clear_value x16
      extract_lets +onlyGivenNames -merge x18
      try clear_value x18
      extract_lets +onlyGivenNames -merge x19
      have h20 : Keeps s x19 := by
        unfold x19
        try beta_reduce
        refine Keeps.trans ?_ (h7 _ _)
        exact Keeps.trans h17 (State.endCycle_keeps _ _)
      try clear_value x19
      refine Keeps.ite ?_ ?_
      · exact Keeps.trans h20 (State.stepEnd_keeps _ _ _)
      · exact h20

theorem execBundleIssue_keeps : ∀ p0 s, Good s (@execBundleIssue p0 s) := by
  intro p0 s
  unfold execBundleIssue
  split
  · refine ⟨_, rfl, ?_⟩
    exact (Keeps.refl _)
  · extract_lets +onlyGivenNames -merge x0
    try clear_value x0
    refine Good.ite ?_ ?_
    · refine ⟨_, rfl, ?_⟩
      exact (Keeps.refl _)
    · refine Good.ite ?_ ?_
      · refine Good.ite ?_ ?_
        · refine ⟨_, rfl, ?_⟩
          exact (Keeps.refl _)
        · refine ⟨_, rfl, ?_⟩
          exact Keeps.trans (Keeps.refl _) (State.testCycle_keeps _ _)
      · refine Good.ite ?_ ?_
        · refine ⟨_, rfl, ?_⟩
          exact Keeps.trans (Keeps.refl _) (State.finishCycle_keeps _ _ _)
        · refine Good.ite ?_ ?_
          · refine Good.ite ?_ ?_
            · refine ⟨_, rfl, ?_⟩
              exact (Keeps.refl _)
            · refine ⟨_, rfl, ?_⟩
              exact Keeps.trans (Keeps.refl _) (State.issueBundle_keeps _ _ _ _ _)
          · extract_lets +onlyGivenNames -merge x1
            have h2 : Keeps s x1.2 := by
              unfold x1
              try beta_reduce
              exact Keeps.trans (Keeps.refl _) (State.fetchBundle_keeps _ _ _)
            try clear_value x1
            split
            · refine ⟨_, rfl, ?_⟩
              refine Keeps.trans ?_ (State.finishCycle_keeps _ _ _)
              exact Keeps.trans h2 (State.coreFault_keeps _ _ _ _)
            · refine Good.ite ?_ ?_
              · refine ⟨_, rfl, ?_⟩
                exact (Keeps.refl _)
              · refine ⟨_, rfl, ?_⟩
                exact Keeps.trans h2 (State.issueBundle_keeps _ _ _ _ _)

theorem State.freeInts_keeps (s : State) : ∀ k, Keeps s (s.freeInts k).2
  | 0 => Keeps.refl s
  | k + 1 => by
    simp only [State.freeInts]
    exact Keeps.trans (State.freeInts_keeps s k) (State.free_keeps _ _)

theorem State.testValues_keeps : ∀ s p1 p2, Keeps s (@State.testValues s p1 p2) := by
  intro s p1 p2
  unfold State.testValues
  extract_lets +onlyGivenNames -merge x0
  have h1 : Keeps s x0.2 := by
    unfold x0
    try beta_reduce
    exact Keeps.trans (Keeps.refl _) (State.free_keeps _ _)
  try clear_value x0
  extract_lets +onlyGivenNames -merge x2
  have h3 : Keeps s x2.2 := by
    unfold x2
    try beta_reduce
    exact Keeps.trans h1 (State.free_keeps _ _)
  try clear_value x2
  extract_lets +onlyGivenNames -merge x4
  have h5 : Keeps s x4.2 := by
    unfold x4
    try beta_reduce
    exact Keeps.trans h3 (State.freeInts_keeps _ _)
  try clear_value x4
  extract_lets +onlyGivenNames -merge x6
  try clear_value x6
  extract_lets +onlyGivenNames -merge x7
  try clear_value x7
  extract_lets +onlyGivenNames -merge x8
  try clear_value x8
  extract_lets +onlyGivenNames -merge x9
  try clear_value x9
  extract_lets +onlyGivenNames -merge x10
  try clear_value x10
  extract_lets +onlyGivenNames -merge x11
  try clear_value x11
  extract_lets +onlyGivenNames -merge x12
  have h13 : Keeps s x12 := by
    unfold x12
    try beta_reduce
    exact Keeps.trans h5 (State.setCore_keeps _ _ _)
  try clear_value x12
  exact Keeps.trans h13 (State.writeCore_keeps _ _ _ _ _)

theorem execKnownAnswerTestEnd_keeps : ∀ p0 p1 s, Good s (@execKnownAnswerTestEnd p0 p1 s) := by
  intro p0 p1 s
  unfold execKnownAnswerTestEnd
  extract_lets +onlyGivenNames -merge x0
  try clear_value x0
  refine Good.ite ?_ ?_
  · refine ⟨_, rfl, ?_⟩
    exact (Keeps.refl _)
  · extract_lets +onlyGivenNames -merge x1
    have h2 : Keeps s x1 := by
      unfold x1
      try beta_reduce
      exact Keeps.trans (Keeps.refl _) (State.testCycle_keeps _ _)
    try clear_value x1
    extract_lets +onlyGivenNames -merge x3
    try clear_value x3
    extract_lets +onlyGivenNames -merge x4
    try clear_value x4
    extract_lets +onlyGivenNames -merge x5
    have h6 : Keeps s x5 := by
      unfold x5
      try beta_reduce
      exact Keeps.trans h2 (State.setCore_keeps _ _ _)
    try clear_value x5
    split
    · refine ⟨_, rfl, ?_⟩
      exact h6
    · extract_lets +onlyGivenNames -merge x7
      have h8 : Keeps s x7 := by
        unfold x7
        try beta_reduce
        exact Keeps.trans h6 (State.testValues_keeps _ _ _)
      try clear_value x7
      refine ⟨_, rfl, ?_⟩
      refine Keeps.ite ?_ ?_
      · exact h8
      · exact Keeps.trans h8 (State.enterFaulted_keeps _ _ _ _ _)

theorem State.loneSlot_keeps : ∀ s p1 p2 p3, Keeps s (@State.loneSlot s p1 p2 p3) := by
  intro s p1 p2 p3
  unfold State.loneSlot
  extract_lets +onlyGivenNames -merge x0
  try clear_value x0
  refine Keeps.ite ?_ ?_
  · exact (Keeps.refl _)
  · refine Keeps.ite ?_ ?_
    · refine Keeps.trans ?_ (State.endCycle_keeps _ _)
      exact Keeps.trans (Keeps.refl _) (State.coreFault_keeps _ _ _ _)
    · split
      · refine Keeps.trans ?_ (State.endCycle_keeps _ _)
        refine Keeps.trans ?_ (State.coreFault_keeps _ _ _ _)
        exact Keeps.trans (Keeps.refl _) (State.slotReads_keeps _ _ _ _)
      · extract_lets +onlyGivenNames -merge x1
        have h2 : Keeps s x1 := by
          unfold x1
          try beta_reduce
          refine Keeps.trans ?_ (State.endCycle_keeps _ _)
          exact Keeps.trans (Keeps.refl _) (State.slotPerform_keeps _ _ _ _)
        try clear_value x1
        split
        · extract_lets +onlyGivenNames -merge x3
          try clear_value x3
          exact Keeps.trans h2 (State.setCore_keeps _ _ _)
        · exact h2

end Sys2Proof.Machine
end

