-- ==== Sys2Proof/Laws/Blend.lean ====
section
/-! SUPPORT. What the operations of Machine/Blend.lean keep: the queue of waiting commands and the canonical form of the state
(Keeps); and that its commands answer a next state (Good). -/

namespace Sys2Proof.Machine

theorem execNop_keeps : ∀ p0 p1 s, Good s (@execNop p0 p1 s) := by
  intro p0 p1 s
  unfold execNop
  refine ⟨_, rfl, ?_⟩
  exact Keeps.trans (Keeps.refl _) (State.loneBlend_keeps _ _ _ _)

theorem execEndBlend_keeps : ∀ p0 p1 s, Good s (@execEndBlend p0 p1 s) := by
  intro p0 p1 s
  unfold execEndBlend
  refine ⟨_, rfl, ?_⟩
  exact Keeps.trans (Keeps.refl _) (State.loneBlend_keeps _ _ _ _)

theorem execLoop_keeps : ∀ p0 p1 s, Good s (@execLoop p0 p1 s) := by
  intro p0 p1 s
  unfold execLoop
  refine ⟨_, rfl, ?_⟩
  exact Keeps.trans (Keeps.refl _) (State.loneBlend_keeps _ _ _ _)

theorem execFadd_keeps : ∀ p0 p1 s, Good s (@execFadd p0 p1 s) := by
  intro p0 p1 s
  unfold execFadd
  refine ⟨_, rfl, ?_⟩
  exact Keeps.trans (Keeps.refl _) (State.loneBlend_keeps _ _ _ _)

theorem execFsub_keeps : ∀ p0 p1 s, Good s (@execFsub p0 p1 s) := by
  intro p0 p1 s
  unfold execFsub
  refine ⟨_, rfl, ?_⟩
  exact Keeps.trans (Keeps.refl _) (State.loneBlend_keeps _ _ _ _)

theorem execFmul_keeps : ∀ p0 p1 s, Good s (@execFmul p0 p1 s) := by
  intro p0 p1 s
  unfold execFmul
  refine ⟨_, rfl, ?_⟩
  exact Keeps.trans (Keeps.refl _) (State.loneBlend_keeps _ _ _ _)

theorem execFma_keeps : ∀ p0 p1 s, Good s (@execFma p0 p1 s) := by
  intro p0 p1 s
  unfold execFma
  refine ⟨_, rfl, ?_⟩
  exact Keeps.trans (Keeps.refl _) (State.loneBlend_keeps _ _ _ _)

theorem execFmin_keeps : ∀ p0 p1 s, Good s (@execFmin p0 p1 s) := by
  intro p0 p1 s
  unfold execFmin
  refine ⟨_, rfl, ?_⟩
  exact Keeps.trans (Keeps.refl _) (State.loneBlend_keeps _ _ _ _)

theorem execFmax_keeps : ∀ p0 p1 s, Good s (@execFmax p0 p1 s) := by
  intro p0 p1 s
  unfold execFmax
  refine ⟨_, rfl, ?_⟩
  exact Keeps.trans (Keeps.refl _) (State.loneBlend_keeps _ _ _ _)

theorem execFabs_keeps : ∀ p0 p1 s, Good s (@execFabs p0 p1 s) := by
  intro p0 p1 s
  unfold execFabs
  refine ⟨_, rfl, ?_⟩
  exact Keeps.trans (Keeps.refl _) (State.loneBlend_keeps _ _ _ _)

theorem execFneg_keeps : ∀ p0 p1 s, Good s (@execFneg p0 p1 s) := by
  intro p0 p1 s
  unfold execFneg
  refine ⟨_, rfl, ?_⟩
  exact Keeps.trans (Keeps.refl _) (State.loneBlend_keeps _ _ _ _)

theorem execFcmp_keeps : ∀ p0 p1 s, Good s (@execFcmp p0 p1 s) := by
  intro p0 p1 s
  unfold execFcmp
  refine ⟨_, rfl, ?_⟩
  exact Keeps.trans (Keeps.refl _) (State.loneBlend_keeps _ _ _ _)

theorem execSel_keeps : ∀ p0 p1 s, Good s (@execSel p0 p1 s) := by
  intro p0 p1 s
  unfold execSel
  refine ⟨_, rfl, ?_⟩
  exact Keeps.trans (Keeps.refl _) (State.loneBlend_keeps _ _ _ _)

theorem execMov_keeps : ∀ p0 p1 s, Good s (@execMov p0 p1 s) := by
  intro p0 p1 s
  unfold execMov
  refine ⟨_, rfl, ?_⟩
  exact Keeps.trans (Keeps.refl _) (State.loneBlend_keeps _ _ _ _)

theorem execExp2_keeps : ∀ p0 p1 s, Good s (@execExp2 p0 p1 s) := by
  intro p0 p1 s
  unfold execExp2
  refine ⟨_, rfl, ?_⟩
  exact Keeps.trans (Keeps.refl _) (State.loneBlend_keeps _ _ _ _)

theorem execLog2_keeps : ∀ p0 p1 s, Good s (@execLog2 p0 p1 s) := by
  intro p0 p1 s
  unfold execLog2
  refine ⟨_, rfl, ?_⟩
  exact Keeps.trans (Keeps.refl _) (State.loneBlend_keeps _ _ _ _)

theorem execRcp_keeps : ∀ p0 p1 s, Good s (@execRcp p0 p1 s) := by
  intro p0 p1 s
  unfold execRcp
  refine ⟨_, rfl, ?_⟩
  exact Keeps.trans (Keeps.refl _) (State.loneBlend_keeps _ _ _ _)

theorem execRsq_keeps : ∀ p0 p1 s, Good s (@execRsq p0 p1 s) := by
  intro p0 p1 s
  unfold execRsq
  refine ⟨_, rfl, ?_⟩
  exact Keeps.trans (Keeps.refl _) (State.loneBlend_keeps _ _ _ _)

theorem execIadd_keeps : ∀ p0 p1 s, Good s (@execIadd p0 p1 s) := by
  intro p0 p1 s
  unfold execIadd
  refine ⟨_, rfl, ?_⟩
  exact Keeps.trans (Keeps.refl _) (State.loneBlend_keeps _ _ _ _)

theorem execIsub_keeps : ∀ p0 p1 s, Good s (@execIsub p0 p1 s) := by
  intro p0 p1 s
  unfold execIsub
  refine ⟨_, rfl, ?_⟩
  exact Keeps.trans (Keeps.refl _) (State.loneBlend_keeps _ _ _ _)

theorem execImul_keeps : ∀ p0 p1 s, Good s (@execImul p0 p1 s) := by
  intro p0 p1 s
  unfold execImul
  refine ⟨_, rfl, ?_⟩
  exact Keeps.trans (Keeps.refl _) (State.loneBlend_keeps _ _ _ _)

theorem execAndOp_keeps : ∀ p0 p1 s, Good s (@execAndOp p0 p1 s) := by
  intro p0 p1 s
  unfold execAndOp
  refine ⟨_, rfl, ?_⟩
  exact Keeps.trans (Keeps.refl _) (State.loneBlend_keeps _ _ _ _)

theorem execOrOp_keeps : ∀ p0 p1 s, Good s (@execOrOp p0 p1 s) := by
  intro p0 p1 s
  unfold execOrOp
  refine ⟨_, rfl, ?_⟩
  exact Keeps.trans (Keeps.refl _) (State.loneBlend_keeps _ _ _ _)

theorem execXorOp_keeps : ∀ p0 p1 s, Good s (@execXorOp p0 p1 s) := by
  intro p0 p1 s
  unfold execXorOp
  refine ⟨_, rfl, ?_⟩
  exact Keeps.trans (Keeps.refl _) (State.loneBlend_keeps _ _ _ _)

theorem execShl_keeps : ∀ p0 p1 s, Good s (@execShl p0 p1 s) := by
  intro p0 p1 s
  unfold execShl
  refine ⟨_, rfl, ?_⟩
  exact Keeps.trans (Keeps.refl _) (State.loneBlend_keeps _ _ _ _)

theorem execShr_keeps : ∀ p0 p1 s, Good s (@execShr p0 p1 s) := by
  intro p0 p1 s
  unfold execShr
  refine ⟨_, rfl, ?_⟩
  exact Keeps.trans (Keeps.refl _) (State.loneBlend_keeps _ _ _ _)

theorem execShra_keeps : ∀ p0 p1 s, Good s (@execShra p0 p1 s) := by
  intro p0 p1 s
  unfold execShra
  refine ⟨_, rfl, ?_⟩
  exact Keeps.trans (Keeps.refl _) (State.loneBlend_keeps _ _ _ _)

theorem execIcmp_keeps : ∀ p0 p1 s, Good s (@execIcmp p0 p1 s) := by
  intro p0 p1 s
  unfold execIcmp
  refine ⟨_, rfl, ?_⟩
  exact Keeps.trans (Keeps.refl _) (State.loneBlend_keeps _ _ _ _)

theorem execCvtf_keeps : ∀ p0 p1 s, Good s (@execCvtf p0 p1 s) := by
  intro p0 p1 s
  unfold execCvtf
  refine ⟨_, rfl, ?_⟩
  exact Keeps.trans (Keeps.refl _) (State.loneBlend_keeps _ _ _ _)

theorem execCvti_keeps : ∀ p0 p1 s, Good s (@execCvti p0 p1 s) := by
  intro p0 p1 s
  unfold execCvti
  refine ⟨_, rfl, ?_⟩
  exact Keeps.trans (Keeps.refl _) (State.loneBlend_keeps _ _ _ _)

theorem execCvtp_keeps : ∀ p0 p1 s, Good s (@execCvtp p0 p1 s) := by
  intro p0 p1 s
  unfold execCvtp
  refine ⟨_, rfl, ?_⟩
  exact Keeps.trans (Keeps.refl _) (State.loneBlend_keeps _ _ _ _)

theorem execMxq_keeps : ∀ p0 p1 s, Good s (@execMxq p0 p1 s) := by
  intro p0 p1 s
  unfold execMxq
  refine ⟨_, rfl, ?_⟩
  exact Keeps.trans (Keeps.refl _) (State.loneBlend_keeps _ _ _ _)

theorem execPerm_keeps : ∀ p0 p1 s, Good s (@execPerm p0 p1 s) := by
  intro p0 p1 s
  unfold execPerm
  refine ⟨_, rfl, ?_⟩
  exact Keeps.trans (Keeps.refl _) (State.loneBlend_keeps _ _ _ _)

theorem execRsum_keeps : ∀ p0 p1 s, Good s (@execRsum p0 p1 s) := by
  intro p0 p1 s
  unfold execRsum
  refine ⟨_, rfl, ?_⟩
  exact Keeps.trans (Keeps.refl _) (State.loneBlend_keeps _ _ _ _)

theorem execRmax_keeps : ∀ p0 p1 s, Good s (@execRmax p0 p1 s) := by
  intro p0 p1 s
  unfold execRmax
  refine ⟨_, rfl, ?_⟩
  exact Keeps.trans (Keeps.refl _) (State.loneBlend_keeps _ _ _ _)

theorem execPsum_keeps : ∀ p0 p1 s, Good s (@execPsum p0 p1 s) := by
  intro p0 p1 s
  unfold execPsum
  refine ⟨_, rfl, ?_⟩
  exact Keeps.trans (Keeps.refl _) (State.loneBlend_keeps _ _ _ _)

theorem execBins_keeps : ∀ p0 p1 s, Good s (@execBins p0 p1 s) := by
  intro p0 p1 s
  unfold execBins
  refine ⟨_, rfl, ?_⟩
  exact Keeps.trans (Keeps.refl _) (State.loneBlend_keeps _ _ _ _)

theorem execMfirst_keeps : ∀ p0 p1 s, Good s (@execMfirst p0 p1 s) := by
  intro p0 p1 s
  unfold execMfirst
  refine ⟨_, rfl, ?_⟩
  exact Keeps.trans (Keeps.refl _) (State.loneBlend_keeps _ _ _ _)

theorem execLaneid_keeps : ∀ p0 p1 s, Good s (@execLaneid p0 p1 s) := by
  intro p0 p1 s
  unfold execLaneid
  refine ⟨_, rfl, ?_⟩
  exact Keeps.trans (Keeps.refl _) (State.loneBlend_keeps _ _ _ _)

theorem execBlendLd_keeps : ∀ p0 p1 s, Good s (@execBlendLd p0 p1 s) := by
  intro p0 p1 s
  unfold execBlendLd
  refine ⟨_, rfl, ?_⟩
  exact Keeps.trans (Keeps.refl _) (State.loneBlend_keeps _ _ _ _)

theorem execBlendSt_keeps : ∀ p0 p1 s, Good s (@execBlendSt p0 p1 s) := by
  intro p0 p1 s
  unfold execBlendSt
  refine ⟨_, rfl, ?_⟩
  exact Keeps.trans (Keeps.refl _) (State.loneBlend_keeps _ _ _ _)

theorem execSth_keeps : ∀ p0 p1 s, Good s (@execSth p0 p1 s) := by
  intro p0 p1 s
  unfold execSth
  refine ⟨_, rfl, ?_⟩
  exact Keeps.trans (Keeps.refl _) (State.loneBlend_keeps _ _ _ _)

theorem execSts_keeps : ∀ p0 p1 s, Good s (@execSts p0 p1 s) := by
  intro p0 p1 s
  unfold execSts
  refine ⟨_, rfl, ?_⟩
  exact Keeps.trans (Keeps.refl _) (State.loneBlend_keeps _ _ _ _)

theorem execBpset_keeps : ∀ p0 p1 s, Good s (@execBpset p0 p1 s) := by
  intro p0 p1 s
  unfold execBpset
  refine ⟨_, rfl, ?_⟩
  exact Keeps.trans (Keeps.refl _) (State.loneBlend_keeps _ _ _ _)

theorem execChw_keeps : ∀ p0 p1 s, Good s (@execChw p0 p1 s) := by
  intro p0 p1 s
  unfold execChw
  refine ⟨_, rfl, ?_⟩
  exact Keeps.trans (Keeps.refl _) (State.loneBlend_keeps _ _ _ _)

theorem execBlendSend_keeps : ∀ p0 p1 s, Good s (@execBlendSend p0 p1 s) := by
  intro p0 p1 s
  unfold execBlendSend
  refine ⟨_, rfl, ?_⟩
  exact Keeps.trans (Keeps.refl _) (State.loneBlend_keeps _ _ _ _)

theorem execAppend_keeps : ∀ p0 p1 s, Good s (@execAppend p0 p1 s) := by
  intro p0 p1 s
  unfold execAppend
  refine ⟨_, rfl, ?_⟩
  exact Keeps.trans (Keeps.refl _) (State.loneBlend_keeps _ _ _ _)

theorem execRng_keeps : ∀ p0 p1 s, Good s (@execRng p0 p1 s) := by
  intro p0 p1 s
  unfold execRng
  refine ⟨_, rfl, ?_⟩
  exact Keeps.trans (Keeps.refl _) (State.loneBlend_keeps _ _ _ _)

theorem execTkclr_keeps : ∀ p0 p1 s, Good s (@execTkclr p0 p1 s) := by
  intro p0 p1 s
  unfold execTkclr
  refine ⟨_, rfl, ?_⟩
  exact Keeps.trans (Keeps.refl _) (State.loneBlend_keeps _ _ _ _)

theorem execTkin_keeps : ∀ p0 p1 s, Good s (@execTkin p0 p1 s) := by
  intro p0 p1 s
  unfold execTkin
  refine ⟨_, rfl, ?_⟩
  exact Keeps.trans (Keeps.refl _) (State.loneBlend_keeps _ _ _ _)

theorem execTkout_keeps : ∀ p0 p1 s, Good s (@execTkout p0 p1 s) := by
  intro p0 p1 s
  unfold execTkout
  refine ⟨_, rfl, ?_⟩
  exact Keeps.trans (Keeps.refl _) (State.loneBlend_keeps _ _ _ _)

end Sys2Proof.Machine
end

