-- ==== Sys2Proof/Laws/Slots.lean ====
section
/-! SUPPORT. What the operations of Machine/Slots.lean keep: the queue of waiting commands and the canonical form of the state
(Keeps); and that its commands answer a next state (Good). -/

namespace Sys2Proof.Machine

theorem execJmp_keeps : ∀ p0 p1 s, Good s (@execJmp p0 p1 s) := by
  intro p0 p1 s
  unfold execJmp
  refine ⟨_, rfl, ?_⟩
  exact Keeps.trans (Keeps.refl _) (State.loneSlot_keeps _ _ _ _)

theorem execLset_keeps : ∀ p0 p1 s, Good s (@execLset p0 p1 s) := by
  intro p0 p1 s
  unfold execLset
  refine ⟨_, rfl, ?_⟩
  exact Keeps.trans (Keeps.refl _) (State.loneSlot_keeps _ _ _ _)

theorem execLend_keeps : ∀ p0 p1 s, Good s (@execLend p0 p1 s) := by
  intro p0 p1 s
  unfold execLend
  refine ⟨_, rfl, ?_⟩
  exact Keeps.trans (Keeps.refl _) (State.loneSlot_keeps _ _ _ _)

theorem execWait_keeps : ∀ p0 p1 s, Good s (@execWait p0 p1 s) := by
  intro p0 p1 s
  unfold execWait
  refine ⟨_, rfl, ?_⟩
  exact Keeps.trans (Keeps.refl _) (State.loneSlot_keeps _ _ _ _)

theorem execTadd_keeps : ∀ p0 p1 s, Good s (@execTadd p0 p1 s) := by
  intro p0 p1 s
  unfold execTadd
  refine ⟨_, rfl, ?_⟩
  exact Keeps.trans (Keeps.refl _) (State.loneSlot_keeps _ _ _ _)

theorem execSmov_keeps : ∀ p0 p1 s, Good s (@execSmov p0 p1 s) := by
  intro p0 p1 s
  unfold execSmov
  refine ⟨_, rfl, ?_⟩
  exact Keeps.trans (Keeps.refl _) (State.loneSlot_keeps _ _ _ _)

theorem execSalu_keeps : ∀ p0 p1 s, Good s (@execSalu p0 p1 s) := by
  intro p0 p1 s
  unfold execSalu
  refine ⟨_, rfl, ?_⟩
  exact Keeps.trans (Keeps.refl _) (State.loneSlot_keeps _ _ _ _)

theorem execSaddi_keeps : ∀ p0 p1 s, Good s (@execSaddi p0 p1 s) := by
  intro p0 p1 s
  unfold execSaddi
  refine ⟨_, rfl, ?_⟩
  exact Keeps.trans (Keeps.refl _) (State.loneSlot_keeps _ _ _ _)

theorem execAadd_keeps : ∀ p0 p1 s, Good s (@execAadd p0 p1 s) := by
  intro p0 p1 s
  unfold execAadd
  refine ⟨_, rfl, ?_⟩
  exact Keeps.trans (Keeps.refl _) (State.loneSlot_keeps _ _ _ _)

theorem execAmov_keeps : ∀ p0 p1 s, Good s (@execAmov p0 p1 s) := by
  intro p0 p1 s
  unfold execAmov
  refine ⟨_, rfl, ?_⟩
  exact Keeps.trans (Keeps.refl _) (State.loneSlot_keeps _ _ _ _)

theorem execSetp_keeps : ∀ p0 p1 s, Good s (@execSetp p0 p1 s) := by
  intro p0 p1 s
  unfold execSetp
  refine ⟨_, rfl, ?_⟩
  exact Keeps.trans (Keeps.refl _) (State.loneSlot_keeps _ _ _ _)

theorem execPlog_keeps : ∀ p0 p1 s, Good s (@execPlog p0 p1 s) := by
  intro p0 p1 s
  unfold execPlog
  refine ⟨_, rfl, ?_⟩
  exact Keeps.trans (Keeps.refl _) (State.loneSlot_keeps _ _ _ _)

theorem execSrd_keeps : ∀ p0 p1 s, Good s (@execSrd p0 p1 s) := by
  intro p0 p1 s
  unfold execSrd
  refine ⟨_, rfl, ?_⟩
  exact Keeps.trans (Keeps.refl _) (State.loneSlot_keeps _ _ _ _)

theorem execHalt_keeps : ∀ p0 p1 s, Good s (@execHalt p0 p1 s) := by
  intro p0 p1 s
  unfold execHalt
  refine ⟨_, rfl, ?_⟩
  exact Keeps.trans (Keeps.refl _) (State.loneSlot_keeps _ _ _ _)

theorem execLdsLd_keeps : ∀ p0 p1 s, Good s (@execLdsLd p0 p1 s) := by
  intro p0 p1 s
  unfold execLdsLd
  refine ⟨_, rfl, ?_⟩
  exact Keeps.trans (Keeps.refl _) (State.loneSlot_keeps _ _ _ _)

theorem execLdsSt_keeps : ∀ p0 p1 s, Good s (@execLdsSt p0 p1 s) := by
  intro p0 p1 s
  unfold execLdsSt
  refine ⟨_, rfl, ?_⟩
  exact Keeps.trans (Keeps.refl _) (State.loneSlot_keeps _ _ _ _)

theorem execLdsBfill_keeps : ∀ p0 p1 s, Good s (@execLdsBfill p0 p1 s) := by
  intro p0 p1 s
  unfold execLdsBfill
  refine ⟨_, rfl, ?_⟩
  exact Keeps.trans (Keeps.refl _) (State.loneSlot_keeps _ _ _ _)

theorem execSld_keeps : ∀ p0 p1 s, Good s (@execSld p0 p1 s) := by
  intro p0 p1 s
  unfold execSld
  refine ⟨_, rfl, ?_⟩
  exact Keeps.trans (Keeps.refl _) (State.loneSlot_keeps _ _ _ _)

theorem execSst_keeps : ∀ p0 p1 s, Good s (@execSst p0 p1 s) := by
  intro p0 p1 s
  unfold execSst
  refine ⟨_, rfl, ?_⟩
  exact Keeps.trans (Keeps.refl _) (State.loneSlot_keeps _ _ _ _)

theorem execVld_keeps : ∀ p0 p1 s, Good s (@execVld p0 p1 s) := by
  intro p0 p1 s
  unfold execVld
  refine ⟨_, rfl, ?_⟩
  exact Keeps.trans (Keeps.refl _) (State.loneSlot_keeps _ _ _ _)

theorem execVst_keeps : ∀ p0 p1 s, Good s (@execVst p0 p1 s) := by
  intro p0 p1 s
  unfold execVst
  refine ⟨_, rfl, ?_⟩
  exact Keeps.trans (Keeps.refl _) (State.loneSlot_keeps _ _ _ _)

theorem execTrd_keeps : ∀ p0 p1 s, Good s (@execTrd p0 p1 s) := by
  intro p0 p1 s
  unfold execTrd
  refine ⟨_, rfl, ?_⟩
  exact Keeps.trans (Keeps.refl _) (State.loneSlot_keeps _ _ _ _)

theorem execBst_keeps : ∀ p0 p1 s, Good s (@execBst p0 p1 s) := by
  intro p0 p1 s
  unfold execBst
  refine ⟨_, rfl, ?_⟩
  exact Keeps.trans (Keeps.refl _) (State.loneSlot_keeps _ _ _ _)

theorem execLst_keeps : ∀ p0 p1 s, Good s (@execLst p0 p1 s) := by
  intro p0 p1 s
  unfold execLst
  refine ⟨_, rfl, ?_⟩
  exact Keeps.trans (Keeps.refl _) (State.loneSlot_keeps _ _ _ _)

theorem execOpeMma_keeps : ∀ p0 p1 s, Good s (@execOpeMma p0 p1 s) := by
  intro p0 p1 s
  unfold execOpeMma
  refine ⟨_, rfl, ?_⟩
  exact Keeps.trans (Keeps.refl _) (State.loneSlot_keeps _ _ _ _)

theorem execOpeLoad_keeps : ∀ p0 p1 s, Good s (@execOpeLoad p0 p1 s) := by
  intro p0 p1 s
  unfold execOpeLoad
  refine ⟨_, rfl, ?_⟩
  exact Keeps.trans (Keeps.refl _) (State.loneSlot_keeps _ _ _ _)

theorem execOpeDrain_keeps : ∀ p0 p1 s, Good s (@execOpeDrain p0 p1 s) := by
  intro p0 p1 s
  unfold execOpeDrain
  refine ⟨_, rfl, ?_⟩
  exact Keeps.trans (Keeps.refl _) (State.loneSlot_keeps _ _ _ _)

theorem execMvpRun_keeps : ∀ p0 p1 s, Good s (@execMvpRun p0 p1 s) := by
  intro p0 p1 s
  unfold execMvpRun
  refine ⟨_, rfl, ?_⟩
  exact Keeps.trans (Keeps.refl _) (State.loneSlot_keeps _ _ _ _)

theorem execMvpDrain_keeps : ∀ p0 p1 s, Good s (@execMvpDrain p0 p1 s) := by
  intro p0 p1 s
  unfold execMvpDrain
  refine ⟨_, rfl, ?_⟩
  exact Keeps.trans (Keeps.refl _) (State.loneSlot_keeps _ _ _ _)

theorem execNetSend_keeps : ∀ p0 p1 s, Good s (@execNetSend p0 p1 s) := by
  intro p0 p1 s
  unfold execNetSend
  refine ⟨_, rfl, ?_⟩
  exact Keeps.trans (Keeps.refl _) (State.loneSlot_keeps _ _ _ _)

theorem execSendv_keeps : ∀ p0 p1 s, Good s (@execSendv p0 p1 s) := by
  intro p0 p1 s
  unfold execSendv
  refine ⟨_, rfl, ?_⟩
  exact Keeps.trans (Keeps.refl _) (State.loneSlot_keeps _ _ _ _)

theorem execNetRecv_keeps : ∀ p0 p1 s, Good s (@execNetRecv p0 p1 s) := by
  intro p0 p1 s
  unfold execNetRecv
  refine ⟨_, rfl, ?_⟩
  exact Keeps.trans (Keeps.refl _) (State.loneSlot_keeps _ _ _ _)

theorem execRecvv_keeps : ∀ p0 p1 s, Good s (@execRecvv p0 p1 s) := by
  intro p0 p1 s
  unfold execRecvv
  refine ⟨_, rfl, ?_⟩
  exact Keeps.trans (Keeps.refl _) (State.loneSlot_keeps _ _ _ _)

theorem execBlend_keeps : ∀ p0 p1 s, Good s (@execBlend p0 p1 s) := by
  intro p0 p1 s
  unfold execBlend
  refine ⟨_, rfl, ?_⟩
  exact Keeps.trans (Keeps.refl _) (State.loneSlot_keeps _ _ _ _)

theorem execSingleVectorOp_keeps : ∀ p0 p1 s, Good s (@execSingleVectorOp p0 p1 s) := by
  intro p0 p1 s
  unfold execSingleVectorOp
  refine ⟨_, rfl, ?_⟩
  exact Keeps.trans (Keeps.refl _) (State.loneSlot_keeps _ _ _ _)

end Sys2Proof.Machine
end

