-- ==== Sys2Proof/Laws/Mesh.lean ====
section
/-! SUPPORT. What the operations of Machine/Mesh.lean keep: the queue of waiting commands and the canonical form of the state
(Keeps); and that its commands answer a next state (Good). -/

namespace Sys2Proof.Machine

theorem State.cross_keeps : ∀ s p1 p2 p3 p4 p5 p6 p7, Keeps s (@State.cross s p1 p2 p3 p4 p5 p6 p7) := by
  intro s p1 p2 p3 p4 p5 p6 p7
  unfold State.cross
  extract_lets +onlyGivenNames -merge x0
  have h1 : Keeps s x0 := by
    unfold x0
    try beta_reduce
    refine Keeps.ite ?_ ?_
    · exact (Keeps.refl _)
    · exact Keeps.trans (Keeps.refl _) (State.tally_keeps _ _ _ _ _)
  try clear_value x0
  extract_lets +onlyGivenNames -merge x2
  try clear_value x2
  exact Keeps.trans h1 (State.setXing_keeps _ _ _)

theorem State.readWinEntry_keeps : ∀ s p1 p2, Keeps s (@State.readWinEntry s p1 p2).2.2 := by
  intro s p1 p2
  unfold State.readWinEntry
  extract_lets +onlyGivenNames -merge x0
  try clear_value x0
  extract_lets +onlyGivenNames -merge x1
  have h2 : Keeps s x1.2.2 := by
    unfold x1
    exact Keeps.trans (Keeps.refl _) (State.readSram_keeps _ _ _ _)
  try clear_value x1
  refine Keeps.sndP (fun (r : Bool × Sys2Proof.Machine.State) => r.2) ?_
  refine Keeps.snd ?_
  exact h2

theorem State.fetchRoute_keeps : ∀ s p1 p2 p3, Keeps s (@State.fetchRoute s p1 p2 p3).2 := by
  intro s p1 p2 p3
  unfold State.fetchRoute
  extract_lets +onlyGivenNames -merge x0
  try clear_value x0
  extract_lets +onlyGivenNames -merge x1
  have h2 : Keeps s x1 := by
    unfold x1
    refine Keeps.ite ?_ ?_
    · exact Keeps.trans (Keeps.refl _) (State.countCheck_keeps _ _ _ _)
    · exact (Keeps.refl _)
  try clear_value x1
  refine Keeps.snd ?_
  exact h2

theorem State.checkFlit_keeps : ∀ s p1 p2, Keeps s (@State.checkFlit s p1 p2).1 := by
  intro s p1 p2
  unfold State.checkFlit
  refine Keeps.iteP (fun (r : Sys2Proof.Machine.State × Sys2Proof.Machine.Flit) => r.1) ?_ ?_
  · refine Keeps.fst ?_
    exact (Keeps.refl _)
  · extract_lets +onlyGivenNames -merge x0
    have h1 : Keeps s x0 := by
      unfold x0
      refine Keeps.ite ?_ ?_
      · exact Keeps.trans (Keeps.refl _) (State.countField_keeps _ _ _ _ _)
      · exact (Keeps.refl _)
    try clear_value x0
    extract_lets +onlyGivenNames -merge x2
    try clear_value x2
    refine Keeps.iteP (fun (r : Sys2Proof.Machine.State × Sys2Proof.Machine.Flit) => r.1) ?_ ?_
    · refine Keeps.fst ?_
      exact h1
    · refine Keeps.fst ?_
      exact h1

theorem State.flipped_keeps : ∀ s p1 p2 p3, Keeps s (@State.flipped s p1 p2 p3).2 := by
  intro s p1 p2 p3
  unfold State.flipped
  split
  · refine Keeps.snd ?_
    exact (Keeps.refl _)
  · extract_lets +onlyGivenNames -merge x0
    have h1 : Keeps s x0.2 := by
      unfold x0
      try beta_reduce
      exact Keeps.trans (Keeps.refl _) (State.free_keeps _ _)
    try clear_value x0
    exact h1

theorem execFlitArrival_keeps : ∀ p0 p1 p2 p3 s, Good s (@execFlitArrival p0 p1 p2 p3 s) := by
  intro p0 p1 p2 p3 s
  unfold execFlitArrival
  extract_lets +onlyGivenNames -merge x0
  try clear_value x0
  split
  · extract_lets +onlyGivenNames -merge x1
    have h2 : Keeps s x1.2 := by
      unfold x1
      try beta_reduce
      exact Keeps.trans (Keeps.refl _) (State.flipped_keeps _ _ _ _)
    try clear_value x1
    extract_lets +onlyGivenNames -merge x3
    have h4 : Keeps s x3.1 := by
      unfold x3
      try beta_reduce
      exact Keeps.trans h2 (State.checkFlit_keeps _ _ _)
    try clear_value x3
    extract_lets +onlyGivenNames -merge x5
    try clear_value x5
    refine ⟨_, rfl, ?_⟩
    exact Keeps.trans h4 (State.setRouter_keeps _ _ _)
  · split
    · extract_lets +onlyGivenNames -merge x6
      try clear_value x6
      refine ⟨_, rfl, ?_⟩
      exact Keeps.trans (Keeps.refl _) (State.setAtt_keeps _ _ _)
    · refine Good.ite ?_ ?_
      · refine ⟨_, rfl, ?_⟩
        exact (Keeps.refl _)
      · extract_lets +onlyGivenNames -merge x7
        have h8 : Keeps s x7.2 := by
          unfold x7
          try beta_reduce
          exact Keeps.trans (Keeps.refl _) (State.flipped_keeps _ _ _ _)
        try clear_value x7
        extract_lets +onlyGivenNames -merge x9
        have h10 : Keeps s x9.1 := by
          unfold x9
          try beta_reduce
          exact Keeps.trans h8 (State.checkFlit_keeps _ _ _)
        try clear_value x9
        extract_lets +onlyGivenNames -merge x11
        try clear_value x11
        refine ⟨_, rfl, ?_⟩
        exact Keeps.trans h10 (State.setRouter_keeps _ _ _)

theorem State.decodeFrame_keeps : ∀ s p1 p2 p3 p4 p5, Keeps s (@State.decodeFrame s p1 p2 p3 p4 p5).1 := by
  intro s p1 p2 p3 p4 p5
  unfold State.decodeFrame
  extract_lets +onlyGivenNames -merge x0
  try clear_value x0
  refine Keeps.iteP (fun (r : Sys2Proof.Machine.State × Sys2Proof.Machine.Flit) => r.1) ?_ ?_
  · refine Keeps.fst ?_
    exact (Keeps.refl _)
  · refine Keeps.iteP (fun (r : Sys2Proof.Machine.State × Sys2Proof.Machine.Flit) => r.1) ?_ ?_
    · refine Keeps.fst ?_
      exact Keeps.trans (Keeps.refl _) (State.countField_keeps _ _ _ _ _)
    · extract_lets +onlyGivenNames -merge x1
      try clear_value x1
      refine Keeps.fst ?_
      exact Keeps.trans (Keeps.refl _) (State.countField_keeps _ _ _ _ _)

theorem State.crossed_keeps : ∀ s p1 p2 p3 p4 p5 p6 p7, Keeps s (@State.crossed s p1 p2 p3 p4 p5 p6 p7) := by
  intro s p1 p2 p3 p4 p5 p6 p7
  unfold State.crossed
  split
  · extract_lets +onlyGivenNames -merge x0
    try clear_value x0
    extract_lets +onlyGivenNames -merge x1
    try clear_value x1
    extract_lets +onlyGivenNames -merge x2
    try clear_value x2
    refine Keeps.ite ?_ ?_
    · exact (Keeps.refl _)
    · split
      · extract_lets +onlyGivenNames -merge x3
        try clear_value x3
        exact Keeps.trans (Keeps.refl _) (State.setColl_keeps _ _ _)
      · refine Keeps.ite ?_ ?_
        · exact Keeps.trans (Keeps.refl _) (State.setAtt_keeps _ _ _)
        · extract_lets +onlyGivenNames -merge x4
          try clear_value x4
          refine Keeps.trans ?_ (State.meshFault_keeps _ _ _ _ _ _)
          exact Keeps.trans (Keeps.refl _) (State.orReg_keeps _ _ _)
  · refine Keeps.ite ?_ ?_
    · extract_lets +onlyGivenNames -merge x5
      try clear_value x5
      extract_lets +onlyGivenNames -merge x6
      try clear_value x6
      refine Keeps.ite ?_ ?_
      · exact Keeps.trans (Keeps.refl _) (State.setAtt_keeps _ _ _)
      · refine Keeps.ite ?_ ?_
        · exact Keeps.trans (Keeps.refl _) (State.setAtt_keeps _ _ _)
        · exact (Keeps.refl _)
    · extract_lets +onlyGivenNames -merge x7
      try clear_value x7
      exact Keeps.trans (Keeps.refl _) (State.setRouter_keeps _ _ _)

theorem execHubToTileSend_keeps : ∀ p0 p1 s, Good s (@execHubToTileSend p0 p1 s) := by
  intro p0 p1 s
  unfold execHubToTileSend
  extract_lets +onlyGivenNames -merge x0
  try clear_value x0
  extract_lets +onlyGivenNames -merge x1
  try clear_value x1
  extract_lets +onlyGivenNames -merge x2
  try clear_value x2
  extract_lets +onlyGivenNames -merge x3
  try clear_value x3
  extract_lets +onlyGivenNames -merge x4
  try clear_value x4
  split
  · extract_lets +onlyGivenNames -merge x5
    try clear_value x5
    refine Good.ite ?_ ?_
    · refine ⟨_, rfl, ?_⟩
      exact (Keeps.refl _)
    · extract_lets +onlyGivenNames -merge x6
      have h7 : Keeps s x6 := by
        unfold x6
        try beta_reduce
        exact Keeps.trans (Keeps.refl _) (State.setAtt_keeps _ _ _)
      try clear_value x6
      refine ⟨_, rfl, ?_⟩
      exact Keeps.trans h7 (State.cross_keeps _ _ _ _ _ _ _ _)
  · refine ⟨_, rfl, ?_⟩
    exact (Keeps.refl _)

theorem State.takeInputs_keeps : ∀ s p1 p2, Keeps s (@State.takeInputs s p1 p2).1 := by
  intro s p1 p2
  unfold State.takeInputs
  refine Keeps.foldlP (fun (r : Sys2Proof.Machine.State × List Sys2Proof.Machine.Flit) => r.1) ?_ ?_
  · refine Keeps.fst ?_
    exact (Keeps.refl _)
  · intro a0 b1 ht2
    try beta_reduce
    extract_lets +onlyGivenNames -merge x3
    try clear_value x3
    extract_lets +onlyGivenNames -merge x4
    have h5 : Keeps s x4.1 := by
      unfold x4
      try beta_reduce
      refine Keeps.iteP (fun (r : Sys2Proof.Machine.State × Sys2Proof.Machine.Flit) => r.1) ?_ ?_
      · exact Keeps.trans ht2 (State.checkFlit_keeps _ _ _)
      · exact ht2
    try clear_value x4
    exact h5

theorem State.takeIngress_keeps : ∀ s p1 p2, Keeps s (@State.takeIngress s p1 p2) := by
  intro s p1 p2
  unfold State.takeIngress
  split
  · extract_lets +onlyGivenNames -merge x0
    try clear_value x0
    split
    · exact Keeps.trans (Keeps.refl _) (State.setAtt_keeps _ _ _)
    · exact (Keeps.refl _)
  · exact (Keeps.refl _)

theorem State.sendPort_keeps : ∀ s p1 p2 p3 p4 p5, Keeps s (@State.sendPort s p1 p2 p3 p4 p5) := by
  intro s p1 p2 p3 p4 p5
  unfold State.sendPort
  refine Keeps.ite ?_ ?_
  · exact (Keeps.refl _)
  · refine Keeps.ite ?_ ?_
    · refine Keeps.trans ?_ (State.meshFault_keeps _ _ _ _ _ _)
      exact Keeps.trans (Keeps.refl _) (State.orReg_keeps _ _ _)
    · extract_lets +onlyGivenNames -merge x0
      have h1 : Keeps s x0 := by
        unfold x0
        try beta_reduce
        exact Keeps.trans (Keeps.refl _) (State.tally_keeps _ _ _ _ _)
      try clear_value x0
      split
      · extract_lets +onlyGivenNames -merge x2
        try clear_value x2
        exact Keeps.trans h1 (State.setRouter_keeps _ _ _)
      · split
        · exact Keeps.trans h1 (State.cross_keeps _ _ _ _ _ _ _ _)
        · refine Keeps.trans ?_ (State.meshFault_keeps _ _ _ _ _ _)
          exact Keeps.trans h1 (State.orReg_keeps _ _ _)
      · split
        · exact Keeps.trans h1 (State.cross_keeps _ _ _ _ _ _ _ _)
        · refine Keeps.trans ?_ (State.meshFault_keeps _ _ _ _ _ _)
          exact Keeps.trans h1 (State.orReg_keeps _ _ _)
      · extract_lets +onlyGivenNames -merge x3
        try clear_value x3
        refine Keeps.ite ?_ ?_
        · refine Keeps.trans ?_ (State.meshFault_keeps _ _ _ _ _ _)
          exact Keeps.trans h1 (State.orReg_keeps _ _ _)
        · exact Keeps.trans h1 (State.setAtt_keeps _ _ _)

theorem State.deliverWindow_keeps : ∀ s p1 p2 p3 p4 p5, Keeps s (@State.deliverWindow s p1 p2 p3 p4 p5) := by
  intro s p1 p2 p3 p4 p5
  unfold State.deliverWindow
  extract_lets +onlyGivenNames -merge x0
  have h1 : Keeps s x0.2.2 := by
    unfold x0
    exact Keeps.trans (Keeps.refl _) (State.readWinEntry_keeps _ _ _)
  try clear_value x0
  extract_lets +onlyGivenNames -merge x2
  have h3 : Keeps s x2 := by
    unfold x2
    exact h1
  try clear_value x2
  refine Keeps.ite ?_ ?_
  · exact Keeps.trans h3 (State.meshFault_keeps _ _ _ _ _ _)
  · refine Keeps.ite ?_ ?_
    · exact h3
    · extract_lets +onlyGivenNames -merge x4
      try clear_value x4
      extract_lets +onlyGivenNames -merge x5
      try clear_value x5
      extract_lets +onlyGivenNames -merge x6
      try clear_value x6
      extract_lets +onlyGivenNames -merge x7
      try clear_value x7
      extract_lets +onlyGivenNames -merge x8
      try clear_value x8
      extract_lets +onlyGivenNames -merge x9
      have h10 : Keeps s x9 := by
        unfold x9
        exact Keeps.trans h3 (State.setRouter_keeps _ _ _)
      try clear_value x9
      extract_lets +onlyGivenNames -merge x11
      try clear_value x11
      extract_lets +onlyGivenNames -merge x12
      try clear_value x12
      extract_lets +onlyGivenNames -merge x13
      try clear_value x13
      extract_lets +onlyGivenNames -merge x14
      try clear_value x14
      extract_lets +onlyGivenNames -merge x15
      try clear_value x15
      exact Keeps.trans h10 (State.setCore_keeps _ _ _)

theorem State.deliverLocal_keeps : ∀ s p1 p2 p3 p4 p5, Keeps s (@State.deliverLocal s p1 p2 p3 p4 p5) := by
  intro s p1 p2 p3 p4 p5
  unfold State.deliverLocal
  refine Keeps.ite ?_ ?_
  · refine Keeps.ite ?_ ?_
    · exact (Keeps.refl _)
    · extract_lets +onlyGivenNames -merge x0
      try clear_value x0
      refine Keeps.ite ?_ ?_
      · exact Keeps.trans (Keeps.refl _) (State.setCore_keeps _ _ _)
      · exact Keeps.trans (Keeps.refl _) (State.orReg_keeps _ _ _)
  · refine Keeps.ite ?_ ?_
    · exact Keeps.trans (Keeps.refl _) (State.deliverOperand_keeps _ _ _ _ _)
    · exact Keeps.trans (Keeps.refl _) (State.deliverWindow_keeps _ _ _ _ _ _)

theorem State.localInput_keeps : ∀ s p1 p2 p3, Keeps s (@State.localInput s p1 p2 p3).2 := by
  intro s p1 p2 p3
  unfold State.localInput
  refine Keeps.iteP (fun (r : Sys2Proof.Machine.Flit × Sys2Proof.Machine.State) => r.2) ?_ ?_
  · refine Keeps.snd ?_
    exact (Keeps.refl _)
  · refine Keeps.iteP (fun (r : Sys2Proof.Machine.Flit × Sys2Proof.Machine.State) => r.2) ?_ ?_
    · extract_lets +onlyGivenNames -merge x0
      try clear_value x0
      split
      · refine Keeps.snd ?_
        exact Keeps.trans (Keeps.refl _) (State.setCore_keeps _ _ _)
      · refine Keeps.snd ?_
        exact (Keeps.refl _)
    · extract_lets +onlyGivenNames -merge x1
      try clear_value x1
      extract_lets +onlyGivenNames -merge x2
      try clear_value x2
      split
      · refine Keeps.snd ?_
        exact (Keeps.refl _)
      · extract_lets +onlyGivenNames -merge x3
        have h4 : Keeps s x3 := by
          unfold x3
          try beta_reduce
          refine Keeps.ite ?_ ?_
          · exact Keeps.trans (Keeps.refl _) (State.readWin_keeps _ _ _ _ _ _ _)
          · exact (Keeps.refl _)
        try clear_value x3
        extract_lets +onlyGivenNames -merge x5
        have h6 : Keeps s x5 := by
          unfold x5
          try beta_reduce
          refine Keeps.ite ?_ ?_
          · exact Keeps.trans h4 (State.readWin_keeps _ _ _ _ _ _ _)
          · exact h4
        try clear_value x5
        extract_lets +onlyGivenNames -merge x7
        try clear_value x7
        split
        · exact h6
        · extract_lets +onlyGivenNames -merge x8
          have h9 : Keeps s x8 := by
            unfold x8
            try beta_reduce
            exact Keeps.trans h6 (State.setRouter_keeps _ _ _)
          try clear_value x8
          exact h9

theorem State.openAhead_keeps : ∀ s p1 p2 p3 p4 p5, Keeps s (@State.openAhead s p1 p2 p3 p4 p5).2 := by
  intro s p1 p2 p3 p4 p5
  unfold State.openAhead
  extract_lets +onlyGivenNames -merge x0
  have h1 : Keeps s x0.2.2 := by
    unfold x0
    try beta_reduce
    exact Keeps.trans (Keeps.refl _) (State.readWinEntry_keeps _ _ _)
  try clear_value x0
  extract_lets +onlyGivenNames -merge x2
  have h3 : Keeps s x2 := by
    unfold x2
    try beta_reduce
    exact h1
  try clear_value x2
  refine Keeps.iteP (fun (r : Option ℕ × Sys2Proof.Machine.State) => r.2) ?_ ?_
  · refine Keeps.snd ?_
    exact Keeps.trans h3 (State.meshFault_keeps _ _ _ _ _ _)
  · extract_lets +onlyGivenNames -merge x4
    try clear_value x4
    extract_lets +onlyGivenNames -merge x5
    try clear_value x5
    extract_lets +onlyGivenNames -merge x6
    try clear_value x6
    refine Keeps.snd ?_
    exact Keeps.trans h3 (State.setRouter_keeps _ _ _)

theorem State.startRead_keeps : ∀ s p1 p2 p3 p4 p5, Keeps s (@State.startRead s p1 p2 p3 p4 p5) := by
  intro s p1 p2 p3 p4 p5
  unfold State.startRead
  split
  · exact (Keeps.refl _)
  · extract_lets +onlyGivenNames -merge x0
    try clear_value x0
    refine Keeps.ite ?_ ?_
    · exact (Keeps.refl _)
    · extract_lets +onlyGivenNames -merge x1
      have h2 : Keeps s x1.2 := by
        unfold x1
        try beta_reduce
        exact Keeps.trans (Keeps.refl _) (State.openAhead_keeps _ _ _ _ _ _)
      try clear_value x1
      split
      · exact h2
      · extract_lets +onlyGivenNames -merge x3
        have h4 : Keeps s x3 := by
          unfold x3
          try beta_reduce
          exact h2
        try clear_value x3
        extract_lets +onlyGivenNames -merge x5
        try clear_value x5
        extract_lets +onlyGivenNames -merge x6
        try clear_value x6
        exact Keeps.trans h4 (State.setCore_keeps _ _ _)

theorem State.loseUnrouted_keeps : ∀ s p1 p2 p3 p4, Keeps s (@State.loseUnrouted s p1 p2 p3 p4) := by
  intro s p1 p2 p3 p4
  unfold State.loseUnrouted
  refine Keeps.foldl ?_ ?_
  · exact (Keeps.refl _)
  · intro a0 b1 ht2
    try beta_reduce
    refine Keeps.trans ?_ (State.meshFault_keeps _ _ _ _ _ _)
    exact Keeps.trans ht2 (State.orReg_keeps _ _ _)

theorem State.readAhead_keeps : ∀ s p1, Keeps s (@State.readAhead s p1) := by
  intro s p1
  unfold State.readAhead
  extract_lets +onlyGivenNames -merge x0
  try clear_value x0
  split
  · exact Keeps.trans (Keeps.refl _) (State.startRead_keeps _ _ _ _ _ _)
  · exact (Keeps.refl _)

theorem State.routerEnd_keeps : ∀ s p1 p2, Keeps s (@State.routerEnd s p1 p2) := by
  intro s p1 p2
  unfold State.routerEnd
  extract_lets +onlyGivenNames -merge x0
  try clear_value x0
  exact Keeps.trans (Keeps.refl _) (State.setRouter_keeps _ _ _)

theorem State.primeRouter_keeps : ∀ s p1, Keeps s (@State.primeRouter s p1) := by
  intro s p1
  unfold State.primeRouter
  extract_lets +onlyGivenNames -merge x0
  try clear_value x0
  extract_lets +onlyGivenNames -merge x1
  have h4 : ∀ y2 y3, Keeps y2 (x1 y2 y3) := by
    intro y2 y3
    unfold x1
    try beta_reduce
    split
    · exact (Keeps.refl _)
    · split
      · exact (Keeps.refl _)
      · extract_lets +onlyGivenNames -merge x5
        have h6 : Keeps y2 x5.2 := by
          unfold x5
          try beta_reduce
          exact Keeps.trans (Keeps.refl _) (State.openAhead_keeps _ _ _ _ _ _)
        try clear_value x5
        split
        · exact h6
        · extract_lets +onlyGivenNames -merge x7
          have h8 : Keeps y2 x7 := by
            unfold x7
            try beta_reduce
            exact Keeps.trans h6 (State.readWin_keeps _ _ _ _ _ _ _)
          try clear_value x7
          refine Keeps.ite ?_ ?_
          · exact Keeps.trans h8 (State.readWin_keeps _ _ _ _ _ _ _)
          · extract_lets +onlyGivenNames -merge x9
            try clear_value x9
            exact Keeps.trans h8 (State.setCore_keeps _ _ _)
  try clear_value x1
  refine Keeps.trans ?_ (h4 _ _)
  exact Keeps.trans (Keeps.refl _) (h4 _ _)

theorem State.applyEntry_keeps : ∀ s p1 p2 p3, Keeps s (@State.applyEntry s p1 p2 p3) := by
  intro s p1 p2 p3
  unfold State.applyEntry
  extract_lets +onlyGivenNames -merge x0
  try clear_value x0
  extract_lets +onlyGivenNames -merge x1
  have h2 : Keeps s x1.1 := by
    unfold x1
    try beta_reduce
    exact Keeps.trans (Keeps.refl _) (State.takeInputs_keeps _ _ _)
  try clear_value x1
  extract_lets +onlyGivenNames -merge x3
  try clear_value x3
  extract_lets +onlyGivenNames -merge x4
  have h5 : Keeps s x4.2 := by
    unfold x4
    try beta_reduce
    exact Keeps.trans h2 (State.localInput_keeps _ _ _ _)
  try clear_value x4
  extract_lets +onlyGivenNames -merge x6
  have h7 : Keeps s x6 := by
    unfold x6
    try beta_reduce
    exact h5
  try clear_value x6
  extract_lets +onlyGivenNames -merge x8
  try clear_value x8
  extract_lets +onlyGivenNames -merge x9
  try clear_value x9
  extract_lets +onlyGivenNames -merge x10
  have h11 : Keeps s x10 := by
    unfold x10
    try beta_reduce
    exact Keeps.trans h7 (State.loseUnrouted_keeps _ _ _ _ _)
  try clear_value x10
  extract_lets +onlyGivenNames -merge x12
  have h13 : Keeps s x12 := by
    unfold x12
    try beta_reduce
    refine Keeps.foldl ?_ ?_
    · exact h11
    · intro a14 b15 ht16
      try beta_reduce
      refine Keeps.ite ?_ ?_
      · exact Keeps.trans ht16 (State.takeIngress_keeps _ _ _)
      · exact ht16
  try clear_value x12
  extract_lets +onlyGivenNames -merge x17
  have h18 : Keeps s x17 := by
    unfold x17
    try beta_reduce
    refine Keeps.foldl ?_ ?_
    · exact h13
    · intro a19 b20 ht21
      try beta_reduce
      exact Keeps.trans ht21 (State.sendPort_keeps _ _ _ _ _ _)
  try clear_value x17
  extract_lets +onlyGivenNames -merge x22
  have h23 : Keeps s x22 := by
    unfold x22
    try beta_reduce
    refine Keeps.ite ?_ ?_
    · exact Keeps.trans h18 (State.tally_keeps _ _ _ _ _)
    · exact h18
  try clear_value x22
  extract_lets +onlyGivenNames -merge x24
  have h25 : Keeps s x24 := by
    unfold x24
    try beta_reduce
    refine Keeps.ite ?_ ?_
    · exact Keeps.trans h23 (State.deliverLocal_keeps _ _ _ _ _ _)
    · exact h23
  try clear_value x24
  extract_lets +onlyGivenNames -merge x26
  have h29 : ∀ y27 y28, Keeps y27 (x26 y27 y28) := by
    intro y27 y28
    unfold x26
    try beta_reduce
    extract_lets +onlyGivenNames -merge x30
    try clear_value x30
    refine Keeps.ite ?_ ?_
    · exact (Keeps.refl _)
    · extract_lets +onlyGivenNames -merge x31
      try clear_value x31
      exact Keeps.trans (Keeps.refl _) (State.setRouter_keeps _ _ _)
  try clear_value x26
  extract_lets +onlyGivenNames -merge x32
  have h33 : Keeps s x32 := by
    unfold x32
    try beta_reduce
    exact Keeps.trans h25 (h29 _ _)
  try clear_value x32
  exact Keeps.trans h33 (h29 _ _)

theorem execRouteEntryApply_keeps : ∀ p0 s, Good s (@execRouteEntryApply p0 s) := by
  intro p0 s
  unfold execRouteEntryApply
  split
  · refine ⟨_, rfl, ?_⟩
    exact (Keeps.refl _)
  · extract_lets +onlyGivenNames -merge x0
    try clear_value x0
    extract_lets +onlyGivenNames -merge x1
    try clear_value x1
    refine Good.ite ?_ ?_
    · refine ⟨_, rfl, ?_⟩
      exact (Keeps.refl _)
    · refine Good.ite ?_ ?_
      · refine ⟨_, rfl, ?_⟩
        refine Keeps.trans ?_ (State.routerEnd_keeps _ _ _)
        exact Keeps.trans (Keeps.refl _) (State.loseUnrouted_keeps _ _ _ _ _)
      · extract_lets +onlyGivenNames -merge x2
        have h3 : Keeps s x2 := by
          unfold x2
          try beta_reduce
          exact Keeps.trans (Keeps.refl _) (State.readAhead_keeps _ _)
        try clear_value x2
        extract_lets +onlyGivenNames -merge x4
        have h5 : Keeps s x4.2 := by
          unfold x4
          try beta_reduce
          exact Keeps.trans h3 (State.fetchRoute_keeps _ _ _ _)
        try clear_value x4
        split
        · refine ⟨_, rfl, ?_⟩
          refine Keeps.trans ?_ (State.routerEnd_keeps _ _ _)
          refine Keeps.trans ?_ (State.loseUnrouted_keeps _ _ _ _ _)
          exact Keeps.trans h5 (State.meshFault_keeps _ _ _ _ _ _)
        · refine Good.ite ?_ ?_
          · refine ⟨_, rfl, ?_⟩
            refine Keeps.trans ?_ (State.routerEnd_keeps _ _ _)
            refine Keeps.trans ?_ (State.loseUnrouted_keeps _ _ _ _ _)
            exact Keeps.trans h5 (State.meshFault_keeps _ _ _ _ _ _)
          · refine ⟨_, rfl, ?_⟩
            refine Keeps.trans ?_ (State.routerEnd_keeps _ _ _)
            exact Keeps.trans h5 (State.applyEntry_keeps _ _ _ _)

end Sys2Proof.Machine
end

