-- ==== Sys2Proof/Laws/Maint.lean ====
section
/-! SUPPORT. What the operations of Machine/Maint.lean keep: the queue of waiting commands and the canonical form of the state
(Keeps); and that its commands answer a next state (Good). -/

namespace Sys2Proof.Machine

theorem State.rewriteBeat_keeps : ∀ s p1 p2, Keeps s (@State.rewriteBeat s p1 p2).2 := by
  intro s p1 p2
  unfold State.rewriteBeat
  extract_lets +onlyGivenNames -merge x0
  try clear_value x0
  extract_lets +onlyGivenNames -merge x1
  have h2 : Keeps s x1 := by
    unfold x1
    exact Keeps.trans (Keeps.refl _) (State.countBeat_keeps _ _ _)
  try clear_value x1
  split
  · refine Keeps.snd ?_
    exact Keeps.trans h2 (State.writeBeat_keeps _ _ _ _ _)
  · refine Keeps.snd ?_
    exact Keeps.trans h2 (State.writeBeat_keeps _ _ _ _ _)
  · refine Keeps.snd ?_
    exact h2

theorem State.scrubBeat_keeps : ∀ s p1 p2, Keeps s (@State.scrubBeat s p1 p2) := by
  intro s p1 p2
  unfold State.scrubBeat
  extract_lets +onlyGivenNames -merge x0
  try clear_value x0
  extract_lets +onlyGivenNames -merge x1
  have h2 : Keeps s x1.2 := by
    unfold x1
    exact Keeps.trans (Keeps.refl _) (State.rewriteBeat_keeps _ _ _)
  try clear_value x1
  extract_lets +onlyGivenNames -merge x3
  have h4 : Keeps s x3 := by
    unfold x3
    exact h2
  try clear_value x3
  extract_lets +onlyGivenNames -merge x5
  try clear_value x5
  extract_lets +onlyGivenNames -merge x6
  try clear_value x6
  extract_lets +onlyGivenNames -merge x7
  try clear_value x7
  extract_lets +onlyGivenNames -merge x8
  try clear_value x8
  exact Keeps.trans h4 (State.setSlice_keeps _ _ _)

theorem State.passBeat_keeps : ∀ s p1 p2 p3, Keeps s (@State.passBeat s p1 p2 p3) := by
  intro s p1 p2 p3
  unfold State.passBeat
  extract_lets +onlyGivenNames -merge x0
  try clear_value x0
  split
  · exact Keeps.trans (Keeps.refl _) (State.setSlice_keeps _ _ _)
  · extract_lets +onlyGivenNames -merge x1
    try clear_value x1
    extract_lets +onlyGivenNames -merge x2
    have h3 : Keeps s x2.2.2 := by
      unfold x2
      exact Keeps.trans (Keeps.refl _) (State.readBeat_keeps _ _ _)
    try clear_value x2
    extract_lets +onlyGivenNames -merge x4
    try clear_value x4
    extract_lets +onlyGivenNames -merge x5
    try clear_value x5
    extract_lets +onlyGivenNames -merge x6
    try clear_value x6
    extract_lets +onlyGivenNames -merge x7
    try clear_value x7
    exact Keeps.trans h3 (State.setSlice_keeps _ _ _)

theorem execMaintenanceBeat.work_keeps : ∀ p0 s p2, Keeps s (@execMaintenanceBeat.work p0 s p2) := by
  intro p0 s p2
  unfold execMaintenanceBeat.work
  split
  · refine Keeps.ite ?_ ?_
    · extract_lets +onlyGivenNames -merge x0
      have h1 : Keeps s x0 := by
        unfold x0
        exact Keeps.trans (Keeps.refl _) (State.rewriteBeat_keeps _ _ _)
      try clear_value x0
      exact Keeps.trans h1 (State.setSlice_keeps _ _ _)
    · exact (Keeps.refl _)
  · split
    · extract_lets +onlyGivenNames -merge x2
      have h3 : Keeps s x2 := by
        unfold x2
        exact Keeps.trans (Keeps.refl _) (State.setSlice_keeps _ _ _)
      try clear_value x2
      extract_lets +onlyGivenNames -merge x4
      have h5 : Keeps s x4 := by
        unfold x4
        exact Keeps.trans h3 (State.rewriteBeat_keeps _ _ _)
      try clear_value x4
      exact Keeps.trans h5 (State.setSlice_keeps _ _ _)
    · split
      · refine Keeps.ite ?_ ?_
        · exact Keeps.trans (Keeps.refl _) (State.scrubBeat_keeps _ _ _)
        · exact (Keeps.refl _)
      · exact (Keeps.refl _)

theorem execMaintenanceBeat_keeps : ∀ p0 s, Good s (@execMaintenanceBeat p0 s) := by
  intro p0 s
  unfold execMaintenanceBeat
  split
  · refine ⟨_, rfl, ?_⟩
    exact (Keeps.refl _)
  · extract_lets +onlyGivenNames -merge x0 x1
    try clear_value x0
    try clear_value x1
    extract_lets +onlyGivenNames -merge x2
    have h3 : Keeps s x2 := by
      unfold x2
      exact Keeps.trans (Keeps.refl _) (State.setSlice_keeps _ _ _)
    try clear_value x2
    split
    · refine Good.ite ?_ ?_
      · refine ⟨_, rfl, ?_⟩
        exact Keeps.trans h3 (State.passBeat_keeps _ _ _ _)
      · refine ⟨_, rfl, ?_⟩
        exact Keeps.trans h3 (execMaintenanceBeat.work_keeps _ _ _)
    · refine ⟨_, rfl, ?_⟩
      exact Keeps.trans h3 (execMaintenanceBeat.work_keeps _ _ _)

theorem execSpareRowCopyDone_keeps : ∀ p0 s, Good s (@execSpareRowCopyDone p0 s) := by
  intro p0 s
  unfold execSpareRowCopyDone
  extract_lets +onlyGivenNames -merge x0
  try clear_value x0
  split
  · extract_lets +onlyGivenNames -merge x1
    try clear_value x1
    extract_lets +onlyGivenNames -merge x2
    have h3 : Keeps s x2 := by
      unfold x2
      exact Keeps.trans (Keeps.refl _) (State.setSlice_keeps _ _ _)
    try clear_value x2
    refine ⟨_, rfl, ?_⟩
    exact Keeps.trans h3 (State.setField_keeps _ _ _ _ _)
  · refine ⟨_, rfl, ?_⟩
    exact (Keeps.refl _)

end Sys2Proof.Machine
end

