-- ==== Sys2Proof/Laws/Dma.lean ====
section
/-! SUPPORT. What the operations of Machine/Dma.lean keep: the queue of waiting commands and the canonical form of the state
(Keeps); and that its commands answer a next state (Good). -/

namespace Sys2Proof.Machine

theorem State.engToken_keeps : ∀ s p1 p2 p3 p4, Keeps s (@State.engToken s p1 p2 p3 p4) := by
  intro s p1 p2 p3 p4
  unfold State.engToken
  split
  · exact Keeps.trans (Keeps.refl _) (State.svcToken_keeps _ _ _ _ _ _)
  · exact Keeps.trans (Keeps.refl _) (State.tokenAdd_keeps _ _ _ _ _)

theorem State.engRead_keeps : ∀ s p1 p2 p3, Keeps s (@State.engRead s p1 p2 p3).2.2 := by
  intro s p1 p2 p3
  unfold State.engRead
  split
  · exact Keeps.trans (Keeps.refl _) (State.ccRead_keeps _ _ _ _)
  · exact Keeps.trans (Keeps.refl _) (State.devRead_keeps _ _ _)

theorem State.engWrite_keeps : ∀ s p1 p2 p3 p4 p5, Keeps s (@State.engWrite s p1 p2 p3 p4 p5) := by
  intro s p1 p2 p3 p4 p5
  unfold State.engWrite
  split
  · exact Keeps.trans (Keeps.refl _) (State.ccWrite_keeps _ _ _ _ _)
  · extract_lets +onlyGivenNames -merge x0
    have h1 : Keeps s x0 := by
      unfold x0
      exact Keeps.trans (Keeps.refl _) (State.devWrite_keeps _ _ _ _)
    try clear_value x0
    refine Keeps.ite ?_ ?_
    · exact Keeps.trans h1 (State.invalidate_keeps _ _ _)
    · exact h1

theorem State.fetchDesc_keeps : ∀ s p1 p2, KeepsIn s (fun (r : BitVec 512 × Bool × Sys2Proof.Machine.State) => r.2.2) (@State.fetchDesc s p1 p2) := by
  intro s p1 p2
  unfold State.fetchDesc
  extract_lets +onlyGivenNames -merge x0
  try clear_value x0
  refine KeepsIn.ite ?_ ?_
  · exact KeepsIn.none
  · split
    · exact KeepsIn.none
    · refine KeepsIn.ite ?_ ?_
      · exact KeepsIn.none
      · extract_lets +onlyGivenNames -merge x1
        have h2 : Keeps s x1.2.2 := by
          unfold x1
          try beta_reduce
          exact Keeps.trans (Keeps.refl _) (State.engRead_keeps _ _ _ _)
        try clear_value x1
        refine KeepsIn.ite ?_ ?_
        · exact KeepsIn.none
        · refine KeepsIn.some ?_
          try beta_reduce
          exact h2

theorem State.startDesc_keeps : ∀ s p1 p2 p3 p4, (∀ y0 y1, Keeps y0 (p4 y0 y1)) → Keeps s (@State.startDesc s p1 p2 p3 p4) := by
  intro s p1 p2 p3 p4 hf4
  unfold State.startDesc
  split
  · exact (Keeps.refl _)
  · extract_lets +onlyGivenNames -merge x0
    try clear_value x0
    refine Keeps.ite ?_ ?_
    · exact (Keeps.refl _)
    · extract_lets +onlyGivenNames -merge x1
      have h2 : KeepsIn s (fun (r : BitVec 512 × Bool × Sys2Proof.Machine.State) => r.2.2) x1 := by
        unfold x1
        refine KeepsIn.ite ?_ ?_
        · refine KeepsIn.some ?_
          refine Keeps.sndP (fun (r : Bool × Sys2Proof.Machine.State) => r.2) ?_
          refine Keeps.snd ?_
          exact (Keeps.refl _)
        · exact KeepsIn.trans (Keeps.refl _) (State.fetchDesc_keeps _ _ _)
      try clear_value x1
      split
      · exact (Keeps.refl _)
      · rename Sys2Proof.Machine.State => m3
        have h4 : Keeps s m3 := (h2 _ rfl)
        refine Keeps.ite ?_ ?_
        · exact (Keeps.refl _)
        · extract_lets +onlyGivenNames -merge x5 x6
          try clear_value x5
          try clear_value x6
          refine Keeps.ite ?_ ?_
          · exact Keeps.trans h4 (State.setEngine_keeps _ _ _)
          · refine Keeps.ite ?_ ?_
            · extract_lets +onlyGivenNames -merge x7
              have h8 : Keeps s x7 := by
                unfold x7
                exact Keeps.trans h4 (State.setEngine_keeps _ _ _)
              try clear_value x7
              extract_lets +onlyGivenNames -merge x9
              have h10 : Keeps s x9 := by
                unfold x9
                refine Keeps.ite ?_ ?_
                · exact Keeps.trans h8 (State.traceHub_keeps _ _ _ _ _ _ _ _ _ _ _)
                · exact h8
              try clear_value x9
              refine Keeps.trans ?_ (hf4 _ _)
              exact h10
            · exact Keeps.trans h4 (State.setEngine_keeps _ _ _)

theorem execDmaCopy_keeps : ∀ p0 s, Good s (@execDmaCopy p0 s) := by
  intro p0 s
  unfold execDmaCopy
  refine ⟨_, rfl, ?_⟩
  refine Keeps.trans ?_ (State.startDesc_keeps _ _ _ _ _ ?_)
  · exact (Keeps.refl _)
  · intro y0 y1
    try beta_reduce
    exact (Keeps.refl _)

theorem execDmaFill_keeps : ∀ p0 s, Good s (@execDmaFill p0 s) := by
  intro p0 s
  unfold execDmaFill
  refine ⟨_, rfl, ?_⟩
  refine Keeps.trans ?_ (State.startDesc_keeps _ _ _ _ _ ?_)
  · exact (Keeps.refl _)
  · intro y0 y1
    try beta_reduce
    exact (Keeps.refl _)

theorem State.deliver_keeps : ∀ s p1 p2 p3, Keeps s (@State.deliver s p1 p2 p3) := by
  intro s p1 p2 p3
  unfold State.deliver
  extract_lets +onlyGivenNames -merge x0
  try clear_value x0
  extract_lets +onlyGivenNames -merge x1
  try clear_value x1
  extract_lets +onlyGivenNames -merge x2
  try clear_value x2
  extract_lets +onlyGivenNames -merge x3
  try clear_value x3
  extract_lets +onlyGivenNames -merge x4
  have h5 : Keeps s x4 := by
    unfold x4
    try beta_reduce
    exact Keeps.trans (Keeps.refl _) (State.setEngine_keeps _ _ _)
  try clear_value x4
  refine Keeps.ite ?_ ?_
  · exact h5
  · exact Keeps.trans h5 (State.engToken_keeps _ _ _ _ _)

theorem State.streamPut_keeps : ∀ s p1 p2 p3 p4, Keeps s (@State.streamPut s p1 p2 p3 p4) := by
  intro s p1 p2 p3 p4
  unfold State.streamPut
  extract_lets +onlyGivenNames -merge x0
  try clear_value x0
  extract_lets +onlyGivenNames -merge x1
  try clear_value x1
  split
  · exact Keeps.trans (Keeps.refl _) (State.setAtt_keeps _ _ _)
  · exact Keeps.trans (Keeps.refl _) (State.setAtt_keeps _ _ _)

theorem State.waitFull_keeps : ∀ s p1, Keeps s (@State.waitFull s p1) := by
  intro s p1
  unfold State.waitFull
  extract_lets +onlyGivenNames -merge x0
  try clear_value x0
  exact Keeps.trans (Keeps.refl _) (State.setEngine_keeps _ _ _)

theorem State.endFull_keeps : ∀ s p1 p2, Keeps s (@State.endFull s p1 p2) := by
  intro s p1 p2
  unfold State.endFull
  extract_lets +onlyGivenNames -merge x0
  try clear_value x0
  split
  · refine Keeps.trans ?_ (State.traceHub_keeps _ _ _ _ _ _ _ _ _ _ _)
    · exact Keeps.trans (Keeps.refl _) (State.setEngine_keeps _ _ _)
  · exact (Keeps.refl _)

theorem State.srcGranule_keeps : ∀ s p1 p2 p3 p4 p5, KeepsIn s (fun (r : Sys2Proof.Bytes × Nat × Sys2Proof.Machine.State) => r.2.2) (@State.srcGranule s p1 p2 p3 p4 p5) := by
  intro s p1 p2 p3 p4 p5
  unfold State.srcGranule
  extract_lets +onlyGivenNames -merge x0
  try clear_value x0
  extract_lets +onlyGivenNames -merge x1
  try clear_value x1
  refine KeepsIn.ite ?_ ?_
  · refine KeepsIn.some ?_
    refine Keeps.sndP (fun (r : Nat × Sys2Proof.Machine.State) => r.2) ?_
    refine Keeps.snd ?_
    exact (Keeps.refl _)
  · refine KeepsIn.ite ?_ ?_
    · refine KeepsIn.some ?_
      refine Keeps.sndP (fun (r : Nat × Sys2Proof.Machine.State) => r.2) ?_
      refine Keeps.snd ?_
      exact Keeps.trans (Keeps.refl _) (State.free_keeps _ _)
    · extract_lets +onlyGivenNames -merge x2
      try clear_value x2
      split
      · extract_lets +onlyGivenNames -merge x3
        try clear_value x3
        extract_lets +onlyGivenNames -merge x4
        try clear_value x4
        split
        · exact KeepsIn.none
        · refine KeepsIn.some ?_
          refine Keeps.sndP (fun (r : Nat × Sys2Proof.Machine.State) => r.2) ?_
          refine Keeps.snd ?_
          exact Keeps.trans (Keeps.refl _) (State.setAtt_keeps _ _ _)
      · extract_lets +onlyGivenNames -merge x5
        have h6 : Keeps s x5 := by
          unfold x5
          refine Keeps.trans ?_ (State.tally_keeps _ _ _ _ _)
          · exact Keeps.trans (Keeps.refl _) (State.tally_keeps _ _ _ _ _)
        try clear_value x5
        refine KeepsIn.ite ?_ ?_
        · refine KeepsIn.some ?_
          refine Keeps.sndP (fun (r : Nat × Sys2Proof.Machine.State) => r.2) ?_
          refine Keeps.snd ?_
          exact Keeps.trans h6 (State.free_keeps _ _)
        · refine KeepsIn.some ?_
          refine Keeps.sndP (fun (r : Nat × Sys2Proof.Machine.State) => r.2) ?_
          refine Keeps.snd ?_
          exact h6
      · split
        · refine KeepsIn.some ?_
          refine Keeps.sndP (fun (r : Nat × Sys2Proof.Machine.State) => r.2) ?_
          refine Keeps.snd ?_
          exact Keeps.trans (Keeps.refl _) (State.free_keeps _ _)
        · extract_lets +onlyGivenNames -merge x7
          have h8 : Keeps s x7.2.2 := by
            unfold x7
            exact Keeps.trans (Keeps.refl _) (State.engRead_keeps _ _ _ _)
          try clear_value x7
          refine KeepsIn.some ?_
          refine Keeps.sndP (fun (r : Nat × Sys2Proof.Machine.State) => r.2) ?_
          refine Keeps.snd ?_
          exact h8

theorem State.dstGranule_keeps : ∀ s p1 p2 p3 p4 p5, Keeps s (@State.dstGranule s p1 p2 p3 p4 p5) := by
  intro s p1 p2 p3 p4 p5
  unfold State.dstGranule
  extract_lets +onlyGivenNames -merge x0
  try clear_value x0
  extract_lets +onlyGivenNames -merge x1
  have h2 : Keeps s x1 := by
    unfold x1
    try beta_reduce
    refine Keeps.trans ?_ (State.tally_keeps _ _ _ _ _)
    exact Keeps.trans (Keeps.refl _) (State.tally_keeps _ _ _ _ _)
  try clear_value x1
  extract_lets +onlyGivenNames -merge x3
  try clear_value x3
  extract_lets +onlyGivenNames -merge x4
  have h5 : Keeps s x4 := by
    unfold x4
    try beta_reduce
    split
    · refine Keeps.trans ?_ (State.streamPut_keeps _ _ _ _ _)
      exact Keeps.trans (Keeps.refl _) (State.endFull_keeps _ _ _)
    · exact Keeps.trans h2 (State.send_keeps _ _)
    · split
      · exact Keeps.trans (Keeps.refl _) (State.engWrite_keeps _ _ _ _ _ _)
      · exact Keeps.trans (Keeps.refl _) (State.setEngine_keeps _ _ _)
  try clear_value x4
  extract_lets +onlyGivenNames -merge x6
  try clear_value x6
  extract_lets +onlyGivenNames -merge x7
  have h8 : Keeps s x7 := by
    unfold x7
    try beta_reduce
    exact Keeps.trans h5 (State.setEngine_keeps _ _ _)
  try clear_value x7
  refine Keeps.ite ?_ ?_
  · exact h8
  · exact Keeps.trans h8 (State.deliver_keeps _ _ _ _)

theorem execDmaGranuleMove_keeps : ∀ p0 p1 p2 s, Good s (@execDmaGranuleMove p0 p1 p2 s) := by
  intro p0 p1 p2 s
  unfold execDmaGranuleMove
  split
  · refine ⟨_, rfl, ?_⟩
    exact (Keeps.refl _)
  · extract_lets +onlyGivenNames -merge x0
    try clear_value x0
    extract_lets +onlyGivenNames -merge x1
    try clear_value x1
    refine Good.ite ?_ ?_
    · refine ⟨_, rfl, ?_⟩
      exact (Keeps.refl _)
    · refine Good.ite ?_ ?_
      · refine ⟨_, rfl, ?_⟩
        exact Keeps.trans (Keeps.refl _) (State.waitFull_keeps _ _)
      · refine Good.ite ?_ ?_
        · split
          · rename_i m2 hq3
            refine ⟨_, rfl, ?_⟩
            exact (Keeps.refl _)
          · rename_i m4 m5 m6 m7 hq8
            have h9 : Keeps s m7 := KeepsIn.ofEq (fun (r : Sys2Proof.Bytes × ℕ × Sys2Proof.Machine.State) => r.2.2) hq8 (by
              exact State.srcGranule_keeps _ _ _ _ _ _)
            extract_lets +onlyGivenNames -merge x10
            have h11 : Keeps s x10.2 := by
              unfold x10
              try beta_reduce
              exact Keeps.trans h9 (State.parity_keeps _ _)
            try clear_value x10
            extract_lets +onlyGivenNames -merge x12
            try clear_value x12
            extract_lets +onlyGivenNames -merge x13
            have h14 : Keeps s x13 := by
              unfold x13
              try beta_reduce
              exact Keeps.trans h11 (State.setEngine_keeps _ _ _)
            try clear_value x13
            refine ⟨_, rfl, ?_⟩
            exact Keeps.trans h14 (State.dstGranule_keeps _ _ _ _ _ _)
        · refine Good.ite ?_ ?_
          · split
            · rename_i m15 hq16
              refine ⟨_, rfl, ?_⟩
              exact (Keeps.refl _)
            · rename_i m17 m18 m19 m20 hq21
              have h22 : Keeps s m20 := KeepsIn.ofEq (fun (r : Sys2Proof.Bytes × ℕ × Sys2Proof.Machine.State) => r.2.2) hq21 (by
                exact State.srcGranule_keeps _ _ _ _ _ _)
              extract_lets +onlyGivenNames -merge x23
              have h24 : Keeps s x23.2 := by
                unfold x23
                try beta_reduce
                exact Keeps.trans h22 (State.parity_keeps _ _)
              try clear_value x23
              extract_lets +onlyGivenNames -merge x25
              try clear_value x25
              refine ⟨_, rfl, ?_⟩
              exact Keeps.trans h24 (State.setEngine_keeps _ _ _)
          · extract_lets +onlyGivenNames -merge x26
            try clear_value x26
            extract_lets +onlyGivenNames -merge x27
            have h28 : Keeps s x27 := by
              unfold x27
              try beta_reduce
              exact Keeps.trans (Keeps.refl _) (State.dstGranule_keeps _ _ _ _ _ _)
            try clear_value x27
            extract_lets +onlyGivenNames -merge x29
            try clear_value x29
            extract_lets +onlyGivenNames -merge x30
            try clear_value x30
            refine ⟨_, rfl, ?_⟩
            exact Keeps.trans h28 (State.setEngine_keeps _ _ _)

theorem State.endDescriptor_keeps : ∀ s p1 p2 p3 p4, Keeps s (@State.endDescriptor s p1 p2 p3 p4) := by
  intro s p1 p2 p3 p4
  unfold State.endDescriptor
  extract_lets +onlyGivenNames -merge x0
  have h1 : Keeps s x0 := by
    unfold x0
    try beta_reduce
    refine Keeps.ite ?_ ?_
    · exact (Keeps.refl _)
    · exact Keeps.trans (Keeps.refl _) (State.deliver_keeps _ _ _ _)
  try clear_value x0
  extract_lets +onlyGivenNames -merge x2
  try clear_value x2
  extract_lets +onlyGivenNames -merge x3
  try clear_value x3
  extract_lets +onlyGivenNames -merge x4
  have h5 : Keeps s x4 := by
    unfold x4
    try beta_reduce
    split
    · refine Keeps.ite ?_ ?_
      · exact Keeps.trans h1 (State.engWrite_keeps _ _ _ _ _ _)
      · exact h1
    · exact h1
  try clear_value x4
  extract_lets +onlyGivenNames -merge x6
  have h7 : Keeps s x6 := by
    unfold x6
    try beta_reduce
    exact Keeps.trans h5 (State.setEngine_keeps _ _ _)
  try clear_value x6
  extract_lets +onlyGivenNames -merge x8
  try clear_value x8
  extract_lets +onlyGivenNames -merge x9
  have h10 : Keeps s x9 := by
    unfold x9
    try beta_reduce
    exact Keeps.trans h7 (State.traceHub_keeps _ _ _ _ _ _ _ _ _ _ _)
  try clear_value x9
  refine Keeps.ite ?_ ?_
  · exact Keeps.trans h10 (State.faultPart_keeps _ _ _ _)
  · refine Keeps.ite ?_ ?_
    · exact Keeps.trans h10 (State.engToken_keeps _ _ _ _ _)
    · exact h10

end Sys2Proof.Machine
end

