-- ==== Sys2Proof/Laws/Walk.lean ====
section
/-! SUPPORT. What the operations of Machine/Walk.lean keep: the queue of waiting commands and the canonical form of the state
(Keeps); and that its commands answer a next state (Good). -/

namespace Sys2Proof.Machine

theorem State.setWalk_keeps : ∀ s p1 p2, Keeps s (@State.setWalk s p1 p2) := by
  intro s p1 p2
  unfold State.setWalk
  exact Keeps.trans (Keeps.refl _) (State.setEngine_keeps _ _ _)

theorem State.walkSeq_keeps : ∀ s p1 p2, Keeps s (@State.walkSeq s p1 p2).2.2 := by
  intro s p1 p2
  unfold State.walkSeq
  extract_lets +onlyGivenNames -merge x0
  try clear_value x0
  split
  · refine Keeps.sndP (fun (r : Bool × Sys2Proof.Machine.State) => r.2) ?_
    refine Keeps.snd ?_
    exact (Keeps.refl _)
  · extract_lets +onlyGivenNames -merge x1
    have h2 : Keeps s x1.2.2 := by
      unfold x1
      exact Keeps.trans (Keeps.refl _) (State.devRead_keeps _ _ _)
    try clear_value x1
    extract_lets +onlyGivenNames -merge x3
    try clear_value x3
    refine Keeps.sndP (fun (r : Bool × Sys2Proof.Machine.State) => r.2) ?_
    refine Keeps.snd ?_
    exact Keeps.trans h2 (State.setWalk_keeps _ _ _)

theorem State.walkList_keeps : ∀ s p1 p2 p3 p4, Keeps s (@State.walkList s p1 p2 p3 p4).2 := by
  intro s p1 p2 p3 p4
  unfold State.walkList
  extract_lets +onlyGivenNames -merge x0
  try clear_value x0
  split
  · refine Keeps.snd ?_
    exact (Keeps.refl _)
  · split
    · refine Keeps.snd ?_
      exact (Keeps.refl _)
    · refine Keeps.iteP (fun (r : Option (Sys2Proof.DWord × Bool) × Sys2Proof.Machine.State) => r.2) ?_ ?_
      · refine Keeps.snd ?_
        exact (Keeps.refl _)
      · extract_lets +onlyGivenNames -merge x1
        have h2 : Keeps s x1.2.2 := by
          unfold x1
          try beta_reduce
          exact Keeps.trans (Keeps.refl _) (State.devRead_keeps _ _ _)
        try clear_value x1
        extract_lets +onlyGivenNames -merge x3
        try clear_value x3
        refine Keeps.snd ?_
        exact Keeps.trans h2 (State.setWalk_keeps _ _ _)

theorem State.noteList_keeps : ∀ s p1 p2 p3, Keeps s (@State.noteList s p1 p2 p3) := by
  intro s p1 p2 p3
  unfold State.noteList
  extract_lets +onlyGivenNames -merge x0
  try clear_value x0
  exact Keeps.trans (Keeps.refl _) (State.setWalk_keeps _ _ _)

theorem State.forgetList_keeps : ∀ s p1 p2, Keeps s (@State.forgetList s p1 p2) := by
  intro s p1 p2
  unfold State.forgetList
  extract_lets +onlyGivenNames -merge x0
  try clear_value x0
  exact Keeps.trans (Keeps.refl _) (State.setWalk_keeps _ _ _)

theorem State.partAtomic_keeps : ∀ s p1 p2 p3 p4, (∀ y0 y1, Keeps y0 (p4 y0 y1).st) → Keeps s (@State.partAtomic s p1 p2 p3 p4).st := by
  intro s p1 p2 p3 p4 hf
  unfold State.partAtomic
  split
  · exact Keeps.iteP (fun (r : ARes) => r.st) (Keeps.ares (Keeps.refl _)) (hf _ _)
  · exact Keeps.ares (Keeps.refl _)

theorem State.popPool_keeps : ∀ s p1 p2 p3 p4, Keeps s (@State.popPool s p1 p2 p3 p4).2 := by
  intro s p1 p2 p3 p4
  unfold State.popPool
  extract_lets +onlyGivenNames -merge pl
  clear_value pl
  refine Keeps.iteP (fun (r : PageRes × State) => r.2) (Keeps.refl s) ?_
  extract_lets +onlyGivenNames -merge r
  have hr : Keeps s r.st := State.partAtomic_keeps _ _ _ _ _ (fun _ _ => State.pop_keeps _ _ _ _ _)
  clear_value r
  exact Keeps.iteP (fun (r : PageRes × State) => r.2) hr (Keeps.iteP (fun (r : PageRes × State) => r.2) hr hr)

theorem State.alloc_keeps : ∀ s p1 p2 p3 p4, Keeps s (@State.alloc s p1 p2 p3 p4).2 := by
  intro s p1 p2 p3 p4
  unfold State.alloc
  extract_lets +onlyGivenNames -merge x0
  have h1 : Keeps s x0.2 := by
    unfold x0
    exact Keeps.trans (Keeps.refl _) (State.popPool_keeps _ _ _ _ _)
  try clear_value x0
  split
  · extract_lets +onlyGivenNames -merge x2
    have h3 : Keeps s x2.st := by
      unfold x2
      refine Keeps.trans ?_ (State.partAtomic_keeps _ _ _ _ _ ?_)
      · exact h1
      · intro y4 y5
        try beta_reduce
        exact Keeps.trans (Keeps.refl _) (State.refinc_keeps _ _ _)
    try clear_value x2
    refine Keeps.iteP (fun (r : Sys2Proof.Machine.PageRes × Sys2Proof.Machine.State) => r.2) ?_ ?_
    · refine Keeps.snd ?_
      exact h3
    · refine Keeps.snd ?_
      exact h3
  · exact h1

theorem State.release_keeps : ∀ s p1 p2 p3 p4, Keeps s (@State.release s p1 p2 p3 p4).2 := by
  intro s p1 p2 p3 p4
  unfold State.release
  extract_lets +onlyGivenNames -merge c
  have hc : Keeps s c.st := State.partAtomic_keeps _ _ _ _ _ (fun _ _ => State.refdec_keeps _ _ _)
  clear_value c
  refine Keeps.iteP (fun (r : Bool × State) => r.2) hc (Keeps.iteP (fun (r : Bool × State) => r.2) ?_ hc)
  exact Keeps.trans hc (State.partAtomic_keeps _ _ _ _ _ (fun _ _ => State.push_keeps _ _ _ _ _ _))

theorem State.walkRelease_keeps : ∀ s p1 p2 p3 p4, Keeps s (@State.walkRelease s p1 p2 p3 p4) := by
  intro s p1 p2 p3 p4
  unfold State.walkRelease
  extract_lets +onlyGivenNames -merge x0
  have h1 : Keeps s x0.2 := by
    unfold x0
    try beta_reduce
    exact Keeps.trans (Keeps.refl _) (State.release_keeps _ _ _ _ _)
  try clear_value x0
  refine Keeps.ite ?_ ?_
  · exact h1
  · exact Keeps.trans h1 (State.countField_keeps _ _ _ _ _)

theorem State.walkWrite_keeps : ∀ s p1 p2 p3 p4, Keeps s (@State.walkWrite s p1 p2 p3 p4) := by
  intro s p1 p2 p3 p4
  unfold State.walkWrite
  extract_lets +onlyGivenNames -merge x0
  have h1 : Keeps s x0 := by
    unfold x0
    exact Keeps.trans (Keeps.refl _) (State.devWrite_keeps _ _ _ _)
  try clear_value x0
  refine Keeps.ite ?_ ?_
  · exact Keeps.trans h1 (State.invalidate_keeps _ _ _)
  · exact h1

theorem State.copyPage_keeps : ∀ s p1 p2 p3 p4, Keeps s (@State.copyPage s p1 p2 p3 p4).2 := by
  intro s p1 p2 p3 p4
  induction p4 with
  | zero => exact Keeps.refl s
  | succ n ih => exact Keeps.trans (Keeps.trans ih (State.devRead_keeps _ _ _)) (State.walkWrite_keeps _ _ _ _ _)

theorem State.ownPage_keeps : ∀ s p1 p2 p3 p4 p5 p6 p7, Keeps s (@State.ownPage s p1 p2 p3 p4 p5 p6 p7).2 := by
  intro s d p k q pa b e
  unfold State.ownPage
  extract_lets +onlyGivenNames -merge cas
  have hcas : ∀ y0 y1, Keeps y0 (cas y0 y1).st := fun y0 y1 =>
    State.partAtomic_keeps _ _ _ _ _ (fun _ _ => State.cas64_keeps _ _ _ _ _)
  clear_value cas
  refine Keeps.iteP (fun (r : (Placed ⊕ Nat) × State) => r.2) ?_ ?_
  · extract_lets +onlyGivenNames -merge y0 y1 x0
    have h0 : Keeps s x0 := Keeps.ite (Keeps.trans (State.walkRelease_keeps s d p k e) (State.setWalk_keeps _ _ _)) (Keeps.refl s)
    clear_value x0
    split
    · rename_i hq
      exact Keeps.ofEq (fun (r : PageRes × State) => r.2) hq (Keeps.trans h0 (State.alloc_keeps _ _ _ _ _))
    · rename_i hq
      exact Keeps.ofEq (fun (r : PageRes × State) => r.2) hq (Keeps.trans h0 (State.alloc_keeps _ _ _ _ _))
    · rename_i hq
      have h1 := Keeps.ofEq (fun (r : PageRes × State) => r.2) hq (Keeps.trans h0 (State.alloc_keeps _ _ _ _ _))
      extract_lets +onlyGivenNames -merge new r x2
      have hr : Keeps s r.st := Keeps.trans h1 (hcas _ _)
      clear_value r
      have hw := Keeps.trans hr (State.walkRelease_keeps r.st d p k new)
      refine Keeps.iteP (fun (r : (Placed ⊕ Nat) × State) => r.2) hw ?_
      refine Keeps.iteP (fun (r : (Placed ⊕ Nat) × State) => r.2) (Keeps.trans hw (State.forgetList_keeps _ _ _)) ?_
      exact Keeps.trans (Keeps.trans hr (State.noteList_keeps _ _ _ _)) (State.setWalk_keeps _ _ _)
  · refine Keeps.iteP (fun (r : (Placed ⊕ Nat) × State) => r.2) (Keeps.refl s) ?_
    split
    · rename_i hq
      exact Keeps.ofEq (fun (r : PageRes × State) => r.2) hq (State.alloc_keeps _ _ _ _ _)
    · rename_i hq
      exact Keeps.ofEq (fun (r : PageRes × State) => r.2) hq (State.alloc_keeps _ _ _ _ _)
    · rename_i hq
      have h1 := Keeps.ofEq (fun (r : PageRes × State) => r.2) hq (State.alloc_keeps _ _ _ _ _)
      extract_lets +onlyGivenNames -merge new
      split
      · extract_lets +onlyGivenNames -merge c x2 w3 x3 r
        have hc : Keeps s c.2 := Keeps.trans h1 (State.copyPage_keeps _ _ _ _ _)
        clear_value c
        have h2 : Keeps s x2 := Keeps.trans hc (State.countField_keeps _ _ _ _ _)
        clear_value x2
        have h3 : Keeps s x3 := Keeps.trans h2 (State.setWalk_keeps _ _ _)
        clear_value x3
        have hr : Keeps s r.st := Keeps.trans h3 (hcas _ _)
        clear_value r
        have hw := Keeps.trans hr (State.walkRelease_keeps r.st d p k new)
        refine Keeps.iteP (fun (r : (Placed ⊕ Nat) × State) => r.2) hw ?_
        refine Keeps.iteP (fun (r : (Placed ⊕ Nat) × State) => r.2) (Keeps.trans hw (State.forgetList_keeps _ _ _)) ?_
        exact Keeps.trans (Keeps.trans hr (State.walkRelease_keeps _ _ _ _ _)) (State.noteList_keeps _ _ _ _)
      · exact Keeps.trans h1 (State.walkRelease_keeps _ _ _ _ _)

theorem State.putChunk_keeps : ∀ s p1 p2 p3 p4 p5 p6 p7, KeepsIn s (fun (r : Sys2Proof.Machine.State) => r) (@State.putChunk s p1 p2 p3 p4 p5 p6 p7) := by
  intro s p1 p2 p3 p4 p5 p6 p7
  unfold State.putChunk
  split
  · refine KeepsIn.some ?_
    exact Keeps.trans (Keeps.refl _) (State.walkWrite_keeps _ _ _ _ _)
  · exact KeepsIn.none

theorem State.globalSlot_keeps : ∀ s p1 p2 p3 p4 p5, Keeps s (@State.globalSlot s p1 p2 p3 p4 p5).2.2 := by
  intro s p1 p2 p3 p4 p5
  induction p5 with
  | zero => exact Keeps.refl s
  | succ n ih =>
    have h := Keeps.trans ih (State.walkList_keeps _ p1 p2 (p3.list + 4 * n) 4)
    rw [State.globalSlot]
    split
    · exact h
    · exact h

theorem State.globalNeed_keeps : ∀ s p1 p2 p3 p4 p5 p6, Keeps s (@State.globalNeed s p1 p2 p3 p4 p5 p6).2 := by
  intro s p1 p2 p3 p4 p5 p6
  unfold State.globalNeed
  refine Keeps.iteP (fun (r : (Sys2Proof.Machine.Placed ⊕ Option (Nat × Sys2Proof.DWord × Nat)) × Sys2Proof.Machine.State) => r.2) ?_ ?_
  · refine Keeps.snd ?_
    exact (Keeps.refl _)
  · split
    · rename Sys2Proof.Machine.State => m0
      rename _ = _ => hq2
      have h1 : Keeps s m0 := Keeps.ofEq (fun (r : Option Nat × Bool × Sys2Proof.Machine.State) => r.2.2) hq2 (by
          exact Keeps.trans (Keeps.refl _) (State.globalSlot_keeps _ _ _ _ _ _)
        )
      refine Keeps.snd ?_
      exact h1
    · rename Sys2Proof.Machine.State => m3
      rename _ = _ => hq5
      have h4 : Keeps s m3 := Keeps.ofEq (fun (r : Option Nat × Bool × Sys2Proof.Machine.State) => r.2.2) hq5 (by
          exact Keeps.trans (Keeps.refl _) (State.globalSlot_keeps _ _ _ _ _ _)
        )
      refine Keeps.snd ?_
      exact h4
    · rename Sys2Proof.Machine.State => m6
      rename _ = _ => hq8
      have h7 : Keeps s m6 := Keeps.ofEq (fun (r : Option Nat × Bool × Sys2Proof.Machine.State) => r.2.2) hq8 (by
          exact Keeps.trans (Keeps.refl _) (State.globalSlot_keeps _ _ _ _ _ _)
        )
      extract_lets +onlyGivenNames -merge x9
      try clear_value x9
      split
      · rename Sys2Proof.Machine.State => m10
        rename _ = _ => hq12
        have h11 : Keeps s m10 := Keeps.ofEq (fun (r : Option (Sys2Proof.DWord × Bool) × Sys2Proof.Machine.State) => r.2) hq12 (by
            exact Keeps.trans h7 (State.walkList_keeps _ _ _ _ _)
          )
        refine Keeps.snd ?_
        exact h11
      · rename Sys2Proof.Machine.State => m13
        rename _ = _ => hq15
        have h14 : Keeps s m13 := Keeps.ofEq (fun (r : Option (Sys2Proof.DWord × Bool) × Sys2Proof.Machine.State) => r.2) hq15 (by
            exact Keeps.trans h7 (State.walkList_keeps _ _ _ _ _)
          )
        refine Keeps.snd ?_
        exact h14
      · rename Sys2Proof.Machine.State => m16
        rename _ = _ => hq18
        have h17 : Keeps s m16 := Keeps.ofEq (fun (r : Option (Sys2Proof.DWord × Bool) × Sys2Proof.Machine.State) => r.2) hq18 (by
            exact Keeps.trans h7 (State.walkList_keeps _ _ _ _ _)
          )
        refine Keeps.snd ?_
        exact h17

theorem State.putEntry_keeps : ∀ s p1 p2 p3 p4 p5 p6 p7, Keeps s (@State.putEntry s p1 p2 p3 p4 p5 p6 p7).2 := by
  intro s p1 p2 p3 p4 p5 p6 p7
  unfold State.putEntry
  extract_lets +onlyGivenNames -merge x0
  clear_value x0
  refine Keeps.iteP (fun (r : Placed × State) => r.2) (Keeps.refl s) ?_
  extract_lets +onlyGivenNames -merge x1 x2
  have h2 : Keeps s x2.2 := State.atomicLine_keeps _ _
  clear_value x2
  refine Keeps.iteP (fun (r : Placed × State) => r.2) h2 ?_
  refine Keeps.trans ?_ (State.rmw_keeps _ _ _ _ _)
  refine Keeps.foldl h2 ?_
  intro t x h
  exact Keeps.trans h (KeepsIn.getD (p := fun (r : State) => r) (State.putChunk_keeps _ _ _ _ _ _ _ _) (Keeps.refl _))

theorem State.place_keeps : ∀ s p1 p2 p3 p4 p5 p6, Keeps s (@State.place s p1 p2 p3 p4 p5 p6).2 := by
  intro s p1 p2 p3 p4 p5 p6
  unfold State.place
  extract_lets +onlyGivenNames -merge x0
  try clear_value x0
  refine Keeps.iteP (fun (r : Sys2Proof.Machine.Placed × Sys2Proof.Machine.State) => r.2) ?_ ?_
  · refine Keeps.snd ?_
    exact (Keeps.refl _)
  · split
    · rename_i m1 m2 m3 hq4
      have h5 : Keeps s m3 := Keeps.ofEq (fun (r : Sys2Proof.Machine.SeqEntry × Bool × Sys2Proof.Machine.State) => r.2.2) hq4 (by
        exact Keeps.trans (Keeps.refl _) (State.walkSeq_keeps _ _ _))
      exact h5
    · rename_i m6 m7 m8 hq9
      have h10 : Keeps s m8 := Keeps.ofEq (fun (r : Sys2Proof.Machine.SeqEntry × Bool × Sys2Proof.Machine.State) => r.2.2) hq9 (by
        exact Keeps.trans (Keeps.refl _) (State.walkSeq_keeps _ _ _))
      refine Keeps.iteP (fun (r : Sys2Proof.Machine.Placed × Sys2Proof.Machine.State) => r.2) ?_ ?_
      · exact h10
      · extract_lets +onlyGivenNames -merge x11
        try clear_value x11
        extract_lets +onlyGivenNames -merge x12
        try clear_value x12
        split
        · exact h10
        · extract_lets +onlyGivenNames -merge x13
          try clear_value x13
          extract_lets +onlyGivenNames -merge x14
          try clear_value x14
          split
          · rename_i m15 m16 hq17
            have h18 : Keeps s m16 := Keeps.ofEq (fun (r : Option (Sys2Proof.DWord × Bool) × Sys2Proof.Machine.State) => r.2) hq17 (by
              exact Keeps.trans h10 (State.walkList_keeps _ _ _ _ _))
            exact h18
          · rename_i m19 m20 m21 hq22
            have h23 : Keeps s m21 := Keeps.ofEq (fun (r : Option (Sys2Proof.DWord × Bool) × Sys2Proof.Machine.State) => r.2) hq22 (by
              exact Keeps.trans h10 (State.walkList_keeps _ _ _ _ _))
            exact h23
          · rename_i m24 m25 m26 hq27
            have h28 : Keeps s m26 := Keeps.ofEq (fun (r : Option (Sys2Proof.DWord × Bool) × Sys2Proof.Machine.State) => r.2) hq27 (by
              exact Keeps.trans h10 (State.walkList_keeps _ _ _ _ _))
            refine Keeps.iteP (fun (r : Sys2Proof.Machine.Placed × Sys2Proof.Machine.State) => r.2) ?_ ?_
            · exact h28
            · split
              · rename_i m29 m30 m31 hq32
                have h33 : Keeps s m31 := Keeps.ofEq (fun (r : (Sys2Proof.Machine.Placed ⊕ Option (ℕ × Sys2Proof.DWord × ℕ)) × Sys2Proof.Machine.State) => r.2) hq32 (by
                  exact Keeps.trans h28 (State.globalNeed_keeps _ _ _ _ _ _ _))
                exact h33
              · rename_i m34 m35 m36 hq37
                have h38 : Keeps s m36 := Keeps.ofEq (fun (r : (Sys2Proof.Machine.Placed ⊕ Option (ℕ × Sys2Proof.DWord × ℕ)) × Sys2Proof.Machine.State) => r.2) hq37 (by
                  exact Keeps.trans h28 (State.globalNeed_keeps _ _ _ _ _ _ _))
                split
                · rename_i m39 m40 m41 hq42
                  have h43 : Keeps s m41 := Keeps.ofEq (fun (r : (Sys2Proof.Machine.Placed ⊕ ℕ) × Sys2Proof.Machine.State) => r.2) hq42 (by
                    exact Keeps.trans h38 (State.ownPage_keeps _ _ _ _ _ _ _ _))
                  exact h43
                · rename_i m44 m45 m46 hq47
                  have h48 : Keeps s m46 := Keeps.ofEq (fun (r : (Sys2Proof.Machine.Placed ⊕ ℕ) × Sys2Proof.Machine.State) => r.2) hq47 (by
                    exact Keeps.trans h38 (State.ownPage_keeps _ _ _ _ _ _ _ _))
                  extract_lets +onlyGivenNames -merge x49
                  try clear_value x49
                  split
                  · exact Keeps.trans h48 (State.putEntry_keeps _ _ _ _ _ _ _ _)
                  · split
                    · rename_i m58 m59 m60 m61 m62 m63 hq64 hq65
                      have h66 : Keeps s m61 := Keeps.ofEq (fun (r : (Sys2Proof.Machine.Placed ⊕ ℕ) × Sys2Proof.Machine.State) => r.2) hq64 (by
                        exact Keeps.trans h48 (State.ownPage_keeps _ _ _ _ _ _ _ _))
                      exact Keeps.trans h66 (State.putEntry_keeps _ _ _ _ _ _ _ _)
                    · rename_i m74 m75 m76 m77 hq78
                      have h79 : Keeps s m77 := Keeps.ofEq (fun (r : (Sys2Proof.Machine.Placed ⊕ ℕ) × Sys2Proof.Machine.State) => r.2) hq78 (by
                        exact Keeps.trans h48 (State.ownPage_keeps _ _ _ _ _ _ _ _))
                      exact h79
                    · rename_i m80 m81 m82 m83 m84 hq85 hq86
                      have h87 : Keeps s m83 := Keeps.ofEq (fun (r : (Sys2Proof.Machine.Placed ⊕ ℕ) × Sys2Proof.Machine.State) => r.2) hq85 (by
                        exact Keeps.trans h48 (State.ownPage_keeps _ _ _ _ _ _ _ _))
                      exact h87

theorem State.placedHead_keeps : ∀ s p1 p2 p3 p4 p5 p6, Keeps s (@State.placedHead s p1 p2 p3 p4 p5 p6) := by
  intro s p1 p2 p3 p4 p5 p6
  unfold State.placedHead
  extract_lets +onlyGivenNames -merge x0
  have h1 : Keeps s x0 := by
    unfold x0
    split
    · refine Keeps.trans ?_ (State.traceHub_keeps _ _ _ _ _ _ _ _ _ _ _)
      · exact Keeps.trans (Keeps.refl _) (State.setField_keeps _ _ _ _ _)
    · exact (Keeps.refl _)
  try clear_value x0
  extract_lets +onlyGivenNames -merge x2
  try clear_value x2
  extract_lets +onlyGivenNames -merge x3 x4
  try clear_value x3
  try clear_value x4
  refine Keeps.trans ?_ (State.deliver_keeps _ _ _ _)
  · exact Keeps.trans h1 (State.setEngine_keeps _ _ _)

theorem State.placeHead_keeps : ∀ s p1 p2 p3 p4, Keeps s (@State.placeHead s p1 p2 p3 p4) := by
  intro s p1 p2 p3 p4
  induction p4 generalizing s with
  | zero => exact Keeps.refl s
  | succ fuel ih =>
    rw [State.placeHead]
    split
    · exact Keeps.refl s
    · extract_lets +onlyGivenNames -merge x0 x1 x2
      have h1 : Keeps s x1.2 := by
        unfold x1
        refine Keeps.iteP (fun (r : Placed × State) => r.2) (Keeps.refl s) ?_
        refine Keeps.iteP (fun (r : Placed × State) => r.2) (Keeps.refl s) ?_
        exact State.place_keeps _ _ _ _ _ _ _
      clear_value x1
      split
      · exact Keeps.trans h1 (ih _)
      · refine Keeps.trans ?_ (State.setField_keeps _ _ _ _ _)
        refine Keeps.trans ?_ (State.countField_keeps _ _ _ _ _)
        exact Keeps.trans h1 (State.setWalk_keeps _ _ _)
      · exact Keeps.trans h1 (State.placedHead_keeps _ _ _ _ _ _ _)
      · refine Keeps.trans ?_ (State.placedHead_keeps _ _ _ _ _ _ _)
        exact Keeps.trans h1 (State.countField_keeps _ _ _ _ _)

theorem State.takeAppend_keeps : ∀ s p1, Keeps s (@State.takeAppend s p1) := by
  intro s p1
  unfold State.takeAppend
  extract_lets +onlyGivenNames -merge x0
  try clear_value x0
  extract_lets +onlyGivenNames -merge x1
  try clear_value x1
  extract_lets +onlyGivenNames -merge x2
  try clear_value x2
  extract_lets +onlyGivenNames -merge x3
  try clear_value x3
  refine Keeps.ite ?_ ?_
  · exact (Keeps.refl _)
  · split
    · exact (Keeps.refl _)
    · extract_lets +onlyGivenNames -merge x4
      have h5 : Keeps s x4.2 := by
        unfold x4
        try beta_reduce
        refine Keeps.trans ?_ (State.parity_keeps _ _)
        exact Keeps.trans (Keeps.refl _) (State.setAtt_keeps _ _ _)
      try clear_value x4
      extract_lets +onlyGivenNames -merge x6
      have h7 : Keeps s x6 := by
        unfold x6
        try beta_reduce
        exact h5
      try clear_value x6
      extract_lets +onlyGivenNames -merge x8
      try clear_value x8
      split
      · extract_lets +onlyGivenNames -merge x9
        try clear_value x9
        extract_lets +onlyGivenNames -merge x10
        try clear_value x10
        exact Keeps.trans h7 (State.setWalk_keeps _ _ _)
      · exact Keeps.trans h7 (State.setWalk_keeps _ _ _)

theorem execWalkAppend_keeps : ∀ p0 s, Good s (@execWalkAppend p0 s) := by
  intro p0 s
  unfold execWalkAppend
  refine Good.ite ⟨s, rfl, Keeps.refl s⟩ ?_
  extract_lets +onlyGivenNames -merge x0
  try clear_value x0
  refine Good.ite ?_ ?_
  · refine ⟨_, rfl, ?_⟩
    exact Keeps.trans (Keeps.refl _) (State.takeAppend_keeps _ _)
  · refine ⟨_, rfl, ?_⟩
    refine Keeps.trans ?_ (State.startDesc_keeps _ _ _ _ _ ?_)
    · exact (Keeps.refl _)
    · intro y1 y2
      try beta_reduce
      exact Keeps.trans (Keeps.refl _) (State.setField_keeps _ _ _ _ _)

theorem execAppendEntryPlace_keeps : ∀ p0 s, Good s (@execAppendEntryPlace p0 s) := by
  intro p0 s
  unfold execAppendEntryPlace
  split
  · refine ⟨_, rfl, ?_⟩
    exact (Keeps.refl _)
  · extract_lets +onlyGivenNames -merge x0
    try clear_value x0
    split
    · refine ⟨_, rfl, ?_⟩
      exact (Keeps.refl _)
    · refine Good.ite ?_ ?_
      · refine ⟨_, rfl, ?_⟩
        exact (Keeps.refl _)
      · refine ⟨_, rfl, ?_⟩
        exact Keeps.trans (Keeps.refl _) (State.placeHead_keeps _ _ _ _ _)

theorem execPoolPopRetry_keeps : ∀ p0 s, Good s (@execPoolPopRetry p0 s) := by
  intro p0 s
  unfold execPoolPopRetry
  split
  · refine ⟨_, rfl, ?_⟩
    exact (Keeps.refl _)
  · extract_lets +onlyGivenNames -merge x0
    try clear_value x0
    split
    · refine ⟨_, rfl, ?_⟩
      exact (Keeps.refl _)
    · refine Good.ite ?_ ?_
      · refine ⟨_, rfl, ?_⟩
        exact (Keeps.refl _)
      · refine ⟨_, rfl, ?_⟩
        exact Keeps.trans (Keeps.refl _) (State.placeHead_keeps _ _ _ _ _)

theorem State.readBytes_keeps : ∀ s p1 p2, Keeps s (@State.readBytes s p1 p2).2.2 := by
  intro s p1 p2
  unfold State.readBytes
  refine Keeps.foldlP (fun (r : List (Sys2Proof.Byte × Bool) × Nat × Sys2Proof.Machine.State) => r.2.2) ?_ ?_
  · refine Keeps.sndP (fun (r : Nat × Sys2Proof.Machine.State) => r.2) ?_
    refine Keeps.snd ?_
    exact (Keeps.refl _)
  · intro a1 b2 ht0
    try beta_reduce
    extract_lets +onlyGivenNames -merge x3
    try clear_value x3
    extract_lets +onlyGivenNames -merge x4
    try clear_value x4
    extract_lets +onlyGivenNames -merge x5
    have h6 : Keeps s x5.2.2 := by
      unfold x5
      exact Keeps.trans ht0 (State.devRead_keeps _ _ _)
    try clear_value x5
    refine Keeps.sndP (fun (r : Nat × Sys2Proof.Machine.State) => r.2) ?_
    refine Keeps.snd ?_
    exact h6

theorem State.readRecord_keeps : ∀ s p1 p2 p3 p4 p5 p6 p7, Keeps s (@State.readRecord s p1 p2 p3 p4 p5 p6 p7).2 := by
  intro s p1 p2 p3 p4 p5 p6 p7
  unfold State.readRecord
  extract_lets +onlyGivenNames -merge x0
  try clear_value x0
  extract_lets +onlyGivenNames -merge x1
  try clear_value x1
  split
  · rename Sys2Proof.Machine.State => m2
    rename _ = _ => hq4
    have h3 : Keeps s m2 := Keeps.ofEq (fun (r : Option (Sys2Proof.DWord × Bool) × Sys2Proof.Machine.State) => r.2) hq4 (by
        exact Keeps.trans (Keeps.refl _) (State.walkList_keeps _ _ _ _ _)
      )
    refine Keeps.snd ?_
    exact h3
  · rename Sys2Proof.Machine.State => m5
    rename _ = _ => hq7
    have h6 : Keeps s m5 := Keeps.ofEq (fun (r : Option (Sys2Proof.DWord × Bool) × Sys2Proof.Machine.State) => r.2) hq7 (by
        exact Keeps.trans (Keeps.refl _) (State.walkList_keeps _ _ _ _ _)
      )
    refine Keeps.snd ?_
    exact h6
  · rename Sys2Proof.Machine.State => m8
    rename _ = _ => hq10
    have h9 : Keeps s m8 := Keeps.ofEq (fun (r : Option (Sys2Proof.DWord × Bool) × Sys2Proof.Machine.State) => r.2) hq10 (by
        exact Keeps.trans (Keeps.refl _) (State.walkList_keeps _ _ _ _ _)
      )
    refine Keeps.iteP (fun (r : Sys2Proof.Machine.Rec × Sys2Proof.Machine.State) => r.2) ?_ ?_
    · refine Keeps.snd ?_
      exact h9
    · split
      · refine Keeps.snd ?_
        exact h9
      · extract_lets +onlyGivenNames -merge x11
        have h12 : Keeps s x11.2.2 := by
          unfold x11
          exact Keeps.trans h9 (State.readBytes_keeps _ _ _)
        try clear_value x11
        extract_lets +onlyGivenNames -merge x13
        have h14 : Keeps s x13.2.2 := by
          unfold x13
          exact Keeps.trans h12 (State.readBytes_keeps _ _ _)
        try clear_value x13
        refine Keeps.snd ?_
        exact h14

theorem State.gatherSeq_keeps : ∀ s p1 p2 p3, Keeps s (@State.gatherSeq s p1 p2 p3).2.2 := by
  intro s p1 p2 p3
  unfold State.gatherSeq
  refine Keeps.iteP (fun (r : Sys2Proof.Machine.SeqEntry × Nat × Sys2Proof.Machine.State) => r.2.2) ?_ ?_
  · refine Keeps.sndP (fun (r : Nat × Sys2Proof.Machine.State) => r.2) ?_
    refine Keeps.snd ?_
    exact (Keeps.refl _)
  · extract_lets +onlyGivenNames -merge x0
    have h1 : Keeps s x0.2.2 := by
      unfold x0
      exact Keeps.trans (Keeps.refl _) (State.walkSeq_keeps _ _ _)
    try clear_value x0
    refine Keeps.sndP (fun (r : Nat × Sys2Proof.Machine.State) => r.2) ?_
    refine Keeps.snd ?_
    exact h1

theorem State.gatherRec_keeps : ∀ s p1 p2 p3 p4 p5 p6 p7 p8 p9, Keeps s (@State.gatherRec s p1 p2 p3 p4 p5 p6 p7 p8 p9).2 := by
  intro s p1 p2 p3 p4 p5 p6 p7 p8 p9
  unfold State.gatherRec
  extract_lets +onlyGivenNames -merge x0
  try clear_value x0
  extract_lets +onlyGivenNames -merge x1
  try clear_value x1
  extract_lets +onlyGivenNames -merge x2
  have h3 : Keeps s x2.2.2 := by
    unfold x2
    exact Keeps.trans (Keeps.refl _) (State.gatherSeq_keeps _ _ _ _)
  try clear_value x2
  extract_lets +onlyGivenNames -merge x4
  try clear_value x4
  extract_lets +onlyGivenNames -merge x5
  have h6 : Keeps s x5 := by
    unfold x5
    exact h3
  try clear_value x5
  extract_lets +onlyGivenNames -merge x7
  try clear_value x7
  extract_lets +onlyGivenNames -merge x8
  try clear_value x8
  extract_lets +onlyGivenNames -merge x9
  try clear_value x9
  refine Keeps.iteP (fun (r : Sys2Proof.Machine.Rec × Sys2Proof.Machine.State) => r.2) ?_ ?_
  · extract_lets +onlyGivenNames -merge x10
    try clear_value x10
    refine Keeps.iteP (fun (r : Sys2Proof.Machine.Rec × Sys2Proof.Machine.State) => r.2) ?_ ?_
    · refine Keeps.snd ?_
      exact h6
    · refine Keeps.iteP (fun (r : Sys2Proof.Machine.Rec × Sys2Proof.Machine.State) => r.2) ?_ ?_
      · refine Keeps.snd ?_
        exact h6
      · split
        · rename Sys2Proof.Machine.State => m11
          rename _ = _ => hq13
          have h12 : Keeps s m11 := Keeps.ofEq (fun (r : Option (Sys2Proof.DWord × Bool) × Sys2Proof.Machine.State) => r.2) hq13 (by
              exact Keeps.trans h6 (State.walkList_keeps _ _ _ _ _)
            )
          refine Keeps.snd ?_
          exact h12
        · rename Sys2Proof.Machine.State => m14
          rename _ = _ => hq16
          have h15 : Keeps s m14 := Keeps.ofEq (fun (r : Option (Sys2Proof.DWord × Bool) × Sys2Proof.Machine.State) => r.2) hq16 (by
              exact Keeps.trans h6 (State.walkList_keeps _ _ _ _ _)
            )
          refine Keeps.snd ?_
          exact h15
        · rename Sys2Proof.Machine.State => m17
          rename _ = _ => hq19
          have h18 : Keeps s m17 := Keeps.ofEq (fun (r : Option (Sys2Proof.DWord × Bool) × Sys2Proof.Machine.State) => r.2) hq19 (by
              exact Keeps.trans h6 (State.walkList_keeps _ _ _ _ _)
            )
          extract_lets +onlyGivenNames -merge x20
          try clear_value x20
          refine Keeps.iteP (fun (r : Sys2Proof.Machine.Rec × Sys2Proof.Machine.State) => r.2) ?_ ?_
          · refine Keeps.snd ?_
            exact h18
          · refine Keeps.iteP (fun (r : Sys2Proof.Machine.Rec × Sys2Proof.Machine.State) => r.2) ?_ ?_
            · refine Keeps.snd ?_
              exact h18
            · exact Keeps.trans h18 (State.readRecord_keeps _ _ _ _ _ _ _ _)
  · extract_lets +onlyGivenNames -merge x21
    try clear_value x21
    refine Keeps.iteP (fun (r : Sys2Proof.Machine.Rec × Sys2Proof.Machine.State) => r.2) ?_ ?_
    · refine Keeps.snd ?_
      exact h6
    · refine Keeps.iteP (fun (r : Sys2Proof.Machine.Rec × Sys2Proof.Machine.State) => r.2) ?_ ?_
      · refine Keeps.snd ?_
        exact h6
      · extract_lets +onlyGivenNames -merge x22
        try clear_value x22
        refine Keeps.iteP (fun (r : Sys2Proof.Machine.Rec × Sys2Proof.Machine.State) => r.2) ?_ ?_
        · refine Keeps.snd ?_
          exact h6
        · extract_lets +onlyGivenNames -merge x23
          try clear_value x23
          exact Keeps.trans h6 (State.readRecord_keeps _ _ _ _ _ _ _ _)

theorem State.loadTile_keeps : ∀ s p1 p2 p3, Keeps s (@State.loadTile s p1 p2 p3) := by
  intro s p1 p2 p3
  unfold State.loadTile
  extract_lets +onlyGivenNames -merge x0
  try clear_value x0
  extract_lets +onlyGivenNames -merge x1
  have h2 : Keeps s x1.2.2 := by
    unfold x1
    exact Keeps.trans (Keeps.refl _) (State.gatherSeq_keeps _ _ _ _)
  try clear_value x1
  extract_lets +onlyGivenNames -merge x3
  try clear_value x3
  extract_lets +onlyGivenNames -merge x4
  try clear_value x4
  extract_lets +onlyGivenNames -merge x5
  try clear_value x5
  extract_lets +onlyGivenNames -merge x6
  try clear_value x6
  extract_lets +onlyGivenNames -merge x7
  try clear_value x7
  extract_lets +onlyGivenNames -merge x8
  have h9 : Keeps s x8.2 := by
    unfold x8
    refine Keeps.foldlP (fun (r : List Sys2Proof.Machine.Rec × Sys2Proof.Machine.State) => r.2) ?_ ?_
    · refine Keeps.snd ?_
      exact h2
    · intro a11 b12 ht10
      try beta_reduce
      extract_lets +onlyGivenNames -merge x13
      have h14 : Keeps s x13.2 := by
        unfold x13
        exact Keeps.trans ht10 (State.gatherRec_keeps _ _ _ _ _ _ _ _ _ _)
      try clear_value x13
      refine Keeps.snd ?_
      exact h14
  try clear_value x8
  extract_lets +onlyGivenNames -merge x15
  have h16 : Keeps s x15 := by
    unfold x15
    exact h9
  try clear_value x15
  extract_lets +onlyGivenNames -merge x17
  try clear_value x17
  extract_lets +onlyGivenNames -merge x18
  try clear_value x18
  exact Keeps.trans h16 (State.setEngine_keeps _ _ _)

theorem State.gatherFlit_keeps : ∀ s p1 p2 p3, Keeps s (@State.gatherFlit s p1 p2 p3) := by
  intro s p1 p2 p3
  unfold State.gatherFlit
  extract_lets +onlyGivenNames -merge x0
  try clear_value x0
  extract_lets +onlyGivenNames -merge x1
  try clear_value x1
  extract_lets +onlyGivenNames -merge x2
  try clear_value x2
  refine Keeps.ite ?_ ?_
  · exact (Keeps.refl _)
  · refine Keeps.ite ?_ ?_
    · exact Keeps.trans (Keeps.refl _) (State.waitFull_keeps _ _)
    · extract_lets +onlyGivenNames -merge x3
      have h4 : Keeps s x3 := by
        unfold x3
        try beta_reduce
        refine Keeps.ite ?_ ?_
        · exact Keeps.trans (Keeps.refl _) (State.loadTile_keeps _ _ _ _)
        · exact (Keeps.refl _)
      try clear_value x3
      split
      · exact h4
      · extract_lets +onlyGivenNames -merge x5
        have h6 : Keeps s x5.2 := by
          unfold x5
          try beta_reduce
          exact Keeps.trans h4 (State.parity_keeps _ _)
        try clear_value x5
        extract_lets +onlyGivenNames -merge x7
        have h8 : Keeps s x7 := by
          unfold x7
          try beta_reduce
          refine Keeps.trans ?_ (State.streamPut_keeps _ _ _ _ _)
          exact Keeps.trans h6 (State.endFull_keeps _ _ _)
        try clear_value x7
        extract_lets +onlyGivenNames -merge x9
        try clear_value x9
        refine Keeps.trans ?_ (State.deliver_keeps _ _ _ _)
        exact Keeps.trans h8 (State.setWalk_keeps _ _ _)

theorem execWalkGather_keeps : ∀ p0 s, Good s (@execWalkGather p0 s) := by
  intro p0 s
  unfold execWalkGather
  refine Good.ite ⟨s, rfl, Keeps.refl s⟩ ?_
  extract_lets +onlyGivenNames -merge x0
  try clear_value x0
  refine Good.ite ?_ ?_
  · split
    · refine ⟨_, rfl, ?_⟩
      exact (Keeps.refl _)
    · split
      · refine ⟨_, rfl, ?_⟩
        exact (Keeps.refl _)
      · refine ⟨_, rfl, ?_⟩
        exact Keeps.trans (Keeps.refl _) (State.gatherFlit_keeps _ _ _ _)
  · refine ⟨_, rfl, ?_⟩
    refine Keeps.trans ?_ (State.startDesc_keeps _ _ _ _ _ ?_)
    · exact (Keeps.refl _)
    · intro y1 y2
      try beta_reduce
      extract_lets +onlyGivenNames -merge x3
      have h4 : Keeps y1 x3.2.2 := by
        unfold x3
        exact Keeps.trans (Keeps.refl _) (State.gatherSeq_keeps _ _ _ _)
      try clear_value x3
      extract_lets +onlyGivenNames -merge x5
      have h6 : Keeps y1 x5 := by
        unfold x5
        exact h4
      try clear_value x5
      refine Keeps.trans ?_ (State.setField_keeps _ _ _ _ _)
      · exact Keeps.trans h6 (State.setWalk_keeps _ _ _)

theorem execDescriptorEnd_keeps : ∀ p0 s, Good s (@execDescriptorEnd p0 s) := by
  intro p0 s
  unfold execDescriptorEnd
  split
  · refine ⟨_, rfl, ?_⟩
    exact (Keeps.refl _)
  · extract_lets +onlyGivenNames -merge x0
    try clear_value x0
    extract_lets +onlyGivenNames -merge x1
    try clear_value x1
    refine Good.ite ?_ ?_
    · refine ⟨_, rfl, ?_⟩
      exact (Keeps.refl _)
    · extract_lets +onlyGivenNames -merge x2
      have h3 : Keeps s x2 := by
        unfold x2
        try beta_reduce
        exact Keeps.trans (Keeps.refl _) (State.andNotReg_keeps _ _ _)
      try clear_value x2
      refine ⟨_, rfl, ?_⟩
      exact Keeps.trans h3 (State.endDescriptor_keeps _ _ _ _ _)

end Sys2Proof.Machine
end

