-- ==== Sys2Proof/Laws/Clove.lean ====
section
/-! SUPPORT. What the operations of Machine/Clove.lean keep: the queue of waiting commands and the canonical form of the state
(Keeps); and that its commands answer a next state (Good). -/

namespace Sys2Proof.Machine

/-- The state that a step of a Clove instruction has reached. -/
def CX.st : CX → State
  | .next s => s
  | .wrote s => s
  | .trap _ _ _ s => s
  | .wait s => s

theorem Keeps.cxNext {s t : State} (h : Keeps s t) : Keeps s (CX.next t).st := h
theorem Keeps.cxWrote {s t : State} (h : Keeps s t) : Keeps s (CX.wrote t).st := h
theorem Keeps.cxWait {s t : State} (h : Keeps s t) : Keeps s (CX.wait t).st := h
theorem Keeps.cxTrap {s t : State} {a b c : Nat} (h : Keeps s t) : Keeps s (CX.trap a b c t).st := h

/-- The state after a granule that was got. -/
def CGran.st? : CGran → Option State
  | .got _ _ s => some s
  | .fault => none

theorem KeepsIn.ofGran {s t : State} {o : CGran} {bs : Bytes} {n : Nat} (h : o = .got bs n t)
    (k : KeepsIn s (fun r => r) o.st?) : Keeps s t := k t (by rw [h]; rfl)

theorem State.setCx_keeps : ∀ s p1 p2 p3, Keeps s (@State.setCx s p1 p2 p3) := by
  intro s p1 p2 p3
  unfold State.setCx
  refine Keeps.ite ?_ ?_
  · exact (Keeps.refl _)
  · extract_lets +onlyGivenNames -merge x0
    try clear_value x0
    exact Keeps.trans (Keeps.refl _) (State.setClove_keeps _ _ _)

theorem State.setCcsr_keeps : ∀ s p1 p2 p3, Keeps s (@State.setCcsr s p1 p2 p3) := by
  intro s p1 p2 p3
  unfold State.setCcsr
  extract_lets +onlyGivenNames -merge x0
  try clear_value x0
  exact Keeps.trans (Keeps.refl _) (State.setClove_keeps _ _ _)

theorem State.setCpc_keeps : ∀ s p1 p2, Keeps s (@State.setCpc s p1 p2) := by
  intro s p1 p2
  unfold State.setCpc
  exact Keeps.trans (Keeps.refl _) (State.setClove_keeps _ _ _)

theorem State.cRead_keeps : ∀ s p1 p2 p3, Keeps s (@State.cRead s p1 p2 p3).2.2 := by
  intro s p1 p2 p3
  unfold State.cRead
  split
  · refine Keeps.sndP (fun (r : ℕ × Sys2Proof.Machine.State) => r.2) ?_
    refine Keeps.snd ?_
    exact (Keeps.refl _)
  · extract_lets +onlyGivenNames -merge x0
    try clear_value x0
    extract_lets +onlyGivenNames -merge x1
    try clear_value x1
    extract_lets +onlyGivenNames -merge x2
    try clear_value x2
    refine Keeps.sndP (fun (r : ℕ × Sys2Proof.Machine.State) => r.2) ?_
    refine Keeps.snd ?_
    exact Keeps.trans (Keeps.refl _) (State.setClove_keeps _ _ _)
  · refine Keeps.iteP (fun (r : Sys2Proof.Bytes × ℕ × Sys2Proof.Machine.State) => r.2.2) ?_ ?_
    · exact Keeps.trans (Keeps.refl _) (State.devRead_keeps _ _ _)
    · refine Keeps.iteP (fun (r : Sys2Proof.Bytes × ℕ × Sys2Proof.Machine.State) => r.2.2) ?_ ?_
      · refine Keeps.sndP (fun (r : ℕ × Sys2Proof.Machine.State) => r.2) ?_
        refine Keeps.snd ?_
        exact (Keeps.refl _)
      · exact Keeps.trans (Keeps.refl _) (State.ccRead_keeps _ _ _ _)

theorem State.cWrite_keeps : ∀ s p1 p2 p3 p4, Keeps s (@State.cWrite s p1 p2 p3 p4) := by
  intro s p1 p2 p3 p4
  unfold State.cWrite
  split
  · exact (Keeps.refl _)
  · extract_lets +onlyGivenNames -merge x0
    try clear_value x0
    exact Keeps.trans (Keeps.refl _) (State.setClove_keeps _ _ _)
  · refine Keeps.ite ?_ ?_
    · refine Keeps.ite ?_ ?_
      · exact (Keeps.refl _)
      · exact Keeps.trans (Keeps.refl _) (State.ccWrite_keeps _ _ _ _ _)
    · extract_lets +onlyGivenNames -merge x1
      have h2 : Keeps s x1 := by
        unfold x1
        try beta_reduce
        exact Keeps.trans (Keeps.refl _) (State.devWrite_keeps _ _ _ _)
      try clear_value x1
      extract_lets +onlyGivenNames -merge x3
      try clear_value x3
      extract_lets +onlyGivenNames -merge x4
      try clear_value x4
      refine Keeps.ite ?_ ?_
      · exact Keeps.trans h2 (State.setClove_keeps _ _ _)
      · exact h2

theorem State.cLoad_keeps : ∀ s p1 p2 p3, Keeps s (@State.cLoad s p1 p2 p3).2.2 := by
  intro s p1 p2 p3
  unfold State.cLoad
  split
  · refine Keeps.iteP (fun (r : Sys2Proof.Bytes × ℕ × Sys2Proof.Machine.State) => r.2.2) ?_ ?_
    · extract_lets +onlyGivenNames -merge x0
      try clear_value x0
      extract_lets +onlyGivenNames -merge x1
      have h2 : Keeps s x1.2.2 := by
        unfold x1
        try beta_reduce
        exact Keeps.trans (Keeps.refl _) (State.cRead_keeps _ _ _ _)
      try clear_value x1
      exact h2
    · extract_lets +onlyGivenNames -merge x3
      have h4 : Keeps s x3.2.2 := by
        unfold x3
        try beta_reduce
        exact Keeps.trans (Keeps.refl _) (State.devRead_keeps _ _ _)
      try clear_value x3
      exact h4
  · exact Keeps.trans (Keeps.refl _) (State.cRead_keeps _ _ _ _)

theorem State.cStall_keeps : ∀ s p1, Keeps s (@State.cStall s p1) := by
  intro s p1
  unfold State.cStall
  extract_lets +onlyGivenNames -merge x0
  try clear_value x0
  exact Keeps.trans (Keeps.refl _) (State.setClove_keeps _ _ _)

theorem State.cUnstall_keeps : ∀ s p1, Keeps s (@State.cUnstall s p1) := by
  intro s p1
  unfold State.cUnstall
  split
  · refine Keeps.trans ?_ (State.traceClove_keeps _ _ _ _ _ _ _ _ _)
    · exact Keeps.trans (Keeps.refl _) (State.setClove_keeps _ _ _)
  · exact (Keeps.refl _)

theorem State.cBlock_keeps : ∀ s p1 p2, Keeps s (@State.cBlock s p1 p2) := by
  intro s p1 p2
  unfold State.cBlock
  extract_lets +onlyGivenNames -merge x0
  try clear_value x0
  exact Keeps.trans (Keeps.refl _) (State.setClove_keeps _ _ _)

theorem State.cUnblock_keeps : ∀ s p1, Keeps s (@State.cUnblock s p1) := by
  intro s p1
  unfold State.cUnblock
  split
  · refine Keeps.trans ?_ (State.traceClove_keeps _ _ _ _ _ _ _ _ _)
    · exact Keeps.trans (Keeps.refl _) (State.setClove_keeps _ _ _)
  · exact (Keeps.refl _)

theorem State.cFence_keeps : ∀ s p1, Keeps s (@State.cFence s p1) := by
  intro s p1
  unfold State.cFence
  extract_lets +onlyGivenNames -merge x0
  try clear_value x0
  refine Keeps.trans ?_ (State.setClove_keeps _ _ _)
  · refine Keeps.foldl ?_ ?_
    · exact (Keeps.refl _)
    · intro a2 b3 ht1
      try beta_reduce
      exact Keeps.trans ht1 (State.dropLine_keeps _ _)

theorem State.mboxWrite_keeps : ∀ s p1 p2 p3, Keeps s (@State.mboxWrite s p1 p2 p3) := by
  intro s p1 p2 p3
  unfold State.mboxWrite
  split
  · refine Keeps.ite ?_ ?_
    · exact (Keeps.refl _)
    · exact Keeps.trans (Keeps.refl _) (State.ccWrite_keeps _ _ _ _ _)
  · exact (Keeps.refl _)

theorem State.slotToken_keeps : ∀ s p1 p2, Keeps s (@State.slotToken s p1 p2) := by
  intro s p1 p2
  unfold State.slotToken
  extract_lets +onlyGivenNames -merge x0
  try clear_value x0
  extract_lets +onlyGivenNames -merge x1
  try clear_value x1
  refine Keeps.ite ?_ ?_
  · exact (Keeps.refl _)
  · exact Keeps.trans (Keeps.refl _) (State.svcToken_keeps _ _ _ _ _ _)

theorem State.cComplete_keeps : ∀ s p1 p2 p3 p4, Keeps s (@State.cComplete s p1 p2 p3 p4) := by
  intro s p1 p2 p3 p4
  unfold State.cComplete
  extract_lets +onlyGivenNames -merge x0
  try clear_value x0
  extract_lets +onlyGivenNames -merge x1
  try clear_value x1
  extract_lets +onlyGivenNames -merge x2
  try clear_value x2
  extract_lets +onlyGivenNames -merge x3
  have h4 : Keeps s x3 := by
    unfold x3
    refine Keeps.trans ?_ (State.mboxWrite_keeps _ _ _ _)
    · refine Keeps.trans ?_ (State.mboxWrite_keeps _ _ _ _)
      · exact Keeps.trans (Keeps.refl _) (State.mboxWrite_keeps _ _ _ _)
  try clear_value x3
  extract_lets +onlyGivenNames -merge x5
  have h6 : Keeps s x5 := by
    unfold x5
    exact Keeps.trans h4 (State.slotToken_keeps _ _ _)
  try clear_value x5
  extract_lets +onlyGivenNames -merge x7
  try clear_value x7
  extract_lets +onlyGivenNames -merge x8
  have h9 : Keeps s x8 := by
    unfold x8
    exact Keeps.trans h6 (State.mboxWrite_keeps _ _ _ _)
  try clear_value x8
  extract_lets +onlyGivenNames -merge x10
  try clear_value x10
  extract_lets +onlyGivenNames -merge x11
  have h12 : Keeps s x11 := by
    unfold x11
    exact Keeps.trans h9 (State.setClove_keeps _ _ _)
  try clear_value x11
  exact Keeps.trans h12 (State.traceClove_keeps _ _ _ _ _ _ _ _ _)

theorem State.cloveHeld_keeps : ∀ s p1, Keeps s (@State.cloveHeld s p1) := by
  intro s p1
  unfold State.cloveHeld
  split
  · extract_lets +onlyGivenNames -merge x0
    have h1 : Keeps s x0.2 := by
      unfold x0
      try beta_reduce
      exact Keeps.trans (Keeps.refl _) (State.free_keeps _ _)
    try clear_value x0
    exact Keeps.trans h1 (State.cComplete_keeps _ _ _ _ _)
  · exact (Keeps.refl _)

theorem State.cFlush_keeps : ∀ s p1 p2, Keeps s (@State.cFlush s p1 p2) := by
  intro s p1 p2
  induction p2 generalizing s with
  | zero => exact Keeps.refl s
  | succ k ih =>
    rw [State.cFlush]
    split
    · refine Keeps.ite ?_ (Keeps.refl s)
      exact Keeps.trans (State.cComplete_keeps _ _ _ _ _) (ih _)
    · exact Keeps.refl s

theorem State.cEmpty_keeps : ∀ s p1, Keeps s (@State.cEmpty s p1) := by
  intro s p1
  unfold State.cEmpty
  extract_lets +onlyGivenNames -merge x0
  have h1 : Keeps s x0 := by
    unfold x0
    refine Keeps.trans ?_ (State.cUnstall_keeps _ _)
    · exact Keeps.trans (Keeps.refl _) (State.cUnblock_keeps _ _)
  try clear_value x0
  exact Keeps.trans h1 (State.setClove_keeps _ _ _)

theorem State.cReturn_keeps : ∀ s p1 p2 p3, Keeps s (@State.cReturn s p1 p2 p3) := by
  intro s p1 p2 p3
  unfold State.cReturn
  extract_lets +onlyGivenNames -merge x0
  have h1 : Keeps s x0 := by
    unfold x0
    refine Keeps.trans ?_ (State.setCx_keeps _ _ _ _)
    · exact Keeps.trans (Keeps.refl _) (State.setCx_keeps _ _ _ _)
  try clear_value x0
  extract_lets +onlyGivenNames -merge x2 x3
  try clear_value x2
  have h4 : Keeps s x3 := by
    unfold x3
    exact Keeps.trans h1 (State.setClove_keeps _ _ _)
  try clear_value x3
  exact Keeps.trans h4 (State.setCpc_keeps _ _ _)

theorem State.cTrapEntry_keeps : ∀ s p1 p2 p3, Keeps s (@State.cTrapEntry s p1 p2 p3) := by
  intro s p1 p2 p3
  unfold State.cTrapEntry
  extract_lets +onlyGivenNames -merge x0
  try clear_value x0
  extract_lets +onlyGivenNames -merge x1
  try clear_value x1
  extract_lets +onlyGivenNames -merge x2
  try clear_value x2
  extract_lets +onlyGivenNames -merge x3
  try clear_value x3
  extract_lets +onlyGivenNames -merge x4
  try clear_value x4
  extract_lets +onlyGivenNames -merge x5
  have h6 : Keeps s x5 := by
    unfold x5
    refine Keeps.trans ?_ (State.setCcsr_keeps _ _ _ _)
    · refine Keeps.trans ?_ (State.setCcsr_keeps _ _ _ _)
      · exact Keeps.trans (Keeps.refl _) (State.setCcsr_keeps _ _ _ _)
  try clear_value x5
  extract_lets +onlyGivenNames -merge x7
  have h8 : Keeps s x7 := by
    unfold x7
    exact Keeps.trans h6 (State.setCcsr_keeps _ _ _ _)
  try clear_value x7
  refine Keeps.trans ?_ (State.setCpc_keeps _ _ _)
  · exact Keeps.trans h8 (State.setClove_keeps _ _ _)

theorem State.cTrap_keeps : ∀ s p1 p2 p3 p4, Keeps s (@State.cTrap s p1 p2 p3 p4) := by
  intro s p1 p2 p3 p4
  unfold State.cTrap
  extract_lets +onlyGivenNames -merge x0
  try clear_value x0
  extract_lets +onlyGivenNames -merge x1
  have h2 : Keeps s x1 := by
    unfold x1
    exact Keeps.trans (Keeps.refl _) (State.cTrapEntry_keeps _ _ _ _)
  try clear_value x1
  refine Keeps.ite ?_ ?_
  · extract_lets +onlyGivenNames -merge x3 x4
    try clear_value x3
    have h5 : Keeps s x4 := by
      unfold x4
      exact Keeps.trans h2 (State.setClove_keeps _ _ _)
    try clear_value x4
    extract_lets +onlyGivenNames -merge x6
    have h7 : Keeps s x6 := by
      unfold x6
      split
      · exact Keeps.trans h5 (State.cComplete_keeps _ _ _ _ _)
      · exact h5
    try clear_value x6
    exact Keeps.trans h7 (State.cFlush_keeps _ _ _)
  · refine Keeps.ite ?_ ?_
    · exact Keeps.trans h2 (State.cReturn_keeps _ _ _ _)
    · extract_lets +onlyGivenNames -merge x8
      try clear_value x8
      extract_lets +onlyGivenNames -merge x9
      have h10 : Keeps s x9.2 := by
        unfold x9
        exact Keeps.trans h2 (State.free_keeps _ _)
      try clear_value x9
      refine Keeps.trans ?_ (State.cReturn_keeps _ _ _ _)
      · refine Keeps.trans ?_ (State.countField_keeps _ _ _ _ _)
        · exact Keeps.trans h10 (State.cEmpty_keeps _ _)

theorem State.cRetire_keeps : ∀ s p1, Keeps s (@State.cRetire s p1) := by
  intro s p1
  unfold State.cRetire
  refine Keeps.ite ?_ ?_
  · exact (Keeps.refl _)
  · extract_lets +onlyGivenNames -merge x0
    try clear_value x0
    refine Keeps.trans ?_ (State.setCcsr_keeps _ _ _ _)
    · exact Keeps.trans (Keeps.refl _) (State.setCcsr_keeps _ _ _ _)

theorem State.cEnd_keeps : ∀ p0 s, Keeps s.st (@State.cEnd p0 s) := by
  intro p0 s
  cases s with
  | next t => exact Keeps.trans (State.cUnstall_keeps _ _) (State.cRetire_keeps _ _)
  | wrote t => exact State.cUnstall_keeps _ _
  | trap cause tval kind t => exact Keeps.trans (State.cUnstall_keeps _ _) (State.cTrap_keeps _ _ _ _ _)
  | wait t => exact Keeps.refl _

theorem State.cPoison_keeps : ∀ s p1 p2, Keeps s (@State.cPoison s p1 p2) := by
  intro s p1 p2
  unfold State.cPoison
  split
  · refine Keeps.trans ?_ (State.cWrite_keeps _ _ _ _ _)
    · exact Keeps.trans (Keeps.refl _) (State.free_keeps _ _)
  · exact (Keeps.refl _)

theorem State.cBulk_keeps : ∀ s p1 p2 p3 p4, (∀ y0 y1, KeepsIn y0 (fun r => r) (p2 y0 y1).st?) →
    Keeps s (@State.cBulk s p1 p2 p3 p4).2.2 := by
  intro s p1 p2 p3 p4 hf
  induction p4 with
  | zero => exact Keeps.refl s
  | succ n ih =>
    rw [State.cBulk]
    generalize s.cBulk p1 p2 p3 n = x0 at ih
    have h0 : Keeps s x0.2.2 := ih
    refine Keeps.iteP (fun (r : Nat × Nat × State) => r.2.2) (Keeps.trans h0 (State.cPoison_keeps _ _ _)) ?_
    split
    · exact h0
    · split
      · dsimp only
        exact Keeps.trans h0 (State.cPoison_keeps _ _ _)
      · rename _ = _ => hq
        dsimp only
        refine Keeps.trans ?_ (State.cWrite_keeps _ _ _ _ _)
        exact Keeps.trans h0 (KeepsIn.ofGran hq (hf _ _))

theorem State.cSource_keeps : ∀ p0 p1 s p3, KeepsIn s (fun (r : Sys2Proof.Machine.State) => r) (@State.cSource p0 p1 s p3).st? := by
  intro p0 p1 s p3
  unfold State.cSource
  split
  · exact KeepsIn.none
  · extract_lets +onlyGivenNames -merge x0
    have h1 : Keeps s x0.2.2 := by
      unfold x0
      exact Keeps.trans (Keeps.refl _) (State.cRead_keeps _ _ _ _)
    try clear_value x0
    refine KeepsIn.some ?_
    exact h1

theorem State.cCopy_keeps : ∀ s p1 p2 p3 p4, Keeps s (@State.cCopy s p1 p2 p3 p4).2.2 := by
  intro s p1 p2 p3 p4
  unfold State.cCopy
  refine Keeps.trans ?_ (State.cBulk_keeps _ _ _ _ _ ?_)
  · exact (Keeps.refl _)
  · intro y0 y1
    try beta_reduce
    exact KeepsIn.trans (Keeps.refl _) (State.cSource_keeps _ _ _ _)

theorem State.cFill_keeps : ∀ s p1 p2 p3 p4, Keeps s (@State.cFill s p1 p2 p3 p4).2.2 := by
  intro s p1 p2 p3 p4
  unfold State.cFill
  extract_lets +onlyGivenNames -merge x0
  try clear_value x0
  refine Keeps.trans ?_ (State.cBulk_keeps _ _ _ _ _ ?_)
  · exact (Keeps.refl _)
  · intro y1 y2
    try beta_reduce
    refine KeepsIn.some ?_
    exact (Keeps.refl _)

theorem State.cCmp_keeps : ∀ s p1 p2 p3 p4 p5, Keeps s (@State.cCmp s p1 p2 p3 p4 p5).2 := by
  intro s p1 p2 p3 p4 p5
  induction p5 generalizing s p4 with
  | zero => exact Keeps.refl s
  | succ k ih =>
    rw [State.cCmp]
    split
    · extract_lets +onlyGivenNames -merge x0 x1 x2
      have h1 : Keeps s x1.2.2 := Keeps.trans (State.cRead_keeps _ _ _ _) (State.cRead_keeps _ _ _ _)
      clear_value x1
      refine Keeps.iteP (fun (r : CCmp × State) => r.2) h1 ?_
      refine Keeps.iteP (fun (r : CCmp × State) => r.2) h1 ?_
      exact Keeps.trans h1 (ih _ _)
    · exact Keeps.refl s

theorem State.cRd_keeps : ∀ s p1 p2 p3, Keeps s (@State.cRd s p1 p2 p3).st := by
  intro s p1 p2 p3
  unfold State.cRd
  refine Keeps.cxNext ?_
  refine Keeps.trans ?_ (State.setCpc_keeps _ _ _)
  · exact Keeps.trans (Keeps.refl _) (State.setCx_keeps _ _ _ _)

theorem State.cbCopy_keeps : ∀ s p1 p2, Keeps s (@State.cbCopy s p1 p2).st := by
  intro s p1 p2
  unfold State.cbCopy
  extract_lets +onlyGivenNames -merge x0
  try clear_value x0
  extract_lets +onlyGivenNames -merge x1
  try clear_value x1
  extract_lets +onlyGivenNames -merge x2
  try clear_value x2
  refine Keeps.iteP (fun (r : Sys2Proof.Machine.CX) => r.st) ?_ ?_
  · refine Keeps.cxTrap ?_
    exact (Keeps.refl _)
  · refine Keeps.iteP (fun (r : Sys2Proof.Machine.CX) => r.st) ?_ ?_
    · refine Keeps.cxWait ?_
      exact Keeps.trans (Keeps.refl _) (State.cStall_keeps _ _)
    · extract_lets +onlyGivenNames -merge x3
      have h4 : Keeps s x3.2.2 := by
        unfold x3
        exact Keeps.trans (Keeps.refl _) (State.cCopy_keeps _ _ _ _ _)
      try clear_value x3
      exact Keeps.trans h4 (State.cRd_keeps _ _ _ _)

theorem State.cbFill_keeps : ∀ s p1 p2, Keeps s (@State.cbFill s p1 p2).st := by
  intro s p1 p2
  unfold State.cbFill
  extract_lets +onlyGivenNames -merge x0
  try clear_value x0
  refine Keeps.iteP (fun (r : Sys2Proof.Machine.CX) => r.st) ?_ ?_
  · refine Keeps.cxTrap ?_
    exact (Keeps.refl _)
  · refine Keeps.iteP (fun (r : Sys2Proof.Machine.CX) => r.st) ?_ ?_
    · refine Keeps.cxWait ?_
      exact Keeps.trans (Keeps.refl _) (State.cStall_keeps _ _)
    · extract_lets +onlyGivenNames -merge x1
      have h2 : Keeps s x1.2.2 := by
        unfold x1
        exact Keeps.trans (Keeps.refl _) (State.cFill_keeps _ _ _ _ _)
      try clear_value x1
      exact Keeps.trans h2 (State.cRd_keeps _ _ _ _)

theorem State.cbCmp_keeps : ∀ s p1 p2, Keeps s (@State.cbCmp s p1 p2).st := by
  intro s p1 p2
  unfold State.cbCmp
  extract_lets +onlyGivenNames -merge x0
  try clear_value x0
  extract_lets +onlyGivenNames -merge x1
  try clear_value x1
  refine Keeps.iteP (fun (r : Sys2Proof.Machine.CX) => r.st) ?_ ?_
  · refine Keeps.cxTrap ?_
    exact (Keeps.refl _)
  · refine Keeps.iteP (fun (r : Sys2Proof.Machine.CX) => r.st) ?_ ?_
    · refine Keeps.cxWait ?_
      exact Keeps.trans (Keeps.refl _) (State.cStall_keeps _ _)
    · split
      · rename Sys2Proof.Machine.State => m2
        rename _ = _ => hq4
        have h3 : Keeps s m2 := Keeps.ofEq (fun (r : Sys2Proof.Machine.CCmp × Sys2Proof.Machine.State) => r.2) hq4 (by
            exact Keeps.trans (Keeps.refl _) (State.cCmp_keeps _ _ _ _ _ _)
          )
        exact Keeps.trans h3 (State.cRd_keeps _ _ _ _)
      · rename Sys2Proof.Machine.State => m5
        rename _ = _ => hq7
        have h6 : Keeps s m5 := Keeps.ofEq (fun (r : Sys2Proof.Machine.CCmp × Sys2Proof.Machine.State) => r.2) hq7 (by
            exact Keeps.trans (Keeps.refl _) (State.cCmp_keeps _ _ _ _ _ _)
          )
        exact Keeps.trans h6 (State.cRd_keeps _ _ _ _)
      · rename Sys2Proof.Machine.State => m8
        rename _ = _ => hq10
        have h9 : Keeps s m8 := Keeps.ofEq (fun (r : Sys2Proof.Machine.CCmp × Sys2Proof.Machine.State) => r.2) hq10 (by
            exact Keeps.trans (Keeps.refl _) (State.cCmp_keeps _ _ _ _ _ _)
          )
        extract_lets +onlyGivenNames -merge x11
        try clear_value x11
        refine Keeps.cxTrap ?_
        exact h9

theorem State.chainPut_keeps : ∀ s p1 p2 p3 p4, Keeps s (@State.chainPut s p1 p2 p3 p4) := by
  intro s p1 p2 p3 p4
  unfold State.chainPut
  extract_lets +onlyGivenNames -merge x0
  have h1 : Keeps s x0.2 := by
    unfold x0
    try beta_reduce
    exact Keeps.trans (Keeps.refl _) (State.parity_keeps _ _)
  try clear_value x0
  extract_lets +onlyGivenNames -merge x2
  try clear_value x2
  exact Keeps.trans h1 (State.setClove_keeps _ _ _)

theorem State.cbChsend_keeps : ∀ s p1 p2, Keeps s (@State.cbChsend s p1 p2).st := by
  intro s p1 p2
  unfold State.cbChsend
  extract_lets +onlyGivenNames -merge x0
  try clear_value x0
  extract_lets +onlyGivenNames -merge x1
  try clear_value x1
  refine Keeps.iteP (fun (r : Sys2Proof.Machine.CX) => r.st) ?_ ?_
  · refine Keeps.cxTrap ?_
    exact (Keeps.refl _)
  · refine Keeps.iteP (fun (r : Sys2Proof.Machine.CX) => r.st) ?_ ?_
    · refine Keeps.cxTrap ?_
      exact (Keeps.refl _)
    · split
      · exact Keeps.trans (Keeps.refl _) (State.cRd_keeps _ _ _ _)
      · split
        · refine Keeps.iteP (fun (r : Sys2Proof.Machine.CX) => r.st) ?_ ?_
          · refine Keeps.cxWait ?_
            exact Keeps.trans (Keeps.refl _) (State.cBlock_keeps _ _ _)
          · extract_lets +onlyGivenNames -merge x2
            try clear_value x2
            extract_lets +onlyGivenNames -merge x3
            have h4 : Keeps s x3 := by
              unfold x3
              exact Keeps.trans (Keeps.refl _) (State.cRead_keeps _ _ _ _)
            try clear_value x3
            extract_lets +onlyGivenNames -merge x5
            try clear_value x5
            extract_lets +onlyGivenNames -merge x6
            try clear_value x6
            refine Keeps.trans ?_ (State.cRd_keeps _ _ _ _)
            exact Keeps.trans (Keeps.trans h4 (State.chainPut_keeps _ _ _ _ _)) (State.cUnblock_keeps _ _)
        · refine Keeps.cxTrap ?_
          exact (Keeps.refl _)

theorem State.cbChrecv_keeps : ∀ s p1 p2, Keeps s (@State.cbChrecv s p1 p2).st := by
  intro s p1 p2
  unfold State.cbChrecv
  extract_lets +onlyGivenNames -merge x0
  try clear_value x0
  extract_lets +onlyGivenNames -merge x1
  try clear_value x1
  refine Keeps.iteP (fun (r : Sys2Proof.Machine.CX) => r.st) ?_ ?_
  · refine Keeps.cxTrap ?_
    exact (Keeps.refl _)
  · refine Keeps.iteP (fun (r : Sys2Proof.Machine.CX) => r.st) ?_ ?_
    · refine Keeps.cxTrap ?_
      exact (Keeps.refl _)
    · split
      · exact Keeps.trans (Keeps.refl _) (State.cRd_keeps _ _ _ _)
      · split
        · split
          · refine Keeps.cxWait ?_
            exact Keeps.trans (Keeps.refl _) (State.cBlock_keeps _ _ _)
          · extract_lets +onlyGivenNames -merge x2
            try clear_value x2
            extract_lets +onlyGivenNames -merge x3
            try clear_value x3
            extract_lets +onlyGivenNames -merge x4
            try clear_value x4
            refine Keeps.trans ?_ (State.cRd_keeps _ _ _ _)
            · refine Keeps.trans ?_ (State.cUnblock_keeps _ _)
              · exact Keeps.trans (Keeps.refl _) (State.setClove_keeps _ _ _)
        · refine Keeps.cxTrap ?_
          exact (Keeps.refl _)

theorem State.cbChpoll_keeps : ∀ s p1 p2, Keeps s (@State.cbChpoll s p1 p2).st := by
  intro s p1 p2
  unfold State.cbChpoll
  extract_lets +onlyGivenNames -merge x0
  try clear_value x0
  refine Keeps.iteP (fun (r : Sys2Proof.Machine.CX) => r.st) ?_ ?_
  · refine Keeps.cxTrap ?_
    exact (Keeps.refl _)
  · extract_lets +onlyGivenNames -merge x1
    try clear_value x1
    exact Keeps.trans (Keeps.refl _) (State.cRd_keeps _ _ _ _)

theorem State.cbFence_keeps : ∀ s p1 p2, Keeps s (@State.cbFence s p1 p2).st := by
  intro s p1 p2
  unfold State.cbFence
  refine Keeps.iteP (fun (r : CX) => r.st) (Keeps.cxTrap (Keeps.refl _)) ?_
  refine Keeps.iteP (fun (r : CX) => r.st) (Keeps.cxWait (Keeps.refl _)) ?_
  exact Keeps.trans (State.cFence_keeps _ _) (State.cRd_keeps _ _ _ _)

theorem State.cAtomic_keeps : ∀ s p1 p2 p3 p4 p5 p6, KeepsIn s (fun (r : Sys2Proof.Machine.ARes) => r.st) (@State.cAtomic s p1 p2 p3 p4 p5 p6) := by
  intro s p1 p2 p3 p4 p5 p6
  unfold State.cAtomic
  extract_lets +onlyGivenNames -merge x0
  try clear_value x0
  extract_lets +onlyGivenNames -merge x1
  try clear_value x1
  split
  · refine KeepsIn.some ?_
    exact Keeps.trans (Keeps.ite (State.requesterFence_keeps _ _) (Keeps.refl _)) (State.rmw_keeps _ _ _ _ _)
  · refine KeepsIn.some ?_
    exact Keeps.trans (Keeps.refl _) (State.rmw_keeps _ _ _ _ _)
  · refine KeepsIn.some ?_
    exact Keeps.trans (Keeps.refl _) (State.rmw_keeps _ _ _ _ _)
  · refine KeepsIn.some ?_
    exact Keeps.trans (Keeps.refl _) (State.rmw_keeps _ _ _ _ _)
  · refine KeepsIn.some ?_
    exact Keeps.trans (Keeps.refl _) (State.rmw_keeps _ _ _ _ _)
  · refine KeepsIn.some ?_
    exact Keeps.trans (Keeps.refl _) (State.rmw_keeps _ _ _ _ _)
  · refine KeepsIn.some ?_
    exact Keeps.trans (Keeps.refl _) (State.refinc_keeps _ _ _)
  · refine KeepsIn.some ?_
    exact Keeps.trans (Keeps.refl _) (State.refdec_keeps _ _ _)
  · extract_lets +onlyGivenNames -merge e
    refine KeepsIn.ite KeepsIn.none ?_
    extract_lets +onlyGivenNames -merge r
    have hr : Keeps s r.st :=
      Keeps.iteP (fun (r : ARes) => r.st) (State.pop_keeps _ _ _ _ _) (State.push_keeps _ _ _ _ _ _)
    clear_value r
    exact KeepsIn.ite KeepsIn.none (KeepsIn.some hr)

theorem State.cbAtom_keeps : ∀ s p1 p2, Keeps s (@State.cbAtom s p1 p2).st := by
  intro s p1 p2
  unfold State.cbAtom
  extract_lets +onlyGivenNames -merge x0
  try clear_value x0
  extract_lets +onlyGivenNames -merge x1
  try clear_value x1
  extract_lets +onlyGivenNames -merge x2
  try clear_value x2
  refine Keeps.iteP (fun (r : Sys2Proof.Machine.CX) => r.st) ?_ ?_
  · refine Keeps.cxTrap ?_
    exact (Keeps.refl _)
  · split
    · refine Keeps.iteP (fun (r : Sys2Proof.Machine.CX) => r.st) ?_ ?_
      · refine Keeps.cxWait ?_
        exact Keeps.trans (Keeps.refl _) (State.cStall_keeps _ _)
      · refine Keeps.iteP (fun (r : Sys2Proof.Machine.CX) => r.st) (State.cRd_keeps _ _ _ _) ?_
        split
        · rename_i r hq
          exact Keeps.trans (KeepsIn.ofEq (fun (r : ARes) => r.st) hq (State.cAtomic_keeps _ _ _ _ _ _ _)) (State.cRd_keeps _ _ _ _)
        · exact Keeps.cxTrap (Keeps.refl _)
    · refine Keeps.cxTrap ?_
      exact (Keeps.refl _)

theorem State.cbTraise_keeps : ∀ s p1 p2, Keeps s (@State.cbTraise s p1 p2).st := by
  intro s p1 p2
  unfold State.cbTraise
  extract_lets +onlyGivenNames -merge x0 x1
  clear_value x0 x1
  refine Keeps.iteP (fun (r : CX) => r.st) (Keeps.cxTrap (Keeps.refl _)) ?_
  refine Keeps.iteP (fun (r : CX) => r.st) (Keeps.cxWait (Keeps.refl _)) ?_
  extract_lets +onlyGivenNames -merge x2
  have h3 : Keeps s x2 := State.cFence_keeps _ _
  clear_value x2
  refine Keeps.iteP (fun (r : CX) => r.st) ?_ (Keeps.cxTrap h3)
  exact Keeps.trans (Keeps.trans h3 (State.svcToken_keeps _ _ _ _ _ _)) (State.cRd_keeps _ _ _ _)

theorem State.cbDone_keeps : ∀ s p1 p2, Keeps s (@State.cbDone s p1 p2).st := by
  intro s p1 p2
  unfold State.cbDone
  refine Keeps.iteP (fun (r : CX) => r.st) (Keeps.cxTrap (Keeps.refl _)) ?_
  refine Keeps.iteP (fun (r : CX) => r.st) (Keeps.cxWait (Keeps.refl _)) ?_
  extract_lets +onlyGivenNames -merge x0 x1 x2
  clear_value x0 x1
  have h3 : Keeps s x2 := State.cFence_keeps _ _
  clear_value x2
  split
  · exact Keeps.trans (Keeps.trans h3 (State.cComplete_keeps _ _ _ _ _)) (State.cRd_keeps _ _ _ _)
  · exact Keeps.trans h3 (State.cRd_keeps _ _ _ _)

theorem State.cbWaitcmd_keeps : ∀ s p1 p2, Keeps s (@State.cbWaitcmd s p1 p2).st := by
  intro s p1 p2
  unfold State.cbWaitcmd
  extract_lets +onlyGivenNames -merge x0
  try clear_value x0
  refine Keeps.iteP (fun (r : Sys2Proof.Machine.CX) => r.st) ?_ ?_
  · refine Keeps.cxTrap ?_
    exact (Keeps.refl _)
  · refine Keeps.iteP (fun (r : Sys2Proof.Machine.CX) => r.st) ?_ ?_
    · exact Keeps.trans (Keeps.refl _) (State.cRd_keeps _ _ _ _)
    · split
      · refine Keeps.iteP (fun (r : Sys2Proof.Machine.CX) => r.st) ?_ ?_
        · extract_lets +onlyGivenNames -merge x1
          have h2 : Keeps s x1 := by
            unfold x1
            exact Keeps.trans (Keeps.refl _) (State.setClove_keeps _ _ _)
          try clear_value x1
          extract_lets +onlyGivenNames -merge x3
          have h4 : Keeps s x3 := by
            unfold x3
            exact Keeps.trans h2 (State.traceClove_keeps _ _ _ _ _ _ _ _ _)
          try clear_value x3
          refine Keeps.iteP (fun (r : Sys2Proof.Machine.CX) => r.st) ?_ ?_
          · refine Keeps.cxWait ?_
            refine Keeps.trans ?_ (State.cComplete_keeps _ _ _ _ _)
            · exact Keeps.trans h4 (State.cFence_keeps _ _)
          · exact Keeps.trans h4 (State.cRd_keeps _ _ _ _)
        · refine Keeps.cxWait ?_
          exact Keeps.trans (Keeps.refl _) (State.setClove_keeps _ _ _)
      · refine Keeps.cxWait ?_
        exact Keeps.trans (Keeps.refl _) (State.setClove_keeps _ _ _)

theorem State.cExt_keeps : ∀ s p1 p2, Keeps s (@State.cExt s p1 p2).st := by
  intro s p1 p2
  unfold State.cExt
  refine Keeps.iteP (fun (r : Sys2Proof.Machine.CX) => r.st) ?_ ?_
  · split
    · refine Keeps.iteP (fun (r : Sys2Proof.Machine.CX) => r.st) ?_ ?_
      · refine Keeps.cxTrap ?_
        exact (Keeps.refl _)
      · exact Keeps.trans (Keeps.refl _) (State.cbCopy_keeps _ _ _)
    · refine Keeps.iteP (fun (r : Sys2Proof.Machine.CX) => r.st) ?_ ?_
      · refine Keeps.cxTrap ?_
        exact (Keeps.refl _)
      · exact Keeps.trans (Keeps.refl _) (State.cbFill_keeps _ _ _)
    · refine Keeps.iteP (fun (r : Sys2Proof.Machine.CX) => r.st) ?_ ?_
      · refine Keeps.cxTrap ?_
        exact (Keeps.refl _)
      · exact Keeps.trans (Keeps.refl _) (State.cbCmp_keeps _ _ _)
    · exact Keeps.trans (Keeps.refl _) (State.cbChsend_keeps _ _ _)
    · exact Keeps.trans (Keeps.refl _) (State.cbChrecv_keeps _ _ _)
    · exact Keeps.trans (Keeps.refl _) (State.cbChpoll_keeps _ _ _)
    · exact Keeps.trans (Keeps.refl _) (State.cbFence_keeps _ _ _)
    · exact Keeps.trans (Keeps.refl _) (State.cbAtom_keeps _ _ _)
  · split
    · exact Keeps.trans (Keeps.refl _) (State.cbTraise_keeps _ _ _)
    · exact Keeps.trans (Keeps.refl _) (State.cbDone_keeps _ _ _)
    · exact Keeps.trans (Keeps.refl _) (State.cbWaitcmd_keeps _ _ _)
    · refine Keeps.cxTrap ?_
      exact (Keeps.refl _)

theorem State.cAlone_keeps : ∀ s p1 p2 p3 p4 p5, (∀ y0 y1 y2, Keeps y0 (p5 y0 y1 y2).st) → Keeps s (@State.cAlone s p1 p2 p3 p4 p5) := by
  intro s p1 p2 p3 p4 p5 hf5o
  unfold State.cAlone
  refine Keeps.ite ?_ ?_
  · refine Keeps.trans ?_ (State.cEnd_keeps _ _)
    · refine Keeps.trans ?_ (hf5o _ _ _)
      exact (Keeps.refl _)
  · exact (Keeps.refl _)

theorem execCbCopy_keeps : ∀ p0 p1 s, Good s (@execCbCopy p0 p1 s) := by
  intro p0 p1 s
  unfold execCbCopy
  refine ⟨_, rfl, ?_⟩
  refine Keeps.trans ?_ (State.cAlone_keeps _ _ _ _ _ _ ?_)
  · exact (Keeps.refl _)
  · intro y0 y1 y2
    try beta_reduce
    exact Keeps.trans (Keeps.refl _) (State.cExt_keeps _ _ _)

theorem execCbFill_keeps : ∀ p0 p1 s, Good s (@execCbFill p0 p1 s) := by
  intro p0 p1 s
  unfold execCbFill
  refine ⟨_, rfl, ?_⟩
  refine Keeps.trans ?_ (State.cAlone_keeps _ _ _ _ _ _ ?_)
  · exact (Keeps.refl _)
  · intro y0 y1 y2
    try beta_reduce
    exact Keeps.trans (Keeps.refl _) (State.cExt_keeps _ _ _)

theorem execCbCmp_keeps : ∀ p0 p1 s, Good s (@execCbCmp p0 p1 s) := by
  intro p0 p1 s
  unfold execCbCmp
  refine ⟨_, rfl, ?_⟩
  refine Keeps.trans ?_ (State.cAlone_keeps _ _ _ _ _ _ ?_)
  · exact (Keeps.refl _)
  · intro y0 y1 y2
    try beta_reduce
    exact Keeps.trans (Keeps.refl _) (State.cExt_keeps _ _ _)

theorem execCbChsend_keeps : ∀ p0 p1 s, Good s (@execCbChsend p0 p1 s) := by
  intro p0 p1 s
  unfold execCbChsend
  refine ⟨_, rfl, ?_⟩
  refine Keeps.trans ?_ (State.cAlone_keeps _ _ _ _ _ _ ?_)
  · exact (Keeps.refl _)
  · intro y0 y1 y2
    try beta_reduce
    exact Keeps.trans (Keeps.refl _) (State.cbChsend_keeps _ _ _)

theorem execCbChrecv_keeps : ∀ p0 p1 s, Good s (@execCbChrecv p0 p1 s) := by
  intro p0 p1 s
  unfold execCbChrecv
  refine ⟨_, rfl, ?_⟩
  refine Keeps.trans ?_ (State.cAlone_keeps _ _ _ _ _ _ ?_)
  · exact (Keeps.refl _)
  · intro y0 y1 y2
    try beta_reduce
    exact Keeps.trans (Keeps.refl _) (State.cbChrecv_keeps _ _ _)

theorem execCbChpoll_keeps : ∀ p0 p1 s, Good s (@execCbChpoll p0 p1 s) := by
  intro p0 p1 s
  unfold execCbChpoll
  refine ⟨_, rfl, ?_⟩
  refine Keeps.trans ?_ (State.cAlone_keeps _ _ _ _ _ _ ?_)
  · exact (Keeps.refl _)
  · intro y0 y1 y2
    try beta_reduce
    exact Keeps.trans (Keeps.refl _) (State.cbChpoll_keeps _ _ _)

theorem execCbFence_keeps : ∀ p0 p1 s, Good s (@execCbFence p0 p1 s) := by
  intro p0 p1 s
  unfold execCbFence
  refine ⟨_, rfl, ?_⟩
  refine Keeps.trans ?_ (State.cAlone_keeps _ _ _ _ _ _ ?_)
  · exact (Keeps.refl _)
  · intro y0 y1 y2
    try beta_reduce
    exact Keeps.trans (Keeps.refl _) (State.cbFence_keeps _ _ _)

theorem execCbAtom_keeps : ∀ p0 p1 s, Good s (@execCbAtom p0 p1 s) := by
  intro p0 p1 s
  unfold execCbAtom
  refine ⟨_, rfl, ?_⟩
  refine Keeps.trans ?_ (State.cAlone_keeps _ _ _ _ _ _ ?_)
  · exact (Keeps.refl _)
  · intro y0 y1 y2
    try beta_reduce
    exact Keeps.trans (Keeps.refl _) (State.cbAtom_keeps _ _ _)

theorem execCbTraise_keeps : ∀ p0 p1 s, Good s (@execCbTraise p0 p1 s) := by
  intro p0 p1 s
  unfold execCbTraise
  refine ⟨_, rfl, ?_⟩
  refine Keeps.trans ?_ (State.cAlone_keeps _ _ _ _ _ _ ?_)
  · exact (Keeps.refl _)
  · intro y0 y1 y2
    try beta_reduce
    exact Keeps.trans (Keeps.refl _) (State.cbTraise_keeps _ _ _)

theorem execCbDone_keeps : ∀ p0 p1 s, Good s (@execCbDone p0 p1 s) := by
  intro p0 p1 s
  unfold execCbDone
  refine ⟨_, rfl, ?_⟩
  refine Keeps.trans ?_ (State.cAlone_keeps _ _ _ _ _ _ ?_)
  · exact (Keeps.refl _)
  · intro y0 y1 y2
    try beta_reduce
    exact Keeps.trans (Keeps.refl _) (State.cbDone_keeps _ _ _)

theorem execCbWaitcmd_keeps : ∀ p0 p1 s, Good s (@execCbWaitcmd p0 p1 s) := by
  intro p0 p1 s
  unfold execCbWaitcmd
  refine ⟨_, rfl, ?_⟩
  refine Keeps.trans ?_ (State.cAlone_keeps _ _ _ _ _ _ ?_)
  · exact (Keeps.refl _)
  · intro y0 y1 y2
    try beta_reduce
    exact Keeps.trans (Keeps.refl _) (State.cbWaitcmd_keeps _ _ _)

theorem execChainMessageArrival_keeps : ∀ p0 p1 s, Good s (@execChainMessageArrival p0 p1 s) := by
  intro p0 p1 s
  unfold execChainMessageArrival
  extract_lets +onlyGivenNames -merge x0
  try clear_value x0
  split
  · refine ⟨_, rfl, ?_⟩
    exact (Keeps.refl _)
  · extract_lets +onlyGivenNames -merge x1
    try clear_value x1
    extract_lets +onlyGivenNames -merge x2
    try clear_value x2
    refine Good.ite ?_ ?_
    · refine ⟨_, rfl, ?_⟩
      exact (Keeps.refl _)
    · extract_lets +onlyGivenNames -merge x3
      have h4 : Keeps s x3 := by
        unfold x3
        try beta_reduce
        exact Keeps.trans (Keeps.refl _) (State.setClove_keeps _ _ _)
      try clear_value x3
      extract_lets +onlyGivenNames -merge x5
      try clear_value x5
      refine ⟨_, rfl, ?_⟩
      exact Keeps.trans h4 (State.setClove_keeps _ _ _)

theorem execCommandPost_keeps : ∀ p0 p1 p2 s, Good s (@execCommandPost p0 p1 p2 s) := by
  intro p0 p1 p2 s
  unfold execCommandPost
  split
  · refine ⟨_, rfl, ?_⟩
    exact (Keeps.refl _)
  · extract_lets +onlyGivenNames -merge x0
    try clear_value x0
    refine Good.ite ?_ ?_
    · refine ⟨_, rfl, ?_⟩
      exact (Keeps.refl _)
    · extract_lets +onlyGivenNames -merge x1
      have h2 : Keeps s x1.2.2 := by
        unfold x1
        exact Keeps.trans (Keeps.refl _) (State.devRead_keeps _ _ _)
      try clear_value x1
      extract_lets +onlyGivenNames -merge x3
      have h4 : Keeps s x3 := by
        unfold x3
        exact h2
      try clear_value x3
      refine Good.ite ?_ ?_
      · refine ⟨_, rfl, ?_⟩
        exact h4
      · extract_lets +onlyGivenNames -merge x5
        try clear_value x5
        extract_lets +onlyGivenNames -merge x6
        have h7 : Keeps s x6 := by
          unfold x6
          exact Keeps.trans h4 (State.setClove_keeps _ _ _)
        try clear_value x6
        refine ⟨_, rfl, ?_⟩
        refine Keeps.ite ?_ ?_
        · exact Keeps.trans h7 (State.cFlush_keeps _ _ _)
        · exact h7

end Sys2Proof.Machine
end

