-- ==== Sys2Proof/Laws/CloveCore.lean ====
section
/-! SUPPORT. What the operations of Machine/CloveCore.lean keep: the queue of waiting commands and the canonical form of the state
(Keeps); and that its commands answer a next state (Good). -/

namespace Sys2Proof.Machine

theorem State.csrRead_keeps : ∀ s p1 p2, Keeps s (@State.csrRead s p1 p2).2 := by
  intro s p1 p2
  unfold State.csrRead
  refine Keeps.iteP (fun (r : ℕ × Sys2Proof.Machine.State) => r.2) ?_ ?_
  · refine Keeps.snd ?_
    exact (Keeps.refl _)
  · refine Keeps.iteP (fun (r : ℕ × Sys2Proof.Machine.State) => r.2) ?_ ?_
    · refine Keeps.snd ?_
      exact (Keeps.refl _)
    · refine Keeps.iteP (fun (r : ℕ × Sys2Proof.Machine.State) => r.2) ?_ ?_
      · refine Keeps.snd ?_
        exact (Keeps.refl _)
      · refine Keeps.iteP (fun (r : ℕ × Sys2Proof.Machine.State) => r.2) ?_ ?_
        · refine Keeps.snd ?_
          exact Keeps.trans (Keeps.refl _) (State.free_keeps _ _)
        · refine Keeps.iteP (fun (r : ℕ × Sys2Proof.Machine.State) => r.2) ?_ ?_
          · refine Keeps.iteP (fun (r : ℕ × Sys2Proof.Machine.State) => r.2) ?_ ?_
            · refine Keeps.snd ?_
              exact Keeps.trans (Keeps.refl _) (State.free_keeps _ _)
            · refine Keeps.iteP (fun (r : ℕ × Sys2Proof.Machine.State) => r.2) ?_ ?_
              · refine Keeps.snd ?_
                exact (Keeps.refl _)
              · refine Keeps.snd ?_
                exact (Keeps.refl _)
          · refine Keeps.iteP (fun (r : ℕ × Sys2Proof.Machine.State) => r.2) ?_ ?_
            · refine Keeps.snd ?_
              exact (Keeps.refl _)
            · refine Keeps.iteP (fun (r : ℕ × Sys2Proof.Machine.State) => r.2) ?_ ?_
              · refine Keeps.snd ?_
                exact (Keeps.refl _)
              · refine Keeps.snd ?_
                exact (Keeps.refl _)

theorem State.csrWrite_keeps : ∀ s p1 p2 p3, Keeps s (@State.csrWrite s p1 p2 p3) := by
  intro s p1 p2 p3
  unfold State.csrWrite
  extract_lets +onlyGivenNames -merge x0
  have h2 : ∀ y1, Keeps s (x0 y1) := by
    intro y1
    unfold x0
    try beta_reduce
    exact Keeps.trans (Keeps.refl _) (State.setCcsr_keeps _ _ _ _)
  try clear_value x0
  refine Keeps.ite ?_ ?_
  · extract_lets +onlyGivenNames -merge x3
    try clear_value x3
    exact Keeps.trans (Keeps.refl _) (State.setCcsr_keeps _ _ _ _)
  · refine Keeps.ite ?_ ?_
    · exact Keeps.trans (Keeps.refl _) (h2 _)
    · refine Keeps.ite ?_ ?_
      · exact Keeps.trans (Keeps.refl _) (h2 _)
      · refine Keeps.ite ?_ ?_
        · exact Keeps.trans (Keeps.refl _) (h2 _)
        · refine Keeps.ite ?_ ?_
          · exact Keeps.trans (Keeps.refl _) (State.setCcsr_keeps _ _ _ _)
          · refine Keeps.ite ?_ ?_
            · refine Keeps.ite ?_ ?_
              · extract_lets +onlyGivenNames -merge x4
                have h5 : Keeps s x4.2 := by
                  unfold x4
                  try beta_reduce
                  exact Keeps.trans (Keeps.refl _) (State.free_keeps _ _)
                try clear_value x4
                refine Keeps.trans ?_ (State.setCcsr_keeps _ _ _ _)
                refine Keeps.trans ?_ (State.setCcsr_keeps _ _ _ _)
                exact Keeps.trans h5 (State.setCcsr_keeps _ _ _ _)
              · exact Keeps.trans (Keeps.refl _) (h2 _)
            · refine Keeps.ite ?_ ?_
              · exact Keeps.trans (Keeps.refl _) (h2 _)
              · refine Keeps.ite ?_ ?_
                · exact Keeps.trans (Keeps.refl _) (State.setCcsr_keeps _ _ _ _)
                · exact (Keeps.refl _)

theorem State.cCsr_keeps : ∀ s p1 p2 p3, Keeps s (@State.cCsr s p1 p2 p3).st := by
  intro s p1 p2 p3
  unfold State.cCsr
  extract_lets +onlyGivenNames -merge x0
  try clear_value x0
  extract_lets +onlyGivenNames -merge x1
  try clear_value x1
  extract_lets +onlyGivenNames -merge x2
  try clear_value x2
  extract_lets +onlyGivenNames -merge x3
  try clear_value x3
  refine Keeps.iteP (fun (r : Sys2Proof.Machine.CX) => r.st) ?_ ?_
  · refine Keeps.cxTrap ?_
    exact (Keeps.refl _)
  · extract_lets +onlyGivenNames -merge x4
    have h5 : Keeps s x4.2 := by
      unfold x4
      refine Keeps.iteP (fun (r : Nat × Sys2Proof.Machine.State) => r.2) ?_ ?_
      · refine Keeps.snd ?_
        exact (Keeps.refl _)
      · exact Keeps.trans (Keeps.refl _) (State.csrRead_keeps _ _ _)
    try clear_value x4
    extract_lets +onlyGivenNames -merge x6
    try clear_value x6
    extract_lets +onlyGivenNames -merge x7
    have h8 : Keeps s x7 := by
      unfold x7
      exact h5
    try clear_value x7
    extract_lets +onlyGivenNames -merge x9
    try clear_value x9
    extract_lets +onlyGivenNames -merge x10
    have h11 : Keeps s x10 := by
      unfold x10
      refine Keeps.ite ?_ ?_
      · exact Keeps.trans h8 (State.csrWrite_keeps _ _ _ _)
      · exact h8
    try clear_value x10
    have h12 := Keeps.trans (Keeps.trans h11 (State.setCx_keeps x10 p1 (iRd p2) x6)) (State.setCpc_keeps _ p1 ((x10.clove p1).pc.toNat + p3))
    exact Keeps.iteP (fun (r : CX) => r.st) (Keeps.cxWrote h12) (Keeps.cxNext h12)

theorem State.cNext_keeps : ∀ s p1 p2, Keeps s (@State.cNext s p1 p2).st := by
  intro s p1 p2
  unfold State.cNext
  refine Keeps.cxNext ?_
  exact Keeps.trans (Keeps.refl _) (State.setCpc_keeps _ _ _)

theorem State.rvLoad_keeps : ∀ s p1 p2 p3, Keeps s (@State.rvLoad s p1 p2 p3).st := by
  intro s p1 p2 p3
  unfold State.rvLoad
  extract_lets +onlyGivenNames -merge x0
  try clear_value x0
  extract_lets +onlyGivenNames -merge x1
  try clear_value x1
  extract_lets +onlyGivenNames -merge x2
  try clear_value x2
  refine Keeps.iteP (fun (r : Sys2Proof.Machine.CX) => r.st) ?_ ?_
  · refine Keeps.cxTrap ?_
    exact (Keeps.refl _)
  · refine Keeps.iteP (fun (r : Sys2Proof.Machine.CX) => r.st) ?_ ?_
    · refine Keeps.cxTrap ?_
      exact (Keeps.refl _)
    · split
      · refine Keeps.cxTrap ?_
        exact (Keeps.refl _)
      · refine Keeps.iteP (fun (r : Sys2Proof.Machine.CX) => r.st) ?_ ?_
        · refine Keeps.cxWait ?_
          exact Keeps.trans (Keeps.refl _) (State.cStall_keeps _ _)
        · extract_lets +onlyGivenNames -merge x3
          have h4 : Keeps s x3.2.2 := by
            unfold x3
            exact Keeps.trans (Keeps.refl _) (State.cLoad_keeps _ _ _ _)
          try clear_value x3
          refine Keeps.iteP (fun (r : Sys2Proof.Machine.CX) => r.st) ?_ ?_
          · refine Keeps.cxTrap ?_
            exact h4
          · extract_lets +onlyGivenNames -merge x5
            try clear_value x5
            extract_lets +onlyGivenNames -merge x6
            try clear_value x6
            refine Keeps.trans ?_ (State.cNext_keeps _ _ _)
            · exact Keeps.trans h4 (State.setCx_keeps _ _ _ _)

theorem State.rvStore_keeps : ∀ s p1 p2 p3, Keeps s (@State.rvStore s p1 p2 p3).st := by
  intro s p1 p2 p3
  unfold State.rvStore
  extract_lets +onlyGivenNames -merge x0
  try clear_value x0
  extract_lets +onlyGivenNames -merge x1
  try clear_value x1
  extract_lets +onlyGivenNames -merge x2
  try clear_value x2
  refine Keeps.iteP (fun (r : Sys2Proof.Machine.CX) => r.st) ?_ ?_
  · refine Keeps.cxTrap ?_
    exact (Keeps.refl _)
  · refine Keeps.iteP (fun (r : Sys2Proof.Machine.CX) => r.st) ?_ ?_
    · refine Keeps.cxTrap ?_
      exact (Keeps.refl _)
    · split
      · refine Keeps.cxTrap ?_
        exact (Keeps.refl _)
      · refine Keeps.iteP (fun (r : Sys2Proof.Machine.CX) => r.st) ?_ ?_
        · refine Keeps.cxWait ?_
          exact Keeps.trans (Keeps.refl _) (State.cStall_keeps _ _)
        · refine Keeps.trans ?_ (State.cNext_keeps _ _ _)
          · exact Keeps.trans (Keeps.refl _) (State.cWrite_keeps _ _ _ _ _)

theorem State.rvSystem_keeps : ∀ s p1 p2 p3, Keeps s (@State.rvSystem s p1 p2 p3).st := by
  intro s p1 p2 p3
  unfold State.rvSystem
  extract_lets +onlyGivenNames -merge x0
  try clear_value x0
  refine Keeps.iteP (fun (r : Sys2Proof.Machine.CX) => r.st) ?_ ?_
  · refine Keeps.cxTrap ?_
    exact (Keeps.refl _)
  · refine Keeps.iteP (fun (r : Sys2Proof.Machine.CX) => r.st) ?_ ?_
    · refine Keeps.cxTrap ?_
      exact (Keeps.refl _)
    · refine Keeps.iteP (fun (r : Sys2Proof.Machine.CX) => r.st) ?_ ?_
      · refine Keeps.iteP (fun (r : Sys2Proof.Machine.CX) => r.st) ?_ ?_
        · refine Keeps.cxTrap ?_
          exact (Keeps.refl _)
        · extract_lets +onlyGivenNames -merge x1
          try clear_value x1
          extract_lets +onlyGivenNames -merge x2
          try clear_value x2
          extract_lets +onlyGivenNames -merge x3
          try clear_value x3
          extract_lets +onlyGivenNames -merge x4
          try clear_value x4
          extract_lets +onlyGivenNames -merge x5
          have h6 : Keeps s x5 := by
            unfold x5
            exact Keeps.trans (Keeps.refl _) (State.setCcsr_keeps _ _ _ _)
          try clear_value x5
          refine Keeps.cxNext ?_
          refine Keeps.trans ?_ (State.setCpc_keeps _ _ _)
          · exact Keeps.trans h6 (State.setClove_keeps _ _ _)
      · refine Keeps.iteP (fun (r : Sys2Proof.Machine.CX) => r.st) ?_ ?_
        · refine Keeps.iteP (fun (r : Sys2Proof.Machine.CX) => r.st) ?_ ?_
          · refine Keeps.cxTrap ?_
            exact (Keeps.refl _)
          · exact Keeps.trans (Keeps.refl _) (State.cNext_keeps _ _ _)
        · refine Keeps.cxTrap ?_
          exact (Keeps.refl _)

theorem State.rvExec_keeps : ∀ s p1 p2 p3, Keeps s (@State.rvExec s p1 p2 p3).st := by
  intro s p1 p2 p3
  unfold State.rvExec
  extract_lets +onlyGivenNames -merge x0
  try clear_value x0
  extract_lets +onlyGivenNames -merge x1
  try clear_value x1
  extract_lets +onlyGivenNames -merge x2
  try clear_value x2
  split
  · refine Keeps.trans ?_ (State.cNext_keeps _ _ _)
    · exact Keeps.trans (Keeps.refl _) (State.setCx_keeps _ _ _ _)
  · refine Keeps.trans ?_ (State.cNext_keeps _ _ _)
    · exact Keeps.trans (Keeps.refl _) (State.setCx_keeps _ _ _ _)
  · refine Keeps.cxNext ?_
    refine Keeps.trans ?_ (State.setCpc_keeps _ _ _)
    · exact Keeps.trans (Keeps.refl _) (State.setCx_keeps _ _ _ _)
  · refine Keeps.iteP (fun (r : Sys2Proof.Machine.CX) => r.st) ?_ ?_
    · refine Keeps.cxTrap ?_
      exact (Keeps.refl _)
    · refine Keeps.cxNext ?_
      refine Keeps.trans ?_ (State.setCpc_keeps _ _ _)
      · exact Keeps.trans (Keeps.refl _) (State.setCx_keeps _ _ _ _)
  · split
    · refine Keeps.cxTrap ?_
      exact (Keeps.refl _)
    · refine Keeps.cxNext ?_
      exact Keeps.trans (Keeps.refl _) (State.setCpc_keeps _ _ _)
    · exact Keeps.trans (Keeps.refl _) (State.cNext_keeps _ _ _)
  · exact Keeps.trans (Keeps.refl _) (State.rvLoad_keeps _ _ _ _)
  · exact Keeps.trans (Keeps.refl _) (State.rvStore_keeps _ _ _ _)
  · extract_lets +onlyGivenNames -merge x3
    try clear_value x3
    refine Keeps.iteP (fun (r : Sys2Proof.Machine.CX) => r.st) ?_ ?_
    · refine Keeps.cxTrap ?_
      exact (Keeps.refl _)
    · refine Keeps.trans ?_ (State.cNext_keeps _ _ _)
      · exact Keeps.trans (Keeps.refl _) (State.setCx_keeps _ _ _ _)
  · extract_lets +onlyGivenNames -merge x4
    try clear_value x4
    refine Keeps.iteP (fun (r : Sys2Proof.Machine.CX) => r.st) ?_ ?_
    · refine Keeps.trans ?_ (State.cNext_keeps _ _ _)
      · exact Keeps.trans (Keeps.refl _) (State.setCx_keeps _ _ _ _)
    · refine Keeps.iteP (fun (r : Sys2Proof.Machine.CX) => r.st) ?_ ?_
      · refine Keeps.trans ?_ (State.cNext_keeps _ _ _)
        · exact Keeps.trans (Keeps.refl _) (State.setCx_keeps _ _ _ _)
      · refine Keeps.cxTrap ?_
        exact (Keeps.refl _)
  · refine Keeps.iteP (fun (r : Sys2Proof.Machine.CX) => r.st) ?_ ?_
    · exact Keeps.trans (Keeps.refl _) (State.cNext_keeps _ _ _)
    · refine Keeps.cxTrap ?_
      exact (Keeps.refl _)
  · refine Keeps.iteP (fun (r : Sys2Proof.Machine.CX) => r.st) ?_ ?_
    · exact Keeps.trans (Keeps.refl _) (State.rvSystem_keeps _ _ _ _)
    · refine Keeps.iteP (fun (r : Sys2Proof.Machine.CX) => r.st) ?_ ?_
      · refine Keeps.cxTrap ?_
        exact (Keeps.refl _)
      · exact Keeps.trans (Keeps.refl _) (State.cCsr_keeps _ _ _ _)
  · exact Keeps.trans (Keeps.refl _) (State.cExt_keeps _ _ _)
  · exact Keeps.trans (Keeps.refl _) (State.cExt_keeps _ _ _)
  · refine Keeps.cxTrap ?_
    exact (Keeps.refl _)

theorem State.cFetch_keeps : ∀ s p1 p2, KeepsIn s (fun (r : Nat × Sys2Proof.Machine.State) => r.2) (@State.cFetch s p1 p2) := by
  intro s p1 p2
  unfold State.cFetch
  extract_lets +onlyGivenNames -merge x0
  try clear_value x0
  refine KeepsIn.ite ?_ ?_
  · exact KeepsIn.none
  · split
    · exact KeepsIn.none
    · extract_lets +onlyGivenNames -merge x1
      have h2 : Keeps s x1.2.2 := by
        unfold x1
        exact Keeps.trans (Keeps.refl _) (State.cRead_keeps _ _ _ _)
      try clear_value x1
      refine KeepsIn.ite ?_ ?_
      · exact KeepsIn.none
      · refine KeepsIn.some ?_
        refine Keeps.snd ?_
        exact h2

theorem execCloveInstruction_keeps : ∀ p0 s, Good s (@execCloveInstruction p0 s) := by
  intro p0 s
  unfold execCloveInstruction
  refine Good.ite ?_ ?_
  · refine ⟨_, rfl, ?_⟩
    exact (State.cloveHeld_keeps _ _)
  · extract_lets +onlyGivenNames -merge x0
    try clear_value x0
    split
    · refine ⟨_, rfl, ?_⟩
      refine Keeps.trans ?_ (State.cEnd_keeps _ _)
      · refine Keeps.cxTrap ?_
        exact (Keeps.refl _)
    · rename Sys2Proof.Machine.State => m1
      rename _ = _ => hq3
      have h2 : Keeps s m1 := KeepsIn.ofEq (fun (r : Nat × Sys2Proof.Machine.State) => r.2) hq3 (by
          exact KeepsIn.trans (Keeps.refl _) (State.cFetch_keeps _ _ _)
        )
      refine Good.ite ?_ ?_
      · split
        · refine ⟨_, rfl, ?_⟩
          refine Keeps.trans ?_ (State.cEnd_keeps _ _)
          · exact Keeps.trans h2 (State.rvExec_keeps _ _ _ _)
        · refine ⟨_, rfl, ?_⟩
          refine Keeps.trans ?_ (State.cEnd_keeps _ _)
          · refine Keeps.cxTrap ?_
            exact h2
      · split
        · refine ⟨_, rfl, ?_⟩
          refine Keeps.trans ?_ (State.cEnd_keeps _ _)
          · refine Keeps.cxTrap ?_
            exact h2
        · rename Sys2Proof.Machine.State => m4
          rename _ = _ => hq6
          have h5 : Keeps s m4 := KeepsIn.ofEq (fun (r : Nat × Sys2Proof.Machine.State) => r.2) hq6 (by
              exact KeepsIn.trans h2 (State.cFetch_keeps _ _ _)
            )
          refine ⟨_, rfl, ?_⟩
          refine Keeps.trans ?_ (State.cEnd_keeps _ _)
          · exact Keeps.trans h5 (State.rvExec_keeps _ _ _ _)

end Sys2Proof.Machine
end

