-- ==== Sys2Proof/Laws/CloveFn.lean ====
section
/-! SUPPORT. What the operations of Machine/CloveFn.lean keep: the queue of waiting commands and the canonical form of the state
(Keeps); and that its commands answer a next state (Good). -/

namespace Sys2Proof.Machine

theorem State.fnEnd_keeps : ∀ s p1 p2 p3, Keeps s (@State.fnEnd s p1 p2 p3) := by
  intro s p1 p2 p3
  unfold State.fnEnd
  extract_lets +onlyGivenNames -merge x0
  have h1 : Keeps s x0 := by
    unfold x0
    refine Keeps.trans ?_ (State.setCx_keeps _ _ _ _)
    · exact Keeps.trans (Keeps.refl _) (State.setCx_keeps _ _ _ _)
  try clear_value x0
  refine Keeps.trans ?_ (State.cUnstall_keeps _ _)
  · refine Keeps.trans ?_ (State.cUnblock_keeps _ _)
    · exact Keeps.trans h1 (State.setClove_keeps _ _ _)

theorem State.fnRun_keeps : ∀ s p1 p2 p3, (∀ y0 y1, Keeps y0 (p3 y0 y1)) → Keeps s (@State.fnRun s p1 p2 p3) := by
  intro s p1 p2 p3 hf3
  unfold State.fnRun
  extract_lets +onlyGivenNames -merge x0
  try clear_value x0
  split
  · refine Keeps.ite ?_ ?_
    · exact hf3 _ _
    · exact State.cloveHeld_keeps _ _
  · exact Keeps.refl _

theorem execCloveCopy_keeps : ∀ p0 s, Good s (@execCloveCopy p0 s) := by
  intro p0 s
  unfold execCloveCopy
  refine ⟨_, rfl, ?_⟩
  refine Keeps.trans ?_ (State.fnRun_keeps _ _ _ _ ?_)
  · exact (Keeps.refl _)
  · intro y0 y1
    try beta_reduce
    extract_lets +onlyGivenNames -merge x2
    try clear_value x2
    extract_lets +onlyGivenNames -merge x3
    try clear_value x3
    extract_lets +onlyGivenNames -merge x4
    try clear_value x4
    refine Keeps.ite ?_ ?_
    · exact Keeps.trans (Keeps.refl _) (State.fnEnd_keeps _ _ _ _)
    · refine Keeps.ite ?_ ?_
      · exact Keeps.trans (Keeps.refl _) (State.cStall_keeps _ _)
      · extract_lets +onlyGivenNames -merge x5
        have h6 : Keeps y0 x5.2.2 := by
          unfold x5
          exact Keeps.trans (Keeps.refl _) (State.cCopy_keeps _ _ _ _ _)
        try clear_value x5
        exact Keeps.trans h6 (State.fnEnd_keeps _ _ _ _)

theorem execCloveFill_keeps : ∀ p0 s, Good s (@execCloveFill p0 s) := by
  intro p0 s
  unfold execCloveFill
  refine ⟨_, rfl, ?_⟩
  refine Keeps.trans ?_ (State.fnRun_keeps _ _ _ _ ?_)
  · exact (Keeps.refl _)
  · intro y0 y1
    try beta_reduce
    extract_lets +onlyGivenNames -merge x2
    try clear_value x2
    extract_lets +onlyGivenNames -merge x3
    try clear_value x3
    refine Keeps.ite ?_ ?_
    · exact Keeps.trans (Keeps.refl _) (State.fnEnd_keeps _ _ _ _)
    · refine Keeps.ite ?_ ?_
      · exact Keeps.trans (Keeps.refl _) (State.cStall_keeps _ _)
      · extract_lets +onlyGivenNames -merge x4
        have h5 : Keeps y0 x4.2.2 := by
          unfold x4
          exact Keeps.trans (Keeps.refl _) (State.cFill_keeps _ _ _ _ _)
        try clear_value x4
        exact Keeps.trans h5 (State.fnEnd_keeps _ _ _ _)

theorem execCloveCompare_keeps : ∀ p0 s, Good s (@execCloveCompare p0 s) := by
  intro p0 s
  unfold execCloveCompare
  refine ⟨_, rfl, ?_⟩
  refine Keeps.trans ?_ (State.fnRun_keeps _ _ _ _ ?_)
  · exact (Keeps.refl _)
  · intro y0 y1
    try beta_reduce
    extract_lets +onlyGivenNames -merge x2
    try clear_value x2
    extract_lets +onlyGivenNames -merge x3
    try clear_value x3
    extract_lets +onlyGivenNames -merge x4
    try clear_value x4
    refine Keeps.ite ?_ ?_
    · exact Keeps.trans (Keeps.refl _) (State.fnEnd_keeps _ _ _ _)
    · refine Keeps.ite ?_ ?_
      · exact Keeps.trans (Keeps.refl _) (State.cStall_keeps _ _)
      · split
        · rename Sys2Proof.Machine.State => m5
          rename _ = _ => hq7
          have h6 : Keeps y0 m5 := Keeps.ofEq (fun (r : Sys2Proof.Machine.CCmp × Sys2Proof.Machine.State) => r.2) hq7 (by
              exact Keeps.trans (Keeps.refl _) (State.cCmp_keeps _ _ _ _ _ _)
            )
          exact Keeps.trans h6 (State.fnEnd_keeps _ _ _ _)
        · rename Sys2Proof.Machine.State => m8
          rename _ = _ => hq10
          have h9 : Keeps y0 m8 := Keeps.ofEq (fun (r : Sys2Proof.Machine.CCmp × Sys2Proof.Machine.State) => r.2) hq10 (by
              exact Keeps.trans (Keeps.refl _) (State.cCmp_keeps _ _ _ _ _ _)
            )
          exact Keeps.trans h9 (State.fnEnd_keeps _ _ _ _)
        · rename Sys2Proof.Machine.State => m11
          rename _ = _ => hq13
          have h12 : Keeps y0 m11 := Keeps.ofEq (fun (r : Sys2Proof.Machine.CCmp × Sys2Proof.Machine.State) => r.2) hq13 (by
              exact Keeps.trans (Keeps.refl _) (State.cCmp_keeps _ _ _ _ _ _)
            )
          refine Keeps.trans ?_ (State.fnEnd_keeps _ _ _ _)
          · exact Keeps.trans h12 (State.free_keeps _ _)

theorem State.gatherRow_keeps : ∀ s p1 p2 p3 p4 p5 p6, Keeps s (@State.gatherRow s p1 p2 p3 p4 p5 p6).2 := by
  intro s p1 p2 p3 p4 p5 p6
  unfold State.gatherRow
  split
  · refine Keeps.snd ?_
    refine Keeps.trans ?_ (State.cBulk_keeps _ _ _ _ _ ?_)
    · exact (Keeps.refl _)
    · intro y0 y1
      try beta_reduce
      exact KeepsIn.none
  · extract_lets +onlyGivenNames -merge x2
    have h3 : Keeps s x2.2.2 := by
      unfold x2
      exact Keeps.trans (Keeps.refl _) (State.cLoad_keeps _ _ _ _)
    try clear_value x2
    refine Keeps.iteP (fun (r : Nat × Sys2Proof.Machine.State) => r.2) ?_ ?_
    · refine Keeps.snd ?_
      refine Keeps.trans ?_ (State.cBulk_keeps _ _ _ _ _ ?_)
      · exact h3
      · intro y4 y5
        try beta_reduce
        exact KeepsIn.none
    · extract_lets +onlyGivenNames -merge x6
      have h7 : Keeps s x6.2.2 := by
        unfold x6
        exact Keeps.trans h3 (State.cCopy_keeps _ _ _ _ _)
      try clear_value x6
      refine Keeps.snd ?_
      exact h7

theorem State.gatherRows_keeps : ∀ s p1 p2 p3 p4 p5 p6, Keeps s (@State.gatherRows s p1 p2 p3 p4 p5 p6).2.2 := by
  intro s p1 p2 p3 p4 p5 p6
  induction p6 with
  | zero => exact Keeps.refl s
  | succ n ih =>
    rw [State.gatherRows]
    generalize s.gatherRows p1 p2 p3 p4 p5 n = x0 at ih
    have h0 : Keeps s x0.2.2 := ih
    refine Keeps.iteP (fun (r : Nat × Nat × State) => r.2.2) ?_ ?_
    · exact Keeps.trans h0 (State.cBulk_keeps _ _ _ _ _ (fun _ _ => KeepsIn.none))
    · exact Keeps.trans h0 (State.gatherRow_keeps _ _ _ _ _ _ _)

theorem execCloveGather_keeps : ∀ p0 s, Good s (@execCloveGather p0 s) := by
  intro p0 s
  unfold execCloveGather
  refine ⟨_, rfl, ?_⟩
  refine Keeps.trans ?_ (State.fnRun_keeps _ _ _ _ ?_)
  · exact (Keeps.refl _)
  · intro y0 y1
    try beta_reduce
    extract_lets +onlyGivenNames -merge x2
    try clear_value x2
    extract_lets +onlyGivenNames -merge x3
    try clear_value x3
    extract_lets +onlyGivenNames -merge x4
    try clear_value x4
    extract_lets +onlyGivenNames -merge x5
    try clear_value x5
    extract_lets +onlyGivenNames -merge x6
    try clear_value x6
    refine Keeps.ite ?_ ?_
    · exact Keeps.trans (Keeps.refl _) (State.fnEnd_keeps _ _ _ _)
    · refine Keeps.ite ?_ ?_
      · exact Keeps.trans (Keeps.refl _) (State.cStall_keeps _ _)
      · extract_lets +onlyGivenNames -merge x7
        have h8 : Keeps y0 x7.2.2 := by
          unfold x7
          exact Keeps.trans (Keeps.refl _) (State.gatherRows_keeps _ _ _ _ _ _ _)
        try clear_value x7
        exact Keeps.trans h8 (State.fnEnd_keeps _ _ _ _)

theorem State.entryRead_keeps : ∀ s p1 p2, KeepsIn s (fun (r : Sys2Proof.DWord × Nat × Sys2Proof.Machine.State) => r.2.2) (@State.entryRead s p1 p2) := by
  intro s p1 p2
  unfold State.entryRead
  split
  · extract_lets +onlyGivenNames -merge x0
    have h1 : Keeps s x0.2.2 := by
      unfold x0
      exact Keeps.trans (Keeps.refl _) (State.cLoad_keeps _ _ _ _)
    try clear_value x0
    refine KeepsIn.some ?_
    refine Keeps.sndP (fun (r : Nat × Sys2Proof.Machine.State) => r.2) ?_
    refine Keeps.snd ?_
    exact h1
  · exact KeepsIn.none

theorem State.popHere_keeps : ∀ s p1 p2 p3 p4, Keeps s (@State.popHere s p1 p2 p3 p4).2 := by
  intro s p1 p2 p3 p4
  unfold State.popHere
  split
  · rename_i m0 m1 m2 hq3
    have h4 : Keeps s m2 := Keeps.ofEq (fun (r : Sys2Proof.Machine.PageRes × Sys2Proof.Machine.State) => r.2) hq3 (by
      exact Keeps.trans (Keeps.refl _) (State.alloc_keeps _ _ _ _ _))
    refine Keeps.iteP (fun (r : Sys2Proof.Machine.PageRes × Sys2Proof.Machine.State) => r.2) ?_ ?_
    · exact h4
    · refine Keeps.snd ?_
      exact Keeps.trans h4 (State.release_keeps _ _ _ _ _)
  · exact Keeps.trans (Keeps.refl _) (State.alloc_keeps _ _ _ _ _)

theorem State.entryMove_keeps : ∀ s p1 p2 p3 p4 p5 p6 p7, Keeps s (@State.entryMove s p1 p2 p3 p4 p5 p6 p7).2 := by
  intro s p1 p2 p3 p4 p5 p6 p7
  unfold State.entryMove
  split
  · refine Keeps.snd ?_
    exact Keeps.trans (Keeps.refl _) (State.release_keeps _ _ _ _ _)
  · extract_lets +onlyGivenNames -merge x0
    have h1 : Keeps s x0 := by
      unfold x0
      try beta_reduce
      exact Keeps.trans (Keeps.refl _) (State.cWrite_keeps _ _ _ _ _)
    try clear_value x0
    refine Keeps.snd ?_
    exact Keeps.trans h1 (State.release_keeps _ _ _ _ _)

theorem State.pageMove_keeps : ∀ s p1 p2 p3 p4 p5 p6, Keeps s (@State.pageMove s p1 p2 p3 p4 p5 p6).2.2 := by
  intro s p1 p2 p3 p4 p5 p6
  unfold State.pageMove
  split
  · refine Keeps.sndP (fun (r : Option Nat × Sys2Proof.Machine.State) => r.2) ?_
    refine Keeps.snd ?_
    exact (Keeps.refl _)
  · rename Sys2Proof.Machine.State => m0
    rename _ = _ => hq2
    have h1 : Keeps s m0 := KeepsIn.ofEq (fun (r : Sys2Proof.DWord × Nat × Sys2Proof.Machine.State) => r.2.2) hq2 (by
        exact KeepsIn.trans (Keeps.refl _) (State.entryRead_keeps _ _ _)
      )
    refine Keeps.iteP (fun (r : Nat × Option Nat × Sys2Proof.Machine.State) => r.2.2) ?_ ?_
    · refine Keeps.sndP (fun (r : Option Nat × Sys2Proof.Machine.State) => r.2) ?_
      refine Keeps.snd ?_
      exact h1
    · refine Keeps.iteP (fun (r : Nat × Option Nat × Sys2Proof.Machine.State) => r.2.2) ?_ ?_
      · refine Keeps.sndP (fun (r : Option Nat × Sys2Proof.Machine.State) => r.2) ?_
        refine Keeps.snd ?_
        exact h1
      · split
        · rename Sys2Proof.Machine.State => m3
          rename _ = _ => hq5
          have h4 : Keeps s m3 := Keeps.ofEq (fun (r : Sys2Proof.Machine.PageRes × Sys2Proof.Machine.State) => r.2) hq5 (by
              exact Keeps.trans h1 (State.popHere_keeps _ _ _ _ _)
            )
          refine Keeps.sndP (fun (r : Option Nat × Sys2Proof.Machine.State) => r.2) ?_
          refine Keeps.snd ?_
          exact h4
        · rename Sys2Proof.Machine.State => m6
          rename _ = _ => hq8
          have h7 : Keeps s m6 := Keeps.ofEq (fun (r : Sys2Proof.Machine.PageRes × Sys2Proof.Machine.State) => r.2) hq8 (by
              exact Keeps.trans h1 (State.popHere_keeps _ _ _ _ _)
            )
          refine Keeps.sndP (fun (r : Option Nat × Sys2Proof.Machine.State) => r.2) ?_
          refine Keeps.snd ?_
          exact h7
        · rename Sys2Proof.Machine.State => m9
          rename _ = _ => hq11
          have h10 : Keeps s m9 := Keeps.ofEq (fun (r : Sys2Proof.Machine.PageRes × Sys2Proof.Machine.State) => r.2) hq11 (by
              exact Keeps.trans h1 (State.popHere_keeps _ _ _ _ _)
            )
          extract_lets +onlyGivenNames -merge x12
          have h13 : Keeps s x12.2.2 := by
            unfold x12
            exact Keeps.trans h10 (State.cCopy_keeps _ _ _ _ _)
          try clear_value x12
          extract_lets +onlyGivenNames -merge x14
          have h15 : Keeps s x14.2 := by
            unfold x14
            exact Keeps.trans h13 (State.entryMove_keeps _ _ _ _ _ _ _ _)
          try clear_value x14
          refine Keeps.iteP (fun (r : Nat × Option Nat × Sys2Proof.Machine.State) => r.2.2) ?_ ?_
          · refine Keeps.sndP (fun (r : Option Nat × Sys2Proof.Machine.State) => r.2) ?_
            refine Keeps.snd ?_
            exact h15
          · refine Keeps.sndP (fun (r : Option Nat × Sys2Proof.Machine.State) => r.2) ?_
            refine Keeps.snd ?_
            exact h15

theorem execClovePageCow_keeps : ∀ p0 s, Good s (@execClovePageCow p0 s) := by
  intro p0 s
  unfold execClovePageCow
  refine ⟨_, rfl, ?_⟩
  refine Keeps.trans ?_ (State.fnRun_keeps _ _ _ _ ?_)
  · exact (Keeps.refl _)
  · intro y0 y1
    try beta_reduce
    extract_lets +onlyGivenNames -merge x2
    try clear_value x2
    extract_lets +onlyGivenNames -merge x3
    try clear_value x3
    refine Keeps.ite ?_ ?_
    · exact Keeps.trans (Keeps.refl _) (State.fnEnd_keeps _ _ _ _)
    · refine Keeps.ite ?_ ?_
      · exact Keeps.trans (Keeps.refl _) (State.cStall_keeps _ _)
      · split
        · exact Keeps.trans (Keeps.refl _) (State.fnEnd_keeps _ _ _ _)
        · extract_lets +onlyGivenNames -merge x4
          have h5 : Keeps y0 x4.2.2 := by
            unfold x4
            exact Keeps.trans (Keeps.refl _) (State.pageMove_keeps _ _ _ _ _ _ _)
          try clear_value x4
          exact Keeps.trans h5 (State.fnEnd_keeps _ _ _ _)

theorem State.migrateHere_keeps : ∀ s p1 p2 p3 p4 p5 p6, Keeps s (@State.migrateHere s p1 p2 p3 p4 p5 p6).2.2 := by
  intro s p1 p2 p3 p4 p5 p6
  induction p6 with
  | zero => exact Keeps.refl s
  | succ n ih =>
    rw [State.migrateHere]
    generalize s.migrateHere p1 p2 p3 p4 p5 n = x0 at ih
    have h0 : Keeps s x0.2.2 := ih
    refine Keeps.iteP (fun (r : Nat × Nat × State) => r.2.2) h0 ?_
    exact Keeps.trans h0 (State.pageMove_keeps _ _ _ _ _ _ _)

theorem State.migrateSend_keeps : ∀ s p1 p2 p3 p4 p5 p6 p7, Keeps s (@State.migrateSend s p1 p2 p3 p4 p5 p6 p7) := by
  intro s p1 p2 p3 p4 p5 p6 p7
  unfold State.migrateSend
  refine Keeps.ite ?_ ?_
  · exact Keeps.trans (Keeps.refl _) (State.fnEnd_keeps _ _ _ _)
  · refine Keeps.ite ?_ ?_
    · refine Keeps.trans ?_ (State.cBlock_keeps _ _ _)
      · exact Keeps.trans (Keeps.refl _) (State.setClove_keeps _ _ _)
    · extract_lets +onlyGivenNames -merge x0
      have h1 : Keeps s x0 := by
        unfold x0
        exact Keeps.trans (Keeps.refl _) (State.cUnblock_keeps _ _)
      try clear_value x0
      refine Keeps.ite ?_ ?_
      · extract_lets +onlyGivenNames -merge x2
        have h3 : ∀ y4 y5, Keeps y4 (x2 y4 y5) := by
          intro y4 y5
          unfold x2
          try beta_reduce
          refine Keeps.trans ?_ (State.setClove_keeps _ _ _)
          · exact Keeps.trans (Keeps.refl _) (State.chainPut_keeps _ _ _ _ _)
        try clear_value x2
        split
        · refine Keeps.trans ?_ (h3 _ _)
          exact h1
        · rename Sys2Proof.Machine.State => m6
          rename _ = _ => hq8
          have h7 : Keeps s m6 := KeepsIn.ofEq (fun (r : Sys2Proof.DWord × Nat × Sys2Proof.Machine.State) => r.2.2) hq8 (by
              exact KeepsIn.trans h1 (State.entryRead_keeps _ _ _)
            )
          refine Keeps.ite ?_ ?_
          · refine Keeps.trans ?_ (h3 _ _)
            exact h7
          · refine Keeps.ite ?_ ?_
            · refine Keeps.trans ?_ (h3 _ _)
              exact h7
            · extract_lets +onlyGivenNames -merge x9
              have h10 : Keeps s x9 := by
                unfold x9
                exact Keeps.trans h7 (State.chainPut_keeps _ _ _ _ _)
              try clear_value x9
              exact Keeps.trans h10 (State.setClove_keeps _ _ _)
      · split
        · exact Keeps.trans h1 (State.fnEnd_keeps _ _ _ _)
        · extract_lets +onlyGivenNames -merge x11
          have h12 : Keeps s x11.2.2 := by
            unfold x11
            exact Keeps.trans h1 (State.cRead_keeps _ _ _ _)
          try clear_value x11
          extract_lets +onlyGivenNames -merge x13
          try clear_value x13
          extract_lets +onlyGivenNames -merge x14
          have h15 : Keeps s x14 := by
            unfold x14
            exact Keeps.trans h12 (State.chainPut_keeps _ _ _ _ _)
          try clear_value x14
          extract_lets +onlyGivenNames -merge x16
          try clear_value x16
          exact Keeps.trans h15 (State.setClove_keeps _ _ _)

theorem State.migrateLand_keeps : ∀ s p1 p2 p3 p4 p5 p6, Keeps s (@State.migrateLand s p1 p2 p3 p4 p5 p6).1 := by
  intro s p1 p2 p3 p4 p5 p6
  unfold State.migrateLand
  split
  · rename_i m0 hq1
    refine Keeps.fst ?_
    exact Keeps.trans (Keeps.refl _) (State.release_keeps _ _ _ _ _)
  · rename_i m2 m3 m4 m5 hq6
    have h7 : Keeps s m5 := KeepsIn.ofEq (fun (r : Sys2Proof.DWord × ℕ × Sys2Proof.Machine.State) => r.2.2) hq6 (by
      exact State.entryRead_keeps _ _ _)
    refine Keeps.iteP (fun (r : Sys2Proof.Machine.State × Sys2Proof.Machine.Mig) => r.1) ?_ ?_
    · refine Keeps.fst ?_
      exact Keeps.trans h7 (State.release_keeps _ _ _ _ _)
    · extract_lets +onlyGivenNames -merge x8
      have h9 : Keeps s x8.2 := by
        unfold x8
        try beta_reduce
        exact Keeps.trans h7 (State.entryMove_keeps _ _ _ _ _ _ _ _)
      try clear_value x8
      exact h9

theorem State.migrateRecv_keeps : ∀ s p1 p2 p3 p4 p5 p6 p7 p8, Keeps s (@State.migrateRecv s p1 p2 p3 p4 p5 p6 p7 p8) := by
  intro s p1 p2 p3 p4 p5 p6 p7 p8
  unfold State.migrateRecv
  refine Keeps.ite ?_ ?_
  · exact Keeps.trans (Keeps.refl _) (State.fnEnd_keeps _ _ _ _)
  · split
    · refine Keeps.trans ?_ (State.cBlock_keeps _ _ _)
      exact Keeps.trans (Keeps.refl _) (State.setClove_keeps _ _ _)
    · extract_lets +onlyGivenNames -merge x0
      have h1 : Keeps s x0 := by
        unfold x0
        try beta_reduce
        refine Keeps.trans ?_ (State.cUnblock_keeps _ _)
        exact Keeps.trans (Keeps.refl _) (State.setClove_keeps _ _ _)
      try clear_value x0
      refine Keeps.ite ?_ ?_
      · refine Keeps.trans ?_ (State.cTrap_keeps _ _ _ _ _)
        exact Keeps.trans h1 (State.free_keeps _ _)
      · refine Keeps.ite ?_ ?_
        · extract_lets +onlyGivenNames -merge x2
          try clear_value x2
          refine Keeps.ite ?_ ?_
          · exact Keeps.trans h1 (State.setClove_keeps _ _ _)
          · extract_lets +onlyGivenNames -merge x3
            try clear_value x3
            refine Keeps.ite ?_ ?_
            · exact Keeps.trans h1 (State.setClove_keeps _ _ _)
            · split
              · rename_i m4 m5 m6 hq7
                have h8 : Keeps s m6 := Keeps.ofEq (fun (r : Sys2Proof.Machine.PageRes × Sys2Proof.Machine.State) => r.2) hq7 (by
                  exact Keeps.trans h1 (State.popHere_keeps _ _ _ _ _))
                exact Keeps.trans h8 (State.setClove_keeps _ _ _)
              · rename_i m9 m10 hq11
                have h12 : Keeps s m10 := Keeps.ofEq (fun (r : Sys2Proof.Machine.PageRes × Sys2Proof.Machine.State) => r.2) hq11 (by
                  exact Keeps.trans h1 (State.popHere_keeps _ _ _ _ _))
                exact Keeps.trans h12 (State.setClove_keeps _ _ _)
              · rename_i m13 m14 m15 hq16
                have h17 : Keeps s m15 := Keeps.ofEq (fun (r : Sys2Proof.Machine.PageRes × Sys2Proof.Machine.State) => r.2) hq16 (by
                  exact Keeps.trans h1 (State.popHere_keeps _ _ _ _ _))
                exact Keeps.trans h17 (State.setClove_keeps _ _ _)
        · extract_lets +onlyGivenNames -merge x18
          have h19 : Keeps s x18 := by
            unfold x18
            try beta_reduce
            refine Keeps.ite ?_ ?_
            · exact h1
            · split
              · exact Keeps.trans h1 (State.cWrite_keeps _ _ _ _ _)
              · exact h1
          try clear_value x18
          extract_lets +onlyGivenNames -merge x20
          try clear_value x20
          refine Keeps.ite ?_ ?_
          · exact Keeps.trans h19 (State.setClove_keeps _ _ _)
          · extract_lets +onlyGivenNames -merge x21
            have h22 : Keeps s x21.1 := by
              unfold x21
              try beta_reduce
              refine Keeps.iteP (fun (r : Sys2Proof.Machine.State × Sys2Proof.Machine.Mig) => r.1) ?_ ?_
              · exact h19
              · exact Keeps.trans h19 (State.migrateLand_keeps _ _ _ _ _ _ _)
            try clear_value x21
            exact Keeps.trans h22 (State.setClove_keeps _ _ _)

theorem execCloveMigrate_keeps : ∀ p0 s, Good s (@execCloveMigrate p0 s) := by
  intro p0 s
  unfold execCloveMigrate
  refine ⟨_, rfl, ?_⟩
  refine Keeps.trans ?_ (State.fnRun_keeps _ _ _ _ ?_)
  · exact (Keeps.refl _)
  · intro y0 y1
    try beta_reduce
    extract_lets +onlyGivenNames -merge x2
    try clear_value x2
    extract_lets +onlyGivenNames -merge x3
    try clear_value x3
    extract_lets +onlyGivenNames -merge x4
    try clear_value x4
    extract_lets +onlyGivenNames -merge x5
    try clear_value x5
    refine Keeps.ite ?_ ?_
    · exact Keeps.trans (Keeps.refl _) (State.fnEnd_keeps _ _ _ _)
    · refine Keeps.ite ?_ ?_
      · exact Keeps.trans (Keeps.refl _) (State.cStall_keeps _ _)
      · split
        · exact Keeps.trans (Keeps.refl _) (State.fnEnd_keeps _ _ _ _)
        · refine Keeps.ite ?_ ?_
          · extract_lets +onlyGivenNames -merge x6
            have h7 : Keeps y0 x6.2.2 := by
              unfold x6
              exact Keeps.trans (Keeps.refl _) (State.migrateHere_keeps _ _ _ _ _ _ _)
            try clear_value x6
            exact Keeps.trans h7 (State.fnEnd_keeps _ _ _ _)
          · extract_lets +onlyGivenNames -merge x8
            try clear_value x8
            extract_lets +onlyGivenNames -merge x9
            try clear_value x9
            split
            · exact Keeps.trans (Keeps.refl _) (State.fnEnd_keeps _ _ _ _)
            · refine Keeps.ite ?_ ?_
              · exact Keeps.trans (Keeps.refl _) (State.migrateSend_keeps _ _ _ _ _ _ _ _)
              · exact Keeps.trans (Keeps.refl _) (State.migrateRecv_keeps _ _ _ _ _ _ _ _ _)

theorem State.scrubSectors_keeps : ∀ s p1 p2, Keeps s (@State.scrubSectors s p1 p2).2 := by
  intro s p1 p2
  induction p2 with
  | zero => exact Keeps.refl s
  | succ n ih =>
    rw [State.scrubSectors]
    generalize s.scrubSectors p1 n = x0 at ih
    have h3 : ∀ a u, Keeps s (((x0.2.countUnit a u).countHbm a 1 0).countHbm a 1 1) := by
      intro a u
      refine Keeps.trans ?_ (State.countHbm_keeps _ _ _ _)
      refine Keeps.trans ?_ (State.countHbm_keeps _ _ _ _)
      exact Keeps.trans ih (State.countUnit_keeps _ _ _)
    dsimp only
    split
    · exact Keeps.trans (h3 _ _) (State.rewriteUnit_keeps _ _ _)
    · split
      · exact Keeps.trans (h3 _ _) (State.rewriteUnit_keeps _ _ _)
      · exact h3 _ _

theorem State.spareRowsOf_keeps : ∀ s p1 p2, Keeps s (@State.spareRowsOf s p1 p2).2 := by
  intro s p1 p2
  unfold State.spareRowsOf
  refine Keeps.foldlP (fun (r : Nat × Sys2Proof.Machine.State) => r.2) ?_ ?_
  · refine Keeps.snd ?_
    exact (Keeps.refl _)
  · intro a1 b2 ht0
    try beta_reduce
    extract_lets +onlyGivenNames -merge x3
    try clear_value x3
    refine Keeps.iteP (fun (r : Nat × Sys2Proof.Machine.State) => r.2) ?_ ?_
    · exact ht0
    · extract_lets +onlyGivenNames -merge x4
      have h5 : Keeps s x4 := by
        unfold x4
        exact Keeps.trans ht0 (State.setField_keeps _ _ _ _ _)
      try clear_value x4
      refine Keeps.snd ?_
      exact Keeps.trans h5 (State.setChan_keeps _ _ _)

theorem State.scrubPiece_keeps : ∀ s p1 p2, Keeps s (@State.scrubPiece s p1 p2).2 := by
  intro s p1 p2
  unfold State.scrubPiece
  extract_lets +onlyGivenNames -merge x0
  have h1 : Keeps s x0.2 := by
    unfold x0
    try beta_reduce
    exact Keeps.trans (Keeps.refl _) (State.scrubSectors_keeps _ _ _)
  try clear_value x0
  extract_lets +onlyGivenNames -merge x2
  try clear_value x2
  extract_lets +onlyGivenNames -merge x3
  try clear_value x3
  refine Keeps.snd ?_
  refine Keeps.ite ?_ ?_
  · exact Keeps.trans h1 (State.setClove_keeps _ _ _)
  · exact h1

theorem State.scrubHbm_keeps : ∀ s p1 p2, Keeps s (@State.scrubHbm s p1 p2).2.2 := by
  intro s p1 p2
  unfold State.scrubHbm
  extract_lets +onlyGivenNames -merge r q
  have hr : Keeps s r.2 := Keeps.foldlP (fun (r : ScrubSum × State) => r.2) (Keeps.refl s)
    (fun _ _ h => Keeps.trans h (State.scrubPiece_keeps _ _ _))
  clear_value r
  exact Keeps.trans hr (State.spareRowsOf_keeps _ _ _)

theorem execCloveScrub_keeps : ∀ p0 s, Good s (@execCloveScrub p0 s) := by
  intro p0 s
  unfold execCloveScrub
  refine ⟨_, rfl, ?_⟩
  unfold State.fnRun
  extract_lets +onlyGivenNames -merge x0
  try clear_value x0
  split
  · refine Keeps.ite ?_ ?_
    · beta_reduce
      extract_lets +onlyGivenNames -merge x1
      try clear_value x1
      extract_lets +onlyGivenNames -merge x2
      try clear_value x2
      refine Keeps.ite ?_ ?_
      · exact Keeps.trans (Keeps.refl _) (State.fnEnd_keeps _ _ _ _)
      · refine Keeps.ite ?_ ?_
        · exact Keeps.trans (Keeps.refl _) (State.cStall_keeps _ _)
        · split
          · extract_lets +onlyGivenNames -merge x3
            have h4 : Keeps s x3.2.2 := by
              unfold x3
              try beta_reduce
              exact Keeps.trans (Keeps.refl _) (State.scrubHbm_keeps _ _ _)
            try clear_value x3
            extract_lets +onlyGivenNames -merge x5
            have h6 : Keeps s x5 := by
              unfold x5
              try beta_reduce
              exact h4
            try clear_value x5
            extract_lets +onlyGivenNames -merge x7
            try clear_value x7
            extract_lets +onlyGivenNames -merge x8
            try clear_value x8
            extract_lets +onlyGivenNames -merge x9
            try clear_value x9
            refine Keeps.ite ?_ ?_
            · exact Keeps.trans h6 (State.fnEnd_keeps _ _ _ _)
            · split
              · refine Keeps.trans ?_ (State.fnEnd_keeps _ _ _ _)
                exact Keeps.trans h6 (State.cWrite_keeps _ _ _ _ _)
              · exact Keeps.trans h6 (State.fnEnd_keeps _ _ _ _)
          · exact Keeps.trans (Keeps.refl _) (State.fnEnd_keeps _ _ _ _)
    · exact Keeps.trans (Keeps.refl _) (State.cloveHeld_keeps _ _)
  · exact (Keeps.refl _)

theorem execTenantEntry_keeps : ∀ p0 s, Good s (@execTenantEntry p0 s) := by
  intro p0 s
  unfold execTenantEntry
  extract_lets +onlyGivenNames -merge x0
  try clear_value x0
  split
  · refine Good.ite ?_ ?_
    · refine ⟨_, rfl, ?_⟩
      exact Keeps.trans (Keeps.refl _) (State.cloveHeld_keeps _ _)
    · split
      · refine ⟨_, rfl, ?_⟩
        exact (Keeps.refl _)
      · extract_lets +onlyGivenNames -merge x1
        try clear_value x1
        extract_lets +onlyGivenNames -merge x2
        have h3 : Keeps s x2 := by
          unfold x2
          try beta_reduce
          refine Keeps.trans ?_ (State.setCx_keeps _ _ _ _)
          exact Keeps.trans (Keeps.refl _) (State.setCx_keeps _ _ _ _)
        try clear_value x2
        extract_lets +onlyGivenNames -merge x4
        try clear_value x4
        extract_lets +onlyGivenNames -merge x5
        have h6 : Keeps s x5 := by
          unfold x5
          try beta_reduce
          exact Keeps.trans h3 (State.setClove_keeps _ _ _)
        try clear_value x5
        refine ⟨_, rfl, ?_⟩
        exact Keeps.trans h6 (State.setCpc_keeps _ _ _)
  · refine ⟨_, rfl, ?_⟩
    exact (Keeps.refl _)

theorem execTenantTimeout_keeps : ∀ p0 s, Good s (@execTenantTimeout p0 s) := by
  intro p0 s
  unfold execTenantTimeout
  extract_lets +onlyGivenNames -merge x0
  try clear_value x0
  extract_lets +onlyGivenNames -merge x1
  try clear_value x1
  refine Good.ite ?_ ?_
  · refine ⟨_, rfl, ?_⟩
    exact (Keeps.refl _)
  · extract_lets +onlyGivenNames -merge x2
    have h3 : Keeps s x2.2 := by
      unfold x2
      exact Keeps.trans (Keeps.refl _) (State.free_keeps _ _)
    try clear_value x2
    refine ⟨_, rfl, ?_⟩
    refine Keeps.trans ?_ (State.cReturn_keeps _ _ _ _)
    · refine Keeps.trans ?_ (State.countField_keeps _ _ _ _ _)
      · exact Keeps.trans h3 (State.cEmpty_keeps _ _)

end Sys2Proof.Machine
end

