-- ==== Sys2Proof/Laws/Fabric.lean ====
section
/-! SUPPORT. What the operations of Machine/Fabric.lean keep: the queue of waiting commands and the canonical form of the state
(Keeps); and that its commands answer a next state (Good). -/

namespace Sys2Proof.Machine

theorem State.setConn_keeps : ∀ s p1 p2, Keeps s (@State.setConn s p1 p2) := by
  intro s p1 p2
  unfold State.setConn
  exact Keeps.trans (Keeps.refl _) ⟨rfl, id, id, id, id⟩

theorem State.takeNonce_keeps : ∀ s p1 p2, Keeps s (@State.takeNonce s p1 p2) := by
  intro s p1 p2
  unfold State.takeNonce
  extract_lets +onlyGivenNames -merge x0
  try clear_value x0
  extract_lets +onlyGivenNames -merge x1
  try clear_value x1
  exact Keeps.trans (Keeps.refl _) (State.setKey_keeps _ _ _)

theorem State.emit_keeps : ∀ s p1 p2, Keeps s (@State.emit s p1 p2) := by
  intro s p1 p2
  unfold State.emit
  refine Keeps.trans ?_ (State.send_keeps _ _)
  exact Keeps.trans (Keeps.refl _) (State.tally_keeps _ _ _ _ _)

theorem State.sendBytes_keeps : ∀ s p1 p2, Keeps s (@State.sendBytes s p1 p2) := by
  intro s p1 p2
  unfold State.sendBytes
  extract_lets +onlyGivenNames -merge x0
  try clear_value x0
  refine Keeps.ite ?_ ?_
  · exact (Keeps.refl _)
  · split
    · exact Keeps.trans (Keeps.refl _) (State.emit_keeps _ _ _)
    · exact Keeps.trans (Keeps.refl _) (State.emit_keeps _ _ _)
    · refine Keeps.ite ?_ ?_
      · exact Keeps.trans (Keeps.refl _) (State.emit_keeps _ _ _)
      · exact Keeps.trans (Keeps.refl _) (State.setPort_keeps _ _ _)
    · refine Keeps.ite ?_ ?_
      · exact Keeps.trans (Keeps.refl _) (State.emit_keeps _ _ _)
      · exact Keeps.trans (Keeps.refl _) (State.setPort_keeps _ _ _)
    · exact (Keeps.refl _)

theorem State.flushPort_keeps : ∀ s p1, Keeps s (@State.flushPort s p1) := by
  intro s p1
  unfold State.flushPort
  extract_lets +onlyGivenNames -merge x0
  try clear_value x0
  refine Keeps.foldl ?_ ?_
  · exact Keeps.trans (Keeps.refl _) (State.setPort_keeps _ _ _)
  · intro a1 b2 ht3
    try beta_reduce
    exact Keeps.trans ht3 (State.sendBytes_keeps _ _ _)

theorem State.sendControl_keeps : ∀ s p1 p2 p3, Keeps s (@State.sendControl s p1 p2 p3) := by
  intro s p1 p2 p3
  unfold State.sendControl
  extract_lets +onlyGivenNames -merge x0
  try clear_value x0
  exact Keeps.trans (Keeps.refl _) (State.sendBytes_keeps _ _ _)

theorem State.sendConn_keeps : ∀ s p1 p2 p3 p4 p5 p6 p7 p8 p9, Keeps s (@State.sendConn s p1 p2 p3 p4 p5 p6 p7 p8 p9) := by
  intro s p1 p2 p3 p4 p5 p6 p7 p8 p9
  unfold State.sendConn
  split
  · exact (Keeps.refl _)
  · extract_lets +onlyGivenNames -merge x0
    try clear_value x0
    extract_lets +onlyGivenNames -merge x1
    try clear_value x1
    extract_lets +onlyGivenNames -merge x2
    try clear_value x2
    extract_lets +onlyGivenNames -merge x3
    try clear_value x3
    extract_lets +onlyGivenNames -merge x4
    try clear_value x4
    extract_lets +onlyGivenNames -merge x5 x6
    try clear_value x5
    try clear_value x6
    extract_lets +onlyGivenNames -merge x7
    have h8 : Keeps s x7 := by
      unfold x7
      split
      · exact Keeps.trans (Keeps.refl _) (State.takeNonce_keeps _ _ _)
      · exact (Keeps.refl _)
    try clear_value x7
    extract_lets +onlyGivenNames -merge x9
    have h10 : Keeps s x9 := by
      unfold x9
      exact Keeps.trans h8 (State.setConn_keeps _ _ _)
    try clear_value x9
    extract_lets +onlyGivenNames -merge x11
    have h12 : Keeps s x11 := by
      unfold x11
      refine Keeps.ite ?_ ?_
      · exact Keeps.trans h10 (State.tally_keeps _ _ _ _ _)
      · exact h10
    try clear_value x11
    exact Keeps.trans h12 (State.sendBytes_keeps _ _ _)

theorem State.linkDown_keeps : ∀ s p1, Keeps s (@State.linkDown s p1) := by
  intro s p1
  unfold State.linkDown
  exact Keeps.trans (Keeps.refl _) ⟨rfl, id, id, id, id⟩

theorem State.retrainOut_keeps : ∀ s p1, Keeps s (@State.retrainOut s p1) := by
  intro s p1
  unfold State.retrainOut
  extract_lets +onlyGivenNames -merge x0
  try clear_value x0
  extract_lets +onlyGivenNames -merge x1
  try clear_value x1
  extract_lets +onlyGivenNames -merge x2
  try clear_value x2
  extract_lets +onlyGivenNames -merge x3
  have h4 : Keeps s x3 := by
    unfold x3
    try beta_reduce
    exact Keeps.trans (Keeps.refl _) ⟨rfl, id, id, id, id⟩
  try clear_value x3
  split
  · refine Keeps.ite ?_ ?_
    · exact h4
    · exact Keeps.trans h4 (State.setPort_keeps _ _ _)
  · exact h4

theorem State.portOff_keeps : ∀ s p1, Keeps s (@State.portOff s p1) := by
  intro s p1
  unfold State.portOff
  extract_lets +onlyGivenNames -merge x0
  try clear_value x0
  extract_lets +onlyGivenNames -merge x1
  have h2 : Keeps s x1 := by
    unfold x1
    try beta_reduce
    exact Keeps.trans (Keeps.refl _) (State.setPort_keeps _ _ _)
  try clear_value x1
  exact Keeps.trans h2 ⟨rfl, id, id, id, id⟩

theorem State.portTo_keeps : ∀ s p1 p2, Keeps s (@State.portTo s p1 p2) := by
  intro s p1 p2
  unfold State.portTo
  extract_lets +onlyGivenNames -merge x0
  try clear_value x0
  extract_lets +onlyGivenNames -merge x1
  try clear_value x1
  extract_lets +onlyGivenNames -merge x2
  have h3 : Keeps s x2 := by
    unfold x2
    try beta_reduce
    exact Keeps.trans (Keeps.refl _) (State.setPort_keeps _ _ _)
  try clear_value x2
  extract_lets +onlyGivenNames -merge x4
  have h5 : Keeps s x4 := by
    unfold x4
    try beta_reduce
    refine Keeps.ite ?_ ?_
    · exact Keeps.trans h3 (State.retrainOut_keeps _ _)
    · exact h3
  try clear_value x4
  refine Keeps.ite ?_ ?_
  · refine Keeps.trans ?_ (State.linkDown_keeps _ _)
    exact Keeps.trans h5 (State.portOff_keeps _ _)
  · refine Keeps.ite ?_ ?_
    · exact Keeps.trans h5 (State.flushPort_keeps _ _)
    · exact h5

theorem State.retrain_keeps : ∀ s p1, Keeps s (@State.retrain s p1) := by
  intro s p1
  unfold State.retrain
  extract_lets +onlyGivenNames -merge x0
  try clear_value x0
  extract_lets +onlyGivenNames -merge x1
  have h2 : Keeps s x1 := by
    unfold x1
    exact Keeps.trans (Keeps.refl _) (State.portTo_keeps _ _ _)
  try clear_value x1
  extract_lets +onlyGivenNames -merge x3
  try clear_value x3
  extract_lets +onlyGivenNames -merge x4 x5
  try clear_value x4
  have h6 : Keeps s x5 := by
    unfold x5
    exact Keeps.trans h2 ⟨rfl, id, id, id, id⟩
  try clear_value x5
  exact Keeps.trans h6 (State.setPort_keeps _ _ _)

theorem State.quarantine_keeps : ∀ s p1 p2, Keeps s (@State.quarantine s p1 p2) := by
  intro s p1 p2
  unfold State.quarantine
  extract_lets +onlyGivenNames -merge x0
  have h1 : Keeps s x0 := by
    unfold x0
    exact Keeps.trans (Keeps.refl _) (State.portTo_keeps _ _ _)
  try clear_value x0
  exact Keeps.trans h1 (State.setPort_keeps _ _ _)

theorem State.authFail_keeps : ∀ s p1, Keeps s (@State.authFail s p1) := by
  intro s p1
  unfold State.authFail
  extract_lets +onlyGivenNames -merge x0
  have h1 : Keeps s x0 := by
    unfold x0
    exact Keeps.trans (Keeps.refl _) (State.countField_keeps _ _ _ _ _)
  try clear_value x0
  extract_lets +onlyGivenNames -merge x2
  try clear_value x2
  extract_lets +onlyGivenNames -merge x3
  try clear_value x3
  extract_lets +onlyGivenNames -merge x4
  have h5 : Keeps s x4 := by
    unfold x4
    exact Keeps.trans h1 (State.setPort_keeps _ _ _)
  try clear_value x4
  refine Keeps.ite ?_ ?_
  · exact Keeps.trans h5 (State.quarantine_keeps _ _ _)
  · exact h5

theorem State.putSession_keeps : ∀ s p1, Keeps s (@State.putSession s p1) := by
  intro s p1
  unfold State.putSession
  exact Keeps.trans (Keeps.refl _) ⟨rfl, id, id, id, id⟩

theorem State.dropSession_keeps : ∀ s p1, Keeps s (@State.dropSession s p1) := by
  intro s p1
  unfold State.dropSession
  extract_lets +onlyGivenNames -merge x0
  have h1 : Keeps s x0 := by
    unfold x0
    try beta_reduce
    exact Keeps.trans (Keeps.refl _) ⟨rfl, id, id, id, id⟩
  try clear_value x0
  refine Keeps.foldl ?_ ?_
  · exact h1
  · intro a2 b3 ht4
    try beta_reduce
    extract_lets +onlyGivenNames -merge x5
    try clear_value x5
    refine Keeps.ite ?_ ?_
    · exact Keeps.trans ht4 (State.setPort_keeps _ _ _)
    · exact ht4

theorem State.sendSpdm_keeps : ∀ s p1 p2 p3, Keeps s (@State.sendSpdm s p1 p2 p3) := by
  intro s p1 p2 p3
  unfold State.sendSpdm
  refine Keeps.trans ?_ (State.sendControl_keeps _ _ _ _)
  · exact Keeps.trans (Keeps.refl _) ⟨rfl, id, id, id, id⟩

theorem State.openSession_keeps : ∀ s p1 p2, Keeps s (@State.openSession s p1 p2) := by
  intro s p1 p2
  unfold State.openSession
  refine Keeps.ite ?_ ?_
  · exact (Keeps.refl _)
  · refine Keeps.trans ?_ (State.sendSpdm_keeps _ _ _ _)
    · exact Keeps.trans (Keeps.refl _) (State.putSession_keeps _ _)

theorem State.sendSealed_keeps : ∀ s p1 p2, Keeps s (@State.sendSealed s p1 p2) := by
  intro s p1 p2
  unfold State.sendSealed
  split
  · refine Keeps.ite ?_ ?_
    · refine Keeps.trans ?_ (State.sendControl_keeps _ _ _ _)
      exact Keeps.trans (Keeps.refl _) (State.putSession_keeps _ _)
    · exact (Keeps.refl _)
  · exact (Keeps.refl _)

theorem State.useSession_keeps : ∀ s p1, Keeps s (@State.useSession s p1) := by
  intro s p1
  unfold State.useSession
  split
  · refine Keeps.ite ?_ ?_
    · exact Keeps.trans (Keeps.refl _) (State.putSession_keeps _ _)
    · exact (Keeps.refl _)
  · exact (Keeps.refl _)

theorem State.sendApp_keeps : ∀ s p1 p2, Keeps s (@State.sendApp s p1 p2) := by
  intro s p1 p2
  unfold State.sendApp
  refine Keeps.trans ?_ (State.useSession_keeps _ _)
  exact Keeps.trans (Keeps.refl _) (State.sendSealed_keeps _ _ _)

theorem State.tell_keeps : ∀ s p1 p2 p3, Keeps s (@State.tell s p1 p2 p3) := by
  intro s p1 p2 p3
  unfold State.tell
  refine Keeps.ite ?_ ?_
  · exact Keeps.trans (Keeps.refl _) (State.sendApp_keeps _ _ _)
  · refine Keeps.trans ?_ (State.openSession_keeps _ _ _)
    exact Keeps.trans (Keeps.refl _) ⟨rfl, id, id, id, id⟩

theorem State.tellWaiting_keeps : ∀ s p1, Keeps s (@State.tellWaiting s p1) := by
  intro s p1
  unfold State.tellWaiting
  extract_lets +onlyGivenNames -merge x0
  try clear_value x0
  refine Keeps.foldl ?_ ?_
  · exact Keeps.trans (Keeps.refl _) ⟨rfl, id, id, id, id⟩
  · intro a1 b2 ht3
    try beta_reduce
    exact Keeps.trans ht3 (State.sendApp_keeps _ _ _)

theorem State.openWaiting_keeps : ∀ s, Keeps s (@State.openWaiting s) := by
  intro s
  unfold State.openWaiting
  split
  · exact Keeps.trans (Keeps.refl _) (State.openSession_keeps _ _ _)
  · split
    · exact Keeps.trans (Keeps.refl _) (State.openSession_keeps _ _ _)
    · exact (Keeps.refl _)

theorem State.announce_keeps : ∀ s p1 p2 p3, Keeps s (@State.announce s p1 p2 p3) := by
  intro s p1 p2 p3
  unfold State.announce
  extract_lets +onlyGivenNames -merge x0
  try clear_value x0
  refine Keeps.ite ?_ ?_
  · exact Keeps.trans (Keeps.refl _) (State.openSession_keeps _ _ _)
  · exact Keeps.trans (Keeps.refl _) (State.sendApp_keeps _ _ _)

theorem State.announceAll_keeps : ∀ s p1 p2, Keeps s (@State.announceAll s p1 p2) := by
  intro s p1 p2
  unfold State.announceAll
  refine Keeps.foldl ?_ ?_
  · exact (Keeps.refl _)
  · intro a1 b2 ht0
    try beta_reduce
    refine Keeps.foldl ?_ ?_
    · exact ht0
    · intro a4 b5 ht3
      try beta_reduce
      exact Keeps.trans ht3 (State.announce_keeps _ _ _ _)

theorem State.sessionOpen_keeps : ∀ s p1, Keeps s (@State.sessionOpen s p1) := by
  intro s p1
  unfold State.sessionOpen
  extract_lets +onlyGivenNames -merge x0
  have h1 : Keeps s x0 := by
    unfold x0
    try beta_reduce
    exact Keeps.trans (Keeps.refl _) (State.putSession_keeps _ _)
  try clear_value x0
  extract_lets +onlyGivenNames -merge x2
  try clear_value x2
  extract_lets +onlyGivenNames -merge x3
  have h4 : Keeps s x3 := by
    unfold x3
    try beta_reduce
    refine Keeps.ite ?_ ?_
    · exact h1
    · exact Keeps.trans h1 (State.portTo_keeps _ _ _)
  try clear_value x3
  extract_lets +onlyGivenNames -merge x5
  try clear_value x5
  extract_lets +onlyGivenNames -merge x6
  have h7 : Keeps s x6 := by
    unfold x6
    try beta_reduce
    refine Keeps.ite ?_ ?_
    · exact Keeps.trans h4 (State.setPort_keeps _ _ _)
    · exact h1
  try clear_value x6
  refine Keeps.trans ?_ (State.tellWaiting_keeps _ _)
  refine Keeps.foldl ?_ ?_
  · exact h7
  · intro a8 b9 ht10
    try beta_reduce
    exact Keeps.trans ht10 (State.announceAll_keeps _ _ _)

theorem State.sendAck_keeps : ∀ s p1, Keeps s (@State.sendAck s p1) := by
  intro s p1
  unfold State.sendAck
  split
  · exact (Keeps.refl _)
  · split
    · refine Keeps.ite ?_ ?_
      · exact Keeps.trans (Keeps.refl _) (State.sendConn_keeps _ _ _ _ _ _ _ _ _ _)
      · exact Keeps.trans (Keeps.refl _) (State.openSession_keeps _ _ _)
    · exact (Keeps.refl _)

theorem State.accept_keeps : ∀ s p1 p2, Keeps s (@State.accept s p1 p2) := by
  intro s p1 p2
  unfold State.accept
  exact Keeps.trans (Keeps.refl _) ⟨rfl, id, id, id, id⟩

theorem State.recvControl_keeps : ∀ s p1 p2, Keeps s (@State.recvControl s p1 p2) := by
  intro s p1 p2
  unfold State.recvControl
  extract_lets +onlyGivenNames -merge x0
  try clear_value x0
  extract_lets +onlyGivenNames -merge x1
  try clear_value x1
  extract_lets +onlyGivenNames -merge x2
  try clear_value x2
  extract_lets +onlyGivenNames -merge x3
  try clear_value x3
  refine Keeps.ite ?_ ?_
  · exact Keeps.trans (Keeps.refl _) (State.authFail_keeps _ _)
  · refine Keeps.ite ?_ ?_
    · extract_lets +onlyGivenNames -merge x4
      try clear_value x4
      extract_lets +onlyGivenNames -merge x5
      try clear_value x5
      extract_lets +onlyGivenNames -merge x6
      try clear_value x6
      refine Keeps.ite ?_ ?_
      · refine Keeps.ite ?_ ?_
        · exact Keeps.trans (Keeps.refl _) (State.authFail_keeps _ _)
        · extract_lets +onlyGivenNames -merge x7
          have h8 : Keeps s x7 := by
            unfold x7
            try beta_reduce
            exact Keeps.trans (Keeps.refl _) (State.setPort_keeps _ _ _)
          try clear_value x7
          refine Keeps.ite ?_ ?_
          · exact Keeps.trans h8 (State.sendSpdm_keeps _ _ _ _)
          · exact Keeps.trans h8 (State.accept_keeps _ _ _)
      · refine Keeps.ite ?_ ?_
        · refine Keeps.trans ?_ (State.accept_keeps _ _ _)
          exact Keeps.trans (Keeps.refl _) (State.setPort_keeps _ _ _)
        · refine Keeps.ite ?_ ?_
          · exact Keeps.trans (Keeps.refl _) (State.sendSpdm_keeps _ _ _ _)
          · exact Keeps.trans (Keeps.refl _) (State.accept_keeps _ _ _)
    · split
      · split
        · refine Keeps.trans ?_ (State.accept_keeps _ _ _)
          refine Keeps.ite ?_ ?_
          · exact (Keeps.refl _)
          · exact Keeps.trans (Keeps.refl _) (State.useSession_keeps _ _)
        · exact Keeps.trans (Keeps.refl _) (State.authFail_keeps _ _)
      · exact Keeps.trans (Keeps.refl _) (State.authFail_keeps _ _)

theorem State.noteNctr_keeps : ∀ s p1 p2 p3, Keeps s (@State.noteNctr s p1 p2 p3) := by
  intro s p1 p2 p3
  unfold State.noteNctr
  exact Keeps.trans (Keeps.refl _) ⟨rfl, id, id, id, id⟩

theorem State.recvConn_keeps : ∀ s p1 p2, Keeps s (@State.recvConn s p1 p2) := by
  intro s p1 p2
  unfold State.recvConn
  extract_lets +onlyGivenNames -merge x0
  try clear_value x0
  extract_lets +onlyGivenNames -merge x1
  try clear_value x1
  extract_lets +onlyGivenNames -merge x2
  try clear_value x2
  extract_lets +onlyGivenNames -merge x3
  try clear_value x3
  extract_lets +onlyGivenNames -merge x4
  try clear_value x4
  extract_lets +onlyGivenNames -merge x5
  try clear_value x5
  extract_lets +onlyGivenNames -merge x6
  try clear_value x6
  extract_lets +onlyGivenNames -merge x7
  try clear_value x7
  extract_lets +onlyGivenNames -merge x8
  try clear_value x8
  extract_lets +onlyGivenNames -merge x9
  try clear_value x9
  extract_lets +onlyGivenNames -merge x10
  try clear_value x10
  extract_lets +onlyGivenNames -merge x11
  try clear_value x11
  extract_lets +onlyGivenNames -merge x12
  try clear_value x12
  extract_lets +onlyGivenNames -merge x13
  try clear_value x13
  extract_lets +onlyGivenNames -merge x14
  try clear_value x14
  extract_lets +onlyGivenNames -merge x15
  try clear_value x15
  extract_lets +onlyGivenNames -merge x16
  try clear_value x16
  extract_lets +onlyGivenNames -merge x17
  try clear_value x17
  extract_lets +onlyGivenNames -merge x18
  try clear_value x18
  refine Keeps.ite ?_ ?_
  · exact Keeps.trans (Keeps.refl _) (State.countField_keeps _ _ _ _ _)
  · refine Keeps.ite ?_ ?_
    · exact Keeps.trans (Keeps.refl _) (State.authFail_keeps _ _)
    · refine Keeps.ite ?_ ?_
      · exact Keeps.trans (Keeps.refl _) (State.countField_keeps _ _ _ _ _)
      · refine Keeps.ite ?_ ?_
        · refine Keeps.ite ?_ ?_
          · exact Keeps.trans (Keeps.refl _) (State.authFail_keeps _ _)
          · refine Keeps.ite ?_ ?_
            · exact Keeps.trans (Keeps.refl _) (State.authFail_keeps _ _)
            · refine Keeps.trans ?_ (State.accept_keeps _ _ _)
              exact Keeps.trans (Keeps.refl _) (State.useSession_keeps _ _)
        · split
          · exact Keeps.trans (Keeps.refl _) (State.authFail_keeps _ _)
          · extract_lets +onlyGivenNames -merge x19
            try clear_value x19
            refine Keeps.ite ?_ ?_
            · exact Keeps.trans (Keeps.refl _) (State.authFail_keeps _ _)
            · refine Keeps.ite ?_ ?_
              · exact Keeps.trans (Keeps.refl _) (State.countField_keeps _ _ _ _ _)
              · refine Keeps.trans ?_ (State.accept_keeps _ _ _)
                refine Keeps.trans ?_ (State.useSession_keeps _ _)
                exact Keeps.trans (Keeps.refl _) (State.noteNctr_keeps _ _ _ _)

theorem execFrameReceive_keeps : ∀ p0 p1 s, Good s (@execFrameReceive p0 p1 s) := by
  intro p0 p1 s
  unfold execFrameReceive
  extract_lets +onlyGivenNames -merge x0
  try clear_value x0
  refine Good.ite ?_ ?_
  · refine ⟨_, rfl, ?_⟩
    exact (Keeps.refl _)
  · extract_lets +onlyGivenNames -merge x1
    try clear_value x1
    extract_lets +onlyGivenNames -merge x2
    have h3 : Keeps s x2 := by
      unfold x2
      exact Keeps.trans (Keeps.refl _) (State.tally_keeps _ _ _ _ _)
    try clear_value x2
    refine Good.ite ?_ ?_
    · refine ⟨_, rfl, ?_⟩
      exact Keeps.trans h3 (State.countField_keeps _ _ _ _ _)
    · split
      · refine ⟨_, rfl, ?_⟩
        exact h3
      · extract_lets +onlyGivenNames -merge x4
        try clear_value x4
        extract_lets +onlyGivenNames -merge x5
        try clear_value x5
        refine Good.ite ?_ ?_
        · refine ⟨_, rfl, ?_⟩
          exact Keeps.trans h3 (State.countField_keeps _ _ _ _ _)
        · refine Good.ite ?_ ?_
          · refine ⟨_, rfl, ?_⟩
            exact Keeps.trans h3 (State.recvControl_keeps _ _ _)
          · refine ⟨_, rfl, ?_⟩
            exact Keeps.trans h3 (State.recvConn_keeps _ _ _)

theorem State.takeFrame_keeps : ∀ s p1 p2, KeepsIn s (fun (r : Sys2Proof.Machine.RxFrame × Sys2Proof.Machine.State) => r.2) (@State.takeFrame s p1 p2) := by
  intro s p1 p2
  unfold State.takeFrame
  split
  · refine KeepsIn.ite ?_ ?_
    · refine KeepsIn.some ?_
      refine Keeps.snd ?_
      exact Keeps.trans (Keeps.refl _) ⟨rfl, id, id, id, id⟩
    · exact KeepsIn.none
  · exact KeepsIn.none

theorem State.resend_keeps : ∀ s p1 p2, Keeps s (@State.resend s p1 p2) := by
  intro s p1 p2
  unfold State.resend
  split
  · exact (Keeps.refl _)
  · split
    · refine Keeps.ite ?_ ?_
      · exact Keeps.trans (Keeps.refl _) (State.openSession_keeps _ _ _)
      · extract_lets +onlyGivenNames -merge x0
        have h1 : Keeps s x0 := by
          unfold x0
          try beta_reduce
          exact Keeps.trans (Keeps.refl _) (State.sendConn_keeps _ _ _ _ _ _ _ _ _ _)
        try clear_value x0
        split
        · exact Keeps.trans h1 (State.setConn_keeps _ _ _)
        · exact h1
    · exact (Keeps.refl _)

theorem State.fillHole_keeps : ∀ s p1, Keeps s (@State.fillHole s p1) := by
  intro s p1
  unfold State.fillHole
  split
  · exact (Keeps.refl _)
  · split
    · extract_lets +onlyGivenNames -merge x0
      try clear_value x0
      refine Keeps.ite ?_ ?_
      · refine Keeps.trans ?_ (State.resend_keeps _ _ _)
        · exact Keeps.trans (Keeps.refl _) (State.setConn_keeps _ _ _)
      · exact (Keeps.refl _)
    · exact (Keeps.refl _)

theorem State.ackFields_keeps : ∀ s p1 p2, Keeps s (@State.ackFields s p1 p2) := by
  intro s p1 p2
  unfold State.ackFields
  split
  · exact (Keeps.refl _)
  · refine Keeps.trans ?_ (State.fillHole_keeps _ _)
    · exact Keeps.trans (Keeps.refl _) (State.setConn_keeps _ _ _)

theorem State.dataFrame_keeps : ∀ s p1 p2 p3, Keeps s (@State.dataFrame s p1 p2 p3) := by
  intro s p1 p2 p3
  unfold State.dataFrame
  split
  · exact (Keeps.refl _)
  · extract_lets +onlyGivenNames -merge x0
    try clear_value x0
    extract_lets +onlyGivenNames -merge x1
    try clear_value x1
    extract_lets +onlyGivenNames -merge x2
    try clear_value x2
    extract_lets +onlyGivenNames -merge x3
    try clear_value x3
    refine Keeps.ite ?_ ?_
    · extract_lets +onlyGivenNames -merge x4
      try clear_value x4
      extract_lets +onlyGivenNames -merge x5
      try clear_value x5
      extract_lets +onlyGivenNames -merge x6
      try clear_value x6
      extract_lets +onlyGivenNames -merge x7
      have h8 : Keeps s x7 := by
        unfold x7
        try beta_reduce
        refine Keeps.trans ?_ (State.tally_keeps _ _ _ _ _)
        exact Keeps.trans (Keeps.refl _) (State.setConn_keeps _ _ _)
      try clear_value x7
      refine Keeps.ite ?_ ?_
      · exact Keeps.trans h8 (State.sendAck_keeps _ _)
      · exact h8
    · refine Keeps.ite ?_ ?_
      · refine Keeps.trans ?_ (State.sendAck_keeps _ _)
        exact Keeps.trans (Keeps.refl _) (State.setConn_keeps _ _ _)
      · refine Keeps.trans ?_ (State.sendAck_keeps _ _)
        exact Keeps.trans (Keeps.refl _) (State.setConn_keeps _ _ _)

theorem execDataFrame_keeps : ∀ p0 s, Good s (@execDataFrame p0 s) := by
  intro p0 s
  unfold execDataFrame
  split
  · rename_i m0 hq1
    refine ⟨_, rfl, ?_⟩
    exact (Keeps.refl _)
  · rename_i m2 m3 m4 hq5
    have h6 : Keeps s m4 := KeepsIn.ofEq (fun (r : Sys2Proof.Machine.RxFrame × Sys2Proof.Machine.State) => r.2) hq5 (by
      exact State.takeFrame_keeps _ _ _)
    split
    · refine ⟨_, rfl, ?_⟩
      exact h6
    · split
      · refine ⟨_, rfl, ?_⟩
        exact Keeps.trans h6 (State.countField_keeps _ _ _ _ _)
      · refine ⟨_, rfl, ?_⟩
        refine Keeps.trans ?_ (State.dataFrame_keeps _ _ _ _)
        exact Keeps.trans h6 (State.ackFields_keeps _ _ _)

theorem execAckFrame_keeps : ∀ p0 s, Good s (@execAckFrame p0 s) := by
  intro p0 s
  unfold execAckFrame
  split
  · refine ⟨_, rfl, ?_⟩
    exact (Keeps.refl _)
  · rename Sys2Proof.Machine.State => m0
    rename _ = _ => hq2
    have h1 : Keeps s m0 := KeepsIn.ofEq (fun (r : Sys2Proof.Machine.RxFrame × Sys2Proof.Machine.State) => r.2) hq2 (by
        exact KeepsIn.trans (Keeps.refl _) (State.takeFrame_keeps _ _ _)
      )
    split
    · refine ⟨_, rfl, ?_⟩
      exact h1
    · refine ⟨_, rfl, ?_⟩
      exact Keeps.trans h1 (State.ackFields_keeps _ _ _)

theorem execAckDelayTimer_keeps : ∀ p0 s, Good s (@execAckDelayTimer p0 s) := by
  intro p0 s
  unfold execAckDelayTimer
  split
  · refine Good.ite ?_ ?_
    · refine ⟨_, rfl, ?_⟩
      exact (Keeps.refl _)
    · refine ⟨_, rfl, ?_⟩
      exact Keeps.trans (Keeps.refl _) (State.sendAck_keeps _ _)
  · refine ⟨_, rfl, ?_⟩
    exact (Keeps.refl _)

theorem execRetransmitTimeout_keeps : ∀ p0 s, Good s (@execRetransmitTimeout p0 s) := by
  intro p0 s
  unfold execRetransmitTimeout
  split
  · refine ⟨_, rfl, ?_⟩
    exact (Keeps.refl _)
  · refine Good.ite ?_ ?_
    · refine ⟨_, rfl, ?_⟩
      exact (Keeps.refl _)
    · split
      · refine ⟨_, rfl, ?_⟩
        exact (Keeps.refl _)
      · refine ⟨_, rfl, ?_⟩
        refine Keeps.trans ?_ (State.resend_keeps _ _ _)
        · exact Keeps.trans (Keeps.refl _) (State.setConn_keeps _ _ _)

theorem execKeyExchange_keeps : ∀ p0 s, Good s (@execKeyExchange p0 s) := by
  intro p0 s
  unfold execKeyExchange
  split
  · refine ⟨_, rfl, ?_⟩
    exact (Keeps.refl _)
  · rename Sys2Proof.Machine.State => m0
    rename _ = _ => hq2
    have h1 : Keeps s m0 := KeepsIn.ofEq (fun (r : Sys2Proof.Machine.RxFrame × Sys2Proof.Machine.State) => r.2) hq2 (by
        exact KeepsIn.trans (Keeps.refl _) (State.takeFrame_keeps _ _ _)
      )
    extract_lets +onlyGivenNames -merge x3
    try clear_value x3
    extract_lets +onlyGivenNames -merge x4
    try clear_value x4
    refine Good.ite ?_ ?_
    · extract_lets +onlyGivenNames -merge x5
      try clear_value x5
      refine Good.ite ?_ ?_
      · refine ⟨_, rfl, ?_⟩
        exact h1
      · refine Good.ite ?_ ?_
        · refine ⟨_, rfl, ?_⟩
          exact Keeps.trans h1 (State.authFail_keeps _ _)
        · extract_lets +onlyGivenNames -merge x6
          have h7 : Keeps s x6.2 := by
            unfold x6
            exact Keeps.trans h1 (State.free_keeps _ _)
          try clear_value x6
          refine ⟨_, rfl, ?_⟩
          refine Keeps.trans ?_ (State.sendSpdm_keeps _ _ _ _)
          · exact Keeps.trans h7 (State.putSession_keeps _ _)
    · split
      · refine Good.ite ?_ ?_
        · refine ⟨_, rfl, ?_⟩
          exact h1
        · refine Good.ite ?_ ?_
          · refine ⟨_, rfl, ?_⟩
            exact Keeps.trans h1 (State.authFail_keeps _ _)
          · extract_lets +onlyGivenNames -merge x8
            have h9 : Keeps s x8.2 := by
              unfold x8
              exact Keeps.trans h1 (State.free_keeps _ _)
            try clear_value x8
            refine ⟨_, rfl, ?_⟩
            refine Keeps.trans ?_ (State.sendSpdm_keeps _ _ _ _)
            · exact Keeps.trans h9 (State.putSession_keeps _ _)
      · refine ⟨_, rfl, ?_⟩
        exact h1

theorem execFinish_keeps : ∀ p0 s, Good s (@execFinish p0 s) := by
  intro p0 s
  unfold execFinish
  split
  · refine ⟨_, rfl, ?_⟩
    exact (Keeps.refl _)
  · rename Sys2Proof.Machine.State => m0
    rename _ = _ => hq2
    have h1 : Keeps s m0 := KeepsIn.ofEq (fun (r : Sys2Proof.Machine.RxFrame × Sys2Proof.Machine.State) => r.2) hq2 (by
        exact KeepsIn.trans (Keeps.refl _) (State.takeFrame_keeps _ _ _)
      )
    split
    · extract_lets +onlyGivenNames -merge x3
      try clear_value x3
      refine Good.ite ?_ ?_
      · refine ⟨_, rfl, ?_⟩
        exact h1
      · refine Good.ite ?_ ?_
        · refine ⟨_, rfl, ?_⟩
          refine Keeps.trans ?_ (State.authFail_keeps _ _)
          · exact Keeps.trans h1 (State.dropSession_keeps _ _)
        · refine ⟨_, rfl, ?_⟩
          refine Keeps.trans ?_ (State.sessionOpen_keeps _ _)
          · refine Keeps.ite ?_ ?_
            · exact Keeps.trans h1 (State.sendSpdm_keeps _ _ _ _)
            · exact h1
    · refine ⟨_, rfl, ?_⟩
      exact h1

theorem State.takeApp_keeps : ∀ s p1 p2 p3, KeepsIn s (fun (r : Sys2Proof.Machine.RxFrame × Sys2Proof.Machine.State) => r.2) (@State.takeApp s p1 p2 p3) := by
  intro s p1 p2 p3
  unfold State.takeApp
  split
  · exact KeepsIn.none
  · rename Sys2Proof.Machine.State => m0
    rename _ = _ => hq2
    have h1 : Keeps s m0 := KeepsIn.ofEq (fun (r : Sys2Proof.Machine.RxFrame × Sys2Proof.Machine.State) => r.2) hq2 (by
        exact KeepsIn.trans (Keeps.refl _) (State.takeFrame_keeps _ _ _)
      )
    refine KeepsIn.some ?_
    refine Keeps.snd ?_
    refine Keeps.ite ?_ ?_
    · exact Keeps.trans h1 (State.countField_keeps _ _ _ _ _)
    · exact h1

theorem execHeartbeat_keeps : ∀ p0 s, Good s (@execHeartbeat p0 s) := by
  intro p0 s
  unfold execHeartbeat
  split
  · refine ⟨_, rfl, ?_⟩
    exact (Keeps.refl _)
  · rename Sys2Proof.Machine.State => m0
    rename _ = _ => hq2
    have h1 : Keeps s m0 := KeepsIn.ofEq (fun (r : Sys2Proof.Machine.RxFrame × Sys2Proof.Machine.State) => r.2) hq2 (by
        exact KeepsIn.trans (Keeps.refl _) (State.takeApp_keeps _ _ _ _)
      )
    split
    · refine ⟨_, rfl, ?_⟩
      exact Keeps.trans h1 (State.putSession_keeps _ _)
    · refine ⟨_, rfl, ?_⟩
      exact h1

theorem execHeartbeatSend_keeps : ∀ s, Good s (@execHeartbeatSend s) := by
  intro s
  unfold execHeartbeatSend
  refine ⟨_, rfl, ?_⟩
  refine Keeps.foldl ?_ ?_
  · exact (Keeps.refl _)
  · intro a0 b1 ht2
    try beta_reduce
    extract_lets +onlyGivenNames -merge x3
    have h4 : Keeps s x3 := by
      unfold x3
      try beta_reduce
      exact Keeps.trans ht2 (State.sendSealed_keeps _ _ _)
    try clear_value x3
    refine Keeps.ite ?_ ?_
    · exact h4
    · split
      · exact Keeps.trans h4 (State.putSession_keeps _ _)
      · exact h4

theorem execPeerAbsent_keeps : ∀ p0 s, Good s (@execPeerAbsent p0 s) := by
  intro p0 s
  unfold execPeerAbsent
  split
  · refine Good.ite ?_ ?_
    · refine ⟨_, rfl, ?_⟩
      exact (Keeps.refl _)
    · extract_lets +onlyGivenNames -merge x0
      have h1 : Keeps s x0 := by
        unfold x0
        try beta_reduce
        refine Keeps.trans ?_ (State.linkDown_keeps _ _)
        exact Keeps.trans (Keeps.refl _) (State.dropSession_keeps _ _)
      try clear_value x0
      refine ⟨_, rfl, ?_⟩
      exact Keeps.trans h1 (State.openWaiting_keeps _)
  · refine ⟨_, rfl, ?_⟩
    exact (Keeps.refl _)

theorem execSessionIdleTimeout_keeps : ∀ p0 s, Good s (@execSessionIdleTimeout p0 s) := by
  intro p0 s
  unfold execSessionIdleTimeout
  split
  · refine Good.ite ?_ ?_
    · refine ⟨_, rfl, ?_⟩
      exact (Keeps.refl _)
    · refine ⟨_, rfl, ?_⟩
      refine Keeps.trans ?_ (State.openWaiting_keeps _)
      exact Keeps.trans (Keeps.refl _) (State.dropSession_keeps _ _)
  · refine ⟨_, rfl, ?_⟩
    exact (Keeps.refl _)

theorem execAnnounce_keeps : ∀ p0 s, Good s (@execAnnounce p0 s) := by
  intro p0 s
  unfold execAnnounce
  split
  · refine ⟨_, rfl, ?_⟩
    exact (Keeps.refl _)
  · rename Sys2Proof.Machine.State => m0
    rename _ = _ => hq2
    have h1 : Keeps s m0 := KeepsIn.ofEq (fun (r : Sys2Proof.Machine.RxFrame × Sys2Proof.Machine.State) => r.2) hq2 (by
        exact KeepsIn.trans (Keeps.refl _) (State.takeApp_keeps _ _ _ _)
      )
    refine Good.ite ?_ ?_
    · refine ⟨_, rfl, ?_⟩
      exact h1
    · extract_lets +onlyGivenNames -merge x3
      try clear_value x3
      extract_lets +onlyGivenNames -merge x4
      try clear_value x4
      extract_lets +onlyGivenNames -merge x5
      try clear_value x5
      extract_lets +onlyGivenNames -merge x6
      try clear_value x6
      extract_lets +onlyGivenNames -merge x7
      try clear_value x7
      split
      · refine ⟨_, rfl, ?_⟩
        exact Keeps.trans h1 (State.countField_keeps _ _ _ _ _)
      · extract_lets +onlyGivenNames -merge x8
        try clear_value x8
        extract_lets +onlyGivenNames -merge x9
        try clear_value x9
        extract_lets +onlyGivenNames -merge x10
        have h11 : Keeps s x10 := by
          unfold x10
          refine Keeps.ite ?_ ?_
          · exact h1
          · exact Keeps.trans h1 ⟨rfl, id, id, id, id⟩
        try clear_value x10
        refine ⟨_, rfl, ?_⟩
        exact Keeps.trans h11 (State.sendApp_keeps _ _ _)

theorem execAnnounceAck_keeps : ∀ p0 s, Good s (@execAnnounceAck p0 s) := by
  intro p0 s
  unfold execAnnounceAck
  split
  · refine ⟨_, rfl, ?_⟩
    exact (Keeps.refl _)
  · rename Sys2Proof.Machine.State => m0
    rename _ = _ => hq2
    have h1 : Keeps s m0 := KeepsIn.ofEq (fun (r : Sys2Proof.Machine.RxFrame × Sys2Proof.Machine.State) => r.2) hq2 (by
        exact KeepsIn.trans (Keeps.refl _) (State.takeApp_keeps _ _ _ _)
      )
    refine Good.ite ?_ ?_
    · refine ⟨_, rfl, ?_⟩
      exact h1
    · extract_lets +onlyGivenNames -merge x3
      try clear_value x3
      split
      · refine ⟨_, rfl, ?_⟩
        exact h1
      · extract_lets +onlyGivenNames -merge x4
        try clear_value x4
        refine ⟨_, rfl, ?_⟩
        refine Keeps.ite ?_ ?_
        · exact h1
        · exact Keeps.trans h1 (State.setKey_keeps _ _ _)

theorem execAnnounceRepeat_keeps : ∀ p0 s, Good s (@execAnnounceRepeat p0 s) := by
  intro p0 s
  unfold execAnnounceRepeat
  split
  · refine Good.ite ?_ ?_
    · refine ⟨_, rfl, ?_⟩
      exact (Keeps.refl _)
    · refine ⟨_, rfl, ?_⟩
      refine Keeps.trans ?_ (State.announceAll_keeps _ _ _)
      exact Keeps.trans (Keeps.refl _) (State.setKey_keeps _ _ _)
  · refine ⟨_, rfl, ?_⟩
    exact (Keeps.refl _)

theorem State.meetPartner_keeps : ∀ s p1, Keeps s (@State.meetPartner s p1) := by
  intro s p1
  unfold State.meetPartner
  extract_lets +onlyGivenNames -merge x0
  try clear_value x0
  refine Keeps.ite ?_ ?_
  · extract_lets +onlyGivenNames -merge x1
    have h2 : Keeps s x1 := by
      unfold x1
      try beta_reduce
      exact Keeps.trans (Keeps.refl _) (State.portTo_keeps _ _ _)
    try clear_value x1
    exact Keeps.trans h2 (State.setPort_keeps _ _ _)
  · refine Keeps.trans ?_ (State.openSession_keeps _ _ _)
    exact Keeps.trans (Keeps.refl _) (State.setPort_keeps _ _ _)

theorem execLinkUp_keeps : ∀ p0 p1 s, Good s (@execLinkUp p0 p1 s) := by
  intro p0 p1 s
  unfold execLinkUp
  extract_lets +onlyGivenNames -merge x0
  try clear_value x0
  split
  · refine Good.ite ?_ ?_
    · refine ⟨_, rfl, ?_⟩
      exact Keeps.trans (Keeps.refl _) (State.portTo_keeps _ _ _)
    · extract_lets +onlyGivenNames -merge x1
      have h2 : Keeps s x1 := by
        unfold x1
        try beta_reduce
        exact Keeps.trans (Keeps.refl _) (State.portTo_keeps _ _ _)
      try clear_value x1
      refine ⟨_, rfl, ?_⟩
      refine Keeps.trans ?_ (State.meetPartner_keeps _ _)
      exact Keeps.trans h2 (State.setPort_keeps _ _ _)
  · refine Good.ite ?_ ?_
    · refine ⟨_, rfl, ?_⟩
      exact (Keeps.refl _)
    · refine Good.ite ?_ ?_
      · refine ⟨_, rfl, ?_⟩
        exact Keeps.trans (Keeps.refl _) (State.portTo_keeps _ _ _)
      · extract_lets +onlyGivenNames -merge x3
        have h4 : Keeps s x3 := by
          unfold x3
          try beta_reduce
          exact Keeps.trans (Keeps.refl _) (State.setPort_keeps _ _ _)
        try clear_value x3
        refine ⟨_, rfl, ?_⟩
        refine Keeps.trans ?_ (State.meetPartner_keeps _ _)
        exact Keeps.trans h4 (State.flushPort_keeps _ _)
  · refine ⟨_, rfl, ?_⟩
    exact (Keeps.refl _)

theorem execSignalDetect_keeps : ∀ p0 s, Good s (@execSignalDetect p0 s) := by
  intro p0 s
  unfold execSignalDetect
  refine Good.ite ?_ ?_
  · refine ⟨_, rfl, ?_⟩
    exact Keeps.trans (Keeps.refl _) (State.portTo_keeps _ _ _)
  · refine ⟨_, rfl, ?_⟩
    exact (Keeps.refl _)

theorem execSignalLossTimeout_keeps : ∀ p0 s, Good s (@execSignalLossTimeout p0 s) := by
  intro p0 s
  unfold execSignalLossTimeout
  extract_lets +onlyGivenNames -merge x0
  try clear_value x0
  refine Good.ite ?_ ?_
  · refine ⟨_, rfl, ?_⟩
    exact Keeps.trans (Keeps.refl _) (State.portTo_keeps _ _ _)
  · refine ⟨_, rfl, ?_⟩
    exact (Keeps.refl _)

theorem execPortFaultEvent_keeps : ∀ p0 p1 s, Good s (@execPortFaultEvent p0 p1 s) := by
  intro p0 p1 s
  unfold execPortFaultEvent
  extract_lets +onlyGivenNames -merge x0
  try clear_value x0
  refine Good.ite ?_ ?_
  · refine ⟨_, rfl, ?_⟩
    exact (Keeps.refl _)
  · extract_lets +onlyGivenNames -merge x1
    have h2 : Keeps s x1 := by
      unfold x1
      exact Keeps.trans (Keeps.refl _) (State.countField_keeps _ _ _ _ _)
    try clear_value x1
    extract_lets +onlyGivenNames -merge x3
    try clear_value x3
    extract_lets +onlyGivenNames -merge x4
    have h5 : Keeps s x4 := by
      unfold x4
      exact Keeps.trans h2 (State.setPort_keeps _ _ _)
    try clear_value x4
    refine Good.ite ?_ ?_
    · refine ⟨_, rfl, ?_⟩
      exact h5
    · refine Good.ite ?_ ?_
      · refine ⟨_, rfl, ?_⟩
        exact Keeps.trans h5 (State.quarantine_keeps _ _ _)
      · refine Good.ite ?_ ?_
        · refine ⟨_, rfl, ?_⟩
          exact Keeps.trans h5 (State.retrain_keeps _ _)
        · refine ⟨_, rfl, ?_⟩
          exact h5

theorem execPartnerSessionRetry_keeps : ∀ p0 s, Good s (@execPartnerSessionRetry p0 s) := by
  intro p0 s
  unfold execPartnerSessionRetry
  extract_lets +onlyGivenNames -merge x0
  try clear_value x0
  refine Good.ite ?_ ?_
  · refine ⟨_, rfl, ?_⟩
    exact (Keeps.refl _)
  · extract_lets +onlyGivenNames -merge x1
    have h2 : Keeps s x1 := by
      unfold x1
      refine Keeps.trans ?_ (State.setPort_keeps _ _ _)
      · exact Keeps.trans (Keeps.refl _) (State.dropSession_keeps _ _)
    try clear_value x1
    refine Good.ite ?_ ?_
    · refine ⟨_, rfl, ?_⟩
      exact Keeps.trans h2 (State.quarantine_keeps _ _ _)
    · refine ⟨_, rfl, ?_⟩
      exact Keeps.trans h2 (State.openSession_keeps _ _ _)

end Sys2Proof.Machine
end

