-- ==== Sys2Proof/Laws/Coll.lean ====
section
/-! SUPPORT. What the operations of Machine/Coll.lean keep: the queue of waiting commands and the canonical form of the state
(Keeps); and that its commands answer a next state (Good). -/

namespace Sys2Proof.Machine

/-- The state after data that were got. -/
def SrcRes.st? : SrcRes → Option State
  | .got _ _ s => some s
  | .later => none
  | .fault => none

theorem KeepsIn.ofSrc {s t : State} {o : SrcRes} {bs : Bytes} {n : Nat} (h : o = .got bs n t)
    (k : KeepsIn s (fun r => r) o.st?) : Keeps s t := k t (by rw [h]; rfl)

/-- The state after a segment that was used. -/
def SegUse.st? : SegUse → Option State
  | .done s => some s
  | .later => none
  | .fault s => some s

theorem Keeps.useDone {s t : State} (h : Keeps s t) : KeepsIn s (fun r => r) (SegUse.done t).st? := KeepsIn.some h
theorem KeepsIn.ofUseDone {s t : State} {o : SegUse} (h : o = .done t) (k : KeepsIn s (fun r => r) o.st?) : Keeps s t := k t (by rw [h]; rfl)
theorem KeepsIn.ofUseFault {s t : State} {o : SegUse} (h : o = .fault t) (k : KeepsIn s (fun r => r) o.st?) : Keeps s t := k t (by rw [h]; rfl)

theorem State.logSuspect_keeps : ∀ s p1 p2, Keeps s (@State.logSuspect s p1 p2) := by
  intro s p1 p2
  unfold State.logSuspect
  extract_lets +onlyGivenNames -merge x0
  try clear_value x0
  extract_lets +onlyGivenNames -merge x1
  try clear_value x1
  split
  · exact (Keeps.refl _)
  · extract_lets +onlyGivenNames -merge x2
    try clear_value x2
    extract_lets +onlyGivenNames -merge x3
    have h4 : Keeps s x3 := by
      unfold x3
      try beta_reduce
      exact Keeps.trans (Keeps.refl _) (State.setPart_keeps _ _ _)
    try clear_value x3
    split
    · exact Keeps.trans h4 (State.ccWrite_keeps _ _ _ _ _)
    · exact h4

theorem State.suspectStep_keeps : ∀ s p1 p2 p3 p4, Keeps s (@State.suspectStep s p1 p2 p3 p4) := by
  intro s p1 p2 p3 p4
  unfold State.suspectStep
  extract_lets +onlyGivenNames -merge x0
  try clear_value x0
  extract_lets +onlyGivenNames -merge x1
  try clear_value x1
  extract_lets +onlyGivenNames -merge x2
  have h3 : Keeps s x2 := by
    unfold x2
    try beta_reduce
    exact Keeps.trans (Keeps.refl _) (State.countField_keeps _ _ _ _ _)
  try clear_value x2
  extract_lets +onlyGivenNames -merge x4
  try clear_value x4
  extract_lets +onlyGivenNames -merge x5
  have h6 : Keeps s x5 := by
    unfold x5
    try beta_reduce
    exact Keeps.trans h3 (State.setPart_keeps _ _ _)
  try clear_value x5
  extract_lets +onlyGivenNames -merge x7
  have h8 : Keeps s x7 := by
    unfold x7
    try beta_reduce
    refine Keeps.ite ?_ ?_
    · exact (Keeps.refl _)
    · exact Keeps.trans h6 (State.logSuspect_keeps _ _ _)
  try clear_value x7
  extract_lets +onlyGivenNames -merge x9
  have h10 : Keeps s x9 := by
    unfold x9
    try beta_reduce
    refine Keeps.trans ?_ (State.setField_keeps _ _ _ _ _)
    exact Keeps.trans h8 (State.setField_keeps _ _ _ _ _)
  try clear_value x9
  extract_lets +onlyGivenNames -merge x11
  have h12 : Keeps s x11 := by
    unfold x11
    try beta_reduce
    refine Keeps.trans ?_ (State.setReg_keeps _ _ _)
    exact Keeps.trans h10 (State.setReg_keeps _ _ _)
  try clear_value x11
  refine Keeps.ite ?_ ?_
  · exact h12
  · exact Keeps.trans h12 (State.recoverable_keeps _ _ _ _)

theorem State.sendNotice_keeps : ∀ s p1 p2 p3, Keeps s (@State.sendNotice s p1 p2 p3) := by
  intro s p1 p2 p3
  unfold State.sendNotice
  split
  · exact Keeps.trans (Keeps.refl _) (State.tell_keeps _ _ _ _)
  · exact (Keeps.refl _)

theorem execNotice_keeps : ∀ p0 s, Good s (@execNotice p0 s) := by
  intro p0 s
  unfold execNotice
  split
  · refine ⟨_, rfl, ?_⟩
    exact (Keeps.refl _)
  · rename Sys2Proof.Machine.State => m0
    rename _ = _ => hq2
    have h1 : Keeps s m0 := KeepsIn.ofEq (fun (r : Sys2Proof.Machine.RxFrame × Sys2Proof.Machine.State) => r.2) hq2 (by
        exact KeepsIn.trans (Keeps.refl _) (State.takeApp_keeps _ _ _ _)
      )
    refine Good.ite ?_ ?_
    · refine ⟨_, rfl, ?_⟩
      exact h1
    · extract_lets +onlyGivenNames -merge x3
      try clear_value x3
      extract_lets +onlyGivenNames -merge x4
      try clear_value x4
      extract_lets +onlyGivenNames -merge x5
      try clear_value x5
      refine Good.ite ?_ ?_
      · refine ⟨_, rfl, ?_⟩
        exact h1
      · refine ⟨_, rfl, ?_⟩
        refine Keeps.trans ?_ (State.sendNotice_keeps _ _ _ _)
        · exact Keeps.trans h1 (State.suspectStep_keeps _ _ _ _ _)

theorem State.collRead_keeps : ∀ s p1 p2 p3 p4, KeepsIn s (fun (r : Bytes × Nat × State) => r.2.2) (@State.collRead s p1 p2 p3 p4) := by
  intro s p1 p2 p3 p4
  induction p4 with
  | zero => exact KeepsIn.some (Keeps.refl s)
  | succ n ih =>
    rw [State.collRead]
    split
    · exact KeepsIn.none
    · rename State => t
      rename _ = _ => hq
      have ht : Keeps s t := KeepsIn.ofEq (fun (r : Bytes × Nat × State) => r.2.2) hq ih
      split
      · refine KeepsIn.ite KeepsIn.none ?_
        exact KeepsIn.some (Keeps.trans ht (State.ccRead_keeps _ _ _ _))
      · exact KeepsIn.none

theorem State.collSrc_keeps : ∀ s p1 p2 p3 p4 p5, KeepsIn s (fun (r : State) => r) (@State.collSrc s p1 p2 p3 p4 p5).st? := by
  intro s p1 p2 p3 p4 p5
  unfold State.collSrc
  extract_lets +onlyGivenNames -merge n
  clear_value n
  refine KeepsIn.iteP (fun (r : SrcRes) => r.st?) ?_ ?_
  · extract_lets +onlyGivenNames -merge c fs poi
    refine KeepsIn.iteP (fun (r : SrcRes) => r.st?) KeepsIn.none ?_
    exact KeepsIn.some (Keeps.trans (State.setColl_keeps _ _ _) (State.parity_keeps _ _))
  · split
    · rename_i hq
      exact KeepsIn.some (KeepsIn.ofEq (fun (r : Bytes × Nat × State) => r.2.2) hq (State.collRead_keeps _ _ _ _ _))
    · exact KeepsIn.none

theorem State.collGrans_keeps : ∀ s p1 p2 p3 p4 p5 p6 p7, Keeps s (@State.collGrans s p1 p2 p3 p4 p5 p6 p7).2 := by
  intro s p1 p2 p3 p4 p5 p6 p7
  induction p7 with
  | zero => exact Keeps.refl s
  | succ n ih =>
    rw [State.collGrans]
    generalize s.collGrans p1 p2 p3 p4 p5 p6 n = x0 at ih
    dsimp only
    split
    · exact Keeps.trans (Keeps.trans ih (State.parity_keeps _ _)) (State.setAtt_keeps _ _ _)
    · split
      · split
        · exact Keeps.trans ih (State.ccWrite_keeps _ _ _ _ _)
        · exact ih
      · exact ih

theorem State.collDeliver_keeps : ∀ s p1 p2 p3, Keeps s (@State.collDeliver s p1 p2 p3) := by
  intro s p1 p2 p3
  unfold State.collDeliver
  extract_lets +onlyGivenNames -merge x0
  try clear_value x0
  extract_lets +onlyGivenNames -merge x1
  try clear_value x1
  extract_lets +onlyGivenNames -merge x2
  try clear_value x2
  extract_lets +onlyGivenNames -merge x3
  have h4 : Keeps s x3 := by
    unfold x3
    try beta_reduce
    exact Keeps.trans (Keeps.refl _) (State.setColl_keeps _ _ _)
  try clear_value x3
  refine Keeps.ite ?_ ?_
  · exact h4
  · exact Keeps.trans h4 (State.svcToken_keeps _ _ _ _ _ _)

theorem State.collPlaced_keeps : ∀ s p1 p2 p3, Keeps s (@State.collPlaced s p1 p2 p3) := by
  intro s p1 p2 p3
  unfold State.collPlaced
  extract_lets +onlyGivenNames -merge x0
  try clear_value x0
  extract_lets +onlyGivenNames -merge x1
  have h2 : Keeps s x1 := by
    unfold x1
    try beta_reduce
    exact Keeps.trans (Keeps.refl _) (State.setColl_keeps _ _ _)
  try clear_value x1
  refine Keeps.ite ?_ ?_
  · exact h2
  · exact Keeps.trans h2 (State.collDeliver_keeps _ _ _ _)

theorem State.collWrite_keeps : ∀ s p1 p2 p3 p4 p5 p6 p7, Keeps s (@State.collWrite s p1 p2 p3 p4 p5 p6 p7) := by
  intro s p1 p2 p3 p4 p5 p6 p7
  unfold State.collWrite
  split
  · exact (Keeps.refl _)
  · extract_lets +onlyGivenNames -merge x0
    have h1 : Keeps s x0.2 := by
      unfold x0
      try beta_reduce
      exact Keeps.trans (Keeps.refl _) (State.collGrans_keeps _ _ _ _ _ _ _ _)
    try clear_value x0
    extract_lets +onlyGivenNames -merge x2
    have h3 : Keeps s x2 := by
      unfold x2
      try beta_reduce
      exact Keeps.trans h1 (State.collPlaced_keeps _ _ _ _)
    try clear_value x2
    refine Keeps.ite ?_ ?_
    · exact Keeps.trans h3 (State.setColl_keeps _ _ _)
    · exact h3

theorem State.collSrcRead_keeps : ∀ s p1 p2 p3, Keeps s (@State.collSrcRead s p1 p2 p3) := by
  intro s p1 p2 p3
  unfold State.collSrcRead
  extract_lets +onlyGivenNames -merge x0
  try clear_value x0
  extract_lets +onlyGivenNames -merge x1
  try clear_value x1
  extract_lets +onlyGivenNames -merge x2
  have h3 : Keeps s x2 := by
    unfold x2
    try beta_reduce
    exact Keeps.trans (Keeps.refl _) (State.setColl_keeps _ _ _)
  try clear_value x2
  refine Keeps.ite ?_ ?_
  · exact Keeps.trans h3 (State.svcToken_keeps _ _ _ _ _ _)
  · exact h3

theorem State.collNote_keeps : ∀ s p1 p2, Keeps s (@State.collNote s p1 p2) := by
  intro s p1 p2
  unfold State.collNote
  exact Keeps.trans (Keeps.refl _) (State.setColl_keeps _ _ _)

theorem State.logWrite_keeps : ∀ s p1 p2 p3 p4 p5 p6 p7 p8 p9 p10 p11 p12, Keeps s (@State.logWrite s p1 p2 p3 p4 p5 p6 p7 p8 p9 p10 p11 p12) := by
  intro s p1 p2 p3 p4 p5 p6 p7 p8 p9 p10 p11 p12
  unfold State.logWrite
  extract_lets +onlyGivenNames -merge x0
  try clear_value x0
  refine Keeps.ite ?_ ?_
  · exact (Keeps.refl _)
  · extract_lets +onlyGivenNames -merge x1
    try clear_value x1
    extract_lets +onlyGivenNames -merge x2
    try clear_value x2
    extract_lets +onlyGivenNames -merge x3
    try clear_value x3
    extract_lets +onlyGivenNames -merge x4
    try clear_value x4
    extract_lets +onlyGivenNames -merge x5
    have h6 : Keeps s x5 := by
      unfold x5
      refine Keeps.foldl ?_ ?_
      · exact (Keeps.refl _)
      · intro a8 b9 ht7
        try beta_reduce
        split
        · exact Keeps.trans ht7 (State.walkWrite_keeps _ _ _ _ _)
        · exact ht7
    try clear_value x5
    extract_lets +onlyGivenNames -merge x10
    try clear_value x10
    extract_lets +onlyGivenNames -merge x11
    try clear_value x11
    exact Keeps.trans h6 (State.setPart_keeps _ _ _)

theorem State.logFind_keeps : ∀ s p1 p2 p3 p4 p5 p6 p7, KeepsIn s (fun (r : Nat × Nat × Sys2Proof.Bytes × Sys2Proof.Machine.State) => r.2.2.2) (@State.logFind s p1 p2 p3 p4 p5 p6 p7) := by
  intro s p1 p2 p3 p4 p5 p6 p7
  unfold State.logFind
  extract_lets +onlyGivenNames -merge x0
  try clear_value x0
  split
  · exact KeepsIn.none
  · extract_lets +onlyGivenNames -merge x1
    have h2 : Keeps s x1.2 := by
      unfold x1
      refine Keeps.foldlP (fun (r : Sys2Proof.Bytes × Sys2Proof.Machine.State) => r.2) ?_ ?_
      · refine Keeps.snd ?_
        exact (Keeps.refl _)
      · intro a4 b5 ht3
        try beta_reduce
        split
        · extract_lets +onlyGivenNames -merge x6
          have h7 : Keeps s x6.2.2 := by
            unfold x6
            exact Keeps.trans ht3 (State.devRead_keeps _ _ _)
          try clear_value x6
          refine Keeps.snd ?_
          exact h7
        · refine Keeps.snd ?_
          exact ht3
    try clear_value x1
    extract_lets +onlyGivenNames -merge x8
    try clear_value x8
    refine KeepsIn.some ?_
    refine Keeps.sndP (fun (r : Nat × Sys2Proof.Bytes × Sys2Proof.Machine.State) => r.2.2) ?_
    refine Keeps.sndP (fun (r : Sys2Proof.Bytes × Sys2Proof.Machine.State) => r.2) ?_
    refine Keeps.snd ?_
    exact h2

theorem State.collStream_keeps : ∀ s p1 p2, Keeps s (@State.collStream s p1 p2) := by
  intro s p1 p2
  unfold State.collStream
  refine Keeps.ite ?_ ?_
  · exact (Keeps.refl _)
  · extract_lets +onlyGivenNames -merge x0
    try clear_value x0
    extract_lets +onlyGivenNames -merge x1
    try clear_value x1
    extract_lets +onlyGivenNames -merge x2
    try clear_value x2
    refine Keeps.trans ?_ (State.setColl_keeps _ _ _)
    exact Keeps.trans (Keeps.refl _) (State.setAtt_keeps _ _ _)

theorem execCollInstanceStart_keeps : ∀ p0 s, Good s (@execCollInstanceStart p0 s) := by
  intro p0 s
  unfold execCollInstanceStart
  split
  · refine ⟨_, rfl, ?_⟩
    exact (Keeps.refl _)
  · extract_lets +onlyGivenNames -merge x0
    try clear_value x0
    extract_lets +onlyGivenNames -merge x1
    try clear_value x1
    extract_lets +onlyGivenNames -merge x2
    try clear_value x2
    refine Good.ite ?_ ?_
    · refine ⟨_, rfl, ?_⟩
      exact (Keeps.refl _)
    · extract_lets +onlyGivenNames -merge x3
      try clear_value x3
      extract_lets +onlyGivenNames -merge x4
      have h5 : Keeps s x4 := by
        unfold x4
        try beta_reduce
        refine Keeps.trans ?_ (State.setField_keeps _ _ _ _ _)
        exact Keeps.trans (Keeps.refl _) (State.setColl_keeps _ _ _)
      try clear_value x4
      extract_lets +onlyGivenNames -merge x6
      have h7 : Keeps s x6 := by
        unfold x6
        try beta_reduce
        refine Keeps.trans ?_ (State.collSrcRead_keeps _ _ _ _)
        exact Keeps.trans h5 (State.collStream_keeps _ _ _)
      try clear_value x6
      extract_lets +onlyGivenNames -merge x8
      try clear_value x8
      extract_lets +onlyGivenNames -merge x9
      have h10 : Keeps s x9 := by
        unfold x9
        try beta_reduce
        refine Keeps.ite ?_ ?_
        · exact Keeps.trans h7 (State.setColl_keeps _ _ _)
        · exact h7
      try clear_value x9
      extract_lets +onlyGivenNames -merge x11
      try clear_value x11
      refine ⟨_, rfl, ?_⟩
      refine Keeps.ite ?_ ?_
      · exact Keeps.trans h10 (State.setColl_keeps _ _ _)
      · exact h10

theorem State.collWaited_keeps : ∀ s p1 p2 p3 p4 p5 p6 p7 p8, Keeps s (@State.collWaited s p1 p2 p3 p4 p5 p6 p7 p8) := by
  intro s p1 p2 p3 p4 p5 p6 p7 p8
  unfold State.collWaited
  exact Keeps.trans (Keeps.refl _) (State.traceHub_keeps _ _ _ _ _ _ _ _ _ _ _)

theorem State.sendData_keeps : ∀ s p1 p2 p3 p4 p5 p6, KeepsIn s (fun (r : Sys2Proof.Machine.State) => r) (@State.sendData s p1 p2 p3 p4 p5 p6).st? := by
  intro s p1 p2 p3 p4 p5 p6
  unfold State.sendData
  split
  · refine KeepsIn.some ?_
    exact (Keeps.refl _)
  · refine KeepsIn.iteP (fun (r : Sys2Proof.Machine.SrcRes) => r.st?) ?_ ?_
    · exact KeepsIn.trans (Keeps.refl _) (State.collSrc_keeps _ _ _ _ _ _)
    · exact KeepsIn.none

theorem State.afterRead_keeps : ∀ s p1 p2 p3 p4 p5 p6 p7 p8, Keeps s (@State.afterRead s p1 p2 p3 p4 p5 p6 p7 p8) := by
  intro s p1 p2 p3 p4 p5 p6 p7 p8
  unfold State.afterRead
  refine Keeps.ite ?_ ?_
  · exact (Keeps.refl _)
  · extract_lets +onlyGivenNames -merge x0
    have h1 : Keeps s x0 := by
      unfold x0
      exact Keeps.trans (Keeps.refl _) (State.collSrcRead_keeps _ _ _ _)
    try clear_value x0
    extract_lets +onlyGivenNames -merge x2
    have h3 : Keeps s x2 := by
      unfold x2
      refine Keeps.ite ?_ ?_
      · exact h1
      · exact Keeps.trans h1 (State.collNote_keeps _ _ _)
    try clear_value x2
    refine Keeps.ite ?_ ?_
    · exact Keeps.trans h3 (State.collWrite_keeps _ _ _ _ _ _ _ _)
    · exact h3

theorem execCollSegmentSend_keeps : ∀ p0 s, Good s (@execCollSegmentSend p0 s) := by
  intro p0 s
  unfold execCollSegmentSend
  split
  · refine ⟨_, rfl, ?_⟩
    exact (Keeps.refl _)
  · extract_lets +onlyGivenNames -merge x0
    try clear_value x0
    split
    · refine ⟨_, rfl, ?_⟩
      exact (Keeps.refl _)
    · refine Good.ite ?_ ?_
      · refine ⟨_, rfl, ?_⟩
        exact (Keeps.refl _)
      · extract_lets +onlyGivenNames -merge x1
        try clear_value x1
        extract_lets +onlyGivenNames -merge x2
        try clear_value x2
        extract_lets +onlyGivenNames -merge x3
        have h4 : ∀ y5, Keeps y5 (x3 y5) := by
          intro y5
          unfold x3
          try beta_reduce
          extract_lets +onlyGivenNames -merge x6
          try clear_value x6
          exact Keeps.trans (Keeps.refl _) (State.setColl_keeps _ _ _)
        try clear_value x3
        refine Good.ite ?_ ?_
        · refine Good.ite ?_ ?_
          · refine ⟨_, rfl, ?_⟩
            exact (Keeps.refl _)
          · split
            · refine ⟨_, rfl, ?_⟩
              exact (Keeps.refl _)
            · refine ⟨_, rfl, ?_⟩
              exact Keeps.trans (Keeps.refl _) (State.setColl_keeps _ _ _)
            · rename Sys2Proof.Machine.State => m7
              rename _ = _ => hq9
              have h8 : Keeps s m7 := KeepsIn.ofSrc hq9 (by
                  exact KeepsIn.trans (Keeps.refl _) (State.sendData_keeps _ _ _ _ _ _ _)
                )
              extract_lets +onlyGivenNames -merge x10
              have h11 : Keeps s x10 := by
                unfold x10
                exact Keeps.trans h8 (State.afterRead_keeps _ _ _ _ _ _ _ _ _)
              try clear_value x10
              extract_lets +onlyGivenNames -merge x12
              try clear_value x12
              split
              · rename Sys2Proof.Machine.State => m13
                rename _ = _ => hq15
                have h14 : Keeps s m13 := KeepsIn.ofEq (fun (r : Nat × Nat × Sys2Proof.Bytes × Sys2Proof.Machine.State) => r.2.2.2) hq15 (by
                    exact KeepsIn.trans h11 (State.logFind_keeps _ _ _ _ _ _ _ _)
                  )
                extract_lets +onlyGivenNames -merge x16
                try clear_value x16
                extract_lets +onlyGivenNames -merge x17
                have h18 : Keeps s x17 := by
                  unfold x17
                  refine Keeps.ite ?_ ?_
                  · exact h14
                  · exact Keeps.trans h14 (State.setPart_keeps _ _ _)
                try clear_value x17
                refine ⟨_, rfl, ?_⟩
                refine Keeps.trans ?_ (h4 _)
                exact h18
              · refine ⟨_, rfl, ?_⟩
                refine Keeps.trans ?_ (h4 _)
                exact h11
        · split
          · refine ⟨_, rfl, ?_⟩
            exact Keeps.trans (Keeps.refl _) (State.setColl_keeps _ _ _)
          · split
            · refine ⟨_, rfl, ?_⟩
              exact (Keeps.refl _)
            · split
              · refine ⟨_, rfl, ?_⟩
                exact Keeps.trans (Keeps.refl _) (State.setColl_keeps _ _ _)
              · refine ⟨_, rfl, ?_⟩
                exact Keeps.trans (Keeps.refl _) (State.setColl_keeps _ _ _)
              · refine ⟨_, rfl, ?_⟩
                exact (Keeps.refl _)
              · refine Good.ite ?_ ?_
                · refine ⟨_, rfl, ?_⟩
                  exact Keeps.trans (Keeps.refl _) (State.openSession_keeps _ _ _)
                · refine Good.ite ?_ ?_
                  · refine ⟨_, rfl, ?_⟩
                    exact Keeps.trans (Keeps.refl _) (State.setColl_keeps _ _ _)
                  · refine Good.ite ?_ ?_
                    · refine ⟨_, rfl, ?_⟩
                      exact (Keeps.refl _)
                    · split
                      · refine ⟨_, rfl, ?_⟩
                        exact (Keeps.refl _)
                      · refine ⟨_, rfl, ?_⟩
                        exact Keeps.trans (Keeps.refl _) (State.setColl_keeps _ _ _)
                      · rename Sys2Proof.Machine.State => m19
                        rename _ = _ => hq21
                        have h20 : Keeps s m19 := KeepsIn.ofSrc hq21 (by
                            exact KeepsIn.trans (Keeps.refl _) (State.sendData_keeps _ _ _ _ _ _ _)
                          )
                        extract_lets +onlyGivenNames -merge x22 x23
                        try clear_value x22
                        have h24 : Keeps s x23 := by
                          unfold x23
                          split
                          · refine Keeps.trans ?_ (State.setColl_keeps _ _ _)
                            · exact Keeps.trans h20 (State.collWaited_keeps _ _ _ _ _ _ _ _ _)
                          · exact h20
                        try clear_value x23
                        extract_lets +onlyGivenNames -merge x25
                        have h26 : Keeps s x25 := by
                          unfold x25
                          exact Keeps.trans h24 (State.afterRead_keeps _ _ _ _ _ _ _ _ _)
                        try clear_value x25
                        extract_lets +onlyGivenNames -merge x27
                        try clear_value x27
                        extract_lets +onlyGivenNames -merge x28
                        have h29 : Keeps s x28 := by
                          unfold x28
                          exact Keeps.trans h26 (State.logWrite_keeps _ _ _ _ _ _ _ _ _ _ _ _ _)
                        try clear_value x28
                        extract_lets +onlyGivenNames -merge y0 y1 x30 w31 x31 x32
                        have h30 : Keeps s y0.2 := Keeps.trans h29 (State.parity_keeps _ _)
                        clear_value y0 y1
                        have h31 : Keeps s x30 := Keeps.trans h30 (State.sendConn_keeps _ _ _ _ _ _ _ _ _ _)
                        clear_value x30 w31
                        have h32 : Keeps s x31 := by
                          unfold x31
                          split
                          · exact Keeps.trans h31 (State.setColl_keeps _ _ _)
                          · exact h31
                        clear_value x31
                        have h33 : Keeps s x32 := by
                          unfold x32
                          split
                          · exact Keeps.trans h32 (State.setConn_keeps _ _ _)
                          · exact h32
                        clear_value x32
                        refine ⟨_, rfl, ?_⟩
                        refine Keeps.trans ?_ (h4 _)
                        exact h33

theorem State.takeSegment_keeps : ∀ s p1, Keeps s (@State.takeSegment s p1) := by
  intro s p1
  unfold State.takeSegment
  split
  · extract_lets +onlyGivenNames -merge x0
    have h1 : Keeps s x0 := by
      unfold x0
      exact Keeps.trans (Keeps.refl _) (State.setConn_keeps _ _ _)
    try clear_value x0
    refine Keeps.ite ?_ ?_
    · exact Keeps.trans h1 (State.sendAck_keeps _ _)
    · exact h1
  · exact (Keeps.refl _)

theorem State.useSegment_keeps : ∀ s p1 p2 p3 p4 p5 p6 p7 p8 p9,
    KeepsIn s (fun (r : State) => r) (@State.useSegment s p1 p2 p3 p4 p5 p6 p7 p8 p9).st? := by
  intro s x p e ph b k bs m adder
  unfold State.useSegment
  extract_lets +onlyGivenNames -merge n put
  have hput : ∀ y3 y4 y5 y6, Keeps y3 (put y3 y4 y5 y6) := by
    intro y3 y4 y5 y6
    unfold put
    split
    · exact State.setColl_keeps _ _ _
    · exact Keeps.refl _
  clear_value put
  refine KeepsIn.iteP (fun (r : SegUse) => r.st?) KeepsIn.none ?_
  refine KeepsIn.iteP (fun (r : SegUse) => r.st?) (KeepsIn.some (Keeps.trans (hput _ _ _ _) (State.collWrite_keeps _ _ _ _ _ _ _ _))) ?_
  split
  · exact KeepsIn.none
  · exact KeepsIn.some (State.setColl_keeps _ _ _)
  · rename_i hq
    have h0 := KeepsIn.ofSrc hq (State.collSrc_keeps _ _ _ _ _ _)
    extract_lets +onlyGivenNames -merge s1 bad s2 sum m2 s3
    have h1 : Keeps s s1 := Keeps.trans h0 (State.collSrcRead_keeps _ _ _ _)
    clear_value s1
    have h2 : Keeps s s2 := Keeps.ite h1 (Keeps.trans h1 (State.countField_keeps _ _ _ _ _))
    clear_value s2
    have h3 : Keeps s s3 := Keeps.ite h2 (Keeps.trans h2 (State.collNote_keeps _ _ _))
    clear_value s3
    refine KeepsIn.iteP (fun (r : SegUse) => r.st?) ?_ (KeepsIn.some (Keeps.trans h3 (hput _ _ _ _)))
    exact KeepsIn.some (Keeps.trans (Keeps.trans h3 (hput _ _ _ _)) (State.collWrite_keeps _ _ _ _ _ _ _ _))

theorem execCollSegmentReceive.recv_keeps : ∀ p0 p1 s p3 p4 p5 p6 p7, Good s (@execCollSegmentReceive.recv p0 p1 s p3 p4 p5 p6 p7) := by
  intro p0 p1 s p3 p4 p5 p6 p7
  unfold execCollSegmentReceive.recv
  split
  · refine ⟨_, rfl, ?_⟩
    exact (Keeps.refl _)
  · refine Good.ite ?_ ?_
    · refine ⟨_, rfl, ?_⟩
      exact (Keeps.refl _)
    · extract_lets +onlyGivenNames -merge x0
      try clear_value x0
      extract_lets +onlyGivenNames -merge x1
      try clear_value x1
      extract_lets +onlyGivenNames -merge x2
      have h3 : KeepsIn s (fun (r : Nat × Nat × Sys2Proof.Bytes × Sys2Proof.Machine.State) => r.2.2.2) x2 := by
        unfold x2
        refine KeepsIn.ite ?_ ?_
        · exact KeepsIn.trans (Keeps.refl _) (State.logFind_keeps _ _ _ _ _ _ _ _)
        · refine KeepsIn.mapc ?_
          · intro y4
            try beta_reduce
            refine Keeps.sndP (fun (r : Nat × Sys2Proof.Bytes × Sys2Proof.Machine.State) => r.2.2) ?_
            refine Keeps.sndP (fun (r : Sys2Proof.Bytes × Sys2Proof.Machine.State) => r.2) ?_
            refine Keeps.snd ?_
            exact (Keeps.refl _)
      try clear_value x2
      split
      · refine ⟨_, rfl, ?_⟩
        exact Keeps.trans (Keeps.refl _) (State.setColl_keeps _ _ _)
      · rename Sys2Proof.Machine.State => m5
        have h5 : Keeps s m5 := (h3 _ rfl)
        extract_lets +onlyGivenNames -merge x6 x7 x8 x9 x10 x11 x12
        have h6 : Keeps s x7 := Keeps.iteP (fun (r : Bool × State) => r.2) h5 (Keeps.trans h5 (State.parity_keeps _ _))
        clear_value x6 x7 x8 x9 x10 x11 x12
        split
        · exact ⟨_, rfl, Keeps.refl _⟩
        · rename_i hq
          exact ⟨_, rfl, KeepsIn.ofUseFault hq (KeepsIn.trans h6 (State.useSegment_keeps _ _ _ _ _ _ _ _ _ _))⟩
        · rename_i hq
          have h14 := KeepsIn.ofUseDone hq (KeepsIn.trans h6 (State.useSegment_keeps _ _ _ _ _ _ _ _ _ _))
          extract_lets +onlyGivenNames -merge x15
          have h16 : Keeps s x15 := by
            unfold x15
            refine Keeps.ite ?_ ?_
            · exact h14
            · exact Keeps.trans h14 (State.collNote_keeps _ _ _)
          try clear_value x15
          extract_lets +onlyGivenNames -merge x17 x18 x19 x20
          have h21 : Keeps s x17 := by
            unfold x17
            refine Keeps.trans ?_ (State.suspectStep_keeps _ _ _ _ _)
            · exact Keeps.trans h16 (State.countField_keeps _ _ _ _ _)
          try clear_value x17
          try clear_value x18
          have h22 : Keeps s x19 := by
            unfold x19
            exact Keeps.trans h21 (State.setPart_keeps _ _ _)
          try clear_value x19
          have h23 : Keeps s x20 := by
            unfold x20
            refine Keeps.ite ?_ ?_
            · exact h16
            · refine Keeps.ite ?_ ?_
              · exact h22
              · exact Keeps.trans h22 (State.sendNotice_keeps _ _ _ _)
          try clear_value x20
          extract_lets +onlyGivenNames -merge x24
          have h25 : Keeps s x24 := by
            unfold x24
            split
            · exact Keeps.trans h23 (State.collWaited_keeps _ _ _ _ _ _ _ _ _)
            · exact h23
          try clear_value x24
          extract_lets +onlyGivenNames -merge x26
          have h27 : Keeps s x26 := by
            unfold x26
            exact Keeps.trans h25 (State.logWrite_keeps _ _ _ _ _ _ _ _ _ _ _ _ _)
          try clear_value x26
          extract_lets +onlyGivenNames -merge x28
          have h29 : Keeps s x28 := by
            unfold x28
            refine Keeps.ite ?_ ?_
            · exact h27
            · split
              · exact Keeps.trans h27 (State.takeSegment_keeps _ _)
              · exact h27
          try clear_value x28
          extract_lets +onlyGivenNames -merge x30
          try clear_value x30
          refine ⟨_, rfl, ?_⟩
          exact Keeps.trans h29 (State.setColl_keeps _ _ _)

theorem execCollSegmentReceive_keeps : ∀ p0 p1 s, Good s (@execCollSegmentReceive p0 p1 s) := by
  intro p0 p1 s
  unfold execCollSegmentReceive
  split
  · refine ⟨_, rfl, ?_⟩
    exact (Keeps.refl _)
  · extract_lets +onlyGivenNames -merge x0
    try clear_value x0
    split
    · refine ⟨_, rfl, ?_⟩
      exact (Keeps.refl _)
    · extract_lets +onlyGivenNames -merge x1
      try clear_value x1
      split
      · split
        · refine ⟨_, rfl, ?_⟩
          refine Keeps.trans ?_ (State.setColl_keeps _ _ _)
          exact Keeps.trans (Keeps.refl _) (State.takeSegment_keeps _ _)
        · exact execCollSegmentReceive.recv_keeps _ _ _ _ _ _ _ _
      · exact execCollSegmentReceive.recv_keeps _ _ _ _ _ _ _ _

theorem State.collPoison_keeps : ∀ s p1 p2 p3, Keeps s (@State.collPoison s p1 p2 p3) := by
  intro s p1 p2 p3
  unfold State.collPoison
  extract_lets +onlyGivenNames -merge x0
  try clear_value x0
  refine Keeps.ite ?_ ?_
  · refine Keeps.foldl ?_ ?_
    · exact (Keeps.refl _)
    · intro a1 b2 ht3
      try beta_reduce
      split
      · extract_lets +onlyGivenNames -merge x4
        try clear_value x4
        extract_lets +onlyGivenNames -merge x5
        have h6 : Keeps s x5.2 := by
          unfold x5
          try beta_reduce
          exact Keeps.trans ht3 (State.free_keeps _ _)
        try clear_value x5
        refine Keeps.trans ?_ (State.collPlaced_keeps _ _ _ _)
        exact Keeps.trans h6 (State.collGrans_keeps _ _ _ _ _ _ _ _)
      · exact ht3
  · refine Keeps.foldl ?_ ?_
    · exact (Keeps.refl _)
    · intro a7 b8 ht9
      try beta_reduce
      refine Keeps.ite ?_ ?_
      · extract_lets +onlyGivenNames -merge x10
        have h11 : Keeps s x10.2 := by
          unfold x10
          try beta_reduce
          exact Keeps.trans ht9 (State.free_keeps _ _)
        try clear_value x10
        refine Keeps.trans ?_ (State.collPlaced_keeps _ _ _ _)
        exact Keeps.trans h11 (State.collGrans_keeps _ _ _ _ _ _ _ _)
      · exact ht9

theorem State.collEnd_keeps : ∀ s p1 p2 p3, Keeps s (@State.collEnd s p1 p2 p3) := by
  intro s p1 p2 p3
  unfold State.collEnd
  extract_lets +onlyGivenNames -merge x0
  try clear_value x0
  extract_lets +onlyGivenNames -merge x1
  try clear_value x1
  extract_lets +onlyGivenNames -merge x2
  try clear_value x2
  extract_lets +onlyGivenNames -merge x3
  try clear_value x3
  extract_lets +onlyGivenNames -merge x4
  have h5 : Keeps s x4 := by
    unfold x4
    try beta_reduce
    refine Keeps.trans ?_ (State.setField_keeps _ _ _ _ _)
    exact Keeps.trans (Keeps.refl _) (State.setField_keeps _ _ _ _ _)
  try clear_value x4
  extract_lets +onlyGivenNames -merge x6
  try clear_value x6
  extract_lets +onlyGivenNames -merge x7
  have h8 : Keeps s x7 := by
    unfold x7
    try beta_reduce
    split
    · exact Keeps.trans h5 (State.collWaited_keeps _ _ _ _ _ _ _ _ _)
    · exact h5
  try clear_value x7
  extract_lets +onlyGivenNames -merge x9
  have h10 : Keeps s x9 := by
    unfold x9
    try beta_reduce
    split
    · exact Keeps.trans h8 (State.collWaited_keeps _ _ _ _ _ _ _ _ _)
    · exact h8
  try clear_value x9
  extract_lets +onlyGivenNames -merge x11
  have h12 : Keeps s x11 := by
    unfold x11
    try beta_reduce
    refine Keeps.ite ?_ ?_
    · exact Keeps.trans h10 (State.svcToken_keeps _ _ _ _ _ _)
    · exact h10
  try clear_value x11
  extract_lets +onlyGivenNames -merge x13
  have h14 : Keeps s x13 := by
    unfold x13
    try beta_reduce
    refine Keeps.ite ?_ ?_
    · exact Keeps.trans h12 (State.svcToken_keeps _ _ _ _ _ _)
    · exact h12
  try clear_value x13
  extract_lets +onlyGivenNames -merge x15
  have h16 : Keeps s x15 := by
    unfold x15
    try beta_reduce
    exact Keeps.trans h14 (State.traceHub_keeps _ _ _ _ _ _ _ _ _ _ _)
  try clear_value x15
  extract_lets +onlyGivenNames -merge x17
  try clear_value x17
  exact Keeps.trans h16 (State.setColl_keeps _ _ _)

theorem State.collHeld_keeps : ∀ s p1 p2 p3, Keeps s (@State.collHeld s p1 p2 p3) := by
  intro s p1 p2 p3
  unfold State.collHeld
  extract_lets +onlyGivenNames -merge x0
  have h1 : Keeps s x0 := by
    unfold x0
    try beta_reduce
    refine Keeps.ite ?_ ?_
    · exact (Keeps.refl _)
    · exact Keeps.trans (Keeps.refl _) (State.collDeliver_keeps _ _ _ _)
  try clear_value x0
  refine Keeps.trans ?_ (State.collEnd_keeps _ _ _ _)
  exact Keeps.trans h1 (State.setColl_keeps _ _ _)

theorem execCollInstanceEnd_keeps : ∀ p0 s, Good s (@execCollInstanceEnd p0 s) := by
  intro p0 s
  unfold execCollInstanceEnd
  split
  · refine ⟨_, rfl, ?_⟩
    exact (Keeps.refl _)
  · extract_lets +onlyGivenNames -merge x0
    try clear_value x0
    refine Good.ite ?_ ?_
    · refine ⟨_, rfl, ?_⟩
      exact (Keeps.refl _)
    · refine Good.ite ?_ ?_
      · refine ⟨_, rfl, ?_⟩
        exact Keeps.trans (Keeps.refl _) (State.collHeld_keeps _ _ _ _)
      · refine Good.ite ?_ ?_
        · extract_lets +onlyGivenNames -merge x1
          have h2 : Keeps s x1 := by
            unfold x1
            try beta_reduce
            exact Keeps.trans (Keeps.refl _) (State.collPoison_keeps _ _ _ _)
          try clear_value x1
          refine Good.ite ?_ ?_
          · refine ⟨_, rfl, ?_⟩
            exact h2
          · refine ⟨_, rfl, ?_⟩
            exact Keeps.trans h2 (State.collEnd_keeps _ _ _ _)
        · extract_lets +onlyGivenNames -merge x3
          try clear_value x3
          refine Good.ite ?_ ?_
          · refine ⟨_, rfl, ?_⟩
            exact Keeps.trans (Keeps.refl _) (State.collEnd_keeps _ _ _ _)
          · refine ⟨_, rfl, ?_⟩
            exact (Keeps.refl _)

theorem execCollLimitExpiry_keeps : ∀ p0 s, Good s (@execCollLimitExpiry p0 s) := by
  intro p0 s
  unfold execCollLimitExpiry
  split
  · refine ⟨_, rfl, ?_⟩
    exact (Keeps.refl _)
  · refine Good.ite ?_ ?_
    · refine ⟨_, rfl, ?_⟩
      exact (Keeps.refl _)
    · refine ⟨_, rfl, ?_⟩
      exact Keeps.trans (Keeps.refl _) (State.setColl_keeps _ _ _)

theorem State.hubArrived_keeps : ∀ s p1 p2, Keeps s (@State.hubArrived s p1 p2) := by
  intro s p1 p2
  unfold State.hubArrived
  refine Keeps.ite ?_ ?_
  · extract_lets +onlyGivenNames -merge x0
    try clear_value x0
    refine Keeps.ite ?_ ?_
    · exact Keeps.trans (Keeps.refl _) (State.deliver_keeps _ _ _ _)
    · exact (Keeps.refl _)
  · extract_lets +onlyGivenNames -merge x1
    try clear_value x1
    split
    · refine Keeps.ite ?_ ?_
      · exact Keeps.trans (Keeps.refl _) (State.collDeliver_keeps _ _ _ _)
      · exact (Keeps.refl _)
    · exact (Keeps.refl _)

theorem execCrossingFrameArrival_keeps : ∀ p0 p1 p2 p3 s, Good s (@execCrossingFrameArrival p0 p1 p2 p3 s) := by
  intro p0 p1 p2 p3 s
  unfold execCrossingFrameArrival
  extract_lets +onlyGivenNames -merge x0
  try clear_value x0
  extract_lets +onlyGivenNames -merge x1
  try clear_value x1
  split
  · extract_lets +onlyGivenNames -merge x2
    have h3 : Keeps s x2 := by
      unfold x2
      try beta_reduce
      exact Keeps.trans (Keeps.refl _) (State.setXing_keeps _ _ _)
    try clear_value x2
    extract_lets +onlyGivenNames -merge x4
    have h5 : Keeps s x4.1 := by
      unfold x4
      try beta_reduce
      exact Keeps.trans h3 (State.decodeFrame_keeps _ _ _ _ _ _)
    try clear_value x4
    extract_lets +onlyGivenNames -merge x6
    have h7 : Keeps s x6 := by
      unfold x6
      try beta_reduce
      exact Keeps.trans h5 (State.crossed_keeps _ _ _ _ _ _ _ _)
    try clear_value x6
    refine ⟨_, rfl, ?_⟩
    split
    · exact Keeps.trans h7 (State.hubArrived_keeps _ _ _)
    · exact h7
  · extract_lets +onlyGivenNames -merge x8
    try clear_value x8
    split
    · refine Good.ite ?_ ?_
      · refine ⟨_, rfl, ?_⟩
        exact (Keeps.refl _)
      · extract_lets +onlyGivenNames -merge x9
        have h10 : Keeps s x9.2 := by
          unfold x9
          try beta_reduce
          exact Keeps.trans (Keeps.refl _) (State.free_keeps _ _)
        try clear_value x9
        extract_lets +onlyGivenNames -merge x11
        try clear_value x11
        extract_lets +onlyGivenNames -merge x12
        have h13 : Keeps s x12.1 := by
          unfold x12
          try beta_reduce
          exact Keeps.trans h10 (State.decodeFrame_keeps _ _ _ _ _ _)
        try clear_value x12
        refine ⟨_, rfl, ?_⟩
        refine Keeps.ite ?_ ?_
        · exact h13
        · exact Keeps.trans h13 (State.crossed_keeps _ _ _ _ _ _ _ _)
    · refine ⟨_, rfl, ?_⟩
      exact (Keeps.refl _)

theorem execStepLogWrite_keeps : ∀ p0 s, Good s (@execStepLogWrite p0 s) := by
  intro p0 s
  unfold execStepLogWrite
  extract_lets +onlyGivenNames -merge x0
  try clear_value x0
  extract_lets +onlyGivenNames -merge x1
  try clear_value x1
  extract_lets +onlyGivenNames -merge x2
  try clear_value x2
  extract_lets +onlyGivenNames -merge x3
  try clear_value x3
  refine Good.ite ?_ ?_
  · refine ⟨_, rfl, ?_⟩
    exact (Keeps.refl _)
  · extract_lets +onlyGivenNames -merge x4
    try clear_value x4
    extract_lets +onlyGivenNames -merge x5
    try clear_value x5
    extract_lets +onlyGivenNames -merge x6
    try clear_value x6
    extract_lets +onlyGivenNames -merge x7
    try clear_value x7
    extract_lets +onlyGivenNames -merge x8
    try clear_value x8
    extract_lets +onlyGivenNames -merge x9
    try clear_value x9
    extract_lets +onlyGivenNames -merge x10
    have h11 : Keeps s x10 := by
      unfold x10
      split
      · exact Keeps.trans (Keeps.refl _) (State.ccWrite_keeps _ _ _ _ _)
      · exact (Keeps.refl _)
    try clear_value x10
    refine ⟨_, rfl, ?_⟩
    exact Keeps.trans h11 (State.setPart_keeps _ _ _)

end Sys2Proof.Machine
end

