-- ==== Sys2Proof/Laws/Replica.lean ====
section
/-! SUPPORT. What the operations of Machine/Replica.lean keep: the queue of waiting commands and the canonical form of the state
(Keeps); and that its commands answer a next state (Good). -/

namespace Sys2Proof.Machine

theorem State.startPass_keeps : ∀ s p1, Keeps s (@State.startPass s p1) := by
  intro s p1
  unfold State.startPass
  extract_lets +onlyGivenNames -merge x0
  try clear_value x0
  extract_lets +onlyGivenNames -merge x1
  have h2 : Keeps s x1 := by
    unfold x1
    refine Keeps.foldl ?_ ?_
    · exact (Keeps.refl _)
    · intro a4 b5 ht3
      try beta_reduce
      exact Keeps.trans ht3 (State.setSlice_keeps _ _ _)
  try clear_value x1
  refine Keeps.foldl ?_ ?_
  · exact h2
  · intro a7 b8 ht6
    try beta_reduce
    exact Keeps.trans ht6 (State.setChan_keeps _ _ _)

theorem State.stopPass_keeps : ∀ s p1, Keeps s (@State.stopPass s p1) := by
  intro s p1
  unfold State.stopPass
  extract_lets +onlyGivenNames -merge x0
  have h1 : Keeps s x0 := by
    unfold x0
    refine Keeps.foldl ?_ ?_
    · exact (Keeps.refl _)
    · intro a3 b4 ht2
      try beta_reduce
      exact Keeps.trans ht2 (State.setSlice_keeps _ _ _)
  try clear_value x0
  refine Keeps.foldl ?_ ?_
  · exact h1
  · intro a6 b7 ht5
    try beta_reduce
    exact Keeps.trans ht5 (State.setChan_keeps _ _ _)

theorem execReplicaPassStart_keeps : ∀ p0 s, Good s (@execReplicaPassStart p0 s) := by
  intro p0 s
  unfold execReplicaPassStart
  extract_lets +onlyGivenNames -merge x0
  try clear_value x0
  split
  · refine ⟨_, rfl, ?_⟩
    exact (Keeps.refl _)
  · extract_lets +onlyGivenNames -merge x1
    try clear_value x1
    extract_lets +onlyGivenNames -merge x2
    try clear_value x2
    refine Good.ite ?_ ?_
    · refine ⟨_, rfl, ?_⟩
      exact (Keeps.refl _)
    · extract_lets +onlyGivenNames -merge x3
      have h4 : Keeps s x3 := by
        unfold x3
        try beta_reduce
        exact Keeps.trans (Keeps.refl _) (State.countField_keeps _ _ _ _ _)
      try clear_value x3
      extract_lets +onlyGivenNames -merge x5
      try clear_value x5
      extract_lets +onlyGivenNames -merge x6
      have h7 : Keeps s x6 := by
        unfold x6
        try beta_reduce
        split
        · exact Keeps.trans h4 (State.setPart_keeps _ _ _)
        · exact (Keeps.refl _)
      try clear_value x6
      extract_lets +onlyGivenNames -merge x8
      have h9 : Keeps s x8 := by
        unfold x8
        try beta_reduce
        exact Keeps.trans h7 (State.startPass_keeps _ _)
      try clear_value x8
      refine ⟨_, rfl, ?_⟩
      exact Keeps.trans h9 (State.setPart_keeps _ _ _)

theorem State.clearActive_keeps : ∀ s p1 p2, Keeps s (@State.clearActive s p1 p2) := by
  intro s p1 p2
  unfold State.clearActive
  exact Keeps.trans (Keeps.refl _) (State.setField_keeps _ _ _ _ _)

theorem State.toMember_keeps : ∀ s p1 p2 p3 p4 p5, (∀ y0 y1, Keeps y0 (p5 y0 y1)) → Keeps s (@State.toMember s p1 p2 p3 p4 p5) := by
  intro s p1 p2 p3 p4 p5 hf5
  unfold State.toMember
  exact Keeps.ite (hf5 _ _) (State.tell_keeps _ _ _ _)

theorem State.takeExpel_keeps : ∀ s p1 p2 p3, Keeps s (@State.takeExpel s p1 p2 p3) := by
  intro s p1 p2 p3
  unfold State.takeExpel
  split
  · refine Keeps.ite ?_ ?_
    · exact Keeps.trans (Keeps.refl _) (State.clearActive_keeps _ _ _)
    · exact (Keeps.refl _)
  · exact (Keeps.refl _)

theorem State.expelSelf_keeps : ∀ s p1 p2, Keeps s (@State.expelSelf s p1 p2) := by
  intro s p1 p2
  unfold State.expelSelf
  extract_lets +onlyGivenNames -merge x0
  have h1 : Keeps s x0 := by
    unfold x0
    exact Keeps.trans (Keeps.refl _) (State.setField_keeps _ _ _ _ _)
  try clear_value x0
  extract_lets +onlyGivenNames -merge x2
  try clear_value x2
  extract_lets +onlyGivenNames -merge x3
  have h4 : Keeps s x3 := by
    unfold x3
    refine Keeps.foldl ?_ ?_
    · exact h1
    · intro a6 b7 ht5
      try beta_reduce
      refine Keeps.trans ?_ (State.toMember_keeps _ _ _ _ _ _ ?_)
      · exact ht5
      · intro y8 y9
        try beta_reduce
        exact Keeps.trans (Keeps.refl _) (State.takeExpel_keeps _ _ _ _)
  try clear_value x3
  exact Keeps.trans h4 (State.faultPart_keeps _ _ _ _)

theorem State.compare_keeps : ∀ s p1 p2 p3, Keeps s (@State.compare s p1 p2 p3) := by
  intro s p1 p2 p3
  unfold State.compare
  extract_lets +onlyGivenNames -merge x0
  try clear_value x0
  extract_lets +onlyGivenNames -merge x1
  try clear_value x1
  extract_lets +onlyGivenNames -merge x2
  have h3 : Keeps s x2 := by
    unfold x2
    exact Keeps.trans (Keeps.refl _) (State.setPart_keeps _ _ _)
  try clear_value x2
  extract_lets +onlyGivenNames -merge x4
  try clear_value x4
  extract_lets +onlyGivenNames -merge x5
  try clear_value x5
  refine Keeps.ite ?_ ?_
  · exact h3
  · refine Keeps.ite ?_ ?_
    · exact Keeps.trans h3 (State.setField_keeps _ _ _ _ _)
    · split
      · exact Keeps.trans h3 (State.setField_keeps _ _ _ _ _)
      · extract_lets +onlyGivenNames -merge x6
        try clear_value x6
        extract_lets +onlyGivenNames -merge x7
        have h8 : Keeps s x7 := by
          unfold x7
          refine Keeps.foldl ?_ ?_
          · exact h3
          · intro a10 b11 ht9
            try beta_reduce
            exact Keeps.trans ht9 (State.clearActive_keeps _ _ _)
        try clear_value x7
        refine Keeps.ite ?_ ?_
        · exact Keeps.trans h8 (State.expelSelf_keeps _ _ _)
        · exact h8

theorem State.compareAll_keeps : ∀ s p1, Keeps s (@State.compareAll s p1) := by
  intro s k
  induction k generalizing s with
  | zero => exact Keeps.refl s
  | succ k ih =>
    rw [State.compareAll]
    split
    · exact Keeps.refl s
    · exact Keeps.trans (State.compare_keeps _ _ _ _) (ih _)

theorem State.compareDue_keeps : ∀ s, Keeps s (@State.compareDue s) := by
  intro s
  unfold State.compareDue
  exact Keeps.trans (Keeps.refl _) (State.compareAll_keeps _ _)

theorem State.takeReport_keeps : ∀ s p1 p2 p3, Keeps s (@State.takeReport s p1 p2 p3) := by
  intro s p1 p2 p3
  unfold State.takeReport
  split
  · exact (Keeps.refl _)
  · extract_lets +onlyGivenNames -merge x0
    try clear_value x0
    refine Keeps.ite ?_ ?_
    · exact (Keeps.refl _)
    · extract_lets +onlyGivenNames -merge x1
      have h2 : Keeps s x1 := by
        unfold x1
        try beta_reduce
        exact Keeps.trans (Keeps.refl _) (State.setPart_keeps _ _ _)
      try clear_value x1
      refine Keeps.trans ?_ (State.compareDue_keeps _)
      refine Keeps.ite ?_ ?_
      · exact h2
      · exact Keeps.trans h2 (State.setField_keeps _ _ _ _ _)

theorem execReplicaPassEnd_keeps : ∀ p0 s, Good s (@execReplicaPassEnd p0 s) := by
  intro p0 s
  unfold execReplicaPassEnd
  extract_lets +onlyGivenNames -merge x0
  try clear_value x0
  split
  · extract_lets +onlyGivenNames -merge x1
    try clear_value x1
    extract_lets +onlyGivenNames -merge x2
    try clear_value x2
    extract_lets +onlyGivenNames -merge x3
    try clear_value x3
    refine Good.ite ?_ ?_
    · refine ⟨_, rfl, ?_⟩
      exact (Keeps.refl _)
    · extract_lets +onlyGivenNames -merge x4
      try clear_value x4
      extract_lets +onlyGivenNames -merge x5
      try clear_value x5
      extract_lets +onlyGivenNames -merge x6
      try clear_value x6
      extract_lets +onlyGivenNames -merge x7
      have h8 : Keeps s x7 := by
        unfold x7
        try beta_reduce
        exact Keeps.trans (Keeps.refl _) (State.stopPass_keeps _ _)
      try clear_value x7
      extract_lets +onlyGivenNames -merge x9
      try clear_value x9
      extract_lets +onlyGivenNames -merge x10
      have h11 : Keeps s x10 := by
        unfold x10
        try beta_reduce
        exact Keeps.trans h8 (State.setPart_keeps _ _ _)
      try clear_value x10
      refine Good.ite ?_ ?_
      · refine ⟨_, rfl, ?_⟩
        exact h11
      · extract_lets +onlyGivenNames -merge x12
        try clear_value x12
        extract_lets +onlyGivenNames -merge x13
        have h14 : Keeps s x13 := by
          unfold x13
          try beta_reduce
          refine Keeps.foldl ?_ ?_
          · exact h11
          · intro a15 b16 ht17
            try beta_reduce
            unfold State.toMember
            refine Keeps.ite ?_ ?_
            · beta_reduce
              exact Keeps.trans ht17 (State.takeReport_keeps _ _ _ _)
            · exact Keeps.trans ht17 (State.tell_keeps _ _ _ _)
        try clear_value x13
        refine ⟨_, rfl, ?_⟩
        exact Keeps.trans h14 (State.takeReport_keeps _ _ _ _)
  · refine ⟨_, rfl, ?_⟩
    exact (Keeps.refl _)

theorem execReplica_keeps : ∀ p0 s, Good s (@execReplica p0 s) := by
  intro p0 s
  unfold execReplica
  split
  · refine ⟨_, rfl, ?_⟩
    exact (Keeps.refl _)
  · rename Sys2Proof.Machine.State => m0
    rename _ = _ => hq2
    have h1 : Keeps s m0 := KeepsIn.ofEq (fun (r : Sys2Proof.Machine.RxFrame × Sys2Proof.Machine.State) => r.2) hq2 (by
        exact KeepsIn.trans (Keeps.refl _) (State.takeApp_keeps _ _ _ _)
      )
    refine Good.ite ?_ ?_
    · refine ⟨_, rfl, ?_⟩
      exact h1
    · extract_lets +onlyGivenNames -merge x3
      try clear_value x3
      split
      · refine ⟨_, rfl, ?_⟩
        exact h1
      · extract_lets +onlyGivenNames -merge x4
        try clear_value x4
        refine ⟨_, rfl, ?_⟩
        exact Keeps.trans h1 (State.takeReport_keeps _ _ _ _)

theorem execExpel_keeps : ∀ p0 s, Good s (@execExpel p0 s) := by
  intro p0 s
  unfold execExpel
  split
  · rename_i m0 hq1
    refine ⟨_, rfl, ?_⟩
    exact (Keeps.refl _)
  · rename_i m2 m3 m4 hq5
    have h6 : Keeps s m4 := KeepsIn.ofEq (fun (r : Sys2Proof.Machine.RxFrame × Sys2Proof.Machine.State) => r.2) hq5 (by
      exact State.takeApp_keeps _ _ _ _)
    refine Good.ite ?_ ?_
    · refine ⟨_, rfl, ?_⟩
      exact h6
    · extract_lets +onlyGivenNames -merge x7
      try clear_value x7
      refine ⟨_, rfl, ?_⟩
      refine Keeps.trans ?_ (State.compareDue_keeps _)
      exact Keeps.trans h6 (State.takeExpel_keeps _ _ _ _)

theorem execReplicaIntervalDeadline_keeps : ∀ p0 s, Good s (@execReplicaIntervalDeadline p0 s) := by
  intro p0 s
  unfold execReplicaIntervalDeadline
  split
  · refine ⟨_, rfl, ?_⟩
    exact (Keeps.refl _)
  · extract_lets +onlyGivenNames -merge x0
    try clear_value x0
    extract_lets +onlyGivenNames -merge x1
    try clear_value x1
    refine ⟨_, rfl, ?_⟩
    refine Keeps.trans ?_ (State.compareDue_keeps _)
    refine Keeps.foldl ?_ ?_
    · exact (Keeps.refl _)
    · intro a2 b3 ht4
      try beta_reduce
      exact Keeps.trans ht4 (State.compare_keeps _ _ _ _)

theorem execRecoveryWindowClose_keeps : ∀ p0 s, Good s (@execRecoveryWindowClose p0 s) := by
  intro p0 s
  unfold execRecoveryWindowClose
  extract_lets +onlyGivenNames -merge x0
  try clear_value x0
  refine Good.ite ?_ ?_
  · refine ⟨_, rfl, ?_⟩
    exact Keeps.trans (Keeps.refl _) (State.setField_keeps _ _ _ _ _)
  · refine ⟨_, rfl, ?_⟩
    exact (Keeps.refl _)

end Sys2Proof.Machine
end

