-- ==== Sys2Proof/Laws/Views.lean ====
section
/-! SUPPORT. What the operations of Machine/Views.lean keep: the queue of waiting commands and the canonical form of the state
(Keeps); and that its commands answer a next state (Good). -/

namespace Sys2Proof.Machine

theorem State.readFull_keeps : ∀ s p1 p2, Keeps s (@State.readFull s p1 p2).2 := by
  intro s p1 p2
  unfold State.readFull
  refine Keeps.iteP (fun (r : Sys2Proof.Word × Sys2Proof.Machine.State) => r.2) ?_ ?_
  · refine Keeps.iteP (fun (r : Sys2Proof.Word × Sys2Proof.Machine.State) => r.2) ?_ ?_
    · refine Keeps.snd ?_
      exact Keeps.trans (Keeps.refl _) ⟨rfl, id, id, id, id⟩
    · refine Keeps.snd ?_
      exact (Keeps.refl _)
  · split
    · refine Keeps.snd ?_
      exact (Keeps.refl _)
    · refine Keeps.snd ?_
      refine Keeps.ite ?_ ?_
      · exact (Keeps.refl _)
      · exact Keeps.trans (Keeps.refl _) (State.andNotReg_keeps _ _ _)

theorem State.readRun_keeps : ∀ s p1 p2 p3, Keeps s (@State.readRun s p1 p2 p3).2 := by
  intro s p1 p2 p3
  induction p3 generalizing s p2 with
  | zero => exact Keeps.refl s
  | succ n ih => exact Keeps.trans (State.readFull_keeps _ _ _) (ih _ _)

end Sys2Proof.Machine
end

