-- ==== Sys2Proof/Laws/Host.lean ====
section
/-! SUPPORT. What the operations of Machine/Host.lean keep: the queue of waiting commands and the canonical form of the state
(Keeps); and that its commands answer a next state (Good). -/

namespace Sys2Proof.Machine

theorem State.accessFault_keeps : ∀ s p1 p2 p3 p4, Keeps s (@State.accessFault s p1 p2 p3 p4) := by
  intro s p1 p2 p3 p4
  unfold State.accessFault
  extract_lets +onlyGivenNames -merge x0
  try clear_value x0
  extract_lets +onlyGivenNames -merge x1
  have h2 : Keeps s x1 := by
    unfold x1
    refine Keeps.ite ?_ ?_
    · exact (Keeps.refl _)
    · refine Keeps.trans ?_ (State.setReg_keeps _ _ _)
      · exact Keeps.trans (Keeps.refl _) (State.setReg_keeps _ _ _)
  try clear_value x1
  refine Keeps.trans ?_ (State.hostEvent_keeps _ _)
  · exact Keeps.trans h2 (State.countField_keeps _ _ _ _ _)

theorem State.countTx_keeps : ∀ s p1 p2, Keeps s (@State.countTx s p1 p2) := by
  intro s p1 p2
  unfold State.countTx
  exact Keeps.trans (Keeps.refl _) (State.tally_keeps _ _ _ _ _)

theorem State.countRx_keeps : ∀ s p1 p2, Keeps s (@State.countRx s p1 p2) := by
  intro s p1 p2
  unfold State.countRx
  exact Keeps.trans (Keeps.refl _) (State.tally_keeps _ _ _ _ _)

theorem State.hostPut_keeps : ∀ s p1 p2 p3, Keeps s (@State.hostPut s p1 p2 p3) := by
  intro s p1 p2 p3
  unfold State.hostPut
  refine Keeps.ite ?_ ?_
  · refine Keeps.trans ?_ (State.send_keeps _ _)
    · exact Keeps.trans (Keeps.refl _) (State.countTx_keeps _ _ _)
  · exact (Keeps.refl _)

theorem State.drainRing_keeps : ∀ s p1, Keeps s (@State.drainRing s p1) := by
  intro s p1
  unfold State.drainRing
  refine Keeps.trans ?_ (State.setRing_keeps _ _ _)
  · exact Keeps.trans (Keeps.refl _) (State.setField_keeps _ _ _ _ _)

theorem State.writeRingCtrl_keeps : ∀ s p1 p2 p3, Keeps s (@State.writeRingCtrl s p1 p2 p3) := by
  intro s p1 p2 p3
  unfold State.writeRingCtrl
  extract_lets +onlyGivenNames -merge x0
  try clear_value x0
  extract_lets +onlyGivenNames -merge x1
  try clear_value x1
  extract_lets +onlyGivenNames -merge x2
  try clear_value x2
  extract_lets +onlyGivenNames -merge x3
  try clear_value x3
  extract_lets +onlyGivenNames -merge x4
  have h5 : ∀ y6, Keeps s (x4 y6) := by
    intro y6
    unfold x4
    try beta_reduce
    exact Keeps.trans (Keeps.refl _) (State.accessFault_keeps _ _ _ _ _)
  try clear_value x4
  split
  · refine Keeps.ite ?_ ?_
    · exact Keeps.trans (Keeps.refl _) (State.setReg_keeps _ _ _)
    · refine Keeps.ite ?_ ?_
      · refine Keeps.trans ?_ (State.accessFault_keeps _ _ _ _ _)
        · exact Keeps.trans (Keeps.refl _) (State.setReg_keeps _ _ _)
      · refine Keeps.trans ?_ (State.setRing_keeps _ _ _)
        · exact Keeps.trans (Keeps.refl _) (State.setReg_keeps _ _ _)
  · refine Keeps.ite ?_ ?_
    · exact h5 _
    · exact (Keeps.refl _)
  · refine Keeps.ite ?_ ?_
    · exact h5 _
    · refine Keeps.ite ?_ ?_
      · exact (Keeps.refl _)
      · exact Keeps.trans (Keeps.refl _) (State.drainRing_keeps _ _)

theorem State.writeRingBase_keeps : ∀ s p1 p2 p3 p4, Keeps s (@State.writeRingBase s p1 p2 p3 p4) := by
  intro s p1 p2 p3 p4
  unfold State.writeRingBase
  refine Keeps.ite ?_ ?_
  · exact Keeps.trans (Keeps.refl _) (State.setReg_keeps _ _ _)
  · refine Keeps.ite ?_ ?_
    · exact (Keeps.refl _)
    · exact Keeps.trans (Keeps.refl _) (State.accessFault_keeps _ _ _ _ _)

theorem execRingEnable_keeps : ∀ p0 p1 p2 s, Good s (@execRingEnable p0 p1 p2 s) := by
  intro p0 p1 p2 s
  unfold execRingEnable
  refine ⟨_, rfl, ?_⟩
  refine Keeps.ite ?_ ?_
  · refine Keeps.trans ?_ (State.writeRingCtrl_keeps _ _ _ _)
    · exact Keeps.trans (Keeps.refl _) (State.countRx_keeps _ _ _)
  · exact (Keeps.refl _)

theorem execRingDisable_keeps : ∀ p0 p1 p2 s, Good s (@execRingDisable p0 p1 p2 s) := by
  intro p0 p1 p2 s
  unfold execRingDisable
  refine ⟨_, rfl, ?_⟩
  refine Keeps.ite ?_ ?_
  · refine Keeps.trans ?_ (State.writeRingCtrl_keeps _ _ _ _)
    · exact Keeps.trans (Keeps.refl _) (State.countRx_keeps _ _ _)
  · exact (Keeps.refl _)

theorem execRingDrained_keeps : ∀ p0 s, Good s (@execRingDrained p0 s) := by
  intro p0 s
  unfold execRingDrained
  extract_lets +onlyGivenNames -merge x0
  try clear_value x0
  refine Good.ite ?_ ?_
  · refine ⟨_, rfl, ?_⟩
    exact Keeps.trans (Keeps.refl _) (State.setRing_keeps _ _ _)
  · refine ⟨_, rfl, ?_⟩
    exact (Keeps.refl _)

theorem State.doorbell_keeps : ∀ s p1 p2 p3 p4, Keeps s (@State.doorbell s p1 p2 p3 p4) := by
  intro s p1 p2 p3 p4
  unfold State.doorbell
  refine Keeps.ite ?_ ?_
  · exact (Keeps.refl _)
  · extract_lets +onlyGivenNames -merge x0
    try clear_value x0
    refine Keeps.ite ?_ ?_
    · exact Keeps.trans (Keeps.refl _) (State.accessFault_keeps _ _ _ _ _)
    · refine Keeps.ite ?_ ?_
      · exact (Keeps.refl _)
      · exact Keeps.trans (Keeps.refl _) (State.setRing_keeps _ _ _)

theorem execSqTail_keeps : ∀ p0 p1 p2 s, Good s (@execSqTail p0 p1 p2 s) := by
  intro p0 p1 p2 s
  unfold execSqTail
  refine ⟨_, rfl, ?_⟩
  refine Keeps.ite ?_ ?_
  · refine Keeps.trans ?_ (State.doorbell_keeps _ _ _ _ _)
    · exact Keeps.trans (Keeps.refl _) (State.countRx_keeps _ _ _)
  · exact (Keeps.refl _)

theorem execCqHead_keeps : ∀ p0 p1 p2 s, Good s (@execCqHead p0 p1 p2 s) := by
  intro p0 p1 p2 s
  unfold execCqHead
  refine ⟨_, rfl, ?_⟩
  refine Keeps.ite ?_ ?_
  · refine Keeps.trans ?_ (State.doorbell_keeps _ _ _ _ _)
    · exact Keeps.trans (Keeps.refl _) (State.countRx_keeps _ _ _)
  · exact (Keeps.refl _)

theorem State.doorbellWrite_keeps : ∀ s p1 p2 p3, Keeps s (@State.doorbellWrite s p1 p2 p3) := by
  intro s p1 p2 p3
  unfold State.doorbellWrite
  extract_lets +onlyGivenNames -merge x0
  try clear_value x0
  extract_lets +onlyGivenNames -merge x1
  try clear_value x1
  refine Keeps.ite ?_ ?_
  · exact (Keeps.refl _)
  · refine Keeps.ite ?_ ?_
    · exact Keeps.trans (Keeps.refl _) (State.doorbell_keeps _ _ _ _ _)
    · refine Keeps.ite ?_ ?_
      · exact Keeps.trans (Keeps.refl _) (State.doorbell_keeps _ _ _ _ _)
      · refine Keeps.ite ?_ ?_
        · refine Keeps.ite ?_ ?_
          · exact (Keeps.refl _)
          · exact Keeps.trans (Keeps.refl _) (State.accessFault_keeps _ _ _ _ _)
        · exact (Keeps.refl _)

theorem State.writeLayer_keeps : ∀ s p1 p2, Keeps s (@State.writeLayer s p1 p2).1 := by
  intro s p1 p2
  unfold State.writeLayer
  extract_lets +onlyGivenNames -merge x0
  try clear_value x0
  extract_lets +onlyGivenNames -merge x1
  try clear_value x1
  extract_lets +onlyGivenNames -merge x2
  try clear_value x2
  extract_lets +onlyGivenNames -merge x3
  try clear_value x3
  extract_lets +onlyGivenNames -merge x4
  try clear_value x4
  extract_lets +onlyGivenNames -merge x5
  try clear_value x5
  extract_lets +onlyGivenNames -merge x6
  try clear_value x6
  extract_lets +onlyGivenNames -merge x7
  try clear_value x7
  extract_lets +onlyGivenNames -merge x8
  try clear_value x8
  extract_lets +onlyGivenNames -merge x9
  try clear_value x9
  extract_lets +onlyGivenNames -merge x10
  have h11 : Keeps s x10 := by
    unfold x10
    try beta_reduce
    exact Keeps.trans (Keeps.refl _) (State.setReg_keeps _ _ _)
  try clear_value x10
  extract_lets +onlyGivenNames -merge x12
  try clear_value x12
  extract_lets +onlyGivenNames -merge x13
  have h14 : Keeps s x13 := by
    unfold x13
    try beta_reduce
    refine Keeps.ite ?_ ?_
    · exact h11
    · exact Keeps.trans h11 (State.setSlice_keeps _ _ _)
  try clear_value x13
  exact h14

theorem State.writeClk_keeps : ∀ s p1 p2, Keeps s (@State.writeClk s p1 p2).1 := by
  intro s p1 p2
  unfold State.writeClk
  extract_lets +onlyGivenNames -merge x0
  try clear_value x0
  extract_lets +onlyGivenNames -merge x1
  try clear_value x1
  refine Keeps.iteP (fun (r : Sys2Proof.Machine.State × Bool) => r.1) ?_ ?_
  · refine Keeps.fst ?_
    exact (Keeps.refl _)
  · refine Keeps.iteP (fun (r : Sys2Proof.Machine.State × Bool) => r.1) ?_ ?_
    · refine Keeps.fst ?_
      exact (Keeps.refl _)
    · refine Keeps.fst ?_
      refine Keeps.trans ?_ (State.setField_keeps _ _ _ _ _)
      · exact Keeps.trans (Keeps.refl _) (State.setField_keeps _ _ _ _ _)

theorem State.commitMap_keeps : ∀ s, Keeps s (@State.commitMap s) := by
  intro s
  unfold State.commitMap
  refine Keeps.ite ?_ ?_
  · exact (Keeps.refl _)
  · refine Keeps.ite ?_ ?_
    · exact Keeps.trans (Keeps.refl _) ⟨rfl, id, id, id, id⟩
    · exact Keeps.trans (Keeps.refl _) (State.setField_keeps _ _ _ _ _)

theorem State.putFlash_keeps : ∀ s p1 p2 p3, Keeps s (@State.putFlash s p1 p2 p3) := by
  intro s p1 p2 p3
  unfold State.putFlash
  exact Keeps.trans (Keeps.refl _) ⟨rfl, id, id, id, id⟩

theorem State.putBoth_keeps : ∀ s p1 p2 p3 p4, Keeps s (@State.putBoth s p1 p2 p3 p4) := by
  intro s p1 p2 p3 p4
  unfold State.putBoth
  extract_lets +onlyGivenNames -merge x0
  have h1 : ∀ y2 y3, Keeps y2 (x0 y2 y3) := by
    intro y2 y3
    unfold x0
    try beta_reduce
    extract_lets +onlyGivenNames -merge x4
    have h5 : Keeps y2 x4.2 := by
      unfold x4
      exact Keeps.trans (Keeps.refl _) (State.free_keeps _ _)
    try clear_value x4
    exact Keeps.trans h5 (State.putFlash_keeps _ _ _ _)
  try clear_value x0
  refine Keeps.ite ?_ ?_
  · refine Keeps.trans ?_ (h1 _ _)
    exact (Keeps.refl _)
  · extract_lets +onlyGivenNames -merge x6
    have h7 : Keeps s x6 := by
      unfold x6
      exact Keeps.trans (Keeps.refl _) (State.putFlash_keeps _ _ _ _)
    try clear_value x6
    refine Keeps.ite ?_ ?_
    · refine Keeps.trans ?_ (h1 _ _)
      exact h7
    · exact Keeps.trans h7 (State.putFlash_keeps _ _ _ _)

theorem execLaneMapCommit_keeps : ∀ p0 p1 s, Good s (@execLaneMapCommit p0 p1 s) := by
  intro p0 p1 s
  unfold execLaneMapCommit
  refine ⟨_, rfl, ?_⟩
  refine Keeps.ite ?_ ?_
  · refine Keeps.trans ?_ (State.commitMap_keeps _)
    · refine Keeps.trans ?_ (State.setField_keeps _ _ _ _ _)
      · exact Keeps.trans (Keeps.refl _) (State.countRx_keeps _ _ _)
  · exact (Keeps.refl _)

theorem execLaneMapCommitDone_keeps : ∀ p0 p1 s, Good s (@execLaneMapCommitDone p0 p1 s) := by
  intro p0 p1 s
  unfold execLaneMapCommitDone
  refine Good.ite ?_ ?_
  · refine ⟨_, rfl, ?_⟩
    exact (Keeps.refl _)
  · extract_lets +onlyGivenNames -merge x0
    have h1 : Keeps s x0 := by
      unfold x0
      exact Keeps.trans (Keeps.refl _) (State.putBoth_keeps _ _ _ _ _)
    try clear_value x0
    extract_lets +onlyGivenNames -merge x2
    have h3 : Keeps s x2 := by
      unfold x2
      exact Keeps.trans h1 (State.setField_keeps _ _ _ _ _)
    try clear_value x2
    refine ⟨_, rfl, ?_⟩
    exact Keeps.trans h3 ⟨rfl, id, id, id, id⟩

theorem State.writePlain_keeps : ∀ s p1 p2 p3, Keeps s (@State.writePlain s p1 p2 p3).1 := by
  intro s p1 p2 p3
  unfold State.writePlain
  extract_lets +onlyGivenNames -merge x0
  try clear_value x0
  extract_lets +onlyGivenNames -merge x1
  try clear_value x1
  refine Keeps.fst ?_
  exact Keeps.trans (Keeps.refl _) (State.setReg_keeps _ _ _)

theorem State.unmask_keeps : ∀ s p1, Keeps s (@State.unmask s p1) := by
  intro s p1
  unfold State.unmask
  extract_lets +onlyGivenNames -merge x0
  try clear_value x0
  extract_lets +onlyGivenNames -merge x1
  try clear_value x1
  refine Keeps.ite ?_ ?_
  · refine Keeps.trans ?_ (State.msix_keeps _ _ _)
    · exact Keeps.trans (Keeps.refl _) (State.setField_keeps _ _ _ _ _)
  · exact (Keeps.refl _)

theorem State.writeReg_keeps : ∀ s p1 p2 p3, Keeps s (@State.writeReg s p1 p2 p3).1 := by
  intro s p1 p2 p3
  unfold State.writeReg
  refine Keeps.iteP (fun (r : Sys2Proof.Machine.State × Bool) => r.1) ?_ ?_
  · refine Keeps.fst ?_
    exact (Keeps.refl _)
  · split
    · refine Keeps.fst ?_
      exact (Keeps.refl _)
    · refine Keeps.iteP (fun (r : Sys2Proof.Machine.State × Bool) => r.1) ?_ ?_
      · refine Keeps.fst ?_
        exact Keeps.trans (Keeps.refl _) (State.writeRingBase_keeps _ _ _ _ _)
      · refine Keeps.iteP (fun (r : Sys2Proof.Machine.State × Bool) => r.1) ?_ ?_
        · refine Keeps.fst ?_
          exact Keeps.trans (Keeps.refl _) (State.writeRingCtrl_keeps _ _ _ _)
        · refine Keeps.iteP (fun (r : Sys2Proof.Machine.State × Bool) => r.1) ?_ ?_
          · exact Keeps.trans (Keeps.refl _) (State.writeLayer_keeps _ _ _)
          · refine Keeps.iteP (fun (r : Sys2Proof.Machine.State × Bool) => r.1) ?_ ?_
            · extract_lets +onlyGivenNames -merge x0
              have h1 : Keeps s x0 := by
                unfold x0
                exact Keeps.trans (Keeps.refl _) (State.setField_keeps _ _ _ _ _)
              try clear_value x0
              refine Keeps.fst ?_
              refine Keeps.ite ?_ ?_
              · exact Keeps.trans h1 (State.commitMap_keeps _)
              · exact h1
            · refine Keeps.iteP (fun (r : Sys2Proof.Machine.State × Bool) => r.1) ?_ ?_
              · refine Keeps.fst ?_
                refine Keeps.ite ?_ ?_
                · refine Keeps.trans ?_ (State.setField_keeps _ _ _ _ _)
                  · exact Keeps.trans (Keeps.refl _) (State.setField_keeps _ _ _ _ _)
                · exact (Keeps.refl _)
              · refine Keeps.iteP (fun (r : Sys2Proof.Machine.State × Bool) => r.1) ?_ ?_
                · extract_lets +onlyGivenNames -merge x2
                  try clear_value x2
                  extract_lets +onlyGivenNames -merge x3
                  try clear_value x3
                  extract_lets +onlyGivenNames -merge x4
                  have h5 : Keeps s x4 := by
                    unfold x4
                    refine Keeps.ite ?_ ?_
                    · exact Keeps.trans (Keeps.refl _) (State.setField_keeps _ _ _ _ _)
                    · exact (Keeps.refl _)
                  try clear_value x4
                  extract_lets +onlyGivenNames -merge x6
                  have h7 : Keeps s x6 := by
                    unfold x6
                    refine Keeps.ite ?_ ?_
                    · exact Keeps.trans h5 (State.setField_keeps _ _ _ _ _)
                    · exact h5
                  try clear_value x6
                  refine Keeps.fst ?_
                  exact h7
                · refine Keeps.iteP (fun (r : Sys2Proof.Machine.State × Bool) => r.1) ?_ ?_
                  · refine Keeps.iteP (fun (r : Sys2Proof.Machine.State × Bool) => r.1) ?_ ?_
                    · exact Keeps.trans (Keeps.refl _) (State.writePlain_keeps _ _ _ _)
                    · refine Keeps.fst ?_
                      exact (Keeps.refl _)
                  · split
                    · exact Keeps.trans (Keeps.refl _) (State.writeClk_keeps _ _ _)
                    · split
                      · refine Keeps.iteP (fun (r : Sys2Proof.Machine.State × Bool) => r.1) ?_ ?_
                        · exact Keeps.trans (Keeps.refl _) (State.writePlain_keeps _ _ _ _)
                        · refine Keeps.fst ?_
                          exact (Keeps.refl _)
                      · extract_lets +onlyGivenNames -merge x8
                        have h9 : Keeps s x8.1 := by
                          unfold x8
                          exact Keeps.trans (Keeps.refl _) (State.writePlain_keeps _ _ _ _)
                        try clear_value x8
                        refine Keeps.fst ?_
                        refine Keeps.ite ?_ ?_
                        · exact Keeps.trans h9 (State.unmask_keeps _ _)
                        · exact h9

theorem State.writeLogged_keeps : ∀ s p1 p2 p3, Keeps s (@State.writeLogged s p1 p2 p3) := by
  intro s p1 p2 p3
  unfold State.writeLogged
  extract_lets +onlyGivenNames -merge x0
  have h1 : Keeps s x0.1 := by
    unfold x0
    exact Keeps.trans (Keeps.refl _) (State.writeReg_keeps _ _ _ _)
  try clear_value x0
  refine Keeps.ite ?_ ?_
  · exact Keeps.trans h1 (State.accessFault_keeps _ _ _ _ _)
  · exact h1

theorem State.readTlp_keeps : ∀ s p1 p2 p3 p4 p5, Keeps s (@State.readTlp s p1 p2 p3 p4 p5).2 := by
  intro s p1 p2 p3 p4 p5
  induction p5 generalizing s with
  | nil => exact Keeps.refl s
  | cons i is ih =>
    rw [State.readTlp]
    refine Keeps.trans ?_ (ih _)
    refine Keeps.iteP (fun (r : Word × State) => r.2) (Keeps.refl s) ?_
    refine Keeps.iteP (fun (r : Word × State) => r.2) ?_ (Keeps.refl s)
    exact State.readFull_keeps _ _ _

theorem execRegisterReadClear_keeps : ∀ p0 p1 p2 p3 s, Good s (@execRegisterReadClear p0 p1 p2 p3 s) := by
  intro p0 p1 p2 p3 s
  unfold execRegisterReadClear
  refine Good.ite ?_ ?_
  · refine ⟨_, rfl, ?_⟩
    exact (Keeps.refl _)
  · extract_lets +onlyGivenNames -merge x0
    have h1 : Keeps s x0.2 := by
      unfold x0
      exact Keeps.trans (Keeps.refl _) (State.readTlp_keeps _ _ _ _ _ _)
    try clear_value x0
    refine ⟨_, rfl, ?_⟩
    refine Keeps.trans ?_ (State.send_keeps _ _)
    · exact Keeps.trans h1 (State.countTx_keeps _ _ _)

theorem execRegisterWrite_keeps : ∀ p0 p1 p2 p3 p4 s, Good s (@execRegisterWrite p0 p1 p2 p3 p4 s) := by
  intro p0 p1 p2 p3 p4 s
  unfold execRegisterWrite
  refine Good.ite ?_ ?_
  · refine ⟨_, rfl, ?_⟩
    exact (Keeps.refl _)
  · extract_lets +onlyGivenNames -merge x0
    try clear_value x0
    extract_lets +onlyGivenNames -merge x1
    try clear_value x1
    split
    · refine ⟨_, rfl, ?_⟩
      exact (Keeps.refl _)
    · extract_lets +onlyGivenNames -merge x2
      have h3 : Keeps s x2 := by
        unfold x2
        exact Keeps.trans (Keeps.refl _) (State.countRx_keeps _ _ _)
      try clear_value x2
      extract_lets +onlyGivenNames -merge x4
      try clear_value x4
      extract_lets +onlyGivenNames -merge x5
      try clear_value x5
      extract_lets +onlyGivenNames -merge x6
      try clear_value x6
      extract_lets +onlyGivenNames -merge x7
      try clear_value x7
      refine Good.ite ?_ ?_
      · refine ⟨_, rfl, ?_⟩
        exact Keeps.trans h3 (State.accessFault_keeps _ _ _ _ _)
      · refine Good.ite ?_ ?_
        · refine ⟨_, rfl, ?_⟩
          exact Keeps.trans h3 (State.accessFault_keeps _ _ _ _ _)
        · refine ⟨_, rfl, ?_⟩
          refine Keeps.foldl ?_ ?_
          · exact h3
          · intro a9 b10 ht8
            try beta_reduce
            extract_lets +onlyGivenNames -merge x11
            try clear_value x11
            refine Keeps.ite ?_ ?_
            · exact Keeps.trans ht8 (State.doorbellWrite_keeps _ _ _ _)
            · exact Keeps.trans ht8 (State.writeLogged_keeps _ _ _ _)

theorem execSliceLayerWrite_keeps : ∀ p0 p1 p2 s, Good s (@execSliceLayerWrite p0 p1 p2 s) := by
  intro p0 p1 p2 s
  unfold execSliceLayerWrite
  refine Good.ite ?_ ?_
  · refine ⟨_, rfl, ?_⟩
    exact (Keeps.refl _)
  · extract_lets +onlyGivenNames -merge x0
    have h1 : Keeps s x0.1 := by
      unfold x0
      refine Keeps.trans ?_ (State.writeLayer_keeps _ _ _)
      · exact Keeps.trans (Keeps.refl _) (State.countRx_keeps _ _ _)
    try clear_value x0
    refine ⟨_, rfl, ?_⟩
    refine Keeps.ite ?_ ?_
    · exact Keeps.trans h1 (State.accessFault_keeps _ _ _ _ _)
    · exact h1

theorem execClkPartWrite_keeps : ∀ p0 p1 p2 s, Good s (@execClkPartWrite p0 p1 p2 s) := by
  intro p0 p1 p2 s
  unfold execClkPartWrite
  refine Good.ite ?_ ?_
  · refine ⟨_, rfl, ?_⟩
    exact (Keeps.refl _)
  · extract_lets +onlyGivenNames -merge x0
    have h1 : Keeps s x0.1 := by
      unfold x0
      refine Keeps.trans ?_ (State.writeClk_keeps _ _ _)
      · exact Keeps.trans (Keeps.refl _) (State.countRx_keeps _ _ _)
    try clear_value x0
    refine ⟨_, rfl, ?_⟩
    refine Keeps.ite ?_ ?_
    · exact Keeps.trans h1 (State.accessFault_keeps _ _ _ _ _)
    · exact h1

theorem State.msixRelease_keeps : ∀ s p1, Keeps s (@State.msixRelease s p1) := by
  intro s p1
  unfold State.msixRelease
  refine Keeps.foldl ?_ ?_
  · exact (Keeps.refl _)
  · intro a0 b1 ht2
    try beta_reduce
    refine Keeps.ite ?_ ?_
    · refine Keeps.trans ?_ (State.msix_keeps _ _ _)
      exact Keeps.trans ht2 (State.setField_keeps _ _ _ _ _)
    · exact ht2

theorem State.configWrite_keeps : ∀ s p1 p2 p3, Keeps s (@State.configWrite s p1 p2 p3) := by
  intro s p1 p2 p3
  unfold State.configWrite
  split
  · extract_lets +onlyGivenNames -merge x0
    have h1 : Keeps s x0 := by
      unfold x0
      try beta_reduce
      exact Keeps.trans (Keeps.refl _) ⟨rfl, id, id, id, id⟩
    try clear_value x0
    refine Keeps.ite ?_ ?_
    · exact Keeps.trans h1 (State.msixRelease_keeps _ _)
    · exact h1
  · exact (Keeps.refl _)

theorem execConfigRequest_keeps : ∀ p0 p1 p2 s, Good s (@execConfigRequest p0 p1 p2 s) := by
  intro p0 p1 p2 s
  unfold execConfigRequest
  refine Good.ite ?_ ?_
  · refine ⟨_, rfl, ?_⟩
    exact Keeps.trans (Keeps.refl _) (State.send_keeps _ _)
  · refine Good.ite ?_ ?_
    · refine ⟨_, rfl, ?_⟩
      exact (Keeps.refl _)
    · extract_lets +onlyGivenNames -merge x0
      try clear_value x0
      extract_lets +onlyGivenNames -merge x1
      have h2 : Keeps s x1 := by
        unfold x1
        try beta_reduce
        exact Keeps.trans (Keeps.refl _) ⟨rfl, id, id, id, id⟩
      try clear_value x1
      extract_lets +onlyGivenNames -merge x3
      try clear_value x3
      split
      · refine ⟨_, rfl, ?_⟩
        refine Keeps.trans ?_ (State.send_keeps _ _)
        exact Keeps.trans h2 (State.configWrite_keeps _ _ _ _)
      · refine ⟨_, rfl, ?_⟩
        exact Keeps.trans h2 (State.send_keeps _ _)
      · extract_lets +onlyGivenNames -merge x4
        have h5 : Keeps s x4.2 := by
          unfold x4
          try beta_reduce
          exact Keeps.trans h2 (State.free_keeps _ _)
        try clear_value x4
        refine ⟨_, rfl, ?_⟩
        exact Keeps.trans h5 (State.send_keeps _ _)

theorem execPerstAssert_keeps : ∀ p0 s, Good s (@execPerstAssert p0 s) := by
  intro p0 s
  unfold execPerstAssert
  extract_lets +onlyGivenNames -merge x0
  have h1 : ∀ y2, Keeps y2 (x0 y2) := by
    intro y2
    unfold x0
    try beta_reduce
    exact Keeps.trans (Keeps.refl _) ⟨rfl, id, id, id, id⟩
  try clear_value x0
  refine Good.ite ?_ ?_
  · refine ⟨_, rfl, ?_⟩
    refine Keeps.trans ?_ (h1 _)
    exact (Keeps.refl _)
  · extract_lets +onlyGivenNames -merge x3
    try clear_value x3
    extract_lets +onlyGivenNames -merge x4
    have h5 : Keeps s x4 := by
      unfold x4
      refine Keeps.trans (Keeps.refl _) (Keeps.mk rfl ?_ ?_ ?_ ?_) <;> intro hh <;>
        (first | exact hh | exact Mem.writeUnit_wf _ _ _ hh | exact Mem.zero_wf _ _ hh | exact regsForm_filter _ hh
               | exact SMap.wf_clear _ _ hh | exact SMap.wf_set _ _ hh | exact regsForm_set _ _ hh | exact Mem.empty_wf | rfl
               | exact SMap.wf_clear _ _ (SMap.wf_clear _ _ hh) | exact regsForm_clear _ _ (regsForm_clear _ _ hh))
    try clear_value x4
    extract_lets +onlyGivenNames -merge x6
    have h7 : Keeps s x6 := by
      unfold x6
      refine Keeps.foldl ?_ ?_
      · exact h5
      · intro a9 b10 ht8
        try beta_reduce
        exact Keeps.trans ht8 (State.setReg_keeps _ _ _)
    try clear_value x6
    extract_lets +onlyGivenNames -merge x11
    have h12 : Keeps s x11 := by
      unfold x11
      refine Keeps.foldl ?_ ?_
      · exact h7
      · intro a14 b15 ht13
        try beta_reduce
        refine Keeps.ite ?_ ?_
        · exact Keeps.trans ht13 (State.drainRing_keeps _ _)
        · exact ht13
    try clear_value x11
    refine ⟨_, rfl, ?_⟩
    refine Keeps.trans ?_ (h1 _)
    exact Keeps.trans h12 ⟨rfl, id, id, id, id⟩

theorem execPerstRelease_keeps : ∀ p0 s, Good s (@execPerstRelease p0 s) := by
  intro p0 s
  unfold execPerstRelease
  extract_lets +onlyGivenNames -merge x0 x1
  try clear_value x0
  have h2 : Keeps s x1 := by
    unfold x1
    exact Keeps.trans (Keeps.refl _) ⟨rfl, id, id, id, id⟩
  try clear_value x1
  refine Good.ite ?_ ?_
  · refine ⟨_, rfl, ?_⟩
    exact h2
  · refine ⟨_, rfl, ?_⟩
    exact Keeps.trans h2 ⟨rfl, id, id, id, id⟩

theorem execPcieLinkDown_keeps : ∀ p0 s, Good s (@execPcieLinkDown p0 s) := by
  intro p0 s
  unfold execPcieLinkDown
  refine ⟨_, rfl, ?_⟩
  exact Keeps.trans (Keeps.refl _) ⟨rfl, id, id, id, id⟩

theorem State.countApt_keeps : ∀ s p1 p2 p3, Keeps s (@State.countApt s p1 p2 p3) := by
  intro s p1 p2 p3
  unfold State.countApt
  split
  · exact Keeps.trans (Keeps.refl _) (State.tally_keeps _ _ _ _ _)
  · exact (Keeps.refl _)

theorem State.noteGated_keeps : ∀ s p1, Keeps s (@State.noteGated s p1) := by
  intro s p1
  unfold State.noteGated
  refine Keeps.ite ?_ ?_
  · exact Keeps.trans (Keeps.refl _) ⟨rfl, id, id, id, id⟩
  · exact (Keeps.refl _)

theorem execApertureRead_keeps : ∀ p0 p1 p2 s, Good s (@execApertureRead p0 p1 p2 s) := by
  intro p0 p1 p2 s
  unfold execApertureRead
  refine Good.ite ?_ ?_
  · refine ⟨_, rfl, ?_⟩
    exact (Keeps.refl _)
  · refine Good.ite ?_ ?_
    · refine ⟨_, rfl, ?_⟩
      refine Keeps.trans ?_ (State.send_keeps _ _)
      · exact Keeps.trans (Keeps.refl _) (State.hostEvent_keeps _ _)
    · split
      · refine ⟨_, rfl, ?_⟩
        refine Keeps.trans ?_ (State.send_keeps _ _)
        · refine Keeps.trans ?_ (State.hostEvent_keeps _ _)
          · exact Keeps.trans (Keeps.refl _) (State.accessFault_keeps _ _ _ _ _)
      · extract_lets +onlyGivenNames -merge x0
        try clear_value x0
        extract_lets +onlyGivenNames -merge x1
        have h2 : Keeps s x1 := by
          unfold x1
          exact Keeps.trans (Keeps.refl _) (State.noteGated_keeps _ _)
        try clear_value x1
        refine ⟨_, rfl, ?_⟩
        refine Keeps.foldl ?_ ?_
        · exact h2
        · intro a4 b5 ht3
          try beta_reduce
          extract_lets +onlyGivenNames -merge x6
          have h7 : Keeps s x6.2.2 := by
            unfold x6
            exact Keeps.trans ht3 (State.ccRead_keeps _ _ _ _)
          try clear_value x6
          extract_lets +onlyGivenNames -merge x8
          have h9 : Keeps s x8 := by
            unfold x8
            refine Keeps.trans ?_ (State.countApt_keeps _ _ _ _)
            · exact Keeps.trans h7 (State.countTx_keeps _ _ _)
          try clear_value x8
          extract_lets +onlyGivenNames -merge x10
          have h11 : Keeps s x10 := by
            unfold x10
            refine Keeps.ite ?_ ?_
            · exact h9
            · exact Keeps.trans h9 (State.hostEvent_keeps _ _)
          try clear_value x10
          exact Keeps.trans h11 (State.send_keeps _ _)

theorem execApertureWrite_keeps : ∀ p0 p1 p2 p3 s, Good s (@execApertureWrite p0 p1 p2 p3 s) := by
  intro p0 p1 p2 p3 s
  unfold execApertureWrite
  refine Good.ite ?_ ?_
  · refine ⟨_, rfl, ?_⟩
    exact (Keeps.refl _)
  · extract_lets +onlyGivenNames -merge x0
    have h1 : Keeps s x0 := by
      unfold x0
      exact Keeps.trans (Keeps.refl _) (State.countRx_keeps _ _ _)
    try clear_value x0
    refine Good.ite ?_ ?_
    · refine ⟨_, rfl, ?_⟩
      exact Keeps.trans h1 (State.hostEvent_keeps _ _)
    · split
      · refine ⟨_, rfl, ?_⟩
        refine Keeps.trans ?_ (State.hostEvent_keeps _ _)
        · exact Keeps.trans h1 (State.accessFault_keeps _ _ _ _ _)
      · extract_lets +onlyGivenNames -merge x2
        try clear_value x2
        extract_lets +onlyGivenNames -merge x3
        have h4 : Keeps s x3 := by
          unfold x3
          exact Keeps.trans h1 (State.noteGated_keeps _ _)
        try clear_value x3
        extract_lets +onlyGivenNames -merge x5
        have h6 : Keeps s x5 := by
          unfold x5
          refine Keeps.foldl ?_ ?_
          · exact h4
          · intro a8 b9 ht7
            try beta_reduce
            refine Keeps.trans ?_ (State.countApt_keeps _ _ _ _)
            · exact Keeps.trans ht7 (State.ccWrite_keeps _ _ _ _ _)
        try clear_value x5
        refine ⟨_, rfl, ?_⟩
        refine Keeps.ite ?_ ?_
        · exact Keeps.trans h6 (State.hostEvent_keeps _ _)
        · exact h6

end Sys2Proof.Machine
end

