-- ==== Sys2Proof/Laws/Cmd.lean ====
section
/-! SUPPORT. What the operations of Machine/Cmd.lean keep: the queue of waiting commands and the canonical form of the state
(Keeps); and that its commands answer a next state (Good). -/

namespace Sys2Proof.Machine

theorem State.takeIn_keeps : ∀ s p1 p2, Keeps s (@State.takeIn s p1 p2) := by
  intro s p1 p2
  unfold State.takeIn
  extract_lets +onlyGivenNames -merge x0
  try clear_value x0
  extract_lets +onlyGivenNames -merge x1
  try clear_value x1
  extract_lets +onlyGivenNames -merge x2
  try clear_value x2
  extract_lets +onlyGivenNames -merge x3
  try clear_value x3
  extract_lets +onlyGivenNames -merge x4
  try clear_value x4
  extract_lets +onlyGivenNames -merge x5
  try clear_value x5
  extract_lets +onlyGivenNames -merge x6
  try clear_value x6
  extract_lets +onlyGivenNames -merge x7
  try clear_value x7
  extract_lets +onlyGivenNames -merge x8 x9 x10
  try clear_value x8
  try clear_value x9
  have h11 : Keeps s x10 := by
    unfold x10
    refine Keeps.ite ?_ ?_
    · exact Keeps.trans (Keeps.refl _) (State.setRing_keeps _ _ _)
    · exact (Keeps.refl _)
  try clear_value x10
  exact Keeps.trans h11 ⟨rfl, id, id, id, id⟩

theorem execSqEntryFetch_keeps : ∀ p0 p1 s, Good s (@execSqEntryFetch p0 p1 s) := by
  intro p0 p1 s
  unfold execSqEntryFetch
  refine Good.ite ?_ ?_
  · refine ⟨_, rfl, ?_⟩
    exact (Keeps.refl _)
  · split
    · refine ⟨_, rfl, ?_⟩
      exact (Keeps.refl _)
    · extract_lets +onlyGivenNames -merge x0
      try clear_value x0
      extract_lets +onlyGivenNames -merge x1
      try clear_value x1
      extract_lets +onlyGivenNames -merge x2
      have h3 : Keeps s x2 := by
        unfold x2
        try beta_reduce
        exact Keeps.trans (Keeps.refl _) ⟨rfl, id, id, id, id⟩
      try clear_value x2
      extract_lets +onlyGivenNames -merge x4
      have h5 : Keeps s x4 := by
        unfold x4
        try beta_reduce
        exact Keeps.trans h3 (State.send_keeps _ _)
      try clear_value x4
      split
      · extract_lets +onlyGivenNames -merge x6
        have h7 : Keeps s x6 := by
          unfold x6
          try beta_reduce
          exact Keeps.trans h5 (State.countRx_keeps _ _ _)
        try clear_value x6
        refine ⟨_, rfl, ?_⟩
        refine Keeps.trans ?_ (State.takeIn_keeps _ _ _)
        exact Keeps.trans h7 (State.setRing_keeps _ _ _)
      · refine ⟨_, rfl, ?_⟩
        refine Keeps.trans ?_ (State.hostEvent_keeps _ _)
        exact Keeps.trans h5 (State.setRing_keeps _ _ _)
      · refine ⟨_, rfl, ?_⟩
        refine Keeps.trans ?_ (State.hostEvent_keeps _ _)
        exact Keeps.trans h5 (State.setRing_keeps _ _ _)

theorem execMctpRequest_keeps : ∀ p0 s, Good s (@execMctpRequest p0 s) := by
  intro p0 s
  unfold execMctpRequest
  refine Good.ite ?_ ?_
  · refine ⟨_, rfl, ?_⟩
    exact (Keeps.refl _)
  · refine Good.ite ?_ ?_
    · refine ⟨_, rfl, ?_⟩
      exact Keeps.trans (Keeps.refl _) ⟨rfl, id, id, id, id⟩
    · refine ⟨_, rfl, ?_⟩
      exact Keeps.trans (Keeps.refl _) (State.takeIn_keeps _ _ _)

theorem State.setCmd_keeps : ∀ s p1 p2, Keeps s (@State.setCmd s p1 p2) := by
  intro s p1 p2
  unfold State.setCmd
  exact Keeps.trans (Keeps.refl _) ⟨rfl, id, id, id, id⟩

theorem State.finish_keeps : ∀ s p1 p2, Keeps s (@State.finish s p1 p2) := by
  intro s p1 p2
  unfold State.finish
  split
  · exact Keeps.trans (Keeps.refl _) (State.setCmd_keeps _ _ _)
  · exact (Keeps.refl _)

theorem State.nextMctp_keeps : ∀ s, Keeps s (@State.nextMctp s) := by
  intro s
  unfold State.nextMctp
  split
  · exact (Keeps.refl _)
  · refine Keeps.ite ?_ ?_
    · exact (Keeps.refl _)
    · refine Keeps.trans ?_ (State.takeIn_keeps _ _ _)
      exact Keeps.trans (Keeps.refl _) ⟨rfl, id, id, id, id⟩

theorem State.complete_keeps : ∀ s p1 p2 p3, Keeps s (@State.complete s p1 p2 p3) := by
  intro s p1 p2 p3
  unfold State.complete
  extract_lets +onlyGivenNames -merge x0
  try clear_value x0
  extract_lets +onlyGivenNames -merge x1
  have h2 : Keeps s x1 := by
    unfold x1
    try beta_reduce
    exact Keeps.trans (Keeps.refl _) ⟨rfl, id, id, id, id⟩
  try clear_value x1
  split
  · extract_lets +onlyGivenNames -merge x3
    try clear_value x3
    split
    · exact Keeps.trans h2 (State.setRing_keeps _ _ _)
    · extract_lets +onlyGivenNames -merge x4
      try clear_value x4
      extract_lets +onlyGivenNames -merge x5
      try clear_value x5
      exact Keeps.trans h2 (State.setRing_keeps _ _ _)
  · extract_lets +onlyGivenNames -merge x6
    have h7 : Keeps s x6.2 := by
      unfold x6
      try beta_reduce
      exact Keeps.trans h2 (State.free_keeps _ _)
    try clear_value x6
    extract_lets +onlyGivenNames -merge x8
    try clear_value x8
    extract_lets +onlyGivenNames -merge x9
    try clear_value x9
    extract_lets +onlyGivenNames -merge x10
    try clear_value x10
    extract_lets +onlyGivenNames -merge x11
    try clear_value x11
    refine Keeps.trans ?_ (State.nextMctp_keeps _)
    exact Keeps.trans h7 (State.send_keeps _ _)

theorem execRefusedReply_keeps : ∀ p0 s, Good s (@execRefusedReply p0 s) := by
  intro p0 s
  unfold execRefusedReply
  split
  · split
    · refine Good.ite ?_ ?_
      · refine ⟨_, rfl, ?_⟩
        exact Keeps.trans (Keeps.refl _) (State.complete_keeps _ _ _ _)
      · refine ⟨_, rfl, ?_⟩
        exact (Keeps.refl _)
    · refine ⟨_, rfl, ?_⟩
      exact (Keeps.refl _)
  · refine ⟨_, rfl, ?_⟩
    exact (Keeps.refl _)

theorem State.signalRing_keeps : ∀ s p1, Keeps s (@State.signalRing s p1) := by
  intro s p1
  unfold State.signalRing
  refine Keeps.trans ?_ (State.msix_keeps _ _ _)
  · exact Keeps.trans (Keeps.refl _) (State.setRing_keeps _ _ _)

theorem State.grantConsent_keeps : ∀ s p1, Keeps s (@State.grantConsent s p1) := by
  intro s p1
  unfold State.grantConsent
  split
  · refine Keeps.ite ?_ ?_
    · exact (Keeps.refl _)
    · exact Keeps.trans (Keeps.refl _) (State.orReg_keeps _ _ _)
  · exact (Keeps.refl _)

theorem execCompletionWrite_keeps : ∀ p0 s, Good s (@execCompletionWrite p0 s) := by
  intro p0 s
  unfold execCompletionWrite
  extract_lets +onlyGivenNames -merge x0
  try clear_value x0
  extract_lets +onlyGivenNames -merge x1
  try clear_value x1
  split
  · refine ⟨_, rfl, ?_⟩
    exact (Keeps.refl _)
  · refine Good.ite ?_ ?_
    · refine ⟨_, rfl, ?_⟩
      exact (Keeps.refl _)
    · extract_lets +onlyGivenNames -merge x2
      try clear_value x2
      extract_lets +onlyGivenNames -merge x3
      try clear_value x3
      extract_lets +onlyGivenNames -merge x4
      have h5 : Keeps s x4 := by
        unfold x4
        try beta_reduce
        refine Keeps.trans ?_ (State.grantConsent_keeps _ _)
        exact Keeps.trans (Keeps.refl _) (State.hostPut_keeps _ _ _ _)
      try clear_value x4
      extract_lets +onlyGivenNames -merge x6
      try clear_value x6
      extract_lets +onlyGivenNames -merge x7
      try clear_value x7
      extract_lets +onlyGivenNames -merge x8
      try clear_value x8
      extract_lets +onlyGivenNames -merge x9
      have h10 : Keeps s x9 := by
        unfold x9
        try beta_reduce
        exact Keeps.trans h5 (State.setRing_keeps _ _ _)
      try clear_value x9
      refine Good.ite ?_ ?_
      · refine ⟨_, rfl, ?_⟩
        exact Keeps.trans h10 (State.signalRing_keeps _ _)
      · refine ⟨_, rfl, ?_⟩
        exact h10

theorem execRingIrqTimer_keeps : ∀ p0 s, Good s (@execRingIrqTimer p0 s) := by
  intro p0 s
  unfold execRingIrqTimer
  extract_lets +onlyGivenNames -merge x0
  try clear_value x0
  extract_lets +onlyGivenNames -merge x1
  try clear_value x1
  refine Good.ite ?_ ?_
  · refine ⟨_, rfl, ?_⟩
    exact Keeps.trans (Keeps.refl _) (State.signalRing_keeps _ _)
  · refine ⟨_, rfl, ?_⟩
    exact (Keeps.refl _)

theorem State.perform_keeps : ∀ s p1 p2 p3 p4, (∀ y0 y1, Keeps y0 (p4 y0 y1).2) → Keeps s (@State.perform s p1 p2 p3 p4) := by
  intro s p1 p2 p3 p4 hf42
  unfold State.perform
  split
  · refine Keeps.ite ?_ ?_
    · extract_lets +onlyGivenNames -merge x0
      have h1 : Keeps s x0.2 := by
        unfold x0
        refine Keeps.trans ?_ (hf42 _ _)
        exact (Keeps.refl _)
      try clear_value x0
      exact Keeps.trans h1 (State.finish_keeps _ _ _)
    · exact (Keeps.refl _)
  · exact (Keeps.refl _)

theorem State.start_keeps : ∀ s p1 p2 p3 p4, (∀ y0 y1, Keeps y0 (p4 y0 y1).2.2.2) → Keeps s (@State.start s p1 p2 p3 p4) := by
  intro s p1 p2 p3 p4 hf4222
  unfold State.start
  split
  · refine Keeps.ite ?_ ?_
    · extract_lets +onlyGivenNames -merge x0
      have h1 : Keeps s x0.2.2.2 := by
        unfold x0
        refine Keeps.trans ?_ (hf4222 _ _)
        exact (Keeps.refl _)
      try clear_value x0
      exact Keeps.trans h1 (State.setCmd_keeps _ _ _)
    · exact (Keeps.refl _)
  · exact (Keeps.refl _)

theorem execIdentify_keeps : ∀ p0 s, Good s (@execIdentify p0 s) := by
  intro p0 s
  unfold execIdentify
  refine ⟨_, rfl, ?_⟩
  refine Keeps.trans ?_ (State.perform_keeps _ _ _ _ _ ?_)
  · exact (Keeps.refl _)
  · intro y0 y1
    try beta_reduce
    refine Keeps.snd ?_
    exact (Keeps.refl _)

theorem execResultRelease_keeps : ∀ p0 s, Good s (@execResultRelease p0 s) := by
  intro p0 s
  unfold execResultRelease
  refine ⟨_, rfl, ?_⟩
  refine Keeps.trans ?_ (State.perform_keeps _ _ _ _ _ ?_)
  · exact (Keeps.refl _)
  · intro y0 y1
    try beta_reduce
    split
    · extract_lets +onlyGivenNames -merge x2
      try clear_value x2
      extract_lets +onlyGivenNames -merge x3
      try clear_value x3
      extract_lets +onlyGivenNames -merge x4
      try clear_value x4
      refine Keeps.iteP (fun (r : Sys2Proof.Machine.Result × Sys2Proof.Machine.State) => r.2) ?_ ?_
      · refine Keeps.snd ?_
        exact Keeps.trans (Keeps.refl _) (State.setRing_keeps _ _ _)
      · refine Keeps.snd ?_
        exact (Keeps.refl _)
    · refine Keeps.snd ?_
      exact (Keeps.refl _)

theorem execRegAccessRead_keeps : ∀ p0 s, Good s (@execRegAccessRead p0 s) := by
  intro p0 s
  unfold execRegAccessRead
  refine ⟨_, rfl, ?_⟩
  refine Keeps.trans ?_ (State.perform_keeps _ _ _ _ _ ?_)
  · exact (Keeps.refl _)
  · intro y0 y1
    try beta_reduce
    extract_lets +onlyGivenNames -merge x2
    try clear_value x2
    refine Keeps.iteP (fun (r : Sys2Proof.Machine.Result × Sys2Proof.Machine.State) => r.2) ?_ ?_
    · refine Keeps.snd ?_
      exact (Keeps.refl _)
    · extract_lets +onlyGivenNames -merge x3
      try clear_value x3
      extract_lets +onlyGivenNames -merge x4
      try clear_value x4
      extract_lets +onlyGivenNames -merge x5
      try clear_value x5
      refine Keeps.iteP (fun (r : Sys2Proof.Machine.Result × Sys2Proof.Machine.State) => r.2) ?_ ?_
      · refine Keeps.snd ?_
        exact (Keeps.refl _)
      · extract_lets +onlyGivenNames -merge x6
        have h7 : Keeps y0 x6.2 := by
          unfold x6
          exact Keeps.trans (Keeps.refl _) (State.readRun_keeps _ _ _ _)
        try clear_value x6
        refine Keeps.snd ?_
        exact h7

theorem execRegAccessWrite_keeps : ∀ p0 s, Good s (@execRegAccessWrite p0 s) := by
  intro p0 s
  unfold execRegAccessWrite
  refine ⟨_, rfl, ?_⟩
  unfold State.perform
  split
  · refine Keeps.ite ?_ ?_
    · extract_lets +onlyGivenNames -merge x0
      have h1 : Keeps s x0.2 := by
        unfold x0
        try beta_reduce
        extract_lets +onlyGivenNames -merge x2
        try clear_value x2
        refine Keeps.iteP (fun (r : Sys2Proof.Machine.Result × Sys2Proof.Machine.State) => r.2) ?_ ?_
        · refine Keeps.snd ?_
          exact (Keeps.refl _)
        · extract_lets +onlyGivenNames -merge x3
          try clear_value x3
          extract_lets +onlyGivenNames -merge x4
          try clear_value x4
          extract_lets +onlyGivenNames -merge x5
          have h6 : Keeps s x5.1 := by
            unfold x5
            try beta_reduce
            exact Keeps.trans (Keeps.refl _) (State.writeReg_keeps _ _ _ _)
          try clear_value x5
          refine Keeps.iteP (fun (r : Sys2Proof.Machine.Result × Sys2Proof.Machine.State) => r.2) ?_ ?_
          · refine Keeps.snd ?_
            exact Keeps.trans (Keeps.refl _) (State.accessFault_keeps _ _ _ _ _)
          · exact h6
      try clear_value x0
      exact Keeps.trans h1 (State.finish_keeps _ _ _)
    · exact (Keeps.refl _)
  · exact (Keeps.refl _)

theorem execThermalRead_keeps : ∀ p0 s, Good s (@execThermalRead p0 s) := by
  intro p0 s
  unfold execThermalRead
  refine ⟨_, rfl, ?_⟩
  refine Keeps.trans ?_ (State.perform_keeps _ _ _ _ _ ?_)
  · exact (Keeps.refl _)
  · intro y0 y1
    try beta_reduce
    refine Keeps.snd ?_
    exact (Keeps.refl _)

end Sys2Proof.Machine
end

