-- ==== Sys2Proof/Laws/Facet.lean ====
section
/-! SUPPORT. What the operations of Machine/Facet.lean keep: the queue of waiting commands and the canonical form of the state
(Keeps); and that its commands answer a next state (Good). -/

namespace Sys2Proof.Machine

theorem State.stageCopy_keeps : ∀ s p1 p2, Keeps s (@State.stageCopy s p1 p2) := by
  intro s p1 p2
  unfold State.stageCopy
  refine Keeps.foldlP (fun (r : Sys2Proof.Machine.State × ℕ) => r.1) ?_ ?_
  · refine Keeps.fst ?_
    exact (Keeps.refl _)
  · intro a0 b1 ht2
    try beta_reduce
    refine Keeps.fst ?_
    exact Keeps.trans ht2 (State.ccWrite_keeps _ _ _ _ _)

theorem State.stagedRead_keeps : ∀ s p1, Keeps s (@State.stagedRead s p1).2.2 := by
  intro s p1
  unfold State.stagedRead
  refine Keeps.foldlP (fun (r : Sys2Proof.Bytes × Option ℕ × Sys2Proof.Machine.State) => r.2.2) ?_ ?_
  · refine Keeps.sndP (fun (r : Option ℕ × Sys2Proof.Machine.State) => r.2) ?_
    refine Keeps.snd ?_
    exact (Keeps.refl _)
  · intro a0 b1 ht2
    try beta_reduce
    extract_lets +onlyGivenNames -merge x3
    have h4 : Keeps s x3.2.2 := by
      unfold x3
      try beta_reduce
      exact Keeps.trans ht2 (State.ccRead_keeps _ _ _ _)
    try clear_value x3
    exact h4

theorem State.putStaged_keeps : ∀ s p1 p2, Keeps s (@State.putStaged s p1 p2) := by
  intro s p1 p2
  unfold State.putStaged
  split
  · exact Keeps.trans (Keeps.refl _) (State.setPart_keeps _ _ _)
  · exact Keeps.trans (Keeps.refl _) ⟨rfl, id, id, id, id⟩

theorem State.facetLoad.go_keeps : ∀ p0 p1 p2 p3 s p5 p6 p7, Keeps s (@State.facetLoad.go p0 p1 p2 p3 s p5 p6 p7).2 := by
  intro p0 p1 p2 p3 s p5 p6 p7
  unfold State.facetLoad.go
  extract_lets +onlyGivenNames -merge x0
  try clear_value x0
  refine Keeps.iteP (fun (r : Sys2Proof.Machine.Result × Sys2Proof.Machine.State) => r.2) ?_ ?_
  · refine Keeps.snd ?_
    exact (Keeps.refl _)
  · extract_lets +onlyGivenNames -merge x1
    have h2 : Keeps s x1 := by
      unfold x1
      try beta_reduce
      exact Keeps.trans (Keeps.refl _) (State.putStaged_keeps _ _ _)
    try clear_value x1
    refine Keeps.iteP (fun (r : Sys2Proof.Machine.Result × Sys2Proof.Machine.State) => r.2) ?_ ?_
    · exact h2
    · extract_lets +onlyGivenNames -merge x3
      try clear_value x3
      extract_lets +onlyGivenNames -merge x4
      try clear_value x4
      refine Keeps.iteP (fun (r : Sys2Proof.Machine.Result × Sys2Proof.Machine.State) => r.2) ?_ ?_
      · exact h2
      · split
        · exact h2
        · refine Keeps.iteP (fun (r : Sys2Proof.Machine.Result × Sys2Proof.Machine.State) => r.2) ?_ ?_
          · exact h2
          · extract_lets +onlyGivenNames -merge x5
            try clear_value x5
            refine Keeps.iteP (fun (r : Sys2Proof.Machine.Result × Sys2Proof.Machine.State) => r.2) ?_ ?_
            · refine Keeps.snd ?_
              exact Keeps.trans h2 (State.stageCopy_keeps _ _ _)
            · extract_lets +onlyGivenNames -merge x6
              have h7 : Keeps s x6.2.2 := by
                unfold x6
                try beta_reduce
                refine Keeps.trans ?_ (State.stagedRead_keeps _ _)
                exact Keeps.trans h2 (State.stageCopy_keeps _ _ _)
              try clear_value x6
              extract_lets +onlyGivenNames -merge x8
              have h9 : Keeps s x8 := by
                unfold x8
                try beta_reduce
                exact h7
              try clear_value x8
              split
              · exact h9
              · refine Keeps.snd ?_
                exact Keeps.trans h9 (State.putStaged_keeps _ _ _)

theorem State.facetLoad_keeps : ∀ s p1 p2 p3 p4 p5, Keeps s (@State.facetLoad s p1 p2 p3 p4 p5).2 := by
  intro s p1 p2 p3 p4 p5
  unfold State.facetLoad
  extract_lets +onlyGivenNames -merge x0
  try clear_value x0
  extract_lets +onlyGivenNames -merge x1
  try clear_value x1
  extract_lets +onlyGivenNames -merge x2
  try clear_value x2
  split
  · refine Keeps.iteP (fun (r : Sys2Proof.Machine.Result × Sys2Proof.Machine.State) => r.2) ?_ ?_
    · refine Keeps.snd ?_
      exact (Keeps.refl _)
    · exact Keeps.trans (Keeps.refl _) (State.facetLoad.go_keeps _ _ _ _ _ _ _ _)
  · exact Keeps.trans (Keeps.refl _) (State.facetLoad.go_keeps _ _ _ _ _ _ _ _)

theorem execFacetLoad_keeps : ∀ p0 p1 p2 p3 s, Good s (@execFacetLoad p0 p1 p2 p3 s) := by
  intro p0 p1 p2 p3 s
  unfold execFacetLoad
  refine ⟨_, rfl, ?_⟩
  refine Keeps.trans ?_ (State.perform_keeps _ _ _ _ _ ?_)
  · exact (Keeps.refl _)
  · intro y0 y1
    try beta_reduce
    exact Keeps.trans (Keeps.refl _) (State.facetLoad_keeps _ _ _ _ _ _)

end Sys2Proof.Machine
end

