-- ==== Sys2Proof/Laws/Load.lean ====
section
/-! SUPPORT. What the operations of Machine/Load.lean keep: the queue of waiting commands and the canonical form of the state
(Keeps); and that its commands answer a next state (Good). -/

namespace Sys2Proof.Machine

theorem State.setBlockNow_keeps : ∀ s p1 p2, Keeps s (@State.setBlockNow s p1 p2) := by
  intro s p1 p2
  unfold State.setBlockNow
  extract_lets +onlyGivenNames -merge x0
  try clear_value x0
  refine Keeps.ite ?_ ?_
  · exact (Keeps.refl _)
  · extract_lets +onlyGivenNames -merge x1
    try clear_value x1
    extract_lets +onlyGivenNames -merge x2
    have h3 : Keeps s x2 := by
      unfold x2
      refine Keeps.ite ?_ ?_
      · refine Keeps.foldl ?_ ?_
        · exact (Keeps.refl _)
        · intro a5 b6 ht4
          try beta_reduce
          exact Keeps.trans ht4 (State.zeroCore_keeps _ _)
      · exact (Keeps.refl _)
    try clear_value x2
    extract_lets +onlyGivenNames -merge x7
    have h8 : Keeps s x7 := by
      unfold x7
      refine Keeps.ite ?_ ?_
      · exact Keeps.trans h3 (State.countField_keeps _ _ _ _ _)
      · exact h3
    try clear_value x7
    extract_lets +onlyGivenNames -merge x9
    try clear_value x9
    extract_lets +onlyGivenNames -merge x10
    have h11 : Keeps s x10 := by
      unfold x10
      exact Keeps.trans h8 ⟨rfl, id, id, id, id⟩
    try clear_value x10
    exact Keeps.trans h11 (State.setBlock_keeps _ _ _)

theorem State.setBlocksNow_keeps : ∀ s p1 p2, Keeps s (@State.setBlocksNow s p1 p2) := by
  intro s p1 p2
  unfold State.setBlocksNow
  refine Keeps.foldl ?_ ?_
  · exact (Keeps.refl _)
  · intro a1 b2 ht0
    try beta_reduce
    exact Keeps.trans ht0 (State.setBlockNow_keeps _ _ _)

theorem State.dropMailbox_keeps : ∀ s p1, Keeps s (@State.dropMailbox s p1) := by
  intro s p1
  unfold State.dropMailbox
  extract_lets +onlyGivenNames -merge x0
  have h1 : Keeps s x0 := by
    unfold x0
    exact Keeps.trans (Keeps.refl _) (State.cFlush_keeps _ _ _)
  try clear_value x0
  exact Keeps.trans h1 (State.setClove_keeps _ _ _)

theorem State.cloveInstall_keeps : ∀ s p1 p2 p3 p4 p5 p6, Keeps s (@State.cloveInstall s p1 p2 p3 p4 p5 p6) := by
  intro s p1 p2 p3 p4 p5 p6
  unfold State.cloveInstall
  extract_lets +onlyGivenNames -merge x0
  try clear_value x0
  extract_lets +onlyGivenNames -merge x1
  try clear_value x1
  extract_lets +onlyGivenNames -merge x2
  have h3 : Keeps s x2 := by
    unfold x2
    refine Keeps.ite ?_ ?_
    · exact (Keeps.refl _)
    · exact Keeps.trans (Keeps.refl _) (State.dropMailbox_keeps _ _)
  try clear_value x2
  extract_lets +onlyGivenNames -merge x4
  try clear_value x4
  extract_lets +onlyGivenNames -merge x5
  try clear_value x5
  extract_lets +onlyGivenNames -merge x6
  try clear_value x6
  extract_lets +onlyGivenNames -merge x7
  try clear_value x7
  extract_lets +onlyGivenNames -merge x8
  have h9 : Keeps s x8 := by
    unfold x8
    exact Keeps.trans h3 (State.setClove_keeps _ _ _)
  try clear_value x8
  extract_lets +onlyGivenNames -merge x10
  have h11 : Keeps s x10 := by
    unfold x10
    refine Keeps.trans ?_ (State.setCcsr_keeps _ _ _ _)
    · exact Keeps.trans h9 (State.setCcsr_keeps _ _ _ _)
  try clear_value x10
  refine Keeps.ite ?_ ?_
  · exact h11
  · extract_lets +onlyGivenNames -merge x12 x13
    try clear_value x12
    have h14 : Keeps s x13 := by
      unfold x13
      exact Keeps.trans h11 (State.setClove_keeps _ _ _)
    try clear_value x13
    exact Keeps.trans h14 (State.mboxWrite_keeps _ _ _ _)

theorem State.cloveIdle_keeps : ∀ s p1, Keeps s (@State.cloveIdle s p1) := by
  intro s p1
  unfold State.cloveIdle
  extract_lets +onlyGivenNames -merge x0
  try clear_value x0
  exact Keeps.trans (Keeps.refl _) (State.setClove_keeps _ _ _)

theorem State.putUnits_keeps : ∀ s p1 p2 p3, Keeps s (@State.putUnits s p1 p2 p3) := by
  intro s p1 p2 p3
  exact Keeps.withMem (Keeps.refl s) (Mem.foldl_wf (fun _ _ h => Mem.writeUnit_wf _ _ _ h))

theorem State.partReadBy_keeps : ∀ p0 s p1 p2 p3, (∀ y0 y1 y2, Keeps y0 (p0 y0 y1 y2).2.2) →
    Keeps s (@State.partReadBy p0 s p1 p2 p3).2.2 := by
  intro p0 s p1 p2 p3 hr
  unfold State.partReadBy
  refine Keeps.foldlP (fun (r : Bytes × Nat × State) => r.2.2) (Keeps.refl s) ?_
  intro a i ha
  beta_reduce
  extract_lets +onlyGivenNames -merge lo hi
  clear_value lo hi
  split
  · exact Keeps.trans ha (hr _ _ _)
  · exact ha

theorem State.partRead_keeps : ∀ s p1 p2 p3, Keeps s (@State.partRead s p1 p2 p3).2.2 := by
  intro s p1 p2 p3
  exact State.partReadBy_keeps _ _ _ _ _ (fun _ _ _ => State.ccRead_keeps _ _ _ _)

theorem State.loaderRead_keeps : ∀ s p1 p2 p3, Keeps s (@State.loaderRead s p1 p2 p3).2.2 := by
  intro s p1 p2 p3
  exact State.partReadBy_keeps _ _ _ _ _ (fun _ _ _ => State.devRead_keeps _ _ _)

theorem State.partWrite_keeps : ∀ s p1 p2 p3, Keeps s (@State.partWrite s p1 p2 p3) := by
  intro s p1 p2 p3
  unfold State.partWrite
  refine Keeps.foldl ?_ ?_
  · exact (Keeps.refl _)
  · intro a1 b2 ht0
    try beta_reduce
    extract_lets +onlyGivenNames -merge x3
    try clear_value x3
    extract_lets +onlyGivenNames -merge x4
    try clear_value x4
    split
    · exact Keeps.trans ht0 (State.ccWrite_keeps _ _ _ _ _)
    · exact ht0

theorem State.placeOne_keeps : ∀ s p1 p2 p3, Keeps s (@State.placeOne s p1 p2 p3).2 := by
  intro s p1 p2 p3
  unfold State.placeOne
  extract_lets +onlyGivenNames -merge x0
  try clear_value x0
  refine Keeps.iteP (fun (r : Bool × Sys2Proof.Machine.State) => r.2) ?_ ?_
  · refine Keeps.foldlP (fun (r : Bool × Sys2Proof.Machine.State) => r.2) ?_ ?_
    · refine Keeps.snd ?_
      exact (Keeps.refl _)
    · intro a1 b2 ht3
      try beta_reduce
      extract_lets +onlyGivenNames -merge x4
      try clear_value x4
      refine Keeps.iteP (fun (r : Bool × Sys2Proof.Machine.State) => r.2) ?_ ?_
      · extract_lets +onlyGivenNames -merge x5
        have h6 : Keeps s x5.2.2 := by
          unfold x5
          try beta_reduce
          exact Keeps.trans ht3 (State.loaderRead_keeps _ _ _ _)
        try clear_value x5
        refine Keeps.snd ?_
        exact Keeps.trans h6 (State.putUnits_keeps _ _ _ _)
      · refine Keeps.snd ?_
        exact Keeps.trans ht3 (State.putUnits_keeps _ _ _ _)
  · refine Keeps.snd ?_
    exact Keeps.trans (Keeps.refl _) (State.partWrite_keeps _ _ _ _)

theorem State.placeAll_keeps : ∀ s p1 p2, Keeps s (@State.placeAll s p1 p2).2 := by
  intro s p1 p2
  unfold State.placeAll
  refine Keeps.foldlP (fun (r : Option ℕ × Sys2Proof.Machine.State) => r.2) ?_ ?_
  · refine Keeps.snd ?_
    exact (Keeps.refl _)
  · intro a0 b1 ht2
    try beta_reduce
    extract_lets +onlyGivenNames -merge x3
    have h4 : Keeps s x3.2 := by
      unfold x3
      try beta_reduce
      exact Keeps.trans ht2 (State.placeOne_keeps _ _ _ _)
    try clear_value x3
    exact h4

theorem State.sliceRead_keeps : ∀ s p1 p2 p3, Keeps s (@State.sliceRead s p1 p2 p3).2.2 := by
  intro s p1 p2 p3
  unfold State.sliceRead
  refine Keeps.foldlP (fun (r : Sys2Proof.Bytes × Bool × Sys2Proof.Machine.State) => r.2.2) ?_ ?_
  · refine Keeps.sndP (fun (r : Bool × Sys2Proof.Machine.State) => r.2) ?_
    refine Keeps.snd ?_
    exact (Keeps.refl _)
  · intro a1 b2 ht0
    try beta_reduce
    extract_lets +onlyGivenNames -merge x3
    have h4 : Keeps s x3.2.2 := by
      unfold x3
      exact Keeps.trans ht0 (State.readBeat_keeps _ _ _)
    try clear_value x3
    extract_lets +onlyGivenNames -merge x5
    try clear_value x5
    extract_lets +onlyGivenNames -merge x6
    try clear_value x6
    refine Keeps.sndP (fun (r : Bool × Sys2Proof.Machine.State) => r.2) ?_
    refine Keeps.snd ?_
    exact h4

theorem State.measure_keeps : ∀ s p1 p2, Keeps s (@State.measure s p1 p2).2.2 := by
  intro s p1 p2
  unfold State.measure
  extract_lets +onlyGivenNames -merge x0
  try clear_value x0
  extract_lets +onlyGivenNames -merge x1
  have h2 : Keeps s x1.2.2 := by
    unfold x1
    try beta_reduce
    refine Keeps.foldlP (fun (r : Sys2Proof.Bytes × Bool × Sys2Proof.Machine.State) => r.2.2) ?_ ?_
    · refine Keeps.sndP (fun (r : Bool × Sys2Proof.Machine.State) => r.2) ?_
      refine Keeps.snd ?_
      exact (Keeps.refl _)
    · intro a3 b4 ht5
      try beta_reduce
      refine Keeps.iteP (fun (r : Sys2Proof.Bytes × Bool × Sys2Proof.Machine.State) => r.2.2) ?_ ?_
      · extract_lets +onlyGivenNames -merge x6
        have h7 : Keeps s x6.2.2 := by
          unfold x6
          try beta_reduce
          exact Keeps.trans ht5 (State.sliceRead_keeps _ _ _ _)
        try clear_value x6
        exact h7
      · extract_lets +onlyGivenNames -merge x8
        have h9 : Keeps s x8.2.2 := by
          unfold x8
          try beta_reduce
          exact Keeps.trans ht5 (State.loaderRead_keeps _ _ _ _)
        try clear_value x8
        exact h9
  try clear_value x1
  exact h2

theorem State.measureAll_keeps : ∀ s p1 p2 p3 p4, Keeps s (@State.measureAll s p1 p2 p3 p4).2.2 := by
  intro s p1 p2 p3 p4
  unfold State.measureAll
  extract_lets +onlyGivenNames -merge x0
  have h1 : Keeps s x0.2.2 := by
    unfold x0
    refine Keeps.foldlP (fun (r : Option Sys2Proof.Machine.Rej × Sys2Proof.Bytes × Sys2Proof.Machine.State) => r.2.2) ?_ ?_
    · refine Keeps.sndP (fun (r : Sys2Proof.Bytes × Sys2Proof.Machine.State) => r.2) ?_
      refine Keeps.snd ?_
      exact (Keeps.refl _)
    · intro a3 b4 ht2
      try beta_reduce
      split
      · exact ht2
      · extract_lets +onlyGivenNames -merge x5
        have h6 : Keeps s x5.2.2 := by
          unfold x5
          exact Keeps.trans ht2 (State.measure_keeps _ _ _)
        try clear_value x5
        extract_lets +onlyGivenNames -merge x7
        try clear_value x7
        refine Keeps.sndP (fun (r : Sys2Proof.Bytes × Sys2Proof.Machine.State) => r.2) ?_
        refine Keeps.snd ?_
        exact h6
  try clear_value x0
  refine Keeps.sndP (fun (r : Nat × Sys2Proof.Machine.State) => r.2) ?_
  refine Keeps.snd ?_
  exact h1

theorem State.startCore_keeps : ∀ s p1 p2, Keeps s (@State.startCore s p1 p2) := by
  intro s p1 p2
  unfold State.startCore
  extract_lets +onlyGivenNames -merge x0
  try clear_value x0
  extract_lets +onlyGivenNames -merge x1
  try clear_value x1
  extract_lets +onlyGivenNames -merge x2
  try clear_value x2
  extract_lets +onlyGivenNames -merge x3
  try clear_value x3
  extract_lets +onlyGivenNames -merge x4
  try clear_value x4
  exact Keeps.trans (Keeps.refl _) (State.setCore_keeps _ _ _)

theorem State.configPart_keeps : ∀ s p1 p2, Keeps s (@State.configPart s p1 p2) := by
  intro s p1 p2
  unfold State.configPart
  extract_lets +onlyGivenNames -merge x0
  have h1 : Keeps s x0 := by
    unfold x0
    try beta_reduce
    refine Keeps.foldl ?_ ?_
    · exact (Keeps.refl _)
    · intro a2 b3 ht4
      try beta_reduce
      exact Keeps.trans ht4 (State.startCore_keeps _ _ _)
  try clear_value x0
  extract_lets +onlyGivenNames -merge x5
  try clear_value x5
  extract_lets +onlyGivenNames -merge x6
  have h7 : Keeps s x6 := by
    unfold x6
    try beta_reduce
    refine Keeps.foldl ?_ ?_
    · exact h1
    · intro a8 b9 ht10
      try beta_reduce
      exact Keeps.trans ht10 (State.setEngine_keeps _ _ _)
  try clear_value x6
  refine Keeps.foldl ?_ ?_
  · exact h7
  · intro a11 b12 ht13
    try beta_reduce
    exact Keeps.trans ht13 (State.setColl_keeps _ _ _)

theorem State.resetCore_keeps : ∀ s p1 p2, Keeps s (@State.resetCore s p1 p2) := by
  intro s p1 p2
  unfold State.resetCore
  extract_lets +onlyGivenNames -merge x0
  try clear_value x0
  extract_lets +onlyGivenNames -merge x1
  try clear_value x1
  extract_lets +onlyGivenNames -merge x2
  try clear_value x2
  extract_lets +onlyGivenNames -merge x3
  try clear_value x3
  extract_lets +onlyGivenNames -merge x4
  have h5 : Keeps s x4 := by
    unfold x4
    try beta_reduce
    refine Keeps.foldl ?_ ?_
    · exact (Keeps.refl _)
    · intro a6 b7 ht8
      try beta_reduce
      exact Keeps.trans ht8 (State.setReg_keeps _ _ _)
  try clear_value x4
  refine Keeps.trans ?_ (State.setRouter_keeps _ _ _)
  exact Keeps.trans h5 (State.setCore_keeps _ _ _)

theorem State.clearPart_keeps : ∀ s p1 p2, Keeps s (@State.clearPart s p1 p2) := by
  intro s p1 p2
  unfold State.clearPart
  extract_lets +onlyGivenNames -merge x0
  have h1 : Keeps s x0 := by
    unfold x0
    try beta_reduce
    refine Keeps.foldl ?_ ?_
    · exact (Keeps.refl _)
    · intro a2 b3 ht4
      try beta_reduce
      exact Keeps.trans ht4 (State.resetCore_keeps _ _ _)
  try clear_value x0
  extract_lets +onlyGivenNames -merge x5
  have h6 : Keeps s x5 := by
    unfold x5
    try beta_reduce
    exact Keeps.trans h1 (State.setField_keeps _ _ _ _ _)
  try clear_value x5
  extract_lets +onlyGivenNames -merge x7
  have h8 : Keeps s x7 := by
    unfold x7
    try beta_reduce
    refine Keeps.foldl ?_ ?_
    · exact h6
    · intro a9 b10 ht11
      try beta_reduce
      exact Keeps.trans ht11 (State.setAtt_keeps _ _ _)
  try clear_value x7
  extract_lets +onlyGivenNames -merge x12
  have h13 : Keeps s x12 := by
    unfold x12
    try beta_reduce
    refine Keeps.foldl ?_ ?_
    · exact h8
    · intro a14 b15 ht16
      try beta_reduce
      extract_lets +onlyGivenNames -merge x17
      try clear_value x17
      exact Keeps.trans ht16 (State.setXing_keeps _ _ _)
  try clear_value x12
  extract_lets +onlyGivenNames -merge x18
  try clear_value x18
  extract_lets +onlyGivenNames -merge x19
  have h20 : Keeps s x19 := by
    unfold x19
    try beta_reduce
    refine Keeps.foldl ?_ ?_
    · exact h13
    · intro a21 b22 ht23
      try beta_reduce
      extract_lets +onlyGivenNames -merge x24
      try clear_value x24
      refine Keeps.trans ?_ (State.setReg_keeps _ _ _)
      exact Keeps.trans ht23 (State.setEngine_keeps _ _ _)
  try clear_value x19
  extract_lets +onlyGivenNames -merge x25
  try clear_value x25
  extract_lets +onlyGivenNames -merge x26
  have h27 : Keeps s x26 := by
    unfold x26
    try beta_reduce
    refine Keeps.foldl ?_ ?_
    · exact h20
    · intro a28 b29 ht30
      try beta_reduce
      extract_lets +onlyGivenNames -merge x31
      try clear_value x31
      refine Keeps.trans ?_ (State.setReg_keeps _ _ _)
      exact Keeps.trans ht30 (State.setColl_keeps _ _ _)
  try clear_value x26
  extract_lets +onlyGivenNames -merge x32
  have h33 : Keeps s x32 := by
    unfold x32
    try beta_reduce
    refine Keeps.foldl ?_ ?_
    · exact h27
    · intro a34 b35 ht36
      try beta_reduce
      exact Keeps.trans ht36 (State.setSlice_keeps _ _ _)
  try clear_value x32
  exact Keeps.trans h33 (State.setPart_keeps _ _ _)

theorem State.connect_keeps : ∀ s p1 p2, Keeps s (@State.connect s p1 p2) := by
  intro s p1 p2
  unfold State.connect
  extract_lets +onlyGivenNames -merge x0
  have h1 : Keeps s x0 := by
    unfold x0
    exact Keeps.trans (Keeps.refl _) ⟨rfl, id, id, id, id⟩
  try clear_value x0
  refine Keeps.foldl ?_ ?_
  · exact h1
  · intro a3 b4 ht2
    try beta_reduce
    refine Keeps.foldl ?_ ?_
    · exact ht2
    · intro a6 b7 ht5
      try beta_reduce
      refine Keeps.ite ?_ ?_
      · exact ht5
      · exact Keeps.trans ht5 ⟨rfl, id, id, id, id⟩

theorem State.joinGroup_keeps : ∀ s p1 p2, Keeps s (@State.joinGroup s p1 p2) := by
  intro s p1 p2
  unfold State.joinGroup
  extract_lets +onlyGivenNames -merge x0
  try clear_value x0
  extract_lets +onlyGivenNames -merge x1
  try clear_value x1
  exact Keeps.trans (Keeps.refl _) (State.setReg_keeps _ _ _)

theorem State.zeroPart_keeps : ∀ s p1, Keeps s (@State.zeroPart s p1) := by
  intro s p1
  unfold State.zeroPart
  refine Keeps.foldl ?_ ?_
  · exact (Keeps.refl _)
  · intro a1 b2 ht0
    try beta_reduce
    refine Keeps.trans ?_ (State.zeroSlice_keeps _ _)
    · exact Keeps.trans ht0 (State.zeroCore_keeps _ _)

theorem State.rollback_keeps : ∀ s p1, Keeps s (@State.rollback s p1) := by
  intro s p1
  unfold State.rollback
  extract_lets +onlyGivenNames -merge x0
  have h1 : Keeps s x0 := by
    unfold x0
    try beta_reduce
    exact Keeps.trans (Keeps.refl _) (State.zeroPart_keeps _ _)
  try clear_value x0
  extract_lets +onlyGivenNames -merge x2
  have h3 : Keeps s x2 := by
    unfold x2
    try beta_reduce
    refine Keeps.foldl ?_ ?_
    · exact h1
    · intro a4 b5 ht6
      try beta_reduce
      exact Keeps.trans ht6 (State.cloveIdle_keeps _ _)
  try clear_value x2
  extract_lets +onlyGivenNames -merge x7
  try clear_value x7
  extract_lets +onlyGivenNames -merge x8
  have h9 : Keeps s x8 := by
    unfold x8
    try beta_reduce
    exact Keeps.trans h3 (State.setPart_keeps _ _ _)
  try clear_value x8
  extract_lets +onlyGivenNames -merge x10
  have h11 : Keeps s x10 := by
    unfold x10
    try beta_reduce
    refine Keeps.trans ?_ (State.joinGroup_keeps _ _ _)
    refine Keeps.trans ?_ (State.connect_keeps _ _ _)
    exact Keeps.trans h9 (State.configPart_keeps _ _ _)
  try clear_value x10
  exact Keeps.trans h11 (State.setBlocksNow_keeps _ _ _)

theorem State.loadCloves_keeps : ∀ s p1 p2, Keeps s (@State.loadCloves s p1 p2).2 := by
  intro s p1 p2
  unfold State.loadCloves
  extract_lets +onlyGivenNames -merge x0
  have h1 : Keeps s x0 := by
    unfold x0
    try beta_reduce
    refine Keeps.foldl ?_ ?_
    · exact (Keeps.refl _)
    · intro a2 b3 ht4
      try beta_reduce
      refine Keeps.trans ?_ (State.cloveIdle_keeps _ _)
      exact Keeps.trans ht4 (State.dropMailbox_keeps _ _)
  try clear_value x0
  refine Keeps.foldlP (fun (r : Option Sys2Proof.Machine.CloveRec × Sys2Proof.Machine.State) => r.2) ?_ ?_
  · exact h1
  · intro a5 b6 ht7
    try beta_reduce
    refine Keeps.iteP (fun (r : Option Sys2Proof.Machine.CloveRec × Sys2Proof.Machine.State) => r.2) ?_ ?_
    · exact ht7
    · extract_lets +onlyGivenNames -merge x8
      try clear_value x8
      refine Keeps.iteP (fun (r : Option Sys2Proof.Machine.CloveRec × Sys2Proof.Machine.State) => r.2) ?_ ?_
      · exact ht7
      · refine Keeps.snd ?_
        exact Keeps.trans ht7 (State.cloveInstall_keeps _ _ _ _ _ _ _)

theorem State.reread_keeps : ∀ s p1 p2 p3, Keeps s (@State.reread s p1 p2 p3).2 := by
  intro s p1 p2 p3
  unfold State.reread
  extract_lets +onlyGivenNames -merge x0
  have h1 : Keeps s x0.2.2 := by
    unfold x0
    try beta_reduce
    exact Keeps.trans (Keeps.refl _) (State.stagedRead_keeps _ _)
  try clear_value x0
  exact h1

theorem State.activate_keeps : ∀ s p1 p2 p3 p4 p5, Keeps s (@State.activate s p1 p2 p3 p4 p5).2 := by
  intro s p1 p2 p3 p4 p5
  unfold State.activate
  extract_lets +onlyGivenNames -merge x0
  try clear_value x0
  extract_lets +onlyGivenNames -merge x1
  try clear_value x1
  extract_lets +onlyGivenNames -merge x2
  have h5 : ∀ y3 y4, Keeps y3 (x2 y3 y4).2 := by
    intro y3 y4
    unfold x2
    try beta_reduce
    refine Keeps.snd ?_
    exact Keeps.trans (Keeps.refl _) (State.rollback_keeps _ _)
  try clear_value x2
  extract_lets +onlyGivenNames -merge x6
  have h7 : Keeps s x6 := by
    unfold x6
    try beta_reduce
    refine Keeps.trans ?_ (State.zeroPart_keeps _ _)
    exact Keeps.trans (Keeps.refl _) (State.setBlocksNow_keeps _ _ _)
  try clear_value x6
  extract_lets +onlyGivenNames -merge x8
  try clear_value x8
  extract_lets +onlyGivenNames -merge x9
  have h10 : Keeps s x9 := by
    unfold x9
    try beta_reduce
    exact Keeps.trans h7 (State.setPart_keeps _ _ _)
  try clear_value x9
  extract_lets +onlyGivenNames -merge x11
  have h12 : Keeps s x11.2 := by
    unfold x11
    try beta_reduce
    exact Keeps.trans h10 (State.reread_keeps _ _ _ _)
  try clear_value x11
  extract_lets +onlyGivenNames -merge x13
  have h14 : Keeps s x13 := by
    unfold x13
    try beta_reduce
    exact h12
  try clear_value x13
  split
  · exact Keeps.trans h14 (h5 _ _)
  · extract_lets +onlyGivenNames -merge x15
    have h16 : Keeps s x15.2 := by
      unfold x15
      try beta_reduce
      exact Keeps.trans h14 (State.placeAll_keeps _ _ _)
    try clear_value x15
    extract_lets +onlyGivenNames -merge x17
    have h18 : Keeps s x17 := by
      unfold x17
      try beta_reduce
      exact h16
    try clear_value x17
    split
    · exact Keeps.trans h18 (h5 _ _)
    · extract_lets +onlyGivenNames -merge x19
      have h20 : Keeps s x19 := by
        unfold x19
        try beta_reduce
        refine Keeps.trans ?_ (State.joinGroup_keeps _ _ _)
        refine Keeps.trans ?_ (State.connect_keeps _ _ _)
        exact Keeps.trans h18 (State.configPart_keeps _ _ _)
      try clear_value x19
      extract_lets +onlyGivenNames -merge x21
      have h22 : Keeps s x21.2 := by
        unfold x21
        try beta_reduce
        exact Keeps.trans h20 (State.loadCloves_keeps _ _ _)
      try clear_value x21
      extract_lets +onlyGivenNames -merge x23
      have h24 : Keeps s x23 := by
        unfold x23
        try beta_reduce
        exact h22
      try clear_value x23
      split
      · exact Keeps.trans h24 (h5 _ _)
      · extract_lets +onlyGivenNames -merge x25
        try clear_value x25
        extract_lets +onlyGivenNames -merge x26
        have h27 : Keeps s x26.2.2 := by
          unfold x26
          try beta_reduce
          exact Keeps.trans h24 (State.measureAll_keeps _ _ _ _ _)
        try clear_value x26
        extract_lets +onlyGivenNames -merge x28
        have h29 : Keeps s x28 := by
          unfold x28
          try beta_reduce
          exact h27
        try clear_value x28
        split
        · exact Keeps.trans h29 (h5 _ _)
        · extract_lets +onlyGivenNames -merge x30
          have h31 : Keeps s x30 := by
            unfold x30
            try beta_reduce
            exact Keeps.trans h29 (State.clearPart_keeps _ _ _)
          try clear_value x30
          extract_lets +onlyGivenNames -merge x32
          try clear_value x32
          extract_lets +onlyGivenNames -merge x33
          have h34 : Keeps s x33 := by
            unfold x33
            try beta_reduce
            exact Keeps.trans h31 (State.setPart_keeps _ _ _)
          try clear_value x33
          extract_lets +onlyGivenNames -merge x35
          have h36 : Keeps s x35 := by
            unfold x35
            try beta_reduce
            refine Keeps.trans ?_ (State.announceAll_keeps _ _ _)
            exact Keeps.trans h34 (State.setBlocksNow_keeps _ _ _)
          try clear_value x35
          exact h36

theorem execFacetActivate_keeps : ∀ p0 p1 p2 s, Good s (@execFacetActivate p0 p1 p2 s) := by
  intro p0 p1 p2 s
  unfold execFacetActivate
  split
  · refine ⟨_, rfl, ?_⟩
    exact (Keeps.refl _)
  · split
    · refine ⟨_, rfl, ?_⟩
      exact (Keeps.refl _)
    · extract_lets +onlyGivenNames -merge x0
      try clear_value x0
      refine Good.ite ?_ ?_
      · refine ⟨_, rfl, ?_⟩
        exact (Keeps.refl _)
      · refine ⟨_, rfl, ?_⟩
        unfold State.perform
        split
        · refine Keeps.ite ?_ ?_
          · extract_lets +onlyGivenNames -merge x1
            have h2 : Keeps s x1.2 := by
              unfold x1
              try beta_reduce
              refine Keeps.iteP (fun (r : Sys2Proof.Machine.Result × Sys2Proof.Machine.State) => r.2) ?_ ?_
              · refine Keeps.snd ?_
                exact (Keeps.refl _)
              · refine Keeps.iteP (fun (r : Sys2Proof.Machine.Result × Sys2Proof.Machine.State) => r.2) ?_ ?_
                · refine Keeps.snd ?_
                  exact Keeps.trans (Keeps.refl _) (State.putStaged_keeps _ _ _)
                · split
                  · refine Keeps.snd ?_
                    exact (Keeps.refl _)
                  · refine Keeps.iteP (fun (r : Sys2Proof.Machine.Result × Sys2Proof.Machine.State) => r.2) ?_ ?_
                    · refine Keeps.snd ?_
                      exact Keeps.trans (Keeps.refl _) (State.putStaged_keeps _ _ _)
                    · exact Keeps.trans (Keeps.refl _) (State.activate_keeps _ _ _ _ _ _)
            try clear_value x1
            exact Keeps.trans h2 (State.finish_keeps _ _ _)
          · exact (Keeps.refl _)
        · exact (Keeps.refl _)

theorem State.zeroHbm_keeps : ∀ s p1 p2, Keeps s (@State.zeroHbm s p1 p2) := by
  intro s p1 p2
  unfold State.zeroHbm
  refine Keeps.trans ?_ (State.invalidate_keeps _ _ _)
  · refine Keeps.trans (Keeps.refl _) (Keeps.mk rfl ?_ ?_ ?_ ?_) <;> intro hh <;>
      (first | exact hh | exact Mem.writeUnit_wf _ _ _ hh | exact Mem.zero_wf _ _ hh | exact regsForm_filter _ hh
             | exact SMap.wf_clear _ _ hh | exact SMap.wf_set _ _ hh | exact regsForm_set _ _ hh | exact Mem.empty_wf | rfl
             | exact SMap.wf_clear _ _ (SMap.wf_clear _ _ hh) | exact regsForm_clear _ _ (regsForm_clear _ _ hh))

theorem execFacetActivateDevice_keeps : ∀ p0 p1 p2 s, Good s (@execFacetActivateDevice p0 p1 p2 s) := by
  intro p0 p1 p2 s
  unfold execFacetActivateDevice
  refine ⟨_, rfl, ?_⟩
  unfold State.perform
  split
  · refine Keeps.ite ?_ ?_
    · extract_lets +onlyGivenNames -merge x0
      have h1 : Keeps s x0.2 := by
        unfold x0
        try beta_reduce
        refine Keeps.iteP (fun (r : Sys2Proof.Machine.Result × Sys2Proof.Machine.State) => r.2) ?_ ?_
        · refine Keeps.snd ?_
          exact (Keeps.refl _)
        · split
          · refine Keeps.snd ?_
            exact (Keeps.refl _)
          · extract_lets +onlyGivenNames -merge x2
            try clear_value x2
            extract_lets +onlyGivenNames -merge x3
            try clear_value x3
            refine Keeps.iteP (fun (r : Sys2Proof.Machine.Result × Sys2Proof.Machine.State) => r.2) ?_ ?_
            · refine Keeps.snd ?_
              exact (Keeps.refl _)
            · extract_lets +onlyGivenNames -merge x4
              have h5 : Keeps s x4.2 := by
                unfold x4
                try beta_reduce
                refine Keeps.trans ?_ (State.reread_keeps _ _ _ _)
                exact Keeps.trans (Keeps.refl _) (State.putStaged_keeps _ _ _)
              try clear_value x4
              extract_lets +onlyGivenNames -merge x6
              have h7 : Keeps s x6 := by
                unfold x6
                try beta_reduce
                exact h5
              try clear_value x6
              split
              · exact h7
              · extract_lets +onlyGivenNames -merge x8
                try clear_value x8
                extract_lets +onlyGivenNames -merge x9
                try clear_value x9
                extract_lets +onlyGivenNames -merge x10
                have h11 : Keeps s x10 := by
                  unfold x10
                  try beta_reduce
                  refine Keeps.foldl ?_ ?_
                  · exact h7
                  · intro a12 b13 ht14
                    try beta_reduce
                    refine Keeps.ite ?_ ?_
                    · exact ht14
                    · exact Keeps.trans ht14 (State.putStaged_keeps _ _ _)
                try clear_value x10
                extract_lets +onlyGivenNames -merge x15
                try clear_value x15
                extract_lets +onlyGivenNames -merge x16
                have h17 : Keeps s x16 := by
                  unfold x16
                  try beta_reduce
                  exact Keeps.trans h11 ⟨rfl, id, id, id, id⟩
                try clear_value x16
                extract_lets +onlyGivenNames -merge x18
                have h19 : Keeps s x18 := by
                  unfold x18
                  try beta_reduce
                  refine Keeps.ite ?_ ?_
                  · exact Keeps.trans h17 (State.zeroHbm_keeps _ _ _)
                  · exact h17
                try clear_value x18
                exact h19
      try clear_value x0
      exact Keeps.trans h1 (State.finish_keeps _ _ _)
    · exact (Keeps.refl _)
  · exact (Keeps.refl _)

theorem execCloveLoad_keeps : ∀ p0 p1 p2 s, Good s (@execCloveLoad p0 p1 p2 s) := by
  intro p0 p1 p2 s
  unfold execCloveLoad
  split
  · refine ⟨_, rfl, ?_⟩
    exact (Keeps.refl _)
  · extract_lets +onlyGivenNames -merge x0
    try clear_value x0
    extract_lets +onlyGivenNames -merge x1
    try clear_value x1
    extract_lets +onlyGivenNames -merge x2
    try clear_value x2
    extract_lets +onlyGivenNames -merge x3
    try clear_value x3
    refine Good.ite ?_ ?_
    · refine ⟨_, rfl, ?_⟩
      exact (Keeps.refl _)
    · refine Good.ite ?_ ?_
      · refine ⟨_, rfl, ?_⟩
        exact (Keeps.refl _)
      · refine ⟨_, rfl, ?_⟩
        unfold State.perform
        split
        · refine Keeps.ite ?_ ?_
          · extract_lets +onlyGivenNames -merge x4
            try clear_value x4
            extract_lets +onlyGivenNames -merge x5
            try clear_value x5
            extract_lets +onlyGivenNames -merge x6
            try clear_value x6
            extract_lets +onlyGivenNames -merge x7
            try clear_value x7
            extract_lets +onlyGivenNames -merge x8
            have h9 : Keeps s x8.2 := by
              unfold x8
              try beta_reduce
              extract_lets +onlyGivenNames -merge x10
              have h12 : ∀ y11, Keeps s (x10 y11).2 := by
                intro y11
                unfold x10
                try beta_reduce
                refine Keeps.snd ?_
                refine Keeps.ite ?_ ?_
                · exact Keeps.trans (Keeps.refl _) (State.cFlush_keeps _ _ _)
                · exact (Keeps.refl _)
              try clear_value x10
              refine Keeps.iteP (fun (r : Sys2Proof.Machine.Result × Sys2Proof.Machine.State) => r.2) ?_ ?_
              · exact Keeps.trans (Keeps.refl _) (h12 _)
              · refine Keeps.iteP (fun (r : Sys2Proof.Machine.Result × Sys2Proof.Machine.State) => r.2) ?_ ?_
                · exact Keeps.trans (Keeps.refl _) (h12 _)
                · refine Keeps.iteP (fun (r : Sys2Proof.Machine.Result × Sys2Proof.Machine.State) => r.2) ?_ ?_
                  · exact Keeps.trans (Keeps.refl _) (h12 _)
                  · refine Keeps.iteP (fun (r : Sys2Proof.Machine.Result × Sys2Proof.Machine.State) => r.2) ?_ ?_
                    · refine Keeps.snd ?_
                      exact Keeps.trans (Keeps.refl _) (State.cloveInstall_keeps _ _ _ _ _ _ _)
                    · refine Keeps.iteP (fun (r : Sys2Proof.Machine.Result × Sys2Proof.Machine.State) => r.2) ?_ ?_
                      · exact Keeps.trans (Keeps.refl _) (h12 _)
                      · refine Keeps.iteP (fun (r : Sys2Proof.Machine.Result × Sys2Proof.Machine.State) => r.2) ?_ ?_
                        · exact Keeps.trans (Keeps.refl _) (h12 _)
                        · refine Keeps.iteP (fun (r : Sys2Proof.Machine.Result × Sys2Proof.Machine.State) => r.2) ?_ ?_
                          · exact Keeps.trans (Keeps.refl _) (h12 _)
                          · refine Keeps.snd ?_
                            exact Keeps.trans (Keeps.refl _) (State.cloveInstall_keeps _ _ _ _ _ _ _)
            try clear_value x8
            exact Keeps.trans h9 (State.finish_keeps _ _ _)
          · exact (Keeps.refl _)
        · exact (Keeps.refl _)

end Sys2Proof.Machine
end

