-- ==== Sys2Proof/Laws/Run.lean ====
section
/-! SUPPORT. What the operations of Machine/Run.lean keep: the queue of waiting commands and the canonical form of the state
(Keeps); and that its commands answer a next state (Good). -/

namespace Sys2Proof.Machine

theorem State.coreCopy_keeps : ∀ s p1 p2, Keeps s (@State.coreCopy s p1 p2).2 := by
  intro s p1 p2
  unfold State.coreCopy
  extract_lets +onlyGivenNames -merge x0
  try clear_value x0
  extract_lets +onlyGivenNames -merge x1
  have h2 : Keeps s x1.2 := by
    unfold x1
    try beta_reduce
    refine Keeps.foldlP (fun (r : List (Sys2Proof.Bytes × Bool) × Sys2Proof.Machine.State) => r.2) ?_ ?_
    · refine Keeps.snd ?_
      exact (Keeps.refl _)
    · intro a3 b4 ht5
      try beta_reduce
      extract_lets +onlyGivenNames -merge x6
      have h7 : Keeps s x6.2.2 := by
        unfold x6
        try beta_reduce
        exact Keeps.trans ht5 (State.readSram_keeps _ _ _ _)
      try clear_value x6
      exact h7
  try clear_value x1
  refine Keeps.foldlP (fun (r : List (Sys2Proof.Bytes × Bool) × Sys2Proof.Machine.State) => r.2) ?_ ?_
  · exact h2
  · intro a8 b9 ht10
    try beta_reduce
    extract_lets +onlyGivenNames -merge x11
    have h12 : Keeps s x11.2 := by
      unfold x11
      try beta_reduce
      refine Keeps.foldlP (fun (r : List (Sys2Proof.Bytes × Bool) × Sys2Proof.Machine.State) => r.2) ?_ ?_
      · exact ht10
      · intro a13 b14 ht15
        try beta_reduce
        extract_lets +onlyGivenNames -merge x16
        have h17 : Keeps s x16.2.2 := by
          unfold x16
          try beta_reduce
          exact Keeps.trans ht15 (State.readBeat_keeps _ _ _)
        try clear_value x16
        exact h17
    try clear_value x11
    exact h12

theorem State.partPoison_keeps : ∀ s p1 p2 p3 p4, Keeps s (@State.partPoison s p1 p2 p3 p4) := by
  intro s p1 p2 p3 p4
  unfold State.partPoison
  split
  · exact Keeps.trans (Keeps.refl _) (State.ccWrite_keeps _ _ _ _ _)
  · exact (Keeps.refl _)

theorem State.copyOut_keeps : ∀ s p1 p2 p3 p4, (∀ y0 y1 y2, Keeps y0 (p4 y0 y1 y2).2.2) → Keeps s (@State.copyOut s p1 p2 p3 p4) := by
  intro s p1 p2 p3 p4 hf422
  unfold State.copyOut
  refine Keeps.foldl ?_ ?_
  · exact (Keeps.refl _)
  · intro a1 b2 ht0
    try beta_reduce
    extract_lets +onlyGivenNames -merge x3
    have h4 : Keeps s x3.2.2 := by
      unfold x3
      refine Keeps.trans ?_ (hf422 _ _ _)
      exact ht0
    try clear_value x3
    exact Keeps.trans h4 (State.partPoison_keeps _ _ _ _ _)

theorem State.regionRead_keeps : ∀ p0 p1 s p3 p4, Keeps s (@State.regionRead p0 p1 s p3 p4).2.2 := by
  intro p0 p1 s p3 p4
  unfold State.regionRead
  refine Keeps.iteP (fun (r : Sys2Proof.Bytes × Nat × Sys2Proof.Machine.State) => r.2.2) ?_ ?_
  · exact Keeps.trans (Keeps.refl _) (State.ccRead_keeps _ _ _ _)
  · exact Keeps.trans (Keeps.refl _) (State.partRead_keeps _ _ _ _)

theorem State.writeCkpt_keeps : ∀ s p1 p2, Keeps s (@State.writeCkpt s p1 p2) := by
  intro s p1 p2
  unfold State.writeCkpt
  extract_lets +onlyGivenNames -merge x0
  try clear_value x0
  extract_lets +onlyGivenNames -merge x1
  try clear_value x1
  extract_lets +onlyGivenNames -merge x2
  try clear_value x2
  extract_lets +onlyGivenNames -merge x3
  have h4 : Keeps s x3 := by
    unfold x3
    refine Keeps.foldl ?_ ?_
    · exact (Keeps.refl _)
    · intro a6 b7 ht5
      try beta_reduce
      extract_lets +onlyGivenNames -merge x8
      have h9 : Keeps s x8.2 := by
        unfold x8
        exact Keeps.trans ht5 (State.coreCopy_keeps _ _ _)
      try clear_value x8
      refine Keeps.foldl ?_ ?_
      · exact h9
      · intro a11 b12 ht10
        try beta_reduce
        refine Keeps.ite ?_ ?_
        · exact Keeps.trans ht10 (State.writeBeat_keeps _ _ _ _ _)
        · exact Keeps.trans ht10 (State.partPoison_keeps _ _ _ _ _)
  try clear_value x3
  extract_lets +onlyGivenNames -merge x13
  have h14 : Keeps s x13 := by
    unfold x13
    refine Keeps.foldl ?_ ?_
    · exact h4
    · intro a16 b17 ht15
      try beta_reduce
      refine Keeps.ite ?_ ?_
      · exact ht15
      · refine Keeps.trans ?_ (State.copyOut_keeps _ _ _ _ _ ?_)
        · exact ht15
        · intro y18 y19 y20
          try beta_reduce
          exact Keeps.trans (Keeps.refl _) (State.regionRead_keeps _ _ _ _ _)
  try clear_value x13
  extract_lets +onlyGivenNames -merge x21
  have h22 : Keeps s x21 := by
    unfold x21
    exact Keeps.trans h14 (State.partWrite_keeps _ _ _ _)
  try clear_value x21
  exact Keeps.trans h22 (State.setPart_keeps _ _ _)

theorem State.launch_keeps : ∀ s p1 p2 p3 p4 p5, Keeps s (@State.launch s p1 p2 p3 p4 p5) := by
  intro s p1 p2 p3 p4 p5
  unfold State.launch
  extract_lets +onlyGivenNames -merge x0
  try clear_value x0
  extract_lets +onlyGivenNames -merge x1
  try clear_value x1
  extract_lets +onlyGivenNames -merge x2
  have h3 : Keeps s x2 := by
    unfold x2
    exact Keeps.trans (Keeps.refl _) (State.setField_keeps _ _ _ _ _)
  try clear_value x2
  refine Keeps.trans ?_ (State.move_keeps _ _ _)
  · exact Keeps.trans h3 (State.setPart_keeps _ _ _)

theorem State.startUnits_keeps : ∀ s p1, Keeps s (@State.startUnits s p1) := by
  intro s p1
  unfold State.startUnits
  refine Keeps.foldl ?_ ?_
  · exact (Keeps.refl _)
  · intro a1 b2 ht0
    try beta_reduce
    extract_lets +onlyGivenNames -merge x3 x4 x5
    try clear_value x3
    try clear_value x4
    have h6 : Keeps s x5 := by
      unfold x5
      exact Keeps.trans ht0 (State.setCore_keeps _ _ _)
    try clear_value x5
    refine Keeps.trans ?_ (State.primeRouter_keeps _ _)
    · exact Keeps.trans h6 (State.setRouter_keeps _ _ _)

theorem State.runCommand_keeps : ∀ s p1 p2 p3 p4 p5, (∀ y0 y1 y2, Keeps y0 (p5 y0 y1 y2)) → Keeps s (@State.runCommand s p1 p2 p3 p4 p5) := by
  intro s p1 p2 p3 p4 p5 hf5
  unfold State.runCommand
  split
  · exact (Keeps.refl _)
  · extract_lets +onlyGivenNames -merge x0
    try clear_value x0
    refine Keeps.ite ?_ ?_
    · exact (Keeps.refl _)
    · split
      · exact Keeps.trans (Keeps.refl _) (State.finish_keeps _ _ _)
      · extract_lets +onlyGivenNames -merge x1
        have h2 : Keeps s x1 := by
          unfold x1
          refine Keeps.ite ?_ ?_
          · exact (Keeps.refl _)
          · refine Keeps.trans ?_ (State.retargetAll_keeps _ _ _)
            · exact Keeps.trans (Keeps.refl _) (State.setCmd_keeps _ _ _)
        try clear_value x1
        refine Keeps.ite ?_ ?_
        · refine Keeps.trans ?_ (State.setCmd_keeps _ _ _)
          · refine Keeps.trans ?_ (hf5 _ _ _)
            exact h2
        · exact h2

theorem execRun_keeps : ∀ p0 s, Good s (@execRun p0 s) := by
  intro p0 s
  unfold execRun
  refine ⟨_, rfl, ?_⟩
  refine Keeps.trans ?_ (State.runCommand_keeps _ _ _ _ _ _ ?_)
  · exact (Keeps.refl _)
  · intro y0 y1 y2
    try beta_reduce
    extract_lets +onlyGivenNames -merge x3
    try clear_value x3
    extract_lets +onlyGivenNames -merge x4
    try clear_value x4
    extract_lets +onlyGivenNames -merge x5
    have h6 : Keeps y0 x5 := by
      unfold x5
      exact Keeps.trans (Keeps.refl _) (State.setPart_keeps _ _ _)
    try clear_value x5
    extract_lets +onlyGivenNames -merge x7
    have h8 : Keeps y0 x7 := by
      unfold x7
      refine Keeps.foldl ?_ ?_
      · exact h6
      · intro a10 b11 ht9
        try beta_reduce
        split
        · exact Keeps.trans ht9 (State.setColl_keeps _ _ _)
        · exact ht9
    try clear_value x7
    extract_lets +onlyGivenNames -merge x12
    try clear_value x12
    refine Keeps.trans ?_ (State.startUnits_keeps _ _)
    · exact Keeps.trans h8 (State.launch_keeps _ _ _ _ _ _)

theorem execResume_keeps : ∀ p0 s, Good s (@execResume p0 s) := by
  intro p0 s
  unfold execResume
  refine ⟨_, rfl, ?_⟩
  unfold State.runCommand
  split
  · exact (Keeps.refl _)
  · extract_lets +onlyGivenNames -merge x0
    try clear_value x0
    refine Keeps.ite ?_ ?_
    · exact (Keeps.refl _)
    · split
      · exact Keeps.trans (Keeps.refl _) (State.finish_keeps _ _ _)
      · extract_lets +onlyGivenNames -merge x1
        have h2 : Keeps s x1 := by
          unfold x1
          try beta_reduce
          refine Keeps.ite ?_ ?_
          · exact (Keeps.refl _)
          · refine Keeps.trans ?_ (State.retargetAll_keeps _ _ _)
            exact Keeps.trans (Keeps.refl _) (State.setCmd_keeps _ _ _)
        try clear_value x1
        refine Keeps.ite ?_ ?_
        · refine Keeps.trans ?_ (State.setCmd_keeps _ _ _)
          beta_reduce
          refine Keeps.trans ?_ (State.launch_keeps _ _ _ _ _ _)
          exact Keeps.trans h2 (State.setPart_keeps _ _ _)
        · exact h2

theorem State.writeSnap_keeps : ∀ s p1 p2, Keeps s (@State.writeSnap s p1 p2).2 := by
  intro s p1 p2
  unfold State.writeSnap
  refine Keeps.iteP (fun (r : Nat × Sys2Proof.Machine.State) => r.2) ?_ ?_
  · refine Keeps.snd ?_
    exact (Keeps.refl _)
  · extract_lets +onlyGivenNames -merge x0
    try clear_value x0
    refine Keeps.snd ?_
    exact Keeps.trans (Keeps.refl _) (State.partWrite_keeps _ _ _ _)

theorem execStopStepBoundary_keeps : ∀ p0 s, Good s (@execStopStepBoundary p0 s) := by
  intro p0 s
  unfold execStopStepBoundary
  refine ⟨_, rfl, ?_⟩
  refine Keeps.trans ?_ (State.start_keeps _ _ _ _ _ ?_)
  · exact (Keeps.refl _)
  · intro y0 y1
    try beta_reduce
    extract_lets +onlyGivenNames -merge x2
    try clear_value x2
    extract_lets +onlyGivenNames -merge x3
    try clear_value x3
    refine Keeps.iteP (fun (r : Option Sys2Proof.Machine.Result × Nat × Nat × Sys2Proof.Machine.State) => r.2.2.2) ?_ ?_
    · refine Keeps.sndP (fun (r : Nat × Nat × Sys2Proof.Machine.State) => r.2.2) ?_
      refine Keeps.sndP (fun (r : Nat × Sys2Proof.Machine.State) => r.2) ?_
      refine Keeps.snd ?_
      exact (Keeps.refl _)
    · refine Keeps.iteP (fun (r : Option Sys2Proof.Machine.Result × Nat × Nat × Sys2Proof.Machine.State) => r.2.2.2) ?_ ?_
      · refine Keeps.sndP (fun (r : Nat × Nat × Sys2Proof.Machine.State) => r.2.2) ?_
        refine Keeps.sndP (fun (r : Nat × Sys2Proof.Machine.State) => r.2) ?_
        refine Keeps.snd ?_
        exact (Keeps.refl _)
      · extract_lets +onlyGivenNames -merge x4
        try clear_value x4
        extract_lets +onlyGivenNames -merge x5
        try clear_value x5
        refine Keeps.sndP (fun (r : Nat × Nat × Sys2Proof.Machine.State) => r.2.2) ?_
        refine Keeps.sndP (fun (r : Nat × Sys2Proof.Machine.State) => r.2) ?_
        refine Keeps.snd ?_
        exact Keeps.trans (Keeps.refl _) (State.setPart_keeps _ _ _)

theorem execStopImmediate_keeps : ∀ p0 s, Good s (@execStopImmediate p0 s) := by
  intro p0 s
  unfold execStopImmediate
  refine ⟨_, rfl, ?_⟩
  refine Keeps.trans ?_ (State.start_keeps _ _ _ _ _ ?_)
  · exact (Keeps.refl _)
  · intro y0 y1
    try beta_reduce
    extract_lets +onlyGivenNames -merge x2
    try clear_value x2
    refine Keeps.iteP (fun (r : Option Sys2Proof.Machine.Result × Nat × Nat × Sys2Proof.Machine.State) => r.2.2.2) ?_ ?_
    · refine Keeps.sndP (fun (r : Nat × Nat × Sys2Proof.Machine.State) => r.2.2) ?_
      refine Keeps.sndP (fun (r : Nat × Sys2Proof.Machine.State) => r.2) ?_
      refine Keeps.snd ?_
      exact (Keeps.refl _)
    · refine Keeps.iteP (fun (r : Option Sys2Proof.Machine.Result × Nat × Nat × Sys2Proof.Machine.State) => r.2.2.2) ?_ ?_
      · refine Keeps.sndP (fun (r : Nat × Nat × Sys2Proof.Machine.State) => r.2.2) ?_
        refine Keeps.sndP (fun (r : Nat × Sys2Proof.Machine.State) => r.2) ?_
        refine Keeps.snd ?_
        exact (Keeps.refl _)
      · refine Keeps.sndP (fun (r : Nat × Nat × Sys2Proof.Machine.State) => r.2.2) ?_
        refine Keeps.sndP (fun (r : Nat × Sys2Proof.Machine.State) => r.2) ?_
        refine Keeps.snd ?_
        exact (Keeps.refl _)

theorem State.freeze_keeps : ∀ s p1 p2, Keeps s (@State.freeze s p1 p2) := by
  intro s p1 p2
  unfold State.freeze
  extract_lets +onlyGivenNames -merge x0
  try clear_value x0
  refine Keeps.trans ?_ (State.move_keeps _ _ _)
  · exact Keeps.trans (Keeps.refl _) (State.setPart_keeps _ _ _)

theorem execStopTakesEffect_keeps : ∀ p0 s, Good s (@execStopTakesEffect p0 s) := by
  intro p0 s
  unfold execStopTakesEffect
  split
  · refine ⟨_, rfl, ?_⟩
    exact (Keeps.refl _)
  · extract_lets +onlyGivenNames -merge x0
    try clear_value x0
    refine Good.ite ?_ ?_
    · refine ⟨_, rfl, ?_⟩
      exact (Keeps.refl _)
    · refine Good.ite ?_ ?_
      · extract_lets +onlyGivenNames -merge x1
        try clear_value x1
        refine ⟨_, rfl, ?_⟩
        refine Keeps.trans ?_ (State.setCmd_keeps _ _ _)
        · exact Keeps.trans (Keeps.refl _) (State.setPart_keeps _ _ _)
      · refine Good.ite ?_ ?_
        · refine ⟨_, rfl, ?_⟩
          exact Keeps.trans (Keeps.refl _) (State.finish_keeps _ _ _)
        · extract_lets +onlyGivenNames -merge x2
          have h3 : Keeps s x2 := by
            unfold x2
            exact Keeps.trans (Keeps.refl _) (State.freeze_keeps _ _ _)
          try clear_value x2
          extract_lets +onlyGivenNames -merge x4
          have h5 : Keeps s x4.2 := by
            unfold x4
            exact Keeps.trans h3 (State.writeSnap_keeps _ _ _)
          try clear_value x4
          refine ⟨_, rfl, ?_⟩
          exact Keeps.trans h5 (State.setCmd_keeps _ _ _)

theorem execCkptQuiesceTimeout_keeps : ∀ p0 s, Good s (@execCkptQuiesceTimeout p0 s) := by
  intro p0 s
  unfold execCkptQuiesceTimeout
  extract_lets +onlyGivenNames -merge x0
  try clear_value x0
  split
  · refine Good.ite ?_ ?_
    · refine ⟨_, rfl, ?_⟩
      exact Keeps.trans (Keeps.refl _) (State.setPart_keeps _ _ _)
    · refine ⟨_, rfl, ?_⟩
      exact (Keeps.refl _)
  · refine ⟨_, rfl, ?_⟩
    exact (Keeps.refl _)

theorem execHaltFreeze_keeps : ∀ p0 s, Good s (@execHaltFreeze p0 s) := by
  intro p0 s
  unfold execHaltFreeze
  extract_lets +onlyGivenNames -merge x0
  try clear_value x0
  extract_lets +onlyGivenNames -merge x1
  try clear_value x1
  refine Good.ite ?_ ?_
  · refine ⟨_, rfl, ?_⟩
    exact (Keeps.refl _)
  · split
    · refine ⟨_, rfl, ?_⟩
      exact Keeps.trans (Keeps.refl _) (State.setPart_keeps _ _ _)
    · refine Good.ite ?_ ?_
      · refine ⟨_, rfl, ?_⟩
        refine Keeps.trans ?_ (State.move_keeps _ _ _)
        · exact Keeps.trans (Keeps.refl _) (State.setPart_keeps _ _ _)
      · refine ⟨_, rfl, ?_⟩
        exact (Keeps.refl _)

theorem State.readCopy_keeps : ∀ s p1 p2 p3 p4 p5 p6, Keeps s (@State.readCopy s p1 p2 p3 p4 p5 p6).2.2 := by
  intro s p1 p2 p3 p4 p5 p6
  unfold State.readCopy
  refine Keeps.iteP (fun (r : Sys2Proof.Bytes × Bool × Sys2Proof.Machine.State) => r.2.2) ?_ ?_
  · extract_lets +onlyGivenNames -merge x0
    have h1 : Keeps s x0.2.2 := by
      unfold x0
      exact Keeps.trans (Keeps.refl _) (State.partRead_keeps _ _ _ _)
    try clear_value x0
    refine Keeps.sndP (fun (r : Bool × Sys2Proof.Machine.State) => r.2) ?_
    refine Keeps.snd ?_
    exact h1
  · extract_lets +onlyGivenNames -merge x2
    have h3 : Keeps s x2.2.2 := by
      unfold x2
      exact Keeps.trans (Keeps.refl _) (State.sliceRead_keeps _ _ _ _)
    try clear_value x2
    refine Keeps.sndP (fun (r : Bool × Sys2Proof.Machine.State) => r.2) ?_
    refine Keeps.snd ?_
    exact h3

theorem State.restore_keeps : ∀ s p1 p2 p3 p4, Keeps s (@State.restore s p1 p2 p3 p4).2 := by
  intro s p1 p2 p3 p4
  unfold State.restore
  extract_lets +onlyGivenNames -merge x0
  try clear_value x0
  extract_lets +onlyGivenNames -merge x1
  try clear_value x1
  extract_lets +onlyGivenNames -merge x2
  try clear_value x2
  extract_lets +onlyGivenNames -merge x3
  try clear_value x3
  extract_lets +onlyGivenNames -merge x4
  try clear_value x4
  extract_lets +onlyGivenNames -merge x5
  have h6 : Keeps s x5.2 := by
    unfold x5
    refine Keeps.foldlP (fun (r : Bool × Sys2Proof.Machine.State) => r.2) ?_ ?_
    · refine Keeps.snd ?_
      exact (Keeps.refl _)
    · intro a8 b9 ht7
      try beta_reduce
      extract_lets +onlyGivenNames -merge x10
      have h11 : Keeps s x10.2.2 := by
        unfold x10
        exact Keeps.trans ht7 (State.readCopy_keeps _ _ _ _ _ _ _)
      try clear_value x10
      extract_lets +onlyGivenNames -merge x12
      have h13 : Keeps s x12 := by
        unfold x12
        exact h11
      try clear_value x12
      extract_lets +onlyGivenNames -merge x14
      have h15 : Keeps s x14 := by
        unfold x14
        exact Keeps.trans h13 (State.setCore_keeps _ _ _)
      try clear_value x14
      extract_lets +onlyGivenNames -merge x16
      have h17 : Keeps s x16 := by
        unfold x16
        exact Keeps.trans h15 (State.setRouter_keeps _ _ _)
      try clear_value x16
      extract_lets +onlyGivenNames -merge x18
      have h19 : Keeps s x18 := by
        unfold x18
        exact Keeps.trans h17 (State.putUnits_keeps _ _ _ _)
      try clear_value x18
      extract_lets +onlyGivenNames -merge x20
      have h21 : Keeps s x20 := by
        unfold x20
        refine Keeps.foldl ?_ ?_
        · exact h19
        · intro a23 b24 ht22
          try beta_reduce
          refine Keeps.ite ?_ ?_
          · exact Keeps.trans ht22 (State.putUnits_keeps _ _ _ _)
          · exact ht22
      try clear_value x20
      refine Keeps.snd ?_
      exact h21
  try clear_value x5
  extract_lets +onlyGivenNames -merge x25
  have h26 : Keeps s x25.2 := by
    unfold x25
    refine Keeps.foldlP (fun (r : Bool × Sys2Proof.Machine.State) => r.2) ?_ ?_
    · exact h6
    · intro a28 b29 ht27
      try beta_reduce
      refine Keeps.iteP (fun (r : Bool × Sys2Proof.Machine.State) => r.2) ?_ ?_
      · exact ht27
      · extract_lets +onlyGivenNames -merge x30
        have h31 : Keeps s x30.2.2 := by
          unfold x30
          exact Keeps.trans ht27 (State.partRead_keeps _ _ _ _)
        try clear_value x30
        refine Keeps.snd ?_
        refine Keeps.ite ?_ ?_
        · exact Keeps.trans h31 (State.ccWrite_keeps _ _ _ _ _)
        · exact Keeps.trans h31 (State.partWrite_keeps _ _ _ _)
  try clear_value x25
  extract_lets +onlyGivenNames -merge x32
  have h33 : Keeps s x32 := by
    unfold x32
    exact h26
  try clear_value x32
  extract_lets +onlyGivenNames -merge x34
  have h35 : Keeps s x34 := by
    unfold x34
    refine Keeps.foldl ?_ ?_
    · exact h33
    · intro a37 b38 ht36
      try beta_reduce
      exact Keeps.trans ht36 (State.setEngine_keeps _ _ _)
  try clear_value x34
  extract_lets +onlyGivenNames -merge x39
  have h40 : Keeps s x39 := by
    unfold x39
    refine Keeps.foldl ?_ ?_
    · exact h35
    · intro a42 b43 ht41
      try beta_reduce
      exact Keeps.trans ht41 (State.setColl_keeps _ _ _)
  try clear_value x39
  extract_lets +onlyGivenNames -merge x44
  try clear_value x44
  extract_lets +onlyGivenNames -merge x45 x46
  try clear_value x45
  have h47 : Keeps s x46 := by
    unfold x46
    exact Keeps.trans h40 (State.setPart_keeps _ _ _)
  try clear_value x46
  refine Keeps.snd ?_
  exact h47

theorem State.replay_keeps : ∀ s p1 p2, Keeps s (@State.replay s p1 p2) := by
  intro s p1 p2
  unfold State.replay
  split
  · exact (Keeps.refl _)
  · extract_lets +onlyGivenNames -merge x0
    try clear_value x0
    extract_lets +onlyGivenNames -merge x1
    try clear_value x1
    extract_lets +onlyGivenNames -merge x2
    try clear_value x2
    extract_lets +onlyGivenNames -merge x3
    try clear_value x3
    extract_lets +onlyGivenNames -merge x4
    try clear_value x4
    refine Keeps.ite ?_ ?_
    · exact (Keeps.refl _)
    · refine Keeps.ite ?_ ?_
      · exact Keeps.trans (Keeps.refl _) (State.finish_keeps _ _ _)
      · refine Keeps.ite ?_ ?_
        · exact Keeps.trans (Keeps.refl _) (State.finish_keeps _ _ _)
        · refine Keeps.ite ?_ ?_
          · exact Keeps.trans (Keeps.refl _) (State.finish_keeps _ _ _)
          · extract_lets +onlyGivenNames -merge x5
            have h6 : Keeps s x5.2.2 := by
              unfold x5
              try beta_reduce
              exact Keeps.trans (Keeps.refl _) (State.partRead_keeps _ _ _ _)
            try clear_value x5
            extract_lets +onlyGivenNames -merge x7
            have h8 : Keeps s x7 := by
              unfold x7
              try beta_reduce
              exact h6
            try clear_value x7
            refine Keeps.ite ?_ ?_
            · exact Keeps.trans h8 (State.finish_keeps _ _ _)
            · extract_lets +onlyGivenNames -merge x9
              try clear_value x9
              extract_lets +onlyGivenNames -merge x10
              have h11 : Keeps s x10 := by
                unfold x10
                try beta_reduce
                refine Keeps.trans ?_ (State.clearPart_keeps _ _ _)
                refine Keeps.trans ?_ (State.configPart_keeps _ _ _)
                exact Keeps.trans h8 (State.setBlocksNow_keeps _ _ _)
              try clear_value x10
              extract_lets +onlyGivenNames -merge x12
              have h13 : Keeps s x12.2 := by
                unfold x12
                try beta_reduce
                refine Keeps.iteP (fun (r : Bool × Sys2Proof.Machine.State) => r.2) ?_ ?_
                · exact Keeps.trans h11 (State.restore_keeps _ _ _ _ _)
                · exact h11
              try clear_value x12
              refine Keeps.ite ?_ ?_
              · extract_lets +onlyGivenNames -merge x14
                have h15 : Keeps s x14 := by
                  unfold x14
                  try beta_reduce
                  refine Keeps.trans ?_ (State.clearPart_keeps _ _ _)
                  refine Keeps.trans ?_ (State.configPart_keeps _ _ _)
                  exact Keeps.trans h13 (State.zeroPart_keeps _ _)
                try clear_value x14
                refine Keeps.trans ?_ (State.finish_keeps _ _ _)
                refine Keeps.trans ?_ (State.setBlocksNow_keeps _ _ _)
                exact Keeps.trans h15 (State.setPart_keeps _ _ _)
              · extract_lets +onlyGivenNames -merge x16
                have h17 : Keeps s x16 := by
                  unfold x16
                  try beta_reduce
                  exact h13
                try clear_value x16
                extract_lets +onlyGivenNames -merge x18
                try clear_value x18
                extract_lets +onlyGivenNames -merge x19
                try clear_value x19
                extract_lets +onlyGivenNames -merge x20
                have h21 : Keeps s x20 := by
                  unfold x20
                  try beta_reduce
                  exact Keeps.trans h17 (State.setPart_keeps _ _ _)
                try clear_value x20
                refine Keeps.trans ?_ (State.setCmd_keeps _ _ _)
                refine Keeps.trans ?_ (State.startUnits_keeps _ _)
                exact Keeps.trans h21 (State.launch_keeps _ _ _ _ _ _)

theorem execReplayLive_keeps : ∀ p0 s, Good s (@execReplayLive p0 s) := by
  intro p0 s
  unfold execReplayLive
  refine ⟨_, rfl, ?_⟩
  exact Keeps.trans (Keeps.refl _) (State.replay_keeps _ _ _)

theorem execReplayLogged_keeps : ∀ p0 s, Good s (@execReplayLogged p0 s) := by
  intro p0 s
  unfold execReplayLogged
  refine ⟨_, rfl, ?_⟩
  exact Keeps.trans (Keeps.refl _) (State.replay_keeps _ _ _)

end Sys2Proof.Machine
end

