-- ==== Sys2Proof/Laws/CmdPart.lean ====
section
/-! SUPPORT. What the operations of Machine/CmdPart.lean keep: the queue of waiting commands and the canonical form of the state
(Keeps); and that its commands answer a next state (Good). -/

namespace Sys2Proof.Machine

theorem State.memoryKey_keeps : ∀ s p1 p2, Keeps s (@State.memoryKey s p1 p2) := by
  intro s p1 p2
  unfold State.memoryKey
  extract_lets +onlyGivenNames -merge x0
  have h1 : Keeps s x0.2 := by
    unfold x0
    exact Keeps.trans (Keeps.refl _) (State.free_keeps _ _)
  try clear_value x0
  exact Keeps.trans h1 (State.setKey_keeps _ _ _)

theorem State.fillChan_keeps : ∀ s p1, Keeps s (@State.fillChan s p1) := by
  intro s p1
  unfold State.fillChan
  exact Keeps.trans (Keeps.refl _) (State.zeroHbm_keeps _ _ _)

theorem State.changeChan_keeps : ∀ s p1, Keeps s (@State.changeChan s p1) := by
  intro s p1
  unfold State.changeChan
  extract_lets +onlyGivenNames -merge x0
  have h1 : Keeps s x0 := by
    unfold x0
    exact Keeps.trans (Keeps.refl _) (State.fillChan_keeps _ _)
  try clear_value x0
  refine Keeps.trans h1 (Keeps.mk rfl ?_ ?_ ?_ ?_) <;> intro hh <;>
    (first | exact hh | exact Mem.writeUnit_wf _ _ _ hh | exact Mem.zero_wf _ _ hh | exact regsForm_filter _ hh
           | exact SMap.wf_clear _ _ hh | exact SMap.wf_set _ _ hh | exact regsForm_set _ _ hh | exact Mem.empty_wf | rfl
           | exact SMap.wf_clear _ _ (SMap.wf_clear _ _ hh) | exact regsForm_clear _ _ (regsForm_clear _ _ hh))

theorem State.create_keeps : ∀ s p1, Keeps s (@State.create s p1).2 := by
  intro s p1
  unfold State.create
  extract_lets +onlyGivenNames -merge x0
  try clear_value x0
  refine Keeps.iteP (fun (r : Sys2Proof.Machine.Result × Sys2Proof.Machine.State) => r.2) ?_ ?_
  · refine Keeps.snd ?_
    exact (Keeps.refl _)
  · refine Keeps.iteP (fun (r : Sys2Proof.Machine.Result × Sys2Proof.Machine.State) => r.2) ?_ ?_
    · refine Keeps.snd ?_
      exact (Keeps.refl _)
    · refine Keeps.iteP (fun (r : Sys2Proof.Machine.Result × Sys2Proof.Machine.State) => r.2) ?_ ?_
      · refine Keeps.snd ?_
        exact (Keeps.refl _)
      · extract_lets +onlyGivenNames -merge x1
        try clear_value x1
        refine Keeps.iteP (fun (r : Sys2Proof.Machine.Result × Sys2Proof.Machine.State) => r.2) ?_ ?_
        · refine Keeps.snd ?_
          exact (Keeps.refl _)
        · extract_lets +onlyGivenNames -merge x2
          have h3 : Keeps s x2 := by
            unfold x2
            try beta_reduce
            split
            · exact Keeps.trans (Keeps.refl _) (State.memoryKey_keeps _ _ _)
            · exact (Keeps.refl _)
          try clear_value x2
          extract_lets +onlyGivenNames -merge x4
          have h5 : Keeps s x4 := by
            unfold x4
            try beta_reduce
            refine Keeps.foldl ?_ ?_
            · exact Keeps.trans h3 (State.setBlocksNow_keeps _ _ _)
            · intro a6 b7 ht8
              try beta_reduce
              refine Keeps.trans ?_ (State.clearCoreUnits_keeps _ _)
              refine Keeps.trans ?_ (State.zeroSlice_keeps _ _)
              exact Keeps.trans ht8 (State.zeroCore_keeps _ _)
          try clear_value x4
          extract_lets +onlyGivenNames -merge x9
          have h10 : Keeps s x9 := by
            unfold x9
            try beta_reduce
            refine Keeps.foldl ?_ ?_
            · exact h5
            · intro a11 b12 ht13
              try beta_reduce
              exact Keeps.trans ht13 (State.changeChan_keeps _ _)
          try clear_value x9
          extract_lets +onlyGivenNames -merge x14
          try clear_value x14
          extract_lets +onlyGivenNames -merge x15
          try clear_value x15
          extract_lets +onlyGivenNames -merge x16
          have h17 : Keeps s x16 := by
            unfold x16
            try beta_reduce
            exact Keeps.trans h10 (State.setPart_keeps _ _ _)
          try clear_value x16
          extract_lets +onlyGivenNames -merge x18
          have h19 : Keeps s x18 := by
            unfold x18
            try beta_reduce
            refine Keeps.trans ?_ (State.setReg_keeps _ _ _)
            exact Keeps.trans h17 (State.setReg_keeps _ _ _)
          try clear_value x18
          extract_lets +onlyGivenNames -merge x20
          have h21 : Keeps s x20 := by
            unfold x20
            try beta_reduce
            refine Keeps.trans ?_ (State.clearPart_keeps _ _ _)
            refine Keeps.trans ?_ (State.configPart_keeps _ _ _)
            exact Keeps.trans h19 (State.setReg_keeps _ _ _)
          try clear_value x20
          extract_lets +onlyGivenNames -merge x22
          have h23 : Keeps s x22 := by
            unfold x22
            try beta_reduce
            exact Keeps.trans h21 (State.setBlocksNow_keeps _ _ _)
          try clear_value x22
          exact h23

theorem execPartitionCreate_keeps : ∀ p0 s, Good s (@execPartitionCreate p0 s) := by
  intro p0 s
  unfold execPartitionCreate
  refine ⟨_, rfl, ?_⟩
  refine Keeps.trans ?_ (State.perform_keeps _ _ _ _ _ ?_)
  · exact (Keeps.refl _)
  · intro y0 y1
    try beta_reduce
    exact Keeps.trans (Keeps.refl _) (State.create_keeps _ _)

theorem State.forgetSrc_keeps : ∀ s p1, Keeps s (@State.forgetSrc s p1) := by
  intro s p1
  unfold State.forgetSrc
  exact Keeps.trans (Keeps.refl _) ⟨rfl, id, id, id, id⟩

theorem State.cutGranule_keeps : ∀ s p1 p2, Keeps s (@State.cutGranule s p1 p2) := by
  intro s p1 p2
  unfold State.cutGranule
  extract_lets +onlyGivenNames -merge x0
  try clear_value x0
  extract_lets +onlyGivenNames -merge x1
  try clear_value x1
  extract_lets +onlyGivenNames -merge x2
  have h3 : Keeps s x2.2 := by
    unfold x2
    exact Keeps.trans (Keeps.refl _) (State.free_keeps _ _)
  try clear_value x2
  extract_lets +onlyGivenNames -merge x4
  try clear_value x4
  split
  · extract_lets +onlyGivenNames -merge x5
    have h6 : Keeps s x5 := by
      unfold x5
      refine Keeps.ite ?_ ?_
      · exact Keeps.trans h3 (State.streamPut_keeps _ _ _ _ _)
      · exact (Keeps.refl _)
    try clear_value x5
    refine Keeps.trans ?_ (State.deliver_keeps _ _ _ _)
    · exact Keeps.trans h6 (State.setEngine_keeps _ _ _)
  · refine Keeps.ite ?_ ?_
    · exact Keeps.trans (Keeps.refl _) (State.deliver_keeps _ _ _ _)
    · exact Keeps.trans h3 (State.dstGranule_keeps _ _ _ _ _ _)

theorem State.cutDescriptor_keeps : ∀ s p1 p2 p3, Keeps s (@State.cutDescriptor s p1 p2 p3) := by
  intro s p1 p2 p3
  unfold State.cutDescriptor
  extract_lets +onlyGivenNames -merge x0
  try clear_value x0
  extract_lets +onlyGivenNames -merge x1
  try clear_value x1
  extract_lets +onlyGivenNames -merge x2
  try clear_value x2
  extract_lets +onlyGivenNames -merge x3
  have h4 : Keeps s x3 := by
    unfold x3
    try beta_reduce
    refine Keeps.foldl ?_ ?_
    · exact (Keeps.refl _)
    · intro a5 b6 ht7
      try beta_reduce
      exact Keeps.trans ht7 (State.cutGranule_keeps _ _ _)
  try clear_value x3
  refine Keeps.trans ?_ (State.forgetSrc_keeps _ _)
  exact Keeps.trans h4 (State.endDescriptor_keeps _ _ _ _ _)

theorem State.dropRing_keeps : ∀ s p1 p2 p3, Keeps s (@State.dropRing s p1 p2 p3) := by
  intro s p1 p2 p3
  induction p3 generalizing s with
  | zero => exact Keeps.refl s
  | succ n ih =>
    rw [State.dropRing]
    have hp : KeepsIn s (fun (r : BitVec 512 × Bool × State) => r.2.2)
        (if (s.engine p1).fetched then some ((s.engine p1).desc, true, s) else s.fetchDesc p1 p2) :=
      KeepsIn.ite (KeepsIn.some (Keeps.refl s)) (State.fetchDesc_keeps _ _ _)
    split
    · exact Keeps.refl s
    · rename_i hq
      have hm := KeepsIn.ofEq (fun (r : BitVec 512 × Bool × State) => r.2.2) hq hp
      extract_lets +onlyGivenNames -merge e t e2 u
      clear_value e e2
      have ht : Keeps s t := Keeps.trans hm (State.setEngine_keeps _ _ _)
      clear_value t
      have hu : Keeps s u := Keeps.ite (Keeps.trans ht (State.cutDescriptor_keeps _ _ _ _)) (Keeps.trans ht (State.setEngine_keeps _ _ _))
      clear_value u
      exact Keeps.trans hu (ih u)

theorem State.dropQueued_keeps : ∀ s p1, Keeps s (@State.dropQueued s p1) := by
  intro s p1
  unfold State.dropQueued
  refine Keeps.foldl ?_ ?_
  · exact (Keeps.refl _)
  · intro a0 b1 ht2
    try beta_reduce
    refine Keeps.ite ?_ ?_
    · exact ht2
    · exact Keeps.trans ht2 (State.dropRing_keeps _ _ _ _)

theorem State.zeroiseSlot_keeps : ∀ s p1 p2, Keeps s (@State.zeroiseSlot s p1 p2) := by
  intro s p1 p2
  unfold State.zeroiseSlot
  extract_lets +onlyGivenNames -merge x0
  try clear_value x0
  extract_lets +onlyGivenNames -merge x1
  try clear_value x1
  extract_lets +onlyGivenNames -merge x2 x3
  try clear_value x2
  have h4 : Keeps s x3 := by
    unfold x3
    refine Keeps.ite ?_ ?_
    · exact Keeps.trans (Keeps.refl _) (State.setPart_keeps _ _ _)
    · exact (Keeps.refl _)
  try clear_value x3
  extract_lets +onlyGivenNames -merge x5
  have h6 : Keeps s x5 := by
    unfold x5
    exact Keeps.trans h4 ⟨rfl, id, id, id, id⟩
  try clear_value x5
  extract_lets +onlyGivenNames -merge x7
  have h8 : Keeps s x7 := by
    unfold x7
    refine Keeps.ite ?_ ?_
    · exact Keeps.trans h6 (State.putStaged_keeps _ _ _)
    · exact h6
  try clear_value x7
  exact Keeps.trans h8 (State.setKey_keeps _ _ _)

theorem State.dropInstances_keeps : ∀ s p1 p2, Keeps s (@State.dropInstances s p1 p2) := by
  intro s p1 p2
  unfold State.dropInstances
  refine Keeps.foldl ?_ ?_
  · exact (Keeps.refl _)
  · intro a0 b1 ht2
    try beta_reduce
    split
    · refine Keeps.ite ?_ ?_
      · exact Keeps.trans ht2 (State.setColl_keeps _ _ _)
      · exact ht2
    · exact ht2

theorem State.resetDraining_keeps : ∀ s p1 p2, Keeps s (@State.resetDraining s p1 p2) := by
  intro s p1 p2
  unfold State.resetDraining
  extract_lets +onlyGivenNames -merge x0
  have h1 : Keeps s x0 := by
    unfold x0
    try beta_reduce
    refine Keeps.foldl ?_ ?_
    · exact (Keeps.refl _)
    · intro a2 b3 ht4
      try beta_reduce
      exact Keeps.trans ht4 (State.cutDescriptor_keeps _ _ _ _)
  try clear_value x0
  refine Keeps.foldl ?_ ?_
  · exact h1
  · intro a5 b6 ht7
    try beta_reduce
    split
    · refine Keeps.ite ?_ ?_
      · refine Keeps.trans ?_ (State.forgetSrc_keeps _ _)
        refine Keeps.trans ?_ (State.collEnd_keeps _ _ _ _)
        refine Keeps.trans ?_ (State.collPoison_keeps _ _ _ _)
        exact Keeps.trans ht7 (State.setColl_keeps _ _ _)
      · exact ht7
    · exact ht7

theorem State.endRuns_keeps : ∀ s p1, Keeps s (@State.endRuns s p1) := by
  intro s p1
  unfold State.endRuns
  extract_lets +onlyGivenNames -merge x0
  try clear_value x0
  exact Keeps.trans (Keeps.refl _) ⟨rfl, id, id, id, id⟩

theorem State.retireSlots_keeps : ∀ s p1 p2, Keeps s (@State.retireSlots s p1 p2) := by
  intro s p1 p2
  unfold State.retireSlots
  refine Keeps.trans ?_ (State.dropInstances_keeps _ _ _)
  refine Keeps.foldl ?_ ?_
  · exact (Keeps.refl _)
  · intro a0 b1 ht2
    try beta_reduce
    refine Keeps.ite ?_ ?_
    · exact Keeps.trans ht2 (State.setKey_keeps _ _ _)
    · exact ht2

theorem execPartitionDestroy_keeps : ∀ p0 s, Good s (@execPartitionDestroy p0 s) := by
  intro p0 s
  unfold execPartitionDestroy
  refine ⟨_, rfl, ?_⟩
  unfold State.start
  split
  · refine Keeps.ite ?_ ?_
    · extract_lets +onlyGivenNames -merge x0
      have h1 : Keeps s x0.2.2.2 := by
        unfold x0
        try beta_reduce
        extract_lets +onlyGivenNames -merge x2
        try clear_value x2
        refine Keeps.iteP (fun (r : Option Sys2Proof.Machine.Result × ℕ × ℕ × Sys2Proof.Machine.State) => r.2.2.2) ?_ ?_
        · refine Keeps.sndP (fun (r : ℕ × ℕ × Sys2Proof.Machine.State) => r.2.2) ?_
          refine Keeps.sndP (fun (r : ℕ × Sys2Proof.Machine.State) => r.2) ?_
          refine Keeps.snd ?_
          exact (Keeps.refl _)
        · extract_lets +onlyGivenNames -merge x3
          have h4 : Keeps s x3 := by
            unfold x3
            try beta_reduce
            refine Keeps.ite ?_ ?_
            · exact Keeps.trans (Keeps.refl _) (State.freeze_keeps _ _ _)
            · exact Keeps.trans (Keeps.refl _) (State.move_keeps _ _ _)
          try clear_value x3
          extract_lets +onlyGivenNames -merge x5
          have h6 : Keeps s x5 := by
            unfold x5
            try beta_reduce
            exact Keeps.trans h4 (State.endRuns_keeps _ _)
          try clear_value x5
          extract_lets +onlyGivenNames -merge x7
          have h8 : Keeps s x7 := by
            unfold x7
            try beta_reduce
            exact Keeps.trans h6 (State.setField_keeps _ _ _ _ _)
          try clear_value x7
          extract_lets +onlyGivenNames -merge x9
          try clear_value x9
          extract_lets +onlyGivenNames -merge x10
          have h11 : Keeps s x10 := by
            unfold x10
            try beta_reduce
            exact Keeps.trans h8 (State.retireSlots_keeps _ _ _)
          try clear_value x10
          refine Keeps.sndP (fun (r : ℕ × ℕ × Sys2Proof.Machine.State) => r.2.2) ?_
          refine Keeps.sndP (fun (r : ℕ × Sys2Proof.Machine.State) => r.2) ?_
          refine Keeps.snd ?_
          refine Keeps.ite ?_ ?_
          · exact Keeps.trans h11 (State.dropQueued_keeps _ _)
          · exact h11
      try clear_value x0
      exact Keeps.trans h1 (State.setCmd_keeps _ _ _)
    · exact (Keeps.refl _)
  · exact (Keeps.refl _)

theorem State.removePart_keeps : ∀ s p1, Keeps s (@State.removePart s p1) := by
  intro s p1
  unfold State.removePart
  extract_lets +onlyGivenNames -merge x0
  try clear_value x0
  extract_lets +onlyGivenNames -merge x1
  have h2 : Keeps s x1 := by
    unfold x1
    try beta_reduce
    refine Keeps.foldl ?_ ?_
    · exact (Keeps.refl _)
    · intro a3 b4 ht5
      try beta_reduce
      refine Keeps.trans ?_ (State.zeroSlice_keeps _ _)
      exact Keeps.trans ht5 (State.zeroCore_keeps _ _)
  try clear_value x1
  extract_lets +onlyGivenNames -merge x6
  have h7 : Keeps s x6 := by
    unfold x6
    try beta_reduce
    refine Keeps.foldl ?_ ?_
    · exact h2
    · intro a8 b9 ht10
      try beta_reduce
      refine Keeps.trans ?_ (State.setChan_keeps _ _ _)
      refine Keeps.trans ?_ (State.cloveIdle_keeps _ _)
      exact Keeps.trans ht10 (State.fillChan_keeps _ _)
  try clear_value x6
  extract_lets +onlyGivenNames -merge x11
  try clear_value x11
  extract_lets +onlyGivenNames -merge x12
  have h13 : Keeps s x12 := by
    unfold x12
    try beta_reduce
    refine Keeps.trans h7 (Keeps.mk rfl ?_ ?_ ?_ ?_) <;> intro hh <;>
      (first | exact hh | exact Mem.writeUnit_wf _ _ _ hh | exact Mem.zero_wf _ _ hh | exact regsForm_filter _ hh
             | exact SMap.wf_clear _ _ hh | exact SMap.wf_set _ _ hh | exact regsForm_set _ _ hh | exact Mem.empty_wf | rfl
             | exact SMap.wf_clear _ _ (SMap.wf_clear _ _ hh) | exact regsForm_clear _ _ (regsForm_clear _ _ hh))
  try clear_value x12
  extract_lets +onlyGivenNames -merge x14
  have h15 : Keeps s x14 := by
    unfold x14
    try beta_reduce
    exact Keeps.trans h13 (State.zeroHbm_keeps _ _ _)
  try clear_value x14
  extract_lets +onlyGivenNames -merge x16
  have h17 : Keeps s x16 := by
    unfold x16
    try beta_reduce
    exact Keeps.trans h15 ⟨rfl, id, id, id, id⟩
  try clear_value x16
  extract_lets +onlyGivenNames -merge x18
  have h19 : Keeps s x18 := by
    unfold x18
    try beta_reduce
    refine Keeps.trans ?_ (State.clearPart_keeps _ _ _)
    exact Keeps.trans h17 (State.configPart_keeps _ _ _)
  try clear_value x18
  refine Keeps.trans ?_ (State.move_keeps _ _ _)
  exact Keeps.trans h19 (State.setPart_keeps _ _ _)

theorem execRetireDrainEnd_keeps : ∀ p0 s, Good s (@execRetireDrainEnd p0 s) := by
  intro p0 s
  unfold execRetireDrainEnd
  split
  · refine ⟨_, rfl, ?_⟩
    exact (Keeps.refl _)
  · refine Good.ite ?_ ?_
    · refine ⟨_, rfl, ?_⟩
      exact (Keeps.refl _)
    · extract_lets +onlyGivenNames -merge x0
      try clear_value x0
      extract_lets +onlyGivenNames -merge x1
      try clear_value x1
      extract_lets +onlyGivenNames -merge x2
      try clear_value x2
      extract_lets +onlyGivenNames -merge x3
      have h4 : Keeps s x3 := by
        unfold x3
        try beta_reduce
        exact Keeps.trans (Keeps.refl _) (State.dropInstances_keeps _ _ _)
      try clear_value x3
      extract_lets +onlyGivenNames -merge x5
      try clear_value x5
      refine Good.ite ?_ ?_
      · refine ⟨_, rfl, ?_⟩
        exact h4
      · extract_lets +onlyGivenNames -merge x6
        have h7 : Keeps s x6 := by
          unfold x6
          try beta_reduce
          refine Keeps.foldl ?_ ?_
          · exact Keeps.trans h4 (State.resetDraining_keeps _ _ _)
          · intro a8 b9 ht10
            try beta_reduce
            exact Keeps.trans ht10 (State.zeroiseSlot_keeps _ _ _)
        try clear_value x6
        extract_lets +onlyGivenNames -merge x11
        have h12 : Keeps s x11 := by
          unfold x11
          try beta_reduce
          refine Keeps.ite ?_ ?_
          · exact Keeps.trans h7 (State.dropQueued_keeps _ _)
          · exact h7
        try clear_value x11
        refine ⟨_, rfl, ?_⟩
        refine Keeps.trans ?_ (State.finish_keeps _ _ _)
        refine Keeps.ite ?_ ?_
        · exact Keeps.trans h12 (State.removePart_keeps _ _)
        · exact h12

theorem execKeyRetire_keeps : ∀ p0 s, Good s (@execKeyRetire p0 s) := by
  intro p0 s
  unfold execKeyRetire
  refine ⟨_, rfl, ?_⟩
  unfold State.start
  split
  · refine Keeps.ite ?_ ?_
    · extract_lets +onlyGivenNames -merge x0
      have h1 : Keeps s x0.2.2.2 := by
        unfold x0
        try beta_reduce
        extract_lets +onlyGivenNames -merge x2
        try clear_value x2
        extract_lets +onlyGivenNames -merge x3
        try clear_value x3
        refine Keeps.iteP (fun (r : Option Sys2Proof.Machine.Result × ℕ × ℕ × Sys2Proof.Machine.State) => r.2.2.2) ?_ ?_
        · refine Keeps.sndP (fun (r : ℕ × ℕ × Sys2Proof.Machine.State) => r.2.2) ?_
          refine Keeps.sndP (fun (r : ℕ × Sys2Proof.Machine.State) => r.2) ?_
          refine Keeps.snd ?_
          exact (Keeps.refl _)
        · refine Keeps.iteP (fun (r : Option Sys2Proof.Machine.Result × ℕ × ℕ × Sys2Proof.Machine.State) => r.2.2.2) ?_ ?_
          · refine Keeps.sndP (fun (r : ℕ × ℕ × Sys2Proof.Machine.State) => r.2.2) ?_
            refine Keeps.sndP (fun (r : ℕ × Sys2Proof.Machine.State) => r.2) ?_
            refine Keeps.snd ?_
            exact (Keeps.refl _)
          · refine Keeps.iteP (fun (r : Option Sys2Proof.Machine.Result × ℕ × ℕ × Sys2Proof.Machine.State) => r.2.2.2) ?_ ?_
            · refine Keeps.sndP (fun (r : ℕ × ℕ × Sys2Proof.Machine.State) => r.2.2) ?_
              refine Keeps.sndP (fun (r : ℕ × Sys2Proof.Machine.State) => r.2) ?_
              refine Keeps.snd ?_
              exact (Keeps.refl _)
            · refine Keeps.iteP (fun (r : Option Sys2Proof.Machine.Result × ℕ × ℕ × Sys2Proof.Machine.State) => r.2.2.2) ?_ ?_
              · refine Keeps.sndP (fun (r : ℕ × ℕ × Sys2Proof.Machine.State) => r.2.2) ?_
                refine Keeps.sndP (fun (r : ℕ × Sys2Proof.Machine.State) => r.2) ?_
                refine Keeps.snd ?_
                exact (Keeps.refl _)
              · refine Keeps.sndP (fun (r : ℕ × ℕ × Sys2Proof.Machine.State) => r.2.2) ?_
                refine Keeps.sndP (fun (r : ℕ × Sys2Proof.Machine.State) => r.2) ?_
                refine Keeps.snd ?_
                exact Keeps.trans (Keeps.refl _) (State.retireSlots_keeps _ _ _)
      try clear_value x0
      exact Keeps.trans h1 (State.setCmd_keeps _ _ _)
    · exact (Keeps.refl _)
  · exact (Keeps.refl _)

theorem execKeyInstallLink_keeps : ∀ p0 p1 p2 s, Good s (@execKeyInstallLink p0 p1 p2 s) := by
  intro p0 p1 p2 s
  unfold execKeyInstallLink
  refine ⟨_, rfl, ?_⟩
  unfold State.perform
  split
  · refine Keeps.ite ?_ ?_
    · extract_lets +onlyGivenNames -merge x0
      try clear_value x0
      extract_lets +onlyGivenNames -merge x1
      have h2 : Keeps s x1.2 := by
        unfold x1
        try beta_reduce
        extract_lets +onlyGivenNames -merge x3
        try clear_value x3
        extract_lets +onlyGivenNames -merge x4
        try clear_value x4
        extract_lets +onlyGivenNames -merge x5
        try clear_value x5
        extract_lets +onlyGivenNames -merge x6
        try clear_value x6
        split
        · refine Keeps.snd ?_
          exact (Keeps.refl _)
        · refine Keeps.iteP (fun (r : Sys2Proof.Machine.Result × Sys2Proof.Machine.State) => r.2) ?_ ?_
          · refine Keeps.snd ?_
            exact (Keeps.refl _)
          · refine Keeps.iteP (fun (r : Sys2Proof.Machine.Result × Sys2Proof.Machine.State) => r.2) ?_ ?_
            · refine Keeps.snd ?_
              exact (Keeps.refl _)
            · split
              · refine Keeps.snd ?_
                exact (Keeps.refl _)
              · extract_lets +onlyGivenNames -merge x7
                have h8 : Keeps s x7.2 := by
                  unfold x7
                  try beta_reduce
                  exact Keeps.trans (Keeps.refl _) (State.free_keeps _ _)
                try clear_value x7
                extract_lets +onlyGivenNames -merge x9
                have h10 : Keeps s x9 := by
                  unfold x9
                  try beta_reduce
                  exact h8
                try clear_value x9
                extract_lets +onlyGivenNames -merge x11
                try clear_value x11
                extract_lets +onlyGivenNames -merge x12
                try clear_value x12
                extract_lets +onlyGivenNames -merge x13
                have h14 : Keeps s x13 := by
                  unfold x13
                  try beta_reduce
                  exact Keeps.trans h10 (State.setPart_keeps _ _ _)
                try clear_value x13
                extract_lets +onlyGivenNames -merge x15
                have h16 : Keeps s x15 := by
                  unfold x15
                  try beta_reduce
                  exact Keeps.trans h14 (State.setKey_keeps _ _ _)
                try clear_value x15
                refine Keeps.snd ?_
                exact Keeps.trans h16 (State.announceAll_keeps _ _ _)
      try clear_value x1
      exact Keeps.trans h2 (State.finish_keeps _ _ _)
    · exact (Keeps.refl _)
  · exact (Keeps.refl _)

theorem execKeyInstallMemory_keeps : ∀ p0 s, Good s (@execKeyInstallMemory p0 s) := by
  intro p0 s
  unfold execKeyInstallMemory
  refine ⟨_, rfl, ?_⟩
  refine Keeps.trans ?_ (State.perform_keeps _ _ _ _ _ ?_)
  · exact (Keeps.refl _)
  · intro y0 y1
    try beta_reduce
    extract_lets +onlyGivenNames -merge x2
    try clear_value x2
    extract_lets +onlyGivenNames -merge x3
    try clear_value x3
    extract_lets +onlyGivenNames -merge x4
    try clear_value x4
    refine Keeps.iteP (fun (r : Sys2Proof.Machine.Result × Sys2Proof.Machine.State) => r.2) ?_ ?_
    · refine Keeps.snd ?_
      exact (Keeps.refl _)
    · refine Keeps.iteP (fun (r : Sys2Proof.Machine.Result × Sys2Proof.Machine.State) => r.2) ?_ ?_
      · refine Keeps.snd ?_
        exact (Keeps.refl _)
      · refine Keeps.iteP (fun (r : Sys2Proof.Machine.Result × Sys2Proof.Machine.State) => r.2) ?_ ?_
        · refine Keeps.snd ?_
          exact (Keeps.refl _)
        · refine Keeps.iteP (fun (r : Sys2Proof.Machine.Result × Sys2Proof.Machine.State) => r.2) ?_ ?_
          · refine Keeps.snd ?_
            exact (Keeps.refl _)
          · refine Keeps.iteP (fun (r : Sys2Proof.Machine.Result × Sys2Proof.Machine.State) => r.2) ?_ ?_
            · refine Keeps.snd ?_
              exact (Keeps.refl _)
            · refine Keeps.iteP (fun (r : Sys2Proof.Machine.Result × Sys2Proof.Machine.State) => r.2) ?_ ?_
              · refine Keeps.snd ?_
                exact (Keeps.refl _)
              · extract_lets +onlyGivenNames -merge x5
                have h6 : Keeps y0 x5 := by
                  unfold x5
                  exact Keeps.trans (Keeps.refl _) (State.memoryKey_keeps _ _ _)
                try clear_value x5
                extract_lets +onlyGivenNames -merge x7
                have h8 : Keeps y0 x7 := by
                  unfold x7
                  refine Keeps.foldl ?_ ?_
                  · exact h6
                  · intro a10 b11 ht9
                    try beta_reduce
                    exact Keeps.trans ht9 (State.setChan_keeps _ _ _)
                try clear_value x7
                refine Keeps.snd ?_
                exact h8

theorem execMemoryRefillEnd_keeps : ∀ p0 s, Good s (@execMemoryRefillEnd p0 s) := by
  intro p0 s
  unfold execMemoryRefillEnd
  refine ⟨_, rfl, ?_⟩
  refine Keeps.foldl ?_ ?_
  · exact (Keeps.refl _)
  · intro a1 b2 ht0
    try beta_reduce
    refine Keeps.ite ?_ ?_
    · refine Keeps.trans ?_ (State.setChan_keeps _ _ _)
      · exact Keeps.trans ht0 (State.fillChan_keeps _ _)
    · exact ht0

theorem execKeyInstallImageVerify_keeps : ∀ p0 p1 p2 s, Good s (@execKeyInstallImageVerify p0 p1 p2 s) := by
  intro p0 p1 p2 s
  unfold execKeyInstallImageVerify
  refine ⟨_, rfl, ?_⟩
  refine Keeps.trans ?_ (State.perform_keeps _ _ _ _ _ ?_)
  · exact (Keeps.refl _)
  · intro y0 y1
    try beta_reduce
    extract_lets +onlyGivenNames -merge x2
    try clear_value x2
    extract_lets +onlyGivenNames -merge x3
    try clear_value x3
    extract_lets +onlyGivenNames -merge x4
    try clear_value x4
    split
    · refine Keeps.snd ?_
      exact (Keeps.refl _)
    · refine Keeps.iteP (fun (r : Sys2Proof.Machine.Result × Sys2Proof.Machine.State) => r.2) ?_ ?_
      · refine Keeps.snd ?_
        exact (Keeps.refl _)
      · split
        · refine Keeps.snd ?_
          exact (Keeps.refl _)
        · extract_lets +onlyGivenNames -merge x5
          try clear_value x5
          extract_lets +onlyGivenNames -merge x6
          try clear_value x6
          extract_lets +onlyGivenNames -merge x7
          try clear_value x7
          refine Keeps.iteP (fun (r : Sys2Proof.Machine.Result × Sys2Proof.Machine.State) => r.2) ?_ ?_
          · refine Keeps.snd ?_
            exact (Keeps.refl _)
          · extract_lets +onlyGivenNames -merge x8
            have h9 : Keeps y0 x8 := by
              unfold x8
              exact Keeps.trans (Keeps.refl _) (State.putStaged_keeps _ _ _)
            try clear_value x8
            extract_lets +onlyGivenNames -merge x10 x11
            try clear_value x10
            have h12 : Keeps y0 x11 := by
              unfold x11
              exact Keeps.trans h9 (State.setKey_keeps _ _ _)
            try clear_value x11
            refine Keeps.snd ?_
            exact h12

theorem execDebugConsentGrant_keeps : ∀ p0 s, Good s (@execDebugConsentGrant p0 s) := by
  intro p0 s
  unfold execDebugConsentGrant
  refine ⟨_, rfl, ?_⟩
  unfold State.perform
  split
  · refine Keeps.ite ?_ ?_
    · extract_lets +onlyGivenNames -merge x0
      have h1 : Keeps s x0.2 := by
        unfold x0
        try beta_reduce
        extract_lets +onlyGivenNames -merge x2
        try clear_value x2
        refine Keeps.snd ?_
        exact (Keeps.refl _)
      try clear_value x0
      exact Keeps.trans h1 (State.finish_keeps _ _ _)
    · exact (Keeps.refl _)
  · exact (Keeps.refl _)

theorem execDebugConsentRevoke_keeps : ∀ p0 s, Good s (@execDebugConsentRevoke p0 s) := by
  intro p0 s
  unfold execDebugConsentRevoke
  refine ⟨_, rfl, ?_⟩
  unfold State.perform
  split
  · refine Keeps.ite ?_ ?_
    · extract_lets +onlyGivenNames -merge x0
      have h1 : Keeps s x0.2 := by
        unfold x0
        try beta_reduce
        extract_lets +onlyGivenNames -merge x2
        try clear_value x2
        extract_lets +onlyGivenNames -merge x3
        try clear_value x3
        extract_lets +onlyGivenNames -merge x4
        have h5 : Keeps s x4 := by
          unfold x4
          try beta_reduce
          refine Keeps.foldl ?_ ?_
          · exact (Keeps.refl _)
          · intro a6 b7 ht8
            try beta_reduce
            exact Keeps.trans ht8 (State.setRing_keeps _ _ _)
        try clear_value x4
        extract_lets +onlyGivenNames -merge x9
        have h10 : Keeps s x9 := by
          unfold x9
          try beta_reduce
          exact Keeps.trans h5 (State.andNotReg_keeps _ _ _)
        try clear_value x9
        exact h10
      try clear_value x0
      exact Keeps.trans h1 (State.finish_keeps _ _ _)
    · exact (Keeps.refl _)
  · exact (Keeps.refl _)

end Sys2Proof.Machine
end

