-- ==== Sys2Proof/Laws/CmdSeq.lean ====
section
/-! SUPPORT. What the operations of Machine/CmdSeq.lean keep: the queue of waiting commands and the canonical form of the state
(Keeps); and that its commands answer a next state (Good). -/

namespace Sys2Proof.Machine

theorem State.loadSeq_keeps : ∀ s p1, Keeps s (@State.loadSeq s p1).2.2 := by
  intro s p1
  unfold State.loadSeq
  extract_lets +onlyGivenNames -merge x0
  have h1 : Keeps s x0.2.2 := by
    unfold x0
    exact Keeps.trans (Keeps.refl _) (State.ccRead_keeps _ _ _ _)
  try clear_value x0
  refine Keeps.sndP (fun (r : Bool × Sys2Proof.Machine.State) => r.2) ?_
  refine Keeps.snd ?_
  exact h1

theorem State.setSeqState_keeps : ∀ s p1 p2, Keeps s (@State.setSeqState s p1 p2) := by
  intro s p1 p2
  unfold State.setSeqState
  exact Keeps.trans (Keeps.refl _) (State.ccWrite_keeps _ _ _ _ _)

theorem State.bumpGen_keeps : ∀ s p1 p2, Keeps s (@State.bumpGen s p1 p2) := by
  intro s p1 p2
  unfold State.bumpGen
  exact Keeps.trans (Keeps.refl _) (State.ccWrite_keeps _ _ _ _ _)

theorem State.listEntry_keeps : ∀ s p1 p2 p3, Keeps s (@State.listEntry s p1 p2 p3).2.2 := by
  intro s p1 p2 p3
  unfold State.listEntry
  extract_lets +onlyGivenNames -merge x0
  have h1 : Keeps s x0.2.2 := by
    unfold x0
    exact Keeps.trans (Keeps.refl _) (State.partRead_keeps _ _ _ _)
  try clear_value x0
  refine Keeps.sndP (fun (r : Bool × Sys2Proof.Machine.State) => r.2) ?_
  refine Keeps.snd ?_
  exact h1

theorem State.putListEntry_keeps : ∀ s p1 p2 p3 p4, Keeps s (@State.putListEntry s p1 p2 p3 p4) := by
  intro s p1 p2 p3 p4
  unfold State.putListEntry
  exact Keeps.trans (Keeps.refl _) (State.partWrite_keeps _ _ _ _)

theorem State.seqOp_keeps : ∀ s p1 p2 p3, (∀ y0 y1 y2 y3, Keeps y0 (p3 y0 y1 y2 y3).2.2.2) → Keeps s (@State.seqOp s p1 p2 p3).2.2.2 := by
  intro s p1 p2 p3 hf3222
  unfold State.seqOp
  extract_lets +onlyGivenNames -merge x0
  try clear_value x0
  extract_lets +onlyGivenNames -merge x1
  have h2 : ∀ y3 y4, Keeps y4 (x1 y3 y4).2.2.2 := by
    intro y3 y4
    unfold x1
    try beta_reduce
    refine Keeps.sndP (fun (r : Nat × Nat × Sys2Proof.Machine.State) => r.2.2) ?_
    refine Keeps.sndP (fun (r : Nat × Sys2Proof.Machine.State) => r.2) ?_
    refine Keeps.snd ?_
    exact (Keeps.refl _)
  try clear_value x1
  split
  · refine Keeps.trans ?_ (h2 _ _)
    exact (Keeps.refl _)
  · refine Keeps.iteP (fun (r : Option Sys2Proof.Machine.Result × Nat × Nat × Sys2Proof.Machine.State) => r.2.2.2) ?_ ?_
    · refine Keeps.trans ?_ (h2 _ _)
      exact (Keeps.refl _)
    · extract_lets +onlyGivenNames -merge x5
      have h6 : Keeps s x5.2.2 := by
        unfold x5
        exact Keeps.trans (Keeps.refl _) (State.loadSeq_keeps _ _)
      try clear_value x5
      refine Keeps.iteP (fun (r : Option Sys2Proof.Machine.Result × Nat × Nat × Sys2Proof.Machine.State) => r.2.2.2) ?_ ?_
      · refine Keeps.trans ?_ (h2 _ _)
        exact h6
      · refine Keeps.iteP (fun (r : Option Sys2Proof.Machine.Result × Nat × Nat × Sys2Proof.Machine.State) => r.2.2.2) ?_ ?_
        · refine Keeps.trans ?_ (h2 _ _)
          exact h6
        · split
          · refine Keeps.trans ?_ (hf3222 _ _ _ _)
            exact h6
          · refine Keeps.trans ?_ (h2 _ _)
            exact h6

theorem execSeqOpen_keeps : ∀ p0 s, Good s (@execSeqOpen p0 s) := by
  intro p0 s
  unfold execSeqOpen
  refine ⟨_, rfl, ?_⟩
  refine Keeps.trans ?_ (State.start_keeps _ _ _ _ _ ?_)
  · exact (Keeps.refl _)
  · intro y0 y1
    try beta_reduce
    refine Keeps.trans ?_ (State.seqOp_keeps _ _ _ _ ?_)
    · exact (Keeps.refl _)
    · intro y2 y3 y4 y5
      try beta_reduce
      extract_lets +onlyGivenNames -merge x6
      try clear_value x6
      extract_lets +onlyGivenNames -merge x7
      try clear_value x7
      extract_lets +onlyGivenNames -merge x8
      try clear_value x8
      extract_lets +onlyGivenNames -merge x9
      try clear_value x9
      refine Keeps.iteP (fun (r : Option Sys2Proof.Machine.Result × Nat × Nat × Sys2Proof.Machine.State) => r.2.2.2) ?_ ?_
      · refine Keeps.sndP (fun (r : Nat × Nat × Sys2Proof.Machine.State) => r.2.2) ?_
        refine Keeps.sndP (fun (r : Nat × Sys2Proof.Machine.State) => r.2) ?_
        refine Keeps.snd ?_
        exact (Keeps.refl _)
      · extract_lets +onlyGivenNames -merge x10
        have h11 : Keeps y2 x10 := by
          unfold x10
          exact Keeps.trans (Keeps.refl _) (State.partWrite_keeps _ _ _ _)
        try clear_value x10
        refine Keeps.sndP (fun (r : Nat × Nat × Sys2Proof.Machine.State) => r.2.2) ?_
        refine Keeps.sndP (fun (r : Nat × Sys2Proof.Machine.State) => r.2) ?_
        refine Keeps.snd ?_
        exact Keeps.trans h11 (State.ccWrite_keeps _ _ _ _ _)

theorem State.allResident_keeps : ∀ s p1 p2 p3, Keeps s (@State.allResident s p1 p2 p3).2.2 := by
  intro s p1 p2 p3
  unfold State.allResident
  refine Keeps.foldlP (fun (r : Bool × Bool × Sys2Proof.Machine.State) => r.2.2) ?_ ?_
  · refine Keeps.sndP (fun (r : Bool × Sys2Proof.Machine.State) => r.2) ?_
    refine Keeps.snd ?_
    exact (Keeps.refl _)
  · intro a1 b2 ht0
    try beta_reduce
    extract_lets +onlyGivenNames -merge x3
    have h4 : Keeps s x3.2.2 := by
      unfold x3
      exact Keeps.trans ht0 (State.listEntry_keeps _ _ _ _)
    try clear_value x3
    refine Keeps.sndP (fun (r : Bool × Sys2Proof.Machine.State) => r.2) ?_
    refine Keeps.snd ?_
    exact h4

theorem execSeqUnpark_keeps : ∀ p0 s, Good s (@execSeqUnpark p0 s) := by
  intro p0 s
  unfold execSeqUnpark
  refine ⟨_, rfl, ?_⟩
  refine Keeps.trans ?_ (State.start_keeps _ _ _ _ _ ?_)
  · exact (Keeps.refl _)
  · intro y0 y1
    try beta_reduce
    refine Keeps.trans ?_ (State.seqOp_keeps _ _ _ _ ?_)
    · exact (Keeps.refl _)
    · intro y2 y3 y4 y5
      try beta_reduce
      extract_lets +onlyGivenNames -merge x6
      have h7 : Keeps y2 x6.2.2 := by
        unfold x6
        exact Keeps.trans (Keeps.refl _) (State.allResident_keeps _ _ _ _)
      try clear_value x6
      refine Keeps.iteP (fun (r : Option Sys2Proof.Machine.Result × Nat × Nat × Sys2Proof.Machine.State) => r.2.2.2) ?_ ?_
      · refine Keeps.sndP (fun (r : Nat × Nat × Sys2Proof.Machine.State) => r.2.2) ?_
        refine Keeps.sndP (fun (r : Nat × Sys2Proof.Machine.State) => r.2) ?_
        refine Keeps.snd ?_
        exact h7
      · refine Keeps.iteP (fun (r : Option Sys2Proof.Machine.Result × Nat × Nat × Sys2Proof.Machine.State) => r.2.2.2) ?_ ?_
        · refine Keeps.sndP (fun (r : Nat × Nat × Sys2Proof.Machine.State) => r.2.2) ?_
          refine Keeps.sndP (fun (r : Nat × Sys2Proof.Machine.State) => r.2) ?_
          refine Keeps.snd ?_
          exact h7
        · refine Keeps.sndP (fun (r : Nat × Nat × Sys2Proof.Machine.State) => r.2.2) ?_
          refine Keeps.sndP (fun (r : Nat × Sys2Proof.Machine.State) => r.2) ?_
          refine Keeps.snd ?_
          exact Keeps.trans h7 (State.setSeqState_keeps _ _ _)

theorem execSeqRead_keeps : ∀ p0 s, Good s (@execSeqRead p0 s) := by
  intro p0 s
  unfold execSeqRead
  refine ⟨_, rfl, ?_⟩
  refine Keeps.trans ?_ (State.perform_keeps _ _ _ _ _ ?_)
  · exact (Keeps.refl _)
  · intro y0 y1
    try beta_reduce
    extract_lets +onlyGivenNames -merge x2
    try clear_value x2
    split
    · refine Keeps.snd ?_
      exact (Keeps.refl _)
    · refine Keeps.iteP (fun (r : Sys2Proof.Machine.Result × Sys2Proof.Machine.State) => r.2) ?_ ?_
      · refine Keeps.snd ?_
        exact (Keeps.refl _)
      · extract_lets +onlyGivenNames -merge x3
        have h4 : Keeps y0 x3.2.2 := by
          unfold x3
          exact Keeps.trans (Keeps.refl _) (State.ccRead_keeps _ _ _ _)
        try clear_value x3
        refine Keeps.iteP (fun (r : Sys2Proof.Machine.Result × Sys2Proof.Machine.State) => r.2) ?_ ?_
        · refine Keeps.snd ?_
          exact h4
        · refine Keeps.snd ?_
          exact h4

theorem State.forkEntry_keeps : ∀ s p1 p2 p3 p4 p5 p6, Keeps s (@State.forkEntry s p1 p2 p3 p4 p5 p6).2 := by
  intro s p1 p2 p3 p4 p5 p6
  unfold State.forkEntry
  refine Keeps.iteP (fun (r : Sys2Proof.Machine.Forked × Sys2Proof.Machine.State) => r.2) ?_ ?_
  · refine Keeps.snd ?_
    exact (Keeps.refl _)
  · extract_lets +onlyGivenNames -merge x0
    have h1 : Keeps s x0.2.2 := by
      unfold x0
      exact Keeps.trans (Keeps.refl _) (State.listEntry_keeps _ _ _ _)
    try clear_value x0
    extract_lets +onlyGivenNames -merge x2
    try clear_value x2
    extract_lets +onlyGivenNames -merge x3
    have h4 : Keeps s x3 := by
      unfold x3
      exact h1
    try clear_value x3
    refine Keeps.iteP (fun (r : Sys2Proof.Machine.Forked × Sys2Proof.Machine.State) => r.2) ?_ ?_
    · refine Keeps.snd ?_
      exact h4
    · refine Keeps.iteP (fun (r : Sys2Proof.Machine.Forked × Sys2Proof.Machine.State) => r.2) ?_ ?_
      · refine Keeps.snd ?_
        exact h4
      · extract_lets +onlyGivenNames -merge x5
        have h6 : Keeps s x5.st := by
          unfold x5
          refine Keeps.trans ?_ (State.partAtomic_keeps _ _ _ _ _ ?_)
          · exact h4
          · intro y7 y8
            try beta_reduce
            exact Keeps.trans (Keeps.refl _) (State.refinc_keeps _ _ _)
        try clear_value x5
        refine Keeps.iteP (fun (r : Sys2Proof.Machine.Forked × Sys2Proof.Machine.State) => r.2) ?_ ?_
        · refine Keeps.snd ?_
          exact h6
        · extract_lets +onlyGivenNames -merge x9
          have h10 : Keeps s x9 := by
            unfold x9
            exact Keeps.trans h6 (State.putListEntry_keeps _ _ _ _ _)
          try clear_value x9
          refine Keeps.snd ?_
          exact h10

theorem State.unfork_keeps : ∀ s p1 p2 p3 p4, Keeps s (@State.unfork s p1 p2 p3 p4) := by
  intro s p1 p2 p3 p4
  unfold State.unfork
  refine Keeps.foldl ?_ ?_
  · exact (Keeps.refl _)
  · intro a0 b1 ht2
    try beta_reduce
    refine Keeps.trans ?_ (State.putListEntry_keeps _ _ _ _ _)
    unfold State.partAtomic
    split
    · refine Keeps.iteP (fun (r : Sys2Proof.Machine.ARes) => r.st) ?_ ?_
      · exact ht2
      · beta_reduce
        exact Keeps.trans ht2 (State.refdec_keeps _ _ _)
    · exact ht2

theorem execSeqFork_keeps : ∀ p0 s, Good s (@execSeqFork p0 s) := by
  intro p0 s
  unfold execSeqFork
  refine ⟨_, rfl, ?_⟩
  refine Keeps.trans ?_ (State.start_keeps _ _ _ _ _ ?_)
  · exact (Keeps.refl _)
  · intro y0 y1
    try beta_reduce
    refine Keeps.trans ?_ (State.seqOp_keeps _ _ _ _ ?_)
    · exact (Keeps.refl _)
    · intro y2 y3 y4 y5
      try beta_reduce
      extract_lets +onlyGivenNames -merge x6
      try clear_value x6
      extract_lets +onlyGivenNames -merge x7
      have h8 : ∀ y9 y10, Keeps y10 (x7 y9 y10).2.2.2 := by
        intro y9 y10
        unfold x7
        try beta_reduce
        refine Keeps.sndP (fun (r : Nat × Nat × Sys2Proof.Machine.State) => r.2.2) ?_
        refine Keeps.sndP (fun (r : Nat × Sys2Proof.Machine.State) => r.2) ?_
        refine Keeps.snd ?_
        exact (Keeps.refl _)
      try clear_value x7
      extract_lets +onlyGivenNames -merge x11
      try clear_value x11
      split
      · refine Keeps.sndP (fun (r : Nat × Nat × Sys2Proof.Machine.State) => r.2.2) ?_
        refine Keeps.sndP (fun (r : Nat × Sys2Proof.Machine.State) => r.2) ?_
        refine Keeps.snd ?_
        exact (Keeps.refl _)
      · extract_lets +onlyGivenNames -merge x12
        have h13 : Keeps y2 x12.2.2 := by
          unfold x12
          exact Keeps.trans (Keeps.refl _) (State.loadSeq_keeps _ _)
        try clear_value x12
        extract_lets +onlyGivenNames -merge x14
        have h15 : Keeps y2 x14 := by
          unfold x14
          exact h13
        try clear_value x14
        extract_lets +onlyGivenNames -merge x16
        try clear_value x16
        extract_lets +onlyGivenNames -merge x17
        try clear_value x17
        refine Keeps.iteP (fun (r : Option Sys2Proof.Machine.Result × Nat × Nat × Sys2Proof.Machine.State) => r.2.2.2) ?_ ?_
        · refine Keeps.trans ?_ (h8 _ _)
          exact h15
        · refine Keeps.iteP (fun (r : Option Sys2Proof.Machine.Result × Nat × Nat × Sys2Proof.Machine.State) => r.2.2.2) ?_ ?_
          · refine Keeps.trans ?_ (h8 _ _)
            exact h15
          · refine Keeps.iteP (fun (r : Option Sys2Proof.Machine.Result × Nat × Nat × Sys2Proof.Machine.State) => r.2.2.2) ?_ ?_
            · refine Keeps.trans ?_ (h8 _ _)
              exact h15
            · refine Keeps.iteP (fun (r : Option Sys2Proof.Machine.Result × Nat × Nat × Sys2Proof.Machine.State) => r.2.2.2) ?_ ?_
              · refine Keeps.trans ?_ (h8 _ _)
                exact h15
              · extract_lets +onlyGivenNames -merge x18
                try clear_value x18
                extract_lets +onlyGivenNames -merge x19
                try clear_value x19
                extract_lets +onlyGivenNames -merge x20
                have h21 : Keeps y2 x20.2.2 := by
                  unfold x20
                  exact Keeps.trans h15 (State.partRead_keeps _ _ _ _)
                try clear_value x20
                refine Keeps.iteP (fun (r : Option Sys2Proof.Machine.Result × Nat × Nat × Sys2Proof.Machine.State) => r.2.2.2) ?_ ?_
                · refine Keeps.trans ?_ (h8 _ _)
                  exact h21
                · extract_lets +onlyGivenNames -merge x22
                  try clear_value x22
                  extract_lets +onlyGivenNames -merge x23
                  have h24 : Keeps y2 x23.2 := by
                    unfold x23
                    refine Keeps.foldlP (fun (r : Sys2Proof.Machine.Forked × Sys2Proof.Machine.State) => r.2) ?_ ?_
                    · refine Keeps.snd ?_
                      exact h21
                    · intro a26 b27 ht25
                      try beta_reduce
                      extract_lets +onlyGivenNames -merge x28
                      try clear_value x28
                      exact Keeps.trans ht25 (State.forkEntry_keeps _ _ _ _ _ _ _)
                  try clear_value x23
                  split
                  · refine Keeps.trans ?_ (h8 _ _)
                    exact Keeps.trans h24 (State.unfork_keeps _ _ _ _ _)
                  · extract_lets +onlyGivenNames -merge x29
                    have h30 : Keeps y2 x29 := by
                      unfold x29
                      exact Keeps.trans h24 (State.partWrite_keeps _ _ _ _)
                    try clear_value x29
                    refine Keeps.sndP (fun (r : Nat × Nat × Sys2Proof.Machine.State) => r.2.2) ?_
                    refine Keeps.sndP (fun (r : Nat × Sys2Proof.Machine.State) => r.2) ?_
                    refine Keeps.snd ?_
                    exact Keeps.trans h30 (State.ccWrite_keeps _ _ _ _ _)

theorem execSeqPark_keeps : ∀ p0 s, Good s (@execSeqPark p0 s) := by
  intro p0 s
  unfold execSeqPark
  refine ⟨_, rfl, ?_⟩
  refine Keeps.trans ?_ (State.start_keeps _ _ _ _ _ ?_)
  · exact (Keeps.refl _)
  · intro y0 y1
    try beta_reduce
    refine Keeps.trans ?_ (State.seqOp_keeps _ _ _ _ ?_)
    · exact (Keeps.refl _)
    · intro y2 y3 y4 y5
      try beta_reduce
      refine Keeps.sndP (fun (r : Nat × Nat × Sys2Proof.Machine.State) => r.2.2) ?_
      refine Keeps.sndP (fun (r : Nat × Sys2Proof.Machine.State) => r.2) ?_
      refine Keeps.snd ?_
      exact Keeps.trans (Keeps.refl _) (State.setSeqState_keeps _ _ _)

theorem execParkDrainTimeout_keeps : ∀ p0 s, Good s (@execParkDrainTimeout p0 s) := by
  intro p0 s
  unfold execParkDrainTimeout
  split
  · refine ⟨_, rfl, ?_⟩
    exact (Keeps.refl _)
  · refine Good.ite ?_ ?_
    · refine ⟨_, rfl, ?_⟩
      refine Keeps.trans ?_ (State.finish_keeps _ _ _)
      · exact Keeps.trans (Keeps.refl _) (State.setSeqState_keeps _ _ _)
    · refine ⟨_, rfl, ?_⟩
      exact (Keeps.refl _)

theorem execSeqClose_keeps : ∀ p0 s, Good s (@execSeqClose p0 s) := by
  intro p0 s
  unfold execSeqClose
  refine ⟨_, rfl, ?_⟩
  refine Keeps.trans ?_ (State.start_keeps _ _ _ _ _ ?_)
  · exact (Keeps.refl _)
  · intro y0 y1
    try beta_reduce
    refine Keeps.trans ?_ (State.seqOp_keeps _ _ _ _ ?_)
    · exact (Keeps.refl _)
    · intro y2 y3 y4 y5
      try beta_reduce
      extract_lets +onlyGivenNames -merge x6
      try clear_value x6
      refine Keeps.sndP (fun (r : Nat × Nat × Sys2Proof.Machine.State) => r.2.2) ?_
      refine Keeps.sndP (fun (r : Nat × Sys2Proof.Machine.State) => r.2) ?_
      refine Keeps.snd ?_
      refine Keeps.trans ?_ (State.bumpGen_keeps _ _ _)
      · exact Keeps.trans (Keeps.refl _) (State.setSeqState_keeps _ _ _)

theorem State.closeSeq_keeps : ∀ s p1, Keeps s (@State.closeSeq s p1).2 := by
  intro s p1
  unfold State.closeSeq
  split
  · refine Keeps.snd ?_
    exact (Keeps.refl _)
  · extract_lets +onlyGivenNames -merge x0
    have h1 : Keeps s x0.2.2 := by
      unfold x0
      try beta_reduce
      exact Keeps.trans (Keeps.refl _) (State.loadSeq_keeps _ _)
    try clear_value x0
    split
    · refine Keeps.snd ?_
      exact Keeps.trans h1 (State.setSeqState_keeps _ _ _)
    · extract_lets +onlyGivenNames -merge x2
      have h3 : Keeps s x2.2 := by
        unfold x2
        try beta_reduce
        refine Keeps.foldlP (fun (r : Sys2Proof.Machine.ListSum × Sys2Proof.Machine.State) => r.2) ?_ ?_
        · exact h1
        · intro a4 b5 ht6
          try beta_reduce
          extract_lets +onlyGivenNames -merge x7
          have h8 : Keeps s x7.2.2 := by
            unfold x7
            try beta_reduce
            exact Keeps.trans ht6 (State.listEntry_keeps _ _ _ _)
          try clear_value x7
          refine Keeps.iteP (fun (r : Sys2Proof.Machine.ListSum × Sys2Proof.Machine.State) => r.2) ?_ ?_
          · exact h8
          · refine Keeps.iteP (fun (r : Sys2Proof.Machine.ListSum × Sys2Proof.Machine.State) => r.2) ?_ ?_
            · extract_lets +onlyGivenNames -merge x9
              have h10 : Keeps s x9.2 := by
                unfold x9
                try beta_reduce
                exact Keeps.trans h8 (State.release_keeps _ _ _ _ _)
              try clear_value x9
              exact h10
            · exact h8
      try clear_value x2
      refine Keeps.snd ?_
      exact Keeps.trans h3 (State.setSeqState_keeps _ _ _)

theorem State.hostOut_keeps : ∀ s p1 p2 p3 p4, Keeps s (@State.hostOut s p1 p2 p3 p4) := by
  intro s p1 p2 p3 p4
  unfold State.hostOut
  refine Keeps.trans ?_ (State.send_keeps _ _)
  · refine Keeps.trans ?_ (State.tally_keeps _ _ _ _ _)
    · exact Keeps.trans (Keeps.refl _) (State.tally_keeps _ _ _ _ _)

theorem State.hostIn_keeps : ∀ s p1 p2, Keeps s (@State.hostIn s p1 p2) := by
  intro s p1 p2
  unfold State.hostIn
  refine Keeps.trans ?_ (State.tally_keeps _ _ _ _ _)
  · exact Keeps.trans (Keeps.refl _) (State.tally_keeps _ _ _ _ _)

theorem State.pageOut_keeps : ∀ s p1 p2 p3, Keeps s (@State.pageOut s p1 p2 p3).2 := by
  intro s p1 p2 p3
  unfold State.pageOut
  refine Keeps.foldlP (fun (r : Bool × Sys2Proof.Machine.State) => r.2) ?_ ?_
  · refine Keeps.snd ?_
    exact (Keeps.refl _)
  · intro a1 b2 ht0
    try beta_reduce
    extract_lets +onlyGivenNames -merge x3
    have h4 : Keeps s x3.2.2 := by
      unfold x3
      exact Keeps.trans ht0 (State.ccRead_keeps _ _ _ _)
    try clear_value x3
    refine Keeps.snd ?_
    exact Keeps.trans h4 (State.hostOut_keeps _ _ _ _ _)

theorem State.evictEntry_keeps : ∀ s p1 p2 p3 p4 p5 p6, Keeps s (@State.evictEntry s p1 p2 p3 p4 p5 p6).2 := by
  intro s p1 p2 p3 p4 p5 p6
  unfold State.evictEntry
  extract_lets +onlyGivenNames -merge x0
  have h1 : Keeps s x0.2.2 := by
    unfold x0
    try beta_reduce
    exact Keeps.trans (Keeps.refl _) (State.listEntry_keeps _ _ _ _)
  try clear_value x0
  extract_lets +onlyGivenNames -merge x2
  try clear_value x2
  extract_lets +onlyGivenNames -merge x3
  have h4 : Keeps s x3 := by
    unfold x3
    try beta_reduce
    exact h1
  try clear_value x3
  refine Keeps.iteP (fun (r : Sys2Proof.Machine.ListSum × Sys2Proof.Machine.State) => r.2) ?_ ?_
  · exact h4
  · refine Keeps.iteP (fun (r : Sys2Proof.Machine.ListSum × Sys2Proof.Machine.State) => r.2) ?_ ?_
    · exact h4
    · split
      · exact h4
      · extract_lets +onlyGivenNames -merge x5
        have h6 : Keeps s x5.2 := by
          unfold x5
          try beta_reduce
          exact Keeps.trans h4 (State.pageOut_keeps _ _ _ _)
        try clear_value x5
        extract_lets +onlyGivenNames -merge x7
        try clear_value x7
        extract_lets +onlyGivenNames -merge x8
        have h9 : Keeps s x8.2 := by
          unfold x8
          try beta_reduce
          refine Keeps.trans ?_ (State.release_keeps _ _ _ _ _)
          exact Keeps.trans h6 (State.putListEntry_keeps _ _ _ _ _)
        try clear_value x8
        exact h9

theorem execSeqEvict_keeps : ∀ p0 s, Good s (@execSeqEvict p0 s) := by
  intro p0 s
  unfold execSeqEvict
  refine ⟨_, rfl, ?_⟩
  refine Keeps.trans ?_ (State.start_keeps _ _ _ _ _ ?_)
  · exact (Keeps.refl _)
  · intro y0 y1
    try beta_reduce
    refine Keeps.trans ?_ (State.seqOp_keeps _ _ _ _ ?_)
    · exact (Keeps.refl _)
    · intro y2 y3 y4 y5
      try beta_reduce
      extract_lets +onlyGivenNames -merge x6
      try clear_value x6
      refine Keeps.iteP (fun (r : Option Sys2Proof.Machine.Result × Nat × Nat × Sys2Proof.Machine.State) => r.2.2.2) ?_ ?_
      · refine Keeps.sndP (fun (r : Nat × Nat × Sys2Proof.Machine.State) => r.2.2) ?_
        refine Keeps.sndP (fun (r : Nat × Sys2Proof.Machine.State) => r.2) ?_
        refine Keeps.snd ?_
        exact (Keeps.refl _)
      · extract_lets +onlyGivenNames -merge x7
        have h8 : Keeps y2 x7.2 := by
          unfold x7
          refine Keeps.foldlP (fun (r : Sys2Proof.Machine.ListSum × Sys2Proof.Machine.State) => r.2) ?_ ?_
          · refine Keeps.snd ?_
            exact (Keeps.refl _)
          · intro a10 b11 ht9
            try beta_reduce
            exact Keeps.trans ht9 (State.evictEntry_keeps _ _ _ _ _ _ _)
        try clear_value x7
        refine Keeps.sndP (fun (r : Nat × Nat × Sys2Proof.Machine.State) => r.2.2) ?_
        refine Keeps.sndP (fun (r : Nat × Sys2Proof.Machine.State) => r.2) ?_
        refine Keeps.snd ?_
        exact h8

theorem State.restoreEntry_keeps : ∀ s p1 p2 p3 p4 p5 p6 p7, Keeps s (@State.restoreEntry s p1 p2 p3 p4 p5 p6 p7).2 := by
  intro s p1 p2 p3 p4 p5 p6 p7
  unfold State.restoreEntry
  extract_lets +onlyGivenNames -merge x0
  have h1 : Keeps s x0.2.2 := by
    unfold x0
    try beta_reduce
    exact Keeps.trans (Keeps.refl _) (State.listEntry_keeps _ _ _ _)
  try clear_value x0
  extract_lets +onlyGivenNames -merge x2
  try clear_value x2
  extract_lets +onlyGivenNames -merge x3
  have h4 : Keeps s x3 := by
    unfold x3
    try beta_reduce
    exact h1
  try clear_value x3
  refine Keeps.iteP (fun (r : Sys2Proof.Machine.ListSum × Sys2Proof.Machine.State) => r.2) ?_ ?_
  · exact h4
  · refine Keeps.iteP (fun (r : Sys2Proof.Machine.ListSum × Sys2Proof.Machine.State) => r.2) ?_ ?_
    · exact h4
    · refine Keeps.iteP (fun (r : Sys2Proof.Machine.ListSum × Sys2Proof.Machine.State) => r.2) ?_ ?_
      · exact h4
      · split
        · rename_i m5 m6 hq7
          have h8 : Keeps s m6 := Keeps.ofEq (fun (r : Sys2Proof.Machine.PageRes × Sys2Proof.Machine.State) => r.2) hq7 (by
            exact Keeps.trans h4 (State.alloc_keeps _ _ _ _ _))
          exact h8
        · rename_i m9 m10 m11 hq12
          have h13 : Keeps s m11 := Keeps.ofEq (fun (r : Sys2Proof.Machine.PageRes × Sys2Proof.Machine.State) => r.2) hq12 (by
            exact Keeps.trans h4 (State.alloc_keeps _ _ _ _ _))
          exact h13
        · rename_i m14 m15 m16 hq17
          have h18 : Keeps s m16 := Keeps.ofEq (fun (r : Sys2Proof.Machine.PageRes × Sys2Proof.Machine.State) => r.2) hq17 (by
            exact Keeps.trans h4 (State.alloc_keeps _ _ _ _ _))
          extract_lets +onlyGivenNames -merge x19
          try clear_value x19
          split
          · refine Keeps.snd ?_
            exact Keeps.trans h18 (State.release_keeps _ _ _ _ _)
          · extract_lets +onlyGivenNames -merge x20
            have h21 : Keeps s x20 := by
              unfold x20
              try beta_reduce
              exact Keeps.trans h18 (State.hostIn_keeps _ _ _)
            try clear_value x20
            extract_lets +onlyGivenNames -merge x22
            try clear_value x22
            extract_lets +onlyGivenNames -merge x23
            have h24 : Keeps s x23.2 := by
              unfold x23
              try beta_reduce
              exact Keeps.trans h21 (State.free_keeps _ _)
            try clear_value x23
            extract_lets +onlyGivenNames -merge x25
            try clear_value x25
            extract_lets +onlyGivenNames -merge x26
            have h27 : Keeps s x26 := by
              unfold x26
              try beta_reduce
              exact Keeps.trans h24 (State.ccWrite_keeps _ _ _ _ _)
            try clear_value x26
            refine Keeps.snd ?_
            exact Keeps.trans h27 (State.putListEntry_keeps _ _ _ _ _)

theorem execSeqRestore_keeps : ∀ p0 p1 s, Good s (@execSeqRestore p0 p1 s) := by
  intro p0 p1 s
  unfold execSeqRestore
  refine ⟨_, rfl, ?_⟩
  unfold State.start
  split
  · refine Keeps.ite ?_ ?_
    · extract_lets +onlyGivenNames -merge x0
      have h1 : Keeps s x0.2.2.2 := by
        unfold x0
        try beta_reduce
        unfold State.seqOp
        extract_lets +onlyGivenNames -merge x2
        try clear_value x2
        extract_lets +onlyGivenNames -merge x3
        have h6 : ∀ y4 y5, Keeps y5 (x3 y4 y5).2.2.2 := by
          intro y4 y5
          unfold x3
          try beta_reduce
          refine Keeps.sndP (fun (r : ℕ × ℕ × Sys2Proof.Machine.State) => r.2.2) ?_
          refine Keeps.sndP (fun (r : ℕ × Sys2Proof.Machine.State) => r.2) ?_
          refine Keeps.snd ?_
          exact (Keeps.refl _)
        try clear_value x3
        split
        · exact Keeps.trans (Keeps.refl _) (h6 _ _)
        · refine Keeps.iteP (fun (r : Option Sys2Proof.Machine.Result × ℕ × ℕ × Sys2Proof.Machine.State) => r.2.2.2) ?_ ?_
          · exact Keeps.trans (Keeps.refl _) (h6 _ _)
          · extract_lets +onlyGivenNames -merge x7
            have h8 : Keeps s x7.2.2 := by
              unfold x7
              try beta_reduce
              exact Keeps.trans (Keeps.refl _) (State.loadSeq_keeps _ _)
            try clear_value x7
            refine Keeps.iteP (fun (r : Option Sys2Proof.Machine.Result × ℕ × ℕ × Sys2Proof.Machine.State) => r.2.2.2) ?_ ?_
            · exact Keeps.trans h8 (h6 _ _)
            · refine Keeps.iteP (fun (r : Option Sys2Proof.Machine.Result × ℕ × ℕ × Sys2Proof.Machine.State) => r.2.2.2) ?_ ?_
              · exact Keeps.trans h8 (h6 _ _)
              · split
                · beta_reduce
                  extract_lets +onlyGivenNames -merge x9
                  try clear_value x9
                  refine Keeps.iteP (fun (r : Option Sys2Proof.Machine.Result × ℕ × ℕ × Sys2Proof.Machine.State) => r.2.2.2) ?_ ?_
                  · exact h8
                  · extract_lets +onlyGivenNames -merge x10
                    have h11 : Keeps s x10.2 := by
                      unfold x10
                      try beta_reduce
                      refine Keeps.foldlP (fun (r : Sys2Proof.Machine.ListSum × Sys2Proof.Machine.State) => r.2) ?_ ?_
                      · exact h8
                      · intro a12 b13 ht14
                        try beta_reduce
                        exact Keeps.trans ht14 (State.restoreEntry_keeps _ _ _ _ _ _ _ _)
                    try clear_value x10
                    exact h11
                · exact Keeps.trans h8 (h6 _ _)
      try clear_value x0
      exact Keeps.trans h1 (State.setCmd_keeps _ _ _)
    · exact (Keeps.refl _)
  · exact (Keeps.refl _)

end Sys2Proof.Machine
end

