-- ==== Sys2Proof/Laws/Scrub.lean ====
section
/-! SUPPORT. What the operations of Machine/Scrub.lean keep: the queue of waiting commands and the canonical form of the state
(Keeps); and that its commands answer a next state (Good). -/

namespace Sys2Proof.Machine

theorem State.scrubWord_keeps : ∀ s p1 p2 p3, Keeps s (@State.scrubWord s p1 p2 p3).2 := by
  intro s p1 p2 p3
  unfold State.scrubWord
  extract_lets +onlyGivenNames -merge x0
  try clear_value x0
  extract_lets +onlyGivenNames -merge x1
  try clear_value x1
  extract_lets +onlyGivenNames -merge x2
  try clear_value x2
  extract_lets +onlyGivenNames -merge x3
  have h4 : Keeps s x3 := by
    unfold x3
    exact Keeps.trans (Keeps.refl _) (State.countCheck_keeps _ _ _ _)
  try clear_value x3
  split
  · refine Keeps.snd ?_
    exact h4
  · refine Keeps.snd ?_
    refine Keeps.trans h4 (Keeps.mk rfl ?_ ?_ ?_ ?_) <;> intro hh <;>
      (first | exact hh | exact Mem.writeUnit_wf _ _ _ hh | exact Mem.zero_wf _ _ hh | exact regsForm_filter _ hh
             | exact SMap.wf_clear _ _ hh | exact SMap.wf_set _ _ hh | exact regsForm_set _ _ hh | exact Mem.empty_wf | rfl
             | exact SMap.wf_clear _ _ (SMap.wf_clear _ _ hh) | exact regsForm_clear _ _ (regsForm_clear _ _ hh))
  · refine Keeps.snd ?_
    refine Keeps.trans h4 (Keeps.mk rfl ?_ ?_ ?_ ?_) <;> intro hh <;>
      (first | exact hh | exact Mem.writeUnit_wf _ _ _ hh | exact Mem.zero_wf _ _ hh | exact regsForm_filter _ hh
             | exact SMap.wf_clear _ _ hh | exact SMap.wf_set _ _ hh | exact regsForm_set _ _ hh | exact Mem.empty_wf | rfl
             | exact SMap.wf_clear _ _ (SMap.wf_clear _ _ hh) | exact regsForm_clear _ _ (regsForm_clear _ _ hh))

theorem execScrubSram_keeps : ∀ p0 s, Good s (@execScrubSram p0 s) := by
  intro p0 s
  unfold execScrubSram
  refine ⟨_, rfl, ?_⟩
  unfold State.perform
  split
  · refine Keeps.ite ?_ ?_
    · extract_lets +onlyGivenNames -merge x0
      have h1 : Keeps s x0.2 := by
        unfold x0
        try beta_reduce
        extract_lets +onlyGivenNames -merge x2
        try clear_value x2
        extract_lets +onlyGivenNames -merge x3
        try clear_value x3
        extract_lets +onlyGivenNames -merge x4
        try clear_value x4
        refine Keeps.iteP (fun (r : Sys2Proof.Machine.Result × Sys2Proof.Machine.State) => r.2) ?_ ?_
        · refine Keeps.snd ?_
          exact (Keeps.refl _)
        · refine Keeps.iteP (fun (r : Sys2Proof.Machine.Result × Sys2Proof.Machine.State) => r.2) ?_ ?_
          · refine Keeps.snd ?_
            exact (Keeps.refl _)
          · extract_lets +onlyGivenNames -merge x5
            have h6 : Keeps s x5.2 := by
              unfold x5
              try beta_reduce
              refine Keeps.foldlP (fun (r : Sys2Proof.Machine.Found × Sys2Proof.Machine.State) => r.2) ?_ ?_
              · refine Keeps.snd ?_
                exact Keeps.trans (Keeps.refl _) (State.setBlocksNow_keeps _ _ _)
              · intro a7 b8 ht9
                try beta_reduce
                refine Keeps.iteP (fun (r : Sys2Proof.Machine.Found × Sys2Proof.Machine.State) => r.2) ?_ ?_
                · exact ht9
                · refine Keeps.foldlP (fun (r : Sys2Proof.Machine.Found × Sys2Proof.Machine.State) => r.2) ?_ ?_
                  · exact ht9
                  · intro a10 b11 ht12
                    try beta_reduce
                    exact Keeps.trans ht12 (State.scrubWord_keeps _ _ _ _)
            try clear_value x5
            refine Keeps.snd ?_
            exact Keeps.trans h6 (State.setBlocksNow_keeps _ _ _)
      try clear_value x0
      exact Keeps.trans h1 (State.finish_keeps _ _ _)
    · exact (Keeps.refl _)
  · exact (Keeps.refl _)

theorem State.raiseForMaint_keeps : ∀ s p1, Keeps s (@State.raiseForMaint s p1) := by
  intro s p1
  unfold State.raiseForMaint
  refine Keeps.foldl ?_ ?_
  · exact (Keeps.refl _)
  · intro a1 b2 ht0
    try beta_reduce
    refine Keeps.ite ?_ ?_
    · exact Keeps.trans ht0 (State.retarget_keeps _ _ _)
    · exact ht0

theorem State.endMaint_keeps : ∀ s p1, Keeps s (@State.endMaint s p1) := by
  intro s p1
  unfold State.endMaint
  refine Keeps.foldl ?_ ?_
  · exact (Keeps.refl _)
  · intro a0 b1 ht2
    try beta_reduce
    refine Keeps.ite ?_ ?_
    · exact ht2
    · split
      · exact Keeps.trans ht2 (State.retarget_keeps _ _ _)
      · exact Keeps.trans ht2 (State.retarget_keeps _ _ _)

theorem execScrubSlice_keeps : ∀ p0 s, Good s (@execScrubSlice p0 s) := by
  intro p0 s
  unfold execScrubSlice
  refine ⟨_, rfl, ?_⟩
  refine Keeps.trans ?_ (State.start_keeps _ _ _ _ _ ?_)
  · exact (Keeps.refl _)
  · intro y0 y1
    try beta_reduce
    extract_lets +onlyGivenNames -merge x2
    try clear_value x2
    extract_lets +onlyGivenNames -merge x3
    try clear_value x3
    extract_lets +onlyGivenNames -merge x4
    try clear_value x4
    refine Keeps.iteP (fun (r : Option Sys2Proof.Machine.Result × Nat × Nat × Sys2Proof.Machine.State) => r.2.2.2) ?_ ?_
    · refine Keeps.sndP (fun (r : Nat × Nat × Sys2Proof.Machine.State) => r.2.2) ?_
      refine Keeps.sndP (fun (r : Nat × Sys2Proof.Machine.State) => r.2) ?_
      refine Keeps.snd ?_
      exact (Keeps.refl _)
    · refine Keeps.iteP (fun (r : Option Sys2Proof.Machine.Result × Nat × Nat × Sys2Proof.Machine.State) => r.2.2.2) ?_ ?_
      · refine Keeps.sndP (fun (r : Nat × Nat × Sys2Proof.Machine.State) => r.2.2) ?_
        refine Keeps.sndP (fun (r : Nat × Sys2Proof.Machine.State) => r.2) ?_
        refine Keeps.snd ?_
        exact (Keeps.refl _)
      · extract_lets +onlyGivenNames -merge x5
        have h6 : Keeps y0 x5 := by
          unfold x5
          exact Keeps.trans (Keeps.refl _) (State.raiseForMaint_keeps _ _)
        try clear_value x5
        refine Keeps.sndP (fun (r : Nat × Nat × Sys2Proof.Machine.State) => r.2.2) ?_
        refine Keeps.sndP (fun (r : Nat × Sys2Proof.Machine.State) => r.2) ?_
        refine Keeps.snd ?_
        refine Keeps.foldl ?_ ?_
        · exact h6
        · intro a8 b9 ht7
          try beta_reduce
          refine Keeps.ite ?_ ?_
          · exact ht7
          · exact Keeps.trans ht7 (State.setSlice_keeps _ _ _)

theorem State.sumScrub_keeps : ∀ s p1, Keeps s (@State.sumScrub s p1).2 := by
  intro s p1
  unfold State.sumScrub
  extract_lets +onlyGivenNames -merge x0
  have h1 : Keeps s x0.2 := by
    unfold x0
    try beta_reduce
    refine Keeps.foldlP (fun (r : Sys2Proof.Machine.Found × Sys2Proof.Machine.State) => r.2) ?_ ?_
    · refine Keeps.snd ?_
      exact (Keeps.refl _)
    · intro a2 b3 ht4
      try beta_reduce
      split
      · extract_lets +onlyGivenNames -merge x5
        try clear_value x5
        extract_lets +onlyGivenNames -merge x6
        try clear_value x6
        extract_lets +onlyGivenNames -merge x7
        try clear_value x7
        extract_lets +onlyGivenNames -merge x8
        try clear_value x8
        refine Keeps.snd ?_
        exact Keeps.trans ht4 (State.setSlice_keeps _ _ _)
      · exact ht4
  try clear_value x0
  refine Keeps.snd ?_
  exact Keeps.trans h1 (State.endMaint_keeps _ _)

theorem State.endScrubSlice_keeps : ∀ s p1, KeepsIn s (fun (r : Sys2Proof.Machine.Result × Sys2Proof.Machine.State) => r.2) (@State.endScrubSlice s p1) := by
  intro s p1
  unfold State.endScrubSlice
  refine KeepsIn.ite ?_ ?_
  · refine KeepsIn.some ?_
    try beta_reduce
    exact Keeps.trans (Keeps.refl _) (State.sumScrub_keeps _ _)
  · exact KeepsIn.none

theorem execScrubHbm_keeps : ∀ p0 s, Good s (@execScrubHbm p0 s) := by
  intro p0 s
  unfold execScrubHbm
  refine Good.ite ?_ ?_
  · refine ⟨_, rfl, ?_⟩
    exact (Keeps.refl _)
  · refine ⟨_, rfl, ?_⟩
    unfold State.perform
    split
    · refine Keeps.ite ?_ ?_
      · extract_lets +onlyGivenNames -merge x0
        have h1 : Keeps s x0.2 := by
          unfold x0
          try beta_reduce
          extract_lets +onlyGivenNames -merge x2
          try clear_value x2
          extract_lets +onlyGivenNames -merge x3
          try clear_value x3
          extract_lets +onlyGivenNames -merge x4
          try clear_value x4
          extract_lets +onlyGivenNames -merge x5
          try clear_value x5
          refine Keeps.iteP (fun (r : Sys2Proof.Machine.Result × Sys2Proof.Machine.State) => r.2) ?_ ?_
          · refine Keeps.snd ?_
            exact (Keeps.refl _)
          · refine Keeps.iteP (fun (r : Sys2Proof.Machine.Result × Sys2Proof.Machine.State) => r.2) ?_ ?_
            · refine Keeps.snd ?_
              exact (Keeps.refl _)
            · extract_lets +onlyGivenNames -merge x6
              have h7 : Keeps s x6.2 := by
                unfold x6
                try beta_reduce
                refine Keeps.foldlP (fun (r : Sys2Proof.Machine.Found × Sys2Proof.Machine.State) => r.2) ?_ ?_
                · refine Keeps.snd ?_
                  exact (Keeps.refl _)
                · intro a8 b9 ht10
                  try beta_reduce
                  split
                  · exact ht10
                  · extract_lets +onlyGivenNames -merge x11
                    try clear_value x11
                    refine Keeps.iteP (fun (r : Sys2Proof.Machine.Found × Sys2Proof.Machine.State) => r.2) ?_ ?_
                    · exact ht10
                    · extract_lets +onlyGivenNames -merge x12
                      have h13 : Keeps s x12.2.2 := by
                        unfold x12
                        try beta_reduce
                        exact Keeps.trans ht10 (State.scrubHbm_keeps _ _ _)
                      try clear_value x12
                      exact h13
              try clear_value x6
              exact h7
        try clear_value x0
        exact Keeps.trans h1 (State.finish_keeps _ _ _)
      · exact (Keeps.refl _)
    · exact (Keeps.refl _)

theorem execSelfTest_keeps : ∀ p0 p1 s, Good s (@execSelfTest p0 p1 s) := by
  intro p0 p1 s
  unfold execSelfTest
  refine ⟨_, rfl, ?_⟩
  unfold State.perform
  split
  · refine Keeps.ite ?_ ?_
    · extract_lets +onlyGivenNames -merge x0
      have h1 : Keeps s x0.2 := by
        unfold x0
        try beta_reduce
        extract_lets +onlyGivenNames -merge x2
        try clear_value x2
        extract_lets +onlyGivenNames -merge x3
        try clear_value x3
        refine Keeps.iteP (fun (r : Sys2Proof.Machine.Result × Sys2Proof.Machine.State) => r.2) ?_ ?_
        · refine Keeps.snd ?_
          exact (Keeps.refl _)
        · extract_lets +onlyGivenNames -merge x4
          try clear_value x4
          extract_lets +onlyGivenNames -merge x5
          try clear_value x5
          extract_lets +onlyGivenNames -merge x6
          try clear_value x6
          extract_lets +onlyGivenNames -merge x7
          have h8 : Keeps s x7 := by
            unfold x7
            try beta_reduce
            exact Keeps.trans (Keeps.refl _) (State.setBlocksNow_keeps _ _ _)
          try clear_value x7
          extract_lets +onlyGivenNames -merge x9
          have h10 : Keeps s x9.2 := by
            unfold x9
            try beta_reduce
            exact Keeps.trans h8 (State.free_keeps _ _)
          try clear_value x9
          extract_lets +onlyGivenNames -merge x11
          try clear_value x11
          extract_lets +onlyGivenNames -merge x12
          have h13 : Keeps s x12 := by
            unfold x12
            try beta_reduce
            exact h10
          try clear_value x12
          extract_lets +onlyGivenNames -merge x14
          try clear_value x14
          extract_lets +onlyGivenNames -merge x15
          have h16 : Keeps s x15 := by
            unfold x15
            try beta_reduce
            refine Keeps.trans ?_ (State.setPart_keeps _ _ _)
            exact Keeps.trans h13 (State.zeroPart_keeps _ _)
          try clear_value x15
          extract_lets +onlyGivenNames -merge x17
          have h18 : Keeps s x17 := by
            unfold x17
            try beta_reduce
            refine Keeps.ite ?_ ?_
            · refine Keeps.trans ?_ (State.move_keeps _ _ _)
              refine Keeps.trans ?_ (State.clearPart_keeps _ _ _)
              exact Keeps.trans h16 (State.configPart_keeps _ _ _)
            · exact h13
          try clear_value x17
          extract_lets +onlyGivenNames -merge x19
          have h20 : Keeps s x19 := by
            unfold x19
            try beta_reduce
            exact Keeps.trans h18 (State.setBlocksNow_keeps _ _ _)
          try clear_value x19
          exact h20
      try clear_value x0
      exact Keeps.trans h1 (State.finish_keeps _ _ _)
    · exact (Keeps.refl _)
  · exact (Keeps.refl _)

theorem State.recordRepair_keeps : ∀ s p1 p2, Keeps s (@State.recordRepair s p1 p2) := by
  intro s p1 p2
  unfold State.recordRepair
  extract_lets +onlyGivenNames -merge x0
  try clear_value x0
  exact Keeps.trans (Keeps.refl _) (State.putBoth_keeps _ _ _ _ _)

theorem execSpareSliceRow_keeps : ∀ p0 s, Good s (@execSpareSliceRow p0 s) := by
  intro p0 s
  unfold execSpareSliceRow
  refine ⟨_, rfl, ?_⟩
  refine Keeps.trans ?_ (State.start_keeps _ _ _ _ _ ?_)
  · exact (Keeps.refl _)
  · intro y0 y1
    try beta_reduce
    extract_lets +onlyGivenNames -merge x2
    try clear_value x2
    extract_lets +onlyGivenNames -merge x3
    try clear_value x3
    extract_lets +onlyGivenNames -merge x4
    have h5 : ∀ y6, Keeps y0 (x4 y6).2.2.2 := by
      intro y6
      unfold x4
      try beta_reduce
      refine Keeps.sndP (fun (r : Nat × Nat × Sys2Proof.Machine.State) => r.2.2) ?_
      refine Keeps.sndP (fun (r : Nat × Sys2Proof.Machine.State) => r.2) ?_
      refine Keeps.snd ?_
      exact (Keeps.refl _)
    try clear_value x4
    refine Keeps.iteP (fun (r : Option Sys2Proof.Machine.Result × Nat × Nat × Sys2Proof.Machine.State) => r.2.2.2) ?_ ?_
    · exact h5 _
    · refine Keeps.iteP (fun (r : Option Sys2Proof.Machine.Result × Nat × Nat × Sys2Proof.Machine.State) => r.2.2.2) ?_ ?_
      · exact h5 _
      · extract_lets +onlyGivenNames -merge x7
        try clear_value x7
        extract_lets +onlyGivenNames -merge x8
        try clear_value x8
        extract_lets +onlyGivenNames -merge x9
        try clear_value x9
        refine Keeps.iteP (fun (r : Option Sys2Proof.Machine.Result × Nat × Nat × Sys2Proof.Machine.State) => r.2.2.2) ?_ ?_
        · refine Keeps.sndP (fun (r : Nat × Nat × Sys2Proof.Machine.State) => r.2.2) ?_
          refine Keeps.sndP (fun (r : Nat × Sys2Proof.Machine.State) => r.2) ?_
          refine Keeps.snd ?_
          exact (Keeps.refl _)
        · refine Keeps.iteP (fun (r : Option Sys2Proof.Machine.Result × Nat × Nat × Sys2Proof.Machine.State) => r.2.2.2) ?_ ?_
          · exact h5 _
          · refine Keeps.sndP (fun (r : Nat × Nat × Sys2Proof.Machine.State) => r.2.2) ?_
            refine Keeps.sndP (fun (r : Nat × Sys2Proof.Machine.State) => r.2) ?_
            refine Keeps.snd ?_
            refine Keeps.trans ?_ (State.setSlice_keeps _ _ _)
            · exact Keeps.trans (Keeps.refl _) (State.raiseForMaint_keeps _ _)

theorem State.endSpareRow_keeps : ∀ s p1, KeepsIn s (fun (r : Sys2Proof.Machine.Result × Sys2Proof.Machine.State) => r.2) (@State.endSpareRow s p1) := by
  intro s p1
  unfold State.endSpareRow
  extract_lets +onlyGivenNames -merge x0
  try clear_value x0
  extract_lets +onlyGivenNames -merge x1
  try clear_value x1
  extract_lets +onlyGivenNames -merge x2
  try clear_value x2
  extract_lets +onlyGivenNames -merge x3
  try clear_value x3
  refine KeepsIn.ite ?_ ?_
  · exact KeepsIn.none
  · refine KeepsIn.some ?_
    refine Keeps.snd ?_
    exact Keeps.trans (Keeps.refl _) (State.endMaint_keeps _ _)

theorem State.refreshUnit_keeps : ∀ s p1, Keeps s (@State.refreshUnit s p1) := by
  intro s p1
  unfold State.refreshUnit
  extract_lets +onlyGivenNames -merge x0
  try clear_value x0
  extract_lets +onlyGivenNames -merge x1
  have h2 : Keeps s x1 := by
    unfold x1
    try beta_reduce
    exact Keeps.trans (Keeps.refl _) (State.countUnit_keeps _ _ _)
  try clear_value x1
  refine Keeps.ite ?_ ?_
  · exact Keeps.trans h2 (State.rewriteUnit_keeps _ _ _)
  · exact h2

theorem execSpareHbmRow_keeps : ∀ p0 s, Good s (@execSpareHbmRow p0 s) := by
  intro p0 s
  unfold execSpareHbmRow
  refine ⟨_, rfl, ?_⟩
  refine Keeps.trans ?_ (State.perform_keeps _ _ _ _ _ ?_)
  · exact (Keeps.refl _)
  · intro y0 y1
    try beta_reduce
    extract_lets +onlyGivenNames -merge x2
    try clear_value x2
    extract_lets +onlyGivenNames -merge x3
    try clear_value x3
    extract_lets +onlyGivenNames -merge x4
    try clear_value x4
    refine Keeps.iteP (fun (r : Sys2Proof.Machine.Result × Sys2Proof.Machine.State) => r.2) ?_ ?_
    · refine Keeps.snd ?_
      exact (Keeps.refl _)
    · refine Keeps.iteP (fun (r : Sys2Proof.Machine.Result × Sys2Proof.Machine.State) => r.2) ?_ ?_
      · refine Keeps.snd ?_
        exact (Keeps.refl _)
      · extract_lets +onlyGivenNames -merge x5
        try clear_value x5
        refine Keeps.iteP (fun (r : Sys2Proof.Machine.Result × Sys2Proof.Machine.State) => r.2) ?_ ?_
        · refine Keeps.snd ?_
          exact (Keeps.refl _)
        · extract_lets +onlyGivenNames -merge x6
          try clear_value x6
          extract_lets +onlyGivenNames -merge x7
          have h8 : Keeps y0 x7 := by
            unfold x7
            refine Keeps.foldl ?_ ?_
            · exact (Keeps.refl _)
            · intro a10 b11 ht9
              try beta_reduce
              exact Keeps.trans ht9 (State.refreshUnit_keeps _ _)
          try clear_value x7
          extract_lets +onlyGivenNames -merge x12
          have h13 : Keeps y0 x12 := by
            unfold x12
            exact Keeps.trans h8 (State.setField_keeps _ _ _ _ _)
          try clear_value x12
          extract_lets +onlyGivenNames -merge x14 x15
          try clear_value x14
          have h16 : Keeps y0 x15 := by
            unfold x15
            exact Keeps.trans h13 (State.setChan_keeps _ _ _)
          try clear_value x15
          refine Keeps.snd ?_
          exact h16

theorem execSpareUcieLane_keeps : ∀ p0 s, Good s (@execSpareUcieLane p0 s) := by
  intro p0 s
  unfold execSpareUcieLane
  refine ⟨_, rfl, ?_⟩
  refine Keeps.trans ?_ (State.perform_keeps _ _ _ _ _ ?_)
  · exact (Keeps.refl _)
  · intro y0 y1
    try beta_reduce
    extract_lets +onlyGivenNames -merge x2
    try clear_value x2
    extract_lets +onlyGivenNames -merge x3
    try clear_value x3
    extract_lets +onlyGivenNames -merge x4
    try clear_value x4
    extract_lets +onlyGivenNames -merge x5
    try clear_value x5
    extract_lets +onlyGivenNames -merge x6
    try clear_value x6
    refine Keeps.iteP (fun (r : Sys2Proof.Machine.Result × Sys2Proof.Machine.State) => r.2) ?_ ?_
    · refine Keeps.snd ?_
      exact (Keeps.refl _)
    · extract_lets +onlyGivenNames -merge x7
      try clear_value x7
      extract_lets +onlyGivenNames -merge x8
      try clear_value x8
      refine Keeps.iteP (fun (r : Sys2Proof.Machine.Result × Sys2Proof.Machine.State) => r.2) ?_ ?_
      · refine Keeps.snd ?_
        exact (Keeps.refl _)
      · extract_lets +onlyGivenNames -merge x9
        have h10 : Keeps y0 x9 := by
          unfold x9
          exact Keeps.trans (Keeps.refl _) (State.setXing_keeps _ _ _)
        try clear_value x9
        refine Keeps.snd ?_
        exact Keeps.trans h10 (State.recordRepair_keeps _ _ _)

theorem State.sliceTo_keeps : ∀ s p1 p2 p3, Keeps s (@State.sliceTo s p1 p2 p3) := by
  intro s p1 p2 p3
  unfold State.sliceTo
  extract_lets +onlyGivenNames -merge x0
  try clear_value x0
  extract_lets +onlyGivenNames -merge x1
  try clear_value x1
  extract_lets +onlyGivenNames -merge x2
  try clear_value x2
  extract_lets +onlyGivenNames -merge x3 x4
  try clear_value x3
  have h5 : Keeps s x4 := by
    unfold x4
    exact Keeps.trans (Keeps.refl _) (State.setSlice_keeps _ _ _)
  try clear_value x4
  refine Keeps.trans ?_ (State.setField_keeps _ _ _ _ _)
  · exact Keeps.trans h5 (State.setReg_keeps _ _ _)

theorem State.remap_keeps : ∀ s p1 p2, Keeps s (@State.remap s p1 p2) := by
  intro s p1 p2
  unfold State.remap
  extract_lets +onlyGivenNames -merge x0
  try clear_value x0
  extract_lets +onlyGivenNames -merge x1
  try clear_value x1
  extract_lets +onlyGivenNames -merge x2
  have h3 : Keeps s x2 := by
    unfold x2
    try beta_reduce
    refine Keeps.trans ?_ (State.setField_keeps _ _ _ _ _)
    exact Keeps.trans (Keeps.refl _) (State.setField_keeps _ _ _ _ _)
  try clear_value x2
  refine Keeps.ite ?_ ?_
  · exact h3
  · extract_lets +onlyGivenNames -merge x4
    have h5 : Keeps s x4 := by
      unfold x4
      try beta_reduce
      refine Keeps.foldl ?_ ?_
      · exact h3
      · intro a6 b7 ht8
        try beta_reduce
        refine Keeps.foldl ?_ ?_
        · exact ht8
        · intro a9 b10 ht11
          try beta_reduce
          exact Keeps.trans ht11 (State.sliceTo_keeps _ _ _ _)
    try clear_value x4
    refine Keeps.foldl ?_ ?_
    · exact h5
    · intro a12 b13 ht14
      try beta_reduce
      exact Keeps.trans ht14 (State.setSlice_keeps _ _ _)

theorem State.clearMoved_keeps : ∀ s p1 p2, Keeps s (@State.clearMoved s p1 p2) := by
  intro s p1 p2
  unfold State.clearMoved
  refine Keeps.foldl ?_ ?_
  · exact (Keeps.refl _)
  · intro a1 b2 ht0
    try beta_reduce
    refine Keeps.foldl ?_ ?_
    · exact ht0
    · intro a4 b5 ht3
      try beta_reduce
      refine Keeps.trans ?_ (State.zeroSlice_keeps _ _)
      · exact Keeps.trans ht3 (State.zeroCore_keeps _ _)

theorem execSpareColumn_keeps : ∀ p0 s, Good s (@execSpareColumn p0 s) := by
  intro p0 s
  unfold execSpareColumn
  refine ⟨_, rfl, ?_⟩
  refine Keeps.trans ?_ (State.perform_keeps _ _ _ _ _ ?_)
  · exact (Keeps.refl _)
  · intro y0 y1
    try beta_reduce
    extract_lets +onlyGivenNames -merge x2
    try clear_value x2
    extract_lets +onlyGivenNames -merge x3
    try clear_value x3
    extract_lets +onlyGivenNames -merge x4
    try clear_value x4
    extract_lets +onlyGivenNames -merge x5
    try clear_value x5
    extract_lets +onlyGivenNames -merge x6
    try clear_value x6
    refine Keeps.iteP (fun (r : Sys2Proof.Machine.Result × Sys2Proof.Machine.State) => r.2) ?_ ?_
    · refine Keeps.snd ?_
      exact (Keeps.refl _)
    · refine Keeps.iteP (fun (r : Sys2Proof.Machine.Result × Sys2Proof.Machine.State) => r.2) ?_ ?_
      · refine Keeps.snd ?_
        exact (Keeps.refl _)
      · refine Keeps.iteP (fun (r : Sys2Proof.Machine.Result × Sys2Proof.Machine.State) => r.2) ?_ ?_
        · refine Keeps.snd ?_
          exact (Keeps.refl _)
        · extract_lets +onlyGivenNames -merge x7
          have h8 : Keeps y0 x7 := by
            unfold x7
            refine Keeps.trans ?_ (State.clearMoved_keeps _ _ _)
            · exact Keeps.trans (Keeps.refl _) (State.remap_keeps _ _ _)
          try clear_value x7
          extract_lets +onlyGivenNames -merge x9
          have h10 : Keeps y0 x9 := by
            unfold x9
            refine Keeps.foldl ?_ ?_
            · exact h8
            · intro a12 b13 ht11
              try beta_reduce
              exact Keeps.trans ht11 (State.setPart_keeps _ _ _)
          try clear_value x9
          extract_lets +onlyGivenNames -merge x14
          have h15 : Keeps y0 x14 := by
            unfold x14
            exact Keeps.trans h10 (State.recordRepair_keeps _ _ _)
          try clear_value x14
          extract_lets +onlyGivenNames -merge x16
          try clear_value x16
          extract_lets +onlyGivenNames -merge x17
          try clear_value x17
          refine Keeps.snd ?_
          exact h15

theorem State.retireBlock_keeps : ∀ s p1, Keeps s (@State.retireBlock s p1) := by
  intro s p1
  unfold State.retireBlock
  refine Keeps.ite ?_ ?_
  · exact (Keeps.refl _)
  · extract_lets +onlyGivenNames -merge x0
    try clear_value x0
    extract_lets +onlyGivenNames -merge x1
    have h2 : Keeps s x1 := by
      unfold x1
      exact Keeps.trans (Keeps.refl _) ⟨rfl, id, id, id, id⟩
    try clear_value x1
    extract_lets +onlyGivenNames -merge x3 x4
    try clear_value x3
    have h5 : Keeps s x4 := by
      unfold x4
      exact Keeps.trans h2 (State.setBlock_keeps _ _ _)
    try clear_value x4
    exact Keeps.trans h5 (State.countField_keeps _ _ _ _ _)

theorem execSpareBlock_keeps : ∀ p0 s, Good s (@execSpareBlock p0 s) := by
  intro p0 s
  unfold execSpareBlock
  refine ⟨_, rfl, ?_⟩
  refine Keeps.trans ?_ (State.perform_keeps _ _ _ _ _ ?_)
  · exact (Keeps.refl _)
  · intro y0 y1
    try beta_reduce
    extract_lets +onlyGivenNames -merge x2
    try clear_value x2
    extract_lets +onlyGivenNames -merge x3
    try clear_value x3
    refine Keeps.iteP (fun (r : Sys2Proof.Machine.Result × Sys2Proof.Machine.State) => r.2) ?_ ?_
    · refine Keeps.snd ?_
      exact (Keeps.refl _)
    · refine Keeps.iteP (fun (r : Sys2Proof.Machine.Result × Sys2Proof.Machine.State) => r.2) ?_ ?_
      · refine Keeps.snd ?_
        exact (Keeps.refl _)
      · refine Keeps.iteP (fun (r : Sys2Proof.Machine.Result × Sys2Proof.Machine.State) => r.2) ?_ ?_
        · refine Keeps.snd ?_
          exact (Keeps.refl _)
        · refine Keeps.snd ?_
          refine Keeps.trans ?_ (State.recordRepair_keeps _ _ _)
          · exact Keeps.trans (Keeps.refl _) (State.retireBlock_keeps _ _)

end Sys2Proof.Machine
end

