-- ==== Sys2Proof/Laws/Count.lean ====
section
/-! SUPPORT. What the operations of Machine/Count.lean keep: the queue of waiting commands and the canonical form of the state
(Keeps); and that its commands answer a next state (Good). -/

namespace Sys2Proof.Machine

theorem State.clearCounters_keeps : ∀ s p1 p2, Keeps s (@State.clearCounters s p1 p2) := by
  intro s p1 p2
  have hd : ∀ (l : List Nat) (m : SMap Nat), SMap.wf 0 m = true → SMap.wf 0 (l.foldl SMap.del m) = true := by
    intro l
    induction l with
    | nil => exact fun _ h => h
    | cons x l ih => exact fun m h => ih _ (SMap.wf_del x h)
  have hf : ∀ (l : List (Nat × List Nat)) (m : SMap Nat), SMap.wf 0 m = true →
      SMap.wf 0 (l.foldl (fun m u => u.2.foldl SMap.del m) m) = true := by
    intro l
    induction l with
    | nil => exact fun _ h => h
    | cons x l ih => exact fun m h => ih _ (hd _ _ h)
  exact ⟨rfl, id, id, id, fun h => hf _ _ h⟩

theorem execCounterConfig_keeps : ∀ p0 s, Good s (@execCounterConfig p0 s) := by
  intro p0 s
  unfold execCounterConfig
  refine ⟨_, rfl, ?_⟩
  refine Keeps.trans ?_ (State.perform_keeps _ _ _ _ _ ?_)
  · exact (Keeps.refl _)
  · intro y0 y1
    try beta_reduce
    extract_lets +onlyGivenNames -merge x2
    try clear_value x2
    extract_lets +onlyGivenNames -merge x3
    try clear_value x3
    extract_lets +onlyGivenNames -merge x4
    try clear_value x4
    extract_lets +onlyGivenNames -merge x5
    try clear_value x5
    extract_lets +onlyGivenNames -merge x6
    try clear_value x6
    extract_lets +onlyGivenNames -merge x7
    try clear_value x7
    extract_lets +onlyGivenNames -merge x8
    try clear_value x8
    extract_lets +onlyGivenNames -merge x9
    try clear_value x9
    extract_lets +onlyGivenNames -merge x10
    try clear_value x10
    extract_lets +onlyGivenNames -merge x11
    have h12 : Keeps y0 x11 := by
      unfold x11
      exact Keeps.trans (Keeps.refl _) (State.setField_keeps _ _ _ _ _)
    try clear_value x11
    extract_lets +onlyGivenNames -merge x13
    try clear_value x13
    refine Keeps.snd ?_
    refine Keeps.foldl ?_ ?_
    · exact h12
    · intro a15 b16 ht14
      try beta_reduce
      exact Keeps.trans ht14 (State.clearCounters_keeps _ _ _)

theorem execCounterRead_keeps : ∀ p0 s, Good s (@execCounterRead p0 s) := by
  intro p0 s
  unfold execCounterRead
  split
  · refine ⟨_, rfl, ?_⟩
    exact (Keeps.refl _)
  · extract_lets +onlyGivenNames -merge x0
    try clear_value x0
    refine Good.ite ?_ ?_
    · refine ⟨_, rfl, ?_⟩
      exact (Keeps.refl _)
    · refine ⟨_, rfl, ?_⟩
      unfold State.perform
      split
      · refine Keeps.ite ?_ ?_
        · extract_lets +onlyGivenNames -merge x1
          have h2 : Keeps s x1.2 := by
            unfold x1
            try beta_reduce
            extract_lets +onlyGivenNames -merge x3
            try clear_value x3
            extract_lets +onlyGivenNames -merge x4
            try clear_value x4
            extract_lets +onlyGivenNames -merge x5
            try clear_value x5
            extract_lets +onlyGivenNames -merge x6
            try clear_value x6
            extract_lets +onlyGivenNames -merge x7
            try clear_value x7
            extract_lets +onlyGivenNames -merge x8
            try clear_value x8
            refine Keeps.iteP (fun (r : Sys2Proof.Machine.Result × Sys2Proof.Machine.State) => r.2) ?_ ?_
            · refine Keeps.snd ?_
              exact (Keeps.refl _)
            · extract_lets +onlyGivenNames -merge x9
              try clear_value x9
              extract_lets +onlyGivenNames -merge x10
              try clear_value x10
              split
              · refine Keeps.snd ?_
                exact Keeps.trans (Keeps.refl _) (State.hostPut_keeps _ _ _ _)
              · refine Keeps.snd ?_
                exact (Keeps.refl _)
          try clear_value x1
          exact Keeps.trans h2 (State.finish_keeps _ _ _)
        · exact (Keeps.refl _)
      · exact (Keeps.refl _)

theorem State.setCfg_keeps : ∀ s p1 p2, Keeps s (@State.setCfg s p1 p2) := by
  intro s p1 p2
  unfold State.setCfg
  exact Keeps.trans (Keeps.refl _) ⟨rfl, id, id, id, id⟩

theorem State.traceBufPut_keeps : ∀ s p1 p2 p3, Keeps s (@State.traceBufPut s p1 p2 p3) := by
  intro s p1 p2 p3
  unfold State.traceBufPut
  split
  · exact Keeps.trans (Keeps.refl _) (State.ccWrite_keeps _ _ _ _ _)
  · exact (Keeps.refl _)

theorem State.dropStream_keeps : ∀ s p1, Keeps s (@State.dropStream s p1) := by
  intro s p1
  unfold State.dropStream
  exact Keeps.trans (Keeps.refl _) ⟨rfl, id, id, id, id⟩

theorem execTraceConfig_keeps : ∀ p0 s, Good s (@execTraceConfig p0 s) := by
  intro p0 s
  unfold execTraceConfig
  refine ⟨_, rfl, ?_⟩
  refine Keeps.trans ?_ (State.perform_keeps _ _ _ _ _ ?_)
  · exact (Keeps.refl _)
  · intro y0 y1
    try beta_reduce
    extract_lets +onlyGivenNames -merge x2
    try clear_value x2
    extract_lets +onlyGivenNames -merge x3
    try clear_value x3
    extract_lets +onlyGivenNames -merge x4
    try clear_value x4
    extract_lets +onlyGivenNames -merge x5
    try clear_value x5
    extract_lets +onlyGivenNames -merge x6
    try clear_value x6
    extract_lets +onlyGivenNames -merge x7
    try clear_value x7
    extract_lets +onlyGivenNames -merge x8
    try clear_value x8
    extract_lets +onlyGivenNames -merge x9
    try clear_value x9
    refine Keeps.iteP (fun (r : Sys2Proof.Machine.Result × Sys2Proof.Machine.State) => r.2) ?_ ?_
    · refine Keeps.snd ?_
      exact (Keeps.refl _)
    · extract_lets +onlyGivenNames -merge x10
      try clear_value x10
      extract_lets +onlyGivenNames -merge x11
      try clear_value x11
      extract_lets +onlyGivenNames -merge x12
      have h13 : Keeps y0 x12 := by
        unfold x12
        exact Keeps.trans (Keeps.refl _) ⟨rfl, id, id, id, id⟩
      try clear_value x12
      extract_lets +onlyGivenNames -merge x14
      have h15 : Keeps y0 x14 := by
        unfold x14
        refine Keeps.trans ?_ (State.setCfg_keeps _ _ _)
        · exact Keeps.trans h13 (State.dropStream_keeps _ _)
      try clear_value x14
      refine Keeps.snd ?_
      refine Keeps.ite ?_ ?_
      · exact Keeps.trans h15 (State.traceBufPut_keeps _ _ _ _)
      · exact h15

theorem execTraceRead_keeps : ∀ p0 s, Good s (@execTraceRead p0 s) := by
  intro p0 s
  unfold execTraceRead
  refine ⟨_, rfl, ?_⟩
  refine Keeps.trans ?_ (State.perform_keeps _ _ _ _ _ ?_)
  · exact (Keeps.refl _)
  · intro y0 y1
    try beta_reduce
    extract_lets +onlyGivenNames -merge x2
    try clear_value x2
    extract_lets +onlyGivenNames -merge x3
    try clear_value x3
    extract_lets +onlyGivenNames -merge x4
    try clear_value x4
    extract_lets +onlyGivenNames -merge x5
    try clear_value x5
    refine Keeps.iteP (fun (r : Sys2Proof.Machine.Result × Sys2Proof.Machine.State) => r.2) ?_ ?_
    · refine Keeps.snd ?_
      exact (Keeps.refl _)
    · extract_lets +onlyGivenNames -merge x6
      try clear_value x6
      extract_lets +onlyGivenNames -merge x7
      try clear_value x7
      extract_lets +onlyGivenNames -merge x8
      try clear_value x8
      extract_lets +onlyGivenNames -merge x9
      have h10 : Keeps y0 x9 := by
        unfold x9
        exact Keeps.trans (Keeps.refl _) (State.noteGated_keeps _ _)
      try clear_value x9
      extract_lets +onlyGivenNames -merge x11
      have h12 : Keeps y0 x11 := by
        unfold x11
        split
        · exact Keeps.trans h10 (State.hostPut_keeps _ _ _ _)
        · exact h10
      try clear_value x11
      refine Keeps.snd ?_
      exact h12

theorem State.streamRec_keeps : ∀ s p1 p2, Keeps s (@State.streamRec s p1 p2) := by
  intro s p1 p2
  unfold State.streamRec
  extract_lets +onlyGivenNames -merge x0
  try clear_value x0
  extract_lets +onlyGivenNames -merge x1
  have h2 : Keeps s x1 := by
    unfold x1
    exact Keeps.trans (Keeps.refl _) (State.traceBufPut_keeps _ _ _ _)
  try clear_value x1
  extract_lets +onlyGivenNames -merge x3
  have h4 : Keeps s x3 := by
    unfold x3
    exact Keeps.trans h2 (State.setCfg_keeps _ _ _)
  try clear_value x3
  exact Keeps.trans h4 (State.traceBufPut_keeps _ _ _ _)

theorem State.streamRead_keeps : ∀ s p1, Keeps s (@State.streamRead s p1).2 := by
  intro s p1
  unfold State.streamRead
  split
  · extract_lets +onlyGivenNames -merge x0
    have h1 : Keeps s x0.2.2 := by
      unfold x0
      exact Keeps.trans (Keeps.refl _) (State.ccRead_keeps _ _ _ _)
    try clear_value x0
    refine Keeps.snd ?_
    exact h1
  · refine Keeps.snd ?_
    exact (Keeps.refl _)

theorem State.streamForward_keeps : ∀ s p1 p2 p3, Keeps s (@State.streamForward s p1 p2 p3) := by
  intro s p1 p2 p3
  unfold State.streamForward
  extract_lets +onlyGivenNames -merge x0
  try clear_value x0
  split
  · exact (Keeps.refl _)
  · extract_lets +onlyGivenNames -merge x1
    have h2 : Keeps s x1 := by
      unfold x1
      exact Keeps.trans (Keeps.refl _) ⟨rfl, id, id, id, id⟩
    try clear_value x1
    extract_lets +onlyGivenNames -merge x3
    try clear_value x3
    refine Keeps.ite ?_ ?_
    · exact h2
    · extract_lets +onlyGivenNames -merge x4
      try clear_value x4
      extract_lets +onlyGivenNames -merge x5
      try clear_value x5
      extract_lets +onlyGivenNames -merge x6
      have h7 : Keeps s x6.2 := by
        unfold x6
        exact Keeps.trans h2 (State.streamRead_keeps _ _)
      try clear_value x6
      extract_lets +onlyGivenNames -merge x8
      have h9 : Keeps s x8 := by
        unfold x8
        exact h7
      try clear_value x8
      extract_lets +onlyGivenNames -merge x10
      try clear_value x10
      refine Keeps.ite ?_ ?_
      · extract_lets +onlyGivenNames -merge x11
        have h12 : Keeps s x11 := by
          unfold x11
          exact Keeps.trans h9 ⟨rfl, id, id, id, id⟩
        try clear_value x11
        extract_lets +onlyGivenNames -merge x13
        have h14 : Keeps s x13 := by
          unfold x13
          exact Keeps.trans h12 (State.countField_keeps _ _ _ _ _)
        try clear_value x13
        extract_lets +onlyGivenNames -merge x15
        have h16 : Keeps s x15 := by
          unfold x15
          exact Keeps.trans h14 (State.setCfg_keeps _ _ _)
        try clear_value x15
        exact Keeps.trans h16 (State.traceBufPut_keeps _ _ _ _)
      · extract_lets +onlyGivenNames -merge x17
        try clear_value x17
        extract_lets +onlyGivenNames -merge x18 x19
        have h20 : Keeps s x18 := by
          unfold x18
          exact Keeps.trans h9 (State.streamRec_keeps _ _ _)
        try clear_value x18
        have h21 : Keeps s x19 := by
          unfold x19
          refine Keeps.ite ?_ ?_
          · exact h9
          · exact Keeps.trans h20 ⟨rfl, id, id, id, id⟩
        try clear_value x19
        extract_lets +onlyGivenNames -merge x22
        try clear_value x22
        extract_lets +onlyGivenNames -merge x23
        have h24 : Keeps s x23 := by
          unfold x23
          exact Keeps.trans h21 (State.noteGated_keeps _ _)
        try clear_value x23
        exact Keeps.trans h24 (State.streamRec_keeps _ _ _)

theorem execTraceStreamWrite_keeps : ∀ p0 p1 p2 s, Good s (@execTraceStreamWrite p0 p1 p2 s) := by
  intro p0 p1 p2 s
  unfold execTraceStreamWrite
  refine ⟨_, rfl, ?_⟩
  exact Keeps.trans (Keeps.refl _) (State.streamForward_keeps _ _ _ _)

end Sys2Proof.Machine
end

