-- ==== Sys2Proof/Laws/Admin.lean ====
section
/-! SUPPORT. What the operations of Machine/Admin.lean keep: the queue of waiting commands and the canonical form of the state
(Keeps); and that its commands answer a next state (Good). -/

namespace Sys2Proof.Machine

theorem State.storeLicence_keeps : ∀ s p1, Keeps s (@State.storeLicence s p1) := by
  intro s p1
  unfold State.storeLicence
  split
  · exact Keeps.trans (Keeps.refl _) (State.putBoth_keeps _ _ _ _ _)
  · extract_lets +onlyGivenNames -merge x0
    try clear_value x0
    extract_lets +onlyGivenNames -merge x1
    have h2 : Keeps s x1 := by
      unfold x1
      exact Keeps.trans (Keeps.refl _) ⟨rfl, id, id, id, id⟩
    try clear_value x1
    split
    · refine Keeps.trans ?_ (State.putBoth_keeps _ _ _ _ _)
      · exact Keeps.trans h2 (State.putBoth_keeps _ _ _ _ _)
    · exact Keeps.trans h2 (State.putBoth_keeps _ _ _ _ _)

theorem State.showLicence_keeps : ∀ s p1, Keeps s (@State.showLicence s p1) := by
  intro s p1
  unfold State.showLicence
  extract_lets +onlyGivenNames -merge x0
  try clear_value x0
  exact Keeps.trans (Keeps.refl _) (State.setReg_keeps _ _ _)

theorem execLicenceInstall_keeps : ∀ p0 p1 p2 s, Good s (@execLicenceInstall p0 p1 p2 s) := by
  intro p0 p1 p2 s
  unfold execLicenceInstall
  refine ⟨_, rfl, ?_⟩
  refine Keeps.trans ?_ (State.perform_keeps _ _ _ _ _ ?_)
  · exact (Keeps.refl _)
  · intro y0 y1
    try beta_reduce
    extract_lets +onlyGivenNames -merge x2
    try clear_value x2
    refine Keeps.iteP (fun (r : Sys2Proof.Machine.Result × Sys2Proof.Machine.State) => r.2) ?_ ?_
    · refine Keeps.snd ?_
      exact (Keeps.refl _)
    · split
      · refine Keeps.snd ?_
        exact (Keeps.refl _)
      · extract_lets +onlyGivenNames -merge x3
        try clear_value x3
        refine Keeps.iteP (fun (r : Sys2Proof.Machine.Result × Sys2Proof.Machine.State) => r.2) ?_ ?_
        · refine Keeps.snd ?_
          exact (Keeps.refl _)
        · extract_lets +onlyGivenNames -merge x4
          try clear_value x4
          extract_lets +onlyGivenNames -merge x5
          try clear_value x5
          refine Keeps.iteP (fun (r : Sys2Proof.Machine.Result × Sys2Proof.Machine.State) => r.2) ?_ ?_
          · refine Keeps.snd ?_
            exact (Keeps.refl _)
          · extract_lets +onlyGivenNames -merge x6
            have h7 : Keeps y0 x6 := by
              unfold x6
              exact Keeps.trans (Keeps.refl _) (State.storeLicence_keeps _ _)
            try clear_value x6
            extract_lets +onlyGivenNames -merge x8
            try clear_value x8
            extract_lets +onlyGivenNames -merge x9 x10
            try clear_value x9
            have h11 : Keeps y0 x10 := by
              unfold x10
              refine Keeps.trans ?_ (State.showLicence_keeps _ _)
              · exact Keeps.trans h7 ⟨rfl, id, id, id, id⟩
            try clear_value x10
            refine Keeps.snd ?_
            exact h11

theorem State.storeAmend_keeps : ∀ s p1, Keeps s (@State.storeAmend s p1) := by
  intro s p1
  unfold State.storeAmend
  exact Keeps.trans (Keeps.refl _) (State.putBoth_keeps _ _ _ _ _)

theorem State.dropAmend_keeps : ∀ s, Keeps s (@State.dropAmend s) := by
  intro s
  unfold State.dropAmend
  extract_lets +onlyGivenNames -merge x0
  try clear_value x0
  split
  · extract_lets +onlyGivenNames -merge x1
    try clear_value x1
    exact Keeps.trans (Keeps.refl _) ⟨rfl, id, id, id, id⟩
  · exact (Keeps.refl _)

theorem execAmendApplyStore_keeps : ∀ p0 p1 p2 s, Good s (@execAmendApplyStore p0 p1 p2 s) := by
  intro p0 p1 p2 s
  unfold execAmendApplyStore
  refine ⟨_, rfl, ?_⟩
  refine Keeps.trans ?_ (State.perform_keeps _ _ _ _ _ ?_)
  · exact (Keeps.refl _)
  · intro y0 y1
    try beta_reduce
    split
    · refine Keeps.snd ?_
      exact (Keeps.refl _)
    · refine Keeps.iteP (fun (r : Sys2Proof.Machine.Result × Sys2Proof.Machine.State) => r.2) ?_ ?_
      · refine Keeps.snd ?_
        exact Keeps.trans (Keeps.refl _) (State.storeAmend_keeps _ _)
      · refine Keeps.snd ?_
        exact (Keeps.refl _)

theorem State.endAll_keeps : ∀ s p1, Keeps s (@State.endAll s p1) := by
  intro s p1
  unfold State.endAll
  exact Keeps.trans (Keeps.refl _) ⟨rfl, id, id, id, id⟩

theorem execAmendApplyLive_keeps : ∀ p0 p1 p2 s, Good s (@execAmendApplyLive p0 p1 p2 s) := by
  intro p0 p1 p2 s
  unfold execAmendApplyLive
  refine ⟨_, rfl, ?_⟩
  refine Keeps.trans ?_ (State.start_keeps _ _ _ _ _ ?_)
  · exact (Keeps.refl _)
  · intro y0 y1
    try beta_reduce
    split
    · refine Keeps.sndP (fun (r : Nat × Nat × Sys2Proof.Machine.State) => r.2.2) ?_
      refine Keeps.sndP (fun (r : Nat × Sys2Proof.Machine.State) => r.2) ?_
      refine Keeps.snd ?_
      exact (Keeps.refl _)
    · refine Keeps.iteP (fun (r : Option Sys2Proof.Machine.Result × Nat × Nat × Sys2Proof.Machine.State) => r.2.2.2) ?_ ?_
      · refine Keeps.sndP (fun (r : Nat × Nat × Sys2Proof.Machine.State) => r.2.2) ?_
        refine Keeps.sndP (fun (r : Nat × Sys2Proof.Machine.State) => r.2) ?_
        refine Keeps.snd ?_
        exact (Keeps.refl _)
      · refine Keeps.iteP (fun (r : Option Sys2Proof.Machine.Result × Nat × Nat × Sys2Proof.Machine.State) => r.2.2.2) ?_ ?_
        · refine Keeps.sndP (fun (r : Nat × Nat × Sys2Proof.Machine.State) => r.2.2) ?_
          refine Keeps.sndP (fun (r : Nat × Sys2Proof.Machine.State) => r.2) ?_
          refine Keeps.snd ?_
          exact (Keeps.refl _)
        · extract_lets +onlyGivenNames -merge x2
          have h3 : Keeps y0 x2 := by
            unfold x2
            refine Keeps.trans ?_ (State.endAll_keeps _ _)
            · exact Keeps.trans (Keeps.refl _) (State.storeAmend_keeps _ _)
          try clear_value x2
          refine Keeps.sndP (fun (r : Nat × Nat × Sys2Proof.Machine.State) => r.2.2) ?_
          refine Keeps.sndP (fun (r : Nat × Sys2Proof.Machine.State) => r.2) ?_
          refine Keeps.snd ?_
          exact Keeps.trans h3 ⟨rfl, id, id, id, id⟩

theorem State.markCal_keeps : ∀ s p1 p2, Keeps s (@State.markCal s p1 p2) := by
  intro s p1 p2
  unfold State.markCal
  refine Keeps.ite ?_ ?_
  · refine Keeps.foldl ?_ ?_
    · exact (Keeps.refl _)
    · intro a1 b2 ht0
      try beta_reduce
      exact Keeps.trans ht0 (State.setField_keeps _ _ _ _ _)
  · exact (Keeps.refl _)

theorem State.unjournal_keeps : ∀ s p1, Keeps s (@State.unjournal s p1) := by
  intro s p1
  unfold State.unjournal
  refine Keeps.ite ?_ ?_
  · exact (Keeps.refl _)
  · refine Keeps.ite ?_ ?_
    · extract_lets +onlyGivenNames -merge x0
      try clear_value x0
      extract_lets +onlyGivenNames -merge x1
      try clear_value x1
      extract_lets +onlyGivenNames -merge x2
      try clear_value x2
      extract_lets +onlyGivenNames -merge x3
      try clear_value x3
      refine Keeps.trans ?_ (State.endMaint_keeps _ _)
      exact Keeps.trans (Keeps.refl _) (State.setSlice_keeps _ _ _)
    · refine Keeps.ite ?_ ?_
      · exact Keeps.trans (Keeps.refl _) (State.markCal_keeps _ _ _)
      · refine Keeps.ite ?_ ?_
        · extract_lets +onlyGivenNames -merge x4
          have h5 : Keeps s x4 := by
            unfold x4
            try beta_reduce
            exact Keeps.trans (Keeps.refl _) (State.dropAmend_keeps _)
          try clear_value x4
          exact Keeps.trans h5 ⟨rfl, id, id, id, id⟩
        · exact (Keeps.refl _)

theorem State.endScrub_keeps : ∀ s p1, Keeps s (@State.endScrub s p1) := by
  intro s p1
  unfold State.endScrub
  split
  · refine Keeps.ite ?_ ?_
    · extract_lets +onlyGivenNames -merge x0
      have h1 : Keeps s x0.2 := by
        unfold x0
        try beta_reduce
        exact Keeps.trans (Keeps.refl _) (State.sumScrub_keeps _ _)
      try clear_value x0
      exact Keeps.trans h1 (State.finish_keeps _ _ _)
    · exact (Keeps.refl _)
  · exact (Keeps.refl _)

theorem execLoupeHandover_keeps : ∀ s, Good s (@execLoupeHandover s) := by
  intro s
  unfold execLoupeHandover
  refine Good.ite ?_ ?_
  · refine ⟨_, rfl, ?_⟩
    exact (Keeps.refl _)
  · refine Good.ite ?_ ?_
    · refine ⟨_, rfl, ?_⟩
      exact Keeps.trans (Keeps.refl _) (State.enterHold_keeps _ _)
    · refine Good.ite ?_ ?_
      · refine ⟨_, rfl, ?_⟩
        exact (Keeps.refl _)
      · extract_lets +onlyGivenNames -merge x0
        have h1 : Keeps s x0 := by
          unfold x0
          try beta_reduce
          exact Keeps.trans (Keeps.refl _) (State.deviceEvent_keeps _ _ _)
        try clear_value x0
        refine Good.ite ?_ ?_
        · refine ⟨_, rfl, ?_⟩
          exact h1
        · extract_lets +onlyGivenNames -merge x2
          have h3 : Keeps s x2 := by
            unfold x2
            try beta_reduce
            refine Keeps.foldl ?_ ?_
            · exact h1
            · intro a4 b5 ht6
              try beta_reduce
              exact Keeps.trans ht6 (State.unjournal_keeps _ _)
          try clear_value x2
          extract_lets +onlyGivenNames -merge x7
          have h8 : Keeps s x7 := by
            unfold x7
            try beta_reduce
            exact Keeps.trans h3 (State.endAll_keeps _ _)
          try clear_value x7
          extract_lets +onlyGivenNames -merge x9
          have h10 : Keeps s x9 := by
            unfold x9
            try beta_reduce
            refine Keeps.foldl ?_ ?_
            · exact h8
            · intro a11 b12 ht13
              try beta_reduce
              exact Keeps.trans ht13 (State.endScrub_keeps _ _)
          try clear_value x9
          extract_lets +onlyGivenNames -merge x14
          have h15 : Keeps s x14 := by
            unfold x14
            try beta_reduce
            refine Keeps.foldl ?_ ?_
            · exact h10
            · intro a16 b17 ht18
              try beta_reduce
              exact Keeps.trans ht18 (State.recoverable_keeps _ _ _ _)
          try clear_value x14
          refine ⟨_, rfl, ?_⟩
          exact Keeps.trans h15 ⟨rfl, id, id, id, id⟩

theorem State.afterHandover_keeps : ∀ s, Keeps s (@State.afterHandover s) := by
  intro s
  unfold State.afterHandover
  refine Keeps.ite ?_ ?_
  · exact (Keeps.refl _)
  · exact Keeps.trans (Keeps.refl _) (State.nextMctp_keeps _)

theorem execHandoverComplete_keeps : ∀ s, Good s (@execHandoverComplete s) := by
  intro s
  unfold execHandoverComplete
  refine Good.ite ?_ ?_
  · refine ⟨_, rfl, ?_⟩
    exact (Keeps.refl _)
  · split
    · refine Good.ite ?_ ?_
      · refine ⟨_, rfl, ?_⟩
        exact (Keeps.refl _)
      · extract_lets +onlyGivenNames -merge x0
        try clear_value x0
        extract_lets +onlyGivenNames -merge x1
        have h2 : Keeps s x1 := by
          unfold x1
          try beta_reduce
          exact Keeps.trans (Keeps.refl _) ⟨rfl, id, id, id, id⟩
        try clear_value x1
        refine ⟨_, rfl, ?_⟩
        refine Keeps.trans ?_ (State.afterHandover_keeps _)
        exact Keeps.trans h2 (State.hostEvent_keeps _ _)
    · extract_lets +onlyGivenNames -merge x3
      try clear_value x3
      extract_lets +onlyGivenNames -merge x4
      have h5 : Keeps s x4 := by
        unfold x4
        try beta_reduce
        exact Keeps.trans (Keeps.refl _) ⟨rfl, id, id, id, id⟩
      try clear_value x4
      extract_lets +onlyGivenNames -merge x6
      have h7 : Keeps s x6 := by
        unfold x6
        try beta_reduce
        refine Keeps.foldl ?_ ?_
        · exact h5
        · intro a8 b9 ht10
          try beta_reduce
          refine Keeps.ite ?_ ?_
          · exact Keeps.trans ht10 (State.setPart_keeps _ _ _)
          · exact ht10
      try clear_value x6
      refine ⟨_, rfl, ?_⟩
      refine Keeps.trans ?_ (State.afterHandover_keeps _)
      refine Keeps.trans ?_ (State.hostEvent_keeps _ _)
      exact Keeps.trans h7 (State.deviceEventEnds_keeps _ _)

theorem execCalibrate_keeps : ∀ p0 p1 s, Good s (@execCalibrate p0 p1 s) := by
  intro p0 p1 s
  unfold execCalibrate
  refine ⟨_, rfl, ?_⟩
  refine Keeps.trans ?_ (State.start_keeps _ _ _ _ _ ?_)
  · exact (Keeps.refl _)
  · intro y0 y1
    try beta_reduce
    extract_lets +onlyGivenNames -merge x2
    try clear_value x2
    refine Keeps.iteP (fun (r : Option Sys2Proof.Machine.Result × Nat × Nat × Sys2Proof.Machine.State) => r.2.2.2) ?_ ?_
    · refine Keeps.sndP (fun (r : Nat × Nat × Sys2Proof.Machine.State) => r.2.2) ?_
      refine Keeps.sndP (fun (r : Nat × Sys2Proof.Machine.State) => r.2) ?_
      refine Keeps.snd ?_
      exact (Keeps.refl _)
    · refine Keeps.sndP (fun (r : Nat × Nat × Sys2Proof.Machine.State) => r.2.2) ?_
      refine Keeps.sndP (fun (r : Nat × Sys2Proof.Machine.State) => r.2) ?_
      refine Keeps.snd ?_
      exact Keeps.trans (Keeps.refl _) (State.markCal_keeps _ _ _)

theorem execPowerCapSet_keeps : ∀ p0 s, Good s (@execPowerCapSet p0 s) := by
  intro p0 s
  unfold execPowerCapSet
  refine ⟨_, rfl, ?_⟩
  refine Keeps.trans ?_ (State.start_keeps _ _ _ _ _ ?_)
  · exact (Keeps.refl _)
  · intro y0 y1
    try beta_reduce
    extract_lets +onlyGivenNames -merge x2
    try clear_value x2
    refine Keeps.iteP (fun (r : Option Sys2Proof.Machine.Result × Nat × Nat × Sys2Proof.Machine.State) => r.2.2.2) ?_ ?_
    · refine Keeps.sndP (fun (r : Nat × Nat × Sys2Proof.Machine.State) => r.2.2) ?_
      refine Keeps.sndP (fun (r : Nat × Sys2Proof.Machine.State) => r.2) ?_
      refine Keeps.snd ?_
      exact (Keeps.refl _)
    · refine Keeps.sndP (fun (r : Nat × Nat × Sys2Proof.Machine.State) => r.2.2) ?_
      refine Keeps.sndP (fun (r : Nat × Sys2Proof.Machine.State) => r.2) ?_
      refine Keeps.snd ?_
      exact Keeps.trans (Keeps.refl _) (State.setField_keeps _ _ _ _ _)

theorem execLinkStatus_keeps : ∀ p0 s, Good s (@execLinkStatus p0 s) := by
  intro p0 s
  unfold execLinkStatus
  refine ⟨_, rfl, ?_⟩
  refine Keeps.trans ?_ (State.perform_keeps _ _ _ _ _ ?_)
  · exact (Keeps.refl _)
  · intro y0 y1
    try beta_reduce
    extract_lets +onlyGivenNames -merge x2
    try clear_value x2
    refine Keeps.iteP (fun (r : Sys2Proof.Machine.Result × Sys2Proof.Machine.State) => r.2) ?_ ?_
    · refine Keeps.snd ?_
      exact (Keeps.refl _)
    · refine Keeps.iteP (fun (r : Sys2Proof.Machine.Result × Sys2Proof.Machine.State) => r.2) ?_ ?_
      · refine Keeps.snd ?_
        exact (Keeps.refl _)
      · refine Keeps.snd ?_
        exact (Keeps.refl _)

theorem State.portStart_keeps : ∀ s p1 p2 p3 p4, (∀ y0 y1, Keeps y0 (p4 y0 y1)) → Keeps s (@State.portStart s p1 p2 p3 p4) := by
  intro s p1 p2 p3 p4 hf4
  unfold State.portStart
  refine Keeps.trans ?_ (State.start_keeps _ _ _ _ _ ?_)
  · exact (Keeps.refl _)
  · intro y0 y1
    try beta_reduce
    extract_lets +onlyGivenNames -merge x2
    try clear_value x2
    split
    · refine Keeps.sndP (fun (r : Nat × Nat × Sys2Proof.Machine.State) => r.2.2) ?_
      refine Keeps.sndP (fun (r : Nat × Sys2Proof.Machine.State) => r.2) ?_
      refine Keeps.snd ?_
      exact (Keeps.refl _)
    · refine Keeps.iteP (fun (r : Option Sys2Proof.Machine.Result × Nat × Nat × Sys2Proof.Machine.State) => r.2.2.2) ?_ ?_
      · refine Keeps.sndP (fun (r : Nat × Nat × Sys2Proof.Machine.State) => r.2.2) ?_
        refine Keeps.sndP (fun (r : Nat × Sys2Proof.Machine.State) => r.2) ?_
        refine Keeps.snd ?_
        refine Keeps.trans ?_ (hf4 _ _)
        exact (Keeps.refl _)
      · refine Keeps.sndP (fun (r : Nat × Nat × Sys2Proof.Machine.State) => r.2.2) ?_
        refine Keeps.sndP (fun (r : Nat × Sys2Proof.Machine.State) => r.2) ?_
        refine Keeps.snd ?_
        exact (Keeps.refl _)

theorem execPortRetrain_keeps : ∀ p0 s, Good s (@execPortRetrain p0 s) := by
  intro p0 s
  unfold execPortRetrain
  split
  · refine ⟨_, rfl, ?_⟩
    exact (Keeps.refl _)
  · extract_lets +onlyGivenNames -merge x0
    try clear_value x0
    refine Good.ite ?_ ?_
    · refine ⟨_, rfl, ?_⟩
      refine Keeps.trans ?_ (State.perform_keeps _ _ _ _ _ ?_)
      · exact (Keeps.refl _)
      · intro y1 y2
        try beta_reduce
        refine Keeps.snd ?_
        exact (Keeps.refl _)
    · refine ⟨_, rfl, ?_⟩
      refine Keeps.trans ?_ (State.portStart_keeps _ _ _ _ _ ?_)
      · exact (Keeps.refl _)
      · intro y3 y4
        try beta_reduce
        exact Keeps.trans (Keeps.refl _) (State.retrain_keeps _ _)

theorem execPortDisable_keeps : ∀ p0 s, Good s (@execPortDisable p0 s) := by
  intro p0 s
  unfold execPortDisable
  refine ⟨_, rfl, ?_⟩
  refine Keeps.trans ?_ (State.perform_keeps _ _ _ _ _ ?_)
  · exact (Keeps.refl _)
  · intro y0 y1
    try beta_reduce
    extract_lets +onlyGivenNames -merge x2
    try clear_value x2
    split
    · refine Keeps.snd ?_
      exact (Keeps.refl _)
    · refine Keeps.snd ?_
      exact Keeps.trans (Keeps.refl _) (State.portTo_keeps _ _ _)

theorem execPortEnable_keeps : ∀ p0 s, Good s (@execPortEnable p0 s) := by
  intro p0 s
  unfold execPortEnable
  refine ⟨_, rfl, ?_⟩
  refine Keeps.trans ?_ (State.portStart_keeps _ _ _ _ _ ?_)
  · exact (Keeps.refl _)
  · intro y0 y1
    try beta_reduce
    exact Keeps.trans (Keeps.refl _) (State.portTo_keeps _ _ _)

theorem execPortReleaseQuarantine_keeps : ∀ p0 s, Good s (@execPortReleaseQuarantine p0 s) := by
  intro p0 s
  unfold execPortReleaseQuarantine
  refine ⟨_, rfl, ?_⟩
  refine Keeps.trans ?_ (State.portStart_keeps _ _ _ _ _ ?_)
  · exact (Keeps.refl _)
  · intro y0 y1
    try beta_reduce
    exact Keeps.trans (Keeps.refl _) (State.portTo_keeps _ _ _)

theorem execServicePacketReceive_keeps : ∀ p0 p1 s, Good s (@execServicePacketReceive p0 p1 s) := by
  intro p0 p1 s
  unfold execServicePacketReceive
  extract_lets +onlyGivenNames -merge x0
  try clear_value x0
  extract_lets +onlyGivenNames -merge x1
  have h2 : ∀ y3 y4, Keeps y3 (x1 y3 y4) := by
    intro y3 y4
    unfold x1
    try beta_reduce
    exact Keeps.trans (Keeps.refl _) ⟨rfl, id, id, id, id⟩
  try clear_value x1
  refine Good.ite ?_ ?_
  · refine ⟨_, rfl, ?_⟩
    exact (Keeps.refl _)
  · refine Good.ite ?_ ?_
    · refine ⟨_, rfl, ?_⟩
      refine Keeps.trans ?_ (h2 _ _)
      exact (Keeps.refl _)
    · refine Good.ite ?_ ?_
      · refine ⟨_, rfl, ?_⟩
        refine Keeps.trans ?_ (State.countField_keeps _ _ _ _ _)
        · refine Keeps.trans ?_ (h2 _ _)
          exact (Keeps.refl _)
      · refine ⟨_, rfl, ?_⟩
        refine Keeps.trans ?_ (State.deviceEvent_keeps _ _ _)
        · refine Keeps.trans ?_ (h2 _ _)
          exact (Keeps.refl _)

theorem execServiceScrub_keeps : ∀ s, Good s (@execServiceScrub s) := by
  intro s
  unfold execServiceScrub
  refine Good.ite ?_ ?_
  · refine ⟨_, rfl, ?_⟩
    exact (Keeps.refl _)
  · refine ⟨_, rfl, ?_⟩
    refine Keeps.foldl ?_ ?_
    · exact (Keeps.refl _)
    · intro a0 b1 ht2
      try beta_reduce
      refine Keeps.ite ?_ ?_
      · exact ht2
      · exact Keeps.trans ht2 (State.scrubHbm_keeps _ _ _)

end Sys2Proof.Machine
end

