-- ==== Sys2Proof/Laws/Bits.lean ====
section
/-! SUPPORT. Fields of a word: what reading a field gives after a field is written. -/

namespace Sys2Proof.Machine

theorem bits_testBit (w : Word) (lo len i : Nat) : (bits w lo len).testBit i = (decide (i < len) && w.getLsbD (lo + i)) := by
  simp [bits, Nat.testBit_mod_two_pow, Nat.testBit_div_two_pow, BitVec.getLsbD, Nat.add_comm]

theorem setBits_getLsbD (w : Word) (lo len v i : Nat) (h : i < 32) :
    (setBits w lo len v).getLsbD i = if lo ≤ i ∧ i < lo + len then v.testBit (i - lo) else w.getLsbD i := by
  simp only [setBits, BitVec.getLsbD_or, BitVec.getLsbD_and, BitVec.getLsbD_not, BitVec.getLsbD_ofNat, h, decide_true, Bool.true_and,
    Nat.testBit_mul_two_pow, Nat.testBit_mod_two_pow, Nat.testBit_two_pow_sub_one]
  by_cases a : lo ≤ i <;> by_cases b : i < lo + len
  · have c : i - lo < len := by omega
    simp [a, b, c]
  · have c : ¬ i - lo < len := by omega
    simp [a, b, c]
  · simp [a]
  · simp [a]

/-- A field reads as what it was written with. -/
theorem bits_setBits_same (w : Word) (lo len v : Nat) (h : lo + len ≤ 32) : bits (setBits w lo len v) lo len = v % 2 ^ len := by
  apply Nat.eq_of_testBit_eq
  intro i
  rw [bits_testBit, Nat.testBit_mod_two_pow]
  by_cases k : i < len
  · rw [setBits_getLsbD _ _ _ _ _ (by omega)]
    simp [k]
  · simp [k]

/-- A write of a field leaves every field apart from it alone. -/
theorem bits_setBits_other (w : Word) (lo len v a k : Nat) (ha : a + k ≤ 32) (h : a + k ≤ lo ∨ lo + len ≤ a) :
    bits (setBits w lo len v) a k = bits w a k := by
  apply Nat.eq_of_testBit_eq
  intro i
  rw [bits_testBit, bits_testBit]
  by_cases c : i < k
  · rw [setBits_getLsbD _ _ _ _ _ (by omega), if_neg (by omega)]
  · simp [c]

theorem bits_lt (w : Word) (lo len : Nat) : bits w lo len < 2 ^ len := Nat.mod_lt _ (Nat.two_pow_pos len)

theorem bits_mod (w : Word) (lo len : Nat) : bits w lo len % 2 ^ len = bits w lo len := Nat.mod_eq_of_lt (bits_lt w lo len)

end Sys2Proof.Machine
end

