-- ==== Sys2Proof/Laws/Spdm.lean ====
section
/-! SUPPORT. What the operations of Machine/Spdm.lean keep: the queue of waiting commands and the canonical form of the state
(Keeps); and that its commands answer a next state (Good). -/

namespace Sys2Proof.Machine

theorem State.setSpdm_keeps : ∀ s p1 p2, Keeps s (@State.setSpdm s p1 p2) := by
  intro s p1 p2
  unfold State.setSpdm
  exact Keeps.trans (Keeps.refl _) ⟨rfl, id, id, id, id⟩

theorem State.spdmPart_keeps : ∀ s p1, Keeps s (@State.spdmPart s p1).2 := by
  intro s p1
  unfold State.spdmPart
  refine Keeps.snd ?_
  exact Keeps.trans (Keeps.refl _) ⟨rfl, id, id, id, id⟩

theorem State.spdmSay_keeps : ∀ s p1 p2, Keeps s (@State.spdmSay s p1 p2) := by
  intro s p1 p2
  unfold State.spdmSay
  extract_lets +onlyGivenNames -merge x0
  try clear_value x0
  refine Keeps.ite ?_ ?_
  · refine Keeps.trans ?_ (State.send_keeps _ _)
    · exact Keeps.trans (Keeps.refl _) (State.setSpdm_keeps _ _ _)
  · exact Keeps.trans (Keeps.refl _) (State.send_keeps _ _)

theorem State.spdmError_keeps : ∀ s p1 p2, Keeps s (@State.spdmError s p1 p2) := by
  intro s p1 p2
  unfold State.spdmError
  exact Keeps.trans (Keeps.refl _) (State.send_keeps _ _)

theorem State.spdmLog_keeps : ∀ s p1 p2, Keeps s (@State.spdmLog s p1 p2) := by
  intro s p1 p2
  unfold State.spdmLog
  extract_lets +onlyGivenNames -merge x0
  try clear_value x0
  exact Keeps.trans (Keeps.refl _) (State.setSpdm_keeps _ _ _)

theorem State.spdmAnswer_keeps : ∀ s p1 p2 p3 p4 p5 p6 p7 p8, Keeps s (@State.spdmAnswer s p1 p2 p3 p4 p5 p6 p7 p8) := by
  intro s p1 p2 p3 p4 p5 p6 p7 p8
  unfold State.spdmAnswer
  refine Keeps.ite ?_ ?_
  · exact (Keeps.refl _)
  · refine Keeps.ite ?_ ?_
    · exact Keeps.trans (Keeps.refl _) (State.spdmError_keeps _ _ _)
    · extract_lets +onlyGivenNames -merge x0
      have h1 : Keeps s x0 := by
        unfold x0
        exact Keeps.trans (Keeps.refl _) (State.setSpdm_keeps _ _ _)
      try clear_value x0
      extract_lets +onlyGivenNames -merge x2
      have h3 : Keeps s x2.2 := by
        unfold x2
        exact Keeps.trans h1 (State.spdmPart_keeps _ _)
      try clear_value x2
      extract_lets +onlyGivenNames -merge x4
      try clear_value x4
      refine Keeps.trans ?_ (State.spdmSay_keeps _ _ _)
      · exact Keeps.trans h3 (State.spdmLog_keeps _ _ _)

theorem execGetVersion_keeps : ∀ p0 p1 s, Good s (@execGetVersion p0 p1 s) := by
  intro p0 p1 s
  unfold execGetVersion
  refine ⟨_, rfl, ?_⟩
  exact Keeps.trans (Keeps.refl _) (State.spdmAnswer_keeps _ _ _ _ _ _ _ _ _)

theorem execGetCapabilities_keeps : ∀ p0 p1 p2 s, Good s (@execGetCapabilities p0 p1 p2 s) := by
  intro p0 p1 p2 s
  unfold execGetCapabilities
  refine ⟨_, rfl, ?_⟩
  exact Keeps.trans (Keeps.refl _) (State.spdmAnswer_keeps _ _ _ _ _ _ _ _ _)

theorem execNegotiateAlgorithms_keeps : ∀ p0 p1 p2 s, Good s (@execNegotiateAlgorithms p0 p1 p2 s) := by
  intro p0 p1 p2 s
  unfold execNegotiateAlgorithms
  refine Good.ite ?_ ?_
  · refine ⟨_, rfl, ?_⟩
    exact Keeps.trans (Keeps.refl _) (State.spdmError_keeps _ _ _)
  · refine ⟨_, rfl, ?_⟩
    exact Keeps.trans (Keeps.refl _) (State.spdmAnswer_keeps _ _ _ _ _ _ _ _ _)

theorem execGetDigests_keeps : ∀ p0 p1 s, Good s (@execGetDigests p0 p1 s) := by
  intro p0 p1 s
  unfold execGetDigests
  refine ⟨_, rfl, ?_⟩
  exact Keeps.trans (Keeps.refl _) (State.spdmAnswer_keeps _ _ _ _ _ _ _ _ _)

theorem execGetCertificate_keeps : ∀ p0 p1 p2 s, Good s (@execGetCertificate p0 p1 p2 s) := by
  intro p0 p1 p2 s
  unfold execGetCertificate
  refine Good.ite ?_ ?_
  · refine ⟨_, rfl, ?_⟩
    exact Keeps.trans (Keeps.refl _) (State.spdmError_keeps _ _ _)
  · refine ⟨_, rfl, ?_⟩
    exact Keeps.trans (Keeps.refl _) (State.spdmAnswer_keeps _ _ _ _ _ _ _ _ _)

theorem execChallenge_keeps : ∀ p0 p1 p2 p3 s, Good s (@execChallenge p0 p1 p2 p3 s) := by
  intro p0 p1 p2 p3 s
  unfold execChallenge
  refine Good.ite ?_ ?_
  · refine ⟨_, rfl, ?_⟩
    exact Keeps.trans (Keeps.refl _) (State.spdmError_keeps _ _ _)
  · refine ⟨_, rfl, ?_⟩
    exact Keeps.trans (Keeps.refl _) (State.spdmAnswer_keeps _ _ _ _ _ _ _ _ _)

theorem execGetMeasurements_keeps : ∀ p0 p1 p2 p3 s, Good s (@execGetMeasurements p0 p1 p2 p3 s) := by
  intro p0 p1 p2 p3 s
  unfold execGetMeasurements
  extract_lets +onlyGivenNames -merge x0
  try clear_value x0
  refine Good.ite ?_ ?_
  · refine ⟨_, rfl, ?_⟩
    exact Keeps.trans (Keeps.refl _) (State.spdmError_keeps _ _ _)
  · refine ⟨_, rfl, ?_⟩
    exact Keeps.trans (Keeps.refl _) (State.spdmAnswer_keeps _ _ _ _ _ _ _ _ _)

theorem execChunkGet_keeps : ∀ p0 s, Good s (@execChunkGet p0 s) := by
  intro p0 s
  unfold execChunkGet
  extract_lets +onlyGivenNames -merge x0
  try clear_value x0
  refine Good.ite ?_ ?_
  · refine ⟨_, rfl, ?_⟩
    exact (Keeps.refl _)
  · refine Good.ite ?_ ?_
    · refine ⟨_, rfl, ?_⟩
      exact Keeps.trans (Keeps.refl _) (State.spdmError_keeps _ _ _)
    · extract_lets +onlyGivenNames -merge x1
      try clear_value x1
      extract_lets +onlyGivenNames -merge x2
      have h3 : Keeps s x2.2 := by
        unfold x2
        exact Keeps.trans (Keeps.refl _) (State.spdmPart_keeps _ _)
      try clear_value x2
      refine ⟨_, rfl, ?_⟩
      refine Keeps.trans ?_ (State.send_keeps _ _)
      · exact Keeps.trans h3 (State.setSpdm_keeps _ _ _)

end Sys2Proof.Machine
end

