-- ==== Sys2Proof/Laws/Jtag.lean ====
section
/-! SUPPORT. What the operations of Machine/Jtag.lean keep: the queue of waiting commands and the canonical form of the state
(Keeps); and that its commands answer a next state (Good). -/

namespace Sys2Proof.Machine

theorem State.note_keeps : ∀ s p1, Keeps s (@State.note s p1) := by
  intro s p1
  unfold State.note
  exact Keeps.trans (Keeps.refl _) ⟨rfl, id, id, id, id⟩

theorem State.shiftIr_keeps : ∀ s p1, Keeps s (@State.shiftIr s p1) := by
  intro s p1
  unfold State.shiftIr
  extract_lets +onlyGivenNames -merge x0 x1
  try clear_value x0
  have h2 : Keeps s x1 := by
    unfold x1
    exact Keeps.trans (Keeps.refl _) ⟨rfl, id, id, id, id⟩
  try clear_value x1
  refine Keeps.ite ?_ ?_
  · exact h2
  · exact Keeps.trans h2 (State.note_keeps _ _)

theorem State.tdo_keeps : ∀ s p1, Keeps s (@State.tdo s p1) := by
  intro s p1
  unfold State.tdo
  exact Keeps.trans (Keeps.refl _) (State.send_keeps _ _)

theorem execExtest_keeps : ∀ p0 s, Good s (@execExtest p0 s) := by
  intro p0 s
  unfold execExtest
  refine Good.ite ?_ ?_
  · refine ⟨_, rfl, ?_⟩
    exact (Keeps.refl _)
  · refine ⟨_, rfl, ?_⟩
    refine Keeps.trans ?_ (State.tdo_keeps _ _)
    · exact Keeps.trans (Keeps.refl _) (State.shiftIr_keeps _ _)

theorem execSamplePreload_keeps : ∀ p0 s, Good s (@execSamplePreload p0 s) := by
  intro p0 s
  unfold execSamplePreload
  refine Good.ite ?_ ?_
  · refine ⟨_, rfl, ?_⟩
    exact (Keeps.refl _)
  · refine ⟨_, rfl, ?_⟩
    refine Keeps.trans ?_ (State.tdo_keeps _ _)
    · exact Keeps.trans (Keeps.refl _) (State.shiftIr_keeps _ _)

theorem execIdcode_keeps : ∀ s, Good s (@execIdcode s) := by
  intro s
  unfold execIdcode
  refine Good.ite ?_ ?_
  · refine ⟨_, rfl, ?_⟩
    exact (Keeps.refl _)
  · refine ⟨_, rfl, ?_⟩
    refine Keeps.trans ?_ (State.tdo_keeps _ _)
    · exact Keeps.trans (Keeps.refl _) (State.shiftIr_keeps _ _)

theorem execBypass_keeps : ∀ p0 s, Good s (@execBypass p0 s) := by
  intro p0 s
  unfold execBypass
  refine Good.ite ?_ ?_
  · refine ⟨_, rfl, ?_⟩
    exact (Keeps.refl _)
  · refine ⟨_, rfl, ?_⟩
    refine Keeps.trans ?_ (State.tdo_keeps _ _)
    · exact Keeps.trans (Keeps.refl _) ⟨rfl, id, id, id, id⟩

theorem State.jtagEnd_keeps : ∀ s p1 p2 p3 p4, Keeps s (@State.jtagEnd s p1 p2 p3 p4) := by
  intro s p1 p2 p3 p4
  unfold State.jtagEnd
  exact Keeps.trans (Keeps.refl _) ⟨rfl, id, id, id, id⟩

theorem execRegacc_keeps : ∀ p0 s, Good s (@execRegacc p0 s) := by
  intro p0 s
  unfold execRegacc
  refine Good.ite ?_ ?_
  · refine ⟨_, rfl, ?_⟩
    exact (Keeps.refl _)
  · refine Good.ite ?_ ?_
    · refine ⟨_, rfl, ?_⟩
      refine Keeps.trans ?_ (State.tdo_keeps _ _)
      · exact Keeps.trans (Keeps.refl _) (State.shiftIr_keeps _ _)
    · extract_lets +onlyGivenNames -merge x0
      try clear_value x0
      extract_lets +onlyGivenNames -merge x1
      have h2 : Keeps s x1 := by
        unfold x1
        refine Keeps.trans ?_ (State.tdo_keeps _ _)
        · exact Keeps.trans (Keeps.refl _) (State.shiftIr_keeps _ _)
      try clear_value x1
      extract_lets +onlyGivenNames -merge x3
      try clear_value x3
      extract_lets +onlyGivenNames -merge x4
      try clear_value x4
      extract_lets +onlyGivenNames -merge x5
      try clear_value x5
      refine Good.ite ?_ ?_
      · refine ⟨_, rfl, ?_⟩
        exact h2
      · refine Good.ite ?_ ?_
        · refine ⟨_, rfl, ?_⟩
          exact Keeps.trans h2 (State.jtagEnd_keeps _ _ _ _ _)
        · refine Good.ite ?_ ?_
          · extract_lets +onlyGivenNames -merge x6
            have h7 : Keeps s x6.2 := by
              unfold x6
              exact Keeps.trans h2 (State.readFull_keeps _ _ _)
            try clear_value x6
            refine ⟨_, rfl, ?_⟩
            exact Keeps.trans h7 (State.jtagEnd_keeps _ _ _ _ _)
          · refine Good.ite ?_ ?_
            · extract_lets +onlyGivenNames -merge x8
              have h9 : Keeps s x8.1 := by
                unfold x8
                exact Keeps.trans h2 (State.writeReg_keeps _ _ _ _)
              try clear_value x8
              refine Good.ite ?_ ?_
              · refine ⟨_, rfl, ?_⟩
                refine Keeps.trans ?_ (State.jtagEnd_keeps _ _ _ _ _)
                · exact Keeps.trans h9 (State.accessFault_keeps _ _ _ _ _)
              · refine ⟨_, rfl, ?_⟩
                exact Keeps.trans h9 (State.jtagEnd_keeps _ _ _ _ _)
            · refine ⟨_, rfl, ?_⟩
              exact Keeps.trans h2 (State.jtagEnd_keeps _ _ _ _ _)

theorem State.wakeCore_keeps : ∀ s p1, Keeps s (@State.wakeCore s p1) := by
  intro s p1
  unfold State.wakeCore
  refine Keeps.ite ?_ ?_
  · exact Keeps.trans (Keeps.refl _) (State.zeroCore_keeps _ _)
  · exact (Keeps.refl _)

theorem State.debugWord_keeps : ∀ s p1, KeepsIn s (fun (r : Nat × Bool × State) => r.2.2) (@State.debugWord s p1) := by
  intro s p1
  have ha : ∀ (b : Bytes × Nat × State), Keeps s b.2.2 →
      KeepsIn s (fun (r : Nat × Bool × State) => r.2.2) (some (leVal b.1, b.2.1 != 0, b.2.2)) := fun b h => KeepsIn.some h
  have hb : ∀ (b : Bytes × Bool × State), Keeps s b.2.2 →
      KeepsIn s (fun (r : Nat × Bool × State) => r.2.2) (some (leVal b.1, b.2.1, b.2.2)) := fun b h => KeepsIn.some h
  have hc : ∀ (a : Nat) (b : Bool) (t : State), Keeps s t →
      KeepsIn s (fun (r : Nat × Bool × State) => r.2.2) (some (a, b, t)) := fun a b t h => KeepsIn.some h
  unfold State.debugWord
  refine KeepsIn.ite (KeepsIn.ite KeepsIn.none (ha _ (State.ccRead_keeps _ _ _ _))) ?_
  refine KeepsIn.ite (hb _ (State.sliceRead_keeps _ _ _ _)) ?_
  exact KeepsIn.ite (hc _ _ _ (Keeps.trans (State.wakeCore_keeps _ _) (State.countCheck_keeps _ _ _ _))) KeepsIn.none

theorem execMemacc_keeps : ∀ p0 s, Good s (@execMemacc p0 s) := by
  intro p0 s
  unfold execMemacc
  refine Good.ite ?_ ?_
  · refine ⟨_, rfl, ?_⟩
    exact (Keeps.refl _)
  · refine Good.ite ?_ ?_
    · refine ⟨_, rfl, ?_⟩
      refine Keeps.trans ?_ (State.tdo_keeps _ _)
      · exact Keeps.trans (Keeps.refl _) (State.shiftIr_keeps _ _)
    · extract_lets +onlyGivenNames -merge x0
      try clear_value x0
      extract_lets +onlyGivenNames -merge x1
      have h2 : Keeps s x1 := by
        unfold x1
        refine Keeps.trans ?_ (State.tdo_keeps _ _)
        · exact Keeps.trans (Keeps.refl _) (State.shiftIr_keeps _ _)
      try clear_value x1
      extract_lets +onlyGivenNames -merge x3
      try clear_value x3
      extract_lets +onlyGivenNames -merge x4
      try clear_value x4
      refine Good.ite ?_ ?_
      · refine ⟨_, rfl, ?_⟩
        exact h2
      · refine Good.ite ?_ ?_
        · refine ⟨_, rfl, ?_⟩
          exact Keeps.trans h2 (State.jtagEnd_keeps _ _ _ _ _)
        · extract_lets +onlyGivenNames -merge x5
          try clear_value x5
          extract_lets +onlyGivenNames -merge x6
          try clear_value x6
          refine Good.ite ?_ ?_
          · refine ⟨_, rfl, ?_⟩
            exact Keeps.trans h2 (State.jtagEnd_keeps _ _ _ _ _)
          · refine Good.ite ?_ ?_
            · refine ⟨_, rfl, ?_⟩
              exact Keeps.trans h2 (State.jtagEnd_keeps _ _ _ _ _)
            · split
              · refine ⟨_, rfl, ?_⟩
                exact Keeps.trans h2 (State.jtagEnd_keeps _ _ _ _ _)
              · rename Sys2Proof.Machine.State => m7
                rename _ = _ => hq9
                have h8 : Keeps s m7 := KeepsIn.ofEq (fun (r : Nat × Bool × Sys2Proof.Machine.State) => r.2.2) hq9 (by
                    exact KeepsIn.trans h2 (State.debugWord_keeps _ _)
                  )
                refine ⟨_, rfl, ?_⟩
                refine Keeps.trans ?_ (State.jtagEnd_keeps _ _ _ _ _)
                · exact Keeps.trans h8 (State.noteGated_keeps _ _)

theorem execLinkdbg_keeps : ∀ p0 s, Good s (@execLinkdbg p0 s) := by
  intro p0 s
  unfold execLinkdbg
  refine Good.ite ?_ ?_
  · refine ⟨_, rfl, ?_⟩
    exact (Keeps.refl _)
  · refine Good.ite ?_ ?_
    · refine ⟨_, rfl, ?_⟩
      refine Keeps.trans ?_ (State.tdo_keeps _ _)
      · exact Keeps.trans (Keeps.refl _) (State.shiftIr_keeps _ _)
    · extract_lets +onlyGivenNames -merge x0
      have h1 : Keeps s x0.2 := by
        unfold x0
        exact Keeps.trans (Keeps.refl _) (State.free_keeps _ _)
      try clear_value x0
      refine ⟨_, rfl, ?_⟩
      refine Keeps.trans ?_ (State.tdo_keeps _ _)
      · refine Keeps.trans ?_ (State.note_keeps _ _)
        · exact Keeps.trans h1 (State.shiftIr_keeps _ _)

theorem execDtmcs_keeps : ∀ s, Good s (@execDtmcs s) := by
  intro s
  unfold execDtmcs
  refine Good.ite ?_ ?_
  · refine ⟨_, rfl, ?_⟩
    exact (Keeps.refl _)
  · refine Good.ite ?_ ?_
    · refine ⟨_, rfl, ?_⟩
      refine Keeps.trans ?_ (State.tdo_keeps _ _)
      · exact Keeps.trans (Keeps.refl _) (State.shiftIr_keeps _ _)
    · extract_lets +onlyGivenNames -merge x0
      have h1 : Keeps s x0.2 := by
        unfold x0
        exact Keeps.trans (Keeps.refl _) (State.free_keeps _ _)
      try clear_value x0
      refine ⟨_, rfl, ?_⟩
      refine Keeps.trans ?_ (State.tdo_keeps _ _)
      · exact Keeps.trans h1 (State.shiftIr_keeps _ _)

theorem State.dmControl_keeps : ∀ s p1, Keeps s (@State.dmControl s p1) := by
  intro s p1
  unfold State.dmControl
  extract_lets +onlyGivenNames -merge x0 x1
  try clear_value x0
  have h2 : Keeps s x1 := by
    unfold x1
    exact Keeps.trans (Keeps.refl _) ⟨rfl, id, id, id, id⟩
  try clear_value x1
  extract_lets +onlyGivenNames -merge x3
  try clear_value x3
  refine Keeps.ite ?_ ?_
  · exact h2
  · refine Keeps.ite ?_ ?_
    · exact Keeps.trans h2 ⟨rfl, id, id, id, id⟩
    · refine Keeps.ite ?_ ?_
      · exact Keeps.trans h2 ⟨rfl, id, id, id, id⟩
      · exact h2

theorem State.sbRead_keeps : ∀ s, Keeps s (@State.sbRead s) := by
  intro s
  unfold State.sbRead
  extract_lets +onlyGivenNames -merge j a put w
  have hp : ∀ t e d, Keeps s t → Keeps s (put t e d) := fun t _ _ h => Keeps.trans h ⟨rfl, id, id, id, id⟩
  clear_value put w a j
  refine Keeps.ite (Keeps.refl s) (Keeps.ite (hp _ _ _ (Keeps.refl s)) (Keeps.ite (hp _ _ _ (Keeps.refl s)) ?_))
  extract_lets +onlyGivenNames -merge o refused j t
  have ht : Keeps s t := Keeps.ite ⟨rfl, id, id, id, id⟩ (Keeps.refl s)
  clear_value o refused j t
  refine Keeps.ite (hp _ _ _ ht) ?_
  split
  · exact hp _ _ _ ht
  · rename_i hq
    exact hp _ _ _ (Keeps.trans (KeepsIn.ofEq (fun (r : Nat × Bool × State) => r.2.2) hq (KeepsIn.trans ht (State.debugWord_keeps _ _)))
      (State.noteGated_keeps _ _))

theorem State.dmWrite_keeps : ∀ s p1 p2, Keeps s (@State.dmWrite s p1 p2) := by
  intro s p1 p2
  unfold State.dmWrite
  extract_lets +onlyGivenNames -merge x0
  try clear_value x0
  refine Keeps.ite ?_ ?_
  · exact Keeps.trans (Keeps.refl _) (State.dmControl_keeps _ _)
  · refine Keeps.ite ?_ ?_
    · extract_lets +onlyGivenNames -merge x1
      try clear_value x1
      exact Keeps.trans (Keeps.refl _) ⟨rfl, id, id, id, id⟩
    · refine Keeps.ite ?_ ?_
      · exact Keeps.trans (Keeps.refl _) ⟨rfl, id, id, id, id⟩
      · refine Keeps.ite ?_ ?_
        · extract_lets +onlyGivenNames -merge x2
          have h3 : Keeps s x2 := by
            unfold x2
            try beta_reduce
            exact Keeps.trans (Keeps.refl _) ⟨rfl, id, id, id, id⟩
          try clear_value x2
          refine Keeps.ite ?_ ?_
          · exact Keeps.trans h3 (State.sbRead_keeps _)
          · exact h3
        · exact (Keeps.refl _)

theorem State.dmRead_keeps : ∀ s p1, Keeps s (@State.dmRead s p1).2 := by
  intro s p1
  unfold State.dmRead
  extract_lets +onlyGivenNames -merge x0
  try clear_value x0
  refine Keeps.iteP (fun (r : ℕ × Sys2Proof.Machine.State) => r.2) ?_ ?_
  · refine Keeps.snd ?_
    exact (Keeps.refl _)
  · refine Keeps.iteP (fun (r : ℕ × Sys2Proof.Machine.State) => r.2) ?_ ?_
    · refine Keeps.snd ?_
      exact (Keeps.refl _)
    · refine Keeps.iteP (fun (r : ℕ × Sys2Proof.Machine.State) => r.2) ?_ ?_
      · refine Keeps.snd ?_
        exact (Keeps.refl _)
      · refine Keeps.iteP (fun (r : ℕ × Sys2Proof.Machine.State) => r.2) ?_ ?_
        · refine Keeps.snd ?_
          exact (Keeps.refl _)
        · refine Keeps.iteP (fun (r : ℕ × Sys2Proof.Machine.State) => r.2) ?_ ?_
          · refine Keeps.snd ?_
            exact (Keeps.refl _)
          · refine Keeps.iteP (fun (r : ℕ × Sys2Proof.Machine.State) => r.2) ?_ ?_
            · refine Keeps.snd ?_
              refine Keeps.ite ?_ ?_
              · exact Keeps.trans (Keeps.refl _) (State.sbRead_keeps _)
              · exact (Keeps.refl _)
            · refine Keeps.iteP (fun (r : ℕ × Sys2Proof.Machine.State) => r.2) ?_ ?_
              · refine Keeps.snd ?_
                exact (Keeps.refl _)
              · extract_lets +onlyGivenNames -merge x1
                have h2 : Keeps s x1.2 := by
                  unfold x1
                  try beta_reduce
                  exact Keeps.trans (Keeps.refl _) (State.free_keeps _ _)
                try clear_value x1
                exact h2

theorem execDmi_keeps : ∀ p0 p1 p2 s, Good s (@execDmi p0 p1 p2 s) := by
  intro p0 p1 p2 s
  unfold execDmi
  refine Good.ite ?_ ?_
  · refine ⟨_, rfl, ?_⟩
    exact (Keeps.refl _)
  · refine Good.ite ?_ ?_
    · refine ⟨_, rfl, ?_⟩
      refine Keeps.trans ?_ (State.tdo_keeps _ _)
      exact Keeps.trans (Keeps.refl _) (State.shiftIr_keeps _ _)
    · extract_lets +onlyGivenNames -merge x0
      have h1 : Keeps s x0 := by
        unfold x0
        try beta_reduce
        exact Keeps.trans (Keeps.refl _) (State.shiftIr_keeps _ _)
      try clear_value x0
      refine Good.ite ?_ ?_
      · refine ⟨_, rfl, ?_⟩
        exact Keeps.trans h1 (State.tdo_keeps _ _)
      · extract_lets +onlyGivenNames -merge x2
        have h3 : Keeps s x2 := by
          unfold x2
          try beta_reduce
          exact Keeps.trans h1 (State.note_keeps _ _)
        try clear_value x2
        refine Good.ite ?_ ?_
        · refine ⟨_, rfl, ?_⟩
          refine Keeps.trans ?_ (State.tdo_keeps _ _)
          exact Keeps.trans h3 (State.dmWrite_keeps _ _ _)
        · extract_lets +onlyGivenNames -merge x4
          have h5 : Keeps s x4.2 := by
            unfold x4
            try beta_reduce
            exact Keeps.trans h3 (State.dmRead_keeps _ _)
          try clear_value x4
          refine ⟨_, rfl, ?_⟩
          exact Keeps.trans h5 (State.tdo_keeps _ _)

end Sys2Proof.Machine
end

