-- ==== Sys2Proof/Laws/Power.lean ====
section
/-! SUPPORT. What the operations of Machine/Power.lean keep: the queue of waiting commands and the canonical form of the state
(Keeps); and that its commands answer a next state (Good). -/

namespace Sys2Proof.Machine

theorem State.setDuty_keeps : ∀ s p1, Keeps s (@State.setDuty s p1) := by
  intro s p1
  unfold State.setDuty
  exact Keeps.trans (Keeps.refl _) (State.setField_keeps _ _ _ _ _)

theorem State.readBoard_keeps : ∀ s, Keeps s (@State.readBoard s) := by
  intro s
  unfold State.readBoard
  split
  · extract_lets +onlyGivenNames -merge x0
    try clear_value x0
    refine Keeps.trans ?_ (State.setDuty_keeps _ _)
    · exact Keeps.trans (Keeps.refl _) ⟨rfl, id, id, id, id⟩
  · refine Keeps.trans ?_ (State.setDuty_keeps _ _)
    · exact Keeps.trans (Keeps.refl _) ⟨rfl, id, id, id, id⟩

theorem State.pmbus_keeps : ∀ s p1 p2 p3, Keeps s (@State.pmbus s p1 p2 p3) := by
  intro s p1 p2 p3
  unfold State.pmbus
  split
  · extract_lets +onlyGivenNames -merge x0
    try clear_value x0
    exact Keeps.trans (Keeps.refl _) (State.send_keeps _ _)
  · exact (Keeps.refl _)

theorem State.showSpares_keeps : ∀ s, Keeps s (@State.showSpares s) := by
  intro s
  unfold State.showSpares
  refine Keeps.foldl ?_ ?_
  · exact (Keeps.refl _)
  · intro a1 b2 ht0
    try beta_reduce
    exact Keeps.trans ht0 (State.setField_keeps _ _ _ _ _)

theorem State.showRails_keeps : ∀ s, Keeps s (@State.showRails s) := by
  intro s
  unfold State.showRails
  extract_lets +onlyGivenNames -merge x0
  try clear_value x0
  extract_lets +onlyGivenNames -merge x1
  have h2 : Keeps s x1 := by
    unfold x1
    refine Keeps.foldl ?_ ?_
    · exact (Keeps.refl _)
    · intro a4 b5 ht3
      try beta_reduce
      extract_lets +onlyGivenNames -merge x6
      have h7 : Keeps s x6 := by
        unfold x6
        exact Keeps.trans ht3 (State.setField_keeps _ _ _ _ _)
      try clear_value x6
      refine Keeps.ite ?_ ?_
      · exact Keeps.trans h7 (State.setField_keeps _ _ _ _ _)
      · exact h7
  try clear_value x1
  refine Keeps.trans ?_ (State.setField_keeps _ _ _ _ _)
  · exact Keeps.trans h2 (State.setField_keeps _ _ _ _ _)

theorem State.cutCommit_keeps : ∀ s, Keeps s (@State.cutCommit s) := by
  intro s
  unfold State.cutCommit
  refine Keeps.ite ?_ ?_
  · exact (Keeps.refl _)
  · extract_lets +onlyGivenNames -merge x0
    have h1 : Keeps s x0.2 := by
      unfold x0
      try beta_reduce
      exact Keeps.trans (Keeps.refl _) (State.free_keeps _ _)
    try clear_value x0
    extract_lets +onlyGivenNames -merge x2
    have h3 : Keeps s x2 := by
      unfold x2
      try beta_reduce
      exact h1
    try clear_value x2
    split
    · exact h3
    · exact Keeps.trans h3 (State.putFlash_keeps _ _ _ _)
    · exact Keeps.trans h3 (State.putFlash_keeps _ _ _ _)
    · refine Keeps.trans ?_ (State.putFlash_keeps _ _ _ _)
      exact Keeps.trans h3 (State.putFlash_keeps _ _ _ _)

theorem State.toCold_keeps : ∀ s, Keeps s (@State.toCold s) := by
  intro s
  refine Keeps.trans (State.cutCommit_keeps s) ?_
  unfold State.toCold
  generalize s.cutCommit = s
  extract_lets +onlyGivenNames -merge x0 x1 x2 x3
  have h : ∀ t : State, t.pending = s.pending → t.mem = Mem.empty → t.cache = ⟨[], Mem.empty⟩ →
      t.regs = s.regs.filter (fun x => aonReg x.1) → t.cnts = [] → Keeps s t := by
    intro t hp hm hc hr hn
    refine ⟨hp, fun _ => hm ▸ Mem.empty_wf, fun _ => hc ▸ Mem.empty_wf, fun hh => ?_, fun _ => hn ▸ rfl⟩
    rw [hr]
    exact regsForm_filter _ hh
  refine Keeps.trans ?_ (State.setDuty_keeps _ _)
  refine Keeps.trans ?_ (State.showRails_keeps _)
  refine Keeps.trans ?_ (State.showSpares_keeps _)
  exact h _ rfl rfl rfl rfl rfl

theorem State.railOn_keeps : ∀ s p1, Keeps s (@State.railOn s p1) := by
  intro s p1
  unfold State.railOn
  split
  · refine Keeps.trans ?_ (State.pmbus_keeps _ _ _ _)
    · exact Keeps.trans (Keeps.refl _) ⟨rfl, id, id, id, id⟩
  · exact Keeps.trans (Keeps.refl _) ⟨rfl, id, id, id, id⟩

theorem State.railOff_keeps : ∀ s p1, Keeps s (@State.railOff s p1) := by
  intro s p1
  unfold State.railOff
  split
  · refine Keeps.trans ?_ (State.pmbus_keeps _ _ _ _)
    · exact Keeps.trans (Keeps.refl _) ⟨rfl, id, id, id, id⟩
  · exact Keeps.trans (Keeps.refl _) ⟨rfl, id, id, id, id⟩

theorem State.enterShutdown_keeps : ∀ s, Keeps s (@State.enterShutdown s) := by
  intro s
  unfold State.enterShutdown
  refine Keeps.ite ?_ ?_
  · exact (Keeps.refl _)
  · extract_lets +onlyGivenNames -merge x0 x1
    try clear_value x0
    have h2 : Keeps s x1 := by
      unfold x1
      exact Keeps.trans (Keeps.refl _) ⟨rfl, id, id, id, id⟩
    try clear_value x1
    extract_lets +onlyGivenNames -merge x3
    have h4 : Keeps s x3 := by
      unfold x3
      refine Keeps.foldl ?_ ?_
      · exact h2
      · intro a6 b7 ht5
        try beta_reduce
        exact Keeps.trans ht5 (State.retarget_keeps _ _ _)
    try clear_value x3
    refine Keeps.trans ?_ (State.railOff_keeps _ _)
    · exact Keeps.trans h4 (State.setDuty_keeps _ _)

theorem State.stageEnd_keeps : ∀ s, Keeps s (@State.stageEnd s) := by
  intro s
  unfold State.stageEnd
  refine Keeps.ite ?_ ?_
  · exact (Keeps.refl _)
  · exact Keeps.trans (Keeps.refl _) (State.enterShutdown_keeps _)

theorem State.startUp_keeps : ∀ s, Keeps s (@State.startUp s) := by
  intro s
  unfold State.startUp
  extract_lets +onlyGivenNames -merge x0 x1
  try clear_value x0
  have h2 : Keeps s x1 := by
    unfold x1
    exact Keeps.trans (Keeps.refl _) ⟨rfl, id, id, id, id⟩
  try clear_value x1
  refine Keeps.ite ?_ ?_
  · exact h2
  · exact Keeps.trans h2 (State.railOn_keeps _ _)

theorem State.tripCheck_keeps : ∀ s, Keeps s (@State.tripCheck s) := by
  intro s
  unfold State.tripCheck
  extract_lets +onlyGivenNames -merge x0
  try clear_value x0
  refine Keeps.ite ?_ ?_
  · extract_lets +onlyGivenNames -merge x1 x2
    try clear_value x1
    have h3 : Keeps s x2 := by
      unfold x2
      exact Keeps.trans (Keeps.refl _) ⟨rfl, id, id, id, id⟩
    try clear_value x2
    extract_lets +onlyGivenNames -merge x4
    have h5 : Keeps s x4 := by
      unfold x4
      refine Keeps.foldl ?_ ?_
      · exact h3
      · intro a7 b8 ht6
        try beta_reduce
        refine Keeps.ite ?_ ?_
        · exact Keeps.trans ht6 (State.setField_keeps _ _ _ _ _)
        · exact ht6
    try clear_value x4
    refine Keeps.ite ?_ ?_
    · exact Keeps.trans h5 (State.startUp_keeps _)
    · exact h5
  · exact (Keeps.refl _)

theorem execPwrReqOn_keeps : ∀ s, Good s (@execPwrReqOn s) := by
  intro s
  unfold execPwrReqOn
  refine Good.ite ?_ ?_
  · refine ⟨_, rfl, ?_⟩
    exact (Keeps.refl _)
  · extract_lets +onlyGivenNames -merge x0 x1
    try clear_value x0
    have h2 : Keeps s x1 := by
      unfold x1
      exact Keeps.trans (Keeps.refl _) ⟨rfl, id, id, id, id⟩
    try clear_value x1
    refine Good.ite ?_ ?_
    · refine ⟨_, rfl, ?_⟩
      refine Keeps.trans ?_ (State.tripCheck_keeps _)
      · exact Keeps.trans h2 ⟨rfl, id, id, id, id⟩
    · refine Good.ite ?_ ?_
      · refine ⟨_, rfl, ?_⟩
        exact Keeps.trans h2 (State.startUp_keeps _)
      · refine Good.ite ?_ ?_
        · refine ⟨_, rfl, ?_⟩
          exact Keeps.trans h2 ⟨rfl, id, id, id, id⟩
        · refine ⟨_, rfl, ?_⟩
          exact h2

theorem execPwrReqOff_keeps : ∀ s, Good s (@execPwrReqOff s) := by
  intro s
  unfold execPwrReqOff
  refine Good.ite ?_ ?_
  · refine ⟨_, rfl, ?_⟩
    exact (Keeps.refl _)
  · extract_lets +onlyGivenNames -merge x0 x1
    try clear_value x0
    have h2 : Keeps s x1 := by
      unfold x1
      exact Keeps.trans (Keeps.refl _) ⟨rfl, id, id, id, id⟩
    try clear_value x1
    refine Good.ite ?_ ?_
    · refine ⟨_, rfl, ?_⟩
      exact h2
    · refine ⟨_, rfl, ?_⟩
      exact Keeps.trans h2 (State.enterShutdown_keeps _)

theorem execRailSequenceNext_keeps : ∀ s, Good s (@execRailSequenceNext s) := by
  intro s
  unfold execRailSequenceNext
  split
  · refine Good.ite ?_ ?_
    · refine ⟨_, rfl, ?_⟩
      exact (Keeps.refl _)
    · extract_lets +onlyGivenNames -merge x0
      have h1 : Keeps s x0 := by
        unfold x0
        exact Keeps.trans (Keeps.refl _) (State.railOn_keeps _ _)
      try clear_value x0
      refine ⟨_, rfl, ?_⟩
      refine Keeps.ite ?_ ?_
      · exact Keeps.trans h1 (State.stageEnd_keeps _)
      · exact h1
  · refine ⟨_, rfl, ?_⟩
    exact (Keeps.refl _)

theorem execShutdownRailOff_keeps : ∀ s, Good s (@execShutdownRailOff s) := by
  intro s
  unfold execShutdownRailOff
  split
  · refine Good.ite ?_ ?_
    · refine ⟨_, rfl, ?_⟩
      exact Keeps.trans (Keeps.refl _) (State.railOff_keeps _ _)
    · refine ⟨_, rfl, ?_⟩
      exact (Keeps.refl _)
  · refine ⟨_, rfl, ?_⟩
    exact (Keeps.refl _)

theorem execColdEntry_keeps : ∀ s, Good s (@execColdEntry s) := by
  intro s
  unfold execColdEntry
  refine Good.ite ?_ ?_
  · refine ⟨_, rfl, ?_⟩
    exact (Keeps.refl _)
  · extract_lets +onlyGivenNames -merge x0
    have h1 : Keeps s x0 := by
      unfold x0
      exact Keeps.trans (Keeps.refl _) (State.toCold_keeps _)
    try clear_value x0
    refine ⟨_, rfl, ?_⟩
    refine Keeps.ite ?_ ?_
    · exact Keeps.trans h1 (State.startUp_keeps _)
    · exact h1

theorem execPwrGoodValid_keeps : ∀ p0 s, Good s (@execPwrGoodValid p0 s) := by
  intro p0 s
  unfold execPwrGoodValid
  refine Good.ite ?_ ?_
  · refine ⟨_, rfl, ?_⟩
    exact (Keeps.refl _)
  · refine ⟨_, rfl, ?_⟩
    refine Keeps.trans ?_ (State.showRails_keeps _)
    · exact Keeps.trans (Keeps.refl _) ⟨rfl, id, id, id, id⟩

theorem execSupplyReset_keeps : ∀ p0 s, Good s (@execSupplyReset p0 s) := by
  intro p0 s
  unfold execSupplyReset
  refine Good.ite ?_ ?_
  · refine ⟨_, rfl, ?_⟩
    exact (Keeps.refl _)
  · extract_lets +onlyGivenNames -merge x0 x1
    try clear_value x0
    have h2 : Keeps s x1 := by
      unfold x1
      split
      · exact Keeps.trans (Keeps.refl _) ⟨rfl, id, id, id, id⟩
      · exact (Keeps.refl _)
    try clear_value x1
    refine Good.ite ?_ ?_
    · refine ⟨_, rfl, ?_⟩
      exact Keeps.trans h2 (State.showRails_keeps _)
    · refine ⟨_, rfl, ?_⟩
      exact Keeps.trans h2 (State.toCold_keeps _)

theorem execRailOvervoltage_keeps : ∀ p0 s, Good s (@execRailOvervoltage p0 s) := by
  intro p0 s
  unfold execRailOvervoltage
  refine Good.ite ?_ ?_
  · refine ⟨_, rfl, ?_⟩
    exact Keeps.trans (Keeps.refl _) (State.toCold_keeps _)
  · refine ⟨_, rfl, ?_⟩
    exact (Keeps.refl _)

theorem execRefclkLoss_keeps : ∀ s, Good s (@execRefclkLoss s) := by
  intro s
  unfold execRefclkLoss
  refine Good.ite ?_ ?_
  · refine ⟨_, rfl, ?_⟩
    refine Keeps.trans ?_ (State.toCold_keeps _)
    · exact Keeps.trans (Keeps.refl _) ⟨rfl, id, id, id, id⟩
  · refine ⟨_, rfl, ?_⟩
    exact (Keeps.refl _)

theorem execRefclk25mReturn_keeps : ∀ s, Good s (@execRefclk25mReturn s) := by
  intro s
  unfold execRefclk25mReturn
  refine Good.ite ?_ ?_
  · refine ⟨_, rfl, ?_⟩
    refine Keeps.trans ?_ (State.showRails_keeps _)
    · exact Keeps.trans (Keeps.refl _) ⟨rfl, id, id, id, id⟩
  · refine ⟨_, rfl, ?_⟩
    exact (Keeps.refl _)

theorem execPowerOnReset_keeps : ∀ s, Good s (@execPowerOnReset s) := by
  intro s
  unfold execPowerOnReset
  extract_lets +onlyGivenNames -merge x0
  have h1 : Keeps s x0 := by
    unfold x0
    exact Keeps.trans (Keeps.refl _) (State.toCold_keeps _)
  try clear_value x0
  refine ⟨_, rfl, ?_⟩
  refine Keeps.trans ?_ (State.showRails_keeps _)
  · refine Keeps.trans ?_ (State.showSpares_keeps _)
    · refine Keeps.trans h1 (Keeps.mk rfl ?_ ?_ ?_ ?_) <;> intro hh <;>
        (first | exact hh | exact Mem.writeUnit_wf _ _ _ hh | exact Mem.zero_wf _ _ hh | exact regsForm_filter _ hh
               | exact SMap.wf_clear _ _ hh | exact SMap.wf_set _ _ hh | exact regsForm_set _ _ hh | exact Mem.empty_wf | rfl
               | exact SMap.wf_clear _ _ (SMap.wf_clear _ _ hh) | exact regsForm_clear _ _ (regsForm_clear _ _ hh))

theorem execStrapSample_keeps : ∀ p0 p1 s, Good s (@execStrapSample p0 p1 s) := by
  intro p0 p1 s
  unfold execStrapSample
  refine Good.ite ?_ ?_
  · refine ⟨_, rfl, ?_⟩
    exact (Keeps.refl _)
  · refine ⟨_, rfl, ?_⟩
    exact Keeps.trans (Keeps.refl _) ⟨rfl, id, id, id, id⟩

theorem execCollectionWindowClose_keeps : ∀ s, Good s (@execCollectionWindowClose s) := by
  intro s
  unfold execCollectionWindowClose
  refine Good.ite ?_ ?_
  · refine ⟨_, rfl, ?_⟩
    exact (Keeps.refl _)
  · extract_lets +onlyGivenNames -merge x0
    try clear_value x0
    extract_lets +onlyGivenNames -merge x1
    try clear_value x1
    extract_lets +onlyGivenNames -merge x2
    try clear_value x2
    extract_lets +onlyGivenNames -merge x3
    try clear_value x3
    extract_lets +onlyGivenNames -merge x4
    try clear_value x4
    refine ⟨_, rfl, ?_⟩
    refine Keeps.trans ?_ (State.setReg_keeps _ _ _)
    · exact Keeps.trans (Keeps.refl _) ⟨rfl, id, id, id, id⟩

theorem execRailWarning_keeps : ∀ p0 s, Good s (@execRailWarning p0 s) := by
  intro p0 s
  unfold execRailWarning
  refine Good.ite ?_ ?_
  · refine ⟨_, rfl, ?_⟩
    exact (Keeps.refl _)
  · extract_lets +onlyGivenNames -merge x0
    have h1 : Keeps s x0 := by
      unfold x0
      exact Keeps.trans (Keeps.refl _) (State.setField_keeps _ _ _ _ _)
    try clear_value x0
    extract_lets +onlyGivenNames -merge x2 x3
    try clear_value x2
    have h4 : Keeps s x3 := by
      unfold x3
      exact Keeps.trans h1 ⟨rfl, id, id, id, id⟩
    try clear_value x3
    refine Good.ite ?_ ?_
    · refine ⟨_, rfl, ?_⟩
      exact Keeps.trans h4 (State.deviceEvent_keeps _ _ _)
    · extract_lets +onlyGivenNames -merge x5
      try clear_value x5
      extract_lets +onlyGivenNames -merge x6
      have h7 : Keeps s x6 := by
        unfold x6
        refine Keeps.foldl ?_ ?_
        · exact h4
        · intro a9 b10 ht8
          try beta_reduce
          exact Keeps.trans ht8 (State.setPart_keeps _ _ _)
      try clear_value x6
      extract_lets +onlyGivenNames -merge x11 x12
      try clear_value x11
      have h13 : Keeps s x12 := by
        unfold x12
        exact Keeps.trans h7 ⟨rfl, id, id, id, id⟩
      try clear_value x12
      refine ⟨_, rfl, ?_⟩
      exact Keeps.trans h13 (State.deviceEvent_keeps _ _ _)

theorem execRailRecovery_keeps : ∀ p0 s, Good s (@execRailRecovery p0 s) := by
  intro p0 s
  unfold execRailRecovery
  refine Good.ite ?_ ?_
  · refine ⟨_, rfl, ?_⟩
    exact (Keeps.refl _)
  · extract_lets +onlyGivenNames -merge x0
    try clear_value x0
    extract_lets +onlyGivenNames -merge x1
    try clear_value x1
    extract_lets +onlyGivenNames -merge x2
    have h3 : Keeps s x2 := by
      unfold x2
      try beta_reduce
      refine Keeps.foldl ?_ ?_
      · exact (Keeps.refl _)
      · intro a4 b5 ht6
        try beta_reduce
        refine Keeps.ite ?_ ?_
        · exact ht6
        · extract_lets +onlyGivenNames -merge x7
          have h8 : Keeps s x7 := by
            unfold x7
            try beta_reduce
            refine Keeps.ite ?_ ?_
            · exact Keeps.trans ht6 (State.countPause_keeps _ _ _ _)
            · exact ht6
          try clear_value x7
          extract_lets +onlyGivenNames -merge x9
          try clear_value x9
          extract_lets +onlyGivenNames -merge x10
          have h11 : Keeps s x10 := by
            unfold x10
            try beta_reduce
            exact Keeps.trans h8 (State.setPart_keeps _ _ _)
          try clear_value x10
          refine Keeps.ite ?_ ?_
          · exact Keeps.trans h11 (State.recoverable_keeps _ _ _ _)
          · exact h11
    try clear_value x2
    extract_lets +onlyGivenNames -merge x12
    try clear_value x12
    extract_lets +onlyGivenNames -merge x13
    have h14 : Keeps s x13 := by
      unfold x13
      try beta_reduce
      exact Keeps.trans h3 ⟨rfl, id, id, id, id⟩
    try clear_value x13
    extract_lets +onlyGivenNames -merge x15
    have h16 : Keeps s x15 := by
      unfold x15
      try beta_reduce
      refine Keeps.ite ?_ ?_
      · exact Keeps.trans h14 (State.setReg_keeps _ _ _)
      · exact h14
    try clear_value x15
    refine ⟨_, rfl, ?_⟩
    exact Keeps.trans h16 (State.deviceEventEnds_keeps _ _)

theorem execBrownoutTimeout_keeps : ∀ s, Good s (@execBrownoutTimeout s) := by
  intro s
  unfold execBrownoutTimeout
  refine Good.ite ?_ ?_
  · refine ⟨_, rfl, ?_⟩
    exact (Keeps.refl _)
  · extract_lets +onlyGivenNames -merge x0
    have h1 : Keeps s x0 := by
      unfold x0
      refine Keeps.foldl ?_ ?_
      · exact (Keeps.refl _)
      · intro a3 b4 ht2
        try beta_reduce
        refine Keeps.trans ?_ (State.setPart_keeps _ _ _)
        · exact Keeps.trans ht2 (State.faultPart_keeps _ _ _ _)
    try clear_value x0
    refine ⟨_, rfl, ?_⟩
    exact Keeps.trans h1 ⟨rfl, id, id, id, id⟩

theorem State.railFault_keeps : ∀ s p1, Keeps s (@State.railFault s p1) := by
  intro s p1
  unfold State.railFault
  refine Keeps.trans ?_ (State.deviceEvent_keeps _ _ _)
  · refine Keeps.trans ?_ (State.pmbus_keeps _ _ _ _)
    · exact Keeps.trans (Keeps.refl _) (State.setField_keeps _ _ _ _ _)

theorem State.pollRail_keeps : ∀ s p1 p2, Keeps s (@State.pollRail s p1 p2) := by
  intro s p1 p2
  unfold State.pollRail
  refine Keeps.ite ?_ ?_
  · exact (Keeps.refl _)
  · extract_lets +onlyGivenNames -merge x0
    have h1 : Keeps s x0 := by
      unfold x0
      refine Keeps.foldl ?_ ?_
      · exact (Keeps.refl _)
      · intro a3 b4 ht2
        try beta_reduce
        exact Keeps.trans ht2 (State.pmbus_keeps _ _ _ _)
    try clear_value x0
    split
    · extract_lets +onlyGivenNames -merge x5 x6
      try clear_value x5
      have h7 : Keeps s x6 := by
        unfold x6
        exact Keeps.trans h1 ⟨rfl, id, id, id, id⟩
      try clear_value x6
      extract_lets +onlyGivenNames -merge x8
      have h9 : Keeps s x8 := by
        unfold x8
        exact Keeps.trans h7 (State.setField_keeps _ _ _ _ _)
      try clear_value x8
      extract_lets +onlyGivenNames -merge x10
      have h11 : Keeps s x10 := by
        unfold x10
        exact Keeps.trans h9 (State.setReg_keeps _ _ _)
      try clear_value x10
      refine Keeps.ite ?_ ?_
      · exact Keeps.trans h11 (State.railFault_keeps _ _)
      · exact h11
    · extract_lets +onlyGivenNames -merge x12
      try clear_value x12
      extract_lets +onlyGivenNames -merge x13 x14
      try clear_value x13
      have h15 : Keeps s x14 := by
        unfold x14
        exact Keeps.trans h1 ⟨rfl, id, id, id, id⟩
      try clear_value x14
      refine Keeps.ite ?_ ?_
      · exact Keeps.trans h15 (State.railFault_keeps _ _)
      · exact h15

theorem State.pollRails_keeps : ∀ s p1, Keeps s (@State.pollRails s p1) := by
  intro s p1
  unfold State.pollRails
  refine Keeps.ite ?_ ?_
  · exact (Keeps.refl _)
  · refine Keeps.foldl ?_ ?_
    · exact (Keeps.refl _)
    · intro a1 b2 ht0
      try beta_reduce
      exact Keeps.trans ht0 (State.pollRail_keeps _ _ _)

theorem execPmbusPoll_keeps : ∀ p0 s, Good s (@execPmbusPoll p0 s) := by
  intro p0 s
  unfold execPmbusPoll
  refine ⟨_, rfl, ?_⟩
  exact Keeps.trans (Keeps.refl _) (State.pollRails_keeps _ _)

theorem execPmbAlert_keeps : ∀ p0 s, Good s (@execPmbAlert p0 s) := by
  intro p0 s
  unfold execPmbAlert
  refine ⟨_, rfl, ?_⟩
  exact Keeps.trans (Keeps.refl _) (State.pollRails_keeps _ _)

theorem execAvsUpdate_keeps : ∀ p0 s, Good s (@execAvsUpdate p0 s) := by
  intro p0 s
  unfold execAvsUpdate
  refine Good.ite ?_ ?_
  · refine ⟨_, rfl, ?_⟩
    exact (Keeps.refl _)
  · extract_lets +onlyGivenNames -merge x0
    try clear_value x0
    extract_lets +onlyGivenNames -merge x1
    have h2 : Keeps s x1 := by
      unfold x1
      try beta_reduce
      refine Keeps.foldl ?_ ?_
      · exact (Keeps.refl _)
      · intro a3 b4 ht5
        try beta_reduce
        extract_lets +onlyGivenNames -merge x6
        try clear_value x6
        refine Keeps.ite ?_ ?_
        · exact ht5
        · extract_lets +onlyGivenNames -merge x7
          try clear_value x7
          extract_lets +onlyGivenNames -merge x8
          try clear_value x8
          refine Keeps.ite ?_ ?_
          · exact ht5
          · extract_lets +onlyGivenNames -merge x9
            try clear_value x9
            extract_lets +onlyGivenNames -merge x10
            try clear_value x10
            extract_lets +onlyGivenNames -merge x11
            try clear_value x11
            refine Keeps.trans ?_ (State.pmbus_keeps _ _ _ _)
            exact Keeps.trans ht5 (State.setField_keeps _ _ _ _ _)
    try clear_value x1
    refine ⟨_, rfl, ?_⟩
    refine Keeps.foldl ?_ ?_
    · exact h2
    · intro a12 b13 ht14
      try beta_reduce
      extract_lets +onlyGivenNames -merge x15
      try clear_value x15
      extract_lets +onlyGivenNames -merge x16
      try clear_value x16
      exact Keeps.trans ht14 (State.setBlock_keeps _ _ _)

theorem execPointChangeDone_keeps : ∀ p0 s, Good s (@execPointChangeDone p0 s) := by
  intro p0 s
  unfold execPointChangeDone
  refine ⟨_, rfl, ?_⟩
  exact Keeps.trans (Keeps.refl _) (State.setField_keeps _ _ _ _ _)

theorem execApertureAdmit_keeps : ∀ p0 s, Good s (@execApertureAdmit p0 s) := by
  intro p0 s
  unfold execApertureAdmit
  split
  · refine ⟨_, rfl, ?_⟩
    exact (Keeps.refl _)
  · refine Good.ite ?_ ?_
    · refine ⟨_, rfl, ?_⟩
      exact (Keeps.refl _)
    · extract_lets +onlyGivenNames -merge x0
      have h1 : Keeps s x0 := by
        unfold x0
        exact Keeps.trans (Keeps.refl _) ⟨rfl, id, id, id, id⟩
      try clear_value x0
      extract_lets +onlyGivenNames -merge x2 x3
      try clear_value x2
      have h4 : Keeps s x3 := by
        unfold x3
        exact Keeps.trans h1 (State.setBlock_keeps _ _ _)
      try clear_value x3
      refine ⟨_, rfl, ?_⟩
      exact Keeps.trans h4 (State.countField_keeps _ _ _ _ _)

theorem execRampEnd_keeps : ∀ p0 s, Good s (@execRampEnd p0 s) := by
  intro p0 s
  unfold execRampEnd
  extract_lets +onlyGivenNames -merge x0
  try clear_value x0
  refine Good.ite ?_ ?_
  · refine ⟨_, rfl, ?_⟩
    exact (Keeps.refl _)
  · extract_lets +onlyGivenNames -merge x1
    try clear_value x1
    refine ⟨_, rfl, ?_⟩
    exact Keeps.trans (Keeps.refl _) (State.setBlock_keeps _ _ _)

theorem execBlockLowerEnd_keeps : ∀ p0 s, Good s (@execBlockLowerEnd p0 s) := by
  intro p0 s
  unfold execBlockLowerEnd
  extract_lets +onlyGivenNames -merge x0
  try clear_value x0
  refine Good.ite ?_ ?_
  · refine ⟨_, rfl, ?_⟩
    exact (Keeps.refl _)
  · refine ⟨_, rfl, ?_⟩
    exact Keeps.trans (Keeps.refl _) (State.setBlock_keeps _ _ _)

theorem execDeviceWindowExpiry_keeps : ∀ p0 s, Good s (@execDeviceWindowExpiry p0 s) := by
  intro p0 s
  unfold execDeviceWindowExpiry
  refine Good.ite ?_ ?_
  · refine ⟨_, rfl, ?_⟩
    exact (Keeps.refl _)
  · refine ⟨_, rfl, ?_⟩
    exact Keeps.trans (Keeps.refl _) (State.setField_keeps _ _ _ _ _)

theorem execEntropyHealthFail_keeps : ∀ s, Good s (@execEntropyHealthFail s) := by
  intro s
  unfold execEntropyHealthFail
  refine ⟨_, rfl, ?_⟩
  refine Keeps.trans ?_ (State.setField_keeps _ _ _ _ _)
  · exact Keeps.trans (Keeps.refl _) ⟨rfl, id, id, id, id⟩

theorem execEntropyHealthRecovery_keeps : ∀ s, Good s (@execEntropyHealthRecovery s) := by
  intro s
  unfold execEntropyHealthRecovery
  refine ⟨_, rfl, ?_⟩
  refine Keeps.trans ?_ (State.setField_keeps _ _ _ _ _)
  · exact Keeps.trans (Keeps.refl _) ⟨rfl, id, id, id, id⟩

theorem execAlertResponseAddressRead_keeps : ∀ s, Good s (@execAlertResponseAddressRead s) := by
  intro s
  unfold execAlertResponseAddressRead
  refine Good.ite ?_ ?_
  · refine ⟨_, rfl, ?_⟩
    exact (Keeps.refl _)
  · refine ⟨_, rfl, ?_⟩
    refine Keeps.trans ?_ (State.send_keeps _ _)
    · exact Keeps.trans (Keeps.refl _) ⟨rfl, id, id, id, id⟩

theorem execAddressResolutionProtocol_keeps : ∀ p0 s, Good s (@execAddressResolutionProtocol p0 s) := by
  intro p0 s
  unfold execAddressResolutionProtocol
  refine Good.ite ?_ ?_
  · refine ⟨_, rfl, ?_⟩
    exact (Keeps.refl _)
  · extract_lets +onlyGivenNames -merge x0
    have h1 : Keeps s x0.2 := by
      unfold x0
      exact Keeps.trans (Keeps.refl _) (State.free_keeps _ _)
    try clear_value x0
    extract_lets +onlyGivenNames -merge x2
    try clear_value x2
    refine ⟨_, rfl, ?_⟩
    refine Keeps.trans ?_ (State.send_keeps _ _)
    · extract_lets +onlyGivenNames -merge x3
      have h4 : Keeps s x3 := by
        unfold x3
        exact h1
      try clear_value x3
      exact Keeps.trans h4 ⟨rfl, id, id, id, id⟩

end Sys2Proof.Machine
end

