-- ==== Sys2Proof/Laws/Thermal.lean ====
section
/-! SUPPORT. What the operations of Machine/Thermal.lean keep: the queue of waiting commands and the canonical form of the state
(Keeps); and that its commands answer a next state (Good). -/

namespace Sys2Proof.Machine

theorem State.showThrottle_keeps : ∀ s, Keeps s (@State.showThrottle s) := by
  intro s
  unfold State.showThrottle
  refine Keeps.foldl ?_ ?_
  · exact (Keeps.refl _)
  · intro a1 b2 ht0
    try beta_reduce
    refine Keeps.ite ?_ ?_
    · exact Keeps.trans ht0 (State.setReg_keeps _ _ _)
    · extract_lets +onlyGivenNames -merge x3
      try clear_value x3
      extract_lets +onlyGivenNames -merge x4
      try clear_value x4
      extract_lets +onlyGivenNames -merge x5
      try clear_value x5
      extract_lets +onlyGivenNames -merge x6
      try clear_value x6
      exact Keeps.trans ht0 (State.setReg_keeps _ _ _)

theorem State.coolDown_keeps : ∀ s, Keeps s (@State.coolDown s) := by
  intro s
  unfold State.coolDown
  refine Keeps.ite ?_ ?_
  · exact (Keeps.refl _)
  · exact Keeps.trans (Keeps.refl _) (State.deviceEventEnds_keeps _ _)

theorem State.trip_keeps : ∀ s p1 p2 p3, Keeps s (@State.trip s p1 p2 p3) := by
  intro s p1 p2 p3
  unfold State.trip
  refine Keeps.ite ?_ ?_
  · exact (Keeps.refl _)
  · extract_lets +onlyGivenNames -merge x0
    try clear_value x0
    refine Keeps.trans ?_ (State.enterShutdown_keeps _)
    · refine Keeps.trans ?_ (State.setReg_keeps _ _ _)
      · exact Keeps.trans (Keeps.refl _) ⟨rfl, id, id, id, id⟩

theorem State.rebands_keeps : ∀ s p1, Keeps s (@State.rebands s p1) := by
  intro s p1
  unfold State.rebands
  refine Keeps.foldl ?_ ?_
  · exact (Keeps.refl _)
  · intro a1 b2 ht0
    try beta_reduce
    refine Keeps.ite ?_ ?_
    · exact ht0
    · exact Keeps.trans ht0 (State.setPart_keeps _ _ _)

theorem State.noteSample_keeps : ∀ s p1 p2 p3, Keeps s (@State.noteSample s p1 p2 p3) := by
  intro s p1 p2 p3
  unfold State.noteSample
  extract_lets +onlyGivenNames -merge x0
  try clear_value x0
  extract_lets +onlyGivenNames -merge x1
  have h2 : Keeps s x1 := by
    unfold x1
    exact Keeps.trans (Keeps.refl _) (State.setReg_keeps _ _ _)
  try clear_value x1
  exact Keeps.trans h2 ⟨rfl, id, id, id, id⟩

theorem State.stackMode_keeps : ∀ s p1 p2, Keeps s (@State.stackMode s p1 p2) := by
  intro s p1 p2
  unfold State.stackMode
  extract_lets +onlyGivenNames -merge x0 x1
  try clear_value x0
  have h2 : Keeps s x1 := by
    unfold x1
    exact Keeps.trans (Keeps.refl _) ⟨rfl, id, id, id, id⟩
  try clear_value x1
  refine Keeps.foldl ?_ ?_
  · exact h2
  · intro a4 b5 ht3
    try beta_reduce
    exact Keeps.trans ht3 (State.showRefresh_keeps _ _)

theorem State.sampleLimit_keeps : ∀ s p1 p2 p3 p4, Keeps s (@State.sampleLimit s p1 p2 p3 p4) := by
  intro s p1 p2 p3 p4
  unfold State.sampleLimit
  refine Keeps.ite ?_ ?_
  · extract_lets +onlyGivenNames -merge x0
    try clear_value x0
    extract_lets +onlyGivenNames -merge x1 x2
    try clear_value x1
    have h3 : Keeps s x2 := by
      unfold x2
      exact Keeps.trans (Keeps.refl _) ⟨rfl, id, id, id, id⟩
    try clear_value x2
    refine Keeps.trans ?_ (State.showThrottle_keeps _)
    · refine Keeps.ite ?_ ?_
      · exact Keeps.trans h3 (State.deviceEvent_keeps _ _ _)
      · exact h3
  · refine Keeps.ite ?_ ?_
    · exact Keeps.trans (Keeps.refl _) (State.coolDown_keeps _)
    · exact (Keeps.refl _)

theorem execThermalSample_keeps : ∀ p0 p1 p2 p3 s, Good s (@execThermalSample p0 p1 p2 p3 s) := by
  intro p0 p1 p2 p3 s
  unfold execThermalSample
  split
  · refine ⟨_, rfl, ?_⟩
    exact (Keeps.refl _)
  · refine Good.ite ?_ ?_
    · refine ⟨_, rfl, ?_⟩
      exact (Keeps.refl _)
    · extract_lets +onlyGivenNames -merge x0
      try clear_value x0
      extract_lets +onlyGivenNames -merge x1
      try clear_value x1
      extract_lets +onlyGivenNames -merge x2
      have h3 : Keeps s x2 := by
        unfold x2
        exact Keeps.trans (Keeps.refl _) (State.noteSample_keeps _ _ _ _)
      try clear_value x2
      extract_lets +onlyGivenNames -merge x4
      have h5 : Keeps s x4 := by
        unfold x4
        refine Keeps.ite ?_ ?_
        · exact Keeps.trans h3 (State.rebands_keeps _ _)
        · exact h3
      try clear_value x4
      extract_lets +onlyGivenNames -merge x6
      have h7 : Keeps s x6 := by
        unfold x6
        refine Keeps.ite ?_ ?_
        · exact Keeps.trans h5 (State.stackMode_keeps _ _ _)
        · exact h5
      try clear_value x6
      extract_lets +onlyGivenNames -merge x8
      have h9 : Keeps s x8 := by
        unfold x8
        refine Keeps.ite ?_ ?_
        · exact Keeps.trans h7 (State.setDuty_keeps _ _)
        · exact h7
      try clear_value x8
      extract_lets +onlyGivenNames -merge x10
      have h11 : Keeps s x10 := by
        unfold x10
        exact Keeps.trans h9 (State.sampleLimit_keeps _ _ _ _ _)
      try clear_value x10
      refine ⟨_, rfl, ?_⟩
      refine Keeps.ite ?_ ?_
      · exact Keeps.trans h11 (State.trip_keeps _ _ _ _)
      · exact Keeps.trans h11 (State.tripCheck_keeps _)

theorem execPowerSample_keeps : ∀ p0 p1 s, Good s (@execPowerSample p0 p1 s) := by
  intro p0 p1 s
  unfold execPowerSample
  refine Good.ite ?_ ?_
  · refine ⟨_, rfl, ?_⟩
    exact (Keeps.refl _)
  · extract_lets +onlyGivenNames -merge x0
    try clear_value x0
    extract_lets +onlyGivenNames -merge x1
    try clear_value x1
    extract_lets +onlyGivenNames -merge x2
    try clear_value x2
    extract_lets +onlyGivenNames -merge x3
    try clear_value x3
    extract_lets +onlyGivenNames -merge x4
    try clear_value x4
    extract_lets +onlyGivenNames -merge x5
    have h6 : Keeps s x5 := by
      unfold x5
      exact Keeps.trans (Keeps.refl _) ⟨rfl, id, id, id, id⟩
    try clear_value x5
    extract_lets +onlyGivenNames -merge x7
    have h8 : Keeps s x7 := by
      unfold x7
      exact Keeps.trans h6 (State.setField_keeps _ _ _ _ _)
    try clear_value x7
    refine ⟨_, rfl, ?_⟩
    refine Keeps.ite ?_ ?_
    · exact Keeps.trans h8 (State.showThrottle_keeps _)
    · exact h8

theorem State.irisTile_keeps : ∀ s p1, Keeps s (@State.irisTile s p1) := by
  intro s p1
  unfold State.irisTile
  extract_lets +onlyGivenNames -merge x0
  try clear_value x0
  extract_lets +onlyGivenNames -merge x1
  try clear_value x1
  extract_lets +onlyGivenNames -merge x2
  try clear_value x2
  extract_lets +onlyGivenNames -merge x3
  try clear_value x3
  extract_lets +onlyGivenNames -merge x4
  try clear_value x4
  extract_lets +onlyGivenNames -merge x5
  try clear_value x5
  extract_lets +onlyGivenNames -merge x6
  try clear_value x6
  extract_lets +onlyGivenNames -merge x7
  have h8 : Keeps s x7 := by
    unfold x7
    exact Keeps.trans (Keeps.refl _) ⟨rfl, id, id, id, id⟩
  try clear_value x7
  extract_lets +onlyGivenNames -merge x9
  try clear_value x9
  extract_lets +onlyGivenNames -merge x10
  try clear_value x10
  extract_lets +onlyGivenNames -merge x11
  try clear_value x11
  exact Keeps.trans h8 (State.setReg_keeps _ _ _)

theorem State.irisSources_keeps : ∀ s p1 p2, Keeps s (@State.irisSources s p1 p2) := by
  intro s p1 p2
  unfold State.irisSources
  extract_lets +onlyGivenNames -merge x0
  try clear_value x0
  extract_lets +onlyGivenNames -merge x1
  try clear_value x1
  extract_lets +onlyGivenNames -merge x2
  try clear_value x2
  extract_lets +onlyGivenNames -merge x3
  try clear_value x3
  exact Keeps.trans (Keeps.refl _) ⟨rfl, id, id, id, id⟩

theorem State.irisUnmet_keeps : ∀ s p1 p2, Keeps s (@State.irisUnmet s p1 p2) := by
  intro s p1 p2
  unfold State.irisUnmet
  extract_lets +onlyGivenNames -merge x0
  try clear_value x0
  extract_lets +onlyGivenNames -merge x1
  try clear_value x1
  extract_lets +onlyGivenNames -merge x2 x3
  try clear_value x2
  have h4 : Keeps s x3 := by
    unfold x3
    exact Keeps.trans (Keeps.refl _) ⟨rfl, id, id, id, id⟩
  try clear_value x3
  refine Keeps.ite ?_ ?_
  · exact Keeps.trans h4 (State.setField_keeps _ _ _ _ _)
  · exact h4

theorem execIrisEvaluation_keeps : ∀ s, Good s (@execIrisEvaluation s) := by
  intro s
  unfold execIrisEvaluation
  refine Good.ite ?_ ?_
  · refine ⟨_, rfl, ?_⟩
    exact (Keeps.refl _)
  · extract_lets +onlyGivenNames -merge x0
    try clear_value x0
    extract_lets +onlyGivenNames -merge x1
    try clear_value x1
    extract_lets +onlyGivenNames -merge x2
    try clear_value x2
    extract_lets +onlyGivenNames -merge x3
    have h4 : Keeps s x3 := by
      unfold x3
      refine Keeps.ite ?_ ?_
      · exact (Keeps.refl _)
      · exact Keeps.trans (Keeps.refl _) (State.setField_keeps _ _ _ _ _)
    try clear_value x3
    extract_lets +onlyGivenNames -merge x5 x6 x7
    have h8 : Keeps s x5 := by
      unfold x5
      refine Keeps.foldl ?_ ?_
      · exact h4
      · intro a10 b11 ht9
        try beta_reduce
        exact Keeps.trans ht9 (State.irisTile_keeps _ _)
    try clear_value x5
    try clear_value x6
    have h12 : Keeps s x7 := by
      unfold x7
      refine Keeps.ite ?_ ?_
      · exact h4
      · exact Keeps.trans h8 (State.setField_keeps _ _ _ _ _)
    try clear_value x7
    extract_lets +onlyGivenNames -merge x13
    try clear_value x13
    extract_lets +onlyGivenNames -merge x14
    have h15 : Keeps s x14 := by
      unfold x14
      exact Keeps.trans h12 (State.setField_keeps _ _ _ _ _)
    try clear_value x14
    extract_lets +onlyGivenNames -merge x16
    have h17 : Keeps s x16 := by
      unfold x16
      refine Keeps.trans ?_ (State.showThrottle_keeps _)
      · exact Keeps.trans h15 (State.irisSources_keeps _ _ _)
    try clear_value x16
    extract_lets +onlyGivenNames -merge x18
    have h19 : Keeps s x18 := by
      unfold x18
      refine Keeps.ite ?_ ?_
      · exact h17
      · exact Keeps.trans h17 (State.irisUnmet_keeps _ _ _)
    try clear_value x18
    extract_lets +onlyGivenNames -merge x20 x21
    try clear_value x20
    have h22 : Keeps s x21 := by
      unfold x21
      exact Keeps.trans h19 ⟨rfl, id, id, id, id⟩
    try clear_value x21
    refine ⟨_, rfl, ?_⟩
    exact Keeps.trans h22 ⟨rfl, id, id, id, id⟩

theorem State.noteCoolant_keeps : ∀ s p1 p2, Keeps s (@State.noteCoolant s p1 p2) := by
  intro s p1 p2
  unfold State.noteCoolant
  extract_lets +onlyGivenNames -merge x0
  try clear_value x0
  extract_lets +onlyGivenNames -merge x1
  have h2 : Keeps s x1 := by
    unfold x1
    exact Keeps.trans (Keeps.refl _) (State.setReg_keeps _ _ _)
  try clear_value x1
  extract_lets +onlyGivenNames -merge x3
  have h4 : Keeps s x3 := by
    unfold x3
    exact Keeps.trans h2 (State.setReg_keeps _ _ _)
  try clear_value x3
  exact Keeps.trans h4 ⟨rfl, id, id, id, id⟩

theorem execCoolantRead_keeps : ∀ p0 p1 s, Good s (@execCoolantRead p0 p1 s) := by
  intro p0 p1 s
  unfold execCoolantRead
  refine Good.ite ?_ ?_
  · refine ⟨_, rfl, ?_⟩
    exact (Keeps.refl _)
  · extract_lets +onlyGivenNames -merge x0
    have h1 : Keeps s x0 := by
      unfold x0
      exact Keeps.trans (Keeps.refl _) (State.noteCoolant_keeps _ _ _)
    try clear_value x0
    refine Good.ite ?_ ?_
    · extract_lets +onlyGivenNames -merge x2 x3
      try clear_value x2
      have h4 : Keeps s x3 := by
        unfold x3
        exact Keeps.trans h1 ⟨rfl, id, id, id, id⟩
      try clear_value x3
      refine ⟨_, rfl, ?_⟩
      refine Keeps.trans ?_ (State.deviceEvent_keeps _ _ _)
      · exact Keeps.trans h4 (State.showThrottle_keeps _)
    · refine Good.ite ?_ ?_
      · refine ⟨_, rfl, ?_⟩
        refine Keeps.trans ?_ (State.coolDown_keeps _)
        · exact Keeps.trans h1 ⟨rfl, id, id, id, id⟩
      · refine ⟨_, rfl, ?_⟩
        exact h1

theorem execFlowPulse_keeps : ∀ s, Good s (@execFlowPulse s) := by
  intro s
  unfold execFlowPulse
  refine Good.ite ?_ ?_
  · refine ⟨_, rfl, ?_⟩
    exact (Keeps.refl _)
  · refine ⟨_, rfl, ?_⟩
    exact Keeps.trans (Keeps.refl _) ⟨rfl, id, id, id, id⟩

theorem execCoolantPwmUpdate_keeps : ∀ s, Good s (@execCoolantPwmUpdate s) := by
  intro s
  unfold execCoolantPwmUpdate
  refine Good.ite ?_ ?_
  · refine ⟨_, rfl, ?_⟩
    exact (Keeps.refl _)
  · refine Good.ite ?_ ?_
    · refine ⟨_, rfl, ?_⟩
      exact Keeps.trans (Keeps.refl _) (State.setDuty_keeps _ _)
    · extract_lets +onlyGivenNames -merge x0
      try clear_value x0
      extract_lets +onlyGivenNames -merge x1
      try clear_value x1
      extract_lets +onlyGivenNames -merge x2
      try clear_value x2
      extract_lets +onlyGivenNames -merge x3
      try clear_value x3
      extract_lets +onlyGivenNames -merge x4
      try clear_value x4
      refine ⟨_, rfl, ?_⟩
      exact Keeps.trans (Keeps.refl _) (State.setDuty_keeps _ _)

end Sys2Proof.Machine
end

