-- ==== Sys2Proof/Laws/BringUp.lean ====
section
/-! SUPPORT. What the operations of Machine/BringUp.lean keep: the queue of waiting commands and the canonical form of the state
(Keeps); and that its commands answer a next state (Good). -/

namespace Sys2Proof.Machine

theorem State.readLicence_keeps : ∀ s, Keeps s (@State.readLicence s) := by
  intro s
  unfold State.readLicence
  extract_lets +onlyGivenNames -merge x0
  try clear_value x0
  extract_lets +onlyGivenNames -merge x1
  try clear_value x1
  refine Keeps.trans ?_ (State.showLicence_keeps _ _)
  · exact Keeps.trans (Keeps.refl _) ⟨rfl, id, id, id, id⟩

theorem State.readLaneMap_keeps : ∀ s, Keeps s (@State.readLaneMap s) := by
  intro s
  unfold State.readLaneMap
  extract_lets +onlyGivenNames -merge x0
  try clear_value x0
  extract_lets +onlyGivenNames -merge x1
  have h2 : Keeps s x1 := by
    unfold x1
    exact Keeps.trans (Keeps.refl _) (State.setReg_keeps _ _ _)
  try clear_value x1
  extract_lets +onlyGivenNames -merge x3
  have h4 : Keeps s x3 := by
    unfold x3
    exact Keeps.trans h2 (State.setReg_keeps _ _ _)
  try clear_value x3
  refine Keeps.foldl ?_ ?_
  · exact h4
  · intro a6 b7 ht5
    try beta_reduce
    extract_lets +onlyGivenNames -merge x8
    have h9 : Keeps s x8 := by
      unfold x8
      refine Keeps.trans ?_ (State.setReg_keeps _ _ _)
      · exact Keeps.trans ht5 (State.setReg_keeps _ _ _)
    try clear_value x8
    exact Keeps.trans h9 (State.setPort_keeps _ _ _)

theorem execAlwaysOnResetRelease_keeps : ∀ s, Good s (@execAlwaysOnResetRelease s) := by
  intro s
  unfold execAlwaysOnResetRelease
  refine Good.ite ?_ ?_
  · refine ⟨_, rfl, ?_⟩
    exact (Keeps.refl _)
  · extract_lets +onlyGivenNames -merge x0 x1 x2
    try clear_value x0
    try clear_value x1
    have h3 : Keeps s x2 := by
      unfold x2
      exact Keeps.trans (Keeps.refl _) ⟨rfl, id, id, id, id⟩
    try clear_value x2
    refine ⟨_, rfl, ?_⟩
    refine Keeps.trans ?_ (State.showRails_keeps _)
    · refine Keeps.trans ?_ (State.readLaneMap_keeps _)
      · refine Keeps.trans ?_ (State.readBoard_keeps _)
        · exact Keeps.trans h3 (State.readLicence_keeps _)

theorem State.toStep_keeps : ∀ s p1, Keeps s (@State.toStep s p1) := by
  intro s p1
  unfold State.toStep
  exact Keeps.trans (Keeps.refl _) ⟨rfl, id, id, id, id⟩

theorem execMgmtReadyEntry_keeps : ∀ p0 p1 p2 s, Good s (@execMgmtReadyEntry p0 p1 p2 s) := by
  intro p0 p1 p2 s
  unfold execMgmtReadyEntry
  refine Good.ite ?_ ?_
  · refine ⟨_, rfl, ?_⟩
    exact (Keeps.refl _)
  · extract_lets +onlyGivenNames -merge x0
    have h1 : Keeps s x0 := by
      unfold x0
      try beta_reduce
      refine Keeps.trans ?_ (State.readLaneMap_keeps _)
      refine Keeps.trans ?_ (State.readBoard_keeps _)
      exact Keeps.trans (Keeps.refl _) (State.readLicence_keeps _)
    try clear_value x0
    extract_lets +onlyGivenNames -merge x2
    have h3 : Keeps s x2.2 := by
      unfold x2
      try beta_reduce
      exact Keeps.trans h1 (State.free_keeps _ _)
    try clear_value x2
    extract_lets +onlyGivenNames -merge x4
    have h5 : Keeps s x4 := by
      unfold x4
      try beta_reduce
      exact h3
    try clear_value x4
    extract_lets +onlyGivenNames -merge x6
    try clear_value x6
    extract_lets +onlyGivenNames -merge x7
    have h8 : Keeps s x7 := by
      unfold x7
      try beta_reduce
      exact Keeps.trans h5 ⟨rfl, id, id, id, id⟩
    try clear_value x7
    extract_lets +onlyGivenNames -merge x9
    try clear_value x9
    extract_lets +onlyGivenNames -merge x10
    try clear_value x10
    extract_lets +onlyGivenNames -merge x11
    try clear_value x11
    extract_lets +onlyGivenNames -merge x12
    have h13 : Keeps s x12 := by
      unfold x12
      try beta_reduce
      exact Keeps.trans h8 ⟨rfl, id, id, id, id⟩
    try clear_value x12
    refine Good.ite ?_ ?_
    · refine ⟨_, rfl, ?_⟩
      refine Keeps.trans ?_ (State.stageEnd_keeps _)
      exact Keeps.trans h13 (State.enterHold_keeps _ _)
    · refine Good.ite ?_ ?_
      · refine ⟨_, rfl, ?_⟩
        refine Keeps.trans ?_ (State.stageEnd_keeps _)
        exact Keeps.trans h13 (State.enterHold_keeps _ _)
      · refine ⟨_, rfl, ?_⟩
        refine Keeps.trans ?_ (State.stageEnd_keeps _)
        refine Keeps.trans ?_ (State.toStep_keeps _ _)
        exact Keeps.trans h13 ⟨rfl, id, id, id, id⟩

theorem State.fusedRepair_keeps : ∀ s p1 p2, Keeps s (@State.fusedRepair s p1 p2) := by
  intro s p1 p2
  unfold State.fusedRepair
  extract_lets +onlyGivenNames -merge x0
  try clear_value x0
  refine Keeps.trans ?_ (State.setField_keeps _ _ _ _ _)
  · exact Keeps.trans (Keeps.refl _) (State.setField_keeps _ _ _ _ _)

theorem State.applyRepairs_keeps : ∀ s, Keeps s (@State.applyRepairs s) := by
  intro s
  unfold State.applyRepairs
  extract_lets +onlyGivenNames -merge x0
  have h1 : Keeps s x0 := by
    unfold x0
    refine Keeps.foldl ?_ ?_
    · exact (Keeps.refl _)
    · intro a3 b4 ht2
      try beta_reduce
      exact Keeps.trans ht2 (State.fusedRepair_keeps _ _ _)
  try clear_value x0
  split
  · exact h1
  · refine Keeps.foldl ?_ ?_
    · exact h1
    · intro a6 b7 ht5
      try beta_reduce
      extract_lets +onlyGivenNames -merge x8
      try clear_value x8
      extract_lets +onlyGivenNames -merge x9
      try clear_value x9
      refine Keeps.ite ?_ ?_
      · refine Keeps.ite ?_ ?_
        · exact Keeps.trans ht5 (State.remap_keeps _ _ _)
        · exact ht5
      · refine Keeps.ite ?_ ?_
        · exact Keeps.trans ht5 (State.retireBlock_keeps _ _)
        · exact ht5

theorem execClocksAndMeshStage_keeps : ∀ p0 p1 s, Good s (@execClocksAndMeshStage p0 p1 s) := by
  intro p0 p1 s
  unfold execClocksAndMeshStage
  refine Good.ite ?_ ?_
  · refine ⟨_, rfl, ?_⟩
    exact (Keeps.refl _)
  · extract_lets +onlyGivenNames -merge x0
    have h1 : Keeps s x0 := by
      unfold x0
      exact Keeps.trans (Keeps.refl _) (State.setField_keeps _ _ _ _ _)
    try clear_value x0
    refine Good.ite ?_ ?_
    · refine ⟨_, rfl, ?_⟩
      refine Keeps.trans ?_ (State.stageEnd_keeps _)
      · exact Keeps.trans h1 (State.enterHold_keeps _ _)
    · extract_lets +onlyGivenNames -merge x2
      have h3 : Keeps s x2 := by
        unfold x2
        exact Keeps.trans h1 (State.applyRepairs_keeps _)
      try clear_value x2
      extract_lets +onlyGivenNames -merge x4
      have h5 : Keeps s x4 := by
        unfold x4
        refine Keeps.foldl ?_ ?_
        · exact h3
        · intro a7 b8 ht6
          try beta_reduce
          refine Keeps.ite ?_ ?_
          · exact ht6
          · refine Keeps.trans ?_ (State.countField_keeps _ _ _ _ _)
            · exact Keeps.trans ht6 (State.setBlock_keeps _ _ _)
      try clear_value x4
      refine ⟨_, rfl, ?_⟩
      refine Keeps.trans ?_ (State.stageEnd_keeps _)
      · exact Keeps.trans h5 (State.toStep_keeps _ _)

theorem State.failChan_keeps : ∀ s p1, Keeps s (@State.failChan s p1) := by
  intro s p1
  unfold State.failChan
  exact Keeps.trans (Keeps.refl _) (State.setField_keeps _ _ _ _ _)

theorem execMemoryTraining_keeps : ∀ p0 p1 p2 p3 s, Good s (@execMemoryTraining p0 p1 p2 p3 s) := by
  intro p0 p1 p2 p3 s
  unfold execMemoryTraining
  refine Good.ite ?_ ?_
  · refine ⟨_, rfl, ?_⟩
    exact (Keeps.refl _)
  · extract_lets +onlyGivenNames -merge x0
    try clear_value x0
    extract_lets +onlyGivenNames -merge x1
    have h2 : Keeps s x1 := by
      unfold x1
      refine Keeps.trans ?_ (State.setField_keeps _ _ _ _ _)
      · exact Keeps.trans (Keeps.refl _) (State.setField_keeps _ _ _ _ _)
    try clear_value x1
    extract_lets +onlyGivenNames -merge x3 x4
    try clear_value x3
    have h5 : Keeps s x4 := by
      unfold x4
      exact Keeps.trans h2 ⟨rfl, id, id, id, id⟩
    try clear_value x4
    extract_lets +onlyGivenNames -merge x6
    have h7 : Keeps s x6 := by
      unfold x6
      refine Keeps.foldl ?_ ?_
      · exact h5
      · intro a9 b10 ht8
        try beta_reduce
        exact Keeps.trans ht8 (State.failChan_keeps _ _)
    try clear_value x6
    extract_lets +onlyGivenNames -merge x11
    have h12 : Keeps s x11 := by
      unfold x11
      refine Keeps.foldl ?_ ?_
      · exact h7
      · intro a14 b15 ht13
        try beta_reduce
        exact Keeps.trans ht13 (State.setField_keeps _ _ _ _ _)
    try clear_value x11
    refine ⟨_, rfl, ?_⟩
    refine Keeps.trans ?_ (State.stageEnd_keeps _)
    · exact Keeps.trans h12 (State.toStep_keeps _ _)

theorem execCheckerSelfTest_keeps : ∀ p0 p1 s, Good s (@execCheckerSelfTest p0 p1 s) := by
  intro p0 p1 s
  unfold execCheckerSelfTest
  refine Good.ite ?_ ?_
  · refine ⟨_, rfl, ?_⟩
    exact (Keeps.refl _)
  · refine Good.ite ?_ ?_
    · refine ⟨_, rfl, ?_⟩
      refine Keeps.trans ?_ (State.stageEnd_keeps _)
      · exact Keeps.trans (Keeps.refl _) (State.enterHold_keeps _ _)
    · refine ⟨_, rfl, ?_⟩
      refine Keeps.trans ?_ (State.stageEnd_keeps _)
      · refine Keeps.trans ?_ (State.toStep_keeps _ _)
        · exact Keeps.trans (Keeps.refl _) ⟨rfl, id, id, id, id⟩

theorem execBringUpZeroFill_keeps : ∀ s, Good s (@execBringUpZeroFill s) := by
  intro s
  unfold execBringUpZeroFill
  refine Good.ite ?_ ?_
  · refine ⟨_, rfl, ?_⟩
    exact (Keeps.refl _)
  · refine ⟨_, rfl, ?_⟩
    refine Keeps.trans ?_ (State.stageEnd_keeps _)
    · refine Keeps.trans ?_ (State.toStep_keeps _ _)
      · refine Keeps.trans (Keeps.refl _) (Keeps.mk rfl ?_ ?_ ?_ ?_) <;> intro hh <;>
          (first | exact hh | exact Mem.writeUnit_wf _ _ _ hh | exact Mem.zero_wf _ _ hh | exact regsForm_filter _ hh
                 | exact SMap.wf_clear _ _ hh | exact SMap.wf_set _ _ hh | exact regsForm_set _ _ hh | exact Mem.empty_wf | rfl
                 | exact SMap.wf_clear _ _ (SMap.wf_clear _ _ hh) | exact regsForm_clear _ _ (regsForm_clear _ _ hh))

theorem State.mapSpare_keeps : ∀ s p1, Keeps s (@State.mapSpare s p1) := by
  intro s p1
  unfold State.mapSpare
  extract_lets +onlyGivenNames -merge x0
  try clear_value x0
  extract_lets +onlyGivenNames -merge x1
  try clear_value x1
  extract_lets +onlyGivenNames -merge x2
  try clear_value x2
  extract_lets +onlyGivenNames -merge x3
  try clear_value x3
  refine Keeps.ite ?_ ?_
  · exact (Keeps.refl _)
  · refine Keeps.ite ?_ ?_
    · extract_lets +onlyGivenNames -merge x4
      have h5 : Keeps s x4 := by
        unfold x4
        refine Keeps.trans ?_ (State.countField_keeps _ _ _ _ _)
        · exact Keeps.trans (Keeps.refl _) (State.remap_keeps _ _ _)
      try clear_value x4
      refine Keeps.trans ?_ (State.recordRepair_keeps _ _ _)
      · exact Keeps.trans h5 ⟨rfl, id, id, id, id⟩
    · split
      · exact (Keeps.refl _)
      · extract_lets +onlyGivenNames -merge x6
        try clear_value x6
        refine Keeps.ite ?_ ?_
        · exact (Keeps.refl _)
        · refine Keeps.trans ?_ (State.recordRepair_keeps _ _ _)
          · refine Keeps.trans ?_ (State.countField_keeps _ _ _ _ _)
            · exact Keeps.trans (Keeps.refl _) (State.retireBlock_keeps _ _)

theorem State.mapSpares_keeps : ∀ s p1, Keeps s (@State.mapSpares s p1) := by
  intro s p1
  unfold State.mapSpares
  refine Keeps.foldl ?_ ?_
  · exact (Keeps.refl _)
  · intro a1 b2 ht0
    try beta_reduce
    exact Keeps.trans ht0 (State.mapSpare_keeps _ _)

theorem execMemoryTestWave_keeps : ∀ p0 p1 p2 p3 p4 p5 s, Good s (@execMemoryTestWave p0 p1 p2 p3 p4 p5 s) := by
  intro p0 p1 p2 p3 p4 p5 s
  unfold execMemoryTestWave
  extract_lets +onlyGivenNames -merge x0
  try clear_value x0
  extract_lets +onlyGivenNames -merge x1
  try clear_value x1
  extract_lets +onlyGivenNames -merge x2
  try clear_value x2
  refine Good.ite ?_ ?_
  · refine ⟨_, rfl, ?_⟩
    exact (Keeps.refl _)
  · refine Good.ite ?_ ?_
    · refine ⟨_, rfl, ?_⟩
      refine Keeps.trans ?_ (State.stageEnd_keeps _)
      · exact Keeps.trans (Keeps.refl _) (State.enterHold_keeps _ _)
    · extract_lets +onlyGivenNames -merge x3
      try clear_value x3
      extract_lets +onlyGivenNames -merge x4
      have h5 : Keeps s x4 := by
        unfold x4
        refine Keeps.foldl ?_ ?_
        · exact (Keeps.refl _)
        · intro a7 b8 ht6
          try beta_reduce
          extract_lets +onlyGivenNames -merge x9
          try clear_value x9
          extract_lets +onlyGivenNames -merge x10
          try clear_value x10
          refine Keeps.ite ?_ ?_
          · exact ht6
          · refine Keeps.trans ?_ (State.setField_keeps _ _ _ _ _)
            · exact Keeps.trans ht6 (State.setSlice_keeps _ _ _)
      try clear_value x4
      extract_lets +onlyGivenNames -merge x11
      have h12 : Keeps s x11 := by
        unfold x11
        refine Keeps.foldl ?_ ?_
        · exact h5
        · intro a14 b15 ht13
          try beta_reduce
          refine Keeps.trans ?_ (State.setField_keeps _ _ _ _ _)
          · exact Keeps.trans ht13 (State.setField_keeps _ _ _ _ _)
      try clear_value x11
      extract_lets +onlyGivenNames -merge x16 x17 x18
      have h19 : Keeps s x16 := by
        unfold x16
        refine Keeps.foldl ?_ ?_
        · exact h12
        · intro a21 b22 ht20
          try beta_reduce
          extract_lets +onlyGivenNames -merge x23
          try clear_value x23
          extract_lets +onlyGivenNames -merge x24
          try clear_value x24
          refine Keeps.trans ?_ (State.setField_keeps _ _ _ _ _)
          · exact Keeps.trans ht20 (State.setChan_keeps _ _ _)
      try clear_value x16
      have h25 : Keeps s x17 := by
        unfold x17
        refine Keeps.foldl ?_ ?_
        · exact h19
        · intro a27 b28 ht26
          try beta_reduce
          exact Keeps.trans ht26 (State.failChan_keeps _ _)
      try clear_value x17
      have h29 : Keeps s x18 := by
        unfold x18
        refine Keeps.ite ?_ ?_
        · exact h12
        · refine Keeps.foldl ?_ ?_
          · exact h25
          · intro a31 b32 ht30
            try beta_reduce
            refine Keeps.ite ?_ ?_
            · exact ht30
            · exact Keeps.trans ht30 (State.setField_keeps _ _ _ _ _)
      try clear_value x18
      extract_lets +onlyGivenNames -merge x33
      try clear_value x33
      extract_lets +onlyGivenNames -merge x34 x35
      try clear_value x34
      have h36 : Keeps s x35 := by
        unfold x35
        exact Keeps.trans h29 ⟨rfl, id, id, id, id⟩
      try clear_value x35
      extract_lets +onlyGivenNames -merge x37
      have h38 : Keeps s x37 := by
        unfold x37
        refine Keeps.ite ?_ ?_
        · exact Keeps.trans h36 (State.mapSpares_keeps _ _)
        · exact h36
      try clear_value x37
      refine ⟨_, rfl, ?_⟩
      refine Keeps.trans ?_ (State.stageEnd_keeps _)
      · refine Keeps.ite ?_ ?_
        · exact Keeps.trans h38 (State.toStep_keeps _ _)
        · exact h38

theorem execLinksStage_keeps : ∀ p0 s, Good s (@execLinksStage p0 s) := by
  intro p0 s
  unfold execLinksStage
  refine Good.ite ?_ ?_
  · refine ⟨_, rfl, ?_⟩
    exact (Keeps.refl _)
  · extract_lets +onlyGivenNames -merge x0
    have h1 : ∀ y2 y3 y4 y5 y6, Keeps y2 (x0 y2 y3 y4 y5 y6) := by
      intro y2 y3 y4 y5 y6
      unfold x0
      try beta_reduce
      extract_lets +onlyGivenNames -merge x7
      try clear_value x7
      exact Keeps.trans (Keeps.refl _) (State.setXing_keeps _ _ _)
    try clear_value x0
    extract_lets +onlyGivenNames -merge x8
    have h9 : Keeps s x8 := by
      unfold x8
      split
      · exact (Keeps.refl _)
      · refine Keeps.foldl ?_ ?_
        · exact (Keeps.refl _)
        · intro a11 b12 ht10
          try beta_reduce
          extract_lets +onlyGivenNames -merge x13
          try clear_value x13
          extract_lets +onlyGivenNames -merge x14
          try clear_value x14
          extract_lets +onlyGivenNames -merge x15
          try clear_value x15
          extract_lets +onlyGivenNames -merge x16
          try clear_value x16
          refine Keeps.ite ?_ ?_
          · refine Keeps.trans ?_ (h1 _ _ _ _ _)
            exact ht10
          · exact ht10
    try clear_value x8
    extract_lets +onlyGivenNames -merge x17
    have h18 : Keeps s x17.2 := by
      unfold x17
      refine Keeps.foldlP (fun (r : Bool × Sys2Proof.Machine.State) => r.2) ?_ ?_
      · refine Keeps.snd ?_
        exact h9
      · intro a20 b21 ht19
        try beta_reduce
        extract_lets +onlyGivenNames -merge x22
        try clear_value x22
        extract_lets +onlyGivenNames -merge x23
        try clear_value x23
        extract_lets +onlyGivenNames -merge x24
        try clear_value x24
        extract_lets +onlyGivenNames -merge x25
        try clear_value x25
        split
        · refine Keeps.snd ?_
          exact ht19
        · refine Keeps.iteP (fun (r : Bool × Sys2Proof.Machine.State) => r.2) ?_ ?_
          · exact ht19
          · extract_lets +onlyGivenNames -merge x26
            have h27 : Keeps s x26 := by
              unfold x26
              refine Keeps.trans ?_ (h1 _ _ _ _ _)
              exact ht19
            try clear_value x26
            refine Keeps.snd ?_
            refine Keeps.trans ?_ (State.recordRepair_keeps _ _ _)
            · exact Keeps.trans h27 ⟨rfl, id, id, id, id⟩
    try clear_value x17
    extract_lets +onlyGivenNames -merge x28
    have h29 : Keeps s x28 := by
      unfold x28
      exact h18
    try clear_value x28
    refine Good.ite ?_ ?_
    · refine ⟨_, rfl, ?_⟩
      refine Keeps.trans ?_ (State.stageEnd_keeps _)
      · exact Keeps.trans h29 (State.enterHold_keeps _ _)
    · extract_lets +onlyGivenNames -merge x30
      have h31 : Keeps s x30 := by
        unfold x30
        refine Keeps.foldl ?_ ?_
        · exact h29
        · intro a33 b34 ht32
          try beta_reduce
          refine Keeps.ite ?_ ?_
          · exact Keeps.trans ht32 (State.portTo_keeps _ _ _)
          · exact ht32
      try clear_value x30
      refine ⟨_, rfl, ?_⟩
      refine Keeps.trans ?_ (State.stageEnd_keeps _)
      · exact Keeps.trans h31 (State.toStep_keeps _ _)

theorem execBlockSelfTest_keeps : ∀ p0 s, Good s (@execBlockSelfTest p0 s) := by
  intro p0 s
  unfold execBlockSelfTest
  refine Good.ite ?_ ?_
  · refine ⟨_, rfl, ?_⟩
    exact (Keeps.refl _)
  · extract_lets +onlyGivenNames -merge x0 x1
    try clear_value x0
    have h2 : Keeps s x1 := by
      unfold x1
      exact Keeps.trans (Keeps.refl _) ⟨rfl, id, id, id, id⟩
    try clear_value x1
    extract_lets +onlyGivenNames -merge x3
    have h4 : Keeps s x3 := by
      unfold x3
      refine Keeps.trans ?_ (State.toStep_keeps _ _)
      · exact Keeps.trans h2 (State.mapSpares_keeps _ _)
    try clear_value x3
    refine Good.ite ?_ ?_
    · refine ⟨_, rfl, ?_⟩
      exact Keeps.trans h4 (State.stageEnd_keeps _)
    · refine ⟨_, rfl, ?_⟩
      refine Keeps.trans ?_ (State.stageEnd_keeps _)
      · exact Keeps.trans h4 (State.enterHold_keeps _ _)

theorem execBlockRelease_keeps : ∀ p0 s, Good s (@execBlockRelease p0 s) := by
  intro p0 s
  unfold execBlockRelease
  refine Good.ite ?_ ?_
  · refine ⟨_, rfl, ?_⟩
    exact (Keeps.refl _)
  · extract_lets +onlyGivenNames -merge x0
    have h1 : Keeps s x0 := by
      unfold x0
      exact Keeps.trans (Keeps.refl _) (State.setField_keeps _ _ _ _ _)
    try clear_value x0
    extract_lets +onlyGivenNames -merge x2
    have h3 : Keeps s x2 := by
      unfold x2
      exact Keeps.trans h1 (State.setBlock_keeps _ _ _)
    try clear_value x2
    refine ⟨_, rfl, ?_⟩
    exact Keeps.trans h3 ⟨rfl, id, id, id, id⟩

theorem State.trainRecord_keeps : ∀ s, Keeps s (@State.trainRecord s).2 := by
  intro s
  unfold State.trainRecord
  extract_lets +onlyGivenNames -merge x0
  have h1 : Keeps s x0.2 := by
    unfold x0
    exact Keeps.trans (Keeps.refl _) (State.free_keeps _ _)
  try clear_value x0
  extract_lets +onlyGivenNames -merge x2
  try clear_value x2
  extract_lets +onlyGivenNames -merge x3
  try clear_value x3
  refine Keeps.snd ?_
  exact h1

theorem execBringUpComplete_keeps : ∀ s, Good s (@execBringUpComplete s) := by
  intro s
  unfold execBringUpComplete
  refine Good.ite ?_ ?_
  · refine ⟨_, rfl, ?_⟩
    exact (Keeps.refl _)
  · extract_lets +onlyGivenNames -merge x0
    try clear_value x0
    extract_lets +onlyGivenNames -merge x1 x2
    have h3 : Keeps s x1.2 := by
      unfold x1
      exact Keeps.trans (Keeps.refl _) (State.trainRecord_keeps _)
    try clear_value x1
    have h4 : Keeps s x2 := by
      unfold x2
      refine Keeps.ite ?_ ?_
      · refine Keeps.trans ?_ (State.setField_keeps _ _ _ _ _)
        · exact Keeps.trans h3 (State.putBoth_keeps _ _ _ _ _)
      · exact (Keeps.refl _)
    try clear_value x2
    refine ⟨_, rfl, ?_⟩
    refine Keeps.trans ?_ (State.stageEnd_keeps _)
    · refine Keeps.trans ?_ (State.toStep_keeps _ _)
      · exact Keeps.trans h4 ⟨rfl, id, id, id, id⟩

end Sys2Proof.Machine
end

