-- ==== Sys2Proof/Laws/Complete.lean ====
section
/-! SUPPORT. What the operations of Machine/Complete.lean keep: the queue of waiting commands and the canonical form of the state
(Keeps); and that its commands answer a next state (Good). -/

namespace Sys2Proof.Machine

theorem State.endRunCmd_keeps : ∀ s p1 p2, KeepsIn s (fun (r : Sys2Proof.Machine.Result × Sys2Proof.Machine.State) => r.2) (@State.endRunCmd s p1 p2) := by
  intro s p1 p2
  unfold State.endRunCmd
  split
  · refine KeepsIn.ite ?_ ?_
    · refine KeepsIn.some ?_
      refine Keeps.snd ?_
      exact Keeps.trans (Keeps.refl _) (State.setPart_keeps _ _ _)
    · exact KeepsIn.none
  · exact KeepsIn.none

theorem State.endBoundary_keeps : ∀ s p1 p2, KeepsIn s (fun (r : Sys2Proof.Machine.Result × Sys2Proof.Machine.State) => r.2) (@State.endBoundary s p1 p2) := by
  intro s p1 p2
  unfold State.endBoundary
  split
  · refine KeepsIn.ite ?_ ?_
    · exact KeepsIn.none
    · refine KeepsIn.some ?_
      refine Keeps.snd ?_
      exact (Keeps.refl _)
  · extract_lets +onlyGivenNames -merge x0 x1
    try clear_value x0
    have h2 : ∀ y3, KeepsIn s (fun (r : Sys2Proof.Machine.Result × Sys2Proof.Machine.State) => r.2) (x1 y3) := by
      intro y3
      unfold x1
      try beta_reduce
      refine KeepsIn.some ?_
      refine Keeps.snd ?_
      exact Keeps.trans (Keeps.refl _) (State.setPart_keeps _ _ _)
    try clear_value x1
    split
    · refine KeepsIn.ite ?_ ?_
      · exact KeepsIn.none
      · exact h2 _
    · refine KeepsIn.ite ?_ ?_
      · exact KeepsIn.none
      · refine KeepsIn.ite ?_ ?_
        · exact h2 _
        · extract_lets +onlyGivenNames -merge x4
          have h5 : Keeps s x4.2 := by
            unfold x4
            exact Keeps.trans (Keeps.refl _) (State.writeSnap_keeps _ _ _)
          try clear_value x4
          extract_lets +onlyGivenNames -merge x6
          have h7 : Keeps s x6 := by
            unfold x6
            refine Keeps.ite ?_ ?_
            · exact Keeps.trans h5 (State.writeCkpt_keeps _ _ _)
            · exact h5
          try clear_value x6
          refine KeepsIn.some ?_
          refine Keeps.snd ?_
          exact Keeps.trans h7 (State.setPart_keeps _ _ _)

theorem State.endImmediate_keeps : ∀ s p1 p2, KeepsIn s (fun (r : Sys2Proof.Machine.Result × Sys2Proof.Machine.State) => r.2) (@State.endImmediate s p1 p2) := by
  intro s p1 p2
  unfold State.endImmediate
  refine KeepsIn.ite ?_ ?_
  · refine KeepsIn.some ?_
    refine Keeps.snd ?_
    exact (Keeps.refl _)
  · exact KeepsIn.none

theorem State.endPort_keeps : ∀ s p1, KeepsIn s (fun (r : Sys2Proof.Machine.Result × Sys2Proof.Machine.State) => r.2) (@State.endPort s p1) := by
  intro s p1
  unfold State.endPort
  split
  · refine KeepsIn.some ?_
    refine Keeps.snd ?_
    exact (Keeps.refl _)
  · refine KeepsIn.some ?_
    refine Keeps.snd ?_
    exact (Keeps.refl _)
  · refine KeepsIn.some ?_
    refine Keeps.snd ?_
    exact (Keeps.refl _)
  · refine KeepsIn.some ?_
    refine Keeps.snd ?_
    exact (Keeps.refl _)
  · refine KeepsIn.some ?_
    refine Keeps.snd ?_
    exact (Keeps.refl _)
  · exact KeepsIn.none
  · exact KeepsIn.none
  · exact KeepsIn.none

theorem State.endWork_keeps : ∀ s p1, KeepsIn s (fun (r : Sys2Proof.Machine.Result × Sys2Proof.Machine.State) => r.2) (@State.endWork s p1) := by
  intro s p1
  unfold State.endWork
  extract_lets +onlyGivenNames -merge x0
  try clear_value x0
  extract_lets +onlyGivenNames -merge x1
  try clear_value x1
  refine KeepsIn.ite ?_ ?_
  · exact KeepsIn.none
  · refine KeepsIn.ite ?_ ?_
    · exact KeepsIn.trans (Keeps.refl _) (State.endRunCmd_keeps _ _ _)
    · refine KeepsIn.ite ?_ ?_
      · refine KeepsIn.ite ?_ ?_
        · exact KeepsIn.trans (Keeps.refl _) (State.endBoundary_keeps _ _ _)
        · exact KeepsIn.trans (Keeps.refl _) (State.endImmediate_keeps _ _ _)
      · refine KeepsIn.ite ?_ ?_
        · refine KeepsIn.ite ?_ ?_
          · exact KeepsIn.none
          · refine KeepsIn.ite ?_ ?_
            · refine KeepsIn.some ?_
              refine Keeps.snd ?_
              exact (Keeps.refl _)
            · refine KeepsIn.ite ?_ ?_
              · refine KeepsIn.some ?_
                exact Keeps.trans (Keeps.refl _) (State.closeSeq_keeps _ _)
              · exact KeepsIn.none
        · refine KeepsIn.ite ?_ ?_
          · refine KeepsIn.ite ?_ ?_
            · exact KeepsIn.trans (Keeps.refl _) (State.endScrubSlice_keeps _ _)
            · exact KeepsIn.none
          · refine KeepsIn.ite ?_ ?_
            · refine KeepsIn.ite ?_ ?_
              · exact KeepsIn.trans (Keeps.refl _) (State.endSpareRow_keeps _ _)
              · exact KeepsIn.none
            · refine KeepsIn.ite ?_ ?_
              · refine KeepsIn.some ?_
                refine Keeps.snd ?_
                exact Keeps.trans (Keeps.refl _) (State.markCal_keeps _ _ _)
              · refine KeepsIn.ite ?_ ?_
                · exact KeepsIn.trans (Keeps.refl _) (State.endPort_keeps _ _)
                · exact KeepsIn.none

theorem execCommandCompletes_keeps : ∀ p0 s, Good s (@execCommandCompletes p0 s) := by
  intro p0 s
  unfold execCommandCompletes
  split
  · refine ⟨_, rfl, ?_⟩
    exact (Keeps.refl _)
  · split
    · refine Good.ite ?_ ?_
      · refine ⟨_, rfl, ?_⟩
        exact (Keeps.refl _)
      · refine ⟨_, rfl, ?_⟩
        exact Keeps.trans (Keeps.refl _) (State.complete_keeps _ _ _ _)
    · split
      · rename Sys2Proof.Machine.Result × Sys2Proof.Machine.State => m0
        rename _ = _ => hq2
        have h1 : Keeps s m0.2 := KeepsIn.ofEq (fun (r : Sys2Proof.Machine.Result × Sys2Proof.Machine.State) => r.2) hq2 (by
            exact KeepsIn.trans (Keeps.refl _) (State.endWork_keeps _ _)
          )
        refine ⟨_, rfl, ?_⟩
        exact Keeps.trans h1 (State.complete_keeps _ _ _ _)
      · refine ⟨_, rfl, ?_⟩
        exact (Keeps.refl _)

end Sys2Proof.Machine
end

