-- ==== Sys2Proof/Laws/Exec.lean ====
section
/-! SUPPORT. Every command answers a next state, which keeps the queue and the canonical form. -/

namespace Sys2Proof.Machine

/-- What exec can do: it answers a next state, with the same queue and, from a state in canonical form, one in canonical form. -/
theorem exec_good (i : Instr) (s : State) : Good s (exec i s) :=
  match i with
  | .strapSample d code => execStrapSample_keeps d code s
  | .collectionWindowClose => execCollectionWindowClose_keeps s
  | .pwrReqOn => execPwrReqOn_keeps s
  | .railSequenceNext => execRailSequenceNext_keeps s
  | .pwrReqOff => execPwrReqOff_keeps s
  | .shutdownRailOff => execShutdownRailOff_keeps s
  | .coldEntry => execColdEntry_keeps s
  | .pwrGoodValid g => execPwrGoodValid_keeps g s
  | .supplyReset g => execSupplyReset_keeps g s
  | .refclkLoss => execRefclkLoss_keeps s
  | .railOvervoltage r => execRailOvervoltage_keeps r s
  | .railWarning r => execRailWarning_keeps r s
  | .railRecovery cycles => execRailRecovery_keeps cycles s
  | .brownoutTimeout => execBrownoutTimeout_keeps s
  | .pmbusPoll reads => execPmbusPoll_keeps reads s
  | .pmbAlert reads => execPmbAlert_keeps reads s
  | .avsUpdate needs => execAvsUpdate_keeps needs s
  | .clkPartWrite f p v => execClkPartWrite_keeps f p v s
  | .pointChangeDone p => execPointChangeDone_keeps p s
  | .apertureAdmit t => execApertureAdmit_keeps t s
  | .rampEnd b => execRampEnd_keeps b s
  | .blockLowerEnd b => execBlockLowerEnd_keeps b s
  | .thermalSample kind unit idx temp => execThermalSample_keeps kind unit idx temp s
  | .powerSample tiles rest => execPowerSample_keeps tiles rest s
  | .irisEvaluation => execIrisEvaluation_keeps s
  | .throttlePause p => execThrottlePause_keeps p s
  | .coolantRead tin tout => execCoolantRead_keeps tin tout s
  | .flowPulse => execFlowPulse_keeps s
  | .coolantPwmUpdate => execCoolantPwmUpdate_keeps s
  | .deviceWindowExpiry cls => execDeviceWindowExpiry_keeps cls s
  | .entropyHealthFail => execEntropyHealthFail_keeps s
  | .mgmtReadyEntry keyOk l0 l1 => execMgmtReadyEntry_keeps keyOk l0 l1 s
  | .clocksAndMeshStage pcieRef loupeOk => execClocksAndMeshStage_keeps pcieRef loupeOk s
  | .memoryTraining retrained ports chans spares => execMemoryTraining_keeps retrained ports chans spares s
  | .checkerSelfTest blocks outside => execCheckerSelfTest_keeps blocks outside s
  | .bringUpZeroFill => execBringUpZeroFill_keeps s
  | .memoryTestWave rows marks bad hbmRows chans hub => execMemoryTestWave_keeps rows marks bad hbmRows chans hub s
  | .linksStage bad => execLinksStage_keeps bad s
  | .blockSelfTest bad => execBlockSelfTest_keeps bad s
  | .blockRelease b => execBlockRelease_keeps b s
  | .bringUpComplete => execBringUpComplete_keeps s
  | .configRequest f off write => execConfigRequest_keeps f off write s
  | .perstAssert f => execPerstAssert_keeps f s
  | .registerWrite f db line en data => execRegisterWrite_keeps f db line en data s
  | .registerReadClear f db line en => execRegisterReadClear_keeps f db line en s
  | .sliceLayerWrite f n v => execSliceLayerWrite_keeps f n v s
  | .laneMapCommit f mode => execLaneMapCommit_keeps f mode s
  | .ringEnable f r ctrl => execRingEnable_keeps f r ctrl s
  | .ringDisable f r ctrl => execRingDisable_keeps f r ctrl s
  | .ringDrained r => execRingDrained_keeps r s
  | .sqTail f r v => execSqTail_keeps f r v s
  | .cqHead f r v => execCqHead_keeps f r v s
  | .sqEntryFetch kind e => execSqEntryFetch_keeps kind e s
  | .refusedReply k => execRefusedReply_keeps k s
  | .completionWrite r => execCompletionWrite_keeps r s
  | .ringIrqTimer r => execRingIrqTimer_keeps r s
  | .apertureRead f off n => execApertureRead_keeps f off n s
  | .apertureWrite f off data ep => execApertureWrite_keeps f off data ep s
  | .mctpRequest e => execMctpRequest_keeps e s
  | .identify k => execIdentify_keeps k s
  | .resultRelease k => execResultRelease_keeps k s
  | .regAccessRead k => execRegAccessRead_keeps k s
  | .regAccessWrite k => execRegAccessWrite_keeps k s
  | .partitionCreate k => execPartitionCreate_keeps k s
  | .partitionDestroy k => execPartitionDestroy_keeps k s
  | .facetLoad k img kind at_ => execFacetLoad_keeps k img kind at_ s
  | .facetActivate k bad sect => execFacetActivate_keeps k bad sect s
  | .facetActivateDevice k bad sect => execFacetActivateDevice_keeps k bad sect s
  | .cloveLoad k img kind => execCloveLoad_keeps k img kind s
  | .run k => execRun_keeps k s
  | .stopStepBoundary k => execStopStepBoundary_keeps k s
  | .stopImmediate k => execStopImmediate_keeps k s
  | .stopTakesEffect k => execStopTakesEffect_keeps k s
  | .ckptQuiesceTimeout p => execCkptQuiesceTimeout_keeps p s
  | .haltFreeze p => execHaltFreeze_keeps p s
  | .resume k => execResume_keeps k s
  | .replayLive k => execReplayLive_keeps k s
  | .replayLogged k => execReplayLogged_keeps k s
  | .seqOpen k => execSeqOpen_keeps k s
  | .seqFork k => execSeqFork_keeps k s
  | .seqPark k => execSeqPark_keeps k s
  | .parkDrainTimeout k => execParkDrainTimeout_keeps k s
  | .seqUnpark k => execSeqUnpark_keeps k s
  | .seqClose k => execSeqClose_keeps k s
  | .seqEvict k => execSeqEvict_keeps k s
  | .seqRestore k pages => execSeqRestore_keeps k pages s
  | .seqRead k => execSeqRead_keeps k s
  | .keyInstallLink k data kind => execKeyInstallLink_keeps k data kind s
  | .keyInstallMemory k => execKeyInstallMemory_keeps k s
  | .memoryRefillEnd p => execMemoryRefillEnd_keeps p s
  | .keyInstallImageVerify k data kind => execKeyInstallImageVerify_keeps k data kind s
  | .keyRetire k => execKeyRetire_keeps k s
  | .retireDrainEnd k => execRetireDrainEnd_keeps k s
  | .debugConsentGrant k => execDebugConsentGrant_keeps k s
  | .debugConsentRevoke k => execDebugConsentRevoke_keeps k s
  | .licenceInstall k img kind => execLicenceInstall_keeps k img kind s
  | .amendApplyStore k img kind => execAmendApplyStore_keeps k img kind s
  | .amendApplyLive k img kind => execAmendApplyLive_keeps k img kind s
  | .scrubSram k => execScrubSram_keeps k s
  | .scrubSlice k => execScrubSlice_keeps k s
  | .scrubHbm k => execScrubHbm_keeps k s
  | .selfTest k bad => execSelfTest_keeps k bad s
  | .spareSliceRow k => execSpareSliceRow_keeps k s
  | .spareHbmRow k => execSpareHbmRow_keeps k s
  | .spareUcieLane k => execSpareUcieLane_keeps k s
  | .spareColumn k => execSpareColumn_keeps k s
  | .spareBlock k => execSpareBlock_keeps k s
  | .calibrate k adj => execCalibrate_keeps k adj s
  | .counterConfig k => execCounterConfig_keeps k s
  | .counterRead k => execCounterRead_keeps k s
  | .traceConfig k => execTraceConfig_keeps k s
  | .traceRead k => execTraceRead_keeps k s
  | .powerCapSet k => execPowerCapSet_keeps k s
  | .thermalRead k => execThermalRead_keeps k s
  | .linkStatus k => execLinkStatus_keeps k s
  | .portRetrain k => execPortRetrain_keeps k s
  | .portDisable k => execPortDisable_keeps k s
  | .portEnable k => execPortEnable_keeps k s
  | .portReleaseQuarantine k => execPortReleaseQuarantine_keeps k s
  | .loupeHandover => execLoupeHandover_keeps s
  | .servicePacketReceive hop ok => execServicePacketReceive_keeps hop ok s
  | .serviceScrub => execServiceScrub_keeps s
  | .bundleIssue n => execBundleIssue_keeps n s
  | .knownAnswerTestEnd n pass => execKnownAnswerTestEnd_keeps n pass s
  | .jmp n w => execJmp_keeps n w s
  | .lset n w => execLset_keeps n w s
  | .lend n w => execLend_keeps n w s
  | .wait n w => execWait_keeps n w s
  | .waitSatisfied n => execWaitSatisfied_keeps n s
  | .waitPause p cycles => execWaitPause_keeps p cycles s
  | .waitTimeout n => execWaitTimeout_keeps n s
  | .tadd n w => execTadd_keeps n w s
  | .smov n w => execSmov_keeps n w s
  | .salu n w => execSalu_keeps n w s
  | .saddi n w => execSaddi_keeps n w s
  | .aadd n w => execAadd_keeps n w s
  | .amov n w => execAmov_keeps n w s
  | .setp n w => execSetp_keeps n w s
  | .plog n w => execPlog_keeps n w s
  | .srd n w => execSrd_keeps n w s
  | .halt n w => execHalt_keeps n w s
  | .deferredPause p => execDeferredPause_keeps p s
  | .refreshStarved p => execRefreshStarved_keeps p s
  | .ldsLd n w => execLdsLd_keeps n w s
  | .ldsSt n w => execLdsSt_keeps n w s
  | .ldsBfill n w => execLdsBfill_keeps n w s
  | .sliceBeat n => execSliceBeat_keeps n s
  | .sld n w => execSld_keeps n w s
  | .sst n w => execSst_keeps n w s
  | .vld n w => execVld_keeps n w s
  | .vst n w => execVst_keeps n w s
  | .trd n w => execTrd_keeps n w s
  | .bst n w => execBst_keeps n w s
  | .lst n w => execLst_keeps n w s
  | .opeMma n w => execOpeMma_keeps n w s
  | .opeUpdate n => execOpeUpdate_keeps n s
  | .poisonFaultDeadline p => execPoisonFaultDeadline_keeps p s
  | .opeLoad n w => execOpeLoad_keeps n w s
  | .opeDrain n w => execOpeDrain_keeps n w s
  | .mvpRun n w => execMvpRun_keeps n w s
  | .mvpProduct n => execMvpProduct_keeps n s
  | .mvpDrain n w => execMvpDrain_keeps n w s
  | .blend n w => execBlend_keeps n w s
  | .singleVectorOp n w => execSingleVectorOp_keeps n w s
  | .netSend n w => execNetSend_keeps n w s
  | .sendv n w => execSendv_keeps n w s
  | .netRecv n w => execNetRecv_keeps n w s
  | .recvv n w => execRecvv_keeps n w s
  | .nop n w => execNop_keeps n w s
  | .endBlend n w => execEndBlend_keeps n w s
  | .loop n w => execLoop_keeps n w s
  | .fadd n w => execFadd_keeps n w s
  | .fsub n w => execFsub_keeps n w s
  | .fmul n w => execFmul_keeps n w s
  | .fma n w => execFma_keeps n w s
  | .fmin n w => execFmin_keeps n w s
  | .fmax n w => execFmax_keeps n w s
  | .fabs n w => execFabs_keeps n w s
  | .fneg n w => execFneg_keeps n w s
  | .fcmp n w => execFcmp_keeps n w s
  | .sel n w => execSel_keeps n w s
  | .mov n w => execMov_keeps n w s
  | .exp2 n w => execExp2_keeps n w s
  | .log2 n w => execLog2_keeps n w s
  | .rcp n w => execRcp_keeps n w s
  | .rsq n w => execRsq_keeps n w s
  | .iadd n w => execIadd_keeps n w s
  | .isub n w => execIsub_keeps n w s
  | .imul n w => execImul_keeps n w s
  | .andOp n w => execAndOp_keeps n w s
  | .orOp n w => execOrOp_keeps n w s
  | .xorOp n w => execXorOp_keeps n w s
  | .shl n w => execShl_keeps n w s
  | .shr n w => execShr_keeps n w s
  | .shra n w => execShra_keeps n w s
  | .icmp n w => execIcmp_keeps n w s
  | .cvtf n w => execCvtf_keeps n w s
  | .cvti n w => execCvti_keeps n w s
  | .cvtp n w => execCvtp_keeps n w s
  | .mxq n w => execMxq_keeps n w s
  | .perm n w => execPerm_keeps n w s
  | .rsum n w => execRsum_keeps n w s
  | .rmax n w => execRmax_keeps n w s
  | .psum n w => execPsum_keeps n w s
  | .bins n w => execBins_keeps n w s
  | .mfirst n w => execMfirst_keeps n w s
  | .laneid n w => execLaneid_keeps n w s
  | .blendLd n w => execBlendLd_keeps n w s
  | .blendSt n w => execBlendSt_keeps n w s
  | .sth n w => execSth_keeps n w s
  | .sts n w => execSts_keeps n w s
  | .bpset n w => execBpset_keeps n w s
  | .chw n w => execChw_keeps n w s
  | .blendSend n w => execBlendSend_keeps n w s
  | .append n w => execAppend_keeps n w s
  | .rng n w => execRng_keeps n w s
  | .tkclr n w => execTkclr_keeps n w s
  | .tkin n w => execTkin_keeps n w s
  | .tkout n w => execTkout_keeps n w s
  | .routeEntryApply n => execRouteEntryApply_keeps n s
  | .noFlit n => execNoFlit_keeps n s
  | .flitArrival n port err vflip => execFlitArrival_keeps n port err vflip s
  | .crossingFrameArrival e m dir err => execCrossingFrameArrival_keeps e m dir err s
  | .hubToTileSend h y => execHubToTileSend_keeps h y s
  | .baseRefreshWindow p => execBaseRefreshWindow_keeps p s
  | .maintenanceBeat n => execMaintenanceBeat_keeps n s
  | .spareRowCopyDone n => execSpareRowCopyDone_keeps n s
  | .zeroFillDone b slices => execZeroFillDone_keeps b slices s
  | .hbmGrant c ask => execHbmGrant_keeps c ask s
  | .actWindowEnd c peak => execActWindowEnd_keeps c peak s
  | .dmaCopy d => execDmaCopy_keeps d s
  | .dmaFill d => execDmaFill_keeps d s
  | .dmaGranuleMove d kind host => execDmaGranuleMove_keeps d kind host s
  | .descriptorEnd d => execDescriptorEnd_keeps d s
  | .walkAppend d => execWalkAppend_keeps d s
  | .appendEntryPlace d => execAppendEntryPlace_keeps d s
  | .poolPopRetry d => execPoolPopRetry_keeps d s
  | .walkGather d => execWalkGather_keeps d s
  | .cacheRead r a n => execCacheRead_keeps r a n s
  | .cacheWrite r a data poi => execCacheWrite_keeps r a data poi s
  | .atomicAdd r a w x => execAtomicAdd_keeps r a w x s
  | .atomicMin r a w x => execAtomicMin_keeps r a w x s
  | .atomicMax r a w x => execAtomicMax_keeps r a w x s
  | .atomicCas r a w cmp x => execAtomicCas_keeps r a w cmp x s
  | .atomicSwap r a w x => execAtomicSwap_keeps r a w x s
  | .incw r a x => execIncw_keeps r a x s
  | .refinc r a => execRefinc_keeps r a s
  | .refdec r a => execRefdec_keeps r a s
  | .pop r h e => execPop_keeps r h e s
  | .push r h e x => execPush_keeps r h e x s
  | .red32 r a xs poi => execRed32_keeps r a xs poi s
  | .red16 r a xs poi => execRed16_keeps r a xs poi s
  | .cloveInstruction c => execCloveInstruction_keeps c s
  | .cbCopy c w => execCbCopy_keeps c w s
  | .cbFill c w => execCbFill_keeps c w s
  | .cbCmp c w => execCbCmp_keeps c w s
  | .cbChsend c w => execCbChsend_keeps c w s
  | .cbChrecv c w => execCbChrecv_keeps c w s
  | .cbChpoll c w => execCbChpoll_keeps c w s
  | .chainMessageArrival c up => execChainMessageArrival_keeps c up s
  | .cbFence c w => execCbFence_keeps c w s
  | .cbAtom c w => execCbAtom_keeps c w s
  | .cbTraise c w => execCbTraise_keeps c w s
  | .cbDone c w => execCbDone_keeps c w s
  | .cbWaitcmd c w => execCbWaitcmd_keeps c w s
  | .commandPost c ix r => execCommandPost_keeps c ix r s
  | .cloveCopy c => execCloveCopy_keeps c s
  | .cloveFill c => execCloveFill_keeps c s
  | .cloveCompare c => execCloveCompare_keeps c s
  | .cloveGather c => execCloveGather_keeps c s
  | .clovePageCow c => execClovePageCow_keeps c s
  | .cloveMigrate c => execCloveMigrate_keeps c s
  | .cloveScrub c => execCloveScrub_keeps c s
  | .tenantEntry c => execTenantEntry_keeps c s
  | .tenantTimeout c => execTenantTimeout_keeps c s
  | .collInstanceStart x => execCollInstanceStart_keeps x s
  | .collSegmentSend x => execCollSegmentSend_keeps x s
  | .collSegmentReceive x adder => execCollSegmentReceive_keeps x adder s
  | .collInstanceEnd x => execCollInstanceEnd_keeps x s
  | .collLimitExpiry x => execCollLimitExpiry_keeps x s
  | .stepLogWrite p => execStepLogWrite_keeps p s
  | .replicaPassStart p => execReplicaPassStart_keeps p s
  | .replicaPassEnd p => execReplicaPassEnd_keeps p s
  | .replicaIntervalDeadline p => execReplicaIntervalDeadline_keeps p s
  | .recoveryWindowClose p => execRecoveryWindowClose_keeps p s
  | .frameReceive q frame => execFrameReceive_keeps q frame s
  | .dataFrame q => execDataFrame_keeps q s
  | .ackFrame q => execAckFrame_keeps q s
  | .ackDelayTimer ix => execAckDelayTimer_keeps ix s
  | .retransmitTimeout ix => execRetransmitTimeout_keeps ix s
  | .heartbeat q => execHeartbeat_keeps q s
  | .heartbeatSend => execHeartbeatSend_keeps s
  | .peerAbsent dev => execPeerAbsent_keeps dev s
  | .announce q => execAnnounce_keeps q s
  | .announceAck q => execAnnounceAck_keeps q s
  | .announceRepeat k => execAnnounceRepeat_keeps k s
  | .notice q => execNotice_keeps q s
  | .replica q => execReplica_keeps q s
  | .expel q => execExpel_keeps q s
  | .sessionIdleTimeout dev => execSessionIdleTimeout_keeps dev s
  | .getVersion t req => execGetVersion_keeps t req s
  | .getCapabilities t req size => execGetCapabilities_keeps t req size s
  | .negotiateAlgorithms t req offers => execNegotiateAlgorithms_keeps t req offers s
  | .getDigests t req => execGetDigests_keeps t req s
  | .getCertificate t slot req => execGetCertificate_keeps t slot req s
  | .challenge t slot sum req => execChallenge_keeps t slot sum req s
  | .getMeasurements t index sign req => execGetMeasurements_keeps t index sign req s
  | .chunkGet t => execChunkGet_keeps t s
  | .keyExchange q => execKeyExchange_keeps q s
  | .finish q => execFinish_keeps q s
  | .linkUp q partner => execLinkUp_keeps q partner s
  | .signalDetect q => execSignalDetect_keeps q s
  | .signalLossTimeout q => execSignalLossTimeout_keeps q s
  | .portFaultEvent q fec => execPortFaultEvent_keeps q fec s
  | .traceStreamWrite ix w late => execTraceStreamWrite_keeps ix w late s
  | .extest pins => execExtest_keeps pins s
  | .samplePreload pins => execSamplePreload_keeps pins s
  | .idcode => execIdcode_keeps s
  | .dtmcs => execDtmcs_keeps s
  | .dmi addr data op => execDmi_keeps addr data op s
  | .regacc v => execRegacc_keeps v s
  | .memacc v => execMemacc_keeps v s
  | .linkdbg unit => execLinkdbg_keeps unit s
  | .bypass ir => execBypass_keeps ir s
  | .alwaysOnResetRelease => execAlwaysOnResetRelease_keeps s
  | .powerOnReset => execPowerOnReset_keeps s
  | .refclk25mReturn => execRefclk25mReturn_keeps s
  | .perstRelease f => execPerstRelease_keeps f s
  | .pcieLinkDown f => execPcieLinkDown_keeps f s
  | .commandCompletes k => execCommandCompletes_keeps k s
  | .handoverComplete => execHandoverComplete_keeps s
  | .laneMapCommitDone ok0 ok1 => execLaneMapCommitDone_keeps ok0 ok1 s
  | .entropyHealthRecovery => execEntropyHealthRecovery_keeps s
  | .partnerSessionRetry q => execPartnerSessionRetry_keeps q s
  | .alertResponseAddressRead => execAlertResponseAddressRead_keeps s
  | .addressResolutionProtocol addr => execAddressResolutionProtocol_keeps addr s

end Sys2Proof.Machine
end

