-- ==== Sys2Proof/Laws/State.lean ====
section
/-! SUPPORT. What each update of State leaves in each field, and what a read of a register or of a unit gives after a write of
one: no later proof unfolds a record update. -/

namespace Sys2Proof.Machine

@[simp] theorem State.setReg_pending (s : State) (o : Nat) (w : Word) : (s.setReg o w).pending = s.pending := rfl
@[simp] theorem State.setReg_freeCtr (s : State) (o : Nat) (w : Word) : (s.setReg o w).freeCtr = s.freeCtr := rfl
@[simp] theorem State.setReg_out (s : State) (o : Nat) (w : Word) : (s.setReg o w).out = s.out := rfl
@[simp] theorem State.setReg_cnts (s : State) (o : Nat) (w : Word) : (s.setReg o w).cnts = s.cnts := rfl
@[simp] theorem State.setReg_latches (s : State) (o : Nat) (w : Word) : (s.setReg o w).latches = s.latches := rfl
@[simp] theorem State.setReg_mem (s : State) (o : Nat) (w : Word) : (s.setReg o w).mem = s.mem := rfl
@[simp] theorem State.setReg_cache (s : State) (o : Nat) (w : Word) : (s.setReg o w).cache = s.cache := rfl
@[simp] theorem State.setReg_cores (s : State) (o : Nat) (w : Word) : (s.setReg o w).cores = s.cores := rfl
@[simp] theorem State.setReg_routers (s : State) (o : Nat) (w : Word) : (s.setReg o w).routers = s.routers := rfl
@[simp] theorem State.setReg_xings (s : State) (o : Nat) (w : Word) : (s.setReg o w).xings = s.xings := rfl
@[simp] theorem State.setReg_attach (s : State) (o : Nat) (w : Word) : (s.setReg o w).attach = s.attach := rfl
@[simp] theorem State.setReg_slices (s : State) (o : Nat) (w : Word) : (s.setReg o w).slices = s.slices := rfl
@[simp] theorem State.setReg_chans (s : State) (o : Nat) (w : Word) : (s.setReg o w).chans = s.chans := rfl
@[simp] theorem State.setReg_engines (s : State) (o : Nat) (w : Word) : (s.setReg o w).engines = s.engines := rfl
@[simp] theorem State.setReg_cloves (s : State) (o : Nat) (w : Word) : (s.setReg o w).cloves = s.cloves := rfl
@[simp] theorem State.setReg_parts (s : State) (o : Nat) (w : Word) : (s.setReg o w).parts = s.parts := rfl
@[simp] theorem State.setReg_devFacet (s : State) (o : Nat) (w : Word) : (s.setReg o w).devFacet = s.devFacet := rfl
@[simp] theorem State.setReg_keys (s : State) (o : Nat) (w : Word) : (s.setReg o w).keys = s.keys := rfl
@[simp] theorem State.setReg_recvKeys (s : State) (o : Nat) (w : Word) : (s.setReg o w).recvKeys = s.recvKeys := rfl
@[simp] theorem State.setReg_conns (s : State) (o : Nat) (w : Word) : (s.setReg o w).conns = s.conns := rfl
@[simp] theorem State.setReg_sessions (s : State) (o : Nat) (w : Word) : (s.setReg o w).sessions = s.sessions := rfl
@[simp] theorem State.setReg_spdm (s : State) (o : Nat) (w : Word) : (s.setReg o w).spdm = s.spdm := rfl
@[simp] theorem State.setReg_ports (s : State) (o : Nat) (w : Word) : (s.setReg o w).ports = s.ports := rfl
@[simp] theorem State.setReg_inq (s : State) (o : Nat) (w : Word) : (s.setReg o w).inq = s.inq := rfl
@[simp] theorem State.setReg_colls (s : State) (o : Nat) (w : Word) : (s.setReg o w).colls = s.colls := rfl
@[simp] theorem State.setReg_rings (s : State) (o : Nat) (w : Word) : (s.setReg o w).rings = s.rings := rfl
@[simp] theorem State.setReg_blocks (s : State) (o : Nat) (w : Word) : (s.setReg o w).blocks = s.blocks := rfl
@[simp] theorem State.setReg_aperture (s : State) (o : Nat) (w : Word) : (s.setReg o w).aperture = s.aperture := rfl
@[simp] theorem State.setReg_power (s : State) (o : Nat) (w : Word) : (s.setReg o w).power = s.power := rfl
@[simp] theorem State.setReg_thermal (s : State) (o : Nat) (w : Word) : (s.setReg o w).thermal = s.thermal := rfl
@[simp] theorem State.setReg_loupe (s : State) (o : Nat) (w : Word) : (s.setReg o w).loupe = s.loupe := rfl
@[simp] theorem State.setReg_dev (s : State) (o : Nat) (w : Word) : (s.setReg o w).dev = s.dev := rfl
@[simp] theorem State.setReg_timebase (s : State) (o : Nat) (w : Word) : (s.setReg o w).timebase = s.timebase := rfl
@[simp] theorem State.setReg_trace (s : State) (o : Nat) (w : Word) : (s.setReg o w).trace = s.trace := rfl
@[simp] theorem State.setReg_traceCfg (s : State) (o : Nat) (w : Word) : (s.setReg o w).traceCfg = s.traceCfg := rfl
@[simp] theorem State.setReg_traceQ (s : State) (o : Nat) (w : Word) : (s.setReg o w).traceQ = s.traceQ := rfl
@[simp] theorem State.setReg_traceDrops (s : State) (o : Nat) (w : Word) : (s.setReg o w).traceDrops = s.traceDrops := rfl
@[simp] theorem State.setReg_flash (s : State) (o : Nat) (w : Word) : (s.setReg o w).flash = s.flash := rfl
@[simp] theorem State.setReg_jtag (s : State) (o : Nat) (w : Word) : (s.setReg o w).jtag = s.jtag := rfl
@[simp] theorem State.setReg_upsets (s : State) (o : Nat) (w : Word) : (s.setReg o w).upsets = s.upsets := rfl
@[simp] theorem State.setReg_pciCfg (s : State) (o : Nat) (w : Word) : (s.setReg o w).pciCfg = s.pciCfg := rfl
@[simp] theorem State.setReg_appq (s : State) (o : Nat) (w : Word) : (s.setReg o w).appq = s.appq := rfl

@[simp] theorem State.setField_pending (s : State) (o lo len v : Nat) : (s.setField o lo len v).pending = s.pending := rfl
@[simp] theorem State.setField_freeCtr (s : State) (o lo len v : Nat) : (s.setField o lo len v).freeCtr = s.freeCtr := rfl
@[simp] theorem State.setField_out (s : State) (o lo len v : Nat) : (s.setField o lo len v).out = s.out := rfl
@[simp] theorem State.setField_cnts (s : State) (o lo len v : Nat) : (s.setField o lo len v).cnts = s.cnts := rfl
@[simp] theorem State.setField_latches (s : State) (o lo len v : Nat) : (s.setField o lo len v).latches = s.latches := rfl
@[simp] theorem State.setField_mem (s : State) (o lo len v : Nat) : (s.setField o lo len v).mem = s.mem := rfl
@[simp] theorem State.setField_cache (s : State) (o lo len v : Nat) : (s.setField o lo len v).cache = s.cache := rfl
@[simp] theorem State.setField_cores (s : State) (o lo len v : Nat) : (s.setField o lo len v).cores = s.cores := rfl
@[simp] theorem State.setField_routers (s : State) (o lo len v : Nat) : (s.setField o lo len v).routers = s.routers := rfl
@[simp] theorem State.setField_xings (s : State) (o lo len v : Nat) : (s.setField o lo len v).xings = s.xings := rfl
@[simp] theorem State.setField_attach (s : State) (o lo len v : Nat) : (s.setField o lo len v).attach = s.attach := rfl
@[simp] theorem State.setField_slices (s : State) (o lo len v : Nat) : (s.setField o lo len v).slices = s.slices := rfl
@[simp] theorem State.setField_chans (s : State) (o lo len v : Nat) : (s.setField o lo len v).chans = s.chans := rfl
@[simp] theorem State.setField_engines (s : State) (o lo len v : Nat) : (s.setField o lo len v).engines = s.engines := rfl
@[simp] theorem State.setField_cloves (s : State) (o lo len v : Nat) : (s.setField o lo len v).cloves = s.cloves := rfl
@[simp] theorem State.setField_parts (s : State) (o lo len v : Nat) : (s.setField o lo len v).parts = s.parts := rfl
@[simp] theorem State.setField_devFacet (s : State) (o lo len v : Nat) : (s.setField o lo len v).devFacet = s.devFacet := rfl
@[simp] theorem State.setField_keys (s : State) (o lo len v : Nat) : (s.setField o lo len v).keys = s.keys := rfl
@[simp] theorem State.setField_recvKeys (s : State) (o lo len v : Nat) : (s.setField o lo len v).recvKeys = s.recvKeys := rfl
@[simp] theorem State.setField_conns (s : State) (o lo len v : Nat) : (s.setField o lo len v).conns = s.conns := rfl
@[simp] theorem State.setField_sessions (s : State) (o lo len v : Nat) : (s.setField o lo len v).sessions = s.sessions := rfl
@[simp] theorem State.setField_spdm (s : State) (o lo len v : Nat) : (s.setField o lo len v).spdm = s.spdm := rfl
@[simp] theorem State.setField_ports (s : State) (o lo len v : Nat) : (s.setField o lo len v).ports = s.ports := rfl
@[simp] theorem State.setField_inq (s : State) (o lo len v : Nat) : (s.setField o lo len v).inq = s.inq := rfl
@[simp] theorem State.setField_colls (s : State) (o lo len v : Nat) : (s.setField o lo len v).colls = s.colls := rfl
@[simp] theorem State.setField_rings (s : State) (o lo len v : Nat) : (s.setField o lo len v).rings = s.rings := rfl
@[simp] theorem State.setField_blocks (s : State) (o lo len v : Nat) : (s.setField o lo len v).blocks = s.blocks := rfl
@[simp] theorem State.setField_aperture (s : State) (o lo len v : Nat) : (s.setField o lo len v).aperture = s.aperture := rfl
@[simp] theorem State.setField_power (s : State) (o lo len v : Nat) : (s.setField o lo len v).power = s.power := rfl
@[simp] theorem State.setField_thermal (s : State) (o lo len v : Nat) : (s.setField o lo len v).thermal = s.thermal := rfl
@[simp] theorem State.setField_loupe (s : State) (o lo len v : Nat) : (s.setField o lo len v).loupe = s.loupe := rfl
@[simp] theorem State.setField_dev (s : State) (o lo len v : Nat) : (s.setField o lo len v).dev = s.dev := rfl
@[simp] theorem State.setField_timebase (s : State) (o lo len v : Nat) : (s.setField o lo len v).timebase = s.timebase := rfl
@[simp] theorem State.setField_trace (s : State) (o lo len v : Nat) : (s.setField o lo len v).trace = s.trace := rfl
@[simp] theorem State.setField_traceCfg (s : State) (o lo len v : Nat) : (s.setField o lo len v).traceCfg = s.traceCfg := rfl
@[simp] theorem State.setField_traceQ (s : State) (o lo len v : Nat) : (s.setField o lo len v).traceQ = s.traceQ := rfl
@[simp] theorem State.setField_traceDrops (s : State) (o lo len v : Nat) : (s.setField o lo len v).traceDrops = s.traceDrops := rfl
@[simp] theorem State.setField_flash (s : State) (o lo len v : Nat) : (s.setField o lo len v).flash = s.flash := rfl
@[simp] theorem State.setField_jtag (s : State) (o lo len v : Nat) : (s.setField o lo len v).jtag = s.jtag := rfl
@[simp] theorem State.setField_upsets (s : State) (o lo len v : Nat) : (s.setField o lo len v).upsets = s.upsets := rfl
@[simp] theorem State.setField_pciCfg (s : State) (o lo len v : Nat) : (s.setField o lo len v).pciCfg = s.pciCfg := rfl
@[simp] theorem State.setField_appq (s : State) (o lo len v : Nat) : (s.setField o lo len v).appq = s.appq := rfl

@[simp] theorem State.orReg_pending (s : State) (o : Nat) (w : Word) : (s.orReg o w).pending = s.pending := rfl
@[simp] theorem State.orReg_freeCtr (s : State) (o : Nat) (w : Word) : (s.orReg o w).freeCtr = s.freeCtr := rfl
@[simp] theorem State.orReg_out (s : State) (o : Nat) (w : Word) : (s.orReg o w).out = s.out := rfl
@[simp] theorem State.orReg_cnts (s : State) (o : Nat) (w : Word) : (s.orReg o w).cnts = s.cnts := rfl
@[simp] theorem State.orReg_latches (s : State) (o : Nat) (w : Word) : (s.orReg o w).latches = s.latches := rfl
@[simp] theorem State.orReg_mem (s : State) (o : Nat) (w : Word) : (s.orReg o w).mem = s.mem := rfl
@[simp] theorem State.orReg_cache (s : State) (o : Nat) (w : Word) : (s.orReg o w).cache = s.cache := rfl
@[simp] theorem State.orReg_cores (s : State) (o : Nat) (w : Word) : (s.orReg o w).cores = s.cores := rfl
@[simp] theorem State.orReg_routers (s : State) (o : Nat) (w : Word) : (s.orReg o w).routers = s.routers := rfl
@[simp] theorem State.orReg_xings (s : State) (o : Nat) (w : Word) : (s.orReg o w).xings = s.xings := rfl
@[simp] theorem State.orReg_attach (s : State) (o : Nat) (w : Word) : (s.orReg o w).attach = s.attach := rfl
@[simp] theorem State.orReg_slices (s : State) (o : Nat) (w : Word) : (s.orReg o w).slices = s.slices := rfl
@[simp] theorem State.orReg_chans (s : State) (o : Nat) (w : Word) : (s.orReg o w).chans = s.chans := rfl
@[simp] theorem State.orReg_engines (s : State) (o : Nat) (w : Word) : (s.orReg o w).engines = s.engines := rfl
@[simp] theorem State.orReg_cloves (s : State) (o : Nat) (w : Word) : (s.orReg o w).cloves = s.cloves := rfl
@[simp] theorem State.orReg_parts (s : State) (o : Nat) (w : Word) : (s.orReg o w).parts = s.parts := rfl
@[simp] theorem State.orReg_devFacet (s : State) (o : Nat) (w : Word) : (s.orReg o w).devFacet = s.devFacet := rfl
@[simp] theorem State.orReg_keys (s : State) (o : Nat) (w : Word) : (s.orReg o w).keys = s.keys := rfl
@[simp] theorem State.orReg_recvKeys (s : State) (o : Nat) (w : Word) : (s.orReg o w).recvKeys = s.recvKeys := rfl
@[simp] theorem State.orReg_conns (s : State) (o : Nat) (w : Word) : (s.orReg o w).conns = s.conns := rfl
@[simp] theorem State.orReg_sessions (s : State) (o : Nat) (w : Word) : (s.orReg o w).sessions = s.sessions := rfl
@[simp] theorem State.orReg_spdm (s : State) (o : Nat) (w : Word) : (s.orReg o w).spdm = s.spdm := rfl
@[simp] theorem State.orReg_ports (s : State) (o : Nat) (w : Word) : (s.orReg o w).ports = s.ports := rfl
@[simp] theorem State.orReg_inq (s : State) (o : Nat) (w : Word) : (s.orReg o w).inq = s.inq := rfl
@[simp] theorem State.orReg_colls (s : State) (o : Nat) (w : Word) : (s.orReg o w).colls = s.colls := rfl
@[simp] theorem State.orReg_rings (s : State) (o : Nat) (w : Word) : (s.orReg o w).rings = s.rings := rfl
@[simp] theorem State.orReg_blocks (s : State) (o : Nat) (w : Word) : (s.orReg o w).blocks = s.blocks := rfl
@[simp] theorem State.orReg_aperture (s : State) (o : Nat) (w : Word) : (s.orReg o w).aperture = s.aperture := rfl
@[simp] theorem State.orReg_power (s : State) (o : Nat) (w : Word) : (s.orReg o w).power = s.power := rfl
@[simp] theorem State.orReg_thermal (s : State) (o : Nat) (w : Word) : (s.orReg o w).thermal = s.thermal := rfl
@[simp] theorem State.orReg_loupe (s : State) (o : Nat) (w : Word) : (s.orReg o w).loupe = s.loupe := rfl
@[simp] theorem State.orReg_dev (s : State) (o : Nat) (w : Word) : (s.orReg o w).dev = s.dev := rfl
@[simp] theorem State.orReg_timebase (s : State) (o : Nat) (w : Word) : (s.orReg o w).timebase = s.timebase := rfl
@[simp] theorem State.orReg_trace (s : State) (o : Nat) (w : Word) : (s.orReg o w).trace = s.trace := rfl
@[simp] theorem State.orReg_traceCfg (s : State) (o : Nat) (w : Word) : (s.orReg o w).traceCfg = s.traceCfg := rfl
@[simp] theorem State.orReg_traceQ (s : State) (o : Nat) (w : Word) : (s.orReg o w).traceQ = s.traceQ := rfl
@[simp] theorem State.orReg_traceDrops (s : State) (o : Nat) (w : Word) : (s.orReg o w).traceDrops = s.traceDrops := rfl
@[simp] theorem State.orReg_flash (s : State) (o : Nat) (w : Word) : (s.orReg o w).flash = s.flash := rfl
@[simp] theorem State.orReg_jtag (s : State) (o : Nat) (w : Word) : (s.orReg o w).jtag = s.jtag := rfl
@[simp] theorem State.orReg_upsets (s : State) (o : Nat) (w : Word) : (s.orReg o w).upsets = s.upsets := rfl
@[simp] theorem State.orReg_pciCfg (s : State) (o : Nat) (w : Word) : (s.orReg o w).pciCfg = s.pciCfg := rfl
@[simp] theorem State.orReg_appq (s : State) (o : Nat) (w : Word) : (s.orReg o w).appq = s.appq := rfl

@[simp] theorem State.andNotReg_pending (s : State) (o : Nat) (w : Word) : (s.andNotReg o w).pending = s.pending := rfl
@[simp] theorem State.andNotReg_freeCtr (s : State) (o : Nat) (w : Word) : (s.andNotReg o w).freeCtr = s.freeCtr := rfl
@[simp] theorem State.andNotReg_out (s : State) (o : Nat) (w : Word) : (s.andNotReg o w).out = s.out := rfl
@[simp] theorem State.andNotReg_cnts (s : State) (o : Nat) (w : Word) : (s.andNotReg o w).cnts = s.cnts := rfl
@[simp] theorem State.andNotReg_latches (s : State) (o : Nat) (w : Word) : (s.andNotReg o w).latches = s.latches := rfl
@[simp] theorem State.andNotReg_mem (s : State) (o : Nat) (w : Word) : (s.andNotReg o w).mem = s.mem := rfl
@[simp] theorem State.andNotReg_cache (s : State) (o : Nat) (w : Word) : (s.andNotReg o w).cache = s.cache := rfl
@[simp] theorem State.andNotReg_cores (s : State) (o : Nat) (w : Word) : (s.andNotReg o w).cores = s.cores := rfl
@[simp] theorem State.andNotReg_routers (s : State) (o : Nat) (w : Word) : (s.andNotReg o w).routers = s.routers := rfl
@[simp] theorem State.andNotReg_xings (s : State) (o : Nat) (w : Word) : (s.andNotReg o w).xings = s.xings := rfl
@[simp] theorem State.andNotReg_attach (s : State) (o : Nat) (w : Word) : (s.andNotReg o w).attach = s.attach := rfl
@[simp] theorem State.andNotReg_slices (s : State) (o : Nat) (w : Word) : (s.andNotReg o w).slices = s.slices := rfl
@[simp] theorem State.andNotReg_chans (s : State) (o : Nat) (w : Word) : (s.andNotReg o w).chans = s.chans := rfl
@[simp] theorem State.andNotReg_engines (s : State) (o : Nat) (w : Word) : (s.andNotReg o w).engines = s.engines := rfl
@[simp] theorem State.andNotReg_cloves (s : State) (o : Nat) (w : Word) : (s.andNotReg o w).cloves = s.cloves := rfl
@[simp] theorem State.andNotReg_parts (s : State) (o : Nat) (w : Word) : (s.andNotReg o w).parts = s.parts := rfl
@[simp] theorem State.andNotReg_devFacet (s : State) (o : Nat) (w : Word) : (s.andNotReg o w).devFacet = s.devFacet := rfl
@[simp] theorem State.andNotReg_keys (s : State) (o : Nat) (w : Word) : (s.andNotReg o w).keys = s.keys := rfl
@[simp] theorem State.andNotReg_recvKeys (s : State) (o : Nat) (w : Word) : (s.andNotReg o w).recvKeys = s.recvKeys := rfl
@[simp] theorem State.andNotReg_conns (s : State) (o : Nat) (w : Word) : (s.andNotReg o w).conns = s.conns := rfl
@[simp] theorem State.andNotReg_sessions (s : State) (o : Nat) (w : Word) : (s.andNotReg o w).sessions = s.sessions := rfl
@[simp] theorem State.andNotReg_spdm (s : State) (o : Nat) (w : Word) : (s.andNotReg o w).spdm = s.spdm := rfl
@[simp] theorem State.andNotReg_ports (s : State) (o : Nat) (w : Word) : (s.andNotReg o w).ports = s.ports := rfl
@[simp] theorem State.andNotReg_inq (s : State) (o : Nat) (w : Word) : (s.andNotReg o w).inq = s.inq := rfl
@[simp] theorem State.andNotReg_colls (s : State) (o : Nat) (w : Word) : (s.andNotReg o w).colls = s.colls := rfl
@[simp] theorem State.andNotReg_rings (s : State) (o : Nat) (w : Word) : (s.andNotReg o w).rings = s.rings := rfl
@[simp] theorem State.andNotReg_blocks (s : State) (o : Nat) (w : Word) : (s.andNotReg o w).blocks = s.blocks := rfl
@[simp] theorem State.andNotReg_aperture (s : State) (o : Nat) (w : Word) : (s.andNotReg o w).aperture = s.aperture := rfl
@[simp] theorem State.andNotReg_power (s : State) (o : Nat) (w : Word) : (s.andNotReg o w).power = s.power := rfl
@[simp] theorem State.andNotReg_thermal (s : State) (o : Nat) (w : Word) : (s.andNotReg o w).thermal = s.thermal := rfl
@[simp] theorem State.andNotReg_loupe (s : State) (o : Nat) (w : Word) : (s.andNotReg o w).loupe = s.loupe := rfl
@[simp] theorem State.andNotReg_dev (s : State) (o : Nat) (w : Word) : (s.andNotReg o w).dev = s.dev := rfl
@[simp] theorem State.andNotReg_timebase (s : State) (o : Nat) (w : Word) : (s.andNotReg o w).timebase = s.timebase := rfl
@[simp] theorem State.andNotReg_trace (s : State) (o : Nat) (w : Word) : (s.andNotReg o w).trace = s.trace := rfl
@[simp] theorem State.andNotReg_traceCfg (s : State) (o : Nat) (w : Word) : (s.andNotReg o w).traceCfg = s.traceCfg := rfl
@[simp] theorem State.andNotReg_traceQ (s : State) (o : Nat) (w : Word) : (s.andNotReg o w).traceQ = s.traceQ := rfl
@[simp] theorem State.andNotReg_traceDrops (s : State) (o : Nat) (w : Word) : (s.andNotReg o w).traceDrops = s.traceDrops := rfl
@[simp] theorem State.andNotReg_flash (s : State) (o : Nat) (w : Word) : (s.andNotReg o w).flash = s.flash := rfl
@[simp] theorem State.andNotReg_jtag (s : State) (o : Nat) (w : Word) : (s.andNotReg o w).jtag = s.jtag := rfl
@[simp] theorem State.andNotReg_upsets (s : State) (o : Nat) (w : Word) : (s.andNotReg o w).upsets = s.upsets := rfl
@[simp] theorem State.andNotReg_pciCfg (s : State) (o : Nat) (w : Word) : (s.andNotReg o w).pciCfg = s.pciCfg := rfl
@[simp] theorem State.andNotReg_appq (s : State) (o : Nat) (w : Word) : (s.andNotReg o w).appq = s.appq := rfl

@[simp] theorem State.countField_pending (s : State) (o lo len k : Nat) : (s.countField o lo len k).pending = s.pending := rfl
@[simp] theorem State.countField_freeCtr (s : State) (o lo len k : Nat) : (s.countField o lo len k).freeCtr = s.freeCtr := rfl
@[simp] theorem State.countField_out (s : State) (o lo len k : Nat) : (s.countField o lo len k).out = s.out := rfl
@[simp] theorem State.countField_cnts (s : State) (o lo len k : Nat) : (s.countField o lo len k).cnts = s.cnts := rfl
@[simp] theorem State.countField_latches (s : State) (o lo len k : Nat) : (s.countField o lo len k).latches = s.latches := rfl
@[simp] theorem State.countField_mem (s : State) (o lo len k : Nat) : (s.countField o lo len k).mem = s.mem := rfl
@[simp] theorem State.countField_cache (s : State) (o lo len k : Nat) : (s.countField o lo len k).cache = s.cache := rfl
@[simp] theorem State.countField_cores (s : State) (o lo len k : Nat) : (s.countField o lo len k).cores = s.cores := rfl
@[simp] theorem State.countField_routers (s : State) (o lo len k : Nat) : (s.countField o lo len k).routers = s.routers := rfl
@[simp] theorem State.countField_xings (s : State) (o lo len k : Nat) : (s.countField o lo len k).xings = s.xings := rfl
@[simp] theorem State.countField_attach (s : State) (o lo len k : Nat) : (s.countField o lo len k).attach = s.attach := rfl
@[simp] theorem State.countField_slices (s : State) (o lo len k : Nat) : (s.countField o lo len k).slices = s.slices := rfl
@[simp] theorem State.countField_chans (s : State) (o lo len k : Nat) : (s.countField o lo len k).chans = s.chans := rfl
@[simp] theorem State.countField_engines (s : State) (o lo len k : Nat) : (s.countField o lo len k).engines = s.engines := rfl
@[simp] theorem State.countField_cloves (s : State) (o lo len k : Nat) : (s.countField o lo len k).cloves = s.cloves := rfl
@[simp] theorem State.countField_parts (s : State) (o lo len k : Nat) : (s.countField o lo len k).parts = s.parts := rfl
@[simp] theorem State.countField_devFacet (s : State) (o lo len k : Nat) : (s.countField o lo len k).devFacet = s.devFacet := rfl
@[simp] theorem State.countField_keys (s : State) (o lo len k : Nat) : (s.countField o lo len k).keys = s.keys := rfl
@[simp] theorem State.countField_recvKeys (s : State) (o lo len k : Nat) : (s.countField o lo len k).recvKeys = s.recvKeys := rfl
@[simp] theorem State.countField_conns (s : State) (o lo len k : Nat) : (s.countField o lo len k).conns = s.conns := rfl
@[simp] theorem State.countField_sessions (s : State) (o lo len k : Nat) : (s.countField o lo len k).sessions = s.sessions := rfl
@[simp] theorem State.countField_spdm (s : State) (o lo len k : Nat) : (s.countField o lo len k).spdm = s.spdm := rfl
@[simp] theorem State.countField_ports (s : State) (o lo len k : Nat) : (s.countField o lo len k).ports = s.ports := rfl
@[simp] theorem State.countField_inq (s : State) (o lo len k : Nat) : (s.countField o lo len k).inq = s.inq := rfl
@[simp] theorem State.countField_colls (s : State) (o lo len k : Nat) : (s.countField o lo len k).colls = s.colls := rfl
@[simp] theorem State.countField_rings (s : State) (o lo len k : Nat) : (s.countField o lo len k).rings = s.rings := rfl
@[simp] theorem State.countField_blocks (s : State) (o lo len k : Nat) : (s.countField o lo len k).blocks = s.blocks := rfl
@[simp] theorem State.countField_aperture (s : State) (o lo len k : Nat) : (s.countField o lo len k).aperture = s.aperture := rfl
@[simp] theorem State.countField_power (s : State) (o lo len k : Nat) : (s.countField o lo len k).power = s.power := rfl
@[simp] theorem State.countField_thermal (s : State) (o lo len k : Nat) : (s.countField o lo len k).thermal = s.thermal := rfl
@[simp] theorem State.countField_loupe (s : State) (o lo len k : Nat) : (s.countField o lo len k).loupe = s.loupe := rfl
@[simp] theorem State.countField_dev (s : State) (o lo len k : Nat) : (s.countField o lo len k).dev = s.dev := rfl
@[simp] theorem State.countField_timebase (s : State) (o lo len k : Nat) : (s.countField o lo len k).timebase = s.timebase := rfl
@[simp] theorem State.countField_trace (s : State) (o lo len k : Nat) : (s.countField o lo len k).trace = s.trace := rfl
@[simp] theorem State.countField_traceCfg (s : State) (o lo len k : Nat) : (s.countField o lo len k).traceCfg = s.traceCfg := rfl
@[simp] theorem State.countField_traceQ (s : State) (o lo len k : Nat) : (s.countField o lo len k).traceQ = s.traceQ := rfl
@[simp] theorem State.countField_traceDrops (s : State) (o lo len k : Nat) : (s.countField o lo len k).traceDrops = s.traceDrops := rfl
@[simp] theorem State.countField_flash (s : State) (o lo len k : Nat) : (s.countField o lo len k).flash = s.flash := rfl
@[simp] theorem State.countField_jtag (s : State) (o lo len k : Nat) : (s.countField o lo len k).jtag = s.jtag := rfl
@[simp] theorem State.countField_upsets (s : State) (o lo len k : Nat) : (s.countField o lo len k).upsets = s.upsets := rfl
@[simp] theorem State.countField_pciCfg (s : State) (o lo len k : Nat) : (s.countField o lo len k).pciCfg = s.pciCfg := rfl
@[simp] theorem State.countField_appq (s : State) (o lo len k : Nat) : (s.countField o lo len k).appq = s.appq := rfl

@[simp] theorem State.setCore_pending (s : State) (n : Nat) (x : Core) : (s.setCore n x).pending = s.pending := rfl
@[simp] theorem State.setCore_freeCtr (s : State) (n : Nat) (x : Core) : (s.setCore n x).freeCtr = s.freeCtr := rfl
@[simp] theorem State.setCore_out (s : State) (n : Nat) (x : Core) : (s.setCore n x).out = s.out := rfl
@[simp] theorem State.setCore_regs (s : State) (n : Nat) (x : Core) : (s.setCore n x).regs = s.regs := rfl
@[simp] theorem State.setCore_cnts (s : State) (n : Nat) (x : Core) : (s.setCore n x).cnts = s.cnts := rfl
@[simp] theorem State.setCore_latches (s : State) (n : Nat) (x : Core) : (s.setCore n x).latches = s.latches := rfl
@[simp] theorem State.setCore_mem (s : State) (n : Nat) (x : Core) : (s.setCore n x).mem = s.mem := rfl
@[simp] theorem State.setCore_cache (s : State) (n : Nat) (x : Core) : (s.setCore n x).cache = s.cache := rfl
@[simp] theorem State.setCore_routers (s : State) (n : Nat) (x : Core) : (s.setCore n x).routers = s.routers := rfl
@[simp] theorem State.setCore_xings (s : State) (n : Nat) (x : Core) : (s.setCore n x).xings = s.xings := rfl
@[simp] theorem State.setCore_attach (s : State) (n : Nat) (x : Core) : (s.setCore n x).attach = s.attach := rfl
@[simp] theorem State.setCore_slices (s : State) (n : Nat) (x : Core) : (s.setCore n x).slices = s.slices := rfl
@[simp] theorem State.setCore_chans (s : State) (n : Nat) (x : Core) : (s.setCore n x).chans = s.chans := rfl
@[simp] theorem State.setCore_engines (s : State) (n : Nat) (x : Core) : (s.setCore n x).engines = s.engines := rfl
@[simp] theorem State.setCore_cloves (s : State) (n : Nat) (x : Core) : (s.setCore n x).cloves = s.cloves := rfl
@[simp] theorem State.setCore_parts (s : State) (n : Nat) (x : Core) : (s.setCore n x).parts = s.parts := rfl
@[simp] theorem State.setCore_devFacet (s : State) (n : Nat) (x : Core) : (s.setCore n x).devFacet = s.devFacet := rfl
@[simp] theorem State.setCore_keys (s : State) (n : Nat) (x : Core) : (s.setCore n x).keys = s.keys := rfl
@[simp] theorem State.setCore_recvKeys (s : State) (n : Nat) (x : Core) : (s.setCore n x).recvKeys = s.recvKeys := rfl
@[simp] theorem State.setCore_conns (s : State) (n : Nat) (x : Core) : (s.setCore n x).conns = s.conns := rfl
@[simp] theorem State.setCore_sessions (s : State) (n : Nat) (x : Core) : (s.setCore n x).sessions = s.sessions := rfl
@[simp] theorem State.setCore_spdm (s : State) (n : Nat) (x : Core) : (s.setCore n x).spdm = s.spdm := rfl
@[simp] theorem State.setCore_ports (s : State) (n : Nat) (x : Core) : (s.setCore n x).ports = s.ports := rfl
@[simp] theorem State.setCore_inq (s : State) (n : Nat) (x : Core) : (s.setCore n x).inq = s.inq := rfl
@[simp] theorem State.setCore_colls (s : State) (n : Nat) (x : Core) : (s.setCore n x).colls = s.colls := rfl
@[simp] theorem State.setCore_rings (s : State) (n : Nat) (x : Core) : (s.setCore n x).rings = s.rings := rfl
@[simp] theorem State.setCore_blocks (s : State) (n : Nat) (x : Core) : (s.setCore n x).blocks = s.blocks := rfl
@[simp] theorem State.setCore_aperture (s : State) (n : Nat) (x : Core) : (s.setCore n x).aperture = s.aperture := rfl
@[simp] theorem State.setCore_power (s : State) (n : Nat) (x : Core) : (s.setCore n x).power = s.power := rfl
@[simp] theorem State.setCore_thermal (s : State) (n : Nat) (x : Core) : (s.setCore n x).thermal = s.thermal := rfl
@[simp] theorem State.setCore_loupe (s : State) (n : Nat) (x : Core) : (s.setCore n x).loupe = s.loupe := rfl
@[simp] theorem State.setCore_dev (s : State) (n : Nat) (x : Core) : (s.setCore n x).dev = s.dev := rfl
@[simp] theorem State.setCore_timebase (s : State) (n : Nat) (x : Core) : (s.setCore n x).timebase = s.timebase := rfl
@[simp] theorem State.setCore_trace (s : State) (n : Nat) (x : Core) : (s.setCore n x).trace = s.trace := rfl
@[simp] theorem State.setCore_traceCfg (s : State) (n : Nat) (x : Core) : (s.setCore n x).traceCfg = s.traceCfg := rfl
@[simp] theorem State.setCore_traceQ (s : State) (n : Nat) (x : Core) : (s.setCore n x).traceQ = s.traceQ := rfl
@[simp] theorem State.setCore_traceDrops (s : State) (n : Nat) (x : Core) : (s.setCore n x).traceDrops = s.traceDrops := rfl
@[simp] theorem State.setCore_flash (s : State) (n : Nat) (x : Core) : (s.setCore n x).flash = s.flash := rfl
@[simp] theorem State.setCore_jtag (s : State) (n : Nat) (x : Core) : (s.setCore n x).jtag = s.jtag := rfl
@[simp] theorem State.setCore_upsets (s : State) (n : Nat) (x : Core) : (s.setCore n x).upsets = s.upsets := rfl
@[simp] theorem State.setCore_pciCfg (s : State) (n : Nat) (x : Core) : (s.setCore n x).pciCfg = s.pciCfg := rfl
@[simp] theorem State.setCore_appq (s : State) (n : Nat) (x : Core) : (s.setCore n x).appq = s.appq := rfl

@[simp] theorem State.setRouter_pending (s : State) (n : Nat) (x : Router) : (s.setRouter n x).pending = s.pending := rfl
@[simp] theorem State.setRouter_freeCtr (s : State) (n : Nat) (x : Router) : (s.setRouter n x).freeCtr = s.freeCtr := rfl
@[simp] theorem State.setRouter_out (s : State) (n : Nat) (x : Router) : (s.setRouter n x).out = s.out := rfl
@[simp] theorem State.setRouter_regs (s : State) (n : Nat) (x : Router) : (s.setRouter n x).regs = s.regs := rfl
@[simp] theorem State.setRouter_cnts (s : State) (n : Nat) (x : Router) : (s.setRouter n x).cnts = s.cnts := rfl
@[simp] theorem State.setRouter_latches (s : State) (n : Nat) (x : Router) : (s.setRouter n x).latches = s.latches := rfl
@[simp] theorem State.setRouter_mem (s : State) (n : Nat) (x : Router) : (s.setRouter n x).mem = s.mem := rfl
@[simp] theorem State.setRouter_cache (s : State) (n : Nat) (x : Router) : (s.setRouter n x).cache = s.cache := rfl
@[simp] theorem State.setRouter_cores (s : State) (n : Nat) (x : Router) : (s.setRouter n x).cores = s.cores := rfl
@[simp] theorem State.setRouter_xings (s : State) (n : Nat) (x : Router) : (s.setRouter n x).xings = s.xings := rfl
@[simp] theorem State.setRouter_attach (s : State) (n : Nat) (x : Router) : (s.setRouter n x).attach = s.attach := rfl
@[simp] theorem State.setRouter_slices (s : State) (n : Nat) (x : Router) : (s.setRouter n x).slices = s.slices := rfl
@[simp] theorem State.setRouter_chans (s : State) (n : Nat) (x : Router) : (s.setRouter n x).chans = s.chans := rfl
@[simp] theorem State.setRouter_engines (s : State) (n : Nat) (x : Router) : (s.setRouter n x).engines = s.engines := rfl
@[simp] theorem State.setRouter_cloves (s : State) (n : Nat) (x : Router) : (s.setRouter n x).cloves = s.cloves := rfl
@[simp] theorem State.setRouter_parts (s : State) (n : Nat) (x : Router) : (s.setRouter n x).parts = s.parts := rfl
@[simp] theorem State.setRouter_devFacet (s : State) (n : Nat) (x : Router) : (s.setRouter n x).devFacet = s.devFacet := rfl
@[simp] theorem State.setRouter_keys (s : State) (n : Nat) (x : Router) : (s.setRouter n x).keys = s.keys := rfl
@[simp] theorem State.setRouter_recvKeys (s : State) (n : Nat) (x : Router) : (s.setRouter n x).recvKeys = s.recvKeys := rfl
@[simp] theorem State.setRouter_conns (s : State) (n : Nat) (x : Router) : (s.setRouter n x).conns = s.conns := rfl
@[simp] theorem State.setRouter_sessions (s : State) (n : Nat) (x : Router) : (s.setRouter n x).sessions = s.sessions := rfl
@[simp] theorem State.setRouter_spdm (s : State) (n : Nat) (x : Router) : (s.setRouter n x).spdm = s.spdm := rfl
@[simp] theorem State.setRouter_ports (s : State) (n : Nat) (x : Router) : (s.setRouter n x).ports = s.ports := rfl
@[simp] theorem State.setRouter_inq (s : State) (n : Nat) (x : Router) : (s.setRouter n x).inq = s.inq := rfl
@[simp] theorem State.setRouter_colls (s : State) (n : Nat) (x : Router) : (s.setRouter n x).colls = s.colls := rfl
@[simp] theorem State.setRouter_rings (s : State) (n : Nat) (x : Router) : (s.setRouter n x).rings = s.rings := rfl
@[simp] theorem State.setRouter_blocks (s : State) (n : Nat) (x : Router) : (s.setRouter n x).blocks = s.blocks := rfl
@[simp] theorem State.setRouter_aperture (s : State) (n : Nat) (x : Router) : (s.setRouter n x).aperture = s.aperture := rfl
@[simp] theorem State.setRouter_power (s : State) (n : Nat) (x : Router) : (s.setRouter n x).power = s.power := rfl
@[simp] theorem State.setRouter_thermal (s : State) (n : Nat) (x : Router) : (s.setRouter n x).thermal = s.thermal := rfl
@[simp] theorem State.setRouter_loupe (s : State) (n : Nat) (x : Router) : (s.setRouter n x).loupe = s.loupe := rfl
@[simp] theorem State.setRouter_dev (s : State) (n : Nat) (x : Router) : (s.setRouter n x).dev = s.dev := rfl
@[simp] theorem State.setRouter_timebase (s : State) (n : Nat) (x : Router) : (s.setRouter n x).timebase = s.timebase := rfl
@[simp] theorem State.setRouter_trace (s : State) (n : Nat) (x : Router) : (s.setRouter n x).trace = s.trace := rfl
@[simp] theorem State.setRouter_traceCfg (s : State) (n : Nat) (x : Router) : (s.setRouter n x).traceCfg = s.traceCfg := rfl
@[simp] theorem State.setRouter_traceQ (s : State) (n : Nat) (x : Router) : (s.setRouter n x).traceQ = s.traceQ := rfl
@[simp] theorem State.setRouter_traceDrops (s : State) (n : Nat) (x : Router) : (s.setRouter n x).traceDrops = s.traceDrops := rfl
@[simp] theorem State.setRouter_flash (s : State) (n : Nat) (x : Router) : (s.setRouter n x).flash = s.flash := rfl
@[simp] theorem State.setRouter_jtag (s : State) (n : Nat) (x : Router) : (s.setRouter n x).jtag = s.jtag := rfl
@[simp] theorem State.setRouter_upsets (s : State) (n : Nat) (x : Router) : (s.setRouter n x).upsets = s.upsets := rfl
@[simp] theorem State.setRouter_pciCfg (s : State) (n : Nat) (x : Router) : (s.setRouter n x).pciCfg = s.pciCfg := rfl
@[simp] theorem State.setRouter_appq (s : State) (n : Nat) (x : Router) : (s.setRouter n x).appq = s.appq := rfl

@[simp] theorem State.setPart_pending (s : State) (n : Nat) (x : Partition) : (s.setPart n x).pending = s.pending := rfl
@[simp] theorem State.setPart_freeCtr (s : State) (n : Nat) (x : Partition) : (s.setPart n x).freeCtr = s.freeCtr := rfl
@[simp] theorem State.setPart_out (s : State) (n : Nat) (x : Partition) : (s.setPart n x).out = s.out := rfl
@[simp] theorem State.setPart_regs (s : State) (n : Nat) (x : Partition) : (s.setPart n x).regs = s.regs := rfl
@[simp] theorem State.setPart_cnts (s : State) (n : Nat) (x : Partition) : (s.setPart n x).cnts = s.cnts := rfl
@[simp] theorem State.setPart_latches (s : State) (n : Nat) (x : Partition) : (s.setPart n x).latches = s.latches := rfl
@[simp] theorem State.setPart_mem (s : State) (n : Nat) (x : Partition) : (s.setPart n x).mem = s.mem := rfl
@[simp] theorem State.setPart_cache (s : State) (n : Nat) (x : Partition) : (s.setPart n x).cache = s.cache := rfl
@[simp] theorem State.setPart_cores (s : State) (n : Nat) (x : Partition) : (s.setPart n x).cores = s.cores := rfl
@[simp] theorem State.setPart_routers (s : State) (n : Nat) (x : Partition) : (s.setPart n x).routers = s.routers := rfl
@[simp] theorem State.setPart_xings (s : State) (n : Nat) (x : Partition) : (s.setPart n x).xings = s.xings := rfl
@[simp] theorem State.setPart_attach (s : State) (n : Nat) (x : Partition) : (s.setPart n x).attach = s.attach := rfl
@[simp] theorem State.setPart_slices (s : State) (n : Nat) (x : Partition) : (s.setPart n x).slices = s.slices := rfl
@[simp] theorem State.setPart_chans (s : State) (n : Nat) (x : Partition) : (s.setPart n x).chans = s.chans := rfl
@[simp] theorem State.setPart_engines (s : State) (n : Nat) (x : Partition) : (s.setPart n x).engines = s.engines := rfl
@[simp] theorem State.setPart_cloves (s : State) (n : Nat) (x : Partition) : (s.setPart n x).cloves = s.cloves := rfl
@[simp] theorem State.setPart_devFacet (s : State) (n : Nat) (x : Partition) : (s.setPart n x).devFacet = s.devFacet := rfl
@[simp] theorem State.setPart_keys (s : State) (n : Nat) (x : Partition) : (s.setPart n x).keys = s.keys := rfl
@[simp] theorem State.setPart_recvKeys (s : State) (n : Nat) (x : Partition) : (s.setPart n x).recvKeys = s.recvKeys := rfl
@[simp] theorem State.setPart_conns (s : State) (n : Nat) (x : Partition) : (s.setPart n x).conns = s.conns := rfl
@[simp] theorem State.setPart_sessions (s : State) (n : Nat) (x : Partition) : (s.setPart n x).sessions = s.sessions := rfl
@[simp] theorem State.setPart_spdm (s : State) (n : Nat) (x : Partition) : (s.setPart n x).spdm = s.spdm := rfl
@[simp] theorem State.setPart_ports (s : State) (n : Nat) (x : Partition) : (s.setPart n x).ports = s.ports := rfl
@[simp] theorem State.setPart_inq (s : State) (n : Nat) (x : Partition) : (s.setPart n x).inq = s.inq := rfl
@[simp] theorem State.setPart_colls (s : State) (n : Nat) (x : Partition) : (s.setPart n x).colls = s.colls := rfl
@[simp] theorem State.setPart_rings (s : State) (n : Nat) (x : Partition) : (s.setPart n x).rings = s.rings := rfl
@[simp] theorem State.setPart_blocks (s : State) (n : Nat) (x : Partition) : (s.setPart n x).blocks = s.blocks := rfl
@[simp] theorem State.setPart_aperture (s : State) (n : Nat) (x : Partition) : (s.setPart n x).aperture = s.aperture := rfl
@[simp] theorem State.setPart_power (s : State) (n : Nat) (x : Partition) : (s.setPart n x).power = s.power := rfl
@[simp] theorem State.setPart_thermal (s : State) (n : Nat) (x : Partition) : (s.setPart n x).thermal = s.thermal := rfl
@[simp] theorem State.setPart_loupe (s : State) (n : Nat) (x : Partition) : (s.setPart n x).loupe = s.loupe := rfl
@[simp] theorem State.setPart_dev (s : State) (n : Nat) (x : Partition) : (s.setPart n x).dev = s.dev := rfl
@[simp] theorem State.setPart_timebase (s : State) (n : Nat) (x : Partition) : (s.setPart n x).timebase = s.timebase := rfl
@[simp] theorem State.setPart_trace (s : State) (n : Nat) (x : Partition) : (s.setPart n x).trace = s.trace := rfl
@[simp] theorem State.setPart_traceCfg (s : State) (n : Nat) (x : Partition) : (s.setPart n x).traceCfg = s.traceCfg := rfl
@[simp] theorem State.setPart_traceQ (s : State) (n : Nat) (x : Partition) : (s.setPart n x).traceQ = s.traceQ := rfl
@[simp] theorem State.setPart_traceDrops (s : State) (n : Nat) (x : Partition) : (s.setPart n x).traceDrops = s.traceDrops := rfl
@[simp] theorem State.setPart_flash (s : State) (n : Nat) (x : Partition) : (s.setPart n x).flash = s.flash := rfl
@[simp] theorem State.setPart_jtag (s : State) (n : Nat) (x : Partition) : (s.setPart n x).jtag = s.jtag := rfl
@[simp] theorem State.setPart_upsets (s : State) (n : Nat) (x : Partition) : (s.setPart n x).upsets = s.upsets := rfl
@[simp] theorem State.setPart_pciCfg (s : State) (n : Nat) (x : Partition) : (s.setPart n x).pciCfg = s.pciCfg := rfl
@[simp] theorem State.setPart_appq (s : State) (n : Nat) (x : Partition) : (s.setPart n x).appq = s.appq := rfl

@[simp] theorem State.setSlice_pending (s : State) (n : Nat) (x : Slice) : (s.setSlice n x).pending = s.pending := rfl
@[simp] theorem State.setSlice_freeCtr (s : State) (n : Nat) (x : Slice) : (s.setSlice n x).freeCtr = s.freeCtr := rfl
@[simp] theorem State.setSlice_out (s : State) (n : Nat) (x : Slice) : (s.setSlice n x).out = s.out := rfl
@[simp] theorem State.setSlice_regs (s : State) (n : Nat) (x : Slice) : (s.setSlice n x).regs = s.regs := rfl
@[simp] theorem State.setSlice_cnts (s : State) (n : Nat) (x : Slice) : (s.setSlice n x).cnts = s.cnts := rfl
@[simp] theorem State.setSlice_latches (s : State) (n : Nat) (x : Slice) : (s.setSlice n x).latches = s.latches := rfl
@[simp] theorem State.setSlice_mem (s : State) (n : Nat) (x : Slice) : (s.setSlice n x).mem = s.mem := rfl
@[simp] theorem State.setSlice_cache (s : State) (n : Nat) (x : Slice) : (s.setSlice n x).cache = s.cache := rfl
@[simp] theorem State.setSlice_cores (s : State) (n : Nat) (x : Slice) : (s.setSlice n x).cores = s.cores := rfl
@[simp] theorem State.setSlice_routers (s : State) (n : Nat) (x : Slice) : (s.setSlice n x).routers = s.routers := rfl
@[simp] theorem State.setSlice_xings (s : State) (n : Nat) (x : Slice) : (s.setSlice n x).xings = s.xings := rfl
@[simp] theorem State.setSlice_attach (s : State) (n : Nat) (x : Slice) : (s.setSlice n x).attach = s.attach := rfl
@[simp] theorem State.setSlice_chans (s : State) (n : Nat) (x : Slice) : (s.setSlice n x).chans = s.chans := rfl
@[simp] theorem State.setSlice_engines (s : State) (n : Nat) (x : Slice) : (s.setSlice n x).engines = s.engines := rfl
@[simp] theorem State.setSlice_cloves (s : State) (n : Nat) (x : Slice) : (s.setSlice n x).cloves = s.cloves := rfl
@[simp] theorem State.setSlice_parts (s : State) (n : Nat) (x : Slice) : (s.setSlice n x).parts = s.parts := rfl
@[simp] theorem State.setSlice_devFacet (s : State) (n : Nat) (x : Slice) : (s.setSlice n x).devFacet = s.devFacet := rfl
@[simp] theorem State.setSlice_keys (s : State) (n : Nat) (x : Slice) : (s.setSlice n x).keys = s.keys := rfl
@[simp] theorem State.setSlice_recvKeys (s : State) (n : Nat) (x : Slice) : (s.setSlice n x).recvKeys = s.recvKeys := rfl
@[simp] theorem State.setSlice_conns (s : State) (n : Nat) (x : Slice) : (s.setSlice n x).conns = s.conns := rfl
@[simp] theorem State.setSlice_sessions (s : State) (n : Nat) (x : Slice) : (s.setSlice n x).sessions = s.sessions := rfl
@[simp] theorem State.setSlice_spdm (s : State) (n : Nat) (x : Slice) : (s.setSlice n x).spdm = s.spdm := rfl
@[simp] theorem State.setSlice_ports (s : State) (n : Nat) (x : Slice) : (s.setSlice n x).ports = s.ports := rfl
@[simp] theorem State.setSlice_inq (s : State) (n : Nat) (x : Slice) : (s.setSlice n x).inq = s.inq := rfl
@[simp] theorem State.setSlice_colls (s : State) (n : Nat) (x : Slice) : (s.setSlice n x).colls = s.colls := rfl
@[simp] theorem State.setSlice_rings (s : State) (n : Nat) (x : Slice) : (s.setSlice n x).rings = s.rings := rfl
@[simp] theorem State.setSlice_blocks (s : State) (n : Nat) (x : Slice) : (s.setSlice n x).blocks = s.blocks := rfl
@[simp] theorem State.setSlice_aperture (s : State) (n : Nat) (x : Slice) : (s.setSlice n x).aperture = s.aperture := rfl
@[simp] theorem State.setSlice_power (s : State) (n : Nat) (x : Slice) : (s.setSlice n x).power = s.power := rfl
@[simp] theorem State.setSlice_thermal (s : State) (n : Nat) (x : Slice) : (s.setSlice n x).thermal = s.thermal := rfl
@[simp] theorem State.setSlice_loupe (s : State) (n : Nat) (x : Slice) : (s.setSlice n x).loupe = s.loupe := rfl
@[simp] theorem State.setSlice_dev (s : State) (n : Nat) (x : Slice) : (s.setSlice n x).dev = s.dev := rfl
@[simp] theorem State.setSlice_timebase (s : State) (n : Nat) (x : Slice) : (s.setSlice n x).timebase = s.timebase := rfl
@[simp] theorem State.setSlice_trace (s : State) (n : Nat) (x : Slice) : (s.setSlice n x).trace = s.trace := rfl
@[simp] theorem State.setSlice_traceCfg (s : State) (n : Nat) (x : Slice) : (s.setSlice n x).traceCfg = s.traceCfg := rfl
@[simp] theorem State.setSlice_traceQ (s : State) (n : Nat) (x : Slice) : (s.setSlice n x).traceQ = s.traceQ := rfl
@[simp] theorem State.setSlice_traceDrops (s : State) (n : Nat) (x : Slice) : (s.setSlice n x).traceDrops = s.traceDrops := rfl
@[simp] theorem State.setSlice_flash (s : State) (n : Nat) (x : Slice) : (s.setSlice n x).flash = s.flash := rfl
@[simp] theorem State.setSlice_jtag (s : State) (n : Nat) (x : Slice) : (s.setSlice n x).jtag = s.jtag := rfl
@[simp] theorem State.setSlice_upsets (s : State) (n : Nat) (x : Slice) : (s.setSlice n x).upsets = s.upsets := rfl
@[simp] theorem State.setSlice_pciCfg (s : State) (n : Nat) (x : Slice) : (s.setSlice n x).pciCfg = s.pciCfg := rfl
@[simp] theorem State.setSlice_appq (s : State) (n : Nat) (x : Slice) : (s.setSlice n x).appq = s.appq := rfl

@[simp] theorem State.setChan_pending (s : State) (n : Nat) (x : Chan) : (s.setChan n x).pending = s.pending := rfl
@[simp] theorem State.setChan_freeCtr (s : State) (n : Nat) (x : Chan) : (s.setChan n x).freeCtr = s.freeCtr := rfl
@[simp] theorem State.setChan_out (s : State) (n : Nat) (x : Chan) : (s.setChan n x).out = s.out := rfl
@[simp] theorem State.setChan_regs (s : State) (n : Nat) (x : Chan) : (s.setChan n x).regs = s.regs := rfl
@[simp] theorem State.setChan_cnts (s : State) (n : Nat) (x : Chan) : (s.setChan n x).cnts = s.cnts := rfl
@[simp] theorem State.setChan_latches (s : State) (n : Nat) (x : Chan) : (s.setChan n x).latches = s.latches := rfl
@[simp] theorem State.setChan_mem (s : State) (n : Nat) (x : Chan) : (s.setChan n x).mem = s.mem := rfl
@[simp] theorem State.setChan_cache (s : State) (n : Nat) (x : Chan) : (s.setChan n x).cache = s.cache := rfl
@[simp] theorem State.setChan_cores (s : State) (n : Nat) (x : Chan) : (s.setChan n x).cores = s.cores := rfl
@[simp] theorem State.setChan_routers (s : State) (n : Nat) (x : Chan) : (s.setChan n x).routers = s.routers := rfl
@[simp] theorem State.setChan_xings (s : State) (n : Nat) (x : Chan) : (s.setChan n x).xings = s.xings := rfl
@[simp] theorem State.setChan_attach (s : State) (n : Nat) (x : Chan) : (s.setChan n x).attach = s.attach := rfl
@[simp] theorem State.setChan_slices (s : State) (n : Nat) (x : Chan) : (s.setChan n x).slices = s.slices := rfl
@[simp] theorem State.setChan_engines (s : State) (n : Nat) (x : Chan) : (s.setChan n x).engines = s.engines := rfl
@[simp] theorem State.setChan_cloves (s : State) (n : Nat) (x : Chan) : (s.setChan n x).cloves = s.cloves := rfl
@[simp] theorem State.setChan_parts (s : State) (n : Nat) (x : Chan) : (s.setChan n x).parts = s.parts := rfl
@[simp] theorem State.setChan_devFacet (s : State) (n : Nat) (x : Chan) : (s.setChan n x).devFacet = s.devFacet := rfl
@[simp] theorem State.setChan_keys (s : State) (n : Nat) (x : Chan) : (s.setChan n x).keys = s.keys := rfl
@[simp] theorem State.setChan_recvKeys (s : State) (n : Nat) (x : Chan) : (s.setChan n x).recvKeys = s.recvKeys := rfl
@[simp] theorem State.setChan_conns (s : State) (n : Nat) (x : Chan) : (s.setChan n x).conns = s.conns := rfl
@[simp] theorem State.setChan_sessions (s : State) (n : Nat) (x : Chan) : (s.setChan n x).sessions = s.sessions := rfl
@[simp] theorem State.setChan_spdm (s : State) (n : Nat) (x : Chan) : (s.setChan n x).spdm = s.spdm := rfl
@[simp] theorem State.setChan_ports (s : State) (n : Nat) (x : Chan) : (s.setChan n x).ports = s.ports := rfl
@[simp] theorem State.setChan_inq (s : State) (n : Nat) (x : Chan) : (s.setChan n x).inq = s.inq := rfl
@[simp] theorem State.setChan_colls (s : State) (n : Nat) (x : Chan) : (s.setChan n x).colls = s.colls := rfl
@[simp] theorem State.setChan_rings (s : State) (n : Nat) (x : Chan) : (s.setChan n x).rings = s.rings := rfl
@[simp] theorem State.setChan_blocks (s : State) (n : Nat) (x : Chan) : (s.setChan n x).blocks = s.blocks := rfl
@[simp] theorem State.setChan_aperture (s : State) (n : Nat) (x : Chan) : (s.setChan n x).aperture = s.aperture := rfl
@[simp] theorem State.setChan_power (s : State) (n : Nat) (x : Chan) : (s.setChan n x).power = s.power := rfl
@[simp] theorem State.setChan_thermal (s : State) (n : Nat) (x : Chan) : (s.setChan n x).thermal = s.thermal := rfl
@[simp] theorem State.setChan_loupe (s : State) (n : Nat) (x : Chan) : (s.setChan n x).loupe = s.loupe := rfl
@[simp] theorem State.setChan_dev (s : State) (n : Nat) (x : Chan) : (s.setChan n x).dev = s.dev := rfl
@[simp] theorem State.setChan_timebase (s : State) (n : Nat) (x : Chan) : (s.setChan n x).timebase = s.timebase := rfl
@[simp] theorem State.setChan_trace (s : State) (n : Nat) (x : Chan) : (s.setChan n x).trace = s.trace := rfl
@[simp] theorem State.setChan_traceCfg (s : State) (n : Nat) (x : Chan) : (s.setChan n x).traceCfg = s.traceCfg := rfl
@[simp] theorem State.setChan_traceQ (s : State) (n : Nat) (x : Chan) : (s.setChan n x).traceQ = s.traceQ := rfl
@[simp] theorem State.setChan_traceDrops (s : State) (n : Nat) (x : Chan) : (s.setChan n x).traceDrops = s.traceDrops := rfl
@[simp] theorem State.setChan_flash (s : State) (n : Nat) (x : Chan) : (s.setChan n x).flash = s.flash := rfl
@[simp] theorem State.setChan_jtag (s : State) (n : Nat) (x : Chan) : (s.setChan n x).jtag = s.jtag := rfl
@[simp] theorem State.setChan_upsets (s : State) (n : Nat) (x : Chan) : (s.setChan n x).upsets = s.upsets := rfl
@[simp] theorem State.setChan_pciCfg (s : State) (n : Nat) (x : Chan) : (s.setChan n x).pciCfg = s.pciCfg := rfl
@[simp] theorem State.setChan_appq (s : State) (n : Nat) (x : Chan) : (s.setChan n x).appq = s.appq := rfl

@[simp] theorem State.setClove_pending (s : State) (n : Nat) (x : Clove) : (s.setClove n x).pending = s.pending := rfl
@[simp] theorem State.setClove_freeCtr (s : State) (n : Nat) (x : Clove) : (s.setClove n x).freeCtr = s.freeCtr := rfl
@[simp] theorem State.setClove_out (s : State) (n : Nat) (x : Clove) : (s.setClove n x).out = s.out := rfl
@[simp] theorem State.setClove_regs (s : State) (n : Nat) (x : Clove) : (s.setClove n x).regs = s.regs := rfl
@[simp] theorem State.setClove_cnts (s : State) (n : Nat) (x : Clove) : (s.setClove n x).cnts = s.cnts := rfl
@[simp] theorem State.setClove_latches (s : State) (n : Nat) (x : Clove) : (s.setClove n x).latches = s.latches := rfl
@[simp] theorem State.setClove_mem (s : State) (n : Nat) (x : Clove) : (s.setClove n x).mem = s.mem := rfl
@[simp] theorem State.setClove_cache (s : State) (n : Nat) (x : Clove) : (s.setClove n x).cache = s.cache := rfl
@[simp] theorem State.setClove_cores (s : State) (n : Nat) (x : Clove) : (s.setClove n x).cores = s.cores := rfl
@[simp] theorem State.setClove_routers (s : State) (n : Nat) (x : Clove) : (s.setClove n x).routers = s.routers := rfl
@[simp] theorem State.setClove_xings (s : State) (n : Nat) (x : Clove) : (s.setClove n x).xings = s.xings := rfl
@[simp] theorem State.setClove_attach (s : State) (n : Nat) (x : Clove) : (s.setClove n x).attach = s.attach := rfl
@[simp] theorem State.setClove_slices (s : State) (n : Nat) (x : Clove) : (s.setClove n x).slices = s.slices := rfl
@[simp] theorem State.setClove_chans (s : State) (n : Nat) (x : Clove) : (s.setClove n x).chans = s.chans := rfl
@[simp] theorem State.setClove_engines (s : State) (n : Nat) (x : Clove) : (s.setClove n x).engines = s.engines := rfl
@[simp] theorem State.setClove_parts (s : State) (n : Nat) (x : Clove) : (s.setClove n x).parts = s.parts := rfl
@[simp] theorem State.setClove_devFacet (s : State) (n : Nat) (x : Clove) : (s.setClove n x).devFacet = s.devFacet := rfl
@[simp] theorem State.setClove_keys (s : State) (n : Nat) (x : Clove) : (s.setClove n x).keys = s.keys := rfl
@[simp] theorem State.setClove_recvKeys (s : State) (n : Nat) (x : Clove) : (s.setClove n x).recvKeys = s.recvKeys := rfl
@[simp] theorem State.setClove_conns (s : State) (n : Nat) (x : Clove) : (s.setClove n x).conns = s.conns := rfl
@[simp] theorem State.setClove_sessions (s : State) (n : Nat) (x : Clove) : (s.setClove n x).sessions = s.sessions := rfl
@[simp] theorem State.setClove_spdm (s : State) (n : Nat) (x : Clove) : (s.setClove n x).spdm = s.spdm := rfl
@[simp] theorem State.setClove_ports (s : State) (n : Nat) (x : Clove) : (s.setClove n x).ports = s.ports := rfl
@[simp] theorem State.setClove_inq (s : State) (n : Nat) (x : Clove) : (s.setClove n x).inq = s.inq := rfl
@[simp] theorem State.setClove_colls (s : State) (n : Nat) (x : Clove) : (s.setClove n x).colls = s.colls := rfl
@[simp] theorem State.setClove_rings (s : State) (n : Nat) (x : Clove) : (s.setClove n x).rings = s.rings := rfl
@[simp] theorem State.setClove_blocks (s : State) (n : Nat) (x : Clove) : (s.setClove n x).blocks = s.blocks := rfl
@[simp] theorem State.setClove_aperture (s : State) (n : Nat) (x : Clove) : (s.setClove n x).aperture = s.aperture := rfl
@[simp] theorem State.setClove_power (s : State) (n : Nat) (x : Clove) : (s.setClove n x).power = s.power := rfl
@[simp] theorem State.setClove_thermal (s : State) (n : Nat) (x : Clove) : (s.setClove n x).thermal = s.thermal := rfl
@[simp] theorem State.setClove_loupe (s : State) (n : Nat) (x : Clove) : (s.setClove n x).loupe = s.loupe := rfl
@[simp] theorem State.setClove_dev (s : State) (n : Nat) (x : Clove) : (s.setClove n x).dev = s.dev := rfl
@[simp] theorem State.setClove_timebase (s : State) (n : Nat) (x : Clove) : (s.setClove n x).timebase = s.timebase := rfl
@[simp] theorem State.setClove_trace (s : State) (n : Nat) (x : Clove) : (s.setClove n x).trace = s.trace := rfl
@[simp] theorem State.setClove_traceCfg (s : State) (n : Nat) (x : Clove) : (s.setClove n x).traceCfg = s.traceCfg := rfl
@[simp] theorem State.setClove_traceQ (s : State) (n : Nat) (x : Clove) : (s.setClove n x).traceQ = s.traceQ := rfl
@[simp] theorem State.setClove_traceDrops (s : State) (n : Nat) (x : Clove) : (s.setClove n x).traceDrops = s.traceDrops := rfl
@[simp] theorem State.setClove_flash (s : State) (n : Nat) (x : Clove) : (s.setClove n x).flash = s.flash := rfl
@[simp] theorem State.setClove_jtag (s : State) (n : Nat) (x : Clove) : (s.setClove n x).jtag = s.jtag := rfl
@[simp] theorem State.setClove_upsets (s : State) (n : Nat) (x : Clove) : (s.setClove n x).upsets = s.upsets := rfl
@[simp] theorem State.setClove_pciCfg (s : State) (n : Nat) (x : Clove) : (s.setClove n x).pciCfg = s.pciCfg := rfl
@[simp] theorem State.setClove_appq (s : State) (n : Nat) (x : Clove) : (s.setClove n x).appq = s.appq := rfl

@[simp] theorem State.setEngine_pending (s : State) (n : Nat) (x : Engine) : (s.setEngine n x).pending = s.pending := rfl
@[simp] theorem State.setEngine_freeCtr (s : State) (n : Nat) (x : Engine) : (s.setEngine n x).freeCtr = s.freeCtr := rfl
@[simp] theorem State.setEngine_out (s : State) (n : Nat) (x : Engine) : (s.setEngine n x).out = s.out := rfl
@[simp] theorem State.setEngine_regs (s : State) (n : Nat) (x : Engine) : (s.setEngine n x).regs = s.regs := rfl
@[simp] theorem State.setEngine_cnts (s : State) (n : Nat) (x : Engine) : (s.setEngine n x).cnts = s.cnts := rfl
@[simp] theorem State.setEngine_latches (s : State) (n : Nat) (x : Engine) : (s.setEngine n x).latches = s.latches := rfl
@[simp] theorem State.setEngine_mem (s : State) (n : Nat) (x : Engine) : (s.setEngine n x).mem = s.mem := rfl
@[simp] theorem State.setEngine_cache (s : State) (n : Nat) (x : Engine) : (s.setEngine n x).cache = s.cache := rfl
@[simp] theorem State.setEngine_cores (s : State) (n : Nat) (x : Engine) : (s.setEngine n x).cores = s.cores := rfl
@[simp] theorem State.setEngine_routers (s : State) (n : Nat) (x : Engine) : (s.setEngine n x).routers = s.routers := rfl
@[simp] theorem State.setEngine_xings (s : State) (n : Nat) (x : Engine) : (s.setEngine n x).xings = s.xings := rfl
@[simp] theorem State.setEngine_attach (s : State) (n : Nat) (x : Engine) : (s.setEngine n x).attach = s.attach := rfl
@[simp] theorem State.setEngine_slices (s : State) (n : Nat) (x : Engine) : (s.setEngine n x).slices = s.slices := rfl
@[simp] theorem State.setEngine_chans (s : State) (n : Nat) (x : Engine) : (s.setEngine n x).chans = s.chans := rfl
@[simp] theorem State.setEngine_cloves (s : State) (n : Nat) (x : Engine) : (s.setEngine n x).cloves = s.cloves := rfl
@[simp] theorem State.setEngine_parts (s : State) (n : Nat) (x : Engine) : (s.setEngine n x).parts = s.parts := rfl
@[simp] theorem State.setEngine_devFacet (s : State) (n : Nat) (x : Engine) : (s.setEngine n x).devFacet = s.devFacet := rfl
@[simp] theorem State.setEngine_keys (s : State) (n : Nat) (x : Engine) : (s.setEngine n x).keys = s.keys := rfl
@[simp] theorem State.setEngine_recvKeys (s : State) (n : Nat) (x : Engine) : (s.setEngine n x).recvKeys = s.recvKeys := rfl
@[simp] theorem State.setEngine_conns (s : State) (n : Nat) (x : Engine) : (s.setEngine n x).conns = s.conns := rfl
@[simp] theorem State.setEngine_sessions (s : State) (n : Nat) (x : Engine) : (s.setEngine n x).sessions = s.sessions := rfl
@[simp] theorem State.setEngine_spdm (s : State) (n : Nat) (x : Engine) : (s.setEngine n x).spdm = s.spdm := rfl
@[simp] theorem State.setEngine_ports (s : State) (n : Nat) (x : Engine) : (s.setEngine n x).ports = s.ports := rfl
@[simp] theorem State.setEngine_inq (s : State) (n : Nat) (x : Engine) : (s.setEngine n x).inq = s.inq := rfl
@[simp] theorem State.setEngine_colls (s : State) (n : Nat) (x : Engine) : (s.setEngine n x).colls = s.colls := rfl
@[simp] theorem State.setEngine_rings (s : State) (n : Nat) (x : Engine) : (s.setEngine n x).rings = s.rings := rfl
@[simp] theorem State.setEngine_blocks (s : State) (n : Nat) (x : Engine) : (s.setEngine n x).blocks = s.blocks := rfl
@[simp] theorem State.setEngine_aperture (s : State) (n : Nat) (x : Engine) : (s.setEngine n x).aperture = s.aperture := rfl
@[simp] theorem State.setEngine_power (s : State) (n : Nat) (x : Engine) : (s.setEngine n x).power = s.power := rfl
@[simp] theorem State.setEngine_thermal (s : State) (n : Nat) (x : Engine) : (s.setEngine n x).thermal = s.thermal := rfl
@[simp] theorem State.setEngine_loupe (s : State) (n : Nat) (x : Engine) : (s.setEngine n x).loupe = s.loupe := rfl
@[simp] theorem State.setEngine_dev (s : State) (n : Nat) (x : Engine) : (s.setEngine n x).dev = s.dev := rfl
@[simp] theorem State.setEngine_timebase (s : State) (n : Nat) (x : Engine) : (s.setEngine n x).timebase = s.timebase := rfl
@[simp] theorem State.setEngine_trace (s : State) (n : Nat) (x : Engine) : (s.setEngine n x).trace = s.trace := rfl
@[simp] theorem State.setEngine_traceCfg (s : State) (n : Nat) (x : Engine) : (s.setEngine n x).traceCfg = s.traceCfg := rfl
@[simp] theorem State.setEngine_traceQ (s : State) (n : Nat) (x : Engine) : (s.setEngine n x).traceQ = s.traceQ := rfl
@[simp] theorem State.setEngine_traceDrops (s : State) (n : Nat) (x : Engine) : (s.setEngine n x).traceDrops = s.traceDrops := rfl
@[simp] theorem State.setEngine_flash (s : State) (n : Nat) (x : Engine) : (s.setEngine n x).flash = s.flash := rfl
@[simp] theorem State.setEngine_jtag (s : State) (n : Nat) (x : Engine) : (s.setEngine n x).jtag = s.jtag := rfl
@[simp] theorem State.setEngine_upsets (s : State) (n : Nat) (x : Engine) : (s.setEngine n x).upsets = s.upsets := rfl
@[simp] theorem State.setEngine_pciCfg (s : State) (n : Nat) (x : Engine) : (s.setEngine n x).pciCfg = s.pciCfg := rfl
@[simp] theorem State.setEngine_appq (s : State) (n : Nat) (x : Engine) : (s.setEngine n x).appq = s.appq := rfl

@[simp] theorem State.setBlock_pending (s : State) (n : Nat) (x : Block) : (s.setBlock n x).pending = s.pending := rfl
@[simp] theorem State.setBlock_freeCtr (s : State) (n : Nat) (x : Block) : (s.setBlock n x).freeCtr = s.freeCtr := rfl
@[simp] theorem State.setBlock_out (s : State) (n : Nat) (x : Block) : (s.setBlock n x).out = s.out := rfl
@[simp] theorem State.setBlock_regs (s : State) (n : Nat) (x : Block) : (s.setBlock n x).regs = s.regs := rfl
@[simp] theorem State.setBlock_cnts (s : State) (n : Nat) (x : Block) : (s.setBlock n x).cnts = s.cnts := rfl
@[simp] theorem State.setBlock_latches (s : State) (n : Nat) (x : Block) : (s.setBlock n x).latches = s.latches := rfl
@[simp] theorem State.setBlock_mem (s : State) (n : Nat) (x : Block) : (s.setBlock n x).mem = s.mem := rfl
@[simp] theorem State.setBlock_cache (s : State) (n : Nat) (x : Block) : (s.setBlock n x).cache = s.cache := rfl
@[simp] theorem State.setBlock_cores (s : State) (n : Nat) (x : Block) : (s.setBlock n x).cores = s.cores := rfl
@[simp] theorem State.setBlock_routers (s : State) (n : Nat) (x : Block) : (s.setBlock n x).routers = s.routers := rfl
@[simp] theorem State.setBlock_xings (s : State) (n : Nat) (x : Block) : (s.setBlock n x).xings = s.xings := rfl
@[simp] theorem State.setBlock_attach (s : State) (n : Nat) (x : Block) : (s.setBlock n x).attach = s.attach := rfl
@[simp] theorem State.setBlock_slices (s : State) (n : Nat) (x : Block) : (s.setBlock n x).slices = s.slices := rfl
@[simp] theorem State.setBlock_chans (s : State) (n : Nat) (x : Block) : (s.setBlock n x).chans = s.chans := rfl
@[simp] theorem State.setBlock_engines (s : State) (n : Nat) (x : Block) : (s.setBlock n x).engines = s.engines := rfl
@[simp] theorem State.setBlock_cloves (s : State) (n : Nat) (x : Block) : (s.setBlock n x).cloves = s.cloves := rfl
@[simp] theorem State.setBlock_parts (s : State) (n : Nat) (x : Block) : (s.setBlock n x).parts = s.parts := rfl
@[simp] theorem State.setBlock_devFacet (s : State) (n : Nat) (x : Block) : (s.setBlock n x).devFacet = s.devFacet := rfl
@[simp] theorem State.setBlock_keys (s : State) (n : Nat) (x : Block) : (s.setBlock n x).keys = s.keys := rfl
@[simp] theorem State.setBlock_recvKeys (s : State) (n : Nat) (x : Block) : (s.setBlock n x).recvKeys = s.recvKeys := rfl
@[simp] theorem State.setBlock_conns (s : State) (n : Nat) (x : Block) : (s.setBlock n x).conns = s.conns := rfl
@[simp] theorem State.setBlock_sessions (s : State) (n : Nat) (x : Block) : (s.setBlock n x).sessions = s.sessions := rfl
@[simp] theorem State.setBlock_spdm (s : State) (n : Nat) (x : Block) : (s.setBlock n x).spdm = s.spdm := rfl
@[simp] theorem State.setBlock_ports (s : State) (n : Nat) (x : Block) : (s.setBlock n x).ports = s.ports := rfl
@[simp] theorem State.setBlock_inq (s : State) (n : Nat) (x : Block) : (s.setBlock n x).inq = s.inq := rfl
@[simp] theorem State.setBlock_colls (s : State) (n : Nat) (x : Block) : (s.setBlock n x).colls = s.colls := rfl
@[simp] theorem State.setBlock_rings (s : State) (n : Nat) (x : Block) : (s.setBlock n x).rings = s.rings := rfl
@[simp] theorem State.setBlock_aperture (s : State) (n : Nat) (x : Block) : (s.setBlock n x).aperture = s.aperture := rfl
@[simp] theorem State.setBlock_power (s : State) (n : Nat) (x : Block) : (s.setBlock n x).power = s.power := rfl
@[simp] theorem State.setBlock_thermal (s : State) (n : Nat) (x : Block) : (s.setBlock n x).thermal = s.thermal := rfl
@[simp] theorem State.setBlock_loupe (s : State) (n : Nat) (x : Block) : (s.setBlock n x).loupe = s.loupe := rfl
@[simp] theorem State.setBlock_dev (s : State) (n : Nat) (x : Block) : (s.setBlock n x).dev = s.dev := rfl
@[simp] theorem State.setBlock_timebase (s : State) (n : Nat) (x : Block) : (s.setBlock n x).timebase = s.timebase := rfl
@[simp] theorem State.setBlock_trace (s : State) (n : Nat) (x : Block) : (s.setBlock n x).trace = s.trace := rfl
@[simp] theorem State.setBlock_traceCfg (s : State) (n : Nat) (x : Block) : (s.setBlock n x).traceCfg = s.traceCfg := rfl
@[simp] theorem State.setBlock_traceQ (s : State) (n : Nat) (x : Block) : (s.setBlock n x).traceQ = s.traceQ := rfl
@[simp] theorem State.setBlock_traceDrops (s : State) (n : Nat) (x : Block) : (s.setBlock n x).traceDrops = s.traceDrops := rfl
@[simp] theorem State.setBlock_flash (s : State) (n : Nat) (x : Block) : (s.setBlock n x).flash = s.flash := rfl
@[simp] theorem State.setBlock_jtag (s : State) (n : Nat) (x : Block) : (s.setBlock n x).jtag = s.jtag := rfl
@[simp] theorem State.setBlock_upsets (s : State) (n : Nat) (x : Block) : (s.setBlock n x).upsets = s.upsets := rfl
@[simp] theorem State.setBlock_pciCfg (s : State) (n : Nat) (x : Block) : (s.setBlock n x).pciCfg = s.pciCfg := rfl
@[simp] theorem State.setBlock_appq (s : State) (n : Nat) (x : Block) : (s.setBlock n x).appq = s.appq := rfl

@[simp] theorem State.setKey_pending (s : State) (n : Nat) (x : KeySlot) : (s.setKey n x).pending = s.pending := rfl
@[simp] theorem State.setKey_freeCtr (s : State) (n : Nat) (x : KeySlot) : (s.setKey n x).freeCtr = s.freeCtr := rfl
@[simp] theorem State.setKey_out (s : State) (n : Nat) (x : KeySlot) : (s.setKey n x).out = s.out := rfl
@[simp] theorem State.setKey_regs (s : State) (n : Nat) (x : KeySlot) : (s.setKey n x).regs = s.regs := rfl
@[simp] theorem State.setKey_cnts (s : State) (n : Nat) (x : KeySlot) : (s.setKey n x).cnts = s.cnts := rfl
@[simp] theorem State.setKey_latches (s : State) (n : Nat) (x : KeySlot) : (s.setKey n x).latches = s.latches := rfl
@[simp] theorem State.setKey_mem (s : State) (n : Nat) (x : KeySlot) : (s.setKey n x).mem = s.mem := rfl
@[simp] theorem State.setKey_cache (s : State) (n : Nat) (x : KeySlot) : (s.setKey n x).cache = s.cache := rfl
@[simp] theorem State.setKey_cores (s : State) (n : Nat) (x : KeySlot) : (s.setKey n x).cores = s.cores := rfl
@[simp] theorem State.setKey_routers (s : State) (n : Nat) (x : KeySlot) : (s.setKey n x).routers = s.routers := rfl
@[simp] theorem State.setKey_xings (s : State) (n : Nat) (x : KeySlot) : (s.setKey n x).xings = s.xings := rfl
@[simp] theorem State.setKey_attach (s : State) (n : Nat) (x : KeySlot) : (s.setKey n x).attach = s.attach := rfl
@[simp] theorem State.setKey_slices (s : State) (n : Nat) (x : KeySlot) : (s.setKey n x).slices = s.slices := rfl
@[simp] theorem State.setKey_chans (s : State) (n : Nat) (x : KeySlot) : (s.setKey n x).chans = s.chans := rfl
@[simp] theorem State.setKey_engines (s : State) (n : Nat) (x : KeySlot) : (s.setKey n x).engines = s.engines := rfl
@[simp] theorem State.setKey_cloves (s : State) (n : Nat) (x : KeySlot) : (s.setKey n x).cloves = s.cloves := rfl
@[simp] theorem State.setKey_parts (s : State) (n : Nat) (x : KeySlot) : (s.setKey n x).parts = s.parts := rfl
@[simp] theorem State.setKey_devFacet (s : State) (n : Nat) (x : KeySlot) : (s.setKey n x).devFacet = s.devFacet := rfl
@[simp] theorem State.setKey_recvKeys (s : State) (n : Nat) (x : KeySlot) : (s.setKey n x).recvKeys = s.recvKeys := rfl
@[simp] theorem State.setKey_conns (s : State) (n : Nat) (x : KeySlot) : (s.setKey n x).conns = s.conns := rfl
@[simp] theorem State.setKey_sessions (s : State) (n : Nat) (x : KeySlot) : (s.setKey n x).sessions = s.sessions := rfl
@[simp] theorem State.setKey_spdm (s : State) (n : Nat) (x : KeySlot) : (s.setKey n x).spdm = s.spdm := rfl
@[simp] theorem State.setKey_ports (s : State) (n : Nat) (x : KeySlot) : (s.setKey n x).ports = s.ports := rfl
@[simp] theorem State.setKey_inq (s : State) (n : Nat) (x : KeySlot) : (s.setKey n x).inq = s.inq := rfl
@[simp] theorem State.setKey_colls (s : State) (n : Nat) (x : KeySlot) : (s.setKey n x).colls = s.colls := rfl
@[simp] theorem State.setKey_rings (s : State) (n : Nat) (x : KeySlot) : (s.setKey n x).rings = s.rings := rfl
@[simp] theorem State.setKey_blocks (s : State) (n : Nat) (x : KeySlot) : (s.setKey n x).blocks = s.blocks := rfl
@[simp] theorem State.setKey_aperture (s : State) (n : Nat) (x : KeySlot) : (s.setKey n x).aperture = s.aperture := rfl
@[simp] theorem State.setKey_power (s : State) (n : Nat) (x : KeySlot) : (s.setKey n x).power = s.power := rfl
@[simp] theorem State.setKey_thermal (s : State) (n : Nat) (x : KeySlot) : (s.setKey n x).thermal = s.thermal := rfl
@[simp] theorem State.setKey_loupe (s : State) (n : Nat) (x : KeySlot) : (s.setKey n x).loupe = s.loupe := rfl
@[simp] theorem State.setKey_dev (s : State) (n : Nat) (x : KeySlot) : (s.setKey n x).dev = s.dev := rfl
@[simp] theorem State.setKey_timebase (s : State) (n : Nat) (x : KeySlot) : (s.setKey n x).timebase = s.timebase := rfl
@[simp] theorem State.setKey_trace (s : State) (n : Nat) (x : KeySlot) : (s.setKey n x).trace = s.trace := rfl
@[simp] theorem State.setKey_traceCfg (s : State) (n : Nat) (x : KeySlot) : (s.setKey n x).traceCfg = s.traceCfg := rfl
@[simp] theorem State.setKey_traceQ (s : State) (n : Nat) (x : KeySlot) : (s.setKey n x).traceQ = s.traceQ := rfl
@[simp] theorem State.setKey_traceDrops (s : State) (n : Nat) (x : KeySlot) : (s.setKey n x).traceDrops = s.traceDrops := rfl
@[simp] theorem State.setKey_flash (s : State) (n : Nat) (x : KeySlot) : (s.setKey n x).flash = s.flash := rfl
@[simp] theorem State.setKey_jtag (s : State) (n : Nat) (x : KeySlot) : (s.setKey n x).jtag = s.jtag := rfl
@[simp] theorem State.setKey_upsets (s : State) (n : Nat) (x : KeySlot) : (s.setKey n x).upsets = s.upsets := rfl
@[simp] theorem State.setKey_pciCfg (s : State) (n : Nat) (x : KeySlot) : (s.setKey n x).pciCfg = s.pciCfg := rfl
@[simp] theorem State.setKey_appq (s : State) (n : Nat) (x : KeySlot) : (s.setKey n x).appq = s.appq := rfl

@[simp] theorem State.setPort_pending (s : State) (n : Nat) (x : Port) : (s.setPort n x).pending = s.pending := rfl
@[simp] theorem State.setPort_freeCtr (s : State) (n : Nat) (x : Port) : (s.setPort n x).freeCtr = s.freeCtr := rfl
@[simp] theorem State.setPort_out (s : State) (n : Nat) (x : Port) : (s.setPort n x).out = s.out := rfl
@[simp] theorem State.setPort_regs (s : State) (n : Nat) (x : Port) : (s.setPort n x).regs = s.regs := rfl
@[simp] theorem State.setPort_cnts (s : State) (n : Nat) (x : Port) : (s.setPort n x).cnts = s.cnts := rfl
@[simp] theorem State.setPort_latches (s : State) (n : Nat) (x : Port) : (s.setPort n x).latches = s.latches := rfl
@[simp] theorem State.setPort_mem (s : State) (n : Nat) (x : Port) : (s.setPort n x).mem = s.mem := rfl
@[simp] theorem State.setPort_cache (s : State) (n : Nat) (x : Port) : (s.setPort n x).cache = s.cache := rfl
@[simp] theorem State.setPort_cores (s : State) (n : Nat) (x : Port) : (s.setPort n x).cores = s.cores := rfl
@[simp] theorem State.setPort_routers (s : State) (n : Nat) (x : Port) : (s.setPort n x).routers = s.routers := rfl
@[simp] theorem State.setPort_xings (s : State) (n : Nat) (x : Port) : (s.setPort n x).xings = s.xings := rfl
@[simp] theorem State.setPort_attach (s : State) (n : Nat) (x : Port) : (s.setPort n x).attach = s.attach := rfl
@[simp] theorem State.setPort_slices (s : State) (n : Nat) (x : Port) : (s.setPort n x).slices = s.slices := rfl
@[simp] theorem State.setPort_chans (s : State) (n : Nat) (x : Port) : (s.setPort n x).chans = s.chans := rfl
@[simp] theorem State.setPort_engines (s : State) (n : Nat) (x : Port) : (s.setPort n x).engines = s.engines := rfl
@[simp] theorem State.setPort_cloves (s : State) (n : Nat) (x : Port) : (s.setPort n x).cloves = s.cloves := rfl
@[simp] theorem State.setPort_parts (s : State) (n : Nat) (x : Port) : (s.setPort n x).parts = s.parts := rfl
@[simp] theorem State.setPort_devFacet (s : State) (n : Nat) (x : Port) : (s.setPort n x).devFacet = s.devFacet := rfl
@[simp] theorem State.setPort_keys (s : State) (n : Nat) (x : Port) : (s.setPort n x).keys = s.keys := rfl
@[simp] theorem State.setPort_recvKeys (s : State) (n : Nat) (x : Port) : (s.setPort n x).recvKeys = s.recvKeys := rfl
@[simp] theorem State.setPort_conns (s : State) (n : Nat) (x : Port) : (s.setPort n x).conns = s.conns := rfl
@[simp] theorem State.setPort_sessions (s : State) (n : Nat) (x : Port) : (s.setPort n x).sessions = s.sessions := rfl
@[simp] theorem State.setPort_spdm (s : State) (n : Nat) (x : Port) : (s.setPort n x).spdm = s.spdm := rfl
@[simp] theorem State.setPort_inq (s : State) (n : Nat) (x : Port) : (s.setPort n x).inq = s.inq := rfl
@[simp] theorem State.setPort_colls (s : State) (n : Nat) (x : Port) : (s.setPort n x).colls = s.colls := rfl
@[simp] theorem State.setPort_rings (s : State) (n : Nat) (x : Port) : (s.setPort n x).rings = s.rings := rfl
@[simp] theorem State.setPort_blocks (s : State) (n : Nat) (x : Port) : (s.setPort n x).blocks = s.blocks := rfl
@[simp] theorem State.setPort_aperture (s : State) (n : Nat) (x : Port) : (s.setPort n x).aperture = s.aperture := rfl
@[simp] theorem State.setPort_power (s : State) (n : Nat) (x : Port) : (s.setPort n x).power = s.power := rfl
@[simp] theorem State.setPort_thermal (s : State) (n : Nat) (x : Port) : (s.setPort n x).thermal = s.thermal := rfl
@[simp] theorem State.setPort_loupe (s : State) (n : Nat) (x : Port) : (s.setPort n x).loupe = s.loupe := rfl
@[simp] theorem State.setPort_dev (s : State) (n : Nat) (x : Port) : (s.setPort n x).dev = s.dev := rfl
@[simp] theorem State.setPort_timebase (s : State) (n : Nat) (x : Port) : (s.setPort n x).timebase = s.timebase := rfl
@[simp] theorem State.setPort_trace (s : State) (n : Nat) (x : Port) : (s.setPort n x).trace = s.trace := rfl
@[simp] theorem State.setPort_traceCfg (s : State) (n : Nat) (x : Port) : (s.setPort n x).traceCfg = s.traceCfg := rfl
@[simp] theorem State.setPort_traceQ (s : State) (n : Nat) (x : Port) : (s.setPort n x).traceQ = s.traceQ := rfl
@[simp] theorem State.setPort_traceDrops (s : State) (n : Nat) (x : Port) : (s.setPort n x).traceDrops = s.traceDrops := rfl
@[simp] theorem State.setPort_flash (s : State) (n : Nat) (x : Port) : (s.setPort n x).flash = s.flash := rfl
@[simp] theorem State.setPort_jtag (s : State) (n : Nat) (x : Port) : (s.setPort n x).jtag = s.jtag := rfl
@[simp] theorem State.setPort_upsets (s : State) (n : Nat) (x : Port) : (s.setPort n x).upsets = s.upsets := rfl
@[simp] theorem State.setPort_pciCfg (s : State) (n : Nat) (x : Port) : (s.setPort n x).pciCfg = s.pciCfg := rfl
@[simp] theorem State.setPort_appq (s : State) (n : Nat) (x : Port) : (s.setPort n x).appq = s.appq := rfl

@[simp] theorem State.setColl_pending (s : State) (n : Nat) (x : CollCtx) : (s.setColl n x).pending = s.pending := rfl
@[simp] theorem State.setColl_freeCtr (s : State) (n : Nat) (x : CollCtx) : (s.setColl n x).freeCtr = s.freeCtr := rfl
@[simp] theorem State.setColl_out (s : State) (n : Nat) (x : CollCtx) : (s.setColl n x).out = s.out := rfl
@[simp] theorem State.setColl_regs (s : State) (n : Nat) (x : CollCtx) : (s.setColl n x).regs = s.regs := rfl
@[simp] theorem State.setColl_cnts (s : State) (n : Nat) (x : CollCtx) : (s.setColl n x).cnts = s.cnts := rfl
@[simp] theorem State.setColl_latches (s : State) (n : Nat) (x : CollCtx) : (s.setColl n x).latches = s.latches := rfl
@[simp] theorem State.setColl_mem (s : State) (n : Nat) (x : CollCtx) : (s.setColl n x).mem = s.mem := rfl
@[simp] theorem State.setColl_cache (s : State) (n : Nat) (x : CollCtx) : (s.setColl n x).cache = s.cache := rfl
@[simp] theorem State.setColl_cores (s : State) (n : Nat) (x : CollCtx) : (s.setColl n x).cores = s.cores := rfl
@[simp] theorem State.setColl_routers (s : State) (n : Nat) (x : CollCtx) : (s.setColl n x).routers = s.routers := rfl
@[simp] theorem State.setColl_xings (s : State) (n : Nat) (x : CollCtx) : (s.setColl n x).xings = s.xings := rfl
@[simp] theorem State.setColl_attach (s : State) (n : Nat) (x : CollCtx) : (s.setColl n x).attach = s.attach := rfl
@[simp] theorem State.setColl_slices (s : State) (n : Nat) (x : CollCtx) : (s.setColl n x).slices = s.slices := rfl
@[simp] theorem State.setColl_chans (s : State) (n : Nat) (x : CollCtx) : (s.setColl n x).chans = s.chans := rfl
@[simp] theorem State.setColl_engines (s : State) (n : Nat) (x : CollCtx) : (s.setColl n x).engines = s.engines := rfl
@[simp] theorem State.setColl_cloves (s : State) (n : Nat) (x : CollCtx) : (s.setColl n x).cloves = s.cloves := rfl
@[simp] theorem State.setColl_parts (s : State) (n : Nat) (x : CollCtx) : (s.setColl n x).parts = s.parts := rfl
@[simp] theorem State.setColl_devFacet (s : State) (n : Nat) (x : CollCtx) : (s.setColl n x).devFacet = s.devFacet := rfl
@[simp] theorem State.setColl_keys (s : State) (n : Nat) (x : CollCtx) : (s.setColl n x).keys = s.keys := rfl
@[simp] theorem State.setColl_recvKeys (s : State) (n : Nat) (x : CollCtx) : (s.setColl n x).recvKeys = s.recvKeys := rfl
@[simp] theorem State.setColl_conns (s : State) (n : Nat) (x : CollCtx) : (s.setColl n x).conns = s.conns := rfl
@[simp] theorem State.setColl_sessions (s : State) (n : Nat) (x : CollCtx) : (s.setColl n x).sessions = s.sessions := rfl
@[simp] theorem State.setColl_spdm (s : State) (n : Nat) (x : CollCtx) : (s.setColl n x).spdm = s.spdm := rfl
@[simp] theorem State.setColl_ports (s : State) (n : Nat) (x : CollCtx) : (s.setColl n x).ports = s.ports := rfl
@[simp] theorem State.setColl_inq (s : State) (n : Nat) (x : CollCtx) : (s.setColl n x).inq = s.inq := rfl
@[simp] theorem State.setColl_rings (s : State) (n : Nat) (x : CollCtx) : (s.setColl n x).rings = s.rings := rfl
@[simp] theorem State.setColl_blocks (s : State) (n : Nat) (x : CollCtx) : (s.setColl n x).blocks = s.blocks := rfl
@[simp] theorem State.setColl_aperture (s : State) (n : Nat) (x : CollCtx) : (s.setColl n x).aperture = s.aperture := rfl
@[simp] theorem State.setColl_power (s : State) (n : Nat) (x : CollCtx) : (s.setColl n x).power = s.power := rfl
@[simp] theorem State.setColl_thermal (s : State) (n : Nat) (x : CollCtx) : (s.setColl n x).thermal = s.thermal := rfl
@[simp] theorem State.setColl_loupe (s : State) (n : Nat) (x : CollCtx) : (s.setColl n x).loupe = s.loupe := rfl
@[simp] theorem State.setColl_dev (s : State) (n : Nat) (x : CollCtx) : (s.setColl n x).dev = s.dev := rfl
@[simp] theorem State.setColl_timebase (s : State) (n : Nat) (x : CollCtx) : (s.setColl n x).timebase = s.timebase := rfl
@[simp] theorem State.setColl_trace (s : State) (n : Nat) (x : CollCtx) : (s.setColl n x).trace = s.trace := rfl
@[simp] theorem State.setColl_traceCfg (s : State) (n : Nat) (x : CollCtx) : (s.setColl n x).traceCfg = s.traceCfg := rfl
@[simp] theorem State.setColl_traceQ (s : State) (n : Nat) (x : CollCtx) : (s.setColl n x).traceQ = s.traceQ := rfl
@[simp] theorem State.setColl_traceDrops (s : State) (n : Nat) (x : CollCtx) : (s.setColl n x).traceDrops = s.traceDrops := rfl
@[simp] theorem State.setColl_flash (s : State) (n : Nat) (x : CollCtx) : (s.setColl n x).flash = s.flash := rfl
@[simp] theorem State.setColl_jtag (s : State) (n : Nat) (x : CollCtx) : (s.setColl n x).jtag = s.jtag := rfl
@[simp] theorem State.setColl_upsets (s : State) (n : Nat) (x : CollCtx) : (s.setColl n x).upsets = s.upsets := rfl
@[simp] theorem State.setColl_pciCfg (s : State) (n : Nat) (x : CollCtx) : (s.setColl n x).pciCfg = s.pciCfg := rfl
@[simp] theorem State.setColl_appq (s : State) (n : Nat) (x : CollCtx) : (s.setColl n x).appq = s.appq := rfl

@[simp] theorem State.setRing_pending (s : State) (n : Nat) (x : HostRing) : (s.setRing n x).pending = s.pending := rfl
@[simp] theorem State.setRing_freeCtr (s : State) (n : Nat) (x : HostRing) : (s.setRing n x).freeCtr = s.freeCtr := rfl
@[simp] theorem State.setRing_out (s : State) (n : Nat) (x : HostRing) : (s.setRing n x).out = s.out := rfl
@[simp] theorem State.setRing_regs (s : State) (n : Nat) (x : HostRing) : (s.setRing n x).regs = s.regs := rfl
@[simp] theorem State.setRing_cnts (s : State) (n : Nat) (x : HostRing) : (s.setRing n x).cnts = s.cnts := rfl
@[simp] theorem State.setRing_latches (s : State) (n : Nat) (x : HostRing) : (s.setRing n x).latches = s.latches := rfl
@[simp] theorem State.setRing_mem (s : State) (n : Nat) (x : HostRing) : (s.setRing n x).mem = s.mem := rfl
@[simp] theorem State.setRing_cache (s : State) (n : Nat) (x : HostRing) : (s.setRing n x).cache = s.cache := rfl
@[simp] theorem State.setRing_cores (s : State) (n : Nat) (x : HostRing) : (s.setRing n x).cores = s.cores := rfl
@[simp] theorem State.setRing_routers (s : State) (n : Nat) (x : HostRing) : (s.setRing n x).routers = s.routers := rfl
@[simp] theorem State.setRing_xings (s : State) (n : Nat) (x : HostRing) : (s.setRing n x).xings = s.xings := rfl
@[simp] theorem State.setRing_attach (s : State) (n : Nat) (x : HostRing) : (s.setRing n x).attach = s.attach := rfl
@[simp] theorem State.setRing_slices (s : State) (n : Nat) (x : HostRing) : (s.setRing n x).slices = s.slices := rfl
@[simp] theorem State.setRing_chans (s : State) (n : Nat) (x : HostRing) : (s.setRing n x).chans = s.chans := rfl
@[simp] theorem State.setRing_engines (s : State) (n : Nat) (x : HostRing) : (s.setRing n x).engines = s.engines := rfl
@[simp] theorem State.setRing_cloves (s : State) (n : Nat) (x : HostRing) : (s.setRing n x).cloves = s.cloves := rfl
@[simp] theorem State.setRing_parts (s : State) (n : Nat) (x : HostRing) : (s.setRing n x).parts = s.parts := rfl
@[simp] theorem State.setRing_devFacet (s : State) (n : Nat) (x : HostRing) : (s.setRing n x).devFacet = s.devFacet := rfl
@[simp] theorem State.setRing_keys (s : State) (n : Nat) (x : HostRing) : (s.setRing n x).keys = s.keys := rfl
@[simp] theorem State.setRing_recvKeys (s : State) (n : Nat) (x : HostRing) : (s.setRing n x).recvKeys = s.recvKeys := rfl
@[simp] theorem State.setRing_conns (s : State) (n : Nat) (x : HostRing) : (s.setRing n x).conns = s.conns := rfl
@[simp] theorem State.setRing_sessions (s : State) (n : Nat) (x : HostRing) : (s.setRing n x).sessions = s.sessions := rfl
@[simp] theorem State.setRing_spdm (s : State) (n : Nat) (x : HostRing) : (s.setRing n x).spdm = s.spdm := rfl
@[simp] theorem State.setRing_ports (s : State) (n : Nat) (x : HostRing) : (s.setRing n x).ports = s.ports := rfl
@[simp] theorem State.setRing_inq (s : State) (n : Nat) (x : HostRing) : (s.setRing n x).inq = s.inq := rfl
@[simp] theorem State.setRing_colls (s : State) (n : Nat) (x : HostRing) : (s.setRing n x).colls = s.colls := rfl
@[simp] theorem State.setRing_blocks (s : State) (n : Nat) (x : HostRing) : (s.setRing n x).blocks = s.blocks := rfl
@[simp] theorem State.setRing_aperture (s : State) (n : Nat) (x : HostRing) : (s.setRing n x).aperture = s.aperture := rfl
@[simp] theorem State.setRing_power (s : State) (n : Nat) (x : HostRing) : (s.setRing n x).power = s.power := rfl
@[simp] theorem State.setRing_thermal (s : State) (n : Nat) (x : HostRing) : (s.setRing n x).thermal = s.thermal := rfl
@[simp] theorem State.setRing_loupe (s : State) (n : Nat) (x : HostRing) : (s.setRing n x).loupe = s.loupe := rfl
@[simp] theorem State.setRing_dev (s : State) (n : Nat) (x : HostRing) : (s.setRing n x).dev = s.dev := rfl
@[simp] theorem State.setRing_timebase (s : State) (n : Nat) (x : HostRing) : (s.setRing n x).timebase = s.timebase := rfl
@[simp] theorem State.setRing_trace (s : State) (n : Nat) (x : HostRing) : (s.setRing n x).trace = s.trace := rfl
@[simp] theorem State.setRing_traceCfg (s : State) (n : Nat) (x : HostRing) : (s.setRing n x).traceCfg = s.traceCfg := rfl
@[simp] theorem State.setRing_traceQ (s : State) (n : Nat) (x : HostRing) : (s.setRing n x).traceQ = s.traceQ := rfl
@[simp] theorem State.setRing_traceDrops (s : State) (n : Nat) (x : HostRing) : (s.setRing n x).traceDrops = s.traceDrops := rfl
@[simp] theorem State.setRing_flash (s : State) (n : Nat) (x : HostRing) : (s.setRing n x).flash = s.flash := rfl
@[simp] theorem State.setRing_jtag (s : State) (n : Nat) (x : HostRing) : (s.setRing n x).jtag = s.jtag := rfl
@[simp] theorem State.setRing_upsets (s : State) (n : Nat) (x : HostRing) : (s.setRing n x).upsets = s.upsets := rfl
@[simp] theorem State.setRing_pciCfg (s : State) (n : Nat) (x : HostRing) : (s.setRing n x).pciCfg = s.pciCfg := rfl
@[simp] theorem State.setRing_appq (s : State) (n : Nat) (x : HostRing) : (s.setRing n x).appq = s.appq := rfl

@[simp] theorem State.setXing_pending (s : State) (n : Nat) (x : Xing) : (s.setXing n x).pending = s.pending := rfl
@[simp] theorem State.setXing_freeCtr (s : State) (n : Nat) (x : Xing) : (s.setXing n x).freeCtr = s.freeCtr := rfl
@[simp] theorem State.setXing_out (s : State) (n : Nat) (x : Xing) : (s.setXing n x).out = s.out := rfl
@[simp] theorem State.setXing_regs (s : State) (n : Nat) (x : Xing) : (s.setXing n x).regs = s.regs := rfl
@[simp] theorem State.setXing_cnts (s : State) (n : Nat) (x : Xing) : (s.setXing n x).cnts = s.cnts := rfl
@[simp] theorem State.setXing_latches (s : State) (n : Nat) (x : Xing) : (s.setXing n x).latches = s.latches := rfl
@[simp] theorem State.setXing_mem (s : State) (n : Nat) (x : Xing) : (s.setXing n x).mem = s.mem := rfl
@[simp] theorem State.setXing_cache (s : State) (n : Nat) (x : Xing) : (s.setXing n x).cache = s.cache := rfl
@[simp] theorem State.setXing_cores (s : State) (n : Nat) (x : Xing) : (s.setXing n x).cores = s.cores := rfl
@[simp] theorem State.setXing_routers (s : State) (n : Nat) (x : Xing) : (s.setXing n x).routers = s.routers := rfl
@[simp] theorem State.setXing_attach (s : State) (n : Nat) (x : Xing) : (s.setXing n x).attach = s.attach := rfl
@[simp] theorem State.setXing_slices (s : State) (n : Nat) (x : Xing) : (s.setXing n x).slices = s.slices := rfl
@[simp] theorem State.setXing_chans (s : State) (n : Nat) (x : Xing) : (s.setXing n x).chans = s.chans := rfl
@[simp] theorem State.setXing_engines (s : State) (n : Nat) (x : Xing) : (s.setXing n x).engines = s.engines := rfl
@[simp] theorem State.setXing_cloves (s : State) (n : Nat) (x : Xing) : (s.setXing n x).cloves = s.cloves := rfl
@[simp] theorem State.setXing_parts (s : State) (n : Nat) (x : Xing) : (s.setXing n x).parts = s.parts := rfl
@[simp] theorem State.setXing_devFacet (s : State) (n : Nat) (x : Xing) : (s.setXing n x).devFacet = s.devFacet := rfl
@[simp] theorem State.setXing_keys (s : State) (n : Nat) (x : Xing) : (s.setXing n x).keys = s.keys := rfl
@[simp] theorem State.setXing_recvKeys (s : State) (n : Nat) (x : Xing) : (s.setXing n x).recvKeys = s.recvKeys := rfl
@[simp] theorem State.setXing_conns (s : State) (n : Nat) (x : Xing) : (s.setXing n x).conns = s.conns := rfl
@[simp] theorem State.setXing_sessions (s : State) (n : Nat) (x : Xing) : (s.setXing n x).sessions = s.sessions := rfl
@[simp] theorem State.setXing_spdm (s : State) (n : Nat) (x : Xing) : (s.setXing n x).spdm = s.spdm := rfl
@[simp] theorem State.setXing_ports (s : State) (n : Nat) (x : Xing) : (s.setXing n x).ports = s.ports := rfl
@[simp] theorem State.setXing_inq (s : State) (n : Nat) (x : Xing) : (s.setXing n x).inq = s.inq := rfl
@[simp] theorem State.setXing_colls (s : State) (n : Nat) (x : Xing) : (s.setXing n x).colls = s.colls := rfl
@[simp] theorem State.setXing_rings (s : State) (n : Nat) (x : Xing) : (s.setXing n x).rings = s.rings := rfl
@[simp] theorem State.setXing_blocks (s : State) (n : Nat) (x : Xing) : (s.setXing n x).blocks = s.blocks := rfl
@[simp] theorem State.setXing_aperture (s : State) (n : Nat) (x : Xing) : (s.setXing n x).aperture = s.aperture := rfl
@[simp] theorem State.setXing_power (s : State) (n : Nat) (x : Xing) : (s.setXing n x).power = s.power := rfl
@[simp] theorem State.setXing_thermal (s : State) (n : Nat) (x : Xing) : (s.setXing n x).thermal = s.thermal := rfl
@[simp] theorem State.setXing_loupe (s : State) (n : Nat) (x : Xing) : (s.setXing n x).loupe = s.loupe := rfl
@[simp] theorem State.setXing_dev (s : State) (n : Nat) (x : Xing) : (s.setXing n x).dev = s.dev := rfl
@[simp] theorem State.setXing_timebase (s : State) (n : Nat) (x : Xing) : (s.setXing n x).timebase = s.timebase := rfl
@[simp] theorem State.setXing_trace (s : State) (n : Nat) (x : Xing) : (s.setXing n x).trace = s.trace := rfl
@[simp] theorem State.setXing_traceCfg (s : State) (n : Nat) (x : Xing) : (s.setXing n x).traceCfg = s.traceCfg := rfl
@[simp] theorem State.setXing_traceQ (s : State) (n : Nat) (x : Xing) : (s.setXing n x).traceQ = s.traceQ := rfl
@[simp] theorem State.setXing_traceDrops (s : State) (n : Nat) (x : Xing) : (s.setXing n x).traceDrops = s.traceDrops := rfl
@[simp] theorem State.setXing_flash (s : State) (n : Nat) (x : Xing) : (s.setXing n x).flash = s.flash := rfl
@[simp] theorem State.setXing_jtag (s : State) (n : Nat) (x : Xing) : (s.setXing n x).jtag = s.jtag := rfl
@[simp] theorem State.setXing_upsets (s : State) (n : Nat) (x : Xing) : (s.setXing n x).upsets = s.upsets := rfl
@[simp] theorem State.setXing_pciCfg (s : State) (n : Nat) (x : Xing) : (s.setXing n x).pciCfg = s.pciCfg := rfl
@[simp] theorem State.setXing_appq (s : State) (n : Nat) (x : Xing) : (s.setXing n x).appq = s.appq := rfl

@[simp] theorem State.setAtt_pending (s : State) (n : Nat) (x : Attach) : (s.setAtt n x).pending = s.pending := rfl
@[simp] theorem State.setAtt_freeCtr (s : State) (n : Nat) (x : Attach) : (s.setAtt n x).freeCtr = s.freeCtr := rfl
@[simp] theorem State.setAtt_out (s : State) (n : Nat) (x : Attach) : (s.setAtt n x).out = s.out := rfl
@[simp] theorem State.setAtt_regs (s : State) (n : Nat) (x : Attach) : (s.setAtt n x).regs = s.regs := rfl
@[simp] theorem State.setAtt_cnts (s : State) (n : Nat) (x : Attach) : (s.setAtt n x).cnts = s.cnts := rfl
@[simp] theorem State.setAtt_latches (s : State) (n : Nat) (x : Attach) : (s.setAtt n x).latches = s.latches := rfl
@[simp] theorem State.setAtt_mem (s : State) (n : Nat) (x : Attach) : (s.setAtt n x).mem = s.mem := rfl
@[simp] theorem State.setAtt_cache (s : State) (n : Nat) (x : Attach) : (s.setAtt n x).cache = s.cache := rfl
@[simp] theorem State.setAtt_cores (s : State) (n : Nat) (x : Attach) : (s.setAtt n x).cores = s.cores := rfl
@[simp] theorem State.setAtt_routers (s : State) (n : Nat) (x : Attach) : (s.setAtt n x).routers = s.routers := rfl
@[simp] theorem State.setAtt_xings (s : State) (n : Nat) (x : Attach) : (s.setAtt n x).xings = s.xings := rfl
@[simp] theorem State.setAtt_slices (s : State) (n : Nat) (x : Attach) : (s.setAtt n x).slices = s.slices := rfl
@[simp] theorem State.setAtt_chans (s : State) (n : Nat) (x : Attach) : (s.setAtt n x).chans = s.chans := rfl
@[simp] theorem State.setAtt_engines (s : State) (n : Nat) (x : Attach) : (s.setAtt n x).engines = s.engines := rfl
@[simp] theorem State.setAtt_cloves (s : State) (n : Nat) (x : Attach) : (s.setAtt n x).cloves = s.cloves := rfl
@[simp] theorem State.setAtt_parts (s : State) (n : Nat) (x : Attach) : (s.setAtt n x).parts = s.parts := rfl
@[simp] theorem State.setAtt_devFacet (s : State) (n : Nat) (x : Attach) : (s.setAtt n x).devFacet = s.devFacet := rfl
@[simp] theorem State.setAtt_keys (s : State) (n : Nat) (x : Attach) : (s.setAtt n x).keys = s.keys := rfl
@[simp] theorem State.setAtt_recvKeys (s : State) (n : Nat) (x : Attach) : (s.setAtt n x).recvKeys = s.recvKeys := rfl
@[simp] theorem State.setAtt_conns (s : State) (n : Nat) (x : Attach) : (s.setAtt n x).conns = s.conns := rfl
@[simp] theorem State.setAtt_sessions (s : State) (n : Nat) (x : Attach) : (s.setAtt n x).sessions = s.sessions := rfl
@[simp] theorem State.setAtt_spdm (s : State) (n : Nat) (x : Attach) : (s.setAtt n x).spdm = s.spdm := rfl
@[simp] theorem State.setAtt_ports (s : State) (n : Nat) (x : Attach) : (s.setAtt n x).ports = s.ports := rfl
@[simp] theorem State.setAtt_inq (s : State) (n : Nat) (x : Attach) : (s.setAtt n x).inq = s.inq := rfl
@[simp] theorem State.setAtt_colls (s : State) (n : Nat) (x : Attach) : (s.setAtt n x).colls = s.colls := rfl
@[simp] theorem State.setAtt_rings (s : State) (n : Nat) (x : Attach) : (s.setAtt n x).rings = s.rings := rfl
@[simp] theorem State.setAtt_blocks (s : State) (n : Nat) (x : Attach) : (s.setAtt n x).blocks = s.blocks := rfl
@[simp] theorem State.setAtt_aperture (s : State) (n : Nat) (x : Attach) : (s.setAtt n x).aperture = s.aperture := rfl
@[simp] theorem State.setAtt_power (s : State) (n : Nat) (x : Attach) : (s.setAtt n x).power = s.power := rfl
@[simp] theorem State.setAtt_thermal (s : State) (n : Nat) (x : Attach) : (s.setAtt n x).thermal = s.thermal := rfl
@[simp] theorem State.setAtt_loupe (s : State) (n : Nat) (x : Attach) : (s.setAtt n x).loupe = s.loupe := rfl
@[simp] theorem State.setAtt_dev (s : State) (n : Nat) (x : Attach) : (s.setAtt n x).dev = s.dev := rfl
@[simp] theorem State.setAtt_timebase (s : State) (n : Nat) (x : Attach) : (s.setAtt n x).timebase = s.timebase := rfl
@[simp] theorem State.setAtt_trace (s : State) (n : Nat) (x : Attach) : (s.setAtt n x).trace = s.trace := rfl
@[simp] theorem State.setAtt_traceCfg (s : State) (n : Nat) (x : Attach) : (s.setAtt n x).traceCfg = s.traceCfg := rfl
@[simp] theorem State.setAtt_traceQ (s : State) (n : Nat) (x : Attach) : (s.setAtt n x).traceQ = s.traceQ := rfl
@[simp] theorem State.setAtt_traceDrops (s : State) (n : Nat) (x : Attach) : (s.setAtt n x).traceDrops = s.traceDrops := rfl
@[simp] theorem State.setAtt_flash (s : State) (n : Nat) (x : Attach) : (s.setAtt n x).flash = s.flash := rfl
@[simp] theorem State.setAtt_jtag (s : State) (n : Nat) (x : Attach) : (s.setAtt n x).jtag = s.jtag := rfl
@[simp] theorem State.setAtt_upsets (s : State) (n : Nat) (x : Attach) : (s.setAtt n x).upsets = s.upsets := rfl
@[simp] theorem State.setAtt_pciCfg (s : State) (n : Nat) (x : Attach) : (s.setAtt n x).pciCfg = s.pciCfg := rfl
@[simp] theorem State.setAtt_appq (s : State) (n : Nat) (x : Attach) : (s.setAtt n x).appq = s.appq := rfl

@[simp] theorem State.send_pending (s : State) (x : Out) : (s.send x).pending = s.pending := rfl
@[simp] theorem State.send_freeCtr (s : State) (x : Out) : (s.send x).freeCtr = s.freeCtr := rfl
@[simp] theorem State.send_regs (s : State) (x : Out) : (s.send x).regs = s.regs := rfl
@[simp] theorem State.send_cnts (s : State) (x : Out) : (s.send x).cnts = s.cnts := rfl
@[simp] theorem State.send_latches (s : State) (x : Out) : (s.send x).latches = s.latches := rfl
@[simp] theorem State.send_mem (s : State) (x : Out) : (s.send x).mem = s.mem := rfl
@[simp] theorem State.send_cache (s : State) (x : Out) : (s.send x).cache = s.cache := rfl
@[simp] theorem State.send_cores (s : State) (x : Out) : (s.send x).cores = s.cores := rfl
@[simp] theorem State.send_routers (s : State) (x : Out) : (s.send x).routers = s.routers := rfl
@[simp] theorem State.send_xings (s : State) (x : Out) : (s.send x).xings = s.xings := rfl
@[simp] theorem State.send_attach (s : State) (x : Out) : (s.send x).attach = s.attach := rfl
@[simp] theorem State.send_slices (s : State) (x : Out) : (s.send x).slices = s.slices := rfl
@[simp] theorem State.send_chans (s : State) (x : Out) : (s.send x).chans = s.chans := rfl
@[simp] theorem State.send_engines (s : State) (x : Out) : (s.send x).engines = s.engines := rfl
@[simp] theorem State.send_cloves (s : State) (x : Out) : (s.send x).cloves = s.cloves := rfl
@[simp] theorem State.send_parts (s : State) (x : Out) : (s.send x).parts = s.parts := rfl
@[simp] theorem State.send_devFacet (s : State) (x : Out) : (s.send x).devFacet = s.devFacet := rfl
@[simp] theorem State.send_keys (s : State) (x : Out) : (s.send x).keys = s.keys := rfl
@[simp] theorem State.send_recvKeys (s : State) (x : Out) : (s.send x).recvKeys = s.recvKeys := rfl
@[simp] theorem State.send_conns (s : State) (x : Out) : (s.send x).conns = s.conns := rfl
@[simp] theorem State.send_sessions (s : State) (x : Out) : (s.send x).sessions = s.sessions := rfl
@[simp] theorem State.send_spdm (s : State) (x : Out) : (s.send x).spdm = s.spdm := rfl
@[simp] theorem State.send_ports (s : State) (x : Out) : (s.send x).ports = s.ports := rfl
@[simp] theorem State.send_inq (s : State) (x : Out) : (s.send x).inq = s.inq := rfl
@[simp] theorem State.send_colls (s : State) (x : Out) : (s.send x).colls = s.colls := rfl
@[simp] theorem State.send_rings (s : State) (x : Out) : (s.send x).rings = s.rings := rfl
@[simp] theorem State.send_blocks (s : State) (x : Out) : (s.send x).blocks = s.blocks := rfl
@[simp] theorem State.send_aperture (s : State) (x : Out) : (s.send x).aperture = s.aperture := rfl
@[simp] theorem State.send_power (s : State) (x : Out) : (s.send x).power = s.power := rfl
@[simp] theorem State.send_thermal (s : State) (x : Out) : (s.send x).thermal = s.thermal := rfl
@[simp] theorem State.send_loupe (s : State) (x : Out) : (s.send x).loupe = s.loupe := rfl
@[simp] theorem State.send_dev (s : State) (x : Out) : (s.send x).dev = s.dev := rfl
@[simp] theorem State.send_timebase (s : State) (x : Out) : (s.send x).timebase = s.timebase := rfl
@[simp] theorem State.send_trace (s : State) (x : Out) : (s.send x).trace = s.trace := rfl
@[simp] theorem State.send_traceCfg (s : State) (x : Out) : (s.send x).traceCfg = s.traceCfg := rfl
@[simp] theorem State.send_traceQ (s : State) (x : Out) : (s.send x).traceQ = s.traceQ := rfl
@[simp] theorem State.send_traceDrops (s : State) (x : Out) : (s.send x).traceDrops = s.traceDrops := rfl
@[simp] theorem State.send_flash (s : State) (x : Out) : (s.send x).flash = s.flash := rfl
@[simp] theorem State.send_jtag (s : State) (x : Out) : (s.send x).jtag = s.jtag := rfl
@[simp] theorem State.send_upsets (s : State) (x : Out) : (s.send x).upsets = s.upsets := rfl
@[simp] theorem State.send_pciCfg (s : State) (x : Out) : (s.send x).pciCfg = s.pciCfg := rfl
@[simp] theorem State.send_appq (s : State) (x : Out) : (s.send x).appq = s.appq := rfl

@[simp] theorem State.free_pending (s : State) (w : Nat) : (s.free w).2.pending = s.pending := rfl
@[simp] theorem State.free_out (s : State) (w : Nat) : (s.free w).2.out = s.out := rfl
@[simp] theorem State.free_regs (s : State) (w : Nat) : (s.free w).2.regs = s.regs := rfl
@[simp] theorem State.free_cnts (s : State) (w : Nat) : (s.free w).2.cnts = s.cnts := rfl
@[simp] theorem State.free_latches (s : State) (w : Nat) : (s.free w).2.latches = s.latches := rfl
@[simp] theorem State.free_mem (s : State) (w : Nat) : (s.free w).2.mem = s.mem := rfl
@[simp] theorem State.free_cache (s : State) (w : Nat) : (s.free w).2.cache = s.cache := rfl
@[simp] theorem State.free_cores (s : State) (w : Nat) : (s.free w).2.cores = s.cores := rfl
@[simp] theorem State.free_routers (s : State) (w : Nat) : (s.free w).2.routers = s.routers := rfl
@[simp] theorem State.free_xings (s : State) (w : Nat) : (s.free w).2.xings = s.xings := rfl
@[simp] theorem State.free_attach (s : State) (w : Nat) : (s.free w).2.attach = s.attach := rfl
@[simp] theorem State.free_slices (s : State) (w : Nat) : (s.free w).2.slices = s.slices := rfl
@[simp] theorem State.free_chans (s : State) (w : Nat) : (s.free w).2.chans = s.chans := rfl
@[simp] theorem State.free_engines (s : State) (w : Nat) : (s.free w).2.engines = s.engines := rfl
@[simp] theorem State.free_cloves (s : State) (w : Nat) : (s.free w).2.cloves = s.cloves := rfl
@[simp] theorem State.free_parts (s : State) (w : Nat) : (s.free w).2.parts = s.parts := rfl
@[simp] theorem State.free_devFacet (s : State) (w : Nat) : (s.free w).2.devFacet = s.devFacet := rfl
@[simp] theorem State.free_keys (s : State) (w : Nat) : (s.free w).2.keys = s.keys := rfl
@[simp] theorem State.free_recvKeys (s : State) (w : Nat) : (s.free w).2.recvKeys = s.recvKeys := rfl
@[simp] theorem State.free_conns (s : State) (w : Nat) : (s.free w).2.conns = s.conns := rfl
@[simp] theorem State.free_sessions (s : State) (w : Nat) : (s.free w).2.sessions = s.sessions := rfl
@[simp] theorem State.free_spdm (s : State) (w : Nat) : (s.free w).2.spdm = s.spdm := rfl
@[simp] theorem State.free_ports (s : State) (w : Nat) : (s.free w).2.ports = s.ports := rfl
@[simp] theorem State.free_inq (s : State) (w : Nat) : (s.free w).2.inq = s.inq := rfl
@[simp] theorem State.free_colls (s : State) (w : Nat) : (s.free w).2.colls = s.colls := rfl
@[simp] theorem State.free_rings (s : State) (w : Nat) : (s.free w).2.rings = s.rings := rfl
@[simp] theorem State.free_blocks (s : State) (w : Nat) : (s.free w).2.blocks = s.blocks := rfl
@[simp] theorem State.free_aperture (s : State) (w : Nat) : (s.free w).2.aperture = s.aperture := rfl
@[simp] theorem State.free_power (s : State) (w : Nat) : (s.free w).2.power = s.power := rfl
@[simp] theorem State.free_thermal (s : State) (w : Nat) : (s.free w).2.thermal = s.thermal := rfl
@[simp] theorem State.free_loupe (s : State) (w : Nat) : (s.free w).2.loupe = s.loupe := rfl
@[simp] theorem State.free_dev (s : State) (w : Nat) : (s.free w).2.dev = s.dev := rfl
@[simp] theorem State.free_timebase (s : State) (w : Nat) : (s.free w).2.timebase = s.timebase := rfl
@[simp] theorem State.free_trace (s : State) (w : Nat) : (s.free w).2.trace = s.trace := rfl
@[simp] theorem State.free_traceCfg (s : State) (w : Nat) : (s.free w).2.traceCfg = s.traceCfg := rfl
@[simp] theorem State.free_traceQ (s : State) (w : Nat) : (s.free w).2.traceQ = s.traceQ := rfl
@[simp] theorem State.free_traceDrops (s : State) (w : Nat) : (s.free w).2.traceDrops = s.traceDrops := rfl
@[simp] theorem State.free_flash (s : State) (w : Nat) : (s.free w).2.flash = s.flash := rfl
@[simp] theorem State.free_jtag (s : State) (w : Nat) : (s.free w).2.jtag = s.jtag := rfl
@[simp] theorem State.free_upsets (s : State) (w : Nat) : (s.free w).2.upsets = s.upsets := rfl
@[simp] theorem State.free_pciCfg (s : State) (w : Nat) : (s.free w).2.pciCfg = s.pciCfg := rfl
@[simp] theorem State.free_appq (s : State) (w : Nat) : (s.free w).2.appq = s.appq := rfl
@[simp] theorem State.send_out (s : State) (x : Out) : (s.send x).out = s.out ++ [x] := rfl

@[simp] theorem State.core_setCore_same (s : State) (n : Nat) (x : Core) : (s.setCore n x).core n = x := SMap.get_put_same _ _ _ _
theorem State.core_setCore_other (s : State) {m n : Nat} (x : Core) (h : m ≠ n) : (s.setCore n x).core m = s.core m :=
  SMap.get_put_other _ _ _ h
@[simp] theorem State.router_setRouter_same (s : State) (n : Nat) (x : Router) : (s.setRouter n x).router n = x := SMap.get_put_same _ _ _ _
theorem State.router_setRouter_other (s : State) {m n : Nat} (x : Router) (h : m ≠ n) : (s.setRouter n x).router m = s.router m :=
  SMap.get_put_other _ _ _ h
@[simp] theorem State.part_setPart_same (s : State) (n : Nat) (x : Partition) : (s.setPart n x).part n = x := SMap.get_put_same _ _ _ _
theorem State.part_setPart_other (s : State) {m n : Nat} (x : Partition) (h : m ≠ n) : (s.setPart n x).part m = s.part m :=
  SMap.get_put_other _ _ _ h
@[simp] theorem State.slice_setSlice_same (s : State) (n : Nat) (x : Slice) : (s.setSlice n x).slice n = x := SMap.get_put_same _ _ _ _
theorem State.slice_setSlice_other (s : State) {m n : Nat} (x : Slice) (h : m ≠ n) : (s.setSlice n x).slice m = s.slice m :=
  SMap.get_put_other _ _ _ h
@[simp] theorem State.chan_setChan_same (s : State) (n : Nat) (x : Chan) : (s.setChan n x).chan n = x := SMap.get_put_same _ _ _ _
theorem State.chan_setChan_other (s : State) {m n : Nat} (x : Chan) (h : m ≠ n) : (s.setChan n x).chan m = s.chan m :=
  SMap.get_put_other _ _ _ h
@[simp] theorem State.clove_setClove_same (s : State) (n : Nat) (x : Clove) : (s.setClove n x).clove n = x := SMap.get_put_same _ _ _ _
theorem State.clove_setClove_other (s : State) {m n : Nat} (x : Clove) (h : m ≠ n) : (s.setClove n x).clove m = s.clove m :=
  SMap.get_put_other _ _ _ h
@[simp] theorem State.engine_setEngine_same (s : State) (n : Nat) (x : Engine) : (s.setEngine n x).engine n = x := SMap.get_put_same _ _ _ _
theorem State.engine_setEngine_other (s : State) {m n : Nat} (x : Engine) (h : m ≠ n) : (s.setEngine n x).engine m = s.engine m :=
  SMap.get_put_other _ _ _ h
@[simp] theorem State.block_setBlock_same (s : State) (n : Nat) (x : Block) : (s.setBlock n x).block n = x := SMap.get_put_same _ _ _ _
theorem State.block_setBlock_other (s : State) {m n : Nat} (x : Block) (h : m ≠ n) : (s.setBlock n x).block m = s.block m :=
  SMap.get_put_other _ _ _ h
@[simp] theorem State.key_setKey_same (s : State) (n : Nat) (x : KeySlot) : (s.setKey n x).key n = x := SMap.get_put_same _ _ _ _
theorem State.key_setKey_other (s : State) {m n : Nat} (x : KeySlot) (h : m ≠ n) : (s.setKey n x).key m = s.key m :=
  SMap.get_put_other _ _ _ h
@[simp] theorem State.port_setPort_same (s : State) (n : Nat) (x : Port) : (s.setPort n x).port n = x := SMap.get_put_same _ _ _ _
theorem State.port_setPort_other (s : State) {m n : Nat} (x : Port) (h : m ≠ n) : (s.setPort n x).port m = s.port m :=
  SMap.get_put_other _ _ _ h
@[simp] theorem State.coll_setColl_same (s : State) (n : Nat) (x : CollCtx) : (s.setColl n x).coll n = x := SMap.get_put_same _ _ _ _
theorem State.coll_setColl_other (s : State) {m n : Nat} (x : CollCtx) (h : m ≠ n) : (s.setColl n x).coll m = s.coll m :=
  SMap.get_put_other _ _ _ h
@[simp] theorem State.ring_setRing_same (s : State) (n : Nat) (x : HostRing) : (s.setRing n x).ring n = x := SMap.get_put_same _ _ _ _
theorem State.ring_setRing_other (s : State) {m n : Nat} (x : HostRing) (h : m ≠ n) : (s.setRing n x).ring m = s.ring m :=
  SMap.get_put_other _ _ _ h
@[simp] theorem State.xing_setXing_same (s : State) (n : Nat) (x : Xing) : (s.setXing n x).xing n = x := SMap.get_put_same _ _ _ _
theorem State.xing_setXing_other (s : State) {m n : Nat} (x : Xing) (h : m ≠ n) : (s.setXing n x).xing m = s.xing m :=
  SMap.get_put_other _ _ _ h
@[simp] theorem State.att_setAtt_same (s : State) (n : Nat) (x : Attach) : (s.setAtt n x).att n = x := SMap.get_put_same _ _ _ _
theorem State.att_setAtt_other (s : State) {m n : Nat} (x : Attach) (h : m ≠ n) : (s.setAtt n x).att m = s.att m :=
  SMap.get_put_other _ _ _ h
@[simp] theorem State.reg_setReg_same (s : State) (o : Nat) (w : Word) : (s.setReg o w).reg o = w := SMap.get_set_same _ _ _ _
theorem State.reg_setReg_other (s : State) {o m : Nat} (w : Word) (h : m ≠ o) : (s.setReg o w).reg m = s.reg m :=
  SMap.get_set_other _ _ _ _ h
@[simp] theorem State.reg_setField_same (s : State) (o lo len v : Nat) :
    (s.setField o lo len v).reg o = setBits (s.reg o) lo len v := SMap.get_set_same _ _ _ _
theorem State.reg_setField_other (s : State) {o m : Nat} (lo len v : Nat) (h : m ≠ o) : (s.setField o lo len v).reg m = s.reg m :=
  SMap.get_set_other _ _ _ _ h
@[simp] theorem State.reg_orReg_same (s : State) (o : Nat) (w : Word) : (s.orReg o w).reg o = s.reg o ||| w := SMap.get_set_same _ _ _ _
theorem State.reg_orReg_other (s : State) {o m : Nat} (w : Word) (h : m ≠ o) : (s.orReg o w).reg m = s.reg m :=
  SMap.get_set_other _ _ _ _ h
@[simp] theorem State.reg_andNotReg_same (s : State) (o : Nat) (w : Word) : (s.andNotReg o w).reg o = s.reg o &&& ~~~w := SMap.get_set_same _ _ _ _
theorem State.reg_andNotReg_other (s : State) {o m : Nat} (w : Word) (h : m ≠ o) : (s.andNotReg o w).reg m = s.reg m :=
  SMap.get_set_other _ _ _ _ h
@[simp] theorem State.setCore_reg (s : State) (n : Nat) (x : Core) (m : Nat) : (s.setCore n x).reg m = s.reg m := rfl
@[simp] theorem State.setRouter_reg (s : State) (n : Nat) (x : Router) (m : Nat) : (s.setRouter n x).reg m = s.reg m := rfl
@[simp] theorem State.setPart_reg (s : State) (n : Nat) (x : Partition) (m : Nat) : (s.setPart n x).reg m = s.reg m := rfl
@[simp] theorem State.setSlice_reg (s : State) (n : Nat) (x : Slice) (m : Nat) : (s.setSlice n x).reg m = s.reg m := rfl
@[simp] theorem State.setChan_reg (s : State) (n : Nat) (x : Chan) (m : Nat) : (s.setChan n x).reg m = s.reg m := rfl
@[simp] theorem State.setClove_reg (s : State) (n : Nat) (x : Clove) (m : Nat) : (s.setClove n x).reg m = s.reg m := rfl
@[simp] theorem State.setEngine_reg (s : State) (n : Nat) (x : Engine) (m : Nat) : (s.setEngine n x).reg m = s.reg m := rfl
@[simp] theorem State.setBlock_reg (s : State) (n : Nat) (x : Block) (m : Nat) : (s.setBlock n x).reg m = s.reg m := rfl
@[simp] theorem State.setKey_reg (s : State) (n : Nat) (x : KeySlot) (m : Nat) : (s.setKey n x).reg m = s.reg m := rfl
@[simp] theorem State.setPort_reg (s : State) (n : Nat) (x : Port) (m : Nat) : (s.setPort n x).reg m = s.reg m := rfl
@[simp] theorem State.setColl_reg (s : State) (n : Nat) (x : CollCtx) (m : Nat) : (s.setColl n x).reg m = s.reg m := rfl
@[simp] theorem State.setRing_reg (s : State) (n : Nat) (x : HostRing) (m : Nat) : (s.setRing n x).reg m = s.reg m := rfl
@[simp] theorem State.setXing_reg (s : State) (n : Nat) (x : Xing) (m : Nat) : (s.setXing n x).reg m = s.reg m := rfl
@[simp] theorem State.setAtt_reg (s : State) (n : Nat) (x : Attach) (m : Nat) : (s.setAtt n x).reg m = s.reg m := rfl
@[simp] theorem State.send_reg (s : State) (x : Out) (m : Nat) : (s.send x).reg m = s.reg m := rfl
@[simp] theorem State.setReg_core (s : State) (o : Nat) (w : Word) (m : Nat) : (s.setReg o w).core m = s.core m := rfl
@[simp] theorem State.setReg_router (s : State) (o : Nat) (w : Word) (m : Nat) : (s.setReg o w).router m = s.router m := rfl
@[simp] theorem State.setReg_part (s : State) (o : Nat) (w : Word) (m : Nat) : (s.setReg o w).part m = s.part m := rfl
@[simp] theorem State.setReg_slice (s : State) (o : Nat) (w : Word) (m : Nat) : (s.setReg o w).slice m = s.slice m := rfl
@[simp] theorem State.setReg_chan (s : State) (o : Nat) (w : Word) (m : Nat) : (s.setReg o w).chan m = s.chan m := rfl
@[simp] theorem State.setReg_clove (s : State) (o : Nat) (w : Word) (m : Nat) : (s.setReg o w).clove m = s.clove m := rfl
@[simp] theorem State.setReg_engine (s : State) (o : Nat) (w : Word) (m : Nat) : (s.setReg o w).engine m = s.engine m := rfl
@[simp] theorem State.setReg_block (s : State) (o : Nat) (w : Word) (m : Nat) : (s.setReg o w).block m = s.block m := rfl
@[simp] theorem State.setReg_key (s : State) (o : Nat) (w : Word) (m : Nat) : (s.setReg o w).key m = s.key m := rfl
@[simp] theorem State.setReg_port (s : State) (o : Nat) (w : Word) (m : Nat) : (s.setReg o w).port m = s.port m := rfl
@[simp] theorem State.setReg_coll (s : State) (o : Nat) (w : Word) (m : Nat) : (s.setReg o w).coll m = s.coll m := rfl
@[simp] theorem State.setReg_ring (s : State) (o : Nat) (w : Word) (m : Nat) : (s.setReg o w).ring m = s.ring m := rfl
@[simp] theorem State.setReg_xing (s : State) (o : Nat) (w : Word) (m : Nat) : (s.setReg o w).xing m = s.xing m := rfl
@[simp] theorem State.setReg_att (s : State) (o : Nat) (w : Word) (m : Nat) : (s.setReg o w).att m = s.att m := rfl
@[simp] theorem State.setField_core (s : State) (o lo len v : Nat) (m : Nat) : (s.setField o lo len v).core m = s.core m := rfl
@[simp] theorem State.setField_router (s : State) (o lo len v : Nat) (m : Nat) : (s.setField o lo len v).router m = s.router m := rfl
@[simp] theorem State.setField_part (s : State) (o lo len v : Nat) (m : Nat) : (s.setField o lo len v).part m = s.part m := rfl
@[simp] theorem State.setField_slice (s : State) (o lo len v : Nat) (m : Nat) : (s.setField o lo len v).slice m = s.slice m := rfl
@[simp] theorem State.setField_chan (s : State) (o lo len v : Nat) (m : Nat) : (s.setField o lo len v).chan m = s.chan m := rfl
@[simp] theorem State.setField_clove (s : State) (o lo len v : Nat) (m : Nat) : (s.setField o lo len v).clove m = s.clove m := rfl
@[simp] theorem State.setField_engine (s : State) (o lo len v : Nat) (m : Nat) : (s.setField o lo len v).engine m = s.engine m := rfl
@[simp] theorem State.setField_block (s : State) (o lo len v : Nat) (m : Nat) : (s.setField o lo len v).block m = s.block m := rfl
@[simp] theorem State.setField_key (s : State) (o lo len v : Nat) (m : Nat) : (s.setField o lo len v).key m = s.key m := rfl
@[simp] theorem State.setField_port (s : State) (o lo len v : Nat) (m : Nat) : (s.setField o lo len v).port m = s.port m := rfl
@[simp] theorem State.setField_coll (s : State) (o lo len v : Nat) (m : Nat) : (s.setField o lo len v).coll m = s.coll m := rfl
@[simp] theorem State.setField_ring (s : State) (o lo len v : Nat) (m : Nat) : (s.setField o lo len v).ring m = s.ring m := rfl
@[simp] theorem State.setField_xing (s : State) (o lo len v : Nat) (m : Nat) : (s.setField o lo len v).xing m = s.xing m := rfl
@[simp] theorem State.setField_att (s : State) (o lo len v : Nat) (m : Nat) : (s.setField o lo len v).att m = s.att m := rfl
@[simp] theorem State.orReg_core (s : State) (o : Nat) (w : Word) (m : Nat) : (s.orReg o w).core m = s.core m := rfl
@[simp] theorem State.orReg_router (s : State) (o : Nat) (w : Word) (m : Nat) : (s.orReg o w).router m = s.router m := rfl
@[simp] theorem State.orReg_part (s : State) (o : Nat) (w : Word) (m : Nat) : (s.orReg o w).part m = s.part m := rfl
@[simp] theorem State.orReg_slice (s : State) (o : Nat) (w : Word) (m : Nat) : (s.orReg o w).slice m = s.slice m := rfl
@[simp] theorem State.orReg_chan (s : State) (o : Nat) (w : Word) (m : Nat) : (s.orReg o w).chan m = s.chan m := rfl
@[simp] theorem State.orReg_clove (s : State) (o : Nat) (w : Word) (m : Nat) : (s.orReg o w).clove m = s.clove m := rfl
@[simp] theorem State.orReg_engine (s : State) (o : Nat) (w : Word) (m : Nat) : (s.orReg o w).engine m = s.engine m := rfl
@[simp] theorem State.orReg_block (s : State) (o : Nat) (w : Word) (m : Nat) : (s.orReg o w).block m = s.block m := rfl
@[simp] theorem State.orReg_key (s : State) (o : Nat) (w : Word) (m : Nat) : (s.orReg o w).key m = s.key m := rfl
@[simp] theorem State.orReg_port (s : State) (o : Nat) (w : Word) (m : Nat) : (s.orReg o w).port m = s.port m := rfl
@[simp] theorem State.orReg_coll (s : State) (o : Nat) (w : Word) (m : Nat) : (s.orReg o w).coll m = s.coll m := rfl
@[simp] theorem State.orReg_ring (s : State) (o : Nat) (w : Word) (m : Nat) : (s.orReg o w).ring m = s.ring m := rfl
@[simp] theorem State.orReg_xing (s : State) (o : Nat) (w : Word) (m : Nat) : (s.orReg o w).xing m = s.xing m := rfl
@[simp] theorem State.orReg_att (s : State) (o : Nat) (w : Word) (m : Nat) : (s.orReg o w).att m = s.att m := rfl
@[simp] theorem State.andNotReg_core (s : State) (o : Nat) (w : Word) (m : Nat) : (s.andNotReg o w).core m = s.core m := rfl
@[simp] theorem State.andNotReg_router (s : State) (o : Nat) (w : Word) (m : Nat) : (s.andNotReg o w).router m = s.router m := rfl
@[simp] theorem State.andNotReg_part (s : State) (o : Nat) (w : Word) (m : Nat) : (s.andNotReg o w).part m = s.part m := rfl
@[simp] theorem State.andNotReg_slice (s : State) (o : Nat) (w : Word) (m : Nat) : (s.andNotReg o w).slice m = s.slice m := rfl
@[simp] theorem State.andNotReg_chan (s : State) (o : Nat) (w : Word) (m : Nat) : (s.andNotReg o w).chan m = s.chan m := rfl
@[simp] theorem State.andNotReg_clove (s : State) (o : Nat) (w : Word) (m : Nat) : (s.andNotReg o w).clove m = s.clove m := rfl
@[simp] theorem State.andNotReg_engine (s : State) (o : Nat) (w : Word) (m : Nat) : (s.andNotReg o w).engine m = s.engine m := rfl
@[simp] theorem State.andNotReg_block (s : State) (o : Nat) (w : Word) (m : Nat) : (s.andNotReg o w).block m = s.block m := rfl
@[simp] theorem State.andNotReg_key (s : State) (o : Nat) (w : Word) (m : Nat) : (s.andNotReg o w).key m = s.key m := rfl
@[simp] theorem State.andNotReg_port (s : State) (o : Nat) (w : Word) (m : Nat) : (s.andNotReg o w).port m = s.port m := rfl
@[simp] theorem State.andNotReg_coll (s : State) (o : Nat) (w : Word) (m : Nat) : (s.andNotReg o w).coll m = s.coll m := rfl
@[simp] theorem State.andNotReg_ring (s : State) (o : Nat) (w : Word) (m : Nat) : (s.andNotReg o w).ring m = s.ring m := rfl
@[simp] theorem State.andNotReg_xing (s : State) (o : Nat) (w : Word) (m : Nat) : (s.andNotReg o w).xing m = s.xing m := rfl
@[simp] theorem State.andNotReg_att (s : State) (o : Nat) (w : Word) (m : Nat) : (s.andNotReg o w).att m = s.att m := rfl
@[simp] theorem State.countField_core (s : State) (o lo len k : Nat) (m : Nat) : (s.countField o lo len k).core m = s.core m := rfl
@[simp] theorem State.countField_router (s : State) (o lo len k : Nat) (m : Nat) : (s.countField o lo len k).router m = s.router m := rfl
@[simp] theorem State.countField_part (s : State) (o lo len k : Nat) (m : Nat) : (s.countField o lo len k).part m = s.part m := rfl
@[simp] theorem State.countField_slice (s : State) (o lo len k : Nat) (m : Nat) : (s.countField o lo len k).slice m = s.slice m := rfl
@[simp] theorem State.countField_chan (s : State) (o lo len k : Nat) (m : Nat) : (s.countField o lo len k).chan m = s.chan m := rfl
@[simp] theorem State.countField_clove (s : State) (o lo len k : Nat) (m : Nat) : (s.countField o lo len k).clove m = s.clove m := rfl
@[simp] theorem State.countField_engine (s : State) (o lo len k : Nat) (m : Nat) : (s.countField o lo len k).engine m = s.engine m := rfl
@[simp] theorem State.countField_block (s : State) (o lo len k : Nat) (m : Nat) : (s.countField o lo len k).block m = s.block m := rfl
@[simp] theorem State.countField_key (s : State) (o lo len k : Nat) (m : Nat) : (s.countField o lo len k).key m = s.key m := rfl
@[simp] theorem State.countField_port (s : State) (o lo len k : Nat) (m : Nat) : (s.countField o lo len k).port m = s.port m := rfl
@[simp] theorem State.countField_coll (s : State) (o lo len k : Nat) (m : Nat) : (s.countField o lo len k).coll m = s.coll m := rfl
@[simp] theorem State.countField_ring (s : State) (o lo len k : Nat) (m : Nat) : (s.countField o lo len k).ring m = s.ring m := rfl
@[simp] theorem State.countField_xing (s : State) (o lo len k : Nat) (m : Nat) : (s.countField o lo len k).xing m = s.xing m := rfl
@[simp] theorem State.countField_att (s : State) (o lo len k : Nat) (m : Nat) : (s.countField o lo len k).att m = s.att m := rfl
@[simp] theorem State.setCore_router (s : State) (n : Nat) (x : Core) (m : Nat) : (s.setCore n x).router m = s.router m := rfl
@[simp] theorem State.setCore_part (s : State) (n : Nat) (x : Core) (m : Nat) : (s.setCore n x).part m = s.part m := rfl
@[simp] theorem State.setCore_slice (s : State) (n : Nat) (x : Core) (m : Nat) : (s.setCore n x).slice m = s.slice m := rfl
@[simp] theorem State.setCore_chan (s : State) (n : Nat) (x : Core) (m : Nat) : (s.setCore n x).chan m = s.chan m := rfl
@[simp] theorem State.setCore_clove (s : State) (n : Nat) (x : Core) (m : Nat) : (s.setCore n x).clove m = s.clove m := rfl
@[simp] theorem State.setCore_engine (s : State) (n : Nat) (x : Core) (m : Nat) : (s.setCore n x).engine m = s.engine m := rfl
@[simp] theorem State.setCore_block (s : State) (n : Nat) (x : Core) (m : Nat) : (s.setCore n x).block m = s.block m := rfl
@[simp] theorem State.setCore_key (s : State) (n : Nat) (x : Core) (m : Nat) : (s.setCore n x).key m = s.key m := rfl
@[simp] theorem State.setCore_port (s : State) (n : Nat) (x : Core) (m : Nat) : (s.setCore n x).port m = s.port m := rfl
@[simp] theorem State.setCore_coll (s : State) (n : Nat) (x : Core) (m : Nat) : (s.setCore n x).coll m = s.coll m := rfl
@[simp] theorem State.setCore_ring (s : State) (n : Nat) (x : Core) (m : Nat) : (s.setCore n x).ring m = s.ring m := rfl
@[simp] theorem State.setCore_xing (s : State) (n : Nat) (x : Core) (m : Nat) : (s.setCore n x).xing m = s.xing m := rfl
@[simp] theorem State.setCore_att (s : State) (n : Nat) (x : Core) (m : Nat) : (s.setCore n x).att m = s.att m := rfl
@[simp] theorem State.setRouter_core (s : State) (n : Nat) (x : Router) (m : Nat) : (s.setRouter n x).core m = s.core m := rfl
@[simp] theorem State.setRouter_part (s : State) (n : Nat) (x : Router) (m : Nat) : (s.setRouter n x).part m = s.part m := rfl
@[simp] theorem State.setRouter_slice (s : State) (n : Nat) (x : Router) (m : Nat) : (s.setRouter n x).slice m = s.slice m := rfl
@[simp] theorem State.setRouter_chan (s : State) (n : Nat) (x : Router) (m : Nat) : (s.setRouter n x).chan m = s.chan m := rfl
@[simp] theorem State.setRouter_clove (s : State) (n : Nat) (x : Router) (m : Nat) : (s.setRouter n x).clove m = s.clove m := rfl
@[simp] theorem State.setRouter_engine (s : State) (n : Nat) (x : Router) (m : Nat) : (s.setRouter n x).engine m = s.engine m := rfl
@[simp] theorem State.setRouter_block (s : State) (n : Nat) (x : Router) (m : Nat) : (s.setRouter n x).block m = s.block m := rfl
@[simp] theorem State.setRouter_key (s : State) (n : Nat) (x : Router) (m : Nat) : (s.setRouter n x).key m = s.key m := rfl
@[simp] theorem State.setRouter_port (s : State) (n : Nat) (x : Router) (m : Nat) : (s.setRouter n x).port m = s.port m := rfl
@[simp] theorem State.setRouter_coll (s : State) (n : Nat) (x : Router) (m : Nat) : (s.setRouter n x).coll m = s.coll m := rfl
@[simp] theorem State.setRouter_ring (s : State) (n : Nat) (x : Router) (m : Nat) : (s.setRouter n x).ring m = s.ring m := rfl
@[simp] theorem State.setRouter_xing (s : State) (n : Nat) (x : Router) (m : Nat) : (s.setRouter n x).xing m = s.xing m := rfl
@[simp] theorem State.setRouter_att (s : State) (n : Nat) (x : Router) (m : Nat) : (s.setRouter n x).att m = s.att m := rfl
@[simp] theorem State.setPart_core (s : State) (n : Nat) (x : Partition) (m : Nat) : (s.setPart n x).core m = s.core m := rfl
@[simp] theorem State.setPart_router (s : State) (n : Nat) (x : Partition) (m : Nat) : (s.setPart n x).router m = s.router m := rfl
@[simp] theorem State.setPart_slice (s : State) (n : Nat) (x : Partition) (m : Nat) : (s.setPart n x).slice m = s.slice m := rfl
@[simp] theorem State.setPart_chan (s : State) (n : Nat) (x : Partition) (m : Nat) : (s.setPart n x).chan m = s.chan m := rfl
@[simp] theorem State.setPart_clove (s : State) (n : Nat) (x : Partition) (m : Nat) : (s.setPart n x).clove m = s.clove m := rfl
@[simp] theorem State.setPart_engine (s : State) (n : Nat) (x : Partition) (m : Nat) : (s.setPart n x).engine m = s.engine m := rfl
@[simp] theorem State.setPart_block (s : State) (n : Nat) (x : Partition) (m : Nat) : (s.setPart n x).block m = s.block m := rfl
@[simp] theorem State.setPart_key (s : State) (n : Nat) (x : Partition) (m : Nat) : (s.setPart n x).key m = s.key m := rfl
@[simp] theorem State.setPart_port (s : State) (n : Nat) (x : Partition) (m : Nat) : (s.setPart n x).port m = s.port m := rfl
@[simp] theorem State.setPart_coll (s : State) (n : Nat) (x : Partition) (m : Nat) : (s.setPart n x).coll m = s.coll m := rfl
@[simp] theorem State.setPart_ring (s : State) (n : Nat) (x : Partition) (m : Nat) : (s.setPart n x).ring m = s.ring m := rfl
@[simp] theorem State.setPart_xing (s : State) (n : Nat) (x : Partition) (m : Nat) : (s.setPart n x).xing m = s.xing m := rfl
@[simp] theorem State.setPart_att (s : State) (n : Nat) (x : Partition) (m : Nat) : (s.setPart n x).att m = s.att m := rfl
@[simp] theorem State.setSlice_core (s : State) (n : Nat) (x : Slice) (m : Nat) : (s.setSlice n x).core m = s.core m := rfl
@[simp] theorem State.setSlice_router (s : State) (n : Nat) (x : Slice) (m : Nat) : (s.setSlice n x).router m = s.router m := rfl
@[simp] theorem State.setSlice_part (s : State) (n : Nat) (x : Slice) (m : Nat) : (s.setSlice n x).part m = s.part m := rfl
@[simp] theorem State.setSlice_chan (s : State) (n : Nat) (x : Slice) (m : Nat) : (s.setSlice n x).chan m = s.chan m := rfl
@[simp] theorem State.setSlice_clove (s : State) (n : Nat) (x : Slice) (m : Nat) : (s.setSlice n x).clove m = s.clove m := rfl
@[simp] theorem State.setSlice_engine (s : State) (n : Nat) (x : Slice) (m : Nat) : (s.setSlice n x).engine m = s.engine m := rfl
@[simp] theorem State.setSlice_block (s : State) (n : Nat) (x : Slice) (m : Nat) : (s.setSlice n x).block m = s.block m := rfl
@[simp] theorem State.setSlice_key (s : State) (n : Nat) (x : Slice) (m : Nat) : (s.setSlice n x).key m = s.key m := rfl
@[simp] theorem State.setSlice_port (s : State) (n : Nat) (x : Slice) (m : Nat) : (s.setSlice n x).port m = s.port m := rfl
@[simp] theorem State.setSlice_coll (s : State) (n : Nat) (x : Slice) (m : Nat) : (s.setSlice n x).coll m = s.coll m := rfl
@[simp] theorem State.setSlice_ring (s : State) (n : Nat) (x : Slice) (m : Nat) : (s.setSlice n x).ring m = s.ring m := rfl
@[simp] theorem State.setSlice_xing (s : State) (n : Nat) (x : Slice) (m : Nat) : (s.setSlice n x).xing m = s.xing m := rfl
@[simp] theorem State.setSlice_att (s : State) (n : Nat) (x : Slice) (m : Nat) : (s.setSlice n x).att m = s.att m := rfl
@[simp] theorem State.setChan_core (s : State) (n : Nat) (x : Chan) (m : Nat) : (s.setChan n x).core m = s.core m := rfl
@[simp] theorem State.setChan_router (s : State) (n : Nat) (x : Chan) (m : Nat) : (s.setChan n x).router m = s.router m := rfl
@[simp] theorem State.setChan_part (s : State) (n : Nat) (x : Chan) (m : Nat) : (s.setChan n x).part m = s.part m := rfl
@[simp] theorem State.setChan_slice (s : State) (n : Nat) (x : Chan) (m : Nat) : (s.setChan n x).slice m = s.slice m := rfl
@[simp] theorem State.setChan_clove (s : State) (n : Nat) (x : Chan) (m : Nat) : (s.setChan n x).clove m = s.clove m := rfl
@[simp] theorem State.setChan_engine (s : State) (n : Nat) (x : Chan) (m : Nat) : (s.setChan n x).engine m = s.engine m := rfl
@[simp] theorem State.setChan_block (s : State) (n : Nat) (x : Chan) (m : Nat) : (s.setChan n x).block m = s.block m := rfl
@[simp] theorem State.setChan_key (s : State) (n : Nat) (x : Chan) (m : Nat) : (s.setChan n x).key m = s.key m := rfl
@[simp] theorem State.setChan_port (s : State) (n : Nat) (x : Chan) (m : Nat) : (s.setChan n x).port m = s.port m := rfl
@[simp] theorem State.setChan_coll (s : State) (n : Nat) (x : Chan) (m : Nat) : (s.setChan n x).coll m = s.coll m := rfl
@[simp] theorem State.setChan_ring (s : State) (n : Nat) (x : Chan) (m : Nat) : (s.setChan n x).ring m = s.ring m := rfl
@[simp] theorem State.setChan_xing (s : State) (n : Nat) (x : Chan) (m : Nat) : (s.setChan n x).xing m = s.xing m := rfl
@[simp] theorem State.setChan_att (s : State) (n : Nat) (x : Chan) (m : Nat) : (s.setChan n x).att m = s.att m := rfl
@[simp] theorem State.setClove_core (s : State) (n : Nat) (x : Clove) (m : Nat) : (s.setClove n x).core m = s.core m := rfl
@[simp] theorem State.setClove_router (s : State) (n : Nat) (x : Clove) (m : Nat) : (s.setClove n x).router m = s.router m := rfl
@[simp] theorem State.setClove_part (s : State) (n : Nat) (x : Clove) (m : Nat) : (s.setClove n x).part m = s.part m := rfl
@[simp] theorem State.setClove_slice (s : State) (n : Nat) (x : Clove) (m : Nat) : (s.setClove n x).slice m = s.slice m := rfl
@[simp] theorem State.setClove_chan (s : State) (n : Nat) (x : Clove) (m : Nat) : (s.setClove n x).chan m = s.chan m := rfl
@[simp] theorem State.setClove_engine (s : State) (n : Nat) (x : Clove) (m : Nat) : (s.setClove n x).engine m = s.engine m := rfl
@[simp] theorem State.setClove_block (s : State) (n : Nat) (x : Clove) (m : Nat) : (s.setClove n x).block m = s.block m := rfl
@[simp] theorem State.setClove_key (s : State) (n : Nat) (x : Clove) (m : Nat) : (s.setClove n x).key m = s.key m := rfl
@[simp] theorem State.setClove_port (s : State) (n : Nat) (x : Clove) (m : Nat) : (s.setClove n x).port m = s.port m := rfl
@[simp] theorem State.setClove_coll (s : State) (n : Nat) (x : Clove) (m : Nat) : (s.setClove n x).coll m = s.coll m := rfl
@[simp] theorem State.setClove_ring (s : State) (n : Nat) (x : Clove) (m : Nat) : (s.setClove n x).ring m = s.ring m := rfl
@[simp] theorem State.setClove_xing (s : State) (n : Nat) (x : Clove) (m : Nat) : (s.setClove n x).xing m = s.xing m := rfl
@[simp] theorem State.setClove_att (s : State) (n : Nat) (x : Clove) (m : Nat) : (s.setClove n x).att m = s.att m := rfl
@[simp] theorem State.setEngine_core (s : State) (n : Nat) (x : Engine) (m : Nat) : (s.setEngine n x).core m = s.core m := rfl
@[simp] theorem State.setEngine_router (s : State) (n : Nat) (x : Engine) (m : Nat) : (s.setEngine n x).router m = s.router m := rfl
@[simp] theorem State.setEngine_part (s : State) (n : Nat) (x : Engine) (m : Nat) : (s.setEngine n x).part m = s.part m := rfl
@[simp] theorem State.setEngine_slice (s : State) (n : Nat) (x : Engine) (m : Nat) : (s.setEngine n x).slice m = s.slice m := rfl
@[simp] theorem State.setEngine_chan (s : State) (n : Nat) (x : Engine) (m : Nat) : (s.setEngine n x).chan m = s.chan m := rfl
@[simp] theorem State.setEngine_clove (s : State) (n : Nat) (x : Engine) (m : Nat) : (s.setEngine n x).clove m = s.clove m := rfl
@[simp] theorem State.setEngine_block (s : State) (n : Nat) (x : Engine) (m : Nat) : (s.setEngine n x).block m = s.block m := rfl
@[simp] theorem State.setEngine_key (s : State) (n : Nat) (x : Engine) (m : Nat) : (s.setEngine n x).key m = s.key m := rfl
@[simp] theorem State.setEngine_port (s : State) (n : Nat) (x : Engine) (m : Nat) : (s.setEngine n x).port m = s.port m := rfl
@[simp] theorem State.setEngine_coll (s : State) (n : Nat) (x : Engine) (m : Nat) : (s.setEngine n x).coll m = s.coll m := rfl
@[simp] theorem State.setEngine_ring (s : State) (n : Nat) (x : Engine) (m : Nat) : (s.setEngine n x).ring m = s.ring m := rfl
@[simp] theorem State.setEngine_xing (s : State) (n : Nat) (x : Engine) (m : Nat) : (s.setEngine n x).xing m = s.xing m := rfl
@[simp] theorem State.setEngine_att (s : State) (n : Nat) (x : Engine) (m : Nat) : (s.setEngine n x).att m = s.att m := rfl
@[simp] theorem State.setBlock_core (s : State) (n : Nat) (x : Block) (m : Nat) : (s.setBlock n x).core m = s.core m := rfl
@[simp] theorem State.setBlock_router (s : State) (n : Nat) (x : Block) (m : Nat) : (s.setBlock n x).router m = s.router m := rfl
@[simp] theorem State.setBlock_part (s : State) (n : Nat) (x : Block) (m : Nat) : (s.setBlock n x).part m = s.part m := rfl
@[simp] theorem State.setBlock_slice (s : State) (n : Nat) (x : Block) (m : Nat) : (s.setBlock n x).slice m = s.slice m := rfl
@[simp] theorem State.setBlock_chan (s : State) (n : Nat) (x : Block) (m : Nat) : (s.setBlock n x).chan m = s.chan m := rfl
@[simp] theorem State.setBlock_clove (s : State) (n : Nat) (x : Block) (m : Nat) : (s.setBlock n x).clove m = s.clove m := rfl
@[simp] theorem State.setBlock_engine (s : State) (n : Nat) (x : Block) (m : Nat) : (s.setBlock n x).engine m = s.engine m := rfl
@[simp] theorem State.setBlock_key (s : State) (n : Nat) (x : Block) (m : Nat) : (s.setBlock n x).key m = s.key m := rfl
@[simp] theorem State.setBlock_port (s : State) (n : Nat) (x : Block) (m : Nat) : (s.setBlock n x).port m = s.port m := rfl
@[simp] theorem State.setBlock_coll (s : State) (n : Nat) (x : Block) (m : Nat) : (s.setBlock n x).coll m = s.coll m := rfl
@[simp] theorem State.setBlock_ring (s : State) (n : Nat) (x : Block) (m : Nat) : (s.setBlock n x).ring m = s.ring m := rfl
@[simp] theorem State.setBlock_xing (s : State) (n : Nat) (x : Block) (m : Nat) : (s.setBlock n x).xing m = s.xing m := rfl
@[simp] theorem State.setBlock_att (s : State) (n : Nat) (x : Block) (m : Nat) : (s.setBlock n x).att m = s.att m := rfl
@[simp] theorem State.setKey_core (s : State) (n : Nat) (x : KeySlot) (m : Nat) : (s.setKey n x).core m = s.core m := rfl
@[simp] theorem State.setKey_router (s : State) (n : Nat) (x : KeySlot) (m : Nat) : (s.setKey n x).router m = s.router m := rfl
@[simp] theorem State.setKey_part (s : State) (n : Nat) (x : KeySlot) (m : Nat) : (s.setKey n x).part m = s.part m := rfl
@[simp] theorem State.setKey_slice (s : State) (n : Nat) (x : KeySlot) (m : Nat) : (s.setKey n x).slice m = s.slice m := rfl
@[simp] theorem State.setKey_chan (s : State) (n : Nat) (x : KeySlot) (m : Nat) : (s.setKey n x).chan m = s.chan m := rfl
@[simp] theorem State.setKey_clove (s : State) (n : Nat) (x : KeySlot) (m : Nat) : (s.setKey n x).clove m = s.clove m := rfl
@[simp] theorem State.setKey_engine (s : State) (n : Nat) (x : KeySlot) (m : Nat) : (s.setKey n x).engine m = s.engine m := rfl
@[simp] theorem State.setKey_block (s : State) (n : Nat) (x : KeySlot) (m : Nat) : (s.setKey n x).block m = s.block m := rfl
@[simp] theorem State.setKey_port (s : State) (n : Nat) (x : KeySlot) (m : Nat) : (s.setKey n x).port m = s.port m := rfl
@[simp] theorem State.setKey_coll (s : State) (n : Nat) (x : KeySlot) (m : Nat) : (s.setKey n x).coll m = s.coll m := rfl
@[simp] theorem State.setKey_ring (s : State) (n : Nat) (x : KeySlot) (m : Nat) : (s.setKey n x).ring m = s.ring m := rfl
@[simp] theorem State.setKey_xing (s : State) (n : Nat) (x : KeySlot) (m : Nat) : (s.setKey n x).xing m = s.xing m := rfl
@[simp] theorem State.setKey_att (s : State) (n : Nat) (x : KeySlot) (m : Nat) : (s.setKey n x).att m = s.att m := rfl
@[simp] theorem State.setPort_core (s : State) (n : Nat) (x : Port) (m : Nat) : (s.setPort n x).core m = s.core m := rfl
@[simp] theorem State.setPort_router (s : State) (n : Nat) (x : Port) (m : Nat) : (s.setPort n x).router m = s.router m := rfl
@[simp] theorem State.setPort_part (s : State) (n : Nat) (x : Port) (m : Nat) : (s.setPort n x).part m = s.part m := rfl
@[simp] theorem State.setPort_slice (s : State) (n : Nat) (x : Port) (m : Nat) : (s.setPort n x).slice m = s.slice m := rfl
@[simp] theorem State.setPort_chan (s : State) (n : Nat) (x : Port) (m : Nat) : (s.setPort n x).chan m = s.chan m := rfl
@[simp] theorem State.setPort_clove (s : State) (n : Nat) (x : Port) (m : Nat) : (s.setPort n x).clove m = s.clove m := rfl
@[simp] theorem State.setPort_engine (s : State) (n : Nat) (x : Port) (m : Nat) : (s.setPort n x).engine m = s.engine m := rfl
@[simp] theorem State.setPort_block (s : State) (n : Nat) (x : Port) (m : Nat) : (s.setPort n x).block m = s.block m := rfl
@[simp] theorem State.setPort_key (s : State) (n : Nat) (x : Port) (m : Nat) : (s.setPort n x).key m = s.key m := rfl
@[simp] theorem State.setPort_coll (s : State) (n : Nat) (x : Port) (m : Nat) : (s.setPort n x).coll m = s.coll m := rfl
@[simp] theorem State.setPort_ring (s : State) (n : Nat) (x : Port) (m : Nat) : (s.setPort n x).ring m = s.ring m := rfl
@[simp] theorem State.setPort_xing (s : State) (n : Nat) (x : Port) (m : Nat) : (s.setPort n x).xing m = s.xing m := rfl
@[simp] theorem State.setPort_att (s : State) (n : Nat) (x : Port) (m : Nat) : (s.setPort n x).att m = s.att m := rfl
@[simp] theorem State.setColl_core (s : State) (n : Nat) (x : CollCtx) (m : Nat) : (s.setColl n x).core m = s.core m := rfl
@[simp] theorem State.setColl_router (s : State) (n : Nat) (x : CollCtx) (m : Nat) : (s.setColl n x).router m = s.router m := rfl
@[simp] theorem State.setColl_part (s : State) (n : Nat) (x : CollCtx) (m : Nat) : (s.setColl n x).part m = s.part m := rfl
@[simp] theorem State.setColl_slice (s : State) (n : Nat) (x : CollCtx) (m : Nat) : (s.setColl n x).slice m = s.slice m := rfl
@[simp] theorem State.setColl_chan (s : State) (n : Nat) (x : CollCtx) (m : Nat) : (s.setColl n x).chan m = s.chan m := rfl
@[simp] theorem State.setColl_clove (s : State) (n : Nat) (x : CollCtx) (m : Nat) : (s.setColl n x).clove m = s.clove m := rfl
@[simp] theorem State.setColl_engine (s : State) (n : Nat) (x : CollCtx) (m : Nat) : (s.setColl n x).engine m = s.engine m := rfl
@[simp] theorem State.setColl_block (s : State) (n : Nat) (x : CollCtx) (m : Nat) : (s.setColl n x).block m = s.block m := rfl
@[simp] theorem State.setColl_key (s : State) (n : Nat) (x : CollCtx) (m : Nat) : (s.setColl n x).key m = s.key m := rfl
@[simp] theorem State.setColl_port (s : State) (n : Nat) (x : CollCtx) (m : Nat) : (s.setColl n x).port m = s.port m := rfl
@[simp] theorem State.setColl_ring (s : State) (n : Nat) (x : CollCtx) (m : Nat) : (s.setColl n x).ring m = s.ring m := rfl
@[simp] theorem State.setColl_xing (s : State) (n : Nat) (x : CollCtx) (m : Nat) : (s.setColl n x).xing m = s.xing m := rfl
@[simp] theorem State.setColl_att (s : State) (n : Nat) (x : CollCtx) (m : Nat) : (s.setColl n x).att m = s.att m := rfl
@[simp] theorem State.setRing_core (s : State) (n : Nat) (x : HostRing) (m : Nat) : (s.setRing n x).core m = s.core m := rfl
@[simp] theorem State.setRing_router (s : State) (n : Nat) (x : HostRing) (m : Nat) : (s.setRing n x).router m = s.router m := rfl
@[simp] theorem State.setRing_part (s : State) (n : Nat) (x : HostRing) (m : Nat) : (s.setRing n x).part m = s.part m := rfl
@[simp] theorem State.setRing_slice (s : State) (n : Nat) (x : HostRing) (m : Nat) : (s.setRing n x).slice m = s.slice m := rfl
@[simp] theorem State.setRing_chan (s : State) (n : Nat) (x : HostRing) (m : Nat) : (s.setRing n x).chan m = s.chan m := rfl
@[simp] theorem State.setRing_clove (s : State) (n : Nat) (x : HostRing) (m : Nat) : (s.setRing n x).clove m = s.clove m := rfl
@[simp] theorem State.setRing_engine (s : State) (n : Nat) (x : HostRing) (m : Nat) : (s.setRing n x).engine m = s.engine m := rfl
@[simp] theorem State.setRing_block (s : State) (n : Nat) (x : HostRing) (m : Nat) : (s.setRing n x).block m = s.block m := rfl
@[simp] theorem State.setRing_key (s : State) (n : Nat) (x : HostRing) (m : Nat) : (s.setRing n x).key m = s.key m := rfl
@[simp] theorem State.setRing_port (s : State) (n : Nat) (x : HostRing) (m : Nat) : (s.setRing n x).port m = s.port m := rfl
@[simp] theorem State.setRing_coll (s : State) (n : Nat) (x : HostRing) (m : Nat) : (s.setRing n x).coll m = s.coll m := rfl
@[simp] theorem State.setRing_xing (s : State) (n : Nat) (x : HostRing) (m : Nat) : (s.setRing n x).xing m = s.xing m := rfl
@[simp] theorem State.setRing_att (s : State) (n : Nat) (x : HostRing) (m : Nat) : (s.setRing n x).att m = s.att m := rfl
@[simp] theorem State.setXing_core (s : State) (n : Nat) (x : Xing) (m : Nat) : (s.setXing n x).core m = s.core m := rfl
@[simp] theorem State.setXing_router (s : State) (n : Nat) (x : Xing) (m : Nat) : (s.setXing n x).router m = s.router m := rfl
@[simp] theorem State.setXing_part (s : State) (n : Nat) (x : Xing) (m : Nat) : (s.setXing n x).part m = s.part m := rfl
@[simp] theorem State.setXing_slice (s : State) (n : Nat) (x : Xing) (m : Nat) : (s.setXing n x).slice m = s.slice m := rfl
@[simp] theorem State.setXing_chan (s : State) (n : Nat) (x : Xing) (m : Nat) : (s.setXing n x).chan m = s.chan m := rfl
@[simp] theorem State.setXing_clove (s : State) (n : Nat) (x : Xing) (m : Nat) : (s.setXing n x).clove m = s.clove m := rfl
@[simp] theorem State.setXing_engine (s : State) (n : Nat) (x : Xing) (m : Nat) : (s.setXing n x).engine m = s.engine m := rfl
@[simp] theorem State.setXing_block (s : State) (n : Nat) (x : Xing) (m : Nat) : (s.setXing n x).block m = s.block m := rfl
@[simp] theorem State.setXing_key (s : State) (n : Nat) (x : Xing) (m : Nat) : (s.setXing n x).key m = s.key m := rfl
@[simp] theorem State.setXing_port (s : State) (n : Nat) (x : Xing) (m : Nat) : (s.setXing n x).port m = s.port m := rfl
@[simp] theorem State.setXing_coll (s : State) (n : Nat) (x : Xing) (m : Nat) : (s.setXing n x).coll m = s.coll m := rfl
@[simp] theorem State.setXing_ring (s : State) (n : Nat) (x : Xing) (m : Nat) : (s.setXing n x).ring m = s.ring m := rfl
@[simp] theorem State.setXing_att (s : State) (n : Nat) (x : Xing) (m : Nat) : (s.setXing n x).att m = s.att m := rfl
@[simp] theorem State.setAtt_core (s : State) (n : Nat) (x : Attach) (m : Nat) : (s.setAtt n x).core m = s.core m := rfl
@[simp] theorem State.setAtt_router (s : State) (n : Nat) (x : Attach) (m : Nat) : (s.setAtt n x).router m = s.router m := rfl
@[simp] theorem State.setAtt_part (s : State) (n : Nat) (x : Attach) (m : Nat) : (s.setAtt n x).part m = s.part m := rfl
@[simp] theorem State.setAtt_slice (s : State) (n : Nat) (x : Attach) (m : Nat) : (s.setAtt n x).slice m = s.slice m := rfl
@[simp] theorem State.setAtt_chan (s : State) (n : Nat) (x : Attach) (m : Nat) : (s.setAtt n x).chan m = s.chan m := rfl
@[simp] theorem State.setAtt_clove (s : State) (n : Nat) (x : Attach) (m : Nat) : (s.setAtt n x).clove m = s.clove m := rfl
@[simp] theorem State.setAtt_engine (s : State) (n : Nat) (x : Attach) (m : Nat) : (s.setAtt n x).engine m = s.engine m := rfl
@[simp] theorem State.setAtt_block (s : State) (n : Nat) (x : Attach) (m : Nat) : (s.setAtt n x).block m = s.block m := rfl
@[simp] theorem State.setAtt_key (s : State) (n : Nat) (x : Attach) (m : Nat) : (s.setAtt n x).key m = s.key m := rfl
@[simp] theorem State.setAtt_port (s : State) (n : Nat) (x : Attach) (m : Nat) : (s.setAtt n x).port m = s.port m := rfl
@[simp] theorem State.setAtt_coll (s : State) (n : Nat) (x : Attach) (m : Nat) : (s.setAtt n x).coll m = s.coll m := rfl
@[simp] theorem State.setAtt_ring (s : State) (n : Nat) (x : Attach) (m : Nat) : (s.setAtt n x).ring m = s.ring m := rfl
@[simp] theorem State.setAtt_xing (s : State) (n : Nat) (x : Attach) (m : Nat) : (s.setAtt n x).xing m = s.xing m := rfl
@[simp] theorem State.send_core (s : State) (x : Out) (m : Nat) : (s.send x).core m = s.core m := rfl
@[simp] theorem State.send_router (s : State) (x : Out) (m : Nat) : (s.send x).router m = s.router m := rfl
@[simp] theorem State.send_part (s : State) (x : Out) (m : Nat) : (s.send x).part m = s.part m := rfl
@[simp] theorem State.send_slice (s : State) (x : Out) (m : Nat) : (s.send x).slice m = s.slice m := rfl
@[simp] theorem State.send_chan (s : State) (x : Out) (m : Nat) : (s.send x).chan m = s.chan m := rfl
@[simp] theorem State.send_clove (s : State) (x : Out) (m : Nat) : (s.send x).clove m = s.clove m := rfl
@[simp] theorem State.send_engine (s : State) (x : Out) (m : Nat) : (s.send x).engine m = s.engine m := rfl
@[simp] theorem State.send_block (s : State) (x : Out) (m : Nat) : (s.send x).block m = s.block m := rfl
@[simp] theorem State.send_key (s : State) (x : Out) (m : Nat) : (s.send x).key m = s.key m := rfl
@[simp] theorem State.send_port (s : State) (x : Out) (m : Nat) : (s.send x).port m = s.port m := rfl
@[simp] theorem State.send_coll (s : State) (x : Out) (m : Nat) : (s.send x).coll m = s.coll m := rfl
@[simp] theorem State.send_ring (s : State) (x : Out) (m : Nat) : (s.send x).ring m = s.ring m := rfl
@[simp] theorem State.send_xing (s : State) (x : Out) (m : Nat) : (s.send x).xing m = s.xing m := rfl
@[simp] theorem State.send_att (s : State) (x : Out) (m : Nat) : (s.send x).att m = s.att m := rfl

end Sys2Proof.Machine
end

