-- ==== Sys2Proof/Laws/Quiet.lean ====
section
/-! SUPPORT. The end of a cycle of a core that had nothing in flight. -/

namespace Sys2Proof

theorem SMap.put_put {α : Type} (m : SMap α) (i : Nat) (v w : α) : SMap.put (SMap.put m i v) i w = SMap.put m i w := by
  induction m with
  | nil => simp [SMap.put]
  | cons x m ih =>
    obtain ⟨k, u⟩ := x
    simp only [SMap.put]
    split
    · next e => simp [SMap.put, e]
    · split
      · simp [SMap.put]
      · next a b => simp [SMap.put, a, b, ih]

namespace Machine

@[simp] theorem State.setCore_setCore (s : State) (n : Nat) (a b : Core) : (s.setCore n a).setCore n b = s.setCore n b := by
  simp [State.setCore, SMap.put_put]

@[simp] theorem State.setCore_partOfCore (s : State) (n m : Nat) (a : Core) : (s.setCore n a).partOfCore m = s.partOfCore m := rfl
@[simp] theorem State.setCore_partIn (s : State) (n p : Nat) (a : Core) (xs : List PState) :
    (s.setCore n a).partIn p xs = s.partIn p xs := rfl

/-- An effect that writes a register at the end of its cycle and touches no memory port. -/
def Effect.plain : Effect → Bool
  | .sreg .. | .areg .. | .preg .. | .lreg .. | .vreg .. | .mask .. | .bptr .. | .tokenDown .. | .tkclr => true
  | _ => false

theorem Effect.plain_ports {e : Effect} (h : e.plain = true) (r : Option Ring) : e.ports r = ([], []) := by
  cases e <;> simp_all [Effect.plain, Effect.ports]

theorem readEffect_plain {p : Pending} (h : p.eff.plain = true) (s : State) (n : Nat) : s.readEffect n p = (s, [p]) := by
  unfold State.readEffect
  split <;> simp_all [Effect.plain]

theorem Effect.plain_send {e : Effect} (h : e.plain = true) : e.isSend = false := by
  cases e <;> simp_all [Effect.plain, Effect.isSend]

theorem applyEffect_pend {p : Pending} (h : p.eff.plain = true) (s : State) (n : Nat) :
    ((s.applyEffect n p).core n).seq.pend = (s.core n).seq.pend := by
  unfold State.applyEffect
  split <;> simp_all [Effect.plain, SeqState.good]
  split <;> simp

theorem applyEffect_now {p : Pending} (h : p.eff.plain = true) (s : State) (n : Nat) :
    ((s.applyEffect n p).core n).seq.now = (s.core n).seq.now := by
  unfold State.applyEffect
  split <;> simp_all [Effect.plain, SeqState.good]
  split <;> simp

theorem applyEffect_partOfCore {p : Pending} (h : p.eff.plain = true) (s : State) (n m : Nat) :
    (s.applyEffect n p).partOfCore m = s.partOfCore m := by
  unfold State.applyEffect
  split <;> simp_all [Effect.plain]
  split <;> simp

theorem applyEffect_parts {p : Pending} (h : p.eff.plain = true) (s : State) (n : Nat) :
    (s.applyEffect n p).parts = s.parts := by
  unfold State.applyEffect
  split <;> simp_all [Effect.plain]
  split <;> simp

theorem frozen_false {s t : State} {n k : Nat} (hq : Quiet s n) (h : t.parts = s.parts) (hp : t.partOfCore n = s.partOfCore n) :
    (match t.partOfCore n with
      | some p => t.partIn p [.faulted] && decide ((t.part p).freezeAt ≤ k)
      | none => false) = false := by
  rw [hp]
  split
  · next p e =>
    have := hq.2.2.2.2 p e
    simp_all [State.partIn, State.part]
  · rfl

theorem readEffects_plain {l : List Pending} (h : ∀ p ∈ l, p.eff.plain = true) (s : State) (n : Nat) (r : List Pending) :
    l.foldl (fun (a : State × List Pending) p => let x := a.1.readEffect n p; (x.1, a.2 ++ x.2)) (s, r) = (s, r ++ l) := by
  induction l generalizing r with
  | nil => simp
  | cons p l ih =>
    simp only [List.foldl_cons]
    rw [readEffect_plain (h p (by simp))]
    simp only []
    rw [ih (fun q hq => h q (by simp [hq]))]
    simp

theorem portUse_plain {l : List Pending} (h : ∀ p ∈ l, p.eff.plain = true) (r : Option Ring) : portUse r l = [] := by
  unfold portUse
  rw [List.flatMap_eq_nil_iff]
  intro x hx
  have := h x.1 (by obtain ⟨_, _, e⟩ := List.mem_zipIdx hx; simp [e])
  simp [Effect.plain_ports this]

theorem moved_plain {l : List Pending} (h : ∀ p ∈ l, p.eff.plain = true) (r : Option Ring) :
    (l.map (fun p => (p.eff.ports r).1.length)).sum = 0 ∧ (l.map (fun p => (p.eff.ports r).2.length)).sum = 0 := by
  induction l with
  | nil => simp
  | cons p l ih =>
    have := ih (fun q hq => h q (by simp [hq]))
    simp [Effect.plain_ports (h p (by simp)), this]

/-- Where no port is used, a test under way meets no access. -/
theorem testedUse_nil (o : Option Nat) : testedUse o [] = [] := by
  cases o <;> rfl

section
variable {s : State} {n : Nat} {c : Core} (hq : Quiet s n) (hm : c.eng.mmas = []) (hv : c.eng.mvps = []) (hp : c.eng.ports = [])
include hq hm hv hp

/-- The end of a cycle in which only register writes d are due and l stays in flight: the writes happen and the next cycle begins. -/
theorem endCycle_plain {d l : List Pending} {t : State}
    (h1 : c.seq.pend.filter (fun p => decide (p.due ≤ c.seq.now) && !p.eff.isSend) = d)
    (h2 : c.seq.pend.filter (fun p => !(decide (p.due ≤ c.seq.now) && !p.eff.isSend)) = l)
    (ha : ∀ p ∈ d, p.eff.plain = true ∧ p.due ≤ c.seq.now)
    (hs : ∀ q ∈ l, q.eff.isSend = true → c.seq.now + 1 < q.due)
    (ht : (d.foldr insertRank []).foldl (fun s p => s.applyEffect n p) (s.setCore n { c with seq := { c.seq with pend := l } }) = t)
    (htp : t.parts = s.parts) (hto : t.partOfCore n = s.partOfCore n) (htl : (t.core n).seq.pend = l)
    (htn : (t.core n).seq.now = c.seq.now) :
    (s.setCore n c).endCycle n = t.setCore n ((t.core n).after l) := by
  have h3 : d.filter (fun p => decide (p.due ≤ c.seq.now) && !p.eff.isSend) = d := by
    rw [List.filter_eq_self]
    intro p h
    have := ha p h
    simp [this, Effect.plain_send this.1]
  have h4 : d.filter (fun p => !(decide (p.due ≤ c.seq.now) && !p.eff.isSend)) = [] := by
    rw [List.filter_eq_nil_iff]
    intro p h
    have := ha p h
    simp [this, Effect.plain_send this.1]
  have h5 : l.filter (fun p => p.eff.isSend && decide (p.due ≤ c.seq.now + 1)) = [] := by
    rw [List.filter_eq_nil_iff]
    intro p h
    have := hs p h
    simp; exact this
  have h6 : l.filter (fun p => !(p.eff.isSend && decide (p.due ≤ c.seq.now + 1))) = l := by
    rw [List.filter_eq_self]
    intro p h
    have := hs p h
    cases e : p.eff.isSend <;> simp_all
  have hpl : ∀ p ∈ d, p.eff.plain = true := fun p h => (ha p h).1
  have h7 := moved_plain hpl (c.ringAt d)
  have h8 : (d.zipIdx.filter (fun _ => true)).map (fun x : Pending × Nat => x.1) = d := by simp
  have hf := frozen_false (t := t.setCore n ((t.core n).after l)) (k := c.seq.now + 1) hq htp hto
  have e0 : (s.setCore n c).engineReads n c.seq.now = [] := by simp [State.engineReads, hm, hv, hp]
  unfold State.endCycle
  simp only [State.core_setCore_same, e0, List.append_nil, h1, h2, portUse_plain hpl, conflicts, List.zipIdx_nil, List.flatMap_nil,
    testedUse_nil, List.any_nil, Bool.false_and, Bool.not_false, h8, h7, Nat.mul_zero, State.tallyCore, ite_true, State.setCore_setCore,
    readEffects_plain hpl, List.nil_append, h3, h4, ht, htl, htn, List.foldl_nil]
  rw [show (t.setCore n { (t.core n) with seq := { (t.core n).seq with now := c.seq.now + 1, pend := l } }) =
    t.setCore n ((t.core n).after l) by simp [Core.after, htn]] at *
  refine (if_neg (fun h => Bool.false_ne_true (hf.symm.trans h))).trans ?_
  simp only [State.startCycle, State.core_setCore_same]
  rw [show ((t.core n).after l).seq.now = c.seq.now + 1 by simp [Core.after, htn], show ((t.core n).after l).seq.pend = l from rfl,
    h5, h6, State.setCore_setCore]
  simp [Core.after, htn]

/-- Effects that are due later stay in flight, and the next cycle begins. -/
theorem endCycle_later (hl : ∀ q ∈ c.seq.pend, c.seq.now < q.due)
    (hs : ∀ q ∈ c.seq.pend, q.eff.isSend = true → c.seq.now + 1 < q.due) :
    (s.setCore n c).endCycle n = s.setCore n (c.after c.seq.pend) := by
  have h1 : c.seq.pend.filter (fun p => decide (p.due ≤ c.seq.now) && !p.eff.isSend) = [] := by
    rw [List.filter_eq_nil_iff]
    intro q h
    have := hl q h
    simp; omega
  have h2 : c.seq.pend.filter (fun p => !(decide (p.due ≤ c.seq.now) && !p.eff.isSend)) = c.seq.pend := by
    rw [List.filter_eq_self]
    intro q h
    have := hl q h
    simp; omega
  have := endCycle_plain (t := s.setCore n c) hq hm hv hp h1 h2 (by simp) hs rfl rfl rfl (by simp) (by simp)
  simpa using this

/-- One register write is due; the others stay in flight. -/
theorem endCycle_now {p : Pending} {l : List Pending} (hc : c.seq.pend = p :: l) (ha : p.eff.plain = true)
    (hd : p.due ≤ c.seq.now) (hl : ∀ q ∈ l, c.seq.now < q.due) (hs : ∀ q ∈ l, q.eff.isSend = true → c.seq.now + 1 < q.due) :
    (s.setCore n c).endCycle n =
      ((s.setCore n { c with seq := { c.seq with pend := l } }).applyEffect n p).setCore n
        ((((s.setCore n { c with seq := { c.seq with pend := l } }).applyEffect n p).core n).after l) := by
  have h1 : c.seq.pend.filter (fun p => decide (p.due ≤ c.seq.now) && !p.eff.isSend) = [p] := by
    rw [hc, List.filter_cons, if_pos (by simp [hd, Effect.plain_send ha]), List.filter_eq_nil_iff.2]
    intro q h
    have := hl q h
    simp; omega
  have h2 : c.seq.pend.filter (fun p => !(decide (p.due ≤ c.seq.now) && !p.eff.isSend)) = l := by
    rw [hc, List.filter_cons, if_neg (by simp [hd, Effect.plain_send ha]), List.filter_eq_self]
    intro q h
    have := hl q h
    simp; omega
  refine endCycle_plain hq hm hv hp h1 h2 (by simp [ha, hd]) hs rfl ?_ ?_ ?_ ?_
  · simp [insertRank, applyEffect_parts ha]
  · simp [insertRank, applyEffect_partOfCore ha]
  · simp [insertRank, applyEffect_pend ha]
  · simp [insertRank, applyEffect_now ha]
end

/-! Slot words on their own. -/

theorem swOp_withOp (w : Word) (op : Nat) (h : op < 32) : swOp (withOp w op) = op := by
  simp [swOp, withOp, bits_setBits_same, Nat.mod_eq_of_lt, h]

theorem bits_withOp (w : Word) (op lo k : Nat) (h : lo + k ≤ 27) : bits (withOp w op) lo k = bits w lo k :=
  bits_setBits_other _ _ _ _ _ _ (by omega) (Or.inl h)

/-- A slot word that acts has its effects, and the cycle ends. -/
theorem loneSlot_acts {s : State} {n slot : Nat} {w : Word} (h : SlotActs s n slot w) (hb : slot = 0 → seqBranch (s.core n) w = none) :
    s.loneSlot n slot w = (s.slotPerform n slot w).endCycle n := by
  obtain ⟨h0, h1, h2, h3⟩ := h
  unfold State.loneSlot
  rw [if_neg (by simp [h0]), if_neg (by simp [h1]), h2]
  by_cases e : slot = 0
  · simp [e, hb]
  · simp [e]

theorem seqBranch_other (c : Core) (w : Word) (h1 : swOp w ≠ 1) (h3 : swOp w ≠ 3) : seqBranch c w = none := by
  unfold seqBranch
  split
  · rfl
  · split <;> simp_all

/-- One register write, due at once. -/
theorem slotLater_now {s : State} {n slot : Nat} {e : Effect} (hq : Quiet s n) (ha : e.plain = true) :
    (s.slotLater n slot 0 e).endCycle n =
      ((s.setCore n (s.core n)).applyEffect n ((s.core n).effect 0 slot e)).setCore n
        ((((s.setCore n (s.core n)).applyEffect n ((s.core n).effect 0 slot e)).core n).after []) := by
  obtain ⟨h1, h2, h3, h4, h5⟩ := id hq
  have := endCycle_now (s := s) (n := n) (c := (s.core n).later 0 slot none e) (p := (s.core n).effect 0 slot e) (l := []) hq
    (by simp [Core.later, h2]) (by simp [Core.later, h3]) (by simp [Core.later, h4])
    (by simp [Core.later, Core.effect, h1]) (by simpa [Core.effect] using ha) (by simp [Core.later, Core.effect]) (by simp) (by simp)
  rw [State.slotLater, this]
  have hc : ({ (s.core n).later 0 slot none e with seq := { ((s.core n).later 0 slot none e).seq with pend := [] } } : Core) = s.core n := by
    simp only [Core.later]; rw [← h1]
  rw [hc]

theorem later_nil {s : State} {n : Nat} (hq : Quiet s n) : (s.setCore n (s.core n)).endCycle n = s.setCore n ((s.core n).after []) := by
  obtain ⟨h1, h2, h3, h4, h5⟩ := id hq
  have := endCycle_later (s := s) (n := n) (c := s.core n) hq h2 h3 h4 (by simp [h1]) (by simp [h1])
  rw [this, h1]

/-- A cycle in which nothing issues and nothing is due. -/
theorem endCycle_quiet {s : State} {n : Nat} (hq : Quiet s n) : s.endCycle n = s.setCore n ((s.core n).after []) := by
  obtain ⟨h1, h2, h3, h4, h5⟩ := id hq
  have : (s.setCore n (s.core n)).endCycle n = s.endCycle n := by
    simp [State.endCycle, State.engineReads, h1, h2, h3, h4, portUse, conflicts, State.tallyCore, State.fastClock]
  rw [← this, later_nil hq]

end Machine

end Sys2Proof
end

