-- ==== Sys2Proof/WellFormed.lean ====
section
/-! DEFINITION. Well-formed commands: what the types of Syntax.lean leave open about operands. A slot or blend word carries its row's
opcode (04 R105, 05 R137); a command of the Loupe names one of the 512 in flight (14 R424); lists that answer per unit name each unit once.
`exec` is defined on every command; no meaning relies on these checks. -/

namespace Sys2Proof

/-- No value twice. -/
def distinct (l : List Nat) : Bool := l.eraseDups.length == l.length

/-- Modules per edge: 16 between tiles, 8 to a hub (06 R186, 19 R598). -/
def moduleWf (e m : Nat) : Bool := decide (e < 10) || decide (m < 8)

/-- Sensors (18 R567): DRAM sensors 0–39 and logic sensors 0–31 of tiles 0–7; one per HBM stack. -/
def sensorWf (kind unit idx : Nat) : Bool :=
  match kind with
  | 0 => decide (unit < 8)
  | 1 => decide (unit < 8) && decide (idx < 32)
  | _ => decide (idx = 0)

def slotWf (op : Nat) (w : Word) : Bool := w.toNat / 2 ^ 27 == op
def blendWf (op : Nat) (w : DWord) : Bool := w.toNat / 2 ^ 56 == op

/-- A command is well formed. -/
def Instr.wf (i : Instr) : Bool :=
  match i with
  | .strapSample _ _ => true
  | .collectionWindowClose => true
  | .pwrReqOn => true
  | .railSequenceNext => true
  | .pwrReqOff => true
  | .shutdownRailOff => true
  | .coldEntry => true
  | .pwrGoodValid _ => true
  | .supplyReset _ => true
  | .refclkLoss => true
  | .railOvervoltage _ => true
  | .railWarning _ => true
  | .railRecovery cycles => distinct (cycles.map (fun x => x.1.val))
  | .brownoutTimeout => true
  | .pmbusPoll reads => distinct (reads.map (fun x => x.1.val))
  | .pmbAlert reads => distinct (reads.map (fun x => x.1.val))
  | .avsUpdate needs => distinct (needs.map (fun x => x.1.val))
  | .clkPartWrite _ _ _ => true
  | .pointChangeDone _ => true
  | .apertureAdmit _ => true
  | .rampEnd _ => true
  | .blockLowerEnd _ => true
  | .thermalSample kind unit idx _ => sensorWf kind.val unit.val idx.val
  | .powerSample tiles _ => tiles.length == 8
  | .irisEvaluation => true
  | .throttlePause _ => true
  | .coolantRead _ _ => true
  | .flowPulse => true
  | .coolantPwmUpdate => true
  | .deviceWindowExpiry _ => true
  | .entropyHealthFail => true
  | .mgmtReadyEntry _ _ _ => true
  | .clocksAndMeshStage _ _ => true
  | .memoryTraining _ _ _ _ => true
  | .checkerSelfTest _ _ => true
  | .bringUpZeroFill => true
  | .memoryTestWave _ _ _ hbmRows _ _ => hbmRows.all (fun x => decide (x.2 < 49152 * 32))
  | .linksStage bad => bad.all (fun x => moduleWf x.1.val x.2.1.val)
  | .blockSelfTest _ => true
  | .blockRelease _ => true
  | .bringUpComplete => true
  | .configRequest _ _ _ => true
  | .perstAssert _ => true
  | .registerWrite _ _ _ _ _ => true
  | .registerReadClear _ _ _ _ => true
  | .sliceLayerWrite _ _ _ => true
  | .laneMapCommit _ _ => true
  | .ringEnable _ _ _ => true
  | .ringDisable _ _ _ => true
  | .ringDrained _ => true
  | .sqTail _ _ _ => true
  | .cqHead _ _ _ => true
  | .sqEntryFetch _ _ => true
  | .refusedReply k => decide (k < 512)
  | .completionWrite _ => true
  | .ringIrqTimer _ => true
  | .apertureRead _ off n => decide (off.toNat + n.val ≤ 2 ^ 36)
  | .apertureWrite _ off data _ => decide (0 < data.length) && decide (data.length ≤ 4096) && decide (off.toNat + data.length ≤ 2 ^ 36)
  | .mctpRequest _ => true
  | .identify k => decide (k < 512)
  | .resultRelease k => decide (k < 512)
  | .regAccessRead k => decide (k < 512)
  | .regAccessWrite k => decide (k < 512)
  | .partitionCreate k => decide (k < 512)
  | .partitionDestroy k => decide (k < 512)
  | .facetLoad k _ _ _ => decide (k < 512)
  | .facetActivate k _ _ => decide (k < 512)
  | .facetActivateDevice k _ _ => decide (k < 512)
  | .cloveLoad k _ _ => decide (k < 512)
  | .run k => decide (k < 512)
  | .stopStepBoundary k => decide (k < 512)
  | .stopImmediate k => decide (k < 512)
  | .stopTakesEffect k => decide (k < 512)
  | .ckptQuiesceTimeout _ => true
  | .haltFreeze _ => true
  | .resume k => decide (k < 512)
  | .replayLive k => decide (k < 512)
  | .replayLogged k => decide (k < 512)
  | .seqOpen k => decide (k < 512)
  | .seqFork k => decide (k < 512)
  | .seqPark k => decide (k < 512)
  | .parkDrainTimeout k => decide (k < 512)
  | .seqUnpark k => decide (k < 512)
  | .seqClose k => decide (k < 512)
  | .seqEvict k => decide (k < 512)
  | .seqRestore k pages => decide (k < 512) && distinct (pages.map (fun x => x.1))
  | .seqRead k => decide (k < 512)
  | .keyInstallLink k _ _ => decide (k < 512)
  | .keyInstallMemory k => decide (k < 512)
  | .memoryRefillEnd _ => true
  | .keyInstallImageVerify k _ _ => decide (k < 512)
  | .keyRetire k => decide (k < 512)
  | .retireDrainEnd k => decide (k < 512)
  | .debugConsentGrant k => decide (k < 512)
  | .debugConsentRevoke k => decide (k < 512)
  | .licenceInstall k _ _ => decide (k < 512)
  | .amendApplyStore k _ _ => decide (k < 512)
  | .amendApplyLive k _ _ => decide (k < 512)
  | .scrubSram k => decide (k < 512)
  | .scrubSlice k => decide (k < 512)
  | .scrubHbm k => decide (k < 512)
  | .selfTest k _ => decide (k < 512)
  | .spareSliceRow k => decide (k < 512)
  | .spareHbmRow k => decide (k < 512)
  | .spareUcieLane k => decide (k < 512)
  | .spareColumn k => decide (k < 512)
  | .spareBlock k => decide (k < 512)
  | .calibrate k _ => decide (k < 512)
  | .counterConfig k => decide (k < 512)
  | .counterRead k => decide (k < 512)
  | .traceConfig k => decide (k < 512)
  | .traceRead k => decide (k < 512)
  | .powerCapSet k => decide (k < 512)
  | .thermalRead k => decide (k < 512)
  | .linkStatus k => decide (k < 512)
  | .portRetrain k => decide (k < 512)
  | .portDisable k => decide (k < 512)
  | .portEnable k => decide (k < 512)
  | .portReleaseQuarantine k => decide (k < 512)
  | .loupeHandover => true
  | .servicePacketReceive _ _ => true
  | .serviceScrub => true
  | .bundleIssue _ => true
  | .knownAnswerTestEnd _ _ => true
  | .jmp _ w => slotWf 0x01 w
  | .lset _ w => slotWf 0x02 w
  | .lend _ w => slotWf 0x03 w
  | .wait _ w => slotWf 0x04 w
  | .waitSatisfied _ => true
  | .waitPause _ _ => true
  | .waitTimeout _ => true
  | .tadd _ w => slotWf 0x05 w
  | .smov _ w => slotWf 0x06 w
  | .salu _ w => slotWf 0x07 w
  | .saddi _ w => slotWf 0x08 w
  | .aadd _ w => slotWf 0x09 w
  | .amov _ w => slotWf 0x0A w
  | .setp _ w => slotWf 0x0B w
  | .plog _ w => slotWf 0x0C w
  | .srd _ w => slotWf 0x0D w
  | .halt _ w => slotWf 0x0E w
  | .deferredPause _ => true
  | .refreshStarved _ => true
  | .ldsLd _ w => slotWf 0x01 w
  | .ldsSt _ w => slotWf 0x02 w
  | .ldsBfill _ w => slotWf 0x03 w
  | .sliceBeat _ => true
  | .sld _ w => slotWf 0x01 w
  | .sst _ w => slotWf 0x02 w
  | .vld _ w => slotWf 0x03 w
  | .vst _ w => slotWf 0x04 w
  | .trd _ w => slotWf 0x05 w
  | .bst _ w => slotWf 0x06 w
  | .lst _ w => slotWf 0x07 w
  | .opeMma _ w => slotWf 0x01 w
  | .opeUpdate _ => true
  | .poisonFaultDeadline _ => true
  | .opeLoad _ w => slotWf 0x02 w
  | .opeDrain _ w => slotWf 0x03 w
  | .mvpRun _ w => slotWf 0x01 w
  | .mvpProduct _ => true
  | .mvpDrain _ w => slotWf 0x02 w
  | .blend _ w => slotWf 0x01 w
  | .singleVectorOp _ _ => true
  | .netSend _ w => slotWf 0x01 w
  | .sendv _ w => slotWf 0x02 w
  | .netRecv _ w => slotWf 0x03 w
  | .recvv _ w => slotWf 0x04 w
  | .nop _ w => blendWf 0x00 w
  | .endBlend _ w => blendWf 0x01 w
  | .loop _ w => blendWf 0x02 w
  | .fadd _ w => blendWf 0x08 w
  | .fsub _ w => blendWf 0x09 w
  | .fmul _ w => blendWf 0x0A w
  | .fma _ w => blendWf 0x0B w
  | .fmin _ w => blendWf 0x0C w
  | .fmax _ w => blendWf 0x0D w
  | .fabs _ w => blendWf 0x0E w
  | .fneg _ w => blendWf 0x0F w
  | .fcmp _ w => blendWf 0x10 w
  | .sel _ w => blendWf 0x11 w
  | .mov _ w => blendWf 0x12 w
  | .exp2 _ w => blendWf 0x18 w
  | .log2 _ w => blendWf 0x19 w
  | .rcp _ w => blendWf 0x1A w
  | .rsq _ w => blendWf 0x1B w
  | .iadd _ w => blendWf 0x20 w
  | .isub _ w => blendWf 0x21 w
  | .imul _ w => blendWf 0x22 w
  | .andOp _ w => blendWf 0x23 w
  | .orOp _ w => blendWf 0x24 w
  | .xorOp _ w => blendWf 0x25 w
  | .shl _ w => blendWf 0x26 w
  | .shr _ w => blendWf 0x27 w
  | .shra _ w => blendWf 0x28 w
  | .icmp _ w => blendWf 0x29 w
  | .cvtf _ w => blendWf 0x30 w
  | .cvti _ w => blendWf 0x31 w
  | .cvtp _ w => blendWf 0x32 w
  | .mxq _ w => blendWf 0x33 w
  | .perm _ w => blendWf 0x38 w
  | .rsum _ w => blendWf 0x39 w
  | .rmax _ w => blendWf 0x3A w
  | .psum _ w => blendWf 0x3B w
  | .bins _ w => blendWf 0x3C w
  | .mfirst _ w => blendWf 0x3D w
  | .laneid _ w => blendWf 0x3E w
  | .blendLd _ w => blendWf 0x40 w
  | .blendSt _ w => blendWf 0x41 w
  | .sth _ w => blendWf 0x42 w
  | .sts _ w => blendWf 0x43 w
  | .bpset _ w => blendWf 0x47 w
  | .chw _ w => blendWf 0x44 w
  | .blendSend _ w => blendWf 0x45 w
  | .append _ w => blendWf 0x46 w
  | .rng _ w => blendWf 0x50 w
  | .tkclr _ w => blendWf 0x51 w
  | .tkin _ w => blendWf 0x52 w
  | .tkout _ w => blendWf 0x53 w
  | .routeEntryApply _ => true
  | .noFlit _ => true
  | .flitArrival _ _ _ _ => true
  | .crossingFrameArrival e m _ err => moduleWf e.val m.val && distinct (err.map (fun x => x.1.val))
  | .hubToTileSend _ _ => true
  | .baseRefreshWindow _ => true
  | .maintenanceBeat _ => true
  | .spareRowCopyDone _ => true
  | .zeroFillDone _ _ => true
  | .hbmGrant _ _ => true
  | .actWindowEnd _ _ => true
  | .dmaCopy _ => true
  | .dmaFill _ => true
  | .dmaGranuleMove _ _ _ => true
  | .descriptorEnd _ => true
  | .walkAppend _ => true
  | .appendEntryPlace _ => true
  | .poolPopRetry _ => true
  | .walkGather _ => true
  | .cacheRead _ _ n => decide (0 < n.val)
  | .cacheWrite _ _ data _ => decide (0 < data.length) && decide (data.length ≤ 128)
  | .atomicAdd _ _ _ _ => true
  | .atomicMin _ _ _ _ => true
  | .atomicMax _ _ _ _ => true
  | .atomicCas _ _ _ _ _ => true
  | .atomicSwap _ _ _ _ => true
  | .incw _ _ _ => true
  | .refinc _ _ => true
  | .refdec _ _ => true
  | .pop _ _ _ => true
  | .push _ _ _ _ => true
  | .red32 _ a xs _ => xs.length == 32 && decide (a.toNat % 128 = 0)
  | .red16 _ a xs _ => xs.length == 64 && decide (a.toNat % 128 = 0)
  | .cloveInstruction _ => true
  | .cbCopy _ _ => true
  | .cbFill _ _ => true
  | .cbCmp _ _ => true
  | .cbChsend _ _ => true
  | .cbChrecv _ _ => true
  | .cbChpoll _ _ => true
  | .chainMessageArrival _ _ => true
  | .cbFence _ _ => true
  | .cbAtom _ _ => true
  | .cbTraise _ _ => true
  | .cbDone _ _ => true
  | .cbWaitcmd _ _ => true
  | .commandPost _ _ _ => true
  | .cloveCopy _ => true
  | .cloveFill _ => true
  | .cloveCompare _ => true
  | .cloveGather _ => true
  | .clovePageCow _ => true
  | .cloveMigrate _ => true
  | .cloveScrub _ => true
  | .tenantEntry _ => true
  | .tenantTimeout _ => true
  | .collInstanceStart _ => true
  | .collSegmentSend _ => true
  | .collSegmentReceive _ _ => true
  | .collInstanceEnd _ => true
  | .collLimitExpiry _ => true
  | .stepLogWrite _ => true
  | .replicaPassStart _ => true
  | .replicaPassEnd _ => true
  | .replicaIntervalDeadline _ => true
  | .recoveryWindowClose _ => true
  | .frameReceive _ _ => true
  | .dataFrame _ => true
  | .ackFrame _ => true
  | .ackDelayTimer _ => true
  | .retransmitTimeout _ => true
  | .heartbeat _ => true
  | .heartbeatSend => true
  | .peerAbsent _ => true
  | .announce _ => true
  | .announceAck _ => true
  | .announceRepeat _ => true
  | .notice _ => true
  | .replica _ => true
  | .expel _ => true
  | .sessionIdleTimeout _ => true
  | .getVersion _ _ => true
  | .getCapabilities _ _ _ => true
  | .negotiateAlgorithms _ _ _ => true
  | .getDigests _ _ => true
  | .getCertificate _ _ _ => true
  | .challenge _ _ _ _ => true
  | .getMeasurements _ _ _ _ => true
  | .chunkGet _ => true
  | .keyExchange _ => true
  | .finish _ => true
  | .linkUp _ _ => true
  | .signalDetect _ => true
  | .signalLossTimeout _ => true
  | .portFaultEvent _ _ => true
  | .traceStreamWrite _ _ _ => true
  | .extest _ => true
  | .samplePreload _ => true
  | .idcode => true
  | .dtmcs => true
  | .dmi _ _ _ => true
  | .regacc _ => true
  | .memacc _ => true
  | .linkdbg _ => true
  | .bypass _ => true
  | .alwaysOnResetRelease => true
  | .powerOnReset => true
  | .refclk25mReturn => true
  | .perstRelease _ => true
  | .pcieLinkDown _ => true
  | .commandCompletes k => decide (k < 512)
  | .handoverComplete => true
  | .laneMapCommitDone _ _ => true
  | .entropyHealthRecovery => true
  | .partnerSessionRetry _ => true
  | .alertResponseAddressRead => true
  | .addressResolutionProtocol _ => true

end Sys2Proof
end

