-- ==== Sys2Proof/Tests/Slice0.lean ====
section
/-! SUPPORT. Tests: an ill-formed term for each check of well-formedness, one witness theorem for each statement with hypotheses (a
small concrete state and operands that meet the hypotheses of each of its clauses), and tests of single steps. -/

namespace Sys2Proof.Machine.Tests

/-! The tests are elaborated one after another: side by side, each kernel evaluation would hold a thread with a stack of its own. -/
set_option Elab.async false

open Sys2Proof.Machine

/-! ## Well-formedness -/

theorem test_wf_ring : (Instr.identify 511).wf = true ∧ (Instr.identify 512).wf = false := by decide
theorem test_wf_slot : (Instr.jmp 16383 0x080003FF).wf = true ∧ (Instr.jmp 0 0x10000000).wf = false := by decide
theorem test_wf_blend : (Instr.fadd 16383 0x0800000000000000).wf = true ∧ (Instr.fadd 0 0).wf = false := by decide
theorem test_wf_distinct :
    (Instr.pmbusPoll [(0, 0, 0, true), (1, 0, 0, true)]).wf = true ∧ (Instr.pmbusPoll [(1, 0, 0, true), (1, 1, 0, true)]).wf = false := by decide
theorem test_wf_sensor : (Instr.thermalSample 1 7 31 0).wf = true ∧ (Instr.thermalSample 1 8 0 0).wf = false ∧
    (Instr.thermalSample 2 15 0 0).wf = true ∧ (Instr.thermalSample 2 15 1 0).wf = false ∧
    (Instr.thermalSample 0 7 39 0).wf = true ∧ (Instr.thermalSample 0 8 0 0).wf = false := by decide
theorem test_wf_module : (Instr.linksStage [(9, 15, 1, 18)]).wf = true ∧ (Instr.linksStage [(10, 8, 0, 0)]).wf = false := by decide
theorem test_wf_lists :
    (Instr.powerSample (List.replicate 8 0) 0).wf = true ∧ (Instr.powerSample (List.replicate 7 0) 0).wf = false ∧
    (Instr.red32 0 128 (List.replicate 32 0) false).wf = true ∧ (Instr.red32 0 64 (List.replicate 32 0) false).wf = false ∧
    (Instr.red16 0 128 (List.replicate 64 0) false).wf = true ∧ (Instr.red16 0 128 (List.replicate 32 0) false).wf = false ∧
    (Instr.seqRestore 511 [(0, .ok, []), (1, .ok, [])]).wf = true ∧ (Instr.seqRestore 0 [(1, .ok, []), (1, .ok, [])]).wf = false := by decide
theorem test_wf_units :
    (Instr.railRecovery [(0, 1), (63, 1)]).wf = true ∧ (Instr.railRecovery [(63, 1), (63, 2)]).wf = false ∧
    (Instr.pmbAlert [(15, 0, 0, true)]).wf = true ∧ (Instr.pmbAlert [(15, 0, 0, true), (15, 0, 0, true)]).wf = false ∧
    (Instr.avsUpdate [(255, 0)]).wf = true ∧ (Instr.avsUpdate [(255, 0), (255, 1)]).wf = false ∧
    (Instr.memoryTestWave [] [] [] [(511, 1572863)] [] false).wf = true ∧ (Instr.memoryTestWave [] [] [] [(511, 1572864)] [] false).wf = false := by
  decide
theorem test_wf_ranges :
    (Instr.apertureRead 0 0xFFFFFF000 4096).wf = true ∧ (Instr.apertureRead 0 0xFFFFFF001 4096).wf = false ∧
    (Instr.apertureWrite 0 0xFFFFFFFFF [1] false).wf = true ∧ (Instr.apertureWrite 0 0 [] false).wf = false ∧
    (Instr.apertureWrite 0 0xFFFFFFFFF [1, 2] false).wf = false ∧
    (Instr.cacheRead 0 0 128).wf = true ∧ (Instr.cacheRead 0 0 0).wf = false ∧
    (Instr.cacheWrite 0 0 [1] false).wf = true ∧ (Instr.cacheWrite 0 0 [] false).wf = false ∧
    (Instr.crossingFrameArrival 13 7 1 [(71, 1)]).wf = true ∧ (Instr.crossingFrameArrival 13 8 1 []).wf = false ∧
    (Instr.crossingFrameArrival 13 7 1 [(71, 1), (71, 2)]).wf = false := by decide

/-! ## Witnesses: a core -/

/-- Whether a slot word acts. -/
def slotOk (s : State) (n slot : Nat) (w : Word) : Bool :=
  s.mayIssue n && slotLegal slot w && (s.slotFault n slot w).isNone && slotActs (s.core n) slot w
theorem slotActs_of {s : State} {n slot : Nat} {w : Word} (h : slotOk s n slot w = true) : SlotActs s n slot w := by
  simp only [slotOk, Bool.and_eq_true, Option.isNone_iff_eq_none] at h
  exact ⟨h.1.1.1, h.1.1.2, h.1.2, h.2⟩

/-- Whether a blend word acts. -/
def blendOk (s : State) (n : Nat) (b : BWord) : Bool :=
  s.mayIssue n && (s.core n).vec.blend.isNone && b.legal && (s.vecFault n b).isNone && (carriesPoison b.opc || !b.readsPoison (s.core n))
theorem blendActs_of {s : State} {n : Nat} {b : BWord} (h : blendOk s n b = true) : BlendActs s n b := by
  simp only [blendOk, Bool.and_eq_true, Option.isNone_iff_eq_none, Bool.or_eq_true, Bool.not_eq_true'] at h
  exact ⟨h.1.1.1.1, h.1.1.1.2, h.1.1.2, h.1.2, h.2⟩

/-- Whether a core has nothing in flight and is in no partition. -/
def quietOk (s : State) (n : Nat) : Bool :=
  (s.core n).seq.pend.isEmpty && (s.core n).eng.mmas.isEmpty && (s.core n).eng.mvps.isEmpty && (s.core n).eng.ports.isEmpty &&
  (match s.partOfCore n with | none => true | some p => !s.partIn p [.faulted])
theorem quiet_of {s : State} {n : Nat} (h : quietOk s n = true) : Quiet s n := by
  simp only [quietOk, Bool.and_eq_true, List.isEmpty_iff] at h
  refine ⟨h.1.1.1.1, h.1.1.1.2, h.1.1.2, h.1.2, fun p hp => ?_⟩
  have h2 := h.2
  rw [hp] at h2
  simpa using h2

/-- A blend word by its fields, opcode apart. -/
def bword (dst sa sb sc msk md imm : Nat) : DWord :=
  BitVec.ofNat 64 (dst * 2 ^ 51 + sa * 2 ^ 44 + sb * 2 ^ 37 + sc * 2 ^ 30 + msk * 2 ^ 28 + md * 2 ^ 16 + imm)

/-- After reset with core n's state given. -/
def coreState (n : Nat) (c : Core) : State := State.reset.setCore n c

/-- A core whose sequencer, vector or engine state is given. -/
def seqCore (q : SeqState) : Core := { Core.reset with seq := q }

/-- A list of slot words, with their opcodes, that all act. -/
def allAct (s : State) (n slot : Nat) (ws : List (Nat × Word)) : Prop := ∀ x ∈ ws, SlotActs s n slot (withOp x.2 x.1)
theorem allAct_of {s : State} {n slot : Nat} {ws : List (Nat × Word)}
    (h : ws.all (fun x => slotOk s n slot (withOp x.2 x.1)) = true) : allAct s n slot ws :=
  fun x hx => slotActs_of (List.all_eq_true.mp h x hx)

/-- A list of blend opcodes that all act with the word's other fields. -/
def allBlend (s : State) (n : Nat) (w : DWord) (os : List Nat) : Prop := ∀ o ∈ os, BlendActs s n (BWord.withOpc w o)
theorem allBlend_of {s : State} {n : Nat} {w : DWord} {os : List Nat}
    (h : os.all (fun o => blendOk s n (BWord.withOpc w o)) = true) : allBlend s n w os :=
  fun o ho => blendActs_of (List.all_eq_true.mp h o ho)

theorem witness_SeqScalar : Quiet State.reset 16383 ∧ allAct State.reset 16383 0
    [(0x07, 0x007FFF0B), (0x08, 0x007FFFFF), (0x06, 0x007CFFFF), (0x06, 0x007EFFFF), (0x0D, 0x007C001F), (0x09, 0x007FBFFF),
     (0x09, 0x007FC01F), (0x0A, 0x007BE000), (0x0A, 0x007FE000), (0x0B, 0x007FBE05), (0x0B, 0x007FFFF5), (0x0C, 0x007FC003),
     (0x02, 0x0070FFFF), (0x02, 0x0060001F)] ∧
    bits 0x007CFFFF 17 1 = 0 ∧ bits 0x007EFFFF 17 1 = 1 ∧ bits 0x007FBFFF 14 1 = 0 ∧ bits 0x007FC01F 14 1 = 1 ∧
    bits 0x007BE000 18 1 = 0 ∧ bits 0x007FE000 18 1 = 1 ∧ bits 0x007FBE05 14 1 = 0 ∧ bits 0x007FFFF5 14 1 = 1 ∧
    bits 0x0070FFFF 20 1 = 1 ∧ bits 0x0060001F 20 1 = 0 := by
  exact ⟨quiet_of (by decide +kernel), allAct_of (by decide +kernel), by decide +kernel⟩

/-- Core 16383 with loop counters 2 and 1, tokens 255, 254 and 65280. -/
def loopState : State :=
  coreState 16383 (seqCore { SeqState.reset with l := [(2, 1), (3, 2)], k := [(13, 65280), (14, 254), (15, 255)] })

theorem witness_SeqControl : Quiet loopState 16383 ∧
    allAct loopState 16383 0 [(0x01, 0x3FF), (0x03, 0x6003FF), (0x03, 0x4003FF), (0x04, 0x7800FF), (0x04, 0x7000FF), (0x05, 0x6800FF), (0x0E, 0)] ∧
    1 < (loopState.core 16383).l (bits 0x6003FF 21 2) ∧ (loopState.core 16383).l (bits 0x4003FF 21 2) ≤ 1 ∧
    (loopState.core 16383).waitPends (bits 0x7800FF 19 4) (bits 0x7800FF 0 8) (loopState.realNow 16383) = false ∧
    (loopState.core 16383).waitPends (bits 0x7000FF 19 4) (bits 0x7000FF 0 8) (loopState.realNow 16383) = true := by
  exact ⟨quiet_of (by decide +kernel), allAct_of (by decide +kernel), by decide +kernel⟩

theorem witness_BlendFloat : Quiet State.reset 16383 ∧
    allBlend State.reset 16383 (bword 31 31 0x5F 0 0 0 0) [0x08, 0x09, 0x0A, 0x0C, 0x0D] ∧
    allBlend State.reset 16383 (bword 31 31 31 0x31 3 0 0) [0x0B] ∧
    allBlend State.reset 16383 (bword 31 0x7F 0 0 3 0 65535) [0x0E, 0x0F, 0x18, 0x19, 0x1A, 0x1B, 0x30, 0x31] := by
  exact ⟨quiet_of (by decide +kernel), allBlend_of (by decide +kernel), allBlend_of (by decide +kernel), allBlend_of (by decide +kernel)⟩

theorem witness_BlendInteger : Quiet State.reset 16383 ∧
    allBlend State.reset 16383 (bword 31 31 0x7F 0 3 0 65535) [0x20, 0x21, 0x22, 0x23, 0x24, 0x25, 0x26, 0x27, 0x28] ∧
    allBlend State.reset 16383 (bword 31 0x31 0 0 3 0 0) [0x12, 0x38] ∧ allBlend State.reset 16383 (bword 31 31 31 0 3 3 0) [0x11] ∧
    allBlend State.reset 16383 (bword 31 0 0 0 3 3 0) [0x3D] ∧ allBlend State.reset 16383 (bword 31 0 0 0 3 0 0) [0x3E] := by
  exact ⟨quiet_of (by decide +kernel), allBlend_of (by decide +kernel), allBlend_of (by decide +kernel), allBlend_of (by decide +kernel),
    allBlend_of (by decide +kernel), allBlend_of (by decide +kernel)⟩

theorem witness_BlendReduce : Quiet State.reset 16383 ∧
    allBlend State.reset 16383 (bword 31 31 0 0 0 0 0) [0x39, 0x3A, 0x3B] ∧ (BWord.ofWord (bword 31 31 0 0 0 0 0)).m 16 1 = 0 ∧
    allBlend State.reset 16383 (bword 31 31 0 0 0 1 0) [0x39, 0x3A] ∧ (BWord.ofWord (bword 31 31 0 0 0 1 0)).m 16 1 ≠ 0 ∧
    ((State.reset.core 16383).src true 31 0).length = 32 ∧
    allBlend State.reset 16383 (bword 3 31 31 0 3 5 0) [0x10, 0x29] ∧
    allBlend State.reset 16383 (bword 31 31 0 0 3 0x980 0) [0x32] ∧ (Fmt.ofCode ((BWord.ofWord (bword 31 31 0 0 3 0x980 0)).m 24 4)).isSome = true ∧
    allBlend State.reset 16383 (bword 31 31 0 0 0 0x600 0) [0x33] ∧ (Fmt.ofCode ((BWord.ofWord (bword 31 31 0 0 0 0x600 0)).m 24 4)).isSome = true ∧
    allBlend State.reset 16383 (bword 31 0x5F 0x5F 0 0 1 65535) [0x50] ∧ allBlend State.reset 16383 (bword 31 0 0 0 3 3 0) [0x53] ∧
    allBlend State.reset 16383 0 [0x51] ∧ allBlend State.reset 16383 (bword 0 31 0x7F 0 3 0 65535) [0x52] := by
  exact ⟨quiet_of (by decide +kernel), allBlend_of (by decide +kernel), by decide +kernel, allBlend_of (by decide +kernel), by decide +kernel,
    by decide +kernel, allBlend_of (by decide +kernel), allBlend_of (by decide +kernel), by decide +kernel, allBlend_of (by decide +kernel), by decide +kernel,
    allBlend_of (by decide +kernel), allBlend_of (by decide +kernel), allBlend_of (by decide +kernel), allBlend_of (by decide +kernel)⟩

theorem witness_BlendMemory : Quiet State.reset 16383 ∧ (State.reset.core 16383).vec.blend = none ∧
    allBlend State.reset 16383 (bword 31 0 0 0 3 0xF30 12286) [0x40] ∧ allBlend State.reset 16383 (bword 0 31 0 0 0 0x330 12286) [0x41] ∧
    allBlend State.reset 16383 (bword 0 31 0 0 0 0x330 12287) [0x42] ∧ allBlend State.reset 16383 (bword 0 31 0 0 0 0x330 32766) [0x43] ∧
    allBlend State.reset 16383 (bword 0 0x7F 0 0 0 0x30 65535) [0x47] ∧ allBlend State.reset 16383 (bword 31 31 0 0 3 0 127) [0x3C] ∧
    allBlend State.reset 16383 (bword 0 31 0 0 0 1 0) [0x45] ∧ allBlend State.reset 16383 (bword 0 31 15 0 0 0xFF3 16383) [0x46] ∧
    allBlend State.reset 16383 (bword 0 31 0 0 0 0x981 7) [0x44] ∧ (Fmt.ofCode ((BWord.ofWord (bword 0 31 0 0 0 0x981 7)).m 24 4)).isSome = true ∧
    State.reset.mayIssue 16383 = true ∧ (BWord.withOpc (bword 0 0 0 0 0 0 65535) 0).legal = true ∧ (BWord.withOpc 0 1).legal = true ∧
    (BWord.withOpc (bword 0 0x7F 0 0 0 0x1FF 65535) 2).legal = true := by
  exact ⟨quiet_of (by decide +kernel), by decide +kernel, allBlend_of (by decide +kernel), allBlend_of (by decide +kernel), allBlend_of (by decide +kernel),
    allBlend_of (by decide +kernel), allBlend_of (by decide +kernel), allBlend_of (by decide +kernel), allBlend_of (by decide +kernel),
    allBlend_of (by decide +kernel), allBlend_of (by decide +kernel), by decide +kernel⟩

/-- A run at the last word of its blend. -/
def lastRun : BlendRun := ⟨510, 1, 511, 0, []⟩
def blendState : State := coreState 16383 { Core.reset with vec := { VecState.reset with blend := some lastRun } }

/-- Partition 63 runs, with a blend on its core 16383. -/
def beyondState (r : BlendRun) : State :=
  { State.reset with
    devFacet := { DevFacet.null with parts := [(63, ⟨true, 2 ^ 255, 0, 0, 0, 0, 0, 0, 0, 0⟩)] }
    parts := [(63, { Partition.reset with state := .running })] }.setCore 16383 { Core.reset with vec := { VecState.reset with blend := some r } }
def blendRunState (r : BlendRun) : State := coreState 16383 { Core.reset with vec := { VecState.reset with blend := some r } }

theorem witness_BlendSequence : Quiet blendState 16383 ∧ blendState.mayIssue 16383 = true ∧ (blendState.core 16383).vec.blend = some lastRun ∧
    (lastRun.idle = 0 ∧ lastRun.entry + 1 ≤ lastRun.word ∧ lastRun.word ≤ lastRun.entry + lastRun.len) ∧ lastRun.loops = [] ∧
    (let r : BlendRun := ⟨510, 1, 511, 1, []⟩
     Quiet (blendRunState r) 16383 ∧ (blendRunState r).mayIssue 16383 = true ∧ ((blendRunState r).core 16383).vec.blend = some r ∧ 0 < r.idle) ∧
    (BWord.withOpc 0 1).legal = true ∧ (BWord.withOpc (bword 0 0 0 0 0 0 65535) 0).legal = true ∧
    (BWord.withOpc (bword 0 0x7F 0 0 0 0x1FF 65535) 2).legal = true ∧ (BWord.ofWord (bword 0 0x7F 0 0 0 0x1FF 65535)).sa = 0x7F ∧
    0 < (BWord.ofWord (bword 0 0x7F 0 0 0 0x1FF 65535)).m 16 8 ∧ 0 < (BWord.ofWord (bword 0 0x7F 0 0 0 0x1FF 65535)).imm ∧
    (let r : BlendRun := ⟨510, 1, 512, 0, []⟩
     Quiet (beyondState r) 16383 ∧ (beyondState r).mayIssue 16383 = true ∧ ((beyondState r).core 16383).vec.blend = some r ∧ r.idle = 0 ∧
       r.entry + r.len < r.word ∧ (beyondState r).partOfCore 16383 = some 63 ∧ ((beyondState r).part 63).state = .running ∧
       bits ((beyondState r).reg (Reg.faultPc 16383)) 31 1 = 0 ∧ bits ((beyondState r).reg (Reg.engineStatus 16383)) 8 8 = 0) := by
  exact ⟨quiet_of (by decide +kernel), by decide +kernel, by decide +kernel, by decide +kernel, by decide +kernel,
    ⟨quiet_of (by decide +kernel), by decide +kernel⟩, by decide +kernel, by decide +kernel, by decide +kernel, by decide +kernel, by decide +kernel,
    by decide +kernel, quiet_of (by decide +kernel), by decide +kernel⟩

/-- Core 16383 with its address registers at the last row and the last pair of rows of its SRAM, and at its slice's last beat. -/
def addrState : State := coreState 16383 { seqCore { SeqState.reset with
    s := [(30, 13088), (31, 1)], a := [(0, 0x2FFE0), (1, 1023), (2, 508), (3, 0x2FFC0), (4, 0xFFFFE0), (15, 0x2FC00)] } with
  recvq := [(0, Flit.empty)], sendq := [Flit.empty, Flit.empty, Flit.empty] }

theorem witness_SrmSlot : Quiet addrState 16383 ∧ allAct addrState 16383 2
    [(1, 0x7C0007), (2, 0x7C2007), (3, 0x7C1800), (4, 0x7C3800), (5, 0x7FBE00), (6, 0x080000), (7, 0x100000), (6, 0x082000), (7, 0x102000)] ∧
    bits 0x080000 13 1 = 0 ∧ bits 0x100000 13 1 = 0 ∧ bits 0x082000 13 1 = 1 ∧ bits 0x102000 13 1 = 1 := by
  exact ⟨quiet_of (by decide +kernel), allAct_of (by decide +kernel), by decide +kernel⟩

theorem witness_LdsSlot : Quiet addrState 16383 ∧ allAct addrState 16383 1 [(1, 0x202000), (2, 0x201F00), (3, 0x20E000)] := by
  exact ⟨quiet_of (by decide +kernel), allAct_of (by decide +kernel)⟩

theorem witness_NetSlot : Quiet addrState 16383 ∧ allAct addrState 16383 6 [(1, 0xE000), (2, 0x7C0001), (3, 0xE000), (4, 0x7C0001)] ∧
    (addrState.core 16383).sendq.length < 4 ∧ (addrState.core 16383).recvq = (0, Flit.empty) :: [] ∧ 0 ≤ (addrState.core 16383).seq.now ∧
    Quiet State.reset 0 ∧ allAct State.reset 0 6 [(4, 0x7C0001)] ∧ (∀ q ∈ (State.reset.core 0).recvq, (State.reset.core 0).seq.now < q.1) ∧
    (let s := coreState 0 { Core.reset with recvq := [(1, Flit.empty)] }
     Quiet s 0 ∧ allAct s 0 6 [(4, 0x7C0001)] ∧ ∀ q ∈ (s.core 0).recvq, (s.core 0).seq.now < q.1) := by
  exact ⟨quiet_of (by decide +kernel), allAct_of (by decide +kernel), by decide +kernel, by decide +kernel, by decide +kernel,
    quiet_of (by decide +kernel), allAct_of (by decide +kernel), by decide +kernel,
    quiet_of (by decide +kernel), allAct_of (by decide +kernel), by decide +kernel⟩

/-- Core 16383 holds a header of one word in the last but one word of its blend memory. -/
def headerState : State :=
  { State.reset with mem := ⟨[(coreWindow 16383 + blendOff + 8 * 510, 1), (coreWindow 16383 + blendOff + 8 * 510 + 3, 0xF0)], [], []⟩ }

theorem witness_VecSlot : Quiet headerState 16383 ∧ allAct headerState 16383 5 [(1, 510)] ∧
    (headerState.fetchBlend 16383 510).1 = some 0xF0000001 ∧
    SlotActs headerState 16383 5 (setBits 0x11F3E7F0 31 1 1) := by
  exact ⟨quiet_of (by decide +kernel), allAct_of (by decide +kernel), by decide +kernel, slotActs_of (by decide +kernel)⟩

/-- Core 16383 with descriptors 0 of a panel, 1 of activations and 2 of an OPE operand, and with control words. -/
def engState : State :=
  { coreState 16383 (seqCore { SeqState.reset with s := [(30, 65535), (31, 32)], a := [(15, 0x2FC00)] }) with
    mem := ⟨[(coreWindow 16383 + 1, 0x08), (coreWindow 16383 + 17, 0x04)], [], []⟩ }

/-- An operation of issue cycle 0. -/
def opAt (w ctl : Word) (a b : BitVec 128) : EngineOp := ⟨w, ctl, 0, 0, a, b, 0, 0, 0, [], [], 0⟩
/-- Core 16383 in a cycle, with engine operations in flight. -/
def opState (now : Nat) (mmas mvps ports : List EngineOp) : State :=
  coreState 16383 { seqCore { SeqState.reset with now := now } with eng := { EngState.reset with mmas := mmas, mvps := mvps, ports := ports } }

theorem witness_EngineSlots : (Quiet engState 16383 ∧ (engState.core 16383).eng.drains = [] ∧
      allAct engState 16383 3 [(1, 0x612401), (2, 0x6F0000), (3, 0x780000)] ∧ allAct engState 16383 4 [(1, 0x8FF), (2, 0x700000)]) ∧
    (let o := opAt 0x08000000 0 0 0
     (opState 5 [o] [] []).coreFree 16383 = true ∧ (opState 5 [o] [] []).routerDone 16383 = true ∧
       ((opState 5 [o] [] []).core 16383).eng.mmas = [o] ∧ o.a.src ≠ 2 ∧ o.b.src ≠ 2 ∧ o.k < o.mmaU ∧ o.updWin.1 + o.k ≤ 5) ∧
    (let o := opAt 0x08000000 1 0x800 0x400
     (opState 6 [] [o] []).coreFree 16383 = true ∧ o.a.f.isVq = false ∧ ((opState 6 [] [o] []).core 16383).eng.mvps = [o] ∧ o.k < mvpK o.ctl ∧
       o.start + o.runL + o.stepCycle ((opState 6 [] [o] []).fastClock 16383) o.k ≤ 6 ∧ o.beatsHere o.k = true) ∧
    (let o := opAt 0x08002001 2 0 0
     (opState 64 [] [] [o]).coreFree 16383 = true ∧ ((opState 64 [] [] [o]).core 16383).eng.mvps = [] ∧
       ((opState 64 [] [] [o]).core 16383).eng.ports = [o] ∧ o.beats + 1 < o.beatCount ∧
       o.beatAt ((opState 64 [] [] [o]).fastClock 16383) ≤ 64) ∧
    (let o := opAt 0x08000000 (1 <<< 19) 0x2000 0
     (opState 6 [o] [] []).coreFree 16383 = true ∧ ((opState 6 [o] [] []).core 16383).eng.mmas = [o] ∧ o.a.src = 2 ∧ o.b.src ≠ 2 ∧ flitsSeen o.rowsA = 0 ∧ flitCount o.a (mmaK o.ctl) = 1 ∧ o.flitEnd o.a 0 < 6) := by
  exact ⟨⟨quiet_of (by decide +kernel), by decide +kernel, allAct_of (by decide +kernel), allAct_of (by decide +kernel)⟩, by decide +kernel⟩

/-! ## Witnesses: partitions and slices -/

/-- The last of everything: block 255, channels 510 and 511, key slot 127, engines 127 and 191, collective context 63. -/
def lastRec : PartRec := ⟨true, 2 ^ 255, 2 ^ 511 + 2 ^ 510, 2 ^ 127, 2 ^ 191 + 2 ^ 127, 2 ^ 63, 0x7FFF0, 16, 0x3FF, 1⟩
/-- A device facet whose partition 63 has the last of everything. -/
def lastFacet : DevFacet := { DevFacet.null with parts := [(63, lastRec)] }
/-- After reset with that device facet and partition 63 as given; its pacing core is 14584. -/
def partState (x : Partition) : State := { State.reset with devFacet := lastFacet, parts := [(63, x)] }
def runPart : Partition := { Partition.reset with state := .running }
/-- The partition, with its pacing core's sequencer. -/
def paceState (x : Partition) (q : SeqState) : State := (partState x).setCore 14584 (seqCore q)
def runSeq : SeqState := { SeqState.reset with running := true, next := 1023 }

/-- Whether core 14584 is ready for its next cycle in partition 63. -/
def readyOk (s : State) : Bool :=
  s.partOfCore 14584 == some 63 && s.coreMay 14584 && !s.starved 63 (s.core 14584).seq.now && (s.core 14584).seq.running

theorem witness_Sequencer :
    (let s := paceState runPart { runSeq with halted := true }
     readyOk s = true ∧ (s.core 14584).seq.testBusy = 0 ∧ (s.core 14584).seq.halted = true ∧ (s.core 14584).vec.blend = none) ∧
    (let s := paceState runPart runSeq
     Quiet s 14584 ∧ readyOk s = true ∧ (s.core 14584).seq.testBusy = 0 ∧ (s.core 14584).seq.halted = false ∧ (s.core 14584).seq.repLeft = 0 ∧
       (s.core 14584).vec.blend = none ∧ s.fetchBundle 14584 1023 = (some (List.replicate 32 0), s) ∧ bundleWord (List.replicate 32 0) 0 = 0) ∧
    (let s := paceState runPart { runSeq with testBusy := 1 }
     readyOk s = true ∧ 0 < (s.core 14584).seq.testBusy ∧ (s.core 14584).seq.testLeft = false) ∧
    (let s := paceState runPart { runSeq with testBusy := 2, testLeft := true }
     Quiet s 14584 ∧ readyOk s = true ∧ 1 < (s.core 14584).seq.testBusy ∧ s.mayIssue 14584 = false) ∧
    (let x : Wait := ⟨15, 255, 1, 0, 0, 0⟩
     let s := paceState runPart { runSeq with waits := [x], k := [(15, 255)], now := 1 }
     s.partOfCore 14584 = some 63 ∧ readyWait (s.core 14584) (s.realNow 14584) (s.core 14584).seq.waits [] = some x ∧
       (s.core 14584).bad (parK x.tok) = false ∧ s.performs 63 (s.core 14584).seq.now = true) ∧
    (let x : Wait := ⟨15, 255, 0, 0, 0, 0⟩
     let s := paceState { runPart with haltCut := some 1 } { runSeq with waits := [x], k := [(15, 255)], now := 1 }
     s.partOfCore 14584 = some 63 ∧ readyWait (s.core 14584) (s.realNow 14584) (s.core 14584).seq.waits [] = some x ∧
       (s.core 14584).bad (parK x.tok) = false ∧ s.performs 63 (s.core 14584).seq.now = false ∧ x.at_ < s.realNow 14584) ∧
    (let s := paceState runPart { runSeq with testLeft := true, testBusy := 1 }
     Quiet s 14584 ∧ s.partOfCore 14584 = some 63 ∧ (s.core 14584).seq.testLeft = true ∧ (s.core 14584).seq.testBusy = 1 ∧
       s.coreMay 14584 = true ∧ (s.part 63).state = .running) := by
  exact ⟨by decide +kernel, ⟨quiet_of (by decide +kernel), by decide +kernel⟩, by decide +kernel, ⟨quiet_of (by decide +kernel), by decide +kernel⟩,
    by decide +kernel, by decide +kernel, quiet_of (by decide +kernel), by decide +kernel⟩

theorem witness_PartitionPauses :
    (let s := paceState { runPart with plead := 0, facet := { Facet.none with glob := { Globals.none with refoff := 4095 } } }
       { runSeq with waits := [⟨15, 255, 0, 0, 0, 0⟩] }
     (s.part 63).state = .running ∧ s.waitPauses 63 (s.uOf 63 + (s.part 63).pauseTotal) = true ∧ s.waitReady 63 = false ∧
       (s.part 63).brownout = false ∧
       s.throttleDue 63 (s.uOf 63) = false ∧ s.deferredDue 63 (s.uOf 63) = false) ∧
    (let s := paceState { runPart with deferred := some (0, 192, some 8), pauseBase := (15, 0) } { runSeq with now := 16 }
     (s.part 63).state = .running ∧ s.deferredDue 63 (s.uOf 63) = true ∧ (s.part 63).brownout = false ∧ s.throttleDue 63 (s.uOf 63) = false ∧
       (s.part 63).deferred = some (0, 192, some 8) ∧ (s.part 63).pauseBase.1 ≠ s.uOf 63) ∧
    (let s := { paceState runPart { runSeq with now := 4096 } with regs := [(Reg.throttle 63, 7 <<< 29)] }
     (s.part 63).state = .running ∧ s.throttleDue 63 (s.uOf 63) = true ∧ (s.part 63).brownout = false ∧ (s.part 63).pauseBase.1 ≠ s.uOf 63) ∧
    (let x : Partition := { runPart with band := 3, facet := { Facet.none with glob := { Globals.none with refoff := 4095 } } }
     let s := paceState x { runSeq with now := 4095 }
     (s.part 63).state = .running ∧ s.uOf 63 % 4096 = (s.part 63).facet.glob.refoff % 4096 ∧ bandPause (s.part 63).band ≠ 0 ∧
       (s.part 63).windowAt ≠ s.uOf 63 + 1 ∧ (s.part 63).deferred = none ∧
     (let s := paceState { x with deferred := some (0, 192, none) } { runSeq with now := 4095 }
      (s.part 63).state = .running ∧ s.uOf 63 % 4096 = (s.part 63).facet.glob.refoff % 4096 ∧ bandPause (s.part 63).band ≠ 0 ∧
        (s.part 63).windowAt ≠ s.uOf 63 + 1 ∧ (s.part 63).deferred = some (0, 192, none)) ∧
     (let s := paceState { x with windowAt := 4096 } { runSeq with now := 4095 }
      (s.part 63).state = .running ∧ (s.part 63).windowAt = s.uOf 63 + 1)) := by
  decide +kernel

theorem witness_PartitionFaultTimers :
    (let w : Wait := ⟨15, 255, 0, 0, 0, 0⟩
     let s := { paceState runPart { runSeq with waits := [w] } with timebase := 2 ^ 63 }
     (s.part 63).state = .running ∧ s.partOfCore 14584 = some 63 ∧ w ∈ (s.core 14584).seq.waits ∧ w.since + s.waitLimit 14584 < s.timebase ∧
       bits (s.reg (Reg.faultPc 14584)) 31 1 = 0 ∧ bits (s.reg (Reg.engineStatus 14584)) 8 8 = 0) ∧
    (let s := paceState { runPart with deferred := some (0, 192, none) } { runSeq with now := 4096 }
     (s.part 63).state = .running ∧ s.pacing 63 = 14584 ∧ s.partOfCore (s.pacing 63) = some 63 ∧ s.starved 63 (s.uOf 63) = true ∧
       s.coreMay 14584 = true ∧ (s.core 14584).vec.blend = none ∧
       bits (s.reg (Reg.faultPc 14584)) 31 1 = 0 ∧ bits (s.reg (Reg.engineStatus 14584)) 8 8 = 0) ∧
    Quiet (paceState { runPart with deferred := some (0, 192, none) } { runSeq with now := 4096 }) 14584 ∧
    (let s := partState { runPart with consumed := some (5, 16383), lastMark := some 5 }
     let t := s.setCore 16383 (seqCore { SeqState.reset with now := 6 })
     (s.part 63).state = .running ∧ (s.part 63).consumed = some (5, 16383) ∧ (s.part 63).lastMark = some 5 ∧
       s.farthest 63 < min (5 + 1) (5 + 2097153) ∧ (t.part 63).state = .running ∧ (t.part 63).consumed = some (5, 16383) ∧
       (t.part 63).lastMark = some 5 ∧ min (5 + 1) (5 + 2097153) ≤ t.farthest 63 ∧ bits (t.reg (Reg.faultPc 16383)) 31 1 = 0 ∧
       bits (t.reg (Reg.engineStatus 16383)) 8 8 = 0) ∧
    (let s := partState { runPart with consumed := some (6, 16383), lastMark := some 5 }
     let t := s.setCore 16383 (seqCore { SeqState.reset with now := 6 + 2097153 })
     ¬ (6 ≤ 5) ∧ (s.part 63).consumed = some (6, 16383) ∧ s.farthest 63 < 6 + 2097153 ∧ 6 + 2097153 ≤ t.farthest 63) := by
  exact ⟨by decide +kernel, by decide +kernel, quiet_of (by decide +kernel), by decide +kernel⟩

theorem witness_SliceMaintenance :
    (let k : Scrub := { beat := 524286, last := 524287, corrected := 0, uncorr := 0, firstBad := none, spared := 0, marks := [] }
     let s := { State.reset with slices := [(16383, { Slice.reset with scrub := some k })], blocks := [(255, { Block.reset with state := .retain })] }
     s.partOfCore 16383 = none ∧ (s.block (blockOf 16383)).state = .retain ∧ (s.slice 16383).pass = none ∧ (s.slice 16383).copy = none ∧
       (s.slice 16383).toSpare = [] ∧ (s.slice 16383).scrub = some k ∧ k.beat < k.last) ∧
    (let s := { State.reset with slices := [(16383, { Slice.reset with copy := some (16895, 512) })] }
     s.partOfCore 16383 = none ∧ (s.slice 16383).copy = some (16895, 512)) := by
  decide +kernel

/-! ## Witnesses: the mesh, the channels and the common cache -/

/-- A harmless flit. -/
def okFlit : Flit := Flit.mk' 1 false
/-- The last router with a flit on the way to its west input. -/
def arriveState : State := { State.reset with routers := [(16383, { Router.reset with arriving := [(3, 0, okFlit)] })] }
/-- Partition 63 with its last router's program at the last entry, which sends input S out of port N. -/
def routeState : State :=
  { partState runPart with
    routers := [(16127, { Router.reset with running := true, pc := 1023, input := [(2, okFlit)] })],
    mem := ⟨[(coreWindow 16127 + routeOff + 8 * 1023 + 7, 0x60)], [], []⟩ }

theorem witness_MeshFlits :
    ((arriveState.router 16383).arriving.find? (fun a => a.1 == 3 && decide (a.2.1 ≤ (arriveState.router 16383).now)) = some (3, 0, okFlit) ∧
      okFlit.valid = 3 ∧ okFlit.crc = Flit.sum okFlit.pay okFlit.poison ∧ okFlit.crc ≠ Flit.sum (okFlit.pay ^^^ (1 <<< 511)) okFlit.poison) ∧
    (let f : XFrame := ⟨1, 7, 28, okFlit, none⟩
     let s := { State.reset with xings := [(xingId 13 7, ⟨[f], []⟩)], routers := [(8191, { Router.reset with now := 28 })] }
     (s.xing (xingId 13 7)).frames.find? (fun g => g.dir == 1 && decide (g.arrive ≤ (s.router (xingRouter 13 7 1 g.lane)).now)) = some f ∧
       f.src = none ∧ xingFar 13 7 1 f.lane = some (8191, 2)) ∧
    ¬ (13 % 5 = 0 ∧ 13 < 10 ∧ 1 = 0) ∧ ¬ (13 % 5 = 4 ∧ 13 < 10 ∧ 1 = 1) ∧
    (let s := { partState runPart with
       attach := [(hubAtt 1 63, { Attach.reset with queue := [(okFlit, 1)], free := 1 })]
       routers := [(16383, { Router.reset with now := 10 })] }
     s.partOfCore 16383 = some 63 ∧ coreAt 255 63 = 16383 ∧ (s.att (hubAtt 1 63)).queue = (okFlit, 1) :: [] ∧ (s.att (hubAtt 1 63)).free ≠ 0 ∧
       s.mayAct 63 (s.router 16383).now = true ∧ s.slotFor (rowEdge 4 63) 1 (rowLane 63) (s.router 16383).now (rowMods 63) = some 14 ∧
       (s.xing (xingId (rowEdge 4 63) 14)).frames.any (fun g => g.dir == 1 && g.arrive == (s.router 16383).now + 28) = false) ∧
    (let s := routeState
     let r := s.router 16127
     s.partOfCore 16127 = some 63 ∧ r.running = true ∧ s.mayAct 63 r.now = true ∧ r.halted = false ∧ r.runLeft = 0 ∧
       r.arriving.any (fun a => decide (a.2.1 ≤ r.now)) = false ∧ s.framesDue 16127 r.now = false ∧
       s.hubSendDue 16127 = false ∧ s.readAhead 16127 = s ∧ s.fetchRoute 16127 r.pc true = (some ⟨[3, 0, 0, 0, 0, 0, 0], 0, 0, 0, 0, 0, 0, 0⟩, s) ∧ attOf 16127 2 = none ∧
       s.inputOf 16127 2 = okFlit ∧ okFlit.valid ≠ 0 ∧ s.unrouted 16127 [3, 0, 0, 0, 0, 0, 0] = [] ∧ s.fenced 16127 0 = false ∧
       linkOf 16127 0 = .router 15871 2 ∧ (15871 : Nat) ≠ 16127) := by
  refine ⟨?_, ?_, ?_, ?_, ?_, ?_⟩ <;> decide +kernel

theorem witness_HbmChannel :
    384 < 385 ∧ 288 ≤ 288 ∧ (({ State.reset with chans := [(511, { Chan.reset with calm := 3 })] } : State).chan 511).calm = 3 ∧
    (State.reset.chan 511).calm < 3 ∧ (State.reset.chan 511).pass = none ∧
    (grantOwner (({ State.reset with chans := [(511, { Chan.reset with grant := 17 })] } : State).chan 511).grant = some 2 ∧
      State.reset.reqClass 0x7F = 2 ∧ 2 ≠ 3) ∧
    (let s := { State.reset with chans := [(511, { Chan.reset with grant := 3 })],
                                 engines := [(127, { Engine.reset with desc := BitVec.ofNat 512 (2 + 0x40 * 2 ^ 8) })] }
     grantOwner (s.chan 511).grant = some 1 ∧ s.reqClass 0xFF = 1) ∧
    (({ State.reset with blocks := [(255, { Block.reset with fillSlice := true, fillCore := true })] } : State).block 255).fillSlice = true ∧
    (({ State.reset with blocks := [(255, { Block.reset with fillSlice := true, fillCore := true })] } : State).block 255).fillCore = true := by
  decide +kernel

/-- Whether a request reaches a device address. -/
def reachesOk (s : State) (r a n : Nat) (acc : Acc) (who : Option Nat) (d : Nat) : Bool :=
  s.reqRange r a n acc == some d && s.reqPart r == who && !s.svcLost (reqDie r) (8 + homeHub d)
theorem reaches_of {s : State} {r a n d : Nat} {acc : Acc} {who : Option Nat} (h : reachesOk s r a n acc who d = true) :
    Reaches s r a n acc who d := by
  simp only [reachesOk, Bool.and_eq_true, beq_iff_eq, Bool.not_eq_true'] at h
  exact ⟨h.1.1, h.1.2, h.2⟩

/-- A window-table entry: partition units from pb, device units from db, n of 64 KiB, its type and permissions. -/
def windowOf (pb db n flags : Nat) : Nat := db * 2 ^ 96 + n * 2 ^ 64 + pb * 2 ^ 32 + flags
/-- Partition 63 with one window of scratch at 0, which it may read, write and use for atomics. -/
def windowPart : Partition :=
  { runPart with facet := { Facet.none with memmap := [windowOf 0 (0x20003FF0000 / 0x10000) 1 0x9D, windowOf 1 0x13FFFFF 1 0x8C] } }
def windowState : State := { partState windowPart with mem := ⟨[(0x20003FFFFFE, 0xFF), (0x20003FFFFFF, 0xFF)], [], []⟩ }

theorem witness_CacheAccess : hubAgent 79 = true ∧ hubAgent 0 = true ∧
    Reaches State.reset 0 0x20003FFFF80 128 .read none 0x20003FFFF80 ∧ Reaches windowState 79 0xFF80 128 .write (some 63) 0x20003FFFF80 ∧
    0x20003FFFF80 % unitBytes 0x20003FFFF80 = 0 ∧ 128 % unitBytes 0x20003FFFF80 = 0 ∧ windowState.upsets = [] ∧
    (let s := { windowState with upsets := [.parity (homeHub 0x20003FFFFC0)] }
     Reaches s 79 0xFFC0 64 .write (some 63) 0x20003FFFFC0 ∧ isScratch 0x20003FFFFC0 = true ∧ 0x20003FFFFC0 % 64 + 64 ≤ 64 ∧
       0x20003FFFFC0 % 8 = 0 ∧ 64 % 8 = 0 ∧ s.upsets = [.parity (homeHub 0x20003FFFFC0)]) ∧
    (∀ i, i < 128 → windowState.hbmLost (0x20003FFFF80 + i) = false) ∧
    (let s := { State.reset with loupe := { State.reset.loupe with features := 4 }, upsets := [.crypt (chanOfAddr 0x13FFFFFFFC0)] }
     Reaches s 0 0x13FFFFFFFC0 64 .write none 0x13FFFFFFFC0 ∧ isHbm 0x13FFFFFFFC0 = true ∧ s.hbmLost 0x13FFFFFFFC0 = false ∧
       0x13FFFFFFFC0 % 64 + 64 ≤ 64 ∧ s.encrypts = true ∧ s.upsets = [.crypt (chanOfAddr 0x13FFFFFFFC0)]) ∧
    State.reset.reqRange 0 0x20004000000 128 .read = none ∧ windowState.reqRange 79 0x1FFFF 2 .read = none ∧
    windowState.partOfReq 79 = some 63 ∧ State.reset.partOfReq 79 = none := by
  exact ⟨by decide +kernel, by decide +kernel, reaches_of (by decide +kernel), reaches_of (by decide +kernel), by decide +kernel, by decide +kernel,
    by decide +kernel, ⟨reaches_of (by decide +kernel), by decide +kernel⟩, by decide +kernel, ⟨reaches_of (by decide +kernel), by decide +kernel⟩,
    by decide +kernel⟩

/-- Which hops a pair of dies needs is open: with one of them failed, the request is lost. -/
theorem witness_CacheAccess_lost (h : (Config.svcPath 8 (8 + homeHub 0x20003FFFF80)).contains 0 = true) :
    let s := { State.reset with loupe := { State.reset.loupe with svcFails := [(0, 8)] } }
    s.reqRange 0 0x20003FFFF80 128 .read = some 0x20003FFFF80 ∧ s.svcLost (reqDie 0) (8 + homeHub 0x20003FFFF80) = true := by
  refine ⟨by decide +kernel, ?_⟩
  show ([((0 : Nat), (8 : Nat))].any fun x => decide (8 ≤ x.2) && (Config.svcPath 8 (8 + homeHub 0x20003FFFF80)).contains x.1) = true
  simp only [List.any_cons, List.any_nil, h]
  rfl

/-- A request of requester r for n bytes at a scratch address d of nobody, at a clean line. -/
def cleanAt (s : State) (r d n : Nat) : Prop :=
  Reaches s r d n .atomic none d ∧ d % n = 0 ∧ ((s.countCc none d 2 n).atomicLine d).1 = 0
theorem cleanAt_of {s : State} {r d n : Nat} (h : reachesOk s r d n .atomic none d = true) (h1 : d % n = 0)
    (h2 : ((s.countCc none d 2 n).atomicLine d).1 = 0) : cleanAt s r d n := ⟨reaches_of h, h1, h2⟩
/-- The old value of the target. -/
def oldAt (s : State) (d n : Nat) : Nat := (((s.countCc none d 2 n).atomicLine d).2).atomicGet d n

theorem witness_AtomicOps :
    (cleanAt State.reset 0 0x20003FFFFFC (awBytes .w32) ∧ State.reset.requesterFence 0x20003FFFFFC = State.reset ∧
      cleanAt State.reset 0 0x20003FFFFF8 (awBytes .w64) ∧ cleanAt State.reset 0 0x20003FFFFFC (awBytes .fp32) ∧
      oldAt State.reset 0x20003FFFFFC (awBytes .w32) = (0 : DWord).toNat % 2 ^ (8 * awBytes .w32) ∧
      oldAt State.reset 0x20003FFFFF8 (awBytes .w64) ≠ (1 : DWord).toNat % 2 ^ (8 * awBytes .w64) ∧
      cleanAt State.reset 0 0x20003FFFFFC 4 ∧ cleanAt windowState 0 0x20003FFFFFC 2 ∧ oldAt windowState 0x20003FFFFFC 2 ≠ 0xFFFF ∧
      cleanAt windowState 0 0x20003FFFFFE 2 ∧ oldAt windowState 0x20003FFFFFE 2 = 0xFFFF ∧ oldAt windowState 0x20003FFFFFE 2 ≠ 0 ∧
      oldAt windowState 0x20003FFFFFC 2 = 0 ∧ cleanAt State.reset 0 0x20003FFFF80 128 ∧ State.reset.upsets = []) ∧
    (let s := { State.reset with upsets := [.alu (homeHub 0x20003FFFFFC)] }
     cleanAt s 0 0x20003FFFFFC (awBytes .w32) ∧ Upset.alu (homeHub 0x20003FFFFFC) ∈ s.upsets) ∧
    (let st (top limit : Byte) : State := { State.reset with mem := ⟨[(0x20003FFFFF8, top), (0x20003FFFFFC, limit)], [], []⟩ }
     let d := 0x20003FFFFF8
     let e := 0x20000000000
     Reaches (st 1 1) 0 d 8 .atomic none d ∧ (st 1 1).reqReach 0 (e + 4 * (1 - 1)) .atomic = some e ∧
     (st 1 1).reqReach 0 (0x20004000000 - 4 + 4 * 1) .atomic = none ∧ (st 1 1).upsets = [] ∧ isScratch d = true ∧ isHbm d = false ∧ d % 8 = 0 ∧ e % 4 = 0 ∧
     (((st 1 1).countCc none d 2 8).atomicLine d).1 = 0 ∧ ((st 0 1).countCc none d 2 8).atomicGet d 4 = 0 ∧
     ((st 1 1).countCc none d 2 8).atomicGet d 4 ≠ 0 ∧ (((st 1 1).countCc none d 2 8).atomicLine (e + 4 * (1 - 1))).1 = 0 ∧
     ((st 1 1).countCc none d 2 8).atomicGet d 4 = ((st 1 1).countCc none d 2 8).atomicGet (d + 4) 4 ∧
     ((st 0 1).countCc none d 2 8).atomicGet d 4 ≠ ((st 0 1).countCc none d 2 8).atomicGet (d + 4) 4 ∧
     (((st 0 1).countCc none d 2 8).atomicLine d).1 = 0 ∧ (((st 0 1).countCc none d 2 8).atomicLine (e + 4 * 0)).1 = 0) := by
  refine ⟨⟨cleanAt_of ?_ ?_ ?_, ?_, cleanAt_of ?_ ?_ ?_, cleanAt_of ?_ ?_ ?_, ?_, ?_, cleanAt_of ?_ ?_ ?_, cleanAt_of ?_ ?_ ?_, ?_,
    cleanAt_of ?_ ?_ ?_, ?_, ?_, ?_, cleanAt_of ?_ ?_ ?_, ?_⟩, ⟨cleanAt_of ?_ ?_ ?_, ?_⟩, reaches_of ?_, ?_⟩ <;> decide +kernel

/-! ## Witnesses: descriptors -/

/-- Bytes from an address upwards, as memory lists them. -/
def bytesAt (a : Nat) (bs : Bytes) : SMap Byte := (bs.zipIdx.filter (fun x => decide (x.1 ≠ 0))).map (fun x => (a + x.2, x.1))
/-- A posted descriptor: op, FLAGS, the two types, LEN, SRC, DST, and the fields above. -/
def descOf (op flags srct dstt len src dst rest : Nat) : BitVec 512 :=
  BitVec.ofNat 512 (op + flags * 2 ^ 8 + srct * 2 ^ 16 + dstt * 2 ^ 24 + len * 2 ^ 32 + src * 2 ^ 64 + dst * 2 ^ 128 + rest + 0xFF * 2 ^ 504)
/-- Partition 63 with engine 191's descriptor at the last place of its window of scratch, ring and layout as given. -/
def ringState (x : BitVec 512) (e : Engine) (kv : Option KvLayout) : State :=
  { partState { windowPart with facet := { windowPart.facet with kv := kv } } with
    engines := [(127, e), (191, e)], mem := ⟨bytesAt 0x20003FFFFC0 (leBytes 64 x.toNat), [], []⟩ }
def idleEng : Engine := { Engine.reset with base := 0xFFC0, len := 1, watch := 16383 }
def busyEng (x : BitVec 512) : Engine := { idleEng with active := true, desc := x }
def layout : KvLayout := { kvbase := 1, layers := 1, heads := 1, hd := 128, refbase := 0, pools := [(8, 0)], rings := [] }

theorem tokenWay {s : State} {d n : Nat} (h : s.loupe.svcFails = []) : TokenWay s d n := by
  intro k _
  unfold State.svcLost
  rw [h]
  rfl
theorem netUp {s : State} (h : s.loupe.svcFails = []) : NetUp s := by
  intro a b
  unfold State.svcLost
  rw [h]
  rfl
/-- A fetched descriptor, its own legality and trigger. -/
def fetches (s : State) (x : BitVec 512) (legal trig : Bool) : Prop :=
  s.partOfEngine 191 = some 63 ∧ s.dev ≠ .hold ∧ (s.engine 191).active = false ∧ s.engineMay 63 = true ∧ (s.engine 191).fetched = false ∧
  s.fetchDesc 191 63 = some (x, true, s) ∧ s.triggered 191 x = trig ∧
  (if dOp x ≠ 3 then s.dmaLegal 63 191 x else if wMode x = 1 then s.appendLegal 63 191 x else s.gatherLegal 63 191 x) = legal

theorem witness_DescriptorStart :
    (let x := descOf 1 8 1 1 64 0 0xFF80 0; fetches (ringState x idleEng none) x true true ∧ dOp x = 1) ∧
    (let x := descOf 1 8 1 1 64 0 0xFF80 (1 * 2 ^ 256); fetches (ringState x idleEng none) x true false ∧ dOp x = 1) ∧
    (let x := descOf 4 0 1 1 64 0 0xFF80 0; fetches (ringState x idleEng none) x false true ∧ dOp x ≠ 2 ∧ dOp x ≠ 3) ∧
    (let x := descOf 2 0 0 1 64 0 0xFF80 0; fetches (ringState x idleEng none) x true true ∧ dOp x = 2) ∧
    (let x := descOf 2 8 0 1 64 0 0xFF80 (1 * 2 ^ 256); fetches (ringState x idleEng none) x true false ∧ dOp x = 2) ∧
    (let x := descOf 2 0 0 1 65 0 0xFF80 0; fetches (ringState x idleEng none) x false true ∧ dOp x = 2) ∧
    (let x := descOf 3 0 1 0 65536 0 16383 0; fetches (ringState x idleEng (some layout)) x true true ∧ dOp x = 3 ∧ wMode x = 1) ∧
    (let x := descOf 3 0 1 0 65544 0 16383 0; fetches (ringState x idleEng (some layout)) x false true ∧ dOp x = 3 ∧ wMode x = 1) ∧
    (let x := descOf 3 0 0 0 131073 (1 * 2 ^ 48) 16383 0; fetches (ringState x idleEng (some layout)) x false true ∧ dOp x = 3 ∧ wMode x = 0) ∧
    (let x := descOf 3 0 0 0 131072 (1 * 2 ^ 48) 16383 0; fetches (ringState x idleEng (some layout)) x true true ∧ dOp x = 3 ∧ wMode x = 0) ∧
    (let x := descOf 1 0 1 1 64 0 0xFF80 ((16383 + 15 * 2 ^ 16 + 255 * 2 ^ 24) * 2 ^ 320)
     let s := (ringState x { busyEng x with moved := 1 } none).setCore 16383 (seqCore { SeqState.reset with k := [(15, 65280)] })
     (s.engine 191).active = true ∧ s.descDone 191 63 = true ∧ (s.translate 63 ((s.engine 191).descAt + 63) .write).isSome = true ∧
       (s.engine 191).status ≠ St.badArgument ∧ s.dev ≠ .hold ∧ TokenWay s 191 (dTcore x) ∧ (s.core (dTcore x)).seq.badParity.contains (parK (dTkt x)) = false ∧
       (s.core (dTcore x)).k (dTkt x) + dTcnt x = 0xFFFF) ∧
    (let x := descOf 4 0 0 0 0 0 0 0
     let s := ringState x { busyEng x with status := St.badArgument } none
     (s.engine 191).active = true ∧ (s.engine 191).status = St.badArgument ∧ (s.part 63).state = .running) := by
  refine ⟨?_, ?_, ?_, ?_, ?_, ?_, ?_, ?_, ?_, ?_, ⟨?_, ?_, ?_, ?_, ?_, tokenWay rfl, ?_⟩, ?_⟩ <;> first | decide +kernel | (unfold fetches; decide +kernel)

theorem witness_DescriptorMove :
    (let x := descOf 2 0 0 1 64 0 0xFFC0 ((16383 + 15 * 2 ^ 16 + 255 * 2 ^ 24 + 64 * 2 ^ 32) * 2 ^ 320)
     let s := (ringState x (busyEng x) none).setCore 16383 (seqCore { SeqState.reset with k := [(15, 65280)] })
     TokenWay s 191 (dTcore x) ∧ s.dev ≠ .hold ∧ s.hbmLost 0x20003FFFFC0 = false ∧
       s.partOfEngine 191 = some 63 ∧ (s.engine 191).active = true ∧ (s.engine 191).status = St.ok ∧ 64 * (s.engine 191).moved < dLen x ∧
       (s.core (dTcore x)).k (dTkt x) + dTcnt x = 0xFFFF ∧ (s.core (dTcore x)).seq.badParity.contains (parK (dTkt x)) = false ∧ s.upsets = [] ∧
       ({ s with upsets := [.parity (2 + 191)] } : State).upsets = [.parity (2 + 191)] ∧
       (({ s with upsets := [.parity (2 + 191)] } : State).engAddr 63 191 (dDstt x) (dDst x) .write).map (·.1) = some 0x20003FFFFC0 ∧
       dTgran x = 64 ∧ dOp x = 2 ∧ dDstt x < 2 ∧
       (s.engAddr 63 191 (dDstt x) (dDst x) .write).map (·.1) = some 0x20003FFFFC0 ∧ 0x20003FFFFC0 % 64 = 0) ∧
    (let x := descOf 1 0 1 0 64 0 0x1FFC0 0
     let s := ringState x (busyEng x) none
     dOp x = 1 ∧ dXpose x = 0 ∧ dSrct x < 2 ∧ dDstt x < 2 ∧ 64 * (s.engine 127).moved < dLen x ∧ s.partOfEngine 127 = some 63 ∧
       (s.engAddr 63 127 (dSrct x) (dSrc x) .read).map (·.1) = some 0x20003FF0000 ∧
       (s.engAddr 63 127 (dDstt x) (dDst x) .write).map (·.1) = some 0x13FFFFFFFC0 ∧ 0x13FFFFFFFC0 % 64 = 0 ∧ engHub 127 = none) ∧
    (let x := descOf 1 0 2 1 64 16383 0xFFC0 0
     let s := { ringState x (busyEng x) none with attach := [(attachChan 255 63, { Attach.reset with egress := [okFlit] })] }
     dOp x = 1 ∧ dXpose x = 0 ∧ dSrct x = 2 ∧ dDstt x < 2 ∧ (s.att (streamAtt 127 (dSrc x))).egress = okFlit :: [] ∧
       (s.engAddr 63 127 (dDstt x) (dDst x) .write).map (·.1) = some 0x20003FFFFC0) ∧
    (let x := descOf 2 0 0 2 64 0 16383 0
     let s := { ringState x (busyEng x) none with attach := [(attachChan 255 63, { Attach.reset with ingress := List.replicate 64 okFlit })] }
     let t := { s with attach := [(attachChan 255 63, { Attach.reset with ingress := List.replicate 63 okFlit })] }
     dOp x = 2 ∧ dDstt x = 2 ∧ s.streamRoom 127 (dDst x) = false ∧ t.streamRoom 127 (dDst x) = true ∧ engHub 127 = none) ∧
    (let x := descOf 2 0 0 2 64 0 16383 0
     let s := ringState x (busyEng x) none
     s.streamRoom 191 (dDst x) = true ∧ engHub 191 ≠ none) := by
  refine ⟨⟨tokenWay rfl, ?_⟩, ?_, ?_, ?_, ?_⟩ <;> decide +kernel

/-- The walker of engine 127 at a WALK of mode m and eight entries or positions. -/
def walkState (m : Nat) (w : Walk) (a : Attach) : State :=
  let x := descOf 3 0 m 0 8 (0x7FFFF + 1 * 2 ^ 48) 16383 0
  { ringState x { busyEng x with walk := w } (some layout) with attach := [(attachChan 255 63, a)] }
def walkTag (seq layer : Nat) : DWord := BitVec.ofNat 64 (seq * 2 ^ 22 + layer * 2 ^ 51)
/-- An active sequence entry of partition 63 with one block of list at 0x1000. -/
def goodSeq : BitVec 1024 := BitVec.ofNat 1024 (1 + 63 * 2 ^ 8 + 1 * 2 ^ 96 + 0x1000 * 2 ^ 128)

theorem witness_WalkSteps :
    (let s := walkState 1 { Walk.reset with sent := 0 } { Attach.reset with egress := [okFlit] }
     s.dev ≠ .hold ∧ s.partOfEngine 127 = some 63 ∧ s.kvOf 63 = some layout ∧ (s.engine 127).active = true ∧ (s.engine 127).status = St.ok ∧
       dOp (s.engine 127).desc = 3 ∧ dTgran (s.engine 127).desc = 0 ∧ s.upsets = [] ∧ wMode (s.engine 127).desc = 1 ∧
       (s.engine 127).walk.sent < wCount (s.engine 127).desc / 8 * 5 ∧ (s.att (streamAtt 127 (wEndpt (s.engine 127).desc))).egress = [okFlit] ∧
       (s.engine 127).walk.tags = []) ∧
    (let s := walkState 1 { Walk.reset with sent := 4, tags := [(0, false), (0, false)] } { Attach.reset with egress := [okFlit] }
     (s.engine 127).walk.sent < wCount (s.engine 127).desc / 8 * 5 ∧ (s.att (streamAtt 127 (wEndpt (s.engine 127).desc))).egress = [okFlit] ∧
       (s.engine 127).walk.tags = (0, false) :: (0, false) :: []) ∧
    ((Tag.of (walkTag 0 255)).layer = 0xFF ∧ (Tag.of (walkTag 0x80000 254)).layer ≠ 0xFF ∧
      (walkState 1 Walk.reset Attach.reset).seqMine 63 (Tag.of (walkTag 0x80000 254)).seq = false ∧ Walk.reset.retry = none) ∧
    (let q : List (DWord × Bool × BitVec 256 × Bool) := [(walkTag 0x7FFFF 0, false, 0, false)]
     let s := walkState 1 { Walk.reset with queue := q, retry := some (0, 1), seqs := [(0x7FFFF, (goodSeq, false))] } Attach.reset
     (s.engine 127).walk.queue = q ∧ (Tag.of (walkTag 0x7FFFF 0)).layer ≠ 0xFF ∧ (s.place 127 63 layout (walkTag 0x7FFFF 0) 0 false).1 = .wait) ∧
    (let s := walkState 0 { Walk.reset with tile := [(1, false)], seqs := [(0x7FFFF, (goodSeq, false))] } Attach.reset
     let x := (s.engine 127).desc
     wMode x = 0 ∧ (s.engine 127).walk.tile = (1, false) :: [] ∧ s.streamRoom 127 (wEndpt x) = true ∧ engHub 127 = none ∧
       (s.engine 127).walk.sent < gatherFlits layout x ((s.gatherSeq 127 63 (wSeq x)).1.view (s.seqMine 63 (wSeq x)))) ∧
    (let s := walkState 0 Walk.reset { Attach.reset with ingress := List.replicate 64 okFlit }
     wMode (s.engine 127).desc = 0 ∧ s.streamRoom 127 (wEndpt (s.engine 127).desc) = false) := by
  refine ⟨?_, ?_, ?_, ?_, ?_, ?_⟩ <;> decide +kernel

/-! ## Witnesses: the Clove cores -/

/-- Partition 63 with Clove core 511 released and as given. -/
def cloveOn (x : Clove) : State := { partState windowPart with regs := [(Reg.chanReleased 15, 0xC0000000)], cloves := [(511, x)] }
/-- A core whose pc stands at the last word of its local memory, which holds the instruction. -/
def fetchClove (w : Nat) : Clove :=
  { Clove.reset with pc := 0x1FFFC, localMem := ⟨bytesAt 0xFFFC (leBytes 4 w), [], []⟩, x := [(1, 0x1FFFC), (2, 0xFFFFFFFF)] }
/-- The core may execute and fetches the instruction. -/
def fetchesRv (x : Clove) (w : Nat) : Prop :=
  let s := cloveOn x
  s.cloveMay 511 = true ∧ x.stallAt = none ∧ s.cFetch 511 x.pc.toNat = some (w % 65536, s) ∧
  s.cFetch 511 (x.pc.toNat + 2) = some (w / 65536, s) ∧ w % 65536 % 4 = 3 ∧ w / 65536 < 65536

theorem witness_CloveInstruction :
    (let w := encR 0 2 1 7 31 0x33; fetchesRv (fetchClove w) w ∧ iOp w = 0x33 ∧ iF7 w = 0) ∧
    (let w := encR 1 2 1 7 31 0x33; fetchesRv (fetchClove w) w ∧ iOp w = 0x33 ∧ iF7 w = 1) ∧
    (let w := encI 0xFFF 1 7 31 0x13; fetchesRv (fetchClove w) w ∧ iOp w = 0x13 ∧ iF3 w ≠ 1 ∧ iF3 w ≠ 5) ∧
    (let w := 0xFFFFF000 + 31 * 2 ^ 7 + 0x37; fetchesRv (fetchClove w) w ∧ iOp w = 0x37) ∧
    (let w := encJ 0xFFFFE 31; fetchesRv (fetchClove w) w ∧ iOp w = 0x6F) ∧
    (let w := encB 0xFFE 2 1 7; fetchesRv (fetchClove w) w ∧ iOp w = 0x63 ∧ (branchTaken (iF3 w) 0x1FFFC 0xFFFFFFFF).isSome = true) ∧
    (let w := encI 0 1 2 31 0x03
     let o := ((cloveOn (fetchClove w)).cx 511 (iRs1 w) + immI w) % 2 ^ 32
     fetchesRv (fetchClove w) w ∧ iOp w = 0x03 ∧ iF3 w = 2 ∧ o = 0x1FFFC ∧ o % 4 = 0 ∧ o + 4 ≤ 0x20000 ∧
       ((cloveOn (fetchClove w)).cRead 511 (.loc (o - 0x10000)) 4).2.1 = 0) ∧
    (let w := encS 0 2 1 2 0x23
     fetchesRv (fetchClove w) w ∧ iOp w = 0x23 ∧ iF3 w = 2 ∧ ((cloveOn (fetchClove w)).cx 511 (iRs1 w) + immS w) % 2 ^ 32 = 0x1FFFC) ∧
    (let x := { fetchClove 0x73 with machineMode := false }
     fetchesRv x 0x73 ∧ x.machineMode = false ∧ (cloveOn x).ccsr 511 Csr.mtvec < 2 ^ 32) ∧
    (let x := fetchClove 0xFFFFFFFB
     fetchesRv x 0xFFFFFFFB ∧ iOp 0xFFFFFFFB = 0x7B ∧ x.machineMode = true ∧ x.held = none ∧ SMap.find x.rx (x.head % 16) = none) := by
  unfold fetchesRv
  refine ⟨?_, ?_, ?_, ?_, ?_, ?_, ?_, ?_, ?_, ?_⟩ <;> decide +kernel

/-- A core with one granule to move, its apertures at windows 1 and 0, and addresses: a granule of the channel, its last granule
of local memory, the last word of scratch, core 16383 and its token 15 with count 255. -/
def bulkClove : Clove :=
  { Clove.reset with
    csr := [(Csr.chbase, 1), (Csr.clen, 64), (Csr.cfillLo, 0xFFFFFFFF)], x := [(1, 0x4000FFC0), (2, 0x1FFC0), (3, 0xC000FFFC), (4, 16383), (5, 0xFF0F)],
    localMem := ⟨[(0xFFFF, 1)], [], []⟩, dirty := [0x13FFFFFFF80] }
/-- Whether a comparison ends with the two ranges the same, or with a difference. -/
def cmpSame (r : CCmp × State) : Bool := match r.1 with | .same => true | _ => false
def cmpDiffer (r : CCmp × State) : Bool := match r.1 with | .differ _ => true | _ => false

theorem witness_CloveBulk :
    (let s := (cloveOn bulkClove).setCore 16383 (seqCore { SeqState.reset with k := [(15, 65280)] })
     s.cloveMay 511 = true ∧ (s.clove 511).stallAt = none ∧ s.cloveThrottle 511 ≠ 2 ∧ s.chainOut 511 = false ∧
       (s.bulkOk 511 [s.cx 511 1, s.cx 511 2] = true ∧ (iOp (encR 0 2 1 0 31 0x0B), iF3 (encR 0 2 1 0 31 0x0B), iF7 (encR 0 2 1 0 31 0x0B)) = (0x0B, 0, 0)) ∧
       (iOp (encR 0 0 1 1 31 0x0B), iF3 (encR 0 0 1 1 31 0x0B), iRs2 (encR 0 0 1 1 31 0x0B)) = (0x0B, 1, 0) ∧
       s.ccsr 511 Csr.clen / 64 = 1 ∧ s.cGran 511 (s.cx 511 1) .write 0 = some (.dev 0x13FFFFFFFC0 false) ∧ 0x13FFFFFFFC0 % 64 = 0 ∧
       isScratch 0x13FFFFFFFC0 = false ∧ s.cLost 511 0x20003FFFFFC = false ∧ s.svcLost (511 / 64) (tileOf (s.cx 511 4 % 16384)) = false ∧
       cmpSame (s.cCmp 511 (s.cGran 511 (s.cx 511 1) .read) (s.cGran 511 (s.cx 511 1) .read) 0 1) = true ∧
       cmpDiffer (s.cCmp 511 (s.cGran 511 (s.cx 511 1) .read) (s.cGran 511 (s.cx 511 2) .read) 0 1) = true ∧
       iF3 (encR 0 2 1 2 31 0x0B) = 2 ∧ encR 0 0 0 6 0 0x0B = 0x600B ∧
       (iF7 (encR 10 5 3 7 31 0x0B) % 16 = 10 ∧ iF7 (encR 19 5 3 7 31 0x0B) / 16 = 1 ∧ iF7 (encR 19 5 3 7 31 0x0B) % 16 = 3 ∧
         s.cLoc 511 (s.cx 511 3) (s.cUser 511) .atomic = some (.dev 0x20003FFFFFC false) ∧
         (s.cAtomic 511 63 8 0 0x20003FFFFFC 0).isSome = true ∧ (s.cAtomic 511 63 3 1 0x20003FFFFFC 0).isSome = true) ∧
       (s.partOfChan 511 = some 63 ∧ s.partOfCore (s.cx 511 4 % 16384) = some 63 ∧ iOp (encR 0 5 4 0 0 0x2B) = 0x2B ∧
         (s.core 16383).seq.badParity.contains (parK (s.cx 511 5 % 16)) = false ∧
         (s.core 16383).k (s.cx 511 5 % 16) + s.cx 511 5 / 256 % 256 = 0xFFFF)) ∧
    (let s := cloveOn { bulkClove with wire := [(true, 0, 0)] }
     s.cloveMay 511 = true ∧ (s.clove 511).stallAt = none ∧ s.chainOut 511 = true ∧ (s.clove 511).machineMode = true ∧
       (iOp (encR 0 2 1 1 0 0x2B), iF3 (encR 0 2 1 1 0 0x2B), iF7 (encR 0 2 1 1 0 0x2B)) = (0x2B, 1, 0)) := by
  refine ⟨?_, ?_⟩ <;> decide +kernel

/-- A CHSEND, CHRECV or CHPOLL of register 2 in a direction. -/
def chWord (f3 dir : Nat) : Nat := encR dir 0 (if f3 = 5 then 0 else 2) f3 31 0x0B

theorem witness_CloveChain :
    (let s := cloveOn bulkClove
     s.cloveMay 511 = true ∧ (s.clove 511).stallAt = none ∧ (s.clove 511).blockAt = none ∧ s.cx 511 2 % 64 = 0 ∧
       iF7 (chWord 3 1) = 1 ∧ iF3 (chWord 3 1) = 3 ∧ iF3 (chWord 4 0) = 4 ∧ iF3 (chWord 5 0) = 5 ∧ iRs2 (chWord 5 0) = 0 ∧ iRs1 (chWord 5 0) = 0 ∧
       s.neighbour 511 1 = none ∧ s.neighbour 511 0 = some 510 ∧ s.cLoc 511 (s.cx 511 2) (s.cUser 511) .read = some (.loc 0xFFC0) ∧
       s.cLoc 511 (s.cx 511 2) (s.cUser 511) .write = some (.loc 0xFFC0) ∧ s.chainRoom 511 510 0 ≠ 0 ∧ (s.clove 511).fifo 0 = [] ∧
       (s.clove 511).localMem.poison = [] ∧ (s.clove 511).localMem.flips = [] ∧ s.upsets = []) ∧
    (let s := { cloveOn bulkClove with upsets := [.parity (256 + 511)] }
     s.cloveMay 511 = true ∧ s.neighbour 511 0 = some 510 ∧ s.cLoc 511 (s.cx 511 2) (s.cUser 511) .read = some (.loc 0xFFC0) ∧
       s.chainRoom 511 510 0 ≠ 0) ∧
    (let s := cloveOn { bulkClove with wire := List.replicate 8 (false, 0, 0), fifoDn := [(1, 255)] }
     s.neighbour 511 0 = some 510 ∧ s.chainRoom 511 510 0 = 0 ∧ (s.clove 511).fifo 0 = (1, 255) :: []) ∧
    (let s := cloveOn { bulkClove with wire := [(false, 1, 255)] }
     let s := s.setClove 510 { Clove.reset with fifoUp := List.replicate 7 (0, 0) }
     (s.clove 511).wire.find? (fun m => m.1 == false) = some (false, 1, 255) ∧ ((s.clove 510).fifo 1).length < 8 ∧
       8 ≤ ((s.setClove 510 { Clove.reset with fifoUp := List.replicate 8 (0, 0) }).clove 510).fifoUp.length ∧
       ((Clove.reset).fifo 1).length = (Clove.reset.fifoUp).length) := by
  refine ⟨?_, ?_, ?_, ?_⟩ <;> decide +kernel

/-- A slot line: function, argument fields, SEQ, posted. -/
def slotLine (func args seq : Nat) : BitVec 512 := BitVec.ofNat 512 (func + 0xFF * 2 ^ 56 + args + seq * 2 ^ 480)

theorem witness_CloveMailbox :
    (let x := { Clove.reset with mbase := some 0xFB80, head := 2 ^ 32 - 1 }
     let s := cloveOn x
     let q := slotLine 1 (64 * 2 ^ 320) (2 ^ 32 - 1)
     s.cloveMay 511 = true ∧ (s.clove 511).stallAt = none ∧ s.mboxAt 511 (128 + 64 * 15) = some 0x20003FFFFC0 ∧ (s.devRead 0x20003FFFFC0 64).2.1 = 0 ∧
       (s.clove 511).held = none ∧ (s.clove 511).halted = false ∧ (s.clove 511).machineMode = true ∧
       (iOp (encR 0 0 0 2 31 0x2B), iF3 (encR 0 0 0 2 31 0x2B), iF7 (encR 0 0 0 2 31 0x2B)) = (0x2B, 2, 0) ∧
       SMap.find (s.clove 511).rx ((s.clove 511).head % 16) = none ∧
       (let t := cloveOn { x with rx := [(15, (q, 0, 0))] }
        SMap.find (t.clove 511).rx ((t.clove 511).head % 16) = some (q, 0, 0) ∧ slotSeq q = x.head ∧ slotField q 7 1 = 0xFF ∧ t.slotIllegal 511 q = false)) ∧
    (let s := cloveOn { Clove.reset with mbase := some 0xFB80, head := 2 ^ 32 - 1, held := some (slotLine 1 0 (2 ^ 32 - 1)) }
     (s.clove 511).held = some (slotLine 1 0 (2 ^ 32 - 1)) ∧ slotField (slotLine 1 0 (2 ^ 32 - 1)) 4 1 = 0 ∧ (s.clove 511).head < 2 ^ 32 ∧
       s.cloveMay 511 = true ∧ s.chainOut 511 = false ∧ s.upsets = [] ∧
       (iOp (encR 0 2 1 1 0 0x2B), iF3 (encR 0 2 1 1 0 0x2B), iF7 (encR 0 2 1 1 0 0x2B)) = (0x2B, 1, 0) ∧
       ∀ k, k < 1152 → s.mboxAt 511 k = some (0x20003FFFB80 + k) ∧ s.cLost 511 (0x20003FFFB80 + k) = false ∧ s.hbmLost (0x20003FFFB80 + k) = false) ∧
    (let g : Program := ⟨1000000, [(0x7E, 2 ^ 32 - 2)]⟩
     let x := { Clove.reset with held := some (slotLine 0xFE 0 0), program := some g, head := 2 ^ 32 - 1 }
     (cloveOn x).cloveMay 511 = true ∧ x.held = some (slotLine 0xFE 0 0) ∧ x.program = some g ∧ x.ran = false ∧ x.tenant = false ∧
       g.entries.find? (fun e => decide (0x80 ≤ slotFunc (slotLine 0xFE 0 0)) && e.1 == slotFunc (slotLine 0xFE 0 0) - 0x80 && e.2 != 0) = some (0x7E, 2 ^ 32 - 2)) ∧
    (let g : Program := ⟨1000000, []⟩
     let s := { cloveOn { Clove.reset with program := some g, tenant := true } with timebase := 1000000001 }
     (s.clove 511).program = some g ∧ (s.clove 511).tenant = true ∧ (s.clove 511).runAt + 1000 * g.limit < s.timebase ∧
       (1000000000 : Nat) ≤ (s.clove 511).runAt + 1000 * g.limit) := by
  refine ⟨?_, ?_, ?_, ?_⟩ <;> decide +kernel

/-- A core that holds a command, with its partition's layout. -/
def fnState (w : BitVec 512) : State :=
  let s := cloveOn { bulkClove with held := some w }
  { s with parts := [(63, { windowPart with facet := { windowPart.facet with kv := some layout } })] }
def fnReady (s : State) (w : BitVec 512) (f : Nat) : Prop :=
  s.cloveMay 511 = true ∧ (s.clove 511).stallAt = none ∧ (s.clove 511).held = some w ∧ (s.clove 511).ran = false ∧ s.cloveThrottle 511 ≠ 2 ∧ slotFunc w = f

theorem witness_CloveFunctions :
    (let w := slotLine 1 (0x1FFC0 * 2 ^ 192 + 0xFFC0 * 2 ^ 256 + 64 * 2 ^ 320) 0
     fnReady (fnState w) w 1 ∧ fnOk (slotField w 40 4) [slotField w 24 8, slotField w 32 8] = true) ∧
    (let w := slotLine 1 (0x1FFC0 * 2 ^ 192 + 0xFFC0 * 2 ^ 256) 0
     fnReady (fnState w) w 1 ∧ fnOk (slotField w 40 4) [slotField w 24 8, slotField w 32 8] = false) ∧
    (let w := slotLine 2 (0x1FFC0 * 2 ^ 192 + 64 * 2 ^ 320) 0; fnReady (fnState w) w 2 ∧ fnOk (slotField w 40 4) [slotField w 24 8] = true) ∧
    (let w := slotLine 3 (0x10000 * 2 ^ 192 + 0x10000 * 2 ^ 256 + 64 * 2 ^ 320) 0
     fnReady (fnState w) w 3 ∧ fnOk 64 [0x10000, 0x10000] = true ∧ slotField w 40 4 = 64 ∧
       cmpSame ((fnState w).cCmp 511 ((fnState w).fnGran 511 (slotField w 24 8) .read) ((fnState w).fnGran 511 (slotField w 32 8) .read) 0 1) = true) ∧
    (let w := slotLine 3 (0x10000 * 2 ^ 192 + 0x10040 * 2 ^ 256 + 64 * 2 ^ 320) 0
     let s := { fnState w with mem := ⟨[(0x13FFFFF0000, 1)], [], []⟩ }
     fnReady s w 3 ∧ cmpDiffer (s.cCmp 511 (s.fnGran 511 (slotField w 24 8) .read) (s.fnGran 511 (slotField w 32 8) .read) 0 1) = true) ∧
    (let w := slotLine 4 (0x10000 * 2 ^ 192 + 4096 * 2 ^ 256 + 4096 * 2 ^ 288 + 0xFFFC * 2 ^ 320 + 0 * 2 ^ 384) 0
     fnReady (fnState w) w 4 ∧ fnOk (slotField w 32 4) [slotField w 24 8, slotField w 48 8] = true ∧ slotField w 32 4 ≤ 4096 ∧ slotField w 36 4 ≠ 0 ∧
       slotField w 36 4 ≤ 4096 ∧ slotField w 40 8 % 4 = 0) ∧
    (let w := slotLine 7 (0x10000 * 2 ^ 192 + 0x10000 * 2 ^ 256) 0
     fnReady (fnState w) w 7 ∧ slotField w 16 4 = 0 ∧ slotField w 24 8 % 64 = 0 ∧ slotField w 32 8 % 2048 = 0 ∧ slotField w 32 8 ≠ 0 ∧
       ((fnState w).scrubPieces 511 (slotField w 24 8) (slotField w 32 8)).isSome = true) ∧
    (let w := slotLine 7 (0x10000 * 2 ^ 192 + 0x10800 * 2 ^ 256) 0
     fnReady (fnState w) w 7 ∧ slotField w 16 4 = 0 ∧ slotField w 24 8 % 64 = 0 ∧ slotField w 32 8 % 2048 = 0 ∧ slotField w 32 8 ≠ 0 ∧
       (fnState w).scrubPieces 511 (slotField w 24 8) (slotField w 32 8) = none) ∧
    (let w := slotLine 5 (0xFFF8 * 2 ^ 192 + 15 * 2 ^ 256) 0
     fnReady (fnState w) w 5 ∧ slotField w 24 8 % 8 = 0 ∧ slotField w 32 1 ≤ 15 ∧ (fnState w).cloveKv 511 = some (63, layout)) ∧
    (let w := slotLine 6 (0 * 2 ^ 192 + 65536 * 2 ^ 256 + 15 * 2 ^ 288) 0
     fnReady (fnState w) w 6 ∧ slotField w 24 8 % 8 = 0 ∧ slotField w 32 4 ≠ 0 ∧ slotField w 32 4 ≤ 65536 ∧ slotField w 36 1 ≤ 15 ∧ slotField w 37 1 = 0 ∧
       (fnState w).cloveKv 511 = some (63, layout)) ∧
    (let w := slotLine 6 (0 * 2 ^ 192 + 65536 * 2 ^ 256 + 15 * 2 ^ 288 + 4 * 2 ^ 296) 0
     fnReady (fnState w) w 6 ∧ slotField w 24 8 % 8 = 0 ∧ slotField w 32 4 ≠ 0 ∧ slotField w 32 4 ≤ 65536 ∧ slotField w 36 1 ≤ 15 ∧ 1 ≤ slotField w 37 1 ∧ slotField w 37 1 ≤ 4 ∧ ((fnState w).clove 511).mig = none ∧
       ((fnState w).cloveKv 511).isSome = true ∧ (fnState w).neighbour 511 1 = none) := by
  unfold fnReady
  refine ⟨?_, ?_, ?_, ?_, ?_, ?_, ?_, ?_, ?_, ?_, ?_⟩ <;> decide +kernel

/-! ## Witnesses: the fabric, collectives and replica groups -/

def peerDev : Nat := 0x020000000001
/-- The peer partition 62 of peerDev, through port 19. -/
def peerAt : Nat := peerDev + 62 * 2 ^ 48 + 19 * 2 ^ 54
/-- Entry 63: a reduce-scatter of three ranks, one segment of 64 bytes a block, this rank 0. -/
def ringEntry : CollEntry :=
  { id := 63, op := 1, etype := 0, n := 3, rank := 0, root := 0, hub := 1, log := false, len := 192, limit := 0, next := peerAt, prev := peerAt,
    job := 65535, chan := 65534, srct := 1, dstt := 1, src := 0, dst := 0, tcore := 0, tkt := 0, tcnt := 0, tgran := 0, score := 0, skt := 0,
    scnt := 0, period := 1, step0 := 0, count := 1, ctx := 63 }
def peerGroup : ReplicaGroup := { group := 65535, m := 3, member := 0, interval := 1, peers := [(0, 0), (peerDev, 62), (peerDev, 61)], regions := [] }
def fabPart : Partition :=
  { windowPart with facet := { windowPart.facet with colls := [ringEntry], replica := some peerGroup,
                                                     glob := { Globals.none with stepLogK := 1, stepLogBase := 0xFF80 } } }
def upPort : Port := { Port.reset with state := .up, role := 0x22 }
/-- The part READY with partition 63 in a ring, port 19 UP, a session with the peer, its connections and its context 63. -/
def fabState (cs : List Conn) (fs : List RxFrame) (x : CollCtx) : State :=
  { partState fabPart with
    dev := .ready, ports := [(19, upPort)], conns := cs, inq := [(19, fs)], colls := [(63, x)], sessions := [⟨peerDev, 19, .open_, false, 0, 0, 0, 0⟩] }
def conn0 : Conn := Conn.new 63 peerDev 62 65535 65534 0
def ctx0 : CollCtx := { CollCtx.reset with part := some 63, entry := 63 }
/-- A frame of a type, and an application message of a session. -/
def rx (typ seq cumack : Nat) (pay : Bytes) (app : Bool) : RxFrame :=
  { typ := typ, spart := 62, dpart := 63, sdev := peerDev, job := 65535, chan := 65534, seq := seq, cumack := cumack, sack := 0, climit := 64,
    inc := 7, pmap := 0, digest := 0, payload := pay, sealed_ := app }

/-- A CLEAR frame body of a TYPE to a destination. -/
def clearBody (typ len ddev : Nat) : Bytes :=
  let h := cxHeader typ 1 62 63 peerDev ddev 65535 65534 0 len 0 5 0 0 64 7 0 0 ++ List.replicate len 0
  h ++ leBytes 8 (crc64 0 h) ++ leBytes 8 0
def frameTo (body : Bytes) : Bytes := State.reset.etherFrame 19 State.reset.fabricId body
def fcsOk (f : Bytes) : Bool := decide (4 ≤ f.length) && hField f (f.length - 4) 4 == crc32 (f.take (f.length - 4))

theorem witness_FrameReceive :
    (State.reset.port 19).state = .notFabric ∧
    (let s := fabState [] [] ctx0
     (s.port 19).state = .up ∧ fcsOk [0, 0, 0] = false ∧
     (fcsOk (List.replicate 14 0 ++ leBytes 4 (crc32 (List.replicate 14 0))) = true ∧
       s.cxBody (List.replicate 14 0 ++ leBytes 4 (crc32 (List.replicate 14 0))) = none) ∧
     (let b := clearBody 0 64 peerDev
      fcsOk (frameTo b) = true ∧ s.cxBody (frameTo b) = some b ∧ hField b 10 6 ≠ s.fabricId) ∧
     (let b := clearBody 1 0 s.fabricId
      fcsOk (frameTo b) = true ∧ s.cxBody (frameTo b) = some b ∧ hField b 10 6 = s.fabricId ∧ hField b 0 1 = 16 + 1 ∧ lenOk 1 (hField b 22 2) = true ∧
        88 + hField b 22 2 ≤ b.length ∧ bitOf (hField b 1 1) 0 = true ∧ s.sessionUp (hField b 4 6) = true ∧ hField b 3 1 % 64 = 63 ∧ (s.part 63).state ≠ .empty ∧
        (s.part 63).facet.colls.any (fun e => e.job == hField b 16 2 && e.chan == hField b 18 2 && e.hub == hubOfPort 19 &&
          [e.next, e.prev].any (fun a => addrDev a == hField b 4 6 && addrPart a == hField b 2 1 % 64)) = true ∧
        s.holdsLink 63 (hField b 16 2) = false ∧ hField b (72 + hField b 22 2) 16 = crc64 0 (b.take 72 ++ (b.drop 72).take (hField b 22 2))) ∧
     (let b := clearBody 0 64 s.fabricId
      s.cxBody (frameTo b) = some b ∧ hField b 0 1 = 16 + 0 ∧ lenOk 0 (hField b 22 2) = true ∧
        hField b (72 + hField b 22 2) 16 = crc64 0 (b.take 72 ++ (b.drop 72).take (hField b 22 2)))) := by
  refine ⟨?_, ?_, ?_, ?_, ?_, ?_, ?_⟩ <;> decide +kernel

def sentOne : SentFrame := ⟨2 ^ 32 - 1, [], 0, 0, false, true, 0⟩

theorem witness_FabricData :
    (let c := { conn0 with recvInc := some 7, expect := 2 ^ 32 - 1, unacked := 6 }
     let f := rx 0 (2 ^ 32 - 1) 0 [] false
     let s := fabState [c] [f] ctx0
     s.conns[0]? = some c ∧ SMap.get [] s.inq 19 = f :: [] ∧ s.connIdx f.dpart f.sdev f.spart f.job f.chan = some 0 ∧ c.sent = [] ∧ c.held = [] ∧
       c.recvInc = some f.inc ∧ f.seq = c.expect ∧ c.expect < 2 ^ 32 ∧ serialLt 32 f.seq c.limit = true ∧ c.unacked < 7) ∧
    (let c := { conn0 with cumack := some (2 ^ 32 - 2), sent := [sentOne], unacked := 7, rto := 10000000 }
     let f := rx 1 0 (2 ^ 32 - 1) [] false
     let s := { fabState [c] [f] ctx0 with timebase := 10000000 }
     FrameWay s 19 c.dev ∧ c.firstAt + 5000 ≤ s.timebase ∧ (4999 : Nat) < c.firstAt + 5000 ∧ s.conns[0]? = some c ∧ SMap.get [] s.inq 19 = f :: [] ∧ s.connIdx f.dpart f.sdev f.spart f.job f.chan = some 0 ∧
       c.cumack = some (2 ^ 32 - 2) ∧ serialLt 32 (2 ^ 32 - 2) f.cumack = true ∧ f.sack = 0 ∧ c.sent.filter (·.sacked) = [] ∧ c.unacked ≠ 0 ∧
       s.sendWay c = .ready 19 none ∧ s.dev = .ready ∧ c.timerAt + c.rto ≤ s.timebase ∧ c.sent.find? (fun f => !f.sacked) = some sentOne ∧
       (9999999 : Nat) < c.timerAt + c.rto) := by
  refine ⟨?_, ⟨?_, ?_, ?_, ?_, ?_⟩, ?_⟩ <;> decide +kernel

theorem noPortWaits {s : State} (h : s.ports = [(19, upPort)]) : NoPortWaits s := by
  intro q
  unfold State.port
  rw [h]
  by_cases hq : q = 19
  · subst hq
    decide
  · simp [SMap.get, SMap.find, hq, Port.reset]

/-- The check of a peer's key exchange is open to the spec's standards: one of the two clauses about it applies. -/
theorem witness_PeerSessions :
    (let ke := rx 2 0 0 [0x11, 0xE4] false
     let s := { fabState [] [ke] ctx0 with sessions := List.replicate 255 ⟨0, 0, .asked, true, 0, 0, 0, 0⟩ }
     (SMap.get [] s.inq 19 = ke :: [] ∧ ke.typ = 2 ∧ ke.sealed_ = false ∧ hField ke.payload 1 1 = spdmKeyExchange ∧ s.session ke.sdev = none ∧
       s.sessions.length < 256) ∧ (Config.peerOk ke.sdev ke.payload = true ∨ Config.peerOk ke.sdev ke.payload = false)) ∧
    (let fi := rx 2 0 0 [0x11, 0xE5] false
     let x : Session := ⟨peerDev, 19, .answered, false, 0, 0, 0, 0⟩
     let s := { fabState [] [fi] ctx0 with sessions := [x] }
     (SMap.get [] s.inq 19 = fi :: [] ∧ fi.typ = 2 ∧ hField fi.payload 1 1 = spdmFinish ∧ s.session fi.sdev = some x ∧ x.phase = .answered ∧
       x.req = false) ∧ (Config.peerOk fi.sdev fi.payload = true → Config.peerOk fi.sdev fi.payload = true)) ∧
    (let hb := rx 2 0 0 [1] true
     let x : Session := ⟨peerDev, 19, .open_, false, 0, 0, 10, 0⟩
     let s := { fabState [] [hb] ctx0 with sessions := [x], timebase := 10000000000 }
     NoPortWaits s ∧ SMap.get [] s.inq 19 = hb :: [] ∧ hb.typ = 2 ∧ hb.sealed_ = true ∧ hField hb.payload 0 1 = 1 ∧ s.session hb.sdev = some x ∧ s.sessions = [x] ∧
       x.phase = .open_ ∧ (s.portsTo x).all (fun w => (s.port w).state == .retraining) = false ∧ s.session (0x020000000001 : Addr).toNat = some x ∧
       10 ≤ x.missed ∧ x.usedAt + 10000000000 ≤ s.timebase ∧ (9999999999 : Nat) < x.usedAt + 10000000000 ∧ s.appq = [] ∧
       s.sessions.length ≤ 256 ∧ (s.dropSession x.dev).session 5 = none ∧
       ({ s with appq := [(5, 19, [])] } : State).appq = (5, 19, []) :: []) := by
  refine ⟨⟨by decide +kernel, ?_⟩, ⟨by decide +kernel, id⟩, noPortWaits rfl, by decide +kernel⟩
  exact (Bool.eq_false_or_eq_true _)

/-- Key slot 127 with an ACTIVE LINK key of the job. -/
def linkKeyState (fs : List RxFrame) (epoch : Nat) : State :=
  { fabState [] fs ctx0 with keys := [(127, { KeySlot.reset with state := .active, job := 65535, epoch := epoch })] }

theorem witness_LinkAnnouncements :
    (let an := rx 2 0 0 ([2, 62, 63, 0, 0xFF, 0xFF, 0xFF, 0xFF] ++ List.replicate 16 1) true
     let s := linkKeyState [an] 65535
     SMap.get [] s.inq 19 = an :: [] ∧ an.typ = 2 ∧ an.sealed_ = true ∧ hField an.payload 0 1 = 2 ∧ (s.rec_ (hField an.payload 2 1)).valid = true ∧
       (s.linkSlots 63 (hField an.payload 4 2) .active).find? (fun k => (s.key k).epoch == hField an.payload 6 2) = some 127 ∧
       (let s := linkKeyState [an] 0
        (s.linkSlots 63 (hField an.payload 4 2) .active).find? (fun k => (s.key k).epoch == hField an.payload 6 2) = none)) ∧
    (let ac := rx 2 0 0 ([3, 62, 63, 0, 0xFF, 0xFF, 0xFF, 0xFF] ++ List.replicate 16 0) true
     let s := { linkKeyState [ac] 65535 with timebase := 100000000 }
     SMap.get [] s.inq 19 = ac :: [] ∧ ac.typ = 2 ∧ ac.sealed_ = true ∧ hField ac.payload 0 1 = 3 ∧ (s.rec_ (hField ac.payload 2 1)).valid = true ∧
       (s.linkSlots 63 (hField ac.payload 4 2) .active).find? (fun k => (s.key k).epoch == hField ac.payload 6 2) = some 127 ∧
       (s.partOfKey 127 = some 63 ∧ s.keysOf 63 = [127] ∧ (s.key 127).state = .active ∧ (s.key 127).kind = 0 ∧
         s.jobPeers 63 (s.key 127).job = [(peerDev, 62)] ∧ (s.key 127).acked.contains (peerDev, 62) = false ∧
         s.session peerDev = some ⟨peerDev, 19, .open_, false, 0, 0, 0, 0⟩ ∧ (s.port 19).state = .up ∧
         (s.key 127).announcedAt + 100000000 ≤ s.timebase ∧ (99999999 : Nat) < (s.key 127).announcedAt + 100000000) ∧ FrameWay s 19 peerDev) := by
  refine ⟨by decide +kernel, ?_⟩
  refine ⟨?_, ?_, ?_, ?_, ?_, ?_, ?_, ?_, ?_, ?_, ?_, ?_⟩ <;> decide +kernel

theorem witness_PortStates :
    (let s (x : Port) : State := { fabState [] [] ctx0 with ports := [(19, x)], timebase := 59999999999 }
     let p (x : Port) : Port := (s x).port 19
     let direct : Port := { upPort with role := 2 }
     let asks : Port := { direct with state := .auth, linkUp := true, attemptAt := 59899999999 }
     (p { upPort with state := .training }).state = .training ∧ (p { upPort with state := .training }).switched = true ∧
     ((p { direct with state := .training }).state = .training ∧ (p { direct with state := .training }).switched = false ∧
       (s { direct with state := .training }).sessionUp 5 = false ∧ (s { direct with state := .training }).sessionUp peerDev = true) ∧
     ((p { upPort with state := .retraining, training := true }).training = true ∧
       (p { upPort with state := .retraining, training := true }).state = .retraining ∧
       (p { upPort with state := .retraining, training := true }).switched = true) ∧
     (p { upPort with state := .absent }).state = .absent ∧ (p upPort).state = .up ∧
     ((p { upPort with faultAt := [0, 1] }).faultAt.filter (fun t => decide (59999999999 < t + 60000000000))).length < 3 ∧
     3 ≤ ((p { upPort with faultAt := [0, 0, 0] }).faultAt.filter (fun t => decide (59999999999 < t + 60000000000))).length ∧
     ((p asks).switched = false ∧ (p asks).peerAuth = false ∧ (p asks).state = .auth ∧ (p asks).fabric = true ∧ (p asks).linkUp = true ∧
       (p asks).attemptAt + 100000000 ≤ 59999999999 ∧ 2 ≤ (p { asks with fails := 2 }).fails ∧ (p { asks with fails := 1 }).fails < 2 ∧
       (59999999998 : Nat) < (p asks).attemptAt + 100000000)) := by
  decide +kernel

theorem witness_Collectives :
    (let s := fabState [] [] ctx0
     s.dev ≠ .hold ∧ s.collEntry 63 = some (63, ringEntry) ∧ (s.coll 63).running = false ∧ s.engineMay 63 = true ∧ (s.coll 63).next < ringEntry.count ∧
       ringEntry.step0 + (s.coll 63).next * ringEntry.period ≤ s.stepOf 63) ∧
    (let c := { ctx0 with running := true, sendIdx := 3, ready := [(3, (List.replicate 64 0, 0))] }
     let cn := { conn0 with sendSeq := 63 }
     let s := fabState [cn] [] c
     s.collEntry 63 = some (63, ringEntry) ∧ segAt ringEntry.sends ringEntry c.sendIdx = some (1, 1, 0) ∧ c.running = true ∧ c.dead = false ∧
       c.credAt = none ∧ ringEntry.log = false ∧ (s.part 63).replayLog = false ∧ s.sendConnIdx 63 ringEntry = some 0 ∧ s.conns[0]? = some cn ∧
       s.sendWay cn = .ready 19 none ∧ FrameWay s 19 cn.dev ∧ serialLt 32 cn.sendSeq cn.climit = true ∧
       serialLt 32 64 cn.climit = false ∧ SMap.find c.ready c.sendIdx = some (List.replicate 64 0, 0) ∧ s.dev = .ready) ∧
    (let c := { ctx0 with running := true, recvIdx := 1 }
     let bs := List.replicate 64 5
     let f : HeldFrame := ⟨0, bs, 0, collDigest ringEntry 0 1 1 0 2 0 bs⟩
     let cn := { conn0 with inbox := [f], expect := 1 }
     let s := fabState [cn] [] c
     s.recvConnIdx 63 ringEntry = some 0 ∧ s.conns[0]? = some cn ∧ cn.inbox = f :: [] ∧ s.upsets = [] ∧
       TakesSegment s 63 63 ringEntry cn f 1 1 0 3 ∧ (oldSegment { c with old := [(0, 1)] } ringEntry f).isSome = true) ∧
    (({ ctx0 with running := true } : CollCtx).startAt + ringEntry.limitNs ≤ 1000000000 ∧ 999999999 < ctx0.startAt + ringEntry.limitNs) ∧
    (let c := { ctx0 with running := true, sendIdx := 4, recvIdx := 2, srcDone := true, status := 31 }
     let s := fabState [conn0] [] c
     CollDone c ringEntry ∧ c.dead = false ∧ c.rotate = false ∧ s.sendConnIdx 63 ringEntry = some 0 ∧ s.conns[0]? = some conn0 ∧
       conn0.sent = [] ∧ ringEntry.tcnt = 0 ∧ c.status < 32) := by
  refine ⟨by decide +kernel, ?_, ?_, by decide +kernel, ?_⟩
  · refine ⟨?_, ?_, ?_, ?_, ?_, ?_, ?_, ?_, ?_, ?_, ⟨?_, ?_, ?_, ?_, ?_⟩, ?_⟩ <;> decide +kernel
  · refine ⟨?_, ?_, ?_, ?_, ⟨?_, ?_, ?_, ?_, ?_, ?_, ?_, ?_, ?_, ?_, ?_, ?_, ?_, ?_, ?_⟩, ?_⟩ <;> decide +kernel
  · refine ⟨⟨?_, ?_, ?_, ?_⟩, ?_⟩ <;> decide +kernel

theorem witness_SuspectAndStepLog : NetUp (fabState [] [] ctx0) ∧
    (let no := rx 2 0 0 ([4, 62, 63, 63, 0, 0, 0, 0] ++ List.replicate 8 0xFF) true
     let s := fabState [] [no] ctx0
     SMap.get [] s.inq 19 = no :: [] ∧ no.typ = 2 ∧ no.sealed_ = true ∧ hField no.payload 0 1 = 4 ∧ (s.rec_ (hField no.payload 2 1)).valid = true ∧
       hField no.payload 3 1 < 64 ∧ (s.part 63).suspects.contains (hField no.payload 3 1, hField no.payload 8 8) = false ∧
       (s.part 63).logRecs.find? (fun r => decide (r.1 ≤ hField no.payload 8 8) && decide (hField no.payload 8 8 < r.2.1)) = none ∧
       (s.part 63).noticed.contains (hField no.payload 3 1, hField no.payload 8 8) = false ∧
       ([(63, 2 ^ 64 - 1)] : List (Nat × Nat)).contains (hField no.payload 3 1, hField no.payload 8 8) = true) ∧
    (let no := rx 2 0 0 ([4, 62, 63, 63, 0, 0, 0, 0] ++ leBytes 8 1) true
     let y := { fabPart with logRecs := [(1, 2, 1, 4)], logBound := (2, fabPart.logBound.2), suspects := [(0, 1)] }
     let s := { fabState [] [no] ctx0 with parts := [(63, y)] }
     SMap.get [] s.inq 19 = no :: [] ∧ (s.rec_ (hField no.payload 2 1)).valid = true ∧ hField no.payload 3 1 = 63 ∧ hField no.payload 8 8 = 1 ∧
       (s.part 63).noticed.contains (63, 1) = false ∧ (s.part 63).suspects.contains (63, 1) = false ∧
       (s.part 63).logRecs.find? (fun r => decide (r.1 ≤ 1) && decide (1 < r.2.1)) = some (1, 2, 1, 4) ∧ s.upsets = [] ∧
       (s.translate 63 ((s.part 63).facet.glob.stepLogBase + 64 * (1 % 2 ^ (s.part 63).facet.glob.stepLogK)) .write).map (·.1) =
         some 0x20003FFFFC0 ∧ 0x20003FFFFC0 % 64 = 0) ∧
    (let s := (partState { fabPart with lastMark := some 0, stepLogPos := 3 }).setCore 14584 (seqCore { SeqState.reset with step := 1 })
     let g := (s.part 63).facet.glob
     g.stepLogK ≠ 0 ∧ (s.part 63).logBound.1 < s.stepOf 63 ∧ (s.part 63).lastMark.isSome = true ∧
       (s.translate 63 (g.stepLogBase + 64 * ((s.part 63).stepLogPos % 2 ^ g.stepLogK)) .write).map (·.1) = some 0x20003FFFFC0 ∧ 0x20003FFFFC0 % 64 = 0 ∧
       s.upsets = []) ∧
    (let no := rx 2 0 0 ([4, 62, 63, 63, 0, 0, 0, 0] ++ leBytes 8 1) true
     let s := { fabState [] [no] ctx0 with parts := [(63, { fabPart with noticed := [(63, 1)] })] }
     SMap.get [] s.inq 19 = no :: [] ∧ (s.rec_ (hField no.payload 2 1)).valid = true ∧
       (s.part (hField no.payload 2 1)).noticed.contains (hField no.payload 3 1, hField no.payload 8 8) = true) := by
  refine ⟨netUp rfl, ?_, ?_, ?_, ?_⟩ <;> decide +kernel

theorem otherReports {s : State} {x : Partition} {p : Nat} (h : s.parts = [(63, x)]) (hp : p ≠ 63) : (s.part p).reports = [] := by
  unfold State.part
  rw [h]
  simp [SMap.get, SMap.find, hp, Partition.reset]

theorem witness_ReplicaGroups :
    (let s := partState { fabPart with lastMark := some 0 }
     let t := partState { fabPart with lastMark := some 0, pass := some 7 }
     (s.part 63).facet.replica = some peerGroup ∧ PassDue s 63 peerGroup ∧ (s.part 63).pass = none ∧ PassDue t 63 peerGroup ∧
       (t.part 63).pass = some 7) ∧
    (let s := { partState { fabPart with pass := some 0 } with slices := [(16383, { Slice.reset with pass := some ⟨0, 0, 0, 0, false, true⟩ })] }
     (s.part 63).pass.isSome = true ∧ (s.coresOf 63).all (fun n => (s.slice n).pass.all (·.fin)) = true ∧
       (s.chansOf 63).all (fun c => (s.chan c).pass.all (·.fin)) = true ∧ (s.coresOf 63).contains 16383 = true) ∧
    (let r := rx 2 0 0 ([5, 62, 63, 0, 0xFF, 0xFF, 0, 0] ++ leBytes 8 3 ++ leBytes 8 (2 ^ 64 - 1)) true
     let s := { partState fabPart with inq := [(19, [r])], regs := [(Reg.replica 63, 0x70000)] }
     SMap.get [] s.inq 19 = r :: [] ∧ (s.part 63).facet.replica = some peerGroup ∧ hField r.payload 0 1 = 5 ∧ hField r.payload 2 1 = 63 ∧
       (s.rec_ 63).valid = true ∧ Reports s 63 peerGroup r.sdev 1 r.payload ∧
       (s.part 63).reports = [] ∧
       (s.setPart 63 { s.part 63 with reports := [⟨1, hField r.payload 8 8, some (hField r.payload 16 8)⟩] }).dueCompare = none ∧
       ({ fabPart with late := [3] } : Partition).late.contains (hField r.payload 8 8) = true) ∧
    (let r := rx 2 0 0 [6, 62, 63, 0, 0xFF, 0xFF, 15, 0] true
     hField r.payload 0 1 = 6 ∧ peerGroup.group = hField r.payload 4 2 ∧ hField r.payload 6 1 < 16 ∧
       (fabPart.reports = [] ∧ ∀ p : Nat, p ≠ 63 → ((partState fabPart).part p).reports = [])) ∧
    (let rs : List Report := [⟨0, 0, some 1⟩, ⟨1, 0, some 2⟩]
     let s := { partState { fabPart with reports := rs } with
       regs := [(Reg.replica 63, 0x30000)]
       cores := [(14584, seqCore { SeqState.reset with step := 2 })] }
     0 + 2 ≤ s.stepOf 63 / peerGroup.every ∧ (s.part 63).reports = rs ∧ s.active 63 0 = true ∧ s.active 63 1 = true ∧ (1 : Nat) ≠ 2 ∧
       ∀ p : Nat, p ≠ 63 → (s.part p).reports = []) ∧
    (let s := { partState fabPart with regs := [(Reg.recovery 63, 0x80000000)], timebase := 1000000000 }
     s.windowOpen 63 = true ∧ s.loupe.handover = false ∧ (s.part 63).recoveryAt + 1000000000 ≤ s.timebase ∧
       (999999999 : Nat) < (s.part 63).recoveryAt + 1000000000) := by
  refine ⟨⟨?_, ⟨?_, ?_, ?_, ?_⟩, ?_, ⟨?_, ?_, ?_, ?_⟩, ?_⟩, ?_, ⟨?_, ?_, ?_, ?_, ?_, ⟨?_, ?_, ?_, ?_, ?_, ?_, ?_⟩, ?_⟩,
    ⟨?_, ?_, ?_, ?_, fun p hp => otherReports rfl hp⟩, ⟨?_, ?_, ?_, ?_, ?_, fun p hp => otherReports rfl hp⟩, ?_⟩
  all_goals decide +kernel

/-! ## Witnesses: the host and its commands -/

/-- The part READY in host mode 2 with both functions' links up and some registers written; loupe and rings as given. -/
def hostState (rs : List (Nat × Word)) (ls : List InFlight) (hs : List (Nat × HostRing)) : State :=
  rs.foldl (fun s x => s.setReg x.1 x.2) { State.reset with
    dev := .ready
    rings := hs
    regs := [(Reg.laneStatus, 0x10000000)]
    loupe := { State.reset.loupe with perst := [(0, true), (1, true)], linkUp := [(0, true), (1, true)], inflight := ls } }
/-- The last ring's control word: function 1, both sizes 65536. -/
def ctrl64 : Word := 0xE1000000
def activeRing : HostRing := { HostRing.reset with state := .active }

theorem witness_HostRings :
    State.reset.funcUp 1 = false ∧
    (let s := hostState [] [] []
     let bad : Word := 0xE2100000
     s.funcUp 1 = true ∧ (s.ring 64).state = .disabled ∧ s.ringValid 64 ((ctrl64 ||| 0x80000000) &&& 0xFFFFFE00) = true ∧
       s.ringValid 64 ((bad ||| 0x80000000) &&& 0xFFFFFE00) = false ∧ bits (s.reg Reg.errInfo) 31 1 = 0) ∧
    (let s := hostState [(Reg.ringCtrl 64, ctrl64)] [] [(64, activeRing)]
     s.funcUp 1 = true ∧ (s.ring 64).state = .active ∧ ctrl64 &&& 0x7FFFFE00 = s.reg (Reg.ringCtrl 64) &&& 0x7FFFFFFF ∧ s.ringFunc 64 = 1 ∧
       (0xFFFF : Word).toNat < s.sqSize 64 ∧ (0xFFFF : Word).toNat < s.cqSize 64 ∧ s.sqSize 64 ≤ (0x10000 : Word).toNat ∧
       bits (s.reg Reg.errInfo) 31 1 = 0) ∧
    (let s := hostState [(Reg.ringCtrl 64, 0x61000000)] [] [(64, { activeRing with state := .draining })]
     (s.ring 64).state = .draining ∧ s.ringInflight 64 = 0 ∧ (s.ring 64).waiting = []) := by
  decide +kernel

/-- The clauses about a register, a part of one and a whole one need only that the function is up and that no access fault is latched. -/
theorem witness_HostRegisters :
    (let s := hostState [(Reg.sliceLayer 16383, 0x003FFC00)] [] []
     let v : Word := 0xCBC00400
     let w : Word := 2
     s.funcUp 1 = true ∧ bits (s.reg Reg.errInfo) 31 1 = 0 ∧ bits v 26 1 = 0 ∧ bits v 0 4 = 0 ∧ bits v 31 1 = 1 ∧ bits v 27 4 ≤ 9 ∧
       bits v 10 1 = 1 ∧ bits w 31 1 = 0 ∧ bits w 0 2 ≠ bits (s.reg (Reg.clkPart 63)) 0 2 ∧ s.partIn 63 [.running, .paused] = false ∧
       bits (s.reg (Reg.clkPart 63)) 31 1 = 0) ∧
    (let s := { hostState [] [] [] with parts := [(63, { Partition.reset with state := .paused })] }
     s.funcUp 1 = true ∧ bits (2 : Word) 0 2 ≠ bits (s.reg (Reg.clkPart 63)) 0 2 ∧ s.partIn 63 [.running, .paused] = true ∧
       bits (s.reg Reg.errInfo) 31 1 = 0) := by
  decide +kernel

/-- Staged codes of a map with all twenty quads of no role. -/
def stagedState (codes : List Word) : State := hostState ((List.range 20).map (fun q => (Reg.laneStage q, codes.getD q 0))) [] []

theorem witness_HostLinks :
    State.reset.dev = .cold ∧
    (let s := hostState [] [] []
     s.dev ≠ .cold ∧ s.funcExists 1 = true ∧ SMap.get false s.loupe.perst 1 = true ∧ s.linkMay = true ∧ s.funcUp 1 = true ∧
       s.loupe.mapBusy = false ∧ s.cfgHeld 1 0 = 0) ∧
    (let s (a b : Nat) : State := { hostState [] [] [] with loupe := { (hostState [] [] []).loupe with strap := [(8, a), (9, b)] } }
     SMap.find (s 8 9).loupe.strap 8 = some 8 ∧ SMap.find (s 8 9).loupe.strap 9 = some 9 ∧ SMap.find (s 9 8).loupe.strap 8 = some 9 ∧
       SMap.find (s 9 8).loupe.strap 9 = some 8 ∧ (s 9 8).linkMay = false ∧ (s 9 8).dev ≠ .cold) ∧
    (let s := stagedState [1, 1, 1]
     s.funcUp 1 = true ∧ s.loupe.mapBusy = false ∧ laneMapOk (s.setField Reg.laneMapCtrl 8 2 2).stagedMap = false) ∧
    (let s := stagedState [1, 1, 1, 1]
     s.funcUp 1 = true ∧ s.loupe.mapBusy = false ∧ laneMapOk (s.setField Reg.laneMapCtrl 8 2 2).stagedMap = true ∧
       laneMapOk (s.setField Reg.laneMapCtrl 8 2 3).stagedMap = false) ∧
    ({ State.reset with loupe := { State.reset.loupe with mapBusy := true } } : State).loupe.mapBusy = true := by
  decide +kernel

/-- Function 1's aperture on partition 63 (PARTITION mode), whose windows are those of windowPart. -/
def aptState (base : Word) : State :=
  { hostState [(Reg.aptCtrl 1, 0xC000003F), (Reg.aptBaseLo 1, base)] [] [] with devFacet := lastFacet, parts := [(63, windowPart)] }

theorem witness_HostAperture :
    (let s := hostState [(Reg.aptCtrl 1, 0x4000003F)] [] []
     s.funcUp 1 = true ∧ s.aptShut 1 = true) ∧
    (let s := aptState 0
     s.funcUp 1 = true ∧ s.aptShut 1 = false ∧ s.aptPieces 1 0x20000 4096 false = none ∧ bits (s.reg Reg.errInfo) 31 1 = 0 ∧
       s.aptPieces 1 0xFFF8 8 false = some [(0x20003FFFFF8, 0, 8)] ∧ s.aptPieces 1 0xFFF8 8 true = some [(0x20003FFFFF8, 0, 8)] ∧
       0x20003FFFFF8 % unitBytes 0x20003FFFFF8 = 0 ∧ 8 % unitBytes 0x20003FFFFF8 = 0 ∧ s.hbmLost 0x20003FFFFF8 = false ∧ s.upsets = []) := by
  decide +kernel

/-- A command of ring r with its entry's opcode in byte 0, in mailbox m, with a result or none. -/
def cmdOf (via : Via) (e : BitVec 512) (r : Option Result) : InFlight :=
  { via := via, cid := 0xFFFF, opcode := ef e 0 1, mbox := none, entry := e, holds := [], at_ := 0, begun := false, aux := 0, aux2 := 0, result := r }
/-- An entry from its bytes by offset: (offset, length, value). -/
def entryOf (fs : List (Nat × Nat × Nat)) : BitVec 512 := BitVec.ofNat 512 (fs.foldl (fun a x => a + x.2.2 * 2 ^ (8 * x.1)) 0)

theorem witness_CommandIntake :
    (let s := hostState [(Reg.ringCtrl 64, ctrl64)] [] [(64, { activeRing with sqHead := 65535 })]
     s.dev ≠ .cold ∧ s.loupe.handover = false ∧ s.loupe.inflight.length < 512 ∧ s.nextRing = some 64 ∧
       s.loupe.inflight.any (fun c => c.via == .mctp) = false) ∧
    (let s := hostState [] [cmdOf .mctp (entryOf [(0, 1, 1)]) none] []
     s.dev ≠ .cold ∧ s.loupe.inflight.any (fun c => c.via == .mctp) = true) ∧
    (let c := cmdOf (.ring 64) (entryOf [(0, 1, 0x10)]) (some ⟨St.refused, 0, []⟩)
     let s := { hostState [] [c] [] with timebase := 50000 }
     s.cmd 0 = some c ∧ c.via = .ring 64 ∧ c.result = some ⟨St.refused, 0, []⟩ ∧ c.refused = true ∧ c.mbox = none ∧ c.at_ + 50000 ≤ s.timebase ∧
       (49999 : Nat) < c.at_ + 50000) ∧
    (let x := { activeRing with waiting := [⟨0xFFFF, 0, 0, 0, none⟩], cqTail := 65534 }
     let s := hostState [(Reg.ringCtrl 64, ctrl64), (Reg.ringIrq 64, 2)] [] [(64, x)]
     (s.ring 64).waiting = ⟨0xFFFF, 0, 0, 0, none⟩ :: [] ∧ (s.ring 64).state ≠ .disabled ∧ ((s.ring 64).cqTail + 1) % s.cqSize 64 ≠ (s.ring 64).cqHead ∧
       s.funcUp (s.ringFunc 64) = true ∧ (s.ring 64).unsignalled + 1 < bits (s.reg (Reg.ringIrq 64)) 0 8 ∧
       ¬ ((65535 + 1) % s.cqSize 64 ≠ (s.ring 64).cqHead)) ∧
    (let s := { hostState [] [] [(64, { activeRing with unsignalled := 1, irq := 0xFFFF0002 })] with timebase := 65535000 }
     (s.ring 64).unsignalled ≠ 0 ∧ bits (s.ring 64).irq 16 16 ≠ 0 ∧
       (s.ring 64).firstAt + 1000 * bits (s.ring 64).irq 16 16 ≤ s.timebase ∧ (65534999 : Nat) < 1000 * 65535) := by
  decide +kernel

theorem witness_SimpleCommands :
    (let c := cmdOf (.ring 64) (entryOf [(0, 1, 0x01)]) none
     (hostState [] [c] []).cmd 0 = some c ∧ c.result = none ∧ c.begun = false ∧ c.opcode = Op.identify) ∧
    (let c := cmdOf (.ring 0) (entryOf [(0, 1, 0x39)]) none
     (hostState [] [c] []).cmd 0 = some c ∧ c.opcode = Op.thermal) ∧
    (let c := cmdOf (.ring 64) (entryOf [(0, 1, 0x02), (8, 1, 15), (12, 4, 2 ^ 32 - 1)]) none
     let s := hostState [] [c] [(64, { activeRing with mboxes := [(15, ⟨.valid, 2 ^ 32 - 1, 0, 0, 0, []⟩)] })]
     s.cmd 0 = some c ∧ c.opcode = Op.release ∧ c.via = .ring 64 ∧ ((s.ring 64).mbox (ef c.entry 8 1 % 16)).state = .valid ∧
       ((s.ring 64).mbox (ef c.entry 8 1 % 16)).gen = ef c.entry 12 4 ∧ ((hostState [] [c] []).ring 64).mbox 15 = Mailbox.reset ∧
       Mailbox.reset.state ≠ .valid) ∧
    (let rd (v : Via) (off n : Nat) := cmdOf v (entryOf [(0, 1, 0x03), (9, 1, n), (12, 4, off)]) none
     let c := rd (.ring 0) 0x3FFFF10 60
     let d := rd (.ring 64) 0 1
     c.opcode = Op.reg ∧ ef c.entry 8 1 = 0 ∧ c.via.caller = none ∧ regArgs c.entry 60 = true ∧
       regArgs (rd (.ring 0) 0x3FFFF14 60).entry 60 = false ∧ regArgs (rd (.ring 0) 0 61).entry 60 = false ∧
       d.via.caller = some 63 ∧ regArgs d.entry 60 = true ∧
       (List.range (ef d.entry 9 1)).all (fun i => State.reset.mayRead 63 (ef d.entry 12 4 + 4 * i)) = false) ∧
    (let wr (v : Via) (off x : Nat) := cmdOf v (entryOf [(0, 1, 0x03), (8, 1, 1), (9, 1, 1), (12, 4, off), (16, 4, x)]) none
     let c := wr (.ring 0) (Reg.eventVec 1) 0x800007FF
     let d := wr (.ring 64) Reg.irisCtrl 0
     let b := wr .mctp Reg.dieMap (2 ^ 32 - 1)
     let s := hostState [] [b] []
     c.opcode = Op.reg ∧ ef c.entry 8 1 = 1 ∧ c.via.caller = none ∧ regArgs c.entry 1 = true ∧
       (s.writeReg 0 (ef c.entry 12 4) (BitVec.ofNat 32 (ef c.entry 16 4))).2 = false ∧
       d.via.caller = some 63 ∧ regArgs d.entry 1 = true ∧ State.reset.mayWrite 63 (ef d.entry 12 4) = false ∧
       s.cmd 0 = some b ∧ b.via.caller = none ∧ regArgs b.entry 1 = true ∧
       (s.writeReg 0 (ef b.entry 12 4) (BitVec.ofNat 32 (ef b.entry 16 4))).2 = true ∧ bits (s.reg Reg.errInfo) 31 1 = 0) := by
  refine ⟨?_, ?_, ?_, ?_, ?_⟩ <;> decide +kernel

/-! ## Witnesses: partitions, keys, sequences, run commands and facets -/

/-- The part READY with partition 63 as given and commands in flight; some registers written. -/
def cmdState (x : Partition) (rs : List (Nat × Word)) (ls : List InFlight) : State :=
  { hostState rs ls [] with devFacet := lastFacet, parts := [(63, x)] }
/-- A command that has begun. -/
def begunOf (c : InFlight) : InFlight := { c with begun := true }
/-- A command of the operator, and of partition 63. -/
def opCmd (fs : List (Nat × Nat × Nat)) : InFlight := cmdOf (.ring 0) (entryOf fs) none
def tenCmd (fs : List (Nat × Nat × Nat)) : InFlight := cmdOf (.ring 64) (entryOf fs) none

theorem witness_PartitionLife :
    (let c := opCmd [(0, 1, 0x10), (8, 1, 63)]
     let s := cmdState Partition.reset [(Reg.released 7, 0x80000000), (Reg.chanReleased 15, 0xC0000000)] [c]
     s.cmd 0 = some c ∧ c.result = none ∧ c.begun = false ∧ c.opcode = Op.create ∧ ef c.entry 8 1 = 63 ∧ Creates s 63 ∧ s.licence 2 = false ∧
       (cmdState runPart [] [c]).partIn 63 [.empty] = false) ∧
    (let c := opCmd [(0, 1, 0x11), (8, 1, 63)]
     let s := cmdState runPart [] [c]
     s.cmd 0 = some c ∧ c.opcode = Op.destroy ∧ s.partIn 63 [.empty, .retiring] = false ∧ (s.part 63).encrypted = false) ∧
    (let c := begunOf (opCmd [(0, 1, 0x11), (8, 1, 63)])
     let s := { cmdState { runPart with state := .retiring } [] [c] with keys := [(127, { KeySlot.reset with state := .retiring })] }
     s.cmd 0 = some c ∧ c.result = none ∧ c.begun = true ∧ c.opcode = Op.destroy ∧ (cmdPart c.via c.opcode c.entry).getD 0 = ef c.entry 8 1 ∧
       (let l := (s.keysOf 63).filter (fun j => (s.key j).state == .retiring); (s.dropInstances 63 l).draining 63 l true = ([], []))) ∧
    (let c := begunOf (tenCmd [(0, 1, 0x21), (9, 1, 127)])
     let s := { cmdState runPart [] [c] with keys := [(127, { KeySlot.reset with state := .retiring })] }
     s.cmd 0 = some c ∧ c.begun = true ∧ c.opcode = Op.keyRetire ∧ (cmdPart c.via c.opcode c.entry).getD 0 = 63 ∧ (s.dropInstances 63 [127]).draining 63 [127] false = ([], [])) ∧
    (let c := tenCmd [(0, 1, 0x21), (9, 1, 127)]
     let s := { cmdState runPart [] [c] with keys := [(127, { KeySlot.reset with state := .active })] }
     s.cmd 0 = some c ∧ c.opcode = Op.keyRetire ∧ s.partIn 63 [.empty, .retiring] = false ∧ bitOf (s.rec_ 63).keyslots 127 = true ∧
       (s.key 127).state = .active ∧ (s.key 127).kind ≠ 1) ∧
    (let s := { cmdState runPart [] [] with chans := [(511, { Chan.reset with fillDue := true })] }
     (s.chansOf 63).contains 511 = true ∧ (s.chan 511).fillDue = true) ∧
    (let c := tenCmd [(0, 1, 0x22), (8, 1, 1), (12, 4, 31)]
     let d := tenCmd [(0, 1, 0x22), (8, 1, 0), (12, 4, 31)]
     c.begun = false ∧ c.opcode = Op.consent ∧ ef c.entry 8 1 = 1 ∧ d.opcode = Op.consent ∧ ef d.entry 8 1 = 0) := by
  refine ⟨⟨?_, ?_, ?_, ?_, ?_, ⟨?_, ?_, ?_⟩, ?_⟩, ?_, ?_, ?_, ?_, ?_, ?_⟩ <;> decide +kernel

/-- A point's 97 bytes, whose curve check is open to the spec's standards. -/
def pointBytes : Bytes := 4 :: List.replicate 96 1

/-- Whether the point lies on the curve is open: one of the two clauses about it applies. -/
theorem witness_KeyInstall :
    (let c := tenCmd [(0, 1, 0x20), (9, 1, 127), (16, 8, 2 ^ 64 - 64), (24, 4, 32), (32, 2, 65535)]
     let s := cmdState runPart [] [c]
     let s := { s with loupe := { s.loupe with entropyOk := true } }
     s.cmd 0 = some c ∧ c.result = none ∧ c.begun = false ∧ c.opcode = Op.keyInstall ∧ ef c.entry 10 1 = 0 ∧
       s.keyChecks 63 127 (ef c.entry 24 4) 32 c.entry [.configured, .loaded, .running, .paused, .stopped, .faulted] = none ∧
       (s.linkSlots 63 65535 .active).length < 2 ∧ s.loupe.entropyOk = true ∧ s.sessions = []) ∧
    (let c := tenCmd [(0, 1, 0x20), (9, 1, 127), (10, 1, 1)]
     let s := cmdState { Partition.reset with state := .configured } [] [c]
     let s := { s with loupe := { s.loupe with entropyOk := true }, keys := [(127, { KeySlot.reset with state := .active, kind := 1 })] }
     s.cmd 0 = some c ∧ ef c.entry 10 1 = 1 ∧ InstallsMemory s c.entry 63 127) ∧
    (let c := tenCmd [(0, 1, 0x20), (9, 1, 127), (10, 1, 2), (24, 4, 97)]
     let s := cmdState { Partition.reset with state := .configured } [] [c]
     pointBytes.length = 97 ∧ ef c.entry 10 1 = 2 ∧
       s.keyChecks 63 127 (ef c.entry 24 4) 97 c.entry [.configured, .loaded, .stopped, .faulted] = none ∧ ef c.entry 32 2 = 0 ∧
       hField pointBytes 0 1 = 4) ∧
    (Config.onCurve (beVal (sub pointBytes 1 48)) (beVal (sub pointBytes 49 48)) = true ∨
     Config.onCurve (beVal (sub pointBytes 1 48)) (beVal (sub pointBytes 49 48)) = false) := by
  refine ⟨by decide +kernel, ⟨by decide +kernel, by decide +kernel, ?_, ?_, ?_, ?_, ?_, ?_, ?_, ?_, ?_⟩, by decide +kernel, ?_⟩
  all_goals first | exact Bool.eq_false_or_eq_true _ | decide +kernel

/-- The sequence 0x7FFFF, the last of the partition's; an entry in a state, with its page list in the scratch window (the common cache, whose
evictions are open, keeps no line of scratch). -/
def seqTable : Nat := 0x8BA0000000 + 128 * 0x7FFFF
def seqEntryOf (st len : Nat) : SeqEntry :=
  { state := st, part := 63, fmt := 1, pool := 0, len := len, sparse := false, nglobal := 0, wblk := 0, listblks := 1, list := 0x1C00, stream := 0,
    parent := 0xFFFFFFFF, gen := 5 }
/-- Partition 63 with its layout, the entries of sequences 0x7FFFE and 0x7FFFF, the page list's first entry, a page count of 1 and commands;
the two entries' lines are in the common cache. -/
def seqState (q : Bytes) (e : DWord) (cs : List InFlight) : State :=
  { cmdState { windowPart with facet := { windowPart.facet with kv := some layout } } [] cs with
    cache := { lines := [(seqTable - 128, true), (seqTable, true)], mem := ⟨bytesAt seqTable q, [], []⟩ }
    mem := ⟨bytesAt seqTable q ++ [(0x20003FF0000, 1)] ++ bytesAt 0x20003FF1E00 (leBytes 8 e.toNat), [], []⟩ }
/-- SEQ_CONTROL of operation op, with the fields above. -/
def seqCmd (op : Nat) (fs : List (Nat × Nat × Nat)) : InFlight := tenCmd ([(0, 1, 0x1C), (8, 1, op), (12, 4, 0x7FFFF)] ++ fs)
/-- Command k stands there, not begun, its sequence is partition 63's and may be used. -/
def seqReady (s : State) (k : Nat) (c : InFlight) : Bool :=
  s.cmd k == some c && c.result.isNone && c.opcode == Op.seq && !c.begun && (match s.seqTarget c 0x7FFFF with | .inr p => p == 63 | .inl _ => false) &&
  ef c.entry 12 4 == 0x7FFFF && !s.partIn 63 [.retiring] && !s.filling 63 && s.kvOf 63 == some layout
/-- The entry of sequence 0x7FFFF can be read and is in a state. -/
def seqIn (s : State) (st : Nat) : Bool := let r := s.loadSeq 0x7FFFF; r.2.1 && r.1.state == st
def forkOf (s : State) (c : InFlight) : Forked :=
  let y := ((s.loadSeq 0x7FFFF).2.2.loadSeq 0x7FFFE).2.2
  let q := (s.loadSeq 0x7FFFF).1
  ((y.partRead 63 q.list 256).2.2.forkList 63 layout q (ef c.entry 20 4)).1

/-- Commands of a sequence that is OPEN, PARKED, FREE. -/
def cOpen := seqCmd 1 [(9, 1, 1), (24, 4, 0xC0000001), (32, 8, 0x1FDC0), (40, 4, 0xFFFFF)]
def cFork := seqCmd 2 [(16, 4, 0x7FFFE), (20, 4, 64), (32, 8, 0x1F800)]
def cEvict := seqCmd 6 [(48, 8, 0xFFFFFFFFFFFF0000)]
def cRestore := seqCmd 7 [(48, 8, 0xFFFFFFFFFFFF0000)]
def seqOpenState (e : DWord) : State := seqState (seqEntryOf 1 64).bytes e [seqCmd 8 [], cOpen, seqCmd 3 [], seqCmd 5 [], cFork, cEvict, cRestore]
def seqParkedState (e : DWord) : State := seqState (seqEntryOf 2 64).bytes e [seqCmd 4 [], seqCmd 5 [], cEvict, cRestore]

theorem witness_SequenceLife : NetUp (seqOpenState 0) ∧
    (let s := seqOpenState 0xE000000000000000
     let z := (s.loadSeq 0x7FFFF).2.2
     let y := (z.loadSeq 0x7FFFE).2.2
     seqIn s 1 = true ∧ seqReady s 0 (seqCmd 8 []) = true ∧ (s.ccRead none (s.seqAddr 0x7FFFF) 128).2.1 = 0 ∧ seqReady s 1 cOpen = true ∧
       seqReady s 2 (seqCmd 3 []) = true ∧ seqReady s 3 (seqCmd 5 []) = true ∧ seqReady s 4 cFork = true ∧ seqReady s 5 cEvict = true ∧
       seqReady s 6 cRestore = true ∧ (match z.seqTarget cFork 0x7FFFE with | .inr p => p == 63 | .inl _ => false) = true ∧
       (z.loadSeq 0x7FFFE).2.1 = true ∧ (z.loadSeq 0x7FFFE).1.state = 0 ∧ ef cFork.entry 20 4 ≤ (s.loadSeq 0x7FFFF).1.len ∧
       ef cFork.entry 40 4 < 2 ^ 20 ∧ y.listFits 63 layout { (s.loadSeq 0x7FFFF).1 with list := 0x1F800 } = true ∧
       (y.partRead 63 (s.loadSeq 0x7FFFF).1.list 256).2.1 = 0 ∧ (forkOf s cFork).bad = none ∧ (forkOf s cFork).done.length = 1 ∧
       s.upsets = []) ∧
    (let s := seqOpenState 0xE0000000FFFFFFFF
     seqIn s 1 = true ∧ seqReady s 4 cFork = true ∧ (forkOf s cFork).bad = some St.uncorrectable) ∧
    (let c := { begunOf (seqCmd 3 []) with aux := 1 * 2 ^ (64 * 191) }
     let s := seqState (seqEntryOf 2 0).bytes 0 [c]
     let s := { s with timebase := 10000001, engines := [(191, { Engine.reset with active := true })] }
     s.cmd 0 = some c ∧ c.result = none ∧ c.opcode = Op.seq ∧ c.begun = true ∧ s.drained c.aux = false ∧ c.aux2 + 10000000 < s.timebase ∧
       (10000000 : Nat) ≤ c.aux2 + 10000000) ∧
    (let s := seqState [] 0 [cOpen]
     let n := SeqEntry.opened cOpen.entry 63 1
     seqIn s 0 = true ∧ seqReady s 0 cOpen = true ∧ Opens (s.loadSeq 0x7FFFF).2.2 cOpen.entry 63 layout n ∧ (s.loadSeq 0x7FFFF).2.2.listFits 63 layout { n with list := 0x1FE00 } = false) ∧
    (let s := seqParkedState 0xC000000000000000
     let m := (s.loadSeq 0x7FFFF).2.2.allResident 63 layout (s.loadSeq 0x7FFFF).1
     seqIn s 2 = true ∧ seqReady s 0 (seqCmd 4 []) = true ∧ seqReady s 1 (seqCmd 5 []) = true ∧ seqReady s 2 cEvict = true ∧
       seqReady s 3 cRestore = true ∧ ef cEvict.entry 48 8 % 0x10000 = 0 ∧ ef cRestore.entry 48 8 % 0x10000 = 0 ∧ m.1 = true ∧ m.2.1 = true) ∧
    (let s := seqParkedState 0x8000000000000000
     let m := (s.loadSeq 0x7FFFF).2.2.allResident 63 layout (s.loadSeq 0x7FFFF).1
     seqIn s 2 = true ∧ seqReady s 0 (seqCmd 4 []) = true ∧ m.1 = false ∧ m.2.1 = true) := by
  refine ⟨netUp (by decide +kernel), ?_, ?_, ?_, ⟨?_, ?_, ⟨?_, ?_, ?_, ?_, ?_, ?_, ?_, ?_⟩, ?_⟩, ?_, ?_⟩ <;> decide +kernel

/-- Whether no core of partition 63 has an append ring or a window entry read at its start. -/
def startReads (s : State) : Bool :=
  (s.coresOf 63).all (fun n => (s.core n).ring.isNone &&
    [0, 1].all (fun k => match s.routeAhead n k { s.router n with running := true } with
      | some x => x.2.readWin.isNone
      | none => true))
theorem reads_of {s : State} (h : startReads s = true) : StartReads s 63 := by
  intro n hn
  have h2 := List.all_eq_true.mp h n hn
  simp only [Bool.and_eq_true, Option.isNone_iff_eq_none] at h2
  refine ⟨h2.1, fun k pc en w hk he hw => ?_⟩
  have h3 := List.all_eq_true.mp h2.2 k (by
    have h4 : k = 0 ∨ k = 1 := by omega
    rcases h4 with rfl | rfl <;> simp)
  rw [he] at h3
  simp only [Option.isNone_iff_eq_none] at h3
  exact absurd (h3.symm.trans hw) (by simp)

/-- Block 255 of partition 63 is ACTIVE. -/
def upBlocks (s : State) : State := { s with blocks := [(255, { Block.reset with state := .active, target := .active })] }
/-- A partition of no blocks, with its windows. -/
def bareState (x : Partition) (b : Bytes) (cs : List InFlight) : State :=
  { cmdState x [] cs with devFacet := { lastFacet with parts := [(63, { lastRec with blocks := 0 })] }, mem := ⟨bytesAt 0x20003FFF000 b, [], []⟩ }
def oneRun : RunCmd := ⟨.ring 64, 0xFFFF, 0, 0, 0, none, false, some 0⟩
def oneStop : StopReq := ⟨false, true, true, 0x1F000, 0xFCC000, 0, true, 1999, false, none, false, false, 0⟩

theorem witness_RunAndStop :
    (let c := tenCmd [(0, 1, 0x18), (9, 1, 1), (24, 8, 2 ^ 64 - 1)]
     let s := cmdState { Partition.reset with state := .loaded } [] [c]
     s.cmd 0 = some c ∧ c.result = none ∧ (cmdPart c.via c.opcode c.entry).getD 0 = 63 ∧ c.opcode = Op.run ∧ c.aux = 0 ∧ c.begun = false ∧
       s.partIn 63 [.loaded] = true ∧ s.changing 63 = false ∧ (s.part 63).entryStep.toNat < ef c.entry 24 8 ∧ s.repairBar 63 = none ∧
       ((s.setCmd 0 { c with begun := true }).retargetAll 63 .active).blocksUp 63 = false ∧ (cmdState runPart [] [c]).partIn 63 [.loaded] = false) ∧
    (let c := begunOf (tenCmd [(0, 1, 0x18)])
     let s := upBlocks (cmdState { Partition.reset with state := .loaded } [] [c])
     s.cmd 0 = some c ∧ c.opcode = Op.run ∧ c.aux = 0 ∧ c.begun = true ∧ s.blocksUp 63 = true ∧ s.stopOpen 63 = false ∧ StartReads s 63) ∧
    (let c := begunOf (tenCmd [(0, 1, 0x1A)])
     let s := upBlocks (cmdState { Partition.reset with state := .paused } [] [c])
     s.cmd 0 = some c ∧ c.opcode = Op.resume ∧ c.aux = 0 ∧ c.begun = true ∧ s.blocksUp 63 = true ∧ s.stopOpen 63 = false) ∧
    (let c := tenCmd [(0, 1, 0x1A)]
     let s := cmdState runPart [] [c]
     s.cmd 0 = some c ∧ c.opcode = Op.resume ∧ c.aux = 0 ∧ c.begun = false ∧ s.partIn 63 [.paused, .stopped] = false) ∧
    (let c := tenCmd [(0, 1, 0x19), (10, 1, 1), (16, 8, 0x1F000), (24, 8, 0xFCC000)]
     let s := cmdState windowPart [] [c]
     let d := tenCmd [(0, 1, 0x19), (9, 1, 1), (32, 8, 0x1F000)]
     let f := tenCmd [(0, 1, 0x19), (9, 1, 1), (10, 1, 1)]
     s.cmd 0 = some c ∧ c.opcode = Op.stop ∧ c.begun = false ∧ ef c.entry 9 1 = 0 ∧ s.partIn 63 [.running] = true ∧ s.stopArgs 63 c.entry = true ∧
       s.stopArgs 63 (tenCmd [(0, 1, 0x19), (10, 1, 1), (16, 8, 0x1F000), (24, 8, 0xFCC020)]).entry = false ∧
       d.opcode = Op.stop ∧ d.begun = false ∧ ef d.entry 9 1 = 1 ∧ ef d.entry 10 1 % 2 = 0 ∧ s.stopArgs 63 d.entry = true ∧
       ef f.entry 9 1 = 1 ∧ ef f.entry 10 1 % 2 = 1) ∧
    (let c := begunOf (tenCmd [(0, 1, 0x19), (9, 1, 1)])
     let d := begunOf (tenCmd [(0, 1, 0x19)])
     let s := { cmdState { runPart with stop := some oneStop } [] [c] with timebase := 2000 }
     s.timebase ≤ oneStop.armedAt + 1000000000 ∧ ¬ (1000002000 ≤ oneStop.armedAt + 1000000000) ∧ s.cmd 0 = some c ∧ c.begun = true ∧ c.aux = 0 ∧ c.at_ + 2000 ≤ s.timebase ∧ ef c.entry 9 1 = 1 ∧ s.partIn 63 [.running] = true ∧
       ef c.entry 32 8 = 0 ∧ d.opcode = Op.stop ∧ ef d.entry 9 1 = 0 ∧ (s.part 63).stop = some oneStop ∧ oneStop.armed = true ∧
       oneStop.ckpt = true ∧ oneStop.ended = none ∧ (1999 : Nat) < c.at_ + 2000) ∧
    (let s := { partState runPart with cores := (coresOfBlock 255).map (fun n => (n, seqCore { SeqState.reset with halted := true, haltAt := n, now := 17408 })) }
     s.partIn 63 [.running] = true ∧ s.coresOf 63 ≠ [] ∧ (s.coresOf 63).all (fun n => (s.core n).seq.halted) = true ∧ (s.part 63).haltCut = none) ∧
    (let s := { partState { runPart with haltCut := some 17408 } with
       cores := (coresOfBlock 255).map (fun n => (n, seqCore { SeqState.reset with halted := true, haltAt := n, now := 17408 }))
       routers := (coresOfBlock 255).map (fun n => (n, { Router.reset with now := 17408 })) }
     (s.coresOf 63).all (fun n => (s.core n).seq.halted) = true ∧ (s.part 63).haltCut = some 17408 ∧ s.partIn 63 [.running] = true ∧
       s.coresOf 63 ≠ [] ∧ AtCut s 63 17408) ∧
    (let b := leBytes 4 1
     let c := tenCmd [(0, 1, 0x1B), (16, 8, 0xF000), (24, 8, 1)]
     let d := tenCmd [(0, 1, 0x1B), (9, 1, 1), (16, 8, 0xF000), (24, 8, 1)]
     let s := bareState { windowPart with state := .stopped } b [c, d]
     let r := s.partRead 63 0xF000 4096
     let q := r.2.2.replayed 63 0xF000 false r.1
     s.cmd 0 = some c ∧ s.cmd 1 = some d ∧ c.opcode = Op.replay ∧ d.opcode = Op.replay ∧ c.begun = false ∧ ef c.entry 9 1 = 0 ∧ ef d.entry 9 1 = 1 ∧
       ReplayMay s 63 (ef c.entry 16 8) ∧ r.2.1 = 0 ∧ r.2.2.replayOk 63 false false 0 r.1 = false ∧
       r.2.2.replayOk 63 false false 1 r.1 = true ∧ r.2.2.replayOk 63 false true 1 r.1 = true ∧ q.1 = true ∧ StartReads q.2 63) := by
  refine ⟨?_, ⟨?_, ?_, ?_, ?_, ?_, ?_, reads_of ?_⟩, ?_, ?_, ?_, ?_, ?_, ⟨?_, ?_, ?_, ?_, ?_, ?_, ?_⟩,
    ?_, ?_, ?_, ?_, ?_, ?_, ?_, ⟨?_, ?_, ?_, ?_, ?_, ?_, ?_⟩, ?_, ?_, ?_, ?_, ?_, reads_of ?_⟩ <;> decide +kernel

/-- A checked image that its digests and no key concern: their checks are open to the hash standard. -/
def goodDigests (img : Bytes) : Prop :=
  (fxDigest img == sha (img.take 192 ++ sub img 256 (64 * fxNsect img))) = true ∧ ∀ x ∈ fxSects img, (x.digest == sha (x.bytes img)) = true
/-- A section-table entry with a digest of zeros, and an image of sections from byte 448 on. -/
def sectOf (typ len off : Nat) : Bytes := leBytes 4 typ ++ leBytes 4 len ++ leBytes 8 off ++ List.replicate 48 0
def headOf (kind len n id blocks : Nat) : Bytes :=
  leBytes 4 0x31544346 ++ leBytes 1 kind ++ leBytes 1 1 ++ leBytes 1 0 ++ leBytes 1 0xA1 ++ leBytes 4 len ++ leBytes 4 n ++ leBytes 8 id ++
    leBytes 32 blocks ++ List.replicate 200 0
/-- A facet for block 255 with one window of the last channel, whose cores start at their last bundle and route entry. -/
def partImage : Bytes :=
  headOf 2 1856 3 0xABCD (2 ^ 255) ++ sectOf 0x0001 128 448 ++ sectOf 0x0030 256 576 ++ sectOf 0x0020 1024 832 ++
    (leBytes 16 0 ++ leBytes 4 60000000 ++ leBytes 2 4095 ++ leBytes 1 0xFF ++ List.replicate 105 0) ++
    (leBytes 16 (windowOf 1 0x13FFFFF 1 0x8C) ++ List.replicate 240 0) ++
    (List.range 64).flatMap (fun _ => leBytes 2 1023 ++ leBytes 2 1023 ++ leBytes 4 0xFFFFFFFF ++ List.replicate 8 0)
/-- The same with the type of its first section twice. -/
def badImage : Bytes := partImage.take 320 ++ leBytes 4 1 ++ partImage.drop 324
/-- A device facet's image with the service record alone, its table at channel 30. -/
def devImage : Bytes :=
  headOf 1 512 1 7 0 ++ sectOf 0x0101 128 320 ++
    leBytes 64 (2 ^ 30) ++ leBytes 8 (0x8000000000 + 30 * 0x60000000) ++ leBytes 8 (0x8000000000 + 30 * 0x60000000 + 0x8000000) ++
    leBytes 8 (1408 * 0x100000) ++ List.replicate 40 0 ++ List.replicate 64 0
/-- A Clove image of one instruction with a digest of zeros, and one without its magic number. -/
def cloveImage (magic : Nat) : Bytes :=
  leBytes 4 magic ++ leBytes 4 4 ++ leBytes 4 60000000 ++ leBytes 4 0 ++ leBytes 4 0x14002 ++ List.replicate 1004 0 ++ leBytes 4 0x13

theorem facetCheck_of {s : State} {p : Option Nat} {b : Bytes} (h : goodDigests b)
    (h1 : firstBad (tableChecks p.isNone b) = none) (h2 : firstBad (s.signChecks p b) = none)
    (h3 : firstBad ((fxSects b).flatMap (contentChecks b ((recs (fxOne b Sx.memmap) 16).map (fun e => Window.of (leVal e))))) = none)
    (h4 : firstBad (s.stateChecks p b) = none) : s.facetCheck p b = none := by
  have hd : firstBad (digestChecks b) = none := by
    simp only [firstBad, digestChecks, Option.map_eq_none_iff, List.find?_eq_none, List.mem_map]
    rintro c ⟨x, hx, rfl⟩
    simp [h.2 x hx]
  have h0 : firstBad [hdr 0x12 192 (fxDigest b == sha (b.take 192 ++ sub b 256 (64 * fxNsect b)))] = none := by
    rw [h.1]
    rfl
  show Option.or _ _ = none
  rw [h0, h1, hd, h2, h4, h3]
  rfl

/-- An image whose section table is bad is refused whatever its digests are. -/
theorem facetCheck_bad {s : State} {p : Option Nat} {b : Bytes} (h : (firstBad (tableChecks p.isNone b)).isSome = true) :
    (s.facetCheck p b).isSome = true := by
  show (Option.or _ (Option.or (firstBad (tableChecks p.isNone b)) _)).isSome = true
  obtain ⟨r, hr⟩ := Option.isSome_iff_exists.mp h
  rw [hr]
  cases firstBad [hdr 0x12 192 (fxDigest b == sha (b.take 192 ++ sub b 256 (64 * fxNsect b)))] <;> rfl

/-- A partition's FACET_LOAD of an image of a length at a host address, and its FACET_ACTIVATE. -/
def loadCmd (addr len : Nat) : InFlight := tenCmd [(0, 1, 0x12), (16, 8, addr), (24, 4, len)]
def actCmd : InFlight := tenCmd [(0, 1, 0x13)]
/-- Partition 63 CONFIGURED, with the image of the facet whose blocks are `bs` staged, or none; the copy's pieces are empty, so that the
reread finds nothing but what it is said to. -/
def actState (x : Partition) (i : Option Staged) : State := cmdState { x with staged := i } [] [actCmd]
/-- Partition 63 loads an image; the staging range is of scratch, of which the common cache (whose evictions are open) keeps no line. -/
def loadState : State :=
  let s := cmdState { Partition.reset with state := .configured } [] [loadCmd (2 ^ 64 - 64) 1856]
  { s with devFacet := { s.devFacet with stageBase := 0x20003FF0000, stageLen := 0x10000 } }
/-- An image staged there, and read back. -/
def stagedBack (b : Bytes) : Bytes × Option Nat × State :=
  let u := loadState.putStaged (some 63) none
  let ext := takePieces u.stagingGaps 1856
  (u.stageCopy ext b).stagedRead ext
def stagedOf (b : Bytes) : Staged := ⟨b, 5, []⟩

/-- Whether the digests agree is open to the hash standard: the checks of FACET_LOAD and of a Clove image hold when they do. -/
theorem witness_FacetLoad :
    (let c := loadCmd (2 ^ 64 - 64) 1856
     let s := loadState
     let u := s.putStaged (some 63) none
     Fetched s 0 c ∧ c.opcode = Op.facetLoad ∧ cmdPart c.via Op.facetLoad c.entry = some 63 ∧ s.partIn 63 [.empty, .retiring] = false ∧
       (cmdState { Partition.reset with state := .retiring } [] [c]).partIn 63 [.empty, .retiring] = true ∧ ef c.entry 16 8 % 64 = 0 ∧
       ef (loadCmd 65 1856).entry 16 8 % 64 ≠ 0 ∧ ef c.entry 24 4 = 1856 ∧ ef (loadCmd 0 0).entry 24 4 = 0 ∧
       hostBytes 1856 partImage = partImage ∧ firstBad (headerChecks false 1856 partImage) = none ∧ 1856 ≤ u.stagingFree ∧
       ({ u with devFacet := { u.devFacet with stageLen := 1792 } } : State).stagingFree < 1856 ∧
       (firstBad (headerChecks false 1856 (List.replicate 1856 0))).isSome = true) ∧
    firstBad (headerChecks false 1856 badImage) = none := by
  refine ⟨⟨⟨?_, ?_, ?_⟩, ?_⟩, ?_⟩ <;> decide +kernel
theorem witness_FacetChecks : (stagedBack partImage).2.1 = none ∧
    (goodDigests partImage → (stagedBack partImage).2.2.facetCheck (some 63) partImage = none) ∧
    ((stagedBack badImage).2.2.facetCheck (some 63) badImage).isSome = true := by
  refine ⟨?_, fun h => facetCheck_of h ?_ ?_ ?_ ?_, facetCheck_bad ?_⟩ <;> decide +kernel

theorem witness_FacetCommands :
    (let i := stagedOf partImage
     let s := actState { Partition.reset with state := .configured } (some i)
     Fetched s 0 actCmd ∧ actCmd.opcode = Op.facetActivate ∧ ef actCmd.entry 8 1 < 128 ∧ cmdPart actCmd.via Op.facetActivate actCmd.entry = some 63 ∧
       s.power.brownout = false ∧ s.partIn 63 [.configured, .loaded, .stopped, .faulted] = true ∧ s.otherCmd 0 63 = false ∧
       s.filling 63 = false ∧ s.lostBlock 63 = false ∧ (s.part 63).staged = some i ∧ fxBlocks i.bytes = (s.rec_ 63).blocks ∧
       (∀ h ∈ s.chansOf 63 ++ (parseFacet partImage).cloves.map (·.chan), (s.clove h).held = none ∧ (s.clove h).rx = []) ∧
       (∀ n ∈ s.coresOf 63, s.partOfCore n = some 63) ∧ s.activateRej 63 i 0 0 = none ∧ (s.activateRej 63 i 1 0).isSome = true) ∧
    (let i := stagedOf (headOf 2 1856 3 0xABCD 1)
     let s := actState { Partition.reset with state := .configured } (some i)
     let t := { s with blocks := [(255, { Block.reset with state := .retired })] }
     let e := actState { Partition.reset with state := .configured } none
     fxBlocks i.bytes ≠ (s.rec_ 63).blocks ∧ (s.part 63).staged = some i ∧ t.lostBlock 63 = true ∧ t.filling 63 = false ∧
       ({ s with power := { s.power with brownout := true } } : State).power.brownout = true ∧
       (511 ∈ s.chansOf 63 ∧ ((s.setClove 511 { Clove.reset with held := some 0 }).clove 511).held ≠ none ∧
         ((s.setClove 511 { Clove.reset with held := some 0 }).clove 511).halted = false) ∧
       (e.part 63).staged = none ∧ e.partIn 63 [.configured, .loaded, .stopped, .faulted] = true ∧ e.otherCmd 0 63 = false ∧ e.filling 63 = false ∧
       (actState runPart (some i)).partIn 63 [.configured, .loaded, .stopped, .faulted] = false ∧ ((actState runPart none).part 63).staged = none) ∧
    (let c := opCmd [(0, 1, 0x13), (8, 1, 255)]
     let i := stagedOf devImage
     let s := hostState [] [c] []
     let s := { s with loupe := { s.loupe with devImage := some i } }
     Fetched s 0 c ∧ c.opcode = Op.facetActivate ∧ 128 ≤ ef c.entry 8 1 ∧ s.dev = .ready ∧ s.loupe.devImage = some i ∧
       devImage.length = 512 ∧ (parseDev devImage).seqtab = 0x8000000000 + 30 * 0x60000000 ∧ s.devLive (parseDev i.bytes) = true ∧
       ((s.putStaged none none).reread i 0 0).1 = none ∧ ((s.putStaged none none).reread i 2 0).1.isSome = true ∧
       ({ s with devFacet := lastFacet, parts := [(63, runPart)] } : State).devLive (parseDev i.bytes) = false ∧
       ({ s with dev := .hold } : State).dev ≠ .staging ∧ ({ s with dev := .hold } : State).dev ≠ .ready ∧ (hostState [] [c] []).loupe.devImage = none) ∧
    (let cl (kind len : Nat) := tenCmd [(0, 1, 0x14), (9, 1, 15), (10, 1, 31), (11, 1, kind), (12, 4, 60000000), (24, 4, len), (32, 8, 0xFB80)]
     let c := cl 0 0
     let d := cl 1 1028
     let s := cmdState windowPart [(Reg.chanReleased 15, 0x80000000)] [c, d]
     let t := s.setClove 511 { Clove.reset with held := some 0 }
     Fetched s 0 c ∧ Fetched s 1 d ∧ c.opcode = Op.cloveLoad ∧ (cmdPart c.via Op.cloveLoad c.entry).getD 0 = 63 ∧ s.partOfChan 511 = some 63 ∧
       32 * ef c.entry 9 1 + ef c.entry 10 1 = 511 ∧ (s.clove 511).held = none ∧ (s.clove 511).rx = [] ∧ (s.clove 511).halted = false ∧
       (t.clove 511).held.isSome = true ∧ t.partOfChan 511 = some 63 ∧ (t.clove 511).halted = false ∧
       s.cloveLoadStatus c.entry 63 511 [] .ok = St.ok ∧ s.cloveLoadStatus d.entry 63 511 (cloveImage 0) .ok = St.imageInvalid ∧
       (State.reset.setPart 63 Partition.reset).cloveLoadStatus d.entry 63 511 [] .poisoned ≠ St.ok ∧
       State.reset.partOfChan 511 ≠ some 63 ∧ s.cloveLoadStatus d.entry 63 511 [] .poisoned = St.poisoned ∧
       ((s.translateRange 63 0xFC00 1152 .write).filter (fun x => x.2.typ == 1)).isSome = false ∧
       ((s.translateRange 63 0x1FB80 1152 .write).filter (fun x => x.2.typ == 1)).isSome = false ∧
       ef d.entry 11 1 = 1 ∧ (cloveImage 0x45564C43).length = ef d.entry 24 4) ∧
    (beVal (sub (cloveImage 0x45564C43) 528 48) = sha ((cloveImage 0x45564C43).drop 1024) → cloveImageOk (cloveImage 0x45564C43) = true) := by
  refine ⟨⟨⟨?_, ?_, ?_⟩, ?_⟩, ?_, ⟨⟨?_, ?_, ?_⟩, ?_⟩, ⟨⟨?_, ?_, ?_⟩, ⟨?_, ?_, ?_⟩, ?_⟩, fun h => by unfold cloveImageOk; rw [← h]; decide +kernel⟩ <;>
    decide +kernel

theorem witness_CommandCompletes :
    (let y : Result := ⟨St.ok, 7, [1, 2]⟩
     let c := { opCmd [(0, 1, 0x01)] with result := some y }
     let d := { c with mbox := some 15 }
     let m := { c with via := .mctp }
     let s := hostState [] [c] [(0, { activeRing with mboxes := [(15, ⟨.pending, 0xFFFFFFFF, 0, 0, 0, []⟩)] })]
     let t := hostState [] [m] []
     let u := { t with loupe := { t.loupe with mctpQ := [entryOf [(0, 1, 1)]] } }
     s.cmd 0 = some c ∧ c.via = .ring 0 ∧ c.result = some y ∧ c.refused = false ∧ c.mbox = none ∧ d.mbox = some 15 ∧ d.refused = false ∧
       ((s.ring 0).mbox 15).gen = 0xFFFFFFFF ∧ t.cmd 0 = some m ∧ m.via = .mctp ∧ m.result = some y ∧ t.loupe.mctpQ = [] ∧
       u.loupe.mctpQ = entryOf [(0, 1, 1)] :: [] ∧ { tenCmd [(0, 1, 0x10)] with result := some (⟨St.refused, 0, []⟩ : Result) }.refused = true) ∧
    (let c := { begunOf (tenCmd [(0, 1, 0x18)]) with aux := 1 }
     let s := cmdState { Partition.reset with state := .stopped, run := some oneRun } [] [c]
     s.cmd 0 = some c ∧ c.via = .ring 64 ∧ c.result = none ∧ c.begun = true ∧ c.opcode = Op.run ∧ c.aux = 1 ∧ c.mbox = none ∧
       (cmdPart c.via c.opcode c.entry).getD 0 = 63 ∧ (s.part 63).run = some oneRun ∧ oneRun.ended.isSome = true ∧ s.settled 63 = true ∧
       (cmdState { Partition.reset with state := .stopped, freezeAt := 1 } [] [c]).settled 63 = false) ∧
    ((tenCmd [(0, 1, 0x18)]).result = none ∧ (tenCmd [(0, 1, 0x18)]).begun = false) := by
  refine ⟨?_, ?_, ?_⟩ <;> decide +kernel

/-! ## Witnesses: maintenance, counters, device commands, SPDM and the test port -/

def confPart : Partition := { windowPart with state := .configured }
/-- SPARE_APPLY of a kind, with the bytes above. -/
def spareCmd (kind : Nat) (fs : List (Nat × Nat × Nat)) : InFlight := opCmd ([(0, 1, 0x2A), (8, 1, kind)] ++ fs)
def upRegs : List (Nat × Word) :=
  [(Reg.released 7, 0xFFFFFFFF), (Reg.chanReleased 15, 0xFFFFFFFF), (Reg.sliceStatus 16383, 1), (Reg.hbmStatus 511, 1)]

theorem witness_Maintenance :
    (let c := tenCmd [(0, 1, 0x28), (16, 8, 0x2FFE0), (24, 8, 32)]
     let d := tenCmd [(0, 1, 0x28), (9, 1, 1), (16, 8, 0xFFFFE0), (24, 8, 32)]
     let s := cmdState confPart [] [c]
     s.cmd 0 = some c ∧ c.result = none ∧ c.begun = false ∧ c.opcode = Op.scrub ∧ ef c.entry 9 1 = 0 ∧
       (cmdPart c.via c.opcode c.entry).getD 0 = 63 ∧ s.partIn 63 [.empty, .retiring, .running, .paused] = false ∧ ef c.entry 16 8 % 32 = 0 ∧
       ef c.entry 24 8 % 32 = 0 ∧ ef c.entry 16 8 + ef c.entry 24 8 ≤ coreBytes ∧ s.lostBlock 63 = false ∧ ef d.entry 9 1 = 1 ∧
       s.partIn 63 [.empty, .retiring] = false ∧ ef d.entry 16 8 + ef d.entry 24 8 ≤ sliceBytes ∧
       ¬ (ef d.entry 16 8 + 32 + ef d.entry 24 8 ≤ sliceBytes)) ∧
    (let c := tenCmd [(0, 1, 0x28), (9, 1, 2), (16, 8, 0x1F800), (24, 8, 2048)]
     let s := cmdState windowPart upRegs [c]
     s.cmd 0 = some c ∧ c.opcode = Op.scrub ∧ ef c.entry 9 1 = 2 ∧ s.partIn 63 [.empty, .retiring] = false ∧ s.filling 63 = false ∧
       ef c.entry 16 8 % 2048 = 0 ∧ ef c.entry 24 8 = 2048 ∧
       reaches ((s.part 63).facet.memmap.map Window.of) 0 0x1F800 2048 (fun _ => true) = true ∧
       devOf ((s.part 63).facet.memmap.map Window.of) 0x1F800 = some 0x13FFFFFF800 ∧ chanOfAddr 0x13FFFFFF800 = 511 ∧
       (s.clove 511).halted = false ∧ s.chanUp 511 = true ∧ (s.scrubHbm 511 [⟨0, 0x13FFFFFF800, 2048, false⟩]).1.unc = 0 ∧
       s.cloveThrottle 511 ≠ 2 ∧ ({ s with regs := [(Reg.thermHbm 15, 0x40000000)] } : State).cloveThrottle 511 = 2 ∧
       ({ s with cloves := [(511, { Clove.reset with halted := true })] }.clove 511).halted = true) ∧
    (let c := tenCmd [(0, 1, 0x29), (9, 1, 7)]
     let d := tenCmd [(0, 1, 0x29), (9, 1, 15)]
     let s := cmdState confPart [] [c]
     s.cmd 0 = some c ∧ c.opcode = Op.selfTest ∧ s.partIn 63 [.configured, .loaded, .stopped, .faulted] = true ∧ ef c.entry 9 1 % 16 < 8 ∧
       8 ≤ ef d.entry 9 1 % 16) ∧
    (let c := spareCmd 0 [(12, 2, 16383), (14, 1, 7), (15, 1, 127)]
     let s := hostState upRegs [c] []
     s.cmd 0 = some c ∧ c.opcode = Op.spare ∧ ef c.entry 8 1 = 0 ∧ ef c.entry 12 2 = 16383 ∧
       ef c.entry 14 1 * 128 + ef c.entry 15 1 = 1023 ∧ SparesRow s c.entry 16383 1023) ∧
    (let c := spareCmd 1 [(12, 1, 15), (13, 1, 31), (14, 1, 31), (16, 2, 49151)]
     let s := hostState upRegs [c] []
     c.opcode = Op.spare ∧ ef c.entry 8 1 = 1 ∧ 32 * ef c.entry 12 1 + ef c.entry 13 1 = 511 ∧ SparesHbm s c.entry 511 ∧
       Upset.crypt 511 ∉ s.upsets) ∧
    (let c := spareCmd 2 [(12, 1, 13), (13, 1, 7), (14, 1, 1), (15, 1, 17)]
     let s := hostState upRegs [c] []
     c.opcode = Op.spare ∧ ef c.entry 8 1 = 2 ∧ xingId (ef c.entry 12 1) (ef c.entry 13 1) = xingId 13 7 ∧ SparesLane s c.entry (xingId 13 7)) ∧
    (let c := spareCmd 3 [(12, 1, 7), (13, 1, 65)]
     let s := cmdState confPart upRegs [c]
     s.cmd 0 = some c ∧ c.opcode = Op.spare ∧ ef c.entry 8 1 = 3 ∧ ef c.entry 12 1 = 7 ∧ ef c.entry 13 1 = 65 ∧ SparesColumn s c.entry 7 65) ∧
    (let c := spareCmd 4 [(12, 1, 255)]
     let s := cmdState confPart upRegs [c]
     s.cmd 0 = some c ∧ c.opcode = Op.spare ∧ ef c.entry 8 1 = 4 ∧ s.unreleased 255 = false ∧ s.holders [255] = [63] ∧
       (s.holders [255]).any (fun j => s.partIn j [.running, .paused]) = false ∧ ef c.entry 13 5 = 0 ∧ (s.block 255).state ≠ .retired) := by
  unfold SparesRow SparesHbm SparesLane SparesColumn
  refine ⟨?_, ?_, ?_, ?_, ?_, ?_, ?_, ?_⟩ <;> decide +kernel

def oneRec : TraceRec := 1

theorem witness_CountersAndTraces :
    (let c := tenCmd [(0, 1, 0x30), (9, 1, 2), (12, 4, 127)]
     c.result = none ∧ c.begun = false ∧ c.opcode = Op.cntConfig) ∧
    (let c := cmdOf .mctp (entryOf [(0, 1, 0x31), (9, 1, 1), (12, 4, 127)]) none
     c.opcode = Op.cntRead ∧ c.via = .mctp) ∧
    (let c := opCmd [(0, 1, 0x31), (16, 8, 2 ^ 64 - 1)]
     c.opcode = Op.cntRead ∧ c.via = .ring 0 ∧ c.via.caller.isNone = true ∧ ef c.entry 16 8 % 64 ≠ 0) ∧
    (let c := tenCmd [(0, 1, 0x31), (16, 8, 2 ^ 64 - 64), (24, 4, 64)]
     let s := { cmdState runPart [] [c] with timebase := 999999 }
     Fetched s 0 c ∧ c.via.caller.isSome = true ∧ s.timebase % 1000000 ≠ 0 ∧ c.opcode = Op.cntRead ∧ c.via = .ring 64 ∧ ef c.entry 16 8 % 64 = 0 ∧
       ({ s with timebase := 1000000 } : State).timebase % 1000000 = 0) ∧
    (let c := opCmd [(0, 1, 0x32), (8, 1, 63), (9, 1, 3), (12, 4, 7), (16, 8, 0x8000000000 + 30 * 0x60000000 + 0x5FFF0000), (24, 4, 0x10000)]
     let s := { cmdState runPart [] [c] with devFacet := { lastFacet with svcChannels := 2 ^ 30 } }
     (opCmd [(0, 1, 0x32)]).opcode = Op.traceConfig ∧ ef (opCmd [(0, 1, 0x32)]).entry 9 1 / 2 % 2 = 0 ∧ s.cmd 0 = some c ∧
       c.opcode = Op.traceConfig ∧ ef c.entry 9 1 / 2 % 2 = 1 ∧ s.streamOk c.via.caller.isSome 63 (ef c.entry 16 8) (ef c.entry 24 4) = true ∧
       s.upsets = [] ∧ s.hbmLost (ef c.entry 16 8) = false) ∧
    (let c := opCmd [(0, 1, 0x33), (16, 8, 2 ^ 64 - 64), (24, 4, 32)]
     c.opcode = Op.traceRead ∧ c.via = .ring 0 ∧ ef c.entry 16 8 % 64 = 0) ∧
    (let s := { partState windowPart with traceQ := [(64 * 127 + 31, [oneRec])] }
     let x : TraceCfg := ⟨7, true, 0x10000, 0x10000, 2045, 0⟩
     let t := { s with traceCfg := [(127, x)] }
     SMap.get [] s.traceQ (64 * 127 + 31) = oneRec :: [] ∧ (s.cfg 127).stream = false ∧ SMap.get [] t.traceQ (64 * 127 + 31) = oneRec :: [] ∧
       (t.cfg 127).stream = true ∧ SMap.get 0 t.traceDrops (64 * 127 + 31) = 0 ∧
       1 ≤ (x.len / 32 - 2) - (x.written - (({ t with traceQ := [] } : State).streamRead 127).1) ∧
       (({ t with traceQ := [] } : State).traceBufAddr 127 0).isSome = true) := by
  unfold Fetched
  refine ⟨?_, ?_, ?_, ?_, ?_, ?_, ?_⟩ <;> decide +kernel

/-- A licence and an amendment whose signatures' checks are open. -/
def licBytes (magic : Nat) : Bytes :=
  leBytes 4 magic ++ leBytes 1 1 ++ leBytes 1 0xA1 ++ leBytes 2 0 ++ leBytes 8 0 ++ leBytes 4 0xFFFFFFFF ++ leBytes 1 15 ++ List.replicate 139 0
def amendBytes : Bytes :=
  leBytes 4 0x444E4D41 ++ leBytes 1 1 ++ leBytes 1 0xA1 ++ leBytes 2 0 ++ leBytes 4 1 ++ leBytes 4 384 ++ leBytes 4 3 ++ List.replicate 364 0
def fabricPort (st : PortState) : State := { State.reset with ports := [(19, { Port.reset with role := 2, state := st })] }

/-- The clauses about a licence and an amendment apply when the open checks of their signatures hold. -/
theorem witness_DeviceCommands :
    (let c := opCmd [(0, 1, 0x23), (16, 8, 64), (24, 4, 160)]
     let b := licBytes 0x4943454C
     let s := hostState [] [c] []
     s.cmd 0 = some c ∧ c.result = none ∧ c.begun = false ∧ c.opcode = Op.licence ∧ ef c.entry 16 8 % 64 = 0 ∧ ef c.entry 24 4 = 160 ∧
       b.length = 160 ∧ s.loupe.licSeq < hField b 16 4 ∧ s.loupe.features &&& hField b 20 1 = s.loupe.features ∧
       s.licenceOk (hostBytes 160 (licBytes 0)) = false ∧ hostBytes 160 b = b ∧
       ¬ (({ s.loupe with licSeq := 2 ^ 32 - 1 } : Loupe).licSeq < hField b 16 4) ∧
       ef (opCmd [(0, 1, 0x23), (16, 8, 65), (24, 4, 160)]).entry 16 8 % 64 ≠ 0 ∧ 4096 < ef (opCmd [(0, 1, 0x23), (24, 4, 4097)]).entry 24 4) ∧
    (Config.ecdsaOk (Config.rom 0) (sha ((licBytes 0x4943454C).take 64)) (beVal (sub (licBytes 0x4943454C) 64 48)) (beVal (sub (licBytes 0x4943454C) 112 48))
      = true → State.reset.licenceOk (licBytes 0x4943454C) = true) ∧
    (let b := amendBytes
     beVal (sub b 24 48) = sha (sub b 256 (b.length - 384)) →
      Config.ecdsaOk (Config.rom 1) (sha (b.take 72)) (beVal (sub b (b.length - 112) 48)) (beVal (sub b (b.length - 64) 48)) = true →
      amendOk b = true ∧ (amendOk b = true → State.reset.amendImage (opCmd [(16, 8, 64), (24, 4, 384)]).entry b .ok = .inr b)) ∧
    (let c (q : Nat) := opCmd [(0, 1, 0x24), (8, 1, q), (16, 8, 64), (24, 4, 384)]
     let s := hostState [] [c 0, c 1] []
     s.cmd 0 = some (c 0) ∧ s.cmd 1 = some (c 1) ∧ (c 0).opcode = Op.amend ∧ ef (c 0).entry 8 1 = 0 ∧ ef (c 1).entry 8 1 = 1 ∧
       hostBytes (ef (c 1).entry 24 4) amendBytes = amendBytes ∧ hField amendBytes 8 4 = s.amendSeq + 1 ∧ s.amendFits amendBytes = true ∧
       s.loupe.handover = false ∧ s.loupe.standby = true ∧ s.loupe.standbyHalted = false ∧ s.dev = .ready ∧
       (∀ i, i ∈ [1, 2, 4] → bits (s.reg Reg.errDevice) (winBit i) 1 = 0) ∧
       s.amendImage (opCmd [(16, 8, 65)]).entry amendBytes .ok = .inl (fail St.badArgument) ∧
       ({ s with flash := (List.range 464).map (fun i => (flashAt 0 (0x300000 + 0x10000 * i), [1])) } : State).amendFits amendBytes = false ∧
       (let u := { s with loupe := { s.loupe with standby := false } }; u.dev = .ready ∧ u.loupe.standby = false) ∧
       (let u := { hostState [] [actCmd] [] with loupe := { (hostState [] [actCmd] []).loupe with handover := true, amendPending := some (1, []) } }
        u.loupe.inflight.any (fun d => d.opcode == Op.facetActivate && d.result.isNone) = true) ∧
       (let u := { s with loupe := { s.loupe with handover := true, amendPending := some (1, []) } }
        u.loupe.handover = true ∧ u.loupe.amendPending = some (1, []) ∧
          u.loupe.inflight.any (fun d => d.opcode == Op.facetActivate && d.result.isNone) = false) ∧
       (let u := { s with loupe := { s.loupe with handover := true } }; u.loupe.handover = true ∧ u.loupe.amendPending = none)) ∧
    (let c (q d : Nat) := opCmd [(0, 1, 0x2B), (8, 1, q), (9, 1, d)]
     let p (w : Nat) := opCmd [(0, 1, 0x38), (8, 2, w)]
     let k (q : Nat) := opCmd [(0, 1, 0x3A), (8, 1, q)]
     (c 2 9).opcode = Op.calibrate ∧ ef (c 2 9).entry 8 1 ≤ 2 ∧ ef (c 2 9).entry 9 1 ≤ 9 ∧ ef (c 0 0xFF).entry 9 1 = 0xFF ∧ 2 < ef (c 3 0).entry 8 1 ∧
       (9 < ef (c 0 10).entry 9 1 ∧ ef (c 0 10).entry 9 1 ≠ 0xFF) ∧ ef (p 499).entry 8 2 < 500 ∧ 4000 < ef (p 4001).entry 8 2 ∧
       19 < ef (k 20).entry 8 1 ∧ ef (k 20).entry 8 1 ≠ 0xFF ∧ (p 500).opcode = Op.powerCap ∧ 500 ≤ ef (p 500).entry 8 2 ∧ ef (p 4000).entry 8 2 ≤ 4000 ∧
       (k 19).opcode = Op.linkStatus ∧ ef (k 19).entry 8 1 ≤ 19 ∧ ef (k 0xFF).entry 8 1 = 0xFF) ∧
    (let c (op : Nat) := opCmd [(0, 1, 0x3B), (8, 1, 19), (9, 1, op)]
     (c 3).opcode = Op.port ∧ ef (c 3).entry 9 1 = 3 ∧ ef (c 0).entry 9 1 = 0 ∧ ef (c 1).entry 9 1 = 1 ∧ ef (c 2).entry 9 1 = 2 ∧
       (fabricPort .notFabric).portCheck 19 = some (fail St.busy) ∧ (fabricPort .up).portCheck 19 = none ∧ ((fabricPort .up).port 19).state = .up ∧ (fabricPort .up).hubRetrains 19 = false ∧
       ({ fabricPort .up with ports := [(18, { Port.reset with role := 2, state := .retraining }), (19, { Port.reset with role := 2, state := .up })] }
         : State).hubRetrains 19 = true ∧ (fabricPort .absent).portCheck 19 = none ∧ ((fabricPort .absent).port 19).state ≠ .retraining ∧
       (fabricPort .disabled).portCheck 19 = none ∧ ((fabricPort .disabled).port 19).state = .disabled ∧
       (fabricPort .quarantined).portCheck 19 = none ∧ ((fabricPort .quarantined).port 19).state = .quarantined) ∧
    (let s := hostState [] [] []
     s.dev ≠ .cold ∧ SMap.get 0 s.loupe.svcFails 255 < 8 ∧
       SMap.get 0 ({ s with loupe := { s.loupe with svcFails := [(255, 7)] } } : State).loupe.svcFails 255 = 7 ∧
       8 ≤ SMap.get 0 ({ s with loupe := { s.loupe with svcFails := [(255, 8)] } } : State).loupe.svcFails 255 ∧ s.dev = .ready ∧
       State.reset.dev ≠ .staging ∧ State.reset.dev ≠ .ready) ∧
    (let s := hostState [(Reg.chanReleased 0, 0x80000000)] [] []
     members s.devFacet.svcChannels 512 = [31] ∧ (s.clove 31).halted = false ∧ s.chanUp 31 = true ∧ s.cloveThrottle 31 ≠ 2 ∧ s.dev = .ready) := by
  refine ⟨?_, fun h => by unfold State.licenceOk; rw [h]; decide +kernel, fun h h2 => ?_, ?_, ?_, ?_, ?_, ?_⟩
  case refine_2 =>
    refine ⟨by unfold amendOk; dsimp only; rw [← h, h2]; decide +kernel, fun h3 => ?_⟩
    unfold State.amendImage
    rw [if_neg (by decide +kernel), show hostFail .ok = none from rfl, show hostBytes (ef (opCmd [(16, 8, 64), (24, 4, 384)]).entry 24 4) amendBytes =
      amendBytes by decide +kernel]
    dsimp only
    rw [h3, if_neg (by decide), if_neg (by decide +kernel)]
  all_goals decide +kernel

/-- Connection 2 as given, the part past COLD. -/
def spdmState (x : Spdm) : State := { hostState [] [] [] with spdm := [(2, x)] }
def spdm0 : Spdm := ⟨true, true, true, 0, 42, []⟩
/-- The test access port acts; partition 63 has given no consent. -/
def tapState : State := { cmdState windowPart [] [] with power := { State.reset.power with aonUp := true, pwrGood := [(3, true)] } }

theorem witness_SpdmAndTestPort :
    (State.reset.spdmUp 2 = false ∧ (spdmState spdm0).spdmUp 2 = true ∧ (hostState [] [] []).spdmUp 1 = true ∧
      ((spdmState spdm0).spdmConn 2).version = true ∧ ((spdmState spdm0).spdmConn 2).caps = true ∧ ((spdmState spdm0).spdmConn 2).algs = true ∧
      ((hostState [] [] []).spdmConn 2).version = false ∧ ((hostState [] [] []).spdmConn 2).algs = false ∧
      ((spdmState spdm0).measurement 0x7F).isSome = true ∧ (spdmState spdm0).measurement 0x80 = none ∧
      ((spdmState spdm0).spdmConn 2).chunk = [] ∧ ((spdmState { spdm0 with chunk := [1] }).spdmConn 2).chunk ≠ []) ∧
    (tapState.tapUp = true ∧ tapState.tapActs = true ∧
      (let v : BitVec 66 := (1 <<< 64) ||| (0x3FFFFFC <<< 32)
       v.extractLsb' 64 2 = 1 ∧ (v.extractLsb' 32 32).toNat = 0x3FFFFFC ∧ 0x3FFFFFC % 4 = 0 ∧ 0x3FFFFFC < 0x4000000) ∧
      (let v : BitVec 66 := (2 <<< 64) ||| (0x4000000 <<< 32)
       v.extractLsb' 64 2 = 2 ∧ (v.extractLsb' 32 32).toNat = 0x4000000 ∧ (0x4000000 : Nat) ≤ 0x4000000) ∧
      (let v : BitVec 115 := (1 <<< 112) ||| (0x20000000000 <<< 64)
       v.extractLsb' 112 2 = 1 ∧ (v.extractLsb' 64 48).toNat = 0x20000000000 ∧ 0x20000000000 % 8 = 0 ∧ isScratch 0x20000000000 = true ∧
         isHbm 0x20000000000 = false ∧ tapState.partOfScratch 0x20000000000 = none) ∧
      (let v : BitVec 115 := (1 <<< 112) ||| (0x20003FFFFF8 <<< 64)
       v.extractLsb' 112 2 = 1 ∧ (v.extractLsb' 64 48).toNat = 0x20003FFFFF8 ∧ (tapState.debugOwner 0x20003FFFFF8).1 = some 63 ∧
         tapState.consent 63 0 = false ∧ tapState.consent 63 2 = false) ∧
      (let d : Word := 0x80010001
       let sb : State := { tapState with jtag := { tapState.jtag with sbcs := 0x00160000, sbaddr := 0x20000000000 } }
       (sb.tapUp = true ∧ sb.tapActs = true ∧ bits sb.jtag.sbcs 20 1 = 1 ∧ bits sb.jtag.sbcs 12 3 = 0 ∧ bits sb.jtag.sbcs 17 3 = 3 ∧
         sb.jtag.sbaddr / 2 ^ 32 * 2 ^ 32 + (0x03FFFFF8 : Word).toNat = 0x20003FFFFF8 ∧ 0x20003FFFFF8 % 8 = 0 ∧
         (sb.debugOwner 0x20003FFFFF8).1 = some 63 ∧ sb.consent 63 0 = false ∧ sb.consent 63 2 = false ∧ bits (sb.jtag.sbcs ^^^ 0x00100000) 20 1 = 0) ∧
       bits d 0 1 = 1 ∧ bits d 31 1 = 1 ∧ bits d 16 10 = 1 - tapState.loupe.active ∧ tapState.loupe.active ≤ 1 ∧ tapState.loupe.standby = true)) := by
  refine ⟨?_, ?_⟩ <;> decide +kernel

/-! ## Witnesses: power, cooling, bring-up and the whole machine -/

/-- Every rail's regulator at address 0x40 + its number, with all three flags. -/
def boardOf : SMap (Nat × Nat × Nat) := (List.range 16).map (fun r => (r, 0x40 + r, 0, 7))
/-- The always-on supply, the reference and the inputs in groups 0 to 3 are up; the board is known. -/
def upPower : Power :=
  { Power.reset with aonUp := true, refclk := true, pwrGood := [(0, true), (1, true), (2, true), (3, true)], board := some boardOf, pwrReq := true }
/-- The part in a state with its supplies. -/
def powState (d : DevState) (w : Power) : State := { State.reset with dev := d, power := w }
def downPower : Power := { upPower with pwrReq := false, pwrGood := [] }

theorem witness_ResetsLeave :
    ((powState .ready upPower).power.aonUp = true ∧ (powState .ready upPower).dev ≠ .shutdown ∧ (powState .ready upPower).power.refclk = true) ∧
    ((powState .shutdown downPower).dev = .shutdown ∧ (powState .shutdown downPower).noneGood = true) := by
  decide +kernel

theorem witness_PowerEvents :
    (let s := powState .cold downPower
     s.power.aonUp = true ∧ s.power.pwrReq = false ∧ s.power.thermtripLow = false ∧ s.dev = .cold ∧ s.power.seqUp = none ∧ s.allGood = false ∧
       s.seqRails.length = 16 ∧ s.power.board = some boardOf ∧ (powState .ready downPower).dev = .ready ∧ (powState .shutdown downPower).dev = .shutdown) ∧
    (let s := powState .cold { upPower with seqUp := some 14 }
     s.power.seqUp = some 14 ∧ s.dev = .cold ∧ 14 + 1 < s.seqRails.length ∧ s.seqRails.length ≤ 15 + 1 ∧ s.power.pwrReq = true) ∧
    ((powState .shutdown { upPower with seqDown := some 15 }).power.seqDown = some 15) ∧
    ((powState .cold { upPower with refclk := false }).power.refclk = false) ∧
    (let s := powState .cold upPower
     let s := { s with loupe := { s.loupe with windowOpen := true } }
     let t := { s with loupe := { s.loupe with strap := (List.range 10).map (fun i => (i, i)) } }
     s.power.aonUp = true ∧ s.loupe.windowOpen = true ∧ SMap.find s.loupe.strap 9 = none ∧ s.loupe.strap = [] ∧
       t.loupe.strap = (List.range 10).map (fun i => (i, i))) ∧
    (let s := powState .ready upPower
     s.dev = .ready ∧ s.power.brownout = false ∧ (∀ i, i ∈ [2, 3, 4] → bits (s.reg Reg.errDevice) (winBit i) 1 = 0)) ∧
    (let s := { powState .ready { upPower with brownout := true, brownAt := 1, brownParts := [63] } with
       timebase := 20000001, devFacet := lastFacet, parts := [(63, { runPart with brownout := true })] }
     s.power.brownout = true ∧ s.timebase ≤ s.power.brownAt + 20000000 ∧ s.power.brownAt + 20000000 ≤ s.timebase ∧
       (∀ p ∈ s.power.brownParts, p < 64) ∧ s.partIn 63 [.running] = true ∧ (s.part 63).brownout = true ∧ (s.part 63).brownOpen = false ∧
       (s.setPart 63 { s.part 63 with brownOpen := true }).partIn 63 [.running, .paused] = true ∧
       ((s.setPart 63 { s.part 63 with brownOpen := true }).part 63).brownOpen = true) ∧
    (let s := powState .ready { upPower with missed := [(15, 2)] }
     let l : List (RailId × Nat × Nat × Bool) := (List.range 16).map (fun r => (Fin.ofNat 16 r, 2047, 65535, false))
     (∀ x ∈ l, x.2.2.2 = false) ∧ ((List.range 16).all (fun r => s.railFlag r 0 && l.any (fun x => x.1.val == r))) = true ∧
       l.find? (fun x => x.1.val == 15) = some (15, 2047, 65535, false) ∧ SMap.get 0 s.power.missed 15 = 2) ∧
    (let s := { powState .ready upPower with blocks := [(255, { Block.reset with state := .retain })] }
     bits (s.reg (Reg.rail 7)) 10 11 = 0 ∧ bits (s.reg (Reg.rail 7)) 21 11 = 0 ∧
       (let t := s.setReg (Reg.rail 7) (700 <<< 10); bits (t.reg (Reg.rail 7)) 10 11 = 700 ∧ t.railFlag 7 2 = true ∧ t.powered 255 = true) ∧
       s.railFlag 7 2 = true ∧ s.powered 255 = true ∧ 255 / 32 = 7 ∧ (powState .ready Power.reset).railFlag 7 2 = false) ∧
    (let s := { powState .ready upPower with aperture := [(7, [255])], blocks := [(255, { Block.reset with target := .active, queued := true })] }
     SMap.get [] s.aperture 7 = 255 :: [] ∧ s.power.brownout = false ∧ s.ramps 7 < 4 ∧ s.dev = .ready) ∧
    (let s := { powState .ready upPower with blocks := [(254, { Block.reset with state := .active }), (255, { Block.reset with ramping := true })] }
     (s.block 255).ramping = true ∧ (s.block 254).ramping = false ∧ (s.block 254).queued = false ∧
       (s.block 254).target.rank < (s.block 254).state.rank ∧ (s.block 254).state ≠ .retired) ∧
    (let s := { powState .ready upPower with timebase := 1000000000 }
     4 ∉ s.loupe.conds ∧ SMap.get 0 s.loupe.winAt 4 + 1000000000 ≤ s.timebase) ∧
    (let s := powState .ready upPower
     let s := { s with loupe := { s.loupe with smbAlert := true } }
     s.dev ≠ .cold ∧ s.loupe.smbAlert = true) := by
  refine ⟨?_, ?_, ?_, ?_, ?_, ?_, ?_, ?_, ?_, ?_, ?_, ?_, ?_⟩ <;> decide +kernel

/-- The flow is known only with a board record; its rounding is open, so with one only the inlet decides here. -/
theorem witness_CoolantCondition :
    (let s := powState .ready { upPower with board := none }
     let t := { s with thermal := { s.thermal with coolBad := true } }
     s.dev ≠ .cold ∧ s.loupe.handover = false ∧ (-320 : Int) ≤ 641 ∧ (641 : Int) ≤ 1920 ∧ s.thermal.coolBad = false ∧ (16 * 40 : Int) < 641 ∧
       ¬ ((16 * 40 : Int) < 640) ∧ s.power.board.isSome = false ∧ t.thermal.coolBad = true ∧ (624 : Int) ≤ 16 * 39 ∧ ¬ ((625 : Int) ≤ 16 * 39) ∧
       t.anyHot = false) ∧
    (let s := powState .ready upPower
     s.power.board.isSome = true ∧ (16 * 40 : Int) < 1920 ∧ (2200 ≤ s.flowOf s.flowPulses ∨ ¬ 2200 ≤ s.flowOf s.flowPulses)) := by
  refine ⟨by decide +kernel, by decide +kernel, by decide +kernel, ?_⟩
  omega

theorem witness_ThermalAndPowerCap :
    (let o := Reg.thermDram 7 9 3
     let s := { powState .ready upPower with thermal := { State.reset.thermal with last := [(o, 16 * 108 + 1 + 2 ^ 15)] } }
     sensorReg 0 7 39 = some o ∧ s.power.aonUp = true ∧ s.dev = .ready ∧ s.power.thermtripLow = false ∧
       SMap.find s.thermal.last o = some ((1729#16 : BitVec 16).toInt + 2 ^ 15).toNat ∧ bits (s.reg o) 29 2 = 0 ∧
       16 * 108 < (1729#16 : BitVec 16).toInt ∧ s.sampleLevel 0 o (1729#16 : BitVec 16).toInt = 3 ∧
       s.sampleLevel 0 o (1728#16 : BitVec 16).toInt ≤ 3) ∧
    (let s := powState .ready upPower
     s.dev ≠ .cold ∧ s.power.aonUp = true ∧ s.anyWarm = false) ∧
    (let s := powState .ready { upPower with dutyMin := 20, dutyMax := 255 }
     let s := (s.setField Reg.irisCtrl 8 8 250).setField Reg.thermFlow 0 16 1000
     s.power.dutyMin ≤ s.power.dutyMax ∧ s.power.dutyMax ≤ 255 ∧ bits (s.reg Reg.thermFlow) 0 16 ≠ 0xFFFF ∧ s.anyWarm = false ∧
       bits (s.reg Reg.irisCtrl) 8 8 + 5 ≤ s.power.dutyMax ∧ s.power.dutyMin ≤ bits (s.reg Reg.irisCtrl) 8 8 ∧
       bits (s.reg Reg.thermFlow) 0 16 + 500 ≤ 100 * bits (s.reg Reg.irisCtrl) 16 8) := by
  refine ⟨?_, ?_, ?_⟩ <;> decide +kernel

/-- The part in MGMT_READY at a step of bring-up. -/
def bringState (n waves : Nat) : State :=
  let s := powState .mgmtReady upPower
  { s with loupe := { s.loupe with bringStep := n, wavesDone := waves } }
/-- In COLD with function 0's reset released and the map of dies written. -/
def coldState (m : Word) : State :=
  let s := (powState .cold upPower).setReg Reg.dieMap m
  { s with loupe := { s.loupe with perst := [(0, true)], windowOpen := false } }
/-- In STAGING with the last wave done and every block released but the last `n`. -/
def stagingState (m : Word) : State :=
  let s := (List.range 8).foldl (fun s i => s.setReg (Reg.released i) (if i = 7 then m else 0xFFFFFFFF)) (powState .staging upPower)
  { s with loupe := { s.loupe with bringStep := 9, wavesDone := 16 } }

theorem witness_BringUpStages :
    (State.reset.power.aonUp = false ∧ State.reset.flash = []) ∧
    (let s := coldState 0xC00003FF
     s.power.pwrReq = true ∧ s.dev = .cold ∧ s.power.aonUp = true ∧ s.allGood = true ∧ s.power.refclk = true ∧ s.loupe.windowOpen = false ∧
       SMap.get false s.loupe.perst 0 = true ∧ bits (s.reg Reg.dieMap) 30 1 = 1 ∧ s.flash = [] ∧
       bits ((coldState 0x80000000).reg Reg.dieMap) 30 1 = 0) ∧
    ((bringState 2 0).atStep 2 = true ∧ (bringState 3 0).atStep 3 = true ∧ (bringState 4 0).atStep 4 = true ∧ (bringState 5 0).atStep 5 = true ∧
      (bringState 6 0).atStep 6 = true ∧ (bringState 6 0).loupe.wavesDone = 0 ∧ (bringState 7 1).atStep 7 = true ∧ (bringState 7 1).repairs = none ∧
      (bringState 8 1).atStep 8 = true ∧ (bringState 8 1).loupe.failedCores = [] ∧
      (List.range 256).any ((bringState 8 1).toStep 9).releasable = true ∧ (bringState 8 0).atStep 8 = true ∧
      (List.range 256).any ((bringState 8 0).toStep 9).releasable = false) ∧
    (let s := stagingState 0xFFFFFFFF
     let t := stagingState 0x7FFFFFFF
     s.dev = .staging ∧ s.loupe.bringStep = 9 ∧ s.loupe.wavesDone = 16 ∧ (List.range 256).any s.releasable = false ∧
       bits (s.reg Reg.bringup) 23 1 = 0 ∧ t.dev = .staging ∧ t.releasable 255 = true) := by
  refine ⟨?_, ?_, ?_, ?_⟩ <;> decide +kernel

theorem witness_StepRunsFront :
    ({ State.reset with pending := [.powerOnReset, .coldEntry] } : State).pending = .powerOnReset :: [.coldEntry] ∧ State.reset.pending = [] := by
  decide +kernel
theorem witness_StepKeepsForm : State.reset.form = true ∧
    ({ State.reset with pending := [.identify 0], mem := ⟨[(0x20003FFFFFF, 1)], [], []⟩, regs := [(Reg.irisCtrl, 1)] } : State).form = true := by
  decide +kernel

/-! ## Single steps and values: expected values from the spec's own examples, or worked by hand from the rule named -/

/-- The next state of one step with a command in front; the state itself where the step does not answer one. -/
def after (i : Instr) (s : State) : State :=
  match step { s with pending := [i] } with
  | .next t => t
  | _ => s

/-- 13 R391's example: CORE_SEQ_STATUS[12345] lies at 0x026_0728. -/
theorem test_offset : Reg.seqStatus 12345 = 0x0260728 := by decide
/-- 12's example: edge 10 under the default plan reads 0xFEDC_BA98. -/
theorem test_default_plan : planDefault 10 0 = 0xFEDCBA98 := by decide
/-- 02 R51's example: INT8 127 with the E4M3 scale 0x7E decodes to 56,832. -/
theorem test_int8_scale :
    (match (decodeElem .int8 2 127 0x7E).1 with
     | .fin false m e => decide (m * 2 ^ e.toNat = 56832)
     | _ => false) = true := by decide
/-- 05's examples of slot words are legal; the same DRAIN word with a reserved bit is not. -/
theorem test_slot_words :
    slotLegal 3 0x08000203 = true ∧ slotLegal 4 0x08104A0A = true ∧ slotLegal 3 0x18140000 = true ∧ slotLegal 5 0x08000080 = true ∧
      slotLegal 5 0xA4340000 = true ∧ slotLegal 3 0x18140001 = false := by decide
/-- 05 R143: SADDI S1, S0, −1 writes 0xFFFF_FFFF; S0 is a register as any other. -/
theorem test_saddi : ((after (.saddi 7 0x40041FFF) State.reset).core 7).s 1 = 0xFFFFFFFF := by decide +kernel
/-- 05 R144: LEND of a counter of 2 branches to bundle 5 and leaves 1; of 1 it falls through and leaves 0. -/
theorem test_lend :
    (let c := (after (.lend 16383 0x18600005) loopState).core 16383
     c.l 3 = 1 ∧ c.seq.next = 5) ∧
    (let c := (after (.lend 16383 0x18400005) loopState).core 16383
     c.l 2 = 0 ∧ c.seq.next = 0) := by decide +kernel
/-- 13's example: the completion entry's bytes, and the mailbox of generation 42. -/
theorem test_completion :
    (let s := hostState [(Reg.ringCtrl 1, 0x90800000), (Reg.ringIrq 1, 0x00000002)] [] [(1, { activeRing with waiting := [⟨0x11, 0, 0, 42, none⟩], sqHead := 18 })]
     (after (.completionWrite 1) s).out =
      [.hostWrite 0 0 [0x11, 0, 0, 1, 18, 0, 0, 0, 0, 0, 0, 0, 42, 0, 0, 0] false]) := by decide +kernel
/-- 14 R431: IDENTIFY's payload begins with "PK-CX2" and the architecture byte 0xA1. -/
theorem test_identify :
    (let c := opCmd [(0, 1, 0x01)]
     ((after (.identify 0) (hostState [] [c] [])).cmd 0).map (fun c => (c.result.map (fun r => (r.status, r.payload.take 9)))) =
       some (some (0, [0x50, 0x4B, 0x2D, 0x43, 0x58, 0x32, 0, 0, 0xA1]))) := by decide +kernel
/-- 13 R401: a doorbell moves the tail; one past the ring does not, and is logged with kind 4. -/
theorem test_doorbell :
    (let s := hostState [(Reg.ringCtrl 64, ctrl64)] [] [(64, activeRing)]
     ((after (.sqTail 1 64 0xFFFF) s).ring 64).sqTail = 65535 ∧ ((after (.sqTail 1 64 0x10000) s).ring 64).sqTail = 0 ∧
       bits ((after (.sqTail 1 64 0x10000) s).reg Reg.errInfo) 24 4 = 4) := by decide +kernel
/-- 08 R246: an atomic add of 1 to 0xFFFF_FFFF wraps and answers the old value. -/
theorem test_fetch_add :
    (let s := { State.reset with mem := ⟨(List.range 4).map (fun i => (0x20000000000 + i, 0xFF)), [], []⟩ }
     let t := after (.atomicAdd 0 0x20000000000 .w32 1) s
     t.mem.byte 0x20000000000 = 0 ∧ t.mem.byte 0x20000000003 = 0) := by decide +kernel
/-- 11 R325: a received block's segment is added and becomes ready to be sent in its place, and the next segment is awaited. -/
theorem test_segment_receive :
    (let c := { ctx0 with running := true, recvIdx := 1 }
     let bs := List.replicate 64 5
     let f : HeldFrame := ⟨0, bs, 0, collDigest ringEntry 0 1 1 0 2 0 bs⟩
     let t := after (.collSegmentReceive 63 0) (fabState [{ conn0 with inbox := [f], expect := 1 }] [] c)
     (t.coll 63).recvIdx = 2 ∧ (t.coll 63).ready = [(3, (bs, 0))]) := by decide +kernel
/-- 18 R582: at a flow more than 500 mL/min under the setpoint the duty rises by 5; on an empty queue one nanosecond passes. -/
theorem test_pwm :
    (let s := powState .ready { upPower with dutyMin := 20, dutyMax := 255 }
     let s := (s.setField Reg.irisCtrl 8 8 100).setField Reg.thermFlow 0 16 1000
     bits ((after .coolantPwmUpdate s).reg Reg.irisCtrl) 8 8 = 105 ∧
       (match step s with | .next t => t.timebase == 1 | _ => false) = true) := by
  decide +kernel
/-- 21 R628: a strap is taken once. -/
theorem test_strap :
    (let s := powState .cold upPower
     let s := { s with loupe := { s.loupe with windowOpen := true } }
     SMap.find (after (.strapSample 9 8) (after (.strapSample 9 9) s)).loupe.strap 9 = some 9) := by decide +kernel
/-- 01's example: the western half's column 13 is retired, so logical columns 0–12 stay and 13–31 stand one column further east. -/
theorem test_column :
    (let s := State.reset.setReg (Reg.tileRepair 2) 0x00008D00
     s.coreOn (2 * 2112 + 12) = some (coreInTile 2 0 12) ∧ s.coreOn (2 * 2112 + 13) = none ∧ s.coreOn (2 * 2112 + 14) = some (coreInTile 2 0 13) ∧
       s.coreOn (2 * 2112 + 32) = some (coreInTile 2 0 31) ∧ s.coreOn (2 * 2112 + 33) = some (coreInTile 2 0 32) ∧
       s.coreOn (2 * 2112 + 65) = none) := by decide +kernel

end Sys2Proof.Machine.Tests
end

namespace Sys2Proof.Machine

/-! ## Every step keeps the canonical form -/

theorem State.form_iff (s : State) : s.form = true ↔
    s.mem.wf = true ∧ s.cache.mem.wf = true ∧ regsForm s.regs = true ∧ SMap.wf (0 : Nat) s.cnts = true := by
  simp [State.form, and_assoc]

/-- What every command keeps includes the canonical form. -/
theorem Keeps.form {s t : State} (h : Keeps s t) (hs : s.form = true) : t.form = true := by
  obtain ⟨hmem, hcache, hregs, hcnts⟩ := s.form_iff.1 hs
  exact t.form_iff.2 ⟨h.mem hmem, h.cache hcache, h.regs hregs, h.cnts hcnts⟩

theorem State.idle_keeps (s : State) : Keeps s s.idle := Keeps.ite ⟨rfl, id, id, id, id⟩ (Keeps.refl s)

theorem step_of_empty {s : State} (h : s.pending = []) : step s = .next s.idle := by
  simp [step, h]

theorem step_of_front {s : State} {i : Instr} {rest : List Instr} (h : s.pending = i :: rest) :
    step s = exec i { s with pending := rest } := by
  simp [step, h]

/-- A step answers a next state that keeps the canonical form and has taken one command from the queue. -/
theorem step_keeps_form (s : State) (hs : s.form = true) :
    ∃ t, step s = .next t ∧ t.form = true ∧ t.pending = s.pending.drop 1 := by
  cases hq : s.pending with
  | nil =>
    have hk := s.idle_keeps
    exact ⟨s.idle, step_of_empty hq, hk.form hs, hk.queue.trans hq⟩
  | cons i rest =>
    obtain ⟨t, ht, hk⟩ := exec_good i { s with pending := rest }
    exact ⟨t, (step_of_front hq).trans ht, hk.form hs, hk.queue⟩

/-- Settles O3: each command is Good, whatever the state, and a step runs one command or idles. -/
theorem stepKeepsForm : Obligations.StepKeepsForm := by
  refine ⟨fun i s => ?_, step_keeps_form⟩
  obtain ⟨t, ht, hk⟩ := exec_good i s
  exact ⟨t, ht, hk.queue⟩

end Sys2Proof.Machine

namespace Sys2Proof.Machine

/-! ## Byte strings of fixed length -/

@[simp] theorem leBytes_length (n x : Nat) : (leBytes n x).length = n := by
  induction n generalizing x with
  | zero => rfl
  | succ n ih => simp [leBytes, ih]

@[simp] theorem beBytes_length (n x : Nat) : (beBytes n x).length = n := by
  simp [beBytes]

/-- The IDENTIFY payload is 128 bytes of the device and 112 of a partition (14 R431). -/
theorem State.identity_length (s : State) (caller p : Option Nat) : (s.identity caller p).length = 240 := by
  cases p <;> simp [State.identity]

/-! ## The commands in flight under register accesses -/

@[simp] theorem State.tally_loupe (s : State) (p : Option Nat) (set off k : Nat) : (s.tally p set off k).loupe = s.loupe := by
  unfold State.tally
  extract_lets w
  split <;> rfl

@[simp] theorem State.msix_loupe (s : State) (f v : Nat) : (s.msix f v).loupe = s.loupe := by
  unfold State.msix
  split <;> simp

@[simp] theorem State.hostEvent_inflight (s : State) (b : Nat) : (s.hostEvent b).loupe.inflight = s.loupe.inflight := by
  unfold State.hostEvent
  split
  · rfl
  · simp only [List.foldl_cons, List.foldl_nil]
    split <;> split <;> simp

@[simp] theorem State.accessFault_inflight (s : State) (win f kind addr : Nat) :
    (s.accessFault win f kind addr).loupe.inflight = s.loupe.inflight := by
  simp only [State.accessFault, State.hostEvent_inflight, State.countField_loupe]
  split <;> rfl

@[simp] theorem State.readFull_inflight (s : State) (req off : Nat) :
    (s.readFull req off).2.loupe.inflight = s.loupe.inflight := by
  unfold State.readFull
  split
  · split <;> rfl
  · split
    · rfl
    · split <;> simp

@[simp] theorem State.readRun_inflight (s : State) (req off n : Nat) :
    (s.readRun req off n).2.loupe.inflight = s.loupe.inflight := by
  induction n generalizing s off with
  | zero => rfl
  | succ n ih => simp [State.readRun, ih]

@[simp] theorem State.drainRing_loupe (s : State) (r : Nat) : (s.drainRing r).loupe = s.loupe := rfl

@[simp] theorem State.writeRingCtrl_inflight (s : State) (f r : Nat) (v : Word) :
    (s.writeRingCtrl f r v).loupe.inflight = s.loupe.inflight := by
  unfold State.writeRingCtrl
  dsimp only
  split
  · split
    · simp
    · split <;> simp
  · split <;> simp
  · split
    · simp
    · split <;> simp

@[simp] theorem State.writeRingBase_inflight (s : State) (f r off : Nat) (v : Word) :
    (s.writeRingBase f r off v).loupe.inflight = s.loupe.inflight := by
  unfold State.writeRingBase
  split
  · simp
  · split <;> simp

@[simp] theorem State.writeLayer_loupe (s : State) (n : Nat) (v : Word) : (s.writeLayer n v).1.loupe = s.loupe := by
  unfold State.writeLayer
  dsimp only
  split <;> simp

@[simp] theorem State.writeClk_loupe (s : State) (p : Nat) (v : Word) : (s.writeClk p v).1.loupe = s.loupe := by
  unfold State.writeClk
  dsimp only
  split
  · rfl
  · split <;> simp

@[simp] theorem State.commitMap_inflight (s : State) : s.commitMap.loupe.inflight = s.loupe.inflight := by
  unfold State.commitMap
  split
  · rfl
  · split <;> simp

@[simp] theorem State.writePlain_loupe (s : State) (off : Nat) (i : RegInfo) (v : Word) :
    (s.writePlain off i v).1.loupe = s.loupe := rfl

theorem State.loupe_ite {s a b : State} {c : Prop} [Decidable c] (ha : a.loupe = s.loupe) (hb : b.loupe = s.loupe) :
    (if c then a else b).loupe = s.loupe := by
  split <;> assumption

/-- A term, as the kernel cannot check a rewrite inside unmask's body: it would unfold the subtraction of 0x20000. -/
@[simp] theorem State.unmask_loupe (s : State) (off : Nat) : (s.unmask off).loupe = s.loupe :=
  State.loupe_ite ((State.msix_loupe _ _ _).trans (State.setField_loupe _ _ _ _ _)) rfl

/-- No register write touches a command in flight. -/
@[simp] theorem State.writeReg_inflight (s : State) (f off : Nat) (v : Word) :
    (s.writeReg f off v).1.loupe.inflight = s.loupe.inflight := by
  unfold State.writeReg
  dsimp only
  split -- a counter
  · rfl
  split -- an offset that holds no register
  · rfl
  split -- a ring's base
  · simp
  split -- a ring's control
  · simp
  split -- SLICE_LAYER
  · simp
  split -- LANE_MAP_CTRL
  · split <;> simp
  split -- ERR_INFO
  · split <;> simp
  split -- IRIS_CTRL
  · split <;> split <;> simp
  split -- FAB_ETYPE
  · split <;> simp
  split -- CLK_PART
  · simp
  split -- FAB_VLAN, else a register written as its bits' access types say
  · split <;> simp
  · split <;> simp

/-! ## A command that does its work in one action -/

theorem State.cmd_of_inflight {s t : State} {k : Nat} (h : t.loupe.inflight = s.loupe.inflight) : t.cmd k = s.cmd k := by
  simp [State.cmd, h]

theorem State.finish_of_cmd {s : State} {k : Nat} {c : InFlight} (h : s.cmd k = some c) (y : Result) :
    s.finish k y = s.ended k c y := by
  simp [State.finish, State.ended, h]

/-- The action ends the command where it leaves the commands in flight alone. -/
theorem Fetched.perform {s t : State} {k op : Nat} {c : InFlight} {form : BitVec 512 → Bool}
    {f : State → InFlight → Result × State} {y : Result} (hc : Fetched s k c) (hop : c.opcode = op) (hform : form c.entry = true)
    (hf : f s c = (y, t)) (ht : t.loupe.inflight = s.loupe.inflight) : s.perform k op form f = t.ended k c y := by
  obtain ⟨hcmd, hres, hbeg⟩ := hc
  have htc : t.cmd k = some c := (State.cmd_of_inflight ht).trans hcmd
  simp [State.perform, hcmd, hop, hres, hbeg, hform, hf, State.finish_of_cmd htc]

@[simp] theorem State.ended_mem (s : State) (k : Nat) (c : InFlight) (y : Result) : (s.ended k c y).mem = s.mem := rfl
@[simp] theorem State.ended_regs (s : State) (k : Nat) (c : InFlight) (y : Result) : (s.ended k c y).regs = s.regs := rfl
@[simp] theorem State.ended_ring (s : State) (k : Nat) (c : InFlight) (y : Result) (r : Nat) :
    (s.ended k c y).ring r = s.ring r := rfl

theorem Fetched.lt_length {s : State} {k : Nat} {c : InFlight} (hc : Fetched s k c) : k < s.loupe.inflight.length :=
  (List.getElem?_eq_some_iff.1 hc.1).1

theorem State.told_ended {s : State} {k : Nat} {c : InFlight} (h : k < s.loupe.inflight.length) (y : Result) :
    Told (s.ended k c y) k y := by
  simp [Told, State.ended, State.setCmd, State.cmd, h]

end Sys2Proof.Machine

namespace Sys2Proof.Machine

/-! ## IDENTIFY, THERMAL_READ and RESULT_RELEASE -/

section
variable {s : State} {k : Nat} {c : InFlight}

theorem Fetched.exec_identify (hc : Fetched s k c) (hop : c.opcode = Op.identify) :
    exec (.identify k) s =
      .next (s.ended k c ⟨St.ok, 0, s.identity c.via.caller (cmdPart c.via Op.identify c.entry)⟩) :=
  congrArg Host.Outcome.next (hc.perform hop rfl (by rw [hop, okWith]) rfl)

theorem Fetched.exec_thermalRead (hc : Fetched s k c) (hop : c.opcode = Op.thermal) :
    exec (.thermalRead k) s = .next (s.ended k c ⟨St.ok, 0, s.thermalRead c.via.caller⟩) :=
  congrArg Host.Outcome.next (hc.perform hop rfl rfl rfl)

end

/-- The ring with a mailbox given back (13 R413). -/
def HostRing.freed (x : HostRing) (m : Nat) : HostRing :=
  { x with mboxes := SMap.put x.mboxes m { x.mbox m with state := .free, payload := [] } }

theorem HostRing.freed_mbox_same (x : HostRing) (m : Nat) : ((x.freed m).mbox m).state = .free := by
  simp [HostRing.freed, HostRing.mbox]

theorem HostRing.freed_mbox_other (x : HostRing) {m j : Nat} (h : j ≠ m) : (x.freed m).mbox j = x.mbox j :=
  SMap.get_put_other _ _ _ h

section
variable {s : State} {k r : Nat} {c : InFlight}

theorem Fetched.exec_resultRelease_held (hc : Fetched s k c) (hop : c.opcode = Op.release) (hvia : c.via = .ring r)
    (hst : ((s.ring r).mbox (ef c.entry 8 1 % 16)).state = .valid)
    (hgen : ((s.ring r).mbox (ef c.entry 8 1 % 16)).gen = ef c.entry 12 4) :
    exec (.resultRelease k) s =
      .next ((s.setRing r ((s.ring r).freed (ef c.entry 8 1 % 16))).ended k c ⟨St.ok, 0, []⟩) :=
  congrArg Host.Outcome.next (hc.perform hop rfl (by simp [hvia, hst, hgen, okWith, HostRing.freed]) rfl)

theorem Fetched.exec_resultRelease_other (hc : Fetched s k c) (hop : c.opcode = Op.release) (hvia : c.via = .ring r)
    (h : ¬ (((s.ring r).mbox (ef c.entry 8 1 % 16)).state = .valid ∧
      ((s.ring r).mbox (ef c.entry 8 1 % 16)).gen = ef c.entry 12 4)) :
    exec (.resultRelease k) s = .next (s.ended k c ⟨St.badArgument, 0, []⟩) :=
  congrArg Host.Outcome.next (hc.perform hop rfl (by simp [hvia, if_neg h, fail]) rfl)

end

/-! ## REG_ACCESS -/

theorem deny_of_tenant {via : Via} {p : Nat} (h : via.caller = some p) (status : Nat) : deny via status = ⟨St.refused, 0, []⟩ := by
  simp [deny, h]

section
variable {s : State} {k : Nat} {c : InFlight} (hc : Fetched s k c) (hop : c.opcode = Op.reg)
include hc hop

section
variable (hdir : ef c.entry 8 1 = 0)
include hdir

theorem Fetched.exec_regAccessRead_badArgs (hargs : regArgs c.entry 60 = false) :
    exec (.regAccessRead k) s = .next (s.ended k c ⟨St.badArgument, 0, []⟩) :=
  congrArg Host.Outcome.next (hc.perform hop (by simp [hdir]) (by simp [hargs, fail]) rfl)

theorem Fetched.exec_regAccessRead_granted (hargs : regArgs c.entry 60 = true)
    (hmay : ∀ p, c.via.caller = some p → ∀ i, i < ef c.entry 9 1 → s.mayRead p (ef c.entry 12 4 + 4 * i) = true) :
    exec (.regAccessRead k) s =
      .next ((s.readRun (reqOfVia c.via) (ef c.entry 12 4) (ef c.entry 9 1)).2.ended k c
        ⟨St.ok, 0, (s.readRun (reqOfVia c.via) (ef c.entry 12 4) (ef c.entry 9 1)).1.flatMap (fun w => leBytes 4 w.toNat)⟩) := by
  refine congrArg Host.Outcome.next (hc.perform hop (by simp [hdir]) ?_ (State.readRun_inflight _ _ _ _))
  cases hcaller : c.via.caller with
  | none => simp [hargs, okWith]
  | some p =>
    have hall : (List.range (ef c.entry 9 1)).all (fun i => s.mayRead p (ef c.entry 12 4 + 4 * i)) = true := by
      simpa using hmay p hcaller
    simp only [hargs, hall, okWith]
    rfl

theorem Fetched.exec_regAccessRead_refused (hargs : regArgs c.entry 60 = true) {p i : Nat} (hcaller : c.via.caller = some p)
    (hi : i < ef c.entry 9 1) (hno : s.mayRead p (ef c.entry 12 4 + 4 * i) = false) :
    exec (.regAccessRead k) s = .next (s.ended k c ⟨St.refused, 0, []⟩) := by
  have hall : (List.range (ef c.entry 9 1)).all (fun i => s.mayRead p (ef c.entry 12 4 + 4 * i)) = false :=
    List.all_eq_false.2 ⟨i, List.mem_range.2 hi, by simp [hno]⟩
  refine congrArg Host.Outcome.next (hc.perform hop (by simp [hdir]) ?_ rfl)
  simp only [hargs, hcaller, hall, deny_of_tenant hcaller]
  rfl

end

section
variable (hdir : ef c.entry 8 1 = 1)
include hdir

theorem Fetched.exec_regAccessWrite_badArgs (hargs : regArgs c.entry 1 = false) :
    exec (.regAccessWrite k) s = .next (s.ended k c ⟨St.badArgument, 0, []⟩) :=
  congrArg Host.Outcome.next (hc.perform hop (by simp [hdir]) (by simp [hargs, fail]) rfl)

theorem Fetched.exec_regAccessWrite_taken (hargs : regArgs c.entry 1 = true)
    (hmay : ∀ p, c.via.caller = some p → s.mayWrite p (ef c.entry 12 4) = true)
    (htaken : (s.writeReg 0 (ef c.entry 12 4) (BitVec.ofNat 32 (ef c.entry 16 4))).2 = false) :
    exec (.regAccessWrite k) s =
      .next ((s.writeReg 0 (ef c.entry 12 4) (BitVec.ofNat 32 (ef c.entry 16 4))).1.ended k c ⟨St.ok, 0, []⟩) := by
  refine congrArg Host.Outcome.next (hc.perform hop (by simp [hdir]) ?_ (State.writeReg_inflight _ _ _ _))
  cases hcaller : c.via.caller with
  | none => simp [hargs, htaken, okWith]
  | some p => simp [hargs, htaken, hmay p hcaller, okWith]

/-- A write that a tenant may not make, or of which any part is refused (13 R396). -/
theorem Fetched.exec_regAccessWrite_logged (hargs : regArgs c.entry 1 = true)
    (h : (∃ p, c.via.caller = some p ∧ s.mayWrite p (ef c.entry 12 4) = false) ∨
      (s.writeReg 0 (ef c.entry 12 4) (BitVec.ofNat 32 (ef c.entry 16 4))).2 = true) :
    exec (.regAccessWrite k) s =
      .next ((s.accessFault 0 0 3 (ef c.entry 12 4)).ended k c (deny c.via St.accessFault)) := by
  refine congrArg Host.Outcome.next (hc.perform hop (by simp [hdir]) ?_ (State.accessFault_inflight _ _ _ _ _))
  rcases h with ⟨p, hcaller, hno⟩ | hfail
  · simp [hargs, hcaller, hno]
  · simp [hargs, hfail]

end
end

/-- Settles O45: each command's work is one action that leaves the commands in flight alone. -/
theorem simpleCommands : Obligations.SimpleCommands := by
  intro s k c hc e o
  refine ⟨fun hop => ⟨s.identity_length _ _, hc.exec_identify hop⟩, hc.exec_thermalRead, ?release, ?read, ?write⟩
  case release =>
    intro r hop hvia b
    refine ⟨fun ⟨hst, hgen⟩ => ?_, fun h => hc.exec_resultRelease_other hop hvia (not_and_or.2 h)⟩
    refine ⟨_, hc.exec_resultRelease_held hop hvia hst hgen, ?_, by simp, by simp, State.told_ended hc.lt_length _, fun j _ hj => ?_⟩
    · rw [State.ended_ring, State.ring_setRing_same, HostRing.freed_mbox_same]
    · rw [State.ended_ring, State.ring_setRing_same, HostRing.freed_mbox_other _ hj]
  case read =>
    intro hop hdir r may
    refine ⟨hc.exec_regAccessRead_granted hop hdir, fun hargs hno => ?_, hc.exec_regAccessRead_badArgs hop hdir⟩
    simp only [may, not_forall, Bool.not_eq_true] at hno
    obtain ⟨p, hcaller, i, hi, hno⟩ := hno
    exact hc.exec_regAccessRead_refused hop hdir hargs hcaller hi hno
  case write =>
    intro hop hdir r may
    refine ⟨hc.exec_regAccessWrite_taken hop hdir, fun hargs h => ?_, hc.exec_regAccessWrite_badArgs hop hdir⟩
    refine hc.exec_regAccessWrite_logged hop hdir hargs (h.imp_left fun hno => ?_)
    simpa [may] using hno

end Sys2Proof.Machine

namespace Sys2Proof.Machine

/-! ## Folds over units -/

section
variable {β ι : Type} {f : β → ι → β} {l : List ι}

/-- What every pass of a loop leaves alone, the loop leaves alone. -/
theorem foldl_frame {γ : Type} (g : β → γ) (h : ∀ b, ∀ a ∈ l, g (f b a) = g b) (b : β) : g (l.foldl f b) = g b :=
  List.foldlRecOn (motive := fun c => g c = g b) l f rfl fun c hc a ha => (h c a ha).trans hc

/-- What the pass for `a` brings about, when the others neither disturb what it needs nor what it has done. -/
theorem foldl_reaches {Pre Done : β → Prop} {a : ι} (ha : a ∈ l) (hpre : ∀ b, Pre b → ∀ x ∈ l, x ≠ a → Pre (f b x))
    (hstep : ∀ b, Pre b → Done (f b a)) (hdone : ∀ b, Done b → ∀ x ∈ l, (l.Nodup → x ≠ a) → Done (f b x)) {b : β} (hb : Pre b) :
    Done (l.foldl f b) := by
  obtain ⟨xs, ys, rfl, hxs⟩ := List.eq_append_cons_of_mem ha
  rw [List.foldl_append, List.foldl_cons]
  have hbefore : Pre (xs.foldl f b) :=
    List.foldlRecOn xs f hb fun c hc x hx => hpre c hc x (by simp [hx]) fun e => hxs (e ▸ hx)
  refine List.foldlRecOn ys f (hstep _ hbefore) fun c hc x hx => hdone c hc x (by simp [hx]) fun hnd e => ?_
  have hys : a ∉ ys := (List.nodup_cons.1 (List.Nodup.of_append_right hnd)).1
  exact hys (e ▸ hx)

end

/-! ## Register writes -/

@[simp] theorem State.reg_loupe (s : State) (l : Loupe) (o : Nat) : ({ s with loupe := l } : State).reg o = s.reg o := rfl

theorem State.countRx_only (s : State) (f n : Nat) : ∃ c, s.countRx f n = { s with cnts := c } := by
  unfold State.countRx State.tally
  extract_lets w
  split
  · exact ⟨s.cnts, rfl⟩
  · exact ⟨_, rfl⟩

end Sys2Proof.Machine

namespace Sys2Proof.Machine

/-! ## Configuration requests (13 R385 to R387) -/

/-- A request that arrives says that the link is up (13 R387). -/
def State.linked (s : State) (f : Nat) : State := { s with loupe := { s.loupe with linkUp := SMap.set false s.loupe.linkUp f true } }

/-- The first BAR takes the address bits that its size leaves (13 R386, log 96). -/
theorem State.configWrite_bar0 (s : State) (f : Nat) (v : Word) :
    s.configWrite f 0x10 v = { s with pciCfg := SMap.put s.pciCfg (1024 * f + 0x10 / 4) (v &&& 0xFC000000) } := rfl

@[simp] theorem State.cfgHeld_bar0 (s : State) (f : Nat) (v : Word) : (s.configWrite f 0x10 v).cfgHeld f 0x10 = v &&& 0xFC000000 := by
  rw [State.configWrite_bar0, State.cfgHeld, SMap.find_put_same, Option.getD_some]

section
variable {s : State} {f : FuncId}

theorem State.exec_configRequest_cold (h : s.dev = .cold) (o : Fin 4096) (w : Option Word) :
    exec (.configRequest f o w) s = .next (s.send (.completion f [] 2)) := by
  show execConfigRequest f o w s = _
  simp [execConfigRequest, h]

theorem State.exec_configRequest_noLink (hdev : s.dev ≠ .cold) (h : s.linkMay = false) (o : Fin 4096) (w : Option Word) :
    exec (.configRequest f o w) s = .next s := by
  show execConfigRequest f o w s = _
  simp [execConfigRequest, hdev, h]

variable (hdev : s.dev ≠ .cold) (hf : s.funcExists f = true) (hperst : SMap.get false s.loupe.perst f = true) (hmay : s.linkMay = true)
include hdev hf hperst hmay

theorem State.exec_configRequest_identity (h : s.cfgHeld f 0 = 0) :
    exec (.configRequest f 0 none) s = .next ((s.linked f).send (.completion f [0xA5, 0x1F, 0x02, 0x0C] 0)) := by
  show execConfigRequest f 0 none s = _
  have hword : leBytes 4 ((0x0C021FA5 : Word) ||| (s.linked f).cfgHeld f 0).toNat = [0xA5, 0x1F, 0x02, 0x0C] := by
    rw [show (s.linked f).cfgHeld f 0 = 0 from h]; decide
  simp only [execConfigRequest, hdev, hf, hperst, hmay, not_true, or_self, if_false]
  exact congrArg (fun b => Host.Outcome.next ((s.linked f).send (.completion f b 0))) hword

theorem State.exec_configRequest_write (o : Fin 4096) (v : Word) :
    exec (.configRequest f o (some v)) s = .next (((s.linked f).configWrite f (o.val / 4 * 4) v).send (.completion f [] 0)) := by
  show execConfigRequest f o (some v) s = _
  simp only [execConfigRequest, hdev, hf, hperst, hmay, not_true, or_self, if_false]
  rfl

end

/-! ## PERST# and the links (21 R631, 01 R24) -/

/-- A ring that PERST# takes along drains (13 R402). -/
def State.perstDrain (f : Nat) (s : State) (r : Nat) : State :=
  if s.ringFunc r = f ∧ ((s.ring r).state = .active ∨ (s.ring r).state = .error) then s.drainRing r else s

theorem State.perstDrain_reg (f : Nat) (s : State) (r : Nat) {o : Nat} (h : o ≠ Reg.ringCtrl r) :
    (s.perstDrain f r).reg o = s.reg o := by
  unfold State.perstDrain
  split
  · rw [State.drainRing, State.setRing_reg, State.reg_setField_other _ _ _ _ h]
  · rfl

/-- The function's registers at their reset values, and its rings draining (21 R631). -/
def State.perstRegs (s : State) (f : Nat) : State :=
  [Reg.aptCtrl f, Reg.aptBaseLo f, Reg.aptBaseHi f, Reg.eventVec f].foldl (fun s o => s.setReg o (regReset o))
    { s with regs := (SMap.clear (SMap.clear s.regs (Reg.msixTable f 0 0) (Reg.msixTable f 0 0 + 0x4000)) (Reg.msixPba f 0) (Reg.msixPba f 64)) }
def State.perstDrained (s : State) (f : Nat) : State := (List.range 65).foldl (State.perstDrain f) (s.perstRegs f)

theorem State.perstDrained_reg (s : State) (f : Nat) {o : Nat} (ho : o ∈ [Reg.aptCtrl f, Reg.aptBaseLo f, Reg.aptBaseHi f, Reg.eventVec f])
    (hf : f < 2) : (s.perstDrained f).reg o = regReset o := by
  have hregs : (s.perstRegs f).reg o = regReset o := by
    refine foldl_reaches (Pre := fun _ => True) (Done := fun t : State => t.reg o = regReset o) ho (fun _ _ _ _ _ => trivial)
      (fun t _ => t.reg_setReg_same o _) (fun t ht x _ _ => ?_) trivial
    by_cases e : o = x
    · rw [← e, t.reg_setReg_same]
    · rw [t.reg_setReg_other _ e, ht]
  refine (foldl_frame (fun t : State => t.reg o) (fun t r _ => t.perstDrain_reg f r ?_) _).trans hregs
  simp only [Reg.aptCtrl, Reg.aptBaseLo, Reg.aptBaseHi, Reg.eventVec, Reg.ringCtrl, Reg.ringBase, List.mem_cons, List.not_mem_nil,
    or_false] at ho ⊢
  omega

/-- They change the rings and the registers alone. -/
theorem State.perstDrained_only (s : State) (f : Nat) :
    ∃ (rs : SMap Word) (x : SMap HostRing), s.perstDrained f = { s with regs := rs, rings := x } := by
  refine List.foldlRecOn (motive := fun t => ∃ (rs : SMap Word) (x : SMap HostRing), t = { s with regs := rs, rings := x }) _ _
    ⟨_, s.rings, rfl⟩ ?_
  rintro _ ⟨rs, x, rfl⟩ r -
  unfold State.perstDrain
  split
  · exact ⟨_, _, rfl⟩
  · exact ⟨_, _, rfl⟩

section
variable {s : State} {f : FuncId} (hdev : s.dev ≠ .cold) (hf : s.funcExists f = true)
include hdev hf

theorem State.exec_perstAssert : exec (.perstAssert f) s = .next { s.perstDrained f with
    pciCfg := SMap.clear (s.perstDrained f).pciCfg (1024 * f) (1024 * f + 1024)
    loupe := { (s.perstDrained f).loupe with
      linkUp := SMap.set false (s.perstDrained f).loupe.linkUp f false, perst := SMap.set false (s.perstDrained f).loupe.perst f false } } :=
  if_neg (by simp [hdev, hf])

theorem State.exec_perstRelease : exec (.perstRelease f) s = .next { s with loupe := { s.loupe with
    perst := SMap.set false s.loupe.perst f true
    linkUp := if s.linkMay then SMap.set false s.loupe.linkUp f true else s.loupe.linkUp } } := by
  show execPerstRelease f s = _
  have hmay : State.linkMay { s with loupe := { s.loupe with perst := SMap.set false s.loupe.perst f true } } = s.linkMay := rfl
  have hexists : State.funcExists { s with loupe := { s.loupe with perst := SMap.set false s.loupe.perst f true } } f = true := hf
  simp only [execPerstRelease, hdev, hexists, hmay]
  cases s.linkMay <;> rfl

end

/-- The die that reports 8 is the one wired to Q0 to Q9, whose Loupe starts as the active one (01 R24). -/
theorem State.linkMay_straps {s : State} {a b : Nat} (ha : SMap.find s.loupe.strap 8 = some a) (hb : SMap.find s.loupe.strap 9 = some b) :
    (a = 8 → b ≠ 8 → s.linkMay = true) ∧ (a ≠ 8 → b = 8 → s.linkMay = false) := by
  constructor
  · rintro rfl hb8
    simp [State.linkMay, State.strapActive, ha, hb, Ne.symm hb8]
  · rintro ha8 rfl
    simp [State.linkMay, State.strapActive, ha, hb, ha8]

/-! ## The lane map (16 R488 to R490) -/

section
variable {s : State} {f : FuncId}

/-- The state in which a COMMIT finds its map: one register write counted, and HOSTMODE as written. -/
theorem State.exec_laneMapCommit (hf : s.funcUp f = true) (m : Fin 4) :
    ∃ c, exec (.laneMapCommit f m) s = .next (({ s with cnts := c } : State).setField Reg.laneMapCtrl 8 2 m).commitMap := by
  obtain ⟨c, hc⟩ := s.countRx_only f 4
  refine ⟨c, ?_⟩
  show execLaneMapCommit f m s = _
  rw [execLaneMapCommit, if_pos hf, hc]

theorem State.commitMap_invalid {t : State} (hbusy : t.loupe.mapBusy = false) (h : laneMapOk t.stagedMap = false) :
    t.commitMap = t.setField Reg.laneMapCtrl 0 8 St.badArgument := by
  simp [State.commitMap, hbusy, h]

theorem State.commitMap_valid {t : State} (hbusy : t.loupe.mapBusy = false) (h : laneMapOk t.stagedMap = true) :
    t.commitMap = { t with loupe := { t.loupe with mapBusy := true, mapRec := t.stagedMap } } := by
  simp [State.commitMap, hbusy, h]

theorem State.exec_laneMapCommitDone (h : s.loupe.mapBusy = true) : exec (.laneMapCommitDone true true) s =
    .next { ((s.putFlash 0 0x1000 s.loupe.mapRec).putFlash 1 0x1000 s.loupe.mapRec).setField Reg.laneMapCtrl 0 8 St.ok with
      loupe := { s.loupe with mapBusy := false, mapRec := [] } } := by
  show execLaneMapCommitDone true true s = _
  rw [execLaneMapCommitDone, if_neg (by simp [h])]
  rfl

end

@[simp] theorem State.flashRec_putFlash_same (s : State) (chip off : Nat) (b : Bytes) : (s.putFlash chip off b).flashRec chip off = b :=
  SMap.get_put_same _ _ _ _

theorem State.flashRec_putFlash_other (s : State) {chip chip' off off' : Nat} (b : Bytes) (h : flashAt chip' off' ≠ flashAt chip off) :
    (s.putFlash chip off b).flashRec chip' off' = s.flashRec chip' off' :=
  SMap.get_put_other _ _ _ h

/-- Settles O42: each link command has one next state, and the two lane map commands write LANE_MAP_CTRL, the pending record and the flash alone. -/
theorem hostLinks : Obligations.HostLinks := by
  intro s f
  refine ⟨fun o w hdev => State.exec_configRequest_cold hdev o w, fun hdev hf hperst hmay => ⟨fun hheld => ?identity, fun v => ?bar⟩,
    fun hdev hf => ?perst, fun hdev hf => ?release, fun a b => State.linkMay_straps, fun hmay hdev o w =>
    State.exec_configRequest_noLink hdev hmay o w, rfl, fun m hf hbusy hbad => ?invalid, fun m hf hbusy hok => ?valid, fun hbusy => ?done⟩
  case identity => exact ⟨_, State.exec_configRequest_identity hdev hf hperst hmay hheld, ⟨⟨rfl, rfl⟩, rfl⟩, rfl, rfl⟩
  case bar =>
    exact ⟨_, State.exec_configRequest_write hdev hf hperst hmay _ v, ⟨⟨rfl, rfl⟩, rfl⟩, (s.linked f).cfgHeld_bar0 f v, rfl⟩
  case perst =>
    obtain ⟨rs, x, honly⟩ := s.perstDrained_only f
    refine ⟨_, State.exec_perstAssert hdev hf, ?_, s.perstDrained_reg f (by simp) f.isLt, s.perstDrained_reg f (by simp) f.isLt,
      s.perstDrained_reg f (by simp) f.isLt, by simp, by simp⟩
    rw [honly]
    exact ⟨⟨rfl, rfl⟩, rfl⟩
  case release =>
    refine ⟨_, State.exec_perstRelease hdev hf, ⟨⟨rfl, rfl⟩, rfl⟩, rfl, by simp, ?_⟩
    cases s.linkMay <;> simp
  case invalid =>
    obtain ⟨c, hexec⟩ := State.exec_laneMapCommit hf m
    refine ⟨_, hexec.trans (congrArg _ (State.commitMap_invalid hbusy hbad)), ⟨by simp [Unmoved], by simp⟩, ?_, by simpa using hbusy, by simp⟩
    rw [State.reg_setField_same, bits_setBits_same _ _ _ _ (by decide)]
    rfl
  case valid =>
    obtain ⟨c, hexec⟩ := State.exec_laneMapCommit hf m
    exact ⟨_, hexec.trans (congrArg _ (State.commitMap_valid hbusy hok)), ⟨by simp [Unmoved], by simp⟩, rfl, rfl, by simp⟩
  case done =>
    refine ⟨_, State.exec_laneMapCommitDone hbusy, ⟨⟨rfl, rfl⟩, rfl⟩, rfl, ?_, State.flashRec_putFlash_same _ _ _ _, ?_⟩
    · exact (State.flashRec_putFlash_other _ _ (by decide)).trans (State.flashRec_putFlash_same _ _ _ _)
    · rw [State.reg_loupe, State.reg_setField_same, bits_setBits_same _ _ _ _ (by decide)]
      rfl

end Sys2Proof.Machine

namespace Sys2Proof.Machine

/-! ## What an event leaves alone -/

/-- Only blocks and the queues of their ramps differ. -/
def BlocksOnly (s t : State) : Prop := ∃ bs q, t = { s with blocks := bs, aperture := q }

theorem BlocksOnly.refl (s : State) : BlocksOnly s s := ⟨s.blocks, s.aperture, rfl⟩

theorem BlocksOnly.trans {s t u : State} : BlocksOnly s t → BlocksOnly t u → BlocksOnly s u := by
  rintro ⟨_, _, rfl⟩ ⟨bs, q, rfl⟩
  exact ⟨bs, q, rfl⟩

theorem State.retarget_blocksOnly (s : State) (b : Nat) (t : BState) : BlocksOnly s (s.retarget b t) := by
  unfold State.retarget
  extract_lets x rank x' tl q s'
  split
  · exact .refl s
  · split
    · refine BlocksOnly.trans (t := s') ?_ ⟨_, _, rfl⟩
      unfold s'
      split
      · exact .refl s
      · exact ⟨_, _, rfl⟩
    · exact ⟨_, _, rfl⟩

theorem BlocksOnly.foldl {s : State} {ι : Type} {f : State → ι → State} (h : ∀ t a, BlocksOnly t (f t a)) (l : List ι) :
    BlocksOnly s (l.foldl f s) :=
  List.foldlRecOn (motive := fun t => BlocksOnly s t) l f (.refl s) fun t ht a _ => ht.trans (h t a)

/-- Of the partitions only p, and of the registers only its fault's and its recovery's, differ (17 R527, R531). -/
structure OnlyPart (p : Nat) (s t : State) : Prop where
  mem : t.mem = s.mem
  cores : t.cores = s.cores
  power : t.power = s.power
  dev : t.dev = s.dev
  others : ∀ q, q ≠ p → t.part q = s.part q
  regs : ∀ o, o ≠ Reg.partFault p → o ≠ Reg.partFaultStep p → o ≠ Reg.recovery p → t.reg o = s.reg o

theorem OnlyPart.refl (p : Nat) (s : State) : OnlyPart p s s := ⟨rfl, rfl, rfl, rfl, fun _ _ => rfl, fun _ _ _ _ => rfl⟩

theorem OnlyPart.trans {p : Nat} {s t u : State} (h : OnlyPart p s t) (k : OnlyPart p t u) : OnlyPart p s u :=
  ⟨k.mem.trans h.mem, k.cores.trans h.cores, k.power.trans h.power, k.dev.trans h.dev,
    fun q hq => (k.others q hq).trans (h.others q hq), fun o a b c => (k.regs o a b c).trans (h.regs o a b c)⟩

theorem BlocksOnly.onlyPart {s t : State} (h : BlocksOnly s t) (p : Nat) : OnlyPart p s t := by
  obtain ⟨bs, q, rfl⟩ := h
  exact ⟨rfl, rfl, rfl, rfl, fun _ _ => rfl, fun _ _ _ _ => rfl⟩

theorem State.setPart_onlyPart (s : State) (p : Nat) (x : Partition) : OnlyPart p s (s.setPart p x) :=
  ⟨rfl, rfl, rfl, rfl, fun _ hq => s.part_setPart_other x hq, fun _ _ _ _ => rfl⟩

theorem State.setReg_onlyPart (s : State) (p : Nat) {o : Nat} (w : Word)
    (h : o = Reg.partFault p ∨ o = Reg.partFaultStep p ∨ o = Reg.recovery p) : OnlyPart p s (s.setReg o w) :=
  ⟨by simp, by simp, by simp, by simp, fun _ _ => rfl, fun m a b c => s.reg_setReg_other w (by
    rintro rfl
    exact h.elim a fun h => h.elim b c)⟩

/-- Two partitions' fault and recovery registers are apart. -/
theorem OnlyPart.regs_other {p q : Nat} {s t : State} (h : OnlyPart p s t) (hq : q ≠ p) :
    t.reg (Reg.partFault q) = s.reg (Reg.partFault q) ∧ t.reg (Reg.recovery q) = s.reg (Reg.recovery q) := by
  constructor <;> refine h.regs _ ?_ ?_ ?_ <;> simp only [Reg.partFault, Reg.partFaultStep, Reg.recovery] <;> omega

/-! ## A partition enters FAULTED (17 R527 to R530) -/

@[simp] theorem Partition.endRun_brownout (x : Partition) (c : Nat) : (x.endRun c).brownout = x.brownout := by
  unfold Partition.endRun; split <;> rfl
@[simp] theorem Partition.endRun_brownOpen (x : Partition) (c : Nat) : (x.endRun c).brownOpen = x.brownOpen := by
  unfold Partition.endRun; split <;> rfl

@[simp] theorem State.setPart_setPart (s : State) (p : Nat) (a b : Partition) : (s.setPart p a).setPart p b = s.setPart p b := by
  simp [State.setPart, SMap.put_put]

/-- The partition and its PART_FAULT as the fault leaves them. -/
theorem State.enterFaulted_active {s : State} {p : Nat} (h : s.partIn p [.running, .paused] = true) (cause : Nat) (core : Option Nat)
    (limit : Nat) : ∃ w v x, BlocksOnly (((s.setReg (Reg.partFault p) w).setReg (Reg.partFaultStep p) v).setPart p x)
        (s.enterFaulted p cause core limit) ∧
      bits w 24 8 = cause % 256 ∧ x.state = .faulted ∧ x.brownout = (s.part p).brownout ∧ x.brownOpen = (s.part p).brownOpen := by
  unfold State.enterFaulted State.move State.retargetAll
  rw [if_neg (by simp [h])]
  simp only [State.setPart_setPart]
  refine ⟨_, _, _, .foldl (fun t b => t.retarget_blocksOnly b _) _, ?_, rfl, by simp, by simp⟩
  rw [bits_setBits_other _ _ _ _ _ _ (by decide) (by decide), bits_setBits_other _ _ _ _ _ _ (by decide) (by decide),
    bits_setBits_same _ _ _ _ (by decide)]
  rfl

theorem State.enterFaulted_onlyPart (s : State) (p cause : Nat) (core : Option Nat) (limit : Nat) :
    OnlyPart p s (s.enterFaulted p cause core limit) := by
  by_cases h : s.partIn p [.running, .paused] = true
  · obtain ⟨w, v, x, hblocks, -⟩ := s.enterFaulted_active h cause core limit
    exact ((s.setReg_onlyPart p w (by simp)).trans (State.setReg_onlyPart _ p v (by simp))).trans
      ((State.setPart_onlyPart _ p x).trans (hblocks.onlyPart p))
  · rw [State.enterFaulted, if_pos h]
    exact .refl p s

theorem State.faultPart_onlyPart (s : State) (p cause : Nat) (core : Option Nat) : OnlyPart p s (s.faultPart p cause core) := by
  unfold State.faultPart
  split
  · exact s.enterFaulted_onlyPart ..
  · exact .refl p s

/-- A partition that runs, or whose cause faults a PAUSED one too, is FAULTED with the cause. -/
theorem State.faultPart_active {s : State} {p cause : Nat} (h : s.partIn p [.running, .paused] = true)
    (hcause : s.partIn p [.running] = true ∨ cause = 0x44 ∨ cause = 0x45) (core : Option Nat) :
    ((s.faultPart p cause core).part p).state = .faulted ∧ bits ((s.faultPart p cause core).reg (Reg.partFault p)) 24 8 = cause % 256 := by
  obtain ⟨w, v, x, ⟨bs, q, hblocks⟩, hw, hx, -⟩ := s.enterFaulted_active h cause core (s.farthest p)
  rw [State.faultPart, if_pos hcause, hblocks]
  refine ⟨(congrArg Partition.state (State.part_setPart_same _ p x)).trans hx, ?_⟩
  change bits (State.reg (((s.setReg (Reg.partFault p) w).setReg (Reg.partFaultStep p) v).setPart p x) (Reg.partFault p)) 24 8 = _
  rw [State.setPart_reg, State.reg_setReg_other _ _ (by simp only [Reg.partFault, Reg.partFaultStep]; omega), State.reg_setReg_same, hw]

theorem State.faultPart_brownout (s : State) (p cause : Nat) (core : Option Nat) :
    ((s.faultPart p cause core).part p).brownout = (s.part p).brownout := by
  unfold State.faultPart
  split
  · by_cases h : s.partIn p [.running, .paused] = true
    · obtain ⟨w, v, x, ⟨bs, q, hblocks⟩, -, -, hbrown, -⟩ := s.enterFaulted_active h cause core (s.farthest p)
      rw [hblocks, ← hbrown]
      exact congrArg Partition.brownout (State.part_setPart_same _ p x)
    · rw [State.enterFaulted, if_pos h]
  · rfl

/-- Of the registers a fault changes PART_FAULT and PART_FAULT_STEP alone. -/
theorem State.faultPart_reg (s : State) {p o : Nat} (cause : Nat) (core : Option Nat) (hfault : o ≠ Reg.partFault p)
    (hstep : o ≠ Reg.partFaultStep p) : (s.faultPart p cause core).reg o = s.reg o := by
  unfold State.faultPart
  split
  · by_cases h : s.partIn p [.running, .paused] = true
    · obtain ⟨w, v, x, ⟨bs, q, hblocks⟩, -⟩ := s.enterFaulted_active h cause core (s.farthest p)
      rw [hblocks]
      change State.reg (((s.setReg (Reg.partFault p) w).setReg (Reg.partFaultStep p) v).setPart p x) o = _
      rw [State.setPart_reg, State.reg_setReg_other _ _ hstep, State.reg_setReg_other _ _ hfault]
    · rw [State.enterFaulted, if_pos h]
  · rfl

/-! ## Reports to the host, device events and HOLD (13 R398, 17 R545 to R547) -/

/-- Memory, cores, supplies and the registers of no host, ring, error or PART group (those from TILE_REPAIR up) are as before. -/
structure EventFrame (s t : State) : Prop where
  mem : t.mem = s.mem
  cores : t.cores = s.cores
  power : t.power = s.power
  regs : ∀ o, Reg.tileRepair 0 ≤ o → t.reg o = s.reg o

/-- Neither the device's state nor HOST_STATE changes either. -/
structure ReportFrame (s t : State) : Prop extends EventFrame s t where
  dev : t.dev = s.dev
  hostState : t.reg Reg.hostState = s.reg Reg.hostState

theorem EventFrame.trans {s t u : State} (h : EventFrame s t) (k : EventFrame t u) : EventFrame s u :=
  ⟨k.mem.trans h.mem, k.cores.trans h.cores, k.power.trans h.power, fun o ho => (k.regs o ho).trans (h.regs o ho)⟩

theorem ReportFrame.refl (s : State) : ReportFrame s s := ⟨⟨rfl, rfl, rfl, fun _ _ => rfl⟩, rfl, rfl⟩

theorem ReportFrame.trans {s t u : State} (h : ReportFrame s t) (k : ReportFrame t u) : ReportFrame s u :=
  ⟨h.toEventFrame.trans k.toEventFrame, k.dev.trans h.dev, k.hostState.trans h.hostState⟩

theorem ReportFrame.foldl {s : State} {ι : Type} {f : State → ι → State} {l : List ι} (h : ∀ t, ∀ a ∈ l, ReportFrame t (f t a)) :
    ReportFrame s (l.foldl f s) :=
  List.foldlRecOn (motive := fun t => ReportFrame s t) l f (.refl s) fun t ht a ha => ht.trans (h t a ha)

theorem BlocksOnly.reportFrame {s t : State} : BlocksOnly s t → ReportFrame s t := by
  rintro ⟨bs, q, rfl⟩
  exact ⟨⟨rfl, rfl, rfl, fun _ _ => rfl⟩, rfl, rfl⟩

theorem OnlyPart.reportFrame {s t : State} {p : Nat} (h : OnlyPart p s t) (hp : p < 64) : ReportFrame s t := by
  refine ⟨⟨h.mem, h.cores, h.power, fun o ho => h.regs o ?_ ?_ ?_⟩, h.dev, h.regs _ ?_ ?_ ?_⟩ <;>
    simp only [Reg.tileRepair, Reg.partFault, Reg.partFaultStep, Reg.recovery, Reg.hostState] at * <;> omega

theorem State.setField_reportFrame (s : State) {o : Nat} (lo len v : Nat) (h : Reg.hostState < o ∧ o < Reg.tileRepair 0) :
    ReportFrame s (s.setField o lo len v) :=
  ⟨⟨by simp, by simp, by simp, fun m hm => s.reg_setField_other _ _ _ (by omega)⟩, by simp, s.reg_setField_other _ _ _ (by omega)⟩

theorem State.tally_reportFrame (s : State) (p : Option Nat) (set off k : Nat) : ReportFrame s (s.tally p set off k) := by
  unfold State.tally
  extract_lets w
  split
  · exact .refl s
  · exact ⟨⟨rfl, rfl, rfl, fun _ _ => rfl⟩, rfl, rfl⟩

theorem State.msix_reportFrame (s : State) {f v : Nat} (hf : f < 2) (hv : v < 2048) : ReportFrame s (s.msix f v) := by
  unfold State.msix
  split
  · exact s.setField_reportFrame _ _ _ (by simp only [Reg.msixPba, Reg.hostState, Reg.tileRepair]; omega)
  · exact (s.tally_reportFrame _ _ _ _).trans ⟨⟨rfl, rfl, rfl, fun _ _ => rfl⟩, rfl, rfl⟩

theorem State.hostEvent_reportFrame (s : State) (b : Nat) : ReportFrame s (s.hostEvent b) := by
  unfold State.hostEvent
  split
  · exact .refl s
  · extract_lets s1 l s2
    have h1 : ReportFrame s s1 := s.setField_reportFrame _ _ _ (by decide)
    have h2 : ReportFrame s1 s2 := ⟨⟨rfl, rfl, rfl, fun _ _ => rfl⟩, rfl, rfl⟩
    refine (h1.trans h2).trans (.foldl fun t f hf => ?_)
    extract_lets v
    split
    · refine t.msix_reportFrame ?_ (bits_lt _ _ _)
      simp only [List.mem_cons, List.not_mem_nil, or_false] at hf
      omega
    · exact .refl t

/-- What HOLD does besides its cause and its state. -/
theorem State.enterHold_frame {s : State} (h : ¬ (s.dev = .hold ∨ s.dev = .shutdown)) (cause : Nat) :
    ReportFrame { s.setField Reg.hostState 20 8 cause with dev := .hold } (s.enterHold cause) := by
  unfold State.enterHold
  rw [if_neg h]
  extract_lets s1 s2 s3 s4 s5 ran endCmd
  have h3 : ReportFrame s2 s3 := s2.hostEvent_reportFrame 3
  have h4 : ReportFrame s3 s4 := .foldl fun t p hp => (t.faultPart_onlyPart p _ _).reportFrame (List.mem_range.1 hp)
  have h5 : ReportFrame s4 s5 := by
    refine (BlocksOnly.trans (t := { s4 with aperture := [] }) ⟨_, _, rfl⟩ (.foldl (fun t b => ?_) _)).reportFrame
    extract_lets x
    split
    · exact t.retarget_blocksOnly _ _
    · exact ⟨_, _, rfl⟩
  clear_value s5
  exact ((h3.trans h4).trans h5).trans ⟨⟨rfl, rfl, rfl, fun _ _ => rfl⟩, rfl, rfl⟩

theorem State.enterHold_eventFrame (s : State) (cause : Nat) : EventFrame s (s.enterHold cause) := by
  by_cases h : s.dev = .hold ∨ s.dev = .shutdown
  · rw [State.enterHold, if_pos h]
    exact (ReportFrame.refl s).toEventFrame
  · have h0 : EventFrame s { s.setField Reg.hostState 20 8 cause with dev := .hold } :=
      ⟨by simp, by simp, by simp, fun o ho => State.reg_setField_other _ _ _ _ (by simp only [Reg.tileRepair, Reg.hostState] at *; omega)⟩
    exact h0.trans (State.enterHold_frame h cause).toEventFrame

/-- The part is in HOLD for the cause, its memory and supplies as before (17 R547). -/
def InHold (s t : State) (cause : Nat) : Prop :=
  t.dev = .hold ∧ bits (t.reg Reg.hostState) 20 8 = cause ∧ t.mem = s.mem ∧ t.power = s.power

theorem State.enterHold_inHold {s : State} (h : ¬ (s.dev = .hold ∨ s.dev = .shutdown)) {cause : Nat} (hc : cause < 256) :
    InHold s (s.enterHold cause) cause := by
  have hframe := State.enterHold_frame h cause
  refine ⟨hframe.dev, ?_, hframe.mem.trans (by simp), hframe.power.trans (by simp)⟩
  rw [hframe.hostState]
  exact (congrArg (bits · 20 8) (s.reg_setField_same _ _ _ _)).trans
    ((bits_setBits_same _ _ _ _ (by decide)).trans (Nat.mod_eq_of_lt hc))

end Sys2Proof.Machine

namespace Sys2Proof.Machine

/-! ## The sequencer (18 R564 to R566) -/

theorem State.pmbus_only (s : State) (r cmd val : Nat) : ∃ o, s.pmbus r cmd val = { s with out := o } := by
  unfold State.pmbus
  split
  · exact ⟨_, rfl⟩
  · exact ⟨s.out, rfl⟩

/-- The place of the rail that is switched, if the order has one. -/
def State.seqPlace (s : State) (i : Nat) : Option Nat := if i < s.seqRails.length then some i else none

theorem State.railOn_only (s : State) (i : Nat) : ∃ o, s.railOn i = { s with power := { s.power with seqUp := s.seqPlace i }, out := o } := by
  unfold State.railOn State.seqPlace
  split
  · next r hr =>
    obtain ⟨o, ho⟩ := State.pmbus_only { s with power := { s.power with seqUp := some i } } r pmOperation 0x80
    rw [ho, if_pos (List.getElem?_eq_some_iff.1 hr).1]
    exact ⟨o, rfl⟩
  · next hr =>
    rw [if_neg (by simpa using hr)]
    exact ⟨s.out, rfl⟩

theorem State.railOff_only (s : State) (i : Nat) : ∃ o, s.railOff i = { s with power := { s.power with seqDown := s.seqPlace i }, out := o } := by
  unfold State.railOff State.seqPlace
  split
  · next r hr =>
    obtain ⟨o, ho⟩ := State.pmbus_only { s with power := { s.power with seqDown := some i } } r pmOperation 0
    rw [ho, if_pos (by simpa using (List.getElem?_eq_some_iff.1 hr).1)]
    exact ⟨o, rfl⟩
  · next hr =>
    rw [if_neg (by simpa using hr)]
    exact ⟨s.out, rfl⟩

/-- The first rail of the order is switched on with OPERATION = ON. -/
theorem State.railOn_first {s : State} {r : Nat} {l : List Nat} {m : SMap (Nat × Nat × Nat)} (hr : s.seqRails = r :: l)
    (hm : s.power.board = some m) : s.railOn 0 = ({ s with power := { s.power with seqUp := some 0 } } : State).send
      (.pmbus (SMap.get (0, 0, 0) m r).1 (SMap.get (0, 0, 0) m r).2.1 0x01 0x80) := by
  simp [State.railOn, hr, State.pmbus, hm, pmOperation]

section
variable {s : State}

section
variable (haon : s.power.aonUp = true)
include haon

theorem State.exec_pwrReqOn_ready (hreq : s.power.pwrReq = false) (htrip : s.power.thermtripLow = false) (hdev : s.dev = .ready) :
    exec .pwrReqOn s = .next { s with power := { s.power with pwrReq := true } } := by
  show execPwrReqOn s = _
  simp [execPwrReqOn, haon, hreq, htrip, hdev]

theorem State.exec_pwrReqOn_shutdown (hreq : s.power.pwrReq = false) (htrip : s.power.thermtripLow = false) (hdev : s.dev = .shutdown) :
    exec .pwrReqOn s = .next { s with power := { s.power with pwrReq := true, reqPending := true } } := by
  show execPwrReqOn s = _
  simp [execPwrReqOn, haon, hreq, htrip, hdev]

theorem State.exec_pwrReqOn_cold (hreq : s.power.pwrReq = false) (htrip : s.power.thermtripLow = false) (hdev : s.dev = .cold)
    (hseq : s.power.seqUp = none) (hgood : s.allGood = false) : exec .pwrReqOn s =
      .next (State.railOn { s with power := { s.power with pwrReq := true, reqPending := false } } 0) := by
  have hnot : ¬ (s.power.seqUp.isSome = true ∨ s.allGood = true) := by simp [hseq, hgood]
  exact (if_neg (by simp [haon, hreq])).trans ((if_neg (by simp [htrip])).trans
    ((if_pos hdev).trans (congrArg Host.Outcome.next (if_neg hnot))))

end
end

/-- The part enters SHUTDOWN: commands in flight end, and the duty is the highest (18 R565). -/
theorem State.enterShutdown_spec {s : State} (hdev : s.dev ≠ .shutdown) : Unmoved s s.enterShutdown ∧ s.enterShutdown.dev = .shutdown ∧
    s.enterShutdown.power.pwrReq = s.power.pwrReq ∧ (∀ c ∈ s.enterShutdown.loupe.inflight, c.result.isSome = true) ∧
    s.enterShutdown.loupe.handover = false ∧ s.enterShutdown.reg Reg.irisCtrl = setBits (s.reg Reg.irisCtrl) 8 8 s.power.dutyMax := by
  unfold State.enterShutdown
  rw [if_neg hdev]
  extract_lets l s1 s2
  have h2 : BlocksOnly s1 s2 := .foldl (fun t b => t.retarget_blocksOnly b _) _
  obtain ⟨o, h3⟩ := (s2.setDuty s2.power.dutyMax).railOff_only 0
  rw [h3]
  clear_value s2
  obtain ⟨bs, q, rfl⟩ := h2
  refine ⟨⟨rfl, rfl⟩, rfl, rfl, fun c hc => ?_, rfl, State.reg_setField_same _ _ _ _ _⟩
  obtain ⟨d, -, rfl⟩ := List.mem_map.1 (show c ∈ List.map _ s.loupe.inflight from hc)
  split <;> simp [*]

section
variable {s : State}

theorem State.exec_pwrReqOff_ready (haon : s.power.aonUp = true) (hdev : s.dev = .ready) : exec .pwrReqOff s =
    .next (State.enterShutdown { s with power := { s.power with
      pwrReq := false, reqPending := false, reqCycled := s.power.reqCycled || s.power.thermtripLow } }) :=
  (if_neg (by simp [haon])).trans (if_neg (by simp [State.staging, hdev]))

theorem State.exec_railSequenceNext {i : Nat} (hseq : s.power.seqUp = some i) (hdev : s.dev = .cold) : exec .railSequenceNext s =
    .next (if (s.railOn (i + 1)).power.seqUp.isNone then (s.railOn (i + 1)).stageEnd else s.railOn (i + 1)) := by
  show execRailSequenceNext s = _
  unfold execRailSequenceNext
  rw [hseq]
  exact if_neg (by simp [hdev])

/-- Past the last rail of the order nothing is switched on. -/
theorem State.railOn_past {i : Nat} (h : s.seqRails.length ≤ i) : s.railOn i = { s with power := { s.power with seqUp := none } } := by
  rw [State.railOn, List.getElem?_eq_none h]

theorem State.exec_shutdownRailOff {i : Nat} (hseq : s.power.seqDown = some i) (hdev : s.dev = .shutdown) :
    exec .shutdownRailOff s = .next (s.railOff (i + 1)) := by
  show execShutdownRailOff s = _
  unfold execShutdownRailOff
  rw [hseq]
  exact if_pos hdev

end

/-! ## PWR_GOOD and the reference as the registers show them (18 R549, R550) -/

/-- What the registers of rail r show (18 R549). -/
def State.showRail (s : State) (r : Nat) : State :=
  let s := s.setField (Reg.rail r) 9 1 (b2n (s.goodInput (goodGroup r)))
  if 8 ≤ r ∧ s.goodInput (goodGroup r) then
    s.setField (Reg.rail r) 10 11 ([1100, 1800, 1050, 750, 1800, 800, 900, 1800].getD (r - 8) 0)
  else s

theorem State.showRail_only (s : State) (r : Nat) : ∃ rs : SMap Word, s.showRail r = { s with regs := rs } := by
  unfold State.showRail
  extract_lets t
  split
  · exact ⟨_, rfl⟩
  · exact ⟨_, rfl⟩

theorem State.showRail_reg (s : State) {r o : Nat} (h : o ≠ Reg.rail r) : (s.showRail r).reg o = s.reg o := by
  unfold State.showRail
  extract_lets t
  have ht : t.reg o = s.reg o := s.reg_setField_other _ _ _ h
  split
  · rw [State.reg_setField_other _ _ _ _ h, ht]
  · exact ht

theorem State.showRail_pgood (s : State) (r : Nat) : bits ((s.showRail r).reg (Reg.rail r)) 9 1 = b2n (s.goodInput (goodGroup r)) := by
  unfold State.showRail
  extract_lets t
  have ht : bits (t.reg (Reg.rail r)) 9 1 = b2n (s.goodInput (goodGroup r)) := by
    rw [State.reg_setField_same, bits_setBits_same _ _ _ _ (by decide)]
    cases s.goodInput (goodGroup r) <;> rfl
  split
  · rw [State.reg_setField_same, bits_setBits_other _ _ _ _ _ _ (by decide) (by decide), ht]
  · exact ht

theorem State.showRailAll_only (s : State) (l : List Nat) : ∃ rs : SMap Word, l.foldl State.showRail s = { s with regs := rs } := by
  refine List.foldlRecOn (motive := fun t => ∃ rs : SMap Word, t = { s with regs := rs }) l _ ⟨s.regs, rfl⟩ ?_
  rintro _ ⟨rs, rfl⟩ r -
  exact State.showRail_only _ r

theorem State.showRails_eq (s : State) : s.showRails =
    (((List.range 16).foldl State.showRail s).setField Reg.clkStatus 31 1 (b2n s.power.refclk)).setField Reg.errDevice 21 1
      (b2n !s.loupe.entropyOk) := by
  unfold State.showRails
  extract_lets fixed t
  obtain ⟨rs, h⟩ := s.showRailAll_only (List.range 16)
  have ht : t = (List.range 16).foldl State.showRail s := rfl
  rw [ht, h]

/-- PGOOD, the setpoints, the reference and ENTROPY_FAIL are registers. -/
theorem State.showRails_only (s : State) : ∃ rs : SMap Word, s.showRails = { s with regs := rs } := by
  obtain ⟨rs, h⟩ := s.showRailAll_only (List.range 16)
  rw [State.showRails_eq, h]
  exact ⟨_, rfl⟩

theorem State.showRails_reg (s : State) {o : Nat} (hrail : ∀ r, r < 16 → o ≠ Reg.rail r) (hclk : o ≠ Reg.clkStatus)
    (herr : o ≠ Reg.errDevice) : s.showRails.reg o = s.reg o := by
  rw [State.showRails_eq, State.reg_setField_other _ _ _ _ herr, State.reg_setField_other _ _ _ _ hclk]
  exact foldl_frame (fun t : State => t.reg o) (fun t r hr => t.showRail_reg (hrail r (List.mem_range.1 hr))) s

theorem State.showRails_refclk (s : State) : bits (s.showRails.reg Reg.clkStatus) 31 1 = b2n s.power.refclk := by
  rw [State.showRails_eq, State.reg_setField_other _ _ _ _ (by decide), State.reg_setField_same, bits_setBits_same _ _ _ _ (by decide)]
  cases s.power.refclk <;> rfl

theorem State.showRails_pgood (s : State) {r : Nat} (hr : r < 16) :
    bits (s.showRails.reg (Reg.rail r)) 9 1 = b2n (s.goodInput (goodGroup r)) := by
  have hclk : Reg.rail r ≠ Reg.clkStatus := by simp only [Reg.rail, Reg.clkStatus]; omega
  have herr : Reg.rail r ≠ Reg.errDevice := by simp only [Reg.rail, Reg.errDevice]; omega
  rw [State.showRails_eq, State.reg_setField_other _ _ _ _ herr, State.reg_setField_other _ _ _ _ hclk]
  have hgood : ∀ t : State, t.power = s.power → ∀ q, t.goodInput (goodGroup q) = s.goodInput (goodGroup q) := fun t ht q => by
    rw [State.goodInput, ht, State.goodInput]
  have hpower : ∀ (t : State) q, (t.showRail q).power = t.power := fun t q => by
    obtain ⟨rs, h⟩ := t.showRail_only q
    rw [h]
  refine (foldl_reaches (Pre := fun t : State => t.power = s.power)
    (Done := fun t => t.power = s.power ∧ bits (t.reg (Reg.rail r)) 9 1 = b2n (s.goodInput (goodGroup r))) (List.mem_range.2 hr)
    (fun t ht q _ _ => (hpower t q).trans ht) (fun t ht => ⟨(hpower t r).trans ht, by rw [State.showRail_pgood, hgood t ht]⟩)
    (fun t ht q _ hq => ⟨(hpower t q).trans ht.1, ?_⟩) rfl).2
  rw [State.showRail_reg _ (by
    have := hq List.nodup_range
    simp only [Reg.rail]
    omega), ht.2]

section
variable {s : State} (haon : s.power.aonUp = true)
include haon

theorem State.exec_pwrGoodValid (g : Fin 4) : exec (.pwrGoodValid g) s =
    .next (State.showRails { s with power := { s.power with pwrGood := SMap.put s.power.pwrGood g.val true } }) :=
  if_neg (by simp [haon])

theorem State.exec_refclk25mReturn (href : s.power.refclk = false) : exec .refclk25mReturn s =
    .next (State.showRails { s with power := { s.power with refclk := true } }) :=
  if_pos (by simp [haon, href])

end

/-! ## Die identity (01 R23 to R26) -/

/-- LOUPE_DIE_MAP as the straps give it (01 R25, R26). -/
def dieMapWord (strap : SMap Nat) : Word :=
  let bad := (strap.filter (fun x => !strapOk x.1 x.2)).length
  let count (i : Nat) : Nat := (strap.filter (fun x => strapOk x.1 x.2 && x.2 == i)).length
  let set (f : Nat → Bool) : Nat := (List.range 10).foldl (fun a i => a + (if f i then 2 ^ i else 0)) 0
  let ok := bad == 0 && (List.range 10).all (fun i => count i == 1)
  setBits (setBits (setBits (setBits (setBits 0 31 1 1) 30 1 (b2n ok)) 16 10 (set (fun i => decide (2 ≤ count i)))) 10 4 bad) 0 10
    (set (fun i => decide (1 ≤ count i)))

section
variable {s : State} (haon : s.power.aonUp = true) (hopen : s.loupe.windowOpen = true)
include haon hopen

theorem State.exec_strapSample {d : Fin 10} (hd : SMap.find s.loupe.strap d.val = none) (code : BitVec 4) : exec (.strapSample d code) s =
    .next { s with loupe := { s.loupe with strap := SMap.put s.loupe.strap d.val code.toNat } } :=
  if_neg (by simp [haon, hopen, hd])

theorem State.exec_collectionWindowClose : exec .collectionWindowClose s =
    .next (State.setReg { s with loupe := { s.loupe with windowOpen := false, active := s.strapActive } } Reg.dieMap (dieMapWord s.loupe.strap)) :=
  if_neg (by simp [haon, hopen])

end

/-- A strap that has been taken is not taken again (01 R23). -/
theorem State.exec_strapSample_taken {s : State} {d : Fin 10} (hd : (SMap.find s.loupe.strap d.val).isSome = true) (code : BitVec 4) :
    exec (.strapSample d code) s = .next s :=
  if_pos (by simp [hd])

end Sys2Proof.Machine

namespace Sys2Proof.Machine

/-! ## Device events (17 R545, R546) -/

theorem State.deviceEvent_eventFrame (s : State) (cls : Nat) (lasts : Bool) : EventFrame s (s.deviceEvent cls lasts) := by
  unfold State.deviceEvent
  extract_lets l s1 other s2 l2 s3
  have h1 : ReportFrame s s1 := by
    unfold s1
    split
    · exact ⟨⟨rfl, rfl, rfl, fun _ _ => rfl⟩, rfl, rfl⟩
    · exact .refl s
  have h2 : ReportFrame s1 s2 := s1.setField_reportFrame _ _ _ (by decide)
  have h3 : ReportFrame s2 s3 := ⟨⟨rfl, rfl, rfl, fun _ _ => rfl⟩, rfl, rfl⟩
  have h : ReportFrame s s3 := (h1.trans h2).trans h3
  cases other with
  | none => exact h.toEventFrame
  | some c =>
    show EventFrame s (if _ then s3 else _)
    split
    · exact h.toEventFrame
    · have herr : ReportFrame s3 ((s3.setField Reg.errDevice 25 3 c).setField Reg.errDevice 22 3 cls) :=
        (s3.setField_reportFrame _ _ _ (by decide)).trans (State.setField_reportFrame _ _ _ _ (by decide))
      exact (h.trans herr).toEventFrame.trans (State.enterHold_eventFrame _ 3)

/-- While no other class's window is open, an event opens its own alone. -/
theorem State.deviceEvent_alone {s : State} {cls : Nat} (h : ∀ c ∈ [1, 2, 3, 4], c ≠ cls → bits (s.reg Reg.errDevice) (winBit c) 1 = 0)
    (lasts : Bool) : ∃ cs wa, s.deviceEvent cls lasts =
      { s.setField Reg.errDevice (winBit cls) 1 1 with loupe := { s.loupe with conds := cs, winAt := wa } } := by
  unfold State.deviceEvent
  extract_lets l s1 other s2 l2 s3
  obtain ⟨cs, h1⟩ : ∃ cs, s1 = { s with loupe := { s.loupe with conds := cs } } := by
    unfold s1
    split
    · exact ⟨_, rfl⟩
    · exact ⟨s.loupe.conds, rfl⟩
  have hnone : other = none := by
    unfold other
    rw [h1, List.find?_eq_none]
    intro c hc hopen
    rw [Bool.and_eq_true, bne_iff_ne, beq_iff_eq] at hopen
    exact absurd hopen.2 (by rw [State.reg_loupe, h c hc hopen.1]; decide)
  rw [hnone]
  unfold s3 l2 s2
  rw [h1]
  exact ⟨_, _, rfl⟩

theorem State.deviceEventEnds_only (s : State) (cls : Nat) : ∃ cs wa, s.deviceEventEnds cls =
    { s with loupe := { s.loupe with conds := cs, winAt := wa } } ∧ cls ∉ cs := by
  unfold State.deviceEventEnds
  split
  · exact ⟨_, _, rfl, by simp⟩
  · next h => exact ⟨s.loupe.conds, s.loupe.winAt, rfl, by simpa using h⟩

/-! ## Brown-outs (18 R562, 17 R531) -/

/-- The running partitions pause (18 R562). -/
def State.brownPause (s : State) (p : Nat) : State := s.setPart p { s.part p with brownout := true, brownOpen := s.windowOpen p }

theorem State.brownPause_part_other (s : State) {p q : Nat} (h : q ≠ p) : (s.brownPause p).part q = s.part q := s.part_setPart_other _ h

theorem State.brownPauses_only (s : State) (l : List Nat) : ∃ ps : SMap Partition, l.foldl State.brownPause s = { s with parts := ps } := by
  refine List.foldlRecOn (motive := fun t => ∃ ps : SMap Partition, t = { s with parts := ps }) l _ ⟨s.parts, rfl⟩ ?_
  rintro _ ⟨ps, rfl⟩ p -
  exact ⟨_, rfl⟩

theorem State.brownPauses_brownout (s : State) (l : List Nat) (p : Nat) :
    ((l.foldl State.brownPause s).part p).brownout = (l.contains p || (s.part p).brownout) := by
  by_cases hp : p ∈ l
  · rw [List.contains_iff_mem.2 hp, Bool.true_or]
    refine foldl_reaches (Pre := fun _ => True) (Done := fun t : State => (t.part p).brownout = true) hp (fun _ _ _ _ _ => trivial)
      (fun t _ => congrArg Partition.brownout (t.part_setPart_same p _)) (fun t ht q _ _ => ?_) trivial
    by_cases e : p = q
    · rw [← e]; exact congrArg Partition.brownout (t.part_setPart_same p _)
    · rw [t.brownPause_part_other e, ht]
  · have hframe := foldl_frame (fun t : State => t.part p) (l := l) (f := State.brownPause)
      (fun t q hq => t.brownPause_part_other (fun e => hp (e ▸ hq))) s
    rw [hframe, Bool.eq_false_iff.2 (mt List.contains_iff_mem.1 hp), Bool.false_or]

/-- The part as the warning of rail r finds it. -/
def State.railWarned (s : State) (r : Nat) : State :=
  { s.setField (Reg.rail r) 7 1 1 with
    power := { s.power with warned := if s.power.warned.contains r then s.power.warned else s.power.warned ++ [r] } }

/-- The partitions that run. -/
def State.runners (s : State) : List Nat := (List.range 64).filter (fun p => s.partIn p [.running])

theorem State.exec_railWarning {s : State} (hdev : s.dev = .ready) (hbrown : s.power.brownout = false) (r : RailId) :
    exec (.railWarning r) s = .next (State.deviceEvent { (s.runners.foldl State.brownPause (s.railWarned r)) with
      power := { (s.runners.foldl State.brownPause (s.railWarned r)).power with
        brownout := true, brownAt := (s.runners.foldl State.brownPause (s.railWarned r)).timebase, brownParts := s.runners } } 1 true) :=
  (if_neg (by simp [hdev])).trans (if_neg (by simpa using hbrown))

theorem State.railWarning_spec {s : State} (hdev : s.dev = .ready) (hbrown : s.power.brownout = false)
    (hwin : ∀ i, i ∈ [2, 3, 4] → bits (s.reg Reg.errDevice) (winBit i) 1 = 0) (r : RailId) :
    ∃ t, exec (.railWarning r) s = .next t ∧ Unmoved s t ∧ t.dev = .ready ∧ t.power.brownout = true ∧ t.power.brownAt = s.timebase ∧
      bits (t.reg (Reg.rail r)) 7 1 = 1 ∧ bits (t.reg Reg.errDevice) (winBit 1) 1 = 1 ∧
      ∀ p : PartId, (t.part p).brownout = (s.partIn p [.running] || (s.part p).brownout) := by
  refine ⟨_, State.exec_railWarning hdev hbrown r, ?_⟩
  have hpause := (s.railWarned r).brownPauses_brownout s.runners
  obtain ⟨ps, honly⟩ := (s.railWarned r).brownPauses_only s.runners
  have herr : Reg.errDevice ≠ Reg.rail r := by simp only [Reg.rail, Reg.errDevice]; omega
  rw [honly] at hpause ⊢
  have halone : ∀ c ∈ [1, 2, 3, 4], c ≠ 1 → bits ((s.setField (Reg.rail r) 7 1 1).reg Reg.errDevice) (winBit c) 1 = 0 := fun c hc h1 => by
    rw [State.reg_setField_other _ _ _ _ herr]
    exact hwin c (List.mem_of_ne_of_mem h1 hc)
  obtain ⟨cs, wa, hev⟩ := State.deviceEvent_alone (s := { s.railWarned r with parts := ps, power := { (s.railWarned r).power with
      brownout := true, brownAt := (s.railWarned r).timebase, brownParts := s.runners } }) (cls := 1) halone true
  rw [hev]
  refine ⟨⟨rfl, rfl⟩, hdev, rfl, rfl, ?_, ?_, fun p => ?_⟩
  · rw [State.reg_loupe, State.reg_setField_other _ _ _ _ herr.symm]
    exact (congrArg (bits · 7 1) (s.reg_setField_same _ _ _ _)).trans (bits_setBits_same _ _ _ _ (by decide))
  · rw [State.reg_loupe, State.reg_setField_same, bits_setBits_same _ _ _ _ (by decide)]
    rfl
  · refine (hpause p).trans (congrArg (· || _) ?_)
    rw [Bool.eq_iff_iff, List.contains_iff_mem, State.runners, List.mem_filter, List.mem_range]
    exact ⟨And.right, fun h => ⟨p.isLt, h⟩⟩

/-! A brown-out ends, or lasts too long (18 R562). -/

theorem State.traceEv_only (s : State) (cls key cap writer p : Nat) (r : TraceRec) :
    ∃ (tr : SMap (List TraceRec)) (tq : SMap (List TraceRec)), s.traceEv cls key cap writer p r = { s with trace := tr, traceQ := tq } := by
  unfold State.traceEv
  extract_lets on old t
  split
  · exact ⟨s.trace, s.traceQ, rfl⟩
  · refine List.foldlRecOn (motive := fun u => ∃ (tr : SMap (List TraceRec)) (tq : SMap (List TraceRec)), u = { s with trace := tr, traceQ := tq })
      _ _ ⟨_, s.traceQ, rfl⟩ ?_
    rintro _ ⟨tr, tq, rfl⟩ i -
    split
    · exact ⟨_, _, rfl⟩
    · exact ⟨_, _, rfl⟩

theorem State.tracePause_only (s : State) (p cause len : Nat) :
    ∃ (tr : SMap (List TraceRec)) (tq : SMap (List TraceRec)), s.tracePause p cause len = { s with trace := tr, traceQ := tq } := by
  unfold State.tracePause State.traceCore
  extract_lets n
  split
  · exact ⟨s.trace, s.traceQ, rfl⟩
  · exact s.traceEv_only ..

/-- A pause that has been counted: the partition's own count and the trace (11 R320, 20 R610). -/
theorem State.countPause_only (s : State) (p cause len : Nat) : ∃ x tr tq, s.countPause p cause len =
      { s.setPart p x with trace := tr, traceQ := tq } ∧
    x.state = (s.part p).state ∧ x.brownout = (s.part p).brownout ∧ x.brownOpen = (s.part p).brownOpen := by
  unfold State.countPause
  extract_lets x t
  obtain ⟨tr, tq, h⟩ := t.tracePause_only p cause len
  exact ⟨_, tr, tq, h, rfl, rfl, rfl⟩

theorem State.countPause_onlyPart (s : State) (p cause len : Nat) : OnlyPart p s (s.countPause p cause len) := by
  obtain ⟨x, tr, tq, h, -⟩ := s.countPause_only p cause len
  rw [h]
  exact (s.setPart_onlyPart p x).trans ⟨rfl, rfl, rfl, rfl, fun _ _ => rfl, fun _ _ _ _ => rfl⟩

/-- A recoverable event as its partition's registers and record show it (17 R531). -/
def State.eventNoted (s : State) (p code : Nat) : State :=
  State.setPart (((s.countField (Reg.recovery p) 0 16 1).setField (Reg.recovery p) 28 3 code).setField (Reg.recovery p) 31 1 1) p
    { s.part p with recoveryAt := s.timebase }

theorem State.eventNoted_onlyPart (s : State) (p code : Nat) : OnlyPart p s (s.eventNoted p code) :=
  have hreg (t : State) (w : Word) : OnlyPart p t (t.setReg (Reg.recovery p) w) := t.setReg_onlyPart p w (by simp)
  (((hreg _ _).trans (hreg _ _)).trans (hreg _ _)).trans (State.setPart_onlyPart _ p _)

theorem State.eventNoted_part (s : State) (p code : Nat) : (s.eventNoted p code).part p = { s.part p with recoveryAt := s.timebase } :=
  State.part_setPart_same _ _ _

theorem State.eventNoted_recovery (s : State) (p : Nat) {code : Nat} (hc : code < 8) :
    (s.eventNoted p code).windowOpen p = true ∧ bits ((s.eventNoted p code).reg (Reg.recovery p)) 28 3 = code := by
  have hreg : (s.eventNoted p code).reg (Reg.recovery p) =
      setBits (setBits ((s.countField (Reg.recovery p) 0 16 1).reg (Reg.recovery p)) 28 3 code) 31 1 1 := by
    rw [State.eventNoted, State.setPart_reg, State.reg_setField_same, State.reg_setField_same]
  rw [State.windowOpen, hreg, bits_setBits_same _ _ _ _ (by decide), bits_setBits_other _ _ _ _ _ _ (by decide) (by decide),
    bits_setBits_same _ _ _ _ (by decide)]
  exact ⟨rfl, Nat.mod_eq_of_lt hc⟩

theorem State.recoverable_eq {s : State} {p : Nat} (h : s.partIn p [.running, .paused] = true) (code : Nat) (second : Bool) :
    s.recoverable p code second = if second then (s.eventNoted p code).faultPart p 0x45 none else s.eventNoted p code :=
  if_neg (by simp [h])

theorem State.recoverable_idle {s : State} {p : Nat} (h : s.partIn p [.running, .paused] = false) (code : Nat) (second : Bool) :
    s.recoverable p code second = s :=
  if_pos (by simp [h])

theorem State.recoverable_onlyPart (s : State) (p code : Nat) (second : Bool) : OnlyPart p s (s.recoverable p code second) := by
  cases h : s.partIn p [.running, .paused]
  · rw [State.recoverable_idle h]
    exact .refl p s
  · rw [State.recoverable_eq h]
    split
    · exact (s.eventNoted_onlyPart p code).trans (State.faultPart_onlyPart _ p _ _)
    · exact s.eventNoted_onlyPart p code

theorem State.recoverable_brownout (s : State) (p code : Nat) (second : Bool) :
    ((s.recoverable p code second).part p).brownout = (s.part p).brownout := by
  cases h : s.partIn p [.running, .paused]
  · rw [State.recoverable_idle h]
  · rw [State.recoverable_eq h]
    split
    · rw [State.faultPart_brownout, State.eventNoted_part]
    · rw [State.eventNoted_part]

theorem State.recoverable_state (s : State) (p code : Nat) : ((s.recoverable p code false).part p).state = (s.part p).state := by
  cases h : s.partIn p [.running, .paused]
  · rw [State.recoverable_idle h]
  · rw [State.recoverable_eq h, if_neg Bool.false_ne_true, State.eventNoted_part]

/-- The event opens the partition's window and names itself; a second one that began in the window faults the partition. -/
theorem State.recoverable_active {s : State} {p : Nat} (h : s.partIn p [.running, .paused] = true) {code : Nat} (hc : code < 8) (second : Bool) :
    (s.recoverable p code second).windowOpen p = true ∧ bits ((s.recoverable p code second).reg (Reg.recovery p)) 28 3 = code ∧
    (second = true → ((s.recoverable p code second).part p).state = .faulted) := by
  obtain ⟨hopen, hcode⟩ := s.eventNoted_recovery p hc
  rw [State.recoverable_eq h]
  cases second with
  | false => exact ⟨hopen, hcode, fun h => absurd h Bool.false_ne_true⟩
  | true =>
    have hin : (s.eventNoted p code).partIn p [.running, .paused] = true := by
      rw [State.partIn, State.eventNoted_part]
      exact h
    have hrec : ((s.eventNoted p code).faultPart p 0x45 none).reg (Reg.recovery p) = (s.eventNoted p code).reg (Reg.recovery p) :=
      State.faultPart_reg _ _ _ (by simp only [Reg.recovery, Reg.partFault]; omega) (by simp only [Reg.recovery, Reg.partFaultStep]; omega)
    rw [State.windowOpen] at hopen ⊢
    rw [if_pos rfl, hrec]
    exact ⟨hopen, hcode, fun _ => (State.faultPart_active hin (by simp) none).1⟩

/-- The cycles for which RAIL_RECOVERY says that the brown-out paused partition p. -/
def brownCycles (l : List (PartId × Nat)) (p : Nat) : Nat := ((l.find? (fun x => x.1.val == p)).map (·.2)).getD 0

/-- A partition that the brown-out paused goes on; a short one counts as a recoverable event of it (18 R562). -/
def State.brownResume (short : Prop) [Decidable short] (l : List (PartId × Nat)) (s : State) (p : Nat) : State :=
  if !(s.part p).brownout then s else
  let s := if s.partIn p [.running] then s.countPause p pcBrownout (brownCycles l p) else s
  let s := s.setPart p { s.part p with brownout := false }
  if short then s.recoverable p 1 (s.part p).brownOpen else s

/-- The partition between its pause and the recoverable event. -/
theorem State.brownResume_paused {s : State} {p : Nat} (hbrown : (s.part p).brownout = true) (short : Prop) [Decidable short] (l : List (PartId × Nat)) :
    ∃ t, OnlyPart p s t ∧ (t.part p).state = (s.part p).state ∧ (t.part p).brownout = false ∧ (t.part p).brownOpen = (s.part p).brownOpen ∧
      s.brownResume short l p = if short then t.recoverable p 1 (t.part p).brownOpen else t := by
  unfold State.brownResume
  rw [if_neg (by simp [hbrown])]
  extract_lets s1 x s2
  have h1 : OnlyPart p s s1 ∧ (s1.part p).state = (s.part p).state ∧ (s1.part p).brownOpen = (s.part p).brownOpen := by
    unfold s1
    split
    · obtain ⟨y, tr, tq, h, hstate, -, hopen⟩ := s.countPause_only p pcBrownout (brownCycles l p)
      refine ⟨s.countPause_onlyPart p _ _, ?_, ?_⟩
      · rw [h, ← hstate]; exact congrArg Partition.state (s.part_setPart_same p y)
      · rw [h, ← hopen]; exact congrArg Partition.brownOpen (s.part_setPart_same p y)
    · exact ⟨.refl p s, rfl, rfl⟩
  obtain ⟨hframe, hstate, hopen⟩ := h1
  have hpart : s2.part p = { s1.part p with brownout := false } := s1.part_setPart_same p _
  refine ⟨s2, hframe.trans (s1.setPart_onlyPart p _), ?_, ?_, ?_, rfl⟩
  · rw [hpart]; exact hstate
  · rw [hpart]
  · rw [hpart]; exact hopen

end Sys2Proof.Machine

namespace Sys2Proof.Machine

section
variable (short : Prop) [Decidable short] (l : List (PartId × Nat))

theorem State.brownResume_onlyPart (s : State) (p : Nat) : OnlyPart p s (s.brownResume short l p) := by
  cases h : (s.part p).brownout
  · rw [State.brownResume, if_pos (by simp [h])]
    exact .refl p s
  · obtain ⟨t, hframe, -, -, -, heq⟩ := State.brownResume_paused h short l
    rw [heq]
    split
    · exact hframe.trans (t.recoverable_onlyPart p _ _)
    · exact hframe

/-- What the end of a brown-out makes of partition p (18 R562, 17 R531, log 52). -/
def Resumed (s t : State) (p : Nat) : Prop :=
  (t.part p).brownout = false ∧ ((short → (s.part p).brownOpen = false) → (t.part p).state = (s.part p).state) ∧
  (short → (s.part p).brownout = true → s.partIn p [.running, .paused] = true → t.windowOpen p = true ∧
    bits (t.reg (Reg.recovery p)) 28 3 = 1 ∧ ((s.part p).brownOpen = true → (t.part p).state = .faulted))

variable {short}

omit [Decidable short] in
theorem Resumed.congr {s t u : State} {p : Nat} (h : Resumed short s t p) (hpart : u.part p = t.part p)
    (hreg : u.reg (Reg.recovery p) = t.reg (Reg.recovery p)) : Resumed short s u p := by
  unfold Resumed State.windowOpen at *
  rw [hpart, hreg]
  exact h

variable (short)

theorem State.brownResume_resumed (s : State) (p : Nat) : Resumed short s (s.brownResume short l p) p := by
  cases h : (s.part p).brownout
  · rw [State.brownResume, if_pos (by simp [h])]
    exact ⟨h, fun _ => rfl, fun _ hb => absurd (h.symm.trans hb) Bool.false_ne_true⟩
  · obtain ⟨t, -, hstate, hbrown, hopen, heq⟩ := State.brownResume_paused h short l
    rw [heq]
    by_cases hs : short
    · rw [if_pos hs]
      refine ⟨(t.recoverable_brownout p _ _).trans hbrown, fun hn => ?_, fun _ _ hin => ?_⟩
      · rw [hopen, hn hs, State.recoverable_state, hstate]
      · have hin' : t.partIn p [.running, .paused] = true := by
          rw [State.partIn, hstate]
          exact hin
        rw [← hopen]
        exact State.recoverable_active hin' (by decide) _
    · rw [if_neg hs]
      exact ⟨hbrown, fun _ => hstate, fun h => absurd h hs⟩

/-- A partition that has gone on is left alone by a second entry of it. -/
theorem State.brownResume_idle {s : State} {p : Nat} (h : (s.part p).brownout = false) : s.brownResume short l p = s := by
  rw [State.brownResume, if_pos (by simp [h])]

theorem State.brownResumes_resumed (s : State) {ps : List Nat} {p : Nat} (hp : p ∈ ps) :
    Resumed short s (ps.foldl (State.brownResume short l) s) p := by
  refine foldl_reaches (Pre := fun t : State => t.part p = s.part p) (Done := fun t => Resumed short s t p) hp
    (fun t ht q _ hq => ((t.brownResume_onlyPart short l q).others p hq.symm).trans ht) (fun t ht => ?_) (fun t ht q _ _ => ?_) rfl
  · have h := t.brownResume_resumed short l p
    unfold Resumed State.partIn at *
    rw [ht] at h
    exact h
  · by_cases e : p = q
    · rw [← e, State.brownResume_idle short l ht.1]
      exact ht
    · have hframe := t.brownResume_onlyPart short l q
      exact ht.congr (hframe.others p e) (hframe.regs_other e).2

theorem State.brownResumes_frame (s : State) {ps : List Nat} (hps : ∀ p ∈ ps, p < 64) :
    ReportFrame s (ps.foldl (State.brownResume short l) s) :=
  .foldl fun t p hp => (t.brownResume_onlyPart short l p).reportFrame (hps p hp)

end

/-- The end of a brown-out but for its count and its condition. -/
def State.brownEnd (s : State) (l : List (PartId × Nat)) : State :=
  let t := s.power.brownParts.foldl (State.brownResume (s.timebase ≤ s.power.brownAt + 20000000) l) s
  { t with power := { t.power with brownout := false, brownParts := [], warned := [] } }

/-- BROWNOUT_COUNT counts a brown-out that ended in time. -/
def State.brownCounted (s : State) (l : List (PartId × Nat)) : State :=
  if s.timebase ≤ s.power.brownAt + 20000000 then
    (s.brownEnd l).setReg Reg.brownoutCount ((s.brownEnd l).reg Reg.brownoutCount + 1)
  else s.brownEnd l

theorem State.exec_railRecovery {s : State} (h : s.power.brownout = true) (l : List (PartId × Nat)) :
    exec (.railRecovery l) s = .next ((s.brownCounted l).deviceEventEnds 1) :=
  if_neg (by simp [h])

theorem State.brownCounted_spec {s : State} (hps : ∀ p ∈ s.power.brownParts, p < 64) (l : List (PartId × Nat)) :
    Unmoved s (s.brownCounted l) ∧ (s.brownCounted l).power.brownout = false ∧ (s.brownCounted l).power.warned = [] ∧
    (s.brownCounted l).reg Reg.brownoutCount =
      (if s.timebase ≤ s.power.brownAt + 20000000 then s.reg Reg.brownoutCount + 1 else s.reg Reg.brownoutCount) ∧
    ∀ p ∈ s.power.brownParts, Resumed (s.timebase ≤ s.power.brownAt + 20000000) s (s.brownCounted l) p := by
  have hframe := s.brownResumes_frame (s.timebase ≤ s.power.brownAt + 20000000) l hps
  have hcount : (s.brownEnd l).reg Reg.brownoutCount = s.reg Reg.brownoutCount := hframe.regs _ (by decide)
  have hmoved : Unmoved s (s.brownEnd l) := ⟨hframe.mem, hframe.cores⟩
  have hresumed : ∀ p ∈ s.power.brownParts, Resumed (s.timebase ≤ s.power.brownAt + 20000000) s (s.brownEnd l) p := fun p hp =>
    (s.brownResumes_resumed _ l hp).congr rfl rfl
  unfold State.brownCounted
  split
  · refine ⟨by simpa [Unmoved] using hmoved, rfl, rfl, ?_, fun p hp => (hresumed p hp).congr rfl (State.reg_setReg_other _ _ ?_)⟩
    · rw [State.reg_setReg_same, hcount]
    · have := hps p hp
      simp only [Reg.recovery, Reg.brownoutCount]
      omega
  · exact ⟨hmoved, rfl, rfl, hcount, hresumed⟩

theorem State.railRecovery_spec {s : State} (h : s.power.brownout = true) (hps : ∀ p ∈ s.power.brownParts, p < 64)
    (l : List (PartId × Nat)) : ∃ t, exec (.railRecovery l) s = .next t ∧ Unmoved s t ∧ t.power.brownout = false ∧ t.power.warned = [] ∧
      1 ∉ t.loupe.conds ∧ t.reg Reg.brownoutCount =
        (if s.timebase ≤ s.power.brownAt + 20000000 then s.reg Reg.brownoutCount + 1 else s.reg Reg.brownoutCount) ∧
      ∀ p ∈ s.power.brownParts, Resumed (s.timebase ≤ s.power.brownAt + 20000000) s t p := by
  obtain ⟨hmoved, hbrown, hwarned, hcount, hresumed⟩ := State.brownCounted_spec hps l
  obtain ⟨cs, wa, hends, hcs⟩ := (s.brownCounted l).deviceEventEnds_only 1
  refine ⟨_, State.exec_railRecovery h l, ?_⟩
  rw [hends]
  exact ⟨hmoved, hbrown, hwarned, hcs, hcount, fun p hp => (hresumed p hp).congr rfl rfl⟩

/-- A partition that a brown-out paused for too long faults (18 R562). -/
def State.brownFault (s : State) (p : Nat) : State :=
  (s.faultPart p 0x42 none).setPart p { (s.faultPart p 0x42 none).part p with brownout := false }

theorem State.brownFault_onlyPart (s : State) (p : Nat) : OnlyPart p s (s.brownFault p) :=
  (s.faultPart_onlyPart p _ _).trans (State.setPart_onlyPart _ p _)

theorem State.brownFault_part (s : State) (p : Nat) :
    (s.brownFault p).part p = { (s.faultPart p 0x42 none).part p with brownout := false } := State.part_setPart_same _ _ _

/-- A partition that ran is FAULTED with cause POWER; any other is as before but for its pause. -/
def TimedOut (s t : State) (p : Nat) : Prop :=
  (t.part p).brownout = false ∧
  (s.partIn p [.running] = true → (t.part p).state = .faulted ∧ bits (t.reg (Reg.partFault p)) 24 8 = 0x42)

theorem State.brownFault_again {s t : State} {p : Nat} (h : TimedOut s t p) : TimedOut s (t.brownFault p) p := by
  refine ⟨congrArg Partition.brownout (t.brownFault_part p), fun hrun => ?_⟩
  obtain ⟨hstate, hcause⟩ := h.2 hrun
  have hidle : t.faultPart p 0x42 none = t := if_neg (by simp [State.partIn, hstate])
  rw [State.brownFault_part, State.brownFault, State.setPart_reg, hidle]
  exact ⟨hstate, hcause⟩

theorem State.brownFault_timedOut {s t : State} {p : Nat} (h : t.part p = s.part p) : TimedOut s (t.brownFault p) p := by
  refine ⟨congrArg Partition.brownout (t.brownFault_part p), fun hrun => ?_⟩
  have hrun' : t.partIn p [.running] = true := by rw [State.partIn, h]; exact hrun
  have hactive : t.partIn p [.running, .paused] = true := by
    simp only [State.partIn, List.contains_cons, List.contains_nil, Bool.or_false] at hrun' ⊢
    rw [hrun', Bool.true_or]
  rw [State.brownFault_part, State.brownFault, State.setPart_reg]
  exact State.faultPart_active hactive (Or.inl hrun') none

theorem State.brownFaults_timedOut (s : State) {ps : List Nat} {p : Nat} (hp : p ∈ ps) : TimedOut s (ps.foldl State.brownFault s) p := by
  refine foldl_reaches (Pre := fun t : State => t.part p = s.part p) (Done := fun t => TimedOut s t p) hp
    (fun t ht q _ hq => ((t.brownFault_onlyPart q).others p hq.symm).trans ht) (fun t ht => State.brownFault_timedOut ht)
    (fun t ht q _ _ => ?_) rfl
  by_cases e : p = q
  · rw [← e]
    exact State.brownFault_again ht
  · have hframe := t.brownFault_onlyPart q
    unfold TimedOut at *
    rw [hframe.others p e, (hframe.regs_other e).1]
    exact ht

theorem State.exec_brownoutTimeout {s : State} (h : s.power.brownout = true) (ht : s.power.brownAt + 20000000 ≤ s.timebase) :
    exec .brownoutTimeout s = .next { s.power.brownParts.foldl State.brownFault s with
      power := { (s.power.brownParts.foldl State.brownFault s).power with brownParts := [] } } :=
  if_neg (by simp [h, ht])

theorem State.brownoutTimeout_spec {s : State} (h : s.power.brownout = true) (ht : s.power.brownAt + 20000000 ≤ s.timebase)
    (hps : ∀ p ∈ s.power.brownParts, p < 64) : ∃ t, exec .brownoutTimeout s = .next t ∧ Unmoved s t ∧ t.power.brownParts = [] ∧
      t.power.brownout = true ∧ ∀ p ∈ s.power.brownParts, TimedOut s t p := by
  have hframe : ReportFrame s (s.power.brownParts.foldl State.brownFault s) :=
    .foldl fun t p hp => (t.brownFault_onlyPart p).reportFrame (hps p hp)
  exact ⟨_, State.exec_brownoutTimeout h ht, ⟨hframe.mem, hframe.cores⟩, rfl, (congrArg Power.brownout hframe.power).trans h,
    fun p hp => s.brownFaults_timedOut hp⟩

end Sys2Proof.Machine

namespace Sys2Proof.Machine

/-! ## The poll of the regulators (18 R552) -/

/-- Of the rails' readings and silences only r's differ. -/
structure OnlyRail (r : Nat) (s t : State) : Prop where
  mem : t.mem = s.mem
  cores : t.cores = s.cores
  board : t.power.board = s.power.board
  missed : ∀ q, q ≠ r → SMap.get 0 t.power.missed q = SMap.get 0 s.power.missed q
  regs : ∀ o, Reg.tileRepair 0 ≤ o → o ≠ Reg.rail r → o ≠ Reg.railI r → t.reg o = s.reg o

theorem OnlyRail.refl (r : Nat) (s : State) : OnlyRail r s s := ⟨rfl, rfl, rfl, fun _ _ => rfl, fun _ _ _ _ => rfl⟩

theorem OnlyRail.trans {r : Nat} {s t u : State} (h : OnlyRail r s t) (k : OnlyRail r t u) : OnlyRail r s u :=
  ⟨k.mem.trans h.mem, k.cores.trans h.cores, k.board.trans h.board, fun q hq => (k.missed q hq).trans (h.missed q hq),
    fun o ho a b => (k.regs o ho a b).trans (h.regs o ho a b)⟩

theorem EventFrame.onlyRail {s t : State} (h : EventFrame s t) (r : Nat) : OnlyRail r s t :=
  ⟨h.mem, h.cores, by rw [h.power], fun _ _ => by rw [h.power], fun o ho _ _ => h.regs o ho⟩

theorem State.setField_onlyRail (s : State) (r lo len v : Nat) : OnlyRail r s (s.setField (Reg.rail r) lo len v) :=
  ⟨by simp, by simp, by simp, fun _ _ => by simp, fun _ _ h _ => s.reg_setField_other _ _ _ h⟩

theorem State.setReg_onlyRail (s : State) (r : Nat) (w : Word) : OnlyRail r s (s.setReg (Reg.railI r) w) :=
  ⟨by simp, by simp, by simp, fun _ _ => by simp, fun _ _ _ h => s.reg_setReg_other _ h⟩

/-- Another rail keeps its flags, its readings and its silences. -/
theorem OnlyRail.other {q r : Nat} {s t : State} (h : OnlyRail q s t) (hq : r ≠ q) : t.railFlag r = s.railFlag r ∧
    t.reg (Reg.rail r) = s.reg (Reg.rail r) ∧ t.reg (Reg.railI r) = s.reg (Reg.railI r) ∧
    SMap.get 0 t.power.missed r = SMap.get 0 s.power.missed r := by
  refine ⟨?_, h.regs _ ?_ ?_ ?_, h.regs _ ?_ ?_ ?_, h.missed r hq⟩
  · unfold State.railFlag
    rw [h.board]
  all_goals simp only [Reg.rail, Reg.railI, Reg.tileRepair]; omega

/-- The part once rail r has been asked and its silences counted anew. -/
def State.railAsked (s : State) (o : List Out) (r n : Nat) : State :=
  { s with out := o, power := { s.power with missed := SMap.set 0 s.power.missed r n } }

theorem State.railAsked_onlyRail (s : State) (o : List Out) (r n : Nat) : OnlyRail r s (s.railAsked o r n) :=
  ⟨rfl, rfl, rfl, fun _ hq => SMap.get_set_other _ _ _ _ hq, fun _ _ _ _ => rfl⟩

theorem State.railAsked_missed (s : State) (o : List Out) (r n : Nat) : SMap.get 0 (s.railAsked o r n).power.missed r = n :=
  SMap.get_set_same 0 s.power.missed r n

/-- The part once rail r's answer is taken. -/
def State.railRead (s : State) (o : List Out) (r v a : Nat) : State :=
  ((s.railAsked o r 0).setField (Reg.rail r) 21 11 v).setReg (Reg.railI r) (setBits (setBits 0 0 16 a) 16 16 (v * a / 16000))

theorem State.pmbusAll_only (s : State) (r : Nat) (cs : List Nat) : ∃ o, cs.foldl (fun s c => s.pmbus r c 0) s = { s with out := o } := by
  refine List.foldlRecOn (motive := fun t : State => ∃ o, t = { s with out := o }) cs _ ⟨s.out, rfl⟩ ?_
  rintro _ ⟨o, rfl⟩ c -
  obtain ⟨o', h⟩ := State.pmbus_only { s with out := o } r c 0
  exact ⟨o', h⟩

theorem State.pollRail_absent {s : State} {r : Nat} (h : s.railFlag r 0 = false) (l : List (RailId × RailRead)) : s.pollRail l r = s :=
  if_pos (by simp [h])

theorem State.pollRail_answered {s : State} {r : Nat} (h : s.railFlag r 0 = true) {l : List (RailId × RailRead)} {x : RailId} {v a : Nat}
    (hl : l.find? (fun y => y.1.val == r) = some (x, v, a, false)) : ∃ o, s.pollRail l r = s.railRead o r v a := by
  obtain ⟨o, hasked⟩ := s.pmbusAll_only r [pmStatusWord, pmReadVout, pmReadIout, pmReadTemp]
  unfold State.pollRail
  rw [if_neg (by simp [h]), hasked, hl]
  exact ⟨o, rfl⟩

theorem State.pollRail_silent {s : State} {r : Nat} (h : s.railFlag r 0 = true) : ∃ o,
    s.pollRail [] r = (if SMap.get 0 s.power.missed r + 1 = 3 then (s.railAsked o r (SMap.get 0 s.power.missed r + 1)).railFault r
      else s.railAsked o r (SMap.get 0 s.power.missed r + 1)) := by
  obtain ⟨o, hasked⟩ := s.pmbusAll_only r [pmStatusWord, pmReadVout, pmReadIout, pmReadTemp]
  unfold State.pollRail
  rw [if_neg (by simp [h]), hasked]
  exact ⟨o, rfl⟩

theorem State.railRead_onlyRail (s : State) (o : List Out) (r v a : Nat) : OnlyRail r s (s.railRead o r v a) :=
  ((s.railAsked_onlyRail o r 0).trans (State.setField_onlyRail _ r 21 11 v)).trans (State.setReg_onlyRail _ r _)

/-- What the answer of rail r leaves. -/
def RailShows (t : State) (r v a : Nat) : Prop :=
  bits (t.reg (Reg.rail r)) 21 11 = v ∧ bits (t.reg (Reg.railI r)) 0 16 = a % 65536 ∧ SMap.get 0 t.power.missed r = 0

theorem State.railRead_shows (s : State) (o : List Out) (r a : Nat) {v : Nat} (hv : v < 2048) : RailShows (s.railRead o r v a) r v a := by
  refine ⟨?_, ?_, ?_⟩
  · rw [State.railRead, State.reg_setReg_other _ _ (by simp only [Reg.rail, Reg.railI]; omega), State.reg_setField_same,
      bits_setBits_same _ _ _ _ (by decide)]
    exact Nat.mod_eq_of_lt hv
  · rw [State.railRead, State.reg_setReg_same, bits_setBits_other _ _ _ _ _ _ (by decide) (by decide), bits_setBits_same _ _ _ _ (by decide)]
    rfl
  · exact s.railAsked_missed o r 0

/-- A regulator fault shows in RAIL and changes no other rail. -/
theorem State.railFault_onlyRail (s : State) (r : Nat) : OnlyRail r s (s.railFault r) ∧
    (s.railFault r).power = s.power ∧ bits ((s.railFault r).reg (Reg.rail r)) 8 1 = 1 := by
  obtain ⟨o, h⟩ := (s.setField (Reg.rail r) 8 1 1).pmbus_only r pmClearFaults 0
  have hev := State.deviceEvent_eventFrame { s.setField (Reg.rail r) 8 1 1 with out := o } 1 false
  rw [← h] at hev
  refine ⟨(s.setField_onlyRail r 8 1 1).trans (.trans ?_ (hev.onlyRail r)), hev.power.trans ?_, ?_⟩
  · rw [h]
    exact ⟨rfl, rfl, rfl, fun _ _ => rfl, fun _ _ _ _ => rfl⟩
  · rw [h, ← s.setField_power (Reg.rail r) 8 1 1]
  · unfold State.railFault
    rw [hev.regs _ (by simp only [Reg.rail, Reg.tileRepair]; omega), h]
    exact (congrArg (bits · 8 1) (s.reg_setField_same _ _ _ _)).trans (bits_setBits_same _ _ _ _ (by decide))

/-- A silence counts, and the third in a row is a fault. -/
theorem State.pollRail_silent_spec {s : State} {r : Nat} (h : s.railFlag r 0 = true) : OnlyRail r s (s.pollRail [] r) ∧
    SMap.get 0 (s.pollRail [] r).power.missed r = SMap.get 0 s.power.missed r + 1 ∧
    (SMap.get 0 s.power.missed r = 2 → bits ((s.pollRail [] r).reg (Reg.rail r)) 8 1 = 1) := by
  obtain ⟨o, hpoll⟩ := State.pollRail_silent h
  have hasked := s.railAsked_onlyRail o r (SMap.get 0 s.power.missed r + 1)
  have hcount : SMap.get 0 (s.railAsked o r (SMap.get 0 s.power.missed r + 1)).power.missed r = SMap.get 0 s.power.missed r + 1 :=
    s.railAsked_missed o r _
  rw [hpoll]
  split
  · obtain ⟨honly, hpower, hfault⟩ := (s.railAsked o r (SMap.get 0 s.power.missed r + 1)).railFault_onlyRail r
    exact ⟨hasked.trans honly, by rw [hpower, hcount], fun _ => hfault⟩
  · next h3 => exact ⟨hasked, hcount, fun h2 => absurd (by rw [h2]) h3⟩

/-- A poll of rail r changes its own readings alone. -/
theorem State.pollRail_onlyRail_silent (s : State) (r : Nat) : OnlyRail r s (s.pollRail [] r) := by
  cases h : s.railFlag r 0 with
  | false => rw [State.pollRail_absent h]; exact .refl r s
  | true => exact (State.pollRail_silent_spec h).1

section
variable {s : State} {l : List (RailId × RailRead)}

/-- Every PRESENT rail has answered without a fault. -/
def AllAnswered (s : State) (l : List (RailId × RailRead)) : Prop :=
  ∀ r, r < 16 → s.railFlag r 0 = true → ∃ x v a, l.find? (fun y => y.1.val == r) = some (x, v, a, false)

theorem allAnswered_of (hgood : ∀ x ∈ l, x.2.2.2 = false) (hall : ∀ r, r < 16 → s.railFlag r 0 = true → ∃ x ∈ l, x.1.val = r) :
    AllAnswered s l := by
  intro r hr hflag
  obtain ⟨x, hx, hxr⟩ := hall r hr hflag
  obtain ⟨⟨y, v, a, bad⟩, hfind⟩ := Option.isSome_iff_exists.1
    (List.find?_isSome.2 ⟨x, hx, beq_iff_eq.2 hxr⟩ : (l.find? (fun y => y.1.val == r)).isSome = true)
  have hbad : bad = false := hgood _ (List.mem_of_find?_eq_some hfind)
  exact ⟨y, v, a, hbad ▸ hfind⟩

theorem State.pollRail_onlyRail_answered (h : AllAnswered s l) {r : Nat} (hr : r < 16) :
    OnlyRail r s (s.pollRail l r) ∧ (s.pollRail l r).dev = s.dev := by
  cases hflag : s.railFlag r 0 with
  | false => rw [State.pollRail_absent hflag]; exact ⟨.refl r s, rfl⟩
  | true =>
    obtain ⟨x, v, a, hfind⟩ := h r hr hflag
    obtain ⟨o, hpoll⟩ := State.pollRail_answered hflag hfind
    rw [hpoll]
    exact ⟨s.railRead_onlyRail o r v a, rfl⟩

theorem AllAnswered.congr {t : State} (h : AllAnswered s l) (hboard : t.power.board = s.power.board) : AllAnswered t l := by
  intro r hr hflag
  unfold State.railFlag at hflag
  rw [hboard] at hflag
  exact h r hr hflag

/-- The whole poll, every rail having answered. -/
theorem State.pollRails_answered (hdev : s.dev ≠ .cold) (h : AllAnswered s l) :
    Unmoved s (s.pollRails l) ∧ (s.pollRails l).dev = s.dev ∧ RailsRead s (s.pollRails l) l := by
  have hpolls : s.pollRails l = (List.range 16).foldl (fun s r => s.pollRail l r) s := if_neg hdev
  rw [hpolls]
  have hkept : ∀ (t : State), t.power.board = s.power.board → ∀ r ∈ List.range 16,
      OnlyRail r t (t.pollRail l r) ∧ (t.pollRail l r).dev = t.dev := fun t ht r hr =>
    State.pollRail_onlyRail_answered (h.congr ht) (List.mem_range.1 hr)
  have hframe := List.foldlRecOn (List.range 16) (fun s r => State.pollRail s l r)
    (motive := fun t : State => t.power.board = s.power.board ∧ Unmoved s t ∧ t.dev = s.dev) ⟨rfl, ⟨rfl, rfl⟩, rfl⟩
    fun t ⟨hboard, ⟨hmem, hcores⟩, hd⟩ r hr => by
      obtain ⟨honly, hd'⟩ := hkept t hboard r hr
      exact ⟨honly.board.trans hboard, ⟨honly.mem.trans hmem, honly.cores.trans hcores⟩, hd'.trans hd⟩
  refine ⟨hframe.2.1, hframe.2.2, fun r x v a bad hr hflag hfind hv => ?_⟩
  obtain rfl : bad = false := by
    obtain ⟨_, _, _, hfind'⟩ := h r hr hflag
    rw [hfind] at hfind'
    cases hfind'
    rfl
  refine (foldl_reaches (l := List.range 16) (f := fun s r => State.pollRail s l r)
    (Pre := fun t : State => t.power.board = s.power.board) (Done := fun t => t.power.board = s.power.board ∧ RailShows t r v a)
    (List.mem_range.2 hr) (fun t ht q hq _ => (hkept t ht q hq).1.board.trans ht) (fun t ht => ?_) (fun t ht q hq hqr => ?_) rfl).2
  · obtain ⟨o, hpoll⟩ := State.pollRail_answered (s := t) (by unfold State.railFlag at hflag ⊢; rw [ht]; exact hflag) hfind
    refine ⟨(hkept t ht r (List.mem_range.2 hr)).1.board.trans ht, ?_⟩
    rw [hpoll]
    exact t.railRead_shows o r a hv
  · obtain ⟨hboard, hshows⟩ := ht
    have honly := (hkept t hboard q hq).1
    obtain ⟨-, hrail, hrailI, hmissed⟩ := honly.other (hqr List.nodup_range).symm
    refine ⟨honly.board.trans hboard, ?_⟩
    unfold RailShows at hshows ⊢
    rwa [hrail, hrailI, hmissed]

end

/-- The whole poll, no rail having answered. -/
theorem State.pollRails_silent {s : State} (hdev : s.dev ≠ .cold) : (s.pollRails []).mem = s.mem ∧ ∀ r, r < 16 → s.railFlag r 0 = true →
    SMap.get 0 (s.pollRails []).power.missed r = SMap.get 0 s.power.missed r + 1 ∧
    (SMap.get 0 s.power.missed r = 2 → bits ((s.pollRails []).reg (Reg.rail r)) 8 1 = 1) := by
  have hpolls : s.pollRails [] = (List.range 16).foldl (fun s r => s.pollRail [] r) s := if_neg hdev
  rw [hpolls]
  refine ⟨foldl_frame State.mem (fun t r _ => (t.pollRail_onlyRail_silent r).mem) s, fun r hr hflag => ?_⟩
  refine foldl_reaches (l := List.range 16) (f := fun s r => State.pollRail s [] r)
    (Pre := fun t : State => t.railFlag r = s.railFlag r ∧ SMap.get 0 t.power.missed r = SMap.get 0 s.power.missed r)
    (Done := fun t : State => SMap.get 0 t.power.missed r = SMap.get 0 s.power.missed r + 1 ∧
      (SMap.get 0 s.power.missed r = 2 → bits (t.reg (Reg.rail r)) 8 1 = 1))
    (List.mem_range.2 hr) ?_ ?_ ?_ ⟨rfl, rfl⟩
  · rintro t ⟨hf, hm⟩ q - hqr
    obtain ⟨hflags, -, -, hmissed⟩ := (t.pollRail_onlyRail_silent q).other hqr.symm
    exact ⟨hflags.trans hf, hmissed.trans hm⟩
  · rintro t ⟨hf, hm⟩
    obtain ⟨-, hcount, hfault⟩ := State.pollRail_silent_spec (s := t) (r := r) (by rw [hf]; exact hflag)
    rw [← hm]
    exact ⟨hcount, hfault⟩
  · rintro t ⟨hcount, hfault⟩ q - hqr
    obtain ⟨-, hrail, -, hmissed⟩ := (t.pollRail_onlyRail_silent q).other (hqr List.nodup_range).symm
    rw [hrail, hmissed]
    exact ⟨hcount, hfault⟩

end Sys2Proof.Machine

namespace Sys2Proof.Machine

/-! ## Adaptive voltage (18 R555) -/

/-- The voltage that a rail was last set to, or, before that, the one read. -/
def railSetpoint (w : Word) : Nat := if bits w 10 11 = 0 then bits w 21 11 else bits w 10 11

/-- The setpoint that a rail moves to from `now` for the voltage its blocks want. -/
def avsTarget (now want : Nat) : Nat := max 550 (min 900 (if now < want then min want (now + 10) else max want (now - 10)))

/-- A move stays within 550 to 900 and is of at most 10 mV. -/
theorem avsTarget_bounds (now : Nat) {want : Nat} (h : 550 ≤ want) (h' : want ≤ 900) :
    (550 ≤ avsTarget now want ∧ avsTarget now want ≤ 900) ∧
    (550 ≤ now → now ≤ 900 → avsTarget now want ≤ now + 10 ∧ now ≤ avsTarget now want + 10) := by
  unfold avsTarget
  split <;> omega

/-- The voltage that the blocks of rail t want. -/
def avsWant (ns : List (BlockId × Nat)) (t : Nat) : Nat :=
  max 550 (min 900 (((ns.filter (fun x => x.1.val / 32 == t)).map (·.2)).foldl max 0 + 20))

/-- Rail t takes one step towards what its blocks want. -/
def State.avsRail (ns : List (BlockId × Nat)) (s : State) (t : Nat) : State :=
  if !s.railFlag t 2 ∨ (ns.filter (fun x => x.1.val / 32 == t)).isEmpty then s else
  if railSetpoint (s.reg (Reg.rail t)) = 0 then s else
  (s.setField (Reg.rail t) 10 11 (avsTarget (railSetpoint (s.reg (Reg.rail t))) (avsWant ns t))).pmbus t pmVoutCommand
    (avsTarget (railSetpoint (s.reg (Reg.rail t))) (avsWant ns t))

/-- A block trims down to its need. -/
def State.avsTrim (s : State) (x : BlockId × Nat) : State :=
  s.setBlock x.1.val { s.block x.1.val with trim := min 150 (railSetpoint (s.reg (Reg.rail (x.1.val / 32))) - x.2) }

/-- The needs that count. -/
def State.avsNeeds (s : State) (l : List (BlockId × Nat)) : List (BlockId × Nat) := l.filter (fun x => s.powered x.1.val)

theorem State.exec_avsUpdate {s : State} (hdev : s.dev = .ready) (l : List (BlockId × Nat)) : exec (.avsUpdate l) s =
    .next ((s.avsNeeds l).foldl State.avsTrim ((List.range 8).foldl (State.avsRail (s.avsNeeds l)) s)) :=
  if_neg (by simp [hdev])

section
variable {ns : List (BlockId × Nat)} {s : State} {t : Nat}

/-- The rail's new setpoint follows its old one (18 R555). -/
def AvsMoved (a b : Word) : Prop :=
  (railSetpoint a = 0 → bits b 10 11 = 0) ∧ (railSetpoint a ≠ 0 → 550 ≤ bits b 10 11 ∧ bits b 10 11 ≤ 900) ∧
  (550 ≤ railSetpoint a → railSetpoint a ≤ 900 → bits b 10 11 ≤ railSetpoint a + 10 ∧ railSetpoint a ≤ bits b 10 11 + 10)

theorem State.avsRail_still (h : s.railFlag t 2 = false) : s.avsRail ns t = s := if_pos (by simp [h])

theorem State.avsRail_onlyRail (s : State) (t : Nat) : OnlyRail t s (s.avsRail ns t) := by
  unfold State.avsRail
  split
  · exact .refl t s
  · split
    · exact .refl t s
    · generalize avsTarget _ _ = v
      obtain ⟨o, h⟩ := (s.setField (Reg.rail t) 10 11 v).pmbus_only t pmVoutCommand v
      rw [h]
      exact (s.setField_onlyRail t 10 11 v).trans ⟨rfl, rfl, rfl, fun _ _ => rfl, fun _ _ _ _ => rfl⟩

theorem State.avsRail_moved (h : s.railFlag t 2 = true) (hns : ∃ x ∈ ns, x.1.val / 32 = t) :
    AvsMoved (s.reg (Reg.rail t)) ((s.avsRail ns t).reg (Reg.rail t)) := by
  obtain ⟨x, hx, hxt⟩ := hns
  have hmine : ¬ (!s.railFlag t 2 ∨ (ns.filter (fun x => x.1.val / 32 == t)).isEmpty) := by
    simp only [h, List.isEmpty_iff, List.filter_eq_nil_iff]
    simpa using ⟨x.1, ⟨x.2, hx⟩, hxt⟩
  unfold State.avsRail
  rw [if_neg hmine]
  split
  · next hz =>
    refine ⟨fun _ => ?_, fun hne => absurd hz hne, fun h5 => absurd h5 (by omega)⟩
    unfold railSetpoint at hz
    split at hz <;> assumption
  · next hne =>
    have hwant : 550 ≤ avsWant ns t ∧ avsWant ns t ≤ 900 := by unfold avsWant; omega
    obtain ⟨hrange, hstep⟩ := avsTarget_bounds (railSetpoint (s.reg (Reg.rail t))) hwant.1 hwant.2
    have hnew : ∀ v, v ≤ 900 → bits (((s.setField (Reg.rail t) 10 11 v).pmbus t pmVoutCommand v).reg (Reg.rail t)) 10 11 = v := fun v hv => by
      obtain ⟨o, hout⟩ := (s.setField (Reg.rail t) 10 11 v).pmbus_only t pmVoutCommand v
      rw [hout]
      refine (congrArg (bits · 10 11) (s.reg_setField_same _ _ _ _)).trans ((bits_setBits_same _ _ _ _ (by decide)).trans ?_)
      exact Nat.mod_eq_of_lt (by omega)
    unfold AvsMoved
    rw [hnew _ hrange.2]
    exact ⟨fun h0 => absurd h0 hne, fun _ => hrange, hstep⟩

/-- Trimming the blocks changes blocks alone. -/
theorem State.avsTrims_blocksOnly (s : State) (ns : List (BlockId × Nat)) : BlocksOnly s (ns.foldl State.avsTrim s) :=
  .foldl (fun _ _ => ⟨_, _, rfl⟩) ns

theorem State.avsUpdate_spec (hdev : s.dev = .ready) (l : List (BlockId × Nat)) : ∃ t, exec (.avsUpdate l) s = .next t ∧ Unmoved s t ∧
    (∀ i, i < 8 → s.railFlag i 2 = false → t.reg (Reg.rail i) = s.reg (Reg.rail i)) ∧
    ∀ i, i < 8 → s.railFlag i 2 = true → (∃ x ∈ l, s.powered x.1 = true ∧ x.1.val / 32 = i) →
      AvsMoved (s.reg (Reg.rail i)) (t.reg (Reg.rail i)) := by
  refine ⟨_, State.exec_avsUpdate hdev l, ?_⟩
  generalize hns : s.avsNeeds l = ns
  obtain ⟨bs, q, htrim⟩ := State.avsTrims_blocksOnly ((List.range 8).foldl (State.avsRail ns) s) ns
  rw [htrim]
  refine ⟨⟨foldl_frame State.mem (fun t r _ => (t.avsRail_onlyRail r).mem) s, foldl_frame State.cores (fun t r _ => (t.avsRail_onlyRail r).cores) s⟩,
    fun i hi hflag => ?_, fun i hi hflag ⟨x, hx, hpow, hxi⟩ => ?_⟩
  · refine (List.foldlRecOn (motive := fun t : State => t.railFlag i = s.railFlag i ∧ t.reg (Reg.rail i) = s.reg (Reg.rail i))
      (List.range 8) (State.avsRail ns) ⟨rfl, rfl⟩ ?_).2
    rintro t ⟨hf, hreg⟩ r -
    by_cases hr : i = r
    · rw [State.avsRail_still (by rw [← hr, hf, hflag])]
      exact ⟨hf, hreg⟩
    · obtain ⟨hf', hreg', -⟩ := (t.avsRail_onlyRail (ns := ns) r).other hr
      exact ⟨hf'.trans hf, hreg'.trans hreg⟩
  · refine foldl_reaches (l := List.range 8) (f := State.avsRail ns)
      (Pre := fun t : State => t.railFlag i = s.railFlag i ∧ t.reg (Reg.rail i) = s.reg (Reg.rail i))
      (Done := fun t : State => AvsMoved (s.reg (Reg.rail i)) (t.reg (Reg.rail i))) (List.mem_range.2 hi) ?_ ?_ ?_ ⟨rfl, rfl⟩
    · rintro t ⟨hf, hreg⟩ r - hr
      obtain ⟨hf', hreg', -⟩ := (t.avsRail_onlyRail (ns := ns) r).other hr.symm
      exact ⟨hf'.trans hf, hreg'.trans hreg⟩
    · rintro t ⟨hf, hreg⟩
      rw [← hreg]
      refine State.avsRail_moved (by rw [hf, hflag]) ⟨x, ?_, hxi⟩
      rw [← hns]
      exact List.mem_filter.2 ⟨hx, hpow⟩
    · rintro t hmoved r - hr
      obtain ⟨-, hreg', -⟩ := (t.avsRail_onlyRail (ns := ns) r).other (hr List.nodup_range).symm
      rwa [hreg']

end

end Sys2Proof.Machine

namespace Sys2Proof.Machine

section
variable {s : State}

/-! ## The sequencer and the straps, event by event (18 R564 to R566, 01 R23 to R26) -/

theorem State.pwrReqOn_first (haon : s.power.aonUp = true) (hreq : s.power.pwrReq = false) (htrip : s.power.thermtripLow = false)
    (hdev : s.dev = .cold) (hseq : s.power.seqUp = none) (hgood : s.allGood = false) {r : Nat} {l : List Nat}
    {m : SMap (Nat × Nat × Nat)} (hr : s.seqRails = r :: l) (hm : s.power.board = some m) :
    ∃ t, exec .pwrReqOn s = .next t ∧ Unmoved s t ∧ t.power.pwrReq = true ∧ t.power.seqUp = some 0 ∧
      t.out = s.out ++ [.pmbus (SMap.get (0, 0, 0) m r).1 (SMap.get (0, 0, 0) m r).2.1 0x01 0x80] := by
  refine ⟨_, State.exec_pwrReqOn_cold haon hreq htrip hdev hseq hgood, ?_⟩
  have hon := State.railOn_first (s := { s with power := { s.power with pwrReq := true, reqPending := false } }) hr hm
  rw [hon]
  exact ⟨⟨rfl, rfl⟩, rfl, rfl, rfl⟩

theorem State.pwrReqOff_spec (haon : s.power.aonUp = true) (hdev : s.dev = .ready) :
    ∃ t, exec .pwrReqOff s = .next t ∧ Unmoved s t ∧ t.dev = .shutdown ∧ t.power.pwrReq = false ∧
      (∀ c ∈ t.loupe.inflight, c.result.isSome = true) ∧ t.loupe.handover = false ∧
      bits (t.reg Reg.irisCtrl) 8 8 = s.power.dutyMax % 256 := by
  refine ⟨_, State.exec_pwrReqOff_ready haon hdev, ?_⟩
  obtain ⟨hmoved, hdev', hreq, hinflight, hhand, hduty⟩ := State.enterShutdown_spec (s := { s with power := { s.power with
    pwrReq := false, reqPending := false, reqCycled := s.power.reqCycled || s.power.thermtripLow } }) (by simp [hdev])
  refine ⟨hmoved, hdev', hreq, hinflight, hhand, ?_⟩
  rw [hduty, bits_setBits_same _ _ _ _ (by decide)]
  rfl

theorem State.railSequenceNext_more {i : Nat} (hseq : s.power.seqUp = some i) (hdev : s.dev = .cold) (hi : i + 1 < s.seqRails.length) :
    ∃ t, exec .railSequenceNext s = .next t ∧ Unmoved s t ∧ t.power.seqUp = some (i + 1) ∧ t.dev = .cold := by
  refine ⟨_, State.exec_railSequenceNext hseq hdev, ?_⟩
  obtain ⟨o, hon⟩ := s.railOn_only (i + 1)
  have hplace : s.seqPlace (i + 1) = some (i + 1) := if_pos hi
  rw [hplace] at hon
  rw [hon, if_neg (by simp)]
  exact ⟨⟨rfl, rfl⟩, rfl, hdev⟩

theorem State.railSequenceNext_last {i : Nat} (hseq : s.power.seqUp = some i) (hdev : s.dev = .cold) (hi : s.seqRails.length ≤ i + 1)
    (hreq : s.power.pwrReq = true) : exec .railSequenceNext s = .next { s with power := { s.power with seqUp := none } } := by
  rw [State.exec_railSequenceNext hseq hdev, State.railOn_past hi]
  exact congrArg Host.Outcome.next (if_pos hreq)

theorem State.shutdownRailOff_spec {i : Nat} (hseq : s.power.seqDown = some i) (hdev : s.dev = .shutdown) :
    ∃ t, exec .shutdownRailOff s = .next t ∧ Unmoved s t ∧
      t.power.seqDown = (if i + 1 < s.seqRails.length then some (i + 1) else none) := by
  refine ⟨_, State.exec_shutdownRailOff hseq hdev, ?_⟩
  obtain ⟨o, hoff⟩ := s.railOff_only (i + 1)
  rw [hoff]
  exact ⟨⟨rfl, rfl⟩, rfl⟩

theorem State.pwrGoodValid_spec (haon : s.power.aonUp = true) (g : Fin 4) :
    ∃ t, exec (.pwrGoodValid g) s = .next t ∧ Unmoved s t ∧ t.goodInput g = true ∧
      (∀ h, h ≠ g.val → t.goodInput h = s.goodInput h) ∧ ∀ r, r < 16 → goodGroup r = g → bits (t.reg (Reg.rail r)) 9 1 = 1 := by
  refine ⟨_, State.exec_pwrGoodValid haon g, ?_⟩
  have hgood := fun r (hr : r < 16) => State.showRails_pgood { s with power := { s.power with pwrGood := SMap.put s.power.pwrGood g.val true } } hr
  obtain ⟨rs, h⟩ := State.showRails_only { s with power := { s.power with pwrGood := SMap.put s.power.pwrGood g.val true } }
  rw [h] at hgood ⊢
  have hon : SMap.get false (SMap.put s.power.pwrGood g.val true) g = true := SMap.get_put_same _ _ _ _
  refine ⟨⟨rfl, rfl⟩, hon, fun h hh => SMap.get_put_other _ _ _ hh, fun r hr hg => (hgood r hr).trans ?_⟩
  rw [hg]
  exact congrArg b2n hon

theorem State.refclk25mReturn_spec (haon : s.power.aonUp = true) (href : s.power.refclk = false) :
    ∃ t, exec .refclk25mReturn s = .next t ∧ Unmoved s t ∧ t.power.refclk = true ∧ bits (t.reg Reg.clkStatus) 31 1 = 1 ∧ t.dev = s.dev := by
  refine ⟨_, State.exec_refclk25mReturn haon href, ?_⟩
  have hbit := State.showRails_refclk { s with power := { s.power with refclk := true } }
  obtain ⟨rs, h⟩ := State.showRails_only { s with power := { s.power with refclk := true } }
  rw [h] at hbit ⊢
  exact ⟨⟨rfl, rfl⟩, rfl, hbit, rfl⟩

theorem State.strapSample_spec (haon : s.power.aonUp = true) (hopen : s.loupe.windowOpen = true) {d : Fin 10}
    (hd : SMap.find s.loupe.strap d.val = none) (code : BitVec 4) :
    ∃ t, exec (.strapSample d code) s = .next t ∧ Unmoved s t ∧ t.regs = s.regs ∧ SMap.find t.loupe.strap d.val = some code.toNat ∧
      exec (.strapSample d (code + 1)) t = .next t := by
  have htaken : SMap.find (SMap.put s.loupe.strap d.val code.toNat) d.val = some code.toNat := SMap.find_put_same _ _ _
  exact ⟨_, State.exec_strapSample haon hopen hd code, ⟨rfl, rfl⟩, rfl, htaken, State.exec_strapSample_taken (by rw [htaken]; rfl) _⟩

theorem dieMapWord_all : dieMapWord ((List.range 10).map (fun i => (i, i))) = 0xC00003FF := by decide
theorem dieMapWord_none : dieMapWord [] = 0x80000000 := by decide

theorem State.loupe_setReg_unmoved (s : State) (l : Loupe) (o : Nat) (w : Word) :
    Unmoved s (State.setReg { s with loupe := l } o w) ∧ (State.setReg { s with loupe := l } o w).loupe = l := ⟨⟨rfl, rfl⟩, rfl⟩

theorem State.collectionWindowClose_spec (haon : s.power.aonUp = true) (hopen : s.loupe.windowOpen = true) :
    ∃ t, exec .collectionWindowClose s = .next t ∧ Unmoved s t ∧ t.loupe.windowOpen = false ∧ t.loupe.active = s.strapActive ∧
      (∀ o, o ≠ Reg.dieMap → t.reg o = s.reg o) ∧
      (s.loupe.strap = (List.range 10).map (fun i => (i, i)) → t.reg Reg.dieMap = 0xC00003FF) ∧
      (s.loupe.strap = [] → t.reg Reg.dieMap = 0x80000000) := by
  obtain ⟨hmoved, hloupe⟩ := s.loupe_setReg_unmoved { s.loupe with windowOpen := false, active := s.strapActive } Reg.dieMap
    (dieMapWord s.loupe.strap)
  refine ⟨_, State.exec_collectionWindowClose haon hopen, hmoved, by rw [hloupe], by rw [hloupe], fun o ho => by rw [State.reg_setReg_other _ _ ho, State.reg_loupe], fun h => ?_, fun h => ?_⟩
  · rw [State.reg_setReg_same, h, dieMapWord_all]
  · rw [State.reg_setReg_same, h, dieMapWord_none]

/-! ## A poll, whichever the event that makes it (18 R552) -/

theorem State.exec_poll (l : List (RailId × RailRead)) {i : Instr} (h : i = .pmbusPoll l ∨ i = .pmbAlert l) :
    exec i s = .next (s.pollRails l) := by
  rcases h with rfl | rfl <;> rfl

theorem State.poll_answered (hdev : s.dev ≠ .cold) {l : List (RailId × RailRead)} {i : Instr} (hi : i = .pmbusPoll l ∨ i = .pmbAlert l)
    (hgood : ∀ x ∈ l, x.2.2.2 = false) (hall : ∀ r, r < 16 → s.railFlag r 0 = true → ∃ x ∈ l, x.1.val = r) :
    ∃ t, exec i s = .next t ∧ Unmoved s t ∧ t.dev = s.dev ∧ RailsRead s t l :=
  ⟨_, State.exec_poll l hi, State.pollRails_answered hdev (allAnswered_of hgood hall)⟩

theorem State.poll_silent (hdev : s.dev ≠ .cold) {i : Instr} (hi : i = .pmbusPoll [] ∨ i = .pmbAlert []) :
    ∃ t, exec i s = .next t ∧ t.mem = s.mem ∧ ∀ r, r < 16 → s.railFlag r 0 = true →
      SMap.get 0 t.power.missed r = SMap.get 0 s.power.missed r + 1 ∧
      (SMap.get 0 s.power.missed r = 2 → bits (t.reg (Reg.rail r)) 8 1 = 1) :=
  ⟨_, State.exec_poll [] hi, State.pollRails_silent hdev⟩

/-! ## The Aperture (18 R559, R560) -/

theorem State.apertureAdmit_spec {i : Fin 8} {b : Nat} {l : List Nat} (hq : SMap.get [] s.aperture i.val = b :: l)
    (hbrown : s.power.brownout = false) (hramps : s.ramps i.val < 4) (hdev : s.dev = .ready) :
    ∃ t, exec (.apertureAdmit i) s = .next t ∧ Unmoved s t ∧ t.block b = { s.block b with queued := false, ramping := true } ∧
      SMap.get [] t.aperture i.val = l ∧ ∀ j, j ≠ b → t.block j = s.block j := by
  have hexec : exec (.apertureAdmit i) s = .next (State.countField (State.setBlock { s with aperture := SMap.put s.aperture i.val l } b
      { s.block b with queued := false, ramping := true }) (Reg.blockAperture i.val) 0 16 1) := by
    show execApertureAdmit i s = _
    unfold execApertureAdmit
    rw [hq]
    exact if_neg (by simp [hbrown, hdev, hramps])
  exact ⟨_, hexec, ⟨rfl, rfl⟩, State.block_setBlock_same _ _ _, SMap.get_put_same _ _ _ _, fun j hj => State.block_setBlock_other _ _ hj⟩

theorem State.exec_rampEnd {b : BlockId} (h : (s.block b).ramping = true) : exec (.rampEnd b) s = .next (s.setBlock b { s.block b with
    state := if (s.block b).state = .off ∧ (s.block b).target ≠ .active then BState.retain else BState.active, ramping := false,
    fillCore := (s.block b).fillCore || (s.block b).state == .off }) :=
  if_neg (by simp [h])

theorem State.exec_blockLowerEnd {b : BlockId} (hramp : (s.block b).ramping = false) (hqueued : (s.block b).queued = false)
    (hlow : (s.block b).target.rank < (s.block b).state.rank) : exec (.blockLowerEnd b) s = .next (s.setBlock b { s.block b with
      state := if (s.block b).state = .active then BState.retain else BState.off }) :=
  if_neg (by simp [hramp, hqueued, hlow])

/-! ## Windows, entropy and the SMBus (17 R545, R548, 15 R460, 21 R634) -/

theorem State.exec_deviceWindowExpiry {i : Fin 5} (hi : i.val ≠ 0) (hcond : i.val ∉ s.loupe.conds)
    (hlate : SMap.get 0 s.loupe.winAt i.val + 1000000000 ≤ s.timebase) :
    exec (.deviceWindowExpiry i) s = .next (s.setField Reg.errDevice (winBit i) 1 0) :=
  if_neg (by
    rw [List.contains_iff_mem]
    rintro (h | h | h)
    · exact hi h
    · exact hcond h
    · exact absurd hlate (by omega))

/-- ENTROPY_FAIL is bit 21 of ERR_DEVICE. -/
theorem State.entropyFail_bit (b : Bool) : bits ((s.setField Reg.errDevice 21 1 (b2n b)).reg Reg.errDevice) 21 1 = b2n b := by
  rw [State.reg_setField_same, bits_setBits_same _ _ _ _ (by decide)]
  cases b <;> rfl

theorem State.entropyHealthFail_spec : ∃ t, exec .entropyHealthFail s = .next t ∧ Unmoved s t ∧ t.loupe.entropyOk = false ∧
    bits (t.reg Reg.errDevice) 21 1 = 1 :=
  ⟨_, rfl, ⟨rfl, rfl⟩, rfl, State.entropyFail_bit true⟩

theorem State.entropyHealthRecovery_spec : ∃ t, exec .entropyHealthRecovery s = .next t ∧ Unmoved s t ∧ t.loupe.entropyOk = true ∧
    bits (t.reg Reg.errDevice) 21 1 = 0 :=
  ⟨_, rfl, ⟨rfl, rfl⟩, rfl, State.entropyFail_bit false⟩

theorem leBytes_one (x : Nat) : leBytes 1 x = [BitVec.ofNat 8 x] := by
  simp only [leBytes, List.cons.injEq, and_true]
  exact BitVec.eq_of_toNat_eq (by simp)

theorem State.alertResponseAddressRead_spec (hdev : s.dev ≠ .cold) (halert : s.loupe.smbAlert = true) :
    ∃ t, exec .alertResponseAddressRead s = .next t ∧ Unmoved s t ∧ t.loupe.smbAlert = false ∧
      t.out = s.out ++ [.smbus [BitVec.ofNat 8 (2 * s.loupe.smbAddr)]] := by
  have hexec : exec .alertResponseAddressRead s =
      .next (State.send { s with loupe := { s.loupe with smbAlert := false } } (.smbus (leBytes 1 (2 * s.loupe.smbAddr)))) :=
    if_neg (by simp [hdev, halert])
  refine ⟨_, hexec, ⟨rfl, rfl⟩, rfl, ?_⟩
  rw [leBytes_one]
  rfl

theorem State.addressResolutionProtocol_spec (hdev : s.dev ≠ .cold) (a : BitVec 7) :
    ∃ t b, exec (.addressResolutionProtocol a) s = .next t ∧ Unmoved s t ∧ t.loupe.smbAddr = a.toNat ∧
      t.out = s.out ++ [.smbus b] ∧ b.length = 16 := by
  refine ⟨_, _, if_neg hdev, ⟨rfl, rfl⟩, rfl, rfl, ?_⟩
  simp only [List.length_append, leBytes_length, beBytes_length]

end

/-- Settles O57, one event's lemma per clause. -/
theorem powerEvents : Obligations.PowerEvents := by
  unfold Obligations.PowerEvents
  intro s w same does
  refine ⟨fun haon hreq htrip => ⟨?on, ?onShutdown, ?first⟩, ?off, ?next, ?last, ?down, ?good, ?refclk, ?strap, ?close, ?warning, ?recovery,
    ?timeout, ?poll, ?avs, ?point, ?entry, ?ramp, ?lower, ?expiry, ?fail, ?healthy, ?alert, ?address⟩
  case on => exact fun hdev => State.exec_pwrReqOn_ready haon hreq htrip hdev
  case onShutdown => exact fun hdev => State.exec_pwrReqOn_shutdown haon hreq htrip hdev
  case first => exact fun r l m hdev hseq hgood hr hm => State.pwrReqOn_first haon hreq htrip hdev hseq hgood hr hm
  case off => exact fun haon hdev => State.pwrReqOff_spec haon hdev
  case next => exact fun i hseq hdev hi => State.railSequenceNext_more hseq hdev hi
  case last => exact fun i hseq hdev hi hreq => State.railSequenceNext_last hseq hdev hi hreq
  case down => exact fun i hseq hdev => State.shutdownRailOff_spec hseq hdev
  case good => exact fun g haon => State.pwrGoodValid_spec haon g
  case refclk => exact fun haon href => State.refclk25mReturn_spec haon href
  case strap => exact fun d code haon hopen hd => State.strapSample_spec haon hopen hd code
  case close => exact fun haon hopen => State.collectionWindowClose_spec haon hopen
  case warning => exact fun r hdev hbrown hwin => State.railWarning_spec hdev hbrown hwin r
  case recovery => exact fun l hbrown hps => State.railRecovery_spec hbrown hps l
  case timeout => exact fun hbrown hlate hps => State.brownoutTimeout_spec hbrown hlate hps
  case poll =>
    intro l hdev i hi
    refine ⟨fun hgood hall => State.poll_answered hdev hi hgood hall, ?_⟩
    rintro rfl
    exact State.poll_silent hdev hi
  case avs => exact fun l hdev => State.avsUpdate_spec hdev l
  case point => exact fun p => rfl
  case entry => exact fun i b l hq hbrown hramps hdev => State.apertureAdmit_spec hq hbrown hramps hdev
  case ramp => exact fun b hramp => State.exec_rampEnd hramp
  case lower => exact fun b hramp hqueued hlow _ => State.exec_blockLowerEnd hramp hqueued hlow
  case expiry => exact fun i hi hcond hlate => State.exec_deviceWindowExpiry hi hcond hlate
  case fail => exact State.entropyHealthFail_spec
  case healthy => exact State.entropyHealthRecovery_spec
  case alert => exact fun hdev halert => State.alertResponseAddressRead_spec hdev halert
  case address => exact fun a hdev => State.addressResolutionProtocol_spec hdev a

end Sys2Proof.Machine

namespace Sys2Proof.Machine

/-! ## The records that start-up reads (15 R485, 16 R489, 18 R551) -/

section
variable {s : State}

/-- A chip that is blank holds no record. -/
theorem State.flashRec_blank (h : s.flash = []) (c o : Nat) : s.flashRec c o = [] := by rw [State.flashRec, h]; rfl

theorem State.licenceOk_nil (s : State) : s.licenceOk [] = false := by simp [State.licenceOk]

theorem State.readLicence_only (s : State) : ∃ q f v, s.readLicence =
    ({ s with loupe := { s.loupe with licSeq := q, features := f } } : State).setReg Reg.keyLicence v := ⟨_, _, _, rfl⟩

theorem State.readLicence_blank (h : s.flash = []) : s.readLicence.loupe.features = 0 := by
  have hnone : ([0, 1].flatMap (fun c => (List.range 256).map (fun i => s.flashRec c (licenceOff i)))).filter s.licenceOk = [] := by
    rw [List.filter_eq_nil_iff]
    intro b hb
    obtain ⟨c, -, hbc⟩ := List.mem_flatMap.1 hb
    obtain ⟨i, -, rfl⟩ := List.mem_map.1 hbc
    rw [State.flashRec_blank h, State.licenceOk_nil]
    decide
  have hfeat : s.readLicence.loupe.features =
      ((([0, 1].flatMap (fun c => (List.range 256).map (fun i => s.flashRec c (licenceOff i)))).filter s.licenceOk).foldl
        (fun (a : Nat × Nat) b => if a.1 < hField b 16 4 then (hField b 16 4, hField b 20 1) else a) (0, 0)).2 := rfl
  rw [hfeat, hnone]
  rfl

theorem State.readBoard_only (s : State) : ∃ b k d e v, s.readBoard =
    ({ s with power := { s.power with board := b, flowK := k, dutyMin := d, dutyMax := e } } : State).setDuty v := by
  unfold State.readBoard
  split
  · exact ⟨_, _, _, _, _, rfl⟩
  · exact ⟨_, _, _, _, _, rfl⟩

theorem State.readBoard_blank (h : s.flash = []) : s.readBoard.power.board = none := by
  have hnone : ([0, 1].map (fun c => s.flashRec c boardOff)).find? boardOk = none := by
    simp only [State.flashRec_blank h]
    decide
  unfold State.readBoard
  rw [hnone]
  rfl

/-- A quad's role is taken from the map (16 R491). -/
def State.laneRole (s : State) (x : Nat × Nat) : State :=
  State.setPort ((s.setReg (Reg.laneQuad x.2) (BitVec.ofNat 32 x.1)).setReg (Reg.laneStage x.2) (BitVec.ofNat 32 x.1)) x.2
    { s.port x.2 with role := BitVec.ofNat 8 x.1 }

/-- LANE_STATUS as the choice gives it (16 R491). -/
def laneWord (m : Nat × Nat × List Nat × Bool) : Word := setBits (setBits (setBits 0 30 2 m.1) 29 1 (b2n m.2.2.2)) 27 2 m.2.1

theorem State.readLaneMap_eq (s : State) : s.readLaneMap = s.laneChoice.2.2.1.zipIdx.foldl State.laneRole
    ((s.setReg Reg.laneStatus (laneWord s.laneChoice)).setReg Reg.laneMapCtrl (setBits 0 8 2 s.laneChoice.2.1)) := rfl

theorem State.laneRole_reg (s : State) (x : Nat × Nat) {o : Nat} (h : o < Reg.laneQuad 0) : (s.laneRole x).reg o = s.reg o := by
  unfold State.laneRole
  rw [State.setPort_reg, State.reg_setReg_other _ _ (by simp only [Reg.laneQuad, Reg.laneStage] at *; omega),
    State.reg_setReg_other _ _ (by simp only [Reg.laneQuad] at *; omega)]

theorem State.laneRoles_only (s : State) (l : List (Nat × Nat)) : ∃ (rs : SMap Word) (ps : SMap Port),
    l.foldl State.laneRole s = { s with regs := rs, ports := ps } := by
  refine List.foldlRecOn (motive := fun t : State => ∃ (rs : SMap Word) (ps : SMap Port), t = { s with regs := rs, ports := ps }) l _
    ⟨s.regs, s.ports, rfl⟩ ?_
  rintro _ ⟨rs, ps, rfl⟩ x -
  exact ⟨_, _, rfl⟩

theorem State.setReg_only (s : State) (o : Nat) (w : Word) : ∃ rs : SMap Word, s.setReg o w = { s with regs := rs } := ⟨_, rfl⟩

theorem State.readLaneMap_only (s : State) : ∃ (rs : SMap Word) (ps : SMap Port), s.readLaneMap = { s with regs := rs, ports := ps } := by
  rw [State.readLaneMap_eq]
  obtain ⟨rs₁, h₁⟩ := s.setReg_only Reg.laneStatus (laneWord s.laneChoice)
  obtain ⟨rs₂, h₂⟩ := State.setReg_only { s with regs := rs₁ } Reg.laneMapCtrl (setBits 0 8 2 s.laneChoice.2.1)
  obtain ⟨rs, ps, h⟩ := State.laneRoles_only { s with regs := rs₂ } s.laneChoice.2.2.1.zipIdx
  rw [h₁, h₂, h]
  exact ⟨rs, ps, rfl⟩

theorem State.readLaneMap_reg (s : State) {o : Nat} (h : o < Reg.laneStatus) : s.readLaneMap.reg o = s.reg o := by
  have hquad : o < Reg.laneQuad 0 := by simp only [Reg.laneStatus, Reg.laneQuad] at *; omega
  rw [State.readLaneMap_eq]
  refine (foldl_frame (fun t : State => t.reg o) (fun t x _ => t.laneRole_reg x hquad) _).trans ?_
  rw [State.reg_setReg_other _ _ (by simp only [Reg.laneStatus, Reg.laneMapCtrl] at *; omega), State.reg_setReg_other _ _ (Nat.ne_of_lt h)]

theorem State.readLaneMap_source (s : State) : bits (s.readLaneMap.reg Reg.laneStatus) 30 2 = s.laneChoice.1 % 4 := by
  have hreg : s.readLaneMap.reg Reg.laneStatus = laneWord s.laneChoice := by
    rw [State.readLaneMap_eq]
    refine (foldl_frame (fun t : State => t.reg Reg.laneStatus) (fun t x _ => t.laneRole_reg x (by decide)) _).trans ?_
    rw [State.reg_setReg_other _ _ (by decide), State.reg_setReg_same]
  rw [hreg, laneWord, bits_setBits_other _ _ _ _ _ _ (by decide) (by decide), bits_setBits_other _ _ _ _ _ _ (by decide) (by decide),
    bits_setBits_same _ _ _ _ (by decide)]
  rfl

/-- Without a valid record the default map is in force. -/
theorem State.laneChoice_blank (h : s.flash = []) : s.laneChoice.1 = 2 := by
  have hnone : laneMapOk [] = false := by decide
  simp only [State.laneChoice, State.flashRec_blank h, hnone]
  rfl

theorem State.amendWalk_blank (h : s.flash = []) (c k o : Nat) : s.amendWalk c k o = ([], o) := by
  cases k with
  | zero => rfl
  | succ k => rw [State.amendWalk, State.flashRec_blank h]; rfl

theorem State.readAmends_blank (h : s.flash = []) : s.readAmends = some [] := by
  simp [State.readAmends, State.amendsStored, State.amendWalk_blank h]

end

/-- What the records' reading leaves alone. -/
structure RecordFrame (s t : State) : Prop where
  mem : t.mem = s.mem
  cores : t.cores = s.cores
  parts : t.parts = s.parts
  dev : t.dev = s.dev
  flash : t.flash = s.flash
  pwrReq : t.power.pwrReq = s.power.pwrReq
  aonUp : t.power.aonUp = s.power.aonUp
  refclk : t.power.refclk = s.power.refclk
  active : t.loupe.active = s.loupe.active
  dieMap : t.reg Reg.dieMap = s.reg Reg.dieMap

theorem RecordFrame.trans {s t u : State} (h : RecordFrame s t) (k : RecordFrame t u) : RecordFrame s u :=
  ⟨k.mem.trans h.mem, k.cores.trans h.cores, k.parts.trans h.parts, k.dev.trans h.dev, k.flash.trans h.flash, k.pwrReq.trans h.pwrReq,
    k.aonUp.trans h.aonUp, k.refclk.trans h.refclk, k.active.trans h.active, k.dieMap.trans h.dieMap⟩

section
variable (s : State)

theorem State.readLicence_frame : RecordFrame s s.readLicence := by
  obtain ⟨q, f, v, h⟩ := s.readLicence_only
  rw [h]
  exact ⟨by simp, by simp, by simp, by simp, by simp, by simp, by simp, by simp, by simp, State.reg_setReg_other _ _ (by decide)⟩

theorem State.readBoard_frame : RecordFrame s s.readBoard := by
  obtain ⟨b, k, d, e, v, h⟩ := s.readBoard_only
  rw [h]
  exact ⟨rfl, rfl, rfl, rfl, rfl, rfl, rfl, rfl, rfl, State.reg_setField_other _ _ _ _ (by decide)⟩

theorem State.readLaneMap_frame : RecordFrame s s.readLaneMap := by
  have hreg := s.readLaneMap_reg (o := Reg.dieMap) (by decide)
  obtain ⟨rs, ps, h⟩ := s.readLaneMap_only
  rw [h] at hreg ⊢
  exact ⟨rfl, rfl, rfl, rfl, rfl, rfl, rfl, rfl, rfl, hreg⟩

theorem State.showRails_frame : RecordFrame s s.showRails := by
  have hreg := s.showRails_reg (o := Reg.dieMap) (fun r _ => by simp only [Reg.dieMap, Reg.rail]; omega) (by decide) (by decide)
  obtain ⟨rs, h⟩ := s.showRails_only
  rw [h] at hreg ⊢
  exact ⟨rfl, rfl, rfl, rfl, rfl, rfl, rfl, rfl, rfl, hreg⟩

/-- The three records are read in their order. -/
def State.readRecords : State := s.readLicence.readBoard.readLaneMap

theorem State.readRecords_frame : RecordFrame s s.readRecords :=
  (s.readLicence_frame.trans s.readLicence.readBoard_frame).trans s.readLicence.readBoard.readLaneMap_frame

end

theorem State.readRecords_blank {s : State} (h : s.flash = []) : s.readRecords.loupe.features = 0 ∧ s.readRecords.power.board = none ∧
    bits (s.readRecords.reg Reg.laneStatus) 30 2 = 2 := by
  have hlicence : s.readLicence.flash = [] := s.readLicence_frame.flash.trans h
  have hboard : s.readLicence.readBoard.flash = [] := s.readLicence.readBoard_frame.flash.trans hlicence
  have hnone := State.readBoard_blank hlicence
  have hfeat := State.readLicence_blank h
  obtain ⟨b, k, d, e, v, hb⟩ := s.readLicence.readBoard_only
  obtain ⟨rs, ps, hl⟩ := s.readLicence.readBoard.readLaneMap_only
  refine ⟨?_, ?_, ?_⟩
  · rw [State.readRecords, hl, hb]
    exact hfeat
  · rw [State.readRecords, hl]
    exact hnone
  · rw [State.readRecords, State.readLaneMap_source, State.laneChoice_blank hboard]

/-! ## Start-up (21 R628, 18 R564) -/

/-- The always-on domains come up. -/
def State.alwaysOn (s : State) : State :=
  { s with power := { s.power with aonUp := true, refclk := true }, loupe := { s.loupe with active := s.strapActive } }

theorem State.exec_alwaysOnResetRelease {s : State} (h : s.power.aonUp = false) :
    exec .alwaysOnResetRelease s = .next s.alwaysOn.readRecords.showRails :=
  if_neg (by simp [h])

theorem State.alwaysOnResetRelease_spec {s : State} (h : s.power.aonUp = false) :
    ∃ t, exec .alwaysOnResetRelease s = .next t ∧ (t.cores = s.cores ∧ t.parts = s.parts) ∧ t.mem = s.mem ∧ t.power.aonUp = true ∧
      t.power.refclk = true ∧ t.loupe.active = s.strapActive ∧ t.dev = s.dev ∧
      (s.flash = [] → t.loupe.features = 0 ∧ t.power.board = none ∧ bits (t.reg Reg.laneStatus) 30 2 = 2) := by
  have hframe := s.alwaysOn.readRecords_frame.trans s.alwaysOn.readRecords.showRails_frame
  refine ⟨_, State.exec_alwaysOnResetRelease h, ⟨hframe.cores, hframe.parts⟩, hframe.mem, hframe.aonUp, hframe.refclk, hframe.active,
    hframe.dev, fun hflash => ?_⟩
  obtain ⟨hfeat, hboard, hlane⟩ := State.readRecords_blank (s := s.alwaysOn) hflash
  have hreg := s.alwaysOn.readRecords.showRails_reg (o := Reg.laneStatus) (fun r hr => by simp only [Reg.laneStatus, Reg.rail]; omega)
    (by decide) (by decide)
  rw [hreg]
  obtain ⟨rs, hrails⟩ := s.alwaysOn.readRecords.showRails_only
  rw [hrails]
  exact ⟨hfeat, hboard, hlane⟩

end Sys2Proof.Machine

namespace Sys2Proof.Machine

/-! ## A stage and its end (19 R584) -/

/-- While PWR_REQ is held, nothing happens at a stage's end. -/
theorem State.stageEnd_on {s : State} (h : s.power.pwrReq = true) : s.stageEnd = s := if_pos h

theorem State.toStep_stageEnd {s : State} (h : s.power.pwrReq = true) (n : Nat) : (s.toStep n).stageEnd = s.toStep n := if_pos h

/-- A stage that fails ends in HOLD for its cause (17 R547). -/
def Held (s t : State) (cause : Nat) : Prop := t.dev = .hold ∧ bits (t.reg Reg.hostState) 20 8 = cause ∧ t.mem = s.mem

theorem State.holdEnd_held {s u : State} {cause : Nat} (hreq : u.power.pwrReq = true) (hdev : ¬ (u.dev = .hold ∨ u.dev = .shutdown))
    (hmem : u.mem = s.mem) (hc : cause < 256) : Held s (u.enterHold cause).stageEnd cause := by
  obtain ⟨hhold, hcause, hmem', hpower⟩ := State.enterHold_inHold hdev hc
  rw [State.stageEnd_on (by rw [hpower, hreq])]
  exact ⟨hhold, hcause, hmem'.trans hmem⟩

/-! ## Step 1 (19 R583, R584, 01 R25) -/

/-- The device memory key is made anew (08 R232). -/
def State.withKey (s : State) : State :=
  let mk := s.free 256
  { mk.2 with loupe := { mk.2.loupe with memKey := mk.1 } }

/-- Whether function f's link is up (01 R24). -/
def State.trainsUp (s : State) (f : Nat) (l : Bool) : Bool := l && s.linkMay && s.funcExists f && SMap.get false s.loupe.perst f

/-- The links are tried and the amendments read. -/
def State.withLinks (s : State) (l0 l1 : Bool) : State :=
  { s with loupe := { s.loupe with
    linkUp := SMap.put (SMap.put s.loupe.linkUp 0 (s.trainsUp 0 l0)) 1 (s.trainsUp 1 l1), amends := s.readAmends.getD [] } }

/-- The part once step 1 has read its records, made its key and tried its links. -/
def State.entering (s : State) (l0 l1 : Bool) : State := s.readRecords.withKey.withLinks l0 l1

theorem State.withKey_frame (s : State) : RecordFrame s s.withKey := ⟨rfl, rfl, rfl, rfl, rfl, rfl, rfl, rfl, rfl, rfl⟩

theorem State.withLinks_frame (s : State) (l0 l1 : Bool) : RecordFrame s (s.withLinks l0 l1) :=
  ⟨rfl, rfl, rfl, rfl, rfl, rfl, rfl, rfl, rfl, rfl⟩

theorem State.entering_frame (s : State) (l0 l1 : Bool) : RecordFrame s (s.entering l0 l1) :=
  (s.readRecords_frame.trans s.readRecords.withKey_frame).trans (s.readRecords.withKey.withLinks_frame l0 l1)

/-- Step 1 that passes ends in MGMT_READY. -/
theorem RecordFrame.mgmtReady {s u : State} (h : RecordFrame s u) (hreq : s.power.pwrReq = true) :
    ∃ t, (State.toStep { u with dev := .mgmtReady } 2).stageEnd = t ∧ (t.cores = s.cores ∧ t.parts = s.parts) ∧ t.mem = s.mem ∧
      t.dev = .mgmtReady ∧ t.loupe.bringStep = 2 :=
  ⟨_, State.toStep_stageEnd (s := { u with dev := .mgmtReady }) (h.pwrReq.trans hreq) 2, ⟨h.cores, h.parts⟩, h.mem, rfl, rfl⟩

/-- Step 1 that fails holds a part that was COLD. -/
theorem State.entering_held {s : State} (hdev : s.dev = .cold) (hreq : s.power.pwrReq = true) (l0 l1 : Bool) {cause : Nat}
    (hc : cause < 256) : Held s ((s.entering l0 l1).enterHold cause).stageEnd cause := by
  have hframe := s.entering_frame l0 l1
  exact State.holdEnd_held (hframe.pwrReq.trans hreq) (by rw [hframe.dev, hdev]; decide) hframe.mem hc

section
variable {s : State} (hdev : s.dev = .cold) (haon : s.power.aonUp = true) (hgood : s.allGood = true) (href : s.power.refclk = true)
  (hwin : s.loupe.windowOpen = false) (hperst : SMap.get false s.loupe.perst 0 = true)
include hdev haon hgood href hwin hperst

theorem State.exec_mgmtReadyEntry (k l0 l1 : Bool) : exec (.mgmtReadyEntry k l0 l1) s =
    (if bits ((s.entering l0 l1).reg Reg.dieMap) 30 1 = 0 then .next ((s.entering l0 l1).enterHold 1).stageEnd
      else if s.readRecords.withKey.readAmends.isNone ∨ !k then .next ((s.entering l0 l1).enterHold 4).stageEnd
      else .next (State.toStep { s.entering l0 l1 with dev := .mgmtReady } 2).stageEnd) :=
  if_neg (by simp [hdev, haon, hgood, href, hwin, hperst])

variable (hreq : s.power.pwrReq = true)
include hreq

theorem State.mgmtReadyEntry_ready (l0 l1 : Bool) (hmap : bits (s.reg Reg.dieMap) 30 1 = 1) (hflash : s.flash = []) :
    ∃ t, exec (.mgmtReadyEntry true l0 l1) s = .next t ∧ (t.cores = s.cores ∧ t.parts = s.parts) ∧ t.mem = s.mem ∧ t.dev = .mgmtReady ∧
      t.loupe.bringStep = 2 := by
  have hframe := s.entering_frame l0 l1
  have hamends : s.readRecords.withKey.readAmends = some [] := State.readAmends_blank
    ((s.readRecords_frame.trans s.readRecords.withKey_frame).flash.trans hflash)
  rw [State.exec_mgmtReadyEntry hdev haon hgood href hwin hperst, hframe.dieMap, hmap, hamends, if_neg (by decide), if_neg (by decide)]
  obtain ⟨t, ht, hready⟩ := hframe.mgmtReady hreq
  exact ⟨t, congrArg Host.Outcome.next ht, hready⟩

theorem State.mgmtReadyEntry_stranger (k l0 l1 : Bool) (hmap : bits (s.reg Reg.dieMap) 30 1 = 0) :
    ∃ t, exec (.mgmtReadyEntry k l0 l1) s = .next t ∧ Held s t 1 := by
  rw [State.exec_mgmtReadyEntry hdev haon hgood href hwin hperst, (s.entering_frame l0 l1).dieMap, hmap, if_pos rfl]
  exact ⟨_, rfl, State.entering_held hdev hreq l0 l1 (by decide)⟩

theorem State.mgmtReadyEntry_badKey (l0 l1 : Bool) (hmap : bits (s.reg Reg.dieMap) 30 1 = 1) :
    ∃ t, exec (.mgmtReadyEntry false l0 l1) s = .next t ∧ Held s t 4 := by
  rw [State.exec_mgmtReadyEntry hdev haon hgood href hwin hperst, (s.entering_frame l0 l1).dieMap, hmap, if_neg (by decide),
    if_pos (by simp)]
  exact ⟨_, rfl, State.entering_held hdev hreq l0 l1 (by decide)⟩

end

/-! ## Step 2: clocks and mesh (19 R584, R587) -/

/-- Memory, supplies, the device's state and the check of the PCIe reference stay. -/
structure ClockFrame (s t : State) : Prop where
  mem : t.mem = s.mem
  power : t.power = s.power
  dev : t.dev = s.dev
  pcieRef : bits (t.reg Reg.clkStatus) 30 1 = bits (s.reg Reg.clkStatus) 30 1

theorem ClockFrame.refl (s : State) : ClockFrame s s := ⟨rfl, rfl, rfl, rfl⟩

theorem ClockFrame.trans {s t u : State} (h : ClockFrame s t) (k : ClockFrame t u) : ClockFrame s u :=
  ⟨k.mem.trans h.mem, k.power.trans h.power, k.dev.trans h.dev, k.pcieRef.trans h.pcieRef⟩

theorem ClockFrame.foldl {s : State} {ι : Type} {f : State → ι → State} (h : ∀ t a, ClockFrame t (f t a)) (l : List ι) :
    ClockFrame s (l.foldl f s) :=
  List.foldlRecOn (motive := fun t => ClockFrame s t) l f (.refl s) fun t ht a _ => ht.trans (h t a)

section
variable (s : State)

/-- No field below bit 30 of any register is the check. -/
theorem State.setField_clockFrame (o : Nat) {lo len : Nat} (v : Nat) (h : lo + len ≤ 30) : ClockFrame s (s.setField o lo len v) := by
  refine ⟨by simp, by simp, by simp, ?_⟩
  by_cases e : Reg.clkStatus = o
  · rw [← e, State.reg_setField_same, bits_setBits_other _ _ _ _ _ _ (by decide) (Or.inr h)]
  · rw [State.reg_setField_other _ _ _ _ e]

theorem State.setSlice_clockFrame (n : Nat) (x : Slice) : ClockFrame s (s.setSlice n x) := ⟨rfl, rfl, rfl, rfl⟩

theorem State.sliceTo_clockFrame (n m : Nat) (old : State) : ClockFrame s (s.sliceTo n m old) := by
  unfold State.sliceTo
  extract_lets x layer left y s1
  have hlayer : ClockFrame s1 (s1.setReg (Reg.sliceLayer n) layer) :=
    ⟨by simp, by simp, by simp, by rw [State.reg_setReg_other _ _ (by simp only [Reg.clkStatus, Reg.sliceLayer]; omega)]⟩
  exact ((s.setSlice_clockFrame n _).trans hlayer).trans (State.setField_clockFrame _ _ _ (by decide))

theorem State.remap_clockFrame (t : Nat) {q : Nat} (hq : q < 66) : ClockFrame s (s.remap t q) := by
  unfold State.remap
  extract_lets h o s1 s2
  have hh : h < 2 := Nat.div_lt_of_lt_mul hq
  have h1 : ClockFrame s s1 := (s.setField_clockFrame _ _ (by omega)).trans (State.setField_clockFrame _ _ _ (by omega))
  split
  · exact h1
  · have h2 : ClockFrame s1 s2 := .foldl (fun u j => .foldl (fun u y => u.sliceTo_clockFrame _ _ _) _) _
    exact (h1.trans h2).trans (.foldl (fun u y => u.setSlice_clockFrame _ _) _)

theorem State.retireBlock_clockFrame (b : Nat) : ClockFrame s (s.retireBlock b) := by
  unfold State.retireBlock
  split
  · exact .refl s
  · extract_lets q s1 x s2
    have h2 : ClockFrame s s2 := ⟨rfl, rfl, rfl, rfl⟩
    exact h2.trans (s2.setField_clockFrame _ _ (by decide))

theorem State.fusedRepair_clockFrame (half q : Nat) : ClockFrame s (s.fusedRepair half q) :=
  (s.setField_clockFrame _ _ (by omega)).trans (State.setField_clockFrame _ _ _ (by omega))

theorem State.applyRepairs_clockFrame : ClockFrame s s.applyRepairs := by
  unfold State.applyRepairs
  extract_lets s1
  have h1 : ClockFrame s s1 := .foldl (fun u x => u.fusedRepair_clockFrame _ _) _
  split
  · exact h1
  · refine h1.trans (.foldl (fun u e => ?_) _)
    extract_lets a b
    split
    · split
      · next h => exact u.remap_clockFrame a h.2.1
      · exact .refl u
    · split
      · exact u.retireBlock_clockFrame a
      · exact .refl u

/-- A block that is in service is raised. -/
def State.raiseBlock (b : Nat) : State :=
  if (s.block b).state = .retired then s else
  (s.setBlock b { s.block b with state := .active, target := .active, queued := false, ramping := false }).countField
    (Reg.blockAperture (b / 32)) 0 16 1

theorem State.raiseBlock_clockFrame (b : Nat) : ClockFrame s (s.raiseBlock b) := by
  unfold State.raiseBlock
  split
  · exact .refl s
  · exact .trans (t := s.setBlock b _) ⟨rfl, rfl, rfl, rfl⟩ (State.setField_clockFrame _ _ _ (by decide))

/-- The block is raised, or out of service. -/
def State.Raised (b : Nat) : Prop := (s.block b).state = .active ∨ (s.block b).state = .retired

theorem State.raiseBlock_raised (b : Nat) : (s.raiseBlock b).Raised b := by
  unfold State.raiseBlock
  split
  · next h => exact Or.inr h
  · exact Or.inl (congrArg Block.state (s.block_setBlock_same b _))

theorem State.raiseBlock_other {b c : Nat} (h : c ≠ b) : (s.raiseBlock b).block c = s.block c := by
  unfold State.raiseBlock
  split
  · rfl
  · exact s.block_setBlock_other _ h

theorem State.raiseBlocks_raised {b : Nat} (hb : b < 256) : ((List.range 256).foldl State.raiseBlock s).Raised b := by
  refine foldl_reaches (Pre := fun _ => True) (Done := fun t : State => t.Raised b) (List.mem_range.2 hb) (fun _ _ _ _ _ => trivial)
    (fun t _ => t.raiseBlock_raised b) (fun t ht c _ hc => ?_) trivial
  unfold State.Raised
  rw [State.raiseBlock_other t (hc List.nodup_range).symm]
  exact ht

/-- The part once step 2 has checked the PCIe reference. -/
def State.refChecked (r : Bool) : State := s.setField Reg.clkStatus 30 1 (b2n r)

theorem State.refChecked_pcieRef (r : Bool) : bits ((s.refChecked r).reg Reg.clkStatus) 30 1 = b2n r := by
  rw [State.refChecked, State.reg_setField_same, bits_setBits_same _ _ _ _ (by decide)]
  cases r <;> rfl

end

section
variable {s : State} {n : Nat}

theorem State.atStep_iff : s.atStep n = true ↔ s.dev = .mgmtReady ∧ s.loupe.bringStep = n ∧ s.power.refclk = true := by
  simp [State.atStep, and_assoc]

/-- At a step of bring-up the part is neither held nor shut down. -/
theorem State.atStep_live (h : s.atStep n = true) : ¬ (s.dev = .hold ∨ s.dev = .shutdown) := by
  rw [(State.atStep_iff.1 h).1]
  decide

variable (hreq : s.power.pwrReq = true)
include hreq

theorem State.clocksAndMeshStage_spec (hstep : s.atStep 2 = true) (r : Bool) : ∃ t, exec (.clocksAndMeshStage r true) s = .next t ∧
    (t.loupe.bringStep = 3 ∧ t.dev = s.dev) ∧ t.mem = s.mem ∧ bits (t.reg Reg.clkStatus) 30 1 = b2n r ∧
    ∀ b : BlockId, (t.block b).state = .active ∨ (t.block b).state = .retired := by
  have hexec : exec (.clocksAndMeshStage r true) s =
      .next (State.toStep ((List.range 256).foldl State.raiseBlock (s.refChecked r).applyRepairs) 3).stageEnd :=
    (if_neg (by simp [hstep])).trans (if_neg (by decide))
  have hframe : ClockFrame (s.refChecked r) ((List.range 256).foldl State.raiseBlock (s.refChecked r).applyRepairs) :=
    (s.refChecked r).applyRepairs_clockFrame.trans (.foldl State.raiseBlock_clockFrame _)
  have hraised : ∀ b : BlockId, ((List.range 256).foldl State.raiseBlock (s.refChecked r).applyRepairs).Raised b :=
    fun b => State.raiseBlocks_raised _ b.isLt
  refine ⟨_, hexec, ?_⟩
  generalize (List.range 256).foldl State.raiseBlock (s.refChecked r).applyRepairs = u at hframe hraised
  rw [State.toStep_stageEnd ((congrArg Power.pwrReq hframe.power).trans hreq)]
  exact ⟨⟨rfl, hframe.dev⟩, hframe.mem, hframe.pcieRef.trans (s.refChecked_pcieRef r), hraised⟩

theorem State.clocksAndMeshStage_held (hstep : s.atStep 2 = true) (r : Bool) :
    ∃ t, exec (.clocksAndMeshStage r false) s = .next t ∧ Held s t 4 := by
  have hexec : exec (.clocksAndMeshStage r false) s = .next ((s.refChecked r).enterHold 4).stageEnd :=
    (if_neg (by simp [hstep])).trans (if_pos rfl)
  exact ⟨_, hexec, State.holdEnd_held hreq (State.atStep_live hstep) rfl (by decide)⟩

end

end Sys2Proof.Machine

namespace Sys2Proof.Machine

/-! ## Arrays of bits in registers -/

section
variable (s : State) (R : Nat → Nat) {c d : Nat}

/-- Bit c of an array of registers is set. -/
theorem State.setBit_same : bits ((s.setField (R (c / 32)) (c % 32) 1 1).reg (R (c / 32))) (c % 32) 1 = 1 := by
  rw [State.reg_setField_same, bits_setBits_same _ _ _ _ (by omega)]
  rfl

theorem State.setBit_other (hR : Function.Injective R) (h : d ≠ c) :
    bits ((s.setField (R (c / 32)) (c % 32) 1 1).reg (R (d / 32))) (d % 32) 1 = bits (s.reg (R (d / 32))) (d % 32) 1 := by
  by_cases e : d / 32 = c / 32
  · rw [e, State.reg_setField_same, bits_setBits_other _ _ _ _ _ _ (by omega) (by omega)]
  · rw [State.reg_setField_other _ _ _ _ (fun k => e (hR k))]

/-- A bit that is set stays so when any is set. -/
theorem State.setBit_kept (hR : Function.Injective R) (h : bits (s.reg (R (d / 32))) (d % 32) 1 = 1) :
    bits ((s.setField (R (c / 32)) (c % 32) 1 1).reg (R (d / 32))) (d % 32) 1 = 1 := by
  by_cases e : d = c
  · rw [e]; exact s.setBit_same R
  · rw [s.setBit_other R hR e, h]

end

theorem Reg.chanFailed_injective : Function.Injective Reg.chanFailed := fun a b h => by simp only [Reg.chanFailed] at h; omega
theorem Reg.chanReleased_injective : Function.Injective Reg.chanReleased := fun a b h => by simp only [Reg.chanReleased] at h; omega
theorem Reg.released_injective : Function.Injective Reg.released := fun a b h => by simp only [Reg.released] at h; omega

/-- Only registers differ. -/
def RegsOnly (s t : State) : Prop := ∃ rs : SMap Word, t = { s with regs := rs }

theorem RegsOnly.refl (s : State) : RegsOnly s s := ⟨s.regs, rfl⟩

theorem RegsOnly.trans {s t u : State} : RegsOnly s t → RegsOnly t u → RegsOnly s u := by
  rintro ⟨_, rfl⟩ ⟨rs, rfl⟩
  exact ⟨rs, rfl⟩

theorem RegsOnly.foldl {s : State} {ι : Type} {f : State → ι → State} (h : ∀ t a, RegsOnly t (f t a)) (l : List ι) :
    RegsOnly s (l.foldl f s) :=
  List.foldlRecOn (motive := fun t => RegsOnly s t) l f (.refl s) fun t ht a _ => ht.trans (h t a)

theorem State.setField_regsOnly (s : State) (o lo len v : Nat) : RegsOnly s (s.setField o lo len v) := ⟨_, rfl⟩

/-! ## Steps 3 to 6: channels (19 R589, R591) -/

section
variable {s : State}

theorem State.failChans_regsOnly (s : State) (cs : List Nat) : RegsOnly s (cs.foldl State.failChan s) :=
  .foldl (fun t _ => t.setField_regsOnly _ _ _ _) cs

theorem State.failChans_failed (s : State) {cs : List Nat} {c : Nat} (hc : c ∈ cs) : (cs.foldl State.failChan s).chanFailed c = true :=
  beq_iff_eq.2 (foldl_reaches (Pre := fun _ => True) (Done := fun t : State => bits (t.reg (Reg.chanFailed (c / 32))) (c % 32) 1 = 1) hc
    (fun _ _ _ _ _ => trivial) (fun t _ => t.setBit_same Reg.chanFailed)
    (fun t ht _ _ _ => t.setBit_kept Reg.chanFailed Reg.chanFailed_injective ht) trivial)

/-- A channel's HBM_STATUS shows the spare rows of a channel that training has not listed (08 R231, log 42). -/
def State.fullSpares (s : State) (c : Nat) : State := s.setField (Reg.hbmStatus c) 0 5 16

theorem State.fullSpares_regsOnly (s : State) (l : List Nat) : RegsOnly s (l.foldl State.fullSpares s) :=
  .foldl (fun t _ => t.setField_regsOnly _ _ _ _) l

theorem State.fullSpares_reg (s : State) (l : List Nat) {o : Nat} (h : o < Reg.hbmStatus 0) : (l.foldl State.fullSpares s).reg o = s.reg o :=
  foldl_frame (fun t : State => t.reg o)
    (fun t c _ => t.reg_setField_other _ _ _ (by simp only [Reg.hbmStatus] at *; omega)) s

theorem State.fullSpares_shown (s : State) {c : Nat} (hc : c < 512) :
    bits (((List.range 512).foldl State.fullSpares s).reg (Reg.hbmStatus c)) 0 5 = 16 := by
  refine foldl_reaches (Pre := fun _ => True) (Done := fun t : State => bits (t.reg (Reg.hbmStatus c)) 0 5 = 16) (List.mem_range.2 hc)
    (fun _ _ _ _ _ => trivial) (fun t _ => ?_) (fun t ht d _ hd => ?_) trivial
  · rw [State.fullSpares, State.reg_setField_same, bits_setBits_same _ _ _ _ (by decide)]
    rfl
  · have hcd := hd List.nodup_range
    rw [State.fullSpares, State.reg_setField_other _ _ _ _ (by simp only [Reg.hbmStatus]; omega), ht]

/-- BRINGUP and the ports that failed, as training leaves them. -/
def State.trainShown (s : State) (rt : Bool) (ps : List Nat) : State :=
  let t := (s.setField Reg.bringup 23 1 (b2n s.training.isSome)).setField Reg.bringup 22 1 (b2n (rt || !s.training.isSome))
  { t with loupe := { t.loupe with failedCores := ps } }

/-- The part as training leaves it. -/
def State.trained (s : State) (rt : Bool) (ps cs : List Nat) : State :=
  (List.range 512).foldl State.fullSpares (cs.foldl State.failChan (s.trainShown rt ps))

theorem State.exec_memoryTraining (h : s.atStep 3 = true) (rt : Bool) (ps : List (Fin 16896)) (cs : List ChanId) :
    exec (.memoryTraining rt ps cs []) s = .next ((s.trained rt (ps.map Fin.val) (cs.map Fin.val)).toStep 4).stageEnd :=
  if_neg (by simp [h])

theorem State.trained_only (s : State) (rt : Bool) (ps cs : List Nat) : ∃ rs : SMap Word,
    s.trained rt ps cs = { s with regs := rs, loupe := { s.loupe with failedCores := ps } } := by
  obtain ⟨rs, h⟩ := (State.failChans_regsOnly (s.trainShown rt ps) cs).trans (State.fullSpares_regsOnly _ (List.range 512))
  exact ⟨rs, h⟩

theorem State.trained_failed (s : State) (rt : Bool) (ps : List Nat) {cs : List Nat} {c : Nat} (hc : c ∈ cs) (hlt : c < 512) :
    (s.trained rt ps cs).chanFailed c = true := by
  rw [State.chanFailed, State.trained, State.fullSpares_reg _ _ (by simp only [Reg.chanFailed, Reg.hbmStatus]; omega)]
  exact State.failChans_failed _ hc

end

/-- The part once every memory has been filled with zeros (19 R590). -/
def State.zeroFilled (s : State) : State :=
  let blank (x : Nat × Clove) : Nat × Clove := (x.1, { x.2 with localMem := Mem.empty })
  { s with mem := Mem.empty, cache := ⟨[], Mem.empty⟩, cloves := s.cloves.map blank }

section
variable {s : State} (hreq : s.power.pwrReq = true)
include hreq

theorem State.memoryTraining_spec (h : s.atStep 3 = true) (rt : Bool) (ps : List (Fin 16896)) (cs : List ChanId) :
    ∃ t, exec (.memoryTraining rt ps cs []) s = .next t ∧ (t.cores = s.cores ∧ t.parts = s.parts) ∧
      (t.loupe.bringStep = 4 ∧ t.dev = s.dev) ∧ t.mem = s.mem ∧ t.loupe.failedCores = ps.map Fin.val ∧
      (∀ c ∈ cs, t.chanFailed c = true) ∧ ∀ c : ChanId, bits (t.reg (Reg.hbmStatus c)) 0 5 = 16 := by
  refine ⟨_, State.exec_memoryTraining h rt ps cs, ?_⟩
  have hfailed : ∀ c ∈ cs, (s.trained rt (ps.map Fin.val) (cs.map Fin.val)).chanFailed c = true := fun c hc =>
    s.trained_failed rt _ (List.mem_map_of_mem hc) c.isLt
  have hspares : ∀ c : ChanId, bits ((s.trained rt (ps.map Fin.val) (cs.map Fin.val)).reg (Reg.hbmStatus c)) 0 5 = 16 := fun c =>
    State.fullSpares_shown _ c.isLt
  obtain ⟨rs, honly⟩ := s.trained_only rt (ps.map Fin.val) (cs.map Fin.val)
  rw [honly] at hfailed hspares ⊢
  rw [State.toStep_stageEnd (by exact hreq)]
  exact ⟨⟨rfl, rfl⟩, ⟨rfl, rfl⟩, rfl, rfl, hfailed, hspares⟩

/-! ## Steps 4 and 5 (17 R535, R536, 19 R590) -/

theorem State.checkerSelfTest_spec (h : s.atStep 4 = true) (bs : List BlockId) :
    ∃ t, exec (.checkerSelfTest bs false) s = .next t ∧ (t.cores = s.cores ∧ t.parts = s.parts) ∧
      (t.loupe.bringStep = 5 ∧ t.dev = s.dev) ∧ t.mem = s.mem ∧ t.regs = s.regs ∧ t.loupe.failedUnits = bs.map Fin.val := by
  have hexec : exec (.checkerSelfTest bs false) s =
      .next (State.toStep { s with loupe := { s.loupe with failedUnits := bs.map Fin.val } } 5).stageEnd :=
    (if_neg (by simp [h])).trans (if_neg (by decide))
  refine ⟨_, hexec, ?_⟩
  rw [State.toStep_stageEnd (by exact hreq)]
  exact ⟨⟨rfl, rfl⟩, ⟨rfl, rfl⟩, rfl, rfl, rfl⟩

theorem State.checkerSelfTest_held (h : s.atStep 4 = true) (bs : List BlockId) :
    ∃ t, exec (.checkerSelfTest bs true) s = .next t ∧ Held s t 4 := by
  have hexec : exec (.checkerSelfTest bs true) s = .next (s.enterHold 4).stageEnd := (if_neg (by simp [h])).trans (if_pos rfl)
  exact ⟨_, hexec, State.holdEnd_held hreq (State.atStep_live h) rfl (by decide)⟩

theorem State.bringUpZeroFill_spec (h : s.atStep 5 = true) :
    ∃ t, exec .bringUpZeroFill s = .next t ∧ (t.cores = s.cores ∧ t.parts = s.parts) ∧ (t.loupe.bringStep = 6 ∧ t.dev = s.dev) ∧
      t.regs = s.regs ∧ ∀ a, t.mem.byte a = 0 := by
  have hexec : exec .bringUpZeroFill s = .next (s.zeroFilled.toStep 6).stageEnd := if_neg (by simp [h])
  refine ⟨_, hexec, ?_⟩
  rw [State.toStep_stageEnd (by exact hreq)]
  exact ⟨⟨rfl, rfl⟩, ⟨rfl, rfl⟩, rfl, fun _ => rfl⟩

end

end Sys2Proof.Machine

namespace Sys2Proof.Machine

/-! ## Step 6: the first test wave (19 R591, R594) -/

/-- A channel that has not failed is released. -/
def State.releaseChan (s : State) (c : Nat) : State :=
  if s.chanFailed c then s else s.setField (Reg.chanReleased (c / 32)) (c % 32) 1 1

section
variable (s : State)

theorem State.releaseChan_regsOnly (c : Nat) : RegsOnly s (s.releaseChan c) := by
  unfold State.releaseChan
  split
  · exact .refl s
  · exact s.setField_regsOnly _ _ _ _

/-- CHAN_RELEASED and CHAN_FAILED are apart. -/
theorem State.releaseChan_chanFailed {c : Nat} (d : Nat) (hc : c < 512) : (s.releaseChan c).chanFailed d = s.chanFailed d := by
  unfold State.releaseChan
  split
  · rfl
  · rw [State.chanFailed, State.reg_setField_other _ _ _ _ (by simp only [Reg.chanReleased, Reg.chanFailed]; omega), State.chanFailed]

/-- The part once the channels that pass have been released. -/
def State.releaseChans : State := (List.range 512).foldl State.releaseChan s

theorem State.releaseChans_regsOnly : RegsOnly s s.releaseChans := .foldl State.releaseChan_regsOnly _

theorem State.releaseChans_chanFailed (d : Nat) : s.releaseChans.chanFailed d = s.chanFailed d :=
  foldl_frame (fun t : State => t.chanFailed d) (fun t _ hc => t.releaseChan_chanFailed d (List.mem_range.1 hc)) s

theorem State.releaseChans_released {c : Nat} (hc : c < 512) (h : s.chanFailed c = false) :
    bits (s.releaseChans.reg (Reg.chanReleased (c / 32))) (c % 32) 1 = 1 := by
  refine foldl_reaches (Pre := fun t : State => t.chanFailed c = false)
    (Done := fun t : State => bits (t.reg (Reg.chanReleased (c / 32))) (c % 32) 1 = 1) (List.mem_range.2 hc)
    (fun t ht d hd _ => (t.releaseChan_chanFailed c (List.mem_range.1 hd)).trans ht) (fun t ht => ?_) (fun t ht d _ _ => ?_) h
  · rw [State.releaseChan, if_neg (by simp [ht])]
    exact t.setBit_same Reg.chanReleased
  · unfold State.releaseChan
    split
    · exact ht
    · exact t.setBit_kept Reg.chanReleased Reg.chanReleased_injective ht

/-- Wave w is over, and has found these places bad (19 R594). -/
def State.waveEnd (w : Nat) (bad : List Nat) : State :=
  let t : State := { s with loupe := { s.loupe with wavesDone := w + 1, wave := min (w + 1) 15, failedCores := s.loupe.failedCores ++ bad } }
  if t.loupe.bringStep = 9 then t.mapSpares bad else t

/-- Before step 8 the bad places wait for it. -/
theorem State.waveEnd_early (h : s.loupe.bringStep ≠ 9) (w : Nat) (bad : List Nat) :
    ∃ l : Loupe, s.waveEnd w bad = { s with loupe := l } ∧ l.wavesDone = w + 1 := ⟨_, if_neg h, rfl⟩

/-- The part as the first wave, that finds failed channels alone, leaves it. -/
def State.firstWave (cs : List Nat) : State := (cs.foldl State.failChan s).releaseChans.waveEnd 0 []

theorem State.firstWave_only (h : s.loupe.bringStep ≠ 9) (cs : List Nat) : ∃ l : Loupe,
    s.firstWave cs = { (cs.foldl State.failChan s).releaseChans with loupe := l } ∧ l.wavesDone = 1 := by
  obtain ⟨rs, hregs⟩ := (s.failChans_regsOnly cs).trans (State.releaseChans_regsOnly _)
  exact State.waveEnd_early _ (by rw [hregs]; exact h) 0 []

end

section
variable {s : State}

/-- The first wave is due at step 6. -/
theorem State.firstWave_due (h : s.atStep 6 = true) (hwave : s.loupe.wavesDone = 0) :
    ((s.dev == .mgmtReady || s.dev == .staging) && decide (s.loupe.wavesDone < 16) && (if s.loupe.wavesDone = 0 then s.loupe.bringStep == 6
      else decide (7 ≤ s.loupe.bringStep) && decide (s.loupe.bringStep ≤ 9))) = true := by
  obtain ⟨hdev, hstep, -⟩ := State.atStep_iff.1 h
  simp [hdev, hstep, hwave]

theorem State.exec_memoryTestWave_first (h : s.atStep 6 = true) (hwave : s.loupe.wavesDone = 0) {cs : List ChanId}
    (hcs : ∀ c ∈ cs, c.val ≠ 31) : exec (.memoryTestWave [] [] [] [] cs false) s =
      .next ((s.firstWave (cs.map Fin.val)).toStep 7).stageEnd := by
  have hpass : ¬ (s.loupe.wavesDone = 0 ∧ (false = true ∨ cs.any (fun c => c.val == 31) = true)) := by
    simpa [hwave] using hcs
  refine (if_neg (by simp [State.firstWave_due h hwave])).trans ((if_neg hpass).trans
    (congrArg (fun t : State => Host.Outcome.next t.stageEnd) ((if_pos hwave).trans (congrArg (State.toStep · 7) ?_))))
  show State.waveEnd (ite (s.loupe.wavesDone ≠ 0) _ ((cs.map Fin.val).foldl State.failChan s).releaseChans) s.loupe.wavesDone [] = _
  rw [if_neg (not_not_intro hwave), hwave]
  rfl

theorem State.exec_memoryTestWave_hub (h : s.atStep 6 = true) (hwave : s.loupe.wavesDone = 0) :
    exec (.memoryTestWave [] [] [] [] [] true) s = .next (s.enterHold 4).stageEnd :=
  (if_neg (by simp [State.firstWave_due h hwave])).trans (if_pos ⟨hwave, Or.inl rfl⟩)

variable (hreq : s.power.pwrReq = true)
include hreq

theorem State.memoryTestWave_spec (h : s.atStep 6 = true) (hwave : s.loupe.wavesDone = 0) {cs : List ChanId} (hcs : ∀ c ∈ cs, c.val ≠ 31) :
    ∃ t, exec (.memoryTestWave [] [] [] [] cs false) s = .next t ∧ (t.cores = s.cores ∧ t.parts = s.parts) ∧
      (t.loupe.bringStep = 7 ∧ t.dev = s.dev) ∧ t.mem = s.mem ∧ t.loupe.wavesDone = 1 ∧ (∀ c ∈ cs, t.chanFailed c = true) ∧
      ∀ c : ChanId, t.chanFailed c = false → bits (t.reg (Reg.chanReleased (c / 32))) (c % 32) 1 = 1 := by
  refine ⟨_, State.exec_memoryTestWave_first h hwave hcs, ?_⟩
  obtain ⟨l, honly, hdone⟩ := s.firstWave_only (by rw [(State.atStep_iff.1 h).2.1]; decide) (cs.map Fin.val)
  have hfailed : ∀ c ∈ cs, ((cs.map Fin.val).foldl State.failChan s).releaseChans.chanFailed c = true := fun c hc =>
    (State.releaseChans_chanFailed _ c).trans (s.failChans_failed (List.mem_map_of_mem hc))
  have hreleased : ∀ c : ChanId, ((cs.map Fin.val).foldl State.failChan s).releaseChans.chanFailed c = false →
      bits (((cs.map Fin.val).foldl State.failChan s).releaseChans.reg (Reg.chanReleased (c / 32))) (c % 32) 1 = 1 := fun c hc =>
    State.releaseChans_released _ c.isLt ((State.releaseChans_chanFailed _ c).symm.trans hc)
  obtain ⟨rs, hregs⟩ := (s.failChans_regsOnly (cs.map Fin.val)).trans (State.releaseChans_regsOnly _)
  rw [honly, hregs, State.toStep_stageEnd (by exact hreq)]
  rw [hregs] at hfailed hreleased
  exact ⟨⟨rfl, rfl⟩, ⟨rfl, rfl⟩, rfl, hdone, hfailed, hreleased⟩

theorem State.memoryTestWave_held (h : s.atStep 6 = true) (hwave : s.loupe.wavesDone = 0) :
    ∃ t, exec (.memoryTestWave [] [] [] [] [] true) s = .next t ∧ Held s t 4 :=
  ⟨_, State.exec_memoryTestWave_hub h hwave, State.holdEnd_held hreq (State.atStep_live h) rfl (by decide)⟩

end

/-! ## Step 7: links (16 R507, R508, 19 R598) -/

/-- Memory, partitions, supplies, the device's state and the ports' roles stay. -/
structure PortFrame (s t : State) : Prop where
  mem : t.mem = s.mem
  parts : t.parts = s.parts
  power : t.power = s.power
  dev : t.dev = s.dev
  fabric : ∀ q, (t.port q).fabric = (s.port q).fabric

theorem PortFrame.refl (s : State) : PortFrame s s := ⟨rfl, rfl, rfl, rfl, fun _ => rfl⟩

theorem PortFrame.trans {s t u : State} (h : PortFrame s t) (k : PortFrame t u) : PortFrame s u :=
  ⟨k.mem.trans h.mem, k.parts.trans h.parts, k.power.trans h.power, k.dev.trans h.dev, fun q => (k.fabric q).trans (h.fabric q)⟩

section
variable (s : State)

/-- A port that keeps its role. -/
theorem State.setPort_frame {q : Nat} {x : Port} (h : x.fabric = (s.port q).fabric) : PortFrame s (s.setPort q x) := by
  refine ⟨rfl, rfl, rfl, rfl, fun p => ?_⟩
  by_cases e : p = q
  · rw [e, State.port_setPort_same, h]
  · rw [State.port_setPort_other _ _ e]

theorem State.loupe_portFrame (l : Loupe) : PortFrame s { s with loupe := l } := ⟨rfl, rfl, rfl, rfl, fun _ => rfl⟩

/-- The next port's training changes no port's state. -/
theorem State.retrainOut_spec (q : Nat) : PortFrame s (s.retrainOut q) ∧ ∀ p, ((s.retrainOut q).port p).state = (s.port p).state := by
  unfold State.retrainOut
  extract_lets h l lp s1
  have h1 : PortFrame s s1 := s.loupe_portFrame _
  have hstate : ∀ p, (s1.port p).state = (s.port p).state := fun _ => rfl
  clear_value s1 l
  cases l with
  | nil => exact ⟨h1, hstate⟩
  | cons n rest =>
    show PortFrame s (if (s1.port n).linkUp then s1 else _) ∧ ∀ p, (State.port (if (s1.port n).linkUp then s1 else _) p).state = _
    split
    · exact ⟨h1, hstate⟩
    · refine ⟨h1.trans (s1.setPort_frame rfl), fun p => ?_⟩
      by_cases e : p = n
      · rw [e, State.port_setPort_same, ← hstate n]
      · rw [State.port_setPort_other _ _ e, hstate]

theorem State.portTo_training (q : Nat) : PortFrame s (s.portTo q .training) ∧ ((s.portTo q .training).port q).state = .training ∧
    ∀ p, p ≠ q → ((s.portTo q .training).port p).state = (s.port p).state := by
  unfold State.portTo
  extract_lets x back s1 s2
  have h1 : PortFrame s s1 := s.setPort_frame rfl
  have hq : (s1.port q).state = .training := congrArg Port.state (s.port_setPort_same q _)
  have hp : ∀ p, p ≠ q → (s1.port p).state = (s.port p).state := fun p hp => congrArg Port.state (s.port_setPort_other _ hp)
  obtain ⟨h2, hstate⟩ : PortFrame s1 s2 ∧ ∀ p, (s2.port p).state = (s1.port p).state := by
    unfold s2
    split
    · exact s1.retrainOut_spec q
    · exact ⟨.refl s1, fun _ => rfl⟩
  rw [if_neg (by decide), if_neg (by decide)]
  exact ⟨h1.trans h2, (hstate q).trans hq, fun p hpq => (hstate p).trans (hp p hpq)⟩

/-- A fabric quad enters TRAINING. -/
def State.trainQuad (q : Nat) : State := if (s.port q).fabric then s.portTo q .training else s

theorem State.trainQuad_spec (q : Nat) : PortFrame s (s.trainQuad q) ∧
    ((s.trainQuad q).port q).state = (if (s.port q).fabric then PortState.training else (s.port q).state) ∧
    ∀ p, p ≠ q → ((s.trainQuad q).port p).state = (s.port p).state := by
  unfold State.trainQuad
  split
  · exact s.portTo_training q
  · exact ⟨.refl s, rfl, fun _ _ => rfl⟩

/-- Every fabric quad enters TRAINING. -/
def State.trainQuads : State := (List.range 20).foldl State.trainQuad s

theorem State.trainQuads_frame : PortFrame s s.trainQuads :=
  List.foldlRecOn (motive := fun t => PortFrame s t) (List.range 20) State.trainQuad (.refl s) fun t ht q _ => ht.trans (t.trainQuad_spec q).1

theorem State.trainQuads_state {q : Nat} (hq : q < 20) :
    (s.trainQuads.port q).state = (if (s.port q).fabric then PortState.training else (s.port q).state) := by
  refine foldl_reaches (Pre := fun t : State => PortFrame s t ∧ (t.port q).state = (s.port q).state)
    (Done := fun t : State => (t.port q).state = (if (s.port q).fabric then PortState.training else (s.port q).state))
    (List.mem_range.2 hq) ?_ ?_ ?_ ⟨.refl s, rfl⟩
  · rintro t ⟨hframe, hstate⟩ p - hp
    obtain ⟨hframe', -, hother⟩ := t.trainQuad_spec p
    exact ⟨hframe.trans hframe', (hother q hp.symm).trans hstate⟩
  · rintro t ⟨hframe, hstate⟩
    rw [(t.trainQuad_spec q).2.1, hframe.fabric, hstate]
  · rintro t hdone p - hp
    exact ((t.trainQuad_spec p).2.2 q (hp List.nodup_range).symm).trans hdone

end

section
variable {s : State}

theorem State.exec_linksStage (h : s.atStep 7 = true) (hrepairs : s.repairs = none) :
    exec (.linksStage []) s = .next (s.trainQuads.toStep 8).stageEnd := by
  show execLinksStage [] s = _
  unfold execLinksStage
  rw [hrepairs]
  exact (if_neg (by simp [h])).trans (if_neg (show ¬ ((!true) = true) by decide))

theorem State.linksStage_spec (hreq : s.power.pwrReq = true) (h : s.atStep 7 = true) (hrepairs : s.repairs = none) :
    ∃ t, exec (.linksStage []) s = .next t ∧ t.parts = s.parts ∧ (t.loupe.bringStep = 8 ∧ t.dev = s.dev) ∧ t.mem = s.mem ∧
      ∀ q, q < 20 → (t.port q).state = (if (s.port q).fabric then PortState.training else (s.port q).state) := by
  refine ⟨_, State.exec_linksStage h hrepairs, ?_⟩
  have hframe := s.trainQuads_frame
  have hstate : ∀ q, q < 20 → (s.trainQuads.port q).state = _ := fun q hq => s.trainQuads_state hq
  generalize s.trainQuads = u at hframe hstate
  rw [State.toStep_stageEnd ((congrArg Power.pwrReq hframe.power).trans hreq)]
  exact ⟨hframe.parts, ⟨rfl, hframe.dev⟩, hframe.mem, hstate⟩

/-! ## Steps 8 to 10 (19 R593 to R595) -/

theorem State.exec_blockSelfTest (h : s.atStep 8 = true) (hfailed : s.loupe.failedCores = []) : exec (.blockSelfTest []) s =
    (if (List.range 256).any (s.toStep 9).releasable then .next (s.toStep 9).stageEnd else .next ((s.toStep 9).enterHold 4).stageEnd) := by
  have hsame : ({ s with loupe := { s.loupe with failedCores := s.loupe.failedCores ++ [] } } : State) = s := by
    rw [List.append_nil]
  have hmap : s.mapSpares s.loupe.failedCores = s := by
    rw [hfailed, State.mapSpares, List.mergeSort_nil]
    rfl
  show execBlockSelfTest [] s = _
  unfold execBlockSelfTest
  rw [if_neg (by simp [h]), List.map_nil, hsame]
  dsimp only
  rw [hmap]

theorem State.blockSelfTest_spec (hreq : s.power.pwrReq = true) (h : s.atStep 8 = true) (hfailed : s.loupe.failedCores = [])
    (hany : (List.range 256).any (s.toStep 9).releasable = true) : ∃ t, exec (.blockSelfTest []) s = .next t ∧
      (t.cores = s.cores ∧ t.parts = s.parts) ∧ (t.loupe.bringStep = 9 ∧ t.dev = s.dev) ∧ t.mem = s.mem := by
  rw [State.exec_blockSelfTest h hfailed, if_pos hany, State.toStep_stageEnd hreq]
  exact ⟨_, rfl, ⟨rfl, rfl⟩, ⟨rfl, rfl⟩, rfl⟩

theorem State.blockSelfTest_held (hreq : s.power.pwrReq = true) (h : s.atStep 8 = true) (hfailed : s.loupe.failedCores = [])
    (hnone : (List.range 256).any (s.toStep 9).releasable = false) : ∃ t, exec (.blockSelfTest []) s = .next t ∧ Held s t 4 := by
  rw [State.exec_blockSelfTest h hfailed, if_neg (by simp only [hnone, Bool.false_eq_true, not_false_eq_true])]
  exact ⟨_, rfl, State.holdEnd_held (u := s.toStep 9) hreq (State.atStep_live (s := s) h) rfl (by decide)⟩

/-- The training record is written where there is none, or something has changed (19 R595). -/
def State.trainKept (s : State) : State :=
  if bits (s.reg Reg.bringup) 23 1 = 0 ∨ bits (s.reg Reg.bringup) 22 1 = 1 ∨ s.loupe.laneFixed then
    (s.trainRecord.2.putBoth trainOff s.trainRecord.1 true true).setField Reg.bringup 21 1 1
  else s

theorem State.putBoth_only (s : State) (o : Nat) (b : Bytes) : ∃ fl : SMap Bytes, s.putBoth o b true true = { s with flash := fl } := ⟨_, rfl⟩

theorem State.trainRecord_only (s : State) : ∃ c, s.trainRecord.2 = { s with freeCtr := c } := ⟨_, rfl⟩

theorem State.trainKept_only (s : State) : ∃ c fl rs, s.trainKept = { s with freeCtr := c, flash := fl, regs := rs } := by
  unfold State.trainKept
  split
  · obtain ⟨c, hc⟩ := s.trainRecord_only
    obtain ⟨fl, hfl⟩ := s.trainRecord.2.putBoth_only trainOff s.trainRecord.1
    obtain ⟨rs, hrs⟩ := (s.trainRecord.2.putBoth trainOff s.trainRecord.1 true true).setField_regsOnly Reg.bringup 21 1 1
    rw [hrs, hfl, hc]
    exact ⟨c, fl, rs, rfl⟩
  · exact ⟨s.freeCtr, s.flash, s.regs, rfl⟩

theorem State.trainKept_written (h : bits (s.reg Reg.bringup) 23 1 = 0) : bits (s.trainKept.reg Reg.bringup) 21 1 = 1 := by
  rw [State.trainKept, if_pos (Or.inl h), State.reg_setField_same, bits_setBits_same _ _ _ _ (by decide)]
  rfl

theorem State.exec_bringUpComplete (hdev : s.dev = .staging) (hstep : s.loupe.bringStep = 9) (hwaves : s.loupe.wavesDone = 16)
    (hnone : (List.range 256).any s.releasable = false) :
    exec .bringUpComplete s = .next (State.toStep { s.trainKept with dev := .ready } 10).stageEnd :=
  if_neg (by simp only [hdev, hstep, hwaves, hnone, ne_eq, not_true_eq_false, Bool.false_eq_true, or_false, not_false_eq_true])

theorem State.bringUpComplete_spec (hreq : s.power.pwrReq = true) (hdev : s.dev = .staging) (hstep : s.loupe.bringStep = 9)
    (hwaves : s.loupe.wavesDone = 16) (hnone : (List.range 256).any s.releasable = false) :
    ∃ t, exec .bringUpComplete s = .next t ∧ (t.cores = s.cores ∧ t.parts = s.parts) ∧ t.mem = s.mem ∧ t.dev = .ready ∧
      t.loupe.bringStep = 10 ∧ (bits (s.reg Reg.bringup) 23 1 = 0 → bits (t.reg Reg.bringup) 21 1 = 1) := by
  refine ⟨_, State.exec_bringUpComplete hdev hstep hwaves hnone, ?_⟩
  have hwritten := State.trainKept_written (s := s)
  obtain ⟨c, fl, rs, honly⟩ := s.trainKept_only
  rw [honly] at hwritten ⊢
  rw [State.toStep_stageEnd (by exact hreq)]
  exact ⟨⟨rfl, rfl⟩, rfl, rfl, rfl, hwritten⟩

theorem State.exec_blockRelease {b : BlockId} (hdev : s.dev = .mgmtReady ∨ s.dev = .staging) (hstep : s.loupe.bringStep = 9)
    (hb : s.releasable b = true) : exec (.blockRelease b) s =
      .next { (s.setField (Reg.released (b / 32)) (b % 32) 1 1).setBlock b Block.reset with dev := .staging } :=
  if_neg (by
    rintro (h | h | h)
    · exact hdev.elim h.1 h.2
    · exact h hstep
    · simp [hb] at h)

theorem State.blockRelease_spec {b : BlockId} (hdev : s.dev = .mgmtReady ∨ s.dev = .staging) (hstep : s.loupe.bringStep = 9)
    (hb : s.releasable b = true) : ∃ t, exec (.blockRelease b) s = .next t ∧ (t.cores = s.cores ∧ t.parts = s.parts) ∧ t.mem = s.mem ∧
      t.dev = .staging ∧ t.isReleased b = true ∧ t.block b = Block.reset ∧ (∀ j, j ≠ b.val → t.block j = s.block j) ∧
      ∀ j : BlockId, j ≠ b → t.isReleased j = s.isReleased j := by
  refine ⟨_, State.exec_blockRelease hdev hstep hb, ⟨rfl, rfl⟩, rfl, rfl, beq_iff_eq.2 (s.setBit_same Reg.released),
    State.block_setBlock_same _ _ _, fun j hj => State.block_setBlock_other _ _ hj, fun j hj => ?_⟩
  exact congrArg (· == 1) (s.setBit_other Reg.released Reg.released_injective (fun e => hj (Fin.ext e)))

end

/-- Settles O60, one stage's lemma per clause. -/
theorem bringUpStages : Obligations.BringUpStages := by
  unfold Obligations.BringUpStages
  intro s l same does reaches holds
  refine ⟨?start, fun hreq => ⟨?ready, ?clocks, ?training, ?checkers, ?fill, ?wave, ?hub, ?links, ?selfTest, ?complete⟩, ?release⟩
  case start => exact fun haon => State.alwaysOnResetRelease_spec haon
  case ready =>
    intro k l0 l1 hdev haon hgood href hwin hperst
    refine ⟨fun hmap hflash hk => ?_, State.mgmtReadyEntry_stranger hdev haon hgood href hwin hperst hreq k l0 l1, fun hmap hk => ?_⟩
    · rw [hk]
      exact State.mgmtReadyEntry_ready hdev haon hgood href hwin hperst hreq l0 l1 hmap hflash
    · rw [hk]
      exact State.mgmtReadyEntry_badKey hdev haon hgood href hwin hperst hreq l0 l1 hmap
  case clocks => exact fun h r => ⟨State.clocksAndMeshStage_spec hreq h r, State.clocksAndMeshStage_held hreq h r⟩
  case training => exact fun h rt ps cs => State.memoryTraining_spec hreq h rt ps cs
  case checkers => exact fun h bs => ⟨State.checkerSelfTest_spec hreq h bs, State.checkerSelfTest_held hreq h bs⟩
  case fill => exact fun h => State.bringUpZeroFill_spec hreq h
  case wave => exact fun h hwave cs hcs => State.memoryTestWave_spec hreq h hwave hcs
  case hub => exact fun h hwave => State.memoryTestWave_held hreq h hwave
  case links => exact fun h hrepairs => State.linksStage_spec hreq h hrepairs
  case selfTest => exact fun h hfailed => ⟨State.blockSelfTest_spec hreq h hfailed, State.blockSelfTest_held hreq h hfailed⟩
  case complete => exact fun hdev hstep hwaves hnone => State.bringUpComplete_spec hreq hdev hstep hwaves hnone
  case release => exact fun b hdev hstep hb => State.blockRelease_spec hdev hstep hb

end Sys2Proof.Machine

namespace Sys2Proof.Machine

/-! ## A partition enters FAULTED, with the core that is named (17 R527, R528) -/

/-- Partition p is FAULTED, PART_FAULT holds the cause and the core, and memory is as it was. -/
def FaultedBy (s t : State) (p cause core : Nat) : Prop :=
  (t.part p).state = .faulted ∧ bits (t.reg (Reg.partFault p)) 24 8 = cause ∧ bits (t.reg (Reg.partFault p)) 0 14 = core ∧ t.mem = s.mem

section
variable {s t : State} {p n code cause limit : Nat}

theorem State.partIn_running (h : (s.part p).state = .running) : s.partIn p [.running] = true := by
  rw [State.partIn, h]
  rfl

theorem State.enterFaulted_faultedBy (h : (s.part p).state = .running) (hcause : cause < 256) (hn : n < 16384) (limit : Nat) :
    FaultedBy s (s.enterFaulted p cause (some n) limit) p cause n ∧ ((s.enterFaulted p cause (some n) limit).part p).freezeAt = limit := by
  have hmem := (s.enterFaulted_onlyPart p cause (some n) limit).mem
  have hfs : Reg.partFault p ≠ Reg.partFaultStep p := by simp only [Reg.partFault, Reg.partFaultStep]; omega
  revert hmem
  unfold State.enterFaulted State.move State.retargetAll
  rw [if_neg (by rw [State.partIn, h]; decide)]
  extract_lets w0 w1 w2 w3 s1 s2 x s3
  obtain ⟨bs, q, hblocks⟩ := BlocksOnly.foldl (s := s3.setPart p { s3.part p with state := .faulted })
    (fun u b => u.retarget_blocksOnly b PState.faulted.blocks) ((s3.setPart p { s3.part p with state := .faulted }).blocksOf p)
  rw [hblocks]
  intro hmem
  have hreg : s3.reg (Reg.partFault p) = w3 := (State.reg_setReg_other s1 _ hfs).trans (State.reg_setReg_same s _ _)
  refine ⟨⟨?state, (congrArg (bits · 24 8) hreg).trans ?cause, (congrArg (bits · 0 14) hreg).trans ?core, hmem⟩, ?limit⟩
  case state => exact congrArg Partition.state (State.part_setPart_same _ _ _)
  case cause =>
    rw [bits_setBits_other _ _ _ _ _ _ (by decide) (by decide), bits_setBits_other _ _ _ _ _ _ (by decide) (by decide),
      bits_setBits_same _ _ _ _ (by decide)]
    exact Nat.mod_eq_of_lt hcause
  case core =>
    rw [bits_setBits_same _ _ _ _ (by decide)]
    exact Nat.mod_eq_of_lt hn
  case limit =>
    have hx : s3.part p = { x with freezeAt := limit, faultKey := (0, 0) } := State.part_setPart_same _ _ _
    exact (congrArg Partition.freezeAt (State.part_setPart_same _ _ _)).trans (congrArg Partition.freezeAt hx)

/-! ## A core's fault (03 R96, 05 R167) -/

theorem State.traceCore_only (s : State) (n type bundle detail dur peer data : Nat) : ∃ (tr : SMap (List TraceRec)) (tq : SMap (List TraceRec)),
    s.traceCore n type bundle detail dur peer data = { s with trace := tr, traceQ := tq } := by
  unfold State.traceCore
  split
  · exact ⟨s.trace, s.traceQ, rfl⟩
  · exact s.traceEv_only ..

/-- Core n has recorded no fault since the last FACET_ACTIVATE. -/
def State.NoFault (s : State) (n : Nat) : Prop := bits (s.reg (Reg.faultPc n)) 31 1 = 0 ∧ bits (s.reg (Reg.engineStatus n)) 8 8 = 0

theorem State.NoFault.wins (h : s.NoFault n) (code : Nat) (a : FaultAt) : s.faultWins n code a = true := by
  obtain ⟨hpc, hfirst⟩ := h
  simp [State.faultWins, hpc, hfirst]

theorem bits_or (w v : Word) (lo len : Nat) : bits (w ||| v) lo len = bits w lo len ||| bits v lo len := by
  apply Nat.eq_of_testBit_eq
  intro i
  simp [bits_testBit, Bool.and_or_distrib_left]

/-- Which partition a core is of follows from the device facet and the partitions' states alone. -/
theorem State.partOfCore_congr (hdev : t.devFacet = s.devFacet) (hparts : t.parts = s.parts) : t.partOfCore n = s.partOfCore n := by
  simp only [State.partOfCore, State.partOfBlock, State.ownerBy, State.rec_, State.part, hdev, hparts]

/-- The first fault of a core, as its own registers show it. -/
structure FirstFault (s t : State) (n code : Nat) : Prop where
  parts : t.parts = s.parts
  devFacet : t.devFacet = s.devFacet
  mem : t.mem = s.mem
  cause : bits (t.reg (Reg.engineStatus n)) 8 8 = code
  core : ∃ f, t.core n = { s.core n with seq := { (s.core n).seq with faultAt := f } }

theorem FirstFault.traceCore (h : FirstFault s t n code) (type bundle detail dur peer data : Nat) :
    FirstFault s (t.traceCore n type bundle detail dur peer data) n code := by
  obtain ⟨tr, tq, htrace⟩ := t.traceCore_only n type bundle detail dur peer data
  rw [htrace]
  exact ⟨h.parts, h.devFacet, h.mem, h.cause, h.core⟩

/-- FIRST_CAUSE and CORE_FAULT_PC as a core's first fault leaves them (05 R167). -/
theorem State.firstFault_recorded (s : State) (n : Nat) (hcode : code < 256) (f : Option Nat) (w : Word) :
    let u := (s.setField (Reg.engineStatus n) 8 8 code).orReg (Reg.engineStatus n) 2
    FirstFault s ((u.setCore n { u.core n with seq := { (u.core n).seq with faultAt := f } }).setReg (Reg.faultPc n) w) n code := by
  have hpc : Reg.engineStatus n ≠ Reg.faultPc n := by simp only [Reg.engineStatus, Reg.faultPc]; omega
  have hbit : bits 2 8 8 = 0 := by decide
  refine ⟨by simp, by simp, by simp, ?_, f, by simp⟩
  rw [State.reg_setReg_other _ _ hpc, State.setCore_reg, State.reg_orReg_same, bits_or, State.reg_setField_same,
    bits_setBits_same _ _ _ _ (by decide), hbit, Nat.or_zero]
  exact Nat.mod_eq_of_lt hcode

/-- A core's first fault is recorded in its registers, and raised in the core's partition with the same cause. -/
theorem State.coreFault_first (hclean : s.NoFault n) (hcode : code < 256) (hpart : s.partOfCore n = some p) (a : FaultAt) :
    ∃ t k, FirstFault s t n code ∧ s.coreFault n code a = t.unitFault p code n k := by
  unfold State.coreFault
  rw [hclean.wins]
  simp only [↓reduceIte, Bool.not_true, Bool.false_and, Bool.false_eq_true]
  generalize ht : State.traceCore _ _ _ _ _ _ _ _ = t
  have hfirst : FirstFault s t n code := by
    rw [← ht]
    exact (s.firstFault_recorded n hcode _ _).traceCore ..
  rw [State.partOfCore_congr hfirst.devFacet hfirst.parts, hpart]
  exact ⟨t, _, hfirst, rfl⟩

theorem State.unitFault_faultedBy (h : (s.part p).state = .running) (hcause : cause < 256) (hn : n < 16384) (k : Nat) :
    FaultedBy s (s.unitFault p cause n k) p cause n ∧ OnlyPart p s (s.unitFault p cause n k) := by
  obtain ⟨⟨hstate, hfault⟩, -⟩ := State.enterFaulted_faultedBy h hcause hn (s.limitAt p k)
  rw [State.unitFault, if_pos (Or.inl (State.partIn_running h))]
  exact ⟨⟨(congrArg Partition.state (State.part_setPart_same _ p _)).trans hstate, hfault⟩,
    (s.enterFaulted_onlyPart ..).trans (State.setPart_onlyPart _ p _)⟩

/-- A core's first fault: its partition is FAULTED by it, its FIRST_CAUSE holds the cause, and of the core itself only the cycle of
the fault is new. -/
theorem State.coreFault_faultedBy (hrun : (s.part p).state = .running) (hpart : s.partOfCore n = some p) (hclean : s.NoFault n)
    (hcode : code < 256) (hn : n < 16384) (a : FaultAt) :
    FaultedBy s (s.coreFault n code a) p code n ∧ bits ((s.coreFault n code a).reg (Reg.engineStatus n)) 8 8 = code ∧
      ∃ f, (s.coreFault n code a).core n = { s.core n with seq := { (s.core n).seq with faultAt := f } } := by
  obtain ⟨t, k, ⟨hparts, -, hmem, hcause, f, hcore⟩, heq⟩ := State.coreFault_first hclean hcode hpart a
  have hrun' : (t.part p).state = .running := by
    rw [State.part, hparts]
    exact hrun
  obtain ⟨⟨hstate, hbits, hnum, hmem'⟩, honly⟩ := State.unitFault_faultedBy hrun' hcode hn k
  rw [heq]
  refine ⟨⟨hstate, hbits, hnum, hmem'.trans hmem⟩, (congrArg (bits · 8 8) (honly.regs _ ?_ ?_ ?_)).trans hcause, f,
    (congrArg (SMap.get Core.reset · n) honly.cores).trans hcore⟩ <;>
    simp only [Reg.engineStatus, Reg.partFault, Reg.partFaultStep, Reg.recovery] <;> omega

end

/-! ## The end of a cycle in which nothing is due but beats for the epilogue inputs (03 R80, R89, 05 R139) -/

/-- An effect that presents a beat to the epilogue input. -/
def Effect.presents : Effect → Bool
  | .xreg .. => true
  | _ => false

theorem Effect.presents_iff {e : Effect} : e.presents = true ↔ ∃ b val, e = .xreg b val := by
  cases e <;> simp [Effect.presents]

theorem Effect.presents_ports {e : Effect} (h : e.presents = true) (r : Option Ring) : e.ports r = ([], []) := by
  obtain ⟨b, val, rfl⟩ := Effect.presents_iff.1 h
  rfl

theorem readEffect_presents {p : Pending} (h : p.eff.presents = true) (s : State) (n : Nat) : s.readEffect n p = (s, [p]) := by
  obtain ⟨b, val, hb⟩ := Effect.presents_iff.1 h
  rw [State.readEffect, hb]

section
variable {l : List Pending} (h : ∀ p ∈ l, p.eff.presents = true)
include h

theorem portUse_presents (r : Option Ring) : portUse r l = [] := by
  refine List.flatMap_eq_nil_iff.2 fun x hx => ?_
  simp [Effect.presents_ports (h x.1 (List.fst_mem_of_mem_zipIdx hx))]

theorem readEffects_presents (s : State) (n : Nat) (r : List Pending) :
    l.foldl (fun (a : State × List Pending) p => let x := a.1.readEffect n p; (x.1, a.2 ++ x.2)) (s, r) = (s, r ++ l) := by
  induction l generalizing r with
  | nil => simp
  | cons p l ih =>
    have hrest := ih (fun q hq => h q (List.mem_cons_of_mem _ hq)) (r ++ [p])
    rw [List.foldl_cons, readEffect_presents (h p List.mem_cons_self)]
    simpa using hrest

/-- Beats reach the epilogue inputs, and nothing else changes. -/
theorem applyEffects_presents (s : State) (n : Nat) (c : Core) :
    ∃ v, l.foldl (fun s p => s.applyEffect n p) (s.setCore n c) = s.setCore n { c with vec := v } := by
  induction l generalizing c with
  | nil => exact ⟨c.vec, rfl⟩
  | cons p l ih =>
    obtain ⟨b, val, hb⟩ := Effect.presents_iff.1 (h p List.mem_cons_self)
    have hp : (s.setCore n c).applyEffect n p = s.setCore n { c with vec := { c.vec with x := writeLanes c.vec.x (32 * b) 0xFFFFFFFF val } } := by
      simp [State.applyEffect, hb]
    rw [List.foldl_cons, hp]
    exact ih (fun q hq => h q (List.mem_cons_of_mem _ hq)) _

end

theorem mem_insertRank {p q : Pending} {l : List Pending} (h : p ∈ insertRank q l) : p = q ∨ p ∈ l := by
  induction l with
  | nil => simpa [insertRank] using h
  | cons x l ih =>
    rw [insertRank] at h
    split at h
    · simpa using h
    · rcases List.mem_cons.1 h with rfl | h
      · simp
      · exact (ih h).imp_right (List.mem_cons_of_mem _)

theorem mem_of_mem_foldr_insertRank {p : Pending} {l : List Pending} (h : p ∈ l.foldr insertRank []) : p ∈ l := by
  induction l with
  | nil => exact h
  | cons x l ih => exact (mem_insertRank h).elim (fun e => e ▸ List.mem_cons_self) fun h => List.mem_cons_of_mem _ (ih h)

/-- No flit is in flight from the core, and of the effects in flight only beats for the epilogue inputs are due. -/
def Core.Calm (c : Core) : Prop := ∀ q ∈ c.seq.pend, q.eff.isSend = false ∧ (q.due ≤ c.seq.now → q.eff.presents = true)

theorem State.startCycle_noSend {s : State} {n : Nat} (h : ∀ q ∈ (s.core n).seq.pend, q.eff.isSend = false) :
    s.startCycle n = s.setCore n (s.core n) := by
  have hnone : (s.core n).seq.pend.filter (fun p => p.eff.isSend && decide (p.due ≤ (s.core n).seq.now)) = [] :=
    List.filter_eq_nil_iff.2 fun q hq => by simp [h q hq]
  have hall : (s.core n).seq.pend.filter (fun p => !(p.eff.isSend && decide (p.due ≤ (s.core n).seq.now))) = (s.core n).seq.pend :=
    List.filter_eq_self.2 fun q hq => by simp [h q hq]
  unfold State.startCycle
  extract_lets c k sends q u
  have hs : sends = [] := hnone
  have hu : u = s.setCore n (s.core n) := congrArg (fun l => s.setCore n { s.core n with seq := { (s.core n).seq with pend := l } }) hall
  rw [hs, hu]

theorem State.tallyCore_zero (s : State) (n i : Nat) : s.tallyCore n i 0 = s := if_pos rfl

/-- The beats that are due reach the epilogue inputs, and the core's next cycle begins. -/
theorem State.endCycle_calm {s : State} {n : Nat} (h : (s.core n).Calm) (hreads : s.engineReads n (s.core n).seq.now = []) :
    ∃ v l, s.endCycle n = s.setCore n { (s.core n).after l with vec := v } := by
  unfold State.endCycle
  extract_lets c k isDue due q s1 ring use bad lost ok moved s2 r now next s3 c3 q3 s4 blame s5 c5 q5 s6 frozen
  have hdue : due = c.seq.pend.filter isDue := by
    unfold due
    rw [show s.engineReads n k = [] from hreads, List.append_nil]
  have hbeat : ∀ p ∈ due, p.eff.presents = true := by
    intro p hp
    obtain ⟨hmem, hd⟩ := List.mem_filter.1 (hdue ▸ hp)
    exact (h p hmem).2 (of_decide_eq_true (Bool.and_eq_true_iff.1 hd).1)
  have huse : use = [] := portUse_presents hbeat ring
  have hbad : bad = [] := by
    unfold bad
    rw [huse, testedUse_nil]
    rfl
  have hok : ok = due := by
    have hall : due.zipIdx.filter (fun x => !lost x) = due.zipIdx := List.filter_eq_self.2 fun x _ => by simp [lost, huse]
    unfold ok
    rw [hall, List.zipIdx_map_fst]
  have hmoved : ∀ f, f ([], []) = [] → moved f = 0 := by
    intro f hf
    refine List.sum_eq_zero fun m hm => ?_
    obtain ⟨p, hp, rfl⟩ := List.mem_map.1 hm
    rw [Effect.presents_ports (hbeat p (hok ▸ hp)), hf]
    rfl
  have hs2 : s2 = s1 := by
    unfold s2
    rw [hmoved _ rfl, hmoved _ rfl, Nat.mul_zero, State.tallyCore_zero, State.tallyCore_zero]
  have hr : r = (s1, due) := by
    unfold r
    rw [hok, hs2, readEffects_presents hbeat, List.nil_append]
  have hnow : ∀ p ∈ now, p.eff.presents = true := by
    intro p hp
    have hmem : p ∈ r.2 := List.mem_of_mem_filter (mem_of_mem_foldr_insertRank hp)
    rw [hr] at hmem
    exact hbeat p hmem
  have hnext : next = [] := by
    refine List.filter_eq_nil_iff.2 fun p hp => ?_
    rw [hr, hdue] at hp
    simp [(List.mem_filter.1 hp).2]
  obtain ⟨v, hv⟩ := applyEffects_presents hnow s n { c with seq := { q with pend := c.seq.pend.filter fun p => !isDue p } }
  have hs3 : s3 = s.setCore n { c with seq := { q with pend := c.seq.pend.filter fun p => !isDue p }, vec := v } := by
    unfold s3
    rw [hr]
    exact hv
  have hs5 : s5 = s4 := by
    unfold s5
    rw [hbad]
    rfl
  have hs6 : s6 = s.setCore n { c.after (c.seq.pend.filter fun p => !isDue p) with vec := v } := by
    unfold s6 q5 c5
    rw [hs5]
    unfold s4 q3 c3
    rw [hs3, hnext]
    simp [Core.after, c, q, k]
  have hquiet : s6.startCycle n = s6 := by
    rw [State.startCycle_noSend, hs6]
    · simp
    · rw [hs6, State.core_setCore_same]
      exact fun p hp => (h p (List.mem_of_mem_filter hp)).1
  rw [hquiet, ite_self]
  exact ⟨v, _, hs6⟩

/-- A core with no engine operation in flight reads nothing. -/
theorem State.engineReads_idle {s : State} {n : Nat} (hm : (s.core n).eng.mmas = []) (hv : (s.core n).eng.mvps = [])
    (hp : (s.core n).eng.ports = []) (k : Nat) : s.engineReads n k = [] := by
  simp [State.engineReads, hm, hv, hp]

/-! ## The timers of a running partition (05 R135, R150, 17 R525) -/

section
variable {s : State} {p : PartId}

theorem State.waitTimeout_spec (hrun : (s.part p).state = .running) {n : CoreId} (hpart : s.partOfCore n = some p.val) {w : Wait}
    (hw : w ∈ (s.core n).seq.waits) (hlate : w.since + s.waitLimit n < s.timebase) (hclean : s.NoFault n) :
    ∃ t, exec (.waitTimeout n) s = .next t ∧ FaultedBy s t p 0x11 n ∧ bits (t.reg (Reg.engineStatus n)) 8 8 = 0x11 := by
  obtain ⟨w', hfind⟩ := Option.isSome_iff_exists.1
    (List.find?_isSome (p := fun w : Wait => decide (w.since + s.waitLimit n < s.timebase)).2 ⟨w, hw, decide_eq_true hlate⟩)
  obtain ⟨tr, tq, htrace⟩ := s.traceCore_only n 0x03 w'.bundle w'.tok (s.realNow n - w'.at_) w'.by_.toNat ((s.core n).k w'.tok)
  have hexec : exec (.waitTimeout n) s = .next (State.coreFault { s with trace := tr, traceQ := tq } n Sf.waitTimeout ⟨0, none, w'.bundle⟩) := by
    show execWaitTimeout n s = _
    unfold execWaitTimeout
    rw [hfind, ← htrace]
  obtain ⟨hfault, hcause, -⟩ := State.coreFault_faultedBy (s := { s with trace := tr, traceQ := tq }) hrun hpart hclean
    (by decide : Sf.waitTimeout < 256) n.isLt ⟨0, none, w'.bundle⟩
  exact ⟨_, hexec, hfault, hcause⟩

theorem State.refreshStarved_spec (hrun : (s.part p).state = .running) (hpart : s.partOfCore (s.pacing p) = some p.val)
    (hlt : s.pacing p < 16384) (hq : Quiet s (s.pacing p)) (hstarved : s.starved p (s.uOf p) = true) (hmay : s.coreMay (s.pacing p) = true)
    (hblend : (s.core (s.pacing p)).vec.blend = none) (hclean : s.NoFault (s.pacing p)) :
    ∃ t, exec (.refreshStarved p) s = .next t ∧ FaultedBy s t p 0x14 (s.pacing p) := by
  obtain ⟨hfault, -, f, hcore⟩ := State.coreFault_faultedBy hrun hpart hclean (by decide : Sf.refreshStarved < 256) hlt
    ⟨7, none, (s.core (s.pacing p)).seq.next⟩
  have hexec : exec (.refreshStarved p) s = .next (((s.coreFault (s.pacing p) Sf.refreshStarved
      ⟨7, none, (s.core (s.pacing p)).seq.next⟩).blendStep (s.pacing p)).endCycle (s.pacing p)) :=
    if_pos ⟨State.partIn_running hrun, hstarved, hmay⟩
  revert hexec hfault hcore
  generalize s.coreFault (s.pacing p) Sf.refreshStarved ⟨7, none, (s.core (s.pacing p)).seq.next⟩ = u
  intro hfault hcore hexec
  obtain ⟨hpend, hm, hv, hp, -⟩ := hq
  have hstep : u.blendStep (s.pacing p) = u := by
    rw [State.blendStep, hcore, hblend]
  obtain ⟨v, l, hend⟩ := State.endCycle_calm (s := u) (n := s.pacing p) (by rw [hcore]; intro q hmem; simp [hpend] at hmem)
    (State.engineReads_idle (by rw [hcore]; exact hm) (by rw [hcore]; exact hv) (by rw [hcore]; exact hp) _)
  rw [hstep, hend] at hexec
  exact ⟨_, hexec, hfault⟩

theorem State.exec_poisonFaultDeadline {k m n : Nat} (hconsumed : (s.part p).consumed = some (k, n)) (hmark : (s.part p).lastMark = some m) :
    let cut := if k ≤ m then min (m + 1) (k + 2097153) else k + 2097153
    exec (.poisonFaultDeadline p) s = if cut ≤ s.farthest p then .next (s.enterFaulted p 0x40 (some n) cut) else .next s := by
  intro cut
  have hcut : (s.part p).poisonCut = some cut := by
    simp only [Partition.poisonCut, hconsumed, hmark, Option.map_some]
    rfl
  show execPoisonFaultDeadline p s = _
  unfold execPoisonFaultDeadline
  extract_lets x
  rw [hcut, hconsumed]

end

/-- Settles O18: a unit's first fault names the core and its cause in PART_FAULT, and the poison deadline enters FAULTED at its cut. -/
theorem partitionFaultTimers : Obligations.PartitionFaultTimers := by
  unfold Obligations.PartitionFaultTimers
  intro s p hrun faults clean h
  refine ⟨?wait, ?refresh, ?poison⟩
  case wait => exact fun n hpart w hw hlate hclean => State.waitTimeout_spec hrun hpart hw hlate hclean
  case refresh => exact fun hpart hlt hq hstarved hmay hblend hclean => State.refreshStarved_spec hrun hpart hlt hq hstarved hmay hblend hclean
  case poison =>
    intro k m n hconsumed hmark cut
    rw [State.exec_poisonFaultDeadline hconsumed hmark]
    refine ⟨fun hearly => if_neg (Nat.not_le.2 hearly), fun hcut => ⟨_, if_pos hcut, ?_⟩⟩
    obtain ⟨hfault, hlimit⟩ := State.enterFaulted_faultedBy hrun (by decide : 0x40 < 256) n.isLt cut
    exact ⟨hfault, hlimit, (s.enterFaulted_onlyPart p 0x40 (some n.val) cut).cores⟩

end Sys2Proof.Machine

namespace Sys2Proof.Machine

/-! ## What counts, flags and poison leave alone (02 R61, 07 R209, 17 R523, 20 R603) -/

/-- Memory and the cores are as before. -/
structure Aside (s t : State) : Prop where
  mem : t.mem = s.mem
  cores : t.cores = s.cores

theorem Aside.refl (s : State) : Aside s s := ⟨rfl, rfl⟩

theorem Aside.trans {s t u : State} (h : Aside s t) (k : Aside t u) : Aside s u := ⟨k.mem.trans h.mem, k.cores.trans h.cores⟩

theorem Aside.core {s t : State} (h : Aside s t) (n : Nat) : t.core n = s.core n := congrArg (SMap.get Core.reset · n) h.cores

theorem RegsOnly.aside {s t : State} : RegsOnly s t → Aside s t := by
  rintro ⟨rs, rfl⟩
  exact ⟨rfl, rfl⟩

theorem OnlyPart.aside {s t : State} {p : Nat} (h : OnlyPart p s t) : Aside s t := ⟨h.mem, h.cores⟩

theorem Aside.ite {s t u : State} {c : Prop} [Decidable c] (h : Aside s t) (k : Aside s u) : Aside s (if c then t else u) := by
  split <;> assumption

section
variable (s : State) (n : Nat)

theorem State.countCheck_regsOnly (c : Check) (w : Option Nat) : RegsOnly s (s.countCheck n c w) := by
  cases c with
  | clean => exact .refl s
  | corrected => exact s.setField_regsOnly ..
  | bad =>
    unfold State.countCheck
    extract_lets u
    have hu : RegsOnly s u := s.setField_regsOnly ..
    cases w with
    | none => exact hu
    | some w =>
      dsimp only
      split
      · exact hu
      · exact (hu.trans (u.setField_regsOnly ..)).trans (State.setField_regsOnly ..)

theorem State.readSram_regsOnly (off k : Nat) : RegsOnly s (s.readSram n off k).2.2 :=
  .foldl (fun t _ => t.countCheck_regsOnly n _ _) _

theorem State.readDesc_regsOnly (i : Nat) : RegsOnly s (s.readDesc n i).2.2 := by
  simp only [State.readDesc]
  exact s.readSram_regsOnly n _ 2

theorem State.mmaOf_regsOnly (w : Word) : RegsOnly s (s.mmaOf n w).2.2 := by
  simp only [State.mmaOf]
  exact (s.readDesc_regsOnly n _).trans (State.readDesc_regsOnly _ n _)

theorem State.runOf_regsOnly (w : Word) : RegsOnly s (s.runOf n w).2.2 := by
  simp only [State.runOf]
  exact (s.readDesc_regsOnly n _).trans (State.readDesc_regsOnly _ n _)

theorem State.arith_regsOnly (f : AFlags) : RegsOnly s (s.arith n f) := by
  unfold State.arith
  split
  · exact .refl s
  · exact ⟨_, rfl⟩

theorem State.fillBook_regsOnly (d : Desc) (g lanes j : Nat) (row : Nat → Bytes × Nat) (rows : SMap (Bytes × Nat)) :
    RegsOnly s (s.fillBook n d g lanes j row rows).1 := by
  unfold State.fillBook
  split
  · exact .refl s
  · refine List.foldlRecOn (motive := fun a : State × SMap (Bytes × Nat) => RegsOnly s a.1) _ _ (.refl s) fun a ha x _ => ?_
    split
    · exact ha
    · dsimp only
      exact ha.trans (a.1.readSram_regsOnly n x.2 1)

theorem State.fillBook_plain {d : Desc} (h : d.f.isVq = false) (g lanes j : Nat) (row : Nat → Bytes × Nat) (rows : SMap (Bytes × Nat)) :
    s.fillBook n d g lanes j row rows = (s, rows) := if_pos (by rw [h]; rfl)

theorem State.tallyCore_aside (i k : Nat) : Aside s (s.tallyCore n i k) := by
  unfold State.tallyCore
  split
  · exact .refl s
  · simp only [State.tally]
    split
    · exact .refl s
    · exact ⟨rfl, rfl⟩

theorem State.consumeIf_aside (b : Bool) : Aside s (s.consumeIf n b) := by
  unfold State.consumeIf State.consume
  refine .ite ?_ (.refl s)
  split
  · exact .refl s
  · exact .ite (.refl s) (.ite ⟨rfl, rfl⟩ ⟨rfl, rfl⟩)

theorem State.setSlice_aside (x : Slice) : Aside s (s.setSlice n x) := ⟨rfl, rfl⟩

theorem State.countBeat_aside (r : BeatRes) : Aside s (s.countBeat n r) := by
  cases r with
  | clean => exact .refl s
  | uncorrectable => exact (s.setField_regsOnly ..).aside
  | signature => exact (s.setField_regsOnly ..).aside
  | corrected ev =>
    unfold State.countBeat
    extract_lets u
    have hu : RegsOnly s u := s.setField_regsOnly ..
    cases ev with
    | none => exact hu.aside
    | some l =>
      dsimp only
      generalize hv : (u.setField _ _ _ _).setField _ _ _ _ = v
      have hv : Aside s v := hv ▸ ((hu.trans (u.setField_regsOnly ..)).trans (State.setField_regsOnly ..)).aside
      split
      · generalize hw : ((v.setSlice n _).setField _ _ _ _).setField _ _ _ _ = w
        have hw : Aside s w := hw ▸ (hv.trans (v.setSlice_aside n _)).trans ((State.setField_regsOnly ..).trans (State.setField_regsOnly ..)).aside
        split
        · exact hw.trans (w.recoverable_onlyPart ..).aside
        · exact hw
      · exact hv.trans (v.setSlice_aside n _)

end

/-! ## OPE_UPDATE (03 R77, R92) -/

section
variable {s : State} {n : CoreId} {o : EngineOp}

/-- An MMA that takes neither operand from the mesh misses no flit. -/
theorem State.noFlits_memory (hm : (s.core n).eng.mmas = [o]) (ha : o.a.src ≠ 2) (hb : o.b.src ≠ 2) (k : Nat) :
    s.noFlits n k = s.setCore n (s.core n) := by
  unfold State.noFlits
  simp only [hm, ha, hb, List.map_cons, List.map_nil, ↓reduceIte, Bool.or_self, List.any_cons, List.any_nil, Bool.false_eq_true]
  rw [← hm]

/-- Memory and the MMAs in flight on core n are as before. -/
structure MmasKept (n : Nat) (s t : State) : Prop where
  mem : t.mem = s.mem
  mmas : (t.core n).eng.mmas = (s.core n).eng.mmas

theorem MmasKept.refl (n : Nat) (s : State) : MmasKept n s s := ⟨rfl, rfl⟩

theorem MmasKept.trans {n : Nat} {s t u : State} (h : MmasKept n s t) (k : MmasKept n t u) : MmasKept n s u :=
  ⟨k.mem.trans h.mem, k.mmas.trans h.mmas⟩

theorem Aside.mmasKept {s t : State} (h : Aside s t) (n : Nat) : MmasKept n s t := ⟨h.mem, by rw [h.core]⟩

theorem State.setTiles_mmasKept (s : State) (n : Nat) (ts : SMap Tile) :
    MmasKept n s (s.setCore n { s.core n with eng := { (s.core n).eng with tiles := ts } }) := ⟨rfl, by simp⟩

theorem State.opeStep_mmasKept (s : State) (n : Nat) (o : EngineOp) (k : Nat) : MmasKept n s (s.opeStep n o k) := by
  unfold State.opeStep
  extract_lets xs ys c i r fl e u
  exact (s.setTiles_mmasKept n _).trans (((u.arith_regsOnly n fl).aside.trans (State.consumeIf_aside _ n _)).mmasKept n)

/-- The lookups that the steps of an MMA's next update have left to make (03 R74): the state, and what the MMA has read. -/
def State.lookedUp (s : State) (n : Nat) (o : EngineOp) : State × SMap (Bytes × Nat) :=
  (o.stepsAt o.k).foldl (fun (a : State × SMap (Bytes × Nat)) k => a.1.fillBook n o.b o.gB 16 (k / 8) (a.1.rowNow n a.2) a.2) (s, o.rowsB)

theorem State.lookedUp_regsOnly (s : State) (n : Nat) (o : EngineOp) : RegsOnly s (s.lookedUp n o).1 :=
  List.foldlRecOn (motive := fun a : State × SMap (Bytes × Nat) => RegsOnly s a.1) _ _ (.refl s)
    fun a ha k _ => ha.trans (a.1.fillBook_regsOnly n o.b o.gB 16 (k / 8) (a.1.rowNow n a.2) a.2)

theorem State.lookedUp_plain (s : State) (n : Nat) {o : EngineOp} (h : o.b.f.isVq = false) : (s.lookedUp n o).2 = o.rowsB :=
  List.foldlRecOn (motive := fun a : State × SMap (Bytes × Nat) => a.2 = o.rowsB) _ _ rfl
    fun a ha k _ => by rw [a.1.fillBook_plain n h, ha]

theorem State.exec_opeUpdate (hfree : s.coreFree n = true) (hrouter : s.routerDone n = true) (hm : (s.core n).eng.mmas = [o])
    (ha : o.a.src ≠ 2) (hb : o.b.src ≠ 2) (hdue : (s.core n).updateDue o = true) :
    ∃ t rows, exec (.opeUpdate n) s = .next t ∧ (t.core n).eng.mmas = [{ o with k := o.k + 1, rowsB := rows }] ∧ t.mem = s.mem ∧
      (o.b.f.isVq = false → rows = o.rowsB) := by
  have hz : (s.core n).eng.mmas.zipIdx.find? (fun x => (s.core n).updateDue x.1) = some (o, 0) := by
    rw [hm]
    simp [hdue]
  show ∃ t rows, execOpeUpdate n s = _ ∧ _
  unfold execOpeUpdate
  rw [if_neg (by simp [hfree, hrouter])]
  extract_lets s1 c e
  have hs1 : s1 = s.setCore n (s.core n) := by
    unfold s1
    rw [hm, List.find?_cons, hdue]
    exact State.noFlits_memory hm ha hb _
  have hc : c = s.core n := by
    unfold c
    rw [hs1, State.core_setCore_same]
  rw [hc, hz, hs1]
  dsimp only
  -- the tile as the first update finds it, the codebook words it takes, its steps
  generalize hu : (if o.k = 0 then State.setCore _ n _ else _) = u
  have hbegun : MmasKept n s u := by
    rw [← hu]
    split
    · exact ⟨rfl, by simp [e, hc]⟩
    · exact ⟨rfl, by simp⟩
  have hbook := (u.lookedUp_regsOnly n o).aside.mmasKept n
  have hrows : o.b.f.isVq = false → (u.lookedUp n o).2 = o.rowsB := u.lookedUp_plain n
  unfold State.lookedUp at hbook hrows
  generalize List.foldl _ (u, o.rowsB) _ = f at hbook hrows
  generalize hv : List.foldl _ f.1 _ = v
  have hsteps : MmasKept n f.1 v :=
    hv ▸ List.foldlRecOn (motive := MmasKept n f.1) _ _ (.refl n f.1) fun w hw k _ => hw.trans (w.opeStep_mmasKept n _ k)
  obtain ⟨hmem, hmmas⟩ := (hbegun.trans hbook).trans hsteps
  exact ⟨_, f.2, rfl, by simp [hmmas, hm], hmem, hrows⟩

/-- A flit of a, the only one it has to take, is missed when its window has passed. -/
theorem State.exec_noFlit (hfree : s.coreFree n = true) (hm : (s.core n).eng.mmas = [o]) (ha : o.a.src = 2) (hb : o.b.src ≠ 2)
    (hseen : flitsSeen o.rowsA = 0) (hcount : flitCount o.a (mmaK o.ctl) = 1) (hlate : o.flitEnd o.a 0 < (s.core n).seq.now) :
    ∃ t, exec (.noFlit n) s = .next t ∧ t.regs = (s.orReg (Reg.engineStatus n) 8).regs ∧
      (t.core n).eng.mmas = [{ o with rowsA := SMap.put o.rowsA (flitKey 0) ([], 255) }] := by
  have hmiss : missFlits (flitCount o.a (mmaK o.ctl)) o o.a (s.core n).seq.now o.rowsA = (SMap.put o.rowsA (flitKey 0) ([], 255), true) := by
    simp [hcount, missFlits, hseen, hlate]
  have hnone : s.noFlits n (s.core n).seq.now = (s.setCore n { s.core n with eng := { (s.core n).eng with
      mmas := [{ o with rowsA := SMap.put o.rowsA (flitKey 0) ([], 255) }] } }).orReg (Reg.engineStatus n) 8 := by
    unfold State.noFlits
    simp only [hm, ha, hb, hmiss, List.map_cons, List.map_nil, ↓reduceIte, Bool.or_false, List.any_cons, List.any_nil]
  have hexec : exec (.noFlit n) s = .next (s.noFlits n (s.core n).seq.now) := congrArg Host.Outcome.next (if_pos hfree)
  rw [hnone] at hexec
  exact ⟨_, hexec, rfl, by simp⟩

end

/-! ## MVP_PRODUCT (03 R87) -/

section
variable {s : State} {n : CoreId} {o : EngineOp}

/-- A step of a run leaves its products on the way, due two cycles later. -/
theorem State.runStep_spec (s : State) (n : Nat) (o : EngineOp) (k : Nat) : (s.runStep n o k).mem = s.mem ∧ ∃ ws vs, (s.runStep n o k).core n =
    { s.core n with seq := { (s.core n).seq with pend := (s.core n).seq.pend ++
      [⟨(s.core n).seq.now + 2, o.start, 4, o.bundle, none, .product ws vs o.runInt (k == 0 && !mvpAcc o.ctl)⟩] } } := by
  unfold State.runStep
  extract_lets d x row a0 ws vs e c q s1 s2 s3 fl
  have hreads : RegsOnly s2 s3 := .foldl (fun t r => t.readSram_regsOnly n (32 * r) 4) _
  have haside : Aside s1 ((s3.arith n fl).consumeIf n ((ws ++ vs).any (·.poison))) :=
    (((s1.tallyCore_aside n 0 _).trans hreads.aside).trans (s3.arith_regsOnly n fl).aside).trans (State.consumeIf_aside _ n _)
  refine ⟨haside.mem, ws, vs, ?_⟩
  rw [haside.core]
  exact State.core_setCore_same _ _ _

theorem State.exec_mvpProduct (hfree : s.coreFree n = true) (hm : (s.core n).eng.mvps = [o]) (hdue : s.productDue n o = true)
    (hvq : o.a.f.isVq = false) :
    ∃ t ws vs, exec (.mvpProduct n) s = .next t ∧ (t.core n).eng.mvps = [{ o with k := o.k + 1 }] ∧ t.mem = s.mem ∧
      (t.core n).eng.m = (s.core n).eng.m ∧ (t.core n).seq.pend = (s.core n).seq.pend ++
        [⟨(s.core n).seq.now + 2, o.start, 4, o.bundle, none, .product ws vs o.runInt (o.k == 0 && !mvpAcc o.ctl)⟩] := by
  have hz : (s.core n).eng.mvps.zipIdx.find? (fun x => s.productDue n x.1) = some (o, 0) := by
    rw [hm]
    simp [hdue]
  obtain ⟨hmem, ws, vs, hcore⟩ := s.runStep_spec n o o.k
  show ∃ t ws vs, execMvpProduct n s = _ ∧ _
  unfold execMvpProduct
  rw [if_neg (by simp [hfree]), hz]
  dsimp only
  rw [s.fillBook_plain n hvq]
  dsimp only
  generalize s.runStep n o o.k = u at hmem hcore
  refine ⟨_, ws, vs, rfl, ?_, hmem, ?_, ?_⟩ <;> simp [hcore, hm, replaceAt]

end

/-! ## SLICE_BEAT (05 R153, 07 R214) -/

section
variable {s : State} {n : CoreId} {o : EngineOp}

theorem State.ldsBeat_eng (s : State) (n : Nat) (o : EngineOp) : ((s.ldsBeat n o).core n).eng = (s.core n).eng := by
  unfold State.ldsBeat
  extract_lets i c port r b poi e u c' q
  split
  · exact congrArg Core.eng ((s.tallyCore_aside n 3 32).core n)
  · have hu : Aside s u := (s.countBeat_aside n _).trans (State.tallyCore_aside _ n 2 32)
    rw [State.core_setCore_same, ← hu.core]

theorem State.exec_sliceBeat (hfree : s.coreFree n = true) (hm : (s.core n).eng.mvps = []) (hp : (s.core n).eng.ports = [o])
    (hmore : o.beats + 1 < o.beatCount) (hdue : o.beatAt (s.fastClock n) ≤ (s.core n).seq.now) :
    ∃ t, exec (.sliceBeat n) s = .next t ∧ (t.core n).eng.ports = [{ o with beats := o.beats + 1 }] := by
  have hlds : (s.core n).eng.ports.zipIdx.find? (fun x => decide (x.1.beats < x.1.beatCount)) = some (o, 0) := by
    rw [hp]
    simp [Nat.lt_of_succ_lt hmore]
  have heng := s.ldsBeat_eng n o
  show ∃ t, execSliceBeat n s = _ ∧ _
  unfold execSliceBeat
  rw [if_neg (by simp [hfree])]
  extract_lets c fast now lds runs useLds
  have hruns : runs = none := by
    unfold runs c
    rw [hm]
    rfl
  have huse : useLds = true := by
    unfold useLds lds c
    rw [hlds, hruns]
  rw [if_pos huse, show lds = some (o, 0) from hlds]
  dsimp only
  rw [if_neg (Nat.not_lt.2 hdue), if_pos (show o.beats + 1 < EngineOp.beatCount { o with beats := o.beats + 1 } from hmore)]
  exact ⟨_, rfl, by simp [heng, hp, replaceAt]⟩

end

end Sys2Proof.Machine

namespace Sys2Proof.Machine

/-! ## What an engine reads in its issue cycle (03 R66, R77, R86, 07 R206) -/

/-- How long before the update that it feeds a row is read, but for the elements of a K-MINOR operand (07 R206). -/
def Desc.readLead (d : Desc) : Nat := if d.orient = 3 then 6 else 4

section
variable {d : Desc}

/-- An operand whose lead is longer than its reads' reads nothing in the cycle of issue. -/
theorem Desc.opeReads_issue {lead : Nat} (helems : d.src = 0 → (if d.orient = 1 then 20 else d.readLead) < lead)
    (hscales : d.scaled = true → d.readLead < lead) (g k s4 : Nat) (chk : Bool) : d.opeReads g k lead s4 chk 0 = [] := by
  unfold Desc.opeReads
  extract_lets e y p p' blocks dd elems gg gg' y' scales
  have hdd : dd = d.readLead := rfl
  have helems : elems = [] := by
    unfold elems
    by_cases hsrc : d.src = 0
    · have hlead := helems hsrc
      rw [if_neg (not_not.2 hsrc)]
      split at hlead
      · rw [if_pos ‹_›, if_pos (by omega)]
      · rw [if_neg ‹_›, if_pos (by omega)]
    · exact if_pos hsrc
  have hscales : scales = [] := by
    unfold scales
    cases hs : d.scaled with
    | false => rfl
    | true =>
      have hlead := hscales hs
      rw [if_neg (by decide), if_pos (by omega)]
  rw [helems, hscales]
  rfl

/-- An operand that an MMA may take is in memory, comes unquantised along K from the mesh, or is a chain buffer (03 R66). -/
theorem Desc.legalFor_source {u : Use} (hu : u = .opeA ∨ u = .opeB) (h : d.legalFor u = true) :
    d.src = 0 ∨ (d.src = 2 ∧ d.orient = 0) ∨ d.src = 3 := by
  unfold Desc.legalFor at h
  rcases hu with rfl | rfl <;> grind

/-- The lead of an MMA's operand is longer than its reads' (03 R77, R92). -/
theorem Desc.opeReads_legal {u : Use} (hu : u = .opeA ∨ u = .opeB) (h : d.legalFor u = true) {delay lead : Nat}
    (hmesh : d.src ≠ 2 ∨ (if d.scaled then 5 else 1) ≤ delay) (hlead : d.lead delay ≤ lead) (g k s4 : Nat) (chk : Bool) :
    d.opeReads g k lead s4 chk 0 = [] := by
  have hsource := Desc.legalFor_source hu h
  refine Desc.opeReads_issue (fun hsrc => ?_) (fun hs => ?_) g k s4 chk
  · refine Nat.lt_of_lt_of_le ?_ hlead
    simp only [Desc.lead, Desc.readLead, hsrc]
    grind
  · refine Nat.lt_of_lt_of_le ?_ hlead
    simp only [Desc.lead, Desc.readLead]
    simp only [hs] at hmesh
    have h3 : d.src ≠ 3 := by
      intro h3
      simp [Desc.scaled, h3] at hs
    grind

/-- A quantised operand of an MMA is b, in memory, with indices along K (03 R66). -/
theorem Desc.legalFor_vq (h : d.legalFor .opeB = true) (hvq : d.f.isVq = true) : d.src = 0 ∧ d.orient = 3 := by
  have hplain : ∀ c ∈ [0, 1, 9], ((Fmt.ofCode c).getD .fp8e4m3).isVq = false := by decide
  have hchain : d.src ≠ 3 ∨ [0, 1, 9].contains d.fmt = false := by
    by_contra hc
    obtain ⟨-, hfmt⟩ := not_or.1 hc
    have := hplain d.fmt (List.contains_iff_mem.1 (Bool.not_eq_false _ ▸ hfmt))
    exact Bool.false_ne_true (this.symm.trans hvq)
  unfold Desc.legalFor at h
  simp only [hvq] at h
  grind

end

/-- An MMA whose operands 03 R66 and R92 allow reads nothing in its issue cycle. -/
theorem EngineOp.mmaReads_issue {o : EngineOp} (ha : o.a.legalFor .opeA = true) (hb : o.b.legalFor .opeB = true)
    (hma : o.a.src ≠ 2 ∨ (if o.a.scaled then 5 else 1) ≤ mmaDelay o.ctl) (hmb : o.b.src ≠ 2 ∨ (if o.b.scaled then 5 else 1) ≤ mmaDelay o.ctl) :
    o.mmaReads o.start = [] := by
  unfold EngineOp.mmaReads
  rw [if_neg (Nat.lt_irrefl _), Nat.sub_self]
  extract_lets r chk
  rw [Desc.opeReads_legal (lead := o.mmaL) (Or.inl rfl) ha hma (Nat.le_max_left ..),
    Desc.opeReads_legal (lead := o.mmaL) (Or.inr rfl) hb hmb (Nat.le_max_right ..)]
  rfl

/-- Nor does it look up a codebook word (03 R73). -/
theorem EngineOp.mmaBook_issue {o : EngineOp} (hb : o.b.legalFor .opeB = true) : o.mmaBook o.start = [] := by
  unfold EngineOp.mmaBook
  split
  · rfl
  · next h =>
    have hvq : o.b.f.isVq = true := by
      by_contra hvq
      exact h (Or.inl (by simpa using hvq))
    obtain ⟨hsrc, horient⟩ := Desc.legalFor_vq hb hvq
    have hlead : 7 ≤ o.mmaL := le_trans (by simp [Desc.lead, hsrc, horient]) (Nat.le_max_right (o.a.lead (mmaDelay o.ctl)) _)
    extract_lets y
    have hy : y = 0 := Nat.sub_self _
    rw [List.filter_eq_nil_iff.2, List.flatMap_nil]
    intro j _
    have hfar : ¬ o.octetAt j ≤ y + 4 := by
      unfold EngineOp.octetAt
      omega
    simp [hfar]

/-- A run's first read comes after its issue cycle (03 R86). -/
theorem EngineOp.mvpReads_issue (o : EngineOp) : o.mvpReads o.start = [] := by
  unfold EngineOp.mvpReads Desc.mvpReads mvpLead
  rw [if_neg (Nat.lt_irrefl _), Nat.sub_self]
  grind

theorem EngineOp.mvpBook_issue (o : EngineOp) (fast : Bool) : o.mvpBook fast o.start = [] := by
  unfold EngineOp.mvpBook mvpLead
  grind

/-- The engines read nothing in a cycle in which none of the operations in flight does. -/
theorem State.engineReads_nil {s : State} {n k : Nat} (hm : ∀ o ∈ (s.core n).eng.mmas, o.mmaReads k = [] ∧ o.mmaBook k = [])
    (hv : ∀ o ∈ (s.core n).eng.mvps, o.mvpReads k = [] ∧ ∀ fast, o.mvpBook fast k = []) (hp : (s.core n).eng.ports = []) :
    s.engineReads n k = [] := by
  unfold State.engineReads
  extract_lets e fast mk book
  have hmmas : e.mmas.zipIdx.flatMap (fun x => (x.1.mmaReads k).map (mk 0 3 x) ++ (x.1.mmaBook k).map (book 0 3 x)) = [] := by
    refine List.flatMap_eq_nil_iff.2 fun x hx => ?_
    obtain ⟨hreads, hbook⟩ := hm x.1 (List.fst_mem_of_mem_zipIdx hx)
    rw [hreads, hbook]
    rfl
  have hmvps : e.mvps.zipIdx.flatMap (fun x => (x.1.mvpReads k).map (mk 1 4 x) ++ (x.1.mvpBook fast k).map (book 1 4 x)) = [] := by
    refine List.flatMap_eq_nil_iff.2 fun x hx => ?_
    obtain ⟨hreads, hbook⟩ := hv x.1 (List.fst_mem_of_mem_zipIdx hx)
    rw [hreads, hbook]
    rfl
  rw [hmmas, hmvps, show e.ports = [] from hp]
  rfl

end Sys2Proof.Machine

namespace Sys2Proof.Machine

/-! ## What an engine's slot word leaves in flight (03 R79, R80, R89) -/

/-- In t core n has only more effects in flight than in s, with which its cycle may still end as a calm one; memory and the engines are as before. -/
structure Issued (n : Nat) (s t : State) : Prop where
  mem : t.mem = s.mem
  eng : (t.core n).eng = (s.core n).eng
  now : (t.core n).seq.now = (s.core n).seq.now
  calm : (s.core n).Calm → (t.core n).Calm

theorem Issued.refl (n : Nat) (s : State) : Issued n s s := ⟨rfl, rfl, rfl, id⟩

theorem Issued.trans {n : Nat} {s t u : State} (h : Issued n s t) (k : Issued n t u) : Issued n s u :=
  ⟨k.mem.trans h.mem, k.eng.trans h.eng, k.now.trans h.now, k.calm ∘ h.calm⟩

theorem Issued.foldl {n : Nat} {s : State} {ι : Type} {f : State → ι → State} (h : ∀ t a, Issued n t (f t a)) (l : List ι) :
    Issued n s (l.foldl f s) :=
  List.foldlRecOn (motive := fun t => Issued n s t) l f (.refl n s) fun t ht a _ => ht.trans (h t a)

theorem Aside.issued {s t : State} (h : Aside s t) (n : Nat) : Issued n s t := by
  refine ⟨h.mem, ?_, ?_, ?_⟩ <;> rw [h.core]
  exact id

/-- An effect that is no flit, and is a beat for the epilogue input where it is due at once. -/
theorem State.slotLater_issued (s : State) (n slot dt : Nat) {e : Effect} (hsend : e.isSend = false) (hdue : dt = 0 → e.presents = true) :
    Issued n s (s.slotLater n slot dt e) := by
  refine ⟨rfl, by simp [State.slotLater, Core.later], by simp [State.slotLater, Core.later], fun h q hq => ?_⟩
  rw [State.slotLater, State.core_setCore_same] at hq ⊢
  rcases List.mem_append.1 hq with hq | hq
  · exact h q hq
  · obtain rfl := List.mem_singleton.1 hq
    exact ⟨hsend, fun hlate => hdue (by simp only [Core.later] at hlate; omega)⟩

theorem State.chkFail_issued (s : State) (n : Nat) (b : Bool) : Issued n s (s.chkFail n b) := by
  unfold State.chkFail
  split
  · exact (RegsOnly.trans (t := s.orReg (Reg.engineStatus n) 4) ⟨_, rfl⟩ (State.setField_regsOnly ..)).aside.issued n
  · exact .refl n s

/-- The state with core n's engines as given. -/
def State.setEng (s : State) (n : Nat) (e : EngState) : State := s.setCore n { s.core n with eng := e }

/-- The cycle in which an engine's slot word issues ends with the engines as the word has left them, where nothing else was in flight and
no operation reads in its issue cycle. -/
theorem Issued.endCycle {s v u : State} {n : Nat} {e : EngState} (h : Issued n (v.setEng n e) u) (hv : Aside s v)
    (hpend : (s.core n).seq.pend = []) (hm : ∀ o ∈ e.mmas, o.mmaReads (s.core n).seq.now = [] ∧ o.mmaBook (s.core n).seq.now = [])
    (hr : ∀ o ∈ e.mvps, o.start = (s.core n).seq.now) (hp : e.ports = []) :
    (u.endCycle n).mem = s.mem ∧ (u.endCycle n).regs = u.regs ∧ ((u.endCycle n).core n).eng = e := by
  have hcore : (v.setEng n e).core n = { s.core n with eng := e } := by rw [State.setEng, State.core_setCore_same, hv.core]
  have heng : (u.core n).eng = e := by rw [h.eng, hcore]
  have hnow : (u.core n).seq.now = (s.core n).seq.now := by rw [h.now, hcore]
  have hcalm : (u.core n).Calm := h.calm (by rw [hcore]; intro q hq; simp [hpend] at hq)
  have hreads : u.engineReads n (u.core n).seq.now = [] := by
    rw [hnow]
    refine State.engineReads_nil ?_ ?_ ?_ <;> rw [heng]
    · exact hm
    · intro o ho
      rw [← hr o ho]
      exact ⟨o.mvpReads_issue, o.mvpBook_issue⟩
    · exact hp
  obtain ⟨w, l, hend⟩ := State.endCycle_calm hcalm hreads
  rw [hend]
  exact ⟨h.mem.trans hv.mem, rfl, by simp [Core.after, heng]⟩

/-! ## The OPE slot (05 R157) -/

theorem leastCode_eq_none {xs : List Nat} (h : leastCode xs = none) : xs = [] := by
  cases xs with
  | nil => rfl
  | cons => cases h

section
variable {s : State} {n : CoreId} {w : Word}

theorem SlotActs.opePerforms (h : SlotActs s n 3 w) : s.loneSlot n 3 w = (s.opePerform n w).endCycle n := by
  obtain ⟨-, -, -, hacts⟩ := id h
  rw [loneSlot_acts h (fun e => nomatch e), State.slotPerform, if_neg (not_not.2 hacts)]

theorem SlotActs.mvpPerforms (h : SlotActs s n 4 w) : s.loneSlot n 4 w = (s.mvpPerform n w).endCycle n := by
  obtain ⟨-, -, -, hacts⟩ := id h
  rw [loneSlot_acts h (fun e => nomatch e), State.slotPerform, if_neg (not_not.2 hacts)]

/-- An OPE word that acts raises no fault. -/
theorem SlotActs.opeFaults (h : SlotActs s n 3 w) : s.opeFaults n w = [] := by
  obtain ⟨-, -, hfault, hacts⟩ := h
  have hacts : (s.core n).acts w = true := by simpa [slotActs] using hacts
  unfold State.slotFault at hfault
  extract_lets c a code at hfault
  split at hfault
  · next hslot => exact absurd hslot.1 (by decide)
  split at hfault
  · cases hfault
  exact leastCode_eq_none (Option.map_eq_none_iff.1 hfault)

/-- The operands of an MMA that acts are legal, and what they take from the mesh comes after the MMA's issue (03 R66, R92). -/
theorem SlotActs.mmaValues (h : SlotActs s n 3 w) (hop : swOp w = 1) : (s.core n).mmaValues (s.mmaOf n w).1 = true := by
  have hnone := h.opeFaults
  unfold State.opeFaults at hnone
  rw [hop] at hnone
  simp only [List.append_eq_nil_iff] at hnone
  obtain ⟨⟨⟨-, hvalues⟩, -⟩, hread⟩ := hnone
  have hknown : (s.mmaOf n w).2.1 = false := by simpa using hread
  simpa [hknown] using hvalues

theorem Core.mmaValues_iff {c : Core} {o : EngineOp} (h : c.mmaValues o = true) : (o.a.legalFor .opeA = true ∧ o.b.legalFor .opeB = true) ∧
    (o.a.src ≠ 2 ∨ (if o.a.scaled then 5 else 1) ≤ mmaDelay o.ctl) ∧ (o.b.src ≠ 2 ∨ (if o.b.scaled then 5 else 1) ≤ mmaDelay o.ctl) := by
  unfold Core.mmaValues at h
  simp only [Bool.and_eq_true, Bool.or_eq_true, bne_iff_ne, decide_eq_true_eq] at h
  obtain ⟨⟨⟨⟨⟨⟨⟨⟨-, ha⟩, hb⟩, -⟩, -⟩, -⟩, -⟩, hma⟩, hmb⟩ := h
  exact ⟨⟨ha, hb⟩, hma, hmb⟩

theorem State.opePerform_mma (hop : swOp w = 1) : Issued n ((s.mmaOf n w).2.2.setEng n
    { (s.core n).eng.prune (s.core n).seq.now with mmas := ((s.core n).eng.prune (s.core n).seq.now).mmas ++ [(s.mmaOf n w).1] }) (s.opePerform n w) := by
  have hcore := (s.mmaOf_regsOnly n w).aside.core n
  unfold State.opePerform State.setEng
  rw [hop]
  simp only [hcore]
  exact .refl _ _

/-- The operation that a load or a drain puts on its engine's list. -/
def Core.slotOp (c : Core) (w : Word) (g : Nat) : EngineOp :=
  { word := w, ctl := 0, gA := g, gB := 0, descA := 0, descB := 0, start := c.seq.now, k := 0, bundle := c.seq.next,
    rowsA := [], rowsB := [], beats := 0 }

/-- The engines as a word of core c that issues now finds them. -/
def Core.engNow (c : Core) : EngState := c.eng.prune c.seq.now

/-- The engines after a load: its operation on the list, its tile's check valid with TOL 0 (03 R79, R82). -/
def Core.engLoad (c : Core) (w : Word) : EngState :=
  { c.engNow with
    loads := c.engNow.loads ++ [c.slotOp w (c.a (bits w 16 4)).toNat]
    tiles := SMap.put c.engNow.tiles (bits w 21 2)
      { SMap.get Tile.reset c.engNow.tiles (bits w 21 2) with isInt := bits w 20 1 == 1, chkValid := true, chkTol := 0 } }

theorem State.opePerform_load (hop : swOp w = 2) : Issued n (s.setEng n ((s.core n).engLoad w)) (s.opePerform n w) := by
  unfold State.opePerform
  rw [hop]
  exact (Issued.foldl (fun t r => t.slotLater_issued n 3 (r + 1) rfl (fun h => nomatch h)) _).trans (State.slotLater_issued _ n 3 34 rfl (fun h => nomatch h))

theorem State.opePerform_drain (hop : swOp w = 3) :
    Issued n (s.setEng n { (s.core n).engNow with drains := (s.core n).engNow.drains ++ [(s.core n).slotOp w 0] }) (s.opePerform n w) := by
  unfold State.opePerform
  rw [hop]
  exact Issued.foldl (fun t x => (t.chkFail_issued n _).trans (Issued.foldl (fun u c => u.slotLater_issued n 3 c rfl fun _ => rfl) _)) _

end

/-! ## The MVP slot (05 R158) -/

section
variable {s : State} {n : CoreId} {w : Word}

theorem State.openPort_issued (s : State) (n lo hi : Nat) : Issued n s (s.openPort n lo hi) := by
  refine ⟨rfl, ?_, ?_, ?_⟩ <;> rw [State.openPort, State.core_setCore_same]
  exact id

/-- The engines after a run has issued: its operation on the list, the types of its vectors set where it starts them from zero (03 R84). -/
def EngState.withRun (e : EngState) (w : Word) (o : EngineOp) : EngState :=
  { e with
    mvps := e.mvps ++ [o]
    mInt := if mvpAcc o.ctl then e.mInt else (List.range (mvpV w)).foldl (fun m v => SMap.set false m v o.runInt) e.mInt }

theorem State.mvpPerform_run (hop : swOp w = 1) : Issued n ((s.runOf n w).2.2.setEng n
    (((s.core n).eng.pruneRuns (s.fastClock n) (s.core n).seq.now).withRun w (s.runOf n w).1)) (s.mvpPerform n w) := by
  have hcore := (s.runOf_regsOnly n w).aside.core n
  unfold State.mvpPerform State.setEng
  rw [hop]
  simp only [hcore]
  split
  · exact State.openPort_issued ..
  · exact .refl _ _

/-- The drain buffer with the results of V vectors (03 R89). -/
def EngState.drained (e : EngState) (v : Nat) : SMap Lane :=
  (List.range (64 * v)).foldl (fun m i => SMap.set Lane.zero m i (SMap.get Lane.zero e.m i)) e.drainBuf

theorem EngState.drained_get (e : EngState) {v i : Nat} (hi : i < 64 * v) :
    SMap.get Lane.zero (e.drained v) i = SMap.get Lane.zero e.m i := by
  refine foldl_reaches (Pre := fun _ => True) (Done := fun m => SMap.get Lane.zero m i = SMap.get Lane.zero e.m i)
    (List.mem_range.2 hi) (fun _ _ _ _ _ => trivial) (fun m _ => SMap.get_set_same ..) (fun m hm j _ hj => ?_) trivial
  exact (SMap.get_set_other _ _ _ _ (hj List.nodup_range).symm).trans hm

/-- The engines after a drain of result vectors. -/
def Core.engResults (c : Core) (w : Word) : EngState :=
  { c.engNow with drains := c.engNow.drains ++ [c.slotOp w 0], drainBuf := c.engNow.drained (bits w 20 3 + 1) }

theorem State.mvpPerform_drain (hop : swOp w = 2) :
    Issued n (s.setEng n ((s.core n).engResults w)) (s.mvpPerform n w) ∧ (s.mvpPerform n w).regs = s.regs := by
  unfold State.mvpPerform
  rw [hop]
  refine ⟨Issued.foldl (fun t b => t.slotLater_issued n 4 b rfl fun _ => rfl) _, foldl_frame State.regs ?_ _⟩
  exact fun _ _ _ => rfl

end

/-! ## The five slot words on their own -/

section
variable {s : State} {n : CoreId} {w : Word} (hq : Quiet s n) (hdrains : (s.core n).eng.drains = [])
include hq

theorem State.exec_opeMma (h : SlotActs s n 3 (withOp w 1)) : ∃ t, exec (.opeMma n w) s = .next t ∧
    (t.core n).eng.mmas = [(s.mmaOf n (withOp w 1)).1] ∧ t.mem = s.mem := by
  obtain ⟨hpend, hmmas, hmvps, hports, -⟩ := hq
  have hop := swOp_withOp w 1 (by decide)
  obtain ⟨⟨ha, hb⟩, hma, hmb⟩ := Core.mmaValues_iff (h.mmaValues hop)
  have hlist : ((s.core n).eng.prune (s.core n).seq.now).mmas = [] := by simp [EngState.prune, hmmas]
  have hreads : ∀ o ∈ [(s.mmaOf n (withOp w 1)).1], o.mmaReads (s.core n).seq.now = [] ∧ o.mmaBook (s.core n).seq.now = [] := by
    intro o ho
    obtain rfl := List.mem_singleton.1 ho
    exact ⟨EngineOp.mmaReads_issue ha hb hma hmb, EngineOp.mmaBook_issue hb⟩
  have hissued := State.opePerform_mma (s := s) (n := n) hop
  rw [hlist] at hissued
  obtain ⟨hmem, -, heng⟩ := hissued.endCycle (s.mmaOf_regsOnly n _).aside hpend hreads (by simp [EngState.prune, hmvps]) hports
  exact ⟨_, congrArg Host.Outcome.next h.opePerforms, by rw [heng]; rfl, hmem⟩

theorem State.exec_opeLoad (h : SlotActs s n 3 (withOp w 2)) : ∃ t, exec (.opeLoad n w) s = .next t ∧
    (t.core n).eng = (s.core n).engLoad (withOp w 2) ∧ t.mem = s.mem := by
  obtain ⟨hpend, hmmas, hmvps, hports, -⟩ := hq
  obtain ⟨hmem, -, heng⟩ := (State.opePerform_load (swOp_withOp w 2 (by decide))).endCycle (.refl s) hpend
    (by simp [Core.engLoad, Core.engNow, EngState.prune, hmmas]) (by simp [Core.engLoad, Core.engNow, EngState.prune, hmvps]) hports
  exact ⟨_, congrArg Host.Outcome.next h.opePerforms, heng, hmem⟩

include hdrains

theorem State.exec_opeDrain (h : SlotActs s n 3 (withOp w 3)) : ∃ t, exec (.opeDrain n w) s = .next t ∧
    (t.core n).eng.drains = [(s.core n).slotOp (withOp w 3) 0] ∧ t.mem = s.mem := by
  obtain ⟨hpend, hmmas, hmvps, hports, -⟩ := hq
  obtain ⟨hmem, -, heng⟩ := (State.opePerform_drain (s := s) (n := n) (swOp_withOp w 3 (by decide))).endCycle (.refl s) hpend
    (by simp [Core.engNow, EngState.prune, hmmas]) (by simp [Core.engNow, EngState.prune, hmvps]) hports
  exact ⟨_, congrArg Host.Outcome.next h.opePerforms, by rw [heng]; simp [Core.engNow, EngState.prune, hdrains], hmem⟩

omit hdrains

theorem State.exec_mvpRun (h : SlotActs s n 4 (withOp w 1)) : ∃ t, exec (.mvpRun n w) s = .next t ∧
    (t.core n).eng.mvps = [(s.runOf n (withOp w 1)).1] ∧ t.mem = s.mem := by
  obtain ⟨hpend, hmmas, hmvps, hports, -⟩ := hq
  have hlist : ((s.core n).eng.pruneRuns (s.fastClock n) (s.core n).seq.now).mvps = [] := by simp [EngState.pruneRuns, hmvps]
  obtain ⟨hmem, -, heng⟩ := (State.mvpPerform_run (s := s) (n := n) (swOp_withOp w 1 (by decide))).endCycle (s.runOf_regsOnly n _).aside hpend
    (by simp [EngState.withRun, EngState.pruneRuns, hmmas]) (fun o ho => by
      rw [EngState.withRun, hlist] at ho
      obtain rfl := List.mem_singleton.1 ho
      rfl) hports
  exact ⟨_, congrArg Host.Outcome.next h.mvpPerforms, by rw [heng, EngState.withRun, hlist]; rfl, hmem⟩

theorem State.exec_mvpDrain (h : SlotActs s n 4 (withOp w 2)) : ∃ t, exec (.mvpDrain n w) s = .next t ∧
    (t.core n).eng = (s.core n).engResults (withOp w 2) ∧ t.mem = s.mem ∧ t.regs = s.regs := by
  obtain ⟨hpend, hmmas, hmvps, hports, -⟩ := hq
  obtain ⟨hissued, hregs⟩ := State.mvpPerform_drain (s := s) (n := n) (swOp_withOp w 2 (by decide))
  obtain ⟨hmem, hregs', heng⟩ := hissued.endCycle (.refl s) hpend (by simp [Core.engResults, Core.engNow, EngState.prune, hmmas])
    (by simp [Core.engResults, Core.engNow, EngState.prune, hmvps]) hports
  exact ⟨_, congrArg Host.Outcome.next h.mvpPerforms, heng, hmem, hregs'.trans hregs⟩

end

/-! ## The obligation: five slot words, then four steps -/

section
variable {s : State} {n : CoreId} {w : Word}

theorem State.mmaOf_fields (op : Nat) : let o := (s.mmaOf n (withOp w op)).1
    o.word = withOp w op ∧ o.ctl = (s.core n).s (bits w 1 5) ∧ o.gA = ((s.core n).a (2 * bits w 6 3)).toNat ∧
      o.gB = ((s.core n).a (2 * bits w 6 3 + 1)).toNat ∧ o.start = (s.core n).seq.now ∧ o.k = 0 := by
  rw [← bits_withOp w op 1 5 (by decide), ← bits_withOp w op 6 3 (by decide)]
  exact ⟨rfl, rfl, rfl, rfl, rfl, rfl⟩

theorem State.runOf_fields (op : Nat) : let o := (s.runOf n (withOp w op)).1
    o.word = withOp w op ∧ o.ctl = (s.core n).s (bits w 0 5) ∧ o.start = (s.core n).seq.now ∧ o.k = 0 := by
  rw [← bits_withOp w op 0 5 (by decide)]
  exact ⟨rfl, rfl, rfl, rfl⟩

/-- The tile that a load fills, as the load's issue leaves it (03 R82). -/
theorem Core.engLoad_tile (c : Core) (w : Word) : let t := SMap.get Tile.reset (c.engLoad w).tiles (bits w 21 2)
    t.chkValid = true ∧ t.chkTol = 0 ∧ t.isInt = (bits w 20 1 == 1) := by
  simp [Core.engLoad]

end

/-- Settles O15: each slot word's engines after its issue, then each step's lemma. -/
theorem engineSlots : Obligations.EngineSlots := by
  unfold Obligations.EngineSlots
  refine ⟨fun s n w hq hdrains => ?slots, fun s n => ⟨?update, ?product, ?beat, ?noFlit⟩⟩
  case slots =>
    intro c now
    refine ⟨fun h => ?mma, fun h => ?load, fun h => ?drain, fun h => ?run, fun h => ?results⟩
    case mma =>
      obtain ⟨t, hexec, hlist, hmem⟩ := State.exec_opeMma hq h
      obtain ⟨hword, hctl, hA, hB, hstart, hk⟩ := State.mmaOf_fields (s := s) (n := n) (w := w) 1
      exact ⟨t, _, hexec, hlist, hword, hctl, hA, hB, hstart, hk, hmem⟩
    case load =>
      obtain ⟨t, hexec, heng, hmem⟩ := State.exec_opeLoad hq h
      have htile := c.engLoad_tile (withOp w 2)
      have haddr : (c.slotOp (withOp w 2) (c.a (bits (withOp w 2) 16 4)).toNat).gA = (c.a (bits w 16 4)).toNat := by
        rw [bits_withOp w 2 16 4 (by decide)]
        rfl
      rw [bits_withOp w 2 21 2 (by decide), bits_withOp w 2 20 1 (by decide)] at htile
      refine ⟨t, c.slotOp (withOp w 2) (c.a (bits (withOp w 2) 16 4)).toNat, hexec, ?_, rfl, haddr, rfl, hmem, ?_⟩
      · rw [heng]
        exact List.mem_append_right _ (List.mem_singleton.2 rfl)
      · rw [heng]
        exact htile
    case drain =>
      obtain ⟨t, hexec, hlist, hmem⟩ := State.exec_opeDrain hq hdrains h
      exact ⟨t, _, hexec, hlist, rfl, rfl, hmem⟩
    case run =>
      obtain ⟨t, hexec, hlist, hmem⟩ := State.exec_mvpRun hq h
      obtain ⟨hword, hctl, hstart, hk⟩ := State.runOf_fields (s := s) (n := n) (w := w) 1
      exact ⟨t, _, hexec, hlist, hword, hctl, hstart, hk, hmem⟩
    case results =>
      obtain ⟨t, hexec, heng, hmem, hregs⟩ := State.exec_mvpDrain hq h
      have hbits := bits_withOp w 2 20 3 (by decide)
      refine ⟨t, c.slotOp (withOp w 2) 0, hexec, ?_, rfl, rfl, hmem, hregs, fun i hi => ?_⟩
      · rw [heng]
        simp [Core.engResults, Core.engNow, EngState.prune, hdrains, c]
      · rw [heng]
        exact c.engNow.drained_get (hbits ▸ hi)
  case update =>
    exact fun o hfree hrouter hm ha hb hk hdue =>
      State.exec_opeUpdate hfree hrouter hm ha hb (Bool.and_eq_true_iff.2 ⟨decide_eq_true hk, decide_eq_true hdue⟩)
  case product =>
    intro o hfree hm hk hcycle hbeats hvq
    refine State.exec_mvpProduct hfree hm ?_ hvq
    simp [State.productDue, hk, hcycle, hbeats]
  case beat => exact fun o hfree hm hp hmore hdue => State.exec_sliceBeat hfree hm hp hmore hdue
  case noFlit => exact fun o hfree hm ha hb hseen hcount hlate => State.exec_noFlit hfree hm ha hb hseen hcount hlate

end Sys2Proof.Machine

namespace Sys2Proof.Machine

/-! ## A cycle in which the vector engine alone issues (04 R98, R109) -/

/-- A write of a V register, a lane mask or a byte pointer. -/
def Effect.writesVec : Effect → Bool
  | .vreg .. | .mask .. | .bptr .. => true
  | _ => false

theorem Effect.writesVec_plain {e : Effect} (h : e.writesVec = true) : e.plain = true := by
  cases e <;> simp_all [Effect.writesVec, Effect.plain]

/-- Core c after a write of a V register, a lane mask or a byte pointer. -/
def Core.write (c : Core) : Effect → Core
  | .vreg i sel val => c.putV i sel val
  | .mask i sel bs poi => c.putM i sel bs poi
  | .bptr i x => c.putB i x
  | _ => c

theorem State.applyEffect_writesVec {p : Pending} (h : p.eff.writesVec = true) (s : State) (n : Nat) (c : Core) :
    (s.setCore n c).applyEffect n p = s.setCore n (c.write p.eff) := by
  obtain ⟨due, issued, slot, bundle, blend, e⟩ := p
  cases e with
  | vreg | mask | bptr => simp [State.applyEffect, Core.write, Core.putV, Core.putM, Core.putB]
  | _ => cases h

theorem Core.write_now (c : Core) (e : Effect) : (c.write e).seq.now = c.seq.now := by
  cases e <;> rfl

theorem Core.write_withPend (c : Core) (l : List Pending) (e : Effect) :
    ({ c with seq := { c.seq with pend := l } } : Core).write e = { c.write e with seq := { (c.write e).seq with pend := l } } := by
  cases e <;> rfl

/-- Core c with effects of the vector engine's present issue in flight, each with the cycles until it is due. -/
def Core.issues (c : Core) (xs : List (Nat × Effect)) : Core := xs.foldl (fun c x => c.later x.1 7 none x.2) c

/-- Core c after those of the effects that are due in the issue cycle itself. -/
def Core.writes (c : Core) (xs : List (Nat × Effect)) : Core := (xs.filter (·.1 == 0)).foldl (fun c x => c.write x.2) c

/-- Those of the effects that stay in flight. -/
def Core.flying (c : Core) (xs : List (Nat × Effect)) : List Pending := (xs.filter (·.1 != 0)).map (fun x => c.effect x.1 7 x.2)

theorem Core.issues_eq (c : Core) (xs : List (Nat × Effect)) :
    c.issues xs = { c with seq := { c.seq with pend := c.seq.pend ++ xs.map (fun x => c.effect x.1 7 x.2) } } := by
  induction xs generalizing c with
  | nil => simp [Core.issues]
  | cons x xs ih =>
    refine (ih (c.later x.1 7 none x.2)).trans ?_
    simp [Core.later, Core.effect]

theorem foldr_insertRank_of_rank {k : Nat} {l : List Pending} (h : ∀ p ∈ l, p.rank = k) : l.foldr insertRank [] = l := by
  induction l with
  | nil => rfl
  | cons p l ih =>
    rw [List.foldr_cons, ih (fun q hq => h q (List.mem_cons_of_mem _ hq))]
    cases l with
    | nil => rfl
    | cons q l => exact if_pos (by rw [h p (by simp), h q (by simp)])

theorem State.applyEffects_writesVec {l : List Pending} (h : ∀ p ∈ l, p.eff.writesVec = true) (s : State) (n : Nat) (c : Core) :
    l.foldl (fun s p => s.applyEffect n p) (s.setCore n c) = s.setCore n (l.foldl (fun c p => c.write p.eff) c) := by
  induction l generalizing c with
  | nil => rfl
  | cons p l ih =>
    rw [List.foldl_cons, List.foldl_cons, State.applyEffect_writesVec (h p List.mem_cons_self)]
    exact ih (fun q hq => h q (List.mem_cons_of_mem _ hq)) _

theorem Core.writes_withPend (c : Core) (l : List Pending) (xs : List (Nat × Effect)) :
    ({ c with seq := { c.seq with pend := l } } : Core).writes xs = { c.writes xs with seq := { (c.writes xs).seq with pend := l } } := by
  unfold Core.writes
  induction xs.filter (·.1 == 0) generalizing c with
  | nil => rfl
  | cons x xs ih =>
    rw [List.foldl_cons, List.foldl_cons, Core.write_withPend]
    exact ih _

theorem Core.writes_now (c : Core) (xs : List (Nat × Effect)) : (c.writes xs).seq.now = c.seq.now :=
  List.foldlRecOn (motive := fun d : Core => d.seq.now = c.seq.now) _ _ rfl fun d hd x _ => (d.write_now x.2).trans hd

/-- The effects of the vector engine's issue that are due at once are written in the order of their issue, and the others stay in flight. -/
theorem State.endCycle_issues {s : State} {n : Nat} (hq : Quiet s n) {c : Core} (hseq : c.seq = (s.core n).seq) (heng : c.eng = (s.core n).eng)
    {xs : List (Nat × Effect)} (hnow : ∀ x ∈ xs, x.1 = 0 → x.2.writesVec = true) (hsend : ∀ x ∈ xs, x.2.isSend = true → 1 < x.1) :
    (s.setCore n (c.issues xs)).endCycle n = s.setCore n ((c.writes xs).after (c.flying xs)) := by
  obtain ⟨hpend, hmmas, hmvps, hports, -⟩ := id hq
  have hdue : ∀ x ∈ xs, (decide (c.seq.now + x.1 ≤ c.seq.now) && !x.2.isSend) = (x.1 == 0) := by
    intro x hx
    by_cases h : x.1 = 0
    · simp [h, Effect.plain_send (Effect.writesVec_plain (hnow x hx h))]
    · simp [h]
  have hall : (c.issues xs).seq.pend = xs.map (fun x => c.effect x.1 7 x.2) := by
    rw [Core.issues_eq, hseq, hpend]
    rfl
  have hwrite : ∀ p ∈ (xs.filter (·.1 == 0)).map (fun x => c.effect x.1 7 x.2), p.eff.writesVec = true ∧ p.due = c.seq.now := by
    intro p hp
    obtain ⟨x, hx, rfl⟩ := List.mem_map.1 hp
    obtain ⟨hmem, hzero⟩ := List.mem_filter.1 hx
    have hzero : x.1 = 0 := by simpa using hzero
    exact ⟨hnow x hmem hzero, by simp [Core.effect, hzero]⟩
  have hthen : ((xs.filter (·.1 == 0)).map (fun x => c.effect x.1 7 x.2)).foldl (fun s p => s.applyEffect n p)
      (s.setCore n { c with seq := { c.seq with pend := c.flying xs } }) =
      s.setCore n { c.writes xs with seq := { (c.writes xs).seq with pend := c.flying xs } } := by
    rw [State.applyEffects_writesVec (fun p hp => (hwrite p hp).1), List.foldl_map, ← Core.writes_withPend]
    rfl
  have hcore : (c.issues xs).seq.now = c.seq.now := by rw [Core.issues_eq]
  have := endCycle_plain (s := s) (n := n) (c := c.issues xs) (d := (xs.filter (·.1 == 0)).map (fun x => c.effect x.1 7 x.2))
    (l := c.flying xs) (t := s.setCore n { c.writes xs with seq := { (c.writes xs).seq with pend := c.flying xs } }) hq
    (by rw [Core.issues_eq, heng, hmmas]) (by rw [Core.issues_eq, heng, hmvps]) (by rw [Core.issues_eq, heng, hports])
    ?due ?flying ?plain ?send ?writes rfl rfl ?_ ?_
  · rw [this]
    simp [Core.after]
  case due =>
    rw [hall, hcore, List.filter_map]
    exact congrArg _ (List.filter_congr hdue)
  case flying =>
    rw [hall, hcore, List.filter_map]
    exact congrArg _ (List.filter_congr fun x hx => congrArg (!·) (hdue x hx))
  case plain => exact fun p hp => ⟨Effect.writesVec_plain (hwrite p hp).1, by rw [hcore, (hwrite p hp).2]⟩
  case send =>
    intro p hp hs
    obtain ⟨x, hx, rfl⟩ := List.mem_map.1 hp
    have := hsend x (List.mem_of_mem_filter hx) hs
    rw [hcore]
    simp only [Core.effect]
    omega
  case writes =>
    rw [foldr_insertRank_of_rank (k := c.seq.now * 16 + 7), Core.issues_eq]
    · exact hthen
    · intro p hp
      obtain ⟨x, -, rfl⟩ := List.mem_map.1 hp
      rfl
  · simp
  · simp [hcore, Core.writes_now]

/-- A cycle in which the vector engine issues nothing. -/
theorem State.endCycle_setCore {s : State} {n : Nat} (hq : Quiet s n) {c : Core} (hseq : c.seq = (s.core n).seq) (heng : c.eng = (s.core n).eng) :
    (s.setCore n c).endCycle n = s.setCore n (c.after []) :=
  State.endCycle_issues (xs := []) hq hseq heng (by simp) (by simp)

section
variable {s : State} {n : Nat} {c : Core} (hq : Quiet s n) (hcore : s.core n = c) {e : Effect}
include hq hcore

/-- One effect, which is not due in its issue cycle. -/
theorem State.endCycle_laterOne {dt : Nat} (hdt : 0 < dt) (hsend : e.isSend = true → 1 < dt) :
    (s.setCore n (c.later dt 7 none e)).endCycle n = s.setCore n (c.after [c.effect dt 7 e]) := by
  subst hcore
  refine (State.endCycle_issues (xs := [(dt, e)]) hq rfl rfl (by simp; omega) (by simpa using hsend)).trans ?_
  simp [Core.writes, Core.flying, hdt.ne']

/-- One write in its issue cycle. -/
theorem State.endCycle_write (h : e.writesVec = true) :
    (s.setCore n (c.later 0 7 none e)).endCycle n = s.setCore n ((c.write e).after []) := by
  subst hcore
  exact State.endCycle_issues (xs := [(0, e)]) hq rfl rfl (by simpa using h) (by simp [Effect.plain_send (Effect.writesVec_plain h)])

end

/-! ## A blend instruction on its own (04 R98, R107, R109) -/

theorem Quiet.of_regsOnly {s t : State} {n : Nat} (hq : Quiet s n) (h : RegsOnly s t) : Quiet t n := by
  obtain ⟨rs, rfl⟩ := h
  exact hq

section
variable {s : State} {n opc : Nat} {w : DWord} {b : BWord}

/-- The cycle of a vector result's issue ends with the result in flight, or written where its latency is 1. -/
theorem State.endCycle_vecWrite (hq : Quiet s n) (masked : Bool) (lat : Nat) (r : List (Lane × AFlags)) :
    (s.vecWrite n b none masked lat r).endCycle n = s.vecOut n b masked lat r := by
  have harith : RegsOnly s (s.arith n ((s.core n).laneFlags b masked r)) := s.arith_regsOnly n _
  have hcore := harith.aside.core n
  have hq' := hq.of_regsOnly harith
  refine (congrArg (fun c : Core => (State.setCore _ n (c.later _ 7 none _)).endCycle n) hcore).trans ?_
  unfold State.vecOut
  dsimp only
  by_cases hlat : lat ≤ 1
  · rw [if_pos hlat, Nat.sub_eq_zero_of_le hlat]
    exact State.endCycle_write hq' hcore rfl
  · rw [if_neg hlat]
    exact State.endCycle_laterOne hq' hcore (by omega) (fun h => nomatch h)

@[simp] theorem BWord.withOpc_opc (w : DWord) (opc : Nat) : (BWord.withOpc w opc).opc = opc := rfl
@[simp] theorem BWord.withOpc_sa (w : DWord) (opc : Nat) : (BWord.withOpc w opc).sa = (BWord.ofWord w).sa := rfl
@[simp] theorem BWord.withOpc_imm (w : DWord) (opc : Nat) : (BWord.withOpc w opc).imm = (BWord.ofWord w).imm := rfl
@[simp] theorem BWord.withOpc_m (w : DWord) (opc lo len : Nat) : (BWord.withOpc w opc).m lo len = (BWord.ofWord w).m lo len := rfl

/-- A blend instruction where no blend runs. -/
theorem State.loneBlend_alone (hmay : s.mayIssue n = true) (hblend : (s.core n).vec.blend = none) (hlegal : (BWord.withOpc w opc).legal = true) :
    s.loneBlend n opc w = (if opc ≤ 2 then s else s.vecIssue n (BWord.withOpc w opc) true none 7).endCycle n := by
  unfold State.loneBlend
  rw [if_neg (not_not.2 hmay)]
  dsimp only
  rw [hblend]
  exact congrArg (State.endCycle · n) (if_neg (not_not.2 hlegal))

/-- A blend instruction where a blend runs. -/
theorem State.loneBlend_running (hmay : s.mayIssue n = true) {r : BlendRun} (hblend : (s.core n).vec.blend = some r) :
    s.loneBlend n opc w = (s.blendTurn n r (some (BWord.withOpc w opc))).endCycle n := by
  unfold State.loneBlend
  rw [if_neg (not_not.2 hmay)]
  dsimp only
  rw [hblend]
  rfl

/-- Without a running blend, a blend instruction that acts does what its opcode names in that cycle. -/
theorem BlendActs.loneBlend (h : BlendActs s n (BWord.withOpc w opc)) (hopc : 2 < opc) :
    s.loneBlend n opc w = (s.vecPerform n (BWord.withOpc w opc) none).endCycle n := by
  obtain ⟨hmay, hblend, hlegal, hfault, hclean⟩ := h
  have hconsume : (!carriesPoison (BWord.withOpc w opc).opc && (BWord.withOpc w opc).readsPoison (s.core n)) = false := by
    rcases hclean with hcarry | hclean
    · rw [hcarry]
      rfl
    · rw [hclean, Bool.and_false]
  rw [State.loneBlend_alone hmay hblend hlegal, if_neg (by omega)]
  simp only [State.vecIssue, hfault, State.vecDo, hconsume, State.consumeIf, not_true_eq_false, Bool.false_eq_true, ↓reduceIte]

/-- A blend instruction that hands over a vector result. -/
theorem BlendActs.exec_vecWrite (h : BlendActs s n (BWord.withOpc w opc)) (hq : Quiet s n) (hopc : 2 < opc) {masked : Bool} {lat : Nat}
    {r : List (Lane × AFlags)}
    (hdoes : s.vecPerform n (BWord.withOpc w opc) none = s.vecWrite n (BWord.withOpc w opc) none masked lat r) :
    Host.Outcome.next (s.loneBlend n opc w) = (.next (s.vecOut n (BWord.ofWord w) masked lat r) : Host.Outcome State Fault Refusal) := by
  rw [h.loneBlend hopc, hdoes, State.endCycle_vecWrite hq]
  rfl

theorem elemOp_none (h : opc ≤ 2) : elemOp opc = none := by
  interval_cases opc <;> rfl

/-- An element-wise instruction applies its function to its sources' lanes. -/
theorem BlendActs.exec_elem (h : BlendActs s n (BWord.withOpc w opc)) (hq : Quiet s n) {lat : Nat} {fp : Bool}
    {f : List Lane → List Lane → List Lane → List (Lane × AFlags)} (helem : elemOp opc = some (lat, fp, f)) :
    let c := s.core n
    let b := BWord.ofWord w
    Host.Outcome.next (s.loneBlend n opc w) = (.next (s.vecOut n b true lat (f (c.src fp b.sa b.imm) (c.src fp b.sb b.imm) (c.src fp b.sc b.imm))) :
      Host.Outcome State Fault Refusal) := by
  have hopc : 2 < opc := by
    by_contra hle
    rw [elemOp_none (by omega)] at helem
    cases helem
  refine h.exec_vecWrite hq hopc ?_
  unfold State.vecPerform
  rw [show elemOp (BWord.withOpc w opc).opc = some (lat, fp, f) from helem]
  rfl

end

/-- Settles O6: each FP32 instruction's row of the element-wise table. -/
theorem blendFloat : Obligations.BlendFloat := by
  unfold Obligations.BlendFloat
  intro s n w hq
  and_intros <;> exact fun h => h.exec_elem hq rfl

end Sys2Proof.Machine

namespace Sys2Proof.Machine

section
variable {s : State} {n opc : Nat} {w : DWord}

/-- A blend instruction whose lanes raise no flag. -/
theorem BlendActs.exec_noFlags (h : BlendActs s n (BWord.withOpc w opc)) (hq : Quiet s n) (hopc : 2 < opc)
    {ι : Type} {xs : List ι} {f : ι → Lane}
    (hdoes : s.vecPerform n (BWord.withOpc w opc) none = s.vecWrite n (BWord.withOpc w opc) none true 1 ((xs.map f).map (fun x => (x, 0)))) :
    Host.Outcome.next (s.loneBlend n opc w) = (.next (s.vecOut n (BWord.ofWord w) true 1 (xs.map (fun i => (f i, 0)))) :
      Host.Outcome State Fault Refusal) :=
  h.exec_vecWrite hq hopc (hdoes.trans (congrArg (State.vecWrite s n _ none true 1) List.map_map))

end

/-- Settles O7: the element-wise rows, then SEL, PERM, MFIRST and LANEID, whose lanes raise no flag. -/
theorem blendInteger : Obligations.BlendInteger := by
  unfold Obligations.BlendInteger
  intro s n w hq
  refine ⟨?iadd, ?isub, ?imul, ?and, ?or, ?xor, ?shl, ?shr, ?shra, ?mov, ?sel, ?perm, ?mfirst, ?laneid⟩
  case sel | perm | mfirst | laneid => exact fun h => h.exec_noFlags hq (by decide) rfl
  all_goals exact fun h => h.exec_elem hq rfl

end Sys2Proof.Machine

namespace Sys2Proof.Machine

/-! ## Effects of a blend instruction that are no vector result -/

section
variable {s : State} {n opc : Nat} {w : DWord}

/-- A blend instruction whose one effect is due after its issue cycle. -/
theorem BlendActs.exec_later (h : BlendActs s n (BWord.withOpc w opc)) (hq : Quiet s n) (hopc : 2 < opc) {dt : Nat} {e : Effect}
    (hdt : 0 < dt) (hsend : e.isSend = true → 1 < dt)
    (hdoes : s.vecPerform n (BWord.withOpc w opc) none = s.setCore n ((s.core n).later dt 7 none e)) :
    Host.Outcome.next (s.loneBlend n opc w) = (.next (s.setCore n ((s.core n).after [(s.core n).effect dt 7 e])) :
      Host.Outcome State Fault Refusal) := by
  rw [h.loneBlend hopc, hdoes, State.endCycle_laterOne hq rfl hdt hsend]

/-- A blend instruction that writes a register in its issue cycle. -/
theorem BlendActs.exec_write (h : BlendActs s n (BWord.withOpc w opc)) (hq : Quiet s n) (hopc : 2 < opc) {e : Effect} (he : e.writesVec = true)
    (hdoes : s.vecPerform n (BWord.withOpc w opc) none = s.setCore n ((s.core n).later 0 7 none e)) :
    Host.Outcome.next (s.loneBlend n opc w) = (.next (s.setCore n (((s.core n).write e).after [])) : Host.Outcome State Fault Refusal) := by
  rw [h.loneBlend hopc, hdoes, State.endCycle_write hq rfl he]

end

/-! ## Reductions, packings and running sums (04 R112, R114) -/

theorem laneIdx_map_zipIdx {α β : Type} (f : Nat → α) (g : α × Nat → β) :
    (laneIdx.map f).zipIdx.map g = laneIdx.map (fun j => g (f j, j)) := by
  apply List.ext_getElem <;> simp [laneIdx]

section
variable {s : State} {n : Nat} {w : DWord}

theorem State.vecPerform_psum {l : Lane} {ls : List Lane} (hx : (s.core n).src true (BWord.ofWord w).sa (BWord.ofWord w).imm = l :: ls) :
    s.vecPerform n (BWord.withOpc w 0x3B) none = s.vecWrite n (BWord.withOpc w 0x3B) none false 8
      (((running fadd l ls).1.map canonNan).zipIdx.map (fun q => (q.1, if q.2 = 0 then (running fadd l ls).2 else 0))) := by
  simp [State.vecPerform, elemOp, hx]

theorem State.vecPerform_cvtp {f : Fmt} (hf : Fmt.ofCode ((BWord.ofWord w).m 24 4) = some f) :
    s.vecPerform n (BWord.withOpc w 0x32) none = s.vecWrite n (BWord.withOpc w 0x32) none true 3
      (cvtpLanes f (BWord.ofWord w) ((s.core n).src true (BWord.ofWord w).sa (BWord.ofWord w).imm)) := by
  simp only [State.vecPerform, BWord.withOpc_opc, elemOp, BWord.withOpc_m, BWord.withOpc_sa, BWord.withOpc_imm, hf, Option.getD_some, State.elem,
    cvtpLanes, cvtpCodes] <;> rfl

theorem State.vecPerform_mxq {f : Fmt} (hf : Fmt.ofCode ((BWord.ofWord w).m 24 4) = some f) :
    s.vecPerform n (BWord.withOpc w 0x33) none = s.vecWrite n (BWord.withOpc w 0x33) none false 3
      (mxqLanes f ((s.core n).src true (BWord.ofWord w).sa (BWord.ofWord w).imm)) := by
  simp only [State.vecPerform, BWord.withOpc_opc, elemOp, BWord.withOpc_m, BWord.withOpc_sa, BWord.withOpc_imm, hf, Option.getD_some,
    laneIdx_map_zipIdx, mxqLanes]

end

/-- Settles O8: the instructions that hand over a vector result, then those that write a lane mask or the top-64 network. -/
theorem blendReduce : Obligations.BlendReduce := by
  unfold Obligations.BlendReduce
  intro s n w hq
  refine ⟨?rsumAll, ?rsumHalves, ?rmaxAll, ?rmaxHalves, ?psum, ?fcmp, ?icmp, ?cvtp, ?mxq, ?rng, ?tkout, ?tkclr, ?tkin⟩
  case rsumAll | rmaxAll => exact fun hm h => h.exec_vecWrite hq (by decide) (if_pos hm)
  case rsumHalves | rmaxHalves => exact fun hm h => h.exec_vecWrite hq (by decide) (if_neg hm)
  case psum => exact fun l ls hx h => h.exec_vecWrite hq (by decide) (State.vecPerform_psum hx)
  case cvtp => exact fun f hf h => h.exec_vecWrite hq (by decide) (State.vecPerform_cvtp hf)
  case mxq => exact fun f hf h => h.exec_vecWrite hq (by decide) (State.vecPerform_mxq hf)
  case rng | tkout => exact fun h => h.exec_vecWrite hq (by decide) rfl
  case fcmp => exact fun h => h.exec_later hq (by decide) (by decide) (fun e => nomatch e) rfl
  case tkclr | tkin => exact fun h => h.exec_later hq (by decide) (by decide) (fun e => nomatch e) rfl
  case icmp => exact fun h => h.exec_write hq (by decide) rfl rfl

end Sys2Proof.Machine

namespace Sys2Proof.Machine

/-! ## Memory accesses with their pointer's move (04 R115, R116) -/

/-- Core c after a memory instruction's move of its byte pointer. -/
def Core.posted (c : Core) (b : BWord) : Core :=
  match (c.blendAddr b).2 with
  | some x => c.putB (b.m 20 2) x
  | none => c

section
variable {s : State} {n opc : Nat} {w : DWord}

/-- An access in flight, and its pointer moved in the issue cycle. -/
theorem State.endCycle_postMove (hq : Quiet s n) {c : Core} (hseq : c.seq = (s.core n).seq) (heng : c.eng = (s.core n).eng) (b : BWord) {dt : Nat}
    {e : Effect} (hdt : 0 < dt) (hsend : e.isSend = false) :
    ((s.setCore n (c.later dt 7 none e)).postMove n b none).endCycle n = s.setCore n ((c.posted b).after [c.effect dt 7 e]) := by
  have haddr : (c.later dt 7 none e).blendAddr b = c.blendAddr b := rfl
  unfold State.postMove Core.posted
  simp only [State.core_setCore_same, haddr]
  cases (c.blendAddr b).2 with
  | none =>
    refine (State.endCycle_issues (xs := [(dt, e)]) hq hseq heng (by simp; omega) (by simp [hsend])).trans ?_
    simp [Core.writes, Core.flying, hdt.ne']
  | some x =>
    simp only [State.setCore_setCore]
    refine (State.endCycle_issues (xs := [(dt, e), (0, .bptr (b.m 20 2) x)]) hq hseq heng ?_ ?_).trans ?_
    · simp [Effect.writesVec]
      omega
    · simp [hsend, Effect.plain_send (e := .bptr (b.m 20 2) x) rfl]
    · simp [Core.writes, Core.flying, Core.write, hdt.ne']

/-- A blend instruction that accesses memory through a byte pointer. -/
theorem BlendActs.exec_postMove (h : BlendActs s n (BWord.withOpc w opc)) (hq : Quiet s n) (hopc : 2 < opc) {c : Core}
    (hseq : c.seq = (s.core n).seq) (heng : c.eng = (s.core n).eng) {dt : Nat} {e : Effect} (hdt : 0 < dt) (hsend : e.isSend = false)
    (hdoes : s.vecPerform n (BWord.withOpc w opc) none = (s.setCore n (c.later dt 7 none e)).postMove n (BWord.withOpc w opc) none) :
    Host.Outcome.next (s.loneBlend n opc w) = (.next (s.setCore n ((c.posted (BWord.ofWord w)).after [c.effect dt 7 e])) :
      Host.Outcome State Fault Refusal) := by
  rw [h.loneBlend hopc, hdoes, State.endCycle_postMove hq hseq heng _ hdt hsend]
  rfl

theorem Core.posted_withStsAt (c : Core) (l : List Nat) (b : BWord) : ({ c with stsAt := l } : Core).posted b = { c.posted b with stsAt := l } := by
  have haddr : ({ c with stsAt := l } : Core).blendAddr b = c.blendAddr b := rfl
  unfold Core.posted
  rw [haddr]
  cases (c.blendAddr b).2 <;> rfl

/-- STS keeps the cycle of its port access besides (04 R116). -/
theorem BlendActs.exec_sts (h : BlendActs s n (BWord.withOpc w 0x43)) (hq : Quiet s n) :
    let c := s.core n
    let b := BWord.ofWord w
    let xs := c.stored b (8 * b.m 24 3) 8
    Host.Outcome.next (s.loneBlend n 0x43 w) = (.next (s.setCore n
      { (c.posted b).after [c.effect 25 7 (.beat (c.blendAddr b).1 (lanesBytes xs) (xs.any (·.poison)))] with
        stsAt := (c.seq.now + 1) :: c.stsAt.filter (fun t => decide (c.seq.now + 1 < t + 5)) }) : Host.Outcome State Fault Refusal) := by
  intro c b xs
  have hend := h.exec_postMove hq (by decide) (c := { c with stsAt := (c.seq.now + 1) :: c.stsAt.filter (fun t => decide (c.seq.now + 1 < t + 5)) })
    rfl rfl (dt := 25) (e := .beat (c.blendAddr b).1 (lanesBytes xs) (xs.any (·.poison))) (by decide) rfl rfl
  rw [hend, Core.posted_withStsAt]
  rfl

/-! ## CHW and APPEND (04 R118, R120) -/

/-- CHW's two rows in flight, and its flags where no lane is poisoned. -/
theorem BlendActs.exec_chw (h : BlendActs s n (BWord.withOpc w 0x44)) (hq : Quiet s n) {f : Fmt}
    (hf : Fmt.ofCode ((BWord.ofWord w).m 24 4) = some f) :
    let c := s.core n
    let b := BWord.ofWord w
    let x := c.src true b.sa b.imm
    let cs := cvtpCodes f b x
    let half (k : Nat) : Effect := .chain (b.m 16 1) (2 * (b.imm % 8) + k / 16) (b.m 24 4) (((cs.map (·.1)).drop k).take 16) (x.any (·.poison))
    Host.Outcome.next (s.loneBlend n 0x44 w) = (.next ((if x.any (·.poison) then s else s.arith n (cs.foldl (fun f y => f ||| y.2) 0)).setCore n
      (c.after [c.effect 2 7 (half 0), c.effect 2 7 (half 16)])) : Host.Outcome State Fault Refusal) := by
  intro c b x cs half
  generalize hu : (if x.any (·.poison) then s else s.arith n (cs.foldl (fun f y => f ||| y.2) 0)) = u
  have hregs : RegsOnly s u := by
    rw [← hu]
    split
    · exact .refl s
    · exact s.arith_regsOnly n _
  have hcore : u.core n = c := hregs.aside.core n
  have hdoes : s.vecPerform n (BWord.withOpc w 0x44) none = u.setCore n ((u.core n).issues [(2, half 0), (2, half 16)]) := by
    rw [← hu]
    simp only [State.vecPerform, BWord.withOpc_opc, elemOp, BWord.withOpc_m, BWord.withOpc_sa, BWord.withOpc_imm, hf, Option.getD_some]
    rfl
  rw [h.loneBlend (by decide), hdoes, State.endCycle_issues (hq.of_regsOnly hregs) rfl rfl (by simp) (by simp [half, Effect.isSend]), hcore]
  rfl

/-- The sequence and the position lie in their places of APPEND's tag. -/
theorem append_tag {seq pos : Nat} (hseq : seq < 2 ^ 20) (hpos : pos < 2 ^ 22) (hi : Nat) :
    ((BitVec.ofNat 64 (hi * 2 ^ 42 + seq * 2 ^ 22 + pos)).extractLsb' 22 20).toNat = seq ∧
      ((BitVec.ofNat 64 (hi * 2 ^ 42 + seq * 2 ^ 22 + pos)).extractLsb' 0 22).toNat = pos := by
  have hsplit : hi * 2 ^ 42 + seq * 2 ^ 22 + pos = 2 ^ 22 * (2 ^ 20 * hi + seq) + pos := by ring
  have hword : (2 : Nat) ^ 64 = 2 ^ 22 * 2 ^ 42 := by norm_num
  rw [hsplit]
  simp only [BitVec.extractLsb'_toNat, BitVec.toNat_ofNat, Nat.shiftRight_eq_div_pow]
  constructor
  · rw [hword, Nat.mod_mul_right_div_self, Nat.mod_mod_of_dvd _ (by norm_num), Nat.mul_add_div (by norm_num), Nat.div_eq_of_lt hpos, Nat.add_zero,
      Nat.mul_add_mod, Nat.mod_eq_of_lt hseq]
  · rw [pow_zero, Nat.div_one, Nat.mod_mod_of_dvd _ (by norm_num), Nat.mul_add_mod, Nat.mod_eq_of_lt hpos]

theorem BlendActs.exec_append (h : BlendActs s n (BWord.withOpc w 0x46)) (hq : Quiet s n) :
    let c := s.core n
    let b := BWord.ofWord w
    let xs := ((c.src false b.sa b.imm).drop (8 * b.m 16 2)).take 8
    ∃ hi, Host.Outcome.next (s.loneBlend n 0x46 w) = (.next (s.setCore n (c.after [c.effect 2 7 (.append (lanesBytes xs) (wordPoi xs)
      (BitVec.ofNat 64 (hi * 2 ^ 42 + (c.s (2 * b.sb)).toNat % 2 ^ 20 * 2 ^ 22 + (c.s (2 * b.sb + 1)).toNat % 2 ^ 22)))])) :
      Host.Outcome State Fault Refusal) := by
  intro c b xs
  have hgroup : ∀ a m i x y q p : Nat, a * 2 ^ 59 + m * 2 ^ 51 + i * 2 ^ 44 + x * 2 ^ 43 + y * 2 ^ 42 + q * 2 ^ 22 + p =
      (a * 2 ^ 17 + m * 2 ^ 9 + i * 2 ^ 2 + x * 2 + y) * 2 ^ 42 + q * 2 ^ 22 + p := by
    intros
    ring
  exact ⟨_, h.exec_later hq (by decide) (by decide) (fun e => nomatch e)
    (congrArg (fun t => s.setCore n (c.later 2 7 none (.append (lanesBytes xs) (wordPoi xs) (BitVec.ofNat 64 t)))) (hgroup ..))⟩

end

/-- Settles O9: accesses through a byte pointer, writes in the issue cycle, effects in flight, and words that only end the cycle. -/
theorem blendMemory : Obligations.BlendMemory := by
  unfold Obligations.BlendMemory
  intro s n w hq
  refine ⟨?ld, ?st, ?sth, ?sts, ?bpset, ?bins, ?send, ?append, ?chw, fun hmay hblend => ⟨?nop, ?endBlend, ?loop⟩⟩
  case ld | st | sth => exact fun h => h.exec_postMove hq (by decide) rfl rfl (by decide) rfl rfl
  case sts => exact fun h => h.exec_sts hq
  case bpset | bins => exact fun h => h.exec_write hq (by decide) rfl rfl
  case send => exact fun h => h.exec_later hq (by decide) (by decide) (fun _ => by decide) rfl
  case append =>
    intro h
    obtain ⟨hi, hexec⟩ := h.exec_append hq
    exact ⟨_, hexec, append_tag (Nat.mod_lt _ (by decide)) (Nat.mod_lt _ (by decide)) hi⟩
  case chw => exact fun f h hf => h.exec_chw hq hf
  case nop | endBlend | loop =>
    intro hlegal
    exact congrArg Host.Outcome.next ((State.loneBlend_alone hmay hblend hlegal).trans (endCycle_quiet hq))

end Sys2Proof.Machine

namespace Sys2Proof.Machine

/-! ## The start of a blend (04 R103, 05 R160) -/

theorem setBits_withOp_one (w : Word) : setBits (withOp w 1) 31 1 0 = withOp w 1 := by
  refine BitVec.eq_of_getLsbD_eq fun i hi => ?_
  rw [setBits_getLsbD _ _ _ _ _ hi]
  split
  · obtain rfl : i = 31 := by omega
    rw [withOp, setBits_getLsbD _ _ _ _ _ hi, if_pos (by decide)]
    rfl
  · rfl

theorem isSingle_withOp_one (w : Word) : isSingle (withOp w 1) = false := by
  rw [← setBits_withOp_one, isSingle, bits_setBits_same _ _ _ _ (by decide)]
  rfl

theorem Core.maskBits_putM_all (c : Core) {i : Nat} (hi : i ≠ 0) (j : Nat) :
    (c.putM i 0xFFFFFFFF 0xFFFFFFFF 0).maskBits j = if j = i then 0xFFFFFFFF else c.maskBits j := by
  unfold Core.maskBits Core.putM
  split
  · next h =>
    subst h
    simp [hi.symm]
  · split
    · next h =>
      subst h
      simp
    · next h => exact SMap.get_set_other _ _ _ _ h

theorem Core.maskBits_putB (c : Core) (i : Nat) (x : Word) (j : Nat) : (c.putB i x).maskBits j = c.maskBits j := rfl

theorem Core.vec_after (c : Core) (l : List Pending) : (c.after l).vec = c.vec := rfl

theorem Core.maskBits_after (c : Core) (l : List Pending) (j : Nat) : (c.after l).maskBits j = c.maskBits j := rfl

theorem Core.bptr_putB (c : Core) (i : Nat) (x : Word) (j : Nat) : (c.putB i x).bptr j = if j = i then x else c.bptr j := by
  unfold Core.bptr Core.putB
  split
  · next h => rw [h, SMap.get_set_same]
  · next h => exact SMap.get_set_other _ _ _ _ h

/-- Core c as a blend's start leaves it: the run at its first word, M1 to M3 all ones, each byte pointer the A register that header h names. -/
def Core.started (c : Core) (e : Nat) (h : DWord) : Core :=
  (List.range 4).foldl (fun d i => d.putB i (c.a (fld h (16 + 4 * i) 4)))
    ([1, 2, 3].foldl (fun d i => d.putM i 0xFFFFFFFF 0xFFFFFFFF 0) { c with vec := c.vec.withRun (some ⟨e, fld h 0 9, e + 1, 0, []⟩) })

theorem Core.started_run (c : Core) (e : Nat) (h : DWord) : (c.started e h).vec.blend = some ⟨e, fld h 0 9, e + 1, 0, []⟩ ∧
    (c.started e h).vec.i0 = 0 ∧ (c.started e h).vec.i1 = 0 := ⟨rfl, rfl, rfl⟩

theorem Core.started_maskBits (c : Core) (e : Nat) (h : DWord) {i : Nat} (hlo : 1 ≤ i) (hhi : i ≤ 3) :
    (c.started e h).maskBits i = 0xFFFFFFFF := by
  simp only [Core.started, List.range, List.range.loop, List.foldl_cons, List.foldl_nil, Core.maskBits_putB]
  rw [Core.maskBits_putM_all _ (by decide), Core.maskBits_putM_all _ (by decide), Core.maskBits_putM_all _ (by decide)]
  interval_cases i <;> rfl

theorem Core.started_bptr (c : Core) (e : Nat) (h : DWord) {i : Nat} (hi : i < 4) : (c.started e h).bptr i = c.a (fld h (16 + 4 * i) 4) := by
  simp only [Core.started, List.range, List.range.loop, List.foldl_cons, List.foldl_nil]
  interval_cases i <;> simp [Core.bptr_putB]

section
variable {s : State} {n : Nat} {w : Word}

theorem State.fetchBlend_regsOnly (s : State) (n e : Nat) : RegsOnly s (s.fetchBlend n e).2 := by
  simp only [State.fetchBlend]
  exact s.countCheck_regsOnly n _ none

/-- The cycle of a blend's start ends with the blend started; the fetch of its header has counted its check. -/
theorem State.endCycle_startBlend (hq : Quiet s n) {e : Nat} {h : DWord} (hfetch : (s.fetchBlend n e).1 = some h) :
    (s.startBlend n e).endCycle n = (s.fetchBlend n e).2.setCore n (((s.core n).started e h).after []) := by
  have hregs := s.fetchBlend_regsOnly n e
  have hcore := hregs.aside.core n
  have hissue : s.startBlend n e = (s.fetchBlend n e).2.setCore n
      ({ (s.core n) with vec := (s.core n).vec.withRun (some ⟨e, fld h 0 9, e + 1, 0, []⟩) }.issues
        ([1, 2, 3].map (fun i => (0, Effect.mask i 0xFFFFFFFF 0xFFFFFFFF 0)) ++
          (List.range 4).map (fun i => (0, Effect.bptr i ((s.core n).a (fld h (16 + 4 * i) 4)))))) := by
    unfold State.startBlend
    simp only [hfetch, hcore, Option.getD_some]
    rfl
  rw [hissue, State.endCycle_issues (hq.of_regsOnly hregs) (by rw [hcore]) (by rw [hcore])]
  · rfl
  · simp [Effect.writesVec]
  · simp [Effect.isSend]

/-- What the VEC slot's word does in its cycle. -/
theorem SlotActs.vecSlotPerforms (h : SlotActs s n 5 w) :
    s.loneSlot n 5 w = (if isSingle w then s.vecDo n (BWord.ofVec w) none else s.startBlend n (bits w 0 9)).endCycle n := by
  obtain ⟨-, -, -, hacts⟩ := id h
  rw [loneSlot_acts h (fun e => nomatch e), State.slotPerform, if_neg (not_not.2 hacts)]

end

/-- Settles O14: the started core, field by field, and the one instruction of a single vector operation. -/
theorem vecSlot : Obligations.VecSlot := by
  unfold Obligations.VecSlot
  intro s n w hq
  refine ⟨fun h hacts hfetch => ?blend, fun hacts => ?single⟩
  case blend =>
    obtain ⟨hrun, hi0, hi1⟩ := (s.core n).started_run (bits w 0 9) h
    have hend : s.loneSlot n 5 (setBits (withOp w 1) 31 1 0) =
        (s.fetchBlend n (bits w 0 9)).2.setCore n (((s.core n).started (bits w 0 9) h).after []) := by
      rw [setBits_withOp_one, hacts.vecSlotPerforms, isSingle_withOp_one, bits_withOp w 1 0 9 (by decide)]
      exact State.endCycle_startBlend hq hfetch
    refine ⟨_, congrArg Host.Outcome.next hend, ?_⟩
    simp only [State.core_setCore_same, State.setCore_mem, Core.vec_after, Core.maskBits_after]
    exact ⟨hrun, hi0, hi1, (s.fetchBlend_regsOnly n (bits w 0 9)).aside.mem, fun i hlo hhi => Core.started_maskBits _ _ _ hlo hhi,
      fun i hi => Core.started_bptr _ _ _ hi⟩
  case single =>
    have hsingle : isSingle (setBits w 31 1 1) = true := by simp [isSingle, bits_setBits_same]
    exact congrArg Host.Outcome.next (hacts.vecSlotPerforms.trans (congrArg (State.endCycle · n) (if_pos hsingle)))

end Sys2Proof.Machine

namespace Sys2Proof.Machine

/-! ## A running blend's cycle (04 R103, R104, R117) -/

section
variable {s : State} {n : Nat} {r : BlendRun} {b : BWord} {w : DWord}

theorem State.blendTurn_idle (h : 0 < r.idle) (given : Option BWord) :
    s.blendTurn n r given = s.setCore n { s.core n with vec := (s.core n).vec.withRun (some { r with idle := r.idle - 1 }) } := if_pos h

/-- A place beyond the blend's last word (04 R127). -/
theorem State.blendTurn_beyond (hidle : r.idle = 0) (h : r.entry + r.len < r.word) (given : Option BWord) :
    s.blendTurn n r given = s.coreFault n Sf.blendRange ⟨7, some r.word, (s.core n).seq.next⟩ :=
  (if_neg (by omega)).trans (if_pos (Or.inr h))

/-- The running blend is at a place inside it, with no idle cycle left. -/
def BlendRun.Here (r : BlendRun) : Prop := r.idle = 0 ∧ r.entry + 1 ≤ r.word ∧ r.word ≤ r.entry + r.len

theorem State.blendTurn_here (h : r.Here) : s.blendTurn n r (some b) = s.blendWord n r b := by
  obtain ⟨hidle, hlo, hhi⟩ := h
  exact (if_neg (by omega)).trans (if_neg (by omega))

theorem State.blendWord_end (hlegal : (BWord.withOpc w 1).legal = true) :
    s.blendWord n r (BWord.withOpc w 1) = s.setCore n { s.core n with vec := (s.core n).vec.withRun none } :=
  (if_neg (not_not.2 hlegal)).trans ((if_neg Nat.one_ne_zero).trans (if_pos rfl))

/-- NOP steps to the next word and idles for IMM cycles (04 R108). -/
theorem State.blendWord_nop (hlegal : (BWord.withOpc w 0).legal = true) (hloops : r.loops = []) : s.blendWord n r (BWord.withOpc w 0) =
    s.setCore n { s.core n with vec := (s.core n).vec.withRun (some { r with word := r.word + 1, idle := (BWord.ofWord w).imm }) } := by
  simp [State.blendWord, hlegal, hloops, afterWord]

/-- LOOP with a count from IMM opens a loop over the next MOD words (04 R117). -/
theorem State.blendWord_loop (hlegal : (BWord.withOpc w 2).legal = true) (hloops : r.loops = []) (hbody : 0 < (BWord.ofWord w).m 16 8)
    (hsa : (BWord.ofWord w).sa = 0x7F) (hcount : 0 < (BWord.ofWord w).imm) :
    let b := BWord.ofWord w
    s.blendWord n r (BWord.withOpc w 2) = s.setCore n { s.core n with vec := (s.core n).vec.withRun (some { r with
      word := r.word + 1, idle := 0, loops := [⟨r.word + 1, r.word + b.m 16 8, b.m 24 1, 0, b.imm⟩] }) } := by
  have hgood : (s.core n).srcBad 0x7F = false := rfl
  simp [State.blendWord, hlegal, hloops, hbody.ne', hsa, hcount.ne', hgood]

variable (hq : Quiet s n) (hmay : s.mayIssue n = true) (hblend : (s.core n).vec.blend = some r)
include hq hmay hblend

/-- A cycle of a running blend that only moves its position. -/
theorem State.loneBlend_withRun {opc : Nat} {r' : Option BlendRun}
    (hturn : s.blendTurn n r (some (BWord.withOpc w opc)) = s.setCore n { s.core n with vec := (s.core n).vec.withRun r' }) :
    s.loneBlend n opc w = s.setCore n (Core.after { s.core n with vec := (s.core n).vec.withRun r' } []) := by
  rw [State.loneBlend_running hmay hblend, hturn]
  exact State.endCycle_setCore hq rfl rfl

/-- At a place beyond the blend's last word, whatever instruction issues, the core's partition is FAULTED by BLEND_RANGE. -/
theorem State.loneBlend_beyond (hn : n < 16384) (hidle : r.idle = 0) (hbeyond : r.entry + r.len < r.word) {p : Nat}
    (hpart : s.partOfCore n = some p) (hrun : (s.part p).state = .running) (hclean : s.NoFault n) (opc : Nat) :
    ((s.loneBlend n opc w).part p).state = .faulted ∧ bits ((s.loneBlend n opc w).reg (Reg.engineStatus n)) 8 8 = Sf.blendRange ∧
      (s.loneBlend n opc w).mem = s.mem := by
  obtain ⟨hpend, hmmas, hmvps, hports, -⟩ := hq
  rw [State.loneBlend_running hmay hblend, State.blendTurn_beyond hidle hbeyond]
  obtain ⟨⟨hstate, -, -, hmem⟩, hcause, f, hcore⟩ := State.coreFault_faultedBy hrun hpart hclean (code := Sf.blendRange) (by decide) hn
    ⟨7, some r.word, (s.core n).seq.next⟩
  have hcalm : ((s.coreFault n Sf.blendRange ⟨7, some r.word, (s.core n).seq.next⟩).core n).Calm := by
    intro q hmem
    simp [hcore, hpend] at hmem
  obtain ⟨v, l, hend⟩ := State.endCycle_calm hcalm
    (State.engineReads_idle (by rw [hcore, hmmas]) (by rw [hcore, hmvps]) (by rw [hcore, hports]) _)
  rw [hend]
  exact ⟨hstate, hcause, hmem⟩

end

/-- Each of the six commands is one cycle that issues only its blend word. -/
theorem exec_eq_loneBlend {s : State} {n : CoreId} {w : DWord} {i : Instr}
    (h : i ∈ [Instr.nop n w, .endBlend n w, .loop n w, .fadd n w, .mov n w, .blendLd n w]) : ∃ opc, exec i s = .next (s.loneBlend n opc w) := by
  simp only [List.mem_cons, List.not_mem_nil, or_false] at h
  rcases h with rfl | rfl | rfl | rfl | rfl | rfl <;> exact ⟨_, rfl⟩

/-- Settles O10: the word at the blend's place, an idle cycle of it, and a place outside it. -/
theorem blendSequence : Obligations.BlendSequence := by
  unfold Obligations.BlendSequence
  intro s n w r hq hmay hblend
  refine ⟨?endBlend, ?nop, ?loop, ?idle, ?beyond⟩
  case endBlend =>
    intro here hlegal
    exact congrArg Host.Outcome.next (State.loneBlend_withRun hq hmay hblend (r' := none)
      ((State.blendTurn_here here).trans (State.blendWord_end hlegal)))
  case nop =>
    intro here hlegal hloops
    refine (congrArg Host.Outcome.next
      (State.loneBlend_withRun hq hmay hblend ((State.blendTurn_here here).trans (State.blendWord_nop hlegal hloops)))).trans ?_
    simp [VecState.withRun, hloops, loopIndex]
  case loop =>
    intro here hlegal hloops hbody hsa hcount
    exact ⟨_, congrArg Host.Outcome.next (State.loneBlend_withRun hq hmay hblend
      ((State.blendTurn_here here).trans (State.blendWord_loop hlegal hloops hbody hsa hcount))), rfl⟩
  case idle =>
    intro hidle i hi
    obtain ⟨opc, hexec⟩ := exec_eq_loneBlend (s := s) hi
    exact hexec.trans (congrArg Host.Outcome.next (State.loneBlend_withRun hq hmay hblend (State.blendTurn_idle hidle _)))
  case beyond =>
    intro hidle hbeyond p hpart hrun hpc hfirst i hi
    obtain ⟨opc, hexec⟩ := exec_eq_loneBlend (s := s) hi
    exact ⟨_, hexec, State.loneBlend_beyond hq hmay hblend n.isLt hidle hbeyond hpart hrun ⟨hpc, hfirst⟩ opc⟩

end Sys2Proof.Machine

namespace Sys2Proof.Machine

/-! ## The end of a slot word's cycle (05 R139) -/

/-- A write of a register, a byte pointer or a token, or a token's raise: it reads no memory and uses no bank port. -/
def Effect.still : Effect → Bool
  | .tokenUp .. => true
  | e => e.plain

theorem Effect.still_ports {e : Effect} (h : e.still = true) (r : Option Ring) : e.ports r = ([], []) := by
  cases e <;> simp_all [Effect.still, Effect.plain, Effect.ports]

theorem Effect.still_send {e : Effect} (h : e.still = true) : e.isSend = false := by
  cases e <;> simp_all [Effect.still, Effect.plain, Effect.isSend]

theorem readEffect_still {p : Pending} (h : p.eff.still = true) (s : State) (n : Nat) : s.readEffect n p = (s, [p]) := by
  unfold State.readEffect
  split <;> simp_all [Effect.still, Effect.plain]

section
variable {l : List Pending} (h : ∀ p ∈ l, p.eff.still = true)
include h

theorem portUse_still (r : Option Ring) : portUse r l = [] := by
  refine List.flatMap_eq_nil_iff.2 fun x hx => ?_
  simp [Effect.still_ports (h x.1 (List.fst_mem_of_mem_zipIdx hx))]

theorem readEffects_still (s : State) (n : Nat) (r : List Pending) :
    l.foldl (fun (a : State × List Pending) p => let x := a.1.readEffect n p; (x.1, a.2 ++ x.2)) (s, r) = (s, r ++ l) := by
  induction l generalizing r with
  | nil => simp
  | cons p l ih =>
    have hrest := ih (fun q hq => h q (List.mem_cons_of_mem _ hq)) (r ++ [p])
    rw [List.foldl_cons, readEffect_still (h p List.mem_cons_self)]
    simpa using hrest

end

section
variable {s : State} {n : Nat} {c u : Core} {d l : List Pending}

/-- A cycle in which only writes d of the core's own registers are due: they leave core u, l stays in flight, and the next cycle starts. -/
theorem State.endCycle_still (hq : ∀ p, s.partOfCore n = some p → s.partIn p [.faulted] = false)
    (hreads : (s.setCore n c).engineReads n c.seq.now = [])
    (hd : c.seq.pend.filter (fun p => decide (p.due ≤ c.seq.now) && !p.eff.isSend) = d)
    (hl : c.seq.pend.filter (fun p => !(decide (p.due ≤ c.seq.now) && !p.eff.isSend)) = l)
    (hstill : ∀ p ∈ d, p.eff.still = true)
    (hu : (d.foldr insertRank []).foldl (fun s p => s.applyEffect n p) (s.setCore n { c with seq := { c.seq with pend := l } }) = s.setCore n u)
    (hpend : u.seq.pend = l) (hnow : u.seq.now = c.seq.now) :
    (s.setCore n c).endCycle n = (s.setCore n (u.after l)).startCycle n := by
  unfold State.endCycle
  extract_lets c' k isDue due q s1 ring use bad lost ok moved s2 r now next s3 c3 q3 s4 blame s5 c5 q5 s6 frozen
  have hc : c' = c := State.core_setCore_same ..
  have hk : k = c.seq.now := by rw [show k = c'.seq.now from rfl, hc]
  have hisDue : isDue = fun p => decide (p.due ≤ c.seq.now) && !p.eff.isSend := by
    funext p
    rw [show isDue p = (decide (p.due ≤ k) && !p.eff.isSend) from rfl, hk]
  have hs1 : s1 = s.setCore n { c with seq := { c.seq with pend := l } } := by
    unfold s1 q
    rw [hisDue, hc, hl, State.setCore_setCore]
  have hdue : due = d := by
    unfold due
    rw [hc, hisDue, hd, hk, hreads, List.append_nil]
  have huse : use = [] := by
    unfold use
    rw [hdue]
    exact portUse_still hstill ring
  have hbad : bad = [] := by
    unfold bad
    rw [huse, testedUse_nil]
    rfl
  have hok : ok = d := by
    have hall : due.zipIdx.filter (fun x => !lost x) = due.zipIdx := List.filter_eq_self.2 fun x _ => by simp [lost, huse]
    unfold ok
    rw [hall, List.zipIdx_map_fst, hdue]
  have hmoved : ∀ f, f ([], []) = [] → moved f = 0 := by
    intro f hf
    refine List.sum_eq_zero fun m hm => ?_
    obtain ⟨p, hp, rfl⟩ := List.mem_map.1 hm
    rw [Effect.still_ports (hstill p (hok ▸ hp)), hf]
    rfl
  have hs2 : s2 = s1 := by
    unfold s2
    rw [hmoved _ rfl, hmoved _ rfl, Nat.mul_zero, State.tallyCore_zero, State.tallyCore_zero]
  have hr : r = (s1, d) := by
    unfold r
    rw [hok, hs2, readEffects_still hstill, List.nil_append]
  have hsame : d.filter isDue = d := by
    rw [← hd, hisDue, List.filter_filter]
    simp
  have hnext : next = [] := by
    refine List.filter_eq_nil_iff.2 fun p hp => ?_
    rw [hr, ← hsame] at hp
    simp [(List.mem_filter.1 hp).2]
  have hs3 : s3 = s.setCore n u := by
    unfold s3 now
    rw [hr, hsame, hs1, hu]
  have hs4 : s4 = s.setCore n u := by
    unfold s4 q3 c3
    rw [hs3, hnext, State.core_setCore_same, State.setCore_setCore, List.append_nil]
  have hs5 : s5 = s4 := by
    unfold s5
    rw [hbad]
    rfl
  have hs6 : s6 = s.setCore n (u.after l) := by
    unfold s6 q5 c5
    rw [hs5, hs4, State.core_setCore_same, State.setCore_setCore, hk, ← hnow, ← hpend]
    rfl
  have hfrozen : frozen = false := by
    unfold frozen
    rw [hs6, State.setCore_partOfCore]
    split
    · next p hp => rw [State.setCore_partIn, hq p hp, Bool.false_and]
    · rfl
  rw [hfrozen, hs6]
  rfl

end
end Sys2Proof.Machine

namespace Sys2Proof.Machine

/-! ## What a slot word's issue leaves in flight (05 R139) -/

/-- A write of an S, A, P or L register, of V lanes, or of a token that a wait takes from. -/
def Effect.writesSlot : Effect → Bool
  | .sreg .. | .areg .. | .preg .. | .lreg .. | .vreg .. | .tokenDown .. => true
  | _ => false

theorem Effect.writesSlot_still {e : Effect} (h : e.writesSlot = true) : e.still = true := by
  cases e <;> simp_all [Effect.writesSlot, Effect.still, Effect.plain]

/-- Core c after such a write. -/
def Core.slotWrite (c : Core) : Effect → Core
  | .sreg i x => c.putS i x
  | .areg i x => c.putA i x
  | .preg i x => c.putP i x
  | .lreg i x => c.putL i x
  | .vreg i sel val => c.putV i sel val
  | .tokenDown k m => { c with seq := { c.seq with k := SMap.set 0 c.seq.k k (c.k k - m) } }
  | _ => c

theorem State.applyEffect_writesSlot {p : Pending} (h : p.eff.writesSlot = true) (s : State) (n : Nat) (c : Core) :
    (s.setCore n c).applyEffect n p = s.setCore n (c.slotWrite p.eff) := by
  obtain ⟨due, issued, slot, bundle, blend, e⟩ := p
  cases e with
  | sreg | areg | lreg | vreg | tokenDown =>
    simp [State.applyEffect, Core.slotWrite, Core.putS, Core.putA, Core.putL, Core.putV, Core.k]
  | preg i x =>
    simp only [State.applyEffect, Core.slotWrite, Core.putP, State.core_setCore_same, State.setCore_setCore]
    split <;> rfl
  | _ => cases h

theorem Core.slotWrite_now (c : Core) (e : Effect) : (c.slotWrite e).seq.now = c.seq.now := by
  cases e with
  | preg i x =>
    simp only [Core.slotWrite, Core.putP]
    split <;> rfl
  | _ => rfl

theorem Core.slotWrite_withPend (c : Core) (l : List Pending) (e : Effect) :
    ({ c with seq := { c.seq with pend := l } } : Core).slotWrite e =
      { c.slotWrite e with seq := { (c.slotWrite e).seq with pend := l } } := by
  cases e with
  | preg i x =>
    simp only [Core.slotWrite, Core.putP]
    split <;> rfl
  | _ => rfl

/-- Core c with effects of a slot word's present issue in flight, each with the cycles until it is due. -/
def Core.slotIssues (c : Core) (slot : Nat) (xs : List (Nat × Effect)) : Core := xs.foldl (fun c x => c.later x.1 slot none x.2) c

/-- Core c after those of the effects that are due in the issue cycle itself, in the order of their issue. -/
def Core.slotWrites (c : Core) (xs : List (Nat × Effect)) : Core := (xs.filter (·.1 == 0)).foldl (fun c x => c.slotWrite x.2) c

/-- Those of the effects that stay in flight. -/
def Core.slotFlying (c : Core) (slot : Nat) (xs : List (Nat × Effect)) : List Pending :=
  (xs.filter (·.1 != 0)).map (fun x => c.effect x.1 slot x.2)

theorem Core.slotIssues_eq (c : Core) (slot : Nat) (xs : List (Nat × Effect)) :
    c.slotIssues slot xs = { c with seq := { c.seq with pend := c.seq.pend ++ xs.map (fun x => c.effect x.1 slot x.2) } } := by
  induction xs generalizing c with
  | nil => simp [Core.slotIssues]
  | cons x xs ih =>
    refine (ih (c.later x.1 slot none x.2)).trans ?_
    simp [Core.later, Core.effect]

theorem State.applyEffects_writesSlot {l : List Pending} (h : ∀ p ∈ l, p.eff.writesSlot = true) (s : State) (n : Nat) (c : Core) :
    l.foldl (fun s p => s.applyEffect n p) (s.setCore n c) = s.setCore n (l.foldl (fun c p => c.slotWrite p.eff) c) := by
  induction l generalizing c with
  | nil => rfl
  | cons p l ih =>
    rw [List.foldl_cons, List.foldl_cons, State.applyEffect_writesSlot (h p List.mem_cons_self)]
    exact ih (fun q hq => h q (List.mem_cons_of_mem _ hq)) _

theorem Core.slotWrites_withPend (c : Core) (l : List Pending) (xs : List (Nat × Effect)) :
    ({ c with seq := { c.seq with pend := l } } : Core).slotWrites xs = { c.slotWrites xs with seq := { (c.slotWrites xs).seq with pend := l } } := by
  unfold Core.slotWrites
  induction xs.filter (·.1 == 0) generalizing c with
  | nil => rfl
  | cons x xs ih =>
    rw [List.foldl_cons, List.foldl_cons, Core.slotWrite_withPend]
    exact ih _

theorem Core.slotWrites_now (c : Core) (xs : List (Nat × Effect)) : (c.slotWrites xs).seq.now = c.seq.now :=
  List.foldlRecOn (motive := fun d : Core => d.seq.now = c.seq.now) _ _ rfl fun d hd x _ => (d.slotWrite_now x.2).trans hd

theorem State.startCycle_setCore {s : State} {n : Nat} {c : Core} (h : ∀ q ∈ c.seq.pend, q.eff.isSend = true → c.seq.now < q.due) :
    (s.setCore n c).startCycle n = s.setCore n c := by
  have hnone : c.seq.pend.filter (fun p => p.eff.isSend && decide (p.due ≤ c.seq.now)) = [] := by
    refine List.filter_eq_nil_iff.2 fun q hq => ?_
    simpa using h q hq
  have hall : c.seq.pend.filter (fun p => !(p.eff.isSend && decide (p.due ≤ c.seq.now))) = c.seq.pend := by
    refine List.filter_eq_self.2 fun q hq => ?_
    have := h q hq
    cases hs : q.eff.isSend <;> simp_all
  unfold State.startCycle
  simp only [State.core_setCore_same, hnone, hall, State.setCore_setCore]

/-- What a core's engines read follows from the engines alone. -/
theorem State.engineReads_congr {s : State} {n : Nat} {c d : Core} (h : c.eng = d.eng) (k : Nat) :
    (s.setCore n c).engineReads n k = (s.setCore n d).engineReads n k := by
  unfold State.engineReads
  rw [State.core_setCore_same, State.core_setCore_same, h]
  rfl

section
variable {s : State} {n slot : Nat} {c : Core} {xs : List (Nat × Effect)}
  (hq : ∀ p, s.partOfCore n = some p → s.partIn p [.faulted] = false) (hpend : c.seq.pend = [])
include hq hpend

/-- The cycle of a slot word's issue, on a core that had nothing in flight: what is due at once is written in the order of its issue, the rest
stays in flight, and the next cycle starts. -/
theorem State.endCycle_slotIssues (hreads : (s.setCore n c).engineReads n c.seq.now = [])
    (hnow : ∀ x ∈ xs, x.1 = 0 → x.2.writesSlot = true) :
    (s.setCore n (c.slotIssues slot xs)).endCycle n = (s.setCore n ((c.slotWrites xs).after (c.slotFlying slot xs))).startCycle n := by
  have hdue : ∀ x ∈ xs, (decide (c.seq.now + x.1 ≤ c.seq.now) && !x.2.isSend) = (x.1 == 0) := by
    intro x hx
    by_cases h : x.1 = 0
    · simp [h, Effect.still_send (Effect.writesSlot_still (hnow x hx h))]
    · simp [h]
  have hwrite : ∀ p ∈ (xs.filter (·.1 == 0)).map (fun x => c.effect x.1 slot x.2), p.eff.writesSlot = true := by
    intro p hp
    obtain ⟨x, hx, rfl⟩ := List.mem_map.1 hp
    obtain ⟨hmem, hzero⟩ := List.mem_filter.1 hx
    exact hnow x hmem (by simpa using hzero)
  rw [Core.slotIssues_eq, hpend, List.nil_append]
  refine State.endCycle_still (d := (xs.filter (·.1 == 0)).map (fun x => c.effect x.1 slot x.2)) (l := c.slotFlying slot xs)
    (u := { c.slotWrites xs with seq := { (c.slotWrites xs).seq with pend := c.slotFlying slot xs } })
    hq ((State.engineReads_congr (by rfl) _).trans hreads) ?due ?flying (fun p hp => Effect.writesSlot_still (hwrite p hp)) ?writes rfl (c.slotWrites_now xs)
  case due =>
    rw [List.filter_map]
    exact congrArg _ (List.filter_congr hdue)
  case flying =>
    rw [List.filter_map]
    exact congrArg _ (List.filter_congr fun x hx => congrArg (!·) (hdue x hx))
  case writes =>
    rw [foldr_insertRank_of_rank (k := c.seq.now * 16 + slot), State.applyEffects_writesSlot hwrite, List.foldl_map,
      ← Core.slotWrites_withPend]
    · rfl
    · intro p hp
      obtain ⟨x, -, rfl⟩ := List.mem_map.1 hp
      rfl

/-- Without a flit on its way that cycle's start changes nothing. -/
theorem State.endCycle_slot (hreads : (s.setCore n c).engineReads n c.seq.now = [])
    (hnow : ∀ x ∈ xs, x.1 = 0 → x.2.writesSlot = true) (hsend : ∀ x ∈ xs, x.2.isSend = false) :
    (s.setCore n (c.slotIssues slot xs)).endCycle n = s.setCore n ((c.slotWrites xs).after (c.slotFlying slot xs)) := by
  rw [State.endCycle_slotIssues hq hpend hreads hnow, State.startCycle_setCore]
  intro p hp hs
  obtain ⟨x, hx, rfl⟩ := List.mem_map.1 hp
  rw [show (c.effect x.1 slot x.2).eff = x.2 from rfl, hsend x (List.mem_of_mem_filter hx)] at hs
  cases hs

end

section
variable {s : State} {n slot : Nat} {w : Word}

theorem Quiet.pend (h : Quiet s n) : (s.core n).seq.pend = [] := by
  obtain ⟨hpend, -⟩ := h
  exact hpend

theorem Quiet.ports (h : Quiet s n) : (s.core n).eng.ports = [] := by
  obtain ⟨-, -, -, hports, -⟩ := h
  exact hports

theorem Quiet.notFaulted (h : Quiet s n) : ∀ p, s.partOfCore n = some p → s.partIn p [.faulted] = false := by
  obtain ⟨-, -, -, -, hfault⟩ := h
  exact hfault

theorem Quiet.noReads (h : Quiet s n) {c : Core} (heng : c.eng = (s.core n).eng) (k : Nat) : (s.setCore n c).engineReads n k = [] := by
  obtain ⟨-, hmmas, hmvps, hports, -⟩ := h
  refine State.engineReads_idle ?_ ?_ ?_ k <;> rw [State.core_setCore_same, heng] <;> assumption

theorem Quiet.setCore (hq : Quiet s n) {c : Core} (hpend : c.seq.pend = []) (heng : c.eng = (s.core n).eng) : Quiet (s.setCore n c) n := by
  obtain ⟨-, hmmas, hmvps, hports, hfault⟩ := hq
  unfold Quiet
  rw [State.core_setCore_same, heng]
  exact ⟨hpend, hmmas, hmvps, hports, hfault⟩

theorem SlotActs.acts (h : SlotActs s n slot w) : slotActs (s.core n) slot w = true := by
  obtain ⟨-, -, -, hacts⟩ := h
  exact hacts

/-- What a slot word that is no branch does in its cycle. -/
theorem SlotActs.performs (h : SlotActs s n slot w) (hb : slot = 0 → seqBranch (s.core n) w = none) {u : State}
    (hdoes : s.slotPerform n slot w = if ¬ slotActs (s.core n) slot w then s else u) : s.loneSlot n slot w = u.endCycle n := by
  rw [loneSlot_acts h hb, hdoes, if_neg (not_not.2 h.acts)]

end

end Sys2Proof.Machine

namespace Sys2Proof.Machine

/-! ## The SEQ slot's scalar operations (05 R143) -/

section
variable {s : State} {n : Nat} {w : Word} {op : Nat}

/-- A sign-extended immediate of a slot word does not depend on the opcode. -/
theorem sextW_withOp (w : Word) (op lo k : Nat) (h : lo + k ≤ 27) :
    sextW (withOp w op).toNat lo k = BitVec.ofInt 32 (sext k (bits w lo k)) := by
  rw [← bits_withOp w op lo k h, sextW, sext, sext, bits, Nat.mod_mod]

/-- What a SEQ word that is no branch does in its cycle. -/
theorem SlotActs.seqPerforms (h : SlotActs s n 0 (withOp w op)) (hop : op < 32) (hjmp : op ≠ 1) (hlend : op ≠ 3) :
    s.loneSlot n 0 (withOp w op) = (seqPerform s n (withOp w op)).endCycle n := by
  have hw := swOp_withOp w op hop
  exact h.performs (fun _ => seqBranch_other _ _ (by rwa [hw]) (by rwa [hw])) rfl

/-- A loop counter holds 16 bits. -/
theorem Core.putL_mod (c : Core) (i x : Nat) : c.putL i (x % 65536) = c.putL i x := by simp [Core.putL]

/-- One register is written in the issue cycle. -/
theorem State.endCycle_slotWrite {c : Core} {e : Effect} {slot : Nat} (hq : Quiet s n) (hcore : s.core n = c) (h : e.writesSlot = true) :
    (s.slotLater n slot 0 e).endCycle n = s.setCore n ((c.slotWrite e).after []) := by
  subst hcore
  exact State.endCycle_slot (xs := [(0, e)]) hq.notFaulted hq.pend (hq.noReads rfl _) (by simpa using h)
    (by simp [Effect.still_send (Effect.writesSlot_still h)])

theorem SlotActs.seqWrite (h : SlotActs s n 0 (withOp w op)) (hq : Quiet s n) (hop : op < 32) (hjmp : op ≠ 1) (hlend : op ≠ 3) {e : Effect}
    (hdoes : seqPerform s n (withOp w op) = s.slotLater n 0 0 e) (he : e.writesSlot = true) :
    s.loneSlot n 0 (withOp w op) = s.setCore n (((s.core n).slotWrite e).after []) := by
  rw [h.seqPerforms hop hjmp hlend, hdoes, State.endCycle_slotWrite hq rfl he]

end

/-- Settles O4: each word is one write in its issue cycle. -/
theorem seqScalar : Obligations.SeqScalar := by
  unfold Obligations.SeqScalar
  intro s n w hq c x does
  have run {i : Instr} {op : Nat} (e : Effect) (hexec : exec i s = .next (s.loneSlot n 0 (withOp w op))) (he : e.writesSlot = true)
      (hop : op < 32 ∧ op ≠ 1 ∧ op ≠ 3) (hdoes : seqPerform s n (withOp w op) = s.slotLater n 0 0 e) : does i op (c.slotWrite e) := by
    obtain ⟨hlt, hjmp, hlend⟩ := hop
    exact fun h => hexec.trans (congrArg Host.Outcome.next (h.seqWrite hq hlt hjmp hlend hdoes he))
  refine ⟨run (.sreg (bits w 18 5) (salu (bits w 0 4) (c.s (bits w 13 5)) (c.s (bits w 8 5)))) rfl rfl (by decide) ?salu,
    run (.sreg (bits w 18 5) (c.s (bits w 13 5) + x 0 13)) rfl rfl (by decide) ?saddi,
    fun hhigh => run (.sreg (bits w 18 5) (x 0 16)) rfl rfl (by decide) ?smovLow,
    fun hhigh => run (.sreg (bits w 18 5) (BitVec.ofNat 32 ((c.s (bits w 18 5)).toNat % 2 ^ 16 + bits w 0 16 * 2 ^ 16))) rfl rfl (by decide) ?smovHigh,
    run (.sreg (bits w 18 5) (s.srd n (bits w 0 5))) rfl rfl (by decide) ?srd,
    fun hreg => run (.areg (bits w 19 4) (c.a (bits w 15 4) + x 0 14)) rfl rfl (by decide) ?aaddImm,
    fun hreg => run (.areg (bits w 19 4) (c.a (bits w 15 4) + c.s (bits w 0 5))) rfl rfl (by decide) ?aaddReg,
    fun hback => run (.areg (bits w 19 4) (c.s (bits w 13 5))) rfl rfl (by decide) ?amovTo,
    fun hback => run (.sreg (bits w 13 5) (c.a (bits w 19 4))) rfl rfl (by decide) ?amovFrom,
    fun himm => run (.preg (bits w 20 3) (setpCond (bits w 0 3) (c.s (bits w 15 5)) (c.s (bits w 9 5)))) rfl rfl (by decide) ?setpReg,
    fun himm => run (.preg (bits w 20 3) (setpCond (bits w 0 3) (c.s (bits w 15 5)) (x 4 10))) rfl rfl (by decide) ?setpImm,
    run (.preg (bits w 20 3) (plog (bits w 0 2) (c.p (bits w 17 3)) (c.p (bits w 14 3)))) rfl rfl (by decide) ?plog,
    fun himm => run (.lreg (bits w 21 2) (bits w 0 16)) rfl rfl (by decide) ?lsetImm,
    fun himm => c.putL_mod _ _ ▸ run (.lreg (bits w 21 2) ((c.s (bits w 0 5)).toNat % 65536)) rfl rfl (by decide) ?lsetReg⟩
  all_goals simp [seqPerform, swOp_withOp, bits_withOp, sextW_withOp, *, c, x]

end Sys2Proof.Machine

namespace Sys2Proof.Machine

/-! ## The SEQ slot's branches, tokens and halt (05 R143, R144, R147, R148, R151) -/

section
variable {s : State} {n : Nat} {w : Word}

/-- A SEQ word that acts has its predicate and raises no fault. -/
theorem SlotActs.seqClean (h : SlotActs s n 0 w) : (s.core n).acts w = true ∧ seqFaults (s.core n) (s.realNow n) w = [] := by
  obtain ⟨-, -, hfault, hacts⟩ := h
  have hacts : (s.core n).acts w = true := by simpa [slotActs] using hacts
  unfold State.slotFault at hfault
  extract_lets c a code at hfault
  split at hfault
  · next hslot => exact absurd hslot.1 (by decide)
  split at hfault
  · cases hfault
  exact ⟨hacts, leastCode_eq_none (Option.map_eq_none_iff.1 hfault)⟩

/-- A branch that is taken sets the next bundle after the cycle's end. -/
theorem SlotActs.seqBranches (h : SlotActs s n 0 w) {b : Nat} (hb : seqBranch (s.core n) w = some b) {c : Core}
    (hend : (seqPerform s n w).endCycle n = s.setCore n c) :
    s.loneSlot n 0 w = s.setCore n { c with seq := { c.seq with next := b } } := by
  obtain ⟨hmay, hlegal, hfault, hacts⟩ := h
  have hperform : s.slotPerform n 0 w = seqPerform s n w := if_neg (not_not.2 hacts)
  unfold State.loneSlot
  rw [if_neg (not_not.2 hmay), if_neg (not_not.2 hlegal), hfault]
  simp only [if_pos, hb, hperform, hend, State.core_setCore_same, State.setCore_setCore]

/-- A TADD that acts finds its token of good parity and with room (05 R142, R148). -/
theorem SlotActs.tokenFits (h : SlotActs s n 0 (withOp w 5)) :
    (s.core n).bad (parK (bits w 19 4)) = false ∧ (s.core n).k (bits w 19 4) + bits w 0 8 ≤ 0xFFFF := by
  obtain ⟨-, hclean⟩ := h.seqClean
  simp only [seqFaults, swOp_withOp _ _ (show 5 < 32 by decide), bits_withOp _ _ _ _ (show 19 + 4 ≤ 27 by decide),
    bits_withOp _ _ _ _ (show 0 + 8 ≤ 27 by decide), List.append_eq_nil_iff, regFault] at hclean
  obtain ⟨hparity, hover⟩ := hclean
  constructor
  · simpa using hparity
  · by_contra hlarge
    exact absurd hover (by rw [if_pos (by omega)]; simp)

/-- Core c with a wait pending for m of token k, since real cycle r and time t. -/
def Core.waiting (c : Core) (k m r t : Nat) : Core :=
  { c with seq := { c.seq with waits := c.seq.waits ++ [⟨k, m, r, t, c.seq.next, SMap.get 0 c.seq.kBy k⟩] } }

/-- Nothing is written in the issue cycle of a word that changes the core itself at once. -/
theorem State.endCycle_seq (hq : Quiet s n) {c : Core} (hpend : c.seq.pend = []) (heng : c.eng = (s.core n).eng) :
    (s.setCore n c).endCycle n = s.setCore n (c.after []) :=
  State.endCycle_slot (slot := 0) (xs := []) hq.notFaulted hpend (hq.noReads heng _) (by simp) (by simp)

/-- A token's raise that does not overflow a token of good parity. -/
theorem State.endCycle_tokenUp (hq : Quiet s n) {k m : Nat} (hgood : (s.core n).bad (parK k) = false) (hroom : (s.core n).k k + m ≤ 0xFFFF)
    (by_ : Word) :
    let c := s.core n
    (s.slotLater n 0 0 (.tokenUp k m by_)).endCycle n = s.setCore n { c.after [] with seq := { (c.after []).seq with
      k := SMap.set 0 c.seq.k k (c.k k + m), kBy := SMap.set 0 c.seq.kBy k by_ } } := by
  intro c
  have hpend : (c.later 0 0 none (.tokenUp k m by_)).seq.pend = [c.effect 0 0 (.tokenUp k m by_)] := by
    rw [Core.later, hq.pend]
    rfl
  have hover : ¬ c.k k + m > 0xFFFF := Nat.not_lt.2 hroom
  have hmin : min (c.k k + m) 0xFFFF = c.k k + m := Nat.min_eq_left hroom
  have hgood' : c.seq.badParity.contains (parK k) = false := hgood
  have hend := State.endCycle_still (s := s) (n := n) (c := c.later 0 0 none (.tokenUp k m by_)) (d := [c.effect 0 0 (.tokenUp k m by_)]) (l := [])
    (u := { c with seq := { c.seq with pend := [], k := SMap.set 0 c.seq.k k (c.k k + m), kBy := SMap.set 0 c.seq.kBy k by_ } })
    hq.notFaulted (hq.noReads (by rfl) _) ?due ?rest ?still ?raise rfl rfl
  · exact hend.trans (State.startCycle_setCore (by simp [Core.after]))
  case due => rw [hpend]; simp [Core.later, Core.effect, Effect.isSend]
  case rest => rw [hpend]; simp [Core.later, Core.effect, Effect.isSend]
  case still => simp [Core.effect, Effect.still]
  case raise =>
    simp only [List.foldr_cons, List.foldr_nil, insertRank, List.foldl_cons, List.foldl_nil, Core.effect, State.applyEffect, State.tokenAdd,
      State.core_setCore_same, Core.later, hgood', State.setCore_setCore, Bool.false_eq_true, ↓reduceIte]
    rw [show SMap.get 0 c.seq.k k = c.k k from rfl, hmin, if_neg hover]
end
/-- Settles O5: a branch after the cycle's end, a wait that takes or stays, a token's raise, and the halt. -/
theorem seqControl : Obligations.SeqControl := by
  unfold Obligations.SeqControl
  intro s n w hq c l k m acts does
  have branch {op : Nat} (hop : op = 1 ∨ op = 3 ∧ 1 < l) (h : acts op) : seqBranch c (withOp w op) = some (bits w 0 10) := by
    have hacts : c.acts (withOp w op) = true := h.seqClean.1
    rcases hop with rfl | ⟨rfl, hl⟩
    · simp [seqBranch, hacts, swOp_withOp, bits_withOp]
    · simp [seqBranch, hacts, swOp_withOp, bits_withOp, show 1 < c.l (bits w 21 2) from hl]
  have lend : seqPerform s n (withOp w 3) = s.slotLater n 0 0 (.lreg (bits w 21 2) (if l > 1 then l - 1 else 0)) := by
    simp [seqPerform, swOp_withOp, bits_withOp, c, l]
  refine ⟨?jmp, ?lendTaken, ?lendLeft, ?waitTakes, ?waitStays, ?tadd, ?halt⟩
  case jmp =>
    intro h
    have hend : (seqPerform s n (withOp w 1)).endCycle n = s.setCore n (c.after []) := by
      simp [seqPerform, swOp_withOp, endCycle_quiet hq, c]
    exact congrArg Host.Outcome.next (h.seqBranches (branch (.inl rfl) h) hend)
  case lendTaken =>
    intro hl h
    rw [if_pos hl] at lend
    exact congrArg Host.Outcome.next (h.seqBranches (branch (.inr ⟨rfl, hl⟩) h)
      (lend ▸ State.endCycle_slotWrite hq rfl rfl))
  case lendLeft =>
    intro hl h
    rw [if_neg (Nat.not_lt.2 hl)] at lend
    have hnone : seqBranch c (withOp w 3) = none := by
      simp [seqBranch, swOp_withOp, bits_withOp, show ¬ 1 < c.l (bits w 21 2) from Nat.not_lt.2 hl]
    exact congrArg Host.Outcome.next ((h.performs (fun _ => hnone) rfl).trans (lend ▸ State.endCycle_slotWrite hq rfl rfl))
  case waitTakes =>
    intro hready h
    refine congrArg Host.Outcome.next (h.seqWrite hq (by decide) (by decide) (by decide) (e := .tokenDown k m) ?_ rfl)
    simp [seqPerform, swOp_withOp, bits_withOp, show (s.core n).waitPends (bits w 19 4) (bits w 0 8) (s.realNow n) = false from hready, k, m]
  case waitStays =>
    intro h hpends
    obtain ⟨tr, tq, htrace⟩ := State.traceCore_only (s.setCore n (c.waiting k m (s.realNow n) s.timebase)) n 0x01 c.seq.next k 0 0
      (m % 256 + 256 * c.k k)
    have hdoes : seqPerform s n (withOp w 4) =
        State.setCore { s with trace := tr, traceQ := tq } n (c.waiting k m (s.realNow n) s.timebase) := by
      simp only [seqPerform, swOp_withOp _ _ (show 4 < 32 by decide), bits_withOp _ _ _ _ (show 19 + 4 ≤ 27 by decide),
        bits_withOp _ _ _ _ (show 0 + 8 ≤ 27 by decide)]
      exact (if_pos hpends).trans htrace
    have hend := State.endCycle_seq (s := { s with trace := tr, traceQ := tq }) (n := n) hq (c := c.waiting k m (s.realNow n) s.timebase)
      hq.pend rfl
    refine ⟨_, congrArg Host.Outcome.next ((h.seqPerforms (by decide) (by decide) (by decide)).trans (hdoes ▸ hend)), ?_⟩
    rw [State.core_setCore_same]
    exact ⟨rfl, rfl, rfl, rfl⟩
  case tadd =>
    intro h
    obtain ⟨hgood, hroom⟩ := h.tokenFits
    refine congrArg Host.Outcome.next ((h.seqPerforms (by decide) (by decide) (by decide)).trans ?_)
    simp only [seqPerform, swOp_withOp _ _ (show 5 < 32 by decide), bits_withOp _ _ _ _ (show 19 + 4 ≤ 27 by decide),
      bits_withOp _ _ _ _ (show 0 + 8 ≤ 27 by decide)]
    exact State.endCycle_tokenUp hq hgood hroom _
  case halt =>
    intro h
    refine congrArg Host.Outcome.next ((h.seqPerforms (by decide) (by decide) (by decide)).trans ?_)
    simp only [seqPerform, swOp_withOp _ _ (show 14 < 32 by decide)]
    exact State.endCycle_seq hq hq.pend rfl
end Sys2Proof.Machine

namespace Sys2Proof.Machine

/-! ## The SRM slot (05 R154, R155, R156) -/

section
variable {s : State} {n slot : Nat} {w : Word} {xs : List (Nat × Effect)}

/-- Effects of a slot word, issued one after the other. -/
def State.laters (s : State) (n slot : Nat) (xs : List (Nat × Effect)) : State := xs.foldl (fun s x => s.slotLater n slot x.1 x.2) s

theorem State.laters_setCore (c : Core) : State.laters (s.setCore n c) n slot xs = s.setCore n (c.slotIssues slot xs) := by
  induction xs generalizing c with
  | nil => rfl
  | cons x xs ih =>
    refine Eq.trans ?_ (ih (c.later x.1 slot none x.2))
    simp [State.laters, State.slotLater]

theorem State.laters_eq (hxs : xs ≠ []) : s.laters n slot xs = s.setCore n ((s.core n).slotIssues slot xs) := by
  cases xs with
  | nil => exact absurd rfl hxs
  | cons x xs => exact State.laters_setCore ((s.core n).later x.1 slot none x.2)

/-- The move of A[Aa] with POST (05 R154). -/
def Core.srmMove (c : Core) (w : Word) : List (Nat × Effect) :=
  match (srmAddr c w).2 with
  | some x => [(0, .areg (bits w 14 4) x)]
  | none => []

/-- The move of A[Ab] by k, in BST and LST with POST (05 R154). -/
def Core.srmMoveB (c : Core) (w : Word) (k : Nat) : List (Nat × Effect) :=
  if bits w 13 1 = 1 then [(0, .areg (bits w 19 4) (c.a (bits w 19 4) + BitVec.ofNat 32 k))] else []

/-- The access that an SRM word with its opcode from 1 to 5 makes in the next cycle. -/
def Core.srmAccess (c : Core) (w : Word) : Effect :=
  let a := (srmAddr c w).1
  let d := bits w 18 5
  let lanes := (List.range 8).map (fun i => c.v d (8 * bits w 11 2 + i))
  match swOp w with
  | 1 => .rdSld a d
  | 2 => .rdSst a (c.s d)
  | 3 => .rdVld a d (bits w 11 2)
  | 4 => .sram a (lanesBytes lanes) (wordPoi lanes)
  | 5 => .rdTrd a (c.s (bits w 8 5)).toNat d (bits w 13 1 == 1) 0 [] []
  | 6 => .rdBst a ((c.a (bits w 19 4)).toNat % 1024)
  | _ => .rdLst a (c.a (bits w 19 4)).toNat

/-- An SRM word's effects, in the order of their issue. -/
def Core.srmEffects (c : Core) (w : Word) : List (Nat × Effect) :=
  c.srmMove w ++ [(1, c.srmAccess w)] ++ (if swOp w < 6 then [] else c.srmMoveB w (if swOp w = 6 then 1 else 4))

theorem srmPerform_eq (hlo : 1 ≤ swOp w) (hhi : swOp w ≤ 7) : srmPerform s n w = s.laters n 2 ((s.core n).srmEffects w) := by
  unfold srmPerform Core.srmEffects Core.srmMove Core.srmMoveB Core.srmAccess
  dsimp only
  generalize srmAddr (s.core n) w = r
  obtain ⟨a, x⟩ := r
  interval_cases swOp w <;> cases x <;> by_cases hpost : bits w 13 1 = 1 <;> simp only [hpost, if_true, if_false] <;> rfl

/-- Core c after an SRM word's moves of its pointers. -/
def Core.srmMoved (c : Core) (w : Word) : Core := c.slotWrites (c.srmEffects w)

theorem Core.srmFlying (c : Core) (w : Word) : c.slotFlying 2 (c.srmEffects w) = [c.effect 1 2 (c.srmAccess w)] := by
  unfold Core.slotFlying Core.srmEffects Core.srmMove Core.srmMoveB
  split <;> split_ifs <;> rfl

theorem Core.srmAccess_noSend (c : Core) (w : Word) : (c.srmAccess w).isSend = false := by
  unfold Core.srmAccess
  dsimp only
  split <;> rfl

/-- An SRM word moves its pointers and has its access in flight. -/
theorem SlotActs.srmSlot (h : SlotActs s n 2 w) (hq : Quiet s n) (hlo : 1 ≤ swOp w) (hhi : swOp w ≤ 7) :
    let c := s.core n
    s.loneSlot n 2 w = s.setCore n ((c.srmMoved w).after [c.effect 1 2 (c.srmAccess w)]) := by
  intro c
  have hperform : s.loneSlot n 2 w = (srmPerform s n w).endCycle n := h.performs (fun e => nomatch e) rfl
  rw [hperform, srmPerform_eq hlo hhi, State.laters_eq (by simp [Core.srmEffects]),
    State.endCycle_slot hq.notFaulted hq.pend (hq.noReads rfl _), c.srmFlying]
  · rfl
  · unfold Core.srmEffects Core.srmMove Core.srmMoveB
    split <;> split_ifs <;> simp [Effect.writesSlot]
  · unfold Core.srmEffects Core.srmMove Core.srmMoveB
    have hareg (i : Nat) (x : Word) : (Effect.areg i x).isSend = false := rfl
    split <;> split_ifs <;> simp [hareg, Core.srmAccess_noSend]

/-- An access of SRAM for a register moves A[Aa] alone. -/
theorem Core.srmMoved_one {c : Core} (hop : swOp w < 6) :
    c.srmMoved w = (srmAddr c w).2.elim c (c.putA (bits w 14 4)) := by
  unfold Core.srmMoved Core.srmEffects Core.srmMove
  rw [if_pos hop]
  cases (srmAddr c w).2 <;> rfl

end

/-- Settles O11: each word's access and its pointers' moves; of BST's and LST's two moves of one register Ab's stands (log 66). -/
theorem srmSlot : Obligations.SrmSlot := by
  unfold Obligations.SrmSlot
  intro s n w hq c d p aa ab moved at_ lanes does
  have run {i : Instr} {op : Nat} {core : Core} {e : Effect} (hexec : exec i s = .next (s.loneSlot n 2 (withOp w op)))
      (hop : 1 ≤ op ∧ op ≤ 7) (hmoved : c.srmMoved (withOp w op) = core) (haccess : c.srmAccess (withOp w op) = e) : does i op core e := by
    intro h
    have hw : swOp (withOp w op) = op := swOp_withOp w op (by omega)
    rw [hexec, h.srmSlot hq (by omega) (by omega), ← hmoved, ← haccess]
  have one {op : Nat} (hop : op < 6) : c.srmMoved (withOp w op) = moved op := by
    rw [Core.srmMoved_one (by rwa [swOp_withOp w op (by omega)]), bits_withOp w op 14 4 (by decide)]
    unfold moved
    cases (srmAddr c (withOp w op)).2 <;> rfl
  refine ⟨run rfl (by decide) (one (by decide)) ?sld, run rfl (by decide) (one (by decide)) ?sst, run rfl (by decide) (one (by decide)) ?vld,
    run rfl (by decide) (one (by decide)) ?vst, run rfl (by decide) ?trdMoved ?trd, fun hpost => run rfl (by decide) ?bstMoved ?bst,
    fun hpost => run rfl (by decide) ?lstMoved ?lst, fun hpost => run rfl (by decide) ?bstPosted ?bstPost,
    fun hpost => run rfl (by decide) ?lstPosted ?lstPost⟩
  case sld | sst | vld | vst | trd | bst | lst => simp [Core.srmAccess, swOp_withOp, bits_withOp, at_, d, p, ab, lanes]
  case trdMoved =>
    rw [one (by decide)]
    simp [moved, srmAddr, swOp_withOp]
  case bstMoved | lstMoved =>
    simp [Core.srmMoved, Core.srmEffects, Core.srmMove, Core.srmMoveB, Core.slotWrites, srmAddr, swOp_withOp, bits_withOp, hpost]
  case bstPosted | lstPosted =>
    simp [Core.srmMoved, Core.srmEffects, Core.srmMove, Core.srmMoveB, Core.slotWrites, Core.slotWrite, srmAddr, srmImm, srmUnit, swOp_withOp,
      bits_withOp, hpost, aa, ab]
  case bstPost | lstPost => simp [Core.srmAccess, srmAddr, swOp_withOp, bits_withOp, hpost, aa, ab]

end Sys2Proof.Machine

namespace Sys2Proof.Machine

/-! ## The LDS slot (05 R152, R153) -/

section
variable {s : State} {n : Nat} {w : Word}

/-- The port operation that an LDS word starts on core c. -/
def Core.ldsOp (c : Core) (w : Word) : EngineOp :=
  { word := w, ctl := BitVec.ofNat 32 (ldsCount c w), gA := (c.a (bits w 19 4)).toNat, gB := (c.a (bits w 15 4)).toNat, descA := 0, descB := 0,
    start := c.seq.now, k := 0, bundle := c.seq.next, rowsA := [], rowsB := [], beats := 0 }

/-- The port window that an LDS word opens, first and last cycle (05 R153). -/
def Core.ldsWindow (c : Core) (fast : Bool) (w : Word) : Nat × Nat :=
  (c.seq.now + 1, c.seq.now + portCycles fast (ldsCount c w))

/-- Core c with the word's operation on its list and its port window open. -/
def Core.ldsOpened (c : Core) (fast : Bool) (w : Word) : Core :=
  { c with eng := { c.eng with ports := c.eng.ports ++ [c.ldsOp w] },
           portBusy := c.portBusy.filter (fun x => decide (c.seq.now ≤ x.2)) ++ [c.ldsWindow fast w] }

/-- The moves of both address registers with POST (05 R152). -/
def Core.ldsMoves (c : Core) (w : Word) : List (Nat × Effect) :=
  if bits w 14 1 = 1 then
    [(0, .areg (bits w 19 4) (c.a (bits w 19 4) + BitVec.ofNat 32 (32 * ldsCount c w))),
     (0, .areg (bits w 15 4) (c.a (bits w 15 4) + BitVec.ofNat 32 (if swOp w = 3 then ldsCount c w else 32 * ldsCount c w)))]
  else []

theorem State.ldsPerform_eq :
    s.ldsPerform n w = State.laters (s.setCore n ((s.core n).ldsOpened (s.fastClock n) w)) n 1 ((s.core n).ldsMoves w) := by
  have hopen : (s.setCore n { s.core n with eng := { (s.core n).eng with ports := (s.core n).eng.ports ++ [(s.core n).ldsOp w] } }).openPort n
      ((s.core n).seq.now + 1) ((s.core n).seq.now + portCycles (s.fastClock n) (ldsCount (s.core n) w)) =
      s.setCore n ((s.core n).ldsOpened (s.fastClock n) w) := by
    simp only [State.openPort, State.core_setCore_same, State.setCore_setCore]
    rfl
  unfold State.ldsPerform Core.ldsMoves
  split
  · exact congrArg (fun u : State => (u.slotLater n 1 0 _).slotLater n 1 0 _) hopen
  · exact hopen

/-- An operation of the port makes no read in its issue cycle. -/
theorem EngineOp.stReads_issue (o : EngineOp) (fast : Bool) : o.stReads fast o.start = [] := if_pos (.inl (Nat.le_refl _))

theorem Core.ldsMoves_due {c : Core} {x : Nat × Effect} (h : x ∈ c.ldsMoves w) : x.1 = 0 ∧ x.2.writesSlot = true := by
  unfold Core.ldsMoves at h
  split at h
  · rcases List.mem_pair.1 h with rfl | rfl <;> exact ⟨rfl, rfl⟩
  · cases h

/-- Core c after an LDS word's cycle. -/
def Core.ldsIssued (c : Core) (fast : Bool) (w : Word) : Core := ((c.ldsOpened fast w).slotWrites (c.ldsMoves w)).after []

theorem SlotActs.ldsSlot (h : SlotActs s n 1 w) (hq : Quiet s n) :
    s.loneSlot n 1 w = s.setCore n ((s.core n).ldsIssued (s.fastClock n) w) := by
  obtain ⟨hpend, hmmas, hmvps, hports, hfault⟩ := hq
  have hperform : s.loneSlot n 1 w = (s.ldsPerform n w).endCycle n := h.performs (fun e => nomatch e) rfl
  have hreads : (s.setCore n ((s.core n).ldsOpened (s.fastClock n) w)).engineReads n (s.core n).seq.now = [] := by
    simp [State.engineReads, Core.ldsOpened, hmmas, hmvps, hports]
    exact ((s.core n).ldsOp w).stReads_issue _
  have hflying : ((s.core n).ldsOpened (s.fastClock n) w).slotFlying 1 ((s.core n).ldsMoves w) = [] := by
    unfold Core.slotFlying
    rw [List.filter_eq_nil_iff.2 fun x hx => by simp [(Core.ldsMoves_due hx).1]]
    rfl
  rw [hperform, State.ldsPerform_eq, State.laters_setCore,
    State.endCycle_slot (c := (s.core n).ldsOpened (s.fastClock n) w) hfault hpend hreads (fun x hx _ => (Core.ldsMoves_due hx).2)
      (fun x hx => Effect.still_send (Effect.writesSlot_still (Core.ldsMoves_due hx).2)), hflying]
  rfl

/-- The moves of the address registers leave the port's operations and windows alone. -/
theorem Core.ldsIssued_port (c : Core) (fast : Bool) (w : Word) : (c.ldsIssued fast w).eng = (c.ldsOpened fast w).eng ∧
    (c.ldsIssued fast w).portBusy = (c.ldsOpened fast w).portBusy ∧ (c.ldsIssued fast w).seq.now = c.seq.now + 1 := by
  unfold Core.ldsIssued Core.ldsMoves
  split <;> exact ⟨rfl, rfl, rfl⟩

end

/-- Settles O12: the one operation on the list, its window, and what else the cycle leaves. -/
theorem ldsSlot : Obligations.LdsSlot := by
  unfold Obligations.LdsSlot
  intro s n w hq c does
  have run {i : Instr} {op : Nat} (hexec : exec i s = .next (s.loneSlot n 1 (withOp w op))) (hop : op < 32) : does i op := by
    intro h
    obtain ⟨heng, hbusy, hnow⟩ := c.ldsIssued_port (s.fastClock n) (withOp w op)
    refine ⟨_, c.ldsOp (withOp w op), hexec.trans (congrArg Host.Outcome.next (h.ldsSlot hq)), ?_⟩
    rw [State.core_setCore_same, show s.core n = c from rfl, heng, hbusy, hnow]
    refine ⟨?ports, swOp_withOp w op hop, rfl, rfl, ?source, ?target, rfl, ?window, rfl, rfl, rfl, fun m hm => State.core_setCore_other _ _ hm⟩
    case ports => exact congrArg (· ++ [c.ldsOp (withOp w op)]) hq.ports
    case source => exact congrArg (fun i => (c.a i).toNat) (bits_withOp w op 19 4 (by decide))
    case target => exact congrArg (fun i => (c.a i).toNat) (bits_withOp w op 15 4 (by decide))
    case window => exact List.mem_append_right _ (List.mem_singleton_self _)
  exact ⟨run rfl (by decide), run rfl (by decide), run rfl (by decide)⟩

end Sys2Proof.Machine

namespace Sys2Proof.Machine

/-! ## Lanes of a V register after a write of some of them (05 R162) -/

theorem writeLanes_get {m : SMap Lane} {base : Nat} {sel : BitVec 32} {val : List Lane} {j : Nat} (hsel : sel.getLsbD j = true)
    (hj : j < val.length) : SMap.get Lane.zero (writeLanes m base sel val) (base + j) = val[j] := by
  induction val using List.reverseRecOn with
  | nil => cases hj
  | append_singleton val x ih =>
    have hsplit : writeLanes m base sel (val ++ [x]) =
        if sel.getLsbD val.length then SMap.set Lane.zero (writeLanes m base sel val) (base + val.length) x else writeLanes m base sel val := by
      simp [writeLanes, List.zipIdx_append]
    rw [hsplit]
    rcases Nat.lt_or_ge j val.length with hlt | hge
    · rw [List.getElem_append_left hlt, ← ih hlt]
      split
      · exact SMap.get_set_other _ _ _ _ (by omega)
      · rfl
    · obtain rfl : j = val.length := by simp at hj; omega
      rw [if_pos hsel, SMap.get_set_same]
      simp

theorem Core.putV_poison {c : Core} {i j : Nat} {sel : BitVec 32} {val : List Lane} (hsel : sel.getLsbD j = true) (hj : j < val.length)
    (h : val[j].poison = true) : ((c.putV i sel val).v i j).poison = true := by
  have hlane : SMap.get Lane.zero (c.putV i sel val).seq.v (32 * i + j) = val[j] := writeLanes_get hsel hj
  unfold Core.v
  rw [hlane]
  dsimp only
  split
  · rfl
  · exact h

theorem laneRange_getLsbD {lo cnt i : Nat} (hi : i < cnt) (hlo : lo + i < 32) : (laneRange lo cnt).getLsbD (lo + i) = true := by
  simp [laneRange, BitVec.getLsbD_ofNat, Nat.testBit_mul_two_pow, hlo, hi]

theorem bytesLanes_length : ∀ (bs : Bytes) (poi : Nat → Bool) (i : Nat), (bytesLanes bs poi i).length = bs.length / 4
  | _ :: _ :: _ :: _ :: bs, poi, i => by
    simp only [bytesLanes, List.length_cons, bytesLanes_length bs]
    omega
  | [], _, _ | [_], _, _ | [_, _], _, _ | [_, _, _], _, _ => by simp [bytesLanes]

theorem bytesLanes_poisoned : ∀ (bs : Bytes) (i : Nat), ∀ l ∈ bytesLanes bs (fun _ => true) i, l.poison = true
  | _ :: _ :: _ :: _ :: bs, i => by
    intro l hl
    rcases List.mem_cons.1 hl with rfl | hl
    · rfl
    · exact bytesLanes_poisoned bs (i + 1) l hl
  | [], _ | [_], _ | [_, _], _ | [_, _, _], _ => fun _ hl => nomatch hl

theorem placeLanes_get {lo i : Nat} {xs : List Lane} (hlo : lo + i < (placeLanes lo xs).length) (hi : i < xs.length) :
    (placeLanes lo xs)[lo + i] = xs[i] := by
  simp [placeLanes, laneIdx, hi]

theorem placeLanes_length (lo : Nat) (xs : List Lane) : (placeLanes lo xs).length = 32 := by simp [placeLanes, laneIdx]

/-- The sixteen lanes that a poisoned flit is written to are poisoned. -/
theorem Core.putV_flitPoison (c : Core) (v : Nat) {bs : Bytes} (hbs : bs.length = 64) {h i : Nat} (hh : h < 2) (hi : i < 16) :
    ((c.putV v (laneRange (16 * h) 16) (placeLanes (16 * h) (bytesLanes bs (fun _ => true) 0))).v v (16 * h + i)).poison = true := by
  have hlane : 16 * h + i < 32 := by omega
  have hplace : 16 * h + i < (placeLanes (16 * h) (bytesLanes bs (fun _ => true) 0)).length := by rwa [placeLanes_length]
  have hlen : i < (bytesLanes bs (fun _ => true) 0).length := by rw [bytesLanes_length, hbs]; omega
  refine Core.putV_poison (laneRange_getLsbD hi hlane) hplace ?_
  rw [placeLanes_get hplace hlen]
  exact bytesLanes_poisoned bs 0 _ (List.getElem_mem hlen)

/-! ## The NET slot (05 R162, R163) -/

section
variable {s : State} {n : Nat} {w : Word}

/-- A flit that reaches a send queue with a free place at the start of a cycle enters it (06 R179). -/
theorem State.startCycle_send {c : Core} {p : Pending} {f : Flit} (hpend : c.seq.pend = [p]) (hp : p.eff = .sendq f)
    (hdue : p.due ≤ c.seq.now) (hroom : c.sendq.length < 4) : (s.setCore n c).startCycle n =
      s.setCore n { c with seq := { c.seq with pend := [] }, sendq := c.sendq ++ [Flit.mk' f.pay f.poison] } := by
  have hsend : (Effect.sendq f).isSend = true := rfl
  simp [State.startCycle, hpend, hsend, hdue, State.applyEffect, hp, State.enqueue, hroom]

/-- The move of A[Aa] with POST (05 R162). -/
def Core.netMove (c : Core) (w : Word) : List (Nat × Effect) :=
  if bits w 13 1 = 1 then [(0, .areg (bits w 14 4) (c.a (bits w 14 4) + 64))] else []

theorem SlotActs.netPerforms (h : SlotActs s n 6 w) : s.loneSlot n 6 w = (netPerform s n w).endCycle n := h.performs (fun e => nomatch e) rfl

/-- SENDV's flit, from 16 lanes of a V register. -/
def Core.sentFlit (c : Core) (w : Word) : Flit :=
  let xs := (List.range 16).map (fun i => c.v (bits w 18 5) (16 * bits w 0 1 + i))
  ⟨BitVec.ofNat 512 (leVal (lanesBytes xs)), 3, xs.any (·.poison), 0⟩

theorem State.endCycle_sendv (hq : Quiet s n) (hroom : (s.core n).sendq.length < 4) (f : Flit) :
    (s.slotLater n 6 1 (.sendq f)).endCycle n =
      s.setCore n { (s.core n).after [] with sendq := (s.core n).sendq ++ [Flit.mk' f.pay f.poison] } := by
  have hend := State.endCycle_slotIssues (s := s) (n := n) (slot := 6) (c := s.core n) (xs := [(1, .sendq f)]) hq.notFaulted hq.pend
    (hq.noReads rfl _) (by simp)
  exact hend.trans (State.startCycle_send (p := (s.core n).effect 1 6 (.sendq f)) rfl rfl (Nat.le_refl _) hroom)

/-- The head flit of the receive queue, where it may be taken (06 R180). -/
theorem State.takeFlit_head {d : Nat} {f : Flit} {fs : List (Nat × Flit)} (hhead : (s.core n).recvq = (d, f) :: fs)
    (hdue : d ≤ (s.core n).seq.now) : s.takeFlit n = (f.pay, f.poison, s.setCore n { s.core n with recvq := fs }) := by
  simp [State.takeFlit, hhead, hdue]

/-- No flit may be taken (05 R163). -/
theorem State.takeFlit_none (hnone : ∀ q ∈ (s.core n).recvq, (s.core n).seq.now < q.1) :
    s.takeFlit n = ((s.free 512).1, true, (s.free 512).2.orReg (Reg.seqStatus n) 0x00080000) := by
  have hfind : (s.core n).recvq.find? (fun f => decide (f.1 ≤ (s.core n).seq.now)) = none :=
    List.find?_eq_none.2 fun q hq => by simpa using hnone q hq
  simp [State.takeFlit, hfind]

/-- A NET word's effects on core c, which are no flit for the send queue, and the move with POST. -/
theorem State.endCycle_netMove (hq : Quiet s n) {c : Core} (hpend : c.seq.pend = []) (heng : c.eng = (s.core n).eng)
    {xs : List (Nat × Effect)} (hlate : ∀ x ∈ xs, x.1 ≠ 0 ∧ x.2.isSend = false) (w : Word) :
    (s.setCore n (c.slotIssues 6 (xs ++ c.netMove w))).endCycle n =
      s.setCore n ((if bits w 13 1 = 1 then c.putA (bits w 14 4) (c.a (bits w 14 4) + 64) else c).after (c.slotFlying 6 xs)) := by
  have hmove : ∀ x ∈ c.netMove w, x.1 = 0 ∧ x.2.writesSlot = true := by
    unfold Core.netMove
    split <;> simp [Effect.writesSlot]
  have hzero : xs.filter (·.1 == 0) = [] := List.filter_eq_nil_iff.2 fun x hx => by simpa using (hlate x hx).1
  have hfly : c.slotFlying 6 (xs ++ c.netMove w) = c.slotFlying 6 xs := by
    rw [Core.slotFlying, List.filter_append, List.filter_eq_nil_iff (l := c.netMove w) |>.2 fun x hx => by simp [(hmove x hx).1], List.append_nil]
    rfl
  have hwrites : c.slotWrites (xs ++ c.netMove w) = if bits w 13 1 = 1 then c.putA (bits w 14 4) (c.a (bits w 14 4) + 64) else c := by
    rw [Core.slotWrites, List.filter_append, hzero, Core.netMove]
    split <;> rfl
  rw [State.endCycle_slot hq.notFaulted hpend (hq.noReads heng _), hfly, hwrites]
  · intro x hx hx0
    rcases List.mem_append.1 hx with hx | hx
    · exact absurd hx0 (hlate x hx).1
    · exact (hmove x hx).2
  · intro x hx
    rcases List.mem_append.1 hx with hx | hx
    · exact (hlate x hx).2
    · exact Effect.still_send (Effect.writesSlot_still (hmove x hx).2)

end

/-- Settles O13: what each word has in flight, with the flit that RECV and RECVV take. -/
theorem netSlot : Obligations.NetSlot := by
  unfold Obligations.NetSlot
  intro s n w hq c aa a moved h v xs
  refine ⟨fun hacts => ?send, fun hacts hroom => ?sendv, fun d f fs hacts hhead hdue => ?recv, fun d f fs hacts hhead hdue => ?recvv,
    fun hacts hnone => ?recvvEmpty⟩
  case send =>
    have hdoes : netPerform s n (withOp w 1) = s.setCore n (c.slotIssues 6 ([(1, .rdSend1 a.toNat)] ++ c.netMove w)) := by
      rw [← State.laters_eq (by simp)]
      simp only [netPerform, swOp_withOp _ _ (show 1 < 32 by decide), bits_withOp, Nat.reduceAdd, Nat.reduceLeDiff, Core.netMove]
      split <;> rfl
    rw [show exec (.netSend n w) s = .next (s.loneSlot n 6 (withOp w 1)) from rfl, hacts.netPerforms, hdoes,
      State.endCycle_netMove hq hq.pend rfl (by simp [Effect.isSend])]
    rfl
  case sendv =>
    have hdoes : netPerform s n (withOp w 2) = s.slotLater n 6 1 (.sendq (c.sentFlit w)) := by
      simp [netPerform, swOp_withOp, bits_withOp, Core.sentFlit, c]
    exact congrArg Host.Outcome.next (hacts.netPerforms.trans (hdoes ▸ State.endCycle_sendv hq hroom _))
  case recv =>
    intro bs poi
    have hdoes : netPerform s n (withOp w 3) = s.setCore n (Core.slotIssues { c with recvq := fs } 6
        ([(1, .sram a.toNat (bs.take 32) poi), (2, .sram (a.toNat + 32) (bs.drop 32) poi)] ++ c.netMove w)) := by
      rw [← State.laters_setCore]
      simp only [netPerform, swOp_withOp _ _ (show 3 < 32 by decide), bits_withOp, Nat.reduceAdd, Nat.reduceLeDiff, Core.netMove,
        State.takeFlit_head hhead hdue]
      split <;> rfl
    rw [show exec (.netRecv n w) s = .next (s.loneSlot n 6 (withOp w 3)) from rfl, hacts.netPerforms, hdoes]
    refine congrArg Host.Outcome.next ((State.endCycle_netMove hq (c := { c with recvq := fs }) hq.pend rfl (by simp [Effect.isSend]) w).trans ?_)
    unfold moved
    split <;> rfl
  case recvv =>
    have hdoes : netPerform s n (withOp w 4) = State.slotLater (s.setCore n { c with recvq := fs }) n 6 0 (.vreg v (laneRange (16 * h) 16)
        (placeLanes (16 * h) (bytesLanes (leBytes 64 f.pay.toNat) (fun _ => f.poison) 0))) := by
      simp [netPerform, swOp_withOp, bits_withOp, State.takeFlit_head hhead hdue, h, v, c]
    refine congrArg Host.Outcome.next (hacts.netPerforms.trans ?_)
    rw [hdoes, State.endCycle_slotWrite (hq.setCore (c := { c with recvq := fs }) hq.pend rfl) (State.core_setCore_same ..) rfl,
      State.setCore_setCore]
    rfl
  case recvvEmpty =>
    have hdoes : netPerform s n (withOp w 4) = ((s.free 512).2.orReg (Reg.seqStatus n) 0x00080000).slotLater n 6 0
        (.vreg v (laneRange (16 * h) 16) (placeLanes (16 * h) (bytesLanes (leBytes 64 (s.free 512).1.toNat) (fun _ => true) 0))) := by
      simp [netPerform, swOp_withOp, bits_withOp, State.takeFlit_none hnone, h, v]
    have hend := State.endCycle_slotWrite (s := (s.free 512).2.orReg (Reg.seqStatus n) 0x00080000) (slot := 6) hq rfl
      (e := .vreg v (laneRange (16 * h) 16) (placeLanes (16 * h) (bytesLanes (leBytes 64 (s.free 512).1.toNat) (fun _ => true) 0))) rfl
    rw [← hdoes, ← hacts.netPerforms] at hend
    refine ⟨_, congrArg Host.Outcome.next hend, ?_⟩
    rw [State.core_setCore_same]
    refine ⟨rfl, rfl, fun i hi => ?_⟩
    exact Core.putV_flitPoison _ v (leBytes_length 64 _) (bits_lt w 0 1) hi

end Sys2Proof.Machine

namespace Sys2Proof.Machine

/-! ## A bundle's issue and a test bundle's cycles (05 R129, R132, R136, R151) -/

/-- Core n may perform a cycle of its sequencer: nothing holds its cycle, no fault of a starved refresh is due, and it runs (05 R129, R135). -/
def State.Ready (s : State) (n p : Nat) : Prop :=
  s.coreMay n = true ∧ (s.pacing p = n → s.starved p (s.core n).seq.now = false) ∧ (s.core n).seq.running = true

section
variable {s : State} {n : CoreId} {p : Nat}

theorem State.Ready.goes (h : s.Ready n p) :
    ¬ (¬ s.coreMay n ∨ (s.pacing p = n ∧ s.starved p (s.core n).seq.now) ∨ ¬ (s.core n).seq.running) := by
  obtain ⟨hmay, hstarved, hrun⟩ := h
  rintro (h | ⟨hpacing, h⟩ | h)
  · exact h hmay
  · exact absurd (hstarved hpacing) (by simp [h])
  · exact h hrun

section
variable (hpart : s.partOfCore n = some p) (h : s.Ready n p)
include hpart h

theorem State.exec_bundleIssue_test (hbusy : 0 < (s.core n).seq.testBusy)
    (hlast : (s.core n).seq.testLeft = true → (s.core n).seq.testBusy ≠ 1) : exec (.bundleIssue n) s = .next (s.testCycle n) := by
  show execBundleIssue n s = _
  unfold execBundleIssue
  rw [hpart]
  exact (if_neg h.goes).trans ((if_pos hbusy).trans (if_neg fun ⟨hleft, hone⟩ => hlast hleft hone))

variable (hbusy : (s.core n).seq.testBusy = 0)
include hbusy

theorem State.exec_bundleIssue_halted (hhalted : (s.core n).seq.halted = true) :
    exec (.bundleIssue n) s = .next (s.finishCycle n (s.core n).vec.blend.isSome) := by
  show execBundleIssue n s = _
  unfold execBundleIssue
  rw [hpart]
  exact (if_neg h.goes).trans ((if_neg (by omega)).trans (if_pos hhalted))

theorem State.exec_bundleIssue_fetched (hhalted : (s.core n).seq.halted = false) (hrep : (s.core n).seq.repLeft = 0) {b : Bytes}
    (hfetch : s.fetchBundle n (s.core n).seq.next = (some b, s)) (hmark : s.markWaits n b (hdRepeat (bundleWord b 0)) = false) :
    exec (.bundleIssue n) s = .next (s.issueBundle n b (hdRepeat (bundleWord b 0)) true) := by
  show execBundleIssue n s = _
  unfold execBundleIssue
  rw [hpart]
  refine (if_neg h.goes).trans ((if_neg (by omega)).trans ((if_neg (by simp [hhalted])).trans ((if_neg (by omega)).trans ?_)))
  simp only [hfetch, hmark, Bool.false_eq_true, ↓reduceIte]

end

/-- A bundle whose header names no slot and no effect is legal, waits for no mark, and its issue moves the sequencer on. -/
theorem validSlots_empty {b : Bytes} (hb : bundleWord b 0 = 0) : validSlots b = [] := by
  simp [validSlots, hb, hdValid, bits]

theorem bundleIllegal_empty {b : Bytes} (hb : bundleWord b 0 = 0) : bundleIllegal b = none := by
  have hlegal : headerLegal b = true := by simp [headerLegal, hb, hdTest, hdRepeat, bits]
  simp [bundleIllegal, validSlots_empty hb, hlegal]

theorem State.markWaits_empty {b : Bytes} (hb : bundleWord b 0 = 0) (m r : Nat) : s.markWaits m b r = false := by
  unfold State.markWaits
  split
  · rfl
  · simp [hb, hdStep, bits]

theorem State.issueBundle_empty (hq : Quiet s n) (hblend : (s.core n).vec.blend = none) {b : Bytes} (hb : bundleWord b 0 = 0) :
    let c := s.core n
    s.issueBundle n b 0 true = s.setCore n { c.after [] with seq := { (c.after []).seq with next := (c.seq.next + 1) % 1024, repLeft := 0, cur := [] } } := by
  intro c
  have htest : hdTest 0#32 = false := rfl
  have hpermit : hdPermit 0#32 = false := rfl
  have hvalid : hdValid 0#32 0 = false := rfl
  have hstep : hdStep 0#32 = false := rfl
  simp [State.issueBundle, bundleIllegal_empty hb, validSlots_empty hb, hb, hblend, htest, hpermit, hvalid, hstep, issueSlots,
    endCycle_quiet hq, c]

theorem State.testCycle_quiet (hq : Quiet s n) :
    let c := s.core n
    s.testCycle n = s.setCore n { c.after [] with seq := { (c.after []).seq with
      testBusy := c.seq.testBusy - 1, next := if c.seq.testBusy ≤ 1 then (c.seq.next + 1) % 1024 else c.seq.next } } := by
  intro c
  simp only [State.testCycle, endCycle_quiet hq, State.core_setCore_same, State.setCore_setCore]
  rfl

/-! ## The end of a known-answer test (17 R541, R543) -/

/-- Free numbers advance their counter alone. -/
theorem State.freeInts_counter (s : State) : ∀ k, ∃ c, (s.freeInts k).2 = { s with freeCtr := c }
  | 0 => ⟨s.freeCtr, rfl⟩
  | k + 1 => by
    obtain ⟨c, hc⟩ := s.freeInts_counter k
    exact ⟨c + 1, by simp only [State.freeInts, State.free, hc]⟩

/-- What a test leaves: values in the core's engines and in its bank. -/
theorem State.testValues_spec (s : State) (n bank : Nat) : ∃ c m e,
    s.testValues n bank = { s.setCore n { s.core n with eng := e } with freeCtr := c, mem := m } := by
  obtain ⟨c, hc⟩ := (((s.free 65536).2).free 65536).2.freeInts_counter 128
  unfold State.testValues
  extract_lets r t k v d sums tile e e' u
  have hk : k.2 = { s with freeCtr := c } := hc
  have hu : u = { s.setCore n { s.core n with eng := e' } with freeCtr := c } := by
    unfold u d
    rw [hk]
    rfl
  generalize leBytes 8192 t.1.toNat = bs
  rw [hu]
  exact ⟨c, _, e', rfl⟩

/-- A known-answer test ends in the last cycle of its bundle: the core has its values and no test left, and a failed one faults the partition. -/
theorem State.exec_knownAnswerTestEnd (hpart : s.partOfCore n = some p) (hq : Quiet s n) (hleft : (s.core n).seq.testLeft = true)
    (hbusy : (s.core n).seq.testBusy = 1) (hmay : s.coreMay n = true) (pass : Bool) : ∃ u : State,
    exec (.knownAnswerTestEnd n pass) s = .next (if pass then u else u.enterFaulted p 0x41 (some n.val) ((s.core n).seq.now + 1)) ∧
      (u.core n).seq.testLeft = false ∧ u.parts = s.parts ∧ u.regs = s.regs := by
  have htest := State.testCycle_quiet hq
  show ∃ u : State, execKnownAnswerTestEnd n pass s = _ ∧ _
  unfold execKnownAnswerTestEnd
  extract_lets c s1 d q v
  have hv : ∃ x : Core, v = s.setCore n x ∧ x.seq.testLeft = false := by
    unfold v d q s1
    rw [htest, State.core_setCore_same, State.setCore_setCore]
    exact ⟨_, rfl, rfl⟩
  obtain ⟨x, hx, hdone⟩ := hv
  rw [if_neg (not_not.2 ⟨hleft, hbusy, hmay⟩), hx, State.setCore_partOfCore, hpart]
  obtain ⟨k, m, e, hvalues⟩ := (s.setCore n x).testValues_spec n (((s.setCore n x).part p).facet.glob.testBank.getD 0)
  refine ⟨_, rfl, ?_⟩
  rw [hvalues, State.core_setCore_same, State.setCore_setCore]
  exact ⟨(congrArg (fun c : Core => c.seq.testLeft) (State.core_setCore_same s n { x with eng := e })).trans hdone, rfl, rfl⟩

end

/-! ## The end of a wait (05 R147, R149, R150) -/

section
variable {s : State} {n : CoreId} {p : Nat}

/-- Core c with wait x ended in real cycle u: its token is taken at the end of the present cycle, which is performed, or at once. -/
def Core.waited (c : Core) (x : Wait) (u : Nat) (performed : Bool) : Core :=
  let q := { c.seq with waits := dropWait x c.seq.waits, kSat := SMap.set 0 c.seq.kSat x.tok (u + 1) }
  if performed then { c with seq := { q with pend := q.pend ++ [⟨q.now, q.now, 0, x.bundle, none, .tokenDown x.tok x.n⟩] } }
  else { c with seq := { q with k := SMap.set 0 q.k x.tok (c.k x.tok - x.n) } }

/-- The first wait that is ready ends, and its pause cycles are recorded in the partition. -/
theorem State.exec_waitSatisfied (hpart : s.partOfCore n = some p) {x : Wait}
    (hready : readyWait (s.core n) (s.realNow n) (s.core n).seq.waits [] = some x) (hgood : (s.core n).bad (parK x.tok) = false) :
    ∃ tr tq, exec (.waitSatisfied n) s = .next (State.setPart
      { s.setCore n ((s.core n).waited x (s.realNow n) (s.performs p (s.core n).seq.now)) with trace := tr, traceQ := tq } p
      { s.part p with waitIv := (s.part p).waitIv ++
        (if x.at_ < s.realNow n then [(x.at_ + (s.part p).plead, s.realNow n + (s.part p).plead)] else []) }) := by
  obtain ⟨tr, tq, htrace⟩ := (s.setCore n ((s.core n).waited x (s.realNow n) (s.performs p (s.core n).seq.now))).traceCore_only n 0x02 x.bundle
    x.tok (s.realNow n - x.at_) (SMap.get 0 (s.core n).seq.kBy x.tok).toNat 0
  refine ⟨tr, tq, ?_⟩
  show execWaitSatisfied n s = _
  unfold execWaitSatisfied
  simp only [hready, hgood, hpart, Bool.false_eq_true, ↓reduceIte]
  exact congrArg (fun u : State => Host.Outcome.next (u.setPart p { u.part p with waitIv := (u.part p).waitIv ++
    (if x.at_ < s.realNow n then [(x.at_ + (u.part p).plead, s.realNow n + (u.part p).plead)] else []) })) htrace

theorem State.waitSatisfied_spec (hpart : s.partOfCore n = some p) {x : Wait}
    (hready : readyWait (s.core n) (s.realNow n) (s.core n).seq.waits [] = some x) (hgood : (s.core n).bad (parK x.tok) = false) :
    ∃ t, exec (.waitSatisfied n) s = .next t ∧ t.core n = (s.core n).waited x (s.realNow n) (s.performs p (s.core n).seq.now) ∧
      t.mem = s.mem ∧ t.regs = s.regs ∧ (t.part p).waitIv = (s.part p).waitIv ++
        (if x.at_ < s.realNow n then [(x.at_ + (s.part p).plead, s.realNow n + (s.part p).plead)] else []) := by
  obtain ⟨tr, tq, hexec⟩ := State.exec_waitSatisfied hpart hready hgood
  refine ⟨_, hexec, State.core_setCore_same .., rfl, rfl, ?_⟩
  rw [State.part_setPart_same]

end

/-- A core that may not issue does nothing for a slot word or a blend instruction. -/
theorem exec_heldCore {s : State} {n : CoreId} {w : Word} {v : DWord} {i : Instr} (hheld : s.mayIssue n = false)
    (h : i ∈ [Instr.jmp n w, .wait n w, .smov n w, .ldsLd n w, .sld n w, .opeMma n w, .mvpRun n w, .singleVectorOp n w, .netSend n w,
      .nop n v, .fadd n v, .blendLd n v]) : exec i s = .next s := by
  have hslot (slot : Nat) (w : Word) : s.loneSlot n slot w = s := if_pos (by simp [hheld])
  have hblend (opc : Nat) : s.loneBlend n opc v = s := if_pos (by simp [hheld])
  simp only [List.mem_cons, List.not_mem_nil, or_false] at h
  rcases h with rfl | rfl | rfl | rfl | rfl | rfl | rfl | rfl | rfl | rfl | rfl | rfl
  iterate 9 exact congrArg Host.Outcome.next (hslot _ _)
  all_goals exact congrArg Host.Outcome.next (hblend _)

/-- Settles O16: the sequencer's cycles, the cores that may not issue, a wait's end, and a test's two ends. -/
theorem sequencer : Obligations.Sequencer := by
  unfold Obligations.Sequencer
  intro s n p hpart c q ready
  refine ⟨?halted, ?empty, ?test, ?testMore, fun hheld w v i hi => exec_heldCore hheld hi, ?wait, ?passed, ?failed⟩
  case halted =>
    intro hready hbusy hhalted hblend
    rw [State.exec_bundleIssue_halted hpart hready hbusy hhalted, show (s.core n).vec.blend = none from hblend]
    rfl
  case empty =>
    intro hready hq hbusy hhalted hrep hblend b hfetch hb
    have hzero : hdRepeat (bundleWord b 0) = 0 := by
      rw [hb]
      rfl
    rw [State.exec_bundleIssue_fetched hpart hready hbusy hhalted hrep hfetch (State.markWaits_empty hb _ _), hzero,
      State.issueBundle_empty hq hblend hb]
  case test => exact fun hready hbusy hlast => State.exec_bundleIssue_test hpart hready hbusy hlast
  case testMore =>
    intro hready hq hbusy
    rw [State.exec_bundleIssue_test hpart hready (Nat.lt_of_succ_lt hbusy) (fun _ => hbusy.ne'), State.testCycle_quiet hq,
      if_neg (Nat.not_le.2 hbusy)]
    rfl
  case wait =>
    intro x hwait hgood
    obtain ⟨t, hexec, hcore, hmem, hregs, hpauses⟩ := State.waitSatisfied_spec hpart hwait hgood
    refine ⟨t, hexec, ?_, hmem, hregs, fun hnow => ?_, fun hnow => ?_, hpauses⟩ <;> rw [hcore]
    · unfold Core.waited
      split <;> rfl
    · rw [show s.performs p (s.core n).seq.now = false from hnow]
      exact ⟨SMap.get_set_same .., rfl⟩
    · rw [show s.performs p (s.core n).seq.now = true from hnow]
      exact ⟨rfl, rfl⟩
  case passed =>
    intro hleft hbusy hmay hq
    obtain ⟨u, hexec, hdone, hparts, hregs⟩ := State.exec_knownAnswerTestEnd hpart hq hleft hbusy hmay true
    exact ⟨u, hexec, hdone, congrArg (fun m => (SMap.get Partition.reset m p).state) hparts, hregs⟩
  case failed =>
    intro hleft hbusy hmay hq hrun
    obtain ⟨u, hexec, hdone, hparts, -⟩ := State.exec_knownAnswerTestEnd hpart hq hleft hbusy hmay false
    have hrun' : (u.part p).state = .running := (congrArg (fun m => (SMap.get Partition.reset m p).state) hparts).trans hrun
    obtain ⟨⟨hstate, hcause, hcore, -⟩, -⟩ := State.enterFaulted_faultedBy hrun' (by decide : 0x41 < 256) n.isLt ((s.core n).seq.now + 1)
    refine ⟨_, hexec, ?_, hstate, hcause, hcore⟩
    exact (congrArg (fun m => (SMap.get Core.reset m n.val).seq.testLeft) (u.enterFaulted_onlyPart p 0x41 (some n.val) _).cores).trans hdone

end Sys2Proof.Machine

namespace Sys2Proof.Machine

/-! ## A running partition's pauses (05 R135, R150, 07 R220, R222, 11 R320, 18 R573) -/

section
variable {s : State} {p : PartId}

/-- A pause taken where no other has begun at the partition's present cycle counts in full under its cause. -/
theorem State.takePause_spec (hbase : (s.part p).pauseBase.1 ≠ s.uOf p) (cause len : Nat) : ∃ y tr tq,
    s.takePause p cause len = { s.setPart p y with trace := tr, traceQ := tq } ∧
      SMap.get 0 y.paused cause = SMap.get 0 (s.part p).paused cause + len := by
  have hstart : s.pauseStart p = (s.part p).pauseTotal := if_neg fun h => hbase h.1
  unfold State.takePause State.countPause
  rw [hstart, Nat.add_sub_cancel_left]
  extract_lets x t
  obtain ⟨tr, tq, htrace⟩ := t.tracePause_only p cause len
  exact ⟨_, tr, tq, htrace, SMap.get_set_same ..⟩

theorem State.deferredPause_spec (hrun : (s.part p).state = .running) {r len : Nat} {v : Option Nat}
    (hdeferred : (s.part p).deferred = some (r, len, v)) (hdue : s.deferredDue p (s.uOf p) = true) (hbrown : (s.part p).brownout = false)
    (hthrottle : s.throttleDue p (s.uOf p) = false) (hbase : (s.part p).pauseBase.1 ≠ s.uOf p) :
    ∃ t, exec (.deferredPause p) s = .next t ∧ (t.part p).deferred = none ∧
      SMap.get 0 (t.part p).paused 2 = SMap.get 0 (s.part p).paused 2 + len ∧ t.cores = s.cores ∧ t.mem = s.mem ∧ t.regs = s.regs := by
  obtain ⟨y, tr, tq, htake, hpaused⟩ := State.takePause_spec hbase pcRefresh len
  have hexec : exec (.deferredPause p) s =
      .next ((s.takePause p pcRefresh len).setPart p { (s.takePause p pcRefresh len).part p with deferred := none }) := by
    show execDeferredPause p s = _
    unfold execDeferredPause
    rw [if_pos ⟨State.partIn_running hrun, hdue, by simp [hbrown], by simp [hthrottle]⟩, hdeferred]
  refine ⟨_, hexec, ?_⟩
  rw [htake, State.part_setPart_same]
  exact ⟨rfl, (congrArg (fun x : Partition => SMap.get 0 x.paused 2) (State.part_setPart_same s p y)).trans hpaused, rfl, rfl, rfl⟩

theorem State.throttlePause_spec (hrun : (s.part p).state = .running) (hdue : s.throttleDue p (s.uOf p) = true)
    (hbrown : (s.part p).brownout = false) (hbase : (s.part p).pauseBase.1 ≠ s.uOf p) :
    ∃ t, exec (.throttlePause p) s = .next t ∧ (t.part p).throttleAt = s.uOf p ∧
      SMap.get 0 (t.part p).paused 1 = SMap.get 0 (s.part p).paused 1 + 512 * s.throttleLevel p ∧ t.cores = s.cores ∧ t.mem = s.mem ∧
      t.regs = s.regs := by
  obtain ⟨y, tr, tq, htake, hpaused⟩ := State.takePause_spec hbase pcThrottle (512 * s.throttleLevel p)
  have hexec : exec (.throttlePause p) s = .next ((s.takePause p pcThrottle (512 * s.throttleLevel p)).setPart p
      { (s.takePause p pcThrottle (512 * s.throttleLevel p)).part p with throttleAt := s.uOf p }) :=
    if_pos ⟨State.partIn_running hrun, hdue, by simp [hbrown]⟩
  refine ⟨_, hexec, ?_⟩
  rw [htake, State.part_setPart_same]
  exact ⟨rfl, (congrArg (fun x : Partition => SMap.get 0 x.paused 1) (State.part_setPart_same s p y)).trans hpaused, rfl, rfl, rfl⟩

theorem State.waitPause_one (hpauses : s.waitPauses p (s.uOf p + (s.part p).pauseTotal) = true) (hbrown : (s.part p).brownout = false)
    (hthrottle : s.throttleDue p (s.uOf p) = false) (hdeferred : s.deferredDue p (s.uOf p) = false) :
    s.waitPause p 1 = s.setPart p { s.part p with
      pauseBase := (s.uOf p, s.pauseStart p), paused := SMap.set 0 (s.part p).paused 3 (SMap.get 0 (s.part p).paused 3 + 1) } :=
  if_pos ⟨hpauses, by simp [hbrown], by simp [hthrottle], by simp [hdeferred]⟩

theorem State.waitPause_spec (hrun : (s.part p).state = .running) (hpauses : s.waitPauses p (s.uOf p + (s.part p).pauseTotal) = true)
    (hready : s.waitReady p = false) (hbrown : (s.part p).brownout = false) (hthrottle : s.throttleDue p (s.uOf p) = false)
    (hdeferred : s.deferredDue p (s.uOf p) = false) :
    ∃ t, exec (.waitPause p 1) s = .next t ∧ SMap.get 0 (t.part p).paused 3 = SMap.get 0 (s.part p).paused 3 + 1 ∧
      t.cores = s.cores ∧ t.mem = s.mem ∧ t.regs = s.regs := by
  have hone := State.waitPause_one hpauses hbrown hthrottle hdeferred
  have htaken : ∃ tr tq, exec (.waitPause p 1) s = .next { s.waitPause p 1 with trace := tr, traceQ := tq } := by
    show ∃ tr tq, execWaitPause p 1 s = _
    unfold execWaitPause
    rw [if_neg (by simp [State.partIn_running hrun, hready])]
    dsimp only
    split
    · obtain ⟨tr, tq, htrace⟩ := (s.waitPause p 1).tracePause_only p pcWait
        (((s.waitPause p 1).part p).pauseTotal - ((s.waitPause p 1).part p).pauseBase.2)
      exact ⟨tr, tq, congrArg Host.Outcome.next htrace⟩
    · exact ⟨_, _, rfl⟩
  obtain ⟨tr, tq, hexec⟩ := htaken
  rw [hone] at hexec
  refine ⟨_, hexec, ?_, rfl, rfl, rfl⟩
  refine (congrArg (fun x : Partition => SMap.get 0 x.paused 3) (State.part_setPart_same s p _)).trans ?_
  exact SMap.get_set_same 0 (s.part p).paused 3 (SMap.get 0 (s.part p).paused 3 + 1)

theorem State.windowDue_of (hrun : (s.part p).state = .running) (hfirst : s.uOf p % 4096 = (s.part p).facet.glob.refoff % 4096)
    (hband : bandPause (s.part p).band ≠ 0) (hnew : (s.part p).windowAt ≠ s.uOf p + 1) : s.windowDue p = true := by
  simp [State.windowDue, hband, hfirst, hnew, State.partIn_running hrun]

end

/-- Settles O17: one lemma per pause, and the request that a base refresh window makes once. -/
theorem partitionPauses : Obligations.PartitionPauses := by
  unfold Obligations.PartitionPauses
  intro s p hrun x u
  refine ⟨?wait, ?deferred, ?throttle, ?request, ?longer, ?again⟩
  case wait => exact fun hpauses hready hbrown hthrottle hdeferred => State.waitPause_spec hrun hpauses hready hbrown hthrottle hdeferred
  case deferred =>
    exact fun r len v hdeferred hdue hbrown hthrottle hbase => State.deferredPause_spec hrun hdeferred hdue hbrown hthrottle hbase
  case throttle => exact fun hdue hbrown hbase => State.throttlePause_spec hrun hdue hbrown hbase
  case request =>
    intro hfirst hband hnew hnone
    refine (if_pos (State.windowDue_of hrun hfirst hband hnew)).trans ?_
    rw [show (s.part p).deferred = none from hnone]
  case longer =>
    intro r l v hfirst hband hnew hsome
    refine (if_pos (State.windowDue_of hrun hfirst hband hnew)).trans ?_
    rw [show (s.part p).deferred = some (r, l, v) from hsome]
  case again => exact fun hold => if_neg (by simp [State.windowDue, show (s.part p).windowAt = s.uOf p + 1 from hold])

end Sys2Proof.Machine

namespace Sys2Proof.Machine

/-! ## A granule that straddles the end of HBM (08 R229, R230, R241)

An engine's read takes HBM in sectors of 32 bytes and what lies beyond HBM in words of 8, so a granule that begins in the last sector of HBM is
read as 48 bytes. A COPY then stores 48 bytes and leaves the destination's last 16 as they were, where the statement has all 64 stored. -/

/-- A window of two 64 KiB units: the last of HBM, and the one beyond it. -/
def straddleWindow : Window :=
  { dbase := 0x13FFFFF, size := 2, pbase := 0, valid := true, shared := false, atomic := false, write := true, read := true, typ := 0 }

/-- A COPY of the granule at 0xFFE0, whose second half lies beyond HBM, to address 0, without tokens. -/
def straddleDesc : BitVec 512 := BitVec.ofNat 512 (1 + 64 * 2 ^ 32 + 0xFFE0 * 2 ^ 64)

/-- Partition 0 runs with that window, engine 127 has begun that COPY, and byte 48 of the destination is 1. -/
def straddleState : State :=
  { State.reset with
    devFacet := { DevFacet.null with parts := [(0, { PartRec.none with valid := true, engines := 2 ^ 127 })] }
    parts := [(0, { Partition.reset with
      state := .running, facet := { Facet.none with memmap := [0x13FFFFF * 2 ^ 96 + 2 * 2 ^ 64 + 0x8C] } })]
    engines := [(127, { Engine.reset with active := true, desc := straddleDesc })]
    mem := ⟨[(0x13FFFFF0030, 1)], [], []⟩ }

/-- The byte at an address after a command. -/
def byteAfter (o : Host.Outcome State Fault Refusal) (a : Nat) : Option Byte :=
  match o with
  | .next t => some (t.mem.byte a)
  | _ => none

theorem straddle_source :
    straddleState.engAddr 0 (127 : EngineId) (dSrct (straddleState.engine (127 : EngineId)).desc)
      (dSrc (straddleState.engine (127 : EngineId)).desc + 64 * (straddleState.engine (127 : EngineId)).moved) .read =
        some (0x13FFFFFFFE0, straddleWindow) := by decide +kernel

theorem straddle_target :
    straddleState.engAddr 0 (127 : EngineId) (dDstt (straddleState.engine (127 : EngineId)).desc)
      (dDst (straddleState.engine (127 : EngineId)).desc + 64 * (straddleState.engine (127 : EngineId)).moved) .write =
        some (0x13FFFFF0000, straddleWindow) := by decide +kernel

theorem straddle_read : (straddleState.engRead 127 0x13FFFFFFFE0 64).1.length = 48 := by decide +kernel

theorem straddle_kept : byteAfter (exec (.dmaGranuleMove 127 .ok 0) straddleState) (0x13FFFFF0000 + 48) = some 1 := by decide +kernel

/-- Engine 127 is a tile's, so that its tokens need no service network. -/
theorem straddle_tokenWay (n : Nat) : TokenWay straddleState (127 : EngineId) n := fun h hhub =>
  absurd ((show engHub (127 : EngineId) = none by decide).symm.trans hhub) (Option.some_ne_none h).symm

/-- Refutes O25: a granule that straddles the end of HBM is read as 48 bytes, so that byte 48 of the destination stays 1 and is not the 0 that the
statement has there. -/
theorem not_descriptorMove : ¬ Obligations.DescriptorMove := by
  unfold Obligations.DescriptorMove
  intro h
  have hfacts : straddleState.partOfEngine (127 : EngineId) = some 0 ∧ straddleState.dev ≠ .hold ∧
      (straddleState.engine (127 : EngineId)).active = true ∧ (straddleState.engine (127 : EngineId)).status = St.ok ∧
      64 * (straddleState.engine (127 : EngineId)).moved < dLen (straddleState.engine (127 : EngineId)).desc := by decide +kernel
  obtain ⟨hpart, hdev, hactive, hstatus, hlen⟩ := hfacts
  obtain ⟨-, hclean⟩ := h straddleState 127 0 .ok 0 hpart hdev (straddle_tokenWay _) hactive hstatus hlen (by decide +kernel) (.inl (by decide +kernel))
  obtain ⟨-, hcopy, -⟩ := hclean rfl
  obtain ⟨t, hexec, -, -, hstored, -⟩ := hcopy 0x13FFFFFFFE0 straddleWindow 0x13FFFFF0000 straddleWindow (by decide +kernel) (by decide +kernel)
    (by decide +kernel) (by decide +kernel) straddle_source ⟨straddle_target, by decide, .inl (by decide)⟩
  have hkept := straddle_kept
  rw [hexec] at hkept
  have hzero : (straddleState.engRead 127 0x13FFFFFFFE0 64).1.getD 48 0 = 0 := by
    rw [List.getD_eq_default _ _ straddle_read.le]
  have hbyte : t.mem.byte (0x13FFFFF0000 + 48) = 0 := (hstored 48 (by decide)).trans hzero
  exact absurd ((Option.some.inj hkept).symm.trans hbyte) (by decide)

end Sys2Proof.Machine

namespace Sys2Proof.Machine

/-! ## Flits at a port (06 R170, R171) -/

theorem State.flipped_flit (s : State) (f : Flit) (err : BitVec 512) :
    s.flipped (some f) err 0 = ({ f with pay := f.pay ^^^ err }, s) := by
  simp [State.flipped]

theorem State.checkFlit_unharmed (s : State) (n : Nat) {f : Flit} (hvalid : f.valid = 3) (hcrc : f.crc = Flit.sum f.pay f.poison) :
    s.checkFlit n f = (s, f) := by
  simp [State.checkFlit, hvalid, ← hcrc]

theorem State.checkFlit_changed (s : State) (n : Nat) {f : Flit} (hvalid : f.valid = 3) (hcrc : f.crc ≠ Flit.sum f.pay f.poison) :
    s.checkFlit n f = (s.countField (Reg.meshStatus n) 20 12 1, Flit.mk' f.pay true) := by
  simp [State.checkFlit, hvalid, hcrc]

/-- A flit on the way to a port is checked with the bits that its link changed, and is the port's input from then on. -/
theorem State.flitArrival_arriving {s : State} {n : CoreId} {port : Fin 4} {a : Nat × Nat × Flit} (err : BitVec 512)
    (hfirst : (s.router n).arriving.find? (fun a => a.1 == port.val && decide (a.2.1 ≤ (s.router n).now)) = some a)
    {u : State} {g : Flit} (hcheck : s.checkFlit n { a.2.2 with pay := a.2.2.pay ^^^ err } = (u, g)) :
    exec (.flitArrival n port err 0) s = .next (u.setRouter n { u.router n with
      arriving := (u.router n).arriving.erase a, input := SMap.set Flit.empty (u.router n).input port.val g }) := by
  show execFlitArrival n port err 0 s = _
  simp only [execFlitArrival, hfirst, State.flipped_flit, hcheck]

/-! ## Crossings (06 R188, R194) -/

theorem frameErrors_nil : frameErrors [] = [] := by decide

@[simp] theorem State.decodeFrame_clean (s : State) (e m dir : Nat) (f : Flit) : s.decodeFrame e m dir f [] = (s, f) := by
  simp [State.decodeFrame, frameErrors_nil]

/-- Between two tiles a crossing's flit joins those on the way to the router at its far end. -/
theorem State.crossed_router (s : State) {e lane m dir far port : Nat} (u : Nat) (f : Flit) (src : Option Nat)
    (hfar : xingFar e m dir lane = some (far, port)) (heast : ¬ (e % 5 = 0 ∧ e < 10 ∧ dir = 0)) (hwest : ¬ (e % 5 = 4 ∧ e < 10 ∧ dir = 1)) :
    s.crossed e lane u m dir f src = s.setRouter far { s.router far with arriving := (s.router far).arriving ++ [(port, u, f)] } := by
  have htiles : ¬ (e < 10 ∧ ((e % 5 = 0 ∧ dir = 0) ∨ (e % 5 = 4 ∧ dir = 1))) := by tauto
  simp only [State.crossed, hfar, if_neg htiles]

theorem State.crossingFrameArrival_router {s : State} {e : Fin 14} {m : Fin 16} {dir : Fin 2} {f : XFrame} {far port : Nat}
    (hdue : (s.xing (xingId e m)).frames.find? (fun g => g.dir == dir.val &&
      decide (g.arrive ≤ (s.router (xingRouter e m dir g.lane)).now)) = some f)
    (hsrc : f.src = none) (hfar : xingFar e m dir f.lane = some (far, port)) (heast : ¬ (e.val % 5 = 0 ∧ e.val < 10 ∧ dir.val = 0))
    (hwest : ¬ (e.val % 5 = 4 ∧ e.val < 10 ∧ dir.val = 1)) :
    exec (.crossingFrameArrival e m dir []) s = .next ((s.setXing (xingId e m)
        { s.xing (xingId e m) with frames := (s.xing (xingId e m)).frames.erase f }).setRouter far
      { s.router far with arriving := (s.router far).arriving ++ [(port, f.arrive, f.flit)] }) := by
  show execCrossingFrameArrival e m dir [] s = _
  simp only [execCrossingFrameArrival, hdue, State.decodeFrame_clean, hsrc, State.crossed_router _ _ _ _ hfar heast hwest,
    State.setXing_router]

/-! ## Flits that leave: all but the event counters is named (06 R171, R188, 20 R603) -/

theorem State.tally_only (s : State) (p : Option Nat) (set off k : Nat) : ∃ c, s.tally p set off k = { s with cnts := c } := by
  unfold State.tally
  extract_lets w
  split
  · exact ⟨s.cnts, rfl⟩
  · exact ⟨_, rfl⟩

theorem State.cross_valid (s : State) (e m dir lane u : Nat) {f : Flit} (src : Option Nat) (hvalid : f.valid ≠ 0) :
    ∃ c, s.cross e m dir lane u f src = { s with cnts := c }.setXing (xingId e m)
      { s.xing (xingId e m) with frames := (s.xing (xingId e m)).frames ++ [(⟨dir, lane, u + 28, f, src⟩ : XFrame)] } := by
  obtain ⟨c, hcount⟩ := s.tally_only (s.xingPart e m) 2 (Cnt.xing e m dir) 64
  refine ⟨c, ?_⟩
  simp only [State.cross, if_neg hvalid, hcount]
  rfl

@[simp] theorem State.sendPort_empty (s : State) (n entry port u : Nat) : s.sendPort n entry port u Flit.empty = s := if_pos rfl

/-- A valid flit sent to a neighbour reaches its input in the next cycle. -/
theorem State.sendPort_router {s : State} {n port m q : Nat} (entry u : Nat) {f : Flit} (hvalid : f.valid ≠ 0)
    (hopen : s.fenced n port = false) (hlink : linkOf n port = .router m q) :
    ∃ c, s.sendPort n entry port u f = { s with cnts := c }.setRouter m
      { s.router m with arriving := (s.router m).arriving ++ [(q, u + 1, f)] } := by
  obtain ⟨c, hcount⟩ := s.tally_only (s.partOfCore n) 1 (Cnt.mesh n port) 64
  refine ⟨c, ?_⟩
  simp only [State.sendPort, if_neg hvalid, hopen, Bool.false_eq_true, if_false, hlink, hcount]
  rfl

/-! ## A hub's send (06 R194) -/

/-- The router at a hub's end of a mesh row, the edge between them, and the direction in which the hub sends. -/
abbrev hubRouter (h y : Nat) : Nat := coreAt (if h = 0 then 0 else 255) y
abbrev hubEdge (h y : Nat) : Nat := rowEdge (if h = 0 then 0 else 4) y
abbrev hubDir (h : Nat) : Nat := if h = 0 then 0 else 1

section
variable {s : State} {h : HubId} {y : Fin 64} {p m : Nat} {f : Flit × Nat} {fs : List (Flit × Nat)}

theorem State.hubSendAt_of (hqueue : (s.att (hubAtt h y)).queue = f :: fs) (hfree : (s.att (hubAtt h y)).free ≠ 0)
    (hslot : s.slotFor (hubEdge h y) (hubDir h) (rowLane y) (s.router (hubRouter h y)).now (rowMods y) = some m)
    (hunused : (s.xing (xingId (hubEdge h y) m)).frames.any (fun g =>
      g.dir == hubDir h && g.arrive == (s.router (hubRouter h y)).now + 28) = false) :
    s.hubSendAt h y = some m := by
  simp only [State.hubSendAt, hqueue, List.isEmpty_cons, Bool.false_eq_true, hfree, or_self, if_false, hslot, hunused]

/-- The head of a hub's queue enters the crossing in its row's slot, with one of the ingress buffer's places. -/
theorem State.hubToTileSend_sends (hpart : s.partOfCore (hubRouter h y) = some p) (hqueue : (s.att (hubAtt h y)).queue = f :: fs)
    (hat : s.hubSendAt h y = some m) (hmay : s.mayAct p (s.router (hubRouter h y)).now) :
    exec (.hubToTileSend h y) s = .next ((s.setAtt (hubAtt h y)
        { s.att (hubAtt h y) with queue := fs, free := (s.att (hubAtt h y)).free - 1 }).cross
      (hubEdge h y) m (hubDir h) (rowLane y) (s.router (hubRouter h y)).now (Flit.mk' f.1.pay f.1.poison) (some f.2)) := by
  show execHubToTileSend h y s = _
  simp only [execHubToTileSend, hpart, hqueue, hat, hmay, not_true, if_false]

end

/-! ## A router's cycle (06 R172–R178) -/

/-- Where no attachment's port is named, an entry takes the four inputs as they stand. -/
theorem State.takeInputs_links {s : State} {n : Nat} {outs : List Nat} (hlinks : ∀ p, p + 1 ∈ outs → attOf n p = none) :
    s.takeInputs n outs = (s, (List.range 4).map (s.inputOf n)) := by
  have htake : ∀ (ports : List Nat) (ins : List Flit), ports.foldl (fun (a : State × List Flit) p =>
      let f := a.1.inputOf n p
      let k := if (attOf n p).isSome && outs.contains (p + 1) then a.1.checkFlit n f else (a.1, f)
      (k.1, a.2 ++ [k.2])) (s, ins) = (s, ins ++ ports.map (s.inputOf n)) := by
    intro ports
    induction ports with
    | nil => intro ins; simp
    | cons p ps ih =>
      intro ins
      have hunchecked : ((attOf n p).isSome && outs.contains (p + 1)) = false := by
        by_cases hnamed : p + 1 ∈ outs
        · simp [hlinks p hnamed]
        · simp [hnamed]
      simp only [List.foldl_cons, hunchecked, Bool.false_eq_true, if_false, ih, List.map_cons, List.append_assoc, List.singleton_append]
  exact htake _ []

theorem State.takeIngress_link {s : State} {n port : Nat} (hlink : attOf n port = none) : s.takeIngress n port = s := by
  simp [State.takeIngress, hlink]

theorem State.loseUnrouted_none {s : State} {n : Nat} {named : List Nat} (pc u : Nat) (hrouted : s.unrouted n named = []) :
    s.loseUnrouted n pc u named = s := by
  simp [State.loseUnrouted, hrouted]

@[simp] theorem State.router_routerEnd_same (s : State) (n : Nat) (next : Router → Router) :
    (s.routerEnd n next).router n = { next (s.router n) with input := [], now := (s.router n).now + 1 } :=
  State.router_setRouter_same _ _ _

theorem State.router_routerEnd_other (s : State) {m n : Nat} (next : Router → Router) (hother : m ≠ n) :
    (s.routerEnd n next).router m = s.router m :=
  State.router_setRouter_other _ _ hother

@[simp] theorem State.routerEnd_mem (s : State) (n : Nat) (next : Router → Router) : (s.routerEnd n next).mem = s.mem := rfl

/-- The route entry that sends input S out of port N, once, and goes on to the next entry. -/
def northward : REntry := ⟨[3, 0, 0, 0, 0, 0, 0], 0, 0, 0, 0, 0, 0, 0⟩

theorem northward_legal : northward.legal = true := by decide

theorem State.windowsLegal_northward (s : State) (n : Nat) : s.windowsLegal n northward = true := rfl

theorem Router.after_northward {r : Router} (hleft : r.runLeft = 0) : r.after northward = { r with pc := (r.pc + 1) % 1024 } := by
  simp [Router.after, northward, hleft]

section
variable {s : State} {n : CoreId} (hlink : attOf n 2 = none) (hrouted : s.unrouted n northward.outs = [])
include hlink hrouted

/-- Of all that an entry may do, this one only sends. -/
theorem State.applyEntry_northward (pc : Nat) :
    s.applyEntry n pc northward = s.sendPort n pc 0 (s.router n).now (s.inputOf n 2) := by
  have hins : s.takeInputs n northward.outs = (s, (List.range 4).map (s.inputOf n)) := by
    refine State.takeInputs_links fun p hnamed => ?_
    have hp : p = 2 := by simpa [northward] using hnamed
    exact hp ▸ hlink
  have hlocal : s.localInput n pc northward = (Flit.empty, s) := if_pos (by decide)
  have hlout : northward.usesLout = false := rfl
  simp only [State.applyEntry, hins, hlocal, State.loseUnrouted_none _ _ hrouted, hlout]
  simp [northward, List.range_succ, State.takeIngress_link hlink, State.sendPort_empty]

/-- A cycle of that entry, once all that arrives in it has arrived and nothing has to be read for a later one. -/
theorem State.routeEntryApply_northward {p : Nat} (hpart : s.partOfCore n = some p) (hruns : (s.router n).running)
    (hmay : s.mayAct p (s.router n).now) (hgoes : (s.router n).halted = false) (hleft : (s.router n).runLeft = 0)
    (harrived : (s.router n).arriving.any (fun a => decide (a.2.1 ≤ (s.router n).now)) = false)
    (hframes : s.framesDue n (s.router n).now = false) (hhub : s.hubSendDue n = false) (hahead : s.readAhead n = s)
    (hfetch : s.fetchRoute n (s.router n).pc true = (some northward, s)) :
    exec (.routeEntryApply n) s = .next ((s.sendPort n (s.router n).pc 0 (s.router n).now (s.inputOf n 2)).routerEnd n
      fun r => r.after northward) := by
  show execRouteEntryApply n s = _
  simp only [execRouteEntryApply, hpart, hruns, hmay, harrived, hframes, hhub, hgoes, hahead, hleft, beq_self_eq_true, hfetch,
    northward_legal, State.windowsLegal_northward, State.applyEntry_northward hlink hrouted, not_true, Bool.false_eq_true, or_self, and_self,
    and_false, if_false]

end

/-- Settles O20: one rule of the mesh per clause, then the fields that it names. -/
theorem meshFlits : Obligations.MeshFlits := by
  unfold Obligations.MeshFlits
  intro s n r arrives
  refine ⟨?unharmed, ?changed, ?frame, ?hub, ?forward⟩
  case unharmed =>
    rintro port a ⟨hfirst, hvalid⟩ hcrc
    refine State.flitArrival_arriving 0 hfirst ?_
    rw [show a.2.2.pay ^^^ 0 = a.2.2.pay from BitVec.xor_zero]
    exact s.checkFlit_unharmed n hvalid hcrc
  case changed =>
    rintro port err a ⟨hfirst, hvalid⟩ hcrc
    refine ⟨_, State.flitArrival_arriving err hfirst (s.checkFlit_changed n hvalid hcrc), ?_, rfl, rfl⟩
    simp [Flit.mk']
  case frame =>
    intro e m dir f far port x hdue hsrc hfar heast hwest
    exact State.crossingFrameArrival_router hdue hsrc hfar heast hwest
  case hub =>
    intro h y p f fs m a edge e dir u hpart hqueue hfree hmay hslot hunused
    obtain ⟨c, hcross⟩ := (s.setAtt a { s.att a with queue := fs, free := (s.att a).free - 1 }).cross_valid e m dir (rowLane y) u
      (f := Flit.mk' f.1.pay f.1.poison) (some f.2) (by simp [Flit.mk'])
    refine ⟨_, State.hubToTileSend_sends hpart hqueue (State.hubSendAt_of hqueue hfree hslot hunused) hmay, ?_⟩
    rw [hcross]
    have hatt := State.att_setAtt_same s a { s.att a with queue := fs, free := (s.att a).free - 1 }
    exact ⟨congrArg Attach.queue hatt, congrArg Attach.free hatt, rfl, rfl, congrArg Xing.frames (State.xing_setXing_same _ _ _)⟩
  case forward =>
    intro p e m f hpart hruns hmay hgoes hleft harrived hframes hhub hahead hfetch he hlink hinput hvalid hrouted hopen hnorth hother
    subst he hinput
    refine ⟨_, State.routeEntryApply_northward hlink hrouted hpart hruns hmay hgoes hleft harrived hframes hhub hahead hfetch, ?_⟩
    obtain ⟨c, hsent⟩ := State.sendPort_router r.pc r.now hvalid hopen hnorth
    have hsame : (s.sendPort n r.pc 0 r.now (s.inputOf n 2)).router n = r := by
      rw [hsent]
      exact State.router_setRouter_other _ _ hother.symm
    refine ⟨?_, ?_, ?_, ?_, ?_⟩
    · rw [State.router_routerEnd_other _ _ hother, hsent, State.router_setRouter_same]
    · rw [State.router_routerEnd_same, hsame, Router.after_northward hleft]
    · rw [State.router_routerEnd_same, hsame]
    · rw [State.router_routerEnd_same]
    · rw [State.routerEnd_mem, hsent]
      rfl

end Sys2Proof.Machine

namespace Sys2Proof.Machine

/-! ## A slice's maintenance engine (07 R224, R225, R227) -/

/-- No core changes, and of the slices n alone, in the layers that it has seen. -/
structure LayersOnly (n : Nat) (s t : State) : Prop where
  cores : t.cores = s.cores
  same : ∃ seen, t.slice n = { s.slice n with seen := seen }
  other : ∀ m, m ≠ n → t.slice m = s.slice m

section
variable {s : State} {n : Nat}

theorem LayersOnly.of_slices {t : State} (hcores : t.cores = s.cores) (hslices : t.slices = s.slices) : LayersOnly n s t :=
  ⟨hcores, ⟨(s.slice n).seen, congrArg (SMap.get Slice.reset · n) hslices⟩, fun m _ => congrArg (SMap.get Slice.reset · m) hslices⟩

theorem LayersOnly.trans {t u : State} (h : LayersOnly n s t) (k : LayersOnly n t u) : LayersOnly n s u := by
  obtain ⟨seen, ht⟩ := h.same
  obtain ⟨seen', hu⟩ := k.same
  exact ⟨k.cores.trans h.cores, ⟨seen', hu.trans (by rw [ht])⟩, fun m hm => (k.other m hm).trans (h.other m hm)⟩

theorem RegsOnly.layersOnly {t : State} : RegsOnly s t → LayersOnly n s t := by
  rintro ⟨rs, rfl⟩
  exact .of_slices rfl rfl

theorem RegsOnly.partOfCore {t : State} : RegsOnly s t → t.partOfCore n = s.partOfCore n := by
  rintro ⟨rs, rfl⟩
  rfl

theorem State.setSeen_layersOnly (s : State) (n seen : Nat) : LayersOnly n s (s.setSlice n { s.slice n with seen := seen }) :=
  ⟨rfl, ⟨seen, State.slice_setSlice_same _ _ _⟩, fun _ hm => State.slice_setSlice_other _ _ hm⟩

theorem State.partOfCore_setSlice (s : State) (n : Nat) (x : Slice) (m : Nat) : (s.setSlice n x).partOfCore m = s.partOfCore m := rfl

/-- A layer that a slice sees again starts its count anew, which reaches no partition where none holds the slice (07 R216 to R219). -/
theorem State.countBeat_layersOnly (hpart : s.partOfCore n = none) (r : BeatRes) : LayersOnly n s (s.countBeat n r) := by
  rcases r with _ | ⟨_ | l⟩ | _ | _
  case corrected.some =>
    unfold State.countBeat
    dsimp -zeta only
    extract_lets s1 s2 s3 x s4 s5
    have h3 : RegsOnly s s3 := ((s.setField_regsOnly ..).trans (s1.setField_regsOnly ..)).trans (s2.setField_regsOnly ..)
    have h4 : LayersOnly n s s4 := h3.layersOnly.trans (s3.setSeen_layersOnly n 0)
    have h5 : RegsOnly s4 s5 := (s4.setField_regsOnly ..).trans (State.setField_regsOnly ..)
    have hnone : s5.partOfCore n = none := h5.partOfCore.trans ((s3.partOfCore_setSlice n _ n).trans (h3.partOfCore.trans hpart))
    split
    · rw [hnone]
      exact h4.trans h5.layersOnly
    · exact h3.layersOnly.trans (s3.setSeen_layersOnly n _)
  case clean => exact .of_slices rfl rfl
  all_goals exact (s.setField_regsOnly ..).layersOnly

/-- The beat that is written back touches memory alone besides (07 R225). -/
theorem State.rewriteBeat_layersOnly (hpart : s.partOfCore n = none) (i : Nat) : LayersOnly n s (s.rewriteBeat n i).2 := by
  have hcount := State.countBeat_layersOnly hpart (s.decodeBeat n (32 * i)).res
  unfold State.rewriteBeat
  dsimp only
  split
  · exact ⟨hcount.cores, hcount.same, hcount.other⟩
  · exact ⟨hcount.cores, hcount.same, hcount.other⟩
  · exact hcount

/-- Where a scrub leaves rows it stays in its place. -/
theorem Scrub.leave_place (k : Scrub) (x : Slice) (i : Nat) (banks : List Nat) :
    (k.leave x i banks).1.beat = k.beat ∧ (k.leave x i banks).1.last = k.last := by
  unfold Scrub.leave
  exact List.foldlRecOn (motive := fun a : Scrub × Slice => a.1.beat = k.beat ∧ a.1.last = k.last) banks _ ⟨rfl, rfl⟩ fun _ ha _ _ => ha

theorem State.scrubBeat_spec (hpart : s.partOfCore n = none) (k : Scrub) : (s.scrubBeat n k).cores = s.cores ∧
    (∃ k', ((s.scrubBeat n k).slice n).scrub = some k' ∧ k'.beat = k.beat + 1 ∧ k'.last = k.last) ∧
    ∀ m, m ≠ n → (s.scrubBeat n k).slice m = s.slice m := by
  have hread := State.rewriteBeat_layersOnly hpart k.beat
  refine ⟨hread.cores, ?_, fun m hm => (State.slice_setSlice_other _ _ hm).trans (hread.other m hm)⟩
  exact ⟨_, congrArg Slice.scrub (State.slice_setSlice_same _ _ _), Scrub.leave_place _ _ _ _⟩

end

section
variable {s : State} {n : CoreId}

/-- A slice of no partition that its block holds: a beat in every turn (07 R224). -/
theorem State.maintTurn_unowned (hpart : s.partOfCore n = none)
    (hheld : (s.block (blockOf n)).state = .active ∨ (s.block (blockOf n)).state = .retain) : s.maintTurn n = some (s.slice n).win := by
  simp only [State.maintTurn, hpart, if_pos hheld]

theorem State.exec_maintenanceBeat_scrub (hpart : s.partOfCore n = none)
    (hheld : (s.block (blockOf n)).state = .active ∨ (s.block (blockOf n)).state = .retain) (hcopy : (s.slice n).copy = none)
    (hspare : (s.slice n).toSpare = []) {k : Scrub} (hscrub : (s.slice n).scrub = some k)
    (hleft : k.beat < k.last) : exec (.maintenanceBeat n) s = .next ((s.setSlice n (s.slice n)).scrubBeat n k) := by
  have hwork (t : State) : execMaintenanceBeat.work n t (s.slice n) = t.scrubBeat n k := by
    simp only [execMaintenanceBeat.work, hcopy, hspare, hscrub, if_pos hleft]
  show execMaintenanceBeat n s = _
  simp only [execMaintenanceBeat, State.maintTurn_unowned hpart hheld]
  split
  · next hpart' => exact absurd (hpart.symm.trans hpart') (by simp)
  · exact congrArg Host.Outcome.next (hwork _)

theorem State.exec_spareRowCopyDone {row : Nat} (hcopy : (s.slice n).copy = some (row, 512)) :
    ∃ (sc : Option Scrub) (v : Nat), exec (.spareRowCopyDone n) s = .next
      ((s.setSlice n { s.slice n with copy := none, spared := (s.slice n).spared ++ [row], scrub := sc }).setField (Reg.sliceStatus n) 0 5 v) := by
  have hdone : ∃ t, execSpareRowCopyDone n s = .next t ∧ ∃ (sc : Option Scrub) (v : Nat), t =
      (s.setSlice n { s.slice n with copy := none, spared := (s.slice n).spared ++ [row], scrub := sc }).setField (Reg.sliceStatus n) 0 5 v := by
    unfold execSpareRowCopyDone
    dsimp only
    split
    · next row' hrow =>
      obtain ⟨rfl⟩ : row = row' := congrArg Prod.fst (Option.some.inj (hcopy.symm.trans hrow))
      exact ⟨_, rfl, _, _, rfl⟩
    · next hne => exact absurd hcopy (hne row)
  obtain ⟨_, hexec, sc, v, rfl⟩ := hdone
  exact ⟨sc, v, hexec⟩

end

/-- Settles O19: a scrub's beat and a copy's end change no slice but their own, and a copy's end no memory. -/
theorem sliceMaintenance : Obligations.SliceMaintenance := by
  unfold Obligations.SliceMaintenance
  intro s n hpart x
  refine ⟨fun k hheld _ hcopy hspare hscrub hleft => ?scrub, fun row hcopy => ?copied⟩
  case scrub =>
    obtain ⟨hcores, ⟨k', hk, hbeat, hlast⟩, hother⟩ := (s.setSlice n x).scrubBeat_spec (n := n) hpart k
    exact ⟨_, k', State.exec_maintenanceBeat_scrub hpart hheld hcopy hspare hscrub hleft, hk, hbeat, hlast, hcores,
      fun m hm => (hother m hm).trans (State.slice_setSlice_other _ _ hm)⟩
  case copied =>
    obtain ⟨sc, v, hexec⟩ := State.exec_spareRowCopyDone hcopy
    have hslice := s.slice_setSlice_same n { x with copy := none, spared := x.spared ++ [row], scrub := sc }
    exact ⟨_, hexec, congrArg Slice.copy hslice, congrArg Slice.spared hslice, rfl, rfl, fun m hm => State.slice_setSlice_other _ _ hm⟩

end Sys2Proof.Machine

namespace Sys2Proof.Machine

/-! ## What a read at the memory itself counts (08 R231, 20 R603) -/

/-- Only registers and event counters differ. -/
def CountsOnly (s t : State) : Prop := ∃ (rs : SMap Word) (cs : SMap Nat), t = { s with regs := rs, cnts := cs }

theorem CountsOnly.refl (s : State) : CountsOnly s s := ⟨s.regs, s.cnts, rfl⟩

theorem CountsOnly.trans {s t u : State} : CountsOnly s t → CountsOnly t u → CountsOnly s u := by
  rintro ⟨_, _, rfl⟩ ⟨rs, cs, rfl⟩
  exact ⟨rs, cs, rfl⟩

theorem RegsOnly.countsOnly {s t : State} : RegsOnly s t → CountsOnly s t := by
  rintro ⟨rs, rfl⟩
  exact ⟨rs, s.cnts, rfl⟩

theorem State.countUnit_regsOnly (s : State) (a : Nat) (r : URead) : RegsOnly s (s.countUnit a r) := by
  unfold State.countUnit
  split
  · exact .refl s
  · extract_lets o
    split
    · exact s.setField_regsOnly ..
    · split
      · exact s.setField_regsOnly ..
      · split
        · exact s.setField_regsOnly ..
        · exact .refl s

theorem State.countHbm_countsOnly (s : State) (a n i : Nat) : CountsOnly s (s.countHbm a n i) := by
  unfold State.countHbm
  split
  · extract_lets c
    obtain ⟨cs, hcount⟩ := s.tally_only (s.partOfChan c) 3 (Cnt.hbm c i) (64 * ((a % 64 + n + 63) / 64))
    exact ⟨s.regs, cs, hcount⟩
  · exact .refl s

theorem State.devRead_countsOnly (s : State) (a n : Nat) : CountsOnly s (s.devRead a n).2.2 := by
  unfold State.devRead
  exact (RegsOnly.foldl (fun t r => t.countUnit_regsOnly _ _) _).countsOnly.trans (State.countHbm_countsOnly _ _ _ _)

/-! ## A channel's activation windows (09 R282) -/

/-- THROTTLE and the refresh mode are shown beside ACT_HIGH. -/
theorem State.showRefresh_actHigh (s : State) (c : Nat) :
    bits ((s.showRefresh c).reg (Reg.hbmStatus c)) 7 1 = bits (s.reg (Reg.hbmStatus c)) 7 1 := by
  have hclove : Reg.hbmStatus c ≠ Reg.cloveStatus c := by simp only [Reg.hbmStatus, Reg.cloveStatus]; omega
  rw [State.showRefresh, State.reg_setField_other _ _ _ _ hclove, State.reg_setField_same,
    bits_setBits_other _ _ _ _ _ _ (by decide) (by decide)]

theorem State.actHigh_setField (s : State) (c v : Nat) :
    bits (((s.setField (Reg.hbmStatus c) 7 1 v).showRefresh c).reg (Reg.hbmStatus c)) 7 1 = v % 2 := by
  rw [State.showRefresh_actHigh, State.reg_setField_same, bits_setBits_same _ _ _ _ (by decide), Nat.pow_one]

section
variable {s : State} {c : ChanId} {peak : Nat}

theorem State.exec_actWindowEnd_busy (h : 384 < peak) : exec (.actWindowEnd c peak) s =
    .next (((s.setChan c { s.chan c with calm := 0 }).setField (Reg.hbmStatus c) 7 1 1).showRefresh c) := by
  show execActWindowEnd c peak s = _
  simp only [execActWindowEnd, gt_iff_lt, if_pos h]

theorem State.exec_actWindowEnd_fourth (h : peak ≤ 288) (hcalm : 3 ≤ (s.chan c).calm) : exec (.actWindowEnd c peak) s =
    .next (((s.setChan c { s.chan c with calm := 4 }).setField (Reg.hbmStatus c) 7 1 0).showRefresh c) := by
  show execActWindowEnd c peak s = _
  simp only [execActWindowEnd, gt_iff_lt, if_neg (show ¬ 384 < peak by omega), if_pos h, if_pos (show (s.chan c).calm + 1 ≥ 4 by omega)]

theorem State.exec_actWindowEnd_calm (h : peak ≤ 288) (hcalm : (s.chan c).calm < 3) : exec (.actWindowEnd c peak) s =
    .next ((s.setChan c { s.chan c with calm := (s.chan c).calm + 1 }).showRefresh c) := by
  show execActWindowEnd c peak s = _
  simp only [execActWindowEnd, gt_iff_lt, if_neg (show ¬ 384 < peak by omega), if_pos h, if_neg (show ¬ (s.chan c).calm + 1 ≥ 4 by omega)]

end

/-! ## A channel's grants (08 R234, 11 R338) -/

theorem grantClass_idle (g : Nat) {asks : Nat → Bool} (h : ∀ k, asks k = false) : grantClass g asks = none :=
  List.find?_eq_none.2 fun k _ => by simp [h k]

theorem grantClass_owner {g k : Nat} {asks : Nat → Bool} (howner : grantOwner g = some k) (h : asks k = true) :
    grantClass g asks = some k := by
  simp only [grantClass, howner, List.find?_cons, h]

theorem State.grant_setPass (s : State) (c : Nat) (x : Option Pass) :
    ((s.setChan c { s.chan c with pass := x }).chan c).grant = (s.chan c).grant := by rw [State.chan_setChan_same]

/-- The granule that a pass reads changes neither memory nor the channel's place in its frame. -/
theorem State.passGranule_spec (s : State) (c : Nat) :
    ((s.passGranule c).chan c).grant = (s.chan c).grant ∧ (s.passGranule c).mem = s.mem := by
  unfold State.passGranule
  split
  · next k p hpass hpart =>
    split
    · exact ⟨rfl, rfl⟩
    · split
      · exact ⟨State.grant_setPass s c _, rfl⟩
      · next reg i d hchunk =>
        obtain ⟨rs, cs, hread⟩ := s.devRead_countsOnly (d + k.pos) 64
        have hmem : (s.devRead (d + k.pos) 64).2.2.mem = s.mem := by rw [hread]
        have hchan : ((s.devRead (d + k.pos) 64).2.2.chan c).grant = (s.chan c).grant := by rw [hread]; rfl
        exact ⟨(State.grant_setPass _ c _).trans hchan, hmem⟩
  · exact ⟨rfl, rfl⟩

/-- The channel at its next place in the frame of 20. -/
def Chan.granted (h : Chan) : Chan := { h with grant := (h.grant + 1) % 20 }

section
variable {s : State} {c : ChanId}

theorem State.exec_hbmGrant_idle (hpass : (s.chan c).pass = none) :
    exec (.hbmGrant c []) s = .next (s.setChan c (s.chan c).granted) := by
  show execHbmGrant c [] s = _
  simp only [execHbmGrant, grantClass_idle _ (asks := fun k => List.any [] _ && _) (fun _ => rfl)]
  refine congrArg Host.Outcome.next ?_
  simp only [State.passGranule, State.chan_setChan_same, hpass, Chan.granted]

theorem State.exec_hbmGrant_owner {r : ReqId} {k : Nat} (howner : grantOwner (s.chan c).grant = some k) (hclass : s.reqClass r = k)
    (hopen : k ≠ 3) : exec (.hbmGrant c [r]) s =
      .next ((s.setChan c (s.chan c).granted).tally (s.partOfChan c) 3 (Cnt.hbm c (2 + k)) 64) := by
  show execHbmGrant c [r] s = _
  simp only [execHbmGrant]
  rw [grantClass_owner howner (by simp [hclass, hopen])]
  rfl

theorem State.hbmGrant_spec (s : State) (c : ChanId) (ask : List ReqId) : ∃ t, exec (.hbmGrant c ask) s = .next t ∧
    (t.chan c).grant = ((s.chan c).grant + 1) % 20 ∧ t.mem = s.mem := by
  have hgrant : ((s.setChan c (s.chan c).granted).chan c).grant = ((s.chan c).grant + 1) % 20 :=
    congrArg Chan.grant (State.chan_setChan_same _ _ _)
  show ∃ t, execHbmGrant c ask s = .next t ∧ _
  simp only [execHbmGrant]
  split
  · obtain ⟨cs, hcount⟩ := (s.setChan c (s.chan c).granted).tally_only (s.partOfChan c) 3 (Cnt.hbm c (2 + ‹Nat›)) 64
    exact ⟨_, congrArg Host.Outcome.next hcount, hgrant, rfl⟩
  · obtain ⟨hkept, hmem⟩ := (s.setChan c (s.chan c).granted).passGranule_spec c
    exact ⟨_, rfl, hkept.trans hgrant, hmem⟩

end

/-! ## Zero-fills, range after range (07 R212) -/

/-- A byte that reads 0 still does when a range is cleared. -/
theorem Mem.byte_zero_of_zero {m : Mem} {a : Nat} (lo hi : Nat) (h : m.byte a = 0) : (m.zero lo hi).byte a = 0 := by
  by_cases hin : lo ≤ a ∧ a < hi
  · exact m.byte_zero_in hin.1 hin.2
  · exact (m.byte_zero_out (by omega)).trans h

section
variable {f : State → Nat → State} {at_ : Nat → Nat} {len : Nat} (hf : ∀ s n, (f s n).mem = s.mem.zero (at_ n) (at_ n + len))
include hf

theorem foldl_zero_in {l : List Nat} {n i : Nat} (hn : n ∈ l) (hi : i < len) (s : State) : (l.foldl f s).mem.byte (at_ n + i) = 0 := by
  refine foldl_reaches (Pre := fun _ => True) (Done := fun t : State => t.mem.byte (at_ n + i) = 0) hn (fun _ _ _ _ _ => trivial)
    (fun t _ => ?_) (fun t ht m _ _ => ?_) trivial
  · rw [hf]
    exact Mem.byte_zero_in _ (by omega) (by omega)
  · rw [hf]
    exact Mem.byte_zero_of_zero _ _ ht

theorem foldl_zero_out {l : List Nat} {a : Nat} (h : ∀ n ∈ l, a < at_ n ∨ at_ n + len ≤ a) (s : State) :
    (l.foldl f s).mem.byte a = s.mem.byte a :=
  foldl_frame (fun t : State => t.mem.byte a) (fun t n hn => by rw [hf]; exact Mem.byte_zero_out _ (h n hn)) s

end

section
variable {s : State} {b : BlockId}

theorem State.exec_zeroFillDone_slices (h : (s.block b).fillSlice = true) : exec (.zeroFillDone b true) s =
    .next (((coresOfBlock b).foldl State.zeroSlice s).setBlock b { s.block b with fillSlice := false }) := by
  show execZeroFillDone b true s = _
  simp only [execZeroFillDone, h]
  rfl

theorem State.exec_zeroFillDone_cores (h : (s.block b).fillCore = true) : exec (.zeroFillDone b false) s =
    .next (((coresOfBlock b).foldl (fun s n => (s.zeroCore n).clearCoreUnits n) s).setBlock b { s.block b with fillCore := false }) := by
  show execZeroFillDone b false s = _
  simp only [execZeroFillDone, h]
  rfl

end

theorem State.mem_zeroSlice (s : State) (n : Nat) : (s.zeroSlice n).mem = s.mem.zero (sliceBase n) (sliceBase n + sliceBytes) := rfl

theorem State.mem_zeroCore_clearCoreUnits (s : State) (n : Nat) :
    ((s.zeroCore n).clearCoreUnits n).mem = s.mem.zero (coreWindow n) (coreWindow n + 0x40000) := rfl

/-- Settles O21: windows and grants touch the channel's own state, its status and the counters, and a zero-fill the ranges of its block's cores. -/
theorem hbmChannel : Obligations.HbmChannel := by
  unfold Obligations.HbmChannel
  intro s c b peak h next win only
  refine ⟨fun hbusy => ?busy, fun hlow hcalm => ?fourth, fun hlow hcalm => ?calm, State.exec_hbmGrant_idle,
    fun r k howner hclass hopen => State.exec_hbmGrant_owner howner hclass hopen, s.hbmGrant_spec c, fun hfill => ?slices, fun hfill => ?cores⟩
  case busy =>
    exact ⟨_, State.exec_actWindowEnd_busy hbusy, State.actHigh_setField _ _ _, congrArg Chan.calm (s.chan_setChan_same c _), rfl⟩
  case fourth =>
    exact ⟨_, State.exec_actWindowEnd_fourth hlow hcalm, State.actHigh_setField _ _ _, rfl⟩
  case calm =>
    exact ⟨_, State.exec_actWindowEnd_calm hlow hcalm, congrArg Chan.calm (s.chan_setChan_same c _), State.showRefresh_actHigh _ _⟩
  case slices =>
    refine ⟨_, State.exec_zeroFillDone_slices hfill, congrArg Block.fillSlice (State.block_setBlock_same _ _ _), ?_, ?_⟩
    · exact fun n hn i hi => (congrArg (Mem.byte · _) (State.setBlock_mem _ _ _)).trans (foldl_zero_in State.mem_zeroSlice hn hi s)
    · exact fun a ha => (congrArg (Mem.byte · _) (State.setBlock_mem _ _ _)).trans (foldl_zero_out State.mem_zeroSlice ha s)
  case cores =>
    refine ⟨_, State.exec_zeroFillDone_cores hfill, congrArg Block.fillCore (State.block_setBlock_same _ _ _), ?_, ?_⟩
    · exact fun n hn i hi => (congrArg (Mem.byte · _) (State.setBlock_mem _ _ _)).trans (foldl_zero_in State.mem_zeroCore_clearCoreUnits hn hi s)
    · exact fun a ha => (congrArg (Mem.byte · _) (State.setBlock_mem _ _ _)).trans (foldl_zero_out State.mem_zeroCore_clearCoreUnits ha s)

end Sys2Proof.Machine

namespace Sys2Proof.Machine

/-! ## One register of a line (13 R390, R391) -/

section
variable {i : Nat} (hi : i < 16)
include hi

/-- The enable bits of register j where they say k of register i alone. -/
theorem enables_one {j k : Nat} (hk : k < 16) :
    (BitVec.ofNat 64 k <<< (4 * i)).extractLsb' (4 * j) 4 = if j = i then BitVec.ofNat 4 k else 0 := by
  apply BitVec.eq_of_toNat_eq
  have hshift : (BitVec.ofNat 64 k <<< (4 * i)).toNat = k * 2 ^ (4 * i) := by
    have hfits : k * 2 ^ (4 * i) < 2 ^ 64 :=
      calc k * 2 ^ (4 * i) < 2 ^ 4 * 2 ^ (4 * i) := Nat.mul_lt_mul_of_pos_right hk (Nat.two_pow_pos _)
        _ = 2 ^ (4 + 4 * i) := (Nat.pow_add _ _ _).symm
        _ ≤ 2 ^ 64 := Nat.pow_le_pow_right (by decide) (by omega)
    rw [BitVec.toNat_shiftLeft, BitVec.toNat_ofNat, Nat.mod_eq_of_lt (show k < 2 ^ 64 by omega), Nat.shiftLeft_eq, Nat.mod_eq_of_lt hfits]
  rw [BitVec.extractLsb'_toNat, hshift, Nat.shiftRight_eq_div_pow]
  rcases Nat.lt_trichotomy j i with hlt | rfl | hgt
  · have hsplit : k * 2 ^ (4 * i) = 2 ^ (4 * j) * (2 ^ 4 * (k * 2 ^ (4 * (i - j - 1)))) := by
      rw [show 4 * i = 4 * j + 4 + 4 * (i - j - 1) by omega, Nat.pow_add, Nat.pow_add]
      ring
    rw [if_neg (by omega), hsplit, Nat.mul_div_cancel_left _ (Nat.two_pow_pos _), Nat.mul_mod_right]
    rfl
  · rw [if_pos rfl, Nat.mul_div_cancel _ (Nat.two_pow_pos _), BitVec.toNat_ofNat]
  · have hbeyond : k * 2 ^ (4 * i) < 2 ^ (4 * j) :=
      calc k * 2 ^ (4 * i) < 2 ^ 4 * 2 ^ (4 * i) := Nat.mul_lt_mul_of_pos_right hk (Nat.two_pow_pos _)
        _ = 2 ^ (4 + 4 * i) := (Nat.pow_add _ _ _).symm
        _ ≤ 2 ^ (4 * j) := Nat.pow_le_pow_right (by decide) (by omega)
    rw [if_neg (by omega), Nat.div_eq_of_lt hbeyond]
    rfl

theorem touched_one {k : Nat} (hk : k < 16) (hsome : k ≠ 0) : touched (BitVec.ofNat 64 k <<< (4 * i)) = [i] := by
  have hbits : ∀ j ∈ List.range 16, ((BitVec.ofNat 64 k <<< (4 * i)).extractLsb' (4 * j) 4 != 0) = (j == i) := by
    intro j _
    have hne : BitVec.ofNat 4 k ≠ 0#4 := fun h => hsome (by simpa [Nat.mod_eq_of_lt hk] using congrArg BitVec.toNat h)
    rw [enables_one hi hk]
    by_cases h : j = i <;> simp [h, hne]
  rw [touched, List.filter_congr hbits]
  interval_cases i <;> rfl

theorem wholeReg_one {k : Nat} (hk : k < 16) : wholeReg (BitVec.ofNat 64 k <<< (4 * i)) i = decide (k = 15) := by
  rw [wholeReg, enables_one hi hk, if_pos rfl]
  interval_cases k <;> rfl

/-- A register that is enabled whole gives its four bytes, lowest first. -/
theorem enabledBytes_whole (w : Word) : enabledBytes (BitVec.ofNat 64 15 <<< (4 * i)) i w = leBytes 4 w.toNat := by
  have hon : ∀ j, j < 4 → (BitVec.ofNat 64 15 <<< (4 * i)).getLsbD (4 * i + j) = true := by
    intro j hj
    have hset : (BitVec.ofNat 64 15).getLsbD j = true := by interval_cases j <;> rfl
    rw [BitVec.getLsbD_shiftLeft, Nat.add_sub_cancel_left, hset]
    simp only [show 4 * i + j < 64 by omega, show ¬ 4 * i + j < 4 * i by omega, decide_true, decide_false, Bool.not_false, Bool.and_self]
  have hbytes : ∀ j, w.extractLsb' (8 * j) 8 = BitVec.ofNat 8 (w.toNat / 256 ^ j % 256) := by
    intro j
    apply BitVec.eq_of_toNat_eq
    rw [BitVec.extractLsb'_toNat, BitVec.toNat_ofNat, Nat.shiftRight_eq_div_pow, Nat.pow_mul]
    simp
  have h0 := hon 0 (by decide)
  have h1 := hon 1 (by decide)
  have h2 := hon 2 (by decide)
  have h3 := hon 3 (by decide)
  simp only [enabledBytes, List.range_succ, List.range_zero, List.nil_append, List.filterMap_cons, List.filterMap_nil,
    h0, h1, h2, h3, if_true, hbytes, leBytes, List.cons_append, Nat.div_div_eq_div_mul, Nat.pow_zero, Nat.div_one, Nat.pow_succ, Nat.one_mul]

end

/-- The lowest byte that a mask enables. -/
def firstEnabled (en : BitVec 64) : Nat := ((List.range 64).find? (fun j => en.getLsbD j)).getD 0

/-! ## Reads (13 R391, R395) -/

/-- A read of a register changes registers that it clears and the latches of counters alone. -/
theorem State.readFull_only (s : State) (req off : Nat) :
    ∃ rs ls : SMap Word, (s.readFull req off).2 = { s with regs := rs, latches := ls } := by
  unfold State.readFull
  split
  · split <;> exact ⟨_, _, rfl⟩
  · split
    · exact ⟨_, _, rfl⟩
    · dsimp only
      split <;> exact ⟨_, _, rfl⟩

section
variable {s : State} {f : FuncId} (hup : s.funcUp f = true)
include hup

theorem State.exec_registerReadClear_one (line : BitVec 20) (i : Fin 16) :
    exec (.registerReadClear f false line (BitVec.ofNat 64 15 <<< (4 * i.val))) s =
      .next (((s.readFull f (64 * line.toNat + 4 * i.val)).2.countTx f 4).send
        (.completion f (leBytes 4 (s.readFull f (64 * line.toNat + 4 * i.val)).1.toNat) 0)) := by
  have htouched : touched (BitVec.ofNat 64 15 <<< (4 * i.val)) = [i.val] := touched_one i.isLt (k := 15) (by decide) (by decide)
  have hwhole : wholeReg (BitVec.ofNat 64 15 <<< (4 * i.val)) i.val = true := wholeReg_one i.isLt (k := 15) (by decide)
  show execRegisterReadClear f false line (BitVec.ofNat 64 15 <<< (4 * i.val)) s = _
  simp only [execRegisterReadClear, htouched, State.readTlp, hwhole, if_true, enabledBytes_whole i.isLt, List.append_nil, hup, not_true,
    Bool.false_eq_true, false_and, or_self, if_false, List.length_singleton]

theorem State.exec_registerWrite_one (line : BitVec 20) (i : Fin 16) (d : BitVec 512) :
    exec (.registerWrite f false line (BitVec.ofNat 64 15 <<< (4 * i.val)) d) s =
      .next ((s.countRx f 4).writeLogged f (64 * line.toNat + 4 * i.val) (d.extractLsb' (32 * i.val) 32)) := by
  have htouched : touched (BitVec.ofNat 64 15 <<< (4 * i.val)) = [i.val] := touched_one i.isLt (k := 15) (by decide) (by decide)
  have hwhole : wholeReg (BitVec.ofNat 64 15 <<< (4 * i.val)) i.val = true := wholeReg_one i.isLt (k := 15) (by decide)
  show execRegisterWrite f false line (BitVec.ofNat 64 15 <<< (4 * i.val)) d s = _
  simp [execRegisterWrite, htouched, hwhole, hup]

theorem State.exec_registerWrite_part (line : BitVec 20) (i : Fin 16) {k : Nat} (hsome : k ≠ 0) (hpart : k < 15) (d : BitVec 512) :
    exec (.registerWrite f false line (BitVec.ofNat 64 k <<< (4 * i.val)) d) s =
      .next ((s.countRx f 4).accessFault 0 f 1 (64 * line.toNat + firstEnabled (BitVec.ofNat 64 k <<< (4 * i.val)))) := by
  have htouched := touched_one i.isLt (k := k) (by omega) hsome
  have hwhole : wholeReg (BitVec.ofNat 64 k <<< (4 * i.val)) i.val = false := by
    rw [wholeReg_one i.isLt (by omega)]
    exact decide_eq_false (by omega)
  show execRegisterWrite f false line (BitVec.ofNat 64 k <<< (4 * i.val)) d s = _
  simp only [execRegisterWrite, htouched, List.any_cons, List.any_nil, hwhole, hup, not_true, Bool.false_eq_true, false_and, or_self, if_false,
    Bool.not_false, Bool.or_false, if_true, List.length_singleton]
  rfl

end

/-! ## Access faults (13 R398, R415) -/

/-- An event's report writes HOST_EVENT and the pending bits of vectors. -/
theorem State.hostEvent_reg (s : State) (b : Nat) {o : Nat} (hevent : o ≠ Reg.hostEvent) (hpba : Reg.msixPba 2 0 ≤ o) :
    (s.hostEvent b).reg o = s.reg o := by
  unfold State.hostEvent
  split
  · rfl
  · extract_lets s1 l s2
    refine (foldl_frame (fun t : State => t.reg o) (fun t f hf => ?_) s2).trans (s.reg_setField_other _ _ _ hevent)
    extract_lets v
    split
    · have hv : bits v 0 11 < 2048 := bits_lt v 0 11
      have hf2 : f < 2 := by
        simp only [List.mem_cons, List.not_mem_nil, or_false] at hf
        omega
      unfold State.msix
      split
      · exact State.reg_setField_other _ _ _ _ (by simp only [Reg.msixPba] at *; omega)
      · obtain ⟨cs, hcount⟩ := t.tally_only none 6 (Cnt.pcie f 0) 4
        rw [hcount]
        rfl
    · rfl

section
variable (s : State) (win kind addr : Nat) (f : FuncId)

theorem State.accessFault_eventFrame : EventFrame s (s.accessFault win f kind addr) := by
  unfold State.accessFault
  extract_lets w s1
  have h1 : EventFrame s s1 := by
    unfold s1
    split
    · exact (ReportFrame.refl s).toEventFrame
    · refine ⟨by simp, by simp, by simp, fun o ho => ?_⟩
      rw [State.reg_setReg_other _ _ (by simp only [Reg.tileRepair, Reg.errInfo] at *; omega),
        State.reg_setReg_other _ _ (by simp only [Reg.tileRepair, Reg.errAddr] at *; omega)]
  exact h1.trans ((s1.setField_reportFrame _ _ _ (by decide)).trans (State.hostEvent_reportFrame _ _)).toEventFrame

/-- An access fault's report leaves of ERR_INFO all but its count. -/
theorem State.reg_countAccess (lo : Nat) (len : Nat) (hlo : 16 ≤ lo) (hlen : lo + len ≤ 32) :
    bits (((s.countField Reg.errInfo 0 16 1).hostEvent 1).reg Reg.errInfo) lo len = bits (s.reg Reg.errInfo) lo len :=
  (congrArg (bits · lo len) ((State.hostEvent_reg _ _ (by decide) (by decide)).trans (State.reg_setField_same _ _ _ _ _))).trans
    (bits_setBits_other _ _ _ _ _ _ (by omega) (by omega))

/-- What the first access fault since the last was cleared leaves in ERR_INFO and ERR_ADDR. -/
theorem State.accessFault_first (h : bits (s.reg Reg.errInfo) 31 1 = 0) : let t := s.accessFault win f kind addr
    bits (t.reg Reg.errInfo) 24 4 = kind % 16 ∧ bits (t.reg Reg.errInfo) 29 2 = win % 4 ∧ bits (t.reg Reg.errInfo) 28 1 = f ∧
      t.reg Reg.errAddr = BitVec.ofNat 32 addr := by
  intro t
  have hlog : t = (((s.setReg Reg.errAddr (BitVec.ofNat 32 addr)).setReg Reg.errInfo
      (setBits (setBits (setBits (setBits (s.reg Reg.errInfo) 31 1 1) 29 2 win) 28 1 f) 24 4 kind)).countField Reg.errInfo 0 16 1).hostEvent 1 := by
    unfold t State.accessFault
    dsimp only
    rw [if_neg (by omega)]
  rw [hlog, State.reg_countAccess _ _ _ (by decide) (by decide), State.reg_countAccess _ _ _ (by decide) (by decide),
    State.reg_countAccess _ _ _ (by decide) (by decide), State.reg_setReg_same]
  refine ⟨?_, ?_, ?_, ?_⟩
  · simp [bits_setBits_same]
  · simp [bits_setBits_same, bits_setBits_other]
  · simp [bits_setBits_same, bits_setBits_other, Nat.mod_eq_of_lt f.isLt]
  · exact (State.hostEvent_reg _ _ (by decide) (by decide)).trans ((State.reg_setField_other _ _ _ _ (by decide)).trans
      ((State.reg_setReg_other _ _ (by decide)).trans (State.reg_setReg_same _ _ _)))

end

/-! ## Writes of HOST_EVENT_VEC, SLICE_LAYER and CLK_PART (13 R396, R399, 07 R219, 18 R556) -/

/-- A field that takes a field of another register. -/
theorem bits_setBits_field (w v : Word) (lo lo' len : Nat) (h : lo + len ≤ 32) :
    bits (setBits w lo len (bits v lo' len)) lo len = bits v lo' len := by rw [bits_setBits_same _ _ _ _ h, bits_mod]

theorem State.writeReg_eventVec (s : State) (f : Nat) (g : FuncId) (v : Word) : s.writeReg f (Reg.eventVec g) v =
    (s.setReg (Reg.eventVec g) ((s.reg (Reg.eventVec g) &&& 0x7FFFF800) ||| (v &&& 0x800007FF)), false) := by
  have hplain : s.writeReg f (Reg.eventVec g) v = s.writePlain (Reg.eventVec g) { rw := 0x800007FF } v := by
    fin_cases g <;> rfl
  rw [hplain]
  have hmask (w : Word) : w &&& ~~~(v &&& 0#32) = w := by
    rw [BitVec.and_zero, BitVec.not_zero, BitVec.and_allOnes]
  have hro : (v &&& (0#32 ||| 0#32) != 0) = false := by simp
  exact Prod.ext (congrArg (s.setReg _) (hmask _)) hro

section
variable {s : State} {n : Nat} {v : Word}

/-- A write of SLICE_LAYER that marks a layer of its ten and injects in none. -/
theorem State.writeLayer_mark (hinject : bits v 26 1 = 0) (hfirst : bits v 0 4 = 0) (hmark : bits v 31 1 = 1) (hlayer : bits v 27 4 ≤ 9) :
    s.writeLayer n v = (s.setReg (Reg.sliceLayer n)
      (setBits (setBits (setBits (setBits (s.reg (Reg.sliceLayer n)) 31 1 1) 27 4 (bits v 27 4)) 26 1 0) 22 4 (bits v 22 4) &&&
        ~~~(v &&& 0x000FFC00)), false) := by
  simp [State.writeLayer, hinject, hfirst, hmark, hlayer]

/-- The mask of a layer's ten flags. -/
theorem flagMask_getLsbD (k : Nat) : (0x000FFC00 : Word).getLsbD k = (decide (10 ≤ k) && decide (k < 20)) := by
  by_cases hk : k < 32
  · interval_cases k <;> rfl
  · rw [BitVec.getLsbD_of_ge _ _ (by omega), decide_eq_false (show ¬ k < 20 by omega), Bool.and_false]

/-- A bit of a register after the flags written with 1 are cleared. -/
theorem clearFlags_getLsbD (w v : Word) (k : Nat) :
    (w &&& ~~~(v &&& 0x000FFC00)).getLsbD k = (w.getLsbD k && !(v.getLsbD k && decide (10 ≤ k) && decide (k < 20))) := by
  rw [BitVec.getLsbD_and, BitVec.getLsbD_not, BitVec.getLsbD_and, flagMask_getLsbD, Bool.and_assoc]
  by_cases hk : k < 32
  · simp only [hk, decide_true, Bool.true_and]
  · rw [BitVec.getLsbD_of_ge w _ (by omega), Bool.false_and, Bool.false_and]

/-- A field above the flags that a write clears keeps its bits. -/
theorem bits_clearFlags_above (w v : Word) {lo : Nat} (len : Nat) (hlo : 20 ≤ lo) :
    bits (w &&& ~~~(v &&& 0x000FFC00)) lo len = bits w lo len := by
  apply Nat.eq_of_testBit_eq
  intro i
  simp only [bits_testBit, clearFlags_getLsbD, show ¬ lo + i < 20 by omega, decide_false, Bool.and_false, Bool.not_false, Bool.and_true]

theorem bits_clearFlags_set (w : Word) {v : Word} {k : Nat} (hlo : 10 ≤ k) (hhi : k < 20) (h : bits v k 1 = 1) :
    bits (w &&& ~~~(v &&& 0x000FFC00)) k 1 = 0 := by
  have hset : v.getLsbD k = true := by
    have hbit := bits_testBit v k 1 0
    rw [h] at hbit
    simpa using hbit.symm
  apply Nat.eq_of_testBit_eq
  intro i
  by_cases hi : i < 1
  · obtain rfl : i = 0 := by omega
    rw [bits_testBit, Nat.add_zero, clearFlags_getLsbD, hset, decide_eq_true hlo, decide_eq_true hhi]
    simp
  · simp [bits_testBit, hi]

theorem State.writeClk_taken {p : Nat} (hro : bits v 31 1 = 0) (hnew : bits v 0 2 ≠ bits (s.reg (Reg.clkPart p)) 0 2)
    (hrun : s.partIn p [.running, .paused] = false) (hidle : bits (s.reg (Reg.clkPart p)) 31 1 = 0) :
    s.writeClk p v = ((s.setField (Reg.clkPart p) 0 2 (bits v 0 2)).setField (Reg.clkPart p) 31 1 1, false) := by
  simp only [State.writeClk, if_neg hnew, hrun, hidle, hro, Bool.false_eq_true, Nat.zero_ne_one, or_self, if_false, decide_false]

theorem State.writeClk_refused {p : Nat} (hnew : bits v 0 2 ≠ bits (s.reg (Reg.clkPart p)) 0 2)
    (hrun : s.partIn p [.running, .paused] = true) : s.writeClk p v = (s, true) := by
  simp only [State.writeClk, if_neg hnew, hrun, true_or, if_true]

end

section
variable {s : State} {f : FuncId} (hup : s.funcUp f = true)
include hup

theorem State.exec_sliceLayerWrite (n : CoreId) (v : Word) :
    exec (.sliceLayerWrite f n v) s = .next (if ((s.countRx f 4).writeLayer n v).2 then ((s.countRx f 4).writeLayer n v).1.accessFault 0 f 3 (Reg.sliceLayer n)
      else ((s.countRx f 4).writeLayer n v).1) := by
  show execSliceLayerWrite f n v s = _
  simp only [execSliceLayerWrite, hup, not_true, if_false]

theorem State.exec_clkPartWrite (p : PartId) (v : Word) :
    exec (.clkPartWrite f p v) s = .next (if ((s.countRx f 4).writeClk p v).2 then ((s.countRx f 4).writeClk p v).1.accessFault 0 f 3 (Reg.clkPart p)
      else ((s.countRx f 4).writeClk p v).1) := by
  show execClkPartWrite f p v s = _
  simp only [execClkPartWrite, hup, not_true, if_false]

end

/-- The mask of one whole register, as it is written. -/
theorem natCast_oneReg (i : Nat) : ((15 <<< (4 * i) : Nat) : BitVec 64) = BitVec.ofNat 64 15 <<< (4 * i) := by
  apply BitVec.eq_of_toNat_eq
  simp [Nat.shiftLeft_eq]

/-- Settles O41: each access counts its payload bytes and then acts on the one register that it names. -/
theorem hostRegisters : Obligations.HostRegisters := by
  unfold Obligations.HostRegisters
  intro s f hup same does
  obtain ⟨cs, hcount⟩ := s.countRx_only f 4
  refine ⟨fun line i => ?read, fun line i k d hk hfirst => ?part, fun line i d => ?whole, fun g d => ?eventVec,
    fun n v hinject hlayer0 hmark hlayer => ?sliceLayer, fun p v hro hnew hrun hidle => ?clkTaken, fun p v hnew hrun hfirst => ?clkRefused⟩
  case read =>
    rw [natCast_oneReg]
    obtain ⟨rs, ls, hread⟩ := s.readFull_only f (64 * line.toNat + 4 * i.val)
    obtain ⟨cs', htally⟩ := (s.readFull f (64 * line.toNat + 4 * i.val)).2.tally_only none 6 (Cnt.pcie f 0) 4
    refine ⟨_, State.exec_registerReadClear_one hup line i, ?_⟩
    rw [hread] at htally
    simp only [State.countTx, hread, htally]
    exact ⟨⟨⟨rfl, rfl⟩, rfl⟩, rfl, rfl⟩
  case part =>
    refine ⟨_, State.exec_registerWrite_part hup line i hk k.isLt d, ?_⟩
    rw [hcount]
    obtain ⟨hkind, hwin, hfunc, _⟩ := State.accessFault_first { s with cnts := cs } 0 1
      (64 * line.toNat + firstEnabled (BitVec.ofNat 64 k.val <<< (4 * i.val))) f hfirst
    have hframe := State.accessFault_eventFrame { s with cnts := cs } 0 1
      (64 * line.toNat + firstEnabled (BitVec.ofNat 64 k.val <<< (4 * i.val))) f
    exact ⟨⟨⟨hframe.mem, hframe.cores⟩, State.accessFault_inflight _ _ _ _ _⟩, hkind, hwin, hfunc⟩
  case whole =>
    rw [natCast_oneReg]
    exact State.exec_registerWrite_one hup line i d
  case eventVec =>
    have hexec : exec (.registerWrite f false (BitVec.ofNat 20 (0x404 + g.val)) 0xF0000 d) s =
        .next ((s.countRx f 4).writeLogged f (Reg.eventVec g) (d.extractLsb' 128 32)) := by
      have hline : 64 * (BitVec.ofNat 20 (0x404 + g.val)).toNat + 4 * (4 : Fin 16).val = Reg.eventVec g := by fin_cases g <;> rfl
      rw [← hline]
      exact State.exec_registerWrite_one hup _ 4 d
    refine ⟨_, hexec, ?_⟩
    rw [hcount, State.writeLogged, State.writeReg_eventVec]
    exact ⟨⟨⟨rfl, rfl⟩, rfl⟩, rfl, State.reg_setReg_same _ _ _, fun o ho => State.reg_setReg_other _ _ ho⟩
  case sliceLayer =>
    refine ⟨_, State.exec_sliceLayerWrite hup n v, ?_⟩
    rw [hcount, State.writeLayer_mark hinject hlayer0 hmark hlayer]
    have hreg := State.reg_setReg_same { s with cnts := cs } (Reg.sliceLayer n)
    refine ⟨⟨⟨rfl, rfl⟩, rfl⟩, ?_, ?_, ?_, ?_, fun k hlo hhi hset => ?_, fun o ho => State.reg_setReg_other _ _ ho⟩
    · exact (congrArg (bits · 31 1) (hreg _)).trans ((bits_clearFlags_above _ _ _ (by decide)).trans (by simp [bits_setBits_same, bits_setBits_other]))
    · exact (congrArg (bits · 27 4) (hreg _)).trans ((bits_clearFlags_above _ _ _ (by decide)).trans (by simp [bits_setBits_field, bits_setBits_other]))
    · exact (congrArg (bits · 26 1) (hreg _)).trans ((bits_clearFlags_above _ _ _ (by decide)).trans (by simp [bits_setBits_same, bits_setBits_other]))
    · exact (congrArg (bits · 22 4) (hreg _)).trans ((bits_clearFlags_above _ _ _ (by decide)).trans (by simp [bits_setBits_field]))
    · exact (congrArg (bits · k 1) (hreg _)).trans (bits_clearFlags_set _ hlo hhi hset)
  case clkTaken =>
    have htaken := State.writeClk_taken (s := { s with cnts := cs }) hro hnew hrun hidle
    refine ⟨_, State.exec_clkPartWrite hup p v, ?_⟩
    rw [hcount, htaken]
    refine ⟨⟨⟨rfl, rfl⟩, rfl⟩, ?_, ?_, fun o ho => ?_⟩
    · simp [bits_setBits_field, bits_setBits_other]
    · simp [bits_setBits_same]
    · exact (State.reg_setField_other _ _ _ _ ho).trans (State.reg_setField_other _ _ _ _ ho)
  case clkRefused =>
    have hrefused := State.writeClk_refused (s := { s with cnts := cs }) hnew hrun
    refine ⟨_, State.exec_clkPartWrite hup p v, ?_⟩
    rw [hcount, hrefused]
    obtain ⟨hkind, _, _, haddr⟩ := State.accessFault_first { s with cnts := cs } 0 3 (Reg.clkPart p) f hfirst
    have hframe := State.accessFault_eventFrame { s with cnts := cs } 0 3 (Reg.clkPart p) f
    exact ⟨⟨⟨hframe.mem, hframe.cores⟩, State.accessFault_inflight _ _ _ _ _⟩,
      hframe.regs _ (by unfold Reg.clkPart Reg.tileRepair; omega), hkind, haddr⟩

end Sys2Proof.Machine

namespace Sys2Proof.Machine

/-! ## A command whose work goes on after it has begun -/

/-- The action begins the command where it leaves the commands in flight alone. -/
theorem Fetched.start {s t : State} {k op : Nat} {c : InFlight} {form : BitVec 512 → Bool}
    {f : State → InFlight → Option Result × Nat × Nat × State} {y : Option Result} {a b : Nat} (hc : Fetched s k c) (hop : c.opcode = op)
    (hform : form c.entry = true) (hf : f s c = (y, a, b, t)) :
    s.start k op form f = t.setCmd k { c with begun := true, aux := a, aux2 := b, result := y } := by
  obtain ⟨hcmd, hres, hbeg⟩ := hc
  simp [State.start, hcmd, hop, hres, hbeg, hform, hf]

theorem waits_setCmd {t : State} {k : Nat} {c : InFlight} (h : k < t.loupe.inflight.length) (hbegun : c.begun = true)
    (hresult : c.result = none) : Waits (t.setCmd k c) k := by
  simp [Waits, State.setCmd, State.cmd, h, hbegun, hresult]

theorem State.ended_reg (s : State) (k : Nat) (c : InFlight) (y : Result) (o : Nat) : (s.ended k c y).reg o = s.reg o := rfl
theorem State.ended_chan (s : State) (k : Nat) (c : InFlight) (y : Result) (h : Nat) : (s.ended k c y).chan h = s.chan h := rfl

/-! ## The repair record (19 R587) -/

theorem State.recordRepair_only (s : State) (kind : Nat) (loc : Bytes) : ∃ fl : SMap Bytes, s.recordRepair kind loc = { s with flash := fl } := by
  unfold State.recordRepair
  exact s.putBoth_only _ _

theorem State.recordRepair_loupe (s : State) (kind : Nat) (loc : Bytes) : (s.recordRepair kind loc).loupe = s.loupe := by
  obtain ⟨fl, h⟩ := s.recordRepair_only kind loc
  rw [h]

theorem State.flashRec_putBoth (s : State) (off : Nat) (b : Bytes) {chip : Nat} (h : chip < 2) :
    (s.putBoth off b true true).flashRec chip off = b := by
  have hboth : s.putBoth off b true true = (s.putFlash 0 off b).putFlash 1 off b := rfl
  rw [hboth]
  obtain rfl | rfl : chip = 1 ∨ chip = 0 := by omega
  · exact State.flashRec_putFlash_same _ _ _ _
  · exact (State.flashRec_putFlash_other _ _ (by simp only [flashAt]; omega)).trans (State.flashRec_putFlash_same _ _ _ _)

/-- The entry follows those that the flash held before the repair. -/
theorem State.repaired_recordRepair {s t : State} (hflash : t.flash = s.flash) (hloupe : t.loupe = s.loupe) (e : BitVec 512) (kind : Nat) :
    Repaired s (t.recordRepair kind (spareLoc e)) e kind := by
  intro chip hchip
  have hrec : t.repairs = s.repairs := by
    unfold State.repairs State.repairRec State.flashRec
    rw [hflash, hloupe]
  have hkeep (es : List Bytes) : t.keepRepairs es = s.keepRepairs es := by simp only [State.keepRepairs, hloupe]
  rw [State.recordRepair, State.flashRec_putBoth _ _ _ hchip, hrec, hkeep, hloupe]
  rfl

/-! ## SPARE_APPLY (14 R442, 19 R598 to R601) -/

theorem spareDone_nil (kind left : Nat) : spareDone kind left [] = ⟨St.ok, 0, leBytes 1 kind ++ leBytes 3 0 ++ leBytes 4 left⟩ := by
  simp [spareDone, okWith]

/-- No block leaves or enters service, and nothing but blocks and their queues changes. -/
theorem State.raiseForMaint_blocksOnly (s : State) (bs : List Nat) : BlocksOnly s (s.raiseForMaint bs) := by
  refine BlocksOnly.foldl (fun t b => ?_) bs
  split
  · exact t.retarget_blocksOnly b .retain
  · exact .refl t

section
variable {s : State} {k : Nat} {c : InFlight} (hc : Fetched s k c) (hop : c.opcode = Op.spare)
include hc hop

theorem State.exec_spareSliceRow {n row : Nat} (hn : ef c.entry 12 2 = n) (hrow : ef c.entry 14 1 * 128 + ef c.entry 15 1 = row)
    (hform : ef c.entry 8 1 = 0) (h : SparesRow s c.entry n row) : exec (.spareSliceRow k) s =
      .next (((s.raiseForMaint [blockOf n]).setSlice n { s.slice n with toSpare := (s.slice n).toSpare ++ [row] }).setCmd k
        { c with begun := true, aux := 0, aux2 := 0, result := none }) := by
  obtain ⟨hslice, hreleased, hbank, hplace, hzero, hretired, hwaits, hcopy, hleft, hspare⟩ := h
  refine congrArg Host.Outcome.next (hc.start hop (by simp [spareForm, hform]) ?_)
  simp only [hn, hrow, hreleased, hzero, hretired, hwaits, hcopy, hleft, hspare, Bool.false_eq_true, and_false, if_false, Bool.or_self,
    not_true, or_false, ne_eq, Bool.not_true, show ¬ 16384 ≤ n by omega, show ¬ 7 < ef c.entry 14 1 by omega, show ¬ 127 < ef c.entry 15 1 by omega]

theorem State.exec_spareUcieLane (hform : ef c.entry 8 1 = 2) {i : Nat} (hi : xingId (ef c.entry 12 1) (ef c.entry 13 1) = i)
    (h : SparesLane s c.entry i) : exec (.spareUcieLane k) s = .next
      (((s.setXing i { s.xing i with laneMap := SMap.put (s.xing i).laneMap (ef c.entry 14 1) (ef c.entry 15 1) }).recordRepair 2
        (spareLoc c.entry)).ended k c (spareDone 2 0 [])) := by
  obtain ⟨hedge, hmodule, hdir, hlane, hzero, hfree⟩ := h
  refine congrArg Host.Outcome.next (hc.perform hop (by simp [spareForm, hform]) ?_ (congrArg Loupe.inflight (State.recordRepair_loupe _ _ _)))
  simp only [hi, hfree, hzero, ne_eq, not_true, Option.isSome_none, Bool.false_eq_true, if_false, show ¬ 13 < ef c.entry 12 1 by omega,
    show ¬ (if ef c.entry 12 1 < 10 then 16 else 8) ≤ ef c.entry 13 1 by omega, show ¬ 1 < ef c.entry 14 1 by omega,
    show ¬ 17 < ef c.entry 15 1 by omega, or_self]

theorem State.exec_spareBlock (hform : ef c.entry 8 1 = 4) {b : Nat} (hb : ef c.entry 12 1 = b) (hreleased : s.unreleased b = false)
    (hidle : (s.holders [b]).any (fun j => s.partIn j [.running, .paused]) = false) (hzero : ef c.entry 13 5 = 0)
    (hretired : (s.block b).state ≠ .retired) : exec (.spareBlock k) s =
      .next (((s.retireBlock b).recordRepair 4 (spareLoc c.entry)).ended k c (spareDone 4 0 [])) := by
  have hkept : (s.retireBlock b).loupe = s.loupe := by
    rw [State.retireBlock, if_neg hretired]
    rfl
  refine congrArg Host.Outcome.next (hc.perform hop (by simp [spareForm, hform]) ?_ (congrArg Loupe.inflight ((State.recordRepair_loupe _ _ _).trans hkept)))
  simp only [hb, hreleased, hidle, hzero, hretired, ne_eq, not_true, Bool.false_eq_true, or_self, if_false]

end

end Sys2Proof.Machine

namespace Sys2Proof.Machine

/-! ## A slice's scrub begins (07 R225, 14 R440) -/

/-- A slice in service takes up a scrub. -/
def State.startScrub (k : Scrub) (s : State) (n : Nat) : State :=
  if (s.block (blockOf n)).state = .retired then s else s.setSlice n { s.slice n with scrub := some k }

/-- Nothing but slices changes. -/
def SlicesOnly (s t : State) : Prop := ∃ sl : SMap Slice, t = { s with slices := sl }

theorem SlicesOnly.block {s t : State} (h : SlicesOnly s t) (b : Nat) : t.block b = s.block b := by
  obtain ⟨sl, rfl⟩ := h
  rfl

theorem State.startScrub_slicesOnly (k : Scrub) (s : State) (n : Nat) : SlicesOnly s (s.startScrub k n) := by
  unfold State.startScrub
  split
  · exact ⟨s.slices, rfl⟩
  · exact ⟨_, rfl⟩

theorem State.foldl_startScrub_only (k : Scrub) (s : State) (l : List Nat) : SlicesOnly s (l.foldl (State.startScrub k) s) :=
  List.foldlRecOn (motive := SlicesOnly s) l _ ⟨s.slices, rfl⟩ fun t ⟨sl, ht⟩ n _ => by
    obtain ⟨sl', h⟩ := t.startScrub_slicesOnly k n
    exact ⟨sl', h.trans (by rw [ht])⟩

theorem State.slice_startScrub (k : Scrub) {s : State} {n : Nat} (h : (s.block (blockOf n)).state ≠ .retired) :
    ((s.startScrub k n).slice n).scrub = some k := by
  rw [State.startScrub, if_neg h, State.slice_setSlice_same]

theorem State.slice_foldl_startScrub (k : Scrub) {s : State} {l : List Nat} {n : Nat} (hn : n ∈ l)
    (h : (s.block (blockOf n)).state ≠ .retired) : ((l.foldl (State.startScrub k) s).slice n).scrub = some k := by
  refine foldl_reaches (Pre := fun t : State => (t.block (blockOf n)).state ≠ .retired) (Done := fun t : State => (t.slice n).scrub = some k) hn
    (fun t ht m _ _ => ?_) (fun t ht => State.slice_startScrub k ht) (fun t ht m _ _ => ?_) h
  · rwa [(t.startScrub_slicesOnly k m).block]
  · by_cases hr : (t.block (blockOf m)).state = .retired
    · rwa [State.startScrub, if_pos hr]
    · by_cases hm : n = m
      · subst hm
        exact State.slice_startScrub k hr
      · rwa [State.startScrub, if_neg hr, State.slice_setSlice_other _ _ hm]

/-- A block that is raised for maintenance stays in service. -/
theorem State.retarget_retain_state (s : State) {a : Nat} (htarget : (s.block a).target = .off) {b : Nat}
    (h : (s.block b).state ≠ .retired) : ((s.retarget a .retain).block b).state ≠ .retired := by
  unfold State.retarget
  extract_lets x rank x' tl q s'
  have hx' : b = a → x'.state ≠ .retired := by
    rintro rfl
    unfold x'
    split
    · show (s.block b).target ≠ .retired
      simp [htarget]
    · exact h
  split
  · exact h
  · by_cases hb : b = a
    · split <;> rw [hb, State.block_setBlock_same] <;> exact hx' hb
    · split
      · rw [State.block_setBlock_other _ _ hb]
        unfold s'
        split <;> exact h
      · rw [State.block_setBlock_other _ _ hb]
        exact h

theorem State.raiseForMaint_state (s : State) (bs : List Nat) {b : Nat} (h : (s.block b).state ≠ .retired) :
    ((s.raiseForMaint bs).block b).state ≠ .retired :=
  List.foldlRecOn (motive := fun t : State => (t.block b).state ≠ .retired) bs _ h fun t ht a _ => by
    split
    · next hoff => exact t.retarget_retain_state hoff ht
    · exact ht

section
variable {s : State} {k : Nat} {c : InFlight} (hc : Fetched s k c) (hop : c.opcode = Op.scrub)
include hc hop

theorem State.exec_scrubSlice {p base len : Nat} (hp : (cmdPart c.via Op.scrub c.entry).getD 0 = p) (hbase : ef c.entry 16 8 = base)
    (hlen : ef c.entry 24 8 = len) (hform : ef c.entry 9 1 = 1) (hpart : s.partIn p [.empty, .retiring] = false) (hlo : base % 32 = 0)
    (hsize : len % 32 = 0) (hfits : base + len ≤ sliceBytes) : exec (.scrubSlice k) s =
      .next (((s.coresOf p).foldl (State.startScrub ⟨base / 32, (base + len) / 32, 0, 0, none, 0, []⟩)
        (s.raiseForMaint (s.blocksOf p))).setCmd k { c with begun := true, aux := 0, aux2 := 0, result := none }) := by
  have hcores : (s.raiseForMaint (s.blocksOf p)).coresOf p = s.coresOf p := by
    obtain ⟨bs, q, h⟩ := s.raiseForMaint_blocksOnly (s.blocksOf p)
    rw [h]
    rfl
  refine congrArg Host.Outcome.next (hc.start hop (by simp [scrubForm, hform]) ?_)
  simp only [hp, hbase, hlen, hpart, hlo, hsize, ne_eq, not_true, Bool.false_eq_true, if_false, false_or, show ¬ sliceBytes < base + len by omega,
    hcores]
  rfl

theorem State.scrubSlice_spec {p base len : Nat} (hp : (cmdPart c.via Op.scrub c.entry).getD 0 = p) (hbase : ef c.entry 16 8 = base)
    (hlen : ef c.entry 24 8 = len) (hform : ef c.entry 9 1 = 1) (hpart : s.partIn p [.empty, .retiring] = false) (hlo : base % 32 = 0)
    (hsize : len % 32 = 0) (hfits : base + len ≤ sliceBytes) :
    ∃ t, exec (.scrubSlice k) s = .next t ∧ t.mem = s.mem ∧ t.regs = s.regs ∧ t.parts = s.parts ∧ Waits t k ∧
      ∀ n ∈ s.coresOf p, (s.block (blockOf n)).state ≠ .retired →
        (t.slice n).scrub = some ⟨base / 32, (base + len) / 32, 0, 0, none, 0, []⟩ := by
  have hstart (n : Nat) (hn : n ∈ s.coresOf p) (h : (s.block (blockOf n)).state ≠ .retired) :=
    State.slice_foldl_startScrub ⟨base / 32, (base + len) / 32, 0, 0, none, 0, []⟩ hn (s.raiseForMaint_state (s.blocksOf p) h)
  refine ⟨_, State.exec_scrubSlice hc hop hp hbase hlen hform hpart hlo hsize hfits, ?_⟩
  have honly := State.foldl_startScrub_only ⟨base / 32, (base + len) / 32, 0, 0, none, 0, []⟩ (s.raiseForMaint (s.blocksOf p)) (s.coresOf p)
  have hraise := s.raiseForMaint_blocksOnly (s.blocksOf p)
  generalize (s.coresOf p).foldl (State.startScrub ⟨base / 32, (base + len) / 32, 0, 0, none, 0, []⟩) (s.raiseForMaint (s.blocksOf p)) = t
    at honly hstart ⊢
  generalize s.raiseForMaint (s.blocksOf p) = u at honly hraise
  obtain ⟨bs, q, rfl⟩ := hraise
  obtain ⟨sl, rfl⟩ := honly
  exact ⟨rfl, rfl, rfl, waits_setCmd hc.lt_length rfl rfl, hstart⟩

end

/-! ## SCRUB of HBM (14 R440, 19 R599) -/

theorem State.takeUpset_loupe (s : State) (u : Upset) : (s.takeUpset u).2.loupe = s.loupe := by
  unfold State.takeUpset
  split <;> rfl

theorem State.cryptCheck_loupe (s : State) (a : Nat) : (s.cryptCheck a).loupe = s.loupe := by
  unfold State.cryptCheck
  split
  · rfl
  · dsimp only
    split
    · exact s.takeUpset_loupe _
    · rfl

theorem State.rewriteUnit_loupe (s : State) (a : Nat) (u : URead) : (s.rewriteUnit a u).loupe = s.loupe := State.cryptCheck_loupe _ _

theorem CountsOnly.loupe {s t : State} : CountsOnly s t → t.loupe = s.loupe := by
  rintro ⟨rs, cs, rfl⟩
  rfl

theorem State.scrubSectors_loupe (s : State) (d n : Nat) : (s.scrubSectors d n).2.loupe = s.loupe := by
  induction n with
  | zero => rfl
  | succ n ih =>
    have hcount (t : State) (a : Nat) (u : URead) : (((t.countUnit a u).countHbm a 1 0).countHbm a 1 1).loupe = t.loupe :=
      (((t.countUnit_regsOnly a u).countsOnly.trans (State.countHbm_countsOnly _ _ _ _)).trans (State.countHbm_countsOnly _ _ _ _)).loupe
    unfold State.scrubSectors
    dsimp only
    split
    · exact (State.rewriteUnit_loupe _ _ _).trans ((hcount _ _ _).trans ih)
    · split
      · exact (State.rewriteUnit_loupe _ _ _).trans ((hcount _ _ _).trans ih)
      · exact (hcount _ _ _).trans ih

theorem State.scrubPiece_loupe (s : State) (c : Nat) (q : ScrubPiece) : (s.scrubPiece c q).2.loupe = s.loupe := by
  unfold State.scrubPiece
  dsimp only
  split <;> exact State.scrubSectors_loupe _ _ _

theorem State.spareRowsOf_loupe (s : State) (c : Nat) (rows : List Nat) : (s.spareRowsOf c rows).2.loupe = s.loupe :=
  foldl_frame (fun a : Nat × State => a.2.loupe) (fun a _ _ => by dsimp only; split <;> rfl) _

theorem State.scrubHbm_loupe (s : State) (c : Nat) (ps : List ScrubPiece) : (s.scrubHbm c ps).2.2.loupe = s.loupe := by
  unfold State.scrubHbm
  refine (State.spareRowsOf_loupe _ _ _).trans ?_
  exact List.foldlRecOn (motive := fun a : ScrubSum × State => a.2.loupe = s.loupe) ps _ rfl fun a ha q _ => (a.2.scrubPiece_loupe c q).trans ha

section
variable {s : State} {k : Nat} {c : InFlight} (hc : Fetched s k c) {p base d : Nat}
  (hp : (cmdPart c.via Op.scrub c.entry).getD 0 = p) (hbase : ef c.entry 16 8 = base) (hlen : ef c.entry 24 8 = 2048)
  (hdev : devOf ((s.part p).facet.memmap.map Window.of) base = some d)
include hc hp hbase hlen hdev

/-- One run of 2 KiB waits for one channel. -/
theorem State.scrubStalled_one : s.scrubStalled k = (s.cloveThrottle (chanOfAddr d) == 2) := by
  simp only [State.scrubStalled, hc.1, hp, hbase, hlen, show 2048 / 2048 = 1 from rfl, List.range_one, List.any_cons, List.any_nil, Nat.mul_zero,
    Nat.add_zero, hdev, Bool.or_false]

theorem State.exec_scrubHbm_stalled (h : s.cloveThrottle (chanOfAddr d) = 2) : exec (.scrubHbm k) s = .next s := by
  show execScrubHbm k s = _
  rw [execScrubHbm, State.scrubStalled_one hc hp hbase hlen hdev, h]
  rfl

variable (hop : c.opcode = Op.scrub) (hform : ef c.entry 9 1 = 2) (hpart : s.partIn p [.empty, .retiring] = false) (hfill : s.filling p = false) (hlo : base % 2048 = 0)
  (hreach : reaches ((s.part p).facet.memmap.map Window.of) 0 base 2048 (fun _ => true) = true)
  (hfree : s.cloveThrottle (chanOfAddr d) ≠ 2)
include hop hform hpart hfill hlo hreach hfree

theorem State.exec_scrubHbm_up (hhalt : (s.clove (chanOfAddr d)).halted = false) (hup : s.chanUp (chanOfAddr d) = true)
    (hsound : (s.scrubHbm (chanOfAddr d) [⟨0, d, 2048, false⟩]).1.unc = 0) : exec (.scrubHbm k) s =
      .next ((s.scrubHbm (chanOfAddr d) [⟨0, d, 2048, false⟩]).2.2.ended k c
        (Found.result ⟨(s.scrubHbm (chanOfAddr d) [⟨0, d, 2048, false⟩]).1.corr, 0,
          (s.scrubHbm (chanOfAddr d) [⟨0, d, 2048, false⟩]).1.first.map (fun o => base + o),
          (s.scrubHbm (chanOfAddr d) [⟨0, d, 2048, false⟩]).2.1, 0⟩)) := by
  show execScrubHbm k s = _
  rw [execScrubHbm, State.scrubStalled_one hc hp hbase hlen hdev, if_neg (by simp [hfree])]
  refine congrArg Host.Outcome.next (hc.perform hop (by simp [scrubForm, hform]) ?_ (congrArg Loupe.inflight (State.scrubHbm_loupe _ _ _)))
  simp [hp, hbase, hlen, hpart, hfill, hlo, hreach, hdev, hhalt, hup, hsound, Found.zero]

theorem State.exec_scrubHbm_halted (hhalt : (s.clove (chanOfAddr d)).halted = true) : exec (.scrubHbm k) s =
    .next (s.ended k c (Found.result ⟨0, 0, none, 0, 2 ^ chanOfAddr d⟩)) := by
  show execScrubHbm k s = _
  rw [execScrubHbm, State.scrubStalled_one hc hp hbase hlen hdev, if_neg (by simp [hfree])]
  refine congrArg Host.Outcome.next (hc.perform hop (by simp [scrubForm, hform]) ?_ rfl)
  simp [hp, hbase, hlen, hpart, hfill, hlo, hreach, hdev, hhalt, Found.zero, Found.fail]

end

end Sys2Proof.Machine

namespace Sys2Proof.Machine

/-! ## A sector that is written anew (08 R230) -/

theorem gfMulAux_zero (k b : Nat) : gfMulAux k 0 b = 0 := by
  induction k generalizing b with
  | zero => rfl
  | succ k ih => simp [gfMulAux, ih]

/-- Check bits without an error, and no poison: the sector's bytes as they lie. -/
theorem decodeSector_fresh (raw : Bytes) : decodeSector raw 0 false = ⟨raw, 0, false⟩ := by
  have hflip (i : Nat) : flipByte 0 i = 0 := by simp [flipByte]
  have hes : (List.range 34).map (flipByte 0) = List.replicate 34 0 := by
    rw [List.map_congr_left (g := fun _ => 0) fun i _ => hflip i]
    rfl
  have hsum : (List.replicate 34 0).foldl (· ^^^ ·) 0 = 0 := by decide
  have hsyn : ((List.replicate 34 0).zipIdx.map (fun x => gfMul x.1 (gfPow (33 - x.2)))).foldl (· ^^^ ·) 0 = 0 := by
    have hzero : (List.replicate 34 0).zipIdx.map (fun x => gfMul x.1 (gfPow (33 - x.2))) = List.replicate 34 0 :=
      List.map_eq_replicate_iff.2 fun x hx => by rw [List.eq_of_mem_replicate (List.fst_mem_of_mem_zipIdx hx), gfMul, gfMulAux_zero]
    rw [hzero, hsum]
  have hraw : raw.zipIdx.map (fun x => x.1 ^^^ BitVec.ofNat 8 (flipByte 0 x.2)) = raw := by
    simp only [hflip, BitVec.xor_zero]
    exact List.zipIdx_map_fst 0 raw
  simp only [decodeSector, hes, hsum, hsyn, hraw, Bool.false_eq_true, if_false, and_self, if_true]

theorem decodeSector_length (raw : Bytes) (flips : Nat) (sig : Bool) : (decodeSector raw flips sig).data.length = raw.length := by
  unfold decodeSector
  dsimp only
  repeat' split
  all_goals simp

section
variable {m : Mem} {u : Nat} (hhbm : isHbm u = true)
include hhbm

theorem Mem.unit_sector : m.unit u = decodeSector (m.read u 32) (SMap.get 0 m.flips u) (SMap.get false m.poison u) := by
  simp only [Mem.unit, Mem.unitAt, unitBytes, hhbm, if_true]

theorem Mem.unit_length : (m.unit u).data.length = 32 := by
  rw [Mem.unit_sector hhbm, decodeSector_length]
  simp [Mem.read]

theorem Mem.unit_writeUnit_same {bs : Bytes} (hlen : bs.length = 32) : (m.writeUnit u bs false).unit u = ⟨bs, 0, false⟩ := by
  have hread : (m.writeUnit u bs false).read u 32 = bs := by
    refine List.ext_getElem (by simp [Mem.read, hlen]) fun i hi hi' => ?_
    have hbyte : (m.writeUnit u bs false).byte (u + i) = bs[i] := by
      rw [Mem.writeUnit, Mem.byte_mark, Mem.byte_write_at _ hi', List.getD_eq_getElem _ _ hi']
    simpa [Mem.read] using hbyte
  have hflips : SMap.get 0 (m.writeUnit u bs false).flips u = 0 := SMap.get_del_same _ _ _
  have hpoison : SMap.get false (m.writeUnit u bs false).poison u = false := SMap.get_set_same false _ u false
  rw [Mem.unit_sector hhbm, hread, hflips, hpoison, decodeSector_fresh]

end

theorem Mem.flips_write (m : Mem) (a : Nat) (bs : Bytes) : (m.write a bs).flips = m.flips := by
  induction bs generalizing m a with
  | nil => rfl
  | cons b bs ih => exact ih _ _

theorem Mem.poison_write (m : Mem) (a : Nat) (bs : Bytes) : (m.write a bs).poison = m.poison := by
  induction bs generalizing m a with
  | nil => rfl
  | cons b bs ih => exact ih _ _

theorem Mem.byte_writeUnit_other {m : Mem} {u a : Nat} {bs : Bytes} (p : Bool) (h : a < u ∨ u + bs.length ≤ a) :
    (m.writeUnit u bs p).byte a = m.byte a := by
  rw [Mem.writeUnit, Mem.byte_mark, Mem.byte_write_other _ h]

theorem Mem.unit_writeUnit_other {m : Mem} {u v : Nat} {bs : Bytes} (p : Bool) (hhbm : isHbm v = true) (hlen : bs.length = 32)
    (h : v + 32 ≤ u ∨ u + 32 ≤ v) : (m.writeUnit u bs p).unit v = m.unit v := by
  have hread : (m.writeUnit u bs p).read v 32 = m.read v 32 :=
    List.map_congr_left fun i hi => Mem.byte_writeUnit_other p (by have := List.mem_range.1 hi; omega)
  have hflips : SMap.get 0 (m.writeUnit u bs p).flips v = SMap.get 0 m.flips v :=
    (SMap.get_del_other _ _ (by omega)).trans (by rw [Mem.flips_write])
  have hpoison : SMap.get false (m.writeUnit u bs p).poison v = SMap.get false m.poison v :=
    (SMap.get_set_other _ _ _ _ (by omega)).trans (by rw [Mem.poison_write])
  rw [Mem.unit_sector hhbm, Mem.unit_sector hhbm, hread, hflips, hpoison]

end Sys2Proof.Machine

namespace Sys2Proof.Machine

/-! ## An HBM row is spared (19 R599) -/

/-- A field's bits below the one that is written. -/
theorem State.bits_reg_setField_below (s : State) (o o' v : Nat) {lo len a k : Nat} (hfits : a + k ≤ 32) (h : a + k ≤ lo) :
    bits ((s.setField o lo len v).reg o') a k = bits (s.reg o') a k := by
  by_cases ho : o' = o
  · rw [ho, State.reg_setField_same, bits_setBits_other _ _ _ _ _ _ hfits (.inl h)]
  · rw [State.reg_setField_other _ _ _ _ ho]

/-- A sector's read leaves the number of repair rows left. -/
theorem State.countUnit_left (s : State) (a : Nat) (r : URead) (o : Nat) : bits ((s.countUnit a r).reg o) 0 5 = bits (s.reg o) 0 5 := by
  unfold State.countUnit
  split
  · rfl
  · extract_lets p
    split
    · exact s.bits_reg_setField_below _ _ _ (by decide) (by decide)
    · split
      · exact s.bits_reg_setField_below _ _ _ (by decide) (by decide)
      · split
        · exact s.bits_reg_setField_below _ _ _ (by decide) (by decide)
        · rfl

theorem State.cryptCheck_none {s : State} {u : Nat} (h : .crypt (chanOfAddr u) ∉ s.upsets) : s.cryptCheck u = s := by
  have htake : s.takeUpset (.crypt (chanOfAddr u)) = (false, s) := by simp [State.takeUpset, h]
  unfold State.cryptCheck
  rw [htake]
  exact ite_self _

/-- A granule of the row: read, and written back where it was corrected or uncorrectable. -/
theorem State.refreshUnit_only {s : State} {u : Nat} (h : .crypt (chanOfAddr u) ∉ s.upsets) :
    ∃ m, s.refreshUnit u = { s.countUnit u (s.mem.unit u) with mem := m } ∧
      (m = s.mem ∨ m = s.mem.writeUnit u (s.mem.unit u).data ((s.mem.unit u).bad != 0)) := by
  obtain ⟨rs, hcount⟩ := s.countUnit_regsOnly u (s.mem.unit u)
  unfold State.refreshUnit
  dsimp only
  rw [hcount]
  split
  · exact ⟨_, State.cryptCheck_none h, .inr rfl⟩
  · exact ⟨s.mem, rfl, .inl rfl⟩

section
variable {h row place a : Nat} (hh : h < 512) (hrow : row < 49152) (hplace : place ≤ 31) (ha : a = chanAddr h + row * 2 ^ 15 + place * 2 ^ 6)
include hh hrow hplace ha

theorem rowSector_isHbm {i : Nat} (hi : i < 32) : isHbm (rowSector a i) = true := by
  have hlo : hbmBase ≤ rowSector a i := by
    simp only [ha, rowSector, chanAddr]
    omega
  have hhi : rowSector a i < hbmTop := by
    simp only [ha, rowSector, chanAddr, hbmBase, hbmTop, channelBytes]
    omega
  simp [isHbm, hlo, hhi]

theorem chanOfAddr_rowSector {i : Nat} (hi : i < 32) : chanOfAddr (rowSector a i) = h := by
  simp only [chanOfAddr, ha, rowSector, chanAddr, hbmBase, channelBytes]
  omega

end

theorem rowSector_apart (a : Nat) {i j : Nat} (h : i ≠ j) : rowSector a i + 32 ≤ rowSector a j ∨ rowSector a j + 32 ≤ rowSector a i := by
  simp only [rowSector]
  omega

/-- What refreshing sectors of row a of channel h leaves: its sound sectors' data, every byte outside, and the repair rows left. -/
structure RowKept (h a : Nat) (s t : State) : Prop where
  only : ∃ rs m, t = { s with regs := rs, mem := m }
  left : bits (t.reg (Reg.hbmStatus h)) 0 5 = bits (s.reg (Reg.hbmStatus h)) 0 5
  outside : ∀ y, (∀ i, i < 32 → y < rowSector a i ∨ rowSector a i + 32 ≤ y) → t.mem.byte y = s.mem.byte y
  sound : ∀ i, i < 32 → (s.mem.unit (rowSector a i)).bad = 0 →
    (t.mem.unit (rowSector a i)).bad = 0 ∧ (t.mem.unit (rowSector a i)).data = (s.mem.unit (rowSector a i)).data

theorem RowKept.refl (h a : Nat) (s : State) : RowKept h a s s := ⟨⟨s.regs, s.mem, rfl⟩, rfl, fun _ _ => rfl, fun _ _ hb => ⟨hb, rfl⟩⟩

theorem RowKept.refresh {h a : Nat} {s t : State} (hhbm : ∀ i, i < 32 → isHbm (rowSector a i) = true)
    (hchan : ∀ i, i < 32 → chanOfAddr (rowSector a i) = h) (hcrypt : .crypt h ∉ s.upsets) (hkept : RowKept h a s t) {j : Nat} (hj : j < 32) :
    RowKept h a s (t.refreshUnit (rowSector a j)) := by
  obtain ⟨rs, m, ht⟩ := hkept.only
  have hupsets : t.upsets = s.upsets := by rw [ht]
  obtain ⟨m', hrefresh, hmem⟩ := State.refreshUnit_only (s := t) (u := rowSector a j) (by rwa [hchan j hj, hupsets])
  obtain ⟨rs', hcount⟩ := t.countUnit_regsOnly (rowSector a j) (t.mem.unit (rowSector a j))
  have hlen := Mem.unit_length (m := t.mem) (hhbm j hj)
  rw [hrefresh]
  refine ⟨⟨rs', m', by rw [hcount, ht]⟩, (t.countUnit_left _ _ _).trans hkept.left, fun y hy => ?_, fun i hi hbad => ?_⟩
  · refine Eq.trans ?_ (hkept.outside y hy)
    rcases hmem with rfl | rfl
    · rfl
    · exact Mem.byte_writeUnit_other _ (by have := hy j hj; omega)
  · obtain ⟨hsound, hdata⟩ := hkept.sound i hi hbad
    rcases hmem with rfl | rfl
    · exact ⟨hsound, hdata⟩
    · by_cases hij : i = j
      · subst hij
        have hunit := Mem.unit_writeUnit_same (m := t.mem) (hhbm i hi) hlen
        simp only [hsound, bne_self_eq_false]
        exact ⟨congrArg URead.bad hunit, (congrArg URead.data hunit).trans hdata⟩
      · have hunit := Mem.unit_writeUnit_other (m := t.mem) ((t.mem.unit (rowSector a j)).bad != 0) (hhbm i hi) hlen (rowSector_apart a hij)
        exact ⟨(congrArg URead.bad hunit).trans hsound, (congrArg URead.data hunit).trans hdata⟩

/-- The row's 32 sectors are refreshed. -/
def State.refreshRow (s : State) (a : Nat) : State := (List.range 32).foldl (fun s i => s.refreshUnit (rowSector a i)) s

theorem State.refreshRow_kept {h a : Nat} {s : State} (hhbm : ∀ i, i < 32 → isHbm (rowSector a i) = true)
    (hchan : ∀ i, i < 32 → chanOfAddr (rowSector a i) = h) (hcrypt : .crypt h ∉ s.upsets) : RowKept h a s (s.refreshRow a) :=
  List.foldlRecOn (motive := RowKept h a s) (List.range 32) _ (.refl h a s) fun _ ht _ hi => ht.refresh hhbm hchan hcrypt (List.mem_range.1 hi)

section
variable {s : State} {k : Nat} {c : InFlight} (hc : Fetched s k c) (hop : c.opcode = Op.spare)
include hc hop

theorem State.exec_spareHbmRow (hform : ef c.entry 8 1 = 1) {h left a : Nat} (hh : 32 * ef c.entry 12 1 + ef c.entry 13 1 = h)
    (hleft : bits (s.reg (Reg.hbmStatus h)) 0 5 = left) (ha : chanAddr h + ef c.entry 16 2 * 2 ^ 15 + ef c.entry 14 1 * 2 ^ 6 = a)
    (hrow : SparesHbm s c.entry h) {u : State} (hrefresh : s.refreshRow a = u) (hloupe : u.loupe = s.loupe) : exec (.spareHbmRow k) s =
      .next (((u.setField (Reg.hbmStatus h) 0 5 (left - 1)).setChan h { u.chan h with
        spareRows := (u.chan h).spareRows ++ [ef c.entry 16 2 * 32 + ef c.entry 14 1] }).ended k c (spareDone 1 (left - 1) [])) := by
  obtain ⟨hstack, hchan, hplace, hzero, hlast, hup, hsome⟩ := hrow
  have hfold : (List.range 32).foldl (fun s i => s.refreshUnit (a + i / 2 * 2 ^ 11 + i % 2 * 32)) s = u := hrefresh
  refine congrArg Host.Outcome.next (hc.perform hop (by simp [spareForm, hform]) ?_ (congrArg Loupe.inflight hloupe))
  rw [hleft] at hsome
  simp only [hh, hleft, ha, hzero, hup, hsome, ne_eq, not_true, Bool.not_true, Bool.false_eq_true, false_or, if_false, hfold,
    show ¬ 15 < ef c.entry 12 1 by omega, show ¬ 31 < ef c.entry 13 1 by omega, show ¬ 31 < ef c.entry 14 1 by omega,
    show ¬ 49152 ≤ ef c.entry 16 2 by omega]
  rfl

end

end Sys2Proof.Machine

namespace Sys2Proof.Machine

/-! ## Blocks raised and lowered at once (18 R558) -/

/-- Memory, registers, and blocks with their queues: nothing else differs. -/
def MaintOnly (s t : State) : Prop := ∃ rs m bs q, t = { s with regs := rs, mem := m, blocks := bs, aperture := q }

theorem MaintOnly.refl (s : State) : MaintOnly s s := ⟨s.regs, s.mem, s.blocks, s.aperture, rfl⟩

theorem MaintOnly.trans {s t u : State} : MaintOnly s t → MaintOnly t u → MaintOnly s u := by
  rintro ⟨_, _, _, _, rfl⟩ ⟨rs, m, bs, q, rfl⟩
  exact ⟨rs, m, bs, q, rfl⟩

theorem MaintOnly.foldl {s : State} {ι : Type} {f : State → ι → State} (h : ∀ t a, MaintOnly t (f t a)) (l : List ι) :
    MaintOnly s (l.foldl f s) :=
  List.foldlRecOn (motive := MaintOnly s) l f (.refl s) fun t ht a _ => ht.trans (h t a)

theorem RegsOnly.maintOnly {s t : State} : RegsOnly s t → MaintOnly s t := by
  rintro ⟨rs, rfl⟩
  exact ⟨rs, s.mem, s.blocks, s.aperture, rfl⟩

theorem MaintOnly.coresOf {s t : State} (h : MaintOnly s t) (p : Nat) : t.coresOf p = s.coresOf p := by
  obtain ⟨rs, m, bs, q, rfl⟩ := h
  rfl

theorem MaintOnly.blocksOf {s t : State} (h : MaintOnly s t) (p : Nat) : t.blocksOf p = s.blocksOf p := by
  obtain ⟨rs, m, bs, q, rfl⟩ := h
  rfl

theorem MaintOnly.parts {s t : State} (h : MaintOnly s t) : t.parts = s.parts := by
  obtain ⟨rs, m, bs, q, rfl⟩ := h
  rfl

theorem MaintOnly.part {s t : State} (h : MaintOnly s t) (p : Nat) : t.part p = s.part p := congrArg (SMap.get Partition.reset · p) h.parts

theorem MaintOnly.cores {s t : State} (h : MaintOnly s t) : t.cores = s.cores := by
  obtain ⟨rs, m, bs, q, rfl⟩ := h
  rfl

theorem MaintOnly.loupe {s t : State} (h : MaintOnly s t) : t.loupe = s.loupe := by
  obtain ⟨rs, m, bs, q, rfl⟩ := h
  rfl

/-- A byte that read 0 reads 0, and a word without an error has none: what zero-fills leave. -/
def ZeroedOnly (m m' : Mem) : Prop := ∀ a, (m.byte a = 0 → m'.byte a = 0) ∧ ((m.word a).2.2 = .clean → (m'.word a).2.2 = .clean)

theorem ZeroedOnly.refl (m : Mem) : ZeroedOnly m m := fun _ => ⟨id, id⟩

theorem ZeroedOnly.trans {m m' m'' : Mem} (h : ZeroedOnly m m') (k : ZeroedOnly m' m'') : ZeroedOnly m m'' :=
  fun a => ⟨(k a).1 ∘ (h a).1, (k a).2 ∘ (h a).2⟩

theorem popCount_zero (k : Nat) : popCount k 0 = 0 := by
  induction k with
  | zero => rfl
  | succ k ih => simp [popCount, ih]

theorem secded_of_popCount {f : Nat} (h : popCount 72 f = 0) : secded f = .clean := by
  unfold secded
  split
  · rfl
  · next hone => exact absurd (h.symm.trans hone) (by decide)
  · next htwo => exact absurd (h.symm.trans htwo) (by decide)
  · next hzero _ _ => exact absurd h hzero

theorem secded_zero : secded 0 = .clean := secded_of_popCount (popCount_zero 72)

theorem Mem.word_check (m : Mem) (a : Nat) : (m.word a).2.2 = secded (SMap.get 0 m.flips a) := by simp only [Mem.word]

theorem Mem.word_clean {m : Mem} {a : Nat} (h : SMap.get 0 m.flips a = 0) : (m.word a).2.2 = .clean :=
  (m.word_check a).trans ((congrArg secded h).trans secded_zero)

theorem Mem.word_check_congr {m m' : Mem} {a : Nat} (h : SMap.get 0 m'.flips a = SMap.get 0 m.flips a) : (m'.word a).2.2 = (m.word a).2.2 :=
  (m'.word_check a).trans ((congrArg secded h).trans (m.word_check a).symm)

theorem Mem.zeroedOnly_zero (m : Mem) (lo hi : Nat) : ZeroedOnly m (m.zero lo hi) := by
  refine fun a => ⟨Mem.byte_zero_of_zero lo hi, fun hclean => ?_⟩
  by_cases hin : lo ≤ a ∧ a < hi
  · exact Mem.word_clean (SMap.get_clear_in _ _ hin.1 hin.2)
  · exact (Mem.word_check_congr (SMap.get_clear_out _ _ (by omega))).trans hclean

theorem ZeroedOnly.foldl {s : State} {ι : Type} {f : State → ι → State} (h : ∀ t a, ZeroedOnly t.mem (f t a).mem) (l : List ι) :
    ZeroedOnly s.mem (l.foldl f s).mem :=
  List.foldlRecOn (motive := fun t : State => ZeroedOnly s.mem t.mem) l f (.refl s.mem) fun t ht a _ => ht.trans (h t a)

theorem State.foldl_zeroCore_only (s : State) (l : List Nat) :
    MaintOnly s (l.foldl State.zeroCore s) ∧ ZeroedOnly s.mem (l.foldl State.zeroCore s).mem ∧ (l.foldl State.zeroCore s).blocks = s.blocks :=
  ⟨.foldl (fun t _ => ⟨t.regs, _, t.blocks, t.aperture, rfl⟩) l, .foldl (fun t _ => t.mem.zeroedOnly_zero _ _) l,
    foldl_frame (f := State.zeroCore) State.blocks (fun _ _ _ => rfl) s⟩

/-- What bringing block b to state x at once does: a block out of service stays as it is. -/
structure BlockSet (b : Nat) (x : BState) (s t : State) : Prop where
  only : MaintOnly s t
  zeroed : ZeroedOnly s.mem t.mem
  kept : (s.block b).state ≠ .off ∨ x = .off → t.mem = s.mem
  retired : (s.block b).state = .retired → t.blocks = s.blocks
  set : (s.block b).state ≠ .retired → ∃ y : Block, y.state = x ∧ t.blocks = SMap.put s.blocks b y

theorem BlockSet.state {b : Nat} {x : BState} {s t : State} (h : BlockSet b x s t) (b' : Nat) :
    (t.block b').state = (s.block b').state ∨ (t.block b').state = x := by
  by_cases hr : (s.block b).state = .retired
  · exact .inl (congrArg (fun m => (SMap.get Block.reset m b').state) (h.retired hr))
  · obtain ⟨y, hy, hblocks⟩ := h.set hr
    have hget : t.block b' = SMap.get Block.reset (SMap.put s.blocks b y) b' := congrArg (SMap.get Block.reset · b') hblocks
    by_cases hb : b' = b
    · exact .inr (by rw [hget, hb, SMap.get_put_same, hy])
    · exact .inl (by rw [hget, SMap.get_put_other _ _ _ hb]; rfl)

theorem BlockSet.state_self {b : Nat} {x : BState} {s t : State} (h : BlockSet b x s t) :
    (s.block b).state = .retired ∧ (t.block b).state = .retired ∨ (t.block b).state = x := by
  by_cases hr : (s.block b).state = .retired
  · exact .inl ⟨hr, (congrArg (fun m => (SMap.get Block.reset m b).state) (h.retired hr)).trans hr⟩
  · obtain ⟨y, hy, hblocks⟩ := h.set hr
    exact .inr ((congrArg (fun m => (SMap.get Block.reset m b).state) hblocks).trans ((congrArg Block.state (SMap.get_put_same _ _ _ _)).trans hy))

/-- Its core memories are cleared where they lay in OFF (07 R212). -/
theorem State.setBlockNow_set (s : State) (b : Nat) (x : BState) : BlockSet b x s (s.setBlockNow b x) := by
  obtain ⟨hzero, hmem, hblocks⟩ := s.foldl_zeroCore_only (coresOfBlock b)
  unfold State.setBlockNow
  extract_lets old raise s1 s2 q s3
  split
  · next hr => exact ⟨.refl s, .refl s.mem, fun _ => rfl, fun _ => rfl, fun h => absurd hr h⟩
  · next hr =>
    have h1 : MaintOnly s s1 ∧ ZeroedOnly s.mem s1.mem ∧ ((s.block b).state ≠ .off ∨ x = .off → s1.mem = s.mem) ∧ s1.blocks = s.blocks := by
      unfold s1
      split
      · next hoff =>
        obtain ⟨hwas, hnew, _⟩ := hoff
        exact ⟨hzero, hmem, fun h => h.elim (absurd hwas) fun hx => absurd (hwas.trans hx.symm) hnew, hblocks⟩
      · exact ⟨.refl s, .refl s.mem, fun _ => rfl, rfl⟩
    have h2 : RegsOnly s1 s2 := by
      unfold s2
      split
      · exact s1.setField_regsOnly ..
      · exact .refl s1
    obtain ⟨honly, hzeroed, hkept, hb⟩ := h1
    have hmem2 : s2.mem = s1.mem := by
      obtain ⟨rs, h2⟩ := h2
      rw [h2]
    have hblocks2 : s2.blocks = s1.blocks := by
      obtain ⟨rs, h2⟩ := h2
      rw [h2]
    refine ⟨(honly.trans h2.maintOnly).trans ⟨_, _, _, _, rfl⟩, ?_, fun h => hmem2.trans (hkept h), fun h => absurd h hr,
      fun _ => ⟨{ old with state := x, target := x, queued := false, ramping := false, fillCore := false }, rfl, ?_⟩⟩
    · show ZeroedOnly s.mem s2.mem
      rwa [hmem2]
    · exact congrArg (SMap.put · b _) (hblocks2.trans hb)

section
variable (s : State) (p : Nat) (x : BState)

theorem State.setBlocksNow_only : MaintOnly s (s.setBlocksNow p x) := .foldl (fun t b => (t.setBlockNow_set b x).only) _

theorem State.setBlocksNow_zeroed : ZeroedOnly s.mem (s.setBlocksNow p x).mem := .foldl (fun t b => (t.setBlockNow_set b x).zeroed) _

/-- A block is left as it is, or in the state asked for. -/
theorem State.setBlocksNow_state (b : Nat) : ((s.setBlocksNow p x).block b).state = (s.block b).state ∨ ((s.setBlocksNow p x).block b).state = x :=
  List.foldlRecOn (motive := fun t : State => (t.block b).state = (s.block b).state ∨ (t.block b).state = x) _ _ (.inl rfl) fun t ht a _ =>
    ((t.setBlockNow_set a x).state b).elim (fun h => h.symm ▸ ht) .inr

/-- No block of a partition whose blocks are raised lies in OFF. -/
theorem State.setBlocksNow_active {b : Nat} (hb : b ∈ s.blocksOf p) : ((s.setBlocksNow p .active).block b).state ≠ .off := by
  refine foldl_reaches (Pre := fun _ => True) (Done := fun t : State => (t.block b).state ≠ .off) hb (fun _ _ _ _ _ => trivial)
    (fun t _ => ?_) (fun t ht a _ _ => ?_) trivial
  · rcases (t.setBlockNow_set b .active).state_self with ⟨_, h⟩ | h
    all_goals
      rw [h]
      decide
  · rcases (t.setBlockNow_set a .active).state b with h | h
    · rwa [h]
    · rw [h]
      decide

/-- Blocks that do not lie in OFF are lowered without a change of memory. -/
theorem State.setBlocksNow_mem (h : ∀ b ∈ s.blocksOf p, (s.block b).state ≠ .off) : (s.setBlocksNow p x).mem = s.mem := by
  have hfold : (s.setBlocksNow p x).mem = s.mem ∧ ∀ b ∈ s.blocksOf p, ((s.setBlocksNow p x).block b).state ≠ .off ∨ x = .off :=
    List.foldlRecOn (motive := fun t : State => t.mem = s.mem ∧ ∀ b ∈ s.blocksOf p, (t.block b).state ≠ .off ∨ x = .off) _ _
      ⟨rfl, fun b hb => .inl (h b hb)⟩ fun t ⟨hmem, hstate⟩ a ha => by
        have hset := t.setBlockNow_set a x
        refine ⟨(hset.kept (hstate a ha)).trans hmem, fun b hb => ?_⟩
        rcases hset.state b with hs | hs
        · rw [hs]
          exact hstate b hb
        · rw [hs]
          exact (em (x = .off)).symm
  exact hfold.1

end

end Sys2Proof.Machine

namespace Sys2Proof.Machine

/-! ## SCRUB of the core memories (14 R440, 17 R538) -/

/-- A core by its tile's column and row, its block's in the tile, and its own in the block (01 R27). -/
theorem blockOf_parts {t u v w x y : Nat} (ht : t < 4) (hv : v < 4) (hw : w < 8) (hx : x < 8) (hy : y < 8) :
    blockOf ((u * 32 + v * 8 + y) * 256 + (t * 64 + w * 8 + x)) = 32 * (4 * u + t) + 8 * v + w := by
  have hcol : ((u * 32 + v * 8 + y) * 256 + (t * 64 + w * 8 + x)) % 256 = t * 64 + w * 8 + x := by omega
  have hrow : ((u * 32 + v * 8 + y) * 256 + (t * 64 + w * 8 + x)) / 256 = u * 32 + v * 8 + y := by omega
  have htile : (t * 64 + w * 8 + x) / 64 = t := by omega
  have hinner : (t * 64 + w * 8 + x) % 64 / 8 = w := by omega
  have htileRow : (u * 32 + v * 8 + y) / 32 = u := by omega
  have hinnerRow : (u * 32 + v * 8 + y) % 32 / 8 = v := by omega
  simp only [blockOf, tileOf, coreX, coreY, hcol, hrow, htile, hinner, htileRow, hinnerRow, Nat.mul_comm u 4]

theorem blockOf_of_mem {b n : Nat} (h : n ∈ coresOfBlock b) : blockOf n = b := by
  simp only [coresOfBlock, List.mem_map, List.mem_range] at h
  obtain ⟨i, hi, rfl⟩ := h
  have hcore : firstCore b + i / 8 * 256 + i % 8 =
      (b / 32 / 4 * 32 + b % 32 / 8 * 8 + i / 8) * 256 + (b / 32 % 4 * 64 + b % 8 * 8 + i % 8) := by
    simp only [firstCore, coreAt]
    ring
  rw [hcore, blockOf_parts (by omega) (by omega) (by omega) (by omega) (by omega)]
  omega

theorem State.mem_coresOf {s : State} {p n : Nat} (h : n ∈ s.coresOf p) : blockOf n ∈ s.blocksOf p := by
  obtain ⟨b, hb, hn⟩ := List.mem_flatMap.1 h
  rwa [blockOf_of_mem hn]

/-- The word at an address has no error. -/
def State.CleanAt (s : State) (a : Nat) : Prop := (s.mem.word a).2.2 = .clean

theorem ZeroedOnly.cleanAt {s t : State} (h : ZeroedOnly s.mem t.mem) {a : Nat} : s.CleanAt a → t.CleanAt a := (h a).2

/-- A word written anew is clean, and no other word's check bits change. -/
theorem Mem.word_writeUnit_clean (m : Mem) (u : Nat) (bs : Bytes) (p : Bool) {a : Nat} (h : a = u ∨ (m.word a).2.2 = .clean) :
    ((m.writeUnit u bs p).word a).2.2 = .clean := by
  by_cases ha : a = u
  · subst ha
    exact Mem.word_clean (SMap.get_del_same _ _ _)
  · exact (Mem.word_check_congr ((SMap.get_del_other _ _ ha).trans (by rw [Mem.flips_write]))).trans (h.resolve_left ha)

/-- Words are corrected: registers and memory alone change, and no clean word turns bad. -/
structure Scrubbed (s t : State) : Prop where
  only : MaintOnly s t
  blocks : t.blocks = s.blocks
  clean : ∀ a, s.CleanAt a → t.CleanAt a

theorem Scrubbed.refl (s : State) : Scrubbed s s := ⟨.refl s, rfl, fun _ => id⟩

theorem Scrubbed.trans {s t u : State} (h : Scrubbed s t) (k : Scrubbed t u) : Scrubbed s u :=
  ⟨h.only.trans k.only, k.blocks.trans h.blocks, fun a ha => k.clean a (h.clean a ha)⟩

/-- A pass over a list that carries what it has found. -/
theorem Scrubbed.foldl {ι : Type} {f : Found × State → ι → Found × State} (h : ∀ x a, Scrubbed x.2 (f x a).2) (l : List ι) (x : Found × State) :
    Scrubbed x.2 (l.foldl f x).2 :=
  List.foldlRecOn (motive := fun y : Found × State => Scrubbed x.2 y.2) l f (.refl x.2) fun y hy a _ => hy.trans (h y a)

theorem State.scrubWord_spec (s : State) (n off : Nat) (f : Found) :
    Scrubbed s (s.scrubWord n off f).2 ∧ (s.scrubWord n off f).2.CleanAt (coreWindow n + off) := by
  obtain ⟨rs, hcount⟩ := s.countCheck_regsOnly (n := n) (s.mem.word (coreWindow n + off)).2.2 (if off < sramBytes then some (off / 8) else none)
  have hwritten (bs : Bytes) (p : Bool) :
      Scrubbed s { s with regs := rs, mem := s.mem.writeUnit (coreWindow n + off) bs p } :=
    ⟨⟨rs, _, s.blocks, s.aperture, rfl⟩, rfl, fun _ ha => Mem.word_writeUnit_clean _ _ _ _ (.inr ha)⟩
  unfold State.scrubWord
  dsimp only
  rw [hcount]
  split
  · next hclean => exact ⟨⟨⟨rs, s.mem, s.blocks, s.aperture, rfl⟩, rfl, fun _ ha => ha⟩, hclean⟩
  · exact ⟨hwritten _ _, Mem.word_writeUnit_clean _ _ _ _ (.inl rfl)⟩
  · exact ⟨hwritten _ _, Mem.word_writeUnit_clean _ _ _ _ (.inl rfl)⟩

/-- The words of a core's range, or the core's block as one that has failed. -/
def State.scrubCore (base len : Nat) (a : Found × State) (n : Nat) : Found × State :=
  if (a.2.block (blockOf n)).state = .retired then (a.1.fail (blockOf n), a.2)
  else (List.range (len / 8)).foldl (fun (a : Found × State) i => a.2.scrubWord n (base + 8 * i) a.1) a

/-- The range of every core of a list. -/
def State.scrubCores (base len : Nat) (s : State) (l : List Nat) : Found × State := l.foldl (State.scrubCore base len) (Found.zero, s)

section
variable (base len : Nat)

theorem State.scrubCore_scrubbed (a : Found × State) (n : Nat) : Scrubbed a.2 (State.scrubCore base len a n).2 := by
  unfold State.scrubCore
  split
  · exact .refl _
  · exact .foldl (fun x i => (x.2.scrubWord_spec n (base + 8 * i) x.1).1) _ a

theorem State.scrubCore_clean (a : Found × State) (n : Nat) (hheld : (a.2.block (blockOf n)).state ≠ .retired) {i : Nat} (hi : i < len / 8) :
    (State.scrubCore base len a n).2.CleanAt (coreWindow n + (base + 8 * i)) := by
  rw [State.scrubCore, if_neg hheld]
  exact foldl_reaches (f := fun (a : Found × State) i => a.2.scrubWord n (base + 8 * i) a.1) (Pre := fun _ => True)
    (Done := fun x : Found × State => x.2.CleanAt (coreWindow n + (base + 8 * i))) (List.mem_range.2 hi)
    (fun _ _ _ _ _ => trivial) (fun x _ => (x.2.scrubWord_spec n (base + 8 * i) x.1).2)
    (fun x hx j _ _ => (x.2.scrubWord_spec n (base + 8 * j) x.1).1.clean _ hx) trivial

theorem State.scrubCores_only (s : State) (l : List Nat) : MaintOnly s (State.scrubCores base len s l).2 :=
  (Scrubbed.foldl (State.scrubCore_scrubbed base len) l (Found.zero, s)).only

theorem State.scrubCores_clean (s : State) (l : List Nat) {n : Nat} (hn : n ∈ l) (hheld : (s.block (blockOf n)).state ≠ .retired) {i : Nat}
    (hi : i < len / 8) : (State.scrubCores base len s l).2.CleanAt (coreWindow n + (base + 8 * i)) := by
  refine foldl_reaches (Pre := fun x : Found × State => (x.2.block (blockOf n)).state ≠ .retired)
    (Done := fun x : Found × State => x.2.CleanAt (coreWindow n + (base + 8 * i))) hn (fun x hx m _ _ => ?_)
    (fun x hx => State.scrubCore_clean base len x n hx hi) (fun x hx m _ _ => (State.scrubCore_scrubbed base len x m).clean _ hx) hheld
  have hblock : (State.scrubCore base len x m).2.block (blockOf n) = x.2.block (blockOf n) :=
    congrArg (SMap.get Block.reset · (blockOf n)) (State.scrubCore_scrubbed base len x m).blocks
  rwa [hblock]

end

section
variable {s : State} {k : Nat} {c : InFlight} (hc : Fetched s k c) (hop : c.opcode = Op.scrub) {p base len : Nat}
  (hp : (cmdPart c.via Op.scrub c.entry).getD 0 = p) (hbase : ef c.entry 16 8 = base) (hlen : ef c.entry 24 8 = len)
  (hform : ef c.entry 9 1 = 0) (hpart : s.partIn p [.empty, .retiring, .running, .paused] = false) (hlo : base % 32 = 0)
  (hsize : len % 32 = 0) (hfits : base + len ≤ coreBytes)
include hc hop hp hbase hlen hform hpart hlo hsize hfits

theorem State.exec_scrubSram {r : Found × State} (hr : State.scrubCores base len (s.setBlocksNow p .active) (s.coresOf p) = r)
    (honly : MaintOnly s r.2) : exec (.scrubSram k) s =
      .next ((r.2.setBlocksNow p (r.2.part p).state.blocks).ended k c r.1.result) := by
  have hfold : (s.coresOf p).foldl (fun (a : Found × State) n =>
      if (a.2.block (blockOf n)).state = .retired then (a.1.fail (blockOf n), a.2)
      else (List.range (len / 8)).foldl (fun (a : Found × State) i => a.2.scrubWord n (base + 8 * i) a.1) a)
      (Found.zero, s.setBlocksNow p .active) = r := hr
  refine congrArg Host.Outcome.next (hc.perform hop (by simp [scrubForm, hform]) ?_
    (congrArg Loupe.inflight (honly.trans (r.2.setBlocksNow_only p (r.2.part p).state.blocks)).loupe))
  simp only [hp, hbase, hlen, hpart, hlo, hsize, ne_eq, not_true, Bool.false_eq_true, if_false, false_or, show ¬ coreBytes < base + len by omega, hfold]

theorem State.scrubSram_spec (hlost : s.lostBlock p = false) : ∃ t, ∃ f : Found, exec (.scrubSram k) s = .next t ∧ Told t k f.result ∧
    t.cores = s.cores ∧ t.parts = s.parts ∧
    ∀ n ∈ s.coresOf p, ∀ i, i < len / 8 → (t.mem.word (coreWindow n + (base + 8 * i))).2.2 = .clean := by
  have hraise := s.setBlocksNow_only p .active
  have honly := hraise.trans (State.scrubCores_only base len (s.setBlocksNow p .active) (s.coresOf p))
  have hclean (n : Nat) (hn : n ∈ s.coresOf p) (i : Nat) (hi : i < len / 8) :
      (State.scrubCores base len (s.setBlocksNow p .active) (s.coresOf p)).2.CleanAt (coreWindow n + (base + 8 * i)) := by
    have hheld : (s.block (blockOf n)).state ≠ .retired := by
      have hany := List.any_eq_false.1 hlost (blockOf n) (State.mem_coresOf hn)
      simpa using hany
    refine State.scrubCores_clean base len _ _ hn ?_ hi
    rcases s.setBlocksNow_state p .active (blockOf n) with h | h
    · rwa [h]
    · rw [h]
      decide
  generalize hr : State.scrubCores base len (s.setBlocksNow p .active) (s.coresOf p) = r at honly hclean
  have hlower := r.2.setBlocksNow_only p (r.2.part p).state.blocks
  have hzeroed := r.2.setBlocksNow_zeroed p (r.2.part p).state.blocks
  refine ⟨_, r.1, State.exec_scrubSram hc hop hp hbase hlen hform hpart hlo hsize hfits hr honly, ?_⟩
  generalize r.2.setBlocksNow p (r.2.part p).state.blocks = t at hlower hzeroed
  have hall := honly.trans hlower
  refine ⟨State.told_ended ?_ _, hall.cores, hall.parts, fun n hn i hi => hzeroed.cleanAt (hclean n hn i hi)⟩
  rw [hall.loupe]
  exact hc.lt_length

end

end Sys2Proof.Machine

namespace Sys2Proof.Machine

/-! ## SELF_TEST without a failure (14 R441, 17 R543) -/

/-- Partition p's own state and facet stand, and so do the other partitions and memory, the device facet and the commands in flight. -/
structure Reconfigured (p : Nat) (s t : State) : Prop where
  mem : t.mem = s.mem
  devFacet : t.devFacet = s.devFacet
  loupe : t.loupe = s.loupe
  others : ∀ q, q ≠ p → t.part q = s.part q
  state : (t.part p).state = (s.part p).state
  facet : (t.part p).facet = (s.part p).facet

section
variable {p : Nat} {s t u : State}

theorem Reconfigured.refl (p : Nat) (s : State) : Reconfigured p s s := ⟨rfl, rfl, rfl, fun _ _ => rfl, rfl, rfl⟩

theorem Reconfigured.trans (h : Reconfigured p s t) (k : Reconfigured p t u) : Reconfigured p s u :=
  ⟨k.mem.trans h.mem, k.devFacet.trans h.devFacet, k.loupe.trans h.loupe, fun q hq => (k.others q hq).trans (h.others q hq),
    k.state.trans h.state, k.facet.trans h.facet⟩

/-- What leaves the partitions, memory, the device facet and the Loupe alone. -/
theorem Reconfigured.of_parts (hmem : t.mem = s.mem) (hdev : t.devFacet = s.devFacet) (hloupe : t.loupe = s.loupe) (hparts : t.parts = s.parts) :
    Reconfigured p s t := by
  have hpart (q : Nat) : t.part q = s.part q := congrArg (SMap.get Partition.reset · q) hparts
  exact ⟨hmem, hdev, hloupe, fun q _ => hpart q, congrArg Partition.state (hpart p), congrArg Partition.facet (hpart p)⟩

theorem Reconfigured.foldl {ι : Type} {f : State → ι → State} (h : ∀ t a, Reconfigured p t (f t a)) (l : List ι) : Reconfigured p s (l.foldl f s) :=
  List.foldlRecOn (motive := Reconfigured p s) l f (.refl p s) fun t ht a _ => ht.trans (h t a)

theorem Reconfigured.setPart {x : Partition} (hstate : x.state = (s.part p).state) (hfacet : x.facet = (s.part p).facet) :
    Reconfigured p s (s.setPart p x) := by
  refine ⟨rfl, rfl, rfl, fun q hq => s.part_setPart_other x hq, ?_, ?_⟩ <;> rw [s.part_setPart_same]
  · exact hstate
  · exact hfacet

end

theorem State.configPart_reconfigured (s : State) (p : Nat) (f : Facet) : Reconfigured p s (s.configPart p f) := by
  unfold State.configPart
  extract_lets +onlyGivenNames -merge s1
  have h1 : Reconfigured p s s1 := by
    unfold s1
    refine .foldl (fun t a => ?_) _
    exact .of_parts rfl rfl rfl rfl
  clear_value s1
  extract_lets +onlyGivenNames -merge engine s2
  have h2 : Reconfigured p s s2 := by
    unfold s2
    refine h1.trans (.foldl (fun t a => ?_) _)
    exact .of_parts rfl rfl rfl rfl
  clear_value s2
  refine h2.trans (.foldl (fun t a => ?_) _)
  exact .of_parts rfl rfl rfl rfl

theorem State.setReg_reconfigured (s : State) (p o : Nat) (w : Word) : Reconfigured p s (s.setReg o w) :=
  .of_parts rfl rfl rfl rfl

theorem State.setCore_setRouter_reconfigured (s : State) (p n : Nat) (core : Core) (router : Router) :
    Reconfigured p s ((s.setCore n core).setRouter n router) := .of_parts rfl rfl rfl rfl

theorem State.resetCore_reconfigured (s : State) (p : Nat) (f : Facet) (n : Nat) : Reconfigured p s (s.resetCore f n) := by
  unfold State.resetCore
  extract_lets +onlyGivenNames -merge core seq start ring s1
  have h1 : Reconfigured p s s1 := .foldl (fun t a => t.setReg_reconfigured p a (regReset a)) _
  clear_value s1
  exact h1.trans (s1.setCore_setRouter_reconfigured p n _ _)

theorem State.clearPart_reconfigured (s : State) (p : Nat) (f : Facet) : Reconfigured p s (s.clearPart p f) := by
  unfold State.clearPart
  extract_lets +onlyGivenNames -merge s1
  have h1 : Reconfigured p s s1 := by
    unfold s1
    refine .foldl (fun t a => ?_) _
    exact t.resetCore_reconfigured p f a
  clear_value s1
  extract_lets +onlyGivenNames -merge s2
  have h2 : Reconfigured p s s2 := h1.trans (.of_parts rfl rfl rfl rfl)
  clear_value s2
  extract_lets +onlyGivenNames -merge s3
  have h3 : Reconfigured p s s3 := by
    unfold s3
    refine h2.trans (.foldl (fun t a => ?_) _)
    exact .of_parts rfl rfl rfl rfl
  clear_value s3
  extract_lets +onlyGivenNames -merge s4
  have h4 : Reconfigured p s s4 := by
    unfold s4
    refine h3.trans (.foldl (fun t a => ?_) _)
    exact .of_parts rfl rfl rfl rfl
  clear_value s4
  extract_lets +onlyGivenNames -merge engine s5
  have h5 : Reconfigured p s s5 := by
    unfold s5
    refine h4.trans (.foldl (fun t a => ?_) _)
    exact .of_parts rfl rfl rfl rfl
  clear_value s5
  extract_lets +onlyGivenNames -merge ctx s6
  have h6 : Reconfigured p s s6 := by
    unfold s6
    refine h5.trans (.foldl (fun t a => ?_) _)
    exact .of_parts rfl rfl rfl rfl
  clear_value s6
  extract_lets +onlyGivenNames -merge s7
  have h7 : Reconfigured p s s7 := by
    unfold s7
    refine h6.trans (.foldl (fun t a => ?_) _)
    exact .of_parts rfl rfl rfl rfl
  clear_value s7
  exact h7.trans (.setPart rfl rfl)

/-- Every core of the partition is cleared, with nothing but memory touched. -/
theorem State.zeroPart_spec (s : State) (p : Nat) : (∃ m, s.zeroPart p = { s with mem := m }) ∧ CoresZero (s.zeroPart p) (s.coresOf p) := by
  refine ⟨List.foldlRecOn (motive := fun t : State => ∃ m, t = { s with mem := m }) _ _ ⟨s.mem, rfl⟩ ?_, fun n hn o ho => ?_⟩
  · rintro _ ⟨m, rfl⟩ n _
    exact ⟨_, rfl⟩
  · refine foldl_reaches (f := fun s n => (s.zeroCore n).zeroSlice n) (Pre := fun _ => True)
      (Done := fun t : State => t.mem.byte (coreWindow n + o) = 0) hn (fun _ _ _ _ _ => trivial) (fun t _ => ?_) (fun t ht m _ _ => ?_) trivial
    · exact Mem.byte_zero_of_zero _ _ (t.mem.byte_zero_in (by omega) (by omega))
    · exact Mem.byte_zero_of_zero _ _ (Mem.byte_zero_of_zero _ _ ht)

/-- A test of MEMORY leaves the partition cleared and CONFIGURED (14 R441). -/
def State.clearTested (s : State) (p : Nat) : State :=
  let t := (s.zeroPart p).setPart p { s.part p with facet := Facet.none, facetDigest := 0, weightDigest := 0, imageId := 0, signed := false }
  ((t.configPart p Facet.none).clearPart p Facet.none).move p .configured

theorem State.clearTested_spec (s : State) (p : Nat) : (s.clearTested p).loupe = s.loupe ∧ ((s.clearTested p).part p).state = .configured ∧
    ((s.clearTested p).part p).facet = Facet.none ∧ (∀ q, q ≠ p → (s.clearTested p).part q = s.part q) ∧
    CoresZero (s.clearTested p) (s.coresOf p) := by
  obtain ⟨⟨m, honly⟩, hzero⟩ := s.zeroPart_spec p
  unfold State.clearTested
  extract_lets old t
  have hreset := (t.configPart_reconfigured p Facet.none).trans (State.clearPart_reconfigured _ p Facet.none)
  generalize (t.configPart p Facet.none).clearPart p Facet.none = u at hreset ⊢
  have hmoved : BlocksOnly (u.setPart p { u.part p with state := .configured }) (u.move p .configured) :=
    BlocksOnly.foldl (fun v b => v.retarget_blocksOnly b _) _
  generalize u.move p .configured = v at hmoved ⊢
  obtain ⟨bs, q, rfl⟩ := hmoved
  have hmem : t.mem = (s.zeroPart p).mem := rfl
  have hloupe : t.loupe = s.loupe := by
    show (s.zeroPart p).loupe = s.loupe
    rw [honly]
  have hpart : t.part p = _ := State.part_setPart_same _ _ _
  have hothers (j : Nat) (hj : j ≠ p) : t.part j = s.part j := by
    refine (State.part_setPart_other _ _ hj).trans ?_
    rw [honly]
    rfl
  refine ⟨hreset.loupe.trans hloupe, ?_, ?_, fun j hj => ?_, fun n hn o ho => ?_⟩
  · exact congrArg Partition.state (u.part_setPart_same p _)
  · exact (congrArg Partition.facet (u.part_setPart_same p _)).trans (hreset.facet.trans (congrArg Partition.facet hpart))
  · exact (u.part_setPart_other _ hj).trans ((hreset.others j hj).trans (hothers j hj))
  · show u.mem.byte _ = 0
    rw [hreset.mem, hmem]
    exact hzero n hn o ho

/-- The result of a self-test that finds no failure, of `test` in `cases` cases. -/
def passedTest (test cases : Nat) : Result :=
  ⟨St.ok, 0, leBytes 32 0 ++ leBytes 1 test ++ leBytes 1 0 ++ leBytes 2 0xFFFF ++ leBytes 4 cases⟩

theorem passedTest_head (test cases : Nat) :
    (passedTest test cases).payload.take 36 = leBytes 32 0 ++ [BitVec.ofNat 8 test, 0, 0xFF, 0xFF] := by
  have hbyte : leBytes 1 test = [BitVec.ofNat 8 test] := by simp [leBytes_one]
  have hnone : leBytes 1 0 ++ leBytes 2 0xFFFF = [0, 0xFF, 0xFF] := by decide
  have hlen : (leBytes 32 0 ++ leBytes 1 test ++ leBytes 1 0 ++ leBytes 2 0xFFFF).length = 36 := by simp [leBytes_length]
  rw [passedTest, List.take_append_of_le_length (Nat.le_of_eq hlen.symm), List.take_of_length_le (Nat.le_of_eq hlen), List.append_assoc _ (leBytes 1 0),
    hnone, hbyte, List.append_assoc]
  rfl

/-- The state in which the tests run: the partition's blocks are ACTIVE, and a number of cases has been drawn. -/
def State.tested (s : State) (p : Nat) : State := ((s.setBlocksNow p .active).free 32).2

/-- The number of cases that the spec leaves free. -/
def State.testCases (s : State) (p test : Nat) : Nat := if test % 4 = 0 then 0 else ((s.setBlocksNow p .active).free 32).1.toNat

section
variable {s : State} {k : Nat} {c : InFlight} (hc : Fetched s k c) (hop : c.opcode = Op.selfTest) {p test : Nat}
  (hp : (cmdPart c.via Op.selfTest c.entry).getD 0 = p) (htest : ef c.entry 9 1 % 16 = test)
  (hpart : s.partIn p [.configured, .loaded, .stopped, .faulted] = true)
include hc hop hp htest hpart

theorem State.exec_selfTest {t : State} (ht : (if bitOf test 3 then (s.tested p).clearTested p else s.tested p) = t) (hloupe : t.loupe = s.loupe) :
    exec (.selfTest k []) s = .next ((t.setBlocksNow p (t.part p).state.blocks).ended k c (passedTest test (s.testCases p test))) := by
  have hlower := t.setBlocksNow_only p (t.part p).state.blocks
  refine congrArg Host.Outcome.next (hc.perform hop rfl ?_ (congrArg Loupe.inflight (hlower.loupe.trans hloupe)))
  simp only [hp, htest, hpart, Bool.not_true, Bool.false_eq_true, if_false, List.map_nil, List.filter_nil, List.foldl_nil, if_true, Option.map_none,
    Option.getD_none]
  subst ht
  rfl

/-- Blocks that have been raised for the test are lowered with what they hold. -/
theorem State.selfTest_spec (hshort : test < 8) : ∃ t y, exec (.selfTest k []) s = .next t ∧ Told t k y ∧ y.status = St.ok ∧
    y.payload.take 36 = leBytes 32 0 ++ [BitVec.ofNat 8 test, 0, 0xFF, 0xFF] ∧
    t.mem = (s.setBlocksNow p .active).mem ∧ t.cores = s.cores ∧ t.parts = s.parts := by
  have hraise := s.setBlocksNow_only p .active
  have hactive : ∀ b ∈ (s.tested p).blocksOf p, ((s.tested p).block b).state ≠ .off := fun b hb =>
    s.setBlocksNow_active p (hraise.blocksOf p ▸ hb)
  have hexec := State.exec_selfTest hc hop hp htest hpart (t := s.tested p)
    (if_neg (by simp [bitOf, Nat.div_eq_of_lt hshort])) hraise.loupe
  have hlower := (s.tested p).setBlocksNow_only p ((s.tested p).part p).state.blocks
  have hmem := (s.tested p).setBlocksNow_mem p ((s.tested p).part p).state.blocks hactive
  refine ⟨_, passedTest test (s.testCases p test), hexec, State.told_ended ?_ _, rfl, passedTest_head _ _, hmem, hlower.cores.trans hraise.cores,
    hlower.parts.trans hraise.parts⟩
  rw [hlower.loupe.trans hraise.loupe]
  exact hc.lt_length

theorem State.selfTest_memory_spec (hmemory : 8 ≤ test) : ∃ t y, exec (.selfTest k []) s = .next t ∧ Told t k y ∧ y.status = St.ok ∧
    (t.part p).state = .configured ∧ (t.part p).facet = Facet.none ∧ (∀ q, q ≠ p → t.part q = s.part q) ∧ CoresZero t (s.coresOf p) := by
  have hraise := s.setBlocksNow_only p .active
  have hcores : (s.tested p).coresOf p = s.coresOf p := hraise.coresOf p
  have hparts (q : Nat) : (s.tested p).part q = s.part q := hraise.part q
  obtain ⟨hloupe, hstate, hfacet, hothers, hzero⟩ := (s.tested p).clearTested_spec p
  have hbit : bitOf test 3 = true := by
    simp only [bitOf, decide_eq_true_eq]
    omega
  have hexec := State.exec_selfTest hc hop hp htest hpart (if_pos hbit) (hloupe.trans hraise.loupe)
  rw [hcores] at hzero
  generalize (s.tested p).clearTested p = u at hexec hloupe hstate hfacet hothers hzero
  have hlower := u.setBlocksNow_only p (u.part p).state.blocks
  have hzeroed := u.setBlocksNow_zeroed p (u.part p).state.blocks
  generalize u.setBlocksNow p (u.part p).state.blocks = t at hexec hlower hzeroed
  refine ⟨_, passedTest test (s.testCases p test), hexec, State.told_ended ?_ _, rfl, (congrArg Partition.state (hlower.part p)).trans hstate,
    (congrArg Partition.facet (hlower.part p)).trans hfacet, fun q hq => (hlower.part q).trans ((hothers q hq).trans (hparts q)),
    fun n hn o ho => (hzeroed _).1 (hzero n hn o ho)⟩
  rw [hlower.loupe.trans (hloupe.trans hraise.loupe)]
  exact hc.lt_length

end

end Sys2Proof.Machine

namespace Sys2Proof.Machine

/-! ## A column is retired (01 R28, R29, 19 R600) -/

/-- Only slices and their own registers differ. -/
structure SliceFrame (s t : State) : Prop where
  only : ∃ (sl : SMap Slice) (rs : SMap Word), t = { s with slices := sl, regs := rs }
  regs : ∀ o, o < Reg.sliceStatus 0 → t.reg o = s.reg o

theorem SliceFrame.refl (s : State) : SliceFrame s s := ⟨⟨s.slices, s.regs, rfl⟩, fun _ _ => rfl⟩

theorem SliceFrame.trans {s t u : State} (h : SliceFrame s t) (k : SliceFrame t u) : SliceFrame s u := by
  obtain ⟨_, _, ht⟩ := h.only
  obtain ⟨sl, rs, hu⟩ := k.only
  exact ⟨⟨sl, rs, hu.trans (by rw [ht])⟩, fun o ho => (k.regs o ho).trans (h.regs o ho)⟩

theorem SliceFrame.foldl {s : State} {ι : Type} {f : State → ι → State} (h : ∀ t a, SliceFrame t (f t a)) (l : List ι) :
    SliceFrame s (l.foldl f s) :=
  List.foldlRecOn (motive := SliceFrame s) l f (.refl s) fun t ht a _ => ht.trans (h t a)

section
variable (s : State)

theorem State.setSlice_sliceFrame (n : Nat) (x : Slice) : SliceFrame s (s.setSlice n x) := ⟨⟨_, s.regs, rfl⟩, fun _ _ => rfl⟩

theorem State.setReg_sliceFrame {o : Nat} (w : Word) (h : Reg.sliceStatus 0 ≤ o) : SliceFrame s (s.setReg o w) :=
  ⟨⟨s.slices, _, rfl⟩, fun o' ho => s.reg_setReg_other w (by omega)⟩

theorem State.sliceTo_sliceFrame (n m : Nat) (old : State) : SliceFrame s (s.sliceTo n m old) := by
  unfold State.sliceTo
  extract_lets x layer left y s1
  have hlayer := s1.setReg_sliceFrame layer (o := Reg.sliceLayer n) (by simp only [Reg.sliceStatus, Reg.sliceLayer]; omega)
  exact ((s.setSlice_sliceFrame n _).trans hlayer).trans (State.setReg_sliceFrame _ _ (by simp only [Reg.sliceStatus]; omega))

/-- TILE_REPAIR with column q marked retired in its half. -/
def State.markColumn (s : State) (t q : Nat) : State :=
  (s.setField (Reg.tileRepair t) (15 + 8 * (q / 33)) 1 1).setField (Reg.tileRepair t) (8 + 8 * (q / 33)) 7 q

theorem State.remap_sliceFrame (t q : Nat) : SliceFrame (s.markColumn t q) (s.remap t q) := by
  unfold State.remap
  extract_lets h o s1 s2
  have hmark : s1 = s.markColumn t q := rfl
  rw [← hmark]
  split
  · exact .refl s1
  · have h2 : SliceFrame s1 s2 := .foldl (fun u j => .foldl (fun u y => u.sliceTo_sliceFrame _ _ _) _) _
    exact h2.trans (.foldl (fun u y => u.setSlice_sliceFrame _ _) _)

theorem State.reg_markColumn (t : Nat) {q : Nat} (hq : q < 66) : halfUsed ((s.markColumn t q).reg (Reg.tileRepair t)) (q / 33) = true ∧
    bits ((s.markColumn t q).reg (Reg.tileRepair t)) (8 + 8 * (q / 33)) 7 = q := by
  have hhalf : q / 33 < 2 := Nat.div_lt_of_lt_mul hq
  rw [State.markColumn, State.reg_setField_same, State.reg_setField_same]
  constructor
  · rw [halfUsed, bits_setBits_other _ _ _ _ _ _ (by omega) (by omega), bits_setBits_same _ _ _ _ (by omega)]
    rfl
  · rw [bits_setBits_same _ _ _ _ (by omega), Nat.mod_eq_of_lt (by omega)]

theorem State.reg_remap {t q : Nat} (ht : t < 8) (hq : q < 66) : halfUsed ((s.remap t q).reg (Reg.tileRepair t)) (q / 33) = true ∧
    bits ((s.remap t q).reg (Reg.tileRepair t)) (8 + 8 * (q / 33)) 7 = q := by
  rw [(s.remap_sliceFrame t q).regs _ (by simp only [Reg.tileRepair, Reg.sliceStatus]; omega)]
  exact s.reg_markColumn t hq

theorem State.remap_only (t q : Nat) : ∃ (sl : SMap Slice) (rs : SMap Word), s.remap t q = { s with slices := sl, regs := rs } := by
  obtain ⟨sl, rs, h⟩ := (s.remap_sliceFrame t q).only
  obtain ⟨rs', hmark⟩ : RegsOnly s (s.markColumn t q) := (s.setField_regsOnly ..).trans (State.setField_regsOnly ..)
  exact ⟨sl, rs, h.trans (by rw [hmark])⟩

/-- The memories of one core. -/
def State.zeroWhole (s : State) (n : Nat) : State := (s.zeroCore n).zeroSlice n

theorem State.mem_zeroWhole (n : Nat) : (s.zeroWhole n).mem =
    (s.mem.zero (coreWindow n) (coreWindow n + 0x40000)).zero (sliceBase n) (sliceBase n + sliceBytes) := rfl

theorem State.zeroWhole_zeroed (n : Nat) : ZeroedOnly s.mem (s.zeroWhole n).mem := by
  rw [State.mem_zeroWhole]
  exact (s.mem.zeroedOnly_zero _ _).trans (Mem.zeroedOnly_zero _ _ _)

theorem State.byte_zeroWhole {n o : Nat} (ho : o < 0x40000) : (s.zeroWhole n).mem.byte (coreWindow n + o) = 0 := by
  rw [State.mem_zeroWhole]
  exact Mem.byte_zero_of_zero _ _ (s.mem.byte_zero_in (by omega) (by omega))

theorem State.byte_zeroWhole_below (n : Nat) {a : Nat} (h : a < coreWindow 0) : (s.zeroWhole n).mem.byte a = s.mem.byte a := by
  have hcore : coreWindow 0 ≤ coreWindow n := Nat.add_le_add_left (Nat.mul_le_mul_right _ n.zero_le) _
  have hslice : coreWindow 0 ≤ sliceBase n := Nat.le_trans (by decide) (Nat.le_add_right _ _)
  rw [State.mem_zeroWhole]
  exact (Mem.byte_zero_out _ (.inl (h.trans_le hslice))).trans (Mem.byte_zero_out _ (.inl (h.trans_le hcore)))

/-- The memories of the cores that `at_` gives for a list. -/
def State.zeroCores (at_ : Nat → Nat) (s : State) (l : List Nat) : State := l.foldl (fun s y => s.zeroWhole (at_ y)) s

section
variable (at_ : Nat → Nat) (l : List Nat)

theorem State.zeroCores_zeroed : ZeroedOnly s.mem (State.zeroCores at_ s l).mem := .foldl (fun u _ => u.zeroWhole_zeroed _) _

theorem State.byte_zeroCores {y o : Nat} (hy : y ∈ l) (ho : o < 0x40000) : (State.zeroCores at_ s l).mem.byte (coreWindow (at_ y) + o) = 0 :=
  foldl_reaches (f := fun (s : State) y => s.zeroWhole (at_ y)) (Pre := fun _ => True) (Done := fun u : State => u.mem.byte (coreWindow (at_ y) + o) = 0)
    hy (fun _ _ _ _ _ => trivial) (fun u _ => u.byte_zeroWhole ho) (fun u hu x _ _ => (u.zeroWhole_zeroed (at_ x) _).1 hu) trivial

theorem State.byte_zeroCores_below {a : Nat} (h : a < coreWindow 0) : (State.zeroCores at_ s l).mem.byte a = s.mem.byte a :=
  foldl_frame (f := fun (s : State) y => s.zeroWhole (at_ y)) (fun u : State => u.mem.byte a) (fun u y _ => u.byte_zeroWhole_below (at_ y) h) s

theorem State.zeroCores_only : ∃ m, State.zeroCores at_ s l = { s with mem := m } := by
  refine List.foldlRecOn (motive := fun u : State => ∃ m, u = { s with mem := m }) l _ ⟨s.mem, rfl⟩ ?_
  rintro _ ⟨m, rfl⟩ y _
  exact ⟨_, rfl⟩

end

/-- The cores of one logical column of a tile. -/
def State.zeroColumn (t : Nat) (s : State) (j : Nat) : State := State.zeroCores (coreInTile t · j) s (List.range 32)

theorem State.clearMoved_eq (t q : Nat) : s.clearMoved t q = (movedCols q).foldl (State.zeroColumn t) s := rfl

theorem State.byte_clearMoved {t q j y o : Nat} (hj : j ∈ movedCols q) (hy : y < 32) (ho : o < 0x40000) :
    (s.clearMoved t q).mem.byte (coreWindow (coreInTile t y j) + o) = 0 := by
  rw [State.clearMoved_eq]
  exact foldl_reaches (f := State.zeroColumn t) (Pre := fun _ => True) (Done := fun u : State => u.mem.byte (coreWindow (coreInTile t y j) + o) = 0)
    hj (fun _ _ _ _ _ => trivial) (fun u _ => u.byte_zeroCores (coreInTile t · j) _ (List.mem_range.2 hy) ho)
    (fun u hu x _ _ => (u.zeroCores_zeroed (coreInTile t · x) _ _).1 hu) trivial

theorem State.byte_clearMoved_below (t q : Nat) {a : Nat} (h : a < coreWindow 0) : (s.clearMoved t q).mem.byte a = s.mem.byte a := by
  rw [State.clearMoved_eq]
  exact foldl_frame (f := State.zeroColumn t) (fun u : State => u.mem.byte a) (fun u j _ => u.byte_zeroCores_below (coreInTile t · j) _ h) s

theorem State.clearMoved_only (t q : Nat) : ∃ m, s.clearMoved t q = { s with mem := m } := by
  rw [State.clearMoved_eq]
  refine List.foldlRecOn (motive := fun u : State => ∃ m, u = { s with mem := m }) _ _ ⟨s.mem, rfl⟩ ?_
  rintro _ ⟨m, rfl⟩ j _
  exact State.zeroCores_only _ _ _

/-- A partition whose cores have moved. -/
def State.relocate (s : State) (p : Nat) : State := s.setPart p { s.part p with relocated := true }

theorem State.foldl_relocate_only (l : List Nat) : ∃ ps, l.foldl State.relocate s = { s with parts := ps } := by
  refine List.foldlRecOn (motive := fun u : State => ∃ ps, u = { s with parts := ps }) l _ ⟨s.parts, rfl⟩ ?_
  rintro _ ⟨ps, rfl⟩ p _
  exact ⟨_, rfl⟩

theorem State.relocate_part (p q : Nat) : ((s.relocate p).part q).state = (s.part q).state ∧
    ((s.part q).relocated = true → ((s.relocate p).part q).relocated = true) := by
  by_cases h : q = p
  · subst h
    rw [State.relocate, State.part_setPart_same]
    exact ⟨rfl, fun _ => rfl⟩
  · rw [State.relocate, State.part_setPart_other _ _ h]
    exact ⟨rfl, id⟩

theorem State.foldl_relocate_part {l : List Nat} {q : Nat} (hq : q ∈ l) : ((l.foldl State.relocate s).part q).relocated = true ∧
    ((l.foldl State.relocate s).part q).state = (s.part q).state :=
  ⟨foldl_reaches (f := State.relocate) (Pre := fun _ => True) (Done := fun u : State => (u.part q).relocated = true) hq (fun _ _ _ _ _ => trivial)
      (fun u _ => congrArg Partition.relocated (u.part_setPart_same q _)) (fun u hu p _ _ => (u.relocate_part p q).2 hu) trivial,
    foldl_frame (f := State.relocate) (fun u : State => (u.part q).state) (fun u p _ => (u.relocate_part p q).1) s⟩

/-- Column q of tile t is out of service, its cores' memories cleared, the partitions that hold them marked. -/
def State.retireColumn (s : State) (t q : Nat) : State :=
  (s.holders (movedBlocks t q)).foldl State.relocate ((s.remap t q).clearMoved t q)

theorem State.retireColumn_spec {t q : Nat} (ht : t < 8) (hq : q < 66) {u : State} (hu : s.retireColumn t q = u) :
    u.flash = s.flash ∧ u.loupe = s.loupe ∧ halfUsed (u.reg (Reg.tileRepair t)) (q / 33) = true ∧
    bits (u.reg (Reg.tileRepair t)) (8 + 8 * (q / 33)) 7 = q ∧
    (∀ j ∈ s.holders (movedBlocks t q), (u.part j).relocated = true ∧ (u.part j).state = (s.part j).state) ∧
    (∀ j ∈ movedCols q, ∀ y, y < 32 → ∀ o, o < 0x40000 → u.mem.byte (coreWindow (coreInTile t y j) + o) = 0) ∧
    ∀ a, a < coreWindow 0 → u.mem.byte a = s.mem.byte a := by
  obtain ⟨sl, rs, hremap⟩ := s.remap_only t q
  have hreg := s.reg_remap ht hq
  obtain ⟨m, hclear⟩ := (s.remap t q).clearMoved_only t q
  have hzero (j : Nat) (hj : j ∈ movedCols q) (y : Nat) (hy : y < 32) (o : Nat) (ho : o < 0x40000) :=
    (s.remap t q).byte_clearMoved (t := t) hj hy ho
  have hbelow (a : Nat) (ha : a < coreWindow 0) := (s.remap t q).byte_clearMoved_below t q ha
  have hpart (j : Nat) (hj : j ∈ s.holders (movedBlocks t q)) := ((s.remap t q).clearMoved t q).foldl_relocate_part hj
  obtain ⟨ps, hrelocate⟩ := ((s.remap t q).clearMoved t q).foldl_relocate_only (s.holders (movedBlocks t q))
  rw [State.retireColumn] at hu
  rw [hu] at hpart hrelocate
  generalize (s.remap t q).clearMoved t q = w at hclear hzero hbelow hpart hrelocate
  generalize s.remap t q = v at hremap hreg hclear hbelow hzero
  subst hrelocate hclear hremap
  exact ⟨rfl, rfl, hreg.1, hreg.2, hpart, hzero, hbelow⟩

end

section
variable {s : State} {k : Nat} {c : InFlight} (hc : Fetched s k c) (hop : c.opcode = Op.spare) (hform : ef c.entry 8 1 = 3)
include hc hop hform

theorem State.exec_spareColumn {t q : Nat} (ht : ef c.entry 12 1 = t) (hq : ef c.entry 13 1 = q) (hcol : SparesColumn s c.entry t q) {u : State}
    (hu : s.retireColumn t q = u) (hloupe : u.loupe = s.loupe) : ∃ y, exec (.spareColumn k) s =
      .next ((u.recordRepair 3 (spareLoc c.entry)).ended k c y) := by
  obtain ⟨htile, hcolumn, hzero, hreleased, hidle, hfree⟩ := hcol
  have hfold : (s.holders (movedBlocks t q)).foldl (fun s p => s.setPart p { s.part p with relocated := true }) ((s.remap t q).clearMoved t q) = u := hu
  let w := (u.recordRepair 3 (spareLoc c.entry)).reg (Reg.tileRepair t)
  refine ⟨spareDone 3 (2 - b2n (halfUsed w 0) - b2n (halfUsed w 1)) (leBytes 8 ((s.holders (movedBlocks t q)).foldl (fun a p => a + 2 ^ p) 0)), ?_⟩
  refine congrArg Host.Outcome.next (hc.perform hop (by simp [spareForm, hform]) ?_
    (congrArg Loupe.inflight ((State.recordRepair_loupe _ _ _).trans hloupe)))
  simp only [ht, hq, hzero, hreleased, hidle, hfree, Bool.false_eq_true, or_self, and_false, if_false, ne_eq, not_true,
    show ¬ 7 < t by omega, show ¬ 65 < q by omega, hfold]
  rfl

end

end Sys2Proof.Machine

namespace Sys2Proof.Machine

/-! ## SCRUB, SELF_TEST and SPARE_APPLY (14 R440 to R442) -/

section
variable {s : State} {k : Nat} {c : InFlight} (hc : Fetched s k c) (hop : c.opcode = Op.spare)
include hc hop

theorem State.spareSliceRow_spec {n row : Nat} (hn : ef c.entry 12 2 = n) (hrow : ef c.entry 14 1 * 128 + ef c.entry 15 1 = row)
    (hform : ef c.entry 8 1 = 0) (h : SparesRow s c.entry n row) : ∃ t, exec (.spareSliceRow k) s = .next t ∧ t.mem = s.mem ∧ t.regs = s.regs ∧
      t.slice n = { s.slice n with toSpare := (s.slice n).toSpare ++ [row] } ∧ (∀ m, m ≠ n → t.slice m = s.slice m) ∧ Waits t k := by
  refine ⟨_, State.exec_spareSliceRow hc hop hn hrow hform h, ?_⟩
  obtain ⟨bs, q, hraise⟩ := s.raiseForMaint_blocksOnly [blockOf n]
  rw [hraise]
  exact ⟨rfl, rfl, State.slice_setSlice_same _ _ _, fun m hm => State.slice_setSlice_other _ _ hm, waits_setCmd hc.lt_length rfl rfl⟩

theorem State.spareHbmRow_spec {h left a : Nat} (hh : 32 * ef c.entry 12 1 + ef c.entry 13 1 = h)
    (hleft : bits (s.reg (Reg.hbmStatus h)) 0 5 = left) (ha : chanAddr h + ef c.entry 16 2 * 2 ^ 15 + ef c.entry 14 1 * 2 ^ 6 = a)
    (hform : ef c.entry 8 1 = 1) (hrow : SparesHbm s c.entry h) (hcrypt : .crypt h ∉ s.upsets) :
    ∃ t, exec (.spareHbmRow k) s = .next t ∧ bits (t.reg (Reg.hbmStatus h)) 0 5 = left - 1 ∧
      Told t k ⟨St.ok, 0, leBytes 1 1 ++ leBytes 3 0 ++ leBytes 4 (left - 1)⟩ ∧
      (t.chan h).spareRows = (s.chan h).spareRows ++ [ef c.entry 16 2 * 32 + ef c.entry 14 1] ∧
      (∀ i, i < 32 → (s.mem.unit (rowSector a i)).bad = 0 → (t.mem.unit (rowSector a i)).data = (s.mem.unit (rowSector a i)).data) ∧
      ∀ y, (∀ i, i < 32 → y < rowSector a i ∨ rowSector a i + 32 ≤ y) → t.mem.byte y = s.mem.byte y := by
  obtain ⟨hstack, hchan, hplace, _, hbank, _, _⟩ := id hrow
  have hkept : RowKept h a s (s.refreshRow a) := State.refreshRow_kept
    (fun i hi => rowSector_isHbm (by omega) hbank hplace ha.symm hi) (fun i hi => chanOfAddr_rowSector (by omega) hbank hplace ha.symm hi) hcrypt
  have hexec := State.exec_spareHbmRow hc hop hform hh hleft ha hrow (u := s.refreshRow a) rfl
  generalize s.refreshRow a = u at hkept hexec
  obtain ⟨⟨rs, m, honly⟩, _, houtside, hsound⟩ := hkept
  have hloupe : u.loupe = s.loupe := by rw [honly]
  have hchan : u.chan h = s.chan h := by
    rw [honly]
    rfl
  have hfew : left - 1 < 2 ^ 5 := by
    have hlt := bits_lt (s.reg (Reg.hbmStatus h)) 0 5
    omega
  refine ⟨_, hexec hloupe, ?_, spareDone_nil 1 (left - 1) ▸ State.told_ended (by rw [State.setChan_loupe, State.setField_loupe, hloupe]; exact hc.lt_length) _,
    ?_, fun i hi hbad => ?_, fun y hy => ?_⟩
  · rw [State.ended_reg, State.setChan_reg, State.reg_setField_same, bits_setBits_same _ _ _ _ (by decide), Nat.mod_eq_of_lt hfew]
  · rw [State.ended_chan, State.chan_setChan_same, hchan]
  · rw [State.ended_mem, State.setChan_mem, State.setField_mem]
    exact (hsound i hi hbad).2
  · rw [State.ended_mem, State.setChan_mem, State.setField_mem]
    exact houtside y hy

theorem State.spareUcieLane_spec {i : Nat} (hi : xingId (ef c.entry 12 1) (ef c.entry 13 1) = i) (hform : ef c.entry 8 1 = 2)
    (h : SparesLane s c.entry i) : ∃ t, exec (.spareUcieLane k) s = .next t ∧ t.mem = s.mem ∧ t.regs = s.regs ∧ Repaired s t c.entry 2 ∧
      SMap.find (t.xing i).laneMap (ef c.entry 14 1) = some (ef c.entry 15 1) ∧ Told t k ⟨St.ok, 0, leBytes 1 2 ++ leBytes 3 0 ++ leBytes 4 0⟩ := by
  have hrepaired := State.repaired_recordRepair (s := s)
    (t := s.setXing i { s.xing i with laneMap := SMap.put (s.xing i).laneMap (ef c.entry 14 1) (ef c.entry 15 1) }) rfl rfl c.entry 2
  have hexec := State.exec_spareUcieLane hc hop hform hi h
  obtain ⟨fl, hrecord⟩ := (s.setXing i { s.xing i with
    laneMap := SMap.put (s.xing i).laneMap (ef c.entry 14 1) (ef c.entry 15 1) }).recordRepair_only 2 (spareLoc c.entry)
  rw [hrecord] at hexec hrepaired
  refine ⟨_, hexec, rfl, rfl, hrepaired, ?_, spareDone_nil 2 0 ▸ State.told_ended hc.lt_length _⟩
  exact (congrArg (fun x : Xing => SMap.find x.laneMap (ef c.entry 14 1)) (s.xing_setXing_same i _)).trans (SMap.find_put_same _ _ _)

theorem State.spareColumn_spec {t q : Nat} (ht : ef c.entry 12 1 = t) (hq : ef c.entry 13 1 = q) (hform : ef c.entry 8 1 = 3)
    (hcol : SparesColumn s c.entry t q) : ∃ u, exec (.spareColumn k) s = .next u ∧ halfUsed (u.reg (Reg.tileRepair t)) (q / 33) ∧
      bits (u.reg (Reg.tileRepair t)) (8 + 8 * (q / 33)) 7 = q ∧ Repaired s u c.entry 3 ∧
      (∀ j ∈ s.holders (movedBlocks t q), (u.part j).relocated ∧ (u.part j).state = (s.part j).state) ∧
      (∀ j ∈ movedCols q, ∀ y, y < 32 → ∀ o, o < 0x40000 → u.mem.byte (coreWindow (coreInTile t y j) + o) = 0) ∧
      ∀ a, a < coreWindow 0 → u.mem.byte a = s.mem.byte a := by
  generalize hu : s.retireColumn t q = u
  obtain ⟨htile, hcolumn, _⟩ := id hcol
  obtain ⟨hflash, hloupe, hhalf, hfield, hparts, hzero, hbelow⟩ := s.retireColumn_spec htile hcolumn hu
  obtain ⟨y, hexec⟩ := State.exec_spareColumn hc hop hform ht hq hcol hu hloupe
  have hrepaired := State.repaired_recordRepair hflash hloupe c.entry 3
  obtain ⟨fl, hrecord⟩ := u.recordRepair_only 3 (spareLoc c.entry)
  rw [hrecord] at hexec hrepaired
  exact ⟨_, hexec, hhalf, hfield, hrepaired, hparts, hzero, hbelow⟩

theorem State.spareBlock_spec {b : Nat} (hb : ef c.entry 12 1 = b) (hform : ef c.entry 8 1 = 4) (hreleased : s.unreleased b = false)
    (hidle : (s.holders [b]).any (fun j => s.partIn j [.running, .paused]) = false) (hzero : ef c.entry 13 5 = 0)
    (hretired : (s.block b).state ≠ .retired) : ∃ t, exec (.spareBlock k) s = .next t ∧ t.mem = s.mem ∧ t.parts = s.parts ∧
      (t.block b).state = .retired ∧ Repaired s t c.entry 4 ∧ Told t k ⟨St.ok, 0, leBytes 1 4 ++ leBytes 3 0 ++ leBytes 4 0⟩ ∧
      ∀ j, j ≠ b → t.block j = s.block j := by
  have hexec := State.exec_spareBlock hc hop hform hb hreleased hidle hzero hretired
  obtain ⟨x, q, rs, hstate, hretire⟩ : ∃ (x : Block) (q : SMap (List Nat)) (rs : SMap Word), x.state = .retired ∧
      s.retireBlock b = { (s.setBlock b x) with aperture := q, regs := rs } := ⟨_, _, _, rfl, if_neg hretired⟩
  have hrepaired := State.repaired_recordRepair (s := s) (t := s.retireBlock b) (by rw [hretire]; rfl) (by rw [hretire]; rfl) c.entry 4
  obtain ⟨fl, hrecord⟩ := (s.retireBlock b).recordRepair_only 4 (spareLoc c.entry)
  rw [hrecord, hretire] at hexec hrepaired
  exact ⟨_, hexec, rfl, rfl, (congrArg Block.state (s.block_setBlock_same b x)).trans hstate, hrepaired,
    spareDone_nil 4 0 ▸ State.told_ended hc.lt_length _, fun j hj => s.block_setBlock_other _ hj⟩

end

/-- Settles O52: each command's own lemma gives its next state; what they share is the raising of blocks, the clearing of cores and the repair record. -/
theorem maintenance : Obligations.Maintenance := by
  unfold Obligations.Maintenance
  intro s k c hc e p base len
  refine ⟨fun hop hform hpart hlo hsize hfits hlost => ?sram, fun hop hform hpart hlo hsize hfits => ?slice,
    fun d hop hform hpart hfill hlo hlen hreach hdev => ?hbm, fun hop hpart hshort => ?selfTest, fun hop hpart hmemory => ?memory,
    fun hop hform hrow => State.spareSliceRow_spec hc hop rfl rfl hform hrow,
    fun hop hform hrow hcrypt => State.spareHbmRow_spec hc hop rfl rfl rfl hform hrow hcrypt,
    fun hop hform hlane => State.spareUcieLane_spec hc hop rfl hform hlane, fun hop hform hcol => State.spareColumn_spec hc hop rfl rfl hform hcol,
    fun hop hform hreleased hidle hzero hretired => State.spareBlock_spec hc hop rfl hform hreleased hidle hzero hretired⟩
  case sram =>
    exact State.scrubSram_spec hc hop (by rw [← hop]) rfl rfl hform hpart hlo hsize hfits hlost
  case slice =>
    exact State.scrubSlice_spec hc hop (by rw [← hop]) rfl rfl hform hpart hlo hsize hfits
  case hbm =>
    have hp : (cmdPart c.via Op.scrub c.entry).getD 0 = p := by rw [← hop]
    have hrun : ef c.entry 24 8 = 2048 := hlen
    have hreach' := hlen ▸ hreach
    refine ⟨State.exec_scrubHbm_stalled hc hp rfl hrun hdev, fun hfree => ⟨fun hhalt hup hsound => ?_, fun hhalt => ?_⟩⟩
    · exact State.exec_scrubHbm_up hc hp rfl hrun hdev hop hform hpart hfill hlo hreach' hfree hhalt hup hsound
    · exact State.exec_scrubHbm_halted hc hp rfl hrun hdev hop hform hpart hfill hlo hreach' hfree hhalt
  case selfTest =>
    exact State.selfTest_spec hc hop (by rw [← hop]) rfl hpart hshort
  case memory =>
    exact State.selfTest_memory_spec hc hop (by rw [← hop]) rfl hpart hmemory

end Sys2Proof.Machine

namespace Sys2Proof.Machine

/-! ## A request at its home hub (08 R246, 17 R518) -/

section
variable {s : State} {r a n w : Nat} {acc : Acc} {who : Option Nat} {d : Nat} {k : Option Nat → Nat → ARes}

/-- The answer x of requester r: its state sends the reply, whose w bytes only an OK has. -/
def ARes.answered (x : ARes) (r w : Nat) : State := x.st.send (.reply r x.status (if x.status = St.ok then leBytes w x.old else []))

theorem State.request_reached (h : Reaches s r a n acc who d) {x : ARes} (hk : k who d = x) : s.request r a n acc k w = x.answered r w := by
  obtain ⟨hrange, hwho, hway⟩ := h
  simp only [State.request, hrange, hway, Bool.false_eq_true, if_false, hwho, hk]
  rfl

theorem State.request_lost (hrange : s.reqRange r a n acc = some d) (hlost : s.svcLost (reqDie r) (8 + homeHub d) = true) :
    s.request r a n acc k w = s.send (.reply r St.uncorrectable []) := by
  simp only [State.request, hrange, hlost, if_true]

theorem State.request_unreached (hrange : s.reqRange r a n acc = none) : s.request r a n acc k w = s.send (.reply r St.accessFault []) := by
  simp only [State.request, hrange]

theorem ARes.answered_ok (r w old : Nat) (t : State) : (ARes.mk St.ok old t).answered r w = t.send (.reply r St.ok (leBytes w old)) := rfl

theorem ARes.answered_not_ok {st : Nat} (h : st ≠ St.ok) (r w old : Nat) (t : State) :
    (ARes.mk st old t).answered r w = t.send (.reply r st []) := by
  simp only [ARes.answered, if_neg h]

end

/-! ## A line made present raises no upset and takes none (08 R244, 17 R517 to R520) -/

theorem CountsOnly.upsets {s t : State} : CountsOnly s t → t.upsets = s.upsets := by
  rintro ⟨rs, cs, rfl⟩
  rfl

theorem State.countCc_only (s : State) (p : Option Nat) (a i n : Nat) : ∃ cs, s.countCc p a i n = { s with cnts := cs } := by
  obtain ⟨cs, htotal⟩ := s.tally_only none 4 (Cnt.ccTotal (homeHub a) i) n
  cases p with
  | none => exact ⟨cs, htotal⟩
  | some p =>
    obtain ⟨cs', hpart⟩ := State.tally_only { s with cnts := cs } (some p) 4 (Cnt.cc (homeHub a) p i) n
    exact ⟨cs', by simp only [State.countCc, htotal, hpart]⟩

theorem State.makeRoom_upsets (s : State) (l : Nat) : (s.makeRoom l).upsets = s.upsets := by
  unfold State.makeRoom
  extract_lets here
  split <;> rfl

theorem State.fillLine_upsets (s : State) (l : Nat) : (s.fillLine l).1.upsets = s.upsets :=
  ((s.devRead_countsOnly l 64).trans (State.devRead_countsOnly _ (l + 64) 64)).upsets

theorem State.needLine_upsets (s : State) (l : Nat) : (s.needLine l).1.upsets = s.upsets := by
  unfold State.needLine
  extract_lets here
  split
  · split
    · rfl
    · exact (State.fillLine_upsets _ l).trans (State.makeRoom_upsets _ l)
  · rfl

theorem State.atomicLine_upsets (s : State) (a : Nat) : (s.atomicLine a).2.upsets = s.upsets := by
  unfold State.atomicLine
  extract_lets l
  split
  · exact s.needLine_upsets l
  · rfl

/-! ## The two ALUs of a home hub (17 R519) -/

theorem State.inAlus_agree {s : State} {a : Nat} (h : .alu (homeHub a) ∉ s.upsets) (go : State → ARes) : s.inAlus a go = go s := by
  simp [State.inAlus, State.takeUpset, h]

theorem State.inAlus_differ {s : State} {a : Nat} (h : .alu (homeHub a) ∈ s.upsets) (go : State → ARes) :
    s.inAlus a go = ⟨St.poisoned, 0, ({ s with upsets := s.upsets.erase (.alu (homeHub a)) } : State).poisonLine a⟩ := by
  simp [State.inAlus, State.takeUpset, h]

end Sys2Proof.Machine

namespace Sys2Proof.Machine

/-! ## Atomic operations on a clean line (08 R247, R249) -/

section
variable {s : State} {who : Option Nat} {d n : Nat} (halign : d % n = 0) {l : Nat × State} (hl : (s.countCc who d 2 n).atomicLine d = l)
include hl

theorem State.upsets_of_line : l.2.upsets = s.upsets := by
  obtain ⟨cs, hcount⟩ := s.countCc_only who d 2 n
  rw [← hl, State.atomicLine_upsets, hcount]

variable (hclean : l.1 = 0)
include halign hclean

theorem State.rmw_differ (hdiffer : .alu (homeHub d) ∈ s.upsets) (f : Nat → Option Nat × Nat) : s.rmw who d n f =
    ⟨St.poisoned, 0, ({ l.2 with upsets := s.upsets.erase (.alu (homeHub d)) } : State).poisonLine d⟩ := by
  have hupsets := State.upsets_of_line hl
  simp only [State.rmw, halign, hl, hclean, State.inAlus_differ (hupsets ▸ hdiffer), hupsets, ne_eq, not_true, if_false]

variable (hagree : .alu (homeHub d) ∉ s.upsets)
include hagree

theorem State.rmw_put {f : Nat → Option Nat × Nat} {x st : Nat} (hf : f (l.2.atomicGet d n) = (some x, st)) :
    s.rmw who d n f = ⟨st, l.2.atomicGet d n, l.2.atomicPut d n x false⟩ := by
  simp only [State.rmw, halign, hl, hclean, State.inAlus_agree (State.upsets_of_line hl ▸ hagree), hf, ne_eq, not_true, if_false]

theorem State.rmw_keep {f : Nat → Option Nat × Nat} {st : Nat} (hf : f (l.2.atomicGet d n) = (none, st)) :
    s.rmw who d n f = ⟨st, l.2.atomicGet d n, l.2⟩ := by
  simp only [State.rmw, halign, hl, hclean, State.inAlus_agree (State.upsets_of_line hl ▸ hagree), hf, ne_eq, not_true, if_false]

end

section
variable {s : State} {who : Option Nat} {d : Nat} (halign : d % 128 = 0) {l : Nat × State} (hl : (s.countCc who d 2 128).atomicLine d = l)
  (hclean : l.1 = 0) (hagree : .alu (homeHub d) ∉ s.upsets)
include halign hl hclean hagree

theorem State.red_put (w : Nat) (f : Nat → Nat → Nat) (xs : List Nat) (poi : Bool) : s.red who d w f xs poi =
    ⟨St.ok, l.2.atomicGet d 128, l.2.atomicPut d 128 ((List.range (128 / w)).foldr (fun i acc =>
      f (l.2.atomicGet d 128 / 256 ^ (w * i) % 256 ^ w) (xs.getD i 0) + 256 ^ w * acc) 0) poi⟩ := by
  simp only [State.red, halign, hl, hclean, ne_eq, not_true, if_false]
  exact State.inAlus_agree (State.upsets_of_line hl ▸ hagree) _

end

/-! ## The stack in scratch (08 R248) -/

section
variable {s : State} {who : Option Nat} {d e : Nat} {ent : Nat → Option Nat} (hscratch : isScratch d = true) (hhead : d % 8 = 0) (hent : e % 4 = 0)
  {l : Nat × State} (hl : (s.countCc who d 2 8).atomicLine d = l) (hclean : l.1 = 0) {top : Nat} (htop : l.2.atomicGet d 4 = top)
include hscratch hhead hent hl hclean htop

theorem State.pop_empty (hzero : top = 0) : s.pop who d e ent = ⟨St.poolEmpty, 0, l.2⟩ := by
  simp [State.pop, hscratch, hhead, hent, hl, hclean, htop, hzero]

theorem State.pop_unreached (hsome : top ≠ 0) (hnone : ent (e + 4 * (top - 1)) = none) : s.pop who d e ent = ⟨St.accessFault, 0, l.2⟩ := by
  simp [State.pop, hscratch, hhead, hent, hl, hclean, htop, hsome, hnone]

theorem State.pop_entry (hsome : top ≠ 0) {b : Nat} (hb : ent (e + 4 * (top - 1)) = some b) (hentry : (l.2.atomicLine b).1 = 0)
    (hagree : .alu (homeHub d) ∉ s.upsets) : s.pop who d e ent =
      ⟨St.ok, (l.2.atomicLine b).2.atomicGet b 4, (l.2.atomicLine b).2.atomicPut d 4 (top - 1) false⟩ := by
  have hupsets : (l.2.atomicLine b).2.upsets = s.upsets := (State.atomicLine_upsets _ b).trans (State.upsets_of_line hl)
  simp only [State.pop, hscratch, hhead, hent, hl, hclean, htop, hsome, hb, hentry, ne_eq, not_true, Bool.not_true, Bool.false_eq_true,
    or_false, if_false]
  exact State.inAlus_agree (hupsets ▸ hagree) _

variable {x limit : Nat} (hlimit : l.2.atomicGet (d + 4) 4 = limit)
include hlimit

theorem State.push_full (hfull : top = limit) : s.push who d e x ent = ⟨St.noResource, top, l.2⟩ := by
  simp [State.push, hscratch, hhead, hent, hl, hclean, htop, hlimit, hfull]

theorem State.push_unreached (hroom : top ≠ limit) (hnone : ent (e + 4 * top) = none) : s.push who d e x ent = ⟨St.accessFault, 0, l.2⟩ := by
  simp [State.push, hscratch, hhead, hent, hl, hclean, htop, hlimit, hroom, hnone]

theorem State.push_entry (hroom : top ≠ limit) {b : Nat} (hb : ent (e + 4 * top) = some b) (hentry : (l.2.atomicLine b).1 = 0)
    (hagree : .alu (homeHub d) ∉ s.upsets) : s.push who d e x ent =
      ⟨St.ok, top, ((l.2.atomicLine b).2.atomicPut b 4 (x % 2 ^ 32) false).atomicPut d 4 (top + 1) false⟩ := by
  have hupsets : (l.2.atomicLine b).2.upsets = s.upsets := (State.atomicLine_upsets _ b).trans (State.upsets_of_line hl)
  simp only [State.push, hscratch, hhead, hent, hl, hclean, htop, hlimit, hroom, hb, hentry, ne_eq, not_true, Bool.not_true, Bool.false_eq_true,
    or_false, if_false]
  exact State.inAlus_agree (hupsets ▸ hagree) _

end


/-! ## The commands (08 R247 to R249, R519) -/

section
variable {s t : State} {r : ReqId} {a n w st old : Nat} {acc : Acc} {who : Option Nat} {d : Nat} {k : Option Nat → Nat → ARes} {i : Instr}
  (hexec : exec i s = .next (s.request r a n acc k w)) (hreach : Reaches s r a n acc who d)
include hexec hreach

theorem State.exec_ok (hk : k who d = ⟨St.ok, old, t⟩) : exec i s = .next (t.send (.reply r St.ok (leBytes w old))) := by
  rw [hexec, State.request_reached hreach hk, ARes.answered_ok]

theorem State.exec_not_ok (hst : st ≠ St.ok) (hk : k who d = ⟨st, old, t⟩) : exec i s = .next (t.send (.reply r st [])) := by
  rw [hexec, State.request_reached hreach hk, ARes.answered_not_ok hst]

end

/-- Settles O23: a request that reaches its target is answered with what the operation gives on the line, and making the line present leaves the
ALUs' upsets alone. -/
theorem atomicOps : Obligations.AtomicOps := by
  unfold Obligations.AtomicOps
  refine ⟨?ops, ?stack⟩
  case ops =>
    intro s r a who d l old found clean answers stores
    refine ⟨?differ, ?add, ?select, ?incw, ?refinc, ?refincEnd, ?refdec, ?refdecEnd, ?red32, ?red16⟩
    case differ =>
      rintro w x ⟨hreach, halign, hclean⟩ hx hdiffer i hi
      have hadd : (if x = 0 ∧ w = .w32 then s.requesterFence d else s) = s := if_neg fun h => hx h.1
      have hpoison (f) := State.rmw_differ halign rfl hclean hdiffer f
      simp only [List.mem_cons, List.not_mem_nil, or_false] at hi
      rcases hi with rfl | rfl | rfl | rfl | rfl
      · exact State.exec_not_ok rfl hreach (by decide) ((congrArg (State.rmw · who d _ _) hadd).trans (hpoison _))
      all_goals exact State.exec_not_ok rfl hreach (by decide) (hpoison _)
    case add =>
      rintro w x ⟨⟨hreach, halign, hclean⟩, hagree⟩ hfence
      have hadd : (if x = 0 ∧ w = .w32 then s.requesterFence d else s) = s := ite_eq_right_iff.2 fun h => hfence h.1 h.2
      exact State.exec_ok rfl hreach ((congrArg (State.rmw · who d _ _) hadd).trans (State.rmw_put halign rfl hclean hagree rfl))
    case select =>
      rintro w cmp x n y ⟨⟨hreach, halign, hclean⟩, hagree⟩
      have hput {f : Nat → Option Nat × Nat} {v : Nat} (hf : f (old n) = (some v, St.ok)) := State.rmw_put halign rfl hclean hagree hf
      exact ⟨State.exec_ok rfl hreach (hput rfl), State.exec_ok rfl hreach (hput rfl), State.exec_ok rfl hreach (hput rfl),
        fun heq => State.exec_ok rfl hreach (hput (if_pos heq)),
        fun hne => State.exec_ok rfl hreach (State.rmw_keep halign rfl hclean hagree (if_neg hne))⟩
    case incw =>
      rintro x ⟨⟨hreach, halign, hclean⟩, hagree⟩
      have hincw : atomIncw (old 4) x.toNat = if x.toNat ≤ old 4 then 0 else old 4 + 1 := by
        rw [atomIncw, Nat.mod_eq_of_lt x.isLt]
      exact State.exec_ok rfl hreach (State.rmw_put halign rfl hclean hagree (congrArg (fun v => (some v, St.ok)) hincw))
    case refinc =>
      rintro ⟨⟨hreach, halign, hclean⟩, hagree⟩ hbelow
      exact State.exec_ok rfl hreach (State.rmw_put halign rfl hclean hagree (if_neg hbelow))
    case refincEnd =>
      rintro ⟨⟨hreach, halign, hclean⟩, hagree⟩ hend
      exact State.exec_not_ok rfl hreach (by decide) (State.rmw_keep halign rfl hclean hagree (if_pos hend))
    case refdec =>
      rintro ⟨⟨hreach, halign, hclean⟩, hagree⟩ habove
      exact State.exec_ok rfl hreach (State.rmw_put halign rfl hclean hagree (if_neg habove))
    case refdecEnd =>
      rintro ⟨⟨hreach, halign, hclean⟩, hagree⟩ hend
      exact State.exec_not_ok rfl hreach (by decide) (State.rmw_keep halign rfl hclean hagree (if_pos hend))
    case red32 =>
      rintro xs ⟨⟨hreach, halign, hclean⟩, hagree⟩
      exact State.exec_ok rfl hreach (State.red_put halign rfl hclean hagree 4 _ _ false)
    case red16 =>
      rintro xs ⟨⟨hreach, halign, hclean⟩, hagree⟩
      exact State.exec_ok rfl hreach (State.red_put halign rfl hclean hagree 2 _ _ false)
  case stack =>
    intro s r h e who d hreach hscratch hhbm hhead hent l q top limit at_ hclean
    refine ⟨fun hzero => ?empty, fun hsome hnone => ?popUnreached, fun b k hb hk hsome hentry hagree => ?pop, fun x hfull => ?full,
      fun x hroom hnone => ?pushUnreached, fun x b k hb hk hroom hentry hagree => ?push⟩
    case empty =>
      exact State.exec_not_ok rfl hreach (by decide) (State.pop_empty hscratch hhead hent rfl hclean rfl hzero)
    case popUnreached =>
      exact State.exec_not_ok rfl hreach (by decide) (State.pop_unreached hscratch hhead hent rfl hclean rfl hsome hnone)
    case pop =>
      subst hk
      exact State.exec_ok rfl hreach (State.pop_entry hscratch hhead hent rfl hclean rfl hsome hb hentry hagree)
    case full =>
      exact State.exec_not_ok rfl hreach (by decide) (State.push_full hscratch hhead hent rfl hclean rfl rfl hfull)
    case pushUnreached =>
      exact State.exec_not_ok rfl hreach (by decide) (State.push_unreached hscratch hhead hent rfl hclean rfl rfl hroom hnone)
    case push =>
      subst hk
      have hpush := State.push_entry (ent := fun a => s.reqReach r a .atomic) hscratch hhead hent rfl hclean rfl (x := x.toNat) rfl hroom hb
        hentry hagree
      rw [Nat.mod_eq_of_lt x.isLt] at hpush
      exact State.exec_ok rfl hreach hpush

end Sys2Proof.Machine

namespace Sys2Proof.Machine

/-! ## A unit of memory that is written whole (07 R208, 08 R230, R244) -/

theorem unitBytes_cases (a : Nat) : unitBytes a = 8 ∨ unitBytes a = 32 := by
  unfold unitBytes
  split
  · exact .inr rfl
  · exact .inl rfl

theorem Mem.byte_writeUnit_at {m : Mem} {u j : Nat} {bs : Bytes} (p : Bool) (h : j < bs.length) :
    (m.writeUnit u bs p).byte (u + j) = bs.getD j 0 := by
  rw [Mem.writeUnit, Mem.byte_mark, Mem.byte_write_at bs h]

theorem Mem.poison_writeUnit_same (m : Mem) (u : Nat) (bs : Bytes) (p : Bool) : SMap.get false (m.writeUnit u bs p).poison u = p :=
  SMap.get_set_same _ _ _ _

theorem Mem.poison_writeUnit_other (m : Mem) {u v : Nat} (bs : Bytes) (p : Bool) (h : v ≠ u) :
    SMap.get false (m.writeUnit u bs p).poison v = SMap.get false m.poison v :=
  (SMap.get_set_other _ _ _ _ h).trans (by rw [Mem.poison_write])

/-- A write of some bytes, unit by unit, as a plain write makes it. -/
def Mem.mergeRange (m : Mem) (a : Nat) (bs : Bytes) (poi : Bool) : Mem :=
  (unitsOf a bs.length).foldl (fun m u => m.mergeUnit u (unitBytes a) a bs poi) m

section
variable {a n : Nat} (ha : a % unitBytes a = 0) (hn : n % unitBytes a = 0)
include ha hn

/-- The units of a range of whole units: those that begin in it, which end in it too. -/
theorem mem_unitsOf_whole {u : Nat} : u ∈ unitsOf a n ↔ ∃ i, u = a + unitBytes a * i ∧ unitBytes a * i + unitBytes a ≤ n := by
  have hcount (i : Nat) : i < (a % unitBytes a + n + unitBytes a - 1) / unitBytes a ↔ unitBytes a * i + unitBytes a ≤ n := by
    rcases unitBytes_cases a with hsize | hsize <;> rw [hsize] at ha hn ⊢ <;> omega
  have hstart : a / unitBytes a * unitBytes a = a := Nat.div_mul_cancel (Nat.dvd_of_mod_eq_zero ha)
  by_cases hzero : n = 0
  · subst hzero
    rcases unitBytes_cases a with hsize | hsize <;> simp [unitsOf, hsize]
  · simp only [unitsOf, if_neg hzero, List.mem_map, List.mem_range, hcount, hstart]
    exact ⟨fun ⟨i, hi, h⟩ => ⟨i, h.symm, hi⟩, fun ⟨i, h, hi⟩ => ⟨i, hi, h.symm⟩⟩

/-- The unit that byte k of the range lies in. -/
theorem unit_of_byte {k : Nat} (hk : k < n) : a + unitBytes a * (k / unitBytes a) ∈ unitsOf a n := by
  refine (mem_unitsOf_whole ha hn).2 ⟨_, rfl, ?_⟩
  rcases unitBytes_cases a with hsize | hsize <;> rw [hsize] at hn ⊢ <;> omega

end

section
variable {m : Mem} {a : Nat} {bs : Bytes} (poi : Bool) (ha : a % unitBytes a = 0) (hn : bs.length % unitBytes a = 0)
include ha hn

theorem Mem.mergeUnit_whole {u : Nat} (hu : u ∈ unitsOf a bs.length) :
    m.mergeUnit u (unitBytes a) a bs poi = m.writeUnit u ((bs.drop (u - a)).take (unitBytes a)) poi := by
  obtain ⟨i, rfl, hfits⟩ := (mem_unitsOf_whole ha hn).1 hu
  exact if_pos ⟨by omega, by omega⟩

/-- Byte k of the range, if it lies in unit u, is written with that unit. -/
theorem Mem.byte_mergeUnit_whole {u k : Nat} (hu : u ∈ unitsOf a bs.length) (hlo : u ≤ a + k) (hhi : a + k < u + unitBytes a) :
    (m.mergeUnit u (unitBytes a) a bs poi).byte (a + k) = bs.getD k 0 := by
  rw [Mem.mergeUnit_whole poi ha hn hu]
  obtain ⟨i, rfl, hfits⟩ := (mem_unitsOf_whole ha hn).1 hu
  obtain ⟨j, rfl⟩ : ∃ j, k = unitBytes a * i + j := ⟨k - unitBytes a * i, by omega⟩
  have hj : j < unitBytes a := by omega
  rw [← Nat.add_assoc, Mem.byte_writeUnit_at poi (by simp; omega)]
  simp [List.getD_eq_getElem?_getD, List.getElem?_drop, hj]

theorem Mem.byte_mergeUnit_outside {u y : Nat} (hu : u ∈ unitsOf a bs.length) (hy : y < u ∨ u + unitBytes a ≤ y) :
    (m.mergeUnit u (unitBytes a) a bs poi).byte y = m.byte y := by
  rw [Mem.mergeUnit_whole poi ha hn hu]
  exact Mem.byte_writeUnit_other poi (by simp; omega)

theorem Mem.byte_mergeRange_outside {y : Nat} (hy : y < a ∨ a + bs.length ≤ y) : (m.mergeRange a bs poi).byte y = m.byte y := by
  refine foldl_frame (fun m : Mem => m.byte y) (fun m u hu => ?_) m
  obtain ⟨i, hi, hfits⟩ := (mem_unitsOf_whole ha hn).1 hu
  exact Mem.byte_mergeUnit_outside poi ha hn hu (by omega)

theorem Mem.byte_mergeRange_inside {k : Nat} (hk : k < bs.length) : (m.mergeRange a bs poi).byte (a + k) = bs.getD k 0 := by
  have hunit := unit_of_byte ha hn hk
  have hpos : 0 < unitBytes a := by rcases unitBytes_cases a with h | h <;> omega
  have hsplit := Nat.div_add_mod k (unitBytes a)
  have hmod := Nat.mod_lt k hpos
  refine foldl_reaches (Pre := fun _ => True) (Done := fun m : Mem => m.byte (a + k) = bs.getD k 0) hunit (fun _ _ _ _ _ => trivial)
    (fun m _ => Mem.byte_mergeUnit_whole poi ha hn hunit (by omega) (by omega)) (fun m hm u hu _ => ?_) trivial
  by_cases hin : u ≤ a + k ∧ a + k < u + unitBytes a
  · exact Mem.byte_mergeUnit_whole poi ha hn hu hin.1 hin.2
  · exact (Mem.byte_mergeUnit_outside poi ha hn hu (by omega)).trans hm

theorem Mem.poison_mergeRange {u : Nat} (hu : u ∈ unitsOf a bs.length) : SMap.get false (m.mergeRange a bs poi).poison u = poi := by
  have hsame (m : Mem) : SMap.get false (m.mergeUnit u (unitBytes a) a bs poi).poison u = poi := by
    rw [Mem.mergeUnit_whole poi ha hn hu, Mem.poison_writeUnit_same]
  refine foldl_reaches (Pre := fun _ => True) (Done := fun m : Mem => SMap.get false m.poison u = poi) hu (fun _ _ _ _ _ => trivial)
    (fun m _ => hsame m) (fun m hm v hv _ => ?_) trivial
  by_cases heq : u = v
  · exact heq ▸ hsame m
  · rw [Mem.mergeUnit_whole poi ha hn hv, Mem.poison_writeUnit_other m _ poi heq, hm]

end

end Sys2Proof.Machine

namespace Sys2Proof.Machine

/-! ## A write at the memory itself (08 R230, R232, 17 R520) -/

theorem isHbm_granule {a : Nat} (h : isHbm a = true) : isHbm (a / 64 * 64) = true := by
  simp only [isHbm, Bool.and_eq_true, decide_eq_true_eq] at h ⊢
  simp only [hbmBase, hbmTop] at h ⊢
  omega

/-- Both sectors of a granule that is written with the poison signature are poisoned. -/
theorem Mem.poison_poisonGranule (m : Mem) {a u : Nat} (h : isHbm a = true) (hu : u ∈ [a / 64 * 64, a / 64 * 64 + 32]) :
    SMap.get false (m.poisonGranule a).poison u = true := by
  have hsize : unitBytes (a / 64 * 64) = 32 := if_pos (isHbm_granule h)
  have hmem : u ∈ unitsOf (a / 64 * 64) 64 := by
    refine (mem_unitsOf_whole (by rw [hsize]; omega) (by rw [hsize])).2 ?_
    rw [hsize]
    simp only [List.mem_cons, List.not_mem_nil, or_false] at hu
    rcases hu with rfl | rfl
    · exact ⟨0, by omega, by omega⟩
    · exact ⟨1, by omega, by omega⟩
  refine foldl_reaches (Pre := fun _ => True) (Done := fun m : Mem => SMap.get false m.poison u = true) hmem (fun _ _ _ _ _ => trivial)
    (fun m _ => Mem.poison_writeUnit_same ..) (fun m hm v _ _ => ?_) trivial
  by_cases heq : u = v
  · exact heq ▸ Mem.poison_writeUnit_same ..
  · exact (Mem.poison_writeUnit_other m _ true heq).trans hm

theorem State.countHbm_only (s : State) (a n i : Nat) : ∃ cs, s.countHbm a n i = { s with cnts := cs } := by
  unfold State.countHbm
  split
  · exact s.tally_only _ _ _ _
  · exact ⟨s.cnts, rfl⟩

theorem State.plainWrite_only (s : State) (a : Nat) (bs : Bytes) (poi : Bool) :
    ∃ cs, s.plainWrite a bs poi = { s with cnts := cs, mem := s.mem.mergeRange a bs poi } := by
  obtain ⟨cs, hcount⟩ := s.countHbm_only a bs.length 1
  exact ⟨cs, by rw [State.plainWrite, hcount]; rfl⟩

/-- A write that no encryption error meets. -/
theorem State.devWrite_sound {s : State} {a : Nat} (h : .crypt (chanOfAddr a) ∉ s.upsets) (bs : Bytes) (poi : Bool) :
    ∃ cs, s.devWrite a bs poi = { s with cnts := cs, mem := s.mem.mergeRange a bs poi } := by
  obtain ⟨cs, hwrite⟩ := s.plainWrite_only a bs poi
  refine ⟨cs, ?_⟩
  have hcheck : State.cryptCheck { s with cnts := cs, mem := s.mem.mergeRange a bs poi } a = _ := State.cryptCheck_none h
  simp only [State.devWrite, hwrite, hcheck, ite_self]

/-- A write under encryption whose granule the controller's check finds wrong. -/
theorem State.devWrite_crypt {s : State} {a : Nat} (hhbm : isHbm a = true) (hcrypts : s.encrypts = true)
    (h : .crypt (chanOfAddr a) ∈ s.upsets) {bs : Bytes} (hbs : bs ≠ []) (poi : Bool) : ∃ cs, s.devWrite a bs poi =
      { s with cnts := cs, mem := (s.mem.mergeRange a bs poi).poisonGranule a, upsets := s.upsets.erase (.crypt (chanOfAddr a)) } := by
  obtain ⟨cs, hwrite⟩ := s.plainWrite_only a bs poi
  have hcrypts' : State.encrypts { s with cnts := cs, mem := s.mem.mergeRange a bs poi } = true := hcrypts
  refine ⟨cs, ?_⟩
  simp [State.devWrite, hwrite, hbs, State.cryptCheck, hhbm, hcrypts', State.takeUpset, h]

/-! ## A write at the home hub (08 R244, 17 R517) -/

/-- A write whose channel the hub reaches: but for counters and cached lines, it is the write at the memory itself. -/
theorem State.ccStore_stands {s : State} {a : Nat} (h : s.hbmLost a = false) (p : Option Nat) (bs : Bytes) (poi : Bool) :
    ∃ cs c, s.ccStore p a bs poi = { State.devWrite { s with cnts := cs } a bs poi with cache := c } := by
  obtain ⟨cs, hcount⟩ := s.countCc_only p a 1 bs.length
  have hstands : State.hbmLost { s with cnts := cs } a = false := h
  refine ⟨cs, ?_⟩
  simp only [State.ccStore, hcount, hstands, Bool.false_eq_true, if_false]
  split
  · exact ⟨_, rfl⟩
  · exact ⟨_, rfl⟩

theorem State.ccWrite_sound {s : State} {a : Nat} (h : .parity (homeHub a) ∉ s.upsets) (p : Option Nat) (bs : Bytes) (poi : Bool) :
    s.ccWrite p a bs poi = s.ccStore p a bs poi := by
  simp [State.ccWrite, State.parity, State.takeUpset, h]

/-- A wrong byte on the hub's path to a write in one granule is counted, and the write stores poison. -/
theorem State.ccWrite_parity {s : State} {a : Nat} (h : .parity (homeHub a) ∈ s.upsets) (p : Option Nat) {bs : Bytes} (poi : Bool)
    (hfits : a % 64 + bs.length ≤ 64) : s.ccWrite p a bs poi =
      (State.countField { s with upsets := s.upsets.erase (.parity (homeHub a)) } Reg.errDevice 8 8 1).ccStore p a bs true := by
  have hlen : bs.length ≤ 64 - a % 64 := by omega
  simp [State.ccWrite, State.parity, State.takeUpset, h, List.take_of_length_le hlen, List.drop_of_length_le hlen]

end Sys2Proof.Machine

namespace Sys2Proof.Machine

/-! ## Reads and writes of hub agents (08 R244 to R246, R251, R255) -/

theorem exec_cacheRead (s : State) {r : ReqId} {n : Fin 129} (hagent : hubAgent r = true) (hn : n.val ≠ 0) (a : Addr) : exec (.cacheRead r a n) s =
    .next (s.request r a.toNat n .read (fun p d => ⟨badStatus (s.ccRead p d n).2.1, leVal (s.ccRead p d n).1, (s.ccRead p d n).2.2⟩) n) :=
  if_neg (by simp [hagent, hn])

/-- A write that reaches its range is answered OK. -/
theorem exec_cacheWrite {s : State} {r : ReqId} {a : Addr} {data : List Byte} {who : Option Nat} {d : Nat} (hagent : hubAgent r = true)
    (hne : data ≠ []) (hlen : data.length ≤ 128) (hreach : Reaches s r a.toNat data.length .write who d) (poi : Bool) :
    exec (.cacheWrite r a data poi) s = .next ((s.ccWrite who d data poi).send (.reply r St.ok [])) :=
  State.exec_ok (k := fun p d => ⟨St.ok, 0, s.ccWrite p d data poi⟩) (w := 0) (if_neg (by simp [hagent, hne, hlen])) hreach rfl

section
variable {s : State} {who : Option Nat} {d : Nat} {data : List Byte} {poi : Bool}

/-- A write of whole units that meets no upset. -/
theorem State.ccWrite_stored (hlost : s.hbmLost d = false) (hd : d % unitBytes d = 0) (hlen : data.length % unitBytes d = 0)
    (hupsets : s.upsets = []) : ∃ cs c m, s.ccWrite who d data poi = { s with cnts := cs, cache := c, mem := m } ∧
      Stored s { s with cnts := cs, cache := c, mem := m } d data.length fun i => data.getD i 0 := by
  obtain ⟨cs, c, hstore⟩ := State.ccStore_stands hlost who data poi
  obtain ⟨cs', hwrite⟩ := State.devWrite_sound (s := { s with cnts := cs }) (a := d) (by simp [hupsets]) data poi
  refine ⟨cs', c, s.mem.mergeRange d data poi, ?_, fun k hk => Mem.byte_mergeRange_inside poi hd hlen hk,
    fun y hy => Mem.byte_mergeRange_outside poi hd hlen hy⟩
  rw [State.ccWrite_sound (by simp [hupsets]), hstore, hwrite]

/-- A write of whole words of a granule of scratch that meets a wrong byte on the hub's path. -/
theorem State.ccWrite_wrongByte (hscratch : isScratch d = true) (hfits : d % 64 + data.length ≤ 64) (hd : d % 8 = 0)
    (hlen : data.length % 8 = 0) (hupsets : s.upsets = [.parity (homeHub d)]) : ∃ cs c m, s.ccWrite who d data poi =
      { State.countField { s with upsets := [] } Reg.errDevice 8 8 1 with cnts := cs, cache := c, mem := m } ∧
      ∀ i, i < data.length → m.byte (d + i) = data.getD i 0 ∧ SMap.get false m.poison ((d + i) / 8 * 8) = true := by
  have hhbm : isHbm d = false := by
    simp only [isScratch, isHbm, Bool.and_eq_true, decide_eq_true_eq, Bool.and_eq_false_iff, decide_eq_false_iff_not] at hscratch ⊢
    simp only [scratchBase, hbmTop] at hscratch ⊢
    omega
  have hsize : unitBytes d = 8 := by simp [unitBytes, hhbm]
  rw [← hsize] at hd hlen
  have herase : s.upsets.erase (.parity (homeHub d)) = [] := by simp [hupsets]
  obtain ⟨cs, c, hstore⟩ := State.ccStore_stands (s := State.countField { s with upsets := [] } Reg.errDevice 8 8 1) (a := d)
    (by simp [State.hbmLost, hhbm]) who data true
  obtain ⟨cs', hwrite⟩ := State.devWrite_sound (s := { State.countField { s with upsets := [] } Reg.errDevice 8 8 1 with cnts := cs }) (a := d)
    (by simp) data true
  refine ⟨cs', c, s.mem.mergeRange d data true, ?_, fun i hi => ⟨Mem.byte_mergeRange_inside true hd hlen hi, ?_⟩⟩
  · rw [State.ccWrite_parity (by simp [hupsets]) who poi hfits, herase, hstore, hwrite]
    rfl
  · have hunit : (d + i) / 8 * 8 = d + unitBytes d * (i / unitBytes d) := by
      rw [hsize] at hd ⊢
      omega
    exact hunit ▸ Mem.poison_mergeRange true hd hlen (unit_of_byte hd hlen hi)

/-- A write to a granule of HBM that the channel encrypts wrongly. -/
theorem State.ccWrite_crypt (hne : data ≠ []) (hhbm : isHbm d = true) (hlost : s.hbmLost d = false) (hcrypts : s.encrypts = true)
    (hupsets : s.upsets = [.crypt (chanOfAddr d)]) : ∃ cs c m, s.ccWrite who d data poi = { s with cnts := cs, cache := c, mem := m, upsets := [] } ∧
      ∀ u ∈ [d / 64 * 64, d / 64 * 64 + 32], SMap.get false m.poison u = true := by
  obtain ⟨cs, c, hstore⟩ := State.ccStore_stands hlost who data poi
  obtain ⟨cs', hwrite⟩ := State.devWrite_crypt (s := { s with cnts := cs }) hhbm hcrypts (by simp [hupsets]) hne poi
  have herase : s.upsets.erase (.crypt (chanOfAddr d)) = [] := by simp [hupsets]
  refine ⟨cs', c, _, ?_, fun u hu => Mem.poison_poisonGranule (s.mem.mergeRange d data poi) hhbm hu⟩
  rw [State.ccWrite_sound (by simp [hupsets]), hstore, hwrite, herase]

end

/-- Settles O22: a request's reply follows from its reach, and a write at the home hub is the write at the memory itself, which stores whole units. -/
theorem cacheAccess : Obligations.CacheAccess := by
  unfold Obligations.CacheAccess
  intro s r a who d hagent
  refine ⟨fun n hn hreach => ?read, fun data poi hne hlen hreach hlost hd hwhole hupsets => ?write,
    fun data hne hlen hreach hscratch hfits hd hwhole hupsets => ?parity, fun data poi hne hreach hhbm hlost hfits hcrypts hupsets => ?crypt,
    fun n hn hrange => ?unreached, fun n hn hrange hlost => ?lost, fun acc hr => ?loupe, fun p acc hr hp => ?tenant, fun acc hr hp => ?nobody⟩
  case read =>
    exact (exec_cacheRead s hagent hn a).trans (congrArg Host.Outcome.next (State.request_reached hreach rfl))
  case write =>
    have hpos : 0 < data.length := List.length_pos_iff.2 hne
    obtain ⟨cs, c, m, hstore, hstored⟩ := State.ccWrite_stored (who := who) (d := d) (poi := poi) (hlost 0 hpos) hd hwhole hupsets
    refine ⟨_, exec_cacheWrite hagent hne hlen hreach poi, ?_⟩
    rw [hstore]
    exact ⟨rfl, rfl, rfl, hstored⟩
  case parity =>
    obtain ⟨cs, c, m, hstore, hpoisoned⟩ := State.ccWrite_wrongByte (who := who) (poi := false) hscratch hfits hd hwhole hupsets
    refine ⟨_, exec_cacheWrite hagent hne (by omega) hreach false, ?_⟩
    rw [hstore]
    exact ⟨rfl, rfl, hpoisoned⟩
  case crypt =>
    obtain ⟨cs, c, m, hstore, hpoisoned⟩ := State.ccWrite_crypt (who := who) (poi := poi) hne hhbm hlost hcrypts hupsets
    refine ⟨_, exec_cacheWrite hagent hne (by omega) hreach poi, ?_⟩
    rw [hstore]
    exact ⟨rfl, rfl, rfl, hpoisoned⟩
  case unreached =>
    exact (exec_cacheRead s hagent hn a).trans (congrArg Host.Outcome.next (State.request_unreached hrange))
  case lost =>
    exact (exec_cacheRead s hagent hn a).trans (congrArg Host.Outcome.next (State.request_lost hrange hlost))
  case loupe =>
    exact if_pos hr
  case tenant =>
    simp only [State.reqReach, if_neg (show ¬ r.val < 2 by omega), if_neg (show ¬ r.val < 4 by omega), hp]
  case nobody =>
    simp only [State.reqReach, if_neg (show ¬ r.val < 2 by omega), if_neg (show ¬ r.val < 4 by omega), hp]

end Sys2Proof.Machine

namespace Sys2Proof.Machine

/-! ## A descriptor that ends and owes a token to no core (05 R145, 08 R241, 10 R312)

The end of a descriptor clears WALK_STATUS and then raises the tokens that are still owed. The statement says where they go only for a descriptor
without granularity. With one, TCORE may be a number beyond the 16,384 cores, and ENGINE_STATUS of number 20,736 would lie at the offset of
WALK_STATUS[1]: the overflow of that token sets bit 1 there again. -/

/-- A COPY of 64 bytes that raises one token K0 of number 20,736 for each granule. -/
def strayDesc : BitVec 512 := BitVec.ofNat 512 (1 + 64 * 2 ^ 32 + (20736 + 1 * 2 ^ 24 + 64 * 2 ^ 32) * 2 ^ 320)

/-- The first 64 KiB of HBM, which partition 0 reads and writes at address 0. -/
def strayWindow : Window :=
  { dbase := 0x800000, size := 1, pbase := 0, valid := true, shared := false, atomic := false, write := true, read := true, typ := 0 }

/-- Partition 0 runs with that window; engine 1 has moved its COPY's granule without its token, and K0 of number 20,736 is full. -/
def strayState : State :=
  { State.reset with
    devFacet := { DevFacet.null with parts := [(0, { PartRec.none with valid := true, engines := 2 ^ 1 })] }
    parts := [(0, { Partition.reset with
      state := .running, facet := { Facet.none with memmap := [0x800000 * 2 ^ 96 + 1 * 2 ^ 64 + 0x8C] } })]
    engines := [(1, { Engine.reset with active := true, desc := strayDesc, moved := 1 })]
    cores := [(20736, { Core.reset with seq := { SeqState.reset with k := [(0, 0xFFFF)] } })] }

/-- The bits of WALK_STATUS[1] that say which descriptor of engine 1 runs, after a command. -/
def walkBitsAfter (o : Host.Outcome State Fault Refusal) : Option Nat :=
  match o with
  | .next t => some (bits (t.reg (Reg.walkStatus 1)) 0 2)
  | _ => none

theorem stray_sameOffset : Reg.engineStatus 20736 = Reg.walkStatus 1 := rfl

theorem stray_target : strayState.translate 0 ((strayState.engine (1 : EngineId)).descAt + 63) .write = some (0x800000003F, strayWindow) := by
  decide +kernel

theorem stray_walkBits : walkBitsAfter (exec (.descriptorEnd 1) strayState) = some 2 := by decide +kernel

/-- Refutes O24: a token with granularity that is owed to number 20,736 overflows, and its fault sets bit 1 of WALK_STATUS[1], which the statement
has clear. -/
theorem not_descriptorStart : ¬ Obligations.DescriptorStart := by
  unfold Obligations.DescriptorStart
  intro h
  have hfacts : strayState.partOfEngine (1 : EngineId) = some 0 ∧ strayState.dev ≠ .hold ∧ (strayState.engine (1 : EngineId)).active = true ∧
      strayState.descDone (1 : EngineId) 0 = true ∧ (strayState.engine (1 : EngineId)).status ≠ St.badArgument ∧
      dTgran (strayState.engine (1 : EngineId)).desc ≠ 0 := by decide +kernel
  obtain ⟨hpart, hdev, hactive, hdone, hstatus, hgran⟩ := hfacts
  obtain ⟨-, -, -, -, -, -, -, -, -, -, hend, -⟩ := h strayState strayState 1 0 0 hpart
  obtain ⟨t, hexec, -, -, -, hclear, -⟩ := hend _ _ hdev hactive hdone stray_target hstatus fun hzero => absurd hzero hgran
  have hset := stray_walkBits
  rw [hexec] at hset
  exact absurd ((Option.some.inj hset).symm.trans hclear) (by decide)

end Sys2Proof.Machine

namespace Sys2Proof.Machine

/-! ## What accesses to memory leave alone (08 R230, R244, R245, 17 R517 to R520) -/

/-- Memory, cached lines, registers, event counts, errors that have been met and free values: nothing else differs. -/
def DataOnly (s t : State) : Prop := ∃ (m : Mem) (ca : Cache) (rs : SMap Word) (cs : SMap Nat) (us : List Upset) (k : Nat),
  t = { s with mem := m, cache := ca, regs := rs, cnts := cs, upsets := us, freeCtr := k }

theorem DataOnly.refl (s : State) : DataOnly s s := ⟨s.mem, s.cache, s.regs, s.cnts, s.upsets, s.freeCtr, rfl⟩

theorem DataOnly.trans {s t u : State} : DataOnly s t → DataOnly t u → DataOnly s u := by
  rintro ⟨_, _, _, _, _, _, rfl⟩ ⟨m, ca, rs, cs, us, k, rfl⟩
  exact ⟨m, ca, rs, cs, us, k, rfl⟩

theorem DataOnly.foldl {s : State} {ι : Type} {f : State → ι → State} (h : ∀ t a, DataOnly t (f t a)) (l : List ι) : DataOnly s (l.foldl f s) :=
  List.foldlRecOn (motive := DataOnly s) l f (.refl s) fun t ht a _ => ht.trans (h t a)

theorem DataOnly.ite {s a b : State} {p : Prop} [Decidable p] (ha : DataOnly s a) (hb : DataOnly s b) : DataOnly s (if p then a else b) := by
  split <;> assumption

theorem CountsOnly.dataOnly {s t : State} : CountsOnly s t → DataOnly s t := by
  rintro ⟨rs, cs, rfl⟩
  exact ⟨s.mem, s.cache, rs, cs, s.upsets, s.freeCtr, rfl⟩

section
variable {s t : State} (h : DataOnly s t)
include h

theorem DataOnly.cores : t.cores = s.cores := by
  obtain ⟨m, ca, rs, cs, us, k, rfl⟩ := h
  rfl

theorem DataOnly.cloves : t.cloves = s.cloves := by
  obtain ⟨m, ca, rs, cs, us, k, rfl⟩ := h
  rfl

theorem DataOnly.parts : t.parts = s.parts := by
  obtain ⟨m, ca, rs, cs, us, k, rfl⟩ := h
  rfl

theorem DataOnly.devFacet : t.devFacet = s.devFacet := by
  obtain ⟨m, ca, rs, cs, us, k, rfl⟩ := h
  rfl

theorem DataOnly.loupe : t.loupe = s.loupe := by
  obtain ⟨m, ca, rs, cs, us, k, rfl⟩ := h
  rfl

theorem DataOnly.clove (c : Nat) : t.clove c = s.clove c := congrArg (SMap.get Clove.reset · c) h.cloves

theorem DataOnly.part (p : Nat) : t.part p = s.part p := congrArg (SMap.get Partition.reset · p) h.parts

end

section
variable (s : State)

theorem State.free_dataOnly (w : Nat) : DataOnly s (s.free w).2 := ⟨s.mem, s.cache, s.regs, s.cnts, s.upsets, s.freeCtr + 1, rfl⟩

theorem State.takeUpset_dataOnly (u : Upset) : DataOnly s (s.takeUpset u).2 := by
  unfold State.takeUpset
  split
  · exact ⟨s.mem, s.cache, s.regs, s.cnts, _, s.freeCtr, rfl⟩
  · exact .refl s

theorem State.parity_dataOnly (path : Nat) : DataOnly s (s.parity path).2 := by
  unfold State.parity
  dsimp only
  split
  · exact (s.takeUpset_dataOnly _).trans (State.setField_regsOnly ..).countsOnly.dataOnly
  · exact s.takeUpset_dataOnly _

theorem State.cryptCheck_dataOnly (a : Nat) : DataOnly s (s.cryptCheck a) := by
  unfold State.cryptCheck
  dsimp only
  refine .ite (.refl s) (.ite ?_ (.refl s))
  exact (s.takeUpset_dataOnly _).trans ⟨_, _, _, _, _, _, rfl⟩

theorem State.devWrite_dataOnly (a : Nat) (bs : Bytes) (poi : Bool) : DataOnly s (s.devWrite a bs poi) := by
  obtain ⟨cs, hwrite⟩ := s.plainWrite_only a bs poi
  have hplain : DataOnly s (s.plainWrite a bs poi) := ⟨_, s.cache, s.regs, cs, s.upsets, s.freeCtr, hwrite⟩
  unfold State.devWrite
  exact .ite hplain (hplain.trans (State.cryptCheck_dataOnly _ _))

theorem State.rewriteUnit_dataOnly (a : Nat) (u : URead) : DataOnly s (s.rewriteUnit a u) :=
  DataOnly.trans ⟨_, s.cache, s.regs, s.cnts, s.upsets, s.freeCtr, rfl⟩ (State.cryptCheck_dataOnly _ _)

theorem State.countCc_dataOnly (p : Option Nat) (a i n : Nat) : DataOnly s (s.countCc p a i n) := by
  obtain ⟨cs, hcount⟩ := s.countCc_only p a i n
  exact ⟨s.mem, s.cache, s.regs, cs, s.upsets, s.freeCtr, hcount⟩

/-! ### At the home hub -/

theorem State.dropLine_dataOnly (l : Nat) : DataOnly s (s.dropLine l) := ⟨_, _, _, _, _, _, rfl⟩

theorem State.invalidate_dataOnly (a n : Nat) : DataOnly s (s.invalidate a n) := ⟨_, _, _, _, _, _, rfl⟩

theorem State.makeRoom_dataOnly (l : Nat) : DataOnly s (s.makeRoom l) := by
  unfold State.makeRoom
  extract_lets here
  exact .ite (.refl s) ⟨_, _, _, _, _, _, rfl⟩

theorem State.fillLine_dataOnly (l : Nat) : DataOnly s (s.fillLine l).1 :=
  ((s.devRead_countsOnly l 64).trans (State.devRead_countsOnly _ (l + 64) 64)).dataOnly.trans ⟨_, _, _, _, _, _, rfl⟩

theorem State.needLine_dataOnly (l : Nat) : DataOnly s (s.needLine l).1 := by
  unfold State.needLine
  extract_lets here
  split
  · split
    · exact .refl s
    · exact ((s.dropLine_dataOnly l).trans (State.makeRoom_dataOnly _ l)).trans (State.fillLine_dataOnly _ l)
  · exact ⟨_, _, _, _, _, _, rfl⟩

theorem State.ccLoad_dataOnly (p : Option Nat) (a n : Nat) : DataOnly s (s.ccLoad p a n).2.2 := by
  have hcount := s.countCc_dataOnly p a 0 n
  unfold State.ccLoad
  generalize s.countCc p a 0 n = t at hcount ⊢
  dsimp only
  split
  · exact (hcount.trans (t.devRead_countsOnly a n).dataOnly).trans ⟨_, _, _, _, _, _, rfl⟩
  · exact List.foldlRecOn (motive := fun x : Bytes × Nat × State => DataOnly s x.2.2) _ _ hcount fun x hx l _ => hx.trans (x.2.2.needLine_dataOnly l)

theorem State.ccRead_dataOnly (p : Option Nat) (a n : Nat) : DataOnly s (s.ccRead p a n).2.2 :=
  (s.ccLoad_dataOnly p a n).trans (State.parity_dataOnly _ _)

theorem State.ccStore_dataOnly (p : Option Nat) (a : Nat) (bs : Bytes) (poi : Bool) : DataOnly s (s.ccStore p a bs poi) := by
  have hcount := s.countCc_dataOnly p a 1 bs.length
  unfold State.ccStore
  generalize s.countCc p a 1 bs.length = t at hcount ⊢
  have hwrite := hcount.trans (t.devWrite_dataOnly a bs poi)
  dsimp only
  exact .ite hcount (.ite hwrite (hwrite.trans ⟨_, _, _, _, _, _, rfl⟩))

theorem State.ccWrite_dataOnly (p : Option Nat) (a : Nat) (bs : Bytes) (poi : Bool) : DataOnly s (s.ccWrite p a bs poi) := by
  have hparity := s.parity_dataOnly (homeHub a)
  unfold State.ccWrite
  dsimp only
  refine .ite (s.ccStore_dataOnly p a bs poi) ?_
  have hfirst := hparity.trans (State.ccStore_dataOnly _ p a (bs.take (64 - a % 64)) true)
  exact .ite hfirst (hfirst.trans (State.ccStore_dataOnly _ p _ _ poi))

/-! ### Atomic operations -/

theorem State.atomicLine_dataOnly (a : Nat) : DataOnly s (s.atomicLine a).2 := by
  unfold State.atomicLine
  extract_lets l
  split
  · exact s.needLine_dataOnly l
  · exact ⟨_, _, _, _, _, _, rfl⟩

theorem State.atomicPut_dataOnly (a n x : Nat) (poi : Bool) : DataOnly s (s.atomicPut a n x poi) := by
  have hwrite := s.devWrite_dataOnly a (leBytes n x) poi
  unfold State.atomicPut
  dsimp only
  exact .ite hwrite (hwrite.trans ⟨_, _, _, _, _, _, rfl⟩)

theorem State.inAlus_dataOnly (a : Nat) {go : State → ARes} (h : ∀ t, DataOnly t (go t).st) : DataOnly s (s.inAlus a go).st := by
  have htake := s.takeUpset_dataOnly (.alu (homeHub a))
  unfold State.inAlus
  dsimp only
  split
  · exact htake.trans (State.atomicPut_dataOnly _ _ _ _ _)
  · exact h s

theorem State.rmw_dataOnly (p : Option Nat) (a n : Nat) (f : Nat → Option Nat × Nat) : DataOnly s (s.rmw p a n f).st := by
  have hcount := s.countCc_dataOnly p a 2 n
  unfold State.rmw
  generalize s.countCc p a 2 n = t at hcount ⊢
  have hline := hcount.trans (t.atomicLine_dataOnly a)
  dsimp only
  split
  · exact hcount
  split
  · exact hline
  · refine hline.trans (State.inAlus_dataOnly _ a fun u => ?_)
    split
    · exact u.atomicPut_dataOnly a n _ false
    · exact .refl u

theorem State.pop_dataOnly (p : Option Nat) (h e : Nat) (ent : Nat → Option Nat) : DataOnly s (s.pop p h e ent).st := by
  have hcount := s.countCc_dataOnly p h 2 8
  unfold State.pop
  generalize s.countCc p h 2 8 = t at hcount ⊢
  have hline := hcount.trans (t.atomicLine_dataOnly h)
  dsimp only
  split
  · exact hcount
  split
  · exact hline
  split
  · exact hline
  split
  · exact hline
  have hentry := hline.trans (State.atomicLine_dataOnly (t.atomicLine h).2 ‹Nat›)
  split
  · exact hentry
  · exact hentry.trans (State.inAlus_dataOnly _ h fun u => u.atomicPut_dataOnly h 4 _ false)

theorem State.push_dataOnly (p : Option Nat) (h e x : Nat) (ent : Nat → Option Nat) : DataOnly s (s.push p h e x ent).st := by
  have hcount := s.countCc_dataOnly p h 2 8
  unfold State.push
  generalize s.countCc p h 2 8 = t at hcount ⊢
  have hline := hcount.trans (t.atomicLine_dataOnly h)
  dsimp only
  split
  · exact hcount
  split
  · exact hline
  split
  · exact hline
  split
  · exact hline
  have hentry := hline.trans (State.atomicLine_dataOnly (t.atomicLine h).2 ‹Nat›)
  split
  · exact hentry
  · exact hentry.trans (State.inAlus_dataOnly _ h fun u => (u.atomicPut_dataOnly _ 4 _ false).trans (State.atomicPut_dataOnly _ h 4 _ false))

theorem State.requesterFence_dataOnly (d : Nat) : DataOnly s (s.requesterFence d) := by
  unfold State.requesterFence
  split
  · exact .refl s
  · extract_lets base len
    refine .foldl (fun t i => ?_) _
    split
    · exact t.invalidate_dataOnly _ 1
    · exact .refl t

/-! ### A partition's pages (10 R297) -/

theorem State.partAtomic_dataOnly (die p pa : Nat) {f : State → Nat → ARes} (h : ∀ a, DataOnly s (f s a).st) :
    DataOnly s (s.partAtomic die p pa f).st := by
  unfold State.partAtomic
  split
  · split
    · exact .refl s
    · exact h _
  · exact .refl s

theorem State.popPool_dataOnly (die p : Nat) (k : KvLayout) (i : Nat) : DataOnly s (s.popPool die p k i).2 := by
  have hpop := s.partAtomic_dataOnly die p (k.pools.getD i (0, 0)).1
    (f := fun s h => s.pop (some p) h (k.pools.getD i (0, 0)).2 (fun a => (s.translate p a .atomic).map (·.1))) fun a => s.pop_dataOnly _ _ _ _
  unfold State.popPool
  dsimp only
  split
  · exact .refl s
  split
  · exact hpop
  split
  · exact hpop
  · exact hpop

theorem State.alloc_dataOnly (die p : Nat) (k : KvLayout) (i : Nat) : DataOnly s (s.alloc die p k i).2 := by
  have hpop := s.popPool_dataOnly die p k i
  unfold State.alloc
  dsimp only
  split
  · have hcount := hpop.trans (State.partAtomic_dataOnly _ die p (k.countAt ‹Nat›) (f := fun s a => s.refinc (some p) a) fun a => State.rmw_dataOnly _ _ _ _ _)
    split
    · exact hcount
    · exact hcount
  · exact hpop

theorem State.release_dataOnly (die p : Nat) (k : KvLayout) (e : DWord) : DataOnly s (s.release die p k e).2 := by
  have hcount := s.partAtomic_dataOnly die p (k.countAt (plPage e)) (f := fun s a => s.refdec (some p) a) fun a => s.rmw_dataOnly _ _ _ _
  unfold State.release
  dsimp only
  split
  · exact hcount
  split
  · exact hcount.trans (State.partAtomic_dataOnly _ _ _ _ fun a => State.push_dataOnly _ _ _ _ _ _)
  · exact hcount

end

end Sys2Proof.Machine

namespace Sys2Proof.Machine

/-! ## What moving data leaves of a Clove core (09 R261, R264, R277) -/

/-- No core changes, and of Clove core c only its local memory and the shared lines that it has written. -/
structure DataMoved (c : Nat) (s t : State) : Prop where
  cores : t.cores = s.cores
  clove : ∃ l d, t.clove c = { s.clove c with localMem := l, dirty := d }

section
variable {c : Nat} {s t u : State}

theorem DataMoved.refl (c : Nat) (s : State) : DataMoved c s s := ⟨rfl, (s.clove c).localMem, (s.clove c).dirty, rfl⟩

theorem DataMoved.trans (h : DataMoved c s t) (k : DataMoved c t u) : DataMoved c s u := by
  obtain ⟨hcores, l, d, ht⟩ := h
  obtain ⟨kcores, l', d', hu⟩ := k
  exact ⟨kcores.trans hcores, l', d', by rw [hu, ht]⟩

theorem DataOnly.dataMoved (h : DataOnly s t) : DataMoved c s t := ⟨h.cores, _, _, h.clove c⟩

theorem DataMoved.foldl {ι : Type} {f : State → ι → State} (h : ∀ t a, DataMoved c t (f t a)) (l : List ι) : DataMoved c s (l.foldl f s) :=
  List.foldlRecOn (motive := DataMoved c s) l f (.refl c s) fun t ht a _ => ht.trans (h t a)

theorem State.setClove_dataMoved (s : State) (c : Nat) (l : Mem) (d : List Nat) :
    DataMoved c s (s.setClove c { s.clove c with localMem := l, dirty := d }) := ⟨rfl, l, d, s.clove_setClove_same c _⟩

end

/-! ### Reads and writes of the core's map (09 R257, R259, R261) -/

section
variable (s : State) (c : Nat)

theorem State.cRead_dataMoved (l : CLoc) (n : Nat) : DataMoved c s (s.cRead c l n).2.2 := by
  cases l with
  | rom a => exact .refl c s
  | loc a => exact s.setClove_dataMoved c _ _
  | dev a sh =>
    unfold State.cRead
    dsimp only
    split
    · exact (s.devRead_countsOnly a n).dataOnly.dataMoved
    split
    · exact .refl c s
    · exact (s.ccRead_dataOnly _ a n).dataMoved

theorem State.cWrite_dataMoved (l : CLoc) (bs : Bytes) (poi : Bool) : DataMoved c s (s.cWrite c l bs poi) := by
  cases l with
  | rom a => exact .refl c s
  | loc a => exact s.setClove_dataMoved c _ _
  | dev a sh =>
    unfold State.cWrite
    dsimp only
    split
    · split
      · exact .refl c s
      · exact (s.ccWrite_dataOnly _ a bs poi).dataMoved
    have hwrite : DataMoved c s (s.devWrite a bs poi) := (s.devWrite_dataOnly a bs poi).dataMoved
    split
    · exact hwrite.trans (State.setClove_dataMoved _ c _ _)
    · exact hwrite

theorem State.cLoad_dataMoved (l : CLoc) (n : Nat) : DataMoved c s (s.cLoad c l n).2.2 := by
  cases l with
  | dev a sh =>
    unfold State.cLoad
    dsimp only
    split
    · exact s.cRead_dataMoved c _ n
    · exact (s.devRead_countsOnly _ 64).dataOnly.dataMoved
  | rom a => exact s.cRead_dataMoved c _ n
  | loc a => exact s.cRead_dataMoved c _ n

theorem State.cPoison_dataMoved (l : Option CLoc) : DataMoved c s (s.cPoison c l) := by
  cases l with
  | none => exact .refl c s
  | some l => exact (s.free_dataOnly 512).dataMoved.trans (State.cWrite_dataMoved _ c l _ true)

/-! ### Granule by granule (09 R264) -/

/-- A move, whatever its granules come from. -/
theorem State.cBulk_dataMoved {get : State → Nat → CGran} (hget : ∀ t i bs st u, get t i = .got bs st u → DataMoved c t u)
    (dst : Nat → Option CLoc) (n : Nat) : DataMoved c s (s.cBulk c get dst n).2.2 := by
  induction n with
  | zero => exact .refl c s
  | succ n ih =>
    unfold State.cBulk
    dsimp only
    split
    · exact ih.trans (State.cPoison_dataMoved _ c _)
    split
    · exact ih
    split
    · next l _ _ _ => exact ih.trans (State.cPoison_dataMoved _ c (some l))
    · next hgot => exact (ih.trans (hget _ _ _ _ _ hgot)).trans (State.cWrite_dataMoved _ c _ _ _)

theorem State.cSource_dataMoved (src : Nat → Option CLoc) {i st : Nat} {bs : Bytes} {t : State} (h : State.cSource c src s i = .got bs st t) :
    DataMoved c s t := by
  unfold State.cSource at h
  split at h
  · cases h
  · next l _ =>
    cases h
    exact s.cRead_dataMoved c l 64

theorem State.cCopy_dataMoved (src dst : Nat → Option CLoc) (n : Nat) : DataMoved c s (s.cCopy c src dst n).2.2 :=
  s.cBulk_dataMoved c (fun t _ _ _ _ h => t.cSource_dataMoved c src h) dst n

theorem State.cFill_dataMoved (dst : Nat → Option CLoc) (pat n : Nat) : DataMoved c s (s.cFill c dst pat n).2.2 :=
  s.cBulk_dataMoved c (fun t _ _ _ _ h => (CGran.got.inj h).2.2 ▸ .refl c t) dst n

theorem State.cCmp_dataMoved (a b : Nat → Option CLoc) (i k : Nat) : DataMoved c s (s.cCmp c a b i k).2 := by
  induction k generalizing s i with
  | zero => exact .refl c s
  | succ k ih =>
    unfold State.cCmp
    split
    · next la lb _ _ =>
      have hread := (s.cRead_dataMoved c la 64).trans (State.cRead_dataMoved _ c lb 64)
      dsimp only
      split
      · exact hread
      split
      · exact hread
      · exact hread.trans (ih _ _)
    · exact .refl c s

/-! ### The rows of a GATHER (09 R277) -/

theorem State.poisonRow_dataMoved (dst : Nat → Option CLoc) (n : Nat) : DataMoved c s (s.cBulk c (fun _ _ => .fault) dst n).2.2 :=
  s.cBulk_dataMoved c (get := fun _ _ => .fault) (fun _ _ _ _ _ h => nomatch h) dst n

theorem State.gatherRow_dataMoved (table rb idx dst k : Nat) : DataMoved c s (s.gatherRow c table rb idx dst k).2 := by
  unfold State.gatherRow
  split
  · exact s.poisonRow_dataMoved c _ _
  · next l _ =>
    have hload := s.cLoad_dataMoved c l 4
    dsimp only
    split
    · exact hload.trans (State.poisonRow_dataMoved _ c _ _)
    · exact hload.trans (State.cCopy_dataMoved _ c _ _ _)

theorem State.gatherRows_dataMoved (table rb idx dst n : Nat) : DataMoved c s (s.gatherRows c table rb idx dst n).2.2 := by
  induction n with
  | zero => exact .refl c s
  | succ n ih =>
    unfold State.gatherRows
    dsimp only
    split
    · exact ih.trans (State.poisonRow_dataMoved _ c _ _)
    · exact ih.trans (State.gatherRow_dataMoved _ c _ _ _ _ _)

/-! ### Pages (10 R313) -/

theorem State.entryRead_dataMoved {pa bad : Nat} {e : DWord} {t : State} (h : s.entryRead c pa = some (e, bad, t)) : DataMoved c s t := by
  unfold State.entryRead at h
  split at h
  · next l _ =>
    cases h
    exact s.cLoad_dataMoved c l 8
  · cases h

theorem State.popHere_dataOnly (p : Nat) (k : KvLayout) (pool : Nat) : DataOnly s (s.popHere c p k pool).2 := by
  have halloc := s.alloc_dataOnly (c / 64) p k pool
  unfold State.popHere
  split
  · next n t heq =>
    rw [heq] at halloc
    split
    · exact halloc
    · exact halloc.trans (t.release_dataOnly _ _ _ _)
  · exact halloc

theorem State.entryMove_dataMoved (p : Nat) (k : KvLayout) (pa pool new : Nat) (e : DWord) : DataMoved c s (s.entryMove c p k pa pool new e).2 := by
  unfold State.entryMove
  split
  · exact (s.release_dataOnly _ _ _ _).dataMoved
  · exact (s.cWrite_dataMoved c _ _ false).trans (State.release_dataOnly _ _ _ _ _).dataMoved

theorem State.pageMove_dataMoved (p : Nat) (k : KvLayout) (pa pool : Nat) (want : DWord → Bool) :
    DataMoved c s (s.pageMove c p k pa pool want).2.2 := by
  unfold State.pageMove
  split
  · exact .refl c s
  next e bad t hread =>
  have hentry := s.entryRead_dataMoved c hread
  split
  · exact hentry
  split
  · exact hentry
  have hpop := hentry.trans (t.popHere_dataOnly c p k pool).dataMoved
  split
  · next heq =>
    rw [heq] at hpop
    exact hpop
  · next heq =>
    rw [heq] at hpop
    exact hpop
  · next n u heq =>
    rw [heq] at hpop
    have hcopy := hpop.trans (u.cCopy_dataMoved c (u.fnGran c (k.pageAt (plPage e)) .read) (u.fnGran c (k.pageAt n) .write) 1024)
    generalize u.cCopy c _ _ 1024 = r at hcopy ⊢
    have hmove := hcopy.trans (r.2.2.entryMove_dataMoved c p k pa pool n e)
    dsimp only
    split <;> exact hmove

theorem State.migrateHere_dataMoved (p : Nat) (k : KvLayout) (pa pool n : Nat) : DataMoved c s (s.migrateHere c p k pa pool n).2.2 := by
  induction n with
  | zero => exact .refl c s
  | succ n ih =>
    unfold State.migrateHere
    dsimp only
    split
    · exact ih
    · exact ih.trans (State.pageMove_dataMoved _ c _ _ _ _ _)

/-! ### A scrub (09 R277, 19 R599) -/

theorem State.scrubSectors_dataOnly (d n : Nat) : DataOnly s (s.scrubSectors d n).2 := by
  induction n with
  | zero => exact .refl s
  | succ n ih =>
    unfold State.scrubSectors
    dsimp only
    have hcount (t : State) (a : Nat) (u : URead) : DataOnly t (((t.countUnit a u).countHbm a 1 0).countHbm a 1 1) :=
      (((t.countUnit_regsOnly a u).countsOnly.trans (State.countHbm_countsOnly _ _ _ _)).trans (State.countHbm_countsOnly _ _ _ _)).dataOnly
    have hread := ih.trans (hcount _ (d + 32 * n) ((s.scrubSectors d n).2.mem.unit (d + 32 * n)))
    split
    · exact hread.trans (State.rewriteUnit_dataOnly _ _ _)
    split
    · exact hread.trans (State.rewriteUnit_dataOnly _ _ _)
    · exact hread

theorem State.scrubPiece_dataMoved (q : ScrubPiece) : DataMoved c s (s.scrubPiece c q).2 := by
  have hsectors : DataMoved c s (s.scrubSectors q.addr (q.len / 32)).2 := (s.scrubSectors_dataOnly _ _).dataMoved
  unfold State.scrubPiece
  dsimp only
  split
  · exact hsectors.trans (State.setClove_dataMoved _ c _ _)
  · exact hsectors

theorem State.spareRowsOf_dataMoved (rows : List Nat) : DataMoved c s (s.spareRowsOf c rows).2 :=
  List.foldlRecOn (motive := fun a : Nat × State => DataMoved c s a.2) _ _ (.refl c s) fun a ha row _ => by
    dsimp only
    split
    · exact ha
    · exact ha.trans ⟨rfl, _, _, rfl⟩

theorem State.scrubHbm_dataMoved (ps : List ScrubPiece) : DataMoved c s (s.scrubHbm c ps).2.2 := by
  unfold State.scrubHbm
  refine DataMoved.trans ?_ (State.spareRowsOf_dataMoved _ c _)
  exact List.foldlRecOn (motive := fun a : ScrubSum × State => DataMoved c s a.2) _ _ (.refl c s) fun a ha q _ => ha.trans (a.2.scrubPiece_dataMoved c q)

end

end Sys2Proof.Machine

namespace Sys2Proof.Machine

/-! ## Units whose check bits are right, poisoned or not (07 R209, 08 R230) -/

theorem decodeSector_unflipped (raw : Bytes) (sig : Bool) : (decodeSector raw 0 sig).data = raw := by
  have hflip (i : Nat) : flipByte 0 i = 0 := by simp [flipByte]
  have hraw : raw.zipIdx.map (fun x => x.1 ^^^ BitVec.ofNat 8 (flipByte 0 x.2)) = raw := by
    simp only [hflip, BitVec.xor_zero]
    exact List.zipIdx_map_fst 0 raw
  have hes : (List.range 34).map (flipByte 0) = List.replicate 34 0 := by
    rw [List.map_congr_left (g := fun _ => 0) fun i _ => hflip i]
    rfl
  have hzero : (List.replicate 34 0).zipIdx.map (fun x => gfMul x.1 (gfPow (33 - x.2))) = List.replicate 34 0 :=
    List.map_eq_replicate_iff.2 fun x hx => by rw [List.eq_of_mem_replicate (List.fst_mem_of_mem_zipIdx hx), gfMul, gfMulAux_zero]
  have hsum : (List.replicate 34 0).foldl (· ^^^ ·) 0 = 0 := by decide
  have hsig : (List.replicate 34 0).foldl (· ^^^ ·) (0xEE : Nat) = 0xEE := by decide
  cases sig with
  | false => rw [decodeSector_fresh]
  | true =>
    have hsyn : ¬ (0 : Nat) = 0xEE ∧ ¬ (0xEE : Nat) = 0 := by decide
    simp only [decodeSector, hes, hzero, hsum, if_true, hsig, hraw, hsyn, and_false, if_false, and_self]

theorem Mem.word_length (m : Mem) (u : Nat) : (m.word u).1.length = 8 := by
  unfold Mem.word
  dsimp only
  split <;> simp [Mem.read]

theorem Mem.word_unflipped {m : Mem} {u : Nat} (h : SMap.get 0 m.flips u = 0) : (m.word u).1 = m.read u 8 := by
  simp [Mem.word, h, popCount_zero]

section
variable {m : Mem} {size u : Nat} (hsize : size = 8 ∨ size = 32)
include hsize

theorem Mem.unitAt_length : (m.unitAt size u).data.length = size := by
  rcases hsize with rfl | rfl
  · rw [Mem.unitAt, if_neg (by decide), Mem.wordUnit, m.word_length u]
  · rw [Mem.unitAt, if_pos rfl, decodeSector_length, Mem.read, List.length_map, List.length_range]

/-- A unit without a flipped bit reads as its bytes lie. -/
theorem Mem.unitAt_unflipped (h : SMap.get 0 m.flips u = 0) : (m.unitAt size u).data = m.read u size := by
  rcases hsize with rfl | rfl
  · rw [Mem.unitAt, if_neg (by decide), Mem.wordUnit, Mem.word_unflipped h]
  · simp only [Mem.unitAt, if_true, h, decodeSector_unflipped]

end

theorem Mem.read_getD {m : Mem} {a n j : Nat} (h : j < n) : (m.read a n).getD j 0 = m.byte (a + j) := by
  simp [Mem.read, List.getD_eq_getElem?_getD, h]

theorem Mem.flips_writeUnit (m : Mem) (u : Nat) (bs : Bytes) (p : Bool) {v : Nat} (h : v = u ∨ SMap.get 0 m.flips v = 0) :
    SMap.get 0 (m.writeUnit u bs p).flips v = 0 := by
  by_cases heq : v = u
  · rw [heq]
    exact SMap.get_del_same _ _ _
  · exact (SMap.get_del_other _ _ heq).trans (by rw [Mem.flips_write, h.resolve_left heq])

/-! ## A write of any bytes, unit by unit (07 R208, 08 R230) -/

/-- The units of a range are whole units that share a byte with it, and all of these. -/
theorem mem_unitsOf {a n u : Nat} : u ∈ unitsOf a n ↔ u % unitBytes a = 0 ∧ a < u + unitBytes a ∧ u < a + n ∧ n ≠ 0 := by
  unfold unitsOf
  dsimp only
  split
  · next h => simp [h]
  · next h =>
    simp only [List.mem_map, List.mem_range]
    rcases unitBytes_cases a with hs | hs <;> rw [hs]
    · exact ⟨fun ⟨i, hi, hu⟩ => by omega, fun hu => ⟨(u - a / 8 * 8) / 8, by omega, by omega⟩⟩
    · exact ⟨fun ⟨i, hi, hu⟩ => by omega, fun hu => ⟨(u - a / 32 * 32) / 32, by omega, by omega⟩⟩

section
variable {m : Mem} {size a u : Nat} {bs : Bytes} (poi : Bool) (hsize : size = 8 ∨ size = 32)
include hsize

theorem Mem.byte_mergeUnit_inside {y : Nat} (hu : u ≤ y ∧ y < u + size) (hy : a ≤ y ∧ y < a + bs.length) :
    (m.mergeUnit u size a bs poi).byte y = bs.getD (y - a) 0 := by
  have hlen : (m.unitAt size u).data.length = size := Mem.unitAt_length hsize
  obtain ⟨j, rfl⟩ : ∃ j, y = u + j := ⟨y - u, by omega⟩
  unfold Mem.mergeUnit
  split
  · next h =>
    rw [Mem.byte_writeUnit_at poi (by simp; omega)]
    have hj : u - a + j = u + j - a := by omega
    simp [List.getD_eq_getElem?_getD, List.getElem?_drop, show j < size by omega, hj]
  · dsimp only
    rw [Mem.byte_writeUnit_at _ (by simp [hlen]; omega)]
    simp [List.getD_eq_getElem?_getD, hy, hlen, show j < size by omega]

theorem Mem.byte_mergeUnit_apart {y : Nat} (hu : y < u ∨ u + size ≤ y) : (m.mergeUnit u size a bs poi).byte y = m.byte y := by
  have hlen : (m.unitAt size u).data.length = size := Mem.unitAt_length hsize
  unfold Mem.mergeUnit
  split
  · exact Mem.byte_writeUnit_other poi (by simp; omega)
  · exact Mem.byte_writeUnit_other _ (by simp [hlen]; omega)

/-- A byte outside the range whose unit has no flipped bit stays. -/
theorem Mem.byte_mergeUnit_kept {y : Nat} (hflips : SMap.get 0 m.flips u = 0) (hy : y < a ∨ a + bs.length ≤ y) :
    (m.mergeUnit u size a bs poi).byte y = m.byte y := by
  by_cases hu : u ≤ y ∧ y < u + size
  · have hlen : (m.unitAt size u).data.length = size := Mem.unitAt_length hsize
    have hdata : (m.unitAt size u).data = m.read u size := Mem.unitAt_unflipped hsize hflips
    obtain ⟨j, rfl⟩ : ∃ j, y = u + j := ⟨y - u, by omega⟩
    have hj : j < size := by omega
    rw [Mem.mergeUnit, if_neg (by omega)]
    dsimp only
    rw [Mem.byte_writeUnit_at _ (by simp [hlen]; omega), ← Mem.read_getD (m := m) (a := u) hj, ← hdata]
    simp [List.getD_eq_getElem?_getD, hlen, hj, show ¬ (a ≤ u + j ∧ u + j < a + bs.length) by omega]
  · exact Mem.byte_mergeUnit_apart poi hsize (by omega)

omit hsize in
theorem Mem.flips_mergeUnit {v : Nat} (h : v = u ∨ SMap.get 0 m.flips v = 0) : SMap.get 0 (m.mergeUnit u size a bs poi).flips v = 0 := by
  unfold Mem.mergeUnit
  split
  · exact Mem.flips_writeUnit _ _ _ _ h
  · exact Mem.flips_writeUnit _ _ _ _ h

end

section
variable {m : Mem} {a : Nat} {bs : Bytes} (poi : Bool)

theorem Mem.byte_mergeRange_at {y : Nat} (hy : a ≤ y ∧ y < a + bs.length) : (m.mergeRange a bs poi).byte y = bs.getD (y - a) 0 := by
  have hsize := unitBytes_cases a
  have hunit : y / unitBytes a * unitBytes a ∈ unitsOf a bs.length := by
    refine mem_unitsOf.2 ?_
    rcases hsize with hs | hs <;> rw [hs] <;> omega
  refine foldl_reaches (Pre := fun _ => True) (Done := fun m : Mem => m.byte y = bs.getD (y - a) 0) hunit (fun _ _ _ _ _ => trivial)
    (fun m _ => Mem.byte_mergeUnit_inside poi hsize ?_ hy) (fun m hm u _ _ => ?_) trivial
  · rcases hsize with hs | hs <;> rw [hs] <;> omega
  · by_cases hin : u ≤ y ∧ y < u + unitBytes a
    · exact Mem.byte_mergeUnit_inside poi hsize hin hy
    · exact (Mem.byte_mergeUnit_apart poi hsize (by omega)).trans hm

/-- A byte of no unit that the range touches stays. -/
theorem Mem.byte_mergeRange_apart {y : Nat} (hy : ∀ u ∈ unitsOf a bs.length, y < u ∨ u + unitBytes a ≤ y) :
    (m.mergeRange a bs poi).byte y = m.byte y :=
  foldl_frame (fun m : Mem => m.byte y) (fun _ u hu => Mem.byte_mergeUnit_apart poi (unitBytes_cases a) (hy u hu)) m

/-- A byte outside the range stays when its unit has no flipped bit. -/
theorem Mem.byte_mergeRange_kept {y : Nat} (hflips : SMap.get 0 m.flips (y / unitBytes a * unitBytes a) = 0)
    (hy : y < a ∨ a + bs.length ≤ y) : (m.mergeRange a bs poi).byte y = m.byte y := by
  have hsize := unitBytes_cases a
  refine (List.foldlRecOn (motive := fun n : Mem => n.byte y = m.byte y ∧ SMap.get 0 n.flips (y / unitBytes a * unitBytes a) = 0) _ _
    ⟨rfl, hflips⟩ fun n ⟨hbyte, hn⟩ u hu => ⟨?_, Mem.flips_mergeUnit poi (.inr hn)⟩).1
  have hmul := (mem_unitsOf.1 hu).1
  by_cases heq : u = y / unitBytes a * unitBytes a
  · exact (Mem.byte_mergeUnit_kept poi hsize (heq ▸ hn) hy).trans hbyte
  · refine (Mem.byte_mergeUnit_apart poi hsize ?_).trans hbyte
    rcases hsize with hs | hs <;> rw [hs] at hmul heq ⊢ <;> omega

/-- The units that a write touches have no flipped bit after it. -/
theorem Mem.flips_mergeRange {u : Nat} (hu : u ∈ unitsOf a bs.length) : SMap.get 0 (m.mergeRange a bs poi).flips u = 0 :=
  foldl_reaches (Pre := fun _ => True) (Done := fun m : Mem => SMap.get 0 m.flips u = 0) hu (fun _ _ _ _ _ => trivial)
    (fun _ _ => Mem.flips_mergeUnit poi (.inl rfl)) (fun _ hm _ _ _ => Mem.flips_mergeUnit poi (.inr hm)) trivial

end

/-- Rewriting a granule with the poison signature leaves its bytes where its sectors have no flipped bit (08 R230, 17 R520). -/
theorem Mem.byte_poisonGranule {m : Mem} {a : Nat} (hhbm : isHbm a = true)
    (hflips : ∀ u ∈ unitsOf (a / 64 * 64) 64, SMap.get 0 m.flips u = 0) (y : Nat) : (m.poisonGranule a).byte y = m.byte y := by
  have hsize : unitBytes (a / 64 * 64) = 32 := if_pos (isHbm_granule hhbm)
  refine (List.foldlRecOn (motive := fun n : Mem => n.byte y = m.byte y ∧ ∀ u ∈ unitsOf (a / 64 * 64) 64, SMap.get 0 n.flips u = 0) _ _
    ⟨rfl, hflips⟩ fun n ⟨hbyte, hn⟩ u hu => ⟨?_, fun v hv => Mem.flips_writeUnit _ _ _ _ (.inr (hn v hv))⟩).1
  have hdata : (n.unit u).data = n.read u (unitBytes u) := Mem.unitAt_unflipped (unitBytes_cases u) (hn u hu)
  have hlen : (n.read u (unitBytes u)).length = unitBytes u := by simp [Mem.read]
  rw [hdata]
  by_cases hin : u ≤ y ∧ y < u + unitBytes u
  · obtain ⟨j, rfl⟩ : ∃ j, y = u + j := ⟨y - u, by omega⟩
    rw [Mem.byte_writeUnit_at true (by omega), Mem.read_getD (by omega), hbyte]
  · exact (Mem.byte_writeUnit_other true (by omega)).trans hbyte

/-! ## Words written one after another -/

/-- Words of eight bytes, written whole from a place upwards. -/
def Mem.putWords (m : Mem) (base n : Nat) (f : Nat → Bytes) (p : Nat → Bool) : Mem :=
  (List.range n).foldl (fun m i => m.writeUnit (base + 8 * i) (f i) (p i)) m

theorem Mem.byte_putWords {m : Mem} {base n k : Nat} {f : Nat → Bytes} (p : Nat → Bool) (hf : ∀ i, i < n → (f i).length = 8) (hk : k < 8 * n) :
    (m.putWords base n f p).byte (base + k) = (f (k / 8)).getD (k % 8) 0 := by
  have hi : k / 8 < n := by omega
  have hplace : base + k = base + 8 * (k / 8) + k % 8 := by omega
  have hwrite (m : Mem) : (m.writeUnit (base + 8 * (k / 8)) (f (k / 8)) (p (k / 8))).byte (base + k) = (f (k / 8)).getD (k % 8) 0 := by
    rw [hplace, Mem.byte_writeUnit_at _ (by rw [hf _ hi]; omega)]
  refine foldl_reaches (Pre := fun _ => True) (Done := fun m : Mem => m.byte (base + k) = (f (k / 8)).getD (k % 8) 0) (List.mem_range.2 hi)
    (fun _ _ _ _ _ => trivial) (fun m _ => hwrite m) (fun m hm j hj _ => ?_) trivial
  by_cases heq : j = k / 8
  · exact heq ▸ hwrite m
  · refine (Mem.byte_writeUnit_other _ ?_).trans hm
    rw [hf j (List.mem_range.1 hj)]
    omega

theorem leBytes_getD {n x k : Nat} (h : k < n) : (leBytes n x).getD k 0 = BitVec.ofNat 8 (x / 256 ^ k) := by
  induction n generalizing x k with
  | zero => omega
  | succ n ih =>
    cases k with
    | zero => simp [leBytes, BitVec.ofNat_eq_ofNat, BitVec.toNat_eq]
    | succ k =>
      have hpow : x / 256 / 256 ^ k = x / 256 ^ (k + 1) := by rw [Nat.div_div_eq_div_mul, Nat.pow_succ']
      rw [leBytes, List.getD_cons_succ, ih (by omega), hpow]

theorem leVal_lt (b : Bytes) : leVal b < 256 ^ b.length := by
  induction b with
  | nil => simp [leVal]
  | cons x b ih =>
    have hx := x.isLt
    rw [leVal, List.length_cons, Nat.pow_succ]
    omega

/-- A byte string is the bytes of its number. -/
theorem leBytes_leVal (b : Bytes) : leBytes b.length (leVal b) = b := by
  induction b with
  | nil => rfl
  | cons x b ih =>
    have hx := x.isLt
    have hlow : (x.toNat + 256 * leVal b) % 256 = x.toNat := by omega
    have hhigh : (x.toNat + 256 * leVal b) / 256 = leVal b := by omega
    rw [List.length_cons, leBytes, leVal, hlow, hhigh, ih, BitVec.ofNat_toNat, BitVec.setWidth_eq]

end Sys2Proof.Machine

namespace Sys2Proof.Machine

/-! ## A Clove core's registers and the end of an instruction (09 R259, R263) -/

@[simp] theorem State.setClove_setClove (s : State) (c : Nat) (x y : Clove) : (s.setClove c x).setClove c y = s.setClove c y :=
  congrArg (fun m => { s with cloves := m }) (SMap.put_put s.cloves c x y)

section
variable {s t q : State} {c : Nat}

theorem State.cx_setCx_same {i : Nat} (v : Nat) (h : i ≠ 0) : (s.setCx c i v).cx c i = v % 2 ^ 32 := by
  simp [State.setCx, State.cx, h]

theorem State.cx_setCx_other {i j : Nat} (v : Nat) (h : j ≠ i) : (s.setCx c i v).cx c j = s.cx c j := by
  unfold State.setCx
  split
  · rfl
  · simp [State.cx, SMap.get_set_other _ _ _ _ h]

theorem State.cx_zero : s.cx c 0 = 0 := if_pos rfl

theorem State.cx_lt (i : Nat) : s.cx c i < 2 ^ 32 := by
  unfold State.cx
  split
  · decide
  · exact BitVec.isLt _

theorem State.cx_of_x (h : (t.clove c).x = (s.clove c).x) (i : Nat) : t.cx c i = s.cx c i := by
  simp only [State.cx, h]

theorem State.cUnstall_none (h : (s.clove c).stallAt = none) : s.cUnstall c = s := by
  simp only [State.cUnstall, h]

theorem State.cUnblock_none (h : (s.clove c).blockAt = none) : s.cUnblock c = s := by
  simp only [State.cUnblock, h]

/-- A retired instruction counts, in the CSRs alone. -/
theorem State.cRetire_setClove (s : State) (c : Nat) (x : Clove) :
    ∃ k, (s.setClove c x).cRetire c = s.setClove c { x with csr := k } := by
  unfold State.cRetire
  split
  · exact ⟨x.csr, rfl⟩
  · exact ⟨_, by simp only [State.setCcsr, State.clove_setClove_same, State.setClove_setClove]; rfl⟩

/-- The register file after a result for the destination register of an instruction. -/
def Clove.written (x : Clove) (w v : Nat) : SMap Word := if iRd w = 0 then x.x else SMap.set 0 x.x (iRd w) (BitVec.ofNat 32 v)

/-- The result `v` in the destination register, every other register as before, and the pc after the instruction. -/
def Went (s t : State) (c w v : Nat) : Prop :=
  (iRd w ≠ 0 → t.cx c (iRd w) = v % 2 ^ 32) ∧ (∀ i, i ≠ iRd w → t.cx c i = s.cx c i) ∧
    (t.clove c).pc.toNat = ((s.clove c).pc.toNat + 4) % 2 ^ 32

/-- An instruction that writes its destination register and goes on changes the core's registers, its pc and its CSRs. -/
theorem State.cEnd_cRd (w v : Nat) (hstall : (q.clove c).stallAt = none) : ∃ k, State.cEnd c (q.cRd c w v) =
    q.setClove c { q.clove c with x := (q.clove c).written w v, pc := BitVec.ofNat 32 ((q.clove c).pc.toNat + 4), csr := k } := by
  have hwrite : (q.setCx c (iRd w) v).setCpc c ((q.clove c).pc.toNat + 4) = q.setClove c { q.clove c with
      x := (q.clove c).written w v, pc := BitVec.ofNat 32 ((q.clove c).pc.toNat + 4) } := by
    unfold State.setCpc State.setCx Clove.written
    split <;> simp
  rw [State.cRd, State.cEnd, hwrite, State.cUnstall_none (by simpa using hstall)]
  exact State.cRetire_setClove ..

theorem Went.of_clove {w v : Nat} (hx : (t.clove c).x = (s.clove c).written w v)
    (hpc : (t.clove c).pc = BitVec.ofNat 32 ((s.clove c).pc.toNat + 4)) : Went s t c w v := by
  refine ⟨fun h => ?_, fun i hi => ?_, by rw [hpc, BitVec.toNat_ofNat]⟩
  · rw [State.cx, if_neg h, hx, Clove.written, if_neg h, SMap.get_set_same, BitVec.toNat_ofNat]
  · unfold State.cx Clove.written at *
    split
    · rfl
    · rw [hx]
      split
      · rfl
      · rw [SMap.get_set_other _ _ _ _ hi]

/-- From a state with the same register file, pc and no open wait: the result and the pc, and nothing else outside the core. -/
theorem State.cEnd_cRd_went (w v : Nat) (hx : (q.clove c).x = (s.clove c).x) (hpc : (q.clove c).pc = (s.clove c).pc)
    (hstall : (q.clove c).stallAt = none) : ∃ r p k, State.cEnd c (q.cRd c w v) =
      q.setClove c { q.clove c with x := r, pc := p, csr := k } ∧ Went s (State.cEnd c (q.cRd c w v)) c w v := by
  obtain ⟨k, hend⟩ := State.cEnd_cRd w v hstall
  refine ⟨_, _, k, hend, .of_clove ?_ ?_⟩ <;> rw [hend, State.clove_setClove_same]
  · simp only [Clove.written, hx]
  · rw [hpc]

section
variable (h : DataMoved c s q)
include h

theorem DataMoved.x : (q.clove c).x = (s.clove c).x := by
  obtain ⟨-, l, d, hq⟩ := h
  rw [hq]

theorem DataMoved.pc : (q.clove c).pc = (s.clove c).pc := by
  obtain ⟨-, l, d, hq⟩ := h
  rw [hq]

theorem DataMoved.stallAt : (q.clove c).stallAt = (s.clove c).stallAt := by
  obtain ⟨-, l, d, hq⟩ := h
  rw [hq]

theorem DataMoved.held : (q.clove c).held = (s.clove c).held := by
  obtain ⟨-, l, d, hq⟩ := h
  rw [hq]

theorem DataMoved.cEnd_cRd (hstall : (s.clove c).stallAt = none) (w v : Nat) : ∃ t, State.cEnd c (q.cRd c w v) = t ∧
    Went s t c w v ∧ t.mem = q.mem ∧ t.cores = s.cores := by
  obtain ⟨r, p, k, hend, hwent⟩ := State.cEnd_cRd_went w v h.x h.pc (h.stallAt.trans hstall)
  exact ⟨_, rfl, hwent, by rw [hend]; rfl, by rw [hend]; exact h.cores⟩

end

/-! ### When an instruction runs (09 R263, R283) -/

theorem State.cAlone_eq {op f3 : Nat} {word : Word} (f : State → Nat → Nat → CX) (hmay : s.cloveMay c = true)
    (hop : iOp word.toNat = op) (hf3 : iF3 word.toNat = f3) : s.cAlone c op f3 word f = State.cEnd c (f s c word.toNat) :=
  if_pos ⟨hmay, hop, hf3⟩

/-- No access waits while the channel is open. -/
theorem State.cStalled_open (h : s.cloveThrottle c ≠ 2) (ls : List (Option CLoc)) : s.cStalled c ls = false := by
  simp [State.cStalled, h]

theorem State.traceClove_only (s : State) (c type where_ detail dur peer data flags : Nat) :
    ∃ (tr : SMap (List TraceRec)) (tq : SMap (List TraceRec)),
      s.traceClove c type where_ detail dur peer data flags = { s with trace := tr, traceQ := tq } := by
  unfold State.traceClove
  split
  · exact ⟨s.trace, s.traceQ, rfl⟩
  · exact State.traceEv_only ..

/-! ### A fence (09 R261, R267) -/

theorem State.dropLines_only (s : State) (ls : List Nat) : ∃ ca, ls.foldl (fun s l => s.dropLine l) s = { s with cache := ca } := by
  refine List.foldlRecOn (motive := fun t : State => ∃ ca, t = { s with cache := ca }) ls _ ⟨s.cache, rfl⟩ ?_
  rintro t ⟨ca, rfl⟩ l -
  exact ⟨_, rfl⟩

theorem State.dropLine_line (t : State) (l m : Nat) (h : m = l ∨ SMap.get false t.cache.lines m = false) :
    SMap.get false (t.dropLine l).cache.lines m = false := by
  by_cases heq : m = l
  · rw [heq]
    exact SMap.get_del_same _ _ _
  · exact (SMap.get_del_other _ _ heq).trans (h.resolve_left heq)

theorem State.dropLines_line {ls : List Nat} {l : Nat} (h : l ∈ ls) :
    SMap.get false (ls.foldl (fun s l => s.dropLine l) s).cache.lines l = false :=
  foldl_reaches (Pre := fun _ => True) (Done := fun t : State => SMap.get false t.cache.lines l = false) h (fun _ _ _ _ _ => trivial)
    (fun t _ => t.dropLine_line l l (.inl rfl)) (fun t ht m _ _ => t.dropLine_line m l (.inr ht)) trivial

theorem State.cFence_only (s : State) (c : Nat) :
    ∃ ca, s.cFence c = { s with cache := ca }.setClove c { s.clove c with dirty := [] } := by
  obtain ⟨ca, h⟩ := s.dropLines_only (s.clove c).dirty
  exact ⟨ca, by rw [State.cFence, h]⟩

theorem State.cFence_dataMoved (s : State) (c : Nat) : DataMoved c s (s.cFence c) := by
  obtain ⟨ca, h⟩ := s.cFence_only c
  exact ⟨by rw [h]; rfl, _, _, by rw [h, State.clove_setClove_same]⟩

end

end Sys2Proof.Machine

namespace Sys2Proof.Machine

/-! ## A granule that is written whole (08 R230, R244, 17 R517, R520) -/

section
variable {s : State} {d : Nat} {bs : Bytes} (hd : d % 64 = 0) (hbs : bs.length = 64)
include hd hbs

/-- Whether or not the controller's check finds the granule encrypted wrongly, its bytes are those written. -/
theorem State.byte_devWrite_granule (poi : Bool) (y : Nat) : (s.devWrite d bs poi).mem.byte y = (s.mem.mergeRange d bs poi).byte y := by
  obtain ⟨cs, hwrite⟩ := s.plainWrite_only d bs poi
  by_cases hcrypt : .crypt (chanOfAddr d) ∈ s.upsets ∧ isHbm d = true ∧ s.encrypts = true
  · obtain ⟨hupset, hhbm, hencrypts⟩ := hcrypt
    obtain ⟨cs, h⟩ := State.devWrite_crypt hhbm hencrypts hupset (bs := bs) (List.ne_nil_of_length_eq_add_one hbs) poi
    have hgranule : d / 64 * 64 = d := by omega
    rw [h]
    exact Mem.byte_poisonGranule hhbm (fun u hu => Mem.flips_mergeRange poi (by rwa [hgranule, ← hbs] at hu)) y
  · have hcheck : State.cryptCheck { s with cnts := cs, mem := s.mem.mergeRange d bs poi } d =
        { s with cnts := cs, mem := s.mem.mergeRange d bs poi } := by
      by_cases hupset : .crypt (chanOfAddr d) ∈ s.upsets
      · refine if_pos ?_
        rw [Bool.not_eq_true', Bool.and_eq_false_iff]
        by_cases hhbm : isHbm d = true
        · exact .inr (Bool.eq_false_iff.2 fun h => hcrypt ⟨hupset, hhbm, h⟩)
        · exact .inl (Bool.eq_false_iff.2 hhbm)
      · exact State.cryptCheck_none hupset
    simp only [State.devWrite, hwrite, hcheck, ite_self]

theorem State.devWrite_granule (poi : Bool) : Stored s (s.devWrite d bs poi) d 64 (bs.getD · 0) := by
  have hunit : d % unitBytes d = 0 ∧ bs.length % unitBytes d = 0 := by
    rcases unitBytes_cases d with h | h <;> rw [h] <;> omega
  refine ⟨fun k hk => ?_, fun y hy => ?_⟩ <;> rw [State.byte_devWrite_granule hd hbs]
  · exact Mem.byte_mergeRange_inside poi hunit.1 hunit.2 (by omega)
  · exact Mem.byte_mergeRange_outside poi hunit.1 hunit.2 (by omega)

theorem State.ccStore_granule (hreach : s.hbmLost d = false) (p : Option Nat) (poi : Bool) :
    Stored s (s.ccStore p d bs poi) d 64 (bs.getD · 0) := by
  obtain ⟨cs, c, hstore⟩ := State.ccStore_stands hreach p bs poi
  rw [hstore]
  exact State.devWrite_granule (s := { s with cnts := cs }) hd hbs poi

/-- A wrong byte on the hub's path poisons the granule, and its bytes are those written all the same. -/
theorem State.ccWrite_granule (hscratch : isHbm d = false) (p : Option Nat) (poi : Bool) :
    Stored s (s.ccWrite p d bs poi) d 64 (bs.getD · 0) := by
  have hreach (t : State) : t.hbmLost d = false := by simp [State.hbmLost, hscratch]
  by_cases hparity : .parity (homeHub d) ∈ s.upsets
  · rw [State.ccWrite_parity hparity p poi (by omega)]
    exact State.ccStore_granule hd hbs (hreach _) p true
  · rw [State.ccWrite_sound hparity]
    exact State.ccStore_granule hd hbs (hreach _) p poi

theorem State.cWrite_granule {c : Nat} {sh : Bool} (hreach : isScratch d = true → s.cLost c d = false) (poi : Bool) :
    Stored s (s.cWrite c (.dev d sh) bs poi) d 64 (bs.getD · 0) := by
  unfold State.cWrite
  by_cases hscratch : isScratch d = true
  · have hhbm : isHbm d = false := by
      simp only [isScratch, isHbm, Bool.and_eq_true, decide_eq_true_eq, Bool.and_eq_false_iff, decide_eq_false_iff_not] at *
      simp only [scratchBase, scratchTop, hbmBase, hbmTop] at *
      omega
    simp only [hscratch, if_true, hreach hscratch, Bool.false_eq_true, if_false]
    exact State.ccWrite_granule hd hbs hhbm _ poi
  · simp only [hscratch, Bool.false_eq_true, if_false]
    have hstored := State.devWrite_granule (s := s) hd hbs poi
    split
    · exact hstored
    · exact hstored

end

/-- Eight times the same eight bytes. -/
theorem pattern_getD {pat k : Nat} (hk : k < 64) :
    ((List.range 8).flatMap (fun _ => leBytes 8 pat)).getD k 0 = BitVec.ofNat 8 (pat / 256 ^ (k % 8)) := by
  have hword (l : List Nat) : ∀ k, k < 8 * l.length → (l.flatMap (fun _ => leBytes 8 pat)).getD k 0 = (leBytes 8 pat).getD (k % 8) 0 := by
    induction l with
    | nil => exact fun k hk => absurd hk (Nat.not_lt_zero k)
    | cons a l ih =>
      intro k hk
      rw [List.flatMap_cons]
      by_cases h : k < 8
      · rw [List.getD_append _ _ _ _ (by simpa using h), Nat.mod_eq_of_lt h]
      · rw [List.getD_append_right _ _ _ _ (by simpa using h), leBytes_length, ih (k - 8) (by simp at hk; omega),
          show (k - 8) % 8 = k % 8 by omega]
  rw [hword (List.range 8) k (by simpa using hk), leBytes_getD (by omega)]

/-- A FILL of one granule stores the pattern there (09 R264). -/
theorem State.cFill_one {s : State} {c d pat : Nat} {sh : Bool} {dst : Nat → Option CLoc} (hdst : dst 0 = some (.dev d sh))
    (hreach : isScratch d = true → s.cLost c d = false) (hd : d % 64 = 0) :
    Stored s (s.cFill c dst pat 1).2.2 d 64 fun k => BitVec.ofNat 8 (pat / 256 ^ (k % 8)) := by
  have hlen : ((List.range 8).flatMap (fun _ => leBytes 8 pat)).length = 64 := by simp [List.length_flatMap]
  obtain ⟨hin, hout⟩ := State.cWrite_granule hd hlen hreach (s := s) (sh := sh) (St.ok != St.ok)
  have hfill : (s.cFill c dst pat 1).2.2 = s.cWrite c (.dev d sh) ((List.range 8).flatMap (fun _ => leBytes 8 pat)) (St.ok != St.ok) := by
    unfold State.cFill
    generalize (List.range 8).flatMap (fun _ => leBytes 8 pat) = g
    simp [State.cBulk, hdst, show ¬ St.ok = St.accessFault by decide]
  rw [hfill]
  exact ⟨fun k hk => (hin k hk).trans (pattern_getD hk), hout⟩

end Sys2Proof.Machine

namespace Sys2Proof.Machine

/-! ## The extension instructions on memory (09 R261, R263 to R267) -/

/-- The atomic operations of CB.ATOM change memory and counters alone. -/
theorem State.cAtomic_dataOnly {s : State} {c p code fp d x : Nat} {r : ARes} (h : s.cAtomic c p code fp d x = some r) : DataOnly s r.st := by
  unfold State.cAtomic at h
  dsimp only at h
  split at h
  case h_1 =>
    cases h
    exact (DataOnly.ite (s.requesterFence_dataOnly d) (.refl s)).trans (State.rmw_dataOnly ..)
  case h_9 =>
    split at h
    · cases h
    obtain ⟨-, h⟩ := Option.ite_none_left_eq_some.1 h
    rw [← Option.some.inj h]
    split
    · exact State.pop_dataOnly ..
    · exact State.push_dataOnly ..
  all_goals
    cases h
    exact State.rmw_dataOnly ..

/-- A raised token that neither a lost hop, wrong parity nor the count's end meets. -/
theorem State.svcToken_adds {s : State} {die n k cnt : Nat} {by_ : Word} (hreach : s.svcLost die (tileOf n) = false)
    (hparity : (s.core n).seq.badParity.contains (parK k) = false) (hroom : (s.core n).k k + cnt ≤ 0xFFFF) :
    s.svcToken die n k cnt by_ = s.setCore n { s.core n with seq := { (s.core n).seq with
      k := SMap.set 0 (s.core n).seq.k k ((s.core n).k k + cnt), kBy := SMap.set 0 (s.core n).seq.kBy k by_ } } := by
  have hmin : min ((s.core n).k k + cnt) 0xFFFF = (s.core n).k k + cnt := Nat.min_eq_left hroom
  unfold State.svcToken State.tokenAdd
  rw [hreach]
  dsimp only
  rw [hparity]
  simp only [Bool.false_eq_true, if_false]
  rw [if_neg (show ¬ SMap.get 0 (s.core n).seq.k k + cnt > 0xFFFF from Nat.not_lt.2 hroom)]
  simp only [Core.k] at hmin ⊢
  rw [hmin]

section
variable {s : State} {c : ChanId} {word : Word} (hmay : s.cloveMay c = true) (hstall : (s.clove c).stallAt = none)
include hmay

section
include hstall

/-- An extension instruction that writes its result and goes on, after moving data. -/
theorem State.cAlone_cRd {op f3 v : Nat} {f : State → Nat → Nat → CX} {q : State} (hop : iOp word.toNat = op) (hf3 : iF3 word.toNat = f3)
    (hf : f s c word.toNat = q.cRd c word.toNat v) (hmoved : DataMoved c s q) :
    ∃ t, s.cAlone c op f3 word f = t ∧ Went s t c word.toNat v ∧ t.mem = q.mem ∧ t.cores = s.cores := by
  rw [State.cAlone_eq f hmay hop hf3, hf]
  exact hmoved.cEnd_cRd hstall _ _

theorem cbCopy_moves (hthrottle : s.cloveThrottle c ≠ 2) (hop : iOp word.toNat = 0x0B) (hf3 : iF3 word.toNat = 0) (hf7 : iF7 word.toNat = 0)
    (hok : s.bulkOk c [s.cx c (iRs1 word.toNat), s.cx c (iRs2 word.toNat)] = true) :
    let r := s.cCopy c (s.cGran c (s.cx c (iRs2 word.toNat)) .read) (s.cGran c (s.cx c (iRs1 word.toNat)) .write) (s.ccsr c Csr.clen / 64)
    ∃ t, exec (.cbCopy c word) s = .next t ∧ Went s t c word.toNat r.1 ∧ t.mem = r.2.2.mem ∧ t.cores = s.cores := by
  intro r
  have hext : State.cExt s c word.toNat = r.2.2.cRd c word.toNat r.1 := by
    simp only [State.cExt, hop, if_true, hf3, hf7, ne_eq, not_true_eq_false, if_false, State.cbCopy, hok, Bool.not_true, Bool.false_eq_true,
      State.cStalled_open hthrottle]
    rfl
  obtain ⟨t, ht, hwent⟩ := State.cAlone_cRd hmay hstall hop hf3 hext (State.cCopy_dataMoved ..)
  exact ⟨t, congrArg Host.Outcome.next ht, hwent⟩

theorem cbFill_moves (hthrottle : s.cloveThrottle c ≠ 2) (hop : iOp word.toNat = 0x0B) (hf3 : iF3 word.toNat = 1) (hf7 : iF7 word.toNat = 0)
    (hrs2 : iRs2 word.toNat = 0) (hok : s.bulkOk c [s.cx c (iRs1 word.toNat)] = true) :
    let r := s.cFill c (s.cGran c (s.cx c (iRs1 word.toNat)) .write) (s.ccsr c Csr.cfillLo + 2 ^ 32 * s.ccsr c Csr.cfillHi)
      (s.ccsr c Csr.clen / 64)
    ∃ t, exec (.cbFill c word) s = .next t ∧ Went s t c word.toNat r.1 ∧ t.mem = r.2.2.mem ∧ t.cores = s.cores := by
  intro r
  have hext : State.cExt s c word.toNat = r.2.2.cRd c word.toNat r.1 := by
    simp only [State.cExt, hop, if_true, hf3, hf7, hrs2, ne_eq, not_true_eq_false, if_false, State.cbFill, hok, Bool.not_true,
      Bool.false_eq_true, or_self, State.cStalled_open hthrottle]
    rfl
  obtain ⟨t, ht, hwent⟩ := State.cAlone_cRd hmay hstall hop hf3 hext (State.cFill_dataMoved ..)
  exact ⟨t, congrArg Host.Outcome.next ht, hwent⟩

/-- CMP's result is all ones, or the offset of the first granule that differs. -/
theorem cbCmp_moves (hthrottle : s.cloveThrottle c ≠ 2) (hop : iOp word.toNat = 0x0B) (hf3 : iF3 word.toNat = 2) (hf7 : iF7 word.toNat = 0)
    (hok : s.bulkOk c [s.cx c (iRs1 word.toNat), s.cx c (iRs2 word.toNat)] = true) {x : CCmp} {v : Nat} {q : State}
    (hx : x = .same ∧ v = 0xFFFFFFFF ∨ x = .differ v)
    (hcmp : s.cCmp c (s.cGran c (s.cx c (iRs1 word.toNat)) .read) (s.cGran c (s.cx c (iRs2 word.toNat)) .read) 0 (s.ccsr c Csr.clen / 64) =
      (x, q)) :
    ∃ t, exec (.cbCmp c word) s = .next t ∧ Went s t c word.toNat v ∧ t.mem = q.mem ∧ t.cores = s.cores := by
  have hmoved := State.cCmp_dataMoved s c (s.cGran c (s.cx c (iRs1 word.toNat)) .read) (s.cGran c (s.cx c (iRs2 word.toNat)) .read) 0
    (s.ccsr c Csr.clen / 64)
  rw [hcmp] at hmoved
  have hext : State.cExt s c word.toNat = q.cRd c word.toNat v := by
    simp only [State.cExt, hop, if_true, hf3, hf7, ne_eq, not_true_eq_false, if_false, State.cbCmp, hok, Bool.not_true, Bool.false_eq_true,
      State.cStalled_open hthrottle, hcmp]
    rcases hx with ⟨rfl, rfl⟩ | rfl <;> rfl
  obtain ⟨t, ht, hwent⟩ := State.cAlone_cRd hmay hstall hop hf3 hext hmoved
  exact ⟨t, congrArg Host.Outcome.next ht, hwent⟩

theorem cbFence_fences (hop : iOp word.toNat = 0x0B) (hf3 : iF3 word.toNat = 6) (hf7 : iF7 word.toNat = 0) (hrd : iRd word.toNat = 0)
    (hrs1 : iRs1 word.toNat = 0) (hrs2 : iRs2 word.toNat = 0) (hout : s.chainOut c = false) :
    ∃ t, exec (.cbFence c word) s = .next t ∧ Went s t c word.toNat 0 ∧ (t.clove c).dirty = [] ∧ Unmoved s t ∧ t.regs = s.regs ∧
      ∀ l ∈ (s.clove c).dirty, SMap.get false t.cache.lines l = false := by
  have hfence : State.cbFence s c word.toNat = (s.cFence c).cRd c word.toNat 0 := by
    simp [State.cbFence, hf7, hrd, hrs1, hrs2, hout]
  have hmoved := s.cFence_dataMoved c
  obtain ⟨r, p, k, hend, hwent⟩ := State.cEnd_cRd_went word.toNat 0 hmoved.x hmoved.pc (hmoved.stallAt.trans hstall)
  obtain ⟨ca, hq⟩ := s.cFence_only c
  have hrun : exec (.cbFence c word) s = .next (State.cEnd c ((s.cFence c).cRd c word.toNat 0)) :=
    congrArg Host.Outcome.next ((State.cAlone_eq _ hmay hop hf3).trans (by rw [hfence]))
  refine ⟨_, hrun, hwent, ?_, ⟨?_, ?_⟩, ?_, fun l hl => ?_⟩ <;> rw [hend]
  · rw [State.clove_setClove_same, hq, State.clove_setClove_same]
  · rw [hq]; rfl
  · rw [hq]; rfl
  · rw [hq]; rfl
  · exact State.dropLines_line hl

theorem cbAtom_runs {d : Nat} {sh : Bool} {r : ARes} (hop : iOp word.toNat = 0x0B) (hf3 : iF3 word.toNat = 7) (hfp : iF7 word.toNat / 16 ≤ 1)
    (hcode : iF7 word.toNat % 16 ≠ 0 ∧ iF7 word.toNat % 16 ≤ 10) (hfloat : iF7 word.toNat / 16 = 1 → iF7 word.toNat % 16 ≤ 3)
    (hloc : s.cLoc c (s.cx c (iRs1 word.toNat)) (s.cUser c) .atomic = some (.dev d sh)) (hreach : s.cLost c d = false)
    (hthrottle : s.cloveThrottle c ≠ 2) (hatomic : s.cAtomic c ((s.partOfChan c).getD 0) (iF7 word.toNat % 16) (iF7 word.toNat / 16) d
      (s.cx c (iRs2 word.toNat)) = some r) :
    ∃ t, exec (.cbAtom c word) s = .next t ∧ Went s t c word.toNat (if r.status = St.ok then r.old else 0xFFFFFF00 + r.status) ∧
      t.mem = r.st.mem ∧ t.cores = s.cores := by
  obtain ⟨hzero, hten⟩ := hcode
  have hlegal : ¬ (iF7 word.toNat / 16 > 1 ∨ iF7 word.toNat % 16 = 0 ∨ iF7 word.toNat % 16 > 10 ∨
      iF7 word.toNat / 16 = 1 ∧ iF7 word.toNat % 16 > 3) := by omega
  have hf : State.cbAtom s c word.toNat = r.st.cRd c word.toNat (if r.status = St.ok then r.old else 0xFFFFFF00 + r.status) := by
    simp only [State.cbAtom, hlegal, if_false, hloc, State.cStalled_open hthrottle, Bool.false_eq_true, hreach, hatomic]
  obtain ⟨t, ht, hwent⟩ := State.cAlone_cRd hmay hstall hop hf3 hf (State.cAtomic_dataOnly hatomic).dataMoved
  exact ⟨t, congrArg Host.Outcome.next ht, hwent⟩

theorem cbTraise_adds {p k : Nat} (hop : iOp word.toNat = 0x2B) (hf3 : iF3 word.toNat = 0) (hf7 : iF7 word.toNat = 0)
    (hrd : iRd word.toNat = 0) (hout : s.chainOut c = false) (hchan : s.partOfChan c = some p)
    (hcore : s.partOfCore (s.cx c (iRs1 word.toNat) % 16384) = some p)
    (hreach : s.svcLost (c / 64) (tileOf (s.cx c (iRs1 word.toNat) % 16384)) = false)
    (hparity : (s.core (s.cx c (iRs1 word.toNat) % 16384)).seq.badParity.contains (parK (s.cx c (iRs2 word.toNat) % 16)) = false)
    (hk : (s.core (s.cx c (iRs1 word.toNat) % 16384)).k (s.cx c (iRs2 word.toNat) % 16) = k)
    (hroom : k + s.cx c (iRs2 word.toNat) / 256 % 256 ≤ 0xFFFF) :
    ∃ t, exec (.cbTraise c word) s = .next t ∧ Went s t c word.toNat 0 ∧
      (t.core (s.cx c (iRs1 word.toNat) % 16384)).k (s.cx c (iRs2 word.toNat) % 16) = k + s.cx c (iRs2 word.toNat) / 256 % 256 ∧
      (∀ j, j ≠ s.cx c (iRs1 word.toNat) % 16384 → t.core j = s.core j) ∧ t.mem = s.mem ∧ t.regs = s.regs := by
  subst hk
  generalize hn : s.cx c (iRs1 word.toNat) % 16384 = n at *
  generalize hi : s.cx c (iRs2 word.toNat) % 16 = i at *
  generalize hadd : s.cx c (iRs2 word.toNat) / 256 % 256 = add at *
  have hmoved := s.cFence_dataMoved c
  obtain ⟨ca, hfence⟩ := s.cFence_only c
  generalize hu : s.cFence c = u at *
  have howner : (u.partOfChan c).isSome = true ∧ u.partOfCore n = u.partOfChan c := by
    rw [hfence]
    exact ⟨Option.isSome_iff_exists.2 ⟨p, hchan⟩, hcore.trans hchan.symm⟩
  have hcores : u.core n = s.core n := congrArg (SMap.get Core.reset · n) hmoved.cores
  have hraise := State.svcToken_adds (s := u) (die := c / 64) (by_ := peerReq (reqClove c)) (by rw [hfence]; exact hreach)
    (by rw [hcores]; exact hparity) (by rw [hcores]; exact hroom)
  have hf : State.cbTraise s c word.toNat = (u.svcToken (c / 64) n i add (peerReq (reqClove c))).cRd c word.toNat 0 := by
    simp only [State.cbTraise, hf7, hrd, ne_eq, not_true_eq_false, or_self, if_false, hout, Bool.false_eq_true, hn, hi, hadd, hu, howner,
      and_self, if_true]
  rw [hraise, hcores] at hf
  obtain ⟨r, q, l, hend, hwent⟩ := State.cEnd_cRd_went (s := s) (c := c) (q := u.setCore n { s.core n with seq := { (s.core n).seq with
      k := SMap.set 0 (s.core n).seq.k i ((s.core n).k i + add), kBy := SMap.set 0 (s.core n).seq.kBy i (peerReq (reqClove c)) } })
    word.toNat 0 hmoved.x hmoved.pc (hmoved.stallAt.trans hstall)
  have hrun : exec (.cbTraise c word) s = .next (State.cEnd c _) :=
    congrArg Host.Outcome.next ((State.cAlone_eq _ hmay hop hf3).trans (congrArg (State.cEnd c) hf))
  refine ⟨_, hrun, hwent, ?_, fun j hj => ?_, ?_, ?_⟩ <;> rw [hend]
  · exact (congrArg (fun x : Core => x.k i) (State.core_setCore_same ..)).trans (SMap.get_set_same ..)
  · exact (State.core_setCore_other _ _ hj).trans (congrArg (SMap.get Core.reset · j) hmoved.cores)
  · rw [hfence]; rfl
  · rw [hfence]; rfl

end

/-! ### What a chain send that is not complete holds back (09 R261) -/

section
variable (hout : s.chainOut c = true)
include hout

theorem cbFence_waits (hop : iOp word.toNat = 0x0B) (hf3 : iF3 word.toNat = 6) (hf7 : iF7 word.toNat = 0) (hrd : iRd word.toNat = 0)
    (hrs1 : iRs1 word.toNat = 0) (hrs2 : iRs2 word.toNat = 0) : exec (.cbFence c word) s = .next s :=
  congrArg Host.Outcome.next ((State.cAlone_eq _ hmay hop hf3).trans (by simp [State.cbFence, hf7, hrd, hrs1, hrs2, hout, State.cEnd]))

theorem cbTraise_waits (hop : iOp word.toNat = 0x2B) (hf3 : iF3 word.toNat = 0) (hf7 : iF7 word.toNat = 0) (hrd : iRd word.toNat = 0) :
    exec (.cbTraise c word) s = .next s :=
  congrArg Host.Outcome.next ((State.cAlone_eq _ hmay hop hf3).trans (by simp [State.cbTraise, hf7, hrd, hout, State.cEnd]))

theorem cbDone_waits (hop : iOp word.toNat = 0x2B) (hf3 : iF3 word.toNat = 1) (hf7 : iF7 word.toNat = 0) (hrd : iRd word.toNat = 0)
    (hmachine : (s.clove c).machineMode = true) : exec (.cbDone c word) s = .next s :=
  congrArg Host.Outcome.next ((State.cAlone_eq _ hmay hop hf3).trans (by simp [State.cbDone, hf7, hrd, hmachine, hout, State.cEnd]))

end

end

end Sys2Proof.Machine

namespace Sys2Proof.Machine

/-- Settles O28: each instruction is the state that its shared operation leaves, with rd, the pc and a CSR written on it. -/
theorem cloveBulk : Obligations.CloveBulk := by
  intro s c word hmay hstall w x a b m n is goes ends free pat
  refine ⟨?copy, ?fill, ?cmp, ?held, ?fence, ?atom, ?traise⟩
  case copy =>
    rintro ⟨hop, hf3, hf7⟩ ⟨hok, hthrottle⟩
    exact cbCopy_moves hmay hstall hthrottle hop hf3 hf7 hok
  case fill =>
    rintro ⟨hop, hf3, hf7⟩ hrs2 ⟨hok, hthrottle⟩
    obtain ⟨t, hrun, hwent, hmem, hcores⟩ := cbFill_moves hmay hstall hthrottle hop hf3 hf7 hrs2 hok
    refine ⟨t, hrun, ⟨hwent, hmem, hcores⟩, fun d sh hn hdst hreach hd => ?_⟩
    have hn' : s.ccsr c Csr.clen / 64 = 1 := hn
    rw [hn'] at hmem
    obtain ⟨hin, hout⟩ := State.cFill_one (pat := pat) hdst hreach hd
    exact ⟨fun k hk => hmem ▸ hin k hk, fun y hy => hmem ▸ hout y hy⟩
  case cmp =>
    rintro o q ⟨hop, hf3, hf7⟩ ⟨hok, hthrottle⟩
    exact ⟨cbCmp_moves hmay hstall hthrottle hop hf3 hf7 hok (.inl ⟨rfl, rfl⟩),
      cbCmp_moves hmay hstall hthrottle hop hf3 hf7 hok (.inr rfl)⟩
  case held =>
    intro hout
    exact ⟨fun ⟨hop, hf3, hf7⟩ => cbFence_waits hmay hout hop hf3 hf7, fun ⟨hop, hf3, hf7⟩ => cbTraise_waits hmay hout hop hf3 hf7,
      fun ⟨hop, hf3, hf7⟩ => cbDone_waits hmay hout hop hf3 hf7⟩
  case fence =>
    rintro ⟨hop, hf3, hf7⟩ hrd hrs1 hrs2 hout
    exact cbFence_fences hmay hstall hop hf3 hf7 hrd hrs1 hrs2 hout
  case atom =>
    exact fun d sh r hop hf3 hfp hzero hten hfloat hloc hreach hthrottle hatomic =>
      cbAtom_runs hmay hstall hop hf3 hfp ⟨hzero, hten⟩ hfloat hloc hreach hthrottle hatomic
  case traise =>
    rintro p k ⟨hop, hf3, hf7⟩ hrd hout hchan hcore hreach hparity hk hroom
    exact cbTraise_adds hmay hstall hop hf3 hf7 hrd hout hchan hcore hreach hparity hk hroom

end Sys2Proof.Machine

namespace Sys2Proof.Machine

/-! ## The chain of a stack's Clove cores (09 R268 to R270, 17 R517) -/

/-! ### Words of local memory -/

/-- Local memory lies below every device address, and its unit is a word. -/
theorem unitBytes_local {u : Nat} (h : u < 0x10000) : unitBytes u = 8 := by
  have hbelow : ¬ hbmBase ≤ u := by
    rw [hbmBase]
    omega
  simp [unitBytes, isHbm, hbelow]

theorem Mem.unit_local {m : Mem} {u : Nat} (h : u < 0x10000) : m.unit u = m.wordUnit u := by
  rw [Mem.unit, unitBytes_local h, Mem.unitAt, if_neg (by decide)]

theorem Mem.wordUnit_clean {m : Mem} {u : Nat} (hpoison : SMap.get false m.poison u = false) (hflips : SMap.get 0 m.flips u = 0) :
    (m.wordUnit u).bad = 0 := by
  have hcheck : (m.word u).2.2 = .clean := Mem.word_clean hflips
  have hpoisoned : (m.word u).2.1 = false := by simp [Mem.word, hpoison, hflips, secded_zero]
  rw [Mem.wordUnit]
  simp only [hcheck, hpoisoned, Bool.false_eq_true, if_false, reduceCtorEq]

theorem State.cDev_ne_loc {s : State} {c pa o : Nat} {acc : Acc} {hbm scratch : Bool} : s.cDev c pa acc hbm scratch ≠ some (.loc o) := by
  unfold State.cDev
  split
  · split
    · split <;> simp
    · simp
  · split <;> simp

/-- A core's local operand in its map. -/
theorem State.cLoc_local {s : State} {c a o : Nat} {user : Bool} {acc : Acc} (h : s.cLoc c a user acc = some (.loc o)) :
    a = 0x10000 + o ∧ o < 0x10000 := by
  unfold State.cLoc at h
  split at h
  · split at h <;> simp at h
  split at h
  next hin =>
    split at h
    · simp at h
    · have ho : a - 0x10000 = o := CLoc.loc.inj (Option.some.inj h)
      omega
  split at h
  · exact absurd h State.cDev_ne_loc
  split at h
  · exact absurd h State.cDev_ne_loc
  · simp at h

/-! ### A message as the link carries it -/

/-- The bytes of the whole words of a granule of local memory, and what is wrong with each. -/
def Mem.localWords (m : Mem) (o : Nat) : List URead := (wordsOf o 64).map m.unit

section
variable {m : Mem} {o : Nat} (ho : o % 64 = 0) (hin : o < 0x10000)
include ho hin

theorem mem_wordsOf {u : Nat} (hu : u ∈ wordsOf o 64) : u < 0x10000 := by
  simp only [wordsOf, List.mem_map, List.mem_range] at hu
  obtain ⟨i, hi, rfl⟩ := hu
  omega

theorem Mem.localWords_length : ((m.localWords o).flatMap (·.data)).length = 64 := by
  have hword : ∀ l : List Nat, (∀ u ∈ l, u < 0x10000) → ((l.map m.unit).flatMap (·.data)).length = 8 * l.length := by
    intro l
    induction l with
    | nil => exact fun _ => rfl
    | cons u l ih =>
      intro hl
      have hu : (m.unit u).data.length = 8 := by
        rw [Mem.unit, Mem.unitAt_length (unitBytes_cases u), unitBytes_local (hl u (by simp))]
      rw [List.map_cons, List.flatMap_cons, List.length_append, hu, ih fun v hv => hl v (by simp [hv]), List.length_cons]
      omega
  rw [Mem.localWords, hword _ fun u hu => mem_wordsOf ho hin hu, wordsOf, List.length_map, List.length_range]
  omega

/-- What a read of the granule delivers is all of its words. -/
theorem State.cRead_localWords {s : State} {c : Nat} :
    (s.cRead c (.loc o) 64).1 = ((s.clove c).localMem.localWords o).flatMap (·.data) := by
  have hlen := Mem.localWords_length (m := (s.clove c).localMem) ho hin
  have hread : (s.cRead c (.loc o) 64).1 = ((((s.clove c).localMem.localWords o).flatMap (·.data)).drop (o % 8)).take 64 := by
    simp only [State.cRead, Mem.localWords, List.flatMap_map]
  rw [hread, show o % 8 = 0 by omega, List.drop_zero, List.take_of_length_le (by omega)]

theorem Mem.localWords_clean (hpoison : m.poison = []) (hflips : m.flips = []) : ∀ u ∈ m.localWords o, u.bad = 0 := by
  intro u hu
  obtain ⟨v, hv, rfl⟩ := List.mem_map.1 hu
  rw [Mem.unit_local (mem_wordsOf ho hin hv)]
  exact Mem.wordUnit_clean (by rw [hpoison]; rfl) (by rw [hflips]; rfl)

end

/-- The poison of a message, a bit for each word. -/
def wordPoison (us : List URead) : Nat := us.zipIdx.foldl (fun m u => if u.1.bad ≠ 0 then m + 2 ^ u.2 else m) 0

theorem wordPoison_clean {us : List URead} (h : ∀ u ∈ us, u.bad = 0) : wordPoison us = 0 :=
  foldl_frame (fun m : Nat => m) (fun _ u hu => if_neg (not_not.2 (h u.1 (List.fst_mem_of_mem_zipIdx hu)))) 0

/-- A message's bits are those of its bytes. -/
theorem leBytes_ofNat {n : Nat} {bs : Bytes} (h : bs.length = n) : leBytes n (BitVec.ofNat (8 * n) (leVal bs)).toNat = bs := by
  have hlt : leVal bs < 256 ^ n := h ▸ leVal_lt bs
  rw [BitVec.toNat_ofNat, Nat.pow_mul, Nat.mod_eq_of_lt hlt, ← h, leBytes_leVal]

/-! ### What the instructions do -/

theorem Clove.fifo_setFifo (x : Clove) (dir : Nat) (q : List (BitVec 512 × Nat)) : (x.setFifo dir q).fifo dir = q := by
  unfold Clove.setFifo Clove.fifo
  split
  · simp
  · simp

theorem Clove.setFifo_only (x : Clove) (dir : Nat) (q : List (BitVec 512 × Nat)) :
    ∃ u d, x.setFifo dir q = { x with fifoUp := u, fifoDn := d } := by
  unfold Clove.setFifo
  split
  · exact ⟨x.fifoUp, q, rfl⟩
  · exact ⟨q, x.fifoDn, rfl⟩

/-- What a wrong byte on core c's link does to the state: it is counted. -/
def State.linkUpset (s : State) (c : Nat) : State := State.countField { s with upsets := s.upsets.erase (.parity (256 + c)) } Reg.errDevice 8 8 1

theorem State.chainPut_sound {s : State} {c : Nat} (h : .parity (256 + c) ∉ s.upsets) (dir : Nat) (msg : BitVec 512) (poi : Nat) :
    s.chainPut c dir msg poi = s.setClove c { s.clove c with wire := (s.clove c).wire ++ [(dir == 1, msg, poi)] } := by
  simp [State.chainPut, State.parity, State.takeUpset, h]

theorem State.chainPut_parity {s : State} {c : Nat} (h : .parity (256 + c) ∈ s.upsets) (dir : Nat) (msg : BitVec 512) (poi : Nat) :
    s.chainPut c dir msg poi = (s.linkUpset c).setClove c { s.clove c with wire := (s.clove c).wire ++ [(dir == 1, msg, 255)] } := by
  simp [State.chainPut, State.parity, State.takeUpset, h, State.linkUpset]
  rfl

theorem State.countField_counted (s : State) (o : Nat) {lo : Nat} (h : lo + 8 ≤ 32) : Counted s (s.countField o lo 8 1) o lo := by
  unfold Counted State.countField
  rw [State.reg_setField_same, bits_setBits_same _ _ _ _ h]
  omega

section
variable {s : State} {c : ChanId} {word : Word} {dir : Nat}

/-- An instruction that writes its result and goes on, and changes no more of the core's registers. -/
theorem State.cAlone_cRd_only {op f3 v : Nat} {f : State → Nat → Nat → CX} {q : State} (hmay : s.cloveMay c = true)
    (hstall : (s.clove c).stallAt = none) (hop : iOp word.toNat = op) (hf3 : iF3 word.toNat = f3)
    (hf : f s c word.toNat = q.cRd c word.toNat v) (hx : (q.clove c).x = (s.clove c).x) (hpc : (q.clove c).pc = (s.clove c).pc)
    (hwait : (q.clove c).stallAt = (s.clove c).stallAt) : ∃ r p k, s.cAlone c op f3 word f =
      q.setClove c { q.clove c with x := r, pc := p, csr := k } ∧
        Went s (q.setClove c { q.clove c with x := r, pc := p, csr := k }) c word.toNat v := by
  rw [State.cAlone_eq f hmay hop hf3, hf]
  obtain ⟨r, p, k, hend, hwent⟩ := State.cEnd_cRd_went word.toNat v hx hpc (hwait.trans hstall)
  exact ⟨r, p, k, hend, hend ▸ hwent⟩

section
variable (hdir : iF7 word.toNat = dir) (hle : dir ≤ 1) (hrs2 : iRs2 word.toNat = 0) (halign : s.cx c (iRs1 word.toNat) % 64 = 0)
include hdir hle hrs2 halign

theorem State.cbChsend_down (hnone : s.neighbour c dir = none) : s.cbChsend c word.toNat = s.cRd c word.toNat St.linkDown := by
  have hmod : dir % 2 = dir := by omega
  have hlegal : ¬ (dir > 1 ∨ iRs2 word.toNat ≠ 0) := by omega
  simp only [State.cbChsend, hdir, hmod, hlegal, halign, hnone, ne_eq, not_true_eq_false, if_false]

theorem State.cbChrecv_down (hnone : s.neighbour c dir = none) : s.cbChrecv c word.toNat = s.cRd c word.toNat St.linkDown := by
  have hmod : dir % 2 = dir := by omega
  have hlegal : ¬ (dir > 1 ∨ iRs2 word.toNat ≠ 0) := by omega
  simp only [State.cbChrecv, hdir, hmod, hlegal, halign, hnone, ne_eq, not_true_eq_false, if_false]

section
variable {n o : Nat} (hsome : s.neighbour c dir = some n)
include hsome

section
variable (hloc : s.cLoc c (s.cx c (iRs1 word.toNat)) (s.cUser c) .read = some (.loc o))
include hloc

theorem State.cbChsend_full (hroom : s.chainRoom c n dir = 0) : s.cbChsend c word.toNat = .wait (s.cBlock c (2 + dir)) := by
  have hmod : dir % 2 = dir := by omega
  have hlegal : ¬ (dir > 1 ∨ iRs2 word.toNat ≠ 0) := by omega
  simp only [State.cbChsend, hdir, hmod, hlegal, halign, hsome, hloc, hroom, ne_eq, not_true_eq_false, if_false, if_true]

/-- The message is the granule's words, with the poison of each. -/
theorem State.cbChsend_sends (hroom : s.chainRoom c n dir ≠ 0) : s.cbChsend c word.toNat =
    (((s.cRead c (.loc o) 64).2.2.chainPut c dir
      (BitVec.ofNat 512 (leVal (((s.clove c).localMem.localWords o).flatMap (·.data))))
      (wordPoison ((s.clove c).localMem.localWords o))).cUnblock c).cRd c word.toNat St.ok := by
  have hmod : dir % 2 = dir := by omega
  have hlegal : ¬ (dir > 1 ∨ iRs2 word.toNat ≠ 0) := by omega
  simp only [State.cbChsend, hdir, hmod, hlegal, halign, hsome, hloc, hroom, ne_eq, not_true_eq_false, if_false, Mem.localWords, wordPoison]

end

section
variable (hloc : s.cLoc c (s.cx c (iRs1 word.toNat)) (s.cUser c) .write = some (.loc o))
include hloc

theorem State.cbChrecv_empty (hfifo : (s.clove c).fifo dir = []) : s.cbChrecv c word.toNat = .wait (s.cBlock c dir) := by
  have hmod : dir % 2 = dir := by omega
  have hlegal : ¬ (dir > 1 ∨ iRs2 word.toNat ≠ 0) := by omega
  simp only [State.cbChrecv, hdir, hmod, hlegal, halign, hsome, hloc, hfifo, ne_eq, not_true_eq_false, if_false]

theorem State.cbChrecv_takes {msg : BitVec 512} {poi : Nat} {q : List (BitVec 512 × Nat)} (hfifo : (s.clove c).fifo dir = (msg, poi) :: q) :
    s.cbChrecv c word.toNat = ((s.setClove c { (s.clove c).setFifo dir q with
      localMem := ((s.clove c).setFifo dir q).localMem.putWords o 8 (fun i => ((leBytes 64 msg.toNat).drop (8 * i)).take 8) (bitOf poi)
      }).cUnblock c).cRd c word.toNat St.ok := by
  have hmod : dir % 2 = dir := by omega
  have hlegal : ¬ (dir > 1 ∨ iRs2 word.toNat ≠ 0) := by omega
  simp only [State.cbChrecv, hdir, hmod, hlegal, halign, hsome, hloc, hfifo, ne_eq, not_true_eq_false, if_false, Mem.putWords]

end

end

end

end

end Sys2Proof.Machine

namespace Sys2Proof.Machine

/-- The result `v` in rd, the pc after the instruction; memory, cores and registers as before. -/
def WentAlone (s t : State) (c w v : Nat) : Prop :=
  (iRd w ≠ 0 → t.cx c (iRd w) = v) ∧ (∀ i, i ≠ iRd w → t.cx c i = s.cx c i) ∧
    (t.clove c).pc.toNat = ((s.clove c).pc.toNat + 4) % 2 ^ 32 ∧ Unmoved s t ∧ t.regs = s.regs

theorem Went.alone {s t : State} {c w v : Nat} (h : Went s t c w v) (hv : v < 2 ^ 32) (hmem : t.mem = s.mem) (hcores : t.cores = s.cores)
    (hregs : t.regs = s.regs) : WentAlone s t c w v := by
  obtain ⟨hrd, hother, hpc⟩ := h
  exact ⟨fun h => (hrd h).trans (Nat.mod_eq_of_lt hv), hother, hpc, ⟨hmem, hcores⟩, hregs⟩

/-- The core tries its instruction again: pc, registers, links and local memory as before, and nothing else but the time of its wait. -/
def Waited (s t : State) (c : Nat) : Prop :=
  (t.clove c).pc = (s.clove c).pc ∧ (t.clove c).x = (s.clove c).x ∧ (t.clove c).wire = (s.clove c).wire ∧
    (t.clove c).localMem = (s.clove c).localMem ∧ Unmoved s t ∧ t.regs = s.regs

theorem State.cBlock_waited (s : State) (c det : Nat) : Waited s (s.cBlock c det) c := by
  refine ⟨?_, ?_, ?_, ?_, ⟨rfl, rfl⟩, rfl⟩ <;> rw [State.cBlock, State.clove_setClove_same]

theorem State.cRead_local (s : State) (c o : Nat) : ∃ m, (s.cRead c (.loc o) 64).2.2 = s.setClove c { s.clove c with localMem := m } :=
  ⟨_, rfl⟩

@[simp] theorem State.upsets_setClove (s : State) (c : Nat) (x : Clove) : (s.setClove c x).upsets = s.upsets := rfl

section
variable {s : State} {c : ChanId} {word : Word} (hmay : s.cloveMay c = true) (hstall : (s.clove c).stallAt = none)
  (hblock : (s.clove c).blockAt = none) (hop : iOp word.toNat = 0x0B) (hle : iF7 word.toNat ≤ 1)

section
variable (hrs2 : iRs2 word.toNat = 0) (halign : s.cx c (iRs1 word.toNat) % 64 = 0)
include hmay hop hle hrs2 halign

section
include hstall

theorem chsend_down (hf3 : iF3 word.toNat = 3) (hnone : s.neighbour c (iF7 word.toNat) = none) : ∃ t, exec (.cbChsend c word) s = .next t ∧
    WentAlone s t c word.toNat St.linkDown ∧ (t.clove c).wire = (s.clove c).wire := by
  obtain ⟨r, p, k, hend, hwent⟩ := State.cAlone_cRd_only hmay hstall hop hf3 (State.cbChsend_down rfl hle hrs2 halign hnone) rfl rfl rfl
  exact ⟨_, congrArg Host.Outcome.next hend, hwent.alone (by decide) rfl rfl rfl, by rw [State.clove_setClove_same]⟩

theorem chrecv_down (hf3 : iF3 word.toNat = 4) (hnone : s.neighbour c (iF7 word.toNat) = none) : ∃ t, exec (.cbChrecv c word) s = .next t ∧
    WentAlone s t c word.toNat St.linkDown ∧ (t.clove c).localMem = (s.clove c).localMem := by
  obtain ⟨r, p, k, hend, hwent⟩ := State.cAlone_cRd_only hmay hstall hop hf3 (State.cbChrecv_down rfl hle hrs2 halign hnone) rfl rfl rfl
  exact ⟨_, congrArg Host.Outcome.next hend, hwent.alone (by decide) rfl rfl rfl, by rw [State.clove_setClove_same]⟩

end

section
variable {n o : Nat} (hf3 : iF3 word.toNat = 3) (hsome : s.neighbour c (iF7 word.toNat) = some n)
  (hloc : s.cLoc c (s.cx c (iRs1 word.toNat)) (s.cUser c) .read = some (.loc o))
include hf3 hsome hloc

theorem chsend_waits (hroom : s.chainRoom c n (iF7 word.toNat) = 0) : ∃ t, exec (.cbChsend c word) s = .next t ∧ Waited s t c :=
  ⟨_, congrArg Host.Outcome.next ((State.cAlone_eq _ hmay hop hf3).trans
    (by rw [State.cbChsend_full rfl hle hrs2 halign hsome hloc hroom]; rfl)), s.cBlock_waited c _⟩

variable (hroom : s.chainRoom c n (iF7 word.toNat) ≠ 0)
include hstall hblock hroom

/-- A message whose path has a wrong byte is counted and goes out poisoned whole. -/
theorem chsend_upset (hupset : s.upsets = [.parity (256 + c.val)]) : ∃ t msg, exec (.cbChsend c word) s = .next t ∧
    (t.clove c).wire = (s.clove c).wire ++ [(iF7 word.toNat == 1, msg, 255)] ∧ t.upsets = [] ∧
    leBytes 64 msg.toNat = (s.cRead c (.loc o) 64).1 ∧ Counted s t Reg.errDevice 8 := by
  obtain ⟨hplace, hin⟩ := State.cLoc_local hloc
  have ho : o % 64 = 0 := by omega
  obtain ⟨m, hread⟩ := s.cRead_local c o
  have hf := State.cbChsend_sends rfl hle hrs2 halign hsome hloc hroom
  rw [hread, State.chainPut_parity (by rw [State.upsets_setClove, hupset]; exact List.mem_singleton_self _),
    State.cUnblock_none (by simpa using hblock)] at hf
  obtain ⟨r, p, k, hend, hwent⟩ := State.cAlone_cRd_only hmay hstall hop hf3 hf (by simp) (by simp) (by simp)
  refine ⟨_, _, congrArg Host.Outcome.next hend, ?_, ?_, (leBytes_ofNat (Mem.localWords_length ho hin)).trans
    (State.cRead_localWords ho hin).symm, ?_⟩
  · simp only [State.clove_setClove_same]
  · have herase : s.upsets.erase (.parity (256 + c.val)) = [] := by simp [hupset]
    exact herase
  · exact s.countField_counted Reg.errDevice (by decide)

theorem chsend_sends (hupset : s.upsets = []) : ∃ t msg poi, exec (.cbChsend c word) s = .next t ∧ WentAlone s t c word.toNat St.ok ∧
    (t.clove c).wire = (s.clove c).wire ++ [(iF7 word.toNat == 1, msg, poi)] ∧ leBytes 64 msg.toNat = (s.cRead c (.loc o) 64).1 ∧
    ((s.clove c).localMem.poison = [] → (s.clove c).localMem.flips = [] → poi = 0) := by
  obtain ⟨hplace, hin⟩ := State.cLoc_local hloc
  have ho : o % 64 = 0 := by omega
  obtain ⟨m, hread⟩ := s.cRead_local c o
  have hf := State.cbChsend_sends rfl hle hrs2 halign hsome hloc hroom
  rw [hread, State.chainPut_sound (by rw [State.upsets_setClove, hupset]; exact List.not_mem_nil), State.setClove_setClove,
    State.clove_setClove_same, State.cUnblock_none (by simpa using hblock)] at hf
  obtain ⟨r, p, k, hend, hwent⟩ := State.cAlone_cRd_only hmay hstall hop hf3 hf (by simp) (by simp) (by simp)
  refine ⟨_, _, wordPoison ((s.clove c).localMem.localWords o), congrArg Host.Outcome.next hend, hwent.alone (by decide) rfl rfl rfl, ?_,
    (leBytes_ofNat (Mem.localWords_length ho hin)).trans (State.cRead_localWords ho hin).symm, fun hpoison hflips => ?_⟩
  · simp only [State.clove_setClove_same]
  · exact wordPoison_clean (Mem.localWords_clean ho hin hpoison hflips)

end

section
variable {n o : Nat} (hf3 : iF3 word.toNat = 4) (hsome : s.neighbour c (iF7 word.toNat) = some n)
  (hloc : s.cLoc c (s.cx c (iRs1 word.toNat)) (s.cUser c) .write = some (.loc o))
include hf3 hsome hloc

theorem chrecv_waits (hfifo : (s.clove c).fifo (iF7 word.toNat) = []) : ∃ t, exec (.cbChrecv c word) s = .next t ∧ Waited s t c :=
  ⟨_, congrArg Host.Outcome.next ((State.cAlone_eq _ hmay hop hf3).trans
    (by rw [State.cbChrecv_empty rfl hle hrs2 halign hsome hloc hfifo]; rfl)), s.cBlock_waited c _⟩

theorem chrecv_takes (hstall : (s.clove c).stallAt = none) (hblock : (s.clove c).blockAt = none) {msg : BitVec 512} {poi : Nat}
    {q : List (BitVec 512 × Nat)} (hfifo : (s.clove c).fifo (iF7 word.toNat) = (msg, poi) :: q) :
    ∃ t, exec (.cbChrecv c word) s = .next t ∧ WentAlone s t c word.toNat St.ok ∧ (t.clove c).fifo (iF7 word.toNat) = q ∧
      ∀ k, k < 64 → (t.clove c).localMem.byte (o + k) = BitVec.ofNat 8 (msg.toNat / 256 ^ k) := by
  obtain ⟨hplace, hin⟩ := State.cLoc_local hloc
  have hset : ((s.clove c).setFifo (iF7 word.toNat) q).fifo (iF7 word.toNat) = q := Clove.fifo_setFifo ..
  obtain ⟨u, d, hfifos⟩ := (s.clove c).setFifo_only (iF7 word.toNat) q
  have htakes := State.cbChrecv_takes rfl hle hrs2 halign hsome hloc hfifo
  rw [hfifos] at htakes hset
  rw [State.cUnblock_none (by simpa using hblock)] at htakes
  obtain ⟨r, p, k, hend, hwent⟩ := State.cAlone_cRd_only hmay hstall hop hf3 htakes (by simp) (by simp) (by simp)
  refine ⟨_, congrArg Host.Outcome.next hend, hwent.alone (by decide) rfl rfl rfl, ?_, fun k hk => ?_⟩ <;>
    simp only [State.clove_setClove_same]
  · exact hset
  · rw [Mem.byte_putWords _ (fun i hi => by simp; omega) hk]
    have hsplit : 8 * (k / 8) + k % 8 = k := Nat.div_add_mod k 8
    rw [List.getD_eq_getElem?_getD, List.getElem?_take_of_lt (by omega), List.getElem?_drop, hsplit, ← List.getD_eq_getElem?_getD,
      leBytes_getD hk]

end

end

theorem chpoll_counts {n : Nat} (hmay : s.cloveMay c = true) (hstall : (s.clove c).stallAt = none) (hop : iOp word.toNat = 0x0B)
    (hle : iF7 word.toNat ≤ 1) (hf3 : iF3 word.toNat = 5) (hrs1 : iRs1 word.toNat = 0) (hrs2 : iRs2 word.toNat = 0)
    (hsome : s.neighbour c (iF7 word.toNat) = some n) (hlen : ((s.clove c).fifo (iF7 word.toNat)).length ≤ 8) :
    ∃ t, exec (.cbChpoll c word) s = .next t ∧
      WentAlone s t c word.toNat (((s.clove c).fifo (iF7 word.toNat)).length + 16 * s.chainRoom c n (iF7 word.toNat)) := by
  have hmod : iF7 word.toNat % 2 = iF7 word.toNat := by omega
  have hlegal : ¬ (iF7 word.toNat > 1 ∨ iRs1 word.toNat ≠ 0 ∨ iRs2 word.toNat ≠ 0) := by omega
  have hf : s.cbChpoll c word.toNat =
      s.cRd c word.toNat (((s.clove c).fifo (iF7 word.toNat)).length + 16 * s.chainRoom c n (iF7 word.toNat)) := by
    simp only [State.cbChpoll, hlegal, if_false, hmod, hsome]
  obtain ⟨r, p, k, hend, hwent⟩ := State.cAlone_cRd_only hmay hstall hop hf3 hf rfl rfl rfl
  have hroom : s.chainRoom c n (iF7 word.toNat) ≤ 8 := Nat.sub_le _ _
  exact ⟨_, congrArg Host.Outcome.next hend, hwent.alone (by omega) rfl rfl rfl⟩

end

/-! ### A message's arrival -/

section
variable {s : State} {c : ChanId} {up : Bool}

theorem chainMessage_arrives {m : Bool × BitVec 512 × Nat} (hfind : (s.clove c).wire.find? (fun m => m.1 == up) = some m)
    (hdown : up = false → c.val ≠ 0)
    (hroom : ((s.clove (if up then c.val + 1 else c.val - 1)).fifo (if up then 0 else 1)).length < 8) :
    ∃ t, exec (.chainMessageArrival c up) s = .next t ∧ (t.clove (if up then c.val + 1 else c.val - 1)).fifo (if up then 0 else 1) =
        (s.clove (if up then c.val + 1 else c.val - 1)).fifo (if up then 0 else 1) ++ [m.2] ∧
      (t.clove c).wire = (s.clove c).wire.erase m ∧ Unmoved s t ∧ t.regs = s.regs := by
  have hother : (if up then c.val + 1 else c.val - 1) ≠ c.val := by
    cases up
    · have hpos := hdown rfl
      simp only [Bool.false_eq_true, if_false]
      omega
    · simp
  have hrun : exec (.chainMessageArrival c up) s = execChainMessageArrival c up s := rfl
  rw [hrun]
  unfold execChainMessageArrival
  dsimp only
  rw [hfind]
  generalize (if up then c.val + 1 else c.val - 1) = n at *
  generalize (if up then 0 else 1) = d at *
  dsimp only
  rw [if_neg (by omega)]
  refine ⟨_, rfl, ?_, ?_, ⟨rfl, rfl⟩, rfl⟩
  · rw [State.clove_setClove_same, Clove.fifo_setFifo, State.clove_setClove_other _ _ hother]
  · rw [State.clove_setClove_other _ _ hother.symm, State.clove_setClove_same]

theorem chainMessage_waits (hfull : 8 ≤ ((s.clove (if up then c.val + 1 else c.val - 1)).fifo (if up then 0 else 1)).length) :
    exec (.chainMessageArrival c up) s = .next s := by
  have hrun : exec (.chainMessageArrival c up) s = execChainMessageArrival c up s := rfl
  rw [hrun]
  unfold execChainMessageArrival
  dsimp only
  split
  · rfl
  · exact if_pos hfull

end

/-- Settles O29: a send takes the granule's words onto the link, a receive takes the FIFO's head off it. -/
theorem cloveChain : Obligations.CloveChain := by
  intro s c word hmay hstall hblock w x a dir is ch loc goes waits
  refine ⟨?sendDown, ?sendUpset, ?send, ?sendFull, ?recvDown, ?recv, ?recvEmpty, ?poll, ?arrives, ?full⟩
  case sendDown =>
    rintro ⟨⟨hop, hf3, hle⟩, hrs2, halign, hnone⟩
    exact chsend_down hmay hstall hop hle hrs2 halign hf3 hnone
  case sendUpset =>
    rintro m o ⟨⟨hop, hf3, hle⟩, hrs2, halign, hsome⟩ hloc hroom hupset
    exact chsend_upset hmay hstall hblock hop hle hrs2 halign hf3 hsome hloc hroom hupset
  case send =>
    rintro m o ⟨⟨hop, hf3, hle⟩, hrs2, halign, hsome⟩ hloc hroom hupset
    exact chsend_sends hmay hstall hblock hop hle hrs2 halign hf3 hsome hloc hroom hupset
  case sendFull =>
    rintro m o ⟨⟨hop, hf3, hle⟩, hrs2, halign, hsome⟩ hloc hroom
    exact chsend_waits hmay hop hle hrs2 halign hf3 hsome hloc hroom
  case recvDown =>
    rintro ⟨⟨hop, hf3, hle⟩, hrs2, halign, hnone⟩
    exact chrecv_down hmay hstall hop hle hrs2 halign hf3 hnone
  case recv =>
    rintro m o msg poi q ⟨⟨hop, hf3, hle⟩, hrs2, halign, hsome⟩ hloc hfifo
    exact chrecv_takes hmay hop hle hrs2 halign hf3 hsome hloc hstall hblock hfifo
  case recvEmpty =>
    rintro m o ⟨⟨hop, hf3, hle⟩, hrs2, halign, hsome⟩ hloc hfifo
    exact chrecv_waits hmay hop hle hrs2 halign hf3 hsome hloc hfifo
  case poll =>
    rintro m ⟨hop, hf3, hle⟩ hrs1 hrs2 hsome hlen
    exact chpoll_counts hmay hstall hop hle hf3 hrs1 hrs2 hsome hlen
  case arrives => exact fun up m hfind hdown hroom => chainMessage_arrives hfind hdown hroom
  case full => exact fun up hfull => chainMessage_waits hfull

end Sys2Proof.Machine

namespace Sys2Proof.Machine

/-! ## A Clove core's mailbox (09 R271 to R275) -/

/-! ### The memory that a completed command leaves -/

/-- A byte that is a sector or more away from a write stays. -/
theorem Mem.byte_mergeRange_far {m : Mem} {a y : Nat} {bs : Bytes} (poi : Bool) (h : y + 32 ≤ a ∨ a + bs.length + 31 ≤ y) :
    (m.mergeRange a bs poi).byte y = m.byte y := by
  refine Mem.byte_mergeRange_apart poi fun u hu => ?_
  obtain ⟨-, hlo, hhi, -⟩ := mem_unitsOf.1 hu
  rcases unitBytes_cases a with hs | hs <;> rw [hs] at hlo ⊢ <;> omega

/-- A byte just written stays under a later write eight or more bytes above it, in the same sector or not: its sector has no flipped bit. -/
theorem Mem.byte_mergeRange_below {m : Mem} {a a' : Nat} {b : Byte} {bs : Bytes} (h : a + 8 ≤ a') :
    ((m.mergeRange a [b] false).mergeRange a' bs false).byte a = b := by
  have hwritten : (m.mergeRange a [b] false).byte a = b := by
    rw [Mem.byte_mergeRange_at false ⟨le_rfl, by simp⟩]
    simp
  by_cases hsector : isHbm a' = true ∧ a' / 32 * 32 ≤ a
  · obtain ⟨hhbm, hunit⟩ := hsector
    have hsame : isHbm a = true := by
      simp only [isHbm, Bool.and_eq_true, decide_eq_true_eq] at hhbm ⊢
      simp only [hbmBase, hbmTop] at hhbm ⊢
      omega
    have hsize : unitBytes a' = 32 ∧ unitBytes a = 32 := ⟨if_pos hhbm, if_pos hsame⟩
    refine (Mem.byte_mergeRange_kept false (Mem.flips_mergeRange false ?_) (by omega)).trans hwritten
    rw [mem_unitsOf, hsize.1, hsize.2]
    simp only [List.length_cons, List.length_nil]
    omega
  · refine (Mem.byte_mergeRange_apart false fun u hu => ?_).trans hwritten
    obtain ⟨hmul, hlo, -, -⟩ := mem_unitsOf.1 hu
    left
    by_cases hhbm : isHbm a' = true
    · rw [unitBytes, if_pos hhbm] at hmul hlo
      have hunit : ¬ a' / 32 * 32 ≤ a := fun h => hsector ⟨hhbm, h⟩
      omega
    · rw [unitBytes, if_neg hhbm] at hmul hlo
      omega

/-- A mailbox at b once the command in slot i has ended: STATUS, RESULT and FENCE of the slot, then HEAD. -/
def Mem.mailboxDone (m : Mem) (b i status result head : Nat) : Mem :=
  (((m.mergeRange (b + (128 + 64 * i + 7)) [BitVec.ofNat 8 status] false).mergeRange
    (b + (128 + 64 * i + 20)) (leBytes 4 result) false).mergeRange
    (b + (128 + 64 * i + 56)) (leBytes 4 1) false).mergeRange (b + 4) (leBytes 4 head) false

section
variable (m : Mem) (b i status result head : Nat)

theorem Mem.mailboxDone_status : (m.mailboxDone b i status result head).byte (b + (128 + 64 * i) + 7) = BitVec.ofNat 8 status := by
  rw [Nat.add_assoc, Mem.mailboxDone, Mem.byte_mergeRange_far _ (by simp; omega), Mem.byte_mergeRange_far _ (by omega),
    Mem.byte_mergeRange_below (by omega)]

theorem Mem.mailboxDone_result {k : Nat} (hk : k < 4) :
    (m.mailboxDone b i status result head).byte (b + (128 + 64 * i) + 20 + k) = BitVec.ofNat 8 (result / 256 ^ k) := by
  rw [Mem.mailboxDone, Mem.byte_mergeRange_far _ (by simp; omega), Mem.byte_mergeRange_far _ (by omega),
    Mem.byte_mergeRange_at _ (by simp; omega), ← leBytes_getD (n := 4) hk]
  congr 1
  omega

theorem Mem.mailboxDone_fence : (m.mailboxDone b i status result head).byte (b + (128 + 64 * i) + 56) = 1 := by
  rw [Nat.add_assoc, Mem.mailboxDone, Mem.byte_mergeRange_far _ (by simp; omega), Mem.byte_mergeRange_at _ (by simp), Nat.sub_self]
  rfl

theorem Mem.mailboxDone_head {k : Nat} (hk : k < 4) :
    (m.mailboxDone b i status result head).byte (b + 4 + k) = BitVec.ofNat 8 (head / 256 ^ k) := by
  rw [Mem.mailboxDone, Mem.byte_mergeRange_at _ (by simp; omega), ← leBytes_getD (n := 4) hk]
  congr 1
  omega

end

/-! ### Completion -/

/-- Core c reaches its mailbox, which lies whole at device address b, and no error waits. -/
def MailboxOpen (s : State) (c b : Nat) : Prop :=
  s.upsets = [] ∧ ∀ k, k < 1152 → s.mboxAt c k = some (b + k) ∧ s.cLost c (b + k) = false ∧ s.hbmLost (b + k) = false

/-- Counters and cached lines apart, only memory differs, and is m. -/
def Put (s t : State) (m : Mem) : Prop := ∃ cs ca, t = { s with cnts := cs, cache := ca, mem := m }

theorem Put.trans {s t u : State} {m m' : Mem} : Put s t m → Put t u m' → Put s u m' := by
  rintro ⟨_, _, rfl⟩ ⟨cs, ca, rfl⟩
  exact ⟨cs, ca, rfl⟩

section
variable {s : State} {c b : Nat} (hopen : MailboxOpen s c b)
include hopen

theorem MailboxOpen.of_put {t : State} {m : Mem} (h : Put s t m) : MailboxOpen t c b := by
  obtain ⟨cs, ca, rfl⟩ := h
  exact hopen

theorem MailboxOpen.write {o : Nat} (ho : o < 1152) (bs : Bytes) : Put s (s.mboxWrite c o bs) (s.mem.mergeRange (b + o) bs false) := by
  obtain ⟨hupsets, hreach⟩ := hopen
  obtain ⟨hplace, hlost, hhbm⟩ := hreach o ho
  obtain ⟨cs, ca, hstore⟩ := State.ccStore_stands hhbm (s.partOfChan c) bs false
  obtain ⟨cs', hwrite⟩ := State.devWrite_sound (s := { s with cnts := cs }) (a := b + o) (by simp [hupsets]) bs false
  refine ⟨cs', ca, ?_⟩
  rw [State.mboxWrite, hplace]
  dsimp only
  rw [hlost, if_neg Bool.false_ne_true, State.ccWrite_sound (by simp [hupsets]), hstore, hwrite]

/-- A further write to the mailbox. -/
theorem MailboxOpen.then_write {t : State} {m : Mem} (h : Put s t m) {o : Nat} (ho : o < 1152) (bs : Bytes) :
    Put s (t.mboxWrite c o bs) (m.mergeRange (b + o) bs false) := by
  have hmem : t.mem = m := by
    obtain ⟨cs, ca, rfl⟩ := h
    rfl
  exact h.trans (hmem ▸ (hopen.of_put h).write ho bs)

theorem MailboxOpen.fenced : MailboxOpen (s.cFence c) c b := by
  obtain ⟨ca, hfence⟩ := s.cFence_only c
  rw [hfence]
  refine ⟨hopen.1, fun k hk => ?_⟩
  have hplace : State.mboxAt ({ s with cache := ca }.setClove c { s.clove c with dirty := [] }) c k = s.mboxAt c k := by
    unfold State.mboxAt
    rw [State.clove_setClove_same]
    rfl
  rw [hplace]
  exact hopen.2 k hk

/-- A command without a token count completes: its slot and HEAD are written, and outside the core only the trace changes besides. -/
theorem MailboxOpen.complete {q : BitVec 512} (hcount : slotField q 4 1 = 0) (status result : Nat) : ∃ cs ca tr tq,
    s.cComplete c q status result = { s with
      cnts := cs, cache := ca, trace := tr, traceQ := tq,
      mem := s.mem.mailboxDone b ((s.clove c).head % 16) status result (((s.clove c).head + 1) % 2 ^ 32) }.setClove c { s.clove c with
        head := ((s.clove c).head + 1) % 2 ^ 32, held := none, ran := false, tenant := false, mig := none,
        rx := SMap.del (s.clove c).rx ((s.clove c).head % 16) } := by
  have hslot : (s.clove c).head % 16 < 16 := Nat.mod_lt _ (by decide)
  have htoken (t : State) : t.slotToken c q = t := if_pos (.inr (.inl hcount))
  have hput := hopen.then_write (hopen.then_write (hopen.then_write
    (hopen.write (o := 128 + 64 * ((s.clove c).head % 16) + 7) (by omega) [BitVec.ofNat 8 status])
    (o := 128 + 64 * ((s.clove c).head % 16) + 20) (by omega) (leBytes 4 result))
    (o := 128 + 64 * ((s.clove c).head % 16) + 56) (by omega) (leBytes 4 1))
    (o := 4) (by omega) (leBytes 4 (((s.clove c).head + 1) % 2 ^ 32))
  unfold State.cComplete
  dsimp only
  rw [htoken]
  obtain ⟨cs, ca, hput⟩ := hput
  rw [hput]
  obtain ⟨tr, tq, htrace⟩ := State.traceClove_only _ c _ _ _ _ _ _ _
  exact ⟨cs, ca, tr, tq, htrace⟩

end

section
variable {s : State} {c : ChanId} {word : Word}

/-- DONE of a command without a token count. -/
theorem cbDone_completes {q : BitVec 512} {b : Nat} (hmay : s.cloveMay c = true) (hstall : (s.clove c).stallAt = none)
    (hop : iOp word.toNat = 0x2B) (hf3 : iF3 word.toNat = 1) (hf7 : iF7 word.toNat = 0) (hmachine : (s.clove c).machineMode = true)
    (hrd : iRd word.toNat = 0) (hheld : (s.clove c).held = some q) (hcount : slotField q 4 1 = 0) (hout : s.chainOut c = false)
    (hopen : MailboxOpen s c b) :
    ∃ t, exec (.cbDone c word) s = .next t ∧ (t.clove c).held = none ∧ (t.clove c).head = ((s.clove c).head + 1) % 2 ^ 32 ∧
      (t.clove c).pc.toNat = ((s.clove c).pc.toNat + 4) % 2 ^ 32 ∧
      t.mem = s.mem.mailboxDone b ((s.clove c).head % 16) (s.cx c (iRs1 word.toNat) % 256) (s.cx c (iRs2 word.toNat))
        (((s.clove c).head + 1) % 2 ^ 32) ∧ t.cores = s.cores ∧ t.regs = s.regs := by
  obtain ⟨ca, hfence⟩ := s.cFence_only c
  obtain ⟨cs, ca', tr, tq, hcomplete⟩ := hopen.fenced.complete hcount (s.cx c (iRs1 word.toNat) % 256) (s.cx c (iRs2 word.toNat))
  rw [hfence, State.clove_setClove_same] at hcomplete
  have hf : State.cbDone s c word.toNat = ((s.cFence c).cComplete c q (s.cx c (iRs1 word.toNat) % 256) (s.cx c (iRs2 word.toNat))).cRd c
      word.toNat 0 := by
    have hheld' : ((s.cFence c).clove c).held = some q := (s.cFence_dataMoved c).held.trans hheld
    simp [State.cbDone, hf7, hrd, hmachine, hout, hheld']
  rw [hfence, hcomplete] at hf
  obtain ⟨r, p, k, hend, -, -, hpc⟩ := State.cAlone_cRd_only hmay hstall hop hf3 hf (by rw [State.clove_setClove_same])
    (by rw [State.clove_setClove_same]) (by rw [State.clove_setClove_same])
  refine ⟨_, congrArg Host.Outcome.next hend, ?_, ?_, hpc, rfl, rfl, rfl⟩ <;> simp only [State.clove_setClove_same]

end

end Sys2Proof.Machine

namespace Sys2Proof.Machine

/-! ## A command reaches its core, and a tenant's entry (09 R273, R274, R279, R280) -/

section
variable {s : State} {c : ChanId} {word : Word}

/-- A slot's line that is read clean is kept for its core, which wakes. -/
theorem commandPost_arrives {i : Fin 16} {r : ReqId} {a : Nat} (hplace : s.mboxAt c (128 + 64 * i.val) = some a)
    (hheld : (s.clove c).held = none) (hhalted : (s.clove c).halted = false) (hclean : (s.devRead a 64).2.1 = 0) :
    ∃ t, exec (.commandPost c i r) s = .next t ∧ (t.clove c).sleeping = false ∧ Unmoved s t ∧
      SMap.find (t.clove c).rx i = some (BitVec.ofNat 512 (leVal (s.devRead a 64).1), s.timebase, r.val) := by
  have hrun : exec (.commandPost c i r) s = execCommandPost c i r s := rfl
  obtain ⟨rs, cs, hread⟩ := s.devRead_countsOnly a 64
  have hawake (t : State) (h : (t.clove c).halted = false) : t.cloveState c ≠ 4 := by
    unfold State.cloveState
    dsimp only
    rw [h]
    split
    · decide
    split
    · decide
    split <;> simp
  rw [hrun]
  unfold execCommandPost
  rw [hplace]
  dsimp only
  rw [hheld, if_neg (by simp), if_neg (not_not.2 hclean), hread, if_neg (hawake _ (by rw [State.clove_setClove_same]; exact hhalted))]
  exact ⟨_, rfl, by rw [State.clove_setClove_same], ⟨rfl, rfl⟩, by rw [State.clove_setClove_same]; exact SMap.find_put_same ..⟩

/-- Core c holds command q, posted at time b by requester r. -/
def State.taken (s : State) (c : Nat) (q : BitVec 512) (b r : Nat) : State :=
  (s.setClove c { s.clove c with held := some q, ran := false, sleeping := false, runAt := s.timebase }).traceClove c 0x20 (slotFunc q) 0
    (s.timebase - b) (peerReq r).toNat (s.clove c).head 0

theorem State.taken_only (s : State) (c : Nat) (q : BitVec 512) (b r : Nat) : ∃ tr tq, s.taken c q b r =
    { s with trace := tr, traceQ := tq }.setClove c { s.clove c with
      held := some q, ran := false, sleeping := false, runAt := s.timebase } := by
  obtain ⟨tr, tq, htrace⟩ := State.traceClove_only (s.setClove c { s.clove c with
    held := some q, ran := false, sleeping := false, runAt := s.timebase }) c 0x20 (slotFunc q) 0 (s.timebase - b) (peerReq r).toNat
      (s.clove c).head 0
  exact ⟨tr, tq, htrace⟩

theorem State.slotIllegal_of_program {s t : State} {c : Nat} (h : (t.clove c).program = (s.clove c).program) (q : BitVec 512) :
    t.slotIllegal c q = s.slotIllegal c q := by
  simp only [State.slotIllegal, h]

section
variable (hmay : s.cloveMay c = true) (hop : iOp word.toNat = 0x2B) (hf3 : iF3 word.toNat = 2) (hf7 : iF7 word.toNat = 0)
  (hmachine : (s.clove c).machineMode = true) (hrs1 : iRs1 word.toNat = 0) (hrs2 : iRs2 word.toNat = 0) (hheld : (s.clove c).held = none)
include hmay hop hf3 hf7 hmachine hrs1 hrs2 hheld

theorem cbWaitcmd_sleeps (hnone : SMap.find (s.clove c).rx ((s.clove c).head % 16) = none) :
    exec (.cbWaitcmd c word) s = .next (s.setClove c { s.clove c with sleeping := true }) :=
  congrArg Host.Outcome.next ((State.cAlone_eq _ hmay hop hf3).trans
    (by simp [State.cbWaitcmd, hf7, hrs1, hrs2, hmachine, hheld, hnone, State.cEnd]))

/-- The command at HEAD is taken, and its slot's index is the answer. -/
theorem cbWaitcmd_takes (hstall : (s.clove c).stallAt = none) {q : BitVec 512} {b r : Nat}
    (hfind : SMap.find (s.clove c).rx ((s.clove c).head % 16) = some (q, b, r)) (hseq : slotSeq q = (s.clove c).head)
    (hstatus : slotField q 7 1 = 0xFF) (hlegal : s.slotIllegal c q = false) :
    ∃ t, exec (.cbWaitcmd c word) s = .next t ∧ (t.clove c).held = some q ∧
      (iRd word.toNat ≠ 0 → t.cx c (iRd word.toNat) = (s.clove c).head % 16) ∧
      (t.clove c).pc.toNat = ((s.clove c).pc.toNat + 4) % 2 ^ 32 ∧ t.mem = s.mem ∧ t.cores = s.cores ∧ t.regs = s.regs := by
  obtain ⟨tr, tq, htaken⟩ := s.taken_only c q b r
  have hlegal' : (s.taken c q b r).slotIllegal c q = false := by
    rw [← hlegal, htaken]
    exact State.slotIllegal_of_program (by rw [State.clove_setClove_same]) q
  have hf : State.cbWaitcmd s c word.toNat = (s.taken c q b r).cRd c word.toNat ((s.clove c).head % 16) := by
    unfold State.cbWaitcmd
    dsimp only
    rw [if_neg (by simp [hf7, hrs1, hrs2, hmachine]), if_neg (by simp [hheld]), hfind]
    refine (if_pos ⟨hseq, hstatus⟩).trans (if_neg ?_)
    exact Bool.eq_false_iff.1 hlegal'
  rw [htaken] at hf
  obtain ⟨x, p, k, hend, hrd, -, hpc⟩ := State.cAlone_cRd_only hmay hstall hop hf3 hf (by rw [State.clove_setClove_same])
    (by rw [State.clove_setClove_same]) (by rw [State.clove_setClove_same])
  refine ⟨_, congrArg Host.Outcome.next hend, ?_, fun h => (hrd h).trans (Nat.mod_eq_of_lt (by omega)), hpc, rfl, rfl, rfl⟩
  simp only [State.clove_setClove_same]

end

/-! ### A tenant's entry -/

theorem State.setCx_eq (s : State) (c : Nat) {i : Nat} (v : Nat) (h : i ≠ 0) :
    s.setCx c i v = s.setClove c { s.clove c with x := SMap.set 0 (s.clove c).x i (BitVec.ofNat 32 v) } := if_neg h

theorem tenantEntry_calls {q : BitVec 512} {g : Program} {e : Nat × Nat} (hmay : s.cloveMay c = true) (hheld : (s.clove c).held = some q)
    (hprogram : (s.clove c).program = some g) (hran : (s.clove c).ran = false) (htenant : (s.clove c).tenant = false)
    (hentry : g.entries.find? (fun e => decide (0x80 ≤ slotFunc q) && e.1 == slotFunc q - 0x80 && e.2 != 0) = some e)
    (hpc : e.2 < 2 ^ 32) (hhead : (s.clove c).head < 2 ^ 32) :
    ∃ t, exec (.tenantEntry c) s = .next t ∧ (t.clove c).machineMode = false ∧ (t.clove c).tenant = true ∧ (t.clove c).pc.toNat = e.2 ∧
      t.cx c 11 = (s.clove c).head ∧ t.mem = s.mem ∧ t.cores = s.cores ∧ t.regs = s.regs := by
  have hrun : exec (.tenantEntry c) s = execTenantEntry c s := rfl
  rw [hrun]
  unfold execTenantEntry
  dsimp only
  rw [hheld, hprogram]
  dsimp only
  rw [if_neg (by simp [hmay, hran, htenant]), hentry]
  dsimp only
  rw [State.setCx_eq _ _ _ (by decide), State.setCx_eq _ _ _ (by decide), State.setCpc]
  simp only [State.clove_setClove_same, State.setClove_setClove]
  refine ⟨_, rfl, ?_, ?_, ?_, ?_, rfl, rfl, rfl⟩
  · simp only [State.clove_setClove_same]
  · simp only [State.clove_setClove_same]
  · simp only [State.clove_setClove_same, BitVec.toNat_ofNat, Nat.mod_eq_of_lt hpc]
  · rw [State.cx, if_neg (by decide), State.clove_setClove_same]
    dsimp only
    rw [SMap.get_set_same, BitVec.toNat_ofNat, Nat.mod_eq_of_lt hhead]

/-- A blocked chain instruction's wait ends: in the core that it waited, and in the trace. -/
theorem State.cUnblock_only (s : State) (c : Nat) : ∃ cl tr tq b, s.cUnblock c = { s with cloves := cl, trace := tr, traceQ := tq } ∧
    (s.cUnblock c).clove c = { s.clove c with blockAt := b } := by
  unfold State.cUnblock
  split
  · obtain ⟨tr, tq, htrace⟩ := State.traceClove_only (s.setClove c { s.clove c with blockAt := none }) c 0x22 0 _ _ _ 0 0
    dsimp only
    rw [htrace]
    exact ⟨_, tr, tq, none, rfl, State.clove_setClove_same ..⟩
  · exact ⟨s.cloves, s.trace, s.traceQ, (s.clove c).blockAt, rfl, rfl⟩

/-- The links of core c are empty. -/
theorem State.cEmpty_only {s : State} {c : Nat} (hstall : (s.clove c).stallAt = none) : ∃ cl tr tq b,
    s.cEmpty c = { s with cloves := cl, trace := tr, traceQ := tq } ∧
      (s.cEmpty c).clove c = { s.clove c with blockAt := b, fifoUp := [], fifoDn := [], wire := [] } := by
  obtain ⟨cl, tr, tq, b, heq, hclove⟩ := s.cUnblock_only c
  unfold State.cEmpty
  dsimp only
  rw [State.cUnstall_none ((congrArg Clove.stallAt hclove).trans hstall), hclove, heq]
  exact ⟨_, tr, tq, b, rfl, State.clove_setClove_same ..⟩

/-- The monitor has the status in a0. -/
theorem State.cReturn_only (s : State) (c status result : Nat) : ∃ x p, s.cReturn c status result =
    s.setClove c { s.clove c with x := x, pc := p, ran := true, tenant := false, machineMode := true } ∧
      SMap.get 0 x 10 = BitVec.ofNat 32 status ∧ SMap.get 0 x 11 = BitVec.ofNat 32 result := by
  unfold State.cReturn
  rw [State.setCx_eq _ _ _ (by decide), State.setCx_eq _ _ _ (by decide), State.setCpc]
  simp only [State.clove_setClove_same, State.setClove_setClove]
  refine ⟨_, _, rfl, ?_, SMap.get_set_same _ _ _ _⟩
  rw [SMap.get_set_other _ _ _ _ (by decide), SMap.get_set_same]

theorem tenantTimeout_waits {g : Program} (hprogram : (s.clove c).program = some g)
    (htime : s.timebase ≤ (s.clove c).runAt + 1000 * g.limit) : exec (.tenantTimeout c) s = .next s := by
  have hrun : exec (.tenantTimeout c) s = execTenantTimeout c s := rfl
  rw [hrun]
  unfold execTenantTimeout
  dsimp only
  rw [hprogram]
  exact if_pos (.inr htime)

theorem tenantTimeout_ends {g : Program} (hprogram : (s.clove c).program = some g) (htenant : (s.clove c).tenant = true)
    (hstall : (s.clove c).stallAt = none) (htime : (s.clove c).runAt + 1000 * g.limit < s.timebase) :
    ∃ t, exec (.tenantTimeout c) s = .next t ∧ (t.clove c).tenant = false ∧ (t.clove c).ran = true ∧ (t.clove c).machineMode = true ∧
      t.cx c 10 = St.timeout ∧ (t.clove c).fifoUp = [] ∧ (t.clove c).fifoDn = [] ∧ (t.clove c).wire = [] ∧
      Counted s t (Reg.cloveStatus c) 0 ∧ t.mem = s.mem ∧ t.cores = s.cores := by
  have hrun : exec (.tenantTimeout c) s = execTenantTimeout c s := rfl
  rw [hrun]
  unfold execTenantTimeout
  dsimp only
  rw [hprogram, htenant]
  dsimp only
  rw [if_neg (by simp; omega)]
  obtain ⟨cl, tr, tq, b, hempty, hclove⟩ := State.cEmpty_only (s := (s.free 32).2) hstall
  obtain ⟨x, p, hreturn, ha0, -⟩ := State.cReturn_only (((s.free 32).2.cEmpty c).countField (Reg.cloveStatus c) 0 8 1) c St.timeout
    (s.free 32).1.toNat
  have hcount : (((s.free 32).2.cEmpty c).countField (Reg.cloveStatus c) 0 8 1).clove c = ((s.free 32).2.cEmpty c).clove c := rfl
  rw [hreturn, hcount, hclove]
  refine ⟨_, rfl, ?_, ?_, ?_, ?_, ?_, ?_, ?_, ?_, ?_, ?_⟩
  case refine_4 =>
    rw [State.cx, if_neg (by decide), State.clove_setClove_same]
    exact congrArg BitVec.toNat ha0
  case refine_8 =>
    rw [hempty]
    exact s.countField_counted _ (by decide)
  case refine_9 => rw [hempty]; rfl
  case refine_10 => rw [hempty]; rfl
  all_goals rw [State.clove_setClove_same]

end

/-- HEAD counts modulo 2^32, and its four bytes are those of the sum. -/
theorem head_byte {h k : Nat} (hk : k < 4) : BitVec.ofNat 8 (h % 2 ^ 32 / 256 ^ k) = BitVec.ofNat 8 (h / 256 ^ k) := by
  refine BitVec.eq_of_toNat_eq ?_
  rw [BitVec.toNat_ofNat, BitVec.toNat_ofNat]
  obtain rfl | rfl | rfl | rfl : k = 0 ∨ k = 1 ∨ k = 2 ∨ k = 3 := by omega
  all_goals omega

/-- Settles O30: a command's slot, the core that holds it and the mailbox's bytes, from one to the next. -/
theorem cloveMailbox : Obligations.CloveMailbox := by
  intro s c word hmay hstall w x cb same
  refine ⟨?post, ?take, ?sleep, ?done, ?entry, ?waits, ?timeout⟩
  case post => exact fun i r a => commandPost_arrives
  case take =>
    rintro q b r ⟨hop, hf3, hf7, hmachine⟩ hrs1 hrs2 hheld hfind hseq hstatus hlegal
    exact cbWaitcmd_takes hmay hop hf3 hf7 hmachine hrs1 hrs2 hheld hstall hfind hseq hstatus hlegal
  case sleep =>
    rintro ⟨hop, hf3, hf7, hmachine⟩ hrs1 hrs2 hheld hnone
    exact cbWaitcmd_sleeps hmay hop hf3 hf7 hmachine hrs1 hrs2 hheld hnone
  case done =>
    rintro q b ⟨hop, hf3, hf7, hmachine⟩ hrd hheld hcount hhead hout hupsets hreach o
    obtain ⟨t, hrun, hnone, hnext, hpc, hmem, hsame⟩ :=
      cbDone_completes hmay hstall hop hf3 hf7 hmachine hrd hheld hcount hout ⟨hupsets, hreach⟩
    refine ⟨t, hrun, hnone, hnext, hpc, ?_, fun k hk => ?_, ?_, fun k hk => ?_, hsame⟩ <;> rw [hmem]
    · refine (Mem.mailboxDone_status ..).trans (BitVec.eq_of_toNat_eq ?_)
      rw [BitVec.toNat_ofNat, BitVec.toNat_ofNat, Nat.mod_mod]
    · exact Mem.mailboxDone_result _ _ _ _ _ _ hk
    · exact Mem.mailboxDone_fence ..
    · exact (Mem.mailboxDone_head _ _ _ _ _ _ hk).trans (head_byte hk)
  case entry =>
    exact fun q g e hheld hprogram hran htenant => tenantEntry_calls hmay hheld hprogram hran htenant
  case waits => exact fun g hprogram _ => tenantTimeout_waits hprogram
  case timeout => exact fun g hprogram htenant => tenantTimeout_ends hprogram htenant hstall

end Sys2Proof.Machine

namespace Sys2Proof.Machine

/-! ## The functions of the Clove ROM (09 R277, 10 R300, R313) -/

/-- The function of command w has ended in t: the status in a0, RESULT in a1, and memory as q left it. -/
def FnEnded (s q t : State) (c : Nat) (w : BitVec 512) (status result : Nat) : Prop :=
  t.cx c 10 = status % 2 ^ 32 ∧ t.cx c 11 = result % 2 ^ 32 ∧ (t.clove c).ran = true ∧ (t.clove c).held = some w ∧
    t.mem = q.mem ∧ t.cores = s.cores

theorem State.fnEnd_only {q : State} {c : Nat} (hstall : (q.clove c).stallAt = none) (status result : Nat) :
    ∃ cl tr tq x b, q.fnEnd c status result = { q with cloves := cl, trace := tr, traceQ := tq } ∧
      (q.fnEnd c status result).clove c = { q.clove c with x := x, ran := true, mig := none, blockAt := b } ∧
        SMap.get 0 x 10 = BitVec.ofNat 32 status ∧ SMap.get 0 x 11 = BitVec.ofNat 32 result := by
  unfold State.fnEnd
  rw [State.setCx_eq _ _ _ (by decide), State.setCx_eq _ _ _ (by decide)]
  simp only [State.clove_setClove_same, State.setClove_setClove]
  obtain ⟨cl, tr, tq, b, heq, hclove⟩ := State.cUnblock_only (q.setClove c { q.clove c with
    x := SMap.set 0 (SMap.set 0 (q.clove c).x 10 (BitVec.ofNat 32 status)) 11 (BitVec.ofNat 32 result), ran := true, mig := none }) c
  rw [State.clove_setClove_same] at hclove
  rw [State.cUnstall_none ((congrArg Clove.stallAt hclove).trans hstall)]
  refine ⟨cl, tr, tq, _, b, heq, hclove, ?_, SMap.get_set_same _ _ _ _⟩
  rw [SMap.get_set_other _ _ _ _ (by decide), SMap.get_set_same]

section
variable {s : State} {c : Nat} {w : BitVec 512} (hstall : (s.clove c).stallAt = none) (hheld : (s.clove c).held = some w)
include hstall hheld

theorem DataMoved.fnEnd {q : State} (h : DataMoved c s q) (status result : Nat) :
    FnEnded s q (q.fnEnd c status result) c w status result ∧ (q.fnEnd c status result).regs = q.regs := by
  obtain ⟨cl, tr, tq, x, b, heq, hclove, ha0, ha1⟩ := State.fnEnd_only (h.stallAt.trans hstall) status result
  refine ⟨⟨?_, ?_, ?_, ?_, ?_, ?_⟩, by rw [heq]⟩
  · rw [State.cx, if_neg (by decide), hclove]
    exact (congrArg BitVec.toNat ha0).trans (BitVec.toNat_ofNat ..)
  · rw [State.cx, if_neg (by decide), hclove]
    exact (congrArg BitVec.toNat ha1).trans (BitVec.toNat_ofNat ..)
  · rw [hclove]
  · rw [hclove]
    exact h.held.trans hheld
  · rw [heq]
  · rw [heq]
    exact h.cores

end

section
variable {s : State} {c : ChanId} {w : BitVec 512} (hmay : s.cloveMay c = true) (hstall : (s.clove c).stallAt = none)
  (hheld : (s.clove c).held = some w) (hran : (s.clove c).ran = false)
include hmay hheld hran

/-- A function runs when the command held, not yet run, has its FUNC. -/
theorem State.fnRun_eq {code : Nat} (hfn : slotFunc w = code) (f : State → BitVec 512 → State) : s.fnRun c code f = f s w := by
  unfold State.fnRun
  dsimp only
  rw [hheld]
  exact if_pos ⟨hmay, by simp [hran], hfn⟩

section
variable {i : Instr} {code status result : Nat} {f : State → BitVec 512 → State} {q : State}
include hstall

/-- A function that ends after moving data. -/
theorem fn_ends (hrun : exec i s = .next (s.fnRun c code f)) (hfn : slotFunc w = code) (h : DataMoved c s q)
    (hf : f s w = q.fnEnd c status result) : ∃ t, exec i s = .next t ∧ FnEnded s q t c w status result := by
  rw [hrun, State.fnRun_eq hmay hheld hran hfn, hf]
  exact ⟨_, rfl, (h.fnEnd hstall hheld status result).1⟩

/-- A function that ends at once. -/
theorem fn_stops (hrun : exec i s = .next (s.fnRun c code f)) (hfn : slotFunc w = code) (hf : f s w = s.fnEnd c status 0) :
    ∃ t, exec i s = .next t ∧ FnEnded s s t c w status 0 ∧ t.regs = s.regs := by
  rw [hrun, State.fnRun_eq hmay hheld hran hfn, hf]
  exact ⟨_, rfl, (DataMoved.refl c s).fnEnd hstall hheld status 0⟩

end

section
include hstall

theorem cloveCopy_stops (hfn : slotFunc w = 1) (hok : fnOk (slotField w 40 4) [slotField w 24 8, slotField w 32 8] = false) :
    ∃ t, exec (.cloveCopy c) s = .next t ∧ FnEnded s s t c w St.badArgument 0 ∧ t.regs = s.regs :=
  fn_stops hmay hstall hheld hran rfl hfn (if_pos (by rw [hok]; rfl))

section
variable (hthrottle : s.cloveThrottle c ≠ 2)
include hthrottle

theorem cloveCopy_ends (hfn : slotFunc w = 1) (hok : fnOk (slotField w 40 4) [slotField w 24 8, slotField w 32 8] = true) :
    let r := s.cCopy c (s.fnGran c (slotField w 32 8) .read) (s.fnGran c (slotField w 24 8) .write) (slotField w 40 4 / 64)
    ∃ t, exec (.cloveCopy c) s = .next t ∧ FnEnded s r.2.2 t c w r.1 0 :=
  fn_ends hmay hstall hheld hran rfl hfn (State.cCopy_dataMoved ..)
    ((if_neg (by simp [hok])).trans (if_neg (by simp [State.cStalled_open hthrottle])))

theorem cloveFill_ends (hfn : slotFunc w = 2) (hok : fnOk (slotField w 40 4) [slotField w 24 8] = true) :
    let r := s.cFill c (s.fnGran c (slotField w 24 8) .write) (slotField w 32 8) (slotField w 40 4 / 64)
    ∃ t, exec (.cloveFill c) s = .next t ∧ FnEnded s r.2.2 t c w r.1 0 :=
  fn_ends hmay hstall hheld hran rfl hfn (State.cFill_dataMoved ..)
    ((if_neg (by simp [hok])).trans (if_neg (by simp [State.cStalled_open hthrottle])))

theorem cloveCompare_ends (hfn : slotFunc w = 3) (hok : fnOk (slotField w 40 4) [slotField w 24 8, slotField w 32 8] = true) {x : CCmp}
    {v : Nat} {q : State} (hx : x = .same ∧ v = 0xFFFFFFFF ∨ x = .differ v)
    (hcmp : s.cCmp c (s.fnGran c (slotField w 24 8) .read) (s.fnGran c (slotField w 32 8) .read) 0 (slotField w 40 4 / 64) = (x, q)) :
    ∃ t, exec (.cloveCompare c) s = .next t ∧ FnEnded s q t c w St.ok v := by
  have hmoved := s.cCmp_dataMoved c (s.fnGran c (slotField w 24 8) .read) (s.fnGran c (slotField w 32 8) .read) 0 (slotField w 40 4 / 64)
  rw [hcmp] at hmoved
  refine fn_ends hmay hstall hheld hran rfl hfn hmoved
    ((if_neg (by simp [hok])).trans ((if_neg (by simp [State.cStalled_open hthrottle])).trans ?_))
  rw [hcmp]
  rcases hx with ⟨rfl, rfl⟩ | rfl <;> rfl

theorem cloveGather_ends (hfn : slotFunc w = 4) (hok : fnOk (slotField w 32 4) [slotField w 24 8, slotField w 48 8] = true)
    (hrow : slotField w 32 4 ≤ 4096) (hzero : slotField w 36 4 ≠ 0) (hcount : slotField w 36 4 ≤ 4096) (halign : slotField w 40 8 % 4 = 0) :
    let r := s.gatherRows c (slotField w 24 8) (slotField w 32 4) (slotField w 40 8) (slotField w 48 8) (slotField w 36 4)
    ∃ t, exec (.cloveGather c) s = .next t ∧ FnEnded s r.2.2 t c w r.1 r.2.1 :=
  fn_ends hmay hstall hheld hran rfl hfn (State.gatherRows_dataMoved ..)
    ((if_neg (by simp [hok, hrow, hzero, hcount, halign])).trans (if_neg (by simp [State.cStalled_open hthrottle])))

section
variable (hfn : slotFunc w = 7) (hbase : slotField w 24 8 % 64 = 0) (hzero : slotField w 32 8 ≠ 0) (hlen : slotField w 32 8 % 2048 = 0)
include hfn hbase hzero hlen

theorem cloveScrub_stops (hpieces : s.scrubPieces c (slotField w 24 8) (slotField w 32 8) = none) :
    ∃ t, exec (.cloveScrub c) s = .next t ∧ FnEnded s s t c w St.accessFault 0 ∧ t.regs = s.regs := by
  refine fn_stops hmay hstall hheld hran rfl hfn ((if_neg (by simp [hbase, hzero, hlen])).trans ((if_neg hthrottle).trans ?_))
  rw [hpieces]

theorem cloveScrub_ends (hsummary : slotField w 16 4 = 0) {ps : List ScrubPiece}
    (hpieces : s.scrubPieces c (slotField w 24 8) (slotField w 32 8) = some ps) :
    let r := s.scrubHbm c ps
    ∃ t, exec (.cloveScrub c) s = .next t ∧ FnEnded s r.2.2 t c w (if r.1.unc ≠ 0 then St.uncorrectable else St.ok) 0 := by
  refine fn_ends hmay hstall hheld hran rfl hfn (State.scrubHbm_dataMoved ..)
    ((if_neg (by simp [hbase, hzero, hlen])).trans ((if_neg hthrottle).trans ?_))
  rw [hpieces]
  exact if_pos hsummary

end

theorem clovePageCow_ends (hfn : slotFunc w = 5) (halign : slotField w 24 8 % 8 = 0) (hpool : slotField w 32 1 ≤ 15) {p : Nat} {k : KvLayout}
    (hkv : s.cloveKv c = some (p, k)) :
    let r := s.pageMove c p k (slotField w 24 8) (slotField w 32 1) (fun e => !plOwn e)
    ∃ t, exec (.clovePageCow c) s = .next t ∧ FnEnded s r.2.2 t c w r.1 (r.2.1.getD 0xFFFFFFFF) := by
  refine fn_ends hmay hstall hheld hran rfl hfn (State.pageMove_dataMoved ..)
    ((if_neg (by simp [halign, hpool])).trans ((if_neg hthrottle).trans ?_))
  rw [hkv]

section
variable (hfn : slotFunc w = 6) (halign : slotField w 24 8 % 8 = 0) (hzero : slotField w 32 4 ≠ 0) (hcount : slotField w 32 4 ≤ 65536)
  (hpool : slotField w 36 1 ≤ 15)
include hfn halign hzero hcount hpool

theorem cloveMigrate_ends (hdir : slotField w 37 1 = 0) {p : Nat} {k : KvLayout} (hkv : s.cloveKv c = some (p, k)) :
    let r := s.migrateHere c p k (slotField w 24 8) (slotField w 36 1) (slotField w 32 4)
    ∃ t, exec (.cloveMigrate c) s = .next t ∧ FnEnded s r.2.2 t c w r.1 r.2.1 := by
  refine fn_ends hmay hstall hheld hran rfl hfn (State.migrateHere_dataMoved ..)
    ((if_neg (by simp [halign, hzero, hcount, hpool, hdir])).trans ((if_neg hthrottle).trans ?_))
  rw [hkv]
  exact if_pos hdir

/-- Towards no neighbour nothing has moved. -/
theorem cloveMigrate_down (hlo : 1 ≤ slotField w 37 1) (hhi : slotField w 37 1 ≤ 4) (hkv : (s.cloveKv c).isSome = true)
    (hmig : (s.clove c).mig = none)
    (hnone : s.neighbour c (if slotField w 37 1 = 2 ∨ slotField w 37 1 = 4 then 1 else 0) = none) :
    ∃ t, exec (.cloveMigrate c) s = .next t ∧ FnEnded s s t c w St.linkDown 0 ∧ t.regs = s.regs := by
  obtain ⟨⟨p, k⟩, hkv⟩ := Option.isSome_iff_exists.1 hkv
  refine fn_stops hmay hstall hheld hran rfl hfn
    ((if_neg (by simp [halign, hzero, hcount, hpool, hhi])).trans ((if_neg hthrottle).trans ?_))
  rw [hkv]
  refine (if_neg (by omega)).trans ?_
  dsimp only
  rw [hnone, hmig]
  rfl

end

end

end

end

/-- Settles O31: each function is its shared operation, whose status and RESULT the monitor gets. -/
theorem cloveFunctions : Obligations.CloveFunctions := by
  intro s c w hmay hstall hheld hran hthrottle a b n fn mig post ends stops
  refine ⟨?copy, ?copyBad, ?fill, ?compare, ?gather, ?scrub, ?cow, ?migrate, ?migrateDown⟩
  case copy => exact fun hfn hok => cloveCopy_ends hmay hstall hheld hran hthrottle hfn hok
  case copyBad => exact fun hfn hok => cloveCopy_stops hmay hstall hheld hran hfn hok
  case fill => exact fun hfn hok => cloveFill_ends hmay hstall hheld hran hthrottle hfn hok
  case compare =>
    exact fun o q hfn hok => ⟨cloveCompare_ends hmay hstall hheld hran hthrottle hfn hok (.inl ⟨rfl, rfl⟩),
      cloveCompare_ends hmay hstall hheld hran hthrottle hfn hok (.inr rfl)⟩
  case gather => exact fun hfn hok => cloveGather_ends hmay hstall hheld hran hthrottle hfn hok
  case scrub =>
    exact fun hfn hsummary hbase hzero hlen => ⟨cloveScrub_stops hmay hstall hheld hran hthrottle hfn hbase hzero hlen,
      fun ps => cloveScrub_ends hmay hstall hheld hran hthrottle hfn hbase hzero hlen hsummary⟩
  case cow => exact fun p k hfn halign hpool => clovePageCow_ends hmay hstall hheld hran hthrottle hfn halign hpool
  case migrate =>
    rintro p k ⟨hfn, halign, hzero, hcount, hpool, hlo, hhi⟩ hkv
    exact cloveMigrate_ends hmay hstall hheld hran hthrottle hfn halign hzero hcount hpool (Nat.le_zero.1 hhi) hkv
  case migrateDown =>
    rintro ⟨hfn, halign, hzero, hcount, hpool, hlo, hhi⟩ hkv hmig hnone
    exact cloveMigrate_down hmay hstall hheld hran hthrottle hfn halign hzero hcount hpool hlo hhi hkv hmig hnone

end Sys2Proof.Machine

namespace Sys2Proof.Machine

/-! ## FACET_LOAD (12 R370 to R375) -/

theorem State.stageCopy_dataOnly (s : State) (ext : List (Nat × Nat)) (b : Bytes) : DataOnly s (s.stageCopy ext b) :=
  List.foldlRecOn (motive := fun a : State × Nat => DataOnly s a.1) _ _ (.refl s) fun a ha _ _ => ha.trans (a.1.ccWrite_dataOnly _ _ _ _)

theorem State.stagedRead_dataOnly (s : State) (ext : List (Nat × Nat)) : DataOnly s (s.stagedRead ext).2.2 :=
  List.foldlRecOn (motive := fun a : Bytes × Option Nat × State => DataOnly s a.2.2) _ _ (.refl s)
    fun a ha _ _ => ha.trans (a.2.2.ccRead_dataOnly _ _ _)

theorem DataOnly.inflight {s t : State} (h : DataOnly s t) : t.loupe.inflight = s.loupe.inflight := congrArg Loupe.inflight h.loupe

theorem State.putStaged_inflight (s : State) (target : Option Nat) (i : Option Staged) :
    (s.putStaged target i).loupe.inflight = s.loupe.inflight := by
  cases target <;> rfl

theorem State.stagedOf_putStaged (s : State) (target : Option Nat) (i : Option Staged) : (s.putStaged target i).stagedOf target = i := by
  cases target with
  | none => rfl
  | some p => exact congrArg Partition.staged (State.part_setPart_same ..)

/-- The image as the Loupe takes it from the host: what is there, and zeros up to its length. -/
theorem hostBytes_eq (len : Nat) (img : Bytes) : (img ++ List.replicate (len - img.length) 0).take len = hostBytes len img := by
  unfold hostBytes padTo zeros
  rcases Nat.le_total len img.length with h | h
  · rw [List.take_append_of_le_length h, List.length_take, Nat.min_eq_left h, Nat.sub_self, List.replicate_zero, List.append_nil]
  · rw [List.take_of_length_le (by simp; omega), List.take_of_length_le h]

section
variable {s : State} {k : Nat} {c : InFlight} (hc : Fetched s k c) (hop : c.opcode = Op.facetLoad) {img : Bytes} {h : HostKind} {x : Nat}
include hc hop

theorem Fetched.exec_facetLoad {y : Result} {t : State} (hf : s.facetLoad c.via c.entry img h x = (y, t))
    (ht : t.loupe.inflight = s.loupe.inflight) : exec (.facetLoad k img h x) s = .next (t.ended k c y) :=
  congrArg Host.Outcome.next (hc.perform hop rfl hf ht)

end

section
variable {s : State} {via : Via} {e : BitVec 512} {img : Bytes} {h : HostKind} {x : Nat}

theorem State.facetLoad_gone {p : Nat} (htarget : cmdPart via Op.facetLoad e = some p) (hgone : s.partIn p [.empty, .retiring] = true) :
    s.facetLoad via e img h x = (busyOf Op.facetLoad, s) := by
  unfold State.facetLoad
  dsimp only
  rw [htarget]
  exact if_pos hgone

theorem State.facetLoad_go (hstay : ¬ ∃ p, cmdPart via Op.facetLoad e = some p ∧ s.partIn p [.empty, .retiring] = true) :
    s.facetLoad via e img h x = State.facetLoad.go via img h x s (cmdPart via Op.facetLoad e) (ef e 16 8) (ef e 24 4) := by
  unfold State.facetLoad
  dsimp only
  split
  · next p htarget => exact (if_neg fun hgone => hstay ⟨p, htarget, hgone⟩).trans (by rw [htarget])
  · next htarget => rw [htarget]

end

/-! ### What is turned away, and what is staged -/

section
variable {s : State} {via : Via} {img : Bytes} {h : HostKind} {x : Nat} {target : Option Nat} {addr len : Nat}

/-- A rejection of a reason, with no section, record or offset. -/
def loneRej (reason : Nat) : Rej := ⟨reason, noSect, noRec, noOff⟩

/-- The rejection of an image whose read the host does not complete. -/
def lostRej (h : HostKind) : Rej := loneRej (if h = .poisoned then 0x01 else 0x02)

theorem not_lost {n : Nat} (hread : h = .ok ∨ n ≤ x) : ¬ (h ≠ .ok ∧ x < n) :=
  fun ⟨hlost, hx⟩ => hread.elim hlost (Nat.not_le.2 hx)

theorem State.facetLoad_misaligned (haddr : addr % 64 ≠ 0) : State.facetLoad.go via img h x s target addr len =
    (⟨St.badArgument, 0, facetRecord 0 noSect noRec noOff 0 0 0⟩, s) := if_pos haddr

section
variable (haddr : addr % 64 = 0)
include haddr

theorem State.facetLoad_empty : State.facetLoad.go via img h x s target addr 0 = (rejected via 0 (loneRej 0x10), s.putStaged target none) :=
  (if_neg (not_not.2 haddr)).trans (if_pos rfl)

theorem State.facetLoad_lostHeader (hlen : len ≠ 0) (hlost : h ≠ .ok) (hx : x < 256) :
    State.facetLoad.go via img h x s target addr len = (rejected via 0 (lostRej h), s.putStaged target none) :=
  (if_neg (not_not.2 haddr)).trans ((if_neg hlen).trans (if_pos ⟨hlost, hx⟩))

section
variable {u : State} {b : Bytes} (hu : s.putStaged target none = u) (hb : hostBytes len img = b) (hlen : len ≠ 0)
include hu hb hlen

section
variable (hread : h = .ok ∨ 256 ≤ x)
include hread

theorem State.facetLoad_header {r : Rej} (hbad : firstBad (headerChecks target.isNone len b) = some r) :
    State.facetLoad.go via img h x s target addr len = (rejected via (fxId b) r, u) := by
  unfold State.facetLoad.go
  dsimp only
  rw [if_neg (not_not.2 haddr), if_neg hlen, if_neg (not_lost hread), hostBytes_eq, hu, hb, hbad]

section
variable (hgood : firstBad (headerChecks target.isNone len b) = none)
include hgood

theorem State.facetLoad_full (hfull : u.stagingFree < len) :
    State.facetLoad.go via img h x s target addr len = (rejected via (fxId b) (loneRej 0x03), u) := by
  unfold State.facetLoad.go
  dsimp only
  rw [if_neg (not_not.2 haddr), if_neg hlen, if_neg (not_lost hread), hostBytes_eq, hu, hb, hgood]
  exact if_pos hfull

section
variable {ext : List (Nat × Nat)} (hext : takePieces u.stagingGaps len = ext) (hroom : len ≤ u.stagingFree)
include hext hroom

/-- The bytes that came before the read broke off have been staged, as whole granules. -/
theorem State.facetLoad_lost (hlost : h ≠ .ok) (hx : x < len) : State.facetLoad.go via img h x s target addr len =
    (rejected via (fxId b) (lostRej h), u.stageCopy (takePieces ext (x / 64 * 64)) b) := by
  unfold State.facetLoad.go
  dsimp only
  rw [if_neg (not_not.2 haddr), if_neg hlen, if_neg (not_lost hread), hostBytes_eq, hu, hb, hgood]
  dsimp only
  rw [if_neg (Nat.not_lt.2 hroom), if_pos ⟨hlost, hx⟩, hext]
  rfl

section
variable (hwhole : h = .ok ∨ len ≤ x) {back : Bytes × Option Nat × State} (hback : (u.stageCopy ext b).stagedRead ext = back)
include hwhole hback

theorem State.facetLoad_rejected {r : Rej} (hbad : (stagingError b back.2.1).or (back.2.2.facetCheck target b) = some r) :
    State.facetLoad.go via img h x s target addr len = (rejected via (fxId b) r, back.2.2) := by
  unfold State.facetLoad.go
  dsimp only
  rw [if_neg (not_not.2 haddr), if_neg hlen, if_neg (not_lost hread), hostBytes_eq, hu, hb, hgood]
  dsimp only
  rw [if_neg (Nat.not_lt.2 hroom), if_neg (not_lost hwhole), hext, hback, hbad]

theorem State.facetLoad_staged (hsound : back.2.1 = none) (hcheck : back.2.2.facetCheck target b = none) :
    State.facetLoad.go via img h x s target addr len = (⟨St.ok, 0, facetRecord 0 noSect noRec noOff (fxDigest b) 0 (fxId b)⟩,
      back.2.2.putStaged target (some ⟨b, fxDigest b, ext⟩)) := by
  have hnone : (stagingError b back.2.1).or (back.2.2.facetCheck target b) = none := by rw [hsound, hcheck]; rfl
  unfold State.facetLoad.go
  dsimp only
  rw [if_neg (not_not.2 haddr), if_neg hlen, if_neg (not_lost hread), hostBytes_eq, hu, hb, hgood]
  dsimp only
  rw [if_neg (Nat.not_lt.2 hroom), if_neg (not_lost hwhole), hext, hback, hnone]

end

end

end

end

end

end

end

/-- FACET_LOAD, for each place at which it can end. -/
theorem facetLoad_outcomes {s : State} {k : Nat} {c : InFlight} (hc : Fetched s k c) (img : Bytes) (h : HostKind) (x : Nat)
    (hop : c.opcode = Op.facetLoad) :
    let e := c.entry
    let len := ef e 24 4
    let ends (r : Result) (q : State) := exec (.facetLoad k img h x) s = .next (q.ended k c r)
    let target := cmdPart c.via Op.facetLoad e
    let gone : Prop := ∃ p, target = some p ∧ s.partIn p [.empty, .retiring]
    let u := s.putStaged target none
    let b := hostBytes len img
    let ext := takePieces u.stagingGaps len
    let back := (u.stageCopy ext b).stagedRead ext
    let no (id : Nat) (r : Rej) (t : State) := ends (rejected c.via id r) t
    (gone → ends (busyOf Op.facetLoad) s) ∧
    (¬ gone → ef e 16 8 % 64 ≠ 0 → ends ⟨St.badArgument, 0, facetRecord 0 noSect noRec noOff 0 0 0⟩ s) ∧
    (¬ gone → ef e 16 8 % 64 = 0 → u.stagedOf target = none ∧ (len = 0 → no 0 (loneRej 0x10) u) ∧
      (len ≠ 0 → h ≠ .ok → x < 256 → no 0 (lostRej h) u) ∧
      (len ≠ 0 → h = .ok ∨ 256 ≤ x → (∀ r, firstBad (headerChecks target.isNone len b) = some r → no (fxId b) r u) ∧
        (firstBad (headerChecks target.isNone len b) = none → (u.stagingFree < len → no (fxId b) (loneRej 0x03) u) ∧
          (len ≤ u.stagingFree → h ≠ .ok → x < len → no (fxId b) (lostRej h) (u.stageCopy (takePieces ext (x / 64 * 64)) b)) ∧
          (len ≤ u.stagingFree → h = .ok ∨ len ≤ x →
            (∀ r, (stagingError b back.2.1).or (back.2.2.facetCheck target b) = some r → no (fxId b) r back.2.2) ∧
            (back.2.1 = none → back.2.2.facetCheck target b = none →
              ends ⟨St.ok, 0, facetRecord 0 noSect noRec noOff (fxDigest b) 0 (fxId b)⟩
                (back.2.2.putStaged target (some ⟨b, fxDigest b, ext⟩))))))) := by
  intro e len ends target gone u b ext back no
  have hu : u.loupe.inflight = s.loupe.inflight := s.putStaged_inflight target none
  have hcopy (ext : List (Nat × Nat)) : (u.stageCopy ext b).loupe.inflight = s.loupe.inflight :=
    (u.stageCopy_dataOnly ext b).inflight.trans hu
  have hback : back.2.2.loupe.inflight = s.loupe.inflight := ((u.stageCopy ext b).stagedRead_dataOnly ext).inflight.trans (hcopy ext)
  have hgo (hstay : ¬ gone) {y : Result} {t : State} (hf : State.facetLoad.go c.via img h x s target (ef e 16 8) len = (y, t))
      (ht : t.loupe.inflight = s.loupe.inflight) : ends y t :=
    hc.exec_facetLoad hop ((State.facetLoad_go hstay).trans hf) ht
  refine ⟨?gone, fun hstay haddr => hgo hstay (State.facetLoad_misaligned haddr) rfl, fun hstay haddr =>
    ⟨s.stagedOf_putStaged target none, ?empty, fun hlen hlost hx => hgo hstay (State.facetLoad_lostHeader haddr hlen hlost hx) hu,
      fun hlen hread => ⟨fun r hbad => hgo hstay (State.facetLoad_header haddr rfl rfl hlen hread hbad) hu, fun hgood =>
        ⟨fun hfull => hgo hstay (State.facetLoad_full haddr rfl rfl hlen hread hgood hfull) hu, fun hroom hlost hx =>
          hgo hstay (State.facetLoad_lost haddr rfl rfl hlen hread hgood rfl hroom hlost hx) (hcopy _), fun hroom hwhole => ⟨fun r hbad =>
            hgo hstay (State.facetLoad_rejected haddr rfl rfl hlen hread hgood rfl hroom hwhole rfl hbad) hback, fun hsound hcheck =>
            hgo hstay (State.facetLoad_staged haddr rfl rfl hlen hread hgood rfl hroom hwhole rfl hsound hcheck)
              ((State.putStaged_inflight _ _ _).trans hback)⟩⟩⟩⟩⟩
  case gone =>
    rintro ⟨p, htarget, hgone⟩
    exact hc.exec_facetLoad hop (State.facetLoad_gone htarget hgone) rfl
  case empty =>
    intro hlen
    have hzero : ef c.entry 24 4 = 0 := hlen
    exact hgo hstay ((congrArg _ hzero).trans (State.facetLoad_empty haddr)) hu

end Sys2Proof.Machine

namespace Sys2Proof.Machine

/-! ## FACET_ACTIVATE of the device (12 R381, R382) -/

theorem State.reread_dataOnly (s : State) (y : Staged) (bad sect : Nat) : DataOnly s (s.reread y bad sect).2 := s.stagedRead_dataOnly y.ext

/-- The partitions whose record the device facet d changes lose their staged image. -/
def State.unstageMoved (s : State) (d : DevFacet) (p : Nat) : State :=
  if SMap.get PartRec.none d.parts p = s.rec_ p then s else s.putStaged (some p) none

/-- What a partition is once the device facet d is in force. -/
def State.partUnder (s : State) (d : DevFacet) (p : Nat) : Partition :=
  if SMap.get PartRec.none d.parts p = s.rec_ p then s.part p else { s.part p with staged := none }

theorem State.unstageMoved_only (s : State) (d : DevFacet) (p : Nat) : ∃ ps, s.unstageMoved d p = { s with parts := ps } ∧
    (s.unstageMoved d p).part p = s.partUnder d p ∧ ∀ q, q ≠ p → (s.unstageMoved d p).part q = s.part q := by
  unfold State.unstageMoved State.partUnder
  split
  · exact ⟨s.parts, rfl, rfl, fun _ _ => rfl⟩
  · exact ⟨_, rfl, State.part_setPart_same .., fun q hq => State.part_setPart_other _ _ hq⟩

theorem State.foldl_unstageMoved (d : DevFacet) {l : List Nat} (hl : l.Nodup) (s : State) :
    ∃ ps, l.foldl (fun s p => s.unstageMoved d p) s = { s with parts := ps } ∧
      ∀ p, (l.foldl (fun s p => s.unstageMoved d p) s).part p = if p ∈ l then s.partUnder d p else s.part p := by
  induction l generalizing s with
  | nil => exact ⟨s.parts, rfl, fun p => (if_neg List.not_mem_nil).symm⟩
  | cons a l ih =>
    obtain ⟨hnot, hl⟩ := List.nodup_cons.1 hl
    obtain ⟨ps, hone, hsame, hother⟩ := s.unstageMoved_only d a
    obtain ⟨ps', hrest, hparts⟩ := ih hl (s.unstageMoved d a)
    rw [List.foldl_cons]
    refine ⟨ps', by rw [hrest, hone], fun p => ?_⟩
    rw [hparts]
    by_cases hp : p = a
    · rw [hp, if_neg hnot, if_pos List.mem_cons_self, hsame]
    · have hunder : (s.unstageMoved d a).partUnder d p = s.partUnder d p := by
        have hrec : (s.unstageMoved d a).rec_ p = s.rec_ p := by rw [hone]; rfl
        unfold State.partUnder
        rw [hrec, hother p hp]
      rw [hunder, hother p hp]
      simp [hp]

/-- The device facet d is in force, with the digest of its image. -/
@[irreducible] def State.deviceUnder (s : State) (d : DevFacet) (digest : Nat) : State :=
  let t := (List.range 64).foldl (fun s p => s.unstageMoved d p) s
  let t := { t with devFacet := d, loupe := { t.loupe with devDigest := digest, devOn := true } }
  if d.seqtab ≠ s.devFacet.seqtab ∨ d.svcChannels ≠ s.devFacet.svcChannels ∨ d.stageBase ≠ s.devFacet.stageBase ∨ d.stageLen ≠ s.devFacet.stageLen
  then t.zeroHbm d.seqtab 0x8000000 else t

theorem State.deviceUnder_only (s : State) (d : DevFacet) (digest : Nat) : ∃ ps m ca, s.deviceUnder d digest =
    { s with parts := ps, mem := m, cache := ca, devFacet := d, loupe := { s.loupe with devDigest := digest, devOn := true } } ∧
      (∀ y, y < d.seqtab ∨ d.seqtab + 0x8000000 ≤ y → m.byte y = s.mem.byte y) ∧
        ∀ p : PartId, (s.deviceUnder d digest).part p = s.partUnder d p := by
  obtain ⟨ps, hfold, hparts⟩ := State.foldl_unstageMoved d List.nodup_range s (l := List.range 64)
  have hpart (p : PartId) : SMap.get Partition.reset ps p.val = s.partUnder d p.val := by
    have h := hparts p.val
    rw [if_pos (List.mem_range.2 p.isLt), hfold] at h
    exact h
  unfold State.deviceUnder
  generalize 0x8000000 = n
  dsimp only
  rw [hfold]
  split
  · exact ⟨ps, _, _, rfl, fun y hy => Mem.byte_zero_out _ hy, hpart⟩
  · exact ⟨ps, s.mem, s.cache, rfl, fun _ _ => rfl, hpart⟩

section
variable {s : State} {k : Nat} {c : InFlight} (hc : Fetched s k c) (hop : c.opcode = Op.facetActivate) (hform : 128 ≤ ef c.entry 8 1)
  (bad : Fin 3) (sect : Nat)
include hc hop hform

theorem Fetched.exec_activateDevice_busy (hmay : ¬ (s.dev = .staging ∨ s.dev = .ready)) :
    exec (.facetActivateDevice k bad sect) s = .next (s.ended k c (busyOf Op.facetActivate)) :=
  congrArg Host.Outcome.next (hc.perform hop (by simpa using hform) (if_pos (not_or.1 hmay)) rfl)

section
variable (hmay : s.dev = .staging ∨ s.dev = .ready)
include hmay

theorem Fetched.exec_activateDevice_absent (hnone : s.loupe.devImage = none) :
    exec (.facetActivateDevice k bad sect) s = .next (s.ended k c (rejected c.via 0 (loneRej 0x51))) := by
  refine congrArg Host.Outcome.next (hc.perform hop (by simpa using hform) ((if_neg (by tauto)).trans ?_) rfl)
  rw [hnone]
  rfl

section
variable {y : Staged} (hsome : s.loupe.devImage = some y)
include hsome

theorem Fetched.exec_activateDevice_live (hlive : s.devLive (parseDev y.bytes) = false) :
    exec (.facetActivateDevice k bad sect) s = .next (s.ended k c (rejected c.via (fxId y.bytes) (s.liveRej y.bytes))) := by
  refine congrArg Host.Outcome.next (hc.perform hop (by simpa using hform) ((if_neg (by tauto)).trans ?_) rfl)
  rw [hsome]
  exact if_pos (by rw [hlive]; rfl)

section
variable (hlive : s.devLive (parseDev y.bytes) = true)
include hlive

theorem Fetched.exec_activateDevice_reread {r : Rej} (hbad : ((s.putStaged none none).reread y bad.val sect).1 = some r) :
    exec (.facetActivateDevice k bad sect) s =
      .next (((s.putStaged none none).reread y bad.val sect).2.ended k c (rejected c.via (fxId y.bytes) r)) := by
  refine congrArg Host.Outcome.next (hc.perform hop (by simpa using hform) ((if_neg (by tauto)).trans ?_) ?_)
  · rw [hsome]
    refine (if_neg (by rw [hlive]; decide)).trans ?_
    dsimp only
    rw [hbad]
  · exact (State.reread_dataOnly _ _ _ _).inflight.trans (s.putStaged_inflight none none)

theorem Fetched.exec_activateDevice_good (hgood : ((s.putStaged none none).reread y bad.val sect).1 = none) :
    exec (.facetActivateDevice k bad sect) s =
      .next ((((s.putStaged none none).reread y bad.val sect).2.deviceUnder (parseDev y.bytes) y.digest).ended k c
        ⟨St.ok, 0, facetRecord 0 noSect noRec noOff y.digest 0 (fxId y.bytes)⟩) := by
  obtain ⟨ps, m, ca, hunder, -⟩ := State.deviceUnder_only ((s.putStaged none none).reread y bad.val sect).2 (parseDev y.bytes) y.digest
  refine congrArg Host.Outcome.next (hc.perform hop (by simpa using hform) ((if_neg (by tauto)).trans ?_) ?_)
  · rw [hsome]
    refine (if_neg (by rw [hlive]; decide)).trans ?_
    unfold State.deviceUnder State.unstageMoved
    dsimp only
    rw [hgood]
  · rw [hunder]
    exact (State.reread_dataOnly _ _ _ _).inflight.trans (s.putStaged_inflight none none)

end

end

end

end

/-- What the good image y of a device facet leaves. -/
theorem activateDevice_good {s : State} {k : Nat} {c : InFlight} (hc : Fetched s k c) (hop : c.opcode = Op.facetActivate)
    (hform : 128 ≤ ef c.entry 8 1) (bad : Fin 3) (sect : Nat) (hmay : s.dev = .staging ∨ s.dev = .ready) {y : Staged}
    (hsome : s.loupe.devImage = some y) (hlive : s.devLive (parseDev y.bytes) = true)
    (hgood : ((s.putStaged none none).reread y bad.val sect).1 = none) :
    let d := parseDev y.bytes
    let re := (s.putStaged none none).reread y bad.val sect
    ∃ t, exec (.facetActivateDevice k bad sect) s = .next t ∧ t.devFacet = d ∧ t.loupe.devDigest = y.digest ∧ t.loupe.devImage = none ∧
      t.loupe.devOn = true ∧ t.cores = s.cores ∧ t.regs = re.2.regs ∧ SameBut re.2 t d.seqtab 0x8000000 ∧
      Told t k ⟨St.ok, 0, facetRecord 0 noSect noRec noOff y.digest 0 (fxId y.bytes)⟩ ∧ ∀ p : PartId, t.part p = s.partUnder d p := by
  intro d re
  have hdata : DataOnly (s.putStaged none none) re.2 := State.reread_dataOnly _ _ _ _
  obtain ⟨ps, m, ca, hunder, hmem, hparts⟩ := State.deviceUnder_only re.2 d y.digest
  refine ⟨_, hc.exec_activateDevice_good hop hform bad sect hmay hsome hlive hgood, ?facet, ?digest, ?image, ?on, ?cores, ?regs, ?mem,
    State.told_ended ?told _, fun p => ?parts⟩
  case parts =>
    have hpart : re.2.partUnder d p = s.partUnder d p := by
      obtain ⟨m, ca, rs, cs, us, n, heq⟩ := hdata
      rw [heq]
      rfl
    exact (hparts p).trans hpart
  case mem =>
    intro z hz
    exact (congrArg (fun t : State => t.mem.byte z) hunder).trans (hmem z hz)
  case told =>
    have hlen : k < s.loupe.inflight.length := hc.lt_length
    rw [← hdata.inflight.trans (s.putStaged_inflight none none)] at hlen
    rw [hunder]
    exact hlen
  case facet => exact congrArg State.devFacet hunder
  case digest => exact congrArg (fun t : State => t.loupe.devDigest) hunder
  case on => exact congrArg (fun t : State => t.loupe.devOn) hunder
  case regs => exact (congrArg State.regs hunder).trans rfl
  case image => exact (congrArg (fun t : State => t.loupe.devImage) hunder).trans (congrArg Loupe.devImage hdata.loupe)
  case cores => exact (congrArg State.cores hunder).trans hdata.cores

end Sys2Proof.Machine

namespace Sys2Proof.Machine

/-! ## What the Loupe's work on a partition's units leaves of partitions (15 R450, 17 R527, R531) -/

/-- Partitions, Clove cores, the device facet and the commands in flight stand. -/
structure Apart (s t : State) : Prop where
  parts : t.parts = s.parts
  cloves : t.cloves = s.cloves
  devFacet : t.devFacet = s.devFacet
  inflight : t.loupe.inflight = s.loupe.inflight

/-- The partitions of Q, the device facet and the commands in flight stand. -/
structure Spares (Q : Nat → Prop) (s t : State) : Prop where
  part : ∀ q, Q q → t.part q = s.part q
  devFacet : t.devFacet = s.devFacet
  inflight : t.loupe.inflight = s.loupe.inflight

/-- No partition of Q is RUNNING or PAUSED: none of them faults. -/
def Idle (Q : Nat → Prop) (s : State) : Prop := ∀ q, Q q → s.partIn q [.running, .paused] = false

section
variable {s t u : State}

theorem Apart.refl (s : State) : Apart s s := ⟨rfl, rfl, rfl, rfl⟩

theorem Apart.trans (h : Apart s t) (k : Apart t u) : Apart s u :=
  ⟨k.parts.trans h.parts, k.cloves.trans h.cloves, k.devFacet.trans h.devFacet, k.inflight.trans h.inflight⟩

theorem Apart.foldl {ι : Type} {f : State → ι → State} (h : ∀ t a, Apart t (f t a)) (l : List ι) : Apart s (l.foldl f s) :=
  List.foldlRecOn (motive := Apart s) l f (.refl s) fun t ht a _ => ht.trans (h t a)

theorem DataOnly.apart (h : DataOnly s t) : Apart s t := by
  obtain ⟨m, ca, rs, cs, us, n, rfl⟩ := h
  exact ⟨rfl, rfl, rfl, rfl⟩

theorem MaintOnly.apart (h : MaintOnly s t) : Apart s t := by
  obtain ⟨rs, m, bs, q, rfl⟩ := h
  exact ⟨rfl, rfl, rfl, rfl⟩

theorem RegsOnly.apart (h : RegsOnly s t) : Apart s t := h.maintOnly.apart

theorem State.setReg_apart (s : State) (o : Nat) (w : Word) : Apart s (s.setReg o w) := ⟨rfl, rfl, rfl, rfl⟩
theorem State.setField_apart (s : State) (o lo len v : Nat) : Apart s (s.setField o lo len v) := ⟨rfl, rfl, rfl, rfl⟩
theorem State.setCore_apart (s : State) (n : Nat) (x : Core) : Apart s (s.setCore n x) := ⟨rfl, rfl, rfl, rfl⟩

theorem Apart.part (h : Apart s t) (q : Nat) : t.part q = s.part q := congrArg (SMap.get Partition.reset · q) h.parts
theorem Apart.clove (h : Apart s t) (c : Nat) : t.clove c = s.clove c := congrArg (SMap.get Clove.reset · c) h.cloves

section
variable {Q : Nat → Prop}

theorem Apart.spares (h : Apart s t) : Spares Q s t := ⟨fun q _ => h.part q, h.devFacet, h.inflight⟩

theorem Spares.refl (s : State) : Spares Q s s := (Apart.refl s).spares

theorem Spares.trans (h : Spares Q s t) (k : Spares Q t u) : Spares Q s u :=
  ⟨fun q hq => (k.part q hq).trans (h.part q hq), k.devFacet.trans h.devFacet, k.inflight.trans h.inflight⟩

theorem Idle.of_spares (hidle : Idle Q s) (h : Spares Q s t) : Idle Q t := fun q hq => by
  rw [State.partIn, h.part q hq]
  exact hidle q hq

theorem State.setPart_spares (s : State) {p : Nat} (x : Partition) (h : ¬ Q p) : Spares Q s (s.setPart p x) :=
  ⟨fun _ hq => s.part_setPart_other x fun heq => h (heq ▸ hq), rfl, rfl⟩

theorem State.coresOf_of_devFacet (h : t.devFacet = s.devFacet) (p : Nat) : t.coresOf p = s.coresOf p := by
  simp only [State.coresOf, State.blocksOf, State.rec_, h]

theorem State.chansOf_of_devFacet (h : t.devFacet = s.devFacet) (p : Nat) : t.chansOf p = s.chansOf p := by
  simp only [State.chansOf, State.rec_, h]

/-! ### Faults of other partitions -/

theorem State.enterFaulted_spares {p : Nat} (hidle : Q p → s.partIn p [.running, .paused] = false) (cause : Nat) (core : Option Nat)
    (limit : Nat) : Spares Q s (s.enterFaulted p cause core limit) := by
  by_cases h : s.partIn p [.running, .paused] = true
  · obtain ⟨w, v, x, ⟨bs, q, heq⟩, -⟩ := s.enterFaulted_active h cause core limit
    rw [heq]
    have hreg : Spares Q s ((s.setReg (Reg.partFault p) w).setReg (Reg.partFaultStep p) v) := Apart.spares ⟨rfl, rfl, rfl, rfl⟩
    have hother : ¬ Q p := fun hq => Bool.false_ne_true ((hidle hq).symm.trans h)
    exact (hreg.trans (State.setPart_spares _ x hother)).trans (Apart.spares ⟨rfl, rfl, rfl, rfl⟩)
  · rw [State.enterFaulted, if_pos h]
    exact .refl s

theorem State.faultPart_spares {p : Nat} (hidle : Q p → s.partIn p [.running, .paused] = false) (cause : Nat) (core : Option Nat) :
    Spares Q s (s.faultPart p cause core) := by
  unfold State.faultPart
  split
  · exact State.enterFaulted_spares hidle _ _ _
  · exact .refl s

theorem State.recoverable_spares {p : Nat} (hidle : Q p → s.partIn p [.running, .paused] = false) (code : Nat) (second : Bool) :
    Spares Q s (s.recoverable p code second) := by
  cases h : s.partIn p [.running, .paused] with
  | false =>
    rw [State.recoverable_idle h]
    exact .refl s
  | true =>
    have hother : ¬ Q p := fun hq => Bool.false_ne_true ((hidle hq).symm.trans h)
    have hnoted : Spares Q s (s.eventNoted p code) :=
      (Apart.spares ⟨rfl, rfl, rfl, rfl⟩ : Spares Q s (((s.countField (Reg.recovery p) 0 16 1).setField (Reg.recovery p) 28 3 code).setField
        (Reg.recovery p) 31 1 1)).trans (State.setPart_spares _ _ hother)
    rw [State.recoverable_eq h]
    split
    · exact hnoted.trans (State.faultPart_spares (fun hq => absurd hq hother) _ _)
    · exact hnoted

theorem State.unitFault_spares {p : Nat} (hidle : Q p → s.partIn p [.running, .paused] = false) (cause n k : Nat) :
    Spares Q s (s.unitFault p cause n k) := by
  unfold State.unitFault
  split
  · next h =>
    have hother : ¬ Q p := by
      intro hq
      have hnot := hidle hq
      simp only [State.partIn, List.contains_cons, List.contains_nil, Bool.or_false, Bool.or_eq_false_iff] at hnot h
      simp only [hnot.1, hnot.2, Bool.false_eq_true, false_and, or_self] at h
    dsimp only
    exact (State.enterFaulted_spares hidle _ _ _).trans (State.setPart_spares _ _ hother)
  split
  · exact Apart.spares ⟨rfl, rfl, rfl, rfl⟩
  · exact .refl s

theorem State.coreFault_spares (hidle : Idle Q s) (n code : Nat) (a : FaultAt) : Spares Q s (s.coreFault n code a) := by
  unfold State.coreFault
  extract_lets +onlyGivenNames -merge wins s1
  have h1 : Apart s s1 := by
    unfold s1
    split
    · exact s.setField_apart ..
    · exact .refl s
  clear_value s1
  extract_lets +onlyGivenNames -merge s2
  have h2 : Apart s s2 := h1.trans (s1.setReg_apart _ _)
  clear_value s2
  extract_lets +onlyGivenNames -merge w1 w2 w3 w4 core seq s3
  have h3 : Apart s s3 := by
    unfold s3
    split
    · exact h2
    · exact (h2.trans (s2.setCore_apart _ _)).trans (State.setReg_apart _ _ _)
  clear_value s3
  extract_lets +onlyGivenNames -merge s4
  have h4 : Apart s s4 := by
    obtain ⟨tr, tq, htrace⟩ := s3.traceCore_only n 0x05 a.bundle code 0 0 0
    exact h3.trans (by rw [show s4 = _ from htrace]; exact ⟨rfl, rfl, rfl, rfl⟩)
  clear_value s4
  split
  · exact h4.spares.trans (State.unitFault_spares (fun hq => hidle.of_spares h4.spares _ hq) _ _ _)
  · exact h4.spares

theorem State.tokenAdd_spares (hidle : Idle Q s) (n k cnt : Nat) (by_ : Word) : Spares Q s (s.tokenAdd n k cnt by_) := by
  unfold State.tokenAdd
  extract_lets +onlyGivenNames -merge core v seq s1
  have h1 : Spares Q s s1 := Apart.spares ⟨rfl, rfl, rfl, rfl⟩
  split
  · exact State.coreFault_spares hidle _ _ _
  split
  · exact h1.trans (State.coreFault_spares (hidle.of_spares h1) _ _ _)
  · exact h1

theorem State.slotToken_spares (hidle : Idle Q s) (c : Nat) (w : BitVec 512) : Spares Q s (s.slotToken c w) := by
  unfold State.slotToken
  dsimp only
  split
  · exact .refl s
  unfold State.svcToken
  split
  · exact .refl s
  · exact State.tokenAdd_spares hidle _ _ _ _

end

end

end Sys2Proof.Machine

namespace Sys2Proof.Machine

/-! ## A Clove core's program and mailbox are set anew (09 R281, 14 R445, R446) -/

theorem State.mboxWrite_dataOnly (s : State) (c o : Nat) (bs : Bytes) : DataOnly s (s.mboxWrite c o bs) := by
  unfold State.mboxWrite
  split
  · split
    · exact .refl s
    · exact s.ccWrite_dataOnly _ _ _ _
  · exact .refl s

section
variable {s : State} {Q : Nat → Prop}

theorem State.setClove_spares (s : State) (c : Nat) (x : Clove) : Spares Q s (s.setClove c x) := ⟨fun _ _ => rfl, rfl, rfl⟩

theorem State.traceClove_apart (s : State) (c type where_ detail dur peer data flags : Nat) :
    Apart s (s.traceClove c type where_ detail dur peer data flags) := by
  obtain ⟨tr, tq, h⟩ := s.traceClove_only c type where_ detail dur peer data flags
  rw [h]
  exact ⟨rfl, rfl, rfl, rfl⟩

theorem State.cComplete_spares (hidle : Idle Q s) (c : Nat) (w : BitVec 512) (status result : Nat) :
    Spares Q s (s.cComplete c w status result) := by
  have hwrite (t : State) (o : Nat) (bs : Bytes) : Spares Q t (t.mboxWrite c o bs) := (t.mboxWrite_dataOnly c o bs).apart.spares
  unfold State.cComplete
  dsimp only
  have hslot := ((hwrite s (128 + 64 * ((s.clove c).head % 16) + 7) [BitVec.ofNat 8 status]).trans
    (hwrite _ (128 + 64 * ((s.clove c).head % 16) + 20) (leBytes 4 result))).trans
    (hwrite _ (128 + 64 * ((s.clove c).head % 16) + 56) (leBytes 4 1))
  generalize ((s.mboxWrite c _ _).mboxWrite c _ _).mboxWrite c _ _ = t at hslot ⊢
  have htoken := hslot.trans (State.slotToken_spares (hidle.of_spares hslot) c w)
  generalize t.slotToken c w = u at htoken ⊢
  have hhead := htoken.trans (hwrite u 4 (leBytes 4 (((s.clove c).head + 1) % 2 ^ 32)))
  generalize u.mboxWrite c _ _ = v at hhead ⊢
  exact (hhead.trans (v.setClove_spares c _)).trans (State.traceClove_apart _ _ _ _ _ _ _ _ _).spares

theorem State.cFlush_spares (hidle : Idle Q s) (c n : Nat) : Spares Q s (s.cFlush c n) := by
  induction n generalizing s with
  | zero => exact .refl s
  | succ n ih =>
    unfold State.cFlush
    dsimp only
    split
    · split
      · have hone := State.cComplete_spares hidle c ‹_› St.faulted 0
        exact hone.trans (ih (hidle.of_spares hone))
      · exact .refl s
    · exact .refl s

/-- With nothing received nothing is queued. -/
theorem State.cFlush_empty {c : Nat} (hrx : (s.clove c).rx = []) (n : Nat) : s.cFlush c n = s := by
  cases n with
  | zero => rfl
  | succ n =>
    unfold State.cFlush
    dsimp only
    rw [hrx]
    rfl

theorem State.dropMailbox_spares {c : Nat} (h : Idle Q s ∨ (s.clove c).rx = []) : Spares Q s (s.dropMailbox c) := by
  refine Spares.trans ?_ (State.setClove_spares _ c _)
  rcases h with hidle | hrx
  · exact State.cFlush_spares hidle c 16
  · rw [State.cFlush_empty hrx]
    exact .refl s

theorem State.dropMailbox_empty {c : Nat} (hrx : (s.clove c).rx = []) :
    s.dropMailbox c = s.setClove c { s.clove c with mbase := none, head := 0, rx := [] } := by
  rw [State.dropMailbox, State.cFlush_empty hrx]

end

/-! ### What CLOVE_LOAD leaves of the core -/

/-- The program of a tenant image with its limit, or the image's own. -/
def tenantProgram (limit : Nat) (image : Option Bytes) : Option Program := image.map fun b =>
  ⟨if limit ≠ 0 then limit else if hField b 8 4 ≠ 0 then hField b 8 4 else 1000000,
    ((List.range 127).map (fun i => (i, hField b (16 + 4 * i) 4))).filter (fun e => e.2 != 0)⟩

/-- Word i of a tenant image's body, filled up with zeros. -/
def tenantWord (b : Bytes) (i : Nat) : Bytes := sub b (1024 + 8 * i) 8 ++ List.replicate (8 - (sub b (1024 + 8 * i) 8).length) 0

/-- Local memory with the tenant area cleared and an image's body in it. -/
def Mem.tenantLoaded (m : Mem) (image : Option Bytes) : Mem :=
  match image with
  | some b => (m.zero tenantLo 0x10000).putWords tenantLo ((b.length - 1024 + 7) / 8) (tenantWord b) (fun _ => false)
  | none => m.zero tenantLo 0x10000

/-- The core keeps its mailbox: it lies where the load puts it, and the core is not HALTED. -/
def State.keepsMailbox (s : State) (c mbase : Nat) : Prop := (s.clove c).mbase = some mbase ∧ (!(s.clove c).halted) = true

/-- The core IDLE in its monitor with a program. -/
def Clove.loaded (x : Clove) (limit : Nat) (image : Option Bytes) : Clove :=
  { x with
    localMem := x.localMem.tenantLoaded image, program := tenantProgram limit image, halted := false, tenant := false, ran := false,
    held := none, machineMode := true, sleeping := false, mig := none }

/-- The apertures of a core that has been loaded. -/
def State.loadCore (s : State) (c chbase csbase limit : Nat) (image : Option Bytes) : State :=
  ((s.setClove c ((s.clove c).loaded limit image)).setCcsr c Csr.chbase chbase).setCcsr c Csr.csbase csbase

theorem State.loadCore_only (s : State) (c chbase csbase limit : Nat) (image : Option Bytes) :
    ∃ r, s.loadCore c chbase csbase limit image = s.setClove c { (s.clove c).loaded limit image with csr := r } :=
  ⟨_, by simp only [State.loadCore, State.setCcsr, State.clove_setClove_same, State.setClove_setClove]; rfl⟩

section
variable (s : State) (c chbase mbase csbase limit : Nat) (image : Option Bytes)

theorem State.cloveInstall_kept (h : s.keepsMailbox c mbase) :
    s.cloveInstall c chbase mbase csbase limit image = s.loadCore c chbase csbase limit image := by
  unfold State.keepsMailbox at h
  unfold State.cloveInstall State.loadCore
  dsimp only
  rw [if_pos h, if_pos h]
  cases image <;> rfl

theorem State.cloveInstall_moved (h : ¬ s.keepsMailbox c mbase) : s.cloveInstall c chbase mbase csbase limit image =
    (((s.dropMailbox c).loadCore c chbase csbase limit image).setClove c
      { ((s.dropMailbox c).loadCore c chbase csbase limit image).clove c with mbase := some mbase }).mboxWrite c 0 (leBytes 8 0) := by
  unfold State.keepsMailbox at h
  unfold State.cloveInstall State.loadCore
  dsimp only
  rw [if_neg h, if_neg h]
  cases image <;> rfl

/-- What the load leaves of its core, from u, where the mailbox has been kept or taken away. -/
structure Installed (u : State) (y : Clove) : Prop where
  rx : y.rx = (u.clove c).rx
  halted : y.halted = false
  held : y.held = none
  mbase : y.mbase = some mbase
  machineMode : y.machineMode = true
  program : y.program = tenantProgram limit image
  localMem : y.localMem = (u.clove c).localMem.tenantLoaded image

theorem State.cloveInstall_only : ∃ u y, (u = s ∧ s.keepsMailbox c mbase ∨ u = s.dropMailbox c) ∧
    DataOnly (u.setClove c y) (s.cloveInstall c chbase mbase csbase limit image) ∧ Installed c mbase limit image u y := by
  by_cases h : s.keepsMailbox c mbase
  · obtain ⟨r, hload⟩ := s.loadCore_only c chbase csbase limit image
    refine ⟨s, { (s.clove c).loaded limit image with csr := r }, .inl ⟨rfl, h⟩, ?_, ⟨rfl, rfl, rfl, h.1, rfl, rfl, rfl⟩⟩
    rw [s.cloveInstall_kept c chbase mbase csbase limit image h, hload]
    exact .refl _
  · obtain ⟨r, hload⟩ := (s.dropMailbox c).loadCore_only c chbase csbase limit image
    refine ⟨s.dropMailbox c, { (s.dropMailbox c).clove c |>.loaded limit image with csr := r, mbase := some mbase }, .inr rfl, ?_,
      ⟨rfl, rfl, rfl, rfl, rfl, rfl, rfl⟩⟩
    rw [s.cloveInstall_moved c chbase mbase csbase limit image h, hload, State.setClove_setClove, State.clove_setClove_same]
    exact State.mboxWrite_dataOnly _ _ _ _

theorem State.cloveInstall_spares {Q : Nat → Prop} (h : Idle Q s ∨ (s.clove c).rx = []) :
    Spares Q s (s.cloveInstall c chbase mbase csbase limit image) := by
  obtain ⟨u, y, hu, hdata, -⟩ := s.cloveInstall_only c chbase mbase csbase limit image
  have hdrop : Spares Q s u := by
    rcases hu with ⟨rfl, -⟩ | rfl
    · exact .refl u
    · exact State.dropMailbox_spares h
  exact (hdrop.trans (u.setClove_spares c y)).trans hdata.apart.spares

/-- With nothing received the load changes its own core alone, and nothing is received then either. -/
theorem State.cloveInstall_empty (hrx : (s.clove c).rx = []) : ∃ y, DataOnly (s.setClove c y) (s.cloveInstall c chbase mbase csbase limit image) ∧
    Installed c mbase limit image s y := by
  obtain ⟨u, y, hu, hdata, hrx', hhalted, hheld, hmbase, hmode, hprogram, hmem⟩ := s.cloveInstall_only c chbase mbase csbase limit image
  rcases hu with ⟨rfl, -⟩ | rfl
  · exact ⟨y, hdata, hrx', hhalted, hheld, hmbase, hmode, hprogram, hmem⟩
  · rw [State.dropMailbox_empty hrx] at hdata hrx' hmem
    rw [State.setClove_setClove] at hdata
    rw [State.clove_setClove_same] at hrx' hmem
    exact ⟨y, hdata, hrx'.trans hrx.symm, hhalted, hheld, hmbase, hmode, hprogram, hmem⟩

end

/-! ### The tenant area -/

theorem tenantWord_length (b : Bytes) (i : Nat) : (tenantWord b i).length = 8 := by
  have h : (sub b (1024 + 8 * i) 8).length ≤ 8 := List.length_take_le ..
  rw [tenantWord, List.length_append, List.length_replicate]
  omega

theorem Mem.tenantLoaded_none (m : Mem) {j : Nat} (hj : j < 0xC000) : (m.tenantLoaded none).byte (0x4000 + j) = 0 := by
  rw [Mem.tenantLoaded]
  exact m.byte_zero_in (by rw [tenantLo]; omega) (by omega)

theorem Mem.tenantLoaded_some (m : Mem) (b : Bytes) {j : Nat} (hj : j < b.length - 1024) :
    (m.tenantLoaded (some b)).byte (0x4000 + j) = b.getD (1024 + j) 0 := by
  have hword : j % 8 < (sub b (1024 + 8 * (j / 8)) 8).length := by
    rw [sub, List.length_take, List.length_drop]
    omega
  have hplace : 1024 + 8 * (j / 8) + j % 8 = 1024 + j := by omega
  rw [Mem.tenantLoaded, ← tenantLo, Mem.byte_putWords _ (fun i _ => tenantWord_length b i) (by omega), tenantWord,
    List.getD_append _ _ _ _ hword, sub, List.getD_eq_getElem?_getD, List.getElem?_take_of_lt (by omega), List.getElem?_drop, hplace,
    ← List.getD_eq_getElem?_getD]

theorem cloveLoaded_of_installed {u : State} {y : Clove} {c mbase : Nat} {e : BitVec 512} {b : Bytes}
    (h : Installed c mbase (ef e 12 4) (if ef e 11 1 = 0 then none else some b) u y) : CloveLoaded e b y := by
  unfold CloveLoaded
  split
  · next hnone =>
    rw [h.program, h.localMem, if_pos hnone]
    exact ⟨rfl, fun j hj => Mem.tenantLoaded_none _ hj⟩
  · next hsome =>
    rw [h.program, h.localMem, if_neg hsome]
    exact ⟨rfl, fun j hj => Mem.tenantLoaded_some _ b hj⟩

end Sys2Proof.Machine

namespace Sys2Proof.Machine

/-! ## CLOVE_LOAD (09 R281, 14 R445, R446) -/

/-- The partition and the core that CLOVE_LOAD names, and the image that it reads. -/
def loadPart (c : InFlight) : Nat := (cmdPart c.via Op.cloveLoad c.entry).getD 0
def loadChan (e : BitVec 512) : Nat := 32 * ef e 9 1 + ef e 10 1
def loadImage (e : BitVec 512) (b : Bytes) : Option Bytes := if ef e 11 1 = 0 then none else some b

/-- What the load leaves: a core that has been loaded, or one whose queue, if it is the partition's and HALTED, has been completed. -/
def State.cloveLoaded (s : State) (c : InFlight) (b : Bytes) (h : HostKind) : State :=
  let e := c.entry
  if s.cloveLoadStatus e (loadPart c) (loadChan e) b h = St.ok then
    s.cloveInstall (loadChan e) (ef e 28 4) (ef e 32 8) (ef e 40 4) (ef e 12 4) (loadImage e b)
  else if s.partOfChan (loadChan e) = some (loadPart c) ∧ (s.clove (loadChan e)).halted = true then s.cFlush (loadChan e) 16 else s

theorem State.cloveLoaded_inflight (s : State) (c : InFlight) (b : Bytes) (h : HostKind) :
    (s.cloveLoaded c b h).loupe.inflight = s.loupe.inflight := by
  have hidle : Idle (fun _ => False) s := fun _ hfalse => hfalse.elim
  unfold State.cloveLoaded
  dsimp only
  split
  · exact (State.cloveInstall_spares _ _ _ _ _ _ _ (.inl hidle)).inflight
  split
  · exact (State.cFlush_spares hidle _ _).inflight
  · rfl

section
variable {s : State} {k : Nat} {c : InFlight} (hc : Fetched s k c) (hop : c.opcode = Op.cloveLoad) (a : Bytes) (h : HostKind)
include hc hop

/-- A core that runs a command of the partition's lets the load wait. -/
theorem Fetched.exec_cloveLoad_waits (hheld : (s.clove (loadChan c.entry)).held.isSome = true)
    (hmine : s.partOfChan (loadChan c.entry) = some (loadPart c)) (hhalted : (s.clove (loadChan c.entry)).halted = false) :
    exec (.cloveLoad k a h) s = .next s := by
  have hrun : exec (.cloveLoad k a h) s = execCloveLoad k a h s := rfl
  rw [hrun]
  unfold execCloveLoad
  rw [hc.1]
  exact (if_neg (not_not.2 hop)).trans (if_pos ⟨hheld, hmine, by simpa [loadChan] using hhalted⟩)

theorem Fetched.exec_cloveLoad (hfree : ¬ ((s.clove (loadChan c.entry)).held.isSome = true ∧
      s.partOfChan (loadChan c.entry) = some (loadPart c) ∧ (s.clove (loadChan c.entry)).halted = false)) :
    exec (.cloveLoad k a h) s = .next ((s.cloveLoaded c (hostBytes (ef c.entry 24 4) a) h).ended k c
      ⟨s.cloveLoadStatus c.entry (loadPart c) (loadChan c.entry) (hostBytes (ef c.entry 24 4) a) h, 0, []⟩) := by
  have hrun : exec (.cloveLoad k a h) s = execCloveLoad k a h s := rfl
  rw [hrun]
  unfold execCloveLoad
  rw [hc.1]
  refine (if_neg (not_not.2 hop)).trans ((if_neg ?_).trans (congrArg Host.Outcome.next (hc.perform hop rfl ?_ ?_)))
  · simpa [loadChan, loadPart] using hfree
  · dsimp only
    rw [hostBytes_eq]
    generalize hostBytes (ef c.entry 24 4) a = b
    unfold State.cloveLoaded State.cloveLoadStatus loadPart loadChan loadImage
    dsimp only
    simp only [Bool.not_eq_true', fail, okWith]
    split
    · exact congrArg (Prod.mk _) (if_neg (by decide)).symm
    split
    · exact congrArg (Prod.mk _) (if_neg (by decide)).symm
    split
    · exact congrArg (Prod.mk _) (if_neg (by decide)).symm
    split
    · exact congrArg (Prod.mk _) (if_pos rfl).symm
    split
    · exact congrArg (Prod.mk _) (if_neg (by decide)).symm
    split
    · exact congrArg (Prod.mk _) (if_neg (by decide)).symm
    cases cloveImageOk b with
    | false => exact congrArg (Prod.mk _) (if_neg (by decide)).symm
    | true => exact congrArg (Prod.mk _) (if_pos rfl).symm
  · exact s.cloveLoaded_inflight c _ h

end

/-- The load's outcomes: its status, what a load that fails leaves, and what one that succeeds leaves of the core. -/
theorem cloveLoad_outcomes {s : State} {k : Nat} {c : InFlight} (hc : Fetched s k c) (hop : c.opcode = Op.cloveLoad) (a : Bytes)
    (h : HostKind) :
    let e := c.entry
    let ch := loadChan e
    let x := s.clove ch
    let mine : Prop := s.partOfChan ch = some (loadPart c)
    let b := hostBytes (ef e 24 4) a
    let status := s.cloveLoadStatus e (loadPart c) ch b h
    let busy : Prop := x.held.isSome = true ∧ mine ∧ x.halted = false
    (busy → exec (.cloveLoad k a h) s = .next s) ∧ (¬ busy →
      (∃ t, exec (.cloveLoad k a h) s = .next t ∧ Told t k ⟨status, 0, []⟩) ∧
      (status ≠ St.ok → ¬ mine ∨ x.halted = false → exec (.cloveLoad k a h) s = .next (s.ended k c ⟨status, 0, []⟩)) ∧
      (status = St.ok → x.rx = [] → ∃ t, exec (.cloveLoad k a h) s = .next t ∧ t.cores = s.cores ∧ t.parts = s.parts ∧
        (t.clove ch).halted = false ∧ (t.clove ch).held = none ∧ (t.clove ch).mbase = some (ef e 32 8) ∧ (t.clove ch).machineMode = true ∧
        (∀ j, j ≠ ch → t.clove j = s.clove j) ∧ CloveLoaded e b (t.clove ch))) := by
  intro e ch x mine b status busy
  refine ⟨fun ⟨hheld, hmine, hhalted⟩ => hc.exec_cloveLoad_waits hop a h hheld hmine hhalted, fun hfree => ?_⟩
  have hrun := hc.exec_cloveLoad hop a h hfree
  refine ⟨⟨_, hrun, State.told_ended ?told _⟩, fun hfail hkept => hrun.trans ?failed, fun hok hrx => ?loaded⟩
  case told =>
    rw [s.cloveLoaded_inflight]
    exact hc.lt_length
  case failed =>
    have hsame : s.cloveLoaded c b h = s := (if_neg hfail).trans (if_neg fun ⟨hmine, hhalted⟩ =>
      hkept.elim (fun hnot => hnot hmine) fun hrunning => Bool.false_ne_true (hrunning.symm.trans hhalted))
    rw [hsame]
  case loaded =>
    obtain ⟨y, hdata, hy⟩ := s.cloveInstall_empty ch (ef e 28 4) (ef e 32 8) (ef e 40 4) (ef e 12 4) (loadImage e b) hrx
    have hloaded : s.cloveLoaded c b h = s.cloveInstall ch (ef e 28 4) (ef e 32 8) (ef e 40 4) (ef e 12 4) (loadImage e b) := if_pos hok
    rw [hloaded] at hrun
    have hcore : (s.cloveInstall ch (ef e 28 4) (ef e 32 8) (ef e 40 4) (ef e 12 4) (loadImage e b)).clove ch = y :=
      (hdata.clove ch).trans (State.clove_setClove_same ..)
    refine ⟨_, hrun, hdata.cores, hdata.parts, ?_, ?_, ?_, ?_, fun j hj => (hdata.clove j).trans (State.clove_setClove_other _ _ hj), ?_⟩
    · exact (congrArg Clove.halted hcore).trans hy.halted
    · exact (congrArg Clove.held hcore).trans hy.held
    · exact (congrArg Clove.mbase hcore).trans hy.mbase
    · exact (congrArg Clove.machineMode hcore).trans hy.machineMode
    · have hall : CloveLoaded e b y := cloveLoaded_of_installed hy
      exact hcore ▸ hall

end Sys2Proof.Machine

namespace Sys2Proof.Machine

/-! ## What an activation's steps leave of partitions (12 R356 to R358, R377, R378) -/

section
variable {s t : State} {Q : Nat → Prop} {p : Nat}

/-- Neither a fault nor a recoverable event of the work on p reaches a partition of Q: all of Q is idle, or p is, and its cores are its own. -/
def Safe (Q : Nat → Prop) (p : Nat) (s : State) : Prop :=
  Idle Q s ∨ (∀ q, Q q) ∧ (∀ n ∈ s.coresOf p, s.partOfCore n = some p) ∧ s.partIn p [.running, .paused] = false

theorem State.partOfCore_of_states (hdev : t.devFacet = s.devFacet) (hstate : ∀ q, (t.part q).state = (s.part q).state) (n : Nat) :
    t.partOfCore n = s.partOfCore n := by
  simp only [State.partOfCore, State.partOfBlock, State.ownerBy, State.rec_, hdev, hstate]

theorem State.partOfCore_of_parts (hdev : t.devFacet = s.devFacet) (hparts : ∀ q, t.part q = s.part q) (n : Nat) :
    t.partOfCore n = s.partOfCore n :=
  State.partOfCore_of_states hdev (fun q => congrArg Partition.state (hparts q)) n

theorem Safe.of_spares (hsafe : Safe Q p s) (h : Spares Q s t) : Safe Q p t := by
  rcases hsafe with hidle | ⟨hall, howned, hidle⟩
  · exact .inl (hidle.of_spares h)
  · have hparts (q : Nat) : t.part q = s.part q := h.part q (hall q)
    refine .inr ⟨hall, fun n hn => ?_, ?_⟩
    · rw [State.coresOf_of_devFacet h.devFacet] at hn
      exact (State.partOfCore_of_parts h.devFacet hparts n).trans (howned n hn)
    · rw [State.partIn, hparts]
      exact hidle

/-- A partition of Q that owns a core of p is idle. -/
theorem Safe.core (hsafe : Safe Q p s) {n q : Nat} (hn : n ∈ s.coresOf p) (hq : Q q) (howner : s.partOfCore n = some q) :
    s.partIn q [.running, .paused] = false := by
  rcases hsafe with hidle | ⟨-, howned, hidle⟩
  · exact hidle q hq
  · exact Option.some.inj (howner.symm.trans (howned n hn)) ▸ hidle

/-! ### Reads of memory and of slices -/

theorem State.loaderRead_dataOnly (s : State) (p pa n : Nat) : DataOnly s (s.loaderRead p pa n).2.2 := by
  refine List.foldlRecOn (motive := fun a : Bytes × Nat × State => DataOnly s a.2.2) _ _ (.refl s) fun a ha i _ => ?_
  dsimp only
  split
  · exact ha.trans (State.devRead_countsOnly _ _ _).dataOnly
  · exact ha

theorem State.partWrite_dataOnly (s : State) (p pa : Nat) (b : Bytes) : DataOnly s (s.partWrite p pa b) := by
  refine .foldl (fun t i => ?_) _
  dsimp only
  split
  · exact t.ccWrite_dataOnly _ _ _ _
  · exact .refl t

theorem State.putUnits_apart (s : State) (size a : Nat) (b : Bytes) : Apart s (s.putUnits size a b) := ⟨rfl, rfl, rfl, rfl⟩

theorem State.placeOne_apart (s : State) (p : Nat) (f : Facet) (r : PlaceRec) : Apart s (s.placeOne p f r).2 := by
  unfold State.placeOne
  dsimp only
  split
  · refine List.foldlRecOn (motive := fun a : Bool × State => Apart s a.2) _ _ (.refl s) fun a ha n _ => ?_
    split
    · exact (ha.trans (State.loaderRead_dataOnly _ _ _ _).apart).trans (State.putUnits_apart _ _ _ _)
    · exact ha.trans (State.putUnits_apart _ _ _ _)
  · exact (s.partWrite_dataOnly _ _ _).apart

theorem State.placeAll_apart (s : State) (p : Nat) (f : Facet) : Apart s (s.placeAll p f).2 :=
  List.foldlRecOn (motive := fun a : Option Nat × State => Apart s a.2) _ _ (.refl s) fun a ha r _ => ha.trans (a.2.placeOne_apart p f r.1)

theorem State.setSlice_apart (s : State) (n : Nat) (x : Slice) : Apart s (s.setSlice n x) := ⟨rfl, rfl, rfl, rfl⟩

/-- A beat's read may be a recoverable event of the core's partition. -/
theorem State.countBeat_spares {n : Nat} (hidle : ∀ q, Q q → s.partOfCore n = some q → s.partIn q [.running, .paused] = false) (r : BeatRes) :
    Spares Q s (s.countBeat n r) := by
  rcases r with _ | ⟨_ | l⟩ | _ | _
  case corrected.some =>
    unfold State.countBeat
    dsimp -zeta only
    extract_lets s1 s2 s3 x s4 s5
    have h3 : Apart s s3 := ((s.setField_apart ..).trans (s1.setField_apart ..)).trans (s2.setField_apart ..)
    have h4 : Apart s s4 := h3.trans (s3.setSlice_apart _ _)
    have h5 : Apart s s5 := h4.trans ((s4.setField_apart ..).trans (State.setField_apart ..))
    have howner : s5.partOfCore n = s.partOfCore n := State.partOfCore_of_parts h5.devFacet h5.part n
    split
    · split
      · next q hq =>
        refine h5.spares.trans (State.recoverable_spares (fun hqq => ?_) _ _)
        rw [State.partIn, h5.part]
        exact hidle q hqq (howner.symm.trans hq)
      · exact h5.spares
    · exact (h3.trans (s3.setSlice_apart _ _)).spares
  case clean => exact .refl s
  all_goals exact (s.setField_apart ..).spares

section
variable (hsafe : Safe Q p s)
include hsafe

theorem State.sliceRead_spares {n : Nat} (hn : n ∈ s.coresOf p) (off len : Nat) : Spares Q s (s.sliceRead n off len).2.2 := by
  refine List.foldlRecOn (motive := fun a : Bytes × Bool × State => Spares Q s a.2.2) _ _ (.refl s) fun a ha i _ => ha.trans ?_
  have hmem : n ∈ a.2.2.coresOf p := by rwa [State.coresOf_of_devFacet ha.devFacet]
  exact State.countBeat_spares (fun q hq => (hsafe.of_spares ha).core hmem hq) _

theorem State.measure_spares (r : Region) : Spares Q s (s.measure p r).2.2 := by
  unfold State.measure
  refine List.foldlRecOn (motive := fun a : Bytes × Bool × State => Spares Q s a.2.2) _ _ (.refl s) fun a ha u hu => ?_
  dsimp only
  split
  · next hkind =>
    rw [if_pos hkind] at hu
    obtain ⟨n, hn, rfl⟩ := List.mem_map.1 hu
    have hmem : n ∈ a.2.2.coresOf p := by
      rw [State.coresOf_of_devFacet ha.devFacet]
      exact List.mem_mergeSort.1 hn
    exact ha.trans (State.sliceRead_spares (hsafe.of_spares ha) hmem _ _)
  · exact ha.trans (State.loaderRead_dataOnly _ _ _ _).apart.spares

theorem State.measureAll_spares (sect off : Nat) (ws : List WeightRec) : Spares Q s (s.measureAll p sect off ws).2.2 := by
  refine List.foldlRecOn (motive := fun a : Option Rej × Bytes × State => Spares Q s a.2.2) _ _ (.refl s) fun a ha w _ => ?_
  dsimp only
  split
  · exact ha
  · exact ha.trans (State.measure_spares (hsafe.of_spares ha) _)

end

end

end Sys2Proof.Machine

namespace Sys2Proof.Machine

/-! ## What an activation configures, and what it undoes (12 R377, R379) -/

section
variable (s : State) (p : Nat) (f : Facet)

theorem State.setBlocksNow_apart (x : BState) : Apart s (s.setBlocksNow p x) := (s.setBlocksNow_only p x).apart

theorem State.zeroPart_apart : Apart s (s.zeroPart p) := by
  obtain ⟨⟨m, h⟩, -⟩ := s.zeroPart_spec p
  rw [h]
  exact ⟨rfl, rfl, rfl, rfl⟩

theorem State.startCore_apart (n : Nat) : Apart s (s.startCore f n) := ⟨rfl, rfl, rfl, rfl⟩
theorem State.setEngine_apart (d : Nat) (x : Engine) : Apart s (s.setEngine d x) := ⟨rfl, rfl, rfl, rfl⟩
theorem State.setColl_apart (i : Nat) (x : CollCtx) : Apart s (s.setColl i x) := ⟨rfl, rfl, rfl, rfl⟩

theorem State.configPart_apart : Apart s (s.configPart p f) := by
  unfold State.configPart
  exact ((Apart.foldl (fun t n => t.startCore_apart f n) _).trans (Apart.foldl (fun t d => t.setEngine_apart d _) _)).trans
    (Apart.foldl (fun t i => t.setColl_apart i _) _)

theorem State.addConn_apart (t : State) (x : Conn) : Apart t { t with conns := t.conns ++ [x] } := ⟨rfl, rfl, rfl, rfl⟩

theorem State.connect_apart : Apart s (s.connect p f) := by
  unfold State.connect
  refine Apart.trans (t := { s with conns := s.conns.filter (fun c => c.part != p) }) ⟨rfl, rfl, rfl, rfl⟩
    (.foldl (fun t e => .foldl (fun u y => ?_) _) _)
  split
  · exact .refl u
  · exact u.addConn_apart _

theorem State.connect_mem : (s.connect p f).mem = s.mem := by
  unfold State.connect
  refine (foldl_frame State.mem (fun t e _ => foldl_frame State.mem (fun u y _ => ?_) t) _).trans rfl
  split <;> rfl

theorem State.joinGroup_apart : Apart s (s.joinGroup p f) := s.setReg_apart _ _

theorem State.cloveIdle_spares {Q : Nat → Prop} (c : Nat) : Spares Q s (s.cloveIdle c) := s.setClove_spares c _

end

/-! ### The Clove cores -/

/-- No command reaches a core of L, or no partition of Q can fault. -/
def Quieted (Q : Nat → Prop) (L : List Nat) (s : State) : Prop := Idle Q s ∨ ∀ c ∈ L, (s.clove c).rx = []

section
variable {s : State} {Q : Nat → Prop} {L : List Nat}

theorem State.rx_setClove {c : Nat} {y : Clove} (hy : y.rx = []) {d : Nat} (h : (s.clove d).rx = []) : ((s.setClove c y).clove d).rx = [] := by
  by_cases hd : d = c
  · rw [hd, State.clove_setClove_same, hy]
  · rwa [State.clove_setClove_other _ _ hd]

theorem State.loseProgram_spares {c : Nat} (hc : c ∈ L) (h : Quieted Q L s) :
    Spares Q s ((s.dropMailbox c).cloveIdle c) ∧ Quieted Q L ((s.dropMailbox c).cloveIdle c) := by
  have hspares : Spares Q s ((s.dropMailbox c).cloveIdle c) :=
    (State.dropMailbox_spares (h.imp_right fun hrx => hrx c hc)).trans (State.cloveIdle_spares _ c)
  refine ⟨hspares, h.imp (fun hidle => hidle.of_spares hspares) fun hrx d hd => State.rx_setClove rfl ?_⟩
  rw [State.dropMailbox_empty (hrx c hc)]
  exact State.rx_setClove rfl (hrx d hd)

theorem State.cloveInstall_quieted {c : Nat} (hc : c ∈ L) (h : Quieted Q L s) (chbase mbase csbase limit : Nat) (image : Option Bytes) :
    Spares Q s (s.cloveInstall c chbase mbase csbase limit image) ∧ Quieted Q L (s.cloveInstall c chbase mbase csbase limit image) := by
  have hspares : Spares Q s (s.cloveInstall c chbase mbase csbase limit image) :=
    State.cloveInstall_spares _ _ _ _ _ _ _ (h.imp_right fun hrx => hrx c hc)
  refine ⟨hspares, h.imp (fun hidle => hidle.of_spares hspares) fun hrx d hd => ?_⟩
  obtain ⟨y, hdata, hy⟩ := s.cloveInstall_empty c chbase mbase csbase limit image (hrx c hc)
  rw [hdata.clove]
  exact State.rx_setClove (hy.rx.trans (hrx c hc)) (hrx d hd)

/-- The load of one Clove record, until one is rejected. -/
def State.loadClove (f : Facet) (a : Option CloveRec × State) (r : CloveRec) : Option CloveRec × State :=
  if a.1.isSome then a else
  let img := (f.blobs.find? (fun x => x.1 == r.image)).map (·.2) |>.getD []
  if r.tenant ∧ !cloveImageOk img then (some r, a.2)
  else (none, a.2.cloveInstall r.chan r.chbase r.mbase r.csbase (if r.limit = 0 then 1000000 else r.limit)
    (if r.tenant then some img else none))

theorem State.loadCloves_eq (s : State) (p : Nat) (f : Facet) : s.loadCloves p f = f.cloves.foldl (State.loadClove f)
    (none, ((s.chansOf p).filter (fun c => !f.cloves.any (fun r => r.chan == c))).foldl (fun s c => (s.dropMailbox c).cloveIdle c) s) := rfl

theorem State.loadClove_spares {f : Facet} {a : Option CloveRec × State} {r : CloveRec} (hr : r.chan ∈ L) (hspares : Spares Q s a.2)
    (hquiet : Quieted Q L a.2) : Spares Q s (State.loadClove f a r).2 ∧ Quieted Q L (State.loadClove f a r).2 := by
  unfold State.loadClove
  dsimp only
  split
  · exact ⟨hspares, hquiet⟩
  split
  · exact ⟨hspares, hquiet⟩
  · have hone := State.cloveInstall_quieted hr hquiet
    exact ⟨hspares.trans (hone _ _ _ _ _).1, (hone _ _ _ _ _).2⟩

theorem State.loadCloves_spares {p : Nat} {f : Facet} (h : Quieted Q (s.chansOf p ++ f.cloves.map (·.chan)) s) :
    Spares Q s (s.loadCloves p f).2 := by
  rw [State.loadCloves_eq]
  have hlost := List.foldlRecOn (motive := fun t : State => Spares Q s t ∧ Quieted Q (s.chansOf p ++ f.cloves.map (·.chan)) t)
    ((s.chansOf p).filter (fun c => !f.cloves.any (fun r => r.chan == c))) (fun s c => (s.dropMailbox c).cloveIdle c) ⟨.refl s, h⟩
    fun t ⟨hspares, hquiet⟩ c hc => by
      obtain ⟨hone, hone'⟩ := State.loseProgram_spares (List.mem_append_left _ (List.mem_filter.1 hc).1) hquiet
      exact ⟨hspares.trans hone, hone'⟩
  generalize List.foldl _ s _ = u at hlost ⊢
  exact (List.foldlRecOn (motive := fun a : Option CloveRec × State => Spares Q s a.2 ∧ Quieted Q (s.chansOf p ++ f.cloves.map (·.chan)) a.2)
    f.cloves (State.loadClove f) hlost fun a ⟨hspares, hquiet⟩ r hr =>
      State.loadClove_spares (List.mem_append_right _ (List.mem_map_of_mem hr)) hspares hquiet).1

end

/-! ### Announcements (16 R504, R506) -/

section
variable (s : State)

theorem State.sendBytes_apart (q : Nat) (b : Bytes) : Apart s (s.sendBytes q b) := by
  have hemit : Apart s (s.emit q b) := by
    obtain ⟨cs, htally⟩ := s.tally_only none 5 (Cnt.fab q 0) b.length
    rw [State.emit, htally]
    exact ⟨rfl, rfl, rfl, rfl⟩
  unfold State.sendBytes
  dsimp only
  split
  · exact .refl s
  split
  · exact hemit
  · exact hemit
  · split
    · exact hemit
    · exact ⟨rfl, rfl, rfl, rfl⟩
  · split
    · exact hemit
    · exact ⟨rfl, rfl, rfl, rfl⟩
  · exact .refl s

theorem State.putSession_apart (x : Session) : Apart s (s.putSession x) := ⟨rfl, rfl, rfl, rfl⟩

theorem State.sendSpdm_apart (q dev code : Nat) : Apart s (s.sendSpdm q dev code) :=
  Apart.trans (t := { s with freeCtr := s.freeCtr + 1 }) ⟨rfl, rfl, rfl, rfl⟩ (State.sendBytes_apart _ _ _)

theorem State.openSession_apart (q dev : Nat) : Apart s (s.openSession q dev) := by
  unfold State.openSession
  split
  · exact .refl s
  · exact (s.putSession_apart _).trans (State.sendSpdm_apart _ _ _ _)

theorem State.sendSealed_apart (dev : Nat) (msg : Bytes) : Apart s (s.sendSealed dev msg) := by
  unfold State.sendSealed
  split
  · split
    · exact (s.putSession_apart _).trans (State.sendBytes_apart _ _ _)
    · exact .refl s
  · exact .refl s

theorem State.useSession_apart (dev : Nat) : Apart s (s.useSession dev) := by
  unfold State.useSession
  split
  · split
    · exact s.putSession_apart _
    · exact .refl s
  · exact .refl s

theorem State.announce_apart (p k : Nat) (peer : Nat × Nat) : Apart s (s.announce p k peer) := by
  unfold State.announce
  dsimp only
  split
  · exact s.openSession_apart _ _
  · exact (s.sendSealed_apart _ _).trans (State.useSession_apart _ _)

theorem State.announceAll_apart (p : Nat) (want : Nat → Nat × Nat → Bool) : Apart s (s.announceAll p want) :=
  .foldl (fun _ k => .foldl (fun u y => u.announce_apart p k y) _) _

end

end Sys2Proof.Machine

namespace Sys2Proof.Machine

/-! ## FACET_ACTIVATE of a partition (12 R376 to R380) -/

/-- Partition x with nothing of a facet in it. -/
def Partition.unplaced (x : Partition) : Partition :=
  { x with state := .configured, staged := none, facet := Facet.none, facetDigest := 0, weightDigest := 0, imageId := 0, signed := false }

/-- Partition x LOADED with the image y, whose weights have the digest wd. -/
def Partition.loadedWith (x : Partition) (y : Staged) (wd : Nat) : Partition :=
  { x with
    state := .loaded, staged := none, facetDigest := y.digest, weightDigest := wd, imageId := (parseFacet y.bytes).imageId,
    signed := fxSigned y.bytes, entryStep := BitVec.ofNat 64 (parseFacet y.bytes).glob.entryStep, relocated := false, stepLogPos := 0,
    collLog := [], collLogPos := 0 }

/-- A failed activation leaves p CONFIGURED without a facet, its cores cleared, and other partitions alone. -/
theorem State.rollback_spec (s : State) (p : Nat) : (s.rollback p).loupe.inflight = s.loupe.inflight ∧
    (s.rollback p).part p = (s.part p).unplaced ∧ (∀ q, q ≠ p → (s.rollback p).part q = s.part q) ∧
      CoresZero (s.rollback p) (s.coresOf p) := by
  have hzero := (s.zeroPart_spec p).2
  have hclear := s.zeroPart_apart p
  unfold State.rollback
  dsimp only
  generalize s.zeroPart p = t at hzero hclear ⊢
  have hidle : Spares (fun _ => True) t ((t.chansOf p).foldl (fun s c => s.cloveIdle c) t) ∧
      ((t.chansOf p).foldl (fun s c => s.cloveIdle c) t).mem = t.mem :=
    List.foldlRecOn (motive := fun u : State => Spares (fun _ => True) t u ∧ u.mem = t.mem) _ _ ⟨.refl t, rfl⟩
      fun u ⟨hspares, hmem⟩ c _ => ⟨hspares.trans (u.cloveIdle_spares c), hmem⟩
  generalize (t.chansOf p).foldl (fun s c => s.cloveIdle c) t = u at hidle ⊢
  obtain ⟨hspares, hmem⟩ := hidle
  generalize hv : u.setPart p _ = v
  have hconfig := ((v.configPart_apart p Facet.none).trans (State.connect_apart _ p Facet.none)).trans (State.joinGroup_apart _ p Facet.none)
  have hconfigMem : (((v.configPart p Facet.none).connect p Facet.none).joinGroup p Facet.none).mem = v.mem :=
    (State.connect_mem _ p Facet.none).trans (v.configPart_reconfigured p Facet.none).mem
  generalize ((v.configPart p Facet.none).connect p Facet.none).joinGroup p Facet.none = x at hconfig hconfigMem ⊢
  have hlower := hconfig.trans (x.setBlocksNow_apart p .off)
  have hzeroed := x.setBlocksNow_zeroed p .off
  have hpart (q : Nat) : u.part q = s.part q := (hspares.part q trivial).trans (hclear.part q)
  refine ⟨?_, ?_, fun q hq => ?_, fun n hn o ho => (hzeroed _).1 ?_⟩
  · rw [hlower.inflight, ← hv]
    exact hspares.inflight.trans hclear.inflight
  · rw [hlower.part, ← hv, State.part_setPart_same, hpart]
    rfl
  · rw [hlower.part, ← hv, State.part_setPart_other _ _ hq, hpart]
  · rw [hconfigMem, ← hv]
    exact (congrArg (fun m : Mem => m.byte _) hmem).trans (hzero n hn o ho)

/-! ### The stages of an activation -/

section
variable (s : State) (p : Nat) (y : Staged) (bad sect : Nat)

/-- The partition's blocks are raised and its memories cleared, and the command counts. -/
def State.begun : State :=
  let u := (s.setBlocksNow p .active).zeroPart p
  u.setPart p { u.part p with facet := parseFacet y.bytes, inc := ((u.part p).inc + 1) % 65536 }

/-- The reread, the placement, the configuration with the Clove images, and the measurement, each with what it finds. -/
def State.rereadStage : Option Rej × State := (s.begun p y).reread y bad sect
def State.placeStage : Option Nat × State := (s.rereadStage p y bad sect).2.placeAll p (parseFacet y.bytes)
def State.cloveStage : Option CloveRec × State :=
  ((((s.placeStage p y bad sect).2.configPart p (parseFacet y.bytes)).connect p (parseFacet y.bytes)).joinGroup p (parseFacet y.bytes)).loadCloves p
    (parseFacet y.bytes)
def State.measureStage : Option Rej × Nat × State :=
  (s.cloveStage p y bad sect).2.measureAll p (((fxOf y.bytes Sx.weights).head?.map (·.idx)).getD noSect)
    (((fxOf y.bytes Sx.weights).head?.map (·.off)).getD 0) (parseFacet y.bytes).weights

/-- The state that a good activation leaves, with the partition LOADED. -/
def State.placed : State :=
  let m := s.measureStage p y bad sect
  let u := m.2.2.clearPart p (parseFacet y.bytes)
  u.setPart p ((u.part p).loadedWith y m.2.1)

/-- A state in which an activation may find that it fails. -/
def State.Stage (v : State) : Prop := v = (s.rereadStage p y bad sect).2 ∨ v = (s.placeStage p y bad sect).2 ∨
  v = (s.cloveStage p y bad sect).2 ∨ v = (s.measureStage p y bad sect).2.2

/-- An activation goes on from stage to stage, and is undone at the first that finds something. -/
theorem State.activate_eq (via : Via) : s.activate via p y bad sect =
    let undo (v : State) (r : Rej) : Result × State := (rejected via (parseFacet y.bytes).imageId r, v.rollback p)
    match (s.rereadStage p y bad sect).1 with
    | some r => undo (s.rereadStage p y bad sect).2 r
    | none =>
      match (s.placeStage p y bad sect).1 with
      | some i => undo (s.placeStage p y bad sect).2 (placeRej y.bytes i)
      | none =>
        match (s.cloveStage p y bad sect).1 with
        | some r => undo (s.cloveStage p y bad sect).2 ⟨0x30, r.image, noRec, noOff⟩
        | none =>
          match (s.measureStage p y bad sect).1 with
          | some r => undo (s.measureStage p y bad sect).2.2 r
          | none => (⟨St.ok, 0, facetRecord 0 noSect noRec noOff y.digest (s.measureStage p y bad sect).2.1 (parseFacet y.bytes).imageId⟩,
              ((s.placed p y bad sect).setBlocksNow p .retain).announceAll p (fun _ _ => true)) := by
  have hidx (o : Option Sect) : (o.map (·.idx)).getD noSect = match o with | some x => x.idx | none => noSect := by cases o <;> rfl
  have hoff (o : Option Sect) : (o.map (·.off)).getD 0 = match o with | some x => x.off | none => 0 := by cases o <;> rfl
  unfold State.placed State.measureStage
  rw [hidx, hoff]
  rfl

/-- The rejection of an activation is that of the first stage that finds something. -/
theorem State.activateRej_eq : s.activateRej p y bad sect =
    (s.rereadStage p y bad sect).1.or (((s.placeStage p y bad sect).1.map (placeRej y.bytes)).or
      (((s.cloveStage p y bad sect).1.map fun r => ⟨0x30, r.image, noRec, noOff⟩).or (s.measureStage p y bad sect).1)) := rfl

variable {s p y bad sect}

theorem State.activate_rejected {r : Rej} (h : s.activateRej p y bad sect = some r) (via : Via) :
    ∃ v, s.Stage p y bad sect v ∧ s.activate via p y bad sect = (rejected via (parseFacet y.bytes).imageId r, v.rollback p) := by
  rw [State.activateRej_eq] at h
  rw [State.activate_eq]
  unfold State.Stage
  cases hreread : (s.rereadStage p y bad sect).1 with
  | some r' =>
    rw [hreread] at h
    exact ⟨_, .inl rfl, by rw [← Option.some.inj h]⟩
  | none =>
    cases hplace : (s.placeStage p y bad sect).1 with
    | some i =>
      rw [hreread, hplace] at h
      exact ⟨_, .inr (.inl rfl), by rw [← Option.some.inj h]⟩
    | none =>
      cases hclove : (s.cloveStage p y bad sect).1 with
      | some i =>
        rw [hreread, hplace, hclove] at h
        exact ⟨_, .inr (.inr (.inl rfl)), by rw [← Option.some.inj h]⟩
      | none =>
        rw [hreread, hplace, hclove] at h
        have hmeasure : (s.measureStage p y bad sect).1 = some r := h
        exact ⟨_, .inr (.inr (.inr rfl)), by rw [hmeasure]⟩

theorem State.activate_good (h : s.activateRej p y bad sect = none) (via : Via) : s.activate via p y bad sect =
    (⟨St.ok, 0, facetRecord 0 noSect noRec noOff y.digest (s.measureStage p y bad sect).2.1 (parseFacet y.bytes).imageId⟩,
      ((s.placed p y bad sect).setBlocksNow p .retain).announceAll p (fun _ _ => true)) := by
  rw [State.activateRej_eq] at h
  simp only [Option.or_eq_none_iff, Option.map_eq_none_iff] at h
  obtain ⟨hreread, hplace, hclove, hmeasure⟩ := h
  rw [State.activate_eq, hreread, hplace, hclove, hmeasure]

end

end Sys2Proof.Machine

namespace Sys2Proof.Machine

/-! ## What an activation leaves of partitions (12 R378 to R380) -/

section
variable {s : State} {Q : Nat → Prop} {p : Nat} {y : Staged} {bad sect : Nat}

/-- The activation's start: the partition has the new facet and counts, and the rest stands. -/
theorem State.begun_spec (s : State) (p : Nat) (y : Staged) : ∃ t, Apart s t ∧ s.begun p y = t.setPart p { s.part p with
    facet := parseFacet y.bytes, inc := ((s.part p).inc + 1) % 65536 } := by
  have hclear := (s.setBlocksNow_apart p .active).trans (State.zeroPart_apart _ p)
  refine ⟨_, hclear, ?_⟩
  unfold State.begun
  dsimp only
  rw [hclear.part]

theorem State.begun_part (s : State) (p : Nat) (y : Staged) : (s.begun p y).part p = { s.part p with
    facet := parseFacet y.bytes, inc := ((s.part p).inc + 1) % 65536 } := by
  obtain ⟨t, -, h⟩ := s.begun_spec p y
  rw [h, State.part_setPart_same]

theorem State.begun_spares (s : State) (p : Nat) (y : Staged) : Spares (· ≠ p) s (s.begun p y) := by
  obtain ⟨t, hapart, h⟩ := s.begun_spec p y
  rw [h]
  exact hapart.spares.trans (t.setPart_spares _ fun hne => hne rfl)

theorem State.begun_clove (s : State) (p : Nat) (y : Staged) (c : Nat) : (s.begun p y).clove c = s.clove c := by
  obtain ⟨t, hapart, h⟩ := s.begun_spec p y
  rw [h]
  exact hapart.clove c

theorem State.begun_state (s : State) (p : Nat) (y : Staged) (q : Nat) : ((s.begun p y).part q).state = (s.part q).state := by
  by_cases hq : q = p
  · rw [hq, State.begun_part]
  · rw [(s.begun_spares p y).part q hq]

theorem Quieted.of_apart {t : State} {L : List Nat} (hquiet : Quieted Q L s) (h : Apart s t) : Quieted Q L t :=
  hquiet.imp (fun hidle => hidle.of_spares h.spares) fun hrx c hc => by rw [h.clove, hrx c hc]

/-- What an activation's stages leave of the partitions that no fault reaches. -/
theorem State.Stage.spares {v : State} (hv : s.Stage p y bad sect v) (hsafe : Safe Q p (s.begun p y))
    (hquiet : Quieted Q (s.chansOf p ++ (parseFacet y.bytes).cloves.map (·.chan)) (s.begun p y)) : Spares Q (s.begun p y) v := by
  have hreread : Apart (s.begun p y) (s.rereadStage p y bad sect).2 := (State.reread_dataOnly _ y bad sect).apart
  have hplace : Apart (s.begun p y) (s.placeStage p y bad sect).2 := hreread.trans (State.placeAll_apart _ p _)
  have hjoin := ((hplace.trans (State.configPart_apart _ p (parseFacet y.bytes))).trans (State.connect_apart _ p (parseFacet y.bytes))).trans
    (State.joinGroup_apart _ p (parseFacet y.bytes))
  have hchans : State.chansOf _ p = s.chansOf p := State.chansOf_of_devFacet (hjoin.devFacet.trans (s.begun_spares p y).devFacet) p
  have hclove : Spares Q (s.begun p y) (s.cloveStage p y bad sect).2 :=
    hjoin.spares.trans (State.loadCloves_spares (hchans.symm ▸ hquiet.of_apart hjoin))
  rcases hv with rfl | rfl | rfl | rfl
  · exact hreread.spares
  · exact hplace.spares
  · exact hclove
  · exact hclove.trans (State.measureAll_spares (hsafe.of_spares hclove) _ _ _)

/-- A partition that may activate an image is idle. -/
theorem State.idle_of_settled (h : s.partIn p [.configured, .loaded, .stopped, .faulted] = true) : s.partIn p [.running, .paused] = false := by
  unfold State.partIn at h ⊢
  cases hstate : (s.part p).state <;> rw [hstate] at h <;> revert h <;> decide

theorem State.begun_idle (hidle : s.partIn p [.running, .paused] = false) : (s.begun p y).partIn p [.running, .paused] = false := by
  rw [State.partIn, State.begun_state]
  exact hidle

/-- The stages of an activation leave the activated partition as its start has it. -/
theorem State.Stage.own {v : State} (hv : s.Stage p y bad sect v) (hidle : s.partIn p [.running, .paused] = false) :
    Spares (· = p) (s.begun p y) v := by
  have hall : Idle (· = p) (s.begun p y) := by
    rintro q rfl
    exact State.begun_idle hidle
  exact hv.spares (.inl hall) (.inl hall)

/-- They leave other partitions alone when the activated one owns its cores and no command reaches its Clove cores. -/
theorem State.Stage.others {v : State} (hv : s.Stage p y bad sect v) (hidle : s.partIn p [.running, .paused] = false)
    (hown : ∀ n ∈ s.coresOf p, s.partOfCore n = some p)
    (hrx : ∀ c ∈ s.chansOf p ++ (parseFacet y.bytes).cloves.map (·.chan), (s.clove c).rx = []) {q : Nat} (hq : q ≠ p) :
    v.part q = s.part q := by
  have hbegun := s.begun_spares p y
  have howned : ∀ n ∈ (s.begun p y).coresOf p, (s.begun p y).partOfCore n = some p := fun n hn => by
    rw [State.coresOf_of_devFacet hbegun.devFacet] at hn
    rw [State.partOfCore_of_states hbegun.devFacet (s.begun_state p y), hown n hn]
  have hspares : Spares (fun _ => True) (s.begun p y) v := hv.spares (.inr ⟨fun _ => trivial, howned, State.begun_idle hidle⟩)
    (.inr fun c hc => by rw [State.begun_clove, hrx c hc])
  exact (hspares.part q trivial).trans (hbegun.part q hq)

/-! ### The units of a partition at the entry step (12 R377) -/

theorem State.setRouter_apart (s : State) (n : Nat) (x : Router) : Apart s (s.setRouter n x) := ⟨rfl, rfl, rfl, rfl⟩
theorem State.setAtt_apart (s : State) (i : Nat) (x : Attach) : Apart s (s.setAtt i x) := ⟨rfl, rfl, rfl, rfl⟩
theorem State.setXing_apart (s : State) (i : Nat) (x : Xing) : Apart s (s.setXing i x) := ⟨rfl, rfl, rfl, rfl⟩

theorem State.resetCore_apart (s : State) (f : Facet) (n : Nat) : Apart s (s.resetCore f n) := by
  unfold State.resetCore
  exact ((Apart.foldl (fun t o => t.setReg_apart o _) _).trans (State.setCore_apart _ _ _)).trans (State.setRouter_apart _ _ _)

theorem State.clearPart_spec (s : State) (p : Nat) (f : Facet) : ∃ t x, Apart s t ∧ s.clearPart p f = t.setPart p x ∧
    x.inc = (s.part p).inc ∧ x.facet = (s.part p).facet := by
  unfold State.clearPart
  extract_lets +onlyGivenNames -merge s1 s2 s3 s4 engine s5 ctx s6 s7
  have h2 : Apart s s2 := (Apart.foldl (fun t n => t.resetCore_apart f n) _).trans (s1.setField_apart ..)
  have h4 : Apart s s4 := (h2.trans (.foldl (fun t i => t.setAtt_apart i _) _)).trans (.foldl (fun t e => t.setXing_apart _ _) _)
  have h5 : Apart s s5 := h4.trans (.foldl (fun t d => (t.setEngine_apart d _).trans (State.setReg_apart _ _ _)) _)
  have h6 : Apart s s6 := h5.trans (.foldl (fun t i => (t.setColl_apart i _).trans (State.setReg_apart _ _ _)) _)
  have h7 : Apart s s7 := h6.trans (.foldl (fun t n => t.setSlice_apart n _) _)
  have hinc : (s7.part p).inc = (s.part p).inc := congrArg Partition.inc (h7.part p)
  have hfacet : (s7.part p).facet = (s.part p).facet := congrArg Partition.facet (h7.part p)
  exact ⟨s7, _, h7, rfl, hinc, hfacet⟩

/-! ### The outcomes -/

section
variable (via : Via) (hidle : s.partIn p [.running, .paused] = false)
include hidle

/-- A rejected activation counts, and leaves the partition CONFIGURED without a facet and its cores cleared. -/
theorem State.activate_rejected_spec {r : Rej} (h : s.activateRej p y bad sect = some r) :
    ∃ t, s.activate via p y bad sect = (rejected via (parseFacet y.bytes).imageId r, t) ∧ t.loupe.inflight = s.loupe.inflight ∧
      (∃ x : Partition, x.inc = ((s.part p).inc + 1) % 65536 ∧ t.part p = x.unplaced) ∧ CoresZero t (s.coresOf p) ∧
      ((∀ n ∈ s.coresOf p, s.partOfCore n = some p) →
        (∀ c ∈ s.chansOf p ++ (parseFacet y.bytes).cloves.map (·.chan), (s.clove c).rx = []) → ∀ q, q ≠ p → t.part q = s.part q) := by
  obtain ⟨v, hstage, heq⟩ := State.activate_rejected h via
  have hown := hstage.own hidle
  have hbegun := s.begun_spares p y
  obtain ⟨hinflight, hpart, hothers, hzero⟩ := v.rollback_spec p
  rw [State.coresOf_of_devFacet (hown.devFacet.trans hbegun.devFacet)] at hzero
  refine ⟨_, heq, hinflight.trans (hown.inflight.trans hbegun.inflight), ⟨v.part p, ?_, hpart⟩, hzero, fun howned hrx q hq => ?_⟩
  · rw [hown.part p rfl, State.begun_part]
  · exact (hothers q hq).trans (hstage.others hidle howned hrx hq)

/-- A good activation counts, and leaves the partition LOADED with its facet and digests. -/
theorem State.activate_good_spec (h : s.activateRej p y bad sect = none) :
    ∃ t, s.activate via p y bad sect = (⟨St.ok, 0, facetRecord 0 noSect noRec noOff y.digest (s.measureStage p y bad sect).2.1
        (parseFacet y.bytes).imageId⟩, t) ∧ t.loupe.inflight = s.loupe.inflight ∧
      (∃ x : Partition, x.inc = ((s.part p).inc + 1) % 65536 ∧ x.facet = parseFacet y.bytes ∧
        t.part p = x.loadedWith y (s.measureStage p y bad sect).2.1) ∧
      ((∀ n ∈ s.coresOf p, s.partOfCore n = some p) →
        (∀ c ∈ s.chansOf p ++ (parseFacet y.bytes).cloves.map (·.chan), (s.clove c).rx = []) → ∀ q, q ≠ p → t.part q = s.part q) := by
  have hstage : s.Stage p y bad sect (s.measureStage p y bad sect).2.2 := .inr (.inr (.inr rfl))
  have hown := hstage.own hidle
  obtain ⟨u, x, hclear, hcleared, hinc, hfacet⟩ := (s.measureStage p y bad sect).2.2.clearPart_spec p (parseFacet y.bytes)
  have hplaced : s.placed p y bad sect = (u.setPart p x).setPart p (x.loadedWith y (s.measureStage p y bad sect).2.1) := by
    unfold State.placed
    dsimp only
    rw [hcleared, State.part_setPart_same]
  have hlast := (State.setBlocksNow_apart (s.placed p y bad sect) p .retain).trans (State.announceAll_apart _ p (fun _ _ => true))
  refine ⟨_, State.activate_good h via, ?_, ⟨x, ?_, ?_, ?_⟩, fun howned hrx q hq => ?_⟩
  · rw [hlast.inflight, hplaced]
    exact hclear.inflight.trans (hown.inflight.trans (s.begun_spares p y).inflight)
  · rw [hinc, hown.part p rfl, State.begun_part]
  · rw [hfacet, hown.part p rfl, State.begun_part]
  · rw [hlast.part, hplaced, State.part_setPart_same]
  · rw [hlast.part, hplaced, State.part_setPart_other _ _ hq, State.part_setPart_other _ _ hq, hclear.part]
    exact hstage.others hidle howned hrx hq

end

end

end Sys2Proof.Machine

namespace Sys2Proof.Machine

/-! ## FACET_ACTIVATE of a partition, every outcome (12 R376 to R380) -/

/-- No Clove core of partition p runs a command (09 R281). -/
def State.clovesFree (s : State) (p : Nat) : Prop := ∀ h ∈ s.chansOf p, (s.clove h).held = none ∨ (s.clove h).halted = true

/-- Partition p may be activated by command k: its state allows it and nothing holds it (12 R376). -/
def State.mayActivate (s : State) (k p : Nat) : Prop :=
  s.partIn p [.configured, .loaded, .stopped, .faulted] = true ∧ s.otherCmd k p = false ∧ s.filling p = false

/-- The work of FACET_ACTIVATE k on partition p. -/
def State.activateWork (k p bad sect : Nat) (s : State) (c : InFlight) : Result × State :=
  if ¬ s.partIn p [.configured, .loaded, .stopped, .faulted] ∨ s.otherCmd k p ∨ s.filling p then (busyOf Op.facetActivate, s)
  else if s.lostBlock p ∧ (s.part p).staged.isSome then
    (⟨St.noResource, 0, facetRecord 0 noSect noRec noOff 0 0 0⟩, s.putStaged (some p) none)
  else match (s.part p).staged with
    | none => (rejected c.via 0 (loneRej 0x51), s)
    | some i =>
      if fxBlocks i.bytes ≠ (s.rec_ p).blocks then (rejected c.via (fxId i.bytes) ⟨0x31, noSect, noRec, 24⟩, s.putStaged (some p) none)
      else s.activate c.via p i bad sect

section
variable {s t : State} {k p : Nat} {c : InFlight} {y : Staged} {r : Result} {bad sect : Nat}

theorem State.clovesFree_iff : s.clovesFree p ↔ (s.chansOf p).all (fun h => (s.clove h).held.isNone || (s.clove h).halted) = true := by
  simp [State.clovesFree]

theorem State.activateWork_busy (hno : ¬ s.mayActivate k p) : s.activateWork k p bad sect c = (busyOf Op.facetActivate, s) := by
  refine if_pos ?_
  unfold State.mayActivate at hno
  grind

section
variable (hmay : s.mayActivate k p)
include hmay

theorem State.not_turnedAway : ¬ (¬ s.partIn p [.configured, .loaded, .stopped, .faulted] = true ∨ s.otherCmd k p = true ∨ s.filling p = true) := by
  obtain ⟨hstate, hother, hfilling⟩ := hmay
  simp [hstate, hother, hfilling]

theorem State.activateWork_absent (hnone : (s.part p).staged = none) :
    s.activateWork k p bad sect c = (rejected c.via 0 (loneRej 0x51), s) := by
  refine (if_neg (State.not_turnedAway hmay)).trans ?_
  rw [hnone]
  exact if_neg (fun h => Bool.false_ne_true h.2)

variable (hsome : (s.part p).staged = some y)
include hsome

theorem State.activateWork_lost (hlost : s.lostBlock p = true) : s.activateWork k p bad sect c =
    (⟨St.noResource, 0, facetRecord 0 noSect noRec noOff 0 0 0⟩, s.putStaged (some p) none) :=
  (if_neg (State.not_turnedAway hmay)).trans (if_pos ⟨hlost, by rw [hsome]; rfl⟩)

variable (hheld : s.lostBlock p = false)
include hheld

theorem State.activateWork_blocks (hblocks : fxBlocks y.bytes ≠ (s.rec_ p).blocks) : s.activateWork k p bad sect c =
    (rejected c.via (fxId y.bytes) ⟨0x31, noSect, noRec, 24⟩, s.putStaged (some p) none) := by
  refine (if_neg (State.not_turnedAway hmay)).trans ((if_neg (by simp [hheld])).trans ?_)
  rw [hsome]
  exact if_pos hblocks

theorem State.activateWork_activates (hblocks : fxBlocks y.bytes = (s.rec_ p).blocks) :
    s.activateWork k p bad sect c = s.activate c.via p y bad sect := by
  refine (if_neg (State.not_turnedAway hmay)).trans ((if_neg (by simp [hheld])).trans ?_)
  rw [hsome]
  exact if_neg (not_not.2 hblocks)

end

section
variable (hc : Fetched s k c) (htarget : cmdPart c.via Op.facetActivate c.entry = some p) (bad : Fin 3)
include hc htarget

theorem Fetched.exec_activate_waits (h : s.power.brownout = true ∨ ((s.part p).staged.isSome = true ∧ ¬ s.clovesFree p)) :
    exec (.facetActivate k bad sect) s = .next s := by
  rw [State.clovesFree_iff] at h
  show execFacetActivate k bad sect s = .next s
  unfold execFacetActivate
  rw [hc.1]
  dsimp only
  rw [htarget]
  refine if_pos ?_
  rcases h with h | ⟨hsome, hbusy⟩
  · exact .inr h
  · rw [Bool.eq_false_iff.2 hbusy, ← Option.not_isSome, hsome]
    exact .inl rfl

variable (hop : c.opcode = Op.facetActivate) (hform : ef c.entry 8 1 < 128) (hpower : s.power.brownout = false)
include hop hform hpower

theorem Fetched.exec_activate (hready : (s.part p).staged = none ∨ s.clovesFree p) (hwork : s.activateWork k p bad.val sect c = (r, t))
    (hinflight : t.loupe.inflight = s.loupe.inflight) : exec (.facetActivate k bad sect) s = .next (t.ended k c r) := by
  rw [State.clovesFree_iff] at hready
  show execFacetActivate k bad sect s = _
  unfold execFacetActivate
  rw [hc.1]
  dsimp only
  rw [htarget]
  refine (if_neg ?_).trans (congrArg Host.Outcome.next (hc.perform hop (by simpa using hform) hwork hinflight))
  rcases hready with hnone | hfree
  · simp [hnone, hpower]
  · simp [hfree, hpower]

variable (hmay : s.mayActivate k p) (hsome : (s.part p).staged = some y) (hfree : s.clovesFree p) (hheld : s.lostBlock p = false)
  (hblocks : fxBlocks y.bytes = (s.rec_ p).blocks) (sect : Nat)
include hmay hsome hfree hheld hblocks

/-- What the activation of an image of the partition's own blocks leaves. -/
theorem Fetched.exec_activate_image :
    let f := parseFacet y.bytes
    let rej := s.activateRej p y bad sect
    let wd := (s.activated p y bad sect).2.2.2.2.1
    ∃ t, exec (.facetActivate k bad sect) s = .next t ∧ (t.part p).staged = none ∧ (t.part p).inc = ((s.part p).inc + 1) % 65536 ∧
      (rej = none → (t.part p).state = .loaded ∧ (t.part p).facet = f ∧ (t.part p).facetDigest = y.digest ∧ (t.part p).weightDigest = wd ∧
        (t.part p).entryStep = BitVec.ofNat 64 f.glob.entryStep ∧
        Told t k ⟨St.ok, 0, facetRecord 0 noSect noRec noOff y.digest wd f.imageId⟩) ∧
      (∀ r, rej = some r → (t.part p).state = .configured ∧ (t.part p).facet = Facet.none ∧ (t.part p).facetDigest = 0 ∧
        CoresZero t (s.coresOf p) ∧ Told t k (rejected c.via f.imageId r)) ∧
      ((∀ n ∈ s.coresOf p, s.partOfCore n = some p) → (∀ h ∈ s.chansOf p ++ f.cloves.map (·.chan), (s.clove h).rx = []) →
        ∀ q, q ≠ p → t.part q = s.part q) := by
  intro f rej wd
  have hidle := State.idle_of_settled hmay.1
  have hended (t : State) (x : Result) : (t.ended k c x).part p = t.part p := rfl
  have hwork : s.activateWork k p bad.val sect c = s.activate c.via p y bad.val sect := State.activateWork_activates hmay hsome hheld hblocks
  cases hrej : s.activateRej p y bad.val sect with
  | none =>
    obtain ⟨t, hdone, hinflight, ⟨x, hinc, hfacet, hpart⟩, hothers⟩ := State.activate_good_spec c.via hidle hrej
    refine ⟨_, hc.exec_activate htarget bad hop hform hpower (.inr hfree) (hwork.trans hdone) hinflight, ?_, ?_, fun _ => ?_,
      fun r hr => absurd (hrej.symm.trans hr) (Option.some_ne_none r).symm, hothers⟩
    all_goals rw [hended, hpart]
    · rfl
    · exact hinc
    · exact ⟨rfl, hfacet, rfl, rfl, rfl, State.told_ended (hinflight.symm ▸ hc.lt_length) _⟩
  | some r =>
    obtain ⟨t, hdone, hinflight, ⟨x, hinc, hpart⟩, hzero, hothers⟩ := State.activate_rejected_spec c.via hidle hrej
    refine ⟨_, hc.exec_activate htarget bad hop hform hpower (.inr hfree) (hwork.trans hdone) hinflight, ?_, ?_,
      fun h => absurd (hrej.symm.trans h) (Option.some_ne_none r), fun r' hr => ?_, hothers⟩
    all_goals rw [hended, hpart]
    · rfl
    · exact hinc
    · obtain rfl : r = r' := Option.some.inj (hrej.symm.trans hr)
      exact ⟨rfl, rfl, rfl, hzero, State.told_ended (hinflight.symm ▸ hc.lt_length) _⟩

end

end

end Sys2Proof.Machine

namespace Sys2Proof.Machine

/-- Settles O50: each of the commands ends in its outcomes, case by case. -/
theorem facetCommands : Obligations.FacetCommands := by
  intro s k c hc e ends lone plain len
  refine ⟨fun img h x hop => facetLoad_outcomes hc img h x hop, fun p bad sect hop hform htarget => ?_, fun bad sect hop hform => ?_,
    fun a h hop => cloveLoad_outcomes hc hop a h⟩
  · refine ⟨fun hwait => hc.exec_activate_waits htarget bad hwait, fun hpower => ⟨fun hnone => ?_, fun y hsome hfree => ?_⟩⟩
    · split
      case isTrue hmay =>
        exact hc.exec_activate htarget bad hop hform hpower (.inl hnone) (State.activateWork_absent hmay hnone) rfl
      case isFalse hno =>
        exact hc.exec_activate htarget bad hop hform hpower (.inl hnone) (State.activateWork_busy hno) rfl
    · refine ⟨fun hno => ?_, fun hmay hlost => ?_, fun hmay hheld => ⟨fun hblocks => ?_, fun hblocks => ?_⟩⟩
      · exact hc.exec_activate htarget bad hop hform hpower (.inr hfree) (State.activateWork_busy hno) rfl
      · exact hc.exec_activate htarget bad hop hform hpower (.inr hfree) (State.activateWork_lost hmay hsome hlost) (s.putStaged_inflight _ _)
      · exact hc.exec_activate htarget bad hop hform hpower (.inr hfree) (State.activateWork_blocks hmay hsome hheld hblocks)
          (s.putStaged_inflight _ _)
      · exact hc.exec_activate_image htarget bad hop hform hpower hmay hsome hfree hheld hblocks sect
  · refine ⟨fun hno => hc.exec_activateDevice_busy hop hform bad sect hno,
      fun hmay hnone => hc.exec_activateDevice_absent hop hform bad sect hmay hnone,
      fun y hmay hsome => ⟨fun hlive => hc.exec_activateDevice_live hop hform bad sect hmay hsome hlive, fun hlive => ⟨fun r hbad => ?_, fun hgood => ?_⟩⟩⟩
    · exact hc.exec_activateDevice_reread hop hform bad sect hmay hsome hlive hbad
    · exact activateDevice_good hc hop hform bad sect hmay hsome hlive hgood

end Sys2Proof.Machine
